-- ==== Sys2Proof/Word.lean ====
section
/-! DEFINITION. The word types of the Larvan L9 and their plainest arithmetic (R5, R57, R121). -/

namespace Sys2Proof

/-- A scalar register, a control register, or a tree address held in a register (R28, R57). -/
abbrev Word := BitVec 64

/-- One byte of memory (R5). -/
abbrev Byte := BitVec 8

/-- The 64 data bytes of a line (R34); byte k is bits [8k+7:8k] (R5). -/
abbrev LineData := BitVec 512

/-- A sequence of bytes, lowest address first. -/
abbrev ByteList := List Byte

/-- Bits [hi:lo] of `x` as a number (R5, R121). -/
def bitsOf {w : Nat} (x : BitVec w) (hi lo : Nat) : Nat := (x.toNat >>> lo) % 2 ^ (hi + 1 - lo)

/-- `sext(x, n)` of R122 at 64 bits. -/
def sext (x n : Nat) : Word := (BitVec.ofNat n x).signExtend 64

/-- `zext(x, n)` of R122. -/
def zext (x n : Nat) : Word := BitVec.ofNat 64 (x % 2 ^ n)

end Sys2Proof
end

