-- ==== Sys2Proof/Syntax.lean ====
section
/-! DEFINITION. The syntax: one constructor of `Instr` for each row of the table of operations and events: the 203
instruction words (R105-R120) with their fields as the word carries them, and the 116 steps of the other parties with
the operands that say which unit acts and what the message or outside input carries (95_what_each_step_holds).
Rows without operands stand last. -/

namespace Sys2Proof

/-- A resident context: core id (R17) and context number (R20). -/
structure ThreadRef where
  core : Nat
  ctx : Nat
  deriving DecidableEq, Repr

/-- Where an address resolves to (R46, R310, R311): main memory by physical address, a local store by its resolved
tree address (R47, R48), host memory by bus address (R50), a void block (R45), or a peer's granted frame (R311). -/
inductive Loc where
  | main (pa : Nat)
  | ls (a : Nat)
  | host (bus : Nat)
  | void
  | foreign (port frame : Nat)
  deriving DecidableEq, Repr

/-- Where a checked access goes, and what its leaf says of it (R313): tracked, uncached, sealed with its key slot, and the
round region its bytes lie in (R289). -/
structure Target where
  loc : Loc
  tracked : Bool := false
  uncached : Bool := false
  sealed : Bool := false
  key : Nat := 0
  region : Option Nat := none
  /-- The leaf's default residency class (R313, R325). -/
  cls : Nat := 0
  deriving DecidableEq, Repr

/-- The members of AMO, and CAS (R154, R155). -/
inductive AmoOp where
  | add | and | or | xor | min | max | minu | maxu | swp | cas (expected : Word)
  deriving DecidableEq, Repr

/-- A request of an atomic at a line's home (R153). -/
structure AtomicReq where
  t : Target
  n : Nat
  op : AmoOp
  y : Word
  who : ThreadRef
  d : BitVec 5
  deriving DecidableEq, Repr

/-- A request to a queue's home to enqueue a record (R160, R163); `call` is the reply slot of a CALLAT. -/
structure EnqueueReq where
  queue : Nat
  record : LineData
  user : Bool
  call : Option Nat
  who : ThreadRef
  d : BitVec 5
  deriving DecidableEq, Repr

/-- A request to a queue's home to dequeue into the line at `t` (R161). -/
structure DequeueReq where
  queue : Nat
  t : Target
  user : Bool
  wait : Bool
  who : ThreadRef
  d : BitVec 5
  va : Word
  deriving DecidableEq, Repr

/-- The operations a barrier message carries (R182, R187). -/
inductive BarOp where
  | init (count : Word)
  | arrive
  | expect (bytes : Word)
  | test
  | wait (phase : Bool)
  | disarmed
  deriving DecidableEq, Repr

/-- A message to a barrier (R173, R187) from the waiting sender `who`. -/
structure BarrierMsg where
  core : Nat
  index : Nat
  op : BarOp
  part : Nat
  user : Bool
  who : ThreadRef
  d : BitVec 5
  clk : Nat
  deriving DecidableEq, Repr

/-- A command line in flight to a target core or hub (R171, R172). -/
structure SendMsg where
  e : Nat
  target : Nat
  command : BitVec 32
  handle : BitVec 32
  d0 : BitVec 128
  d1 : BitVec 128
  d2 : BitVec 128
  who : ThreadRef
  d : BitVec 5
  addr : Word
  deriving DecidableEq, Repr

/-- The requests of a caching agent (R304). -/
inductive CohKind where
  | gets | getx | upg | renew
  deriving DecidableEq, Repr

/-- A request of a core's L1 to a line's home (R304), with the residency class of the leaf (R325). -/
structure CohReq where
  kind : CohKind
  line : Nat
  core : Nat
  wts : Nat
  clk : Nat
  lease : Nat
  cls : Nat
  stood : Bool := false      -- it has arrived before, and stood at the home (R305, R306)
  thread : Option ThreadRef := none   -- the thread whose access sent it (R395)
  deriving DecidableEq, Repr

/-- What a FWD is sent for (R303, R305). -/
inductive FwdKind where
  | gets | getx | recall
  deriving DecidableEq, Repr

/-- A line image with its stamps, the round at which the home served it, and the level it came from (R293, R300, R304, R396). -/
structure Stamped where
  data : LineData
  side : Word
  wts : Nat
  rts : Nat
  round : Nat
  level : Nat
  deriving DecidableEq, Repr

/-- What DATA carries besides its address: the line's image with its stamps, and the ack count of R323 (R304). -/
structure DataReply where
  img : Stamped
  acks : Nat
  deriving DecidableEq, Repr

/-- What ACKX and RNACK carry: the lease, and the ack count of R323 (R304). -/
structure LeaseReply where
  rts : Nat
  acks : Nat
  deriving DecidableEq, Repr

/-- The parties that hold translations or table copies (R317, R321). -/
inductive Party where
  | core (k : Nat)
  | hub (cluster : Nat)
  | dispenser (cluster : Nat)
  | sdie
  | regionRecord (slice region : Nat)
  deriving DecidableEq, Repr

/-- An acknowledgement of an invalidation round: who gives it, and the writer that waits for it (R317, R319). -/
structure Iack where
  party : Party
  writer : ThreadRef
  deriving DecidableEq, Repr

/-- The levels that hold views of a round region (R292). -/
inductive ViewLevel where
  | slice (id : Nat)
  | cluster (id : Nat)
  deriving DecidableEq, Repr

/-- A peer's access to memory this package granted: data, under its reader's clock and lease, atomics and JOIN, and the members of ROUND and
bounded reads on its round regions (R299, R384, R386); and the end of a grant that this package has from the switch at a port, by the grant's id: the
switch has completed its recall, or has fenced this package from it (R385). -/
inductive PeerReq where
  | read (port line clk lease : Nat)
  | write (port line : Nat) (data : LineData) (side : Word)
  | atomic (port pa n : Nat) (op : AmoOp) (y : Word)
  | publish (port region : Nat)
  | acquire (port region : Nat)
  | subscribe (port region : Nat)
  | bounded (port line region : Nat) (q : BitVec 32)
  | own (port line : Nat)
  | back (port line : Nat) (data : LineData) (side : Word)
  | fence (port line : Nat)
  | join (port pa : Nat) (user : Bool)
  | ended (port grant : Nat)
  deriving DecidableEq, Repr

/-- A host access to a register of the control window (R380): a write, or a read, which the table has no row of its own for; and the host's
establishing, or ending, IDE stream `n` (R379). -/
inductive WindowOp where
  | write (v : Word)
  | read
  | ide (n : Nat) (up : Bool)
  deriving DecidableEq, Repr

/-- A TLP of `n` bytes at an offset of BAR2 does not cross a 4 KiB boundary and lies in the 256 GiB (R379; PRESUMED, log 67). -/
def tlpOk (off n : Nat) : Bool := decide (1 ≤ n) && decide (off % 4096 + n ≤ 4096) && decide (off < 2 ^ 38)

/-- Where a TLP goes and how it has come: the offset in its window, and the IDE stream it arrives on, if any (R379, R380, R381). -/
structure TlpAddr where
  off : Nat
  stream : Option Nat
  deriving DecidableEq, Repr

/-- The value that a TLP writes to a register of the control window, and the IDE stream it arrives on, if any (R379, R380). -/
structure TlpWord where
  v : Word
  stream : Option Nat
  deriving DecidableEq, Repr

/-- A die and its wear figure (R403). -/
structure DieWear where
  die : Nat
  hours : Word
  deriving DecidableEq, Repr

/-- What the debug port reads beside registers and memory (R388). -/
inductive DebugItem where
  | slotCounter | readyHist | trace | watchReport | bargeWord (e word : Nat) | basin | barrier | round | journal
  deriving DecidableEq, Repr

/-- An access of the management controller (R399, R402, R403): a write of the power control register, or a read, which the table has no row of
its own for, of it, of the boot status, of a word of a machine-check entry, or of the wear figure. -/
inductive MgmtOp where
  | write (v : Word)
  | power | boot | wear
  | check (entry word : Nat)
  deriving DecidableEq, Repr

/-- The result of a bring-up stage (R398): done, or the error code and the failed links. -/
inductive BootResult where
  | done
  | failed (error : Nat) (links : BitVec 48)
  deriving DecidableEq, Repr

/-- The block requests that RESIDENCY and OWNERSHIP barges make at a home slice (R210, R309, R325). -/
inductive RecallKind where
  | bevict | bdemote | bown | brel | bres (cls : Nat)
  deriving DecidableEq, Repr

/-- A block request at a home slice (R305). -/
structure RecallReq where
  kind : RecallKind
  base : Nat
  height : Nat
  core : Nat
  deriving DecidableEq, Repr

/-- The operations and events of the Larvan L9, one constructor per row of the table. -/
inductive Instr where
  /-- ADD (R125). -/
  | add (d : BitVec 5) (a : BitVec 5) (b : BitVec 5)
  /-- SUB (R125). -/
  | sub (d : BitVec 5) (a : BitVec 5) (b : BitVec 5)
  /-- AND (R125). -/
  | and (d : BitVec 5) (a : BitVec 5) (b : BitVec 5)
  /-- OR (R125). -/
  | or (d : BitVec 5) (a : BitVec 5) (b : BitVec 5)
  /-- XOR (R125). -/
  | xor (d : BitVec 5) (a : BitVec 5) (b : BitVec 5)
  /-- ANDN (R125). -/
  | andn (d : BitVec 5) (a : BitVec 5) (b : BitVec 5)
  /-- ORN (R125). -/
  | orn (d : BitVec 5) (a : BitVec 5) (b : BitVec 5)
  /-- MIN (R125). -/
  | min (d : BitVec 5) (a : BitVec 5) (b : BitVec 5)
  /-- MAX (R125). -/
  | max (d : BitVec 5) (a : BitVec 5) (b : BitVec 5)
  /-- MINU (R125). -/
  | minu (d : BitVec 5) (a : BitVec 5) (b : BitVec 5)
  /-- MAXU (R125). -/
  | maxu (d : BitVec 5) (a : BitVec 5) (b : BitVec 5)
  /-- SLT (R125). -/
  | slt (d : BitVec 5) (a : BitVec 5) (b : BitVec 5)
  /-- SLTU (R125). -/
  | sltu (d : BitVec 5) (a : BitVec 5) (b : BitVec 5)
  /-- SEQ (R125). -/
  | seq (d : BitVec 5) (a : BitVec 5) (b : BitVec 5)
  /-- SNE (R125). -/
  | sne (d : BitVec 5) (a : BitVec 5) (b : BitVec 5)
  /-- MUL (R126). -/
  | mul (d : BitVec 5) (a : BitVec 5) (b : BitVec 5)
  /-- MULH (R126). -/
  | mulh (d : BitVec 5) (a : BitVec 5) (b : BitVec 5)
  /-- MULHU (R126). -/
  | mulhu (d : BitVec 5) (a : BitVec 5) (b : BitVec 5)
  /-- DIV (R126). -/
  | div (d : BitVec 5) (a : BitVec 5) (b : BitVec 5)
  /-- DIVU (R126). -/
  | divu (d : BitVec 5) (a : BitVec 5) (b : BitVec 5)
  /-- REM (R126). -/
  | rem (d : BitVec 5) (a : BitVec 5) (b : BitVec 5)
  /-- REMU (R126). -/
  | remu (d : BitVec 5) (a : BitVec 5) (b : BitVec 5)
  /-- SHL (R127). -/
  | shl (d : BitVec 5) (a : BitVec 5) (b : BitVec 5)
  /-- SHR (R127). -/
  | shr (d : BitVec 5) (a : BitVec 5) (b : BitVec 5)
  /-- SRA (R127). -/
  | sra (d : BitVec 5) (a : BitVec 5) (b : BitVec 5)
  /-- ROT (R127). -/
  | rot (d : BitVec 5) (a : BitVec 5) (b : BitVec 5)
  /-- CLZ (R127). -/
  | clz (d : BitVec 5) (a : BitVec 5)
  /-- CTZ (R127). -/
  | ctz (d : BitVec 5) (a : BitVec 5)
  /-- POPC (R127). -/
  | popc (d : BitVec 5) (a : BitVec 5)
  /-- BREV (R127). -/
  | brev (d : BitVec 5) (a : BitVec 5)
  /-- EXTS (R127). -/
  | exts (d : BitVec 5) (a : BitVec 5) (b : BitVec 5)
  /-- ZIP (R128). -/
  | zip (d : BitVec 5) (a : BitVec 5) (b : BitVec 5)
  /-- ZROW (R128). -/
  | zrow (d : BitVec 5) (a : BitVec 5)
  /-- ZCOL (R128). -/
  | zcol (d : BitVec 5) (a : BitVec 5)
  /-- ZADDR (R128). -/
  | zaddr (d : BitVec 5) (a : BitVec 5) (b : BitVec 5)
  /-- ZADDC (R128). -/
  | zaddc (d : BitVec 5) (a : BitVec 5) (b : BitVec 5)
  /-- PTRUNC (R128). -/
  | ptrunc (d : BitVec 5) (a : BitVec 5) (b : BitVec 5)
  /-- PDIG (R128). -/
  | pdig (d : BitVec 5) (a : BitVec 5) (b : BitVec 5)
  /-- PCAT (R128). -/
  | pcat (d : BitVec 5) (a : BitVec 5) (b : BitVec 5)
  /-- ADDI (R130). -/
  | addi (d : BitVec 5) (a : BitVec 5) (i : BitVec 15)
  /-- ANDI (R130). -/
  | andi (d : BitVec 5) (a : BitVec 5) (i : BitVec 15)
  /-- ORI (R130). -/
  | ori (d : BitVec 5) (a : BitVec 5) (i : BitVec 15)
  /-- XORI (R130). -/
  | xori (d : BitVec 5) (a : BitVec 5) (i : BitVec 15)
  /-- SLTI (R130). -/
  | slti (d : BitVec 5) (a : BitVec 5) (i : BitVec 15)
  /-- SLTIU (R130). -/
  | sltiu (d : BitVec 5) (a : BitVec 5) (i : BitVec 15)
  /-- SHLI (R131). -/
  | shli (d : BitVec 5) (a : BitVec 5) (s : BitVec 6)
  /-- SHRI (R131). -/
  | shri (d : BitVec 5) (a : BitVec 5) (s : BitVec 6)
  /-- SRAI (R131). -/
  | srai (d : BitVec 5) (a : BitVec 5) (s : BitVec 6)
  /-- LIH (R132). -/
  | lih (d : BitVec 5) (a : BitVec 5) (i : BitVec 15)
  /-- LD.B (R148). -/
  | ldB (d : BitVec 5) (a : BitVec 5) (i : BitVec 15)
  /-- LD.H (R148). -/
  | ldH (d : BitVec 5) (a : BitVec 5) (i : BitVec 15)
  /-- LD.W (R148). -/
  | ldW (d : BitVec 5) (a : BitVec 5) (i : BitVec 15)
  /-- LD.D (R148). -/
  | ldD (d : BitVec 5) (a : BitVec 5) (i : BitVec 15)
  /-- LDZ.B (R148). -/
  | ldzB (d : BitVec 5) (a : BitVec 5) (i : BitVec 15)
  /-- LDZ.H (R148). -/
  | ldzH (d : BitVec 5) (a : BitVec 5) (i : BitVec 15)
  /-- LDZ.W (R148). -/
  | ldzW (d : BitVec 5) (a : BitVec 5) (i : BitVec 15)
  /-- LDX (R150). -/
  | ldx (d : BitVec 5) (a : BitVec 5) (i : BitVec 15)
  /-- ST.B (R149). -/
  | stB (v : BitVec 5) (a : BitVec 5) (i : BitVec 15)
  /-- ST.H (R149). -/
  | stH (v : BitVec 5) (a : BitVec 5) (i : BitVec 15)
  /-- ST.W (R149). -/
  | stW (v : BitVec 5) (a : BitVec 5) (i : BitVec 15)
  /-- ST.D (R149). -/
  | stD (v : BitVec 5) (a : BitVec 5) (i : BitVec 15)
  /-- LDB.B (R152). -/
  | ldbB (d : BitVec 5) (a : BitVec 5) (b : BitVec 5)
  /-- LDB.H (R152). -/
  | ldbH (d : BitVec 5) (a : BitVec 5) (b : BitVec 5)
  /-- LDB.W (R152). -/
  | ldbW (d : BitVec 5) (a : BitVec 5) (b : BitVec 5)
  /-- LDB.D (R152). -/
  | ldbD (d : BitVec 5) (a : BitVec 5) (b : BitVec 5)
  /-- LDBZ.B (R152). -/
  | ldbzB (d : BitVec 5) (a : BitVec 5) (b : BitVec 5)
  /-- LDBZ.H (R152). -/
  | ldbzH (d : BitVec 5) (a : BitVec 5) (b : BitVec 5)
  /-- LDBZ.W (R152). -/
  | ldbzW (d : BitVec 5) (a : BitVec 5) (b : BitVec 5)
  /-- AMOADD (R154). -/
  | amoadd (d : BitVec 5) (a : BitVec 5) (b : BitVec 5) (z : BitVec 1)
  /-- AMOAND (R154). -/
  | amoand (d : BitVec 5) (a : BitVec 5) (b : BitVec 5) (z : BitVec 1)
  /-- AMOOR (R154). -/
  | amoor (d : BitVec 5) (a : BitVec 5) (b : BitVec 5) (z : BitVec 1)
  /-- AMOXOR (R154). -/
  | amoxor (d : BitVec 5) (a : BitVec 5) (b : BitVec 5) (z : BitVec 1)
  /-- AMOMIN (R154). -/
  | amomin (d : BitVec 5) (a : BitVec 5) (b : BitVec 5) (z : BitVec 1)
  /-- AMOMAX (R154). -/
  | amomax (d : BitVec 5) (a : BitVec 5) (b : BitVec 5) (z : BitVec 1)
  /-- AMOMINU (R154). -/
  | amominu (d : BitVec 5) (a : BitVec 5) (b : BitVec 5) (z : BitVec 1)
  /-- AMOMAXU (R154). -/
  | amomaxu (d : BitVec 5) (a : BitVec 5) (b : BitVec 5) (z : BitVec 1)
  /-- AMOSWP (R154). -/
  | amoswp (d : BitVec 5) (a : BitVec 5) (b : BitVec 5) (z : BitVec 1)
  /-- JOIN (R157). -/
  | join (d : BitVec 5) (a : BitVec 5)
  /-- CAS (R155). -/
  | cas (d : BitVec 5) (a : BitVec 5) (b : BitVec 5) (z : BitVec 1)
  /-- BEQ (R133). -/
  | beq (a : BitVec 5) (b : BitVec 5) (i : BitVec 15)
  /-- BNE (R133). -/
  | bne (a : BitVec 5) (b : BitVec 5) (i : BitVec 15)
  /-- BLT (R133). -/
  | blt (a : BitVec 5) (b : BitVec 5) (i : BitVec 15)
  /-- BGE (R133). -/
  | bge (a : BitVec 5) (b : BitVec 5) (i : BitVec 15)
  /-- BLTU (R133). -/
  | bltu (a : BitVec 5) (b : BitVec 5) (i : BitVec 15)
  /-- BGEU (R133). -/
  | bgeu (a : BitVec 5) (b : BitVec 5) (i : BitVec 15)
  /-- J (R134). -/
  | j (i : BitVec 25)
  /-- JAL (R137). -/
  | jal (i : BitVec 25)
  /-- JR (R135). -/
  | jr (a : BitVec 5)
  /-- CALLR (R137). -/
  | callr (a : BitVec 5)
  /-- CALLAT (R163). -/
  | callat (d : BitVec 5) (a : BitVec 5) (b : BitVec 5)
  /-- REPLY (R164). -/
  | reply (a : BitVec 5) (b : BitVec 5)
  /-- WAITR (R167). -/
  | waitr (d : BitVec 5) (a : BitVec 5)
  /-- WAITE (R169). -/
  | waite (a : BitVec 4)
  /-- WAITE.fill (R170). -/
  | waiteFill (a : BitVec 5)
  /-- WAITE.free (R170). -/
  | waiteFree (a : BitVec 5)
  /-- ENQ (R160). -/
  | enq (d : BitVec 5) (a : BitVec 5) (b : BitVec 5)
  /-- DEQ (R161). -/
  | deq (d : BitVec 5) (a : BitVec 5) (b : BitVec 5)
  /-- DEQT (R161). -/
  | deqt (d : BitVec 5) (a : BitVec 5) (b : BitVec 5)
  /-- SEND (R172). -/
  | send (d : BitVec 5) (a : BitVec 5) (b : BitVec 5) (e : BitVec 2)
  /-- RPUB (R175). -/
  | rpub (d : BitVec 5) (a : BitVec 5)
  /-- RACQ (R176). -/
  | racq (d : BitVec 5) (a : BitVec 5)
  /-- RFLOOR (R177). -/
  | rfloor (a : BitVec 5) (b : BitVec 5)
  /-- RSUB (R178). -/
  | rsub (d : BitVec 5) (a : BitVec 5)
  /-- RFLOOR.clr (R177). -/
  | rfloorClr (a : BitVec 5)
  /-- BINIT (R183). -/
  | binit (a : BitVec 4) (b : BitVec 5)
  /-- BARR (R185). -/
  | barr (a : BitVec 4)
  /-- BEXP (R185). -/
  | bexp (a : BitVec 4) (b : BitVec 5)
  /-- BWAIT (R186). -/
  | bwait (d : BitVec 5) (a : BitVec 4) (b : BitVec 5)
  /-- BTEST (R186). -/
  | btest (d : BitVec 5) (a : BitVec 4)
  /-- BHSET (R184). -/
  | bhset (d : BitVec 4) (a : BitVec 5)
  /-- BSNI (R189). -/
  | bsni (a : BitVec 5) (b : BitVec 5)
  /-- BSNP (R190). -/
  | bsnp (d : BitVec 5) (a : BitVec 5)
  /-- BSNC (R190). -/
  | bsnc (a : BitVec 5)
  /-- BSNG (R190). -/
  | bsng (d : BitVec 5) (a : BitVec 5)
  /-- BSNF (R190). -/
  | bsnf (a : BitVec 5)
  /-- TDEF (R201). -/
  | tdef (d : BitVec 4) (a : BitVec 5) (b : BitVec 5)
  /-- TLDD (R201). -/
  | tldd (d : BitVec 4) (a : BitVec 5)
  /-- TSTD (R201). -/
  | tstd (a : BitVec 5) (b : BitVec 4)
  /-- TEXT (R201). -/
  | text (d : BitVec 4) (a : BitVec 4) (b : BitVec 5)
  /-- TSUB (R202). -/
  | tsub (d : BitVec 4) (a : BitVec 4) (k : BitVec 3) (p : BitVec 14)
  /-- TSUBR (R202). -/
  | tsubr (d : BitVec 4) (a : BitVec 4) (b : BitVec 5)
  /-- BCOPY (R204). -/
  | bcopy (d : BitVec 4) (a : BitVec 4) (h : BitVec 4)
  /-- BCOPY.bnd (R205). -/
  | bcopyBnd (d : BitVec 4) (a : BitVec 4) (h : BitVec 4) (k : BitVec 7)
  /-- BCOPY.bsn (R206). -/
  | bcopyBsn (d : BitVec 4) (a : BitVec 4) (h : BitVec 4) (n : BitVec 6)
  /-- BFILL (R207). -/
  | bfill (d : BitVec 4) (h : BitVec 4) (v : BitVec 8)
  /-- BGATH (R208). -/
  | bgath (d : BitVec 4) (a : BitVec 4) (c : BitVec 4) (h : BitVec 4)
  /-- BSCAT (R208). -/
  | bscat (d : BitVec 4) (a : BitVec 4) (c : BitVec 4) (h : BitVec 4)
  /-- BPREF (R210). -/
  | bpref (d : BitVec 4) (h : BitVec 4)
  /-- BRES (R210). -/
  | bres (d : BitVec 4) (h : BitVec 4) (c : BitVec 3)
  /-- BEVICT (R210). -/
  | bevict (d : BitVec 4) (h : BitVec 4)
  /-- BDEMOTE (R210). -/
  | bdemote (d : BitVec 4) (h : BitVec 4)
  /-- BOWN (R309). -/
  | bown (d : BitVec 4) (h : BitVec 4)
  /-- BREL (R309). -/
  | brel (d : BitVec 4) (h : BitVec 4)
  /-- MXST (R212). -/
  | mxst (a : BitVec 4) (h : BitVec 4) (u : BitVec 1)
  /-- MXMA (R213). -/
  | mxma (d : BitVec 4) (a : BitVec 4) (h : BitVec 4) (u : BitVec 1)
  /-- MXMAS (R215). -/
  | mxmas (d : BitVec 4) (a : BitVec 4) (h : BitVec 4) (r : BitVec 2) (u : BitVec 1)
  /-- VADD (R218). -/
  | vadd (d : BitVec 4) (a : BitVec 4) (c : BitVec 4) (h : BitVec 4)
  /-- VSUB (R218). -/
  | vsub (d : BitVec 4) (a : BitVec 4) (c : BitVec 4) (h : BitVec 4)
  /-- VMUL (R218). -/
  | vmul (d : BitVec 4) (a : BitVec 4) (c : BitVec 4) (h : BitVec 4)
  /-- VFMA (R218). -/
  | vfma (d : BitVec 4) (a : BitVec 4) (c : BitVec 4) (h : BitVec 4)
  /-- VMIN (R218). -/
  | vmin (d : BitVec 4) (a : BitVec 4) (c : BitVec 4) (h : BitVec 4)
  /-- VMAX (R218). -/
  | vmax (d : BitVec 4) (a : BitVec 4) (c : BitVec 4) (h : BitVec 4)
  /-- VABS (R218). -/
  | vabs (d : BitVec 4) (a : BitVec 4) (h : BitVec 4)
  /-- VNEG (R218). -/
  | vneg (d : BitVec 4) (a : BitVec 4) (h : BitVec 4)
  /-- VAND (R219). -/
  | vand (d : BitVec 4) (a : BitVec 4) (c : BitVec 4) (h : BitVec 4)
  /-- VOR (R219). -/
  | vor (d : BitVec 4) (a : BitVec 4) (c : BitVec 4) (h : BitVec 4)
  /-- VXOR (R219). -/
  | vxor (d : BitVec 4) (a : BitVec 4) (c : BitVec 4) (h : BitVec 4)
  /-- VNOT (R219). -/
  | vnot (d : BitVec 4) (a : BitVec 4) (h : BitVec 4)
  /-- VSHL (R219). -/
  | vshl (d : BitVec 4) (a : BitVec 4) (c : BitVec 4) (h : BitVec 4)
  /-- VSHR (R219). -/
  | vshr (d : BitVec 4) (a : BitVec 4) (c : BitVec 4) (h : BitVec 4)
  /-- VCMP (R220). -/
  | vcmp (d : BitVec 4) (a : BitVec 4) (c : BitVec 4) (h : BitVec 4) (o : BitVec 3)
  /-- VSEL (R220). -/
  | vsel (d : BitVec 4) (a : BitVec 4) (c : BitVec 4) (h : BitVec 4)
  /-- VCVT (R221). -/
  | vcvt (d : BitVec 4) (a : BitVec 4) (h : BitVec 4) (m : BitVec 2)
  /-- VEXP2 (R222). -/
  | vexp2 (d : BitVec 4) (a : BitVec 4) (h : BitVec 4)
  /-- VLOG2 (R222). -/
  | vlog2 (d : BitVec 4) (a : BitVec 4) (h : BitVec 4)
  /-- VRCP (R222). -/
  | vrcp (d : BitVec 4) (a : BitVec 4) (h : BitVec 4)
  /-- VRSQ (R222). -/
  | vrsq (d : BitVec 4) (a : BitVec 4) (h : BitVec 4)
  /-- VTANH (R222). -/
  | vtanh (d : BitVec 4) (a : BitVec 4) (h : BitVec 4)
  /-- VRED (R223). -/
  | vred (d : BitVec 4) (a : BitVec 4) (h : BitVec 4) (r : BitVec 1) (o : BitVec 2)
  /-- VSCAN (R223). -/
  | vscan (d : BitVec 4) (a : BitVec 4) (h : BitVec 4) (r : BitVec 2) (o : BitVec 2)
  /-- VTRN (R224). -/
  | vtrn (d : BitVec 4) (a : BitVec 4) (h : BitVec 4)
  /-- VBCST (R224). -/
  | vbcst (d : BitVec 4) (a : BitVec 4) (h : BitVec 4) (b : BitVec 2)
  /-- VGATH (R224). -/
  | vgath (d : BitVec 4) (a : BitVec 4) (c : BitVec 4) (h : BitVec 4) (m : BitVec 1)
  /-- VMOV (R224). -/
  | vmov (d : BitVec 4) (a : BitVec 4) (h : BitVec 4)
  /-- VGEN (R225). -/
  | vgen (d : BitVec 4) (h : BitVec 4) (p : BitVec 4)
  /-- VGEN.const (R225). -/
  | vgenConst (d : BitVec 4) (h : BitVec 4) (c : BitVec 5)
  /-- CBLD (R216). -/
  | cbld (a : BitVec 5) (b : BitVec 5)
  /-- SKSET (R216). -/
  | skset (a : BitVec 5) (b : BitVec 5)
  /-- XBSET.ctr (R226). -/
  | xbsetCtr (d : BitVec 5) (a : BitVec 5) (b : BitVec 5)
  /-- XBSET.term (R226). -/
  | xbsetTerm (d : BitVec 5) (a : BitVec 5) (b : BitVec 5)
  /-- XBSET.stage (R226). -/
  | xbsetStage (d : BitVec 5) (a : BitVec 5) (b : BitVec 5)
  /-- XBARM.on (R226). -/
  | xbarmOn (d : BitVec 5) (a : BitVec 5)
  /-- XBARM.off (R226). -/
  | xbarmOff (d : BitVec 5) (a : BitVec 5)
  /-- ECTL.rd (R228). -/
  | ectlRd (d : BitVec 5) (a : BitVec 5) (b : BitVec 5) (e : BitVec 2)
  /-- ECTL.res (R228). -/
  | ectlRes (a : BitVec 5) (e : BitVec 2)
  /-- ECTL.can (R228). -/
  | ectlCan (a : BitVec 5) (e : BitVec 2)
  /-- ESTAT (R228). -/
  | estat (d : BitVec 5) (e : BitVec 2)
  /-- TRAP (R238). -/
  | trap (a : BitVec 5)
  /-- SCALL (R238). -/
  | scall (a : BitVec 5)
  /-- RESUME (R240). -/
  | resume (a : BitVec 5)
  /-- PARK (R241). -/
  | park (a : BitVec 5)
  /-- CRR (R243). -/
  | crr (d : BitVec 5) (c : BitVec 10)
  /-- CRW (R243). -/
  | crw (d : BitVec 5) (a : BitVec 5) (c : BitVec 10)
  /-- CTXR (R245). -/
  | ctxr (d : BitVec 5) (a : BitVec 5) (b : BitVec 5)
  /-- CTXW (R245). -/
  | ctxw (d : BitVec 5) (a : BitVec 5) (b : BitVec 5)
  /-- SPILL (R246). -/
  | spill (a : BitVec 5)
  /-- FILL (R246). -/
  | fill (d : BitVec 5) (a : BitVec 5) (b : BitVec 5)
  /-- KLOAD (R359). -/
  | kload (d : BitVec 5) (a : BitVec 5) (b : BitVec 5)
  /-- KDER (R360). -/
  | kder (d : BitVec 5) (a : BitVec 5) (b : BitVec 5)
  /-- KREV (R250). -/
  | krev (d : BitVec 5) (a : BitVec 5)
  /-- JAPP (R251). -/
  | japp (d : BitVec 5) (a : BitVec 5) (b : BitVec 5)
  /-- IMMX (R117). -/
  | immx (p : BitVec 25)
  /-- REP (R118). -/
  | rep (c : BitVec 6) (f : BitVec 4)
  /-- HINT (R144). -/
  | hint (k : BitVec 3) (a : BitVec 22)
  /-- MEMORY_REPLY (R83). -/
  | memoryReply (core : Nat) (ctx : Nat)
  /-- WAKE (R101). -/
  | wake (core : Nat) (ctx : Nat)
  /-- WINDOW_SPILL (R139). -/
  | windowSpill (core : Nat) (ctx : Nat)
  /-- PEER_ACCESS (R386). -/
  | peerAccess (q : PeerReq)
  /-- ENGINE_ACCEPT (R92). -/
  | engineAccept (core : Nat) (ctx : Nat)
  /-- BARGE_START (R94). -/
  | bargeStart (core : Nat) (e : Nat)
  /-- BARGE_UNIT (R96). -/
  | bargeUnit (core : Nat) (e : Nat)
  /-- BARGE_COMPLETE (R95). -/
  | bargeComplete (core : Nat) (e : Nat)
  /-- BASIN_SLOT_CLAIM (R191). -/
  | basinSlotClaim (core : Nat)
  /-- HUB_COMMAND (R209). -/
  | hubCommand (m : SendMsg)
  /-- SEND_COMMAND_RECEIPT (R172). -/
  | sendCommandReceipt (m : SendMsg)
  /-- REPLY_DELIVERY (R164). -/
  | replyDelivery (route : Word) (value : Word) (sender : ThreadRef)
  /-- REMOTE_BARRIER_OPERATION (R187). -/
  | remoteBarrierOperation (m : BarrierMsg)
  /-- HOME_ATOMIC (R153). -/
  | homeAtomic (q : AtomicReq)
  /-- HOME_JOIN (R157). -/
  | homeJoin (block : Target) (who : ThreadRef) (d : BitVec 5)
  /-- HOME_ENQUEUE (R160). -/
  | homeEnqueue (q : EnqueueReq)
  /-- HOME_DEQUEUE (R161). -/
  | homeDequeue (q : DequeueReq)
  /-- DISPENSER_REQUEST (R161). -/
  | dispenserRequest (cluster : Nat) (queue : Nat)
  /-- DISPENSER_BIND (R333). -/
  | dispenserBind (cluster : Nat) (queue : Nat)
  /-- AFFINITY_TIMEOUT (R335). -/
  | affinityTimeout (cluster : Nat) (queue : Nat)
  /-- ENTRY_THREAD_CREATE (R329). -/
  | entryThreadCreate (core : Nat) (slot : Nat) (rcb : Nat)
  /-- QUIESCENT (R103). -/
  | quiescent (rcb : Nat)
  /-- RCB_END (R337). -/
  | rcbEnd (rcb : Nat)
  /-- RCB_JOIN_RETRY (R337). -/
  | rcbJoinRetry (rcb : Nat)
  /-- XBAR_TERM_FIRE (R227). -/
  | xbarTermFire (core : Nat) (term : Nat)
  /-- STAGED_LAUNCH (R227). -/
  | stagedLaunch (core : Nat) (reg : Nat)
  /-- REGION_RPUB (R291). -/
  | regionRpub (region : Nat) (who : ThreadRef) (d : BitVec 5)
  /-- ROUND_MULTICAST (R292). -/
  | roundMulticast (level : ViewLevel) (region : Nat) (round : BitVec 32)
  /-- BOUNDED_REQUEST (R295). -/
  | boundedRequest (core : Nat) (ctx : Nat)
  /-- HOME_GETS (R305). -/
  | homeGets (q : CohReq)
  /-- HOME_GETX (R305). -/
  | homeGetx (q : CohReq)
  /-- HOME_UPG (R306). -/
  | homeUpg (q : CohReq)
  /-- HOME_RENEW (R301). -/
  | homeRenew (q : CohReq)
  /-- HOME_WB (R307). -/
  | homeWb (line : Nat) (core : Nat) (img : Stamped) (clean : Bool)
  /-- HOME_GACK (R305). -/
  | homeGack (line : Nat) (core : Nat)
  /-- HOME_FDATA (R305). -/
  | homeFdata (line : Nat) (core : Nat) (img : LineData × Word) (stamps : Nat × Nat)
  /-- HOME_GONE (R307). -/
  | homeGone (line : Nat) (core : Nat)
  /-- EVICTION_NOTICE (R318). -/
  | evictionNotice (core : Nat) (line : Nat) (round : Nat)
  /-- AGENT_DATA (R303). -/
  | agentData (core : Nat) (line : Nat) (c : DataReply) (exclusive : Bool)
  /-- AGENT_ACKX (R303). -/
  | agentAckx (core : Nat) (line : Nat) (r : LeaseReply)
  /-- AGENT_RNACK (R303). -/
  | agentRnack (core : Nat) (line : Nat) (r : LeaseReply)
  /-- AGENT_WBACK (R303). -/
  | agentWback (core : Nat) (line : Nat)
  /-- AGENT_FWD (R308). -/
  | agentFwd (core : Nat) (line : Nat) (kind : FwdKind)
  /-- AGENT_RETRY (R323). -/
  | agentRetry (q : CohReq)
  /-- INV_RECEIVE (R319). -/
  | invReceive (party : Party) (line : Nat) (round : Nat) (writer : ThreadRef)
  /-- IACK_RECEIVE (R319). -/
  | iackReceive (ack : Iack)
  /-- FABRIC_SEND (R384). -/
  | fabricSend (port : Nat)
  /-- BRING_UP_STAGE (R398). -/
  | bringUpStage (r : BootResult)
  /-- REHOME (R323). -/
  | rehome (granule : Nat) (slice : Nat)
  /-- HOME_RECALL (R305). -/
  | homeRecall (slice : Nat) (q : RecallReq)
  /-- CONTEXT_SPILL (R87). -/
  | contextSpill (core : Nat)
  /-- CONSUMED_UPDATE (R336). -/
  | consumedUpdate (rcb : Nat)
  /-- MESH_ARBITRATION (R353). -/
  | meshArbitration (die : Nat) (pos : Nat) (port : Nat)
  /-- PREEMPT (R339). -/
  | preempt (core : Nat) (ctx : Nat)
  /-- WALKER_READ (R317). -/
  | walkerRead (reader : Party) (line : Nat)
  /-- LINE_EVICTION (R303). -/
  | lineEviction (core : Nat) (line : Nat)
  /-- TRANSLATION_DROP (R315). -/
  | translationDrop (core : Nat) (index : Nat)
  /-- L2_PEER_SERVE (R324). -/
  | l2PeerServe (cluster : Nat) (peer : Nat) (line : Nat) (clk : Nat)
  /-- CLOCK_MINIMUM_BROADCAST (R302). -/
  | clockMinimumBroadcast (slice : Nat)
  /-- CR_SQPOP_WRITE (R255). -/
  | crSqpopWrite (core : Nat) (v : Word)
  /-- CR_TROOT_WRITE (R314). -/
  | crTrootWrite (core : Nat) (v : Word)
  /-- CR_SLOTPART_WRITE (R340). -/
  | crSlotpartWrite (core : Nat) (v : Word)
  /-- CR_BANKPART_WRITE (R340). -/
  | crBankpartWrite (core : Nat) (hi : Bool) (v : Word)
  /-- CR_WIN_WRITE (R141). -/
  | crWinWrite (core : Nat) (ctx : Nat) (v : Word)
  /-- CR_WSP_WRITE (R141). -/
  | crWspWrite (core : Nat) (ctx : Nat) (v : Word)
  /-- CR_JEXPORT_WRITE (R371). -/
  | crJexportWrite (v : Word)
  /-- CR_WEIRA_WRITE (R365). -/
  | crWeiraWrite (core : Nat) (region : Nat) (v : Word)
  /-- CR_WEIRB_WRITE (R365). -/
  | crWeirbWrite (core : Nat) (region : Nat) (v : Word)
  /-- CR_SENSLIM_WRITE (R372). -/
  | crSenslimWrite (v : Word)
  /-- SENSOR_TRIP (R372). -/
  | sensorTrip (volt : BitVec 16) (temp : BitVec 16) (clock : BitVec 16)
  /-- WEIR_REFILL (R366). -/
  | weirRefill (region : Nat)
  /-- WEIR_TIMEOUT (R368). -/
  | weirTimeout (region : Nat)
  /-- WEIR_EGRESS_ENTRY (R368). -/
  | weirEgressEntry (region : Nat)
  /-- BAR2_READ (R381). A TLP names the IDE stream that it arrives on, if any (R379). -/
  | bar2Read (dest : TlpAddr) (len : Nat)
  /-- BAR2_WRITE (R382). -/
  | bar2Write (dest : TlpAddr) (bytes : ByteList)
  /-- BAR0_WRITE (R380). -/
  | bar0Write (dest : TlpAddr) (op : WindowOp)
  /-- HC_RINGTAIL (R380). -/
  | hcRingtail (word : TlpWord)
  /-- HC_RINGCTL (R380). -/
  | hcRingctl (word : TlpWord)
  /-- OPEN (R375). -/
  | ringOpen (entry : ByteList)
  /-- LAUNCH (R329). -/
  | ringLaunch (seq : Word) (operands : ByteList)
  /-- GRAPH (R346). -/
  | ringGraph (seq : Word) (operands : ByteList)
  /-- IMPORT (R376). -/
  | ringImport (seq : Word) (operands : ByteList)
  /-- SUMMARY (R377). -/
  | ringSummary (seq : Word) (operands : ByteList)
  /-- JFREE (R371). -/
  | ringJfree (seq : Word) (operands : ByteList)
  /-- FABRIC_RECEIVE (R384). -/
  | fabricReceive (port : Nat) (record : BitVec 512)
  /-- DEBUG_ATTACH (R387). -/
  | debugAttach (mode : Nat)
  /-- DEBUG_STOP (R390). -/
  | debugStop (core : Nat) (slot : Nat)
  /-- DEBUG_RELEASE (R390). -/
  | debugRelease (core : Nat) (slot : Nat)
  /-- DEBUG_STEP (R390). -/
  | debugStep (core : Nat) (slot : Nat)
  /-- DEBUG_CLAIM (R392). -/
  | debugClaim (core : Nat) (mask : BitVec 16)
  /-- DEBUG_READ_STATE (R388). -/
  | debugReadState (core : Nat) (what : DebugItem) (index : Nat)
  /-- DEBUG_READ_CR (R388). -/
  | debugReadCr (core : Nat) (ctx : Nat) (cr : BitVec 10)
  /-- DEBUG_READ_CONTEXT (R388). -/
  | debugReadContext (core : Nat) (ctx : Nat) (off : Word)
  /-- DEBUG_WRITE_CONTEXT (R388). -/
  | debugWriteContext (core : Nat) (ctx : Nat) (off : Word) (v : Word)
  /-- DEBUG_READ_MEMORY (R388). -/
  | debugReadMemory (line : Nat)
  /-- DEBUG_WRITE_MEMORY (R388). -/
  | debugWriteMemory (line : Nat) (data : LineData) (side : Word)
  /-- DEBUG_PROGRAM_PCMP (R391). -/
  | debugProgramPcmp (core : Nat) (index : Nat) (v : Word)
  /-- DEBUG_PROGRAM_WATCH (R394). -/
  | debugProgramWatch (slice : Nat) (index : Nat) (v : Word)
  /-- DEBUG_LAUNCH (R389). -/
  | debugLaunch (entry : Word) (core : Nat) (slot : Nat) (rcb : Nat)
  /-- POWER_CONTROL_WRITE (R400). -/
  | powerControlWrite (op : MgmtOp)
  /-- GATING_STEP (R400). -/
  | gatingStep (deeper : Bool) (draw : BitVec 16)
  /-- MACHINE_CHECK (R402). -/
  | machineCheck (line : Nat) (die : Nat) (core : Nat)
  /-- WEAR_UPDATE (R403). -/
  | wearUpdate (fig : DieWear)
  /-- RESERVED_ENCODING (R109). -/
  | reservedEncoding (w : BitVec 32)
  /-- UNFETCHABLE_WORD (R112). -/
  | unfetchableWord (cause : BitVec 8) (tval : Word)
  /-- L1_INSTRUCTION_CACHE_DROP (R104). -/
  | l1InstructionCacheDrop (core : Nat) (line : Nat)
  /-- KEY_CACHE_PURGE (R250). -/
  | keyCachePurge (core : Nat) (slot : Nat)
  /-- NOP (R111). -/
  | nop
  /-- RET (R138). -/
  | ret
  /-- WAITW (R168). -/
  | waitw
  /-- MCALL (R239). -/
  | mcall
  /-- ERET (R239). -/
  | eret
  /-- IFENCE (R247). -/
  | ifence
  /-- TFENCE (R248). -/
  | tfence
  /-- BKPT (R252). -/
  | bkpt
  /-- HALT (R337). -/
  | halt
  /-- PERIOD_START (R336). -/
  | periodStart
  /-- HELD_RECORD_RETRY (R342). -/
  | heldRecordRetry
  /-- JOURNAL_CHECKPOINT (R370). -/
  | journalCheckpoint
  /-- RING_FETCH (R382). -/
  | ringFetch
  /-- DEBUG_DETACH (R387). -/
  | debugDetach
  /-- POWER_ON_RESET (R398). -/
  | powerOnReset
  /-- THROTTLE_DOWN (R400). -/
  | throttleDown
  /-- THROTTLE_UP (R400). -/
  | throttleUp
  /-- SLOT_OFFER (R397). -/
  | slotOffer
  deriving DecidableEq, Repr

end Sys2Proof
end

