-- ==== Sys2Proof/WellFormed.lean ====
section
/-! DEFINITION. Well-formed instructions: the field values no rule reserves (R107 to R110, R115), and events that name
units the package contains (R13, R17 to R23). -/

namespace Sys2Proof

/-- The control-register numbers that the map assigns (R254 to R257). -/
def crAssigned (n : Nat) : Bool :=
  decide (n ≤ 0x00A) || n == 0x00C || (decide (0x010 ≤ n) && decide (n ≤ 0x017))
  || (decide (0x100 ≤ n) && decide (n ≤ 0x105)) || (decide (0x108 ≤ n) && decide (n ≤ 0x10A))
  || (decide (0x10C ≤ n) && decide (n ≤ 0x10E)) || n == 0x110 || n == 0x112
  || (decide (0x200 ≤ n) && decide (n ≤ 0x203)) || (decide (0x210 ≤ n) && decide (n ≤ 0x230))
  || (decide (0x240 ≤ n) && decide (n ≤ 0x262)) || n == 0x270 || n == 0x271
  || (decide (0x300 ≤ n) && decide (n ≤ 0x304)) || n == 0x308
  || (decide (0x340 ≤ n) && decide (n ≤ 0x390))

def ThreadRef.ok (t : ThreadRef) : Bool := decide (t.core < 256) && decide (t.ctx < 24)
def SendMsg.ok (m : SendMsg) : Bool := decide (m.target < 256) && decide (m.e < 4) && m.who.ok
def BarrierMsg.ok (m : BarrierMsg) : Bool :=
  decide (m.core < 256) && decide (m.index < 2048) && m.who.ok
def AtomicReq.ok (q : AtomicReq) : Bool := q.who.ok && (q.n == 4 || q.n == 8)
def EnqueueReq.ok (q : EnqueueReq) : Bool := decide (q.queue < 4096) && q.who.ok
def DequeueReq.ok (q : DequeueReq) : Bool := decide (q.queue < 4096) && q.who.ok
def CohReq.ok (q : CohReq) : Bool := decide (q.core < 256)
def RecallReq.ok (q : RecallReq) : Bool := decide (q.core < 256) && decide (q.height ≤ 28)
def Party.ok : Party → Bool
  | .core k => decide (k < 256)
  | .hub c => decide (c < 64)
  | .dispenser c => decide (c < 64)
  | .sdie => true
  | .regionRecord s r => decide (s < 32) && decide (r < 4096)
def ViewLevel.ok : ViewLevel → Bool
  | .slice n => decide (n < 32)
  | .cluster n => decide (n < 64)
def PeerReq.ok : PeerReq → Bool
  | .read p _ _ _ => decide (p < 16)
  | .write p _ _ _ => decide (p < 16)
  | .atomic p _ n _ _ => decide (p < 16) && (n == 4 || n == 8)
  | .publish p r => decide (p < 16) && decide (r < 4096)
  | .acquire p r => decide (p < 16) && decide (r < 4096)
  | .subscribe p r => decide (p < 16) && decide (r < 4096)
  | .bounded p _ r _ => decide (p < 16) && decide (r < 4096)
  | .own p _ => decide (p < 16)
  | .back p _ _ _ => decide (p < 16)
  | .fence p _ => decide (p < 16)
  | .join p _ _ => decide (p < 16)
  | .ended p g => decide (p < 16) && decide (g < 65536)
def DebugItem.ok : DebugItem → Bool
  | .slotCounter => true
  | .readyHist => true
  | .trace => true
  | .watchReport => true
  | .bargeWord e w => decide (e < 3) && decide (w < 13)
  | .basin => true
  | .barrier => true
  | .round => true
  | .journal => true

/-- The well-formed instructions and events. -/
def Instr.wf : Instr → Bool
  | .add _ _ _ => true
  | .sub _ _ _ => true
  | .and _ _ _ => true
  | .or _ _ _ => true
  | .xor _ _ _ => true
  | .andn _ _ _ => true
  | .orn _ _ _ => true
  | .min _ _ _ => true
  | .max _ _ _ => true
  | .minu _ _ _ => true
  | .maxu _ _ _ => true
  | .slt _ _ _ => true
  | .sltu _ _ _ => true
  | .seq _ _ _ => true
  | .sne _ _ _ => true
  | .mul _ _ _ => true
  | .mulh _ _ _ => true
  | .mulhu _ _ _ => true
  | .div _ _ _ => true
  | .divu _ _ _ => true
  | .rem _ _ _ => true
  | .remu _ _ _ => true
  | .shl _ _ _ => true
  | .shr _ _ _ => true
  | .sra _ _ _ => true
  | .rot _ _ _ => true
  | .clz _ _ => true
  | .ctz _ _ => true
  | .popc _ _ => true
  | .brev _ _ => true
  | .exts _ _ _ => true
  | .zip _ _ _ => true
  | .zrow _ _ => true
  | .zcol _ _ => true
  | .zaddr _ _ _ => true
  | .zaddc _ _ _ => true
  | .ptrunc _ _ _ => true
  | .pdig _ _ _ => true
  | .pcat _ _ _ => true
  | .addi _ _ _ => true
  | .andi _ _ _ => true
  | .ori _ _ _ => true
  | .xori _ _ _ => true
  | .slti _ _ _ => true
  | .sltiu _ _ _ => true
  | .shli _ _ _ => true
  | .shri _ _ _ => true
  | .srai _ _ _ => true
  | .lih _ _ _ => true
  | .ldB _ _ _ => true
  | .ldH _ _ _ => true
  | .ldW _ _ _ => true
  | .ldD _ _ _ => true
  | .ldzB _ _ _ => true
  | .ldzH _ _ _ => true
  | .ldzW _ _ _ => true
  | .ldx _ _ _ => true
  | .stB _ _ _ => true
  | .stH _ _ _ => true
  | .stW _ _ _ => true
  | .stD _ _ _ => true
  | .ldbB _ _ _ => true
  | .ldbH _ _ _ => true
  | .ldbW _ _ _ => true
  | .ldbD _ _ _ => true
  | .ldbzB _ _ _ => true
  | .ldbzH _ _ _ => true
  | .ldbzW _ _ _ => true
  | .amoadd _ _ _ _ => true
  | .amoand _ _ _ _ => true
  | .amoor _ _ _ _ => true
  | .amoxor _ _ _ _ => true
  | .amomin _ _ _ _ => true
  | .amomax _ _ _ _ => true
  | .amominu _ _ _ _ => true
  | .amomaxu _ _ _ _ => true
  | .amoswp _ _ _ _ => true
  | .join _ _ => true
  | .cas _ _ _ _ => true
  | .nop => true
  | .beq _ _ _ => true
  | .bne _ _ _ => true
  | .blt _ _ _ => true
  | .bge _ _ _ => true
  | .bltu _ _ _ => true
  | .bgeu _ _ _ => true
  | .j _ => true
  | .jal _ => true
  | .jr _ => true
  | .callr _ => true
  | .ret => true
  | .callat _ _ _ => true
  | .reply _ _ => true
  | .waitr _ _ => true
  | .waitw => true
  | .waite _ => true
  | .waiteFill _ => true
  | .waiteFree _ => true
  | .enq _ _ _ => true
  | .deq _ _ _ => true
  | .deqt _ _ _ => true
  | .send _ _ _ _ => true
  | .rpub _ _ => true
  | .racq _ _ => true
  | .rfloor _ _ => true
  | .rsub _ _ => true
  | .rfloorClr _ => true
  | .binit _ _ => true
  | .barr _ => true
  | .bexp _ _ => true
  | .bwait _ _ _ => true
  | .btest _ _ => true
  | .bhset _ _ => true
  | .bsni _ _ => true
  | .bsnp _ _ => true
  | .bsnc _ => true
  | .bsng _ _ => true
  | .bsnf _ => true
  | .tdef _ _ _ => true
  | .tldd _ _ => true
  | .tstd _ _ => true
  | .text _ _ _ => true
  | .tsub _ _ k p => p.toNat % 2 ^ (14 - 2 * k.toNat) == 0
  | .tsubr _ _ _ => true
  | .bcopy _ _ _ => true
  | .bcopyBnd _ _ _ _ => true
  | .bcopyBsn _ _ _ _ => true
  | .bfill _ _ _ => true
  | .bgath _ _ _ _ => true
  | .bscat _ _ _ _ => true
  | .bpref _ _ => true
  | .bres _ _ _ => true
  | .bevict _ _ => true
  | .bdemote _ _ => true
  | .bown _ _ => true
  | .brel _ _ => true
  | .mxst _ _ _ => true
  | .mxma _ _ _ _ => true
  | .mxmas _ _ _ _ _ => true
  | .vadd _ _ _ _ => true
  | .vsub _ _ _ _ => true
  | .vmul _ _ _ _ => true
  | .vfma _ _ _ _ => true
  | .vmin _ _ _ _ => true
  | .vmax _ _ _ _ => true
  | .vabs _ _ _ => true
  | .vneg _ _ _ => true
  | .vand _ _ _ _ => true
  | .vor _ _ _ _ => true
  | .vxor _ _ _ _ => true
  | .vnot _ _ _ => true
  | .vshl _ _ _ _ => true
  | .vshr _ _ _ _ => true
  | .vcmp _ _ _ _ o => o.toNat != 7
  | .vsel _ _ _ _ => true
  | .vcvt _ _ _ _ => true
  | .vexp2 _ _ _ => true
  | .vlog2 _ _ _ => true
  | .vrcp _ _ _ => true
  | .vrsq _ _ _ => true
  | .vtanh _ _ _ => true
  | .vred _ _ _ _ o => o.toNat != 0
  | .vscan _ _ _ r o => r.toNat != 3 && o.toNat != 0
  | .vtrn _ _ _ => true
  | .vbcst _ _ _ b => b.toNat != 3
  | .vgath _ _ _ _ _ => true
  | .vmov _ _ _ => true
  | .vgen _ _ p => decide (1 ≤ p.toNat) && decide (p.toNat ≤ 6)
  | .vgenConst _ _ _ => true
  | .cbld _ _ => true
  | .skset _ _ => true
  | .xbsetCtr _ _ _ => true
  | .xbsetTerm _ _ _ => true
  | .xbsetStage _ _ _ => true
  | .xbarmOn _ _ => true
  | .xbarmOff _ _ => true
  | .ectlRd _ _ _ e => e.toNat != 3
  | .ectlRes _ e => e.toNat != 3
  | .ectlCan _ e => e.toNat != 3
  | .estat _ e => e.toNat != 3
  | .trap _ => true
  | .scall _ => true
  | .mcall => true
  | .eret => true
  | .resume _ => true
  | .park _ => true
  | .crr _ c => crAssigned c.toNat
  | .crw _ _ c => crAssigned c.toNat
  | .ctxr _ _ _ => true
  | .ctxw _ _ _ => true
  | .spill _ => true
  | .fill _ _ _ => true
  | .kload _ _ _ => true
  | .kder _ _ _ => true
  | .krev _ _ => true
  | .japp _ _ _ => true
  | .ifence => true
  | .tfence => true
  | .bkpt => true
  | .halt => true
  | .immx _ => true
  | .rep _ _ => true
  | .hint _ _ => true
  | .memoryReply core ctx => decide (core < 256) && decide (ctx < 24)
  | .wake core ctx => decide (core < 256) && decide (ctx < 24)
  | .preempt core ctx => decide (core < 256) && decide (ctx < 24)
  | .windowSpill core ctx => decide (core < 256) && decide (ctx < 24)
  | .contextSpill core => decide (core < 256)
  | .engineAccept core ctx => decide (core < 256) && decide (ctx < 24)
  | .bargeStart core e => decide (core < 256) && decide (e < 3)
  | .bargeUnit core e => decide (core < 256) && decide (e < 3)
  | .bargeComplete core e => decide (core < 256) && decide (e < 3)
  | .basinSlotClaim core => decide (core < 256)
  | .hubCommand m => m.ok
  | .sendCommandReceipt m => m.ok
  | .replyDelivery _ _ sender => sender.ok
  | .remoteBarrierOperation m => m.ok
  | .homeAtomic q => q.ok
  | .homeJoin _ who _ => who.ok
  | .homeEnqueue q => q.ok
  | .homeDequeue q => q.ok
  | .dispenserRequest cluster queue => decide (cluster < 64) && decide (queue < 4096)
  | .dispenserBind cluster queue => decide (cluster < 64) && decide (queue < 4096)
  | .affinityTimeout cluster queue => decide (cluster < 64) && decide (queue < 4096)
  | .entryThreadCreate core slot rcb => decide (core < 256) && decide (slot < 16) && decide (rcb < 2048)
  | .periodStart => true
  | .consumedUpdate rcb => decide (rcb < 2048)
  | .quiescent rcb => decide (rcb < 2048)
  | .rcbEnd rcb => decide (rcb < 2048)
  | .rcbJoinRetry rcb => decide (rcb < 2048)
  | .heldRecordRetry => true
  | .xbarTermFire core term => decide (core < 256) && decide (term < 64)
  | .stagedLaunch core reg => decide (core < 256) && decide (reg < 16)
  | .regionRpub region who _ => decide (region < 69632) && who.ok
  | .roundMulticast level region _ => level.ok && decide (region < 4096)
  | .boundedRequest core ctx => decide (core < 256) && decide (ctx < 24)
  | .homeGets q => q.ok
  | .homeGetx q => q.ok
  | .homeUpg q => q.ok
  | .homeRenew q => q.ok
  | .homeWb _ core _ _ => decide (core < 256)
  | .homeGack _ core => decide (core < 256)
  | .homeFdata _ core _ _ => decide (core < 256)
  | .homeGone _ core => decide (core < 256)
  | .walkerRead reader _ => reader.ok
  | .evictionNotice core _ _ => decide (core < 256)
  | .agentData core _ _ _ => decide (core < 256)
  | .agentAckx core _ _ => decide (core < 256)
  | .agentRnack core _ _ => decide (core < 256)
  | .agentWback core _ => decide (core < 256)
  | .agentFwd core _ _ => decide (core < 256)
  | .agentRetry q => q.ok
  | .invReceive party _ _ writer => party.ok && writer.ok
  | .iackReceive ack => ack.party.ok && ack.writer.ok
  | .lineEviction core _ => decide (core < 256)
  | .translationDrop core _ => decide (core < 256)
  | .l2PeerServe cluster peer _ _ => decide (cluster < 64) && decide (peer < 64)
  | .clockMinimumBroadcast slice => decide (slice < 32)
  | .rehome _ slice => decide (slice < 32)
  | .meshArbitration die pos port => decide (die < 4) && decide (pos < 16) && decide (port < 6)
  | .crSqpopWrite core _ => decide (core < 256)
  | .crTrootWrite core _ => decide (core < 256)
  | .crSlotpartWrite core _ => decide (core < 256)
  | .crBankpartWrite core _ _ => decide (core < 256)
  | .crWinWrite core ctx _ => decide (core < 256) && decide (ctx < 24)
  | .crWspWrite core ctx _ => decide (core < 256) && decide (ctx < 24)
  | .crJexportWrite _ => true
  | .crWeiraWrite core region _ => decide (core < 256) && decide (region < 16)
  | .crWeirbWrite core region _ => decide (core < 256) && decide (region < 16)
  | .crSenslimWrite _ => true
  | .sensorTrip _ _ _ => true
  | .journalCheckpoint => true
  | .weirRefill region => decide (region < 16)
  | .weirTimeout region => decide (region < 16)
  | .weirEgressEntry region => decide (region < 16)
  | .bar2Read dest len => tlpOk dest.off len
  | .bar2Write dest bytes => tlpOk dest.off bytes.length
  | .bar0Write _ _ => true
  | .hcRingtail _ => true
  | .hcRingctl _ => true
  | .ringFetch => true
  | .ringOpen _ => true
  | .ringLaunch _ _ => true
  | .ringGraph _ _ => true
  | .ringImport _ _ => true
  | .ringSummary _ _ => true
  | .ringJfree _ _ => true
  | .fabricSend port => decide (port < 16)
  | .fabricReceive port _ => decide (port < 16)
  | .peerAccess q => q.ok
  | .debugAttach mode => decide (mode < 2)
  | .debugDetach => true
  | .debugStop core slot => decide (core < 256) && decide (slot < 16)
  | .debugRelease core slot => decide (core < 256) && decide (slot < 16)
  | .debugStep core slot => decide (core < 256) && decide (slot < 16)
  | .debugClaim core _ => decide (core < 256)
  | .debugReadState core what _ => decide (core < 256) && what.ok
  | .debugReadCr core ctx _ => decide (core < 256) && decide (ctx < 24)
  | .debugReadContext core ctx _ => decide (core < 256) && decide (ctx < 24)
  | .debugWriteContext core ctx _ _ => decide (core < 256) && decide (ctx < 24)
  | .debugReadMemory _ => true
  | .debugWriteMemory _ _ _ => true
  | .debugProgramPcmp core index _ => decide (core < 256) && decide (index < 5)
  | .debugProgramWatch slice index _ => decide (slice < 32) && decide (index < 16)
  | .debugLaunch _ core slot rcb => decide (core < 256) && decide (slot < 16) && decide (rcb < 2048)
  | .powerOnReset => true
  | .bringUpStage _ => true
  | .powerControlWrite _ => true
  | .throttleDown => true
  | .throttleUp => true
  | .gatingStep _ _ => true
  | .machineCheck _ die core => decide (die < 9) && decide (core < 256)
  | .wearUpdate fig => decide (fig.die < 9)
  | .reservedEncoding _ => true
  | .unfetchableWord _ _ => true
  | .slotOffer => true
  | .l1InstructionCacheDrop core _ => decide (core < 256)
  | .keyCachePurge core slot => decide (core < 256) && decide (slot < 64)
  | .homeRecall slice q => decide (slice < 32) && q.ok

/-- The steps of the device that stand in the opcode table without a word of their own, by its mnemonics. -/
def Instr.isEvent : Instr → Bool
  | .memoryReply _ _ => true
  | .wake _ _ => true
  | .preempt _ _ => true
  | .windowSpill _ _ => true
  | .contextSpill _ => true
  | .engineAccept _ _ => true
  | .bargeStart _ _ => true
  | .bargeUnit _ _ => true
  | .bargeComplete _ _ => true
  | .basinSlotClaim _ => true
  | .hubCommand _ => true
  | .sendCommandReceipt _ => true
  | .replyDelivery _ _ _ => true
  | .remoteBarrierOperation _ => true
  | .homeAtomic _ => true
  | .homeJoin _ _ _ => true
  | .homeEnqueue _ => true
  | .homeDequeue _ => true
  | .dispenserRequest _ _ => true
  | .dispenserBind _ _ => true
  | .affinityTimeout _ _ => true
  | .entryThreadCreate _ _ _ => true
  | .periodStart => true
  | .consumedUpdate _ => true
  | .quiescent _ => true
  | .rcbEnd _ => true
  | .rcbJoinRetry _ => true
  | .heldRecordRetry => true
  | .xbarTermFire _ _ => true
  | .stagedLaunch _ _ => true
  | .regionRpub _ _ _ => true
  | .roundMulticast _ _ _ => true
  | .boundedRequest _ _ => true
  | .homeGets _ => true
  | .homeGetx _ => true
  | .homeUpg _ => true
  | .homeRenew _ => true
  | .homeWb _ _ _ _ => true
  | .homeGack _ _ => true
  | .homeFdata _ _ _ _ => true
  | .homeGone _ _ => true
  | .walkerRead _ _ => true
  | .evictionNotice _ _ _ => true
  | .agentData _ _ _ _ => true
  | .agentAckx _ _ _ => true
  | .agentRnack _ _ _ => true
  | .agentWback _ _ => true
  | .agentFwd _ _ _ => true
  | .agentRetry _ => true
  | .invReceive _ _ _ _ => true
  | .iackReceive _ => true
  | .lineEviction _ _ => true
  | .translationDrop _ _ => true
  | .l2PeerServe _ _ _ _ => true
  | .clockMinimumBroadcast _ => true
  | .rehome _ _ => true
  | .meshArbitration _ _ _ => true
  | .crSqpopWrite _ _ => true
  | .crTrootWrite _ _ => true
  | .crSlotpartWrite _ _ => true
  | .crBankpartWrite _ _ _ => true
  | .crWinWrite _ _ _ => true
  | .crWspWrite _ _ _ => true
  | .crJexportWrite _ => true
  | .crWeiraWrite _ _ _ => true
  | .crWeirbWrite _ _ _ => true
  | .crSenslimWrite _ => true
  | .sensorTrip _ _ _ => true
  | .journalCheckpoint => true
  | .weirRefill _ => true
  | .weirTimeout _ => true
  | .weirEgressEntry _ => true
  | .bar2Read _ _ => true
  | .bar2Write _ _ => true
  | .bar0Write _ _ => true
  | .hcRingtail _ => true
  | .hcRingctl _ => true
  | .ringFetch => true
  | .ringOpen _ => true
  | .ringLaunch _ _ => true
  | .ringGraph _ _ => true
  | .ringImport _ _ => true
  | .ringSummary _ _ => true
  | .ringJfree _ _ => true
  | .fabricSend _ => true
  | .fabricReceive _ _ => true
  | .peerAccess _ => true
  | .debugAttach _ => true
  | .debugDetach => true
  | .debugStop _ _ => true
  | .debugRelease _ _ => true
  | .debugStep _ _ => true
  | .debugClaim _ _ => true
  | .debugReadState _ _ _ => true
  | .debugReadCr _ _ _ => true
  | .debugReadContext _ _ _ => true
  | .debugWriteContext _ _ _ _ => true
  | .debugReadMemory _ => true
  | .debugWriteMemory _ _ _ => true
  | .debugProgramPcmp _ _ _ => true
  | .debugProgramWatch _ _ _ => true
  | .debugLaunch _ _ _ _ => true
  | .powerOnReset => true
  | .bringUpStage _ => true
  | .powerControlWrite _ => true
  | .throttleDown => true
  | .throttleUp => true
  | .gatingStep _ _ => true
  | .machineCheck _ _ _ => true
  | .wearUpdate _ => true
  | .reservedEncoding _ => true
  | .unfetchableWord _ _ => true
  | .slotOffer => true
  | .l1InstructionCacheDrop _ _ => true
  | .keyCachePurge _ _ => true
  | .homeRecall _ _ => true
  | _ => false

end Sys2Proof
end

