-- ==== Sys2Proof/Decode.lean ====
section
/-! DEFINITION. The decoder, total on any word and on any bytes, rejecting by name (R104 to R122), then the encoder, each
written from the same map of opcodes (R108), formats (R105) and function tables. -/

namespace Sys2Proof

/-- Why a word decodes to no instruction; each is a reserved encoding (0x02 of R235). -/
inductive Reject where
  | reservedCell        -- the major opcode is a reserved cell (R109)
  | reservedFunction    -- an unassigned function value or a must-be-zero field that is not zero (R107, R110)
  | reservedField       -- a field value its entry reserves (R107, R115)
  | shortWord           -- fewer than four bytes
  deriving DecidableEq, Repr

/-- Bits [lo + n - 1 : lo] of an instruction word. -/
abbrev fld (w : BitVec 32) (lo n : Nat) : BitVec n := w.extractLsb' lo n

/-- Opcode 0x00, form A. -/
def decodeAlu (w : BitVec 32) : Option Instr :=
  if fld w 0 10 = 1 then some (.add (fld w 20 5) (fld w 15 5) (fld w 10 5)) else
  if fld w 0 10 = 2 then some (.sub (fld w 20 5) (fld w 15 5) (fld w 10 5)) else
  if fld w 0 10 = 3 then some (.and (fld w 20 5) (fld w 15 5) (fld w 10 5)) else
  if fld w 0 10 = 4 then some (.or (fld w 20 5) (fld w 15 5) (fld w 10 5)) else
  if fld w 0 10 = 5 then some (.xor (fld w 20 5) (fld w 15 5) (fld w 10 5)) else
  if fld w 0 10 = 6 then some (.andn (fld w 20 5) (fld w 15 5) (fld w 10 5)) else
  if fld w 0 10 = 7 then some (.orn (fld w 20 5) (fld w 15 5) (fld w 10 5)) else
  if fld w 0 10 = 8 then some (.min (fld w 20 5) (fld w 15 5) (fld w 10 5)) else
  if fld w 0 10 = 9 then some (.max (fld w 20 5) (fld w 15 5) (fld w 10 5)) else
  if fld w 0 10 = 10 then some (.minu (fld w 20 5) (fld w 15 5) (fld w 10 5)) else
  if fld w 0 10 = 11 then some (.maxu (fld w 20 5) (fld w 15 5) (fld w 10 5)) else
  if fld w 0 10 = 12 then some (.slt (fld w 20 5) (fld w 15 5) (fld w 10 5)) else
  if fld w 0 10 = 13 then some (.sltu (fld w 20 5) (fld w 15 5) (fld w 10 5)) else
  if fld w 0 10 = 14 then some (.seq (fld w 20 5) (fld w 15 5) (fld w 10 5)) else
  if fld w 0 10 = 15 then some (.sne (fld w 20 5) (fld w 15 5) (fld w 10 5)) else
  none

/-- Opcode 0x01, form A. -/
def decodeMuldiv (w : BitVec 32) : Option Instr :=
  if fld w 0 10 = 1 then some (.mul (fld w 20 5) (fld w 15 5) (fld w 10 5)) else
  if fld w 0 10 = 2 then some (.mulh (fld w 20 5) (fld w 15 5) (fld w 10 5)) else
  if fld w 0 10 = 3 then some (.mulhu (fld w 20 5) (fld w 15 5) (fld w 10 5)) else
  if fld w 0 10 = 4 then some (.div (fld w 20 5) (fld w 15 5) (fld w 10 5)) else
  if fld w 0 10 = 5 then some (.divu (fld w 20 5) (fld w 15 5) (fld w 10 5)) else
  if fld w 0 10 = 6 then some (.rem (fld w 20 5) (fld w 15 5) (fld w 10 5)) else
  if fld w 0 10 = 7 then some (.remu (fld w 20 5) (fld w 15 5) (fld w 10 5)) else
  none

/-- Opcode 0x02, form A. -/
def decodeShift (w : BitVec 32) : Option Instr :=
  if fld w 0 10 = 1 then some (.shl (fld w 20 5) (fld w 15 5) (fld w 10 5)) else
  if fld w 0 10 = 2 then some (.shr (fld w 20 5) (fld w 15 5) (fld w 10 5)) else
  if fld w 0 10 = 3 then some (.sra (fld w 20 5) (fld w 15 5) (fld w 10 5)) else
  if fld w 0 10 = 4 then some (.rot (fld w 20 5) (fld w 15 5) (fld w 10 5)) else
  if fld w 0 15 = 5 then some (.clz (fld w 20 5) (fld w 15 5)) else
  if fld w 0 15 = 6 then some (.ctz (fld w 20 5) (fld w 15 5)) else
  if fld w 0 15 = 7 then some (.popc (fld w 20 5) (fld w 15 5)) else
  if fld w 0 15 = 8 then some (.brev (fld w 20 5) (fld w 15 5)) else
  if fld w 0 10 = 9 then some (.exts (fld w 20 5) (fld w 15 5) (fld w 10 5)) else
  none

/-- Opcode 0x03, form A. -/
def decodeTree (w : BitVec 32) : Option Instr :=
  if fld w 0 10 = 1 then some (.zip (fld w 20 5) (fld w 15 5) (fld w 10 5)) else
  if fld w 0 15 = 2 then some (.zrow (fld w 20 5) (fld w 15 5)) else
  if fld w 0 15 = 3 then some (.zcol (fld w 20 5) (fld w 15 5)) else
  if fld w 0 10 = 4 then some (.zaddr (fld w 20 5) (fld w 15 5) (fld w 10 5)) else
  if fld w 0 10 = 5 then some (.zaddc (fld w 20 5) (fld w 15 5) (fld w 10 5)) else
  if fld w 0 10 = 6 then some (.ptrunc (fld w 20 5) (fld w 15 5) (fld w 10 5)) else
  if fld w 0 10 = 7 then some (.pdig (fld w 20 5) (fld w 15 5) (fld w 10 5)) else
  if fld w 0 10 = 8 then some (.pcat (fld w 20 5) (fld w 15 5) (fld w 10 5)) else
  none

/-- Opcode 0x08, form I. -/
def decodeAddi (w : BitVec 32) : Option Instr :=
  some (.addi (fld w 20 5) (fld w 15 5) (fld w 0 15))

/-- Opcode 0x09, form I. -/
def decodeAndi (w : BitVec 32) : Option Instr :=
  some (.andi (fld w 20 5) (fld w 15 5) (fld w 0 15))

/-- Opcode 0x0A, form I. -/
def decodeOri (w : BitVec 32) : Option Instr :=
  some (.ori (fld w 20 5) (fld w 15 5) (fld w 0 15))

/-- Opcode 0x0B, form I. -/
def decodeXori (w : BitVec 32) : Option Instr :=
  some (.xori (fld w 20 5) (fld w 15 5) (fld w 0 15))

/-- Opcode 0x0C, form I. -/
def decodeSlti (w : BitVec 32) : Option Instr :=
  some (.slti (fld w 20 5) (fld w 15 5) (fld w 0 15))

/-- Opcode 0x0D, form I. -/
def decodeSltiu (w : BitVec 32) : Option Instr :=
  some (.sltiu (fld w 20 5) (fld w 15 5) (fld w 0 15))

/-- Opcode 0x0E, form I. -/
def decodeShi (w : BitVec 32) : Option Instr :=
  if fld w 6 9 = 1 then some (.shli (fld w 20 5) (fld w 15 5) (fld w 0 6)) else
  if fld w 6 9 = 2 then some (.shri (fld w 20 5) (fld w 15 5) (fld w 0 6)) else
  if fld w 6 9 = 3 then some (.srai (fld w 20 5) (fld w 15 5) (fld w 0 6)) else
  none

/-- Opcode 0x0F, form I. -/
def decodeLih (w : BitVec 32) : Option Instr :=
  some (.lih (fld w 20 5) (fld w 15 5) (fld w 0 15))

/-- Opcode 0x10, form I. -/
def decodeLdB (w : BitVec 32) : Option Instr :=
  some (.ldB (fld w 20 5) (fld w 15 5) (fld w 0 15))

/-- Opcode 0x11, form I. -/
def decodeLdH (w : BitVec 32) : Option Instr :=
  some (.ldH (fld w 20 5) (fld w 15 5) (fld w 0 15))

/-- Opcode 0x12, form I. -/
def decodeLdW (w : BitVec 32) : Option Instr :=
  some (.ldW (fld w 20 5) (fld w 15 5) (fld w 0 15))

/-- Opcode 0x13, form I. -/
def decodeLdD (w : BitVec 32) : Option Instr :=
  some (.ldD (fld w 20 5) (fld w 15 5) (fld w 0 15))

/-- Opcode 0x14, form I. -/
def decodeLdzB (w : BitVec 32) : Option Instr :=
  some (.ldzB (fld w 20 5) (fld w 15 5) (fld w 0 15))

/-- Opcode 0x15, form I. -/
def decodeLdzH (w : BitVec 32) : Option Instr :=
  some (.ldzH (fld w 20 5) (fld w 15 5) (fld w 0 15))

/-- Opcode 0x16, form I. -/
def decodeLdzW (w : BitVec 32) : Option Instr :=
  some (.ldzW (fld w 20 5) (fld w 15 5) (fld w 0 15))

/-- Opcode 0x17, form I. -/
def decodeLdx (w : BitVec 32) : Option Instr :=
  some (.ldx (fld w 20 5) (fld w 15 5) (fld w 0 15))

/-- Opcode 0x18, form S. -/
def decodeStB (w : BitVec 32) : Option Instr :=
  some (.stB (fld w 20 5) (fld w 15 5) (fld w 0 15))

/-- Opcode 0x19, form S. -/
def decodeStH (w : BitVec 32) : Option Instr :=
  some (.stH (fld w 20 5) (fld w 15 5) (fld w 0 15))

/-- Opcode 0x1A, form S. -/
def decodeStW (w : BitVec 32) : Option Instr :=
  some (.stW (fld w 20 5) (fld w 15 5) (fld w 0 15))

/-- Opcode 0x1B, form S. -/
def decodeStD (w : BitVec 32) : Option Instr :=
  some (.stD (fld w 20 5) (fld w 15 5) (fld w 0 15))

/-- Opcode 0x1C, form A. -/
def decodeLdb (w : BitVec 32) : Option Instr :=
  if fld w 0 10 = 0 then some (.ldbB (fld w 20 5) (fld w 15 5) (fld w 10 5)) else
  if fld w 0 10 = 1 then some (.ldbH (fld w 20 5) (fld w 15 5) (fld w 10 5)) else
  if fld w 0 10 = 2 then some (.ldbW (fld w 20 5) (fld w 15 5) (fld w 10 5)) else
  if fld w 0 10 = 3 then some (.ldbD (fld w 20 5) (fld w 15 5) (fld w 10 5)) else
  if fld w 0 10 = 4 then some (.ldbzB (fld w 20 5) (fld w 15 5) (fld w 10 5)) else
  if fld w 0 10 = 5 then some (.ldbzH (fld w 20 5) (fld w 15 5) (fld w 10 5)) else
  if fld w 0 10 = 6 then some (.ldbzW (fld w 20 5) (fld w 15 5) (fld w 10 5)) else
  none

/-- Opcode 0x1D, form A. -/
def decodeAmo (w : BitVec 32) : Option Instr :=
  if fld w 5 5 = 1 ∧ fld w 0 4 = 1 then some (.amoadd (fld w 20 5) (fld w 15 5) (fld w 10 5) (fld w 4 1)) else
  if fld w 5 5 = 1 ∧ fld w 0 4 = 2 then some (.amoand (fld w 20 5) (fld w 15 5) (fld w 10 5) (fld w 4 1)) else
  if fld w 5 5 = 1 ∧ fld w 0 4 = 3 then some (.amoor (fld w 20 5) (fld w 15 5) (fld w 10 5) (fld w 4 1)) else
  if fld w 5 5 = 1 ∧ fld w 0 4 = 4 then some (.amoxor (fld w 20 5) (fld w 15 5) (fld w 10 5) (fld w 4 1)) else
  if fld w 5 5 = 1 ∧ fld w 0 4 = 5 then some (.amomin (fld w 20 5) (fld w 15 5) (fld w 10 5) (fld w 4 1)) else
  if fld w 5 5 = 1 ∧ fld w 0 4 = 6 then some (.amomax (fld w 20 5) (fld w 15 5) (fld w 10 5) (fld w 4 1)) else
  if fld w 5 5 = 1 ∧ fld w 0 4 = 7 then some (.amominu (fld w 20 5) (fld w 15 5) (fld w 10 5) (fld w 4 1)) else
  if fld w 5 5 = 1 ∧ fld w 0 4 = 8 then some (.amomaxu (fld w 20 5) (fld w 15 5) (fld w 10 5) (fld w 4 1)) else
  if fld w 5 5 = 1 ∧ fld w 0 4 = 9 then some (.amoswp (fld w 20 5) (fld w 15 5) (fld w 10 5) (fld w 4 1)) else
  if fld w 0 15 = 58 then some (.join (fld w 20 5) (fld w 15 5)) else
  none

/-- Opcode 0x1E, form A. -/
def decodeCas (w : BitVec 32) : Option Instr :=
  if fld w 1 9 = 1 then some (.cas (fld w 20 5) (fld w 15 5) (fld w 10 5) (fld w 0 1)) else
  none

/-- Opcode 0x1F, form H. -/
def decodeNop (w : BitVec 32) : Option Instr :=
  if fld w 0 25 = 0 then some (.nop) else
  none

/-- Opcode 0x20, form B. -/
def decodeBeq (w : BitVec 32) : Option Instr :=
  some (.beq (fld w 20 5) (fld w 15 5) (fld w 0 15))

/-- Opcode 0x21, form B. -/
def decodeBne (w : BitVec 32) : Option Instr :=
  some (.bne (fld w 20 5) (fld w 15 5) (fld w 0 15))

/-- Opcode 0x22, form B. -/
def decodeBlt (w : BitVec 32) : Option Instr :=
  some (.blt (fld w 20 5) (fld w 15 5) (fld w 0 15))

/-- Opcode 0x23, form B. -/
def decodeBge (w : BitVec 32) : Option Instr :=
  some (.bge (fld w 20 5) (fld w 15 5) (fld w 0 15))

/-- Opcode 0x24, form B. -/
def decodeBltu (w : BitVec 32) : Option Instr :=
  some (.bltu (fld w 20 5) (fld w 15 5) (fld w 0 15))

/-- Opcode 0x25, form B. -/
def decodeBgeu (w : BitVec 32) : Option Instr :=
  some (.bgeu (fld w 20 5) (fld w 15 5) (fld w 0 15))

/-- Opcode 0x26, form J. -/
def decodeJ (w : BitVec 32) : Option Instr :=
  some (.j (fld w 0 25))

/-- Opcode 0x27, form J. -/
def decodeJal (w : BitVec 32) : Option Instr :=
  some (.jal (fld w 0 25))

/-- Opcode 0x28, form A. -/
def decodeJumpreg (w : BitVec 32) : Option Instr :=
  if fld w 20 5 = 0 ∧ fld w 0 15 = 1 then some (.jr (fld w 15 5)) else
  if fld w 20 5 = 0 ∧ fld w 0 15 = 2 then some (.callr (fld w 15 5)) else
  if fld w 0 25 = 3 then some (.ret) else
  none

/-- Opcode 0x29, form A. -/
def decodeCallat (w : BitVec 32) : Option Instr :=
  if fld w 0 10 = 1 then some (.callat (fld w 20 5) (fld w 15 5) (fld w 10 5)) else
  if fld w 20 5 = 0 ∧ fld w 0 10 = 2 then some (.reply (fld w 15 5) (fld w 10 5)) else
  none

/-- Opcode 0x2A, form A. -/
def decodeWait (w : BitVec 32) : Option Instr :=
  if fld w 0 15 = 1 then some (.waitr (fld w 20 5) (fld w 15 5)) else
  if fld w 0 25 = 2 then some (.waitw) else
  if fld w 19 6 = 0 ∧ fld w 0 15 = 3 then some (.waite (fld w 15 4)) else
  if fld w 20 5 = 0 ∧ fld w 0 15 = 4 then some (.waiteFill (fld w 15 5)) else
  if fld w 20 5 = 0 ∧ fld w 0 15 = 5 then some (.waiteFree (fld w 15 5)) else
  none

/-- Opcode 0x2B, form A. -/
def decodeQueue (w : BitVec 32) : Option Instr :=
  if fld w 0 10 = 1 then some (.enq (fld w 20 5) (fld w 15 5) (fld w 10 5)) else
  if fld w 0 10 = 2 then some (.deq (fld w 20 5) (fld w 15 5) (fld w 10 5)) else
  if fld w 0 10 = 3 then some (.deqt (fld w 20 5) (fld w 15 5) (fld w 10 5)) else
  none

/-- Opcode 0x2C, form X. -/
def decodeSend (w : BitVec 32) : Option Instr :=
  if fld w 2 8 = 2 then some (.send (fld w 20 5) (fld w 15 5) (fld w 10 5) (fld w 0 2)) else
  none

/-- Opcode 0x2D, form A. -/
def decodeRound (w : BitVec 32) : Option Instr :=
  if fld w 0 15 = 1 then some (.rpub (fld w 20 5) (fld w 15 5)) else
  if fld w 0 15 = 2 then some (.racq (fld w 20 5) (fld w 15 5)) else
  if fld w 20 5 = 0 ∧ fld w 0 10 = 3 then some (.rfloor (fld w 15 5) (fld w 10 5)) else
  if fld w 0 15 = 4 then some (.rsub (fld w 20 5) (fld w 15 5)) else
  if fld w 20 5 = 0 ∧ fld w 0 15 = 5 then some (.rfloorClr (fld w 15 5)) else
  none

/-- Opcode 0x2E, form A. -/
def decodeBarrier (w : BitVec 32) : Option Instr :=
  if fld w 19 6 = 0 ∧ fld w 0 10 = 1 then some (.binit (fld w 15 4) (fld w 10 5)) else
  if fld w 19 6 = 0 ∧ fld w 0 15 = 2 then some (.barr (fld w 15 4)) else
  if fld w 19 6 = 0 ∧ fld w 0 10 = 3 then some (.bexp (fld w 15 4) (fld w 10 5)) else
  if fld w 19 1 = 0 ∧ fld w 0 10 = 4 then some (.bwait (fld w 20 5) (fld w 15 4) (fld w 10 5)) else
  if fld w 19 1 = 0 ∧ fld w 0 15 = 5 then some (.btest (fld w 20 5) (fld w 15 4)) else
  if fld w 24 1 = 0 ∧ fld w 0 15 = 6 then some (.bhset (fld w 20 4) (fld w 15 5)) else
  none

/-- Opcode 0x2F, form A. -/
def decodeBasin (w : BitVec 32) : Option Instr :=
  if fld w 20 5 = 0 ∧ fld w 0 10 = 1 then some (.bsni (fld w 15 5) (fld w 10 5)) else
  if fld w 0 15 = 2 then some (.bsnp (fld w 20 5) (fld w 15 5)) else
  if fld w 20 5 = 0 ∧ fld w 0 15 = 3 then some (.bsnc (fld w 15 5)) else
  if fld w 0 15 = 4 then some (.bsng (fld w 20 5) (fld w 15 5)) else
  if fld w 20 5 = 0 ∧ fld w 0 15 = 5 then some (.bsnf (fld w 15 5)) else
  none

/-- Opcode 0x30, form A. -/
def decodeTdesc (w : BitVec 32) : Option Instr :=
  if fld w 24 1 = 0 ∧ fld w 0 10 = 1 then some (.tdef (fld w 20 4) (fld w 15 5) (fld w 10 5)) else
  if fld w 24 1 = 0 ∧ fld w 0 15 = 2 then some (.tldd (fld w 20 4) (fld w 15 5)) else
  if fld w 20 5 = 0 ∧ fld w 14 1 = 0 ∧ fld w 0 10 = 3 then some (.tstd (fld w 15 5) (fld w 10 4)) else
  if fld w 24 1 = 0 ∧ fld w 19 1 = 0 ∧ fld w 0 10 = 4 then some (.text (fld w 20 4) (fld w 15 4) (fld w 10 5)) else
  none

/-- Opcode 0x31, form P. -/
def decodeTsub (w : BitVec 32) : Option Instr :=
  some (.tsub (fld w 21 4) (fld w 17 4) (fld w 14 3) (fld w 0 14))

/-- Opcode 0x32, form A. -/
def decodeTsubr (w : BitVec 32) : Option Instr :=
  if fld w 24 1 = 0 ∧ fld w 19 1 = 0 ∧ fld w 0 10 = 1 then some (.tsubr (fld w 20 4) (fld w 15 4) (fld w 10 5)) else
  none

/-- Opcode 0x38, form T. -/
def decodeBcopy (w : BitVec 32) : Option Instr :=
  if fld w 13 4 = 0 ∧ fld w 0 9 = 0 then some (.bcopy (fld w 21 4) (fld w 17 4) (fld w 9 4)) else
  if fld w 13 4 = 0 ∧ fld w 7 2 = 1 then some (.bcopyBnd (fld w 21 4) (fld w 17 4) (fld w 9 4) (fld w 0 7)) else
  if fld w 13 4 = 0 ∧ fld w 6 3 = 4 then some (.bcopyBsn (fld w 21 4) (fld w 17 4) (fld w 9 4) (fld w 0 6)) else
  none

/-- Opcode 0x39, form T. -/
def decodeBfill (w : BitVec 32) : Option Instr :=
  if fld w 13 8 = 0 ∧ fld w 8 1 = 0 then some (.bfill (fld w 21 4) (fld w 9 4) (fld w 0 8)) else
  none

/-- Opcode 0x3A, form T. -/
def decodeBgath (w : BitVec 32) : Option Instr :=
  if fld w 0 9 = 0 then some (.bgath (fld w 21 4) (fld w 17 4) (fld w 13 4) (fld w 9 4)) else
  none

/-- Opcode 0x3B, form T. -/
def decodeBscat (w : BitVec 32) : Option Instr :=
  if fld w 0 9 = 0 then some (.bscat (fld w 21 4) (fld w 17 4) (fld w 13 4) (fld w 9 4)) else
  none

/-- Opcode 0x3C, form T. -/
def decodeResidency (w : BitVec 32) : Option Instr :=
  if fld w 13 8 = 0 ∧ fld w 0 9 = 64 then some (.bpref (fld w 21 4) (fld w 9 4)) else
  if fld w 13 8 = 0 ∧ fld w 3 6 = 16 then some (.bres (fld w 21 4) (fld w 9 4) (fld w 0 3)) else
  if fld w 13 8 = 0 ∧ fld w 0 9 = 192 then some (.bevict (fld w 21 4) (fld w 9 4)) else
  if fld w 13 8 = 0 ∧ fld w 0 9 = 256 then some (.bdemote (fld w 21 4) (fld w 9 4)) else
  none

/-- Opcode 0x3D, form T. -/
def decodeOwnership (w : BitVec 32) : Option Instr :=
  if fld w 13 8 = 0 ∧ fld w 0 9 = 64 then some (.bown (fld w 21 4) (fld w 9 4)) else
  if fld w 13 8 = 0 ∧ fld w 0 9 = 128 then some (.brel (fld w 21 4) (fld w 9 4)) else
  none

/-- Opcode 0x40, form T. -/
def decodeMxst (w : BitVec 32) : Option Instr :=
  if fld w 21 4 = 0 ∧ fld w 13 4 = 0 ∧ fld w 1 8 = 0 then some (.mxst (fld w 17 4) (fld w 9 4) (fld w 0 1)) else
  none

/-- Opcode 0x41, form T. -/
def decodeMxma (w : BitVec 32) : Option Instr :=
  if fld w 13 4 = 0 ∧ fld w 1 8 = 0 then some (.mxma (fld w 21 4) (fld w 17 4) (fld w 9 4) (fld w 0 1)) else
  none

/-- Opcode 0x42, form T. -/
def decodeMxmas (w : BitVec 32) : Option Instr :=
  if fld w 13 4 = 0 ∧ fld w 3 6 = 0 then some (.mxmas (fld w 21 4) (fld w 17 4) (fld w 9 4) (fld w 1 2) (fld w 0 1)) else
  none

/-- Opcode 0x48, form T. -/
def decodeVarith (w : BitVec 32) : Option Instr :=
  if fld w 0 9 = 1 then some (.vadd (fld w 21 4) (fld w 17 4) (fld w 13 4) (fld w 9 4)) else
  if fld w 0 9 = 2 then some (.vsub (fld w 21 4) (fld w 17 4) (fld w 13 4) (fld w 9 4)) else
  if fld w 0 9 = 3 then some (.vmul (fld w 21 4) (fld w 17 4) (fld w 13 4) (fld w 9 4)) else
  if fld w 0 9 = 4 then some (.vfma (fld w 21 4) (fld w 17 4) (fld w 13 4) (fld w 9 4)) else
  if fld w 0 9 = 5 then some (.vmin (fld w 21 4) (fld w 17 4) (fld w 13 4) (fld w 9 4)) else
  if fld w 0 9 = 6 then some (.vmax (fld w 21 4) (fld w 17 4) (fld w 13 4) (fld w 9 4)) else
  if fld w 13 4 = 0 ∧ fld w 0 9 = 7 then some (.vabs (fld w 21 4) (fld w 17 4) (fld w 9 4)) else
  if fld w 13 4 = 0 ∧ fld w 0 9 = 8 then some (.vneg (fld w 21 4) (fld w 17 4) (fld w 9 4)) else
  none

/-- Opcode 0x49, form T. -/
def decodeVlogic (w : BitVec 32) : Option Instr :=
  if fld w 0 9 = 1 then some (.vand (fld w 21 4) (fld w 17 4) (fld w 13 4) (fld w 9 4)) else
  if fld w 0 9 = 2 then some (.vor (fld w 21 4) (fld w 17 4) (fld w 13 4) (fld w 9 4)) else
  if fld w 0 9 = 3 then some (.vxor (fld w 21 4) (fld w 17 4) (fld w 13 4) (fld w 9 4)) else
  if fld w 13 4 = 0 ∧ fld w 0 9 = 4 then some (.vnot (fld w 21 4) (fld w 17 4) (fld w 9 4)) else
  if fld w 0 9 = 5 then some (.vshl (fld w 21 4) (fld w 17 4) (fld w 13 4) (fld w 9 4)) else
  if fld w 0 9 = 6 then some (.vshr (fld w 21 4) (fld w 17 4) (fld w 13 4) (fld w 9 4)) else
  none

/-- Opcode 0x4A, form T. -/
def decodeVcmpsel (w : BitVec 32) : Option Instr :=
  if fld w 7 2 = 0 ∧ fld w 0 4 = 1 then some (.vcmp (fld w 21 4) (fld w 17 4) (fld w 13 4) (fld w 9 4) (fld w 4 3)) else
  if fld w 0 9 = 2 then some (.vsel (fld w 21 4) (fld w 17 4) (fld w 13 4) (fld w 9 4)) else
  none

/-- Opcode 0x4B, form T. -/
def decodeVcvt (w : BitVec 32) : Option Instr :=
  if fld w 13 4 = 0 ∧ fld w 2 7 = 0 then some (.vcvt (fld w 21 4) (fld w 17 4) (fld w 9 4) (fld w 0 2)) else
  none

/-- Opcode 0x4C, form T. -/
def decodeVfunc (w : BitVec 32) : Option Instr :=
  if fld w 13 4 = 0 ∧ fld w 0 9 = 1 then some (.vexp2 (fld w 21 4) (fld w 17 4) (fld w 9 4)) else
  if fld w 13 4 = 0 ∧ fld w 0 9 = 2 then some (.vlog2 (fld w 21 4) (fld w 17 4) (fld w 9 4)) else
  if fld w 13 4 = 0 ∧ fld w 0 9 = 3 then some (.vrcp (fld w 21 4) (fld w 17 4) (fld w 9 4)) else
  if fld w 13 4 = 0 ∧ fld w 0 9 = 4 then some (.vrsq (fld w 21 4) (fld w 17 4) (fld w 9 4)) else
  if fld w 13 4 = 0 ∧ fld w 0 9 = 5 then some (.vtanh (fld w 21 4) (fld w 17 4) (fld w 9 4)) else
  none

/-- Opcode 0x4D, form T. -/
def decodeVred (w : BitVec 32) : Option Instr :=
  if fld w 13 4 = 0 ∧ fld w 3 6 = 0 then some (.vred (fld w 21 4) (fld w 17 4) (fld w 9 4) (fld w 2 1) (fld w 0 2)) else
  none

/-- Opcode 0x4E, form T. -/
def decodeVscan (w : BitVec 32) : Option Instr :=
  if fld w 13 4 = 0 ∧ fld w 4 5 = 0 then some (.vscan (fld w 21 4) (fld w 17 4) (fld w 9 4) (fld w 2 2) (fld w 0 2)) else
  none

/-- Opcode 0x4F, form T. -/
def decodeVperm (w : BitVec 32) : Option Instr :=
  if fld w 13 4 = 0 ∧ fld w 0 9 = 1 then some (.vtrn (fld w 21 4) (fld w 17 4) (fld w 9 4)) else
  if fld w 13 4 = 0 ∧ fld w 6 3 = 0 ∧ fld w 0 4 = 2 then some (.vbcst (fld w 21 4) (fld w 17 4) (fld w 9 4) (fld w 4 2)) else
  if fld w 5 4 = 0 ∧ fld w 0 4 = 3 then some (.vgath (fld w 21 4) (fld w 17 4) (fld w 13 4) (fld w 9 4) (fld w 4 1)) else
  if fld w 13 4 = 0 ∧ fld w 0 9 = 4 then some (.vmov (fld w 21 4) (fld w 17 4) (fld w 9 4)) else
  none

/-- Opcode 0x50, form T. -/
def decodeVgen (w : BitVec 32) : Option Instr :=
  if fld w 13 8 = 0 ∧ fld w 0 4 = 7 then some (.vgenConst (fld w 21 4) (fld w 9 4) (fld w 4 5)) else
  if fld w 13 8 = 0 ∧ fld w 4 5 = 0 then some (.vgen (fld w 21 4) (fld w 9 4) (fld w 0 4)) else
  none

/-- Opcode 0x58, form X. -/
def decodeCbld (w : BitVec 32) : Option Instr :=
  if fld w 20 5 = 0 ∧ fld w 0 10 = 9 then some (.cbld (fld w 15 5) (fld w 10 5)) else
  none

/-- Opcode 0x59, form X. -/
def decodeSkset (w : BitVec 32) : Option Instr :=
  if fld w 20 5 = 0 ∧ fld w 0 10 = 9 then some (.skset (fld w 15 5) (fld w 10 5)) else
  none

/-- Opcode 0x5A, form X. -/
def decodeXbset (w : BitVec 32) : Option Instr :=
  if fld w 0 10 = 8 then some (.xbsetCtr (fld w 20 5) (fld w 15 5) (fld w 10 5)) else
  if fld w 0 10 = 16 then some (.xbsetTerm (fld w 20 5) (fld w 15 5) (fld w 10 5)) else
  if fld w 0 10 = 24 then some (.xbsetStage (fld w 20 5) (fld w 15 5) (fld w 10 5)) else
  none

/-- Opcode 0x5B, form X. -/
def decodeXbarm (w : BitVec 32) : Option Instr :=
  if fld w 0 15 = 8 then some (.xbarmOn (fld w 20 5) (fld w 15 5)) else
  if fld w 0 15 = 16 then some (.xbarmOff (fld w 20 5) (fld w 15 5)) else
  none

/-- Opcode 0x5C, form X. -/
def decodeEctl (w : BitVec 32) : Option Instr :=
  if fld w 2 8 = 2 then some (.ectlRd (fld w 20 5) (fld w 15 5) (fld w 10 5) (fld w 0 2)) else
  if fld w 20 5 = 0 ∧ fld w 2 13 = 4 then some (.ectlRes (fld w 15 5) (fld w 0 2)) else
  if fld w 20 5 = 0 ∧ fld w 2 13 = 6 then some (.ectlCan (fld w 15 5) (fld w 0 2)) else
  none

/-- Opcode 0x5D, form X. -/
def decodeEstat (w : BitVec 32) : Option Instr :=
  if fld w 2 18 = 2 then some (.estat (fld w 20 5) (fld w 0 2)) else
  none

/-- Opcode 0x60, form A. -/
def decodeSys (w : BitVec 32) : Option Instr :=
  if fld w 20 5 = 0 ∧ fld w 0 15 = 1 then some (.trap (fld w 15 5)) else
  if fld w 20 5 = 0 ∧ fld w 0 15 = 2 then some (.scall (fld w 15 5)) else
  if fld w 0 25 = 3 then some (.mcall) else
  if fld w 0 25 = 4 then some (.eret) else
  if fld w 20 5 = 0 ∧ fld w 0 15 = 5 then some (.resume (fld w 15 5)) else
  if fld w 20 5 = 0 ∧ fld w 0 15 = 6 then some (.park (fld w 15 5)) else
  none

/-- Opcode 0x61, form A. -/
def decodeCracc (w : BitVec 32) : Option Instr :=
  if fld w 10 10 = 1 then some (.crr (fld w 20 5) (fld w 0 10)) else
  if fld w 10 5 = 2 then some (.crw (fld w 20 5) (fld w 15 5) (fld w 0 10)) else
  none

/-- Opcode 0x62, form A. -/
def decodeContext (w : BitVec 32) : Option Instr :=
  if fld w 0 10 = 1 then some (.ctxr (fld w 20 5) (fld w 15 5) (fld w 10 5)) else
  if fld w 0 10 = 2 then some (.ctxw (fld w 20 5) (fld w 15 5) (fld w 10 5)) else
  if fld w 20 5 = 0 ∧ fld w 0 15 = 3 then some (.spill (fld w 15 5)) else
  if fld w 0 10 = 4 then some (.fill (fld w 20 5) (fld w 15 5) (fld w 10 5)) else
  none

/-- Opcode 0x63, form A. -/
def decodeKey (w : BitVec 32) : Option Instr :=
  if fld w 0 10 = 1 then some (.kload (fld w 20 5) (fld w 15 5) (fld w 10 5)) else
  if fld w 0 10 = 2 then some (.kder (fld w 20 5) (fld w 15 5) (fld w 10 5)) else
  if fld w 0 15 = 3 then some (.krev (fld w 20 5) (fld w 15 5)) else
  none

/-- Opcode 0x64, form A. -/
def decodeJapp (w : BitVec 32) : Option Instr :=
  if fld w 0 10 = 1 then some (.japp (fld w 20 5) (fld w 15 5) (fld w 10 5)) else
  none

/-- Opcode 0x65, form A. -/
def decodeFence (w : BitVec 32) : Option Instr :=
  if fld w 0 25 = 1 then some (.ifence) else
  if fld w 0 25 = 2 then some (.tfence) else
  none

/-- Opcode 0x66, form A. -/
def decodeStop (w : BitVec 32) : Option Instr :=
  if fld w 0 25 = 1 then some (.bkpt) else
  if fld w 0 25 = 2 then some (.halt) else
  none

/-- Opcode 0x78, form H. -/
def decodeImmx (w : BitVec 32) : Option Instr :=
  some (.immx (fld w 0 25))

/-- Opcode 0x79, form H. -/
def decodeRep (w : BitVec 32) : Option Instr :=
  if fld w 4 15 = 0 then some (.rep (fld w 19 6) (fld w 0 4)) else
  none

/-- Opcode 0x7A, form H. -/
def decodeHint (w : BitVec 32) : Option Instr :=
  some (.hint (fld w 22 3) (fld w 0 22))

/-- The major opcode map (R108): the cell's own table, or a reserved cell. -/
def decodeCell (w : BitVec 32) : Except Reject (Option Instr) :=
  match (fld w 25 7).toNat with
  | 0x00 => .ok (decodeAlu w)
  | 0x01 => .ok (decodeMuldiv w)
  | 0x02 => .ok (decodeShift w)
  | 0x03 => .ok (decodeTree w)
  | 0x08 => .ok (decodeAddi w)
  | 0x09 => .ok (decodeAndi w)
  | 0x0A => .ok (decodeOri w)
  | 0x0B => .ok (decodeXori w)
  | 0x0C => .ok (decodeSlti w)
  | 0x0D => .ok (decodeSltiu w)
  | 0x0E => .ok (decodeShi w)
  | 0x0F => .ok (decodeLih w)
  | 0x10 => .ok (decodeLdB w)
  | 0x11 => .ok (decodeLdH w)
  | 0x12 => .ok (decodeLdW w)
  | 0x13 => .ok (decodeLdD w)
  | 0x14 => .ok (decodeLdzB w)
  | 0x15 => .ok (decodeLdzH w)
  | 0x16 => .ok (decodeLdzW w)
  | 0x17 => .ok (decodeLdx w)
  | 0x18 => .ok (decodeStB w)
  | 0x19 => .ok (decodeStH w)
  | 0x1A => .ok (decodeStW w)
  | 0x1B => .ok (decodeStD w)
  | 0x1C => .ok (decodeLdb w)
  | 0x1D => .ok (decodeAmo w)
  | 0x1E => .ok (decodeCas w)
  | 0x1F => .ok (decodeNop w)
  | 0x20 => .ok (decodeBeq w)
  | 0x21 => .ok (decodeBne w)
  | 0x22 => .ok (decodeBlt w)
  | 0x23 => .ok (decodeBge w)
  | 0x24 => .ok (decodeBltu w)
  | 0x25 => .ok (decodeBgeu w)
  | 0x26 => .ok (decodeJ w)
  | 0x27 => .ok (decodeJal w)
  | 0x28 => .ok (decodeJumpreg w)
  | 0x29 => .ok (decodeCallat w)
  | 0x2A => .ok (decodeWait w)
  | 0x2B => .ok (decodeQueue w)
  | 0x2C => .ok (decodeSend w)
  | 0x2D => .ok (decodeRound w)
  | 0x2E => .ok (decodeBarrier w)
  | 0x2F => .ok (decodeBasin w)
  | 0x30 => .ok (decodeTdesc w)
  | 0x31 => .ok (decodeTsub w)
  | 0x32 => .ok (decodeTsubr w)
  | 0x38 => .ok (decodeBcopy w)
  | 0x39 => .ok (decodeBfill w)
  | 0x3A => .ok (decodeBgath w)
  | 0x3B => .ok (decodeBscat w)
  | 0x3C => .ok (decodeResidency w)
  | 0x3D => .ok (decodeOwnership w)
  | 0x40 => .ok (decodeMxst w)
  | 0x41 => .ok (decodeMxma w)
  | 0x42 => .ok (decodeMxmas w)
  | 0x48 => .ok (decodeVarith w)
  | 0x49 => .ok (decodeVlogic w)
  | 0x4A => .ok (decodeVcmpsel w)
  | 0x4B => .ok (decodeVcvt w)
  | 0x4C => .ok (decodeVfunc w)
  | 0x4D => .ok (decodeVred w)
  | 0x4E => .ok (decodeVscan w)
  | 0x4F => .ok (decodeVperm w)
  | 0x50 => .ok (decodeVgen w)
  | 0x58 => .ok (decodeCbld w)
  | 0x59 => .ok (decodeSkset w)
  | 0x5A => .ok (decodeXbset w)
  | 0x5B => .ok (decodeXbarm w)
  | 0x5C => .ok (decodeEctl w)
  | 0x5D => .ok (decodeEstat w)
  | 0x60 => .ok (decodeSys w)
  | 0x61 => .ok (decodeCracc w)
  | 0x62 => .ok (decodeContext w)
  | 0x63 => .ok (decodeKey w)
  | 0x64 => .ok (decodeJapp w)
  | 0x65 => .ok (decodeFence w)
  | 0x66 => .ok (decodeStop w)
  | 0x78 => .ok (decodeImmx w)
  | 0x79 => .ok (decodeRep w)
  | 0x7A => .ok (decodeHint w)
  | _ => .error .reservedCell

/-- Decode one word (R112 check 2). -/
def decode (w : BitVec 32) : Except Reject Instr :=
  match decodeCell w with
  | .error r => .error r
  | .ok none => .error .reservedFunction
  | .ok (some i) => if i.wf then .ok i else .error .reservedField

/-- Decode the word at the head of a list of bytes, little-endian (R5, R104), and the bytes after it. -/
def decodeBytes : ByteList → Except Reject (Instr × ByteList)
  | b0 :: b1 :: b2 :: b3 :: rest =>
    match decode (b3 ++ b2 ++ b1 ++ b0 : BitVec 32) with
    | .ok i => .ok (i, rest)
    | .error r => .error r
  | _ => .error .shortWord

/-- The bytes of a word as they stand in memory, lowest address first (R5). -/
def wordBytes (w : BitVec 32) : ByteList :=
  [w.extractLsb' 0 8, w.extractLsb' 8 8, w.extractLsb' 16 8, w.extractLsb' 24 8]

/-- The instruction the decoder reads from a word whose bits are `w`, as the opcode table numbers them. -/
def decodeTableWord (nbits w : Nat) : Option Instr :=
  match decodeBytes (wordBytes (BitVec.ofNat 32 (w % 2 ^ nbits))) with
  | .ok (i, _) => some i
  | .error _ => none

/-- The word of an instruction (R105, R108, R110); an event has none. -/
def encode : Instr → Option (BitVec 32)
  | .add d a b => some (0#7 ++ d ++ a ++ b ++ 1#10 : BitVec 32)
  | .sub d a b => some (0#7 ++ d ++ a ++ b ++ 2#10 : BitVec 32)
  | .and d a b => some (0#7 ++ d ++ a ++ b ++ 3#10 : BitVec 32)
  | .or d a b => some (0#7 ++ d ++ a ++ b ++ 4#10 : BitVec 32)
  | .xor d a b => some (0#7 ++ d ++ a ++ b ++ 5#10 : BitVec 32)
  | .andn d a b => some (0#7 ++ d ++ a ++ b ++ 6#10 : BitVec 32)
  | .orn d a b => some (0#7 ++ d ++ a ++ b ++ 7#10 : BitVec 32)
  | .min d a b => some (0#7 ++ d ++ a ++ b ++ 8#10 : BitVec 32)
  | .max d a b => some (0#7 ++ d ++ a ++ b ++ 9#10 : BitVec 32)
  | .minu d a b => some (0#7 ++ d ++ a ++ b ++ 10#10 : BitVec 32)
  | .maxu d a b => some (0#7 ++ d ++ a ++ b ++ 11#10 : BitVec 32)
  | .slt d a b => some (0#7 ++ d ++ a ++ b ++ 12#10 : BitVec 32)
  | .sltu d a b => some (0#7 ++ d ++ a ++ b ++ 13#10 : BitVec 32)
  | .seq d a b => some (0#7 ++ d ++ a ++ b ++ 14#10 : BitVec 32)
  | .sne d a b => some (0#7 ++ d ++ a ++ b ++ 15#10 : BitVec 32)
  | .mul d a b => some (1#7 ++ d ++ a ++ b ++ 1#10 : BitVec 32)
  | .mulh d a b => some (1#7 ++ d ++ a ++ b ++ 2#10 : BitVec 32)
  | .mulhu d a b => some (1#7 ++ d ++ a ++ b ++ 3#10 : BitVec 32)
  | .div d a b => some (1#7 ++ d ++ a ++ b ++ 4#10 : BitVec 32)
  | .divu d a b => some (1#7 ++ d ++ a ++ b ++ 5#10 : BitVec 32)
  | .rem d a b => some (1#7 ++ d ++ a ++ b ++ 6#10 : BitVec 32)
  | .remu d a b => some (1#7 ++ d ++ a ++ b ++ 7#10 : BitVec 32)
  | .shl d a b => some (2#7 ++ d ++ a ++ b ++ 1#10 : BitVec 32)
  | .shr d a b => some (2#7 ++ d ++ a ++ b ++ 2#10 : BitVec 32)
  | .sra d a b => some (2#7 ++ d ++ a ++ b ++ 3#10 : BitVec 32)
  | .rot d a b => some (2#7 ++ d ++ a ++ b ++ 4#10 : BitVec 32)
  | .clz d a => some (2#7 ++ d ++ a ++ 5#15 : BitVec 32)
  | .ctz d a => some (2#7 ++ d ++ a ++ 6#15 : BitVec 32)
  | .popc d a => some (2#7 ++ d ++ a ++ 7#15 : BitVec 32)
  | .brev d a => some (2#7 ++ d ++ a ++ 8#15 : BitVec 32)
  | .exts d a b => some (2#7 ++ d ++ a ++ b ++ 9#10 : BitVec 32)
  | .zip d a b => some (3#7 ++ d ++ a ++ b ++ 1#10 : BitVec 32)
  | .zrow d a => some (3#7 ++ d ++ a ++ 2#15 : BitVec 32)
  | .zcol d a => some (3#7 ++ d ++ a ++ 3#15 : BitVec 32)
  | .zaddr d a b => some (3#7 ++ d ++ a ++ b ++ 4#10 : BitVec 32)
  | .zaddc d a b => some (3#7 ++ d ++ a ++ b ++ 5#10 : BitVec 32)
  | .ptrunc d a b => some (3#7 ++ d ++ a ++ b ++ 6#10 : BitVec 32)
  | .pdig d a b => some (3#7 ++ d ++ a ++ b ++ 7#10 : BitVec 32)
  | .pcat d a b => some (3#7 ++ d ++ a ++ b ++ 8#10 : BitVec 32)
  | .addi d a i => some (8#7 ++ d ++ a ++ i : BitVec 32)
  | .andi d a i => some (9#7 ++ d ++ a ++ i : BitVec 32)
  | .ori d a i => some (10#7 ++ d ++ a ++ i : BitVec 32)
  | .xori d a i => some (11#7 ++ d ++ a ++ i : BitVec 32)
  | .slti d a i => some (12#7 ++ d ++ a ++ i : BitVec 32)
  | .sltiu d a i => some (13#7 ++ d ++ a ++ i : BitVec 32)
  | .shli d a s => some (14#7 ++ d ++ a ++ 1#9 ++ s : BitVec 32)
  | .shri d a s => some (14#7 ++ d ++ a ++ 2#9 ++ s : BitVec 32)
  | .srai d a s => some (14#7 ++ d ++ a ++ 3#9 ++ s : BitVec 32)
  | .lih d a i => some (15#7 ++ d ++ a ++ i : BitVec 32)
  | .ldB d a i => some (16#7 ++ d ++ a ++ i : BitVec 32)
  | .ldH d a i => some (17#7 ++ d ++ a ++ i : BitVec 32)
  | .ldW d a i => some (18#7 ++ d ++ a ++ i : BitVec 32)
  | .ldD d a i => some (19#7 ++ d ++ a ++ i : BitVec 32)
  | .ldzB d a i => some (20#7 ++ d ++ a ++ i : BitVec 32)
  | .ldzH d a i => some (21#7 ++ d ++ a ++ i : BitVec 32)
  | .ldzW d a i => some (22#7 ++ d ++ a ++ i : BitVec 32)
  | .ldx d a i => some (23#7 ++ d ++ a ++ i : BitVec 32)
  | .stB v a i => some (24#7 ++ v ++ a ++ i : BitVec 32)
  | .stH v a i => some (25#7 ++ v ++ a ++ i : BitVec 32)
  | .stW v a i => some (26#7 ++ v ++ a ++ i : BitVec 32)
  | .stD v a i => some (27#7 ++ v ++ a ++ i : BitVec 32)
  | .ldbB d a b => some (28#7 ++ d ++ a ++ b ++ 0#10 : BitVec 32)
  | .ldbH d a b => some (28#7 ++ d ++ a ++ b ++ 1#10 : BitVec 32)
  | .ldbW d a b => some (28#7 ++ d ++ a ++ b ++ 2#10 : BitVec 32)
  | .ldbD d a b => some (28#7 ++ d ++ a ++ b ++ 3#10 : BitVec 32)
  | .ldbzB d a b => some (28#7 ++ d ++ a ++ b ++ 4#10 : BitVec 32)
  | .ldbzH d a b => some (28#7 ++ d ++ a ++ b ++ 5#10 : BitVec 32)
  | .ldbzW d a b => some (28#7 ++ d ++ a ++ b ++ 6#10 : BitVec 32)
  | .amoadd d a b z => some (29#7 ++ d ++ a ++ b ++ 1#5 ++ z ++ 1#4 : BitVec 32)
  | .amoand d a b z => some (29#7 ++ d ++ a ++ b ++ 1#5 ++ z ++ 2#4 : BitVec 32)
  | .amoor d a b z => some (29#7 ++ d ++ a ++ b ++ 1#5 ++ z ++ 3#4 : BitVec 32)
  | .amoxor d a b z => some (29#7 ++ d ++ a ++ b ++ 1#5 ++ z ++ 4#4 : BitVec 32)
  | .amomin d a b z => some (29#7 ++ d ++ a ++ b ++ 1#5 ++ z ++ 5#4 : BitVec 32)
  | .amomax d a b z => some (29#7 ++ d ++ a ++ b ++ 1#5 ++ z ++ 6#4 : BitVec 32)
  | .amominu d a b z => some (29#7 ++ d ++ a ++ b ++ 1#5 ++ z ++ 7#4 : BitVec 32)
  | .amomaxu d a b z => some (29#7 ++ d ++ a ++ b ++ 1#5 ++ z ++ 8#4 : BitVec 32)
  | .amoswp d a b z => some (29#7 ++ d ++ a ++ b ++ 1#5 ++ z ++ 9#4 : BitVec 32)
  | .join d a => some (29#7 ++ d ++ a ++ 58#15 : BitVec 32)
  | .cas d a b z => some (30#7 ++ d ++ a ++ b ++ 1#9 ++ z : BitVec 32)
  | .nop => some (31#7 ++ 0#25 : BitVec 32)
  | .beq a b i => some (32#7 ++ a ++ b ++ i : BitVec 32)
  | .bne a b i => some (33#7 ++ a ++ b ++ i : BitVec 32)
  | .blt a b i => some (34#7 ++ a ++ b ++ i : BitVec 32)
  | .bge a b i => some (35#7 ++ a ++ b ++ i : BitVec 32)
  | .bltu a b i => some (36#7 ++ a ++ b ++ i : BitVec 32)
  | .bgeu a b i => some (37#7 ++ a ++ b ++ i : BitVec 32)
  | .j i => some (38#7 ++ i : BitVec 32)
  | .jal i => some (39#7 ++ i : BitVec 32)
  | .jr a => some (40#7 ++ 0#5 ++ a ++ 1#15 : BitVec 32)
  | .callr a => some (40#7 ++ 0#5 ++ a ++ 2#15 : BitVec 32)
  | .ret => some (40#7 ++ 3#25 : BitVec 32)
  | .callat d a b => some (41#7 ++ d ++ a ++ b ++ 1#10 : BitVec 32)
  | .reply a b => some (41#7 ++ 0#5 ++ a ++ b ++ 2#10 : BitVec 32)
  | .waitr d a => some (42#7 ++ d ++ a ++ 1#15 : BitVec 32)
  | .waitw => some (42#7 ++ 2#25 : BitVec 32)
  | .waite a => some (42#7 ++ 0#6 ++ a ++ 3#15 : BitVec 32)
  | .waiteFill a => some (42#7 ++ 0#5 ++ a ++ 4#15 : BitVec 32)
  | .waiteFree a => some (42#7 ++ 0#5 ++ a ++ 5#15 : BitVec 32)
  | .enq d a b => some (43#7 ++ d ++ a ++ b ++ 1#10 : BitVec 32)
  | .deq d a b => some (43#7 ++ d ++ a ++ b ++ 2#10 : BitVec 32)
  | .deqt d a b => some (43#7 ++ d ++ a ++ b ++ 3#10 : BitVec 32)
  | .send d a b e => some (44#7 ++ d ++ a ++ b ++ 2#8 ++ e : BitVec 32)
  | .rpub d a => some (45#7 ++ d ++ a ++ 1#15 : BitVec 32)
  | .racq d a => some (45#7 ++ d ++ a ++ 2#15 : BitVec 32)
  | .rfloor a b => some (45#7 ++ 0#5 ++ a ++ b ++ 3#10 : BitVec 32)
  | .rsub d a => some (45#7 ++ d ++ a ++ 4#15 : BitVec 32)
  | .rfloorClr a => some (45#7 ++ 0#5 ++ a ++ 5#15 : BitVec 32)
  | .binit a b => some (46#7 ++ 0#6 ++ a ++ b ++ 1#10 : BitVec 32)
  | .barr a => some (46#7 ++ 0#6 ++ a ++ 2#15 : BitVec 32)
  | .bexp a b => some (46#7 ++ 0#6 ++ a ++ b ++ 3#10 : BitVec 32)
  | .bwait d a b => some (46#7 ++ d ++ 0#1 ++ a ++ b ++ 4#10 : BitVec 32)
  | .btest d a => some (46#7 ++ d ++ 0#1 ++ a ++ 5#15 : BitVec 32)
  | .bhset d a => some (46#7 ++ 0#1 ++ d ++ a ++ 6#15 : BitVec 32)
  | .bsni a b => some (47#7 ++ 0#5 ++ a ++ b ++ 1#10 : BitVec 32)
  | .bsnp d a => some (47#7 ++ d ++ a ++ 2#15 : BitVec 32)
  | .bsnc a => some (47#7 ++ 0#5 ++ a ++ 3#15 : BitVec 32)
  | .bsng d a => some (47#7 ++ d ++ a ++ 4#15 : BitVec 32)
  | .bsnf a => some (47#7 ++ 0#5 ++ a ++ 5#15 : BitVec 32)
  | .tdef d a b => some (48#7 ++ 0#1 ++ d ++ a ++ b ++ 1#10 : BitVec 32)
  | .tldd d a => some (48#7 ++ 0#1 ++ d ++ a ++ 2#15 : BitVec 32)
  | .tstd a b => some (48#7 ++ 0#5 ++ a ++ 0#1 ++ b ++ 3#10 : BitVec 32)
  | .text d a b => some (48#7 ++ 0#1 ++ d ++ 0#1 ++ a ++ b ++ 4#10 : BitVec 32)
  | .tsub d a k p => some (49#7 ++ d ++ a ++ k ++ p : BitVec 32)
  | .tsubr d a b => some (50#7 ++ 0#1 ++ d ++ 0#1 ++ a ++ b ++ 1#10 : BitVec 32)
  | .bcopy d a h => some (56#7 ++ d ++ a ++ 0#4 ++ h ++ 0#9 : BitVec 32)
  | .bcopyBnd d a h k => some (56#7 ++ d ++ a ++ 0#4 ++ h ++ 1#2 ++ k : BitVec 32)
  | .bcopyBsn d a h n => some (56#7 ++ d ++ a ++ 0#4 ++ h ++ 4#3 ++ n : BitVec 32)
  | .bfill d h v => some (57#7 ++ d ++ 0#8 ++ h ++ 0#1 ++ v : BitVec 32)
  | .bgath d a c h => some (58#7 ++ d ++ a ++ c ++ h ++ 0#9 : BitVec 32)
  | .bscat d a c h => some (59#7 ++ d ++ a ++ c ++ h ++ 0#9 : BitVec 32)
  | .bpref d h => some (60#7 ++ d ++ 0#8 ++ h ++ 64#9 : BitVec 32)
  | .bres d h c => some (60#7 ++ d ++ 0#8 ++ h ++ 16#6 ++ c : BitVec 32)
  | .bevict d h => some (60#7 ++ d ++ 0#8 ++ h ++ 192#9 : BitVec 32)
  | .bdemote d h => some (60#7 ++ d ++ 0#8 ++ h ++ 256#9 : BitVec 32)
  | .bown d h => some (61#7 ++ d ++ 0#8 ++ h ++ 64#9 : BitVec 32)
  | .brel d h => some (61#7 ++ d ++ 0#8 ++ h ++ 128#9 : BitVec 32)
  | .mxst a h u => some (64#7 ++ 0#4 ++ a ++ 0#4 ++ h ++ 0#8 ++ u : BitVec 32)
  | .mxma d a h u => some (65#7 ++ d ++ a ++ 0#4 ++ h ++ 0#8 ++ u : BitVec 32)
  | .mxmas d a h r u => some (66#7 ++ d ++ a ++ 0#4 ++ h ++ 0#6 ++ r ++ u : BitVec 32)
  | .vadd d a c h => some (72#7 ++ d ++ a ++ c ++ h ++ 1#9 : BitVec 32)
  | .vsub d a c h => some (72#7 ++ d ++ a ++ c ++ h ++ 2#9 : BitVec 32)
  | .vmul d a c h => some (72#7 ++ d ++ a ++ c ++ h ++ 3#9 : BitVec 32)
  | .vfma d a c h => some (72#7 ++ d ++ a ++ c ++ h ++ 4#9 : BitVec 32)
  | .vmin d a c h => some (72#7 ++ d ++ a ++ c ++ h ++ 5#9 : BitVec 32)
  | .vmax d a c h => some (72#7 ++ d ++ a ++ c ++ h ++ 6#9 : BitVec 32)
  | .vabs d a h => some (72#7 ++ d ++ a ++ 0#4 ++ h ++ 7#9 : BitVec 32)
  | .vneg d a h => some (72#7 ++ d ++ a ++ 0#4 ++ h ++ 8#9 : BitVec 32)
  | .vand d a c h => some (73#7 ++ d ++ a ++ c ++ h ++ 1#9 : BitVec 32)
  | .vor d a c h => some (73#7 ++ d ++ a ++ c ++ h ++ 2#9 : BitVec 32)
  | .vxor d a c h => some (73#7 ++ d ++ a ++ c ++ h ++ 3#9 : BitVec 32)
  | .vnot d a h => some (73#7 ++ d ++ a ++ 0#4 ++ h ++ 4#9 : BitVec 32)
  | .vshl d a c h => some (73#7 ++ d ++ a ++ c ++ h ++ 5#9 : BitVec 32)
  | .vshr d a c h => some (73#7 ++ d ++ a ++ c ++ h ++ 6#9 : BitVec 32)
  | .vcmp d a c h o => some (74#7 ++ d ++ a ++ c ++ h ++ 0#2 ++ o ++ 1#4 : BitVec 32)
  | .vsel d a c h => some (74#7 ++ d ++ a ++ c ++ h ++ 2#9 : BitVec 32)
  | .vcvt d a h m => some (75#7 ++ d ++ a ++ 0#4 ++ h ++ 0#7 ++ m : BitVec 32)
  | .vexp2 d a h => some (76#7 ++ d ++ a ++ 0#4 ++ h ++ 1#9 : BitVec 32)
  | .vlog2 d a h => some (76#7 ++ d ++ a ++ 0#4 ++ h ++ 2#9 : BitVec 32)
  | .vrcp d a h => some (76#7 ++ d ++ a ++ 0#4 ++ h ++ 3#9 : BitVec 32)
  | .vrsq d a h => some (76#7 ++ d ++ a ++ 0#4 ++ h ++ 4#9 : BitVec 32)
  | .vtanh d a h => some (76#7 ++ d ++ a ++ 0#4 ++ h ++ 5#9 : BitVec 32)
  | .vred d a h r o => some (77#7 ++ d ++ a ++ 0#4 ++ h ++ 0#6 ++ r ++ o : BitVec 32)
  | .vscan d a h r o => some (78#7 ++ d ++ a ++ 0#4 ++ h ++ 0#5 ++ r ++ o : BitVec 32)
  | .vtrn d a h => some (79#7 ++ d ++ a ++ 0#4 ++ h ++ 1#9 : BitVec 32)
  | .vbcst d a h b => some (79#7 ++ d ++ a ++ 0#4 ++ h ++ 0#3 ++ b ++ 2#4 : BitVec 32)
  | .vgath d a c h m => some (79#7 ++ d ++ a ++ c ++ h ++ 0#4 ++ m ++ 3#4 : BitVec 32)
  | .vmov d a h => some (79#7 ++ d ++ a ++ 0#4 ++ h ++ 4#9 : BitVec 32)
  | .vgen d h p => some (80#7 ++ d ++ 0#8 ++ h ++ 0#5 ++ p : BitVec 32)
  | .vgenConst d h c => some (80#7 ++ d ++ 0#8 ++ h ++ c ++ 7#4 : BitVec 32)
  | .cbld a b => some (88#7 ++ 0#5 ++ a ++ b ++ 9#10 : BitVec 32)
  | .skset a b => some (89#7 ++ 0#5 ++ a ++ b ++ 9#10 : BitVec 32)
  | .xbsetCtr d a b => some (90#7 ++ d ++ a ++ b ++ 8#10 : BitVec 32)
  | .xbsetTerm d a b => some (90#7 ++ d ++ a ++ b ++ 16#10 : BitVec 32)
  | .xbsetStage d a b => some (90#7 ++ d ++ a ++ b ++ 24#10 : BitVec 32)
  | .xbarmOn d a => some (91#7 ++ d ++ a ++ 8#15 : BitVec 32)
  | .xbarmOff d a => some (91#7 ++ d ++ a ++ 16#15 : BitVec 32)
  | .ectlRd d a b e => some (92#7 ++ d ++ a ++ b ++ 2#8 ++ e : BitVec 32)
  | .ectlRes a e => some (92#7 ++ 0#5 ++ a ++ 4#13 ++ e : BitVec 32)
  | .ectlCan a e => some (92#7 ++ 0#5 ++ a ++ 6#13 ++ e : BitVec 32)
  | .estat d e => some (93#7 ++ d ++ 2#18 ++ e : BitVec 32)
  | .trap a => some (96#7 ++ 0#5 ++ a ++ 1#15 : BitVec 32)
  | .scall a => some (96#7 ++ 0#5 ++ a ++ 2#15 : BitVec 32)
  | .mcall => some (96#7 ++ 3#25 : BitVec 32)
  | .eret => some (96#7 ++ 4#25 : BitVec 32)
  | .resume a => some (96#7 ++ 0#5 ++ a ++ 5#15 : BitVec 32)
  | .park a => some (96#7 ++ 0#5 ++ a ++ 6#15 : BitVec 32)
  | .crr d c => some (97#7 ++ d ++ 1#10 ++ c : BitVec 32)
  | .crw d a c => some (97#7 ++ d ++ a ++ 2#5 ++ c : BitVec 32)
  | .ctxr d a b => some (98#7 ++ d ++ a ++ b ++ 1#10 : BitVec 32)
  | .ctxw d a b => some (98#7 ++ d ++ a ++ b ++ 2#10 : BitVec 32)
  | .spill a => some (98#7 ++ 0#5 ++ a ++ 3#15 : BitVec 32)
  | .fill d a b => some (98#7 ++ d ++ a ++ b ++ 4#10 : BitVec 32)
  | .kload d a b => some (99#7 ++ d ++ a ++ b ++ 1#10 : BitVec 32)
  | .kder d a b => some (99#7 ++ d ++ a ++ b ++ 2#10 : BitVec 32)
  | .krev d a => some (99#7 ++ d ++ a ++ 3#15 : BitVec 32)
  | .japp d a b => some (100#7 ++ d ++ a ++ b ++ 1#10 : BitVec 32)
  | .ifence => some (101#7 ++ 1#25 : BitVec 32)
  | .tfence => some (101#7 ++ 2#25 : BitVec 32)
  | .bkpt => some (102#7 ++ 1#25 : BitVec 32)
  | .halt => some (102#7 ++ 2#25 : BitVec 32)
  | .immx p => some (120#7 ++ p : BitVec 32)
  | .rep c f => some (121#7 ++ c ++ 0#15 ++ f : BitVec 32)
  | .hint k a => some (122#7 ++ k ++ a : BitVec 32)
  | .memoryReply _ _ => none
  | .wake _ _ => none
  | .preempt _ _ => none
  | .windowSpill _ _ => none
  | .contextSpill _ => none
  | .engineAccept _ _ => none
  | .bargeStart _ _ => none
  | .bargeUnit _ _ => none
  | .bargeComplete _ _ => none
  | .basinSlotClaim _ => none
  | .hubCommand _ => none
  | .sendCommandReceipt _ => none
  | .replyDelivery _ _ _ => none
  | .remoteBarrierOperation _ => none
  | .homeAtomic _ => none
  | .homeJoin _ _ _ => none
  | .homeEnqueue _ => none
  | .homeDequeue _ => none
  | .dispenserRequest _ _ => none
  | .dispenserBind _ _ => none
  | .affinityTimeout _ _ => none
  | .entryThreadCreate _ _ _ => none
  | .periodStart => none
  | .consumedUpdate _ => none
  | .quiescent _ => none
  | .rcbEnd _ => none
  | .rcbJoinRetry _ => none
  | .heldRecordRetry => none
  | .xbarTermFire _ _ => none
  | .stagedLaunch _ _ => none
  | .regionRpub _ _ _ => none
  | .roundMulticast _ _ _ => none
  | .boundedRequest _ _ => none
  | .homeGets _ => none
  | .homeGetx _ => none
  | .homeUpg _ => none
  | .homeRenew _ => none
  | .homeWb _ _ _ _ => none
  | .homeGack _ _ => none
  | .homeFdata _ _ _ _ => none
  | .homeGone _ _ => none
  | .walkerRead _ _ => none
  | .evictionNotice _ _ _ => none
  | .agentData _ _ _ _ => none
  | .agentAckx _ _ _ => none
  | .agentRnack _ _ _ => none
  | .agentWback _ _ => none
  | .agentFwd _ _ _ => none
  | .agentRetry _ => none
  | .invReceive _ _ _ _ => none
  | .iackReceive _ => none
  | .lineEviction _ _ => none
  | .translationDrop _ _ => none
  | .l2PeerServe _ _ _ _ => none
  | .clockMinimumBroadcast _ => none
  | .rehome _ _ => none
  | .meshArbitration _ _ _ => none
  | .crSqpopWrite _ _ => none
  | .crTrootWrite _ _ => none
  | .crSlotpartWrite _ _ => none
  | .crBankpartWrite _ _ _ => none
  | .crWinWrite _ _ _ => none
  | .crWspWrite _ _ _ => none
  | .crJexportWrite _ => none
  | .crWeiraWrite _ _ _ => none
  | .crWeirbWrite _ _ _ => none
  | .crSenslimWrite _ => none
  | .sensorTrip _ _ _ => none
  | .journalCheckpoint => none
  | .weirRefill _ => none
  | .weirTimeout _ => none
  | .weirEgressEntry _ => none
  | .bar2Read _ _ => none
  | .bar2Write _ _ => none
  | .bar0Write _ _ => none
  | .hcRingtail _ => none
  | .hcRingctl _ => none
  | .ringFetch => none
  | .ringOpen _ => none
  | .ringLaunch _ _ => none
  | .ringGraph _ _ => none
  | .ringImport _ _ => none
  | .ringSummary _ _ => none
  | .ringJfree _ _ => none
  | .fabricSend _ => none
  | .fabricReceive _ _ => none
  | .peerAccess _ => none
  | .debugAttach _ => none
  | .debugDetach => none
  | .debugStop _ _ => none
  | .debugRelease _ _ => none
  | .debugStep _ _ => none
  | .debugClaim _ _ => none
  | .debugReadState _ _ _ => none
  | .debugReadCr _ _ _ => none
  | .debugReadContext _ _ _ => none
  | .debugWriteContext _ _ _ _ => none
  | .debugReadMemory _ => none
  | .debugWriteMemory _ _ _ => none
  | .debugProgramPcmp _ _ _ => none
  | .debugProgramWatch _ _ _ => none
  | .debugLaunch _ _ _ _ => none
  | .powerOnReset => none
  | .bringUpStage _ => none
  | .powerControlWrite _ => none
  | .throttleDown => none
  | .throttleUp => none
  | .gatingStep _ _ => none
  | .machineCheck _ _ _ => none
  | .wearUpdate _ => none
  | .reservedEncoding _ => none
  | .unfetchableWord _ _ => none
  | .slotOffer => none
  | .l1InstructionCacheDrop _ _ => none
  | .keyCachePurge _ _ => none
  | .homeRecall _ _ => none

/-- A register field that REP can step: its step bit, lowest bit and width (R118). -/
structure StepField where
  bit : Nat
  lo : Nat
  width : Nat
  deriving DecidableEq, Repr

/-- The register fields the instruction's entry uses (R118, R120). -/
def Instr.stepFields : Instr → List StepField
  | .add _ _ _ => [⟨0, 20, 5⟩, ⟨1, 15, 5⟩, ⟨2, 10, 5⟩]
  | .sub _ _ _ => [⟨0, 20, 5⟩, ⟨1, 15, 5⟩, ⟨2, 10, 5⟩]
  | .and _ _ _ => [⟨0, 20, 5⟩, ⟨1, 15, 5⟩, ⟨2, 10, 5⟩]
  | .or _ _ _ => [⟨0, 20, 5⟩, ⟨1, 15, 5⟩, ⟨2, 10, 5⟩]
  | .xor _ _ _ => [⟨0, 20, 5⟩, ⟨1, 15, 5⟩, ⟨2, 10, 5⟩]
  | .andn _ _ _ => [⟨0, 20, 5⟩, ⟨1, 15, 5⟩, ⟨2, 10, 5⟩]
  | .orn _ _ _ => [⟨0, 20, 5⟩, ⟨1, 15, 5⟩, ⟨2, 10, 5⟩]
  | .min _ _ _ => [⟨0, 20, 5⟩, ⟨1, 15, 5⟩, ⟨2, 10, 5⟩]
  | .max _ _ _ => [⟨0, 20, 5⟩, ⟨1, 15, 5⟩, ⟨2, 10, 5⟩]
  | .minu _ _ _ => [⟨0, 20, 5⟩, ⟨1, 15, 5⟩, ⟨2, 10, 5⟩]
  | .maxu _ _ _ => [⟨0, 20, 5⟩, ⟨1, 15, 5⟩, ⟨2, 10, 5⟩]
  | .slt _ _ _ => [⟨0, 20, 5⟩, ⟨1, 15, 5⟩, ⟨2, 10, 5⟩]
  | .sltu _ _ _ => [⟨0, 20, 5⟩, ⟨1, 15, 5⟩, ⟨2, 10, 5⟩]
  | .seq _ _ _ => [⟨0, 20, 5⟩, ⟨1, 15, 5⟩, ⟨2, 10, 5⟩]
  | .sne _ _ _ => [⟨0, 20, 5⟩, ⟨1, 15, 5⟩, ⟨2, 10, 5⟩]
  | .mul _ _ _ => [⟨0, 20, 5⟩, ⟨1, 15, 5⟩, ⟨2, 10, 5⟩]
  | .mulh _ _ _ => [⟨0, 20, 5⟩, ⟨1, 15, 5⟩, ⟨2, 10, 5⟩]
  | .mulhu _ _ _ => [⟨0, 20, 5⟩, ⟨1, 15, 5⟩, ⟨2, 10, 5⟩]
  | .div _ _ _ => [⟨0, 20, 5⟩, ⟨1, 15, 5⟩, ⟨2, 10, 5⟩]
  | .divu _ _ _ => [⟨0, 20, 5⟩, ⟨1, 15, 5⟩, ⟨2, 10, 5⟩]
  | .rem _ _ _ => [⟨0, 20, 5⟩, ⟨1, 15, 5⟩, ⟨2, 10, 5⟩]
  | .remu _ _ _ => [⟨0, 20, 5⟩, ⟨1, 15, 5⟩, ⟨2, 10, 5⟩]
  | .shl _ _ _ => [⟨0, 20, 5⟩, ⟨1, 15, 5⟩, ⟨2, 10, 5⟩]
  | .shr _ _ _ => [⟨0, 20, 5⟩, ⟨1, 15, 5⟩, ⟨2, 10, 5⟩]
  | .sra _ _ _ => [⟨0, 20, 5⟩, ⟨1, 15, 5⟩, ⟨2, 10, 5⟩]
  | .rot _ _ _ => [⟨0, 20, 5⟩, ⟨1, 15, 5⟩, ⟨2, 10, 5⟩]
  | .clz _ _ => [⟨0, 20, 5⟩, ⟨1, 15, 5⟩]
  | .ctz _ _ => [⟨0, 20, 5⟩, ⟨1, 15, 5⟩]
  | .popc _ _ => [⟨0, 20, 5⟩, ⟨1, 15, 5⟩]
  | .brev _ _ => [⟨0, 20, 5⟩, ⟨1, 15, 5⟩]
  | .exts _ _ _ => [⟨0, 20, 5⟩, ⟨1, 15, 5⟩, ⟨2, 10, 5⟩]
  | .zip _ _ _ => [⟨0, 20, 5⟩, ⟨1, 15, 5⟩, ⟨2, 10, 5⟩]
  | .zrow _ _ => [⟨0, 20, 5⟩, ⟨1, 15, 5⟩]
  | .zcol _ _ => [⟨0, 20, 5⟩, ⟨1, 15, 5⟩]
  | .zaddr _ _ _ => [⟨0, 20, 5⟩, ⟨1, 15, 5⟩, ⟨2, 10, 5⟩]
  | .zaddc _ _ _ => [⟨0, 20, 5⟩, ⟨1, 15, 5⟩, ⟨2, 10, 5⟩]
  | .ptrunc _ _ _ => [⟨0, 20, 5⟩, ⟨1, 15, 5⟩, ⟨2, 10, 5⟩]
  | .pdig _ _ _ => [⟨0, 20, 5⟩, ⟨1, 15, 5⟩, ⟨2, 10, 5⟩]
  | .pcat _ _ _ => [⟨0, 20, 5⟩, ⟨1, 15, 5⟩, ⟨2, 10, 5⟩]
  | .addi _ _ _ => [⟨0, 20, 5⟩, ⟨1, 15, 5⟩]
  | .andi _ _ _ => [⟨0, 20, 5⟩, ⟨1, 15, 5⟩]
  | .ori _ _ _ => [⟨0, 20, 5⟩, ⟨1, 15, 5⟩]
  | .xori _ _ _ => [⟨0, 20, 5⟩, ⟨1, 15, 5⟩]
  | .slti _ _ _ => [⟨0, 20, 5⟩, ⟨1, 15, 5⟩]
  | .sltiu _ _ _ => [⟨0, 20, 5⟩, ⟨1, 15, 5⟩]
  | .shli _ _ _ => [⟨0, 20, 5⟩, ⟨1, 15, 5⟩]
  | .shri _ _ _ => [⟨0, 20, 5⟩, ⟨1, 15, 5⟩]
  | .srai _ _ _ => [⟨0, 20, 5⟩, ⟨1, 15, 5⟩]
  | .lih _ _ _ => [⟨0, 20, 5⟩, ⟨1, 15, 5⟩]
  | .ldB _ _ _ => [⟨0, 20, 5⟩, ⟨1, 15, 5⟩]
  | .ldH _ _ _ => [⟨0, 20, 5⟩, ⟨1, 15, 5⟩]
  | .ldW _ _ _ => [⟨0, 20, 5⟩, ⟨1, 15, 5⟩]
  | .ldD _ _ _ => [⟨0, 20, 5⟩, ⟨1, 15, 5⟩]
  | .ldzB _ _ _ => [⟨0, 20, 5⟩, ⟨1, 15, 5⟩]
  | .ldzH _ _ _ => [⟨0, 20, 5⟩, ⟨1, 15, 5⟩]
  | .ldzW _ _ _ => [⟨0, 20, 5⟩, ⟨1, 15, 5⟩]
  | .ldx _ _ _ => [⟨0, 20, 5⟩, ⟨1, 15, 5⟩]
  | .stB _ _ _ => [⟨0, 20, 5⟩, ⟨1, 15, 5⟩]
  | .stH _ _ _ => [⟨0, 20, 5⟩, ⟨1, 15, 5⟩]
  | .stW _ _ _ => [⟨0, 20, 5⟩, ⟨1, 15, 5⟩]
  | .stD _ _ _ => [⟨0, 20, 5⟩, ⟨1, 15, 5⟩]
  | .ldbB _ _ _ => [⟨0, 20, 5⟩, ⟨1, 15, 5⟩, ⟨2, 10, 5⟩]
  | .ldbH _ _ _ => [⟨0, 20, 5⟩, ⟨1, 15, 5⟩, ⟨2, 10, 5⟩]
  | .ldbW _ _ _ => [⟨0, 20, 5⟩, ⟨1, 15, 5⟩, ⟨2, 10, 5⟩]
  | .ldbD _ _ _ => [⟨0, 20, 5⟩, ⟨1, 15, 5⟩, ⟨2, 10, 5⟩]
  | .ldbzB _ _ _ => [⟨0, 20, 5⟩, ⟨1, 15, 5⟩, ⟨2, 10, 5⟩]
  | .ldbzH _ _ _ => [⟨0, 20, 5⟩, ⟨1, 15, 5⟩, ⟨2, 10, 5⟩]
  | .ldbzW _ _ _ => [⟨0, 20, 5⟩, ⟨1, 15, 5⟩, ⟨2, 10, 5⟩]
  | .amoadd _ _ _ _ => [⟨0, 20, 5⟩, ⟨1, 15, 5⟩, ⟨2, 10, 5⟩]
  | .amoand _ _ _ _ => [⟨0, 20, 5⟩, ⟨1, 15, 5⟩, ⟨2, 10, 5⟩]
  | .amoor _ _ _ _ => [⟨0, 20, 5⟩, ⟨1, 15, 5⟩, ⟨2, 10, 5⟩]
  | .amoxor _ _ _ _ => [⟨0, 20, 5⟩, ⟨1, 15, 5⟩, ⟨2, 10, 5⟩]
  | .amomin _ _ _ _ => [⟨0, 20, 5⟩, ⟨1, 15, 5⟩, ⟨2, 10, 5⟩]
  | .amomax _ _ _ _ => [⟨0, 20, 5⟩, ⟨1, 15, 5⟩, ⟨2, 10, 5⟩]
  | .amominu _ _ _ _ => [⟨0, 20, 5⟩, ⟨1, 15, 5⟩, ⟨2, 10, 5⟩]
  | .amomaxu _ _ _ _ => [⟨0, 20, 5⟩, ⟨1, 15, 5⟩, ⟨2, 10, 5⟩]
  | .amoswp _ _ _ _ => [⟨0, 20, 5⟩, ⟨1, 15, 5⟩, ⟨2, 10, 5⟩]
  | .join _ _ => [⟨0, 20, 5⟩, ⟨1, 15, 5⟩]
  | .cas _ _ _ _ => [⟨0, 20, 5⟩, ⟨1, 15, 5⟩, ⟨2, 10, 5⟩]
  | .nop => []
  | .beq _ _ _ => [⟨0, 20, 5⟩, ⟨1, 15, 5⟩]
  | .bne _ _ _ => [⟨0, 20, 5⟩, ⟨1, 15, 5⟩]
  | .blt _ _ _ => [⟨0, 20, 5⟩, ⟨1, 15, 5⟩]
  | .bge _ _ _ => [⟨0, 20, 5⟩, ⟨1, 15, 5⟩]
  | .bltu _ _ _ => [⟨0, 20, 5⟩, ⟨1, 15, 5⟩]
  | .bgeu _ _ _ => [⟨0, 20, 5⟩, ⟨1, 15, 5⟩]
  | .j _ => []
  | .jal _ => []
  | .jr _ => [⟨1, 15, 5⟩]
  | .callr _ => [⟨1, 15, 5⟩]
  | .ret => []
  | .callat _ _ _ => [⟨0, 20, 5⟩, ⟨1, 15, 5⟩, ⟨2, 10, 5⟩]
  | .reply _ _ => [⟨1, 15, 5⟩, ⟨2, 10, 5⟩]
  | .waitr _ _ => [⟨0, 20, 5⟩, ⟨1, 15, 5⟩]
  | .waitw => []
  | .waite _ => [⟨1, 15, 4⟩]
  | .waiteFill _ => [⟨1, 15, 5⟩]
  | .waiteFree _ => [⟨1, 15, 5⟩]
  | .enq _ _ _ => [⟨0, 20, 5⟩, ⟨1, 15, 5⟩, ⟨2, 10, 5⟩]
  | .deq _ _ _ => [⟨0, 20, 5⟩, ⟨1, 15, 5⟩, ⟨2, 10, 5⟩]
  | .deqt _ _ _ => [⟨0, 20, 5⟩, ⟨1, 15, 5⟩, ⟨2, 10, 5⟩]
  | .send _ _ _ _ => [⟨0, 20, 5⟩, ⟨1, 15, 5⟩, ⟨2, 10, 5⟩]
  | .rpub _ _ => [⟨0, 20, 5⟩, ⟨1, 15, 5⟩]
  | .racq _ _ => [⟨0, 20, 5⟩, ⟨1, 15, 5⟩]
  | .rfloor _ _ => [⟨1, 15, 5⟩, ⟨2, 10, 5⟩]
  | .rsub _ _ => [⟨0, 20, 5⟩, ⟨1, 15, 5⟩]
  | .rfloorClr _ => [⟨1, 15, 5⟩]
  | .binit _ _ => [⟨1, 15, 4⟩, ⟨2, 10, 5⟩]
  | .barr _ => [⟨1, 15, 4⟩]
  | .bexp _ _ => [⟨1, 15, 4⟩, ⟨2, 10, 5⟩]
  | .bwait _ _ _ => [⟨0, 20, 5⟩, ⟨1, 15, 4⟩, ⟨2, 10, 5⟩]
  | .btest _ _ => [⟨0, 20, 5⟩, ⟨1, 15, 4⟩]
  | .bhset _ _ => [⟨0, 20, 4⟩, ⟨1, 15, 5⟩]
  | .bsni _ _ => [⟨1, 15, 5⟩, ⟨2, 10, 5⟩]
  | .bsnp _ _ => [⟨0, 20, 5⟩, ⟨1, 15, 5⟩]
  | .bsnc _ => [⟨1, 15, 5⟩]
  | .bsng _ _ => [⟨0, 20, 5⟩, ⟨1, 15, 5⟩]
  | .bsnf _ => [⟨1, 15, 5⟩]
  | .tdef _ _ _ => [⟨0, 20, 4⟩, ⟨1, 15, 5⟩, ⟨2, 10, 5⟩]
  | .tldd _ _ => [⟨0, 20, 4⟩, ⟨1, 15, 5⟩]
  | .tstd _ _ => [⟨1, 15, 5⟩, ⟨2, 10, 4⟩]
  | .text _ _ _ => [⟨0, 20, 4⟩, ⟨1, 15, 4⟩, ⟨2, 10, 5⟩]
  | .tsub _ _ _ _ => [⟨0, 21, 4⟩, ⟨1, 17, 4⟩]
  | .tsubr _ _ _ => [⟨0, 20, 4⟩, ⟨1, 15, 4⟩, ⟨2, 10, 5⟩]
  | .bcopy _ _ _ => [⟨0, 21, 4⟩, ⟨1, 17, 4⟩, ⟨3, 9, 4⟩]
  | .bcopyBnd _ _ _ _ => [⟨0, 21, 4⟩, ⟨1, 17, 4⟩, ⟨3, 9, 4⟩]
  | .bcopyBsn _ _ _ _ => [⟨0, 21, 4⟩, ⟨1, 17, 4⟩, ⟨3, 9, 4⟩]
  | .bfill _ _ _ => [⟨0, 21, 4⟩, ⟨3, 9, 4⟩]
  | .bgath _ _ _ _ => [⟨0, 21, 4⟩, ⟨1, 17, 4⟩, ⟨2, 13, 4⟩, ⟨3, 9, 4⟩]
  | .bscat _ _ _ _ => [⟨0, 21, 4⟩, ⟨1, 17, 4⟩, ⟨2, 13, 4⟩, ⟨3, 9, 4⟩]
  | .bpref _ _ => [⟨0, 21, 4⟩, ⟨3, 9, 4⟩]
  | .bres _ _ _ => [⟨0, 21, 4⟩, ⟨3, 9, 4⟩]
  | .bevict _ _ => [⟨0, 21, 4⟩, ⟨3, 9, 4⟩]
  | .bdemote _ _ => [⟨0, 21, 4⟩, ⟨3, 9, 4⟩]
  | .bown _ _ => [⟨0, 21, 4⟩, ⟨3, 9, 4⟩]
  | .brel _ _ => [⟨0, 21, 4⟩, ⟨3, 9, 4⟩]
  | .mxst _ _ _ => [⟨1, 17, 4⟩, ⟨3, 9, 4⟩]
  | .mxma _ _ _ _ => [⟨0, 21, 4⟩, ⟨1, 17, 4⟩, ⟨3, 9, 4⟩]
  | .mxmas _ _ _ _ _ => [⟨0, 21, 4⟩, ⟨1, 17, 4⟩, ⟨3, 9, 4⟩]
  | .vadd _ _ _ _ => [⟨0, 21, 4⟩, ⟨1, 17, 4⟩, ⟨2, 13, 4⟩, ⟨3, 9, 4⟩]
  | .vsub _ _ _ _ => [⟨0, 21, 4⟩, ⟨1, 17, 4⟩, ⟨2, 13, 4⟩, ⟨3, 9, 4⟩]
  | .vmul _ _ _ _ => [⟨0, 21, 4⟩, ⟨1, 17, 4⟩, ⟨2, 13, 4⟩, ⟨3, 9, 4⟩]
  | .vfma _ _ _ _ => [⟨0, 21, 4⟩, ⟨1, 17, 4⟩, ⟨2, 13, 4⟩, ⟨3, 9, 4⟩]
  | .vmin _ _ _ _ => [⟨0, 21, 4⟩, ⟨1, 17, 4⟩, ⟨2, 13, 4⟩, ⟨3, 9, 4⟩]
  | .vmax _ _ _ _ => [⟨0, 21, 4⟩, ⟨1, 17, 4⟩, ⟨2, 13, 4⟩, ⟨3, 9, 4⟩]
  | .vabs _ _ _ => [⟨0, 21, 4⟩, ⟨1, 17, 4⟩, ⟨3, 9, 4⟩]
  | .vneg _ _ _ => [⟨0, 21, 4⟩, ⟨1, 17, 4⟩, ⟨3, 9, 4⟩]
  | .vand _ _ _ _ => [⟨0, 21, 4⟩, ⟨1, 17, 4⟩, ⟨2, 13, 4⟩, ⟨3, 9, 4⟩]
  | .vor _ _ _ _ => [⟨0, 21, 4⟩, ⟨1, 17, 4⟩, ⟨2, 13, 4⟩, ⟨3, 9, 4⟩]
  | .vxor _ _ _ _ => [⟨0, 21, 4⟩, ⟨1, 17, 4⟩, ⟨2, 13, 4⟩, ⟨3, 9, 4⟩]
  | .vnot _ _ _ => [⟨0, 21, 4⟩, ⟨1, 17, 4⟩, ⟨3, 9, 4⟩]
  | .vshl _ _ _ _ => [⟨0, 21, 4⟩, ⟨1, 17, 4⟩, ⟨2, 13, 4⟩, ⟨3, 9, 4⟩]
  | .vshr _ _ _ _ => [⟨0, 21, 4⟩, ⟨1, 17, 4⟩, ⟨2, 13, 4⟩, ⟨3, 9, 4⟩]
  | .vcmp _ _ _ _ _ => [⟨0, 21, 4⟩, ⟨1, 17, 4⟩, ⟨2, 13, 4⟩, ⟨3, 9, 4⟩]
  | .vsel _ _ _ _ => [⟨0, 21, 4⟩, ⟨1, 17, 4⟩, ⟨2, 13, 4⟩, ⟨3, 9, 4⟩]
  | .vcvt _ _ _ _ => [⟨0, 21, 4⟩, ⟨1, 17, 4⟩, ⟨3, 9, 4⟩]
  | .vexp2 _ _ _ => [⟨0, 21, 4⟩, ⟨1, 17, 4⟩, ⟨3, 9, 4⟩]
  | .vlog2 _ _ _ => [⟨0, 21, 4⟩, ⟨1, 17, 4⟩, ⟨3, 9, 4⟩]
  | .vrcp _ _ _ => [⟨0, 21, 4⟩, ⟨1, 17, 4⟩, ⟨3, 9, 4⟩]
  | .vrsq _ _ _ => [⟨0, 21, 4⟩, ⟨1, 17, 4⟩, ⟨3, 9, 4⟩]
  | .vtanh _ _ _ => [⟨0, 21, 4⟩, ⟨1, 17, 4⟩, ⟨3, 9, 4⟩]
  | .vred _ _ _ _ _ => [⟨0, 21, 4⟩, ⟨1, 17, 4⟩, ⟨3, 9, 4⟩]
  | .vscan _ _ _ _ _ => [⟨0, 21, 4⟩, ⟨1, 17, 4⟩, ⟨3, 9, 4⟩]
  | .vtrn _ _ _ => [⟨0, 21, 4⟩, ⟨1, 17, 4⟩, ⟨3, 9, 4⟩]
  | .vbcst _ _ _ _ => [⟨0, 21, 4⟩, ⟨1, 17, 4⟩, ⟨3, 9, 4⟩]
  | .vgath _ _ _ _ _ => [⟨0, 21, 4⟩, ⟨1, 17, 4⟩, ⟨2, 13, 4⟩, ⟨3, 9, 4⟩]
  | .vmov _ _ _ => [⟨0, 21, 4⟩, ⟨1, 17, 4⟩, ⟨3, 9, 4⟩]
  | .vgen _ _ _ => [⟨0, 21, 4⟩, ⟨3, 9, 4⟩]
  | .vgenConst _ _ _ => [⟨0, 21, 4⟩, ⟨3, 9, 4⟩]
  | .cbld _ _ => [⟨1, 15, 5⟩, ⟨2, 10, 5⟩]
  | .skset _ _ => [⟨1, 15, 5⟩, ⟨2, 10, 5⟩]
  | .xbsetCtr _ _ _ => [⟨0, 20, 5⟩, ⟨1, 15, 5⟩, ⟨2, 10, 5⟩]
  | .xbsetTerm _ _ _ => [⟨0, 20, 5⟩, ⟨1, 15, 5⟩, ⟨2, 10, 5⟩]
  | .xbsetStage _ _ _ => [⟨0, 20, 5⟩, ⟨1, 15, 5⟩, ⟨2, 10, 5⟩]
  | .xbarmOn _ _ => [⟨0, 20, 5⟩, ⟨1, 15, 5⟩]
  | .xbarmOff _ _ => [⟨0, 20, 5⟩, ⟨1, 15, 5⟩]
  | .ectlRd _ _ _ _ => [⟨0, 20, 5⟩, ⟨1, 15, 5⟩, ⟨2, 10, 5⟩]
  | .ectlRes _ _ => [⟨1, 15, 5⟩]
  | .ectlCan _ _ => [⟨1, 15, 5⟩]
  | .estat _ _ => [⟨0, 20, 5⟩]
  | .trap _ => [⟨1, 15, 5⟩]
  | .scall _ => [⟨1, 15, 5⟩]
  | .mcall => []
  | .eret => []
  | .resume _ => [⟨1, 15, 5⟩]
  | .park _ => [⟨1, 15, 5⟩]
  | .crr _ _ => [⟨0, 20, 5⟩]
  | .crw _ _ _ => [⟨0, 20, 5⟩, ⟨1, 15, 5⟩]
  | .ctxr _ _ _ => [⟨0, 20, 5⟩, ⟨1, 15, 5⟩, ⟨2, 10, 5⟩]
  | .ctxw _ _ _ => [⟨0, 20, 5⟩, ⟨1, 15, 5⟩, ⟨2, 10, 5⟩]
  | .spill _ => [⟨1, 15, 5⟩]
  | .fill _ _ _ => [⟨0, 20, 5⟩, ⟨1, 15, 5⟩, ⟨2, 10, 5⟩]
  | .kload _ _ _ => [⟨0, 20, 5⟩, ⟨1, 15, 5⟩, ⟨2, 10, 5⟩]
  | .kder _ _ _ => [⟨0, 20, 5⟩, ⟨1, 15, 5⟩, ⟨2, 10, 5⟩]
  | .krev _ _ => [⟨0, 20, 5⟩, ⟨1, 15, 5⟩]
  | .japp _ _ _ => [⟨0, 20, 5⟩, ⟨1, 15, 5⟩, ⟨2, 10, 5⟩]
  | .ifence => []
  | .tfence => []
  | .bkpt => []
  | .halt => []
  | .immx _ => []
  | .rep _ _ => []
  | .hint _ _ => []
  | .memoryReply _ _ => []
  | .wake _ _ => []
  | .preempt _ _ => []
  | .windowSpill _ _ => []
  | .contextSpill _ => []
  | .engineAccept _ _ => []
  | .bargeStart _ _ => []
  | .bargeUnit _ _ => []
  | .bargeComplete _ _ => []
  | .basinSlotClaim _ => []
  | .hubCommand _ => []
  | .sendCommandReceipt _ => []
  | .replyDelivery _ _ _ => []
  | .remoteBarrierOperation _ => []
  | .homeAtomic _ => []
  | .homeJoin _ _ _ => []
  | .homeEnqueue _ => []
  | .homeDequeue _ => []
  | .dispenserRequest _ _ => []
  | .dispenserBind _ _ => []
  | .affinityTimeout _ _ => []
  | .entryThreadCreate _ _ _ => []
  | .periodStart => []
  | .consumedUpdate _ => []
  | .quiescent _ => []
  | .rcbEnd _ => []
  | .rcbJoinRetry _ => []
  | .heldRecordRetry => []
  | .xbarTermFire _ _ => []
  | .stagedLaunch _ _ => []
  | .regionRpub _ _ _ => []
  | .roundMulticast _ _ _ => []
  | .boundedRequest _ _ => []
  | .homeGets _ => []
  | .homeGetx _ => []
  | .homeUpg _ => []
  | .homeRenew _ => []
  | .homeWb _ _ _ _ => []
  | .homeGack _ _ => []
  | .homeFdata _ _ _ _ => []
  | .homeGone _ _ => []
  | .walkerRead _ _ => []
  | .evictionNotice _ _ _ => []
  | .agentData _ _ _ _ => []
  | .agentAckx _ _ _ => []
  | .agentRnack _ _ _ => []
  | .agentWback _ _ => []
  | .agentFwd _ _ _ => []
  | .agentRetry _ => []
  | .invReceive _ _ _ _ => []
  | .iackReceive _ => []
  | .lineEviction _ _ => []
  | .translationDrop _ _ => []
  | .l2PeerServe _ _ _ _ => []
  | .clockMinimumBroadcast _ => []
  | .rehome _ _ => []
  | .meshArbitration _ _ _ => []
  | .crSqpopWrite _ _ => []
  | .crTrootWrite _ _ => []
  | .crSlotpartWrite _ _ => []
  | .crBankpartWrite _ _ _ => []
  | .crWinWrite _ _ _ => []
  | .crWspWrite _ _ _ => []
  | .crJexportWrite _ => []
  | .crWeiraWrite _ _ _ => []
  | .crWeirbWrite _ _ _ => []
  | .crSenslimWrite _ => []
  | .sensorTrip _ _ _ => []
  | .journalCheckpoint => []
  | .weirRefill _ => []
  | .weirTimeout _ => []
  | .weirEgressEntry _ => []
  | .bar2Read _ _ => []
  | .bar2Write _ _ => []
  | .bar0Write _ _ => []
  | .hcRingtail _ => []
  | .hcRingctl _ => []
  | .ringFetch => []
  | .ringOpen _ => []
  | .ringLaunch _ _ => []
  | .ringGraph _ _ => []
  | .ringImport _ _ => []
  | .ringSummary _ _ => []
  | .ringJfree _ _ => []
  | .fabricSend _ => []
  | .fabricReceive _ _ => []
  | .peerAccess _ => []
  | .debugAttach _ => []
  | .debugDetach => []
  | .debugStop _ _ => []
  | .debugRelease _ _ => []
  | .debugStep _ _ => []
  | .debugClaim _ _ => []
  | .debugReadState _ _ _ => []
  | .debugReadCr _ _ _ => []
  | .debugReadContext _ _ _ => []
  | .debugWriteContext _ _ _ _ => []
  | .debugReadMemory _ => []
  | .debugWriteMemory _ _ _ => []
  | .debugProgramPcmp _ _ _ => []
  | .debugProgramWatch _ _ _ => []
  | .debugLaunch _ _ _ _ => []
  | .powerOnReset => []
  | .bringUpStage _ => []
  | .powerControlWrite _ => []
  | .throttleDown => []
  | .throttleUp => []
  | .gatingStep _ _ => []
  | .machineCheck _ _ _ => []
  | .wearUpdate _ => []
  | .reservedEncoding _ => []
  | .unfetchableWord _ _ => []
  | .slotOffer => []
  | .l1InstructionCacheDrop _ _ => []
  | .keyCachePurge _ _ => []
  | .homeRecall _ _ => []

/-- The word with field `f` increased by `i` modulo its width (R118). -/
def stepField (w : BitVec 32) (f : StepField) (i : Nat) : BitVec 32 :=
  let v := bitsOf w (f.lo + f.width - 1) f.lo
  BitVec.ofNat 32 (w.toNat - v * 2 ^ f.lo + (v + i) % 2 ^ f.width * 2 ^ f.lo)

/-- The bound word of repeat `i`, with every field that the step mask selects stepped (R118). -/
def stepWord (w : BitVec 32) (fs : List StepField) (mask : BitVec 4) (i : Nat) : BitVec 32 :=
  fs.foldl (fun w f => if mask.getLsbD f.bit then stepField w f i else w) w

/-- Every set bit of the step mask names a field the instruction uses (R120). -/
def stepMaskOk (fs : List StepField) (mask : BitVec 4) : Bool :=
  [0, 1, 2, 3].all fun b => !mask.getLsbD b || fs.any (fun f => f.bit == b)

/-- A control transfer that no prefix may bind to (R120): row 0x4, JUMPREG, TRAP, SCALL, MCALL, ERET, BKPT, HALT. -/
def Instr.isTransfer : Instr → Bool
  | .add _ _ _ => false
  | .sub _ _ _ => false
  | .and _ _ _ => false
  | .or _ _ _ => false
  | .xor _ _ _ => false
  | .andn _ _ _ => false
  | .orn _ _ _ => false
  | .min _ _ _ => false
  | .max _ _ _ => false
  | .minu _ _ _ => false
  | .maxu _ _ _ => false
  | .slt _ _ _ => false
  | .sltu _ _ _ => false
  | .seq _ _ _ => false
  | .sne _ _ _ => false
  | .mul _ _ _ => false
  | .mulh _ _ _ => false
  | .mulhu _ _ _ => false
  | .div _ _ _ => false
  | .divu _ _ _ => false
  | .rem _ _ _ => false
  | .remu _ _ _ => false
  | .shl _ _ _ => false
  | .shr _ _ _ => false
  | .sra _ _ _ => false
  | .rot _ _ _ => false
  | .clz _ _ => false
  | .ctz _ _ => false
  | .popc _ _ => false
  | .brev _ _ => false
  | .exts _ _ _ => false
  | .zip _ _ _ => false
  | .zrow _ _ => false
  | .zcol _ _ => false
  | .zaddr _ _ _ => false
  | .zaddc _ _ _ => false
  | .ptrunc _ _ _ => false
  | .pdig _ _ _ => false
  | .pcat _ _ _ => false
  | .addi _ _ _ => false
  | .andi _ _ _ => false
  | .ori _ _ _ => false
  | .xori _ _ _ => false
  | .slti _ _ _ => false
  | .sltiu _ _ _ => false
  | .shli _ _ _ => false
  | .shri _ _ _ => false
  | .srai _ _ _ => false
  | .lih _ _ _ => false
  | .ldB _ _ _ => false
  | .ldH _ _ _ => false
  | .ldW _ _ _ => false
  | .ldD _ _ _ => false
  | .ldzB _ _ _ => false
  | .ldzH _ _ _ => false
  | .ldzW _ _ _ => false
  | .ldx _ _ _ => false
  | .stB _ _ _ => false
  | .stH _ _ _ => false
  | .stW _ _ _ => false
  | .stD _ _ _ => false
  | .ldbB _ _ _ => false
  | .ldbH _ _ _ => false
  | .ldbW _ _ _ => false
  | .ldbD _ _ _ => false
  | .ldbzB _ _ _ => false
  | .ldbzH _ _ _ => false
  | .ldbzW _ _ _ => false
  | .amoadd _ _ _ _ => false
  | .amoand _ _ _ _ => false
  | .amoor _ _ _ _ => false
  | .amoxor _ _ _ _ => false
  | .amomin _ _ _ _ => false
  | .amomax _ _ _ _ => false
  | .amominu _ _ _ _ => false
  | .amomaxu _ _ _ _ => false
  | .amoswp _ _ _ _ => false
  | .join _ _ => false
  | .cas _ _ _ _ => false
  | .nop => false
  | .beq _ _ _ => true
  | .bne _ _ _ => true
  | .blt _ _ _ => true
  | .bge _ _ _ => true
  | .bltu _ _ _ => true
  | .bgeu _ _ _ => true
  | .j _ => true
  | .jal _ => true
  | .jr _ => true
  | .callr _ => true
  | .ret => true
  | .callat _ _ _ => false
  | .reply _ _ => false
  | .waitr _ _ => false
  | .waitw => false
  | .waite _ => false
  | .waiteFill _ => false
  | .waiteFree _ => false
  | .enq _ _ _ => false
  | .deq _ _ _ => false
  | .deqt _ _ _ => false
  | .send _ _ _ _ => false
  | .rpub _ _ => false
  | .racq _ _ => false
  | .rfloor _ _ => false
  | .rsub _ _ => false
  | .rfloorClr _ => false
  | .binit _ _ => false
  | .barr _ => false
  | .bexp _ _ => false
  | .bwait _ _ _ => false
  | .btest _ _ => false
  | .bhset _ _ => false
  | .bsni _ _ => false
  | .bsnp _ _ => false
  | .bsnc _ => false
  | .bsng _ _ => false
  | .bsnf _ => false
  | .tdef _ _ _ => false
  | .tldd _ _ => false
  | .tstd _ _ => false
  | .text _ _ _ => false
  | .tsub _ _ _ _ => false
  | .tsubr _ _ _ => false
  | .bcopy _ _ _ => false
  | .bcopyBnd _ _ _ _ => false
  | .bcopyBsn _ _ _ _ => false
  | .bfill _ _ _ => false
  | .bgath _ _ _ _ => false
  | .bscat _ _ _ _ => false
  | .bpref _ _ => false
  | .bres _ _ _ => false
  | .bevict _ _ => false
  | .bdemote _ _ => false
  | .bown _ _ => false
  | .brel _ _ => false
  | .mxst _ _ _ => false
  | .mxma _ _ _ _ => false
  | .mxmas _ _ _ _ _ => false
  | .vadd _ _ _ _ => false
  | .vsub _ _ _ _ => false
  | .vmul _ _ _ _ => false
  | .vfma _ _ _ _ => false
  | .vmin _ _ _ _ => false
  | .vmax _ _ _ _ => false
  | .vabs _ _ _ => false
  | .vneg _ _ _ => false
  | .vand _ _ _ _ => false
  | .vor _ _ _ _ => false
  | .vxor _ _ _ _ => false
  | .vnot _ _ _ => false
  | .vshl _ _ _ _ => false
  | .vshr _ _ _ _ => false
  | .vcmp _ _ _ _ _ => false
  | .vsel _ _ _ _ => false
  | .vcvt _ _ _ _ => false
  | .vexp2 _ _ _ => false
  | .vlog2 _ _ _ => false
  | .vrcp _ _ _ => false
  | .vrsq _ _ _ => false
  | .vtanh _ _ _ => false
  | .vred _ _ _ _ _ => false
  | .vscan _ _ _ _ _ => false
  | .vtrn _ _ _ => false
  | .vbcst _ _ _ _ => false
  | .vgath _ _ _ _ _ => false
  | .vmov _ _ _ => false
  | .vgen _ _ _ => false
  | .vgenConst _ _ _ => false
  | .cbld _ _ => false
  | .skset _ _ => false
  | .xbsetCtr _ _ _ => false
  | .xbsetTerm _ _ _ => false
  | .xbsetStage _ _ _ => false
  | .xbarmOn _ _ => false
  | .xbarmOff _ _ => false
  | .ectlRd _ _ _ _ => false
  | .ectlRes _ _ => false
  | .ectlCan _ _ => false
  | .estat _ _ => false
  | .trap _ => true
  | .scall _ => true
  | .mcall => true
  | .eret => true
  | .resume _ => false
  | .park _ => false
  | .crr _ _ => false
  | .crw _ _ _ => false
  | .ctxr _ _ _ => false
  | .ctxw _ _ _ => false
  | .spill _ => false
  | .fill _ _ _ => false
  | .kload _ _ _ => false
  | .kder _ _ _ => false
  | .krev _ _ => false
  | .japp _ _ _ => false
  | .ifence => false
  | .tfence => false
  | .bkpt => true
  | .halt => true
  | .immx _ => false
  | .rep _ _ => false
  | .hint _ _ => false
  | .memoryReply _ _ => false
  | .wake _ _ => false
  | .preempt _ _ => false
  | .windowSpill _ _ => false
  | .contextSpill _ => false
  | .engineAccept _ _ => false
  | .bargeStart _ _ => false
  | .bargeUnit _ _ => false
  | .bargeComplete _ _ => false
  | .basinSlotClaim _ => false
  | .hubCommand _ => false
  | .sendCommandReceipt _ => false
  | .replyDelivery _ _ _ => false
  | .remoteBarrierOperation _ => false
  | .homeAtomic _ => false
  | .homeJoin _ _ _ => false
  | .homeEnqueue _ => false
  | .homeDequeue _ => false
  | .dispenserRequest _ _ => false
  | .dispenserBind _ _ => false
  | .affinityTimeout _ _ => false
  | .entryThreadCreate _ _ _ => false
  | .periodStart => false
  | .consumedUpdate _ => false
  | .quiescent _ => false
  | .rcbEnd _ => false
  | .rcbJoinRetry _ => false
  | .heldRecordRetry => false
  | .xbarTermFire _ _ => false
  | .stagedLaunch _ _ => false
  | .regionRpub _ _ _ => false
  | .roundMulticast _ _ _ => false
  | .boundedRequest _ _ => false
  | .homeGets _ => false
  | .homeGetx _ => false
  | .homeUpg _ => false
  | .homeRenew _ => false
  | .homeWb _ _ _ _ => false
  | .homeGack _ _ => false
  | .homeFdata _ _ _ _ => false
  | .homeGone _ _ => false
  | .walkerRead _ _ => false
  | .evictionNotice _ _ _ => false
  | .agentData _ _ _ _ => false
  | .agentAckx _ _ _ => false
  | .agentRnack _ _ _ => false
  | .agentWback _ _ => false
  | .agentFwd _ _ _ => false
  | .agentRetry _ => false
  | .invReceive _ _ _ _ => false
  | .iackReceive _ => false
  | .lineEviction _ _ => false
  | .translationDrop _ _ => false
  | .l2PeerServe _ _ _ _ => false
  | .clockMinimumBroadcast _ => false
  | .rehome _ _ => false
  | .meshArbitration _ _ _ => false
  | .crSqpopWrite _ _ => false
  | .crTrootWrite _ _ => false
  | .crSlotpartWrite _ _ => false
  | .crBankpartWrite _ _ _ => false
  | .crWinWrite _ _ _ => false
  | .crWspWrite _ _ _ => false
  | .crJexportWrite _ => false
  | .crWeiraWrite _ _ _ => false
  | .crWeirbWrite _ _ _ => false
  | .crSenslimWrite _ => false
  | .sensorTrip _ _ _ => false
  | .journalCheckpoint => false
  | .weirRefill _ => false
  | .weirTimeout _ => false
  | .weirEgressEntry _ => false
  | .bar2Read _ _ => false
  | .bar2Write _ _ => false
  | .bar0Write _ _ => false
  | .hcRingtail _ => false
  | .hcRingctl _ => false
  | .ringFetch => false
  | .ringOpen _ => false
  | .ringLaunch _ _ => false
  | .ringGraph _ _ => false
  | .ringImport _ _ => false
  | .ringSummary _ _ => false
  | .ringJfree _ _ => false
  | .fabricSend _ => false
  | .fabricReceive _ _ => false
  | .peerAccess _ => false
  | .debugAttach _ => false
  | .debugDetach => false
  | .debugStop _ _ => false
  | .debugRelease _ _ => false
  | .debugStep _ _ => false
  | .debugClaim _ _ => false
  | .debugReadState _ _ _ => false
  | .debugReadCr _ _ _ => false
  | .debugReadContext _ _ _ => false
  | .debugWriteContext _ _ _ _ => false
  | .debugReadMemory _ => false
  | .debugWriteMemory _ _ _ => false
  | .debugProgramPcmp _ _ _ => false
  | .debugProgramWatch _ _ _ => false
  | .debugLaunch _ _ _ _ => false
  | .powerOnReset => false
  | .bringUpStage _ => false
  | .powerControlWrite _ => false
  | .throttleDown => false
  | .throttleUp => false
  | .gatingStep _ _ => false
  | .machineCheck _ _ _ => false
  | .wearUpdate _ => false
  | .reservedEncoding _ => false
  | .unfetchableWord _ _ => false
  | .slotOffer => false
  | .l1InstructionCacheDrop _ _ => false
  | .keyCachePurge _ _ => false
  | .homeRecall _ _ => false

/-- The word is of I or S form, so that IMMX may bind to it (R105, R108, R117). -/
def wordIsImmediate (w : BitVec 32) : Bool :=
  let op := (fld w 25 7).toNat
  decide (0x08 ≤ op) && decide (op ≤ 0x1B)

/-- The kind of prefix an instruction is (R116): 0 IMMX, 1 REP, 2 HINT. -/
def Instr.prefixKind : Instr → Option Nat
  | .add _ _ _ => none
  | .sub _ _ _ => none
  | .and _ _ _ => none
  | .or _ _ _ => none
  | .xor _ _ _ => none
  | .andn _ _ _ => none
  | .orn _ _ _ => none
  | .min _ _ _ => none
  | .max _ _ _ => none
  | .minu _ _ _ => none
  | .maxu _ _ _ => none
  | .slt _ _ _ => none
  | .sltu _ _ _ => none
  | .seq _ _ _ => none
  | .sne _ _ _ => none
  | .mul _ _ _ => none
  | .mulh _ _ _ => none
  | .mulhu _ _ _ => none
  | .div _ _ _ => none
  | .divu _ _ _ => none
  | .rem _ _ _ => none
  | .remu _ _ _ => none
  | .shl _ _ _ => none
  | .shr _ _ _ => none
  | .sra _ _ _ => none
  | .rot _ _ _ => none
  | .clz _ _ => none
  | .ctz _ _ => none
  | .popc _ _ => none
  | .brev _ _ => none
  | .exts _ _ _ => none
  | .zip _ _ _ => none
  | .zrow _ _ => none
  | .zcol _ _ => none
  | .zaddr _ _ _ => none
  | .zaddc _ _ _ => none
  | .ptrunc _ _ _ => none
  | .pdig _ _ _ => none
  | .pcat _ _ _ => none
  | .addi _ _ _ => none
  | .andi _ _ _ => none
  | .ori _ _ _ => none
  | .xori _ _ _ => none
  | .slti _ _ _ => none
  | .sltiu _ _ _ => none
  | .shli _ _ _ => none
  | .shri _ _ _ => none
  | .srai _ _ _ => none
  | .lih _ _ _ => none
  | .ldB _ _ _ => none
  | .ldH _ _ _ => none
  | .ldW _ _ _ => none
  | .ldD _ _ _ => none
  | .ldzB _ _ _ => none
  | .ldzH _ _ _ => none
  | .ldzW _ _ _ => none
  | .ldx _ _ _ => none
  | .stB _ _ _ => none
  | .stH _ _ _ => none
  | .stW _ _ _ => none
  | .stD _ _ _ => none
  | .ldbB _ _ _ => none
  | .ldbH _ _ _ => none
  | .ldbW _ _ _ => none
  | .ldbD _ _ _ => none
  | .ldbzB _ _ _ => none
  | .ldbzH _ _ _ => none
  | .ldbzW _ _ _ => none
  | .amoadd _ _ _ _ => none
  | .amoand _ _ _ _ => none
  | .amoor _ _ _ _ => none
  | .amoxor _ _ _ _ => none
  | .amomin _ _ _ _ => none
  | .amomax _ _ _ _ => none
  | .amominu _ _ _ _ => none
  | .amomaxu _ _ _ _ => none
  | .amoswp _ _ _ _ => none
  | .join _ _ => none
  | .cas _ _ _ _ => none
  | .nop => none
  | .beq _ _ _ => none
  | .bne _ _ _ => none
  | .blt _ _ _ => none
  | .bge _ _ _ => none
  | .bltu _ _ _ => none
  | .bgeu _ _ _ => none
  | .j _ => none
  | .jal _ => none
  | .jr _ => none
  | .callr _ => none
  | .ret => none
  | .callat _ _ _ => none
  | .reply _ _ => none
  | .waitr _ _ => none
  | .waitw => none
  | .waite _ => none
  | .waiteFill _ => none
  | .waiteFree _ => none
  | .enq _ _ _ => none
  | .deq _ _ _ => none
  | .deqt _ _ _ => none
  | .send _ _ _ _ => none
  | .rpub _ _ => none
  | .racq _ _ => none
  | .rfloor _ _ => none
  | .rsub _ _ => none
  | .rfloorClr _ => none
  | .binit _ _ => none
  | .barr _ => none
  | .bexp _ _ => none
  | .bwait _ _ _ => none
  | .btest _ _ => none
  | .bhset _ _ => none
  | .bsni _ _ => none
  | .bsnp _ _ => none
  | .bsnc _ => none
  | .bsng _ _ => none
  | .bsnf _ => none
  | .tdef _ _ _ => none
  | .tldd _ _ => none
  | .tstd _ _ => none
  | .text _ _ _ => none
  | .tsub _ _ _ _ => none
  | .tsubr _ _ _ => none
  | .bcopy _ _ _ => none
  | .bcopyBnd _ _ _ _ => none
  | .bcopyBsn _ _ _ _ => none
  | .bfill _ _ _ => none
  | .bgath _ _ _ _ => none
  | .bscat _ _ _ _ => none
  | .bpref _ _ => none
  | .bres _ _ _ => none
  | .bevict _ _ => none
  | .bdemote _ _ => none
  | .bown _ _ => none
  | .brel _ _ => none
  | .mxst _ _ _ => none
  | .mxma _ _ _ _ => none
  | .mxmas _ _ _ _ _ => none
  | .vadd _ _ _ _ => none
  | .vsub _ _ _ _ => none
  | .vmul _ _ _ _ => none
  | .vfma _ _ _ _ => none
  | .vmin _ _ _ _ => none
  | .vmax _ _ _ _ => none
  | .vabs _ _ _ => none
  | .vneg _ _ _ => none
  | .vand _ _ _ _ => none
  | .vor _ _ _ _ => none
  | .vxor _ _ _ _ => none
  | .vnot _ _ _ => none
  | .vshl _ _ _ _ => none
  | .vshr _ _ _ _ => none
  | .vcmp _ _ _ _ _ => none
  | .vsel _ _ _ _ => none
  | .vcvt _ _ _ _ => none
  | .vexp2 _ _ _ => none
  | .vlog2 _ _ _ => none
  | .vrcp _ _ _ => none
  | .vrsq _ _ _ => none
  | .vtanh _ _ _ => none
  | .vred _ _ _ _ _ => none
  | .vscan _ _ _ _ _ => none
  | .vtrn _ _ _ => none
  | .vbcst _ _ _ _ => none
  | .vgath _ _ _ _ _ => none
  | .vmov _ _ _ => none
  | .vgen _ _ _ => none
  | .vgenConst _ _ _ => none
  | .cbld _ _ => none
  | .skset _ _ => none
  | .xbsetCtr _ _ _ => none
  | .xbsetTerm _ _ _ => none
  | .xbsetStage _ _ _ => none
  | .xbarmOn _ _ => none
  | .xbarmOff _ _ => none
  | .ectlRd _ _ _ _ => none
  | .ectlRes _ _ => none
  | .ectlCan _ _ => none
  | .estat _ _ => none
  | .trap _ => none
  | .scall _ => none
  | .mcall => none
  | .eret => none
  | .resume _ => none
  | .park _ => none
  | .crr _ _ => none
  | .crw _ _ _ => none
  | .ctxr _ _ _ => none
  | .ctxw _ _ _ => none
  | .spill _ => none
  | .fill _ _ _ => none
  | .kload _ _ _ => none
  | .kder _ _ _ => none
  | .krev _ _ => none
  | .japp _ _ _ => none
  | .ifence => none
  | .tfence => none
  | .bkpt => none
  | .halt => none
  | .immx _ => some 0
  | .rep _ _ => some 1
  | .hint _ _ => some 2
  | .memoryReply _ _ => none
  | .wake _ _ => none
  | .preempt _ _ => none
  | .windowSpill _ _ => none
  | .contextSpill _ => none
  | .engineAccept _ _ => none
  | .bargeStart _ _ => none
  | .bargeUnit _ _ => none
  | .bargeComplete _ _ => none
  | .basinSlotClaim _ => none
  | .hubCommand _ => none
  | .sendCommandReceipt _ => none
  | .replyDelivery _ _ _ => none
  | .remoteBarrierOperation _ => none
  | .homeAtomic _ => none
  | .homeJoin _ _ _ => none
  | .homeEnqueue _ => none
  | .homeDequeue _ => none
  | .dispenserRequest _ _ => none
  | .dispenserBind _ _ => none
  | .affinityTimeout _ _ => none
  | .entryThreadCreate _ _ _ => none
  | .periodStart => none
  | .consumedUpdate _ => none
  | .quiescent _ => none
  | .rcbEnd _ => none
  | .rcbJoinRetry _ => none
  | .heldRecordRetry => none
  | .xbarTermFire _ _ => none
  | .stagedLaunch _ _ => none
  | .regionRpub _ _ _ => none
  | .roundMulticast _ _ _ => none
  | .boundedRequest _ _ => none
  | .homeGets _ => none
  | .homeGetx _ => none
  | .homeUpg _ => none
  | .homeRenew _ => none
  | .homeWb _ _ _ _ => none
  | .homeGack _ _ => none
  | .homeFdata _ _ _ _ => none
  | .homeGone _ _ => none
  | .walkerRead _ _ => none
  | .evictionNotice _ _ _ => none
  | .agentData _ _ _ _ => none
  | .agentAckx _ _ _ => none
  | .agentRnack _ _ _ => none
  | .agentWback _ _ => none
  | .agentFwd _ _ _ => none
  | .agentRetry _ => none
  | .invReceive _ _ _ _ => none
  | .iackReceive _ => none
  | .lineEviction _ _ => none
  | .translationDrop _ _ => none
  | .l2PeerServe _ _ _ _ => none
  | .clockMinimumBroadcast _ => none
  | .rehome _ _ => none
  | .meshArbitration _ _ _ => none
  | .crSqpopWrite _ _ => none
  | .crTrootWrite _ _ => none
  | .crSlotpartWrite _ _ => none
  | .crBankpartWrite _ _ _ => none
  | .crWinWrite _ _ _ => none
  | .crWspWrite _ _ _ => none
  | .crJexportWrite _ => none
  | .crWeiraWrite _ _ _ => none
  | .crWeirbWrite _ _ _ => none
  | .crSenslimWrite _ => none
  | .sensorTrip _ _ _ => none
  | .journalCheckpoint => none
  | .weirRefill _ => none
  | .weirTimeout _ => none
  | .weirEgressEntry _ => none
  | .bar2Read _ _ => none
  | .bar2Write _ _ => none
  | .bar0Write _ _ => none
  | .hcRingtail _ => none
  | .hcRingctl _ => none
  | .ringFetch => none
  | .ringOpen _ => none
  | .ringLaunch _ _ => none
  | .ringGraph _ _ => none
  | .ringImport _ _ => none
  | .ringSummary _ _ => none
  | .ringJfree _ _ => none
  | .fabricSend _ => none
  | .fabricReceive _ _ => none
  | .peerAccess _ => none
  | .debugAttach _ => none
  | .debugDetach => none
  | .debugStop _ _ => none
  | .debugRelease _ _ => none
  | .debugStep _ _ => none
  | .debugClaim _ _ => none
  | .debugReadState _ _ _ => none
  | .debugReadCr _ _ _ => none
  | .debugReadContext _ _ _ => none
  | .debugWriteContext _ _ _ _ => none
  | .debugReadMemory _ => none
  | .debugWriteMemory _ _ _ => none
  | .debugProgramPcmp _ _ _ => none
  | .debugProgramWatch _ _ _ => none
  | .debugLaunch _ _ _ _ => none
  | .powerOnReset => none
  | .bringUpStage _ => none
  | .powerControlWrite _ => none
  | .throttleDown => none
  | .throttleUp => none
  | .gatingStep _ _ => none
  | .machineCheck _ _ _ => none
  | .wearUpdate _ => none
  | .reservedEncoding _ => none
  | .unfetchableWord _ _ => none
  | .slotOffer => none
  | .l1InstructionCacheDrop _ _ => none
  | .keyCachePurge _ _ => none
  | .homeRecall _ _ => none

end Sys2Proof
end

