-- ==== Sys2Proof/Config.lean ====
section
/-! DEFINITION. What the spec leaves to the implementation or does not fix: free values, opaque so that nothing can be
proved about which value they take. Each is named in an assumption-log entry. -/

namespace Sys2Proof.Config

/-- Which of the steps that can be taken next is taken (DESIGN CHOICE, log 1); applied to `State.tick`. -/
opaque schedule : Nat → Nat

/-- What the caches, the translation buffers and the homes do of their own accord at the end of a cycle (R302, R303, R315, R323,
R324, DESIGN CHOICE, log 11): a kind and its two numbers each; applied to the cycle. -/
opaque spontaneous : Nat → List (Nat × Nat × Nat)

/-- Whether the upgrade requests that are on their way to a line arrive in one cycle (R306, DESIGN CHOICE, log 46); applied to `State.tick`. -/
opaque sameCycle : Nat → Bool

/-- The writes that the host makes to its own memory in a cycle: bus address and bytes (R267, R383, DESIGN CHOICE, log 6). -/
opaque hostWrites : Nat → List (Nat × List Byte)

/-- What peers write in a cycle to the memory they have granted: port, frame address, bytes and sideband (R384, R386, DESIGN CHOICE, log 6). -/
opaque peerWrites : Nat → List (Nat × Nat × List Byte × Option Word)

/-- The L2 slice, if any, that the device lets serve a barge's operand read (R301, R324, DESIGN CHOICE, log 11); applied to `State.tick`. -/
opaque peerSlice : Nat → Option Nat

/-- Whether a barge makes the members of a unit after all it has made before, or only after those that R261 orders before them (R261, R300, DESIGN
CHOICE, log 69); applied to `State.tick`. -/
opaque bargeInOrder : Nat → Bool

/-- A dispenser's deficit where the sum that R334 gives does not fit its signed 40 bits (R334, log 70). -/
opaque deficitBeyond : Int → BitVec 40

/-- The requester that a watch report names for an access that the package makes for itself (R395, log 71). -/
opaque deviceRequester : Nat

/-- Which entry a full translation buffer, walker cache or cluster TLB gives up (R315, DESIGN CHOICE, log 11). -/
opaque victim : Nat → Nat

/-- The 256-bit fused key of the chip (R357, DESIGN CHOICE, log 7). -/
opaque fusedKey : BitVec 256

/-- The 48-byte random boot nonce of a boot (R357, DESIGN CHOICE, log 7). -/
opaque bootNonce : Nat → BitVec 384

/-- The nonce of an ECDSA signature (R370, R377, DESIGN CHOICE, log 7). -/
opaque ecdsaNonce : Nat → Nat

/-- A byte of host memory the device has not written (R50, DESIGN CHOICE, log 6). -/
opaque hostByte : Nat → Byte

/-- A byte of a peer's granted memory, or of its sideband, that the device has not written (R311, R384, DESIGN CHOICE, log 6). -/
opaque peerByte : Nat → Byte

/-- Whether a byte of a peer's granted memory lies in the enabled round region of an id at its exporter: port, region, frame (R289, R299,
DESIGN CHOICE, log 61). -/
opaque peerRegion : Nat → Nat → Nat → Bool

/-- The rounds that others publish at an exporter's record between two looks of this package; applied to `State.tick` (R299, DESIGN CHOICE,
log 61). -/
opaque peerRounds : Nat → Nat

/-- What becomes of a read of a peer's memory: 1 its weir refuses it, else it is served; applied to `State.tick` (R386, DESIGN CHOICE, log 6). -/
opaque peerOutcome : Nat → Nat

/-- What an exporter answers a JOIN that enqueues at one of its queues: accepted, or the cause of the refusal; applied to `State.tick` (R157, R386,
DESIGN CHOICE, log 6). -/
opaque peerJoin : Nat → Option (BitVec 8)

/-- The flits that an input buffer of a mesh router holds for one channel, less one (R349, DESIGN CHOICE, log 62). -/
opaque meshBuffer : Nat

/-- The factory bounds of `cr.senslim` (R372, DESIGN CHOICE, log 7). -/
opaque factoryLimits : Word

/-- The sensor readings before the first reading event (R372, DESIGN CHOICE, log 7). -/
opaque sensorReading : Word

/-- The number by which a journal entry names the sensor that tripped: voltage 0, temperature 1, clock 2 (R369, DESIGN CHOICE, log 7). -/
opaque sensorCode : Nat → BitVec 16

/-- The ring-state word of a summary snapshot, by session and halt (R377, DESIGN CHOICE, log 34). -/
opaque ringState : Bool → Bool → Word

/-- The monitor's entry address and the kernel's entry address (R398, DESIGN CHOICE, log 8). -/
opaque monitorEntry : Word
opaque kernelEntry : Word

/-- The outcome of a bring-up stage, by boot and stage: the error code and the failed links, if it fails (R398, DESIGN CHOICE, log 8). -/
opaque bootFault : Nat → Nat → Option (Nat × BitVec 48)

/-- The bytes that loading the monitor and the kernel leaves in memory, by address (R398, DESIGN CHOICE, log 8). -/
opaque monitorImage : List (Nat × Byte)
opaque kernelImage : List (Nat × Byte)

/-- The power that the module draws in a cycle, in watts (R400, DESIGN CHOICE, log 73). -/
opaque moduleDraw : Nat → BitVec 16

end Sys2Proof.Config
end

