-- ==== Sys2Proof/Machine/SMap.lean ====
section
/-! DEFINITION. Numbered families of things held sparsely: a list of (number, value) pairs, numbers strictly rising, no
entry equal to what an unlisted number reads as. Memory, the register files and every table of the machine are kept so;
equal families are then equal data. -/

namespace Sys2Proof.Machine

/-- A numbered family of values. -/
abbrev SMap (V : Type) := List (Nat × V)

/-- The value at `k`; `d` is what an unlisted number reads as. -/
def SMap.get {V : Type} (d : V) : SMap V → Nat → V
  | [], _ => d
  | (k', v) :: t, k => if k = k' then v else SMap.get d t k

/-- Insert or replace the entry of `k`, keeping the numbers rising. -/
def SMap.put {V : Type} : SMap V → Nat → V → SMap V
  | [], k, v => [(k, v)]
  | (k', v') :: t, k, v =>
    if k < k' then (k, v) :: (k', v') :: t
    else if k = k' then (k, v) :: t
    else (k', v') :: SMap.put t k v

/-- Remove the entry of `k`. -/
def SMap.del {V : Type} : SMap V → Nat → SMap V
  | [], _ => []
  | (k', v') :: t, k => if k = k' then SMap.del t k else (k', v') :: SMap.del t k

/-- Write `v` at `k`: writing what an unlisted number reads as removes the entry. -/
def SMap.set {V : Type} [DecidableEq V] (d : V) (m : SMap V) (k : Nat) (v : V) : SMap V :=
  if v = d then SMap.del m k else SMap.put m k v

/-- Every listed number is above `lo`, strictly rising, and no entry holds `d`. -/
def SMap.wfFrom {V : Type} [DecidableEq V] (d : V) : Option Nat → SMap V → Bool
  | _, [] => true
  | lo, (k, v) :: t => (match lo with | none => true | some l => decide (l < k)) && decide (v ≠ d) && SMap.wfFrom d (some k) t

/-- The canonical form. -/
def SMap.wf {V : Type} [DecidableEq V] (d : V) (m : SMap V) : Bool := SMap.wfFrom d none m

/-- Memory: (address, byte) pairs in the canonical form; an unlisted byte reads zero (R35). -/
abbrev Memory := List Host.Cell

/-- Read one byte of a memory (R35: a byte nothing has written reads zero after bring-up). -/
def Memory.read (m : Memory) (a : Nat) : BitVec 8 := SMap.get 0 m a

/-- Write one byte of a memory. -/
def Memory.write (m : Memory) (a : Nat) (b : BitVec 8) : Memory := SMap.set 0 m a b

/-- The canonical form of a memory. -/
def Memory.wf (m : Memory) : Bool := SMap.wf 0 m

end Sys2Proof.Machine
end

