-- ==== Sys2Proof/Machine/State.lean ====
section
/-! DEFINITION. The state of one LV9-P package: everything the spec gives the machine, as plain data (INVENTORY.md, State).
Reset values are those the spec states; those it does not state are named in the assumption log (DESIGN CHOICE, log 4). -/

namespace Sys2Proof.Machine

/-! ### Contexts -/

/-- Context states of a core (R86); a spilled context lives in memory only. -/
inductive CtxState where
  | free | bound | parked
  deriving DecidableEq, Repr

/-- Privilege levels (R230). -/
inductive Level where
  | u | s | m
  deriving DecidableEq, Repr

/-- A prefix chain under way (R116): how many of its words have been read, and what its prefixes carried. -/
structure Chain where
  len : Nat := 0
  immx : Option (BitVec 25) := none
  rep : Option (BitVec 6 × BitVec 4) := none
  hint : Option (BitVec 25) := none
  begun : Bool := false      -- its repeats have begun (R118)
  deriving DecidableEq, Repr

/-- An engine command at acceptance: the command word and its descriptor copies with the local-store alias resolved
(R92, R93 words 3 to 10), and the scalar operands of CBLD and SKSET (R216). -/
structure Command where
  word : BitVec 32 := 0
  td : BitVec 128 := 0
  ta : BitVec 128 := 0
  tb : BitVec 128 := 0
  handle : BitVec 32 := 0
  x : Word := 0
  y : Word := 0
  deriving DecidableEq, Repr

/-- What a thread out of the rotation waits to do when its wait ends (R83, R100, R101). -/
inductive Pend where
  | none
  | landed                      -- the control transfer is made; the reply ends the wait (RET that fills, R138)
  | reply                       -- retire when the reply or acknowledgement arrives (MEMORY_REPLY)
  | reissue                     -- issue the instruction again once woken (R241)
  | message                     -- the target of a message completes the instruction, then MEMORY_REPLY
  | record (t : Target) (va : Word) (rcd : LineData)   -- DEQ has taken its record and writes it once the line is at hand (R161)
  | work                        -- WAITW until a dispenser binds work (R168)
  | engine (e : Nat) (c : Command)                                             -- R83, R92
  | bounded (d : BitVec 5) (n : Nat) (sx : Bool) (q : BitVec 32) (t : Target) (va : Word)      -- R152, R296
  deriving DecidableEq, Repr

/-- A supervisor-queue record, four words (R234). -/
structure SqRec where
  w0 : Word
  w1 : Word
  w2 : Word
  w3 : Word
  deriving DecidableEq, Repr

/-- A resident context: the image of R88 and what the core keeps beside it. -/
structure Context where
  st : CtxState := .free
  slot : Nat := 0
  pc : Word := 0
  level : Level := .u
  prior : BitVec 2 := 0
  step : Bool := false
  fflags : BitVec 5 := 0
  rcnt : Word := 0
  win : Word := 0
  wsp : Word := 0
  lease : BitVec 16 := 8
  wait : Word := 0
  sregs : SMap Word := []
  wins : List (SMap Word) := [[]]
  tiles : SMap (BitVec 128) := []
  handles : SMap (BitVec 32) := []
  floors : SMap Word := []
  reply : SMap Word := []
  rstate : SMap (BitVec 2) := []
  tcause : Word := 0
  tval : Word := 0
  tpc : Word := 0
  rcb : BitVec 11 := 0
  join : Word := 0
  save : Word := 0
  tid : Nat := 0
  chain : Chain := {}
  ir : BitVec 32 := 0        -- the word being issued (word 3 of a trap record, R234)
  pend : Pend := .none
  readyAt : Nat := 0
  waitSince : Nat := 0
  parkedAt : Nat := 0
  parkReq : Bool := false
  budgetStop : Bool := false     -- it is to be pre-empted because its RCB's budget is spent (R336, R339)
  answer : Option (BitVec 5 × Word) := none   -- what the reply on its way writes, and to which register (R187)
  lastWait : Nat := 0            -- the kind of the wait that ended last (R84, R397)
  budgetParked : Bool := false   -- parked because its RCB's budget was spent (R336)
  budgetDue : Bool := false      -- a period has started since: it takes its home slot when that is vacant (R336)
  acksDue : Nat := 0
  miss : Option (Nat × Bool) := none   -- the line whose copy a waiting access asked for, and whether exclusively (R303)
  served : Nat := 0                    -- the level that has answered the miss of the access that issues again; 0: none (R396)
  lateFlags : BitVec 5 := 0            -- flags that the waiting LDX raises when it retires (R61, R150)
  watchHit : Option Word := none
  stopped : Bool := false
  stopReq : Bool := false
  dbgStep : Bool := false
  skipWords : Nat := 0       -- words of a claimed BKPT chain that a release steps over (R392)
  skipCmp : Bool := false
  deriving DecidableEq, Repr

/-! ### Barriers, basins, engines -/

/-- A named barrier entry (R179). -/
structure Barrier where
  part : Nat := 0
  armed : Bool := false
  fault : Bool := false
  phase : Bool := false
  expected : Nat := 0
  remaining : Nat := 0
  pending : Int := 0
  deriving DecidableEq, Repr

/-- A basin (R188) and the claim numbers of its withdrawn slots (R191). -/
structure Basin where
  release : Nat := 0
  take : Nat := 0
  commit : Nat := 0
  claim : Nat := 0
  k : Nat := 0
  j : Nat := 0
  enabled : Bool := false
  base : Word := 0
  withdrawn : List Nat := []
  deriving DecidableEq, Repr

/-- Barge record states (R93). -/
inductive BState where
  | free | queued | running | parked | done | cancelled
  deriving DecidableEq, Repr

/-- A skip-list stream register (R215, R216). -/
structure Stream where
  addr : Word := 0
  skip : Bool := false
  left : Nat := 0
  deriving DecidableEq, Repr

/-- A barge record (R93) and what the engine keeps with it. -/
structure Barge where
  st : BState := .free
  cause : BitVec 8 := 0
  cursor : Nat := 0
  faultAddr : Word := 0
  slot : Nat := 0
  issuerCore : Nat := 0
  direct : Bool := false      -- issued by the thread itself, so that R98 covers it
  ctx : Nat := 0
  tid : Nat := 0
  pc : Word := 0              -- the first word of the chain that issued it (R234)
  rcb : BitVec 11 := 0
  part : Nat := 0
  level : Level := .u
  lease : BitVec 16 := 8
  floors : SMap Word := []
  captured : Bool := false    -- the floors are fixed: captured at a staged launch, or taken at the start (R205, R227)
  clk : Nat := 0              -- its clock at the fork, or at the ECTL.res that resumed it (R261, R300)
  doneClk : Nat := 0          -- its clock as its members have moved it: no lower than any of them (R262, R300)
  readClk : Nat := 0          -- no lower than the clock of any read that the present unit's writes depend on (R261)
  lines : SMap (LineData × Word) := []   -- operand lines read that later units use again (R52, R98)
  cmd : Command := {}
  aux : Word := 0
  flags : BitVec 5 := 0
  seq : Nat := 0
  basinClaim : Option Nat := none
  forgot : Option Nat := none    -- the claim number of a slot of the present unit that BSNI has made it forget (R189)
  lastBytes : Nat := 0
  stream : Stream := {}
  checkedSlots : List Nat := []
  finished : Bool := false
  watchHit : Option Word := none
  asked : Bool := false       -- the present unit's bounded read has gone to the home, which decides it (R295, R296)
  paid : Bool := false        -- the weir has let the present unit pass (R366)
  deriving DecidableEq, Repr

/-- One of a core's three engines (R92, R94). -/
structure Engine where
  recs : SMap Barge := []
  queue : List Nat := []
  resumed : List Nat := []    -- records that ECTL.res has resumed and that have still to start: they hold no queue entry (R97, R228)
  running : Option Nat := none
  last : Nat := 7
  seq : Nat := 0
  clk : Nat := 0              -- no lower than any member of its barges whose records have been freed (R262, R285)
  deriving DecidableEq, Repr

/-- States of a stationary buffer (R212): empty after reset, loading, full, and partial after a cancelled MXST. -/
inductive BufState where
  | empty | loading | full | cut
  deriving DecidableEq, Repr

/-- An exact value of an element or an f32 (R64, R59): NaN, an infinity, minus zero, or the real `m * 2 ^ e`. -/
inductive XVal where
  | nan
  | inf (neg : Bool)
  | negZero
  | fin (m : Int) (e : Int)
  deriving DecidableEq, Repr

/-- A stationary buffer (R212): weights by 128 k + j, dead positions zero; `ints` holds the integers of integer lines, their
scale not applied (R76). -/
structure StatBuf where
  st : BufState := .empty
  rows : Nat := 0
  cols : Nat := 0
  integer : Bool := false
  weights : SMap XVal := []
  ints : SMap Int := []
  deriving DecidableEq, Repr

/-! ### Event crossbar -/

/-- An event counter (R226). -/
structure XCounter where
  kind : Nat := 0
  index : Nat := 0
  count : Nat := 0
  owner : Nat := 0
  clk : Nat := 0              -- no lower than the clocks of the pulses it has counted (R262, R300)
  deriving DecidableEq, Repr

/-- A term (R226): its four conditions as written, its staged register, rearm, owner. -/
structure XTerm where
  conds : Word := 0
  staged : Nat := 0
  rearm : Bool := false
  owner : Nat := 0
  deriving DecidableEq, Repr

/-- A staged-command register (R226, R227). -/
structure Staged where
  enabled : Bool := false
  cmd : Command := {}
  core : Nat := 0
  slot : Nat := 0
  ctx : Nat := 0
  tid : Nat := 0
  rcb : BitVec 11 := 0
  part : Nat := 0
  level : Level := .u
  lease : BitVec 16 := 8
  floors : SMap Word := []
  pending : Nat := 0
  owner : Nat := 0
  clk : Nat := 0
  startAt : Nat := 0          -- the cycle + 1 on which its start input was last asserted (R227)
  deriving DecidableEq, Repr

/-! ### Cores -/

/-- A round view table entry (R292). -/
structure RoundView where
  region : Nat
  view : BitVec 32
  deriving DecidableEq, Repr

/-- A trace record (R396). -/
structure TraceRec where
  cycle : Word
  pc : Word
  source : Word
  data : Word
  deriving DecidableEq, Repr

/-- Where a supervisor-queue record is held while the queue is full (R233). -/
inductive HeldSrc where
  | thread (ctx : Nat)
  | barge (e r : Nat)
  | staged (reg : Nat)
  | dispenser (cluster : Nat)
  | machineCheck
  | sensor
  deriving DecidableEq, Repr

/-- A RESUME that waits for the context bound to a slot to reach its boundary (R240). -/
structure Resuming where
  slot : Nat
  ctx : Nat
  issuer : Nat
  deriving DecidableEq, Repr

/-- A context that was parked because its RCB's budget was spent and that the core has spilled since: its home slot, its save area, its RCB,
and whether a period has started (R87, R336). -/
structure BudgetSpill where
  slot : Nat
  save : Word
  rcb : Nat
  due : Bool
  deriving DecidableEq, Repr

/-- What needs a context (R87): an entry thread, the binding of a queue's record, a FILL, a context that comes back after its budget's renewal, a debug
launch; `any` for a spill that the core makes for none of these. -/
inductive SpillNeed where
  | entry (slot rcb : Nat)
  | bind (queue : Nat)
  | fill (ctx : Nat)
  | back (save : Word)
  | debug
  | any
  deriving DecidableEq, Repr

/-- One barrel core (R22). -/
structure Core where
  ctxs : SMap Context := []
  sq : List SqRec := []
  heldSq : List (HeldSrc × SqRec) := []     -- records held at their sources, in event order (R233)
  slotpart : Word := 0
  slotpartReg : Word := 0    -- cr.slotpart as written; a slot's field comes into force at its next offer (R340)
  bankpart0 : Word := 0
  bankpart1 : Word := 0
  troot : Word := 0
  qtable : Word := 0
  mentry : Word := 0
  mresume : Word := 0
  mreason : Word := 0
  mdetail : Word := 0
  pwin : SMap Word := []
  pcmp : SMap Word := []
  pcmpctl : Word := 0
  tracectl : Word := 0
  slotcnt : SMap Word := []
  readyhist : SMap Word := []
  trace : List TraceRec := []
  dead : Bool := false
  barriers : SMap Barrier := []
  bwaiters : List BarrierMsg := []          -- remote BWAIT and WAITE that wait here (R169, R186)
  basins : SMap Basin := []
  engines : SMap Engine := []
  bufs : SMap StatBuf := []
  tables : SMap (BitVec 16) := []
  streams : SMap Stream := []
  keyCache : List (Nat × BitVec 256) := []
  counters : SMap XCounter := []
  terms : SMap XTerm := []
  armed : BitVec 64 := 0
  staged : SMap Staged := []
  views : List RoundView := []
  claims : BitVec 16 := 0
  resuming : List Resuming := []
  parking : List (Nat × Nat) := []          -- PARKs that wait for a context to be parked: the context and the issuer (R241, R286)
  spillFails : List (SpillNeed × Nat) := [] -- the threads whose spill has failed during a need that lasts (R87, R414)
  budgetSpills : List BudgetSpill := []     -- in the order of their spilling
  deriving DecidableEq, Repr

/-! ### Caches, clocks, translation: what no instruction names but R300 to R325 describe -/

/-- Agent states of a line in an L1 data cache (R303); I is absence. -/
inductive CopyState where
  | iv | v | vr | vx | ix | x | xi
  deriving DecidableEq, Repr

/-- A cached copy: its state, image with stamps, the low 8 bits of its fill round, its residency class, whether it has been
written since it became exclusive, and whether its level stopped holding a view of its region while a reply was on its way
(R293, R303, R325); `leftL2`: the same of the L2 slice that the reply passes. -/
structure Copy where
  st : CopyState
  img : Stamped
  tag : BitVec 8
  region : Option Nat
  cls : Nat := 0
  dirty : Bool := false
  left : Bool := false
  leftL2 : Bool := false
  deriving DecidableEq, Repr

/-- Home states of a line (R305). -/
inductive HomeState where
  | c | g | o | f | w
  deriving DecidableEq, Repr

/-- A line's state at its home (R305); `waiting` holds the requests that found it in a transient state, in order of arrival, and
`served` says that a block owner has just answered for it (R309). -/
structure HomeLine where
  st : HomeState := .c
  owner : Nat := 0
  wts : Nat := 0
  rts : Nat := 0
  waiting : List Instr := []
  served : Bool := false
  deriving DecidableEq, Repr

/-- A cached translation (R310, R315): the block it covers, the leaf's entry and attribute words, the page-table lines it
was derived from with the rounds they carried, and the core that filled it. -/
structure TlbEntry where
  base : Nat
  height : Nat
  entry : Word
  attr : Word
  lines : List (Nat × Nat)
  core : Nat
  barred : List Nat := []     -- cores of the cluster that have fenced since it was filled (R248)
  deriving DecidableEq, Repr

/-- A translation directory entry (R316). -/
structure DirEntry where
  coarse : Bool := false
  record : Bool := false
  sdie : Bool := false
  recordId : Nat := 0        -- the region whose record that is
  table : Bool := false
  round : Nat := 0
  ptrs : SMap Nat := []      -- pointer i ↦ core id + 1 (0: invalid)
  clusters : BitVec 64 := 0
  deriving DecidableEq, Repr

/-- An owner-table entry (R309). -/
structure OwnerEntry where
  base : Nat
  height : Nat
  owner : Nat
  deriving DecidableEq, Repr

/-- A residency handle (R325). -/
structure Handle where
  base : Nat
  height : Nat
  cls : Nat
  deriving DecidableEq, Repr

/-- Everything below the architecture: copies, stamps, translations kept, logical clocks. -/
structure Micro where
  l1d : SMap (SMap Copy) := []          -- by core, by line number
  l2 : SMap (SMap Copy) := []           -- by cluster, by line number
  l1i : SMap (SMap LineData) := []      -- by core, by line number of the resolved address
  home : SMap HomeLine := []            -- by line number
  tlb : SMap (List TlbEntry) := []      -- block TLB, by core
  ctlb : SMap (List TlbEntry) := []     -- cluster TLB, by cluster
  wcache : SMap (List (Nat × Nat × LineData)) := []   -- walker cache: line, round, image, by core
  dir : SMap DirEntry := []             -- by line number
  dirOrder : List Nat := []             -- page-table lines in order of registration
  owners : SMap (List OwnerEntry) := [] -- by slice
  handles : SMap (List Handle) := []    -- by slice, and by 32 + cluster
  watches : SMap Word := []             -- by 16 slice + index
  homeMap : SMap Nat := []              -- re-homed granules: granule ↦ slice + 1
  moving : List (Nat × Nat) := []       -- granules in motion and the slices they move to (R323)
  retry : List (Nat × Instr) := []      -- requests answered with RETRY, by granule: sent again when the move is over (R323)
  llc : SMap (List (Nat × Nat)) := []   -- by slice: the lines it keeps and their classes, the latest filled last (R325)
  seen : SMap (SMap Nat) := []          -- thread id ↦ line ↦ stamp of what the thread has accessed of a round region (R265, R294)
  uses : SMap (SMap (SMap Nat)) := []   -- core ↦ line ↦ thread id ↦ last clock + 1 at which it may use the present copy (R273)
  clkCtx : SMap Nat := []               -- by 32 core + context
  clkSlice : SMap Nat := []
  clkDisp : SMap Nat := []
  clkSdie : Nat := 0
  stBarrier : SMap Nat := []            -- by 2048 core + index
  stBasin : SMap Nat := []              -- by 64 core + index
  stQueue : SMap Nat := []
  stJoin : SMap Nat := []
  stReply : SMap Nat := []              -- by 4 (32 core + context) + slot
  minClk : Nat := 0                     -- package minimum (R302)
  tick : Nat := 0                       -- counter the free victims are applied to
  deriving DecidableEq, Repr

/-! ### Round regions and queues at their homes -/

/-- A region record (R290, R291). -/
structure RegionRec where
  base : Nat
  height : Nat
  counter : BitVec 32
  subscribers : BitVec 64
  wts : Nat := 0              -- stamps of the counter (R176, R260, R300)
  rts : Nat := 0
  ports : BitVec 16 := 0      -- fabric ports of the importing packages that subscribe (R299)
  deriving DecidableEq, Repr

/-- A party waiting at a queue's home (R161). -/
inductive QWaiter where
  | thread (q : DequeueReq)
  | dispenser (cluster : Nat)
  deriving DecidableEq, Repr

/-- A bounded request stalled at a home slice, and the step that takes it up again (R296); `out`: the slice holds 256 others, and it waits at
its requester. -/
structure Stalled where
  slice : Nat
  region : Nat
  q : BitVec 32
  pa : Nat
  self : Instr
  out : Bool := false
  deriving DecidableEq, Repr

/-! ### Scheduling -/

/-- An RCB's registration: the fields resolved at its launch (R328, R329). -/
structure RcbReg where
  launched : Bool := false
  priority : Nat := 0
  part : Nat := 0
  slotMask : Nat := 0
  coreMask : Nat := 0
  placement : BitVec 64 := 0
  budget : Nat := 0
  faultDomain : Nat := 0
  faultQueue : Nat := 0
  faultQueueValid : Bool := false
  entry : Word := 0
  frame : Word := 0
  args : List Word := []
  workQueue : Nat := 0
  workQueueValid : Bool := false
  join : Word := 0
  saveBase : Nat := 0
  saveAreas : Nat := 0
  existed : Bool := false
  budgetTold : Bool := false
  exhausted : Bool := false
  quietCycles : Nat := 0
  quietTold : Bool := false
  quietDue : Nat := 0            -- quiescent records that the device is about to write (R103)
  pendingUse : Nat := 0
  deriving DecidableEq, Repr

/-- A cluster's dispenser (R329, R334, R335). -/
structure Dispenser where
  regs : List Nat := []
  deficit : SMap (BitVec 40) := []     -- signed (R334)
  usedSince : SMap Nat := []
  visited : Nat := 0
  firstSeen : SMap Nat := []     -- queue ↦ cycle + 1 at which its head was first seen
  released : List Nat := []      -- queues whose affinity wait has run out
  taken : List (Nat × LineData) := []
  store : SMap Byte := []        -- its 64 KiB local memory, whose use the spec does not describe (R13)
  deriving DecidableEq, Repr

/-- Where a fault-queue record is held (R342): in a barge record, in an RCB's registration, or by the launch unit. -/
inductive FaultSrc where
  | barge (core e r : Nat)
  | rcb (id cause : Nat)
  | graph (id : Nat)
  deriving DecidableEq, Repr

/-- A held fault-queue record (R342, R343): its source, RCB, supervisor-queue words, the core that made it, its cycle. -/
structure HeldFault where
  src : FaultSrc
  rcb : Nat
  domain : Nat
  rcd : SqRec
  since : Nat
  deriving DecidableEq, Repr

/-- An entry thread that waits for its slot or a save area (R329). -/
structure EntryWait where
  core : Nat
  slot : Nat
  rcb : Nat
  deriving DecidableEq, Repr

/-- A replay of a task graph under way (R346). -/
structure Replay where
  slot : Nat
  nodes : Nat
  rcbBase : Nat
  join : Word
  succ : List (List Nat)
  pending : SMap Nat
  ended : List Nat
  live : List Nat                -- the nodes that are launched
  stopped : Bool
  graph : Nat
  deriving DecidableEq, Repr

/-! ### The S-die -/

/-- A key slot (R358): its use and key material. -/
structure KeySlot where
  occupied : Bool := false
  use : Nat := 0
  key : BitVec 512 := 0
  deriving DecidableEq, Repr

/-- A journal entry (R369). -/
structure JEntry where
  seq : Word
  kind : BitVec 8
  source : BitVec 8
  detail : BitVec 16
  time : BitVec 32
  p0 : Word
  p1 : Word
  deriving DecidableEq, Repr

/-- The port kinds of metered transfers (R369 kind 0x20). -/
inductive PortKind where
  | host | fabric | debug | barge
  deriving DecidableEq, Repr

/-- Where a metered transfer held by the weir continues (R366, R368). -/
inductive Exit where
  | hostRead (off len : Nat)
  | peer (port line : Nat)
  | debugRead (line : Nat)
  | barge (core e : Nat)
  deriving DecidableEq, Repr

/-- A transfer held for its region (R366, R368); `addr` is the address a barge's fault reports. -/
structure HeldEgress where
  kind : PortKind
  bytes : Nat
  pa : Nat
  addr : Nat
  since : Nat
  exit : Exit
  deriving DecidableEq, Repr

/-- A protected egress region at the weir (R365, R366, R368). -/
structure Weir where
  a : Word := 0
  b : Word := 0
  level : Nat := 0
  frac : Nat := 0                    -- what has been refilled beyond whole bytes, in bytes by second and unit of time
  refillAt : Nat := 0                -- the time up to which it has been refilled
  held : List HeldEgress := []
  passed : SMap (Nat × Nat) := []    -- port kind ↦ (bytes, first physical address) of this millisecond
  failed : Nat := 0
  failedAt : Nat := 0
  deriving DecidableEq, Repr

/-- The command ring (R374, R380). -/
structure Ring where
  base : Word := 0
  ctl : Word := 0
  tail : Nat := 0
  head : Nat := 0
  cplBase : Word := 0
  cplTail : Nat := 0
  irqctl : Word := 0
  e : Nat := 0
  session : Bool := false
  halted : Bool := false
  key : BitVec 256 := 0
  ide : BitVec 5 := 0       -- the IDE streams that the host has established: the link's and four selective ones (R379)
  hostClk : Nat := 0        -- the highest write stamp of a host write (R382, R413)
  bellClk : Nat := 0        -- the same as it stood at the last doorbell
  deriving DecidableEq, Repr

/-- The access journal unit (R369 to R371). -/
structure Journal where
  entries : SMap JEntry := []
  head : Nat := 0
  exportPt : Nat := 0
  lost : Nat := 0
  closed : Bool := false
  chain : BitVec 384 := 0
  since : Nat := 0
  firstMs : Nat := 0
  headers : List Nat := []
  deriving DecidableEq, Repr

/-- Answers that leave the package (R377 to R381, R384, R386, R388, R395, R399), and what homes ask of the owners beyond a port. -/
inductive OutMsg where
  | hostData (off : Nat) (data : ByteList)
  | hostUnsupported (off : Nat)
  | hostAbort (off : Nat)
  | hostPoisoned (off : Nat)
  | interrupt (vector : Nat)
  | debugWord (v : Word)
  | debugLine (line : Nat) (data : LineData) (side : Word)
  | debugError
  | debugStatus (ok : Bool)
  | watchReport (block kind cycle : Word)
  | fabric (port : Nat) (record : LineData)
  | peerData (port : Nat) (data : LineData) (side : Word)
  | peerError (port : Nat)
  | peerRound (port region : Nat) (round : BitVec 32)
  | windowData (off : Nat) (v : Word)
  | peerForward (port line : Nat) (kind : FwdKind)
  | mgmtWord (v : Word)
  deriving DecidableEq, Repr

/-- A grant of a peer's memory that a port's switch has delivered (R384, R385): its id, the block's import base and height, and the time + 1 at
which the switch fences this package from it, while a recall stands; 0: none does. -/
structure Grant where
  port : Nat
  id : Nat
  base : Nat
  height : Nat
  fenceAt : Nat := 0
  deriving DecidableEq, Repr

/-- The S-die (R13, R357 to R386). -/
structure Sdie where
  keys : SMap KeySlot := []
  erased : Bool := false
  weirs : SMap Weir := []
  journal : Journal := {}
  sensor : Word := Config.sensorReading
  senslim : Word := Config.factoryLimits
  ring : Ring := {}
  replays : List Replay := []
  dbgMode : Option Nat := none
  watchReports : List (Word × Word × Word) := []   -- block, kind + 4 requester, cycle (R395)
  fabricIn : List (Nat × LineData) := []           -- received messages that wait at their port (R384)
  grants : List Grant := []           -- what peers have granted, through each port's switch (R384, R385)
  peerStalled : List (Nat × Nat × Nat × BitVec 32) := []   -- peers' bounded reads that wait for a round: port, line, region, q (R299)
  dbgParked : SMap Nat := []          -- core ↦ context + 1 of the supervisor that a debug launch into slot 15 has parked (R389)
  dbgLaunched : SMap Nat := []        -- core ↦ context + 1 of the thread that a debug launch has bound to slot 15 (R389)
  boots : Nat := 0
  deriving DecidableEq, Repr

/-- An entry of the machine-check log (R402): the physical address, or 0; the source die; `cr.cycle` of core 0x00; and, in the entry of a core that
has stopped, the core + 1. -/
structure CheckEntry where
  addr : Word
  die : Nat
  cycle : Nat
  core : Nat
  deriving DecidableEq, Repr

/-- Bring-up, power and health (R398 to R403). -/
structure Platform where
  stage : Nat := 0
  error : Nat := 0
  links : BitVec 48 := 0
  failed : Bool := false
  requested : Nat := 0
  allowed : Nat := 0         -- the point that the power and thermal limits allow (R400)
  running : Nat := 0
  gating : Nat := 0
  unmet : Bool := false
  thermal : BitVec 12 := 0x3B6
  power : BitVec 12 := 0x960
  draw : BitVec 16 := 0      -- the power that the module draws, in watts (R400)
  overSince : Nat := 0       -- the time + 1 since which a limit has been exceeded, or since the last step down; 0: none is (R400)
  coolSince : Nat := 0       -- the time + 1 since which the recovery condition has held, or since the last step up; 0: it does not (R400)
  mclog : List CheckEntry := []
  wear : SMap Word := []     -- the nine dies' figures (R403)
  deriving DecidableEq, Repr

/-! ### The mesh -/

/-- Where a packet leaves a mesh (R348, R351, R356): at routers of the die, each of a mask of positions, to an M-die, or to the S-die, by
which it also reaches the other C-dies (R15). -/
inductive FlitDest where
  | routers (mask : BitVec 16)
  | mdie (m : Nat)
  | sdie
  deriving DecidableEq, Repr

/-- A flit (R348, R356): channel, partition, destination, header, the line with its sideband where the packet carries one, the messages it
delivers, by position of the die (16: beyond the mesh), and where it goes on in another die's mesh. -/
structure Flit where
  vc : Nat
  part : Option Nat
  dest : FlitDest
  header : Word := 0
  line : Option (LineData × Word) := none
  msgs : List (Nat × Instr)
  onward : Option (Nat × BitVec 16) := none
  deriving DecidableEq, Repr

/-- A router output's arbitration state (R353, R355). -/
structure MeshOut where
  cls : Nat := 0
  credit : Nat := 0
  turn : SMap Nat := []     -- class ↦ 6 input + channel of the head whose turn it is
  share : SMap Nat := []    -- class ↦ consecutive grants made in this turn
  age : SMap Nat := []      -- 6 input + channel ↦ ageing counter
  deriving DecidableEq, Repr

/-- All mesh state: FIFOs by ((16 die + position) * 6 + input) * 6 + channel, outputs by (16 die + position) * 6 + port. -/
structure Mesh where
  fifos : SMap (List Flit) := []
  outs : SMap MeshOut := []
  deriving DecidableEq, Repr

/-! ### The package -/

/-- The state of the package. -/
structure State where
  cycle : Nat := 0
  turn : Nat := 0
  tick : Nat := 0
  cur : ThreadRef := ⟨0, 0⟩
  woken : Option ThreadRef := none     -- the thread whose wait has just ended: the step completes its instruction
  agenda : List Instr := []
  due : List Instr := []               -- requests that homes have let go on, in the order they stood there (R305)
  out : List OutMsg := []
  timeUnits : Nat := 0
  nextTid : Nat := 1
  mem : Memory := []
  side : SMap Word := []
  hostMem : SMap Byte := []
  peerMem : SMap Byte := []
  bmm256 : Bool := false
  poison : List Nat := []
  cores : SMap Core := []
  micro : Micro := {}
  regions : SMap RegionRec := []       -- region id ↦ record (absent while disabled)
  sliceViews : SMap (BitVec 32) := []  -- 4096 slice + region
  clusterViews : SMap Nat := []        -- 131072 cluster + region: the L2 slice's view + 1, 0: none (R292)
  stalled : List Stalled := []
  peerRounds : SMap (BitVec 32) := []  -- 4096 (port + 1) + region: the last round known of a region in a peer's memory (R299)
  hubBuf : SMap (List Instr) := []     -- cluster ↦ messages whose target cannot accept them yet (R352)
  waiters : SMap (List QWaiter) := []  -- by queue
  rcbs : SMap RcbReg := []
  dispensers : SMap Dispenser := []
  entryWaits : List EntryWait := []
  endJoins : List (Nat × Word) := []   -- ended RCBs, and 2,048 for a graph, whose JOIN is retried (R337, R346)
  heldFaults : List HeldFault := []    -- in event order (R342)
  spilled : SMap Word := []            -- thread id ↦ save area of a spilled thread
  sdie : Sdie := {}
  platform : Platform := {}
  mesh : Mesh := {}
  deriving DecidableEq, Repr

/-- The value of a region record an unlisted region id reads as is absence; this is the placeholder of `SMap.get`. -/
def RegionRec.none : RegionRec := { base := 0, height := 0, counter := 0, subscribers := 0 }

/-- The reasons the machine as a whole can stop. -/
inductive Fault where
  /-- Raised by a step that names a unit the package does not contain (R13, R20): a core above 255, a context above 23, a
  slot above 15, an engine above 2. Safe: the hardware has no such step. -/
  | noSuchUnit
  deriving DecidableEq, Repr

/-- Why an instruction has no meaning in the model. -/
inductive Refusal where
  /-- Raised by an arm of `exec` whose instruction is not modelled yet. Safe. -/
  | notModelled (mnemonic : String)
  deriving DecidableEq, Repr

/-- What a step answers. -/
abbrev Result := Host.Outcome State Fault Refusal

/-- The error codes of a bring-up stage (R398). -/
def bootCodes (n : Nat) : List Nat :=
  if n = 1 then [1, 2] else if n = 2 then [3, 4, 5] else if n = 3 then [6] else if n = 4 then [1] else if n = 5 then [7] else []

/-- How stage `n` of boot `b` ends. -/
def bootOf (b n : Nat) : BootResult :=
  match Config.bootFault b n with
  | some (e, l) => if (bootCodes n).contains e then .failed e l else .done
  | none => .done

/-- The machine right after power-on reset: bring-up is about to take its first stage (R398), no context is resident, every
register, barrier, basin and table holds its reset value (R35, R89, R179, R188, R212, R226, R254 to R257, R399). -/
def State.reset : State := { agenda := [.bringUpStage (bootOf 0 1)] }

end Sys2Proof.Machine
end

