-- ==== Sys2Proof/Machine/Ops.lean ====
section
/-! DEFINITION. The named operations every meaning is written with: cores, contexts and registers, bytes, the agenda, the
supervisor queue, waits, retirement, taking a trap and entering and leaving the monitor. -/

namespace Sys2Proof.Machine

/-! ### Cores, contexts, registers -/

def State.core (s : State) (k : Nat) : Core := SMap.get {} s.cores k

def State.setCore (s : State) (k : Nat) (c : Core) : State := { s with cores := SMap.set {} s.cores k c }

def Core.ctx (c : Core) (i : Nat) : Context := SMap.get {} c.ctxs i

def Core.setCtx (c : Core) (i : Nat) (x : Context) : Core := { c with ctxs := SMap.set {} c.ctxs i x }

def State.ctxOf (s : State) (r : ThreadRef) : Context := (s.core r.core).ctx r.ctx

def State.setCtx (s : State) (r : ThreadRef) (x : Context) : State := s.setCore r.core ((s.core r.core).setCtx r.ctx x)

/-- The context of the executing instruction. -/
def State.me (s : State) : Context := s.ctxOf s.cur

def State.setMe (s : State) (x : Context) : State := s.setCtx s.cur x

/-- Change every context of every core; the function is given the core and the context's number. -/
def State.mapCtxs (s : State) (f : Nat → Nat → Context → Context) : State :=
  { s with cores := s.cores.map (fun (c : Nat × Core) => (c.1, { c.2 with ctxs := c.2.ctxs.map (fun (x : Nat × Context) => (x.1, f c.1 x.1 x.2)) })) }

/-- The core of the executing instruction. -/
def State.myCore (s : State) : Core := s.core s.cur.core

def State.setMyCore (s : State) (c : Core) : State := s.setCore s.cur.core c

/-- Read scalar register `i` (R89, R121, R136): s0 reads zero, s16 to s31 are the current window's. -/
def Context.readS (x : Context) (i : BitVec 5) : Word :=
  if i = 0 then 0
  else if i.toNat < 16 then SMap.get 0 x.sregs i.toNat
  else SMap.get 0 (x.wins.headD []) i.toNat

/-- Write scalar register `i` (R89, R121, R136): a write to s0 is discarded. -/
def Context.writeS (x : Context) (i : BitVec 5) (v : Word) : Context :=
  if i = 0 then x
  else if i.toNat < 16 then { x with sregs := SMap.set 0 x.sregs i.toNat v }
  else { x with wins := SMap.set 0 (x.wins.headD []) i.toNat v :: x.wins.tail }

def State.S (s : State) (i : BitVec 5) : Word := s.me.readS i

def State.setS (s : State) (i : BitVec 5) (v : Word) : State := s.setMe (s.me.writeS i v)

/-- Tile descriptor register `i` (R90). -/
def Context.readT (x : Context) (i : BitVec 4) : BitVec 128 := SMap.get 0 x.tiles i.toNat

def Context.writeT (x : Context) (i : BitVec 4) (v : BitVec 128) : Context := { x with tiles := SMap.set 0 x.tiles i.toNat v }

/-- Handle register `i` (R89): b0 reads as a handle whose valid bit is 0. -/
def Context.readB (x : Context) (i : BitVec 4) : BitVec 32 := if i = 0 then 0 else SMap.get 0 x.handles i.toNat

/-- A write to b0 is discarded (R89). -/
def Context.writeB (x : Context) (i : BitVec 4) (v : BitVec 32) : Context :=
  if i = 0 then x else { x with handles := SMap.set 0 x.handles i.toNat v }

def State.T (s : State) (i : BitVec 4) : BitVec 128 := s.me.readT i
def State.setT (s : State) (i : BitVec 4) (v : BitVec 128) : State := s.setMe (s.me.writeT i v)
def State.B (s : State) (i : BitVec 4) : BitVec 32 := s.me.readB i
def State.setB (s : State) (i : BitVec 4) (v : BitVec 32) : State := s.setMe (s.me.writeB i v)

/-- A 56-bit address of a word (R104). -/
def addr56 (x : Nat) : Word := BitVec.ofNat 64 (x % 2 ^ 56)

/-- The address of the word being issued: the pc stays at the chain's first word while its words are read (R116). -/
def Context.wordPc (x : Context) : Word := addr56 (x.pc.toNat + 4 * x.chain.len)

/-- The address of the word after the one being issued. After the last word of the address space it is 0 (R137; DESIGN CHOICE, log 79). -/
def Context.nextPc (x : Context) : Word := addr56 (x.pc.toNat + 4 * x.chain.len + 4)

/-! ### Levels, partitions, names -/

def Level.code : Level → Nat
  | .u => 0 | .s => 1 | .m => 2

/-- The partition of slot `i` of a core: `cr.slotpart` (R255); slot 15 belongs to none and reads as 0 (R338). -/
def Core.partOf (c : Core) (slot : Nat) : Nat := if slot = 15 then 0 else bitsOf c.slotpart (4 * slot + 3) (4 * slot)

/-- The global thread id of a context's slot (R19). -/
def threadId (core slot : Nat) : Nat := core % 256 * 16 + slot % 16

/-- The cluster of a core (R18). -/
def clusterOf (core : Nat) : Nat := core / 4 % 64

/-- A core the package contains (R13). -/
def coreExists (k : Nat) : Bool := decide (k < 256)

/-- A context name (R20). -/
def ctxExists (k i : Nat) : Bool := decide (k < 256) && decide (i < 24)

/-- The resident contexts of a core that hold a thread, by number. -/
def Core.resident (c : Core) : List (Nat × Context) := c.ctxs.filter (fun p => decide (p.2.st ≠ .free) && decide (p.1 < 24))

/-- The context bound to slot `i`, if any (R86). -/
def Core.boundTo (c : Core) (slot : Nat) : Option Nat :=
  (c.ctxs.find? (fun p => decide (p.2.st = .bound) && decide (p.2.slot = slot) && decide (p.1 < 24))).map (·.1)

/-- A slot is owed to a spilled context whose budget has been renewed (R336). -/
def Core.owed (c : Core) (slot : Nat) : Bool := c.budgetSpills.any (fun e => e.due && decide (e.slot = slot))

/-- The context that a new or filled thread takes: the spec says a free one, the model the lowest-numbered (R86, R87; DESIGN CHOICE,
log 51). -/
def Core.freeCtx (c : Core) : Option Nat := (List.range 24).find? (fun i => decide ((c.ctx i).st = .free))

/-! ### The agenda and the outside -/

def State.post (s : State) (l : List Instr) : State := { s with agenda := s.agenda ++ l }

def State.emit (s : State) (m : OutMsg) : State := { s with out := s.out ++ [m] }

/-- Whether a step in flight is already a wake of this context. -/
def State.postWake (s : State) (k i : Nat) : State := s.post [.wake k i]

/-! ### Trace (R396) -/

def Core.addTrace (c : Core) (r : TraceRec) : Core :=
  { c with trace := (c.trace ++ [r]).drop (c.trace.length + 1 - 256) }

/-- A trace record: the cycle, the pc with the slot in [63:56], the core with the kind in [15:8], and the event's data. -/
def State.traceRec (s : State) (k slot e : Nat) (pc data : Word) : TraceRec :=
  ⟨BitVec.ofNat 64 s.cycle, BitVec.ofNat 64 (pc.toNat % 2 ^ 56 + slot * 2 ^ 56), BitVec.ofNat 64 (k % 256 + e * 256), data⟩

/-- A core's `cr.tracectl` asks for events of kind `e` of `slot`. -/
def Core.traces (c : Core) (slot e : Nat) : Bool :=
  c.tracectl.getLsbD 0 && decide (1 ≤ e) && decide (e ≤ 8) && c.tracectl.getLsbD e && (decide (slot < 15) && c.tracectl.getLsbD (16 + slot))

/-- Record a trace event of kind `e` for `slot` at `pc`, if the core's `cr.tracectl` asks for it. -/
def State.traceAt (s : State) (k slot e : Nat) (pc data : Word) : State :=
  if (s.core k).traces slot e then s.setCore k ((s.core k).addTrace (s.traceRec k slot e pc data)) else s

/-- Record a trace event of the executing thread. -/
def State.traceMe (s : State) (e : Nat) (data : Word) : State := s.traceAt s.cur.core s.me.slot e s.me.pc data

/-! ### Machine-check log (R402) -/

def State.logMachineCheck (s : State) (pa : Word) (die core : Nat) : State :=
  let l := s.platform.mclog ++ [⟨pa, die, s.cycle, core⟩]
  { s with platform := { s.platform with mclog := l.drop (l.length - 16) } }

/-- The package figure of wear is the smallest of the nine dies' (R403). -/
def Platform.figure (p : Platform) : Word := ((List.range 9).map (SMap.get 0 p.wear)).foldl (fun a b => if b.ult a then b else a) (SMap.get 0 p.wear 0)

/-! ### The supervisor queue (R233, R234) -/

/-- Word 0 of a record (R234). -/
def sqWord0 (cause kind ctx barge : Nat) (isBarge valid : Bool) (thread : Nat) : Word :=
  BitVec.ofNat 64 (cause % 256 * 2 ^ 56 + kind % 16 * 2 ^ 52 + ctx % 32 * 2 ^ 47 + barge % 2 ^ 13 * 2 ^ 34
    + (if isBarge then 2 ^ 33 else 0) + (if valid then 2 ^ 32 else 0) + thread % 2 ^ 12 * 2 ^ 20)

/-- Wake the supervisor thread if it waits for a record (R242): WAITW at slot 15 is issued again. -/
def wakeSupervisor (k : Nat) (s : State) : State :=
  match (s.core k).boundTo 15 with
  | none => s
  | some i =>
    let x := (s.core k).ctx i
    if decide (bitsOf x.wait 63 60 = 6) && decide (x.pend = .reissue) then s.postWake k i else s

/-- A record enters the supervisor queue of core `k`, or is held at its source while the queue is full (R233). -/
def pushSq (s : State) (k : Nat) (src : HeldSrc) (r : SqRec) : State :=
  let c := s.core k
  if decide (c.sq.length < 64) && c.heldSq.isEmpty then wakeSupervisor k (s.setCore k { c with sq := c.sq ++ [r] })
  else
    match src with
    | .machineCheck =>
      if c.heldSq.any (fun p => decide (p.1 = .machineCheck)) then
        s.setCore k { c with heldSq := c.heldSq.map (fun p => if p.1 = .machineCheck then (p.1, { p.2 with w3 := p.2.w3 + 1 }) else p) }
      else s.setCore k { c with heldSq := c.heldSq ++ [(src, r)] }
    | .sensor =>
      if c.heldSq.any (fun p => decide (p.1 = .sensor)) then s
      else s.setCore k { c with heldSq := c.heldSq ++ [(src, r)] }
    | _ => s.setCore k { c with heldSq := c.heldSq ++ [(src, r)] }

/-- Pop the head record; held records enter in event order (R233, R255). -/
def popSq (s : State) (k : Nat) : State :=
  let c := s.core k
  match c.sq with
  | [] => s
  | _ :: rest =>
    let n := 64 - rest.length
    wakeSupervisor k (s.setCore k { c with sq := rest ++ (c.heldSq.take n).map (·.2), heldSq := c.heldSq.drop n })

/-! ### Clocks of threads (R300, R302) -/

def clockKey (r : ThreadRef) : Nat := 32 * r.core + r.ctx

def State.clkOf (s : State) (r : ThreadRef) : Nat := max (SMap.get 0 s.micro.clkCtx (clockKey r)) s.micro.minClk

def State.setClk (s : State) (r : ThreadRef) (c : Nat) : State :=
  { s with micro := { s.micro with clkCtx := SMap.set 0 s.micro.clkCtx (clockKey r) c } }

/-! ### Waits (R100, R101) -/

/-- A wait word: kind in [63:60], object in [55:0]. -/
def waitWord (kind obj : Nat) : Word := BitVec.ofNat 64 (kind % 16 * 2 ^ 60 + obj % 2 ^ 56)

def Context.waitKind (x : Context) : Nat := bitsOf x.wait 63 60
def Context.waitObj (x : Context) : Nat := bitsOf x.wait 55 0

/-- The executing thread leaves the rotation (R83, R100), or goes on with the wait it is in: a wait whose condition has been tested again
is not a new one (R190). -/
def leave (s : State) (kind obj : Nat) (p : Pend) : State :=
  if s.me.wait = waitWord kind obj then s.setMe { s.me with pend := p }
  else (s.setMe { s.me with wait := waitWord kind obj, pend := p, waitSince := s.cycle }).traceMe 8 (waitWord kind obj)

/-- The waits at which a re-issued instruction tests its condition afresh: every resident context of core `k` that waits
with `kind` on `obj` is woken. -/
def wakeAll (s : State) (k kind obj : Nat) : State :=
  s.post (((s.core k).ctxs.filter (fun p => decide (p.2.waitKind = kind) && decide (p.2.waitObj = obj)
    && decide (p.2.pend = .reissue))).map (fun p => .wake k p.1))

/-- An access's reply is on its way: the thread waits with kind 1 and MEMORY_REPLY will retire the instruction. -/
def awaitReply (s : State) (obj : Nat) : State := (leave s 1 obj .reply).post [.memoryReply s.cur.core s.cur.ctx]

/-! ### Dispensers' queues (R331) -/

/-- The queues a dispenser takes records from: the private queues of its four cores, then the work queues of the RCBs
registered with it. -/
def State.queuesOf (s : State) (cl : Nat) : List Nat :=
  [0xF00 + 4 * cl, 0xF00 + 4 * cl + 1, 0xF00 + 4 * cl + 2, 0xF00 + 4 * cl + 3]
    ++ ((SMap.get {} s.dispensers cl).regs.filterMap (fun r =>
          let g := SMap.get {} s.rcbs r
          if g.workQueueValid then some g.workQueue else none))

/-- A dispenser has gained a target: it asks for records of its queues (R161, R331). -/
def State.poll (s : State) (cl : Nat) : State := s.post ((s.queuesOf cl).map (fun q => .dispenserRequest cl q))

/-- Entry threads of a core that wait for a slot try again (R329). -/
def State.pollEntries (s : State) (core : Nat) : State :=
  s.post ((s.entryWaits.filter (fun e => decide (e.core = core))).map (fun e => .entryThreadCreate e.core e.slot e.rcb))

/-- A vacant slot of a core is open to entry threads and bindings. -/
def State.slotVacant (s : State) (core : Nat) : State := (s.poll (clusterOf core)).pollEntries core

/-- A parked context is bound to its home slot; it issues where its pc stands, and a wait cut short is tested again (R240). One whose stop is
pending is bound stopped (R390). -/
def bindHome (s : State) (r : ThreadRef) : State :=
  let x := s.ctxOf r
  s.setCtx r { x with
    st := .bound, wait := 0, pend := .none, chain := {}, budgetParked := false, budgetDue := false, parkReq := false, budgetStop := false
    stopped := x.stopped || x.stopReq, stopReq := false }

/-- A slot of a core has become vacant: a RESUME that waits for it binds its context (R240); else a context whose budget has
been renewed takes it (R336); else it is open to entry threads and bindings. -/
def vacate (s : State) (core slot : Nat) : State :=
  let c := s.core core
  match c.resuming.find? (fun w => decide (w.slot = slot)) with
  | some w =>
    let s := s.setCore core { c with resuming := c.resuming.filter (fun v => decide (v.slot ≠ slot)) }
    let s := s.post [.memoryReply core w.issuer]
    if (c.ctx w.ctx).st = .parked then bindHome s ⟨core, w.ctx⟩ else s.slotVacant core
  | none =>
    match c.ctxs.find? (fun p => decide (p.2.st = .parked) && p.2.budgetDue && decide (p.2.slot = slot)) with
    | some p => bindHome s ⟨core, p.1⟩
    | none => s.slotVacant core

/-- A stopped thread is released (R390, R392): it issues at its next turn, past a claimed BKPT. -/
def releaseCtx (x : Context) : Context :=
  { x with stopped := false, stopReq := false, dbgStep := false, wait := if x.stopped then 0 else x.wait,
           pc := addr56 (x.pc.toNat + 4 * x.skipWords), skipWords := 0 }

/-- Slot 15 is empty again after a debug launch and its debugger has detached: the supervisor context that was stopped there
is bound to it, its stop released (R389). -/
def restoreSupervisor (s : State) (core : Nat) : State :=
  match s.sdie.dbgMode, SMap.get 0 s.sdie.dbgParked core with
  | none, i + 1 =>
    let s := { s with sdie := { s.sdie with dbgParked := SMap.del s.sdie.dbgParked core, dbgLaunched := SMap.set 0 s.sdie.dbgLaunched core 0 } }
    let r : ThreadRef := ⟨core, i⟩
    bindHome (s.setCtx r (releaseCtx (s.ctxOf r))) r
  | _, _ => s

/-! ### Parking, stopping, traps -/

/-- Messages of a thread whose kind 3 or kind 5 wait is cut short, and the answer to one, are dropped with it, wherever they stand (R187, R241,
R390). -/
def dropMessages (who : ThreadRef) (s : State) : State :=
  let keep : Instr → Bool := fun
    | .remoteBarrierOperation m => decide (m.who ≠ who)
    | .homeDequeue q => decide (q.who ≠ who)
    | .memoryReply k i => decide ((⟨k, i⟩ : ThreadRef) ≠ who)
    | _ => true
  { s with
    agenda := s.agenda.filter keep
    due := s.due.filter keep
    mesh := { s.mesh with fifos := s.mesh.fifos.map (fun p => (p.1, p.2.map (fun f => { f with msgs := f.msgs.filter (fun m => keep m.2) }))) }
    hubBuf := s.hubBuf.map (fun p => (p.1, p.2.filter keep))
    micro := { s.micro with
      home := s.micro.home.map (fun p => (p.1, { p.2 with waiting := p.2.waiting.filter keep }))
      retry := s.micro.retry.filter (fun p => keep p.2) }
    cores := s.cores.map (fun p => (p.1, { p.2 with bwaiters := p.2.bwaiters.filter (fun m => decide (m.who ≠ who)) }))
    waiters := (s.waiters.map (fun p => (p.1, p.2.filter (fun w => match w with
      | .thread q => decide (q.who ≠ who)
      | .dispenser _ => true)))).filter (fun p => !p.2.isEmpty) }

/-- A context is parked, or its thread has ended: the PARKs that wait for it retire, and their issuers follow all that the thread has done
(R241, R286; DEDUCED, log 72). -/
def endPark (s : State) (r : ThreadRef) : State :=
  let c := s.core r.core
  let mine := (c.parking.filter (fun p => decide (p.1 = r.ctx))).map (fun p => (⟨r.core, p.2⟩ : ThreadRef))
  let s := s.setCore r.core { c with parking := c.parking.filter (fun p => decide (p.1 ≠ r.ctx)) }
  mine.foldl (fun s o => (s.setClk o (max (s.clkOf o) (s.clkOf r))).post [.memoryReply o.core o.ctx]) s

/-- Park a context (R86): its slot becomes vacant, a wait cut short issues again later (R241), a chain under way restarts
at its first word (R116). The wait word stays in the image. -/
def parkCtx (s : State) (r : ThreadRef) : State :=
  let x := s.ctxOf r
  let s := s.setCtx r { x with
    st := .parked, parkedAt := s.cycle, parkReq := false, chain := {}, pend := .none, answer := none, miss := none
    budgetStop := false, budgetParked := x.budgetStop && !x.parkReq, budgetDue := false }
  let s := if x.pend = .message ∨ x.pend = .reply then dropMessages r s else s
  let s := endPark s r
  if x.st = .bound ∧ x.slot < 15 then vacate s r.core x.slot
  else if x.st = .bound then restoreSupervisor s r.core
  else s

/-- The context stops at its boundary: it stays bound (R390). -/
def stopCtx (s : State) (r : ThreadRef) : State :=
  let x := s.ctxOf r
  let s1 := s.setCtx r { x with stopped := true, stopReq := false, dbgStep := false, chain := {}, pend := .none, answer := none, miss := none }
  let s1 := if x.pend = .message ∨ x.pend = .reply then dropMessages r s1 else s1
  s1.traceAt r.core x.slot 1 x.pc 0x100

/-- The record of a thread event (R234). -/
def threadRec (s : State) (cause kind : Nat) (tval extra : Word) : SqRec :=
  let x := s.me
  ⟨sqWord0 cause kind s.cur.ctx 0 false true (threadId s.cur.core x.slot), addr56 x.pc.toNat, tval, extra⟩

/-- A trap of the supervisor thread enters the monitor (R236). -/
def enterMonitor (s : State) (resume reason detail : Word) : State :=
  let c := s.myCore
  let x := c.ctx s.cur.ctx
  s.setMyCore ({ c with mresume := resume, mreason := reason, mdetail := detail }.setCtx s.cur.ctx
    { x with prior := 1, level := .m, pc := c.mentry, chain := {}, wait := 0, pend := .none })

/-- A trap at level M: every slot of the core stops issuing, its engines accept no more (R236), and the core reports
machine check through the management interface, naming itself (R402). -/
def stopCore (s : State) : State :=
  (s.setMyCore { s.myCore with dead := true }).logMachineCheck 0 (s.cur.core / 64) (s.cur.core + 1)

/-- TAKING A TRAP, the one shared operation (R232, R236). `extra` is word 3 of the record. -/
def takeTrap (s : State) (cause : Nat) (tval extra : Word) : State :=
  let x := s.me
  let s := s.traceMe 1 (BitVec.ofNat 64 cause)
  match x.level with
  | .u =>
    let r := threadRec s cause 1 tval extra
    let s := s.setMe { s.me with tcause := BitVec.ofNat 64 cause, tval := tval, tpc := addr56 x.pc.toNat, wait := 0, budgetStop := false }
    pushSq (parkCtx s s.cur) s.cur.core (.thread s.cur.ctx) r
  | .s => enterMonitor s (addr56 x.pc.toNat) (BitVec.ofNat 64 cause) tval
  | .m => stopCore s

/-- The word being issued, as a tval or as word 3 of a record. -/
def State.irWord (s : State) : Word := s.me.ir.setWidth 64

/-- Trap of the executing instruction (R112): the instruction does not retire and the pc stays at its chain's first word. -/
def trap (s : State) (cause : Nat) (tval : Word) : State := takeTrap s cause tval s.irWord

/-- RETURNING FROM THE MONITOR (R239): level and prior are restored and the pc is the resume address. -/
def leaveMonitor (s : State) : State :=
  let c := s.myCore
  let x := c.ctx s.cur.ctx
  let lv := if x.prior = 1 then Level.s else if x.prior = 2 then Level.m else Level.u
  s.setMyCore (c.setCtx s.cur.ctx { x with level := lv, prior := 0, pc := c.mresume, chain := {} })

/-- TRAP, SCALL (kinds 2 and 3) and PARK (kind 4): the instruction has retired, the thread is parked and its record
written (R232, R238, R241). A debug step ends here: its stop stays pending (R390). `tpc` is the trap pc, `traps` whether the thread's trap registers are written. -/
def parkWithRecord (s : State) (kind : Nat) (tval : Word) (tpc : Word) (traps : Bool) : State :=
  let x := s.me
  let s := if traps then s.traceMe 1 0 else s
  let r : SqRec := ⟨sqWord0 0 kind s.cur.ctx 0 false true (threadId s.cur.core x.slot), tpc, tval, 0⟩
  let s := if traps then s.setMe { s.me with tcause := 0, tval := tval, tpc := tpc } else s
  let s := s.setMe { s.me with budgetStop := false, dbgStep := false, stopReq := x.stopReq || x.dbgStep }
  pushSq (parkCtx s s.cur) s.cur.core (.thread s.cur.ctx) r

/-! ### Retirement -/

/-- A park or a pre-emption is pending (R241, R339). -/
def Context.parkDue (x : Context) : Bool := x.parkReq || x.budgetStop

/-- A stop is due at the boundary at which a thread has trapped: it stops there, or, parked by its trap, keeps the stop pending (R390). -/
def stopTrapped (s : State) (due : Bool) : State :=
  let x := s.me
  if !due then s
  else if x.st = .bound then stopCtx s s.cur
  else s.setMe { x with dbgStep := false, stopReq := true }

/-- What happens at a chain boundary once a chain, or a repeat of it, has retired and the pc stands at the next word:
a watch trap (R395), or else a single-step trap (R253: a chain that traps for another reason reports only that), a pending park (R241, R339), a pending stop or the end of a debug step
(R390). -/
def boundary (s : State) : State :=
  let x := s.me
  if x.st ≠ .bound then s
  else match x.watchHit with
    | some b => stopTrapped (takeTrap (s.setMe { x with watchHit := none }) 0x21 b 0) (x.dbgStep || x.stopReq)
    | none =>
      if x.step then stopTrapped (takeTrap s 0x22 (addr56 x.pc.toNat) 0) (x.dbgStep || x.stopReq)
      else if x.dbgStep || x.stopReq then
        let s := stopCtx s s.cur
        if x.parkDue then parkCtx s s.cur else s
      else if x.parkDue then parkCtx s s.cur else s

/-- The bound word has retired (R104, R116, R118): the repeat count falls, and while repeats remain the pc stays at the
chain's first word; otherwise the pc advances past the chain. -/
def advance (x : Context) : Context :=
  let x := { x with wait := 0, pend := .none }
  match x.chain.rep with
  | some _ =>
    let n := x.rcnt - 1
    if n = 0 then { x with rcnt := 0, pc := x.nextPc, chain := {} } else { x with rcnt := n }
  | none => { x with pc := x.nextPc, chain := {} }

/-- Retire the executing instruction. -/
def retire (s : State) : State := boundary (s.setMe (advance s.me))

/-- Retire a control transfer to `target` (R113): no prefix binds to one (R120). -/
def retireTo (s : State) (target : Word) : State :=
  boundary (s.setMe { s.me with pc := target, chain := {}, wait := 0, pend := .none })

/-- Write S[d] and retire. -/
def writeRetire (s : State) (d : BitVec 5) (v : Word) : State := retire (s.setS d v)

/-- Check a control-transfer target (R113): the failing cause, if any. -/
def targetFault (t : Word) : Option Nat :=
  if t.toNat ≥ 2 ^ 56 then some 0x0D else if t.toNat % 4 ≠ 0 then some 0x03 else none

/-- Run `f` at a state whose executing context is `r`, and restore the executing context. -/
def asThread (s : State) (r : ThreadRef) (f : State → State) : State :=
  { f { s with cur := r } with cur := s.cur }

/-- A reply or acknowledgement retires the waiting instruction of `r`, and writes what it brings (R83, R187): its thread is ready at its next turn on or
after four cycles later (R101). -/
def reply (s : State) (r : ThreadRef) : State :=
  asThread s r (fun s =>
    let s := match s.me.answer with
      | some (d, v) => s.setS d v
      | none => s
    let x := { s.me with readyAt := s.cycle + 4, lastWait := s.me.waitKind, answer := none, fflags := s.me.fflags ||| s.me.lateFlags, lateFlags := 0 }
    if decide (x.pend = Pend.landed) then boundary (s.setMe { x with wait := 0, pend := .none }) else retire (s.setMe x))

/-- Check 4 of R112: the instruction is reserved to level `lv` or above. -/
def atLeast (lv : Level) (s : State) (f : State → State) : State :=
  if s.me.level.code < lv.code then trap s 0x04 s.irWord else f s

end Sys2Proof.Machine
end

