-- ==== Sys2Proof/Machine/Access.lean ====
section
/-! DEFINITION. Memory as the parties of the package reach it: bytes and lines at a location, homes, the translation walk
and what keeps translations, the checks of an access, logical time and cached copies, loads and stores. -/

namespace Sys2Proof.Machine

/-! ### Bytes (R5) -/

/-- Little-endian value of a list of bytes. -/
def bytesToNat : ByteList → Nat
  | [] => 0
  | b :: t => b.toNat + 256 * bytesToNat t

/-- The low `n` bytes of `x`, lowest first. -/
def natToBytes : Nat → Nat → ByteList
  | 0, _ => []
  | n + 1, x => BitVec.ofNat 8 x :: natToBytes n (x / 256)

def Memory.readBytes (m : Memory) (a : Nat) : Nat → ByteList
  | 0 => []
  | n + 1 => m.read a :: Memory.readBytes m (a + 1) n

def Memory.writeBytes (m : Memory) (a : Nat) : ByteList → Memory
  | [] => m
  | b :: t => Memory.writeBytes (m.write a b) (a + 1) t

/-- Bytes of a store outside the device's own memory: every written byte is listed. -/
def putBytes (m : SMap Byte) (a : Nat) : ByteList → SMap Byte
  | [] => m
  | b :: t => putBytes (SMap.put m a b) (a + 1) t

/-- Bytes of a memory whose unlisted bytes are free values. -/
def freeBytes (f : Nat → Byte) (m : SMap Byte) (a : Nat) : Nat → ByteList
  | 0 => []
  | n + 1 => SMap.get (f a) m a :: freeBytes f m (a + 1) n

/-! ### Locations -/

/-- Main-memory capacity in bytes (R16). -/
def State.capacity (s : State) : Nat := if s.bmm256 then 12 * 2 ^ 40 else 6 * 2 ^ 40

/-- The local-store window of core `k` (R47). -/
def lsBase (k : Nat) : Nat := 0x00F0000000000000 + k % 256 * 0x100000

/-- Place of a peer's granted byte in `peerMem`. -/
def peerKey (port frame : Nat) : Nat := port * 2 ^ 48 + frame

/-- Place of the sideband of a peer's granted line in `peerMem`, beyond every byte's. -/
def peerSideKey (port frame : Nat) : Nat := 2 ^ 60 + peerKey port frame / 64 * 8

end Sys2Proof.Machine

namespace Sys2Proof

def Loc.add : Loc → Nat → Loc
  | .main pa, o => .main (pa + o)
  | .ls a, o => .ls (a + o)
  | .host b, o => .host (b + o)
  | .void, _ => .void
  | .foreign p f, o => .foreign p (f + o)

/-- The number of the line a location lies in, distinct for every line of every kind of memory. -/
def Loc.line : Loc → Nat
  | .main pa => pa / 64
  | .ls a => a / 64
  | .host b => 2 ^ 60 + b / 64
  | .void => 2 ^ 62
  | .foreign p f => 2 ^ 61 + (p * 2 ^ 48 + f) / 64

/-- The location of the start of the line. -/
def Loc.lineBase : Loc → Loc
  | .main pa => .main (pa / 64 * 64)
  | .ls a => .ls (a / 64 * 64)
  | .host b => .host (b / 64 * 64)
  | .void => .void
  | .foreign p f => .foreign p (f / 64 * 64)

def Loc.isMain : Loc → Bool
  | .main _ => true
  | _ => false

def Loc.isLs : Loc → Bool
  | .ls _ => true
  | _ => false

/-- The location of the line with a number (`Loc.line`). -/
def lineLoc (line : Nat) : Loc :=
  if line < 2 ^ 60 then .main (64 * line)
  else if line < 2 ^ 61 then .host (64 * (line - 2 ^ 60))
  else .foreign ((line - 2 ^ 61) / 2 ^ 42) (64 * ((line - 2 ^ 61) % 2 ^ 42))

/-- Where a location stands among what caches hold, by bytes: main memory, and the memory that peers have granted (R303, R386). The line of
a place is the location's. -/
def Loc.place : Loc → Option Nat
  | .main pa => some pa
  | .foreign p f => some (2 ^ 67 + p * 2 ^ 48 + f)
  | _ => none

/-- A line of memory that a peer has granted (R386). -/
def foreignLine (line : Nat) : Bool := decide (2 ^ 61 ≤ line)

/-- Byte within the line. -/
def Loc.off : Loc → Nat
  | .main pa => pa % 64
  | .ls a => a % 64
  | .host b => b % 64
  | .void => 0
  | .foreign _ f => f % 64

end Sys2Proof

namespace Sys2Proof.Machine

/-- The `n` bytes at a location as they stand in the global order. -/
def State.bytesAt (s : State) (l : Loc) (n : Nat) : ByteList :=
  match l with
  | .main pa => s.mem.readBytes pa n
  | .ls a => s.mem.readBytes a n
  | .host b => freeBytes Config.hostByte s.hostMem b n
  | .void => List.replicate n 0
  | .foreign p f => freeBytes Config.peerByte s.peerMem (peerKey p f) n

/-- The sideband of the line at a location (R34, R45, R50). -/
def State.sideAt (s : State) (l : Loc) : Word :=
  match l with
  | .main pa => SMap.get 0 s.side (pa / 64)
  | .ls a => SMap.get 0 s.side (a / 64)
  | .host _ => 0
  | .void => 0x8000
  | .foreign p f => BitVec.ofNat 64 (bytesToNat (freeBytes Config.peerByte s.peerMem (peerSideKey p f) 8))

/-- The line at a location: data and sideband together (R34). -/
def State.lineAt (s : State) (l : Loc) : LineData × Word :=
  (BitVec.ofNat 512 (bytesToNat (s.bytesAt l.lineBase 64)), s.sideAt l)

/-- Write bytes at a location; a void location takes nothing. -/
def State.writeAt (s : State) (l : Loc) (bs : ByteList) : State :=
  match l with
  | .main pa => { s with mem := s.mem.writeBytes pa bs }
  | .ls a => { s with mem := s.mem.writeBytes a bs }
  | .host b => { s with hostMem := putBytes s.hostMem b bs }
  | .void => s
  | .foreign p f => { s with peerMem := putBytes s.peerMem (peerKey p f) bs }

/-- Write the sideband of a line; host memory has none (R50). -/
def State.writeSide (s : State) (l : Loc) (v : Word) : State :=
  match l with
  | .main pa => { s with side := SMap.set 0 s.side (pa / 64) v }
  | .ls a => { s with side := SMap.set 0 s.side (a / 64) v }
  | .host _ => s
  | .void => s
  | .foreign p f => { s with peerMem := putBytes s.peerMem (peerSideKey p f) (natToBytes 8 v.toNat) }

/-- Whether a line is delivered (R36, R372, R402). -/
def State.delivered (s : State) (l : Loc) : Bool :=
  match l with
  | .main pa => !s.sdie.erased && !s.poison.contains (pa / 64)
  | _ => true

/-! ### Homes (R322, R323) -/

/-- The exclusive OR of the eight 5-bit groups of a granule number (R322). -/
def defaultHome (g : Nat) : Nat :=
  (List.range 8).foldl (fun h i => h ^^^ (g / 32 ^ i % 32)) 0

def Micro.homeOf (m : Micro) (pa : Nat) : Nat :=
  match SMap.get 0 m.homeMap (pa / 4096) with
  | 0 => defaultHome (pa / 4096)
  | h + 1 => h

/-! ### Cached copies and homes: what is kept of a line (R300 to R309) -/

def Micro.copyAt (m : Micro) (core line : Nat) : Option Copy :=
  ((SMap.get [] m.l1d core).find? (fun p => decide (p.1 = line))).map (·.2)

def Micro.setCopy (m : Micro) (core line : Nat) (c : Copy) : Micro :=
  { m with l1d := SMap.set [] m.l1d core (SMap.put (SMap.get [] m.l1d core) line c) }

def Micro.dropCopy (m : Micro) (core line : Nat) : Micro :=
  { m with l1d := SMap.set [] m.l1d core (SMap.del (SMap.get [] m.l1d core) line) }

/-- A copy that has become too old for its cluster is removed: a V copy silently; what the request of another is still to bring is not kept, and
an upgrade no longer has the line's data (R294, R303). -/
def Micro.dropV (m : Micro) (core line : Nat) : Micro :=
  match m.copyAt core line with
  | some c =>
    match c.st with
    | .v => m.dropCopy core line
    | .iv => m.setCopy core line { c with left := true, leftL2 := true }
    | .vr => m.setCopy core line { c with left := true, leftL2 := true }
    | .vx => m.setCopy core line { c with st := .ix, left := true, leftL2 := true }
    | _ => m
  | none => m

def Micro.l2At (m : Micro) (cl line : Nat) : Option Copy :=
  ((SMap.get [] m.l2 cl).find? (fun p => decide (p.1 = line))).map (·.2)

def Micro.dropL2 (m : Micro) (cl line : Nat) : Micro :=
  { m with l2 := SMap.set [] m.l2 cl (SMap.del (SMap.get [] m.l2 cl) line) }

def Micro.homeLine (m : Micro) (line : Nat) : HomeLine := SMap.get {} m.home line

def Micro.setHome (m : Micro) (line : Nat) (h : HomeLine) : Micro := { m with home := SMap.set {} m.home line h }

/-- The image of an owned copy: the newest value, under the copy's stamps. -/
def Copy.imageOf (c : Copy) (flat : LineData × Word) : Stamped := { c.img with data := flat.1, side := flat.2 }

/-- A stable owner gives its line up for an access of the device's own bookkeeping: FWD and FDATA within one step (R305, DEDUCED,
log 14), after which it keeps a V copy only for a read (R303); a line in a transient state is left to its messages. -/
def Micro.takeBack (m : Micro) (flat : LineData × Word) (line : Nat) (rd : Bool) : Micro :=
  let h := m.homeLine line
  match h.st, m.copyAt h.owner line with
  | .o, some c =>
    if c.st = .x then
      (if rd then m.setCopy h.owner line { c with st := .v, img := c.imageOf flat, dirty := false } else m.dropCopy h.owner line).setHome line
        { h with st := .c, wts := max h.wts c.img.wts, rts := max h.rts c.img.rts }
    else m
  | _, _ => m

/-- A device's choice among `n` (R303, R315, R325). -/
def victimOf (m : Micro) (n : Nat) : Nat := Config.victim m.tick % n

/-! ### Residency classes (R325) -/

/-- The class of a line filled at a place: that of its handle, else that of its leaf. -/
def Micro.classAt (m : Micro) (place pa leaf : Nat) : Nat :=
  match (SMap.get [] m.handles place).find? (fun h => decide (pa / 4 ^ h.height = h.base / 4 ^ h.height)) with
  | some h => h.cls
  | none => leaf

/-- The class under which a fill is kept where `n` of the `cap` lines are of class 7: beyond half of them it is class 6. -/
def keptClass (cls n cap : Nat) : Nat := if cls = 7 ∧ cap ≤ 2 * n then 6 else cls

/-- The victim of a full slice: a line of the lowest class present; which of them, the device chooses. -/
def classVictim (m : Micro) (l : List (Nat × Nat)) : Option Nat :=
  let low := l.foldl (fun v p => min v p.2) 8
  let c := (l.filter (fun p => decide (p.2 = low))).map (·.1)
  (c.drop (victimOf m c.length)).head?

/-- A copy enters an L2 slice of 16 MiB (R13, R325). -/
def Micro.setL2 (m : Micro) (cl line : Nat) (c : Copy) : Micro :=
  let l := SMap.get [] m.l2 cl
  let c := { c with cls := keptClass (m.classAt (32 + cl) (64 * line) c.cls) (l.filter (fun p => decide (p.2.cls = 7))).length 262144 }
  let m := { m with l2 := SMap.set [] m.l2 cl (SMap.put l line c) }
  if l.length < 262144 ∨ l.any (fun p => decide (p.1 = line)) then m
  else match classVictim m (l.map (fun p => (p.1, p.2.cls))) with
    | some v => { m with tick := m.tick + 1 }.dropL2 cl v
    | none => m

/-- A line enters its LLC slice of 32 MiB (R13, R325). -/
def Micro.llcFill (m : Micro) (line leaf : Nat) : Micro :=
  let sl := m.homeOf (64 * line)
  let l := (SMap.get [] m.llc sl).filter (fun p => decide (p.1 ≠ line))
  let cls := keptClass (m.classAt sl (64 * line) leaf) (l.filter (fun p => decide (p.2 = 7))).length 524288
  let keep (l : List (Nat × Nat)) : Micro := { m with tick := m.tick + 1, llc := SMap.set [] m.llc sl (l ++ [(line, cls)]) }
  if l.length < 524288 then keep l
  else match classVictim m l with
    | some v => keep (l.filter (fun p => decide (p.1 ≠ v)))
    | none => keep l

/-- The level that answers at the home: the LLC slice, or the memory behind it (R396). -/
def Micro.homeLevel (m : Micro) (line : Nat) : Nat := if (SMap.get [] m.llc (m.homeOf (64 * line))).any (fun p => decide (p.1 = line)) then 3 else 4

/-! ### The translation directory (R316, R317) -/

/-- Directory entries of a slice that are in use. -/
def Micro.dirOf (m : Micro) (slice : Nat) : List Nat := m.dirOrder.filter (fun l => decide (m.homeOf (64 * l) = slice))

/-- Whether a core still holds something derived from a page-table line. -/
def Micro.derives (m : Micro) (core line : Nat) : Bool :=
  (SMap.get [] m.wcache core).any (fun p => decide (p.1 = line))
    || (SMap.get [] m.tlb core).any (fun e => e.lines.any (fun p => decide (p.1 = line)))
    || (SMap.get [] m.ctlb (clusterOf core)).any (fun e => decide (e.core = core) && e.lines.any (fun p => decide (p.1 = line)))

/-- The notices of R318 for lines of which a core has just dropped the last derived entry. -/
def Micro.notices (m : Micro) (core : Nat) (lines : List (Nat × Nat)) : List Instr :=
  (lines.filter (fun p => !m.derives core p.1)).map (fun p => .evictionNotice core p.1 p.2)

/-- Everything a core derived from a page-table line is removed (R319), with the notices for every line of which that was the last
(R315, R318). -/
def Micro.dropDerived (m : Micro) (core line : Nat) : Micro × List Instr :=
  let uses : TlbEntry → Bool := fun e => e.lines.any (fun p => decide (p.1 = line))
  let mine : TlbEntry → Bool := fun e => uses e && decide (e.core = core)
  let tlb := SMap.get [] m.tlb core
  let wc := SMap.get [] m.wcache core
  let ct := SMap.get [] m.ctlb (clusterOf core)
  let gone := (tlb.filter uses ++ ct.filter mine).flatMap (·.lines) ++ (wc.filter (fun p => decide (p.1 = line))).map (fun p => (p.1, p.2.1))
  let m := { m with
    tlb := SMap.set [] m.tlb core (tlb.filter (fun e => !uses e))
    wcache := SMap.set [] m.wcache core (wc.filter (fun p => decide (p.1 ≠ line)))
    ctlb := SMap.set [] m.ctlb (clusterOf core) (ct.filter (fun e => !mine e)) }
  (m, m.notices core gone.eraseDups)

/-- Several cores drop what they derived from a line. -/
def Micro.dropDerivedAll (m : Micro) (cores : List Nat) (line : Nat) : Micro × List Instr :=
  cores.foldl (fun a k => let b := a.1.dropDerived k line; (b.1, a.2 ++ b.2)) (m, [])

/-- The clusters marked in a coarse entry. -/
def DirEntry.marked (d : DirEntry) : List Nat := (List.range 64).filter (fun c => d.clusters.getLsbD c)

/-- The cores of the valid pointers. -/
def DirEntry.pointers (d : DirEntry) : List Nat := ((List.range 4).map (fun i => SMap.get 0 d.ptrs i)).filterMap (fun v => if v = 0 then none else some (v - 1))

/-- The cores an INV of this entry reaches. -/
def DirEntry.sharers (d : DirEntry) : List Nat :=
  if d.coarse then d.marked.flatMap (fun c => [4 * c, 4 * c + 1, 4 * c + 2, 4 * c + 3]) else d.pointers

/-- The holders of a table line that are registered in its entry (R321). -/
def DirEntry.readers (d : DirEntry) (slice : Nat) : List Party :=
  if d.table then
    d.marked.flatMap (fun c => [Party.hub c, Party.dispenser c]) ++ (if d.sdie then [.sdie] else []) ++ (if d.record then [.regionRecord slice d.recordId] else [])
  else []

def setBit64 (x : BitVec 64) (i : Nat) : BitVec 64 := x ||| BitVec.ofNat 64 (2 ^ (i % 64))

/-- A core's tracking read registers it in an entry (R317). -/
def DirEntry.addCore (d : DirEntry) (k : Nat) : DirEntry :=
  if d.coarse then { d with clusters := setBit64 d.clusters (clusterOf k) }
  else if d.pointers.contains k then d
  else match (List.range 4).find? (fun i => decide (SMap.get 0 d.ptrs i = 0)) with
    | some i => { d with ptrs := SMap.set 0 d.ptrs i (k + 1) }
    | none => { d with coarse := true, ptrs := [], clusters := (k :: d.pointers).foldl (fun b j => setBit64 b (clusterOf j)) 0 }

/-- A cluster's hub or dispenser registers its cluster (R321). -/
def DirEntry.addCluster (d : DirEntry) (c : Nat) : DirEntry :=
  { d with coarse := true, table := true, ptrs := [],
           clusters := setBit64 (d.pointers.foldl (fun b j => setBit64 b (clusterOf j)) d.clusters) c }

/-- A party is registered in an entry (R317, R321). -/
def DirEntry.add (d : DirEntry) (p : Party) : DirEntry :=
  match p with
  | .core k => d.addCore k
  | .hub c => d.addCluster c
  | .dispenser c => d.addCluster c
  | .sdie => { d with sdie := true, table := true }
  | .regionRecord _ id => { d with record := true, recordId := id, table := true }

/-- A slice whose directory holds more entries than `cap` runs invalidation rounds on those registered longest ago, and reuses them, table bit
and all (R316, R321). The cores drop what they derived. A hub, a dispenser, the S-die or a record reads a table line again if it needs the
line's contents, which registers the line anew as the latest, so that the next oldest entry goes. -/
def Micro.trimDir (needs : Party → Nat → Bool) (slice cap : Nat) : Nat → Micro → Micro × List Instr
  | 0, m => (m, [])
  | n + 1, m =>
    match m.dirOf slice with
    | [] => (m, [])
    | old :: l =>
      if l.length < cap then (m, [])
      else
        let d := SMap.get {} m.dir old
        let a := m.dropDerivedAll d.sharers old
        let again := (d.readers slice).filter (fun p => needs p old)
        let rest := a.1.dirOrder.filter (fun x => decide (x ≠ old))
        let m := if again.isEmpty then { a.1 with dir := SMap.del a.1.dir old, dirOrder := rest }
          else { a.1 with dir := SMap.put a.1.dir old (again.foldl DirEntry.add { round := (d.round + 1) % 256 }), dirOrder := rest ++ [old] }
        let b := trimDir needs slice cap n m
        (b.1, a.2 ++ b.2)

/-- A tracking read by any party (R317, R321), with the notices of a round on a reused entry (R316). -/
def Micro.register (needs : Party → Nat → Bool) (m : Micro) (p : Party) (line : Nat) : Micro × List Instr :=
  let a := if m.dirOrder.contains line ∨ m.dirOrder.length < 32768 then (m, []) else m.trimDir needs (m.homeOf (64 * line)) 32767 8203
  let m := a.1
  ({ m with dir := SMap.put m.dir line ((SMap.get {} m.dir line).add p),
            dirOrder := if m.dirOrder.contains line then m.dirOrder else m.dirOrder ++ [line] }, a.2)

/-! ### Tables in memory (R159, R288, R326, R354, R381) -/

/-- The physical base of the queue table and of the tables placed after it (R159). -/
def State.qtable (s : State) : Nat := bitsOf (s.core 0).qtable 51 18 * 2 ^ 18

/-- The round region whose descriptor line is at physical line `line` (R288). -/
def State.regionLine (s : State) (line : Nat) : Option Nat :=
  let b := (s.qtable + 0x40000) / 64
  if b ≤ line ∧ line < b + 4096 then some (line - b) else none

/-- The table a cluster's hub or dispenser holds a copy from: the mesh weight table (R354), or an RCB registered there (R326). -/
def State.holderOf (s : State) (c line : Nat) : Option Party :=
  let w := (s.qtable + 0xC0000) / 64
  let r := (s.qtable + 0x80000) / 64
  if line = w ∨ line = w + 1 then some (.hub c)
  else if r ≤ line ∧ line < r + 4096 ∧ (SMap.get {} s.dispensers c).regs.contains ((line - r) / 2) = true then some (.dispenser c)
  else none

/-- A party works from the contents of a table line: it reloads the copy that it gives up (R321). -/
def State.needs (s : State) (p : Party) (line : Nat) : Bool :=
  match p with
  | .core _ => false
  | .hub c => decide (s.holderOf c line = some (.hub c))
  | .dispenser c => decide (s.holderOf c line = some (.dispenser c))
  | .sdie => decide ((s.qtable + 0xD0000) / 64 ≤ line) && decide (line < (s.qtable + 0xD0000) / 64 + 4)
  | .regionRecord _ id => decide (s.regionLine line = some id)

/-! ### Who makes an access, and the checks on physical blocks -/

/-- The party of an access: the core whose tables and caches serve it, the slot and level it is made for, the partition
that must own a bank, its clock and its lease. `self` is what stands at a home that cannot serve the access yet, to be taken up
again (R305); a device's own bookkeeping has none. `device`: no core makes the access, but the package for itself. -/
structure Who where
  core : Nat
  pcore : Nat
  slot : Nat
  level : Level
  part : Nat
  clk : Nat
  lease : Nat
  thread : Option ThreadRef
  self : Option Instr := none
  device : Bool := false
  deriving DecidableEq, Repr

/-- The lease extension of a `cr.lease` value (R254). -/
def leaseOf (l : BitVec 16) : Nat := if l = 0 then 1 else l.toNat

/-- The clocks of a dispenser and of the S-die, raised to the package minimum before use (R302). -/
def State.dispClk (s : State) (cl : Nat) : Nat := max (SMap.get 0 s.micro.clkDisp cl) s.micro.minClk
def State.sdieClk (s : State) : Nat := max s.micro.clkSdie s.micro.minClk

/-- The party of a thread's access. -/
def whoOf (s : State) (r : ThreadRef) : Who :=
  let x := s.ctxOf r
  ⟨r.core, r.core, x.slot, x.level, (s.core r.core).partOf x.slot, s.clkOf r, leaseOf x.lease, some r, some (.wake r.core r.ctx), false⟩

/-- Protection windows (R373): `perm` 0 read, 1 write, 2 execute; `space` 0 physical, 1 local store. -/
def pwinAllows (s : State) (w : Who) (space addr perm : Nat) : Bool :=
  let c := s.core w.pcore
  let on := (List.range 16).filter (fun i => (SMap.get 0 c.pwin (2 * i + 1)).getLsbD 3)
  decide (w.level = .m) || on.isEmpty || on.any (fun i =>
    let a := SMap.get 0 c.pwin (2 * i)
    let b := SMap.get 0 c.pwin (2 * i + 1)
    let h := bitsOf a 60 56
    let base := bitsOf a 55 0
    decide (3 ≤ h) && decide (h ≤ 26) && decide (base % 4 ^ h = 0) && decide (bitsOf a 61 61 = space)
      && decide (addr / 4 ^ h = base / 4 ^ h) && b.getLsbD (4 + w.slot) && b.getLsbD perm)

/-- The window check of a translated or local-store location; a void block has no address and lies in no window. -/
def pwinLoc (s : State) (w : Who) (l : Loc) (perm : Nat) : Bool :=
  match l with
  | .main pa => pwinAllows s w 0 pa perm
  | .ls a => pwinAllows s w 1 a perm
  | .host b => pwinAllows s w 0 b perm
  | .foreign _ f => pwinAllows s w 0 f perm
  | .void => pwinAllows s w 2 0 perm

/-- A region register pair in force (R365). -/
def Weir.on (w : Weir) : Bool := w.a.getLsbD 63 && decide (6 ≤ bitsOf w.a 60 56) && decide (bitsOf w.a 60 56 ≤ 26)

def Weir.covers (w : Weir) (pa : Nat) : Bool :=
  w.on && decide (pa / 4 ^ bitsOf w.a 60 56 = bitsOf w.a 51 0 / 4 ^ bitsOf w.a 60 56)

def State.weir (s : State) (i : Nat) : Weir := SMap.get {} s.sdie.weirs i

/-- The lowest-numbered enabled egress region that contains a physical address (R365). -/
def State.egressOf (s : State) (pa : Nat) : Option Nat := (List.range 16).find? (fun i => (s.weir i).covers pa)

/-- Whether a location lies in an enabled egress region. -/
def State.inEgress (s : State) (l : Loc) : Bool :=
  match l with
  | .main pa => (s.egressOf pa).isSome
  | _ => false

/-! ### The walk (R310 to R315) -/

/-- What a translation answers, what it leaves in the caches, the messages it sends, the page-table lines that the walker cache has given up on
the way, whose notices go out at its end (R318), and the lines that it has read at their homes, in order (R394). -/
structure Xlat (α : Type) where
  ans : Except Nat α
  micro : Micro
  notes : List Instr
  gone : List (Nat × Nat) := []
  reads : List Nat := []

/-- A further part of a walk, after what the earlier parts sent and gave up. -/
def Xlat.after {α : Type} (x : Xlat α) (notes : List Instr) (gone : List (Nat × Nat)) (reads : List Nat) : Xlat α :=
  { x with notes := notes ++ x.notes, gone := gone ++ x.gone, reads := reads ++ x.reads }

/-- Read a page-table or attribute line: from the walker cache, or with a tracking read from memory (R315, R317), which the protection windows
(R373) and the egress regions (R367) check. -/
def nodeLine (s : State) (w : Who) (m : Micro) (line : Nat) : Xlat (LineData × Nat) :=
  match (SMap.get [] m.wcache w.core).find? (fun p => decide (p.1 = line)) with
  | some (_, r, img) => ⟨.ok (img, r), m, [], [], []⟩
  | none =>
    if !pwinAllows s w 0 (64 * line) 0 then ⟨.error 0x0A, m, [], [], []⟩
    else if decide (w.level ≠ .m) && s.inEgress (.main (64 * line)) then ⟨.error 0x0A, m, [], [], []⟩
    else if !s.delivered (.main (64 * line)) then ⟨.error 0x30, m, [], [], []⟩
    else
      let flat := s.lineAt (.main (64 * line))
      let (m, n0) := (m.takeBack flat line true).register s.needs (.core w.core) line
      let r := (SMap.get {} m.dir line).round
      let img := flat.1
      let wc := SMap.get [] m.wcache w.core
      if wc.length < 32 then ⟨.ok (img, r), { m with wcache := SMap.set [] m.wcache w.core (wc ++ [(line, r, img)]) }, n0, [], [line]⟩
      else
        let v := victimOf m wc.length
        ⟨.ok (img, r), { m with tick := m.tick + 1, wcache := SMap.set [] m.wcache w.core (wc.eraseIdx v ++ [(line, r, img)]) }, n0,
          ((wc.drop v).take 1).map (fun p => (p.1, p.2.1)), [line]⟩

/-- The doubleword at offset `o` of a line. -/
def lineWord (d : LineData) (o : Nat) : Word := (d >>> (8 * o)).setWidth 64

/-- Read the attribute entry of index `i` (R313); `none` where it is invalid for this use. -/
def readAttr (s : State) (w : Who) (m : Micro) (root i : Nat) (host : Bool) : Xlat (Word × List (Nat × Nat)) :=
  let p0 := root + 8 * 0xF0
  match nodeLine s w m (p0 / 64) with
  | ⟨.error c, m, n, g, q⟩ => ⟨.error c, m, n, g, q⟩
  | ⟨.ok (img, r0), m, n0, g0, q0⟩ =>
    let e := lineWord img (p0 % 64)
    let base := bitsOf e 63 20 * 256
    if bitsOf e 27 20 ≠ 0 ∨ base + 65536 > s.capacity then ⟨.error 0x08, m, n0, g0, q0⟩
    else
      let p1 := base + 16 * i
      match nodeLine s w m (p1 / 64) with
      | ⟨.error c, m, n, g, q⟩ => ⟨.error c, m, n0 ++ n, g0 ++ g, q0 ++ q⟩
      | ⟨.ok (img, r1), m, n1, g1, q1⟩ =>
        let a0 := lineWord img (p1 % 64)
        let a1 := lineWord img (p1 % 64 + 8)
        let sealed := a0.getLsbD 6
        let round := a0.getLsbD 13
        let bad := decide (a1 ≠ 0) || decide (bitsOf a0 63 26 ≠ 0) || (sealed && round) || (sealed && a0.getLsbD 1)
          || (host && (sealed || round))
        if bad then ⟨.error 0x08, m, n0 ++ n1, g0 ++ g1, q0 ++ q1⟩
        else ⟨.ok (a0, [(p0 / 64, r0), (p1 / 64, r1)]), m, n0 ++ n1, g0 ++ g1, q0 ++ q1⟩

/-- Whether an address lies in the host range (R46). -/
def inHost (va : Nat) : Bool := decide (va / 2 ^ 52 = 0xE)

/-- The end of a walk at a leaf, void or foreign entry of level `l` (R311, R312). -/
def walkEnd (s : State) (w : Who) (m : Micro) (root va l : Nat) (e : Word) (lines : List (Nat × Nat)) : Xlat TlbEntry :=
  let k := bitsOf e 2 0
  let h := 28 - 4 * l + bitsOf e 4 3
  let base := bitsOf e 63 20 * 256
  let host := inHost va && decide (k = 2)
  if (decide (k = 2) && (decide (base % 4 ^ h ≠ 0) || (!host && decide (base + 4 ^ h > s.capacity))))
      || (decide (k = 3) && decide (base ≠ 0)) then ⟨.error 0x08, m, [], [], []⟩
  else
    match readAttr s w m root (bitsOf e 19 8) host with
    | ⟨.error c, m, n, g, q⟩ => ⟨.error c, m, n, g, q⟩
    | ⟨.ok (a, al), m, n, g, q⟩ => ⟨.ok ⟨va / 4 ^ h * 4 ^ h, h, e, a, lines ++ al, w.core, []⟩, m, n, g, q⟩

/-- A walk from the node at `base` through the levels that remain (R310, R312). -/
def walkFrom (s : State) (w : Who) (root va : Nat) : List Nat → Nat → List (Nat × Nat) → Micro → Xlat TlbEntry
  | [], _, _, m => ⟨.error 0x08, m, [], [], []⟩
  | l :: ls, base, lines, m =>
    let pa := base + 8 * (va / 2 ^ (56 - 8 * l) % 256)
    match nodeLine s w m (pa / 64) with
    | ⟨.error c, m, n, g, q⟩ => ⟨.error c, m, n, g, q⟩
    | ⟨.ok (img, r), m, n, g, q⟩ =>
      let e := lineWord img (pa % 64)
      let lines := lines ++ [(pa / 64, r)]
      let k := bitsOf e 2 0
      if k = 1 then
        let next := bitsOf e 63 20 * 256
        if bitsOf e 19 8 ≠ 0 ∨ bitsOf e 4 3 ≠ 0 ∨ bitsOf e 22 20 ≠ 0 ∨ l = 6 ∨ next ≥ s.capacity then ⟨.error 0x08, m, n, g, q⟩
        else (walkFrom s w root va ls next lines m).after n g q
      else if k = 2 ∨ k = 3 ∨ k = 4 then (walkEnd s w m root va l e lines).after n g q
      else ⟨.error 0x08, m, n, g, q⟩

/-- A cached translation covers an address. -/
def TlbEntry.hit (e : TlbEntry) (va : Nat) : Bool := decide (va / 4 ^ e.height * 4 ^ e.height = e.base)

/-- Put an entry into a translation buffer of `cap` entries; a full one gives up an entry of its choice. -/
def tlbInsert (m : Micro) (cap : Nat) (l : List TlbEntry) (e : TlbEntry) : List TlbEntry × List TlbEntry :=
  if l.length < cap then (l ++ [e], [])
  else let v := victimOf m l.length; (l.eraseIdx v ++ [e], (l.drop v).take 1)

/-- Put an entry that a walk returned into the core's block TLB and into the cluster TLB. -/
def keepEntry (m : Micro) (core : Nat) (e : TlbEntry) : Micro × List Instr :=
  let (t, g1) := tlbInsert m 64 (SMap.get [] m.tlb core) e
  let m := { m with tick := m.tick + 1, tlb := SMap.set [] m.tlb core t }
  let (t2, g2) := tlbInsert m 4096 (SMap.get [] m.ctlb (clusterOf core)) e
  let m := { m with tick := m.tick + 1, ctlb := SMap.set [] m.ctlb (clusterOf core) t2 }
  (m, (g1.flatMap (fun g => m.notices core g.lines)) ++ (g2.flatMap (fun g => m.notices g.core g.lines)))

/-- A core is registered for every page-table line of an entry that it has walked to (R317): an entry one of whose lines the directory has
given up meanwhile serves the walk alone. -/
def Micro.registered (m : Micro) (core : Nat) (e : TlbEntry) : Bool :=
  e.lines.all (fun p => m.dirOrder.contains p.1 && (SMap.get {} m.dir p.1).sharers.contains core)

/-- A walk is over: what it returned is kept, and the notices of the lines that the core holds nothing of any more go out (R315, R318). -/
def endWalk (core : Nat) (x : Xlat TlbEntry) : Xlat TlbEntry :=
  let a := match x.ans with
    | .ok e => if x.micro.registered core e then keepEntry x.micro core e else (x.micro, [])
    | .error _ => (x.micro, [])
  ⟨x.ans, a.1, x.notes ++ a.2 ++ a.1.notices core x.gone.eraseDups, [], x.reads⟩

/-- Translate an address of the ordinary or host range (R310 to R315). An entry of the cluster TLB that another core filled is used
where it stands: this core is not registered for its lines, so it keeps no copy of its own (R319, R320; DEDUCED, log 44). -/
def translate (s : State) (w : Who) (va : Nat) : Xlat TlbEntry :=
  let m := s.micro
  let troot := (s.core w.core).troot
  let root := bitsOf troot 51 11 * 2048
  if !troot.getLsbD 0 then ⟨.error 0x08, m, [], [], []⟩
  else match (SMap.get [] m.tlb w.core).find? (fun e => e.hit va) with
    | some e => ⟨.ok e, m, [], [], []⟩
    | none =>
      match (SMap.get [] m.ctlb (clusterOf w.core)).find? (fun e => e.hit va && !e.barred.contains w.core && decide ((s.core e.core).troot = troot)) with
      | some e => ⟨.ok e, m, [], [], []⟩
      | none =>
        if root ≥ s.capacity then ⟨.error 0x08, m, [], [], []⟩ else endWalk w.core (walkFrom s w root va [1, 2, 3, 4, 5, 6] root [] m)

/-! ### The checks of an access (R146) -/

/-- What an access asks for. -/
structure Need where
  r : Bool := false
  w : Bool := false
  x : Bool := false
  size : Nat := 64
  align : Bool := true
  atomic : Bool := false
  ldx : Bool := false
  /-- The access may read an enabled egress region (R367). -/
  egress : Bool := false
  /-- The access may address a void block it does not write (BOWN, BREL: R210). -/
  voidOk : Bool := false
  /-- A sealed leaf is no obstacle to the write (copy engine: R199). -/
  sealedOk : Bool := false
  deriving DecidableEq, Repr

/-- Resolve the local-store alias (R48). -/
def resolveAlias (core va : Nat) : Nat := if 0x00FFFFFFFFF00000 ≤ va ∧ va < 2 ^ 56 then lsBase core + va % 0x100000 else va

/-- A local-store window address (R46). -/
def inLs (va : Nat) : Bool := decide (va / 2 ^ 28 = 0x00F000000)

/-- The unassigned range, after alias resolution (R46, R49). -/
def inUnassigned (va : Nat) : Bool := decide (va / 2 ^ 52 = 0xF) && !inLs va

/-- The bank of a local-store address is owned (R47): levels S and M own every bank. -/
def bankOwned (s : State) (w : Who) (va : Nat) : Bool :=
  if w.level ≠ .u then true
  else
    let k := va / 0x100000 % 256
    let bank := va / 32768 % 32
    let reg := if bank < 16 then (s.core k).bankpart0 else (s.core k).bankpart1
    decide (bitsOf reg (4 * (bank % 16) + 3) (4 * (bank % 16)) = w.part)

/-- An enabled round region's block contains a physical address (R289). -/
def RegionRec.holds (r : RegionRec) (pa : Nat) : Bool := decide (pa / 4 ^ r.height = r.base / 4 ^ r.height)

/-- The round region of a byte whose leaf carries attribute word `a` (R289). -/
def State.regionAt (s : State) (a : Word) (pa : Nat) : Option Nat :=
  if a.getLsbD 13 then
    match s.regions.find? (fun p => decide (p.1 = bitsOf a 25 14)) with
    | some (id, r) => if r.holds pa then some id else none
    | none => none
  else none

/-- The target of a cached or walked translation. -/
def targetOf (s : State) (e : TlbEntry) (va : Nat) : Target :=
  let o := va % 4 ^ e.height
  let base := bitsOf e.entry 63 20 * 256
  let loc : Loc :=
    if bitsOf e.entry 2 0 = 3 then .void
    else if bitsOf e.entry 2 0 = 4 then .foreign (bitsOf e.entry 63 60) (bitsOf e.entry 59 20 * 256 + o)
    else if inHost va then .host (base + o) else .main (base + o)
  ⟨loc, e.attr.getLsbD 2, e.attr.getLsbD 1, e.attr.getLsbD 6, bitsOf e.attr 12 7,
    match loc with
    | .main pa => s.regionAt e.attr pa
    | .foreign p f => if e.attr.getLsbD 13 && Config.peerRegion p (bitsOf e.attr 25 14) f then some (bitsOf e.attr 25 14) else none
    | _ => none, bitsOf e.attr 5 3⟩

/-- A grant covers a byte behind a port. -/
def Grant.covers (g : Grant) (port f : Nat) : Bool := decide (g.port = port) && decide (f / 4 ^ g.height = g.base / 4 ^ g.height)

/-- Why an access to a peer's memory is refused: no grant stands for it, or none any more, or the exporter's weir is closed to a read (R385,
R386). -/
def foreignRefusal (s : State) (n : Need) (t : Target) : Option Nat :=
  match t.loc with
  | .foreign p f =>
    if s.sdie.grants.all (fun g => !g.covers p f) then some 0x08
    else if Config.peerOutcome s.tick = 1 ∧ n.r = true then some 0x2A
    else none
  | _ => none

/-- The windows allow every line of an access: those of 128 bytes lie in two (R373). -/
def pwinSpan (s : State) (w : Who) (n : Need) (l : Loc) (perm : Nat) : Bool :=
  pwinLoc s w l perm && (decide (n.size ≤ 64) || pwinLoc s w (l.add 64) perm)

/-- Checks 6 to 10 of R146 at a target with the leaf's permissions, then those of R373 and R367. -/
def permitted (s : State) (w : Who) (n : Need) (t : Target) (pr pw px : Bool) : Except Nat Target :=
  if n.r && !pr then .error 0x0A
  else if n.w && !pw then .error 0x09
  else if n.x && !px then .error 0x0B
  else if n.w && decide (t.loc = .void) && !n.voidOk then .error 0x0C
  else if t.sealed && (n.w || n.ldx) && !n.sealedOk then .error 0x14
  else if n.r && !pwinSpan s w n t.loc 0 then .error 0x0A
  else if n.w && !pwinSpan s w n t.loc 1 then .error 0x09
  else if n.x && !pwinSpan s w n t.loc 2 then .error 0x0B
  else if (n.r || n.x) && s.inEgress t.loc && !(n.egress || decide (w.level = .m)) then .error 0x0A
  else if !s.delivered t.loc then .error 0x30
  else match foreignRefusal s n t with
    | some c => .error c
    | none => .ok t

/-- The checks of R146 in order, on an address whose alias is resolved. Only cached translations and the directory change. An access that needs no
permission, RFLOOR.clr's, finds a bank that is not owned as a write does, and a member of ROUND has size 1 (R174; DESIGN CHOICE, log 81). -/
def checkXlat (s : State) (w : Who) (va : Nat) (n : Need) : Xlat Target :=
  if va ≥ 2 ^ 56 then ⟨.error 0x0D, s.micro, [], [], []⟩
  else if n.align && decide (va % n.size ≠ 0) then ⟨.error 0x03, s.micro, [], [], []⟩
  else if inUnassigned va then ⟨.error 0x08, s.micro, [], [], []⟩
  else if n.atomic && inHost va then ⟨.error 0x01, s.micro, [], [], []⟩
  else if inLs va then
    if !bankOwned s w va then ⟨.error (if n.x then 0x0B else if n.r then 0x0A else 0x09), s.micro, [], [], []⟩
    else ⟨permitted s w n { loc := .ls va } true true true, s.micro, [], [], []⟩
  else
    match translate s w va with
    | ⟨.error c, m, ns, gs, q⟩ => ⟨.error c, m, ns, gs, q⟩
    | ⟨.ok e, m, ns, gs, q⟩ =>
      let open_ := !(e.attr.getLsbD 0 && decide (w.level = .u))
      ⟨permitted s w n (targetOf s e va) (e.entry.getLsbD 5 && open_) (e.entry.getLsbD 6 && open_)
        (e.entry.getLsbD 7 && open_), m, ns, gs, q⟩

/-! ### Logical time (R300 to R302) -/

/-- A slice's clock rises to that of a member made there (R300). -/
def Micro.raiseSlice (m : Micro) (line c : Nat) : Micro :=
  let k := m.homeOf (64 * line)
  { m with clkSlice := SMap.set 0 m.clkSlice k (max (SMap.get 0 m.clkSlice k) c) }

/-- A stamp below the package minimum reads as the minimum (R302). -/
def Micro.raised (m : Micro) (t : Nat) : Nat := max t m.minClk

/-- A copy whose lease covers clock `c` (R301, R302). -/
def Micro.covers (m : Micro) (c : Nat) (img : Stamped) : Bool := decide (c ≤ img.rts) && decide (m.minClk ≤ img.rts)

/-! ### Watches (R393 to R395) -/

/-- The home's view of a region at the slice of a physical address (R292); of a peer's region, the last round known here (R299). -/
def State.viewOf (s : State) (region : Option Nat) (pa : Nat) : Nat :=
  match region with
  | none => 0
  | some r => if r < 4096 then (SMap.get 0 s.sliceViews (4096 * s.micro.homeOf pa + r)).toNat else (SMap.get 0 s.peerRounds r).toNat

/-- The round region of a physical line for the tag of a fill: the enabled region whose block holds it (R293). -/
def State.lineRegion (s : State) (line : Nat) : Option Nat := (s.regions.find? (fun p => p.2.holds (64 * line))).map (·.1)

/-- The number by which this package knows region `r` of the exporter behind port `p` (R299). -/
def peerRegionNo (p r : Nat) : Nat := 4096 * (p + 1) + r % 4096

/-- The region an instruction acts on: its own package's, or that of the exporter of a granted frame (R299). -/
def regionNo (t : Target) (r : Nat) : Nat :=
  match t.loc with
  | .foreign p _ => peerRegionNo p r
  | _ => r

/-- The round region whose tags a cached line carries: that of its block, whatever leaf it is filled through (R293). -/
def State.tagRegion (s : State) (t : Target) : Option Nat :=
  match t.loc with
  | .main pa => s.lineRegion (pa / 64)
  | _ => t.region.map (regionNo t)

/-- The stamp of a region's latest RPUB (R291): a store that comes after a fill of the region stands after it in the order, so that a bounded
read of the fill need not see it (R265). -/
def State.roundStamp (s : State) (region : Option Nat) : Nat :=
  match region with
  | none => 0
  | some r => match s.regions.find? (fun p => decide (p.1 = r)) with
    | some p => p.2.wts
    | none => 0

/-- Watch entries of a slice that cover a physical address and the access kind (R393, R394). -/
def Micro.watchesOn (m : Micro) (pa : Nat) (rd wr : Bool) : List Word :=
  ((List.range 16).map (fun i => SMap.get 0 m.watches (16 * m.homeOf pa + i))).filter (fun w =>
    let h := bitsOf w 56 52
    let mode := bitsOf w 61 60
    w.getLsbD 63 && decide (mode ≠ 0) && decide (bitsOf w 59 57 = 0) && decide (3 ≤ h) && decide (h ≤ 26)
      && decide (pa / 4 ^ h = bitsOf w 51 0 / 4 ^ h) && decide (bitsOf w 51 0 % 4 ^ h = 0)
      && ((rd && decide (mode % 2 = 1)) || (wr && decide (mode / 2 = 1))))

/-- An enabled watch covers a physical address (R394). -/
def Micro.watched (m : Micro) (pa : Nat) : Bool := !(m.watchesOn pa true true).isEmpty

/-- The requester a watch report names (R395): a cluster id 0 to 63 for a core; 0x100 with the port kind, or 0x200 with the
fabric port, for the others, whose party numbers begin at 1,024; what it names for the package's own accesses is not said (log 71). -/
def reportRequester (w : Who) : Nat := if w.device then Config.deviceRequester else if w.core < 1024 then clusterOf w.core else w.core - 1024

/-- A party outside the C-dies that reaches memory by physical address (R395): host 0x100, debug 0x102, fabric port p 0x200 + p. -/
def portWho (port clk : Nat) : Who := ⟨1024 + port, 0, 15, .m, 0, clk, 1, none, none, false⟩

/-- Report a watched access that was served at the slice (R395), and mark a thread's trap. -/
def watchReport (s : State) (w : Who) (l : Loc) (rd wr : Bool) : State :=
  match l with
  | .main pa =>
    (s.micro.watchesOn pa rd wr).foldl (fun s e =>
      let block := BitVec.ofNat 64 (bitsOf e 51 0)
      let kind := (if rd then 1 else 0) + (if wr then 2 else 0) + reportRequester w * 4
      let s := { s with sdie := { s.sdie with watchReports := s.sdie.watchReports ++ [(block, BitVec.ofNat 64 kind, BitVec.ofNat 64 s.cycle)] } }
      if e.getLsbD 62 then
        match w.thread with
        | some r => s.setCtx r { s.ctxOf r with watchHit := some block }
        | none => s
      else s) s
  | _ => s

/-! ### Checking an access -/

/-- The lines that a translation has read at their homes are tested against the watches (R394). -/
def watchedWalk (s : State) (w : Who) (lines : List Nat) : State :=
  lines.foldl (fun s l => watchReport s { w with thread := none } (.main (64 * l)) true false) s

/-- Check an access; the state carries the caches' changes and the notices sent. -/
def check (s : State) (w : Who) (va : Nat) (n : Need) : Except Nat Target × State :=
  let x := checkXlat s w (resolveAlias w.core va) n
  (x.ans, watchedWalk { s with micro := x.micro, agenda := s.agenda ++ x.notes } w x.reads)

/-! ### Standing at a home (R305, R309, R323) -/

/-- The block owner of a line, if an owner-table entry covers it (R309). -/
def Micro.blockOwner (m : Micro) (line : Nat) : Option Nat :=
  ((SMap.get [] m.owners (m.homeOf (64 * line))).find? (fun e => decide (64 * line / 4 ^ e.height = e.base / 4 ^ e.height))).map (·.owner)

/-- The owner a home forwards to: the line's, or, unless it has just answered, the owner of its block (R305, R309). -/
def Micro.ownerOf (m : Micro) (line core : Nat) : Option Nat :=
  let h := m.homeLine line
  if h.st = .o then some h.owner
  else if h.served then none
  else match m.blockOwner line with
    | some k => if k = core then none else some k
    | none => none

/-- Whether a line's granule is in motion (R323). -/
def Micro.lineMoving (m : Micro) (line : Nat) : Bool := m.moving.any (fun p => decide (p.1 = line / 64))

/-- Requests that stand at a slice (R305). -/
def Micro.standing (m : Micro) (slice : Nat) : Nat :=
  m.home.foldl (fun n p => if m.homeOf (64 * p.1) = slice then n + p.2.waiting.length else n) 0

/-- A request of `core` arrives at the home of a line (R305): `.ok` where the home serves it now; else it stands there in order of
arrival, behind a FWD to the owner where one is due, is held back in its link by a full slice, or is answered with RETRY while the
granule moves (R323). -/
def homeGate (s : State) (line core : Nat) (kind : FwdKind) (self : Instr) : Except State State :=
  let m := s.micro
  let h := m.homeLine line
  let stand (h : HomeLine) : State := { s with micro := m.setHome line { h with waiting := h.waiting ++ [self] } }
  if m.lineMoving line then .error { s with micro := { m with retry := m.retry ++ [(line / 64, self)] } }
  else if m.standing (m.homeOf (64 * line)) ≥ 1024 then .error { s with agenda := self :: s.agenda }
  else if h.st = .g ∨ h.st = .f ∨ h.st = .w then .error (stand h)
  else match m.ownerOf line core with
    | some k => .error ((stand { h with st := if kind = .recall then .w else .f, owner := k }).post [.agentFwd k line kind])
    | none => .ok { s with micro := m.setHome line { h with served := false } }

/-- The gate of an access: a party that can stand at a home does; the device's own bookkeeping takes the line from a stable owner. -/
def accessGate (s : State) (w : Who) (line : Nat) (kind : FwdKind) : Except State State :=
  match w.self with
  | some i => homeGate s line w.core kind i
  | none => .ok { s with micro := s.micro.takeBack (s.lineAt (lineLoc line)) line (decide (kind = .gets)) }

/-- A line as the package itself finds it at the home, for an operation that it holds and tries again: whether the home serves it now; where it has
an owner, the owner is asked for it (R305, R309, R323). -/
def deviceGate (s : State) (line : Nat) : Bool × State :=
  let h := s.micro.homeLine line
  if s.micro.lineMoving line || !(decide (h.st = .c) || decide (h.st = .o)) then (false, s)
  else match s.micro.ownerOf line 1024 with
    | some k => (false, { s with micro := s.micro.setHome line { h with st := .f, owner := k } }.post [.agentFwd k line .getx])
    | none => (true, { s with micro := s.micro.setHome line { h with served := false } })

/-- The home of a line would serve a party outside the C-dies now (R305, R309, R323). -/
def State.homeFree (s : State) (line : Nat) : Bool :=
  let h := s.micro.homeLine line
  !s.micro.lineMoving line && (decide (h.st = .c) || decide (h.st = .o)) && (s.micro.ownerOf line 1024).isNone

/-- An access of several lines goes on when every one is at rest at its home, and stands at the first that is not (R305, R309, R323). -/
def readyLines (s : State) (self : Instr) (kind : FwdKind) (lines : List Nat) : Except State State :=
  match lines.find? (fun l => !s.homeFree l) with
  | some l => homeGate s l 1024 kind self
  | none => .ok (lines.foldl (fun s l => { s with micro := s.micro.setHome l { s.micro.homeLine l with served := false } }) s)

/-! ### Loads (R300 to R303) -/

/-- What loading a line leaves: the line, the reader's clock, the level that served it (R396), the state. -/
structure Loaded where
  line : LineData × Word
  clk : Nat
  level : Nat
  st : State

/-- What a thread has accessed of a round-region line, for its later bounded reads (R265, R294). -/
def noteSeen (s : State) (w : Who) (t : Target) (stamp : Nat) : State :=
  match w.thread, s.tagRegion t with
  | some r, some _ =>
    let tid := (s.ctxOf r).tid
    let l := SMap.get [] s.micro.seen tid
    { s with micro := { s.micro with seen := SMap.set [] s.micro.seen tid (SMap.set 0 l t.loc.line (max (SMap.get 0 l t.loc.line) stamp)) } }
  | _, _ => s

/-- The last clock + 1 at which thread `tid` of `core` may use the copy it has begun to use; 0: it has not (R273). -/
def Micro.useOf (m : Micro) (core line tid : Nat) : Nat := SMap.get 0 (SMap.get [] (SMap.get [] m.uses core) line) tid

/-- The uses of a copy begin: a thread that finds a copy makes at most L loads from it before it asks for a renewal (R273). -/
def Micro.beginUse (m : Micro) (core line tid bound : Nat) : Micro :=
  let a := SMap.get [] m.uses core
  let b := SMap.get [] a line
  if SMap.get 0 b tid ≠ 0 then m else { m with uses := SMap.set [] m.uses core (SMap.set [] a line (SMap.set 0 b tid bound)) }

/-- The home has granted a core's copy afresh: its uses are counted anew (R273). -/
def Micro.freshUse (m : Micro) (core line : Nat) : Micro :=
  { m with uses := SMap.set [] m.uses core (SMap.set [] (SMap.get [] m.uses core) line []) }

/-- Whether a copy under its lease serves a party at clock `c` (R301), and, for a thread, within R273's bound. -/
def copyHit (s : State) (w : Who) (line c : Nat) (o : Copy) : Bool :=
  decide (o.st = .v) && s.micro.covers c o.img && (match w.thread with
    | some r => let b := s.micro.useOf w.core line (s.ctxOf r).tid; decide (b = 0) || decide (c < b)
    | none => true)

/-- A hit in a copy, `lv` the level: the thread's use of it is counted. -/
def serveHit (s : State) (w : Who) (t : Target) (line c lv : Nat) (o : Copy) : Loaded :=
  let m := match w.thread with
    | some r => s.micro.beginUse w.core line (s.ctxOf r).tid (c + w.lease)
    | none => s.micro
  let s := noteSeen { s with micro := m } w t o.img.wts
  ⟨(o.img.data, o.img.side), max c (m.raised o.img.wts), lv, s⟩

/-- A barge's operand read is granted a lease under its issuer's `cr.lease` (R301), but on a watched line (R394); another party's read at the
home needs none. -/
def leased (w : Who) (t : Target) (watched : Bool) : Bool := w.thread.isNone && decide (w.core < 1024) && !t.uncached && !watched

/-- Serve a load at the home of a line, which is ready (R305): no copy is kept. -/
def serveHomeLoad (s : State) (w : Who) (t : Target) (pa c : Nat) : Loaded :=
  let flat := s.lineAt t.loc
  let m := s.micro
  let h := m.homeLine (pa / 64)
  let c' := max c (m.raised h.wts)
  let rts := max h.rts (if leased w t (m.watched pa) then max h.wts (c + w.lease) else c')
  let m := ((m.setHome (pa / 64) { h with rts := rts }).raiseSlice (pa / 64) c').llcFill (pa / 64) t.cls
  ⟨flat, c', s.micro.homeLevel (pa / 64), noteSeen (watchReport { s with micro := m } w t.loc true false) w t h.wts⟩

/-- A load of a line outside main memory, which no cache holds: the memory there answers (R396; DESIGN CHOICE, log 65). -/
def serveWindow (s : State) (t : Target) (c : Nat) : Loaded :=
  let m := s.micro
  let h := m.homeLine t.loc.line
  let c' := max c (m.raised h.wts)
  ⟨s.lineAt t.loc, c', 4, { s with micro := m.setHome t.loc.line { h with rts := max h.rts c' } }⟩

/-- The thread of an access is marked as waiting for a line. -/
def markMiss (s : State) (w : Who) (line : Nat) (exclusive : Bool) : State :=
  match w.thread with
  | some r => s.setCtx r { s.ctxOf r with miss := some (line, exclusive) }
  | none => s

/-- A core's L1 asks a line's home for a copy, unless a request is already on its way (R303). -/
def askHome (s : State) (w : Who) (t : Target) (line c : Nat) (exclusive : Bool) : State :=
  let q (k : CohKind) (wts : Nat) : CohReq := { kind := k, line := line, core := w.core, wts := wts, clk := c, lease := w.lease, cls := t.cls, thread := w.thread }
  let ask (o : Copy) (i : Instr) : State := { s with micro := s.micro.setCopy w.core line o }.post [i]
  match s.micro.copyAt w.core line with
  | none =>
    let o : Copy := { st := if exclusive then .ix else .iv, img := ⟨0, 0, 0, 0, 0, 0⟩, tag := 0, region := s.tagRegion t, cls := t.cls }
    ask o (if exclusive then .homeGetx (q .getx 0) else .homeGets (q .gets 0))
  | some o =>
    if o.st ≠ .v then s
    else if exclusive then ask { o with st := .vx } (.homeUpg (q .upg o.img.wts))
    else ask { o with st := .vr } (.homeRenew (q .renew o.img.wts))

/-- An access's line is asked for, and its thread marked. -/
def requestLine (s : State) (w : Who) (t : Target) (line c : Nat) (exclusive : Bool) : State := askHome (markMiss s w line exclusive) w t line c exclusive

/-- A V copy is dropped silently; an owner writes back (R303). -/
def evictLine (s : State) (core line : Nat) : State :=
  match s.micro.copyAt core line with
  | some o =>
    match o.st with
    | .v => { s with micro := s.micro.dropCopy core line }
    | .x => ({ s with micro := s.micro.setCopy core line { o with st := .xi } }).post
        [.homeWb line core (o.imageOf (s.lineAt (lineLoc line))) (!o.dirty)]
    | _ => s
  | none => s

/-- An L1 that is full gives up a line of the device's choice (R22, R303). -/
def makeRoom (s : State) (core line : Nat) : State :=
  let l := SMap.get [] s.micro.l1d core
  if l.length < 24576 ∨ l.any (fun p => decide (p.1 = line)) then s
  else
    let go := l.filter (fun p => decide (p.2.st = .v) || decide (p.2.st = .x))
    match go[victimOf s.micro go.length]? with
    | none => s
    | some (v, _) => evictLine { s with micro := { s.micro with tick := s.micro.tick + 1 } } core v

/-- Serial-number order (R290): `a` is at or ahead of `b`. -/
def atOrAhead (a b : BitVec 32) : Bool := decide ((a - b).toNat < 2 ^ 31)

/-- A copy of a region that is more than 127 rounds behind a view (R293). -/
def staleCopy (region : Nat) (v : BitVec 32) (o : Copy) : Bool :=
  decide (o.region = some region) && decide ((v - BitVec.ofNat 32 o.img.round).toNat > 127) && atOrAhead v (BitVec.ofNat 32 o.img.round)

/-- A copy whose request is on its way is not kept for what it holds (R293). -/
def Copy.disused (o : Copy) : Copy := if o.st = .v ∨ o.st = .x ∨ o.st = .xi then o else { o with left := true }

/-- Copies of an L1 are removed, dirty ones written back first; one whose renewal or upgrade is on its way serves no more (R293). -/
def clearL1 (s : State) (k : Nat) (gone : Copy → Bool) : State :=
  let l := SMap.get [] s.micro.l1d k
  let s := (l.filter (fun p => gone p.2)).foldl (fun s p => evictLine s k p.1) s
  { s with micro := { s.micro with l1d := SMap.set [] s.micro.l1d k ((SMap.get [] s.micro.l1d k).map (fun p => (p.1, if gone p.2 then p.2.disused else p.2))) } }

/-- Copies of an L2 slice are removed. -/
def clearL2 (s : State) (cl : Nat) (gone : Copy → Bool) : State :=
  { s with micro := { s.micro with l2 := SMap.set [] s.micro.l2 cl ((SMap.get [] s.micro.l2 cl).filter (fun p => !gone p.2)) } }

/-- The view a core's L1 holds of a region. -/
def Core.viewOf (c : Core) (region : Nat) : Option (BitVec 32) :=
  (c.views.find? (fun v => decide (v.region = region))).map (·.view)

/-- A core's L1 advances its view of a region, sweeping first; a view never moves backwards (R292, R293). -/
def advanceL1 (s : State) (k region : Nat) (v : BitVec 32) : State :=
  match (s.core k).viewOf region with
  | none => s
  | some old =>
    if atOrAhead old v then s
    else
      let s := clearL1 s k (staleCopy region v)
      let c := s.core k
      s.setCore k { c with views := c.views.map (fun e => if e.region = region then { e with view := v } else e) }

/-- The place of a cluster's view: regions of a peer's memory have numbers from 4096 on (R299). -/
def viewKey (cl region : Nat) : Nat := 131072 * cl + region

/-- The view a cluster's L2 slice holds of a region (R292). -/
def State.l2View (s : State) (cl region : Nat) : Option (BitVec 32) :=
  match SMap.get 0 s.clusterViews (viewKey cl region) with
  | 0 => none
  | v + 1 => some (BitVec.ofNat 32 v)

/-- A cluster's L2 slice records a view of a region, sweeping first (R293). -/
def recordL2 (s : State) (cl region : Nat) (v : BitVec 32) : State :=
  let s := clearL2 s cl (staleCopy region v)
  { s with clusterViews := SMap.set 0 s.clusterViews (viewKey cl region) (v.toNat + 1) }

/-- A cluster's L2 slice advances its view of a region (R292). -/
def advanceL2 (s : State) (cl region : Nat) (v : BitVec 32) : State :=
  match s.l2View cl region with
  | none => s
  | some old => if atOrAhead old v then s else recordL2 s cl region v

/-- The L1's view of a copy's region advances to the copy's round (R292). -/
def advanceFor (s : State) (core : Nat) (o : Copy) : State :=
  match o.region with
  | some r => advanceL1 s core r (BitVec.ofNat 32 o.img.round)
  | none => s

/-- A copy of a region that a level with this view would sweep (R293). -/
def tooOld (view : Nat → Option (BitVec 32)) (o : Copy) : Bool :=
  match o.region with
  | some r => (view r).any (fun v => staleCopy r v o)
  | none => false

/-- A copy comes to a core's L1: it takes the place of a V copy, or of the data that a renewal or an upgrade was sent with; a line that
is owned, or of which the L1 has asked for all, is left to that (R294, R295, R303). -/
def Micro.fillL1 (m : Micro) (core line : Nat) (o : Copy) : Micro :=
  match m.copyAt core line with
  | none => m.setCopy core line o
  | some c =>
    match c.st with
    | .v => m.setCopy core line o
    | .vr => m.setCopy core line { o with st := .vr, left := false }
    | .vx => m.setCopy core line { o with st := .vx, left := false }
    | _ => m

/-- A copy passes from the cluster's L2 slice to a core's L1, with its own fill round and no longer lease (R293, R303). -/
def passToL1 (s : State) (core line : Nat) (o : Copy) : State :=
  let s := makeRoom (advanceFor s core o) core line
  { s with micro := s.micro.fillL1 core line o }

/-- A core of a cluster owns a line: the L2 slice keeps no copy of it (R303). -/
def Micro.ownedIn (m : Micro) (cl line : Nat) : Bool :=
  [4 * cl, 4 * cl + 1, 4 * cl + 2, 4 * cl + 3].any (fun k => (m.copyAt k line).any (fun c => decide (c.st = .x) || decide (c.st = .xi)))

/-- The place of the package's LLC slices among the L2 slices, for the lines that peers have granted (R299). -/
def llcPlace : Nat := 64

/-- A copy comes to an L2 slice, or to the LLC slices for a granted line, which advances its view first and does not keep what it would sweep
(R292, R293). -/
def fillL2 (s : State) (cl line : Nat) (o : Copy) : State :=
  let s := match o.region with
    | some r => advanceL2 s cl r (BitVec.ofNat 32 o.img.round)
    | none => s
  if s.micro.ownedIn cl line || tooOld (s.l2View cl) o then { s with micro := s.micro.dropL2 cl line } else { s with micro := s.micro.setL2 cl line o }

/-- A fill is kept by the L2 slice it passes, if `l2`, and by the core's L1, if `l1`, whose views its round advances first (R292, R293, R294).
The home's own grants, from level 3 on, are counted anew (R273). -/
def fillCopies (s : State) (core line : Nat) (img : Stamped) (region : Option Nat) (cls : Nat) (l1 l2 : Bool) : State :=
  let o : Copy := { st := .v, img := img, tag := BitVec.ofNat 8 img.round, region := region, cls := cls }
  let s := if foreignLine line then fillL2 s llcPlace line o else s
  let s := if l2 then fillL2 s (clusterOf core) line o else s
  if !l1 then s
  else
    let s := makeRoom (advanceFor s core o) core line
    if tooOld (s.core core).viewOf o then s
    else
      let m := s.micro.fillL1 core line o
      { s with micro := if img.level < 3 then m else m.freshUse core line }

/-- A load at the home of a main-memory line, or the wait for it there (R305). -/
def homeLoad (s : State) (w : Who) (t : Target) (pa c : Nat) : Except State Loaded :=
  match accessGate s w (pa / 64) .gets with
  | .error s => .error s
  | .ok s => .ok (serveHomeLoad s w t pa c)

/-- A load that no cache serves: a thread's core asks the home for a copy. -/
def missLoad (s : State) (w : Who) (t : Target) (pa c : Nat) : Except State Loaded :=
  if w.thread.isSome then .error (requestLine (makeRoom s w.core (pa / 64)) w t (pa / 64) c false) else homeLoad s w t pa c

/-- A copy of the L2 slice serves a party, and passes to a thread's L1, under no longer lease than a grant of its own. -/
def serveL2 (s : State) (w : Who) (t : Target) (line c : Nat) (o : Copy) : Loaded :=
  let o := { o with img := { o.img with rts := min o.img.rts (max o.img.wts (c + w.lease)) } }
  serveHit (if w.thread.isSome then passToL1 s w.core line o else s) w t line c 2 o

/-- The copy of a peer L2 slice of the die that the device lets serve a barge's operand read, if it covers the barge's clock (R301, R324;
DESIGN CHOICE, log 11). -/
def peerCopy (s : State) (w : Who) (line c : Nat) : Option Copy :=
  match w.thread, Config.peerSlice s.tick with
  | none, some p =>
    if p % 64 / 16 = clusterOf w.core / 16 then
      match s.micro.l2At (p % 64) line with
      | some o => if o.st = .v && s.micro.covers c o.img then some o else none
      | none => none
    else none
  | _, _ => none

/-- A load that neither the L1 nor the cluster's L2 slice serves. -/
def beyondL2 (s : State) (w : Who) (t : Target) (pa c : Nat) : Except State Loaded :=
  match peerCopy s w (pa / 64) c with
  | some o => .ok (serveHit s w t (pa / 64) c 2 o)
  | none => missLoad s w t pa c

/-- A load that the L1 does not serve (R303). -/
def l2Load (s : State) (w : Who) (t : Target) (pa c : Nat) : Except State Loaded :=
  match s.micro.l2At (clusterOf w.core) (pa / 64) with
  | some o => if copyHit s w (pa / 64) c o then .ok (serveL2 s w t (pa / 64) c o) else beyondL2 s w t pa c
  | none => beyondL2 s w t pa c

/-- An owner serves its own load, which it grants a lease (R301). -/
def serveOwned (s : State) (w : Who) (t : Target) (line c : Nat) (o : Copy) : Loaded :=
  let img := { o.img with rts := max o.img.rts (max o.img.wts (c + w.lease)) }
  ⟨s.lineAt t.loc, max c (s.micro.raised (max img.wts (s.micro.homeLine line).wts)), 1,
    noteSeen { s with micro := s.micro.setCopy w.core line { o with img := img } } w t img.wts⟩

/-- A load of memory that caches hold: main memory, or what a peer has granted (R301, R303, R386). -/
def mainLoad (s : State) (w : Who) (t : Target) (pa c : Nat) : Except State Loaded :=
  if t.uncached || decide (w.core ≥ 1024) then homeLoad s w t pa c
  else match s.micro.copyAt w.core (pa / 64) with
    | some o =>
      if o.st = .x then .ok (serveOwned s w t (pa / 64) c o)
      else if copyHit s w (pa / 64) c o then .ok (serveHit s w t (pa / 64) c 1 o)
      else if o.st = .v then l2Load s w t pa c
      else missLoad s w t pa c
    | none => l2Load s w t pa c

/-- Load the line at a target for a party (R301, R303): from the L1's copy, from the L2 slice's, or from the home, which a thread's
core asks for a copy. `.error`: the line is not at hand; what fetches it is under way. -/
def loadLine (s : State) (w : Who) (t : Target) : Except State Loaded :=
  let c := max (w.clk + 1) s.micro.minClk
  match t.loc with
  | .void => .ok ⟨s.lineAt t.loc, c, 4, s⟩
  | l =>
    match l.place with
    | some pa => mainLoad s w t pa c
    | none => .ok (serveWindow s t c)

/-! ### Stores (R300, R303, R319) -/

/-- A store to a line runs a round, and so is made at its home (R319, R321). -/
def Micro.roundDue (m : Micro) (line : Nat) (tracked : Bool) : Bool := m.dirOrder.contains line && (tracked || (SMap.get {} m.dir line).table)

/-- The parties that a directory entry registers (R319, R321). -/
def DirEntry.parties (d : DirEntry) (slice : Nat) : List Party :=
  (if d.coarse then d.marked.map .hub else d.pointers.map .core) ++ (if d.sdie then [.sdie] else [])
    ++ (if d.record then [.regionRecord slice d.recordId] else [])

/-- The acks that a party's INV is answered with: a hub sends those of its four cores (R319, R321). -/
def Party.acks : Party → Nat
  | .hub _ => 4
  | _ => 1

/-- A message on its way: it has not been taken yet, wherever it stands. -/
def State.onWay (s : State) (p : Instr → Bool) : Bool :=
  s.agenda.any p || s.due.any p || s.mesh.fifos.any (fun f => f.2.any (fun x => x.msgs.any (fun m => p m.2)))

/-- The messages on their way. -/
def State.underWay (s : State) : List Instr := s.agenda ++ s.due ++ s.mesh.fifos.flatMap (fun f => f.2.flatMap (fun x => x.msgs.map (·.2)))

/-- The parties that an earlier round of a line has still to reach. -/
def State.invsDue (s : State) (line : Nat) : List Party :=
  s.underWay.filterMap (fun i => match i with
    | .invReceive p l _ _ => if l = line then some p else none
    | _ => none)

/-- The parties an invalidation round of a line reaches, and its ack count (R319, R321); none where no round runs. A party that the INV of an
earlier round has still to reach is sent another: until then it may translate with the old entry, so this store too waits for it (R266,
R320). -/
def State.roundParties (s : State) (line : Nat) (tracked : Bool) : List Party × Nat :=
  let d := SMap.get {} s.micro.dir line
  let ps := if s.micro.roundDue line tracked then (d.parties (s.micro.homeOf (64 * line)) ++ s.invsDue line).eraseDups else []
  (ps, (ps.map Party.acks).sum)

/-- Step 3 of R319: the entry is reset and its round raised. -/
def Micro.roundReset (m : Micro) (line : Nat) (tracked : Bool) : Micro :=
  let d := SMap.get {} m.dir line
  if m.roundDue line tracked then
    { m with dir := SMap.put m.dir line { d with coarse := false, record := false, sdie := false, ptrs := [], clusters := 0, round := (d.round + 1) % 256 } }
  else m

/-- Remove a round-region line's copies from the writer's cluster (R294). -/
def Micro.purgeCluster (m : Micro) (cl line : Nat) : Micro :=
  ([4 * cl, 4 * cl + 1, 4 * cl + 2, 4 * cl + 3].foldl (fun m k => m.dropV k line) m).dropL2 cl line

/-- The stamps of a store made at its home, which is ready (R300): the writer's own cluster keeps no older copy in its path. -/
def Micro.stampHome (m : Micro) (core line c : Nat) (region : Option Nat) : Nat × Micro :=
  let h := m.homeLine line
  let t := max c (m.raised h.rts) + 1
  let m := m.raiseSlice line t
  let m := if core ≥ 1024 then m
    else match region with
      | some _ => m.purgeCluster (clusterOf core) line
      | none => (m.dropV core line).dropL2 (clusterOf core) line
  (t, m.setHome line { h with wts := t, rts := t })

/-- The stamps of a store made by the owner in its L1 (R300). -/
def Micro.stampOwned (m : Micro) (o : Copy) (core line c : Nat) (region : Option Nat) : Nat × Micro :=
  let h := m.homeLine line
  let t := max c (max (m.raised o.img.rts) h.rts) + 1
  let m := match region with
    | some _ => m.purgeCluster (clusterOf core) line
    | none => m
  (t, m.setCopy core line { o with dirty := true, img := { o.img with wts := t, rts := t } })

/-- Write bytes, and optionally the sideband, at a location. -/
def State.writeBoth (s : State) (l : Loc) (bs : ByteList) (side : Option Word) : State :=
  match side with
  | some v => (s.writeAt l bs).writeSide l v
  | none => s.writeAt l bs

/-- What a store leaves: the writer's clock, the parties its invalidation round reaches with the ack count, the state. -/
abbrev Stored := Nat × (List Party × Nat) × State

/-- A store of main memory made at its home, which is ready; `rd`: it reads as well (R394). -/
def storeHome (s : State) (w : Who) (t : Target) (pa c : Nat) (bs : ByteList) (side : Option Word) (rd : Bool) : Stored :=
  let s := s.writeBoth t.loc bs side
  let (clk, m) := s.micro.stampHome w.core (pa / 64) c (s.tagRegion t)
  let ps := s.roundParties (pa / 64) t.tracked
  let s := { s with micro := (m.roundReset (pa / 64) t.tracked).llcFill (pa / 64) t.cls }
  (clk, ps, noteSeen (watchReport s w t.loc rd true) w t clk)

/-- A store of main memory goes to the home: it is another party's, or one that R313, R319, R321 or R394 sends there. -/
def storesAtHome (s : State) (w : Who) (t : Target) (pa : Nat) (atHome : Bool) : Bool :=
  atHome || t.uncached || s.micro.watched pa || w.thread.isNone || s.micro.roundDue (pa / 64) t.tracked

/-- A store by the owner in its L1 (R300, R303). -/
def storeOwned (s : State) (w : Who) (t : Target) (line c : Nat) (o : Copy) (bs : ByteList) (side : Option Word) : Stored :=
  let s := s.writeBoth t.loc bs side
  let (clk, m) := s.micro.stampOwned o w.core line c (s.tagRegion t)
  (clk, ([], 0), noteSeen { s with micro := m } w t clk)

/-- A store outside main memory. -/
def storeWindow (s : State) (l : Loc) (c : Nat) (bs : ByteList) (side : Option Word) : Stored :=
  let s := s.writeBoth l bs side
  let h := s.micro.homeLine l.line
  let clk := max c (s.micro.raised h.rts) + 1
  (clk, ([], 0), { s with micro := s.micro.setHome l.line { h with wts := clk, rts := clk } })

/-- Write bytes, and optionally the sideband, of one line at a target, as one indivisible member of the order. A thread's store is
made in its L1, once that owns the line. `.error`: the line is not at hand; what fetches it is under way. -/
def storeLine (s : State) (w : Who) (t : Target) (bs : ByteList) (side : Option Word) (atHome : Bool) : Except State Stored :=
  let c := max (w.clk + 1) s.micro.minClk
  match t.loc with
  | .void => .ok (c, ([], 0), s)
  | l =>
    match l.place with
    | some pa =>
      if storesAtHome s w t pa atHome then
        match accessGate s w (pa / 64) .getx with
        | .error s => .error s
        | .ok s => .ok (storeHome s w t pa c bs side false)
      else match s.micro.copyAt w.core (pa / 64) with
        | some o => if o.st = .x then .ok (storeOwned s w t (pa / 64) c o bs side) else .error (requestLine s w t (pa / 64) c true)
        | none => .error (requestLine (makeRoom s w.core (pa / 64)) w t (pa / 64) c true)
    | none => .ok (storeWindow s l c bs side)

/-- The gate of an atomic, CAS or JOIN at the home of its operand (R153, R305). -/
def atomicGate (s : State) (w : Who) (t : Target) : Except State State :=
  match t.loc.place with
  | some pa => accessGate s w (pa / 64) .getx
  | none => .ok s

/-- A read of the device's own bookkeeping, at the home: it takes the line from a stable owner and never waits (DEDUCED, log 14). -/
def loadQuiet (s : State) (w : Who) (t : Target) : Loaded :=
  match loadLine s { w with self := none, thread := none } { t with uncached := true } with
  | .ok a => a
  | .error s => ⟨s.lineAt t.loc, w.clk, 3, s⟩

/-- A store of the device's own bookkeeping: it takes the line from a stable owner and never waits (DEDUCED, log 14). -/
def storeQuiet (s : State) (w : Who) (t : Target) (bs : ByteList) (side : Option Word) : Stored :=
  match storeLine s { w with self := none, thread := none } t bs side true with
  | .ok r => r
  | .error s => (w.clk, ([], 0), s)

/-- An atomic, CAS or JOIN at the home of its operand, which is ready (R153): read, modify and write as one member; `bs` is empty where
nothing is written. It stamps the line and runs its round all the same (R300, R321). -/
def atomicAt (s : State) (w : Who) (t : Target) (bs : ByteList) : Stored :=
  match t.loc.place with
  | some pa => storeHome s w t pa (max (w.clk + 1) s.micro.minClk) bs none true
  | none => storeQuiet s w t bs none

/-- Bank ownership as it stands at an access's own point (R271): the cause where the bank of a local-store target is not owned. -/
def bankFault (s : State) (w : Who) (t : Target) (rd : Bool) : Option Nat :=
  match t.loc with
  | .ls a => if bankOwned s w a then none else some (if rd then 0x0A else 0x09)
  | _ => none

/-- What an atomic's own point checks anew: the bank's ownership (R271) and the delivery of the line (R36). -/
def pointFault (s : State) (w : Who) (t : Target) : Option Nat :=
  match bankFault s w t true with
  | some c => some c
  | none => if s.delivered t.loc then none else some 0x30

/-- A read of a main-memory line by its home or by another party that holds no copy: the latest value. -/
def State.physLine (s : State) (pa : Nat) : LineData := (s.lineAt (.main pa)).1

/-- The doubleword at a physical address; nothing backs an address at or above the capacity (R16). -/
def State.physWord (s : State) (pa : Nat) : Word :=
  if pa + 8 > s.capacity then 0 else BitVec.ofNat 64 (bytesToNat (s.mem.readBytes pa 8))

/-! ### Round regions' records (R288, R290) -/

/-- The record that a descriptor line describes, if the region is enabled. A line that is not delivered describes none (R36, R402; DESIGN CHOICE,
log 67). -/
def State.regionDesc (s : State) (id : Nat) : Option RegionRec :=
  let a := s.qtable + 0x40000 + 64 * id
  let w0 := s.physWord a
  let w1 := s.physWord (a + 8)
  let w2 := s.physWord (a + 16)
  let h := bitsOf w0 60 56
  let base := bitsOf w0 51 0
  let reserved := (s.mem.readBytes (a + 0x18) 40).any (fun b => decide (b ≠ 0))
  if s.delivered (.main a) = false ∨ bitsOf w0 55 52 ≠ 0 ∨ bitsOf w0 63 61 ≠ 0 ∨ h < 6 ∨ 26 < h ∨ base % 4 ^ h ≠ 0 ∨ base + 4 ^ h > s.capacity
      ∨ bitsOf w1 63 1 ≠ 0 ∨ w1.getLsbD 0 = false ∨ bitsOf w2 63 32 ≠ 0 ∨ reserved = true ∨ a + 64 > s.capacity then none
  else some { base := base, height := h, counter := BitVec.ofNat 32 w2.toNat, subscribers := 0 }

/-- Slices that home a granule of a region's block (R291). -/
def State.regionSlices (s : State) (r : RegionRec) : List Nat :=
  let n := 4 ^ r.height / 4096
  if n ≤ 4096 then (List.range 32).filter (fun k => (List.range n).any (fun i => decide (s.micro.homeOf (r.base + 4096 * i) = k)))
  else List.range 32

/-- A write that a home makes for itself, to a line it holds: no round runs for it. -/
def State.physPut (s : State) (pa : Nat) (bs : ByteList) (c : Nat) : State :=
  if pa + bs.length > s.capacity then s
  else
    let m := s.micro.takeBack (s.lineAt (.main pa)) (pa / 64) false
    { s with mem := s.mem.writeBytes pa bs, micro := (m.stampHome 1024 (pa / 64) c none).2 }

/-- The write stamp of a line at its home. -/
def State.stampOf (s : State) (pa : Nat) : Nat := (s.micro.homeLine (pa / 64)).wts

/-- The record of a region is loaded or reloaded from its descriptor, or written back when the region is disabled (R288,
R290, R296). Stalled requests of a disabled region are released. -/
def State.reloadRegion (s : State) (id : Nat) : State :=
  let old := s.regions.find? (fun p => decide (p.1 = id))
  match s.regionDesc id, old with
  | some d, none =>
    let views := (s.regionSlices d).foldl (fun v k => SMap.set 0 v (4096 * k + id) d.counter) s.sliceViews
    let h := s.micro.homeLine ((s.qtable + 0x40000 + 64 * id) / 64)
    { s with regions := SMap.put s.regions id { d with wts := h.wts, rts := h.wts }, sliceViews := views }
  | some d, some (_, o) =>
    { s with regions := SMap.put s.regions id { d with counter := o.counter, subscribers := o.subscribers, wts := o.wts, rts := o.rts, ports := o.ports } }
  | none, some (_, o) =>
    let a := s.qtable + 0x40000 + 64 * id + 16
    let s := { s with regions := SMap.del s.regions id,
                      sliceViews := (List.range 32).foldl (fun v k => SMap.del v (4096 * k + id)) s.sliceViews }
    let d : DirEntry := SMap.get {} s.micro.dir (a / 64)
    let s := s.physPut a (natToBytes 8 o.counter.toNat) o.wts
    let r := s.micro.dropDerivedAll (if s.micro.roundDue (a / 64) false then d.sharers else []) (a / 64)
    let s := ({ s with micro := r.1.roundReset (a / 64) false }).post r.2
    let rel := s.stalled.filter (fun (q : Stalled) => decide (q.region = id))
    { s with stalled := s.stalled.filter (fun q => decide (q.region ≠ id)), due := s.due ++ rel.map (·.self) }
  | none, none => s

/-! ### Rounds taken (R319, R321) -/

/-- The cores of a cluster (R18). -/
def coresOf (cl : Nat) : List Nat := [4 * cl, 4 * cl + 1, 4 * cl + 2, 4 * cl + 3]

/-- The package as a party that reaches memory by physical address for itself (R395). -/
def deviceWho (clk : Nat) : Who := { portWho 0 clk with device := true }

/-- The party that a tracking read is reported for. -/
def partyWho : Party → Who
  | .core k => { portWho 0 0 with core := k }
  | .hub c => { portWho 0 0 with core := 4 * c }
  | .dispenser c => { portWho 0 0 with core := 4 * c }
  | _ => deviceWho 0

/-- A tracking read by a party of the package, with the notices of a round on a reused entry (R317, R321); a watch tests it as any read (R394). -/
def State.track (s : State) (p : Party) (line : Nat) : State :=
  let a := s.micro.register s.needs p line
  watchReport (({ s with micro := a.1 }).post a.2) (partyWho p) (.main (64 * line)) true false

/-- A region's record reads its line of the table with a tracking read (R288, R321). -/
def State.trackRecord (s : State) (id : Nat) : State :=
  let line := (s.qtable + 0x40000) / 64 + id
  if 64 * line + 64 > s.capacity then s else s.track (.regionRecord (s.micro.homeOf (64 * line)) id) line

/-- Every hub reads the mesh weight table, and the S-die the window table, with tracking reads (R321, R354, R381). -/
def State.trackTables (s : State) : State :=
  let read (s : State) (p : Party) (line : Nat) : State := if 64 * line + 64 > s.capacity then s else s.track p line
  let w := (s.qtable + 0xC0000) / 64
  let s := (List.range 64).foldl (fun s c => read (read s (.hub c) w) (.hub c) (w + 1)) s
  (List.range 4).foldl (fun s i => read s .sdie ((s.qtable + 0xD0000) / 64 + i)) s

/-- A party takes an INV: it drops what it derived from the line, or reloads its copy by a tracking read (R319, R321). A hub passes the INV
to its cores, its dispenser and itself. -/
def takeInv (s : State) (p : Party) (line : Nat) : State :=
  match p with
  | .core k =>
    let a := s.micro.dropDerived k line
    ({ s with micro := a.1 }).post a.2
  | .hub c =>
    let a := s.micro.dropDerivedAll (coresOf c) line
    let s := ({ s with micro := a.1 }).post a.2
    match s.holderOf c line with
    | some p => s.track p line
    | none => s
  | .dispenser c =>
    match s.holderOf c line with
    | some p => s.track p line
    | none => s
  | .sdie => if s.needs .sdie line then s.track .sdie line else s
  | .regionRecord _ id =>
    let s := s.reloadRegion id
    if s.needs p line then s.track p line else s

/-- Every party of a round takes its INV within the step: a store of a barge or of the device, which goes on only when the acks are in
(R319). -/
def takeRound (s : State) (line : Nat) (ps : List Party × Nat) : State := ps.1.foldl (fun s p => takeInv s p line) s

/-- A store of the device's own bookkeeping through a leaf, with its round. -/
def storeDevice (s : State) (w : Who) (t : Target) (bs : ByteList) : State :=
  let a := storeQuiet s w t bs none
  takeRound a.2.2 t.loc.line a.2.1

/-- A write by physical address, at the home, with its round (R159, R321, R326). -/
def State.physStore (s : State) (pa : Nat) (bs : ByteList) (c : Nat) : State :=
  let ps := s.roundParties (pa / 64) false
  let s := s.physPut pa bs c
  takeRound { s with micro := s.micro.roundReset (pa / 64) false } (pa / 64) ps

/-- A write of the device's own bookkeeping by physical address, which a watch tests as any other (R394). -/
def State.physWrite (s : State) (pa : Nat) (bs : ByteList) (c : Nat) : State :=
  watchReport (s.physStore pa bs c) (deviceWho c) (.main pa) true true

/-! ### Accesses of the executing thread -/

def State.myWho (s : State) : Who := whoOf s s.cur

/-- Check an access of the executing thread. -/
def checkMe (s : State) (va : Word) (n : Need) : Except Nat Target × State := check s s.myWho va.toNat n

/-- The trace of an access of the executing thread at tree address `va`: the level that served it, or that answered the miss after which it
issued again (R396). -/
def traceAccess (s : State) (va level : Nat) : State :=
  let x := s.me
  (s.setMe { x with served := 0 }).traceMe 7 (BitVec.ofNat 64 (va % 2 ^ 56 + (if x.served = 0 then level else x.served) * 2 ^ 61))

/-- The load of a line has been made for the executing thread at `va`: its clock and its trace. -/
def loadedMe (s : State) (a : Loaded) (va : Nat) : State := traceAccess (a.st.setClk s.cur a.clk) va a.level

/-- Load the line at a target for the executing thread, as one member of the order, and go on with it; where the line is not at hand
the thread waits for it with kind 1 and issues again (R83, R303, R305). -/
def withLine (s : State) (t : Target) (obj : Nat) (f : LineData × Word → State → State) : State :=
  match loadLine s s.myWho t with
  | .error s => leave s 1 obj .reissue
  | .ok a => f a.line (loadedMe s a obj)

/-- The `n` bytes at offset `o` of a line, little-endian. -/
def lineBytes (d : LineData) (o n : Nat) : Nat := (d.toNat >>> (8 * o)) % 2 ^ (8 * n)

/-- Load `n` bytes at a target for the executing thread: one member of the order. -/
def withBytes (s : State) (t : Target) (n obj : Nat) (f : Nat → State → State) : State :=
  withLine s t obj (fun l s => f (lineBytes l.1 t.loc.off n) s)

/-- The invalidation round of a thread's access: its INVs are sent, and the thread waits for the acks (R319). -/
def sendRound (s : State) (line : Nat) (ps : List Party × Nat) : State :=
  let s := s.setMe { s.me with acksDue := ps.2 }
  s.post (ps.1.map (fun p => .invReceive p line (SMap.get {} s.micro.dir line).round s.cur))

/-- A store of the executing thread at `va` has been made, which `level` served. -/
def storedMe (t : Target) (a : Stored) (va level : Nat) : State :=
  sendRound (traceAccess (a.2.2.setClk a.2.2.cur a.1) va level) t.loc.line a.2.1

/-- The level that serves a store: the L1 that owns the line, or the home (R396). -/
def storeLevel (s : State) (w : Who) (t : Target) (atHome : Bool) : Nat :=
  match t.loc.place with
  | some pa => if storesAtHome s w t pa atHome then s.micro.homeLevel (pa / 64) else 1
  | none => 4

/-- The home has answered the executing thread's request: its instruction retires when the reply, and the acks of its
round, have arrived (R83, R319). -/
def answer (s : State) : State :=
  let s := s.setMe { s.me with pend := .reply }
  if s.me.acksDue = 0 then s.post [.memoryReply s.cur.core s.cur.ctx] else s

/-- The thread's store or atomic waits for its reply and for the acks of its round (R83, R319). -/
def awaitStore (s : State) (obj : Nat) : State :=
  if s.me.acksDue = 0 then awaitReply s obj else leave s 1 obj .reply

/-- Store bytes at a target for the executing thread: it waits for the acknowledgement, or, where the line is not at hand, for the line,
to issue again (R83, R303, R305). -/
def storeMe (s : State) (t : Target) (bs : ByteList) (side : Option Word) (atHome : Bool) (obj : Nat) : State :=
  match storeLine s s.myWho t bs side atHome with
  | .error s => leave s 1 obj .reissue
  | .ok a => awaitStore (storedMe t a obj (storeLevel s s.myWho t atHome)) obj

end Sys2Proof.Machine
end

