-- ==== Sys2Proof/Machine/Num.lean ====
section
/-! DEFINITION. Number formats and exact arithmetic (R54 to R80): values are exact until the one place that rounds them. -/

namespace Sys2Proof.Machine

/-- The exception flags of `cr.fflags` (R60). -/
abbrev Flags5 := BitVec 5
def fNv : Flags5 := 0b00001
def fDz : Flags5 := 0b00010
def fOf : Flags5 := 0b00100
def fUf : Flags5 := 0b01000
def fNx : Flags5 := 0b10000

/-- Rounding modes (R59, R221): nearest-even, toward zero, toward +∞, toward −∞. -/
inductive Rnd where
  | ne | rz | ru | rd
  deriving DecidableEq, Repr

/-- The mode a VCVT function field holds (R221). -/
def Rnd.ofBits (m : BitVec 2) : Rnd :=
  match m.toNat with
  | 0 => .ne
  | 1 => .rz
  | 2 => .ru
  | _ => .rd

/-- The classes of R54. -/
inductive FClass where
  | b8 | b32 | cb2 | bad
  deriving DecidableEq, Repr

/-- The class of a format code (R54). -/
def fclass (c : Nat) : FClass :=
  if c ≤ 3 then .b8 else if c ≤ 6 then .b32 else if 8 ≤ c ∧ c ≤ 15 then .cb2 else .bad

def isInt (c : Nat) : Bool := c == 1 || c == 2 || c == 4 || c == 5
def isReal (c : Nat) : Bool := c == 3 || c == 6

/-- The range of an integer format (R57). -/
def intRange (c : Nat) : Int × Int :=
  match c with
  | 1 => (-128, 127)
  | 2 => (0, 255)
  | 4 => (-2147483648, 2147483647)
  | _ => (0, 4294967295)

/-! ### Exact values -/

def XVal.zero : XVal := .fin 0 0

def XVal.isNaN : XVal → Bool
  | .nan => true
  | .inf _ => false
  | .negZero => false
  | .fin _ _ => false

def XVal.isZero : XVal → Bool
  | .nan => false
  | .inf _ => false
  | .negZero => true
  | .fin m _ => m == 0

/-- `m * 2 ^ e` with the exponent lowered to `e'` (`e' ≤ e`). -/
def lowerTo (m : Int) (e e' : Int) : Int := m * (2 ^ (e - e').toNat : Nat)

/-- The exact value times `2 ^ s` (R64); NaN stays NaN. -/
def XVal.scale (v : XVal) (s : Int) : XVal :=
  match v with
  | .fin m e => .fin m (e + s)
  | .nan => .nan
  | .inf n => .inf n
  | .negZero => .negZero

def XVal.neg : XVal → XVal
  | .nan => .nan
  | .inf n => .inf (!n)
  | .negZero => .zero
  | .fin m e => if m = 0 then .negZero else .fin (-m) e

def XVal.abs : XVal → XVal
  | .nan => .nan
  | .inf _ => .inf false
  | .negZero => .zero
  | .fin m e => .fin m.natAbs e

/-- Exact sum with its invalid flag (R59: an exact zero sum is +0 unless both addends are −0; ∞ − ∞ is invalid). -/
def XVal.add (x y : XVal) : XVal × Flags5 :=
  match x, y with
  | .nan, _ => (.nan, 0)
  | _, .nan => (.nan, 0)
  | .inf a, .inf b => if a = b then (.inf a, 0) else (.nan, fNv)
  | .inf a, _ => (.inf a, 0)
  | _, .inf b => (.inf b, 0)
  | .negZero, .negZero => (.negZero, 0)
  | .negZero, .fin m e => (.fin m e, 0)
  | .fin m e, .negZero => (.fin m e, 0)
  | .fin m e, .fin m' e' =>
    let l := min e e'
    (.fin (lowerTo m e l + lowerTo m' e' l) l, 0)

def XVal.isNeg : XVal → Bool
  | .nan => false
  | .inf n => n
  | .negZero => true
  | .fin m _ => decide (m < 0)

/-- Exact product with its invalid flag (R59: zero times infinity). -/
def XVal.mul (x y : XVal) : XVal × Flags5 :=
  match x, y with
  | .nan, _ => (.nan, 0)
  | _, .nan => (.nan, 0)
  | .inf a, y => if y.isZero then (.nan, fNv) else (.inf (a != y.isNeg), 0)
  | x, .inf b => if x.isZero then (.nan, fNv) else (.inf (x.isNeg != b), 0)
  | .negZero, y => (if y.isNeg then .zero else .negZero, 0)
  | x, .negZero => (if x.isNeg then .zero else .negZero, 0)
  | .fin m e, .fin m' e' =>
    if m = 0 ∨ m' = 0 then (if (decide (m < 0)) != (decide (m' < 0)) then .negZero else .zero, 0)
    else (.fin (m * m') (e + e'), 0)

/-- x × y + z before its one rounding (R59, R218). -/
def XVal.fma (x y z : XVal) : XVal × Flags5 :=
  let (p, f) := x.mul y
  let (s, g) := p.add z
  (s, f ||| g)

/-- The order of two values neither of which is NaN: `x < y`, with −0 equal to +0. -/
def XVal.lt (x y : XVal) : Bool :=
  match x, y with
  | .nan, _ => false
  | _, .nan => false
  | .inf a, .inf b => a && !b
  | .inf a, _ => a
  | _, .inf b => !b
  | .negZero, .negZero => false
  | .negZero, .fin m _ => decide (0 < m)
  | .fin m _, .negZero => decide (m < 0)
  | .fin m e, .fin m' e' =>
    let l := min e e'
    decide (lowerTo m e l < lowerTo m' e' l)

def XVal.eq (x y : XVal) : Bool := !x.isNaN && !y.isNaN && !x.lt y && !y.lt x

/-- Minimum and maximum of R218 and R79: NaN if either is, −0 below +0. -/
def XVal.min (x y : XVal) : XVal :=
  if x.isNaN || y.isNaN then .nan
  else if x.lt y then x else if y.lt x then y else if x.isNeg then x else y
def XVal.max (x y : XVal) : XVal :=
  if x.isNaN || y.isNaN then .nan
  else if x.lt y then y else if y.lt x then x else if x.isNeg then y else x

/-! ### Rounding -/

/-- `mag * 2 ^ e` (mag > 0) rounded to `p` significant bits with no place below `2 ^ emin`: quotient, its place, inexact. -/
def roundMag (neg : Bool) (mag : Nat) (e : Int) (p : Nat) (emin : Option Int) (mode : Rnd) : Nat × Int × Bool :=
  let top := (Nat.log2 mag : Int) - (p - 1) + e
  let qe := match emin with | none => top | some l => if top < l then l else top
  if qe ≤ e then (mag * 2 ^ (e - qe).toNat, qe, false)
  else
    let sh := (qe - e).toNat
    let q := mag / 2 ^ sh
    let r := mag % 2 ^ sh
    let half := 2 ^ (sh - 1)
    let up := match mode with
      | .ne => decide (half < r) || (r == half && q % 2 == 1)
      | .rz => false
      | .ru => r != 0 && !neg
      | .rd => r != 0 && neg
    (if up then q + 1 else q, qe, r != 0)

def canonNaN : BitVec 32 := 0x7FC00000

/-- Round an exact value to f32 (R59): result bits and flags. -/
def roundF32 (mode : Rnd) (v : XVal) : BitVec 32 × Flags5 :=
  match v with
  | .nan => (canonNaN, 0)
  | .inf n => (if n then 0xFF800000 else 0x7F800000, 0)
  | .negZero => (0x80000000, 0)
  | .fin m e =>
    if m = 0 then (0, 0) else
    let neg := decide (m < 0)
    let mag := m.natAbs
    let sign : Nat := if neg then 2 ^ 31 else 0
    let (q, qe, nx) := roundMag neg mag e 24 (some (-149)) mode
    if q * 2 ^ (qe + 149).toNat ≥ 2 ^ (128 + 149) then
      let toInf := match mode with | .ne => true | .rz => false | .ru => !neg | .rd => neg
      (BitVec.ofNat 32 (sign + (if toInf then 0x7F800000 else 0x7F7FFFFF)), fOf ||| fNx)
    else
      let (uq, ue, _) := roundMag neg mag e 24 none mode
      let tiny := if 0 ≤ ue + 126 then false else decide (uq < 2 ^ (-126 - ue).toNat)
      let bits := if q < 2 ^ 23 then q else (qe + 150).toNat * 2 ^ 23 + q - 2 ^ 23
      (BitVec.ofNat 32 (sign + bits), if nx then (if tiny then fUf ||| fNx else fNx) else 0)

/-- Convert a real value to lf8 (R63). -/
def roundLf8 (mode : Rnd) (v : XVal) : BitVec 8 × Flags5 :=
  match v with
  | .nan => (0x80, 0)
  | .inf n => (if n then 0xFF else 0x7F, fNv)
  | .negZero => (0, 0)
  | .fin m e =>
    if m = 0 then (0, 0) else
    let neg := decide (m < 0)
    let mag := m.natAbs
    let (q, qe, nx) := roundMag neg mag e 4 (some (-9)) mode
    if 480 * 2 ^ 9 < q * 2 ^ (qe + 9).toNat then (if neg then 0xFF else 0x7F, fOf ||| fNx)
    else
      let (uq, ue, _) := roundMag neg mag e 4 none mode
      let tiny := if 0 ≤ ue + 6 then false else decide (uq < 2 ^ (-6 - ue).toNat)
      let bits := if q < 8 then q else (qe + 10).toNat * 8 + q - 8
      let fl := if nx then (if tiny then fUf ||| fNx else fNx) else 0
      (if bits = 0 then 0 else BitVec.ofNat 8 (bits + (if neg then 128 else 0)), fl)

/-- Round a real value to an integer (R70): the integer and whether it differs. -/
def roundInt (mode : Rnd) (m e : Int) : Int × Bool :=
  if 0 ≤ e then (lowerTo m e 0, false)
  else
    let sh := (-e).toNat
    let neg := decide (m < 0)
    let mag := m.natAbs
    let q := mag / 2 ^ sh
    let r := mag % 2 ^ sh
    let half := 2 ^ (sh - 1)
    let up := match mode with
      | .ne => decide (half < r) || (r == half && q % 2 == 1)
      | .rz => false
      | .ru => r != 0 && !neg
      | .rd => r != 0 && neg
    let q' : Int := if up then q + 1 else q
    (if neg then -q' else q', r != 0)

/-- Convert a real value to an integer format: saturation raises nv without nx; NaN gives 0 and nv (R70). -/
def realToInt (c : Nat) (mode : Rnd) (v : XVal) : Int × Flags5 :=
  let (lo, hi) := intRange c
  match v with
  | .nan => (0, fNv)
  | .inf n => (if n then lo else hi, fNv)
  | .negZero => (0, 0)
  | .fin m e =>
    let (q, nx) := roundInt mode m e
    if q < lo then (lo, fNv) else if hi < q then (hi, fNv) else (q, if nx then fNx else 0)

/-- Saturate an exact integer to an integer format, no flag (R67). -/
def saturate (c : Nat) (x : Int) : Int :=
  let (lo, hi) := intRange c
  if x < lo then lo else if hi < x then hi else x

/-! ### Decoding element patterns -/

/-- f32 bits as an exact value; a signalling NaN is treated as quiet (R59). -/
def ofF32 (b : BitVec 32) : XVal :=
  let neg := b.getLsbD 31
  let ex := bitsOf b 30 23
  let fr := bitsOf b 22 0
  if ex = 255 then (if fr = 0 then .inf neg else .nan)
  else
    let m : Nat := if ex = 0 then fr else fr + 2 ^ 23
    let e : Int := if ex = 0 then -149 else (ex : Int) - 150
    if m = 0 then (if neg then .negZero else .zero) else .fin (if neg then -(m : Int) else m) e

/-- An lf8 byte as an exact value (R62). -/
def ofLf8 (b : BitVec 8) : XVal :=
  if b = 0x80 then .nan
  else
    let neg := b.getLsbD 7
    let ex := bitsOf b 6 3
    let fr := bitsOf b 2 0
    let m : Nat := if ex = 0 then fr else fr + 8
    let e : Int := if ex = 0 then -9 else (ex : Int) - 10
    .fin (if neg then -(m : Int) else m) e

/-- The integer an element's pattern holds under an integer code (R57). -/
def patInt (c : Nat) (p : BitVec 32) : Int :=
  match c with
  | 1 => (p.setWidth 8).toInt
  | 2 => bitsOf p 7 0
  | 4 => p.toInt
  | _ => p.toNat

/-- The value of a pattern under a code and scale (R64); raw, cb2 and reserved codes have none. -/
def patValue (c : Nat) (s : Int) (p : BitVec 32) : Option XVal :=
  match c with
  | 1 => some (.fin (patInt 1 p) s)
  | 2 => some (.fin (patInt 2 p) s)
  | 3 => some ((ofLf8 (p.setWidth 8)).scale s)
  | 4 => some (.fin (patInt 4 p) s)
  | 5 => some (.fin (patInt 5 p) s)
  | 6 => some ((ofF32 p).scale s)
  | _ => none

/-! ### Scales and encoding results -/

/-- The signed scale byte (R34, R64). -/
def scaleInt (b : BitVec 8) : Int := b.toInt

/-- The largest value of a format (R69). -/
def fmtMax (c : Nat) : Nat :=
  match c with
  | 3 => 480
  | 1 => 127
  | 2 => 255
  | 4 => 2147483647
  | _ => 4294967295

/-- The least s with a / 2 ^ s ≤ M, that is ceil(log2(a / M)), clamped (R69), for the finite magnitude `m * 2 ^ e`. -/
def amaxOf (c : Nat) (m : Nat) (e : Int) : Int :=
  if m = 0 then 0 else
  let M := fmtMax c
  let s0 : Int := (Nat.log2 m : Int) + e - (Nat.log2 M : Int)
  let l := min e s0
  let s := if lowerTo m e l ≤ lowerTo M s0 l then s0 else s0 + 1
  if s < -127 then -127 else if 127 < s then 127 else s

/-- The scale the amax policy chooses for the results of a line (R69). -/
def amaxScale (c : Nat) (xs : List XVal) : Int :=
  if c = 6 then 0 else
  let r := xs.foldl (fun (acc : XVal) x => if x.isNaN then acc else if acc.lt x.abs then x.abs else acc) .zero
  match r with
  | .inf _ => 127
  | .fin m e => amaxOf c m.natAbs e
  | .nan => 0
  | .negZero => 0

/-- `round_to(x, f, mode)` of R122: the pattern and the flags. -/
def roundTo (c : Nat) (mode : Rnd) (v : XVal) : BitVec 32 × Flags5 :=
  if c = 3 then let (b, f) := roundLf8 mode v; (b.setWidth 32, f)
  else if c = 6 then roundF32 mode v
  else let (x, f) := realToInt c mode v; (BitVec.ofInt 32 x, f)

/-- Encode a real-domain result under a line's scale (R68): division by 2 ^ s is exact, then one rounding. -/
def encodeReal (c : Nat) (s : Int) (mode : Rnd) (v : XVal) : BitVec 32 × Flags5 := roundTo c mode (v.scale (-s))

/-! ### Pads (R71) -/

/-- The pad of an integer tile as an exact integer. -/
def padInt (c kind : Nat) : Int :=
  match kind with
  | 1 => (intRange c).1
  | 2 => (intRange c).2
  | _ => 0

/-- The pad of a tile as an exact value. -/
def padValue (c kind : Nat) : XVal :=
  if isInt c then .fin (padInt c kind) 0
  else if c = 3 then
    match kind with
    | 1 => .fin (-480) 0
    | 2 => .fin 480 0
    | 3 => .nan
    | _ => .zero
  else if c = 6 then
    match kind with
    | 1 => .inf true
    | 2 => .inf false
    | 3 => .nan
    | _ => .zero
  else .zero

/-- A pad kind that R71 calls invalid for the format. -/
def padBad (c kind : Nat) : Bool :=
  if c = 0 then kind != 0 else if isInt c then kind == 3 else false

/-! ### cb2 (R72, R73) -/

/-- Weight j of a 16-bit index, the table's row read as 16 bits: w_j × 2 ^ s, in quarters. -/
def cb2Weight (index row : BitVec 16) (j : Nat) (s : Int) : XVal :=
  let signs := bitsOf index 7 1
  let par := (List.range 7).foldl (fun a i => a != (signs.testBit i)) false
  let neg := if j = 7 then par else signs.testBit j
  let m : Int := bitsOf row (2 * j + 1) (2 * j)
  let half : Int := 4 * m + 2
  let q : Int := (if neg then -half else half) + (if index.getLsbD 0 then 1 else 0)
  .fin q (s - 2)

/-! ### Special functions (R74): fixed-point values with 256 fractional bits -/

def fixP : Nat := 256

/-- 2 × artanh(z) for a fixed-point z ≤ 1/3: 2 Σ z^(2k+1)/(2k+1). -/
def artanh2 : Nat → Nat → Nat → Nat → Nat
  | 0, _, _, _ => 0
  | n + 1, k, pw, z2 => 2 * pw / (2 * k + 1) + artanh2 n (k + 1) (pw * z2 / 2 ^ fixP) z2

/-- ln 2 = 2 artanh(1/3). -/
def ln2Fix : Nat :=
  let z := 2 ^ fixP / 3
  artanh2 100 0 z (z * z / 2 ^ fixP)

/-- e^t − 1 for a fixed-point 0 ≤ t < 1 by its series. -/
def expm1Fix : Nat → Nat → Nat → Nat → Nat
  | 0, _, _, _ => 0
  | n + 1, k, term, t =>
    let term' := term * t / 2 ^ fixP / k
    term' + expm1Fix n (k + 1) term' t

/-- A value known to lie strictly between `mag` and `mag + 1` at exponent `e`. -/
def sticky (neg : Bool) (mag : Nat) (e : Int) : XVal :=
  .fin (if neg then -(2 * mag + 1 : Int) else (2 * mag + 1 : Int)) (e - 1)

/-- Integer square root by bits, `n` bits of result. -/
def isqrt : Nat → Nat → Nat → Nat
  | 0, _, r => r
  | n + 1, x, r => let c := r + 2 ^ n; isqrt n x (if c * c ≤ x then c else r)

/-- The odd part of a number is one. -/
def powerOfTwo (m : Nat) : Bool := m != 0 && 2 ^ Nat.log2 m == m

/-- The real 1/x (R74). -/
def xRcp (v : XVal) : XVal × Flags5 :=
  match v with
  | .nan => (.nan, 0)
  | .inf n => (if n then .negZero else .zero, 0)
  | .negZero => (.inf true, fDz)
  | .fin m e =>
    if m = 0 then (.inf false, fDz) else
    let neg := decide (m < 0)
    let k := m.natAbs
    let sgn (x : Int) : Int := if neg then -x else x
    if powerOfTwo k then (.fin (sgn 1) (-e - Nat.log2 k), 0)
    else (sticky neg (2 ^ fixP / k) (-e - fixP), 0)

/-- The real 1/√x (R74). -/
def xRsq (v : XVal) : XVal × Flags5 :=
  match v with
  | .nan => (.nan, 0)
  | .inf n => if n then (.nan, fNv) else (.zero, 0)
  | .negZero => (.inf true, fDz)
  | .fin m e =>
    if m = 0 then (.inf false, fDz) else if m < 0 then (.nan, fNv) else
    let (k, e') := if e % 2 = 0 then (m.natAbs, e) else (2 * m.natAbs, e - 1)
    let h := e' / 2
    if powerOfTwo k ∧ Nat.log2 k % 2 = 0 then (.fin 1 (-h - (Nat.log2 k / 2 : Nat)), 0)
    else (sticky false (isqrt (fixP + 1) (2 ^ (2 * fixP) / k) 0) (-h - fixP), 0)

/-- The real 2^x (R74). -/
def xExp2 (v : XVal) : XVal × Flags5 :=
  match v with
  | .nan => (.nan, 0)
  | .inf n => (if n then .zero else .inf false, 0)
  | .negZero => (.fin 1 0, 0)
  | .fin m e =>
    if 0 ≤ e ∧ m ≠ 0 ∧ e > 10 then (if m < 0 then .fin 1 (-1000) else .fin 1 1000, 0) else
    let x : Int := if 0 ≤ e then lowerTo m e (-(fixP : Int)) else
      (if e < -(fixP : Int) then 0 else lowerTo m e (-(fixP : Int)))
    let n := x / (2 ^ fixP : Int)
    let f := (x % (2 ^ fixP : Int)).toNat
    if 200 < n then (.fin 1 1000, 0) else if n < -1000 then (.fin 1 (-1000), 0)
    else if f = 0 then (.fin 1 n, 0)
    else (sticky false (2 ^ fixP + expm1Fix 80 1 (2 ^ fixP) (f * ln2Fix / 2 ^ fixP)) (n - fixP), 0)

/-- The real log2 x (R74). -/
def xLog2 (v : XVal) : XVal × Flags5 :=
  match v with
  | .nan => (.nan, 0)
  | .inf n => if n then (.nan, fNv) else (.inf false, 0)
  | .negZero => (.inf true, fDz)
  | .fin m e =>
    if m = 0 then (.inf true, fDz) else if m < 0 then (.nan, fNv) else
    let k := m.natAbs
    let l := Nat.log2 k
    let E : Int := l + e
    if powerOfTwo k then (.fin E 0, 0)
    else
      -- y = k / 2^l in (1, 2); ln y = 2 artanh((y − 1) / (y + 1))
      let z := (k - 2 ^ l) * 2 ^ fixP / (k + 2 ^ l)
      let ln := artanh2 100 0 z (z * z / 2 ^ fixP)
      let r : Int := E * 2 ^ fixP + (ln * 2 ^ fixP / ln2Fix : Nat)
      (if r < 0 then sticky true r.natAbs (-(fixP : Int)) else sticky false r.natAbs (-(fixP : Int)), 0)

/-- The real tanh x (R74). -/
def xTanh (v : XVal) : XVal × Flags5 :=
  match v with
  | .nan => (.nan, 0)
  | .inf n => (.fin (if n then -1 else 1) 0, 0)
  | .negZero => (.negZero, 0)
  | .fin m e =>
    if m = 0 then (.zero, 0) else
    let neg := decide (m < 0)
    let k := m.natAbs
    if 5 < (Nat.log2 k : Int) + e then (sticky neg (2 ^ 100 - 1) (-100), 0)
    else
      let t := (lowerTo k (e + 1) (min (e + 1) (-(fixP : Int)))).toNat
      let n := t / ln2Fix
      let r := t - n * ln2Fix
      let a := 2 ^ fixP + expm1Fix 80 1 (2 ^ fixP) r
      let num := if n = 0 then expm1Fix 80 1 (2 ^ fixP) r else a * 2 ^ n - 2 ^ fixP
      let den := a * 2 ^ n + 2 ^ fixP
      (sticky neg (num * 2 ^ fixP / den) (-(fixP : Int)), 0)

/-- VFUNC's function by member (R222). -/
def specialFn (k : Nat) (v : XVal) : XVal × Flags5 :=
  match k with
  | 1 => xExp2 v
  | 2 => xLog2 v
  | 3 => xRcp v
  | 4 => xRsq v
  | _ => xTanh v

/-- A special function correctly rounded to f32 (R74): nx exactly when inexact; `large finite` inputs of VEXP2 raise the
flags of the rounding. -/
def specialF32 (k : Nat) (v : XVal) : BitVec 32 × Flags5 :=
  let (r, f) := specialFn k v
  let (b, g) := roundF32 .ne r
  (b, f ||| g)

end Sys2Proof.Machine
end

