-- ==== Sys2Proof/Machine/Flags.lean ====
section
/-! DEFINITION. The exception flags of R60: where raised flags are gathered and ORed (R61, R95, R330). -/

namespace Sys2Proof.Machine

/-- OR flags into the executing thread's `cr.fflags` (R61). -/
def State.orFlags (s : State) (f : Flags5) : State := s.setMe { s.me with fflags := s.me.fflags ||| f }

/-- The resident context that holds thread `tid`, on any core. -/
def State.residentTid (s : State) (tid : Nat) : Option ThreadRef :=
  s.cores.findSome? (fun c => (c.2.resident.find? (fun p => decide (p.2.tid = tid))).map (fun p => ⟨c.1, p.1⟩))

/-- Whether thread `tid` still exists, resident or spilled (R95, R97). -/
def State.threadExists (s : State) (tid : Nat) : Bool :=
  (s.residentTid tid).isSome || decide (SMap.get 0 s.spilled tid ≠ 0)

/-- The party that writes a spilled context's save area on the device's behalf (R330). -/
def saveWho (s : State) (core : Nat) : Who := ⟨core, core, 15, .m, 0, s.micro.minClk, 1, none, none, false⟩

/-- A doubleword of a save area read and written by the device (R330), by the tables of `core`; `none` where it cannot be
reached. -/
def saveTarget (s : State) (core : Nat) (a : Word) : Option Target × State :=
  match check s (saveWho s core) a.toNat { r := true, w := true, size := 8 } with
  | (.ok t, s) => (some t, s)
  | (.error _, s) => (none, s)

/-- A barge completes or is cancelled: its gathered flags are ORed into its issuer's `cr.fflags`, in the core or in the
image of its save area, where the outstanding count falls as well; flags of a thread that is gone are discarded (R61, R95,
R330). -/
def mergeFlags (s : State) (tid core : Nat) (f : Flags5) : State :=
  match s.residentTid tid with
  | some r => s.setCtx r { s.ctxOf r with fflags := (s.ctxOf r).fflags ||| f }
  | none =>
    let a := SMap.get 0 s.spilled tid
    if a = 0 then s
    else
      match saveTarget s core (a + 0x10) with
      | (none, s) => s
      | (some t, s) =>
        let old := bytesToNat (s.bytesAt t.loc 8)
        let s := storeDevice s (saveWho s core) t (natToBytes 8 (BitVec.ofNat 64 old ||| f.setWidth 64).toNat)
        match saveTarget s core (a + 0x310) with
        | (none, s) => s
        | (some t, s) =>
          let n := bytesToNat (s.bytesAt t.loc 8)
          storeDevice s (saveWho s core) t (natToBytes 8 (n - 1))

end Sys2Proof.Machine
end

