-- ==== Sys2Proof/Machine/Operands.lean ====
section
/-! DEFINITION. Operand forms: immediates under IMMX (R107, R117), path values (R114), tile descriptors and the geometry of
tiles (R30 to R51, R90, R91, R202), handles and reply routes (R89, R162). -/

namespace Sys2Proof.Machine

/-! ### Immediates -/

/-- The immediate of an I- or S-form word (R107, R117). -/
def Context.imm (x : Context) (i : BitVec 15) : Word :=
  match x.chain.immx with
  | some p => sext (p.toNat * 2 ^ 15 + i.toNat) 40
  | none => i.signExtend 64

/-- The zero-extended immediate of LIH, or the 40-bit value under IMMX (R117, R132). -/
def Context.immZ (x : Context) (i : BitVec 15) : Word :=
  match x.chain.immx with
  | some p => sext (p.toNat * 2 ^ 15 + i.toNat) 40
  | none => i.setWidth 64

/-- The effective address of an I- or S-form access, before alias resolution (R146). -/
def State.ea (s : State) (a : BitVec 5) (i : BitVec 15) : Word := s.S a + s.me.imm i

/-! ### Placement (R33) -/

/-- Interleave `n` bits of a row and a column (R33). -/
def morton : Nat → Nat → Nat → Nat
  | 0, _, _ => 0
  | n + 1, r, c => c % 2 + 2 * (r % 2) + 4 * morton n (r / 2) (c / 2)

/-- The even bits of `n` digits: the column. -/
def colsOf : Nat → Nat → Nat
  | 0, _ => 0
  | n + 1, v => v % 2 + 2 * colsOf n (v / 4)

/-- The odd bits of `n` digits: the row. -/
def rowsOf (n v : Nat) : Nat := colsOf n (v / 2)

/-! ### Path values (R114) -/

/-- A path value: count and digits. -/
structure Path where
  count : Nat
  p : Nat
  deriving DecidableEq, Repr

/-- Read a path value; `none` where R114 refuses it. -/
def pathOf (v : Word) : Option Path :=
  let k := bitsOf v 61 56
  let p := bitsOf v 55 0
  if bitsOf v 63 62 ≠ 0 ∨ k > 28 ∨ p ≥ 4 ^ k then none else some ⟨k, p⟩

/-- The register value of a path. -/
def Path.value (q : Path) : Word := BitVec.ofNat 64 (q.count * 2 ^ 56 + q.p)

/-! ### Tile descriptors (R90, R91) -/

/-- The fields of a tile descriptor (R90). -/
structure Tile where
  base : Nat
  order : Nat
  fmt : Nat
  rows : Nat
  cols : Nat
  pad : Nat
  trans : Bool
  policy : Nat
  fixed : BitVec 8
  reserved : Nat
  deriving DecidableEq, Repr

def Tile.ofBits (b : BitVec 128) : Tile :=
  ⟨bitsOf b 55 0, bitsOf b 59 56, bitsOf b 67 60, bitsOf b 78 68, bitsOf b 89 79, bitsOf b 91 90,
    b.getLsbD 92, bitsOf b 94 93, BitVec.ofNat 8 (bitsOf b 102 95), bitsOf b 127 103⟩

/-- Replace bits [hi:lo] of a descriptor. -/
def setBits128 (b : BitVec 128) (hi lo v : Nat) : BitVec 128 :=
  let mask : BitVec 128 := BitVec.ofNat 128 ((2 ^ (hi + 1 - lo) - 1) * 2 ^ lo)
  (b &&& ~~~mask) ||| (BitVec.ofNat 128 (v % 2 ^ (hi + 1 - lo) * 2 ^ lo))

/-- Block height of a tile (R39); a reserved code counts as 8-bit (R202). -/
def Tile.height (t : Tile) : Nat :=
  match fclass t.fmt with
  | .b32 => t.order + 1
  | .cb2 => t.order - 1
  | _ => t.order

/-- The side of a tile's block is valid against the address ranges (R51). -/
def blockInRange (base h : Nat) : Bool :=
  if base / 2 ^ 52 ≤ 0xE then true
  else if h ≤ 10 then true
  else decide (base / 4 ^ 14 ≠ 0x00F0000000000000 / 4 ^ 14) && decide (base / 4 ^ h ≠ 0x00FFFFFFFFF00000 / 4 ^ h)

/-- A descriptor is valid (R91). -/
def Tile.valid (t : Tile) : Bool :=
  decide (t.order ≤ 10) && decide (fclass t.fmt ≠ .bad) && decide (1 ≤ t.rows) && decide (t.rows ≤ 2 ^ t.order)
    && decide (1 ≤ t.cols) && decide (t.cols ≤ 2 ^ t.order) && !(decide (fclass t.fmt = .cb2) && decide (t.order < 2))
    && decide (t.base % 4 ^ t.height = 0) && decide (t.reserved = 0) && decide (t.policy ≠ 3) && !padBad t.fmt t.pad
    && blockInRange t.base t.height

/-- R32: two blocks overlap exactly when one contains the other. -/
def blocksOverlap (b1 h1 b2 h2 : Nat) : Bool := decide (b1 / 4 ^ max h1 h2 = b2 / 4 ^ max h1 h2)

/-- A descriptor with its alias base resolved to the window of `core` (R48). -/
def resolveDesc (core : Nat) (b : BitVec 128) : BitVec 128 :=
  let a := bitsOf b 55 0
  if 0x00FFFFFFFFF00000 ≤ a then setBits128 b 55 0 (0x00F0000000000000 + core % 256 * 0x100000 + a % 0x100000) else b

/-- The sub-tile of R202; `none` where the path is too long. -/
def subTile (b : BitVec 128) (k p : Nat) : Option (BitVec 128) :=
  let t := Tile.ofBits b
  let n := t.order
  let lim : Int := if fclass t.fmt = .cb2 then n - 2 else n
  if k > lim then none
  else
    let h := t.height
    let r0 := rowsOf k p * 2 ^ (n - k)
    let c0 := colsOf k p * 2 ^ (n - k)
    let (r0, c0) := if t.trans then (c0, r0) else (r0, c0)
    let b := setBits128 b 55 0 (t.base + p * 4 ^ (h - k))
    let b := setBits128 b 59 56 (n - k)
    let b := setBits128 b 78 68 (min (t.rows - r0) (2 ^ (n - k)))
    some (setBits128 b 89 79 (min (t.cols - c0) (2 ^ (n - k))))

/-! ### Handles and routes (R89, R162) -/

def handleValid (h : BitVec 32) : Bool := h.getLsbD 19
def handleCore (h : BitVec 32) : Nat := bitsOf h 18 11
def handleIndex (h : BitVec 32) : Nat := bitsOf h 10 0

/-- The layout of a handle (R89, R184): bits [63:20] are zero. -/
def handleForm (v : Word) : Bool := decide (bitsOf v 63 20 = 0)

/-- A reply route's core, context and slot; `none` where R162 or R164 refuses it. -/
def routeOf (v : Word) : Option (ThreadRef × Nat) :=
  let c := bitsOf v 6 2
  if bitsOf v 63 15 ≠ 0 ∨ c > 23 then none else some (⟨bitsOf v 14 7, c⟩, bitsOf v 1 0)

/-- The route of a slot of a context. -/
def routeWord (r : ThreadRef) (slot : Nat) : Word := BitVec.ofNat 64 (r.core % 256 * 128 + r.ctx % 32 * 4 + slot % 4)

end Sys2Proof.Machine
end

