-- ==== Sys2Proof/Machine/LoadStore.lean ====
section
/-! DEFINITION. Scalar loads and stores, LDX, the hazard interlock (R98, R146 to R150), TLDD and TSTD (R201). -/

namespace Sys2Proof.Machine

/-! ### The same-thread interlock (R98) -/

/-- The major opcode of a word (R105). -/
def opcodeOf (w : BitVec 32) : Nat := bitsOf w 31 25

/-- Lines of an operand per line of the destination, for tiles under one view: (operand lines, destination lines). -/
def lineRatio (src dst : Tile) : Nat × Nat :=
  match fclass src.fmt, fclass dst.fmt with
  | .b8, .b32 => (1, 4)
  | .b32, .b8 => (4, 1)
  | _, _ => (1, 1)

/-- Whether the lines of an elementwise operand at line number `l` are still to be read by units from `cursor` on. -/
def unreadElementwise (src dst : Tile) (l cursor : Nat) : Bool :=
  if src.trans ≠ dst.trans then true
  else
    let (a, b) := lineRatio src dst
    decide (cursor ≤ (l * b + b - 1) / a)

/-- The copy of an operand line that the barge has read and that later units use again (R52). -/
def Barge.kept (b : Barge) (va : Nat) : Option (LineData × Word) := (b.lines.find? (fun p => decide (p.1 = va / 64))).map (·.2)

/-- Whether a barge has still to read the line at resolved address `va` of one of its operand blocks (R98). The 512 bytes that CBLD reads
are counted with them (DEDUCED, log 54). -/
def Barge.unread (b : Barge) (va : Nat) : Bool :=
  if b.finished || (b.kept va).isSome then false
  else
    let op := opcodeOf b.cmd.word
    let td := Tile.ofBits b.cmd.td
    let inside (d : BitVec 128) : Bool := let t := Tile.ofBits d; blocksOverlap va 3 t.base t.height
    let lineNo (d : BitVec 128) : Nat := (va - (Tile.ofBits d).base) / 64
    let fn := bitsOf b.cmd.word 3 0
    if op = 0x38 ∨ op = 0x40 then inside b.cmd.ta && decide (b.cursor ≤ lineNo b.cmd.ta)
    else if op = 0x3A then inside b.cmd.ta || inside b.cmd.tb
    else if op = 0x3B then (inside b.cmd.ta && decide (b.cursor ≤ lineNo b.cmd.ta)) || inside b.cmd.tb
    else if op = 0x41 ∨ op = 0x42 then
      let a := Tile.ofBits b.cmd.ta
      let n := lineNo b.cmd.ta
      inside b.cmd.ta && decide (b.cursor ≤ (if a.trans then colsOf 8 n else rowsOf 8 n))
    else if op = 0x58 then
      let y := resolveAlias b.issuerCore b.cmd.y.toNat
      decide (y ≤ va) && decide (va < y + 512) && decide (b.cursor ≤ (va - y) / 64)
    else if op = 0x48 ∨ op = 0x49 ∨ op = 0x4A then
      (inside b.cmd.ta && unreadElementwise (Tile.ofBits b.cmd.ta) td (lineNo b.cmd.ta) b.cursor)
        || (!(decide (op = 0x48) && decide (7 ≤ fn)) && !(decide (op = 0x49) && decide (fn = 4)) && inside b.cmd.tb
            && unreadElementwise (Tile.ofBits b.cmd.tb) td (lineNo b.cmd.tb) b.cursor)
    else if op = 0x4B ∨ op = 0x4C then inside b.cmd.ta && unreadElementwise (Tile.ofBits b.cmd.ta) td (lineNo b.cmd.ta) b.cursor
    else if op = 0x4D ∨ op = 0x4E then inside b.cmd.ta
    else if op = 0x4F then inside b.cmd.ta || (decide (fn = 3) && inside b.cmd.tb)
    else false

/-- A store or atomic of the executing thread to resolved address `va` must wait for a barge of its own (R98). -/
def hazard (s : State) (va : Nat) : Bool :=
  let tid := s.me.tid
  s.myCore.engines.any (fun e => e.2.recs.any (fun p =>
    let b := p.2
    decide (b.st ≠ .free) && decide (b.st ≠ .cancelled) && b.direct && decide (b.tid = tid) && b.unread (va / 64 * 64)))

/-! ### Loads and stores -/

/-- A scalar load of `n` bytes (R146 to R148); `ext` extends the bytes' value. -/
def load (s : State) (d a : BitVec 5) (i : BitVec 15) (n : Nat) (ext : Nat → Word) : State :=
  let ea := s.ea a i
  match checkMe s ea { r := true, size := n } with
  | (.error c, s) => trap s c ea
  | (.ok t, s) =>
    withBytes s t n ea.toNat (fun v s => awaitReply (s.setS d (ext v)) ea.toNat)

/-- A scalar store of the low `n` bytes of S[v] (R146, R147, R149). -/
def store (s : State) (v a : BitVec 5) (i : BitVec 15) (n : Nat) : State :=
  let ea := s.ea a i
  match checkMe s ea { w := true, size := n } with
  | (.error c, s) => trap s c ea
  | (.ok t, s) =>
    if hazard s (resolveAlias s.cur.core ea.toNat) then leave s 1 ea.toNat .reissue
    else storeMe s t (natToBytes n (s.S v).toNat) none false ea.toNat

/-- LD.B (R148). -/
def execLdB (d a : BitVec 5) (i : BitVec 15) (s : State) : Result := .next (load s d a i 1 (fun x => sext x 8))
/-- LD.H (R148). -/
def execLdH (d a : BitVec 5) (i : BitVec 15) (s : State) : Result := .next (load s d a i 2 (fun x => sext x 16))
/-- LD.W (R148). -/
def execLdW (d a : BitVec 5) (i : BitVec 15) (s : State) : Result := .next (load s d a i 4 (fun x => sext x 32))
/-- LD.D (R148). -/
def execLdD (d a : BitVec 5) (i : BitVec 15) (s : State) : Result := .next (load s d a i 8 (fun x => zext x 64))
/-- LDZ.B (R148). -/
def execLdzB (d a : BitVec 5) (i : BitVec 15) (s : State) : Result := .next (load s d a i 1 (fun x => zext x 8))
/-- LDZ.H (R148). -/
def execLdzH (d a : BitVec 5) (i : BitVec 15) (s : State) : Result := .next (load s d a i 2 (fun x => zext x 16))
/-- LDZ.W (R148). -/
def execLdzW (d a : BitVec 5) (i : BitVec 15) (s : State) : Result := .next (load s d a i 4 (fun x => zext x 32))
/-- ST.B (R149). -/
def execStB (v a : BitVec 5) (i : BitVec 15) (s : State) : Result := .next (store s v a i 1)
/-- ST.H (R149). -/
def execStH (v a : BitVec 5) (i : BitVec 15) (s : State) : Result := .next (store s v a i 2)
/-- ST.W (R149). -/
def execStW (v a : BitVec 5) (i : BitVec 15) (s : State) : Result := .next (store s v a i 4)
/-- ST.D (R149). -/
def execStD (v a : BitVec 5) (i : BitVec 15) (s : State) : Result := .next (store s v a i 8)

/-! ### LDX (R150) -/

def sideFormat (side : Word) : Nat := bitsOf side 7 0
def sideScale (side : Word) : BitVec 8 := BitVec.ofNat 8 (bitsOf side 15 8)
def sideTag (side : Word) : Nat := bitsOf side 63 16
def voidLine (side : Word) : Bool := decide (bitsOf side 15 8 = 0x80)

/-- What LDX reads at byte `o` of a line: a cause, or an f32 pattern and the flags raised. -/
def ldxValue (l : LineData × Word) (o : Nat) : Except Nat (BitVec 32 × Flags5) :=
  let f := sideFormat l.2
  if voidLine l.2 then .ok (0, 0)
  else if f = 0 ∨ fclass f = .cb2 ∨ fclass f = .bad then .error 0x12
  else if fclass f = .b32 ∧ o % 4 ≠ 0 then .error 0x03
  else
    let pat : BitVec 32 := BitVec.ofNat 32 (lineBytes l.1 o (if fclass f = .b32 then 4 else 1))
    match patValue f (scaleInt (sideScale l.2)) pat with
    | some v => .ok (roundF32 .ne v)
    | none => .error 0x12

/-- LDX (R150): its flags are ORed into `cr.fflags` when it retires (R61). -/
def execLdx (d a : BitVec 5) (i : BitVec 15) (s : State) : Result :=
  let ea := s.ea a i
  .next (match checkMe s ea { r := true, size := 1, align := false, ldx := true } with
    | (.error c, s) => trap s c ea
    | (.ok t, s) =>
      withLine s t ea.toNat (fun l s => match ldxValue l t.loc.off with
        | .error c => trap s c ea
        | .ok (v, f) =>
          let s := s.setS d (v.setWidth 64)
          awaitReply (s.setMe { s.me with lateFlags := f }) ea.toNat))

/-! ### Descriptor loads and stores (R201) -/

/-- TLDD (R201): 16 bytes, low doubleword first. -/
def execTldd (d : BitVec 4) (a : BitVec 5) (s : State) : Result :=
  let ea := s.S a
  .next (match checkMe s ea { r := true, size := 16 } with
    | (.error c, s) => trap s c ea
    | (.ok t, s) =>
      withBytes s t 16 ea.toNat (fun v s => awaitReply (s.setT d (BitVec.ofNat 128 v)) ea.toNat))

/-- TSTD (R201). -/
def execTstd (a : BitVec 5) (b : BitVec 4) (s : State) : Result :=
  let ea := s.S a
  .next (match checkMe s ea { w := true, size := 16 } with
    | (.error c, s) => trap s c ea
    | (.ok t, s) =>
      if hazard s (resolveAlias s.cur.core ea.toNat) then leave s 1 ea.toNat .reissue
      else storeMe s t (natToBytes 16 (s.T b).toNat) none false ea.toNat)

/-! ### Replies -/

/-- MEMORY_REPLY: the reply or acknowledgement retires the waiting instruction (R83). -/
def execMemoryReply (core ctx : Nat) (s : State) : Result :=
  if !ctxExists core ctx then .fault .noSuchUnit
  else
    let r : ThreadRef := ⟨core, ctx⟩
    let x := s.ctxOf r
    if x.st = .bound ∧ x.acksDue = 0 ∧ (x.pend = .reply ∨ x.pend = .landed) then .next (reply s r) else .next s

/-- IACK_RECEIVE: one acknowledgement of an invalidation round; the last one retires the writer's access (R319). -/
def execIackReceive (ack : Iack) (s : State) : Result :=
  let writer := ack.writer
  if !ctxExists writer.core writer.ctx then .fault .noSuchUnit
  else
    let x := s.ctxOf writer
    if x.acksDue = 0 then .next s
    else
      let s := s.setCtx writer { x with acksDue := x.acksDue - 1 }
      .next (if x.acksDue = 1 then s.post [.memoryReply writer.core writer.ctx] else s)

/-- DEQ's record has been taken and is written as a store by the thread (R161). It does not wait for an operand line that a barge of the thread has
not read yet (R98; DESIGN CHOICE, log 75). -/
def storeRecord (s : State) (t : Target) (va : Word) (rcd : LineData) : State :=
  match storeLine s s.myWho t (natToBytes 64 rcd.toNat) (some 0) false with
  | .error s => s.setMe { s.me with pend := .record t va rcd }
  | .ok a => answer (storedMe t a va.toNat (storeLevel s s.myWho t false))

/-- WAKE: a thread whose wake condition has become true rejoins the rotation, to issue at its first turn on or after four
cycles later (R101). Its waiting instruction took its turn when it left, so it completes with the wake, its condition tested
afresh (R82, R192): `State.woken` asks the step for that. -/
def execWake (core ctx : Nat) (s : State) : Result :=
  if !ctxExists core ctx then .fault .noSuchUnit
  else
    let r : ThreadRef := ⟨core, ctx⟩
    let x := s.ctxOf r
    match x.st, x.pend with
    | .bound, .reissue => .next { s.setCtx r { x with pend := .none, readyAt := s.cycle + 4, lastWait := x.waitKind, miss := none, served := if x.miss.isSome then x.served else 0 } with woken := some r }
    | .bound, .record t va rcd => .next (asThread (s.setCtx r { x with miss := none }) r (fun s => storeRecord s t va rcd))
    | _, _ => .next s

end Sys2Proof.Machine
end

