-- ==== Sys2Proof/Machine/Control.lean ====
section
/-! DEFINITION. Branches and jumps, windowed calls and returns, and the spilling of register windows (R113, R133 to R141). -/

namespace Sys2Proof.Machine

/-- A relative target: the branch word's address plus four times the displacement, in the 56-bit space (R113). -/
def relTarget (x : Context) (disp : Word) : Word := addr56 (x.pc + disp * 4).toNat

/-- A conditional branch (R133). -/
def branch (s : State) (a b : BitVec 5) (i : BitVec 15) (f : Word → Word → Bool) : State :=
  if f (s.S a) (s.S b) then retireTo s (relTarget s.me (i.signExtend 64)) else retire s

/-- BEQ (R133). -/
def execBeq (a b : BitVec 5) (i : BitVec 15) (s : State) : Result := .next (branch s a b i (fun x y => decide (x = y)))
/-- BNE (R133). -/
def execBne (a b : BitVec 5) (i : BitVec 15) (s : State) : Result := .next (branch s a b i (fun x y => decide (x ≠ y)))
/-- BLT (R133). -/
def execBlt (a b : BitVec 5) (i : BitVec 15) (s : State) : Result := .next (branch s a b i (fun x y => decide (x.toInt < y.toInt)))
/-- BGE (R133). -/
def execBge (a b : BitVec 5) (i : BitVec 15) (s : State) : Result := .next (branch s a b i (fun x y => decide (x.toInt ≥ y.toInt)))
/-- BLTU (R133). -/
def execBltu (a b : BitVec 5) (i : BitVec 15) (s : State) : Result := .next (branch s a b i (fun x y => decide (x.toNat < y.toNat)))
/-- BGEU (R133). -/
def execBgeu (a b : BitVec 5) (i : BitVec 15) (s : State) : Result := .next (branch s a b i (fun x y => decide (x.toNat ≥ y.toNat)))

/-- J (R134). -/
def execJ (i : BitVec 25) (s : State) : Result := .next (retireTo s (relTarget s.me (i.signExtend 64)))

/-- Transfer to a register target, checked under R113. -/
def jumpTo (s : State) (t : Word) (f : State → State) : State :=
  match targetFault t with
  | some c => trap s c t
  | none => f s

/-- JR (R135). -/
def execJr (a : BitVec 5) (s : State) : Result := .next (jumpTo s (s.S a) (fun s => retireTo s (s.S a)))

/-! ### The window stack (R136 to R141) -/

/-- The window as 128 bytes: s16 to s23, then s24 to s31 (R136). -/
def windowBytes (w : SMap Word) (lo : Nat) : ByteList :=
  (List.range 8).flatMap (fun i => natToBytes 8 (SMap.get 0 w (lo + i)).toNat)

/-- The window read back from two lines. -/
def windowOf (l0 l1 : LineData) : SMap Word :=
  (List.range 8).foldl (fun w i => SMap.set 0 (SMap.set 0 w (16 + i) (lineWord l0 (8 * i))) (24 + i) (lineWord l1 (8 * i))) []

/-- The refusal of a window-stack access at `a` for thread `r` (R140): the address must be aligned to 128 and lie in the
core's own local store, in a bank its partition owns. -/
def stackFault (s : State) (r : ThreadRef) (wsp a : Word) (wr : Bool) : Option (Nat × Word) :=
  let va := resolveAlias r.core a.toNat
  if wsp.toNat % 128 ≠ 0 then some (0x01, wsp)
  else if va / 0x100000 ≠ lsBase r.core / 0x100000 then some (if wr then 0x09 else 0x0A, a)
  else match (checkXlat s (whoOf s r) va { r := !wr, w := wr, size := 128 }).ans with
    | .ok _ => none
    | .error _ => some (if wr then 0x09 else 0x0A, a)

/-- The thread whose window is spilled or filled makes an access at `va` of its core's local store. -/
def stackLoc (r : ThreadRef) (a : Word) (o : Nat) : Target := { loc := .ls (resolveAlias r.core a.toNat + o) }

/-- Spill the oldest resident window (R139): two lines under format raw, scale 0, tag zero, then the pointer rises. -/
def spillWindow (s : State) (r : ThreadRef) : State :=
  let x := s.ctxOf r
  let w := x.wins.getLastD []
  let (c0, _, s) := storeQuiet s (whoOf s r) (stackLoc r x.wsp 0) (windowBytes w 16) (some 0)
  let s := s.setClk r c0
  let (c1, _, s) := storeQuiet s (whoOf s r) (stackLoc r x.wsp 64) (windowBytes w 24) (some 0)
  let s := s.setClk r c1
  s.setCtx r { s.ctxOf r with wins := x.wins.dropLast, wsp := x.wsp + 128 }

/-- WINDOW_SPILL: a background spill of a context that holds 7 or 8 windows, if it can be made; a call that waits for a
window issues again, to trap where the spill can no longer be made (R137, R139, R140). -/
def execWindowSpill (core ctx : Nat) (s : State) : Result :=
  if !ctxExists core ctx then .fault .noSuchUnit
  else
    let r : ThreadRef := ⟨core, ctx⟩
    let x := s.ctxOf r
    let again (s : State) : State := if x.waitKind = 1 ∧ x.pend = .reissue then s.postWake core ctx else s
    if x.st = .free ∨ x.wins.length < 7 then .next s
    else match stackFault s r x.wsp x.wsp true with
      | some _ => .next (again s)
      | none => .next (again (spillWindow s r))

/-- A windowed call to a checked target (R137). -/
def call (s : State) (target : Word) : State :=
  let x := s.me
  if x.wins.length ≥ 8 then
    match stackFault s s.cur x.wsp x.wsp true with
    | some (c, v) => trap s c v
    | none => (leave s 1 x.wsp.toNat .reissue).post [.windowSpill s.cur.core s.cur.ctx]
  else
    let w : SMap Word := SMap.set 0 [] 31 x.nextPc
    let s := s.setMe { x with win := x.win + 1, wins := w :: x.wins }
    let s := if x.wins.length ≥ 6 then s.post [.windowSpill s.cur.core s.cur.ctx] else s
    retireTo s target

/-- JAL (R137). -/
def execJal (i : BitVec 25) (s : State) : Result := .next (call s (relTarget s.me (i.signExtend 64)))

/-- CALLR (R137). -/
def execCallr (a : BitVec 5) (s : State) : Result := .next (jumpTo s (s.S a) (fun s => call s (s.S a)))

/-- The window of depth cr.win - 1 is read back from the window stack (R138). -/
def fillWindow (s : State) (target : Word) : State :=
  let x := s.me
  let a := x.wsp - 128
  match stackFault s s.cur x.wsp a false with
  | some (c, v) => trap s c v
  | none =>
    withLine s (stackLoc s.cur a 0) a.toNat (fun l0 s => withLine s (stackLoc s.cur a 64) a.toNat (fun l1 s =>
      let s := s.setMe { s.me with wins := [windowOf l0.1 l1.1], wsp := a, win := x.win - 1, pc := target, chain := {} }
      (leave s 1 a.toNat .landed).post [.memoryReply s.cur.core s.cur.ctx]))

/-- RET (R138). -/
def execRet (s : State) : Result :=
  let x := s.me
  if x.win = 0 then .next (trap s 0x01 s.irWord)
  else
    .next (jumpTo s (s.S 31) (fun s =>
      if x.wins.length ≥ 2 then retireTo (s.setMe { x with wins := x.wins.tail, win := x.win - 1 }) (s.S 31)
      else fillWindow s (s.S 31)))

/-- A write to `cr.win` sets the depth and keeps only the current window (R141). -/
def setWin (x : Context) (v : Word) : Context := { x with win := v, wins := [x.wins.headD []] }

/-- CR_WIN_WRITE (R141). -/
def execCrWinWrite (core ctx : Nat) (v : Word) (s : State) : Result :=
  if !ctxExists core ctx then .fault .noSuchUnit
  else .next (s.setCtx ⟨core, ctx⟩ (setWin (s.ctxOf ⟨core, ctx⟩) v))

/-- CR_WSP_WRITE (R141). -/
def execCrWspWrite (core ctx : Nat) (v : Word) (s : State) : Result :=
  if !ctxExists core ctx then .fault .noSuchUnit
  else .next (s.setCtx ⟨core, ctx⟩ { s.ctxOf ⟨core, ctx⟩ with wsp := v })

end Sys2Proof.Machine
end

