-- ==== Sys2Proof/Machine/Sched.lean ====
section
/-! DEFINITION. Context images and save areas, spilling and freeing contexts, region control blocks and their registration,
new contexts and bindings, and the fault queues (R86 to R89, R326 to R343, R413, R414). -/

namespace Sys2Proof.Machine

/-! ### The context image (R88) -/

/-- `cr.status` of a context (R231). -/
def statusWord (c : Core) (x : Context) : Word :=
  BitVec.ofNat 64 (x.level.code + x.prior.toNat * 4 + (if x.step then 256 else 0) + c.partOf x.slot * 4096)

/-- The eight bytes at offset `o` of the image of a context (R88). -/
def imageWord (c : Core) (x : Context) (o : Nat) : Word :=
  if o = 0x000 then x.pc
  else if o = 0x008 then statusWord c x
  else if o = 0x010 then x.fflags.setWidth 64
  else if o = 0x018 then x.rcnt
  else if o = 0x020 then x.win
  else if o = 0x028 then x.lease.setWidth 64
  else if o = 0x030 then x.wait
  else if o = 0x038 then x.wsp
  else if o < 0x140 then x.readS (BitVec.ofNat 5 ((o - 0x40) / 8))
  else if o < 0x240 then (x.readT (BitVec.ofNat 4 ((o - 0x140) / 16)) >>> (if o % 16 = 8 then 64 else 0)).setWidth 64
  else if o < 0x280 then
    let i := (o - 0x240) / 4
    (x.readB (BitVec.ofNat 4 (i + 1)) ++ x.readB (BitVec.ofNat 4 i)).setWidth 64
  else if o < 0x2C0 then SMap.get 0 x.floors ((o - 0x280) / 8)
  else if o < 0x2E0 then SMap.get 0 x.reply ((o - 0x2C0) / 8)
  else if o = 0x2E0 then (List.range 4).foldl (fun v i => v ||| ((SMap.get 0 x.rstate i).setWidth 64 <<< (2 * i))) 0
  else 0

/-- A floor as the context holds it: [63] valid, [43:32] region, [31:0] round (R88). -/
def floorMask : Word := 0x80000FFFFFFFFFFF

/-- Reply states with value 3 stored as empty (R245). -/
def replyStates (v : Word) : SMap (BitVec 2) :=
  (List.range 4).foldl (fun m i => SMap.set 0 m i (if bitsOf v (2 * i + 1) (2 * i) = 3 then 0 else BitVec.ofNat 2 (bitsOf v (2 * i + 1) (2 * i)))) []

/-- Store the eight bytes at offset `o` of the image of a context (R88, R245). `restore` is FILL, which restores the whole of
the image; a CTXW of the status writes only the step bit. -/
def setImageWord (x : Context) (o : Nat) (v : Word) (restore : Bool) : Context :=
  if o = 0x000 then { x with pc := v }
  else if o = 0x008 then { x with step := v.getLsbD 8, prior := if restore then BitVec.ofNat 2 (bitsOf v 3 2) else x.prior }
  else if o = 0x010 then { x with fflags := BitVec.ofNat 5 v.toNat }
  else if o = 0x018 then { x with rcnt := v }
  else if o = 0x020 then { x with win := v }
  else if o = 0x028 then { x with lease := BitVec.ofNat 16 v.toNat }
  else if o = 0x030 then { x with wait := v }
  else if o = 0x038 then { x with wsp := v }
  else if o < 0x140 then x.writeS (BitVec.ofNat 5 ((o - 0x40) / 8)) v
  else if o < 0x240 then
    let i : BitVec 4 := BitVec.ofNat 4 ((o - 0x140) / 16)
    x.writeT i (if o % 16 = 8 then setBits128 (x.readT i) 127 64 v.toNat else setBits128 (x.readT i) 63 0 v.toNat)
  else if o < 0x280 then
    let i := (o - 0x240) / 4
    let h (k : Nat) : BitVec 32 := BitVec.ofNat 32 (bitsOf v (32 * k + 19) (32 * k))
    (x.writeB (BitVec.ofNat 4 i) (h 0)).writeB (BitVec.ofNat 4 (i + 1)) (h 1)
  else if o < 0x2C0 then { x with floors := SMap.set 0 x.floors ((o - 0x280) / 8) (v &&& floorMask) }
  else if o < 0x2E0 then { x with reply := SMap.set 0 x.reply ((o - 0x2C0) / 8) v }
  else if o = 0x2E0 then { x with rstate := replyStates v }
  else x

/-- Line `i` of a save area as the spill writes it: twelve lines of image, then RCB, join and outstanding barges (R330). -/
def saveLine (c : Core) (x : Context) (outstanding i : Nat) : ByteList :=
  if i < 12 then (List.range 8).flatMap (fun k => natToBytes 8 (imageWord c x (64 * i + 8 * k)).toNat)
  else natToBytes 8 x.rcb.toNat ++ natToBytes 8 x.join.toNat ++ natToBytes 8 outstanding

/-- Uncompleted barges of a thread, on any core (R330). -/
def State.outstanding (s : State) (tid : Nat) : Nat :=
  (s.cores.flatMap (fun c => c.2.engines.flatMap (fun e => e.2.recs.filter (fun p => decide (p.2.st ≠ .free) && decide (p.2.tid = tid))))).length

/-! ### Spilling (R87, R414) -/

/-- Write lines `i` and on of a save area at clock `clk` and after, so that a context restored from them takes up no lower clock (R300):
the failing cause and address where a write faults, and the state with the lines written before it. -/
def writeSave (s : State) (core : Nat) (a : Word) (c : Core) (x : Context) (out clk : Nat) : List Nat → Option (Nat × Word) × State
  | [] => (none, s)
  | i :: t =>
    let va : Word := a + BitVec.ofNat 64 (64 * i)
    match check s (saveWho s core) va.toNat { w := true, size := 64 } with
    | (.error cause, s) => (some (cause, va), s)
    | (.ok tg, s) =>
      writeSave (storeDevice s { saveWho s core with clk := clk } tg (saveLine c x out i)) core a c x out (clk + 1) t

/-- Write the resident windows other than the current one, oldest first; stops at the first that cannot be written. -/
def spillAll (s : State) (r : ThreadRef) : Nat → Option (Nat × Word) × State
  | 0 => (none, s)
  | n + 1 =>
    let x := s.ctxOf r
    if x.wins.length ≤ 1 then (none, s)
    else match stackFault s r x.wsp x.wsp true with
      | some e => (some e, s)
      | none => spillAll (spillWindow s r) r n

/-- Spill a parked context (R87): windows, image, save-area fields; then the context is free. A failure, which it answers, leaves the
context as it was; lines already written stay written (R414). -/
def spillCtx (s : State) (r : ThreadRef) : Option (Nat × Word) × State :=
  let x := s.ctxOf r
  match spillAll s r 8 with
  | (some e, s) => (some e, s.setCtx r x)
  | (none, s) =>
    match writeSave s r.core x.save (s.core r.core) (s.ctxOf r) (s.outstanding x.tid) (s.clkOf r) (List.range 13) with
    | (some e, s) => (some e, s.setCtx r x)
    | (none, s) =>
      let s := s.setCtx r {}
      (none, { s with spilled := SMap.set 0 s.spilled x.tid x.save })

/-- The core spills a context of its own accord; one that is parked for its budget will come back by itself (R87, R336). -/
def autoSpill (s : State) (r : ThreadRef) : Option (Nat × Word) × State :=
  let x := s.ctxOf r
  match spillCtx s r with
  | (none, s') =>
    let c := s'.core r.core
    (none, if x.budgetParked then s'.setCore r.core { c with budgetSpills := c.budgetSpills ++ [⟨x.slot, x.save, x.rcb.toNat, x.budgetDue⟩] } else s')
  | e => e

/-- The parked context the core chooses to spill: the one parked longest, passing over those of R87; of several parked in one cycle, the
lowest-numbered (DESIGN CHOICE, log 51). -/
def spillChoice (c : Core) (need : SpillNeed) : Option Nat :=
  let ok := c.ctxs.filter (fun p =>
    decide (p.1 < 24) && decide (p.2.st = .parked) && !p.2.stopped && !p.2.stopReq
      && !(c.heldSq.any (fun h => decide (h.1 = .thread p.1)))
      && !((List.range 4).any (fun i => decide (SMap.get 0 p.2.rstate i = 1)))
      && !c.spillFails.contains (need, p.2.tid))
  (ok.foldl (fun best p => match best with
    | none => some p
    | some b => if p.2.parkedAt < b.2.parkedAt then some p else best) none).map (·.1)

/-- The needs of core `k` that `p` holds of have ended, in one way or another: contexts whose spill failed during one may be chosen again
(R87, R414). -/
def endNeeds (s : State) (k : Nat) (p : SpillNeed → Bool) : State :=
  let c := s.core k
  s.setCore k { c with spillFails := c.spillFails.filter (fun x => !p x.1) }

/-- A spill has failed during a need (R414). -/
def failSpill (s : State) (r : ThreadRef) (need : SpillNeed) : State :=
  let c := s.core r.core
  s.setCore r.core { c with spillFails := c.spillFails ++ [(need, (c.ctx r.ctx).tid)] }

/-- Make a context free on core `k` for a need, which then is over (R87, R414): at most 24 tries. -/
def needCtx (s : State) (k : Nat) (need : SpillNeed) : Nat → Option Nat × State
  | 0 => ((s.core k).freeCtx, s)
  | n + 1 =>
    match (s.core k).freeCtx with
    | some i => (some i, endNeeds s k (fun x => decide (x = need)))
    | none =>
      match spillChoice (s.core k) need with
      | none => (none, s)
      | some i =>
        let r : ThreadRef := ⟨k, i⟩
        match autoSpill s r with
        | (none, s') => (some i, endNeeds s' k (fun x => decide (x = need)))
        | (some _, s') => needCtx (failSpill s' r need) k need n

/-- CONTEXT_SPILL (R87): the core spills one context while none is free. -/
def execContextSpill (core : Nat) (s : State) : Result :=
  if !coreExists core then .fault .noSuchUnit
  else if (s.core core).freeCtx.isSome then .next s
  else match spillChoice (s.core core) .any with
    | none => .next s
    | some i =>
      match autoSpill s ⟨core, i⟩ with
      | (none, s') => .next (endNeeds s' core (fun x => decide (x = .any)))
      | (some _, s') => .next (failSpill s' ⟨core, i⟩ .any)

/-! ### Restoring (R87, R246, R330) -/

/-- Read `n` lines of a save area from `a` on for the core itself, each at its home: its doublewords, and a clock no lower than that of any
of these reads (R300); none where a line cannot be read. -/
def savedWords (s : State) (core : Nat) (a : Word) : Nat → List Word → Nat → Option (List Word × Nat) × State
  | 0, acc, clk => (some (acc, clk), s)
  | n + 1, acc, clk =>
    match check s (saveWho s core) (a + BitVec.ofNat 64 (8 * acc.length)).toNat { r := true, size := 64 } with
    | (.error _, s) => (none, s)
    | (.ok t, s) =>
      let l := loadQuiet s { saveWho s core with clk := clk } t
      savedWords l.st core a n (acc ++ (List.range 8).map (fun i => lineWord l.line.1 (8 * i))) l.clk

/-- The context that the save area at `a` holds, parked with its home slot (R246, R330). -/
def filledContext (s : State) (a : Word) (slot : Nat) (ws : List Word) : Context :=
  let tid := match s.spilled.find? (fun p => decide (p.2 = a)) with
    | some p => p.1
    | none => s.nextTid
  let x : Context := { st := .parked, slot := slot, tid := tid, save := a, parkedAt := s.cycle }
  let x := (List.range 93).foldl (fun x i => setImageWord x (8 * i) (ws.getD i 0) true) x
  { x with rcb := BitVec.ofNat 11 (ws.getD 96 0).toNat, join := ws.getD 97 0 }

/-- A restored context is resident again (R246): its save area holds no spilled thread any more. -/
def restoreCtx (s : State) (r : ThreadRef) (x : Context) (clk : Nat) : State :=
  let s := (s.setCtx r x).setClk r clk
  { s with
    spilled := SMap.set 0 s.spilled x.tid 0
    nextTid := max s.nextTid (x.tid + 1)
    cores := s.cores.map (fun (p : Nat × Core) => (p.1, { p.2 with
      budgetSpills := p.2.budgetSpills.filter (fun e => decide (e.save ≠ x.save))
      spillFails := p.2.spillFails.filter (fun f => decide (f.1 ≠ .back x.save)) })) }

/-! ### Region control blocks (R326 to R328) -/

def State.rcbAddr (s : State) (i : Nat) : Nat := s.qtable + 0x80000 + 128 * i

/-- The RCB lies in main memory (R16), and both of its lines are delivered (R36). -/
def State.rcbHere (s : State) (i : Nat) : Bool :=
  decide (s.rcbAddr i + 128 ≤ s.capacity) && s.delivered (.main (s.rcbAddr i)) && s.delivered (.main (s.rcbAddr i + 64))

/-- A doubleword of an RCB in memory. -/
def State.rcbWord (s : State) (i o : Nat) : Word := s.physWord (s.rcbAddr i + o)

/-- The RCB whose value of a field is taken: the first of the parent chain, of at most 8 links, whose inherit bit for the
field is clear (R328); none where one that is read is not delivered (R36). -/
def State.rcbFrom (s : State) (bit : Nat) : Nat → Nat → Option Nat
  | n, i =>
    if !s.rcbHere i then none
    else if !(s.rcbWord i 0x08).getLsbD bit then some i
    else match n with
      | 0 => none
      | n + 1 =>
        let p := s.rcbWord i 0
        if p.getLsbD 11 then s.rcbFrom bit n (bitsOf p 10 0) else none

/-- A must-be-zero bit of an RCB is set (R326, R327). -/
def State.rcbReserved (s : State) (i : Nat) : Bool :=
  let w (o : Nat) := s.rcbWord i o
  decide (bitsOf (w 0) 63 12 ≠ 0) || decide (bitsOf (w 8) 63 41 ≠ 0) || decide (bitsOf (w 8) 31 28 ≠ 0) || (w 8).getLsbD 23
    || decide (bitsOf (w 0x18) 63 40 ≠ 0) || decide (bitsOf (w 0x28) 15 11 ≠ 0) || decide (bitsOf (w 0x28) 63 29 ≠ 0)
    || decide (bitsOf (w 0x60) 63 13 ≠ 0) || decide (bitsOf (w 0x70) 63 56 ≠ 0) || decide (bitsOf (w 0x78) 15 2 ≠ 0)
    || decide (bitsOf (w 0x78) 63 48 ≠ 0)

/-- Resolve an RCB at its launch (R328). -/
def State.resolve (s : State) (i : Nat) : Option RcbReg := do
  let f (bit : Nat) : Option Nat := s.rcbFrom bit 8 i
  let pr ← f 32
  let pa ← f 33
  let sm ← f 34
  let cm ← f 35
  let pl ← f 36
  let bu ← f 37
  let fa ← f 38
  let wq ← f 39
  let sp ← f 40
  let flt := s.rcbWord fa 0x28
  let work := s.rcbWord wq 0x60
  let pool := s.rcbWord sp 0x70
  some { launched := true, priority := bitsOf (s.rcbWord pr 8) 3 0, part := bitsOf (s.rcbWord pa 8) 7 4,
         slotMask := bitsOf (s.rcbWord sm 8) 23 8, coreMask := bitsOf (s.rcbWord cm 8) 27 24,
         placement := s.rcbWord pl 0x10, budget := bitsOf (s.rcbWord bu 0x18) 39 0,
         faultDomain := bitsOf flt 10 0, faultQueue := bitsOf flt 27 16, faultQueueValid := flt.getLsbD 28,
         entry := s.rcbWord i 0x30, frame := s.rcbWord i 0x38,
         args := [s.rcbWord i 0x40, s.rcbWord i 0x48, s.rcbWord i 0x50, s.rcbWord i 0x58],
         workQueue := bitsOf work 11 0, workQueueValid := work.getLsbD 12, join := s.rcbWord i 0x68,
         saveBase := bitsOf pool 55 10 * 1024, saveAreas := bitsOf pool 9 0 }

def State.reg (s : State) (i : Nat) : RcbReg := SMap.get {} s.rcbs i

def State.setReg (s : State) (i : Nat) (r : RcbReg) : State := { s with rcbs := SMap.set {} s.rcbs i r }

/-- The hold bit (R326, R344). An RCB whose lines are not delivered cannot be read, and none of its threads is started (R36). -/
def State.held (s : State) (i : Nat) : Bool := !s.rcbHere i || (s.rcbWord i 0x78).getLsbD 0

/-- Write a field of an RCB's run word by one indivisible step at its home (R326). -/
def State.setRun (s : State) (i : Nat) (f : Nat → Nat → Nat) : State :=
  let w := s.rcbWord i 0x78
  let ctxs := f 0 (bitsOf w 31 16)
  let brg := f 1 (bitsOf w 47 32)
  let v := bitsOf w 1 0 + ctxs % 65536 * 2 ^ 16 + brg % 65536 * 2 ^ 32
  if !s.rcbHere i then s else s.physWrite (s.rcbAddr i + 0x78) (natToBytes 8 v) s.sdieClk

/-- Change the contexts count of an RCB. -/
def State.addContexts (s : State) (i : Nat) (up : Bool) : State :=
  if (s.reg i).launched then s.setRun i (fun k v => if k = 0 then (if up then v + 1 else v - 1) else v) else s

/-- Change the uncompleted-barges count of an RCB. -/
def State.addBarges (s : State) (i : Nat) (up : Bool) : State :=
  if (s.reg i).launched then s.setRun i (fun k v => if k = 1 then (if up then v + 1 else v - 1) else v) else s

/-! ### Save areas (R330) -/

/-- The allocation bitmap of an RCB's pool, read at its home through the tables of `core`. -/
def poolTarget (s : State) (core base : Nat) (line : Nat) : Option Target × State :=
  match check s (saveWho s core) (base + 64 * line) { r := true, w := true, size := 64, atomic := true } with
  | (.ok t, s) => (some t, s)
  | (.error _, s) => (none, s)

/-- Take the lowest clear bit of the bitmap (R330). -/
def allocSave (s : State) (core : Nat) (g : RcbReg) : Option Word × State :=
  match poolTarget s core g.saveBase 0, poolTarget s core g.saveBase 1 with
  | (some t0, _), (some t1, s) =>
    let bytes := s.bytesAt t0.loc 64 ++ s.bytesAt t1.loc 64
    match (List.range g.saveAreas).find? (fun i => decide (i ≠ 0) && !((bytes.getD (i / 8) 0).getLsbD (i % 8))) with
    | none => (none, s)
    | some i =>
      let b := bytes.getD (i / 8) 0 ||| BitVec.ofNat 8 (2 ^ (i % 8))
      let t := if i / 8 < 64 then { t0 with loc := t0.loc.add (i / 8) } else { t1 with loc := t1.loc.add (i / 8 - 64) }
      (some (BitVec.ofNat 64 (g.saveBase + 1024 * i)), storeDevice s (saveWho s core) t [b])
  | (_, s), _ => (none, s)

/-- Whether a save area can be allocated. -/
def canAllocSave (s : State) (core : Nat) (g : RcbReg) : Bool := (allocSave s core g).1.isSome

/-- Clear the bit of an area when its context is freed (R330, R337). -/
def freeSave (s : State) (core : Nat) (g : RcbReg) (a : Word) : State :=
  let i := (a.toNat - g.saveBase) / 1024
  match poolTarget s core g.saveBase (i / 512) with
  | (some t, s) =>
    let t := { t with loc := t.loc.add (i / 8 % 64) }
    let b := (s.bytesAt t.loc 1).getD 0 0 &&& ~~~(BitVec.ofNat 8 (2 ^ (i % 8)))
    storeDevice s (saveWho s core) t [b]
  | (none, s) => s

/-! ### Creating and binding contexts (R89, R329, R333, R413) -/

/-- A new context of RCB `rcb` bound to a slot (R89): zero in every field but what its launch or dispatch writes. -/
def newContext (s : State) (slot : Nat) (pc : Word) (args : List Word) (frame join save : Word) (rcb : Nat) : Context :=
  { st := .bound, slot := slot, pc := pc, level := if slot = 15 then .s else .u, lease := 8, rcb := BitVec.ofNat 11 rcb,
    join := join, save := save, tid := s.nextTid,
    sregs := SMap.set 0 (SMap.set 0 (SMap.set 0 (SMap.set 0 (SMap.set 0 [] 1 (args.getD 0 0)) 2 (args.getD 1 0)) 3 (args.getD 2 0)) 4 (args.getD 3 0)) 5 frame }

/-- Create a context (R89, R329, R330): a free context and a save area are taken; `.error` where either cannot be had, with the spills
that failed for it, whose contexts are passed over while the need lasts (R87, R414). -/
def createContext (s : State) (core slot rcb : Nat) (pc : Word) (args : List Word) (frame join : Word) (clk : Nat) (need : SpillNeed) :
    Except State State :=
  let g := s.reg rcb
  if !canAllocSave s core g then .error s
  else match needCtx s core need 24 with
    | (none, s) => .error s
    | (some i, s) =>
      match allocSave s core g with
      | (none, s) => .error s
      | (some a, s) =>
        let r : ThreadRef := ⟨core, i⟩
        let x := newContext s slot pc args frame join a rcb
        let s := s.setCtx r x
        let s := { s with nextTid := s.nextTid + 1 }
        let s := (s.setClk r clk).addContexts rcb true
        .ok (s.setReg rcb { s.reg rcb with existed := true })

/-- A work record's fields (R158). -/
structure WorkRec where
  code : Word
  frame : Word
  join : Word
  args : List Word
  control : Word
  deriving DecidableEq, Repr

def workRec (d : LineData) : WorkRec :=
  ⟨lineWord d 0, lineWord d 8, lineWord d 0x10, [lineWord d 0x18, lineWord d 0x20, lineWord d 0x28, lineWord d 0x30], lineWord d 0x38⟩

def WorkRec.rcb (w : WorkRec) : Nat := bitsOf w.control 31 0
def WorkRec.affinity (w : WorkRec) : Bool := w.control.getLsbD 48
def WorkRec.height (w : WorkRec) : Nat := bitsOf w.control 53 49

/-- A record the dispensers refuse (R331, R332, R335). -/
def State.badRecord (s : State) (w : WorkRec) : Bool :=
  decide (w.rcb > 0x7FF) || !(s.reg w.rcb).launched || decide (bitsOf w.control 47 32 ≠ 0) || decide (bitsOf w.control 63 54 ≠ 0)
    || (!w.affinity && decide (w.height ≠ 0)) || (w.affinity && (decide (w.height < 3) || decide (26 < w.height)
         || decide (w.frame.toNat % 4 ^ w.height ≠ 0)))

/-- Cores on which a record of a queue may be bound (R332). -/
def State.bindCores (s : State) (cl queue rcb : Nat) : List Nat :=
  if queue / 256 = 0xF then (if queue % 256 / 4 = cl then [queue % 256] else [])
  else [0, 1, 2, 3].filterMap (fun i => if (s.reg rcb).coreMask.testBit i then some (4 * cl + i) else none)

/-- A target: a context waiting in WAITW, or a vacant slot (R332). -/
inductive BindTarget where
  | waiting (r : ThreadRef)
  | slot (core slot : Nat)
  deriving DecidableEq, Repr

/-- Waiting contexts of an RCB on a core, longest wait first. -/
def longestWaiting (l : List (ThreadRef × Nat)) : Option ThreadRef :=
  (l.foldl (fun best p => match best with
    | none => some p
    | some b => if p.2 < b.2 then some p else best) none).map (·.1)

/-- The first target for a record of `rcb` (R332, R336, R344). -/
def State.bindTarget (s : State) (cl queue rcb : Nat) : Option BindTarget :=
  let g := s.reg rcb
  if s.held rcb || g.exhausted then none
  else
    let cores := s.bindCores cl queue rcb
    let waits := cores.flatMap (fun k => ((s.core k).ctxs.filter (fun p =>
      decide (p.2.st = .bound) && decide (p.2.waitKind = 6) && decide (p.2.slot < 15) && decide (p.2.rcb.toNat = rcb) && !p.2.stopped)).map
        (fun p => ((⟨k, p.1⟩ : ThreadRef), p.2.waitSince)))
    match longestWaiting waits with
    | some r => some (.waiting r)
    | none =>
      let slots := cores.flatMap (fun k => ((List.range 15).filter (fun i =>
        g.slotMask.testBit i && ((s.core k).boundTo i).isNone && !(s.core k).owed i && decide ((s.core k).partOf i = g.part) && !(s.core k).dead)).map (fun i => (k, i)))
      let lowest := slots.foldl (fun best p => match best with
        | none => some p
        | some b => if p.2 < b.2 then some p else best) (none : Option (Nat × Nat))
      match lowest with
      | some (k, i) => if canAllocSave s k g then some (.slot k i) else none
      | none => none

/-- Bind a record to a target as one indivisible step (R168, R333, R413). -/
def bindRecord (s : State) (cl queue : Nat) (t : BindTarget) (w : WorkRec) : Except State State :=
  let d := s.dispClk cl
  match t with
  | .waiting r =>
    let x := s.ctxOf r
    let x := (List.range 4).foldl (fun x i => x.writeS (BitVec.ofNat 5 (i + 1)) (w.args.getD i 0)) x
    let x := { x.writeS 5 w.frame with pc := w.code, join := w.join, chain := {}, wait := 0, pend := .none, readyAt := s.cycle + 4, lastWait := 6 }
    let s := (s.setCtx r x).setClk r (max (s.clkOf r) d + 1)
    let s := s.traceAt r.core x.slot 5 w.code (BitVec.ofNat 64 w.rcb)
    .ok (asThread s r boundary)
  | .slot core slot =>
    match createContext s core slot w.rcb w.code w.args w.frame w.join (d + 1) (.bind queue) with
    | .error s => .error s
    | .ok s => .ok (s.traceAt core slot 5 w.code (BitVec.ofNat 64 w.rcb))

end Sys2Proof.Machine
end

