-- ==== Sys2Proof/Machine/Queue.lean ====
section
/-! DEFINITION. Work queues, calls across cores, atomics and joins at the home, and what the dispensers take and bind
(R153 to R168, R331 to R335). -/

namespace Sys2Proof.Machine

/-! ### Queue descriptors (R159) -/

/-- A queue's descriptor, when it is valid and enabled. -/
structure QDesc where
  ring : Nat
  c : Nat
  userEnq : Bool
  userDeq : Bool
  head : Nat
  tail : Nat
  deriving DecidableEq, Repr

def State.queueAddr (s : State) (q : Nat) : Nat := s.qtable + 64 * q

/-- Read a queue's descriptor; `none` where it is invalid or not enabled (R159, R160), or its line is not delivered (R36). -/
def State.queueDesc (s : State) (q : Nat) : Option QDesc :=
  let a := s.queueAddr q
  let w0 := s.physWord a
  let w1 := s.physWord (a + 8)
  let w2 := s.physWord (a + 16)
  let w3 := s.physWord (a + 24)
  let ring := bitsOf w0 51 0
  let c := bitsOf w1 4 0
  let rest := (s.mem.readBytes (a + 32) 32).any (fun b => decide (b ≠ 0))
  if s.delivered (.main a) = false ∨ a + 64 > s.capacity ∨ bitsOf w0 63 52 ≠ 0 ∨ bitsOf w1 63 8 ≠ 0 ∨ bitsOf w2 63 32 ≠ 0 ∨ bitsOf w3 63 32 ≠ 0 ∨ rest = true
      ∨ c < 1 ∨ 20 < c ∨ ring % 2 ^ (c + 6) ≠ 0 ∨ ring + 2 ^ (c + 6) > s.capacity ∨ w1.getLsbD 5 = false then none
  else some ⟨ring, c, w1.getLsbD 6, w1.getLsbD 7, bitsOf w2 31 0, bitsOf w3 31 0⟩

def QDesc.count (d : QDesc) : Nat := (d.tail + 2 ^ 32 - d.head) % 2 ^ 32
def QDesc.slotAddr (d : QDesc) (i : Nat) : Nat := d.ring + 64 * (i % 2 ^ d.c)

/-- The refusals of a queue operation (R160), in the table's order; an error in the descriptor or in the record is a machine check (R36). -/
def queueRefusal (s : State) (q : Nat) (user : Bool) (enq : Bool) : Option (Nat × Word) :=
  let id : Word := BitVec.ofNat 64 q
  if q ≥ 4096 then some (0x01, id)
  else if !s.delivered (.main (s.queueAddr q)) then some (0x30, id)
  else match s.queueDesc q with
    | none => some (0x01, id)
    | some d =>
      if user && !(if enq then d.userEnq else d.userDeq) then some (0x04, id)
      else if enq && decide (d.count ≥ 2 ^ d.c) then some (0x18, id)
      else if !enq && decide (d.count ≠ 0) && !s.delivered (.main (d.slotAddr d.head)) then some (0x30, id)
      else none

/-- Watched queue operations count as read and write, at the queue's descriptor and at the record's slot (R394, R395). -/
def queueWatch (s : State) (q slot : Nat) (who : Who) : State :=
  watchReport (watchReport s who (.main (s.queueAddr q)) true true) who (.main slot) true true

/-- The clock of an observation of a queue (R300). -/
def observeQueue (s : State) (q c : Nat) : Nat := max c (SMap.get 0 s.micro.stQueue q)

def stampQueue (s : State) (q c : Nat) : State :=
  { s with micro := { s.micro with stQueue := SMap.set 0 s.micro.stQueue q (max (SMap.get 0 s.micro.stQueue q) c) } }

/-- Append a record: the ring slot is written as one raw line, and the tail advances (R160); the clock of the party after both (R300). -/
def appendRecord (s : State) (q : Nat) (d : QDesc) (rcd : LineData) (clk : Nat) : Nat × State :=
  let a := d.slotAddr d.tail
  let s := (s.physStore a (natToBytes 64 rcd.toNat) clk).writeSide (.main a) 0
  let s := s.physStore (s.queueAddr q + 24) (natToBytes 8 ((d.tail + 1) % 2 ^ 32)) (max clk (s.stampOf a))
  let c := max clk (s.stampOf (s.queueAddr q + 24))
  (c, stampQueue s q c)

/-- A request arrives at the home of a queue, in the order of the other requests to that line (R161, R305, R323). -/
def queueGate (s : State) (q core : Nat) (self : Instr) : Except State State :=
  if q ≥ 4096 then .ok s else homeGate s (s.queueAddr q / 64) core .getx self

/-- Note the cycle at which a dispenser first sees the record at a queue's head (R334, R335). -/
def seeHead (s : State) (cl q : Nat) : State :=
  let ds := SMap.get {} s.dispensers cl
  match s.queueDesc q with
  | none => s
  | some d =>
    if d.count = 0 ∨ SMap.get 0 ds.firstSeen q ≠ 0 then s
    else
      let s := { s with dispensers := SMap.set {} s.dispensers cl { ds with firstSeen := SMap.set 0 ds.firstSeen q (s.cycle + 1) } }
      let w := workRec (s.physLine (d.slotAddr d.head))
      if w.affinity && decide (q / 256 ≠ 0xF) then s.post [.affinityTimeout cl q] else s

/-- The dispensers that take records of a queue (R331). -/
def dispensersOf (s : State) (q : Nat) : List Nat :=
  if q / 256 = 0xF then [q % 256 / 4]
  else (s.dispensers.filter (fun p => p.2.regs.any (fun r => (s.reg r).workQueueValid && decide ((s.reg r).workQueue = q)))).map (·.1)

/-- The head of a queue has gone: every dispenser sees the next record afresh (R334, R335). -/
def headGone (s : State) (q : Nat) : State :=
  let s := { s with dispensers := s.dispensers.map (fun p =>
    (p.1, { p.2 with firstSeen := SMap.set 0 p.2.firstSeen q 0, released := p.2.released.filter (fun x => decide (x ≠ q)) })) }
  (dispensersOf s q).foldl (fun s cl => seeHead s cl q) s

/-- Take the head record: its bytes, the clock of the party after the read of the slot and the write of the head, and the state with the head
advanced (R161, R300). -/
def takeHead (s : State) (q : Nat) (d : QDesc) (clk : Nat) : LineData × Nat × State :=
  let a := d.slotAddr d.head
  let h := s.micro.homeLine (a / 64)
  let c := max clk (s.micro.raised h.wts)
  let rcd := s.physLine a
  let s := { s with micro := s.micro.setHome (a / 64) { h with rts := max h.rts c } }
  let s := s.physStore (s.queueAddr q + 16) (natToBytes 8 ((d.head + 1) % 2 ^ 32)) c
  (rcd, max c (s.stampOf (s.queueAddr q + 16)), headGone s q)

/-! ### Dequeues and what stands at a queue (R161, R331) -/

/-- A dispenser whose invalid-work-record event is held takes no further record (R233). -/
def dispenserHeld (s : State) (cl : Nat) : Bool :=
  [4 * cl, 4 * cl + 1, 4 * cl + 2, 4 * cl + 3].any (fun k => (s.core k).heldSq.any (fun h => decide (h.1 = .dispenser cl)))

/-- The dispenser's L2 slice holds a copy of the affinity block's first line (R335). -/
def affinityHere (s : State) (cl : Nat) (w : WorkRec) : Bool :=
  match (translate s (saveWho s (4 * cl)) w.frame.toNat).ans with
  | .ok e =>
    match (targetOf s e w.frame.toNat).loc with
    | .main pa => (s.micro.l2At cl (pa / 64)).isSome
    | _ => false
  | .error _ => false

/-- Whether a dispenser may take a record at the head of a queue at this moment (R331, R332, R335): a record
it has taken and not yet bound has the first claim to its target. -/
def canTake (s : State) (cl q : Nat) (rcd : LineData) : Bool :=
  let w := workRec rcd
  let ds := SMap.get {} s.dispensers cl
  !dispenserHeld s cl && (s.badRecord w
    || ((s.bindTarget cl q w.rcb).isSome && !ds.taken.any (fun p => decide (s.bindTarget cl p.1 (workRec p.2).rcb = s.bindTarget cl q w.rcb))
        && (decide (q / 256 = 0xF) || !w.affinity || affinityHere s cl w || ds.released.contains q)))

/-- A dispenser takes the head record of a queue and will bind it (R331, R413). -/
def dispenserTake (s : State) (cl q : Nat) (d : QDesc) : State :=
  let (rcd, c, s) := takeHead s q d (observeQueue s q (s.dispClk cl + 1))
  let s := queueWatch s q (d.slotAddr d.head) (partyWho (.dispenser cl))
  let ds := SMap.get {} s.dispensers cl
  let ds := { ds with taken := ds.taken ++ [(q, rcd)] }
  let s := { s with dispensers := SMap.set {} s.dispensers cl ds,
                    micro := { s.micro with clkDisp := SMap.set 0 s.micro.clkDisp cl c } }
  s.post [.dispenserBind cl q]

/-- A message is refused: its waiting sender traps with the cause (R160, R172). -/
def refuse (s : State) (who : ThreadRef) (e : Nat × Word) : State :=
  asThread s who (fun s => trap s e.1 e.2)

/-- The refusal of a DEQ or DEQT that finds a record: the bank it writes to is no longer owned (R271), or the slot lies in a protected egress
region, whose bytes only level M may read so (R367). The record then stays in the queue, for what is taken is always written (R161). -/
def deqRefusal (s : State) (q : DequeueReq) (d : QDesc) : Option (Nat × Word) :=
  match bankFault s (whoOf s q.who) q.t false with
  | some c => some (c, q.va)
  | none => if s.inEgress (.main (d.slotAddr d.head)) && decide ((s.ctxOf q.who).level ≠ .m) then some (0x0A, BitVec.ofNat 64 q.queue) else none

/-- Complete a DEQ or DEQT for its thread: S[d] receives the record number and the record is written (R161). The wait word stays until
the answer arrives (R100). -/
def finishDeq (s : State) (q : DequeueReq) (d : QDesc) : State :=
  match deqRefusal s q d with
  | some e => refuse s q.who e
  | none =>
    let s := queueWatch s q.queue (d.slotAddr d.head) (whoOf s q.who)
    asThread s q.who (fun s =>
      let (rcd, c, s) := takeHead s q.queue d (observeQueue s q.queue (s.clkOf q.who + 1))
      storeRecord ((s.setClk q.who c).setS q.d (BitVec.ofNat 64 d.head)) q.t q.va rcd)

/-- Whether a dispenser has a target able to take a queue's records (R161, R331, R332). -/
def hasTarget (s : State) (cl q : Nat) : Bool := (SMap.get {} s.dispensers cl).regs.any (fun r => (s.bindTarget cl q r).isSome)

/-- A dispenser that has no target for a queue's records withdraws its request, and with it its place (R161). -/
def withdraw (s : State) (q : Nat) : State :=
  let ws := SMap.get [] s.waiters q
  { s with waiters := SMap.set [] s.waiters q (ws.filter (fun w => match w with
      | .thread _ => true
      | .dispenser cl => hasTarget s cl q)) }

/-- Every dispenser's requests, at the end of a cycle. -/
def withdrawAll (s : State) : State := (s.waiters.map (·.1)).foldl withdraw s

/-- The quantum of an RCB in the deficit round-robin (R334). -/
def quantum (budget : Nat) : Int := if budget = 0 then 2 ^ 20 else max 1 (budget / 1024 : Nat)

/-- A value of a deficit, which has signed 40 bits; one beyond them is a free value (log 70). -/
def deficitBits (x : Int) : BitVec 40 := if -2 ^ 39 ≤ x ∧ x < 2 ^ 39 then BitVec.ofInt 40 x else Config.deficitBeyond x

/-- The deficit of an RCB of quantum `q` after a visit (R334). -/
def newDeficit (d : BitVec 40) (q : Int) (used : Nat) : BitVec 40 := deficitBits (min (d.toInt + q - used) q)

/-- Visits that leave a deficit positive, where the first leaves `v` and each later one, within the same instant, adds `q` (R334). -/
def visits (q v : Int) : Nat := if 0 < v then 1 else (-v / q).toNat + 2

/-- A dispenser visits the RCBs of a level in the order `ids`, again and again, until one has a positive deficit (R334): that RCB. -/
def visitUntil (s : State) (cl : Nat) (ids : List Nat) : Option Nat × State :=
  let ds := SMap.get {} s.dispensers cl
  let q (r : Nat) : Int := quantum (s.reg r).budget
  let v (r : Nat) : Int := (newDeficit (SMap.get 0 ds.deficit r) (q r) (SMap.get 0 ds.usedSince r)).toInt
  let n (r : Nat) : Nat := visits (q r) (v r)
  match ids.foldl (fun b r => match b with
    | none => some r
    | some x => if n r < n x then some r else b) (none : Option Nat) with
  | none => (none, s)
  | some w =>
    let first := ids.takeWhile (fun r => decide (r ≠ w)) ++ [w]
    let m (r : Nat) : Nat := if first.contains r then n w else n w - 1
    let ds := ids.foldl (fun (ds : Dispenser) r => if m r = 0 then ds
      else { ds with deficit := SMap.set 0 ds.deficit r (deficitBits (v r + ((m r - 1 : Nat) : Int) * q r)), usedSince := SMap.set 0 ds.usedSince r 0 }) ds
    (some w, { s with dispensers := SMap.set {} s.dispensers cl { ds with visited := w } })

/-- A dispenser may take the record at the head of a queue, which it can read (R36, R331, R367). -/
def headFor (s : State) (cl q : Nat) (d : QDesc) : Bool :=
  decide (d.count ≠ 0) && s.delivered (.main (d.slotAddr d.head)) && !s.inEgress (.main (d.slotAddr d.head)) && canTake s cl q (s.physLine (d.slotAddr d.head))

/-- Serve the parties that stand at a queue, oldest first, while it holds records (R102, R161). A dispenser visits the record's RCB until its
deficit allows the binding, and takes the record (R334). A head that is not delivered is a machine check of the oldest DEQ (R36). -/
def serveWaiters (s : State) (q : Nat) : Nat → State
  | 0 => s
  | n + 1 =>
    match s.queueDesc q with
    | none => s
    | some d =>
      if d.count = 0 then s
      else
        let s := withdraw s q
        let able : QWaiter → Bool := fun w => match w with
          | .thread _ => true
          | .dispenser cl => headFor s cl q d
        let ws := SMap.get [] s.waiters q
        match ws.find? able with
        | none => s
        | some w =>
          let gone := { s with waiters := SMap.set [] s.waiters q (ws.erase w) }
          match w with
          | .thread t =>
            if s.delivered (.main (d.slotAddr d.head)) then serveWaiters (finishDeq gone t d) q n
            else serveWaiters (refuse gone t.who (0x30, BitVec.ofNat 64 q)) q n
          | .dispenser cl =>
            let rcd := workRec (s.physLine (d.slotAddr d.head))
            let s := if s.badRecord rcd then gone else (visitUntil gone cl [rcd.rcb]).2
            serveWaiters (dispenserTake s cl q d) q n

/-- A party enqueues a record at the queue's home as one indivisible step, and who stands there is served (R160, R161): the record's number, the
party's clock after it, and the state. -/
def enqueueAt (s : State) (q : Nat) (rcd : LineData) (user : Bool) (w : Who) : Except (Nat × Word) (Nat × Nat × State) :=
  match queueRefusal s q user true, s.queueDesc q with
  | some e, _ => .error e
  | none, none => .error (0x01, BitVec.ofNat 64 q)
  | none, some d =>
    let (c, s) := appendRecord s q d rcd w.clk
    let s := serveWaiters (queueWatch s q (d.slotAddr d.tail) w) q 2
    let s := (dispensersOf s q).foldl (fun s cl => seeHead s cl q) s
    let s := s.post ((dispensersOf s q).map (fun cl => .dispenserRequest cl q))
    let s := if 0xE00 ≤ q ∧ q < 0xE10 then s.post [.fabricSend (q - 0xE00)] else s
    .ok (d.tail, c, s)

/-! ### ENQ, DEQ, DEQT -/

def isUser (s : State) : Bool := decide (s.me.level = .u)

/-- ENQ (R160): the record is read as one 64-byte load, then the request goes to the queue's home. -/
def execEnq (d a b : BitVec 5) (s : State) : Result :=
  let q := s.S a
  let ea := s.S b
  .next (match checkMe s ea { r := true, size := 64 } with
    | (.error c, s) => trap s c ea
    | (.ok t, s) =>
      withLine s t ea.toNat (fun l s =>
        (leave s 9 q.toNat .message).post [.homeEnqueue ⟨q.toNat, l.1, isUser s, none, s.cur, d⟩]))

/-- The thread `who` waits for the answer of a message. -/
def waitsFor (s : State) (who : ThreadRef) : Bool := decide ((s.ctxOf who).st = .bound) && decide ((s.ctxOf who).pend = .message)

/-- A message is accepted: its sender's instruction retires when the acknowledgement arrives; until then its wait stays (R169, R173). -/
def accept (s : State) (who : ThreadRef) : State :=
  (s.setCtx who { s.ctxOf who with pend := .reply }).post [.memoryReply who.core who.ctx]

/-- HOME_ENQUEUE (R160, R163): an accepted CALLAT makes its reply slot awaiting and answers the slot's number. -/
def execHomeEnqueue (q : EnqueueReq) (s : State) : Result :=
  if !ctxExists q.who.core q.who.ctx then .fault .noSuchUnit
  else if !waitsFor s q.who then .next s
  else
    let w := whoOf s q.who
    .next (match queueGate s q.queue q.who.core (.homeEnqueue q) with
      | .error s => s
      | .ok s =>
        match enqueueAt s q.queue q.record q.user { w with clk := w.clk + 1 } with
        | .error e => refuse s q.who e
        | .ok (n, c, s) =>
          let s := asThread s q.who (fun s =>
            match q.call with
            | some i => (s.setMe { s.me with rstate := SMap.set 0 s.me.rstate i 1 }).setS q.d (BitVec.ofNat 64 i)
            | none => s.setS q.d (BitVec.ofNat 64 n))
          accept (s.setClk q.who c) q.who)

/-- DEQ and DEQT (R161): S[b] is checked first, so a record once taken is always written. -/
def deq (s : State) (d a b : BitVec 5) (wait : Bool) : State :=
  let q := s.S a
  let ea := s.S b
  match checkMe s ea { w := true, size := 64 } with
  | (.error c, s) => trap s c ea
  | (.ok t, s) =>
    (leave s 5 q.toNat .message).post [.homeDequeue ⟨q.toNat, t, isUser s, wait, s.cur, d, ea⟩]

/-- DEQ (R161). -/
def execDeq (d a b : BitVec 5) (s : State) : Result := .next (deq s d a b true)

/-- DEQT (R161). -/
def execDeqt (d a b : BitVec 5) (s : State) : Result := .next (deq s d a b false)

/-- HOME_DEQUEUE (R161): the head record is taken, or DEQT answers all ones, or DEQ stands at the queue. -/
def execHomeDequeue (q : DequeueReq) (s : State) : Result :=
  if !ctxExists q.who.core q.who.ctx then .fault .noSuchUnit
  else if !waitsFor s q.who then .next s
  else
    .next (match queueGate s q.queue q.who.core (.homeDequeue q) with
      | .error s => s
      | .ok s =>
        match queueRefusal s q.queue q.user false, s.queueDesc q.queue with
        | some e, _ => refuse s q.who e
        | none, none => refuse s q.who (0x01, BitVec.ofNat 64 q.queue)
        | none, some d =>
          if d.count ≠ 0 then finishDeq s q d
          else if q.wait then { s with waiters := SMap.set [] s.waiters q.queue (SMap.get [] s.waiters q.queue ++ [.thread q]) }
          else accept (asThread (watchReport s (whoOf s q.who) (.main (s.queueAddr q.queue)) true true) q.who (fun s => s.setS q.d (BitVec.allOnes 64))) q.who)

/-! ### The dispenser's choice (R334) -/

/-- A head record a dispenser could take: its queue, RCB and effective level. -/
structure HeadRec where
  queue : Nat
  rcb : Nat
  level : Nat
  bad : Bool
  deriving DecidableEq, Repr

/-- The heads a dispenser could take now, with their effective levels. -/
def dispenserHeads (s : State) (cl : Nat) : List HeadRec :=
  let ds := SMap.get {} s.dispensers cl
  (s.queuesOf cl).filterMap (fun q =>
    match s.queueDesc q with
    | none => none
    | some d =>
      if !headFor s cl q d || !(deviceGate s (s.queueAddr q / 64)).1 then none
      else
          let w := workRec (s.physLine (d.slotAddr d.head))
          let seen := SMap.get 0 ds.firstSeen q
          let age := if seen = 0 then 0 else s.cycle + 1 - seen
          some ⟨q, w.rcb, (s.reg w.rcb).priority - age / 2 ^ 20, s.badRecord w⟩)

/-- An id takes its place among increasing ones. -/
def insertId (i : Nat) : List Nat → List Nat
  | [] => [i]
  | j :: l => if i < j then i :: j :: l else if i = j then j :: l else j :: insertId i l

/-- The RCBs of a level in increasing id, from the one after that visited last (R334). -/
def visitOrder (ids : List Nat) (last : Nat) : List Nat :=
  let l := ids.foldl (fun l i => insertId i l) []
  l.filter (fun i => decide (last < i)) ++ l.filter (fun i => decide (i ≤ last))

/-- A dispenser reads the run words of its RCBs with tracking reads (R321, R326): its cluster is registered again for the lines whose
copies it has dropped. -/
def trackRuns (s : State) (cl : Nat) : State :=
  ((SMap.get {} s.dispensers cl).regs.flatMap (fun r => [s.rcbAddr r / 64, s.rcbAddr r / 64 + 1])).foldl (fun s l =>
    if (SMap.get {} s.micro.dir l).coarse && (SMap.get {} s.micro.dir l).clusters.getLsbD cl then s else s.track (.dispenser cl) l) s

/-- DISPENSER_REQUEST (R161, R331, R334): the dispenser's request for records of a queue reaches the queue's home. It stands there while no
head can be taken and the dispenser has a target; otherwise the dispenser visits the RCBs of the lowest effective level in turn until one has a
positive deficit, and takes one record of it. -/
def execDispenserRequest (cluster queue : Nat) (s : State) : Result :=
  if cluster ≥ 64 ∨ queue ≥ 4096 then .fault .noSuchUnit
  else if !(s.queuesOf cluster).contains queue then .next s
  else match queueGate s queue 1024 (.dispenserRequest cluster queue) with
  | .error s => .next s
  | .ok s =>
    let s := withdraw (trackRuns s cluster) queue
    let s := (s.queuesOf cluster).foldl (fun s q => seeHead s cluster q) s
    let heads := dispenserHeads s cluster
    let take (q : Nat) (s : State) : State :=
      match s.queueDesc q with
      | some d => dispenserTake s cluster q d
      | none => s
    .next (match heads.find? (·.bad) with
      | some h => take h.queue s
      | none =>
        let low := heads.foldl (fun m h => min m h.level) 16
        let level := heads.filter (fun h => decide (h.level = low))
        match visitUntil s cluster (visitOrder (level.map (·.rcb)) (SMap.get {} s.dispensers cluster).visited) with
        | (none, s) =>
          let ws := SMap.get [] s.waiters queue
          if ws.contains (.dispenser cluster) || !hasTarget s cluster queue then s
          else { s with waiters := SMap.set [] s.waiters queue (ws ++ [.dispenser cluster]) }
        | (some r, s) =>
          match level.find? (fun h => decide (h.rcb = r)) with
          | some h => take h.queue s
          | none => s)

/-- DISPENSER_BIND (R332, R333): a taken record is bound to the first target; an invalid one is dropped and a kind 7 record
written. -/
def execDispenserBind (cluster queue : Nat) (s : State) : Result :=
  if cluster ≥ 64 ∨ queue ≥ 4096 then .fault .noSuchUnit
  else
    let ds := SMap.get {} s.dispensers cluster
    match ds.taken.find? (fun p => decide (p.1 = queue)) with
    | none => .next s
    | some p =>
      let w := workRec p.2
      let drop (s : State) : State :=
        let ds := SMap.get {} s.dispensers cluster
        { s with dispensers := SMap.set {} s.dispensers cluster { ds with taken := ds.taken.erase p } }
      let ended (s : State) : State := (coresOf cluster).foldl (fun s k => endNeeds s k (fun x => decide (x = .bind queue))) s
      if s.badRecord w then
        let core := if queue / 256 = 0xF then queue % 256 else 4 * cluster
        .next (pushSq (ended (drop s)) core (.dispenser cluster)
          ⟨sqWord0 0x01 7 0 0 false false 0, 0, w.code, BitVec.ofNat 64 queue⟩)
      else match s.bindTarget cluster queue w.rcb with
        | none => .next (s.post [.dispenserBind cluster queue])
        | some t =>
          match bindRecord (drop s) cluster queue t w with
          | .ok s' => .next ((ended s').post [.dispenserRequest cluster queue])
          | .error s' =>
            let ds' := SMap.get {} s'.dispensers cluster
            .next ({ s' with dispensers := SMap.set {} s'.dispensers cluster { ds' with taken := p :: ds'.taken } }.post [.dispenserBind cluster queue])

/-- AFFINITY_TIMEOUT (R335): 2^12 cycles after the dispenser first saw a work-queue record with affinity at the head, it may
take it. -/
def execAffinityTimeout (cluster queue : Nat) (s : State) : Result :=
  if cluster ≥ 64 ∨ queue ≥ 4096 then .fault .noSuchUnit
  else
    let ds := SMap.get {} s.dispensers cluster
    let seen := SMap.get 0 ds.firstSeen queue
    let waits : Bool := match s.queueDesc queue with
      | some d => (workRec (s.physLine (d.slotAddr d.head))).affinity
      | none => false
    if seen = 0 ∨ waits = false ∨ ds.released.contains queue = true then .next s
    else if s.cycle + 1 < seen + 2 ^ 12 then .next (s.post [.affinityTimeout cluster queue])
    else .next (({ s with dispensers := SMap.set {} s.dispensers cluster { ds with released := queue :: ds.released } }).post
      [.dispenserRequest cluster queue])

/-! ### Calls and replies (R162 to R165, R167, R168) -/

/-- The lowest reply slot in state empty. -/
def emptySlot (x : Context) : Option Nat := (List.range 4).find? (fun i => decide (SMap.get 0 x.rstate i = 0))

/-- The record CALLAT enqueues (R163). -/
def callRecord (x : Context) (code route : Word) : LineData :=
  BitVec.ofNat 512 (code.toNat + route.toNat * 2 ^ 64 + (x.readS 1).toNat * 2 ^ (64 * 3) + (x.readS 2).toNat * 2 ^ (64 * 4)
    + (x.readS 3).toNat * 2 ^ (64 * 5) + (x.readS 4).toNat * 2 ^ (64 * 6) + x.rcb.toNat * 2 ^ (64 * 7))

/-- CALLAT (R163): the record goes to the target core's private queue at level S; when the enqueue is accepted the slot
awaits and S[d] receives its number. -/
def execCallat (d a b : BitVec 5) (s : State) : Result :=
  let t := s.S a
  .next (
    if bitsOf t 63 8 ≠ 0 then trap s 0x01 t
    else match emptySlot s.me with
      | none => trap s 0x19 0
      | some i =>
        let rcd := callRecord s.me (s.S b) (routeWord s.cur i)
        (leave s 9 t.toNat .message).post [.homeEnqueue ⟨0xF00 + t.toNat, rcd, false, some i, s.cur, d⟩])

/-- REPLY (R164). -/
def execReply (a b : BitVec 5) (s : State) : Result :=
  .next (match routeOf (s.S a) with
    | none => trap s 0x01 (s.S a)
    | some (r, _) => (leave s 9 r.core .message).post [.replyDelivery (s.S a) (s.S b) s.cur])

/-- REPLY_DELIVERY (R164, R165, R245): an awaiting slot becomes full and its WAITR wakes; a value for any other state is
discarded. The delivery is a member of the sender's, after which its clock stands at the slot's stamp (R300). -/
def execReplyDelivery (route value : Word) (sender : ThreadRef) (s : State) : Result :=
  if !ctxExists sender.core sender.ctx then .fault .noSuchUnit
  else if !waitsFor s sender then .next s
  else
    let s := accept (s.setClk sender (s.clkOf sender + 1)) sender
    match routeOf route with
    | none => .next s
    | some (r, i) =>
      let x := s.ctxOf r
      if x.st ≠ .free ∧ SMap.get 0 x.rstate i = 1 then
        let k := 4 * clockKey r + i
        let s := s.setCtx r { x with reply := SMap.set 0 x.reply i value, rstate := SMap.set 0 x.rstate i 2 }
        let s := { s with micro := { s.micro with stReply := SMap.set 0 s.micro.stReply k (max (SMap.get 0 s.micro.stReply k) (s.clkOf sender)) } }
        .next (if x.waitKind = 2 ∧ x.waitObj = i ∧ x.pend = .reissue then s.postWake r.core r.ctx else s)
      else .next s

/-- WAITR (R167). -/
def execWaitr (d a : BitVec 5) (s : State) : Result :=
  let i := (s.S a).toNat
  .next (
    if i > 3 ∨ SMap.get 0 s.me.rstate i = 0 then trap s 0x01 (s.S a)
    else if SMap.get 0 s.me.rstate i = 2 then
      let v := SMap.get 0 s.me.reply i
      let s := s.setClk s.cur (max (s.clkOf s.cur + 1) (SMap.get 0 s.micro.stReply (4 * clockKey s.cur + i)))
      let s := s.setMe { s.me with rstate := SMap.set 0 s.me.rstate i 0 }
      writeRetire s d v
    else leave s 2 i .reissue)

/-- WAITW (R168, R242): a tile program waits for a dispenser to bind work; the supervisor waits for its queue. -/
def execWaitw (s : State) : Result :=
  .next (
    if s.me.slot = 15 then (if s.myCore.sq.isEmpty then leave s 6 0 .reissue else retire s)
    else (leave s 6 0 .work).poll (clusterOf s.cur.core))

/-! ### Atomics and joins at the home (R153 to R157) -/

/-- What a member of AMO, or CAS, writes over `m`; none where it writes nothing (R154, R155). -/
def amoNew (op : AmoOp) (n m y : Nat) : Option Nat :=
  let w := 8 * n
  let sm := (BitVec.ofNat w m).toInt
  let sy := (BitVec.ofNat w y).toInt
  match op with
  | .add => some ((m + y) % 2 ^ w)
  | .and => some (m &&& y)
  | .or => some (m ||| y)
  | .xor => some (m ^^^ y)
  | .min => some (if sm ≤ sy then m else y)
  | .max => some (if sm ≥ sy then m else y)
  | .minu => some (if m ≤ y then m else y)
  | .maxu => some (if m ≥ y then m else y)
  | .swp => some y
  | .cas e => if m = e.toNat % 2 ^ w then some y else none

/-- Issue an atomic (R146, R98, R153): the request goes to the home and the thread waits for the old value. -/
def atomic (s : State) (d a b : BitVec 5) (n : Nat) (op : AmoOp) : State :=
  let ea := s.S a
  match checkMe s ea { r := true, w := true, size := n, atomic := true } with
  | (.error c, s) => trap s c ea
  | (.ok t, s) =>
    if hazard s (resolveAlias s.cur.core ea.toNat) then leave s 1 ea.toNat .reissue
    else (leave s 1 ea.toNat .message).post [.homeAtomic ⟨t, n, op, BitVec.ofNat 64 ((s.S b).toNat % 2 ^ (8 * n)), s.cur, d⟩]

/-- The width an atomic's z field names: 0 W, 1 D (R154, R155). -/
def amoSize (z : BitVec 1) : Nat := if z = 0 then 4 else 8

/-- AMOADD (R154). -/
def execAmoadd (d a b : BitVec 5) (z : BitVec 1) (s : State) : Result := .next (atomic s d a b (amoSize z) .add)
/-- AMOAND (R154). -/
def execAmoand (d a b : BitVec 5) (z : BitVec 1) (s : State) : Result := .next (atomic s d a b (amoSize z) .and)
/-- AMOOR (R154). -/
def execAmoor (d a b : BitVec 5) (z : BitVec 1) (s : State) : Result := .next (atomic s d a b (amoSize z) .or)
/-- AMOXOR (R154). -/
def execAmoxor (d a b : BitVec 5) (z : BitVec 1) (s : State) : Result := .next (atomic s d a b (amoSize z) .xor)
/-- AMOMIN (R154). -/
def execAmomin (d a b : BitVec 5) (z : BitVec 1) (s : State) : Result := .next (atomic s d a b (amoSize z) .min)
/-- AMOMAX (R154). -/
def execAmomax (d a b : BitVec 5) (z : BitVec 1) (s : State) : Result := .next (atomic s d a b (amoSize z) .max)
/-- AMOMINU (R154). -/
def execAmominu (d a b : BitVec 5) (z : BitVec 1) (s : State) : Result := .next (atomic s d a b (amoSize z) .minu)
/-- AMOMAXU (R154). -/
def execAmomaxu (d a b : BitVec 5) (z : BitVec 1) (s : State) : Result := .next (atomic s d a b (amoSize z) .maxu)
/-- AMOSWP (R154). -/
def execAmoswp (d a b : BitVec 5) (z : BitVec 1) (s : State) : Result := .next (atomic s d a b (amoSize z) .swp)
/-- CAS (R155): S[d] holds the expected value. -/
def execCas (d a b : BitVec 5) (z : BitVec 1) (s : State) : Result := .next (atomic s d a b (amoSize z) (.cas (s.S d)))

/-- HOME_ATOMIC (R153 to R155): read, modify and write as one indivisible member, in order of arrival at the home (R102, R305); the old
value returns, sign-extended. The ownership of a local-store bank, and the delivery of the line, are checked at the member's point (R36, R271). -/
def execHomeAtomic (q : AtomicReq) (s : State) : Result :=
  if !ctxExists q.who.core q.who.ctx then .fault .noSuchUnit
  else if !waitsFor s q.who then .next s
  else
    let w := { whoOf s q.who with self := some (.homeAtomic q) }
    let m := bytesToNat (s.bytesAt q.t.loc q.n)
    let lv := storeLevel s w q.t true
    .next (match pointFault s w q.t, atomicGate s w q.t with
      | some c, _ => refuse s q.who (c, BitVec.ofNat 64 (s.ctxOf q.who).waitObj)
      | none, .error s => s
      | none, .ok s =>
        let a := atomicAt s w q.t (match amoNew q.op q.n m q.y.toNat with
          | some v => natToBytes q.n v
          | none => [])
        asThread a.2.2 q.who (fun s => answer ((storedMe q.t (a.1, a.2.1, s) s.me.waitObj lv).setS q.d (sext m (8 * q.n)))))

/-- The JOIN of a block at the home, which is ready (R157), for a thread, an RCB or a graph: what the counter held, or the refusal. The
continuation's line is read as ENQ's record is (R36, R146); `ea` is the block's address, which a line of the block that is not delivered reports. The block's reserved bytes, and bits [63:12] of
its queue field unless the counter is 1, are not looked at (R3, R156; DESIGN CHOICE, log 49). A block in a peer's memory is joined at the exporter's
home, which enqueues at a queue of its own (R386; what it answers: log 6). -/
def joinAt (s : State) (w : Who) (t : Target) (user : Bool) (ea : Word) : Except (Nat × Word) (Nat × Stored) :=
  let cnt := bytesToNat (s.bytesAt t.loc 8)
  let q := bytesToNat (s.bytesAt (t.loc.add 8) 8)
  let c := max (w.clk + 1) (SMap.get 0 s.micro.stJoin t.loc.line)
  let s := { s with micro := { s.micro with stJoin := SMap.set 0 s.micro.stJoin t.loc.line c } }
  let w := { w with clk := c }
  if !s.delivered t.loc then .error (0x30, ea)
  else if cnt = 0 then .ok (0, atomicAt s w t [])
  else if cnt = 1 then
    if !s.delivered (t.loc.add 64) then .error (0x30, ea)
    else if foreignLine t.loc.line then
      match Config.peerJoin s.tick with
      | some c => .error (c.toNat, BitVec.ofNat 64 q)
      | none => .ok (cnt, atomicAt s w t (natToBytes 8 0))
    else match enqueueAt s q (s.lineAt (t.loc.add 64)).1 user w with
      | .error e => .error e
      | .ok (_, c, s) => .ok (cnt, atomicAt s { w with clk := c } t (natToBytes 8 0))
  else .ok (cnt, atomicAt s w t (natToBytes 8 (cnt - 1)))

/-- The line of the queue that a JOIN of a block enqueues at: its counter is 1 (R157). A block in a peer's memory names a queue of the peer's. -/
def joinLines (s : State) (t : Target) : List Nat :=
  let q := bytesToNat (s.bytesAt (t.loc.add 8) 8)
  if bytesToNat (s.bytesAt t.loc 8) = 1 ∧ q < 4096 ∧ foreignLine t.loc.line = false then [s.queueAddr q / 64] else []

/-- A JOIN stands at the home of the queue that it enqueues at, when that home does not serve it now (R157, R305, R323). -/
def joinGate (s : State) (core : Nat) (self : Instr) : List Nat → Except State State
  | [] => .ok s
  | l :: _ => homeGate s l core .getx self

/-- The checks of JOIN (R157): those of an atomic access (R146), with the block's alignment in the place of check 2, so that address bits
[63:56] come first (R28; DEDUCED, log 48). -/
def checkBlock (s : State) (ea : Word) : Except Nat Target × State := checkMe s ea { r := true, w := true, size := 128, atomic := true }

/-- JOIN (R157). -/
def execJoin (d a : BitVec 5) (s : State) : Result :=
  let ea := s.S a
  .next (match checkBlock s ea with
    | (.error c, s) => trap s c ea
    | (.ok t, s) =>
      if hazard s (resolveAlias s.cur.core ea.toNat) then leave s 1 ea.toNat .reissue
      else (leave s 1 ea.toNat .message).post [.homeJoin t s.cur d])

/-- HOME_JOIN (R157): the decrement and the enqueue are one indivisible member; a refusal traps the thread. -/
def execHomeJoin (block : Target) (who : ThreadRef) (d : BitVec 5) (s : State) : Result :=
  if !ctxExists who.core who.ctx then .fault .noSuchUnit
  else if !waitsFor s who then .next s
  else
    let w := { whoOf s who with self := some (.homeJoin block who d) }
    let ea : Word := BitVec.ofNat 64 (s.ctxOf who).waitObj
    let lv := storeLevel s w block true
    .next (match bankFault s w block true, atomicGate s w block with
      | some c, _ => refuse s who (c, ea)
      | none, .error s => s
      | none, .ok s =>
        match joinGate s w.core (.homeJoin block who d) (joinLines s block) with
        | .error s => s
        | .ok s =>
        match joinAt s w block (decide ((s.ctxOf who).level = .u)) ea with
        | .error e => refuse s who e
        | .ok (cnt, a) => asThread a.2.2 who (fun s => answer ((storedMe block (a.1, a.2.1, s) ea.toNat lv).setS d (BitVec.ofNat 64 cnt))))

end Sys2Proof.Machine
end

