-- ==== Sys2Proof/Machine/Barriers.lean ====
section
/-! DEFINITION. Event-crossbar counters (R226), named barriers (R179 to R187) and basins (R188 to R191). -/

namespace Sys2Proof.Machine

/-! ### Crossbar pulses (R226, R227) -/

/-- A condition of a term: in use, counter, threshold. -/
def xCond (conds : Word) (i : Nat) : Bool × Nat × Nat :=
  (conds.getLsbD (16 * i + 15), bitsOf conds (16 * i + 14) (16 * i + 10), bitsOf conds (16 * i + 9) (16 * i))

/-- The conditions of a term that are in use. -/
def XTerm.used (t : XTerm) : List (Nat × Nat) :=
  (List.range 4).filterMap (fun i => let c := xCond t.conds i; if c.1 then some c.2 else none)

/-- Whether an armed term fires now (R227). -/
def Core.termReady (c : Core) (i : Nat) : Bool :=
  let t := SMap.get {} c.terms i
  c.armed.getLsbD i && !t.used.isEmpty
    && t.used.all (fun p => decide (p.2 ≤ (SMap.get {} c.counters p.1).count))
    && decide ((SMap.get {} c.staged t.staged).pending < 255)

/-- The armed terms that fire now, in increasing index. -/
def Core.readyTerms (c : Core) : List Nat := (List.range 64).filter (fun i => c.termReady i)

/-- The crossbar of core `k` is evaluated, once on each cycle: the lowest ready term fires, and after it those that follow (R227). -/
def evalXbar (s : State) (k : Nat) : State :=
  match (s.core k).readyTerms with
  | [] => s
  | i :: _ => { s with due := s.due ++ [.xbarTermFire k i] }

/-- A pulse of a kind and index at the crossbar of core `k`: counters that count it rise, saturating. The launch that a
count triggers observes the event at clock `clk` (R227). -/
def pulse (s : State) (k kind index clk : Nat) : State :=
  let c := s.core k
  let counters := c.counters.map (fun p =>
    if p.2.kind = kind ∧ (kind ≤ 3 ∨ p.2.index = index) then
      (p.1, { p.2 with count := min 65535 (p.2.count + 1), clk := max p.2.clk clk }) else p)
  s.setCore k { c with counters := counters }

/-! ### Barriers -/

/-- The steps on an entry (R180). -/
inductive BarStep where
  | arrive
  | expect (x : Nat)
  | landed (n : Nat)
  | fork
  | cancel
  deriving DecidableEq, Repr

def Core.barrier (c : Core) (i : Nat) : Barrier := SMap.get {} c.barriers i

def State.setBarrier (s : State) (k i : Nat) (b : Barrier) : State :=
  let c := s.core k
  s.setCore k { c with barriers := SMap.set {} c.barriers i b }

/-- The handle that names a barrier (R89). -/
def handleOf (k i : Nat) : Nat := 2 ^ 19 + k % 256 * 2 ^ 11 + i % 2 ^ 11

/-- The status word of BTEST and BWAIT (R186). -/
def barStatus (b : Barrier) : Word :=
  BitVec.ofNat 64 ((BitVec.ofInt 40 b.pending).toNat * 2 ^ 24 + b.remaining % 65536 * 2 ^ 8
    + (if b.armed then 4 else 0) + (if b.fault then 2 else 0) + (if b.phase then 1 else 0))

/-- Whether an operation on an initialised entry, or on an uninitialised one, is a misuse by its party (R181). -/
def barDenied (b : Barrier) (part : Nat) (user : Bool) : Bool :=
  decide (b.expected = 0) || (user && decide (b.part ≠ part))

/-- The condition of a waiting remote message (R169, R186). -/
def barWaits (b : Barrier) : BarOp → Bool
  | .wait p => decide (b.phase = p)
  | .disarmed => b.armed
  | _ => false

def barKey (k i : Nat) : Nat := 2048 * k + i

/-- An observation of a barrier raises the observer's clock (R300). -/
def observeBar (s : State) (r : ThreadRef) (k i : Nat) : State :=
  s.setClk r (max (s.clkOf r + 1) (SMap.get 0 s.micro.stBarrier (barKey k i)))

def stampBar (s : State) (k i clk : Nat) : State :=
  { s with micro := { s.micro with stBarrier := SMap.set 0 s.micro.stBarrier (barKey k i) (max (SMap.get 0 s.micro.stBarrier (barKey k i)) clk) } }

/-- The answer of a barrier to a remote thread: the sender's instruction retires when it arrives, and it writes S[d] for BTEST and BWAIT (R173,
R187). -/
def answerBar (s : State) (m : BarrierMsg) : State :=
  let b := (s.core m.core).barrier m.index
  let s := match m.op with
    | .test => asThread (observeBar s m.who m.core m.index) m.who (fun s => s.setMe { s.me with answer := some (m.d, barStatus b) })
    | .wait _ => asThread (observeBar s m.who m.core m.index) m.who (fun s => s.setMe { s.me with answer := some (m.d, barStatus b) })
    | .disarmed => observeBar s m.who m.core m.index
    | _ => s
  accept s m.who

/-- The waiters of a barrier, local and remote, whose condition may have come to hold (R101, R186). -/
def barNotify (s : State) (k i : Nat) : State :=
  let c := s.core k
  let b := c.barrier i
  let due := c.bwaiters.filter (fun m => decide (m.index = i) && !barWaits b m.op)
  let s := s.setCore k { c with bwaiters := c.bwaiters.filter (fun m => !(decide (m.index = i) && !barWaits b m.op)) }
  wakeAll (due.foldl answerBar s) k 3 (handleOf k i)

/-- A completed phase wakes its waiters and pulses the crossbar (R180). -/
def barWake (s : State) (k i : Nat) : State := pulse (barNotify s k i) k 4 i (SMap.get 0 s.micro.stBarrier (barKey k i))

/-- Complete a phase (R180). -/
def barComplete (b : Barrier) : Barrier := { b with phase := !b.phase, remaining := b.expected, armed := false }

/-- Add to the pending bytes; outside 40 bits the fault bit is set and pending stays (R180). -/
def barPend (b : Barrier) (x : Int) : Barrier :=
  let v := b.pending + x
  if v < -(2 ^ 39) ∨ v ≥ 2 ^ 39 then { b with fault := true } else { b with pending := v }

/-- The effect of a step on an entry, and whether it completes the phase (R180). -/
def barStep (b : Barrier) (st : BarStep) : Barrier × Bool :=
  let fin (b : Barrier) : Barrier × Bool :=
    let b := { b with armed := true }
    if b.remaining = 0 ∧ b.pending = 0 then (barComplete b, true) else (b, false)
  match st with
  | .arrive => fin { b with remaining := b.remaining - 1 }
  | .expect x => fin { barPend b x with remaining := b.remaining - 1 }
  | .landed n => fin (barPend b (-(n : Int)))
  | .fork => fin b
  | .cancel => (barComplete { b with fault := true, pending := 0 }, true)

/-- A step that R181 calls a misuse. -/
def barMisuse (b : Barrier) (st : BarStep) (part : Nat) (user : Bool) : Bool :=
  barDenied b part user || (match st with
    | .arrive => decide (b.remaining = 0)
    | .expect _ => decide (b.remaining = 0)
    | _ => false)

/-- Make a step on a barrier at clock `clk` as one indivisible step on the entry (R180). -/
def barDo (s : State) (k i : Nat) (st : BarStep) (clk : Nat) : State :=
  let (b, done) := barStep ((s.core k).barrier i) st
  let s := stampBar (s.setBarrier k i b) k i clk
  if done then barWake s k i else s

/-- A step that a barge, or a message whose sender has retired, makes on the barrier its handle names: a misuse sets fault
and is otherwise dropped (R180, R181). -/
def barSignal (s : State) (h : BitVec 32) (st : BarStep) (part : Nat) (user : Bool) (clk : Nat) : State :=
  if !handleValid h then s
  else
    let k := handleCore h
    let i := handleIndex h
    let b := (s.core k).barrier i
    if barMisuse b st part user then s.setBarrier k i { b with fault := true } else barDo s k i st clk

/-- BINIT's effect (R183): a waiter whose phase the new one differs from is woken (R186). -/
def barInit (s : State) (k i count part : Nat) (clk : Nat) : State :=
  barNotify (stampBar (s.setBarrier k i { part := part, expected := count, remaining := count }) k i clk) k i

/-- Whether a BINIT is a misuse (R181). -/
def initMisuse (b : Barrier) (part : Nat) (user : Bool) : Bool :=
  (decide (b.expected ≠ 0) && user && decide (b.part ≠ part)) || b.armed

/-- What an operation of a thread does at the entry: `none` where it is a misuse, `some (false, s)` where it waits there. -/
def barOp (s : State) (k i : Nat) (op : BarOp) (part : Nat) (user : Bool) (clk : Nat) : Option (Bool × State) :=
  let b := (s.core k).barrier i
  match op with
  | .init n => if initMisuse b part user then none else some (true, barInit s k i n.toNat part clk)
  | .arrive => if barMisuse b .arrive part user then none else some (true, barDo s k i .arrive clk)
  | .expect x => if barMisuse b (.expect x.toNat) part user then none else some (true, barDo s k i (.expect x.toNat) clk)
  | .test => if barDenied b part user then none else some (true, s)
  | .wait p => if barDenied b part user then none else some (decide (b.phase ≠ p), s)
  | .disarmed => if barDenied b part user then none else some (!b.armed, s)

/-- The partition and level of the executing thread as a barrier sees them. -/
def State.myPart (s : State) : Nat := s.myCore.partOf s.me.slot

/-- A barrier instruction (R181, R182, R187): local to its core at once, remote by a message. `val` is what a local BTEST or
BWAIT writes to S[d]; `waits` says that a remote one waits with kind 3. -/
def barrierInstr (s : State) (h : BitVec 32) (op : BarOp) (d : BitVec 5) (val waits : Bool) : State :=
  if !handleValid h then trap s 0x1A (h.setWidth 64)
  else
    let k := handleCore h
    let i := handleIndex h
    let clk := s.clkOf s.cur + 1
    if k = s.cur.core then
      match barOp s k i op s.myPart (isUser s) clk with
      | none => trap s 0x1A (h.setWidth 64)
      | some (false, s) => leave s 3 h.toNat .reissue
      | some (true, s) =>
        let v := barStatus ((s.core k).barrier i)
        let s := if waits then observeBar s s.cur k i else s.setClk s.cur clk
        if val then writeRetire s d v else retire s
    else
      (leave (s.setClk s.cur clk) (if waits then 3 else 9) h.toNat .message).post
        [.remoteBarrierOperation ⟨k, i, op, s.myPart, isUser s, s.cur, d, clk⟩]

/-- BINIT (R183). -/
def execBinit (a : BitVec 4) (b : BitVec 5) (s : State) : Result :=
  .next (
    if !handleValid (s.B a) then trap s 0x1A ((s.B a).setWidth 64)
    else if (s.S b).toNat < 1 ∨ 65535 < (s.S b).toNat then trap s 0x1A ((s.B a).setWidth 64)
    else barrierInstr s (s.B a) (.init (s.S b)) 0 false false)

/-- BARR (R185). -/
def execBarr (a : BitVec 4) (s : State) : Result := .next (barrierInstr s (s.B a) .arrive 0 false false)

/-- BEXP (R185). -/
def execBexp (a : BitVec 4) (b : BitVec 5) (s : State) : Result :=
  .next (
    if !handleValid (s.B a) then trap s 0x1A ((s.B a).setWidth 64)
    else if (s.S b).toNat ≥ 2 ^ 39 then trap s 0x01 (s.S b)
    else barrierInstr s (s.B a) (.expect (s.S b)) 0 false false)

/-- BWAIT (R186). -/
def execBwait (d : BitVec 5) (a : BitVec 4) (b : BitVec 5) (s : State) : Result :=
  .next (barrierInstr s (s.B a) (.wait ((s.S b).getLsbD 0)) d true true)

/-- BTEST (R186). -/
def execBtest (d : BitVec 5) (a : BitVec 4) (s : State) : Result := .next (barrierInstr s (s.B a) .test d true true)

/-- WAITE on a barrier (R169). -/
def execWaite (a : BitVec 4) (s : State) : Result := .next (barrierInstr s (s.B a) .disarmed 0 false true)

/-- BHSET (R184). -/
def execBhset (d : BitVec 4) (a : BitVec 5) (s : State) : Result :=
  .next (if handleForm (s.S a) then retire (s.setB d ((s.S a).setWidth 32)) else trap s 0x01 (s.S a))

/-- REMOTE_BARRIER_OPERATION (R169, R173, R187): the operation takes effect at its barrier; a misuse traps the waiting sender
(DEDUCED, log 26); a BWAIT or WAITE whose condition does not hold waits at the barrier. -/
def execRemoteBarrierOperation (m : BarrierMsg) (s : State) : Result :=
  if !coreExists m.core || decide (m.index ≥ 2048) || !ctxExists m.who.core m.who.ctx then .fault .noSuchUnit
  else if !waitsFor s m.who then .next s
  else
    .next (match barOp s m.core m.index m.op m.part m.user m.clk with
      | none => refuse s m.who (0x1A, BitVec.ofNat 64 (handleOf m.core m.index))
      | some (false, s) => s.setCore m.core { s.core m.core with bwaiters := (s.core m.core).bwaiters ++ [m] }
      | some (true, s) => answerBar s m)

/-! ### Basins (R188 to R191) -/

def Core.basin (c : Core) (i : Nat) : Basin := SMap.get {} c.basins i

def State.setBasin (s : State) (k i : Nat) (b : Basin) : State :=
  let c := s.core k
  s.setCore k { c with basins := SMap.set {} c.basins i b }

/-- Free slots, and filled slots not yet taken (R188). -/
def Basin.free (b : Basin) : Nat := 2 ^ b.k - (b.claim + 512 - b.release) % 512
def Basin.filled (b : Basin) : Nat := (b.commit + 512 - b.take) % 512

/-- A barrier entry's 128 bits (R179). -/
def Barrier.bits (b : Barrier) : BitVec 128 :=
  BitVec.ofNat 128 (b.part % 16 * 2 ^ 75 + (if b.armed then 2 ^ 74 else 0) + (if b.fault then 2 ^ 73 else 0) + (if b.phase then 2 ^ 72 else 0)
    + b.expected % 2 ^ 16 * 2 ^ 56 + b.remaining % 2 ^ 16 * 2 ^ 40) ||| ((BitVec.ofInt 40 b.pending).setWidth 128)

/-- A basin's 128 bits of state, as the debugger reads them (R188). -/
def Basin.bits (b : Basin) : BitVec 128 :=
  BitVec.ofNat 128 (b.release % 512 * 2 ^ 119 + b.take % 512 * 2 ^ 110 + b.commit % 512 * 2 ^ 101 + b.claim % 512 * 2 ^ 92
    + b.k % 16 * 2 ^ 88 + b.j % 32 * 2 ^ 83 + (if b.enabled then 2 ^ 82 else 0) + b.base.toNat % 2 ^ 56)

def inc9 (n : Nat) : Nat := (n + 1) % 512

/-- Step the counters over withdrawn slots in claim order (R191). -/
def Basin.skip (b : Basin) : Nat → Basin
  | 0 => b
  | n + 1 =>
    if b.commit ≠ b.claim ∧ b.withdrawn.contains b.commit then Basin.skip { b with commit := inc9 b.commit } n
    else if b.take ≠ b.commit ∧ b.withdrawn.contains b.take then Basin.skip { b with take := inc9 b.take } n
    else if b.release ≠ b.take ∧ b.withdrawn.contains b.release then
      Basin.skip { b with release := inc9 b.release, withdrawn := b.withdrawn.filter (fun x => decide (x ≠ b.release)) } n
    else b

def Basin.norm (b : Basin) : Basin := b.skip 1600

/-- The address of a slot. -/
def Basin.slotAddr (b : Basin) (n : Nat) : Word := BitVec.ofNat 64 (b.base.toNat + n % 2 ^ b.k * 2 ^ b.j)

/-- Claim a slot (R190, R191). -/
def Basin.claimOne (b : Basin) : Basin := { b with claim := inc9 b.claim }

def basinKey (k i : Nat) : Nat := 64 * k + i

def stampBasin (s : State) (k i clk : Nat) : State :=
  { s with micro := { s.micro with stBasin := SMap.set 0 s.micro.stBasin (basinKey k i) (max (SMap.get 0 s.micro.stBasin (basinKey k i)) clk) } }

def observeBasin (s : State) (r : ThreadRef) (i : Nat) : State :=
  s.setClk r (max (s.clkOf r + 1) (SMap.get 0 s.micro.stBasin (basinKey r.core i)))

/-- Whether a thread that waits at a basin waits for a free slot, in BSNP or WAITE.free; the others wait for a filled one (R190). -/
def Context.wantsFree (x : Context) : Bool :=
  (decide (opcodeOf x.ir = 0x2F) && decide (bitsOf x.ir 9 0 = 2)) || (decide (opcodeOf x.ir = 0x2A) && decide (bitsOf x.ir 9 0 = 5))

/-- Waiting threads by the cycle at which they began to wait, oldest first. -/
def insertWaiter (a : Nat × Context) : List (Nat × Context) → List (Nat × Context)
  | [] => [a]
  | b :: t => if a.2.waitSince < b.2.waitSince then a :: b :: t else b :: insertWaiter a t

/-- Threads that wait at a basin are woken before anything else takes what they wait for, oldest first (R101, R190). -/
def wakeBasin (s : State) (k i : Nat) (which : Context → Bool) : State :=
  let l := (s.core k).ctxs.filter (fun p => decide (p.2.waitKind = 4) && decide (p.2.waitObj = i) && decide (p.2.pend = .reissue) && which p.2)
  { s with due := s.due ++ (l.foldl (fun acc p => insertWaiter p acc) []).map (fun p => .wake k p.1) }

/-- A slot is committed: one fill event; BSNG and WAITE.fill waiters are woken (R190). -/
def basinCommit (s : State) (k i clk : Nat) : State :=
  let b := (s.core k).basin i
  let s := s.setBasin k i ({ b with commit := inc9 b.commit }).norm
  pulse (wakeBasin (stampBasin s k i clk) k i (fun x => !x.wantsFree)) k 5 i clk

/-- Slots have become free: BSNP and WAITE.free waiters are woken, and a copy barge that waits for a slot tries again (R190, R191). -/
def basinFreed (s : State) (k i : Nat) : State := (wakeBasin s k i Context.wantsFree).post [.basinSlotClaim k]

/-- A slot is freed (R190). -/
def basinRelease (s : State) (k i clk : Nat) : State :=
  let b := (s.core k).basin i
  basinFreed (stampBasin (s.setBasin k i ({ b with release := inc9 b.release }).norm) k i clk) k i

/-- A basin operand names an enabled basin of the issuing core (R189). -/
def withBasin (s : State) (a : BitVec 5) (f : Nat → Basin → State) : State :=
  let i := (s.S a).toNat
  if i > 63 then trap s 0x1B (s.S a)
  else
    let b := s.myCore.basin i
    if b.enabled then f i b else trap s 0x1B (s.S a)

/-- Every bank of a ring is owned by the executing thread's partition (R189). -/
def ringOwned (s : State) (base size : Nat) : Bool :=
  (List.range 32).all (fun i => !(decide (base / 32768 % 32 ≤ i) && decide (i ≤ (base + size - 1) / 32768 % 32))
    || bankOwned s s.myWho (base / 0x100000 * 0x100000 + 32768 * i))

/-- The slots that copy barges hold of a basin are forgotten (R189). -/
def forgetClaims (s : State) (k i : Nat) : State :=
  let c := s.core k
  let e := SMap.get {} c.engines 0
  let recs := e.recs.map (fun p => if decide (opcodeOf p.2.cmd.word = 0x38) && decide (bitsOf p.2.cmd.word 8 7 = 2) && decide (bitsOf p.2.cmd.word 5 0 = i)
    && p.2.basinClaim.isSome then (p.1, { p.2 with basinClaim := none, forgot := p.2.basinClaim }) else p)
  s.setCore k { c with engines := SMap.set {} c.engines 0 { e with recs := recs } }

/-- BSNI (R189): disabling sets the base and k to 0 (DESIGN CHOICE, log 83); every thread that waits on the basin issues its instruction again, and a copy barge that waits for a slot
tests afresh. -/
def execBsni (a b : BitVec 5) (s : State) : Result :=
  let w := s.S a
  let i := bitsOf w 5 0
  let k := bitsOf w 11 8
  let j := bitsOf w 20 16
  let base := resolveAlias s.cur.core (s.S b).toNat
  let k0 := s.cur.core
  let fin (s : State) (v : Basin) : State :=
    retire ((wakeBasin ((forgetClaims s k0 i).setBasin k0 i v) k0 i (fun _ => true)).post [.basinSlotClaim k0])
  .next (
    if bitsOf w 7 6 ≠ 0 ∨ bitsOf w 15 12 ≠ 0 ∨ bitsOf w 63 21 ≠ 0 then trap s 0x1B w
    else if j = 0 then fin s {}
    else if k > 8 ∨ j < 6 ∨ k + j > 20 ∨ base / 0x100000 ≠ lsBase k0 / 0x100000 ∨ base % 2 ^ (k + j) ≠ 0
        ∨ ringOwned s base (2 ^ (k + j)) = false then trap s 0x1B w
    else fin s { k := k, j := j, enabled := true, base := BitVec.ofNat 64 base })

/-- BSNP (R190). -/
def execBsnp (d a : BitVec 5) (s : State) : Result :=
  .next (withBasin s a (fun i b =>
    if b.free = 0 then leave s 4 i .reissue
    else
      let s := observeBasin s s.cur i
      writeRetire (s.setBasin s.cur.core i b.claimOne.norm) d (b.slotAddr b.claim)))

/-- BSNC (R190): a commit follows every earlier member of the committing thread (R279). -/
def execBsnc (a : BitVec 5) (s : State) : Result :=
  .next (withBasin s a (fun i b =>
    if b.commit = b.claim then trap s 0x1B (s.S a)
    else retire (basinCommit s s.cur.core i (s.clkOf s.cur))))

/-- BSNG (R190). -/
def execBsng (d a : BitVec 5) (s : State) : Result :=
  .next (withBasin s a (fun i b =>
    if b.filled = 0 then leave s 4 i .reissue
    else
      let s := observeBasin s s.cur i
      writeRetire (s.setBasin s.cur.core i ({ b with take := inc9 b.take }).norm) d (b.slotAddr b.take)))

/-- BSNF (R190). -/
def execBsnf (a : BitVec 5) (s : State) : Result :=
  .next (withBasin s a (fun i b =>
    if b.release = b.take then trap s 0x1B (s.S a)
    else retire (basinRelease s s.cur.core i (s.clkOf s.cur))))

/-- WAITE.fill (R170). -/
def execWaiteFill (a : BitVec 5) (s : State) : Result :=
  .next (withBasin s a (fun i b => if b.filled = 0 then leave s 4 i .reissue else retire (observeBasin s s.cur i)))

/-- WAITE.free (R170). -/
def execWaiteFree (a : BitVec 5) (s : State) : Result :=
  .next (withBasin s a (fun i b => if b.free = 0 then leave s 4 i .reissue else retire (observeBasin s s.cur i)))

end Sys2Proof.Machine
end

