-- ==== Sys2Proof/Machine/Faults.lean ====
section
/-! DEFINITION. The fault queues of the fault domains (R341 to R343). -/

namespace Sys2Proof.Machine

/-- A fault-queue record (R343). -/
def faultRecord (h : HeldFault) (held : Nat) : LineData :=
  BitVec.ofNat 512 (h.rcd.w0.toNat + h.rcd.w1.toNat * 2 ^ 64 + h.rcd.w2.toNat * 2 ^ (64 * 2) + h.rcd.w3.toNat * 2 ^ (64 * 3)
    + (h.rcb % 2048 + h.domain % 2048 * 2 ^ 16) * 2 ^ (64 * 4) + h.since % 2 ^ 64 * 2 ^ (64 * 5) + held % 2 ^ 64 * 2 ^ (64 * 6))

/-- The queue named by the fault field of a domain RCB, as resolved at its launch, or as its table entry stands while it is
not launched (R342). -/
def State.faultQueue (s : State) (domain : Nat) : Option Nat :=
  let g := s.reg domain
  if g.launched then (if g.faultQueueValid then some g.faultQueue else none)
  else match s.rcbFrom 38 8 domain with
    | some f => if (s.rcbWord f 0x28).getLsbD 28 then some (bitsOf (s.rcbWord f 0x28) 27 16) else none
    | none => none

/-- Enqueue a fault record as ENQ does at level S: whether it has been; else it must be held, for the queue refuses it, or its home cannot serve it now
(R305, R323, R342). -/
def sendFault (s : State) (h : HeldFault) : Bool × State :=
  match s.faultQueue h.domain with
  | none => (false, s)
  | some q =>
    match deviceGate s (s.queueAddr q / 64) with
    | (false, s) => (false, s)
    | (true, s) =>
      match enqueueAt s q (faultRecord h (s.cycle - h.since)) false (deviceWho s.sdieClk) with
      | .ok (_, c, s) => (true, { s with micro := { s.micro with clkSdie := max s.micro.clkSdie c } })
      | .error _ => (false, s)

/-- An event whose record goes to a fault queue: it is enqueued, or held at its source; an RCB holds at most one per kind
(R342). -/
def faultEvent (s : State) (src : FaultSrc) (rcb domain : Nat) (rcd : SqRec) : State :=
  let h : HeldFault := ⟨src, rcb, domain, rcd, s.cycle⟩
  match sendFault s h with
  | (true, s) => s
  | (false, s) =>
    match src with
    | .rcb _ _ => if s.heldFaults.any (fun x => decide (x.src = src)) then s else { s with heldFaults := s.heldFaults ++ [h] }
    | _ => { s with heldFaults := s.heldFaults ++ [h] }

/-- The RCB event record of cause `cause` (R234 kind 7, R341). -/
def rcbEvent (s : State) (rcb cause : Nat) : State :=
  let g := s.reg rcb
  faultEvent s (.rcb rcb cause) rcb g.faultDomain ⟨sqWord0 cause 7 0 0 false false 0, 0, BitVec.ofNat 64 rcb, 0⟩

/-- HELD_RECORD_RETRY (R342): the held records are tried again in event order. -/
def execHeldRecordRetry (s : State) : Result :=
  .next (s.heldFaults.foldl (fun s h =>
    match sendFault s h with
    | (true, s) => { s with heldFaults := s.heldFaults.filter (fun x => decide (x ≠ h)) }
    | (false, s) => s) s)

end Sys2Proof.Machine
end

