-- ==== Sys2Proof/Machine/Rounds.lean ====
section
/-! DEFINITION. Bounded loads (R151, R152, R295, R296), floors (R176, R177, R297), round publication and views (R174 to R178,
R288 to R294). -/

namespace Sys2Proof.Machine

/-! ### Rounds, tags, floors -/

/-- The fill round that a level with view `v` reads in a tag (R293). -/
def fillRound (v : BitVec 32) (t : BitVec 8) : BitVec 32 := v - BitVec.ofNat 32 ((v.toNat + 256 - t.toNat) % 256)

/-- A floor names a region (R88). -/
def floorNames (f : Word) (region : Nat) : Bool := f.getLsbD 63 && decide (bitsOf f 43 32 = region)

/-- The lowest-numbered valid floor of a region (R254). -/
def floorIndex (floors : SMap Word) (region : Nat) : Option Nat :=
  (List.range 8).find? (fun i => floorNames (SMap.get 0 floors i) region)

/-- A thread's floor for a region, else 0 (R152). -/
def floorOf (floors : SMap Word) (region : Nat) : BitVec 32 :=
  match floorIndex floors region with
  | some i => BitVec.ofNat 32 (bitsOf (SMap.get 0 floors i) 31 0)
  | none => 0

/-- The floor chosen to be written (R177). -/
def floorSlot (floors : SMap Word) (region : Nat) : Option Nat :=
  match floorIndex floors region with
  | some i => some i
  | none => (List.range 8).find? (fun i => !(SMap.get 0 floors i).getLsbD 63)

def floorWord (region : Nat) (round : Nat) : Word := BitVec.ofNat 64 (2 ^ 63 + region % 4096 * 2 ^ 32 + round % 2 ^ 32)

/-! ### Views (R292, R293) -/

/-- An L2 slice stops holding a view of a region: it removes its copies, and does not keep what is on its way (R293). -/
def endL2View (s : State) (cl region : Nat) : State :=
  let mine : Copy → Bool := fun o => decide (o.region = some region)
  let s := clearL2 { s with clusterViews := SMap.set 0 s.clusterViews (viewKey cl region) 0 } cl mine
  { s with micro := { s.micro with l1d := (coresOf cl).foldl (fun a k => SMap.set [] a k ((SMap.get [] a k).map (fun p =>
      (p.1, if mine p.2 then { p.2 with leftL2 := true } else p.2)))) s.micro.l1d } }

/-- An L2 slice holds a view of a region while a core of its cluster does; the LLC slices hold one of a peer's region while any cluster does
(R292, R299). -/
def leaveL2 (s : State) (cl region : Nat) : State :=
  if (coresOf cl).all (fun k => ((s.core k).viewOf region).isNone) then
    let s := endL2View s cl region
    if region ≥ 4096 ∧ (List.range 64).all (fun c => (s.l2View c region).isNone) = true then endL2View s llcPlace region else s
  else s

/-- A region leaves a core's round view table: its L1 removes its copies, and so does the L2 slice when no core of the cluster holds a view
any more; a fill on its way is not kept (R292, R293). -/
def leaveView (s : State) (core region : Nat) : State :=
  let mine : Copy → Bool := fun o => decide (o.region = some region)
  let c := s.core core
  let s := clearL1 (s.setCore core { c with views := c.views.filter (fun e => decide (e.region ≠ region)) }) core mine
  leaveL2 s (clusterOf core) region

/-- A region enters a core's round view table with a view, after the sweeps; an entry it has already is advanced (R178, R292, R293). -/
def enterView (s : State) (core region : Nat) (v : BitVec 32) : State :=
  let cl := clusterOf core
  let enter (s : State) (cl : Nat) : State := if (s.l2View cl region).isNone then recordL2 s cl region v else advanceL2 s cl region v
  let s := if region ≥ 4096 then enter s llcPlace else s
  let s := enter s cl
  if ((s.core core).viewOf region).isSome then advanceL1 s core region v
  else
    let s := match (s.core core).views with
      | e :: _ => if (s.core core).views.length ≥ 64 then leaveView s core e.region else s
      | [] => s
    let s := clearL1 s core (staleCopy region v)
    let c := s.core core
    s.setCore core { c with views := c.views ++ [⟨region, v⟩] }

/-- Whether region `r` is enabled. -/
def State.regionOn (s : State) (r : Nat) : Option RegionRec := (s.regions.find? (fun p => decide (p.1 = r))).map (·.2)

/-- The home slice's view of a region at a line. -/
def State.homeView (s : State) (region pa : Nat) : BitVec 32 := SMap.get 0 s.sliceViews (4096 * s.micro.homeOf pa + region)

/-! ### Regions in a peer's memory (R299) -/

/-- An exporter's multicast of a round reaches this package: its LLC slices, and the clusters that subscribe (R299). -/
def peerMulticast (s : State) (n : Nat) (v : BitVec 32) : State :=
  let s := { s with peerRounds := SMap.set 0 s.peerRounds n v }
  s.post ((.roundMulticast (.slice 0) n v) :: ((List.range 64).filter (fun c => (s.l2View c n).isSome)).map (fun c => .roundMulticast (.cluster c) n v))

/-- The counter at an exporter's record, which others may have advanced since it was last seen (DESIGN CHOICE, log 61). -/
def peerCounter (s : State) (n : Nat) : BitVec 32 × State :=
  let v := SMap.get 0 s.peerRounds n + BitVec.ofNat 32 (Config.peerRounds s.tick)
  (v, if v = SMap.get 0 s.peerRounds n then s else peerMulticast s n v)

/-! ### Serving a bounded request (R295) -/

/-- What a level decides of a copy it holds under a lease, expired or not: serve it or not. `seen` is the stamp of the reader's own latest access
to the line, which no bounded read falls behind (R265, R294). -/
def copyServes (view : Option (BitVec 32)) (q : BitVec 32) (seen : Nat) (o : Copy) : Bool :=
  (decide (o.st = .v) || decide (o.st = .vr) || decide (o.st = .vx)) && !o.left && decide (seen ≤ o.img.wts) && (match view with
    | some v => atOrAhead (fillRound v o.tag) q
    | none => false)

/-- The stamp of a party's latest access to a round-region line. -/
def seenOf (s : State) (w : Who) (line : Nat) : Nat :=
  match w.thread with
  | some r => SMap.get 0 (SMap.get [] s.micro.seen (s.ctxOf r).tid) line
  | none => 0

/-- Decide a bounded request of a party at the levels below the home: the L1, for a scalar load, and the L2 slice; `none` where both
forward it (R295). It is no member of the order, so it advances no clock and counts as no access of the thread (R152, R265). An owner's store
that comes later stands after the region's latest RPUB in the order. -/
def serveBounded (s : State) (w : Who) (t : Target) (region : Nat) (q : BitVec 32) (scalar : Bool) : Option Loaded :=
  match t.loc.place with
  | some pa =>
    let line := pa / 64
    let cl := clusterOf w.core
    let region := regionNo t region
    let seen := seenOf s w line
    let got (o : Copy) (lv : Nat) (s' : State) : Option Loaded := some ⟨(o.img.data, o.img.side), max w.clk (s.micro.raised o.img.wts), lv, s'⟩
    let l2 : Option Loaded :=
      match s.micro.l2At cl line with
      | some o => if copyServes (s.l2View cl region) q seen o then got o 2 (if scalar then passToL1 s w.core line o else s) else none
      | none => none
    if t.uncached then none
    else if scalar then
      match s.micro.copyAt w.core line with
      | some o =>
        if o.st = .x then
          let img := { o.img with rts := max o.img.rts (s.roundStamp (some region)) }
          some ⟨s.lineAt t.loc, max w.clk (s.micro.raised o.img.wts), 1, { s with micro := s.micro.setCopy w.core line { o with img := img } }⟩
        else if copyServes ((s.core w.core).viewOf region) q seen o then got o 1 s
        else l2
      | none => l2
    else l2
  | none => none

/-- The fill of a bounded request: it takes the place of the copies at the levels it passes, of which those that hold no view keep nothing (R293,
R295). -/
def fillBounded (s : State) (core line : Nat) (img : Stamped) (region cls : Nat) (l1 : Bool) : State :=
  let v := BitVec.ofNat 32 img.round
  let cl := clusterOf core
  let s := if l1 then advanceL1 (advanceL2 s cl region v) core region v else advanceL2 s cl region v
  let k1 := ((s.core core).viewOf region).isSome
  let k2 := (s.l2View cl region).isSome
  let m := if k2 then s.micro else s.micro.dropL2 cl line
  let m := if k1 || !l1 then m else match m.copyAt core line with
    | some o => if o.st = .v then m.dropCopy core line else m.setCopy core line o.disused
    | none => m
  fillCopies { s with micro := m } core line img (some region) cls (l1 && k1) k2

/-- A bounded request is served at the home, which is ready and whose view `round` is not behind it: the lease is extended, and the fill carries
the home's view (R295). -/
def serveBoundedHome (s : State) (w : Who) (t : Target) (region pa round : Nat) (l1 : Bool) : Loaded :=
  let line := pa / 64
  let m := s.micro
  let h := m.homeLine line
  let flat := s.lineAt t.loc
  let rts := if m.watched pa then max h.rts (max h.wts w.clk) else max h.rts (max h.wts (w.clk + w.lease))
  let img : Stamped := ⟨flat.1, flat.2, h.wts, rts, round, m.homeLevel line⟩
  let m' := m.setHome line { h with rts := max rts (s.roundStamp (some (regionNo t region))) }
  let s := watchReport { s with micro := (m'.raiseSlice line w.clk).llcFill line t.cls } w t.loc true false
  let s := if t.uncached then s else fillBounded s w.core line img (regionNo t region) t.cls l1
  ⟨flat, max w.clk (m.raised h.wts), m.homeLevel line, s⟩

/-- What a home does with a bounded request: it serves it, lets it stall for a round or stand at the line, or does not deliver the line (R36). -/
inductive BoundedRes where
  | served (a : Loaded)
  | stalled (s : State)
  | waits (s : State)
  | bad (cause : Nat) (s : State)

/-- Requests that stand at a slice for a round; beyond 256 they wait at their requesters (R296). -/
def stallAt (s : State) (region : Nat) (q : BitVec 32) (pa : Nat) (self : Instr) : State :=
  let sl := s.micro.homeOf pa
  let n := (s.stalled.filter (fun p => decide (p.slice = sl) && !p.out)).length
  { s with stalled := s.stalled.filter (fun p => decide (p.self ≠ self)) ++ [⟨sl, region, q, pa, self, decide (n ≥ 256)⟩] }

/-- A bounded request for a line that a peer has granted: the LLC slices decide as an L2 slice does, and what they forward crosses the fabric to the
exporter's home (R299). -/
def boundedBeyond (s : State) (w : Who) (t : Target) (port region pa : Nat) (q : BitVec 32) (l1 : Bool) (self : Instr) : BoundedRes :=
  let n := peerRegionNo port region
  let line := pa / 64
  let here := match s.micro.l2At llcPlace line with
    | some o => if copyServes (s.l2View llcPlace n) q (seenOf s w line) o then some o else none
    | none => none
  match here with
  | some o =>
    let s := fillBounded s w.core line o.img n t.cls l1
    .served ⟨(o.img.data, o.img.side), max w.clk (s.micro.raised o.img.wts), 3, s⟩
  | none =>
    let a := peerCounter s n
    if atOrAhead a.1 q then .served (serveBoundedHome a.2 w t region pa a.1.toNat l1) else .stalled (a.2.post [self])

/-- A bounded request at its home, in order of arrival with the line's other requests (R295, R296, R305). -/
def boundedAtHome (s : State) (w : Who) (t : Target) (region : Nat) (q : BitVec 32) (l1 : Bool) (self : Instr) : BoundedRes :=
  match t.loc.place with
  | some pa =>
    match accessGate s { w with self := some self } (pa / 64) .gets with
    | .error s => .waits s
    | .ok s =>
      match t.loc with
      | .foreign p _ => boundedBeyond s w t p region pa q l1 self
      | _ =>
        if !atOrAhead (s.homeView region pa) q then .stalled (stallAt s region q pa self)
        else if !s.delivered t.loc then .bad 0x30 s
        else .served (serveBoundedHome s w t region pa (s.homeView region pa).toNat l1)
  | none => .served (loadQuiet s w t)

/-- A slice has taken a round: the requests it releases go on, in order of arrival, and those that waited at their requesters are sent
(R296). -/
def releaseStalled (s : State) (slice region : Nat) (round : BitVec 32) : State :=
  let rel (p : Stalled) : Bool := decide (p.slice = slice) && decide (p.region = region) && !p.out && atOrAhead round p.q
  let sent (p : Stalled) : Bool := decide (p.slice = slice) && p.out
  ({ s with stalled := s.stalled.filter (fun p => !rel p && !sent p), due := s.due ++ (s.stalled.filter rel).map Stalled.self }).post
    ((s.stalled.filter sent).map Stalled.self)

/-! ### LDB (R151, R152) -/

/-- The value an LDB writes. -/
def ldbValue (n : Nat) (sx : Bool) (x : Nat) : Word := if sx then sext x (8 * n) else zext x (8 * n)

/-- A bounded load of the executing thread has been served: its clock, and the trace of the level (R396). -/
def boundedMe (s : State) (t : Target) (a : Loaded) (va : Nat) (d : BitVec 5) (n : Nat) (sx : Bool) : State :=
  (loadedMe s a va).setS d (ldbValue n sx (lineBytes a.line.1 t.loc.off n))

/-- LDB and LDBZ of `n` bytes (R152): outside every round region an ordinary load that ignores S[b]; inside, the levels below the home
decide at once, and what they forward goes to the home. -/
def ldb (s : State) (d a b : BitVec 5) (n : Nat) (sx : Bool) : State :=
  let ea := s.S a
  match checkMe s ea { r := true, size := n } with
  | (.error c, s) => trap s c ea
  | (.ok t, s) =>
    match t.region with
    | none => withBytes s t n ea.toNat (fun v s => awaitReply (s.setS d (ldbValue n sx v)) ea.toNat)
    | some r =>
      if (s.S b).toNat ≥ 2 ^ 31 then trap s 0x01 (s.S b)
      else
        let q := floorOf s.me.floors r - (s.S b).setWidth 32
        match serveBounded s s.myWho t r q true with
        | some l => awaitReply (boundedMe s t l ea.toNat d n sx) ea.toNat
        | none => (leave s 1 ea.toNat (.bounded d n sx q t ea)).post [.boundedRequest s.cur.core s.cur.ctx]

/-- LDB.B (R152). -/
def execLdbB (d a b : BitVec 5) (s : State) : Result := .next (ldb s d a b 1 true)
/-- LDB.H (R152). -/
def execLdbH (d a b : BitVec 5) (s : State) : Result := .next (ldb s d a b 2 true)
/-- LDB.W (R152). -/
def execLdbW (d a b : BitVec 5) (s : State) : Result := .next (ldb s d a b 4 true)
/-- LDB.D (R152). -/
def execLdbD (d a b : BitVec 5) (s : State) : Result := .next (ldb s d a b 8 true)
/-- LDBZ.B (R152). -/
def execLdbzB (d a b : BitVec 5) (s : State) : Result := .next (ldb s d a b 1 false)
/-- LDBZ.H (R152). -/
def execLdbzH (d a b : BitVec 5) (s : State) : Result := .next (ldb s d a b 2 false)
/-- LDBZ.W (R152). -/
def execLdbzW (d a b : BitVec 5) (s : State) : Result := .next (ldb s d a b 4 false)

/-- BOUNDED_REQUEST: a bounded load at its home: served, or stalled with kind 8; where its region has been disabled it is an access outside
every round region (R295, R296). -/
def execBoundedRequest (core ctx : Nat) (s : State) : Result :=
  if !ctxExists core ctx then .fault .noSuchUnit
  else
    let r : ThreadRef := ⟨core, ctx⟩
    let x := s.ctxOf r
    match x.pend, x.st with
    | .bounded d n sx q t va, .bound =>
      let s := { s with stalled := s.stalled.filter (fun p => decide (p.self ≠ .boundedRequest core ctx)) }
      let plain (s : State) : State := withBytes s { t with region := none } n va.toNat (fun v s => answer (s.setS d (ldbValue n sx v)))
      .next (asThread s r (fun s =>
        match t.region with
        | none => plain s
        | some rg =>
          if t.loc.isMain && (s.regionOn rg).isNone then plain s
          else match boundedAtHome s s.myWho t rg q true (.boundedRequest core ctx) with
            | .waits s => s
            | .bad c s => trap s c va
            | .stalled s => leave s 8 (rg % 4096) x.pend
            | .served a => answer (boundedMe s t a va.toNat d n sx)))
    | _, _ => .next s

/-! ### ROUND (R174 to R178) -/

/-- The checks of a ROUND member: an address in a round region, with the permission shown. -/
def withRegion (s : State) (a : BitVec 5) (n : Need) (f : State → Nat → Target → State) : State :=
  let ea := s.S a
  match checkMe s ea { n with size := 1 } with
  | (.error c, s) => trap s c ea
  | (.ok t, s) =>
    match t.region with
    | none => trap s 0x01 ea
    | some r => f s r t

/-- The data of a round trace record (R396). -/
def roundTrace (region round : Nat) : Word := BitVec.ofNat 64 (region % 4096 * 2 ^ 32 + round % 2 ^ 32)

/-- RPUB (R175): the request goes to the region record. -/
def execRpub (d a : BitVec 5) (s : State) : Result :=
  .next (withRegion s a { w := true } (fun s r t => (leave s 1 (s.S a).toNat .message).post [.regionRpub (regionNo t r) s.cur d]))

/-- A request arrives at a region's record, at the home of the block's first granule: while that is in motion it is sent again after the
move (R290, R323). -/
def recordGate (s : State) (r : Nat) (self : Instr) : Except State State :=
  match s.regionOn r with
  | none => .ok s
  | some g =>
    if s.micro.lineMoving (g.base / 64) then .error { s with micro := { s.micro with retry := s.micro.retry ++ [(g.base / 4096, self)] } }
    else .ok s

/-- The executing thread reads a region's counter as a sequentially consistent load: its value, and the state (R176, R299, R300, R301). -/
def readCounter (s : State) (r : Nat) : BitVec 32 × State :=
  let c := max (s.clkOf s.cur + 1) s.micro.minClk
  match s.regionOn r with
  | none =>
    let a := if r < 4096 then ((0 : BitVec 32), s) else peerCounter s r
    (a.1, a.2.setClk s.cur c)
  | some g =>
    let c := max c (s.micro.raised g.wts)
    (g.counter, ({ s with regions := SMap.put s.regions r { g with rts := max g.rts c } }).setClk s.cur c)

/-- RACQ (R176, R177): the counter is read as a member of the order, and the thread's floor set to it. -/
def execRacq (d a : BitVec 5) (s : State) : Result :=
  .next (withRegion s a { r := true } (fun s r t =>
    match floorSlot s.me.floors r with
    | none => trap s 0x01 (BitVec.ofNat 64 r)
    | some i =>
      match recordGate s (regionNo t r) (.wake s.cur.core s.cur.ctx) with
      | .error s => leave s 1 (s.S a).toNat .reissue
      | .ok s =>
        let (c, s) := readCounter s (regionNo t r)
        let s := s.setMe { s.me with floors := SMap.set 0 s.me.floors i (floorWord r c.toNat) }
        awaitReply ((s.traceMe 6 (roundTrace r c.toNat)).setS d (c.setWidth 64)) (s.S a).toNat))

/-- Whether the check of an address needs a page walk: it is translated, and no translation buffer that the core may use holds its block
(R177, R315). -/
def needsWalk (s : State) (core : Nat) (ea : Word) : Bool :=
  let va := resolveAlias core ea.toNat
  decide (va < 2 ^ 56) && !inUnassigned va && !inLs va && (s.core core).troot.getLsbD 0
    && !(SMap.get [] s.micro.tlb core).any (fun e => e.hit va)
    && !(SMap.get [] s.micro.ctlb (clusterOf core)).any (fun e => e.hit va && !e.barred.contains core && decide ((s.core e.core).troot = (s.core core).troot))

/-- RFLOOR and RFLOOR.clr: a check that needs a page walk takes the thread out of the rotation until the walk is served (R177). -/
def withWalk (s : State) (a : BitVec 5) (n : Need) (f : State → Nat → Target → State) : State :=
  if s.me.wait = 0 && needsWalk s s.cur.core (s.S a) then (leave s 1 (s.S a).toNat .reissue).postWake s.cur.core s.cur.ctx
  else withRegion s a n f

/-- RFLOOR (R177). An operand whose upper half is not zero traps with illegal operand and that value (DESIGN CHOICE, log 82). -/
def execRfloor (a b : BitVec 5) (s : State) : Result :=
  .next (withWalk s a { r := true } (fun s r _ =>
    if bitsOf (s.S b) 63 32 ≠ 0 then trap s 0x01 (s.S b)
    else match floorSlot s.me.floors r with
      | none => trap s 0x01 (BitVec.ofNat 64 r)
      | some i => retire ((s.setMe { s.me with floors := SMap.set 0 s.me.floors i (floorWord r (s.S b).toNat) }).traceMe 6 (roundTrace r (s.S b).toNat))))

/-- RFLOOR.clr (R177): the valid bit of the region's floor is cleared. -/
def execRfloorClr (a : BitVec 5) (s : State) : Result :=
  .next (withWalk s a {} (fun s r _ =>
    match floorIndex s.me.floors r with
    | none => retire s
    | some i =>
      retire (s.setMe { s.me with floors := SMap.set 0 s.me.floors i (SMap.get 0 s.me.floors i &&& 0x7FFFFFFFFFFFFFFF) })))

/-- RSUB (R178, R291): the counter is read and the cluster's subscriber bit set in one step at the record; the region enters the core's
round view table, replacing the entry entered longest ago when its 64 entries are full (R23). -/
def execRsub (d a : BitVec 5) (s : State) : Result :=
  .next (withRegion s a { r := true } (fun s r t =>
    let n := regionNo t r
    let k := s.cur.core
    match recordGate s n (.wake k s.cur.ctx) with
    | .error s => leave s 1 (s.S a).toNat .reissue
    | .ok s =>
      let s := match s.regionOn n with
        | some g => { s with regions := SMap.put s.regions n { g with subscribers := setBit64 g.subscribers (clusterOf k) } }
        | none => s
      let (c, s) := readCounter s n
      awaitReply ((enterView s k n c).setS d (c.setWidth 64)) (s.S a).toNat))

/-- The record of a region increments its counter, as an atomic does, and multicasts it to the slices that home a granule of the block, to
the subscribed clusters, and to the importing packages (R175, R290, R291, R299); the round, and the publisher's clock. -/
def publishRound (s : State) (region : Nat) (g : RegionRec) (clk : Nat) : BitVec 32 × Nat × State :=
  let v := g.counter + 1
  let t := max (max (clk + 1) s.micro.minClk) (s.micro.raised g.rts) + 1
  let s := { s with regions := SMap.put s.regions region { g with counter := v, wts := t, rts := t } }
  let s := s.post ((s.regionSlices g).map (fun k => .roundMulticast (.slice k) region v))
  let s := s.post (((List.range 64).filter (fun c => g.subscribers.getLsbD c)).map (fun c => .roundMulticast (.cluster c) region v))
  (v, t, ((List.range 16).filter (fun p => g.ports.getLsbD p)).foldl (fun s p => s.emit (.peerRound p region v)) s)

/-- RPUB is done: S[d] receives the round. -/
def published (s : State) (region : Nat) (who : ThreadRef) (d : BitVec 5) (v : BitVec 32) : State :=
  accept (asThread s who (fun s => (s.traceMe 6 (roundTrace region v.toNat)).setS d (v.setWidth 64))) who

/-- REGION_RPUB (R175, R290, R291): the record takes the request and acknowledges; one for a region of a peer's memory crosses the fabric
(R299). -/
def execRegionRpub (region : Nat) (who : ThreadRef) (d : BitVec 5) (s : State) : Result :=
  if !ctxExists who.core who.ctx || decide (region ≥ 69632) then .fault .noSuchUnit
  else if !waitsFor s who then .next s
  else if region ≥ 4096 then
    let a := peerCounter s region
    let v := a.1 + 1
    .next (published ((peerMulticast a.2 region v).setClk who (max (s.clkOf who + 1) s.micro.minClk)) region who d v)
  else
    .next (match s.regionOn region, recordGate s region (.regionRpub region who d) with
      | none, _ => refuse s who (0x01, BitVec.ofNat 64 (s.ctxOf who).waitObj)
      | some _, .error s => s
      | some g, .ok s =>
        let (v, t, s) := publishRound s region g (s.clkOf who)
        published (s.setClk who t) region who d v)

/-- ROUND_MULTICAST (R291 to R293, R296): a level advances its view; a slice then takes up the requests that stalled for the round, in
order of arrival. The LLC slices hold one view of a region in a peer's memory (R299). -/
def execRoundMulticast (level : ViewLevel) (region : Nat) (round : BitVec 32) (s : State) : Result :=
  if (match level with | .slice n => decide (n ≥ 32) | .cluster n => decide (n ≥ 64)) || decide (region ≥ 69632) then .fault .noSuchUnit
  else if region < 4096 ∧ (s.regionOn region).isNone = true then .next s
  else
    .next (match level with
      | .cluster c => (coresOf c).foldl (fun s k => advanceL1 s k region round) (advanceL2 s c region round)
      | .slice k =>
        if region ≥ 4096 then advanceL2 s llcPlace region round
        else
        let key := 4096 * k + region
        if atOrAhead (SMap.get 0 s.sliceViews key) round then s
        else releaseStalled { s with sliceViews := SMap.set 0 s.sliceViews key round } k region round)

end Sys2Proof.Machine
end

