-- ==== Sys2Proof/Machine/Tiles.lean ====
section
/-! DEFINITION. Geometry of tiles in lines (R38 to R44), and what an engine reads of an operand (R55, R65 to R71, R122). -/

namespace Sys2Proof.Machine

/-! ### Lines and cells -/

/-- Bytes of an element, or of a cb2 node (R38). -/
def Tile.esize (t : Tile) : Nat := if fclass t.fmt = .b8 then 1 else 4

/-- A tile whose block is smaller than a line (R39). -/
def Tile.small (t : Tile) : Bool := decide (t.height < 3)

/-- Lines of the tile (R41). -/
def Tile.lines (t : Tile) : Nat := if t.small then 1 else 4 ^ t.height / 64

/-- Address of line `i`. -/
def Tile.lineAddr (t : Tile) (i : Nat) : Nat := t.base / 64 * 64 + 64 * i

/-- An element, or a cb2 node: its byte offset in the line and its named position (R40). -/
structure Cell where
  off : Nat
  r : Nat
  c : Nat
  deriving DecidableEq, Repr

/-- The cell at Morton index `m` of the tile, `off` bytes into its line. -/
def Tile.cellAt (t : Tile) (m off : Nat) : Cell :=
  let u := if fclass t.fmt = .cb2 then 4 else 1
  let r := u * rowsOf 11 m
  let c := u * colsOf 11 m
  if t.trans then ⟨off, c, r⟩ else ⟨off, r, c⟩

/-- The cells of line `i`, in increasing address. -/
def Tile.cells (t : Tile) (i : Nat) : List Cell :=
  let e := t.esize
  if t.small then (List.range (4 ^ t.height / e)).map (fun k => t.cellAt k (t.base % 64 + e * k))
  else (List.range (64 / e)).map (fun k => t.cellAt (i * (64 / e) + k) (e * k))

/-- `is_live` (R43). -/
def Tile.live (t : Tile) (r c : Nat) : Bool := decide (r < t.rows) && decide (c < t.cols)

def Tile.liveCells (t : Tile) (i : Nat) : List Cell := (t.cells i).filter (fun x => t.live x.r x.c)

/-- Line `i` holds a live element exactly when its first cell is live (R44). -/
def Tile.lineLive (t : Tile) (i : Nat) : Bool :=
  let x := t.cellAt (if t.small then 0 else i * (64 / t.esize)) 0
  t.live x.r x.c

/-- Every byte of line `i` belongs to a live element (R198). -/
def Tile.wholeLine (t : Tile) (i : Nat) : Bool := !t.small && (t.cells i).all (fun x => t.live x.r x.c)

/-- The first line at or after `i` with a live element. -/
def Tile.nextLive (t : Tile) (i : Nat) : Option Nat :=
  ((List.range (t.lines - i)).find? (fun k => t.lineLive (i + k))).map (i + ·)

/-- Address of the first byte of the named element, or of its cb2 node (R40). -/
def Tile.addrOf (t : Tile) (r c : Nat) : Nat :=
  let (r, c) := if t.trans then (c, r) else (r, c)
  if fclass t.fmt = .cb2 then t.base + 4 * morton 11 (r / 4) (c / 4) else t.base + t.esize * morton 11 r c

/-! ### Values of an operand -/

/-- What an operand position delivers (R122): its pad, an element of a void line, or an element under its line's code and
scale. -/
inductive Src where
  | pad (code kind : Nat)
  | void
  | elem (code : Nat) (scale : Int) (pat : BitVec 32)
  deriving DecidableEq, Repr

/-- Lines read so far, by address. -/
abbrev Lines := SMap (LineData × Word)

def lineScale (side : Word) : BitVec 8 := BitVec.ofNat 8 (bitsOf side 15 8)
def lineCode (side : Word) : Nat := bitsOf side 7 0
def lineVoid (side : Word) : Bool := decide (bitsOf side 15 8 = 0x80)
def lineTag (side : Word) : Nat := bitsOf side 63 16

/-- The bytes at an address of a line already read. -/
def Lines.pat (ls : Lines) (a n : Nat) : BitVec 32 :=
  BitVec.ofNat 32 (((SMap.get (0, 0) ls (a / 64 * 64)).1.toNat >>> (8 * (a % 64))) % 2 ^ (8 * n))

def Lines.side (ls : Lines) (a : Nat) : Word := (SMap.get (0, 0) ls (a / 64 * 64)).2

/-- The position (r, c) of tile `t`, whose lines have been read. -/
def Lines.src (ls : Lines) (t : Tile) (r c : Nat) : Src :=
  if !t.live r c then .pad t.fmt t.pad
  else
    let a := t.addrOf r c
    let sd := ls.side a
    if lineVoid sd then .void else .elem (lineCode sd) (scaleInt (lineScale sd)) (ls.pat a t.esize)

/-- A position that puts a unit in the real domain (R67, R71). -/
def Src.real : Src → Bool
  | .pad c _ => isReal c
  | .void => false
  | .elem c _ _ => isReal c

/-- The exact value v × 2^s (R64, R65, R71). -/
def Src.exact : Src → XVal
  | .pad c k => padValue c k
  | .void => .zero
  | .elem c s p => (patValue c s p).getD .zero

/-- The operand as the real domain takes it: rounded once to f32 (R66); a pad is used as it stands (R71). -/
def Src.toReal : Src → XVal × Flags5
  | .pad c k => (padValue c k, 0)
  | .void => (.zero, 0)
  | .elem c s p =>
    let (b, f) := roundF32 .ne ((patValue c s p).getD .zero)
    (ofF32 b, f)

/-- The operand as the integer domain takes it: no scale (R67). -/
def Src.toInt : Src → Int
  | .pad c k => padInt c k
  | .void => 0
  | .elem c _ p => patInt c p

/-- A line whose elements an instruction interprets under class `cl`: the refusal of R55 and R56. -/
def lineRefused (cl : FClass) (side : Word) : Bool :=
  !lineVoid side && (decide (lineCode side = 0) || decide (fclass (lineCode side) ≠ cl) || decide (fclass (lineCode side) = .cb2)
    || decide (fclass (lineCode side) = .bad))

/-! ### Encoding a destination line (R67 to R70) -/

/-- A result of the real domain, or of the integer domain. -/
inductive Val where
  | real (v : XVal)
  | int (x : Int)
  deriving DecidableEq, Repr

/-- The line's new scale (R68, R69). -/
def newScale (t : Tile) (old : Word) (real : Bool) (xs : List XVal) : Int :=
  if t.policy = 1 then scaleInt t.fixed
  else if t.policy = 2 then (if real then amaxScale t.fmt xs else 0)
  else if lineVoid old then 0 else scaleInt (lineScale old)

/-- The pattern of an integer under a format: saturated (R67). -/
def intPattern (c : Nat) (x : Int) : BitVec 32 := BitVec.ofInt 32 (saturate c x)

/-- Encode one result under scale `s`; a fixed scale of −128 writes zero bytes (R68). -/
def encodeVal (c : Nat) (s : Int) (mode : Rnd) : Val → BitVec 32 × Flags5
  | .real v => if s = -128 then (0, 0) else encodeReal c s mode v
  | .int x => if s = -128 then (0, 0) else (intPattern c x, 0)

def Val.toX : Val → XVal
  | .real v => v
  | .int x => .fin x 0

/-- `encode` of R122: bytes by offset, the new sideband (tag zero), and flags. -/
def encodeLine (t : Tile) (old : Word) (mode : Rnd) (real : Bool) (rs : List (Nat × Val)) : List (Nat × Byte) × Word × Flags5 :=
  let s := newScale t old real (rs.map (fun p => p.2.toX))
  let es : List (Nat × (BitVec 32 × Flags5)) := rs.map (fun p => (p.1, encodeVal t.fmt s mode p.2))
  let bytes := es.flatMap (fun p => (List.range t.esize).map (fun k => (p.1 + k, BitVec.ofNat 8 (p.2.1.toNat >>> (8 * k)))))
  (bytes, BitVec.ofNat 64 (t.fmt % 256 + (BitVec.ofInt 8 s).toNat * 256), es.foldl (fun f p => f ||| p.2.2) 0)

/-- A line with some of its bytes replaced. -/
def mergeBytes (d : LineData) (bs : List (Nat × Byte)) : LineData :=
  bs.foldl (fun d p =>
    let m : LineData := BitVec.ofNat 512 (0xFF * 2 ^ (8 * p.1))
    (d &&& ~~~m) ||| BitVec.ofNat 512 (p.2.toNat * 2 ^ (8 * p.1))) d

end Sys2Proof.Machine
end

