-- ==== Sys2Proof/Machine/Engine.lean ====
section
/-! DEFINITION. Engine commands: their operands, the checks at issue (R194 to R196, R91, R99), acceptance and barge records
(R92, R93), and every instruction that issues one (R203 to R225). -/

namespace Sys2Proof.Machine

/-! ### Command words -/

/-- A T-form word (R105). -/
def tWord (op : Nat) (d a c h : BitVec 4) (fn : Nat) : BitVec 32 :=
  BitVec.ofNat 32 (op * 2 ^ 25 + d.toNat * 2 ^ 21 + a.toNat * 2 ^ 17 + c.toNat * 2 ^ 13 + h.toNat * 2 ^ 9 + fn % 512)

def cmdFn (w : BitVec 32) : Nat := bitsOf w 8 0
def cmdTd (w : BitVec 32) : Nat := bitsOf w 24 21
def cmdTa (w : BitVec 32) : Nat := bitsOf w 20 17
def cmdTb (w : BitVec 32) : Nat := bitsOf w 16 13

/-- The engine of an opcode: 0 copy, 1 matrix, 2 vector (R194, R216). -/
def engineOf (op : Nat) : Nat := if op < 0x40 then 0 else if op < 0x48 ∨ op = 0x58 ∨ op = 0x59 then 1 else 2

/-- Whether an entry uses td, ta, tb. -/
def cmdUses (op fn : Nat) : Bool × Bool × Bool :=
  if op = 0x38 ∨ op = 0x41 ∨ op = 0x42 ∨ op = 0x4B ∨ op = 0x4C ∨ op = 0x4D ∨ op = 0x4E then (true, true, false)
  else if op = 0x39 ∨ op = 0x3C ∨ op = 0x3D ∨ op = 0x50 then (true, false, false)
  else if op = 0x3A ∨ op = 0x3B ∨ op = 0x4A then (true, true, true)
  else if op = 0x40 then (false, true, false)
  else if op = 0x48 then (true, true, decide (fn % 16 ≤ 6))
  else if op = 0x49 then (true, true, decide (fn % 16 ≠ 4))
  else if op = 0x4F then (true, true, decide (fn % 16 = 3))
  else (false, false, false)

/-- BCOPY into a basin (R206). -/
def isBsn (w : BitVec 32) : Bool := decide (opcodeOf w = 0x38) && decide (bitsOf w 8 7 = 2)

/-- Barges that subtract bytes at their barrier and never arrive (R180). -/
def byteCounter (op : Nat) : Bool := decide (0x38 ≤ op) && decide (op ≤ 0x3B)

/-! ### Checks at issue (R195) -/

def ownLs (k base : Nat) : Bool := decide (base / 0x100000 = lsBase k / 0x100000)

/-- Check 2: an operand lies where the engine requires (R196, R208, R213); `w` 0 td, 1 ta, 2 tb. -/
def placed (k op w base : Nat) : Bool :=
  if op < 0x40 then (if w = 2 then ownLs k base else !inUnassigned base)
  else if op = 0x40 then !inUnassigned base
  else if op = 0x41 ∨ op = 0x42 then ownLs k base || (decide (w = 1) && decide (base / 2 ^ 52 < 0xE))
  else ownLs k base

/-- The numbers of the register fields and the tiles of a command. -/
structure CmdTiles where
  rd : Nat
  ra : Nat
  rb : Nat
  td : Tile
  ta : Tile
  tb : Tile
  deriving DecidableEq, Repr

/-- The tiles of a command; a basin copy ignores td's base (R206). -/
def Command.tiles (c : Command) : CmdTiles :=
  let td := Tile.ofBits c.td
  ⟨cmdTd c.word, cmdTa c.word, cmdTb c.word, if isBsn c.word then { td with base := 0 } else td, Tile.ofBits c.ta, Tile.ofBits c.tb⟩

/-- The operands an entry uses: field 0 td, 1 ta, 2 tb, its register number, its tile. -/
def Command.used (c : Command) : List (Nat × Nat × Tile) :=
  let t := c.tiles
  let u := cmdUses (opcodeOf c.word) (cmdFn c.word)
  (if u.1 then [(0, t.rd, t.td)] else []) ++ (if u.2.1 then [(1, t.ra, t.ta)] else []) ++ (if u.2.2 then [(2, t.rb, t.tb)] else [])

def sameShape (a b : Tile) : Bool := decide (a.order = b.order) && decide (a.rows = b.rows) && decide (a.cols = b.cols)

/-- Check 3: the register whose format the entry refuses. -/
def formatFault (op fn : Nat) (t : CmdTiles) (used : List (Nat × Nat × Tile)) : Option Nat :=
  if op = 0x3A ∨ op = 0x3B then (if isInt t.tb.fmt then none else some t.rb)
  else if op < 0x40 then none
  else if op = 0x40 then (if t.ta.fmt = 1 ∨ t.ta.fmt = 2 ∨ t.ta.fmt = 3 ∨ fclass t.ta.fmt = .cb2 then none else some t.ra)
  else if op = 0x41 ∨ op = 0x42 then
    if ¬(t.td.fmt = 4 ∨ t.td.fmt = 5 ∨ t.td.fmt = 6) then some t.rd
    else if ¬(t.ta.fmt = 1 ∨ t.ta.fmt = 2 ∨ t.ta.fmt = 3) then some t.ra
    else none
  else match used.find? (fun u => decide (u.2.2.fmt = 0) || decide (fclass u.2.2.fmt = .cb2)) with
    | some u => some u.2.1
    | none =>
      if op = 0x49 ∧ isReal t.td.fmt = true then some t.rd
      else if op = 0x4F ∧ fn % 16 = 3 ∧ isInt t.tb.fmt = false then some t.rb
      else none

/-- A block template of BGATH or BSCAT against its tile (R208). -/
def templateOk (m tile : Tile) : Bool :=
  decide (m.order ≤ tile.order) && decide (3 ≤ m.height) && decide (fclass m.fmt = fclass tile.fmt)
    && decide (m.rows = 2 ^ m.order) && decide (m.cols = 2 ^ m.order)

/-- Check 4: the register whose order or extents the entry refuses. -/
def shapeFault (op fn : Nat) (t : CmdTiles) (used : List (Nat × Nat × Tile)) : Option Nat :=
  if op = 0x38 then
    if sameShape t.ta t.td && (t.ta.trans == t.td.trans) && decide (fclass t.ta.fmt = fclass t.td.fmt) then none else some t.ra
  else if op = 0x3A then
    if !templateOk t.ta t.td then some t.ra else if t.tb.order = t.td.order - t.ta.order then none else some t.rb
  else if op = 0x3B then
    if !templateOk t.td t.ta then some t.rd else if t.tb.order = t.ta.order - t.td.order then none else some t.rb
  else if op < 0x40 then none
  else if op = 0x40 then (if t.ta.order ≤ 7 then none else some t.ra)
  else if op = 0x41 ∨ op = 0x42 then (if t.ta.rows = t.td.rows ∧ t.ta.order = t.td.order then none else some t.ra)
  else if op = 0x4D then
    let ok := if fn.testBit 2 then decide (t.td.cols = t.ta.cols) && decide (t.td.rows = 1)
      else decide (t.td.rows = t.ta.rows) && decide (t.td.cols = 1)
    if ok && decide (t.td.order = t.ta.order) then none else some t.rd
  else if op = 0x4F then
    if fn % 16 = 1 then (if t.td.order = t.ta.order ∧ t.td.rows = t.ta.cols ∧ t.td.cols = t.ta.rows then none else some t.rd)
    else if fn % 16 = 2 then (if t.td.order = t.ta.order then none else some t.rd)
    else if fn % 16 = 3 then (if !sameShape t.tb t.td then some t.rb else if t.ta.order = t.td.order then none else some t.ra)
    else none
  else (used.find? (fun u => decide (u.1 ≠ 0) && !sameShape u.2.2 t.td)).map (fun u => u.2.1)

/-- Vector groups that may work in place (R217). -/
def inPlaceOk (op : Nat) : Bool := decide (0x48 ≤ op) && decide (op ≤ 0x4C)

/-- Check 5: the source that overlaps the destination (R99, R206, R208, R217); BSCAT's destination blocks are known only unit by unit, so
here its index tile is held against its source tile alone (R208). -/
def overlapFault (c : Core) (w : BitVec 32) (t : CmdTiles) (used : List (Nat × Nat × Tile)) : Option Nat :=
  let op := opcodeOf w
  if isBsn w then
    let b := c.basin (bitsOf w 5 0)
    if b.enabled && decide (t.ta.base < b.base.toNat + 2 ^ (b.k + b.j)) && decide (b.base.toNat < t.ta.base + 4 ^ t.ta.height) then some t.ra
    else none
  else if op = 0x40 then none
  else if op = 0x3B then (if blocksOverlap t.tb.base t.tb.height t.ta.base t.ta.height then some t.rb else none)
  else
    let clash (x : Tile) : Bool :=
      blocksOverlap x.base x.height t.td.base t.td.height
        && !(inPlaceOk op && decide (x.base = t.td.base) && decide (x.height = t.td.height)
             && decide (fclass x.fmt = fclass t.td.fmt) && (x.trans == t.td.trans))
    match used.find? (fun u => decide (u.1 ≠ 0) && clash u.2.2) with
    | some u => some u.2.1
    | none => none

/-- Check 6: amax in a copy destination (R198); a basin that cannot take the copy (R206). -/
def entryFault (c : Core) (w : BitVec 32) (t : CmdTiles) : Option (Nat × Nat) :=
  if byteCounter (opcodeOf w) && decide (t.td.policy = 2) then some (0x10, t.rd)
  else if isBsn w then
    let n := bitsOf w 5 0
    let b := c.basin n
    if b.enabled && decide (4 ^ t.td.height ≤ 2 ^ b.j) then none else some (0x1B, n)
  else none

/-- The checks of R195 in order, by the core whose engine would run the command: cause and tval. CBLD and SKSET have the
checks of R216. -/
def checkCmd (s : State) (k : Nat) (c : Command) : Option (Nat × Word) :=
  let op := opcodeOf c.word
  let fn := cmdFn c.word
  let t := c.tiles
  let used := c.used
  if op = 0x58 then
    if c.x.toNat ≥ 8 then some (0x01, c.x) else if c.y.toNat % 512 ≠ 0 then some (0x01, c.y) else none
  else if op = 0x59 then
    if c.x.toNat ≥ 4 then some (0x01, c.x)
    else if c.y.toNat % 2 ≠ 0 ∨ ownLs k (resolveAlias k c.y.toNat) = false then some (0x01, c.y) else none
  else match used.find? (fun u => !u.2.2.valid) with
    | some u => some (0x10, BitVec.ofNat 64 u.2.1)
    | none => match used.find? (fun u => !placed k op u.1 u.2.2.base) with
      | some u => some (0x01, BitVec.ofNat 64 u.2.1)
      | none => match formatFault op fn t used with
        | some r => some (0x12, BitVec.ofNat 64 r)
        | none => match shapeFault op fn t used with
          | some r => some (0x13, BitVec.ofNat 64 r)
          | none => match overlapFault (s.core k) c.word t used with
            | some r => some (0x11, BitVec.ofNat 64 r)
            | none => (entryFault (s.core k) c.word t).map (fun e => (e.1, BitVec.ofNat 64 e.2))

/-! ### Records and acceptance (R92, R93) -/

def Core.engine (c : Core) (e : Nat) : Engine := SMap.get {} c.engines e

def State.setEngine (s : State) (k e : Nat) (g : Engine) : State :=
  let c := s.core k
  s.setCore k { c with engines := SMap.set {} c.engines e g }

def Engine.barge (g : Engine) (r : Nat) : Barge := SMap.get {} g.recs r

def Engine.setBarge (g : Engine) (r : Nat) (b : Barge) : Engine := { g with recs := SMap.set {} g.recs r b }

def State.setBarge (s : State) (k e r : Nat) (b : Barge) : State := s.setEngine k e (((s.core k).engine e).setBarge r b)

/-- The record the next barge takes (R92). -/
def Engine.nextRec (g : Engine) : Option Nat :=
  ((List.range 8).map (fun i => (g.last + 1 + i) % 8)).find? (fun r => decide ((g.barge r).st = .free))

/-- The engine can accept a command (R92); a stopped core's engines accept none (R236). -/
def Core.canAccept (c : Core) (e : Nat) : Bool :=
  !c.dead && decide ((c.engine e).queue.length < 2) && (c.engine e).nextRec.isSome

/-- Barge id (R93). -/
def bargeId (k e r : Nat) : Nat := k % 256 * 32 + e % 4 * 8 + r % 8

/-- The thread a barge is issued for (R92, R172, R227). -/
structure Issuer where
  core : Nat
  ctx : Nat
  tid : Nat
  slot : Nat
  rcb : BitVec 11
  part : Nat
  level : Level
  lease : BitVec 16
  floors : SMap Word
  clk : Nat
  pc : Word
  direct : Bool
  captured : Bool
  deriving DecidableEq, Repr

/-- A thread as the issuer of a command. A supervisor context has no RCB: its barges hold id 0 (R93, R103; DESIGN CHOICE, log 77). -/
def issuerOf (s : State) (r : ThreadRef) (direct : Bool) : Issuer :=
  let x := s.ctxOf r
  ⟨r.core, r.ctx, x.tid, x.slot, x.rcb, (s.core r.core).partOf x.slot, x.level, x.lease, x.floors, s.clkOf r, x.pc, direct, false⟩

/-- Add one to the outstanding count of a spilled issuer (R330). -/
def bumpOutstanding (s : State) (tid core : Nat) : State :=
  let a := SMap.get 0 s.spilled tid
  if a = 0 ∨ (s.residentTid tid).isSome = true then s
  else match saveTarget s core (a + 0x310) with
    | (none, s) => s
    | (some t, s) =>
      let n := bytesToNat (s.bytesAt t.loc 8)
      storeDevice s (saveWho s core) t (natToBytes 8 (n + 1))

/-- The engine accepts a command and forks its barge (R92, R261, R300): the record number and the state. -/
def acceptBarge (s : State) (k e : Nat) (c : Command) (i : Issuer) : Nat × State :=
  let g := (s.core k).engine e
  let r := g.nextRec.getD 0
  let b : Barge :=
    { st := .queued, slot := i.slot, issuerCore := i.core, direct := i.direct, ctx := i.ctx, tid := i.tid, pc := addr56 i.pc.toNat, rcb := i.rcb,
      part := i.part, level := i.level, lease := i.lease, floors := i.floors, captured := i.captured, clk := i.clk, cmd := c, seq := g.seq + 1 }
  let g := { g.setBarge r b with queue := g.queue ++ [r], last := r, seq := g.seq + 1 }
  let s := (s.setEngine k e g).addBarges i.rcb.toNat true
  let s := bumpOutstanding s i.tid i.core
  let s := s.traceAt i.core i.slot 2 i.pc (BitVec.ofNat 64 (bargeId k e r))
  let s := barSignal s c.handle .fork i.part (decide (i.level = .u)) i.clk
  (r, s.post [.bargeStart k e])

/-- Issue a command of the executing thread (R195, R83, R92). -/
def issueCmd (s : State) (c : Command) : State :=
  let k := s.cur.core
  let e := engineOf (opcodeOf c.word)
  match checkCmd s k c with
  | some (cause, tval) => trap s cause tval
  | none =>
    if (s.core k).canAccept e then retire (acceptBarge s k e c (issuerOf s s.cur true)).2
    else leave s 7 e (.engine e c)

/-- The command of a T-form word of the executing thread, with its descriptor copies resolved (R92, R48). -/
def State.command (s : State) (op : Nat) (d a c h : BitVec 4) (fn : Nat) : Command :=
  let u := cmdUses op fn
  let k := s.cur.core
  { word := tWord op d a c h fn, handle := s.B h,
    td := if u.1 then resolveDesc k (s.T d) else 0,
    ta := if u.2.1 then resolveDesc k (s.T a) else 0,
    tb := if u.2.2 then resolveDesc k (s.T c) else 0 }

/-- An engine instruction of T form. -/
def engineT (s : State) (op : Nat) (d a c h : BitVec 4) (fn : Nat) : State := issueCmd s (s.command op d a c h fn)

/-- ENGINE_ACCEPT: the engine that a waiting thread's command is for can accept it (R83, R92). -/
def execEngineAccept (core ctx : Nat) (s : State) : Result :=
  if !ctxExists core ctx then .fault .noSuchUnit
  else
    let r : ThreadRef := ⟨core, ctx⟩
    let x := s.ctxOf r
    match x.pend, x.st with
    | .engine e c, .bound =>
      if (s.core core).canAccept e then
        .next (asThread s r (fun s => retire (acceptBarge (s.setMe { s.me with readyAt := s.cycle + 4, lastWait := 7 }) core e c (issuerOf s r true)).2))
      else .next s
    | _, _ => .next s

/-! ### The instructions (R203 to R225) -/

/-- BCOPY (R204). -/
def execBcopy (d a h : BitVec 4) (s : State) : Result := .next (engineT s 0x38 d a 0 h 0)
/-- BCOPY.bnd (R205). -/
def execBcopyBnd (d a h : BitVec 4) (k : BitVec 7) (s : State) : Result := .next (engineT s 0x38 d a 0 h (128 + k.toNat))
/-- BCOPY.bsn (R206). -/
def execBcopyBsn (d a h : BitVec 4) (n : BitVec 6) (s : State) : Result := .next (engineT s 0x38 d a 0 h (256 + n.toNat))
/-- BFILL (R207). -/
def execBfill (d h : BitVec 4) (v : BitVec 8) (s : State) : Result := .next (engineT s 0x39 d 0 0 h v.toNat)
/-- BGATH (R208). -/
def execBgath (d a c h : BitVec 4) (s : State) : Result := .next (engineT s 0x3A d a c h 0)
/-- BSCAT (R208). -/
def execBscat (d a c h : BitVec 4) (s : State) : Result := .next (engineT s 0x3B d a c h 0)
/-- BPREF (R210). -/
def execBpref (d h : BitVec 4) (s : State) : Result := .next (engineT s 0x3C d 0 0 h (1 * 64))
/-- BRES (R210, R325). -/
def execBres (d h : BitVec 4) (c : BitVec 3) (s : State) : Result := .next (engineT s 0x3C d 0 0 h (2 * 64 + c.toNat))
/-- BEVICT (R210). -/
def execBevict (d h : BitVec 4) (s : State) : Result := .next (engineT s 0x3C d 0 0 h (3 * 64))
/-- BDEMOTE (R210). -/
def execBdemote (d h : BitVec 4) (s : State) : Result := .next (engineT s 0x3C d 0 0 h (4 * 64))
/-- BOWN (R210, R309). -/
def execBown (d h : BitVec 4) (s : State) : Result := .next (engineT s 0x3D d 0 0 h (1 * 64))
/-- BREL (R210, R309). -/
def execBrel (d h : BitVec 4) (s : State) : Result := .next (engineT s 0x3D d 0 0 h (2 * 64))
/-- MXST (R212). -/
def execMxst (a h : BitVec 4) (u : BitVec 1) (s : State) : Result := .next (engineT s 0x40 0 a 0 h u.toNat)
/-- MXMA (R213). -/
def execMxma (d a h : BitVec 4) (u : BitVec 1) (s : State) : Result := .next (engineT s 0x41 d a 0 h u.toNat)
/-- MXMAS (R213, R215). -/
def execMxmas (d a h : BitVec 4) (r : BitVec 2) (u : BitVec 1) (s : State) : Result :=
  .next (engineT s 0x42 d a 0 h (2 * r.toNat + u.toNat))
/-- VADD (R218). -/
def execVadd (d a c h : BitVec 4) (s : State) : Result := .next (engineT s 0x48 d a c h 1)
/-- VSUB (R218). -/
def execVsub (d a c h : BitVec 4) (s : State) : Result := .next (engineT s 0x48 d a c h 2)
/-- VMUL (R218). -/
def execVmul (d a c h : BitVec 4) (s : State) : Result := .next (engineT s 0x48 d a c h 3)
/-- VFMA (R218). -/
def execVfma (d a c h : BitVec 4) (s : State) : Result := .next (engineT s 0x48 d a c h 4)
/-- VMIN (R218). -/
def execVmin (d a c h : BitVec 4) (s : State) : Result := .next (engineT s 0x48 d a c h 5)
/-- VMAX (R218). -/
def execVmax (d a c h : BitVec 4) (s : State) : Result := .next (engineT s 0x48 d a c h 6)
/-- VABS (R218). -/
def execVabs (d a h : BitVec 4) (s : State) : Result := .next (engineT s 0x48 d a 0 h 7)
/-- VNEG (R218). -/
def execVneg (d a h : BitVec 4) (s : State) : Result := .next (engineT s 0x48 d a 0 h 8)
/-- VAND (R219). -/
def execVand (d a c h : BitVec 4) (s : State) : Result := .next (engineT s 0x49 d a c h 1)
/-- VOR (R219). -/
def execVor (d a c h : BitVec 4) (s : State) : Result := .next (engineT s 0x49 d a c h 2)
/-- VXOR (R219). -/
def execVxor (d a c h : BitVec 4) (s : State) : Result := .next (engineT s 0x49 d a c h 3)
/-- VNOT (R219). -/
def execVnot (d a h : BitVec 4) (s : State) : Result := .next (engineT s 0x49 d a 0 h 4)
/-- VSHL (R219). -/
def execVshl (d a c h : BitVec 4) (s : State) : Result := .next (engineT s 0x49 d a c h 5)
/-- VSHR (R219). -/
def execVshr (d a c h : BitVec 4) (s : State) : Result := .next (engineT s 0x49 d a c h 6)
/-- VCMP (R220). -/
def execVcmp (d a c h : BitVec 4) (o : BitVec 3) (s : State) : Result := .next (engineT s 0x4A d a c h (16 * o.toNat + 1))
/-- VSEL (R220). -/
def execVsel (d a c h : BitVec 4) (s : State) : Result := .next (engineT s 0x4A d a c h 2)
/-- VCVT (R221). -/
def execVcvt (d a h : BitVec 4) (m : BitVec 2) (s : State) : Result := .next (engineT s 0x4B d a 0 h m.toNat)
/-- VEXP2 (R222). -/
def execVexp2 (d a h : BitVec 4) (s : State) : Result := .next (engineT s 0x4C d a 0 h 1)
/-- VLOG2 (R222). -/
def execVlog2 (d a h : BitVec 4) (s : State) : Result := .next (engineT s 0x4C d a 0 h 2)
/-- VRCP (R222). -/
def execVrcp (d a h : BitVec 4) (s : State) : Result := .next (engineT s 0x4C d a 0 h 3)
/-- VRSQ (R222). -/
def execVrsq (d a h : BitVec 4) (s : State) : Result := .next (engineT s 0x4C d a 0 h 4)
/-- VTANH (R222). -/
def execVtanh (d a h : BitVec 4) (s : State) : Result := .next (engineT s 0x4C d a 0 h 5)
/-- VRED (R223). -/
def execVred (d a h : BitVec 4) (r : BitVec 1) (o : BitVec 2) (s : State) : Result :=
  .next (engineT s 0x4D d a 0 h (4 * r.toNat + o.toNat))
/-- VSCAN (R223). -/
def execVscan (d a h : BitVec 4) (r : BitVec 2) (o : BitVec 2) (s : State) : Result :=
  .next (engineT s 0x4E d a 0 h (4 * r.toNat + o.toNat))
/-- VTRN (R224). -/
def execVtrn (d a h : BitVec 4) (s : State) : Result := .next (engineT s 0x4F d a 0 h 1)
/-- VBCST (R224). -/
def execVbcst (d a h : BitVec 4) (b : BitVec 2) (s : State) : Result := .next (engineT s 0x4F d a 0 h (16 * b.toNat + 2))
/-- VGATH (R224). -/
def execVgath (d a c h : BitVec 4) (m : BitVec 1) (s : State) : Result := .next (engineT s 0x4F d a c h (16 * m.toNat + 3))
/-- VMOV (R224). -/
def execVmov (d a h : BitVec 4) (s : State) : Result := .next (engineT s 0x4F d a 0 h 4)
/-- VGEN (R225). -/
def execVgen (d h p : BitVec 4) (s : State) : Result := .next (engineT s 0x50 d 0 0 h p.toNat)
/-- VGEN.const (R225). -/
def execVgenConst (d h : BitVec 4) (c : BitVec 5) (s : State) : Result := .next (engineT s 0x50 d 0 0 h (16 * c.toNat + 7))

/-- An X-form matrix command (R216): fn7 1, e 1; an alias address in S[b] is resolved where it is used. -/
def xCommand (s : State) (op : Nat) (a b : BitVec 5) : Command :=
  { word := BitVec.ofNat 32 (op * 2 ^ 25 + a.toNat * 2 ^ 15 + b.toNat * 2 ^ 10 + 1 * 8 + 1), x := s.S a, y := s.S b }

/-- CBLD (R216). -/
def execCbld (a b : BitVec 5) (s : State) : Result := .next (issueCmd s (xCommand s 0x58 a b))
/-- SKSET (R216). -/
def execSkset (a b : BitVec 5) (s : State) : Result := .next (issueCmd s (xCommand s 0x59 a b))

/-! ### Descriptor instructions (R201, R202) -/

/-- TDEF (R201). -/
def execTdef (d : BitVec 4) (a b : BitVec 5) (s : State) : Result :=
  .next (retire (s.setT d (s.S b ++ s.S a)))

/-- TEXT (R201). -/
def execText (d a : BitVec 4) (b : BitVec 5) (s : State) : Result :=
  let v := s.S b
  .next (retire (s.setT d (setBits128 (setBits128 (s.T a) 78 68 (bitsOf v 10 0)) 89 79 (bitsOf v 26 16))))

/-- TSUB (R202). -/
def execTsub (d a : BitVec 4) (k : BitVec 3) (p : BitVec 14) (s : State) : Result :=
  .next (match subTile (s.T a) k.toNat (p.toNat / 4 ^ (7 - k.toNat)) with
    | some t => retire (s.setT d t)
    | none => trap s 0x01 (k.setWidth 64))

/-- TSUBR (R202). -/
def execTsubr (d a : BitVec 4) (b : BitVec 5) (s : State) : Result :=
  .next (match pathOf (s.S b) with
    | none => trap s 0x01 (s.S b)
    | some q => match subTile (s.T a) q.count q.p with
      | some t => retire (s.setT d t)
      | none => trap s 0x01 (s.S b))

end Sys2Proof.Machine
end

