-- ==== Sys2Proof/Machine/Crypto.lean ====
section
/-! DEFINITION. The cryptographic functions the security chapter names (R357 to R377): AES-256 and its CMAC (FIPS 197,
SP 800-38B), AES key unwrap (RFC 3394), SHA-384 (FIPS 180-4), HMAC and HKDF (RFC 5869), P-384 and ECDSA (FIPS 186-4).
PRESUMED (log 30): the spec names these standards and does not restate them. -/

namespace Sys2Proof.Machine

/-! ### AES-256 -/

/-- Multiplication by x in GF(2^8). -/
def gfDouble (a : Nat) : Nat := if a < 128 then 2 * a else (2 * a) ^^^ 0x11B

/-- Multiplication in GF(2^8), bit by bit of the second factor. -/
def gfMulN : Nat → Nat → Nat → Nat
  | 0, _, _ => 0
  | n + 1, a, b => (if b % 2 = 1 then a else 0) ^^^ gfMulN n (gfDouble a) (b / 2)

def gfMul (a b : Nat) : Nat := gfMulN 8 a b

/-- a^(2^n) · … : the inverse is a^254. -/
def gfInvN : Nat → Nat → Nat → Nat
  | 0, _, acc => acc
  | n + 1, p, acc => gfInvN n (gfMul p p) (gfMul acc p)

def gfInv (a : Nat) : Nat := gfInvN 7 (gfMul a a) 1

def rotl8 (a n : Nat) : Nat := (a * 2 ^ n + a / 2 ^ (8 - n)) % 256

def sboxN (a : Nat) : Nat :=
  let b := gfInv a
  b ^^^ rotl8 b 1 ^^^ rotl8 b 2 ^^^ rotl8 b 3 ^^^ rotl8 b 4 ^^^ 0x63

def invSboxN (a : Nat) : Nat := gfInv (rotl8 a 1 ^^^ rotl8 a 3 ^^^ rotl8 a 6 ^^^ 0x05)

/-- Pointwise exclusive OR of two lists. -/
def xorList (a b : List Nat) : List Nat := List.zipWith (· ^^^ ·) a b

/-- AES-256 key expansion: words of four bytes, last first. -/
def aesExpand : Nat → Nat → Nat → List (List Nat) → List (List Nat)
  | 0, _, _, ws => ws
  | n + 1, i, rcon, ws =>
    let w := ws.headD []
    let w8 := ws.getD 7 []
    if i % 8 = 0 then
      let t := (w.tail ++ w.take 1).map sboxN
      aesExpand n (i + 1) (gfDouble rcon) (xorList w8 (xorList t [rcon, 0, 0, 0]) :: ws)
    else if i % 8 = 4 then aesExpand n (i + 1) rcon (xorList w8 (w.map sboxN) :: ws)
    else aesExpand n (i + 1) rcon (xorList w8 w :: ws)

/-- The list cut into pieces of four. -/
def quads : Nat → List Nat → List (List Nat)
  | 0, _ => []
  | n + 1, l => l.take 4 :: quads n (l.drop 4)

/-- The round keys, each 16 bytes, of a 32-byte key. -/
def aesKeys (key : List Nat) : List (List Nat) :=
  let ws := (aesExpand 52 8 1 (quads 8 key).reverse).reverse
  (List.range 15).map (fun r => ((ws.drop (4 * r)).take 4).flatten)

/-- Byte (r, c) of a state is at 4 c + r. -/
def shiftRows (s : List Nat) : List Nat := (List.range 16).map (fun i => s.getD ((4 * (i / 4 + i % 4) + i % 4) % 16) 0)

def invShiftRows (s : List Nat) : List Nat := (List.range 16).map (fun i => s.getD ((4 * (i / 4 + 4 - i % 4) + i % 4) % 16) 0)

def mixWith (k : List Nat) (s : List Nat) : List Nat :=
  (List.range 16).map (fun i =>
    (List.range 4).foldl (fun a j => a ^^^ gfMul (k.getD ((j + 4 - i % 4) % 4) 0) (s.getD (i / 4 * 4 + j) 0)) 0)

def mixColumns : List Nat → List Nat := mixWith [2, 3, 1, 1]
def invMixColumns : List Nat → List Nat := mixWith [14, 11, 13, 9]

/-- AES-256 of a 16-byte block. -/
def aesEnc (key blk : List Nat) : List Nat :=
  match aesKeys key with
  | [] => blk
  | k0 :: ks =>
    let s := (ks.take 13).foldl (fun s k => xorList (mixColumns (shiftRows (s.map sboxN))) k) (xorList blk k0)
    xorList (shiftRows (s.map sboxN)) (ks.getD 13 [])

/-- The inverse cipher of AES-256. -/
def aesDec (key blk : List Nat) : List Nat :=
  match (aesKeys key).reverse with
  | [] => blk
  | k14 :: ks =>
    let s := (ks.take 13).foldl (fun s k => invMixColumns (xorList ((invShiftRows s).map invSboxN) k)) (xorList blk k14)
    xorList ((invShiftRows s).map invSboxN) (ks.getD 13 [])

/-- The number of a list of bytes, first byte most significant. -/
def beNat (l : List Nat) : Nat := l.foldl (fun a b => a * 256 + b) 0

/-- A number as `n` bytes, most significant first. -/
def beBytes : Nat → Nat → List Nat
  | 0, _ => []
  | n + 1, x => x / 256 ^ n % 256 :: beBytes n x

/-- A number as `n` bytes, least significant first. -/
def leBytes : Nat → Nat → List Nat
  | 0, _ => []
  | n + 1, x => x % 256 :: leBytes n (x / 256)

def leNat : List Nat → Nat
  | [] => 0
  | b :: t => b + 256 * leNat t

/-- Doubling in GF(2^128) for the CMAC subkeys. -/
def cmacDouble (l : List Nat) : List Nat :=
  let x := beNat l
  beBytes 16 (if x < 2 ^ 127 then 2 * x else (2 * x) % 2 ^ 128 ^^^ 0x87)

/-- CMAC over the blocks of a message; the last block carries the subkey. -/
def cmacN : Nat → List Nat → List Nat → List Nat → List Nat
  | 0, _, _, x => x
  | n + 1, key, m, x =>
    if m.length ≤ 16 then
      let k1 := cmacDouble (aesEnc key (List.replicate 16 0))
      let last := if m.length = 16 then xorList m k1
        else xorList (m ++ 0x80 :: List.replicate (15 - m.length) 0) (cmacDouble k1)
      aesEnc key (xorList x last)
    else cmacN n key (m.drop 16) (aesEnc key (xorList x (m.take 16)))

/-- AES-256-CMAC. -/
def cmac (key m : List Nat) : List Nat := cmacN (m.length / 16 + 1) key m (List.replicate 16 0)

/-- One step of the RFC 3394 unwrap of a four-register key: `t` counts down from 24. -/
def unwrapN : Nat → List Nat → List Nat → List (List Nat) → List Nat × List (List Nat)
  | 0, _, a, rs => (a, rs)
  | t + 1, key, a, rs =>
    let i := t % 4
    let b := aesDec key (beBytes 8 (beNat a ^^^ (t + 1)) ++ rs.getD i [])
    unwrapN t key (b.take 8) (rs.set i (b.drop 8))

/-- RFC 3394 unwrap of a 40-byte wrapped 256-bit key. -/
def keyUnwrap (kek wrapped : List Nat) : Option (List Nat) :=
  let rs := (List.range 4).map (fun i => (wrapped.drop (8 + 8 * i)).take 8)
  let (a, rs) := unwrapN 24 kek (wrapped.take 8) rs
  if a = List.replicate 8 0xA6 then some rs.flatten else none

/-! ### SHA-384, HMAC, HKDF -/

def primes40 : List Nat := [2, 3, 5, 7, 11, 13, 17, 19, 23, 29, 31, 37, 41, 43, 47, 53, 59, 61, 67, 71,
  73, 79, 83, 89, 97, 101, 103, 107, 109, 113, 127, 131, 137, 139, 149, 151, 157, 163, 167, 173]
def primes80 : List Nat := [179, 181, 191, 193, 197, 199, 211, 223, 227, 229, 233, 239, 241, 251, 257, 263, 269, 271, 277, 281,
  283, 293, 307, 311, 313, 317, 331, 337, 347, 349, 353, 359, 367, 373, 379, 383, 389, 397, 401, 409]

/-- The greatest r below 2^n, above `acc`, whose k-th power is at most `x`. -/
def rootN : Nat → Nat → Nat → Nat → Nat
  | 0, _, _, acc => acc
  | n + 1, k, x, acc => rootN n k x (if (acc + 2 ^ n) ^ k ≤ x then acc + 2 ^ n else acc)

/-- The first 64 bits of the fractional part of a root of a prime. -/
def fracRoot (k p : Nat) : Nat := rootN 70 k (p * 2 ^ (64 * k)) 0 % 2 ^ 64

def shaK : List Nat := (primes40 ++ primes80).map (fracRoot 3)
def shaIV : List Nat := ((primes40.drop 8).take 8).map (fracRoot 2)

def rotr64 (x n : Nat) : Nat := x / 2 ^ n + x * 2 ^ (64 - n) % 2 ^ 64

/-- The message schedule, last word first. -/
def shaSched : Nat → List Nat → List Nat
  | 0, ws => ws
  | n + 1, ws =>
    let w15 := ws.getD 14 0
    let w2 := ws.getD 1 0
    let s0 := rotr64 w15 1 ^^^ rotr64 w15 8 ^^^ w15 / 2 ^ 7
    let s1 := rotr64 w2 19 ^^^ rotr64 w2 61 ^^^ w2 / 2 ^ 6
    shaSched n ((ws.getD 15 0 + s0 + ws.getD 6 0 + s1) % 2 ^ 64 :: ws)

/-- One round of the compression function on (a, …, h). -/
def shaRound (v : List Nat) (kw : Nat) : List Nat :=
  match v with
  | [a, b, c, d, e, f, g, h] =>
    let s1 := rotr64 e 14 ^^^ rotr64 e 18 ^^^ rotr64 e 41
    let ch := (e &&& f) ^^^ ((2 ^ 64 - 1 - e) &&& g)
    let t1 := h + s1 + ch + kw
    let s0 := rotr64 a 28 ^^^ rotr64 a 34 ^^^ rotr64 a 39
    let maj := (a &&& b) ^^^ (a &&& c) ^^^ (b &&& c)
    [(t1 + s0 + maj) % 2 ^ 64, a, b, c, (d + t1) % 2 ^ 64, e, f, g]
  | _ => v

def shaBlock (h : List Nat) (blk : List Nat) : List Nat :=
  let w0 := (List.range 16).map (fun i => beNat ((blk.drop (8 * i)).take 8))
  let ws := (shaSched 64 w0.reverse).reverse
  let v := (List.zipWith (· + ·) shaK ws).foldl shaRound h
  List.zipWith (fun a b => (a + b) % 2 ^ 64) h v

def shaBlocks : Nat → List Nat → List Nat → List Nat
  | 0, h, _ => h
  | n + 1, h, m => shaBlocks n (shaBlock h (m.take 128)) (m.drop 128)

/-- SHA-384 of a list of bytes. -/
def sha384 (m : List Nat) : List Nat :=
  let l := m.length
  let m := m ++ 0x80 :: List.replicate ((111 + 128 - l % 128) % 128) 0 ++ beBytes 16 (8 * l)
  ((shaBlocks (m.length / 128) shaIV m).take 6).flatMap (beBytes 8)

def hmac384 (key m : List Nat) : List Nat :=
  let k := if key.length > 128 then sha384 key else key
  let k := k ++ List.replicate (128 - k.length) 0
  sha384 (k.map (· ^^^ 0x5C) ++ sha384 (k.map (· ^^^ 0x36) ++ m))

def hkdfExpand : Nat → Nat → List Nat → List Nat → List Nat → List Nat
  | 0, _, _, _, _ => []
  | n + 1, i, prk, info, t =>
    let t := hmac384 prk (t ++ info ++ [i])
    t ++ hkdfExpand n (i + 1) prk info t

/-- HKDF-SHA-384 with no salt, at most 96 bytes of output (R357). -/
def hkdf (ikm info : List Nat) (len : Nat) : List Nat :=
  (hkdfExpand 2 1 (hmac384 (List.replicate 48 0) ikm) info []).take len

/-- A label: ASCII, no terminating zero. -/
def label (s : String) : List Nat := s.toList.map Char.toNat

/-! ### P-384 -/

def p384p : Nat := 2 ^ 384 - 2 ^ 128 - 2 ^ 96 + 2 ^ 32 - 1
def p384n : Nat := 0xffffffffffffffffffffffffffffffffffffffffffffffffc7634d81f4372ddf581a0db248b0a77aecec196accc52973
def p384b : Nat := 0xb3312fa7e23ee7e4988e056be3f82d19181d9c6efe8141120314088f5013875ac656398d8a2ed19d2a85c8edd3ec2aef
def p384gx : Nat := 0xaa87ca22be8b05378eb1c71ef320ad746e1d3b628ba79b9859f741e082542a385502f25dbf55296c3a545e3872760ab7
def p384gy : Nat := 0x3617de4a96262c6f5d9e98bf9292dc29f8f41dbd289a147ce9da3113b5f0b8c00a60b1ce1d7e819d7a431d7c90ea0e5f

/-- b ^ e mod m over `n` bits of the exponent. -/
def powMod : Nat → Nat → Nat → Nat → Nat → Nat
  | 0, _, _, _, acc => acc
  | n + 1, b, e, m, acc => powMod n (b * b % m) (e / 2) m (if e % 2 = 1 then acc * b % m else acc)

def invMod (a m : Nat) : Nat := powMod 384 (a % m) (m - 2) m 1

def subMod (a b m : Nat) : Nat := (a + m - b % m) % m

/-- Addition of points; `none` is the point at infinity. -/
def ecAdd (p q : Option (Nat × Nat)) : Option (Nat × Nat) :=
  match p, q with
  | none, q => q
  | p, none => p
  | some (x1, y1), some (x2, y2) =>
    let m := p384p
    if x1 = x2 ∧ (y1 + y2) % m = 0 then none
    else
      let l := if x1 = x2 then (3 * x1 * x1 + m - 3) % m * invMod (2 * y1) m % m
        else subMod y2 y1 m * invMod (subMod x2 x1 m) m % m
      let x3 := subMod (l * l) (x1 + x2) m
      some (x3, subMod (l * subMod x1 x3 m) y1 m)

def ecMulN : Nat → Nat → Option (Nat × Nat) → Option (Nat × Nat) → Option (Nat × Nat)
  | 0, _, _, acc => acc
  | n + 1, k, p, acc => ecMulN n (k / 2) (ecAdd p p) (if k % 2 = 1 then ecAdd acc p else acc)

def ecMul (k : Nat) (p : Nat × Nat) : Option (Nat × Nat) := ecMulN 384 k (some p) none

/-- A point on the curve (R359). -/
def onCurve (x y : Nat) : Bool :=
  decide (x < p384p) && decide (y < p384p) && decide (y * y % p384p = (x * x * x + (p384p - 3) * x + p384b) % p384p)

/-- ECDSA with a nonce: the 96-byte signature r ‖ s over a 48-byte digest (R370, R377). -/
def ecdsaSign (d nonce : Nat) (digest : List Nat) : List Nat :=
  let k := nonce % (p384n - 1) + 1
  let r := match ecMul k (p384gx, p384gy) with
    | some (x, _) => x % p384n
    | none => 0
  let s := invMod k p384n * (beNat digest + r * d) % p384n
  beBytes 48 r ++ beBytes 48 s

/-- The private scalar that 48 bytes of output give (R357). -/
def scalarOf (out : List Nat) : Nat := beNat out % (p384n - 1) + 1

/-! ### The device's keys (R357) -/

def fusedBytes : List Nat := beBytes 32 Config.fusedKey.toNat

def attestKey : Nat := scalarOf (hkdf fusedBytes (label "larvan attest") 48)
def journalKey : Nat := scalarOf (hkdf fusedBytes (label "larvan journal") 48)

/-- The memory-encryption key pair of boot `n`, 64 bytes. -/
def memoryKey (n : Nat) : List Nat := hkdf fusedBytes (label "larvan memory" ++ beBytes 48 (Config.bootNonce n).toNat) 64

/-- The ECDH shared secret between the attestation key and a point: its x coordinate, 48 bytes. -/
def sharedSecret (x y : Nat) : List Nat :=
  match ecMul attestKey (x, y) with
  | some (x, _) => beBytes 48 x
  | none => beBytes 48 0

/-! ### Sealed lines (R362) -/

/-- The index of the line at a tree address. -/
def sealIndex (a : Nat) : Nat := a % 4 ^ 16 / 64

/-- Decrypt (or encrypt) the 64 bytes of a sealed line. -/
def sealCtr (key : List Nat) (i : Nat) (data : List Nat) : List Nat :=
  xorList data ((List.range 4).flatMap (fun j => aesEnc key (beBytes 8 i ++ [0, 0, 0, 0] ++ beBytes 4 j)))

/-- The six tag bytes of a sealed line. -/
def sealTag (key : List Nat) (i : Nat) (cipher : List Nat) (desc : Nat) : List Nat :=
  let kt := aesEnc key (List.replicate 16 0xFF) ++ aesEnc key (List.replicate 15 0xFF ++ [0xFE])
  (cmac kt (cipher ++ beBytes 8 i ++ leBytes 2 desc)).take 6

end Sys2Proof.Machine
end

