-- ==== Sys2Proof/Machine/Journal.lean ====
section
/-! DEFINITION. The access journal and the key store: R249 to R251, R357 to R361, R369 to R371. -/

namespace Sys2Proof.Machine

/-! ### Time -/

/-- Time units of one millisecond: a common measure of the cycle times of the four operating points and the gating steps
(R24, R400). -/
def msUnits : Nat := 18918900000

/-- Milliseconds since bring-up (R369). -/
def State.ms (s : State) : Nat := s.timeUnits / msUnits

/-! ### The journal (R369 to R371) -/

/-- The 32 bytes of an entry. -/
def JEntry.bytes (e : JEntry) : List Nat :=
  leBytes 8 e.seq.toNat ++ leBytes 1 e.kind.toNat ++ leBytes 1 e.source.toNat ++ leBytes 2 e.detail.toNat
    ++ leBytes 4 e.time.toNat ++ leBytes 8 e.p0.toNat ++ leBytes 8 e.p1.toNat

/-- The chain value as bytes, first byte lowest. -/
def chainBytes (h : BitVec 384) : List Nat := leBytes 48 h.toNat

/-- The chain at bring-up: SHA-384 of 48 zero bytes (R370). -/
def chainStart : BitVec 384 := BitVec.ofNat 384 (leNat (sha384 (List.replicate 48 0)))

/-- Append one entry and extend the chain. -/
def Journal.put (j : Journal) (ms kind source detail : Nat) (p0 p1 : Word) : Journal :=
  let e : JEntry := ⟨BitVec.ofNat 64 j.head, BitVec.ofNat 8 kind, BitVec.ofNat 8 source, BitVec.ofNat 16 detail,
    BitVec.ofNat 32 ms, p0, p1⟩
  { j with
    entries := SMap.put j.entries (j.head % 2048) e
    head := j.head + 1
    chain := BitVec.ofNat 384 (leNat (sha384 (chainBytes j.chain ++ e.bytes))) }

/-- The two payload words of 16 bytes at offset `o` of a list. -/
def payload (l : List Nat) (o : Nat) : Word × Word :=
  (BitVec.ofNat 64 (leNat ((l.drop o).take 8)), BitVec.ofNat 64 (leNat ((l.drop (o + 8)).take 8)))

/-- Append a checkpoint of nine entries (R370). -/
def Journal.checkpoint (j : Journal) (ms : Nat) : Journal :=
  let h := chainBytes j.chain
  let n := j.head
  let hd : JEntry := ⟨BitVec.ofNat 64 n, 0x01, 0xFF, BitVec.ofNat 16 j.since, BitVec.ofNat 32 ms, 0, 0⟩
  let sig := ecdsaSign journalKey (Config.ecdsaNonce n) (sha384 (h ++ hd.bytes.take 16))
  let add (kind part : Nat) (p : Word × Word) (j : Journal) : Journal := j.put ms kind 0xFF part p.1 p.2
  let j := { add 0x01 j.since (payload h 0) j with headers := j.headers ++ [n] }
  let j := add 0x02 2 (payload h 32) (add 0x02 1 (payload h 16) j)
  let j := (List.range 6).foldl (fun j i => add 0x02 (3 + i) (payload sig (16 * i)) j) j
  { j with since := 0 }

def Journal.used (j : Journal) : Nat := j.head - j.exportPt

/-- Append an entry; a checkpoint follows at 247 entries, or when the journal has become full (R370, R371). -/
def Journal.add (j : Journal) (ms kind source detail : Nat) (p0 p1 : Word) : Journal :=
  let j := if j.since = 0 then { j with firstMs := ms } else j
  let j : Journal := { j.put ms kind source detail p0 p1 with since := j.since + 1 }
  let j := if decide (j.since ≥ 247) || decide (j.used ≥ 2039) then j.checkpoint ms else j
  { j with closed := j.closed || decide (j.used ≥ 2039) }

/-- Journal an event: appended, or counted as lost while the journal is full. -/
def State.journal (s : State) (kind source detail : Nat) (p0 p1 : Word) : State :=
  let j := s.sdie.journal
  let j := if j.closed then { j with lost := min (j.lost + 1) (2 ^ 32 - 1) } else j.add s.ms kind source detail p0 p1
  { s with sdie := { s.sdie with journal := j } }

/-- Move the export point to the header of a checkpoint; any other value is ignored (R371). -/
def setExport (s : State) (v : Word) : State :=
  let j := s.sdie.journal
  let n := v.toNat
  if j.headers.contains n && decide (j.exportPt ≤ n) && decide (n ≤ j.head) then
    let j := { j with exportPt := n, headers := j.headers.filter (fun h => decide (n ≤ h)) }
    { s with sdie := { s.sdie with journal := { j with closed := decide (j.used ≥ 2039) } } }
  else s

/-- `cr.jstat` (R371); its bit [13] is set while the full journal holds a transfer at the weir. -/
def jstatWord (d : Sdie) : Word :=
  let j := d.journal
  BitVec.ofNat 64 (j.lost * 2 ^ 16 + (if j.closed && d.weirs.any (fun p => !p.2.held.isEmpty) then 2 ^ 13 else 0)
    + (if j.closed then 2 ^ 12 else 0) + min j.used 2048)

/-- CR_JEXPORT_WRITE (R371). -/
def execCrJexportWrite (v : Word) (s : State) : Result := .next (setExport s v)

/-- A checkpoint falls due one second after the first entry since the last (R370). -/
def journalTimer (s : State) : State :=
  let j := s.sdie.journal
  if j.since > 0 && !j.closed && decide (j.firstMs + 1000 ≤ s.ms) then
    let j := j.checkpoint s.ms
    { s with sdie := { s.sdie with journal := { j with closed := decide (j.used ≥ 2039) } } }
  else s

/-- JOURNAL_CHECKPOINT (R370). -/
def execJournalCheckpoint (s : State) : Result := .next (journalTimer s)

/-- JAPP (R251). The object of its kind 1 wait is 0 (R100; DESIGN CHOICE, log 76). -/
def execJapp (d a b : BitVec 5) (s : State) : Result :=
  .next (atLeast .s s (fun s =>
    let j := s.sdie.journal
    if j.closed then awaitReply (s.setS d (BitVec.allOnes 64)) 0
    else awaitReply ((s.journal 0x80 s.cur.core 0 (s.S a) (s.S b)).setS d (BitVec.ofNat 64 j.head)) 0))

/-! ### The key store (R249, R250, R358 to R361) -/

def Sdie.slot (d : Sdie) (i : Nat) : KeySlot := SMap.get {} d.keys i

/-- The port-decrypt key of a slot as 32 bytes. -/
def KeySlot.bytes (k : KeySlot) : List Nat := leBytes 32 k.key.toNat

def setKey (s : State) (i : Nat) (k : KeySlot) : State :=
  { s with sdie := { s.sdie with keys := SMap.set {} s.sdie.keys i k } }

/-- `cr.keymap` (R358). -/
def keymapWord (d : Sdie) : Word := BitVec.ofNat 64 ((List.range 64).foldl (fun v i => v + if (d.slot i).occupied then 2 ^ i else 0) 0)

/-- The fields of a slot word: destination, source, use; `none` where a bit outside them is set (R249). -/
def slotFields (v : Word) (src : Bool) : Option (Nat × Nat × Nat) :=
  if bitsOf v 7 6 ≠ 0 ∨ bitsOf v 15 14 ≠ 0 ∨ bitsOf v 63 18 ≠ 0 ∨ (src = false ∧ bitsOf v 13 8 ≠ 0) then none
  else some (bitsOf v 5 0, bitsOf v 13 8, bitsOf v 17 16)

/-- The same where the use counts: 3 is reserved (R249). -/
def slotWord (v : Word) (src : Bool) : Option (Nat × Nat × Nat) := if bitsOf v 17 16 = 3 then none else slotFields v src

/-- Load `n` whole lines for a key instruction, each at its home (R359, R360): `.error none` where a line is not ready there; the thread
issues again when it is (R305). -/
def keyLines (s : State) (a : Word) (sealedBad : Bool) : Nat → List Nat → Except (Option (Nat × Word)) (List Nat) × State
  | 0, acc => (.ok acc, s)
  | n + 1, acc =>
    match checkMe s a { r := true, size := 64, ldx := sealedBad } with
    | (.error c, s) => (.error (some (c, a)), s)
    | (.ok t, s) =>
      match loadLine s s.myWho { t with uncached := true } with
      | .error s => (.error none, s)
      | .ok l => keyLines (loadedMe s l a.toNat) (a + 64) sealedBad n (acc ++ leBytes 64 l.line.1.toNat)

/-- The key a wrapped-key block holds (R359); `none` where the unwrap fails. -/
def unwrapBlock (blk : List Nat) : Option (List Nat) :=
  let x := beNat (blk.take 48)
  let y := beNat ((blk.drop 48).take 48)
  let id := (blk.drop 0x88).take 8
  if (blk.drop 0x90).any (fun b => decide (b ≠ 0)) || !onCurve x y then none
  else keyUnwrap ((hkdf (sharedSecret x y) (label "larvan kload" ++ id) 48).take 32) ((blk.drop 0x60).take 40)

/-- Place a key: the slot is filled and the journal written (R361). -/
def placeKey (s : State) (kind slot : Nat) (key : List Nat) (p0 : Word) : State :=
  (setKey s slot { occupied := true, use := 0, key := BitVec.ofNat 512 (leNat key) }).journal kind s.cur.core slot p0 0

/-- KLOAD (R249, R359). -/
def execKload (d a b : BitVec 5) (s : State) : Result :=
  .next (atLeast .m s (fun s =>
    let w := s.S a
    match slotWord w false with
    | none => trap s 0x01 w
    | some (dst, _, use) =>
      if use ≠ 0 ∨ dst ≥ 62 ∨ (s.sdie.slot dst).occupied = true then trap s 0x01 w
      else
        let addr := s.S b
        match keyLines s addr true 3 [] with
        | (.error (some (c, va)), s) => trap s c va
        | (.error none, s) => leave s 1 addr.toNat .reissue
        | (.ok blk, s) =>
          if s.sdie.journal.closed then awaitReply (s.setS d 2) addr.toNat
          else match unwrapBlock blk with
            | none => awaitReply (s.setS d 1) addr.toNat
            | some key =>
              let id : Word := BitVec.ofNat 64 (leNat ((blk.drop 0x88).take 8))
              awaitReply ((placeKey s 0x10 dst key id).setS d 0) addr.toNat))

/-- KDER (R249, R360). -/
def execKder (d a b : BitVec 5) (s : State) : Result :=
  .next (atLeast .m s (fun s =>
    let w := s.S a
    match slotWord w true with
    | none => trap s 0x01 w
    | some (dst, src, use) =>
      if use ≠ 0 ∨ dst ≥ 62 ∨ (s.sdie.slot dst).occupied = true ∨ (s.sdie.slot src).occupied = false then trap s 0x01 w
      else
        let addr := s.S b
        match keyLines s addr false 1 [] with
        | (.error (some (c, va)), s) => trap s c va
        | (.error none, s) => leave s 1 addr.toNat .reissue
        | (.ok info, s) =>
          let k := s.sdie.slot src
          if s.sdie.journal.closed then awaitReply (s.setS d 2) addr.toNat
          else if k.use ≠ 0 then awaitReply (s.setS d 1) addr.toNat
          else awaitReply ((placeKey s 0x11 dst ((hkdf k.bytes info 48).take 32) (BitVec.ofNat 64 src)).setS d 0) addr.toNat))

/-- A core purges a slot's key from its port key cache (R250). -/
def purgeKey (s : State) (core slot : Nat) : State :=
  let c := s.core core
  s.setCore core { c with keyCache := c.keyCache.filter (fun p => decide (p.1 ≠ slot)) }

/-- KREV (R249, R250): the object of its kind 1 wait is 0 (R100; DESIGN CHOICE, log 76); the use is ignored; the slot is emptied and every core has purged the key before the instruction completes. -/
def execKrev (d a : BitVec 5) (s : State) : Result :=
  .next (atLeast .m s (fun s =>
    let w := s.S a
    match slotFields w false with
    | none => trap s 0x01 w
    | some (dst, _, _) =>
      if dst ≥ 62 then trap s 0x01 w
      else
        let was := (s.sdie.slot dst).occupied
        let s := (List.range 256).foldl (fun s k => purgeKey s k dst) (setKey s dst {})
        let s := if was then s.journal 0x12 s.cur.core dst 0 1 else s
        awaitReply (s.setS d (if was then 1 else 0)) 0))

/-- KEY_CACHE_PURGE: a core purges a key whose slot has been emptied (R250). -/
def execKeyCachePurge (core slot : Nat) (s : State) : Result :=
  if !coreExists core then .fault .noSuchUnit
  else if (s.sdie.slot slot).occupied then .next s
  else .next (purgeKey s core slot)

/-- The port looks a key up: its key cache of eight, then the key store, which refills it (R250, R358, R363); after an erasure it finds none
(R372). -/
def portKey (s : State) (core slot : Nat) : Option (List Nat) × State :=
  let c := s.core core
  if s.sdie.erased then (none, s)
  else match c.keyCache.find? (fun p => decide (p.1 = slot)) with
  | some (_, k) => (some (leBytes 32 k.toNat), s)
  | none =>
    let ks := s.sdie.slot slot
    if ks.occupied && decide (ks.use = 0) then
      let k : BitVec 256 := ks.key.setWidth 256
      (some ks.bytes, s.setCore core { c with keyCache := (c.keyCache ++ [(slot, k)]).drop (c.keyCache.length - 7) })
    else (none, s)

end Sys2Proof.Machine
end

