-- ==== Sys2Proof/Machine/Vector.lean ====
section
/-! DEFINITION. What a vector barge computes for one destination line from the lines it has read (R67, R74, R77 to R79, R217 to
R225). -/

namespace Sys2Proof.Machine

/-- The operands of a vector command: opcode, function field and tiles. -/
structure VecOp where
  op : Nat
  fn : Nat
  td : Tile
  ta : Tile
  tb : Tile
  deriving DecidableEq, Repr

def VecOp.member (v : VecOp) : Nat := v.fn % 16

/-- VGATH, the one member that reads an index (R224). -/
def VecOp.gath (v : VecOp) : Bool := decide (v.op = 0x4F) && decide (v.member = 3)

/-- The position of ta that VGATH's index selects; `none` selects the pad (R224). -/
def VecOp.gathPos (v : VecOp) (i : Int) (r : Nat) : Option (Nat × Nat) :=
  let n := v.ta.order
  if v.fn.testBit 4 then
    if 0 ≤ i ∧ i < 4 ^ n then some (i.toNat / 2 ^ n, i.toNat % 2 ^ n) else none
  else if 0 ≤ i ∧ i < 2 ^ n then some (r, i.toNat) else none

/-- Positions of ta that destination (r, c) reads, in order (R217 to R224). -/
def VecOp.posA (v : VecOp) (ls : Lines) (r c : Nat) : List (Nat × Nat) :=
  let n := 2 ^ v.ta.order
  if v.op = 0x4D then
    if v.fn.testBit 2 then (List.range n).map (fun j => (j, c)) else (List.range n).map (fun j => (r, j))
  else if v.op = 0x4E then
    if v.fn / 4 % 4 = 0 then (List.range (c + 1)).map (fun j => (r, j))
    else if v.fn / 4 % 4 = 1 then (List.range (r + 1)).map (fun j => (j, c))
    else (List.range (r * n + c + 1)).map (fun k => (k / n, k % n))
  else if v.op = 0x4F then
    if v.member = 1 then [(c, r)]
    else if v.member = 2 then
      if v.fn / 16 % 4 = 0 then [(0, 0)] else if v.fn / 16 % 4 = 1 then [(0, c)] else [(r, 0)]
    else if v.member = 3 then
      match v.gathPos (ls.src v.tb r c).toInt r with
      | some p => [p]
      | none => [(n, n)]
    else [(r, c)]
  else if v.op = 0x50 then []
  else [(r, c)]

/-- Whether tb is read at (r, c) as an operand, or as VGATH's index (R218 to R224). -/
def VecOp.usesB (v : VecOp) : Bool :=
  if v.op = 0x48 then decide (v.member ≤ 6)
  else if v.op = 0x49 then decide (v.member ≠ 4)
  else if v.op = 0x4A then true
  else v.gath

/-- Whether td is read as an accumulator: VFMA and VSEL (R218, R220). -/
def VecOp.usesD (v : VecOp) : Bool :=
  (decide (v.op = 0x48) && decide (v.member = 4)) || (decide (v.op = 0x4A) && decide (v.member = 2))

def VecOp.usesA (v : VecOp) : Bool := decide (v.op ≠ 0x50)

/-- Addresses of the lines that live positions of a tile lie in. -/
def linesOf (t : Tile) (ps : List (Nat × Nat)) : List Nat :=
  ((ps.filter (fun p => t.live p.1 p.2)).map (fun p => t.addrOf p.1 p.2 / 64 * 64)).eraseDups

/-- A line operand of a unit: its address and how it is interpreted. -/
structure OpLine where
  addr : Nat
  cls : FClass
  index : Bool
  deriving DecidableEq, Repr

/-- The lines of VGATH's index tile that a unit of destination cells reads: its indices say which lines of ta follow (R224). -/
def VecOp.firstLines (v : VecOp) (cells : List Cell) : List OpLine :=
  if v.gath then (linesOf v.tb (cells.map (fun x => (x.r, x.c)))).map (fun a => ⟨a, fclass v.tb.fmt, true⟩) else []

/-- The operand lines a unit reads, those of ta first, then tb's, then the accumulator's in td; those of VGATH follow its indices. -/
def VecOp.linesA (v : VecOp) (ls : Lines) (cells : List Cell) : List OpLine :=
  let ps := cells.map (fun x => (x.r, x.c))
  (if v.usesA then (linesOf v.ta (cells.flatMap (fun x => v.posA ls x.r x.c))).map (fun a => ⟨a, fclass v.ta.fmt, false⟩) else [])
    ++ (if v.usesB && !v.gath then (linesOf v.tb ps).map (fun a => ⟨a, fclass v.tb.fmt, false⟩) else [])
    ++ (if v.usesD then (linesOf v.td ps).map (fun a => ⟨a, fclass v.td.fmt, false⟩) else [])

/-- A line that a unit cannot interpret (R55, R56, R122, R219). -/
def VecOp.refusesLine (v : VecOp) (o : OpLine) (side : Word) : Bool :=
  if o.index then !lineVoid side && (!isInt (lineCode side) || decide (fclass (lineCode side) ≠ o.cls))
  else lineRefused o.cls side || (decide (v.op = 0x49) && !lineVoid side && isReal (lineCode side))

/-- All positions a unit takes as values. -/
def VecOp.sources (v : VecOp) (ls : Lines) (cells : List Cell) : List Src :=
  cells.flatMap (fun x =>
    (v.posA ls x.r x.c).map (fun p => ls.src v.ta p.1 p.2)
      ++ (if v.usesB && !v.gath then [ls.src v.tb x.r x.c] else [])
      ++ (if v.usesD then [ls.src v.td x.r x.c] else []))

/-- The domain of a unit (R67, R222). -/
def VecOp.realUnit (v : VecOp) (ls : Lines) (cells : List Cell) : Bool :=
  decide (v.op = 0x4C) || isReal v.td.fmt || (v.sources ls cells).any Src.real

/-- A result with its flags. -/
abbrev RF := XVal × Flags5

/-- Round to f32 and keep the value (`round_ne`, R122). -/
def rne (v : RF) : RF :=
  let (b, f) := roundF32 .ne v.1
  (ofF32 b, v.2 ||| f)

/-- The modulus of the integer domain: a result read as a signed 64-bit integer (R67). -/
def wrap64 (x : Int) : Int := (BitVec.ofInt 64 x).toInt

/-- The pairwise tree of R77 over a list of 2^n values. -/
def redTree {α : Type} (f : α → α → α) : Nat → List α → α → α
  | 0, l, z => l.headD z
  | n + 1, l, z => f (redTree f n (l.take (2 ^ n)) z) (redTree f n (l.drop (2 ^ n)) z)

/-- The operations of VRED and VSCAN on the real domain (R77 to R79). -/
def redReal (o : Nat) (x y : RF) : RF :=
  let f := x.2 ||| y.2
  if o = 1 then
    let (v, g) := x.1.add y.1
    rne (v, f ||| g)
  else if o = 2 then (x.1.max y.1, f) else (x.1.min y.1, f)

def redInt (o : Nat) (x y : Int) : Int := if o = 1 then x + y else if o = 2 then max x y else min x y

/-- Sequential reduction (R78). -/
def scanAll {α : Type} (f : α → α → α) (z : α) : List α → α
  | [] => z
  | x :: t => t.foldl f x

/-- The conditions of VCMP (R220). -/
def cmpHolds (o : Nat) (nan lt eq : Bool) : Bool :=
  match o with
  | 0 => !nan && eq
  | 1 => nan || !eq
  | 2 => !nan && lt
  | 3 => !nan && (lt || eq)
  | 4 => !nan && !lt && !eq
  | 5 => !nan && !lt
  | _ => nan

/-- Elementwise real results of VARITH (R218). -/
def arithReal (m : Nat) (x y z : RF) : RF :=
  let f2 := x.2 ||| y.2
  match m with
  | 1 => let (v, g) := x.1.add y.1; rne (v, f2 ||| g)
  | 2 => let (v, g) := x.1.add y.1.neg; rne (v, f2 ||| g)
  | 3 => let (v, g) := x.1.mul y.1; rne (v, f2 ||| g)
  | 4 => let (v, g) := XVal.fma x.1 y.1 z.1; rne (v, f2 ||| z.2 ||| g)
  | 5 => (x.1.min y.1, f2)
  | 6 => (x.1.max y.1, f2)
  | 7 => (x.1.abs, x.2)
  | _ => (x.1.neg, x.2)

def arithInt (m : Nat) (x y z : Int) : Int :=
  match m with
  | 1 => x + y
  | 2 => x - y
  | 3 => x * y
  | 4 => x * y + z
  | 5 => min x y
  | 6 => max x y
  | 7 => x.natAbs
  | _ => -x

/-- VLOGIC (R219): 64-bit patterns; shift counts mod 64. -/
def logicInt (m : Nat) (x y : Int) : Int :=
  let bx : BitVec 64 := BitVec.ofInt 64 x
  let bv : BitVec 64 := BitVec.ofInt 64 y
  match m with
  | 1 => (bx &&& bv).toInt
  | 2 => (bx ||| bv).toInt
  | 3 => (bx ^^^ bv).toInt
  | 4 => (~~~bx).toInt
  | 5 => x * 2 ^ (y % 64).toNat
  | _ => x.fdiv (2 ^ (y % 64).toNat)

/-- VGEN's values (R225). -/
def genValue (fn n r c : Nat) : Int :=
  match fn % 16 with
  | 1 => (r * 2 ^ n + c : Nat)
  | 2 => r
  | 3 => c
  | 4 => if c ≥ r then 1 else 0
  | 5 => if c ≤ r then 1 else 0
  | 6 => if c = r then 1 else 0
  | _ => (BitVec.ofNat 5 (fn / 16)).toInt

/-- The result at destination (r, c), and its flags. In the real domain VSEL raises the flags of decoding z and the operand it selects, not those of
the other one: the spec does not say whether that is decoded (R66, R220; DESIGN CHOICE, log 55). -/
def VecOp.result (v : VecOp) (ls : Lines) (real : Bool) (r c : Nat) : Val × Flags5 :=
  let as := (v.posA ls r c).map (fun p => ls.src v.ta p.1 p.2)
  let a := as.headD .void
  let b := ls.src v.tb r c
  let d := ls.src v.td r c
  let re (x : RF) : Val × Flags5 := (.real x.1, x.2)
  let ie (x : Int) : Val × Flags5 := (.int (wrap64 x), 0)
  if v.op = 0x48 then
    if real then re (arithReal v.member a.toReal (if v.usesB then b.toReal else (.zero, 0)) (if v.usesD then d.toReal else (.zero, 0)))
    else ie (arithInt v.member a.toInt b.toInt d.toInt)
  else if v.op = 0x49 then ie (logicInt v.member a.toInt b.toInt)
  else if v.op = 0x4A then
    if v.member = 1 then
      let o := v.fn / 16 % 8
      if real then
        let x := a.toReal
        let y := b.toReal
        (.real (.fin (if cmpHolds o (x.1.isNaN || y.1.isNaN) (x.1.lt y.1) (x.1.eq y.1) then 1 else 0) 0), x.2 ||| y.2)
      else ie (if cmpHolds o false (decide (a.toInt < b.toInt)) (decide (a.toInt = b.toInt)) then 1 else 0)
    else if real then
      let z := d.toReal
      let x := if z.1.isZero then b.toReal else a.toReal
      (.real x.1, z.2 ||| x.2)
    else ie (if d.toInt ≠ 0 then a.toInt else b.toInt)
  else if v.op = 0x4B then (if real then (.real a.exact, 0) else ie a.toInt)
  else if v.op = 0x4C then
    let x := a.toReal
    let (y, f) := specialF32 v.member x.1
    (.real (ofF32 y), x.2 ||| f)
  else if v.op = 0x4D then
    if real then re (redTree (redReal (v.fn % 4)) v.ta.order (as.map Src.toReal) (.zero, 0))
    else ie (redTree (redInt (v.fn % 4)) v.ta.order (as.map Src.toInt) 0)
  else if v.op = 0x4E then
    if real then re (scanAll (redReal (v.fn % 4)) (.zero, 0) (as.map Src.toReal))
    else ie (scanAll (redInt (v.fn % 4)) 0 (as.map Src.toInt))
  else if v.op = 0x4F then
    if v.member = 4 then (if real then (.real a.exact, 0) else ie a.toInt)
    else if real then re a.toReal else ie a.toInt
  else
    let x := genValue v.fn v.td.order r c
    if real then (.real (.fin x 0), 0) else ie x

/-- The rounding mode of the encoding: VCVT's, else nearest-even (R217, R221). -/
def VecOp.mode (v : VecOp) : Rnd := if v.op = 0x4B then Rnd.ofBits (BitVec.ofNat 2 v.fn) else .ne

/-- One destination line: bytes, sideband and flags. -/
def VecOp.unit (v : VecOp) (ls : Lines) (i : Nat) (old : Word) : List (Nat × Byte) × Word × Flags5 :=
  let cells := v.td.liveCells i
  let real := v.realUnit ls cells
  let rs := cells.map (fun x => (x.off, v.result ls real x.r x.c))
  let (bs, side, f) := encodeLine v.td old v.mode real (rs.map (fun p => (p.1, p.2.1)))
  (bs, side, rs.foldl (fun f p => f ||| p.2.2) f)

end Sys2Proof.Machine
end

