-- ==== Sys2Proof/Machine/Units.lean ====
section
/-! DEFINITION. One unit of a barge's work (R96, R97, R197): the copy engine (R198 to R210), the matrix engine (R211 to R216)
and the vector engine (R217 to R225). -/

namespace Sys2Proof.Machine

/-- How a unit ends short: a fault with its cause and address, or a wait (for a line, a round, the weir), after which the unit is processed
again; the barge keeps what it has read (R52). -/
inductive Stop where
  | fault (cause addr : Nat) (s : State)
  | wait (b : Barge) (s : State)

/-- What processing a unit answers. -/
abbrev UnitRes := Except Stop (Barge × State)

/-- The clock at which a barge makes its next member (R300): its own as its members have moved it, or, where the device takes the freedom of
R261, that of its fork (DESIGN CHOICE, log 69). -/
def Barge.now (b : Barge) (tick : Nat) : Nat := if Config.bargeInOrder tick then max b.clk b.doneClk else b.clk

/-- The party of a barge's accesses (R196, R300, R301, R373); where a home cannot serve it, the unit stands there and is processed
again (R305). -/
def bargeWho (s : State) (k e : Nat) (b : Barge) : Who :=
  ⟨k, b.issuerCore, b.slot, b.level, b.part, max (b.now s.tick) s.micro.minClk, leaseOf b.lease, none, some (.bargeUnit k e), false⟩

/-- A watched access of a barge with the trap bit set: it parks at its next unit (R395). -/
def bargeWatch (s : State) (b : Barge) (l : Loc) (rd wr : Bool) : Barge :=
  match l with
  | .main pa =>
    match (s.micro.watchesOn pa rd wr).find? (fun w => w.getLsbD 62) with
    | some w => { b with watchHit := some (BitVec.ofNat 64 (bitsOf w 51 0)) }
    | none => b
  | _ => b

/-- A read of a barge has been made, a member of its own beside its others (R261). -/
def bargeRead (s : State) (b : Barge) (l : Loc) (a : Loaded) : Barge :=
  let b := { b with readClk := max b.readClk a.clk, doneClk := max b.doneClk a.clk }
  if 3 ≤ a.level then bargeWatch s b l true false else b

/-- Check an access of a barge. -/
def bargeCheck (s : State) (k e : Nat) (b : Barge) (va : Nat) (n : Need) : Except Stop (Target × State) :=
  match check s (bargeWho s k e b) va n with
  | (.error c, s) => .error (.fault c va s)
  | (.ok t, s) => .ok (t, s)

/-- Read the line at `va`, checked as `n` asks. -/
def readLine (s : State) (k e : Nat) (b : Barge) (va : Nat) (n : Need) : Except Stop (((LineData × Word) × Target) × Barge × State) :=
  match bargeCheck s k e b va n with
  | .error x => .error x
  | .ok (t, s) =>
    match loadLine s (bargeWho s k e b) t with
    | .error s => .error (.wait b s)
    | .ok a => .ok ((a.line, t), bargeRead s b t.loc a, a.st)

/-- Keep the copy of an operand line that later units use again: a barge reads each such line once (R52, R98). -/
def Barge.keep (b : Barge) (va : Nat) (l : LineData × Word) : Barge := { b with lines := SMap.put b.lines (va / 64) l }

/-- The homes of the lines that a unit writes are ready for them, so that it writes all of them or none (R97, R305): the first that is not is
asked, and the unit waits for it. -/
def writesReady (s : State) (k e : Nat) (b : Barge) : List Target → Except Stop Unit
  | [] => .ok ()
  | t :: ts =>
    match t.loc.place with
    | some pa =>
      match accessGate s (bargeWho s k e b) (pa / 64) .getx with
      | .error s => .error (.wait b s)
      | .ok _ => writesReady s k e b ts
    | none => writesReady s k e b ts

/-- Write one line at a checked target: merged bytes and a sideband, as one unit (R52). The write follows the reads its values depend on and
none of the barge's other members (R261); its invalidation round is taken by every party before the barge goes on (R319). -/
def bargeWrite (s : State) (k e : Nat) (b : Barge) (t : Target) (bs : List (Nat × Byte)) (side : Word) : UnitRes :=
  let d := mergeBytes (s.lineAt t.loc).1 bs
  let w := bargeWho s k e b
  match storeLine s { w with clk := max w.clk b.readClk } { t with loc := t.loc.lineBase } (natToBytes 64 d.toNat) (some side) true with
  | .error s => .error (.wait b s)
  | .ok (clk, ps, s) =>
    let b := bargeWatch s b t.loc false true
    .ok ({ b with doneClk := max b.doneClk clk }, takeRound s t.loc.line ps)

/-- A step at the barrier a barge names (R180, R181). -/
def bargeSignal (s : State) (b : Barge) (st : BarStep) : State := barSignal s b.cmd.handle st b.part (decide (b.level = .u)) (max b.clk b.doneClk)

/-- The bytes of a copied unit are counted: at once, or, for the last unit, at completion (R180). -/
def countBytes (s : State) (b : Barge) (n : Nat) (last : Bool) : Barge × State :=
  if last then ({ b with lastBytes := n }, s) else (b, bargeSignal s b (.landed n))

/-- A line is sealed (R199): by its leaf, or in local store by its tag. -/
def lineSealed (t : Target) (side : Word) : Bool := t.sealed || (t.loc.isLs && decide (lineTag side ≠ 0))

/-! ### Units of a barge (R197) -/

/-- The tile whose lines, or row-groups, are the units. -/
def unitTile (c : Command) : Tile :=
  let op := opcodeOf c.word
  if op = 0x3B ∨ op = 0x40 ∨ op = 0x41 ∨ op = 0x42 then Tile.ofBits c.ta else Tile.ofBits c.td

/-- The first unit at or after `i` that is not wholly dead (R44, R96). -/
def nextUnit (c : Command) (i : Nat) : Option Nat :=
  let op := opcodeOf c.word
  let t := unitTile c
  if op = 0x58 then (if i < 8 then some i else none)
  else if op = 0x59 then none
  else if op = 0x41 ∨ op = 0x42 then (if 8 * i < t.rows then some i else none)
  else t.nextLive i

/-! ### The copy engine -/

/-- A transfer that leaves the package (R366). -/
def leavesPackage : Loc → Bool
  | .host _ => true
  | .foreign _ _ => true
  | _ => false

/-- Bytes of a region's bucket (R365). -/
def Weir.burst (w : Weir) : Nat := max 4 (bitsOf w.b 51 28) * 1024

/-- Refill, in bytes a second (R365). -/
def Weir.rate (w : Weir) : Nat := bitsOf w.b 27 0 * 1024

/-- The bucket of an enabled region as it stands at a time (R365, R366). -/
def Weir.refilled (w : Weir) (now : Nat) : Weir :=
  if !w.on then w
  else
    let x := w.frac + (now - w.refillAt) * w.rate
    { w with level := min w.burst (w.level + x / (1000 * msUnits)), frac := x % (1000 * msUnits), refillAt := now }

/-- Take `n` bytes from a region's bucket, if nothing waits there, its rate lets anything out, the journal is not full and the bucket holds them
(R365, R366, R371); the bytes passed are kept for the millisecond's egress entry. -/
def weirPass (s : State) (i : Nat) (kind : PortKind) (n pa : Nat) (ahead : Bool) : Option State :=
  let w := (s.weir i).refilled s.timeUnits
  if (!ahead && !w.held.isEmpty) || s.sdie.journal.closed || decide (w.rate = 0) || decide (w.level < n) then none
  else
    let key := match kind with
      | .host => 0
      | .fabric => 1
      | .debug => 2
      | .barge => 3
    let (b, a) := SMap.get (0, 0) w.passed key
    let w := { w with level := w.level - n, passed := SMap.put w.passed key (b + n, if b = 0 then pa else a) }
    some { s with sdie := { s.sdie with weirs := SMap.set {} s.sdie.weirs i w } }

/-- Whether a barge already waits at the weir. -/
def State.weirHolds (s : State) (i k e : Nat) : Bool := (s.weir i).held.any (fun h => decide (h.exit = .barge k e))

/-- The weir's leave for one line of a copy that leaves the package from a protected egress region (R366). -/
def weirLeave (s : State) (k e : Nat) (b : Barge) (src : Loc) (out : Bool) (n dstVa : Nat) : Except Stop State :=
  match src with
  | .main pa =>
    if !out then .ok s
    else match s.egressOf pa with
      | none => .ok s
      | some i =>
        match weirPass s i .barge n pa false with
        | some s => .ok s
        | none =>
          if s.weirHolds i k e then .error (.wait b s)
          else
            let w := s.weir i
            let w := { w with held := w.held ++ [⟨.barge, n, pa, dstVa, s.timeUnits, .barge k e⟩] }
            .error (.wait b { s with sdie := { s.sdie with weirs := SMap.set {} s.sdie.weirs i w } })
  | _ => .ok s

/-- The leaf that a destination lies under, whatever it permits; `none` where it has none (R199, R311). -/
def leafOf (s : State) (w : Who) (va : Nat) : Option Target × State :=
  let va := resolveAlias w.core va
  if inLs va then (some { loc := .ls va }, s)
  else if va ≥ 2 ^ 56 ∨ inUnassigned va = true then (none, s)
  else
    let x := translate s w va
    let s := watchedWalk { s with micro := x.micro, agenda := s.agenda ++ x.notes } w x.reads
    match x.ans with
    | .ok e => (some (targetOf s e va), s)
    | .error _ => (none, s)

/-- Where a sealed line may go (R199): into local store, or, read through a sealed leaf, under a sealed leaf of the same key slot. -/
def sealedFits (st : Target) : Option Target → Bool
  | some dt => dt.loc.isLs || (st.sealed && dt.sealed && decide (dt.key = st.key))
  | none => false

/-- The refusal of a sealed line that a copy would move (R199): it needs a whole line under policy keep and a destination that it fits. It comes before
the checks of the write itself (R204). -/
def sealedRefused (s : State) (w : Who) (img : LineData × Word) (st : Target) (dstVa : Nat) (keep whole : Bool) : Bool × State :=
  if !lineSealed st img.2 then (false, s)
  else if !keep || !whole then (true, s)
  else
    let x := leafOf s w dstVa
    (!sealedFits st x.1, x.2)

/-- Move one line's live bytes under R198, R199, R366 and R367. `pairs` gives each live byte's offsets in the source and the
destination line; `whole` says that a wholly live line is moved. -/
def moveLine (s : State) (k e : Nat) (b : Barge) (img : LineData × Word) (st : Target) (srcVa dstVa : Nat) (pairs : List (Nat × Nat))
    (whole last metered : Bool) : UnitRes := do
  let td := Tile.ofBits b.cmd.td
  let keep := decide (td.policy = 0)
  let (bad, s) := sealedRefused s (bargeWho s k e b) img st dstVa keep whole
  if bad then .error (.fault 0x14 srcVa s) else
  let (dt, s) ← bargeCheck s k e b dstVa { w := true, sealedOk := true }
  if s.inEgress st.loc && !(decide (b.level = .m) || leavesPackage dt.loc || s.inEgress dt.loc) then .error (.fault 0x0A srcVa s)
  else
    let bs := pairs.map (fun p => (p.2, BitVec.ofNat 8 (img.1.toNat >>> (8 * p.1))))
    let side : Word := if keep then (if whole then img.2 else img.2 &&& 0xFFFF)
      else BitVec.ofNat 64 (td.fmt % 256 + td.fixed.toNat * 256)
    writesReady s k e b [dt]
    let s ← weirLeave s k e b st.loc (!metered && leavesPackage dt.loc) bs.length dstVa
    let (b, s) ← bargeWrite s k e b dt bs side
    .ok (countBytes s b bs.length last)

/-- Bytes of the live cells of line `i` of tile `t`, paired with the offsets of the same cells of a tile `u`. -/
def pairBytes (t u : Tile) (i : Nat) (srcIsU : Bool) : List (Nat × Nat) :=
  let shift (x : Tile) : Nat := if x.small then x.base % 64 else 0
  (t.liveCells i).flatMap (fun c => (List.range t.esize).map (fun j =>
    let o := c.off - shift t + j
    if srcIsU then (o + shift u, o + shift t) else (o + shift t, o + shift u)))

/-- The rounds that a bounded copy may be behind, by its mode and its issuer's floor (R205). -/
def boundOf (b : Barge) (t : Target) : Option (Nat × BitVec 32) :=
  match decide (opcodeOf b.cmd.word = 0x38) && decide (bitsOf b.cmd.word 8 7 = 1), t.region with
  | true, some r => some (r, floorOf b.floors r - BitVec.ofNat 32 (bitsOf b.cmd.word 6 0))
  | _, _ => none

/-- Read a source line of a copy barge: bounded in mode 1 (R205, R295, R296), else as a load. A line of BGATH's template block is read
once (R98). -/
def copyRead (s : State) (k e : Nat) (b : Barge) (va : Nat) : Except Stop (((LineData × Word) × Target) × Barge × State) := do
  let (t, s) ← bargeCheck s k e b va { r := true, egress := true }
  let w := bargeWho s k e b
  let ta := Tile.ofBits b.cmd.ta
  let twice := decide (opcodeOf b.cmd.word = 0x3A) && blocksOverlap va 3 ta.base ta.height
  match (if twice then b.kept va else none) with
  | some l => .ok ((l, t), b, s)
  | none =>
    match boundOf b t with
    | none =>
      match loadLine s w t with
      | .error s => .error (.wait b s)
      | .ok a =>
        let b := bargeRead s b t.loc a
        .ok ((a.line, t), if twice then b.keep va a.line else b, a.st)
    | some (r, q) =>
      match (if b.asked then none else serveBounded s w t r q false) with
      | some a => .ok ((a.line, t), bargeRead s b t.loc a, a.st)
      | none =>
        match boundedAtHome s w t r q false (.bargeUnit k e) with
        | .waits s => .error (.wait { b with asked := true } s)
        | .stalled s => .error (.wait { b with asked := true } s)
        | .bad c s => .error (.fault c va s)
        | .served a => .ok ((a.line, t), { bargeRead s b t.loc a with asked := false }, a.st)

/-- Read a line and move it. -/
def copyLine (s : State) (k e : Nat) (b : Barge) (srcVa dstVa : Nat) (pairs : List (Nat × Nat)) (whole last metered : Bool) : UnitRes := do
  let ((img, t), b, s) ← copyRead s k e b srcVa
  moveLine s k e b img t srcVa dstVa pairs whole last metered

/-- BCOPY (R204 to R206). -/
def unitBcopy (s : State) (k e : Nat) (b : Barge) (i : Nat) (last metered : Bool) : UnitRes :=
  let td := Tile.ofBits b.cmd.td
  let ta := Tile.ofBits b.cmd.ta
  copyLine s k e b (ta.lineAddr i) (td.lineAddr i) (pairBytes td ta i true) (td.wholeLine i) last metered

/-- BFILL (R207): the byte under the destination's format and scale policy. -/
def unitBfill (s : State) (k e : Nat) (b : Barge) (i : Nat) (last : Bool) : UnitRes := do
  let td := Tile.ofBits b.cmd.td
  let (t, s) ← bargeCheck s k e b (td.lineAddr i) { w := true, sealedOk := true }
  let sc := newScale td (s.sideAt t.loc) false []
  let v : Byte := if sc = -128 then 0 else BitVec.ofNat 8 (cmdFn b.cmd.word)
  let bs := (td.liveCells i).flatMap (fun c => (List.range td.esize).map (fun j => (c.off + j, v)))
  let (b, s) ← bargeWrite s k e b t bs (BitVec.ofNat 64 (td.fmt % 256 + (BitVec.ofInt 8 sc).toNat * 256))
  .ok (countBytes s b bs.length last)

/-- The block number of a gather or scatter: `index_of(tb, r, c)` (R208, R122); an index line is read once. One in local store whose tag is not
zero is read as any other: R199 says what a barge does with the sealed lines it moves or computes with, not with indices (DESIGN CHOICE,
log 56). -/
def blockNumber (s : State) (k e : Nat) (b : Barge) (tb : Tile) (r c : Nat) : Except Stop (Int × Barge × State) := do
  if !tb.live r c then .ok (padInt tb.fmt tb.pad, b, s)
  else
    let va := tb.addrOf r c / 64 * 64
    let (img, b, s) ← (match b.kept va with
      | some l => .ok (l, b, s)
      | none => do
        let ((img, _), b, s) ← readLine s k e b va { r := true }
        .ok (img, b.keep va img, s) : Except Stop ((LineData × Word) × Barge × State))
    let ls : Lines := [(va, img)]
    if lineVoid img.2 then .ok (0, b, s)
    else if isInt (lineCode img.2) && decide (fclass (lineCode img.2) = fclass tb.fmt) then .ok ((ls.src tb r c).toInt, b, s)
    else .error (.fault 0x12 va s)

/-- BGATH and BSCAT (R208): line `i` of the tile and the line at the same offset of the block its sub-block names. -/
def unitGather (s : State) (k e : Nat) (b : Barge) (i : Nat) (scatter last metered : Bool) : UnitRes := do
  let td := Tile.ofBits b.cmd.td
  let ta := Tile.ofBits b.cmd.ta
  let tb := Tile.ofBits b.cmd.tb
  let tile := if scatter then ta else td
  let tmpl := if scatter then td else ta
  let va := tile.lineAddr i
  let x := tile.cellAt (i * (64 / tile.esize)) 0
  let (v, b, s) ← blockNumber s k e b tb (x.r / 2 ^ tmpl.order) (x.c / 2 ^ tmpl.order)
  let blk := tmpl.base + v.toNat * 4 ^ tmpl.height + 64 * i % 4 ^ tmpl.height
  if v < 0 then .error (.fault 0x01 va s)
  else if tmpl.base + v.toNat * 4 ^ tmpl.height ≥ 2 ^ 56 then .error (.fault 0x0D va s)
  else
    let pairs := pairBytes tile { tile with base := 0 } i true
    let whole := tile.wholeLine i
    if scatter then
      if blocksOverlap blk 3 ta.base ta.height then .error (.fault 0x11 blk s)
      else copyLine s k e b va blk pairs whole last metered
    else copyLine s k e b blk va pairs whole last metered

/-! ### Residency and ownership (R210, R309, R325) -/

/-- The owners' copies of a line are written back before every copy of it goes from the L1s and the L2 slices (R210, R303): `none` where none
is owned any more. -/
def ownersOut (s : State) (line : Nat) : Option State :=
  let own := s.micro.l1d.filter (fun p => match s.micro.copyAt p.1 line with
    | some c => decide (c.st = .x) || decide (c.st = .xi)
    | none => false)
  if own.isEmpty then none else some (own.foldl (fun s p => evictLine s p.1 line) s)

/-- BEVICT and BDEMOTE remove the copies of a line that no agent owns from L1 and L2; BEVICT removes the LLC's too (R210). -/
def removeCopies (s : State) (line : Nat) (llc : Bool) : State :=
  let m := (s.micro.l1d.map (·.1)).foldl (fun m k => m.dropV k line) s.micro
  let m := (m.l2.map (·.1)).foldl (fun m c => m.dropL2 c line) m
  let sl := m.homeOf (64 * line)
  { s with micro := if llc then { m with llc := SMap.set [] m.llc sl ((SMap.get [] m.llc sl).filter (fun p => decide (p.1 ≠ line))) } else m }

/-- The lines of another core's entry that it owns at a slice: they are recalled before the entry is replaced (R309). -/
def Micro.ownedBy (m : Micro) (slice : Nat) (x : OwnerEntry) : List Nat :=
  (m.home.filter (fun p => decide (p.2.st ≠ .c) && decide (p.2.owner = x.owner) && decide (m.homeOf (64 * p.1) = slice)
    && decide (64 * p.1 / 4 ^ x.height = x.base / 4 ^ x.height))).map (·.1)

/-- Entries of other cores that overlap a claim (R309). -/
def Micro.rivals (m : Micro) (slice : Nat) (x : OwnerEntry) : List OwnerEntry :=
  (SMap.get [] m.owners slice).filter (fun y => blocksOverlap x.base x.height y.base y.height && decide (y.owner ≠ x.owner))

/-- An owner-table entry is recorded at a slice in the place of those it recalls; a full table records none (R309). -/
def claimOwner (m : Micro) (slice : Nat) (x : OwnerEntry) : Micro :=
  let l := SMap.get [] m.owners slice
  if l.contains x then m
  else
    let l := l.filter (fun y => !(m.rivals slice x).contains y)
    { m with owners := SMap.set [] m.owners slice (if l.length < 256 then l ++ [x] else l) }

/-- The owner gives up at a slice what overlaps a block (R309). -/
def releaseOwner (m : Micro) (slice : Nat) (x : OwnerEntry) : Micro :=
  { m with owners := SMap.set [] m.owners slice ((SMap.get [] m.owners slice).filter (fun y =>
      !(decide (y.owner = x.owner) && blocksOverlap x.base x.height y.base y.height))) }

/-- A residency handle replaces the block's own, or, when 64 are in use, that of lowest class, oldest first; class 0 removes
(R325). -/
def setHandle (m : Micro) (place : Nat) (h : Handle) : Micro :=
  let l := (SMap.get [] m.handles place).filter (fun x => !(decide (x.base = h.base) && decide (x.height = h.height)))
  if h.cls = 0 then { m with handles := SMap.set [] m.handles place l }
  else
    let low := l.foldl (fun v x => min v x.cls) 8
    let l := if l.length < 64 then l else match l.find? (fun x => decide (x.cls = low)) with
      | some x => l.erase x
      | none => l
    { m with handles := SMap.set [] m.handles place (l ++ [h]) }

/-- A line is brought to the L2 slice of `core`'s cluster, the L1s untouched: a load made for it at the line's home (R210); `.error`: it
waits there. -/
def prefetchLine (s : State) (w : Who) (core : Nat) (t : Target) : Except State State :=
  match t.loc.place with
  | some pa =>
    let line := pa / 64
    let c := max (w.clk + 1) s.micro.minClk
    let held := match s.micro.l2At (clusterOf core) line with
      | some o => s.micro.covers c o.img
      | none => false
    if t.uncached || held then .ok s
    else match accessGate s w line .gets with
      | .error s => .error s
      | .ok s =>
        let h := s.micro.homeLine line
        let rts := max h.rts (if s.micro.watched pa then max h.wts c else max h.wts (c + w.lease))
        let flat := s.lineAt t.loc
        let s := { s with micro := ((s.micro.setHome line { h with rts := rts }).raiseSlice line c).llcFill line t.cls }
        .ok (fillCopies (watchReport s w t.loc true false) core line ⟨flat.1, flat.2, h.wts, rts, s.viewOf (s.tagRegion t) pa, 3⟩ (s.tagRegion t) t.cls false true)
  | none => .ok s

/-- The block of an operand as an owner-table entry at one line's home: whole where the line's physical block is, else the line. -/
def ownerEntry (h i pa owner : Nat) : OwnerEntry :=
  if 64 * i ≤ pa ∧ (pa - 64 * i) % 4 ^ h = 0 ∧ 3 ≤ h then ⟨pa - 64 * i, h, owner⟩ else ⟨pa / 64 * 64, 3, owner⟩

/-- BOWN at one line's home (R309): the lines that another core owns of an overlapping block are recalled, one after another, and then
the entry is recorded. -/
def bownLine (s : State) (k e : Nat) (b : Barge) (slice : Nat) (x : OwnerEntry) : UnitRes :=
  match (s.micro.rivals slice x).flatMap (s.micro.ownedBy slice) with
  | [] => .ok (b, { s with micro := claimOwner s.micro slice x })
  | l :: _ =>
    match homeGate s l x.owner .recall (.bargeUnit k e) with
    | .error s => .error (.wait b s)
    | .ok s => .error (.wait b (s.post [.bargeUnit k e]))

/-- RESIDENCY and OWNERSHIP on one line, for the issuing core and its cluster (R210). -/
def unitResidency (s : State) (k e : Nat) (b : Barge) (i : Nat) : UnitRes :=
  let td := Tile.ofBits b.cmd.td
  let va := td.lineAddr i
  let m3 := cmdFn b.cmd.word / 64
  let own := decide (opcodeOf b.cmd.word = 0x3D)
  let w := bargeWho s k e b
  if !own && decide (m3 = 1) then
    match check s w va { r := true } with
    | (.error _, s) => .ok (b, s)
    | (.ok t, s) =>
      match prefetchLine s w b.issuerCore t with
      | .error s => .error (.wait b s)
      | .ok s => .ok (b, s)
  else
    match check s w va (if own then { w := true, voidOk := true, sealedOk := true } else { r := true, egress := true }) with
    | (.error c, s) => .error (.fault c va s)
    | (.ok t, s) =>
      match t.loc with
      | .main pa =>
        let line := pa / 64
        let slice := s.micro.homeOf pa
        let x := ownerEntry td.height i pa b.issuerCore
        let hd : Handle := ⟨x.base, x.height, cmdFn b.cmd.word % 8⟩
        let again (s : State) : UnitRes := .error (.wait b (s.post [.bargeUnit k e]))
        if own && decide (m3 = 1) then bownLine s k e b slice x
        else if own then
          match s.micro.copyAt b.issuerCore line with
          | some c =>
            if c.st = .x ∨ c.st = .xi then again (evictLine s b.issuerCore line)
            else .ok (b, { s with micro := releaseOwner s.micro slice x })
          | none => .ok (b, { s with micro := releaseOwner s.micro slice x })
        else if m3 = 2 then .ok (b, { s with micro := setHandle (setHandle s.micro slice hd) (32 + clusterOf b.issuerCore) hd })
        else match ownersOut s line with
          | some s => again s
          | none => .ok (b, removeCopies s line (decide (m3 = 3)))
      | _ => .ok (b, s)

/-! ### The matrix engine -/

def Core.buf (c : Core) (i : Nat) : StatBuf := SMap.get {} c.bufs i

def State.setBuf (s : State) (k i : Nat) (x : StatBuf) : State :=
  let c := s.core k
  s.setCore k { c with bufs := SMap.set {} c.bufs i x }

/-- The port's checks of a sealed line, and its decryption (R212, R362, R363). -/
def portLine (s : State) (k i va : Nat) (img : LineData × Word) (t : Target) : Except (Nat × State) (LineData × State) :=
  if !lineSealed t img.2 then .ok (img.1, s)
  else if t.loc.isLs then .error (0x14, s)
  else match portKey s k t.key with
    | (none, s) => .error (0x15, s)
    | (some key, s) =>
      let data := leBytes 64 img.1.toNat
      let n := sealIndex va
      if leNat (sealTag key n data (bitsOf img.2 15 0)) ≠ lineTag img.2 then
        let pa := match t.loc with
          | .main pa => pa
          | _ => 0
        .error (0x16, s.journal 0x30 k t.key (BitVec.ofNat 64 pa) (BitVec.ofNat 64 i))
      else .ok (BitVec.ofNat 512 (leNat (sealCtr key n data)), s)

/-- The weights of a line of the stationary operand, by 128 k + j (R212, R72, R73); `none` where its format is refused. -/
def lineWeights (c : Core) (ta : Tile) (i : Nat) (d : LineData) (side : Word) : Option (List (Nat × XVal × Int)) :=
  let code := lineCode side
  let sc := scaleInt (lineScale side)
  let put (r q : Nat) (v : XVal) : List (Nat × XVal × Int) := if ta.live r q then [(128 * r + q, v, 0)] else []
  if lineVoid side then some ((ta.liveCells i).map (fun x => (128 * x.r + x.c, .zero, 0)))
  else if fclass code = .cb2 then
    if fclass ta.fmt ≠ .cb2 then none
    else some ((ta.liveCells i).flatMap (fun x =>
      (List.range 16).flatMap (fun n =>
        let word : BitVec 16 := BitVec.ofNat 16 (d.toNat >>> (8 * x.off + 16 * (n / 8)))
        let row := SMap.get 0 c.tables (256 * (code - 8) + bitsOf word 15 8)
        let v := cb2Weight word row (n % 8) sc
        let dr := n / 4
        let dc := n % 4
        if ta.trans then put (x.r + dc) (x.c + dr) v else put (x.r + dr) (x.c + dc) v)))
  else if fclass ta.fmt = .cb2 ∨ ¬(code = 1 ∨ code = 2 ∨ code = 3) then none
  else some ((ta.liveCells i).map (fun x =>
    let p : BitVec 32 := BitVec.ofNat 32 ((d.toNat >>> (8 * x.off)) % 256)
    (128 * x.r + x.c, (patValue code sc p).getD .zero, patInt code p)))

/-- MXST (R212). -/
def unitMxst (s : State) (k e : Nat) (b : Barge) (i : Nat) : UnitRes := do
  let ta := Tile.ofBits b.cmd.ta
  let n := cmdFn b.cmd.word % 2
  let va := ta.lineAddr i
  let ((img, t), b, s) ← readLine s k e b va { r := true, egress := true }
  match portLine s k i va img t with
  | .error (c, s) => .error (.fault c va s)
  | .ok (d, s) =>
    match lineWeights (s.core k) ta i d img.2 with
    | none => .error (.fault 0x12 va s)
    | some ws =>
      let f := (s.core k).buf n
      let isint := lineVoid img.2 || decide (lineCode img.2 = 1) || decide (lineCode img.2 = 2)
      .ok (b, s.setBuf k n { f with
        weights := ws.foldl (fun m p => SMap.set .zero m p.1 p.2.1) f.weights
        ints := ws.foldl (fun m p => SMap.set 0 m p.1 p.2.2) f.ints
        integer := f.integer && isint })

/-- The next skip-list decision (R215): entries are read while the run's remainder is 0; `none` where an entry cannot be read,
with its address. -/
def skipNext (s : State) (k : Nat) (w : Who) : Nat → Stream → Except Nat (Bool × Stream)
  | 0, st => .error st.addr.toNat
  | n + 1, st =>
    if st.left > 0 then .ok (st.skip, { st with left := st.left - 1 })
    else
      let a := st.addr.toNat
      if !ownLs k a || !bankOwned s w a || !pwinLoc s w (.ls a) 0 then .error a
      else skipNext s k w n ⟨st.addr + 2, !st.skip, bytesToNat (s.bytesAt (.ls a) 2)⟩

/-- The decisions for the k-groups of one row-group. -/
def skipGroups (s : State) (k : Nat) (w : Who) : Nat → Stream → Except Nat (List Bool × Stream)
  | 0, st => .ok ([], st)
  | n + 1, st =>
    match skipNext s k w 524289 st with
    | .error a => .error a
    | .ok (x, st) =>
      match skipGroups s k w n st with
      | .error a => .error a
      | .ok (l, st) => .ok (x :: l, st)

/-- Read a set of operand lines, in order, with their refusals; `keep`: later units may use them again. -/
def readLines (s : State) (k e : Nat) (b : Barge) (bad : Nat → Word → Bool) (sealBad keep : Bool) : List Nat → Lines → Except Stop (Lines × Barge × State)
  | [], ls => .ok (ls, b, s)
  | va :: t, ls =>
    match (if keep then b.kept va else none) with
    | some img =>
      if bad va img.2 then .error (.fault 0x12 va s)
      else readLines s k e b bad sealBad keep t (SMap.put ls va img)
    | none =>
      match readLine s k e b va { r := true } with
      | .error x => .error x
      | .ok ((img, tg), b, s) =>
        if sealBad && lineSealed tg img.2 then .error (.fault 0x14 va s)
        else if bad va img.2 then .error (.fault 0x12 va s)
        else readLines s k e (if keep then b.keep va img else b) bad sealBad keep t (SMap.put ls va img)

/-- Lines of a tile whose cells lie in the named rows 8g to 8g + 7 and hold a live element, in increasing order. -/
def groupLines (t : Tile) (g : Nat) : List Nat :=
  (List.range t.lines).filter (fun i => (t.liveCells i).any (fun x => decide (x.r / 8 = g)))

/-- The exact sum of one k-group (R75): zero is +0. -/
def groupSum (ls : Lines) (ta : Tile) (f : StatBuf) (i j lo hi : Nat) : XVal :=
  let v := (List.range (hi - lo)).foldl (fun acc d =>
    let kk := lo + d
    let a := (ls.src ta i kk).exact
    let w := SMap.get .zero f.weights (128 * kk + j)
    (acc.add (a.mul w).1).1) XVal.zero
  if v.isZero then .zero else v

/-- C(i, j) in f32 accumulation (R75). -/
def mxReal (ls : Lines) (ta td : Tile) (f : StatBuf) (skips : List Bool) (i j kk : Nat) : RF :=
  (List.range ((kk + 31) / 32)).foldl (fun acc g =>
    if skips.getD g false then acc
    else
      let (p, f1) := rne (groupSum ls ta f i j (32 * g) (min kk (32 * g + 32)), 0)
      let (v, f2) := acc.1.add p
      rne (v, acc.2 ||| f1 ||| f2)) (ls.src td i j).toReal

/-- C(i, j) in integer accumulation, before the modulus (R76). -/
def mxInt (ls : Lines) (ta td : Tile) (wt : Nat → Int) (skips : List Bool) (i j kk : Nat) : Int :=
  (List.range kk).foldl (fun acc q =>
    if skips.getD (q / 32) false then acc else acc + (ls.src ta i q).toInt * wt (128 * q + j)) (ls.src td i j).toInt

/-- Check the C lines of a group for writing, in increasing order. -/
def checkC (k e : Nat) (td : Tile) (b : Barge) : List Nat → State → Except Stop (List (Nat × Target) × State)
  | [], s => .ok ([], s)
  | i :: t, s => do
    let (tg, s) ← bargeCheck s k e b (td.lineAddr i) { w := true, sealedOk := true }
    let (l, s) ← checkC k e td b t s
    .ok ((i, tg) :: l, s)

/-- Encode and write the C lines of a group. -/
def writeC (k e : Nat) (td : Tile) (real : Bool) (val : Nat → Nat → Val) : List (Nat × Target) → Barge → State → UnitRes
  | [], b, s => .ok (b, s)
  | (i, tg) :: t, b, s => do
    let (bs, side, f) := encodeLine td (s.sideAt tg.loc) .ne real ((td.liveCells i).map (fun x => (x.off, val x.r x.c)))
    let (b, s) ← bargeWrite s k e { b with flags := b.flags ||| f } tg bs side
    writeC k e td real val t b s

/-- The result modulo 2^32 under C's format (R76). -/
def mod32 (c : Nat) (x : Int) : Int := if c = 4 then (BitVec.ofInt 32 x).toInt else ((BitVec.ofInt 32 x).toNat : Int)

/-- The first line read whose format integer accumulation does not take: neither void nor of an integer code (R76, R213). -/
def Lines.notInt (ls : Lines) : Option Nat := (ls.find? (fun p => !lineVoid p.2.2 && isReal (lineCode p.2.2))).map (·.1)

/-- MXMA and MXMAS (R213 to R215): row-group `g`. In integer accumulation a line of C under format f32 faults with 0x12, as a real line of A does:
R76 gives it no integer value and names no fault (DESIGN CHOICE, log 53). -/
def unitMxma (s : State) (k e : Nat) (b : Barge) (g : Nat) : UnitRes := do
  let td := Tile.ofBits b.cmd.td
  let ta := Tile.ofBits b.cmd.ta
  let fn := cmdFn b.cmd.word
  let sk := decide (opcodeOf b.cmd.word = 0x42)
  let f := (s.core k).buf (fn % 2)
  let real := decide (td.fmt = 6)
  if g = 0 ∧ f.st ≠ .full then .error (.fault 0x01 0 s)
  else if g = 0 ∧ (ta.cols ≠ f.rows ∨ td.cols ≠ f.cols) then .error (.fault 0x13 0 s)
  else if g = 0 ∧ real = false ∧ f.integer = false then .error (.fault 0x12 0 s)
  else
    let kk := ta.cols
    match (if sk then skipGroups s k (bargeWho s k e b) ((kk + 31) / 32) b.stream else .ok ([], b.stream)) with
    | .error a => .error (.fault 0x0A a s)
    | .ok (skips, st) =>
      let badA : Nat → Word → Bool := fun _ sd => lineRefused .b8 sd
      let badC : Nat → Word → Bool := fun _ sd => lineRefused .b32 sd || (!real && !lineVoid sd && isReal (lineCode sd))
      let cl := groupLines td g
      let (ls, b, s) ← readLines s k e b badA true false ((groupLines ta g).map ta.lineAddr) []
      if let some va := (if real then none else ls.notInt) then .error (.fault 0x12 va s) else
      let (ls, b, s) ← readLines s k e b badC false false (cl.map td.lineAddr) ls
      let wt : Nat → Int := fun q => SMap.get 0 f.ints q
      let res (i j : Nat) : Val × Flags5 :=
        if real then
          let r := mxReal ls ta td f skips i j kk
          (.real r.1, r.2)
        else (.int (mod32 td.fmt (mxInt ls ta td wt skips i j kk)), 0)
      let fl := cl.foldl (fun fl i => (td.liveCells i).foldl (fun fl x => fl ||| (res x.r x.c).2) fl) 0
      let (tgs, s) ← checkC k e td b cl s
      writesReady s k e b (tgs.map (·.2))
      let (b, s) ← writeC k e td real (fun i j => (res i j).1) tgs b s
      let b := { b with flags := b.flags ||| fl, stream := st }
      if sk then
        let c := s.core k
        .ok (b, s.setCore k { c with streams := SMap.set {} c.streams (fn / 2 % 4) st })
      else .ok (b, s)

/-- CBLD (R216): source line `i` fills table rows 32 i to 32 i + 31. -/
def unitCbld (s : State) (k e : Nat) (b : Barge) (i : Nat) : UnitRes := do
  let va := resolveAlias k b.cmd.y.toNat + 64 * i
  let ((img, t), b, s) ← readLine s k e b va { r := true }
  if lineSealed t img.2 then .error (.fault 0x14 va s)
  else
    let c := s.core k
    let tb := (List.range 32).foldl (fun m j =>
      SMap.set 0 m (256 * b.cmd.x.toNat + 32 * i + j) (BitVec.ofNat 16 (img.1.toNat >>> (16 * j)))) c.tables
    .ok (b, s.setCore k { c with tables := tb })

/-! ### The vector engine -/

/-- The operands of a vector barge. -/
def Barge.vec (b : Barge) : VecOp :=
  ⟨opcodeOf b.cmd.word, cmdFn b.cmd.word, Tile.ofBits b.cmd.td, Tile.ofBits b.cmd.ta, Tile.ofBits b.cmd.tb⟩

/-- Read operand lines of a vector unit: each is read once by the barge, and its later units use the same image (R52). The accumulator's lines, in
td, are each read by one unit. -/
def readOps (s : State) (k e : Nat) (b : Barge) (v : VecOp) (os : List OpLine) (ls : Lines) : Except Stop (Lines × Barge × State) :=
  readLines s k e b (fun va sd => os.any (fun o => decide (o.addr = va) && v.refusesLine o sd)) true true (os.map (·.addr)).eraseDups ls

/-- One destination line of a vector barge (R217 to R225). -/
def unitVector (s : State) (k e : Nat) (b : Barge) (i : Nat) : UnitRes := do
  let v := b.vec
  let cells := v.td.liveCells i
  let va := v.td.lineAddr i
  let (ls, b, s) ← readOps s k e b v (v.firstLines cells) []
  let (ls, b, s) ← readOps s k e b v (v.linesA ls cells) ls
  if v.op = 0x49 ∧ v.realUnit ls cells = true then .error (.fault 0x12 va s)
  else
    let (t, s) ← bargeCheck s k e b va { w := true, sealedOk := true }
    let (bs, side, f) := v.unit ls i (s.sideAt t.loc)
    bargeWrite s k e { b with flags := b.flags ||| f } t bs side

/-- Process unit `i` of a barge. A unit's writes follow the barge's reads of the lines that they depend on: those made for this unit, and
with them the earlier reads of a barge that uses lines again (R261). -/
def processUnit (s : State) (k e : Nat) (b : Barge) (i : Nat) (metered : Bool) : UnitRes :=
  let op := opcodeOf b.cmd.word
  let last := (nextUnit b.cmd (i + 1)).isNone
  let b := if b.lines.isEmpty then { b with readClk := 0 } else b
  if op = 0x38 then unitBcopy s k e b i last metered
  else if op = 0x39 then unitBfill s k e b i last
  else if op = 0x3A then unitGather s k e b i false last metered
  else if op = 0x3B then unitGather s k e b i true last metered
  else if op = 0x3C ∨ op = 0x3D then unitResidency s k e b i
  else if op = 0x40 then unitMxst s k e b i
  else if op = 0x41 ∨ op = 0x42 then unitMxma s k e b i
  else if op = 0x58 then unitCbld s k e b i
  else unitVector s k e b i

end Sys2Proof.Machine
end

