-- ==== Sys2Proof/Machine/Barges.lean ====
section
/-! DEFINITION. Barges as the engines run them: starting (R94, R211), units, parking (R97), completion and cancellation (R95),
basin slots (R191), SEND and the hub (R171, R172, R209), engine control (R228). -/

namespace Sys2Proof.Machine

/-! ### What waits for an engine -/

/-- The threads of a core whose kind-1 wait may be for a barge (R98), those that wait for an engine, and the staged registers
with pending launches, are tested again. -/
def engineWake (s : State) (k e : Nat) : State :=
  let c := s.core k
  let hz := (c.ctxs.filter (fun p => decide (p.2.waitKind = 1) && decide (p.2.pend = .reissue))).map (fun p => Instr.wake k p.1)
  let sp := (c.ctxs.filter (fun p => decide (p.2.waitKind = 7) && decide (p.2.waitObj = e))).map (fun p => Instr.engineAccept k p.1)
  let st := (c.staged.filter (fun p => decide (p.2.pending > 0))).map (fun p => Instr.stagedLaunch k p.1)
  -- what waits in the cluster hub's message buffer is delivered again, in order of arrival (R172, R352)
  let s := { s with due := s.due ++ SMap.get [] s.hubBuf (clusterOf k), hubBuf := SMap.set [] s.hubBuf (clusterOf k) [] }
  s.post (hz ++ sp ++ st)

/-! ### Starting (R94, R211) -/

/-- Blocks a barge reads, as base and height: those of its tiles. CBLD's source, which no tile gives, is none of them (DESIGN CHOICE, log 54). -/
def Barge.reads (b : Barge) : List (Nat × Nat) :=
  (b.cmd.used.filter (fun u => decide (u.1 ≠ 0))).map (fun u => (u.2.2.base, u.2.2.height))

/-- A copy into a basin that has still to claim its slot (R191). -/
def Barge.needsSlot (b : Barge) : Bool := isBsn b.cmd.word && b.basinClaim.isNone && b.forgot.isNone

/-- Blocks a barge writes: the tile td, or the claimed slot of a basin. The td of RESIDENCY and OWNERSHIP, which write no data, counts as
one (DESIGN CHOICE, log 54). -/
def Barge.writes (b : Barge) : List (Nat × Nat) :=
  if b.needsSlot then []
  else if (cmdUses (opcodeOf b.cmd.word) (cmdFn b.cmd.word)).1 then [((Tile.ofBits b.cmd.td).base, (Tile.ofBits b.cmd.td).height)]
  else []

/-- The matrix engine's internal blocks (R211): buffers 0 and 1, tables 2 to 9, stream registers 10 to 13: (reads, writes). -/
def Barge.units (b : Barge) : List Nat × List Nat :=
  let op := opcodeOf b.cmd.word
  let fn := cmdFn b.cmd.word
  if op = 0x40 then ([2, 3, 4, 5, 6, 7, 8, 9], [fn % 2])
  else if op = 0x41 then ([fn % 2], [])
  else if op = 0x42 then ([fn % 2, 10 + fn / 2 % 4], [10 + fn / 2 % 4])
  else if op = 0x58 then ([], [2 + b.cmd.x.toNat])
  else if op = 0x59 then ([], [10 + b.cmd.x.toNat])
  else ([], [])

/-- A queued barge `q` stays queued behind a parked earlier barge `p`. -/
def blockedBy (q p : Barge) : Bool :=
  decide (p.st = .parked) && decide (p.seq < q.seq)
    && ((q.reads ++ q.writes).any (fun x => p.writes.any (fun y => blocksOverlap x.1 x.2 y.1 y.2))
        || q.units.2.any (fun u => p.units.1.contains u || p.units.2.contains u)
        || q.units.1.any (fun u => p.units.2.contains u))

/-- The first in issue order of the queued and the resumed barges that may start (R94, R97). -/
def Engine.startable (g : Engine) : Option Nat :=
  ((g.resumed ++ g.queue).filter (fun r => !(g.recs.any (fun p => blockedBy (g.barge r) p.2)))).foldl (fun m r => match m with
    | none => some r
    | some q => if (g.barge r).seq < (g.barge q).seq then some r else m) none

/-- The floors a bounded copy uses: those of its issuing thread when it starts, resident or in its save area, or those
captured at a staged launch (R205, R227). The save area is translated by the tables of the core it was issued on (R330). -/
def startFloors (s : State) (b : Barge) : SMap Word :=
  if b.captured then b.floors
  else match s.residentTid b.tid with
    | some r => (s.ctxOf r).floors
    | none =>
      let a := SMap.get 0 s.spilled b.tid
      if a = 0 then b.floors
      else match saveTarget s b.issuerCore (a + 0x280) with
        | (some t, _) => (List.range 8).foldl (fun m i => SMap.set 0 m i (BitVec.ofNat 64 (bytesToNat (s.bytesAt (t.loc.add (8 * i)) 8)))) []
        | (none, _) => b.floors

/-- What starting does to the matrix engine: MXST's buffer is loading, SKSET and MXMAS take their stream register (R212, R215,
R216). -/
def startMatrix (s : State) (k : Nat) (b : Barge) : Barge × State :=
  let op := opcodeOf b.cmd.word
  let fn := cmdFn b.cmd.word
  let ta := Tile.ofBits b.cmd.ta
  if op = 0x40 ∧ b.cursor = 0 then
    (b, s.setBuf k (fn % 2) { st := .loading, rows := ta.rows, cols := ta.cols, integer := true })
  else if op = 0x42 ∧ b.cursor = 0 then ({ b with stream := SMap.get {} (s.core k).streams (fn / 2 % 4) }, s)
  else if op = 0x59 then
    let c := s.core k
    (b, s.setCore k { c with streams := SMap.set {} c.streams b.cmd.x.toNat ⟨BitVec.ofNat 64 (resolveAlias k b.cmd.y.toNat), true, 0⟩ })
  else (b, s)

/-- BARGE_START (R94): the engine takes the first queued barge that may start; its queue entry is free for a command that waits (R92, R101). -/
def execBargeStart (core e : Nat) (s : State) : Result :=
  if !coreExists core || decide (e ≥ 3) then .fault .noSuchUnit
  else
    let g := (s.core core).engine e
    if g.running.isSome then .next s
    else match g.startable with
      | none => .next s
      | some r =>
        let b := g.barge r
        let (b, s) := startMatrix s core b
        let b := { b with st := .running, floors := startFloors s b, captured := true }
        let g := { (((s.core core).engine e).setBarge r b) with running := some r, queue := g.queue.filter (fun x => decide (x ≠ r)),
                                                                     resumed := g.resumed.filter (fun x => decide (x ≠ r)) }
        let s := (engineWake (s.setEngine core e g) core e).post [.bargeUnit core e]
        .next (if b.needsSlot then s.post [.basinSlotClaim core] else s)

/-- BASIN_SLOT_CLAIM (R191): the running copy barge that waits for a slot claims one as BSNP does; a basin disabled meanwhile
parks it at its first unit (R189). -/
def execBasinSlotClaim (core : Nat) (s : State) : Result :=
  if !coreExists core then .fault .noSuchUnit
  else
    let g := (s.core core).engine 0
    match g.running with
    | none => .next s
    | some r =>
      let b := g.barge r
      let n := bitsOf b.cmd.word 5 0
      let bs := (s.core core).basin n
      if !b.needsSlot then .next s
      else if !bs.enabled then .next (s.post [.bargeUnit core 0])
      else if bs.free = 0 then .next s
      else
        let b := { b with basinClaim := some bs.claim, clk := max b.clk (SMap.get 0 s.micro.stBasin (basinKey core n)),
                          cmd := { b.cmd with td := setBits128 b.cmd.td 55 0 (bs.slotAddr bs.claim).toNat } }
        .next (((s.setBasin core n bs.claimOne.norm).setBarge core 0 r b).post [.bargeUnit core 0])

/-! ### Parking (R97) -/

/-- A running barge parks at unit `i`; its record goes to the issuing core's supervisor queue, and, where its issuer no longer
exists, to the fault queue of its RCB's fault domain (R97, R341). The record's trap pc is that of the chain that issued the barge (R234;
DEDUCED, log 64). -/
def parkBarge (s : State) (k e r : Nat) (b : Barge) (i cause addr : Nat) : State :=
  let b := { b with st := .parked, cursor := i, cause := BitVec.ofNat 8 cause, faultAddr := addr56 addr, watchHit := none }
  let g := { (((s.core k).engine e).setBarge r b) with running := none }
  let s := s.setEngine k e g
  let alive := s.threadExists b.tid
  let ctx := match s.residentTid b.tid with
    | some t => t.ctx
    | none => b.ctx
  let rcd : SqRec := ⟨sqWord0 cause 5 ctx (bargeId k e r) true alive (threadId b.issuerCore b.slot), b.pc, addr56 addr, BitVec.ofNat 64 (i % 2 ^ 24)⟩
  let s := s.traceAt b.issuerCore b.slot 4 0 (BitVec.ofNat 64 (cause % 256 + i % 2 ^ 24 * 256))
  let s := pushSq s b.issuerCore (.barge e r) rcd
  let s := if alive then s else
    let g := s.reg b.rcb.toNat
    faultEvent s (.barge k e r) b.rcb.toNat g.faultDomain rcd
  (engineWake s k e).post [.bargeStart k e]

/-- A barge has processed its last unit (R95): it holds its record until its completion. -/
def finishBarge (s : State) (k e r : Nat) (b : Barge) : State :=
  let b := { b with st := .done, finished := true }
  let g := { (((s.core k).engine e).setBarge r b) with running := none }
  let s := s.setEngine k e g
  let s := if opcodeOf b.cmd.word = 0x40 then s.setBuf k (cmdFn b.cmd.word % 2) { (s.core k).buf (cmdFn b.cmd.word % 2) with st := .full } else s
  (engineWake s k e).post [.bargeComplete k e, .bargeStart k e]

/-- A unit waits: what its barge has read of its operands meanwhile is kept, and lets go on the stores of its thread that waited for that (R98,
R101). -/
def waitUnit (s : State) (k e r : Nat) (old b : Barge) : State :=
  let s := s.setBarge k e r b
  if b.lines.length = old.lines.length then s else engineWake s k e

/-- One unit of the running barge (R96, R97); `metered`: the weir lets it pass (R366). -/
def runUnit (s : State) (k e : Nat) (metered : Bool) : State :=
  let g := (s.core k).engine e
  match g.running with
  | none => s
  | some r =>
    let b := g.barge r
    match nextUnit b.cmd b.cursor with
    | none => finishBarge s k e r b
    | some i =>
      match b.watchHit with
      | some blk => parkBarge s k e r b i 0x21 blk.toNat
      | none =>
        if b.needsSlot then
          if ((s.core k).basin (bitsOf b.cmd.word 5 0)).enabled then s else parkBarge s k e r b i 0x1B 0
        else match processUnit s k e { b with cursor := i } i (metered || b.paid) with
          | .error (.fault c a s) => parkBarge s k e r { b with cursor := i } i c a
          | .error (.wait b' s) => waitUnit s k e r b { b' with cursor := i, watchHit := none, paid := metered || b.paid }
          | .ok (b, s) =>
            let b := { b with cursor := i + 1, asked := false, paid := false }
            if (nextUnit b.cmd (i + 1)).isNone then finishBarge s k e r b
            else (engineWake (s.setBarge k e r b) k e).post [.bargeUnit k e]

/-- BARGE_UNIT. -/
def execBargeUnit (core e : Nat) (s : State) : Result :=
  if !coreExists core || decide (e ≥ 3) then .fault .noSuchUnit else .next (runUnit s core e false)

/-! ### Completion (R95) -/

/-- The earliest barge of an engine whose record is held. -/
def Engine.earliest (g : Engine) : Option (Nat × Barge) :=
  (g.recs.filter (fun p => decide (p.2.st ≠ .free))).foldl (fun m p => match m with
    | none => some p
    | some q => if p.2.seq < q.2.seq then some p else m) none

/-- The basin slot a barge holds is committed, or withdrawn when it is cancelled: no consumer is woken for it, and a producer only if a slot is
free for it (R191). -/
def settleSlot (s : State) (k : Nat) (b : Barge) (cancelled : Bool) : State :=
  match b.basinClaim with
  | none => s
  | some n =>
    let i := bitsOf b.cmd.word 5 0
    if cancelled then
      let bs := (s.core k).basin i
      let bs' := ({ bs with withdrawn := bs.withdrawn ++ [n] }).norm
      let s := s.setBasin k i bs'
      if bs.free < bs'.free then basinFreed s k i else s
    else basinCommit s k i b.doneClk

/-- Complete the record `r`: flags, barrier, record freed (R95, R180, R61). Its barrier and its engine take a clock no lower than any member of this
barge and of those completed before it, which are joined with it (R262, R285, R300). -/
def completeBarge (s : State) (k e r : Nat) (b : Barge) : State :=
  let cancelled := decide (b.st = .cancelled)
  let b := { b with doneClk := max ((s.core k).engine e).clk (max b.clk b.doneClk) }
  let s := mergeFlags s b.tid b.issuerCore b.flags
  let s :=
    if cancelled then bargeSignal s b .cancel
    else if opcodeOf b.cmd.word = 0x58 ∨ opcodeOf b.cmd.word = 0x59 then s
    else if byteCounter (opcodeOf b.cmd.word) then bargeSignal s b (.landed b.lastBytes)
    else bargeSignal s b .arrive
  let s := settleSlot s k b cancelled
  let s := if cancelled && decide (opcodeOf b.cmd.word = 0x40) then
      s.setBuf k (cmdFn b.cmd.word % 2) { (s.core k).buf (cmdFn b.cmd.word % 2) with st := .cut } else s
  let s := s.setEngine k e { ((s.core k).engine e).setBarge r {} with clk := b.doneClk }
  let s := s.addBarges b.rcb.toNat false
  let s := s.traceAt b.issuerCore b.slot 3 0 (BitVec.ofNat 64 (bargeId k e r + (if cancelled then 2 ^ 63 else 0)))
  let s := pulse s k (e + 1) 0 b.doneClk
  engineWake s k e

/-- BARGE_COMPLETE: the earliest barge of the engine completes if it is done or cancelled; the next one is tested again. -/
def execBargeComplete (core e : Nat) (s : State) : Result :=
  if !coreExists core || decide (e ≥ 3) then .fault .noSuchUnit
  else match ((s.core core).engine e).earliest with
    | none => .next s
    | some (r, b) =>
      if b.st = .done ∨ b.st = .cancelled then .next ((completeBarge s core e r b).post [.bargeComplete core e, .bargeStart core e])
      else .next s

/-! ### Engine control (R228) -/

def BState.code : BState → Nat
  | .free => 0 | .queued => 1 | .running => 2 | .parked => 3 | .done => 4 | .cancelled => 5

/-- A word of a record (R93, R228); a free record reads as zeros. -/
def bargeWord (k e r : Nat) (b : Barge) (w : Nat) : Word :=
  let half (d : BitVec 128) (hi : Nat) : Word := (d >>> (64 * hi)).setWidth 64
  if b.st = .free then 0
  else if w = 0 then BitVec.ofNat 64 (b.cause.toNat * 2 ^ 56 + b.cursor % 2 ^ 24 * 2 ^ 32 + threadId b.issuerCore b.slot * 2 ^ 20
    + b.st.code * 2 ^ 17 + bargeId k e r)
  else if w = 1 then b.faultAddr
  else if w = 2 then b.rcb.setWidth 64
  else if w = 3 then b.cmd.word.setWidth 64
  else if w < 6 then half b.cmd.td (w - 4)
  else if w < 8 then half b.cmd.ta (w - 6)
  else if w < 10 then half b.cmd.tb (w - 8)
  else if w = 10 then b.cmd.handle.setWidth 64
  else if w = 11 then
    (if opcodeOf b.cmd.word = 0x38 then BitVec.ofNat 64 (bitsOf b.cmd.word 6 0)
     else if opcodeOf b.cmd.word = 0x42 then b.stream.addr else 0)
  else b.flags.setWidth 64

/-- ECTL.rd (R228). -/
def execEctlRd (d a b : BitVec 5) (e : BitVec 2) (s : State) : Result :=
  let r := (s.S a).toNat
  let w := (s.S b).toNat
  .next (
    if r ≥ 8 then trap s 0x01 (s.S a)
    else if w ≥ 13 then trap s 0x01 (s.S b)
    else
      let g := (s.myCore.engine e.toNat).barge r
      if s.me.level = .u ∧ g.st ≠ .free ∧ g.tid ≠ s.me.tid then trap s 0x04 s.irWord
      else writeRetire s d (bargeWord s.cur.core e.toNat r g w))

/-- ECTL.res (R228, R97): the parked barge continues from its cursor, in issue order: its members from there follow ECTL.res and what it
had done before it parked, and read their operands afresh (R261). Its record shows queued until it starts; it takes no entry of the command queue,
whose two entries are for commands (R22, R92; DESIGN CHOICE, log 58). -/
def execEctlRes (a : BitVec 5) (e : BitVec 2) (s : State) : Result :=
  .next (atLeast .s s (fun s =>
    let r := (s.S a).toNat
    let k := s.cur.core
    let g := (s.core k).engine e.toNat
    if r ≥ 8 ∨ (g.barge r).st ≠ .parked then trap s 0x01 (s.S a)
    else
      let b := g.barge r
      let b := { b with st := .queued, cause := 0, faultAddr := 0, lines := [], asked := false, clk := max (max b.clk b.doneClk) (s.clkOf s.cur) }
      let g := { g.setBarge r b with resumed := g.resumed ++ [r] }
      retire ((s.setEngine k e.toNat g).post [.bargeStart k e.toNat])))

/-- ECTL.can (R228, R97): the parked barge is cancelled and completes under R95. -/
def execEctlCan (a : BitVec 5) (e : BitVec 2) (s : State) : Result :=
  .next (atLeast .s s (fun s =>
    let r := (s.S a).toNat
    let k := s.cur.core
    let g := (s.core k).engine e.toNat
    if r ≥ 8 ∨ (g.barge r).st ≠ .parked then trap s 0x01 (s.S a)
    else
      let s := s.setEngine k e.toNat (g.setBarge r { g.barge r with st := .cancelled, finished := true })
      retire ((engineWake s k e.toNat).post [.bargeComplete k e.toNat, .bargeStart k e.toNat])))

/-- The engine status word (R228). -/
def statWord (g : Engine) : Word :=
  BitVec.ofNat 64 (g.queue.length % 4 * 2 ^ 28 + (match g.running with
    | some r => 2 ^ 27 + r % 8 * 2 ^ 24
    | none => 0) + (List.range 8).foldl (fun v i => v + (g.barge i).st.code * 2 ^ (3 * i)) 0)

/-- The clock of an engine as ESTAT reads it: no lower than any member of its barges that are freed, and of those that are parked (R285). -/
def Engine.statClk (g : Engine) : Nat := g.recs.foldl (fun c p => if p.2.st = .parked then max c p.2.doneClk else c) g.clk

/-- ESTAT (R228): the thread's later members follow those of the freed and parked barges (R285). -/
def execEstat (d : BitVec 5) (e : BitVec 2) (s : State) : Result :=
  let g := s.myCore.engine e.toNat
  .next (writeRetire (s.setClk s.cur (max (s.clkOf s.cur) g.statClk)) d (statWord g))

/-! ### SEND and the hub (R171, R172, R209) -/

/-- A command word that R171 allows on a line for engine `e` (3: a hub). -/
def sendWordOk (e : Nat) (w : BitVec 32) : Bool :=
  let op := opcodeOf w
  let u := cmdUses op (cmdFn w)
  let row := op / 8
  (match decode w with | .ok _ => true | .error _ => false)
    && (if e = 0 then decide (row = 7) else if e = 1 then decide (row = 8) else if e = 2 then decide (row = 9) || decide (row = 0xA)
        else decide (op = 0x38) || (decide (op = 0x3C) && decide (cmdFn w / 64 = 1)))
    && decide (cmdTd w = 0) && decide (cmdTa w = if u.2.1 then 1 else 0) && decide (cmdTb w = if u.2.2 then 2 else 0)
    && decide (bitsOf w 12 9 = 0)

/-- A command line (R171): command, handle, descriptors; `none` where a reserved bit of the line or of its handle is set, for which the refusal is that
of R172 for a command word (DESIGN CHOICE, log 80). -/
def lineCommand (k : Nat) (d : LineData) : Option Command :=
  let w0 := lineWord d 0
  let desc (o : Nat) : BitVec 128 := (d >>> (8 * o)).setWidth 128
  let word : BitVec 32 := w0.setWidth 32
  let h : BitVec 32 := (w0 >>> 32).setWidth 32
  let u := cmdUses (opcodeOf word) (cmdFn word)
  if lineWord d 8 ≠ 0 ∨ bitsOf h 31 20 ≠ 0 then none
  else some { word := word, handle := h,
              td := if u.1 then resolveDesc k (desc 0x10) else 0,
              ta := if u.2.1 then resolveDesc k (desc 0x20) else 0,
              tb := if u.2.2 then resolveDesc k (desc 0x30) else 0 }

/-- The command a message carries. -/
def sendCmd (m : SendMsg) : Command := { word := m.command, handle := m.handle, td := m.d0, ta := m.d1, tb := m.d2 }

/-- SEND (R172): the command line is read as a 64-byte load; its word is held against R171 and the id against its range; then the message goes
to the target. -/
def execSend (d a b : BitVec 5) (e : BitVec 2) (s : State) : Result :=
  let n := s.S a
  let ea := s.S b
  let lim := if e = 3 then 64 else 256
  .next (match checkMe s ea { r := true, size := 64 } with
    | (.error c, s) => trap s c ea
    | (.ok t, s) =>
      withLine s t ea.toNat (fun l s =>
        match lineCommand s.cur.core l.1 with
        | none => trap s 0x01 ea
        | some c =>
          if !sendWordOk e.toNat c.word then trap s 0x01 ea
          else if n.toNat ≥ lim then trap s 0x01 n
          else
            let m : SendMsg := ⟨e.toNat, n.toNat, c.word, c.handle, c.td, c.ta, c.tb, s.cur, d, ea⟩
            (leave s 9 n.toNat .message).post [if e = 3 then .hubCommand m else .sendCommandReceipt m]))

/-- The target's engine checks and accepts a command sent to it, or its sender waits, the message in the target hub's buffer (R172, R352); the barge's issuer is the
sender. -/
def receiveCommand (s : State) (k e : Nat) (m : SendMsg) (answer : Nat → Word) (again : Instr) : State :=
  match checkCmd s k (sendCmd m) with
  | some (c, _) => refuse s m.who (c, m.addr)
  | none =>
    if (s.core k).canAccept e then
      let (r, s) := acceptBarge s k e (sendCmd m) (issuerOf s m.who false)
      accept (asThread s m.who (fun s => s.setS m.d (answer r))) m.who
    else { s with hubBuf := SMap.set [] s.hubBuf (clusterOf k) (SMap.get [] s.hubBuf (clusterOf k) ++ [again]) }

/-- SEND_COMMAND_RECEIPT (R172). -/
def execSendCommandReceipt (m : SendMsg) (s : State) : Result :=
  if !coreExists m.target || decide (m.e ≥ 3) || !ctxExists m.who.core m.who.ctx then .fault .noSuchUnit
  else if !waitsFor s m.who then .next s
  else .next (receiveCommand s m.target m.e m (fun r => BitVec.ofNat 64 (bargeId m.target m.e r)) (.sendCommandReceipt m))

/-- The hub brings every line of a BPREF toward its cluster's L2 slice; lines it cannot fetch are skipped (R209, R210). `.error`: one is not ready
at its home, and the hub goes on when it is. -/
def hubPrefetch (cl : Nat) (w : Who) (t : Tile) : List Nat → State → Except State State
  | [], s => .ok s
  | i :: l, s =>
    match check s w (t.lineAddr i) { r := true } with
    | (.error _, s) => hubPrefetch cl w t l s
    | (.ok g, s) =>
      match prefetchLine s w (4 * cl) g with
      | .error s => .error s
      | .ok s => hubPrefetch cl w t l s

/-- HUB_COMMAND (R209): a BCOPY goes to the copy engine of the core whose window holds td; a BPREF is executed by the hub, which
makes one arrival at the handle. -/
def execHubCommand (m : SendMsg) (s : State) : Result :=
  if m.target ≥ 64 ∨ ctxExists m.who.core m.who.ctx = false then .fault .noSuchUnit
  else if !waitsFor s m.who then .next s
  else if opcodeOf m.command = 0x38 then
    let a := bitsOf m.d0 55 0
    let k := a / 0x100000 % 256
    if inLs a && decide (clusterOf k = m.target) then .next (receiveCommand s k 0 m (fun _ => 0) (.hubCommand m))
    else .next (refuse s m.who (0x01, m.addr))
  else
    match checkCmd s (4 * m.target) (sendCmd m) with
    | some (c, _) => .next (refuse s m.who (c, m.addr))
    | none =>
      let i := issuerOf s m.who false
      let w : Who := ⟨4 * m.target, i.core, i.slot, i.level, i.part, i.clk, leaseOf i.lease, none, some (.hubCommand m), false⟩
      let t := Tile.ofBits m.d0
      match hubPrefetch m.target w t ((List.range t.lines).filter t.lineLive) s with
      | .error s => .next s
      | .ok s =>
        let s := barSignal s m.handle .arrive i.part (decide (i.level = .u)) i.clk
        .next (accept (asThread s m.who (fun s => s.setS m.d 0)) m.who)

end Sys2Proof.Machine
end

