-- ==== Sys2Proof/Machine/Mesh.lean ====
section
/-! DEFINITION. The mesh of a C-die: the channel and the path of every message, routes, the arbitration of a router output, and multicasts
(R348 to R356). -/

namespace Sys2Proof.Machine

/-- The class of a virtual channel: 0 control, 1 urgent, 2 bulk (R349, R353). -/
def vcClass (vc : Nat) : Nat := if vc = 4 then 0 else if vc = 1 ∨ vc = 3 then 2 else 1

def classWeight (c : Nat) : Nat := if c = 0 then 8 else if c = 1 then 4 else 1

/-! ### Channels and paths (R349, R350) -/

/-- An end of a packet's path: a cluster's hub, a home slice, the S-die, or the host, whose TLPs reach the device in the order sent (R382). -/
inductive Node where
  | cluster (c : Nat)
  | slice (k : Nat)
  | sdie
  | host
  deriving DecidableEq, Repr

/-- A channel from one source to one destination. -/
structure Lane where
  vc : Nat
  src : Node
  dst : Node
  deriving DecidableEq, Repr

/-- The home of a location: a slice, or the cluster whose core holds the local store. -/
def homeNode (s : State) (l : Loc) : Node :=
  match l with
  | .main pa => .slice (s.micro.homeOf pa)
  | .ls a => .cluster (clusterOf (a / 0x100000 % 256))
  | _ => .sdie

def lineNode (s : State) (line : Nat) : Node := .slice (s.micro.homeOf (64 * line))
def queueNode (s : State) (q : Nat) : Node := .slice (s.micro.homeOf (s.queueAddr q))
def coreNode (k : Nat) : Node := if k < 256 then .cluster (clusterOf k) else .sdie

/-- Where a party that holds translations or table copies stands. -/
def partyNode : Party → Node
  | .core k => coreNode k
  | .hub c => .cluster c
  | .dispenser c => .cluster c
  | .sdie => .sdie
  | .regionRecord k _ => .slice k

/-- The home of a region's record: that of its block's first granule (R290); a region of a peer's memory lies beyond the S-die. -/
def regionNode (s : State) (r : Nat) : Node :=
  match s.regions.find? (fun p => decide (p.1 = r)) with
  | some p => .slice (s.micro.homeOf p.2.base)
  | none => .sdie

/-- The channel of a message, by its kind, and its ends (R304, R349, R382). The answers to a thread, of which it waits for one at a time, and what
does not cross the mesh have none (log 36). -/
def laneOf (s : State) (i : Instr) : Option Lane :=
  match i with
  | .homeAtomic q => some ⟨0, coreNode q.who.core, homeNode s q.t.loc⟩
  | .homeJoin t r _ => some ⟨0, coreNode r.core, homeNode s t.loc⟩
  | .homeEnqueue q => some ⟨if q.call.isSome then 5 else 0, coreNode q.who.core, queueNode s q.queue⟩
  | .homeDequeue q => some ⟨0, coreNode q.who.core, queueNode s q.queue⟩
  | .dispenserRequest c q => some ⟨0, .cluster c, queueNode s q⟩
  | .regionRpub r who _ => some ⟨0, coreNode who.core, regionNode s r⟩
  | .boundedRequest k i =>
    match (s.ctxOf ⟨k, i⟩).pend with
    | .bounded _ _ _ _ t _ => some ⟨0, coreNode k, homeNode s t.loc⟩
    | _ => none
  | .homeGets q => some ⟨0, coreNode q.core, lineNode s q.line⟩
  | .homeGetx q => some ⟨0, coreNode q.core, lineNode s q.line⟩
  | .homeUpg q => some ⟨0, coreNode q.core, lineNode s q.line⟩
  | .homeRenew q => some ⟨0, coreNode q.core, lineNode s q.line⟩
  | .homeWb l k _ _ => some ⟨0, coreNode k, lineNode s l⟩
  | .homeRecall k q => some ⟨1, coreNode q.core, .slice k⟩
  | .agentData k l _ _ => some ⟨2, lineNode s l, coreNode k⟩
  | .agentAckx k l _ => some ⟨2, lineNode s l, coreNode k⟩
  | .agentRnack k l _ => some ⟨2, lineNode s l, coreNode k⟩
  | .agentWback k l => some ⟨2, lineNode s l, coreNode k⟩
  | .agentRetry q => some ⟨2, lineNode s q.line, coreNode q.core⟩
  | .homeGack l k => some ⟨4, coreNode k, lineNode s l⟩
  | .homeFdata l k _ _ => some ⟨4, coreNode k, lineNode s l⟩
  | .homeGone l k => some ⟨4, coreNode k, lineNode s l⟩
  | .agentFwd k l _ => some ⟨4, lineNode s l, coreNode k⟩
  | .evictionNotice k l _ => some ⟨4, coreNode k, lineNode s l⟩
  | .invReceive p l _ _ => some ⟨4, lineNode s l, partyNode p⟩
  | .iackReceive ack => some ⟨4, partyNode ack.party, coreNode ack.writer.core⟩
  | .dispenserBind c _ => some ⟨5, .cluster c, .cluster c⟩
  | .roundMulticast (.slice k) r _ => some ⟨4, regionNode s r, .slice k⟩
  | .roundMulticast (.cluster c) r _ => some ⟨4, regionNode s r, .cluster c⟩
  | .hubCommand m => some ⟨5, coreNode m.who.core, .cluster m.target⟩
  | .sendCommandReceipt m => some ⟨5, coreNode m.who.core, coreNode m.target⟩
  | .replyDelivery v _ r =>
    match routeOf v with
    | some x => some ⟨5, coreNode r.core, coreNode x.1.core⟩
    | none => none
  | .remoteBarrierOperation m => some ⟨5, coreNode m.who.core, coreNode m.core⟩
  | .bar2Read _ _ => some ⟨6, .host, .sdie⟩
  | .bar2Write _ _ => some ⟨6, .host, .sdie⟩
  | .bar0Write _ _ => some ⟨6, .host, .sdie⟩
  | .hcRingtail _ => some ⟨6, .host, .sdie⟩
  | .hcRingctl _ => some ⟨6, .host, .sdie⟩
  | _ => none

/-- The partition of what a core's L1 asks for or gives back: that of the thread that waits for the line, else that of the core's slot 15 (R303,
R353; DESIGN CHOICE, log 36). -/
def linePart (s : State) (core line : Nat) : Nat :=
  let c := s.core core
  match c.ctxs.find? (fun p => p.2.miss.any (fun m => decide (m.1 = line))) with
  | some p => c.partOf p.2.slot
  | none => c.partOf 15

/-- The partition of the records of a work queue: that of an RCB that takes them; a core's private queue has that of its slot 15 (R331, R353;
DESIGN CHOICE, log 36). -/
def queuePart (s : State) (q : Nat) : Nat :=
  if q / 256 = 0xF then (s.core (q % 256)).partOf 15
  else match s.rcbs.find? (fun p => p.2.workQueueValid && decide (p.2.workQueue = q)) with
    | some p => p.2.part
    | none => 0

/-- The partition a packet belongs to: that of the thread it is sent for or answers; coherence control has none (R353). -/
def partOfMsg (s : State) (i : Instr) : Option Nat :=
  let of (r : ThreadRef) : Option Nat := some ((s.core r.core).partOf (s.ctxOf r).slot)
  let ask (q : CohReq) : Option Nat := match q.thread with
    | some r => of r
    | none => some (linePart s q.core q.line)
  match i with
  | .homeAtomic q => of q.who
  | .homeJoin _ r _ => of r
  | .homeEnqueue q => of q.who
  | .homeDequeue q => of q.who
  | .regionRpub _ r _ => of r
  | .boundedRequest k i => of ⟨k, i⟩
  | .hubCommand m => of m.who
  | .sendCommandReceipt m => of m.who
  | .replyDelivery _ _ r => of r
  | .remoteBarrierOperation m => of m.who
  | .homeGets q => ask q
  | .homeGetx q => ask q
  | .homeUpg q => ask q
  | .homeRenew q => ask q
  | .agentRetry q => ask q
  | .homeWb l k _ _ => some (linePart s k l)
  | .agentData k l _ _ => some (linePart s k l)
  | .agentAckx k l _ => some (linePart s k l)
  | .agentRnack k l _ => some (linePart s k l)
  | .agentWback k l => some (linePart s k l)
  | .homeRecall _ q => some ((s.core q.core).partOf 15)
  | .dispenserRequest _ q => some (queuePart s q)
  | .dispenserBind _ q => some (queuePart s q)
  | _ => none

/-- The line that a packet carries (R304, R348). -/
def lineOfMsg (i : Instr) : Option (LineData × Word) :=
  match i with
  | .agentData _ _ c _ => some (c.img.data, c.img.side)
  | .homeFdata _ _ d _ => some d
  | .homeWb _ _ c _ => some (c.data, c.side)
  | .homeEnqueue q => some (q.record, 0)
  | _ => none

/-! ### Routes (R351, R356) -/

/-- The output of router `pos` toward router `dst` of the die: along the row to its column, then along the column; 4 where it stands. North 0,
east 1, south 2, west 3, local 4, port 5. -/
def hop (pos dst : Nat) : Nat :=
  if pos % 4 < dst % 4 then 1 else if dst % 4 < pos % 4 then 3
  else if pos / 4 < dst / 4 then 2 else if dst / 4 < pos / 4 then 0
  else 4

/-- The part of a destination that leaves router `pos` by an output. M-dies 0 to 3 are reached in one dimension, over the edge ports of row 0,
column 3, row 3 and column 0, which stand where those routers have no neighbour: outputs north, east, south and west (DESIGN CHOICE, log
62). The S-die's port is that of position 0. -/
def leaving (pos : Nat) (d : FlitDest) (port : Nat) : Option FlitDest :=
  match d with
  | .routers m =>
    let sub : BitVec 16 := (List.range 16).foldl (fun b i => if m.getLsbD i && decide (hop pos i = port) then b ||| BitVec.ofNat 16 (2 ^ i) else b) 0
    if sub = 0 then none else some (.routers sub)
  | .mdie k => if port = k % 4 then some d else none
  | .sdie => if port = (if pos = 0 then 5 else hop pos 0) then some d else none

/-- What is left of a destination when a branch of it has gone. -/
def restOf (d sub : FlitDest) : Option FlitDest :=
  match d, sub with
  | .routers m, .routers x => if m &&& ~~~x = 0 then none else some (.routers (m &&& ~~~x))
  | _, _ => none

/-- The router that an output leads to, and the input it arrives at; none where it leaves the mesh. -/
def neighbour (pos port : Nat) : Option (Nat × Nat) :=
  if port = 0 ∧ 4 ≤ pos then some (pos - 4, 2)
  else if port = 1 ∧ pos % 4 < 3 then some (pos + 1, 3)
  else if port = 2 ∧ pos < 12 then some (pos + 4, 0)
  else if port = 3 ∧ 0 < pos % 4 then some (pos - 1, 1)
  else none

def fifoKey (die pos input vc : Nat) : Nat := ((16 * die + pos) * 6 + input) * 6 + vc

def Mesh.fifo (m : Mesh) (k : Nat) : List Flit := SMap.get [] m.fifos k

/-- The share of a partition in the mesh weight table (R354); an entry that is not delivered gives none (R36). -/
def State.meshShare (s : State) (p : Option Nat) : Nat :=
  match p with
  | none => 1
  | some p =>
    let w := s.physWord (s.qtable + 0xC0000 + 8 * (p % 16))
    if bitsOf w 63 4 ≠ 0 ∨ bitsOf w 3 0 = 0 ∨ s.delivered (.main (s.qtable + 0xC0000 + 8 * (p % 16))) = false then 1 else bitsOf w 3 0

/-- An eligible head: its input, channel and flit. -/
structure Head where
  input : Nat
  vc : Nat
  flit : Flit
  deriving DecidableEq, Repr

/-- The next router's queue has room (R353); beyond the mesh every packet is taken, its buffer having been reserved (R352). -/
def roomBeyond (m : Mesh) (die pos port vc : Nat) : Bool :=
  match neighbour pos port with
  | some (p, i) => decide ((m.fifo (fifoKey die p i vc)).length ≤ Config.meshBuffer)
  | none => true

/-- The heads of the input queues that leave by `port`, each with the branch that does, where there is room downstream (R353, R356). -/
def heads (m : Mesh) (die pos port : Nat) : List Head :=
  (List.range 6).flatMap (fun i => (List.range 6).filterMap (fun v =>
    match m.fifo (fifoKey die pos i v) with
    | f :: _ =>
      match leaving pos f.dest port with
      | some d => if roomBeyond m die pos port v then some ⟨i, v, { f with dest := d }⟩ else none
      | none => none
    | [] => none))

def MeshOut.ageOf (o : MeshOut) (h : Head) : Nat := SMap.get 0 o.age (6 * h.input + h.vc)

/-- The promoted head that goes first: the highest counter, then the lowest input (R355). -/
def promoted (o : MeshOut) (l : List Head) : Option Head :=
  (l.filter (fun h => decide (o.ageOf h ≥ 32))).foldl (fun b h => match b with
    | none => some h
    | some x => if o.ageOf x < o.ageOf h then some h else some x) none

/-- The class whose turn it is, with the grants it has left (R353). -/
def classTurn (l : List Head) : Nat → Nat → Nat → Option (Nat × Nat)
  | 0, _, _ => none
  | n + 1, c, credit =>
    if credit > 0 ∧ l.any (fun h => decide (vcClass h.vc = c)) = true then some (c, credit)
    else classTurn l n ((c + 1) % 3) (classWeight ((c + 1) % 3))

/-- The head a class grants: its heads in round-robin order of input, those of one input in order of channel, each up to its partition's share
(R353). -/
def classPick (o : MeshOut) (c : Nat) (l : List Head) : Option Head :=
  let l := l.filter (fun h => decide (vcClass h.vc = c))
  let t := SMap.get 0 o.turn c
  match l.find? (fun h => decide (t ≤ 6 * h.input + h.vc)) with
  | some h => some h
  | none => l.head?

/-- One grant at an output: the head taken, and the output after it. -/
def grantOne (s : State) (o : MeshOut) (l : List Head) : Option (Head × MeshOut) :=
  let ctlTurn := decide (o.cls = 0) && decide (o.credit > 0) && l.any (fun h => decide (vcClass h.vc = 0))
  match promoted o l with
  | some h => if ctlTurn && decide (vcClass h.vc ≠ 0) then classGrant else some (h, { o with age := SMap.set 0 o.age (6 * h.input + h.vc) 0 })
  | none => classGrant
where
  classGrant : Option (Head × MeshOut) :=
    match classTurn l 4 o.cls o.credit with
    | none => none
    | some (c, credit) =>
      match classPick o c l with
      | none => none
      | some h =>
        let here := 6 * h.input + h.vc
        let made := (if SMap.get 0 o.turn c = here then SMap.get 0 o.share c else 0) + 1
        let (turn, share) := if made ≥ s.meshShare h.flit.part then ((here + 1) % 36, 0) else (here, made)
        some (h, { o with cls := c, credit := credit - 1, turn := SMap.set 0 o.turn c turn, share := SMap.set 0 o.share c share,
                          age := SMap.set 0 o.age (6 * h.input + h.vc) 0 })

/-- A flit enters the queue of its channel at a router's input. -/
def Mesh.enter (m : Mesh) (die pos input : Nat) (f : Flit) : Mesh :=
  let k := fifoKey die pos input f.vc
  { m with fifos := SMap.set [] m.fifos k (m.fifo k ++ [f]) }

/-- A flit has left the mesh: its messages for that place have arrived, and what goes on to another C-die enters that die's mesh by the S-die's
link (R15, R348). -/
def deliver (s : State) (pos port : Nat) (f : Flit) : State :=
  let place := if port = 4 then pos else 16
  let s := { s with due := s.due ++ (f.msgs.filter (fun m => decide (m.1 = place))).map (·.2) }
  match port, f.onward with
  | 5, some (die, mask) =>
    let on : List (Nat × Instr) := (f.msgs.filter (fun m => decide (m.1 ≥ 32))).map (fun m => (m.1 - 32, m.2))
    { s with mesh := s.mesh.enter (die % 4) 0 5 { f with dest := .routers mask, onward := none, msgs := on } }
  | _, _ => s

/-- Move the granted branch of a flit to the next router's input, or out of the mesh; its other branches stay at the head (R356). -/
def moveFlit (s : State) (die pos port : Nat) (h : Head) : State :=
  let m := s.mesh
  let k := fifoKey die pos h.input h.vc
  let q := m.fifo k
  let left : List Flit := match q with
    | f :: t =>
      match restOf f.dest h.flit.dest with
      | some d => { f with dest := d } :: t
      | none => t
    | [] => []
  let m := { m with fifos := SMap.set [] m.fifos k left }
  match neighbour pos port with
  | some (p, i) => { s with mesh := m.enter die p i h.flit }
  | none => deliver { s with mesh := m } pos port h.flit

/-- Up to `n` grants of one cycle; the heads that stood at its start and were not granted. -/
def grants (s : State) (die pos port : Nat) : Nat → MeshOut → List Head → State × MeshOut × List Head
  | 0, o, left => (s, o, left)
  | n + 1, o, left =>
    match grantOne s o (heads s.mesh die pos port) with
    | none => (s, o, left)
    | some (h, o) => grants (moveFlit s die pos port h) die pos port n o (left.filter (fun x => decide (x ≠ h)))

/-- One cycle of a router output (R353, R355). -/
def arbitrate (s : State) (die pos port : Nat) : State :=
  let key := (16 * die + pos) * 6 + port
  let o := SMap.get {} s.mesh.outs key
  let (s, o, left) := grants s die pos port 4 o (heads s.mesh die pos port)
  let age := left.foldl (fun a h => SMap.set 0 a (6 * h.input + h.vc) (min 255 (SMap.get 0 a (6 * h.input + h.vc) + 1))) o.age
  { s with mesh := { s.mesh with outs := SMap.set {} s.mesh.outs key { o with age := age } } }

/-- MESH_ARBITRATION (R353). -/
def execMeshArbitration (die pos port : Nat) (s : State) : Result :=
  if die ≥ 4 ∨ pos ≥ 16 ∨ port ≥ 6 then .fault .noSuchUnit else .next (arbitrate s die pos port)

/-- Every output of every router that has a head waiting makes its grants of a cycle. -/
def meshCycle (s : State) : State :=
  ((s.mesh.fifos.map (fun p => p.1 / 36)).eraseDups).foldl (fun s r => (List.range 6).foldl (fun s port =>
    if (heads s.mesh (r / 16) (r % 16) port).isEmpty then s else arbitrate s (r / 16) (r % 16) port) s) s

/-! ### Entering the mesh (R348, R349) -/

/-- Where a packet enters a die's mesh on the way from one node to another, and its destination there: die, position, input, destination, the
place of its message, and where it goes on. None where it crosses no C-die's mesh. A packet between clusters of different C-dies goes by way of the
S-die's links, which R15 does not say (DESIGN CHOICE, log 74). -/
def entryOf (src dst : Node) : Option (Nat × Nat × Nat × FlitDest × Nat × Option (Nat × BitVec 16)) :=
  let bit (c : Nat) : BitVec 16 := BitVec.ofNat 16 (2 ^ (c % 16))
  match src, dst with
  | .cluster a, .cluster b =>
    if a / 16 = b / 16 then some (a / 16, a % 16, 4, .routers (bit b), b % 16, none)
    else some (a / 16, a % 16, 4, .sdie, 32 + b % 16, some (b / 16, bit b))
  | .cluster a, .slice k => some (a / 16, a % 16, 4, .mdie (k / 8), 16, none)
  | .cluster a, .sdie => some (a / 16, a % 16, 4, .sdie, 16, none)
  | .slice k, .cluster b =>
    let m := k / 8 % 4
    let edge := if m = 0 then b % 4 else if m = 1 then b % 16 / 4 * 4 + 3 else if m = 2 then 12 + b % 4 else b % 16 / 4 * 4
    some (b / 16, edge, m, .routers (bit b), b % 16, none)
  | .sdie, .cluster b => some (b / 16, 0, 5, .routers (bit b), b % 16, none)
  | _, _ => none

/-- A message on its way is put on the mesh as a flit of its channel. -/
def flitOf (s : State) (i : Instr) : Option (Nat × Nat × Nat × Flit) :=
  match laneOf s i with
  | none => none
  | some p =>
    match entryOf p.src p.dst with
    | none => none
    | some (die, pos, input, dest, place, onward) =>
      some (die, pos, input, { vc := p.vc, part := partOfMsg s i, dest := dest, line := lineOfMsg i, msgs := [(place, i)], onward := onward })

/-- The messages the mesh holds. -/
def Mesh.messages (m : Mesh) : List Instr := m.fifos.flatMap (fun p => p.2.flatMap (fun f => f.msgs.map (·.2)))

/-- An earlier message of the same channel, source and destination is still in the mesh (R350). -/
def heldBack (s : State) (i : Instr) : Bool :=
  match laneOf s i with
  | none => false
  | some p => s.mesh.messages.any (fun x => decide (laneOf s x = some p))

/-- The place in the agenda of the first message of the path of the message at `n` (R304, R350). -/
def firstOfLane (s : State) (n : Nat) (i : Instr) : Nat :=
  match laneOf s i with
  | none => n
  | some p => ((List.range n).find? (fun j => (s.agenda[j]?).any (fun x => decide (laneOf s x = some p)))).getD n

/-- Messages that one multicast packet carries: a round's multicasts and a round's INVs to hubs (R356). -/
def oneMulticast (i x : Instr) : Bool :=
  match i, x with
  | .roundMulticast (.cluster _) r v, .roundMulticast (.cluster _) r' v' => decide (r = r') && decide (v = v')
  | .invReceive (.hub _) l n w, .invReceive (.hub _) l' n' w' => decide (l = l') && decide (n = n') && decide (w = w')
  | _, _ => false

/-- A packet and the others of its multicast that enter the mesh where it does, each of them the first of its own path (R350): the flit with all of their destinations, and the agenda
without them (R356). -/
def multicast (s : State) (i : Instr) (at_ : Nat × Nat × Nat) (f : Flit) : Flit × List Instr :=
  s.agenda.zipIdx.foldl (fun a p =>
    let x := p.1
    if x ≠ i ∧ oneMulticast i x = true ∧ firstOfLane s p.2 x = p.2 then
      match flitOf s x, a.1.dest with
      | some (die, pos, input, g), .routers m =>
        match g.dest with
        | .routers m' =>
          if (die, pos, input) = at_ ∧ g.onward = none ∧ heldBack s x = false then
            ({ a.1 with dest := .routers (m ||| m'), msgs := a.1.msgs ++ g.msgs }, a.2.erase x)
          else a
        | _ => a
      | _, _ => a
    else a) (f, s.agenda.erase i)

/-- The first message of a path goes onto the mesh. -/
def putOnMesh (s : State) (n : Nat) : State :=
  match s.agenda[n % (s.agenda.length + 1)]? with
  | none => s
  | some x =>
    let j := firstOfLane s (n % (s.agenda.length + 1)) x
    match s.agenda[j]? with
    | none => s
    | some i =>
      match flitOf s i with
      | none => s
      | some (die, pos, input, f) =>
        if (s.mesh.fifo (fifoKey die pos input f.vc)).length ≤ Config.meshBuffer then
          let a := multicast s i (die, pos, input) f
          { s with agenda := a.2, mesh := s.mesh.enter die pos input a.1 }
        else s

end Sys2Proof.Machine
end

