-- ==== Sys2Proof/Machine/Coherence.lean ====
section
/-! DEFINITION. The messages of the coherence protocol at homes and agents (R303 to R308), block recalls (R305, R309, R325),
the translation directory's reads and notices (R315 to R321), and what the device does of its own accord: evictions, drops,
the package minimum, re-homing, peer L2 slices (R302, R303, R315, R323, R324). -/

namespace Sys2Proof.Machine

/-! ### The home's side (R305) -/

/-- The party of a request. -/
def cohWho (q : CohReq) : Who := ⟨q.core, q.core, 15, .m, 0, q.clk, q.lease, none, none, false⟩

/-- The party of a request for a copy, as a watch of its line reports and traps it: the thread whose scalar load waits for the line (R395). -/
def missWho (s : State) (q : CohReq) : Who :=
  { cohWho q with thread := q.thread.filter (fun r => decide ((s.ctxOf r).miss = some (q.line, false))) }

/-- The line as it stands. -/
def State.lineNow (s : State) (line : Nat) : LineData × Word := s.lineAt (lineLoc line)

/-- The region whose tag a line that a core has asked for carries (R293, R299). -/
def State.regionFor (s : State) (core line : Nat) : Option Nat :=
  if foreignLine line then (s.micro.copyAt core line).bind (·.region) else s.lineRegion line

/-- The image a home sends to a core, under a lease (R304). -/
def homeImage (s : State) (core line : Nat) (h : HomeLine) (rts level : Nat) : Stamped :=
  let l := s.lineNow line
  ⟨l.1, l.2, h.wts, rts, s.viewOf (s.regionFor core line) (64 * line), level⟩

/-- A copy that the LLC slices keep of a line which a peer has granted, and that covers a request for a lease (R299, R301, R303). -/
def llcCopy (s : State) (q : CohReq) (c : Nat) : Option Copy :=
  if foreignLine q.line = true ∧ (q.kind = .gets ∨ q.kind = .renew) then
    match s.micro.l2At llcPlace q.line with
    | some o => if s.micro.covers c o.img then some o else none
    | none => none
  else none

/-- Serve one request at a line that is ready (R301, R305, R306, R394). A watch tests the reads; a store to a watched line is made at the home, and
tested there. No round of R319 runs for a grant, so its ack count is 0: the stores that
run one are made at the home. -/
def serveHome (s : State) (q : CohReq) : State :=
  let c := max q.clk s.micro.minClk
  let h := s.micro.homeLine q.line
  let watched := s.micro.watched (64 * q.line)
  let lv := s.micro.homeLevel q.line
  let s := if q.kind = .gets ∨ q.kind = .renew then watchReport s (missWho s q) (.main (64 * q.line)) true false else s
  let put (s : State) (h : HomeLine) : State :=
    { s with micro := ((s.micro.setHome q.line h).raiseSlice q.line c).llcFill q.line q.cls }
  let share (s : State) (data : Bool) : State :=
    let rts := if watched then max h.rts (max h.wts c) else max h.rts (max h.wts (c + q.lease))
    let s := put s { h with st := .c, rts := max rts (s.roundStamp (s.regionFor q.core q.line)) }
    s.post [if data then .agentData q.core q.line ⟨homeImage s q.core q.line h rts lv, 0⟩ false else .agentRnack q.core q.line ⟨rts, 0⟩]
  let grant (s : State) (data : Bool) : State :=
    let s := put s { h with st := .g, owner := q.core }
    s.post [if data then .agentData q.core q.line ⟨homeImage s q.core q.line h h.rts lv, 0⟩ true else .agentAckx q.core q.line ⟨h.rts, 0⟩]
  match llcCopy s q c with
  | some o => s.post [.agentData q.core q.line ⟨{ o.img with rts := min o.img.rts (max o.img.wts (c + q.lease)), level := 3 }, 0⟩ false]
  | none =>
    match q.kind with
    | .gets => share s true
    | .renew => share s (decide (h.wts ≠ q.wts))
    | .getx => if watched then share s true else grant s true
    | .upg => if watched then share s true else grant s (decide (h.wts ≠ q.wts))

def fwdKind (k : CohKind) : FwdKind :=
  match k with
  | .gets => .gets
  | .renew => .gets
  | .getx => .getx
  | .upg => .getx

/-- The message that carries a request. -/
def cohMsg (q : CohReq) : Instr :=
  match q.kind with
  | .gets => .homeGets q
  | .getx => .homeGetx q
  | .upg => .homeUpg q
  | .renew => .homeRenew q

/-- A request that stands at a home: an UPG that finds the line owned, by an agent or by the owner of its block, is served as a GETX when its
turn comes (R306, R309). -/
def atHomeAs (m : Micro) (q : CohReq) : CohReq :=
  { q with kind := if q.kind = .upg ∧ (m.ownerOf q.line q.core).isSome = true then .getx else q.kind, stood := true }

/-- A request arrives at the home of its line, or goes on there (R305, R306); while the granule moves the answer is RETRY (R323). -/
def homeRequest (s : State) (q : CohReq) : State :=
  if s.micro.lineMoving q.line then s.post [.agentRetry { q with stood := false }]
  else
    let q' := atHomeAs s.micro q
    match homeGate s q.line q.core (fwdKind q.kind) (cohMsg q') with
    | .error s => s
    | .ok s => serveHome s q

/-- A line is stable again: the requests that stand there go on, in order of arrival (R305). -/
def nextWaiting (s : State) (line : Nat) : State :=
  let h := s.micro.homeLine line
  { s with micro := s.micro.setHome line { h with waiting := [] }, due := s.due ++ h.waiting }

/-- HOME_GETS (R305). -/
def execHomeGets (q : CohReq) (s : State) : Result :=
  if !coreExists q.core then .fault .noSuchUnit else .next (homeRequest s { q with kind := .gets })

/-- HOME_GETX (R305). -/
def execHomeGetx (q : CohReq) (s : State) : Result :=
  if !coreExists q.core then .fault .noSuchUnit else .next (homeRequest s { q with kind := .getx })

/-- UPGs of lower core ids to the same line that are on their way, in order, each the first of its channel (R304, R306). -/
def rivalUpgs (s : State) (q : CohReq) : List CohReq :=
  let first (n : Nat) (i : Instr) : Bool := decide (firstOfLane s n i = n) && !heldBack s i
  (List.range q.core).filterMap (fun k => ((List.range s.agenda.length).zip s.agenda).findSome? (fun x => match x.2 with
    | .homeUpg p => if p.core = k ∧ p.line = q.line ∧ p.stood = false ∧ first x.1 x.2 = true then some p else none
    | _ => none))

/-- HOME_UPG (R305, R306): of two that arrive in one cycle, which the device decides (log 46), the one from the lower core id arrives first; one
that stood at the home has arrived before. -/
def execHomeUpg (q : CohReq) (s : State) : Result :=
  if !coreExists q.core then .fault .noSuchUnit
  else
    let first := if Config.sameCycle s.tick && !q.stood then rivalUpgs s q else []
    let s := first.foldl (fun (s : State) (p : CohReq) => homeRequest ({ s with agenda := s.agenda.erase (.homeUpg p) }) ({ p with kind := .upg })) s
    .next (homeRequest s { q with kind := .upg })

/-- HOME_RENEW (R301, R305). -/
def execHomeRenew (q : CohReq) (s : State) : Result :=
  if !coreExists q.core then .fault .noSuchUnit else .next (homeRequest s { q with kind := .renew })

/-- The owner's image and stamps reach the home, which holds the newest value from there: the forwarded request is served from it, or the recall is
complete (R305, R307). -/
def takeImage (s : State) (line core : Nat) (img : Stamped) : State :=
  let h := s.micro.homeLine line
  if h.owner ≠ core ∨ h.st = .c then s
  else
    let h := { h with st := .c, wts := max h.wts img.wts, rts := max h.rts img.rts, served := decide (h.st = .f ∨ h.st = .w) }
    nextWaiting { s with micro := s.micro.setHome line h } line

/-- HOME_WB (R305, R307): taken at once in every state, and acknowledged. -/
def execHomeWb (line core : Nat) (img : Stamped) (_clean : Bool) (s : State) : Result :=
  if !coreExists core then .fault .noSuchUnit
  else .next ((takeImage s line core img).post [.agentWback core line])

/-- HOME_FDATA (R305). -/
def execHomeFdata (line core : Nat) (img : LineData × Word) (stamps : Nat × Nat) (s : State) : Result :=
  if !coreExists core then .fault .noSuchUnit
  else
    let h := s.micro.homeLine line
    .next (if h.st = .f ∨ h.st = .w then takeImage s line core ⟨img.1, img.2, stamps.1, stamps.2, 0, 0⟩ else s)

/-- HOME_GACK (R305): the new owner is recorded. -/
def execHomeGack (line core : Nat) (s : State) : Result :=
  if !coreExists core then .fault .noSuchUnit
  else
    let h := s.micro.homeLine line
    .next (if h.st = .g ∧ h.owner = core then nextWaiting { s with micro := s.micro.setHome line { h with st := .o } } line else s)

/-- What an agent sends of a line on a FWD or an eviction is on its way (R307). -/
def answerComing (s : State) (core line : Nat) : Bool :=
  s.onWay (fun i => match i with
    | .homeWb l k _ _ => decide (k = core) && decide (l = line)
    | .homeFdata l k _ _ => decide (k = core) && decide (l = line)
    | .homeGone l k => decide (k = core) && decide (l = line)
    | .agentFwd k l _ => decide (k = core) && decide (l = line)
    | _ => false)

/-- HOME_GONE (R305, R307): discarded. The owner of a block that had already written the line back answers its FWD with GONE too, and then
nothing else: the home has the newest image (R309; DEDUCED, log 14). -/
def execHomeGone (line core : Nat) (s : State) : Result :=
  if !coreExists core then .fault .noSuchUnit
  else
    let h := s.micro.homeLine line
    let flat := s.lineNow line
    .next (if (h.st = .f ∨ h.st = .w) ∧ h.owner = core ∧ answerComing s core line = false then takeImage s line core ⟨flat.1, flat.2, 0, 0, 0, 0⟩ else s)

/-! ### The agent's side (R303) -/

/-- The agent's copy of a line, if it is in one of some states. -/
def Micro.agentIn (m : Micro) (core line : Nat) (l : List CopyState) : Option Copy :=
  match m.copyAt core line with
  | some c => if l.contains c.st then some c else none
  | none => none

/-- The threads of a core that wait for a line issue again, `level` having answered them; the acks of a round that the reply announces are theirs to
count (R83, R319, R396). -/
def wakeMiss (s : State) (core line acks level : Nat) : State :=
  let mine (x : Context) : Bool := x.miss.any (fun p => decide (p.1 = line))
  let c := s.core core
  let s := s.setCore core { c with ctxs := c.ctxs.map (fun p =>
    if mine p.2 then (p.1, { p.2 with served := level, acksDue := p.2.acksDue + (if p.2.miss.any (·.2) then acks else 0) }) else p) }
  s.post ((c.ctxs.filter (fun p => mine p.2)).map (fun p => .wake core p.1))

/-- A thread of the core waits to store to the line (R308). -/
def storeWaits (s : State) (core line : Nat) : Bool := (s.core core).ctxs.any (fun p => decide (p.2.miss = some (line, true)))

/-- A grant of a line to a core is on its way. -/
def grantComing (s : State) (core line : Nat) : Bool :=
  s.onWay (fun i => match i with
    | .agentData k l _ x => decide (k = core) && decide (l = line) && x
    | .agentAckx k l _ => decide (k = core) && decide (l = line)
    | _ => false)

/-- An agent becomes the owner of a line: its L2 slice keeps no copy (R303). -/
def becomeOwner (s : State) (core line : Nat) (o : Copy) (acks level : Nat) : State :=
  let m := (s.micro.setCopy core line { o with st := .x, dirty := false, left := false, leftL2 := false }).dropL2 (clusterOf core) line
  let s := { s with micro := (if foreignLine line then m.dropL2 llcPlace line else m).freshUse core line }
  (wakeMiss s core line acks level).post [.homeGack line core]

/-- AGENT_DATA (R303, R306): a pending fill becomes V, or X with its acknowledgement. The round of the fill advances the levels it
reaches first; a level that has stopped holding a view meanwhile does not keep it (R292, R293). -/
def execAgentData (core line : Nat) (r : DataReply) (exclusive : Bool) (s : State) : Result :=
  if !coreExists core then .fault .noSuchUnit
  else
    let c := r.img
    .next (match s.micro.agentIn core line (if exclusive then [.ix, .vx] else [.iv, .vr, .ix, .vx]) with
    | none => s
    | some o =>
      if exclusive then
        let s := match o.region with
          | some g => advanceL1 (advanceL2 s (clusterOf core) g (BitVec.ofNat 32 c.round)) core g (BitVec.ofNat 32 c.round)
          | none => s
        becomeOwner s core line { o with img := c, tag := BitVec.ofNat 8 c.round } r.acks c.level
      else
        let s := { s with micro := s.micro.dropCopy core line }
        wakeMiss (fillCopies s core line c o.region o.cls (!o.left) (!o.leftL2)) core line r.acks c.level)

/-- AGENT_ACKX (R303): the upgrade is granted. -/
def execAgentAckx (core line : Nat) (r : LeaseReply) (s : State) : Result :=
  if !coreExists core then .fault .noSuchUnit
  else .next (match s.micro.agentIn core line [.vx] with
    | some o => becomeOwner s core line { o with img := { o.img with rts := r.rts } } r.acks 3
    | none => s)

/-- AGENT_RNACK (R303): the lease is extended, in the L1 and in the L2 slice it passes; the fill round is unchanged (R293). -/
def execAgentRnack (core line : Nat) (r : LeaseReply) (s : State) : Result :=
  if !coreExists core then .fault .noSuchUnit
  else .next (match s.micro.agentIn core line [.vr] with
    | some o =>
      let m := if o.left then s.micro.dropCopy core line
        else (s.micro.setCopy core line { o with st := .v, img := { o.img with rts := max o.img.rts r.rts }, leftL2 := false }).freshUse core line
      let cl := clusterOf core
      let m := match m.l2At cl line with
        | some p => if p.img.wts = o.img.wts then { m with l2 := SMap.set [] m.l2 cl (SMap.put (SMap.get [] m.l2 cl) line { p with img := { p.img with rts := max p.img.rts r.rts } }) } else m
        | none => m
      wakeMiss { s with micro := m } core line r.acks 3
    | none => s)

/-- A FWD of a line to a core is on its way. -/
def fwdComing (s : State) (core line : Nat) : Bool :=
  s.onWay (fun i => match i with
    | .agentFwd k l _ => decide (k = core) && decide (l = line)
    | _ => false)

/-- AGENT_WBACK (R303, R307): a thread that waits for the line asks for it anew. A FWD that the write-back has crossed is answered first, while the
agent is in XI (DEDUCED, log 14). -/
def execAgentWback (core line : Nat) (s : State) : Result :=
  if !coreExists core then .fault .noSuchUnit
  else if fwdComing s core line then .next (s.post [.agentWback core line])
  else .next (match s.micro.agentIn core line [.xi] with
    | some _ => wakeMiss { s with micro := s.micro.dropCopy core line } core line 0 0
    | none => s)

/-- AGENT_FWD (R303, R307, R308): the owner gives the line up, once a store outstanding on it has been made, or answers GONE; a grant still on its
way is waited for. A block owner that does not hold the line answers so (R309). An owner from 256 on stands beyond a fabric port, whose switch
is asked (R386). -/
def execAgentFwd (core line : Nat) (kind : FwdKind) (s : State) : Result :=
  if decide (256 ≤ core) && decide (core < 272) then .next (s.emit (.peerForward (core - 256) line kind))
  else if !coreExists core then .fault .noSuchUnit
  else
    let flat := s.lineNow line
    let again := s.post [.agentFwd core line kind]
    let none' := s.post [.homeFdata line core flat (0, 0)]
    .next (match s.micro.copyAt core line with
    | some c =>
      match c.st with
      | .x =>
        if storeWaits s core line then again
        else
          let img := c.imageOf flat
          let keep := decide (kind = .gets) && !tooOld (s.core core).viewOf c
          let m := if keep then s.micro.setCopy core line { c with st := .v, img := img, dirty := false } else s.micro.dropCopy core line
          ({ s with micro := m }).post [.homeFdata line core (img.data, img.side) (img.wts, img.rts)]
      | .xi => s.post [.homeGone line core]
      | .ix => if grantComing s core line then again else none'
      | .vx => if grantComing s core line then again else none'
      | _ => none'
    | none => none')

/-- AGENT_RETRY (R323): the request waits until the granule has its new home, and is sent again. -/
def execAgentRetry (q : CohReq) (s : State) : Result :=
  if !coreExists q.core then .fault .noSuchUnit
  else .next (if s.micro.lineMoving q.line then { s with micro := { s.micro with retry := s.micro.retry ++ [(q.line / 64, cohMsg q)] } }
    else s.post [cohMsg q])

/-- LINE_EVICTION (R303). -/
def execLineEviction (core line : Nat) (s : State) : Result :=
  if !coreExists core then .fault .noSuchUnit else .next (evictLine s core line)

/-! ### Invalidation rounds, notices, translations (R315 to R321) -/

/-- INV_RECEIVE (R319, R321): the party drops or reloads, then acknowledges straight to the writer: a hub for its four cores. -/
def execInvReceive (party : Party) (line : Nat) (_round : Nat) (writer : ThreadRef) (s : State) : Result :=
  if !party.ok || !ctxExists writer.core writer.ctx then .fault .noSuchUnit
  else
    let n := match party with
      | .hub _ => 4
      | _ => 1
    .next ((takeInv s party line).post (List.replicate n (.iackReceive ⟨party, writer⟩)))

/-- EVICTION_NOTICE (R318). -/
def execEvictionNotice (core line round : Nat) (s : State) : Result :=
  if !coreExists core then .fault .noSuchUnit
  else
    let d := SMap.get {} s.micro.dir line
    if !s.micro.dirOrder.contains line || d.coarse || decide (d.round ≠ round) then .next s
    else
      let ptrs := (List.range 4).foldl (fun m i => if SMap.get 0 d.ptrs i = core + 1 then SMap.set 0 m i 0 else m) d.ptrs
      .next { s with micro := { s.micro with dir := SMap.put s.micro.dir line { d with ptrs := ptrs } } }

/-- WALKER_READ (R317, R321): a tracking read registers its reader. -/
def execWalkerRead (reader : Party) (line : Nat) (s : State) : Result :=
  if !reader.ok then .fault .noSuchUnit else .next (s.track reader line)

/-- A core drops an entry of its block TLB, its walker cache or of what it filled in the cluster TLB (R315). -/
def dropTranslation (s : State) (core index : Nat) : State :=
  let m := s.micro
  let tlb := SMap.get [] m.tlb core
  let wc := SMap.get [] m.wcache core
  let ct := SMap.get [] m.ctlb (clusterOf core)
  let go (m : Micro) (lines : List (Nat × Nat)) (owner : Nat) : State := ({ s with micro := m }).post (m.notices owner lines)
  if index < tlb.length then
    go { m with tlb := SMap.set [] m.tlb core (tlb.eraseIdx index) } (((tlb.drop index).take 1).flatMap (·.lines)) core
  else if index - tlb.length < wc.length then
    let i := index - tlb.length
    go { m with wcache := SMap.set [] m.wcache core (wc.eraseIdx i) } (((wc.drop i).take 1).map (fun p => (p.1, p.2.1))) core
  else
    let i := index - tlb.length - wc.length
    match (ct.drop i).take 1 with
    | e :: _ => go { m with ctlb := SMap.set [] m.ctlb (clusterOf core) (ct.eraseIdx i) } e.lines e.core
    | [] => s

/-- TRANSLATION_DROP (R315). -/
def execTranslationDrop (core index : Nat) (s : State) : Result :=
  if !coreExists core then .fault .noSuchUnit else .next (dropTranslation s core index)

/-- A core's L1 instruction cache drops a line (R104). -/
def dropFetched (s : State) (core line : Nat) : State :=
  { s with micro := { s.micro with l1i := SMap.set [] s.micro.l1i core (SMap.del (SMap.get [] s.micro.l1i core) line) } }

/-- L1_INSTRUCTION_CACHE_DROP (R104). -/
def execL1InstructionCacheDrop (core line : Nat) (s : State) : Result :=
  if !coreExists core then .fault .noSuchUnit else .next (dropFetched s core line)

/-! ### Placement (R302, R322 to R325) -/

/-- The first GETS or RENEW that a core of a cluster has sent for a line and that has not reached the home. -/
def passing (s : State) (cluster line : Nat) : Option (Instr × CohReq) :=
  s.agenda.findSome? (fun i => match i with
    | .homeGets q => if clusterOf q.core = cluster ∧ q.line = line then some (i, q) else none
    | .homeRenew q => if clusterOf q.core = cluster ∧ q.line = line then some (i, q) else none
    | _ => none)

/-- A peer L2 slice of the die serves a request of a cluster from its V copy, under no longer lease than its own (R324). -/
def peerServe (s : State) (cluster peer line : Nat) : State :=
  if cluster / 16 ≠ peer / 16 ∨ cluster = peer then s
  else match s.micro.l2At peer line, passing s cluster line with
    | some o, some (i, q) =>
      let c := max q.clk s.micro.minClk
      if o.st = .v && s.micro.covers c o.img then
        let img := { o.img with rts := min o.img.rts (max o.img.wts (c + q.lease)), level := 2 }
        { s with agenda := s.agenda.erase i }.post [.agentData q.core line ⟨img, 0⟩ false]
      else s
    | _, _ => s

/-- L2_PEER_SERVE (R324). -/
def execL2PeerServe (cluster peer line _clk : Nat) (s : State) : Result :=
  if cluster ≥ 64 ∨ peer ≥ 64 then .fault .noSuchUnit else .next (peerServe s cluster peer line)

/-- A slice broadcasts its clock less 2^45; every party keeps the highest value it has received (R302). -/
def broadcastMin (s : State) (slice : Nat) : State :=
  { s with micro := { s.micro with minClk := max s.micro.minClk (SMap.get 0 s.micro.clkSlice slice - 2 ^ 45) } }

/-- CLOCK_MINIMUM_BROADCAST (R302). -/
def execClockMinimumBroadcast (slice : Nat) (s : State) : Result :=
  if slice ≥ 32 then .fault .noSuchUnit else .next (broadcastMin s slice)

/-- The views of a region that a granule's new home takes over, and the requests that this releases there (R290, R292, R296); a home that
already holds granules of the region has a view, which does not move backwards. -/
def moveViews (s : State) (granule slice : Nat) : State :=
  let old := s.micro.homeOf (4096 * granule)
  s.regions.foldl (fun s p =>
    if p.2.holds (4096 * granule) then
      let v := SMap.get 0 s.sliceViews (4096 * old + p.1)
      let mine := SMap.get 0 s.sliceViews (4096 * slice + p.1)
      if (s.regionSlices p.2).contains slice && atOrAhead mine v then s
      else releaseStalled { s with sliceViews := SMap.set 0 s.sliceViews (4096 * slice + p.1) v } slice p.1 v
    else s) s

/-- The lines of a granule that are not at rest at their home. -/
def Micro.unsettled (m : Micro) (granule : Nat) : List Nat := (m.home.filter (fun p => decide (p.1 / 64 = granule) && decide (p.2.st ≠ .c))).map (·.1)

/-- Owned lines of a moving granule are recalled, in state W (R305, R323). -/
def recallOwned (s : State) (lines : List Nat) : State :=
  lines.foldl (fun s l =>
    let h := s.micro.homeLine l
    if h.st = .o then ({ s with micro := s.micro.setHome l { h with st := .w } }).post [.agentFwd h.owner l .recall] else s) s

/-- Step 1 of a move: the granule is marked, and the requests that stand at its old home are answered with RETRY (R323). -/
def startMove (s : State) (granule slice : Nat) : State :=
  let m := s.micro
  let mine := m.home.filter (fun p => decide (p.1 / 64 = granule))
  let here (q : Stalled) : Bool := decide (q.pa / 4096 = granule)
  { s with
    stalled := s.stalled.filter (fun q => !here q)
    micro := { m with
      moving := m.moving ++ [(granule, slice)]
      home := m.home.map (fun p => if p.1 / 64 = granule then (p.1, { p.2 with waiting := [] }) else p)
      retry := m.retry ++ (mine.flatMap (fun p => p.2.waiting)).map (fun i => (granule, i)) ++ (s.stalled.filter here).map (fun q => (granule, q.self)) } }

/-- Steps 2 to 4 of a move: its lines are at rest, and what the old home holds of the granule passes to the new one, which takes the
requests that were sent away (R323). -/
def endMove (s : State) (granule slice : Nat) : State :=
  let old := s.micro.homeOf (4096 * granule)
  let s := moveViews s granule slice
  let m := s.micro
  let sent : List Instr := (s.micro.retry.filter (fun p => decide (p.1 = granule))).map (·.2)
  let here (base height : Nat) : Bool := blocksOverlap base height (4096 * granule) 6
  let owners := SMap.get [] m.owners slice
  let taken := (SMap.get [] m.owners old).filter (fun e => here e.base e.height && !owners.contains e)
  let keptHere := (SMap.get [] m.llc old).filter (fun p => decide (p.1 / 64 = granule))
  let m := { m with
    moving := m.moving.filter (fun q => decide (q ≠ (granule, slice)))
    homeMap := SMap.set 0 m.homeMap granule (slice + 1)
    owners := SMap.set [] m.owners slice ((owners ++ taken).take 256)
    handles := (SMap.get [] m.handles old).foldl (fun (h : SMap (List Handle)) (x : Handle) =>
      if here x.base x.height ∧ ¬ (SMap.get [] h slice).contains x then SMap.set [] h slice ((SMap.get [] h slice ++ [x]).take 64) else h) m.handles
    llc := SMap.set [] m.llc old ((SMap.get [] m.llc old).filter (fun p => decide (p.1 / 64 ≠ granule)))
    retry := m.retry.filter (fun p => decide (p.1 ≠ granule)) }
  let m := keptHere.foldl (fun m p => m.llcFill p.1 p.2) m
  let (m, notes) := m.trimDir s.needs slice 32768 8267
  let rounds := (s.regions.filter (fun p => p.2.holds (4096 * granule))).map (fun p => Instr.roundMulticast (.slice slice) p.1 p.2.counter)
  ({ s with micro := m }).post (notes ++ rounds ++ sent)

/-- A granule moves to another home (R323): it is marked, its owned lines are recalled, and when every line is at rest the new home serves. -/
def rehome (s : State) (granule slice : Nat) : State :=
  match s.micro.moving.find? (fun p => decide (p.1 = granule)) with
  | none =>
    if s.micro.homeOf (4096 * granule) = slice then s
    else (recallOwned (startMove s granule slice) (s.micro.unsettled granule)).post [.rehome granule slice]
  | some p =>
    match s.micro.unsettled granule with
    | [] => endMove s granule p.2
    | ls => (recallOwned s ls).post [.rehome granule slice]

/-- REHOME (R323): the granule is set in motion, or the move goes on. -/
def execRehome (granule slice : Nat) (s : State) : Result :=
  if slice ≥ 32 then .fault .noSuchUnit else .next (rehome s granule slice)

/-- The lines of a block that are not at rest at a slice, and that a request of its kind recalls: those that the requester gives up, those
of rivals, or all (R305, R309). -/
def recallDue (m : Micro) (slice : Nat) (q : RecallReq) : List Nat :=
  let x : OwnerEntry := ⟨q.base, q.height, q.core⟩
  match q.kind with
  | .bown => (m.rivals slice x).flatMap (m.ownedBy slice)
  | .brel => m.ownedBy slice x
  | .bres _ => []
  | _ => (m.home.filter (fun p => decide (p.2.st ≠ .c) && decide (m.homeOf (64 * p.1) = slice)
      && decide (64 * p.1 / 4 ^ q.height = q.base / 4 ^ q.height))).map (·.1)

/-- Every line of a block of which some cache holds a copy. -/
def Micro.copiedLines (m : Micro) (slice : Nat) (q : RecallReq) : List Nat :=
  ((m.l1d.flatMap (fun p => p.2.map (·.1)) ++ m.l2.flatMap (fun p => p.2.map (·.1)) ++ (SMap.get [] m.llc slice).map (·.1)).filter (fun l =>
    decide (m.homeOf (64 * l) = slice) && decide (64 * l / 4 ^ q.height = q.base / 4 ^ q.height))).eraseDups

/-- HOME_RECALL (R210, R305, R309, R325): a block request of a residency or ownership barge at one home slice: the lines it recalls are
recalled one after another, in state W, and then it takes effect. -/
def execHomeRecall (slice : Nat) (q : RecallReq) (s : State) : Result :=
  if slice ≥ 32 ∨ q.core ≥ 256 then .fault .noSuchUnit
  else .next (match recallDue s.micro slice q with
    | l :: _ =>
      match homeGate s l 1024 .recall (.homeRecall slice q) with
      | .error s => s
      | .ok s => s.post [.homeRecall slice q]
    | [] =>
      let x : OwnerEntry := ⟨q.base, q.height, q.core⟩
      match q.kind with
      | .bevict => (s.micro.copiedLines slice q).foldl (fun s l => removeCopies s l true) s
      | .bdemote => (s.micro.copiedLines slice q).foldl (fun s l => removeCopies s l false) s
      | .bown => { s with micro := claimOwner s.micro slice x }
      | .brel => { s with micro := releaseOwner s.micro slice x }
      | .bres c => { s with micro := setHandle s.micro slice ⟨q.base, q.height, c⟩ })

/-- What the device does of its own accord, by kind (DESIGN CHOICE, log 11). -/
def spontaneous (s : State) (e : Nat × Nat × Nat) : State :=
  let (k, a, b) := e
  if k = 0 then evictLine s (a % 256) b
  else if k = 1 then dropTranslation s (a % 256) b
  else if k = 2 then dropFetched s (a % 256) b
  else if k = 3 then peerServe s (a % 64) (a / 64 % 64) b
  else if k = 4 then broadcastMin s (a % 32)
  else if k = 5 then rehome s b (a % 32)
  else if k = 7 then (peerCounter s (4096 + b % 65536)).2
  else s

end Sys2Proof.Machine
end

