-- ==== Sys2Proof/Machine/System.lean ====
section
/-! DEFINITION. The instructions that change who runs and at what level (R230 to R253): TRAP to PARK, contexts, fences, stops,
and pre-emption (R339). -/

namespace Sys2Proof.Machine

/-! ### Parking a context of a core (R241, R339) -/

/-- A wait of kind 2 to 7, which a park or a stop cuts short; a DEQ whose record has been taken for it waits on for its reply, so that no record
is lost (R161, R241; DEDUCED, log 59). -/
def cutShort (x : Context) : Bool :=
  decide (2 ≤ x.waitKind) && decide (x.waitKind ≤ 7) && (decide (x.waitKind ≠ 5) || decide (x.pend = .message))

/-- Whether a context stands where it may be parked or stopped at once: a chain boundary, or a wait that may be cut short. -/
def atPoint (x : Context) : Bool :=
  if x.stopped then true
  else if x.waitKind = 0 ∨ x.pend = .none then decide (x.chain.len = 0)
  else cutShort x

/-- A context is parked without a record at the point R241's table gives. -/
def parkPoint (s : State) (r : ThreadRef) : State :=
  let x := s.ctxOf r
  if x.st ≠ .bound then s
  else
    let s := s.setCtx r { x with parkReq := true }
    if atPoint x then parkCtx s r else s

/-- A context whose RCB's budget is spent is pre-empted, and comes back at the next period (R336). -/
def budgetPoint (s : State) (r : ThreadRef) : State :=
  let x := s.ctxOf r
  if x.st ≠ .bound then s
  else
    let s := s.setCtx r { x with budgetStop := true }
    if atPoint x then parkCtx s r else s

/-- A thread that has entered a wait that may be cut short with a park or a stop pending takes it at once (R241, R390). -/
def takePending (s : State) (r : ThreadRef) : State :=
  let x := s.ctxOf r
  if x.st = .bound ∧ x.pend ≠ .none ∧ cutShort x then
    if x.parkDue then parkCtx s r
    else if x.stopReq then stopCtx s r
    else s
  else s

/-- PREEMPT (R339): a context that is to be pre-empted parks at its boundary, without a record. -/
def execPreempt (core ctx : Nat) (s : State) : Result :=
  if !ctxExists core ctx then .fault .noSuchUnit
  else
    let x := s.ctxOf ⟨core, ctx⟩
    .next (if x.st = .bound ∧ x.parkDue ∧ atPoint x then parkCtx s ⟨core, ctx⟩ else s)

/-! ### SYS (R237 to R242) -/

/-- TRAP and SCALL (R238): the context's pc is the next word, the trap pc the first word of the chain (R232). -/
def callSupervisor (s : State) (kind : Nat) (v : Word) : State :=
  match s.me.level with
  | .u => parkWithRecord (s.setMe (advance s.me)) kind v (addr56 s.me.pc.toNat) true
  | _ => trap s 0x01 s.irWord

/-- TRAP (R238). -/
def execTrap (a : BitVec 5) (s : State) : Result := .next (callSupervisor s 2 (s.S a))

/-- SCALL (R238). -/
def execScall (a : BitVec 5) (s : State) : Result := .next (callSupervisor s 3 (s.S a))

/-- MCALL (R239): it retires, so a single-step trap follows it, at the level it has entered (R253; DEDUCED, log 60). -/
def execMcall (s : State) : Result :=
  .next (match s.me.level with
    | .u => trap s 0x04 s.irWord
    | .s => boundary (enterMonitor s s.me.nextPc 0x100 0)
    | .m => trap s 0x01 s.irWord)

/-- ERET (R239): it retires at the level it returns to (R253). -/
def execEret (s : State) : Result :=
  .next (atLeast .m s (fun s =>
    match targetFault s.myCore.mresume with
    | some c => trap s c s.myCore.mresume
    | none => boundary (leaveMonitor s)))

/-- The parked context a supervisor instruction names in S[a]; none where there is none. -/
def parkedArg (s : State) (v : Word) : Option (ThreadRef × Context) :=
  let r : ThreadRef := ⟨s.cur.core, v.toNat⟩
  if v.toNat > 23 then none else if (s.ctxOf r).st = .parked then some (r, s.ctxOf r) else none

/-- The instruction waits with kind 1 and is issued again. -/
def tryAgain (s : State) (obj : Nat) : State := (leave s 1 obj .reissue).postWake s.cur.core s.cur.ctx

/-- RESUME (R240): a context bound to the home slot is parked at its next boundary first; the kind 1 wait has the number of the context to resume as
object (R100; DESIGN CHOICE, log 76). -/
def execResume (a : BitVec 5) (s : State) : Result :=
  .next (atLeast .s s (fun s =>
    match parkedArg s (s.S a) with
    | none => trap s 0x01 (s.S a)
    | some (r, x) =>
      if x.slot = 15 then trap s 0x04 s.irWord
      else match targetFault x.pc with
        | some c => trap s c x.pc
        | none =>
          match s.myCore.boundTo x.slot with
          | none => retire (bindHome s r)
          | some i =>
            let o : ThreadRef := ⟨s.cur.core, i⟩
            let c := s.myCore
            let s := leave (s.setMyCore { c with resuming := c.resuming ++ [⟨x.slot, r.ctx, s.cur.ctx⟩] }) 1 r.ctx .reply
            parkPoint s o))

/-- PARK (R241): of another context, it retires once that is parked or its thread has ended, so that nothing of the thread is in flight after it
(R286; DEDUCED, log 72), and the issuer follows what the thread has done; the object of the kind 1 wait is the context's number (log 76). The record of a thread that parks itself holds the address of the next word as trap pc; with single step the trap of R253 follows
it (DESIGN CHOICE, log 60). -/
def execPark (a : BitVec 5) (s : State) : Result :=
  .next (
    if a = 0 then
      if s.me.slot = 15 then trap s 0x01 s.irWord
      else
        let s := s.setMe (advance s.me)
        let pc := addr56 s.me.pc.toNat
        let s := parkWithRecord s 4 0 pc false
        if s.me.step then takeTrap s 0x22 pc 0 else s
    else atLeast .s s (fun s =>
      let v := s.S a
      let r : ThreadRef := ⟨s.cur.core, v.toNat⟩
      if v.toNat > 23 ∨ (s.ctxOf r).st = .free then trap s 0x01 v
      else if r = s.cur then retire (s.setMe { s.me with parkReq := true })
      else
        let s := parkPoint s r
        if (s.ctxOf r).st = .bound then
          let c := s.myCore
          leave (s.setMyCore { c with parking := c.parking ++ [(r.ctx, s.cur.ctx)] }) 1 r.ctx .reply
        else retire (s.setClk s.cur (max (s.clkOf s.cur) (s.clkOf r)))))

/-! ### CONTEXT (R244 to R246) -/

/-- The operands of CTXR and CTXW (R245). -/
def withImage (s : State) (a b : BitVec 5) (f : State → ThreadRef → Nat → State) : State :=
  atLeast .s s (fun s =>
    match parkedArg s (s.S a) with
    | none => trap s 0x01 (s.S a)
    | some (r, _) =>
      let o := (s.S b).toNat
      if o % 8 ≠ 0 ∨ o ≥ 0x2E8 then trap s 0x01 (s.S b) else f s r o)

/-- CTXR (R245). -/
def execCtxr (d a b : BitVec 5) (s : State) : Result :=
  .next (withImage s a b (fun s r o => writeRetire s d (imageWord (s.core r.core) (s.ctxOf r) o)))

/-- Store a doubleword into the image of a resident context (R245); a new pc replaces what a claimed BKPT would step over. -/
def writeImage (s : State) (r : ThreadRef) (o : Nat) (v : Word) : State :=
  let x := setImageWord (s.ctxOf r) o v false
  s.setCtx r (if o = 0 then { x with skipWords := 0 } else x)

/-- CTXW (R245): S[d] is the value. -/
def execCtxw (d a b : BitVec 5) (s : State) : Result :=
  .next (withImage s a b (fun s r o => retire (writeImage s r o (s.S d))))

/-- SPILL (R246, R87, R233, R390): a context whose record is held, or that is stopped, is not spilled yet. -/
def execSpill (a : BitVec 5) (s : State) : Result :=
  .next (atLeast .s s (fun s =>
    match parkedArg s (s.S a) with
    | none => trap s 0x01 (s.S a)
    | some (r, x) =>
      if s.myCore.heldSq.any (fun h => decide (h.1 = .thread r.ctx)) || x.stopped || x.stopReq then tryAgain s x.save.toNat
      else match spillCtx s r with
        | (some (c, va), s) => trap s c va
        | (none, s) => awaitReply s x.save.toNat))

/-- Read `n` lines of doublewords from `a` on for FILL, each at its home (R246); the reads raise the thread's clock, from which the restored context takes
its own (R300). -/
def fillWords (s : State) (a : Word) : Nat → List Word → Except (Nat × Word) (List Word) × State
  | 0, acc => (.ok acc, s)
  | n + 1, acc =>
    let va := a + BitVec.ofNat 64 (8 * acc.length)
    match checkMe s va { r := true, size := 64 } with
    | (.error c, s) => (.error (c, va), s)
    | (.ok t, s) =>
      let l := loadQuiet s s.myWho t
      fillWords (loadedMe l.st l va.toNat) a n (acc ++ (List.range 8).map (fun i => lineWord l.line.1 (8 * i)))

/-- The lines of a save area that FILL reads, where they have a home (R305, R330). -/
def saveLines (t : Target) : List Nat :=
  match t.loc.place with
  | some pa => (List.range 13).map (fun i => pa / 64 + i)
  | none => []

/-- FILL (R246): it waits until its lines are at rest at their homes (R305), until every barge of the spilled context has completed (R330), and for a free context (R87). The core's L1 instruction
cache drops its lines, so that the thread fetches none older than its last IFENCE elsewhere (R104, R266). -/
def execFill (d a b : BitVec 5) (s : State) : Result :=
  .next (atLeast .s s (fun s =>
    let va := s.S a
    let ended (s : State) : State := endNeeds s s.cur.core (fun x => decide (x = .fill s.cur.ctx))
    match checkMe s va { r := true, size := 1024 } with
    | (.error c, s) => trap (ended s) c va
    | (.ok t, s) =>
      if (s.S b).toNat > 14 then trap (ended s) 0x01 (s.S b)
      else match readyLines s (.wake s.cur.core s.cur.ctx) .gets (saveLines t) with
      | .error s => leave s 1 va.toNat .reissue
      | .ok s =>
        match fillWords s va 13 [] with
        | (.error (c, v), s) => trap (ended s) c v
        | (.ok ws, s) =>
          if ws.getD 98 0 ≠ 0 then tryAgain s va.toNat
          else match needCtx s s.cur.core (.fill s.cur.ctx) 24 with
            | (none, s) => tryAgain s va.toNat
            | (some i, s) =>
              let r : ThreadRef := ⟨s.cur.core, i⟩
              let x := filledContext s va (s.S b).toNat ws
              let s := restoreCtx s r x (s.clkOf s.cur)
              let s := { s with micro := { s.micro with l1i := SMap.set [] s.micro.l1i r.core [] } }
              awaitReply (s.setS d (BitVec.ofNat 64 i)) va.toNat))

/-! ### Fences (R247, R248) -/

/-- IFENCE (R247): the core's L1 instruction cache holds no older line. Its kind 1 wait, which has no address, has object 0 (R100; DESIGN CHOICE, log
76). -/
def execIfence (s : State) : Result :=
  let s := s.setClk s.cur (s.clkOf s.cur + 1)
  .next (awaitReply { s with micro := { s.micro with l1i := SMap.set [] s.micro.l1i s.cur.core [] } } 0)

/-- Everything a core's walks have returned is discarded, and it uses no entry that another core of its cluster filled before
(R248); the notices of R318 are sent. -/
def tfence (s : State) (core : Nat) : State :=
  let m := s.micro
  let lines := ((SMap.get [] m.wcache core).map (fun p => (p.1, p.2.1))
    ++ ((SMap.get [] m.tlb core) ++ (SMap.get [] m.ctlb (clusterOf core)).filter (fun e => decide (e.core = core))).flatMap (·.lines)).eraseDups
  let m := { m with
    tlb := SMap.set [] m.tlb core []
    wcache := SMap.set [] m.wcache core []
    ctlb := SMap.set [] m.ctlb (clusterOf core) (((SMap.get [] m.ctlb (clusterOf core)).filter (fun e => decide (e.core ≠ core))).map
      (fun e => { e with barred := if e.barred.contains core then e.barred else core :: e.barred })) }
  ({ s with micro := m }).post (m.notices core lines)

/-- TFENCE (R248). The object of its wait is 0 (DESIGN CHOICE, log 76). -/
def execTfence (s : State) : Result := .next (atLeast .s s (fun s => awaitReply (tfence s s.cur.core) 0))

/-! ### Stops (R252, R392, R337) -/

/-- A breakpoint in a slot that a debugger has claimed stops the thread (R392). -/
def claimed (s : State) : Bool := s.myCore.claims.getLsbD s.me.slot

/-- BKPT (R252, R392). -/
def execBkpt (s : State) : Result :=
  .next (match s.me.level with
    | .u =>
      if claimed s then stopCtx (s.setMe { s.me with skipWords := s.me.chain.len + 1 }) s.cur
      else trap s 0x20 s.irWord
    | _ => trap s 0x01 s.irWord)

/-- A context is freed: its save area is given back, its slot vacant (R252, R337). -/
def freeCtx (s : State) (r : ThreadRef) : State :=
  let x := s.ctxOf r
  let i := x.rcb.toNat
  let s := endPark s r
  let s := if (s.reg i).launched then (freeSave s r.core (s.reg i) x.save).addContexts i false else s
  let s := (s.setCtx r {}).setClk r 0
  let s := { s with micro := { s.micro with seen := SMap.set [] s.micro.seen x.tid [] } }
  (vacate s r.core x.slot).post [.rcbEnd i]

/-- HALT (R252, R337): the JOIN of the dispatch word comes first; a refusal traps and the thread does not end. -/
def execHalt (s : State) : Result :=
  .next (match s.me.level with
    | .u =>
      let a := s.me.join
      if a = 0 then freeCtx s s.cur
      else match checkBlock s a with
        | (.error c, s) => trap s c a
        | (.ok t, s) =>
          if hazard s (resolveAlias s.cur.core a.toNat) then tryAgain s a.toNat
          else match atomicGate s s.myWho t with
            | .error s => leave s 1 a.toNat .reissue
            | .ok s =>
              match joinAt s s.myWho t true a with
              | .error e => trap s e.1 e.2
              | .ok (_, clk, ps, s) => freeCtx (takeRound (s.setClk s.cur clk) t.loc.line ps) s.cur
    | _ => trap s 0x01 s.irWord)

/-! ### The words that carry no meaning of their own -/

/-- A word that decodes to no instruction traps (R107 to R112). -/
def reservedWord (s : State) (w : BitVec 32) : State := trap s 0x02 (w.setWidth 64)

/-- A word that cannot be fetched traps with the fetch's cause (R112); word 3 of the record is 0 (R234). -/
def unfetchable (s : State) (cause : Nat) (tval : Word) : State := takeTrap s cause tval 0

/-- RESERVED_ENCODING (R107 to R111). -/
def execReservedEncoding (w : BitVec 32) (s : State) : Result := .next (reservedWord s w)

/-- UNFETCHABLE_WORD (R112). -/
def execUnfetchableWord (cause : BitVec 8) (tval : Word) (s : State) : Result := .next (unfetchable s cause.toNat tval)

end Sys2Proof.Machine
end

