-- ==== Sys2Proof/Machine/Weir.lean ====
section
/-! DEFINITION. Protected egress: the weir's registers, refill, held transfers and their timeout, its journal entries (R365 to
R368), and the sensors (R372). -/

namespace Sys2Proof.Machine

/-! ### The registers of a region (R365) -/

/-- The longest hold, in units of time. -/
def Weir.timeout (w : Weir) : Nat := bitsOf w.b 63 52 * msUnits

def State.setWeir (s : State) (i : Nat) (w : Weir) : State :=
  { s with sdie := { s.sdie with weirs := SMap.set {} s.sdie.weirs i w } }

/-- The fields of cr.weir A that a write keeps. -/
def weirAMask : Word := 0x9F0FFFFFFFFFFFFF

/-- Every line of a physical range is delivered (R36). -/
def rangeDelivered (s : State) (pa n : Nat) : Bool :=
  (List.range ((pa % 64 + n + 63) / 64)).all (fun i => s.delivered (.main (pa / 64 * 64 + 64 * i)))

/-- A held transfer passes: its data leaves as it stands now, or with the error of a line that is not delivered any more (R36, R366, R372, R381,
R386, R388). -/
def passHeld (s : State) (h : HeldEgress) : State :=
  match h.exit with
  | .hostRead off len => s.emit (if rangeDelivered s h.pa len then .hostData off (s.bytesAt (.main h.pa) len) else .hostPoisoned off)
  | .peer port line =>
    let l := s.lineAt (.main (64 * line))
    s.emit (if s.delivered (.main (64 * line)) then .peerData port l.1 l.2 else .peerError port)
  | .debugRead line =>
    let l := s.lineAt (.main (64 * line))
    s.emit (if s.delivered (.main (64 * line)) then .debugLine line l.1 l.2 else .debugError)
  | .barge core e => runUnit s core e true

/-- A held transfer fails with weir closed (R368). -/
def failHeld (s : State) (h : HeldEgress) : State :=
  match h.exit with
  | .hostRead off _ => s.emit (.hostAbort off)
  | .peer port _ => s.emit (.peerError port)
  | .debugRead _ => s.emit .debugError
  | .barge core e =>
    let g := (s.core core).engine e
    match g.running with
    | some r => parkBarge s core e r (g.barge r) (g.barge r).cursor 0x2A h.addr
    | none => s

/-- Every held transfer of a disabled region leaves unmetered (R368). -/
def releaseAll (s : State) (i : Nat) : State :=
  let l := (s.weir i).held
  l.foldl passHeld (s.setWeir i { s.weir i with held := [] })

/-- The configuration entry of a write (R365). -/
def weirEntry (s : State) (core i : Nat) : State := s.journal 0x22 core i (s.weir i).a (s.weir i).b

/-- A write to a region's A register: enabling fills the bucket, disabling releases what is held (R365, R368). -/
def writeWeirA (s : State) (core i : Nat) (v : Word) : State :=
  let old := s.weir i
  let w : Weir := { old with a := v &&& weirAMask }
  let w : Weir := if w.on && !old.on then { w with level := w.burst, frac := 0, refillAt := s.timeUnits } else w
  let s := weirEntry (s.setWeir i w) core i
  if old.on && !w.on then releaseAll s i else s

/-- A write to a region's B register: the bucket refills at the new rate from now on, and the level falls to the new burst (R365). -/
def writeWeirB (s : State) (core i : Nat) (v : Word) : State :=
  let w : Weir := { (s.weir i).refilled s.timeUnits with b := v }
  weirEntry (s.setWeir i { w with level := min w.level w.burst }) core i

/-- CR_WEIRA_WRITE (R365). -/
def execCrWeiraWrite (core region : Nat) (v : Word) (s : State) : Result :=
  if !coreExists core || decide (region ≥ 16) then .fault .noSuchUnit else .next (writeWeirA s core region v)

/-- CR_WEIRB_WRITE (R365). -/
def execCrWeirbWrite (core region : Nat) (v : Word) (s : State) : Result :=
  if !coreExists core || decide (region ≥ 16) then .fault .noSuchUnit else .next (writeWeirB s core region v)

/-! ### Refill, timeout, entries (R366, R368) -/

/-- Held transfers pass in order of arrival while the bucket holds their bytes (R366). -/
def drain (s : State) (i : Nat) : Nat → State
  | 0 => s
  | n + 1 =>
    match (s.weir i).held with
    | [] => s
    | h :: t =>
      match weirPass s i h.kind h.bytes h.pa true with
      | none => s
      | some s => drain (passHeld (s.setWeir i { s.weir i with held := t }) h) i n

/-- The bucket gains what its rate gives for the time gone by, and held transfers pass (R366). -/
def refill (s : State) (i : Nat) : State :=
  let w := (s.weir i).refilled s.timeUnits
  if !w.on then s else drain (s.setWeir i w) i w.held.length

/-- WEIR_REFILL (R366). -/
def execWeirRefill (region : Nat) (s : State) : Result :=
  if region ≥ 16 then .fault .noSuchUnit else .next (refill s region)

/-- The transfers held for the region's timeout fail and are counted (R368). -/
def expire (s : State) (i : Nat) : State :=
  let w := s.weir i
  let due := w.held.filter (fun h => decide (h.since + w.timeout ≤ s.timeUnits))
  match due with
  | [] => s
  | h :: _ =>
    let s := s.setWeir i { w with
      held := w.held.filter (fun h => !decide (h.since + w.timeout ≤ s.timeUnits))
      failed := w.failed + due.length
      failedAt := if w.failed = 0 then h.pa else w.failedAt }
    due.foldl failHeld s

/-- WEIR_TIMEOUT (R368). -/
def execWeirTimeout (region : Nat) (s : State) : Result :=
  if region ≥ 16 then .fault .noSuchUnit else .next (expire s region)

/-- The egress and weir-closed entries of a millisecond (R368, R369). -/
def egressEntries (s : State) (i : Nat) : State :=
  let w := s.weir i
  let s := s.setWeir i { w with passed := [], failed := 0, failedAt := 0 }
  let s := w.passed.foldl (fun s p => s.journal 0x20 0xFF (p.1 * 256 + i) (BitVec.ofNat 64 p.2.1) (BitVec.ofNat 64 p.2.2)) s
  if w.failed = 0 then s else s.journal 0x21 0xFF i (BitVec.ofNat 64 w.failed) (BitVec.ofNat 64 w.failedAt)

/-- WEIR_EGRESS_ENTRY (R368). -/
def execWeirEgressEntry (region : Nat) (s : State) : Result :=
  if region ≥ 16 then .fault .noSuchUnit else .next (egressEntries s region)

/-! ### Sensors (R372) -/

/-- A write to `cr.senslim` tightens each limit that it makes narrower; the factory bounds are never passed. -/
def tighten (old new : Word) : Word :=
  let f (x : Word) (hi lo : Nat) : Nat := bitsOf x hi lo
  let temp : BitVec 16 := if ((BitVec.ofNat 16 (f new 47 32)).toInt < (BitVec.ofNat 16 (f old 47 32)).toInt)
    then BitVec.ofNat 16 (f new 47 32) else BitVec.ofNat 16 (f old 47 32)
  BitVec.ofNat 64 (min (f new 63 48) (f old 63 48) * 2 ^ 48 + temp.toNat * 2 ^ 32 + min (f new 31 16) (f old 31 16) * 2 ^ 16
    + max (f new 15 0) (f old 15 0))

/-- The fastest operating point within a clock limit in MHz (R24, R400). -/
def clockPoint (mhz : Nat) : Nat := if 1300 ≤ mhz then 0 else if 1100 ≤ mhz then 1 else if 900 ≤ mhz then 2 else 3

/-- The core clock of an operating point in MHz (R24). -/
def pointClock (p : Nat) : Nat := if p = 0 then 1300 else if p = 1 then 1100 else if p = 2 then 900 else 700

/-- The package runs at the slowest of the requested point, the point its limits allow and the clock limit's, and at 0.7 GHz until gating is back
at step 0 (R400); `cr.sensor` shows a change (R401). -/
def retime (s : State) : State :=
  let p := s.platform
  let r := if p.gating = 0 then max (max p.requested p.allowed) (clockPoint (bitsOf s.sdie.senslim 63 48)) else 3
  let v := s.sdie.sensor
  let s := { s with platform := { p with running := r } }
  if r = p.running then s
  else { s with sdie := { s.sdie with sensor := BitVec.ofNat 64 (bitsOf v 63 48 * 2 ^ 48 + pointClock r * 2 ^ 32 + bitsOf v 31 0) } }

/-- The sensor outside its limit, if any, with its reading and the limit: voltage 0, temperature 1, clock 2. -/
def tripped (lim : Word) (volt temp clock : BitVec 16) : Option (Nat × Word × Word) :=
  if volt.toNat < bitsOf lim 15 0 then some (0, volt.setWidth 64, BitVec.ofNat 64 (bitsOf lim 15 0))
  else if bitsOf lim 31 16 < volt.toNat then some (0, volt.setWidth 64, BitVec.ofNat 64 (bitsOf lim 31 16))
  else if (BitVec.ofNat 16 (bitsOf lim 47 32)).toInt < temp.toInt then some (1, temp.setWidth 64, BitVec.ofNat 64 (bitsOf lim 47 32))
  else if bitsOf lim 63 48 < clock.toNat then some (2, clock.setWidth 64, BitVec.ofNat 64 (bitsOf lim 63 48))
  else none

/-- The erasure: key store, port key caches, the memory-encryption key; every core is told; the journal gains its entry and a
checkpoint (R372, R234). -/
def eraseKeys (s : State) (sensor : Nat) (reading limit : Word) : State :=
  let s := { s with sdie := { s.sdie with keys := [], erased := true },
                    cores := s.cores.map (fun (p : Nat × Core) => (p.1, { p.2 with keyCache := [] })) }
  let s := s.journal 0x70 0xFF (Config.sensorCode sensor).toNat reading limit
  let j := s.sdie.journal
  let s := if j.closed || decide (j.since = 0) then s
    else
      let j := j.checkpoint s.ms
      { s with sdie := { s.sdie with journal := { j with closed := decide (j.used ≥ 2039) } } }
  (List.range 256).foldl (fun s k => pushSq s k .sensor ⟨sqWord0 0x31 7 0 0 false false 0, 0, 0, 0⟩) s

/-- `cr.sensor`. -/
def sensorWord (d : Sdie) : Word :=
  BitVec.ofNat 64 (bitsOf d.sensor 47 0 + (if d.erased then 2 ^ 48 else 0))

/-- The sensor that the reading which the block holds is outside its limit by. -/
def Sdie.outside (d : Sdie) : Option (Nat × Word × Word) :=
  tripped d.senslim (BitVec.ofNat 16 (bitsOf d.sensor 15 0)) (BitVec.ofNat 16 (bitsOf d.sensor 31 16)) (BitVec.ofNat 16 (bitsOf d.sensor 47 32))

/-- A write to `cr.senslim` (R372): the package runs no faster than its clock limit (R400), and a reading that the new limits shut out, and the
old ones did not, erases the keys. -/
def setSenslim (s : State) (v : Word) : State :=
  let t := retime { s with sdie := { s.sdie with senslim := tighten s.sdie.senslim v } }
  match t.sdie.outside with
  | some (n, r, l) => if s.sdie.outside.isNone then eraseKeys t n r l else t
  | none => t

/-- CR_SENSLIM_WRITE (R372). -/
def execCrSenslimWrite (v : Word) (s : State) : Result := .next (setSenslim s v)

/-- SENSOR_TRIP (R372): a reading of the sensors; one outside a limit erases the keys. -/
def execSensorTrip (volt temp clock : BitVec 16) (s : State) : Result :=
  let s := { s with sdie := { s.sdie with sensor := BitVec.ofNat 64 (clock.toNat * 2 ^ 32 + temp.toNat * 2 ^ 16 + volt.toNat) } }
  .next (match tripped s.sdie.senslim volt temp clock with
    | some (n, r, l) => eraseKeys s n r l
    | none => s)

end Sys2Proof.Machine
end

