-- ==== Sys2Proof/Machine/CtrlRegs.lean ====
section
/-! DEFINITION. The control registers (R231, R243, R254 to R257): what each reads as, and what a write to it does. -/

namespace Sys2Proof.Machine

/-- The level a register number is reserved to (R254 to R257). -/
def crLevel (n : Nat) : Level := if n < 0x100 then .u else if 0x200 ≤ n ∧ n < 0x300 then .m else .s

/-! ### Reading -/

/-- A word of the head record of the supervisor queue; 0 when it is empty (R255). -/
def headWord (c : Core) (i : Nat) : Word :=
  match c.sq with
  | [] => 0
  | r :: _ => if i = 0 then r.w0 else if i = 1 then r.w1 else if i = 2 then r.w2 else r.w3

/-- `cr.slotmap0` and `cr.slotmap1` (R255). -/
def slotMap (c : Core) (base : Nat) : Word :=
  BitVec.ofNat 64 ((List.range 8).foldl (fun v i => v + (match c.boundTo (base + i) with
    | some k => (32 + k) * 2 ^ (6 * i)
    | none => 0)) 0)

def CtxState.code : CtxState → Nat
  | .free => 0 | .bound => 1 | .parked => 2

/-- `cr.ctxmap` (R255). -/
def ctxMap (c : Core) : Word :=
  BitVec.ofNat 64 ((List.range 24).foldl (fun v i => v + (c.ctx i).st.code * 2 ^ (2 * i)) 0)

/-- The value of the per-thread registers (R254). -/
def readThreadCr (s : State) (r : ThreadRef) (n : Nat) : Word :=
  let c := s.core r.core
  let x := s.ctxOf r
  if n = 0x000 then statusWord c x
  else if n = 0x001 then x.fflags.setWidth 64
  else if n = 0x002 then x.rcnt
  else if n = 0x003 then x.win
  else if n = 0x004 then x.wsp
  else if n = 0x005 then x.lease.setWidth 64
  else if n = 0x006 then BitVec.ofNat 64 (r.ctx % 32 * 2 ^ 12 + threadId r.core x.slot)
  else if n = 0x007 then x.rcb.setWidth 64
  else if n = 0x008 then x.tcause
  else if n = 0x009 then x.tval
  else if n = 0x00A then x.tpc
  else if n = 0x00C then BitVec.ofNat 64 s.cycle
  else SMap.get 0 x.floors (n - 0x010)

/-- The value of the registers of a core and of the package (R255 to R257). -/
def readCoreCr (s : State) (k n : Nat) : Word :=
  let c := s.core k
  if n < 0x104 then headWord c (n - 0x100)
  else if n = 0x104 then 0
  else if n = 0x105 then BitVec.ofNat 64 (c.sq.length % 128 + (if c.heldSq.isEmpty then 0 else 128))
  else if n = 0x108 then slotMap c 0
  else if n = 0x109 then slotMap c 8
  else if n = 0x10A then ctxMap c
  else if n = 0x10C then c.slotpartReg
  else if n = 0x10D then c.bankpart0
  else if n = 0x10E then c.bankpart1
  else if n = 0x110 then c.troot
  else if n = 0x112 then c.qtable
  else if n = 0x200 then c.mentry
  else if n = 0x201 then c.mresume
  else if n = 0x202 then c.mreason
  else if n = 0x203 then c.mdetail
  else if n < 0x230 then SMap.get 0 c.pwin (n - 0x210)
  else if n = 0x230 then keymapWord s.sdie
  else if n < 0x260 then
    let w := s.weir ((n - 0x240) / 2)
    if n % 2 = 0 then w.a else w.b
  else if n = 0x260 then BitVec.ofNat 64 s.sdie.journal.head
  else if n = 0x261 then BitVec.ofNat 64 s.sdie.journal.exportPt
  else if n = 0x262 then jstatWord s.sdie
  else if n = 0x270 then sensorWord s.sdie
  else if n = 0x271 then s.sdie.senslim
  else if n < 0x304 then SMap.get 0 c.pcmp (n - 0x300)
  else if n = 0x304 then c.pcmpctl
  else if n = 0x308 then c.tracectl
  else if n < 0x380 then SMap.get 0 c.slotcnt (n - 0x340)
  else SMap.get 0 c.readyhist (n - 0x380)

/-- The value of control register `n` as context `r` reads it. -/
def readCr (s : State) (r : ThreadRef) (n : Nat) : Word := if n < 0x100 then readThreadCr s r n else readCoreCr s r.core n

/-! ### Writing -/

/-- A write to a per-thread register (R231, R254); read-only registers keep their values. -/
def writeThreadCr (x : Context) (n : Nat) (v : Word) : Context :=
  if n = 0x000 then (if x.level = .u then x else { x with step := v.getLsbD 8 })
  else if n = 0x001 then { x with fflags := BitVec.ofNat 5 v.toNat }
  else if n = 0x002 then { x with rcnt := v }
  else if n = 0x003 then setWin x v
  else if n = 0x004 then { x with wsp := v }
  else if n = 0x005 then { x with lease := BitVec.ofNat 16 v.toNat }
  else if n < 0x010 then x
  else { x with floors := SMap.set 0 x.floors (n - 0x010) (v &&& floorMask) }

/-- A write to `cr.troot` keeps the root and the enable and acts as a TFENCE for the core (R314). -/
def writeTroot (s : State) (k : Nat) (v : Word) : State :=
  tfence (s.setCore k { s.core k with troot := v &&& 0x000FFFFFFFFFF801 }) k

/-- A write to `cr.bankpart0` or `cr.bankpart1` applies to every access made after it (R340). -/
def writeBankpart (s : State) (k : Nat) (hi : Bool) (v : Word) : State :=
  s.setCore k (if hi then { s.core k with bankpart1 := v } else { s.core k with bankpart0 := v })

/-- A write to `cr.slotpart`; each slot's field comes into force at the slot's next offer (R340). -/
def writeSlotpart (s : State) (k : Nat) (v : Word) : State := s.setCore k { s.core k with slotpartReg := v }

/-- A write to `cr.qtable` (R255); the round-region records follow core 0's: each reads its line of the table there (R159, R288, R321). -/
def writeQtable (s : State) (k : Nat) (v : Word) : State :=
  let s := s.setCore k { s.core k with qtable := v &&& 0x000FFFFFFFFC0000 }
  if k = 0 then ((List.range 4096).foldl (fun s i => (s.reloadRegion i).trackRecord i) s).trackTables else s

/-- A write to a register of a core or of the package (R243, R255 to R257). -/
def writeCoreCr (s : State) (k n : Nat) (v : Word) : State :=
  let c := s.core k
  if n = 0x104 then popSq s k
  else if n = 0x10C then writeSlotpart s k v
  else if n = 0x10D then writeBankpart s k false v
  else if n = 0x10E then writeBankpart s k true v
  else if n = 0x110 then writeTroot s k v
  else if n = 0x112 then writeQtable s k v
  else if n = 0x200 then s.setCore k { c with mentry := v }
  else if n = 0x201 then s.setCore k { c with mresume := v }
  else if n = 0x202 then s.setCore k { c with mreason := v &&& 0x1FF }
  else if n = 0x203 then s.setCore k { c with mdetail := v }
  else if n < 0x210 then s
  else if n < 0x230 then s.setCore k { c with pwin := SMap.set 0 c.pwin (n - 0x210) (v &&& (if n % 2 = 0 then 0x3FFFFFFFFFFFFFFF else 0xFFFFF)) }
  else if n = 0x230 then s
  else if n < 0x260 then (if n % 2 = 0 then writeWeirA s k ((n - 0x240) / 2) v else writeWeirB s k ((n - 0x240) / 2) v)
  else if n = 0x261 then setExport s v
  else if n = 0x271 then setSenslim s v
  else if n < 0x300 then s
  else if n < 0x304 then s.setCore k { c with pcmp := SMap.set 0 c.pcmp (n - 0x300) v }
  else if n = 0x304 then s.setCore k { c with pcmpctl := v }
  else if n = 0x308 then s.setCore k { c with tracectl := v &&& 0x7FFF01FF }
  else if n < 0x340 then s
  else if n < 0x380 then s.setCore k { c with slotcnt := SMap.set 0 c.slotcnt (n - 0x340) (SMap.get 0 c.slotcnt (n - 0x340) &&& ~~~v) }
  else s.setCore k { c with readyhist := SMap.set 0 c.readyhist (n - 0x380) (SMap.get 0 c.readyhist (n - 0x380) &&& ~~~v) }

/-- A write of the executing thread to control register `n`. -/
def writeCr (s : State) (n : Nat) (v : Word) : State :=
  if n < 0x100 then s.setMe (writeThreadCr s.me n v) else writeCoreCr s s.cur.core n v

/-- CRR (R243). -/
def execCrr (d : BitVec 5) (c : BitVec 10) (s : State) : Result :=
  .next (
    if !crAssigned c.toNat then trap s 0x02 s.irWord
    else atLeast (crLevel c.toNat) s (fun s => writeRetire s d (readCr s s.cur c.toNat)))

/-- CRW (R243): the old value goes to S[d]. -/
def execCrw (d a : BitVec 5) (c : BitVec 10) (s : State) : Result :=
  .next (
    if !crAssigned c.toNat then trap s 0x02 s.irWord
    else atLeast (crLevel c.toNat) s (fun s =>
      let old := readCr s s.cur c.toNat
      writeRetire (writeCr s c.toNat (s.S a)) d old))

/-! ### The writes as steps of their own -/

/-- CR_SQPOP_WRITE (R255). -/
def execCrSqpopWrite (core : Nat) (_v : Word) (s : State) : Result :=
  if !coreExists core then .fault .noSuchUnit else .next (popSq s core)

/-- CR_TROOT_WRITE (R314). -/
def execCrTrootWrite (core : Nat) (v : Word) (s : State) : Result :=
  if !coreExists core then .fault .noSuchUnit else .next (writeTroot s core v)

/-- CR_SLOTPART_WRITE (R340). -/
def execCrSlotpartWrite (core : Nat) (v : Word) (s : State) : Result :=
  if !coreExists core then .fault .noSuchUnit else .next (writeSlotpart s core v)

/-- CR_BANKPART_WRITE (R340). -/
def execCrBankpartWrite (core : Nat) (hi : Bool) (v : Word) (s : State) : Result :=
  if !coreExists core then .fault .noSuchUnit else .next (writeBankpart s core hi v)

/-- A slot's field of `cr.slotpart` comes into force at the slot's offer: a context of another partition is pre-empted, and a
vacant slot is open to its new tenants (R340). -/
def applySlotpart (s : State) (k slot : Nat) : State :=
  let c := s.core k
  let old := bitsOf c.slotpart (4 * slot + 3) (4 * slot)
  let new := bitsOf c.slotpartReg (4 * slot + 3) (4 * slot)
  if slot = 15 ∨ old = new then s
  else
    let mask : Word := BitVec.ofNat 64 (15 * 2 ^ (4 * slot))
    let s := s.setCore k { c with slotpart := (c.slotpart &&& ~~~mask) ||| BitVec.ofNat 64 (new * 2 ^ (4 * slot)) }
    match c.boundTo slot with
    | some i => if (s.reg (c.ctx i).rcb.toNat).part = new then s else parkPoint s ⟨k, i⟩
    | none => vacate s k slot

end Sys2Proof.Machine
end

