-- ==== Sys2Proof/Machine/Launch.lean ====
section
/-! DEFINITION. Launching RCBs and their entry threads (R326 to R330), budgets and periods (R336), endings (R337), quiescence
(R103) and the replay of task graphs (R345, R346). -/

namespace Sys2Proof.Machine

/-! ### The S-die's accesses -/

/-- The S-die as a party; tree addresses it is given are translated by core 0x00's tables. Its clock is raised to the package minimum before
use (R302). -/
def sdieWho (s : State) : Who := { saveWho s 0 with clk := s.sdieClk }

def State.raiseSdie (s : State) (c : Nat) : State := { s with micro := { s.micro with clkSdie := max s.micro.clkSdie c } }

/-- A write by the S-die at the line's home, with its round (R300, R319, R321). -/
def sdieStore (s : State) (t : Target) (bs : ByteList) (side : Option Word) : State :=
  let a := storeQuiet s (sdieWho s) t bs side
  takeRound (a.2.2.raiseSdie a.1) t.loc.line a.2.1

/-- A read by the S-die at the line's home (R300, R301). -/
def sdieRead (s : State) (t : Target) : (LineData × Word) × State :=
  let a := loadQuiet s (sdieWho s) t
  (a.line, a.st.raiseSdie a.clk)

/-- The S-die copies a line with its sideband. -/
def sdieCopy (s : State) (src dst : Target) : State :=
  let a := sdieRead s src
  sdieStore a.2 dst (natToBytes 64 a.1.1.toNat) (some a.1.2)

/-- Check whole lines for the S-die, from `va` on; it reads none of a protected egress region (R367). -/
def sdieLines (s : State) (va : Nat) (n : Need) : Nat → Option (List Target) × State
  | 0 => (some [], s)
  | k + 1 =>
    match check s (sdieWho s) va { n with size := 64 } with
    | (.error _, s) => (none, s)
    | (.ok t, s) =>
      if n.r && s.inEgress t.loc then (none, s)
      else match sdieLines s (va + 64) n k with
      | (none, s) => (none, s)
      | (some l, s) => (some (t :: l), s)

/-- The bytes of checked lines, read in order. -/
def sdieBytes (s : State) : List Target → ByteList × State
  | [] => ([], s)
  | t :: l =>
    let a := sdieRead s t
    let b := sdieBytes a.2 l
    (natToBytes 64 a.1.1.toNat ++ b.1, b.2)

/-- A doubleword of a list of bytes. -/
def wordAt (bs : ByteList) (o : Nat) : Word := BitVec.ofNat 64 (bytesToNat ((bs.drop o).take 8))

/-- The home of each line that a device's operation needs serves it now, or the first that does not has been asked (R305, R323). -/
def deviceGates (s : State) : List Nat → Bool × State
  | [] => (true, s)
  | l :: ls =>
    match deviceGate s l with
    | (false, s) => (false, s)
    | (true, s) => deviceGates s ls

/-- JOIN on a tree address by the device, at level S (R157, R337): whether it has been made. One that is refused, or that the home of the block or
of its queue does not serve now (R305, R323), is not. -/
def deviceJoin (s : State) (a : Word) : Bool × State :=
  match check s (sdieWho s) a.toNat { r := true, w := true, size := 128, atomic := true } with
  | (.error _, _) => (false, s)
  | (.ok t, s) =>
    match deviceGates s (t.loc.line :: joinLines s t) with
    | (false, s) => (false, s)
    | (true, s) =>
      match joinAt s { sdieWho s with device := true } t false a with
      | .error _ => (false, s)
      | .ok (_, j) => (true, takeRound (j.2.2.raiseSdie j.1) t.loc.line j.2.1)

/-- Perform a JOIN for RCB `id` (2,048 for a graph); one refused is kept and retried (R337). -/
def tryJoin (s : State) (id : Nat) (a : Word) : State × Bool :=
  if a = 0 then (s, true)
  else match deviceJoin s a with
    | (true, s) => (s, true)
    | (false, s) => ({ s with endJoins := s.endJoins ++ [(id, a)] }, false)

/-! ### Launch (R328, R329) -/

/-- An RCB and the parents its chain reads. -/
def State.rcbChain (s : State) : Nat → Nat → List Nat
  | 0, _ => []
  | n + 1, i =>
    let p := s.rcbWord i 0
    i :: (if p.getLsbD 11 then s.rcbChain n (bitsOf p 10 0) else [])

def Dispenser.register (d : Dispenser) (id : Nat) : Dispenser := if d.regs.contains id then d else { d with regs := d.regs ++ [id] }

def Dispenser.unregister (d : Dispenser) (id : Nat) : Dispenser :=
  { d with regs := d.regs.filter (fun r => decide (r ≠ id)), deficit := SMap.set 0 d.deficit id 0, usedSince := SMap.set 0 d.usedSince id 0 }

/-- Register an RCB with the dispensers of some clusters. -/
def registerAt (s : State) (id : Nat) (cls : List Nat) : State :=
  cls.foldl (fun s c => { s with dispensers := SMap.set {} s.dispensers c ((SMap.get {} s.dispensers c).register id) }) s

/-- A dispenser that has 128 registrations takes no further RCB (R329). -/
def dispenserFull (s : State) (id c : Nat) : Bool :=
  let d := SMap.get {} s.dispensers c
  !d.regs.contains id && decide (d.regs.length ≥ 128)

/-- The launch unit and the dispensers read the RCB with tracking reads (R321, R326). -/
def trackRcb (s : State) (id : Nat) (cls : List Nat) : State :=
  let lines (i : Nat) : List Nat := [s.rcbAddr i / 64, s.rcbAddr i / 64 + 1]
  let s := ((s.rcbChain 9 id).flatMap lines).foldl (fun s l => s.track .sdie l) s
  cls.foldl (fun s c => (lines id).foldl (fun s l => s.track (.dispenser c) l) s) s

/-- An RCB and the parents that its chain reads lie in main memory (R16). -/
def State.rcbBacked (s : State) (id : Nat) : Bool := (s.rcbChain 9 id).all s.rcbHere

/-- LAUNCH of an RCB (R329); `dbg` is the core of a debug launch, which takes the slot mask as empty (R389). `none` where it
is refused, and then nothing has changed. Of must-be-zero bits those of the launched RCB are tested, and not those of a parent from which a
field is inherited (R328; DESIGN CHOICE, log 52). -/
def launchRcb (s : State) (id : Nat) (dbg : Option Nat) : Option State :=
  if id ≥ 2048 ∨ s.rcbBacked id = false then none
  else match s.resolve id with
    | none => none
    | some g =>
      let run := s.rcbWord id 0x78
      let g := if dbg.isSome then { g with slotMask := 0 } else g
      let cls := (List.range 64).filter (fun c => g.placement.getLsbD c)
      let cls := match dbg with
        | some k => if cls.contains (clusterOf k) then cls else cls ++ [clusterOf k]
        | none => cls
      if s.rcbReserved id || g.slotMask.testBit 15 || decide (g.saveAreas < 2) || run.getLsbD 1
          || (dbg.isNone && decide (g.slotMask = 0) && !g.workQueueValid) || cls.any (fun c => dispenserFull s id c) then none
      else
        let s := trackRcb s id cls
        let s := registerAt (s.setReg id g) id cls
        let s := s.physWrite (s.rcbAddr id + 0x78) (natToBytes 8 (bitsOf run 0 0 + 2)) s.sdieClk
        let s := s.raiseSdie (s.micro.homeLine ((s.rcbAddr id + 0x78) / 64)).wts
        let slots := cls.flatMap (fun c => ((List.range 4).filter (fun i => g.coreMask.testBit i)).flatMap (fun i =>
          ((List.range 15).filter (fun n => g.slotMask.testBit n && decide ((s.core (4 * c + i)).partOf n = g.part))).map
            (fun n => (⟨4 * c + i, n, id⟩ : EntryWait))))
        let s := { s with entryWaits := s.entryWaits ++ slots }
        let s := s.post (slots.map (fun e => Instr.entryThreadCreate e.core e.slot e.rcb))
        some (cls.foldl (fun s c => s.poll c) s)

/-- ENTRY_THREAD_CREATE (R329, R336, R344): an entry thread is created when its slot is vacant and a save area can be
allocated; until then it waits. -/
def execEntryThreadCreate (core slot rcb : Nat) (s : State) : Result :=
  if !coreExists core || decide (slot ≥ 16) || decide (rcb ≥ 2048) then .fault .noSuchUnit
  else
    let w : EntryWait := ⟨core, slot, rcb⟩
    let g := s.reg rcb
    let c := s.core core
    if !s.entryWaits.contains w || !g.launched || s.held rcb || g.exhausted || (c.boundTo slot).isSome || c.owed slot || c.dead
        || decide (c.partOf slot ≠ g.part) then .next s
    else match createContext s core slot rcb g.entry g.args g.frame 0 (s.sdieClk + 1) (.entry slot rcb) with
      | .error s => .next s
      | .ok s => .next { s with entryWaits := s.entryWaits.erase w }

/-! ### Budgets (R336) -/

/-- A context of an RCB: a supervisor context belongs to none (R329, R398), and has no save area. -/
def Context.ofRcb (x : Context) (rcb : Nat) : Bool := decide (x.rcb.toNat = rcb) && (decide (x.slot ≠ 15) || decide (x.save ≠ 0))

/-- Contexts of an RCB, by core and number. -/
def contextsOf (s : State) (rcb : Nat) (p : Context → Bool) : List ThreadRef :=
  s.cores.flatMap (fun c => (c.2.resident.filter (fun x => x.2.ofRcb rcb && p x.2)).map (fun x => ⟨c.1, x.1⟩))

/-- Pre-empt every bound context of an RCB whose budget is spent; those that have not come back since the last time wait on. -/
def exhaust (s : State) (rcb : Nat) : State :=
  let s := s.mapCtxs (fun _ _ x => if x.ofRcb rcb then { x with budgetDue := false } else x)
  let s := { s with cores := s.cores.map (fun (p : Nat × Core) => (p.1, { p.2 with budgetSpills := p.2.budgetSpills.map (fun (e : BudgetSpill) =>
    if e.rcb = rcb then { e with due := false } else e) })) }
  (contextsOf s rcb (fun x => decide (x.st = .bound))).foldl budgetPoint s

/-- The slot-cycles of an RCB counted since the last update are added to its consumed field; an RCB that reaches its budget is exhausted for
the period (R336). -/
def addConsumed (s : State) (rcb : Nat) : State :=
  let g := s.reg rcb
  if !g.launched then s
  else
    let used := (bitsOf (s.rcbWord rcb 0x20) 39 0 + g.pendingUse) % 2 ^ 40
    if !s.rcbHere rcb then s
    else
    let s := s.physWrite (s.rcbAddr rcb + 0x20) (natToBytes 8 used) s.sdieClk
    let s := s.setReg rcb { g with pendingUse := 0 }
    if g.budget = 0 ∨ used < g.budget ∨ g.exhausted = true then s
    else
      let s := exhaust (s.setReg rcb { s.reg rcb with exhausted := true, budgetTold := true }) rcb
      if g.budgetTold then s else rcbEvent s rcb 0x28

/-- CONSUMED_UPDATE (R336). -/
def execConsumedUpdate (rcb : Nat) (s : State) : Result := if rcb ≥ 2048 then .fault .noSuchUnit else .next (addConsumed s rcb)

/-- A context parked for its budget takes its home slot now if that is vacant (R336). -/
def renew (s : State) (r : ThreadRef) : State :=
  let x := s.ctxOf r
  let s := s.setCtx r { x with budgetDue := true }
  if ((s.core r.core).boundTo x.slot).isNone then bindHome s r else s

/-- PERIOD_START (R336): consumed fields return to zero; the contexts parked for their budgets may run, and those not yet parked run on. -/
def execPeriodStart (s : State) : Result :=
  let ids := (s.rcbs.filter (fun p => p.2.launched)).map (·.1)
  let s := ids.foldl (fun s i =>
    let s := if s.rcbHere i then s.physWrite (s.rcbAddr i + 0x20) (natToBytes 8 0) s.sdieClk else s
    s.setReg i { s.reg i with exhausted := false, budgetTold := false, pendingUse := 0 }) s
  let s := s.mapCtxs (fun _ _ x => { x with budgetStop := false })
  let s := { s with cores := s.cores.map (fun (p : Nat × Core) => (p.1, { p.2 with budgetSpills := p.2.budgetSpills.map (fun (e : BudgetSpill) => { e with due := true }) })) }
  let back := s.cores.flatMap (fun c => (c.2.resident.filter (fun x => decide (x.2.st = .parked) && x.2.budgetParked)).map
    (fun x => (⟨c.1, x.1⟩ : ThreadRef)))
  .next (back.foldl renew s)

/-- A context that was parked for its budget and then spilled comes back to its vacant home slot, once a period has started and every barge of its
thread has completed: it takes a free context, which may need a spill, and is restored from its image (R87, R330, R336). -/
def returnSpilled (s : State) (k : Nat) (e : BudgetSpill) : State :=
  let c := s.core k
  if !e.due || (c.boundTo e.slot).isSome || c.dead then s
  else match savedWords s k e.save 13 [] 0 with
    | (none, s) => s
    | (some (ws, clk), s) =>
      if ws.getD 98 0 ≠ 0 then s
      else match needCtx s k (.back e.save) 24 with
        | (none, s) => s
        | (some i, s) =>
          let r : ThreadRef := ⟨k, i⟩
          bindHome (restoreCtx s r (filledContext s e.save e.slot ws) clk) r

/-- The spilled contexts whose slots are vacant come back. -/
def returnAll (s : State) : State :=
  s.cores.foldl (fun s (p : Nat × Core) => p.2.budgetSpills.foldl (fun s e => returnSpilled s p.1 e) s) s

/-! ### Quiescence (R103) -/

/-- A message of the RCB is in flight: a request of one of its threads, or the answer to one. -/
def messageOf (s : State) (rcb : Nat) (i : Instr) : Bool :=
  let mine (r : ThreadRef) : Bool := (s.ctxOf r).ofRcb rcb
  match i with
  | .homeDequeue q => mine q.who
  | .homeEnqueue q => mine q.who
  | .homeAtomic q => mine q.who
  | .homeJoin _ r _ => mine r
  | .regionRpub _ r _ => mine r
  | .remoteBarrierOperation m => mine m.who
  | .hubCommand m => mine m.who
  | .sendCommandReceipt m => mine m.who
  | .replyDelivery _ _ r => mine r
  | .memoryReply k i => mine ⟨k, i⟩
  | .boundedRequest k i => mine ⟨k, i⟩
  | _ => false

/-- Every message under way: on the agenda, on the mesh, let go by a home, standing at one, waiting for a move or in a hub's buffer (R305, R323, R352). -/
def State.inFlight (s : State) : List Instr :=
  s.agenda ++ s.due ++ s.mesh.messages ++ s.micro.home.flatMap (fun p => p.2.waiting) ++ s.micro.retry.map (·.2) ++ s.hubBuf.flatMap (·.2)

/-- A kind of wait that quiescence counts. -/
def quietWait (x : Context) : Bool := !x.stopped && (x.waitKind == 2 || x.waitKind == 3 || x.waitKind == 4 || x.waitKind == 5 || x.waitKind == 6 || x.waitKind == 8)

/-- Whether the cycle counts towards the quiescence of an RCB. A barge that a supervisor issued counts among those of RCB 0, whose id its record
holds, though its context counts among none (DESIGN CHOICE, log 77). -/
def quiet (s : State) (rcb : Nat) : Bool :=
  let bound := contextsOf s rcb (fun x => decide (x.st = .bound))
  !bound.isEmpty && bound.all (fun r => quietWait (s.ctxOf r))
    && s.cores.all (fun c => c.2.engines.all (fun e => e.2.recs.all (fun b =>
         !(decide (b.2.rcb.toNat = rcb) && (decide (b.2.st = .queued) || decide (b.2.st = .running))))))
    && s.inFlight.all (fun i => !messageOf s rcb i)

/-- One cycle of an RCB's quiescence counter: a record is due when it reaches 2^16, and no further one until it has returned to zero. -/
def countQuiet (s : State) (rcb : Nat) : State :=
  let g := s.reg rcb
  if quiet s rcb then
    if g.quietCycles + 1 ≥ 2 ^ 16 ∧ g.quietTold = false then
      { s.setReg rcb { g with quietCycles := 2 ^ 16, quietTold := true, quietDue := g.quietDue + 1 } with due := s.due ++ [.quiescent rcb] }
    else s.setReg rcb { g with quietCycles := min (2 ^ 16) (g.quietCycles + 1) }
  else s.setReg rcb { g with quietCycles := 0, quietTold := false }

/-- QUIESCENT (R103): the record that is due is written. -/
def execQuiescent (rcb : Nat) (s : State) : Result :=
  if rcb ≥ 2048 then .fault .noSuchUnit
  else
    let g := s.reg rcb
    if g.quietDue = 0 then .next s
    else .next (rcbEvent (s.setReg rcb { g with quietDue := g.quietDue - 1 }) rcb 0x29)

/-! ### Task graphs (R345, R346) -/

/-- A node of a graph. -/
structure GraphNode where
  template : ByteList
  succ : List Nat
  params : Nat
  deriving DecidableEq, Repr

/-- A graph descriptor's fields, within their limits (R345). -/
structure GraphDesc where
  nodes : Nat
  count : Nat
  slots : Nat
  lines : Nat
  frames : Nat
  rcbBase : Nat
  join : Word
  sequence : Nat
  deriving DecidableEq, Repr

def graphDesc (bs : ByteList) : Option GraphDesc :=
  let w (o : Nat) : Word := wordAt bs o
  let d : GraphDesc := ⟨bitsOf (w 0) 55 0, bitsOf (w 8) 8 0, bitsOf (w 8) 19 16 + 1, bitsOf (w 8) 29 24 + 1, (w 0x10).toNat,
    bitsOf (w 0x18) 10 0, w 0x20, (w 0x28).toNat⟩
  if bitsOf (w 0) 63 56 ≠ 0 ∨ d.nodes % 256 ≠ 0 ∨ d.count = 0 ∨ 256 < d.count ∨ bitsOf (w 8) 15 9 ≠ 0 ∨ bitsOf (w 8) 23 20 ≠ 0
      ∨ bitsOf (w 8) 63 30 ≠ 0 ∨ d.frames % 64 ≠ 0 ∨ bitsOf (w 0x18) 63 11 ≠ 0 ∨ d.rcbBase + d.slots * d.count > 2048
      ∨ w 0x30 ≠ 0 ∨ w 0x38 ≠ 0 then none
  else some d

def graphNode (n : Nat) (bs : ByteList) : Option GraphNode :=
  let cnt := bitsOf (wordAt bs 0x88) 3 0
  let succ := ((List.range cnt).map (fun i => (bs.getD (0x80 + i) 0).toNat)).eraseDups
  let params := (wordAt bs 0x90).toNat
  if 8 < cnt ∨ bitsOf (wordAt bs 0x88) 63 4 ≠ 0 ∨ params % 64 ≠ 0 ∨ succ.any (fun i => decide (i ≥ n)) = true
      ∨ (bs.drop 0x98).any (fun b => decide (b ≠ 0)) = true then none
  else some ⟨bs.take 128, succ, params⟩

/-- Predecessor counts (R345): the number of lists that name each node. -/
def predecessors (succ : List (List Nat)) (i : Nat) : Nat := (succ.filter (fun l => l.contains i)).length

/-- The nodes left after removing, again and again, those no remaining list names: none where there is no cycle. -/
def cyclic (succ : List (List Nat)) : Nat → List Nat → Bool
  | 0, left => !left.isEmpty
  | n + 1, left => cyclic succ n (left.filter (fun i => left.any (fun j => (succ.getD j []).contains i)))

/-- Read the node entries. -/
def readNodes (s : State) (base n : Nat) : Nat → Option (List GraphNode) × State
  | 0 => (some [], s)
  | k + 1 =>
    match sdieLines s (base + 256 * (n - (k + 1))) { r := true } 4 with
    | (none, s) => (none, s)
    | (some l, s) =>
      let b := sdieBytes s l
      match graphNode n b.1 with
      | none => (none, b.2)
      | some x =>
        match readNodes b.2 base n k with
        | (none, s) => (none, s)
        | (some xs, s) => (some (x :: xs), s)

/-- The checked source and destination lines of every node's parameters. -/
def paramLines (s : State) (d : GraphDesc) (slot : Nat) : List GraphNode → Nat → Option (List (Target × Target)) × State
  | [], _ => (some [], s)
  | x :: xs, i =>
    match sdieLines s x.params { r := true } d.lines with
    | (none, s) => (none, s)
    | (some src, s) =>
      match sdieLines s (d.frames + (slot * d.count + i) * (64 * d.lines)) { w := true } d.lines with
      | (none, s) => (none, s)
      | (some dst, s) =>
        match paramLines s d slot xs (i + 1) with
        | (none, s) => (none, s)
        | (some l, s) => (some (src.zip dst ++ l), s)

/-- A node that cannot be launched ends its replay: a kind 7 record goes to the fault queue of the template's domain (R346). -/
def nodeFailed (s : State) (id : Nat) : State :=
  let dom := match s.rcbFrom 38 8 id with
    | some f => bitsOf (s.rcbWord f 0x28) 10 0
    | none => bitsOf (s.rcbWord id 0x28) 10 0
  faultEvent s (.graph id) id dom ⟨sqWord0 0x01 7 0 0 false false 0, 0, BitVec.ofNat 64 id, 0⟩

/-- Launch nodes of a replay in increasing number; a refusal stops the replay. The nodes launched, and whether all were. -/
def launchNodes (s : State) (base : Nat) : List Nat → State × List Nat × Bool
  | [] => (s, [], true)
  | i :: t =>
    match launchRcb s (base + i) none with
    | some s => let r := launchNodes s base t; (r.1, i :: r.2.1, r.2.2)
    | none => (nodeFailed s (base + i), [], false)

/-- The RCBs `base` to `base + n - 1` lie in main memory (R16). -/
def State.rcbsHere (s : State) (base n : Nat) : Bool := (List.range n).all (fun i => s.rcbHere (base + i))

/-- How a graph launch command ends. -/
inductive GraphRes where
  | refused
  | waits
  | launched (s : State)

/-- A graph launch (R346, steps 1 to 3). -/
def launchGraph (s : State) (addr : Nat) : GraphRes :=
  if addr % 64 ≠ 0 then .refused
  else match sdieLines s addr { r := true, w := true } 1 with
    | (some [dt], s1) =>
      let b := sdieBytes s1 [dt]
      let s1 := b.2
      match graphDesc b.1 with
      | none => .refused
      | some d =>
        match readNodes s1 d.nodes d.count d.count with
        | (none, _) => .refused
        | (some nodes, s1) =>
          let succ := nodes.map (·.succ)
          let slot := d.sequence % d.slots
          if cyclic succ d.count (List.range d.count) || !s1.rcbsHere (d.rcbBase + slot * d.count) d.count then .refused
          else if s.sdie.replays.any (fun p => decide (p.graph = addr) && decide (p.slot = slot)) then .waits
          else match paramLines s1 d slot nodes 0 with
            | (none, _) => .refused
            | (some pairs, s1) =>
              let s1 := pairs.foldl (fun s p => sdieCopy s p.1 p.2) s1
              let s1 := sdieStore s1 { dt with loc := dt.loc.add 0x28 } (natToBytes 8 ((d.sequence + 1) % 2 ^ 64)) none
              let base := d.rcbBase + slot * d.count
              let s1 := ((List.range d.count).zip nodes).foldl (fun s p =>
                let f := d.frames + (slot * d.count + p.1) * (64 * d.lines)
                let img := p.2.template.take 0x38 ++ natToBytes 8 f ++ p.2.template.drop 0x40
                let a := s.rcbAddr (base + p.1)
                sdieStore (sdieStore s { loc := .main a } (img.take 64) none) { loc := .main (a + 64) } (img.drop 64) none) s1
              let first := (List.range d.count).filter (fun i => decide (predecessors succ i = 0))
              let pending := (List.range d.count).foldl (fun m i => SMap.set 0 m i (predecessors succ i)) []
              let r := launchNodes s1 base first
              -- a replay that has ended with its first launches, none of which was made, holds no slot
              .launched (if r.2.1.isEmpty then r.1 else { r.1 with sdie := { r.1.sdie with
                replays := r.1.sdie.replays ++ [⟨slot, d.count, base, d.join, succ, pending, [], r.2.1, !r.2.2, addr⟩] } })
    | _ => .refused

/-- Whether RCB `id` is a launched node of a replay. -/
def Replay.node (p : Replay) (id : Nat) : Bool := decide (p.rcbBase ≤ id) && p.live.contains (id - p.rcbBase)

/-- A replay after one of its nodes has ended (R346, steps 4 and 5). -/
def replayEnd (s : State) (p : Replay) (id : Nat) : State :=
  let i := id - p.rcbBase
  let succ := p.succ.getD i []
  let pending := succ.foldl (fun m j => SMap.set 0 m j (SMap.get 0 m j - 1)) p.pending
  let ready := succ.filter (fun j => decide (SMap.get 0 pending j = 0) && decide (SMap.get 0 p.pending j ≠ 0))
  let ended := p.ended ++ [i]
  let (s, fresh, ok) := if p.stopped then (s, [], false) else launchNodes s p.rcbBase ready
  let live := p.live.filter (fun j => decide (j ≠ i)) ++ fresh
  let p' : Replay := { p with pending := pending, ended := ended, live := live, stopped := !ok }
  let rest := s.sdie.replays.filter (fun q => decide (q ≠ p))
  if decide (ended.length = p.nodes) && ok then
    (tryJoin { s with sdie := { s.sdie with replays := rest } } 2048 p.join).1
  else if !ok && live.isEmpty then { s with sdie := { s.sdie with replays := rest } }
  else { s with sdie := { s.sdie with replays := rest ++ [p'] } }

/-! ### Ending (R337) -/

/-- An RCB whose JOIN has been made leaves the dispensers, and a replay goes on. -/
def afterEnd (s : State) (id : Nat) : State :=
  let s := if (s.reg id).launched then s
    else { s.setReg id {} with dispensers := (s.dispensers.map (fun (p : Nat × Dispenser) => (p.1, p.2.unregister id))).filter (fun p => decide (p.2 ≠ {})) }
  match s.sdie.replays.find? (fun p => p.node id) with
  | some p => replayEnd s p id
  | none => s

/-- A dispenser has taken a record of a work queue and not yet bound it. -/
def State.takenFrom (s : State) (q : Nat) : Bool := s.dispensers.any (fun d => d.2.taken.any (fun p => decide (p.1 = q)))

/-- A queue is empty: tail equals head, as its descriptor stands in memory (R159), where that is delivered (R36). -/
def State.queueEmpty (s : State) (q : Nat) : Bool :=
  s.delivered (.main (s.queueAddr q)) && decide (bitsOf (s.physWord (s.queueAddr q + 16)) 31 0 = bitsOf (s.physWord (s.queueAddr q + 24)) 31 0)

/-- Whether an RCB ends (R337). A record on its way from the work queue to its binding keeps the queue from counting as
empty. -/
def State.ends (s : State) (id : Nat) : Bool :=
  let g := s.reg id
  let run := s.rcbWord id 0x78
  g.launched && s.rcbHere id && g.existed && decide (bitsOf run 31 16 = 0) && decide (bitsOf run 47 32 = 0)
    && (!g.workQueueValid || (s.queueEmpty g.workQueue && !s.takenFrom g.workQueue))

/-- The entry threads of an RCB need no context any more (R87). -/
def endEntryNeeds (s : State) (rcb : Nat) : State :=
  s.cores.foldl (fun s (p : Nat × Core) => endNeeds s p.1 (fun x => match x with
    | .entry _ r => decide (r = rcb)
    | _ => false)) s

/-- RCB_END (R337): the launched bit is cleared, entry threads still waiting are dropped, and the JOIN is performed. -/
def execRcbEnd (rcb : Nat) (s : State) : Result :=
  if rcb ≥ 2048 then .fault .noSuchUnit
  else if !s.ends rcb then .next s
  else
    let g := s.reg rcb
    let run := s.rcbWord rcb 0x78
    let s := s.physWrite (s.rcbAddr rcb + 0x78) (natToBytes 8 (bitsOf run 0 0)) s.sdieClk
    let s := { s.setReg rcb { g with launched := false } with entryWaits := s.entryWaits.filter (fun e => decide (e.rcb ≠ rcb)) }
    let s := endEntryNeeds s rcb
    let (s, ok) := tryJoin s rcb g.join
    .next (if ok then afterEnd s rcb else s)

/-- RCB_JOIN_RETRY (R337): a refused JOIN is tried again. -/
def execRcbJoinRetry (rcb : Nat) (s : State) : Result :=
  if rcb > 2048 then .fault .noSuchUnit
  else match s.endJoins.find? (fun p => decide (p.1 = rcb)) with
    | none => .next s
    | some p =>
      match deviceJoin s p.2 with
      | (false, s) => .next s
      | (true, s) =>
        let s := { s with endJoins := s.endJoins.erase p }
        .next (if rcb < 2048 then afterEnd s rcb else s)

end Sys2Proof.Machine
end

