-- ==== Sys2Proof/Machine/HostLink.lean ====
section
/-! DEFINITION. The host link, the command ring and its commands, the scale-up fabric and peers (R374 to R386). -/

namespace Sys2Proof.Machine

/-- The host link reports ready (R398). -/
def State.linkUp (s : State) : Bool := decide (s.platform.stage = 6)

/-- A TLP arrives on an established IDE stream (R379). -/
def State.onStream (s : State) (stream : Option Nat) : Bool := s.linkUp && stream.any (fun n => decide (n < 5) && s.sdie.ring.ide.getLsbD n)

/-- The device's own requests use stream 0 (R379). -/
def State.linkReady (s : State) : Bool := s.onStream (some 0)

/-- A TLP that does not arrive on an established IDE stream completes with Unsupported Request and has no effect (R379). -/
def offStream (s : State) (off : Nat) : State := if s.linkUp then s.emit (.hostUnsupported off) else s

def State.setRing (s : State) (r : Ring) : State := { s with sdie := { s.sdie with ring := r } }

/-! ### BAR2 (R381, R382) -/

/-- A window: BAR2 offset, physical base, height, permissions. -/
structure Window where
  off : Nat
  base : Nat
  h : Nat
  rd : Bool
  wr : Bool
  deriving DecidableEq, Repr

/-- Window `i`, where it is delivered, enabled, and its fields are within their limits (R36, R381). -/
def State.window (s : State) (i : Nat) : Option Window :=
  let a := s.qtable + 0xD0000 + 16 * i
  let w0 := s.physWord a
  let w1 := s.physWord (a + 8)
  let h := bitsOf w0 60 56
  let base := bitsOf w0 51 0
  let off := bitsOf w1 37 0
  if !s.delivered (.main a) || !w0.getLsbD 63 || decide (h < 6) || decide (26 < h) || decide (bitsOf w0 55 52 ≠ 0) || decide (bitsOf w1 63 38 ≠ 0)
      || decide (base % 4 ^ h ≠ 0) || decide (off % 4 ^ h ≠ 0) then none
  else some ⟨off, base, h, w0.getLsbD 61, w0.getLsbD 62⟩

/-- The lowest-numbered window whose block contains a BAR2 offset. -/
def State.windowOf (s : State) (o : Nat) : Option Window :=
  ((List.range 16).filterMap (fun i => s.window i)).find? (fun w => decide (o / 4 ^ w.h = w.off / 4 ^ w.h))

/-- The window that serves a TLP, and the physical address, where the address is backed by memory (R16, R381; DESIGN CHOICE, log 34: an
address that is not backed has no entry to serve it). -/
def State.windowAt (s : State) (off n : Nat) : Option (Window × Nat) :=
  match s.windowOf off with
  | none => none
  | some w => if w.base + (off - w.off) + n ≤ s.capacity then some (w, w.base + (off - w.off)) else none

/-- The lines of a physical range. -/
def rangeLines (pa n : Nat) : List Nat := (List.range ((pa % 64 + n + 63) / 64)).map (fun i => pa / 64 + i)

/-- A read's bytes in their order, cut where the egress region changes: the region, if any, the address and the number of bytes (R366). -/
def egressParts (s : State) : List Nat → Nat → Nat → List (Option Nat × Nat × Nat)
  | [], _, _ => []
  | l :: ls, pa, n =>
    let k := min n (64 * l + 64 - pa)
    let r := s.egressOf pa
    match egressParts s ls (pa + k) (n - k) with
    | [] => [(r, pa, k)]
    | x :: xs => if x.1 = r then (r, pa, k + x.2.2) :: xs else (r, pa, k) :: x :: xs

/-- One part of a read leaves, or is held at the weir (R366, R368, R381). -/
def sendPart (s : State) (w : Window) (x : Option Nat × Nat × Nat) : State :=
  let off := w.off + (x.2.1 - w.base)
  match x.1 with
  | none => s.emit (.hostData off (s.bytesAt (.main x.2.1) x.2.2))
  | some i =>
    match weirPass s i .host x.2.2 x.2.1 false with
    | some s => s.emit (.hostData off (s.bytesAt (.main x.2.1) x.2.2))
    | none => s.setWeir i { s.weir i with held := (s.weir i).held ++ [⟨.host, x.2.2, x.2.1, 0, s.timeUnits, .hostRead off x.2.2⟩] }

/-- Every line of a physical range that is read is reported where a watch covers it (R394, R395). -/
def rangeWatch (s : State) (w : Who) (pa n : Nat) : State :=
  (rangeLines pa n).foldl (fun s l => watchReport s w (.main (64 * l)) true false) s

/-- BAR2_READ (R381): data bytes, metered where they come from an egress region; what comes from different regions leaves by itself (R366). -/
def execBar2Read (dest : TlpAddr) (len : Nat) (s : State) : Result :=
  let off := dest.off
  if !tlpOk off len then .fault .noSuchUnit
  else if !s.onStream dest.stream then .next (offStream s off)
  else .next (match s.windowAt off len with
      | none => s.emit (.hostUnsupported off)
      | some (w, pa) =>
        if !w.rd then s.emit (.hostUnsupported off)
        else if !rangeDelivered s pa len then s.emit (.hostPoisoned off)
        else
          let s := rangeWatch s (portWho 0x100 0) pa len
          (egressParts s (rangeLines pa len) pa len).foldl (fun s x => sendPart s w x) s)

/-- A physical write from outside, split at lines; each is made whole at its line's home, with its round (R52, R382). -/
def portWrite (s : State) (port : Nat) : Nat → Nat → ByteList → Nat × State
  | 0, _, _ => (0, s)
  | n + 1, pa, bs =>
    let k := min bs.length (64 - pa % 64)
    if k = 0 then (0, s)
    else
      let a := storeQuiet s (portWho port 0) { loc := .main pa } (bs.take k) none
      let (c, s) := portWrite (takeRound a.2.2 (pa / 64) a.2.1) port n (pa + k) (bs.drop k)
      (max a.1 c, s)

/-- BAR2_WRITE (R381, R382): data bytes only; descriptors and tags keep their values. -/
def execBar2Write (dest : TlpAddr) (bytes : ByteList) (s : State) : Result :=
  let off := dest.off
  if !tlpOk off bytes.length then .fault .noSuchUnit
  else if !s.onStream dest.stream then .next (offStream s off)
  else .next (match s.windowAt off bytes.length with
      | none => s.emit (.hostUnsupported off)
      | some (w, pa) =>
        if !w.wr then s.emit (.hostUnsupported off)
        else
          let (clk, s) := portWrite s 0x100 bytes.length pa bytes
          s.setRing { s.sdie.ring with hostClk := max s.sdie.ring.hostClk clk })

/-! ### The control window (R380) -/

def Ring.k (r : Ring) : Nat := bitsOf r.ctl 4 0
def Ring.enabled (r : Ring) : Bool := r.ctl.getLsbD 8

/-- A write to hc.ringctl: k keeps its value while the ring is enabled; enabling it restarts head and completion tail. -/
def ringCtl (r : Ring) (v : Word) : Ring :=
  let ctl : Word := BitVec.ofNat 64 ((if r.enabled then r.k else bitsOf v 4 0) + (if v.getLsbD 8 then 256 else 0))
  if v.getLsbD 8 && !r.enabled then { r with ctl := ctl, head := 0, tail := 0, cplTail := 0 } else { r with ctl := ctl }

/-- The ring's size is in its range (R380). -/
def Ring.usable (r : Ring) : Bool := r.enabled && decide (4 ≤ r.k) && decide (r.k ≤ 16)

/-- A doorbell: a value too far ahead is ignored (R380, R382). -/
def doorbell (s : State) (v : Word) : State :=
  let r := s.sdie.ring
  let t := bitsOf v 31 0
  if !r.usable || decide ((t + 2 ^ 32 - r.head) % 2 ^ 32 > 2 ^ r.k) then s
  else (s.setRing { r with tail := t, bellClk := r.hostClk }).post [.ringFetch]

/-- HC_RINGTAIL (R380). -/
def execHcRingtail (word : TlpWord) (s : State) : Result :=
  .next (if s.onStream word.stream then doorbell s word.v else offStream s 0x10)

/-- HC_RINGCTL (R380). -/
def execHcRingctl (word : TlpWord) (s : State) : Result :=
  .next (if s.onStream word.stream then s.setRing (ringCtl s.sdie.ring word.v) else offStream s 0x08)

/-- A write to a register of the control window (R380); other offsets ignore writes. -/
def windowWrite (s : State) (off : Nat) (v : Word) : State :=
  let r := s.sdie.ring
  if off = 0x00 then (if r.enabled then s else s.setRing { r with base := v })
  else if off = 0x08 then s.setRing (ringCtl r v)
  else if off = 0x10 then doorbell s v
  else if off = 0x20 then (if r.enabled then s else s.setRing { r with cplBase := v })
  else if off = 0x30 then s.setRing { r with irqctl := v &&& 0x13F }
  else s

/-- Doubleword `i` of the journal window: entry n stands at offset 32 (n mod 2,048) (R369, R380). -/
def journalWindow (j : Journal) (i : Nat) : Word :=
  match j.entries.find? (fun p => decide (p.1 = i / 4)) with
  | none => 0
  | some p => BitVec.ofNat 64 (leNat ((p.2.bytes.drop (8 * (i % 4))).take 8))

/-- What a host read of the control window returns (R380): a write-only register, and an offset that is not listed, reads zero (R6). -/
def windowRead (s : State) (off : Nat) : Word :=
  let r := s.sdie.ring
  if off = 0x00 then r.base
  else if off = 0x08 then r.ctl
  else if off = 0x18 then BitVec.ofNat 64 r.head
  else if off = 0x20 then r.cplBase
  else if off = 0x28 then BitVec.ofNat 64 r.cplTail
  else if off = 0x30 then r.irqctl
  else if off = 0x38 then BitVec.ofNat 64 s.sdie.journal.head
  else if 0x10000 ≤ off ∧ off < 0x20000 ∧ off % 8 = 0 then journalWindow s.sdie.journal ((off - 0x10000) / 8)
  else 0

/-- BAR0_WRITE (R379, R380): a host access to the control window, or the host's establishing or ending its IDE streams. -/
def execBar0Write (dest : TlpAddr) (op : WindowOp) (s : State) : Result :=
  let off := dest.off
  let stream := dest.stream
  .next (match op with
    | .ide n up =>
      let bit : BitVec 5 := BitVec.ofNat 5 (if n < 5 then 2 ^ n else 0)
      if s.linkUp then s.setRing { s.sdie.ring with ide := if up then s.sdie.ring.ide ||| bit else s.sdie.ring.ide &&& ~~~bit } else s
    | .write v => if s.onStream stream then windowWrite s off v else offStream s off
    | .read => if s.onStream stream then s.emit (.windowData off (windowRead s off)) else offStream s off)

/-! ### Commands (R374 to R378) -/

/-- What a command gives: status, result, the state after it; `none` where a graph launch waits. -/
abbrev CmdRes := Option (Nat × Nat × State)

def natsOf (bs : ByteList) : List Nat := bs.map (·.toNat)

/-- OPEN (R375); one that is refused leaves the session as it was (DESIGN CHOICE, log 84). -/
def cmdOpen (s : State) (ops : ByteList) : CmdRes :=
  let x := beNat (natsOf (ops.take 48))
  let y := beNat (natsOf ((ops.drop 48).take 48))
  if !onCurve x y then some (5, 0, s)
  else if s.sdie.journal.closed then some (7, 0, s)
  else
    let key := (hkdf (sharedSecret x y) (label "larvan ring") 48).take 32
    let s := s.setRing { s.sdie.ring with session := true, halted := false, e := 0, key := BitVec.ofNat 256 (leNat key) }
    some (0, 0, s.journal 0x61 0xFF 0 0 0)

/-- LAUNCH (R329, R375). -/
def cmdLaunch (s : State) (ops : ByteList) : CmdRes :=
  let id := bitsOf (wordAt ops 0) 10 0
  match launchRcb s id none with
  | some s => some (0, id, s)
  | none => some (6, 0, s)

/-- GRAPH (R346, R375). -/
def cmdGraph (s : State) (ops : ByteList) : CmdRes :=
  match launchGraph s (wordAt ops 0).toNat with
  | .refused => some (6, 0, s)
  | .waits => none
  | .launched s => some (0, 0, s)

/-- `n` bytes of host memory (R383). -/
def State.hostBytes (s : State) (a n : Nat) : ByteList := s.bytesAt (.host a) n

/-- The reserved bytes of IMPORT's records from record `i` on are zero. -/
def importOk (s : State) (host : Nat) : Nat → Bool
  | 0 => true
  | n + 1 => (s.hostBytes (host + 80 * n + 72) 8).all (fun b => decide (b = 0)) && importOk s host n

/-- Write the first `n` records, in order. -/
def importLines (s : State) (host dst : Nat) : Nat → State
  | 0 => s
  | n + 1 =>
    let s := importLines s host dst n
    sdieStore s { loc := .main (dst + 64 * n) } (s.hostBytes (host + 80 * n) 64) (some (wordAt (s.hostBytes (host + 80 * n + 64) 8) 0))

/-- IMPORT (R376). -/
def cmdImport (s : State) (ops : ByteList) : CmdRes :=
  let host := (wordAt ops 0).toNat
  let dst := (wordAt ops 8).toNat
  let n := (wordAt ops 16).toNat
  let inOne := (List.range 16).any (fun i => (s.weir i).covers dst && (s.weir i).covers (dst + 64 * n - 64))
  if n = 0 ∨ 2 ^ 20 < n ∨ dst % 64 ≠ 0 ∨ dst + 64 * n > s.capacity ∨ inOne = false then some (5, 0, s)
  else if !importOk s host n then some (5, 0, s)
  else some (0, n, importLines s host dst n)

/-- The snapshot's bytes before its signature (R377). -/
def snapshot (s : State) : ByteList :=
  let d := s.sdie
  let words : List Word := [BitVec.ofNat 64 d.ring.e, Config.ringState d.ring.session d.ring.halted, BitVec.ofNat 64 d.journal.head,
    jstatWord d, keymapWord d, sensorWord d, s.platform.figure, 0]
  words.flatMap (fun w => natToBytes 8 w.toNat)
    ++ (List.range 2048).flatMap (fun i => natToBytes 8 (s.rcbWord i 0x78).toNat)
    ++ (List.range 256).flatMap (fun k => (List.range 3).flatMap (fun e => (List.range 8).flatMap (fun r =>
        natToBytes 8 (bargeWord k e r (((s.core k).engine e).barge r) 0).toNat)))
    ++ (List.range 4096).flatMap (fun q => s.mem.readBytes (s.queueAddr q) 64)

/-- SUMMARY (R377). -/
def cmdSummary (s : State) (ops : ByteList) : CmdRes :=
  let a := (wordAt ops 0).toNat
  if a % 2 ^ 20 ≠ 0 then some (5, 0, s)
  else
    let body := snapshot s
    let sig := ecdsaSign attestKey (Config.ecdsaNonce (2 ^ 64 + s.cycle)) (sha384 (natsOf body))
    let all := body ++ sig.map (fun b => BitVec.ofNat 8 b)
    some (0, all.length, s.writeAt (.host a) all)

/-- JFREE (R371). -/
def cmdJfree (s : State) (ops : ByteList) : CmdRes := some (0, 0, setExport s (wordAt ops 0))

/-- A command by its code (R375). -/
def command (s : State) (code : Nat) (ops : ByteList) : CmdRes :=
  if code = 1 then cmdOpen s ops
  else if code = 2 then cmdLaunch s ops
  else if code = 3 then cmdGraph s ops
  else if code = 4 then cmdImport s ops
  else if code = 5 then cmdSummary s ops
  else if code = 6 then cmdJfree s ops
  else some (5, 0, s)

/-- Write a completion record, and interrupt if asked (R378, R380, R383). -/
def complete (s : State) (seq : Word) (status code result : Nat) : State :=
  let r := s.sdie.ring
  let a := r.cplBase.toNat + 16 * (r.cplTail % 2 ^ r.k)
  let w1 := status % 256 + code % 256 * 256 + result % 2 ^ 48 * 2 ^ 16
  let s := s.writeAt (.host a) (natToBytes 8 seq.toNat ++ natToBytes 8 w1)
  let s := s.setRing { s.sdie.ring with cplTail := (r.cplTail + 1) % 2 ^ 32 }
  if r.irqctl.getLsbD 8 then s.emit (.interrupt (bitsOf r.irqctl 5 0)) else s

/-- A command executed for its entry, with its completion record. -/
def runCommand (s : State) (seq : Word) (code : Nat) (ops : ByteList) : Option State :=
  match command s code ops with
  | none => none
  | some (st, res, s) => some (complete s seq st code res)

/-- The command as a step of its own: done, or still waiting. -/
def commandStep (s : State) (seq : Word) (code : Nat) (ops : ByteList) : Result :=
  if !s.linkReady then .next s
  else match runCommand s seq code ops with
    | some s => .next s
    | none => .next s

/-- OPEN: `entry` is the whole ring entry (R374, R375). -/
def execRingOpen (entry : ByteList) (s : State) : Result := commandStep s (wordAt entry 0) 1 ((entry.drop 16).take 96)
/-- LAUNCH (R375). -/
def execRingLaunch (seq : Word) (operands : ByteList) (s : State) : Result := commandStep s seq 2 operands
/-- GRAPH (R375). -/
def execRingGraph (seq : Word) (operands : ByteList) (s : State) : Result := commandStep s seq 3 operands
/-- IMPORT (R376). -/
def execRingImport (seq : Word) (operands : ByteList) (s : State) : Result := commandStep s seq 4 operands
/-- SUMMARY (R377). -/
def execRingSummary (seq : Word) (operands : ByteList) (s : State) : Result := commandStep s seq 5 operands
/-- JFREE (R371). -/
def execRingJfree (seq : Word) (operands : ByteList) (s : State) : Result := commandStep s seq 6 operands

/-- A refused entry of the ring: its journal entry carries the expected and the received number (R369, R374). -/
def ringError (s : State) (status : Nat) (num : Word) : State :=
  s.journal 0x60 0xFF status (BitVec.ofNat 64 s.sdie.ring.e) num

/-- Handle one entry (R374); `none` where its command waits. Its reserved bytes and its unused operand bytes are not looked at (R3, R374;
DESIGN CHOICE, log 50). -/
def handleEntry (s : State) (entry : ByteList) : Option State :=
  let seq := wordAt entry 0
  let code := bytesToNat ((entry.drop 8).take 2)
  let ops := (entry.drop 16).take 96
  let r := s.sdie.ring
  let refuse (s : State) (st : Nat) : Option State := some (complete s seq st code 0)
  if code = 5 ∨ code = 1 then runCommand s seq code ops
  else if r.session = false ∨ r.halted = true ∨ r.e ≥ 2 ^ 63 then refuse s 4
  else if cmac (leBytes 32 r.key.toNat) (natsOf (entry.take 0x70)) ≠ natsOf ((entry.drop 0x70).take 16) then refuse (ringError s 1 seq) 1
  else if seq.toNat < r.e then refuse (ringError s 2 seq) 2
  else if r.e < seq.toNat then refuse ((ringError s 3 seq).setRing { r with halted := true }) 3
  else runCommand (s.setRing { r with e := r.e + 1 }) seq code ops

/-- RING_FETCH (R374, R380, R382): the next entry is fetched, and follows every host write delivered before its doorbell. -/
def execRingFetch (s : State) : Result :=
  let r := s.sdie.ring
  if !s.linkReady || !r.usable || decide (r.head = r.tail) then .next s
  else
    let s := s.raiseSdie r.bellClk
    let entry := s.hostBytes (r.base.toNat + 128 * (r.head % 2 ^ r.k)) 128
    .next (match handleEntry s entry with
      | none => s.post [.ringFetch]
      | some s =>
        let r := { s.sdie.ring with head := (r.head + 1) % 2 ^ 32 }
        let s := s.setRing r
        if r.head = r.tail then s else s.post [.ringFetch])

/-! ### The fabric (R384 to R386) -/

/-- The last image of a peer's lines goes with the grant: no cache of this package keeps one (R385). -/
def dropForeign (s : State) (g : Grant) : State :=
  let mine (line : Nat) : Bool := match lineLoc line with
    | .foreign p f => g.covers p f
    | _ => false
  { s with micro := { s.micro with
    l1d := s.micro.l1d.map (fun p => (p.1, p.2.filter (fun c => !mine c.1)))
    l2 := s.micro.l2.map (fun p => (p.1, p.2.filter (fun c => !mine c.1)))
    home := s.micro.home.filter (fun p => !mine p.1) } }

/-- The switch has ended a grant (R385): every access to its range faults from now on. -/
def endGrant (s : State) (port id : Nat) : State :=
  match s.sdie.grants.find? (fun g => decide (g.port = port) && decide (g.id = id)) with
  | none => s
  | some g => dropForeign { s with sdie := { s.sdie with grants := s.sdie.grants.filter (fun h => decide (h ≠ g)) } } g

/-- A port takes note of a GRANT, and of a RECALL with the time allowed for its RECALLACK, as the switch delivers them (R384, R385). -/
def noteGrant (s : State) (port : Nat) (rcd : LineData) : State :=
  let w (i : Nat) : Word := (rcd >>> (64 * i)).setWidth 64
  let kind := bitsOf (w 0) 7 0
  let id := bitsOf (w 0) 23 8
  let old := s.sdie.grants.filter (fun g => decide (g.port ≠ port) || decide (g.id ≠ id))
  if kind = 1 then { s with sdie := { s.sdie with grants := old ++ [⟨port, id, bitsOf (w 2) 47 0, bitsOf (w 1) 60 56, 0⟩] } }
  else if kind = 2 then
    { s with sdie := { s.sdie with grants := s.sdie.grants.map (fun g =>
        if g.port = port ∧ g.id = id then { g with fenceAt := s.timeUnits + bitsOf (w 3) 15 0 * msUnits + 1 } else g) } }
  else s

/-- A RECALLACK leaves on a port: the switch completes the recall when it has got it (R385). -/
def noteAck (s : State) (port : Nat) (rcd : LineData) : State :=
  let w0 : Word := rcd.setWidth 64
  if bitsOf w0 7 0 = 3 then
    { s.post [.peerAccess (.ended port (bitsOf w0 23 8))] with sdie := { s.sdie with grants := s.sdie.grants.map (fun g =>
        if g.port = port ∧ g.id = bitsOf w0 23 8 then { g with fenceAt := 0 } else g) } }
  else s

/-- The switches fence this package from the grants whose recalls it has not acknowledged in time (R385; DESIGN CHOICE, log 6: the time runs from
the RECALL's arrival, and a fence may come before its end as an event of its own). -/
def fenceGrants (s : State) : State :=
  (s.sdie.grants.filter (fun g => decide (g.fenceAt ≠ 0) && decide (g.fenceAt ≤ s.timeUnits + 1))).foldl (fun s g => endGrant s g.port g.id) s

/-- FABRIC_SEND (R384): the head record of queue 0xE00 + p leaves on port p. -/
def execFabricSend (port : Nat) (s : State) : Result :=
  if port ≥ 16 then .fault .noSuchUnit
  else
    let q := 0xE00 + port
    .next (match s.queueDesc q with
      | none => s
      | some d =>
        if d.count = 0 ∨ s.delivered (.main (d.slotAddr d.head)) = false then s
        else match deviceGate s (s.queueAddr q / 64) with
          | (false, s) => s.post [.fabricSend port]
          | (true, s) =>
            let (rcd, c, s) := takeHead s q d (s.sdieClk + 1)
            let s := noteAck ((s.raiseSdie c).emit (.fabric port rcd)) port rcd
            if d.count = 1 then s else s.post [.fabricSend port])

/-- The received record with its arrival port in the kind word (R384). -/
def arrivalRecord (port : Nat) (rcd : LineData) : LineData :=
  (rcd &&& ~~~(BitVec.ofNat 512 (15 * 2 ^ 24))) ||| BitVec.ofNat 512 (port % 16 * 2 ^ 24)

/-- Messages that wait at their ports enter queue 0xE10, oldest first, while it takes them. -/
def drainFabric (s : State) : Nat → State
  | 0 => s
  | n + 1 =>
    match s.sdie.fabricIn with
    | [] => s
    | (p, rcd) :: t =>
      match deviceGate s (s.queueAddr 0xE10 / 64) with
      | (false, s) => s
      | (true, s) =>
        match enqueueAt s 0xE10 (arrivalRecord p rcd) false (deviceWho (s.sdieClk + 1)) with
        | .error _ => s
        | .ok (_, c, s) =>
          let s := s.raiseSdie c
          drainFabric { s with sdie := { s.sdie with fabricIn := t } } n

/-- FABRIC_RECEIVE (R384, R385). -/
def execFabricReceive (port : Nat) (record : BitVec 512) (s : State) : Result :=
  if port ≥ 16 then .fault .noSuchUnit
  else
    let s := noteGrant { s with sdie := { s.sdie with fabricIn := s.sdie.fabricIn ++ [(port, record)] } } port record
    .next (drainFabric s s.sdie.fabricIn.length)

/-- A line this package can serve to a peer: backed (R16) and delivered (R36). -/
def granted (s : State) (pa n : Nat) : Bool := s.delivered (.main pa) && decide (pa + n ≤ s.capacity)

/-- A peer reads a line at its home under its reader's clock and lease, metered by the weir (R301, R366, R368, R386). -/
def peerRead (s : State) (p line clk lease : Nat) : State :=
  let pa := 64 * line
  let a := serveHomeLoad s { portWho (0x200 + p) (max clk s.micro.minClk) with lease := lease } { loc := .main pa } pa (max clk s.micro.minClk)
  match a.st.egressOf pa with
  | none => a.st.emit (.peerData p a.line.1 a.line.2)
  | some i =>
    match weirPass a.st i .fabric 64 pa false with
    | some s => s.emit (.peerData p a.line.1 a.line.2)
    | none => a.st.setWeir i { a.st.weir i with held := (a.st.weir i).held ++ [⟨.fabric, 64, pa, 0, a.st.timeUnits, .peer p line⟩] }

/-- Peers' bounded reads whose round their slice has taken go on, in order of arrival (R296, R299). -/
def releasePeers (s : State) : State :=
  let ready (x : Nat × Nat × Nat × BitVec 32) : Bool := atOrAhead (s.homeView x.2.2.1 (64 * x.2.1)) x.2.2.2 || (s.regionOn x.2.2.1).isNone
  let go := s.sdie.peerStalled.filter ready
  { s with sdie := { s.sdie with peerStalled := s.sdie.peerStalled.filter (fun x => !ready x) }, due := s.due ++ go.map (fun x => .peerAccess (.bounded x.1 x.2.1 x.2.2.1 x.2.2.2)) }

/-- The agent that a fabric port's switch is to a home (R386). -/
def peerAgent (p : Nat) : Nat := 256 + p

/-- A peer's access goes on at the home of its line when the line is ready there (R305, R386). -/
def peerAtHome (s : State) (p line : Nat) (kind : FwdKind) (q : PeerReq) (f : State → State) : State :=
  match homeGate s line (peerAgent p) kind (.peerAccess q) with
  | .error s => s
  | .ok s => f s

/-- A peer's store at the home of a line (R386). -/
def peerStore (s : State) (p line : Nat) (data : LineData) (side : Word) : State :=
  let a := storeQuiet s (portWho (0x200 + p) 0) { loc := .main (64 * line) } (natToBytes 64 data.toNat) (some side)
  takeRound a.2.2 line a.2.1

/-- A peer's JOIN of a block at its home, which is ready: it stands at the queue's home when that is not (R157, R386). -/
def peerJoin (s : State) (p pa : Nat) (user : Bool) (q : PeerReq) : State :=
  let t : Target := { loc := .main pa }
  match joinGate s (peerAgent p) (.peerAccess q) (joinLines s t) with
  | .error s => s
  | .ok s =>
    match joinAt s (portWho (0x200 + p) 0) t user 0 with
    | .error _ => s.emit (.peerError p)
    | .ok (n, a) => (takeRound a.2.2 (pa / 64) a.2.1).emit (.peerData p (BitVec.ofNat 512 n) 0)

/-- PEER_ACCESS (R299, R366, R368, R385, R386): an access of a peer at the home of a granted line, or at the record of a region; a switch's request
to own a line, the image it gives back, and its fencing of an importer, whose lines keep the last image. -/
def execPeerAccess (q : PeerReq) (s : State) : Result :=
  if !q.ok then .fault .noSuchUnit
  else .next (match q with
    | .read p line clk lease =>
      if !granted s (64 * line) 64 then s.emit (.peerError p) else peerAtHome s p line .gets q (fun s => peerRead s p line clk lease)
    | .write p line data side =>
      if !granted s (64 * line) 64 then s.emit (.peerError p) else peerAtHome s p line .getx q (fun s => peerStore s p line data side)
    | .atomic p pa n op y =>
      if !granted s pa n || decide (pa % n ≠ 0) || s.inEgress (.main pa) then s.emit (.peerError p)
      else peerAtHome s p (pa / 64) .getx q (fun s =>
        let m := bytesToNat (s.bytesAt (.main pa) n)
        let w := portWho (0x200 + p) 0
        let a := atomicAt s w { loc := .main pa } (match amoNew op n m (y.toNat % 2 ^ (8 * n)) with
          | some v => natToBytes n v
          | none => [])
        (takeRound a.2.2 (pa / 64) a.2.1).emit (.peerData p (BitVec.ofNat 512 m) 0))
    | .publish p r =>
      match s.regionOn r, recordGate s r (.peerAccess q) with
      | none, _ => s.emit (.peerError p)
      | some _, .error s => s
      | some g, .ok s => let a := publishRound s r g 0; a.2.2.emit (.peerRound p r a.1)
    | .acquire p r =>
      match s.regionOn r, recordGate s r (.peerAccess q) with
      | none, _ => s.emit (.peerError p)
      | some _, .error s => s
      | some g, .ok s => s.emit (.peerRound p r g.counter)
    | .subscribe p r =>
      match s.regionOn r, recordGate s r (.peerAccess q) with
      | none, _ => s.emit (.peerError p)
      | some _, .error s => s
      | some g, .ok s => ({ s with regions := SMap.put s.regions r { g with ports := g.ports ||| BitVec.ofNat 16 (2 ^ p) } }).emit (.peerRound p r g.counter)
    | .bounded p line r n =>
      if !granted s (64 * line) 64 then s.emit (.peerError p)
      else if (s.regionOn r).isSome && !atOrAhead (s.homeView r (64 * line)) n then
        { s with sdie := { s.sdie with peerStalled := s.sdie.peerStalled ++ [(p, line, r, n)] } }
      else peerAtHome s p line .gets q (fun s => peerRead s p line 0 0)
    | .own p line =>
      if !granted s (64 * line) 64 then s.emit (.peerError p)
      else peerAtHome s p line .getx q (fun s =>
        if s.micro.watched (64 * line) || s.inEgress (.main (64 * line)) then peerRead s p line 0 0
        else
          let l := s.lineAt (.main (64 * line))
          { s with micro := s.micro.setHome line { s.micro.homeLine line with st := .o, owner := peerAgent p } }.emit (.peerData p l.1 l.2))
    | .back p line data side =>
      if (s.micro.homeLine line).owner ≠ peerAgent p ∨ (s.micro.homeLine line).st = .c then s
      else takeImage (peerStore s p line data side) line (peerAgent p) ⟨0, 0, 0, 0, 0, 0⟩
    | .fence p line => takeImage s line (peerAgent p) ⟨0, 0, 0, 0, 0, 0⟩
    | .join p pa user =>
      if !granted s pa 128 || decide (pa % 128 ≠ 0) || s.inEgress (.main pa) || s.inEgress (.main (pa + 64)) then s.emit (.peerError p)
      else peerAtHome s p (pa / 64) .getx q (fun s => peerJoin s p pa user q)
    | .ended p g => endGrant s p g)

end Sys2Proof.Machine
end

