-- ==== Sys2Proof/Machine/Debug.lean ====
section
/-! DEFINITION. The debug port: attaching, stops and steps, claims, reads and writes, comparators, and debug launches (R387 to
R395). A refused operation answers with an error and changes nothing. -/

namespace Sys2Proof.Machine

/-- The port refuses an operation. -/
def debugRefuse (s : State) : State := s.emit (.debugStatus false)

/-- The port has done an operation. -/
def debugDone (s : State) : State := s.emit (.debugStatus true)

/-- An operation of either mode (R388). -/
def attached (s : State) (f : State → State) : State := if s.sdie.dbgMode.isSome then f s else debugRefuse s

/-- An operation of mode 1 only (R388). -/
def inControl (s : State) (f : State → State) : State := if s.sdie.dbgMode = some 1 then f s else debugRefuse s

/-! ### Attaching (R387) -/

/-- DEBUG_ATTACH (R387): refused while the journal is full, and before the root of trust has started the journal. -/
def execDebugAttach (mode : Nat) (s : State) : Result :=
  if mode ≥ 2 then .fault .noSuchUnit
  else .next (if s.sdie.journal.closed || decide (s.platform.stage = 0) then debugRefuse s
    else
      let s := s.journal 0x40 0xFF 0 0 (BitVec.ofNat 64 mode)
      debugDone { s with sdie := { s.sdie with dbgMode := some mode } })

/-- Every stop and every claim is released. -/
def releaseStops (s : State) : State :=
  let s := { s with cores := s.cores.map (fun (p : Nat × Core) => (p.1, { p.2 with claims := 0 })) }
  s.mapCtxs (fun k i x => if (x.stopped || x.stopReq || x.dbgStep) && decide (SMap.get 0 s.sdie.dbgParked k ≠ i + 1) then releaseCtx x else x)

/-- The thread launched into slot 15 of a core is parked without a record, and the supervisor context returns (R389). -/
def endSlot15 (s : State) (core : Nat) : State :=
  let mine := SMap.get 0 s.sdie.dbgLaunched core
  let s := { s with sdie := { s.sdie with dbgLaunched := SMap.set 0 s.sdie.dbgLaunched core 0 } }
  match (s.core core).boundTo 15 with
  | some i => if mine = i + 1 then parkPoint s ⟨core, i⟩ else s
  | none => restoreSupervisor s core

/-- DEBUG_DETACH (R387, R389). -/
def execDebugDetach (s : State) : Result :=
  .next (attached s (fun s =>
    let s := releaseStops { s with sdie := { s.sdie with dbgMode := none } }
    debugDone ((s.sdie.dbgLaunched.map (fun (p : Nat × Nat) => p.1)).foldl endSlot15 s)))

/-! ### Stops (R390, R392) -/

/-- The context a thread id names: the one bound to the slot, or else a stopped one whose home slot it is. -/
def threadCtx (s : State) (core slot : Nat) : Option ThreadRef :=
  let c := s.core core
  match c.boundTo slot with
  | some i => some ⟨core, i⟩
  | none => (c.resident.find? (fun p => p.2.stopped && decide (p.2.slot = slot))).map (fun p => ⟨core, p.1⟩)

/-- DEBUG_STOP (R390): at the points R241's table gives. -/
def execDebugStop (core slot : Nat) (s : State) : Result :=
  if !coreExists core || decide (slot ≥ 16) then .fault .noSuchUnit
  else .next (inControl s (fun s =>
    match (s.core core).boundTo slot with
    | none => debugRefuse s
    | some i =>
      let r : ThreadRef := ⟨core, i⟩
      let x := s.ctxOf r
      debugDone (if x.stopped then s else if atPoint x then stopCtx s r else s.setCtx r { x with stopReq := true })))

/-- DEBUG_RELEASE (R390, R392). -/
def execDebugRelease (core slot : Nat) (s : State) : Result :=
  if !coreExists core || decide (slot ≥ 16) then .fault .noSuchUnit
  else .next (inControl s (fun s =>
    match threadCtx s core slot with
    | none => debugRefuse s
    | some r => debugDone (s.setCtx r (releaseCtx (s.ctxOf r)))))

/-- DEBUG_STEP (R390): one retired chain, a repeat counting as one. -/
def execDebugStep (core slot : Nat) (s : State) : Result :=
  if !coreExists core || decide (slot ≥ 16) then .fault .noSuchUnit
  else .next (inControl s (fun s =>
    match (s.core core).boundTo slot with
    | none => debugRefuse s
    | some i =>
      let r : ThreadRef := ⟨core, i⟩
      if (s.ctxOf r).stopped then debugDone (s.setCtx r { releaseCtx (s.ctxOf r) with dbgStep := true }) else debugRefuse s))

/-- DEBUG_CLAIM (R392). -/
def execDebugClaim (core : Nat) (mask : BitVec 16) (s : State) : Result :=
  if !coreExists core then .fault .noSuchUnit
  else .next (inControl s (fun s => debugDone (s.setCore core { s.core core with claims := mask })))

/-! ### Reads and writes (R388) -/

/-- A word of a trace record (R396). -/
def traceWord (c : Core) (i : Nat) : Word :=
  match (c.trace.drop (i / 4)).head? with
  | none => 0
  | some r => if i % 4 = 0 then r.cycle else if i % 4 = 1 then r.pc else if i % 4 = 2 then r.source else r.data

/-- DEBUG_READ_STATE (R188, R388): a counter, a histogram bin, a word of a trace record, a watch report, a word of a barge record, half (low,
high) of a basin's state or of a barrier entry, the round of a region, or a doubleword of the journal. -/
def execDebugReadState (core : Nat) (what : DebugItem) (index : Nat) (s : State) : Result :=
  if !coreExists core || !what.ok then .fault .noSuchUnit
  else .next (attached s (fun s =>
    let c := s.core core
    match what with
    | .slotCounter => s.emit (.debugWord (SMap.get 0 c.slotcnt (index % 64)))
    | .readyHist => s.emit (.debugWord (SMap.get 0 c.readyhist (index % 17)))
    | .trace => s.emit (.debugWord (traceWord c index))
    | .basin => s.emit (.debugWord (((c.basin (index / 2 % 64)).bits >>> (64 * (index % 2))).setWidth 64))
    | .barrier => s.emit (.debugWord (((c.barrier (index / 2 % 2048)).bits >>> (64 * (index % 2))).setWidth 64))
    | .round => s.emit (.debugWord (((s.regions.find? (fun p => decide (p.1 = index))).map (fun p => p.2.counter.setWidth 64)).getD 0))
    | .journal => s.emit (.debugWord (journalWindow s.sdie.journal index))
    | .watchReport =>
      match (s.sdie.watchReports.drop index).head? with
      | some (b, k, t) => s.emit (.watchReport b k t)
      | none => debugRefuse s
    | .bargeWord e w => s.emit (.debugWord (bargeWord core e (index % 8) ((c.engine e).barge (index % 8)) w))))

/-- DEBUG_READ_CR (R388): any register of any core, at any level. -/
def execDebugReadCr (core ctx : Nat) (cr : BitVec 10) (s : State) : Result :=
  if !ctxExists core ctx then .fault .noSuchUnit
  else .next (attached s (fun s =>
    if crAssigned cr.toNat then s.emit (.debugWord (readCr s ⟨core, ctx⟩ cr.toNat)) else debugRefuse s))

/-- A context whose image the port may reach: stopped or parked. -/
def imageOpen (s : State) (r : ThreadRef) (off : Word) : Bool :=
  ((s.ctxOf r).stopped || decide ((s.ctxOf r).st = .parked)) && decide (off.toNat % 8 = 0) && decide (off.toNat < 0x2E8)

/-- DEBUG_READ_CONTEXT (R388), as CTXR (R245). -/
def execDebugReadContext (core ctx : Nat) (off : Word) (s : State) : Result :=
  if !ctxExists core ctx then .fault .noSuchUnit
  else .next (inControl s (fun s =>
    if imageOpen s ⟨core, ctx⟩ off then s.emit (.debugWord (imageWord (s.core core) (s.ctxOf ⟨core, ctx⟩) off.toNat)) else debugRefuse s))

/-- DEBUG_WRITE_CONTEXT (R388), as CTXW (R245). -/
def execDebugWriteContext (core ctx : Nat) (off v : Word) (s : State) : Result :=
  if !ctxExists core ctx then .fault .noSuchUnit
  else .next (inControl s (fun s =>
    if imageOpen s ⟨core, ctx⟩ off then debugDone (writeImage s ⟨core, ctx⟩ off.toNat v) else debugRefuse s))

/-- A line that the port can reach: backed by memory (R16) and delivered (R36). -/
def lineBacked (s : State) (line : Nat) : Bool := s.delivered (.main (64 * line)) && decide (64 * line + 64 ≤ s.capacity)

/-- A line of memory leaves through the port. -/
def sendLine (s : State) (line : Nat) (l : LineData × Word) : State := s.emit (.debugLine line l.1 l.2)

/-- DEBUG_READ_MEMORY (R388): one whole line, at its home; egress is metered, and waits or fails at the weir (R366, R368). -/
def execDebugReadMemory (line : Nat) (s : State) : Result :=
  .next (inControl s (fun s =>
    if !lineBacked s line then s.emit .debugError
    else
      let a := loadQuiet s (portWho 0x102 0) { loc := .main (64 * line) }
      let s := a.st
      match s.egressOf (64 * line) with
      | none => sendLine s line a.line
      | some i =>
        match weirPass s i .debug 64 (64 * line) false with
        | some s => sendLine s line a.line
        | none => s.setWeir i { s.weir i with held := (s.weir i).held ++ [⟨.debug, 64, 64 * line, 0, s.timeUnits, .debugRead line⟩] }))

/-- DEBUG_WRITE_MEMORY (R388, R52): one whole line with its sideband, at its home. -/
def execDebugWriteMemory (line : Nat) (data : LineData) (side : Word) (s : State) : Result :=
  .next (inControl s (fun s =>
    if !lineBacked s line then s.emit .debugError
    else
      let a := storeQuiet s (portWho 0x102 0) { loc := .main (64 * line) } (natToBytes 64 data.toNat) (some side)
      debugDone (takeRound (a.2.2.raiseSdie a.1) line a.2.1)))

/-! ### Comparators (R391, R393, R394) -/

/-- DEBUG_PROGRAM_PCMP (R391): comparators 0 to 3, and 4 their control register. -/
def execDebugProgramPcmp (core index : Nat) (v : Word) (s : State) : Result :=
  if !coreExists core || decide (index ≥ 5) then .fault .noSuchUnit
  else .next (inControl s (fun s => debugDone (writeCoreCr s core (0x300 + index) v)))

/-- The lines of a watch's block that are owned, or on their way to or from an owner, at the home slice (R394). -/
def watchOwned (m : Micro) (slice : Nat) (v : Word) : List Nat :=
  let h := bitsOf v 56 52
  (m.home.filter (fun (p : Nat × HomeLine) => v.getLsbD 63 && decide (p.2.st ≠ .c) && decide (m.homeOf (64 * p.1) = slice)
    && decide (64 * p.1 / 4 ^ h = bitsOf v 51 0 / 4 ^ h))).map (·.1)

/-- DEBUG_PROGRAM_WATCH (R393, R394): enabling a watch first recalls the owned lines of its block. -/
def execDebugProgramWatch (slice index : Nat) (v : Word) (s : State) : Result :=
  if decide (slice ≥ 32) || decide (index ≥ 16) then .fault .noSuchUnit
  else .next (inControl s (fun s =>
    let h := bitsOf v 56 52
    let owned (m : Micro) : List Nat := watchOwned m slice v
    let m := (owned s.micro).foldl (fun m l => m.takeBack (s.lineAt (.main (64 * l))) l false) s.micro
    let s := { s with micro := { m with watches := SMap.set 0 m.watches (16 * slice + index) v } }
    debugDone (if (owned m).isEmpty then s else s.post [.homeRecall slice ⟨.bdemote, bitsOf v 51 0, h, 0⟩])))

/-! ### Debug launch (R389) -/

/-- Slot 15 of a core is open to a debug launch: it holds no context, or one that the debugger has stopped. -/
def slotOpen (s : State) (core slot : Nat) : Bool :=
  match (s.core core).boundTo slot with
  | none => true
  | some i => decide (slot = 15) && (s.ctxOf ⟨core, i⟩).stopped

/-- The context that is stopped in slot 15 gives the slot up with its stop pending; the supervisor's is the one that comes back. -/
def yieldSlot15 (s : State) (core slot : Nat) : State :=
  match (s.core core).boundTo slot with
  | none => s
  | some i =>
    let r : ThreadRef := ⟨core, i⟩
    let s := s.setCtx r { s.ctxOf r with st := .parked, parkedAt := s.cycle }
    if SMap.get 0 s.sdie.dbgLaunched core = i + 1 then s
    else { s with sdie := { s.sdie with dbgParked := SMap.set 0 s.sdie.dbgParked core (i + 1) } }

/-- The port keeps the thread that it has launched into slot 15. -/
def keepSlot15 (s : State) (core slot : Nat) : State :=
  match (s.core core).boundTo slot with
  | some i => if slot = 15 then { s with sdie := { s.sdie with dbgLaunched := SMap.set 0 s.sdie.dbgLaunched core (i + 1) } } else s
  | none => s

/-- The RCB of a debug launch is launched, or registered with the core's dispenser. -/
def debugRegister (s : State) (id core : Nat) : Option State :=
  if (s.reg id).launched then
    if dispenserFull s id (clusterOf core) then none else some (trackRcb (registerAt s id [clusterOf core]) id [clusterOf core])
  else launchRcb s id (some core)

/-- DEBUG_LAUNCH (R389): a refusal changes nothing. No context of an RCB that is held (R344), or whose budget is spent (R336), is created. -/
def execDebugLaunch (entry : Word) (core slot rcb : Nat) (s : State) : Result :=
  if !coreExists core || decide (slot ≥ 16) || decide (rcb ≥ 2048) then .fault .noSuchUnit
  else .next (inControl s (fun s0 =>
    if !slotOpen s0 core slot then debugRefuse s0
    else match debugRegister s0 rcb core with
      | none => debugRefuse s0
      | some s =>
        let g := s.reg rcb
        if s.held rcb || g.exhausted then debugRefuse s0
        else match createContext (yieldSlot15 s core slot) core slot rcb entry g.args g.frame 0 (s.sdieClk + 1) .debug with
          | .error _ => debugRefuse s0
          | .ok s => debugDone (keepSlot15 s core slot)))

/-! ### Operations of the host and the debugger that wait (R87, R305, R323) -/

/-- The lines of memory that an operation of the host, or of the debugger, reads or writes at their homes, and how; none where it is refused. -/
def portLines (s : State) (i : Instr) : FwdKind × List Nat :=
  match i with
  | .bar2Read dest len =>
    if tlpOk dest.off len && s.onStream dest.stream then
      match s.windowAt dest.off len with
      | some (w, pa) => (.gets, if w.rd && rangeDelivered s pa len then rangeLines pa len else [])
      | none => (.gets, [])
    else (.gets, [])
  | .bar2Write dest bytes =>
    if tlpOk dest.off bytes.length && s.onStream dest.stream then
      match s.windowAt dest.off bytes.length with
      | some (w, pa) => (.getx, if w.wr then rangeLines pa bytes.length else [])
      | none => (.getx, [])
    else (.getx, [])
  | .debugReadMemory line => (.gets, if s.sdie.dbgMode = some 1 ∧ lineBacked s line = true then [line] else [])
  | .debugWriteMemory line _ _ => (.getx, if s.sdie.dbgMode = some 1 ∧ lineBacked s line = true then [line] else [])
  | .debugProgramWatch slice index v =>
    (.recall, if s.sdie.dbgMode = some 1 ∧ slice < 32 ∧ index < 16 then watchOwned s.micro slice v else [])
  | _ => (.gets, [])

/-- A debug launch waits while its core has no context for its thread and the spill of none can make room (R87, R390). -/
def launchReady (s : State) (core slot rcb : Nat) : Except State State :=
  if s.sdie.dbgMode = some 1 ∧ coreExists core = true ∧ slot < 16 ∧ rcb < 2048 ∧ slotOpen s core slot = true ∧ (s.core core).freeCtx = none then
    match debugRegister s rcb core with
    | none => .ok s
    | some t =>
      if t.held rcb || (t.reg rcb).exhausted || !canAllocSave t core (t.reg rcb) then .ok s
      else match needCtx s core .debug 24 with
        | (none, s) => .error s
        | (some _, s) => .ok s
  else .ok s

/-- An operation of the host or of the debugger goes on, or waits: it stands at the home of a line, or it is tried again (R87, R305, R309, R323). -/
def portReady (i : Instr) (s : State) : Except State State :=
  match i with
  | .debugLaunch _ core slot rcb =>
    match launchReady s core slot rcb with
    | .error s => .error (s.post [i])
    | .ok s => .ok s
  | _ =>
    let l := portLines s i
    if l.2.isEmpty then .ok s else readyLines s i l.1 l.2


end Sys2Proof.Machine
end

