-- ==== Sys2Proof/Machine/Platform.lean ====
section
/-! DEFINITION. Bring-up, power, machine check and wear (R398 to R403). -/

namespace Sys2Proof.Machine

/-! ### Bring-up (R398) -/

/-- What stands in the agenda as an input from outside the package: it is not lost at a reset. -/
def isOutside : Instr → Bool
  | .bar2Read _ _ => true
  | .bar2Write _ _ => true
  | .bar0Write _ _ => true
  | .hcRingtail _ => true
  | .hcRingctl _ => true
  | .fabricReceive _ _ => true
  | .peerAccess _ => true
  | .debugAttach _ => true
  | .debugDetach => true
  | .debugStop _ _ => true
  | .debugRelease _ _ => true
  | .debugStep _ _ => true
  | .debugClaim _ _ => true
  | .debugReadState _ _ _ => true
  | .debugReadCr _ _ _ => true
  | .debugReadContext _ _ _ => true
  | .debugWriteContext _ _ _ _ => true
  | .debugReadMemory _ => true
  | .debugWriteMemory _ _ _ => true
  | .debugProgramPcmp _ _ _ => true
  | .debugProgramWatch _ _ _ => true
  | .debugLaunch _ _ _ _ => true
  | .powerOnReset => true
  | .powerControlWrite _ => true
  | .throttleDown => true
  | .throttleUp => true
  | .gatingStep _ _ => true
  | .machineCheck _ _ _ => true
  | .wearUpdate _ => true
  | .sensorTrip _ _ _ => true
  | _ => false

/-- POWER_ON_RESET (R398, R35): every register holds its reset value; what lies outside the package, the modules' type and the
wear monitors' reading are as they were. -/
def execPowerOnReset (s : State) : Result :=
  .next { State.reset with
    tick := s.tick
    agenda := s.agenda.filter isOutside ++ [.bringUpStage (bootOf (s.sdie.boots + 1) 1)]
    out := s.out
    hostMem := s.hostMem
    peerMem := s.peerMem
    bmm256 := s.bmm256
    sdie := { boots := s.sdie.boots + 1 }
    platform := { wear := s.platform.wear } }

/-- Stage 1: the root of trust has the keys of R357 and the journal starts. -/
def bootKeys (s : State) : State :=
  let keys : SMap KeySlot := [(62, ⟨true, 1, BitVec.ofNat 512 journalKey⟩),
    (63, ⟨true, 2, BitVec.ofNat 512 (leNat (memoryKey s.sdie.boots))⟩)]
  { s with sdie := { s.sdie with keys := keys, journal := { chain := chainStart } } }

/-- Stage 3: memory, local stores and dispenser memories are cleared, the cores' slots vacant (R35); the round-region records, the hubs and the
S-die hold the lines of the tables at cr.qtable's reset value (R288, R321, R354, R381). -/
def bootClear (s : State) : State :=
  ((List.range 4096).foldl State.trackRecord { s with mem := [], side := [], poison := [], cores := [], dispensers := [], micro := {} }).trackTables

/-- The bytes of an image in memory. -/
def placeImage (s : State) (l : List (Nat × Byte)) : State := { s with mem := l.foldl (fun m p => m.write p.1 p.2) s.mem }

/-- A context that bring-up starts in slot 15 of a core. -/
def startSlot15 (s : State) (core : Nat) (lv : Level) (prior : BitVec 2) (pc : Word) : State :=
  let s := s.setCtx ⟨core, 0⟩ { st := .bound, slot := 15, pc := pc, level := lv, prior := prior, tid := s.nextTid }
  { s with nextTid := s.nextTid + 1 }

/-- Stage 4: the monitor's measurement, the first 16 bytes of the SHA-384 of its image (R369), is journaled, and it starts at level M with prior 1 in slot 15 of core 0x00. -/
def bootMonitor (s : State) : State :=
  let s := placeImage s Config.monitorImage
  let d := payload (sha384 (Config.monitorImage.map (fun p => p.2.toNat))) 0
  let s := s.journal 0x50 0xFF 0 d.1 d.2
  startSlot15 s 0 .m 1 (addr56 Config.monitorEntry.toNat)

/-- Stage 5: the kernel starts at level S in the supervisor slots of the other cores; core 0x00's slot reaches it by the monitor's own ERET
(R230, R239). -/
def bootKernel (s : State) : State :=
  let s := placeImage s Config.kernelImage
  (List.range 255).foldl (fun s k => startSlot15 s (k + 1) .s 0 (addr56 Config.kernelEntry.toNat)) s

/-- What a stage that is done leaves. -/
def bootStage (s : State) (n : Nat) : State :=
  if n = 1 then bootKeys s
  else if n = 3 then bootClear s
  else if n = 4 then bootMonitor s
  else if n = 5 then bootKernel s
  else s

/-- BRING_UP_STAGE (R398): the next stage is done and the one after it begins, or it fails and bring-up stops. -/
def execBringUpStage (r : BootResult) (s : State) : Result :=
  let n := s.platform.stage + 1
  .next (if n > 6 || s.platform.failed then s
    else match r with
      | .done =>
        let s := bootStage s n
        let s := { s with platform := { s.platform with stage := n } }
        if n < 6 then s.post [.bringUpStage (bootOf s.sdie.boots (n + 1))] else s
      | .failed e l =>
        if (bootCodes n).contains e then
          { s with platform := { s.platform with stage := n, error := e, failed := true, links := if n = 2 then l else 0 } }
        else s)

/-- The boot status word (R399). -/
def bootStatus (p : Platform) : Word := BitVec.ofNat 64 (p.links.toNat * 2 ^ 16 + p.stage % 16 * 2 ^ 12 + p.error % 16 * 2 ^ 8)

/-- The power control word (R399). -/
def powerWord (p : Platform) : Word :=
  BitVec.ofNat 64 ((if p.unmet then 2 ^ 35 else 0) + p.gating % 8 * 2 ^ 32 + p.power.toNat * 2 ^ 20 + p.thermal.toNat * 2 ^ 8
    + p.running % 16 * 2 ^ 4 + p.requested % 16)

/-! ### Operating points (R400, R401) -/

/-- A write of the power control register (R399, R400): values out of range read as the nearest point or 2,400 W. -/
def setPower (s : State) (v : Word) : State :=
  retime { s with platform := { s.platform with
    requested := min 3 (bitsOf v 3 0)
    thermal := BitVec.ofNat 12 (bitsOf v 19 8)
    power := BitVec.ofNat 12 (min 2400 (bitsOf v 31 20)) } }

/-- A word of an entry of the machine-check log, oldest first: address, source die, `cr.cycle` of core 0x00, and the core + 1 that the entry
names, if it names one (R402). -/
def checkWord (p : Platform) (entry word : Nat) : Word :=
  match p.mclog[entry]? with
  | none => 0
  | some e => if word = 0 then e.addr else BitVec.ofNat 64 (if word = 1 then e.die else if word = 2 then e.cycle else e.core)

/-- POWER_CONTROL_WRITE, and the reads of the management controller (R399, R400, R402, R403). -/
def execPowerControlWrite (op : MgmtOp) (s : State) : Result :=
  .next (match op with
    | .write v => setPower s v
    | .power => s.emit (.mgmtWord (powerWord s.platform))
    | .boot => s.emit (.mgmtWord (bootStatus s.platform))
    | .wear => s.emit (.mgmtWord s.platform.figure)
    | .check i w => s.emit (.mgmtWord (checkWord s.platform i w)))

/-- The hottest die's temperature, in units of 0.1 °C. -/
def State.hottest (s : State) : Int := (BitVec.ofNat 16 (bitsOf s.sdie.sensor 31 16)).toInt

/-- The hottest die exceeds the thermal limit, or the module's power its limit (R400). -/
def State.overLimit (s : State) : Bool :=
  decide ((s.platform.thermal.toNat : Int) < s.hottest) || decide (s.platform.power.toNat < s.platform.draw.toNat)

/-- The temperature is at least 5 °C below its limit, and the power at least 100 W below its own (R400). -/
def State.cool (s : State) : Bool :=
  decide (s.hottest + 50 ≤ (s.platform.thermal.toNat : Int)) && decide (s.platform.draw.toNat + 100 ≤ s.platform.power.toNat)

/-- The recovery condition: 10 ms of it (R400). A step up begins a time of its own (DEDUCED, log 73). -/
def State.recovered (s : State) : Bool :=
  s.cool && decide (s.platform.coolSince ≠ 0) && decide (s.platform.coolSince + 10 * msUnits ≤ s.timeUnits + 1)

/-- A limit is still exceeded 100 µs after the last move (R400). -/
def State.stillOver (s : State) : Bool :=
  s.overLimit && decide (s.platform.overSince ≠ 0) && decide (s.platform.overSince + msUnits / 10 ≤ s.timeUnits + 1)

/-- The limits are looked at (R400): how long they have been exceeded, or the recovery condition has held; an unmet limit is shown until the draw
falls below it. -/
def watchLimits (s : State) : State :=
  let s := { s with platform := { s.platform with draw := Config.moduleDraw s.cycle } }
  let p := s.platform
  { s with platform := { p with
    overSince := if s.overLimit then (if p.overSince = 0 then s.timeUnits + 1 else p.overSince) else 0
    coolSince := if s.cool then (if p.coolSince = 0 then s.timeUnits + 1 else p.coolSince) else 0
    unmet := p.unmet && !decide (p.draw.toNat < p.power.toNat) } }

/-- While a limit is exceeded, one point slower. -/
def throttleDown (s : State) : State :=
  let p := s.platform
  if s.overLimit && decide (p.running < 3) then retime { s with platform := { p with allowed := p.running + 1, overSince := s.timeUnits + 1, coolSince := 0 } }
  else s

/-- Under the recovery condition, one point faster, once gating is back at step 0, and never past the requested point. -/
def throttleUp (s : State) : State :=
  let p := s.platform
  if s.recovered && decide (p.gating = 0) then retime { s with platform := { p with allowed := p.allowed - 1, coolSince := s.timeUnits + 1 } } else s

/-- At 0.7 GHz, one step deeper while a limit is still exceeded 100 µs after the last move, or one step back under the
recovery condition; a power limit that the deepest step does not meet is shown. The point that the limits allow is then 0.7 GHz. -/
def gatingStep (s : State) (deeper : Bool) : State :=
  let p := s.platform
  if p.running ≠ 3 then s
  else if deeper then
    if s.stillOver then
      retime { s with platform := { p with
        gating := min 4 (p.gating + 1), allowed := 3, overSince := s.timeUnits + 1, coolSince := 0
        unmet := p.unmet || (decide (p.gating = 4) && decide (p.power.toNat < p.draw.toNat)) } }
    else s
  else if s.recovered && decide (p.gating ≠ 0) then
    retime { s with platform := { p with gating := p.gating - 1, allowed := 3, coolSince := s.timeUnits + 1 } }
  else s

/-- THROTTLE_DOWN (R400). -/
def execThrottleDown (s : State) : Result := .next (throttleDown s)
/-- THROTTLE_UP (R400). -/
def execThrottleUp (s : State) : Result := .next (throttleUp s)
/-- GATING_STEP (R400), with the power that the module draws when it is considered. -/
def execGatingStep (deeper : Bool) (draw : BitVec 16) (s : State) : Result :=
  .next (gatingStep { s with platform := { s.platform with draw := draw } } deeper)

/-- What the package does about its limits as time goes by (R400). -/
def controlPower (s : State) : State :=
  let p := s.platform
  if s.overLimit then (if p.running < 3 then throttleDown s else gatingStep s true)
  else if p.gating = 0 then throttleUp s
  else gatingStep s false

/-- Units of time that a core cycle takes: its point, and the share of time that the clock is stopped (R24, R400). -/
def cycleUnits (p : Platform) : Nat :=
  let base := if p.running = 0 then 693 else if p.running = 1 then 819 else if p.running = 2 then 1001 else 1287
  if p.gating = 0 then 21 * base
  else if p.gating = 1 then 24 * base
  else if p.gating = 2 then 28 * base
  else if p.gating = 3 then 42 * base
  else 84 * base

/-! ### Machine check and wear (R402, R403) -/

/-- MACHINE_CHECK (R402, R36, R233, R234): the error is logged, its line is no longer delivered, and the core that it is
reported to gains a record without a thread. -/
def execMachineCheck (line die core : Nat) (s : State) : Result :=
  if !coreExists core || decide (die ≥ 9) then .fault .noSuchUnit
  else
    let pa : Word := if 64 * line < s.capacity then BitVec.ofNat 64 (64 * line) else 0
    let s := s.logMachineCheck pa die 0
    let s := if decide (64 * line < s.capacity) && !s.poison.contains line then { s with poison := s.poison ++ [line] } else s
    .next (pushSq s core .machineCheck ⟨sqWord0 0x30 7 0 0 false false 0, 0, pa, 0⟩)

/-- WEAR_UPDATE (R403): a die's figure. -/
def execWearUpdate (fig : DieWear) (s : State) : Result :=
  if fig.die ≥ 9 then .fault .noSuchUnit
  else .next { s with platform := { s.platform with wear := SMap.set 0 s.platform.wear fig.die fig.hours } }

end Sys2Proof.Machine
end

