-- ==== Sys2Proof/Machine/Xbar.lean ====
section
/-! DEFINITION. The event crossbar: programming, arming, firing and staged launches (R226, R227). -/

namespace Sys2Proof.Machine

/-- The owner mark of a crossbar entry: 0 while nothing has programmed it, else the partition plus one. -/
def State.ownerMark (s : State) : Nat := s.myPart + 1

/-- An instruction at level U may name an entry that no other partition programmed (R226). -/
def foreignEntry (s : State) (owner : Nat) : Bool := isUser s && decide (owner ≠ 0) && decide (owner ≠ s.ownerMark)

/-- XBSET.ctr (R226). -/
def execXbsetCtr (d a b : BitVec 5) (s : State) : Result :=
  let i := (s.S a).toNat
  let v := s.S b
  let kind := bitsOf v 3 0
  .next (
    if i ≥ 32 then trap s 0x01 (s.S a)
    else
      let c := s.myCore
      let x := SMap.get {} c.counters i
      if foreignEntry s x.owner then trap s 0x04 (s.S a)
      else if bitsOf v 15 4 ≠ 0 ∨ bitsOf v 63 27 ≠ 0 ∨ kind > 5 ∨ (kind = 5 ∧ bitsOf v 26 22 ≠ 0) then trap s 0x01 v
      else
        let s := s.setMyCore { c with counters := SMap.set {} c.counters i ⟨kind, bitsOf v 26 16, 0, s.ownerMark, 0⟩ }
        writeRetire s d (BitVec.ofNat 64 x.count))

/-- The counters a term's conditions name. -/
def termCounters (conds : Word) : List Nat := (XTerm.used { conds := conds }).map (·.1)

/-- XBSET.term (R226). -/
def execXbsetTerm (d a b : BitVec 5) (s : State) : Result :=
  let v := s.S a
  let i := bitsOf v 5 0
  let r := bitsOf v 11 8
  let c := s.myCore
  let x := SMap.get {} c.terms i
  .next (
    if bitsOf v 7 6 ≠ 0 ∨ bitsOf v 63 13 ≠ 0 then trap s 0x01 v
    else if foreignEntry s x.owner || foreignEntry s (SMap.get {} c.staged r).owner
        || (termCounters (s.S b)).any (fun n => foreignEntry s (SMap.get {} c.counters n).owner) then trap s 0x04 v
    else
      let s := s.setMyCore { c with terms := SMap.set {} c.terms i ⟨s.S b, r, v.getLsbD 12, s.ownerMark⟩ }
      writeRetire s d x.conds)

/-- XBSET.stage (R226, R227): the command line is read as a 64-byte load and the thread's names, lease and floors are
captured. -/
def execXbsetStage (d a b : BitVec 5) (s : State) : Result :=
  let i := (s.S a).toNat
  let ea := s.S b
  .next (
    if i ≥ 16 then trap s 0x01 (s.S a)
    else if foreignEntry s (SMap.get {} s.myCore.staged i).owner then trap s 0x04 (s.S a)
    else match checkMe s ea { r := true, size := 64 } with
      | (.error c, s) => trap s c ea
      | (.ok t, s) =>
        withLine s t ea.toNat (fun l s =>
          match lineCommand s.cur.core l.1 with
          | none => trap s 0x01 ea
          | some c =>
            if !sendWordOk (engineOf (opcodeOf c.word)) c.word then trap s 0x01 ea
            else
              let x := s.me
              let g : Staged := { enabled := true, cmd := c, core := s.cur.core, slot := x.slot, ctx := s.cur.ctx, tid := x.tid, rcb := x.rcb,
                                  part := s.myPart, level := x.level, lease := x.lease, floors := x.floors, pending := 0,
                                  owner := s.ownerMark, clk := s.clkOf s.cur }
              let k := s.myCore
              awaitReply ((s.setMyCore { k with staged := SMap.set {} k.staged i g }).setS d 0) ea.toNat))

/-- Whether a mask names a term that another partition programmed. -/
def foreignTerms (s : State) (mask : Word) : Bool :=
  (List.range 64).any (fun i => mask.getLsbD i && foreignEntry s (SMap.get {} s.myCore.terms i).owner)

/-- XBARM.on (R226). -/
def execXbarmOn (d a : BitVec 5) (s : State) : Result :=
  let m := s.S a
  let c := s.myCore
  .next (
    if foreignTerms s m then trap s 0x04 m
    else writeRetire (s.setMyCore { c with armed := c.armed ||| m }) d c.armed)

/-- The staged registers of a core without the pending launches of those that the terms of a mask name. -/
def Core.dropLaunches (c : Core) (mask : Word) : SMap Staged :=
  c.staged.map (fun p => if (List.range 64).any (fun i => mask.getLsbD i && decide ((SMap.get {} c.terms i).staged = p.1)) then (p.1, { p.2 with pending := 0 }) else p)

/-- XBARM.off (R226). Launches that still wait in the registers which the disarmed terms start are dropped, so that none is forked once it has
retired (R286, R287; DESIGN CHOICE, log 63). -/
def execXbarmOff (d a : BitVec 5) (s : State) : Result :=
  let m := s.S a
  let c := s.myCore
  .next (
    if foreignTerms s m then trap s 0x04 m
    else writeRetire (s.setMyCore { c with armed := c.armed &&& ~~~m, staged := c.dropLaunches m }) d c.armed)

/-- The evaluation goes on with the next ready term of a higher index. -/
def nextTerm (s : State) (k i : Nat) : State :=
  match (s.core k).readyTerms.find? (fun j => decide (j > i)) with
  | some j => { s with due := .xbarTermFire k j :: s.due }
  | none => s

/-- The latest clock of the pulses that a term's counters have counted (R227, R262). -/
def Core.termClk (c : Core) (t : XTerm) : Nat := t.used.foldl (fun n p => max n (SMap.get {} c.counters p.1).clk) 0

/-- A register's start input is asserted on cycle `now`: one launch, however many terms assert it (R227); it follows the pulses of clock `clk`
(R262). -/
def Staged.start (g : Staged) (now clk : Nat) : Staged :=
  let g := { g with clk := max g.clk clk }
  if !g.enabled || decide (g.startAt = now + 1) then g else { g with pending := g.pending + 1, startAt := now + 1 }

/-- XBAR_TERM_FIRE (R227): the thresholds are subtracted, the staged register's start input asserted, and the term stays armed
only if it rearms. -/
def execXbarTermFire (core term : Nat) (s : State) : Result :=
  if !coreExists core || decide (term ≥ 64) then .fault .noSuchUnit
  else
    let c := s.core core
    if !c.termReady term then .next s
    else
      let t := SMap.get {} c.terms term
      let counters := t.used.foldl (fun m p =>
        let x := SMap.get {} m p.1
        SMap.set {} m p.1 { x with count := x.count - p.2 }) c.counters
      let staged := SMap.set {} c.staged t.staged ((SMap.get {} c.staged t.staged).start s.cycle (c.termClk t))
      let armed := if t.rearm then c.armed else c.armed &&& ~~~(BitVec.ofNat 64 (2 ^ term))
      let s := s.setCore core { c with counters := counters, staged := staged, armed := armed }
      .next ((nextTerm s core term).post [.stagedLaunch core t.staged])

/-- A staged launch that cannot be made: a kind 6 record and the register disabled (R227, R234). -/
def failLaunch (s : State) (k i : Nat) (g : Staged) (cause : Nat) : State :=
  let c := s.core k
  let s := s.setCore k { c with staged := SMap.set {} c.staged i { g with enabled := false, pending := 0 } }
  let ctx := match s.residentTid g.tid with
    | some r => r.ctx
    | none => g.ctx
  pushSq s k (.staged i) ⟨sqWord0 cause 6 ctx 0 false (s.threadExists g.tid) (threadId g.core g.slot), 0, BitVec.ofNat 64 i,
    g.cmd.word.setWidth 64⟩

/-- STAGED_LAUNCH (R227): one pending launch is made as though the programming thread issued the command; one that cannot be
accepted waits in the register. -/
def execStagedLaunch (core reg : Nat) (s : State) : Result :=
  if !coreExists core || decide (reg ≥ 16) then .fault .noSuchUnit
  else
    let g := SMap.get {} (s.core core).staged reg
    if !g.enabled || decide (g.pending = 0) then .next s
    else if !(s.reg g.rcb.toNat).launched then .next (failLaunch s core reg g 0x01)
    else match checkCmd s core g.cmd with
      | some (cause, _) => .next (failLaunch s core reg g cause)
      | none =>
        let e := engineOf (opcodeOf g.cmd.word)
        if !(s.core core).canAccept e then .next s
        else
          let i : Issuer := ⟨g.core, g.ctx, g.tid, g.slot, g.rcb, g.part, g.level, g.lease, g.floors, max g.clk s.micro.minClk, 0, false, true⟩
          let c := s.core core
          let s := s.setCore core { c with staged := SMap.set {} c.staged reg { g with pending := g.pending - 1 } }
          let (_, s) := acceptBarge s core e g.cmd i
          .next (s.post [.stagedLaunch core reg])

end Sys2Proof.Machine
end

