-- ==== Sys2Proof/Machine/Issue.lean ====
section
/-! DEFINITION. Prefixes, fetch, the checks before an operation runs, and what a slot's offer counts (R81 to R85, R103, R104,
R112, R116 to R120, R336, R391, R392, R397). -/

namespace Sys2Proof.Machine

/-! ### Prefixes (R116 to R120) -/

/-- A prefix has been read: it takes its turn, and the pc stays at the chain's first word. A second prefix of one kind is a
misuse whose tval is the repeated word. -/
def readPrefix (s : State) (again : Bool) (c : Chain) : State :=
  if again then trap s 0x05 s.irWord else s.setMe { s.me with chain := { c with len := c.len + 1 } }

/-- IMMX (R117). -/
def execImmx (p : BitVec 25) (s : State) : Result :=
  .next (readPrefix s s.me.chain.immx.isSome { s.me.chain with immx := some p })

/-- REP (R118). -/
def execRep (c : BitVec 6) (f : BitVec 4) (s : State) : Result :=
  .next (readPrefix s s.me.chain.rep.isSome { s.me.chain with rep := some (c, f) })

/-- HINT (R119, R144): no effect beyond its turn and its place in the chain. -/
def execHint (k : BitVec 3) (a : BitVec 22) (s : State) : Result :=
  .next (readPrefix s s.me.chain.hint.isSome { s.me.chain with hint := some (k ++ a) })

/-! ### What an offer counts (R84, R103, R336, R397) -/

/-- A bound context can issue at this cycle (R81, R101). -/
def canIssue (s : State) (c : Core) (x : Context) : Bool :=
  decide (x.st = .bound) && !x.stopped && decide (x.wait = 0) && decide (x.pend = .none) && decide (x.readyAt ≤ s.cycle) && !c.dead

/-- A slot is in state ready: a thread that has been woken is from its first turn on or after four cycles later (R84, R101). -/
def isReady (s : State) (c : Core) (x : Context) : Bool :=
  canIssue s c x && decide (x.readyAt + (x.slot + 16 - x.readyAt % 16) % 16 ≤ s.cycle)

/-- The profiling class of a slot (R84): 0 issued, 1 memory, 2 message, 3 vacant. A bound slot whose wait has ended and whose turn has not come is
counted by the kind of that wait. The table names no class for the slots of a core stopped by a trap at level M (R236), counted as vacant
(DESIGN CHOICE, log 57). -/
def slotClass (s : State) (c : Core) (slot : Nat) : Nat :=
  match c.boundTo slot with
  | none => 3
  | some i =>
    let x := c.ctx i
    if x.stopped || c.dead then 3
    else if canIssue s c x then 0
    else
      let k := if x.waitKind = 0 then x.lastWait else x.waitKind
      if k = 0 ∨ k = 1 ∨ k = 7 ∨ k = 8 then 1 else 2

/-- A counter of 48 bits that saturates (R397). -/
def bump48 (v : Word) : Word := if v.toNat < 2 ^ 48 - 1 then v + 1 else v

/-- Bound contexts of launched RCBs on a core use one slot-cycle each (R334, R336). -/
def countUse (s : State) (k : Nat) : State :=
  ((s.core k).resident.filter (fun p => decide (p.2.st = .bound) && p.2.ofRcb p.2.rcb.toNat && (s.reg p.2.rcb.toNat).launched)).foldl (fun s p =>
    let r := p.2.rcb.toNat
    let d : Dispenser := SMap.get {} s.dispensers (clusterOf k)
    let s := s.setReg r { s.reg r with pendingUse := (s.reg r).pendingUse + 1 }
    { s with dispensers := SMap.set {} s.dispensers (clusterOf k) { d with usedSince := SMap.set 0 d.usedSince r (SMap.get 0 d.usedSince r + 1) } }) s

/-- The offer of slot `cycle mod 16` of the core whose turn it is: the slot's partition comes into force, its class is counted,
and so is the number of ready slots (R81, R340, R397). -/
def offerCount (s : State) : State :=
  let k := s.turn
  let slot := s.cycle % 16
  let s := applySlotpart s k slot
  let c := s.core k
  let j := 4 * slot + slotClass s c slot
  let b := (c.resident.filter (fun p => isReady s c p.2)).length
  let c := { c with slotcnt := SMap.set 0 c.slotcnt j (bump48 (SMap.get 0 c.slotcnt j)),
                    readyhist := SMap.set 0 c.readyhist b (bump48 (SMap.get 0 c.readyhist b)) }
  countUse (s.setCore k c) k

/-! ### The end of a cycle -/

/-- Post the steps that are not already waiting to be taken. -/
def State.postNew (s : State) (l : List Instr) : State := s.post (l.filter (fun i => !s.agenda.contains i))

/-- Every core's event crossbar is evaluated (R227). -/
def crossbars (s : State) : State := ((s.cores.filter (fun (p : Nat × Core) => decide (p.2.armed ≠ 0))).map (·.1)).foldl evalXbar s

/-- What the host and the peers write to their own memory in this cycle (R267, R383, R384). -/
def hostStores (s : State) : State :=
  let s := (Config.hostWrites s.cycle).foldl (fun s p => s.writeAt (.host p.1) p.2) s
  (Config.peerWrites s.cycle).foldl (fun s p => s.writeBoth (.foreign (p.1 % 16) (p.2.1 % 2 ^ 48)) p.2.2.1 p.2.2.2) s

/-- What the device does of its own accord, a message's way over the mesh among it (DESIGN CHOICE, log 11). -/
def ofOwnAccord (s : State) (e : Nat × Nat × Nat) : State := if e.1 = 6 then putOnMesh s e.2.2 else spontaneous s e

/-- Once every 2^10 cycles: the package's limits, consumed fields, held records, refused JOINs and requests that wait are tried again (R329, R336,
R337, R342). -/
def everyKilocycle (s : State) : State :=
  let live := (s.rcbs.filter (fun p => p.2.launched)).map (·.1)
  let s := controlPower (live.foldl addConsumed s)
  let s := if s.heldFaults.isEmpty then s else s.postNew [.heldRecordRetry]
  let s := s.postNew (s.endJoins.map (fun p => Instr.rcbJoinRetry p.1))
  let s := s.postNew (s.dispensers.flatMap (fun (p : Nat × Dispenser) => if p.2.regs.isEmpty then [] else (s.queuesOf p.1).map (fun q => Instr.dispenserRequest p.1 q)))
  s.postNew (s.entryWaits.map (fun e => Instr.entryThreadCreate e.core e.slot e.rcb))

/-- Once a millisecond: the weir's entries, the journal's timer and the fences of recalled grants (R368, R370, R385). -/
def everyMillisecond (s : State) : State := fenceGrants (journalTimer ((List.range 16).foldl egressEntries s))

/-- Held transfers pass once their bucket holds them, and fail at their timeout (R366, R368). -/
def weirs (s : State) : State := (List.range 16).foldl (fun s i => if (s.weir i).held.isEmpty then s else expire (refill s i) i) s

/-- A core cycle has passed on every core. -/
def endCycle (s : State) : State :=
  let ms := s.ms
  let s := { s with turn := 0, cycle := s.cycle + 1, timeUnits := s.timeUnits + cycleUnits s.platform }
  let s := watchLimits (weirs (hostStores (if s.ms = ms then s else everyMillisecond s)))
  let s := (Config.spontaneous s.cycle).foldl ofOwnAccord s
  let live := (s.rcbs.filter (fun p => p.2.launched)).map (·.1)
  let s := live.foldl countQuiet s
  let s := s.postNew ((live.filter (fun i => s.ends i)).map (fun i => Instr.rcbEnd i))
  let s := crossbars (meshCycle s)
  let s := drainFabric (releasePeers (withdrawAll (returnAll s))) s.sdie.fabricIn.length
  let s := if s.cycle % 2 ^ 10 = 0 then everyKilocycle s else s
  if s.cycle % 2 ^ 20 = 0 then s.postNew [.periodStart] else s

/-- The offer is over; after the last core's, the cycle is. -/
def endOffer (s : State) : State := if s.turn + 1 < 256 then { s with turn := s.turn + 1 } else endCycle s

/-- SLOT_OFFER (R397): an offer whose cycle issues nothing. -/
def execSlotOffer (s : State) : Result := .next (endOffer (offerCount s))

/-! ### Fetch (R104, R112) -/

/-- A line that no cache keeps: of host memory (R50), of a peer's, or under an uncached leaf (R313). -/
def keptNowhere (t : Target) : Bool := t.uncached || !(t.loc.isMain || t.loc.isLs)

/-- A line enters the L1 instruction cache of 128 KiB, which gives up a line of its choice when it is full (R22, R104). -/
def keepFetched (m : Micro) (k line : Nat) (d : LineData) : Micro :=
  let l := SMap.get [] m.l1i k
  let l := if l.length < 2048 ∨ l.any (fun p => decide (p.1 = line)) then l else l.eraseIdx (victimOf m l.length)
  { m with tick := m.tick + 1, l1i := SMap.set [] m.l1i k (SMap.put l line d) }

/-- A line of words: from the core's L1 instruction cache, or as the line stands in the global order, to fill the cache where a cache may
keep it. -/
def fetchLine (s : State) (t : Target) : LineData × State :=
  let k := s.cur.core
  let here := if keptNowhere t then none else (SMap.get [] s.micro.l1i k).find? (fun p => decide (p.1 = t.loc.line))
  match here with
  | some p => (p.2, s)
  | none =>
    let l := (s.lineAt t.loc).1
    let m := if keptNowhere t then s.micro else keepFetched s.micro k t.loc.line l
    (l, watchReport { s with micro := m } { s.myWho with thread := none } t.loc true false)

/-- Fetch the word at the chain's next place: the word, or the failing cause with its address. -/
def fetch (s : State) : Except (Nat × Word) (BitVec 32) × State :=
  if s.me.pc.toNat ≥ 2 ^ 56 then (.error (0x0D, s.me.pc), s)
  else
    let a := addr56 (s.me.wordPc.toNat / 4 * 4)
    match checkMe s a { x := true, size := 4 } with
    | (.error c, s) => (.error (c, a), s)
    | (.ok t, s) =>
      let (l, s) := fetchLine s t
      (.ok (BitVec.ofNat 32 (lineBytes l t.loc.off 4)), s)

/-! ### Comparators (R391, R392) -/

/-- A pc comparator in force watches the slot and holds the word address of the pc; bits that must be zero are tested (R391). -/
def pcMatch (c : Core) (x : Context) : Bool :=
  (List.range 4).any (fun i =>
    let v := SMap.get 0 c.pcmp i
    c.pcmpctl.getLsbD (16 * i + 15) && decide (x.slot < 15) && c.pcmpctl.getLsbD (16 * i + x.slot) && decide (bitsOf v 63 56 = 0)
      && decide (x.pc.toNat < 2 ^ 56) && decide (bitsOf v 55 2 = bitsOf x.pc 55 2))

/-- A chain whose first word a comparator holds is offered: the thread traps, or stops where its slot is claimed. -/
def breakAt (s : State) : State :=
  if claimed s then stopCtx (s.setMe { s.me with skipCmp := true }) s.cur
  else takeTrap s 0x20 (addr56 s.me.pc.toNat) 0

/-! ### The checks before the operation (R112, R118, R120) -/

/-- What an offer issues: nothing more, or an operation at a state whose executing context is set. -/
inductive Issue where
  | idle (s : State)
  | word (s : State) (i : Instr)

/-- The chain's prefixes do not bind to the word (R120); the payload of an IMMX that binds to SHI is zero (R131). -/
def prefixMisuse (ch : Chain) (w : BitVec 32) (i : Instr) : Bool :=
  i.isTransfer || (ch.immx.isSome && !wordIsImmediate w) || (decide (opcodeOf w = 0x0E) && ch.immx.any (fun p => decide (p ≠ 0)))
    || (match ch.rep with
        | some (_, f) => !stepMaskOk i.stepFields f
        | none => false)

/-- Issue a repeat of a bound word under REP (R118): `cr.rcnt` is tested and set up before the first, and read by every one. -/
def issueRepeat (s : State) (w : BitVec 32) (i : Instr) (n : Nat) (f : BitVec 4) : Issue :=
  let x := s.me
  if x.chain.begun = false ∧ x.rcnt.toNat > n then .idle (trap s 0x01 x.rcnt)
  else
    let left := if x.chain.begun = false ∧ x.rcnt = 0 then n else x.rcnt.toNat
    let w' := stepWord w i.stepFields f ((n + 2 ^ 64 - left) % 2 ^ 64)
    let s := s.setMe { x with rcnt := BitVec.ofNat 64 left, ir := w', chain := { x.chain with begun := true } }
    match decode w' with
    | .ok i => .word s i
    | .error _ => .idle (reservedWord s w')

/-- Decode a fetched word and check its chain. -/
def issueWord (s : State) (w : BitVec 32) : Issue :=
  let s := s.setMe { s.me with ir := w, served := 0 }
  match decode w with
  | .error _ => .idle (reservedWord s w)
  | .ok i =>
    let ch := s.me.chain
    if i.prefixKind.isSome || decide (ch.len = 0) then .word s i
    else if prefixMisuse ch w i then .idle (trap s 0x05 s.irWord)
    else match ch.rep with
      | none => .word s i
      | some (c, f) => issueRepeat s w i (c.toNat + 1) f

/-- Fetch for the executing context and issue what it fetches. -/
def issueFetched (s : State) : Issue :=
  match fetch s with
  | (.ok w, s) => issueWord s w
  | (.error (c, a), s) =>
    if s.me.chain.len = 0 then .idle (unfetchable s c a)
    else .idle (takeTrap s 0x05 a 0)

/-- What the slot on offer issues (R81); comparators pass over the first chain after a release only (R392). -/
def issueNext (s : State) : Issue :=
  let c := s.core s.turn
  match c.boundTo (s.cycle % 16) with
  | none => .idle s
  | some i =>
    let x := c.ctx i
    if !canIssue s c x then .idle s
    else
      let s := { s with cur := ⟨s.turn, i⟩ }
      if decide (x.chain.len = 0) && !x.skipCmp && pcMatch c x then .idle (breakAt s)
      else issueFetched (s.setMe { x with skipCmp := false })

end Sys2Proof.Machine
end

