-- ==== Sys2Proof/Machine/Scalar.lean ====
section
/-! DEFINITION. The scalar register groups and immediates: ALU, MULDIV, SHIFT, TREE, I form (R124 to R132), and NOP (R111). -/

namespace Sys2Proof.Machine

/-- A register operation of two sources (R124): reads the sources, writes S[d], retires. -/
def binary (s : State) (d a b : BitVec 5) (f : Word → Word → Word) : State := writeRetire s d (f (s.S a) (s.S b))

/-- A unary register operation (R124). -/
def unary (s : State) (d a : BitVec 5) (f : Word → Word) : State := writeRetire s d (f (s.S a))

/-- A truth value as a register value. -/
def flag (b : Bool) : Word := if b then 1 else 0

/-! ### Results of MULDIV (R58, R126) -/

def mulHigh (x y : Word) : Word := BitVec.ofInt 64 (x.toInt * y.toInt / 2 ^ 64)
def mulHighU (x y : Word) : Word := BitVec.ofNat 64 (x.toNat * y.toNat / 2 ^ 64)
def divS (x y : Word) : Word := if y = 0 then BitVec.allOnes 64 else BitVec.ofInt 64 (x.toInt.tdiv y.toInt)
def divU (x y : Word) : Word := if y = 0 then BitVec.allOnes 64 else BitVec.ofNat 64 (x.toNat / y.toNat)
def remS (x y : Word) : Word := if y = 0 then x else BitVec.ofInt 64 (x.toInt.tmod y.toInt)
def remU (x y : Word) : Word := if y = 0 then x else BitVec.ofNat 64 (x.toNat % y.toNat)

/-! ### Results of SHIFT (R127) -/

/-- The shift amount S[b][5:0]. -/
def shamt (y : Word) : Nat := y.toNat % 64

def countLz (x : Word) : Nat := if x = 0 then 64 else 63 - Nat.log2 x.toNat
def countTz (x : Word) : Nat := ((List.range 64).find? (fun j => x.getLsbD j)).getD 64
def countOnes (x : Word) : Nat := (List.range 64).foldl (fun n j => if x.getLsbD j then n + 1 else n) 0
def reverseBits (x : Word) : Word :=
  BitVec.ofNat 64 ((List.range 64).foldl (fun n j => if x.getLsbD j then n + 2 ^ (63 - j) else n) 0)

/-! ### Results of TREE (R128) -/

def gridRow (v : Word) : Nat := rowsOf 28 (v.toNat % 2 ^ 56)
def gridCol (v : Word) : Nat := colsOf 28 (v.toNat % 2 ^ 56)
def zip (x y : Word) : Word := BitVec.ofNat 64 (morton 28 (x.toNat % 2 ^ 28) (y.toNat % 2 ^ 28))
def stepRow (x y : Word) : Word := BitVec.ofNat 64 (morton 28 ((gridRow x + y.toNat) % 2 ^ 28) (gridCol x))
def stepCol (x y : Word) : Word := BitVec.ofNat 64 (morton 28 (gridRow x) ((gridCol x + y.toNat) % 2 ^ 28))

/-- ADD (R125). -/
def execAdd (d a b : BitVec 5) (s : State) : Result :=
  .next (binary s d a b (fun x y => x + y))

/-- SUB (R125). -/
def execSub (d a b : BitVec 5) (s : State) : Result :=
  .next (binary s d a b (fun x y => x - y))

/-- AND (R125). -/
def execAnd (d a b : BitVec 5) (s : State) : Result :=
  .next (binary s d a b (fun x y => x &&& y))

/-- OR (R125). -/
def execOr (d a b : BitVec 5) (s : State) : Result :=
  .next (binary s d a b (fun x y => x ||| y))

/-- XOR (R125). -/
def execXor (d a b : BitVec 5) (s : State) : Result :=
  .next (binary s d a b (fun x y => x ^^^ y))

/-- ANDN (R125). -/
def execAndn (d a b : BitVec 5) (s : State) : Result :=
  .next (binary s d a b (fun x y => x &&& ~~~y))

/-- ORN (R125). -/
def execOrn (d a b : BitVec 5) (s : State) : Result :=
  .next (binary s d a b (fun x y => x ||| ~~~y))

/-- MIN (R125). -/
def execMin (d a b : BitVec 5) (s : State) : Result :=
  .next (binary s d a b (fun x y => if x.toInt ≤ y.toInt then x else y))

/-- MAX (R125). -/
def execMax (d a b : BitVec 5) (s : State) : Result :=
  .next (binary s d a b (fun x y => if x.toInt ≥ y.toInt then x else y))

/-- MINU (R125). -/
def execMinu (d a b : BitVec 5) (s : State) : Result :=
  .next (binary s d a b (fun x y => if x.toNat ≤ y.toNat then x else y))

/-- MAXU (R125). -/
def execMaxu (d a b : BitVec 5) (s : State) : Result :=
  .next (binary s d a b (fun x y => if x.toNat ≥ y.toNat then x else y))

/-- SLT (R125). -/
def execSlt (d a b : BitVec 5) (s : State) : Result :=
  .next (binary s d a b (fun x y => flag (decide (x.toInt < y.toInt))))

/-- SLTU (R125). -/
def execSltu (d a b : BitVec 5) (s : State) : Result :=
  .next (binary s d a b (fun x y => flag (decide (x.toNat < y.toNat))))

/-- SEQ (R125). -/
def execSeq (d a b : BitVec 5) (s : State) : Result :=
  .next (binary s d a b (fun x y => flag (decide (x = y))))

/-- SNE (R125). -/
def execSne (d a b : BitVec 5) (s : State) : Result :=
  .next (binary s d a b (fun x y => flag (decide (x ≠ y))))

/-- MUL (R126). -/
def execMul (d a b : BitVec 5) (s : State) : Result :=
  .next (binary s d a b (fun x y => x * y))

/-- MULH (R126). -/
def execMulh (d a b : BitVec 5) (s : State) : Result :=
  .next (binary s d a b (fun x y => mulHigh x y))

/-- MULHU (R126). -/
def execMulhu (d a b : BitVec 5) (s : State) : Result :=
  .next (binary s d a b (fun x y => mulHighU x y))

/-- DIV (R126). -/
def execDiv (d a b : BitVec 5) (s : State) : Result :=
  .next (binary s d a b (fun x y => divS x y))

/-- DIVU (R126). -/
def execDivu (d a b : BitVec 5) (s : State) : Result :=
  .next (binary s d a b (fun x y => divU x y))

/-- REM (R126). -/
def execRem (d a b : BitVec 5) (s : State) : Result :=
  .next (binary s d a b (fun x y => remS x y))

/-- REMU (R126). -/
def execRemu (d a b : BitVec 5) (s : State) : Result :=
  .next (binary s d a b (fun x y => remU x y))

/-- SHL (R127). -/
def execShl (d a b : BitVec 5) (s : State) : Result :=
  .next (binary s d a b (fun x y => x <<< shamt y))

/-- SHR (R127). -/
def execShr (d a b : BitVec 5) (s : State) : Result :=
  .next (binary s d a b (fun x y => x >>> shamt y))

/-- SRA (R127). -/
def execSra (d a b : BitVec 5) (s : State) : Result :=
  .next (binary s d a b (fun x y => x.sshiftRight (shamt y)))

/-- ROT (R127). -/
def execRot (d a b : BitVec 5) (s : State) : Result :=
  .next (binary s d a b (fun x y => x.rotateLeft (shamt y)))

/-- EXTS (R127). -/
def execExts (d a b : BitVec 5) (s : State) : Result :=
  .next (binary s d a b (fun x y => sext x.toNat (shamt y + 1)))

/-- CLZ (R127). -/
def execClz (d a : BitVec 5) (s : State) : Result :=
  .next (unary s d a (fun x => BitVec.ofNat 64 (countLz x)))

/-- CTZ (R127). -/
def execCtz (d a : BitVec 5) (s : State) : Result :=
  .next (unary s d a (fun x => BitVec.ofNat 64 (countTz x)))

/-- POPC (R127). -/
def execPopc (d a : BitVec 5) (s : State) : Result :=
  .next (unary s d a (fun x => BitVec.ofNat 64 (countOnes x)))

/-- BREV (R127). -/
def execBrev (d a : BitVec 5) (s : State) : Result :=
  .next (unary s d a (fun x => reverseBits x))

/-- ZIP (R128). -/
def execZip (d a b : BitVec 5) (s : State) : Result :=
  .next (binary s d a b (fun x y => zip x y))

/-- ZADDR (R128). -/
def execZaddr (d a b : BitVec 5) (s : State) : Result :=
  .next (binary s d a b (fun x y => stepRow x y))

/-- ZADDC (R128). -/
def execZaddc (d a b : BitVec 5) (s : State) : Result :=
  .next (binary s d a b (fun x y => stepCol x y))

/-- ZROW (R128). -/
def execZrow (d a : BitVec 5) (s : State) : Result :=
  .next (unary s d a (fun x => BitVec.ofNat 64 (gridRow x)))

/-- ZCOL (R128). -/
def execZcol (d a : BitVec 5) (s : State) : Result :=
  .next (unary s d a (fun x => BitVec.ofNat 64 (gridCol x)))

/-- PTRUNC (R128, R129). -/
def execPtrunc (d a b : BitVec 5) (s : State) : Result :=
  match pathOf (s.S a) with
  | none => .next (trap s 0x01 (s.S a))
  | some p =>
    let j := (s.S b).toNat
    if j > p.count then .next (trap s 0x01 (s.S b))
    else .next (writeRetire s d (Path.value ⟨j, p.p >>> (2 * (p.count - j))⟩))

/-- PDIG (R128, R129). -/
def execPdig (d a b : BitVec 5) (s : State) : Result :=
  match pathOf (s.S a) with
  | none => .next (trap s 0x01 (s.S a))
  | some p =>
    let i := (s.S b).toNat
    if i ≥ p.count then .next (trap s 0x01 (s.S b))
    else .next (writeRetire s d (BitVec.ofNat 64 ((p.p >>> (2 * (p.count - 1 - i))) % 4)))

/-- PCAT (R128, R129). Where neither operand is a path value the trap names S[a] (DESIGN CHOICE, log 78). -/
def execPcat (d a b : BitVec 5) (s : State) : Result :=
  match pathOf (s.S a), pathOf (s.S b) with
  | none, _ => .next (trap s 0x01 (s.S a))
  | some _, none => .next (trap s 0x01 (s.S b))
  | some p, some q =>
    let k := p.count + q.count
    if k > 28 then .next (trap s 0x01 (BitVec.ofNat 64 k))
    else .next (writeRetire s d (Path.value ⟨k, p.p * 4 ^ q.count + q.p⟩))

/-- An immediate operation (R130): S[a] and the extended immediate. -/
def immediate (s : State) (d a : BitVec 5) (i : BitVec 15) (f : Word → Word → Word) : State :=
  writeRetire s d (f (s.S a) (s.me.imm i))

/-- ADDI (R130). -/
def execAddi (d a : BitVec 5) (i : BitVec 15) (s : State) : Result :=
  .next (immediate s d a i (fun x y => x + y))

/-- ANDI (R130). -/
def execAndi (d a : BitVec 5) (i : BitVec 15) (s : State) : Result :=
  .next (immediate s d a i (fun x y => x &&& y))

/-- ORI (R130). -/
def execOri (d a : BitVec 5) (i : BitVec 15) (s : State) : Result :=
  .next (immediate s d a i (fun x y => x ||| y))

/-- XORI (R130). -/
def execXori (d a : BitVec 5) (i : BitVec 15) (s : State) : Result :=
  .next (immediate s d a i (fun x y => x ^^^ y))

/-- SLTI (R130). -/
def execSlti (d a : BitVec 5) (i : BitVec 15) (s : State) : Result :=
  .next (immediate s d a i (fun x y => flag (decide (x.toInt < y.toInt))))

/-- SLTIU (R130). -/
def execSltiu (d a : BitVec 5) (i : BitVec 15) (s : State) : Result :=
  .next (immediate s d a i (fun x y => flag (decide (x.toNat < y.toNat))))

/-- An immediate shift (R131): a non-zero IMMX payload on its chain is a prefix misuse. -/
def shiftImm (s : State) (d a : BitVec 5) (f : Word → Word) : State :=
  match s.me.chain.immx with
  | some p => if p = 0 then unary s d a f else trap s 0x05 s.irWord
  | none => unary s d a f

/-- SHLI (R131). -/
def execShli (d a : BitVec 5) (sh : BitVec 6) (s : State) : Result :=
  .next (shiftImm s d a (fun x => x <<< sh.toNat))

/-- SHRI (R131). -/
def execShri (d a : BitVec 5) (sh : BitVec 6) (s : State) : Result :=
  .next (shiftImm s d a (fun x => x >>> sh.toNat))

/-- SRAI (R131). -/
def execSrai (d a : BitVec 5) (sh : BitVec 6) (s : State) : Result :=
  .next (shiftImm s d a (fun x => x.sshiftRight sh.toNat))

/-- LIH (R132). -/
def execLih (d a : BitVec 5) (i : BitVec 15) (s : State) : Result :=
  .next (writeRetire s d (BitVec.ofNat 64 ((s.S a).toNat % 2 ^ 40 + (s.me.immZ i).toNat % 2 ^ 24 * 2 ^ 40)))

/-- NOP (R111). -/
def execNop (s : State) : Result := .next (retire s)

end Sys2Proof.Machine
end

