-- ==== Sys2Proof/Machine/Dispatch.lean ====
section
/-! DEFINITION. One arm per operation or event: its meaning. -/

namespace Sys2Proof.Machine

def exec (i : Instr) (s : State) : Host.Outcome State Fault Refusal :=
  match i with
  | .add d a b => Sys2Proof.Machine.execAdd d a b s
  | .sub d a b => Sys2Proof.Machine.execSub d a b s
  | .and d a b => Sys2Proof.Machine.execAnd d a b s
  | .or d a b => Sys2Proof.Machine.execOr d a b s
  | .xor d a b => Sys2Proof.Machine.execXor d a b s
  | .andn d a b => Sys2Proof.Machine.execAndn d a b s
  | .orn d a b => Sys2Proof.Machine.execOrn d a b s
  | .min d a b => Sys2Proof.Machine.execMin d a b s
  | .max d a b => Sys2Proof.Machine.execMax d a b s
  | .minu d a b => Sys2Proof.Machine.execMinu d a b s
  | .maxu d a b => Sys2Proof.Machine.execMaxu d a b s
  | .slt d a b => Sys2Proof.Machine.execSlt d a b s
  | .sltu d a b => Sys2Proof.Machine.execSltu d a b s
  | .seq d a b => Sys2Proof.Machine.execSeq d a b s
  | .sne d a b => Sys2Proof.Machine.execSne d a b s
  | .mul d a b => Sys2Proof.Machine.execMul d a b s
  | .mulh d a b => Sys2Proof.Machine.execMulh d a b s
  | .mulhu d a b => Sys2Proof.Machine.execMulhu d a b s
  | .div d a b => Sys2Proof.Machine.execDiv d a b s
  | .divu d a b => Sys2Proof.Machine.execDivu d a b s
  | .rem d a b => Sys2Proof.Machine.execRem d a b s
  | .remu d a b => Sys2Proof.Machine.execRemu d a b s
  | .shl d a b => Sys2Proof.Machine.execShl d a b s
  | .shr d a b => Sys2Proof.Machine.execShr d a b s
  | .sra d a b => Sys2Proof.Machine.execSra d a b s
  | .rot d a b => Sys2Proof.Machine.execRot d a b s
  | .clz d a => Sys2Proof.Machine.execClz d a s
  | .ctz d a => Sys2Proof.Machine.execCtz d a s
  | .popc d a => Sys2Proof.Machine.execPopc d a s
  | .brev d a => Sys2Proof.Machine.execBrev d a s
  | .exts d a b => Sys2Proof.Machine.execExts d a b s
  | .zip d a b => Sys2Proof.Machine.execZip d a b s
  | .zrow d a => Sys2Proof.Machine.execZrow d a s
  | .zcol d a => Sys2Proof.Machine.execZcol d a s
  | .zaddr d a b => Sys2Proof.Machine.execZaddr d a b s
  | .zaddc d a b => Sys2Proof.Machine.execZaddc d a b s
  | .ptrunc d a b => Sys2Proof.Machine.execPtrunc d a b s
  | .pdig d a b => Sys2Proof.Machine.execPdig d a b s
  | .pcat d a b => Sys2Proof.Machine.execPcat d a b s
  | .addi d a n => Sys2Proof.Machine.execAddi d a n s
  | .andi d a n => Sys2Proof.Machine.execAndi d a n s
  | .ori d a n => Sys2Proof.Machine.execOri d a n s
  | .xori d a n => Sys2Proof.Machine.execXori d a n s
  | .slti d a n => Sys2Proof.Machine.execSlti d a n s
  | .sltiu d a n => Sys2Proof.Machine.execSltiu d a n s
  | .shli d a sh => Sys2Proof.Machine.execShli d a sh s
  | .shri d a sh => Sys2Proof.Machine.execShri d a sh s
  | .srai d a sh => Sys2Proof.Machine.execSrai d a sh s
  | .lih d a n => Sys2Proof.Machine.execLih d a n s
  | .ldB d a n => Sys2Proof.Machine.execLdB d a n s
  | .ldH d a n => Sys2Proof.Machine.execLdH d a n s
  | .ldW d a n => Sys2Proof.Machine.execLdW d a n s
  | .ldD d a n => Sys2Proof.Machine.execLdD d a n s
  | .ldzB d a n => Sys2Proof.Machine.execLdzB d a n s
  | .ldzH d a n => Sys2Proof.Machine.execLdzH d a n s
  | .ldzW d a n => Sys2Proof.Machine.execLdzW d a n s
  | .ldx d a n => Sys2Proof.Machine.execLdx d a n s
  | .stB v a n => Sys2Proof.Machine.execStB v a n s
  | .stH v a n => Sys2Proof.Machine.execStH v a n s
  | .stW v a n => Sys2Proof.Machine.execStW v a n s
  | .stD v a n => Sys2Proof.Machine.execStD v a n s
  | .ldbB d a b => Sys2Proof.Machine.execLdbB d a b s
  | .ldbH d a b => Sys2Proof.Machine.execLdbH d a b s
  | .ldbW d a b => Sys2Proof.Machine.execLdbW d a b s
  | .ldbD d a b => Sys2Proof.Machine.execLdbD d a b s
  | .ldbzB d a b => Sys2Proof.Machine.execLdbzB d a b s
  | .ldbzH d a b => Sys2Proof.Machine.execLdbzH d a b s
  | .ldbzW d a b => Sys2Proof.Machine.execLdbzW d a b s
  | .amoadd d a b z => Sys2Proof.Machine.execAmoadd d a b z s
  | .amoand d a b z => Sys2Proof.Machine.execAmoand d a b z s
  | .amoor d a b z => Sys2Proof.Machine.execAmoor d a b z s
  | .amoxor d a b z => Sys2Proof.Machine.execAmoxor d a b z s
  | .amomin d a b z => Sys2Proof.Machine.execAmomin d a b z s
  | .amomax d a b z => Sys2Proof.Machine.execAmomax d a b z s
  | .amominu d a b z => Sys2Proof.Machine.execAmominu d a b z s
  | .amomaxu d a b z => Sys2Proof.Machine.execAmomaxu d a b z s
  | .amoswp d a b z => Sys2Proof.Machine.execAmoswp d a b z s
  | .join d a => Sys2Proof.Machine.execJoin d a s
  | .cas d a b z => Sys2Proof.Machine.execCas d a b z s
  | .nop => Sys2Proof.Machine.execNop s
  | .beq a b n => Sys2Proof.Machine.execBeq a b n s
  | .bne a b n => Sys2Proof.Machine.execBne a b n s
  | .blt a b n => Sys2Proof.Machine.execBlt a b n s
  | .bge a b n => Sys2Proof.Machine.execBge a b n s
  | .bltu a b n => Sys2Proof.Machine.execBltu a b n s
  | .bgeu a b n => Sys2Proof.Machine.execBgeu a b n s
  | .j n => Sys2Proof.Machine.execJ n s
  | .jal n => Sys2Proof.Machine.execJal n s
  | .jr a => Sys2Proof.Machine.execJr a s
  | .callr a => Sys2Proof.Machine.execCallr a s
  | .ret => Sys2Proof.Machine.execRet s
  | .callat d a b => Sys2Proof.Machine.execCallat d a b s
  | .reply a b => Sys2Proof.Machine.execReply a b s
  | .waitr d a => Sys2Proof.Machine.execWaitr d a s
  | .waitw => Sys2Proof.Machine.execWaitw s
  | .waite a => Sys2Proof.Machine.execWaite a s
  | .waiteFill a => Sys2Proof.Machine.execWaiteFill a s
  | .waiteFree a => Sys2Proof.Machine.execWaiteFree a s
  | .enq d a b => Sys2Proof.Machine.execEnq d a b s
  | .deq d a b => Sys2Proof.Machine.execDeq d a b s
  | .deqt d a b => Sys2Proof.Machine.execDeqt d a b s
  | .send d a b e => Sys2Proof.Machine.execSend d a b e s
  | .rpub d a => Sys2Proof.Machine.execRpub d a s
  | .racq d a => Sys2Proof.Machine.execRacq d a s
  | .rfloor a b => Sys2Proof.Machine.execRfloor a b s
  | .rsub d a => Sys2Proof.Machine.execRsub d a s
  | .rfloorClr a => Sys2Proof.Machine.execRfloorClr a s
  | .binit a b => Sys2Proof.Machine.execBinit a b s
  | .barr a => Sys2Proof.Machine.execBarr a s
  | .bexp a b => Sys2Proof.Machine.execBexp a b s
  | .bwait d a b => Sys2Proof.Machine.execBwait d a b s
  | .btest d a => Sys2Proof.Machine.execBtest d a s
  | .bhset d a => Sys2Proof.Machine.execBhset d a s
  | .bsni a b => Sys2Proof.Machine.execBsni a b s
  | .bsnp d a => Sys2Proof.Machine.execBsnp d a s
  | .bsnc a => Sys2Proof.Machine.execBsnc a s
  | .bsng d a => Sys2Proof.Machine.execBsng d a s
  | .bsnf a => Sys2Proof.Machine.execBsnf a s
  | .tdef d a b => Sys2Proof.Machine.execTdef d a b s
  | .tldd d a => Sys2Proof.Machine.execTldd d a s
  | .tstd a b => Sys2Proof.Machine.execTstd a b s
  | .text d a b => Sys2Proof.Machine.execText d a b s
  | .tsub d a k p => Sys2Proof.Machine.execTsub d a k p s
  | .tsubr d a b => Sys2Proof.Machine.execTsubr d a b s
  | .bcopy d a h => Sys2Proof.Machine.execBcopy d a h s
  | .bcopyBnd d a h k => Sys2Proof.Machine.execBcopyBnd d a h k s
  | .bcopyBsn d a h n => Sys2Proof.Machine.execBcopyBsn d a h n s
  | .bfill d h v => Sys2Proof.Machine.execBfill d h v s
  | .bgath d a c h => Sys2Proof.Machine.execBgath d a c h s
  | .bscat d a c h => Sys2Proof.Machine.execBscat d a c h s
  | .bpref d h => Sys2Proof.Machine.execBpref d h s
  | .bres d h c => Sys2Proof.Machine.execBres d h c s
  | .bevict d h => Sys2Proof.Machine.execBevict d h s
  | .bdemote d h => Sys2Proof.Machine.execBdemote d h s
  | .bown d h => Sys2Proof.Machine.execBown d h s
  | .brel d h => Sys2Proof.Machine.execBrel d h s
  | .mxst a h u => Sys2Proof.Machine.execMxst a h u s
  | .mxma d a h u => Sys2Proof.Machine.execMxma d a h u s
  | .mxmas d a h r u => Sys2Proof.Machine.execMxmas d a h r u s
  | .vadd d a c h => Sys2Proof.Machine.execVadd d a c h s
  | .vsub d a c h => Sys2Proof.Machine.execVsub d a c h s
  | .vmul d a c h => Sys2Proof.Machine.execVmul d a c h s
  | .vfma d a c h => Sys2Proof.Machine.execVfma d a c h s
  | .vmin d a c h => Sys2Proof.Machine.execVmin d a c h s
  | .vmax d a c h => Sys2Proof.Machine.execVmax d a c h s
  | .vabs d a h => Sys2Proof.Machine.execVabs d a h s
  | .vneg d a h => Sys2Proof.Machine.execVneg d a h s
  | .vand d a c h => Sys2Proof.Machine.execVand d a c h s
  | .vor d a c h => Sys2Proof.Machine.execVor d a c h s
  | .vxor d a c h => Sys2Proof.Machine.execVxor d a c h s
  | .vnot d a h => Sys2Proof.Machine.execVnot d a h s
  | .vshl d a c h => Sys2Proof.Machine.execVshl d a c h s
  | .vshr d a c h => Sys2Proof.Machine.execVshr d a c h s
  | .vcmp d a c h o => Sys2Proof.Machine.execVcmp d a c h o s
  | .vsel d a c h => Sys2Proof.Machine.execVsel d a c h s
  | .vcvt d a h m => Sys2Proof.Machine.execVcvt d a h m s
  | .vexp2 d a h => Sys2Proof.Machine.execVexp2 d a h s
  | .vlog2 d a h => Sys2Proof.Machine.execVlog2 d a h s
  | .vrcp d a h => Sys2Proof.Machine.execVrcp d a h s
  | .vrsq d a h => Sys2Proof.Machine.execVrsq d a h s
  | .vtanh d a h => Sys2Proof.Machine.execVtanh d a h s
  | .vred d a h r o => Sys2Proof.Machine.execVred d a h r o s
  | .vscan d a h r o => Sys2Proof.Machine.execVscan d a h r o s
  | .vtrn d a h => Sys2Proof.Machine.execVtrn d a h s
  | .vbcst d a h b => Sys2Proof.Machine.execVbcst d a h b s
  | .vgath d a c h m => Sys2Proof.Machine.execVgath d a c h m s
  | .vmov d a h => Sys2Proof.Machine.execVmov d a h s
  | .vgen d h p => Sys2Proof.Machine.execVgen d h p s
  | .vgenConst d h c => Sys2Proof.Machine.execVgenConst d h c s
  | .cbld a b => Sys2Proof.Machine.execCbld a b s
  | .skset a b => Sys2Proof.Machine.execSkset a b s
  | .xbsetCtr d a b => Sys2Proof.Machine.execXbsetCtr d a b s
  | .xbsetTerm d a b => Sys2Proof.Machine.execXbsetTerm d a b s
  | .xbsetStage d a b => Sys2Proof.Machine.execXbsetStage d a b s
  | .xbarmOn d a => Sys2Proof.Machine.execXbarmOn d a s
  | .xbarmOff d a => Sys2Proof.Machine.execXbarmOff d a s
  | .ectlRd d a b e => Sys2Proof.Machine.execEctlRd d a b e s
  | .ectlRes a e => Sys2Proof.Machine.execEctlRes a e s
  | .ectlCan a e => Sys2Proof.Machine.execEctlCan a e s
  | .estat d e => Sys2Proof.Machine.execEstat d e s
  | .trap a => Sys2Proof.Machine.execTrap a s
  | .scall a => Sys2Proof.Machine.execScall a s
  | .mcall => Sys2Proof.Machine.execMcall s
  | .eret => Sys2Proof.Machine.execEret s
  | .resume a => Sys2Proof.Machine.execResume a s
  | .park a => Sys2Proof.Machine.execPark a s
  | .crr d c => Sys2Proof.Machine.execCrr d c s
  | .crw d a c => Sys2Proof.Machine.execCrw d a c s
  | .ctxr d a b => Sys2Proof.Machine.execCtxr d a b s
  | .ctxw d a b => Sys2Proof.Machine.execCtxw d a b s
  | .spill a => Sys2Proof.Machine.execSpill a s
  | .fill d a b => Sys2Proof.Machine.execFill d a b s
  | .kload d a b => Sys2Proof.Machine.execKload d a b s
  | .kder d a b => Sys2Proof.Machine.execKder d a b s
  | .krev d a => Sys2Proof.Machine.execKrev d a s
  | .japp d a b => Sys2Proof.Machine.execJapp d a b s
  | .ifence => Sys2Proof.Machine.execIfence s
  | .tfence => Sys2Proof.Machine.execTfence s
  | .bkpt => Sys2Proof.Machine.execBkpt s
  | .halt => Sys2Proof.Machine.execHalt s
  | .immx p => Sys2Proof.Machine.execImmx p s
  | .rep c f => Sys2Proof.Machine.execRep c f s
  | .hint k a => Sys2Proof.Machine.execHint k a s
  | .memoryReply core ctx => Sys2Proof.Machine.execMemoryReply core ctx s
  | .wake core ctx => Sys2Proof.Machine.execWake core ctx s
  | .preempt core ctx => Sys2Proof.Machine.execPreempt core ctx s
  | .windowSpill core ctx => Sys2Proof.Machine.execWindowSpill core ctx s
  | .contextSpill core => Sys2Proof.Machine.execContextSpill core s
  | .engineAccept core ctx => Sys2Proof.Machine.execEngineAccept core ctx s
  | .bargeStart core e => Sys2Proof.Machine.execBargeStart core e s
  | .bargeUnit core e => Sys2Proof.Machine.execBargeUnit core e s
  | .bargeComplete core e => Sys2Proof.Machine.execBargeComplete core e s
  | .basinSlotClaim core => Sys2Proof.Machine.execBasinSlotClaim core s
  | .hubCommand m => Sys2Proof.Machine.execHubCommand m s
  | .sendCommandReceipt m => Sys2Proof.Machine.execSendCommandReceipt m s
  | .replyDelivery route value sender => Sys2Proof.Machine.execReplyDelivery route value sender s
  | .remoteBarrierOperation m => Sys2Proof.Machine.execRemoteBarrierOperation m s
  | .homeAtomic q => Sys2Proof.Machine.execHomeAtomic q s
  | .homeJoin block who d => Sys2Proof.Machine.execHomeJoin block who d s
  | .homeEnqueue q => Sys2Proof.Machine.execHomeEnqueue q s
  | .homeDequeue q => Sys2Proof.Machine.execHomeDequeue q s
  | .dispenserRequest cluster queue => Sys2Proof.Machine.execDispenserRequest cluster queue s
  | .dispenserBind cluster queue => Sys2Proof.Machine.execDispenserBind cluster queue s
  | .affinityTimeout cluster queue => Sys2Proof.Machine.execAffinityTimeout cluster queue s
  | .entryThreadCreate core slot rcb => Sys2Proof.Machine.execEntryThreadCreate core slot rcb s
  | .periodStart => Sys2Proof.Machine.execPeriodStart s
  | .consumedUpdate rcb => Sys2Proof.Machine.execConsumedUpdate rcb s
  | .quiescent rcb => Sys2Proof.Machine.execQuiescent rcb s
  | .rcbEnd rcb => Sys2Proof.Machine.execRcbEnd rcb s
  | .rcbJoinRetry rcb => Sys2Proof.Machine.execRcbJoinRetry rcb s
  | .heldRecordRetry => Sys2Proof.Machine.execHeldRecordRetry s
  | .xbarTermFire core term => Sys2Proof.Machine.execXbarTermFire core term s
  | .stagedLaunch core reg => Sys2Proof.Machine.execStagedLaunch core reg s
  | .regionRpub region who d => Sys2Proof.Machine.execRegionRpub region who d s
  | .roundMulticast level region round => Sys2Proof.Machine.execRoundMulticast level region round s
  | .boundedRequest core ctx => Sys2Proof.Machine.execBoundedRequest core ctx s
  | .homeGets q => Sys2Proof.Machine.execHomeGets q s
  | .homeGetx q => Sys2Proof.Machine.execHomeGetx q s
  | .homeUpg q => Sys2Proof.Machine.execHomeUpg q s
  | .homeRenew q => Sys2Proof.Machine.execHomeRenew q s
  | .homeWb line core img clean => Sys2Proof.Machine.execHomeWb line core img clean s
  | .homeGack line core => Sys2Proof.Machine.execHomeGack line core s
  | .homeFdata line core img stamps => Sys2Proof.Machine.execHomeFdata line core img stamps s
  | .homeGone line core => Sys2Proof.Machine.execHomeGone line core s
  | .walkerRead reader line => Sys2Proof.Machine.execWalkerRead reader line s
  | .evictionNotice core line round => Sys2Proof.Machine.execEvictionNotice core line round s
  | .agentData core line c exclusive => Sys2Proof.Machine.execAgentData core line c exclusive s
  | .agentAckx core line r => Sys2Proof.Machine.execAgentAckx core line r s
  | .agentRnack core line r => Sys2Proof.Machine.execAgentRnack core line r s
  | .agentWback core line => Sys2Proof.Machine.execAgentWback core line s
  | .agentFwd core line kind => Sys2Proof.Machine.execAgentFwd core line kind s
  | .agentRetry q => Sys2Proof.Machine.execAgentRetry q s
  | .invReceive party line round writer => Sys2Proof.Machine.execInvReceive party line round writer s
  | .iackReceive ack => Sys2Proof.Machine.execIackReceive ack s
  | .lineEviction core line => Sys2Proof.Machine.execLineEviction core line s
  | .translationDrop core index => Sys2Proof.Machine.execTranslationDrop core index s
  | .l2PeerServe cluster peer line clk => Sys2Proof.Machine.execL2PeerServe cluster peer line clk s
  | .clockMinimumBroadcast slice => Sys2Proof.Machine.execClockMinimumBroadcast slice s
  | .rehome granule slice => Sys2Proof.Machine.execRehome granule slice s
  | .meshArbitration die pos port => Sys2Proof.Machine.execMeshArbitration die pos port s
  | .crSqpopWrite core v => Sys2Proof.Machine.execCrSqpopWrite core v s
  | .crTrootWrite core v => Sys2Proof.Machine.execCrTrootWrite core v s
  | .crSlotpartWrite core v => Sys2Proof.Machine.execCrSlotpartWrite core v s
  | .crBankpartWrite core hi v => Sys2Proof.Machine.execCrBankpartWrite core hi v s
  | .crWinWrite core ctx v => Sys2Proof.Machine.execCrWinWrite core ctx v s
  | .crWspWrite core ctx v => Sys2Proof.Machine.execCrWspWrite core ctx v s
  | .crJexportWrite v => Sys2Proof.Machine.execCrJexportWrite v s
  | .crWeiraWrite core region v => Sys2Proof.Machine.execCrWeiraWrite core region v s
  | .crWeirbWrite core region v => Sys2Proof.Machine.execCrWeirbWrite core region v s
  | .crSenslimWrite v => Sys2Proof.Machine.execCrSenslimWrite v s
  | .sensorTrip volt temp clock => Sys2Proof.Machine.execSensorTrip volt temp clock s
  | .journalCheckpoint => Sys2Proof.Machine.execJournalCheckpoint s
  | .weirRefill region => Sys2Proof.Machine.execWeirRefill region s
  | .weirTimeout region => Sys2Proof.Machine.execWeirTimeout region s
  | .weirEgressEntry region => Sys2Proof.Machine.execWeirEgressEntry region s
  | .bar2Read dest len => Sys2Proof.Machine.execBar2Read dest len s
  | .bar2Write dest bytes => Sys2Proof.Machine.execBar2Write dest bytes s
  | .bar0Write dest op => Sys2Proof.Machine.execBar0Write dest op s
  | .hcRingtail word => Sys2Proof.Machine.execHcRingtail word s
  | .hcRingctl word => Sys2Proof.Machine.execHcRingctl word s
  | .ringFetch => Sys2Proof.Machine.execRingFetch s
  | .ringOpen entry => Sys2Proof.Machine.execRingOpen entry s
  | .ringLaunch seq operands => Sys2Proof.Machine.execRingLaunch seq operands s
  | .ringGraph seq operands => Sys2Proof.Machine.execRingGraph seq operands s
  | .ringImport seq operands => Sys2Proof.Machine.execRingImport seq operands s
  | .ringSummary seq operands => Sys2Proof.Machine.execRingSummary seq operands s
  | .ringJfree seq operands => Sys2Proof.Machine.execRingJfree seq operands s
  | .fabricSend port => Sys2Proof.Machine.execFabricSend port s
  | .fabricReceive port record => Sys2Proof.Machine.execFabricReceive port record s
  | .peerAccess q => Sys2Proof.Machine.execPeerAccess q s
  | .debugAttach mode => Sys2Proof.Machine.execDebugAttach mode s
  | .debugDetach => Sys2Proof.Machine.execDebugDetach s
  | .debugStop core slot => Sys2Proof.Machine.execDebugStop core slot s
  | .debugRelease core slot => Sys2Proof.Machine.execDebugRelease core slot s
  | .debugStep core slot => Sys2Proof.Machine.execDebugStep core slot s
  | .debugClaim core mask => Sys2Proof.Machine.execDebugClaim core mask s
  | .debugReadState core what index => Sys2Proof.Machine.execDebugReadState core what index s
  | .debugReadCr core ctx cr => Sys2Proof.Machine.execDebugReadCr core ctx cr s
  | .debugReadContext core ctx off => Sys2Proof.Machine.execDebugReadContext core ctx off s
  | .debugWriteContext core ctx off v => Sys2Proof.Machine.execDebugWriteContext core ctx off v s
  | .debugReadMemory line => Sys2Proof.Machine.execDebugReadMemory line s
  | .debugWriteMemory line data side => Sys2Proof.Machine.execDebugWriteMemory line data side s
  | .debugProgramPcmp core index v => Sys2Proof.Machine.execDebugProgramPcmp core index v s
  | .debugProgramWatch slice index v => Sys2Proof.Machine.execDebugProgramWatch slice index v s
  | .debugLaunch entry core slot rcb => Sys2Proof.Machine.execDebugLaunch entry core slot rcb s
  | .powerOnReset => Sys2Proof.Machine.execPowerOnReset s
  | .bringUpStage r => Sys2Proof.Machine.execBringUpStage r s
  | .powerControlWrite v => Sys2Proof.Machine.execPowerControlWrite v s
  | .throttleDown => Sys2Proof.Machine.execThrottleDown s
  | .throttleUp => Sys2Proof.Machine.execThrottleUp s
  | .gatingStep deeper draw => Sys2Proof.Machine.execGatingStep deeper draw s
  | .machineCheck line die core => Sys2Proof.Machine.execMachineCheck line die core s
  | .wearUpdate fig => Sys2Proof.Machine.execWearUpdate fig s
  | .reservedEncoding w => Sys2Proof.Machine.execReservedEncoding w s
  | .unfetchableWord cause tval => Sys2Proof.Machine.execUnfetchableWord cause tval s
  | .slotOffer => Sys2Proof.Machine.execSlotOffer s
  | .l1InstructionCacheDrop core line => Sys2Proof.Machine.execL1InstructionCacheDrop core line s
  | .keyCachePurge core slot => Sys2Proof.Machine.execKeyCachePurge core slot s
  | .homeRecall slice q => Sys2Proof.Machine.execHomeRecall slice q s

end Sys2Proof.Machine
end

