-- ==== Sys2Proof/Machine/Step.lean ====
section
/-! DEFINITION. One step of the package: a step of another party that stands in the agenda, or the offer of one slot of one
core (R81, R82). -/

namespace Sys2Proof.Machine

/-- What the slot on offer issues is executed; a stop or a park that was pending is then taken if the thread has entered a wait
(R241, R390). -/
def issue (s : State) : Result :=
  match issueNext s with
  | .idle t => .next t
  | .word t i =>
    match exec i t with
    | .next u => .next (takePending u t.cur)
    | .fault f => .fault f
    | .refused r => .refused r

/-- An offer: it is counted, the slot issues, and the offer ends. -/
def offer (s : State) : Result :=
  match issue (offerCount s) with
  | .next t => .next (endOffer t)
  | .fault f => .fault f
  | .refused r => .refused r

/-- The instruction of a thread that has been woken is carried out again at once, as it was latched at its turn: it retires,
traps, or waits on (R101, R192). -/
def completeWoken (r : ThreadRef) (s : State) : Result :=
  let s := { s with woken := none, cur := r }
  match decode s.me.ir with
  | .error _ => .next (s.setMe { s.me with wait := 0, pend := .none })
  | .ok i =>
    match exec i s with
    | .next t => .next (takePending t r)
    | .fault f => .fault f
    | .refused e => .refused e

/-- A step of another party, and the completion of the instruction it wakes; an operation of the host or of the debugger that has to wait does
(R305, R390). -/
def act (i : Instr) (s : State) : Result :=
  match portReady i s with
  | .error t => .next t
  | .ok s =>
    match exec i s with
    | .next t =>
      match t.woken with
      | none => .next t
      | some r => completeWoken r t
    | .fault f => .fault f
    | .refused e => .refused e

/-- The place in the agenda that a step takes: the spec leaves the order of its entries open, but for the messages of one channel from one
source to one destination, which arrive in the order sent (R304, R350). None where the next of its channel is still in the mesh. -/
def chosen (s : State) : Option Nat :=
  let n := Config.schedule s.tick % (s.agenda.length + 1)
  match s.agenda[n]? with
  | none => none
  | some i => if heldBack s i then none else some (firstOfLane s n i)

/-- One step: a request that a home has let go on, an entry of the agenda, or the offer of a slot (R81, R305). -/
def step (s : State) : Result :=
  let s' := { s with tick := s.tick + 1 }
  match s.due, chosen s with
  | i :: t, _ => act i { s' with due := t }
  | [], none => offer s'
  | [], some n =>
    match s.agenda[n]? with
    | none => offer s'
    | some i => act i { s' with agenda := s.agenda.eraseIdx n }

/-- `s` with an instruction placed where the next step fetches: the place stands for the loading of a program (DESIGN CHOICE, log 9). Core
0x00's slot 15 is on offer, its thread is at level M and fetches from the start of the core's local store. -/
def State.withFetchWord (s : State) (_nbits w : Nat) : State :=
  let x : Context := { st := .bound, slot := 15, level := .m, prior := 1, pc := 0x00F0000000000000, tid := 1 }
  let s : State := { s with
    mem := s.mem.writeBytes 0x00F0000000000000 (wordBytes (BitVec.ofNat 32 w))
    micro := { s.micro with l1i := SMap.set [] s.micro.l1i 0 [] }
    agenda := []
    due := []
    turn := 0
    cycle := s.cycle / 16 * 16 + 15 }
  s.setCore 0 { s.core 0 with ctxs := [(0, x)], dead := false }

end Sys2Proof.Machine
end

