-- ==== Sys2Proof/Laws/Encoding.lean ====
section
/-! SUPPORT. Fields of instruction words as numbers: what the round trip of the encoder and the decoder rests on. -/

namespace Sys2Proof.Laws

theorem fld_toNat (w : BitVec 32) (lo n : Nat) : (fld w lo n).toNat = w.toNat / 2 ^ lo % 2 ^ n := by
  simp [fld, BitVec.extractLsb'_toNat, Nat.shiftRight_eq_div_pow]

/-- An appended word is its high part times a power of two plus its low part. -/
theorem append_toNat {n m : Nat} (x : BitVec n) (y : BitVec m) : (x ++ y).toNat = x.toNat * 2 ^ m + y.toNat := by
  rw [BitVec.toNat_append, Nat.shiftLeft_eq, Nat.mul_comm, Nat.two_pow_add_eq_or_of_lt y.isLt]

/-- A field is `v` when its number is. -/
theorem fld_eq {w : BitVec 32} {lo n : Nat} {v : BitVec n} (h : w.toNat / 2 ^ lo % 2 ^ n = v.toNat) : fld w lo n = v :=
  BitVec.eq_of_toNat_eq (by rw [fld_toNat, h])

/-- A field is not `v` when its number is not. -/
theorem fld_ne {w : BitVec 32} {lo n : Nat} {v : BitVec n} (h : w.toNat / 2 ^ lo % 2 ^ n ≠ v.toNat) : fld w lo n ≠ v := by
  intro e; exact h (by rw [← e, fld_toNat])

end Sys2Proof.Laws
end

