-- ==== Sys2Proof/Laws/PerInstr.lean ====
section
/-! SUPPORT. One lemma per constructor: decoding the word that encodes a well-formed instruction gives the instruction back.
An event has no word. -/

namespace Sys2Proof.Laws.RoundTrip

/-- Decoding the encoding of a well-formed instruction gives the instruction back. -/
def Statement (i : Instr) : Prop := i.wf = true → ∀ w, encode i = some w → decode w = .ok i

theorem s7_5_5_5_10_f0 (x0 : BitVec 7) (x1 : BitVec 5) (x2 : BitVec 5) (x3 : BitVec 5) (x4 : BitVec 10) : fld (x0 ++ x1 ++ x2 ++ x3 ++ x4 : BitVec 32) 25 7 = x0 := by
  unfold fld; rw [BitVec.extractLsb'_append_eq_of_le (by decide), BitVec.extractLsb'_append_eq_of_le (by decide), BitVec.extractLsb'_append_eq_of_le (by decide), BitVec.extractLsb'_append_eq_of_le (by decide)]; simp

theorem s7_5_5_5_10_f1 (x0 : BitVec 7) (x1 : BitVec 5) (x2 : BitVec 5) (x3 : BitVec 5) (x4 : BitVec 10) : fld (x0 ++ x1 ++ x2 ++ x3 ++ x4 : BitVec 32) 20 5 = x1 := by
  unfold fld; rw [BitVec.extractLsb'_append_eq_of_le (by decide), BitVec.extractLsb'_append_eq_of_le (by decide), BitVec.extractLsb'_append_eq_of_le (by decide), BitVec.extractLsb'_append_eq_of_add_le (by decide)]; simp

theorem s7_5_5_5_10_f2 (x0 : BitVec 7) (x1 : BitVec 5) (x2 : BitVec 5) (x3 : BitVec 5) (x4 : BitVec 10) : fld (x0 ++ x1 ++ x2 ++ x3 ++ x4 : BitVec 32) 15 5 = x2 := by
  unfold fld; rw [BitVec.extractLsb'_append_eq_of_le (by decide), BitVec.extractLsb'_append_eq_of_le (by decide), BitVec.extractLsb'_append_eq_of_add_le (by decide)]; simp

theorem s7_5_5_5_10_f3 (x0 : BitVec 7) (x1 : BitVec 5) (x2 : BitVec 5) (x3 : BitVec 5) (x4 : BitVec 10) : fld (x0 ++ x1 ++ x2 ++ x3 ++ x4 : BitVec 32) 10 5 = x3 := by
  unfold fld; rw [BitVec.extractLsb'_append_eq_of_le (by decide), BitVec.extractLsb'_append_eq_of_add_le (by decide)]; simp

theorem s7_5_5_5_10_f4 (x0 : BitVec 7) (x1 : BitVec 5) (x2 : BitVec 5) (x3 : BitVec 5) (x4 : BitVec 10) : fld (x0 ++ x1 ++ x2 ++ x3 ++ x4 : BitVec 32) 0 10 = x4 := by
  unfold fld; rw [BitVec.extractLsb'_append_eq_of_add_le (by decide)]; simp

theorem s7_5_5_15_f0 (x0 : BitVec 7) (x1 : BitVec 5) (x2 : BitVec 5) (x3 : BitVec 15) : fld (x0 ++ x1 ++ x2 ++ x3 : BitVec 32) 25 7 = x0 := by
  unfold fld; rw [BitVec.extractLsb'_append_eq_of_le (by decide), BitVec.extractLsb'_append_eq_of_le (by decide), BitVec.extractLsb'_append_eq_of_le (by decide)]; simp

theorem s7_5_5_15_f1 (x0 : BitVec 7) (x1 : BitVec 5) (x2 : BitVec 5) (x3 : BitVec 15) : fld (x0 ++ x1 ++ x2 ++ x3 : BitVec 32) 20 5 = x1 := by
  unfold fld; rw [BitVec.extractLsb'_append_eq_of_le (by decide), BitVec.extractLsb'_append_eq_of_le (by decide), BitVec.extractLsb'_append_eq_of_add_le (by decide)]; simp

theorem s7_5_5_15_f2 (x0 : BitVec 7) (x1 : BitVec 5) (x2 : BitVec 5) (x3 : BitVec 15) : fld (x0 ++ x1 ++ x2 ++ x3 : BitVec 32) 15 5 = x2 := by
  unfold fld; rw [BitVec.extractLsb'_append_eq_of_le (by decide), BitVec.extractLsb'_append_eq_of_add_le (by decide)]; simp

theorem s7_5_5_15_f3 (x0 : BitVec 7) (x1 : BitVec 5) (x2 : BitVec 5) (x3 : BitVec 15) : fld (x0 ++ x1 ++ x2 ++ x3 : BitVec 32) 0 15 = x3 := by
  unfold fld; rw [BitVec.extractLsb'_append_eq_of_add_le (by decide)]; simp

theorem s7_5_5_9_6_f0 (x0 : BitVec 7) (x1 : BitVec 5) (x2 : BitVec 5) (x3 : BitVec 9) (x4 : BitVec 6) : fld (x0 ++ x1 ++ x2 ++ x3 ++ x4 : BitVec 32) 25 7 = x0 := by
  unfold fld; rw [BitVec.extractLsb'_append_eq_of_le (by decide), BitVec.extractLsb'_append_eq_of_le (by decide), BitVec.extractLsb'_append_eq_of_le (by decide), BitVec.extractLsb'_append_eq_of_le (by decide)]; simp

theorem s7_5_5_9_6_f1 (x0 : BitVec 7) (x1 : BitVec 5) (x2 : BitVec 5) (x3 : BitVec 9) (x4 : BitVec 6) : fld (x0 ++ x1 ++ x2 ++ x3 ++ x4 : BitVec 32) 20 5 = x1 := by
  unfold fld; rw [BitVec.extractLsb'_append_eq_of_le (by decide), BitVec.extractLsb'_append_eq_of_le (by decide), BitVec.extractLsb'_append_eq_of_le (by decide), BitVec.extractLsb'_append_eq_of_add_le (by decide)]; simp

theorem s7_5_5_9_6_f2 (x0 : BitVec 7) (x1 : BitVec 5) (x2 : BitVec 5) (x3 : BitVec 9) (x4 : BitVec 6) : fld (x0 ++ x1 ++ x2 ++ x3 ++ x4 : BitVec 32) 15 5 = x2 := by
  unfold fld; rw [BitVec.extractLsb'_append_eq_of_le (by decide), BitVec.extractLsb'_append_eq_of_le (by decide), BitVec.extractLsb'_append_eq_of_add_le (by decide)]; simp

theorem s7_5_5_9_6_f3 (x0 : BitVec 7) (x1 : BitVec 5) (x2 : BitVec 5) (x3 : BitVec 9) (x4 : BitVec 6) : fld (x0 ++ x1 ++ x2 ++ x3 ++ x4 : BitVec 32) 6 9 = x3 := by
  unfold fld; rw [BitVec.extractLsb'_append_eq_of_le (by decide), BitVec.extractLsb'_append_eq_of_add_le (by decide)]; simp

theorem s7_5_5_9_6_f4 (x0 : BitVec 7) (x1 : BitVec 5) (x2 : BitVec 5) (x3 : BitVec 9) (x4 : BitVec 6) : fld (x0 ++ x1 ++ x2 ++ x3 ++ x4 : BitVec 32) 0 6 = x4 := by
  unfold fld; rw [BitVec.extractLsb'_append_eq_of_add_le (by decide)]; simp

theorem s7_5_5_5_5_1_4_f0 (x0 : BitVec 7) (x1 : BitVec 5) (x2 : BitVec 5) (x3 : BitVec 5) (x4 : BitVec 5) (x5 : BitVec 1) (x6 : BitVec 4) : fld (x0 ++ x1 ++ x2 ++ x3 ++ x4 ++ x5 ++ x6 : BitVec 32) 25 7 = x0 := by
  unfold fld; rw [BitVec.extractLsb'_append_eq_of_le (by decide), BitVec.extractLsb'_append_eq_of_le (by decide), BitVec.extractLsb'_append_eq_of_le (by decide), BitVec.extractLsb'_append_eq_of_le (by decide), BitVec.extractLsb'_append_eq_of_le (by decide), BitVec.extractLsb'_append_eq_of_le (by decide)]; simp

theorem s7_5_5_5_5_1_4_f1 (x0 : BitVec 7) (x1 : BitVec 5) (x2 : BitVec 5) (x3 : BitVec 5) (x4 : BitVec 5) (x5 : BitVec 1) (x6 : BitVec 4) : fld (x0 ++ x1 ++ x2 ++ x3 ++ x4 ++ x5 ++ x6 : BitVec 32) 20 5 = x1 := by
  unfold fld; rw [BitVec.extractLsb'_append_eq_of_le (by decide), BitVec.extractLsb'_append_eq_of_le (by decide), BitVec.extractLsb'_append_eq_of_le (by decide), BitVec.extractLsb'_append_eq_of_le (by decide), BitVec.extractLsb'_append_eq_of_le (by decide), BitVec.extractLsb'_append_eq_of_add_le (by decide)]; simp

theorem s7_5_5_5_5_1_4_f2 (x0 : BitVec 7) (x1 : BitVec 5) (x2 : BitVec 5) (x3 : BitVec 5) (x4 : BitVec 5) (x5 : BitVec 1) (x6 : BitVec 4) : fld (x0 ++ x1 ++ x2 ++ x3 ++ x4 ++ x5 ++ x6 : BitVec 32) 15 5 = x2 := by
  unfold fld; rw [BitVec.extractLsb'_append_eq_of_le (by decide), BitVec.extractLsb'_append_eq_of_le (by decide), BitVec.extractLsb'_append_eq_of_le (by decide), BitVec.extractLsb'_append_eq_of_le (by decide), BitVec.extractLsb'_append_eq_of_add_le (by decide)]; simp

theorem s7_5_5_5_5_1_4_f3 (x0 : BitVec 7) (x1 : BitVec 5) (x2 : BitVec 5) (x3 : BitVec 5) (x4 : BitVec 5) (x5 : BitVec 1) (x6 : BitVec 4) : fld (x0 ++ x1 ++ x2 ++ x3 ++ x4 ++ x5 ++ x6 : BitVec 32) 10 5 = x3 := by
  unfold fld; rw [BitVec.extractLsb'_append_eq_of_le (by decide), BitVec.extractLsb'_append_eq_of_le (by decide), BitVec.extractLsb'_append_eq_of_le (by decide), BitVec.extractLsb'_append_eq_of_add_le (by decide)]; simp

theorem s7_5_5_5_5_1_4_f4 (x0 : BitVec 7) (x1 : BitVec 5) (x2 : BitVec 5) (x3 : BitVec 5) (x4 : BitVec 5) (x5 : BitVec 1) (x6 : BitVec 4) : fld (x0 ++ x1 ++ x2 ++ x3 ++ x4 ++ x5 ++ x6 : BitVec 32) 5 5 = x4 := by
  unfold fld; rw [BitVec.extractLsb'_append_eq_of_le (by decide), BitVec.extractLsb'_append_eq_of_le (by decide), BitVec.extractLsb'_append_eq_of_add_le (by decide)]; simp

theorem s7_5_5_5_5_1_4_f5 (x0 : BitVec 7) (x1 : BitVec 5) (x2 : BitVec 5) (x3 : BitVec 5) (x4 : BitVec 5) (x5 : BitVec 1) (x6 : BitVec 4) : fld (x0 ++ x1 ++ x2 ++ x3 ++ x4 ++ x5 ++ x6 : BitVec 32) 4 1 = x5 := by
  unfold fld; rw [BitVec.extractLsb'_append_eq_of_le (by decide), BitVec.extractLsb'_append_eq_of_add_le (by decide)]; simp

theorem s7_5_5_5_5_1_4_f6 (x0 : BitVec 7) (x1 : BitVec 5) (x2 : BitVec 5) (x3 : BitVec 5) (x4 : BitVec 5) (x5 : BitVec 1) (x6 : BitVec 4) : fld (x0 ++ x1 ++ x2 ++ x3 ++ x4 ++ x5 ++ x6 : BitVec 32) 0 4 = x6 := by
  unfold fld; rw [BitVec.extractLsb'_append_eq_of_add_le (by decide)]; simp

theorem s7_5_5_5_9_1_f0 (x0 : BitVec 7) (x1 : BitVec 5) (x2 : BitVec 5) (x3 : BitVec 5) (x4 : BitVec 9) (x5 : BitVec 1) : fld (x0 ++ x1 ++ x2 ++ x3 ++ x4 ++ x5 : BitVec 32) 25 7 = x0 := by
  unfold fld; rw [BitVec.extractLsb'_append_eq_of_le (by decide), BitVec.extractLsb'_append_eq_of_le (by decide), BitVec.extractLsb'_append_eq_of_le (by decide), BitVec.extractLsb'_append_eq_of_le (by decide), BitVec.extractLsb'_append_eq_of_le (by decide)]; simp

theorem s7_5_5_5_9_1_f1 (x0 : BitVec 7) (x1 : BitVec 5) (x2 : BitVec 5) (x3 : BitVec 5) (x4 : BitVec 9) (x5 : BitVec 1) : fld (x0 ++ x1 ++ x2 ++ x3 ++ x4 ++ x5 : BitVec 32) 20 5 = x1 := by
  unfold fld; rw [BitVec.extractLsb'_append_eq_of_le (by decide), BitVec.extractLsb'_append_eq_of_le (by decide), BitVec.extractLsb'_append_eq_of_le (by decide), BitVec.extractLsb'_append_eq_of_le (by decide), BitVec.extractLsb'_append_eq_of_add_le (by decide)]; simp

theorem s7_5_5_5_9_1_f2 (x0 : BitVec 7) (x1 : BitVec 5) (x2 : BitVec 5) (x3 : BitVec 5) (x4 : BitVec 9) (x5 : BitVec 1) : fld (x0 ++ x1 ++ x2 ++ x3 ++ x4 ++ x5 : BitVec 32) 15 5 = x2 := by
  unfold fld; rw [BitVec.extractLsb'_append_eq_of_le (by decide), BitVec.extractLsb'_append_eq_of_le (by decide), BitVec.extractLsb'_append_eq_of_le (by decide), BitVec.extractLsb'_append_eq_of_add_le (by decide)]; simp

theorem s7_5_5_5_9_1_f3 (x0 : BitVec 7) (x1 : BitVec 5) (x2 : BitVec 5) (x3 : BitVec 5) (x4 : BitVec 9) (x5 : BitVec 1) : fld (x0 ++ x1 ++ x2 ++ x3 ++ x4 ++ x5 : BitVec 32) 10 5 = x3 := by
  unfold fld; rw [BitVec.extractLsb'_append_eq_of_le (by decide), BitVec.extractLsb'_append_eq_of_le (by decide), BitVec.extractLsb'_append_eq_of_add_le (by decide)]; simp

theorem s7_5_5_5_9_1_f4 (x0 : BitVec 7) (x1 : BitVec 5) (x2 : BitVec 5) (x3 : BitVec 5) (x4 : BitVec 9) (x5 : BitVec 1) : fld (x0 ++ x1 ++ x2 ++ x3 ++ x4 ++ x5 : BitVec 32) 1 9 = x4 := by
  unfold fld; rw [BitVec.extractLsb'_append_eq_of_le (by decide), BitVec.extractLsb'_append_eq_of_add_le (by decide)]; simp

theorem s7_5_5_5_9_1_f5 (x0 : BitVec 7) (x1 : BitVec 5) (x2 : BitVec 5) (x3 : BitVec 5) (x4 : BitVec 9) (x5 : BitVec 1) : fld (x0 ++ x1 ++ x2 ++ x3 ++ x4 ++ x5 : BitVec 32) 0 1 = x5 := by
  unfold fld; rw [BitVec.extractLsb'_append_eq_of_add_le (by decide)]; simp

theorem s7_25_f0 (x0 : BitVec 7) (x1 : BitVec 25) : fld (x0 ++ x1 : BitVec 32) 25 7 = x0 := by
  unfold fld; rw [BitVec.extractLsb'_append_eq_of_le (by decide)]; simp

theorem s7_25_f1 (x0 : BitVec 7) (x1 : BitVec 25) : fld (x0 ++ x1 : BitVec 32) 0 25 = x1 := by
  unfold fld; rw [BitVec.extractLsb'_append_eq_of_add_le (by decide)]; simp

theorem s7_6_4_15_f0 (x0 : BitVec 7) (x1 : BitVec 6) (x2 : BitVec 4) (x3 : BitVec 15) : fld (x0 ++ x1 ++ x2 ++ x3 : BitVec 32) 25 7 = x0 := by
  unfold fld; rw [BitVec.extractLsb'_append_eq_of_le (by decide), BitVec.extractLsb'_append_eq_of_le (by decide), BitVec.extractLsb'_append_eq_of_le (by decide)]; simp

theorem s7_6_4_15_f1 (x0 : BitVec 7) (x1 : BitVec 6) (x2 : BitVec 4) (x3 : BitVec 15) : fld (x0 ++ x1 ++ x2 ++ x3 : BitVec 32) 19 6 = x1 := by
  unfold fld; rw [BitVec.extractLsb'_append_eq_of_le (by decide), BitVec.extractLsb'_append_eq_of_le (by decide), BitVec.extractLsb'_append_eq_of_add_le (by decide)]; simp

theorem s7_6_4_15_f2 (x0 : BitVec 7) (x1 : BitVec 6) (x2 : BitVec 4) (x3 : BitVec 15) : fld (x0 ++ x1 ++ x2 ++ x3 : BitVec 32) 15 4 = x2 := by
  unfold fld; rw [BitVec.extractLsb'_append_eq_of_le (by decide), BitVec.extractLsb'_append_eq_of_add_le (by decide)]; simp

theorem s7_6_4_15_f3 (x0 : BitVec 7) (x1 : BitVec 6) (x2 : BitVec 4) (x3 : BitVec 15) : fld (x0 ++ x1 ++ x2 ++ x3 : BitVec 32) 0 15 = x3 := by
  unfold fld; rw [BitVec.extractLsb'_append_eq_of_add_le (by decide)]; simp

theorem s7_5_5_5_8_2_f0 (x0 : BitVec 7) (x1 : BitVec 5) (x2 : BitVec 5) (x3 : BitVec 5) (x4 : BitVec 8) (x5 : BitVec 2) : fld (x0 ++ x1 ++ x2 ++ x3 ++ x4 ++ x5 : BitVec 32) 25 7 = x0 := by
  unfold fld; rw [BitVec.extractLsb'_append_eq_of_le (by decide), BitVec.extractLsb'_append_eq_of_le (by decide), BitVec.extractLsb'_append_eq_of_le (by decide), BitVec.extractLsb'_append_eq_of_le (by decide), BitVec.extractLsb'_append_eq_of_le (by decide)]; simp

theorem s7_5_5_5_8_2_f1 (x0 : BitVec 7) (x1 : BitVec 5) (x2 : BitVec 5) (x3 : BitVec 5) (x4 : BitVec 8) (x5 : BitVec 2) : fld (x0 ++ x1 ++ x2 ++ x3 ++ x4 ++ x5 : BitVec 32) 20 5 = x1 := by
  unfold fld; rw [BitVec.extractLsb'_append_eq_of_le (by decide), BitVec.extractLsb'_append_eq_of_le (by decide), BitVec.extractLsb'_append_eq_of_le (by decide), BitVec.extractLsb'_append_eq_of_le (by decide), BitVec.extractLsb'_append_eq_of_add_le (by decide)]; simp

theorem s7_5_5_5_8_2_f2 (x0 : BitVec 7) (x1 : BitVec 5) (x2 : BitVec 5) (x3 : BitVec 5) (x4 : BitVec 8) (x5 : BitVec 2) : fld (x0 ++ x1 ++ x2 ++ x3 ++ x4 ++ x5 : BitVec 32) 15 5 = x2 := by
  unfold fld; rw [BitVec.extractLsb'_append_eq_of_le (by decide), BitVec.extractLsb'_append_eq_of_le (by decide), BitVec.extractLsb'_append_eq_of_le (by decide), BitVec.extractLsb'_append_eq_of_add_le (by decide)]; simp

theorem s7_5_5_5_8_2_f3 (x0 : BitVec 7) (x1 : BitVec 5) (x2 : BitVec 5) (x3 : BitVec 5) (x4 : BitVec 8) (x5 : BitVec 2) : fld (x0 ++ x1 ++ x2 ++ x3 ++ x4 ++ x5 : BitVec 32) 10 5 = x3 := by
  unfold fld; rw [BitVec.extractLsb'_append_eq_of_le (by decide), BitVec.extractLsb'_append_eq_of_le (by decide), BitVec.extractLsb'_append_eq_of_add_le (by decide)]; simp

theorem s7_5_5_5_8_2_f4 (x0 : BitVec 7) (x1 : BitVec 5) (x2 : BitVec 5) (x3 : BitVec 5) (x4 : BitVec 8) (x5 : BitVec 2) : fld (x0 ++ x1 ++ x2 ++ x3 ++ x4 ++ x5 : BitVec 32) 2 8 = x4 := by
  unfold fld; rw [BitVec.extractLsb'_append_eq_of_le (by decide), BitVec.extractLsb'_append_eq_of_add_le (by decide)]; simp

theorem s7_5_5_5_8_2_f5 (x0 : BitVec 7) (x1 : BitVec 5) (x2 : BitVec 5) (x3 : BitVec 5) (x4 : BitVec 8) (x5 : BitVec 2) : fld (x0 ++ x1 ++ x2 ++ x3 ++ x4 ++ x5 : BitVec 32) 0 2 = x5 := by
  unfold fld; rw [BitVec.extractLsb'_append_eq_of_add_le (by decide)]; simp

theorem s7_6_4_5_10_f0 (x0 : BitVec 7) (x1 : BitVec 6) (x2 : BitVec 4) (x3 : BitVec 5) (x4 : BitVec 10) : fld (x0 ++ x1 ++ x2 ++ x3 ++ x4 : BitVec 32) 25 7 = x0 := by
  unfold fld; rw [BitVec.extractLsb'_append_eq_of_le (by decide), BitVec.extractLsb'_append_eq_of_le (by decide), BitVec.extractLsb'_append_eq_of_le (by decide), BitVec.extractLsb'_append_eq_of_le (by decide)]; simp

theorem s7_6_4_5_10_f1 (x0 : BitVec 7) (x1 : BitVec 6) (x2 : BitVec 4) (x3 : BitVec 5) (x4 : BitVec 10) : fld (x0 ++ x1 ++ x2 ++ x3 ++ x4 : BitVec 32) 19 6 = x1 := by
  unfold fld; rw [BitVec.extractLsb'_append_eq_of_le (by decide), BitVec.extractLsb'_append_eq_of_le (by decide), BitVec.extractLsb'_append_eq_of_le (by decide), BitVec.extractLsb'_append_eq_of_add_le (by decide)]; simp

theorem s7_6_4_5_10_f2 (x0 : BitVec 7) (x1 : BitVec 6) (x2 : BitVec 4) (x3 : BitVec 5) (x4 : BitVec 10) : fld (x0 ++ x1 ++ x2 ++ x3 ++ x4 : BitVec 32) 15 4 = x2 := by
  unfold fld; rw [BitVec.extractLsb'_append_eq_of_le (by decide), BitVec.extractLsb'_append_eq_of_le (by decide), BitVec.extractLsb'_append_eq_of_add_le (by decide)]; simp

theorem s7_6_4_5_10_f3 (x0 : BitVec 7) (x1 : BitVec 6) (x2 : BitVec 4) (x3 : BitVec 5) (x4 : BitVec 10) : fld (x0 ++ x1 ++ x2 ++ x3 ++ x4 : BitVec 32) 10 5 = x3 := by
  unfold fld; rw [BitVec.extractLsb'_append_eq_of_le (by decide), BitVec.extractLsb'_append_eq_of_add_le (by decide)]; simp

theorem s7_6_4_5_10_f4 (x0 : BitVec 7) (x1 : BitVec 6) (x2 : BitVec 4) (x3 : BitVec 5) (x4 : BitVec 10) : fld (x0 ++ x1 ++ x2 ++ x3 ++ x4 : BitVec 32) 0 10 = x4 := by
  unfold fld; rw [BitVec.extractLsb'_append_eq_of_add_le (by decide)]; simp

theorem s7_5_1_4_5_10_f0 (x0 : BitVec 7) (x1 : BitVec 5) (x2 : BitVec 1) (x3 : BitVec 4) (x4 : BitVec 5) (x5 : BitVec 10) : fld (x0 ++ x1 ++ x2 ++ x3 ++ x4 ++ x5 : BitVec 32) 25 7 = x0 := by
  unfold fld; rw [BitVec.extractLsb'_append_eq_of_le (by decide), BitVec.extractLsb'_append_eq_of_le (by decide), BitVec.extractLsb'_append_eq_of_le (by decide), BitVec.extractLsb'_append_eq_of_le (by decide), BitVec.extractLsb'_append_eq_of_le (by decide)]; simp

theorem s7_5_1_4_5_10_f1 (x0 : BitVec 7) (x1 : BitVec 5) (x2 : BitVec 1) (x3 : BitVec 4) (x4 : BitVec 5) (x5 : BitVec 10) : fld (x0 ++ x1 ++ x2 ++ x3 ++ x4 ++ x5 : BitVec 32) 20 5 = x1 := by
  unfold fld; rw [BitVec.extractLsb'_append_eq_of_le (by decide), BitVec.extractLsb'_append_eq_of_le (by decide), BitVec.extractLsb'_append_eq_of_le (by decide), BitVec.extractLsb'_append_eq_of_le (by decide), BitVec.extractLsb'_append_eq_of_add_le (by decide)]; simp

theorem s7_5_1_4_5_10_f2 (x0 : BitVec 7) (x1 : BitVec 5) (x2 : BitVec 1) (x3 : BitVec 4) (x4 : BitVec 5) (x5 : BitVec 10) : fld (x0 ++ x1 ++ x2 ++ x3 ++ x4 ++ x5 : BitVec 32) 19 1 = x2 := by
  unfold fld; rw [BitVec.extractLsb'_append_eq_of_le (by decide), BitVec.extractLsb'_append_eq_of_le (by decide), BitVec.extractLsb'_append_eq_of_le (by decide), BitVec.extractLsb'_append_eq_of_add_le (by decide)]; simp

theorem s7_5_1_4_5_10_f3 (x0 : BitVec 7) (x1 : BitVec 5) (x2 : BitVec 1) (x3 : BitVec 4) (x4 : BitVec 5) (x5 : BitVec 10) : fld (x0 ++ x1 ++ x2 ++ x3 ++ x4 ++ x5 : BitVec 32) 15 4 = x3 := by
  unfold fld; rw [BitVec.extractLsb'_append_eq_of_le (by decide), BitVec.extractLsb'_append_eq_of_le (by decide), BitVec.extractLsb'_append_eq_of_add_le (by decide)]; simp

theorem s7_5_1_4_5_10_f4 (x0 : BitVec 7) (x1 : BitVec 5) (x2 : BitVec 1) (x3 : BitVec 4) (x4 : BitVec 5) (x5 : BitVec 10) : fld (x0 ++ x1 ++ x2 ++ x3 ++ x4 ++ x5 : BitVec 32) 10 5 = x4 := by
  unfold fld; rw [BitVec.extractLsb'_append_eq_of_le (by decide), BitVec.extractLsb'_append_eq_of_add_le (by decide)]; simp

theorem s7_5_1_4_5_10_f5 (x0 : BitVec 7) (x1 : BitVec 5) (x2 : BitVec 1) (x3 : BitVec 4) (x4 : BitVec 5) (x5 : BitVec 10) : fld (x0 ++ x1 ++ x2 ++ x3 ++ x4 ++ x5 : BitVec 32) 0 10 = x5 := by
  unfold fld; rw [BitVec.extractLsb'_append_eq_of_add_le (by decide)]; simp

theorem s7_5_1_4_15_f0 (x0 : BitVec 7) (x1 : BitVec 5) (x2 : BitVec 1) (x3 : BitVec 4) (x4 : BitVec 15) : fld (x0 ++ x1 ++ x2 ++ x3 ++ x4 : BitVec 32) 25 7 = x0 := by
  unfold fld; rw [BitVec.extractLsb'_append_eq_of_le (by decide), BitVec.extractLsb'_append_eq_of_le (by decide), BitVec.extractLsb'_append_eq_of_le (by decide), BitVec.extractLsb'_append_eq_of_le (by decide)]; simp

theorem s7_5_1_4_15_f1 (x0 : BitVec 7) (x1 : BitVec 5) (x2 : BitVec 1) (x3 : BitVec 4) (x4 : BitVec 15) : fld (x0 ++ x1 ++ x2 ++ x3 ++ x4 : BitVec 32) 20 5 = x1 := by
  unfold fld; rw [BitVec.extractLsb'_append_eq_of_le (by decide), BitVec.extractLsb'_append_eq_of_le (by decide), BitVec.extractLsb'_append_eq_of_le (by decide), BitVec.extractLsb'_append_eq_of_add_le (by decide)]; simp

theorem s7_5_1_4_15_f2 (x0 : BitVec 7) (x1 : BitVec 5) (x2 : BitVec 1) (x3 : BitVec 4) (x4 : BitVec 15) : fld (x0 ++ x1 ++ x2 ++ x3 ++ x4 : BitVec 32) 19 1 = x2 := by
  unfold fld; rw [BitVec.extractLsb'_append_eq_of_le (by decide), BitVec.extractLsb'_append_eq_of_le (by decide), BitVec.extractLsb'_append_eq_of_add_le (by decide)]; simp

theorem s7_5_1_4_15_f3 (x0 : BitVec 7) (x1 : BitVec 5) (x2 : BitVec 1) (x3 : BitVec 4) (x4 : BitVec 15) : fld (x0 ++ x1 ++ x2 ++ x3 ++ x4 : BitVec 32) 15 4 = x3 := by
  unfold fld; rw [BitVec.extractLsb'_append_eq_of_le (by decide), BitVec.extractLsb'_append_eq_of_add_le (by decide)]; simp

theorem s7_5_1_4_15_f4 (x0 : BitVec 7) (x1 : BitVec 5) (x2 : BitVec 1) (x3 : BitVec 4) (x4 : BitVec 15) : fld (x0 ++ x1 ++ x2 ++ x3 ++ x4 : BitVec 32) 0 15 = x4 := by
  unfold fld; rw [BitVec.extractLsb'_append_eq_of_add_le (by decide)]; simp

theorem s7_1_4_5_15_f0 (x0 : BitVec 7) (x1 : BitVec 1) (x2 : BitVec 4) (x3 : BitVec 5) (x4 : BitVec 15) : fld (x0 ++ x1 ++ x2 ++ x3 ++ x4 : BitVec 32) 25 7 = x0 := by
  unfold fld; rw [BitVec.extractLsb'_append_eq_of_le (by decide), BitVec.extractLsb'_append_eq_of_le (by decide), BitVec.extractLsb'_append_eq_of_le (by decide), BitVec.extractLsb'_append_eq_of_le (by decide)]; simp

theorem s7_1_4_5_15_f1 (x0 : BitVec 7) (x1 : BitVec 1) (x2 : BitVec 4) (x3 : BitVec 5) (x4 : BitVec 15) : fld (x0 ++ x1 ++ x2 ++ x3 ++ x4 : BitVec 32) 24 1 = x1 := by
  unfold fld; rw [BitVec.extractLsb'_append_eq_of_le (by decide), BitVec.extractLsb'_append_eq_of_le (by decide), BitVec.extractLsb'_append_eq_of_le (by decide), BitVec.extractLsb'_append_eq_of_add_le (by decide)]; simp

theorem s7_1_4_5_15_f2 (x0 : BitVec 7) (x1 : BitVec 1) (x2 : BitVec 4) (x3 : BitVec 5) (x4 : BitVec 15) : fld (x0 ++ x1 ++ x2 ++ x3 ++ x4 : BitVec 32) 20 4 = x2 := by
  unfold fld; rw [BitVec.extractLsb'_append_eq_of_le (by decide), BitVec.extractLsb'_append_eq_of_le (by decide), BitVec.extractLsb'_append_eq_of_add_le (by decide)]; simp

theorem s7_1_4_5_15_f3 (x0 : BitVec 7) (x1 : BitVec 1) (x2 : BitVec 4) (x3 : BitVec 5) (x4 : BitVec 15) : fld (x0 ++ x1 ++ x2 ++ x3 ++ x4 : BitVec 32) 15 5 = x3 := by
  unfold fld; rw [BitVec.extractLsb'_append_eq_of_le (by decide), BitVec.extractLsb'_append_eq_of_add_le (by decide)]; simp

theorem s7_1_4_5_15_f4 (x0 : BitVec 7) (x1 : BitVec 1) (x2 : BitVec 4) (x3 : BitVec 5) (x4 : BitVec 15) : fld (x0 ++ x1 ++ x2 ++ x3 ++ x4 : BitVec 32) 0 15 = x4 := by
  unfold fld; rw [BitVec.extractLsb'_append_eq_of_add_le (by decide)]; simp

theorem s7_1_4_5_5_10_f0 (x0 : BitVec 7) (x1 : BitVec 1) (x2 : BitVec 4) (x3 : BitVec 5) (x4 : BitVec 5) (x5 : BitVec 10) : fld (x0 ++ x1 ++ x2 ++ x3 ++ x4 ++ x5 : BitVec 32) 25 7 = x0 := by
  unfold fld; rw [BitVec.extractLsb'_append_eq_of_le (by decide), BitVec.extractLsb'_append_eq_of_le (by decide), BitVec.extractLsb'_append_eq_of_le (by decide), BitVec.extractLsb'_append_eq_of_le (by decide), BitVec.extractLsb'_append_eq_of_le (by decide)]; simp

theorem s7_1_4_5_5_10_f1 (x0 : BitVec 7) (x1 : BitVec 1) (x2 : BitVec 4) (x3 : BitVec 5) (x4 : BitVec 5) (x5 : BitVec 10) : fld (x0 ++ x1 ++ x2 ++ x3 ++ x4 ++ x5 : BitVec 32) 24 1 = x1 := by
  unfold fld; rw [BitVec.extractLsb'_append_eq_of_le (by decide), BitVec.extractLsb'_append_eq_of_le (by decide), BitVec.extractLsb'_append_eq_of_le (by decide), BitVec.extractLsb'_append_eq_of_le (by decide), BitVec.extractLsb'_append_eq_of_add_le (by decide)]; simp

theorem s7_1_4_5_5_10_f2 (x0 : BitVec 7) (x1 : BitVec 1) (x2 : BitVec 4) (x3 : BitVec 5) (x4 : BitVec 5) (x5 : BitVec 10) : fld (x0 ++ x1 ++ x2 ++ x3 ++ x4 ++ x5 : BitVec 32) 20 4 = x2 := by
  unfold fld; rw [BitVec.extractLsb'_append_eq_of_le (by decide), BitVec.extractLsb'_append_eq_of_le (by decide), BitVec.extractLsb'_append_eq_of_le (by decide), BitVec.extractLsb'_append_eq_of_add_le (by decide)]; simp

theorem s7_1_4_5_5_10_f3 (x0 : BitVec 7) (x1 : BitVec 1) (x2 : BitVec 4) (x3 : BitVec 5) (x4 : BitVec 5) (x5 : BitVec 10) : fld (x0 ++ x1 ++ x2 ++ x3 ++ x4 ++ x5 : BitVec 32) 15 5 = x3 := by
  unfold fld; rw [BitVec.extractLsb'_append_eq_of_le (by decide), BitVec.extractLsb'_append_eq_of_le (by decide), BitVec.extractLsb'_append_eq_of_add_le (by decide)]; simp

theorem s7_1_4_5_5_10_f4 (x0 : BitVec 7) (x1 : BitVec 1) (x2 : BitVec 4) (x3 : BitVec 5) (x4 : BitVec 5) (x5 : BitVec 10) : fld (x0 ++ x1 ++ x2 ++ x3 ++ x4 ++ x5 : BitVec 32) 10 5 = x4 := by
  unfold fld; rw [BitVec.extractLsb'_append_eq_of_le (by decide), BitVec.extractLsb'_append_eq_of_add_le (by decide)]; simp

theorem s7_1_4_5_5_10_f5 (x0 : BitVec 7) (x1 : BitVec 1) (x2 : BitVec 4) (x3 : BitVec 5) (x4 : BitVec 5) (x5 : BitVec 10) : fld (x0 ++ x1 ++ x2 ++ x3 ++ x4 ++ x5 : BitVec 32) 0 10 = x5 := by
  unfold fld; rw [BitVec.extractLsb'_append_eq_of_add_le (by decide)]; simp

theorem s7_5_5_1_4_10_f0 (x0 : BitVec 7) (x1 : BitVec 5) (x2 : BitVec 5) (x3 : BitVec 1) (x4 : BitVec 4) (x5 : BitVec 10) : fld (x0 ++ x1 ++ x2 ++ x3 ++ x4 ++ x5 : BitVec 32) 25 7 = x0 := by
  unfold fld; rw [BitVec.extractLsb'_append_eq_of_le (by decide), BitVec.extractLsb'_append_eq_of_le (by decide), BitVec.extractLsb'_append_eq_of_le (by decide), BitVec.extractLsb'_append_eq_of_le (by decide), BitVec.extractLsb'_append_eq_of_le (by decide)]; simp

theorem s7_5_5_1_4_10_f1 (x0 : BitVec 7) (x1 : BitVec 5) (x2 : BitVec 5) (x3 : BitVec 1) (x4 : BitVec 4) (x5 : BitVec 10) : fld (x0 ++ x1 ++ x2 ++ x3 ++ x4 ++ x5 : BitVec 32) 20 5 = x1 := by
  unfold fld; rw [BitVec.extractLsb'_append_eq_of_le (by decide), BitVec.extractLsb'_append_eq_of_le (by decide), BitVec.extractLsb'_append_eq_of_le (by decide), BitVec.extractLsb'_append_eq_of_le (by decide), BitVec.extractLsb'_append_eq_of_add_le (by decide)]; simp

theorem s7_5_5_1_4_10_f2 (x0 : BitVec 7) (x1 : BitVec 5) (x2 : BitVec 5) (x3 : BitVec 1) (x4 : BitVec 4) (x5 : BitVec 10) : fld (x0 ++ x1 ++ x2 ++ x3 ++ x4 ++ x5 : BitVec 32) 15 5 = x2 := by
  unfold fld; rw [BitVec.extractLsb'_append_eq_of_le (by decide), BitVec.extractLsb'_append_eq_of_le (by decide), BitVec.extractLsb'_append_eq_of_le (by decide), BitVec.extractLsb'_append_eq_of_add_le (by decide)]; simp

theorem s7_5_5_1_4_10_f3 (x0 : BitVec 7) (x1 : BitVec 5) (x2 : BitVec 5) (x3 : BitVec 1) (x4 : BitVec 4) (x5 : BitVec 10) : fld (x0 ++ x1 ++ x2 ++ x3 ++ x4 ++ x5 : BitVec 32) 14 1 = x3 := by
  unfold fld; rw [BitVec.extractLsb'_append_eq_of_le (by decide), BitVec.extractLsb'_append_eq_of_le (by decide), BitVec.extractLsb'_append_eq_of_add_le (by decide)]; simp

theorem s7_5_5_1_4_10_f4 (x0 : BitVec 7) (x1 : BitVec 5) (x2 : BitVec 5) (x3 : BitVec 1) (x4 : BitVec 4) (x5 : BitVec 10) : fld (x0 ++ x1 ++ x2 ++ x3 ++ x4 ++ x5 : BitVec 32) 10 4 = x4 := by
  unfold fld; rw [BitVec.extractLsb'_append_eq_of_le (by decide), BitVec.extractLsb'_append_eq_of_add_le (by decide)]; simp

theorem s7_5_5_1_4_10_f5 (x0 : BitVec 7) (x1 : BitVec 5) (x2 : BitVec 5) (x3 : BitVec 1) (x4 : BitVec 4) (x5 : BitVec 10) : fld (x0 ++ x1 ++ x2 ++ x3 ++ x4 ++ x5 : BitVec 32) 0 10 = x5 := by
  unfold fld; rw [BitVec.extractLsb'_append_eq_of_add_le (by decide)]; simp

theorem s7_1_4_1_4_5_10_f0 (x0 : BitVec 7) (x1 : BitVec 1) (x2 : BitVec 4) (x3 : BitVec 1) (x4 : BitVec 4) (x5 : BitVec 5) (x6 : BitVec 10) : fld (x0 ++ x1 ++ x2 ++ x3 ++ x4 ++ x5 ++ x6 : BitVec 32) 25 7 = x0 := by
  unfold fld; rw [BitVec.extractLsb'_append_eq_of_le (by decide), BitVec.extractLsb'_append_eq_of_le (by decide), BitVec.extractLsb'_append_eq_of_le (by decide), BitVec.extractLsb'_append_eq_of_le (by decide), BitVec.extractLsb'_append_eq_of_le (by decide), BitVec.extractLsb'_append_eq_of_le (by decide)]; simp

theorem s7_1_4_1_4_5_10_f1 (x0 : BitVec 7) (x1 : BitVec 1) (x2 : BitVec 4) (x3 : BitVec 1) (x4 : BitVec 4) (x5 : BitVec 5) (x6 : BitVec 10) : fld (x0 ++ x1 ++ x2 ++ x3 ++ x4 ++ x5 ++ x6 : BitVec 32) 24 1 = x1 := by
  unfold fld; rw [BitVec.extractLsb'_append_eq_of_le (by decide), BitVec.extractLsb'_append_eq_of_le (by decide), BitVec.extractLsb'_append_eq_of_le (by decide), BitVec.extractLsb'_append_eq_of_le (by decide), BitVec.extractLsb'_append_eq_of_le (by decide), BitVec.extractLsb'_append_eq_of_add_le (by decide)]; simp

theorem s7_1_4_1_4_5_10_f2 (x0 : BitVec 7) (x1 : BitVec 1) (x2 : BitVec 4) (x3 : BitVec 1) (x4 : BitVec 4) (x5 : BitVec 5) (x6 : BitVec 10) : fld (x0 ++ x1 ++ x2 ++ x3 ++ x4 ++ x5 ++ x6 : BitVec 32) 20 4 = x2 := by
  unfold fld; rw [BitVec.extractLsb'_append_eq_of_le (by decide), BitVec.extractLsb'_append_eq_of_le (by decide), BitVec.extractLsb'_append_eq_of_le (by decide), BitVec.extractLsb'_append_eq_of_le (by decide), BitVec.extractLsb'_append_eq_of_add_le (by decide)]; simp

theorem s7_1_4_1_4_5_10_f3 (x0 : BitVec 7) (x1 : BitVec 1) (x2 : BitVec 4) (x3 : BitVec 1) (x4 : BitVec 4) (x5 : BitVec 5) (x6 : BitVec 10) : fld (x0 ++ x1 ++ x2 ++ x3 ++ x4 ++ x5 ++ x6 : BitVec 32) 19 1 = x3 := by
  unfold fld; rw [BitVec.extractLsb'_append_eq_of_le (by decide), BitVec.extractLsb'_append_eq_of_le (by decide), BitVec.extractLsb'_append_eq_of_le (by decide), BitVec.extractLsb'_append_eq_of_add_le (by decide)]; simp

theorem s7_1_4_1_4_5_10_f4 (x0 : BitVec 7) (x1 : BitVec 1) (x2 : BitVec 4) (x3 : BitVec 1) (x4 : BitVec 4) (x5 : BitVec 5) (x6 : BitVec 10) : fld (x0 ++ x1 ++ x2 ++ x3 ++ x4 ++ x5 ++ x6 : BitVec 32) 15 4 = x4 := by
  unfold fld; rw [BitVec.extractLsb'_append_eq_of_le (by decide), BitVec.extractLsb'_append_eq_of_le (by decide), BitVec.extractLsb'_append_eq_of_add_le (by decide)]; simp

theorem s7_1_4_1_4_5_10_f5 (x0 : BitVec 7) (x1 : BitVec 1) (x2 : BitVec 4) (x3 : BitVec 1) (x4 : BitVec 4) (x5 : BitVec 5) (x6 : BitVec 10) : fld (x0 ++ x1 ++ x2 ++ x3 ++ x4 ++ x5 ++ x6 : BitVec 32) 10 5 = x5 := by
  unfold fld; rw [BitVec.extractLsb'_append_eq_of_le (by decide), BitVec.extractLsb'_append_eq_of_add_le (by decide)]; simp

theorem s7_1_4_1_4_5_10_f6 (x0 : BitVec 7) (x1 : BitVec 1) (x2 : BitVec 4) (x3 : BitVec 1) (x4 : BitVec 4) (x5 : BitVec 5) (x6 : BitVec 10) : fld (x0 ++ x1 ++ x2 ++ x3 ++ x4 ++ x5 ++ x6 : BitVec 32) 0 10 = x6 := by
  unfold fld; rw [BitVec.extractLsb'_append_eq_of_add_le (by decide)]; simp

theorem s7_4_4_3_14_f0 (x0 : BitVec 7) (x1 : BitVec 4) (x2 : BitVec 4) (x3 : BitVec 3) (x4 : BitVec 14) : fld (x0 ++ x1 ++ x2 ++ x3 ++ x4 : BitVec 32) 25 7 = x0 := by
  unfold fld; rw [BitVec.extractLsb'_append_eq_of_le (by decide), BitVec.extractLsb'_append_eq_of_le (by decide), BitVec.extractLsb'_append_eq_of_le (by decide), BitVec.extractLsb'_append_eq_of_le (by decide)]; simp

theorem s7_4_4_3_14_f1 (x0 : BitVec 7) (x1 : BitVec 4) (x2 : BitVec 4) (x3 : BitVec 3) (x4 : BitVec 14) : fld (x0 ++ x1 ++ x2 ++ x3 ++ x4 : BitVec 32) 21 4 = x1 := by
  unfold fld; rw [BitVec.extractLsb'_append_eq_of_le (by decide), BitVec.extractLsb'_append_eq_of_le (by decide), BitVec.extractLsb'_append_eq_of_le (by decide), BitVec.extractLsb'_append_eq_of_add_le (by decide)]; simp

theorem s7_4_4_3_14_f2 (x0 : BitVec 7) (x1 : BitVec 4) (x2 : BitVec 4) (x3 : BitVec 3) (x4 : BitVec 14) : fld (x0 ++ x1 ++ x2 ++ x3 ++ x4 : BitVec 32) 17 4 = x2 := by
  unfold fld; rw [BitVec.extractLsb'_append_eq_of_le (by decide), BitVec.extractLsb'_append_eq_of_le (by decide), BitVec.extractLsb'_append_eq_of_add_le (by decide)]; simp

theorem s7_4_4_3_14_f3 (x0 : BitVec 7) (x1 : BitVec 4) (x2 : BitVec 4) (x3 : BitVec 3) (x4 : BitVec 14) : fld (x0 ++ x1 ++ x2 ++ x3 ++ x4 : BitVec 32) 14 3 = x3 := by
  unfold fld; rw [BitVec.extractLsb'_append_eq_of_le (by decide), BitVec.extractLsb'_append_eq_of_add_le (by decide)]; simp

theorem s7_4_4_3_14_f4 (x0 : BitVec 7) (x1 : BitVec 4) (x2 : BitVec 4) (x3 : BitVec 3) (x4 : BitVec 14) : fld (x0 ++ x1 ++ x2 ++ x3 ++ x4 : BitVec 32) 0 14 = x4 := by
  unfold fld; rw [BitVec.extractLsb'_append_eq_of_add_le (by decide)]; simp

theorem s7_4_4_4_4_9_f0 (x0 : BitVec 7) (x1 : BitVec 4) (x2 : BitVec 4) (x3 : BitVec 4) (x4 : BitVec 4) (x5 : BitVec 9) : fld (x0 ++ x1 ++ x2 ++ x3 ++ x4 ++ x5 : BitVec 32) 25 7 = x0 := by
  unfold fld; rw [BitVec.extractLsb'_append_eq_of_le (by decide), BitVec.extractLsb'_append_eq_of_le (by decide), BitVec.extractLsb'_append_eq_of_le (by decide), BitVec.extractLsb'_append_eq_of_le (by decide), BitVec.extractLsb'_append_eq_of_le (by decide)]; simp

theorem s7_4_4_4_4_9_f1 (x0 : BitVec 7) (x1 : BitVec 4) (x2 : BitVec 4) (x3 : BitVec 4) (x4 : BitVec 4) (x5 : BitVec 9) : fld (x0 ++ x1 ++ x2 ++ x3 ++ x4 ++ x5 : BitVec 32) 21 4 = x1 := by
  unfold fld; rw [BitVec.extractLsb'_append_eq_of_le (by decide), BitVec.extractLsb'_append_eq_of_le (by decide), BitVec.extractLsb'_append_eq_of_le (by decide), BitVec.extractLsb'_append_eq_of_le (by decide), BitVec.extractLsb'_append_eq_of_add_le (by decide)]; simp

theorem s7_4_4_4_4_9_f2 (x0 : BitVec 7) (x1 : BitVec 4) (x2 : BitVec 4) (x3 : BitVec 4) (x4 : BitVec 4) (x5 : BitVec 9) : fld (x0 ++ x1 ++ x2 ++ x3 ++ x4 ++ x5 : BitVec 32) 17 4 = x2 := by
  unfold fld; rw [BitVec.extractLsb'_append_eq_of_le (by decide), BitVec.extractLsb'_append_eq_of_le (by decide), BitVec.extractLsb'_append_eq_of_le (by decide), BitVec.extractLsb'_append_eq_of_add_le (by decide)]; simp

theorem s7_4_4_4_4_9_f3 (x0 : BitVec 7) (x1 : BitVec 4) (x2 : BitVec 4) (x3 : BitVec 4) (x4 : BitVec 4) (x5 : BitVec 9) : fld (x0 ++ x1 ++ x2 ++ x3 ++ x4 ++ x5 : BitVec 32) 13 4 = x3 := by
  unfold fld; rw [BitVec.extractLsb'_append_eq_of_le (by decide), BitVec.extractLsb'_append_eq_of_le (by decide), BitVec.extractLsb'_append_eq_of_add_le (by decide)]; simp

theorem s7_4_4_4_4_9_f4 (x0 : BitVec 7) (x1 : BitVec 4) (x2 : BitVec 4) (x3 : BitVec 4) (x4 : BitVec 4) (x5 : BitVec 9) : fld (x0 ++ x1 ++ x2 ++ x3 ++ x4 ++ x5 : BitVec 32) 9 4 = x4 := by
  unfold fld; rw [BitVec.extractLsb'_append_eq_of_le (by decide), BitVec.extractLsb'_append_eq_of_add_le (by decide)]; simp

theorem s7_4_4_4_4_9_f5 (x0 : BitVec 7) (x1 : BitVec 4) (x2 : BitVec 4) (x3 : BitVec 4) (x4 : BitVec 4) (x5 : BitVec 9) : fld (x0 ++ x1 ++ x2 ++ x3 ++ x4 ++ x5 : BitVec 32) 0 9 = x5 := by
  unfold fld; rw [BitVec.extractLsb'_append_eq_of_add_le (by decide)]; simp

theorem s7_4_4_4_4_2_7_f0 (x0 : BitVec 7) (x1 : BitVec 4) (x2 : BitVec 4) (x3 : BitVec 4) (x4 : BitVec 4) (x5 : BitVec 2) (x6 : BitVec 7) : fld (x0 ++ x1 ++ x2 ++ x3 ++ x4 ++ x5 ++ x6 : BitVec 32) 25 7 = x0 := by
  unfold fld; rw [BitVec.extractLsb'_append_eq_of_le (by decide), BitVec.extractLsb'_append_eq_of_le (by decide), BitVec.extractLsb'_append_eq_of_le (by decide), BitVec.extractLsb'_append_eq_of_le (by decide), BitVec.extractLsb'_append_eq_of_le (by decide), BitVec.extractLsb'_append_eq_of_le (by decide)]; simp

theorem s7_4_4_4_4_2_7_f1 (x0 : BitVec 7) (x1 : BitVec 4) (x2 : BitVec 4) (x3 : BitVec 4) (x4 : BitVec 4) (x5 : BitVec 2) (x6 : BitVec 7) : fld (x0 ++ x1 ++ x2 ++ x3 ++ x4 ++ x5 ++ x6 : BitVec 32) 21 4 = x1 := by
  unfold fld; rw [BitVec.extractLsb'_append_eq_of_le (by decide), BitVec.extractLsb'_append_eq_of_le (by decide), BitVec.extractLsb'_append_eq_of_le (by decide), BitVec.extractLsb'_append_eq_of_le (by decide), BitVec.extractLsb'_append_eq_of_le (by decide), BitVec.extractLsb'_append_eq_of_add_le (by decide)]; simp

theorem s7_4_4_4_4_2_7_f2 (x0 : BitVec 7) (x1 : BitVec 4) (x2 : BitVec 4) (x3 : BitVec 4) (x4 : BitVec 4) (x5 : BitVec 2) (x6 : BitVec 7) : fld (x0 ++ x1 ++ x2 ++ x3 ++ x4 ++ x5 ++ x6 : BitVec 32) 17 4 = x2 := by
  unfold fld; rw [BitVec.extractLsb'_append_eq_of_le (by decide), BitVec.extractLsb'_append_eq_of_le (by decide), BitVec.extractLsb'_append_eq_of_le (by decide), BitVec.extractLsb'_append_eq_of_le (by decide), BitVec.extractLsb'_append_eq_of_add_le (by decide)]; simp

theorem s7_4_4_4_4_2_7_f3 (x0 : BitVec 7) (x1 : BitVec 4) (x2 : BitVec 4) (x3 : BitVec 4) (x4 : BitVec 4) (x5 : BitVec 2) (x6 : BitVec 7) : fld (x0 ++ x1 ++ x2 ++ x3 ++ x4 ++ x5 ++ x6 : BitVec 32) 13 4 = x3 := by
  unfold fld; rw [BitVec.extractLsb'_append_eq_of_le (by decide), BitVec.extractLsb'_append_eq_of_le (by decide), BitVec.extractLsb'_append_eq_of_le (by decide), BitVec.extractLsb'_append_eq_of_add_le (by decide)]; simp

theorem s7_4_4_4_4_2_7_f4 (x0 : BitVec 7) (x1 : BitVec 4) (x2 : BitVec 4) (x3 : BitVec 4) (x4 : BitVec 4) (x5 : BitVec 2) (x6 : BitVec 7) : fld (x0 ++ x1 ++ x2 ++ x3 ++ x4 ++ x5 ++ x6 : BitVec 32) 9 4 = x4 := by
  unfold fld; rw [BitVec.extractLsb'_append_eq_of_le (by decide), BitVec.extractLsb'_append_eq_of_le (by decide), BitVec.extractLsb'_append_eq_of_add_le (by decide)]; simp

theorem s7_4_4_4_4_2_7_f5 (x0 : BitVec 7) (x1 : BitVec 4) (x2 : BitVec 4) (x3 : BitVec 4) (x4 : BitVec 4) (x5 : BitVec 2) (x6 : BitVec 7) : fld (x0 ++ x1 ++ x2 ++ x3 ++ x4 ++ x5 ++ x6 : BitVec 32) 7 2 = x5 := by
  unfold fld; rw [BitVec.extractLsb'_append_eq_of_le (by decide), BitVec.extractLsb'_append_eq_of_add_le (by decide)]; simp

theorem s7_4_4_4_4_2_7_f6 (x0 : BitVec 7) (x1 : BitVec 4) (x2 : BitVec 4) (x3 : BitVec 4) (x4 : BitVec 4) (x5 : BitVec 2) (x6 : BitVec 7) : fld (x0 ++ x1 ++ x2 ++ x3 ++ x4 ++ x5 ++ x6 : BitVec 32) 0 7 = x6 := by
  unfold fld; rw [BitVec.extractLsb'_append_eq_of_add_le (by decide)]; simp

theorem s7_4_4_4_4_3_6_f0 (x0 : BitVec 7) (x1 : BitVec 4) (x2 : BitVec 4) (x3 : BitVec 4) (x4 : BitVec 4) (x5 : BitVec 3) (x6 : BitVec 6) : fld (x0 ++ x1 ++ x2 ++ x3 ++ x4 ++ x5 ++ x6 : BitVec 32) 25 7 = x0 := by
  unfold fld; rw [BitVec.extractLsb'_append_eq_of_le (by decide), BitVec.extractLsb'_append_eq_of_le (by decide), BitVec.extractLsb'_append_eq_of_le (by decide), BitVec.extractLsb'_append_eq_of_le (by decide), BitVec.extractLsb'_append_eq_of_le (by decide), BitVec.extractLsb'_append_eq_of_le (by decide)]; simp

theorem s7_4_4_4_4_3_6_f1 (x0 : BitVec 7) (x1 : BitVec 4) (x2 : BitVec 4) (x3 : BitVec 4) (x4 : BitVec 4) (x5 : BitVec 3) (x6 : BitVec 6) : fld (x0 ++ x1 ++ x2 ++ x3 ++ x4 ++ x5 ++ x6 : BitVec 32) 21 4 = x1 := by
  unfold fld; rw [BitVec.extractLsb'_append_eq_of_le (by decide), BitVec.extractLsb'_append_eq_of_le (by decide), BitVec.extractLsb'_append_eq_of_le (by decide), BitVec.extractLsb'_append_eq_of_le (by decide), BitVec.extractLsb'_append_eq_of_le (by decide), BitVec.extractLsb'_append_eq_of_add_le (by decide)]; simp

theorem s7_4_4_4_4_3_6_f2 (x0 : BitVec 7) (x1 : BitVec 4) (x2 : BitVec 4) (x3 : BitVec 4) (x4 : BitVec 4) (x5 : BitVec 3) (x6 : BitVec 6) : fld (x0 ++ x1 ++ x2 ++ x3 ++ x4 ++ x5 ++ x6 : BitVec 32) 17 4 = x2 := by
  unfold fld; rw [BitVec.extractLsb'_append_eq_of_le (by decide), BitVec.extractLsb'_append_eq_of_le (by decide), BitVec.extractLsb'_append_eq_of_le (by decide), BitVec.extractLsb'_append_eq_of_le (by decide), BitVec.extractLsb'_append_eq_of_add_le (by decide)]; simp

theorem s7_4_4_4_4_3_6_f3 (x0 : BitVec 7) (x1 : BitVec 4) (x2 : BitVec 4) (x3 : BitVec 4) (x4 : BitVec 4) (x5 : BitVec 3) (x6 : BitVec 6) : fld (x0 ++ x1 ++ x2 ++ x3 ++ x4 ++ x5 ++ x6 : BitVec 32) 13 4 = x3 := by
  unfold fld; rw [BitVec.extractLsb'_append_eq_of_le (by decide), BitVec.extractLsb'_append_eq_of_le (by decide), BitVec.extractLsb'_append_eq_of_le (by decide), BitVec.extractLsb'_append_eq_of_add_le (by decide)]; simp

theorem s7_4_4_4_4_3_6_f4 (x0 : BitVec 7) (x1 : BitVec 4) (x2 : BitVec 4) (x3 : BitVec 4) (x4 : BitVec 4) (x5 : BitVec 3) (x6 : BitVec 6) : fld (x0 ++ x1 ++ x2 ++ x3 ++ x4 ++ x5 ++ x6 : BitVec 32) 9 4 = x4 := by
  unfold fld; rw [BitVec.extractLsb'_append_eq_of_le (by decide), BitVec.extractLsb'_append_eq_of_le (by decide), BitVec.extractLsb'_append_eq_of_add_le (by decide)]; simp

theorem s7_4_4_4_4_3_6_f5 (x0 : BitVec 7) (x1 : BitVec 4) (x2 : BitVec 4) (x3 : BitVec 4) (x4 : BitVec 4) (x5 : BitVec 3) (x6 : BitVec 6) : fld (x0 ++ x1 ++ x2 ++ x3 ++ x4 ++ x5 ++ x6 : BitVec 32) 6 3 = x5 := by
  unfold fld; rw [BitVec.extractLsb'_append_eq_of_le (by decide), BitVec.extractLsb'_append_eq_of_add_le (by decide)]; simp

theorem s7_4_4_4_4_3_6_f6 (x0 : BitVec 7) (x1 : BitVec 4) (x2 : BitVec 4) (x3 : BitVec 4) (x4 : BitVec 4) (x5 : BitVec 3) (x6 : BitVec 6) : fld (x0 ++ x1 ++ x2 ++ x3 ++ x4 ++ x5 ++ x6 : BitVec 32) 0 6 = x6 := by
  unfold fld; rw [BitVec.extractLsb'_append_eq_of_add_le (by decide)]; simp

theorem s7_4_8_4_1_8_f0 (x0 : BitVec 7) (x1 : BitVec 4) (x2 : BitVec 8) (x3 : BitVec 4) (x4 : BitVec 1) (x5 : BitVec 8) : fld (x0 ++ x1 ++ x2 ++ x3 ++ x4 ++ x5 : BitVec 32) 25 7 = x0 := by
  unfold fld; rw [BitVec.extractLsb'_append_eq_of_le (by decide), BitVec.extractLsb'_append_eq_of_le (by decide), BitVec.extractLsb'_append_eq_of_le (by decide), BitVec.extractLsb'_append_eq_of_le (by decide), BitVec.extractLsb'_append_eq_of_le (by decide)]; simp

theorem s7_4_8_4_1_8_f1 (x0 : BitVec 7) (x1 : BitVec 4) (x2 : BitVec 8) (x3 : BitVec 4) (x4 : BitVec 1) (x5 : BitVec 8) : fld (x0 ++ x1 ++ x2 ++ x3 ++ x4 ++ x5 : BitVec 32) 21 4 = x1 := by
  unfold fld; rw [BitVec.extractLsb'_append_eq_of_le (by decide), BitVec.extractLsb'_append_eq_of_le (by decide), BitVec.extractLsb'_append_eq_of_le (by decide), BitVec.extractLsb'_append_eq_of_le (by decide), BitVec.extractLsb'_append_eq_of_add_le (by decide)]; simp

theorem s7_4_8_4_1_8_f2 (x0 : BitVec 7) (x1 : BitVec 4) (x2 : BitVec 8) (x3 : BitVec 4) (x4 : BitVec 1) (x5 : BitVec 8) : fld (x0 ++ x1 ++ x2 ++ x3 ++ x4 ++ x5 : BitVec 32) 13 8 = x2 := by
  unfold fld; rw [BitVec.extractLsb'_append_eq_of_le (by decide), BitVec.extractLsb'_append_eq_of_le (by decide), BitVec.extractLsb'_append_eq_of_le (by decide), BitVec.extractLsb'_append_eq_of_add_le (by decide)]; simp

theorem s7_4_8_4_1_8_f3 (x0 : BitVec 7) (x1 : BitVec 4) (x2 : BitVec 8) (x3 : BitVec 4) (x4 : BitVec 1) (x5 : BitVec 8) : fld (x0 ++ x1 ++ x2 ++ x3 ++ x4 ++ x5 : BitVec 32) 9 4 = x3 := by
  unfold fld; rw [BitVec.extractLsb'_append_eq_of_le (by decide), BitVec.extractLsb'_append_eq_of_le (by decide), BitVec.extractLsb'_append_eq_of_add_le (by decide)]; simp

theorem s7_4_8_4_1_8_f4 (x0 : BitVec 7) (x1 : BitVec 4) (x2 : BitVec 8) (x3 : BitVec 4) (x4 : BitVec 1) (x5 : BitVec 8) : fld (x0 ++ x1 ++ x2 ++ x3 ++ x4 ++ x5 : BitVec 32) 8 1 = x4 := by
  unfold fld; rw [BitVec.extractLsb'_append_eq_of_le (by decide), BitVec.extractLsb'_append_eq_of_add_le (by decide)]; simp

theorem s7_4_8_4_1_8_f5 (x0 : BitVec 7) (x1 : BitVec 4) (x2 : BitVec 8) (x3 : BitVec 4) (x4 : BitVec 1) (x5 : BitVec 8) : fld (x0 ++ x1 ++ x2 ++ x3 ++ x4 ++ x5 : BitVec 32) 0 8 = x5 := by
  unfold fld; rw [BitVec.extractLsb'_append_eq_of_add_le (by decide)]; simp

theorem s7_4_8_4_9_f0 (x0 : BitVec 7) (x1 : BitVec 4) (x2 : BitVec 8) (x3 : BitVec 4) (x4 : BitVec 9) : fld (x0 ++ x1 ++ x2 ++ x3 ++ x4 : BitVec 32) 25 7 = x0 := by
  unfold fld; rw [BitVec.extractLsb'_append_eq_of_le (by decide), BitVec.extractLsb'_append_eq_of_le (by decide), BitVec.extractLsb'_append_eq_of_le (by decide), BitVec.extractLsb'_append_eq_of_le (by decide)]; simp

theorem s7_4_8_4_9_f1 (x0 : BitVec 7) (x1 : BitVec 4) (x2 : BitVec 8) (x3 : BitVec 4) (x4 : BitVec 9) : fld (x0 ++ x1 ++ x2 ++ x3 ++ x4 : BitVec 32) 21 4 = x1 := by
  unfold fld; rw [BitVec.extractLsb'_append_eq_of_le (by decide), BitVec.extractLsb'_append_eq_of_le (by decide), BitVec.extractLsb'_append_eq_of_le (by decide), BitVec.extractLsb'_append_eq_of_add_le (by decide)]; simp

theorem s7_4_8_4_9_f2 (x0 : BitVec 7) (x1 : BitVec 4) (x2 : BitVec 8) (x3 : BitVec 4) (x4 : BitVec 9) : fld (x0 ++ x1 ++ x2 ++ x3 ++ x4 : BitVec 32) 13 8 = x2 := by
  unfold fld; rw [BitVec.extractLsb'_append_eq_of_le (by decide), BitVec.extractLsb'_append_eq_of_le (by decide), BitVec.extractLsb'_append_eq_of_add_le (by decide)]; simp

theorem s7_4_8_4_9_f3 (x0 : BitVec 7) (x1 : BitVec 4) (x2 : BitVec 8) (x3 : BitVec 4) (x4 : BitVec 9) : fld (x0 ++ x1 ++ x2 ++ x3 ++ x4 : BitVec 32) 9 4 = x3 := by
  unfold fld; rw [BitVec.extractLsb'_append_eq_of_le (by decide), BitVec.extractLsb'_append_eq_of_add_le (by decide)]; simp

theorem s7_4_8_4_9_f4 (x0 : BitVec 7) (x1 : BitVec 4) (x2 : BitVec 8) (x3 : BitVec 4) (x4 : BitVec 9) : fld (x0 ++ x1 ++ x2 ++ x3 ++ x4 : BitVec 32) 0 9 = x4 := by
  unfold fld; rw [BitVec.extractLsb'_append_eq_of_add_le (by decide)]; simp

theorem s7_4_8_4_6_3_f0 (x0 : BitVec 7) (x1 : BitVec 4) (x2 : BitVec 8) (x3 : BitVec 4) (x4 : BitVec 6) (x5 : BitVec 3) : fld (x0 ++ x1 ++ x2 ++ x3 ++ x4 ++ x5 : BitVec 32) 25 7 = x0 := by
  unfold fld; rw [BitVec.extractLsb'_append_eq_of_le (by decide), BitVec.extractLsb'_append_eq_of_le (by decide), BitVec.extractLsb'_append_eq_of_le (by decide), BitVec.extractLsb'_append_eq_of_le (by decide), BitVec.extractLsb'_append_eq_of_le (by decide)]; simp

theorem s7_4_8_4_6_3_f1 (x0 : BitVec 7) (x1 : BitVec 4) (x2 : BitVec 8) (x3 : BitVec 4) (x4 : BitVec 6) (x5 : BitVec 3) : fld (x0 ++ x1 ++ x2 ++ x3 ++ x4 ++ x5 : BitVec 32) 21 4 = x1 := by
  unfold fld; rw [BitVec.extractLsb'_append_eq_of_le (by decide), BitVec.extractLsb'_append_eq_of_le (by decide), BitVec.extractLsb'_append_eq_of_le (by decide), BitVec.extractLsb'_append_eq_of_le (by decide), BitVec.extractLsb'_append_eq_of_add_le (by decide)]; simp

theorem s7_4_8_4_6_3_f2 (x0 : BitVec 7) (x1 : BitVec 4) (x2 : BitVec 8) (x3 : BitVec 4) (x4 : BitVec 6) (x5 : BitVec 3) : fld (x0 ++ x1 ++ x2 ++ x3 ++ x4 ++ x5 : BitVec 32) 13 8 = x2 := by
  unfold fld; rw [BitVec.extractLsb'_append_eq_of_le (by decide), BitVec.extractLsb'_append_eq_of_le (by decide), BitVec.extractLsb'_append_eq_of_le (by decide), BitVec.extractLsb'_append_eq_of_add_le (by decide)]; simp

theorem s7_4_8_4_6_3_f3 (x0 : BitVec 7) (x1 : BitVec 4) (x2 : BitVec 8) (x3 : BitVec 4) (x4 : BitVec 6) (x5 : BitVec 3) : fld (x0 ++ x1 ++ x2 ++ x3 ++ x4 ++ x5 : BitVec 32) 9 4 = x3 := by
  unfold fld; rw [BitVec.extractLsb'_append_eq_of_le (by decide), BitVec.extractLsb'_append_eq_of_le (by decide), BitVec.extractLsb'_append_eq_of_add_le (by decide)]; simp

theorem s7_4_8_4_6_3_f4 (x0 : BitVec 7) (x1 : BitVec 4) (x2 : BitVec 8) (x3 : BitVec 4) (x4 : BitVec 6) (x5 : BitVec 3) : fld (x0 ++ x1 ++ x2 ++ x3 ++ x4 ++ x5 : BitVec 32) 3 6 = x4 := by
  unfold fld; rw [BitVec.extractLsb'_append_eq_of_le (by decide), BitVec.extractLsb'_append_eq_of_add_le (by decide)]; simp

theorem s7_4_8_4_6_3_f5 (x0 : BitVec 7) (x1 : BitVec 4) (x2 : BitVec 8) (x3 : BitVec 4) (x4 : BitVec 6) (x5 : BitVec 3) : fld (x0 ++ x1 ++ x2 ++ x3 ++ x4 ++ x5 : BitVec 32) 0 3 = x5 := by
  unfold fld; rw [BitVec.extractLsb'_append_eq_of_add_le (by decide)]; simp

theorem s7_4_4_4_4_8_1_f0 (x0 : BitVec 7) (x1 : BitVec 4) (x2 : BitVec 4) (x3 : BitVec 4) (x4 : BitVec 4) (x5 : BitVec 8) (x6 : BitVec 1) : fld (x0 ++ x1 ++ x2 ++ x3 ++ x4 ++ x5 ++ x6 : BitVec 32) 25 7 = x0 := by
  unfold fld; rw [BitVec.extractLsb'_append_eq_of_le (by decide), BitVec.extractLsb'_append_eq_of_le (by decide), BitVec.extractLsb'_append_eq_of_le (by decide), BitVec.extractLsb'_append_eq_of_le (by decide), BitVec.extractLsb'_append_eq_of_le (by decide), BitVec.extractLsb'_append_eq_of_le (by decide)]; simp

theorem s7_4_4_4_4_8_1_f1 (x0 : BitVec 7) (x1 : BitVec 4) (x2 : BitVec 4) (x3 : BitVec 4) (x4 : BitVec 4) (x5 : BitVec 8) (x6 : BitVec 1) : fld (x0 ++ x1 ++ x2 ++ x3 ++ x4 ++ x5 ++ x6 : BitVec 32) 21 4 = x1 := by
  unfold fld; rw [BitVec.extractLsb'_append_eq_of_le (by decide), BitVec.extractLsb'_append_eq_of_le (by decide), BitVec.extractLsb'_append_eq_of_le (by decide), BitVec.extractLsb'_append_eq_of_le (by decide), BitVec.extractLsb'_append_eq_of_le (by decide), BitVec.extractLsb'_append_eq_of_add_le (by decide)]; simp

theorem s7_4_4_4_4_8_1_f2 (x0 : BitVec 7) (x1 : BitVec 4) (x2 : BitVec 4) (x3 : BitVec 4) (x4 : BitVec 4) (x5 : BitVec 8) (x6 : BitVec 1) : fld (x0 ++ x1 ++ x2 ++ x3 ++ x4 ++ x5 ++ x6 : BitVec 32) 17 4 = x2 := by
  unfold fld; rw [BitVec.extractLsb'_append_eq_of_le (by decide), BitVec.extractLsb'_append_eq_of_le (by decide), BitVec.extractLsb'_append_eq_of_le (by decide), BitVec.extractLsb'_append_eq_of_le (by decide), BitVec.extractLsb'_append_eq_of_add_le (by decide)]; simp

theorem s7_4_4_4_4_8_1_f3 (x0 : BitVec 7) (x1 : BitVec 4) (x2 : BitVec 4) (x3 : BitVec 4) (x4 : BitVec 4) (x5 : BitVec 8) (x6 : BitVec 1) : fld (x0 ++ x1 ++ x2 ++ x3 ++ x4 ++ x5 ++ x6 : BitVec 32) 13 4 = x3 := by
  unfold fld; rw [BitVec.extractLsb'_append_eq_of_le (by decide), BitVec.extractLsb'_append_eq_of_le (by decide), BitVec.extractLsb'_append_eq_of_le (by decide), BitVec.extractLsb'_append_eq_of_add_le (by decide)]; simp

theorem s7_4_4_4_4_8_1_f4 (x0 : BitVec 7) (x1 : BitVec 4) (x2 : BitVec 4) (x3 : BitVec 4) (x4 : BitVec 4) (x5 : BitVec 8) (x6 : BitVec 1) : fld (x0 ++ x1 ++ x2 ++ x3 ++ x4 ++ x5 ++ x6 : BitVec 32) 9 4 = x4 := by
  unfold fld; rw [BitVec.extractLsb'_append_eq_of_le (by decide), BitVec.extractLsb'_append_eq_of_le (by decide), BitVec.extractLsb'_append_eq_of_add_le (by decide)]; simp

theorem s7_4_4_4_4_8_1_f5 (x0 : BitVec 7) (x1 : BitVec 4) (x2 : BitVec 4) (x3 : BitVec 4) (x4 : BitVec 4) (x5 : BitVec 8) (x6 : BitVec 1) : fld (x0 ++ x1 ++ x2 ++ x3 ++ x4 ++ x5 ++ x6 : BitVec 32) 1 8 = x5 := by
  unfold fld; rw [BitVec.extractLsb'_append_eq_of_le (by decide), BitVec.extractLsb'_append_eq_of_add_le (by decide)]; simp

theorem s7_4_4_4_4_8_1_f6 (x0 : BitVec 7) (x1 : BitVec 4) (x2 : BitVec 4) (x3 : BitVec 4) (x4 : BitVec 4) (x5 : BitVec 8) (x6 : BitVec 1) : fld (x0 ++ x1 ++ x2 ++ x3 ++ x4 ++ x5 ++ x6 : BitVec 32) 0 1 = x6 := by
  unfold fld; rw [BitVec.extractLsb'_append_eq_of_add_le (by decide)]; simp

theorem s7_4_4_4_4_6_2_1_f0 (x0 : BitVec 7) (x1 : BitVec 4) (x2 : BitVec 4) (x3 : BitVec 4) (x4 : BitVec 4) (x5 : BitVec 6) (x6 : BitVec 2) (x7 : BitVec 1) : fld (x0 ++ x1 ++ x2 ++ x3 ++ x4 ++ x5 ++ x6 ++ x7 : BitVec 32) 25 7 = x0 := by
  unfold fld; rw [BitVec.extractLsb'_append_eq_of_le (by decide), BitVec.extractLsb'_append_eq_of_le (by decide), BitVec.extractLsb'_append_eq_of_le (by decide), BitVec.extractLsb'_append_eq_of_le (by decide), BitVec.extractLsb'_append_eq_of_le (by decide), BitVec.extractLsb'_append_eq_of_le (by decide), BitVec.extractLsb'_append_eq_of_le (by decide)]; simp

theorem s7_4_4_4_4_6_2_1_f1 (x0 : BitVec 7) (x1 : BitVec 4) (x2 : BitVec 4) (x3 : BitVec 4) (x4 : BitVec 4) (x5 : BitVec 6) (x6 : BitVec 2) (x7 : BitVec 1) : fld (x0 ++ x1 ++ x2 ++ x3 ++ x4 ++ x5 ++ x6 ++ x7 : BitVec 32) 21 4 = x1 := by
  unfold fld; rw [BitVec.extractLsb'_append_eq_of_le (by decide), BitVec.extractLsb'_append_eq_of_le (by decide), BitVec.extractLsb'_append_eq_of_le (by decide), BitVec.extractLsb'_append_eq_of_le (by decide), BitVec.extractLsb'_append_eq_of_le (by decide), BitVec.extractLsb'_append_eq_of_le (by decide), BitVec.extractLsb'_append_eq_of_add_le (by decide)]; simp

theorem s7_4_4_4_4_6_2_1_f2 (x0 : BitVec 7) (x1 : BitVec 4) (x2 : BitVec 4) (x3 : BitVec 4) (x4 : BitVec 4) (x5 : BitVec 6) (x6 : BitVec 2) (x7 : BitVec 1) : fld (x0 ++ x1 ++ x2 ++ x3 ++ x4 ++ x5 ++ x6 ++ x7 : BitVec 32) 17 4 = x2 := by
  unfold fld; rw [BitVec.extractLsb'_append_eq_of_le (by decide), BitVec.extractLsb'_append_eq_of_le (by decide), BitVec.extractLsb'_append_eq_of_le (by decide), BitVec.extractLsb'_append_eq_of_le (by decide), BitVec.extractLsb'_append_eq_of_le (by decide), BitVec.extractLsb'_append_eq_of_add_le (by decide)]; simp

theorem s7_4_4_4_4_6_2_1_f3 (x0 : BitVec 7) (x1 : BitVec 4) (x2 : BitVec 4) (x3 : BitVec 4) (x4 : BitVec 4) (x5 : BitVec 6) (x6 : BitVec 2) (x7 : BitVec 1) : fld (x0 ++ x1 ++ x2 ++ x3 ++ x4 ++ x5 ++ x6 ++ x7 : BitVec 32) 13 4 = x3 := by
  unfold fld; rw [BitVec.extractLsb'_append_eq_of_le (by decide), BitVec.extractLsb'_append_eq_of_le (by decide), BitVec.extractLsb'_append_eq_of_le (by decide), BitVec.extractLsb'_append_eq_of_le (by decide), BitVec.extractLsb'_append_eq_of_add_le (by decide)]; simp

theorem s7_4_4_4_4_6_2_1_f4 (x0 : BitVec 7) (x1 : BitVec 4) (x2 : BitVec 4) (x3 : BitVec 4) (x4 : BitVec 4) (x5 : BitVec 6) (x6 : BitVec 2) (x7 : BitVec 1) : fld (x0 ++ x1 ++ x2 ++ x3 ++ x4 ++ x5 ++ x6 ++ x7 : BitVec 32) 9 4 = x4 := by
  unfold fld; rw [BitVec.extractLsb'_append_eq_of_le (by decide), BitVec.extractLsb'_append_eq_of_le (by decide), BitVec.extractLsb'_append_eq_of_le (by decide), BitVec.extractLsb'_append_eq_of_add_le (by decide)]; simp

theorem s7_4_4_4_4_6_2_1_f5 (x0 : BitVec 7) (x1 : BitVec 4) (x2 : BitVec 4) (x3 : BitVec 4) (x4 : BitVec 4) (x5 : BitVec 6) (x6 : BitVec 2) (x7 : BitVec 1) : fld (x0 ++ x1 ++ x2 ++ x3 ++ x4 ++ x5 ++ x6 ++ x7 : BitVec 32) 3 6 = x5 := by
  unfold fld; rw [BitVec.extractLsb'_append_eq_of_le (by decide), BitVec.extractLsb'_append_eq_of_le (by decide), BitVec.extractLsb'_append_eq_of_add_le (by decide)]; simp

theorem s7_4_4_4_4_6_2_1_f6 (x0 : BitVec 7) (x1 : BitVec 4) (x2 : BitVec 4) (x3 : BitVec 4) (x4 : BitVec 4) (x5 : BitVec 6) (x6 : BitVec 2) (x7 : BitVec 1) : fld (x0 ++ x1 ++ x2 ++ x3 ++ x4 ++ x5 ++ x6 ++ x7 : BitVec 32) 1 2 = x6 := by
  unfold fld; rw [BitVec.extractLsb'_append_eq_of_le (by decide), BitVec.extractLsb'_append_eq_of_add_le (by decide)]; simp

theorem s7_4_4_4_4_6_2_1_f7 (x0 : BitVec 7) (x1 : BitVec 4) (x2 : BitVec 4) (x3 : BitVec 4) (x4 : BitVec 4) (x5 : BitVec 6) (x6 : BitVec 2) (x7 : BitVec 1) : fld (x0 ++ x1 ++ x2 ++ x3 ++ x4 ++ x5 ++ x6 ++ x7 : BitVec 32) 0 1 = x7 := by
  unfold fld; rw [BitVec.extractLsb'_append_eq_of_add_le (by decide)]; simp

theorem s7_4_4_4_4_2_3_4_f0 (x0 : BitVec 7) (x1 : BitVec 4) (x2 : BitVec 4) (x3 : BitVec 4) (x4 : BitVec 4) (x5 : BitVec 2) (x6 : BitVec 3) (x7 : BitVec 4) : fld (x0 ++ x1 ++ x2 ++ x3 ++ x4 ++ x5 ++ x6 ++ x7 : BitVec 32) 25 7 = x0 := by
  unfold fld; rw [BitVec.extractLsb'_append_eq_of_le (by decide), BitVec.extractLsb'_append_eq_of_le (by decide), BitVec.extractLsb'_append_eq_of_le (by decide), BitVec.extractLsb'_append_eq_of_le (by decide), BitVec.extractLsb'_append_eq_of_le (by decide), BitVec.extractLsb'_append_eq_of_le (by decide), BitVec.extractLsb'_append_eq_of_le (by decide)]; simp

theorem s7_4_4_4_4_2_3_4_f1 (x0 : BitVec 7) (x1 : BitVec 4) (x2 : BitVec 4) (x3 : BitVec 4) (x4 : BitVec 4) (x5 : BitVec 2) (x6 : BitVec 3) (x7 : BitVec 4) : fld (x0 ++ x1 ++ x2 ++ x3 ++ x4 ++ x5 ++ x6 ++ x7 : BitVec 32) 21 4 = x1 := by
  unfold fld; rw [BitVec.extractLsb'_append_eq_of_le (by decide), BitVec.extractLsb'_append_eq_of_le (by decide), BitVec.extractLsb'_append_eq_of_le (by decide), BitVec.extractLsb'_append_eq_of_le (by decide), BitVec.extractLsb'_append_eq_of_le (by decide), BitVec.extractLsb'_append_eq_of_le (by decide), BitVec.extractLsb'_append_eq_of_add_le (by decide)]; simp

theorem s7_4_4_4_4_2_3_4_f2 (x0 : BitVec 7) (x1 : BitVec 4) (x2 : BitVec 4) (x3 : BitVec 4) (x4 : BitVec 4) (x5 : BitVec 2) (x6 : BitVec 3) (x7 : BitVec 4) : fld (x0 ++ x1 ++ x2 ++ x3 ++ x4 ++ x5 ++ x6 ++ x7 : BitVec 32) 17 4 = x2 := by
  unfold fld; rw [BitVec.extractLsb'_append_eq_of_le (by decide), BitVec.extractLsb'_append_eq_of_le (by decide), BitVec.extractLsb'_append_eq_of_le (by decide), BitVec.extractLsb'_append_eq_of_le (by decide), BitVec.extractLsb'_append_eq_of_le (by decide), BitVec.extractLsb'_append_eq_of_add_le (by decide)]; simp

theorem s7_4_4_4_4_2_3_4_f3 (x0 : BitVec 7) (x1 : BitVec 4) (x2 : BitVec 4) (x3 : BitVec 4) (x4 : BitVec 4) (x5 : BitVec 2) (x6 : BitVec 3) (x7 : BitVec 4) : fld (x0 ++ x1 ++ x2 ++ x3 ++ x4 ++ x5 ++ x6 ++ x7 : BitVec 32) 13 4 = x3 := by
  unfold fld; rw [BitVec.extractLsb'_append_eq_of_le (by decide), BitVec.extractLsb'_append_eq_of_le (by decide), BitVec.extractLsb'_append_eq_of_le (by decide), BitVec.extractLsb'_append_eq_of_le (by decide), BitVec.extractLsb'_append_eq_of_add_le (by decide)]; simp

theorem s7_4_4_4_4_2_3_4_f4 (x0 : BitVec 7) (x1 : BitVec 4) (x2 : BitVec 4) (x3 : BitVec 4) (x4 : BitVec 4) (x5 : BitVec 2) (x6 : BitVec 3) (x7 : BitVec 4) : fld (x0 ++ x1 ++ x2 ++ x3 ++ x4 ++ x5 ++ x6 ++ x7 : BitVec 32) 9 4 = x4 := by
  unfold fld; rw [BitVec.extractLsb'_append_eq_of_le (by decide), BitVec.extractLsb'_append_eq_of_le (by decide), BitVec.extractLsb'_append_eq_of_le (by decide), BitVec.extractLsb'_append_eq_of_add_le (by decide)]; simp

theorem s7_4_4_4_4_2_3_4_f5 (x0 : BitVec 7) (x1 : BitVec 4) (x2 : BitVec 4) (x3 : BitVec 4) (x4 : BitVec 4) (x5 : BitVec 2) (x6 : BitVec 3) (x7 : BitVec 4) : fld (x0 ++ x1 ++ x2 ++ x3 ++ x4 ++ x5 ++ x6 ++ x7 : BitVec 32) 7 2 = x5 := by
  unfold fld; rw [BitVec.extractLsb'_append_eq_of_le (by decide), BitVec.extractLsb'_append_eq_of_le (by decide), BitVec.extractLsb'_append_eq_of_add_le (by decide)]; simp

theorem s7_4_4_4_4_2_3_4_f6 (x0 : BitVec 7) (x1 : BitVec 4) (x2 : BitVec 4) (x3 : BitVec 4) (x4 : BitVec 4) (x5 : BitVec 2) (x6 : BitVec 3) (x7 : BitVec 4) : fld (x0 ++ x1 ++ x2 ++ x3 ++ x4 ++ x5 ++ x6 ++ x7 : BitVec 32) 4 3 = x6 := by
  unfold fld; rw [BitVec.extractLsb'_append_eq_of_le (by decide), BitVec.extractLsb'_append_eq_of_add_le (by decide)]; simp

theorem s7_4_4_4_4_2_3_4_f7 (x0 : BitVec 7) (x1 : BitVec 4) (x2 : BitVec 4) (x3 : BitVec 4) (x4 : BitVec 4) (x5 : BitVec 2) (x6 : BitVec 3) (x7 : BitVec 4) : fld (x0 ++ x1 ++ x2 ++ x3 ++ x4 ++ x5 ++ x6 ++ x7 : BitVec 32) 0 4 = x7 := by
  unfold fld; rw [BitVec.extractLsb'_append_eq_of_add_le (by decide)]; simp

theorem s7_4_4_4_4_7_2_f0 (x0 : BitVec 7) (x1 : BitVec 4) (x2 : BitVec 4) (x3 : BitVec 4) (x4 : BitVec 4) (x5 : BitVec 7) (x6 : BitVec 2) : fld (x0 ++ x1 ++ x2 ++ x3 ++ x4 ++ x5 ++ x6 : BitVec 32) 25 7 = x0 := by
  unfold fld; rw [BitVec.extractLsb'_append_eq_of_le (by decide), BitVec.extractLsb'_append_eq_of_le (by decide), BitVec.extractLsb'_append_eq_of_le (by decide), BitVec.extractLsb'_append_eq_of_le (by decide), BitVec.extractLsb'_append_eq_of_le (by decide), BitVec.extractLsb'_append_eq_of_le (by decide)]; simp

theorem s7_4_4_4_4_7_2_f1 (x0 : BitVec 7) (x1 : BitVec 4) (x2 : BitVec 4) (x3 : BitVec 4) (x4 : BitVec 4) (x5 : BitVec 7) (x6 : BitVec 2) : fld (x0 ++ x1 ++ x2 ++ x3 ++ x4 ++ x5 ++ x6 : BitVec 32) 21 4 = x1 := by
  unfold fld; rw [BitVec.extractLsb'_append_eq_of_le (by decide), BitVec.extractLsb'_append_eq_of_le (by decide), BitVec.extractLsb'_append_eq_of_le (by decide), BitVec.extractLsb'_append_eq_of_le (by decide), BitVec.extractLsb'_append_eq_of_le (by decide), BitVec.extractLsb'_append_eq_of_add_le (by decide)]; simp

theorem s7_4_4_4_4_7_2_f2 (x0 : BitVec 7) (x1 : BitVec 4) (x2 : BitVec 4) (x3 : BitVec 4) (x4 : BitVec 4) (x5 : BitVec 7) (x6 : BitVec 2) : fld (x0 ++ x1 ++ x2 ++ x3 ++ x4 ++ x5 ++ x6 : BitVec 32) 17 4 = x2 := by
  unfold fld; rw [BitVec.extractLsb'_append_eq_of_le (by decide), BitVec.extractLsb'_append_eq_of_le (by decide), BitVec.extractLsb'_append_eq_of_le (by decide), BitVec.extractLsb'_append_eq_of_le (by decide), BitVec.extractLsb'_append_eq_of_add_le (by decide)]; simp

theorem s7_4_4_4_4_7_2_f3 (x0 : BitVec 7) (x1 : BitVec 4) (x2 : BitVec 4) (x3 : BitVec 4) (x4 : BitVec 4) (x5 : BitVec 7) (x6 : BitVec 2) : fld (x0 ++ x1 ++ x2 ++ x3 ++ x4 ++ x5 ++ x6 : BitVec 32) 13 4 = x3 := by
  unfold fld; rw [BitVec.extractLsb'_append_eq_of_le (by decide), BitVec.extractLsb'_append_eq_of_le (by decide), BitVec.extractLsb'_append_eq_of_le (by decide), BitVec.extractLsb'_append_eq_of_add_le (by decide)]; simp

theorem s7_4_4_4_4_7_2_f4 (x0 : BitVec 7) (x1 : BitVec 4) (x2 : BitVec 4) (x3 : BitVec 4) (x4 : BitVec 4) (x5 : BitVec 7) (x6 : BitVec 2) : fld (x0 ++ x1 ++ x2 ++ x3 ++ x4 ++ x5 ++ x6 : BitVec 32) 9 4 = x4 := by
  unfold fld; rw [BitVec.extractLsb'_append_eq_of_le (by decide), BitVec.extractLsb'_append_eq_of_le (by decide), BitVec.extractLsb'_append_eq_of_add_le (by decide)]; simp

theorem s7_4_4_4_4_7_2_f5 (x0 : BitVec 7) (x1 : BitVec 4) (x2 : BitVec 4) (x3 : BitVec 4) (x4 : BitVec 4) (x5 : BitVec 7) (x6 : BitVec 2) : fld (x0 ++ x1 ++ x2 ++ x3 ++ x4 ++ x5 ++ x6 : BitVec 32) 2 7 = x5 := by
  unfold fld; rw [BitVec.extractLsb'_append_eq_of_le (by decide), BitVec.extractLsb'_append_eq_of_add_le (by decide)]; simp

theorem s7_4_4_4_4_7_2_f6 (x0 : BitVec 7) (x1 : BitVec 4) (x2 : BitVec 4) (x3 : BitVec 4) (x4 : BitVec 4) (x5 : BitVec 7) (x6 : BitVec 2) : fld (x0 ++ x1 ++ x2 ++ x3 ++ x4 ++ x5 ++ x6 : BitVec 32) 0 2 = x6 := by
  unfold fld; rw [BitVec.extractLsb'_append_eq_of_add_le (by decide)]; simp

theorem s7_4_4_4_4_6_1_2_f0 (x0 : BitVec 7) (x1 : BitVec 4) (x2 : BitVec 4) (x3 : BitVec 4) (x4 : BitVec 4) (x5 : BitVec 6) (x6 : BitVec 1) (x7 : BitVec 2) : fld (x0 ++ x1 ++ x2 ++ x3 ++ x4 ++ x5 ++ x6 ++ x7 : BitVec 32) 25 7 = x0 := by
  unfold fld; rw [BitVec.extractLsb'_append_eq_of_le (by decide), BitVec.extractLsb'_append_eq_of_le (by decide), BitVec.extractLsb'_append_eq_of_le (by decide), BitVec.extractLsb'_append_eq_of_le (by decide), BitVec.extractLsb'_append_eq_of_le (by decide), BitVec.extractLsb'_append_eq_of_le (by decide), BitVec.extractLsb'_append_eq_of_le (by decide)]; simp

theorem s7_4_4_4_4_6_1_2_f1 (x0 : BitVec 7) (x1 : BitVec 4) (x2 : BitVec 4) (x3 : BitVec 4) (x4 : BitVec 4) (x5 : BitVec 6) (x6 : BitVec 1) (x7 : BitVec 2) : fld (x0 ++ x1 ++ x2 ++ x3 ++ x4 ++ x5 ++ x6 ++ x7 : BitVec 32) 21 4 = x1 := by
  unfold fld; rw [BitVec.extractLsb'_append_eq_of_le (by decide), BitVec.extractLsb'_append_eq_of_le (by decide), BitVec.extractLsb'_append_eq_of_le (by decide), BitVec.extractLsb'_append_eq_of_le (by decide), BitVec.extractLsb'_append_eq_of_le (by decide), BitVec.extractLsb'_append_eq_of_le (by decide), BitVec.extractLsb'_append_eq_of_add_le (by decide)]; simp

theorem s7_4_4_4_4_6_1_2_f2 (x0 : BitVec 7) (x1 : BitVec 4) (x2 : BitVec 4) (x3 : BitVec 4) (x4 : BitVec 4) (x5 : BitVec 6) (x6 : BitVec 1) (x7 : BitVec 2) : fld (x0 ++ x1 ++ x2 ++ x3 ++ x4 ++ x5 ++ x6 ++ x7 : BitVec 32) 17 4 = x2 := by
  unfold fld; rw [BitVec.extractLsb'_append_eq_of_le (by decide), BitVec.extractLsb'_append_eq_of_le (by decide), BitVec.extractLsb'_append_eq_of_le (by decide), BitVec.extractLsb'_append_eq_of_le (by decide), BitVec.extractLsb'_append_eq_of_le (by decide), BitVec.extractLsb'_append_eq_of_add_le (by decide)]; simp

theorem s7_4_4_4_4_6_1_2_f3 (x0 : BitVec 7) (x1 : BitVec 4) (x2 : BitVec 4) (x3 : BitVec 4) (x4 : BitVec 4) (x5 : BitVec 6) (x6 : BitVec 1) (x7 : BitVec 2) : fld (x0 ++ x1 ++ x2 ++ x3 ++ x4 ++ x5 ++ x6 ++ x7 : BitVec 32) 13 4 = x3 := by
  unfold fld; rw [BitVec.extractLsb'_append_eq_of_le (by decide), BitVec.extractLsb'_append_eq_of_le (by decide), BitVec.extractLsb'_append_eq_of_le (by decide), BitVec.extractLsb'_append_eq_of_le (by decide), BitVec.extractLsb'_append_eq_of_add_le (by decide)]; simp

theorem s7_4_4_4_4_6_1_2_f4 (x0 : BitVec 7) (x1 : BitVec 4) (x2 : BitVec 4) (x3 : BitVec 4) (x4 : BitVec 4) (x5 : BitVec 6) (x6 : BitVec 1) (x7 : BitVec 2) : fld (x0 ++ x1 ++ x2 ++ x3 ++ x4 ++ x5 ++ x6 ++ x7 : BitVec 32) 9 4 = x4 := by
  unfold fld; rw [BitVec.extractLsb'_append_eq_of_le (by decide), BitVec.extractLsb'_append_eq_of_le (by decide), BitVec.extractLsb'_append_eq_of_le (by decide), BitVec.extractLsb'_append_eq_of_add_le (by decide)]; simp

theorem s7_4_4_4_4_6_1_2_f5 (x0 : BitVec 7) (x1 : BitVec 4) (x2 : BitVec 4) (x3 : BitVec 4) (x4 : BitVec 4) (x5 : BitVec 6) (x6 : BitVec 1) (x7 : BitVec 2) : fld (x0 ++ x1 ++ x2 ++ x3 ++ x4 ++ x5 ++ x6 ++ x7 : BitVec 32) 3 6 = x5 := by
  unfold fld; rw [BitVec.extractLsb'_append_eq_of_le (by decide), BitVec.extractLsb'_append_eq_of_le (by decide), BitVec.extractLsb'_append_eq_of_add_le (by decide)]; simp

theorem s7_4_4_4_4_6_1_2_f6 (x0 : BitVec 7) (x1 : BitVec 4) (x2 : BitVec 4) (x3 : BitVec 4) (x4 : BitVec 4) (x5 : BitVec 6) (x6 : BitVec 1) (x7 : BitVec 2) : fld (x0 ++ x1 ++ x2 ++ x3 ++ x4 ++ x5 ++ x6 ++ x7 : BitVec 32) 2 1 = x6 := by
  unfold fld; rw [BitVec.extractLsb'_append_eq_of_le (by decide), BitVec.extractLsb'_append_eq_of_add_le (by decide)]; simp

theorem s7_4_4_4_4_6_1_2_f7 (x0 : BitVec 7) (x1 : BitVec 4) (x2 : BitVec 4) (x3 : BitVec 4) (x4 : BitVec 4) (x5 : BitVec 6) (x6 : BitVec 1) (x7 : BitVec 2) : fld (x0 ++ x1 ++ x2 ++ x3 ++ x4 ++ x5 ++ x6 ++ x7 : BitVec 32) 0 2 = x7 := by
  unfold fld; rw [BitVec.extractLsb'_append_eq_of_add_le (by decide)]; simp

theorem s7_4_4_4_4_5_2_2_f0 (x0 : BitVec 7) (x1 : BitVec 4) (x2 : BitVec 4) (x3 : BitVec 4) (x4 : BitVec 4) (x5 : BitVec 5) (x6 : BitVec 2) (x7 : BitVec 2) : fld (x0 ++ x1 ++ x2 ++ x3 ++ x4 ++ x5 ++ x6 ++ x7 : BitVec 32) 25 7 = x0 := by
  unfold fld; rw [BitVec.extractLsb'_append_eq_of_le (by decide), BitVec.extractLsb'_append_eq_of_le (by decide), BitVec.extractLsb'_append_eq_of_le (by decide), BitVec.extractLsb'_append_eq_of_le (by decide), BitVec.extractLsb'_append_eq_of_le (by decide), BitVec.extractLsb'_append_eq_of_le (by decide), BitVec.extractLsb'_append_eq_of_le (by decide)]; simp

theorem s7_4_4_4_4_5_2_2_f1 (x0 : BitVec 7) (x1 : BitVec 4) (x2 : BitVec 4) (x3 : BitVec 4) (x4 : BitVec 4) (x5 : BitVec 5) (x6 : BitVec 2) (x7 : BitVec 2) : fld (x0 ++ x1 ++ x2 ++ x3 ++ x4 ++ x5 ++ x6 ++ x7 : BitVec 32) 21 4 = x1 := by
  unfold fld; rw [BitVec.extractLsb'_append_eq_of_le (by decide), BitVec.extractLsb'_append_eq_of_le (by decide), BitVec.extractLsb'_append_eq_of_le (by decide), BitVec.extractLsb'_append_eq_of_le (by decide), BitVec.extractLsb'_append_eq_of_le (by decide), BitVec.extractLsb'_append_eq_of_le (by decide), BitVec.extractLsb'_append_eq_of_add_le (by decide)]; simp

theorem s7_4_4_4_4_5_2_2_f2 (x0 : BitVec 7) (x1 : BitVec 4) (x2 : BitVec 4) (x3 : BitVec 4) (x4 : BitVec 4) (x5 : BitVec 5) (x6 : BitVec 2) (x7 : BitVec 2) : fld (x0 ++ x1 ++ x2 ++ x3 ++ x4 ++ x5 ++ x6 ++ x7 : BitVec 32) 17 4 = x2 := by
  unfold fld; rw [BitVec.extractLsb'_append_eq_of_le (by decide), BitVec.extractLsb'_append_eq_of_le (by decide), BitVec.extractLsb'_append_eq_of_le (by decide), BitVec.extractLsb'_append_eq_of_le (by decide), BitVec.extractLsb'_append_eq_of_le (by decide), BitVec.extractLsb'_append_eq_of_add_le (by decide)]; simp

theorem s7_4_4_4_4_5_2_2_f3 (x0 : BitVec 7) (x1 : BitVec 4) (x2 : BitVec 4) (x3 : BitVec 4) (x4 : BitVec 4) (x5 : BitVec 5) (x6 : BitVec 2) (x7 : BitVec 2) : fld (x0 ++ x1 ++ x2 ++ x3 ++ x4 ++ x5 ++ x6 ++ x7 : BitVec 32) 13 4 = x3 := by
  unfold fld; rw [BitVec.extractLsb'_append_eq_of_le (by decide), BitVec.extractLsb'_append_eq_of_le (by decide), BitVec.extractLsb'_append_eq_of_le (by decide), BitVec.extractLsb'_append_eq_of_le (by decide), BitVec.extractLsb'_append_eq_of_add_le (by decide)]; simp

theorem s7_4_4_4_4_5_2_2_f4 (x0 : BitVec 7) (x1 : BitVec 4) (x2 : BitVec 4) (x3 : BitVec 4) (x4 : BitVec 4) (x5 : BitVec 5) (x6 : BitVec 2) (x7 : BitVec 2) : fld (x0 ++ x1 ++ x2 ++ x3 ++ x4 ++ x5 ++ x6 ++ x7 : BitVec 32) 9 4 = x4 := by
  unfold fld; rw [BitVec.extractLsb'_append_eq_of_le (by decide), BitVec.extractLsb'_append_eq_of_le (by decide), BitVec.extractLsb'_append_eq_of_le (by decide), BitVec.extractLsb'_append_eq_of_add_le (by decide)]; simp

theorem s7_4_4_4_4_5_2_2_f5 (x0 : BitVec 7) (x1 : BitVec 4) (x2 : BitVec 4) (x3 : BitVec 4) (x4 : BitVec 4) (x5 : BitVec 5) (x6 : BitVec 2) (x7 : BitVec 2) : fld (x0 ++ x1 ++ x2 ++ x3 ++ x4 ++ x5 ++ x6 ++ x7 : BitVec 32) 4 5 = x5 := by
  unfold fld; rw [BitVec.extractLsb'_append_eq_of_le (by decide), BitVec.extractLsb'_append_eq_of_le (by decide), BitVec.extractLsb'_append_eq_of_add_le (by decide)]; simp

theorem s7_4_4_4_4_5_2_2_f6 (x0 : BitVec 7) (x1 : BitVec 4) (x2 : BitVec 4) (x3 : BitVec 4) (x4 : BitVec 4) (x5 : BitVec 5) (x6 : BitVec 2) (x7 : BitVec 2) : fld (x0 ++ x1 ++ x2 ++ x3 ++ x4 ++ x5 ++ x6 ++ x7 : BitVec 32) 2 2 = x6 := by
  unfold fld; rw [BitVec.extractLsb'_append_eq_of_le (by decide), BitVec.extractLsb'_append_eq_of_add_le (by decide)]; simp

theorem s7_4_4_4_4_5_2_2_f7 (x0 : BitVec 7) (x1 : BitVec 4) (x2 : BitVec 4) (x3 : BitVec 4) (x4 : BitVec 4) (x5 : BitVec 5) (x6 : BitVec 2) (x7 : BitVec 2) : fld (x0 ++ x1 ++ x2 ++ x3 ++ x4 ++ x5 ++ x6 ++ x7 : BitVec 32) 0 2 = x7 := by
  unfold fld; rw [BitVec.extractLsb'_append_eq_of_add_le (by decide)]; simp

theorem s7_4_4_4_4_3_2_4_f0 (x0 : BitVec 7) (x1 : BitVec 4) (x2 : BitVec 4) (x3 : BitVec 4) (x4 : BitVec 4) (x5 : BitVec 3) (x6 : BitVec 2) (x7 : BitVec 4) : fld (x0 ++ x1 ++ x2 ++ x3 ++ x4 ++ x5 ++ x6 ++ x7 : BitVec 32) 25 7 = x0 := by
  unfold fld; rw [BitVec.extractLsb'_append_eq_of_le (by decide), BitVec.extractLsb'_append_eq_of_le (by decide), BitVec.extractLsb'_append_eq_of_le (by decide), BitVec.extractLsb'_append_eq_of_le (by decide), BitVec.extractLsb'_append_eq_of_le (by decide), BitVec.extractLsb'_append_eq_of_le (by decide), BitVec.extractLsb'_append_eq_of_le (by decide)]; simp

theorem s7_4_4_4_4_3_2_4_f1 (x0 : BitVec 7) (x1 : BitVec 4) (x2 : BitVec 4) (x3 : BitVec 4) (x4 : BitVec 4) (x5 : BitVec 3) (x6 : BitVec 2) (x7 : BitVec 4) : fld (x0 ++ x1 ++ x2 ++ x3 ++ x4 ++ x5 ++ x6 ++ x7 : BitVec 32) 21 4 = x1 := by
  unfold fld; rw [BitVec.extractLsb'_append_eq_of_le (by decide), BitVec.extractLsb'_append_eq_of_le (by decide), BitVec.extractLsb'_append_eq_of_le (by decide), BitVec.extractLsb'_append_eq_of_le (by decide), BitVec.extractLsb'_append_eq_of_le (by decide), BitVec.extractLsb'_append_eq_of_le (by decide), BitVec.extractLsb'_append_eq_of_add_le (by decide)]; simp

theorem s7_4_4_4_4_3_2_4_f2 (x0 : BitVec 7) (x1 : BitVec 4) (x2 : BitVec 4) (x3 : BitVec 4) (x4 : BitVec 4) (x5 : BitVec 3) (x6 : BitVec 2) (x7 : BitVec 4) : fld (x0 ++ x1 ++ x2 ++ x3 ++ x4 ++ x5 ++ x6 ++ x7 : BitVec 32) 17 4 = x2 := by
  unfold fld; rw [BitVec.extractLsb'_append_eq_of_le (by decide), BitVec.extractLsb'_append_eq_of_le (by decide), BitVec.extractLsb'_append_eq_of_le (by decide), BitVec.extractLsb'_append_eq_of_le (by decide), BitVec.extractLsb'_append_eq_of_le (by decide), BitVec.extractLsb'_append_eq_of_add_le (by decide)]; simp

theorem s7_4_4_4_4_3_2_4_f3 (x0 : BitVec 7) (x1 : BitVec 4) (x2 : BitVec 4) (x3 : BitVec 4) (x4 : BitVec 4) (x5 : BitVec 3) (x6 : BitVec 2) (x7 : BitVec 4) : fld (x0 ++ x1 ++ x2 ++ x3 ++ x4 ++ x5 ++ x6 ++ x7 : BitVec 32) 13 4 = x3 := by
  unfold fld; rw [BitVec.extractLsb'_append_eq_of_le (by decide), BitVec.extractLsb'_append_eq_of_le (by decide), BitVec.extractLsb'_append_eq_of_le (by decide), BitVec.extractLsb'_append_eq_of_le (by decide), BitVec.extractLsb'_append_eq_of_add_le (by decide)]; simp

theorem s7_4_4_4_4_3_2_4_f4 (x0 : BitVec 7) (x1 : BitVec 4) (x2 : BitVec 4) (x3 : BitVec 4) (x4 : BitVec 4) (x5 : BitVec 3) (x6 : BitVec 2) (x7 : BitVec 4) : fld (x0 ++ x1 ++ x2 ++ x3 ++ x4 ++ x5 ++ x6 ++ x7 : BitVec 32) 9 4 = x4 := by
  unfold fld; rw [BitVec.extractLsb'_append_eq_of_le (by decide), BitVec.extractLsb'_append_eq_of_le (by decide), BitVec.extractLsb'_append_eq_of_le (by decide), BitVec.extractLsb'_append_eq_of_add_le (by decide)]; simp

theorem s7_4_4_4_4_3_2_4_f5 (x0 : BitVec 7) (x1 : BitVec 4) (x2 : BitVec 4) (x3 : BitVec 4) (x4 : BitVec 4) (x5 : BitVec 3) (x6 : BitVec 2) (x7 : BitVec 4) : fld (x0 ++ x1 ++ x2 ++ x3 ++ x4 ++ x5 ++ x6 ++ x7 : BitVec 32) 6 3 = x5 := by
  unfold fld; rw [BitVec.extractLsb'_append_eq_of_le (by decide), BitVec.extractLsb'_append_eq_of_le (by decide), BitVec.extractLsb'_append_eq_of_add_le (by decide)]; simp

theorem s7_4_4_4_4_3_2_4_f6 (x0 : BitVec 7) (x1 : BitVec 4) (x2 : BitVec 4) (x3 : BitVec 4) (x4 : BitVec 4) (x5 : BitVec 3) (x6 : BitVec 2) (x7 : BitVec 4) : fld (x0 ++ x1 ++ x2 ++ x3 ++ x4 ++ x5 ++ x6 ++ x7 : BitVec 32) 4 2 = x6 := by
  unfold fld; rw [BitVec.extractLsb'_append_eq_of_le (by decide), BitVec.extractLsb'_append_eq_of_add_le (by decide)]; simp

theorem s7_4_4_4_4_3_2_4_f7 (x0 : BitVec 7) (x1 : BitVec 4) (x2 : BitVec 4) (x3 : BitVec 4) (x4 : BitVec 4) (x5 : BitVec 3) (x6 : BitVec 2) (x7 : BitVec 4) : fld (x0 ++ x1 ++ x2 ++ x3 ++ x4 ++ x5 ++ x6 ++ x7 : BitVec 32) 0 4 = x7 := by
  unfold fld; rw [BitVec.extractLsb'_append_eq_of_add_le (by decide)]; simp

theorem s7_4_4_4_4_4_1_4_f0 (x0 : BitVec 7) (x1 : BitVec 4) (x2 : BitVec 4) (x3 : BitVec 4) (x4 : BitVec 4) (x5 : BitVec 4) (x6 : BitVec 1) (x7 : BitVec 4) : fld (x0 ++ x1 ++ x2 ++ x3 ++ x4 ++ x5 ++ x6 ++ x7 : BitVec 32) 25 7 = x0 := by
  unfold fld; rw [BitVec.extractLsb'_append_eq_of_le (by decide), BitVec.extractLsb'_append_eq_of_le (by decide), BitVec.extractLsb'_append_eq_of_le (by decide), BitVec.extractLsb'_append_eq_of_le (by decide), BitVec.extractLsb'_append_eq_of_le (by decide), BitVec.extractLsb'_append_eq_of_le (by decide), BitVec.extractLsb'_append_eq_of_le (by decide)]; simp

theorem s7_4_4_4_4_4_1_4_f1 (x0 : BitVec 7) (x1 : BitVec 4) (x2 : BitVec 4) (x3 : BitVec 4) (x4 : BitVec 4) (x5 : BitVec 4) (x6 : BitVec 1) (x7 : BitVec 4) : fld (x0 ++ x1 ++ x2 ++ x3 ++ x4 ++ x5 ++ x6 ++ x7 : BitVec 32) 21 4 = x1 := by
  unfold fld; rw [BitVec.extractLsb'_append_eq_of_le (by decide), BitVec.extractLsb'_append_eq_of_le (by decide), BitVec.extractLsb'_append_eq_of_le (by decide), BitVec.extractLsb'_append_eq_of_le (by decide), BitVec.extractLsb'_append_eq_of_le (by decide), BitVec.extractLsb'_append_eq_of_le (by decide), BitVec.extractLsb'_append_eq_of_add_le (by decide)]; simp

theorem s7_4_4_4_4_4_1_4_f2 (x0 : BitVec 7) (x1 : BitVec 4) (x2 : BitVec 4) (x3 : BitVec 4) (x4 : BitVec 4) (x5 : BitVec 4) (x6 : BitVec 1) (x7 : BitVec 4) : fld (x0 ++ x1 ++ x2 ++ x3 ++ x4 ++ x5 ++ x6 ++ x7 : BitVec 32) 17 4 = x2 := by
  unfold fld; rw [BitVec.extractLsb'_append_eq_of_le (by decide), BitVec.extractLsb'_append_eq_of_le (by decide), BitVec.extractLsb'_append_eq_of_le (by decide), BitVec.extractLsb'_append_eq_of_le (by decide), BitVec.extractLsb'_append_eq_of_le (by decide), BitVec.extractLsb'_append_eq_of_add_le (by decide)]; simp

theorem s7_4_4_4_4_4_1_4_f3 (x0 : BitVec 7) (x1 : BitVec 4) (x2 : BitVec 4) (x3 : BitVec 4) (x4 : BitVec 4) (x5 : BitVec 4) (x6 : BitVec 1) (x7 : BitVec 4) : fld (x0 ++ x1 ++ x2 ++ x3 ++ x4 ++ x5 ++ x6 ++ x7 : BitVec 32) 13 4 = x3 := by
  unfold fld; rw [BitVec.extractLsb'_append_eq_of_le (by decide), BitVec.extractLsb'_append_eq_of_le (by decide), BitVec.extractLsb'_append_eq_of_le (by decide), BitVec.extractLsb'_append_eq_of_le (by decide), BitVec.extractLsb'_append_eq_of_add_le (by decide)]; simp

theorem s7_4_4_4_4_4_1_4_f4 (x0 : BitVec 7) (x1 : BitVec 4) (x2 : BitVec 4) (x3 : BitVec 4) (x4 : BitVec 4) (x5 : BitVec 4) (x6 : BitVec 1) (x7 : BitVec 4) : fld (x0 ++ x1 ++ x2 ++ x3 ++ x4 ++ x5 ++ x6 ++ x7 : BitVec 32) 9 4 = x4 := by
  unfold fld; rw [BitVec.extractLsb'_append_eq_of_le (by decide), BitVec.extractLsb'_append_eq_of_le (by decide), BitVec.extractLsb'_append_eq_of_le (by decide), BitVec.extractLsb'_append_eq_of_add_le (by decide)]; simp

theorem s7_4_4_4_4_4_1_4_f5 (x0 : BitVec 7) (x1 : BitVec 4) (x2 : BitVec 4) (x3 : BitVec 4) (x4 : BitVec 4) (x5 : BitVec 4) (x6 : BitVec 1) (x7 : BitVec 4) : fld (x0 ++ x1 ++ x2 ++ x3 ++ x4 ++ x5 ++ x6 ++ x7 : BitVec 32) 5 4 = x5 := by
  unfold fld; rw [BitVec.extractLsb'_append_eq_of_le (by decide), BitVec.extractLsb'_append_eq_of_le (by decide), BitVec.extractLsb'_append_eq_of_add_le (by decide)]; simp

theorem s7_4_4_4_4_4_1_4_f6 (x0 : BitVec 7) (x1 : BitVec 4) (x2 : BitVec 4) (x3 : BitVec 4) (x4 : BitVec 4) (x5 : BitVec 4) (x6 : BitVec 1) (x7 : BitVec 4) : fld (x0 ++ x1 ++ x2 ++ x3 ++ x4 ++ x5 ++ x6 ++ x7 : BitVec 32) 4 1 = x6 := by
  unfold fld; rw [BitVec.extractLsb'_append_eq_of_le (by decide), BitVec.extractLsb'_append_eq_of_add_le (by decide)]; simp

theorem s7_4_4_4_4_4_1_4_f7 (x0 : BitVec 7) (x1 : BitVec 4) (x2 : BitVec 4) (x3 : BitVec 4) (x4 : BitVec 4) (x5 : BitVec 4) (x6 : BitVec 1) (x7 : BitVec 4) : fld (x0 ++ x1 ++ x2 ++ x3 ++ x4 ++ x5 ++ x6 ++ x7 : BitVec 32) 0 4 = x7 := by
  unfold fld; rw [BitVec.extractLsb'_append_eq_of_add_le (by decide)]; simp

theorem s7_4_8_4_5_4_f0 (x0 : BitVec 7) (x1 : BitVec 4) (x2 : BitVec 8) (x3 : BitVec 4) (x4 : BitVec 5) (x5 : BitVec 4) : fld (x0 ++ x1 ++ x2 ++ x3 ++ x4 ++ x5 : BitVec 32) 25 7 = x0 := by
  unfold fld; rw [BitVec.extractLsb'_append_eq_of_le (by decide), BitVec.extractLsb'_append_eq_of_le (by decide), BitVec.extractLsb'_append_eq_of_le (by decide), BitVec.extractLsb'_append_eq_of_le (by decide), BitVec.extractLsb'_append_eq_of_le (by decide)]; simp

theorem s7_4_8_4_5_4_f1 (x0 : BitVec 7) (x1 : BitVec 4) (x2 : BitVec 8) (x3 : BitVec 4) (x4 : BitVec 5) (x5 : BitVec 4) : fld (x0 ++ x1 ++ x2 ++ x3 ++ x4 ++ x5 : BitVec 32) 21 4 = x1 := by
  unfold fld; rw [BitVec.extractLsb'_append_eq_of_le (by decide), BitVec.extractLsb'_append_eq_of_le (by decide), BitVec.extractLsb'_append_eq_of_le (by decide), BitVec.extractLsb'_append_eq_of_le (by decide), BitVec.extractLsb'_append_eq_of_add_le (by decide)]; simp

theorem s7_4_8_4_5_4_f2 (x0 : BitVec 7) (x1 : BitVec 4) (x2 : BitVec 8) (x3 : BitVec 4) (x4 : BitVec 5) (x5 : BitVec 4) : fld (x0 ++ x1 ++ x2 ++ x3 ++ x4 ++ x5 : BitVec 32) 13 8 = x2 := by
  unfold fld; rw [BitVec.extractLsb'_append_eq_of_le (by decide), BitVec.extractLsb'_append_eq_of_le (by decide), BitVec.extractLsb'_append_eq_of_le (by decide), BitVec.extractLsb'_append_eq_of_add_le (by decide)]; simp

theorem s7_4_8_4_5_4_f3 (x0 : BitVec 7) (x1 : BitVec 4) (x2 : BitVec 8) (x3 : BitVec 4) (x4 : BitVec 5) (x5 : BitVec 4) : fld (x0 ++ x1 ++ x2 ++ x3 ++ x4 ++ x5 : BitVec 32) 9 4 = x3 := by
  unfold fld; rw [BitVec.extractLsb'_append_eq_of_le (by decide), BitVec.extractLsb'_append_eq_of_le (by decide), BitVec.extractLsb'_append_eq_of_add_le (by decide)]; simp

theorem s7_4_8_4_5_4_f4 (x0 : BitVec 7) (x1 : BitVec 4) (x2 : BitVec 8) (x3 : BitVec 4) (x4 : BitVec 5) (x5 : BitVec 4) : fld (x0 ++ x1 ++ x2 ++ x3 ++ x4 ++ x5 : BitVec 32) 4 5 = x4 := by
  unfold fld; rw [BitVec.extractLsb'_append_eq_of_le (by decide), BitVec.extractLsb'_append_eq_of_add_le (by decide)]; simp

theorem s7_4_8_4_5_4_f5 (x0 : BitVec 7) (x1 : BitVec 4) (x2 : BitVec 8) (x3 : BitVec 4) (x4 : BitVec 5) (x5 : BitVec 4) : fld (x0 ++ x1 ++ x2 ++ x3 ++ x4 ++ x5 : BitVec 32) 0 4 = x5 := by
  unfold fld; rw [BitVec.extractLsb'_append_eq_of_add_le (by decide)]; simp

theorem s7_5_5_13_2_f0 (x0 : BitVec 7) (x1 : BitVec 5) (x2 : BitVec 5) (x3 : BitVec 13) (x4 : BitVec 2) : fld (x0 ++ x1 ++ x2 ++ x3 ++ x4 : BitVec 32) 25 7 = x0 := by
  unfold fld; rw [BitVec.extractLsb'_append_eq_of_le (by decide), BitVec.extractLsb'_append_eq_of_le (by decide), BitVec.extractLsb'_append_eq_of_le (by decide), BitVec.extractLsb'_append_eq_of_le (by decide)]; simp

theorem s7_5_5_13_2_f1 (x0 : BitVec 7) (x1 : BitVec 5) (x2 : BitVec 5) (x3 : BitVec 13) (x4 : BitVec 2) : fld (x0 ++ x1 ++ x2 ++ x3 ++ x4 : BitVec 32) 20 5 = x1 := by
  unfold fld; rw [BitVec.extractLsb'_append_eq_of_le (by decide), BitVec.extractLsb'_append_eq_of_le (by decide), BitVec.extractLsb'_append_eq_of_le (by decide), BitVec.extractLsb'_append_eq_of_add_le (by decide)]; simp

theorem s7_5_5_13_2_f2 (x0 : BitVec 7) (x1 : BitVec 5) (x2 : BitVec 5) (x3 : BitVec 13) (x4 : BitVec 2) : fld (x0 ++ x1 ++ x2 ++ x3 ++ x4 : BitVec 32) 15 5 = x2 := by
  unfold fld; rw [BitVec.extractLsb'_append_eq_of_le (by decide), BitVec.extractLsb'_append_eq_of_le (by decide), BitVec.extractLsb'_append_eq_of_add_le (by decide)]; simp

theorem s7_5_5_13_2_f3 (x0 : BitVec 7) (x1 : BitVec 5) (x2 : BitVec 5) (x3 : BitVec 13) (x4 : BitVec 2) : fld (x0 ++ x1 ++ x2 ++ x3 ++ x4 : BitVec 32) 2 13 = x3 := by
  unfold fld; rw [BitVec.extractLsb'_append_eq_of_le (by decide), BitVec.extractLsb'_append_eq_of_add_le (by decide)]; simp

theorem s7_5_5_13_2_f4 (x0 : BitVec 7) (x1 : BitVec 5) (x2 : BitVec 5) (x3 : BitVec 13) (x4 : BitVec 2) : fld (x0 ++ x1 ++ x2 ++ x3 ++ x4 : BitVec 32) 0 2 = x4 := by
  unfold fld; rw [BitVec.extractLsb'_append_eq_of_add_le (by decide)]; simp

theorem s7_5_18_2_f0 (x0 : BitVec 7) (x1 : BitVec 5) (x2 : BitVec 18) (x3 : BitVec 2) : fld (x0 ++ x1 ++ x2 ++ x3 : BitVec 32) 25 7 = x0 := by
  unfold fld; rw [BitVec.extractLsb'_append_eq_of_le (by decide), BitVec.extractLsb'_append_eq_of_le (by decide), BitVec.extractLsb'_append_eq_of_le (by decide)]; simp

theorem s7_5_18_2_f1 (x0 : BitVec 7) (x1 : BitVec 5) (x2 : BitVec 18) (x3 : BitVec 2) : fld (x0 ++ x1 ++ x2 ++ x3 : BitVec 32) 20 5 = x1 := by
  unfold fld; rw [BitVec.extractLsb'_append_eq_of_le (by decide), BitVec.extractLsb'_append_eq_of_le (by decide), BitVec.extractLsb'_append_eq_of_add_le (by decide)]; simp

theorem s7_5_18_2_f2 (x0 : BitVec 7) (x1 : BitVec 5) (x2 : BitVec 18) (x3 : BitVec 2) : fld (x0 ++ x1 ++ x2 ++ x3 : BitVec 32) 2 18 = x2 := by
  unfold fld; rw [BitVec.extractLsb'_append_eq_of_le (by decide), BitVec.extractLsb'_append_eq_of_add_le (by decide)]; simp

theorem s7_5_18_2_f3 (x0 : BitVec 7) (x1 : BitVec 5) (x2 : BitVec 18) (x3 : BitVec 2) : fld (x0 ++ x1 ++ x2 ++ x3 : BitVec 32) 0 2 = x3 := by
  unfold fld; rw [BitVec.extractLsb'_append_eq_of_add_le (by decide)]; simp

theorem s7_5_10_10_f0 (x0 : BitVec 7) (x1 : BitVec 5) (x2 : BitVec 10) (x3 : BitVec 10) : fld (x0 ++ x1 ++ x2 ++ x3 : BitVec 32) 25 7 = x0 := by
  unfold fld; rw [BitVec.extractLsb'_append_eq_of_le (by decide), BitVec.extractLsb'_append_eq_of_le (by decide), BitVec.extractLsb'_append_eq_of_le (by decide)]; simp

theorem s7_5_10_10_f1 (x0 : BitVec 7) (x1 : BitVec 5) (x2 : BitVec 10) (x3 : BitVec 10) : fld (x0 ++ x1 ++ x2 ++ x3 : BitVec 32) 20 5 = x1 := by
  unfold fld; rw [BitVec.extractLsb'_append_eq_of_le (by decide), BitVec.extractLsb'_append_eq_of_le (by decide), BitVec.extractLsb'_append_eq_of_add_le (by decide)]; simp

theorem s7_5_10_10_f2 (x0 : BitVec 7) (x1 : BitVec 5) (x2 : BitVec 10) (x3 : BitVec 10) : fld (x0 ++ x1 ++ x2 ++ x3 : BitVec 32) 10 10 = x2 := by
  unfold fld; rw [BitVec.extractLsb'_append_eq_of_le (by decide), BitVec.extractLsb'_append_eq_of_add_le (by decide)]; simp

theorem s7_5_10_10_f3 (x0 : BitVec 7) (x1 : BitVec 5) (x2 : BitVec 10) (x3 : BitVec 10) : fld (x0 ++ x1 ++ x2 ++ x3 : BitVec 32) 0 10 = x3 := by
  unfold fld; rw [BitVec.extractLsb'_append_eq_of_add_le (by decide)]; simp

theorem s7_6_15_4_f0 (x0 : BitVec 7) (x1 : BitVec 6) (x2 : BitVec 15) (x3 : BitVec 4) : fld (x0 ++ x1 ++ x2 ++ x3 : BitVec 32) 25 7 = x0 := by
  unfold fld; rw [BitVec.extractLsb'_append_eq_of_le (by decide), BitVec.extractLsb'_append_eq_of_le (by decide), BitVec.extractLsb'_append_eq_of_le (by decide)]; simp

theorem s7_6_15_4_f1 (x0 : BitVec 7) (x1 : BitVec 6) (x2 : BitVec 15) (x3 : BitVec 4) : fld (x0 ++ x1 ++ x2 ++ x3 : BitVec 32) 19 6 = x1 := by
  unfold fld; rw [BitVec.extractLsb'_append_eq_of_le (by decide), BitVec.extractLsb'_append_eq_of_le (by decide), BitVec.extractLsb'_append_eq_of_add_le (by decide)]; simp

theorem s7_6_15_4_f2 (x0 : BitVec 7) (x1 : BitVec 6) (x2 : BitVec 15) (x3 : BitVec 4) : fld (x0 ++ x1 ++ x2 ++ x3 : BitVec 32) 4 15 = x2 := by
  unfold fld; rw [BitVec.extractLsb'_append_eq_of_le (by decide), BitVec.extractLsb'_append_eq_of_add_le (by decide)]; simp

theorem s7_6_15_4_f3 (x0 : BitVec 7) (x1 : BitVec 6) (x2 : BitVec 15) (x3 : BitVec 4) : fld (x0 ++ x1 ++ x2 ++ x3 : BitVec 32) 0 4 = x3 := by
  unfold fld; rw [BitVec.extractLsb'_append_eq_of_add_le (by decide)]; simp

theorem s7_3_22_f0 (x0 : BitVec 7) (x1 : BitVec 3) (x2 : BitVec 22) : fld (x0 ++ x1 ++ x2 : BitVec 32) 25 7 = x0 := by
  unfold fld; rw [BitVec.extractLsb'_append_eq_of_le (by decide), BitVec.extractLsb'_append_eq_of_le (by decide)]; simp

theorem s7_3_22_f1 (x0 : BitVec 7) (x1 : BitVec 3) (x2 : BitVec 22) : fld (x0 ++ x1 ++ x2 : BitVec 32) 22 3 = x1 := by
  unfold fld; rw [BitVec.extractLsb'_append_eq_of_le (by decide), BitVec.extractLsb'_append_eq_of_add_le (by decide)]; simp

theorem s7_3_22_f2 (x0 : BitVec 7) (x1 : BitVec 3) (x2 : BitVec 22) : fld (x0 ++ x1 ++ x2 : BitVec 32) 0 22 = x2 := by
  unfold fld; rw [BitVec.extractLsb'_append_eq_of_add_le (by decide)]; simp

theorem cell_00 (w : BitVec 32) (h : fld w 25 7 = 0#7) : decodeCell w = .ok (decodeAlu w) := by
  unfold decodeCell; rw [h]; rfl

theorem cell_01 (w : BitVec 32) (h : fld w 25 7 = 1#7) : decodeCell w = .ok (decodeMuldiv w) := by
  unfold decodeCell; rw [h]; rfl

theorem cell_02 (w : BitVec 32) (h : fld w 25 7 = 2#7) : decodeCell w = .ok (decodeShift w) := by
  unfold decodeCell; rw [h]; rfl

theorem cell_03 (w : BitVec 32) (h : fld w 25 7 = 3#7) : decodeCell w = .ok (decodeTree w) := by
  unfold decodeCell; rw [h]; rfl

theorem cell_08 (w : BitVec 32) (h : fld w 25 7 = 8#7) : decodeCell w = .ok (decodeAddi w) := by
  unfold decodeCell; rw [h]; rfl

theorem cell_09 (w : BitVec 32) (h : fld w 25 7 = 9#7) : decodeCell w = .ok (decodeAndi w) := by
  unfold decodeCell; rw [h]; rfl

theorem cell_0a (w : BitVec 32) (h : fld w 25 7 = 10#7) : decodeCell w = .ok (decodeOri w) := by
  unfold decodeCell; rw [h]; rfl

theorem cell_0b (w : BitVec 32) (h : fld w 25 7 = 11#7) : decodeCell w = .ok (decodeXori w) := by
  unfold decodeCell; rw [h]; rfl

theorem cell_0c (w : BitVec 32) (h : fld w 25 7 = 12#7) : decodeCell w = .ok (decodeSlti w) := by
  unfold decodeCell; rw [h]; rfl

theorem cell_0d (w : BitVec 32) (h : fld w 25 7 = 13#7) : decodeCell w = .ok (decodeSltiu w) := by
  unfold decodeCell; rw [h]; rfl

theorem cell_0e (w : BitVec 32) (h : fld w 25 7 = 14#7) : decodeCell w = .ok (decodeShi w) := by
  unfold decodeCell; rw [h]; rfl

theorem cell_0f (w : BitVec 32) (h : fld w 25 7 = 15#7) : decodeCell w = .ok (decodeLih w) := by
  unfold decodeCell; rw [h]; rfl

theorem cell_10 (w : BitVec 32) (h : fld w 25 7 = 16#7) : decodeCell w = .ok (decodeLdB w) := by
  unfold decodeCell; rw [h]; rfl

theorem cell_11 (w : BitVec 32) (h : fld w 25 7 = 17#7) : decodeCell w = .ok (decodeLdH w) := by
  unfold decodeCell; rw [h]; rfl

theorem cell_12 (w : BitVec 32) (h : fld w 25 7 = 18#7) : decodeCell w = .ok (decodeLdW w) := by
  unfold decodeCell; rw [h]; rfl

theorem cell_13 (w : BitVec 32) (h : fld w 25 7 = 19#7) : decodeCell w = .ok (decodeLdD w) := by
  unfold decodeCell; rw [h]; rfl

theorem cell_14 (w : BitVec 32) (h : fld w 25 7 = 20#7) : decodeCell w = .ok (decodeLdzB w) := by
  unfold decodeCell; rw [h]; rfl

theorem cell_15 (w : BitVec 32) (h : fld w 25 7 = 21#7) : decodeCell w = .ok (decodeLdzH w) := by
  unfold decodeCell; rw [h]; rfl

theorem cell_16 (w : BitVec 32) (h : fld w 25 7 = 22#7) : decodeCell w = .ok (decodeLdzW w) := by
  unfold decodeCell; rw [h]; rfl

theorem cell_17 (w : BitVec 32) (h : fld w 25 7 = 23#7) : decodeCell w = .ok (decodeLdx w) := by
  unfold decodeCell; rw [h]; rfl

theorem cell_18 (w : BitVec 32) (h : fld w 25 7 = 24#7) : decodeCell w = .ok (decodeStB w) := by
  unfold decodeCell; rw [h]; rfl

theorem cell_19 (w : BitVec 32) (h : fld w 25 7 = 25#7) : decodeCell w = .ok (decodeStH w) := by
  unfold decodeCell; rw [h]; rfl

theorem cell_1a (w : BitVec 32) (h : fld w 25 7 = 26#7) : decodeCell w = .ok (decodeStW w) := by
  unfold decodeCell; rw [h]; rfl

theorem cell_1b (w : BitVec 32) (h : fld w 25 7 = 27#7) : decodeCell w = .ok (decodeStD w) := by
  unfold decodeCell; rw [h]; rfl

theorem cell_1c (w : BitVec 32) (h : fld w 25 7 = 28#7) : decodeCell w = .ok (decodeLdb w) := by
  unfold decodeCell; rw [h]; rfl

theorem cell_1d (w : BitVec 32) (h : fld w 25 7 = 29#7) : decodeCell w = .ok (decodeAmo w) := by
  unfold decodeCell; rw [h]; rfl

theorem cell_1e (w : BitVec 32) (h : fld w 25 7 = 30#7) : decodeCell w = .ok (decodeCas w) := by
  unfold decodeCell; rw [h]; rfl

theorem cell_20 (w : BitVec 32) (h : fld w 25 7 = 32#7) : decodeCell w = .ok (decodeBeq w) := by
  unfold decodeCell; rw [h]; rfl

theorem cell_21 (w : BitVec 32) (h : fld w 25 7 = 33#7) : decodeCell w = .ok (decodeBne w) := by
  unfold decodeCell; rw [h]; rfl

theorem cell_22 (w : BitVec 32) (h : fld w 25 7 = 34#7) : decodeCell w = .ok (decodeBlt w) := by
  unfold decodeCell; rw [h]; rfl

theorem cell_23 (w : BitVec 32) (h : fld w 25 7 = 35#7) : decodeCell w = .ok (decodeBge w) := by
  unfold decodeCell; rw [h]; rfl

theorem cell_24 (w : BitVec 32) (h : fld w 25 7 = 36#7) : decodeCell w = .ok (decodeBltu w) := by
  unfold decodeCell; rw [h]; rfl

theorem cell_25 (w : BitVec 32) (h : fld w 25 7 = 37#7) : decodeCell w = .ok (decodeBgeu w) := by
  unfold decodeCell; rw [h]; rfl

theorem cell_26 (w : BitVec 32) (h : fld w 25 7 = 38#7) : decodeCell w = .ok (decodeJ w) := by
  unfold decodeCell; rw [h]; rfl

theorem cell_27 (w : BitVec 32) (h : fld w 25 7 = 39#7) : decodeCell w = .ok (decodeJal w) := by
  unfold decodeCell; rw [h]; rfl

theorem cell_28 (w : BitVec 32) (h : fld w 25 7 = 40#7) : decodeCell w = .ok (decodeJumpreg w) := by
  unfold decodeCell; rw [h]; rfl

theorem cell_29 (w : BitVec 32) (h : fld w 25 7 = 41#7) : decodeCell w = .ok (decodeCallat w) := by
  unfold decodeCell; rw [h]; rfl

theorem cell_2a (w : BitVec 32) (h : fld w 25 7 = 42#7) : decodeCell w = .ok (decodeWait w) := by
  unfold decodeCell; rw [h]; rfl

theorem cell_2b (w : BitVec 32) (h : fld w 25 7 = 43#7) : decodeCell w = .ok (decodeQueue w) := by
  unfold decodeCell; rw [h]; rfl

theorem cell_2c (w : BitVec 32) (h : fld w 25 7 = 44#7) : decodeCell w = .ok (decodeSend w) := by
  unfold decodeCell; rw [h]; rfl

theorem cell_2d (w : BitVec 32) (h : fld w 25 7 = 45#7) : decodeCell w = .ok (decodeRound w) := by
  unfold decodeCell; rw [h]; rfl

theorem cell_2e (w : BitVec 32) (h : fld w 25 7 = 46#7) : decodeCell w = .ok (decodeBarrier w) := by
  unfold decodeCell; rw [h]; rfl

theorem cell_2f (w : BitVec 32) (h : fld w 25 7 = 47#7) : decodeCell w = .ok (decodeBasin w) := by
  unfold decodeCell; rw [h]; rfl

theorem cell_30 (w : BitVec 32) (h : fld w 25 7 = 48#7) : decodeCell w = .ok (decodeTdesc w) := by
  unfold decodeCell; rw [h]; rfl

theorem cell_31 (w : BitVec 32) (h : fld w 25 7 = 49#7) : decodeCell w = .ok (decodeTsub w) := by
  unfold decodeCell; rw [h]; rfl

theorem cell_32 (w : BitVec 32) (h : fld w 25 7 = 50#7) : decodeCell w = .ok (decodeTsubr w) := by
  unfold decodeCell; rw [h]; rfl

theorem cell_38 (w : BitVec 32) (h : fld w 25 7 = 56#7) : decodeCell w = .ok (decodeBcopy w) := by
  unfold decodeCell; rw [h]; rfl

theorem cell_39 (w : BitVec 32) (h : fld w 25 7 = 57#7) : decodeCell w = .ok (decodeBfill w) := by
  unfold decodeCell; rw [h]; rfl

theorem cell_3a (w : BitVec 32) (h : fld w 25 7 = 58#7) : decodeCell w = .ok (decodeBgath w) := by
  unfold decodeCell; rw [h]; rfl

theorem cell_3b (w : BitVec 32) (h : fld w 25 7 = 59#7) : decodeCell w = .ok (decodeBscat w) := by
  unfold decodeCell; rw [h]; rfl

theorem cell_3c (w : BitVec 32) (h : fld w 25 7 = 60#7) : decodeCell w = .ok (decodeResidency w) := by
  unfold decodeCell; rw [h]; rfl

theorem cell_3d (w : BitVec 32) (h : fld w 25 7 = 61#7) : decodeCell w = .ok (decodeOwnership w) := by
  unfold decodeCell; rw [h]; rfl

theorem cell_40 (w : BitVec 32) (h : fld w 25 7 = 64#7) : decodeCell w = .ok (decodeMxst w) := by
  unfold decodeCell; rw [h]; rfl

theorem cell_41 (w : BitVec 32) (h : fld w 25 7 = 65#7) : decodeCell w = .ok (decodeMxma w) := by
  unfold decodeCell; rw [h]; rfl

theorem cell_42 (w : BitVec 32) (h : fld w 25 7 = 66#7) : decodeCell w = .ok (decodeMxmas w) := by
  unfold decodeCell; rw [h]; rfl

theorem cell_48 (w : BitVec 32) (h : fld w 25 7 = 72#7) : decodeCell w = .ok (decodeVarith w) := by
  unfold decodeCell; rw [h]; rfl

theorem cell_49 (w : BitVec 32) (h : fld w 25 7 = 73#7) : decodeCell w = .ok (decodeVlogic w) := by
  unfold decodeCell; rw [h]; rfl

theorem cell_4a (w : BitVec 32) (h : fld w 25 7 = 74#7) : decodeCell w = .ok (decodeVcmpsel w) := by
  unfold decodeCell; rw [h]; rfl

theorem cell_4b (w : BitVec 32) (h : fld w 25 7 = 75#7) : decodeCell w = .ok (decodeVcvt w) := by
  unfold decodeCell; rw [h]; rfl

theorem cell_4c (w : BitVec 32) (h : fld w 25 7 = 76#7) : decodeCell w = .ok (decodeVfunc w) := by
  unfold decodeCell; rw [h]; rfl

theorem cell_4d (w : BitVec 32) (h : fld w 25 7 = 77#7) : decodeCell w = .ok (decodeVred w) := by
  unfold decodeCell; rw [h]; rfl

theorem cell_4e (w : BitVec 32) (h : fld w 25 7 = 78#7) : decodeCell w = .ok (decodeVscan w) := by
  unfold decodeCell; rw [h]; rfl

theorem cell_4f (w : BitVec 32) (h : fld w 25 7 = 79#7) : decodeCell w = .ok (decodeVperm w) := by
  unfold decodeCell; rw [h]; rfl

theorem cell_50 (w : BitVec 32) (h : fld w 25 7 = 80#7) : decodeCell w = .ok (decodeVgen w) := by
  unfold decodeCell; rw [h]; rfl

theorem cell_58 (w : BitVec 32) (h : fld w 25 7 = 88#7) : decodeCell w = .ok (decodeCbld w) := by
  unfold decodeCell; rw [h]; rfl

theorem cell_59 (w : BitVec 32) (h : fld w 25 7 = 89#7) : decodeCell w = .ok (decodeSkset w) := by
  unfold decodeCell; rw [h]; rfl

theorem cell_5a (w : BitVec 32) (h : fld w 25 7 = 90#7) : decodeCell w = .ok (decodeXbset w) := by
  unfold decodeCell; rw [h]; rfl

theorem cell_5b (w : BitVec 32) (h : fld w 25 7 = 91#7) : decodeCell w = .ok (decodeXbarm w) := by
  unfold decodeCell; rw [h]; rfl

theorem cell_5c (w : BitVec 32) (h : fld w 25 7 = 92#7) : decodeCell w = .ok (decodeEctl w) := by
  unfold decodeCell; rw [h]; rfl

theorem cell_5d (w : BitVec 32) (h : fld w 25 7 = 93#7) : decodeCell w = .ok (decodeEstat w) := by
  unfold decodeCell; rw [h]; rfl

theorem cell_60 (w : BitVec 32) (h : fld w 25 7 = 96#7) : decodeCell w = .ok (decodeSys w) := by
  unfold decodeCell; rw [h]; rfl

theorem cell_61 (w : BitVec 32) (h : fld w 25 7 = 97#7) : decodeCell w = .ok (decodeCracc w) := by
  unfold decodeCell; rw [h]; rfl

theorem cell_62 (w : BitVec 32) (h : fld w 25 7 = 98#7) : decodeCell w = .ok (decodeContext w) := by
  unfold decodeCell; rw [h]; rfl

theorem cell_63 (w : BitVec 32) (h : fld w 25 7 = 99#7) : decodeCell w = .ok (decodeKey w) := by
  unfold decodeCell; rw [h]; rfl

theorem cell_64 (w : BitVec 32) (h : fld w 25 7 = 100#7) : decodeCell w = .ok (decodeJapp w) := by
  unfold decodeCell; rw [h]; rfl

theorem cell_78 (w : BitVec 32) (h : fld w 25 7 = 120#7) : decodeCell w = .ok (decodeImmx w) := by
  unfold decodeCell; rw [h]; rfl

theorem cell_79 (w : BitVec 32) (h : fld w 25 7 = 121#7) : decodeCell w = .ok (decodeRep w) := by
  unfold decodeCell; rw [h]; rfl

theorem cell_7a (w : BitVec 32) (h : fld w 25 7 = 122#7) : decodeCell w = .ok (decodeHint w) := by
  unfold decodeCell; rw [h]; rfl

/-- What the decoder answers where the map gives a well-formed instruction. -/
theorem decode_of {w : BitVec 32} {i : Instr} (h : decodeCell w = .ok (some i)) (hw : i.wf = true) : decode w = .ok i := by
  simp [decode, h, hw]

theorem add (d : BitVec 5) (a : BitVec 5) (b : BitVec 5) : Statement (.add d a b) := by
  intro hwf w h
  injection h with h
  subst h
  exact decode_of (by rw [cell_00 _ (s7_5_5_5_10_f0 ..)]; simp [-BitVec.reduceAppend, decodeAlu, s7_5_5_5_10_f4, s7_5_5_5_10_f1, s7_5_5_5_10_f2, s7_5_5_5_10_f3]) hwf

theorem sub (d : BitVec 5) (a : BitVec 5) (b : BitVec 5) : Statement (.sub d a b) := by
  intro hwf w h
  injection h with h
  subst h
  exact decode_of (by rw [cell_00 _ (s7_5_5_5_10_f0 ..)]; simp [-BitVec.reduceAppend, decodeAlu, s7_5_5_5_10_f4, s7_5_5_5_10_f1, s7_5_5_5_10_f2, s7_5_5_5_10_f3]) hwf

theorem and (d : BitVec 5) (a : BitVec 5) (b : BitVec 5) : Statement (.and d a b) := by
  intro hwf w h
  injection h with h
  subst h
  exact decode_of (by rw [cell_00 _ (s7_5_5_5_10_f0 ..)]; simp [-BitVec.reduceAppend, decodeAlu, s7_5_5_5_10_f4, s7_5_5_5_10_f1, s7_5_5_5_10_f2, s7_5_5_5_10_f3]) hwf

theorem or (d : BitVec 5) (a : BitVec 5) (b : BitVec 5) : Statement (.or d a b) := by
  intro hwf w h
  injection h with h
  subst h
  exact decode_of (by rw [cell_00 _ (s7_5_5_5_10_f0 ..)]; simp [-BitVec.reduceAppend, decodeAlu, s7_5_5_5_10_f4, s7_5_5_5_10_f1, s7_5_5_5_10_f2, s7_5_5_5_10_f3]) hwf

theorem xor (d : BitVec 5) (a : BitVec 5) (b : BitVec 5) : Statement (.xor d a b) := by
  intro hwf w h
  injection h with h
  subst h
  exact decode_of (by rw [cell_00 _ (s7_5_5_5_10_f0 ..)]; simp [-BitVec.reduceAppend, decodeAlu, s7_5_5_5_10_f4, s7_5_5_5_10_f1, s7_5_5_5_10_f2, s7_5_5_5_10_f3]) hwf

theorem andn (d : BitVec 5) (a : BitVec 5) (b : BitVec 5) : Statement (.andn d a b) := by
  intro hwf w h
  injection h with h
  subst h
  exact decode_of (by rw [cell_00 _ (s7_5_5_5_10_f0 ..)]; simp [-BitVec.reduceAppend, decodeAlu, s7_5_5_5_10_f4, s7_5_5_5_10_f1, s7_5_5_5_10_f2, s7_5_5_5_10_f3]) hwf

theorem orn (d : BitVec 5) (a : BitVec 5) (b : BitVec 5) : Statement (.orn d a b) := by
  intro hwf w h
  injection h with h
  subst h
  exact decode_of (by rw [cell_00 _ (s7_5_5_5_10_f0 ..)]; simp [-BitVec.reduceAppend, decodeAlu, s7_5_5_5_10_f4, s7_5_5_5_10_f1, s7_5_5_5_10_f2, s7_5_5_5_10_f3]) hwf

theorem min (d : BitVec 5) (a : BitVec 5) (b : BitVec 5) : Statement (.min d a b) := by
  intro hwf w h
  injection h with h
  subst h
  exact decode_of (by rw [cell_00 _ (s7_5_5_5_10_f0 ..)]; simp [-BitVec.reduceAppend, decodeAlu, s7_5_5_5_10_f4, s7_5_5_5_10_f1, s7_5_5_5_10_f2, s7_5_5_5_10_f3]) hwf

theorem max (d : BitVec 5) (a : BitVec 5) (b : BitVec 5) : Statement (.max d a b) := by
  intro hwf w h
  injection h with h
  subst h
  exact decode_of (by rw [cell_00 _ (s7_5_5_5_10_f0 ..)]; simp [-BitVec.reduceAppend, decodeAlu, s7_5_5_5_10_f4, s7_5_5_5_10_f1, s7_5_5_5_10_f2, s7_5_5_5_10_f3]) hwf

theorem minu (d : BitVec 5) (a : BitVec 5) (b : BitVec 5) : Statement (.minu d a b) := by
  intro hwf w h
  injection h with h
  subst h
  exact decode_of (by rw [cell_00 _ (s7_5_5_5_10_f0 ..)]; simp [-BitVec.reduceAppend, decodeAlu, s7_5_5_5_10_f4, s7_5_5_5_10_f1, s7_5_5_5_10_f2, s7_5_5_5_10_f3]) hwf

theorem maxu (d : BitVec 5) (a : BitVec 5) (b : BitVec 5) : Statement (.maxu d a b) := by
  intro hwf w h
  injection h with h
  subst h
  exact decode_of (by rw [cell_00 _ (s7_5_5_5_10_f0 ..)]; simp [-BitVec.reduceAppend, decodeAlu, s7_5_5_5_10_f4, s7_5_5_5_10_f1, s7_5_5_5_10_f2, s7_5_5_5_10_f3]) hwf

theorem slt (d : BitVec 5) (a : BitVec 5) (b : BitVec 5) : Statement (.slt d a b) := by
  intro hwf w h
  injection h with h
  subst h
  exact decode_of (by rw [cell_00 _ (s7_5_5_5_10_f0 ..)]; simp [-BitVec.reduceAppend, decodeAlu, s7_5_5_5_10_f4, s7_5_5_5_10_f1, s7_5_5_5_10_f2, s7_5_5_5_10_f3]) hwf

theorem sltu (d : BitVec 5) (a : BitVec 5) (b : BitVec 5) : Statement (.sltu d a b) := by
  intro hwf w h
  injection h with h
  subst h
  exact decode_of (by rw [cell_00 _ (s7_5_5_5_10_f0 ..)]; simp [-BitVec.reduceAppend, decodeAlu, s7_5_5_5_10_f4, s7_5_5_5_10_f1, s7_5_5_5_10_f2, s7_5_5_5_10_f3]) hwf

theorem seq (d : BitVec 5) (a : BitVec 5) (b : BitVec 5) : Statement (.seq d a b) := by
  intro hwf w h
  injection h with h
  subst h
  exact decode_of (by rw [cell_00 _ (s7_5_5_5_10_f0 ..)]; simp [-BitVec.reduceAppend, decodeAlu, s7_5_5_5_10_f4, s7_5_5_5_10_f1, s7_5_5_5_10_f2, s7_5_5_5_10_f3]) hwf

theorem sne (d : BitVec 5) (a : BitVec 5) (b : BitVec 5) : Statement (.sne d a b) := by
  intro hwf w h
  injection h with h
  subst h
  exact decode_of (by rw [cell_00 _ (s7_5_5_5_10_f0 ..)]; simp [-BitVec.reduceAppend, decodeAlu, s7_5_5_5_10_f4, s7_5_5_5_10_f1, s7_5_5_5_10_f2, s7_5_5_5_10_f3]) hwf

theorem mul (d : BitVec 5) (a : BitVec 5) (b : BitVec 5) : Statement (.mul d a b) := by
  intro hwf w h
  injection h with h
  subst h
  exact decode_of (by rw [cell_01 _ (s7_5_5_5_10_f0 ..)]; simp [-BitVec.reduceAppend, decodeMuldiv, s7_5_5_5_10_f4, s7_5_5_5_10_f1, s7_5_5_5_10_f2, s7_5_5_5_10_f3]) hwf

theorem mulh (d : BitVec 5) (a : BitVec 5) (b : BitVec 5) : Statement (.mulh d a b) := by
  intro hwf w h
  injection h with h
  subst h
  exact decode_of (by rw [cell_01 _ (s7_5_5_5_10_f0 ..)]; simp [-BitVec.reduceAppend, decodeMuldiv, s7_5_5_5_10_f4, s7_5_5_5_10_f1, s7_5_5_5_10_f2, s7_5_5_5_10_f3]) hwf

theorem mulhu (d : BitVec 5) (a : BitVec 5) (b : BitVec 5) : Statement (.mulhu d a b) := by
  intro hwf w h
  injection h with h
  subst h
  exact decode_of (by rw [cell_01 _ (s7_5_5_5_10_f0 ..)]; simp [-BitVec.reduceAppend, decodeMuldiv, s7_5_5_5_10_f4, s7_5_5_5_10_f1, s7_5_5_5_10_f2, s7_5_5_5_10_f3]) hwf

theorem div (d : BitVec 5) (a : BitVec 5) (b : BitVec 5) : Statement (.div d a b) := by
  intro hwf w h
  injection h with h
  subst h
  exact decode_of (by rw [cell_01 _ (s7_5_5_5_10_f0 ..)]; simp [-BitVec.reduceAppend, decodeMuldiv, s7_5_5_5_10_f4, s7_5_5_5_10_f1, s7_5_5_5_10_f2, s7_5_5_5_10_f3]) hwf

theorem divu (d : BitVec 5) (a : BitVec 5) (b : BitVec 5) : Statement (.divu d a b) := by
  intro hwf w h
  injection h with h
  subst h
  exact decode_of (by rw [cell_01 _ (s7_5_5_5_10_f0 ..)]; simp [-BitVec.reduceAppend, decodeMuldiv, s7_5_5_5_10_f4, s7_5_5_5_10_f1, s7_5_5_5_10_f2, s7_5_5_5_10_f3]) hwf

theorem rem (d : BitVec 5) (a : BitVec 5) (b : BitVec 5) : Statement (.rem d a b) := by
  intro hwf w h
  injection h with h
  subst h
  exact decode_of (by rw [cell_01 _ (s7_5_5_5_10_f0 ..)]; simp [-BitVec.reduceAppend, decodeMuldiv, s7_5_5_5_10_f4, s7_5_5_5_10_f1, s7_5_5_5_10_f2, s7_5_5_5_10_f3]) hwf

theorem remu (d : BitVec 5) (a : BitVec 5) (b : BitVec 5) : Statement (.remu d a b) := by
  intro hwf w h
  injection h with h
  subst h
  exact decode_of (by rw [cell_01 _ (s7_5_5_5_10_f0 ..)]; simp [-BitVec.reduceAppend, decodeMuldiv, s7_5_5_5_10_f4, s7_5_5_5_10_f1, s7_5_5_5_10_f2, s7_5_5_5_10_f3]) hwf

theorem shl (d : BitVec 5) (a : BitVec 5) (b : BitVec 5) : Statement (.shl d a b) := by
  intro hwf w h
  injection h with h
  subst h
  exact decode_of (by rw [cell_02 _ (s7_5_5_5_10_f0 ..)]; simp [-BitVec.reduceAppend, decodeShift, s7_5_5_5_10_f4, s7_5_5_5_10_f1, s7_5_5_5_10_f2, s7_5_5_5_10_f3]) hwf

theorem shr (d : BitVec 5) (a : BitVec 5) (b : BitVec 5) : Statement (.shr d a b) := by
  intro hwf w h
  injection h with h
  subst h
  exact decode_of (by rw [cell_02 _ (s7_5_5_5_10_f0 ..)]; simp [-BitVec.reduceAppend, decodeShift, s7_5_5_5_10_f4, s7_5_5_5_10_f1, s7_5_5_5_10_f2, s7_5_5_5_10_f3]) hwf

theorem sra (d : BitVec 5) (a : BitVec 5) (b : BitVec 5) : Statement (.sra d a b) := by
  intro hwf w h
  injection h with h
  subst h
  exact decode_of (by rw [cell_02 _ (s7_5_5_5_10_f0 ..)]; simp [-BitVec.reduceAppend, decodeShift, s7_5_5_5_10_f4, s7_5_5_5_10_f1, s7_5_5_5_10_f2, s7_5_5_5_10_f3]) hwf

theorem rot (d : BitVec 5) (a : BitVec 5) (b : BitVec 5) : Statement (.rot d a b) := by
  intro hwf w h
  injection h with h
  subst h
  exact decode_of (by rw [cell_02 _ (s7_5_5_5_10_f0 ..)]; simp [-BitVec.reduceAppend, decodeShift, s7_5_5_5_10_f4, s7_5_5_5_10_f1, s7_5_5_5_10_f2, s7_5_5_5_10_f3]) hwf

theorem clz (d : BitVec 5) (a : BitVec 5) : Statement (.clz d a) := by
  intro hwf w h
  injection h with h
  have hn : (2#7 ++ d ++ a ++ 5#15 : BitVec 32).toNat = 67108864 + d.toNat * 1048576 + a.toNat * 32768 + 5 := by
    simp only [append_toNat, BitVec.toNat_ofNat, Nat.reducePow, Nat.reduceMod]; omega
  have := d.isLt
  have := a.isLt
  have f0 : fld (2#7 ++ d ++ a ++ 5#15 : BitVec 32) 0 10 = 5#10 := fld_eq (by rw [hn]; rw [BitVec.toNat_ofNat]; omega)
  subst h
  exact decode_of (by rw [cell_02 _ (s7_5_5_15_f0 ..)]; simp [-BitVec.reduceAppend, decodeShift, s7_5_5_15_f3, s7_5_5_15_f1, s7_5_5_15_f2, f0]) hwf

theorem ctz (d : BitVec 5) (a : BitVec 5) : Statement (.ctz d a) := by
  intro hwf w h
  injection h with h
  have hn : (2#7 ++ d ++ a ++ 6#15 : BitVec 32).toNat = 67108864 + d.toNat * 1048576 + a.toNat * 32768 + 6 := by
    simp only [append_toNat, BitVec.toNat_ofNat, Nat.reducePow, Nat.reduceMod]; omega
  have := d.isLt
  have := a.isLt
  have f0 : fld (2#7 ++ d ++ a ++ 6#15 : BitVec 32) 0 10 = 6#10 := fld_eq (by rw [hn]; rw [BitVec.toNat_ofNat]; omega)
  subst h
  exact decode_of (by rw [cell_02 _ (s7_5_5_15_f0 ..)]; simp [-BitVec.reduceAppend, decodeShift, s7_5_5_15_f3, s7_5_5_15_f1, s7_5_5_15_f2, f0]) hwf

theorem popc (d : BitVec 5) (a : BitVec 5) : Statement (.popc d a) := by
  intro hwf w h
  injection h with h
  have hn : (2#7 ++ d ++ a ++ 7#15 : BitVec 32).toNat = 67108864 + d.toNat * 1048576 + a.toNat * 32768 + 7 := by
    simp only [append_toNat, BitVec.toNat_ofNat, Nat.reducePow, Nat.reduceMod]; omega
  have := d.isLt
  have := a.isLt
  have f0 : fld (2#7 ++ d ++ a ++ 7#15 : BitVec 32) 0 10 = 7#10 := fld_eq (by rw [hn]; rw [BitVec.toNat_ofNat]; omega)
  subst h
  exact decode_of (by rw [cell_02 _ (s7_5_5_15_f0 ..)]; simp [-BitVec.reduceAppend, decodeShift, s7_5_5_15_f3, s7_5_5_15_f1, s7_5_5_15_f2, f0]) hwf

theorem brev (d : BitVec 5) (a : BitVec 5) : Statement (.brev d a) := by
  intro hwf w h
  injection h with h
  have hn : (2#7 ++ d ++ a ++ 8#15 : BitVec 32).toNat = 67108864 + d.toNat * 1048576 + a.toNat * 32768 + 8 := by
    simp only [append_toNat, BitVec.toNat_ofNat, Nat.reducePow, Nat.reduceMod]; omega
  have := d.isLt
  have := a.isLt
  have f0 : fld (2#7 ++ d ++ a ++ 8#15 : BitVec 32) 0 10 = 8#10 := fld_eq (by rw [hn]; rw [BitVec.toNat_ofNat]; omega)
  subst h
  exact decode_of (by rw [cell_02 _ (s7_5_5_15_f0 ..)]; simp [-BitVec.reduceAppend, decodeShift, s7_5_5_15_f3, s7_5_5_15_f1, s7_5_5_15_f2, f0]) hwf

theorem exts (d : BitVec 5) (a : BitVec 5) (b : BitVec 5) : Statement (.exts d a b) := by
  intro hwf w h
  injection h with h
  have hn : (2#7 ++ d ++ a ++ b ++ 9#10 : BitVec 32).toNat = 67108864 + d.toNat * 1048576 + a.toNat * 32768 + b.toNat * 1024 + 9 := by
    simp only [append_toNat, BitVec.toNat_ofNat, Nat.reducePow, Nat.reduceMod]; omega
  have := d.isLt
  have := a.isLt
  have := b.isLt
  have f0 : fld (2#7 ++ d ++ a ++ b ++ 9#10 : BitVec 32) 0 15 ≠ 5#15 := fld_ne (by rw [hn]; rw [BitVec.toNat_ofNat]; omega)
  have f1 : fld (2#7 ++ d ++ a ++ b ++ 9#10 : BitVec 32) 0 15 ≠ 6#15 := fld_ne (by rw [hn]; rw [BitVec.toNat_ofNat]; omega)
  have f2 : fld (2#7 ++ d ++ a ++ b ++ 9#10 : BitVec 32) 0 15 ≠ 7#15 := fld_ne (by rw [hn]; rw [BitVec.toNat_ofNat]; omega)
  have f3 : fld (2#7 ++ d ++ a ++ b ++ 9#10 : BitVec 32) 0 15 ≠ 8#15 := fld_ne (by rw [hn]; rw [BitVec.toNat_ofNat]; omega)
  subst h
  exact decode_of (by rw [cell_02 _ (s7_5_5_5_10_f0 ..)]; simp [-BitVec.reduceAppend, decodeShift, s7_5_5_5_10_f4, s7_5_5_5_10_f1, s7_5_5_5_10_f2, s7_5_5_5_10_f3, f0, f1, f2, f3]) hwf

theorem zip (d : BitVec 5) (a : BitVec 5) (b : BitVec 5) : Statement (.zip d a b) := by
  intro hwf w h
  injection h with h
  subst h
  exact decode_of (by rw [cell_03 _ (s7_5_5_5_10_f0 ..)]; simp [-BitVec.reduceAppend, decodeTree, s7_5_5_5_10_f4, s7_5_5_5_10_f1, s7_5_5_5_10_f2, s7_5_5_5_10_f3]) hwf

theorem zrow (d : BitVec 5) (a : BitVec 5) : Statement (.zrow d a) := by
  intro hwf w h
  injection h with h
  have hn : (3#7 ++ d ++ a ++ 2#15 : BitVec 32).toNat = 100663296 + d.toNat * 1048576 + a.toNat * 32768 + 2 := by
    simp only [append_toNat, BitVec.toNat_ofNat, Nat.reducePow, Nat.reduceMod]; omega
  have := d.isLt
  have := a.isLt
  have f0 : fld (3#7 ++ d ++ a ++ 2#15 : BitVec 32) 0 10 = 2#10 := fld_eq (by rw [hn]; rw [BitVec.toNat_ofNat]; omega)
  subst h
  exact decode_of (by rw [cell_03 _ (s7_5_5_15_f0 ..)]; simp [-BitVec.reduceAppend, decodeTree, s7_5_5_15_f3, s7_5_5_15_f1, s7_5_5_15_f2, f0]) hwf

theorem zcol (d : BitVec 5) (a : BitVec 5) : Statement (.zcol d a) := by
  intro hwf w h
  injection h with h
  have hn : (3#7 ++ d ++ a ++ 3#15 : BitVec 32).toNat = 100663296 + d.toNat * 1048576 + a.toNat * 32768 + 3 := by
    simp only [append_toNat, BitVec.toNat_ofNat, Nat.reducePow, Nat.reduceMod]; omega
  have := d.isLt
  have := a.isLt
  have f0 : fld (3#7 ++ d ++ a ++ 3#15 : BitVec 32) 0 10 = 3#10 := fld_eq (by rw [hn]; rw [BitVec.toNat_ofNat]; omega)
  subst h
  exact decode_of (by rw [cell_03 _ (s7_5_5_15_f0 ..)]; simp [-BitVec.reduceAppend, decodeTree, s7_5_5_15_f3, s7_5_5_15_f1, s7_5_5_15_f2, f0]) hwf

theorem zaddr (d : BitVec 5) (a : BitVec 5) (b : BitVec 5) : Statement (.zaddr d a b) := by
  intro hwf w h
  injection h with h
  have hn : (3#7 ++ d ++ a ++ b ++ 4#10 : BitVec 32).toNat = 100663296 + d.toNat * 1048576 + a.toNat * 32768 + b.toNat * 1024 + 4 := by
    simp only [append_toNat, BitVec.toNat_ofNat, Nat.reducePow, Nat.reduceMod]; omega
  have := d.isLt
  have := a.isLt
  have := b.isLt
  have f0 : fld (3#7 ++ d ++ a ++ b ++ 4#10 : BitVec 32) 0 15 ≠ 2#15 := fld_ne (by rw [hn]; rw [BitVec.toNat_ofNat]; omega)
  have f1 : fld (3#7 ++ d ++ a ++ b ++ 4#10 : BitVec 32) 0 15 ≠ 3#15 := fld_ne (by rw [hn]; rw [BitVec.toNat_ofNat]; omega)
  subst h
  exact decode_of (by rw [cell_03 _ (s7_5_5_5_10_f0 ..)]; simp [-BitVec.reduceAppend, decodeTree, s7_5_5_5_10_f4, s7_5_5_5_10_f1, s7_5_5_5_10_f2, s7_5_5_5_10_f3, f0, f1]) hwf

theorem zaddc (d : BitVec 5) (a : BitVec 5) (b : BitVec 5) : Statement (.zaddc d a b) := by
  intro hwf w h
  injection h with h
  have hn : (3#7 ++ d ++ a ++ b ++ 5#10 : BitVec 32).toNat = 100663296 + d.toNat * 1048576 + a.toNat * 32768 + b.toNat * 1024 + 5 := by
    simp only [append_toNat, BitVec.toNat_ofNat, Nat.reducePow, Nat.reduceMod]; omega
  have := d.isLt
  have := a.isLt
  have := b.isLt
  have f0 : fld (3#7 ++ d ++ a ++ b ++ 5#10 : BitVec 32) 0 15 ≠ 2#15 := fld_ne (by rw [hn]; rw [BitVec.toNat_ofNat]; omega)
  have f1 : fld (3#7 ++ d ++ a ++ b ++ 5#10 : BitVec 32) 0 15 ≠ 3#15 := fld_ne (by rw [hn]; rw [BitVec.toNat_ofNat]; omega)
  subst h
  exact decode_of (by rw [cell_03 _ (s7_5_5_5_10_f0 ..)]; simp [-BitVec.reduceAppend, decodeTree, s7_5_5_5_10_f4, s7_5_5_5_10_f1, s7_5_5_5_10_f2, s7_5_5_5_10_f3, f0, f1]) hwf

theorem ptrunc (d : BitVec 5) (a : BitVec 5) (b : BitVec 5) : Statement (.ptrunc d a b) := by
  intro hwf w h
  injection h with h
  have hn : (3#7 ++ d ++ a ++ b ++ 6#10 : BitVec 32).toNat = 100663296 + d.toNat * 1048576 + a.toNat * 32768 + b.toNat * 1024 + 6 := by
    simp only [append_toNat, BitVec.toNat_ofNat, Nat.reducePow, Nat.reduceMod]; omega
  have := d.isLt
  have := a.isLt
  have := b.isLt
  have f0 : fld (3#7 ++ d ++ a ++ b ++ 6#10 : BitVec 32) 0 15 ≠ 2#15 := fld_ne (by rw [hn]; rw [BitVec.toNat_ofNat]; omega)
  have f1 : fld (3#7 ++ d ++ a ++ b ++ 6#10 : BitVec 32) 0 15 ≠ 3#15 := fld_ne (by rw [hn]; rw [BitVec.toNat_ofNat]; omega)
  subst h
  exact decode_of (by rw [cell_03 _ (s7_5_5_5_10_f0 ..)]; simp [-BitVec.reduceAppend, decodeTree, s7_5_5_5_10_f4, s7_5_5_5_10_f1, s7_5_5_5_10_f2, s7_5_5_5_10_f3, f0, f1]) hwf

theorem pdig (d : BitVec 5) (a : BitVec 5) (b : BitVec 5) : Statement (.pdig d a b) := by
  intro hwf w h
  injection h with h
  have hn : (3#7 ++ d ++ a ++ b ++ 7#10 : BitVec 32).toNat = 100663296 + d.toNat * 1048576 + a.toNat * 32768 + b.toNat * 1024 + 7 := by
    simp only [append_toNat, BitVec.toNat_ofNat, Nat.reducePow, Nat.reduceMod]; omega
  have := d.isLt
  have := a.isLt
  have := b.isLt
  have f0 : fld (3#7 ++ d ++ a ++ b ++ 7#10 : BitVec 32) 0 15 ≠ 2#15 := fld_ne (by rw [hn]; rw [BitVec.toNat_ofNat]; omega)
  have f1 : fld (3#7 ++ d ++ a ++ b ++ 7#10 : BitVec 32) 0 15 ≠ 3#15 := fld_ne (by rw [hn]; rw [BitVec.toNat_ofNat]; omega)
  subst h
  exact decode_of (by rw [cell_03 _ (s7_5_5_5_10_f0 ..)]; simp [-BitVec.reduceAppend, decodeTree, s7_5_5_5_10_f4, s7_5_5_5_10_f1, s7_5_5_5_10_f2, s7_5_5_5_10_f3, f0, f1]) hwf

theorem pcat (d : BitVec 5) (a : BitVec 5) (b : BitVec 5) : Statement (.pcat d a b) := by
  intro hwf w h
  injection h with h
  have hn : (3#7 ++ d ++ a ++ b ++ 8#10 : BitVec 32).toNat = 100663296 + d.toNat * 1048576 + a.toNat * 32768 + b.toNat * 1024 + 8 := by
    simp only [append_toNat, BitVec.toNat_ofNat, Nat.reducePow, Nat.reduceMod]; omega
  have := d.isLt
  have := a.isLt
  have := b.isLt
  have f0 : fld (3#7 ++ d ++ a ++ b ++ 8#10 : BitVec 32) 0 15 ≠ 2#15 := fld_ne (by rw [hn]; rw [BitVec.toNat_ofNat]; omega)
  have f1 : fld (3#7 ++ d ++ a ++ b ++ 8#10 : BitVec 32) 0 15 ≠ 3#15 := fld_ne (by rw [hn]; rw [BitVec.toNat_ofNat]; omega)
  subst h
  exact decode_of (by rw [cell_03 _ (s7_5_5_5_10_f0 ..)]; simp [-BitVec.reduceAppend, decodeTree, s7_5_5_5_10_f4, s7_5_5_5_10_f1, s7_5_5_5_10_f2, s7_5_5_5_10_f3, f0, f1]) hwf

theorem addi (d : BitVec 5) (a : BitVec 5) (i : BitVec 15) : Statement (.addi d a i) := by
  intro hwf w h
  injection h with h
  subst h
  exact decode_of (by rw [cell_08 _ (s7_5_5_15_f0 ..)]; simp [-BitVec.reduceAppend, decodeAddi, s7_5_5_15_f1, s7_5_5_15_f2, s7_5_5_15_f3]) hwf

theorem andi (d : BitVec 5) (a : BitVec 5) (i : BitVec 15) : Statement (.andi d a i) := by
  intro hwf w h
  injection h with h
  subst h
  exact decode_of (by rw [cell_09 _ (s7_5_5_15_f0 ..)]; simp [-BitVec.reduceAppend, decodeAndi, s7_5_5_15_f1, s7_5_5_15_f2, s7_5_5_15_f3]) hwf

theorem ori (d : BitVec 5) (a : BitVec 5) (i : BitVec 15) : Statement (.ori d a i) := by
  intro hwf w h
  injection h with h
  subst h
  exact decode_of (by rw [cell_0a _ (s7_5_5_15_f0 ..)]; simp [-BitVec.reduceAppend, decodeOri, s7_5_5_15_f1, s7_5_5_15_f2, s7_5_5_15_f3]) hwf

theorem xori (d : BitVec 5) (a : BitVec 5) (i : BitVec 15) : Statement (.xori d a i) := by
  intro hwf w h
  injection h with h
  subst h
  exact decode_of (by rw [cell_0b _ (s7_5_5_15_f0 ..)]; simp [-BitVec.reduceAppend, decodeXori, s7_5_5_15_f1, s7_5_5_15_f2, s7_5_5_15_f3]) hwf

theorem slti (d : BitVec 5) (a : BitVec 5) (i : BitVec 15) : Statement (.slti d a i) := by
  intro hwf w h
  injection h with h
  subst h
  exact decode_of (by rw [cell_0c _ (s7_5_5_15_f0 ..)]; simp [-BitVec.reduceAppend, decodeSlti, s7_5_5_15_f1, s7_5_5_15_f2, s7_5_5_15_f3]) hwf

theorem sltiu (d : BitVec 5) (a : BitVec 5) (i : BitVec 15) : Statement (.sltiu d a i) := by
  intro hwf w h
  injection h with h
  subst h
  exact decode_of (by rw [cell_0d _ (s7_5_5_15_f0 ..)]; simp [-BitVec.reduceAppend, decodeSltiu, s7_5_5_15_f1, s7_5_5_15_f2, s7_5_5_15_f3]) hwf

theorem shli (d : BitVec 5) (a : BitVec 5) (s : BitVec 6) : Statement (.shli d a s) := by
  intro hwf w h
  injection h with h
  subst h
  exact decode_of (by rw [cell_0e _ (s7_5_5_9_6_f0 ..)]; simp [-BitVec.reduceAppend, decodeShi, s7_5_5_9_6_f3, s7_5_5_9_6_f1, s7_5_5_9_6_f2, s7_5_5_9_6_f4]) hwf

theorem shri (d : BitVec 5) (a : BitVec 5) (s : BitVec 6) : Statement (.shri d a s) := by
  intro hwf w h
  injection h with h
  subst h
  exact decode_of (by rw [cell_0e _ (s7_5_5_9_6_f0 ..)]; simp [-BitVec.reduceAppend, decodeShi, s7_5_5_9_6_f3, s7_5_5_9_6_f1, s7_5_5_9_6_f2, s7_5_5_9_6_f4]) hwf

theorem srai (d : BitVec 5) (a : BitVec 5) (s : BitVec 6) : Statement (.srai d a s) := by
  intro hwf w h
  injection h with h
  subst h
  exact decode_of (by rw [cell_0e _ (s7_5_5_9_6_f0 ..)]; simp [-BitVec.reduceAppend, decodeShi, s7_5_5_9_6_f3, s7_5_5_9_6_f1, s7_5_5_9_6_f2, s7_5_5_9_6_f4]) hwf

theorem lih (d : BitVec 5) (a : BitVec 5) (i : BitVec 15) : Statement (.lih d a i) := by
  intro hwf w h
  injection h with h
  subst h
  exact decode_of (by rw [cell_0f _ (s7_5_5_15_f0 ..)]; simp [-BitVec.reduceAppend, decodeLih, s7_5_5_15_f1, s7_5_5_15_f2, s7_5_5_15_f3]) hwf

theorem ldB (d : BitVec 5) (a : BitVec 5) (i : BitVec 15) : Statement (.ldB d a i) := by
  intro hwf w h
  injection h with h
  subst h
  exact decode_of (by rw [cell_10 _ (s7_5_5_15_f0 ..)]; simp [-BitVec.reduceAppend, decodeLdB, s7_5_5_15_f1, s7_5_5_15_f2, s7_5_5_15_f3]) hwf

theorem ldH (d : BitVec 5) (a : BitVec 5) (i : BitVec 15) : Statement (.ldH d a i) := by
  intro hwf w h
  injection h with h
  subst h
  exact decode_of (by rw [cell_11 _ (s7_5_5_15_f0 ..)]; simp [-BitVec.reduceAppend, decodeLdH, s7_5_5_15_f1, s7_5_5_15_f2, s7_5_5_15_f3]) hwf

theorem ldW (d : BitVec 5) (a : BitVec 5) (i : BitVec 15) : Statement (.ldW d a i) := by
  intro hwf w h
  injection h with h
  subst h
  exact decode_of (by rw [cell_12 _ (s7_5_5_15_f0 ..)]; simp [-BitVec.reduceAppend, decodeLdW, s7_5_5_15_f1, s7_5_5_15_f2, s7_5_5_15_f3]) hwf

theorem ldD (d : BitVec 5) (a : BitVec 5) (i : BitVec 15) : Statement (.ldD d a i) := by
  intro hwf w h
  injection h with h
  subst h
  exact decode_of (by rw [cell_13 _ (s7_5_5_15_f0 ..)]; simp [-BitVec.reduceAppend, decodeLdD, s7_5_5_15_f1, s7_5_5_15_f2, s7_5_5_15_f3]) hwf

theorem ldzB (d : BitVec 5) (a : BitVec 5) (i : BitVec 15) : Statement (.ldzB d a i) := by
  intro hwf w h
  injection h with h
  subst h
  exact decode_of (by rw [cell_14 _ (s7_5_5_15_f0 ..)]; simp [-BitVec.reduceAppend, decodeLdzB, s7_5_5_15_f1, s7_5_5_15_f2, s7_5_5_15_f3]) hwf

theorem ldzH (d : BitVec 5) (a : BitVec 5) (i : BitVec 15) : Statement (.ldzH d a i) := by
  intro hwf w h
  injection h with h
  subst h
  exact decode_of (by rw [cell_15 _ (s7_5_5_15_f0 ..)]; simp [-BitVec.reduceAppend, decodeLdzH, s7_5_5_15_f1, s7_5_5_15_f2, s7_5_5_15_f3]) hwf

theorem ldzW (d : BitVec 5) (a : BitVec 5) (i : BitVec 15) : Statement (.ldzW d a i) := by
  intro hwf w h
  injection h with h
  subst h
  exact decode_of (by rw [cell_16 _ (s7_5_5_15_f0 ..)]; simp [-BitVec.reduceAppend, decodeLdzW, s7_5_5_15_f1, s7_5_5_15_f2, s7_5_5_15_f3]) hwf

theorem ldx (d : BitVec 5) (a : BitVec 5) (i : BitVec 15) : Statement (.ldx d a i) := by
  intro hwf w h
  injection h with h
  subst h
  exact decode_of (by rw [cell_17 _ (s7_5_5_15_f0 ..)]; simp [-BitVec.reduceAppend, decodeLdx, s7_5_5_15_f1, s7_5_5_15_f2, s7_5_5_15_f3]) hwf

theorem stB (v : BitVec 5) (a : BitVec 5) (i : BitVec 15) : Statement (.stB v a i) := by
  intro hwf w h
  injection h with h
  subst h
  exact decode_of (by rw [cell_18 _ (s7_5_5_15_f0 ..)]; simp [-BitVec.reduceAppend, decodeStB, s7_5_5_15_f1, s7_5_5_15_f2, s7_5_5_15_f3]) hwf

theorem stH (v : BitVec 5) (a : BitVec 5) (i : BitVec 15) : Statement (.stH v a i) := by
  intro hwf w h
  injection h with h
  subst h
  exact decode_of (by rw [cell_19 _ (s7_5_5_15_f0 ..)]; simp [-BitVec.reduceAppend, decodeStH, s7_5_5_15_f1, s7_5_5_15_f2, s7_5_5_15_f3]) hwf

theorem stW (v : BitVec 5) (a : BitVec 5) (i : BitVec 15) : Statement (.stW v a i) := by
  intro hwf w h
  injection h with h
  subst h
  exact decode_of (by rw [cell_1a _ (s7_5_5_15_f0 ..)]; simp [-BitVec.reduceAppend, decodeStW, s7_5_5_15_f1, s7_5_5_15_f2, s7_5_5_15_f3]) hwf

theorem stD (v : BitVec 5) (a : BitVec 5) (i : BitVec 15) : Statement (.stD v a i) := by
  intro hwf w h
  injection h with h
  subst h
  exact decode_of (by rw [cell_1b _ (s7_5_5_15_f0 ..)]; simp [-BitVec.reduceAppend, decodeStD, s7_5_5_15_f1, s7_5_5_15_f2, s7_5_5_15_f3]) hwf

theorem ldbB (d : BitVec 5) (a : BitVec 5) (b : BitVec 5) : Statement (.ldbB d a b) := by
  intro hwf w h
  injection h with h
  subst h
  exact decode_of (by rw [cell_1c _ (s7_5_5_5_10_f0 ..)]; simp [-BitVec.reduceAppend, decodeLdb, s7_5_5_5_10_f4, s7_5_5_5_10_f1, s7_5_5_5_10_f2, s7_5_5_5_10_f3]) hwf

theorem ldbH (d : BitVec 5) (a : BitVec 5) (b : BitVec 5) : Statement (.ldbH d a b) := by
  intro hwf w h
  injection h with h
  subst h
  exact decode_of (by rw [cell_1c _ (s7_5_5_5_10_f0 ..)]; simp [-BitVec.reduceAppend, decodeLdb, s7_5_5_5_10_f4, s7_5_5_5_10_f1, s7_5_5_5_10_f2, s7_5_5_5_10_f3]) hwf

theorem ldbW (d : BitVec 5) (a : BitVec 5) (b : BitVec 5) : Statement (.ldbW d a b) := by
  intro hwf w h
  injection h with h
  subst h
  exact decode_of (by rw [cell_1c _ (s7_5_5_5_10_f0 ..)]; simp [-BitVec.reduceAppend, decodeLdb, s7_5_5_5_10_f4, s7_5_5_5_10_f1, s7_5_5_5_10_f2, s7_5_5_5_10_f3]) hwf

theorem ldbD (d : BitVec 5) (a : BitVec 5) (b : BitVec 5) : Statement (.ldbD d a b) := by
  intro hwf w h
  injection h with h
  subst h
  exact decode_of (by rw [cell_1c _ (s7_5_5_5_10_f0 ..)]; simp [-BitVec.reduceAppend, decodeLdb, s7_5_5_5_10_f4, s7_5_5_5_10_f1, s7_5_5_5_10_f2, s7_5_5_5_10_f3]) hwf

theorem ldbzB (d : BitVec 5) (a : BitVec 5) (b : BitVec 5) : Statement (.ldbzB d a b) := by
  intro hwf w h
  injection h with h
  subst h
  exact decode_of (by rw [cell_1c _ (s7_5_5_5_10_f0 ..)]; simp [-BitVec.reduceAppend, decodeLdb, s7_5_5_5_10_f4, s7_5_5_5_10_f1, s7_5_5_5_10_f2, s7_5_5_5_10_f3]) hwf

theorem ldbzH (d : BitVec 5) (a : BitVec 5) (b : BitVec 5) : Statement (.ldbzH d a b) := by
  intro hwf w h
  injection h with h
  subst h
  exact decode_of (by rw [cell_1c _ (s7_5_5_5_10_f0 ..)]; simp [-BitVec.reduceAppend, decodeLdb, s7_5_5_5_10_f4, s7_5_5_5_10_f1, s7_5_5_5_10_f2, s7_5_5_5_10_f3]) hwf

theorem ldbzW (d : BitVec 5) (a : BitVec 5) (b : BitVec 5) : Statement (.ldbzW d a b) := by
  intro hwf w h
  injection h with h
  subst h
  exact decode_of (by rw [cell_1c _ (s7_5_5_5_10_f0 ..)]; simp [-BitVec.reduceAppend, decodeLdb, s7_5_5_5_10_f4, s7_5_5_5_10_f1, s7_5_5_5_10_f2, s7_5_5_5_10_f3]) hwf

theorem amoadd (d : BitVec 5) (a : BitVec 5) (b : BitVec 5) (z : BitVec 1) : Statement (.amoadd d a b z) := by
  intro hwf w h
  injection h with h
  subst h
  exact decode_of (by rw [cell_1d _ (s7_5_5_5_5_1_4_f0 ..)]; simp [-BitVec.reduceAppend, decodeAmo, s7_5_5_5_5_1_4_f4, s7_5_5_5_5_1_4_f6, s7_5_5_5_5_1_4_f1, s7_5_5_5_5_1_4_f2, s7_5_5_5_5_1_4_f3, s7_5_5_5_5_1_4_f5]) hwf

theorem amoand (d : BitVec 5) (a : BitVec 5) (b : BitVec 5) (z : BitVec 1) : Statement (.amoand d a b z) := by
  intro hwf w h
  injection h with h
  subst h
  exact decode_of (by rw [cell_1d _ (s7_5_5_5_5_1_4_f0 ..)]; simp [-BitVec.reduceAppend, decodeAmo, s7_5_5_5_5_1_4_f6, s7_5_5_5_5_1_4_f4, s7_5_5_5_5_1_4_f1, s7_5_5_5_5_1_4_f2, s7_5_5_5_5_1_4_f3, s7_5_5_5_5_1_4_f5]) hwf

theorem amoor (d : BitVec 5) (a : BitVec 5) (b : BitVec 5) (z : BitVec 1) : Statement (.amoor d a b z) := by
  intro hwf w h
  injection h with h
  subst h
  exact decode_of (by rw [cell_1d _ (s7_5_5_5_5_1_4_f0 ..)]; simp [-BitVec.reduceAppend, decodeAmo, s7_5_5_5_5_1_4_f6, s7_5_5_5_5_1_4_f4, s7_5_5_5_5_1_4_f1, s7_5_5_5_5_1_4_f2, s7_5_5_5_5_1_4_f3, s7_5_5_5_5_1_4_f5]) hwf

theorem amoxor (d : BitVec 5) (a : BitVec 5) (b : BitVec 5) (z : BitVec 1) : Statement (.amoxor d a b z) := by
  intro hwf w h
  injection h with h
  subst h
  exact decode_of (by rw [cell_1d _ (s7_5_5_5_5_1_4_f0 ..)]; simp [-BitVec.reduceAppend, decodeAmo, s7_5_5_5_5_1_4_f6, s7_5_5_5_5_1_4_f4, s7_5_5_5_5_1_4_f1, s7_5_5_5_5_1_4_f2, s7_5_5_5_5_1_4_f3, s7_5_5_5_5_1_4_f5]) hwf

theorem amomin (d : BitVec 5) (a : BitVec 5) (b : BitVec 5) (z : BitVec 1) : Statement (.amomin d a b z) := by
  intro hwf w h
  injection h with h
  subst h
  exact decode_of (by rw [cell_1d _ (s7_5_5_5_5_1_4_f0 ..)]; simp [-BitVec.reduceAppend, decodeAmo, s7_5_5_5_5_1_4_f6, s7_5_5_5_5_1_4_f4, s7_5_5_5_5_1_4_f1, s7_5_5_5_5_1_4_f2, s7_5_5_5_5_1_4_f3, s7_5_5_5_5_1_4_f5]) hwf

theorem amomax (d : BitVec 5) (a : BitVec 5) (b : BitVec 5) (z : BitVec 1) : Statement (.amomax d a b z) := by
  intro hwf w h
  injection h with h
  subst h
  exact decode_of (by rw [cell_1d _ (s7_5_5_5_5_1_4_f0 ..)]; simp [-BitVec.reduceAppend, decodeAmo, s7_5_5_5_5_1_4_f6, s7_5_5_5_5_1_4_f4, s7_5_5_5_5_1_4_f1, s7_5_5_5_5_1_4_f2, s7_5_5_5_5_1_4_f3, s7_5_5_5_5_1_4_f5]) hwf

theorem amominu (d : BitVec 5) (a : BitVec 5) (b : BitVec 5) (z : BitVec 1) : Statement (.amominu d a b z) := by
  intro hwf w h
  injection h with h
  subst h
  exact decode_of (by rw [cell_1d _ (s7_5_5_5_5_1_4_f0 ..)]; simp [-BitVec.reduceAppend, decodeAmo, s7_5_5_5_5_1_4_f6, s7_5_5_5_5_1_4_f4, s7_5_5_5_5_1_4_f1, s7_5_5_5_5_1_4_f2, s7_5_5_5_5_1_4_f3, s7_5_5_5_5_1_4_f5]) hwf

theorem amomaxu (d : BitVec 5) (a : BitVec 5) (b : BitVec 5) (z : BitVec 1) : Statement (.amomaxu d a b z) := by
  intro hwf w h
  injection h with h
  subst h
  exact decode_of (by rw [cell_1d _ (s7_5_5_5_5_1_4_f0 ..)]; simp [-BitVec.reduceAppend, decodeAmo, s7_5_5_5_5_1_4_f6, s7_5_5_5_5_1_4_f4, s7_5_5_5_5_1_4_f1, s7_5_5_5_5_1_4_f2, s7_5_5_5_5_1_4_f3, s7_5_5_5_5_1_4_f5]) hwf

theorem amoswp (d : BitVec 5) (a : BitVec 5) (b : BitVec 5) (z : BitVec 1) : Statement (.amoswp d a b z) := by
  intro hwf w h
  injection h with h
  subst h
  exact decode_of (by rw [cell_1d _ (s7_5_5_5_5_1_4_f0 ..)]; simp [-BitVec.reduceAppend, decodeAmo, s7_5_5_5_5_1_4_f6, s7_5_5_5_5_1_4_f4, s7_5_5_5_5_1_4_f1, s7_5_5_5_5_1_4_f2, s7_5_5_5_5_1_4_f3, s7_5_5_5_5_1_4_f5]) hwf

theorem join (d : BitVec 5) (a : BitVec 5) : Statement (.join d a) := by
  intro hwf w h
  injection h with h
  have hn : (29#7 ++ d ++ a ++ 58#15 : BitVec 32).toNat = 973078528 + d.toNat * 1048576 + a.toNat * 32768 + 58 := by
    simp only [append_toNat, BitVec.toNat_ofNat, Nat.reducePow, Nat.reduceMod]; omega
  have := d.isLt
  have := a.isLt
  have f0 : fld (29#7 ++ d ++ a ++ 58#15 : BitVec 32) 0 4 = 10#4 := fld_eq (by rw [hn]; rw [BitVec.toNat_ofNat]; omega)
  subst h
  exact decode_of (by rw [cell_1d _ (s7_5_5_15_f0 ..)]; simp [-BitVec.reduceAppend, decodeAmo, s7_5_5_15_f3, s7_5_5_15_f1, s7_5_5_15_f2, f0]) hwf

theorem cas (d : BitVec 5) (a : BitVec 5) (b : BitVec 5) (z : BitVec 1) : Statement (.cas d a b z) := by
  intro hwf w h
  injection h with h
  subst h
  exact decode_of (by rw [cell_1e _ (s7_5_5_5_9_1_f0 ..)]; simp [-BitVec.reduceAppend, decodeCas, s7_5_5_5_9_1_f4, s7_5_5_5_9_1_f1, s7_5_5_5_9_1_f2, s7_5_5_5_9_1_f3, s7_5_5_5_9_1_f5]) hwf

theorem beq (a : BitVec 5) (b : BitVec 5) (i : BitVec 15) : Statement (.beq a b i) := by
  intro hwf w h
  injection h with h
  subst h
  exact decode_of (by rw [cell_20 _ (s7_5_5_15_f0 ..)]; simp [-BitVec.reduceAppend, decodeBeq, s7_5_5_15_f1, s7_5_5_15_f2, s7_5_5_15_f3]) hwf

theorem bne (a : BitVec 5) (b : BitVec 5) (i : BitVec 15) : Statement (.bne a b i) := by
  intro hwf w h
  injection h with h
  subst h
  exact decode_of (by rw [cell_21 _ (s7_5_5_15_f0 ..)]; simp [-BitVec.reduceAppend, decodeBne, s7_5_5_15_f1, s7_5_5_15_f2, s7_5_5_15_f3]) hwf

theorem blt (a : BitVec 5) (b : BitVec 5) (i : BitVec 15) : Statement (.blt a b i) := by
  intro hwf w h
  injection h with h
  subst h
  exact decode_of (by rw [cell_22 _ (s7_5_5_15_f0 ..)]; simp [-BitVec.reduceAppend, decodeBlt, s7_5_5_15_f1, s7_5_5_15_f2, s7_5_5_15_f3]) hwf

theorem bge (a : BitVec 5) (b : BitVec 5) (i : BitVec 15) : Statement (.bge a b i) := by
  intro hwf w h
  injection h with h
  subst h
  exact decode_of (by rw [cell_23 _ (s7_5_5_15_f0 ..)]; simp [-BitVec.reduceAppend, decodeBge, s7_5_5_15_f1, s7_5_5_15_f2, s7_5_5_15_f3]) hwf

theorem bltu (a : BitVec 5) (b : BitVec 5) (i : BitVec 15) : Statement (.bltu a b i) := by
  intro hwf w h
  injection h with h
  subst h
  exact decode_of (by rw [cell_24 _ (s7_5_5_15_f0 ..)]; simp [-BitVec.reduceAppend, decodeBltu, s7_5_5_15_f1, s7_5_5_15_f2, s7_5_5_15_f3]) hwf

theorem bgeu (a : BitVec 5) (b : BitVec 5) (i : BitVec 15) : Statement (.bgeu a b i) := by
  intro hwf w h
  injection h with h
  subst h
  exact decode_of (by rw [cell_25 _ (s7_5_5_15_f0 ..)]; simp [-BitVec.reduceAppend, decodeBgeu, s7_5_5_15_f1, s7_5_5_15_f2, s7_5_5_15_f3]) hwf

theorem j (i : BitVec 25) : Statement (.j i) := by
  intro hwf w h
  injection h with h
  subst h
  exact decode_of (by rw [cell_26 _ (s7_25_f0 ..)]; simp [-BitVec.reduceAppend, decodeJ, s7_25_f1]) hwf

theorem jal (i : BitVec 25) : Statement (.jal i) := by
  intro hwf w h
  injection h with h
  subst h
  exact decode_of (by rw [cell_27 _ (s7_25_f0 ..)]; simp [-BitVec.reduceAppend, decodeJal, s7_25_f1]) hwf

theorem jr (a : BitVec 5) : Statement (.jr a) := by
  intro hwf w h
  injection h with h
  subst h
  exact decode_of (by rw [cell_28 _ (s7_5_5_15_f0 ..)]; simp [-BitVec.reduceAppend, decodeJumpreg, s7_5_5_15_f1, s7_5_5_15_f3, s7_5_5_15_f2]) hwf

theorem callr (a : BitVec 5) : Statement (.callr a) := by
  intro hwf w h
  injection h with h
  subst h
  exact decode_of (by rw [cell_28 _ (s7_5_5_15_f0 ..)]; simp [-BitVec.reduceAppend, decodeJumpreg, s7_5_5_15_f3, s7_5_5_15_f1, s7_5_5_15_f2]) hwf

theorem callat (d : BitVec 5) (a : BitVec 5) (b : BitVec 5) : Statement (.callat d a b) := by
  intro hwf w h
  injection h with h
  subst h
  exact decode_of (by rw [cell_29 _ (s7_5_5_5_10_f0 ..)]; simp [-BitVec.reduceAppend, decodeCallat, s7_5_5_5_10_f4, s7_5_5_5_10_f1, s7_5_5_5_10_f2, s7_5_5_5_10_f3]) hwf

theorem reply (a : BitVec 5) (b : BitVec 5) : Statement (.reply a b) := by
  intro hwf w h
  injection h with h
  subst h
  exact decode_of (by rw [cell_29 _ (s7_5_5_5_10_f0 ..)]; simp [-BitVec.reduceAppend, decodeCallat, s7_5_5_5_10_f4, s7_5_5_5_10_f1, s7_5_5_5_10_f2, s7_5_5_5_10_f3]) hwf

theorem waitr (d : BitVec 5) (a : BitVec 5) : Statement (.waitr d a) := by
  intro hwf w h
  injection h with h
  subst h
  exact decode_of (by rw [cell_2a _ (s7_5_5_15_f0 ..)]; simp [-BitVec.reduceAppend, decodeWait, s7_5_5_15_f3, s7_5_5_15_f1, s7_5_5_15_f2]) hwf

theorem waite (a : BitVec 4) : Statement (.waite a) := by
  intro hwf w h
  injection h with h
  have hn : (42#7 ++ 0#6 ++ a ++ 3#15 : BitVec 32).toNat = 1409286144 + a.toNat * 32768 + 3 := by
    simp only [append_toNat, BitVec.toNat_ofNat, Nat.reducePow, Nat.reduceMod]; omega
  have := a.isLt
  have f0 : fld (42#7 ++ 0#6 ++ a ++ 3#15 : BitVec 32) 0 25 ≠ 2#25 := fld_ne (by rw [hn]; rw [BitVec.toNat_ofNat]; omega)
  subst h
  exact decode_of (by rw [cell_2a _ (s7_6_4_15_f0 ..)]; simp [-BitVec.reduceAppend, decodeWait, s7_6_4_15_f3, s7_6_4_15_f1, s7_6_4_15_f2, f0]) hwf

theorem waiteFill (a : BitVec 5) : Statement (.waiteFill a) := by
  intro hwf w h
  injection h with h
  have hn : (42#7 ++ 0#5 ++ a ++ 4#15 : BitVec 32).toNat = 1409286144 + a.toNat * 32768 + 4 := by
    simp only [append_toNat, BitVec.toNat_ofNat, Nat.reducePow, Nat.reduceMod]; omega
  have := a.isLt
  have f0 : fld (42#7 ++ 0#5 ++ a ++ 4#15 : BitVec 32) 0 25 ≠ 2#25 := fld_ne (by rw [hn]; rw [BitVec.toNat_ofNat]; omega)
  subst h
  exact decode_of (by rw [cell_2a _ (s7_5_5_15_f0 ..)]; simp [-BitVec.reduceAppend, decodeWait, s7_5_5_15_f3, s7_5_5_15_f1, s7_5_5_15_f2, f0]) hwf

theorem waiteFree (a : BitVec 5) : Statement (.waiteFree a) := by
  intro hwf w h
  injection h with h
  have hn : (42#7 ++ 0#5 ++ a ++ 5#15 : BitVec 32).toNat = 1409286144 + a.toNat * 32768 + 5 := by
    simp only [append_toNat, BitVec.toNat_ofNat, Nat.reducePow, Nat.reduceMod]; omega
  have := a.isLt
  have f0 : fld (42#7 ++ 0#5 ++ a ++ 5#15 : BitVec 32) 0 25 ≠ 2#25 := fld_ne (by rw [hn]; rw [BitVec.toNat_ofNat]; omega)
  subst h
  exact decode_of (by rw [cell_2a _ (s7_5_5_15_f0 ..)]; simp [-BitVec.reduceAppend, decodeWait, s7_5_5_15_f3, s7_5_5_15_f1, s7_5_5_15_f2, f0]) hwf

theorem enq (d : BitVec 5) (a : BitVec 5) (b : BitVec 5) : Statement (.enq d a b) := by
  intro hwf w h
  injection h with h
  subst h
  exact decode_of (by rw [cell_2b _ (s7_5_5_5_10_f0 ..)]; simp [-BitVec.reduceAppend, decodeQueue, s7_5_5_5_10_f4, s7_5_5_5_10_f1, s7_5_5_5_10_f2, s7_5_5_5_10_f3]) hwf

theorem deq (d : BitVec 5) (a : BitVec 5) (b : BitVec 5) : Statement (.deq d a b) := by
  intro hwf w h
  injection h with h
  subst h
  exact decode_of (by rw [cell_2b _ (s7_5_5_5_10_f0 ..)]; simp [-BitVec.reduceAppend, decodeQueue, s7_5_5_5_10_f4, s7_5_5_5_10_f1, s7_5_5_5_10_f2, s7_5_5_5_10_f3]) hwf

theorem deqt (d : BitVec 5) (a : BitVec 5) (b : BitVec 5) : Statement (.deqt d a b) := by
  intro hwf w h
  injection h with h
  subst h
  exact decode_of (by rw [cell_2b _ (s7_5_5_5_10_f0 ..)]; simp [-BitVec.reduceAppend, decodeQueue, s7_5_5_5_10_f4, s7_5_5_5_10_f1, s7_5_5_5_10_f2, s7_5_5_5_10_f3]) hwf

theorem send (d : BitVec 5) (a : BitVec 5) (b : BitVec 5) (e : BitVec 2) : Statement (.send d a b e) := by
  intro hwf w h
  injection h with h
  subst h
  exact decode_of (by rw [cell_2c _ (s7_5_5_5_8_2_f0 ..)]; simp [-BitVec.reduceAppend, decodeSend, s7_5_5_5_8_2_f4, s7_5_5_5_8_2_f1, s7_5_5_5_8_2_f2, s7_5_5_5_8_2_f3, s7_5_5_5_8_2_f5]) hwf

theorem rpub (d : BitVec 5) (a : BitVec 5) : Statement (.rpub d a) := by
  intro hwf w h
  injection h with h
  subst h
  exact decode_of (by rw [cell_2d _ (s7_5_5_15_f0 ..)]; simp [-BitVec.reduceAppend, decodeRound, s7_5_5_15_f3, s7_5_5_15_f1, s7_5_5_15_f2]) hwf

theorem racq (d : BitVec 5) (a : BitVec 5) : Statement (.racq d a) := by
  intro hwf w h
  injection h with h
  subst h
  exact decode_of (by rw [cell_2d _ (s7_5_5_15_f0 ..)]; simp [-BitVec.reduceAppend, decodeRound, s7_5_5_15_f3, s7_5_5_15_f1, s7_5_5_15_f2]) hwf

theorem rfloor (a : BitVec 5) (b : BitVec 5) : Statement (.rfloor a b) := by
  intro hwf w h
  injection h with h
  have hn : (45#7 ++ 0#5 ++ a ++ b ++ 3#10 : BitVec 32).toNat = 1509949440 + a.toNat * 32768 + b.toNat * 1024 + 3 := by
    simp only [append_toNat, BitVec.toNat_ofNat, Nat.reducePow, Nat.reduceMod]; omega
  have := a.isLt
  have := b.isLt
  have f0 : fld (45#7 ++ 0#5 ++ a ++ b ++ 3#10 : BitVec 32) 0 15 ≠ 1#15 := fld_ne (by rw [hn]; rw [BitVec.toNat_ofNat]; omega)
  have f1 : fld (45#7 ++ 0#5 ++ a ++ b ++ 3#10 : BitVec 32) 0 15 ≠ 2#15 := fld_ne (by rw [hn]; rw [BitVec.toNat_ofNat]; omega)
  subst h
  exact decode_of (by rw [cell_2d _ (s7_5_5_5_10_f0 ..)]; simp [-BitVec.reduceAppend, decodeRound, s7_5_5_5_10_f1, s7_5_5_5_10_f4, s7_5_5_5_10_f2, s7_5_5_5_10_f3, f0, f1]) hwf

theorem rsub (d : BitVec 5) (a : BitVec 5) : Statement (.rsub d a) := by
  intro hwf w h
  injection h with h
  have hn : (45#7 ++ d ++ a ++ 4#15 : BitVec 32).toNat = 1509949440 + d.toNat * 1048576 + a.toNat * 32768 + 4 := by
    simp only [append_toNat, BitVec.toNat_ofNat, Nat.reducePow, Nat.reduceMod]; omega
  have := d.isLt
  have := a.isLt
  have f0 : fld (45#7 ++ d ++ a ++ 4#15 : BitVec 32) 0 10 = 4#10 := fld_eq (by rw [hn]; rw [BitVec.toNat_ofNat]; omega)
  subst h
  exact decode_of (by rw [cell_2d _ (s7_5_5_15_f0 ..)]; simp [-BitVec.reduceAppend, decodeRound, s7_5_5_15_f3, s7_5_5_15_f1, s7_5_5_15_f2, f0]) hwf

theorem rfloorClr (a : BitVec 5) : Statement (.rfloorClr a) := by
  intro hwf w h
  injection h with h
  have hn : (45#7 ++ 0#5 ++ a ++ 5#15 : BitVec 32).toNat = 1509949440 + a.toNat * 32768 + 5 := by
    simp only [append_toNat, BitVec.toNat_ofNat, Nat.reducePow, Nat.reduceMod]; omega
  have := a.isLt
  have f0 : fld (45#7 ++ 0#5 ++ a ++ 5#15 : BitVec 32) 0 10 = 5#10 := fld_eq (by rw [hn]; rw [BitVec.toNat_ofNat]; omega)
  subst h
  exact decode_of (by rw [cell_2d _ (s7_5_5_15_f0 ..)]; simp [-BitVec.reduceAppend, decodeRound, s7_5_5_15_f3, s7_5_5_15_f1, s7_5_5_15_f2, f0]) hwf

theorem binit (a : BitVec 4) (b : BitVec 5) : Statement (.binit a b) := by
  intro hwf w h
  injection h with h
  subst h
  exact decode_of (by rw [cell_2e _ (s7_6_4_5_10_f0 ..)]; simp [-BitVec.reduceAppend, decodeBarrier, s7_6_4_5_10_f1, s7_6_4_5_10_f4, s7_6_4_5_10_f2, s7_6_4_5_10_f3]) hwf

theorem barr (a : BitVec 4) : Statement (.barr a) := by
  intro hwf w h
  injection h with h
  have hn : (46#7 ++ 0#6 ++ a ++ 2#15 : BitVec 32).toNat = 1543503872 + a.toNat * 32768 + 2 := by
    simp only [append_toNat, BitVec.toNat_ofNat, Nat.reducePow, Nat.reduceMod]; omega
  have := a.isLt
  have f0 : fld (46#7 ++ 0#6 ++ a ++ 2#15 : BitVec 32) 0 10 = 2#10 := fld_eq (by rw [hn]; rw [BitVec.toNat_ofNat]; omega)
  subst h
  exact decode_of (by rw [cell_2e _ (s7_6_4_15_f0 ..)]; simp [-BitVec.reduceAppend, decodeBarrier, s7_6_4_15_f1, s7_6_4_15_f3, s7_6_4_15_f2, f0]) hwf

theorem bexp (a : BitVec 4) (b : BitVec 5) : Statement (.bexp a b) := by
  intro hwf w h
  injection h with h
  have hn : (46#7 ++ 0#6 ++ a ++ b ++ 3#10 : BitVec 32).toNat = 1543503872 + a.toNat * 32768 + b.toNat * 1024 + 3 := by
    simp only [append_toNat, BitVec.toNat_ofNat, Nat.reducePow, Nat.reduceMod]; omega
  have := a.isLt
  have := b.isLt
  have f0 : fld (46#7 ++ 0#6 ++ a ++ b ++ 3#10 : BitVec 32) 0 15 ≠ 2#15 := fld_ne (by rw [hn]; rw [BitVec.toNat_ofNat]; omega)
  subst h
  exact decode_of (by rw [cell_2e _ (s7_6_4_5_10_f0 ..)]; simp [-BitVec.reduceAppend, decodeBarrier, s7_6_4_5_10_f4, s7_6_4_5_10_f1, s7_6_4_5_10_f2, s7_6_4_5_10_f3, f0]) hwf

theorem bwait (d : BitVec 5) (a : BitVec 4) (b : BitVec 5) : Statement (.bwait d a b) := by
  intro hwf w h
  injection h with h
  have hn : (46#7 ++ d ++ 0#1 ++ a ++ b ++ 4#10 : BitVec 32).toNat = 1543503872 + d.toNat * 1048576 + a.toNat * 32768 + b.toNat * 1024 + 4 := by
    simp only [append_toNat, BitVec.toNat_ofNat, Nat.reducePow, Nat.reduceMod]; omega
  have := d.isLt
  have := a.isLt
  have := b.isLt
  have f0 : fld (46#7 ++ d ++ 0#1 ++ a ++ b ++ 4#10 : BitVec 32) 0 15 ≠ 2#15 := fld_ne (by rw [hn]; rw [BitVec.toNat_ofNat]; omega)
  subst h
  exact decode_of (by rw [cell_2e _ (s7_5_1_4_5_10_f0 ..)]; simp [-BitVec.reduceAppend, decodeBarrier, s7_5_1_4_5_10_f5, s7_5_1_4_5_10_f2, s7_5_1_4_5_10_f1, s7_5_1_4_5_10_f3, s7_5_1_4_5_10_f4, f0]) hwf

theorem btest (d : BitVec 5) (a : BitVec 4) : Statement (.btest d a) := by
  intro hwf w h
  injection h with h
  have hn : (46#7 ++ d ++ 0#1 ++ a ++ 5#15 : BitVec 32).toNat = 1543503872 + d.toNat * 1048576 + a.toNat * 32768 + 5 := by
    simp only [append_toNat, BitVec.toNat_ofNat, Nat.reducePow, Nat.reduceMod]; omega
  have := d.isLt
  have := a.isLt
  have f0 : fld (46#7 ++ d ++ 0#1 ++ a ++ 5#15 : BitVec 32) 0 10 = 5#10 := fld_eq (by rw [hn]; rw [BitVec.toNat_ofNat]; omega)
  subst h
  exact decode_of (by rw [cell_2e _ (s7_5_1_4_15_f0 ..)]; simp [-BitVec.reduceAppend, decodeBarrier, s7_5_1_4_15_f4, s7_5_1_4_15_f2, s7_5_1_4_15_f1, s7_5_1_4_15_f3, f0]) hwf

theorem bhset (d : BitVec 4) (a : BitVec 5) : Statement (.bhset d a) := by
  intro hwf w h
  injection h with h
  have hn : (46#7 ++ 0#1 ++ d ++ a ++ 6#15 : BitVec 32).toNat = 1543503872 + d.toNat * 1048576 + a.toNat * 32768 + 6 := by
    simp only [append_toNat, BitVec.toNat_ofNat, Nat.reducePow, Nat.reduceMod]; omega
  have := d.isLt
  have := a.isLt
  have f0 : fld (46#7 ++ 0#1 ++ d ++ a ++ 6#15 : BitVec 32) 0 10 = 6#10 := fld_eq (by rw [hn]; rw [BitVec.toNat_ofNat]; omega)
  subst h
  exact decode_of (by rw [cell_2e _ (s7_1_4_5_15_f0 ..)]; simp [-BitVec.reduceAppend, decodeBarrier, s7_1_4_5_15_f4, s7_1_4_5_15_f1, s7_1_4_5_15_f2, s7_1_4_5_15_f3, f0]) hwf

theorem bsni (a : BitVec 5) (b : BitVec 5) : Statement (.bsni a b) := by
  intro hwf w h
  injection h with h
  subst h
  exact decode_of (by rw [cell_2f _ (s7_5_5_5_10_f0 ..)]; simp [-BitVec.reduceAppend, decodeBasin, s7_5_5_5_10_f1, s7_5_5_5_10_f4, s7_5_5_5_10_f2, s7_5_5_5_10_f3]) hwf

theorem bsnp (d : BitVec 5) (a : BitVec 5) : Statement (.bsnp d a) := by
  intro hwf w h
  injection h with h
  have hn : (47#7 ++ d ++ a ++ 2#15 : BitVec 32).toNat = 1577058304 + d.toNat * 1048576 + a.toNat * 32768 + 2 := by
    simp only [append_toNat, BitVec.toNat_ofNat, Nat.reducePow, Nat.reduceMod]; omega
  have := d.isLt
  have := a.isLt
  have f0 : fld (47#7 ++ d ++ a ++ 2#15 : BitVec 32) 0 10 = 2#10 := fld_eq (by rw [hn]; rw [BitVec.toNat_ofNat]; omega)
  subst h
  exact decode_of (by rw [cell_2f _ (s7_5_5_15_f0 ..)]; simp [-BitVec.reduceAppend, decodeBasin, s7_5_5_15_f3, s7_5_5_15_f1, s7_5_5_15_f2, f0]) hwf

theorem bsnc (a : BitVec 5) : Statement (.bsnc a) := by
  intro hwf w h
  injection h with h
  have hn : (47#7 ++ 0#5 ++ a ++ 3#15 : BitVec 32).toNat = 1577058304 + a.toNat * 32768 + 3 := by
    simp only [append_toNat, BitVec.toNat_ofNat, Nat.reducePow, Nat.reduceMod]; omega
  have := a.isLt
  have f0 : fld (47#7 ++ 0#5 ++ a ++ 3#15 : BitVec 32) 0 10 = 3#10 := fld_eq (by rw [hn]; rw [BitVec.toNat_ofNat]; omega)
  subst h
  exact decode_of (by rw [cell_2f _ (s7_5_5_15_f0 ..)]; simp [-BitVec.reduceAppend, decodeBasin, s7_5_5_15_f3, s7_5_5_15_f1, s7_5_5_15_f2, f0]) hwf

theorem bsng (d : BitVec 5) (a : BitVec 5) : Statement (.bsng d a) := by
  intro hwf w h
  injection h with h
  have hn : (47#7 ++ d ++ a ++ 4#15 : BitVec 32).toNat = 1577058304 + d.toNat * 1048576 + a.toNat * 32768 + 4 := by
    simp only [append_toNat, BitVec.toNat_ofNat, Nat.reducePow, Nat.reduceMod]; omega
  have := d.isLt
  have := a.isLt
  have f0 : fld (47#7 ++ d ++ a ++ 4#15 : BitVec 32) 0 10 = 4#10 := fld_eq (by rw [hn]; rw [BitVec.toNat_ofNat]; omega)
  subst h
  exact decode_of (by rw [cell_2f _ (s7_5_5_15_f0 ..)]; simp [-BitVec.reduceAppend, decodeBasin, s7_5_5_15_f3, s7_5_5_15_f1, s7_5_5_15_f2, f0]) hwf

theorem bsnf (a : BitVec 5) : Statement (.bsnf a) := by
  intro hwf w h
  injection h with h
  have hn : (47#7 ++ 0#5 ++ a ++ 5#15 : BitVec 32).toNat = 1577058304 + a.toNat * 32768 + 5 := by
    simp only [append_toNat, BitVec.toNat_ofNat, Nat.reducePow, Nat.reduceMod]; omega
  have := a.isLt
  have f0 : fld (47#7 ++ 0#5 ++ a ++ 5#15 : BitVec 32) 0 10 = 5#10 := fld_eq (by rw [hn]; rw [BitVec.toNat_ofNat]; omega)
  subst h
  exact decode_of (by rw [cell_2f _ (s7_5_5_15_f0 ..)]; simp [-BitVec.reduceAppend, decodeBasin, s7_5_5_15_f3, s7_5_5_15_f1, s7_5_5_15_f2, f0]) hwf

theorem tdef (d : BitVec 4) (a : BitVec 5) (b : BitVec 5) : Statement (.tdef d a b) := by
  intro hwf w h
  injection h with h
  subst h
  exact decode_of (by rw [cell_30 _ (s7_1_4_5_5_10_f0 ..)]; simp [-BitVec.reduceAppend, decodeTdesc, s7_1_4_5_5_10_f1, s7_1_4_5_5_10_f5, s7_1_4_5_5_10_f2, s7_1_4_5_5_10_f3, s7_1_4_5_5_10_f4]) hwf

theorem tldd (d : BitVec 4) (a : BitVec 5) : Statement (.tldd d a) := by
  intro hwf w h
  injection h with h
  have hn : (48#7 ++ 0#1 ++ d ++ a ++ 2#15 : BitVec 32).toNat = 1610612736 + d.toNat * 1048576 + a.toNat * 32768 + 2 := by
    simp only [append_toNat, BitVec.toNat_ofNat, Nat.reducePow, Nat.reduceMod]; omega
  have := d.isLt
  have := a.isLt
  have f0 : fld (48#7 ++ 0#1 ++ d ++ a ++ 2#15 : BitVec 32) 0 10 = 2#10 := fld_eq (by rw [hn]; rw [BitVec.toNat_ofNat]; omega)
  subst h
  exact decode_of (by rw [cell_30 _ (s7_1_4_5_15_f0 ..)]; simp [-BitVec.reduceAppend, decodeTdesc, s7_1_4_5_15_f1, s7_1_4_5_15_f4, s7_1_4_5_15_f2, s7_1_4_5_15_f3, f0]) hwf

theorem tstd (a : BitVec 5) (b : BitVec 4) : Statement (.tstd a b) := by
  intro hwf w h
  injection h with h
  have hn : (48#7 ++ 0#5 ++ a ++ 0#1 ++ b ++ 3#10 : BitVec 32).toNat = 1610612736 + a.toNat * 32768 + b.toNat * 1024 + 3 := by
    simp only [append_toNat, BitVec.toNat_ofNat, Nat.reducePow, Nat.reduceMod]; omega
  have := a.isLt
  have := b.isLt
  have f0 : fld (48#7 ++ 0#5 ++ a ++ 0#1 ++ b ++ 3#10 : BitVec 32) 0 15 ≠ 2#15 := fld_ne (by rw [hn]; rw [BitVec.toNat_ofNat]; omega)
  subst h
  exact decode_of (by rw [cell_30 _ (s7_5_5_1_4_10_f0 ..)]; simp [-BitVec.reduceAppend, decodeTdesc, s7_5_5_1_4_10_f5, s7_5_5_1_4_10_f1, s7_5_5_1_4_10_f3, s7_5_5_1_4_10_f2, s7_5_5_1_4_10_f4, f0]) hwf

theorem text (d : BitVec 4) (a : BitVec 4) (b : BitVec 5) : Statement (.text d a b) := by
  intro hwf w h
  injection h with h
  have hn : (48#7 ++ 0#1 ++ d ++ 0#1 ++ a ++ b ++ 4#10 : BitVec 32).toNat = 1610612736 + d.toNat * 1048576 + a.toNat * 32768 + b.toNat * 1024 + 4 := by
    simp only [append_toNat, BitVec.toNat_ofNat, Nat.reducePow, Nat.reduceMod]; omega
  have := d.isLt
  have := a.isLt
  have := b.isLt
  have f0 : fld (48#7 ++ 0#1 ++ d ++ 0#1 ++ a ++ b ++ 4#10 : BitVec 32) 0 15 ≠ 2#15 := fld_ne (by rw [hn]; rw [BitVec.toNat_ofNat]; omega)
  subst h
  exact decode_of (by rw [cell_30 _ (s7_1_4_1_4_5_10_f0 ..)]; simp [-BitVec.reduceAppend, decodeTdesc, s7_1_4_1_4_5_10_f6, s7_1_4_1_4_5_10_f1, s7_1_4_1_4_5_10_f3, s7_1_4_1_4_5_10_f2, s7_1_4_1_4_5_10_f4, s7_1_4_1_4_5_10_f5, f0]) hwf

theorem tsub (d : BitVec 4) (a : BitVec 4) (k : BitVec 3) (p : BitVec 14) : Statement (.tsub d a k p) := by
  intro hwf w h
  injection h with h
  subst h
  exact decode_of (by rw [cell_31 _ (s7_4_4_3_14_f0 ..)]; simp [-BitVec.reduceAppend, decodeTsub, s7_4_4_3_14_f1, s7_4_4_3_14_f2, s7_4_4_3_14_f3, s7_4_4_3_14_f4]) hwf

theorem tsubr (d : BitVec 4) (a : BitVec 4) (b : BitVec 5) : Statement (.tsubr d a b) := by
  intro hwf w h
  injection h with h
  subst h
  exact decode_of (by rw [cell_32 _ (s7_1_4_1_4_5_10_f0 ..)]; simp [-BitVec.reduceAppend, decodeTsubr, s7_1_4_1_4_5_10_f1, s7_1_4_1_4_5_10_f3, s7_1_4_1_4_5_10_f6, s7_1_4_1_4_5_10_f2, s7_1_4_1_4_5_10_f4, s7_1_4_1_4_5_10_f5]) hwf

theorem bcopy (d : BitVec 4) (a : BitVec 4) (hh : BitVec 4) : Statement (.bcopy d a hh) := by
  intro hwf w h
  injection h with h
  subst h
  exact decode_of (by rw [cell_38 _ (s7_4_4_4_4_9_f0 ..)]; simp [-BitVec.reduceAppend, decodeBcopy, s7_4_4_4_4_9_f3, s7_4_4_4_4_9_f5, s7_4_4_4_4_9_f1, s7_4_4_4_4_9_f2, s7_4_4_4_4_9_f4]) hwf

theorem bcopyBnd (d : BitVec 4) (a : BitVec 4) (hh : BitVec 4) (k : BitVec 7) : Statement (.bcopyBnd d a hh k) := by
  intro hwf w h
  injection h with h
  have hn : (56#7 ++ d ++ a ++ 0#4 ++ hh ++ 1#2 ++ k : BitVec 32).toNat = 1879048192 + d.toNat * 2097152 + a.toNat * 131072 + hh.toNat * 512 + 128 + k.toNat := by
    simp only [append_toNat, BitVec.toNat_ofNat, Nat.reducePow, Nat.reduceMod]; omega
  have := d.isLt
  have := a.isLt
  have := hh.isLt
  have := k.isLt
  have f0 : fld (56#7 ++ d ++ a ++ 0#4 ++ hh ++ 1#2 ++ k : BitVec 32) 0 9 ≠ 0#9 := fld_ne (by rw [hn]; rw [BitVec.toNat_ofNat]; omega)
  subst h
  exact decode_of (by rw [cell_38 _ (s7_4_4_4_4_2_7_f0 ..)]; simp [-BitVec.reduceAppend, decodeBcopy, s7_4_4_4_4_2_7_f3, s7_4_4_4_4_2_7_f5, s7_4_4_4_4_2_7_f1, s7_4_4_4_4_2_7_f2, s7_4_4_4_4_2_7_f4, s7_4_4_4_4_2_7_f6, f0]) hwf

theorem bcopyBsn (d : BitVec 4) (a : BitVec 4) (hh : BitVec 4) (n : BitVec 6) : Statement (.bcopyBsn d a hh n) := by
  intro hwf w h
  injection h with h
  have hn : (56#7 ++ d ++ a ++ 0#4 ++ hh ++ 4#3 ++ n : BitVec 32).toNat = 1879048192 + d.toNat * 2097152 + a.toNat * 131072 + hh.toNat * 512 + 256 + n.toNat := by
    simp only [append_toNat, BitVec.toNat_ofNat, Nat.reducePow, Nat.reduceMod]; omega
  have := d.isLt
  have := a.isLt
  have := hh.isLt
  have := n.isLt
  have f0 : fld (56#7 ++ d ++ a ++ 0#4 ++ hh ++ 4#3 ++ n : BitVec 32) 0 9 ≠ 0#9 := fld_ne (by rw [hn]; rw [BitVec.toNat_ofNat]; omega)
  have f1 : fld (56#7 ++ d ++ a ++ 0#4 ++ hh ++ 4#3 ++ n : BitVec 32) 7 2 = 2#2 := fld_eq (by rw [hn]; rw [BitVec.toNat_ofNat]; omega)
  subst h
  exact decode_of (by rw [cell_38 _ (s7_4_4_4_4_3_6_f0 ..)]; simp [-BitVec.reduceAppend, decodeBcopy, s7_4_4_4_4_3_6_f3, s7_4_4_4_4_3_6_f5, s7_4_4_4_4_3_6_f1, s7_4_4_4_4_3_6_f2, s7_4_4_4_4_3_6_f4, s7_4_4_4_4_3_6_f6, f0, f1]) hwf

theorem bfill (d : BitVec 4) (hh : BitVec 4) (v : BitVec 8) : Statement (.bfill d hh v) := by
  intro hwf w h
  injection h with h
  subst h
  exact decode_of (by rw [cell_39 _ (s7_4_8_4_1_8_f0 ..)]; simp [-BitVec.reduceAppend, decodeBfill, s7_4_8_4_1_8_f2, s7_4_8_4_1_8_f4, s7_4_8_4_1_8_f1, s7_4_8_4_1_8_f3, s7_4_8_4_1_8_f5]) hwf

theorem bgath (d : BitVec 4) (a : BitVec 4) (c : BitVec 4) (hh : BitVec 4) : Statement (.bgath d a c hh) := by
  intro hwf w h
  injection h with h
  subst h
  exact decode_of (by rw [cell_3a _ (s7_4_4_4_4_9_f0 ..)]; simp [-BitVec.reduceAppend, decodeBgath, s7_4_4_4_4_9_f5, s7_4_4_4_4_9_f1, s7_4_4_4_4_9_f2, s7_4_4_4_4_9_f3, s7_4_4_4_4_9_f4]) hwf

theorem bscat (d : BitVec 4) (a : BitVec 4) (c : BitVec 4) (hh : BitVec 4) : Statement (.bscat d a c hh) := by
  intro hwf w h
  injection h with h
  subst h
  exact decode_of (by rw [cell_3b _ (s7_4_4_4_4_9_f0 ..)]; simp [-BitVec.reduceAppend, decodeBscat, s7_4_4_4_4_9_f5, s7_4_4_4_4_9_f1, s7_4_4_4_4_9_f2, s7_4_4_4_4_9_f3, s7_4_4_4_4_9_f4]) hwf

theorem bpref (d : BitVec 4) (hh : BitVec 4) : Statement (.bpref d hh) := by
  intro hwf w h
  injection h with h
  subst h
  exact decode_of (by rw [cell_3c _ (s7_4_8_4_9_f0 ..)]; simp [-BitVec.reduceAppend, decodeResidency, s7_4_8_4_9_f2, s7_4_8_4_9_f4, s7_4_8_4_9_f1, s7_4_8_4_9_f3]) hwf

theorem bres (d : BitVec 4) (hh : BitVec 4) (c : BitVec 3) : Statement (.bres d hh c) := by
  intro hwf w h
  injection h with h
  have hn : (60#7 ++ d ++ 0#8 ++ hh ++ 16#6 ++ c : BitVec 32).toNat = 2013265920 + d.toNat * 2097152 + hh.toNat * 512 + 128 + c.toNat := by
    simp only [append_toNat, BitVec.toNat_ofNat, Nat.reducePow, Nat.reduceMod]; omega
  have := d.isLt
  have := hh.isLt
  have := c.isLt
  have f0 : fld (60#7 ++ d ++ 0#8 ++ hh ++ 16#6 ++ c : BitVec 32) 0 9 ≠ 64#9 := fld_ne (by rw [hn]; rw [BitVec.toNat_ofNat]; omega)
  subst h
  exact decode_of (by rw [cell_3c _ (s7_4_8_4_6_3_f0 ..)]; simp [-BitVec.reduceAppend, decodeResidency, s7_4_8_4_6_3_f2, s7_4_8_4_6_3_f4, s7_4_8_4_6_3_f1, s7_4_8_4_6_3_f3, s7_4_8_4_6_3_f5, f0]) hwf

theorem bevict (d : BitVec 4) (hh : BitVec 4) : Statement (.bevict d hh) := by
  intro hwf w h
  injection h with h
  have hn : (60#7 ++ d ++ 0#8 ++ hh ++ 192#9 : BitVec 32).toNat = 2013265920 + d.toNat * 2097152 + hh.toNat * 512 + 192 := by
    simp only [append_toNat, BitVec.toNat_ofNat, Nat.reducePow, Nat.reduceMod]; omega
  have := d.isLt
  have := hh.isLt
  have f0 : fld (60#7 ++ d ++ 0#8 ++ hh ++ 192#9 : BitVec 32) 3 6 = 24#6 := fld_eq (by rw [hn]; rw [BitVec.toNat_ofNat]; omega)
  subst h
  exact decode_of (by rw [cell_3c _ (s7_4_8_4_9_f0 ..)]; simp [-BitVec.reduceAppend, decodeResidency, s7_4_8_4_9_f4, s7_4_8_4_9_f2, s7_4_8_4_9_f1, s7_4_8_4_9_f3, f0]) hwf

theorem bdemote (d : BitVec 4) (hh : BitVec 4) : Statement (.bdemote d hh) := by
  intro hwf w h
  injection h with h
  have hn : (60#7 ++ d ++ 0#8 ++ hh ++ 256#9 : BitVec 32).toNat = 2013265920 + d.toNat * 2097152 + hh.toNat * 512 + 256 := by
    simp only [append_toNat, BitVec.toNat_ofNat, Nat.reducePow, Nat.reduceMod]; omega
  have := d.isLt
  have := hh.isLt
  have f0 : fld (60#7 ++ d ++ 0#8 ++ hh ++ 256#9 : BitVec 32) 3 6 = 32#6 := fld_eq (by rw [hn]; rw [BitVec.toNat_ofNat]; omega)
  subst h
  exact decode_of (by rw [cell_3c _ (s7_4_8_4_9_f0 ..)]; simp [-BitVec.reduceAppend, decodeResidency, s7_4_8_4_9_f4, s7_4_8_4_9_f2, s7_4_8_4_9_f1, s7_4_8_4_9_f3, f0]) hwf

theorem bown (d : BitVec 4) (hh : BitVec 4) : Statement (.bown d hh) := by
  intro hwf w h
  injection h with h
  subst h
  exact decode_of (by rw [cell_3d _ (s7_4_8_4_9_f0 ..)]; simp [-BitVec.reduceAppend, decodeOwnership, s7_4_8_4_9_f2, s7_4_8_4_9_f4, s7_4_8_4_9_f1, s7_4_8_4_9_f3]) hwf

theorem brel (d : BitVec 4) (hh : BitVec 4) : Statement (.brel d hh) := by
  intro hwf w h
  injection h with h
  subst h
  exact decode_of (by rw [cell_3d _ (s7_4_8_4_9_f0 ..)]; simp [-BitVec.reduceAppend, decodeOwnership, s7_4_8_4_9_f4, s7_4_8_4_9_f2, s7_4_8_4_9_f1, s7_4_8_4_9_f3]) hwf

theorem mxst (a : BitVec 4) (hh : BitVec 4) (u : BitVec 1) : Statement (.mxst a hh u) := by
  intro hwf w h
  injection h with h
  subst h
  exact decode_of (by rw [cell_40 _ (s7_4_4_4_4_8_1_f0 ..)]; simp [-BitVec.reduceAppend, decodeMxst, s7_4_4_4_4_8_1_f1, s7_4_4_4_4_8_1_f3, s7_4_4_4_4_8_1_f5, s7_4_4_4_4_8_1_f2, s7_4_4_4_4_8_1_f4, s7_4_4_4_4_8_1_f6]) hwf

theorem mxma (d : BitVec 4) (a : BitVec 4) (hh : BitVec 4) (u : BitVec 1) : Statement (.mxma d a hh u) := by
  intro hwf w h
  injection h with h
  subst h
  exact decode_of (by rw [cell_41 _ (s7_4_4_4_4_8_1_f0 ..)]; simp [-BitVec.reduceAppend, decodeMxma, s7_4_4_4_4_8_1_f3, s7_4_4_4_4_8_1_f5, s7_4_4_4_4_8_1_f1, s7_4_4_4_4_8_1_f2, s7_4_4_4_4_8_1_f4, s7_4_4_4_4_8_1_f6]) hwf

theorem mxmas (d : BitVec 4) (a : BitVec 4) (hh : BitVec 4) (r : BitVec 2) (u : BitVec 1) : Statement (.mxmas d a hh r u) := by
  intro hwf w h
  injection h with h
  subst h
  exact decode_of (by rw [cell_42 _ (s7_4_4_4_4_6_2_1_f0 ..)]; simp [-BitVec.reduceAppend, decodeMxmas, s7_4_4_4_4_6_2_1_f3, s7_4_4_4_4_6_2_1_f5, s7_4_4_4_4_6_2_1_f1, s7_4_4_4_4_6_2_1_f2, s7_4_4_4_4_6_2_1_f4, s7_4_4_4_4_6_2_1_f6, s7_4_4_4_4_6_2_1_f7]) hwf

theorem vadd (d : BitVec 4) (a : BitVec 4) (c : BitVec 4) (hh : BitVec 4) : Statement (.vadd d a c hh) := by
  intro hwf w h
  injection h with h
  subst h
  exact decode_of (by rw [cell_48 _ (s7_4_4_4_4_9_f0 ..)]; simp [-BitVec.reduceAppend, decodeVarith, s7_4_4_4_4_9_f5, s7_4_4_4_4_9_f1, s7_4_4_4_4_9_f2, s7_4_4_4_4_9_f3, s7_4_4_4_4_9_f4]) hwf

theorem vsub (d : BitVec 4) (a : BitVec 4) (c : BitVec 4) (hh : BitVec 4) : Statement (.vsub d a c hh) := by
  intro hwf w h
  injection h with h
  subst h
  exact decode_of (by rw [cell_48 _ (s7_4_4_4_4_9_f0 ..)]; simp [-BitVec.reduceAppend, decodeVarith, s7_4_4_4_4_9_f5, s7_4_4_4_4_9_f1, s7_4_4_4_4_9_f2, s7_4_4_4_4_9_f3, s7_4_4_4_4_9_f4]) hwf

theorem vmul (d : BitVec 4) (a : BitVec 4) (c : BitVec 4) (hh : BitVec 4) : Statement (.vmul d a c hh) := by
  intro hwf w h
  injection h with h
  subst h
  exact decode_of (by rw [cell_48 _ (s7_4_4_4_4_9_f0 ..)]; simp [-BitVec.reduceAppend, decodeVarith, s7_4_4_4_4_9_f5, s7_4_4_4_4_9_f1, s7_4_4_4_4_9_f2, s7_4_4_4_4_9_f3, s7_4_4_4_4_9_f4]) hwf

theorem vfma (d : BitVec 4) (a : BitVec 4) (c : BitVec 4) (hh : BitVec 4) : Statement (.vfma d a c hh) := by
  intro hwf w h
  injection h with h
  subst h
  exact decode_of (by rw [cell_48 _ (s7_4_4_4_4_9_f0 ..)]; simp [-BitVec.reduceAppend, decodeVarith, s7_4_4_4_4_9_f5, s7_4_4_4_4_9_f1, s7_4_4_4_4_9_f2, s7_4_4_4_4_9_f3, s7_4_4_4_4_9_f4]) hwf

theorem vmin (d : BitVec 4) (a : BitVec 4) (c : BitVec 4) (hh : BitVec 4) : Statement (.vmin d a c hh) := by
  intro hwf w h
  injection h with h
  subst h
  exact decode_of (by rw [cell_48 _ (s7_4_4_4_4_9_f0 ..)]; simp [-BitVec.reduceAppend, decodeVarith, s7_4_4_4_4_9_f5, s7_4_4_4_4_9_f1, s7_4_4_4_4_9_f2, s7_4_4_4_4_9_f3, s7_4_4_4_4_9_f4]) hwf

theorem vmax (d : BitVec 4) (a : BitVec 4) (c : BitVec 4) (hh : BitVec 4) : Statement (.vmax d a c hh) := by
  intro hwf w h
  injection h with h
  subst h
  exact decode_of (by rw [cell_48 _ (s7_4_4_4_4_9_f0 ..)]; simp [-BitVec.reduceAppend, decodeVarith, s7_4_4_4_4_9_f5, s7_4_4_4_4_9_f1, s7_4_4_4_4_9_f2, s7_4_4_4_4_9_f3, s7_4_4_4_4_9_f4]) hwf

theorem vabs (d : BitVec 4) (a : BitVec 4) (hh : BitVec 4) : Statement (.vabs d a hh) := by
  intro hwf w h
  injection h with h
  subst h
  exact decode_of (by rw [cell_48 _ (s7_4_4_4_4_9_f0 ..)]; simp [-BitVec.reduceAppend, decodeVarith, s7_4_4_4_4_9_f5, s7_4_4_4_4_9_f3, s7_4_4_4_4_9_f1, s7_4_4_4_4_9_f2, s7_4_4_4_4_9_f4]) hwf

theorem vneg (d : BitVec 4) (a : BitVec 4) (hh : BitVec 4) : Statement (.vneg d a hh) := by
  intro hwf w h
  injection h with h
  subst h
  exact decode_of (by rw [cell_48 _ (s7_4_4_4_4_9_f0 ..)]; simp [-BitVec.reduceAppend, decodeVarith, s7_4_4_4_4_9_f5, s7_4_4_4_4_9_f3, s7_4_4_4_4_9_f1, s7_4_4_4_4_9_f2, s7_4_4_4_4_9_f4]) hwf

theorem vand (d : BitVec 4) (a : BitVec 4) (c : BitVec 4) (hh : BitVec 4) : Statement (.vand d a c hh) := by
  intro hwf w h
  injection h with h
  subst h
  exact decode_of (by rw [cell_49 _ (s7_4_4_4_4_9_f0 ..)]; simp [-BitVec.reduceAppend, decodeVlogic, s7_4_4_4_4_9_f5, s7_4_4_4_4_9_f1, s7_4_4_4_4_9_f2, s7_4_4_4_4_9_f3, s7_4_4_4_4_9_f4]) hwf

theorem vor (d : BitVec 4) (a : BitVec 4) (c : BitVec 4) (hh : BitVec 4) : Statement (.vor d a c hh) := by
  intro hwf w h
  injection h with h
  subst h
  exact decode_of (by rw [cell_49 _ (s7_4_4_4_4_9_f0 ..)]; simp [-BitVec.reduceAppend, decodeVlogic, s7_4_4_4_4_9_f5, s7_4_4_4_4_9_f1, s7_4_4_4_4_9_f2, s7_4_4_4_4_9_f3, s7_4_4_4_4_9_f4]) hwf

theorem vxor (d : BitVec 4) (a : BitVec 4) (c : BitVec 4) (hh : BitVec 4) : Statement (.vxor d a c hh) := by
  intro hwf w h
  injection h with h
  subst h
  exact decode_of (by rw [cell_49 _ (s7_4_4_4_4_9_f0 ..)]; simp [-BitVec.reduceAppend, decodeVlogic, s7_4_4_4_4_9_f5, s7_4_4_4_4_9_f1, s7_4_4_4_4_9_f2, s7_4_4_4_4_9_f3, s7_4_4_4_4_9_f4]) hwf

theorem vnot (d : BitVec 4) (a : BitVec 4) (hh : BitVec 4) : Statement (.vnot d a hh) := by
  intro hwf w h
  injection h with h
  subst h
  exact decode_of (by rw [cell_49 _ (s7_4_4_4_4_9_f0 ..)]; simp [-BitVec.reduceAppend, decodeVlogic, s7_4_4_4_4_9_f5, s7_4_4_4_4_9_f3, s7_4_4_4_4_9_f1, s7_4_4_4_4_9_f2, s7_4_4_4_4_9_f4]) hwf

theorem vshl (d : BitVec 4) (a : BitVec 4) (c : BitVec 4) (hh : BitVec 4) : Statement (.vshl d a c hh) := by
  intro hwf w h
  injection h with h
  subst h
  exact decode_of (by rw [cell_49 _ (s7_4_4_4_4_9_f0 ..)]; simp [-BitVec.reduceAppend, decodeVlogic, s7_4_4_4_4_9_f5, s7_4_4_4_4_9_f1, s7_4_4_4_4_9_f2, s7_4_4_4_4_9_f3, s7_4_4_4_4_9_f4]) hwf

theorem vshr (d : BitVec 4) (a : BitVec 4) (c : BitVec 4) (hh : BitVec 4) : Statement (.vshr d a c hh) := by
  intro hwf w h
  injection h with h
  subst h
  exact decode_of (by rw [cell_49 _ (s7_4_4_4_4_9_f0 ..)]; simp [-BitVec.reduceAppend, decodeVlogic, s7_4_4_4_4_9_f5, s7_4_4_4_4_9_f1, s7_4_4_4_4_9_f2, s7_4_4_4_4_9_f3, s7_4_4_4_4_9_f4]) hwf

theorem vcmp (d : BitVec 4) (a : BitVec 4) (c : BitVec 4) (hh : BitVec 4) (o : BitVec 3) : Statement (.vcmp d a c hh o) := by
  intro hwf w h
  injection h with h
  subst h
  exact decode_of (by rw [cell_4a _ (s7_4_4_4_4_2_3_4_f0 ..)]; simp [-BitVec.reduceAppend, decodeVcmpsel, s7_4_4_4_4_2_3_4_f5, s7_4_4_4_4_2_3_4_f7, s7_4_4_4_4_2_3_4_f1, s7_4_4_4_4_2_3_4_f2, s7_4_4_4_4_2_3_4_f3, s7_4_4_4_4_2_3_4_f4, s7_4_4_4_4_2_3_4_f6]) hwf

theorem vsel (d : BitVec 4) (a : BitVec 4) (c : BitVec 4) (hh : BitVec 4) : Statement (.vsel d a c hh) := by
  intro hwf w h
  injection h with h
  have hn : (74#7 ++ d ++ a ++ c ++ hh ++ 2#9 : BitVec 32).toNat = 2483027968 + d.toNat * 2097152 + a.toNat * 131072 + c.toNat * 8192 + hh.toNat * 512 + 2 := by
    simp only [append_toNat, BitVec.toNat_ofNat, Nat.reducePow, Nat.reduceMod]; omega
  have := d.isLt
  have := a.isLt
  have := c.isLt
  have := hh.isLt
  have f0 : fld (74#7 ++ d ++ a ++ c ++ hh ++ 2#9 : BitVec 32) 0 4 = 2#4 := fld_eq (by rw [hn]; rw [BitVec.toNat_ofNat]; omega)
  subst h
  exact decode_of (by rw [cell_4a _ (s7_4_4_4_4_9_f0 ..)]; simp [-BitVec.reduceAppend, decodeVcmpsel, s7_4_4_4_4_9_f5, s7_4_4_4_4_9_f1, s7_4_4_4_4_9_f2, s7_4_4_4_4_9_f3, s7_4_4_4_4_9_f4, f0]) hwf

theorem vcvt (d : BitVec 4) (a : BitVec 4) (hh : BitVec 4) (m : BitVec 2) : Statement (.vcvt d a hh m) := by
  intro hwf w h
  injection h with h
  subst h
  exact decode_of (by rw [cell_4b _ (s7_4_4_4_4_7_2_f0 ..)]; simp [-BitVec.reduceAppend, decodeVcvt, s7_4_4_4_4_7_2_f3, s7_4_4_4_4_7_2_f5, s7_4_4_4_4_7_2_f1, s7_4_4_4_4_7_2_f2, s7_4_4_4_4_7_2_f4, s7_4_4_4_4_7_2_f6]) hwf

theorem vexp2 (d : BitVec 4) (a : BitVec 4) (hh : BitVec 4) : Statement (.vexp2 d a hh) := by
  intro hwf w h
  injection h with h
  subst h
  exact decode_of (by rw [cell_4c _ (s7_4_4_4_4_9_f0 ..)]; simp [-BitVec.reduceAppend, decodeVfunc, s7_4_4_4_4_9_f3, s7_4_4_4_4_9_f5, s7_4_4_4_4_9_f1, s7_4_4_4_4_9_f2, s7_4_4_4_4_9_f4]) hwf

theorem vlog2 (d : BitVec 4) (a : BitVec 4) (hh : BitVec 4) : Statement (.vlog2 d a hh) := by
  intro hwf w h
  injection h with h
  subst h
  exact decode_of (by rw [cell_4c _ (s7_4_4_4_4_9_f0 ..)]; simp [-BitVec.reduceAppend, decodeVfunc, s7_4_4_4_4_9_f5, s7_4_4_4_4_9_f3, s7_4_4_4_4_9_f1, s7_4_4_4_4_9_f2, s7_4_4_4_4_9_f4]) hwf

theorem vrcp (d : BitVec 4) (a : BitVec 4) (hh : BitVec 4) : Statement (.vrcp d a hh) := by
  intro hwf w h
  injection h with h
  subst h
  exact decode_of (by rw [cell_4c _ (s7_4_4_4_4_9_f0 ..)]; simp [-BitVec.reduceAppend, decodeVfunc, s7_4_4_4_4_9_f5, s7_4_4_4_4_9_f3, s7_4_4_4_4_9_f1, s7_4_4_4_4_9_f2, s7_4_4_4_4_9_f4]) hwf

theorem vrsq (d : BitVec 4) (a : BitVec 4) (hh : BitVec 4) : Statement (.vrsq d a hh) := by
  intro hwf w h
  injection h with h
  subst h
  exact decode_of (by rw [cell_4c _ (s7_4_4_4_4_9_f0 ..)]; simp [-BitVec.reduceAppend, decodeVfunc, s7_4_4_4_4_9_f5, s7_4_4_4_4_9_f3, s7_4_4_4_4_9_f1, s7_4_4_4_4_9_f2, s7_4_4_4_4_9_f4]) hwf

theorem vtanh (d : BitVec 4) (a : BitVec 4) (hh : BitVec 4) : Statement (.vtanh d a hh) := by
  intro hwf w h
  injection h with h
  subst h
  exact decode_of (by rw [cell_4c _ (s7_4_4_4_4_9_f0 ..)]; simp [-BitVec.reduceAppend, decodeVfunc, s7_4_4_4_4_9_f5, s7_4_4_4_4_9_f3, s7_4_4_4_4_9_f1, s7_4_4_4_4_9_f2, s7_4_4_4_4_9_f4]) hwf

theorem vred (d : BitVec 4) (a : BitVec 4) (hh : BitVec 4) (r : BitVec 1) (o : BitVec 2) : Statement (.vred d a hh r o) := by
  intro hwf w h
  injection h with h
  subst h
  exact decode_of (by rw [cell_4d _ (s7_4_4_4_4_6_1_2_f0 ..)]; simp [-BitVec.reduceAppend, decodeVred, s7_4_4_4_4_6_1_2_f3, s7_4_4_4_4_6_1_2_f5, s7_4_4_4_4_6_1_2_f1, s7_4_4_4_4_6_1_2_f2, s7_4_4_4_4_6_1_2_f4, s7_4_4_4_4_6_1_2_f6, s7_4_4_4_4_6_1_2_f7]) hwf

theorem vscan (d : BitVec 4) (a : BitVec 4) (hh : BitVec 4) (r : BitVec 2) (o : BitVec 2) : Statement (.vscan d a hh r o) := by
  intro hwf w h
  injection h with h
  subst h
  exact decode_of (by rw [cell_4e _ (s7_4_4_4_4_5_2_2_f0 ..)]; simp [-BitVec.reduceAppend, decodeVscan, s7_4_4_4_4_5_2_2_f3, s7_4_4_4_4_5_2_2_f5, s7_4_4_4_4_5_2_2_f1, s7_4_4_4_4_5_2_2_f2, s7_4_4_4_4_5_2_2_f4, s7_4_4_4_4_5_2_2_f6, s7_4_4_4_4_5_2_2_f7]) hwf

theorem vtrn (d : BitVec 4) (a : BitVec 4) (hh : BitVec 4) : Statement (.vtrn d a hh) := by
  intro hwf w h
  injection h with h
  subst h
  exact decode_of (by rw [cell_4f _ (s7_4_4_4_4_9_f0 ..)]; simp [-BitVec.reduceAppend, decodeVperm, s7_4_4_4_4_9_f3, s7_4_4_4_4_9_f5, s7_4_4_4_4_9_f1, s7_4_4_4_4_9_f2, s7_4_4_4_4_9_f4]) hwf

theorem vbcst (d : BitVec 4) (a : BitVec 4) (hh : BitVec 4) (b : BitVec 2) : Statement (.vbcst d a hh b) := by
  intro hwf w h
  injection h with h
  have hn : (79#7 ++ d ++ a ++ 0#4 ++ hh ++ 0#3 ++ b ++ 2#4 : BitVec 32).toNat = 2650800128 + d.toNat * 2097152 + a.toNat * 131072 + hh.toNat * 512 + b.toNat * 16 + 2 := by
    simp only [append_toNat, BitVec.toNat_ofNat, Nat.reducePow, Nat.reduceMod]; omega
  have := d.isLt
  have := a.isLt
  have := hh.isLt
  have := b.isLt
  have f0 : fld (79#7 ++ d ++ a ++ 0#4 ++ hh ++ 0#3 ++ b ++ 2#4 : BitVec 32) 0 9 ≠ 1#9 := fld_ne (by rw [hn]; rw [BitVec.toNat_ofNat]; omega)
  subst h
  exact decode_of (by rw [cell_4f _ (s7_4_4_4_4_3_2_4_f0 ..)]; simp [-BitVec.reduceAppend, decodeVperm, s7_4_4_4_4_3_2_4_f3, s7_4_4_4_4_3_2_4_f5, s7_4_4_4_4_3_2_4_f7, s7_4_4_4_4_3_2_4_f1, s7_4_4_4_4_3_2_4_f2, s7_4_4_4_4_3_2_4_f4, s7_4_4_4_4_3_2_4_f6, f0]) hwf

theorem vgath (d : BitVec 4) (a : BitVec 4) (c : BitVec 4) (hh : BitVec 4) (m : BitVec 1) : Statement (.vgath d a c hh m) := by
  intro hwf w h
  injection h with h
  have hn : (79#7 ++ d ++ a ++ c ++ hh ++ 0#4 ++ m ++ 3#4 : BitVec 32).toNat = 2650800128 + d.toNat * 2097152 + a.toNat * 131072 + c.toNat * 8192 + hh.toNat * 512 + m.toNat * 16 + 3 := by
    simp only [append_toNat, BitVec.toNat_ofNat, Nat.reducePow, Nat.reduceMod]; omega
  have := d.isLt
  have := a.isLt
  have := c.isLt
  have := hh.isLt
  have := m.isLt
  have f0 : fld (79#7 ++ d ++ a ++ c ++ hh ++ 0#4 ++ m ++ 3#4 : BitVec 32) 0 9 ≠ 1#9 := fld_ne (by rw [hn]; rw [BitVec.toNat_ofNat]; omega)
  subst h
  exact decode_of (by rw [cell_4f _ (s7_4_4_4_4_4_1_4_f0 ..)]; simp [-BitVec.reduceAppend, decodeVperm, s7_4_4_4_4_4_1_4_f7, s7_4_4_4_4_4_1_4_f5, s7_4_4_4_4_4_1_4_f1, s7_4_4_4_4_4_1_4_f2, s7_4_4_4_4_4_1_4_f3, s7_4_4_4_4_4_1_4_f4, s7_4_4_4_4_4_1_4_f6, f0]) hwf

theorem vmov (d : BitVec 4) (a : BitVec 4) (hh : BitVec 4) : Statement (.vmov d a hh) := by
  intro hwf w h
  injection h with h
  have hn : (79#7 ++ d ++ a ++ 0#4 ++ hh ++ 4#9 : BitVec 32).toNat = 2650800128 + d.toNat * 2097152 + a.toNat * 131072 + hh.toNat * 512 + 4 := by
    simp only [append_toNat, BitVec.toNat_ofNat, Nat.reducePow, Nat.reduceMod]; omega
  have := d.isLt
  have := a.isLt
  have := hh.isLt
  have f0 : fld (79#7 ++ d ++ a ++ 0#4 ++ hh ++ 4#9 : BitVec 32) 0 4 = 4#4 := fld_eq (by rw [hn]; rw [BitVec.toNat_ofNat]; omega)
  subst h
  exact decode_of (by rw [cell_4f _ (s7_4_4_4_4_9_f0 ..)]; simp [-BitVec.reduceAppend, decodeVperm, s7_4_4_4_4_9_f5, s7_4_4_4_4_9_f3, s7_4_4_4_4_9_f1, s7_4_4_4_4_9_f2, s7_4_4_4_4_9_f4, f0]) hwf

theorem vgen (d : BitVec 4) (hh : BitVec 4) (p : BitVec 4) : Statement (.vgen d hh p) := by
  intro hwf w h
  injection h with h
  have hp : p ≠ 7#4 := by
    intro e; subst e; simp [Instr.wf] at hwf
  subst h
  exact decode_of (by rw [cell_50 _ (s7_4_8_4_5_4_f0 ..)]; simp [-BitVec.reduceAppend, decodeVgen, s7_4_8_4_5_4_f5, s7_4_8_4_5_4_f2, s7_4_8_4_5_4_f4, s7_4_8_4_5_4_f1, s7_4_8_4_5_4_f3, hp]) hwf

theorem vgenConst (d : BitVec 4) (hh : BitVec 4) (c : BitVec 5) : Statement (.vgenConst d hh c) := by
  intro hwf w h
  injection h with h
  subst h
  exact decode_of (by rw [cell_50 _ (s7_4_8_4_5_4_f0 ..)]; simp [-BitVec.reduceAppend, decodeVgen, s7_4_8_4_5_4_f2, s7_4_8_4_5_4_f5, s7_4_8_4_5_4_f1, s7_4_8_4_5_4_f3, s7_4_8_4_5_4_f4]) hwf

theorem cbld (a : BitVec 5) (b : BitVec 5) : Statement (.cbld a b) := by
  intro hwf w h
  injection h with h
  subst h
  exact decode_of (by rw [cell_58 _ (s7_5_5_5_10_f0 ..)]; simp [-BitVec.reduceAppend, decodeCbld, s7_5_5_5_10_f1, s7_5_5_5_10_f4, s7_5_5_5_10_f2, s7_5_5_5_10_f3]) hwf

theorem skset (a : BitVec 5) (b : BitVec 5) : Statement (.skset a b) := by
  intro hwf w h
  injection h with h
  subst h
  exact decode_of (by rw [cell_59 _ (s7_5_5_5_10_f0 ..)]; simp [-BitVec.reduceAppend, decodeSkset, s7_5_5_5_10_f1, s7_5_5_5_10_f4, s7_5_5_5_10_f2, s7_5_5_5_10_f3]) hwf

theorem xbsetCtr (d : BitVec 5) (a : BitVec 5) (b : BitVec 5) : Statement (.xbsetCtr d a b) := by
  intro hwf w h
  injection h with h
  subst h
  exact decode_of (by rw [cell_5a _ (s7_5_5_5_10_f0 ..)]; simp [-BitVec.reduceAppend, decodeXbset, s7_5_5_5_10_f4, s7_5_5_5_10_f1, s7_5_5_5_10_f2, s7_5_5_5_10_f3]) hwf

theorem xbsetTerm (d : BitVec 5) (a : BitVec 5) (b : BitVec 5) : Statement (.xbsetTerm d a b) := by
  intro hwf w h
  injection h with h
  subst h
  exact decode_of (by rw [cell_5a _ (s7_5_5_5_10_f0 ..)]; simp [-BitVec.reduceAppend, decodeXbset, s7_5_5_5_10_f4, s7_5_5_5_10_f1, s7_5_5_5_10_f2, s7_5_5_5_10_f3]) hwf

theorem xbsetStage (d : BitVec 5) (a : BitVec 5) (b : BitVec 5) : Statement (.xbsetStage d a b) := by
  intro hwf w h
  injection h with h
  subst h
  exact decode_of (by rw [cell_5a _ (s7_5_5_5_10_f0 ..)]; simp [-BitVec.reduceAppend, decodeXbset, s7_5_5_5_10_f4, s7_5_5_5_10_f1, s7_5_5_5_10_f2, s7_5_5_5_10_f3]) hwf

theorem xbarmOn (d : BitVec 5) (a : BitVec 5) : Statement (.xbarmOn d a) := by
  intro hwf w h
  injection h with h
  subst h
  exact decode_of (by rw [cell_5b _ (s7_5_5_15_f0 ..)]; simp [-BitVec.reduceAppend, decodeXbarm, s7_5_5_15_f3, s7_5_5_15_f1, s7_5_5_15_f2]) hwf

theorem xbarmOff (d : BitVec 5) (a : BitVec 5) : Statement (.xbarmOff d a) := by
  intro hwf w h
  injection h with h
  subst h
  exact decode_of (by rw [cell_5b _ (s7_5_5_15_f0 ..)]; simp [-BitVec.reduceAppend, decodeXbarm, s7_5_5_15_f3, s7_5_5_15_f1, s7_5_5_15_f2]) hwf

theorem ectlRd (d : BitVec 5) (a : BitVec 5) (b : BitVec 5) (e : BitVec 2) : Statement (.ectlRd d a b e) := by
  intro hwf w h
  injection h with h
  subst h
  exact decode_of (by rw [cell_5c _ (s7_5_5_5_8_2_f0 ..)]; simp [-BitVec.reduceAppend, decodeEctl, s7_5_5_5_8_2_f4, s7_5_5_5_8_2_f1, s7_5_5_5_8_2_f2, s7_5_5_5_8_2_f3, s7_5_5_5_8_2_f5]) hwf

theorem ectlRes (a : BitVec 5) (e : BitVec 2) : Statement (.ectlRes a e) := by
  intro hwf w h
  injection h with h
  have hn : (92#7 ++ 0#5 ++ a ++ 4#13 ++ e : BitVec 32).toNat = 3087007744 + a.toNat * 32768 + 16 + e.toNat := by
    simp only [append_toNat, BitVec.toNat_ofNat, Nat.reducePow, Nat.reduceMod]; omega
  have := a.isLt
  have := e.isLt
  have f0 : fld (92#7 ++ 0#5 ++ a ++ 4#13 ++ e : BitVec 32) 2 8 = 4#8 := fld_eq (by rw [hn]; rw [BitVec.toNat_ofNat]; omega)
  subst h
  exact decode_of (by rw [cell_5c _ (s7_5_5_13_2_f0 ..)]; simp [-BitVec.reduceAppend, decodeEctl, s7_5_5_13_2_f1, s7_5_5_13_2_f3, s7_5_5_13_2_f2, s7_5_5_13_2_f4, f0]) hwf

theorem ectlCan (a : BitVec 5) (e : BitVec 2) : Statement (.ectlCan a e) := by
  intro hwf w h
  injection h with h
  have hn : (92#7 ++ 0#5 ++ a ++ 6#13 ++ e : BitVec 32).toNat = 3087007744 + a.toNat * 32768 + 24 + e.toNat := by
    simp only [append_toNat, BitVec.toNat_ofNat, Nat.reducePow, Nat.reduceMod]; omega
  have := a.isLt
  have := e.isLt
  have f0 : fld (92#7 ++ 0#5 ++ a ++ 6#13 ++ e : BitVec 32) 2 8 = 6#8 := fld_eq (by rw [hn]; rw [BitVec.toNat_ofNat]; omega)
  subst h
  exact decode_of (by rw [cell_5c _ (s7_5_5_13_2_f0 ..)]; simp [-BitVec.reduceAppend, decodeEctl, s7_5_5_13_2_f3, s7_5_5_13_2_f1, s7_5_5_13_2_f2, s7_5_5_13_2_f4, f0]) hwf

theorem estat (d : BitVec 5) (e : BitVec 2) : Statement (.estat d e) := by
  intro hwf w h
  injection h with h
  subst h
  exact decode_of (by rw [cell_5d _ (s7_5_18_2_f0 ..)]; simp [-BitVec.reduceAppend, decodeEstat, s7_5_18_2_f2, s7_5_18_2_f1, s7_5_18_2_f3]) hwf

theorem trap (a : BitVec 5) : Statement (.trap a) := by
  intro hwf w h
  injection h with h
  subst h
  exact decode_of (by rw [cell_60 _ (s7_5_5_15_f0 ..)]; simp [-BitVec.reduceAppend, decodeSys, s7_5_5_15_f1, s7_5_5_15_f3, s7_5_5_15_f2]) hwf

theorem scall (a : BitVec 5) : Statement (.scall a) := by
  intro hwf w h
  injection h with h
  subst h
  exact decode_of (by rw [cell_60 _ (s7_5_5_15_f0 ..)]; simp [-BitVec.reduceAppend, decodeSys, s7_5_5_15_f3, s7_5_5_15_f1, s7_5_5_15_f2]) hwf

theorem resume (a : BitVec 5) : Statement (.resume a) := by
  intro hwf w h
  injection h with h
  have hn : (96#7 ++ 0#5 ++ a ++ 5#15 : BitVec 32).toNat = 3221225472 + a.toNat * 32768 + 5 := by
    simp only [append_toNat, BitVec.toNat_ofNat, Nat.reducePow, Nat.reduceMod]; omega
  have := a.isLt
  have f0 : fld (96#7 ++ 0#5 ++ a ++ 5#15 : BitVec 32) 0 25 ≠ 3#25 := fld_ne (by rw [hn]; rw [BitVec.toNat_ofNat]; omega)
  have f1 : fld (96#7 ++ 0#5 ++ a ++ 5#15 : BitVec 32) 0 25 ≠ 4#25 := fld_ne (by rw [hn]; rw [BitVec.toNat_ofNat]; omega)
  subst h
  exact decode_of (by rw [cell_60 _ (s7_5_5_15_f0 ..)]; simp [-BitVec.reduceAppend, decodeSys, s7_5_5_15_f3, s7_5_5_15_f1, s7_5_5_15_f2, f0, f1]) hwf

theorem park (a : BitVec 5) : Statement (.park a) := by
  intro hwf w h
  injection h with h
  have hn : (96#7 ++ 0#5 ++ a ++ 6#15 : BitVec 32).toNat = 3221225472 + a.toNat * 32768 + 6 := by
    simp only [append_toNat, BitVec.toNat_ofNat, Nat.reducePow, Nat.reduceMod]; omega
  have := a.isLt
  have f0 : fld (96#7 ++ 0#5 ++ a ++ 6#15 : BitVec 32) 0 25 ≠ 3#25 := fld_ne (by rw [hn]; rw [BitVec.toNat_ofNat]; omega)
  have f1 : fld (96#7 ++ 0#5 ++ a ++ 6#15 : BitVec 32) 0 25 ≠ 4#25 := fld_ne (by rw [hn]; rw [BitVec.toNat_ofNat]; omega)
  subst h
  exact decode_of (by rw [cell_60 _ (s7_5_5_15_f0 ..)]; simp [-BitVec.reduceAppend, decodeSys, s7_5_5_15_f3, s7_5_5_15_f1, s7_5_5_15_f2, f0, f1]) hwf

theorem crr (d : BitVec 5) (c : BitVec 10) : Statement (.crr d c) := by
  intro hwf w h
  injection h with h
  subst h
  exact decode_of (by rw [cell_61 _ (s7_5_10_10_f0 ..)]; simp [-BitVec.reduceAppend, decodeCracc, s7_5_10_10_f2, s7_5_10_10_f1, s7_5_10_10_f3]) hwf

theorem crw (d : BitVec 5) (a : BitVec 5) (c : BitVec 10) : Statement (.crw d a c) := by
  intro hwf w h
  injection h with h
  have hn : (97#7 ++ d ++ a ++ 2#5 ++ c : BitVec 32).toNat = 3254779904 + d.toNat * 1048576 + a.toNat * 32768 + 2048 + c.toNat := by
    simp only [append_toNat, BitVec.toNat_ofNat, Nat.reducePow, Nat.reduceMod]; omega
  have := d.isLt
  have := a.isLt
  have := c.isLt
  have f0 : fld (97#7 ++ d ++ a ++ 2#5 ++ c : BitVec 32) 10 10 ≠ 1#10 := fld_ne (by rw [hn]; rw [BitVec.toNat_ofNat]; omega)
  subst h
  exact decode_of (by rw [cell_61 _ (s7_5_5_5_10_f0 ..)]; simp [-BitVec.reduceAppend, decodeCracc, s7_5_5_5_10_f3, s7_5_5_5_10_f1, s7_5_5_5_10_f2, s7_5_5_5_10_f4, f0]) hwf

theorem ctxr (d : BitVec 5) (a : BitVec 5) (b : BitVec 5) : Statement (.ctxr d a b) := by
  intro hwf w h
  injection h with h
  subst h
  exact decode_of (by rw [cell_62 _ (s7_5_5_5_10_f0 ..)]; simp [-BitVec.reduceAppend, decodeContext, s7_5_5_5_10_f4, s7_5_5_5_10_f1, s7_5_5_5_10_f2, s7_5_5_5_10_f3]) hwf

theorem ctxw (d : BitVec 5) (a : BitVec 5) (b : BitVec 5) : Statement (.ctxw d a b) := by
  intro hwf w h
  injection h with h
  subst h
  exact decode_of (by rw [cell_62 _ (s7_5_5_5_10_f0 ..)]; simp [-BitVec.reduceAppend, decodeContext, s7_5_5_5_10_f4, s7_5_5_5_10_f1, s7_5_5_5_10_f2, s7_5_5_5_10_f3]) hwf

theorem spill (a : BitVec 5) : Statement (.spill a) := by
  intro hwf w h
  injection h with h
  have hn : (98#7 ++ 0#5 ++ a ++ 3#15 : BitVec 32).toNat = 3288334336 + a.toNat * 32768 + 3 := by
    simp only [append_toNat, BitVec.toNat_ofNat, Nat.reducePow, Nat.reduceMod]; omega
  have := a.isLt
  have f0 : fld (98#7 ++ 0#5 ++ a ++ 3#15 : BitVec 32) 0 10 = 3#10 := fld_eq (by rw [hn]; rw [BitVec.toNat_ofNat]; omega)
  subst h
  exact decode_of (by rw [cell_62 _ (s7_5_5_15_f0 ..)]; simp [-BitVec.reduceAppend, decodeContext, s7_5_5_15_f1, s7_5_5_15_f3, s7_5_5_15_f2, f0]) hwf

theorem fill (d : BitVec 5) (a : BitVec 5) (b : BitVec 5) : Statement (.fill d a b) := by
  intro hwf w h
  injection h with h
  have hn : (98#7 ++ d ++ a ++ b ++ 4#10 : BitVec 32).toNat = 3288334336 + d.toNat * 1048576 + a.toNat * 32768 + b.toNat * 1024 + 4 := by
    simp only [append_toNat, BitVec.toNat_ofNat, Nat.reducePow, Nat.reduceMod]; omega
  have := d.isLt
  have := a.isLt
  have := b.isLt
  have f0 : fld (98#7 ++ d ++ a ++ b ++ 4#10 : BitVec 32) 0 15 ≠ 3#15 := fld_ne (by rw [hn]; rw [BitVec.toNat_ofNat]; omega)
  subst h
  exact decode_of (by rw [cell_62 _ (s7_5_5_5_10_f0 ..)]; simp [-BitVec.reduceAppend, decodeContext, s7_5_5_5_10_f4, s7_5_5_5_10_f1, s7_5_5_5_10_f2, s7_5_5_5_10_f3, f0]) hwf

theorem kload (d : BitVec 5) (a : BitVec 5) (b : BitVec 5) : Statement (.kload d a b) := by
  intro hwf w h
  injection h with h
  subst h
  exact decode_of (by rw [cell_63 _ (s7_5_5_5_10_f0 ..)]; simp [-BitVec.reduceAppend, decodeKey, s7_5_5_5_10_f4, s7_5_5_5_10_f1, s7_5_5_5_10_f2, s7_5_5_5_10_f3]) hwf

theorem kder (d : BitVec 5) (a : BitVec 5) (b : BitVec 5) : Statement (.kder d a b) := by
  intro hwf w h
  injection h with h
  subst h
  exact decode_of (by rw [cell_63 _ (s7_5_5_5_10_f0 ..)]; simp [-BitVec.reduceAppend, decodeKey, s7_5_5_5_10_f4, s7_5_5_5_10_f1, s7_5_5_5_10_f2, s7_5_5_5_10_f3]) hwf

theorem krev (d : BitVec 5) (a : BitVec 5) : Statement (.krev d a) := by
  intro hwf w h
  injection h with h
  have hn : (99#7 ++ d ++ a ++ 3#15 : BitVec 32).toNat = 3321888768 + d.toNat * 1048576 + a.toNat * 32768 + 3 := by
    simp only [append_toNat, BitVec.toNat_ofNat, Nat.reducePow, Nat.reduceMod]; omega
  have := d.isLt
  have := a.isLt
  have f0 : fld (99#7 ++ d ++ a ++ 3#15 : BitVec 32) 0 10 = 3#10 := fld_eq (by rw [hn]; rw [BitVec.toNat_ofNat]; omega)
  subst h
  exact decode_of (by rw [cell_63 _ (s7_5_5_15_f0 ..)]; simp [-BitVec.reduceAppend, decodeKey, s7_5_5_15_f3, s7_5_5_15_f1, s7_5_5_15_f2, f0]) hwf

theorem japp (d : BitVec 5) (a : BitVec 5) (b : BitVec 5) : Statement (.japp d a b) := by
  intro hwf w h
  injection h with h
  subst h
  exact decode_of (by rw [cell_64 _ (s7_5_5_5_10_f0 ..)]; simp [-BitVec.reduceAppend, decodeJapp, s7_5_5_5_10_f4, s7_5_5_5_10_f1, s7_5_5_5_10_f2, s7_5_5_5_10_f3]) hwf

theorem immx (p : BitVec 25) : Statement (.immx p) := by
  intro hwf w h
  injection h with h
  subst h
  exact decode_of (by rw [cell_78 _ (s7_25_f0 ..)]; simp [-BitVec.reduceAppend, decodeImmx, s7_25_f1]) hwf

theorem rep (c : BitVec 6) (f : BitVec 4) : Statement (.rep c f) := by
  intro hwf w h
  injection h with h
  subst h
  exact decode_of (by rw [cell_79 _ (s7_6_15_4_f0 ..)]; simp [-BitVec.reduceAppend, decodeRep, s7_6_15_4_f2, s7_6_15_4_f1, s7_6_15_4_f3]) hwf

theorem hint (k : BitVec 3) (a : BitVec 22) : Statement (.hint k a) := by
  intro hwf w h
  injection h with h
  subst h
  exact decode_of (by rw [cell_7a _ (s7_3_22_f0 ..)]; simp [-BitVec.reduceAppend, decodeHint, s7_3_22_f1, s7_3_22_f2]) hwf

theorem memoryReply (core : Nat) (ctx : Nat) : Statement (.memoryReply core ctx) := by
  intro _ _ h; exact nomatch h

theorem wake (core : Nat) (ctx : Nat) : Statement (.wake core ctx) := by
  intro _ _ h; exact nomatch h

theorem windowSpill (core : Nat) (ctx : Nat) : Statement (.windowSpill core ctx) := by
  intro _ _ h; exact nomatch h

theorem contextSpill (core : Nat) : Statement (.contextSpill core) := by
  intro _ _ h; exact nomatch h

theorem engineAccept (core : Nat) (ctx : Nat) : Statement (.engineAccept core ctx) := by
  intro _ _ h; exact nomatch h

theorem bargeStart (core : Nat) (e : Nat) : Statement (.bargeStart core e) := by
  intro _ _ h; exact nomatch h

theorem bargeUnit (core : Nat) (e : Nat) : Statement (.bargeUnit core e) := by
  intro _ _ h; exact nomatch h

theorem bargeComplete (core : Nat) (e : Nat) : Statement (.bargeComplete core e) := by
  intro _ _ h; exact nomatch h

theorem basinSlotClaim (core : Nat) : Statement (.basinSlotClaim core) := by
  intro _ _ h; exact nomatch h

theorem hubCommand (m : SendMsg) : Statement (.hubCommand m) := by
  intro _ _ h; exact nomatch h

theorem sendCommandReceipt (m : SendMsg) : Statement (.sendCommandReceipt m) := by
  intro _ _ h; exact nomatch h

theorem replyDelivery (route : Word) (value : Word) (sender : ThreadRef) : Statement (.replyDelivery route value sender) := by
  intro _ _ h; exact nomatch h

theorem remoteBarrierOperation (m : BarrierMsg) : Statement (.remoteBarrierOperation m) := by
  intro _ _ h; exact nomatch h

theorem homeAtomic (q : AtomicReq) : Statement (.homeAtomic q) := by
  intro _ _ h; exact nomatch h

theorem homeJoin (block : Target) (who : ThreadRef) (d : BitVec 5) : Statement (.homeJoin block who d) := by
  intro _ _ h; exact nomatch h

theorem homeEnqueue (q : EnqueueReq) : Statement (.homeEnqueue q) := by
  intro _ _ h; exact nomatch h

theorem homeDequeue (q : DequeueReq) : Statement (.homeDequeue q) := by
  intro _ _ h; exact nomatch h

theorem dispenserRequest (cluster : Nat) (queue : Nat) : Statement (.dispenserRequest cluster queue) := by
  intro _ _ h; exact nomatch h

theorem dispenserBind (cluster : Nat) (queue : Nat) : Statement (.dispenserBind cluster queue) := by
  intro _ _ h; exact nomatch h

theorem affinityTimeout (cluster : Nat) (queue : Nat) : Statement (.affinityTimeout cluster queue) := by
  intro _ _ h; exact nomatch h

theorem entryThreadCreate (core : Nat) (slot : Nat) (rcb : Nat) : Statement (.entryThreadCreate core slot rcb) := by
  intro _ _ h; exact nomatch h

theorem consumedUpdate (rcb : Nat) : Statement (.consumedUpdate rcb) := by
  intro _ _ h; exact nomatch h

theorem quiescent (rcb : Nat) : Statement (.quiescent rcb) := by
  intro _ _ h; exact nomatch h

theorem rcbEnd (rcb : Nat) : Statement (.rcbEnd rcb) := by
  intro _ _ h; exact nomatch h

theorem rcbJoinRetry (rcb : Nat) : Statement (.rcbJoinRetry rcb) := by
  intro _ _ h; exact nomatch h

theorem xbarTermFire (core : Nat) (term : Nat) : Statement (.xbarTermFire core term) := by
  intro _ _ h; exact nomatch h

theorem stagedLaunch (core : Nat) (reg : Nat) : Statement (.stagedLaunch core reg) := by
  intro _ _ h; exact nomatch h

theorem regionRpub (region : Nat) (who : ThreadRef) (d : BitVec 5) : Statement (.regionRpub region who d) := by
  intro _ _ h; exact nomatch h

theorem roundMulticast (level : ViewLevel) (region : Nat) (round : BitVec 32) : Statement (.roundMulticast level region round) := by
  intro _ _ h; exact nomatch h

theorem boundedRequest (core : Nat) (ctx : Nat) : Statement (.boundedRequest core ctx) := by
  intro _ _ h; exact nomatch h

theorem homeGets (q : CohReq) : Statement (.homeGets q) := by
  intro _ _ h; exact nomatch h

theorem homeGetx (q : CohReq) : Statement (.homeGetx q) := by
  intro _ _ h; exact nomatch h

theorem homeUpg (q : CohReq) : Statement (.homeUpg q) := by
  intro _ _ h; exact nomatch h

theorem homeRenew (q : CohReq) : Statement (.homeRenew q) := by
  intro _ _ h; exact nomatch h

theorem homeWb (line : Nat) (core : Nat) (img : Stamped) (clean : Bool) : Statement (.homeWb line core img clean) := by
  intro _ _ h; exact nomatch h

theorem homeGack (line : Nat) (core : Nat) : Statement (.homeGack line core) := by
  intro _ _ h; exact nomatch h

theorem homeFdata (line : Nat) (core : Nat) (img : LineData × Word) (stamps : Nat × Nat) : Statement (.homeFdata line core img stamps) := by
  intro _ _ h; exact nomatch h

theorem homeGone (line : Nat) (core : Nat) : Statement (.homeGone line core) := by
  intro _ _ h; exact nomatch h

theorem evictionNotice (core : Nat) (line : Nat) (round : Nat) : Statement (.evictionNotice core line round) := by
  intro _ _ h; exact nomatch h

theorem agentData (core : Nat) (line : Nat) (c : DataReply) (exclusive : Bool) : Statement (.agentData core line c exclusive) := by
  intro _ _ h; exact nomatch h

theorem agentAckx (core : Nat) (line : Nat) (r : LeaseReply) : Statement (.agentAckx core line r) := by
  intro _ _ h; exact nomatch h

theorem agentRnack (core : Nat) (line : Nat) (r : LeaseReply) : Statement (.agentRnack core line r) := by
  intro _ _ h; exact nomatch h

theorem agentWback (core : Nat) (line : Nat) : Statement (.agentWback core line) := by
  intro _ _ h; exact nomatch h

theorem agentFwd (core : Nat) (line : Nat) (kind : FwdKind) : Statement (.agentFwd core line kind) := by
  intro _ _ h; exact nomatch h

theorem agentRetry (q : CohReq) : Statement (.agentRetry q) := by
  intro _ _ h; exact nomatch h

theorem invReceive (party : Party) (line : Nat) (round : Nat) (writer : ThreadRef) : Statement (.invReceive party line round writer) := by
  intro _ _ h; exact nomatch h

theorem iackReceive (ack : Iack) : Statement (.iackReceive ack) := by
  intro _ _ h; exact nomatch h

theorem meshArbitration (die : Nat) (pos : Nat) (port : Nat) : Statement (.meshArbitration die pos port) := by
  intro _ _ h; exact nomatch h

theorem fabricSend (port : Nat) : Statement (.fabricSend port) := by
  intro _ _ h; exact nomatch h

theorem bringUpStage (r : BootResult) : Statement (.bringUpStage r) := by
  intro _ _ h; exact nomatch h

theorem preempt (core : Nat) (ctx : Nat) : Statement (.preempt core ctx) := by
  intro _ _ h; exact nomatch h

theorem walkerRead (reader : Party) (line : Nat) : Statement (.walkerRead reader line) := by
  intro _ _ h; exact nomatch h

theorem lineEviction (core : Nat) (line : Nat) : Statement (.lineEviction core line) := by
  intro _ _ h; exact nomatch h

theorem translationDrop (core : Nat) (index : Nat) : Statement (.translationDrop core index) := by
  intro _ _ h; exact nomatch h

theorem l2PeerServe (cluster : Nat) (peer : Nat) (line : Nat) (clk : Nat) : Statement (.l2PeerServe cluster peer line clk) := by
  intro _ _ h; exact nomatch h

theorem clockMinimumBroadcast (slice : Nat) : Statement (.clockMinimumBroadcast slice) := by
  intro _ _ h; exact nomatch h

theorem rehome (granule : Nat) (slice : Nat) : Statement (.rehome granule slice) := by
  intro _ _ h; exact nomatch h

theorem crSqpopWrite (core : Nat) (v : Word) : Statement (.crSqpopWrite core v) := by
  intro _ _ h; exact nomatch h

theorem crTrootWrite (core : Nat) (v : Word) : Statement (.crTrootWrite core v) := by
  intro _ _ h; exact nomatch h

theorem crSlotpartWrite (core : Nat) (v : Word) : Statement (.crSlotpartWrite core v) := by
  intro _ _ h; exact nomatch h

theorem crBankpartWrite (core : Nat) (hi : Bool) (v : Word) : Statement (.crBankpartWrite core hi v) := by
  intro _ _ h; exact nomatch h

theorem crWinWrite (core : Nat) (ctx : Nat) (v : Word) : Statement (.crWinWrite core ctx v) := by
  intro _ _ h; exact nomatch h

theorem crWspWrite (core : Nat) (ctx : Nat) (v : Word) : Statement (.crWspWrite core ctx v) := by
  intro _ _ h; exact nomatch h

theorem crJexportWrite (v : Word) : Statement (.crJexportWrite v) := by
  intro _ _ h; exact nomatch h

theorem crWeiraWrite (core : Nat) (region : Nat) (v : Word) : Statement (.crWeiraWrite core region v) := by
  intro _ _ h; exact nomatch h

theorem crWeirbWrite (core : Nat) (region : Nat) (v : Word) : Statement (.crWeirbWrite core region v) := by
  intro _ _ h; exact nomatch h

theorem crSenslimWrite (v : Word) : Statement (.crSenslimWrite v) := by
  intro _ _ h; exact nomatch h

theorem sensorTrip (volt : BitVec 16) (temp : BitVec 16) (clock : BitVec 16) : Statement (.sensorTrip volt temp clock) := by
  intro _ _ h; exact nomatch h

theorem weirRefill (region : Nat) : Statement (.weirRefill region) := by
  intro _ _ h; exact nomatch h

theorem weirTimeout (region : Nat) : Statement (.weirTimeout region) := by
  intro _ _ h; exact nomatch h

theorem weirEgressEntry (region : Nat) : Statement (.weirEgressEntry region) := by
  intro _ _ h; exact nomatch h

theorem bar2Read (dest : TlpAddr) (len : Nat) : Statement (.bar2Read dest len) := by
  intro _ _ h; exact nomatch h

theorem bar2Write (dest : TlpAddr) (bytes : ByteList) : Statement (.bar2Write dest bytes) := by
  intro _ _ h; exact nomatch h

theorem bar0Write (dest : TlpAddr) (op : WindowOp) : Statement (.bar0Write dest op) := by
  intro _ _ h; exact nomatch h

theorem hcRingtail (word : TlpWord) : Statement (.hcRingtail word) := by
  intro _ _ h; exact nomatch h

theorem hcRingctl (word : TlpWord) : Statement (.hcRingctl word) := by
  intro _ _ h; exact nomatch h

theorem ringOpen (entry : ByteList) : Statement (.ringOpen entry) := by
  intro _ _ h; exact nomatch h

theorem ringLaunch (seq : Word) (operands : ByteList) : Statement (.ringLaunch seq operands) := by
  intro _ _ h; exact nomatch h

theorem ringGraph (seq : Word) (operands : ByteList) : Statement (.ringGraph seq operands) := by
  intro _ _ h; exact nomatch h

theorem ringImport (seq : Word) (operands : ByteList) : Statement (.ringImport seq operands) := by
  intro _ _ h; exact nomatch h

theorem ringSummary (seq : Word) (operands : ByteList) : Statement (.ringSummary seq operands) := by
  intro _ _ h; exact nomatch h

theorem ringJfree (seq : Word) (operands : ByteList) : Statement (.ringJfree seq operands) := by
  intro _ _ h; exact nomatch h

theorem fabricReceive (port : Nat) (record : BitVec 512) : Statement (.fabricReceive port record) := by
  intro _ _ h; exact nomatch h

theorem peerAccess (q : PeerReq) : Statement (.peerAccess q) := by
  intro _ _ h; exact nomatch h

theorem debugAttach (mode : Nat) : Statement (.debugAttach mode) := by
  intro _ _ h; exact nomatch h

theorem debugStop (core : Nat) (slot : Nat) : Statement (.debugStop core slot) := by
  intro _ _ h; exact nomatch h

theorem debugRelease (core : Nat) (slot : Nat) : Statement (.debugRelease core slot) := by
  intro _ _ h; exact nomatch h

theorem debugStep (core : Nat) (slot : Nat) : Statement (.debugStep core slot) := by
  intro _ _ h; exact nomatch h

theorem debugClaim (core : Nat) (mask : BitVec 16) : Statement (.debugClaim core mask) := by
  intro _ _ h; exact nomatch h

theorem debugReadState (core : Nat) (what : DebugItem) (index : Nat) : Statement (.debugReadState core what index) := by
  intro _ _ h; exact nomatch h

theorem debugReadCr (core : Nat) (ctx : Nat) (cr : BitVec 10) : Statement (.debugReadCr core ctx cr) := by
  intro _ _ h; exact nomatch h

theorem debugReadContext (core : Nat) (ctx : Nat) (off : Word) : Statement (.debugReadContext core ctx off) := by
  intro _ _ h; exact nomatch h

theorem debugWriteContext (core : Nat) (ctx : Nat) (off : Word) (v : Word) : Statement (.debugWriteContext core ctx off v) := by
  intro _ _ h; exact nomatch h

theorem debugReadMemory (line : Nat) : Statement (.debugReadMemory line) := by
  intro _ _ h; exact nomatch h

theorem debugWriteMemory (line : Nat) (data : LineData) (side : Word) : Statement (.debugWriteMemory line data side) := by
  intro _ _ h; exact nomatch h

theorem debugProgramPcmp (core : Nat) (index : Nat) (v : Word) : Statement (.debugProgramPcmp core index v) := by
  intro _ _ h; exact nomatch h

theorem debugProgramWatch (slice : Nat) (index : Nat) (v : Word) : Statement (.debugProgramWatch slice index v) := by
  intro _ _ h; exact nomatch h

theorem debugLaunch (entry : Word) (core : Nat) (slot : Nat) (rcb : Nat) : Statement (.debugLaunch entry core slot rcb) := by
  intro _ _ h; exact nomatch h

theorem powerControlWrite (op : MgmtOp) : Statement (.powerControlWrite op) := by
  intro _ _ h; exact nomatch h

theorem gatingStep (deeper : Bool) (draw : BitVec 16) : Statement (.gatingStep deeper draw) := by
  intro _ _ h; exact nomatch h

theorem machineCheck (line : Nat) (die : Nat) (core : Nat) : Statement (.machineCheck line die core) := by
  intro _ _ h; exact nomatch h

theorem wearUpdate (fig : DieWear) : Statement (.wearUpdate fig) := by
  intro _ _ h; exact nomatch h

theorem reservedEncoding (ww : BitVec 32) : Statement (.reservedEncoding ww) := by
  intro _ _ h; exact nomatch h

theorem unfetchableWord (cause : BitVec 8) (tval : Word) : Statement (.unfetchableWord cause tval) := by
  intro _ _ h; exact nomatch h

theorem l1InstructionCacheDrop (core : Nat) (line : Nat) : Statement (.l1InstructionCacheDrop core line) := by
  intro _ _ h; exact nomatch h

theorem keyCachePurge (core : Nat) (slot : Nat) : Statement (.keyCachePurge core slot) := by
  intro _ _ h; exact nomatch h

theorem homeRecall (slice : Nat) (q : RecallReq) : Statement (.homeRecall slice q) := by
  intro _ _ h; exact nomatch h

theorem nop : Statement (.nop) := by
  intro hwf w h
  injection h with h
  subst h; rfl

theorem ret : Statement (.ret) := by
  intro hwf w h
  injection h with h
  subst h; rfl

theorem waitw : Statement (.waitw) := by
  intro hwf w h
  injection h with h
  subst h; rfl

theorem mcall : Statement (.mcall) := by
  intro hwf w h
  injection h with h
  subst h; rfl

theorem eret : Statement (.eret) := by
  intro hwf w h
  injection h with h
  subst h; rfl

theorem ifence : Statement (.ifence) := by
  intro hwf w h
  injection h with h
  subst h; rfl

theorem tfence : Statement (.tfence) := by
  intro hwf w h
  injection h with h
  subst h; rfl

theorem bkpt : Statement (.bkpt) := by
  intro hwf w h
  injection h with h
  subst h; rfl

theorem halt : Statement (.halt) := by
  intro hwf w h
  injection h with h
  subst h; rfl

theorem periodStart : Statement (.periodStart) := by
  intro _ _ h; exact nomatch h

theorem heldRecordRetry : Statement (.heldRecordRetry) := by
  intro _ _ h; exact nomatch h

theorem journalCheckpoint : Statement (.journalCheckpoint) := by
  intro _ _ h; exact nomatch h

theorem ringFetch : Statement (.ringFetch) := by
  intro _ _ h; exact nomatch h

theorem debugDetach : Statement (.debugDetach) := by
  intro _ _ h; exact nomatch h

theorem powerOnReset : Statement (.powerOnReset) := by
  intro _ _ h; exact nomatch h

theorem throttleDown : Statement (.throttleDown) := by
  intro _ _ h; exact nomatch h

theorem throttleUp : Statement (.throttleUp) := by
  intro _ _ h; exact nomatch h

theorem slotOffer : Statement (.slotOffer) := by
  intro _ _ h; exact nomatch h

end Sys2Proof.Laws.RoundTrip
end

