-- ==== Sys2Proof/Safety.lean ====
section
/-! DEFINITION. The terms of the claims: what changes when only the executing context changes, how an instruction completes, the
bytes of the machine, the canonical form of memory, the values a number format can write, the tiles a unit reads, and runs. -/

namespace Sys2Proof.Machine

/-- Nothing but the executing context differs between `s` and `t`, and it is `x` in `t`: every other context, every other field
of every core, every byte of memory and everything else of the package is the same. -/
structure State.Only (s t : State) (x : Context) : Prop where
  rest : t = { s with cores := t.cores }
  core : ∀ k, { t.core k with ctxs := [] } = { s.core k with ctxs := [] }
  ctx : ∀ r, t.ctxOf r = if r = s.cur then x else s.ctxOf r

/-- `x` has retired a control transfer to `target` (R113). -/
def Context.jump (x : Context) (target : Word) : Context :=
  { x with pc := target, chain := {}, wait := 0, pend := .none }

/-- `i` completes at `s` with its context `x`: it retires, which changes nothing but the context and advances its pc, and the
boundary of its chain is reached (R81, R104). -/
def Completes (s : State) (i : Instr) (x : Context) : Prop := ∃ u, s.Only u (advance x) ∧ exec i s = .next (boundary u)

/-- `i` completes at `s` by transferring control to `target` with its context `x` (R113). -/
def Jumps (s : State) (i : Instr) (x : Context) (target : Word) : Prop :=
  ∃ u, s.Only u (x.jump target) ∧ exec i s = .next (boundary u)

/-- `i` completes at `s` by writing `v` to S[d] (R89, R124). -/
def Writes (s : State) (i : Instr) (d : BitVec 5) (v : Word) : Prop := Completes s i (s.me.writeS d v)

/-- `i` traps at `s` with `cause` and `tval` (R112, R232, R236). -/
def Traps (s : State) (i : Instr) (cause : Nat) (tval : Word) : Prop := exec i s = .next (trap s cause tval)

/-- Two states hold the same bytes: of main memory and the local stores, of the host's and the peers' memory, and in every
line's sideband. -/
structure State.SameBytes (s t : State) : Prop where
  mem : t.mem = s.mem
  side : t.side = s.side
  host : t.hostMem = s.hostMem
  peer : t.peerMem = s.peerMem

/-- A context without the bookkeeping of its waits: its registers, its pc, its level and everything else that names it. -/
def Context.regs (x : Context) : Context :=
  { x with wait := 0, pend := .none, waitSince := 0, watchHit := none, acksDue := 0, miss := none, served := 0 }

/-- What an access of the executing thread may touch: bytes and sidebands, the caches and what they keep, the views of the L1, the agenda,
watch reports, traces, and the bookkeeping of waits. The registers of the executing context are those of `x`; those of every other
context, and every other field of every core and of the package, are the same. -/
structure State.Touches (s t : State) (x : Context) : Prop where
  rest : t = { s with mem := t.mem, side := t.side, hostMem := t.hostMem, peerMem := t.peerMem, micro := t.micro,
                      agenda := t.agenda, sdie := t.sdie, cores := t.cores }
  sdie : t.sdie = { s.sdie with watchReports := t.sdie.watchReports }
  core : ∀ k, { t.core k with ctxs := [], trace := [], views := [] } = { s.core k with ctxs := [], trace := [], views := [] }
  regs : ∀ r, (t.ctxOf r).regs = if r = s.cur then x.regs else (s.ctxOf r).regs

/-- The executing thread has left the rotation for `t` with kind `kind`, on the object `obj` (R83, R100): `pend` says what the
end of its wait does. -/
structure State.Waits (s t : State) (kind obj : Nat) (pend : Pend) : Prop where
  wait : (t.ctxOf s.cur).wait = waitWord kind obj
  pend : (t.ctxOf s.cur).pend = pend

/-- `i` asks memory at `s` and leaves `t`: its registers are those of `x` already, its pc stands at its chain, and it waits with
kind 1 on `obj` until MEMORY_REPLY retires it, which is on its way unless acknowledgements are due first (R83, R100, R319). -/
structure Asks (s : State) (i : Instr) (t : State) (x : Context) (obj : Nat) : Prop where
  next : exec i s = .next t
  touches : s.Touches t x
  waits : s.Waits t 1 obj .reply
  reply : (t.ctxOf s.cur).acksDue = 0 → .memoryReply s.cur.core s.cur.ctx ∈ t.agenda

/-- `i` sends the message `m` at `s`, with its registers those of `x`, and leaves the rotation with `kind` on `obj` until the target
answers (R83, R173). No byte changes. -/
def Sends (s : State) (i : Instr) (x : Context) (kind obj : Nat) (m : Instr) : Prop :=
  ∃ t, exec i s = .next t ∧ s.Touches t x ∧ s.Waits t kind obj .message ∧ m ∈ t.agenda ∧ s.SameBytes t

/-- `i` leaves the rotation at `s` with `kind` on `obj` and is issued again once woken (R100, R241); nothing else a program names
changes. -/
def Retries (s : State) (i : Instr) (kind obj : Nat) : Prop :=
  ∃ t, exec i s = .next t ∧ s.Touches t s.me ∧ s.Waits t kind obj .reissue ∧ s.SameBytes t

/-- `i` completes at `s` with its context `x`, and its thread's clock rises to `c` (R300). -/
def Observes (s : State) (i : Instr) (x : Context) : Prop :=
  ∃ (c : Nat) (u : State), (s.setClk s.cur c).Only u (advance x) ∧ exec i s = .next (boundary u)

/-- `i` completes at `s` with its context `x`, having touched what an access may touch (R83, R177). -/
def Passes (s : State) (i : Instr) (x : Context) : Prop :=
  ∃ u, exec i s = .next (boundary u) ∧ s.Touches u (advance x) ∧ u.me.wait = 0 ∧ u.me.pend = .none ∧ s.SameBytes u

/-- Only the entries of barriers and basins, the counters of crossbars and the clocks of their registers, the agenda, what is due and logical
clocks differ, and the executing context is `x` (R180, R190, R227). -/
structure State.Syncs (s t : State) (x : Context) : Prop where
  rest : t = { s with cores := t.cores, micro := t.micro, agenda := t.agenda, due := t.due }
  micro : t.micro = { s.micro with clkCtx := t.micro.clkCtx, stBarrier := t.micro.stBarrier, stBasin := t.micro.stBasin }
  core : ∀ k, { t.core k with ctxs := [], barriers := [], basins := [], counters := [], staged := [] } =
    { s.core k with ctxs := [], barriers := [], basins := [], counters := [], staged := [] }
  ctx : ∀ r, t.ctxOf r = if r = s.cur then x else s.ctxOf r

/-- `i` completes at `s` with its context `x`, and leaves `u` before its boundary, a change of synchronisation state alone. -/
def Acts (s : State) (i : Instr) (x : Context) (u : State) : Prop := s.Syncs u (advance x) ∧ exec i s = .next (boundary u)

/-- An engine can take a command: its core has not stopped, its queue of two has a free entry and a record is free (R92, R236). -/
def CanTake (c : Core) (e : Nat) : Prop :=
  c.dead = false ∧ (c.engine e).queue.length < 2 ∧ ∃ r < 8, ((c.engine e).barge r).st = .free

/-- Engine `e` of core `k` has taken the command `c` for the issuer `i`: in `u` the first free record after the one given last, upward
and modulo 8, holds the queued barge, behind the queue, and every other record is as it was (R92, R93). -/
def Forks (s : State) (k e : Nat) (c : Command) (i : Issuer) (u : State) (r : Nat) : Prop :=
  let g := (s.core k).engine e
  let g' := (u.core k).engine e
  (∃ j < 8, r = (g.last + 1 + j) % 8 ∧ (g.barge r).st = .free ∧ ∀ l < j, (g.barge ((g.last + 1 + l) % 8)).st ≠ .free) ∧
  g'.barge r = { st := .queued, slot := i.slot, issuerCore := i.core, direct := i.direct, ctx := i.ctx, tid := i.tid, pc := addr56 i.pc.toNat, rcb := i.rcb,
                 part := i.part, level := i.level, lease := i.lease, floors := i.floors, captured := i.captured, clk := i.clk, cmd := c,
                 seq := g.seq + 1 } ∧
  (∀ q, q ≠ r → g'.barge q = g.barge q) ∧ g'.queue = g.queue ++ [r] ∧ g'.running = g.running ∧ g'.last = r ∧ .bargeStart k e ∈ u.agenda

/-- The thread `r` waits for the answer to a message (R173). -/
def Awaits (s : State) (r : ThreadRef) : Prop := r.core < 256 ∧ r.ctx < 24 ∧ (s.ctxOf r).st = .bound ∧ (s.ctxOf r).pend = .message

/-- `i` answers at `s` the message of the thread `r`, whose registers become those of `x`: it leaves `u`, in which nothing else a
program names differs but bytes, and `r` waits for the reply alone, on its way unless acknowledgements are due (R83, R319). -/
structure Answers (s : State) (i : Instr) (r : ThreadRef) (x : Context) (u : State) : Prop where
  next : exec i s = .next u
  cur : u.cur = s.cur
  touches : ({ s with cur := r } : State).Touches { u with cur := r } x
  pend : (u.ctxOf r).pend = .reply
  reply : (u.ctxOf r).acksDue = 0 → .memoryReply r.core r.ctx ∈ u.agenda

/-- `i` traps the thread `r` at `s`, whose message is refused (R160, R172). -/
def TrapsThread (s : State) (i : Instr) (s' : State) (r : ThreadRef) (cause : Nat) (tval : Word) : Prop :=
  exec i s = .next { trap { s' with cur := r } cause tval with cur := s.cur }

/-- `rows(v)` of R128: the sum over j in 0 .. 27 of v[2j+1] × 2^j. -/
def rowsSum (v : Word) : Nat := ((List.range 28).map (fun j => if v.getLsbD (2 * j + 1) then 2 ^ j else 0)).sum

/-- `cols(v)` of R128: the sum over j in 0 .. 27 of v[2j] × 2^j. -/
def colsSum (v : Word) : Nat := ((List.range 28).map (fun j => if v.getLsbD (2 * j) then 2 ^ j else 0)).sum

/-- The count and the digits of a path value (R114). -/
def pathCount (v : Word) : Nat := v.toNat / 2 ^ 56 % 64
def pathDigits (v : Word) : Nat := v.toNat % 2 ^ 56

/-- R114: an instruction that takes the path value `v` refuses it. -/
def PathBad (v : Word) : Prop := pathCount v > 28 ∨ pathDigits v / 4 ^ pathCount v ≠ 0 ∨ v.toNat / 2 ^ 62 ≠ 0

/-- A path value of `k` digits `p`. -/
def pathWord (k p : Nat) : Word := BitVec.ofNat 64 (k * 2 ^ 56 + p)

/-- The executing thread is at a plain boundary: no single step or watch trap is due, and no stop, park or pre-emption is asked for (R241,
R253, R336, R390, R395). -/
structure State.Calm (s : State) : Prop where
  watch : s.me.watchHit = none
  step : s.me.step = false
  dbg : s.me.dbgStep = false
  stop : s.me.stopReq = false
  park : s.me.parkReq = false
  budget : s.me.budgetStop = false

/-- No region's record is registered for a line of the table, and no INV is on its way to one: a store then runs no round that could write a
counter back (R290, R321). -/
def State.NoRecords (s : State) : Prop :=
  (∀ l, (SMap.get {} s.micro.dir l).record = false) ∧ ∀ p l r w, .invReceive p l r w ∈ s.underWay → ∀ k id, p ≠ .regionRecord k id

/-- The exact value of a finite operand, as a rational number; −0 is zero. -/
def XVal.Is (x : XVal) (v : ℚ) : Prop := (∃ m e : Int, x = .fin m e ∧ (m : ℚ) * 2 ^ e = v) ∨ (x = .negZero ∧ v = 0)

/-- A pattern that stands for the value `v` under format code `c` and scale `s`. -/
def PatIs (c : Nat) (s : Int) (p : BitVec 32) (v : ℚ) : Prop := ∃ x, patValue c s p = some x ∧ x.Is v

/-- The f32 value nearest to an exact one. -/
def XVal.nearest (x : XVal) : XVal := ofF32 (roundF32 .ne x).1

/-- The lines of `ls` are those that stand at their addresses in local store. -/
def State.Holds (s : State) (ls : Lines) : Prop := ∀ p ∈ ls, p.2 = s.lineAt (.ls p.1)

/-- The line of a live position of a tile is among `ls`; a dead position needs none. -/
def Lines.Has (ls : Lines) (t : Tile) (r c : Nat) : Prop := t.live r c = true → t.addrOf r c / 64 * 64 ∈ ls.map (·.1)

/-- Byte `o` of a line. -/
def lineByte (d : LineData) (o : Nat) : Nat := d.toNat / 2 ^ (8 * o) % 256

/-- R37, R67, R68, R69: in `u` the line at `a` of local store holds the results `val` of its live cells, encoded under the tile's format and its new scale; its
sideband holds both and a zero tag; its other bytes are those of `s`. -/
def State.Encodes (s u : State) (t : Tile) (a : Nat) (cells : List Cell) (real : Bool) (mode : Rnd) (val : Cell → Val) : Prop :=
  let old := s.lineAt (.ls a)
  let new := u.lineAt (.ls a)
  let kept : BitVec 8 := old.2.extractLsb' 8 8
  let sc : Int := if t.policy = 1 then t.fixed.toInt
    else if t.policy = 2 then (if real then amaxScale t.fmt (cells.map (fun x => (val x).toX)) else 0)
    else if kept = 0x80 then 0 else kept.toInt
  let pat (x : Cell) : BitVec 32 := if sc = -128 then 0 else match val x with
    | .real y => (roundTo t.fmt mode (y.scale (-sc))).1
    | .int n => BitVec.ofInt 32 (max (intRange t.fmt).1 (min n (intRange t.fmt).2))
  (∀ x ∈ cells, ∀ j < t.esize, lineByte new.1 (x.off + j) = (pat x).toNat / 2 ^ (8 * j) % 256) ∧
  (∀ o < 64, (∀ x ∈ cells, o < x.off ∨ x.off + t.esize ≤ o) → lineByte new.1 o = lineByte old.1 o) ∧
  new.2.toNat = t.fmt % 256 + (sc % 256).toNat * 256

/-- The memory of a state has the canonical form. -/
def State.Canonical (s : State) : Prop := s.mem.wf = true

/-- A safe step answers a next state. -/
def Safe (r : Result) : Prop := ∃ t, r = .next t

/-- `t` can be reached from `s` by steps that all answer a next state. -/
inductive Reaches (s : State) : State → Prop where
  | refl : Reaches s s
  | step {t u : State} : Reaches s t → Sys2Proof.Machine.step t = .next u → Reaches s u

end Sys2Proof.Machine
end

