-- ==== Sys2Proof/Certificates/Slice0/Obligations.lean ====
section
/-! DEFINITION. The statements about the model, each from the spec's numbered rules or derived from them. -/

open Sys2Proof Sys2Proof.Machine

/-! ### Scalar instructions -/

/-- R124, R125, R107, R117, R130, R131, R132: every ALU member writes S[d] ← f(S[a], S[b]) and retires; nothing else changes. The words of
the members are as tabled; every other fn value of the group is a reserved encoding. The immediate of a word is its sign-extended field
(zero-extended for LIH), or, where IMMX binds, the 40-bit value; the immediate instructions write their result, and a shift under a non-
zero payload is a misuse. -/
def Obligations.ArithmeticWritesResult : Prop :=
  ((∀ (s : State) (d a b : BitVec 5),
      let x := s.S a
      let y := s.S b
      Writes s (.add d a b) d (BitVec.ofNat 64 ((x.toNat + y.toNat) % 2 ^ 64)) ∧
      Writes s (.sub d a b) d (BitVec.ofInt 64 (((x.toNat : Int) - y.toNat) % 2 ^ 64)) ∧
      (∃ v, Writes s (.and d a b) d v ∧ ∀ j, v.getLsbD j = (x.getLsbD j && y.getLsbD j)) ∧
      (∃ v, Writes s (.or d a b) d v ∧ ∀ j, v.getLsbD j = (x.getLsbD j || y.getLsbD j)) ∧
      (∃ v, Writes s (.xor d a b) d v ∧ ∀ j, v.getLsbD j = (x.getLsbD j ^^ y.getLsbD j)) ∧
      (∃ v, Writes s (.andn d a b) d v ∧ ∀ j, j < 64 → v.getLsbD j = (x.getLsbD j && !y.getLsbD j)) ∧
      (∃ v, Writes s (.orn d a b) d v ∧ ∀ j, j < 64 → v.getLsbD j = (x.getLsbD j || !y.getLsbD j)) ∧
      Writes s (.min d a b) d (if x.toInt ≤ y.toInt then x else y) ∧
      Writes s (.max d a b) d (if y.toInt ≤ x.toInt then x else y) ∧
      Writes s (.minu d a b) d (if x.toNat ≤ y.toNat then x else y) ∧
      Writes s (.maxu d a b) d (if y.toNat ≤ x.toNat then x else y) ∧
      Writes s (.slt d a b) d (if x.toInt < y.toInt then 1 else 0) ∧
      Writes s (.sltu d a b) d (if x.toNat < y.toNat then 1 else 0) ∧
      Writes s (.seq d a b) d (if x = y then 1 else 0) ∧
      Writes s (.sne d a b) d (if x = y then 0 else 1)) ∧
   (∀ (d a b : BitVec 5) (fn : BitVec 10), fn = 0 ∨ 15 < fn.toNat → decode (0#7 ++ d ++ a ++ b ++ fn) = .error .reservedFunction) ∧
   (∀ (d a b : BitVec 5),
      decode (0#7 ++ d ++ a ++ b ++ 1#10) = .ok (.add d a b) ∧ decode (0#7 ++ d ++ a ++ b ++ 2#10) = .ok (.sub d a b) ∧
      decode (0#7 ++ d ++ a ++ b ++ 3#10) = .ok (.and d a b) ∧ decode (0#7 ++ d ++ a ++ b ++ 4#10) = .ok (.or d a b) ∧
      decode (0#7 ++ d ++ a ++ b ++ 5#10) = .ok (.xor d a b) ∧ decode (0#7 ++ d ++ a ++ b ++ 6#10) = .ok (.andn d a b) ∧
      decode (0#7 ++ d ++ a ++ b ++ 7#10) = .ok (.orn d a b) ∧ decode (0#7 ++ d ++ a ++ b ++ 8#10) = .ok (.min d a b) ∧
      decode (0#7 ++ d ++ a ++ b ++ 9#10) = .ok (.max d a b) ∧ decode (0#7 ++ d ++ a ++ b ++ 10#10) = .ok (.minu d a b) ∧
      decode (0#7 ++ d ++ a ++ b ++ 11#10) = .ok (.maxu d a b) ∧ decode (0#7 ++ d ++ a ++ b ++ 12#10) = .ok (.slt d a b) ∧
      decode (0#7 ++ d ++ a ++ b ++ 13#10) = .ok (.sltu d a b) ∧ decode (0#7 ++ d ++ a ++ b ++ 14#10) = .ok (.seq d a b) ∧
      decode (0#7 ++ d ++ a ++ b ++ 15#10) = .ok (.sne d a b))) ∧
  ((∀ (s : State) (d a : BitVec 5) (i : BitVec 15) (sh : BitVec 6),
      let x := s.S a
      let wide (p : BitVec 25) : Word := (p ++ i).signExtend 64
      let imm : Word := match s.me.chain.immx with | some p => wide p | none => i.signExtend 64
      let low : Word := match s.me.chain.immx with | some p => wide p | none => i.setWidth 64
      Writes s (.addi d a i) d (x + imm) ∧
      Writes s (.andi d a i) d (x &&& imm) ∧
      Writes s (.ori d a i) d (x ||| imm) ∧
      Writes s (.xori d a i) d (x ^^^ imm) ∧
      Writes s (.slti d a i) d (if x.toInt < imm.toInt then 1 else 0) ∧
      Writes s (.sltiu d a i) d (if x.toNat < imm.toNat then 1 else 0) ∧
      Writes s (.lih d a i) d (low.extractLsb' 0 24 ++ x.extractLsb' 0 40) ∧
      (s.me.chain.immx = none ∨ s.me.chain.immx = some 0 →
        Writes s (.shli d a sh) d (x <<< sh.toNat) ∧
        Writes s (.shri d a sh) d (x >>> sh.toNat) ∧
        Writes s (.srai d a sh) d (x.sshiftRight sh.toNat)) ∧
      (∀ p, s.me.chain.immx = some p → p ≠ 0 →
        Traps s (.shli d a sh) 0x05 s.irWord ∧ Traps s (.shri d a sh) 0x05 s.irWord ∧ Traps s (.srai d a sh) 0x05 s.irWord)) ∧
   (∀ (d a : BitVec 5) (i : BitVec 15), decode (0x0F#7 ++ d ++ a ++ i) = .ok (.lih d a i)))

/-- R58, R126, R127, R128: the products are those of the unbounded integers; division rounds toward zero and never traps. Shifts take
S[b][5:0]; the counts, the reversal and the extension are said bit by bit. The interleaved members. Rows are the odd bits and columns the
even bits of the low 56 bits; a step wraps modulo 2^28 and the result has bits [63:56] zero. -/
def Obligations.MultipliesShiftsAndTree : Prop :=
  ((∀ (s : State) (d a b : BitVec 5),
      let x := s.S a
      let y := s.S b
      Writes s (.mul d a b) d (BitVec.ofNat 64 (x.toNat * y.toNat)) ∧
      Writes s (.mulh d a b) d (BitVec.ofInt 64 ((x.toInt * y.toInt) / 2 ^ 64)) ∧
      Writes s (.mulhu d a b) d (BitVec.ofNat 64 (x.toNat * y.toNat / 2 ^ 64)) ∧
      (∃ q r : Word, Writes s (.div d a b) d q ∧ Writes s (.rem d a b) d r ∧
        (y = 0 → q = BitVec.allOnes 64 ∧ r = x) ∧
        (y ≠ 0 → q = BitVec.ofInt 64 (x.toInt.tdiv y.toInt) ∧ r.toInt.natAbs < y.toInt.natAbs ∧ q * y + r = x ∧
          (r ≠ 0 → (r.toInt < 0 ↔ x.toInt < 0)))) ∧
      (∃ q r : Word, Writes s (.divu d a b) d q ∧ Writes s (.remu d a b) d r ∧
        (y = 0 → q = BitVec.allOnes 64 ∧ r = x) ∧
        (y ≠ 0 → x.toNat = y.toNat * q.toNat + r.toNat ∧ r.toNat < y.toNat))) ∧
   (∀ (d a b : BitVec 5),
      decode (1#7 ++ d ++ a ++ b ++ 1#10) = .ok (.mul d a b) ∧ decode (1#7 ++ d ++ a ++ b ++ 2#10) = .ok (.mulh d a b) ∧
      decode (1#7 ++ d ++ a ++ b ++ 3#10) = .ok (.mulhu d a b) ∧ decode (1#7 ++ d ++ a ++ b ++ 4#10) = .ok (.div d a b) ∧
      decode (1#7 ++ d ++ a ++ b ++ 5#10) = .ok (.divu d a b) ∧ decode (1#7 ++ d ++ a ++ b ++ 6#10) = .ok (.rem d a b) ∧
      decode (1#7 ++ d ++ a ++ b ++ 7#10) = .ok (.remu d a b))) ∧
  ((∀ (s : State) (d a b : BitVec 5),
      let x := s.S a
      let sh := (s.S b).toNat % 64
      (∃ v : Word, Writes s (.shl d a b) d v ∧ v.toNat = x.toNat * 2 ^ sh % 2 ^ 64) ∧
      (∃ v : Word, Writes s (.shr d a b) d v ∧ v.toNat = x.toNat / 2 ^ sh) ∧
      (∃ v : Word, Writes s (.sra d a b) d v ∧ v.toInt = x.toInt / 2 ^ sh) ∧
      (∃ v : Word, Writes s (.rot d a b) d v ∧ ∀ j, j < 64 → v.getLsbD ((j + sh) % 64) = x.getLsbD j) ∧
      (∃ n : Nat, Writes s (.clz d a) d (BitVec.ofNat 64 n) ∧ n ≤ 64 ∧ (∀ j, 64 - n ≤ j → x.getLsbD j = false) ∧
        (n < 64 → x.getLsbD (63 - n) = true)) ∧
      (∃ n : Nat, Writes s (.ctz d a) d (BitVec.ofNat 64 n) ∧ n ≤ 64 ∧ (∀ j, j < n → x.getLsbD j = false) ∧
        (n < 64 → x.getLsbD n = true)) ∧
      Writes s (.popc d a) d (BitVec.ofNat 64 ((List.range 64).filter (fun j => x.getLsbD j)).length) ∧
      (∃ v : Word, Writes s (.brev d a) d v ∧ ∀ j, j < 64 → v.getLsbD (63 - j) = x.getLsbD j) ∧
      (∃ v : Word, Writes s (.exts d a b) d v ∧ ∀ j, j < 64 → v.getLsbD j = x.getLsbD (min j sh))) ∧
   (∀ (d a b : BitVec 5),
      decode (2#7 ++ d ++ a ++ b ++ 1#10) = .ok (.shl d a b) ∧ decode (2#7 ++ d ++ a ++ b ++ 2#10) = .ok (.shr d a b) ∧
      decode (2#7 ++ d ++ a ++ b ++ 3#10) = .ok (.sra d a b) ∧ decode (2#7 ++ d ++ a ++ b ++ 4#10) = .ok (.rot d a b) ∧
      decode (2#7 ++ d ++ a ++ 0#5 ++ 5#10) = .ok (.clz d a) ∧ decode (2#7 ++ d ++ a ++ 0#5 ++ 6#10) = .ok (.ctz d a) ∧
      decode (2#7 ++ d ++ a ++ 0#5 ++ 7#10) = .ok (.popc d a) ∧ decode (2#7 ++ d ++ a ++ 0#5 ++ 8#10) = .ok (.brev d a) ∧
      decode (2#7 ++ d ++ a ++ b ++ 9#10) = .ok (.exts d a b))) ∧
  ((∀ (s : State) (d a b : BitVec 5),
      let x := s.S a
      let y := s.S b
      (∃ v : Word, Writes s (.zip d a b) d v ∧ rowsSum v = x.toNat % 2 ^ 28 ∧ colsSum v = y.toNat % 2 ^ 28 ∧ v.toNat < 2 ^ 56) ∧
      Writes s (.zrow d a) d (BitVec.ofNat 64 (rowsSum x)) ∧
      Writes s (.zcol d a) d (BitVec.ofNat 64 (colsSum x)) ∧
      (∃ v : Word, Writes s (.zaddr d a b) d v ∧ rowsSum v = (rowsSum x + y.toNat) % 2 ^ 28 ∧ colsSum v = colsSum x ∧ v.toNat < 2 ^ 56) ∧
      (∃ v : Word, Writes s (.zaddc d a b) d v ∧ rowsSum v = rowsSum x ∧ colsSum v = (colsSum x + y.toNat) % 2 ^ 28 ∧ v.toNat < 2 ^ 56)) ∧
   (∀ (d a b : BitVec 5),
      decode (3#7 ++ d ++ a ++ b ++ 1#10) = .ok (.zip d a b) ∧ decode (3#7 ++ d ++ a ++ 0#5 ++ 2#10) = .ok (.zrow d a) ∧
      decode (3#7 ++ d ++ a ++ 0#5 ++ 3#10) = .ok (.zcol d a) ∧ decode (3#7 ++ d ++ a ++ b ++ 4#10) = .ok (.zaddr d a b) ∧
      decode (3#7 ++ d ++ a ++ b ++ 5#10) = .ok (.zaddc d a b)))

/-- R114, R128, R129, R31, R39, R42, R90, R201, R202: the path members. A path operand that R114 refuses traps with tval that register's
value; the cases the pseudocode refuses trap with the tval R129 names; otherwise the result is written. TDEF joins two scalars; TEXT
replaces the rows and cols fields and no other bit; TSUB and TSUBR write the sub-tile of a path, or trap with 0x01 where the path is too
long or malformed: its base is that of the block the path names, its order is less by the path's length, its rows and cols are those of
T[a] from the sub-tile's named origin, and no other bit differs. Where the rules leave it open, the choice is the model's (log 78). -/
def Obligations.PathsAndDescriptors : Prop :=
  ((∀ (s : State) (d a b : BitVec 5),
      let x := s.S a
      let y := s.S b
      let k := pathCount x
      let p := pathDigits x
      let j := y.toNat
      (PathBad x → Traps s (.ptrunc d a b) 0x01 x ∧ Traps s (.pdig d a b) 0x01 x ∧ Traps s (.pcat d a b) 0x01 x) ∧
      (¬ PathBad x →
        (k < j → Traps s (.ptrunc d a b) 0x01 y) ∧
        (j ≤ k → Writes s (.ptrunc d a b) d (pathWord j (p / 4 ^ (k - j)))) ∧
        (k ≤ j → Traps s (.pdig d a b) 0x01 y) ∧
        (j < k → Writes s (.pdig d a b) d (BitVec.ofNat 64 (p / 4 ^ (k - 1 - j) % 4))) ∧
        (PathBad y → Traps s (.pcat d a b) 0x01 y) ∧
        (¬ PathBad y → 28 < k + pathCount y → Traps s (.pcat d a b) 0x01 (BitVec.ofNat 64 (k + pathCount y))) ∧
        (¬ PathBad y → k + pathCount y ≤ 28 →
          Writes s (.pcat d a b) d (pathWord (k + pathCount y) (p * 4 ^ pathCount y + pathDigits y))))) ∧
   (∀ (d a b : BitVec 5),
      decode (3#7 ++ d ++ a ++ b ++ 6#10) = .ok (.ptrunc d a b) ∧ decode (3#7 ++ d ++ a ++ b ++ 7#10) = .ok (.pdig d a b) ∧
      decode (3#7 ++ d ++ a ++ b ++ 8#10) = .ok (.pcat d a b))) ∧
  (∀ (s : State) (d a : BitVec 4) (b c : BitVec 5) (k : BitVec 3) (p : BitVec 14),
     Completes s (.tdef d b c) (s.me.writeT d (s.S c ++ s.S b)) ∧
     (∃ v : BitVec 128, Completes s (.text d a b) (s.me.writeT d v) ∧ ∀ j < 128,
       v.getLsbD j = if 68 ≤ j ∧ j ≤ 78 then (s.S b).getLsbD (j - 68)
         else if 79 ≤ j ∧ j ≤ 89 then (s.S b).getLsbD (16 + (j - 79)) else (s.T a).getLsbD j) ∧
     let fld (v : BitVec 128) (lo n : Nat) : Nat := v.toNat / 2 ^ lo % 2 ^ n
     let n := fld (s.T a) 56 4
     let f := fld (s.T a) 60 8
     let cb2 : Prop := 8 ≤ f ∧ f ≤ 15
     let h := if 4 ≤ f ∧ f ≤ 6 then n + 1 else if 8 ≤ f ∧ f ≤ 15 then n - 1 else n
     let sub (i : Instr) (tval : Word) (k q : Nat) : Prop :=
       let fits : Prop := (cb2 → k + 2 ≤ n) ∧ k ≤ n
       let row := ((List.range k).map (fun i => q / 4 ^ (k - 1 - i) % 4 / 2 * 2 ^ (n - 1 - i))).sum
       let col := ((List.range k).map (fun i => q / 4 ^ (k - 1 - i) % 2 * 2 ^ (n - 1 - i))).sum
       let r0 := if (s.T a).getLsbD 92 then col else row
       let c0 := if (s.T a).getLsbD 92 then row else col
       (¬ fits → Traps s i 0x01 tval) ∧
       (fits → ∃ v : BitVec 128, Completes s i (s.me.writeT d v) ∧ fld v 0 56 = (fld (s.T a) 0 56 + q * 4 ^ (h - k)) % 2 ^ 56 ∧
         fld v 56 4 = n - k ∧ fld v 68 11 = min (fld (s.T a) 68 11 - r0) (2 ^ (n - k)) ∧ fld v 79 11 = min (fld (s.T a) 79 11 - c0) (2 ^ (n - k)) ∧
         ∀ j < 128, (60 ≤ j ∧ j < 68) ∨ 90 ≤ j → v.getLsbD j = (s.T a).getLsbD j)
     sub (.tsub d a k p) (k.setWidth 64) k.toNat (p.toNat / 4 ^ (7 - k.toNat)) ∧
     (PathBad (s.S b) → Traps s (.tsubr d a b) 0x01 (s.S b)) ∧
     (¬ PathBad (s.S b) → sub (.tsubr d a b) (s.S b) (pathCount (s.S b)) (pathDigits (s.S b))))

/-- R111, R116, R117, R118, R119, R120, R144, R104: NOP only retires; a prefix takes its turn, records what it carries and leaves the pc;
a second prefix of one kind is a misuse whose tval is that word. What retiring does to the context. The wait is over; without REP the pc
goes past the chain and the bound word; under REP the count falls and the pc stays at the chain's first word while repeats remain. -/
def Obligations.PrefixesAndRetirement : Prop :=
  (∀ (s : State) (p : BitVec 25) (c : BitVec 6) (f : BitVec 4) (k : BitVec 3) (h : BitVec 22),
     let ch := s.me.chain
     let reads (i : Instr) (c : Chain) : Prop := ∃ u, s.Only u { s.me with chain := { c with len := ch.len + 1 } } ∧ exec i s = .next u
     Completes s .nop s.me ∧
     (ch.immx = none → reads (.immx p) { ch with immx := some p }) ∧
     (ch.immx ≠ none → Traps s (.immx p) 0x05 s.irWord) ∧
     (ch.rep = none → reads (.rep c f) { ch with rep := some (c, f) }) ∧
     (ch.rep ≠ none → Traps s (.rep c f) 0x05 s.irWord) ∧
     (ch.hint = none → reads (.hint k h) { ch with hint := some (k ++ h) }) ∧
     (ch.hint ≠ none → Traps s (.hint k h) 0x05 s.irWord)) ∧
  (∀ x : Context,
     let done := { x with wait := 0, pend := .none }
     let past : Word := BitVec.ofNat 64 ((x.pc.toNat + 4 * x.chain.len + 4) % 2 ^ 56)
     (x.chain.rep = none → advance x = { done with pc := past, chain := {} }) ∧
     (∀ r, x.chain.rep = some r →
       (x.rcnt = 1 → advance x = { done with pc := past, chain := {}, rcnt := 0 }) ∧
       (x.rcnt ≠ 1 → advance x = { done with rcnt := x.rcnt - 1 })))

/-! ### Branches, jumps and windows -/

/-- R113, R133, R134, R135: a branch goes to pc + sext(disp15) × 4, wrapped to 56 bits, exactly when its condition holds. J goes to its
relative target; JR goes to S[a], or traps with 0x0D where bits [63:56] are not zero, else with 0x03 where bits [1:0] are not zero, and
the pc stays. -/
def Obligations.ControlTransfers : Prop :=
  (∀ (s : State) (a b : BitVec 5) (i : BitVec 15),
     let x := s.S a
     let y := s.S b
     let target : Word := BitVec.ofInt 64 (((s.me.pc.toNat : Int) + i.toInt * 4) % 2 ^ 56)
     let br (n : Instr) (taken : Prop) : Prop := (taken → Jumps s n s.me target) ∧ (¬ taken → Completes s n s.me)
     br (.beq a b i) (x = y) ∧ br (.bne a b i) (x ≠ y) ∧ br (.blt a b i) (x.toInt < y.toInt) ∧
     br (.bge a b i) (x.toInt ≥ y.toInt) ∧ br (.bltu a b i) (x.toNat < y.toNat) ∧ br (.bgeu a b i) (x.toNat ≥ y.toNat)) ∧
  ((∀ (s : State) (a : BitVec 5) (j : BitVec 25),
      Jumps s (.j j) s.me (BitVec.ofInt 64 (((s.me.pc.toNat : Int) + j.toInt * 4) % 2 ^ 56)) ∧
      ((s.S a).toNat / 2 ^ 56 = 0 → (s.S a).toNat % 4 = 0 → Jumps s (.jr a) s.me (s.S a)) ∧
      ((s.S a).toNat / 2 ^ 56 ≠ 0 → Traps s (.jr a) 0x0D (s.S a)) ∧
      ((s.S a).toNat / 2 ^ 56 = 0 → (s.S a).toNat % 4 ≠ 0 → Traps s (.jr a) 0x03 (s.S a))) ∧
   (∀ (d a b : BitVec 5) (j : BitVec 25),
      decode (0x26#7 ++ j) = .ok (.j j) ∧ decode (0x28#7 ++ 0#5 ++ a ++ 0#5 ++ 1#10) = .ok (.jr a) ∧
      (d ≠ 0 ∨ b ≠ 0 → ∃ e, decode (0x28#7 ++ d ++ a ++ b ++ 1#10) = .error e)))

/-- R136, R137, R138, R140: with a free window, JAL and CALLR open a window whose s31 is the link and whose other registers are zero,
raise the depth, and transfer; the window they leave is kept. CALLR reads and checks its target first. With eight windows resident they
wait for a spill, with kind 1 on the spill address, or trap where R140 refuses the spill. RET at depth 0 traps; it checks S[31]; with the
caller's window resident it discards its own and transfers; else it reads the caller's window back from the window stack, lowers `cr.wsp`
by 128 and waits for the fill. Where the rules leave it open, the choice is the model's (log 79). -/
def Obligations.WindowsOpenAndClose : Prop :=
  (∀ (s : State) (i : BitVec 25) (a : BitVec 5),
     let x := s.me
     let opens (n : Instr) (target : Word) : Prop :=
       (x.wins.length < 8 → ∃ (u : State) (y : Context),
         s.Only u (y.jump target) ∧
         y.wins.tail = x.wins ∧ y.win = x.win + 1 ∧ { y with wins := x.wins, win := x.win } = x ∧
         y.readS 31 = x.nextPc ∧ (∀ j : BitVec 5, 16 ≤ j.toNat → j.toNat < 31 → y.readS j = 0) ∧
         (∀ j : BitVec 5, j.toNat < 16 → y.readS j = x.readS j) ∧
         ∃ l, exec n s = .next (boundary (u.post l)) ∧ (6 ≤ x.wins.length → .windowSpill s.cur.core s.cur.ctx ∈ l)) ∧
       (8 ≤ x.wins.length → stackFault s s.cur x.wsp x.wsp true = none →
         ∃ t, exec n s = .next t ∧ s.Touches t x ∧ s.Waits t 1 x.wsp.toNat .reissue ∧ .windowSpill s.cur.core s.cur.ctx ∈ t.agenda) ∧
       (8 ≤ x.wins.length → ∀ c v, stackFault s s.cur x.wsp x.wsp true = some (c, v) → Traps s n c v)
     opens (.jal i) (BitVec.ofInt 64 (((x.pc.toNat : Int) + i.toInt * 4) % 2 ^ 56)) ∧
     ((s.S a).toNat / 2 ^ 56 = 0 → (s.S a).toNat % 4 = 0 → opens (.callr a) (s.S a)) ∧
     ((s.S a).toNat / 2 ^ 56 ≠ 0 → Traps s (.callr a) 0x0D (s.S a)) ∧
     ((s.S a).toNat / 2 ^ 56 = 0 → (s.S a).toNat % 4 ≠ 0 → Traps s (.callr a) 0x03 (s.S a))) ∧
  (∀ (s : State),
     let x := s.me
     let target := s.S 31
     (x.win = 0 → Traps s .ret 0x01 s.irWord) ∧
     (x.win ≠ 0 → target.toNat / 2 ^ 56 ≠ 0 → Traps s .ret 0x0D target) ∧
     (x.win ≠ 0 → target.toNat / 2 ^ 56 = 0 → target.toNat % 4 ≠ 0 → Traps s .ret 0x03 target) ∧
     (x.win ≠ 0 → target.toNat / 2 ^ 56 = 0 → target.toNat % 4 = 0 → 2 ≤ x.wins.length →
       Jumps s .ret { x with wins := x.wins.tail, win := x.win - 1 } target) ∧
     (x.win ≠ 0 → target.toNat / 2 ^ 56 = 0 → target.toNat % 4 = 0 → x.wins.length < 2 →
       let a := x.wsp - 128
       (∀ c v, stackFault s s.cur x.wsp a false = some (c, v) → Traps s .ret c v) ∧
       (stackFault s s.cur x.wsp a false = none →
         ∃ (t : State) (w : SMap Word), exec .ret s = .next t ∧
           s.Touches t { x with wins := [w], wsp := a, win := x.win - 1, pc := target, chain := {} } ∧
           s.Waits t 1 a.toNat .landed ∧ .memoryReply s.cur.core s.cur.ctx ∈ t.agenda ∧ s.SameBytes t ∧
           ∀ j < 8, SMap.get 0 w (16 + j) = lineWord (s.lineAt (.ls (resolveAlias s.cur.core a.toNat))).1 (8 * j) ∧
             SMap.get 0 w (24 + j) = lineWord (s.lineAt (.ls (resolveAlias s.cur.core a.toNat + 64))).1 (8 * j))))

/-! ### Memory -/

/-- R35, R47, R48, R146: the first checks of a scalar access, in order, each on the address with its alias resolved; a local store of a
core that the thread's partition owns needs no translation, and without protection windows the access is allowed. -/
def Obligations.AccessChecksInOrder : Prop :=
  ∀ (s : State) (ea : Word) (n : Need),
    let k := s.cur.core
    let va := if 0x00FFFFFFFFF00000 ≤ ea.toNat ∧ ea.toNat < 2 ^ 56 then 0x00F0000000000000 + k % 256 * 0x100000 + ea.toNat % 0x100000 else ea.toNat
    let ans := (checkMe s ea n).1
    (2 ^ 56 ≤ va → ans = .error 0x0D) ∧
    (va < 2 ^ 56 → n.align = true → va % n.size ≠ 0 → ans = .error 0x03) ∧
    (va < 2 ^ 56 → (n.align = true → va % n.size = 0) →
      (va / 2 ^ 52 = 0xF → va / 2 ^ 28 ≠ 0x00F000000 → ans = .error 0x08) ∧
      (va / 2 ^ 52 = 0xE → n.atomic = true → ans = .error 0x01) ∧
      (va / 2 ^ 28 = 0x00F000000 →
        let bank := va / 32768 % 32
        let c := s.core (va / 0x100000 % 256)
        let owner := bitsOf (if bank < 16 then c.bankpart0 else c.bankpart1) (4 * (bank % 16) + 3) (4 * (bank % 16))
        (s.me.level = .u → owner ≠ (s.core k).partOf s.me.slot →
          ans = .error (if n.x then 0x0B else if n.r then 0x0A else 0x09)) ∧
        (s.me.level ≠ .u ∨ owner = (s.core k).partOf s.me.slot →
          (∀ j < 16, (SMap.get 0 (s.core k).pwin (2 * j + 1)).getLsbD 3 = false) → ans = .ok { loc := .ls va })))

/-- R83, R146, R148, R303: each load reads its bytes at (S[a] + imm) mod 2^64, writes them extended to S[d], and waits for the reply;
where its line is not at hand it waits for the line, with kind 1 on the address, and issues again; a failed check traps with tval the
address. A line outside main memory and what peers have granted is at hand, and so is one that the core owns. Nothing else a program names
changes, and no byte of memory. Where the rules leave it open, the choice is the model's (log 13). -/
def Obligations.LoadsReadMemory : Prop :=
  ∀ (s : State) (d a : BitVec 5) (i : BitVec 15),
    let ea := s.S a + s.me.imm i
    let ld (n : Instr) (size : Nat) (ext : Nat → Word) : Prop :=
      (∀ t s', checkMe s ea { r := true, size := size } = (.ok t, s') →
        (∀ l, loadLine s' s'.myWho t = .ok l →
          ∃ (u : State) (v : Nat), Asks s n u (s.me.writeS d (ext v)) ea.toNat ∧ s.SameBytes u ∧ v = lineBytes l.line.1 t.loc.off size ∧
            (t.loc.place = none ∨ t.uncached = true → v = bytesToNat (s.bytesAt t.loc size))) ∧
        (∀ u, loadLine s' s'.myWho t = .error u → Retries s n 1 ea.toNat) ∧
        (t.loc.place = none ∨ (t.uncached = false ∧ s.cur.core < 1024 ∧ ∃ o, s'.micro.copyAt s.cur.core t.loc.line = some o ∧ o.st = .x) →
          ∃ l, loadLine s' s'.myWho t = .ok l ∧ l.line = s'.lineAt t.loc)) ∧
      (∀ c s', checkMe s ea { r := true, size := size } = (.error c, s') → exec n s = .next (trap s' c ea))
    ld (.ldB d a i) 1 (fun v => (BitVec.ofNat 8 v).signExtend 64) ∧
    ld (.ldH d a i) 2 (fun v => (BitVec.ofNat 16 v).signExtend 64) ∧
    ld (.ldW d a i) 4 (fun v => (BitVec.ofNat 32 v).signExtend 64) ∧
    ld (.ldD d a i) 8 (fun v => BitVec.ofNat 64 v) ∧
    ld (.ldzB d a i) 1 (fun v => BitVec.ofNat 64 (v % 2 ^ 8)) ∧
    ld (.ldzH d a i) 2 (fun v => BitVec.ofNat 64 (v % 2 ^ 16)) ∧
    ld (.ldzW d a i) 4 (fun v => BitVec.ofNat 64 (v % 2 ^ 32))

/-- R83, R98, R146, R149, R303: each store writes the low bytes of S[v] at its address, every other byte and every sideband stays, no
register changes, and the thread waits for the acknowledgement; where its line is not at hand it waits for the line and issues again;
while a barge of its own has still to read the line it waits first. A line outside main memory and what peers have granted is at hand. A
void block takes nothing. Where the rules leave it open, the choice is the model's (log 13). -/
def Obligations.StoresWriteMemory : Prop :=
  ∀ (s : State) (v a : BitVec 5) (i : BitVec 15),
    let ea := s.S a + s.me.imm i
    let wr (s' : State) (t : Target) (size : Nat) : Except State Stored := storeLine s' s'.myWho t (natToBytes size (s.S v).toNat) none false
    let st (n : Instr) (size : Nat) : Prop :=
      (∀ t s', checkMe s ea { w := true, size := size } = (.ok t, s') →
        (hazard s' (resolveAlias s.cur.core ea.toNat) = false → (t.loc.place = none → ∃ a, wr s' t size = .ok a) ∧
          (∀ u, wr s' t size = .error u → Retries s n 1 ea.toNat) ∧
          (∀ a, wr s' t size = .ok a → ∃ u, Asks s n u s.me ea.toNat ∧ u.side = s.side ∧
            (∀ pa, t.loc = .main pa ∨ t.loc = .ls pa → u.hostMem = s.hostMem ∧ u.peerMem = s.peerMem ∧ ∀ x, u.mem.read x =
              if pa ≤ x ∧ x < pa + size then BitVec.ofNat 8 ((s.S v).toNat / 256 ^ (x - pa)) else s.mem.read x) ∧
            (∀ b, t.loc = .host b → u.mem = s.mem ∧ u.peerMem = s.peerMem ∧ ∀ x, freeBytes Config.hostByte u.hostMem x 1 =
              if b ≤ x ∧ x < b + size then [BitVec.ofNat 8 ((s.S v).toNat / 256 ^ (x - b))] else freeBytes Config.hostByte s.hostMem x 1) ∧
            (∀ p f, t.loc = .foreign p f → u.mem = s.mem ∧ u.hostMem = s.hostMem ∧ ∀ x, freeBytes Config.peerByte u.peerMem x 1 =
              if peerKey p f ≤ x ∧ x < peerKey p f + size then [BitVec.ofNat 8 ((s.S v).toNat / 256 ^ (x - peerKey p f))]
              else freeBytes Config.peerByte s.peerMem x 1) ∧
            (t.loc = .void → s.SameBytes u))) ∧
        (hazard s' (resolveAlias s.cur.core ea.toNat) = true → Retries s n 1 ea.toNat)) ∧
      (∀ c s', checkMe s ea { w := true, size := size } = (.error c, s') → exec n s = .next (trap s' c ea))
    st (.stB v a i) 1 ∧ st (.stH v a i) 2 ∧ st (.stW v a i) 4 ∧ st (.stD v a i) 8

/-- R61, R64, R65, R66, R150, R201, R303: LDX writes the f32 pattern of the element under its line's own descriptor, its exact value
rounded once, and ORs the flags raised when it retires; a void line gives +0, a raw, cb2 or reserved code traps with 0x12, and a 32-bit
element that is not named at its first byte with 0x03; TLDD reads 16 bytes, low doubleword first, into T[d]; TSTD writes T[b] so. Where
its line is not at hand each waits for it and issues again. Where the rules leave it open, the choice is the model's (log 13). -/
def Obligations.ElementAndDescriptorAccesses : Prop :=
  ∀ (s : State) (d a : BitVec 5) (i : BitVec 15) (t4 : BitVec 4),
    let ea := s.S a + s.me.imm i
    let va := s.S a
    (∀ t s', checkMe s ea { r := true, size := 1, align := false, ldx := true } = (.ok t, s') →
      (∀ l, loadLine s' s'.myWho t = .ok l →
        let f := l.line.2.toNat % 256
        let scale : Int := (l.line.2.extractLsb' 8 8).toInt
        let o := t.loc.off
        let reads (v : BitVec 32) (fl : Flags5) : Prop := ∃ u, Asks s (.ldx d a i) u { s.me.writeS d (v.setWidth 64) with lateFlags := fl } ea.toNat ∧ s.SameBytes u
        let stops (c : Nat) : Prop := exec (.ldx d a i) s = .next (trap (loadedMe s' l ea.toNat) c ea)
        (scale = -128 → reads 0 0) ∧
        (scale ≠ -128 → f = 0 ∨ 6 < f → stops 0x12) ∧
        (scale ≠ -128 → 4 ≤ f → f ≤ 6 → o % 4 ≠ 0 → stops 0x03) ∧
        (scale ≠ -128 → 1 ≤ f → f ≤ 3 → ∃ v, patValue f scale (BitVec.ofNat 32 (lineBytes l.line.1 o 1)) = some v ∧
          reads (roundF32 .ne v).1 (roundF32 .ne v).2) ∧
        (scale ≠ -128 → 4 ≤ f → f ≤ 6 → o % 4 = 0 → ∃ v, patValue f scale (BitVec.ofNat 32 (lineBytes l.line.1 o 4)) = some v ∧
          reads (roundF32 .ne v).1 (roundF32 .ne v).2)) ∧
      (∀ u, loadLine s' s'.myWho t = .error u → Retries s (.ldx d a i) 1 ea.toNat)) ∧
    (∀ c s', checkMe s ea { r := true, size := 1, align := false, ldx := true } = (.error c, s') →
      exec (.ldx d a i) s = .next (trap s' c ea)) ∧
    (∀ t s', checkMe s va { r := true, size := 16 } = (.ok t, s') →
      (∀ l, loadLine s' s'.myWho t = .ok l →
        ∃ u, Asks s (.tldd t4 a) u (s.me.writeT t4 (BitVec.ofNat 128 (lineBytes l.line.1 t.loc.off 16))) va.toNat ∧ s.SameBytes u) ∧
      (∀ u, loadLine s' s'.myWho t = .error u → Retries s (.tldd t4 a) 1 va.toNat)) ∧
    (∀ c s', checkMe s va { r := true, size := 16 } = (.error c, s') → exec (.tldd t4 a) s = .next (trap s' c va)) ∧
    (∀ t s', checkMe s va { w := true, size := 16 } = (.ok t, s') →
      let wr := storeLine s' s'.myWho t (natToBytes 16 (s.T t4).toNat) none false
      (hazard s' (resolveAlias s.cur.core va.toNat) = true → Retries s (.tstd a t4) 1 va.toNat) ∧
      (hazard s' (resolveAlias s.cur.core va.toNat) = false →
        (∀ u, wr = .error u → Retries s (.tstd a t4) 1 va.toNat) ∧
        (∀ w, wr = .ok w → ∃ u, Asks s (.tstd a t4) u s.me va.toNat ∧ u.side = s.side ∧
          ∀ pa, t.loc = .main pa ∨ t.loc = .ls pa → ∀ x, u.mem.read x =
            if pa ≤ x ∧ x < pa + 16 then BitVec.ofNat 8 ((s.T t4).toNat / 256 ^ (x - pa)) else s.mem.read x))) ∧
    (∀ c s', checkMe s va { w := true, size := 16 } = (.error c, s') → exec (.tstd a t4) s = .next (trap s' c va))

/-- R61, R83, R101, R187, R319: a reply retires the waiting instruction of the context it names, with the flags that an LDX raises and the
value that a barrier's answer holds for it, and its thread is ready four cycles later; an acknowledgement of an invalidation round counts
down, and the last one lets the reply in. -/
def Obligations.RepliesRetire : Prop :=
  ∀ (s : State) (core ctx : Nat) (p : Party), core < 256 → ctx < 24 →
    let r : ThreadRef := ⟨core, ctx⟩
    let x := s.ctxOf r
    let s' : State := { s with cur := r }
    let y : Context := match x.answer with | some (d, v) => x.writeS d v | none => x
    let z : Context := { y with answer := none, readyAt := s.cycle + 4, lastWait := x.waitKind, fflags := x.fflags ||| x.lateFlags, lateFlags := 0 }
    (x.st = .bound → x.acksDue = 0 → x.pend = .reply →
      ∃ u : State, s'.Only u (advance z) ∧ exec (.memoryReply core ctx) s = .next { boundary u with cur := s.cur }) ∧
    (x.st = .bound → x.acksDue = 0 → x.pend = .landed →
      ∃ u : State, s'.Only u { z with wait := 0, pend := .none } ∧
        exec (.memoryReply core ctx) s = .next { boundary u with cur := s.cur }) ∧
    (x.acksDue = 0 → exec (.iackReceive ⟨p, r⟩) s = .next s) ∧
    (1 < x.acksDue → ∃ u : State, exec (.iackReceive ⟨p, r⟩) s = .next u ∧ s'.Only { u with cur := r } { x with acksDue := x.acksDue - 1 }) ∧
    (x.acksDue = 1 → ∃ u : State, exec (.iackReceive ⟨p, r⟩) s = .next (u.post [.memoryReply core ctx]) ∧ s'.Only { u with cur := r } { x with acksDue := 0 })

/-! ### Atomics, joins, queues and calls -/

/-- R98, R146, R153, R154, R155, R36, R271: after the checks of an atomic access, each AMO and CAS sends its request to the home of its
address, with S[b] mod 2^(8n), and waits with kind 1 until the old value returns; while a barge of its own has still to read the line it
waits first; a failed check traps with tval the address. At the home, which serves requests in order of arrival, an atomic reads n bytes,
writes what its member makes of them and answers the old value sign-extended, in one step; CAS writes only where the old value is S[d] mod
2^(8n). A bank of a local store that the thread no longer owns traps it then with 0x0A, and a line that is not delivered with 0x30. A
request that its home cannot serve yet changes no byte and no context. Where the rules leave it open, the choice is the model's (log 14).
-/
def Obligations.AtomicsActAtTheirHomes : Prop :=
  (∀ (s : State) (d a b : BitVec 5) (z : BitVec 1),
     let ea := s.S a
     let n := if z = 0 then 4 else 8
     let go (i : Instr) (op : AmoOp) : Prop :=
       (∀ t s', checkMe s ea { r := true, w := true, size := n, atomic := true } = (.ok t, s') →
         (hazard s' (resolveAlias s.cur.core ea.toNat) = false →
           Sends s i s.me 1 ea.toNat (.homeAtomic ⟨t, n, op, BitVec.ofNat 64 ((s.S b).toNat % 2 ^ (8 * n)), s.cur, d⟩)) ∧
         (hazard s' (resolveAlias s.cur.core ea.toNat) = true → Retries s i 1 ea.toNat)) ∧
       (∀ c s', checkMe s ea { r := true, w := true, size := n, atomic := true } = (.error c, s') → exec i s = .next (trap s' c ea))
     go (.amoadd d a b z) .add ∧ go (.amoand d a b z) .and ∧ go (.amoor d a b z) .or ∧ go (.amoxor d a b z) .xor ∧
     go (.amomin d a b z) .min ∧ go (.amomax d a b z) .max ∧ go (.amominu d a b z) .minu ∧ go (.amomaxu d a b z) .maxu ∧
     go (.amoswp d a b z) .swp ∧ go (.cas d a b z) (.cas (s.S d))) ∧
  (∀ (s : State) (q : AtomicReq),
     let n := q.n
     let x := s.ctxOf q.who
     let w : Who := { whoOf s q.who with self := some (.homeAtomic q) }
     let m := bytesToNat (s.bytesAt q.t.loc n)
     let y := q.y.toNat
     let signed (v : Nat) : Int := if v < 2 ^ (8 * n - 1) then v else v - 2 ^ (8 * n)
     let writes (v : Nat) : Prop := match q.op with
       | .add => v = (m + y) % 2 ^ (8 * n)
       | .and => ∀ j, v.testBit j = (m.testBit j && y.testBit j)
       | .or => ∀ j, v.testBit j = (m.testBit j || y.testBit j)
       | .xor => ∀ j, v.testBit j = (m.testBit j ^^ y.testBit j)
       | .min => v = if signed m ≤ signed y then m else y
       | .max => v = if signed m ≥ signed y then m else y
       | .minu => v = if m ≤ y then m else y
       | .maxu => v = if m ≥ y then m else y
       | .swp => v = y
       | .cas e => v = if m = e.toNat % 2 ^ (8 * n) then y else m
     Awaits s q.who → (n = 4 ∨ n = 8) → y < 2 ^ (8 * n) →
       (∀ a, q.t.loc = .ls a → bankOwned s w a = false → TrapsThread s (.homeAtomic q) s q.who 0x0A (BitVec.ofNat 64 x.waitObj)) ∧
       ((∀ a, q.t.loc = .ls a → bankOwned s w a = true) → s.delivered q.t.loc = false →
         TrapsThread s (.homeAtomic q) s q.who 0x30 (BitVec.ofNat 64 x.waitObj)) ∧
       ((∀ a, q.t.loc = .ls a → bankOwned s w a = true) → s.delivered q.t.loc = true →
         (q.t.loc.place = none → atomicGate s w q.t = .ok s) ∧
         (∀ u, atomicGate s w q.t = .error u → exec (.homeAtomic q) s = .next u ∧ s.SameBytes u ∧ u.cores = s.cores) ∧
         (∀ s', atomicGate s w q.t = .ok s' → ∃ (u : State) (v : Nat),
           Answers s (.homeAtomic q) q.who (x.writeS q.d (BitVec.ofInt 64 (signed m))) u ∧ writes v ∧ u.side = s.side ∧
           (∀ pa, q.t.loc = .main pa ∨ q.t.loc = .ls pa → u.hostMem = s.hostMem ∧ u.peerMem = s.peerMem ∧ ∀ a, u.mem.read a =
             if pa ≤ a ∧ a < pa + n then BitVec.ofNat 8 (v / 256 ^ (a - pa)) else s.mem.read a))))

/-- R28, R36, R157, R271, R305, R386: JOIN goes to the home of its block, whose high address bits are tested first and then its alignment
(the model's choice, log 48); there, once the queue's home serves it too, a counter above 1 falls, 0 stays 0, and 1 falls with the enqueue
of the block's second line, whose error or refusal traps the thread and leaves the counter. S[d] receives what the counter held. The
block's reserved bytes are not looked at (log 49). A line of the block that is not delivered traps with 0x30 and the block's address (log
67). A block in a peer's memory enqueues at the peer's queue, whose answer is free (log 6). Where the rules leave it open, the choice is
the model's (log 14). -/
def Obligations.JoinCountsDown : Prop :=
  (∀ (s : State) (d a : BitVec 5),
    let ea := s.S a
    let chk := checkMe s ea { r := true, w := true, size := 128, atomic := true }
    (2 ^ 56 ≤ ea.toNat → ∃ s', chk = (.error 0x0D, s') ∧ exec (.join d a) s = .next (trap s' 0x0D ea)) ∧
    (ea.toNat < 2 ^ 56 → ea.toNat % 128 ≠ 0 → ∃ s', chk = (.error 0x03, s') ∧ exec (.join d a) s = .next (trap s' 0x03 ea)) ∧
    (∀ t s', chk = (.ok t, s') →
      (hazard s' (resolveAlias s.cur.core ea.toNat) = false → Sends s (.join d a) s.me 1 ea.toNat (.homeJoin t s.cur d)) ∧
      (hazard s' (resolveAlias s.cur.core ea.toNat) = true → Retries s (.join d a) 1 ea.toNat)) ∧
    (∀ c s', chk = (.error c, s') → exec (.join d a) s = .next (trap s' c ea))) ∧
  (∀ (s : State) (t : Target) (r : ThreadRef) (d : BitVec 5),
    let cnt := bytesToNat (s.bytesAt t.loc 8)
    let q := bytesToNat (s.bytesAt (t.loc.add 8) 8)
    let x := s.ctxOf r
    let w : Who := { whoOf s r with self := some (.homeJoin t r d) }
    let ea : Word := BitVec.ofNat 64 x.waitObj
    Awaits s r →
      (∀ a, t.loc = .ls a → bankOwned s w a = false → TrapsThread s (.homeJoin t r d) s r 0x0A ea) ∧
      ((∀ a, t.loc = .ls a → bankOwned s w a = true) →
        (t.loc.place = none → atomicGate s w t = .ok s) ∧
        (∀ u, atomicGate s w t = .error u → exec (.homeJoin t r d) s = .next u ∧ s.SameBytes u ∧ u.cores = s.cores) ∧
        (∀ s0, atomicGate s w t = .ok s0 →
          let far := foreignLine t.loc.line
          let stands := joinGate s0 r.core (.homeJoin t r d) (joinLines s0 t)
          (cnt ≠ 1 ∨ 4096 ≤ q ∨ far = true → stands = .ok s0) ∧
          (cnt = 1 → q < 4096 → far = false → stands = homeGate s0 ((s.qtable + 64 * q) / 64) r.core .getx (.homeJoin t r d)) ∧
          (∀ u, stands = .error u → exec (.homeJoin t r d) s = .next u ∧ s.SameBytes u ∧ u.cores = s.cores) ∧
          (∀ s', stands = .ok s' →
          (s.delivered t.loc = false → TrapsThread s (.homeJoin t r d) s' r 0x30 ea) ∧
          (s.delivered t.loc = true →
          (cnt = 0 → ∃ u, Answers s (.homeJoin t r d) r (x.writeS d 0) u ∧ s.SameBytes u) ∧
          (1 < cnt → ∃ u, Answers s (.homeJoin t r d) r (x.writeS d (BitVec.ofNat 64 cnt)) u ∧ u.side = s.side ∧
            ∀ pa, t.loc = .main pa ∨ t.loc = .ls pa → ∀ a, u.mem.read a =
              if pa ≤ a ∧ a < pa + 8 then BitVec.ofNat 8 ((cnt - 1) / 256 ^ (a - pa)) else s.mem.read a) ∧
          (cnt = 1 → s.delivered (t.loc.add 64) = false → TrapsThread s (.homeJoin t r d) s' r 0x30 ea) ∧
          (cnt = 1 → far = true → ∀ c, Config.peerJoin s.tick = some c → TrapsThread s (.homeJoin t r d) s' r c.toNat (BitVec.ofNat 64 q)) ∧
          (cnt = 1 → far = true → Config.peerJoin s.tick = none → ∃ u, Answers s (.homeJoin t r d) r (x.writeS d 1) u ∧
            ∀ p f, t.loc = .foreign p f → u.mem = s.mem ∧ u.side = s.side ∧ u.hostMem = s.hostMem) ∧
          (cnt = 1 → far = false → s.delivered (t.loc.add 64) = true →
            ∀ c v, queueRefusal s q (decide (x.level = .u)) true = some (c, v) → TrapsThread s (.homeJoin t r d) s' r c v) ∧
          (cnt = 1 → far = false → s.delivered (t.loc.add 64) = true → queueRefusal s q (decide (x.level = .u)) true = none →
            ∃ u, exec (.homeJoin t r d) s = .next u ∧ (u.ctxOf r).pend = .reply ∧ (u.ctxOf r).readS d = (if d = 0 then 0 else 1) ∧
              ∀ pa, t.loc = .main pa ∨ t.loc = .ls pa → ∀ j < 8, u.mem.read (pa + j) = 0))))))

/-- R36, R159, R160, R161, R163, R173, R303: a queue's descriptor, and the refusals of a queue operation, in the table's order; a dequeue
whose record is in a line that is not delivered is refused as a bad descriptor is, with 0x30 and the queue's id (the model's choice of
tval, log 67). ENQ reads its record as a 64-byte load, for which it may have to wait and issue again, and sends it to the queue's home,
waiting with kind 9; DEQ and DEQT check S[b] as a 64-byte store first and wait with kind 5 on the queue. CALLAT sends a record that holds
its code, its route and s1 to s4 to the target core's private queue at level S, from its lowest empty reply slot. -/
def Obligations.QueueInstructionsCheckAndSend : Prop :=
  (∀ (s : State) (q : Nat) (user enq : Bool),
     let a := s.qtable + 64 * q
     let w (k : Nat) := bytesToNat (s.mem.readBytes (a + 8 * k) 8)
     let ring := w 0 % 2 ^ 52
     let c := w 1 % 32
     let sound : Prop := a + 64 ≤ s.capacity ∧ w 0 < 2 ^ 52 ∧ w 1 < 2 ^ 8 ∧ w 2 < 2 ^ 32 ∧ w 3 < 2 ^ 32 ∧ w 4 = 0 ∧ w 5 = 0 ∧ w 6 = 0 ∧
       w 7 = 0 ∧ 1 ≤ c ∧ c ≤ 20 ∧ ring % 2 ^ (c + 6) = 0 ∧ ring + 2 ^ (c + 6) ≤ s.capacity ∧ (w 1).testBit 5 = true
     let count := (w 3 + 2 ^ 32 - w 2) % 2 ^ 32
     let id : Word := BitVec.ofNat 64 q
     let ans := queueRefusal s q user enq
     (¬ sound ∨ s.delivered (.main a) = false → s.queueDesc q = none) ∧
     (sound → s.delivered (.main a) = true → s.queueDesc q = some ⟨ring, c, (w 1).testBit 6, (w 1).testBit 7, w 2, w 3⟩) ∧
     (4096 ≤ q → ans = some (0x01, id)) ∧
     (q < 4096 → s.delivered (.main a) = false → ans = some (0x30, id)) ∧
     (q < 4096 → s.delivered (.main a) = true →
       (¬ sound → ans = some (0x01, id)) ∧
       (sound → (w 1).testBit (if enq then 6 else 7) = false → user = true → ans = some (0x04, id)) ∧
       (sound → ((w 1).testBit (if enq then 6 else 7) = true ∨ user = false) →
         let bad := s.delivered (.main (ring + 64 * (w 2 % 2 ^ c)))
         (enq = true → 2 ^ c ≤ count → ans = some (0x18, id)) ∧ (enq = true → count < 2 ^ c → ans = none) ∧
         (enq = false → count ≠ 0 → bad = false → ans = some (0x30, id)) ∧ (enq = false → count = 0 ∨ bad = true → ans = none)))) ∧
  (∀ (s : State) (d a b : BitVec 5),
     let q := s.S a
     let ea := s.S b
     let user := decide (s.me.level = .u)
     (∀ t s', checkMe s ea { r := true, size := 64 } = (.ok t, s') →
       (∀ l, loadLine s' s'.myWho t = .ok l → Sends s (.enq d a b) s.me 9 q.toNat (.homeEnqueue ⟨q.toNat, l.line.1, user, none, s.cur, d⟩)) ∧
       (∀ u, loadLine s' s'.myWho t = .error u → Retries s (.enq d a b) 1 ea.toNat)) ∧
     (∀ c s', checkMe s ea { r := true, size := 64 } = (.error c, s') → exec (.enq d a b) s = .next (trap s' c ea)) ∧
     (∀ t s', checkMe s ea { w := true, size := 64 } = (.ok t, s') →
       Sends s (.deq d a b) s.me 5 q.toNat (.homeDequeue ⟨q.toNat, t, user, true, s.cur, d, s.S b⟩) ∧
       Sends s (.deqt d a b) s.me 5 q.toNat (.homeDequeue ⟨q.toNat, t, user, false, s.cur, d, s.S b⟩)) ∧
     (∀ c s', checkMe s ea { w := true, size := 64 } = (.error c, s') →
       exec (.deq d a b) s = .next (trap s' c ea) ∧ exec (.deqt d a b) s = .next (trap s' c ea)) ∧
     (256 ≤ q.toNat → Traps s (.callat d a b) 0x01 q) ∧
     (q.toNat < 256 → (∀ j < 4, SMap.get 0 s.me.rstate j ≠ 0) → Traps s (.callat d a b) 0x19 0) ∧
     (q.toNat < 256 → ∀ i < 4, SMap.get 0 s.me.rstate i = 0 → (∀ j < i, SMap.get 0 s.me.rstate j ≠ 0) →
       ∃ r : LineData, Sends s (.callat d a b) s.me 9 q.toNat (.homeEnqueue ⟨0xF00 + q.toNat, r, false, some i, s.cur, d⟩) ∧
         lineWord r 0 = s.S b ∧ lineWord r 8 = BitVec.ofNat 64 (s.cur.core % 256 * 128 + s.cur.ctx % 32 * 4 + i) ∧ lineWord r 16 = 0 ∧
         lineWord r 24 = s.S 1 ∧ lineWord r 32 = s.S 2 ∧ lineWord r 40 = s.S 3 ∧ lineWord r 48 = s.S 4 ∧
         lineWord r 56 = s.me.rcb.setWidth 64))

/-- R160, R161, R163, R305, R36, R100, R271, R367: an enqueue, in order of arrival at the queue's home, is refused with the table's cause,
or appends in one step. Where nobody stands at the queue, and no round would reach a region's record (which may write its counter back:
R290), the record's bytes lie in ring slot tail mod 2^c, raw, the tail is one more, and S[d] receives the record's number, or, for CALLAT,
the slot's, which then awaits. A dequeue, in order of arrival at the queue's home, is refused with the table's cause, or, where it finds a
record, with 0x09 if it would write to a bank that its thread no longer owns and with 0x0A if a thread below level M would read a slot
inside a protected egress region, or takes the head record in one step: the head is one more, S[d] receives its number, and the record is
written raw at S[b], at once or when its line is at hand; until the answer the wait stays. From an empty queue DEQT receives all ones, and
DEQ stands at the queue. Where the rules leave it open, the choice is the model's (log 14). -/
def Obligations.QueuesAppendAndTake : Prop :=
  (∀ (s : State) (q : EnqueueReq),
     let x := s.ctxOf q.who
     let gate := queueGate s q.queue q.who.core (.homeEnqueue q)
     Awaits s q.who →
       (4096 ≤ q.queue → gate = .ok s) ∧
       (∀ u, gate = .error u → exec (.homeEnqueue q) s = .next u ∧ s.SameBytes u ∧ u.cores = s.cores) ∧
       (∀ s0, gate = .ok s0 →
         (∀ c v, queueRefusal s q.queue q.user true = some (c, v) →
           TrapsThread s (.homeEnqueue q) s0 q.who c v) ∧
         (∀ g, queueRefusal s q.queue q.user true = none → s.queueDesc q.queue = some g →
           let v : Word := match q.call with | some i => BitVec.ofNat 64 i | none => BitVec.ofNat 64 g.tail
           let y : Context := match q.call with | some i => { x with rstate := SMap.set 0 x.rstate i 1 } | none => x
           let slot := g.ring + 64 * (g.tail % 2 ^ g.c)
           let at' := s.qtable + 64 * q.queue + 24
           (∃ u, exec (.homeEnqueue q) s = .next u ∧ (u.ctxOf q.who).readS q.d = (if q.d = 0 then 0 else v) ∧ (u.ctxOf q.who).pend = .reply ∧
             .memoryReply q.who.core q.who.ctx ∈ u.agenda) ∧
           (SMap.get [] s.waiters q.queue = [] → s.NoRecords → ∃ u, exec (.homeEnqueue q) s = .next u ∧
             (∀ r, (u.ctxOf r).regs = if r = q.who then (y.writeS q.d v).regs else (s.ctxOf r).regs) ∧
             (∀ a, u.mem.read a = if at' ≤ a ∧ a < at' + 8 then BitVec.ofNat 8 ((g.tail + 1) % 2 ^ 32 / 256 ^ (a - at'))
               else if slot ≤ a ∧ a < slot + 64 then BitVec.ofNat 8 (q.record.toNat / 256 ^ (a - slot)) else s.mem.read a) ∧
             (∀ l, SMap.get 0 u.side l = if l = slot / 64 then 0 else SMap.get 0 s.side l) ∧
             u.hostMem = s.hostMem ∧ u.peerMem = s.peerMem)))) ∧
  (∀ (s : State) (q : DequeueReq),
     let x := s.ctxOf q.who
     let gate := queueGate s q.queue q.who.core (.homeDequeue q)
     Awaits s q.who →
       (4096 ≤ q.queue → gate = .ok s) ∧
       (∀ u, gate = .error u → exec (.homeDequeue q) s = .next u ∧ s.SameBytes u ∧ u.cores = s.cores) ∧
       (∀ s0, gate = .ok s0 →
         (∀ c v, queueRefusal s q.queue q.user false = some (c, v) →
           TrapsThread s (.homeDequeue q) s0 q.who c v) ∧
         (∀ g, queueRefusal s q.queue q.user false = none → s.queueDesc q.queue = some g →
           let slot := g.ring + 64 * (g.head % 2 ^ g.c)
           let at' := s.qtable + 64 * q.queue + 16
           let headed (a : Nat) : Byte := if at' ≤ a ∧ a < at' + 8 then BitVec.ofNat 8 ((g.head + 1) % 2 ^ 32 / 256 ^ (a - at')) else s.mem.read a
           let owned := ∀ a, q.t.loc = .ls a → bankOwned s (whoOf s q.who) a = true
           let hidden := s.inEgress (.main slot) = true ∧ x.level ≠ .m
           (g.head ≠ g.tail → ¬ owned → TrapsThread s (.homeDequeue q) s0 q.who 0x09 q.va) ∧
           (g.head ≠ g.tail → owned → hidden → TrapsThread s (.homeDequeue q) s0 q.who 0x0A (BitVec.ofNat 64 q.queue)) ∧
           (g.head ≠ g.tail → owned → ¬ hidden → s.NoRecords → ∃ u, exec (.homeDequeue q) s = .next u ∧ (u.ctxOf q.who).wait = x.wait ∧
             (∀ r, (u.ctxOf r).regs = if r = q.who then (x.writeS q.d (BitVec.ofNat 64 g.head)).regs else (s.ctxOf r).regs) ∧
             ((u.ctxOf q.who).pend = .reply ∨ (u.ctxOf q.who).pend = .record q.t q.va (s.physLine slot)) ∧
             (q.t.loc.place = none → (u.ctxOf q.who).pend = .reply) ∧
             ((u.ctxOf q.who).pend = .record q.t q.va (s.physLine slot) → u.side = s.side ∧ ∀ a, u.mem.read a = headed a) ∧
             ((u.ctxOf q.who).pend = .reply → ∀ pa, q.t.loc = .main pa ∨ q.t.loc = .ls pa → SMap.get 0 u.side (pa / 64) = 0 ∧
               ∀ a, u.mem.read a = if pa ≤ a ∧ a < pa + 64 then s.mem.read (slot + (a - pa)) else headed a)) ∧
           (g.head = g.tail → q.wait = false →
             ∃ u, Answers s (.homeDequeue q) q.who (x.writeS q.d (BitVec.allOnes 64)) u ∧ s.SameBytes u ∧ (u.ctxOf q.who).wait = x.wait) ∧
           (g.head = g.tail → q.wait = true → ∃ u, exec (.homeDequeue q) s = .next u ∧
             SMap.get [] u.waiters q.queue = SMap.get [] s.waiters q.queue ++ [.thread q] ∧ s.SameBytes u ∧
             ∀ r, (u.ctxOf r).regs = (s.ctxOf r).regs ∧ (u.ctxOf r).pend = (s.ctxOf r).pend))))

/-- R162, R164, R165, R167, R245: REPLY refuses a malformed route; its value fills an awaiting slot of a resident context and is discarded
otherwise; WAITR refuses an empty slot, takes a full one and empties it, or waits with kind 2. Where the rules leave it open, the choice
is the model's (log 14). -/
def Obligations.RepliesFillSlots : Prop :=
  (∀ (s : State) (d a b : BitVec 5),
    let v := s.S a
    let i := v.toNat
    let bad := v.toNat ≥ 2 ^ 15 ∨ v.toNat / 4 % 32 > 23
    let x := s.me
    (bad → Traps s (.reply a b) 0x01 v) ∧
    (¬ bad → Sends s (.reply a b) s.me 9 (v.toNat / 128) (.replyDelivery v (s.S b) s.cur)) ∧
    (3 < i ∨ SMap.get 0 x.rstate i = 0 → Traps s (.waitr d a) 0x01 v) ∧
    (i ≤ 3 → SMap.get 0 x.rstate i = 2 →
      Observes s (.waitr d a) ({ x with rstate := SMap.set 0 x.rstate i 0 }.writeS d (SMap.get 0 x.reply i))) ∧
    (i ≤ 3 → SMap.get 0 x.rstate i ≠ 0 → SMap.get 0 x.rstate i ≠ 2 → Retries s (.waitr d a) 2 i)) ∧
  (∀ (s : State) (route value : Word) (k : ThreadRef),
    let r : ThreadRef := ⟨route.toNat / 128, route.toNat / 4 % 32⟩
    let i := route.toNat % 4
    let x := s.ctxOf r
    Awaits s k → route.toNat < 2 ^ 15 → r.ctx ≤ 23 →
      ∃ u, exec (.replyDelivery route value k) s = .next u ∧ s.SameBytes u ∧ (u.ctxOf k).pend = .reply ∧ .memoryReply k.core k.ctx ∈ u.agenda ∧
        ((x.st = .free ∨ SMap.get 0 x.rstate i ≠ 1) → ∀ j, (u.ctxOf j).regs = (s.ctxOf j).regs) ∧
        (x.st ≠ .free → SMap.get 0 x.rstate i = 1 →
          (∀ j, (u.ctxOf j).regs = if j = r then { x with reply := SMap.set 0 x.reply i value, rstate := SMap.set 0 x.rstate i 2 }.regs
            else (s.ctxOf j).regs) ∧
          (x.wait = waitWord 2 i → x.pend = .reissue → r ≠ k → .wake r.core r.ctx ∈ u.agenda)))

/-- R82, R101, R161, R168, R192, R242: WAITW of a tile program waits with kind 6 for a dispenser; the supervisor's waits for its queue and
completes when that holds a record. WAKE ends the wait of a thread whose condition is to be tested afresh, or whose line has come, at a
turn four cycles later, and the step then completes its instruction; a DEQ that has taken its record writes it then. -/
def Obligations.WorkWaits : Prop :=
  (∀ s : State,
    (s.me.slot ≠ 15 → ∃ t, exec .waitw s = .next t ∧ s.Touches t s.me ∧ s.Waits t 6 0 .work ∧ s.SameBytes t ∧
      .dispenserRequest (clusterOf s.cur.core) (0xF00 + 4 * clusterOf s.cur.core) ∈ t.agenda) ∧
    (s.me.slot = 15 → s.myCore.sq ≠ [] → Completes s .waitw s.me) ∧
    (s.me.slot = 15 → s.myCore.sq = [] → Retries s .waitw 6 0)) ∧
  (∀ (s : State) (k i : Nat),
    let r : ThreadRef := ⟨k, i⟩
    k < 256 → i < 24 →
      ((s.ctxOf r).st = .bound → (s.ctxOf r).pend = .reissue →
        ∃ u : State, exec (.wake k i) s = .next { u with woken := some r } ∧
          u = s.setCtx r { s.ctxOf r with pend := .none, readyAt := s.cycle + 4, lastWait := (s.ctxOf r).waitKind, miss := none, served := if (s.ctxOf r).miss.isSome then (s.ctxOf r).served else 0 }) ∧
      (∀ t va l, (s.ctxOf r).st = .bound → (s.ctxOf r).pend = .record t va l →
        let s1 : State := { s.setCtx r { s.ctxOf r with miss := none } with cur := r }
        (∀ v, storeLine s1 s1.myWho t (natToBytes 64 l.toNat) (some 0) false = .error v →
          ∃ u, exec (.wake k i) s = .next u ∧ s.SameBytes u ∧ (u.ctxOf r).pend = .record t va l ∧ ∀ j, (u.ctxOf j).regs = (s.ctxOf j).regs) ∧
        (∀ a, storeLine s1 s1.myWho t (natToBytes 64 l.toNat) (some 0) false = .ok a →
          ∃ u, exec (.wake k i) s = .next u ∧ (u.ctxOf r).pend = .reply ∧ (∀ j, (u.ctxOf j).regs = (s.ctxOf j).regs) ∧
            ∀ pa, t.loc = .main pa ∨ t.loc = .ls pa → SMap.get 0 u.side (pa / 64) = 0 ∧
              ∀ a, u.mem.read a = if pa ≤ a ∧ a < pa + 64 then BitVec.ofNat 8 (l.toNat / 256 ^ (a - pa)) else s.mem.read a)) ∧
      ((s.ctxOf r).st ≠ .bound ∨ ((s.ctxOf r).pend ≠ .reissue ∧ ∀ t va l, (s.ctxOf r).pend ≠ .record t va l) → exec (.wake k i) s = .next s))

/-- R161, R305, R323, R331, R332, R334, R335, R89, R333: a dispenser's request goes to the queue's home as every other; one with no head
it could take stands at the queue while it has a target; with one such head it visits that RCB, adding its quantum, less what it has
consumed, to its deficit, capped at one quantum, until the deficit is positive, and takes the record; at a granule in motion it has its
request sent again. An affinity wait ends 2^12 cycles after the record was first seen. A taken record that its dispenser refuses is
dropped and written to a supervisor queue as kind 7; a good one is bound: a thread that waits in WAITW receives its pc, s1 to s4, s5 and
its join, and keeps every other register; a vacant slot receives a new context, zero in every field but those; with no target the
dispenser tries again. -/
def Obligations.DispensersTakeAndBind : Prop :=
  ((∀ (s : State) (cl q : Nat), cl < 64 → q < 4096 →
     let gate := queueGate s q 1024 (.dispenserRequest cl q)
     let ds := SMap.get {} s.dispensers cl
     (q ∉ s.queuesOf cl → exec (.dispenserRequest cl q) s = .next s) ∧
     (q ∈ s.queuesOf cl → s.micro.lineMoving ((s.qtable + 64 * q) / 64) = true → ∃ u, exec (.dispenserRequest cl q) s = .next u ∧
       u.micro.retry = s.micro.retry ++ [((s.qtable + 64 * q) / 4096, .dispenserRequest cl q)] ∧ u.cores = s.cores ∧ s.SameBytes u) ∧
     (q ∈ s.queuesOf cl → ∀ u, gate = .error u → exec (.dispenserRequest cl q) s = .next u ∧ u.cores = s.cores ∧ s.SameBytes u) ∧
     (q ∈ s.queuesOf cl → ∀ s0, gate = .ok s0 →
       let s1 := (s.queuesOf cl).foldl (fun s q => seeHead s cl q) (withdraw (trackRuns s0 cl) q)
       (dispenserHeads s1 cl = [] → ∃ u, exec (.dispenserRequest cl q) s = .next u ∧ s.SameBytes u ∧ u.cores = s.cores ∧
         (hasTarget s1 cl q = true → .dispenser cl ∈ SMap.get [] u.waiters q) ∧ (hasTarget s1 cl q = false → u = s1)) ∧
       (∀ h g, dispenserHeads s1 cl = [h] → h.bad = false → h.level < 16 → s1.queueDesc h.queue = some g →
         let b := (s1.reg h.rcb).budget
         let quantum : Int := if b = 0 then 2 ^ 20 else max 1 ((b : Int) / 1024)
         let first := min ((SMap.get 0 ds.deficit h.rcb).toInt + quantum - SMap.get 0 ds.usedSince h.rcb) quantum
         (-(2 ^ 39) : Int) ≤ first → quantum < 2 ^ 39 → s.NoRecords →
         ∃ (u : State) (n : Nat), exec (.dispenserRequest cl q) s = .next u ∧ u.cores = s.cores ∧
           (SMap.get 0 (SMap.get {} u.dispensers cl).deficit h.rcb).toInt = first + n * quantum ∧ 0 < first + n * quantum ∧
           (n ≠ 0 → first + ((n : Int) - 1) * quantum ≤ 0) ∧
           SMap.get 0 (SMap.get {} u.dispensers cl).usedSince h.rcb = 0 ∧ (SMap.get {} u.dispensers cl).visited = h.rcb ∧
           .dispenserBind cl h.queue ∈ u.agenda ∧
           (SMap.get {} u.dispensers cl).taken = ds.taken ++ [(h.queue, s.physLine (g.ring + 64 * (g.head % 2 ^ g.c)))] ∧
           u.mem = s.mem.writeBytes (s.qtable + 64 * h.queue + 16) (natToBytes 8 ((g.head + 1) % 2 ^ 32))))) ∧
   (∀ (s : State) (cl q : Nat) (g : QDesc), cl < 64 → q < 4096 → s.queueDesc q = some g →
     let ds := SMap.get {} s.dispensers cl
     let seen := SMap.get 0 ds.firstSeen q
     let w := workRec (s.physLine (g.ring + 64 * (g.head % 2 ^ g.c)))
     (seen = 0 ∨ w.affinity = false ∨ ds.released.contains q = true → exec (.affinityTimeout cl q) s = .next s) ∧
     (seen ≠ 0 → w.affinity = true → ds.released.contains q = false →
       (s.cycle + 1 < seen + 2 ^ 12 → exec (.affinityTimeout cl q) s = .next (s.post [.affinityTimeout cl q])) ∧
       (seen + 2 ^ 12 ≤ s.cycle + 1 → ∃ u, exec (.affinityTimeout cl q) s = .next u ∧
         q ∈ (SMap.get {} u.dispensers cl).released ∧ .dispenserRequest cl q ∈ u.agenda ∧ s.SameBytes u ∧ u.cores = s.cores)))) ∧
  (∀ (s : State) (cl q : Nat) (p : Nat × LineData), cl < 64 → q < 4096 →
     (SMap.get {} s.dispensers cl).taken.find? (fun e => decide (e.1 = q)) = some p →
     let w (o : Nat) := lineWord p.2 o
     let rcb := (w 0x38).toNat % 2 ^ 32
     let bad := s.badRecord (workRec p.2)
     let home := if q / 256 = 0xF then q % 256 else 4 * cl
     (bad = true → (s.core home).sq.length < 64 → (s.core home).heldSq = [] → ∃ u, exec (.dispenserBind cl q) s = .next u ∧
       (u.core home).sq = (s.core home).sq ++ [⟨BitVec.ofNat 64 (0x01 * 2 ^ 56 + 7 * 2 ^ 52), 0, w 0, BitVec.ofNat 64 q⟩] ∧
       (SMap.get {} u.dispensers cl).taken = (SMap.get {} s.dispensers cl).taken.erase p ∧ s.SameBytes u) ∧
     (bad = false → s.bindTarget cl q rcb = none → exec (.dispenserBind cl q) s = .next (s.post [.dispenserBind cl q])) ∧
     (∀ r, bad = false → s.bindTarget cl q rcb = some (.waiting r) → (s.ctxOf r).watchHit = none → (s.ctxOf r).step = false →
       (s.ctxOf r).dbgStep = false → (s.ctxOf r).stopReq = false → (s.ctxOf r).parkReq = false → (s.ctxOf r).budgetStop = false →
       (s.ctxOf r).st = .bound → ∃ u, exec (.dispenserBind cl q) s = .next u ∧ s.SameBytes u ∧ (∀ j, j ≠ r → (u.ctxOf j).regs = (s.ctxOf j).regs) ∧
         (u.ctxOf r).regs = { (((((s.ctxOf r).writeS 1 (w 0x18)).writeS 2 (w 0x20)).writeS 3 (w 0x28)).writeS 4 (w 0x30)).writeS 5 (w 8) with
           pc := w 0, join := w 0x10, chain := {}, readyAt := s.cycle + 4 }.regs) ∧
     (∀ k slot, bad = false → s.bindTarget cl q rcb = some (.slot k slot) → slot < 15 →
       ∃ u, exec (.dispenserBind cl q) s = .next u ∧ (.dispenserBind cl q ∈ u.agenda ∨
         ∃ i, let x := (u.core k).ctx i
           x.st = .bound ∧ x.slot = slot ∧ x.level = .u ∧ x.pc = w 0 ∧ x.join = w 0x10 ∧ x.rcb = BitVec.ofNat 11 rcb ∧ x.lease = 8 ∧
           x.readS 1 = w 0x18 ∧ x.readS 2 = w 0x20 ∧ x.readS 3 = w 0x28 ∧ x.readS 4 = w 0x30 ∧ x.readS 5 = w 8 ∧
           (∀ j : BitVec 5, 5 < j.toNat → x.readS j = 0) ∧ (∀ j, x.readT j = 0) ∧ (∀ j, x.readB j = 0) ∧ x.win = 0 ∧ x.wsp = 0 ∧
           x.fflags = 0 ∧ x.rcnt = 0 ∧ x.prior = 0 ∧ x.wait = 0 ∧ x.tcause = 0 ∧ x.tval = 0 ∧ x.tpc = 0 ∧ ∀ j < 8, SMap.get 0 x.floors j = 0)))

/-! ### Rounds and bounded loads -/

/-- R174 to R177, R23, R178, R291, R292: the ROUND members check their address with the permission shown; outside every round region they
trap with 0x01. RPUB goes to the region's record. RACQ reads the counter into S[d] and the floor, RFLOOR sets the floor to S[b][31:0],
RFLOOR.clr clears its valid bit: the valid floor of the region, else the lowest invalid one; with none RACQ and RFLOOR trap with tval the
region. While the record's granule moves RACQ waits and issues again; where its check needs a page walk, RFLOOR leaves the rotation first.
RSUB writes the counter to S[d], enters the region into the core's round view table, in place of the entry entered longest ago when the
table is full, and subscribes the cluster; while the record's granule moves it waits and issues again. Where the rules leave it open, the
choice is the model's (log 22, 81 and 82). -/
def Obligations.RoundMembersAct : Prop :=
  (∀ (s : State) (d a b : BitVec 5),
     let ea := s.S a
     let x := s.me
     let floor (i : Nat) : Word := SMap.get 0 x.floors i
     let names (r i : Nat) : Prop := (floor i).getLsbD 63 = true ∧ (floor i).toNat / 2 ^ 32 % 2 ^ 12 = r
     let chosen (r i : Nat) : Prop := i < 8 ∧ ((names r i ∧ ∀ j < i, ¬ names r j) ∨
       ((∀ j < 8, ¬ names r j) ∧ (floor i).getLsbD 63 = false ∧ ∀ j < i, (floor j).getLsbD 63 = true))
     let full (r : Nat) : Prop := ∀ j < 8, (floor j).getLsbD 63 = true ∧ ¬ names r j
     let setFloor (r i v : Nat) : Context := { x with floors := SMap.set 0 x.floors i (BitVec.ofNat 64 (2 ^ 63 + r % 2 ^ 12 * 2 ^ 32 + v % 2 ^ 32)) }
     let moving (n : Nat) : Prop := ∃ g, s.regionOn n = some g ∧ s.micro.lineMoving (g.base / 64) = true
     let checks (i : Instr) (n : Need) (f : Target → Nat → State → Prop) : Prop :=
       (∀ c s', checkMe s ea { n with size := 1 } = (.error c, s') → exec i s = .next (trap s' c ea)) ∧
       (∀ t s', checkMe s ea { n with size := 1 } = (.ok t, s') → t.region = none → exec i s = .next (trap s' 0x01 ea)) ∧
       (∀ t s' r, checkMe s ea { n with size := 1 } = (.ok t, s') → t.region = some r → f t r s')
     let walked : Prop := x.wait ≠ 0 ∨ needsWalk s s.cur.core ea = false
     checks (.rpub d a) { w := true } (fun t r _ => Sends s (.rpub d a) x 1 ea.toNat (.regionRpub (regionNo t r) s.cur d)) ∧
     checks (.racq d a) { r := true } (fun t r s' =>
       (full r → exec (.racq d a) s = .next (trap s' 0x01 (BitVec.ofNat 64 r))) ∧
       (∀ i, chosen r i → moving (regionNo t r) → Retries s (.racq d a) 1 ea.toNat) ∧
       (∀ i, chosen r i → ¬ moving (regionNo t r) → ∃ (u : State) (v : BitVec 32), exec (.racq d a) s = .next u ∧ s.SameBytes u ∧
         s.Waits u 1 ea.toNat .reply ∧ .memoryReply s.cur.core s.cur.ctx ∈ u.agenda ∧
         (∀ j, (u.ctxOf j).regs = if j = s.cur then ((setFloor r i v.toNat).writeS d (v.setWidth 64)).regs else (s.ctxOf j).regs) ∧
         (∀ g, s.regionOn (regionNo t r) = some g → v = g.counter ∧ ∃ g', u.regionOn (regionNo t r) = some g' ∧ g'.counter = v ∧
           g'.subscribers = g.subscribers))) ∧
     (¬ walked → Retries s (.rfloor a b) 1 ea.toNat ∧ Retries s (.rfloorClr a) 1 ea.toNat) ∧
     (walked → checks (.rfloor a b) { r := true } (fun _ r s' =>
       (2 ^ 32 ≤ (s.S b).toNat → exec (.rfloor a b) s = .next (trap s' 0x01 (s.S b))) ∧
       ((s.S b).toNat < 2 ^ 32 → full r → exec (.rfloor a b) s = .next (trap s' 0x01 (BitVec.ofNat 64 r))) ∧
       ((s.S b).toNat < 2 ^ 32 → ∀ i, chosen r i → Passes s (.rfloor a b) (setFloor r i (s.S b).toNat)))) ∧
     (walked → checks (.rfloorClr a) {} (fun _ r _ =>
       ((∀ j < 8, ¬ names r j) → Passes s (.rfloorClr a) x) ∧
       (∀ i < 8, names r i → (∀ j < i, ¬ names r j) → ∃ v : Word, v.toNat = (floor i).toNat - 2 ^ 63 ∧
         Passes s (.rfloorClr a) { x with floors := SMap.set 0 x.floors i v })))) ∧
  (∀ (s : State) (d a : BitVec 5) (t : Target) (s' : State) (r : Nat) (g : RegionRec),
     let ea := s.S a
     let k := s.cur.core
     let n := regionNo t r
     checkMe s ea { r := true, size := 1 } = (.ok t, s') → t.region = some r → s.regionOn n = some g → k < 256 →
       (s.micro.lineMoving (g.base / 64) = true → Retries s (.rsub d a) 1 ea.toNat) ∧
       (s.micro.lineMoving (g.base / 64) = false → ∃ u g', exec (.rsub d a) s = .next u ∧ s.SameBytes u ∧ s.Waits u 1 ea.toNat .reply ∧
         (∀ j, (u.ctxOf j).regs = if j = s.cur then (s.me.writeS d (g.counter.setWidth 64)).regs else (s.ctxOf j).regs) ∧
         u.regionOn n = some g' ∧ g'.base = g.base ∧ g'.height = g.height ∧ g'.counter = g.counter ∧
         (∀ c < 64, g'.subscribers.getLsbD c = (g.subscribers.getLsbD c || decide (c = k / 4))) ∧
         ((s.core k).viewOf n = none → (u.core k).viewOf n = some g.counter) ∧
         (∀ old, (s.core k).viewOf n = some old → (u.core k).viewOf n = some (if (old - g.counter).toNat < 2 ^ 31 then old else g.counter)) ∧
         ((s.core k).viewOf n = none → 64 ≤ (s.core k).views.length → ∀ v vs, (s.core k).views = v :: vs →
           ∀ e ∈ (u.core k).views, e.region = n ∨ e.region ∈ vs.map (·.region))))

/-- R175, R290, R291, R292, R296: the record of an enabled region raises its counter by one mod 2^32, answers it in S[d], and multicasts
it to the slices that home the block and to the subscribed clusters; a level takes a round ahead of its view and ignores any other, and a
slice that takes one lets the requests that stalled for it go on. While the record's granule moves the request is sent again. Where the
rules leave it open, the choice is the model's (log 14). -/
def Obligations.RoundsArePublished : Prop :=
  (∀ (s : State) (r : Nat) (who : ThreadRef) (d : BitVec 5), Awaits s who → r < 4096 →
    (s.regionOn r = none → TrapsThread s (.regionRpub r who d) s who 0x01 (BitVec.ofNat 64 (s.ctxOf who).waitObj)) ∧
    (∀ g, s.regionOn r = some g → s.micro.lineMoving (g.base / 64) = true → exec (.regionRpub r who d) s =
      .next { s with micro := { s.micro with retry := s.micro.retry ++ [(g.base / 4096, .regionRpub r who d)] } }) ∧
    (∀ g, s.regionOn r = some g → s.micro.lineMoving (g.base / 64) = false → ∃ u g', exec (.regionRpub r who d) s = .next u ∧ s.SameBytes u ∧
      u.regionOn r = some g' ∧ g'.counter = g.counter + 1 ∧ g'.base = g.base ∧ g'.height = g.height ∧ g'.subscribers = g.subscribers ∧
      (∀ j, (u.ctxOf j).regs = if j = who then ((s.ctxOf who).writeS d ((g.counter + 1).setWidth 64)).regs else (s.ctxOf j).regs) ∧
      (u.ctxOf who).pend = .reply ∧ .memoryReply who.core who.ctx ∈ u.agenda ∧
      (∀ k ∈ s.regionSlices g, .roundMulticast (.slice k) r (g.counter + 1) ∈ u.agenda) ∧
      (∀ c < 64, g.subscribers.getLsbD c = true → .roundMulticast (.cluster c) r (g.counter + 1) ∈ u.agenda))) ∧
  (∀ (s : State) (r : Nat) (v : BitVec 32), r < 4096 → (s.regionOn r).isSome = true →
    (∀ k < 32, let old : BitVec 32 := SMap.get 0 s.sliceViews (4096 * k + r)
      ((old - v).toNat < 2 ^ 31 → exec (.roundMulticast (.slice k) r v) s = .next s) ∧
      (2 ^ 31 ≤ (old - v).toNat → ∃ u, exec (.roundMulticast (.slice k) r v) s = .next u ∧ SMap.get 0 u.sliceViews (4096 * k + r) = v ∧
        s.SameBytes u ∧ u.cores = s.cores ∧
        ∀ p ∈ s.stalled, p.slice = k →
          (p.out = false → p.region = r → (v - p.q).toNat < 2 ^ 31 → p.self ∈ u.due ∧ p ∉ u.stalled) ∧
          (p.out = false → p.region ≠ r ∨ 2 ^ 31 ≤ (v - p.q).toNat → p ∈ u.stalled) ∧
          (p.out = true → p.self ∈ u.agenda))) ∧
    (∀ c < 64, ∃ u, exec (.roundMulticast (.cluster c) r v) s = .next u ∧ s.SameBytes u ∧ (∀ j, u.ctxOf j = s.ctxOf j) ∧
      ∀ k old, k / 4 = c → (s.core k).viewOf r = some old →
        (u.core k).viewOf r = some (if (old - v).toNat < 2 ^ 31 then old else v)))

/-- R152, R294, R295, R36, R296, R305: outside every round region LDB is the ordinary load of its size and ignores S[b]; inside one S[b]
at or above 2^31 traps, and the load is for the round floor - S[b] mod 2^32: the core's L1 or the cluster's L2 slice serves it, or it goes
to the home. With no copy in either it goes to the home. A bounded request, in order of arrival at its home: a home whose view is at or
ahead of the round asked for serves the bytes as they stand, or traps the thread with 0x30 where the line is not delivered, and one behind
it stalls the load, with kind 8 on the region; once its region is disabled it is served as an access outside every round region. Where the
rules leave it open, the choice is the model's (log 20 and 21). -/
def Obligations.BoundedLoadsAct : Prop :=
  (∀ (s : State) (d a b : BitVec 5),
     let ea := s.S a
     let floor (i : Nat) : Word := SMap.get 0 s.me.floors i
     let names (r i : Nat) : Prop := (floor i).getLsbD 63 = true ∧ (floor i).toNat / 2 ^ 32 % 2 ^ 12 = r
     let floorIs (r : Nat) (f : BitVec 32) : Prop :=
       (∃ i < 8, names r i ∧ (∀ j < i, ¬ names r j) ∧ f = (floor i).setWidth 32) ∨ ((∀ j < 8, ¬ names r j) ∧ f = 0)
     let ldb (i : Instr) (n : Nat) (sx : Bool) (ext : Nat → Word) : Prop :=
       (∀ c s', checkMe s ea { r := true, size := n } = (.error c, s') → exec i s = .next (trap s' c ea)) ∧
       (∀ t s', checkMe s ea { r := true, size := n } = (.ok t, s') →
         (t.region = none →
           (∀ l, loadLine s' s'.myWho t = .ok l → ∃ u, Asks s i u (s.me.writeS d (ext (lineBytes l.line.1 t.loc.off n))) ea.toNat ∧ s.SameBytes u) ∧
           (∀ u, loadLine s' s'.myWho t = .error u → Retries s i 1 ea.toNat)) ∧
         (∀ r, t.region = some r → 2 ^ 31 ≤ (s.S b).toNat → exec i s = .next (trap s' 0x01 (s.S b))) ∧
         (∀ r f, t.region = some r → (s.S b).toNat < 2 ^ 31 → floorIs r f →
           let q : BitVec 32 := f - BitVec.ofNat 32 (s.S b).toNat
           (∀ l, serveBounded s' s'.myWho t r q true = some l →
             ∃ u, Asks s i u (s.me.writeS d (ext (lineBytes l.line.1 t.loc.off n))) ea.toNat ∧ s.SameBytes u) ∧
           (serveBounded s' s'.myWho t r q true = none → ∃ u, exec i s = .next u ∧ s.Waits u 1 ea.toNat (.bounded d n sx q t ea) ∧
             s.SameBytes u ∧ (∀ j, (u.ctxOf j).regs = (s.ctxOf j).regs) ∧ .boundedRequest s.cur.core s.cur.ctx ∈ u.agenda) ∧
           (∀ pa, t.loc = .main pa → s'.micro.copyAt s.cur.core (pa / 64) = none → s'.micro.l2At (clusterOf s.cur.core) (pa / 64) = none →
             serveBounded s' s'.myWho t r q true = none)))
     ldb (.ldbB d a b) 1 true (fun v => (BitVec.ofNat 8 v).signExtend 64) ∧
     ldb (.ldbH d a b) 2 true (fun v => (BitVec.ofNat 16 v).signExtend 64) ∧
     ldb (.ldbW d a b) 4 true (fun v => (BitVec.ofNat 32 v).signExtend 64) ∧
     ldb (.ldbD d a b) 8 true (fun v => BitVec.ofNat 64 v) ∧
     ldb (.ldbzB d a b) 1 false (fun v => BitVec.ofNat 64 (v % 2 ^ 8)) ∧
     ldb (.ldbzH d a b) 2 false (fun v => BitVec.ofNat 64 (v % 2 ^ 16)) ∧
     ldb (.ldbzW d a b) 4 false (fun v => BitVec.ofNat 64 (v % 2 ^ 32))) ∧
  (∀ (s : State) (k i : Nat) (d : BitVec 5) (n : Nat) (sx : Bool) (q : BitVec 32) (t : Target) (va : Word) (r pa : Nat),
     let w : ThreadRef := ⟨k, i⟩
     let me : Instr := .boundedRequest k i
     let s1 : State := { s with cur := w, stalled := s.stalled.filter (fun p => decide (p.self ≠ me)) }
     let x := s.ctxOf w
     let who : Who := { s1.myWho with self := some me }
     let answers (u : State) (v : Nat) : Prop := exec me s = .next { u with cur := s.cur } ∧ s1.SameBytes u ∧ (u.ctxOf w).wait = x.wait ∧
       (u.ctxOf w).pend = .reply ∧ .memoryReply k i ∈ u.agenda ∧
       ∀ j, (u.ctxOf j).regs = if j = w then (x.writeS d (ldbValue n sx v)).regs else (s.ctxOf j).regs
     k < 256 → i < 24 → x.st = .bound → x.acksDue = 0 → x.pend = .bounded d n sx q t va → t.region = some r → t.loc = .main pa →
       ((s.regionOn r).isSome = true →
         (∀ u, accessGate s1 who (pa / 64) .gets = .error u → exec me s = .next { u with cur := s.cur } ∧ s1.SameBytes u) ∧
         (∀ s2, accessGate s1 who (pa / 64) .gets = .ok s2 →
           ((s.homeView r pa - q).toNat < 2 ^ 31 → s.delivered t.loc = false → exec me s = .next { trap s2 0x30 va with cur := s.cur }) ∧
           ((s.homeView r pa - q).toNat < 2 ^ 31 → s.delivered t.loc = true → ∃ u : State, answers u (lineBytes (s.lineAt t.loc).1 (pa % 64) n)) ∧
           (2 ^ 31 ≤ (s.homeView r pa - q).toNat → ∃ (u : State) (o : Bool), exec me s = .next { u with cur := s.cur } ∧ s1.SameBytes u ∧
             s1.Waits u 8 (r % 4096) x.pend ∧ (∀ j, (u.ctxOf j).regs = (s.ctxOf j).regs) ∧
             (⟨s.micro.homeOf pa, r, q, pa, me, o⟩ : Stalled) ∈ u.stalled))) ∧
       (s.regionOn r = none →
         (∀ l, loadLine s1 s1.myWho { t with region := none } = .ok l → ∃ u : State, answers u (lineBytes l.line.1 (pa % 64) n)) ∧
         (∀ v, loadLine s1 s1.myWho { t with region := none } = .error v → ∃ u : State, exec me s = .next { u with cur := s.cur } ∧ s1.SameBytes u ∧
           s1.Waits u 1 va.toNat .reissue ∧ ∀ j, (u.ctxOf j).regs = (s.ctxOf j).regs)))

/-! ### Barriers and basins -/

/-- R180, R185, R169, R181, R183, R186: each step on a barrier entry, and when it completes the phase. The barrier instructions on a
barrier of their own core. A misuse traps with 0x1A and tval the handle; an operation takes effect on its entry alone, in one step; BTEST
and BWAIT write the status; BWAIT waits while the phase is S[b][0] and WAITE while the barrier is armed, with kind 3. Where no remote
thread waits at the barrier nothing else changes. -/
def Obligations.BarriersFollowTheRule : Prop :=
  (∀ (b : Barrier) (x n : Nat),
     let complete (b : Barrier) : Barrier := { b with phase := !b.phase, remaining := b.expected, armed := false }
     let settles (st : BarStep) (c : Barrier) : Prop :=
       (c.remaining = 0 → c.pending = 0 → barStep b st = (complete c, true)) ∧
       (c.remaining ≠ 0 ∨ c.pending ≠ 0 → barStep b st = ({ c with armed := true }, false))
     let fits (v : Int) : Prop := -(2 ^ 39) ≤ v ∧ v < 2 ^ 39
     settles .arrive { b with remaining := b.remaining - 1 } ∧
     (fits (b.pending + x) → settles (.expect x) { b with remaining := b.remaining - 1, pending := b.pending + x }) ∧
     (¬ fits (b.pending + x) → settles (.expect x) { b with remaining := b.remaining - 1, fault := true }) ∧
     (fits (b.pending - n) → settles (.landed n) { b with pending := b.pending - n }) ∧
     (¬ fits (b.pending - n) → settles (.landed n) { b with fault := true }) ∧
     settles .fork b ∧
     barStep b .cancel = (complete { b with fault := true, pending := 0 }, true)) ∧
  (∀ (s : State) (d : BitVec 5) (h : BitVec 4) (c : BitVec 5),
     let v := s.B h
     let i := v.toNat % 2 ^ 11
     let k := s.cur.core
     let b := (s.core k).barrier i
     let x := s.me
     let user := decide (x.level = .u)
     let alien : Prop := user = true ∧ b.part ≠ (s.core k).partOf x.slot
     let tv : Word := v.setWidth 64
     let status : Word := BitVec.ofNat 64 ((BitVec.ofInt 40 b.pending).toNat * 2 ^ 24 + b.remaining % 2 ^ 16 * 2 ^ 8 +
       (if b.armed then 4 else 0) + (if b.fault then 2 else 0) + (if b.phase then 1 else 0))
     let does (n : Instr) (e : Barrier) : Prop :=
       (∃ u, exec n s = .next (boundary u) ∧ s.SameBytes u ∧ (u.core k).barrier i = e ∧ ∀ j, j ≠ i → (u.core k).barrier j = (s.core k).barrier j) ∧
       ((∀ m ∈ (s.core k).bwaiters, m.index ≠ i) → ∃ u, Acts s n x u ∧ (u.core k).barrier i = e ∧
         (∀ j, j ≠ i → (u.core k).barrier j = (s.core k).barrier j) ∧ ∀ j, (u.core k).basin j = (s.core k).basin j)
     v.getLsbD 19 = true → v.toNat / 2 ^ 11 % 256 = k →
       ((s.S c).toNat < 1 ∨ 2 ^ 16 ≤ (s.S c).toNat → Traps s (.binit h c) 0x1A tv) ∧
       (1 ≤ (s.S c).toNat → (s.S c).toNat < 2 ^ 16 →
         ((b.expected ≠ 0 ∧ alien) ∨ b.armed = true → Traps s (.binit h c) 0x1A tv) ∧
         (¬ (b.expected ≠ 0 ∧ alien) → b.armed = false →
           does (.binit h c) { part := (s.core k).partOf x.slot, expected := (s.S c).toNat, remaining := (s.S c).toNat })) ∧
       (2 ^ 39 ≤ (s.S c).toNat → Traps s (.bexp h c) 0x01 (s.S c)) ∧
       (b.expected = 0 ∨ alien → Traps s (.barr h) 0x1A tv ∧ ((s.S c).toNat < 2 ^ 39 → Traps s (.bexp h c) 0x1A tv) ∧
         Traps s (.btest d h) 0x1A tv ∧ Traps s (.bwait d h c) 0x1A tv ∧ Traps s (.waite h) 0x1A tv) ∧
       (b.expected ≠ 0 → ¬ alien →
         (b.remaining = 0 → Traps s (.barr h) 0x1A tv ∧ ((s.S c).toNat < 2 ^ 39 → Traps s (.bexp h c) 0x1A tv)) ∧
         (b.remaining ≠ 0 → does (.barr h) (barStep b .arrive).1 ∧
           ((s.S c).toNat < 2 ^ 39 → does (.bexp h c) (barStep b (.expect (s.S c).toNat)).1)) ∧
         Observes s (.btest d h) (x.writeS d status) ∧
         (b.phase ≠ (s.S c).getLsbD 0 → Observes s (.bwait d h c) (x.writeS d status)) ∧
         (b.phase = (s.S c).getLsbD 0 → Retries s (.bwait d h c) 3 v.toNat) ∧
         (b.armed = false → Observes s (.waite h) x) ∧
         (b.armed = true → Retries s (.waite h) 3 v.toNat)))

/-- R89, R173, R182, R184, R187, R169, R181: an invalid handle traps with 0x1A; on a barrier of another core a barrier instruction is a
message with its operands, its partition and its level, and waits with kind 9, or kind 3 for BTEST, BWAIT and WAITE; BHSET takes a value
in the handle layout alone, and a write to b0 is discarded. The operation of a message takes effect at its barrier, and its sender is
answered, for BTEST and BWAIT with the status, which the answer holds until it arrives; a misuse traps the sender with tval the handle;
BWAIT and WAITE stand at the barrier until their condition holds. Where the rules leave it open, the choice is the model's (log 14 and
26). -/
def Obligations.BarrierMessagesAct : Prop :=
  (∀ (s : State) (d : BitVec 5) (h : BitVec 4) (c : BitVec 5),
     let v := s.B h
     let x := s.me
     let i := v.toNat % 2 ^ 11
     let k := v.toNat / 2 ^ 11 % 256
     let tv : Word := v.setWidth 64
     let msg (op : BarOp) (d : BitVec 5) : Instr :=
       .remoteBarrierOperation ⟨k, i, op, (s.core s.cur.core).partOf x.slot, decide (x.level = .u), s.cur, d, s.clkOf s.cur + 1⟩
     (v.getLsbD 19 = false → Traps s (.binit h c) 0x1A tv ∧ Traps s (.barr h) 0x1A tv ∧ Traps s (.bexp h c) 0x1A tv ∧
       Traps s (.bwait d h c) 0x1A tv ∧ Traps s (.btest d h) 0x1A tv ∧ Traps s (.waite h) 0x1A tv) ∧
     (v.getLsbD 19 = true → k ≠ s.cur.core →
       (1 ≤ (s.S c).toNat → (s.S c).toNat < 2 ^ 16 → Sends s (.binit h c) x 9 v.toNat (msg (.init (s.S c)) 0)) ∧
       Sends s (.barr h) x 9 v.toNat (msg .arrive 0) ∧
       ((s.S c).toNat < 2 ^ 39 → Sends s (.bexp h c) x 9 v.toNat (msg (.expect (s.S c)) 0)) ∧
       Sends s (.bwait d h c) x 3 v.toNat (msg (.wait ((s.S c).getLsbD 0)) d) ∧
       Sends s (.btest d h) x 3 v.toNat (msg .test d) ∧
       Sends s (.waite h) x 3 v.toNat (msg .disarmed 0)) ∧
     (2 ^ 20 ≤ (s.S c).toNat → Traps s (.bhset h c) 0x01 (s.S c)) ∧
     ((s.S c).toNat < 2 ^ 20 → ∃ y, Completes s (.bhset h c) y ∧ (∀ j, y.readB j = if j = h ∧ h ≠ 0 then (s.S c).setWidth 32 else x.readB j) ∧
       { y with handles := x.handles } = x)) ∧
  (∀ (s : State) (m : BarrierMsg),
     let k := m.core
     let i := m.index
     let b := (s.core k).barrier i
     let x := s.ctxOf m.who
     let alien : Prop := m.user = true ∧ b.part ≠ m.part
     let status : Word := BitVec.ofNat 64 ((BitVec.ofInt 40 b.pending).toNat * 2 ^ 24 + b.remaining % 2 ^ 16 * 2 ^ 8 +
       (if b.armed then 4 else 0) + (if b.fault then 2 else 0) + (if b.phase then 1 else 0))
     let misuse : Prop := TrapsThread s (.remoteBarrierOperation m) s m.who 0x1A (BitVec.ofNat 64 (2 ^ 19 + k * 2 ^ 11 + i))
     let answered (e : Barrier) (y : Context) : Prop := ∃ u, exec (.remoteBarrierOperation m) s = .next u ∧ s.SameBytes u ∧
       (u.core k).barrier i = e ∧ (∀ j, j ≠ i → (u.core k).barrier j = (s.core k).barrier j) ∧
       (∀ r, (u.ctxOf r).regs = if r = m.who then y.regs else (s.ctxOf r).regs) ∧
       (u.ctxOf m.who).pend = .reply ∧ .memoryReply m.who.core m.who.ctx ∈ u.agenda
     let stands : Prop := exec (.remoteBarrierOperation m) s =
       .next (s.setCore k { s.core k with bwaiters := (s.core k).bwaiters ++ [m] })
     Awaits s m.who → k < 256 → i < 2048 → (∀ n ∈ (s.core k).bwaiters, n.index ≠ i) →
       (∀ n, m.op = .init n →
         ((b.expected ≠ 0 ∧ alien) ∨ b.armed = true → misuse) ∧
         (¬ (b.expected ≠ 0 ∧ alien) → b.armed = false → answered { part := m.part, expected := n.toNat, remaining := n.toNat } x)) ∧
       ((∀ n, m.op ≠ .init n) → b.expected = 0 ∨ alien → misuse) ∧
       (b.expected ≠ 0 → ¬ alien →
         (m.op = .arrive → (b.remaining = 0 → misuse) ∧ (b.remaining ≠ 0 → answered (barStep b .arrive).1 x)) ∧
         (∀ n, m.op = .expect n → (b.remaining = 0 → misuse) ∧ (b.remaining ≠ 0 → answered (barStep b (.expect n.toNat)).1 x)) ∧
         (m.op = .test → answered b { x with answer := some (m.d, status) }) ∧
         (∀ p, m.op = .wait p → (b.phase = p → stands) ∧ (b.phase ≠ p → answered b { x with answer := some (m.d, status) })) ∧
         (m.op = .disarmed → (b.armed = true → stands) ∧ (b.armed = false → answered b x))))

/-- R189, R166, R170, R188, R190, R191: BSNI checks its control word, its size, its base and the ring's banks, and then sets the basin
with zero counters, or disables it; every thread that waits on the basin is woken, the slots that copy barges hold of it are forgotten,
and the claim of a waiting barge is tested afresh. The other basin members, on an enabled basin of their own core: claim, commit, take and
free a slot, each in one step, or wait with kind 4 for a free or a filled slot; a commit or a free out of turn, a number above 63 and a
basin that is not enabled trap with 0x1B. The slots of a basin with none withdrawn are named in the order of its counters, mod 512. Where
the rules leave it open, the choice is the model's (log 83). -/
def Obligations.BasinsAct : Prop :=
  (∀ (s : State) (a b : BitVec 5),
     let w := s.S a
     let n := w.toNat
     let i := n % 64
     let k := n / 2 ^ 8 % 16
     let j := n / 2 ^ 16 % 32
     let base := resolveAlias s.cur.core (s.S b).toNat
     let core := s.cur.core
     let form : Prop := n / 2 ^ 6 % 4 = 0 ∧ n / 2 ^ 12 % 16 = 0 ∧ n / 2 ^ 21 = 0
     let sized : Prop := k ≤ 8 ∧ 6 ≤ j ∧ k + j ≤ 20 ∧ base / 0x100000 = 0x00F0000000000000 / 0x100000 + core % 256 ∧ base % 2 ^ (k + j) = 0
     let owner (q : Nat) := bitsOf (if q < 16 then (s.core core).bankpart0 else (s.core core).bankpart1) (4 * (q % 16) + 3) (4 * (q % 16))
     let owned : Prop := s.me.level ≠ .u ∨ ∀ q, base % 0x100000 / 32768 ≤ q → q ≤ (base % 0x100000 + 2 ^ (k + j) - 1) / 32768 →
       owner q = (s.core core).partOf s.me.slot
     let claims (g : Barge) : Prop := opcodeOf g.cmd.word = 0x38 ∧ bitsOf g.cmd.word 8 7 = 2 ∧ bitsOf g.cmd.word 5 0 = i ∧ g.basinClaim.isSome = true
     let sets (e : Basin) : Prop := ∃ u, exec (.bsni a b) s = .next (boundary u) ∧ s.SameBytes u ∧ (u.core core).basin i = e ∧
       (∀ q, q ≠ i → (u.core core).basin q = (s.core core).basin q) ∧ .basinSlotClaim core ∈ u.agenda ∧
       (∀ r, u.ctxOf r = if r = s.cur then advance s.me else s.ctxOf r) ∧ (∀ q, (u.core core).barrier q = (s.core core).barrier q) ∧
       (∀ r, let g := ((s.core core).engine 0).barge r
         (claims g → ((u.core core).engine 0).barge r = { g with basinClaim := none, forgot := g.basinClaim }) ∧
         (¬ claims g → ((u.core core).engine 0).barge r = g)) ∧
       ∀ c, ((s.core core).ctx c).wait = waitWord 4 i → ((s.core core).ctx c).pend = .reissue → .wake core c ∈ u.due
     (¬ form → Traps s (.bsni a b) 0x1B w) ∧
     (form → j = 0 → sets {}) ∧
     (form → j ≠ 0 → core < 256 →
       (¬ sized → Traps s (.bsni a b) 0x1B w) ∧
       (sized → ¬ owned → Traps s (.bsni a b) 0x1B w) ∧
       (sized → owned → sets { k := k, j := j, enabled := true, base := BitVec.ofNat 64 base }))) ∧
  (∀ (s : State) (d a : BitVec 5),
     let v := s.S a
     let i := v.toNat
     let k := s.cur.core
     let b := (s.core k).basin i
     let free : Int := 2 ^ b.k - ((b.claim : Int) - b.release) % 512
     let slot (n : Nat) : Word := BitVec.ofNat 64 (b.base.toNat + n % 2 ^ b.k * 2 ^ b.j)
     let acts (n : Instr) (y : Context) (e : Basin) : Prop := ∃ u, Acts s n y u ∧ (b.withdrawn = [] → (u.core k).basin i = e) ∧
       (∀ q, q ≠ i → (u.core k).basin q = (s.core k).basin q) ∧ ∀ q, (u.core k).barrier q = (s.core k).barrier q
     let refused : Prop := Traps s (.bsnp d a) 0x1B v ∧ Traps s (.bsnc a) 0x1B v ∧ Traps s (.bsng d a) 0x1B v ∧ Traps s (.bsnf a) 0x1B v ∧
       Traps s (.waiteFill a) 0x1B v ∧ Traps s (.waiteFree a) 0x1B v
     (63 < i → refused) ∧ (i ≤ 63 → b.enabled = false → refused) ∧
     (i ≤ 63 → b.enabled = true → b.claim < 512 → b.commit < 512 → b.take < 512 → b.release < 512 →
       (free ≤ 0 → Retries s (.bsnp d a) 4 i ∧ Retries s (.waiteFree a) 4 i) ∧
       (0 < free → acts (.bsnp d a) (s.me.writeS d (slot b.claim)) { b with claim := (b.claim + 1) % 512 } ∧ Observes s (.waiteFree a) s.me) ∧
       (b.commit = b.take → Retries s (.bsng d a) 4 i ∧ Retries s (.waiteFill a) 4 i) ∧
       (b.commit ≠ b.take → acts (.bsng d a) (s.me.writeS d (slot b.take)) { b with take := (b.take + 1) % 512 } ∧ Observes s (.waiteFill a) s.me) ∧
       (b.commit = b.claim → Traps s (.bsnc a) 0x1B v) ∧
       (b.commit ≠ b.claim → acts (.bsnc a) s.me { b with commit := (b.commit + 1) % 512 }) ∧
       (b.release = b.take → Traps s (.bsnf a) 0x1B v) ∧
       (b.release ≠ b.take → acts (.bsnf a) s.me { b with release := (b.release + 1) % 512 })))

/-! ### Engines -/

/-- R92, R194, R195, R216: an engine instruction traps at its first failing check; else its engine takes the command, the word with its
descriptor copies, and the instruction retires; or the thread waits with kind 7 until the engine can take it. Where no remote thread waits
at a barrier the thread's own advance is all that changes in any context. -/
def Obligations.EngineCommandsFork : Prop :=
  (∀ (s : State) (d a c h p : BitVec 4) (v : BitVec 8) (k7 : BitVec 7) (n : BitVec 6) (w3 : BitVec 3) (w2 r2 : BitVec 2) (w1 : BitVec 1)
    (w5 x y : BitVec 5),
    let k := s.cur.core
    let tile (r : Option (BitVec 4)) : BitVec 128 := match r with | some r => resolveDesc k (s.T r) | none => 0
    let issues (i : Instr) (e : Nat) (m : Command) : Prop :=
      (∀ cause tval, checkCmd s k m = some (cause, tval) → Traps s i cause tval) ∧
      (checkCmd s k m = none → CanTake (s.core k) e → ∃ u r, exec i s = .next (boundary u) ∧ Forks s k e m (issuerOf s s.cur true) u r ∧
        ((∀ j, (s.core j).bwaiters = []) → ∀ t, u.ctxOf t = if t = s.cur then advance s.me else s.ctxOf t)) ∧
      (checkCmd s k m = none → ¬ CanTake (s.core k) e → ∃ t, exec i s = .next t ∧ s.Touches t s.me ∧ s.Waits t 7 e (.engine e m) ∧ s.SameBytes t)
    let row (i : Instr) (e : Nat) (td ta tb : Option (BitVec 4)) : Prop :=
      ∀ w, encode i = some w → issues i e { word := w, handle := s.B h, td := tile td, ta := tile ta, tb := tile tb }
    let copy2 (i : Instr) : Prop := row i 0 (some d) (some a) none
    let copy1 (i : Instr) : Prop := row i 0 (some d) none none
    let vec3 (i : Instr) : Prop := row i 2 (some d) (some a) (some c)
    let vec2 (i : Instr) : Prop := row i 2 (some d) (some a) none
    let vec1 (i : Instr) : Prop := row i 2 (some d) none none
    copy2 (.bcopy d a h) ∧ copy2 (.bcopyBnd d a h k7) ∧ copy2 (.bcopyBsn d a h n) ∧ copy1 (.bfill d h v) ∧
    row (.bgath d a c h) 0 (some d) (some a) (some c) ∧ row (.bscat d a c h) 0 (some d) (some a) (some c) ∧
    copy1 (.bpref d h) ∧ copy1 (.bres d h w3) ∧ copy1 (.bevict d h) ∧ copy1 (.bdemote d h) ∧ copy1 (.bown d h) ∧ copy1 (.brel d h) ∧
    row (.mxst a h w1) 1 none (some a) none ∧ row (.mxma d a h w1) 1 (some d) (some a) none ∧
    row (.mxmas d a h r2 w1) 1 (some d) (some a) none ∧
    vec3 (.vadd d a c h) ∧ vec3 (.vsub d a c h) ∧ vec3 (.vmul d a c h) ∧ vec3 (.vfma d a c h) ∧ vec3 (.vmin d a c h) ∧ vec3 (.vmax d a c h) ∧
    vec2 (.vabs d a h) ∧ vec2 (.vneg d a h) ∧ vec3 (.vand d a c h) ∧ vec3 (.vor d a c h) ∧ vec3 (.vxor d a c h) ∧ vec2 (.vnot d a h) ∧
    vec3 (.vshl d a c h) ∧ vec3 (.vshr d a c h) ∧ vec3 (.vcmp d a c h w3) ∧ vec3 (.vsel d a c h) ∧ vec2 (.vcvt d a h w2) ∧
    vec2 (.vexp2 d a h) ∧ vec2 (.vlog2 d a h) ∧ vec2 (.vrcp d a h) ∧ vec2 (.vrsq d a h) ∧ vec2 (.vtanh d a h) ∧
    vec2 (.vred d a h w1 w2) ∧ vec2 (.vscan d a h r2 w2) ∧ vec2 (.vtrn d a h) ∧ vec2 (.vbcst d a h w2) ∧ vec3 (.vgath d a c h w1) ∧
    vec2 (.vmov d a h) ∧ vec1 (.vgen d h p) ∧ vec1 (.vgenConst d h w5) ∧
    (∀ w, encode (.cbld x y) = some w → issues (.cbld x y) 1 { word := w, x := s.S x, y := s.S y }) ∧
    (∀ w, encode (.skset x y) = some w → issues (.skset x y) 1 { word := w, x := s.S x, y := s.S y })) ∧
  (∀ (s : State) (k j e : Nat) (m : Command),
    let r : ThreadRef := ⟨k, j⟩
    let x := s.ctxOf r
    k < 256 → j < 24 → x.st = .bound → x.pend = .engine e m →
      (CanTake (s.core k) e → ∃ (u : State) (q : Nat), exec (.engineAccept k j) s = .next { boundary u with cur := s.cur } ∧ u.cur = r ∧
        Forks s k e m (issuerOf s r true) u q ∧
        ((∀ j, (s.core j).bwaiters = []) → ∀ t, u.ctxOf t = if t = r then advance { x with readyAt := s.cycle + 4, lastWait := 7 } else s.ctxOf t)) ∧
      (¬ CanTake (s.core k) e → exec (.engineAccept k j) s = .next s))

/-- R32, R39, R46, R51, R90, R91, R99, R195, R196, R216, R97: a descriptor is valid under the fields of R90; BCOPY and VADD trap at the
first failing check of R195, with the number of the register, td before ta before tb within one check (the model's choice, log 18); CBLD
and SKSET check their operands. A unit that faults has written nothing. -/
def Obligations.EngineChecksAndFaults : Prop :=
  (∀ (s : State) (k : Nat) (d a b h : BitVec 4) (m : Command), k < 256 →
     let f (v : BitVec 128) (hi lo : Nat) : Nat := v.toNat / 2 ^ lo % 2 ^ (hi + 1 - lo)
     let base (v : BitVec 128) := f v 55 0
     let height (v : BitVec 128) := (Tile.ofBits v).height
     let good (v : BitVec 128) : Prop := (Tile.ofBits v).valid = true
     let wide (v : BitVec 128) : Prop := fclass (f v 67 60) = .b32
     let narrow (v : BitVec 128) : Prop := fclass (f v 67 60) = .b8
     let own (v : BitVec 128) : Prop := base v / 2 ^ 20 = 0x00F0000000000000 / 2 ^ 20 + k
     let same (v w : BitVec 128) : Prop := f v 59 56 = f w 59 56 ∧ f v 78 68 = f w 78 68 ∧ f v 89 79 = f w 89 79
     let overlap (v w : BitVec 128) : Prop := base v / 4 ^ max (height v) (height w) = base w / 4 ^ max (height v) (height w)
     let inPlace (v w : BitVec 128) : Prop := base v = base w ∧ height v = height w ∧ fclass (f v 67 60) = fclass (f w 67 60) ∧ f v 92 92 = f w 92 92
     let num (r : BitVec 4) : Word := r.setWidth 64
     let ans := checkCmd s k m
     (wide m.td → (good m.td ↔ f m.td 59 56 ≤ 10 ∧ 1 ≤ f m.td 78 68 ∧ f m.td 78 68 ≤ 2 ^ f m.td 59 56 ∧ 1 ≤ f m.td 89 79 ∧
       f m.td 89 79 ≤ 2 ^ f m.td 59 56 ∧ base m.td % 4 ^ (f m.td 59 56 + 1) = 0 ∧ f m.td 127 103 = 0 ∧ f m.td 94 93 ≠ 3 ∧
       padBad (f m.td 67 60) (f m.td 91 90) = false ∧ blockInRange (base m.td) (f m.td 59 56 + 1) = true)) ∧
     (narrow m.td → (good m.td ↔ f m.td 59 56 ≤ 10 ∧ 1 ≤ f m.td 78 68 ∧ f m.td 78 68 ≤ 2 ^ f m.td 59 56 ∧ 1 ≤ f m.td 89 79 ∧
       f m.td 89 79 ≤ 2 ^ f m.td 59 56 ∧ base m.td % 4 ^ f m.td 59 56 = 0 ∧ f m.td 127 103 = 0 ∧ f m.td 94 93 ≠ 3 ∧
       padBad (f m.td 67 60) (f m.td 91 90) = false ∧ blockInRange (base m.td) (f m.td 59 56) = true)) ∧
     (encode (.bcopy d a h) = some m.word →
       let lost (v : BitVec 128) : Prop := base v / 2 ^ 52 = 0xF ∧ base v / 2 ^ 28 ≠ 0x00F000000
       (¬ good m.td → ans = some (0x10, num d)) ∧
       (good m.td → ¬ good m.ta → ans = some (0x10, num a)) ∧
       (good m.td → good m.ta →
         (lost m.td → ans = some (0x01, num d)) ∧
         (¬ lost m.td → lost m.ta → ans = some (0x01, num a)) ∧
         (¬ lost m.td → ¬ lost m.ta →
           let fits : Prop := same m.ta m.td ∧ f m.ta 92 92 = f m.td 92 92 ∧ fclass (f m.ta 67 60) = fclass (f m.td 67 60)
           (¬ fits → ans = some (0x13, num a)) ∧
           (fits → overlap m.ta m.td → ans = some (0x11, num a)) ∧
           (fits → ¬ overlap m.ta m.td → f m.td 94 93 = 2 → ans = some (0x10, num d)) ∧
           (fits → ¬ overlap m.ta m.td → f m.td 94 93 ≠ 2 → ans = none)))) ∧
     (encode (.vadd d a b h) = some m.word →
       let raw (v : BitVec 128) : Prop := f v 67 60 = 0 ∨ fclass (f v 67 60) = .cb2
       (¬ good m.td → ans = some (0x10, num d)) ∧
       (good m.td → ¬ good m.ta → ans = some (0x10, num a)) ∧
       (good m.td → good m.ta → ¬ good m.tb → ans = some (0x10, num b)) ∧
       (good m.td → good m.ta → good m.tb →
         (¬ own m.td → ans = some (0x01, num d)) ∧
         (own m.td → ¬ own m.ta → ans = some (0x01, num a)) ∧
         (own m.td → own m.ta → ¬ own m.tb → ans = some (0x01, num b)) ∧
         (own m.td → own m.ta → own m.tb →
           (raw m.td → ans = some (0x12, num d)) ∧
           (¬ raw m.td → raw m.ta → ans = some (0x12, num a)) ∧
           (¬ raw m.td → ¬ raw m.ta → raw m.tb → ans = some (0x12, num b)) ∧
           (¬ raw m.td → ¬ raw m.ta → ¬ raw m.tb →
             let clash (v : BitVec 128) : Prop := overlap v m.td ∧ ¬ inPlace v m.td
             (¬ same m.ta m.td → ans = some (0x13, num a)) ∧
             (same m.ta m.td → ¬ same m.tb m.td → ans = some (0x13, num b)) ∧
             (same m.ta m.td → same m.tb m.td → clash m.ta → ans = some (0x11, num a)) ∧
             (same m.ta m.td → same m.tb m.td → ¬ clash m.ta → clash m.tb → ans = some (0x11, num b)) ∧
             (same m.ta m.td → same m.tb m.td → ¬ clash m.ta → ¬ clash m.tb → ans = none))))) ∧
     (∀ x y, encode (.cbld x y) = some m.word →
       (8 ≤ m.x.toNat → ans = some (0x01, m.x)) ∧ (m.x.toNat < 8 → m.y.toNat % 512 ≠ 0 → ans = some (0x01, m.y)) ∧
       (m.x.toNat < 8 → m.y.toNat % 512 = 0 → ans = none)) ∧
     (∀ x y, encode (.skset x y) = some m.word →
       let stray : Prop := m.y.toNat % 2 ≠ 0 ∨ (m.y.toNat / 2 ^ 20 ≠ 0x00F0000000000000 / 2 ^ 20 + k ∧ m.y.toNat / 2 ^ 20 ≠ 0x00FFFFFFFFF00000 / 2 ^ 20)
       (4 ≤ m.x.toNat → ans = some (0x01, m.x)) ∧ (m.x.toNat < 4 → stray → ans = some (0x01, m.y)) ∧
       (m.x.toNat < 4 → ¬ stray → ans = none))) ∧
  (∀ (s : State) (k e : Nat) (b : Barge) (i : Nat) (metered : Bool) (c v : Nat) (s' : State),
     processUnit s k e b i metered = .error (.fault c v s') → s.SameBytes s')

/-- R94, R95, R96, R97, R191: an engine runs at most one barge and starts those that are queued or resumed in issue order, but for one
held back by a parked earlier barge; units run in order; a faulting unit parks the barge with its cursor, cause and address; the earliest
barge alone completes, and its record is freed. The running basin copy claims a slot as BSNP does, once, when one is free, and goes on at
that slot's address; a basin disabled meanwhile sends it to its first unit, which parks it. Where the rules leave it open, the choice is
the model's (log 24). -/
def Obligations.BargesRunInOrder : Prop :=
  (∀ (s : State) (k e : Nat), k < 256 → e < 3 →
     let g := (s.core k).engine e
     let eng (u : State) : Engine := (u.core k).engine e
     (g.running ≠ none → exec (.bargeStart k e) s = .next s) ∧
     (∀ r ∈ g.resumed ++ g.queue, g.running = none → (∀ x ∈ g.resumed ++ g.queue, x ≠ r → (g.barge r).seq < (g.barge x).seq) →
       (∀ p ∈ g.recs, p.2.st ≠ .parked) → ∃ u, exec (.bargeStart k e) s = .next u ∧
       (eng u).running = some r ∧ (eng u).queue = g.queue.filter (fun x => decide (x ≠ r)) ∧
       (eng u).resumed = g.resumed.filter (fun x => decide (x ≠ r)) ∧ ((eng u).barge r).st = .running ∧
       ((eng u).barge r).cmd = (g.barge r).cmd ∧ ((eng u).barge r).cursor = (g.barge r).cursor ∧ .bargeUnit k e ∈ u.agenda ∧ s.SameBytes u ∧
       ∀ t, u.ctxOf t = s.ctxOf t) ∧
     (∀ r p, g.running = none → g.resumed ++ g.queue = [r] → p ∈ g.recs → p.2.st = .parked → p.2.seq < (g.barge r).seq →
       (∃ x ∈ (g.barge r).reads ++ (g.barge r).writes, ∃ y ∈ p.2.writes, x.1 / 4 ^ max x.2 y.2 = y.1 / 4 ^ max x.2 y.2) →
       exec (.bargeStart k e) s = .next s) ∧
     (g.running = none → exec (.bargeUnit k e) s = .next s) ∧
     (∀ r, g.running = some r →
       let b := g.barge r
       let done (u : State) : Prop := (eng u).running = none ∧ ((eng u).barge r).st = .done ∧ .bargeComplete k e ∈ u.agenda ∧ .bargeStart k e ∈ u.agenda
       (nextUnit b.cmd b.cursor = none → ∃ u, exec (.bargeUnit k e) s = .next u ∧ done u) ∧
       (∀ i, nextUnit b.cmd b.cursor = some i → b.watchHit = none → b.needsSlot = false →
         (∀ b' s', processUnit s k e { b with cursor := i } i b.paid = .ok (b', s') →
           (nextUnit b'.cmd (i + 1) = none → ∃ u, exec (.bargeUnit k e) s = .next u ∧ s'.SameBytes u ∧ done u) ∧
           (nextUnit b'.cmd (i + 1) ≠ none → ∃ u, exec (.bargeUnit k e) s = .next u ∧ s'.SameBytes u ∧
             (eng u).barge r = { b' with cursor := i + 1, asked := false, paid := false } ∧ .bargeUnit k e ∈ u.agenda)) ∧
         (∀ b' s', processUnit s k e { b with cursor := i } i b.paid = .error (.wait b' s') → ∃ u, exec (.bargeUnit k e) s = .next u ∧
           s'.SameBytes u ∧ (eng u).barge r = { b' with cursor := i, watchHit := none, paid := b.paid }) ∧
         (∀ c v s', processUnit s k e { b with cursor := i } i b.paid = .error (.fault c v s') →
           (s'.core b.issuerCore).sq.length < 64 → (s'.core b.issuerCore).heldSq = [] → s'.threadExists b.tid = true →
           ∃ u x, exec (.bargeUnit k e) s = .next u ∧ s'.SameBytes u ∧ (eng u).running = none ∧ ((eng u).barge r).st = .parked ∧
             ((eng u).barge r).cursor = i ∧ ((eng u).barge r).cause = BitVec.ofNat 8 c ∧ ((eng u).barge r).faultAddr.toNat = v % 2 ^ 56 ∧
             (u.core b.issuerCore).sq = (s'.core b.issuerCore).sq ++ [x] ∧ x.w0.toNat / 2 ^ 56 = c % 256 ∧ x.w0.toNat / 2 ^ 52 % 16 = 5 ∧
             x.w2.toNat = v % 2 ^ 56 ∧ x.w3.toNat = i % 2 ^ 24 ∧ .bargeStart k e ∈ u.agenda))) ∧
     (∀ r b, g.earliest = some (r, b) → b.st ≠ .done → b.st ≠ .cancelled → exec (.bargeComplete k e) s = .next s) ∧
     (∀ r b, g.earliest = some (r, b) → b.st = .done ∨ b.st = .cancelled → ∃ u, exec (.bargeComplete k e) s = .next u ∧
       ((eng u).barge r).st = .free ∧ (∀ q, q ≠ r → (eng u).barge q = g.barge q) ∧ .bargeComplete k e ∈ u.agenda ∧ .bargeStart k e ∈ u.agenda ∧
       (∀ t, s.residentTid b.tid = some t → (∀ j, (s.core j).bwaiters = []) → (u.ctxOf t).fflags = (s.ctxOf t).fflags ||| b.flags))) ∧
  (∀ (s : State) (k r : Nat), k < 256 →
     let g := (s.core k).engine 0
     let b := g.barge r
     let n := b.cmd.word.toNat % 64
     let bs := (s.core k).basin n
     (g.running = none → exec (.basinSlotClaim k) s = .next s) ∧
     (g.running = some r → (isBsn b.cmd.word = false ∨ b.basinClaim ≠ none ∨ b.forgot ≠ none) → exec (.basinSlotClaim k) s = .next s) ∧
     (g.running = some r → isBsn b.cmd.word = true → b.basinClaim = none → b.forgot = none →
       (bs.enabled = false → exec (.basinSlotClaim k) s = .next (s.post [.bargeUnit k 0])) ∧
       (bs.enabled = true → bs.free = 0 → exec (.basinSlotClaim k) s = .next s) ∧
       (bs.enabled = true → bs.free ≠ 0 → ∃ u, exec (.basinSlotClaim k) s = .next u ∧ s.SameBytes u ∧ (∀ t, u.ctxOf t = s.ctxOf t) ∧
         (((u.core k).engine 0).barge r).basinClaim = some bs.claim ∧
         (((u.core k).engine 0).barge r).cmd.td.toNat % 2 ^ 56 = (bs.base.toNat + bs.claim % 2 ^ bs.k * 2 ^ bs.j) % 2 ^ 64 % 2 ^ 56 ∧
         (bs.withdrawn = [] → (u.core k).basin n = { bs with claim := (bs.claim + 1) % 512 }) ∧ .bargeUnit k 0 ∈ u.agenda)))

/-- R93, R97, R228, R261: ECTL and ESTAT: their checks, the words of a record, resuming a parked record, whose members then follow
ECTL.res and which waits to start beside the command queue (the model's choice, log 58), and cancelling one, and the status word. -/
def Obligations.EngineControl : Prop :=
  ∀ (s : State) (d a b : BitVec 5) (e : BitVec 2),
    let k := s.cur.core
    let r := (s.S a).toNat
    let w := (s.S b).toNat
    let g := (s.core k).engine e.toNat
    let x := g.barge r
    let user : Prop := s.me.level = .u
    let code (t : BState) : Nat := match t with | .free => 0 | .queued => 1 | .running => 2 | .parked => 3 | .done => 4 | .cancelled => 5
    let frame (u : State) : Prop := (∀ t, u.ctxOf t = if t = s.cur then advance s.me else s.ctxOf t) ∧ s.SameBytes u
    (8 ≤ r → Traps s (.ectlRd d a b e) 0x01 (s.S a)) ∧
    (r < 8 → 13 ≤ w → Traps s (.ectlRd d a b e) 0x01 (s.S b)) ∧
    (r < 8 → w < 13 → user → x.st ≠ .free → x.tid ≠ s.me.tid → Traps s (.ectlRd d a b e) 0x04 s.irWord) ∧
    (r < 8 → w < 13 → (¬ user ∨ x.st = .free ∨ x.tid = s.me.tid) → ∃ v, Writes s (.ectlRd d a b e) d v ∧
      (x.st = .free → v = 0) ∧
      (x.st ≠ .free →
        (w = 0 → v = BitVec.ofNat 64 (x.cause.toNat * 2 ^ 56 + x.cursor % 2 ^ 24 * 2 ^ 32 + (x.issuerCore % 256 * 16 + x.slot % 16) * 2 ^ 20 +
          code x.st * 2 ^ 17 + (k % 256 * 2 ^ 5 + e.toNat * 2 ^ 3 + r))) ∧
        (w = 1 → v = x.faultAddr) ∧ (w = 2 → v = x.rcb.setWidth 64) ∧ (w = 3 → v = x.cmd.word.setWidth 64) ∧
        (w = 4 → v = x.cmd.td.setWidth 64) ∧ (w = 5 → v = x.cmd.td.extractLsb' 64 64) ∧
        (w = 6 → v = x.cmd.ta.setWidth 64) ∧ (w = 7 → v = x.cmd.ta.extractLsb' 64 64) ∧
        (w = 8 → v = x.cmd.tb.setWidth 64) ∧ (w = 9 → v = x.cmd.tb.extractLsb' 64 64) ∧
        (w = 10 → v = x.cmd.handle.setWidth 64) ∧
        (w = 11 → v = if x.cmd.word.toNat / 2 ^ 25 = 0x38 then BitVec.ofNat 64 (x.cmd.word.toNat % 128)
          else if x.cmd.word.toNat / 2 ^ 25 = 0x42 then x.stream.addr else 0) ∧
        (w = 12 → v = x.flags.setWidth 64))) ∧
    (user → Traps s (.ectlRes a e) 0x04 s.irWord ∧ Traps s (.ectlCan a e) 0x04 s.irWord) ∧
    (¬ user → (8 ≤ r ∨ x.st ≠ .parked) → Traps s (.ectlRes a e) 0x01 (s.S a) ∧ Traps s (.ectlCan a e) 0x01 (s.S a)) ∧
    (¬ user → r < 8 → x.st = .parked →
      (∃ u, exec (.ectlRes a e) s = .next (boundary u) ∧ frame u ∧ .bargeStart k e.toNat ∈ u.agenda ∧
        ((u.core k).engine e.toNat).barge r = { x with st := .queued, cause := 0, faultAddr := 0, lines := [], asked := false,
                                                       clk := max (max x.clk x.doneClk) (s.clkOf s.cur) } ∧
        (∀ q, q ≠ r → ((u.core k).engine e.toNat).barge q = g.barge q) ∧
        ((u.core k).engine e.toNat).queue = g.queue ∧ ((u.core k).engine e.toNat).resumed = g.resumed ++ [r]) ∧
      (∃ u, exec (.ectlCan a e) s = .next (boundary u) ∧ frame u ∧ .bargeComplete k e.toNat ∈ u.agenda ∧
        (((u.core k).engine e.toNat).barge r).st = .cancelled ∧ (((u.core k).engine e.toNat).barge r).cursor = x.cursor ∧
        ∀ q, q ≠ r → ((u.core k).engine e.toNat).barge q = g.barge q)) ∧
    (∃ v : Word, Observes s (.estat d e) (s.me.writeS d v) ∧ (∀ i < 8, v.toNat / 2 ^ (3 * i) % 8 = code (g.barge i).st) ∧
      v.toNat / 2 ^ 27 % 2 = (if g.running = none then 0 else 1) ∧ (∀ i, g.running = some i → i < 8 → v.toNat / 2 ^ 24 % 8 = i) ∧
      (g.queue.length < 4 → v.toNat / 2 ^ 28 = g.queue.length))

/-- R171, R172, R209, R303, R352: SEND reads its command line as a 64-byte load, for which it may have to wait, checks its word and its
target, and sends the command; the target checks it as its own issue would and takes it for the sender, which receives the barge's id, or
0 from a hub; a refusal traps the sender with tval S[b]; while the engine cannot take it the command waits in the hub's message buffer.
Where the rules leave it open, the choice is the model's (log 14 and 80). -/
def Obligations.SendReachesEngines : Prop :=
  (∀ (s : State) (d a b : BitVec 5) (e : BitVec 2),
    let n := (s.S a).toNat
    let ea := s.S b
    let lim := if e = 3 then 64 else 256
    (∀ c s', checkMe s ea { r := true, size := 64 } = (.error c, s') → exec (.send d a b e) s = .next (trap s' c ea)) ∧
    (∀ t s', checkMe s ea { r := true, size := 64 } = (.ok t, s') →
      (∀ u, loadLine s' s'.myWho t = .error u → Retries s (.send d a b e) 1 ea.toNat) ∧
      (∀ ld, loadLine s' s'.myWho t = .ok ld →
        let l := ld.line.1
        let word : BitVec 32 := l.setWidth 32
        (lineCommand s.cur.core l = none ∨ sendWordOk e.toNat word = false → exec (.send d a b e) s = .next (trap (loadedMe s' ld ea.toNat) 0x01 ea)) ∧
        (∀ c, lineCommand s.cur.core l = some c → sendWordOk e.toNat word = true → c.word = word ∧ c.handle = l.extractLsb' 32 32 ∧
          let m : SendMsg := ⟨e.toNat, n, word, c.handle, c.td, c.ta, c.tb, s.cur, d, ea⟩
          (lim ≤ n → exec (.send d a b e) s = .next (trap (loadedMe s' ld ea.toNat) 0x01 (s.S a))) ∧
          (n < lim → e ≠ 3 → Sends s (.send d a b e) s.me 9 n (.sendCommandReceipt m)) ∧
          (n < lim → e = 3 → Sends s (.send d a b e) s.me 9 n (.hubCommand m)))))) ∧
  (∀ (s : State) (m : SendMsg), Awaits s m.who →
    let c : Command := { word := m.command, handle := m.handle, td := m.d0, ta := m.d1, tb := m.d2 }
    let received (i : Instr) (k e : Nat) (id : Nat → Nat) : Prop :=
      (∀ cause v, checkCmd s k c = some (cause, v) → TrapsThread s i s m.who cause m.addr) ∧
      (checkCmd s k c = none → CanTake (s.core k) e → ∃ u r, exec i s = .next u ∧ Forks s k e c (issuerOf s m.who false) u r ∧
        (u.ctxOf m.who).readS m.d = (if m.d = 0 then 0 else BitVec.ofNat 64 (id r)) ∧ (u.ctxOf m.who).pend = .reply ∧
        .memoryReply m.who.core m.who.ctx ∈ u.agenda) ∧
      (checkCmd s k c = none → ¬ CanTake (s.core k) e → exec i s =
        .next { s with hubBuf := SMap.set [] s.hubBuf (k / 4) (SMap.get [] s.hubBuf (k / 4) ++ [i]) })
    (m.target < 256 → m.e < 3 → received (.sendCommandReceipt m) m.target m.e (fun r => m.target * 2 ^ 5 + m.e * 2 ^ 3 + r)) ∧
    (m.target < 64 → m.command.toNat / 2 ^ 25 = 0x38 →
      let a := m.d0.toNat % 2 ^ 56
      let k := a / 2 ^ 20 % 256
      (a / 2 ^ 28 = 0x00F000000 → k / 4 = m.target → received (.hubCommand m) k 0 (fun _ => 0)) ∧
      (a / 2 ^ 28 ≠ 0x00F000000 ∨ k / 4 ≠ m.target → TrapsThread s (.hubCommand m) s m.who 0x01 m.addr)) ∧
    (m.target < 64 → m.command.toNat / 2 ^ 25 ≠ 0x38 →
      (∀ cause v, checkCmd s (4 * m.target) c = some (cause, v) → TrapsThread s (.hubCommand m) s m.who cause m.addr) ∧
      (checkCmd s (4 * m.target) c = none →
        let i := issuerOf s m.who false
        let w : Who := ⟨4 * m.target, i.core, i.slot, i.level, i.part, i.clk, leaseOf i.lease, none, some (.hubCommand m), false⟩
        let t := Tile.ofBits m.d0
        let fetch := hubPrefetch m.target w t ((List.range t.lines).filter t.lineLive) s
        (∀ s', fetch = .error s' → exec (.hubCommand m) s = .next s' ∧ s.SameBytes s') ∧
        (∀ s', fetch = .ok s' → ∃ u, exec (.hubCommand m) s = .next u ∧ s.SameBytes u ∧ (u.ctxOf m.who).readS m.d = 0 ∧
          (u.ctxOf m.who).pend = .reply ∧ .memoryReply m.who.core m.who.ctx ∈ u.agenda))))

/-- R226, R227: XBSET and XBARM check and program their entry, which another partition's user may not, and write what it held; a term
whose conditions all hold fires, subtracts its thresholds, asserts its staged register and stays armed only if it rearms; a staged launch
forks its barge for the programming thread, or writes a kind 6 record and disables the register. XBARM.off drops the launches that wait in
the registers its terms start (the model's choice, log 63). Where the rules leave it open, the choice is the model's (log 63 and 80). -/
def Obligations.CrossbarProgramsAndFires : Prop :=
  (∀ (s : State) (d a b : BitVec 5),
    let k := s.cur.core
    let c := s.core k
    let va := s.S a
    let vb := s.S b
    let i := va.toNat
    let part := c.partOf s.me.slot
    let foreign (owner : Nat) : Prop := s.me.level = .u ∧ owner ≠ 0 ∧ owner ≠ part + 1
    let counter (n : Nat) : XCounter := SMap.get {} c.counters n
    let term (n : Nat) : XTerm := SMap.get {} c.terms n
    let staged (n : Nat) : Staged := SMap.get {} c.staged n
    let done (n : Instr) (v : Word) (f : Core → Prop) : Prop := ∃ u, exec n s = .next (boundary u) ∧ s.SameBytes u ∧
      (∀ t, u.ctxOf t = if t = s.cur then advance (s.me.writeS d v) else s.ctxOf t) ∧ f (u.core k)
    let kind := vb.toNat % 16
    let badSource : Prop := vb.toNat / 2 ^ 4 % 2 ^ 12 ≠ 0 ∨ vb.toNat / 2 ^ 27 ≠ 0 ∨ 5 < kind ∨ (kind = 5 ∧ vb.toNat / 2 ^ 22 ≠ 0)
    (32 ≤ i → Traps s (.xbsetCtr d a b) 0x01 va) ∧
    (i < 32 → foreign (counter i).owner → Traps s (.xbsetCtr d a b) 0x04 va) ∧
    (i < 32 → ¬ foreign (counter i).owner → badSource → Traps s (.xbsetCtr d a b) 0x01 vb) ∧
    (i < 32 → ¬ foreign (counter i).owner → ¬ badSource → done (.xbsetCtr d a b) (BitVec.ofNat 64 (counter i).count) (fun y =>
      SMap.get {} y.counters i = ⟨kind, vb.toNat / 2 ^ 16 % 2 ^ 11, 0, part + 1, 0⟩ ∧ (∀ j, j ≠ i → SMap.get {} y.counters j = counter j) ∧
      y.terms = c.terms ∧ y.armed = c.armed ∧ y.staged = c.staged)) ∧
    (let n := i % 64
     let r := i / 2 ^ 8 % 16
     let bad : Prop := i / 2 ^ 6 % 4 ≠ 0 ∨ i / 2 ^ 13 ≠ 0
     let alien : Prop := foreign (term n).owner ∨ foreign (staged r).owner ∨
       ∃ j < 4, vb.getLsbD (16 * j + 15) = true ∧ foreign (counter (vb.toNat / 2 ^ (16 * j + 10) % 32)).owner
     (bad → Traps s (.xbsetTerm d a b) 0x01 va) ∧
     (¬ bad → alien → Traps s (.xbsetTerm d a b) 0x04 va) ∧
     (¬ bad → ¬ alien → done (.xbsetTerm d a b) (term n).conds (fun y =>
       SMap.get {} y.terms n = ⟨vb, r, va.getLsbD 12, part + 1⟩ ∧ (∀ j, j ≠ n → SMap.get {} y.terms j = term j) ∧
       y.counters = c.counters ∧ y.armed = c.armed ∧ y.staged = c.staged))) ∧
    (16 ≤ i → Traps s (.xbsetStage d a b) 0x01 va) ∧
    (i < 16 → foreign (staged i).owner → Traps s (.xbsetStage d a b) 0x04 va) ∧
    (i < 16 → ¬ foreign (staged i).owner →
      (∀ e s', checkMe s vb { r := true, size := 64 } = (.error e, s') → exec (.xbsetStage d a b) s = .next (trap s' e vb)) ∧
      (∀ t s', checkMe s vb { r := true, size := 64 } = (.ok t, s') →
        (∀ u, loadLine s' s'.myWho t = .error u → Retries s (.xbsetStage d a b) 1 vb.toNat) ∧
        (∀ ld, loadLine s' s'.myWho t = .ok ld →
        let l := ld.line.1
        let word : BitVec 32 := l.setWidth 32
        let ok := sendWordOk (engineOf (word.toNat / 2 ^ 25)) word
        (lineCommand k l = none ∨ ok = false → exec (.xbsetStage d a b) s = .next (trap (loadedMe s' ld vb.toNat) 0x01 vb)) ∧
        (∀ m, lineCommand k l = some m → ok = true → ∃ u g, exec (.xbsetStage d a b) s = .next u ∧ s.SameBytes u ∧ s.Waits u 1 vb.toNat .reply ∧
          (∀ t, (u.ctxOf t).regs = if t = s.cur then (s.me.writeS d 0).regs else (s.ctxOf t).regs) ∧
          SMap.get {} (u.core k).staged i = g ∧ g.enabled = true ∧ g.cmd = m ∧ g.tid = s.me.tid ∧ g.rcb = s.me.rcb ∧ g.lease = s.me.lease ∧
          g.floors = s.me.floors ∧ g.pending = 0 ∧ g.owner = part + 1 ∧ ∀ j, j ≠ i → SMap.get {} (u.core k).staged j = staged j)))) ∧
    (let alien : Prop := ∃ j < 64, va.getLsbD j = true ∧ foreign (term j).owner
     (alien → Traps s (.xbarmOn d a) 0x04 va ∧ Traps s (.xbarmOff d a) 0x04 va) ∧
     (¬ alien → done (.xbarmOn d a) c.armed (fun y => y.armed = c.armed ||| va ∧ y.counters = c.counters ∧ y.terms = c.terms) ∧
       done (.xbarmOff d a) c.armed (fun y => y.armed = c.armed &&& ~~~va ∧ y.counters = c.counters ∧ y.terms = c.terms ∧
         ∀ n, SMap.get {} y.staged n =
           if (List.range 64).any (fun j => va.getLsbD j && decide ((term j).staged = n)) then { staged n with pending := 0 } else staged n)))) ∧
  (∀ (s : State) (k i : Nat), k < 256 →
    let c := s.core k
    (i < 64 →
      let t := SMap.get {} c.terms i
      let g := SMap.get {} c.staged t.staged
      let count (n : Nat) := (SMap.get {} c.counters n).count
      let ready : Prop := c.armed.getLsbD i = true ∧ t.used ≠ [] ∧ (∀ p ∈ t.used, p.2 ≤ count p.1) ∧ g.pending < 255
      (¬ ready → exec (.xbarTermFire k i) s = .next s) ∧
      (ready → ∃ u, exec (.xbarTermFire k i) s = .next u ∧ s.SameBytes u ∧ (∀ r, u.ctxOf r = s.ctxOf r) ∧
        ((t.used.map (·.1)).Nodup → ∀ p ∈ t.used, (SMap.get {} (u.core k).counters p.1).count = count p.1 - p.2) ∧
        (∀ n, n ∉ t.used.map (·.1) → SMap.get {} (u.core k).counters n = SMap.get {} c.counters n) ∧
        SMap.get {} (u.core k).staged t.staged =
          (let g : Staged := { g with clk := max g.clk (c.termClk t) }
           if g.enabled = true ∧ g.startAt ≠ s.cycle + 1 then { g with pending := g.pending + 1, startAt := s.cycle + 1 } else g) ∧
        (∀ j < 64, (u.core k).armed.getLsbD j = (c.armed.getLsbD j && (t.rearm || decide (j ≠ i)))) ∧ .stagedLaunch k t.staged ∈ u.agenda)) ∧
    (i < 16 →
      let g := SMap.get {} c.staged i
      let e := engineOf (g.cmd.word.toNat / 2 ^ 25)
      let fails (cause : Nat) : Prop := c.sq.length < 64 → c.heldSq = [] → ∃ u x, exec (.stagedLaunch k i) s = .next u ∧ s.SameBytes u ∧
        SMap.get {} (u.core k).staged i = { g with enabled := false, pending := 0 } ∧ (u.core k).sq = c.sq ++ [x] ∧
        x.w0.toNat / 2 ^ 56 = cause % 256 ∧ x.w0.toNat / 2 ^ 52 % 16 = 6 ∧ x.w2 = BitVec.ofNat 64 i ∧ x.w3 = g.cmd.word.setWidth 64
      (g.enabled = false ∨ g.pending = 0 → exec (.stagedLaunch k i) s = .next s) ∧
      (g.enabled = true → g.pending ≠ 0 →
        ((s.reg g.rcb.toNat).launched = false → fails 0x01) ∧
        ((s.reg g.rcb.toNat).launched = true →
          (∀ cause v, checkCmd s k g.cmd = some (cause, v) → fails cause) ∧
          (checkCmd s k g.cmd = none → ¬ CanTake c e → exec (.stagedLaunch k i) s = .next s) ∧
          (checkCmd s k g.cmd = none → CanTake c e → ∃ u r, exec (.stagedLaunch k i) s = .next u ∧
            Forks s k e g.cmd ⟨g.core, g.ctx, g.tid, g.slot, g.rcb, g.part, g.level, g.lease, g.floors, max g.clk s.micro.minClk, 0, false, true⟩ u r ∧
            (SMap.get {} (u.core k).staged i).pending = g.pending - 1 ∧ .stagedLaunch k i ∈ u.agenda)))))

/-! ### Traps, levels, contexts -/

/-- R112, R232, R234, R236: taking a trap. At level U the thread is parked, its pc stays, its trap registers receive the cause, the tval
and the trap pc, and a kind 1 record enters the core's supervisor queue. At level S the monitor is entered: `cr.mresume`, `cr.mreason` and
`cr.mdetail` are written, the level is M with prior S, and the pc is `cr.mentry`. At level M the core stops and reports machine check. No
other context and no byte of memory changes. Where the rules leave it open, the choice is the model's (log 27). -/
def Obligations.TrapsAreTaken : Prop :=
  ∀ (s : State) (cause : Nat) (tval extra : Word),
    let x := s.me
    let k := s.cur.core
    let c := s.core k
    let t := takeTrap s cause tval extra
    let tpc : Word := BitVec.ofNat 64 (x.pc.toNat % 2 ^ 56)
    s.SameBytes t ∧
    (x.level = .u → x.st = .bound → x.slot < 15 → c.sq.length < 64 → c.heldSq = [] → (∀ w ∈ c.resuming, w.slot ≠ x.slot) →
      (∀ p ∈ c.ctxs, p.2.budgetDue = false) →
      (t.ctxOf s.cur).regs = { x with st := .parked, parkedAt := s.cycle, parkReq := false, chain := {}, answer := none,
                                      budgetStop := false, budgetParked := false, budgetDue := false,
                                      tcause := BitVec.ofNat 64 cause, tval := tval, tpc := tpc }.regs ∧
      (t.ctxOf s.cur).wait = 0 ∧ (∀ r, r ≠ s.cur → t.ctxOf r = s.ctxOf r) ∧
      (t.core k).sq = c.sq ++ [⟨BitVec.ofNat 64 (cause % 2 ^ 8 * 2 ^ 56 + 1 * 2 ^ 52 + s.cur.ctx % 32 * 2 ^ 47 + 2 ^ 32 +
        (k % 256 * 16 + x.slot % 16) * 2 ^ 20), tpc, tval, extra⟩]) ∧
    (x.level = .s → t.me = { x with prior := 1, level := .m, pc := c.mentry, chain := {}, wait := 0, pend := .none } ∧
      (∀ r, r ≠ s.cur → t.ctxOf r = s.ctxOf r) ∧ (t.core k).mresume = tpc ∧ (t.core k).mreason = BitVec.ofNat 64 cause ∧
      (t.core k).mdetail = tval ∧ (t.core k).sq = c.sq) ∧
    (x.level = .m → (∀ r, t.ctxOf r = s.ctxOf r) ∧ (t.core k).dead = true ∧
      ⟨0, k / 64, s.cycle, k + 1⟩ ∈ t.platform.mclog)

/-- R230, R232, R238, R239, R241, R253: TRAP and SCALL retire, park the thread and write a record of kind 2 or 3: its pc is the next word,
the trap pc the first word of the chain; PARK with a = 0 writes kind 4, with the next word's address, and no trap register, and a single-
step trap follows it. MCALL enters the monitor from level S, to resume after it; ERET restores level and pc. At any other level they trap.
TRAP, SCALL, MCALL and ERET complete, each with its own effect, for every state and operand that meets the conditions given: TRAP and
SCALL at level U, in which the thread is parked with its pc at the next word and its trap registers written; MCALL at level S, in which
the monitor runs at its entry; ERET at level M, in which the thread goes on at `cr.mresume` at its prior level. Where the rules leave it
open, the choice is the model's (log 27 and 60). -/
def Obligations.SystemCallsTransfer : Prop :=
  (∀ (s : State) (a : BitVec 5),
     let x := s.me
     let k := s.cur.core
     let c := s.core k
     let y := advance x
     let low (v : Word) : Word := BitVec.ofNat 64 (v.toNat % 2 ^ 56)
     let parks (n : Instr) (kind : Nat) (v w1 : Word) (z : Context) (after : State → State) : Prop :=
       c.sq.length < 64 → c.heldSq = [] → (∀ w ∈ c.resuming, w.slot ≠ x.slot) → (∀ p ∈ c.ctxs, p.2.budgetDue = false) →
       ∃ t, exec n s = .next (after t) ∧ s.SameBytes t ∧
         (t.ctxOf s.cur).regs = { z with st := .parked, parkedAt := s.cycle, parkReq := false, chain := {}, answer := none,
                                         dbgStep := false, stopReq := x.stopReq || x.dbgStep, budgetStop := false, budgetParked := false, budgetDue := false }.regs ∧
         (∀ r, r ≠ s.cur → t.ctxOf r = s.ctxOf r) ∧
         (t.core k).sq = c.sq ++ [⟨BitVec.ofNat 64 (kind * 2 ^ 52 + s.cur.ctx % 32 * 2 ^ 47 + 2 ^ 32 + (k % 256 * 16 + x.slot % 16) * 2 ^ 20),
           w1, v, 0⟩]
     (x.level = .u → x.st = .bound → x.slot < 15 →
       parks (.trap a) 2 (s.S a) (low x.pc) { y with tcause := 0, tval := s.S a, tpc := low x.pc } id ∧
       parks (.scall a) 3 (s.S a) (low x.pc) { y with tcause := 0, tval := s.S a, tpc := low x.pc } id ∧
       parks (.park 0) 4 0 (low y.pc) y (fun t => if x.step then takeTrap t 0x22 (low y.pc) 0 else t)) ∧
     (x.level ≠ .u → Traps s (.trap a) 0x01 s.irWord ∧ Traps s (.scall a) 0x01 s.irWord) ∧
     (x.slot = 15 → Traps s (.park 0) 0x01 s.irWord) ∧
     (x.level = .u → Traps s .mcall 0x04 s.irWord) ∧
     (x.level = .m → Traps s .mcall 0x01 s.irWord) ∧
     (x.level = .s → ∃ t, exec .mcall s = .next (boundary t) ∧ s.SameBytes t ∧
       t.me = { x with prior := 1, level := .m, pc := c.mentry, chain := {}, wait := 0, pend := .none } ∧ (∀ r, r ≠ s.cur → t.ctxOf r = s.ctxOf r) ∧
       (t.core k).mresume = x.nextPc ∧ (t.core k).mreason = 0x100 ∧ (t.core k).mdetail = 0) ∧
     (x.level ≠ .m → Traps s .eret 0x04 s.irWord) ∧
     (x.level = .m →
       (c.mresume.toNat / 2 ^ 56 ≠ 0 → Traps s .eret 0x0D c.mresume) ∧
       (c.mresume.toNat / 2 ^ 56 = 0 → c.mresume.toNat % 4 ≠ 0 → Traps s .eret 0x03 c.mresume) ∧
       (c.mresume.toNat / 2 ^ 56 = 0 → c.mresume.toNat % 4 = 0 → ∃ t, exec .eret s = .next (boundary t) ∧
         s.Only t { x with level := if x.prior = 1 then .s else if x.prior = 2 then .m else .u, prior := 0, pc := c.mresume, chain := {} }))) ∧
  (∀ (s : State) (a : BitVec 5),
     let x := s.me
     let c := s.core s.cur.core
     (x.level = .u → x.st = .bound → x.slot < 15 →
       (∃ t, exec (.trap a) s = .next t ∧ s.SameBytes t ∧ ((∀ p ∈ c.ctxs, p.2.budgetDue = false) → (∀ w ∈ c.resuming, w.slot ≠ x.slot) →
         t.me.st = .parked ∧ t.me.pc = (advance x).pc ∧ t.me.tcause = 0 ∧ t.me.tval = s.S a)) ∧
       (∃ t, exec (.scall a) s = .next t ∧ s.SameBytes t ∧ ((∀ p ∈ c.ctxs, p.2.budgetDue = false) → (∀ w ∈ c.resuming, w.slot ≠ x.slot) →
         t.me.st = .parked ∧ t.me.pc = (advance x).pc ∧ t.me.tcause = 0 ∧ t.me.tval = s.S a))) ∧
     (x.level = .s → x.st = .bound → s.Calm → ∃ t, exec .mcall s = .next t ∧ s.SameBytes t ∧ t.me.level = .m ∧ t.me.prior = 1 ∧
       t.me.pc = c.mentry ∧ (t.core s.cur.core).mresume = x.nextPc) ∧
     (x.level = .m → x.st = .bound → s.Calm → c.mresume.toNat < 2 ^ 56 → c.mresume.toNat % 4 = 0 → ∃ t, exec .eret s = .next t ∧ s.SameBytes t ∧
       t.me.level = (if x.prior = 1 then .s else if x.prior = 2 then .m else .u) ∧ t.me.prior = 0 ∧ t.me.pc = c.mresume))

/-- R240, R241, R339: RESUME and PARK are reserved to level S, and trap unless S[a] names a context they can act on. RESUME binds a parked
context to its vacant home slot, or parks the context bound there at its next boundary first; PARK and PREEMPT park a context where it may
be parked, without a record; a context elsewhere is marked to be parked there, and PARK waits with kind 1 until it is. Where the rules
leave it open, the choice is the model's (log 19, 72 and 76). -/
def Obligations.ContextsParkAndResume : Prop :=
  (∀ (s : State) (a : BitVec 5),
    let v := s.S a
    let k := s.cur.core
    let r : ThreadRef := ⟨k, v.toNat⟩
    let x := s.ctxOf r
    let c := s.core k
    let settled (u : State) (r : ThreadRef) : Prop := ∀ q, q ≠ r → q ≠ s.cur → u.ctxOf q = s.ctxOf q
    let kind (y : Context) : Nat := y.wait.toNat / 2 ^ 60
    let point (y : Context) : Prop := y.stopped = true ∨ ((kind y = 0 ∨ y.pend = .none) ∧ y.chain.len = 0) ∨
      (y.pend ≠ .none ∧ 2 ≤ kind y ∧ kind y ≤ 7 ∧ (kind y = 5 → y.pend = .message))
    (s.me.level = .u → Traps s (.resume a) 0x04 s.irWord ∧ (a ≠ 0 → Traps s (.park a) 0x04 s.irWord)) ∧
    (s.me.level ≠ .u → (23 < v.toNat ∨ x.st ≠ .parked) → Traps s (.resume a) 0x01 v) ∧
    (s.me.level ≠ .u → a ≠ 0 → (23 < v.toNat ∨ x.st = .free) → Traps s (.park a) 0x01 v) ∧
    (s.me.level ≠ .u → v.toNat ≤ 23 → x.st = .parked →
      (a ≠ 0 → s.me.st = .bound → Observes s (.park a) s.me) ∧
      (x.slot = 15 → Traps s (.resume a) 0x04 s.irWord) ∧
      (x.slot ≠ 15 → x.pc.toNat / 2 ^ 56 ≠ 0 → Traps s (.resume a) 0x0D x.pc) ∧
      (x.slot ≠ 15 → x.pc.toNat / 2 ^ 56 = 0 → x.pc.toNat % 4 ≠ 0 → Traps s (.resume a) 0x03 x.pc) ∧
      (x.slot ≠ 15 → x.pc.toNat / 2 ^ 56 = 0 → x.pc.toNat % 4 = 0 → s.me.st = .bound → s.me.slot = 15 →
        (c.boundTo x.slot = none → ∃ u, exec (.resume a) s = .next (boundary u) ∧ s.SameBytes u ∧ settled u r ∧ u.me = advance s.me ∧
          u.ctxOf r = { x with st := .bound, wait := 0, pend := .none, chain := {}, budgetParked := false, budgetDue := false, parkReq := false, budgetStop := false,
                               stopped := x.stopped || x.stopReq, stopReq := false }) ∧
        (∀ i, x.slot < 15 → c.boundTo x.slot = some i → (c.ctx i).st = .bound → (c.ctx i).slot = x.slot → c.resuming = [] → ∃ u, exec (.resume a) s = .next u ∧ s.SameBytes u ∧ u.me.regs = s.me.regs ∧
          s.Waits u 1 v.toNat .reply ∧
          (point (c.ctx i) → (u.ctxOf ⟨k, i⟩).st = .parked ∧ (u.ctxOf r).st = .bound ∧ .memoryReply k s.cur.ctx ∈ u.agenda) ∧
          (¬ point (c.ctx i) → (u.ctxOf ⟨k, i⟩).parkReq = true ∧ (u.ctxOf r).st = .parked ∧
            (u.core k).resuming = [⟨x.slot, v.toNat, s.cur.ctx⟩])))) ∧
    (s.me.level ≠ .u → a ≠ 0 → v.toNat ≤ 23 → x.st = .bound → r ≠ s.cur → x.slot < 15 → c.resuming = [] →
      (∀ p ∈ c.ctxs, p.2.budgetDue = false) →
      (point x → ∃ u, exec (.park a) s = .next (boundary u) ∧ s.SameBytes u ∧ u.me = advance s.me ∧ (u.core k).sq = c.sq ∧ settled u r ∧
        (u.ctxOf r).regs = { x with st := .parked, parkedAt := s.cycle, parkReq := false, chain := {}, answer := none,
                                    budgetStop := false, budgetParked := false, budgetDue := false }.regs) ∧
      (¬ point x → ∃ u, exec (.park a) s = .next u ∧ s.SameBytes u ∧ s.Waits u 1 v.toNat .reply ∧ u.me.regs = s.me.regs ∧ (u.core k).sq = c.sq ∧
        settled u r ∧ u.ctxOf r = { x with parkReq := true } ∧ (r.ctx, s.cur.ctx) ∈ (u.core k).parking)) ∧
    (s.me.level ≠ .u → a ≠ 0 → v.toNat ≤ 23 → x.st = .bound → r = s.cur → Completes s (.park a) { s.me with parkReq := true })) ∧
  (∀ (s : State) (k i : Nat), k < 256 → i < 24 →
    let r : ThreadRef := ⟨k, i⟩
    let x := s.ctxOf r
    let c := s.core k
    let kind := x.wait.toNat / 2 ^ 60
    let point : Prop := x.stopped = true ∨ ((kind = 0 ∨ x.pend = .none) ∧ x.chain.len = 0) ∨
      (x.pend ≠ .none ∧ 2 ≤ kind ∧ kind ≤ 7 ∧ (kind = 5 → x.pend = .message))
    (x.st ≠ .bound ∨ (x.parkReq = false ∧ x.budgetStop = false) ∨ ¬ point → exec (.preempt k i) s = .next s) ∧
    (x.st = .bound → x.parkReq = true ∨ x.budgetStop = true → point → x.slot < 15 → c.resuming = [] → (∀ p ∈ c.ctxs, p.2.budgetDue = false) →
      ∃ u, exec (.preempt k i) s = .next u ∧ s.SameBytes u ∧ (u.core k).sq = c.sq ∧ (∀ q, q ≠ r → u.ctxOf q = s.ctxOf q) ∧
        (u.ctxOf r).regs = { x with st := .parked, parkedAt := s.cycle, parkReq := false, chain := {}, answer := none,
                                    budgetStop := false, budgetParked := x.budgetStop && !x.parkReq, budgetDue := false }.regs ∧
        ∀ p ∈ c.parking, p.1 = i → .memoryReply k p.2 ∈ u.agenda))

/-- R87, R88, R245, R246, R330: CTXR and CTXW reach the image of a parked context, eight bytes at a checked offset; SPILL writes a parked
context to its save area and frees it, or traps with the failing write; FILL checks its area and slot, and leaves a parked context that
holds the image. All are reserved to level S. Where the rules leave it open, the choice is the model's (log 28 and 31). -/
def Obligations.ContextImages : Prop :=
  ∀ (s : State) (d a b : BitVec 5),
    let k := s.cur.core
    let va := s.S a
    let o := (s.S b).toNat
    let v := s.S d
    let r : ThreadRef := ⟨k, va.toNat⟩
    let x := s.ctxOf r
    let user : Prop := s.me.level = .u
    let noNeed (u : State) : State := endNeeds u k (fun y => decide (y = .fill s.cur.ctx))
    let tries (n : Instr) (obj : Nat) : Prop := ∃ t, exec n s = .next t ∧ s.Waits t 1 obj .reissue ∧ .wake k s.cur.ctx ∈ t.agenda
    (user → Traps s (.ctxr d a b) 0x04 s.irWord ∧ Traps s (.ctxw d a b) 0x04 s.irWord ∧ Traps s (.spill a) 0x04 s.irWord ∧
      Traps s (.fill d a b) 0x04 s.irWord) ∧
    (¬ user → (23 < va.toNat ∨ x.st ≠ .parked) → Traps s (.ctxr d a b) 0x01 va ∧ Traps s (.ctxw d a b) 0x01 va ∧ Traps s (.spill a) 0x01 va) ∧
    (¬ user → va.toNat ≤ 23 → x.st = .parked →
      (o % 8 ≠ 0 ∨ 0x2E8 ≤ o → Traps s (.ctxr d a b) 0x01 (s.S b) ∧ Traps s (.ctxw d a b) 0x01 (s.S b)) ∧
      (o % 8 = 0 → o < 0x2E8 →
        (∃ w, Writes s (.ctxr d a b) d w ∧
          (o = 0x000 → w = x.pc) ∧ (o = 0x010 → w = x.fflags.setWidth 64) ∧ (o = 0x018 → w = x.rcnt) ∧ (o = 0x020 → w = x.win) ∧
          (o = 0x028 → w = x.lease.setWidth 64) ∧ (o = 0x030 → w = x.wait) ∧ (o = 0x038 → w = x.wsp) ∧
          (∀ i < 32, o = 0x040 + 8 * i → w = x.readS (BitVec.ofNat 5 i)) ∧
          (∀ i < 16, o = 0x140 + 16 * i → w = (x.readT (BitVec.ofNat 4 i)).setWidth 64) ∧
          (∀ i < 16, o = 0x148 + 16 * i → w = (x.readT (BitVec.ofNat 4 i)).extractLsb' 64 64) ∧
          (∀ i < 8, o = 0x240 + 8 * i → w = x.readB (BitVec.ofNat 4 (2 * i + 1)) ++ x.readB (BitVec.ofNat 4 (2 * i))) ∧
          (∀ i < 8, o = 0x280 + 8 * i → w = SMap.get 0 x.floors i) ∧ (∀ i < 4, o = 0x2C0 + 8 * i → w = SMap.get 0 x.reply i) ∧
          (o = 0x2E0 → ∀ i < 4, w.toNat / 4 ^ i % 4 = (SMap.get 0 x.rstate i).toNat)) ∧
        (s.me.st = .bound → ∃ u y, exec (.ctxw d a b) s = .next (boundary u) ∧ s.SameBytes u ∧
          (∀ q, u.ctxOf q = if q = s.cur then advance s.me else if q = r then y else s.ctxOf q) ∧ y.st = .parked ∧ y.slot = x.slot ∧ y.level = x.level ∧
          (o = 0x000 → y = { x with pc := v, skipWords := 0 }) ∧ (o = 0x008 → y = { x with step := v.getLsbD 8 }) ∧
          (o = 0x010 → y = { x with fflags := v.setWidth 5 }) ∧ (o = 0x018 → y = { x with rcnt := v }) ∧ (o = 0x020 → y = { x with win := v }) ∧
          (o = 0x028 → y = { x with lease := v.setWidth 16 }) ∧ (o = 0x030 → y = { x with wait := v }) ∧ (o = 0x038 → y = { x with wsp := v }) ∧
          (∀ i < 32, o = 0x040 + 8 * i → y = x.writeS (BitVec.ofNat 5 i) v) ∧
          (∀ i < 16, o = 0x140 + 16 * i → y = x.writeT (BitVec.ofNat 4 i) ((x.readT (BitVec.ofNat 4 i)).extractLsb' 64 64 ++ v)) ∧
          (∀ i < 16, o = 0x148 + 16 * i → y = x.writeT (BitVec.ofNat 4 i) (v ++ (x.readT (BitVec.ofNat 4 i)).setWidth 64)) ∧
          (∀ i < 8, o = 0x240 + 8 * i → y = (x.writeB (BitVec.ofNat 4 (2 * i)) ((v.setWidth 20).setWidth 32)).writeB
            (BitVec.ofNat 4 (2 * i + 1)) ((v.extractLsb' 32 20).setWidth 32)) ∧
          (∀ i < 8, o = 0x280 + 8 * i → y = { x with floors := SMap.set 0 x.floors i (v &&& 0x80000FFFFFFFFFFF) }) ∧
          (∀ i < 4, o = 0x2C0 + 8 * i → y = { x with reply := SMap.set 0 x.reply i v }) ∧
          (o = 0x2E0 → ∀ i < 4, (SMap.get 0 y.rstate i).toNat = if v.toNat / 4 ^ i % 4 = 3 then 0 else v.toNat / 4 ^ i % 4))) ∧
      ((∃ h ∈ (s.core k).heldSq, h.1 = .thread va.toNat) ∨ x.stopped = true ∨ x.stopReq = true → tries (.spill a) x.save.toNat) ∧
      ((∀ h ∈ (s.core k).heldSq, h.1 ≠ .thread va.toNat) → x.stopped = false → x.stopReq = false → s.me.st = .bound →
        (∀ c w s', spillCtx s r = (some (c, w), s') → exec (.spill a) s = .next (trap s' c w)) ∧
        (∀ s', spillCtx s r = (none, s') → ∃ u, exec (.spill a) s = .next u ∧ s'.SameBytes u ∧ s.Waits u 1 x.save.toNat .reply ∧
          .memoryReply k s.cur.ctx ∈ u.agenda ∧ u.ctxOf r = {} ∧ SMap.get 0 u.spilled x.tid = x.save ∧
          ∀ q, q ≠ r → (u.ctxOf q).regs = (s.ctxOf q).regs))) ∧
    (¬ user →
      (∀ c s', checkMe s va { r := true, size := 1024 } = (.error c, s') → exec (.fill d a b) s = .next (trap (noNeed s') c va)) ∧
      (∀ t s', checkMe s va { r := true, size := 1024 } = (.ok t, s') →
        (14 < o → exec (.fill d a b) s = .next (trap (noNeed s') 0x01 (s.S b))) ∧
        (o ≤ 14 → (∀ u, readyLines s' (.wake k s.cur.ctx) .gets (saveLines t) = .error u → Retries s (.fill d a b) 1 va.toNat) ∧
          ∀ s1, readyLines s' (.wake k s.cur.ctx) .gets (saveLines t) = .ok s1 →
          (∀ c w s'', fillWords s1 va 13 [] = (.error (c, w), s'') → exec (.fill d a b) s = .next (trap (noNeed s'') c w)) ∧
          (∀ ws s'', fillWords s1 va 13 [] = (.ok ws, s'') →
            (ws.getD 98 0 ≠ 0 ∨ (needCtx s'' k (.fill s.cur.ctx) 24).1 = none → tries (.fill d a b) va.toNat) ∧
            (∀ i s3, ws.getD 98 0 = 0 → needCtx s'' k (.fill s.cur.ctx) 24 = (some i, s3) → i ≠ s.cur.ctx → ∃ u, exec (.fill d a b) s = .next u ∧
              s3.SameBytes u ∧ s.Waits u 1 va.toNat .reply ∧ .memoryReply k s.cur.ctx ∈ u.agenda ∧
              u.me.regs = (s3.me.writeS d (BitVec.ofNat 64 i)).regs ∧
              let y := u.ctxOf ⟨k, i⟩
              y.st = .parked ∧ y.slot = o ∧ y.level = .u ∧ y.save = va ∧ y.rcb = BitVec.ofNat 11 (ws.getD 96 0).toNat ∧ y.join = ws.getD 97 0 ∧
              y.pc = ws.getD 0 0 ∧ y.rcnt = ws.getD 3 0 ∧ y.win = ws.getD 4 0 ∧ y.wsp = ws.getD 7 0 ∧
              ∀ j : BitVec 5, j ≠ 0 → y.readS j = ws.getD (8 + j.toNat) 0)))))

/-- R107, R112, R247, R248, R252, R337, R392: IFENCE leaves nothing in the core's L1 instruction cache, TFENCE nothing of its walks; both
wait with kind 1. BKPT traps, or stops a claimed thread; HALT makes its JOIN and frees its context; both are reserved to level U. A word
that decodes to nothing and a word that cannot be fetched trap. Where the rules leave it open, the choice is the model's (log 14, 44 and
76). -/
def Obligations.FencesAndStops : Prop :=
  ∀ (s : State) (w : BitVec 32) (cause : BitVec 8) (tval : Word),
    let k := s.cur.core
    let x := s.me
    let freed : Prop := ∃ t, exec .halt s = .next t ∧ t.ctxOf s.cur = {} ∧ .rcbEnd x.rcb.toNat ∈ t.agenda
    (∃ u, Asks s .ifence u x 0 ∧ s.SameBytes u ∧ SMap.get [] u.micro.l1i k = []) ∧
    (x.level = .u → Traps s .tfence 0x04 s.irWord) ∧
    (x.level ≠ .u → ∃ u, Asks s .tfence u x 0 ∧ s.SameBytes u ∧ SMap.get [] u.micro.tlb k = [] ∧ SMap.get [] u.micro.wcache k = [] ∧
      ∀ e ∈ SMap.get [] u.micro.ctlb (clusterOf k), e.core ≠ k ∧ k ∈ e.barred) ∧
    (x.level ≠ .u → Traps s .bkpt 0x01 s.irWord ∧ Traps s .halt 0x01 s.irWord) ∧
    (x.level = .u → (s.core k).claims.getLsbD x.slot = false → Traps s .bkpt 0x20 s.irWord) ∧
    (x.level = .u → (s.core k).claims.getLsbD x.slot = true → ∃ t, exec .bkpt s = .next t ∧ s.SameBytes t ∧
      (∀ q, q ≠ s.cur → t.ctxOf q = s.ctxOf q) ∧ (t.core k).sq = (s.core k).sq ∧
      (t.ctxOf s.cur).regs = { x with stopped := true, stopReq := false, dbgStep := false, chain := {}, answer := none, skipWords := x.chain.len + 1 }.regs) ∧
    (x.level = .u → x.join = 0 → freed) ∧
    (x.level = .u → x.join ≠ 0 →
      (∀ c s', checkBlock s x.join = (.error c, s') → exec .halt s = .next (trap s' c x.join)) ∧
      (∀ t s', checkBlock s x.join = (.ok t, s') →
        (hazard s' (resolveAlias k x.join.toNat) = true → Retries s .halt 1 x.join.toNat) ∧
        (hazard s' (resolveAlias k x.join.toNat) = false →
          (∀ u, atomicGate s' s'.myWho t = .error u → Retries s .halt 1 x.join.toNat) ∧
          (∀ s'', atomicGate s' s'.myWho t = .ok s'' →
            (∀ c v, joinAt s'' s''.myWho t true x.join = .error (c, v) → exec .halt s = .next (trap s'' c v)) ∧
            (∀ v, joinAt s'' s''.myWho t true x.join = .ok v → freed))))) ∧
    Traps s (.reservedEncoding w) 0x02 (w.setWidth 64) ∧
    exec (.unfetchableWord cause tval) s = .next (takeTrap s cause.toNat tval 0)

/-- R231, R243, R254, R255, R256, R257: CRR and CRW on an unassigned number trap with 0x02, on a number reserved to a higher level with
0x04. CRR reads the register; CRW writes the fields its map marks RW and S[d] receives the old value. Where the rules leave it open, the
choice is the model's (log 28). -/
def Obligations.ControlRegisters : Prop :=
  ∀ (s : State) (d a : BitVec 5) (c : BitVec 10),
    let n := c.toNat
    let x := s.me
    let k := s.cur.core
    let y := s.core k
    let v := s.S a
    let need := if n < 0x100 then 0 else if n / 0x100 = 2 then 2 else 1
    let have_ : Nat := match x.level with | Machine.Level.u => 0 | Machine.Level.s => 1 | Machine.Level.m => 2
    (crAssigned n = false → Traps s (.crr d c) 0x02 s.irWord ∧ Traps s (.crw d a c) 0x02 s.irWord) ∧
    (crAssigned n = true → have_ < need → Traps s (.crr d c) 0x04 s.irWord ∧ Traps s (.crw d a c) 0x04 s.irWord) ∧
    (crAssigned n = true → need ≤ have_ → ∃ old : Word,
      Writes s (.crr d c) d old ∧ (∃ u, exec (.crw d a c) s = .next (boundary u)) ∧
      (n = 0x000 → old = BitVec.ofNat 64 (have_ + x.prior.toNat * 4 + (if x.step then 2 ^ 8 else 0) +
        y.partOf x.slot * 2 ^ 12) ∧ Completes s (.crw d a c) ({ x with step := if x.level = Machine.Level.u then x.step else v.getLsbD 8 }.writeS d old)) ∧
      (n = 0x001 → old = x.fflags.setWidth 64 ∧ Completes s (.crw d a c) ({ x with fflags := v.setWidth 5 }.writeS d old)) ∧
      (n = 0x002 → old = x.rcnt ∧ Completes s (.crw d a c) ({ x with rcnt := v }.writeS d old)) ∧
      (n = 0x003 → old = x.win ∧ Completes s (.crw d a c) ({ x with win := v, wins := [x.wins.headD []] }.writeS d old)) ∧
      (n = 0x004 → old = x.wsp ∧ Completes s (.crw d a c) ({ x with wsp := v }.writeS d old)) ∧
      (n = 0x005 → old = x.lease.setWidth 64 ∧ Completes s (.crw d a c) ({ x with lease := v.setWidth 16 }.writeS d old)) ∧
      (n = 0x006 → old = BitVec.ofNat 64 (s.cur.ctx % 32 * 2 ^ 12 + k % 256 * 16 + x.slot % 16)) ∧
      (n = 0x007 → old = x.rcb.setWidth 64) ∧ (n = 0x008 → old = x.tcause) ∧ (n = 0x009 → old = x.tval) ∧ (n = 0x00A → old = x.tpc) ∧
      (n = 0x00C → old = BitVec.ofNat 64 s.cycle) ∧
      (0x006 ≤ n → n ≤ 0x00C → Completes s (.crw d a c) (x.writeS d old)) ∧
      (∀ i < 8, n = 0x010 + i → old = SMap.get 0 x.floors i ∧
        Completes s (.crw d a c) ({ x with floors := SMap.set 0 x.floors i (v &&& 0x80000FFFFFFFFFFF) }.writeS d old)) ∧
      (∀ h t, y.sq = h :: t → (n = 0x100 → old = h.w0) ∧ (n = 0x101 → old = h.w1) ∧ (n = 0x102 → old = h.w2) ∧ (n = 0x103 → old = h.w3)) ∧
      (y.sq = [] → 0x100 ≤ n → n ≤ 0x103 → old = 0) ∧
      (n = 0x105 → old = BitVec.ofNat 64 (y.sq.length % 128 + if y.heldSq = [] then 0 else 128)) ∧
      (n = 0x108 ∨ n = 0x109 → ∀ i < 8, old.toNat / 2 ^ (6 * i) % 64 = match y.boundTo (8 * (n - 0x108) + i) with | some j => 32 + j | none => 0) ∧
      (n = 0x10A → ∀ i < 24, old.toNat / 4 ^ i % 4 = match (y.ctx i).st with | .free => 0 | .bound => 1 | .parked => 2) ∧
      (let sets (f : Core → Word) (w : Word) : Prop := old = f y ∧ ∃ u, exec (.crw d a c) s = .next (boundary u) ∧ s.SameBytes u ∧ f (u.core k) = w ∧
         ∀ q, u.ctxOf q = if q = s.cur then advance (x.writeS d old) else s.ctxOf q
       (n = 0x10C → sets (·.slotpartReg) v) ∧ (n = 0x10D → sets (·.bankpart0) v) ∧ (n = 0x10E → sets (·.bankpart1) v) ∧
       (n = 0x110 → sets (·.troot) (v &&& 0x000FFFFFFFFFF801)) ∧ (n = 0x112 → k ≠ 0 → sets (·.qtable) (v &&& 0x000FFFFFFFFC0000)) ∧
       (n = 0x200 → sets (·.mentry) v) ∧ (n = 0x201 → sets (·.mresume) v) ∧ (n = 0x202 → sets (·.mreason) (v &&& 0x1FF)) ∧
       (n = 0x203 → sets (·.mdetail) v) ∧
       (∀ i < 16, n = 0x210 + 2 * i → sets (fun y => SMap.get 0 y.pwin (2 * i)) (v &&& 0x3FFFFFFFFFFFFFFF)) ∧
       (∀ i < 16, n = 0x211 + 2 * i → sets (fun y => SMap.get 0 y.pwin (2 * i + 1)) (v &&& 0xFFFFF)) ∧
       (∀ i < 4, n = 0x300 + i → sets (fun y => SMap.get 0 y.pcmp i) v) ∧ (n = 0x304 → sets (·.pcmpctl) v) ∧
       (n = 0x308 → sets (·.tracectl) (v &&& 0x7FFF01FF)) ∧
       (∀ i < 64, n = 0x340 + i → sets (fun y => SMap.get 0 y.slotcnt i) (SMap.get 0 y.slotcnt i &&& ~~~v)) ∧
       (∀ i < 17, n = 0x380 + i → sets (fun y => SMap.get 0 y.readyhist i) (SMap.get 0 y.readyhist i &&& ~~~v))))

/-- R249, R250, R251, R358 to R361, R369, R371: KLOAD, KDER and KREV are reserved to level M, JAPP to level S. They check their slot word;
a key is placed in an empty slot with status 0; a failed unwrap answers 1 and a full journal 2, and leave the slot empty; KREV, whatever
use its slot word gives, empties the slot and every core's copy of its key; JAPP appends its entry and answers its number, or all ones.
Where the rules leave it open, the choice is the model's (log 30, 34 and 76). -/
def Obligations.KeysAndJournal : Prop :=
  (∀ (s : State) (d a b : BitVec 5),
    let w := s.S a
    let n := w.toNat
    let dst := n % 64
    let src := n / 2 ^ 8 % 64
    let j := s.sdie.journal
    let occ (u : State) (i : Nat) : Bool := (SMap.get {} u.sdie.keys i).occupied
    let badForm : Prop := n / 2 ^ 6 % 4 ≠ 0 ∨ n / 2 ^ 14 % 4 ≠ 0 ∨ n / 2 ^ 18 ≠ 0
    let badDst : Prop := badForm ∨ n / 2 ^ 16 % 4 = 3
    let refused : Prop := n / 2 ^ 16 % 4 ≠ 0 ∨ 62 ≤ dst ∨ occ s dst = true
    let answers (i : Instr) (s' : State) (v : Word) (obj : Nat) (f : State → Prop) : Prop := ∃ u, exec i s = .next u ∧ s'.SameBytes u ∧
      s.Waits u 1 obj .reply ∧ .memoryReply s.cur.core s.cur.ctx ∈ u.agenda ∧
      (∀ q, (u.ctxOf q).regs = if q = s.cur then (s.me.writeS d v).regs else (s.ctxOf q).regs) ∧ f u
    (s.me.level ≠ .m → Traps s (.kload d a b) 0x04 s.irWord ∧ Traps s (.kder d a b) 0x04 s.irWord ∧ Traps s (.krev d a) 0x04 s.irWord) ∧
    (s.me.level = .m →
      (badDst ∨ src ≠ 0 ∨ refused → Traps s (.kload d a b) 0x01 w) ∧
      (¬ badDst → src = 0 → ¬ refused →
        (∀ c va s', keyLines s (s.S b) true 3 [] = (.error (some (c, va)), s') → exec (.kload d a b) s = .next (trap s' c va)) ∧
        (∀ s', keyLines s (s.S b) true 3 [] = (.error none, s') → Retries s (.kload d a b) 1 (s.S b).toNat) ∧
        (∀ blk s', keyLines s (s.S b) true 3 [] = (.ok blk, s') →
          (j.closed = true → answers (.kload d a b) s 2 (s.S b).toNat (fun u => occ u dst = false)) ∧
          (j.closed = false → unwrapBlock blk = none → answers (.kload d a b) s 1 (s.S b).toNat (fun u => occ u dst = false)) ∧
          (∀ key, j.closed = false → unwrapBlock blk = some key → answers (.kload d a b) s 0 (s.S b).toNat (fun u =>
            SMap.get {} u.sdie.keys dst = { occupied := true, use := 0, key := BitVec.ofNat 512 (leNat key) } ∧
            ∀ i, i ≠ dst → SMap.get {} u.sdie.keys i = SMap.get {} s.sdie.keys i)))) ∧
      (badDst ∨ refused ∨ occ s src = false → Traps s (.kder d a b) 0x01 w) ∧
      (¬ badDst → ¬ refused → occ s src = true →
        (∀ c va s', keyLines s (s.S b) false 1 [] = (.error (some (c, va)), s') → exec (.kder d a b) s = .next (trap s' c va)) ∧
        (∀ s', keyLines s (s.S b) false 1 [] = (.error none, s') → Retries s (.kder d a b) 1 (s.S b).toNat) ∧
        (∀ info s', keyLines s (s.S b) false 1 [] = (.ok info, s') →
          let ks : KeySlot := SMap.get {} s.sdie.keys src
          (j.closed = true → answers (.kder d a b) s 2 (s.S b).toNat (fun u => occ u dst = false)) ∧
          (j.closed = false → ks.use ≠ 0 → answers (.kder d a b) s 1 (s.S b).toNat (fun u => occ u dst = false)) ∧
          (j.closed = false → ks.use = 0 → answers (.kder d a b) s 0 (s.S b).toNat (fun u => SMap.get {} u.sdie.keys dst =
            { occupied := true, use := 0, key := BitVec.ofNat 512 (leNat ((hkdf (leBytes 32 ks.key.toNat) info 48).take 32)) })))) ∧
      (badForm ∨ src ≠ 0 ∨ 62 ≤ dst → Traps s (.krev d a) 0x01 w) ∧
      (¬ badForm → src = 0 → dst < 62 → answers (.krev d a) s (if occ s dst then 1 else 0) 0 (fun u => occ u dst = false ∧
        (∀ i, i ≠ dst → SMap.get {} u.sdie.keys i = SMap.get {} s.sdie.keys i) ∧ ∀ k < 256, ∀ p ∈ (u.core k).keyCache, p.1 ≠ dst))) ∧
    (s.me.level = .u → Traps s (.japp d a b) 0x04 s.irWord) ∧
    (s.me.level ≠ .u → j.closed = true → answers (.japp d a b) s (BitVec.allOnes 64) 0 (fun u => u.sdie.journal = j)) ∧
    (s.me.level ≠ .u → j.closed = false → answers (.japp d a b) s (BitVec.ofNat 64 j.head) 0 (fun u => j.head < u.sdie.journal.head ∧
      ∀ z, SMap.get z u.sdie.journal.entries (j.head % 2048) = ⟨BitVec.ofNat 64 j.head, 0x80, BitVec.ofNat 8 s.cur.core, 0,
        BitVec.ofNat 32 s.ms, s.S a, s.S b⟩))) ∧
  (∀ (s : State) (k slot : Nat), k < 256 →
    ((SMap.get {} s.sdie.keys slot).occupied = true → exec (.keyCachePurge k slot) s = .next s) ∧
    ((SMap.get {} s.sdie.keys slot).occupied = false → ∃ u, exec (.keyCachePurge k slot) s = .next u ∧ s.SameBytes u ∧
      (∀ q, u.ctxOf q = s.ctxOf q) ∧ (u.core k).keyCache = (s.core k).keyCache.filter (fun p => decide (p.1 ≠ slot))))

/-! ### What the device does besides its instructions -/

/-- R87, R137, R139: a background spill writes the oldest window's s16 to s23 and s24 to s31 as two raw lines at the window-stack pointer
of its thread, which rises by 128; where it cannot be made nothing changes, and a call that waits for it issues again. A core with no free
context spills the parked context that has been parked longest, of those R87 lets it choose. -/
def Obligations.WindowsAndContextsSpill : Prop :=
  (∀ (s : State) (k i : Nat), k < 256 → i < 24 →
    let r : ThreadRef := ⟨k, i⟩
    let x := s.ctxOf r
    let a := resolveAlias k x.wsp.toNat
    let w : SMap Word := x.wins.getLastD []
    (x.st = .free ∨ x.wins.length < 7 → exec (.windowSpill k i) s = .next s) ∧
    (x.st ≠ .free → 7 ≤ x.wins.length → stackFault s r x.wsp x.wsp true ≠ none → exec (.windowSpill k i) s =
      .next (if x.waitKind = 1 ∧ x.pend = .reissue then s.post [.wake k i] else s)) ∧
    (x.st ≠ .free → 7 ≤ x.wins.length → stackFault s r x.wsp x.wsp true = none → ∃ u, exec (.windowSpill k i) s = .next u ∧
      (∀ q, (u.ctxOf q).regs = if q = r then { x with wins := x.wins.dropLast, wsp := x.wsp + 128 }.regs else (s.ctxOf q).regs) ∧
      u.hostMem = s.hostMem ∧ u.peerMem = s.peerMem ∧
      (∀ y, u.mem.read y = if a ≤ y ∧ y < a + 128 then BitVec.ofNat 8 ((SMap.get 0 w (16 + (y - a) / 8)).toNat / 256 ^ ((y - a) % 8)) else s.mem.read y) ∧
      (∀ l, SMap.get 0 u.side l = if l = a / 64 ∨ l = (a + 64) / 64 then 0 else SMap.get 0 s.side l) ∧
      (x.waitKind = 1 → x.pend = .reissue → .wake k i ∈ u.agenda))) ∧
  (∀ (s : State) (k : Nat), k < 256 →
    let c := s.core k
    let may (p : Nat × Context) : Prop := p.1 < 24 ∧ p.2.st = .parked ∧ p.2.stopped = false ∧ p.2.stopReq = false ∧
      (∀ h ∈ c.heldSq, h.1 ≠ .thread p.1) ∧ (∀ j < 4, SMap.get 0 p.2.rstate j ≠ 1) ∧ (SpillNeed.any, p.2.tid) ∉ c.spillFails
    (c.freeCtx ≠ none ∨ spillChoice c .any = none → exec (.contextSpill k) s = .next s) ∧
    (∀ i, spillChoice c .any = some i → ∃ p ∈ c.ctxs, p.1 = i ∧ may p ∧ ∀ q ∈ c.ctxs, may q → p.2.parkedAt ≤ q.2.parkedAt) ∧
    (spillChoice c .any = none → ∀ q ∈ c.ctxs, ¬ may q) ∧
    (c.freeCtx = none → ∀ i, spillChoice c .any = some i →
      (∀ s', spillCtx s ⟨k, i⟩ = (none, s') → ∃ u, exec (.contextSpill k) s = .next u ∧ u.ctxOf ⟨k, i⟩ = {} ∧
        SMap.get 0 u.spilled (c.ctx i).tid = (c.ctx i).save ∧ ∀ q, q ≠ ⟨k, i⟩ → (u.ctxOf q).regs = (s.ctxOf q).regs) ∧
      (∀ e s', spillCtx s ⟨k, i⟩ = (some e, s') → ∃ u, exec (.contextSpill k) s = .next u ∧ u.ctxOf ⟨k, i⟩ = s'.ctxOf ⟨k, i⟩ ∧
        (.any, (s'.ctxOf ⟨k, i⟩).tid) ∈ (u.core k).spillFails)))

/-- R103, R329, R336, R337, R342: the life of a region control block. An entry thread is created at its vacant slot with the entry, the
arguments and the frame of its RCB; consumed slot-cycles are added to the field and a spent budget pre-empts the RCB's threads; a period
returns the fields to zero; quiescence is reported once; an RCB that ends clears its launched bit, leaves the dispensers and makes its
JOIN, which is retried while refused, as held records are. Where the rules leave it open, the choice is the model's (log 12, 25, 32 and
68). -/
def Obligations.RegionsRunAndEnd : Prop :=
  ∀ (s : State) (k slot rcb : Nat), k < 256 → slot < 16 → rcb < 2048 →
    let w : EntryWait := ⟨k, slot, rcb⟩
    let g := s.reg rcb
    let c := s.core k
    let at' (o : Nat) := s.rcbAddr rcb + o
    let open' : Prop := w ∈ s.entryWaits ∧ g.launched = true ∧ s.held rcb = false ∧ g.exhausted = false ∧ c.boundTo slot = none ∧
      c.owed slot = false ∧ c.dead = false ∧ c.partOf slot = g.part
    let used := (bitsOf (s.rcbWord rcb 0x20) 39 0 + g.pendingUse) % 2 ^ 40
    let writes (u : State) (o v : Nat) : Prop := ∀ a, u.mem.read a = if at' o ≤ a ∧ a < at' o + 8 then BitVec.ofNat 8 (v / 256 ^ (a - at' o)) else s.mem.read a
    (¬ open' → exec (.entryThreadCreate k slot rcb) s = .next s) ∧
    (open' → ∀ s', createContext s k slot rcb g.entry g.args g.frame 0 (s.sdieClk + 1) (.entry slot rcb) = .error s' → exec (.entryThreadCreate k slot rcb) s = .next s') ∧
    (open' → ∀ s', createContext s k slot rcb g.entry g.args g.frame 0 (s.sdieClk + 1) (.entry slot rcb) = .ok s' → ∃ i < 24,
      exec (.entryThreadCreate k slot rcb) s = .next { s' with entryWaits := s'.entryWaits.erase w } ∧
      let x := (s'.core k).ctx i
      x.st = .bound ∧ x.slot = slot ∧ x.level = (if slot = 15 then Machine.Level.s else Machine.Level.u) ∧ x.pc = g.entry ∧ x.join = 0 ∧
        x.rcb = BitVec.ofNat 11 rcb ∧ x.lease = 8 ∧ x.readS 1 = g.args.getD 0 0 ∧ x.readS 2 = g.args.getD 1 0 ∧ x.readS 3 = g.args.getD 2 0 ∧
        x.readS 4 = g.args.getD 3 0 ∧ x.readS 5 = g.frame ∧ (∀ j : BitVec 5, 5 < j.toNat → x.readS j = 0) ∧ x.win = 0 ∧ x.wsp = 0) ∧
    (g.launched = false → exec (.consumedUpdate rcb) s = .next s ∧ exec (.rcbEnd rcb) s = .next s) ∧
    (s.rcbHere rcb = true → s.NoRecords → g.launched = true → g.budget = 0 ∨ used < g.budget ∨ g.exhausted = true →
      ∃ u, exec (.consumedUpdate rcb) s = .next u ∧ writes u 0x20 used ∧ u.side = s.side ∧ u.cores = s.cores ∧ u.reg rcb = { g with pendingUse := 0 }) ∧
    (g.launched = true → g.budget ≠ 0 → g.budget ≤ used → g.exhausted = false → s.sdie.dbgParked = [] →
      (∀ j, (s.core j).resuming = [] ∧ ∀ p ∈ (s.core j).ctxs, p.2.budgetDue = false) →
      ∃ u, exec (.consumedUpdate rcb) s = .next u ∧ (u.reg rcb).exhausted = true ∧
        ∀ r, r.ctx < 24 → (s.ctxOf r).st = .bound → (s.ctxOf r).ofRcb rcb = true →
          ((u.ctxOf r).st = .parked ∧ (u.ctxOf r).budgetParked = !(s.ctxOf r).parkReq) ∨ ((u.ctxOf r).st = .bound ∧ (u.ctxOf r).budgetStop = true)) ∧
    (∃ u, exec .periodStart s = .next u ∧
      (g.launched = true → (u.reg rcb).exhausted = false ∧ (u.reg rcb).pendingUse = 0 ∧ (s.rcbHere rcb = true → s.NoRecords → ∀ j < 8, u.mem.read (at' 0x20 + j) = 0)) ∧
      ∀ r, r.ctx < 24 → (s.ctxOf r).st = .parked → (s.ctxOf r).budgetParked = true → (u.ctxOf r).st = .bound ∨ (u.ctxOf r).budgetDue = true) ∧
    (g.quietDue = 0 → exec (.quiescent rcb) s = .next s) ∧
    (0 < g.quietDue → ∃ u, exec (.quiescent rcb) s = .next u ∧ (u.reg rcb).quietDue = g.quietDue - 1 ∧
      (s.faultQueue g.faultDomain = none → (∀ h ∈ s.heldFaults, h.src ≠ .rcb rcb 0x29) → u.heldFaults = s.heldFaults ++
        [⟨.rcb rcb 0x29, rcb, g.faultDomain, ⟨BitVec.ofNat 64 (0x29 * 2 ^ 56 + 7 * 2 ^ 52), 0, BitVec.ofNat 64 rcb, 0⟩, s.cycle⟩])) ∧
    (s.ends rcb = false → exec (.rcbEnd rcb) s = .next s) ∧
    (s.ends rcb = true → s.rcbHere rcb = true → s.NoRecords → g.join = 0 → s.sdie.replays = [] → ∃ u, exec (.rcbEnd rcb) s = .next u ∧ u.reg rcb = {} ∧
      writes u 0x78 (bitsOf (s.rcbWord rcb 0x78) 0 0) ∧ (∀ e ∈ u.entryWaits, e.rcb ≠ rcb) ∧ ∀ cl, rcb ∉ (SMap.get {} u.dispensers cl).regs) ∧
    ((∀ p ∈ s.endJoins, p.1 ≠ rcb) → exec (.rcbJoinRetry rcb) s = .next s) ∧
    (∀ p, s.endJoins.find? (fun e => decide (e.1 = rcb)) = some p →
      (∀ s', deviceJoin s p.2 = (false, s') → exec (.rcbJoinRetry rcb) s = .next s') ∧
      (∀ s', deviceJoin s p.2 = (true, s') → s'.sdie.replays = [] → ∃ u, exec (.rcbJoinRetry rcb) s = .next u ∧ u.endJoins = s'.endJoins.erase p ∧ u.mem = s'.mem)) ∧
    (s.heldFaults = [] → exec .heldRecordRetry s = .next s) ∧
    (∀ h, s.heldFaults = [h] → (∀ s', sendFault s h = (false, s') → exec .heldRecordRetry s = .next s') ∧
      (∀ s', sendFault s h = (true, s') → exec .heldRecordRetry s = .next { s' with heldFaults := s'.heldFaults.filter (fun x => decide (x ≠ h)) }))

/-- R301, R303, R305, R306, R307, R308, R323, R386: the coherence protocol. A home in state C that nobody owns or watches serves a read
with a lease, answers a renewal whose stamp is the line's own, and grants exclusivity; in a transient state it lets the request stand, an
owned line is forwarded, and a granule in motion sends it back. The agent's messages move its copy as the table of states says, and wake
the threads that wait for the line. (A full slice's way of holding a request back in its link is the model's: log 14.) Where the rules
leave it open, the choice is the model's (log 11 and 38). -/
def Obligations.CoherenceFollowsTheTables : Prop :=
  (∀ (s : State) (q : CohReq), q.core < 256 →
    let h := s.micro.homeLine q.line
    let still : Prop := s.micro.lineMoving q.line = false
    let room : Prop := s.micro.standing (s.micro.homeOf (64 * q.line)) < 1024
    let plain : Prop := still ∧ room ∧ h.st = .c ∧ s.micro.ownerOf q.line q.core = none ∧ s.micro.watchesOn (64 * q.line) true true = []
    let alone : Prop := q.stood = true ∨ rivalUpgs s q = []
    let clk := max q.clk s.micro.minClk
    let region := if foreignLine q.line then (s.micro.copyAt q.core q.line).bind (·.region) else s.lineRegion q.line
    let near : Option Copy := if foreignLine q.line then (s.micro.l2At 64 q.line).filter (fun o => decide (clk ≤ o.img.rts)) else none
    let rts := max h.rts (max h.wts (clk + q.lease))
    let gives (i : Instr) (h' : HomeLine) (m : Instr) : Prop := ∃ u, exec i s = .next u ∧ u.micro.homeLine q.line = h' ∧ u.agenda = s.agenda ++ [m] ∧
      s.SameBytes u ∧ u.cores = s.cores
    let img (r : Nat) : Stamped := ⟨(s.lineAt (lineLoc q.line)).1, (s.lineAt (lineLoc q.line)).2, h.wts, r,
      s.viewOf region (64 * q.line), s.micro.homeLevel q.line⟩
    let shared : HomeLine := { h with st := .c, rts := max rts (s.roundStamp region), served := false }
    let granted : HomeLine := { h with st := .g, owner := q.core, served := false }
    let all (f : Instr → CohKind → Prop) : Prop := f (.homeGets q) .gets ∧ f (.homeGetx q) .getx ∧ (alone → f (.homeUpg q) .upg) ∧ f (.homeRenew q) .renew
    let stands (c : CohKind) : Instr := cohMsg { q with kind := if c = .upg ∧ (s.micro.ownerOf q.line q.core).isSome = true then .getx else c, stood := true }
    (plain → near = none → gives (.homeGets q) shared (.agentData q.core q.line ⟨img rts, 0⟩ false)) ∧
    (plain → ∀ o, near = some o → gives (.homeGets q) { h with served := false }
      (.agentData q.core q.line ⟨{ o.img with rts := min o.img.rts (max o.img.wts (clk + q.lease)), level := 3 }, 0⟩ false)) ∧
    (plain → near = none → gives (.homeRenew q) shared (if h.wts = q.wts then .agentRnack q.core q.line ⟨rts, 0⟩ else .agentData q.core q.line ⟨img rts, 0⟩ false)) ∧
    (plain → gives (.homeGetx q) granted (.agentData q.core q.line ⟨img h.rts, 0⟩ true)) ∧
    (plain → alone → gives (.homeUpg q) granted (if h.wts = q.wts then .agentAckx q.core q.line ⟨h.rts, 0⟩ else .agentData q.core q.line ⟨img h.rts, 0⟩ true)) ∧
    (¬ still → all (fun i c => exec i s = .next (s.post [.agentRetry { q with kind := c, stood := false }]))) ∧
    (still → room → h.st = .g ∨ h.st = .f ∨ h.st = .w → all (fun i c => ∃ u, exec i s = .next u ∧ u.agenda = s.agenda ∧
      u.micro.homeLine q.line = { h with waiting := h.waiting ++ [stands c] })) ∧
    (still → room → h.st = .c ∨ h.st = .o → ∀ o, s.micro.ownerOf q.line q.core = some o → all (fun i c => ∃ u, exec i s = .next u ∧
      u.micro.homeLine q.line = { h with st := .f, owner := o, waiting := h.waiting ++ [stands c] } ∧
      u.agenda = s.agenda ++ [.agentFwd o q.line (if c = .gets ∨ c = .renew then .gets else .getx)])) ∧
    (still → ¬ room → all (fun i c => exec i s = .next { s with agenda := stands c :: s.agenda })) ∧
    (¬ still → exec (.agentRetry q) s = .next { s with micro := { s.micro with retry := s.micro.retry ++ [(q.line / 64, match q.kind with
      | .gets => Instr.homeGets q | .getx => Instr.homeGetx q | .upg => Instr.homeUpg q | .renew => Instr.homeRenew q)] } }) ∧
    (still → exec (.agentRetry q) s = .next (s.post [match q.kind with
      | .gets => Instr.homeGets q | .getx => Instr.homeGetx q | .upg => Instr.homeUpg q | .renew => Instr.homeRenew q]))) ∧
  (∀ (s : State) (core line rts acks : Nat) (clean : Bool) (kind : FwdKind) (img : Stamped), core < 256 →
    let h := s.micro.homeLine line
    let took : HomeLine := { h with st := .c, wts := max h.wts img.wts, rts := max h.rts img.rts, waiting := [], served := decide (h.st = .f ∨ h.st = .w) }
    let flat := s.lineAt (lineLoc line)
    let stale (g : Option Nat) (n : Nat) : Prop := ∃ r v, g = some r ∧ (s.core core).viewOf r = some v ∧
      127 < (v - BitVec.ofNat 32 n).toNat ∧ (v - BitVec.ofNat 32 n).toNat < 2 ^ 31
    let home (i : Instr) (h' : HomeLine) (l d : List Instr) : Prop := ∃ u, exec i s = .next u ∧ u.micro.homeLine line = h' ∧ u.agenda = s.agenda ++ l ∧
      u.due = s.due ++ d ∧ s.SameBytes u
    let agent (i : Instr) (c : Option Copy) (l : List Instr) : Prop := ∃ u, exec i s = .next u ∧ u.micro.copyAt core line = c ∧ u.agenda = s.agenda ++ l ∧ s.SameBytes u
    let wakes : List Instr := ((s.core core).ctxs.filter (fun p => p.2.miss.any (fun m => decide (m.1 = line)))).map (fun p => .wake core p.1)
    let tag : BitVec 8 := BitVec.ofNat 8 img.round
    let again : Prop := exec (.agentFwd core line kind) s = .next (s.post [.agentFwd core line kind])
    let empty : Prop := exec (.agentFwd core line kind) s = .next (s.post [.homeFdata line core flat (0, 0)])
    (h.owner ≠ core ∨ h.st = .c → home (.homeWb line core img clean) h [.agentWback core line] []) ∧
    (h.owner = core → h.st ≠ .c → home (.homeWb line core img clean) took [.agentWback core line] h.waiting) ∧
    (h.owner ≠ core ∨ (h.st ≠ .f ∧ h.st ≠ .w) → exec (.homeFdata line core (img.data, img.side) (img.wts, img.rts)) s = .next s) ∧
    (h.owner = core → h.st = .w ∨ h.st = .f → home (.homeFdata line core (img.data, img.side) (img.wts, img.rts)) took [] h.waiting) ∧
    (h.st ≠ .g ∨ h.owner ≠ core → exec (.homeGack line core) s = .next s) ∧
    (h.st = .g → h.owner = core → home (.homeGack line core) { h with st := .o, waiting := [] } [] h.waiting) ∧
    ((h.st ≠ .f ∧ h.st ≠ .w) ∨ h.owner ≠ core ∨ answerComing s core line = true → exec (.homeGone line core) s = .next s) ∧
    (h.st = .f ∨ h.st = .w → h.owner = core → answerComing s core line = false →
      home (.homeGone line core) { h with st := .c, waiting := [], served := true } [] h.waiting) ∧
    (fwdComing s core line = true → exec (.agentWback core line) s = .next (s.post [.agentWback core line])) ∧
    (s.micro.copyAt core line = none → exec (.agentData core line ⟨img, acks⟩ true) s = .next s ∧ exec (.agentData core line ⟨img, acks⟩ false) s = .next s ∧
      exec (.agentAckx core line ⟨rts, acks⟩) s = .next s ∧ exec (.agentRnack core line ⟨rts, acks⟩) s = .next s ∧ (fwdComing s core line = false → exec (.agentWback core line) s = .next s) ∧
      exec (.lineEviction core line) s = .next s ∧ empty) ∧
    (∀ c, s.micro.copyAt core line = some c →
      (c.st = .ix ∨ c.st = .vx → c.region = none → agent (.agentData core line ⟨img, acks⟩ true) (some ⟨.x, img, tag, none, c.cls, false, false, false⟩)
        (wakes ++ [.homeGack line core])) ∧
      (c.st = .ix ∨ c.st = .vx → ∃ u, exec (.agentData core line ⟨img, acks⟩ true) s = .next u ∧ s.SameBytes u ∧
        u.micro.copyAt core line = some ⟨.x, img, tag, c.region, c.cls, false, false, false⟩ ∧ (∀ i ∈ s.agenda ++ wakes ++ [.homeGack line core], i ∈ u.agenda)) ∧
      (c.st = .iv ∨ c.st = .vr ∨ c.st = .ix ∨ c.st = .vx → ∃ u, exec (.agentData core line ⟨img, acks⟩ false) s = .next u ∧
        (c.left = false → ¬ stale c.region img.round → u.micro.copyAt core line = some ⟨.v, img, tag, c.region, c.cls, false, false, false⟩) ∧
        (c.left = true ∨ stale c.region img.round → u.micro.copyAt core line = none) ∧ (∀ i ∈ s.agenda ++ wakes, i ∈ u.agenda) ∧ s.SameBytes u) ∧
      (c.st = .vx → agent (.agentAckx core line ⟨rts, acks⟩) (some { c with st := .x, img := { c.img with rts := rts }, dirty := false, left := false, leftL2 := false })
        (wakes ++ [.homeGack line core])) ∧
      (c.st = .vr → agent (.agentRnack core line ⟨rts, acks⟩) (if c.left then none else some { c with st := .v, img := { c.img with rts := max c.img.rts rts }, leftL2 := false }) wakes) ∧
      (c.st = .xi → (fwdComing s core line = false → agent (.agentWback core line) none wakes) ∧ agent (.agentFwd core line kind) (some c) [.homeGone line core]) ∧
      (c.st = .x → storeWaits s core line = true → again) ∧
      (c.st = .x → storeWaits s core line = false → kind = .gets → ¬ stale c.region c.img.round → agent (.agentFwd core line kind)
        (some { c with st := .v, img := { c.img with data := flat.1, side := flat.2 }, dirty := false }) [.homeFdata line core flat (c.img.wts, c.img.rts)]) ∧
      (c.st = .x → storeWaits s core line = false → kind ≠ .gets ∨ stale c.region c.img.round → agent (.agentFwd core line kind) none
        [.homeFdata line core flat (c.img.wts, c.img.rts)]) ∧
      (c.st = .ix ∨ c.st = .vx → if grantComing s core line then again else empty) ∧
      (c.st = .iv ∨ c.st = .vr ∨ c.st = .v → empty) ∧
      (c.st = .x → agent (.lineEviction core line) (some { c with st := .xi }) [.homeWb line core { c.img with data := flat.1, side := flat.2 } (!c.dirty)]) ∧
      (c.st = .v → agent (.lineEviction core line) none []) ∧
      (c.st ≠ .x → c.st ≠ .v → exec (.lineEviction core line) s = .next s))) ∧
  (∀ (s : State) (port line : Nat) (kind : FwdKind), port < 16 → exec (.agentFwd (256 + port) line kind) s = .next (s.emit (.peerForward port line kind)))

/-- R104, R210, R302, R309, R315, R317, R318, R319, R321, R323, R324, R325: an INV drops what a core derived from its line, with the
notices for other lines, and is acknowledged, four times by a hub; a notice clears its core's pointers when the round matches; a tracking
read makes the reader a sharer; entries are dropped; the minimum is the highest received; a peer's slice answers a request under way; a
granule is set in motion, its owned lines are recalled, and at rest it is homed anew; a block request recalls its lines one after another,
and then it takes effect. Where the rules leave it open, the choice is the model's (log 11, 38 and 44). -/
def Obligations.TranslationsAndHomesMove : Prop :=
  ∀ (s : State) (k line n slice : Nat) (r : ThreadRef), k < 256 → slice < 32 → r.core < 256 → r.ctx < 24 →
    let m := s.micro
    let d : DirEntry := SMap.get {} m.dir line
    let ack (p : Party) : Instr := .iackReceive ⟨p, r⟩
    (∃ (u : State) (ns : List Instr), exec (.invReceive (.core k) line n r) s = .next u ∧ u.agenda = s.agenda ++ ns ++ [ack (.core k)] ∧ s.SameBytes u ∧
      (∀ i ∈ ns, ∃ l v, i = .evictionNotice k l v) ∧
      (∀ e ∈ SMap.get [] u.micro.tlb k, ∀ p ∈ e.lines, p.1 ≠ line) ∧ (∀ p ∈ SMap.get [] u.micro.wcache k, p.1 ≠ line)) ∧
    (k < 64 → ∃ (u : State) (ns : List Instr), exec (.invReceive (.hub k) line n r) s = .next u ∧ s.SameBytes u ∧
      u.agenda = s.agenda ++ ns ++ [ack (.hub k), ack (.hub k), ack (.hub k), ack (.hub k)] ∧
      ∀ j, j / 4 = k → (∀ e ∈ SMap.get [] u.micro.tlb j, ∀ p ∈ e.lines, p.1 ≠ line) ∧ ∀ p ∈ SMap.get [] u.micro.wcache j, p.1 ≠ line) ∧
    (s.needs .sdie line = false → exec (.invReceive .sdie line n r) s = .next (s.post [ack .sdie])) ∧
    (s.needs .sdie line = true → ∃ (u : State) (ns : List Instr), exec (.invReceive .sdie line n r) s = .next u ∧ s.SameBytes u ∧
      u.agenda = s.agenda ++ ns ++ [ack .sdie] ∧ line ∈ u.micro.dirOrder ∧ (SMap.get {} u.micro.dir line).sdie = true) ∧
    (line ∉ m.dirOrder ∨ d.coarse = true ∨ d.round ≠ n → exec (.evictionNotice k line n) s = .next s) ∧
    (line ∈ m.dirOrder → d.coarse = false → d.round = n → ∃ u, exec (.evictionNotice k line n) s = .next u ∧ s.SameBytes u ∧
      ∀ i < 4, SMap.get 0 (SMap.get {} u.micro.dir line).ptrs i = if SMap.get 0 d.ptrs i = k + 1 then 0 else SMap.get 0 d.ptrs i) ∧
    (∃ u, exec (.walkerRead (.core k) line) s = .next u ∧ line ∈ u.micro.dirOrder ∧ k ∈ (SMap.get {} u.micro.dir line).sharers ∧ s.SameBytes u ∧ u.cores = s.cores) ∧
    (n < (SMap.get [] m.tlb k).length → ∃ u, exec (.translationDrop k n) s = .next u ∧ SMap.get [] u.micro.tlb k = (SMap.get [] m.tlb k).eraseIdx n ∧ s.SameBytes u) ∧
    ((SMap.get [] m.tlb k).length + (SMap.get [] m.wcache k).length + (SMap.get [] m.ctlb (clusterOf k)).length ≤ n → exec (.translationDrop k n) s = .next s) ∧
    (∃ u, exec (.l1InstructionCacheDrop k line) s = .next u ∧ (∀ p ∈ SMap.get [] u.micro.l1i k, p.1 ≠ line) ∧ s.SameBytes u ∧ u.cores = s.cores) ∧
    (∃ u, exec (.clockMinimumBroadcast slice) s = .next u ∧ u.micro.minClk = max m.minClk (SMap.get 0 m.clkSlice slice - 2 ^ 45) ∧ s.SameBytes u ∧ u.cores = s.cores) ∧
    (∀ a b, a < 64 → b < 64 → ∀ clk,
      (∀ c i q, m.l2At b line = some c → passing s a line = some (i, q) → a / 16 = b / 16 → a ≠ b → c.st = .v → max q.clk m.minClk ≤ c.img.rts →
        exec (.l2PeerServe a b line clk) s = .next { s with agenda := s.agenda.erase i ++
          [.agentData q.core line ⟨{ c.img with rts := min c.img.rts (max c.img.wts (max q.clk m.minClk + q.lease)), level := 2 }, 0⟩ false] }) ∧
      (∀ c, m.l2At b line = some c → (∀ i q, passing s a line = some (i, q) → c.st ≠ .v ∨ c.img.rts < max q.clk m.minClk) →
        exec (.l2PeerServe a b line clk) s = .next s) ∧
      (m.l2At b line = none ∨ passing s a line = none ∨ a / 16 ≠ b / 16 ∨ a = b → exec (.l2PeerServe a b line clk) s = .next s)) ∧
    ((∀ p ∈ m.moving, p.1 ≠ n) →
      (m.homeOf (4096 * n) = slice → exec (.rehome n slice) s = .next s) ∧
      (m.homeOf (4096 * n) ≠ slice → ∃ u, exec (.rehome n slice) s = .next u ∧ u.micro.moving = m.moving ++ [(n, slice)] ∧ s.SameBytes u ∧
        .rehome n slice ∈ u.agenda ∧ (∀ l i, l / 64 = n → i ∈ (m.homeLine l).waiting → (n, i) ∈ u.micro.retry) ∧
        ∀ l, l / 64 = n → (m.homeLine l).st = .o → u.micro.homeLine l = { m.homeLine l with st := .w, waiting := [] } ∧
          .agentFwd (m.homeLine l).owner l .recall ∈ u.agenda)) ∧
    (∀ p, m.moving.find? (fun e => decide (e.1 = n)) = some p →
      (m.unsettled n = [] → ∃ u, exec (.rehome n slice) s = .next u ∧ u.micro.homeOf (4096 * n) = p.2 ∧
        p ∉ u.micro.moving ∧ s.SameBytes u ∧ ∀ i, (n, i) ∈ m.retry → i ∈ u.agenda) ∧
      (m.unsettled n ≠ [] → ∃ u, exec (.rehome n slice) s = .next u ∧ u.micro.moving = m.moving ∧ .rehome n slice ∈ u.agenda ∧ s.SameBytes u)) ∧
    (∀ q : RecallReq, q.core < 256 →
      let again : Instr := .homeRecall slice q
      (∀ l h, (recallDue m slice q).head? = some l → h = m.homeLine l → m.lineMoving l = false → m.standing (m.homeOf (64 * l)) < 1024 →
        (h.st = .o → ∃ u, exec again s = .next u ∧ s.SameBytes u ∧ u.micro.homeLine l = { h with st := .w, waiting := h.waiting ++ [again] } ∧
          u.agenda = s.agenda ++ [.agentFwd h.owner l .recall]) ∧
        (h.st = .g ∨ h.st = .f ∨ h.st = .w → ∃ u, exec again s = .next u ∧ s.SameBytes u ∧
          u.micro.homeLine l = { h with waiting := h.waiting ++ [again] } ∧ u.agenda = s.agenda)) ∧
      (∀ c, q.kind = .bres c → c ≠ 0 → ∃ u, exec again s = .next u ∧ ⟨q.base, q.height, c⟩ ∈ SMap.get [] u.micro.handles slice ∧ s.SameBytes u) ∧
      (recallDue m slice q = [] → q.kind = .brel →
        ∃ u, exec again s = .next u ∧ ⟨q.base, q.height, q.core⟩ ∉ SMap.get [] u.micro.owners slice ∧ s.SameBytes u) ∧
      (recallDue m slice q = [] → q.kind = .bown → (SMap.get [] m.owners slice).length < 256 →
        ∃ u, exec again s = .next u ∧ ⟨q.base, q.height, q.core⟩ ∈ SMap.get [] u.micro.owners slice ∧ s.SameBytes u) ∧
      (recallDue m slice q = [] → q.kind = .bevict ∨ q.kind = .bdemote → ∃ u, exec again s = .next u ∧ s.SameBytes u ∧ u.cores = s.cores ∧
        ∀ l, m.homeOf (64 * l) = slice → 64 * l / 4 ^ q.height = q.base / 4 ^ q.height →
          (∀ j c, u.micro.copyAt j l = some c → c.st ≠ .v) ∧ (∀ cl, u.micro.l2At cl l = none) ∧
          (q.kind = .bevict → ∀ p ∈ SMap.get [] u.micro.llc slice, p.1 ≠ l)))

/-! ### Registers, egress, sensors -/

/-- R141, R233, R255, R314, R340, R365, R371, R372: what a write to a control register does as a step of its own: the supervisor queue's
pop, the table root with its fence, the partitions of slots and banks, the window registers, the journal's export point, the egress
region's registers with their journal entry, and the sensor limits, which only tighten. Where the rules leave it open, the choice is the
model's (log 28). -/
def Obligations.RegisterWritesAct : Prop :=
  ∀ (s : State) (k i n : Nat) (hi : Bool) (v : Word), k < 256 → i < 24 → n < 16 →
    let c := s.core k
    let r : ThreadRef := ⟨k, i⟩
    let x := s.ctxOf r
    let j := s.sdie.journal
    let w := s.weir n
    let lim := s.sdie.senslim
    let sets (e : Instr) (f : State → Prop) : Prop := ∃ u, exec e s = .next u ∧ s.SameBytes u ∧ (∀ q, u.ctxOf q = s.ctxOf q) ∧ f u
    let logged (u : State) : Prop := j.closed = false → j.head < u.sdie.journal.head ∧ ∀ z, SMap.get z u.sdie.journal.entries (j.head % 2048) =
      ⟨BitVec.ofNat 64 j.head, 0x22, BitVec.ofNat 8 k, BitVec.ofNat 16 n, BitVec.ofNat 32 s.ms, (u.weir n).a, (u.weir n).b⟩
    (c.sq = [] → exec (.crSqpopWrite k v) s = .next s) ∧
    (∀ h t, c.sq = h :: t → c.heldSq = [] → sets (.crSqpopWrite k v) (fun u => (u.core k).sq = t)) ∧
    (∀ h t src q l, c.sq = h :: t → t.length = 63 → c.heldSq = (src, q) :: l →
      sets (.crSqpopWrite k v) (fun u => (u.core k).sq = t ++ [q] ∧ (u.core k).heldSq = l)) ∧
    sets (.crTrootWrite k v) (fun u => (u.core k).troot = v &&& 0x000FFFFFFFFFF801 ∧ SMap.get [] u.micro.tlb k = [] ∧ SMap.get [] u.micro.wcache k = []) ∧
    sets (.crSlotpartWrite k v) (fun u => u.core k = { c with slotpartReg := v }) ∧
    sets (.crBankpartWrite k hi v) (fun u => u.core k = if hi then { c with bankpart1 := v } else { c with bankpart0 := v }) ∧
    (∃ u, exec (.crWinWrite k i v) s = .next u ∧ s.SameBytes u ∧ ∀ q, u.ctxOf q = if q = r then { x with win := v, wins := [x.wins.headD []] } else s.ctxOf q) ∧
    (∃ u, exec (.crWspWrite k i v) s = .next u ∧ s.SameBytes u ∧ ∀ q, u.ctxOf q = if q = r then { x with wsp := v } else s.ctxOf q) ∧
    (v.toNat ∉ j.headers ∨ v.toNat < j.exportPt ∨ j.head < v.toNat → exec (.crJexportWrite v) s = .next s) ∧
    (v.toNat ∈ j.headers → j.exportPt ≤ v.toNat → v.toNat ≤ j.head → sets (.crJexportWrite v) (fun u => u.sdie.journal.exportPt = v.toNat ∧
      u.sdie.journal.head = j.head ∧ (u.sdie.journal.closed = true ↔ 2039 ≤ j.head - v.toNat))) ∧
    (let a : Word := v &&& 0x9F0FFFFFFFFFFFFF
     let on := a.getLsbD 63 && decide (6 ≤ bitsOf a 60 56) && decide (bitsOf a 60 56 ≤ 26)
     (w.on = false ∨ on = true → sets (.crWeiraWrite k n v) (fun u => (u.weir n).a = a ∧ (u.weir n).b = w.b ∧ logged u ∧
       (u.weir n).level = if on = true ∧ w.on = false then max 4 (bitsOf w.b 51 28) * 1024 else w.level)) ∧
     (w.on = true → on = false → w.held = [] → sets (.crWeiraWrite k n v) (fun u => (u.weir n).a = a ∧ logged u))) ∧
    sets (.crWeirbWrite k n v) (fun u => (u.weir n).a = w.a ∧ (u.weir n).b = v ∧ (u.weir n).level = min (w.refilled s.timeUnits).level (max 4 (bitsOf v 51 28) * 1024) ∧ logged u) ∧
    sets (.crSenslimWrite v) (fun u =>
      bitsOf u.sdie.senslim 15 0 = max (bitsOf v 15 0) (bitsOf lim 15 0) ∧ bitsOf u.sdie.senslim 31 16 = min (bitsOf v 31 16) (bitsOf lim 31 16) ∧
      bitsOf u.sdie.senslim 63 48 = min (bitsOf v 63 48) (bitsOf lim 63 48) ∧
      (BitVec.ofNat 16 (bitsOf u.sdie.senslim 47 32)).toInt = min (BitVec.ofNat 16 (bitsOf v 47 32)).toInt (BitVec.ofNat 16 (bitsOf lim 47 32)).toInt ∧
      (s.sdie.outside = none → u.sdie.outside ≠ none → u.sdie.keys = [] ∧ u.sdie.erased = true))

/-- R366, R368, R369, R370, R372: a region's bucket gains its rate's bytes for the time gone by, up to its burst, and lets the held
transfer pass that it can pay for; one held for the timeout fails; each millisecond's bytes are journaled; a checkpoint of nine entries
falls due a second after its first entry; a sensor reading outside a limit erases every key and tells every core. Where the rules leave it
open, the choice is the model's (log 7, 33 and 35). -/
def Obligations.EgressAndSensorsAct : Prop :=
  ∀ (s : State) (n : Nat) (volt temp clock : BitVec 16), n < 16 →
    let w := s.weir n
    let j := s.sdie.journal
    let burst := max 4 (bitsOf w.b 51 28) * 1024
    let rate := bitsOf w.b 27 0 * 1024
    let gain := w.frac + (s.timeUnits - w.refillAt) * rate
    let second := 1000 * msUnits
    let level := min burst (w.level + gain / second)
    let lim := s.sdie.senslim
    let ok : Prop := bitsOf lim 15 0 ≤ volt.toNat ∧ volt.toNat ≤ bitsOf lim 31 16 ∧ temp.toInt ≤ (BitVec.ofNat 16 (bitsOf lim 47 32)).toInt ∧
      clock.toNat ≤ bitsOf lim 63 48
    let entry (u : State) (kind detail : Nat) (p0 p1 : Word) : Prop := j.closed = false → j.head < u.sdie.journal.head ∧
      ∀ z, SMap.get z u.sdie.journal.entries (j.head % 2048) = ⟨BitVec.ofNat 64 j.head, BitVec.ofNat 8 kind, 0xFF, BitVec.ofNat 16 detail, BitVec.ofNat 32 s.ms, p0, p1⟩
    (w.on = false → exec (.weirRefill n) s = .next s) ∧
    (w.on = true → w.held = [] → ∃ u, exec (.weirRefill n) s = .next u ∧ s.SameBytes u ∧
      u.weir n = { w with level := level, frac := gain % second, refillAt := s.timeUnits }) ∧
    (∀ h off len, w.on = true → w.held = [h] → h.exit = .hostRead off len → j.closed = false → 0 < rate → h.bytes ≤ level →
      ∃ u, exec (.weirRefill n) s = .next u ∧ s.SameBytes u ∧ (u.weir n).held = [] ∧ (u.weir n).level = level - h.bytes ∧
        u.out = s.out ++ [if rangeDelivered s h.pa len then .hostData off (s.bytesAt (.main h.pa) len) else .hostPoisoned off]) ∧
    (∀ h, w.on = true → w.held = [h] → j.closed = true ∨ rate = 0 ∨ level < h.bytes →
      ∃ u, exec (.weirRefill n) s = .next u ∧ s.SameBytes u ∧ (u.weir n).held = [h] ∧ u.out = s.out) ∧
    ((∀ h ∈ w.held, s.timeUnits < h.since + bitsOf w.b 63 52 * msUnits) → exec (.weirTimeout n) s = .next s) ∧
    (∀ h off len, w.held = [h] → h.since + bitsOf w.b 63 52 * msUnits ≤ s.timeUnits → h.exit = .hostRead off len → ∃ u, exec (.weirTimeout n) s = .next u ∧ s.SameBytes u ∧
      (u.weir n).held = [] ∧ (u.weir n).failed = w.failed + 1 ∧ u.out = s.out ++ [.hostAbort off]) ∧
    (∃ u, exec (.weirEgressEntry n) s = .next u ∧ s.SameBytes u ∧ u.weir n = { w with passed := [], failed := 0, failedAt := 0 } ∧
      (w.passed = [] → w.failed = 0 → u.sdie.journal = j) ∧
      (∀ p b a, w.passed = [(p, (b, a))] → entry u 0x20 (p * 256 + n) (BitVec.ofNat 64 b) (BitVec.ofNat 64 a)) ∧
      (w.passed = [] → w.failed ≠ 0 → entry u 0x21 n (BitVec.ofNat 64 w.failed) (BitVec.ofNat 64 w.failedAt))) ∧
    (j.since = 0 ∨ j.closed = true ∨ s.ms < j.firstMs + 1000 → exec .journalCheckpoint s = .next s) ∧
    (0 < j.since → j.closed = false → j.firstMs + 1000 ≤ s.ms → ∃ u, exec .journalCheckpoint s = .next u ∧ s.SameBytes u ∧
      u.sdie.journal.head = j.head + 9 ∧ u.sdie.journal.since = 0 ∧ j.head ∈ u.sdie.journal.headers ∧
      entry u 0x01 j.since (payload (chainBytes j.chain) 0).1 (payload (chainBytes j.chain) 0).2) ∧
    (∃ u, exec (.sensorTrip volt temp clock) s = .next u ∧ s.SameBytes u ∧ (∀ q, u.ctxOf q = s.ctxOf q) ∧
      u.sdie.sensor = BitVec.ofNat 64 (clock.toNat * 2 ^ 32 + temp.toNat * 2 ^ 16 + volt.toNat) ∧
      (ok → u.sdie.keys = s.sdie.keys ∧ u.sdie.erased = s.sdie.erased ∧ u.cores = s.cores) ∧
      (¬ ok → u.sdie.keys = [] ∧ u.sdie.erased = true ∧ (∀ k, (u.core k).keyCache = []) ∧
        (j.closed = false → j.head < u.sdie.journal.head) ∧
        ∀ k < 256, (s.core k).sq.length < 64 → (s.core k).heldSq = [] → (u.core k).sq = (s.core k).sq ++ [⟨BitVec.ofNat 64 (0x31 * 2 ^ 56 + 7 * 2 ^ 52), 0, 0, 0⟩]))

/-! ### The host and the fabric -/

/-- R6, R379, R380, R381, R382: until the link is ready host accesses do nothing, and one that does not come on an established IDE stream
is answered Unsupported Request. A read of BAR2 answers the bytes of the lowest window that holds its offset, or says why not, and is
metered where they leave an egress region; a write changes those bytes and no other; the control window's registers take writes and answer
reads as their rows say, a write-only one reading zero. Where the rules leave it open, the choice is the model's (log 6, 34 and 66). -/
def Obligations.HostWindowsAct : Prop :=
  ∀ (s : State) (off len : Nat) (v : Word) (bs : ByteList) (st : Option Nat),
    let r := s.sdie.ring
    let up : Prop := s.platform.stage = 6
    let stream : Prop := ∃ n < 5, st = some n ∧ r.ide.getLsbD n = true
    let ready : Prop := up ∧ stream
    let fits (n : Nat) : Prop := 1 ≤ n ∧ off % 4096 + n ≤ 4096 ∧ off < 2 ^ 38
    let tells (i : Instr) (m : OutMsg) : Prop := ∃ u, exec i s = .next u ∧ u.out = s.out ++ [m] ∧ s.SameBytes u ∧ u.cores = s.cores
    let ring (i : Instr) (r' : Ring) : Prop := exec i s = .next { s with sdie := { s.sdie with ring := r' } }
    let k := r.ctl.toNat % 32
    let on := r.ctl.getLsbD 8
    let ahead := (bitsOf v 31 0 + 2 ^ 32 - r.head) % 2 ^ 32
    let rung : Prop := on = true ∧ 4 ≤ k ∧ k ≤ 16 ∧ ahead ≤ 2 ^ k
    let ctl : Word := BitVec.ofNat 64 ((if on then k else v.toNat % 32) + (if v.getLsbD 8 then 2 ^ 8 else 0))
    let reads (o : Nat) (x : Word) : Prop := tells (.bar0Write ⟨o, st⟩ .read) (.windowData o x)
    (¬ up → (fits len → exec (.bar2Read ⟨off, st⟩ len) s = .next s) ∧ (fits bs.length → exec (.bar2Write ⟨off, st⟩ bs) s = .next s) ∧
      (∀ op, exec (.bar0Write ⟨off, st⟩ op) s = .next s) ∧ exec (.hcRingtail ⟨v, st⟩) s = .next s ∧ exec (.hcRingctl ⟨v, st⟩) s = .next s) ∧
    (up → ¬ stream → (fits len → tells (.bar2Read ⟨off, st⟩ len) (.hostUnsupported off)) ∧
      (fits bs.length → tells (.bar2Write ⟨off, st⟩ bs) (.hostUnsupported off)) ∧
      tells (.bar0Write ⟨off, st⟩ (.write v)) (.hostUnsupported off) ∧ tells (.bar0Write ⟨off, st⟩ .read) (.hostUnsupported off) ∧
      tells (.hcRingtail ⟨v, st⟩) (.hostUnsupported 0x10) ∧ tells (.hcRingctl ⟨v, st⟩) (.hostUnsupported 0x08)) ∧
    (up → ∀ n b, ∃ e, ring (.bar0Write ⟨off, st⟩ (.ide n b)) { r with ide := e } ∧ ∀ i < 5, e.getLsbD i = if i = n then b else r.ide.getLsbD i) ∧
    (ready → reads 0x00 r.base ∧ reads 0x08 r.ctl ∧ reads 0x10 0 ∧ reads 0x18 (BitVec.ofNat 64 r.head) ∧ reads 0x20 r.cplBase ∧
      reads 0x28 (BitVec.ofNat 64 r.cplTail) ∧ reads 0x30 r.irqctl ∧ reads 0x38 (BitVec.ofNat 64 s.sdie.journal.head) ∧
      (off ∉ [0x00, 0x08, 0x18, 0x20, 0x28, 0x30, 0x38] → off < 0x10000 ∨ 0x20000 ≤ off → reads off 0) ∧
      ∀ n i e, n < 2048 → i < 4 → s.sdie.journal.entries.find? (fun p => decide (p.1 = n)) = some (n, e) →
        reads (0x10000 + 32 * n + 8 * i) (BitVec.ofNat 64 (leNat ((e.bytes.drop (8 * i)).take 8)))) ∧
    (ready →
      (fits len → (∀ w, s.windowOf off = some w → s.capacity < w.base + (off - w.off) + len) → tells (.bar2Read ⟨off, st⟩ len) (.hostUnsupported off)) ∧
      (fits bs.length → (∀ w, s.windowOf off = some w → s.capacity < w.base + (off - w.off) + bs.length) →
        tells (.bar2Write ⟨off, st⟩ bs) (.hostUnsupported off)) ∧
      (∀ w, s.windowOf off = some w →
        let pa := w.base + (off - w.off)
        (fits len → pa + len ≤ s.capacity →
          (w.rd = false → tells (.bar2Read ⟨off, st⟩ len) (.hostUnsupported off)) ∧
          (w.rd = true → rangeDelivered s pa len = false → tells (.bar2Read ⟨off, st⟩ len) (.hostPoisoned off)) ∧
          (w.rd = true → rangeDelivered s pa len = true → (∀ a, pa ≤ a → a < pa + len → s.egressOf a = none) →
            tells (.bar2Read ⟨off, st⟩ len) (.hostData off (s.bytesAt (.main pa) len))) ∧
          (∀ n, w.rd = true → rangeDelivered s pa len = true → (∀ a, pa ≤ a → a < pa + len → s.egressOf a = some n) →
            let x := (s.weir n).refilled s.timeUnits
            (x.held = [] → s.sdie.journal.closed = false → 0 < x.rate → len ≤ x.level →
              ∃ u, exec (.bar2Read ⟨off, st⟩ len) s = .next u ∧ u.out = s.out ++ [.hostData off (s.bytesAt (.main pa) len)] ∧ (u.weir n).level = x.level - len) ∧
            (x.held ≠ [] ∨ s.sdie.journal.closed = true ∨ x.rate = 0 ∨ x.level < len →
              ∃ u, exec (.bar2Read ⟨off, st⟩ len) s = .next u ∧ u.out = s.out ∧
                (u.weir n).held = (s.weir n).held ++ [⟨.host, len, pa, 0, s.timeUnits, .hostRead off len⟩]))) ∧
        (fits bs.length → pa + bs.length ≤ s.capacity →
          (w.wr = false → tells (.bar2Write ⟨off, st⟩ bs) (.hostUnsupported off)) ∧
          (w.wr = true → s.NoRecords → ∃ u, exec (.bar2Write ⟨off, st⟩ bs) s = .next u ∧ u.side = s.side ∧
            u.out = s.out ∧ u.cores = s.cores ∧ ∀ a, u.mem.read a = if pa ≤ a ∧ a < pa + bs.length then bs.getD (a - pa) 0 else s.mem.read a))) ∧
      (on = true ∨ off ≠ 0x00 ∧ off ≠ 0x20 → off ≠ 0x08 → off ≠ 0x10 → off ≠ 0x30 → exec (.bar0Write ⟨off, st⟩ (.write v)) s = .next s) ∧
      (on = false → ring (.bar0Write ⟨0x00, st⟩ (.write v)) { r with base := v } ∧ ring (.bar0Write ⟨0x20, st⟩ (.write v)) { r with cplBase := v }) ∧
      ring (.bar0Write ⟨0x30, st⟩ (.write v)) { r with irqctl := v &&& 0x13F } ∧
      (on = false → v.getLsbD 8 = true → ring (.bar0Write ⟨0x08, st⟩ (.write v)) { r with ctl := ctl, head := 0, tail := 0, cplTail := 0 } ∧
        ring (.hcRingctl ⟨v, st⟩) { r with ctl := ctl, head := 0, tail := 0, cplTail := 0 }) ∧
      (on = true ∨ v.getLsbD 8 = false → ring (.bar0Write ⟨0x08, st⟩ (.write v)) { r with ctl := ctl } ∧ ring (.hcRingctl ⟨v, st⟩) { r with ctl := ctl }) ∧
      (¬ rung → exec (.bar0Write ⟨0x10, st⟩ (.write v)) s = .next s ∧ exec (.hcRingtail ⟨v, st⟩) s = .next s) ∧
      (rung → ∃ u, u = { s with sdie := { s.sdie with ring := { r with tail := bitsOf v 31 0, bellClk := r.hostClk } }, agenda := s.agenda ++ [.ringFetch] } ∧
        exec (.bar0Write ⟨0x10, st⟩ (.write v)) s = .next u ∧ exec (.hcRingtail ⟨v, st⟩) s = .next u))

/-- R371, R374 to R378, R383, R374, R375, R378: the ring's commands. Each completes with its status, code and result in the completion
ring, and an interrupt where one is asked for: OPEN checks its point and a full journal, LAUNCH and GRAPH say whether the launch was
taken, IMPORT writes lines with their sidebands, SUMMARY writes its snapshot, JFREE moves the export point. An entry fetched out of
session, with a wrong code or with a wrong number is refused. RING_FETCH takes the entry at the ring's head, executes its command and
writes its completion. OPEN and SUMMARY need no session; every other command is executed in a session that is not halted, from an entry
whose code is right and whose number is the expected one, which rises by one. The ring's head goes on, and while entries are left the
fetch does. Of a LAUNCH the result is the RCB's number. Where the rules leave it open, the choice is the model's (log 30, 34, 35, 50, 66
and 84). -/
def Obligations.RingCommandsComplete : Prop :=
  (∀ (s : State) (seq : Word) (ops e : ByteList), s.linkReady = true →
     let r := s.sdie.ring
     let a := r.cplBase.toNat + 16 * (r.cplTail % 2 ^ (r.ctl.toNat % 32))
     let done (u : State) (seq : Word) (st code res : Nat) : Prop :=
       bytesToNat (u.bytesAt (.host a) 8) = seq.toNat ∧ bytesToNat (u.bytesAt (.host (a + 8)) 8) = st + code % 2 ^ 8 * 2 ^ 8 + res % 2 ^ 48 * 2 ^ 16 ∧
       u.sdie.ring.cplTail = (r.cplTail + 1) % 2 ^ 32 ∧ (r.irqctl.getLsbD 8 = true → .interrupt (r.irqctl.toNat % 64) ∈ u.out)
     let op (o : Nat) : Word := wordAt ops o
     let x := beNat (((e.drop 16).take 48).map (·.toNat))
     let y := beNat (((e.drop 64).take 48).map (·.toNat))
     let big := (op 8).toNat % 64 ≠ 0 ∨ s.capacity < (op 8).toNat + 64 * (op 16).toNat
     let inOne : Prop := ∃ i < 16, (s.weir i).covers (op 8).toNat = true ∧ (s.weir i).covers ((op 8).toNat + 64 * (op 16).toNat - 64) = true
     (e.length = 128 → onCurve x y = false → ∃ u, exec (.ringOpen e) s = .next u ∧ done u (wordAt e 0) 5 1 0 ∧ u.sdie.ring.session = r.session) ∧
     (e.length = 128 → onCurve x y = true → s.sdie.journal.closed = true → ∃ u, exec (.ringOpen e) s = .next u ∧ done u (wordAt e 0) 7 1 0 ∧
       u.sdie.ring.session = r.session) ∧
     (e.length = 128 → onCurve x y = true → s.sdie.journal.closed = false → ∃ u, exec (.ringOpen e) s = .next u ∧ done u (wordAt e 0) 0 1 0 ∧
       u.sdie.ring.session = true ∧ u.sdie.ring.halted = false ∧ u.sdie.ring.e = 0 ∧ s.sdie.journal.head < u.sdie.journal.head) ∧
     (let id := (op 0).toNat % 2 ^ 11
      (launchRcb s id none = none → ∃ u, exec (.ringLaunch seq ops) s = .next u ∧ done u seq 6 2 0) ∧
      (∀ s', launchRcb s id none = some s' → ∃ u, exec (.ringLaunch seq ops) s = .next u ∧ done u seq 0 2 id ∧ u.mem = s'.mem ∧ u.cores = s'.cores ∧
        u.rcbs = s'.rcbs ∧ u.agenda = s'.agenda)) ∧
     (launchGraph s (op 0).toNat = .refused → ∃ u, exec (.ringGraph seq ops) s = .next u ∧ done u seq 6 3 0) ∧
     (launchGraph s (op 0).toNat = .waits → exec (.ringGraph seq ops) s = .next s) ∧
     (∀ s', launchGraph s (op 0).toNat = .launched s' → ∃ u, exec (.ringGraph seq ops) s = .next u ∧ done u seq 0 3 0 ∧ u.mem = s'.mem ∧ u.cores = s'.cores ∧
       u.rcbs = s'.rcbs ∧ u.agenda = s'.agenda) ∧
     ((op 16).toNat = 0 ∨ 2 ^ 20 < (op 16).toNat ∨ big ∨ ¬ inOne → ∃ u, exec (.ringImport seq ops) s = .next u ∧ done u seq 5 4 0 ∧ u.mem = s.mem) ∧
     ((op 16).toNat ≠ 0 → (op 16).toNat ≤ 2 ^ 20 → ¬ big → inOne → s.NoRecords →
       (∀ i < (op 16).toNat, ∀ b ∈ s.bytesAt (.host ((op 0).toNat + 80 * i + 72)) 8, b = 0) →
       ∃ u, exec (.ringImport seq ops) s = .next u ∧ done u seq 0 4 (op 16).toNat ∧ ∀ i < (op 16).toNat,
         (∀ j < 64, u.mem.read ((op 8).toNat + 64 * i + j) = (s.bytesAt (.host ((op 0).toNat + 80 * i)) 64).getD j 0) ∧
         SMap.get 0 u.side ((op 8).toNat / 64 + i) = BitVec.ofNat 64 (bytesToNat (s.bytesAt (.host ((op 0).toNat + 80 * i + 64)) 8))) ∧
     ((op 0).toNat % 2 ^ 20 ≠ 0 → ∃ u, exec (.ringSummary seq ops) s = .next u ∧ done u seq 5 5 0) ∧
     ((op 0).toNat % 2 ^ 20 = 0 → ∃ (s' u : State) (sig : ByteList), exec (.ringSummary seq ops) s = .next u ∧ sig.length = 96 ∧
       done u seq 0 5 ((snapshot s).length + 96) ∧ s' = { s with hostMem := s'.hostMem } ∧
       s'.bytesAt (.host (op 0).toNat) ((snapshot s).length + 96) = snapshot s ++ sig ∧ (∃ l, u.hostMem = putBytes s'.hostMem a l ∧ l.length = 16)) ∧
     (∃ u, exec (.ringJfree seq ops) s = .next u ∧ done u seq 0 6 0 ∧ u.sdie.journal = (setExport s (op 0)).sdie.journal) ∧
     (let on : Prop := r.ctl.getLsbD 8 = true ∧ 4 ≤ r.ctl.toNat % 32 ∧ r.ctl.toNat % 32 ≤ 16
      let f := s.bytesAt (.host (r.base.toNat + 128 * (r.head % 2 ^ (r.ctl.toNat % 32)))) 128
      let code := bytesToNat ((f.drop 8).take 2)
      let num := wordAt f 0
      let good : Prop := cmac (leBytes 32 r.key.toNat) ((f.take 0x70).map (·.toNat)) = ((f.drop 0x70).take 16).map (·.toNat)
      let plain : Prop := on ∧ r.head ≠ r.tail ∧ code ≠ 1 ∧ code ≠ 5
      let inSession : Prop := r.session = true ∧ r.halted = false ∧ r.e < 2 ^ 63
      let refuses (st : Nat) (halted : Bool) : Prop := ∃ u, exec .ringFetch s = .next u ∧ done u num st code 0 ∧ u.sdie.ring.head = (r.head + 1) % 2 ^ 32 ∧
        u.sdie.ring.halted = halted ∧ u.sdie.ring.e = r.e ∧ u.mem = s.mem ∧ u.cores = s.cores
      (¬ on ∨ r.head = r.tail → exec .ringFetch s = .next s) ∧
      (plain → ¬ inSession → refuses 4 r.halted) ∧
      (plain → inSession → ¬ good → refuses 1 r.halted) ∧
      (plain → inSession → good → num.toNat < r.e → refuses 2 r.halted) ∧
      (plain → inSession → good → r.e < num.toNat → refuses 3 true) ∧
      (plain → inSession → good → num.toNat = r.e → code = 0 ∨ 6 < code → ∃ u, exec .ringFetch s = .next u ∧ done u num 5 code 0 ∧ u.sdie.ring.e = r.e + 1 ∧
        u.sdie.ring.head = (r.head + 1) % 2 ^ 32))) ∧
  (∀ (s : State), s.linkReady = true →
     let r := s.sdie.ring
     let k := r.ctl.toNat % 32
     let on : Prop := r.ctl.getLsbD 8 = true ∧ 4 ≤ k ∧ k ≤ 16
     let f := s.bytesAt (.host (r.base.toNat + 128 * (r.head % 2 ^ k))) 128
     let code := bytesToNat ((f.drop 8).take 2)
     let num := wordAt f 0
     let ops := (f.drop 16).take 96
     let a := r.cplBase.toNat + 16 * (r.cplTail % 2 ^ k)
     let free : Prop := code = 1 ∨ code = 5
     let good : Prop := cmac (leBytes 32 r.key.toNat) ((f.take 0x70).map (·.toNat)) = ((f.drop 0x70).take 16).map (·.toNat)
     let inTurn : Prop := r.session = true ∧ r.halted = false ∧ r.e < 2 ^ 63 ∧ good ∧ num.toNat = r.e
     let s0 : State := { s with micro := { s.micro with clkSdie := max s.micro.clkSdie r.bellClk } }
     let s1 : State := if code = 1 ∨ code = 5 then s0 else { s0 with sdie := { s0.sdie with ring := { r with e := r.e + 1 } } }
     let done (u s' : State) (st res : Nat) : Prop :=
       bytesToNat (u.bytesAt (.host a) 8) = num.toNat ∧ bytesToNat (u.bytesAt (.host (a + 8)) 8) = st + code * 2 ^ 8 + res % 2 ^ 48 * 2 ^ 16 ∧
       u.sdie.ring.cplTail = (r.cplTail + 1) % 2 ^ 32 ∧ u.sdie.ring.head = (r.head + 1) % 2 ^ 32 ∧ u.sdie.ring.e = s'.sdie.ring.e ∧
       u.sdie.ring.session = s'.sdie.ring.session ∧ (r.irqctl.getLsbD 8 = true → .interrupt (r.irqctl.toNat % 64) ∈ u.out) ∧
       u.mem = s'.mem ∧ u.side = s'.side ∧ u.cores = s'.cores ∧ u.rcbs = s'.rcbs ∧ u.sdie.journal = s'.sdie.journal ∧
       ((r.head + 1) % 2 ^ 32 ≠ r.tail → .ringFetch ∈ u.agenda)
     on → r.head ≠ r.tail → 1 ≤ code → code ≤ 6 → free ∨ inTurn →
       (∀ st res s', command s1 code ops = some (st, res, s') → ∃ u, exec .ringFetch s = .next u ∧ done u s' st res) ∧
       (code = 2 → ∀ s', launchRcb s1 ((wordAt ops 0).toNat % 2 ^ 11) none = some s' →
         ∃ u, exec .ringFetch s = .next u ∧ done u s' 0 ((wordAt ops 0).toNat % 2 ^ 11) ∧ u.sdie.ring.e = r.e + 1) ∧
       (command s1 code ops = none → exec .ringFetch s = .next (s0.post [.ringFetch])))

/-- R299, R305, R348, R351, R353, R356, R384, R385, R386: the head record of a port's queue leaves through it; a received record, with its
port in bits 27 to 24, enters queue 0xE10 or waits; a peer reads, writes, operates and makes JOINs on lines that are backed, at their
homes, and owns a line until it gives it back or is fenced; it publishes and follows the rounds of a region; a router output passes the
branch of the head that leaves by it to the next router, or lets its messages arrive. Where the rules leave it open, the choice is the
model's (log 36 and 62). -/
def Obligations.FabricAndMeshAct : Prop :=
  ∀ (s : State) (p : Nat), p < 16 →
    let q := 0xE00 + p
    let tells (i : Instr) (m : OutMsg) : Prop := ∃ u, exec i s = .next u ∧ u.out = s.out ++ [m] ∧ s.SameBytes u
    (s.queueDesc q = none → exec (.fabricSend p) s = .next s) ∧
    (∀ d, s.queueDesc q = some d →
      (d.count = 0 → exec (.fabricSend p) s = .next s) ∧
      (s.delivered (.main (d.slotAddr d.head)) = false → exec (.fabricSend p) s = .next s) ∧
      (d.count ≠ 0 → s.delivered (.main (d.slotAddr d.head)) = true → ∀ s', deviceGate s (s.queueAddr q / 64) = (false, s') →
        exec (.fabricSend p) s = .next (s'.post [.fabricSend p])) ∧
      (d.count ≠ 0 → s.delivered (.main (d.slotAddr d.head)) = true → (deviceGate s (s.queueAddr q / 64)).1 = true → s.NoRecords → ∃ u, exec (.fabricSend p) s = .next u ∧ u.out = s.out ++ [.fabric p (s.lineAt (.main (d.ring + 64 * (d.head % 2 ^ d.c)))).1] ∧
        (∀ a, u.mem.read a = if s.qtable + 64 * q + 16 ≤ a ∧ a < s.qtable + 64 * q + 24
          then BitVec.ofNat 8 ((d.head + 1) % 2 ^ 32 / 256 ^ (a - (s.qtable + 64 * q + 16))) else s.mem.read a) ∧
        (d.count ≠ 1 → .fabricSend p ∈ u.agenda))) ∧
    (∀ rcd : BitVec 512, s.sdie.fabricIn = [] →
      let s1 : State := noteGrant { s with sdie := { s.sdie with fabricIn := [(p, rcd)] } } p rcd
      let got := arrivalRecord p rcd
      (rcd.toNat % 2 ^ 8 = 1 → ⟨p, rcd.toNat / 2 ^ 8 % 2 ^ 16, rcd.toNat / 2 ^ 128 % 2 ^ 48, rcd.toNat / 2 ^ 120 % 2 ^ 5, 0⟩ ∈ s1.sdie.grants) ∧
      (∀ j < 512, got.getLsbD j = if 24 ≤ j ∧ j < 28 then p.testBit (j - 24) else rcd.getLsbD j) ∧
      (∀ s', deviceGate s1 (s1.queueAddr 0xE10 / 64) = (false, s') → exec (.fabricReceive p rcd) s = .next s') ∧
      (∀ s', deviceGate s1 (s1.queueAddr 0xE10 / 64) = (true, s') →
        (∀ e, enqueueAt s' 0xE10 got false (deviceWho (s'.sdieClk + 1)) = .error e → exec (.fabricReceive p rcd) s = .next s') ∧
        (∀ v c s2, enqueueAt s' 0xE10 got false (deviceWho (s'.sdieClk + 1)) = .ok (v, c, s2) → exec (.fabricReceive p rcd) s =
          .next { s2.raiseSdie c with sdie := { (s2.raiseSdie c).sdie with fabricIn := [] } }))) ∧
    (∀ line clk lease, let pa := 64 * line
      let h := s.micro.homeLine line
      let bad : Prop := s.delivered (.main pa) = false ∨ s.capacity < pa + 64
      let room : Prop := s.micro.lineMoving line = false ∧ s.micro.standing (s.micro.homeOf pa) < 1024
      let rest : Prop := room ∧ h.st = .c ∧ s.micro.ownerOf line (256 + p) = none
      let get : Instr := .peerAccess (.read p line clk lease)
      let stores (u : State) (data : LineData) (side : Word) : Prop :=
        (∀ a, u.mem.read a = if pa ≤ a ∧ a < pa + 64 then BitVec.ofNat 8 (data.toNat / 256 ^ (a - pa)) else s.mem.read a) ∧
        ∀ l, SMap.get 0 u.side l = if l = line then side else SMap.get 0 s.side l
      (bad → tells get (.peerError p) ∧ tells (.peerAccess (.own p line)) (.peerError p) ∧
        (∀ r n, tells (.peerAccess (.bounded p line r n)) (.peerError p)) ∧ ∀ data side, tells (.peerAccess (.write p line data side)) (.peerError p)) ∧
      (¬ bad → room → h.st = .o → ∃ u, exec get s = .next u ∧ s.SameBytes u ∧ u.out = s.out ∧
        u.micro.homeLine line = { h with st := .f, waiting := h.waiting ++ [get] } ∧
        u.agenda = s.agenda ++ [.agentFwd h.owner line .gets]) ∧
      (¬ bad → rest → s.egressOf pa = none → ∃ u, exec get s = .next u ∧ s.SameBytes u ∧
        u.out = s.out ++ [.peerData p (s.lineAt (.main pa)).1 (s.lineAt (.main pa)).2] ∧
        (s.micro.watched pa = false → (u.micro.homeLine line).rts = max h.rts (max h.wts (max clk s.micro.minClk + lease)))) ∧
      (∀ r g n, ¬ bad → s.regionOn r = some g → r < 4096 →
        (atOrAhead (s.homeView r pa) n = false → ∃ u, exec (.peerAccess (.bounded p line r n)) s = .next u ∧ s.SameBytes u ∧ u.out = s.out ∧
          u.sdie.peerStalled = s.sdie.peerStalled ++ [(p, line, r, n)]) ∧
        (atOrAhead (s.homeView r pa) n = true → rest → s.egressOf pa = none →
          tells (.peerAccess (.bounded p line r n)) (.peerData p (s.lineAt (.main pa)).1 (s.lineAt (.main pa)).2))) ∧
      (¬ bad → rest → s.egressOf pa = none → s.micro.watched pa = false → ∃ u, exec (.peerAccess (.own p line)) s = .next u ∧ s.SameBytes u ∧
        u.out = s.out ++ [.peerData p (s.lineAt (.main pa)).1 (s.lineAt (.main pa)).2] ∧ u.micro.homeLine line = { h with st := .o, owner := 256 + p, served := false }) ∧
      (∀ (data : LineData) (side : Word), h.owner ≠ 256 + p ∨ h.st = .c → exec (.peerAccess (.back p line data side)) s = .next s) ∧
      (∀ (data : LineData) (side : Word), h.owner = 256 + p → h.st ≠ .c → s.micro.copyAt (256 + p) line = none → s.NoRecords → ∃ u, exec (.peerAccess (.back p line data side)) s = .next u ∧
        stores u data side ∧ (u.micro.homeLine line).st = .c ∧ ∀ i ∈ h.waiting, i ∈ u.due) ∧
      (h.owner ≠ 256 + p ∨ h.st = .c → exec (.peerAccess (.fence p line)) s = .next s) ∧
      (h.owner = 256 + p → h.st ≠ .c → ∃ u, exec (.peerAccess (.fence p line)) s = .next u ∧ s.SameBytes u ∧
        (u.micro.homeLine line).st = .c ∧ u.due = s.due ++ h.waiting) ∧
      (¬ bad → rest → s.NoRecords → ∀ (data : LineData) (side : Word), ∃ u, exec (.peerAccess (.write p line data side)) s = .next u ∧ u.out = s.out ∧
        stores u data side)) ∧
    (∀ (pa n : Nat) (y : Word), n = 4 ∨ n = 8 →
      let m := bytesToNat (s.mem.readBytes pa n)
      let line := pa / 64
      let bad : Prop := s.delivered (.main pa) = false ∨ s.capacity < pa + n ∨ pa % n ≠ 0 ∨ (s.egressOf pa).isSome = true
      let rest : Prop := s.micro.lineMoving line = false ∧ s.micro.standing (s.micro.homeOf (64 * line)) < 1024 ∧ (s.micro.homeLine line).st = .c ∧
        s.micro.ownerOf line (256 + p) = none
      (bad → ∀ op, tells (.peerAccess (.atomic p pa n op y)) (.peerError p)) ∧
      (¬ bad → rest → s.NoRecords → ∃ u, exec (.peerAccess (.atomic p pa n .add y)) s = .next u ∧
        u.out = s.out ++ [.peerData p (BitVec.ofNat 512 m) 0] ∧
        ∀ a, u.mem.read a = if pa ≤ a ∧ a < pa + n then BitVec.ofNat 8 ((m + y.toNat) % 2 ^ (8 * n) / 256 ^ (a - pa)) else s.mem.read a)) ∧
    (∀ pa user,
      let i : Instr := .peerAccess (.join p pa user)
      let t : Target := { loc := .main pa }
      let bad : Prop := s.delivered (.main pa) = false ∨ s.capacity < pa + 128 ∨ pa % 128 ≠ 0 ∨ s.inEgress (.main pa) = true ∨ s.inEgress (.main (pa + 64)) = true
      (bad → tells i (.peerError p)) ∧
      (¬ bad → (∀ u, homeGate s (pa / 64) (256 + p) .getx i = .error u → exec i s = .next u) ∧
        ∀ s1, homeGate s (pa / 64) (256 + p) .getx i = .ok s1 →
          (∀ u, joinGate s1 (256 + p) i (joinLines s1 t) = .error u → exec i s = .next u) ∧
          ∀ s2, joinGate s1 (256 + p) i (joinLines s1 t) = .ok s2 →
            (∀ e, joinAt s2 (portWho (0x200 + p) 0) t user 0 = .error e → exec i s = .next (s2.emit (.peerError p))) ∧
            ∀ n a, joinAt s2 (portWho (0x200 + p) 0) t user 0 = .ok (n, a) →
              ∃ u, exec i s = .next u ∧ u.out = a.2.2.out ++ [.peerData p (BitVec.ofNat 512 n) 0])) ∧
    (∀ id g, s.sdie.grants.find? (fun g => decide (g.port = p) && decide (g.id = id)) = some g → ∃ u, exec (.peerAccess (.ended p id)) s = .next u ∧
      s.SameBytes u ∧ g ∉ u.sdie.grants ∧ ∀ k l c port f, u.micro.copyAt k l = some c → lineLoc l = .foreign port f → g.covers port f = false) ∧
    (∀ r, r < 4096 →
      (s.regionOn r = none → tells (.peerAccess (.publish p r)) (.peerError p) ∧ tells (.peerAccess (.acquire p r)) (.peerError p) ∧
        tells (.peerAccess (.subscribe p r)) (.peerError p)) ∧
      (∀ g, s.regionOn r = some g →
        (s.micro.lineMoving (g.base / 64) = true → ∀ i ∈ [Instr.peerAccess (.acquire p r), .peerAccess (.subscribe p r), .peerAccess (.publish p r)],
          exec i s = .next { s with micro := { s.micro with retry := s.micro.retry ++ [(g.base / 4096, i)] } }) ∧
        (s.micro.lineMoving (g.base / 64) = false → tells (.peerAccess (.acquire p r)) (.peerRound p r g.counter) ∧
        (∃ u, exec (.peerAccess (.subscribe p r)) s = .next u ∧ s.SameBytes u ∧ u.out = s.out ++ [.peerRound p r g.counter] ∧
          ∀ g', u.regionOn r = some g' → g'.ports.getLsbD p = true ∧ g'.counter = g.counter) ∧
        ∃ u, exec (.peerAccess (.publish p r)) s = .next u ∧ s.SameBytes u ∧ .peerRound p r (g.counter + 1) ∈ u.out ∧
          (∀ g', u.regionOn r = some g' → g'.counter = g.counter + 1) ∧
          ∀ c < 64, g.subscribers.getLsbD c = true → .roundMulticast (.cluster c) r (g.counter + 1) ∈ u.agenda))) ∧
    (∀ die port, die < 4 → port < 6 →
      (heads s.mesh die p port = [] → ∃ u, exec (.meshArbitration die p port) s = .next u ∧ u.mesh.fifos = s.mesh.fifos ∧ u.agenda = s.agenda ∧ u.due = s.due ∧
        s.SameBytes u) ∧
      (∀ h f, heads s.mesh die p port = [h] → s.mesh.fifo (fifoKey die p h.input h.vc) = [f] → (∀ x, f.onward = some x → x.1 % 4 ≠ die) →
        ∃ u, exec (.meshArbitration die p port) s = .next u ∧ s.SameBytes u ∧
        u.mesh.fifo (fifoKey die p h.input h.vc) = (restOf f.dest h.flit.dest).toList.map (fun d => { f with dest := d }) ∧
        (∀ near side, (port = 0 ∧ near + 4 = p ∧ side = 2) ∨ (port = 1 ∧ near = p + 1 ∧ p % 4 < 3 ∧ side = 3) ∨
          (port = 2 ∧ near = p + 4 ∧ p < 12 ∧ side = 0) ∨ (port = 3 ∧ near + 1 = p ∧ 0 < p % 4 ∧ side = 1) →
            u.mesh.fifo (fifoKey die near side h.vc) = s.mesh.fifo (fifoKey die near side h.vc) ++ [h.flit]) ∧
        (4 ≤ port ∨ (port = 0 ∧ p < 4) ∨ (port = 1 ∧ p % 4 = 3) ∨ (port = 2 ∧ 12 ≤ p) ∨ (port = 3 ∧ p % 4 = 0) →
          ∀ m ∈ f.msgs, m.1 = (if port = 4 then p else 16) → m.2 ∈ u.due)))

/-! ### The debug port and the platform -/

/-- R188, R336, R344, R387 to R394: the port refuses attaching while the journal is full or not yet started, every operation while nobody
is attached and the operations of mode 1 in mode 0. Attached, it stops, releases and steps threads, claims slots, reads state, registers,
images and lines, writes images and lines, programs comparators and watches, and launches a thread of an RCB that is neither held nor
spent; detaching releases every stop and claim. Where the rules leave it open, the choice is the model's (log 28 and 37). -/
def Obligations.DebugPortActs : Prop :=
  ∀ (s : State) (k i slot n rcb : Nat) (off v entry : Word) (cr : BitVec 10) (mask : BitVec 16) (data : LineData),
    k < 256 → i < 24 → slot < 16 → rcb < 2048 →
    let c := s.core k
    let j := s.sdie.journal
    let free : Prop := s.sdie.dbgMode = none
    let control : Prop := s.sdie.dbgMode = some 1
    let refused (e : Instr) : Prop := exec e s = .next (s.emit (.debugStatus false))
    let sends (e : Instr) (m : OutMsg) : Prop := ∃ u, exec e s = .next u ∧ u.out = s.out ++ [m] ∧ s.SameBytes u ∧ u.cores = s.cores
    let does (e : Instr) (f : State → Prop) : Prop := ∃ u : State, exec e s = .next (u.emit (.debugStatus true)) ∧ u.out = s.out ∧ s.SameBytes u ∧ f u
    let only (u : State) (r : ThreadRef) (x : Context) : Prop := ∀ q, (u.ctxOf q).regs = if q = r then x.regs else (s.ctxOf q).regs
    let x := s.ctxOf ⟨k, i⟩
    let o := off.toNat
    let reach : Prop := (x.stopped = true ∨ x.st = .parked) ∧ o % 8 = 0 ∧ o < 0x2E8
    let pa := 64 * n
    let backed : Prop := s.delivered (.main pa) = true ∧ pa + 64 ≤ s.capacity
    let released (y : Context) : Context := { y with stopped := false, stopReq := false, dbgStep := false, wait := if y.stopped then 0 else y.wait, pc := addr56 (y.pc.toNat + 4 * y.skipWords), skipWords := 0 }
    (∀ m < 2, (j.closed = true ∨ s.platform.stage = 0 → refused (.debugAttach m)) ∧
      (j.closed = false → s.platform.stage ≠ 0 → does (.debugAttach m) (fun u => u.sdie.dbgMode = some m ∧ u.cores = s.cores ∧ ∀ z,
        SMap.get z u.sdie.journal.entries (j.head % 2048) = ⟨BitVec.ofNat 64 j.head, 0x40, 0xFF, 0, BitVec.ofNat 32 s.ms, 0, BitVec.ofNat 64 m⟩))) ∧
    (free → refused .debugDetach ∧ refused (.debugReadState k .slotCounter n) ∧ refused (.debugReadCr k i cr)) ∧
    (¬ control → refused (.debugStop k slot) ∧ refused (.debugRelease k slot) ∧ refused (.debugStep k slot) ∧ refused (.debugClaim k mask) ∧
      refused (.debugReadContext k i off) ∧ refused (.debugWriteContext k i off v) ∧ refused (.debugReadMemory n) ∧ refused (.debugWriteMemory n data v) ∧
      refused (.debugProgramPcmp k 4 v) ∧ refused (.debugProgramWatch 0 slot v) ∧ refused (.debugLaunch entry k slot rcb)) ∧
    (¬ free → s.sdie.dbgParked = [] → s.sdie.dbgLaunched = [] → does .debugDetach (fun u => u.sdie.dbgMode = none ∧ (∀ q, (u.core q).claims = 0) ∧
      ∀ q, u.ctxOf q = if (s.ctxOf q).stopped ∨ (s.ctxOf q).stopReq ∨ (s.ctxOf q).dbgStep then released (s.ctxOf q) else s.ctxOf q)) ∧
    (¬ free → s.sdie.dbgParked = [] → s.sdie.dbgLaunched = [(k, i + 1)] → c.boundTo 15 = some i → does .debugDetach (fun u => u.sdie.dbgLaunched = [] ∧
      ((u.ctxOf ⟨k, i⟩).st = .parked ∨ ((u.ctxOf ⟨k, i⟩).st = .bound ∧ (u.ctxOf ⟨k, i⟩).parkReq = true)))) ∧
    (¬ free →
      sends (.debugReadState k .slotCounter n) (.debugWord (SMap.get 0 c.slotcnt (n % 64))) ∧
      sends (.debugReadState k .readyHist n) (.debugWord (SMap.get 0 c.readyhist (n % 17))) ∧
      (∀ (t : TraceRec) l, c.trace.drop n = t :: l → sends (.debugReadState k .trace (4 * n)) (.debugWord t.cycle) ∧
        sends (.debugReadState k .trace (4 * n + 1)) (.debugWord t.pc) ∧ sends (.debugReadState k .trace (4 * n + 2)) (.debugWord t.source) ∧
        sends (.debugReadState k .trace (4 * n + 3)) (.debugWord t.data)) ∧
      (∀ b w t l, s.sdie.watchReports.drop n = (b, w, t) :: l → sends (.debugReadState k .watchReport n) (.watchReport b w t)) ∧
      sends (.debugReadState k .basin (2 * (n % 64))) (.debugWord ((c.basin (n % 64)).bits.setWidth 64)) ∧
      sends (.debugReadState k .basin (2 * (n % 64) + 1)) (.debugWord (((c.basin (n % 64)).bits >>> 64).setWidth 64)) ∧
      sends (.debugReadState k .barrier (2 * (n % 2048))) (.debugWord ((c.barrier (n % 2048)).bits.setWidth 64)) ∧
      sends (.debugReadState k .barrier (2 * (n % 2048) + 1)) (.debugWord (((c.barrier (n % 2048)).bits >>> 64).setWidth 64)) ∧
      (∀ g, s.regionOn n = some g → sends (.debugReadState k .round n) (.debugWord (g.counter.setWidth 64))) ∧
      sends (.debugReadState k .journal n) (.debugWord (journalWindow j n)) ∧
      (∀ e < 3, ∀ w < 13, sends (.debugReadState k (.bargeWord e w) n) (.debugWord (bargeWord k e (n % 8) ((c.engine e).barge (n % 8)) w))) ∧
      (crAssigned cr.toNat = true → sends (.debugReadCr k i cr) (.debugWord (readCr s ⟨k, i⟩ cr.toNat))) ∧
      (crAssigned cr.toNat = false → refused (.debugReadCr k i cr))) ∧
    (control →
      (c.boundTo slot = none → refused (.debugStop k slot) ∧ refused (.debugStep k slot)) ∧
      (∀ b, c.boundTo slot = some b → let y := s.ctxOf ⟨k, b⟩
        (y.stopped = true → does (.debugStop k slot) (fun u => u = s) ∧ does (.debugStep k slot) (fun u => only u ⟨k, b⟩ { released y with dbgStep := true })) ∧
        (y.stopped = false → refused (.debugStep k slot)) ∧
        (y.stopped = false → atPoint y = true → does (.debugStop k slot) (fun u => only u ⟨k, b⟩
          { y with stopped := true, stopReq := false, dbgStep := false, chain := {}, answer := none })) ∧
        (y.stopped = false → atPoint y = false → does (.debugStop k slot) (fun u => only u ⟨k, b⟩ { y with stopReq := true })) ∧
        does (.debugRelease k slot) (fun u => only u ⟨k, b⟩ (released y))) ∧
      (threadCtx s k slot = none → refused (.debugRelease k slot)) ∧
      does (.debugClaim k mask) (fun u => u.core k = { c with claims := mask }) ∧
      (reach → sends (.debugReadContext k i off) (.debugWord (imageWord c x o)) ∧
        does (.debugWriteContext k i off v) (fun u => only u ⟨k, i⟩ (if o = 0 then { x with pc := v, skipWords := 0 } else setImageWord x o v false))) ∧
      (¬ reach → refused (.debugReadContext k i off) ∧ refused (.debugWriteContext k i off v)) ∧
      (¬ backed → sends (.debugReadMemory n) .debugError ∧ sends (.debugWriteMemory n data v) .debugError) ∧
      (backed → s.egressOf pa = none → sends (.debugReadMemory n) (.debugLine n (s.lineAt (.main pa)).1 (s.lineAt (.main pa)).2)) ∧
      (backed → s.NoRecords → ∃ u : State, exec (.debugWriteMemory n data v) s = .next (u.emit (.debugStatus true)) ∧ u.out = s.out ∧ u.cores = s.cores ∧
        (∀ a, u.mem.read a = if pa ≤ a ∧ a < pa + 64 then BitVec.ofNat 8 (data.toNat / 256 ^ (a - pa)) else s.mem.read a) ∧
        ∀ l, SMap.get 0 u.side l = if l = n then v else SMap.get 0 s.side l) ∧
      (∀ q < 4, does (.debugProgramPcmp k q v) (fun u => u.core k = { c with pcmp := SMap.set 0 c.pcmp q v })) ∧
      does (.debugProgramPcmp k 4 v) (fun u => u.core k = { c with pcmpctl := v }) ∧
      (∀ q < 32, does (.debugProgramWatch q slot v) (fun u => SMap.get 0 u.micro.watches (16 * q + slot) = v ∧ u.cores = s.cores)) ∧
      (slotOpen s k slot = false ∨ debugRegister s rcb k = none → refused (.debugLaunch entry k slot rcb)) ∧
      (slotOpen s k slot = true → ∀ s1, debugRegister s rcb k = some s1 →
        let g := s1.reg rcb
        let made := createContext (yieldSlot15 s1 k slot) k slot rcb entry g.args g.frame 0 (s1.sdieClk + 1) .debug
        (s1.held rcb = true ∨ g.exhausted = true → refused (.debugLaunch entry k slot rcb)) ∧
        (∀ s2, made = .error s2 → refused (.debugLaunch entry k slot rcb)) ∧
        (∀ s2, s1.held rcb = false → g.exhausted = false → made = .ok s2 → exec (.debugLaunch entry k slot rcb) s = .next ((keepSlot15 s2 k slot).emit (.debugStatus true)) ∧
          ∃ b < 24, let y := (s2.core k).ctx b
            y.st = .bound ∧ y.slot = slot ∧ y.level = (if slot = 15 then Machine.Level.s else Machine.Level.u) ∧ y.pc = entry ∧ y.readS 5 = g.frame ∧ y.readS 1 = g.args.getD 0 0)))

/-- R35, R233, R234, R239, R357, R369, R398 to R403: bring-up takes its six stages in order and stops where one fails; a reset returns the
package to the first; the points of operation, the throttling of the clock, machine checks and wear follow their rows, and the management
controller reads them. Where the rules leave it open, the choice is the model's (log 8, 29, 41, 57, 66 and 73). -/
def Obligations.PlatformActs : Prop :=
  ∀ (s : State) (v : Word) (line die k : Nat) (deeper : Bool) (draw : BitVec 16),
    let p := s.platform
    let n := p.stage + 1
    let bit (hi lo : Nat) := bitsOf v hi lo
    let mhz := bitsOf s.sdie.senslim 63 48
    let fastest : Nat := if 1300 ≤ mhz then 0 else if 1100 ≤ mhz then 1 else if 900 ≤ mhz then 2 else 3
    let slowest (a : Nat) : Nat := if p.gating = 0 then max a fastest else 3
    let sets (i : Instr) (p' : Platform) : Prop := exec i s = .next { s with platform := p' }
    let shown (q : Nat) : Word := BitVec.ofNat 64 (bitsOf s.sdie.sensor 63 48 * 2 ^ 48 + (if q = 0 then 1300 else if q = 1 then 1100 else
      if q = 2 then 900 else 700) * 2 ^ 32 + bitsOf s.sdie.sensor 31 0)
    let moves (i : Instr) (p' : Platform) : Prop := exec i s = .next { s with
      platform := p', sdie := { s.sdie with sensor := if p'.running = p.running then s.sdie.sensor else shown p'.running } }
    let hottest : Int := (BitVec.ofNat 16 (bitsOf s.sdie.sensor 31 16)).toInt
    let now := s.timeUnits + 1
    let beyond (w : BitVec 16) : Prop := (p.thermal.toNat : Int) < hottest ∨ p.power.toNat < w.toNat
    let still : Prop := beyond draw ∧ p.overSince ≠ 0 ∧ p.overSince + msUnits / 10 ≤ now
    let recovered (w : BitVec 16) : Prop := hottest + 50 ≤ (p.thermal.toNat : Int) ∧ w.toNat + 100 ≤ p.power.toNat ∧ p.coolSince ≠ 0 ∧
      p.coolSince + 10 * msUnits ≤ now
    (6 ≤ p.stage ∨ p.failed = true → ∀ r, exec (.bringUpStage r) s = .next s) ∧
    (p.stage < 6 → p.failed = false →
      (∀ e l, e ∈ bootCodes n → sets (.bringUpStage (.failed e l)) { p with stage := n, error := e, failed := true, links := if n = 2 then l else 0 }) ∧
      (∀ e l, e ∉ bootCodes n → exec (.bringUpStage (.failed e l)) s = .next s) ∧
      ∃ u, exec (.bringUpStage .done) s = .next u ∧ u.platform = { p with stage := n } ∧
        (n < 6 → .bringUpStage (bootOf s.sdie.boots (n + 1)) ∈ u.agenda) ∧
        (n = 1 → (∀ q, (SMap.get {} u.sdie.keys q).occupied = true ↔ q = 62 ∨ q = 63) ∧ u.sdie.journal = { chain := chainStart }) ∧
        (n = 3 → u.mem = [] ∧ u.side = [] ∧ u.cores = [] ∧ u.dispensers = [] ∧ u.micro = { dir := u.micro.dir, dirOrder := u.micro.dirOrder }) ∧
        (n = 4 → let x := u.ctxOf ⟨0, 0⟩
          x.st = .bound ∧ x.slot = 15 ∧ x.level = .m ∧ x.prior = 1 ∧ x.pc.toNat = Config.monitorEntry.toNat % 2 ^ 56 ∧
          (let d := payload (sha384 (Config.monitorImage.map (fun b => b.2.toNat))) 0
           s.sdie.journal.closed = false → ∀ z, SMap.get z u.sdie.journal.entries (s.sdie.journal.head % 2048) =
             ⟨BitVec.ofNat 64 s.sdie.journal.head, 0x50, 0xFF, 0, BitVec.ofNat 32 s.ms, d.1, d.2⟩)) ∧
        (n = 5 → (∀ q, 1 ≤ q → q < 256 → let x := u.ctxOf ⟨q, 0⟩
          x.st = .bound ∧ x.slot = 15 ∧ x.level = .s ∧ x.pc.toNat = Config.kernelEntry.toNat % 2 ^ 56) ∧
          ∀ i, u.ctxOf ⟨0, i⟩ = s.ctxOf ⟨0, i⟩)) ∧
    (∃ u, exec .powerOnReset s = .next u ∧ u.mem = [] ∧ u.side = [] ∧ u.cores = [] ∧ u.rcbs = [] ∧ u.regions = [] ∧ u.cycle = 0 ∧
      u.platform = { wear := p.wear } ∧ u.sdie = { boots := s.sdie.boots + 1 } ∧ u.hostMem = s.hostMem ∧ u.peerMem = s.peerMem ∧ u.out = s.out ∧
      .bringUpStage (bootOf (s.sdie.boots + 1) 1) ∈ u.agenda) ∧
    (let q : Platform := { p with requested := min 3 (bit 3 0), running := slowest (max (min 3 (bit 3 0)) p.allowed) }
     moves (.powerControlWrite (.write v)) { q with thermal := BitVec.ofNat 12 (bit 19 8), power := BitVec.ofNat 12 (min 2400 (bit 31 20)) }) ∧
    (let told (op : MgmtOp) (f : Word → Prop) : Prop := ∃ w, exec (.powerControlWrite op) s = .next (s.emit (.mgmtWord w)) ∧ f w
     told .power (fun w => bitsOf w 3 0 = p.requested % 16 ∧ bitsOf w 7 4 = p.running % 16 ∧ bitsOf w 19 8 = p.thermal.toNat ∧ bitsOf w 31 20 = p.power.toNat ∧
       bitsOf w 34 32 = p.gating % 8 ∧ w.getLsbD 35 = p.unmet) ∧
     told .boot (fun w => bitsOf w 11 8 = p.error % 16 ∧ bitsOf w 15 12 = p.stage % 16 ∧ bitsOf w 63 16 = p.links.toNat) ∧
     told .wear (fun w => (∀ d < 9, w.toNat ≤ (SMap.get 0 p.wear d).toNat) ∧ ∃ d < 9, w = SMap.get 0 p.wear d) ∧
     ∀ e x, p.mclog[e]? = some x → told (.check e 0) (fun w => w = x.addr) ∧ told (.check e 1) (fun w => w = BitVec.ofNat 64 x.die) ∧
       told (.check e 2) (fun w => w = BitVec.ofNat 64 x.cycle) ∧ told (.check e 3) (fun w => w = BitVec.ofNat 64 x.core)) ∧
    (beyond p.draw → p.running < 3 → moves .throttleDown { p with
      allowed := p.running + 1, overSince := now, coolSince := 0, running := slowest (max p.requested (p.running + 1)) }) ∧
    (¬ beyond p.draw ∨ 3 ≤ p.running → exec .throttleDown s = .next s) ∧
    (recovered p.draw → p.gating = 0 → moves .throttleUp { p with
      allowed := p.allowed - 1, coolSince := now, running := slowest (max p.requested (p.allowed - 1)) }) ∧
    (¬ recovered p.draw ∨ p.gating ≠ 0 → exec .throttleUp s = .next s) ∧
    (p.running ≠ 3 → sets (.gatingStep deeper draw) { p with draw := draw }) ∧
    (p.running = 3 → deeper = true → still → moves (.gatingStep deeper draw) { p with
      draw := draw
      gating := min 4 (p.gating + 1), allowed := 3, running := 3, overSince := now, coolSince := 0
      unmet := p.unmet || (decide (p.gating = 4) && decide (p.power.toNat < draw.toNat)) }) ∧
    (p.running = 3 → deeper = false → recovered draw → p.gating ≠ 0 → moves (.gatingStep deeper draw) { p with
      draw := draw
      gating := p.gating - 1, allowed := 3, coolSince := now, running := if p.gating = 1 then max (max p.requested 3) fastest else 3 }) ∧
    (deeper = true → ¬ still → sets (.gatingStep deeper draw) { p with draw := draw }) ∧
    (deeper = false → ¬ recovered draw ∨ p.gating = 0 → sets (.gatingStep deeper draw) { p with draw := draw }) ∧
    (let here : Prop := 64 * line < s.capacity
     let pa : Word := if 64 * line < s.capacity then BitVec.ofNat 64 (64 * line) else 0
     k < 256 → die < 9 → ∃ u, exec (.machineCheck line die k) s = .next u ∧ s.SameBytes u ∧ (∀ q, u.ctxOf q = s.ctxOf q) ∧
       ⟨pa, die, s.cycle, 0⟩ ∈ u.platform.mclog ∧ (here → u.delivered (.main (64 * line)) = false) ∧
       ((s.core k).sq.length < 64 → (s.core k).heldSq = [] → (u.core k).sq = (s.core k).sq ++ [⟨BitVec.ofNat 64 (0x30 * 2 ^ 56 + 7 * 2 ^ 52), 0, pa, 0⟩])) ∧
    (die < 9 → sets (.wearUpdate ⟨die, v⟩) { p with wear := SMap.set 0 p.wear die v }) ∧
    (s.turn < 255 → (s.core s.turn).slotpart = (s.core s.turn).slotpartReg → ∃ u, exec .slotOffer s = .next u ∧ u.turn = s.turn + 1 ∧ u.cycle = s.cycle ∧
      s.SameBytes u ∧ (∀ q, u.ctxOf q = s.ctxOf q) ∧
      let c := s.core s.turn
      let counted (cls : Nat) : Prop := ∀ q < 64, SMap.get 0 (u.core s.turn).slotcnt q =
        if q = 4 * (s.cycle % 16) + cls ∧ (SMap.get 0 c.slotcnt q).toNat < 2 ^ 48 - 1 then SMap.get 0 c.slotcnt q + 1 else SMap.get 0 c.slotcnt q
      (c.boundTo (s.cycle % 16) = none → counted 3) ∧
      (∀ b, c.boundTo (s.cycle % 16) = some b → let x := c.ctx b
        (x.stopped = true ∨ c.dead = true → counted 3) ∧
        (x.stopped = false → c.dead = false → x.st = .bound → x.wait = 0 → x.pend = .none → x.readyAt ≤ s.cycle → counted 0) ∧
        (x.stopped = false → c.dead = false → x.pend ≠ .none → x.waitKind = 1 ∨ x.waitKind = 7 ∨ x.waitKind = 8 → counted 1) ∧
        (x.stopped = false → c.dead = false → x.pend ≠ .none → x.waitKind ∉ [0, 1, 7, 8] → counted 2) ∧
        (x.stopped = false → c.dead = false → x.wait = 0 → s.cycle < x.readyAt → counted (if x.lastWait ∈ [0, 1, 7, 8] then 1 else 2))))

/-- R13, R19, R20: a step of a core above 255, of a context above 23, of a slot above 15 or of another unit that the package does not
contain does not exist: it ends in the fault that says so. Where the rules leave it open, the choice is the model's (log 42). -/
def Obligations.UnitsThatDoNotExist : Prop :=
  ∀ (s : State) (k i n : Nat) (v : Word), 256 ≤ k ∨ 24 ≤ i →
    let stops (e : Instr) : Prop := exec e s = .fault .noSuchUnit
    stops (.memoryReply k i) ∧ stops (.windowSpill k i) ∧ stops (.preempt k i) ∧ stops (.crWinWrite k i v) ∧ stops (.crWspWrite k i v) ∧
    stops (.boundedRequest k i) ∧ stops (.wake k i) ∧
    (256 ≤ k → stops (.bargeStart k 0) ∧ stops (.contextSpill k) ∧ stops (.crSqpopWrite k v) ∧ stops (.crTrootWrite k v) ∧
      stops (.crSlotpartWrite k v) ∧ stops (.lineEviction k n) ∧ stops (.translationDrop k n) ∧ stops (.keyCachePurge k n) ∧
      stops (.machineCheck n 0 k) ∧ stops (.debugLaunch v k 0 0)) ∧
    (2048 ≤ n → stops (.consumedUpdate n) ∧ stops (.quiescent n) ∧ stops (.rcbEnd n)) ∧
    (16 ≤ n → stops (.fabricSend n) ∧ stops (.weirRefill n) ∧ stops (.weirTimeout n) ∧ stops (.weirEgressEntry n))

/-! ### Decoding, stepping, reset, registers and memory -/

/-- R105 to R111: words written out from the encoding tables decode to the instructions they stand for; a word of no row is rejected. -/
def Obligations.WordsDecode : Prop :=
  decode 0x00611401 = .ok (.add 6 2 5) ∧ decode 0x26720008 = .ok (.ldD 7 4 8) ∧ decode 0x34917FFC = .ok (.stW 9 2 0x7FFC) ∧
  decode 0x10857FFF = .ok (.addi 8 10 0x7FFF) ∧ decode 0x42307FFB = .ok (.bne 3 0 0x7FFB) ∧ decode 0x50038001 = .ok (.jr 7) ∧
  decode 0xC0030005 = .ok (.resume 6) ∧ decode 0xCC000002 = .ok .halt ∧ decode 0xCA000001 = .ok .ifence ∧ decode 0xC2500401 = .ok (.crr 5 1) ∧
  (∃ e, decode 0x00611400 = .error e) ∧ (∃ e, decode 0xFFFFFFFF = .error e)

/-- R105: decoding the word that the encoder gives a well-formed instruction gives that instruction back, for every instruction word of
the opcode table and every value of its operands; and the encoder gives every row that is no step of the device a word. -/
def Obligations.EncodingRoundTrips : Prop :=
  (∀ (i : Instr), i.wf = true → ∀ w, encode i = some w → decode w = .ok i) ∧
  ∀ (i : Instr), i.wf = true → i.isEvent = false → ∃ w, encode i = some w ∧ decode w = .ok i

/-- R81, R104, R112, R116, R101, R192, R304, R305, R350: when no step of another party is taken and the slot on offer holds a thread that
can issue, the step fetches its word, and executes the instruction that the word decodes to; a stop or a park that was pending is then
taken, and the offer ends. Where no thread can issue, the offer only ends. A request that a home has let go on is taken first; else the
step of another party that the schedule points at, or the first message of its channel from its source to its destination, where none of
them is still in the mesh: it is executed, and the instruction of a thread it wakes is carried out again at once. An operation of the host
or of the debugger that has to wait does so. Where the rules leave it open, the choice is the model's (log 1, 3 and 12). -/
def Obligations.StepsRunInstructionsAndEvents : Prop :=
  (∀ (s : State), s.due = [] → chosen s = none →
     let s1 := offerCount { s with tick := s.tick + 1 }
     let c := s1.core s1.turn
     (c.boundTo (s1.cycle % 16) = none → step s = .next (endOffer s1)) ∧
     (∀ i, c.boundTo (s1.cycle % 16) = some i →
       let x := c.ctx i
       let ready : Prop := x.st = .bound ∧ x.stopped = false ∧ x.wait = 0 ∧ x.pend = .none ∧ x.readyAt ≤ s1.cycle ∧ c.dead = false
       (¬ ready → step s = .next (endOffer s1)) ∧
       let here : State := { s1 with cur := ⟨s1.turn, i⟩ }
       let s0 := here.setMe { x with skipCmp := false }
       (ready → x.chain.len = 0 → x.skipCmp = false → pcMatch c x = true → c.claims.getLsbD x.slot = false →
         step s = .next (endOffer (takeTrap here 0x20 (BitVec.ofNat 64 (x.pc.toNat % 2 ^ 56)) 0))) ∧
       (ready → x.chain.len = 0 → x.skipCmp = false → pcMatch c x = true → c.claims.getLsbD x.slot = true →
         step s = .next (endOffer (stopCtx (here.setMe { x with skipCmp := true }) here.cur))) ∧
       (ready → x.chain.len ≠ 0 ∨ x.skipCmp = true ∨ pcMatch c x = false →
         (∀ w s2, fetch s0 = (.ok w, s2) →
           let s3 := s2.setMe { s2.me with ir := w, served := 0 }
           let ch := s3.me.chain
           (∀ e, decode w = .error e → step s = .next (endOffer (trap s3 0x02 (w.setWidth 64)))) ∧
           (∀ n, decode w = .ok n → ch.len = 0 ∨ n.prefixKind.isSome = true ∨ (prefixMisuse ch w n = false ∧ ch.rep = none) →
             (∀ u, exec n s3 = .next u → step s = .next (endOffer (takePending u s3.cur))) ∧
             (∀ f, exec n s3 = .fault f → step s = .fault f)) ∧
           (∀ n, decode w = .ok n → ch.len ≠ 0 → n.prefixKind = none → prefixMisuse ch w n = true → step s = .next (endOffer (trap s3 0x05 s3.irWord)))) ∧
         (∀ cause a s2, fetch s0 = (.error (cause, a), s2) →
           (s2.me.chain.len = 0 → step s = .next (endOffer (takeTrap s2 cause a 0))) ∧
           (s2.me.chain.len ≠ 0 → step s = .next (endOffer (takeTrap s2 0x05 a 0))))))) ∧
  (∀ (s : State) (i : Instr),
     let s1 : State := { s with tick := s.tick + 1 }
     let n := Config.schedule s.tick % (s.agenda.length + 1)
     let runs (s0 : State) : Prop :=
       (isOutside i = false → portReady i s0 = .ok s0) ∧ (∀ u, portReady i s0 = .error u → step s = .next u) ∧ ∀ s', portReady i s0 = .ok s' →
       (∀ t, exec i s' = .next t → t.woken = none → step s = .next t) ∧
       (∀ t r j, exec i s' = .next t → t.woken = some r → decode (t.ctxOf r).ir = .ok j →
         ∀ u, exec j { t with woken := none, cur := r } = .next u → step s = .next (takePending u r)) ∧
       (∀ f, exec i s' = .fault f → step s = .fault f)
     (∀ l, s.due = i :: l → runs { s1 with due := l }) ∧
     (s.due = [] → ∀ x, s.agenda[n]? = some x → laneOf s x = none → i = x → runs { s1 with agenda := s.agenda.eraseIdx n }) ∧
     (s.due = [] → ∀ x p, s.agenda[n]? = some x → laneOf s x = some p → (∀ y ∈ s.mesh.messages, laneOf s y ≠ some p) →
       ∀ j, j ≤ n → s.agenda[j]? = some i → laneOf s i = some p → (∀ m y, m < j → s.agenda[m]? = some y → laneOf s y ≠ some p) →
         runs { s1 with agenda := s.agenda.eraseIdx j }))

/-- R35, R89, R179, R188, R254 to R257, R358, R369, R374, R399: what power-on reset leaves: memory zero, no context, every barrier, basin,
engine record and register of every core at its reset value, no key, an empty journal, no session, and the platform's registers. Where the
rules leave it open, the choice is the model's (log 4 and 5). -/
def Obligations.ResetLeavesTheStatedValues : Prop :=
  let s := State.reset
  (∀ a, s.mem.read a = 0) ∧ (∀ l, SMap.get 0 s.side l = 0) ∧ (∀ r, (s.ctxOf r).st = .free) ∧
  (∀ k i, (s.core k).barrier i = {} ∧ (s.core k).basin i = {}) ∧ (∀ k e r, (((s.core k).engine e).barge r).st = .free) ∧
  (∀ k, (s.core k).sq = [] ∧ (s.core k).slotpartReg = 0 ∧ (s.core k).bankpart0 = 0 ∧ (s.core k).bankpart1 = 0 ∧ (s.core k).troot = 0 ∧
    (s.core k).qtable = 0 ∧ (s.core k).pcmpctl = 0 ∧ (s.core k).tracectl = 0 ∧ (∀ i, SMap.get 0 (s.core k).pwin i = 0)) ∧
  (∀ i, (SMap.get {} s.sdie.keys i).occupied = false) ∧ s.sdie.erased = false ∧ s.sdie.journal.head = 0 ∧ s.sdie.ring.session = false ∧
  (∀ i < 16, (s.weir i).on = false) ∧ s.cycle = 0 ∧
  s.platform.stage = 0 ∧ s.platform.error = 0 ∧ s.platform.requested = 0 ∧ s.platform.gating = 0 ∧ s.platform.thermal = 0x3B6 ∧ s.platform.power = 2400

/-- R89, R121, R136: a scalar register reads back what was last written to it, but s0, which reads zero and discards writes; b0 reads as
no barrier; a write to one register changes no other. -/
def Obligations.RegistersReadBack : Prop :=
  ∀ (x : Context) (i j : BitVec 5) (p q : BitVec 4) (v : Word) (t : BitVec 128) (h : BitVec 32),
    (x.writeS i v).readS j = (if j = 0 then 0 else if j = i then v else x.readS j) ∧
    x.writeS 0 v = x ∧
    (x.writeT p t).readT q = (if q = p then t else x.readT q) ∧
    (x.writeB p h).readB q = (if q = 0 then 0 else if q = p then h else x.readB q) ∧
    (∀ k, (x.writeT p t).readS k = x.readS k ∧ (x.writeB p h).readS k = x.readS k) ∧
    (∀ k, (x.writeS i v).readT k = x.readT k ∧ (x.writeS i v).readB k = x.readB k)

/-- R241, R253, R336, R390, R395: at the boundary that a retired chain has reached, a thread that is not bound goes no further; a watch
trap comes first, with cause 0x21 and its block; then single step, with cause 0x22 and the address of the next word as tval; then a stop;
then a park, and where both are due the thread stops and is then parked, still stopped; a stop that is due at a trap stays pending while
the thread is parked. At a plain boundary nothing happens. Where the rules leave it open, the choice is the model's (log 27). -/
def Obligations.BoundariesFollowInOrder : Prop :=
  ∀ (s : State),
    let x := s.me
    let out (u : State) (st : CtxState) (stopped : Bool) : Prop := s.SameBytes u ∧ (u.ctxOf s.cur).st = st ∧ (u.ctxOf s.cur).stopped = stopped
    (x.st ≠ .bound → boundary s = s) ∧
    (s.Calm → boundary s = s) ∧
    let due : Bool := x.dbgStep || x.stopReq
    let alone : Prop := x.slot < 15 ∧ (s.core s.cur.core).resuming = [] ∧ ∀ p ∈ (s.core s.cur.core).ctxs, p.2.budgetDue = false
    (∀ b, x.st = .bound → x.watchHit = some b → boundary s = stopTrapped (takeTrap (s.setMe { x with watchHit := none }) 0x21 b 0) due) ∧
    (x.st = .bound → x.watchHit = none → x.step = true → boundary s = stopTrapped (takeTrap s 0x22 (BitVec.ofNat 64 (x.pc.toNat % 2 ^ 56)) 0) due) ∧
    (∀ u : State, stopTrapped u false = u ∧ (u.me.st = .parked → stopTrapped u true = u.setMe { u.me with dbgStep := false, stopReq := true }) ∧
      (u.me.st = .bound → stopTrapped u true = stopCtx u u.cur)) ∧
    (x.st = .bound → x.watchHit = none → x.step = false → x.dbgStep = true ∨ x.stopReq = true → x.parkReq = false → x.budgetStop = false → out (boundary s) .bound true) ∧
    (x.st = .bound → alone → x.watchHit = none → x.step = false → due = true → x.parkReq = true ∨ x.budgetStop = true → out (boundary s) .parked true) ∧
    (x.st = .bound → alone → x.watchHit = none → x.step = false → x.dbgStep = false → x.stopReq = false → x.parkReq = true ∨ x.budgetStop = true → out (boundary s) .parked x.stopped)

/-- R5, R35: a byte of memory reads back what was last written to it and no other byte changes; more bytes are the bytes in order, the
lowest first; a write keeps the canonical form, in which no two lists stand for one memory. Where the rules leave it open, the choice is
the model's (log 45). -/
def Obligations.MemoryReadsBack : Prop :=
  (∀ (m : Memory) (a b : Nat) (v : BitVec 8), (m.write a v).read b = if b = a then v else m.read b) ∧
  (∀ (m : Memory) (a b n x : Nat), (m.writeBytes a (natToBytes n x)).read b = if a ≤ b ∧ b < a + n then BitVec.ofNat 8 (x / 256 ^ (b - a)) else m.read b) ∧
  (∀ (m : Memory) (a n x : Nat), bytesToNat ((m.writeBytes a (natToBytes n x)).readBytes a n) = x % 256 ^ n) ∧
  (∀ (m : Memory) (a : Nat) (l : ByteList), m.wf = true → (m.writeBytes a l).wf = true) ∧
  (∀ (m m' : Memory), m.wf = true → m'.wf = true → (∀ a, m.read a = m'.read a) → m = m')

/-- The memory of the package is canonical at reset. Where the rules leave it open, the choice is the model's (log 45). -/
def Obligations.ResetMemoryIsCanonical : Prop :=
  State.reset.Canonical

/-- R35: every step keeps the memory's canonical form, whatever it executes and whoever acts. Where the rules leave it open, the choice is
the model's (log 45). -/
def Obligations.StepsKeepMemoryCanonical : Prop :=
  ∀ (s t : State), s.Canonical → step s = .next t → t.Canonical

/-! ### Number formats and units -/

/-- R57, R59, R62, R63, R64, R69, R70, R71, R73: the number formats: what value each pattern stands for; rounding to f32 and lf8 in each
mode, to the nearest with ties to even or to the nearest on one side, with saturation or infinities beyond the range and the flags nx, uf
and of; conversion to integers; the amax scale, the pads and the codebook weights; exact sums and products. -/
def Obligations.NumberFormatsConvert : Prop :=
  let sgn (n : Bool) : ℚ := if n then -1 else 1
  let two (e : Int) : ℚ := 2 ^ e
  (∀ (s : Int) (p : BitVec 32),
    let n := p.toNat
    let b := n % 2 ^ 8
    let e8 := b / 8
    let f8 : ℚ := (b % 8 : Nat)
    let e32 : Nat := n / 2 ^ 23 % 2 ^ 8
    let f32 : ℚ := (n % 2 ^ 23 : Nat)
    PatIs 1 s p (((b : ℚ) - (if 128 ≤ b then 256 else 0 : ℚ)) * two s) ∧ PatIs 2 s p (b * two s) ∧
    PatIs 4 s p (((n : ℚ) - (if (2 ^ 31 : Nat) ≤ n then 2 ^ 32 else 0 : ℚ)) * two s) ∧ PatIs 5 s p (n * two s) ∧
    (b = 0x80 → patValue 3 s p = some .nan) ∧
    (b ≠ 0x80 → PatIs 3 s p (sgn (p.getLsbD 7) * (if e8 % 16 = 0 then f8 / 8 * two (-6) else (1 + f8 / 8) * two (((e8 % 16 : Nat) : Int) - 7)) * two s)) ∧
    (e32 = 255 → patValue 6 s p = some (if (n % 2 ^ 23 : Nat) = 0 then .inf (p.getLsbD 31) else .nan)) ∧
    (e32 ≠ 255 → PatIs 6 s p (sgn (p.getLsbD 31) *
      (if e32 = 0 then f32 / 2 ^ 23 * two (-126) else (1 + f32 / 2 ^ 23) * two ((e32 : Int) - 127)) * two s)) ∧
    (patValue 6 s p = some .negZero ↔ p = 0x80000000) ∧ (∀ c, c = 0 ∨ 7 ≤ c → patValue c s p = none)) ∧
  (let rounds (c : Nat) (top ulp small gap : ℚ) (sat : Bool → BitVec 32) : Prop := ∀ (mode : Rnd) (m e : Int), m ≠ 0 →
     let v : ℚ := m * two e
     let b := (roundTo c mode (.fin m e)).1
     let f := (roundTo c mode (.fin m e)).2
     let away : Prop := (mode = .ru ∧ 0 < v) ∨ (mode = .rd ∧ v < 0)
     let huge : Prop := (mode = .ne ∧ top + ulp / 2 ≤ |v|) ∨ (away ∧ top < |v|)
     (huge → b = sat (decide (v < 0))) ∧
     (¬ huge → ∃ w, PatIs c 0 b w ∧ 0 ≤ w * v ∧
       (mode = .ne → ∀ p u, PatIs c 0 p u → |v - w| ≤ |v - u| ∧ (|v - w| = |v - u| → u = w ∨ b.getLsbD 0 = false)) ∧
       (away → |v| ≤ |w| ∧ ∀ p u, PatIs c 0 p u → |v| ≤ |u| → |w| ≤ |u|) ∧
       (mode ≠ .ne → ¬ away → |w| ≤ |v| ∧ ∀ p u, PatIs c 0 p u → |u| ≤ |v| → |u| ≤ |w|)) ∧
     f.getLsbD 0 = false ∧ f.getLsbD 1 = false ∧
     (f.getLsbD 2 = true ↔ huge ∨ (mode ≠ .ne ∧ top + ulp ≤ |v|)) ∧
     (f.getLsbD 4 = false ↔ PatIs c 0 b v) ∧
     (f.getLsbD 3 = true ↔ f.getLsbD 4 = true ∧ ((mode = .ne ∧ |v| < small - gap / 2) ∨ (away ∧ |v| ≤ small - gap) ∨ (mode ≠ .ne ∧ ¬ away ∧ |v| < small)))
   rounds 6 (two 128 - two 104) (two 104) (two (-126)) (two (-150)) (fun n => if n then 0xFF800000 else 0x7F800000) ∧
   rounds 3 480 32 (two (-6)) (two (-10)) (fun n => if n then 0xFF else 0x7F)) ∧
  (∀ (mode : Rnd) (m e : Int), m ≠ 0 → (roundTo 6 mode (.fin m e)).1.getLsbD 31 = decide (m < 0)) ∧
  (∀ (mode : Rnd) (e : Int) (n : Bool),
    roundTo 6 mode .nan = (0x7FC00000, 0) ∧ roundTo 3 mode .nan = (0x80, 0) ∧
    roundTo 6 mode (.inf n) = (if n then 0xFF800000 else 0x7F800000, 0) ∧ roundTo 3 mode (.inf n) = (if n then 0xFF else 0x7F, 1) ∧
    roundTo 6 mode (.fin 0 e) = (0, 0) ∧ roundTo 6 mode .negZero = (0x80000000, 0) ∧ roundTo 3 mode (.fin 0 e) = (0, 0) ∧
    roundTo 3 mode .negZero = (0, 0)) ∧
  (let integers (c : Nat) (lo hi : Int) : Prop :=
     (∀ mode, roundTo c mode .nan = (0, 1) ∧ roundTo c mode (.inf true) = (BitVec.ofInt 32 lo, 1) ∧ roundTo c mode (.inf false) = (BitVec.ofInt 32 hi, 1)) ∧
     (∀ n, saturate c n = max lo (min n hi)) ∧
     ∀ (mode : Rnd) (m e : Int),
       let v : ℚ := m * two e
       ∃ n : Int, (mode = .ne → |v - n| ≤ 1 / 2 ∧ (|v - n| = 1 / 2 → n % 2 = 0)) ∧ (mode = .rz → |(n : ℚ)| ≤ |v| ∧ |v| < |(n : ℚ)| + 1 ∧ 0 ≤ n * v) ∧
         (mode = .ru → v ≤ n ∧ n < v + 1) ∧ (mode = .rd → n ≤ v ∧ v < n + 1) ∧
         roundTo c mode (.fin m e) = (BitVec.ofInt 32 (max lo (min n hi)), if n < lo ∨ hi < n then 0b00001 else if (n : ℚ) = v then 0 else 0b10000)
   integers 1 (-128) 127 ∧ integers 2 0 255 ∧ integers 4 (-2147483648) 2147483647 ∧ integers 5 0 4294967295) ∧
  (∀ xs, amaxScale 6 xs = 0) ∧
  (let scales (c : Nat) (M : ℚ) : Prop := ∀ xs : List XVal,
     let s := amaxScale c xs
     (.inf true ∈ xs ∨ .inf false ∈ xs → s = 127) ∧
     (∀ a : ℚ, (∀ x ∈ xs, x = .nan ∨ ∃ v, x.Is v ∧ |v| ≤ a) → (a = 0 ∨ ∃ x ∈ xs, ∃ v, x.Is v ∧ |v| = a) →
       (a = 0 → s = 0) ∧ (a ≠ 0 → -127 ≤ s ∧ s ≤ 127 ∧ (s < 127 → a / two s ≤ M) ∧ (-127 < s → M < a / two (s - 1))))
   scales 3 480 ∧ scales 1 127 ∧ scales 2 255 ∧ scales 4 (2 ^ 31 - 1) ∧ scales 5 (2 ^ 32 - 1)) ∧
  (let pads (c : Nat) (lo hi : Int) : Prop := padValue c 0 = .fin 0 0 ∧ padValue c 1 = .fin lo 0 ∧ padValue c 2 = .fin hi 0
   pads 1 (-128) 127 ∧ pads 2 0 255 ∧ pads 3 (-480) 480 ∧ pads 4 (-2147483648) 2147483647 ∧ pads 5 0 4294967295 ∧ padValue 3 3 = .nan ∧
   padValue 6 0 = .fin 0 0 ∧ padValue 6 1 = .inf true ∧ padValue 6 2 = .inf false ∧ padValue 6 3 = .nan ∧
   ∀ c k, k < 4 → (padBad c k = true ↔ (c = 0 ∧ k ≠ 0) ∨ ((c = 1 ∨ c = 2 ∨ c = 4 ∨ c = 5) ∧ k = 3))) ∧
  (∀ (x row : BitVec 16) (j : Nat) (s : Int), j < 8 →
    let neg := if j = 7 then x.getLsbD 1 ^^ x.getLsbD 2 ^^ x.getLsbD 3 ^^ x.getLsbD 4 ^^ x.getLsbD 5 ^^ x.getLsbD 6 ^^ x.getLsbD 7 else x.getLsbD (j + 1)
    (cb2Weight x row j s).Is ((sgn neg * ((row.toNat / 2 ^ (2 * j) % 4 : Nat) + 1 / 2) + (if x.getLsbD 0 then 1 / 4 else 0)) * two s)) ∧
  (∀ (x y : XVal) (v w : ℚ) (s : Int), x.Is v → y.Is w →
    (x.add y).1.Is (v + w) ∧ (x.add y).2 = 0 ∧ (x.mul y).1.Is (v * w) ∧ (x.mul y).2 = 0 ∧ x.neg.Is (-v) ∧ x.abs.Is |v| ∧ (x.scale s).Is (v * two s) ∧
    (x.lt y = true ↔ v < w) ∧ (x.eq y = true ↔ v = w) ∧ (x.min y).Is (min v w) ∧ (x.max y).Is (max v w) ∧
    (v + w = 0 → ((x.add y).1 = .negZero ↔ x = .negZero ∧ y = .negZero)) ∧ (v = 0 → ∀ n, x.mul (.inf n) = (.nan, 1) ∧ (XVal.inf n).mul x = (.nan, 1))) ∧
  (∀ (x : XVal) (n : Bool), (XVal.inf n).add (.inf !n) = (.nan, 1) ∧ XVal.nan.add x = (.nan, 0) ∧ x.add .nan = (.nan, 0) ∧ XVal.nan.mul x = (.nan, 0) ∧
    x.mul .nan = (.nan, 0) ∧ x.min .nan = .nan ∧ XVal.nan.min x = .nan ∧ x.max .nan = .nan ∧ XVal.nan.max x = .nan ∧
    XVal.negZero.max .zero = .zero ∧ XVal.zero.max .negZero = .zero ∧ XVal.negZero.min .zero = .negZero ∧ XVal.zero.min .negZero = .negZero)

/-- R66, R67, R68, R74, R77, R78, R79, R217 to R225, R75, R76, R211 to R216, R198, R204, R207, R208: a unit of a vector barge reads the
lines of its live source positions and encodes the results of one destination line, and writes nothing else; the results of each member in
the real and in the integer domain. MXST fills its stationary buffer, CBLD its table rows; a row-group of MXMA or MXMAS adds to each live
element of C the products of its row with a column of the buffer, group by group with its roundings or modulo 2^32, and encodes the
group's lines. A unit of a copy writes the live bytes of its line, at the same offsets of the destination or the block that the index
names, with the descriptor that the scale policy gives; BFILL writes its byte to every live byte; no other byte of local store changes.
Where the rules leave it open, the choice is the model's (log 53, 55 and 56). -/
def Obligations.UnitsComputeTheirResults : Prop :=
  ((∀ (s : State) (k e : Nat) (b : Barge) (i : Nat) (metered : Bool) (b' : Barge) (u : State),
     let v := b.vec
     let mine (t : Tile) : Prop := t.valid = true ∧ ownLs k t.base = true
     let cells := v.td.liveCells i
     let a := v.td.lineAddr i
     0x48 ≤ v.op → v.op ≤ 0x50 → b.lines = [] → mine v.td → (v.usesA = true → mine v.ta) → (v.usesB = true → mine v.tb) →
     processUnit s k e b i metered = .ok (b', u) → ∃ ls : Lines, s.Holds ls ∧
       (∀ x ∈ cells, (v.usesA = true → ∀ p ∈ v.posA ls x.r x.c, ls.Has v.ta p.1 p.2) ∧ (v.usesB = true → ls.Has v.tb x.r x.c) ∧
         (v.usesD = true → ls.Has v.td x.r x.c)) ∧
       ∃ real : Bool, (real = true ↔ v.op = 0x4C ∨ v.td.fmt = 3 ∨ v.td.fmt = 6 ∨ ∃ y ∈ v.sources ls cells, ∃ c, (c = 3 ∨ c = 6) ∧
           ((∃ n, y = .pad c n) ∨ ∃ n p, y = .elem c n p)) ∧
         (v.op = 0x49 → real = false) ∧
         s.Encodes u v.td a cells real (if v.op = 0x4B then Rnd.ofBits (BitVec.ofNat 2 v.fn) else .ne) (fun x => (v.result ls real x.r x.c).1) ∧
         (∀ n, n / 64 ≠ a / 64 → u.lineAt (.ls n) = s.lineAt (.ls n)) ∧
         ∀ f, (b.flags.getLsbD f = true ∨ ∃ x ∈ cells, (v.result ls real x.r x.c).2.getLsbD f = true) → b'.flags.getLsbD f = true) ∧
   (∀ (c k : Nat) (n : Int) (p : BitVec 32), (Src.pad c k).toReal = (padValue c k, 0) ∧ Src.void.toReal = (.fin 0 0, 0) ∧ Src.void.toInt = 0 ∧
     (∀ x, patValue c n p = some x → (Src.elem c n p).toReal = (x.nearest, (roundF32 .ne x).2) ∧ (Src.elem c n p).exact = x)) ∧
   (∀ (v : VecOp) (ls : Lines) (r c : Nat),
     let n := v.ta.order
     let A (p q : Nat) := ls.src v.ta p q
     let a := A r c
     let y := ls.src v.tb r c
     let z := ls.src v.td r c
     let m := v.member
     let real (x : XVal) : Prop := (v.result ls true r c).1 = .real x
     let int (w : Int) : Prop := ∃ q, v.result ls false r c = (.int q, 0) ∧ -2 ^ 63 ≤ q ∧ q < 2 ^ 63 ∧ (q - w) % 2 ^ 64 = 0
     let X := a.toReal.1
     let Y := y.toReal.1
     let Z := z.toReal.1
     let bits (f : Bool → Bool → Bool) : Prop := ∃ q : Int, v.result ls false r c = (.int q, 0) ∧ -2 ^ 63 ≤ q ∧ q < 2 ^ 63 ∧
       ∀ j < 64, (BitVec.ofInt 64 q).getLsbD j = f ((BitVec.ofInt 64 a.toInt).getLsbD j) ((BitVec.ofInt 64 y.toInt).getLsbD j)
     (v.op = 0x48 →
       (m = 1 → real (X.add Y).1.nearest ∧ int (a.toInt + y.toInt)) ∧ (m = 2 → real (X.add Y.neg).1.nearest ∧ int (a.toInt - y.toInt)) ∧
       (m = 3 → real (X.mul Y).1.nearest ∧ int (a.toInt * y.toInt)) ∧ (m = 4 → real ((X.mul Y).1.add Z).1.nearest ∧ int (a.toInt * y.toInt + z.toInt)) ∧
       (m = 5 → real (X.min Y) ∧ int (min a.toInt y.toInt)) ∧ (m = 6 → real (X.max Y) ∧ int (max a.toInt y.toInt)) ∧
       (m = 7 → real X.abs ∧ int |a.toInt|) ∧ (m = 8 → real X.neg ∧ int (-a.toInt))) ∧
     (v.op = 0x49 → (m = 1 → bits (· && ·)) ∧ (m = 2 → bits (· || ·)) ∧ (m = 3 → bits (· ^^ ·)) ∧ (m = 4 → bits (fun p _ => !p)) ∧
       (m = 5 → int (a.toInt * 2 ^ (y.toInt % 64).toNat)) ∧ (m = 6 → int (a.toInt / 2 ^ (y.toInt % 64).toNat))) ∧
     (v.op = 0x4A → m = 1 →
       let nan : Prop := X = .nan ∨ Y = .nan
       let holds (rel : Prop) (lt eq : Prop) : Prop :=
         match v.fn / 16 % 8 with
         | 0 => ¬ rel ∧ eq
         | 1 => rel ∨ ¬ eq
         | 2 => ¬ rel ∧ lt
         | 3 => ¬ rel ∧ (lt ∨ eq)
         | 4 => ¬ rel ∧ ¬ lt ∧ ¬ eq
         | 5 => ¬ rel ∧ ¬ lt
         | _ => rel
       (holds nan (X.lt Y = true) (X.eq Y = true) → real (.fin 1 0)) ∧ (¬ holds nan (X.lt Y = true) (X.eq Y = true) → real (.fin 0 0)) ∧
       (holds False (a.toInt < y.toInt) (a.toInt = y.toInt) → int 1) ∧ (¬ holds False (a.toInt < y.toInt) (a.toInt = y.toInt) → int 0)) ∧
     (v.op = 0x4A → m = 2 → (Z.Is 0 → real Y) ∧ (¬ Z.Is 0 → real X) ∧ (z.toInt = 0 → int y.toInt) ∧ (z.toInt ≠ 0 → int a.toInt)) ∧
     (v.op = 0x4B → real a.exact ∧ int a.toInt) ∧
     (v.op = 0x4C → real (ofF32 (specialF32 m X).1)) ∧
     (let o := v.fn % 4
      let step (p q : XVal) : XVal := if o = 1 then (p.add q).1.nearest else if o = 2 then p.max q else p.min q
      let stepI (p q : Int) : Int := if o = 1 then p + q else if o = 2 then max p q else min p q
      (v.op = 0x4D →
        let at' (j : Nat) : Src := if v.fn / 4 % 2 = 1 then A j c else A r j
        (∃ red : Nat → Nat → XVal, (∀ j, red j 0 = (at' j).toReal.1) ∧ (∀ j l, red j (l + 1) = step (red j l) (red (j + 2 ^ l) l)) ∧ real (red 0 n)) ∧
        (∃ red : Nat → Nat → Int, (∀ j, red j 0 = (at' j).toInt) ∧ (∀ j l, red j (l + 1) = stepI (red j l) (red (j + 2 ^ l) l)) ∧ int (red 0 n))) ∧
      (v.op = 0x4E → v.fn / 4 % 4 < 3 →
        let way := v.fn / 4 % 4
        let at' (j : Nat) : Src := if way = 0 then A r j else if way = 1 then A j c else A (j / 2 ^ n) (j % 2 ^ n)
        let last := if way = 0 then c else if way = 1 then r else r * 2 ^ n + c
        (∃ out : Nat → XVal, out 0 = (at' 0).toReal.1 ∧ (∀ j, out (j + 1) = step (out j) (at' (j + 1)).toReal.1) ∧ real (out last)) ∧
        (∃ out : Nat → Int, out 0 = (at' 0).toInt ∧ (∀ j, out (j + 1) = stepI (out j) (at' (j + 1)).toInt) ∧ int (out last)))) ∧
     (let takes (x : Src) : Prop := real x.toReal.1 ∧ int x.toInt
      v.op = 0x4F →
        (m = 1 → takes (A c r)) ∧ (m = 2 → (v.fn / 16 % 4 = 0 → takes (A 0 0)) ∧ (v.fn / 16 % 4 = 1 → takes (A 0 c)) ∧ (v.fn / 16 % 4 = 2 → takes (A r 0))) ∧
        (m = 3 → let x := y.toInt
          (v.fn.testBit 4 = false → 0 ≤ x → x < 2 ^ n → takes (A r x.toNat)) ∧
          (v.fn.testBit 4 = true → 0 ≤ x → x < 4 ^ n → takes (A (x.toNat / 2 ^ n) (x.toNat % 2 ^ n))) ∧
          (v.ta.rows ≤ 2 ^ n → x < 0 ∨ (if v.fn.testBit 4 then 4 ^ n else 2 ^ n) ≤ x → takes (.pad v.ta.fmt v.ta.pad))) ∧
        (m = 4 → real a.exact ∧ int a.toInt)) ∧
     (v.op = 0x50 →
       let gives (x : Int) : Prop := real (.fin x 0) ∧ int x
       let n := v.td.order
       (m = 1 → gives (r * 2 ^ n + c)) ∧ (m = 2 → gives r) ∧ (m = 3 → gives c) ∧ (m = 4 → gives (if r ≤ c then 1 else 0)) ∧
       (m = 5 → gives (if c ≤ r then 1 else 0)) ∧ (m = 6 → gives (if c = r then 1 else 0)) ∧
       (m = 7 → v.fn < 2 ^ 9 → gives (if v.fn / 16 < 16 then v.fn / 16 else v.fn / 16 - 32)))) ∧
   (∀ (p : BitVec 32) (w : ℚ) (n : Bool), (∀ k, k = 1 ∨ k = 2 ∨ k = 3 ∨ k = 4 ∨ k = 5 → specialF32 k .nan = (0x7FC00000, 0)) ∧
     (PatIs 6 0 p w → w ≠ 0 →
       let b := (specialF32 3 (ofF32 p)).1
       (ofF32 b = .inf false ∨ ofF32 b = .inf true ∨ ∃ x, PatIs 6 0 b x ∧ ∀ q t, PatIs 6 0 q t → |1 / w - x| ≤ |1 / w - t|)) ∧
     specialF32 3 (.fin 0 0) = (0x7F800000, 2) ∧ specialF32 3 .negZero = (0xFF800000, 2) ∧ specialF32 3 (.inf n) = (if n then 0x80000000 else 0, 0) ∧
     specialF32 4 (.fin 0 0) = (0x7F800000, 2) ∧ specialF32 4 .negZero = (0xFF800000, 2) ∧ specialF32 4 (.inf true) = (0x7FC00000, 1) ∧
     specialF32 4 (.inf false) = (0, 0) ∧ (PatIs 6 0 p w → w < 0 → specialF32 4 (ofF32 p) = (0x7FC00000, 1) ∧ specialF32 2 (ofF32 p) = (0x7FC00000, 1)) ∧
     specialF32 1 (.inf n) = (if n then 0 else 0x7F800000, 0) ∧ specialF32 2 (.fin 0 0) = (0xFF800000, 2) ∧ specialF32 2 .negZero = (0xFF800000, 2) ∧
     specialF32 2 (.inf true) = (0x7FC00000, 1) ∧ specialF32 2 (.inf false) = (0x7F800000, 0) ∧ specialF32 2 (.fin 1 0) = (0, 0) ∧
     specialF32 5 (.fin 0 0) = (0, 0) ∧ specialF32 5 .negZero = (0x80000000, 0) ∧ specialF32 5 (.inf n) = (if n then 0xBF800000 else 0x3F800000, 0))) ∧
  (∀ (s : State) (k e : Nat) (b : Barge) (i : Nat) (metered : Bool) (b' : Barge) (u : State), k < 256 →
     let op := b.cmd.word.toNat / 2 ^ 25
     let fn := b.cmd.word.toNat % 2 ^ 9
     let td := Tile.ofBits b.cmd.td
     let ta := Tile.ofBits b.cmd.ta
     let mine (t : Tile) : Prop := t.valid = true ∧ ownLs k t.base = true
     processUnit s k e b i metered = .ok (b', u) →
     (op = 0x40 → mine ta → ta.order ≤ 7 →
       let l := s.lineAt (.ls (ta.lineAddr i))
       let code := l.2.toNat % 256
       let sc : BitVec 8 := l.2.extractLsb' 8 8
       let old := (s.core k).buf (fn % 2)
       let new := (u.core k).buf (fn % 2)
       let w (r c : Nat) : XVal := SMap.get .zero new.weights (128 * r + c)
       let seat (x : Cell) (j : Nat) : Nat × Nat := if ta.trans then (x.r + j % 4, x.c + j / 4) else (x.r + j / 4, x.c + j % 4)
       (sc = 0x80 → (∀ x ∈ ta.liveCells i, w x.r x.c = .fin 0 0) ∧ new.integer = old.integer) ∧
       (sc ≠ 0x80 → fclass code = .b8 → fclass ta.fmt = .b8 ∧
         (∀ x ∈ ta.liveCells i, ∃ p, patValue code sc.toInt p = some (w x.r x.c) ∧ p.toNat = lineByte l.1 x.off ∧
           (code ≠ 3 → ∃ y, patValue code 0 p = some (.fin y 0) ∧ SMap.get 0 new.ints (128 * x.r + x.c) = y)) ∧
         new.integer = (old.integer && decide (code ≠ 3))) ∧
       (sc ≠ 0x80 → fclass code = .cb2 → fclass ta.fmt = .cb2 ∧ new.integer = false ∧
         ∀ x ∈ ta.liveCells i, ∀ j < 16, ta.live (seat x j).1 (seat x j).2 = true →
           let idx : BitVec 16 := BitVec.ofNat 16 (lineByte l.1 (x.off + 2 * (j / 8)) + 256 * lineByte l.1 (x.off + 2 * (j / 8) + 1))
           w (seat x j).1 (seat x j).2 = cb2Weight idx (SMap.get 0 (s.core k).tables (256 * (code - 8) + idx.toNat / 256)) (j % 8) sc.toInt) ∧
       new.st = old.st ∧ new.rows = old.rows ∧ new.cols = old.cols ∧ ∀ n, n ≠ fn % 2 → (u.core k).buf n = (s.core k).buf n) ∧
     (op = 0x58 → b.cmd.y.toNat % 512 = 0 → ownLs k b.cmd.y.toNat = true → i < 8 →
       let l := (s.lineAt (.ls (b.cmd.y.toNat + 64 * i))).1
       ∀ n, SMap.get 0 (u.core k).tables n = if n / 32 = 8 * b.cmd.x.toNat + i then BitVec.ofNat 16 (lineByte l (2 * (n % 32)) + 256 * lineByte l (2 * (n % 32) + 1))
         else SMap.get 0 (s.core k).tables n) ∧
     (op = 0x41 ∨ op = 0x42 → mine td → mine ta → td.fmt = 4 ∨ td.fmt = 5 ∨ td.fmt = 6 →
       let f := (s.core k).buf (fn % 2)
       let K := ta.cols
       let G := (K + 31) / 32
       ∃ (ls : Lines) (skips : List Bool), s.Holds ls ∧
         (op = 0x41 → skips = [] ∧ b'.stream = b.stream) ∧
         (op = 0x42 → skips.length = G ∧ ∃ at' : Nat → Stream, at' 0 = b.stream ∧ b'.stream = at' G ∧ SMap.get {} (u.core k).streams (fn / 2 % 4) = at' G ∧
           ∀ j < G, ∃ (n : Nat) (h : Nat → Stream), h 0 = at' j ∧ 0 < (h n).left ∧ skips[j]? = some (h n).skip ∧ at' (j + 1) = { h n with left := (h n).left - 1 } ∧
             ∀ q < n, (h q).left = 0 ∧ h (q + 1) = ⟨(h q).addr + 2, !(h q).skip, bytesToNat (s.bytesAt (.ls (h q).addr.toNat) 2)⟩) ∧
         ∀ l < td.lines, (∃ x ∈ td.liveCells l, x.r / 8 = i) →
           (∀ x ∈ td.liveCells l, ls.Has td x.r x.c ∧ ∀ q < K, ls.Has ta x.r q) ∧
           ∃ val : Cell → Val, s.Encodes u td (td.lineAddr l) (td.liveCells l) (decide (td.fmt = 6)) .ne val ∧ ∀ x ∈ td.liveCells l,
             let c0 := ls.src td x.r x.c
             let A (q : Nat) := ls.src ta x.r q
             let B (q : Nat) : XVal := SMap.get .zero f.weights (128 * q + x.c)
             (td.fmt = 6 → ∃ sum acc : Nat → XVal, acc 0 = c0.toReal.1 ∧ val x = .real (acc G) ∧
               (∀ j < G, acc (j + 1) = if skips.getD j false then acc j else ((acc j).add (sum j).nearest).1.nearest) ∧
               ∀ j < G, let ks := Finset.Ico (32 * j) (min K (32 * j + 32))
                 ((∃ q ∈ ks, (A q).exact = .nan ∨ B q = .nan) → sum j = .nan) ∧
                 ∀ p w : Nat → ℚ, (∀ q ∈ ks, (A q).exact.Is (p q) ∧ (B q).Is (w q)) → (sum j).Is (∑ q ∈ ks, p q * w q) ∧ sum j ≠ .negZero) ∧
             (td.fmt ≠ 6 → ∃ n : Int, val x = .int n ∧
               (n - (c0.toInt + ∑ q ∈ Finset.range K, if skips.getD (q / 32) false then 0 else (A q).toInt * SMap.get 0 f.ints (128 * q + x.c))) % 2 ^ 32 = 0 ∧
               (td.fmt = 4 → -2 ^ 31 ≤ n ∧ n < 2 ^ 31) ∧ (td.fmt = 5 → 0 ≤ n ∧ n < 2 ^ 32)))) ∧
  (∀ (s : State) (k e : Nat) (b : Barge) (i : Nat) (metered : Bool) (b' : Barge) (u : State),
     let op := b.cmd.word.toNat / 2 ^ 25
     let td := Tile.ofBits b.cmd.td
     let ta := Tile.ofBits b.cmd.ta
     let tb := Tile.ofBits b.cmd.tb
     let line (a : Nat) := s.lineAt (.ls a)
     let mine (t : Tile) : Prop := t.valid = true ∧ ownLs k t.base = true
     let isLive (t : Tile) (o : Nat) : Prop := ∃ x ∈ t.liveCells i, x.off ≤ o ∧ o < x.off + t.esize
     let moved (t : Tile) (src dst : Nat) : Prop :=
       let new := u.lineAt (.ls dst)
       let whole := t.wholeLine i
       (∀ o < 64, lineByte new.1 o = if isLive t o then lineByte (line src).1 o else lineByte (line dst).1 o) ∧
       (td.policy = 0 → whole = true → new.2 = (line src).2) ∧ (td.policy = 0 → whole = false → new.2.toNat = (line src).2.toNat % 2 ^ 16) ∧
       (td.policy = 1 → new.2.toNat = td.fmt % 256 + td.fixed.toNat * 256) ∧
       ∀ a, a / 64 ≠ dst / 64 → u.lineAt (.ls a) = line a
     k < 256 → td.policy < 2 → processUnit s k e b i metered = .ok (b', u) →
     (op = 0x38 → mine td → mine ta → td.order = ta.order → td.rows = ta.rows → td.cols = ta.cols → td.trans = ta.trans → fclass td.fmt = fclass ta.fmt →
       let so (t : Tile) : Nat := if t.height < 3 then t.base % 64 else 0
       let new := u.lineAt (.ls (td.lineAddr i))
       let src := line (ta.lineAddr i)
       let old := line (td.lineAddr i)
       let whole := td.wholeLine i
       (∀ x ∈ td.liveCells i, ∀ j < td.esize, lineByte new.1 (x.off + j) = lineByte src.1 (x.off - so td + so ta + j)) ∧
       (∀ o < 64, ¬ isLive td o → lineByte new.1 o = lineByte old.1 o) ∧
       (td.policy = 0 → whole = true → new.2 = src.2) ∧ (td.policy = 0 → whole = false → new.2.toNat = src.2.toNat % 2 ^ 16) ∧
       (td.policy = 1 → new.2.toNat = td.fmt % 256 + td.fixed.toNat * 256) ∧
       ∀ a, a / 64 ≠ td.lineAddr i / 64 → u.lineAt (.ls a) = line a) ∧
     (op = 0x39 → mine td →
       let new := u.lineAt (.ls (td.lineAddr i))
       let old := line (td.lineAddr i)
       let kept : BitVec 8 := old.2.extractLsb' 8 8
       let sc : BitVec 8 := if td.policy = 1 then td.fixed else if kept = 0x80 then 0 else kept
       (∀ o < 64, isLive td o → lineByte new.1 o = if sc = 0x80 then 0 else b.cmd.word.toNat % 256) ∧
       (∀ o < 64, ¬ isLive td o → lineByte new.1 o = lineByte old.1 o) ∧ new.2.toNat = td.fmt % 256 + sc.toNat * 256 ∧
       ∀ a, a / 64 ≠ td.lineAddr i / 64 → u.lineAt (.ls a) = line a) ∧
     (op = 0x3A ∨ op = 0x3B → b.lines = [] → mine tb →
       let tile := if op = 0x3A then td else ta
       let tmpl := if op = 0x3A then ta else td
       let h := tmpl.height
       mine tile → tmpl.valid = true → 3 ≤ h → h ≤ tile.height → fclass tile.fmt = fclass tmpl.fmt →
       let x := tile.cellAt (i * (64 / tile.esize)) 0
       let r := x.r / 2 ^ tmpl.order
       let c := x.c / 2 ^ tmpl.order
       let a := tb.addrOf r c / 64 * 64
       let v := (Lines.src [(a, line a)] tb r c).toInt
       let blk := tmpl.base + v.toNat * 4 ^ h + 64 * i % 4 ^ h
       0 ≤ v ∧ (ownLs k blk = true → if op = 0x3A then moved tile blk (tile.lineAddr i) else moved tile (tile.lineAddr i) blk)))
end

