-- ==== Sys2Proof/Laws/SMap.lean ====
section
/-! SUPPORT. Laws of sparse families and of memory: read after write, and the canonical form kept by every operation. -/

namespace Sys2Proof.Machine

variable {V : Type}

/-! ### Read after write -/

@[simp] theorem SMap.get_nil (d : V) (k : Nat) : SMap.get d [] k = d := rfl

theorem SMap.get_put (d : V) (m : SMap V) (k j : Nat) (v : V) : SMap.get d (SMap.put m k v) j = if j = k then v else SMap.get d m j := by
  induction m with
  | nil => simp [SMap.put, SMap.get]
  | cons p t ih =>
    obtain ⟨k', v'⟩ := p
    unfold SMap.put
    split
    · simp [SMap.get]
    · split
      · subst_vars; by_cases h : j = k' <;> simp [SMap.get, h]
      · by_cases h : j = k'
        · subst h; simp [SMap.get]; intro e; subst e; contradiction
        · simp [SMap.get, h, ih]

theorem SMap.get_del (d : V) (m : SMap V) (k j : Nat) : SMap.get d (SMap.del m k) j = if j = k then d else SMap.get d m j := by
  induction m with
  | nil => simp [SMap.del, SMap.get]
  | cons p t ih =>
    obtain ⟨k', v'⟩ := p
    unfold SMap.del
    split
    · subst_vars; rw [ih]; by_cases h : j = k' <;> simp [SMap.get, h]
    · by_cases h : j = k'
      · subst h; simp [SMap.get]; intro e; subst e; contradiction
      · simp [SMap.get, h, ih]

/-- A family reads, after a write, the value written there and what it held elsewhere. -/
theorem SMap.get_set [DecidableEq V] (d : V) (m : SMap V) (k j : Nat) (v : V) :
    SMap.get d (SMap.set d m k v) j = if j = k then v else SMap.get d m j := by
  unfold SMap.set
  split
  · subst_vars; rw [SMap.get_del]
  · rw [SMap.get_put]

@[simp] theorem SMap.get_set_same [DecidableEq V] (d : V) (m : SMap V) (k : Nat) (v : V) : SMap.get d (SMap.set d m k v) k = v := by
  simp [SMap.get_set]

theorem SMap.get_set_other [DecidableEq V] (d : V) (m : SMap V) {k j : Nat} (v : V) (h : j ≠ k) :
    SMap.get d (SMap.set d m k v) j = SMap.get d m j := by
  simp [SMap.get_set, h]

/-! ### The canonical form -/

/-- The bound of the numbers listed so far admits `k`. -/
def above (lo : Option Nat) (k : Nat) : Prop := ∀ l, lo = some l → l < k

theorem SMap.wfFrom_cons [DecidableEq V] (d : V) (lo : Option Nat) (k : Nat) (v : V) (t : SMap V) :
    SMap.wfFrom d lo ((k, v) :: t) = true ↔ above lo k ∧ v ≠ d ∧ SMap.wfFrom d (some k) t = true := by
  cases lo <;> simp [SMap.wfFrom, above, and_assoc]

theorem SMap.wfFrom_put [DecidableEq V] (d : V) (m : SMap V) (k : Nat) (v : V) (hv : v ≠ d) :
    ∀ lo, above lo k → SMap.wfFrom d lo m = true → SMap.wfFrom d lo (SMap.put m k v) = true := by
  induction m with
  | nil => intro lo h _; rw [SMap.put, SMap.wfFrom_cons]; exact ⟨h, hv, rfl⟩
  | cons p t ih =>
    obtain ⟨k', v'⟩ := p
    intro lo h hw
    rw [SMap.wfFrom_cons] at hw
    unfold SMap.put
    split
    · rw [SMap.wfFrom_cons, SMap.wfFrom_cons]
      exact ⟨h, hv, by intro l e; cases e; assumption, hw.2.1, hw.2.2⟩
    · split
      · subst_vars; rw [SMap.wfFrom_cons]; exact ⟨h, hv, hw.2.2⟩
      · rw [SMap.wfFrom_cons]
        exact ⟨hw.1, hw.2.1, ih _ (by intro l e; cases e; omega) hw.2.2⟩

/-- A weaker bound admits what a stronger one does. -/
theorem SMap.wfFrom_mono [DecidableEq V] (d : V) (m : SMap V) {lo lo' : Option Nat} (h : ∀ k, above lo k → above lo' k)
    (hw : SMap.wfFrom d lo m = true) : SMap.wfFrom d lo' m = true := by
  cases m with
  | nil => rfl
  | cons p t =>
    obtain ⟨k, v⟩ := p
    rw [SMap.wfFrom_cons] at hw ⊢
    exact ⟨h k hw.1, hw.2⟩

theorem SMap.wfFrom_del [DecidableEq V] (d : V) (m : SMap V) (k : Nat) :
    ∀ lo, SMap.wfFrom d lo m = true → SMap.wfFrom d lo (SMap.del m k) = true := by
  induction m with
  | nil => intro lo h; exact h
  | cons p t ih =>
    obtain ⟨k', v'⟩ := p
    intro lo hw
    rw [SMap.wfFrom_cons] at hw
    unfold SMap.del
    split
    · exact ih _ (SMap.wfFrom_mono d t (by intro j hj l e; have := hw.1 l e; have := hj k' rfl; omega) hw.2.2)
    · rw [SMap.wfFrom_cons]; exact ⟨hw.1, hw.2.1, ih _ hw.2.2⟩

/-- Every write keeps the canonical form. -/
theorem SMap.wf_set [DecidableEq V] (d : V) (m : SMap V) (k : Nat) (v : V) (h : SMap.wf d m = true) : SMap.wf d (SMap.set d m k v) = true := by
  unfold SMap.set
  split
  · exact SMap.wfFrom_del d m k _ h
  · exact SMap.wfFrom_put d m k v ‹_› _ (by intro l e; cases e) h

/-- Removing an entry keeps the canonical form. -/
theorem SMap.wf_del [DecidableEq V] (d : V) (m : SMap V) (k : Nat) (h : SMap.wf d m = true) : SMap.wf d (SMap.del m k) = true :=
  SMap.wfFrom_del d m k _ h

/-- Equal reads of canonical families make equal families. -/
theorem SMap.ext_of_wf [DecidableEq V] (d : V) : ∀ (m n : SMap V) (lo lo' : Option Nat), SMap.wfFrom d lo m = true →
    SMap.wfFrom d lo' n = true → (∀ k, SMap.get d m k = SMap.get d n k) → m = n := by
  have low : ∀ (t : SMap V) (k j : Nat), SMap.wfFrom d (some k) t = true → j ≤ k → SMap.get d t j = d := by
    intro t
    induction t with
    | nil => intros; rfl
    | cons p t ih =>
      obtain ⟨k', v'⟩ := p
      intro k j hw hj
      rw [SMap.wfFrom_cons] at hw
      have := hw.1 k rfl
      unfold SMap.get
      rw [if_neg (by omega)]
      exact ih k' j hw.2.2 (by omega)
  intro m
  induction m with
  | nil =>
    intro n lo lo' _ hn h
    cases n with
    | nil => rfl
    | cons q t =>
      obtain ⟨k, v⟩ := q
      rw [SMap.wfFrom_cons] at hn
      have := h k
      simp [SMap.get] at this
      exact absurd this.symm hn.2.1
  | cons p t ih =>
    obtain ⟨k, v⟩ := p
    intro n lo lo' hm hn h
    rw [SMap.wfFrom_cons] at hm
    cases n with
    | nil =>
      have := h k
      simp [SMap.get] at this
      exact absurd this hm.2.1
    | cons q u =>
      obtain ⟨k', v'⟩ := q
      rw [SMap.wfFrom_cons] at hn
      have hk : k = k' := by
        rcases Nat.lt_trichotomy k k' with hlt | he | hgt
        · have := h k
          simp only [SMap.get, if_pos] at this
          rw [if_neg (by omega), low u k' k hn.2.2 (by omega)] at this
          exact absurd this hm.2.1
        · exact he
        · have := h k'
          simp only [SMap.get, if_pos] at this
          rw [if_neg (by omega), low t k k' hm.2.2 (by omega)] at this
          exact absurd this.symm hn.2.1
      subst hk
      have hv : v = v' := by have := h k; simpa [SMap.get] using this
      subst hv
      rw [ih u (some k) (some k) hm.2.2 hn.2.2]
      intro j
      by_cases hj : j = k
      · subst hj; rw [low t j j hm.2.2 (Nat.le_refl _), low u j j hn.2.2 (Nat.le_refl _)]
      · have := h j; simpa [SMap.get, hj] using this

/-! ### Memory -/

theorem Memory.read_write (m : Memory) (a x : Nat) (b : Byte) : (m.write a b).read x = if x = a then b else m.read x :=
  SMap.get_set 0 m a x b

/-- Writing a byte keeps the canonical form. -/
theorem Memory.wf_write (m : Memory) (a : Nat) (b : Byte) (h : m.wf = true) : (m.write a b).wf = true := SMap.wf_set 0 m a b h

theorem Memory.read_writeBytes (bs : ByteList) : ∀ (m : Memory) (a x : Nat), x < a ∨ a + bs.length ≤ x →
    (m.writeBytes a bs).read x = m.read x := by
  induction bs with
  | nil => intros; rfl
  | cons b t ih =>
    intro m a x h
    simp only [List.length_cons] at h
    rw [Memory.writeBytes, ih _ _ _ (by omega), Memory.read_write, if_neg (by omega)]

/-- Writing bytes keeps the canonical form. -/
theorem Memory.wf_writeBytes (bs : ByteList) : ∀ (m : Memory) (a : Nat), m.wf = true → (m.writeBytes a bs).wf = true := by
  induction bs with
  | nil => intro m a h; exact h
  | cons b t ih => intro m a h; exact ih _ _ (Memory.wf_write m a b h)

end Sys2Proof.Machine
end

