-- ==== Sys2Proof/Laws/State.lean ====
section
/-! SUPPORT. What each update of the state changes and what it leaves: one lemma per field per update. -/

namespace Sys2Proof.Machine

/-! ### setCore -/

@[simp] theorem State.setCore_cycle (s : State) (k : Nat) (c : Core) : (s.setCore k c).cycle = s.cycle := rfl
@[simp] theorem State.setCore_turn (s : State) (k : Nat) (c : Core) : (s.setCore k c).turn = s.turn := rfl
@[simp] theorem State.setCore_tick (s : State) (k : Nat) (c : Core) : (s.setCore k c).tick = s.tick := rfl
@[simp] theorem State.setCore_cur (s : State) (k : Nat) (c : Core) : (s.setCore k c).cur = s.cur := rfl
@[simp] theorem State.setCore_woken (s : State) (k : Nat) (c : Core) : (s.setCore k c).woken = s.woken := rfl
@[simp] theorem State.setCore_agenda (s : State) (k : Nat) (c : Core) : (s.setCore k c).agenda = s.agenda := rfl
@[simp] theorem State.setCore_due (s : State) (k : Nat) (c : Core) : (s.setCore k c).due = s.due := rfl
@[simp] theorem State.setCore_out (s : State) (k : Nat) (c : Core) : (s.setCore k c).out = s.out := rfl
@[simp] theorem State.setCore_timeUnits (s : State) (k : Nat) (c : Core) : (s.setCore k c).timeUnits = s.timeUnits := rfl
@[simp] theorem State.setCore_nextTid (s : State) (k : Nat) (c : Core) : (s.setCore k c).nextTid = s.nextTid := rfl
@[simp] theorem State.setCore_mem (s : State) (k : Nat) (c : Core) : (s.setCore k c).mem = s.mem := rfl
@[simp] theorem State.setCore_side (s : State) (k : Nat) (c : Core) : (s.setCore k c).side = s.side := rfl
@[simp] theorem State.setCore_hostMem (s : State) (k : Nat) (c : Core) : (s.setCore k c).hostMem = s.hostMem := rfl
@[simp] theorem State.setCore_peerMem (s : State) (k : Nat) (c : Core) : (s.setCore k c).peerMem = s.peerMem := rfl
@[simp] theorem State.setCore_bmm256 (s : State) (k : Nat) (c : Core) : (s.setCore k c).bmm256 = s.bmm256 := rfl
@[simp] theorem State.setCore_poison (s : State) (k : Nat) (c : Core) : (s.setCore k c).poison = s.poison := rfl
@[simp] theorem State.setCore_micro (s : State) (k : Nat) (c : Core) : (s.setCore k c).micro = s.micro := rfl
@[simp] theorem State.setCore_regions (s : State) (k : Nat) (c : Core) : (s.setCore k c).regions = s.regions := rfl
@[simp] theorem State.setCore_sliceViews (s : State) (k : Nat) (c : Core) : (s.setCore k c).sliceViews = s.sliceViews := rfl
@[simp] theorem State.setCore_clusterViews (s : State) (k : Nat) (c : Core) : (s.setCore k c).clusterViews = s.clusterViews := rfl
@[simp] theorem State.setCore_stalled (s : State) (k : Nat) (c : Core) : (s.setCore k c).stalled = s.stalled := rfl
@[simp] theorem State.setCore_peerRounds (s : State) (k : Nat) (c : Core) : (s.setCore k c).peerRounds = s.peerRounds := rfl
@[simp] theorem State.setCore_hubBuf (s : State) (k : Nat) (c : Core) : (s.setCore k c).hubBuf = s.hubBuf := rfl
@[simp] theorem State.setCore_waiters (s : State) (k : Nat) (c : Core) : (s.setCore k c).waiters = s.waiters := rfl
@[simp] theorem State.setCore_rcbs (s : State) (k : Nat) (c : Core) : (s.setCore k c).rcbs = s.rcbs := rfl
@[simp] theorem State.setCore_dispensers (s : State) (k : Nat) (c : Core) : (s.setCore k c).dispensers = s.dispensers := rfl
@[simp] theorem State.setCore_entryWaits (s : State) (k : Nat) (c : Core) : (s.setCore k c).entryWaits = s.entryWaits := rfl
@[simp] theorem State.setCore_endJoins (s : State) (k : Nat) (c : Core) : (s.setCore k c).endJoins = s.endJoins := rfl
@[simp] theorem State.setCore_heldFaults (s : State) (k : Nat) (c : Core) : (s.setCore k c).heldFaults = s.heldFaults := rfl
@[simp] theorem State.setCore_spilled (s : State) (k : Nat) (c : Core) : (s.setCore k c).spilled = s.spilled := rfl
@[simp] theorem State.setCore_sdie (s : State) (k : Nat) (c : Core) : (s.setCore k c).sdie = s.sdie := rfl
@[simp] theorem State.setCore_platform (s : State) (k : Nat) (c : Core) : (s.setCore k c).platform = s.platform := rfl
@[simp] theorem State.setCore_mesh (s : State) (k : Nat) (c : Core) : (s.setCore k c).mesh = s.mesh := rfl

/-! ### setCtx -/

@[simp] theorem State.setCtx_cycle (s : State) (r : ThreadRef) (x : Context) : (s.setCtx r x).cycle = s.cycle := rfl
@[simp] theorem State.setCtx_turn (s : State) (r : ThreadRef) (x : Context) : (s.setCtx r x).turn = s.turn := rfl
@[simp] theorem State.setCtx_tick (s : State) (r : ThreadRef) (x : Context) : (s.setCtx r x).tick = s.tick := rfl
@[simp] theorem State.setCtx_cur (s : State) (r : ThreadRef) (x : Context) : (s.setCtx r x).cur = s.cur := rfl
@[simp] theorem State.setCtx_woken (s : State) (r : ThreadRef) (x : Context) : (s.setCtx r x).woken = s.woken := rfl
@[simp] theorem State.setCtx_agenda (s : State) (r : ThreadRef) (x : Context) : (s.setCtx r x).agenda = s.agenda := rfl
@[simp] theorem State.setCtx_due (s : State) (r : ThreadRef) (x : Context) : (s.setCtx r x).due = s.due := rfl
@[simp] theorem State.setCtx_out (s : State) (r : ThreadRef) (x : Context) : (s.setCtx r x).out = s.out := rfl
@[simp] theorem State.setCtx_timeUnits (s : State) (r : ThreadRef) (x : Context) : (s.setCtx r x).timeUnits = s.timeUnits := rfl
@[simp] theorem State.setCtx_nextTid (s : State) (r : ThreadRef) (x : Context) : (s.setCtx r x).nextTid = s.nextTid := rfl
@[simp] theorem State.setCtx_mem (s : State) (r : ThreadRef) (x : Context) : (s.setCtx r x).mem = s.mem := rfl
@[simp] theorem State.setCtx_side (s : State) (r : ThreadRef) (x : Context) : (s.setCtx r x).side = s.side := rfl
@[simp] theorem State.setCtx_hostMem (s : State) (r : ThreadRef) (x : Context) : (s.setCtx r x).hostMem = s.hostMem := rfl
@[simp] theorem State.setCtx_peerMem (s : State) (r : ThreadRef) (x : Context) : (s.setCtx r x).peerMem = s.peerMem := rfl
@[simp] theorem State.setCtx_bmm256 (s : State) (r : ThreadRef) (x : Context) : (s.setCtx r x).bmm256 = s.bmm256 := rfl
@[simp] theorem State.setCtx_poison (s : State) (r : ThreadRef) (x : Context) : (s.setCtx r x).poison = s.poison := rfl
@[simp] theorem State.setCtx_micro (s : State) (r : ThreadRef) (x : Context) : (s.setCtx r x).micro = s.micro := rfl
@[simp] theorem State.setCtx_regions (s : State) (r : ThreadRef) (x : Context) : (s.setCtx r x).regions = s.regions := rfl
@[simp] theorem State.setCtx_sliceViews (s : State) (r : ThreadRef) (x : Context) : (s.setCtx r x).sliceViews = s.sliceViews := rfl
@[simp] theorem State.setCtx_clusterViews (s : State) (r : ThreadRef) (x : Context) : (s.setCtx r x).clusterViews = s.clusterViews := rfl
@[simp] theorem State.setCtx_stalled (s : State) (r : ThreadRef) (x : Context) : (s.setCtx r x).stalled = s.stalled := rfl
@[simp] theorem State.setCtx_peerRounds (s : State) (r : ThreadRef) (x : Context) : (s.setCtx r x).peerRounds = s.peerRounds := rfl
@[simp] theorem State.setCtx_hubBuf (s : State) (r : ThreadRef) (x : Context) : (s.setCtx r x).hubBuf = s.hubBuf := rfl
@[simp] theorem State.setCtx_waiters (s : State) (r : ThreadRef) (x : Context) : (s.setCtx r x).waiters = s.waiters := rfl
@[simp] theorem State.setCtx_rcbs (s : State) (r : ThreadRef) (x : Context) : (s.setCtx r x).rcbs = s.rcbs := rfl
@[simp] theorem State.setCtx_dispensers (s : State) (r : ThreadRef) (x : Context) : (s.setCtx r x).dispensers = s.dispensers := rfl
@[simp] theorem State.setCtx_entryWaits (s : State) (r : ThreadRef) (x : Context) : (s.setCtx r x).entryWaits = s.entryWaits := rfl
@[simp] theorem State.setCtx_endJoins (s : State) (r : ThreadRef) (x : Context) : (s.setCtx r x).endJoins = s.endJoins := rfl
@[simp] theorem State.setCtx_heldFaults (s : State) (r : ThreadRef) (x : Context) : (s.setCtx r x).heldFaults = s.heldFaults := rfl
@[simp] theorem State.setCtx_spilled (s : State) (r : ThreadRef) (x : Context) : (s.setCtx r x).spilled = s.spilled := rfl
@[simp] theorem State.setCtx_sdie (s : State) (r : ThreadRef) (x : Context) : (s.setCtx r x).sdie = s.sdie := rfl
@[simp] theorem State.setCtx_platform (s : State) (r : ThreadRef) (x : Context) : (s.setCtx r x).platform = s.platform := rfl
@[simp] theorem State.setCtx_mesh (s : State) (r : ThreadRef) (x : Context) : (s.setCtx r x).mesh = s.mesh := rfl

/-! ### setMe -/

@[simp] theorem State.setMe_cycle (s : State) (x : Context) : (s.setMe x).cycle = s.cycle := rfl
@[simp] theorem State.setMe_turn (s : State) (x : Context) : (s.setMe x).turn = s.turn := rfl
@[simp] theorem State.setMe_tick (s : State) (x : Context) : (s.setMe x).tick = s.tick := rfl
@[simp] theorem State.setMe_cur (s : State) (x : Context) : (s.setMe x).cur = s.cur := rfl
@[simp] theorem State.setMe_woken (s : State) (x : Context) : (s.setMe x).woken = s.woken := rfl
@[simp] theorem State.setMe_agenda (s : State) (x : Context) : (s.setMe x).agenda = s.agenda := rfl
@[simp] theorem State.setMe_due (s : State) (x : Context) : (s.setMe x).due = s.due := rfl
@[simp] theorem State.setMe_out (s : State) (x : Context) : (s.setMe x).out = s.out := rfl
@[simp] theorem State.setMe_timeUnits (s : State) (x : Context) : (s.setMe x).timeUnits = s.timeUnits := rfl
@[simp] theorem State.setMe_nextTid (s : State) (x : Context) : (s.setMe x).nextTid = s.nextTid := rfl
@[simp] theorem State.setMe_mem (s : State) (x : Context) : (s.setMe x).mem = s.mem := rfl
@[simp] theorem State.setMe_side (s : State) (x : Context) : (s.setMe x).side = s.side := rfl
@[simp] theorem State.setMe_hostMem (s : State) (x : Context) : (s.setMe x).hostMem = s.hostMem := rfl
@[simp] theorem State.setMe_peerMem (s : State) (x : Context) : (s.setMe x).peerMem = s.peerMem := rfl
@[simp] theorem State.setMe_bmm256 (s : State) (x : Context) : (s.setMe x).bmm256 = s.bmm256 := rfl
@[simp] theorem State.setMe_poison (s : State) (x : Context) : (s.setMe x).poison = s.poison := rfl
@[simp] theorem State.setMe_micro (s : State) (x : Context) : (s.setMe x).micro = s.micro := rfl
@[simp] theorem State.setMe_regions (s : State) (x : Context) : (s.setMe x).regions = s.regions := rfl
@[simp] theorem State.setMe_sliceViews (s : State) (x : Context) : (s.setMe x).sliceViews = s.sliceViews := rfl
@[simp] theorem State.setMe_clusterViews (s : State) (x : Context) : (s.setMe x).clusterViews = s.clusterViews := rfl
@[simp] theorem State.setMe_stalled (s : State) (x : Context) : (s.setMe x).stalled = s.stalled := rfl
@[simp] theorem State.setMe_peerRounds (s : State) (x : Context) : (s.setMe x).peerRounds = s.peerRounds := rfl
@[simp] theorem State.setMe_hubBuf (s : State) (x : Context) : (s.setMe x).hubBuf = s.hubBuf := rfl
@[simp] theorem State.setMe_waiters (s : State) (x : Context) : (s.setMe x).waiters = s.waiters := rfl
@[simp] theorem State.setMe_rcbs (s : State) (x : Context) : (s.setMe x).rcbs = s.rcbs := rfl
@[simp] theorem State.setMe_dispensers (s : State) (x : Context) : (s.setMe x).dispensers = s.dispensers := rfl
@[simp] theorem State.setMe_entryWaits (s : State) (x : Context) : (s.setMe x).entryWaits = s.entryWaits := rfl
@[simp] theorem State.setMe_endJoins (s : State) (x : Context) : (s.setMe x).endJoins = s.endJoins := rfl
@[simp] theorem State.setMe_heldFaults (s : State) (x : Context) : (s.setMe x).heldFaults = s.heldFaults := rfl
@[simp] theorem State.setMe_spilled (s : State) (x : Context) : (s.setMe x).spilled = s.spilled := rfl
@[simp] theorem State.setMe_sdie (s : State) (x : Context) : (s.setMe x).sdie = s.sdie := rfl
@[simp] theorem State.setMe_platform (s : State) (x : Context) : (s.setMe x).platform = s.platform := rfl
@[simp] theorem State.setMe_mesh (s : State) (x : Context) : (s.setMe x).mesh = s.mesh := rfl

/-! ### setMyCore -/

@[simp] theorem State.setMyCore_cycle (s : State) (c : Core) : (s.setMyCore c).cycle = s.cycle := rfl
@[simp] theorem State.setMyCore_turn (s : State) (c : Core) : (s.setMyCore c).turn = s.turn := rfl
@[simp] theorem State.setMyCore_tick (s : State) (c : Core) : (s.setMyCore c).tick = s.tick := rfl
@[simp] theorem State.setMyCore_cur (s : State) (c : Core) : (s.setMyCore c).cur = s.cur := rfl
@[simp] theorem State.setMyCore_woken (s : State) (c : Core) : (s.setMyCore c).woken = s.woken := rfl
@[simp] theorem State.setMyCore_agenda (s : State) (c : Core) : (s.setMyCore c).agenda = s.agenda := rfl
@[simp] theorem State.setMyCore_due (s : State) (c : Core) : (s.setMyCore c).due = s.due := rfl
@[simp] theorem State.setMyCore_out (s : State) (c : Core) : (s.setMyCore c).out = s.out := rfl
@[simp] theorem State.setMyCore_timeUnits (s : State) (c : Core) : (s.setMyCore c).timeUnits = s.timeUnits := rfl
@[simp] theorem State.setMyCore_nextTid (s : State) (c : Core) : (s.setMyCore c).nextTid = s.nextTid := rfl
@[simp] theorem State.setMyCore_mem (s : State) (c : Core) : (s.setMyCore c).mem = s.mem := rfl
@[simp] theorem State.setMyCore_side (s : State) (c : Core) : (s.setMyCore c).side = s.side := rfl
@[simp] theorem State.setMyCore_hostMem (s : State) (c : Core) : (s.setMyCore c).hostMem = s.hostMem := rfl
@[simp] theorem State.setMyCore_peerMem (s : State) (c : Core) : (s.setMyCore c).peerMem = s.peerMem := rfl
@[simp] theorem State.setMyCore_bmm256 (s : State) (c : Core) : (s.setMyCore c).bmm256 = s.bmm256 := rfl
@[simp] theorem State.setMyCore_poison (s : State) (c : Core) : (s.setMyCore c).poison = s.poison := rfl
@[simp] theorem State.setMyCore_micro (s : State) (c : Core) : (s.setMyCore c).micro = s.micro := rfl
@[simp] theorem State.setMyCore_regions (s : State) (c : Core) : (s.setMyCore c).regions = s.regions := rfl
@[simp] theorem State.setMyCore_sliceViews (s : State) (c : Core) : (s.setMyCore c).sliceViews = s.sliceViews := rfl
@[simp] theorem State.setMyCore_clusterViews (s : State) (c : Core) : (s.setMyCore c).clusterViews = s.clusterViews := rfl
@[simp] theorem State.setMyCore_stalled (s : State) (c : Core) : (s.setMyCore c).stalled = s.stalled := rfl
@[simp] theorem State.setMyCore_peerRounds (s : State) (c : Core) : (s.setMyCore c).peerRounds = s.peerRounds := rfl
@[simp] theorem State.setMyCore_hubBuf (s : State) (c : Core) : (s.setMyCore c).hubBuf = s.hubBuf := rfl
@[simp] theorem State.setMyCore_waiters (s : State) (c : Core) : (s.setMyCore c).waiters = s.waiters := rfl
@[simp] theorem State.setMyCore_rcbs (s : State) (c : Core) : (s.setMyCore c).rcbs = s.rcbs := rfl
@[simp] theorem State.setMyCore_dispensers (s : State) (c : Core) : (s.setMyCore c).dispensers = s.dispensers := rfl
@[simp] theorem State.setMyCore_entryWaits (s : State) (c : Core) : (s.setMyCore c).entryWaits = s.entryWaits := rfl
@[simp] theorem State.setMyCore_endJoins (s : State) (c : Core) : (s.setMyCore c).endJoins = s.endJoins := rfl
@[simp] theorem State.setMyCore_heldFaults (s : State) (c : Core) : (s.setMyCore c).heldFaults = s.heldFaults := rfl
@[simp] theorem State.setMyCore_spilled (s : State) (c : Core) : (s.setMyCore c).spilled = s.spilled := rfl
@[simp] theorem State.setMyCore_sdie (s : State) (c : Core) : (s.setMyCore c).sdie = s.sdie := rfl
@[simp] theorem State.setMyCore_platform (s : State) (c : Core) : (s.setMyCore c).platform = s.platform := rfl
@[simp] theorem State.setMyCore_mesh (s : State) (c : Core) : (s.setMyCore c).mesh = s.mesh := rfl

/-! ### setS -/

@[simp] theorem State.setS_cycle (s : State) (i : BitVec 5) (v : Word) : (s.setS i v).cycle = s.cycle := rfl
@[simp] theorem State.setS_turn (s : State) (i : BitVec 5) (v : Word) : (s.setS i v).turn = s.turn := rfl
@[simp] theorem State.setS_tick (s : State) (i : BitVec 5) (v : Word) : (s.setS i v).tick = s.tick := rfl
@[simp] theorem State.setS_cur (s : State) (i : BitVec 5) (v : Word) : (s.setS i v).cur = s.cur := rfl
@[simp] theorem State.setS_woken (s : State) (i : BitVec 5) (v : Word) : (s.setS i v).woken = s.woken := rfl
@[simp] theorem State.setS_agenda (s : State) (i : BitVec 5) (v : Word) : (s.setS i v).agenda = s.agenda := rfl
@[simp] theorem State.setS_due (s : State) (i : BitVec 5) (v : Word) : (s.setS i v).due = s.due := rfl
@[simp] theorem State.setS_out (s : State) (i : BitVec 5) (v : Word) : (s.setS i v).out = s.out := rfl
@[simp] theorem State.setS_timeUnits (s : State) (i : BitVec 5) (v : Word) : (s.setS i v).timeUnits = s.timeUnits := rfl
@[simp] theorem State.setS_nextTid (s : State) (i : BitVec 5) (v : Word) : (s.setS i v).nextTid = s.nextTid := rfl
@[simp] theorem State.setS_mem (s : State) (i : BitVec 5) (v : Word) : (s.setS i v).mem = s.mem := rfl
@[simp] theorem State.setS_side (s : State) (i : BitVec 5) (v : Word) : (s.setS i v).side = s.side := rfl
@[simp] theorem State.setS_hostMem (s : State) (i : BitVec 5) (v : Word) : (s.setS i v).hostMem = s.hostMem := rfl
@[simp] theorem State.setS_peerMem (s : State) (i : BitVec 5) (v : Word) : (s.setS i v).peerMem = s.peerMem := rfl
@[simp] theorem State.setS_bmm256 (s : State) (i : BitVec 5) (v : Word) : (s.setS i v).bmm256 = s.bmm256 := rfl
@[simp] theorem State.setS_poison (s : State) (i : BitVec 5) (v : Word) : (s.setS i v).poison = s.poison := rfl
@[simp] theorem State.setS_micro (s : State) (i : BitVec 5) (v : Word) : (s.setS i v).micro = s.micro := rfl
@[simp] theorem State.setS_regions (s : State) (i : BitVec 5) (v : Word) : (s.setS i v).regions = s.regions := rfl
@[simp] theorem State.setS_sliceViews (s : State) (i : BitVec 5) (v : Word) : (s.setS i v).sliceViews = s.sliceViews := rfl
@[simp] theorem State.setS_clusterViews (s : State) (i : BitVec 5) (v : Word) : (s.setS i v).clusterViews = s.clusterViews := rfl
@[simp] theorem State.setS_stalled (s : State) (i : BitVec 5) (v : Word) : (s.setS i v).stalled = s.stalled := rfl
@[simp] theorem State.setS_peerRounds (s : State) (i : BitVec 5) (v : Word) : (s.setS i v).peerRounds = s.peerRounds := rfl
@[simp] theorem State.setS_hubBuf (s : State) (i : BitVec 5) (v : Word) : (s.setS i v).hubBuf = s.hubBuf := rfl
@[simp] theorem State.setS_waiters (s : State) (i : BitVec 5) (v : Word) : (s.setS i v).waiters = s.waiters := rfl
@[simp] theorem State.setS_rcbs (s : State) (i : BitVec 5) (v : Word) : (s.setS i v).rcbs = s.rcbs := rfl
@[simp] theorem State.setS_dispensers (s : State) (i : BitVec 5) (v : Word) : (s.setS i v).dispensers = s.dispensers := rfl
@[simp] theorem State.setS_entryWaits (s : State) (i : BitVec 5) (v : Word) : (s.setS i v).entryWaits = s.entryWaits := rfl
@[simp] theorem State.setS_endJoins (s : State) (i : BitVec 5) (v : Word) : (s.setS i v).endJoins = s.endJoins := rfl
@[simp] theorem State.setS_heldFaults (s : State) (i : BitVec 5) (v : Word) : (s.setS i v).heldFaults = s.heldFaults := rfl
@[simp] theorem State.setS_spilled (s : State) (i : BitVec 5) (v : Word) : (s.setS i v).spilled = s.spilled := rfl
@[simp] theorem State.setS_sdie (s : State) (i : BitVec 5) (v : Word) : (s.setS i v).sdie = s.sdie := rfl
@[simp] theorem State.setS_platform (s : State) (i : BitVec 5) (v : Word) : (s.setS i v).platform = s.platform := rfl
@[simp] theorem State.setS_mesh (s : State) (i : BitVec 5) (v : Word) : (s.setS i v).mesh = s.mesh := rfl

/-! ### setT -/

@[simp] theorem State.setT_cycle (s : State) (i : BitVec 4) (v : BitVec 128) : (s.setT i v).cycle = s.cycle := rfl
@[simp] theorem State.setT_turn (s : State) (i : BitVec 4) (v : BitVec 128) : (s.setT i v).turn = s.turn := rfl
@[simp] theorem State.setT_tick (s : State) (i : BitVec 4) (v : BitVec 128) : (s.setT i v).tick = s.tick := rfl
@[simp] theorem State.setT_cur (s : State) (i : BitVec 4) (v : BitVec 128) : (s.setT i v).cur = s.cur := rfl
@[simp] theorem State.setT_woken (s : State) (i : BitVec 4) (v : BitVec 128) : (s.setT i v).woken = s.woken := rfl
@[simp] theorem State.setT_agenda (s : State) (i : BitVec 4) (v : BitVec 128) : (s.setT i v).agenda = s.agenda := rfl
@[simp] theorem State.setT_due (s : State) (i : BitVec 4) (v : BitVec 128) : (s.setT i v).due = s.due := rfl
@[simp] theorem State.setT_out (s : State) (i : BitVec 4) (v : BitVec 128) : (s.setT i v).out = s.out := rfl
@[simp] theorem State.setT_timeUnits (s : State) (i : BitVec 4) (v : BitVec 128) : (s.setT i v).timeUnits = s.timeUnits := rfl
@[simp] theorem State.setT_nextTid (s : State) (i : BitVec 4) (v : BitVec 128) : (s.setT i v).nextTid = s.nextTid := rfl
@[simp] theorem State.setT_mem (s : State) (i : BitVec 4) (v : BitVec 128) : (s.setT i v).mem = s.mem := rfl
@[simp] theorem State.setT_side (s : State) (i : BitVec 4) (v : BitVec 128) : (s.setT i v).side = s.side := rfl
@[simp] theorem State.setT_hostMem (s : State) (i : BitVec 4) (v : BitVec 128) : (s.setT i v).hostMem = s.hostMem := rfl
@[simp] theorem State.setT_peerMem (s : State) (i : BitVec 4) (v : BitVec 128) : (s.setT i v).peerMem = s.peerMem := rfl
@[simp] theorem State.setT_bmm256 (s : State) (i : BitVec 4) (v : BitVec 128) : (s.setT i v).bmm256 = s.bmm256 := rfl
@[simp] theorem State.setT_poison (s : State) (i : BitVec 4) (v : BitVec 128) : (s.setT i v).poison = s.poison := rfl
@[simp] theorem State.setT_micro (s : State) (i : BitVec 4) (v : BitVec 128) : (s.setT i v).micro = s.micro := rfl
@[simp] theorem State.setT_regions (s : State) (i : BitVec 4) (v : BitVec 128) : (s.setT i v).regions = s.regions := rfl
@[simp] theorem State.setT_sliceViews (s : State) (i : BitVec 4) (v : BitVec 128) : (s.setT i v).sliceViews = s.sliceViews := rfl
@[simp] theorem State.setT_clusterViews (s : State) (i : BitVec 4) (v : BitVec 128) : (s.setT i v).clusterViews = s.clusterViews := rfl
@[simp] theorem State.setT_stalled (s : State) (i : BitVec 4) (v : BitVec 128) : (s.setT i v).stalled = s.stalled := rfl
@[simp] theorem State.setT_peerRounds (s : State) (i : BitVec 4) (v : BitVec 128) : (s.setT i v).peerRounds = s.peerRounds := rfl
@[simp] theorem State.setT_hubBuf (s : State) (i : BitVec 4) (v : BitVec 128) : (s.setT i v).hubBuf = s.hubBuf := rfl
@[simp] theorem State.setT_waiters (s : State) (i : BitVec 4) (v : BitVec 128) : (s.setT i v).waiters = s.waiters := rfl
@[simp] theorem State.setT_rcbs (s : State) (i : BitVec 4) (v : BitVec 128) : (s.setT i v).rcbs = s.rcbs := rfl
@[simp] theorem State.setT_dispensers (s : State) (i : BitVec 4) (v : BitVec 128) : (s.setT i v).dispensers = s.dispensers := rfl
@[simp] theorem State.setT_entryWaits (s : State) (i : BitVec 4) (v : BitVec 128) : (s.setT i v).entryWaits = s.entryWaits := rfl
@[simp] theorem State.setT_endJoins (s : State) (i : BitVec 4) (v : BitVec 128) : (s.setT i v).endJoins = s.endJoins := rfl
@[simp] theorem State.setT_heldFaults (s : State) (i : BitVec 4) (v : BitVec 128) : (s.setT i v).heldFaults = s.heldFaults := rfl
@[simp] theorem State.setT_spilled (s : State) (i : BitVec 4) (v : BitVec 128) : (s.setT i v).spilled = s.spilled := rfl
@[simp] theorem State.setT_sdie (s : State) (i : BitVec 4) (v : BitVec 128) : (s.setT i v).sdie = s.sdie := rfl
@[simp] theorem State.setT_platform (s : State) (i : BitVec 4) (v : BitVec 128) : (s.setT i v).platform = s.platform := rfl
@[simp] theorem State.setT_mesh (s : State) (i : BitVec 4) (v : BitVec 128) : (s.setT i v).mesh = s.mesh := rfl

/-! ### setB -/

@[simp] theorem State.setB_cycle (s : State) (i : BitVec 4) (v : BitVec 32) : (s.setB i v).cycle = s.cycle := rfl
@[simp] theorem State.setB_turn (s : State) (i : BitVec 4) (v : BitVec 32) : (s.setB i v).turn = s.turn := rfl
@[simp] theorem State.setB_tick (s : State) (i : BitVec 4) (v : BitVec 32) : (s.setB i v).tick = s.tick := rfl
@[simp] theorem State.setB_cur (s : State) (i : BitVec 4) (v : BitVec 32) : (s.setB i v).cur = s.cur := rfl
@[simp] theorem State.setB_woken (s : State) (i : BitVec 4) (v : BitVec 32) : (s.setB i v).woken = s.woken := rfl
@[simp] theorem State.setB_agenda (s : State) (i : BitVec 4) (v : BitVec 32) : (s.setB i v).agenda = s.agenda := rfl
@[simp] theorem State.setB_due (s : State) (i : BitVec 4) (v : BitVec 32) : (s.setB i v).due = s.due := rfl
@[simp] theorem State.setB_out (s : State) (i : BitVec 4) (v : BitVec 32) : (s.setB i v).out = s.out := rfl
@[simp] theorem State.setB_timeUnits (s : State) (i : BitVec 4) (v : BitVec 32) : (s.setB i v).timeUnits = s.timeUnits := rfl
@[simp] theorem State.setB_nextTid (s : State) (i : BitVec 4) (v : BitVec 32) : (s.setB i v).nextTid = s.nextTid := rfl
@[simp] theorem State.setB_mem (s : State) (i : BitVec 4) (v : BitVec 32) : (s.setB i v).mem = s.mem := rfl
@[simp] theorem State.setB_side (s : State) (i : BitVec 4) (v : BitVec 32) : (s.setB i v).side = s.side := rfl
@[simp] theorem State.setB_hostMem (s : State) (i : BitVec 4) (v : BitVec 32) : (s.setB i v).hostMem = s.hostMem := rfl
@[simp] theorem State.setB_peerMem (s : State) (i : BitVec 4) (v : BitVec 32) : (s.setB i v).peerMem = s.peerMem := rfl
@[simp] theorem State.setB_bmm256 (s : State) (i : BitVec 4) (v : BitVec 32) : (s.setB i v).bmm256 = s.bmm256 := rfl
@[simp] theorem State.setB_poison (s : State) (i : BitVec 4) (v : BitVec 32) : (s.setB i v).poison = s.poison := rfl
@[simp] theorem State.setB_micro (s : State) (i : BitVec 4) (v : BitVec 32) : (s.setB i v).micro = s.micro := rfl
@[simp] theorem State.setB_regions (s : State) (i : BitVec 4) (v : BitVec 32) : (s.setB i v).regions = s.regions := rfl
@[simp] theorem State.setB_sliceViews (s : State) (i : BitVec 4) (v : BitVec 32) : (s.setB i v).sliceViews = s.sliceViews := rfl
@[simp] theorem State.setB_clusterViews (s : State) (i : BitVec 4) (v : BitVec 32) : (s.setB i v).clusterViews = s.clusterViews := rfl
@[simp] theorem State.setB_stalled (s : State) (i : BitVec 4) (v : BitVec 32) : (s.setB i v).stalled = s.stalled := rfl
@[simp] theorem State.setB_peerRounds (s : State) (i : BitVec 4) (v : BitVec 32) : (s.setB i v).peerRounds = s.peerRounds := rfl
@[simp] theorem State.setB_hubBuf (s : State) (i : BitVec 4) (v : BitVec 32) : (s.setB i v).hubBuf = s.hubBuf := rfl
@[simp] theorem State.setB_waiters (s : State) (i : BitVec 4) (v : BitVec 32) : (s.setB i v).waiters = s.waiters := rfl
@[simp] theorem State.setB_rcbs (s : State) (i : BitVec 4) (v : BitVec 32) : (s.setB i v).rcbs = s.rcbs := rfl
@[simp] theorem State.setB_dispensers (s : State) (i : BitVec 4) (v : BitVec 32) : (s.setB i v).dispensers = s.dispensers := rfl
@[simp] theorem State.setB_entryWaits (s : State) (i : BitVec 4) (v : BitVec 32) : (s.setB i v).entryWaits = s.entryWaits := rfl
@[simp] theorem State.setB_endJoins (s : State) (i : BitVec 4) (v : BitVec 32) : (s.setB i v).endJoins = s.endJoins := rfl
@[simp] theorem State.setB_heldFaults (s : State) (i : BitVec 4) (v : BitVec 32) : (s.setB i v).heldFaults = s.heldFaults := rfl
@[simp] theorem State.setB_spilled (s : State) (i : BitVec 4) (v : BitVec 32) : (s.setB i v).spilled = s.spilled := rfl
@[simp] theorem State.setB_sdie (s : State) (i : BitVec 4) (v : BitVec 32) : (s.setB i v).sdie = s.sdie := rfl
@[simp] theorem State.setB_platform (s : State) (i : BitVec 4) (v : BitVec 32) : (s.setB i v).platform = s.platform := rfl
@[simp] theorem State.setB_mesh (s : State) (i : BitVec 4) (v : BitVec 32) : (s.setB i v).mesh = s.mesh := rfl

/-! ### post -/

@[simp] theorem State.post_cycle (s : State) (l : List Instr) : (s.post l).cycle = s.cycle := rfl
@[simp] theorem State.post_turn (s : State) (l : List Instr) : (s.post l).turn = s.turn := rfl
@[simp] theorem State.post_tick (s : State) (l : List Instr) : (s.post l).tick = s.tick := rfl
@[simp] theorem State.post_cur (s : State) (l : List Instr) : (s.post l).cur = s.cur := rfl
@[simp] theorem State.post_woken (s : State) (l : List Instr) : (s.post l).woken = s.woken := rfl
@[simp] theorem State.post_due (s : State) (l : List Instr) : (s.post l).due = s.due := rfl
@[simp] theorem State.post_out (s : State) (l : List Instr) : (s.post l).out = s.out := rfl
@[simp] theorem State.post_timeUnits (s : State) (l : List Instr) : (s.post l).timeUnits = s.timeUnits := rfl
@[simp] theorem State.post_nextTid (s : State) (l : List Instr) : (s.post l).nextTid = s.nextTid := rfl
@[simp] theorem State.post_mem (s : State) (l : List Instr) : (s.post l).mem = s.mem := rfl
@[simp] theorem State.post_side (s : State) (l : List Instr) : (s.post l).side = s.side := rfl
@[simp] theorem State.post_hostMem (s : State) (l : List Instr) : (s.post l).hostMem = s.hostMem := rfl
@[simp] theorem State.post_peerMem (s : State) (l : List Instr) : (s.post l).peerMem = s.peerMem := rfl
@[simp] theorem State.post_bmm256 (s : State) (l : List Instr) : (s.post l).bmm256 = s.bmm256 := rfl
@[simp] theorem State.post_poison (s : State) (l : List Instr) : (s.post l).poison = s.poison := rfl
@[simp] theorem State.post_cores (s : State) (l : List Instr) : (s.post l).cores = s.cores := rfl
@[simp] theorem State.post_micro (s : State) (l : List Instr) : (s.post l).micro = s.micro := rfl
@[simp] theorem State.post_regions (s : State) (l : List Instr) : (s.post l).regions = s.regions := rfl
@[simp] theorem State.post_sliceViews (s : State) (l : List Instr) : (s.post l).sliceViews = s.sliceViews := rfl
@[simp] theorem State.post_clusterViews (s : State) (l : List Instr) : (s.post l).clusterViews = s.clusterViews := rfl
@[simp] theorem State.post_stalled (s : State) (l : List Instr) : (s.post l).stalled = s.stalled := rfl
@[simp] theorem State.post_peerRounds (s : State) (l : List Instr) : (s.post l).peerRounds = s.peerRounds := rfl
@[simp] theorem State.post_hubBuf (s : State) (l : List Instr) : (s.post l).hubBuf = s.hubBuf := rfl
@[simp] theorem State.post_waiters (s : State) (l : List Instr) : (s.post l).waiters = s.waiters := rfl
@[simp] theorem State.post_rcbs (s : State) (l : List Instr) : (s.post l).rcbs = s.rcbs := rfl
@[simp] theorem State.post_dispensers (s : State) (l : List Instr) : (s.post l).dispensers = s.dispensers := rfl
@[simp] theorem State.post_entryWaits (s : State) (l : List Instr) : (s.post l).entryWaits = s.entryWaits := rfl
@[simp] theorem State.post_endJoins (s : State) (l : List Instr) : (s.post l).endJoins = s.endJoins := rfl
@[simp] theorem State.post_heldFaults (s : State) (l : List Instr) : (s.post l).heldFaults = s.heldFaults := rfl
@[simp] theorem State.post_spilled (s : State) (l : List Instr) : (s.post l).spilled = s.spilled := rfl
@[simp] theorem State.post_sdie (s : State) (l : List Instr) : (s.post l).sdie = s.sdie := rfl
@[simp] theorem State.post_platform (s : State) (l : List Instr) : (s.post l).platform = s.platform := rfl
@[simp] theorem State.post_mesh (s : State) (l : List Instr) : (s.post l).mesh = s.mesh := rfl

/-! ### emit -/

@[simp] theorem State.emit_cycle (s : State) (m : OutMsg) : (s.emit m).cycle = s.cycle := rfl
@[simp] theorem State.emit_turn (s : State) (m : OutMsg) : (s.emit m).turn = s.turn := rfl
@[simp] theorem State.emit_tick (s : State) (m : OutMsg) : (s.emit m).tick = s.tick := rfl
@[simp] theorem State.emit_cur (s : State) (m : OutMsg) : (s.emit m).cur = s.cur := rfl
@[simp] theorem State.emit_woken (s : State) (m : OutMsg) : (s.emit m).woken = s.woken := rfl
@[simp] theorem State.emit_agenda (s : State) (m : OutMsg) : (s.emit m).agenda = s.agenda := rfl
@[simp] theorem State.emit_due (s : State) (m : OutMsg) : (s.emit m).due = s.due := rfl
@[simp] theorem State.emit_timeUnits (s : State) (m : OutMsg) : (s.emit m).timeUnits = s.timeUnits := rfl
@[simp] theorem State.emit_nextTid (s : State) (m : OutMsg) : (s.emit m).nextTid = s.nextTid := rfl
@[simp] theorem State.emit_mem (s : State) (m : OutMsg) : (s.emit m).mem = s.mem := rfl
@[simp] theorem State.emit_side (s : State) (m : OutMsg) : (s.emit m).side = s.side := rfl
@[simp] theorem State.emit_hostMem (s : State) (m : OutMsg) : (s.emit m).hostMem = s.hostMem := rfl
@[simp] theorem State.emit_peerMem (s : State) (m : OutMsg) : (s.emit m).peerMem = s.peerMem := rfl
@[simp] theorem State.emit_bmm256 (s : State) (m : OutMsg) : (s.emit m).bmm256 = s.bmm256 := rfl
@[simp] theorem State.emit_poison (s : State) (m : OutMsg) : (s.emit m).poison = s.poison := rfl
@[simp] theorem State.emit_cores (s : State) (m : OutMsg) : (s.emit m).cores = s.cores := rfl
@[simp] theorem State.emit_micro (s : State) (m : OutMsg) : (s.emit m).micro = s.micro := rfl
@[simp] theorem State.emit_regions (s : State) (m : OutMsg) : (s.emit m).regions = s.regions := rfl
@[simp] theorem State.emit_sliceViews (s : State) (m : OutMsg) : (s.emit m).sliceViews = s.sliceViews := rfl
@[simp] theorem State.emit_clusterViews (s : State) (m : OutMsg) : (s.emit m).clusterViews = s.clusterViews := rfl
@[simp] theorem State.emit_stalled (s : State) (m : OutMsg) : (s.emit m).stalled = s.stalled := rfl
@[simp] theorem State.emit_peerRounds (s : State) (m : OutMsg) : (s.emit m).peerRounds = s.peerRounds := rfl
@[simp] theorem State.emit_hubBuf (s : State) (m : OutMsg) : (s.emit m).hubBuf = s.hubBuf := rfl
@[simp] theorem State.emit_waiters (s : State) (m : OutMsg) : (s.emit m).waiters = s.waiters := rfl
@[simp] theorem State.emit_rcbs (s : State) (m : OutMsg) : (s.emit m).rcbs = s.rcbs := rfl
@[simp] theorem State.emit_dispensers (s : State) (m : OutMsg) : (s.emit m).dispensers = s.dispensers := rfl
@[simp] theorem State.emit_entryWaits (s : State) (m : OutMsg) : (s.emit m).entryWaits = s.entryWaits := rfl
@[simp] theorem State.emit_endJoins (s : State) (m : OutMsg) : (s.emit m).endJoins = s.endJoins := rfl
@[simp] theorem State.emit_heldFaults (s : State) (m : OutMsg) : (s.emit m).heldFaults = s.heldFaults := rfl
@[simp] theorem State.emit_spilled (s : State) (m : OutMsg) : (s.emit m).spilled = s.spilled := rfl
@[simp] theorem State.emit_sdie (s : State) (m : OutMsg) : (s.emit m).sdie = s.sdie := rfl
@[simp] theorem State.emit_platform (s : State) (m : OutMsg) : (s.emit m).platform = s.platform := rfl
@[simp] theorem State.emit_mesh (s : State) (m : OutMsg) : (s.emit m).mesh = s.mesh := rfl

/-! ### setClk -/

@[simp] theorem State.setClk_cycle (s : State) (r : ThreadRef) (c : Nat) : (s.setClk r c).cycle = s.cycle := rfl
@[simp] theorem State.setClk_turn (s : State) (r : ThreadRef) (c : Nat) : (s.setClk r c).turn = s.turn := rfl
@[simp] theorem State.setClk_tick (s : State) (r : ThreadRef) (c : Nat) : (s.setClk r c).tick = s.tick := rfl
@[simp] theorem State.setClk_cur (s : State) (r : ThreadRef) (c : Nat) : (s.setClk r c).cur = s.cur := rfl
@[simp] theorem State.setClk_woken (s : State) (r : ThreadRef) (c : Nat) : (s.setClk r c).woken = s.woken := rfl
@[simp] theorem State.setClk_agenda (s : State) (r : ThreadRef) (c : Nat) : (s.setClk r c).agenda = s.agenda := rfl
@[simp] theorem State.setClk_due (s : State) (r : ThreadRef) (c : Nat) : (s.setClk r c).due = s.due := rfl
@[simp] theorem State.setClk_out (s : State) (r : ThreadRef) (c : Nat) : (s.setClk r c).out = s.out := rfl
@[simp] theorem State.setClk_timeUnits (s : State) (r : ThreadRef) (c : Nat) : (s.setClk r c).timeUnits = s.timeUnits := rfl
@[simp] theorem State.setClk_nextTid (s : State) (r : ThreadRef) (c : Nat) : (s.setClk r c).nextTid = s.nextTid := rfl
@[simp] theorem State.setClk_mem (s : State) (r : ThreadRef) (c : Nat) : (s.setClk r c).mem = s.mem := rfl
@[simp] theorem State.setClk_side (s : State) (r : ThreadRef) (c : Nat) : (s.setClk r c).side = s.side := rfl
@[simp] theorem State.setClk_hostMem (s : State) (r : ThreadRef) (c : Nat) : (s.setClk r c).hostMem = s.hostMem := rfl
@[simp] theorem State.setClk_peerMem (s : State) (r : ThreadRef) (c : Nat) : (s.setClk r c).peerMem = s.peerMem := rfl
@[simp] theorem State.setClk_bmm256 (s : State) (r : ThreadRef) (c : Nat) : (s.setClk r c).bmm256 = s.bmm256 := rfl
@[simp] theorem State.setClk_poison (s : State) (r : ThreadRef) (c : Nat) : (s.setClk r c).poison = s.poison := rfl
@[simp] theorem State.setClk_cores (s : State) (r : ThreadRef) (c : Nat) : (s.setClk r c).cores = s.cores := rfl
@[simp] theorem State.setClk_regions (s : State) (r : ThreadRef) (c : Nat) : (s.setClk r c).regions = s.regions := rfl
@[simp] theorem State.setClk_sliceViews (s : State) (r : ThreadRef) (c : Nat) : (s.setClk r c).sliceViews = s.sliceViews := rfl
@[simp] theorem State.setClk_clusterViews (s : State) (r : ThreadRef) (c : Nat) : (s.setClk r c).clusterViews = s.clusterViews := rfl
@[simp] theorem State.setClk_stalled (s : State) (r : ThreadRef) (c : Nat) : (s.setClk r c).stalled = s.stalled := rfl
@[simp] theorem State.setClk_peerRounds (s : State) (r : ThreadRef) (c : Nat) : (s.setClk r c).peerRounds = s.peerRounds := rfl
@[simp] theorem State.setClk_hubBuf (s : State) (r : ThreadRef) (c : Nat) : (s.setClk r c).hubBuf = s.hubBuf := rfl
@[simp] theorem State.setClk_waiters (s : State) (r : ThreadRef) (c : Nat) : (s.setClk r c).waiters = s.waiters := rfl
@[simp] theorem State.setClk_rcbs (s : State) (r : ThreadRef) (c : Nat) : (s.setClk r c).rcbs = s.rcbs := rfl
@[simp] theorem State.setClk_dispensers (s : State) (r : ThreadRef) (c : Nat) : (s.setClk r c).dispensers = s.dispensers := rfl
@[simp] theorem State.setClk_entryWaits (s : State) (r : ThreadRef) (c : Nat) : (s.setClk r c).entryWaits = s.entryWaits := rfl
@[simp] theorem State.setClk_endJoins (s : State) (r : ThreadRef) (c : Nat) : (s.setClk r c).endJoins = s.endJoins := rfl
@[simp] theorem State.setClk_heldFaults (s : State) (r : ThreadRef) (c : Nat) : (s.setClk r c).heldFaults = s.heldFaults := rfl
@[simp] theorem State.setClk_spilled (s : State) (r : ThreadRef) (c : Nat) : (s.setClk r c).spilled = s.spilled := rfl
@[simp] theorem State.setClk_sdie (s : State) (r : ThreadRef) (c : Nat) : (s.setClk r c).sdie = s.sdie := rfl
@[simp] theorem State.setClk_platform (s : State) (r : ThreadRef) (c : Nat) : (s.setClk r c).platform = s.platform := rfl
@[simp] theorem State.setClk_mesh (s : State) (r : ThreadRef) (c : Nat) : (s.setClk r c).mesh = s.mesh := rfl

/-! ### orFlags -/

@[simp] theorem State.orFlags_cycle (s : State) (f : Flags5) : (s.orFlags f).cycle = s.cycle := rfl
@[simp] theorem State.orFlags_turn (s : State) (f : Flags5) : (s.orFlags f).turn = s.turn := rfl
@[simp] theorem State.orFlags_tick (s : State) (f : Flags5) : (s.orFlags f).tick = s.tick := rfl
@[simp] theorem State.orFlags_cur (s : State) (f : Flags5) : (s.orFlags f).cur = s.cur := rfl
@[simp] theorem State.orFlags_woken (s : State) (f : Flags5) : (s.orFlags f).woken = s.woken := rfl
@[simp] theorem State.orFlags_agenda (s : State) (f : Flags5) : (s.orFlags f).agenda = s.agenda := rfl
@[simp] theorem State.orFlags_due (s : State) (f : Flags5) : (s.orFlags f).due = s.due := rfl
@[simp] theorem State.orFlags_out (s : State) (f : Flags5) : (s.orFlags f).out = s.out := rfl
@[simp] theorem State.orFlags_timeUnits (s : State) (f : Flags5) : (s.orFlags f).timeUnits = s.timeUnits := rfl
@[simp] theorem State.orFlags_nextTid (s : State) (f : Flags5) : (s.orFlags f).nextTid = s.nextTid := rfl
@[simp] theorem State.orFlags_mem (s : State) (f : Flags5) : (s.orFlags f).mem = s.mem := rfl
@[simp] theorem State.orFlags_side (s : State) (f : Flags5) : (s.orFlags f).side = s.side := rfl
@[simp] theorem State.orFlags_hostMem (s : State) (f : Flags5) : (s.orFlags f).hostMem = s.hostMem := rfl
@[simp] theorem State.orFlags_peerMem (s : State) (f : Flags5) : (s.orFlags f).peerMem = s.peerMem := rfl
@[simp] theorem State.orFlags_bmm256 (s : State) (f : Flags5) : (s.orFlags f).bmm256 = s.bmm256 := rfl
@[simp] theorem State.orFlags_poison (s : State) (f : Flags5) : (s.orFlags f).poison = s.poison := rfl
@[simp] theorem State.orFlags_micro (s : State) (f : Flags5) : (s.orFlags f).micro = s.micro := rfl
@[simp] theorem State.orFlags_regions (s : State) (f : Flags5) : (s.orFlags f).regions = s.regions := rfl
@[simp] theorem State.orFlags_sliceViews (s : State) (f : Flags5) : (s.orFlags f).sliceViews = s.sliceViews := rfl
@[simp] theorem State.orFlags_clusterViews (s : State) (f : Flags5) : (s.orFlags f).clusterViews = s.clusterViews := rfl
@[simp] theorem State.orFlags_stalled (s : State) (f : Flags5) : (s.orFlags f).stalled = s.stalled := rfl
@[simp] theorem State.orFlags_peerRounds (s : State) (f : Flags5) : (s.orFlags f).peerRounds = s.peerRounds := rfl
@[simp] theorem State.orFlags_hubBuf (s : State) (f : Flags5) : (s.orFlags f).hubBuf = s.hubBuf := rfl
@[simp] theorem State.orFlags_waiters (s : State) (f : Flags5) : (s.orFlags f).waiters = s.waiters := rfl
@[simp] theorem State.orFlags_rcbs (s : State) (f : Flags5) : (s.orFlags f).rcbs = s.rcbs := rfl
@[simp] theorem State.orFlags_dispensers (s : State) (f : Flags5) : (s.orFlags f).dispensers = s.dispensers := rfl
@[simp] theorem State.orFlags_entryWaits (s : State) (f : Flags5) : (s.orFlags f).entryWaits = s.entryWaits := rfl
@[simp] theorem State.orFlags_endJoins (s : State) (f : Flags5) : (s.orFlags f).endJoins = s.endJoins := rfl
@[simp] theorem State.orFlags_heldFaults (s : State) (f : Flags5) : (s.orFlags f).heldFaults = s.heldFaults := rfl
@[simp] theorem State.orFlags_spilled (s : State) (f : Flags5) : (s.orFlags f).spilled = s.spilled := rfl
@[simp] theorem State.orFlags_sdie (s : State) (f : Flags5) : (s.orFlags f).sdie = s.sdie := rfl
@[simp] theorem State.orFlags_platform (s : State) (f : Flags5) : (s.orFlags f).platform = s.platform := rfl
@[simp] theorem State.orFlags_mesh (s : State) (f : Flags5) : (s.orFlags f).mesh = s.mesh := rfl

/-! ### setReg -/

@[simp] theorem State.setReg_cycle (s : State) (i : Nat) (g : RcbReg) : (s.setReg i g).cycle = s.cycle := rfl
@[simp] theorem State.setReg_turn (s : State) (i : Nat) (g : RcbReg) : (s.setReg i g).turn = s.turn := rfl
@[simp] theorem State.setReg_tick (s : State) (i : Nat) (g : RcbReg) : (s.setReg i g).tick = s.tick := rfl
@[simp] theorem State.setReg_cur (s : State) (i : Nat) (g : RcbReg) : (s.setReg i g).cur = s.cur := rfl
@[simp] theorem State.setReg_woken (s : State) (i : Nat) (g : RcbReg) : (s.setReg i g).woken = s.woken := rfl
@[simp] theorem State.setReg_agenda (s : State) (i : Nat) (g : RcbReg) : (s.setReg i g).agenda = s.agenda := rfl
@[simp] theorem State.setReg_due (s : State) (i : Nat) (g : RcbReg) : (s.setReg i g).due = s.due := rfl
@[simp] theorem State.setReg_out (s : State) (i : Nat) (g : RcbReg) : (s.setReg i g).out = s.out := rfl
@[simp] theorem State.setReg_timeUnits (s : State) (i : Nat) (g : RcbReg) : (s.setReg i g).timeUnits = s.timeUnits := rfl
@[simp] theorem State.setReg_nextTid (s : State) (i : Nat) (g : RcbReg) : (s.setReg i g).nextTid = s.nextTid := rfl
@[simp] theorem State.setReg_mem (s : State) (i : Nat) (g : RcbReg) : (s.setReg i g).mem = s.mem := rfl
@[simp] theorem State.setReg_side (s : State) (i : Nat) (g : RcbReg) : (s.setReg i g).side = s.side := rfl
@[simp] theorem State.setReg_hostMem (s : State) (i : Nat) (g : RcbReg) : (s.setReg i g).hostMem = s.hostMem := rfl
@[simp] theorem State.setReg_peerMem (s : State) (i : Nat) (g : RcbReg) : (s.setReg i g).peerMem = s.peerMem := rfl
@[simp] theorem State.setReg_bmm256 (s : State) (i : Nat) (g : RcbReg) : (s.setReg i g).bmm256 = s.bmm256 := rfl
@[simp] theorem State.setReg_poison (s : State) (i : Nat) (g : RcbReg) : (s.setReg i g).poison = s.poison := rfl
@[simp] theorem State.setReg_cores (s : State) (i : Nat) (g : RcbReg) : (s.setReg i g).cores = s.cores := rfl
@[simp] theorem State.setReg_micro (s : State) (i : Nat) (g : RcbReg) : (s.setReg i g).micro = s.micro := rfl
@[simp] theorem State.setReg_regions (s : State) (i : Nat) (g : RcbReg) : (s.setReg i g).regions = s.regions := rfl
@[simp] theorem State.setReg_sliceViews (s : State) (i : Nat) (g : RcbReg) : (s.setReg i g).sliceViews = s.sliceViews := rfl
@[simp] theorem State.setReg_clusterViews (s : State) (i : Nat) (g : RcbReg) : (s.setReg i g).clusterViews = s.clusterViews := rfl
@[simp] theorem State.setReg_stalled (s : State) (i : Nat) (g : RcbReg) : (s.setReg i g).stalled = s.stalled := rfl
@[simp] theorem State.setReg_peerRounds (s : State) (i : Nat) (g : RcbReg) : (s.setReg i g).peerRounds = s.peerRounds := rfl
@[simp] theorem State.setReg_hubBuf (s : State) (i : Nat) (g : RcbReg) : (s.setReg i g).hubBuf = s.hubBuf := rfl
@[simp] theorem State.setReg_waiters (s : State) (i : Nat) (g : RcbReg) : (s.setReg i g).waiters = s.waiters := rfl
@[simp] theorem State.setReg_dispensers (s : State) (i : Nat) (g : RcbReg) : (s.setReg i g).dispensers = s.dispensers := rfl
@[simp] theorem State.setReg_entryWaits (s : State) (i : Nat) (g : RcbReg) : (s.setReg i g).entryWaits = s.entryWaits := rfl
@[simp] theorem State.setReg_endJoins (s : State) (i : Nat) (g : RcbReg) : (s.setReg i g).endJoins = s.endJoins := rfl
@[simp] theorem State.setReg_heldFaults (s : State) (i : Nat) (g : RcbReg) : (s.setReg i g).heldFaults = s.heldFaults := rfl
@[simp] theorem State.setReg_spilled (s : State) (i : Nat) (g : RcbReg) : (s.setReg i g).spilled = s.spilled := rfl
@[simp] theorem State.setReg_sdie (s : State) (i : Nat) (g : RcbReg) : (s.setReg i g).sdie = s.sdie := rfl
@[simp] theorem State.setReg_platform (s : State) (i : Nat) (g : RcbReg) : (s.setReg i g).platform = s.platform := rfl
@[simp] theorem State.setReg_mesh (s : State) (i : Nat) (g : RcbReg) : (s.setReg i g).mesh = s.mesh := rfl

/-! ### setWeir -/

@[simp] theorem State.setWeir_cycle (s : State) (i : Nat) (w : Weir) : (s.setWeir i w).cycle = s.cycle := rfl
@[simp] theorem State.setWeir_turn (s : State) (i : Nat) (w : Weir) : (s.setWeir i w).turn = s.turn := rfl
@[simp] theorem State.setWeir_tick (s : State) (i : Nat) (w : Weir) : (s.setWeir i w).tick = s.tick := rfl
@[simp] theorem State.setWeir_cur (s : State) (i : Nat) (w : Weir) : (s.setWeir i w).cur = s.cur := rfl
@[simp] theorem State.setWeir_woken (s : State) (i : Nat) (w : Weir) : (s.setWeir i w).woken = s.woken := rfl
@[simp] theorem State.setWeir_agenda (s : State) (i : Nat) (w : Weir) : (s.setWeir i w).agenda = s.agenda := rfl
@[simp] theorem State.setWeir_due (s : State) (i : Nat) (w : Weir) : (s.setWeir i w).due = s.due := rfl
@[simp] theorem State.setWeir_out (s : State) (i : Nat) (w : Weir) : (s.setWeir i w).out = s.out := rfl
@[simp] theorem State.setWeir_timeUnits (s : State) (i : Nat) (w : Weir) : (s.setWeir i w).timeUnits = s.timeUnits := rfl
@[simp] theorem State.setWeir_nextTid (s : State) (i : Nat) (w : Weir) : (s.setWeir i w).nextTid = s.nextTid := rfl
@[simp] theorem State.setWeir_mem (s : State) (i : Nat) (w : Weir) : (s.setWeir i w).mem = s.mem := rfl
@[simp] theorem State.setWeir_side (s : State) (i : Nat) (w : Weir) : (s.setWeir i w).side = s.side := rfl
@[simp] theorem State.setWeir_hostMem (s : State) (i : Nat) (w : Weir) : (s.setWeir i w).hostMem = s.hostMem := rfl
@[simp] theorem State.setWeir_peerMem (s : State) (i : Nat) (w : Weir) : (s.setWeir i w).peerMem = s.peerMem := rfl
@[simp] theorem State.setWeir_bmm256 (s : State) (i : Nat) (w : Weir) : (s.setWeir i w).bmm256 = s.bmm256 := rfl
@[simp] theorem State.setWeir_poison (s : State) (i : Nat) (w : Weir) : (s.setWeir i w).poison = s.poison := rfl
@[simp] theorem State.setWeir_cores (s : State) (i : Nat) (w : Weir) : (s.setWeir i w).cores = s.cores := rfl
@[simp] theorem State.setWeir_micro (s : State) (i : Nat) (w : Weir) : (s.setWeir i w).micro = s.micro := rfl
@[simp] theorem State.setWeir_regions (s : State) (i : Nat) (w : Weir) : (s.setWeir i w).regions = s.regions := rfl
@[simp] theorem State.setWeir_sliceViews (s : State) (i : Nat) (w : Weir) : (s.setWeir i w).sliceViews = s.sliceViews := rfl
@[simp] theorem State.setWeir_clusterViews (s : State) (i : Nat) (w : Weir) : (s.setWeir i w).clusterViews = s.clusterViews := rfl
@[simp] theorem State.setWeir_stalled (s : State) (i : Nat) (w : Weir) : (s.setWeir i w).stalled = s.stalled := rfl
@[simp] theorem State.setWeir_peerRounds (s : State) (i : Nat) (w : Weir) : (s.setWeir i w).peerRounds = s.peerRounds := rfl
@[simp] theorem State.setWeir_hubBuf (s : State) (i : Nat) (w : Weir) : (s.setWeir i w).hubBuf = s.hubBuf := rfl
@[simp] theorem State.setWeir_waiters (s : State) (i : Nat) (w : Weir) : (s.setWeir i w).waiters = s.waiters := rfl
@[simp] theorem State.setWeir_rcbs (s : State) (i : Nat) (w : Weir) : (s.setWeir i w).rcbs = s.rcbs := rfl
@[simp] theorem State.setWeir_dispensers (s : State) (i : Nat) (w : Weir) : (s.setWeir i w).dispensers = s.dispensers := rfl
@[simp] theorem State.setWeir_entryWaits (s : State) (i : Nat) (w : Weir) : (s.setWeir i w).entryWaits = s.entryWaits := rfl
@[simp] theorem State.setWeir_endJoins (s : State) (i : Nat) (w : Weir) : (s.setWeir i w).endJoins = s.endJoins := rfl
@[simp] theorem State.setWeir_heldFaults (s : State) (i : Nat) (w : Weir) : (s.setWeir i w).heldFaults = s.heldFaults := rfl
@[simp] theorem State.setWeir_spilled (s : State) (i : Nat) (w : Weir) : (s.setWeir i w).spilled = s.spilled := rfl
@[simp] theorem State.setWeir_platform (s : State) (i : Nat) (w : Weir) : (s.setWeir i w).platform = s.platform := rfl
@[simp] theorem State.setWeir_mesh (s : State) (i : Nat) (w : Weir) : (s.setWeir i w).mesh = s.mesh := rfl

/-! ### Reads after updates -/

theorem State.core_setCore (s : State) (k j : Nat) (c : Core) : (s.setCore k c).core j = if j = k then c else s.core j :=
  SMap.get_set _ _ _ _ _

@[simp] theorem State.core_setCore_same (s : State) (k : Nat) (c : Core) : (s.setCore k c).core k = c := by
  simp [State.core_setCore]

theorem Core.ctx_setCtx (c : Core) (i j : Nat) (x : Context) : (c.setCtx i x).ctx j = if j = i then x else c.ctx j :=
  SMap.get_set _ _ _ _ _

@[simp] theorem Core.ctx_setCtx_same (c : Core) (i : Nat) (x : Context) : (c.setCtx i x).ctx i = x := by
  simp [Core.ctx_setCtx]

theorem State.ctxOf_setCtx (s : State) (r q : ThreadRef) (x : Context) : (s.setCtx r x).ctxOf q = if q = r then x else s.ctxOf q := by
  obtain ⟨k, i⟩ := r
  obtain ⟨k', i'⟩ := q
  by_cases hk : k' = k
  · subst hk
    by_cases hi : i' = i <;> simp [State.ctxOf, State.setCtx, Core.ctx_setCtx, hi]
  · simp [State.ctxOf, State.setCtx, State.core_setCore, hk]

@[simp] theorem State.ctxOf_setCtx_same (s : State) (r : ThreadRef) (x : Context) : (s.setCtx r x).ctxOf r = x := by
  simp [State.ctxOf_setCtx]

@[simp] theorem State.me_setMe (s : State) (x : Context) : (s.setMe x).me = x := by
  simp [State.me, State.setMe]

@[simp] theorem State.ctxOf_post (s : State) (l : List Instr) (r : ThreadRef) : (s.post l).ctxOf r = s.ctxOf r := rfl
@[simp] theorem State.core_post (s : State) (l : List Instr) (k : Nat) : (s.post l).core k = s.core k := rfl
@[simp] theorem State.me_post (s : State) (l : List Instr) : (s.post l).me = s.me := rfl
@[simp] theorem State.ctxOf_emit (s : State) (m : OutMsg) (r : ThreadRef) : (s.emit m).ctxOf r = s.ctxOf r := rfl
@[simp] theorem State.core_emit (s : State) (m : OutMsg) (k : Nat) : (s.emit m).core k = s.core k := rfl
@[simp] theorem State.me_setClk (s : State) (r : ThreadRef) (c : Nat) : (s.setClk r c).me = s.me := rfl

/-- A register reads what was written to it; s0 reads zero. -/
theorem Context.readS_writeS (x : Context) (i j : BitVec 5) (v : Word) :
    (x.writeS i v).readS j = if j = 0 then 0 else if j = i then v else x.readS j := by
  unfold Context.writeS Context.readS
  by_cases hj : j = 0
  · simp only [hj, if_true]
  · by_cases hi : i = 0
    · simp only [hj, hi, if_true, if_false]
    · by_cases e : j = i
      · by_cases h : i.toNat < 16 <;> simp only [e, hi, h, if_true, if_false, SMap.get_set_same, List.headD_cons]
      · have ne : j.toNat ≠ i.toNat := fun h => e (BitVec.eq_of_toNat_eq h)
        by_cases h : j.toNat < 16 <;> by_cases h' : i.toNat < 16 <;>
          simp only [hj, hi, e, h, h', if_true, if_false, SMap.get_set_other _ _ _ ne, List.headD_cons]

@[simp] theorem Context.readS_zero (x : Context) : x.readS 0 = 0 := rfl

theorem Context.readT_writeT (x : Context) (i j : BitVec 4) (v : BitVec 128) :
    (x.writeT i v).readT j = if j = i then v else x.readT j := by
  by_cases e : j = i
  · subst e; simp [Context.writeT, Context.readT]
  · have ne : j.toNat ≠ i.toNat := fun h => e (BitVec.eq_of_toNat_eq h)
    simp [Context.writeT, Context.readT, SMap.get_set, ne, e]

theorem Context.readB_writeB (x : Context) (i j : BitVec 4) (v : BitVec 32) :
    (x.writeB i v).readB j = if j = 0 then 0 else if j = i then v else x.readB j := by
  unfold Context.writeB Context.readB
  by_cases hj : j = 0
  · simp only [hj, if_true]
  · by_cases hi : i = 0
    · simp only [hj, hi, if_true, if_false]
    · by_cases e : j = i
      · simp only [e, hi, if_true, if_false, SMap.get_set_same]
      · have ne : j.toNat ≠ i.toNat := fun h => e (BitVec.eq_of_toNat_eq h)
        simp only [hj, hi, e, if_false, SMap.get_set_other _ _ _ ne]

end Sys2Proof.Machine
end

