-- ==== Sys2Proof/Laws/Ops.lean ====
section
/-! SUPPORT. What each shared operation can do, said once: changes of the executing context, retirement and boundaries. -/

namespace Sys2Proof.Machine

theorem State.ctxOf_setMe (s : State) (x : Context) (r : ThreadRef) : (s.setMe x).ctxOf r = if r = s.cur then x else s.ctxOf r := by
  unfold State.setMe
  rw [State.ctxOf_setCtx]

theorem State.Only.setMe (s : State) (x : Context) : s.Only (s.setMe x) x where
  rest := rfl
  core k := by
    simp only [State.setMe, State.setCtx, State.core_setCore]
    split
    · subst k; rfl
    · rfl
  ctx r := State.ctxOf_setMe s x r

theorem State.Only.cur {s t : State} {x : Context} (h : s.Only t x) : t.cur = s.cur := by rw [h.rest]

theorem State.Only.me {s t : State} {x : Context} (h : s.Only t x) : t.me = x := by
  have := h.ctx s.cur
  rw [if_pos rfl] at this
  rw [State.me, h.cur, this]

theorem State.Only.trans {s t u : State} {x y : Context} (h : s.Only t x) (h' : t.Only u y) : s.Only u y where
  rest := by
    have h1 := h.rest
    have h2 := h'.rest
    rw [h1] at h2
    exact h2
  core k := (h'.core k).trans (h.core k)
  ctx r := by
    rw [h'.ctx, h.ctx, h.cur]
    split <;> rfl

theorem State.Only.sameBytes {s t : State} {x : Context} (h : s.Only t x) : s.SameBytes t := by
  rw [h.rest]; exact ⟨rfl, rfl, rfl, rfl⟩

/-- Retiring with the context `x`. -/
theorem retire_setMe (s : State) (x : Context) : ∃ u, s.Only u (advance x) ∧ retire (s.setMe x) = boundary u :=
  ⟨_, (State.Only.setMe s x).trans (by
    have h := State.Only.setMe (s.setMe x) (advance (s.setMe x).me)
    rwa [State.me_setMe] at h), by unfold retire; rw [State.me_setMe]⟩

theorem retire_only (s : State) : ∃ u, s.Only u (advance s.me) ∧ retire s = boundary u :=
  ⟨_, State.Only.setMe s _, rfl⟩

theorem writeRetire_only (s : State) (d : BitVec 5) (v : Word) :
    ∃ u, s.Only u (advance (s.me.writeS d v)) ∧ writeRetire s d v = boundary u := retire_setMe s _

theorem retireTo_only (s : State) (target : Word) : ∃ u, s.Only u (s.me.jump target) ∧ retireTo s target = boundary u :=
  ⟨_, State.Only.setMe s _, rfl⟩

/-- At a calm boundary nothing happens. -/
theorem boundary_calm {s : State} (h : s.Calm) : boundary s = s := by
  obtain ⟨h1, h2, h3, h4, h5, h6⟩ := h
  simp [boundary, Context.parkDue, h1, h2, h3, h4, h5, h6]

end Sys2Proof.Machine
end

