-- ==== Sys2Proof/Laws/Access.lean ====
section
/-! SUPPORT. What an access can do, said once: checks, loads, stores and waits change nothing that a program names but the bytes
they store and the registers they write. -/

namespace Sys2Proof.Machine

theorem Context.regs_regs (x : Context) : x.regs.regs = x.regs := rfl

theorem Context.writeS_regs (x : Context) (d : BitVec 5) (v : Word) : (x.writeS d v).regs = x.regs.writeS d v := by
  unfold Context.writeS
  split
  · rfl
  · split <;> rfl

theorem Context.writeT_regs (x : Context) (d : BitVec 4) (v : BitVec 128) : (x.writeT d v).regs = x.regs.writeT d v := rfl

theorem Context.readS_regs (x : Context) (i : BitVec 5) : x.regs.readS i = x.readS i := rfl

/-! ### Reflexivity, composition and the small changes -/

theorem State.Touches.refl (s : State) : s.Touches s s.me where
  rest := rfl
  sdie := rfl
  core _ := rfl
  regs r := by
    split
    · subst r; rfl
    · rfl

theorem State.Touches.cur {s t : State} {x : Context} (h : s.Touches t x) : t.cur = s.cur := by rw [h.rest]

theorem State.Touches.meRegs {s t : State} {x : Context} (h : s.Touches t x) : t.me.regs = x.regs := by
  have := h.regs s.cur
  rw [if_pos rfl] at this
  rw [State.me, h.cur, this]

theorem State.Touches.trans {s t u : State} {x y : Context} (h : s.Touches t x) (h' : t.Touches u y) : s.Touches u y where
  rest := by
    have h1 := h.rest
    have h2 := h'.rest
    rw [h1] at h2
    exact h2
  sdie := by
    have h1 := h.sdie
    have h2 := h'.sdie
    rw [h1] at h2
    exact h2
  core k := (h'.core k).trans (h.core k)
  regs r := by
    rw [h'.regs, h.regs, h.cur]
    split <;> rfl

/-- Only the registers of the executing context count. -/
theorem State.Touches.of_regs {s t : State} {x y : Context} (h : s.Touches t x) (e : x.regs = y.regs) : s.Touches t y where
  rest := h.rest
  sdie := h.sdie
  core := h.core
  regs r := by rw [h.regs, e]

theorem State.Touches.setMe {s t : State} {x : Context} (h : s.Touches t x) (y : Context) : s.Touches (t.setMe y) y :=
  h.trans
    { rest := rfl, sdie := rfl
      core := fun k => by
        have := (State.Only.setMe t y).core k
        have := congrArg (fun c : Core => { c with trace := [], views := [] }) this
        exact this
      regs := fun r => by
        rw [State.ctxOf_setMe]
        split <;> rfl }

/-- A change of another context's bookkeeping. -/
theorem State.Touches.setCtx (s : State) (r : ThreadRef) (y : Context) (e : y.regs = (s.ctxOf r).regs) : s.Touches (s.setCtx r y) s.me where
  rest := rfl
  sdie := rfl
  core k := by
    simp only [State.setCtx, State.core_setCore]
    split
    · subst k; rfl
    · rfl
  regs q := by
    rw [State.ctxOf_setCtx]
    split
    · subst q
      split
      · subst r; exact e
      · exact e
    · split
      · subst q; rfl
      · rfl

theorem State.Touches.micro (s : State) (m : Micro) : s.Touches { s with micro := m } s.me where
  rest := rfl
  sdie := rfl
  core _ := rfl
  regs r := by
    show (s.ctxOf r).regs = _
    split
    · subst r; rfl
    · rfl

theorem State.Touches.agenda (s : State) (l : List Instr) : s.Touches { s with agenda := l } s.me where
  rest := rfl
  sdie := rfl
  core _ := rfl
  regs r := by
    show (s.ctxOf r).regs = _
    split
    · subst r; rfl
    · rfl

theorem State.Touches.reports (s : State) (l : List (Word × Word × Word)) :
    s.Touches { s with sdie := { s.sdie with watchReports := l } } s.me where
  rest := rfl
  sdie := rfl
  core _ := rfl
  regs r := by
    show (s.ctxOf r).regs = _
    split
    · subst r; rfl
    · rfl

theorem State.Touches.bytes (s t : State) (h : t = { s with mem := t.mem, side := t.side, hostMem := t.hostMem, peerMem := t.peerMem }) :
    s.Touches t s.me where
  rest := by rw [h]
  sdie := by rw [h]
  core k := by rw [h]; rfl
  regs r := by
    rw [h]
    show (s.ctxOf r).regs = _
    split
    · subst r; rfl
    · rfl

theorem State.Touches.me_eq {s t : State} (h : s.Touches t s.me) : t.me.regs = s.me.regs := h.meRegs

/-- Two changes that leave the executing registers alone. -/
theorem State.Touches.then {s t u : State} (h : s.Touches t s.me) (h' : t.Touches u t.me) : s.Touches u s.me :=
  (h.trans h').of_regs h.me_eq

/-- A trace record changes one core's trace buffer, or nothing. -/
theorem State.traceAt_cases (s : State) (k slot e : Nat) (pc data : Word) :
    s.traceAt k slot e pc data = s ∨ ∃ r, s.traceAt k slot e pc data = s.setCore k ((s.core k).addTrace r) := by
  unfold State.traceAt
  split
  · exact .inr ⟨_, rfl⟩
  · exact .inl rfl

theorem Core.addTrace_ctxs (c : Core) (t : TraceRec) : (c.addTrace t).ctxs = c.ctxs := by unfold Core.addTrace; rfl

theorem Core.addTrace_ctx (c : Core) (t : TraceRec) (i : Nat) : (c.addTrace t).ctx i = c.ctx i := by
  rw [Core.ctx, Core.addTrace_ctxs, Core.ctx]

theorem Core.addTrace_rest (c : Core) (t : TraceRec) : { c.addTrace t with ctxs := [], trace := [], views := [] } = { c with ctxs := [], trace := [], views := [] } := by
  unfold Core.addTrace; rfl

theorem State.addTrace_ctxOf (s : State) (k : Nat) (t : TraceRec) (r : ThreadRef) : (s.setCore k ((s.core k).addTrace t)).ctxOf r = s.ctxOf r := by
  simp only [State.ctxOf, State.core_setCore]
  split
  · rename_i h; rw [← h, Core.addTrace_ctx]
  · rfl

theorem State.Touches.addTrace (s : State) (k : Nat) (t : TraceRec) : s.Touches (s.setCore k ((s.core k).addTrace t)) s.me where
  rest := rfl
  sdie := rfl
  core j := by
    rw [State.core_setCore]
    split
    · subst j; exact Core.addTrace_rest _ _
    · rfl
  regs r := by
    rw [State.addTrace_ctxOf]
    split
    · subst r; rfl
    · rfl

theorem State.Touches.traceAt (s : State) (k slot e : Nat) (pc data : Word) : s.Touches (s.traceAt k slot e pc data) s.me := by
  obtain h | ⟨t, h⟩ := s.traceAt_cases k slot e pc data <;> rw [h]
  · exact State.Touches.refl s
  · exact State.Touches.addTrace s k t

theorem State.traceAt_ctxOf (s : State) (k slot e : Nat) (pc data : Word) (r : ThreadRef) :
    (s.traceAt k slot e pc data).ctxOf r = s.ctxOf r := by
  obtain h | ⟨t, h⟩ := s.traceAt_cases k slot e pc data <;> rw [h]
  exact State.addTrace_ctxOf s k t r

theorem State.traceAt_cur (s : State) (k slot e : Nat) (pc data : Word) : (s.traceAt k slot e pc data).cur = s.cur := by
  obtain h | ⟨t, h⟩ := s.traceAt_cases k slot e pc data <;> rw [h]
  rfl

theorem State.traceAt_agenda (s : State) (k slot e : Nat) (pc data : Word) : (s.traceAt k slot e pc data).agenda = s.agenda := by
  obtain h | ⟨t, h⟩ := s.traceAt_cases k slot e pc data <;> rw [h]
  rfl

theorem State.traceAt_bytes (s : State) (k slot e : Nat) (pc data : Word) : s.SameBytes (s.traceAt k slot e pc data) := by
  obtain h | ⟨t, h⟩ := s.traceAt_cases k slot e pc data <;> rw [h] <;> exact ⟨rfl, rfl, rfl, rfl⟩

theorem State.SameBytes.refl (s : State) : s.SameBytes s := ⟨rfl, rfl, rfl, rfl⟩

theorem State.SameBytes.trans {s t u : State} (h : s.SameBytes t) (h' : t.SameBytes u) : s.SameBytes u :=
  ⟨h'.mem.trans h.mem, h'.side.trans h.side, h'.host.trans h.host, h'.peer.trans h.peer⟩


/-! ### What changes no byte -/

/-- What an access may leave when it stores nothing: no byte differs, and no register. -/
structure State.Keeps (s t : State) : Prop where
  touches : s.Touches t s.me
  bytes : s.SameBytes t

theorem State.Keeps.refl (s : State) : s.Keeps s := ⟨State.Touches.refl s, State.SameBytes.refl s⟩

theorem State.Keeps.then {s t u : State} (h : s.Keeps t) (h' : t.Keeps u) : s.Keeps u := ⟨h.touches.then h'.touches, h.bytes.trans h'.bytes⟩

theorem State.Keeps.micro (s : State) (m : Micro) : s.Keeps { s with micro := m } := ⟨State.Touches.micro s m, ⟨rfl, rfl, rfl, rfl⟩⟩

theorem State.Keeps.agenda (s : State) (l : List Instr) : s.Keeps { s with agenda := l } := ⟨State.Touches.agenda s l, ⟨rfl, rfl, rfl, rfl⟩⟩

theorem State.Keeps.post (s : State) (l : List Instr) : s.Keeps (s.post l) := State.Keeps.agenda s _

theorem State.Keeps.setClk (s : State) (r : ThreadRef) (c : Nat) : s.Keeps (s.setClk r c) := State.Keeps.micro s _

theorem State.Keeps.setCtx (s : State) (r : ThreadRef) (y : Context) (e : y.regs = (s.ctxOf r).regs) : s.Keeps (s.setCtx r y) :=
  ⟨State.Touches.setCtx s r y e, ⟨rfl, rfl, rfl, rfl⟩⟩

theorem State.Keeps.traceAt (s : State) (k slot e : Nat) (pc data : Word) : s.Keeps (s.traceAt k slot e pc data) :=
  ⟨State.Touches.traceAt s k slot e pc data, State.traceAt_bytes s k slot e pc data⟩

/-- A core's L1 changes the views it holds. -/
theorem State.Keeps.views (s : State) (k : Nat) (v : List RoundView) : s.Keeps (s.setCore k { s.core k with views := v }) := by
  refine ⟨⟨rfl, rfl, fun j => ?_, fun r => ?_⟩, ⟨rfl, rfl, rfl, rfl⟩⟩
  · rw [State.core_setCore]
    split
    · subst j; rfl
    · rfl
  · have h : (s.setCore k { s.core k with views := v }).ctxOf r = s.ctxOf r := by
      simp only [State.ctxOf, State.core_setCore]
      split
      · rename_i h; rw [h]; rfl
      · rfl
    rw [h]
    split
    · subst r; rfl
    · rfl

/-- A fold of steps that each keep everything. -/
theorem foldl_keeps {α : Type} (f : State → α → State) (h : ∀ (s : State) (a : α), s.Keeps (f s a)) (l : List α) :
    ∀ s : State, s.Keeps (l.foldl f s) := by
  induction l with
  | nil => intro s; exact State.Keeps.refl s
  | cons a t ih => intro s; exact (h s a).then (ih _)

theorem watchReport_keeps (s : State) (w : Who) (l : Loc) (rd wr : Bool) : s.Keeps (watchReport s w l rd wr) := by
  have rep (s : State) (r : List (Word × Word × Word)) : s.Keeps { s with sdie := { s.sdie with watchReports := r } } :=
    ⟨State.Touches.reports s r, ⟨rfl, rfl, rfl, rfl⟩⟩
  unfold watchReport
  split
  · apply foldl_keeps
    intro s e
    simp only []
    split
    · split
      · exact (rep s _).then (State.Keeps.setCtx _ _ _ rfl)
      · exact rep s _
    · exact rep s _
  · exact State.Keeps.refl s

theorem watchedWalk_keeps (s : State) (w : Who) (lines : List Nat) : s.Keeps (watchedWalk s w lines) :=
  foldl_keeps _ (fun s l => watchReport_keeps s { w with thread := none } (.main (64 * l)) true false) lines s

theorem check_keeps (s : State) (w : Who) (va : Nat) (n : Need) : s.Keeps (check s w va n).2 :=
  have h (x : Xlat Target) : s.Keeps { s with micro := x.micro, agenda := s.agenda ++ x.notes } :=
    (State.Keeps.micro s x.micro).then (State.Keeps.agenda { s with micro := x.micro } _)
  (h _).then (watchedWalk_keeps _ w _)

theorem check_touches (s : State) (w : Who) (va : Nat) (n : Need) : s.Touches (check s w va n).2 s.me := (check_keeps s w va n).touches

theorem check_bytes (s : State) (w : Who) (va : Nat) (n : Need) : s.SameBytes (check s w va n).2 := (check_keeps s w va n).bytes

/-! ### Homes, copies and views -/

theorem homeGate_keeps (s : State) (line core : Nat) (k : FwdKind) (i : Instr) :
    (∀ t, homeGate s line core k i = .error t → s.Keeps t) ∧ (∀ t, homeGate s line core k i = .ok t → s.Keeps t) := by
  unfold homeGate
  simp only []
  constructor <;> intro t h <;> (repeat' split at h) <;> cases h <;>
    first
      | exact State.Keeps.micro s _
      | exact State.Keeps.agenda s _
      | exact (State.Keeps.micro s _).then (State.Keeps.post _ _)

theorem accessGate_keeps (s : State) (w : Who) (line : Nat) (k : FwdKind) :
    (∀ t, accessGate s w line k = .error t → s.Keeps t) ∧ (∀ t, accessGate s w line k = .ok t → s.Keeps t) := by
  unfold accessGate
  split
  · exact homeGate_keeps _ _ _ _ _
  · exact ⟨fun t h => (nomatch h), fun t h => by cases h; exact State.Keeps.micro s _⟩

theorem noteSeen_keeps (s : State) (w : Who) (t : Target) (c : Nat) : s.Keeps (noteSeen s w t c) := by
  unfold noteSeen
  split
  · exact State.Keeps.micro s _
  · exact State.Keeps.refl s

theorem serveHit_keeps (s : State) (w : Who) (t : Target) (line c lv : Nat) (o : Copy) : s.Keeps (serveHit s w t line c lv o).st :=
  (State.Keeps.micro s _).then (noteSeen_keeps _ w t _)

theorem serveHomeLoad_keeps (s : State) (w : Who) (t : Target) (pa c : Nat) : s.Keeps (serveHomeLoad s w t pa c).st :=
  ((State.Keeps.micro s _).then (watchReport_keeps _ w t.loc true false)).then (noteSeen_keeps _ w t _)

theorem serveWindow_keeps (s : State) (t : Target) (c : Nat) : s.Keeps (serveWindow s t c).st := State.Keeps.micro s _

theorem evictLine_keeps (s : State) (core line : Nat) : s.Keeps (evictLine s core line) := by
  unfold evictLine
  split
  · split
    · exact State.Keeps.micro s _
    · exact (State.Keeps.micro s _).then (State.Keeps.post _ _)
    · exact State.Keeps.refl s
  · exact State.Keeps.refl s

theorem makeRoom_keeps (s : State) (core line : Nat) : s.Keeps (makeRoom s core line) := by
  unfold makeRoom
  simp only []
  split
  · exact State.Keeps.refl s
  · split
    · exact State.Keeps.refl s
    · exact (State.Keeps.micro s _).then (evictLine_keeps _ _ _)

theorem markMiss_keeps (s : State) (w : Who) (line : Nat) (x : Bool) : s.Keeps (markMiss s w line x) := by
  unfold markMiss
  split
  · exact State.Keeps.setCtx s _ _ rfl
  · exact State.Keeps.refl s

theorem askHome_keeps (s : State) (w : Who) (t : Target) (line c : Nat) (x : Bool) : s.Keeps (askHome s w t line c x) := by
  unfold askHome
  simp only []
  split
  · exact (State.Keeps.micro s _).then (State.Keeps.post _ _)
  · split
    · exact State.Keeps.refl s
    · split <;> exact (State.Keeps.micro s _).then (State.Keeps.post _ _)

theorem requestLine_keeps (s : State) (w : Who) (t : Target) (line c : Nat) (x : Bool) : s.Keeps (requestLine s w t line c x) :=
  (markMiss_keeps s w line x).then (askHome_keeps _ w t line c x)

theorem clearL1_keeps (s : State) (k : Nat) (gone : Copy → Bool) : s.Keeps (clearL1 s k gone) :=
  (foldl_keeps (fun s (p : Nat × Copy) => evictLine s k p.1) (fun s p => evictLine_keeps s k p.1) _ s).then (State.Keeps.micro _ _)

theorem advanceL1_keeps (s : State) (k r : Nat) (v : BitVec 32) : s.Keeps (advanceL1 s k r v) := by
  unfold advanceL1
  split
  · exact State.Keeps.refl s
  · split
    · exact State.Keeps.refl s
    · exact (clearL1_keeps s k _).then (State.Keeps.views _ k _)

theorem advanceFor_keeps (s : State) (core : Nat) (o : Copy) : s.Keeps (advanceFor s core o) := by
  unfold advanceFor
  split
  · exact advanceL1_keeps s _ _ _
  · exact State.Keeps.refl s

theorem passToL1_keeps (s : State) (core line : Nat) (o : Copy) : s.Keeps (passToL1 s core line o) :=
  ((advanceFor_keeps s core o).then (makeRoom_keeps _ core line)).then (State.Keeps.micro _ _)

/-! ### Loads -/

/-- An answer of an access: it has been made, or its line is on its way, and neither has changed a byte or a register. -/
def Keeping (s : State) (e : Except State Loaded) : Prop := (∀ u, e = .error u → s.Keeps u) ∧ ∀ a, e = .ok a → s.Keeps a.st

theorem Keeping.ok {s : State} {a : Loaded} (h : s.Keeps a.st) : Keeping s (.ok a) :=
  ⟨fun _ h' => (nomatch h'), fun _ h' => by cases h'; exact h⟩

theorem Keeping.error {s u : State} (h : s.Keeps u) : Keeping s (.error u) := ⟨fun _ h' => by cases h'; exact h, fun _ h' => nomatch h'⟩

theorem homeLoad_keeping (s : State) (w : Who) (t : Target) (pa c : Nat) : Keeping s (homeLoad s w t pa c) := by
  unfold homeLoad
  cases e : accessGate s w (pa / 64) .gets with
  | error x => exact .error ((accessGate_keeps s w _ _).1 _ e)
  | ok x => exact .ok (((accessGate_keeps s w _ _).2 _ e).then (serveHomeLoad_keeps x w t pa c))

theorem missLoad_keeping (s : State) (w : Who) (t : Target) (pa c : Nat) : Keeping s (missLoad s w t pa c) := by
  unfold missLoad
  split
  · exact .error ((makeRoom_keeps s _ _).then (requestLine_keeps _ _ _ _ _ _))
  · exact homeLoad_keeping s w t pa c

theorem serveL2_keeps (s : State) (w : Who) (t : Target) (line c : Nat) (o : Copy) : s.Keeps (serveL2 s w t line c o).st := by
  refine State.Keeps.then ?_ (serveHit_keeps _ w t line c 2 _)
  split
  · exact passToL1_keeps s _ _ _
  · exact State.Keeps.refl s

theorem beyondL2_keeping (s : State) (w : Who) (t : Target) (pa c : Nat) : Keeping s (beyondL2 s w t pa c) := by
  unfold beyondL2
  split
  · exact .ok (serveHit_keeps s w t _ c 2 _)
  · exact missLoad_keeping s w t pa c

theorem l2Load_keeping (s : State) (w : Who) (t : Target) (pa c : Nat) : Keeping s (l2Load s w t pa c) := by
  unfold l2Load
  split
  · split
    · exact .ok (serveL2_keeps s w t _ c _)
    · exact beyondL2_keeping s w t pa c
  · exact beyondL2_keeping s w t pa c

theorem serveOwned_keeps (s : State) (w : Who) (t : Target) (line c : Nat) (o : Copy) : s.Keeps (serveOwned s w t line c o).st :=
  (State.Keeps.micro s _).then (noteSeen_keeps _ w t _)

theorem mainLoad_keeping (s : State) (w : Who) (t : Target) (pa c : Nat) : Keeping s (mainLoad s w t pa c) := by
  unfold mainLoad
  split
  · exact homeLoad_keeping s w t pa c
  · split
    · split
      · exact .ok (serveOwned_keeps s w t _ c _)
      · split
        · exact .ok (serveHit_keeps s w t _ c 1 _)
        · split
          · exact l2Load_keeping s w t pa c
          · exact missLoad_keeping s w t pa c
    · exact l2Load_keeping s w t pa c

/-- A load changes no byte and no register, whether it is made or its line is on its way. -/
theorem loadLine_keeping (s : State) (w : Who) (t : Target) : Keeping s (loadLine s w t) := by
  unfold loadLine
  simp only []
  split
  · exact .ok (State.Keeps.refl s)
  · split
    · exact mainLoad_keeping s w t _ _
    · exact .ok (serveWindow_keeps s t _)

theorem traceAccess_keeps (s : State) (va lv : Nat) : s.Keeps (traceAccess s va lv) := by
  have h : s.Keeps (s.setMe { s.me with served := 0 }) := State.Keeps.setCtx s s.cur _ rfl
  unfold traceAccess State.traceMe
  exact h.then (State.Keeps.traceAt _ _ _ _ _ _)

theorem loadedMe_keeps {s : State} {a : Loaded} (h : s.Keeps a.st) (va : Nat) : s.Keeps (loadedMe s a va) :=
  (h.then (State.Keeps.setClk _ _ _)).then (traceAccess_keeps _ _ _)
/-! ### Leaving the rotation -/

/-- The context of a thread that leaves the rotation, or goes on with the wait it is in. -/
def Context.left (x : Context) (w : Word) (p : Pend) (now : Nat) : Context :=
  if x.wait = w then { x with pend := p } else { x with wait := w, pend := p, waitSince := now }

theorem Context.left_regs (x : Context) (w : Word) (p : Pend) (now : Nat) : (x.left w p now).regs = x.regs := by
  unfold Context.left; split <;> rfl

theorem Context.left_acks (x : Context) (w : Word) (p : Pend) (now : Nat) : (x.left w p now).acksDue = x.acksDue := by
  unfold Context.left; split <;> rfl

theorem Context.left_wait (x : Context) (w : Word) (p : Pend) (now : Nat) : (x.left w p now).wait = w := by
  unfold Context.left
  split
  · assumption
  · rfl

theorem Context.left_pend (x : Context) (w : Word) (p : Pend) (now : Nat) : (x.left w p now).pend = p := by
  unfold Context.left; split <;> rfl

theorem leave_ctxOf (s : State) (kind obj : Nat) (p : Pend) (r : ThreadRef) :
    (leave s kind obj p).ctxOf r = if r = s.cur then s.me.left (waitWord kind obj) p s.cycle else s.ctxOf r := by
  unfold leave Context.left
  split
  · rw [State.ctxOf_setMe]
  · rw [State.traceMe, State.traceAt_ctxOf, State.ctxOf_setMe]

theorem State.Keeps.setMe (s : State) (x : Context) (e : x.regs = s.me.regs) : s.Keeps (s.setMe x) :=
  ⟨((State.Touches.refl s).setMe x).of_regs e, (State.Only.setMe s x).sameBytes⟩

theorem State.Keeps.traceMe (s : State) (e : Nat) (v : Word) : s.Keeps (s.traceMe e v) := by
  unfold State.traceMe
  exact State.Keeps.traceAt s _ _ _ _ _

theorem Context.pend_regs (x : Context) (p : Pend) : Context.regs { x with pend := p } = x.regs := rfl

theorem Context.wait_regs (x : Context) (w : Word) (p : Pend) (now : Nat) : Context.regs { x with wait := w, pend := p, waitSince := now } = x.regs := rfl

theorem Context.acks_regs (x : Context) (n : Nat) : Context.regs { x with acksDue := n } = x.regs := rfl

theorem leave_keeps (s : State) (kind obj : Nat) (p : Pend) : s.Keeps (leave s kind obj p) := by
  unfold leave
  split
  · exact State.Keeps.setMe s _ (Context.pend_regs s.me p)
  · exact (State.Keeps.setMe s _ (Context.wait_regs s.me (waitWord kind obj) p s.cycle)).then (State.Keeps.traceMe _ 8 _)

theorem leave_cur (s : State) (kind obj : Nat) (p : Pend) : (leave s kind obj p).cur = s.cur := (leave_keeps s kind obj p).touches.cur

theorem leave_touches (s : State) (kind obj : Nat) (p : Pend) : s.Touches (leave s kind obj p) s.me := (leave_keeps s kind obj p).touches

theorem leave_bytes (s : State) (kind obj : Nat) (p : Pend) : s.SameBytes (leave s kind obj p) := (leave_keeps s kind obj p).bytes

theorem leave_waits (s : State) (kind obj : Nat) (p : Pend) : s.Waits (leave s kind obj p) kind obj p := by
  have h := leave_ctxOf s kind obj p s.cur
  rw [if_pos rfl] at h
  exact ⟨by rw [h, Context.left_wait], by rw [h, Context.left_pend]⟩

theorem leave_acks (s : State) (kind obj : Nat) (p : Pend) : ((leave s kind obj p).ctxOf s.cur).acksDue = s.me.acksDue := by
  rw [leave_ctxOf, if_pos rfl, Context.left_acks]

theorem awaitReply_keeps (t : State) (obj : Nat) : t.Keeps (awaitReply t obj) := (leave_keeps t 1 obj .reply).then (State.Keeps.post _ _)

theorem awaitReply_touches (t : State) (obj : Nat) : t.Touches (awaitReply t obj) t.me := (awaitReply_keeps t obj).touches

theorem awaitReply_bytes (t : State) (obj : Nat) : t.SameBytes (awaitReply t obj) := (awaitReply_keeps t obj).bytes

theorem awaitReply_reply (t : State) (obj : Nat) : .memoryReply t.cur.core t.cur.ctx ∈ (awaitReply t obj).agenda :=
  List.mem_append_right _ (List.mem_singleton.mpr rfl)

/-- Asking memory from a state that differs from `s` in nothing but what an access may touch. -/
theorem asks_of {s t : State} {i : Instr} {x : Context} {obj : Nat} (he : exec i s = .next (awaitReply t obj)) (h : s.Touches t x) :
    Asks s i (awaitReply t obj) x obj where
  next := he
  touches := (h.trans (awaitReply_touches t obj)).of_regs h.meRegs
  waits := by
    have := leave_waits t 1 obj .reply
    exact ⟨h.cur ▸ this.wait, h.cur ▸ this.pend⟩
  reply _ := by
    rw [← h.cur]
    exact awaitReply_reply t obj

/-- An access whose line is not at hand leaves its thread waiting for it, to issue again. -/
theorem retries_of {s t : State} {i : Instr} {obj : Nat} (he : exec i s = .next (leave t 1 obj .reissue)) (h : s.Keeps t) :
    Retries s i 1 obj := by
  refine ⟨_, he, (h.then (leave_keeps t 1 obj .reissue)).touches, ?_, (h.then (leave_keeps t 1 obj .reissue)).bytes⟩
  have := leave_waits t 1 obj .reissue
  exact ⟨h.touches.cur ▸ this.wait, h.touches.cur ▸ this.pend⟩

/-- A load of the executing thread: it goes on with the line, or waits for it and has changed no byte and no register. -/
theorem withLine_cases (s : State) (t : Target) (obj : Nat) (f : LineData × Word → State → State) :
    (∃ u, s.Keeps u ∧ withLine s t obj f = leave u 1 obj .reissue) ∨
    (∃ a, loadLine s s.myWho t = .ok a ∧ s.Keeps (loadedMe s a obj) ∧ withLine s t obj f = f a.line (loadedMe s a obj)) := by
  unfold withLine
  cases h : loadLine s s.myWho t with
  | error u => exact .inl ⟨u, (loadLine_keeping s s.myWho t).1 u h, rfl⟩
  | ok a => exact .inr ⟨a, rfl, loadedMe_keeps ((loadLine_keeping s s.myWho t).2 a h) obj, rfl⟩

/-! ### Stores -/

theorem writeAt_touches (s : State) (l : Loc) (bs : ByteList) : s.Touches (s.writeAt l bs) s.me := by
  cases l <;> first | exact State.Touches.refl s | exact State.Touches.bytes s _ rfl

theorem writeSide_touches (s : State) (l : Loc) (v : Word) : s.Touches (s.writeSide l v) s.me := by
  cases l <;> first | exact State.Touches.refl s | exact State.Touches.bytes s _ rfl

theorem writeBoth_touches (s : State) (l : Loc) (bs : ByteList) (side : Option Word) : s.Touches (s.writeBoth l bs side) s.me := by
  cases side with
  | none => exact writeAt_touches s l bs
  | some v => exact (writeAt_touches s l bs).then (writeSide_touches _ l v)

/-- What a store writes depends on the bytes alone. -/
theorem writeBoth_bytes {s t : State} (h : s.SameBytes t) (l : Loc) (bs : ByteList) (side : Option Word) :
    (s.writeBoth l bs side).SameBytes (t.writeBoth l bs side) := by
  obtain ⟨h1, h2, h3, h4⟩ := h
  cases side <;> cases l <;> constructor <;> simp [State.writeBoth, State.writeAt, State.writeSide, h1, h2, h3, h4]

theorem storeHome_keeps (s : State) (w : Who) (t : Target) (pa c : Nat) (bs : ByteList) (side : Option Word) (rd : Bool) :
    (s.writeBoth t.loc bs side).Keeps (storeHome s w t pa c bs side rd).2.2 :=
  ((State.Keeps.micro (s.writeBoth t.loc bs side) _).then (watchReport_keeps _ w t.loc rd true)).then (noteSeen_keeps _ w t _)

theorem storeOwned_keeps (s : State) (w : Who) (t : Target) (line c : Nat) (o : Copy) (bs : ByteList) (side : Option Word) :
    (s.writeBoth t.loc bs side).Keeps (storeOwned s w t line c o bs side).2.2 :=
  (State.Keeps.micro (s.writeBoth t.loc bs side) _).then (noteSeen_keeps _ w t _)

/-- A store is made, and has written its bytes at its location and nothing else that a program names, or its line is on its way. -/
theorem storeLine_cases (s : State) (w : Who) (t : Target) (bs : ByteList) (side : Option Word) (h : Bool) :
    (∃ u, storeLine s w t bs side h = .error u ∧ s.Keeps u) ∨
    (∃ a, storeLine s w t bs side h = .ok a ∧ s.Touches a.2.2 s.me ∧ (s.writeBoth t.loc bs side).SameBytes a.2.2) := by
  have made {s' : State} {a : Stored} (h1 : s.Keeps s') (h2 : (s'.writeBoth t.loc bs side).Keeps a.2.2) :
      s.Touches a.2.2 s.me ∧ (s.writeBoth t.loc bs side).SameBytes a.2.2 :=
    ⟨(h1.touches.then (writeBoth_touches s' t.loc bs side)).then h2.touches, (writeBoth_bytes h1.bytes t.loc bs side).trans h2.bytes⟩
  unfold storeLine
  simp only []
  split
  · rename_i e
    exact .inr ⟨_, rfl, State.Touches.refl s, by rw [e]; cases side <;> exact State.SameBytes.refl s⟩
  · split
    · rename_i pa _
      split
      · cases g : accessGate s w (pa / 64) .getx with
        | error x => exact .inl ⟨x, rfl, (accessGate_keeps s w _ _).1 _ g⟩
        | ok x => exact .inr ⟨_, rfl, made ((accessGate_keeps s w _ _).2 _ g) (storeHome_keeps x w t pa _ bs side false)⟩
      · split
        · split
          · exact .inr ⟨_, rfl, made (State.Keeps.refl s) (storeOwned_keeps s w t _ _ _ bs side)⟩
          · exact .inl ⟨_, rfl, requestLine_keeps s w t _ _ true⟩
        · exact .inl ⟨_, rfl, (makeRoom_keeps s _ _).then (requestLine_keeps _ w t _ _ true)⟩
    · exact .inr ⟨_, rfl, made (State.Keeps.refl s) (State.Keeps.micro (s.writeBoth t.loc bs side) _)⟩

theorem sendRound_keeps (s : State) (line : Nat) (ps : List Party × Nat) : s.Keeps (sendRound s line ps) :=
  (State.Keeps.setMe s _ (Context.acks_regs s.me ps.2)).then (State.Keeps.post _ _)

theorem storedMe_keeps (t : Target) (a : Stored) (va lv : Nat) : a.2.2.Keeps (storedMe t a va lv) :=
  ((State.Keeps.setClk a.2.2 _ _).then (traceAccess_keeps _ _ _)).then (sendRound_keeps _ _ _)

/-- Storing from a state that differs from `s` in nothing but what an access may touch. -/
theorem asks_store {s t : State} {i : Instr} {x : Context} {obj : Nat} (he : exec i s = .next (awaitStore t obj)) (h : s.Touches t x) :
    Asks s i (awaitStore t obj) x obj := by
  unfold awaitStore at he ⊢
  split at he
  · rename_i h0
    rw [if_pos h0]
    exact asks_of he h
  · rename_i h0
    rw [if_neg h0]
    refine ⟨he, (h.trans (leave_touches t 1 obj .reply)).of_regs h.meRegs, ?_, ?_⟩
    · have := leave_waits t 1 obj .reply
      exact ⟨h.cur ▸ this.wait, h.cur ▸ this.pend⟩
    · intro e
      have := leave_acks t 1 obj .reply
      rw [h.cur, e] at this
      exact absurd this.symm h0

theorem awaitStore_keeps (t : State) (obj : Nat) : t.Keeps (awaitStore t obj) := by
  unfold awaitStore
  split
  · exact awaitReply_keeps t obj
  · exact leave_keeps t 1 obj .reply

/-- A store of the executing thread: made, it waits for its reply alone, its bytes written; or it waits for the line, having changed no byte. -/
theorem storeMe_cases (s : State) (t : Target) (bs : ByteList) (side : Option Word) (h : Bool) (obj : Nat) :
    (∃ u, s.Keeps u ∧ storeMe s t bs side h obj = leave u 1 obj .reissue) ∨
    (∃ a lv, storeLine s s.myWho t bs side h = .ok a ∧ s.Touches (storedMe t a obj lv) s.me ∧
      (s.writeBoth t.loc bs side).SameBytes (storedMe t a obj lv) ∧ storeMe s t bs side h obj = awaitStore (storedMe t a obj lv) obj) := by
  unfold storeMe
  obtain ⟨u, e, k⟩ | ⟨a, e, k, b⟩ := storeLine_cases s s.myWho t bs side h
  · exact .inl ⟨u, k, by rw [e]⟩
  · exact .inr ⟨a, _, e, k.then (storedMe_keeps t a _ _).touches, b.trans (storedMe_keeps t a _ _).bytes, by rw [e]⟩

end Sys2Proof.Machine
end

