-- ==== Sys2Proof/Laws/Bytes.lean ====
section
/-! SUPPORT. Lists of bytes: the numbers they stand for, and reading back what has been written. -/

namespace Sys2Proof.Machine

theorem bytesToNat_append (a b : ByteList) : bytesToNat (a ++ b) = bytesToNat a + 256 ^ a.length * bytesToNat b := by
  induction a with
  | nil => simp [bytesToNat]
  | cons x t ih => simp only [List.cons_append, bytesToNat, ih, List.length_cons, Nat.pow_succ]; ring

theorem bytesToNat_lt (a : ByteList) : bytesToNat a < 256 ^ a.length := by
  induction a with
  | nil => simp [bytesToNat]
  | cons x t ih => simp only [bytesToNat, List.length_cons, Nat.pow_succ]; have := x.isLt; omega

/-- The `n` bytes at offset `o` of a list. -/
theorem bytesToNat_slice (l : ByteList) (o n : Nat) (h : o + n ≤ l.length) :
    (bytesToNat l / 256 ^ o) % 256 ^ n = bytesToNat ((l.drop o).take n) := by
  have e : l = l.take o ++ ((l.drop o).take n ++ (l.drop o).drop n) := by rw [List.take_append_drop, List.take_append_drop]
  have h1 : (l.take o).length = o := by simp; omega
  have h2 : ((l.drop o).take n).length = n := by simp; omega
  conv => lhs; rw [e]
  rw [bytesToNat_append, bytesToNat_append, h1, h2]
  have l1 := bytesToNat_lt (l.take o); rw [h1] at l1
  have l2 := bytesToNat_lt ((l.drop o).take n); rw [h2] at l2
  rw [Nat.add_mul_div_left _ _ (by positivity), Nat.div_eq_of_lt l1, Nat.zero_add, Nat.add_mul_mod_self_left, Nat.mod_eq_of_lt l2]

theorem Memory.readBytes_length (m : Memory) (n a : Nat) : (m.readBytes a n).length = n := by
  induction n generalizing a with
  | zero => rfl
  | succ k ih => simp [Memory.readBytes, ih]

theorem Memory.readBytes_slice (m : Memory) (o a N n : Nat) (h : o + n ≤ N) : ((m.readBytes a N).drop o).take n = m.readBytes (a + o) n := by
  induction o generalizing a N n with
  | zero =>
    simp only [List.drop_zero, Nat.add_zero]
    induction n generalizing a N with
    | zero => simp [Memory.readBytes]
    | succ k ih =>
      obtain ⟨M, rfl⟩ : ∃ M, N = M + 1 := ⟨N - 1, by omega⟩
      simp only [Memory.readBytes, List.take_succ_cons]
      rw [ih (a + 1) M (by omega)]
  | succ k ih =>
    obtain ⟨M, rfl⟩ : ∃ M, N = M + 1 := ⟨N - 1, by omega⟩
    simp only [Memory.readBytes, List.drop_succ_cons]
    rw [ih (a + 1) M n (by omega)]
    congr 1; omega

/-- What has been written reads back. -/
theorem Memory.readBytes_writeBytes (bs : ByteList) (m : Memory) (a : Nat) : (m.writeBytes a bs).readBytes a bs.length = bs := by
  induction bs generalizing m a with
  | nil => rfl
  | cons b t ih =>
    simp only [Memory.writeBytes, List.length_cons, Memory.readBytes, ih]
    rw [Memory.read_writeBytes t _ _ _ (Or.inl (Nat.lt_succ_self a)), Memory.read_write, if_pos rfl]

/-- Part of what has been written reads back. -/
theorem Memory.readBytes_part (bs : ByteList) (m : Memory) (a o n : Nat) (h : o + n ≤ bs.length) :
    (m.writeBytes a bs).readBytes (a + o) n = (bs.drop o).take n := by
  have e := Memory.readBytes_slice (m.writeBytes a bs) o a bs.length n h
  rw [Memory.readBytes_writeBytes] at e
  exact e.symm

theorem freeBytes_length (f : Nat → Byte) (m : SMap Byte) (n a : Nat) : (freeBytes f m a n).length = n := by
  induction n generalizing a with
  | zero => rfl
  | succ k ih => simp [freeBytes, ih]

theorem SMap.get_putBytes (d : Byte) (bs : ByteList) (m : SMap Byte) (a x : Nat) (h : x < a) : SMap.get d (putBytes m a bs) x = SMap.get d m x := by
  induction bs generalizing m a with
  | nil => rfl
  | cons b t ih => rw [putBytes, ih _ _ (Nat.lt_succ_of_lt h), SMap.get_put, if_neg (Nat.ne_of_lt h)]

/-- What has been written outside the package reads back. -/
theorem freeBytes_putBytes (f : Nat → Byte) (bs : ByteList) (m : SMap Byte) (a : Nat) : freeBytes f (putBytes m a bs) a bs.length = bs := by
  induction bs generalizing m a with
  | nil => rfl
  | cons b t ih =>
    simp only [putBytes, List.length_cons, freeBytes, ih]
    rw [SMap.get_putBytes _ _ _ _ _ (Nat.lt_succ_self a), SMap.get_put, if_pos rfl]

/-- The bytes of a number read off a list are the list's. -/
theorem leBytes_bytesToNat (l : ByteList) : leBytes l.length (bytesToNat l) = l.map (·.toNat) := by
  induction l with
  | nil => rfl
  | cons b t ih =>
    have := b.isLt
    simp only [List.length_cons, leBytes, bytesToNat, List.map_cons]
    rw [show (b.toNat + 256 * bytesToNat t) / 256 = bytesToNat t by omega, ih, show (b.toNat + 256 * bytesToNat t) % 256 = b.toNat by omega]

end Sys2Proof.Machine
end

