-- ==== Sys2Proof/Laws/Clocks.lean ====
section
/-! SUPPORT. A clock of 48 bits, compared as R302 compares it, orders as the natural number of which it is the low bits. -/

namespace Sys2Proof.Machine

/-- Two clocks less than 2^47 apart: the unsigned difference of their low 48 bits tells which is at or below the other. -/
theorem clock_window (a b : Nat) (h : a < b + 2 ^ 47) (h' : b < a + 2 ^ 47) :
    (BitVec.ofNat 48 b - BitVec.ofNat 48 a).toNat < 2 ^ 47 ↔ a ≤ b := by
  simp only [BitVec.toNat_sub, BitVec.toNat_ofNat]
  omega

end Sys2Proof.Machine
end

