-- ==== Sys2Proof/Laws/Crypto.lean ====
section
/-! SUPPORT. The cipher and the digest: blocks stay blocks of bytes, the inverse cipher reaches every block, and under every key
some block unwraps. -/

namespace Sys2Proof.Laws

open Sys2Proof Sys2Proof.Machine

/-- A list of `n` bytes. -/
def IsBytes (n : Nat) (l : List Nat) : Prop := l.length = n ∧ ∀ b ∈ l, b < 256

theorem xor_byte {a b : Nat} (ha : a < 256) (hb : b < 256) : a ^^^ b < 256 := Nat.xor_lt_two_pow (n := 8) ha hb

theorem xorList_bytes {n : Nat} {a b : List Nat} (ha : IsBytes n a) (hb : IsBytes n b) : IsBytes n (xorList a b) := by
  refine ⟨by simp [xorList, ha.1, hb.1], fun x hx => ?_⟩
  rw [xorList, List.mem_iff_getElem] at hx
  obtain ⟨i, hi, rfl⟩ := hx
  rw [List.getElem_zipWith]
  exact xor_byte (ha.2 _ (List.getElem_mem _)) (hb.2 _ (List.getElem_mem _))

theorem xorList_self {n : Nat} {a k : List Nat} (ha : a.length = n) (hk : k.length = n) : xorList (xorList a k) k = a := by
  apply List.ext_getElem
  · simp [xorList, ha, hk]
  · intro i h1 h2
    simp [xorList]

/-! ### The field -/

theorem gfMulN_xor (n a x y : Nat) : gfMulN n a (x ^^^ y) = gfMulN n a x ^^^ gfMulN n a y := by
  induction n generalizing a x y with
  | zero => simp [gfMulN]
  | succ n ih =>
    have h2 : (x ^^^ y) / 2 = x / 2 ^^^ y / 2 := by simpa using Nat.xor_div_two_pow (a := x) (b := y) (n := 1)
    have h1 : (x ^^^ y) % 2 = (x % 2 + y % 2) % 2 := by simp [Nat.xor_mod_two_eq]
    rcases Nat.mod_two_eq_zero_or_one x with hx | hx <;> rcases Nat.mod_two_eq_zero_or_one y with hy | hy <;>
      simp only [gfMulN, h1, h2, hx, hy, ih] <;> (simp [← Nat.xor_assoc]; try ac_rfl)

theorem gfMul_xor (a x y : Nat) : gfMul a (x ^^^ y) = gfMul a x ^^^ gfMul a y := gfMulN_xor 8 a x y

theorem linear_zero {f : Nat → Nat} (n : Nat) (h : ∀ x y, f (x ^^^ y) = f x ^^^ f y) (hb : ∀ i < n, f (2 ^ i) = 0) :
    ∀ a < 2 ^ n, f a = 0 := by
  have h0 : f 0 = 0 := by have := h 0 0; simpa using this
  induction n generalizing f with
  | zero =>
    intro a ha
    have e : a = 0 := by simpa using ha
    rw [e]; exact h0
  | succ n ih =>
    intro a ha
    have key := ih (f := fun x => f (2 * x)) (fun x y => by
        show f (2 * (x ^^^ y)) = _
        rw [← h]; congr 1
        have := Nat.shiftLeft_xor_distrib (a := x) (b := y) (i := 1)
        simpa [Nat.shiftLeft_eq, Nat.mul_comm] using this) (fun i hi => by
        show f (2 * 2 ^ i) = 0
        rw [Nat.mul_comm, ← Nat.pow_succ]; exact hb _ (by omega)) (by simpa using h0) (a / 2) (by omega)
    have e : a = (a % 2) ^^^ (2 * (a / 2)) := by
      apply Nat.eq_of_testBit_eq
      intro i
      cases i with
      | zero => simp [Nat.testBit_zero, Nat.xor_mod_two_eq]
      | succ i => simp [Nat.testBit_succ, Nat.xor_div_two]
    rw [e, h]
    have key : f (2 * (a / 2)) = 0 := key
    rw [key]
    rcases Nat.mod_two_eq_zero_or_one a with hx | hx
    · rw [hx, h0]; rfl
    · rw [hx]; simpa using hb 0 (by omega)

/-! ### The rounds and their inverses -/

theorem gfDouble_byte : ∀ a < 256, gfDouble a < 256 := by decide +kernel

theorem sbox_inv : ∀ a < 256, sboxN a < 256 ∧ invSboxN (sboxN a) = a := by decide +kernel

theorem map_sbox {n : Nat} {l : List Nat} (h : IsBytes n l) : IsBytes n (l.map sboxN) ∧ (l.map sboxN).map invSboxN = l := by
  refine ⟨⟨by simp [h.1], fun x hx => ?_⟩, ?_⟩
  · obtain ⟨a, ha, rfl⟩ := List.mem_map.1 hx
    exact (sbox_inv a (h.2 a ha)).1
  · rw [List.map_map]
    conv => rhs; rw [← List.map_id l]
    exact List.map_congr_left (fun a ha => (sbox_inv a (h.2 a ha)).2)

theorem gfMul_byte {k : Nat} (hk : k < 256) (b : Nat) : gfMul k b < 256 := by
  suffices ∀ n a b, a < 256 → gfMulN n a b < 256 from this 8 k b hk
  intro n
  induction n with
  | zero => intro a b _; exact Nat.zero_lt_succ _
  | succ n ih =>
    intro a b ha
    refine xor_byte ?_ (ih _ _ (gfDouble_byte a ha))
    split
    · exact ha
    · exact Nat.zero_lt_succ _

theorem uncons {α : Type} {l : List α} {n : Nat} (h : l.length = n + 1) : ∃ a t, l = a :: t ∧ t.length = n := by
  cases l with
  | nil => cases h
  | cons a t => exact ⟨a, t, rfl, Nat.succ.inj h⟩

/-- A list of sixteen, written out. -/
theorem sixteen {l : List Nat} (h : l.length = 16) : ∃ a0 a1 a2 a3 a4 a5 a6 a7 a8 a9 a10 a11 a12 a13 a14 a15,
    l = [a0, a1, a2, a3, a4, a5, a6, a7, a8, a9, a10, a11, a12, a13, a14, a15] := by
  obtain ⟨a0, l0, rfl, h0⟩ := uncons h
  obtain ⟨a1, l1, rfl, h1⟩ := uncons h0
  obtain ⟨a2, l2, rfl, h2⟩ := uncons h1
  obtain ⟨a3, l3, rfl, h3⟩ := uncons h2
  obtain ⟨a4, l4, rfl, h4⟩ := uncons h3
  obtain ⟨a5, l5, rfl, h5⟩ := uncons h4
  obtain ⟨a6, l6, rfl, h6⟩ := uncons h5
  obtain ⟨a7, l7, rfl, h7⟩ := uncons h6
  obtain ⟨a8, l8, rfl, h8⟩ := uncons h7
  obtain ⟨a9, l9, rfl, h9⟩ := uncons h8
  obtain ⟨a10, l10, rfl, h10⟩ := uncons h9
  obtain ⟨a11, l11, rfl, h11⟩ := uncons h10
  obtain ⟨a12, l12, rfl, h12⟩ := uncons h11
  obtain ⟨a13, l13, rfl, h13⟩ := uncons h12
  obtain ⟨a14, l14, rfl, h14⟩ := uncons h13
  obtain ⟨a15, l15, rfl, h15⟩ := uncons h14
  obtain rfl := List.length_eq_zero_iff.1 h15
  exact ⟨_, _, _, _, _, _, _, _, _, _, _, _, _, _, _, _, rfl⟩

theorem shiftRows_inv {l : List Nat} (h : IsBytes 16 l) : IsBytes 16 (shiftRows l) ∧ invShiftRows (shiftRows l) = l := by
  obtain ⟨hl, hb⟩ := h
  obtain ⟨a0, a1, a2, a3, a4, a5, a6, a7, a8, a9, a10, a11, a12, a13, a14, a15, rfl⟩ := sixteen hl
  have e : shiftRows [a0, a1, a2, a3, a4, a5, a6, a7, a8, a9, a10, a11, a12, a13, a14, a15] =
    [a0, a5, a10, a15, a4, a9, a14, a3, a8, a13, a2, a7, a12, a1, a6, a11] := by simp [shiftRows, List.range, List.range.loop]
  rw [e]
  refine ⟨⟨rfl, ?_⟩, by simp [invShiftRows, List.range, List.range.loop]⟩
  simp only [List.mem_cons, List.not_mem_nil, or_false, forall_eq_or_imp, forall_eq] at hb ⊢
  obtain ⟨h0, h1, h2, h3, h4, h5, h6, h7, h8, h9, h10, h11, h12, h13, h14, h15⟩ := hb
  exact ⟨h0, h5, h10, h15, h4, h9, h14, h3, h8, h13, h2, h7, h12, h1, h6, h11⟩

/-- The products of the two column matrices: one on the diagonal, zero off it. -/
theorem mix_products : ∀ a < 256,
    gfMul 14 (gfMul 2 a) ^^^ gfMul 11 (gfMul 1 a) ^^^ gfMul 13 (gfMul 1 a) ^^^ gfMul 9 (gfMul 3 a) = a ∧
    gfMul 14 (gfMul 3 a) ^^^ gfMul 11 (gfMul 2 a) ^^^ gfMul 13 (gfMul 1 a) ^^^ gfMul 9 (gfMul 1 a) = 0 ∧
    gfMul 14 (gfMul 1 a) ^^^ gfMul 11 (gfMul 3 a) ^^^ gfMul 13 (gfMul 2 a) ^^^ gfMul 9 (gfMul 1 a) = 0 ∧
    gfMul 14 (gfMul 1 a) ^^^ gfMul 11 (gfMul 1 a) ^^^ gfMul 13 (gfMul 3 a) ^^^ gfMul 9 (gfMul 2 a) = 0 := by
  intro a ha
  let F (p q r s a : Nat) : Nat := gfMul 14 (gfMul p a) ^^^ gfMul 11 (gfMul q a) ^^^ gfMul 13 (gfMul r a) ^^^ gfMul 9 (gfMul s a)
  have lin (p q r s x y : Nat) : F p q r s (x ^^^ y) = F p q r s x ^^^ F p q r s y := by
    simp only [F, gfMul_xor]; ac_rfl
  refine ⟨?_, linear_zero 8 (lin 3 2 1 1) (by decide +kernel) a ha, linear_zero 8 (lin 1 3 2 1) (by decide +kernel) a ha,
    linear_zero 8 (lin 1 1 3 2) (by decide +kernel) a ha⟩
  have := linear_zero 8 (f := fun a => F 2 1 1 3 a ^^^ a) (fun x y => by simp only [lin]; ac_rfl) (by decide +kernel) a ha
  exact Nat.xor_eq_zero_iff.1 this

theorem mix_column {a b c d : Nat} (ha : a < 256) (hb : b < 256) (hc : c < 256) (hd : d < 256) :
    let w := gfMul 2 a ^^^ gfMul 3 b ^^^ gfMul 1 c ^^^ gfMul 1 d
    let x := gfMul 1 a ^^^ gfMul 2 b ^^^ gfMul 3 c ^^^ gfMul 1 d
    let y := gfMul 1 a ^^^ gfMul 1 b ^^^ gfMul 2 c ^^^ gfMul 3 d
    let z := gfMul 3 a ^^^ gfMul 1 b ^^^ gfMul 1 c ^^^ gfMul 2 d
    gfMul 14 w ^^^ gfMul 11 x ^^^ gfMul 13 y ^^^ gfMul 9 z = a := by
  obtain ⟨pa, -, -, -⟩ := mix_products a ha
  obtain ⟨-, pb, -, -⟩ := mix_products b hb
  obtain ⟨-, -, pc, -⟩ := mix_products c hc
  obtain ⟨-, -, -, pd⟩ := mix_products d hd
  have r : ∀ {p q r s : Nat}, p = a → q = 0 → r = 0 → s = 0 → p ^^^ q ^^^ r ^^^ s = a := by
    rintro p q r s rfl rfl rfl rfl; simp
  refine Eq.trans ?_ (r pa pb pc pd)
  simp only [gfMul_xor]
  ac_rfl

/-- The four rows of a column. -/
theorem mix_rows {a b c d : Nat} (ha : a < 256) (hb : b < 256) (hc : c < 256) (hd : d < 256) :
    let w := gfMul 2 a ^^^ gfMul 3 b ^^^ gfMul 1 c ^^^ gfMul 1 d
    let x := gfMul 1 a ^^^ gfMul 2 b ^^^ gfMul 3 c ^^^ gfMul 1 d
    let y := gfMul 1 a ^^^ gfMul 1 b ^^^ gfMul 2 c ^^^ gfMul 3 d
    let z := gfMul 3 a ^^^ gfMul 1 b ^^^ gfMul 1 c ^^^ gfMul 2 d
    gfMul 14 w ^^^ gfMul 11 x ^^^ gfMul 13 y ^^^ gfMul 9 z = a ∧ gfMul 9 w ^^^ gfMul 14 x ^^^ gfMul 11 y ^^^ gfMul 13 z = b ∧
    gfMul 13 w ^^^ gfMul 9 x ^^^ gfMul 14 y ^^^ gfMul 11 z = c ∧ gfMul 11 w ^^^ gfMul 13 x ^^^ gfMul 9 y ^^^ gfMul 14 z = d := by
  refine ⟨mix_column ha hb hc hd, Eq.trans ?_ (mix_column hb hc hd ha), Eq.trans ?_ (mix_column hc hd ha hb), Eq.trans ?_ (mix_column hd ha hb hc)⟩
  all_goals simp only [gfMul_xor]; ac_rfl

theorem mixColumns_inv {l : List Nat} (h : IsBytes 16 l) : IsBytes 16 (mixColumns l) ∧ invMixColumns (mixColumns l) = l := by
  obtain ⟨hl, hb⟩ := h
  refine ⟨⟨rfl, fun x hx => ?_⟩, ?_⟩
  · obtain ⟨i, hi, rfl⟩ := List.mem_map.1 hx
    have m (j : Nat) : ([2, 3, 1, 1] : List Nat).getD j 0 < 256 := by
      match j with
      | 0 | 1 | 2 | 3 => decide
      | j + 4 => exact Nat.zero_lt_succ _
    exact xor_byte (xor_byte (xor_byte (xor_byte (Nat.zero_lt_succ _) (gfMul_byte (m _) _)) (gfMul_byte (m _) _)) (gfMul_byte (m _) _)) (gfMul_byte (m _) _)
  · obtain ⟨a0, a1, a2, a3, a4, a5, a6, a7, a8, a9, a10, a11, a12, a13, a14, a15, rfl⟩ := sixteen hl
    simp only [List.mem_cons, List.not_mem_nil, or_false, forall_eq_or_imp, forall_eq] at hb
    obtain ⟨h0, h1, h2, h3, h4, h5, h6, h7, h8, h9, h10, h11, h12, h13, h14, h15⟩ := hb
    simp only [mixColumns, invMixColumns, mixWith, List.range, List.range.loop, List.map, List.foldl, List.getD_cons_zero, List.getD_cons_succ,
      Nat.reduceDiv, Nat.reduceMul, Nat.reduceAdd, Nat.reduceSub, Nat.reduceMod, Nat.zero_xor]
    have r0 := mix_rows h0 h1 h2 h3
    have r1 := mix_rows h4 h5 h6 h7
    have r2 := mix_rows h8 h9 h10 h11
    have r3 := mix_rows h12 h13 h14 h15
    rw [r0.1, r0.2.1, r0.2.2.1, r0.2.2.2, r1.1, r1.2.1, r1.2.2.1, r1.2.2.2, r2.1, r2.2.1, r2.2.2.1, r2.2.2.2, r3.1, r3.2.1, r3.2.2.1, r3.2.2.2]

/-! ### Keys, blocks, tags -/

theorem sbox_byte {a : Nat} (h : a < 256) : sboxN a < 256 := (sbox_inv a h).1

theorem aesExpand_bytes (n i rcon : Nat) (ws : List (List Nat)) (hr : rcon < 256) (hl : 8 ≤ ws.length) (h : ∀ w ∈ ws, IsBytes 4 w) :
    (aesExpand n i rcon ws).length = ws.length + n ∧ ∀ w ∈ aesExpand n i rcon ws, IsBytes 4 w := by
  induction n generalizing i rcon ws with
  | zero => exact ⟨rfl, h⟩
  | succ n ih =>
    have h8 : IsBytes 4 (ws.getD 7 []) := by
      rw [List.getD_eq_getElem _ _ (by omega)]; exact h _ (List.getElem_mem _)
    have h0 : IsBytes 4 (ws.headD []) := by
      cases ws with
      | nil => cases hl
      | cons w t => exact h w (List.mem_cons_self ..)
    have step {rc : Nat} {w : List Nat} (hrc : rc < 256) (hw : IsBytes 4 w) :
        (aesExpand n (i + 1) rc (xorList (ws.getD 7 []) w :: ws)).length = ws.length + (n + 1) ∧
        ∀ x ∈ aesExpand n (i + 1) rc (xorList (ws.getD 7 []) w :: ws), IsBytes 4 x := by
      have := ih (i + 1) rc (xorList (ws.getD 7 []) w :: ws) hrc (by simp; omega) (fun x hx => by
        rcases List.mem_cons.1 hx with rfl | hx
        · exact xorList_bytes h8 hw
        · exact h x hx)
      refine ⟨?_, this.2⟩
      rw [this.1, List.length_cons]; omega
    simp only [aesExpand]
    split
    · refine step (gfDouble_byte _ hr) (xorList_bytes (map_sbox ⟨?_, ?_⟩).1 ⟨rfl, ?_⟩)
      · rw [List.length_append, List.length_tail, List.length_take, h0.1]; rfl
      · intro b hb
        rcases List.mem_append.1 hb with hb | hb
        · exact h0.2 b (List.mem_of_mem_tail hb)
        · exact h0.2 b (List.mem_of_mem_take hb)
      · simp [hr]
    · split
      · exact step hr (map_sbox h0).1
      · exact step hr h0

theorem flatten_bytes {m n : Nat} : ∀ {l : List (List Nat)}, l.length = n → (∀ w ∈ l, IsBytes m w) → IsBytes (m * n) l.flatten := by
  induction n with
  | zero => intro l h _; rw [List.length_eq_zero_iff.1 h]; exact ⟨rfl, by simp⟩
  | succ n ih =>
    intro l hl h
    cases l with
    | nil => cases hl
    | cons w t =>
      have hw := h w (List.mem_cons_self ..)
      have ht := ih (Nat.succ.inj hl) (fun x hx => h x (List.mem_cons_of_mem _ hx))
      refine ⟨by simp only [List.flatten_cons, List.length_append, hw.1, ht.1, Nat.mul_succ]; omega, fun b hb => ?_⟩
      rcases List.mem_append.1 (List.flatten_cons ▸ hb) with hb | hb
      · exact hw.2 b hb
      · exact ht.2 b hb

theorem quads_bytes {key : List Nat} (n : Nat) (h : IsBytes (4 * n) key) : (quads n key).length = n ∧ ∀ w ∈ quads n key, IsBytes 4 w := by
  induction n generalizing key with
  | zero => exact ⟨rfl, by simp [quads]⟩
  | succ n ih =>
    have := ih (key := key.drop 4) ⟨by rw [List.length_drop, h.1]; omega, fun b hb => h.2 b (List.mem_of_mem_drop hb)⟩
    refine ⟨by simp [quads, this.1], fun w hw => ?_⟩
    rcases List.mem_cons.1 hw with rfl | hw
    · exact ⟨by rw [List.length_take, h.1]; omega, fun b hb => h.2 b (List.mem_of_mem_take hb)⟩
    · exact this.2 w hw

theorem aesKeys_bytes {key : List Nat} (h : IsBytes 32 key) : (aesKeys key).length = 15 ∧ ∀ k ∈ aesKeys key, IsBytes 16 k := by
  refine ⟨by simp [aesKeys], fun k hk => ?_⟩
  have q := quads_bytes 8 h
  have e := aesExpand_bytes 52 8 1 (quads 8 key).reverse (by decide) (by simp [q.1]) (fun w hw => q.2 w (List.mem_reverse.1 hw))
  obtain ⟨r, hr, rfl⟩ := List.mem_map.1 hk
  have hr : r < 15 := List.mem_range.1 hr
  refine flatten_bytes (m := 4) (n := 4) ?_ (fun w hw => e.2 w (List.mem_reverse.1 (List.mem_of_mem_drop (List.mem_of_mem_take hw))))
  rw [List.length_take, List.length_drop, List.length_reverse, e.1, List.length_reverse, q.1]; omega

/-- The sixteen round keys of a key, as `aesEnc` and `aesDec` take them. -/
theorem aesKeys_cons {key : List Nat} (h : IsBytes 32 key) : ∃ k0 ks, aesKeys key = k0 :: ks ∧ IsBytes 16 k0 ∧ ks.length = 14 ∧ ∀ k ∈ ks, IsBytes 16 k := by
  have a := aesKeys_bytes h
  obtain ⟨k0, ks, e⟩ := List.exists_cons_of_length_eq_add_one a.1
  rw [e] at a
  exact ⟨k0, ks, e, a.2 k0 (List.mem_cons_self ..), Nat.succ.inj a.1, fun k hk => a.2 k (List.mem_cons_of_mem _ hk)⟩

theorem foldl_bytes {f : List Nat → List Nat → List Nat} (hf : ∀ s k, IsBytes 16 s → IsBytes 16 k → IsBytes 16 (f s k)) (ks : List (List Nat))
    (hk : ∀ k ∈ ks, IsBytes 16 k) {s : List Nat} (hs : IsBytes 16 s) : IsBytes 16 (ks.foldl f s) := by
  induction ks generalizing s with
  | nil => exact hs
  | cons k t ih => exact ih (fun x hx => hk x (List.mem_cons_of_mem _ hx)) (hf s k hs (hk k (List.mem_cons_self ..)))

/-- A block encrypts to a block. -/
theorem aesEnc_bytes {key blk : List Nat} (h : IsBytes 32 key) (hb : IsBytes 16 blk) : IsBytes 16 (aesEnc key blk) := by
  obtain ⟨k0, ks, e, h0, hl, hk⟩ := aesKeys_cons h
  simp only [aesEnc, e]
  have l : IsBytes 16 (ks.getD 13 []) := by rw [List.getD_eq_getElem _ _ (by omega)]; exact hk _ (List.getElem_mem _)
  have f : IsBytes 16 ((ks.take 13).foldl (fun s k => xorList (mixColumns (shiftRows (s.map sboxN))) k) (xorList blk k0)) :=
    foldl_bytes (fun s k hs hk => xorList_bytes (mixColumns_inv (shiftRows_inv (map_sbox hs).1).1).1 hk) _
      (fun k h => hk k (List.mem_of_mem_take h)) (xorList_bytes hb h0)
  exact xorList_bytes (shiftRows_inv (map_sbox f).1).1 l

theorem xorList_onto {n : Nat} {k t : List Nat} (hk : IsBytes n k) (ht : IsBytes n t) : ∃ s, IsBytes n s ∧ xorList s k = t :=
  ⟨xorList t k, xorList_bytes ht hk, xorList_self ht.1 hk.1⟩

theorem foldl_onto {f : List Nat → List Nat → List Nat} (hf : ∀ k t, IsBytes 16 k → IsBytes 16 t → ∃ s, IsBytes 16 s ∧ f s k = t) (ks : List (List Nat))
    (hk : ∀ k ∈ ks, IsBytes 16 k) {t : List Nat} (ht : IsBytes 16 t) : ∃ s, IsBytes 16 s ∧ ks.foldl f s = t := by
  induction ks with
  | nil => exact ⟨t, ht, rfl⟩
  | cons k l ih =>
    obtain ⟨u, hu, e⟩ := ih (fun x hx => hk x (List.mem_cons_of_mem _ hx))
    obtain ⟨s, hs, e'⟩ := hf k u (hk k (List.mem_cons_self ..)) hu
    exact ⟨s, hs, by rw [List.foldl_cons, e', e]⟩

/-- Every block is the decryption of some block. -/
theorem aesDec_onto {key t : List Nat} (h : IsBytes 32 key) (ht : IsBytes 16 t) : ∃ s, IsBytes 16 s ∧ aesDec key s = t := by
  have a := aesKeys_bytes h
  obtain ⟨k0, ks, e⟩ := List.exists_cons_of_length_eq_add_one (l := (aesKeys key).reverse) (n := 14) (by rw [List.length_reverse, a.1])
  have hk : ∀ k ∈ k0 :: ks, IsBytes 16 k := fun k hk => a.2 k (List.mem_reverse.1 (e ▸ hk))
  have hl : ks.length = 14 := by have := congrArg List.length e; simpa [a.1] using this.symm
  have l : IsBytes 16 (ks.getD 13 []) := by
    rw [List.getD_eq_getElem _ _ (by omega)]; exact hk _ (List.mem_cons_of_mem _ (List.getElem_mem _))
  have inv (t : List Nat) (ht : IsBytes 16 t) : ∃ s, IsBytes 16 s ∧ (invShiftRows s).map invSboxN = t :=
    ⟨shiftRows (t.map sboxN), (shiftRows_inv (map_sbox ht).1).1, by rw [(shiftRows_inv (map_sbox ht).1).2, (map_sbox ht).2]⟩
  obtain ⟨u, hu, eu⟩ := xorList_onto l ht
  obtain ⟨v, hv, ev⟩ := inv u hu
  obtain ⟨w, hw, ew⟩ := foldl_onto (f := fun s k => invMixColumns (xorList ((invShiftRows s).map invSboxN) k)) (fun k t hk ht => by
    obtain ⟨p, hp, ep⟩ := xorList_onto hk (mixColumns_inv ht).1
    obtain ⟨q, hq, eq⟩ := inv p hp
    exact ⟨q, hq, by show invMixColumns (xorList ((invShiftRows q).map invSboxN) k) = t; rw [eq, ep, (mixColumns_inv ht).2]⟩) (ks.take 13)
    (fun k h => hk k (List.mem_cons_of_mem _ (List.mem_of_mem_take h))) hv
  obtain ⟨s, hs, es⟩ := xorList_onto (hk k0 (List.mem_cons_self ..)) hw
  refine ⟨s, hs, ?_⟩
  simp only [aesDec, e]
  rw [es, ew, ev, eu]

theorem beBytes_bytes (n x : Nat) : IsBytes n (beBytes n x) := by
  induction n with
  | zero => exact ⟨rfl, by simp [beBytes]⟩
  | succ n ih =>
    refine ⟨by simp [beBytes, ih.1], fun b hb => ?_⟩
    rcases List.mem_cons.1 hb with rfl | hb
    · exact Nat.mod_lt _ (by decide)
    · exact ih.2 b hb

theorem cmac_bytes {key m : List Nat} (h : IsBytes 32 key) (hm : ∀ b ∈ m, b < 256) : IsBytes 16 (cmac key m) := by
  have z : IsBytes 16 (List.replicate 16 0) := ⟨rfl, by decide⟩
  have d {l : List Nat} : IsBytes 16 (cmacDouble l) := beBytes_bytes 16 _
  suffices ∀ n m x, (∀ b ∈ m, b < 256) → m.length < 16 * n + 16 → IsBytes 16 x → IsBytes 16 (cmacN (n + 1) key m x) from
    this _ m _ hm (by omega) z
  intro n
  induction n with
  | zero =>
    intro m x hm hl hx
    simp only [cmacN]
    rw [if_pos (by omega)]
    refine aesEnc_bytes h (xorList_bytes hx ?_)
    split
    · rename_i e; exact xorList_bytes ⟨e, hm⟩ d
    · refine xorList_bytes ⟨by simp; omega, fun b hb => ?_⟩ d
      rcases List.mem_append.1 hb with hb | hb
      · exact hm b hb
      · rcases List.mem_cons.1 hb with rfl | hb
        · decide
        · rw [List.eq_of_mem_replicate hb]; decide
  | succ n ih =>
    intro m x hm hl hx
    rw [cmacN]
    split
    · rename_i h16
      refine aesEnc_bytes h (xorList_bytes hx ?_)
      split
      · rename_i e; exact xorList_bytes ⟨e, hm⟩ d
      · refine xorList_bytes ⟨by simp; omega, fun b hb => ?_⟩ d
        rcases List.mem_append.1 hb with hb | hb
        · exact hm b hb
        · rcases List.mem_cons.1 hb with rfl | hb
          · decide
          · rw [List.eq_of_mem_replicate hb]; decide
    · exact ih _ _ (fun b hb => hm b (List.mem_of_mem_drop hb)) (by rw [List.length_drop]; omega)
        (aesEnc_bytes h (xorList_bytes hx ⟨by rw [List.length_take]; omega, fun b hb => hm b (List.mem_of_mem_take hb)⟩))

/-! ### Unwrapping -/

theorem beNat_beBytes (n x acc : Nat) : (beBytes n x).foldl (fun a b => a * 256 + b) acc = acc * 256 ^ n + x % 256 ^ n := by
  induction n generalizing acc with
  | zero => simp [beBytes, Nat.mod_one]
  | succ n ih =>
    rw [beBytes, List.foldl_cons, ih, Nat.mod_pow_succ, Nat.pow_succ]
    ring

theorem beFold (l : List Nat) (h : ∀ b ∈ l, b < 256) (acc : Nat) :
    ∃ y < 256 ^ l.length, l.foldl (fun a b => a * 256 + b) acc = acc * 256 ^ l.length + y := by
  induction l generalizing acc with
  | nil => exact ⟨0, by simp, by simp⟩
  | cons b t ih =>
    obtain ⟨y, hy, e⟩ := ih (fun x hx => h x (List.mem_cons_of_mem _ hx)) (acc * 256 + b)
    have hb := h b (List.mem_cons_self ..)
    refine ⟨b * 256 ^ t.length + y, ?_, ?_⟩
    · rw [List.length_cons, Nat.pow_succ]
      calc b * 256 ^ t.length + y < b * 256 ^ t.length + 256 ^ t.length := by omega
        _ = (b + 1) * 256 ^ t.length := by ring
        _ ≤ 256 * 256 ^ t.length := Nat.mul_le_mul_right _ hb
        _ = _ := Nat.mul_comm _ _
    · rw [List.foldl_cons, e, List.length_cons, Nat.pow_succ]; ring

theorem beBytes_fold (l : List Nat) (h : ∀ b ∈ l, b < 256) (acc : Nat) : beBytes l.length (l.foldl (fun a b => a * 256 + b) acc) = l := by
  induction l generalizing acc with
  | nil => rfl
  | cons b t ih =>
    have ht := fun x hx => h x (List.mem_cons_of_mem b hx)
    obtain ⟨y, hy, e⟩ := beFold t ht (acc * 256 + b)
    rw [List.length_cons, beBytes, List.foldl_cons, ih ht, e, Nat.mul_comm, Nat.mul_add_div (by positivity), Nat.div_eq_of_lt hy]
    have hb := h b (List.mem_cons_self ..)
    congr 1; omega

/-- Whatever the key, some block unwraps to any registers. -/
theorem unwrapN_onto {key : List Nat} (h : IsBytes 32 key) (t : Nat) (ht : t < 2 ^ 64) : ∀ {a : List Nat} {rs : List (List Nat)}, IsBytes 8 a → rs.length = 4 →
    (∀ r ∈ rs, IsBytes 8 r) → ∃ a' rs', IsBytes 8 a' ∧ rs'.length = 4 ∧ (∀ r ∈ rs', IsBytes 8 r) ∧ unwrapN t key a' rs' = (a, rs) := by
  induction t with
  | zero => intro a rs ha hl hr; exact ⟨a, rs, ha, hl, hr, rfl⟩
  | succ t ih =>
    intro a rs ha hl hr
    obtain ⟨b, rs1, hb, hl1, hr1, e⟩ := ih (by omega) ha hl hr
    have hi : t % 4 < rs1.length := by omega
    have hg : IsBytes 8 (rs1.getD (t % 4) []) := by rw [List.getD_eq_getElem _ _ hi]; exact hr1 _ (List.getElem_mem _)
    have cat {x y : List Nat} (hx : IsBytes 8 x) (hy : IsBytes 8 y) : IsBytes 16 (x ++ y) :=
      ⟨by simp [hx.1, hy.1], fun b hm => (List.mem_append.1 hm).elim (hx.2 b) (hy.2 b)⟩
    obtain ⟨x, hx, ex⟩ := aesDec_onto h (cat hb hg)
    have hx1 : IsBytes 8 (x.take 8) := ⟨by simp [hx.1], fun b hm => hx.2 b (List.mem_of_mem_take hm)⟩
    have hx2 : IsBytes 8 (x.drop 8) := ⟨by simp [hx.1], fun b hm => hx.2 b (List.mem_of_mem_drop hm)⟩
    have hn : beNat (x.take 8) < 2 ^ 64 := by
      obtain ⟨y, hy, e⟩ := beFold _ hx1.2 0
      rw [hx1.1] at hy e
      rw [beNat, e, Nat.zero_mul, Nat.zero_add]
      exact lt_of_lt_of_eq hy (by norm_num)
    have hn' : beNat (x.take 8) ^^^ (t + 1) < 2 ^ 64 := Nat.xor_lt_two_pow hn ht
    refine ⟨beBytes 8 (beNat (x.take 8) ^^^ (t + 1)), rs1.set (t % 4) (x.drop 8), beBytes_bytes 8 _, by simp [hl1], fun r hr => ?_, ?_⟩
    · rcases List.mem_or_eq_of_mem_set hr with hr | rfl
      · exact hr1 r hr
      · exact hx2
    · have e1 : beNat (beBytes 8 (beNat (x.take 8) ^^^ (t + 1))) = beNat (x.take 8) ^^^ (t + 1) := by
        rw [beNat, beNat_beBytes, Nat.zero_mul, Nat.zero_add, Nat.mod_eq_of_lt (by rw [show (256 : Nat) ^ 8 = 2 ^ 64 by norm_num]; exact hn')]
      have e2 : beBytes 8 (beNat (x.take 8)) = x.take 8 := by
        have := beBytes_fold (x.take 8) hx1.2 0
        rwa [hx1.1] at this
      have e3 : (rs1.set (t % 4) (x.drop 8)).getD (t % 4) [] = x.drop 8 := by
        rw [List.getD_eq_getElem _ _ (by simpa using hi)]; simp
      simp only [unwrapN]
      rw [e1, Nat.xor_assoc, Nat.xor_self, Nat.xor_zero, e2, e3, List.take_append_drop, ex]
      rw [List.take_left' hb.1, List.drop_left' hb.1, List.set_set, List.getD_eq_getElem _ _ hi, List.set_getElem_self, e]

/-- Some wrapped key unwraps under any key encryption key. -/
theorem keyUnwrap_onto {kek : List Nat} (h : IsBytes 32 kek) : ∃ w key, IsBytes 40 w ∧ keyUnwrap kek w = some key := by
  have z : IsBytes 8 (List.replicate 8 0) := ⟨rfl, by decide⟩
  obtain ⟨a, rs, ha, hl, hr, e⟩ := unwrapN_onto h 24 (by decide) (a := List.replicate 8 0xA6) (rs := List.replicate 4 (List.replicate 8 0)) ⟨rfl, by decide⟩ rfl
    (fun r hr => by rw [List.eq_of_mem_replicate hr]; exact z)
  have hf := flatten_bytes hl hr
  refine ⟨a ++ rs.flatten, (List.replicate 4 (List.replicate 8 0)).flatten, ⟨by simp only [List.length_append, ha.1, hf.1], fun b hb => (List.mem_append.1 hb).elim (ha.2 b) (hf.2 b)⟩, ?_⟩
  have e1 : (a ++ rs.flatten).take 8 = a := List.take_left' ha.1
  have e2 : (List.range 4).map (fun i => ((a ++ rs.flatten).drop (8 + 8 * i)).take 8) = rs := by
    obtain ⟨r0, l0, rfl, g0⟩ := uncons hl
    obtain ⟨r1, l1, rfl, g1⟩ := uncons g0
    obtain ⟨r2, l2, rfl, g2⟩ := uncons g1
    obtain ⟨r3, l3, rfl, g3⟩ := uncons g2
    obtain rfl := List.length_eq_zero_iff.1 g3
    simp only [List.mem_cons, List.not_mem_nil, or_false, forall_eq_or_imp, forall_eq] at hr
    obtain ⟨⟨h0, -⟩, ⟨h1, -⟩, ⟨h2, -⟩, ⟨h3, -⟩⟩ := hr
    simp [List.range, List.range.loop, List.flatten, List.drop_append, List.take_append, List.drop_eq_nil_of_le, List.take_of_length_le, ha.1, h0, h1, h2, h3]
  rw [keyUnwrap, e1, e2, e]
  exact if_pos rfl

/-! ### Digests -/

theorem shaRound_length (v : List Nat) (kw : Nat) (h : v.length = 8) : (shaRound v kw).length = 8 := by
  unfold shaRound
  split
  · rfl
  · exact h

theorem shaBlock_length (h blk : List Nat) (hl : h.length = 8) : (shaBlock h blk).length = 8 := by
  have f (l : List Nat) : ∀ v : List Nat, v.length = 8 → (l.foldl shaRound v).length = 8 := by
    induction l with
    | nil => exact fun v h => h
    | cons x t ih => exact fun v h => ih _ (shaRound_length v x h)
  simp only [shaBlock, List.length_zipWith, hl, f _ h hl, Nat.min_self]

theorem shaBlocks_length (n : Nat) (h m : List Nat) (hl : h.length = 8) : (shaBlocks n h m).length = 8 := by
  induction n generalizing h m with
  | zero => exact hl
  | succ n ih => exact ih _ _ (shaBlock_length h _ hl)

theorem sha384_bytes (m : List Nat) : IsBytes 48 (sha384 m) := by
  have l := shaBlocks_length ((m ++ 0x80 :: List.replicate ((111 + 128 - m.length % 128) % 128) 0 ++ beBytes 16 (8 * m.length)).length / 128) shaIV
    (m ++ 0x80 :: List.replicate ((111 + 128 - m.length % 128) % 128) 0 ++ beBytes 16 (8 * m.length)) (by simp [shaIV, primes40])
  rw [sha384, List.flatMap]
  refine flatten_bytes (m := 8) (n := 6) (by rw [List.length_map, List.length_take, l]; rfl) (fun w hw => ?_)
  obtain ⟨x, -, rfl⟩ := List.mem_map.1 hw
  exact beBytes_bytes 8 x

/-- The first 32 bytes of an extracted key of 48. -/
theorem hkdf_bytes (ikm info : List Nat) : IsBytes 32 ((hkdf ikm info 48).take 32) := by
  have h (k m : List Nat) : IsBytes 48 (hmac384 k m) := sha384_bytes _
  rw [hkdf, List.take_take]
  simp only [hkdfExpand, List.append_nil]
  refine ⟨?_, fun b hb => ?_⟩
  · rw [List.length_take, List.length_append, (h _ _).1, (h _ _).1]; rfl
  · exact (List.mem_append.1 (List.mem_of_mem_take hb)).elim ((h _ _).2 b) ((h _ _).2 b)

end Sys2Proof.Laws
end

