-- ==== Sys2Proof/Tests/Slice0.lean ====
section
/-! SUPPORT. Tests: every instruction word decoded from the encoding tables, ill-formed terms, one-step results written out by
hand from the manual, and for each statement with hypotheses states that meet them. -/

namespace Sys2Proof.Tests

open Sys2Proof Sys2Proof.Machine

set_option Elab.async false

/-! ### Decoding: one word of every row, its fields chosen unlike each other -/

/-- ADD to SEQ, by their rows of the opcode table. -/
theorem test_decode_01a :
    decode 0x011E1C01 = .ok (.add 0x11 0x1C 0x7) ∧
    decode 0x0160B002 = .ok (.sub 0x16 0x1 0xC) ∧
    decode 0x01B34403 = .ok (.and 0x1B 0x6 0x11) ∧
    decode 0x0015D804 = .ok (.or 0x1 0xB 0x16) ∧
    decode 0x00586C05 = .ok (.xor 0x5 0x10 0x1B) ∧
    decode 0x00AA8406 = .ok (.andn 0xA 0x15 0x1) ∧
    decode 0x00FD1407 = .ok (.orn 0xF 0x1A 0x5) ∧
    decode 0x014FA808 = .ok (.min 0x14 0x1F 0xA) ∧
    decode 0x01923C09 = .ok (.max 0x19 0x4 0xF) ∧
    decode 0x01E4D00A = .ok (.minu 0x1E 0x9 0x14) ∧
    decode 0x0037640B = .ok (.maxu 0x3 0xE 0x19) ∧
    decode 0x0089F80C = .ok (.slt 0x8 0x13 0x1E) ∧
    decode 0x00DC0C0D = .ok (.sltu 0xD 0x18 0x3) ∧
    decode 0x012EA00E = .ok (.seq 0x12 0x1D 0x8) := by
  decide +kernel

/-- SNE to SNE, by their rows of the opcode table. -/
theorem test_decode_01b :
    decode 0x0171340F = .ok (.sne 0x17 0x2 0xD) := by
  decide +kernel

/-- MUL to POPC, by their rows of the opcode table. -/
theorem test_decode_02a :
    decode 0x03C3C801 = .ok (.mul 0x1C 0x7 0x12) ∧
    decode 0x02165C02 = .ok (.mulh 0x1 0xC 0x17) ∧
    decode 0x0268F003 = .ok (.mulhu 0x6 0x11 0x1C) ∧
    decode 0x02BB0404 = .ok (.div 0xB 0x16 0x1) ∧
    decode 0x030D9805 = .ok (.divu 0x10 0x1B 0x6) ∧
    decode 0x0350AC06 = .ok (.rem 0x15 0x1 0xB) ∧
    decode 0x03A2C007 = .ok (.remu 0x1A 0x5 0x10) ∧
    decode 0x05F55401 = .ok (.shl 0x1F 0xA 0x15) ∧
    decode 0x0447E802 = .ok (.shr 0x4 0xF 0x1A) ∧
    decode 0x049A7C03 = .ok (.sra 0x9 0x14 0x1F) ∧
    decode 0x04EC9004 = .ok (.rot 0xE 0x19 0x4) ∧
    decode 0x053F0005 = .ok (.clz 0x13 0x1E) ∧
    decode 0x05818006 = .ok (.ctz 0x18 0x3) ∧
    decode 0x05D40007 = .ok (.popc 0x1D 0x8) := by
  decide +kernel

/-- BREV to EXTS, by their rows of the opcode table. -/
theorem test_decode_02b :
    decode 0x04268008 = .ok (.brev 0x2 0xD) ∧
    decode 0x04797409 = .ok (.exts 0x7 0x12 0x1D) := by
  decide +kernel

/-- ZIP to SLTIU, by their rows of the opcode table. -/
theorem test_decode_03a :
    decode 0x06CB8801 = .ok (.zip 0xC 0x17 0x2) ∧
    decode 0x071E0002 = .ok (.zrow 0x11 0x1C) ∧
    decode 0x07608003 = .ok (.zcol 0x16 0x1) ∧
    decode 0x07B34404 = .ok (.zaddr 0x1B 0x6 0x11) ∧
    decode 0x0615D805 = .ok (.zaddc 0x1 0xB 0x16) ∧
    decode 0x06586C06 = .ok (.ptrunc 0x5 0x10 0x1B) ∧
    decode 0x06AA8407 = .ok (.pdig 0xA 0x15 0x1) ∧
    decode 0x06FD1408 = .ok (.pcat 0xF 0x1A 0x5) ∧
    decode 0x114FC0DA = .ok (.addi 0x14 0x1F 0x40DA) ∧
    decode 0x139240DF = .ok (.andi 0x19 0x4 0x40DF) ∧
    decode 0x15E4C0E4 = .ok (.ori 0x1E 0x9 0x40E4) ∧
    decode 0x163740E9 = .ok (.xori 0x3 0xE 0x40E9) ∧
    decode 0x1889C0EE = .ok (.slti 0x8 0x13 0x40EE) ∧
    decode 0x1ADC40F3 = .ok (.sltiu 0xD 0x18 0x40F3) := by
  decide +kernel

/-- SHLI to LDZ_W, by their rows of the opcode table. -/
theorem test_decode_04a :
    decode 0x1D2E8058 = .ok (.shli 0x12 0x1D 0x18) ∧
    decode 0x1D71009D = .ok (.shri 0x17 0x2 0x1D) ∧
    decode 0x1DC380E2 = .ok (.srai 0x1C 0x7 0x22) ∧
    decode 0x1E164107 = .ok (.lih 0x1 0xC 0x4107) ∧
    decode 0x2068C10C = .ok (.ldB 0x6 0x11 0x410C) ∧
    decode 0x22BB4111 = .ok (.ldH 0xB 0x16 0x4111) ∧
    decode 0x250DC116 = .ok (.ldW 0x10 0x1B 0x4116) ∧
    decode 0x2750C11B = .ok (.ldD 0x15 0x1 0x411B) ∧
    decode 0x29A2C120 = .ok (.ldzB 0x1A 0x5 0x4120) ∧
    decode 0x2BF54125 = .ok (.ldzH 0x1F 0xA 0x4125) ∧
    decode 0x2C47C12A = .ok (.ldzW 0x4 0xF 0x412A) := by
  decide +kernel

/-- LDX to LDBZ_W, by their rows of the opcode table. -/
theorem test_decode_05a :
    decode 0x2E9A412F = .ok (.ldx 0x9 0x14 0x412F) ∧
    decode 0x30ECC134 = .ok (.stB 0xE 0x19 0x4134) ∧
    decode 0x333F4139 = .ok (.stH 0x13 0x1E 0x4139) ∧
    decode 0x3581C13E = .ok (.stW 0x18 0x3 0x413E) ∧
    decode 0x37D44143 = .ok (.stD 0x1D 0x8 0x4143) ∧
    decode 0x3826E000 = .ok (.ldbB 0x2 0xD 0x18) ∧
    decode 0x38797401 = .ok (.ldbH 0x7 0x12 0x1D) ∧
    decode 0x38CB8802 = .ok (.ldbW 0xC 0x17 0x2) ∧
    decode 0x391E1C03 = .ok (.ldbD 0x11 0x1C 0x7) ∧
    decode 0x3960B004 = .ok (.ldbzB 0x16 0x1 0xC) ∧
    decode 0x39B34405 = .ok (.ldbzH 0x1B 0x6 0x11) ∧
    decode 0x3815D806 = .ok (.ldbzW 0x1 0xB 0x16) := by
  decide +kernel

/-- AMOADD to JOIN, by their rows of the opcode table. -/
theorem test_decode_06a :
    decode 0x3A586C31 = .ok (.amoadd 0x5 0x10 0x1B 0x1) ∧
    decode 0x3AAA8432 = .ok (.amoand 0xA 0x15 0x1 0x1) ∧
    decode 0x3AFD1433 = .ok (.amoor 0xF 0x1A 0x5 0x1) ∧
    decode 0x3B4FA834 = .ok (.amoxor 0x14 0x1F 0xA 0x1) ∧
    decode 0x3B923C35 = .ok (.amomin 0x19 0x4 0xF 0x1) ∧
    decode 0x3BE4D036 = .ok (.amomax 0x1E 0x9 0x14 0x1) ∧
    decode 0x3A376437 = .ok (.amominu 0x3 0xE 0x19 0x1) ∧
    decode 0x3A89F838 = .ok (.amomaxu 0x8 0x13 0x1E 0x1) ∧
    decode 0x3ADC0C39 = .ok (.amoswp 0xD 0x18 0x3 0x1) ∧
    decode 0x3B2E803A = .ok (.join 0x12 0x1D) := by
  decide +kernel

/-- CAS to CALLR, by their rows of the opcode table. -/
theorem test_decode_07a :
    decode 0x3D713403 = .ok (.cas 0x17 0x2 0xD 0x1) ∧
    decode 0x3E000000 = .ok .nop ∧
    decode 0x401641A7 = .ok (.beq 0x1 0xC 0x41A7) ∧
    decode 0x4268C1AC = .ok (.bne 0x6 0x11 0x41AC) ∧
    decode 0x44BB41B1 = .ok (.blt 0xB 0x16 0x41B1) ∧
    decode 0x470DC1B6 = .ok (.bge 0x10 0x1B 0x41B6) ∧
    decode 0x4950C1BB = .ok (.bltu 0x15 0x1 0x41BB) ∧
    decode 0x4BA2C1C0 = .ok (.bgeu 0x1A 0x5 0x41C0) ∧
    decode 0x4D0001AF = .ok (.j 0x10001AF) ∧
    decode 0x4F0001B4 = .ok (.jal 0x10001B4) ∧
    decode 0x50070002 = .ok (.callr 0xE) := by
  decide +kernel

/-- JR to ENQ, by their rows of the opcode table. -/
theorem test_decode_08a :
    decode 0x50048001 = .ok (.jr 0x9) ∧
    decode 0x50000003 = .ok .ret ∧
    decode 0x5381B801 = .ok (.callat 0x18 0x3 0xE) ∧
    decode 0x520EA002 = .ok (.reply 0x1D 0x8) ∧
    decode 0x54268001 = .ok (.waitr 0x2 0xD) ∧
    decode 0x54000002 = .ok .waitw ∧
    decode 0x54020003 = .ok (.waite 0x4) ∧
    decode 0x54088004 = .ok (.waiteFill 0x11) ∧
    decode 0x540B0005 = .ok (.waiteFree 0x16) ∧
    decode 0x57B34401 = .ok (.enq 0x1B 0x6 0x11) := by
  decide +kernel

/-- DEQ to BEXP, by their rows of the opcode table. -/
theorem test_decode_09a :
    decode 0x5615D802 = .ok (.deq 0x1 0xB 0x16) ∧
    decode 0x56586C03 = .ok (.deqt 0x5 0x10 0x1B) ∧
    decode 0x58AA8409 = .ok (.send 0xA 0x15 0x1 0x1) ∧
    decode 0x5AFD0001 = .ok (.rpub 0xF 0x1A) ∧
    decode 0x5B4F8002 = .ok (.racq 0x14 0x1F) ∧
    decode 0x5A0C9003 = .ok (.rfloor 0x19 0x4) ∧
    decode 0x5A018005 = .ok (.rfloorClr 0x3) ∧
    decode 0x5BE48004 = .ok (.rsub 0x1E 0x9) ∧
    decode 0x5C00CC01 = .ok (.binit 0x1 0x13) ∧
    decode 0x5C028002 = .ok (.barr 0x5) ∧
    decode 0x5C057403 = .ok (.bexp 0xA 0x1D) := by
  decide +kernel

/-- BWAIT to TEXT, by their rows of the opcode table. -/
theorem test_decode_10a :
    decode 0x5D753404 = .ok (.bwait 0x17 0xA 0xD) ∧
    decode 0x5DC78005 = .ok (.btest 0x1C 0xF) ∧
    decode 0x5C960006 = .ok (.bhset 0x9 0xC) ∧
    decode 0x5E034401 = .ok (.bsni 0x6 0x11) ∧
    decode 0x5EBB0002 = .ok (.bsnp 0xB 0x16) ∧
    decode 0x5E080003 = .ok (.bsnc 0x10) ∧
    decode 0x5F508004 = .ok (.bsng 0x15 0x1) ∧
    decode 0x5E0D0005 = .ok (.bsnf 0x1A) ∧
    decode 0x60755401 = .ok (.tdef 0x7 0xA 0x15) ∧
    decode 0x60C78002 = .ok (.tldd 0xC 0xF) ∧
    decode 0x6004B003 = .ok (.tstd 0x9 0xC) ∧
    decode 0x60609004 = .ok (.text 0x6 0x1 0x4) := by
  decide +kernel

/-- TSUB to BDEMOTE, by their rows of the opcode table. -/
theorem test_decode_11a :
    decode 0x636D6710 = .ok (.tsub 0xB 0x6 0x5 0x2710) ∧
    decode 0x6415B801 = .ok (.tsubr 0x1 0xB 0xE) ∧
    decode 0x70A21600 = .ok (.bcopy 0x5 0x1 0xB) ∧
    decode 0x714A02D3 = .ok (.bcopyBnd 0xA 0x5 0x1 0x53) ∧
    decode 0x71F40B38 = .ok (.bcopyBsn 0xF 0xA 0x5 0x38) ∧
    decode 0x72801E12 = .ok (.bfill 0x4 0xF 0x12) ∧
    decode 0x7529F400 = .ok (.bgath 0x9 0x4 0xF 0xA) ∧
    decode 0x77D29E00 = .ok (.bscat 0xE 0x9 0x4 0xF) ∧
    decode 0x78601C40 = .ok (.bpref 0x3 0xE) ∧
    decode 0x79000682 = .ok (.bres 0x8 0x3 0x2) ∧
    decode 0x79A010C0 = .ok (.bevict 0xD 0x8) ∧
    decode 0x78401B00 = .ok (.bdemote 0x2 0xD) := by
  decide +kernel

/-- BOWN to VNEG, by their rows of the opcode table. -/
theorem test_decode_12a :
    decode 0x7AE00440 = .ok (.bown 0x7 0x2) ∧
    decode 0x7B800E80 = .ok (.brel 0xC 0x7) ∧
    decode 0x80021801 = .ok (.mxst 0x1 0xC 0x1) ∧
    decode 0x82C21801 = .ok (.mxma 0x6 0x1 0xC 0x1) ∧
    decode 0x856C0205 = .ok (.mxmas 0xB 0x6 0x1 0x2 0x1) ∧
    decode 0x9036C201 = .ok (.vadd 0x1 0xB 0x6 0x1) ∧
    decode 0x90A36C02 = .ok (.vsub 0x5 0x1 0xB 0x6) ∧
    decode 0x914A3603 = .ok (.vmul 0xA 0x5 0x1 0xB) ∧
    decode 0x91F4A204 = .ok (.vfma 0xF 0xA 0x5 0x1) ∧
    decode 0x909F4A05 = .ok (.vmin 0x4 0xF 0xA 0x5) ∧
    decode 0x9129F406 = .ok (.vmax 0x9 0x4 0xF 0xA) ∧
    decode 0x91D20807 = .ok (.vabs 0xE 0x9 0x4) ∧
    decode 0x907C1208 = .ok (.vneg 0x3 0xE 0x9) := by
  decide +kernel

/-- VAND to VTANH, by their rows of the opcode table. -/
theorem test_decode_13a :
    decode 0x9307D201 = .ok (.vand 0x8 0x3 0xE 0x9) ∧
    decode 0x93B07C02 = .ok (.vor 0xD 0x8 0x3 0xE) ∧
    decode 0x925B0603 = .ok (.vxor 0x2 0xD 0x8 0x3) ∧
    decode 0x92E41A04 = .ok (.vnot 0x7 0x2 0xD) ∧
    decode 0x938E5A05 = .ok (.vshl 0xC 0x7 0x2 0xD) ∧
    decode 0x9238E406 = .ok (.vshr 0x1 0xC 0x7 0x2) ∧
    decode 0x94C38E31 = .ok (.vcmp 0x6 0x1 0xC 0x7 0x3) ∧
    decode 0x956C3802 = .ok (.vsel 0xB 0x6 0x1 0xC) ∧
    decode 0x96360C03 = .ok (.vcvt 0x1 0xB 0x6 0x3) ∧
    decode 0x98A21601 = .ok (.vexp2 0x5 0x1 0xB) ∧
    decode 0x994A0202 = .ok (.vlog2 0xA 0x5 0x1) ∧
    decode 0x99F40A03 = .ok (.vrcp 0xF 0xA 0x5) ∧
    decode 0x989E1404 = .ok (.vrsq 0x4 0xF 0xA) ∧
    decode 0x99281E05 = .ok (.vtanh 0x9 0x4 0xF) := by
  decide +kernel

/-- VRED to SKSET, by their rows of the opcode table. -/
theorem test_decode_14a :
    decode 0x9BD20805 = .ok (.vred 0xE 0x9 0x4 0x1 0x1) ∧
    decode 0x9C7C1206 = .ok (.vscan 0x3 0xE 0x9 0x1 0x2) ∧
    decode 0x9F061C01 = .ok (.vtrn 0x8 0x3 0xE) ∧
    decode 0x9FB00612 = .ok (.vbcst 0xD 0x8 0x3 0x1) ∧
    decode 0x9E5B0613 = .ok (.vgath 0x2 0xD 0x8 0x3 0x1) ∧
    decode 0x9EE41A04 = .ok (.vmov 0x7 0x2 0xD) ∧
    decode 0xA1800E02 = .ok (.vgen 0xC 0x7 0x2) ∧
    decode 0xA02018F7 = .ok (.vgenConst 0x1 0xC 0xF) ∧
    decode 0xB00F2409 = .ok (.cbld 0x1E 0x9) ∧
    decode 0xB201B809 = .ok (.skset 0x3 0xE) := by
  decide +kernel

/-- XBSET_CTR to SCALL, by their rows of the opcode table. -/
theorem test_decode_15a :
    decode 0xB489F808 = .ok (.xbsetCtr 0x8 0x13 0x1E) ∧
    decode 0xB4DC0C10 = .ok (.xbsetTerm 0xD 0x18 0x3) ∧
    decode 0xB52EA018 = .ok (.xbsetStage 0x12 0x1D 0x8) ∧
    decode 0xB7710008 = .ok (.xbarmOn 0x17 0x2) ∧
    decode 0xB7C38010 = .ok (.xbarmOff 0x1C 0x7) ∧
    decode 0xB8165C09 = .ok (.ectlRd 0x1 0xC 0x17 0x1) ∧
    decode 0xB8030011 = .ok (.ectlRes 0x6 0x1) ∧
    decode 0xB805801A = .ok (.ectlCan 0xB 0x2) ∧
    decode 0xBB00000A = .ok (.estat 0x10 0x2) ∧
    decode 0xC00A8001 = .ok (.trap 0x15) ∧
    decode 0xC00D0002 = .ok (.scall 0x1A) := by
  decide +kernel

/-- MCALL to FILL, by their rows of the opcode table. -/
theorem test_decode_16a :
    decode 0xC0000003 = .ok .mcall ∧
    decode 0xC0000004 = .ok .eret ∧
    decode 0xC0048005 = .ok (.resume 0x9) ∧
    decode 0xC0070006 = .ok (.park 0xE) ∧
    decode 0xC330050C = .ok (.crr 0x13 0x10C) ∧
    decode 0xC3818A03 = .ok (.crw 0x18 0x3 0x203) ∧
    decode 0xC5D44C01 = .ok (.ctxr 0x1D 0x8 0x13) ∧
    decode 0xC426E002 = .ok (.ctxw 0x2 0xD 0x18) ∧
    decode 0xC4038003 = .ok (.spill 0x7) ∧
    decode 0xC4CB8804 = .ok (.fill 0xC 0x17 0x2) := by
  decide +kernel

/-- KLOAD to REP, by their rows of the opcode table. -/
theorem test_decode_17a :
    decode 0xC71E1C01 = .ok (.kload 0x11 0x1C 0x7) ∧
    decode 0xC760B002 = .ok (.kder 0x16 0x1 0xC) ∧
    decode 0xC7B30003 = .ok (.krev 0x1B 0x6) ∧
    decode 0xC815D801 = .ok (.japp 0x1 0xB 0x16) ∧
    decode 0xCA000001 = .ok .ifence ∧
    decode 0xCA000002 = .ok .tfence ∧
    decode 0xCC000001 = .ok .bkpt ∧
    decode 0xCC000002 = .ok .halt ∧
    decode 0xF10003E9 = .ok (.immx 0x10003E9) ∧
    decode 0xF2700001 = .ok (.rep 0xE 0x1) := by
  decide +kernel

/-- HINT to HINT, by their rows of the opcode table. -/
theorem test_decode_18a :
    decode 0xF5E003FE = .ok (.hint 0x7 0x2003FE) := by
  decide +kernel


/-- Words that the manual itself writes out, or that its formats give bit by bit (R105 to R120). -/
theorem test_decode_manual_words :
    decode 0x00611401 = .ok (.add 6 2 5) ∧
    decode 0x26720008 = .ok (.ldD 7 4 8) ∧
    decode 0x34917FFC = .ok (.stW 9 2 0x7FFC) ∧
    decode 0x10857FFF = .ok (.addi 8 10 0x7FFF) ∧
    decode 0x42307FFB = .ok (.bne 3 0 0x7FFB) ∧
    decode 0x62416710 = .ok (.tsub 2 0 5 0x2710) ∧
    decode 0x52531C01 = .ok (.callat 5 6 7) ∧
    decode 0x38521803 = .ok (.ldbD 5 4 6) ∧
    decode 0x3A521831 = .ok (.amoadd 5 4 6 1) ∧
    decode 0x3C521803 = .ok (.cas 5 4 6 1) ∧
    decode 0x54018003 = .ok (.waite 3) ∧
    decode 0x5C01A403 = .ok (.bexp 3 9) ∧
    decode 0x60331C01 = .ok (.tdef 3 6 7) ∧
    decode 0x70200600 = .ok (.bcopy 1 0 3) ∧
    decode 0x63E0A400 = .ok (.tsub 15 0 2 0x2400) := by
  decide +kernel

theorem test_decode_manual_words_more :
    decode 0x90402201 = .ok (.vadd 2 0 1 1) ∧
    decode 0x82C80600 = .ok (.mxma 6 4 3 0) ∧
    decode 0xB0031C09 = .ok (.cbld 6 7) ∧
    decode 0xC2500401 = .ok (.crr 5 1) ∧
    decode 0xC2000801 = .ok (.crw 0 0 1) ∧
    decode 0xC4531C01 = .ok (.ctxr 5 6 7) ∧
    decode 0xCA000001 = .ok .ifence ∧
    decode 0xCA000002 = .ok .tfence ∧
    decode 0xCC000002 = .ok .halt ∧
    decode 0xF02468AC = .ok (.immx 0x02468AC) ∧
    decode 0xF2180003 = .ok (.rep 3 3) ∧
    decode 0xF4400007 = .ok (.hint 1 7) ∧
    decode 0x5A618004 = .ok (.rsub 6 3) ∧
    decode 0x06519001 = .ok (.zip 5 3 4) ∧
    decode 0x1C108078 = .ok (.shli 1 1 56) ∧
    decode 0xC0030005 = .ok (.resume 6) ∧
    decode 0xCC000001 = .ok .bkpt := by
  decide +kernel

/-- Words of no row, and rows with a field value that a rule reserves (R107 to R110, R115). -/
theorem test_decode_rejects :
    (∃ e, decode 0x00611400 = .error e) ∧ (∃ e, decode 0xFFFFFFFF = .error e) ∧
    (∃ e, decode 0x62416711 = .error e) ∧ (∃ e, decode 0xC2500BC1 = .error e) := by
  refine ⟨⟨_, rfl⟩, ⟨_, rfl⟩, ⟨_, rfl⟩, ⟨_, rfl⟩⟩

/-- The least word of no row is no instruction, and a table word is decoded from its bytes. -/
theorem test_table_words :
    decodeTableWord 32 0x00611401 = some (.add 6 2 5) ∧ decodeTableWord 32 0 = none := by
  decide +kernel

/-! ### Ill-formed terms: one for each check -/

/-- Field values that a rule reserves. -/
theorem test_wf_refuses_reserved_fields :
    Instr.wf (.tsub 0 0 0 1) = false ∧ Instr.wf (.tsub 0 0 6 1) = false ∧
    Instr.wf (.vcmp 0 0 0 0 7) = false ∧ Instr.wf (.vred 0 0 0 0 0) = false ∧
    Instr.wf (.vscan 0 0 0 3 1) = false ∧ Instr.wf (.vscan 0 0 0 0 0) = false ∧
    Instr.wf (.vbcst 0 0 0 3) = false ∧ Instr.wf (.vgen 0 0 0) = false ∧ Instr.wf (.vgen 0 0 7) = false ∧
    Instr.wf (.ectlRd 0 0 0 3) = false ∧ Instr.wf (.ectlRes 0 3) = false ∧ Instr.wf (.ectlCan 0 3) = false ∧
    Instr.wf (.estat 0 3) = false ∧ Instr.wf (.crr 0 0x00B) = false ∧ Instr.wf (.crw 0 0 0x3FF) = false := by
  decide

/-- Events that name units the package does not contain. -/
theorem test_wf_refuses_missing_units :
    Instr.wf (.memoryReply 256 0) = false ∧ Instr.wf (.wake 0 24) = false ∧ Instr.wf (.preempt 0 24) = false ∧
    Instr.wf (.windowSpill 0 24) = false ∧ Instr.wf (.contextSpill 256) = false ∧ Instr.wf (.engineAccept 0 24) = false ∧
    Instr.wf (.bargeStart 0 3) = false ∧ Instr.wf (.bargeUnit 0 3) = false ∧ Instr.wf (.bargeComplete 0 3) = false ∧
    Instr.wf (.basinSlotClaim 256) = false ∧ Instr.wf (.dispenserRequest 64 0) = false ∧ Instr.wf (.dispenserBind 0 4096) = false ∧
    Instr.wf (.affinityTimeout 64 0) = false ∧ Instr.wf (.entryThreadCreate 0 16 0) = false ∧ Instr.wf (.consumedUpdate 2048) = false ∧
    Instr.wf (.quiescent 2048) = false ∧ Instr.wf (.rcbEnd 2048) = false ∧ Instr.wf (.rcbJoinRetry 2048) = false ∧
    Instr.wf (.xbarTermFire 0 64) = false ∧ Instr.wf (.stagedLaunch 0 16) = false ∧ Instr.wf (.boundedRequest 0 24) = false := by
  decide

theorem test_wf_refuses_missing_units_more :
    Instr.wf (.replyDelivery 0 0 ⟨0, 24⟩) = false ∧ Instr.wf (.iackReceive ⟨.core 0, ⟨256, 0⟩⟩) = false ∧
    Instr.wf (.homeWb 0 256 ⟨0, 0, 0, 0, 0, 0⟩ false) = false ∧ Instr.wf (.homeGack 0 256) = false ∧ Instr.wf (.homeFdata 0 256 (0, 0) (0, 0)) = false ∧
    Instr.wf (.homeGone 0 256) = false ∧ Instr.wf (.evictionNotice 256 0 0) = false ∧ Instr.wf (.agentAckx 256 0 ⟨0, 0⟩) = false ∧
    Instr.wf (.agentRnack 256 0 ⟨0, 0⟩) = false ∧ Instr.wf (.agentWback 256 0) = false ∧ Instr.wf (.agentFwd 272 0 .gets) = false ∧
    Instr.wf (.agentData 256 0 ⟨⟨0, 0, 0, 0, 0, 0⟩, 0⟩ true) = false ∧ Instr.wf (.lineEviction 256 0) = false ∧ Instr.wf (.translationDrop 256 0) = false ∧
    Instr.wf (.l2PeerServe 0 64 0 0) = false ∧ Instr.wf (.clockMinimumBroadcast 32) = false ∧ Instr.wf (.rehome 0 32) = false ∧
    Instr.wf (.meshArbitration 0 0 6) = false ∧ Instr.wf (.crSqpopWrite 256 0) = false ∧ Instr.wf (.crTrootWrite 256 0) = false ∧
    Instr.wf (.crSlotpartWrite 256 0) = false ∧ Instr.wf (.crBankpartWrite 256 true 0) = false ∧ Instr.wf (.crWinWrite 0 24 0) = false ∧
    Instr.wf (.crWspWrite 0 24 0) = false ∧ Instr.wf (.crWeiraWrite 0 16 0) = false ∧ Instr.wf (.crWeirbWrite 0 16 0) = false ∧
    Instr.wf (.weirRefill 16) = false ∧ Instr.wf (.weirTimeout 16) = false ∧ Instr.wf (.weirEgressEntry 16) = false ∧
    Instr.wf (.fabricSend 16) = false ∧ Instr.wf (.fabricReceive 16 0) = false ∧ Instr.wf (.l1InstructionCacheDrop 256 0) = false ∧
    Instr.wf (.keyCachePurge 0 64) = false ∧ Instr.wf (.machineCheck 0 9 0) = false := by
  decide

/-- The port's and the debugger's operands, and the messages' own checks. -/
theorem test_wf_refuses_bad_messages :
    Instr.wf (.debugAttach 2) = false ∧ Instr.wf (.debugStop 0 16) = false ∧ Instr.wf (.debugRelease 256 0) = false ∧
    Instr.wf (.debugStep 0 16) = false ∧ Instr.wf (.debugClaim 256 0) = false ∧ Instr.wf (.debugReadState 0 (.bargeWord 0 13) 0) = false ∧
    Instr.wf (.debugReadCr 0 24 0) = false ∧ Instr.wf (.debugReadContext 0 24 0) = false ∧ Instr.wf (.debugWriteContext 0 24 0 0) = false ∧
    Instr.wf (.debugProgramPcmp 0 5 0) = false ∧ Instr.wf (.debugProgramWatch 0 16 0) = false ∧ Instr.wf (.debugLaunch 0 0 0 2048) = false ∧
    Instr.wf (.hubCommand ⟨4, 0, 0, 0, 0, 0, 0, ⟨0, 0⟩, 0, 0⟩) = false ∧
    Instr.wf (.sendCommandReceipt ⟨0, 256, 0, 0, 0, 0, 0, ⟨0, 0⟩, 0, 0⟩) = false ∧
    Instr.wf (.remoteBarrierOperation ⟨0, 2048, .arrive, 0, true, ⟨0, 0⟩, 0, 0⟩) = false ∧
    Instr.wf (.homeAtomic ⟨{ loc := .main 0 }, 2, .add, 0, ⟨0, 0⟩, 0⟩) = false ∧
    Instr.wf (.homeJoin { loc := .main 0 } ⟨256, 0⟩ 0) = false ∧
    Instr.wf (.homeEnqueue ⟨4096, 0, true, none, ⟨0, 0⟩, 0⟩) = false ∧
    Instr.wf (.homeDequeue ⟨4096, { loc := .main 0 }, true, true, ⟨0, 0⟩, 0, 0⟩) = false ∧
    Instr.wf (.regionRpub 69632 ⟨0, 0⟩ 0) = false ∧ Instr.wf (.roundMulticast (.slice 32) 0 0) = false ∧
    Instr.wf (.roundMulticast (.cluster 64) 0 0) = false ∧ Instr.wf (.homeGets ⟨.gets, 0, 256, 0, 0, 0, 0, false, none⟩) = false ∧
    Instr.wf (.homeGetx ⟨.getx, 0, 256, 0, 0, 0, 0, false, none⟩) = false ∧ Instr.wf (.homeUpg ⟨.upg, 0, 256, 0, 0, 0, 0, false, none⟩) = false ∧
    Instr.wf (.homeRenew ⟨.renew, 0, 256, 0, 0, 0, 0, false, none⟩) = false ∧ Instr.wf (.agentRetry ⟨.gets, 0, 256, 0, 0, 0, 0, false, none⟩) = false ∧
    Instr.wf (.walkerRead (.hub 64) 0) = false ∧ Instr.wf (.invReceive (.dispenser 64) 0 0 ⟨0, 0⟩) = false ∧
    Instr.wf (.invReceive (.regionRecord 32 0) 0 0 ⟨0, 0⟩) = false ∧ Instr.wf (.peerAccess (.read 16 0 0 0)) = false ∧
    Instr.wf (.peerAccess (.atomic 0 0 2 .add 0)) = false ∧ Instr.wf (.homeRecall 0 ⟨.bown, 0, 29, 0⟩) = false := by
  decide

/-! ### Small machines -/

/-- One core with one context, nothing in flight. -/
def small (x : Context) : State := { State.reset with agenda := [], cores := [(0, { ctxs := [(0, x)] })] }

/-- A tile program's thread with the scalar registers `r`, at an address of its own local store. -/
def prog (r : SMap Word) : Context := { st := .bound, pc := 0x00F0000000001000, sregs := r, tid := 1 }

/-- The supervisor thread. -/
def sup (r : SMap Word) : Context := { prog r with slot := 15, level := .s }

/-- The monitor. -/
def mon (r : SMap Word) : Context := { sup r with level := .m, prior := 1 }

def nextOf (r : Result) : Option State := match r with | .next t => some t | _ => none

/-- What `f` reads after `i`, if the machine goes on. -/
def after {α : Type} (i : Instr) (s : State) (f : State → α) : Option α := (nextOf (exec i s)).map f

/-- S[3] after `i`, with x in s1 and y in s2. -/
def op (i : Instr) (x y : Word) : Option Word := after i (small (prog [(1, x), (2, y)])) (fun t => t.S 3)

/-- The cause, the tval and the trap pc after `i` has parked its thread. -/
def trapOf (i : Instr) (x : Context) : Option (Word × Word × Word) :=
  after i (small x) (fun t => (t.me.tcause, t.me.tval, t.me.tpc))

/-! ### One instruction each; results by hand from the manual's rows -/

/-- R125's rows. -/
theorem test_alu :
    op (.add 3 1 2) 0xFFFFFFFFFFFFFFFF 2 = some 1 ∧ op (.sub 3 1 2) 1 2 = some 0xFFFFFFFFFFFFFFFF ∧
    op (.and 3 1 2) 0xC 0xA = some 8 ∧ op (.or 3 1 2) 0xC 0xA = some 0xE ∧ op (.xor 3 1 2) 0xC 0xA = some 6 ∧
    op (.andn 3 1 2) 0xC 0xA = some 4 ∧ op (.orn 3 1 2) 0xC 0xFFFFFFFFFFFFFFFE = some 0xD ∧
    op (.min 3 1 2) 0xFFFFFFFFFFFFFFFF 1 = some 0xFFFFFFFFFFFFFFFF ∧ op (.max 3 1 2) 0xFFFFFFFFFFFFFFFF 1 = some 1 ∧
    op (.minu 3 1 2) 0xFFFFFFFFFFFFFFFF 1 = some 1 ∧ op (.maxu 3 1 2) 0xFFFFFFFFFFFFFFFF 1 = some 0xFFFFFFFFFFFFFFFF ∧
    op (.slt 3 1 2) 0xFFFFFFFFFFFFFFFF 1 = some 1 ∧ op (.sltu 3 1 2) 0xFFFFFFFFFFFFFFFF 1 = some 0 ∧
    op (.seq 3 1 2) 5 5 = some 1 ∧ op (.sne 3 1 2) 5 5 = some 0 := by
  decide +kernel

/-- R126 and R58: the two products of all ones as the manual gives them, the division corners. -/
theorem test_muldiv :
    op (.mul 3 1 2) 0x8000000000000001 2 = some 2 ∧ op (.mulh 3 1 2) 0xFFFFFFFFFFFFFFFF 0xFFFFFFFFFFFFFFFF = some 0 ∧
    op (.mulhu 3 1 2) 0xFFFFFFFFFFFFFFFF 0xFFFFFFFFFFFFFFFF = some 0xFFFFFFFFFFFFFFFE ∧
    op (.div 3 1 2) 0xFFFFFFFFFFFFFFF9 2 = some 0xFFFFFFFFFFFFFFFD ∧ op (.rem 3 1 2) 0xFFFFFFFFFFFFFFF9 2 = some 0xFFFFFFFFFFFFFFFF ∧
    op (.div 3 1 2) 0x8000000000000000 0xFFFFFFFFFFFFFFFF = some 0x8000000000000000 ∧
    op (.rem 3 1 2) 0x8000000000000000 0xFFFFFFFFFFFFFFFF = some 0 ∧
    op (.div 3 1 2) 7 0 = some 0xFFFFFFFFFFFFFFFF ∧ op (.rem 3 1 2) 7 0 = some 7 ∧
    op (.divu 3 1 2) 7 0 = some 0xFFFFFFFFFFFFFFFF ∧ op (.remu 3 1 2) 7 0 = some 7 ∧ op (.divu 3 1 2) 7 2 = some 3 ∧ op (.remu 3 1 2) 7 2 = some 1 := by
  decide +kernel

/-- R127: only bits [5:0] of the amount count. -/
theorem test_shift :
    op (.shl 3 1 2) 3 0x47F = some 0x8000000000000000 ∧ op (.shr 3 1 2) 0x8000000000000000 63 = some 1 ∧
    op (.sra 3 1 2) 0x8000000000000000 63 = some 0xFFFFFFFFFFFFFFFF ∧ op (.rot 3 1 2) 0x8000000000000001 1 = some 3 ∧
    op (.clz 3 1) 1 0 = some 63 ∧ op (.clz 3 1) 0 0 = some 64 ∧ op (.ctz 3 1) 0x8000000000000000 0 = some 63 ∧ op (.ctz 3 1) 0 0 = some 64 ∧
    op (.popc 3 1) 0xF0F 0 = some 8 ∧ op (.brev 3 1) 1 0 = some 0x8000000000000000 ∧
    op (.exts 3 1 2) 0x180 7 = some 0xFFFFFFFFFFFFFF80 ∧ op (.exts 3 1 2) 0x8000000000000000 63 = some 0x8000000000000000 := by
  decide +kernel

/-- The worked examples under R128. -/
theorem test_tree :
    op (.zip 3 1 2) 20 13 = some 0x271 ∧ op (.zaddc 3 1 2) 0x100271 1 = some 0x100274 ∧ op (.zaddr 3 1 2) 0x271 0xFFFFFFFFFFFFFFFF = some 0x25B ∧
    op (.zrow 3 1) 0x271 0 = some 20 ∧ op (.zcol 3 1) 0x271 0 = some 13 ∧
    op (.pdig 3 1 2) 0x0500000000000271 2 = some 3 ∧ op (.ptrunc 3 1 2) 0x0500000000000271 2 = some 0x0200000000000009 ∧
    op (.pcat 3 1 2) 0x0200000000000009 0x0100000000000003 = some 0x0300000000000027 := by
  decide +kernel

/-- R129: what the path members refuse. -/
theorem test_path_traps :
    trapOf (.pdig 3 1 2) (prog [(1, 0x0500000000000271), (2, 5)]) = some (1, 5, 0x00F0000000001000) ∧
    trapOf (.pcat 3 1 2) (prog [(1, 0x1C00000000000000), (2, 0x0100000000000003)]) = some (1, 29, 0x00F0000000001000) ∧
    trapOf (.ptrunc 3 1 2) (prog [(1, 0x0100000000000004)]) = some (1, 0x0100000000000004, 0x00F0000000001000) := by
  decide +kernel

/-- R107, R117, R130 to R132: sign-extended fields, the 40-bit immediate, LIH. -/
theorem test_immediates :
    op (.addi 3 1 0x7FFF) 5 0 = some 4 ∧ op (.andi 3 1 0x7FF0) 0x12345678 0 = some 0x12345670 ∧ op (.ori 3 1 1) 6 0 = some 7 ∧
    op (.xori 3 1 0x7FFF) 0 0 = some 0xFFFFFFFFFFFFFFFF ∧ op (.slti 3 1 0) 0xFFFFFFFFFFFFFFFF 0 = some 1 ∧
    op (.sltiu 3 1 0x7FFF) 5 0 = some 1 ∧ op (.shli 3 1 63) 1 0 = some 0x8000000000000000 ∧ op (.shri 3 1 4) 0x80 0 = some 8 ∧
    op (.srai 3 1 4) 0x8000000000000000 0 = some 0xF800000000000000 ∧ op (.lih 3 1 0x12) 0xFFFFFFFFFF 0 = some 0x000012FFFFFFFFFF ∧
    after (.addi 3 0 0x789A) (small { prog [] with chain := { len := 1, immx := some 0x02468AC } }) (fun t => t.S 3) = some 0x12345_6789A := by
  decide +kernel

/-- R116, R118: a prefix leaves the pc; the last repeat clears the chain. -/
theorem test_prefixes :
    after (.immx 5) (small (prog [])) (fun t => (t.me.chain, t.me.pc)) = some ({ len := 1, immx := some 5 }, 0x00F0000000001000) ∧
    after (.rep 3 3) (small (prog [])) (fun t => t.me.chain.rep) = some (some (3, 3)) ∧
    after (.hint 1 7) (small (prog [])) (fun t => t.me.chain.len) = some 1 ∧
    after .nop (small { prog [] with chain := { len := 1, rep := some (3, 3) }, rcnt := 2 }) (fun t => (t.me.rcnt, t.me.pc)) = some (1, 0x00F0000000001000) ∧
    after .nop (small { prog [] with chain := { len := 1, rep := some (3, 3) }, rcnt := 1 }) (fun t => (t.me.rcnt, t.me.pc)) = some (0, 0x00F0000000001008) := by
  decide +kernel

/-- R133 to R135: displacements count words from the branch itself. -/
theorem test_branches :
    after (.beq 1 2 0x7FFF) (small (prog [])) (fun t => t.me.pc) = some 0x00F0000000000FFC ∧
    after (.bne 1 2 2) (small (prog [])) (fun t => t.me.pc) = some 0x00F0000000001004 ∧
    after (.blt 1 2 2) (small (prog [(1, 0xFFFFFFFFFFFFFFFF)])) (fun t => t.me.pc) = some 0x00F0000000001008 ∧
    after (.bge 1 2 2) (small (prog [(1, 0xFFFFFFFFFFFFFFFF)])) (fun t => t.me.pc) = some 0x00F0000000001004 ∧
    after (.bltu 1 2 2) (small (prog [(1, 0xFFFFFFFFFFFFFFFF)])) (fun t => t.me.pc) = some 0x00F0000000001004 ∧
    after (.bgeu 1 2 2) (small (prog [(1, 0xFFFFFFFFFFFFFFFF)])) (fun t => t.me.pc) = some 0x00F0000000001008 ∧
    after (.j 0x1FFFFFF) (small (prog [])) (fun t => t.me.pc) = some 0x00F0000000000FFC ∧
    after (.jr 1) (small (prog [(1, 0x2000)])) (fun t => t.me.pc) = some 0x2000 := by
  decide +kernel

theorem test_jump_traps :
    trapOf (.jr 1) (prog [(1, 2 ^ 56)]) = some (0x0D, 2 ^ 56, 0x00F0000000001000) ∧ trapOf (.jr 1) (prog [(1, 6)]) = some (3, 6, 0x00F0000000001000) ∧
    trapOf .ret (prog []) = some (1, 0, 0x00F0000000001000) := by
  decide +kernel

/-- R137, R138: a call opens a window whose s31 is the link; a return discards it. -/
theorem test_windows :
    after (.jal 4) (small (prog [])) (fun t => (t.me.pc, t.me.win, t.S 31, t.me.wins.length)) = some (0x00F0000000001010, 1, 0x00F0000000001004, 2) ∧
    after (.callr 1) (small (prog [(1, 0x40)])) (fun t => (t.me.pc, t.S 31)) = some (0x40, 0x00F0000000001004) ∧
    after .ret (small { prog [] with win := 1, wins := [[(31, 0x44)], [(16, 9)]] }) (fun t => (t.me.pc, t.me.win, t.S 16)) = some (0x44, 0, 9) := by
  decide +kernel

/-- A state whose core 0 local store holds 0x88 0x99 0xAA 0xBB 0xCC 0xDD 0xEE 0xFF from its first byte, and s1 names it. -/
def loaded : State := { small (prog [(1, 0x00F0000000000000), (2, 0x1122334455667788), (4, 0x00F0000000000040)]) with
  mem := Memory.writeBytes [] 0x00F0000000000000 [0x88, 0x99, 0xAA, 0xBB, 0xCC, 0xDD, 0xEE, 0xFF] }

/-- R148: little-endian, sign- and zero-extended. -/
theorem test_loads :
    after (.ldB 3 1 7) loaded (fun t => t.S 3) = some 0xFFFFFFFFFFFFFFFF ∧ after (.ldH 3 1 2) loaded (fun t => t.S 3) = some 0xFFFFFFFFFFFFBBAA ∧
    after (.ldW 3 1 4) loaded (fun t => t.S 3) = some 0xFFFFFFFFFFEEDDCC ∧ after (.ldD 3 1 0) loaded (fun t => t.S 3) = some 0xFFEEDDCCBBAA9988 ∧
    after (.ldzB 3 1 7) loaded (fun t => t.S 3) = some 0xFF ∧ after (.ldzH 3 1 2) loaded (fun t => t.S 3) = some 0xBBAA ∧
    after (.ldzW 3 1 4) loaded (fun t => t.S 3) = some 0xFFEEDDCC ∧ after (.ldbD 3 1 0) loaded (fun t => t.S 3) = some 0xFFEEDDCCBBAA9988 ∧
    after (.ldbzB 3 1 0) loaded (fun t => t.S 3) = some 0x88 ∧ after (.ldH 3 1 1) loaded (fun t => t.me.tcause) = some 3 := by
  decide +kernel

theorem test_loads_more :
    after (.ldbB 3 1 0) loaded (fun t => t.S 3) = some 0xFFFFFFFFFFFFFF88 ∧ after (.ldbH 3 1 0) loaded (fun t => t.S 3) = some 0xFFFFFFFFFFFF9988 ∧
    after (.ldbW 3 1 0) loaded (fun t => t.S 3) = some 0xFFFFFFFFBBAA9988 ∧ after (.ldbzH 3 1 0) loaded (fun t => t.S 3) = some 0x9988 ∧
    after (.ldbzW 3 1 0) loaded (fun t => t.S 3) = some 0xBBAA9988 ∧
    after (.ldx 3 1 0) loaded (fun t => t.me.tcause) = some 0x12 ∧
    after (.ldx 3 1 0) { loaded with side := [(0x00F0000000000000 / 64, 0x001)] } (fun t => t.S 3) = some 0xC2F00000 ∧
    after (.tldd 5 4) loaded (fun t => t.T 5) = some 0 ∧ after (.tldd 5 1) loaded (fun t => t.T 5) = some 0xFFEEDDCCBBAA9988 := by
  decide +kernel

/-- R149: the low bytes, and no other byte. -/
theorem test_stores :
    after (.stB 2 1 1) loaded (fun t => bytesToNat (t.mem.readBytes 0x00F0000000000000 8)) = some 0xFFEEDDCCBBAA8888 ∧
    after (.stH 2 1 2) loaded (fun t => bytesToNat (t.mem.readBytes 0x00F0000000000000 8)) = some 0xFFEEDDCC77889988 ∧
    after (.stW 2 1 4) loaded (fun t => bytesToNat (t.mem.readBytes 0x00F0000000000000 8)) = some 0x55667788BBAA9988 ∧
    after (.stD 2 1 0) loaded (fun t => bytesToNat (t.mem.readBytes 0x00F0000000000000 8)) = some 0x1122334455667788 ∧
    after (.stD 2 1 8) loaded (fun t => (t.me.waitKind, t.me.pend)) = some (1, .reply) ∧
    after (.tstd 1 3) loaded (fun t => bytesToNat (t.mem.readBytes 0x00F0000000000000 8)) = some 0 := by
  decide +kernel

/-- R153 to R155: the old value is sign-extended; the new one is what the member makes. -/
def amo (op : AmoOp) (y : Word) : Option (Word × Nat) :=
  after (.homeAtomic ⟨{ loc := .ls 0x00F0000000000000 }, 4, op, y, ⟨0, 0⟩, 3⟩) (loaded.setMe { loaded.me with pend := .message })
    (fun t => (t.S 3, bytesToNat (t.mem.readBytes 0x00F0000000000000 4)))

theorem test_atomics :
    amo .add 0x80000000 = some (0xFFFFFFFFBBAA9988, 0x3BAA9988) ∧ amo .and 0xFF = some (0xFFFFFFFFBBAA9988, 0x88) ∧
    amo .or 0x77 = some (0xFFFFFFFFBBAA9988, 0xBBAA99FF) ∧ amo .xor 0xFF = some (0xFFFFFFFFBBAA9988, 0xBBAA9977) ∧
    amo .min 1 = some (0xFFFFFFFFBBAA9988, 0xBBAA9988) ∧ amo .max 1 = some (0xFFFFFFFFBBAA9988, 1) ∧
    amo .minu 1 = some (0xFFFFFFFFBBAA9988, 1) ∧ amo .maxu 1 = some (0xFFFFFFFFBBAA9988, 0xBBAA9988) ∧
    amo .swp 7 = some (0xFFFFFFFFBBAA9988, 7) ∧ amo (.cas 0xFFFFFFFFBBAA9988) 7 = some (0xFFFFFFFFBBAA9988, 7) ∧
    amo (.cas 0) 7 = some (0xFFFFFFFFBBAA9988, 0xBBAA9988) := by
  decide +kernel

/-- The word forms send a request for four bytes, and wait for it with kind 1. -/
theorem test_atomic_requests :
    after (.amoadd 3 1 2 0) loaded (fun t => (t.agenda, t.me.waitKind)) =
      some ([.homeAtomic ⟨{ loc := .ls 0x00F0000000000000 }, 4, .add, 0x55667788, ⟨0, 0⟩, 3⟩], 1) ∧
    after (.cas 3 1 2 1) loaded (fun t => t.agenda) = some [.homeAtomic ⟨{ loc := .ls 0x00F0000000000000 }, 8, .cas 0, 0x1122334455667788, ⟨0, 0⟩, 3⟩] := by
  decide +kernel

/-- R183 to R187: a barrier of two arrivals. -/
def bar (b : Barrier) (n : Nat) : State := { small { prog [(1, BitVec.ofNat 64 n)] with handles := [(2, 0x80005)] } with
  cores := [(0, { ctxs := [(0, { prog [(1, BitVec.ofNat 64 n)] with handles := [(2, 0x80005)] })], barriers := [(5, b)] })] }

theorem test_barriers :
    after (.binit 2 1) (bar {} 2) (fun t => (t.core 0).barrier 5) = some { expected := 2, remaining := 2 } ∧
    after (.barr 2) (bar { expected := 2, remaining := 2 } 0) (fun t => (t.core 0).barrier 5) = some { expected := 2, remaining := 1, armed := true } ∧
    after (.barr 2) (bar { expected := 2, remaining := 1, armed := true } 0) (fun t => (t.core 0).barrier 5) = some { expected := 2, remaining := 2, phase := true } ∧
    after (.bexp 2 1) (bar { expected := 2, remaining := 1 } 64) (fun t => (t.core 0).barrier 5) =
      some { expected := 2, remaining := 0, pending := 64, armed := true } ∧
    after (.btest 3 2) (bar { expected := 2, remaining := 1, armed := true, phase := true } 0) (fun t => t.S 3) = some 0x105 ∧
    after (.bwait 3 2 1) (bar { expected := 2, remaining := 2 } 0) (fun t => (t.me.waitKind, t.me.waitObj)) = some (3, 0x80005) ∧
    after (.waite 2) (bar { expected := 2, remaining := 2 } 0) (fun t => t.me.pc) = some 0x00F0000000001004 ∧
    after (.bhset 7 1) (bar {} 0x80009) (fun t => t.B 7) = some 0x80009 := by
  decide +kernel

/-- R188 to R190: a basin of two slots of 64 bytes. -/
def basin (b : Basin) : State := { small (prog [(1, 9), (2, 0x60109), (4, 0x00F0000000000100)]) with
  cores := [(0, { ctxs := [(0, prog [(1, 9), (2, 0x60109), (4, 0x00F0000000000100)])], basins := [(9, b)] })] }

theorem test_basins :
    after (.bsni 2 4) (basin {}) (fun t => (t.core 0).basin 9) = some { k := 1, j := 6, enabled := true, base := 0x00F0000000000100 } ∧
    after (.bsnp 3 1) (basin { k := 1, j := 6, enabled := true, base := 0x00F0000000000100, claim := 1 }) (fun t => (t.S 3, ((t.core 0).basin 9).claim)) =
      some (0x00F0000000000140, 2) ∧
    after (.bsnc 1) (basin { k := 1, j := 6, enabled := true, claim := 1 }) (fun t => ((t.core 0).basin 9).commit) = some 1 ∧
    after (.bsng 3 1) (basin { k := 1, j := 6, enabled := true, base := 0x00F0000000000100, claim := 1, commit := 1 })
      (fun t => (t.S 3, ((t.core 0).basin 9).take)) = some (0x00F0000000000100, 1) ∧
    after (.bsnf 1) (basin { k := 1, j := 6, enabled := true, claim := 1, commit := 1, take := 1 }) (fun t => ((t.core 0).basin 9).release) = some 1 ∧
    after (.waiteFill 1) (basin { k := 1, j := 6, enabled := true }) (fun t => t.me.waitKind) = some 4 ∧
    after (.waiteFree 1) (basin { k := 1, j := 6, enabled := true }) (fun t => t.me.pc) = some 0x00F0000000001004 := by
  decide +kernel

/-- R201, R202: TDEF, TEXT and the sub-tile of a path. -/
theorem test_descriptors :
    after (.tdef 5 1 2) (small (prog [(1, 7), (2, 9)])) (fun t => t.T 5) = some (9 * 2 ^ 64 + 7) ∧
    after (.text 5 4 1) (small { prog [(1, 0x30002)] with tiles := [(4, 1)] }) (fun t => t.T 5) = some (3 * 2 ^ 79 + 2 * 2 ^ 68 + 1) := by
  decide +kernel

/-- R163 to R167: a reply fills an awaiting slot and WAITR empties it. -/
theorem test_replies :
    after (.waitr 3 1) (small { prog [(1, 2)] with reply := [(2, 77)], rstate := [(2, 2)] }) (fun t => (t.S 3, t.me.rstate)) = some (77, []) ∧
    after (.waitr 3 1) (small { prog [(1, 2)] with rstate := [(2, 1)] }) (fun t => (t.me.waitKind, t.me.waitObj)) = some (2, 2) ∧
    trapOf (.reply 1 2) (prog [(1, 0x60)]) = some (1, 0x60, 0x00F0000000001000) ∧
    after .waitw (small (prog [])) (fun t => t.me.waitKind) = some 6 := by
  decide +kernel

/-- R232, R234, R236, R238, R239, R241: what traps, system calls and the monitor's entry leave. -/
theorem test_traps :
    trapOf .bkpt (prog []) = some (0x20, 0, 0x00F0000000001000) ∧ trapOf (.scall 1) (prog [(1, 42)]) = some (0, 42, 0x00F0000000001000) ∧
    trapOf (.trap 1) (prog [(1, 6)]) = some (0, 6, 0x00F0000000001000) ∧
    after (.scall 1) (small (prog [(1, 42)])) (fun t => ((t.core 0).sq, t.me.pc)) = some ([⟨0x0030000100000000, 0x00F0000000001000, 42, 0⟩], 0x00F0000000001004) ∧
    after .mcall (small (sup [])) (fun t => (t.me.level, (t.core 0).mresume, (t.core 0).mreason)) = some (.m, 0x00F0000000001004, 0x100) ∧
    after .eret (small (mon [])) (fun t => (t.me.level, t.me.prior, t.me.pc)) = some (.s, 0, 0) ∧
    trapOf .mcall (prog []) = some (4, 0, 0x00F0000000001000) := by
  decide +kernel

/-- R240, R241, R245: the supervisor's members on a parked context 1. -/
def two (r : SMap Word) (y : Context) : State := { small (sup r) with cores := [(0, { ctxs := [(0, sup r), (1, y)] })] }

theorem test_contexts :
    after (.resume 1) (two [(1, 1)] { st := .parked, slot := 2, pc := 0x40 }) (fun t => ((t.core 0).ctx 1).st) = some .bound ∧
    after (.park 1) (two [(1, 1)] { st := .bound, slot := 2, readyAt := 9 }) (fun t => ((t.core 0).ctx 1).st) = some .parked ∧
    after (.ctxr 3 1 2) (two [(1, 1), (2, 0x48)] { st := .parked, sregs := [(1, 55)] }) (fun t => t.S 3) = some 55 ∧
    after (.ctxw 3 1 2) (two [(1, 1), (2, 0x48), (3, 66)] { st := .parked }) (fun t => ((t.core 0).ctx 1).readS 1) = some 66 ∧
    after (.ctxr 3 1 2) (two [(1, 1), (2, 4)] { st := .parked }) (fun t => t.me.level) = some .m := by
  decide +kernel

/-- R254: the thread's own registers, and the cycle. -/
theorem test_control_registers :
    after (.crr 3 0x00C) { small (prog []) with cycle := 99 } (fun t => t.S 3) = some 99 ∧
    after (.crw 0 1 0x10D) (small (sup [(1, 0x40)])) (fun t => ((t.core 0).bankpart0, t.me.pc)) = some (0x40, 0x00F0000000001004) ∧
    trapOf (.crw 0 1 0x10D) (prog []) = some (4, 0, 0x00F0000000001000) := by
  decide +kernel

/-- A step fetches the word at the pc and executes it (R104), and HALT's and a reserved word's effects. -/
theorem test_steps :
    (nextOf (offer (State.reset.withFetchWord 32 0x10107FFF))).map (fun t => (t.ctxOf ⟨0, 0⟩).readS 1) = some 0xFFFFFFFFFFFFFFFF ∧
    (nextOf (offer (State.reset.withFetchWord 32 0xFFFFFFFF))).map (fun t => (t.core 0).dead) = some true := by
  decide +kernel

/-! ### Witnesses: states and operands that meet the hypotheses of each statement -/

/-- The access check lets the address through. -/
def passes (s : State) (ea : Word) (n : Need) : Bool := match (checkMe s ea n).1 with | .ok _ => true | .error _ => false

theorem passes_ok {s : State} {ea : Word} {n : Need} (h : passes s ea n = true) : ∃ t s', checkMe s ea n = (.ok t, s') := by
  unfold passes at h
  rcases hc : checkMe s ea n with ⟨_ | t, s'⟩
  · rw [hc] at h; cases h
  · exact ⟨t, s', rfl⟩

theorem passes_error {s : State} {ea : Word} {n : Need} (h : passes s ea n = false) : ∃ c s', checkMe s ea n = (.error c, s') := by
  unfold passes at h
  rcases hc : checkMe s ea n with ⟨c | _, s'⟩
  · exact ⟨c, s', rfl⟩
  · rw [hc] at h; cases h

/-- What an access meets: 0 where a check fails; else 1 where `f` has to wait for the line, 2 where it is at hand. -/
def meets {α : Type} (f : State → Target → Except State α) (s : State) (ea : Word) (n : Need) : Nat :=
  match checkMe s ea n with
  | (.error _, _) => 0
  | (.ok t, s') => match f s' t with | .error _ => 1 | .ok _ => 2

theorem meets_ok {α : Type} {f : State → Target → Except State α} {s : State} {ea : Word} {n : Need} (h : meets f s ea n = 2) :
    ∃ t s' l, checkMe s ea n = (.ok t, s') ∧ f s' t = .ok l := by
  unfold meets at h
  rcases hc : checkMe s ea n with ⟨_ | t, s'⟩
  · rw [hc] at h; cases h
  · rw [hc] at h
    rcases hl : f s' t with _ | l
    · simp [hl] at h
    · exact ⟨t, s', l, rfl, hl⟩

theorem meets_wait {α : Type} {f : State → Target → Except State α} {s : State} {ea : Word} {n : Need} (h : meets f s ea n = 1) :
    ∃ t s' u, checkMe s ea n = (.ok t, s') ∧ f s' t = .error u := by
  unfold meets at h
  rcases hc : checkMe s ea n with ⟨_ | t, s'⟩
  · rw [hc] at h; cases h
  · rw [hc] at h
    rcases hl : f s' t with u | _
    · exact ⟨t, s', u, rfl, hl⟩
    · simp [hl] at h

/-- A thread's read of the line of a target. -/
def reading (s : State) (t : Target) : Except State Loaded := loadLine s s.myWho t

/-- A thread's store of zeros at a target. -/
def storing (n : Nat) (s : State) (t : Target) : Except State Stored := storeLine s s.myWho t (natToBytes n 0) none false

/-- Division by zero; a divisor with a remainder; a register of ones only and one of zeros only. -/
theorem witness_MultipliesDividesAndShifts :
    (small (prog [(1, 7)])).S 2 = 0 ∧ (small (prog [(1, 7), (2, 2)])).S 2 ≠ 0 ∧ (7 : Word).smod 2 ≠ 0 := by
  decide +kernel

/-- Path values at their limits: 28 digits pass, 29 fail, a stray digit fails; and the counts on either side of each bound. -/
theorem witness_TreeAndPathWritesResult :
    ¬ PathBad 0x1C00000000000000 ∧ PathBad 0x1D00000000000000 ∧ PathBad 0x0100000000000004 ∧
    (pathCount 0x1C00000000000000 < 29 ∧ 28 ≤ pathCount 0x1C00000000000000 ∧ 27 < pathCount 0x1C00000000000000) ∧
    (¬ PathBad 0x0100000000000003 ∧ 28 < 28 + pathCount 0x0100000000000003 ∧ 27 + pathCount 0x0100000000000003 ≤ 28) := by
  unfold PathBad; decide +kernel

/-- No IMMX, a zero payload, a payload. -/
theorem witness_ImmediateWritesResult :
    (small (prog [])).me.chain.immx = none ∧ (small { prog [] with chain := { len := 1, immx := some 0 } }).me.chain.immx = some 0 ∧
    (small { prog [] with chain := { len := 1, immx := some 1 } }).me.chain.immx = some 1 ∧ (1 : BitVec 25) ≠ 0 := by
  decide +kernel

/-- Each prefix absent and present; the last repeat and one before it. -/
theorem witness_PrefixesAndRetirement :
    ((small (prog [])).me.chain.immx = none ∧ (small (prog [])).me.chain.rep = none ∧ (small (prog [])).me.chain.hint = none) ∧
    (let c : Chain := { len := 3, immx := some 0, rep := some (0, 0), hint := some 0 }
     c.immx ≠ none ∧ c.rep ≠ none ∧ c.hint ≠ none ∧ ({ prog [] with chain := c, rcnt := 1 } : Context).rcnt = 1 ∧
     ({ prog [] with chain := c, rcnt := 0 } : Context).rcnt ≠ 1) := by
  decide +kernel

/-- The function values at the edges of what R125 leaves unassigned. -/
theorem witness_AluWritesResult :
    ((0 : BitVec 10) = 0 ∨ 15 < (0 : BitVec 10).toNat) ∧ ((16 : BitVec 10) = 0 ∨ 15 < (16 : BitVec 10).toNat) ∧
    ((1023 : BitVec 10) = 0 ∨ 15 < (1023 : BitVec 10).toNat) := by
  decide +kernel

/-- Each condition met and not met; targets at the edges of what R113 lets through. -/
theorem witness_ControlTransfers :
    (let x : Word := 0
     let y : Word := 0xFFFFFFFFFFFFFFFF
     x ≠ y ∧ y.toInt < x.toInt ∧ x.toInt ≥ y.toInt ∧ x.toNat < y.toNat ∧ y.toNat ≥ x.toNat ∧ x = x) ∧
    ((0x00FFFFFFFFFFFFFC : Word).toNat / 2 ^ 56 = 0 ∧ (0x00FFFFFFFFFFFFFC : Word).toNat % 4 = 0) ∧
    (0x0100000000000000 : Word).toNat / 2 ^ 56 ≠ 0 ∧ ((0x00FFFFFFFFFFFFFD : Word).toNat / 2 ^ 56 = 0 ∧ (0x00FFFFFFFFFFFFFD : Word).toNat % 4 ≠ 0) ∧
    ((1 : BitVec 5) ≠ 0 ∨ (0 : BitVec 5) ≠ 0) ∧ ((0 : BitVec 5) ≠ 0 ∨ (31 : BitVec 5) ≠ 0) := by
  decide +kernel

/-- A thread with `n` resident windows whose window stack starts at its local store. -/
def deep (n : Nat) (wsp : Word) : State :=
  small { prog [] with win := 9, wsp := wsp, wins := List.replicate n [(31, 0x40)] }

/-- Seven windows, eight, two, one; a window stack that can be used and one that cannot; the targets of a return. -/
theorem witness_WindowsOpenAndClose :
    ((deep 7 0).me.wins.length < 8 ∧ 6 ≤ (deep 7 0).me.wins.length) ∧
    (8 ≤ (deep 8 0x00F0000000000080).me.wins.length ∧
      stackFault (deep 8 0x00F0000000000080) ⟨0, 0⟩ 0x00F0000000000080 0x00F0000000000080 true = none) ∧
    stackFault (deep 8 1) ⟨0, 0⟩ 1 1 true = some (1, 1) ∧ stackFault (deep 8 0x80) ⟨0, 0⟩ 0x80 0x80 true = some (9, 0x80) ∧
    ((deep 2 0).me.win ≠ 0 ∧ ((deep 2 0).S 31).toNat / 2 ^ 56 = 0 ∧ ((deep 2 0).S 31).toNat % 4 = 0 ∧ 2 ≤ (deep 2 0).me.wins.length) ∧
    ((deep 1 0x00F0000000000080).me.wins.length < 2 ∧
      stackFault (deep 1 0x00F0000000000080) ⟨0, 0⟩ 0x00F0000000000080 (0x00F0000000000080 - 128) false = none) ∧
    stackFault (deep 1 0x80) ⟨0, 0⟩ 0x80 0 false = some (0x0A, 0) ∧ (small (prog [])).me.win = 0 ∧
    (let x := (small { prog [] with win := 1, wins := [[(31, 0x100000000000000)], []] })
     x.me.win ≠ 0 ∧ (x.S 31).toNat / 2 ^ 56 ≠ 0) ∧
    (let x := (small { prog [] with win := 1, wins := [[(31, 6)], []] })
     x.me.win ≠ 0 ∧ (x.S 31).toNat / 2 ^ 56 = 0 ∧ (x.S 31).toNat % 4 ≠ 0) := by
  decide +kernel

/-- Core 0 with bank 31 owned by partition 1, and the thread's slot in partition 0. -/
def banked (x : Context) : State := { small x with cores := [(0, { ctxs := [(0, x)], bankpart1 := 0x1000000000000000 })] }

/-- An address for every clause, at its edges: outside the space, misaligned, reserved, in the host range for an atomic, in a bank
of another partition, in a bank of the thread's own. -/
theorem witness_AccessChecksInOrder :
    (2 ^ 56 ≤ (0x0100000000000000 : Word).toNat) ∧ ((0x00FFFFFFFFEFFFFF : Word).toNat < 2 ^ 56 ∧ (0x00FFFFFFFFEFFFFF : Word).toNat % 8 ≠ 0) ∧
    ((0x00F0000010000000 : Word).toNat / 2 ^ 52 = 0xF ∧ (0x00F0000010000000 : Word).toNat / 2 ^ 28 ≠ 0x00F000000) ∧
    (0x00E0000000000000 : Word).toNat / 2 ^ 52 = 0xE ∧
    ((0x00F00000000F8000 : Word).toNat / 2 ^ 28 = 0x00F000000 ∧ (0x00F00000000F8000 : Word).toNat / 32768 % 32 = 31 ∧
      bitsOf ((banked (prog [])).core 0).bankpart1 63 60 = 1 ∧ (banked (prog [])).me.level = .u ∧ ((banked (prog [])).core 0).partOf 0 = 0) ∧
    ((banked (sup [])).me.level ≠ .u ∧ ∀ j < 16, (SMap.get 0 ((banked (sup [])).core 0).pwin (2 * j + 1)).getLsbD 3 = false) := by
  decide +kernel

/-- The alias resolves at both its ends. -/
theorem witness_AccessChecksInOrder_alias :
    (0x00FFFFFFFFF00000 ≤ (0x00FFFFFFFFF00000 : Word).toNat ∧ (0x00FFFFFFFFFFFFFF : Word).toNat < 2 ^ 56) ∧
    ¬ (0x00FFFFFFFFF00000 ≤ (0x00FFFFFFFFEFFFFF : Word).toNat) := by
  decide +kernel

/-- A local-store address passes at each size, and a misaligned one, or one with no translation, fails. -/
theorem witness_LoadsReadMemory :
    (∃ t s' l, checkMe loaded (loaded.S 1 + loaded.me.imm 0) { r := true, size := 8 } = (.ok t, s') ∧ reading s' t = .ok l) ∧
    (∃ t s' l, checkMe loaded (loaded.S 1 + loaded.me.imm 1) { r := true, size := 1 } = (.ok t, s') ∧ reading s' t = .ok l) ∧
    (∃ c s', checkMe loaded (loaded.S 1 + loaded.me.imm 1) { r := true, size := 2 } = (.error c, s')) ∧
    (∃ c s', checkMe loaded (loaded.S 0 + loaded.me.imm 0) { r := true, size := 4 } = (.error c, s')) ∧
    (Loc.ls 0x00F0000000000000).isMain = false :=
  ⟨meets_ok (by decide +kernel), meets_ok (by decide +kernel), passes_error (by decide +kernel), passes_error (by decide +kernel), rfl⟩

/-- Core 0 with a queued copy of its own that still has to read the block at the start of its local store. -/
def inFlight : State :=
  let b : Barge := { st := .queued, direct := true, tid := 1, cmd := { word := 0x70200600, td := (0x00F0000000001000 : BitVec 128) + 3 * 2 ^ 56 + 3 * 2 ^ 60 + 8 * 2 ^ 68 + 8 * 2 ^ 79, ta := (0x00F0000000000000 : BitVec 128) + 3 * 2 ^ 56 + 3 * 2 ^ 60 + 8 * 2 ^ 68 + 8 * 2 ^ 79 } }
  { loaded with cores := [(0, { ctxs := [(0, loaded.me)], engines := [(0, { recs := [(0, b)], queue := [0] })] })] }

theorem witness_StoresWriteMemory :
    (∃ t s' a, checkMe loaded (loaded.S 1 + loaded.me.imm 0) { w := true, size := 8 } = (.ok t, s') ∧ storing 8 s' t = .ok a) ∧
    (∃ c s', checkMe loaded (loaded.S 1 + loaded.me.imm 7) { w := true, size := 2 } = (.error c, s')) ∧
    hazard loaded (loaded.S 1).toNat = false ∧ hazard inFlight (inFlight.S 1).toNat = true ∧
    (∃ t s', checkMe inFlight (inFlight.S 1) { w := true, size := 8 } = (.ok t, s')) :=
  ⟨meets_ok (by decide +kernel), passes_error (by decide +kernel), by decide +kernel, by decide +kernel, passes_ok (by decide +kernel)⟩

theorem witness_ElementAndDescriptorAccesses :
    (∃ t s' l, checkMe loaded (loaded.S 1) { r := true, size := 1, align := false, ldx := true } = (.ok t, s') ∧ reading s' t = .ok l) ∧
    (∃ c s', checkMe loaded (loaded.S 0) { r := true, size := 1, align := false, ldx := true } = (.error c, s')) ∧
    ldxValue (0, 0x8000) 0 = .ok (0, 0) ∧ ldxValue (0, 0) 0 = .error 0x12 ∧
    (∃ t s' l, checkMe loaded (loaded.S 1) { r := true, size := 16 } = (.ok t, s') ∧ reading s' t = .ok l) ∧ (∃ c s', checkMe loaded (loaded.S 1 + 8) { r := true, size := 16 } = (.error c, s')) ∧
    (∃ t s' a, checkMe loaded (loaded.S 1) { w := true, size := 16 } = (.ok t, s') ∧ storing 16 s' t = .ok a) ∧ (∃ c s', checkMe loaded (loaded.S 1 + 8) { w := true, size := 16 } = (.error c, s')) :=
  ⟨meets_ok (by decide +kernel), passes_error (by decide +kernel), by decide +kernel, by decide +kernel, meets_ok (by decide +kernel),
   passes_error (by decide +kernel), meets_ok (by decide +kernel), passes_error (by decide +kernel)⟩

/-- A waiting thread with each end of its wait, and each count of acknowledgements. -/
theorem witness_RepliesRetire :
    (let s := small { prog [] with pend := .reply, lateFlags := 1 }
     (s.ctxOf ⟨0, 0⟩).st = .bound ∧ (s.ctxOf ⟨0, 0⟩).acksDue = 0 ∧ (s.ctxOf ⟨0, 0⟩).pend = .reply) ∧
    ((small { prog [] with pend := .landed }).ctxOf ⟨0, 0⟩).pend = .landed ∧
    ((small { prog [] with pend := .reply, acksDue := 1 }).ctxOf ⟨0, 0⟩).acksDue = 1 ∧
    1 < ((small { prog [] with pend := .reply, acksDue := 2 }).ctxOf ⟨0, 0⟩).acksDue := by
  decide +kernel

/-- A tile of order 10 has a sub-tile one level down and none eleven levels down; and one of order 0 has none. -/
theorem witness_DescriptorInstructions :
    (subTile ((10 : BitVec 128) <<< 56 ||| 3 <<< 60 ||| 1024 <<< 68 ||| 1024 <<< 79) 7 0).isSome = true ∧ subTile ((3 : BitVec 128) <<< 60 ||| 1 <<< 68 ||| 1 <<< 79) 1 0 = none ∧
    PathBad 0x1D00000000000000 ∧ ¬ PathBad 0x0700000000003FFF := by
  unfold PathBad; decide +kernel

/-- `loaded`, with its thread waiting for the answer of a message. -/
def asked : State := loaded.setMe { loaded.me with pend := .message }

/-- The party of a request of context 0 of core 0 that stands for itself. -/
def standing (s : State) (i : Instr) : Who := { whoOf s ⟨0, 0⟩ with self := some i }

/-- A home gate stays shut, or opens. -/
def shut (r : Except State State) : Bool := match r with | .ok _ => false | .error _ => true

theorem shut_ok {r : Except State State} (h : shut r = false) : ∃ s, r = .ok s := by
  rcases r with _ | s
  · cases h
  · exact ⟨s, rfl⟩

theorem shut_error {r : Except State State} (h : shut r = true) : ∃ s, r = .error s := by
  rcases r with s | _
  · exact ⟨s, rfl⟩
  · cases h

/-- An atomic request to main memory, and the same machine with its granule in motion, or with its line's owner elsewhere. -/
def amoReq : AtomicReq := ⟨{ loc := .main 64 }, 8, .add, 1, ⟨0, 0⟩, 3⟩
def unsteady : State := { asked with micro := { asked.micro with moving := [(0, 1)] } }
def owned : State := { asked with micro := { asked.micro with home := [(1, { st := .o, owner := 5 })] } }

/-- An atomic access passes and fails, with and without a barge in the way; its home serves it, answers RETRY, or recalls the line
first; a bank that the thread owns and one that it has lost. -/
theorem witness_AtomicsActAtTheirHomes :
    (∃ t s', checkMe loaded (loaded.S 1) { r := true, w := true, size := 8, atomic := true } = (.ok t, s')) ∧
    (∃ c s', checkMe loaded (loaded.S 1 + 4) { r := true, w := true, size := 8, atomic := true } = (.error c, s')) ∧
    (∃ t s', checkMe inFlight (inFlight.S 1) { r := true, w := true, size := 4, atomic := true } = (.ok t, s')) ∧
    (hazard loaded (loaded.S 1).toNat = false ∧ hazard inFlight (inFlight.S 1).toNat = true) ∧
    (Awaits asked ⟨0, 0⟩ ∧ (0xFFFFFFFF : Word).toNat < 2 ^ (8 * 4)) ∧
    ((∃ u, atomicGate asked (standing asked (.homeAtomic amoReq)) amoReq.t = .ok u) ∧ (∃ u, atomicGate unsteady (standing unsteady (.homeAtomic amoReq)) amoReq.t = .error u) ∧
      ∃ u, atomicGate owned (standing owned (.homeAtomic amoReq)) amoReq.t = .error u) ∧
    (bankOwned asked (standing asked (.homeAtomic amoReq)) 0x00F0000000000000 = true ∧
      bankOwned (banked (prog [])) (standing (banked (prog [])) (.homeAtomic amoReq)) 0x00F00000000F8000 = false) :=
  ⟨passes_ok (by decide +kernel), passes_error (by decide +kernel), passes_ok (by decide +kernel), by decide +kernel, by unfold Awaits; decide +kernel,
   ⟨shut_ok (by decide +kernel), shut_error (by decide +kernel), shut_error (by decide +kernel)⟩, by decide +kernel⟩

/-- Queue 1 with a ring of two records at 0x1000, and at the start of the local store a join block that counts `cnt` and names
queue `q`; the thread waits for an answer. -/
def queued (w1 head tail cnt q : Nat) : State :=
  { small { prog [(1, 1), (2, 0x00F0000000000000)] with pend := .message } with
    mem := (Memory.writeBytes [] 64 (natToBytes 32 (0x1000 + w1 * 2 ^ 64 + head * 2 ^ 128 + tail * 2 ^ 192))).writeBytes 0x00F0000000000000
      (natToBytes 16 (cnt + q * 2 ^ 64)) }

/-- A join block that counts 0, 1 and 2, with a queue that takes the record and one that does not. -/
theorem witness_JoinCountsDown :
    (∃ t s', checkMe loaded (loaded.S 1) { r := true, w := true, size := 128, atomic := true } = (.ok t, s')) ∧
    (∃ c s', checkMe loaded (loaded.S 3) { r := true, w := true, size := 128, atomic := true } = (.error c, s')) ∧
    (let t : Loc := .ls 0x00F0000000000000
     Awaits (queued 0xE1 0 1 1 1) ⟨0, 0⟩ ∧ bytesToNat ((queued 0xE1 0 1 0 1).bytesAt t 8) = 0 ∧ 1 < bytesToNat ((queued 0xE1 0 1 2 1).bytesAt t 8) ∧
     bytesToNat ((queued 0xE1 0 1 1 1).bytesAt t 8) = 1 ∧ bytesToNat ((queued 0xE1 0 1 1 1).bytesAt (t.add 8) 8) = 1 ∧
     queueRefusal (queued 0xE1 0 1 1 1) 1 true true = none ∧ queueRefusal (queued 0xE1 0 2 1 1) 1 true true = some (0x18, 1)) ∧
    ((0x0100000000000001 : Word).toNat ≥ 2 ^ 56 ∧ (0x00F00000000000C0 : Word).toNat < 2 ^ 56 ∧ (0x00F00000000000C0 : Word).toNat % 128 ≠ 0) ∧
    ((queued 0xE1 0 1 1 1).delivered (.main (128 + 64)) = true ∧ ({ queued 0xE1 0 1 1 1 with poison := [3] } : State).delivered (.main (128 + 64)) = false) ∧
    ((∃ u, atomicGate asked (standing asked (.homeJoin amoReq.t ⟨0, 0⟩ 3)) amoReq.t = .ok u) ∧ ∃ u, atomicGate unsteady (standing unsteady (.homeJoin amoReq.t ⟨0, 0⟩ 3)) amoReq.t = .error u) :=
  ⟨passes_ok (by decide +kernel), passes_error (by decide +kernel), by unfold Awaits; decide +kernel, by decide +kernel, by decide +kernel,
   shut_ok (by decide +kernel), shut_error (by decide +kernel)⟩

/-- A descriptor that is sound and ones that are not; a full queue and one that is not; the ids at the table's edge; the four reply
slots taken, and the first free. -/
theorem witness_QueueInstructionsCheckAndSend :
    (queued 0xE1 0 1 0 0).queueDesc 1 = some ⟨0x1000, 1, true, true, 0, 1⟩ ∧ (queued 0xC1 0 1 0 0).queueDesc 1 = none ∧
    (queued 0xE0 0 1 0 0).queueDesc 1 = none ∧
    ((queued 0xE1 0 1 0 0).delivered (.main 64) = true ∧ ({ queued 0xE1 0 1 0 0 with poison := [1] } : State).delivered (.main 64) = false) ∧
    queueRefusal (queued 0xE1 0 1 0 0) 4096 true true = some (0x01, 4096) ∧ queueRefusal (queued 0xE1 0 1 0 0) 4095 true true = some (0x01, 4095) ∧
    queueRefusal (queued 0xA1 0 1 0 0) 1 true true = some (0x04, 1) ∧ queueRefusal (queued 0xA1 0 1 0 0) 1 true false = none ∧
    (SMap.get 0 ({ prog [] with rstate := [(0, 1), (1, 2), (2, 1), (3, 1)] } : Context).rstate 3 ≠ 0 ∧ SMap.get 0 (prog []).rstate 0 = 0) ∧
    ((256 : Word).toNat ≥ 256 ∧ (255 : Word).toNat < 256) ∧
    (passes loaded (loaded.S 1) { r := true, size := 64 } = true ∧ passes loaded (loaded.S 1) { w := true, size := 64 } = true ∧
      passes loaded (loaded.S 1 + 8) { r := true, size := 64 } = false ∧ passes loaded (loaded.S 1 + 8) { w := true, size := 64 } = false) := by
  decide +kernel

/-- The same queue in a granule in motion. -/
def queuedMoving : State := { queued 0xE1 0 1 0 0 with micro := { ({} : Micro) with moving := [(0, 1)] } }

/-- A request at the queue's home that is served and one that has to come again; a queue that takes and one that refuses, one that holds a record, and an empty one. -/
theorem witness_QueuesAppendAndTake :
    (Awaits (queued 0xE1 0 1 0 0) ⟨0, 0⟩ ∧ queueRefusal (queued 0xE1 0 1 0 0) 1 true true = none ∧ SMap.get [] (queued 0xE1 0 1 0 0).waiters 1 = []) ∧
    queueRefusal (queued 0xE1 0xFFFFFFFF 1 0 0) 1 true true = some (0x18, 1) ∧
    (queueRefusal (queued 0xE1 0 1 0 0) 1 true false = none ∧ (queued 0xE1 0 1 0 0).queueDesc 1 = some ⟨0x1000, 1, true, true, 0, 1⟩) ∧
    (queueRefusal (queued 0xE1 5 5 0 0) 1 true false = none ∧ (queued 0xE1 5 5 0 0).queueDesc 1 = some ⟨0x1000, 1, true, true, 5, 5⟩) ∧
    queueRefusal (queued 0x61 0 1 0 0) 1 true false = some (0x04, 1) ∧
    ((queued 0xE1 0 1 0 0).regionLine (0x1040 / 64) = none ∧ (Loc.ls 0x00F0000000000000).isMain = false) ∧
    ((∃ u, queueGate (queued 0xE1 0 1 0 0) 1 0 (.homeEnqueue ⟨1, 0, true, none, ⟨0, 0⟩, 3⟩) = .ok u) ∧
      (∃ u, queueGate queuedMoving 1 0 (.homeEnqueue ⟨1, 0, true, none, ⟨0, 0⟩, 3⟩) = .error u) ∧
      (∃ u, queueGate (queued 0xE1 0 1 0 0) 1 0 (.homeDequeue ⟨1, { loc := .ls 0x00F0000000000000 }, true, true, ⟨0, 0⟩, 3, 0x00F0000000000000⟩) = .ok u) ∧
      ∃ u, queueGate queuedMoving 1 0 (.homeDequeue ⟨1, { loc := .ls 0x00F0000000000000 }, true, false, ⟨0, 0⟩, 3, 0x00F0000000000000⟩) = .error u) :=
  ⟨by unfold Awaits; decide +kernel, by decide +kernel, by decide +kernel, by decide +kernel, by decide +kernel, by decide +kernel,
   shut_ok (by decide +kernel), shut_error (by decide +kernel), shut_ok (by decide +kernel), shut_error (by decide +kernel)⟩

/-- Routes and slots at their edges, in each state. -/
theorem witness_RepliesFillSlots :
    ((0x7FDF : Word).toNat < 2 ^ 15 ∧ (0x7FDF : Word).toNat / 4 % 32 = 23) ∧ (0x7FE0 : Word).toNat / 4 % 32 > 23 ∧ (0x8000 : Word).toNat ≥ 2 ^ 15 ∧
    (SMap.get 0 ({ prog [] with rstate := [(3, 2)] } : Context).rstate 3 = 2 ∧ SMap.get 0 ({ prog [] with rstate := [(3, 1)] } : Context).rstate 3 = 1 ∧
      SMap.get 0 (prog []).rstate 3 = 0 ∧ 3 < (4 : Word).toNat) ∧
    (Awaits asked ⟨0, 0⟩ ∧ (asked.ctxOf ⟨0, 23⟩).st = .free ∧
      (let s := two [] { prog [] with rstate := [(3, 1)], wait := waitWord 2 3, pend := .reissue }
       (s.ctxOf ⟨0, 1⟩).st ≠ .free ∧ SMap.get 0 (s.ctxOf ⟨0, 1⟩).rstate 3 = 1 ∧ (s.ctxOf ⟨0, 1⟩).wait = waitWord 2 3 ∧ (s.ctxOf ⟨0, 1⟩).pend = .reissue)) := by
  unfold Awaits; decide +kernel

/-- A thread that has taken the record `l`, which it is to write at `t`. -/
def took (t : Target) : State := small { prog [] with wait := waitWord 5 1, pend := .record t 64 77 }

/-- Its write of the record. -/
def writes (t : Target) : Except State Stored :=
  let s1 : State := { (took t).setCtx ⟨0, 0⟩ { (took t).ctxOf ⟨0, 0⟩ with miss := none } with cur := ⟨0, 0⟩ }
  storeLine s1 s1.myWho t (natToBytes 64 (77 : LineData).toNat) (some 0) false

/-- A tile program; the supervisor with and without a record; a thread that can be woken and one that cannot; a record whose line is
at hand and one whose line is not. -/
theorem witness_WorkWaits :
    (small (prog [])).me.slot ≠ 15 ∧ ((small (sup [])).me.slot = 15 ∧ (small (sup [])).myCore.sq = []) ∧
    (({ small (sup []) with cores := [(0, { ctxs := [(0, sup [])], sq := [⟨0, 0, 0, 0⟩] })] } : State).myCore.sq ≠ []) ∧
    (let s := small { prog [] with wait := waitWord 2 1, pend := .reissue }
     (s.ctxOf ⟨0, 0⟩).st = .bound ∧ (s.ctxOf ⟨0, 0⟩).pend = .reissue ∧ (s.ctxOf ⟨0, 0⟩).waitKind ≠ 4) ∧
    (loaded.ctxOf ⟨0, 23⟩).st ≠ .bound ∧
    ((took { loc := .main 64 }).ctxOf ⟨0, 0⟩).pend = .record { loc := .main 64 } 64 77 ∧
    (writes { loc := .ls 0x00F0000000000000 }).toOption.isSome = true ∧ (writes { loc := .main 64 }).toOption.isNone = true := by
  decide +kernel

/-- The private queue of core 0 with one record of RCB 3, whose registration is `g`; the thread waits in WAITW if `idle`. -/
def dispatch (g : RcbReg) (tail : Nat) (idle : Bool) (taken : Bool) : State :=
  let x : Context := { prog [] with rcb := 3, wait := if idle then waitWord 6 0 else 0, pend := if idle then .work else .none }
  let rcd : LineData := 0x2000 + 0x3000 * 2 ^ 64 + 3 * 2 ^ 448
  { small x with
    mem := (Memory.writeBytes [] 0x3C000 (natToBytes 32 (0x1000 + 0xE1 * 2 ^ 64 + tail * 2 ^ 192))).writeBytes 0x1000 (natToBytes 64 rcd.toNat)
    rcbs := SMap.set {} [] 3 g
    dispensers := SMap.set {} [] 0 { regs := [3], taken := if taken then [(0xF00, rcd)] else [] } }

/-- An RCB of partition 0 with the slots and cores of a cluster, and a save pool in core 0's local store. -/
def unit3 : RcbReg := { launched := true, priority := 4, slotMask := 0x7FFF, coreMask := 0xF, saveBase := 0x00F0000000040000, saveAreas := 8 }

/-- A dispenser with no head and one with a head; a record for a waiting thread, for a vacant slot, for nobody, and a bad one;
an affinity wait that has run out and one that has not. -/
theorem witness_DispensersTakeAndBind :
    ((dispatch unit3 0 true false).micro.lineMoving (((dispatch unit3 0 true false).qtable + 64 * 0xF00) / 64) = false ∧
      ({ dispatch unit3 0 true false with micro := { ({} : Micro) with moving := [(0x3C, 1)] } } : State).micro.lineMoving (((dispatch unit3 0 true false).qtable + 64 * 0xF00) / 64) = true) ∧
    (hasTarget (dispatch unit3 0 true false) 0 0xF00 = true ∧ hasTarget (dispatch { unit3 with exhausted := true } 0 true false) 0 0xF00 = false) ∧
    (0 ∉ (dispatch unit3 0 true false).queuesOf 0 ∧ 0xF00 ∈ (dispatch unit3 0 true false).queuesOf 0) ∧
    dispenserHeads (((dispatch unit3 0 true false).queuesOf 0).foldl (fun s q => seeHead s 0 q) (withdraw (trackRuns (dispatch unit3 0 true false) 0) 0xF00)) 0 = [] ∧
    dispenserHeads (((dispatch unit3 1 true false).queuesOf 0).foldl (fun s q => seeHead s 0 q) (withdraw (trackRuns (dispatch unit3 1 true false) 0) 0xF00)) 0 = [⟨0xF00, 3, 4, false⟩] ∧
    ((dispatch unit3 1 true true).bindTarget 0 0xF00 3 = some (.waiting ⟨0, 0⟩) ∧ (dispatch unit3 1 true true).badRecord (workRec (0x2000 + 0x3000 * 2 ^ 64 + 3 * 2 ^ 448)) = false) ∧
    (dispatch unit3 1 false true).bindTarget 0 0xF00 3 = some (.slot 0 1) ∧
    (dispatch { unit3 with exhausted := true } 1 true true).bindTarget 0 0xF00 3 = none ∧
    ((dispatch {} 1 true true).badRecord (workRec (0x2000 + 0x3000 * 2 ^ 64 + 3 * 2 ^ 448)) = true ∧ ((dispatch {} 1 true true).core 0).sq.length < 64 ∧
      ((dispatch {} 1 true true).core 0).heldSq = []) ∧
    ((SMap.get {} (dispatch unit3 1 true true).dispensers 0).taken.find? (fun e => decide (e.1 = 0xF00))).isSome = true ∧
    (let ds : Dispenser := { firstSeen := [(7, 1)] }
     SMap.get 0 ds.firstSeen 7 ≠ 0 ∧ 4095 + 1 < 1 + 2 ^ 12 ∧ 1 + 2 ^ 12 ≤ 4096 + 1 ∧ SMap.get 0 ds.firstSeen 8 = 0) := by
  decide +kernel

/-- A machine whose tables map the ordinary range onto main memory, with round region 5 over the block at 0x100000. -/
def paged (x : Context) : State := { small x with
  mem := (((Memory.writeBytes [] 0 (natToBytes 8 0x800001)).writeBytes 0x780 (natToBytes 8 0x10000000)).writeBytes 0x800 (natToBytes 8 0xE2)).writeBytes
    0x10000 (natToBytes 8 0x16000)
  cores := [(0, { ctxs := [(0, x)], troot := 1 })]
  regions := [(5, { base := 0x100000, height := 10, counter := 7, subscribers := 1 })] }

/-- The same with the granule of the region's descriptor in motion. -/
def pagedMoving (x : Context) : State := { paged x with micro := { ({} : Micro) with moving := [(0x100000 / 4096, 1)] } }

/-- Main memory: the line of a load and of a store has to be fetched. -/
theorem witness_LoadsReadMemory_main :
    (∃ t s' u, checkMe (paged (prog [])) 0x200008 { r := true, size := 8 } = (.ok t, s') ∧ reading s' t = .error u) ∧
    (∃ t s' u, checkMe (paged (prog [])) 0x200008 { w := true, size := 8 } = (.ok t, s') ∧ storing 8 s' t = .error u) ∧
    (let m : Micro := { l1d := [(0, [(8, ⟨.x, ⟨0, 0, 0, 0, 0, 0⟩, 0, none, 0, false, false, false⟩)])] }
     (m.copyAt 0 (Loc.main 512).line).map (·.st) = some .x ∧ (Loc.main 512).isMain = true) :=
  ⟨meets_wait (by decide +kernel), meets_wait (by decide +kernel), by decide +kernel⟩

/-- Whether the access passes, and the round region of its target. -/
def regionOf (s : State) (ea : Word) (n : Need) : Option (Option Nat) := match (checkMe s ea n).1 with | .ok t => some t.region | .error _ => none

theorem regionOf_some {s : State} {ea : Word} {n : Need} {r : Option Nat} (h : regionOf s ea n = some r) :
    ∃ t s', checkMe s ea n = (.ok t, s') ∧ t.region = r := by
  unfold regionOf at h
  rcases hc : checkMe s ea n with ⟨_ | t, s'⟩
  · rw [hc] at h; cases h
  · rw [hc] at h; exact ⟨t, s', rfl, Option.some.inj h⟩

/-- In the region, outside every region, and not mapped at all; a floor of the region, a free floor and eight floors of others. -/
theorem witness_RoundMembersAct :
    (∃ t s', checkMe (paged (prog [])) 0x100000 { w := true, size := 1 } = (.ok t, s') ∧ t.region = some 5) ∧
    (∃ t s', checkMe (paged (prog [])) 0x1FFFFF { r := true, size := 1 } = (.ok t, s') ∧ t.region = some 5) ∧
    (∃ t s', checkMe (paged (prog [])) 0x200000 { r := true, size := 1 } = (.ok t, s') ∧ t.region = none) ∧
    (∃ c s', checkMe (small (prog [])) 0x100000 { r := true, size := 1 } = (.error c, s')) ∧
    ((paged (prog [])).regionOn 5 = some { base := 0x100000, height := 10, counter := 7, subscribers := 1 } ∧ ((paged (prog [])).core 0).viewOf 5 = none) ∧
    ((paged (prog [])).micro.lineMoving (0x100000 / 64) = false ∧ (pagedMoving (prog [])).micro.lineMoving (0x100000 / 64) = true) ∧
    (needsWalk (paged (prog [])) 0 0x100000 = true ∧ needsWalk (paged (prog [])) 0 0x00F0000000000000 = false ∧ waitWord 1 0x100000 ≠ 0) ∧
    (let f : Word := 0x8000000500000007
     f.getLsbD 63 = true ∧ f.toNat / 2 ^ 32 % 2 ^ 12 = 5 ∧ (SMap.get 0 (prog []).floors 0).getLsbD 63 = false) ∧
    ((0xFFFFFFFF : Word).toNat < 2 ^ 32 ∧ 2 ^ 32 ≤ (0x100000000 : Word).toNat) :=
  ⟨regionOf_some (by decide +kernel), regionOf_some (by decide +kernel), regionOf_some (by decide +kernel), passes_error (by decide +kernel),
   by decide +kernel, by decide +kernel, by decide +kernel, by decide +kernel, by decide +kernel⟩

/-- An enabled region and one that is not; a round ahead of a slice's view and one that is not; a stalled request. -/
theorem witness_RoundsArePublished :
    (Awaits ((paged (prog [])).setMe { prog [] with pend := .message }) ⟨0, 0⟩ ∧ ((paged (prog [])).regionOn 5).isSome = true ∧ (paged (prog [])).regionOn 4095 = none ∧
      (pagedMoving (prog [])).micro.lineMoving (0x100000 / 64) = true) ∧
    (let p : Stalled := ⟨3, 5, 8, 0x100000, .nop, false⟩
     p.out = false ∧ ((8 : BitVec 32) - p.q).toNat < 2 ^ 31 ∧ 2 ^ 31 ≤ ((7 : BitVec 32) - p.q).toNat ∧ ({ p with out := true } : Stalled).out = true) ∧
    (2 ^ 31 ≤ ((7 : BitVec 32) - 8).toNat ∧ ((8 : BitVec 32) - 8).toNat < 2 ^ 31 ∧ ((0 : BitVec 32) - 0xFFFFFFFF).toNat < 2 ^ 31) := by
  unfold Awaits; decide +kernel

/-- The region with the line of 0x100008 in the core's L1, as round 7 filled it, and in none. -/
def heldLine : State := { paged (prog []) with
  cores := [(0, { ctxs := [(0, prog [])], troot := 1, views := [⟨5, 7⟩] })]
  micro := { ({} : Micro) with l1d := [(0, [(0x100008 / 64, ⟨.v, ⟨5, 0, 0, 8, 7, 3⟩, 7, some 5, 0, false, false, false⟩)])] } }

/-- A bounded request at its home: the party and the machine as the step takes it up. -/
def atHome (s : State) : State × Who :=
  let s1 : State := { s with cur := ⟨0, 0⟩, stalled := [] }
  (s1, { s1.myWho with self := some (.boundedRequest 0 0) })

/-- Loads in the region and outside; a copy that serves the round and none; a home ahead of the round, and one behind it; a request that
the home takes up and one that it cannot. -/
theorem witness_BoundedLoadsAct :
    (∃ t s', checkMe (paged (prog [])) 0x100008 { r := true, size := 8 } = (.ok t, s') ∧ t.region = some 5) ∧
    (∃ t s', checkMe (paged (prog [])) 0x200008 { r := true, size := 8 } = (.ok t, s') ∧ t.region = none) ∧
    (∃ c s', checkMe (paged (prog [])) 0x100004 { r := true, size := 8 } = (.error c, s')) ∧
    (let s := paged (prog [])
     let t : Target := { loc := .main 0x100008, region := some 5 }
     (serveBounded heldLine heldLine.myWho t 5 7 true).isSome = true ∧ (serveBounded heldLine heldLine.myWho t 5 8 true).isNone = true ∧
     (serveBounded s s.myWho t 5 0 true).isNone = true ∧ (s.homeView 5 0x100008 - 0).toNat < 2 ^ 31 ∧ 2 ^ 31 ≤ (s.homeView 5 0x100008 - 8).toNat ∧
     s.micro.copyAt 0 (0x100008 / 64) = none ∧ s.micro.l2At 0 (0x100008 / 64) = none) ∧
    ((0x7FFFFFFF : Word).toNat < 2 ^ 31 ∧ 2 ^ 31 ≤ (0x80000000 : Word).toNat) ∧
    (let x := { prog [] with pend := .bounded 3 8 true 1 { loc := .main 0x100008, region := some 5 } 0x100008 }
     ((paged x).ctxOf ⟨0, 0⟩).st = .bound ∧ ((paged x).regionOn 5).isSome = true ∧ ({ paged x with regions := [] } : State).regionOn 5 = none ∧ ((paged x).ctxOf ⟨0, 0⟩).acksDue = 0) ∧
    ((∃ u, accessGate (atHome (paged (prog []))).1 (atHome (paged (prog []))).2 (0x100008 / 64) .gets = .ok u) ∧
      ∃ u, accessGate (atHome (pagedMoving (prog []))).1 (atHome (pagedMoving (prog []))).2 (0x100008 / 64) .gets = .error u) :=
  ⟨regionOf_some (by decide +kernel), regionOf_some (by decide +kernel), passes_error (by decide +kernel), by decide +kernel, by decide +kernel,
   by decide +kernel, shut_ok (by decide +kernel), shut_error (by decide +kernel)⟩

/-- A handle of the core's own and what each of its entry's states asks; counts and bytes at their edges. -/
theorem witness_BarriersFollowTheRule :
    ((bar {} 1).B 2 = 0x80005 ∧ (0x80005 : BitVec 32).getLsbD 19 = true ∧ (0x80005 : BitVec 32).toNat / 2 ^ 11 % 256 = 0) ∧
    ((bar {} 0).S 1).toNat < 1 ∧ 2 ^ 16 ≤ ((bar {} 65536).S 1).toNat ∧ (1 ≤ ((bar {} 65535).S 1).toNat ∧ ((bar {} 65535).S 1).toNat < 2 ^ 16) ∧
    (((bar {} 1).core 0).barrier 5).expected = 0 ∧ (((bar { expected := 2, remaining := 1, armed := true } 1).core 0).barrier 5).armed = true ∧
    (((bar { expected := 2, remaining := 0, armed := true } 1).core 0).barrier 5).remaining = 0 ∧
    (((bar { expected := 2, remaining := 2, part := 1 } 1).core 0).barrier 5).part ≠ ((bar {} 1).core 0).partOf (bar {} 1).me.slot ∧
    (2 ^ 39 ≤ (0x8000000000 : Word).toNat ∧ (0x7FFFFFFFFF : Word).toNat < 2 ^ 39) ∧ ((bar {} 1).core 0).bwaiters = [] ∧
    ((1 : Word).getLsbD 0 = true ∧ (2 : Word).getLsbD 0 = false) := by
  decide +kernel

/-- A handle that is not valid, one of another core, and the edges of the handle layout; a message at an entry free to all, and one
that is not. -/
theorem witness_BarrierMessagesAct :
    ((small { prog [] with handles := [(2, 0x7FFFF)] }).B 2).getLsbD 19 = false ∧
    (((small { prog [] with handles := [(2, 0x80805)] }).B 2).getLsbD 19 = true ∧ ((small { prog [] with handles := [(2, 0x80805)] }).B 2).toNat / 2 ^ 11 % 256 ≠ 0) ∧
    ((0xFFFFF : Word).toNat < 2 ^ 20 ∧ 2 ^ 20 ≤ (0x100000 : Word).toNat) ∧
    (let s := asked.setCore 1 { asked.core 1 with barriers := [(2047, { expected := 2, remaining := 1, armed := true })] }
     Awaits s ⟨0, 0⟩ ∧ (s.core 1).bwaiters = [] ∧ ((s.core 1).barrier 2047).expected ≠ 0 ∧ ((s.core 1).barrier 2047).remaining ≠ 0 ∧
     ((s.core 1).barrier 2047).armed = true ∧ ((s.core 1).barrier 2047).part = 0 ∧ ((s.core 1).barrier 0).expected = 0) := by
  unfold Awaits; decide +kernel

/-- Control words with a stray bit, of size 0, of a size at each edge and beyond it; a basin that is free, full, filled and empty. -/
theorem witness_BasinsAct :
    (0x60149 : Nat) / 2 ^ 6 % 4 ≠ 0 ∧ (0x109 : Nat) / 2 ^ 16 % 32 = 0 ∧
    (let base := 0x00F0000000000000
     (0 ≤ 8 ∧ 6 ≤ 6 ∧ base / 0x100000 = 0x00F0000000000000 / 0x100000 + 0 % 256 ∧ base % 2 ^ (8 + 12) = 0) ∧ ¬ (8 + 13 ≤ 20)) ∧
    (let b : Basin := { k := 1, j := 6, enabled := true, claim := 2 }
     (2 : Int) ^ b.k - ((b.claim : Int) - b.release) % 512 ≤ 0 ∧ b.commit ≠ b.claim ∧ b.commit = b.take ∧ b.release = b.take) ∧
    (let b : Basin := { k := 1, j := 6, enabled := true, release := 511, claim := 0, commit := 0, take := 0 }
     0 < (2 : Int) ^ b.k - ((b.claim : Int) - b.release) % 512 ∧ b.commit = b.claim ∧ b.release ≠ b.take) ∧
    (({} : Basin).enabled = false ∧ 63 < (64 : Word).toNat ∧ (63 : Word).toNat ≤ 63) := by
  decide +kernel

/-- A tile descriptor of order `n`, format `f` and `m` rows and columns. -/
def tile (base n f m : Nat) : BitVec 128 := BitVec.ofNat 128 (base + n * 2 ^ 56 + f * 2 ^ 60 + m * 2 ^ 68 + m * 2 ^ 79)

/-- A thread with tiles t0 to t2: an i8 tile of its local store, another one, and a raw one. -/
def tiled : Context := { prog [(6, 8), (7, 0x100)] with
  tiles := [(0, tile 0x00F0000000001000 3 1 8), (1, tile 0x00F0000000002000 3 1 8), (2, tile 0x00F0000000003000 3 0 8), (3, tile 0 0 0 0)] }

/-- The words of BCOPY t0, t1 and of VADD t0, t1, t1. -/
def copyCmd : Command := { word := 0x70020000, td := tile 0x00F0000000001000 3 1 8, ta := tile 0x00F0000000002000 3 1 8 }
def addCmd : Command := { copyCmd with word := 0x90022001, tb := tile 0x00F0000000002000 3 1 8 }

/-- Commands that pass their checks and ones that fail; an engine that can take one and one that cannot. -/
theorem witness_EngineCommandsFork :
    (encode (.bcopy 0 1 0) = some 0x70020000 ∧ encode (.vadd 0 1 1 0) = some 0x90022001) ∧
    (checkCmd (small tiled) 0 copyCmd = none ∧ checkCmd (small tiled) 0 addCmd = none ∧
      checkCmd (small tiled) 0 { copyCmd with td := tile 0 0 0 0 } = some (0x10, 0)) ∧
    CanTake ((small tiled).core 0) 0 ∧ ¬ CanTake { engines := [(0, { queue := [1, 2] })] } 0 ∧
    (({ prog [] with pend := .engine 0 copyCmd } : Context).st = .bound ∧ ({ prog [] with pend := .engine 0 copyCmd } : Context).pend = .engine 0 copyCmd) ∧
    ((small tiled).core 255).bwaiters = [] := by
  unfold CanTake; decide +kernel

/-- The classes of format, a descriptor that is good and ones that are not, in each way; each clause of the two checks. -/
theorem witness_EngineChecksAndFaults :
    (fclass 4 = .b32 ∧ fclass 1 = .b8 ∧ encode (.bcopy 0 1 0) = some copyCmd.word ∧ encode (.vadd 0 1 1 0) = some addCmd.word) ∧
    ((Tile.ofBits (tile 0x00F0000000001000 3 1 8)).valid = true ∧ (Tile.ofBits (tile 0x00F0000000001000 3 1 9)).valid = false ∧
      (Tile.ofBits (tile 0x00F0000010000000 3 1 8)).valid = true ∧ (Tile.ofBits (tile 0x00F0000000001000 11 1 8)).valid = false) ∧
    (checkCmd (small tiled) 0 { copyCmd with ta := tile 0x00F0000010000000 3 1 8 } = some (0x01, 1) ∧
      checkCmd (small tiled) 0 { copyCmd with ta := tile 0x00F0000000002000 3 1 7 } = some (0x13, 1) ∧
      checkCmd (small tiled) 0 { copyCmd with ta := copyCmd.td } = some (0x11, 1) ∧
      checkCmd (small tiled) 0 { copyCmd with td := copyCmd.td ||| 2 <<< 93 } = some (0x10, 0) ∧ checkCmd (small tiled) 0 copyCmd = none) ∧
    (checkCmd (small tiled) 0 { addCmd with td := tile 0x00F0000000101000 3 1 8 } = some (0x01, 0) ∧
      checkCmd (small tiled) 0 { addCmd with tb := tile 0x00F0000000003000 3 0 8 } = some (0x12, 1) ∧
      checkCmd (small tiled) 0 { addCmd with ta := tile 0x00F0000000002000 3 1 7 } = some (0x13, 1) ∧
      checkCmd (small tiled) 0 { addCmd with ta := addCmd.td ||| 1 <<< 92 } = some (0x11, 1) ∧ checkCmd (small tiled) 0 addCmd = none) := by
  decide +kernel

/-- How a unit ends: 1 done, 2 waits, else 16 plus the fault's cause. -/
def ends (r : UnitRes) : Nat := match r with | .ok _ => 1 | .error (.wait _ _) => 2 | .error (.fault c _ _) => 16 + c

/-- CBLD and SKSET at the edges of their operands; a unit that faults: a line of raw bytes added. -/
theorem witness_EngineChecksAndFaults_more :
    (encode (.cbld 6 7) = some 0xB0031C09 ∧ checkCmd (small tiled) 0 { word := 0xB0031C09, x := 8 } = some (0x01, 8) ∧
      checkCmd (small tiled) 0 { word := 0xB0031C09, x := 7, y := 0x100 } = some (0x01, 0x100) ∧ checkCmd (small tiled) 0 { word := 0xB0031C09, x := 7, y := 0x200 } = none) ∧
    (encode (.skset 6 7) = some 0xB2031C09 ∧ checkCmd (small tiled) 0 { word := 0xB2031C09, x := 4 } = some (0x01, 4) ∧
      checkCmd (small tiled) 0 { word := 0xB2031C09, x := 3, y := 0x00F0000000000001 } = some (0x01, 0x00F0000000000001) ∧
      checkCmd (small tiled) 0 { word := 0xB2031C09, x := 3, y := 0x00F0000000000000 } = none) ∧
    ends (processUnit (small tiled) 0 2 { cmd := addCmd, level := .u } 0 false) = 16 + 0x12 := by
  decide +kernel

/-- Core 0 with the copy engine `g` and basin 9. -/
def engined (g : Engine) (b : Basin) : State := { small tiled with cores := [(0, { ctxs := [(0, tiled)], engines := [(0, g), (2, g)], basins := [(9, b)] })] }

def started (c : Command) (i : Nat) : Engine := { recs := [(0, { st := .running, cmd := c, seq := 1, tid := 1, cursor := i })], running := some 0, seq := 1 }

/-- An idle engine with a queue, with a parked barge before it, a running one at its only unit and past it, one that faults; an
earliest barge that is done and one that is not; a basin copy that waits for its slot, with a basin in each state. -/
theorem witness_BargesRunInOrder :
    (let g : Engine := { recs := [(0, { st := .queued, cmd := copyCmd, seq := 2 })], queue := [0], seq := 2 }
     g.running = none ∧ g.queue = [0] ∧ ∀ p ∈ g.recs, p.2.st ≠ .parked) ∧
    (let g : Engine := { recs := [(0, { st := .queued, cmd := copyCmd, seq := 2 }), (1, { st := .parked, cmd := copyCmd, seq := 1 })], queue := [0], seq := 2 }
     (1, { st := .parked, cmd := copyCmd, seq := 1 }) ∈ g.recs ∧ (g.barge 1).seq < (g.barge 0).seq ∧
     ∃ x ∈ (g.barge 0).reads ++ (g.barge 0).writes, ∃ y ∈ (g.barge 1).writes, x.1 / 4 ^ max x.2 y.2 = y.1 / 4 ^ max x.2 y.2) ∧
    (nextUnit copyCmd 0 = some 0 ∧ nextUnit copyCmd 1 = none ∧
      ends (processUnit (engined (started copyCmd 0) {}) 0 0 ((started copyCmd 0).barge 0) 0 false) = 1 ∧
      ((started copyCmd 0).barge 0).watchHit = none ∧ ((started copyCmd 0).barge 0).needsSlot = false ∧
      (match processUnit (engined (started addCmd 0) {}) 0 2 ((started addCmd 0).barge 0) 0 false with | .error (.fault _ _ s') => (s'.threadExists 1, (s'.core 0).heldSq) | _ => (false, []))
        = (true, [])) ∧
    ((started copyCmd 0).earliest.map (·.1) = some 0 ∧ ({ recs := [(0, { st := .done, seq := 1 })] } : Engine).earliest.map (·.2.st) = some .done) ∧
    (isBsn 0x70020109 = true ∧ (0x70020109 : BitVec 32).toNat % 64 = 9 ∧ (started { copyCmd with word := 0x70020109 } 0).running = some 0 ∧
      ({ enabled := true, k := 1, j := 6 } : Basin).free ≠ 0 ∧ ({ enabled := true, k := 0, j := 6, claim := 1 } : Basin).free = 0 ∧ ({} : Basin).enabled = false ∧
      ((started copyCmd 0).barge 0).basinClaim = none ∧ ((started copyCmd 0).barge 0).forgot = none) := by
  decide +kernel

/-- A copy to main memory that waits for the home of its line, which holds it for another core. -/
theorem witness_BargesRunInOrder_wait :
    (let s := paged tiled
     let s : State := { s with micro := { s.micro with home := [(0x200000 / 64, { st := .o, owner := 5 })] } }
     let b : Barge := { st := .running, cmd := { copyCmd with td := tile 0x200000 3 1 8 }, seq := 1, tid := 1 }
     ends (processUnit s 0 0 b 0 false)) = 2 := by
  decide +kernel

/-- Record and word numbers at their edges; a record of the thread, of another, free and parked; both levels. -/
theorem witness_EngineControl :
    (8 ≤ (8 : Word).toNat ∧ (7 : Word).toNat < 8 ∧ 13 ≤ (13 : Word).toNat ∧ (12 : Word).toNat < 13) ∧
    ((small tiled).me.level = .u ∧ (small (sup [])).me.level ≠ .u ∧ tiled.tid = 1) ∧
    (let g : Engine := { recs := [(0, { st := .running, tid := 2 }), (1, { st := .parked, tid := 1 })] }
     (g.barge 0).st ≠ .free ∧ (g.barge 0).tid ≠ tiled.tid ∧ (g.barge 1).tid = tiled.tid ∧ (g.barge 1).st = .parked ∧ (g.barge 2).st = .free ∧ g.queue = []) := by
  decide +kernel

/-- A command line that R171 allows, its target's limits, and one that it does not. -/
theorem witness_SendReachesEngines :
    ((256 : Word).toNat ≥ 256 ∧ (255 : Word).toNat < 256 ∧ (64 : Word).toNat ≥ 64 ∧ (63 : Word).toNat < 64) ∧
    (meets reading loaded (loaded.S 4) { r := true, size := 64 } = 2 ∧ meets reading loaded (loaded.S 1 + 4) { r := true, size := 64 } = 0 ∧
      meets reading (paged (prog [])) 0x200000 { r := true, size := 64 } = 1) ∧
    (sendWordOk 0 0x70020000 = true ∧ sendWordOk 3 0x78000040 = true ∧ sendWordOk 1 0x70020000 = false ∧ (lineCommand 0 0x70020000).isSome = true ∧
      lineCommand 0 (0x70020000 + 2 ^ 64) = none) ∧
    (Awaits asked ⟨0, 0⟩ ∧ CanTake (asked.core 1) 0 ∧ checkCmd asked 0 copyCmd = none ∧ checkCmd asked 0 { copyCmd with td := 0 } = some (0x10, 0)) ∧
    ((0x70020000 : BitVec 32).toNat / 2 ^ 25 = 0x38 ∧ (0x78000040 : BitVec 32).toNat / 2 ^ 25 ≠ 0x38 ∧ 0x00F0000000001000 / 2 ^ 28 = 0x00F000000) := by
  unfold Awaits CanTake; decide +kernel

/-- Core 0 with counter 3 of partition 0's user at its threshold, term 5 on it, and staged register 2. -/
def crossed (n : Nat) : State :=
  let g : Staged := { enabled := true, cmd := copyCmd, tid := 1, rcb := 3, pending := 1, owner := 1 }
  let c : Core := { ctxs := [(0, tiled)], armed := 32, counters := [(3, ⟨0, 0, n, 1, 0⟩), (4, ⟨0, 0, 0, 2, 0⟩)], terms := [(5, ⟨0x8C02, 2, true, 1⟩)], staged := [(2, g)] }
  { small tiled with cores := [(0, c)], rcbs := [(3, { launched := true })] }

/-- Operands at the tables' edges, an entry of the partition and one of another's; a term that is ready and one that is not; a staged
register whose launch can be made, and whose RCB has gone. -/
theorem witness_CrossbarProgramsAndFires :
    (32 ≤ (32 : Word).toNat ∧ (31 : Word).toNat < 32 ∧ 16 ≤ (16 : Word).toNat ∧ (15 : Word).toNat < 16) ∧
    ((crossed 2).me.level = .u ∧ (SMap.get {} ((crossed 2).core 0).counters 4).owner ≠ 0 ∧ (SMap.get {} ((crossed 2).core 0).counters 4).owner ≠ ((crossed 2).core 0).partOf 0 + 1 ∧
      (SMap.get {} ((crossed 2).core 0).counters 3).owner = ((crossed 2).core 0).partOf 0 + 1) ∧
    ((6 : Word).toNat % 16 > 5 ∧ (0x40005 : Word).toNat / 2 ^ 22 = 0 ∧ (0x400005 : Word).toNat / 2 ^ 22 ≠ 0 ∧ (0x40 : Word).toNat / 2 ^ 6 % 4 ≠ 0 ∧ (0x1205 : Word).toNat / 2 ^ 13 = 0) ∧
    (((crossed 2).core 0).armed.getLsbD 5 = true ∧ (SMap.get {} ((crossed 2).core 0).terms 5).used = [(3, 2)] ∧
      (SMap.get {} ((crossed 2).core 0).counters 3).count = 2 ∧ (SMap.get {} ((crossed 1).core 0).counters 3).count < 2 ∧ (((crossed 2).core 0).termReady 5) = true) ∧
    (checkCmd (crossed 2) 0 copyCmd = none ∧ CanTake ((crossed 2).core 0) 0 ∧ ((crossed 2).reg 3).launched = true ∧ ((small tiled).reg 3).launched = false ∧
      ((crossed 2).core 0).sq.length < 64 ∧ ((crossed 2).core 0).heldSq = []) ∧
    (meets reading loaded (loaded.S 4) { r := true, size := 64 } = 2 ∧ meets reading loaded (loaded.S 1 + 4) { r := true, size := 64 } = 0 ∧
      meets reading (paged (prog [])) 0x200000 { r := true, size := 64 } = 1) ∧
    ((SMap.get {} ((crossed 2).core 0).staged 2).startAt ≠ (crossed 2).cycle + 1 ∧ ((SMap.get {} ((crossed 2).core 0).terms 5).used.map (·.1)).Nodup) := by
  unfold CanTake; decide +kernel

/-- A thread at each level. -/
theorem witness_TrapsAreTaken :
    ((small (prog [])).me.level = .u ∧ (small (prog [])).me.st = .bound ∧ (small (prog [])).me.slot < 15 ∧ ((small (prog [])).core 0).sq.length < 64 ∧
      ((small (prog [])).core 0).heldSq = [] ∧ ((small (prog [])).core 0).resuming = [] ∧ ∀ p ∈ ((small (prog [])).core 0).ctxs, p.2.budgetDue = false) ∧
    (small (sup [])).me.level = .s ∧ (small (mon [])).me.level = .m := by
  decide +kernel

/-- The three levels, each on a machine with nothing stopped, and resume addresses at the edges of what R113 lets through. -/
theorem witness_SystemCallsTransfer :
    ((small (prog [])).me.level = .u ∧ (small (prog [])).me.st = .bound ∧ (small (prog [])).me.slot < 15 ∧ ((small (prog [])).core 0).heldSq = []) ∧
    ((small (sup [])).me.level = .s ∧ (small (sup [])).me.slot = 15 ∧ (small (mon [])).me.level = .m) ∧
    (((small (mon [])).core 0).mresume.toNat / 2 ^ 56 = 0 ∧ ((small (mon [])).core 0).mresume.toNat % 4 = 0 ∧ (2 ^ 56 : Word).toNat / 2 ^ 56 ≠ 0 ∧
      (2 : Word).toNat % 4 ≠ 0) ∧ (small (mon [])).me.prior = 1 ∧
    ((small (sup [])).Calm ∧ (small (mon [])).Calm ∧ (small (sup [])).me.st = .bound ∧ (small (mon [])).me.st = .bound) :=
  ⟨by decide +kernel, by decide +kernel, by decide +kernel, by decide +kernel,
   ⟨rfl, rfl, rfl, rfl, rfl, rfl⟩, ⟨rfl, rfl, rfl, rfl, rfl, rfl⟩, by decide +kernel, by decide +kernel⟩

/-- A parked context in a tile slot and in slot 15, with good and bad pcs; a free home slot and a taken one; a bound context that
may be parked and one that may not; and a context number beyond the last. -/
theorem witness_ContextsParkAndResume :
    ((small (prog [])).me.level = .u ∧ (two [] {}).me.level ≠ .u ∧ (two [] {}).me.st = .bound ∧ (two [] {}).me.slot = 15 ∧ 23 < (24 : Word).toNat ∧ (23 : Word).toNat ≤ 23) ∧
    (let s := two [(1, 1)] { st := .parked, slot := 2, pc := 0x40 }
     (s.ctxOf ⟨0, 1⟩).st = .parked ∧ (s.ctxOf ⟨0, 1⟩).slot ≠ 15 ∧ (s.ctxOf ⟨0, 1⟩).pc.toNat / 2 ^ 56 = 0 ∧ (s.ctxOf ⟨0, 1⟩).pc.toNat % 4 = 0 ∧ (s.core 0).boundTo 2 = none) ∧
    (let s : State := { small (sup []) with cores := [(0, { ctxs := [(0, sup []), (1, { st := .parked, slot := 2, pc := 6 }), (2, { prog [] with slot := 2 })] })] }
     (s.core 0).boundTo 2 = some 2 ∧ ((s.core 0).ctx 2).st = .bound ∧ ((s.core 0).ctx 2).slot = 2 ∧ (s.core 0).resuming = [] ∧ (s.ctxOf ⟨0, 1⟩).pc.toNat % 4 ≠ 0) ∧
    (atPoint (prog []) = true ∧ atPoint { prog [] with wait := waitWord 1 0, pend := .reply } = false ∧ (two [] { st := .free }).ctxOf ⟨0, 1⟩ = {}) ∧
    (({ st := .parked, slot := 15, pc := 2 ^ 56 } : Context).slot = 15 ∧ ({ st := .parked, slot := 2, pc := 2 ^ 56 } : Context).pc.toNat / 2 ^ 56 ≠ 0) ∧
    (let x : Context := { prog [] with parkReq := true }
     x.st = .bound ∧ x.parkReq = true ∧ atPoint x = true ∧ x.slot < 15 ∧ x.budgetStop = false ∧ ({ x with budgetStop := true } : Context).budgetStop = true) := by
  decide +kernel

/-- A parked context 1 of thread 9 whose save area is in core 0's local store. -/
def saved (x : Context) : State := two [(1, 1), (2, 0x2E0), (4, 0x00F0000000040400), (5, 14)] { x with st := .parked, tid := 9 }

/-- Offsets at the edges of the image; a save that is made and one that faults; an area that can be filled and addresses that cannot. -/
theorem witness_ContextImages :
    ((saved {}).me.level ≠ .u ∧ ((saved {}).ctxOf ⟨0, 1⟩).st = .parked ∧ 0x2E0 % 8 = 0 ∧ 0x2E0 < 0x2E8 ∧ 0x2E8 ≥ 0x2E8 ∧ 0x2DF % 8 ≠ 0) ∧
    ((spillCtx (saved { save := 0x00F0000000040400 }) ⟨0, 1⟩).1 = none ∧ (spillCtx (saved { save := 0x400 }) ⟨0, 1⟩).1 = some (8, 0x400)) ∧
    (((saved {}).core 0).heldSq = [] ∧ ((saved {}).ctxOf ⟨0, 1⟩).stopped = false ∧ (saved { stopped := true }).ctxOf ⟨0, 1⟩ ≠ {} ∧ ((saved { stopped := true }).ctxOf ⟨0, 1⟩).stopped = true) ∧
    (passes (saved {}) 0x00F0000000040400 { r := true, size := 1024 } = true ∧ passes (saved {}) 0x00F0000000040200 { r := true, size := 1024 } = false) ∧
    (14 < (15 : Word).toNat ∧ (14 : Word).toNat ≤ 14) ∧
    ((match fillWords (saved {}) 0x00F0000000040400 13 [] with | (.ok ws, _) => ws.getD 98 1 | _ => 1) = 0 ∧
      (match fillWords (saved {}) 0x400 13 [] with | (.error e, _) => e | _ => (0, 0)) = (8, 0x400) ∧ (needCtx (saved {}) 0 .any 24).1 = some 2) := by
  decide +kernel

/-- The levels; a claimed slot; joins that are absent, refused, taken and in the way of a barge. -/
theorem witness_FencesAndStops :
    ((small (prog [])).me.level = .u ∧ (small (sup [])).me.level ≠ .u ∧ ((small (prog [])).core 0).claims.getLsbD 0 = false ∧ (1 : BitVec 16).getLsbD 0 = true) ∧
    ((small (prog [])).me.join = 0 ∧ (0x00F0000000000000 : Word) ≠ 0) ∧
    ((match (checkBlock (queued 0xE1 0 1 1 1) 0x00F0000000000000).1 with | .ok _ => true | .error _ => false) = true ∧
      (match (checkBlock (queued 0xE1 0 1 1 1) 0x00F0000000000040).1 with | .ok _ => true | .error _ => false) = false) ∧
    (hazard (queued 0xE1 0 1 1 1) 0x00F0000000000000 = false ∧ hazard inFlight 0x00F0000000000000 = true) ∧
    ((∃ u, atomicGate (queued 0xE1 0 1 1 1) (queued 0xE1 0 1 1 1).myWho { loc := .ls 0x00F0000000000000 } = .ok u) ∧
      ∃ u, atomicGate queuedMoving queuedMoving.myWho { loc := .main 64 } = .error u) ∧
    ((match joinAt (queued 0xE1 0 1 1 1) (queued 0xE1 0 1 1 1).myWho { loc := .ls 0x00F0000000000000 } true 0x00F0000000000000 with | .ok v => v.1 | _ => 9) = 1 ∧
      (match joinAt (queued 0xE1 0 2 1 1) (queued 0xE1 0 2 1 1).myWho { loc := .ls 0x00F0000000000000 } true 0x00F0000000000000 with | .error e => e | _ => (0, 0)) = (0x18, 1)) :=
  ⟨by decide +kernel, by decide +kernel, by decide +kernel, by decide +kernel, ⟨shut_ok (by decide +kernel), shut_error (by decide +kernel)⟩, by decide +kernel⟩

/-- Numbers the map assigns and leaves out, at the edges of each range, and the level each asks for. -/
theorem witness_ControlRegisters :
    (crAssigned 0x00B = false ∧ crAssigned 0x00D = false ∧ crAssigned 0x018 = false ∧ crAssigned 0x391 = false ∧ crAssigned 0x3FF = false) ∧
    (crAssigned 0x000 = true ∧ crAssigned 0x017 = true ∧ crAssigned 0x100 = true ∧ crAssigned 0x10A = true ∧ crAssigned 0x22F = true ∧ crAssigned 0x390 = true) ∧
    ((small (prog [])).me.level = .u ∧ (small (sup [])).me.level = .s ∧ (small (mon [])).me.level = .m ∧ 0x10D / 0x100 = 1 ∧ 0x200 / 0x100 = 2 ∧ 0x390 / 0x100 = 3) ∧
    ((small (sup [])).core 0).sq = [] := by
  decide +kernel

/-- A monitor thread whose s1 is the slot word `n`, s2 a line of its local store and s3 an address that no access may have, with key slots
3 (for signing nothing, use 0) and 4 (use 1), and a journal that is closed or open. -/
def keyed (n : Nat) (closed : Bool) : State :=
  let s := small (mon [(1, BitVec.ofNat 64 n), (2, 0x00F0000000000000), (3, 1)])
  { s with sdie := { s.sdie with keys := [(3, { occupied := true, use := 0, key := 5 }), (4, { occupied := true, use := 1 })],
                                 journal := { s.sdie.journal with closed := closed } } }

/-- The block the key lines hold, if they can be read. -/
def keyBlock (s : State) (a : Word) (b : Bool) (n : Nat) : Option (List Nat) := match keyLines s a b n [] with | (.ok blk, _) => some blk | _ => none

theorem keyBlock_some {s : State} {a : Word} {b : Bool} {n : Nat} {blk : List Nat} (h : keyBlock s a b n = some blk) :
    ∃ s', keyLines s a b n [] = (.ok blk, s') := by
  unfold keyBlock at h
  rcases hc : keyLines s a b n [] with ⟨_ | t, s'⟩
  · rw [hc] at h; cases h
  · rw [hc] at h; exact ⟨s', congrArg (·, s') (congrArg _ (Option.some.inj h))⟩

theorem keyBlock_none {s : State} {a : Word} {b : Bool} {n : Nat} (h : keyBlock s a b n = none) :
    ∃ e s', keyLines s a b n [] = (.error e, s') := by
  unfold keyBlock at h
  rcases hc : keyLines s a b n [] with ⟨e | t, s'⟩
  · exact ⟨e, s', rfl⟩
  · rw [hc] at h; cases h

/-- How reading the key lines ends short: the cause of a trap, or 0 for a wait. -/
def keyStop (s : State) (a : Word) (b : Bool) (n : Nat) : Option Nat := match keyLines s a b n [] with
  | (.error (some e), _) => some e.1 | (.error none, _) => some 0 | _ => none

/-- A monitor thread whose key block is in main memory, at a line that another core holds. -/
def keyAway : State := let s := paged (mon [(1, 5), (2, 0x200000)])
  { s with micro := { s.micro with home := [(0x200000 / 64, { st := .o, owner := 5 })] } }

/-- Each level; slot words with a bit too many, with a use, with a reserved slot and with a full one, and one that is good; lines that can
be read and ones that cannot; a block that does not unwrap; key slots of both uses and an empty one; both states of the journal. -/
theorem witness_KeysAndJournal :
    ((small (prog [])).me.level = .u ∧ (small (sup [])).me.level ≠ .m ∧ (keyed 5 false).me.level = .m ∧ (keyed 5 true).sdie.journal.closed = true) ∧
    (0x40 / 2 ^ 6 % 4 ≠ 0 ∧ 0x4000 / 2 ^ 14 % 4 ≠ 0 ∧ 0x40000 / 2 ^ 18 ≠ 0 ∧ 0x30000 / 2 ^ 16 % 4 = 3 ∧ 0x10000 / 2 ^ 16 % 4 ≠ 0 ∧ 62 ≤ 62 % 64 ∧ 61 % 64 < 62 ∧
      (SMap.get {} (keyed 3 false).sdie.keys 3).occupied = true ∧ (SMap.get {} (keyed 3 false).sdie.keys 5).occupied = false ∧
      (SMap.get {} (keyed 3 false).sdie.keys 3).use = 0 ∧ (SMap.get {} (keyed 3 false).sdie.keys 4).use ≠ 0) ∧
    (((keyed 0x305 false).S 1).toNat % 64 = 5 ∧ ((keyed 0x305 false).S 1).toNat / 2 ^ 8 % 64 = 3 ∧ ((keyed 0x405 false).S 1).toNat / 2 ^ 8 % 64 = 4) ∧
    ((∃ blk s', keyLines (keyed 5 false) ((keyed 5 false).S 2) true 3 [] = (.ok blk, s') ∧ unwrapBlock blk = none) ∧
      (∃ e s', keyLines (keyed 5 false) ((keyed 5 false).S 3) true 3 [] = (.error e, s')) ∧
      (∃ blk s', keyLines (keyed 0x305 false) ((keyed 0x305 false).S 2) false 1 [] = (.ok blk, s')) ∧
      (∃ e s', keyLines (keyed 0x305 false) ((keyed 0x305 false).S 3) false 1 [] = (.error e, s'))) ∧
    (keyStop (keyed 5 false) ((keyed 5 false).S 3) true 3 = some 0x03 ∧ keyStop keyAway 0x200000 true 3 = some 0 ∧ keyStop keyAway 0x200000 false 1 = some 0) := by
  refine ⟨by decide +kernel, by decide +kernel, by decide +kernel, ⟨?_, ?_, ?_, ?_⟩, by decide +kernel⟩
  · exact have ⟨s', h⟩ := keyBlock_some (by decide +kernel : keyBlock (keyed 5 false) ((keyed 5 false).S 2) true 3 = some (List.replicate 192 0)); ⟨_, s', h, by decide +kernel⟩
  · exact keyBlock_none (by decide +kernel)
  · exact have ⟨s', h⟩ := keyBlock_some (by decide +kernel : keyBlock (keyed 0x305 false) ((keyed 0x305 false).S 2) false 1 = some (List.replicate 64 0)); ⟨_, s', h⟩
  · exact keyBlock_none (by decide +kernel)

/-- Core 0 with 24 parked contexts; context 7, parked first, has the save area `a`. -/
def crowded (a : Word) (failed : Bool) : State := { small {} with
  cores := [(0, { ctxs := (List.range 24).map (fun i => (i, { prog [] with st := .parked, parkedAt := if i = 7 then 1 else 9, save := a })), spillFails := if failed then [(.any, (prog []).tid)] else [] })] }

/-- Six and seven resident windows; a stack that can be written and one that cannot; a waiting reissue; a full core with a choice, with
none, with a save area that takes the image and one that does not, and a core with room. -/
theorem witness_WindowsAndContextsSpill :
    (((deep 6 0x00F0000000000080).ctxOf ⟨0, 0⟩).wins.length < 7 ∧ 7 ≤ ((deep 7 0x00F0000000000080).ctxOf ⟨0, 0⟩).wins.length ∧ ((deep 7 0).ctxOf ⟨0, 0⟩).st ≠ .free ∧
      ((deep 7 0).ctxOf ⟨0, 1⟩).st = .free ∧ stackFault (deep 7 0x00F0000000000080) ⟨0, 0⟩ 0x00F0000000000080 0x00F0000000000080 true = none ∧
      stackFault (deep 7 0x80) ⟨0, 0⟩ 0x80 0x80 true ≠ none ∧ ({ prog [] with wait := waitWord 1 0, pend := .reissue } : Context).waitKind = 1) ∧
    (((crowded 0x00F0000000040400 false).core 0).freeCtx = none ∧ spillChoice ((crowded 0x00F0000000040400 false).core 0) .any = some 7 ∧
      spillChoice ((crowded 0x00F0000000040400 true).core 0) .any = none ∧ ((small (prog [])).core 0).freeCtx ≠ none) ∧
    (spillCtx (crowded 0x00F0000000040400 false) ⟨0, 7⟩).1 = none ∧ (spillCtx (crowded 0x400 false) ⟨0, 7⟩).1 = some (8, 0x400) := by
  decide +kernel

/-- RCB 3 with the registration `g` and the run word `run`, and a fault queue 0xE1 that has room. -/
def region3 (g : RcbReg) (run : Nat) (ws : List EntryWait) : State := { queued 0xE1 0 1 1 1 with
  mem := ((queued 0xE1 0 1 1 1).mem.writeBytes (0x80000 + 128 * 3 + 0x78) (natToBytes 8 run)).writeBytes 0x38000 (natToBytes 32 (0x2000 + 0xE1 * 2 ^ 64))
  rcbs := [(3, g)], entryWaits := ws }

/-- An entry that can be made, one that is not due and one without a save area; a budget that is spent and one that is not; quiet for
2^16 cycles and not; an RCB that ends and one that does not; a JOIN that is taken and one refused; a held record that is sent and one that
is not. -/
theorem witness_RegionsRunAndEnd :
    (let s := region3 unit3 0 [⟨0, 2, 3⟩]
     (⟨0, 2, 3⟩ ∈ s.entryWaits ∧ (s.reg 3).launched = true ∧ s.held 3 = false ∧ (s.reg 3).exhausted = false ∧ (s.core 0).boundTo 2 = none ∧ (s.core 0).owed 2 = false ∧ (s.core 0).dead = false ∧
       (s.core 0).partOf 2 = (s.reg 3).part) ∧
     (createContext s 0 2 3 (s.reg 3).entry (s.reg 3).args (s.reg 3).frame 0 (s.sdieClk + 1) (.entry 2 3)).toOption.isSome = true) ∧
    (let s := region3 { unit3 with saveAreas := 1 } 0 [⟨0, 2, 3⟩]
     (createContext s 0 2 3 (s.reg 3).entry (s.reg 3).args (s.reg 3).frame 0 (s.sdieClk + 1) (.entry 2 3)).toOption.isNone = true ∧ ⟨0, 3, 3⟩ ∉ s.entryWaits) ∧
    ((region3 { unit3 with budget := 8, pendingUse := 8 } 0 []).sdie.dbgParked = [] ∧ (bitsOf ((region3 { unit3 with budget := 8, pendingUse := 8 } 0 []).rcbWord 3 0x20) 39 0 + 8) % 2 ^ 40 = 8 ∧
      unit3.budget = 0 ∧ ({} : RcbReg).launched = false ∧ ∀ p ∈ ((region3 unit3 0 []).core 0).ctxs, p.2.budgetDue = false) ∧
    (unit3.quietDue = 0 ∧ 0 < ({ unit3 with quietDue := 1 } : RcbReg).quietDue ∧ (region3 unit3 0 []).rcbHere 3 = true ∧ (region3 unit3 0 []).heldFaults = [] ∧ (region3 unit3 0 []).faultQueue 0 = none) ∧
    ((region3 { unit3 with existed := true } 0 []).ends 3 = true ∧ (region3 { unit3 with existed := true } 0x10000 []).ends 3 = false ∧ unit3.join = 0 ∧ (region3 unit3 0 []).sdie.replays = []) ∧
    ((deviceJoin (region3 unit3 0 []) 0x00F0000000000000).1 = true ∧ (deviceJoin (region3 unit3 0 []) 0x00F0000000000040).1 = false ∧
      [(3, (0x00F0000000000000 : Word))].find? (fun e => decide (e.1 = 3)) = some (3, 0x00F0000000000000)) ∧
    ((sendFault (region3 { unit3 with faultQueueValid := true, faultQueue := 0xE00 } 0 []) ⟨.rcb 3 0x29, 3, 3, ⟨0, 0, 3, 0⟩, 0⟩).1 = true ∧
      (sendFault (region3 unit3 0 []) ⟨.rcb 3 0x29, 3, 3, ⟨0, 0, 3, 0⟩, 0⟩).1 = false) := by
  decide +kernel

/-- Line 9 at its home in the state `h`, with core 2's copy `c`. -/
def shared9 (h : HomeLine) (c : Option Copy) : Micro := { home := [(9, h)], l1d := match c with | some c => [(2, [(9, c)])] | none => [] }

def stamp : Stamped := ⟨1, 0, 3, 8, 0, 3⟩

/-- A copy of line 9. -/
def copy9 (st : CopyState) (region : Option Nat) (left : Bool) : Copy := { st := st, img := stamp, tag := 0, region := region, left := left }

/-- A home in each state; a line that is owned as a block; a granule in motion; a stamp that matches and one that does not; each state of
a copy, and none. -/
theorem witness_CoherenceFollowsTheTables :
    ((shared9 {} none).lineMoving 9 = false ∧ ((shared9 { wts := 3 } none).homeLine 9).st = .c ∧ ((shared9 { wts := 3 } none).homeLine 9).wts = 3 ∧
      (shared9 {} none).ownerOf 9 2 = none ∧ (shared9 {} none).watchesOn (64 * 9) true true = []) ∧
    ((shared9 { st := .o, owner := 2 } none).ownerOf 9 5 = some 2 ∧ ((shared9 { st := .g, owner := 2 } none).homeLine 9).owner = 2 ∧
      ({ shared9 {} none with moving := [(0, 4)] } : Micro).lineMoving 9 = true ∧ ({ shared9 {} none with moving := [(0, 4)] } : Micro).lineMoving 64 = false) ∧
    ((shared9 {} none).copyAt 2 9 = none ∧ (shared9 {} (some (copy9 .x none false))).copyAt 2 9 = some (copy9 .x none false) ∧
      (shared9 {} (some (copy9 .vx (some 5) true))).copyAt 2 9 = some (copy9 .vx (some 5) true)) ∧
    ((shared9 {} none).standing 0 < 1024 ∧ (List.replicate 1024 Instr.nop).length = 1024 ∧
      ({ home := [(9, { st := .g, waiting := [.nop, .nop] })] } : Micro).standing 0 = 2) ∧
    (let s := small (prog [])
     rivalUpgs s ⟨.upg, 9, 2, 3, 0, 8, 0, false, none⟩ = [] ∧ rivalUpgs { s with agenda := [.homeUpg ⟨.upg, 9, 1, 3, 0, 8, 0, false, none⟩] } ⟨.upg, 9, 2, 3, 0, 8, 0, false, none⟩ ≠ []) ∧
    (storeWaits (small { prog [] with miss := some (9, true) }) 0 9 = true ∧ storeWaits (small { prog [] with miss := some (9, false) }) 0 9 = false) ∧
    (grantComing { small (prog []) with agenda := [.agentAckx 0 9 ⟨8, 0⟩] } 0 9 = true ∧ grantComing { small (prog []) with agenda := [.agentData 0 9 ⟨stamp, 0⟩ false] } 0 9 = false) := by
  decide +kernel

/-- A directory entry whose round is 4; entries to drop and none; peer slices of one quadrant and of two, with a covered copy; granules at
rest and in motion. -/
theorem witness_TranslationsAndHomesMove :
    (let m : Micro := { dir := [(9, { round := 4, ptrs := [(0, 3)] })], dirOrder := [9], tlb := [(2, [⟨0, 6, 0, 0, [(9, 4)], 2, []⟩])], l2 := [(5, [(9, copy9 .v none false)])], moving := [(7, 4)] }
     (9 ∈ m.dirOrder ∧ 10 ∉ m.dirOrder ∧ (SMap.get {} m.dir 9).coarse = false ∧ (SMap.get {} m.dir 9).round = 4) ∧
     (0 < (SMap.get [] m.tlb 2).length ∧ (SMap.get [] m.tlb 2).length + (SMap.get [] m.wcache 2).length + (SMap.get [] m.ctlb (clusterOf 2)).length ≤ 1) ∧
     (m.l2At 5 9 = some (copy9 .v none false) ∧ 4 / 16 = 5 / 16 ∧ 4 / 16 ≠ 16 / 16 ∧ 8 ≤ stamp.rts ∧ m.minClk ≤ stamp.rts ∧ m.l2At 6 9 = none) ∧
     ((∀ p ∈ m.moving, p.1 ≠ 8) ∧ m.homeOf (4096 * 8) = 8 ∧ m.moving.find? (fun e => decide (e.1 = 7)) = some (7, 4)) ∧
     ((SMap.get [] m.owners 0).length < 256 ∧ ((shared9 { st := .o, owner := 2 } none).homeLine 9).st ≠ .c ∧ (shared9 {} none).homeOf (64 * 9) = 0)) ∧
    (let q : CohReq := ⟨.gets, 9, 17, 0, 4, 8, 0, false, none⟩
     let s := { small (prog []) with agenda := [.nop, .homeGets q] }
     passing s 4 9 = some (.homeGets q, q) ∧ passing s 5 9 = none) ∧
    ((shared9 {} none).unsettled 0 = [] ∧ (shared9 { st := .w, owner := 2 } none).unsettled 0 = [9]) ∧
    (let m := shared9 { st := .o, owner := 2 } none
     let r : RecallReq := { kind := .bown, base := 0, height := 5, core := 3 }
     recallDue m 0 r = [] ∧ (recallDue { m with owners := [(0, [⟨0, 5, 2⟩])] } 0 r).head? = some 9 ∧
     recallDue m 0 { r with kind := .brel } = [] ∧ recallDue m 0 { r with kind := .bevict } = [9] ∧ recallDue (shared9 {} none) 0 { r with kind := .bdemote } = [] ∧
     RecallKind.bres 7 ≠ .bres 0) := by
  decide +kernel

/-- A supervisor queue that is empty, has one record, and is full with one held; block starts that can be the export point and ones that
cannot; a region that is enabled, one that is not, and values that leave it so or not. -/
theorem witness_RegisterWritesAct :
    (((small (sup [])).core 0).sq = [] ∧ ({ sq := [⟨1, 2, 3, 4⟩] } : Core).heldSq = [] ∧
      (let c : Core := { sq := List.replicate 64 ⟨1, 2, 3, 4⟩, heldSq := [(.sensor, ⟨5, 6, 7, 8⟩)] }
       c.sq.tail.length = 63 ∧ c.heldSq = [(.sensor, ⟨5, 6, 7, 8⟩)])) ∧
    (let j : Journal := { head := 247, exportPt := 0, headers := [0, 247] }
     247 ∈ j.headers ∧ j.exportPt ≤ 247 ∧ 247 ≤ j.head ∧ 246 ∉ j.headers) ∧
    (({} : Weir).on = false ∧ ({ a := 0x8600000000001000 } : Weir).on = true ∧
      ((0x8600000000001000 : Word).getLsbD 63 && decide (6 ≤ bitsOf (0x8600000000001000 : Word) 60 56) && decide (bitsOf (0x8600000000001000 : Word) 60 56 ≤ 26)) = true ∧
      ((0x9B00000000000000 : Word).getLsbD 63 && decide (6 ≤ bitsOf (0x9B00000000000000 : Word) 60 56) && decide (bitsOf (0x9B00000000000000 : Word) 60 56 ≤ 26)) = false) := by
  decide +kernel
/-- Region 0 enabled over the block at 0x1000 with 4 KiB/s and the burst `b`, and what it holds. -/
def metered (level : Nat) (held : List HeldEgress) : Weir := { a := 0x8600000000001000, b := 0x0030000100000004, level := level, held := held }

/-- A transfer of the host that waits since millisecond 0. -/
def heldRead : HeldEgress := ⟨.host, 64, 0x1000, 0, 0, .hostRead 0x40 64⟩

/-- A region that is off, on, that holds a transfer it can pay for and one it cannot; a timeout that has not come and one that has; bytes
passed, transfers failed and neither; a checkpoint due and not; readings inside the limits and outside. -/
theorem witness_EgressAndSensorsAct :
    (({} : Weir).on = false ∧ (metered 0 []).on = true ∧ (metered 64 [heldRead]).held = [heldRead] ∧ heldRead.exit = .hostRead 0x40 64 ∧
      max 4 (bitsOf (metered 0 []).b 51 28) * 1024 = 16384 ∧ min 16384 (64 + 0) ≥ heldRead.bytes ∧ min 16384 (63 + 0) < heldRead.bytes) ∧
    (bitsOf (metered 0 []).b 63 52 = 3 ∧ (0 < bitsOf (metered 0 []).b 27 0 ∧ bitsOf ({ metered 0 [] with b := 0 } : Weir).b 27 0 = 0) ∧
      ∀ h ∈ (metered 0 [heldRead]).held, 2 * msUnits < h.since + 3 * msUnits ∧ h.since + 3 * msUnits ≤ 3 * msUnits) ∧
    (({ passed := [(0, (64, 0x1000))] } : Weir).passed = [(0, (64, 0x1000))] ∧ ({ failed := 1 } : Weir).passed = [] ∧ ({ failed := 1 } : Weir).failed ≠ 0) ∧
    (({ since := 1, firstMs := 5 } : Journal).since ≠ 0 ∧ 5 + 1000 ≤ 1005 ∧ 1004 < 5 + 1000 ∧ ({} : Journal).since = 0 ∧ ({} : Journal).closed = false) ∧
    (let lim : Word := 0x07D0005A044C02BC
     (bitsOf lim 15 0 ≤ (700 : BitVec 16).toNat ∧ (1100 : BitVec 16).toNat ≤ bitsOf lim 31 16 ∧ (0x5A : BitVec 16).toInt ≤ (BitVec.ofNat 16 (bitsOf lim 47 32)).toInt ∧
       (2000 : BitVec 16).toNat ≤ bitsOf lim 63 48) ∧ ¬ bitsOf lim 15 0 ≤ (699 : BitVec 16).toNat) ∧
    (((small (sup [])).core 0).sq.length < 64 ∧ ((small (sup [])).core 0).heldSq = []) := by
  decide +kernel

/-- The link is ready; window 0 lets the host read and write the block at 0x1000 and window 1 lets it do neither at 0x2000; the ring is as
`r` and the egress regions are `ws`. -/
def hosted (r : Ring) (ws : SMap Weir) (closed : Bool) : State :=
  let s := small (prog [])
  { s with mem := Memory.writeBytes [] 0xD0000 (natToBytes 32 (0xE600000000001000 + 0x8600000000002000 * 2 ^ 128 + 0x1000 * 2 ^ 192))
           platform := { s.platform with stage := 6 }
           sdie := { s.sdie with ring := { r with ide := 0x1F }, weirs := ws, journal := { s.sdie.journal with closed := closed } } }

/-- The same before the host has established its streams. -/
def unsecured : State := { hosted {} [] false with sdie := { (hosted {} [] false).sdie with ring := {} } }

/-- A link that is not ready, with no stream and with one; a window that may be read and written, one that may not, and an offset of none; poisoned bytes; bytes of an
egress region that pass and that are held; a ring that is on and off, and doorbells that it takes and does not. -/
theorem witness_HostWindowsAct :
    ((small (prog [])).platform.stage ≠ 6 ∧ (hosted {} [] false).platform.stage = 6 ∧ (hosted {} [] false).linkReady = true ∧
      unsecured.platform.stage = 6 ∧ unsecured.sdie.ring.ide = 0) ∧
    (0x40 ∉ [0x00, 0x08, 0x18, 0x20, 0x28, 0x30, 0x38] ∧ 0x40 < 0x10000 ∧ 0x20000 ≤ 0x20000 ∧
      (let e : JEntry := ⟨3, 0x80, 0, 0, 0, 1, 2⟩
       ({ entries := [(3, e)] } : Journal).entries.find? (fun p => decide (p.1 = 3)) = some (3, e))) ∧
    (rangeDelivered (hosted {} [] false) 0x1040 64 = true ∧ rangeDelivered { hosted {} [] false with poison := [0x41] } 0x1040 64 = false) ∧
    ((hosted {} [] false).windowOf 0x40 = some ⟨0, 0x1000, 6, true, true⟩ ∧ (hosted {} [] false).windowOf 0x1040 = some ⟨0x1000, 0x2000, 6, false, false⟩ ∧
      (hosted {} [] false).windowOf 0x2040 = none) ∧
    ((hosted {} [] false).delivered (.main 0x1040) = true ∧ ({ hosted {} [] false with poison := [0x41] } : State).delivered (.main 0x1040) = false ∧
      (hosted {} [] false).egressOf 0x1040 = none ∧ (hosted {} [(0, metered 64 [])] false).egressOf 0x1040 = some 0 ∧
      (let x := ((hosted {} [(0, metered 64 [])] false).weir 0).refilled 0
       (hosted {} [(0, metered 64 [])] false).timeUnits = 0 ∧ x.held = [] ∧ 0 < x.rate ∧ 64 ≤ x.level ∧ x.level < 65)) ∧
    ((hosted {} [] false).qtable = 0 ∧ (∀ n < 4, (hosted {} [] false).regionLine (0x1040 / 64 + n) = none)) ∧
    (({ ctl := 0x104 } : Ring).ctl.getLsbD 8 = true ∧ ({} : Ring).ctl.getLsbD 8 = false ∧ (0x104 : Word).toNat % 32 = 4 ∧ (0x110 : Word).toNat % 32 = 16 ∧
      (bitsOf (16 : Word) 31 0 + 2 ^ 32 - 0) % 2 ^ 32 ≤ 2 ^ 4 ∧ ¬ (bitsOf (17 : Word) 31 0 + 2 ^ 32 - 0) % 2 ^ 32 ≤ 2 ^ 4) := by
  decide +kernel

/-- An OPEN whose point is the generator of the curve, and one whose point is not on it. -/
def openEntry (x y : Nat) : ByteList := natToBytes 16 (1 * 2 ^ 64) ++ (natToBytes 48 x).reverse ++ (natToBytes 48 y).reverse ++ natToBytes 16 0

/-- Ring commands at doorwords of the local store of core 0x00: RCB 5 can be launched with tile slot 2, RCB 6 cannot; a graph of one node,
the same with a replay under way in its slot; an egress region for an import, whose host lines are zero. -/
def graphed (replays : List Replay) : State :=
  let s := hosted { ctl := 0x104 } [(0, metered 0 [])] false
  let w (m : Memory) (a v : Nat) : Memory := m.writeBytes a (natToBytes 8 v)
  let ls := 0x00F0000000000000
  let m := w (w (w (w (w s.mem ls (ls + 0x100)) (ls + 8) 1) (ls + 0x10) (ls + 0x400)) (ls + 0x18) 7) (ls + 0x190) (ls + 0x600)
  let m := w (w (w (w m (ls + 0x108) (4 * 256 + 2 ^ 24)) (ls + 0x110) 1) (ls + 0x170) (ls + 0x40000 + 8)) (0x80000 + 128 * 5 + 8) (4 * 256 + 2 ^ 24)
  let m := w (w m (0x80000 + 128 * 5 + 0x10) 1) (0x80000 + 128 * 5 + 0x70) (ls + 0x40000 + 8)
  { s with mem := m, sdie := { s.sdie with replays := replays }, hostMem := (List.range 80).map (fun i => (0x8000 + i, 0)) }

/-- OPEN's point on the curve and off it; launches that are taken and refused, and a graph that waits; an import that fits its region and
ones that do not; result addresses that are aligned and not. -/
theorem witness_RingCommandsComplete :
    ((openEntry p384gx p384gy).length = 128 ∧ (hosted {} [] true).sdie.journal.closed = true ∧
      onCurve (beNat ((((openEntry p384gx p384gy).drop 16).take 48).map (·.toNat))) (beNat ((((openEntry p384gx p384gy).drop 64).take 48).map (·.toNat))) = true ∧
      onCurve (beNat ((((openEntry p384gx 1).drop 16).take 48).map (·.toNat))) (beNat ((((openEntry p384gx 1).drop 64).take 48).map (·.toNat))) = false) ∧
    ((launchRcb (graphed []) 5 none).isSome = true ∧ (launchRcb (graphed []) 6 none).isNone = true) ∧
    ((match launchGraph (graphed []) 0x00F0000000000000 with | .launched _ => true | _ => false) = true ∧
      (match launchGraph (graphed []) 0x00F0000000000020 with | .refused => true | _ => false) = true ∧
      (match launchGraph (graphed [⟨0, 1, 7, 0, [], [], [], [], false, 0x00F0000000000000⟩]) 0x00F0000000000000 with | .waits => true | _ => false) = true) ∧
    (let s := graphed []
     (s.weir 0).covers 0x1040 = true ∧ (s.weir 0).covers (0x1040 + 64 * 1 - 64) = true ∧ (0x1040 : Nat) % 64 = 0 ∧ 0x1040 + 64 * 1 ≤ s.capacity ∧
       s.regionLine (0x1040 / 64) = none ∧ (∀ b ∈ s.bytesAt (.host (0x8000 + 72)) 8, b = 0) ∧ (∀ i < 16, ¬ (s.weir i).covers 0x2000 = true) ∧ 0x1020 % 64 ≠ 0) := by
  decide +kernel

/-- The entry at the ring's head: number `num`, code `code`, then zeros, and the tag `tag`. -/
def entryOf (num code : Nat) (tag : List Nat) : ByteList := natToBytes 112 (num + code * 2 ^ 64) ++ tag.map (BitVec.ofNat 8)

def fetched (r : Ring) (e : ByteList) : State :=
  { hosted { r with ctl := 0x104, base := 0x8000, tail := 1 } [] false with hostMem := putBytes [] 0x8000 e }

/-- A ring with nothing to fetch; a session and none; entries with the number expected, one before and one after it, and with codes on both
sides of the range. -/
theorem witness_RingCommandsComplete_fetch :
    (({} : Ring).ctl.getLsbD 8 = false ∧ (hosted { ctl := 0x104 } [] false).sdie.ring.head = (hosted { ctl := 0x104 } [] false).sdie.ring.tail) ∧
    (let s := fetched { session := true, e := 1 } (entryOf 1 7 (List.replicate 16 0))
     s.sdie.ring.key = 0 ∧ wordAt (s.bytesAt (.host 0x8000) 128) 0 = 1 ∧ bytesToNat (((s.bytesAt (.host 0x8000) 128).drop 8).take 2) = 7 ∧
       s.sdie.ring.session = true ∧ s.sdie.ring.halted = false ∧ s.sdie.ring.e = 1 ∧ s.sdie.ring.head ≠ s.sdie.ring.tail ∧
       s.sdie.ring.base.toNat + 128 * (s.sdie.ring.head % 2 ^ (s.sdie.ring.ctl.toNat % 32)) = 0x8000) ∧
    (fetched {} (entryOf 1 7 (List.replicate 16 0))).sdie.ring.session = false := by
  decide +kernel

theorem fetched_bytes (r : Ring) (e : ByteList) (h : e.length = 128) : (fetched r e).bytesAt (.host 0x8000) 128 = e := by
  have := freeBytes_putBytes Config.hostByte e [] 0x8000
  rwa [h] at this

theorem entry_parts (num code : Nat) {tag : List Nat} (h : Laws.IsBytes 16 tag) :
    (entryOf num code tag).length = 128 ∧ (entryOf num code tag).take 0x70 = natToBytes 112 (num + code * 2 ^ 64) ∧
      (((entryOf num code tag).drop 0x70).take 16).map (·.toNat) = tag := by
  have l : (natToBytes 112 (num + code * 2 ^ 64)).length = 112 := by
    suffices ∀ n x, (natToBytes n x).length = n from this _ _
    intro n
    induction n with
    | zero => exact fun _ => rfl
    | succ n ih => exact fun x => congrArg (· + 1) (ih _)
  refine ⟨by rw [entryOf, List.length_append, l, List.length_map, h.1], List.take_left' l, ?_⟩
  rw [entryOf, List.drop_left' l, List.take_of_length_le (by rw [List.length_map, h.1]), List.map_map]
  conv => rhs; rw [← List.map_id tag]
  exact List.map_congr_left (fun b hb => by
    show (BitVec.ofNat 8 b).toNat = b
    rw [BitVec.toNat_ofNat, Nat.mod_eq_of_lt (h.2 b hb)])

/-- For every entry, a tag that is good and one that is not. -/
theorem witness_RingCommandsComplete_tags (num code : Nat) :
    let good (s : State) : Prop := let f := s.bytesAt (.host 0x8000) 128
      cmac (leBytes 32 s.sdie.ring.key.toNat) ((f.take 0x70).map (·.toNat)) = ((f.drop 0x70).take 16).map (·.toNat)
    ∃ tag tag', good (fetched { session := true, e := 1 } (entryOf num code tag)) ∧ ¬ good (fetched { session := true, e := 1 } (entryOf num code tag')) := by
  intro good
  have k : Laws.IsBytes 32 (leBytes 32 0) := ⟨rfl, by decide⟩
  have c := Laws.cmac_bytes (key := leBytes 32 0) (m := (natToBytes 112 (num + code * 2 ^ 64)).map (·.toNat)) k (fun b hb => by
    obtain ⟨x, -, rfl⟩ := List.mem_map.1 hb; exact x.isLt)
  have c' : Laws.IsBytes 16 (xorList (cmac (leBytes 32 0) ((natToBytes 112 (num + code * 2 ^ 64)).map (·.toNat))) (List.replicate 16 1)) :=
    Laws.xorList_bytes c ⟨rfl, by decide⟩
  refine ⟨cmac (leBytes 32 0) ((natToBytes 112 (num + code * 2 ^ 64)).map (·.toNat)),
    xorList (cmac (leBytes 32 0) ((natToBytes 112 (num + code * 2 ^ 64)).map (·.toNat))) (List.replicate 16 1), ?_, ?_⟩
  · obtain ⟨h1, h2, h3⟩ := entry_parts num code c
    show cmac (leBytes 32 0) _ = _
    rw [fetched_bytes _ _ h1, h2, h3]
  · obtain ⟨h1, h2, h3⟩ := entry_parts num code c'
    intro h
    replace h : cmac (leBytes 32 0) _ = _ := h
    rw [fetched_bytes _ _ h1, h2, h3] at h
    obtain ⟨b, t, e⟩ := List.exists_cons_of_length_eq_add_one c.1
    rw [e] at h
    have := (List.cons.inj h).1
    have z : b ^^^ b = b ^^^ (b ^^^ 1) := congrArg (b ^^^ ·) this
    rw [← Nat.xor_assoc, Nat.xor_self] at z
    exact absurd z (by decide)

/-- `graphed`, with the entry `e` at the ring's head, in a session that expects number 1. -/
def runningWith (replays : List Replay) (e : ByteList) : State :=
  let s := graphed replays
  { s with sdie := { s.sdie with ring := { s.sdie.ring with base := 0x8000, tail := 1, session := true, e := 1 } },
           hostMem := putBytes [] 0x8000 e }

/-- The same with an entry of number 1 and the word `op` after its code. -/
def running (replays : List Replay) (code op : Nat) (tag : List Nat) : State := runningWith replays (entryOf 1 (code + op * 2 ^ 64) tag)

theorem runningWith_bytes (replays : List Replay) (e : ByteList) (h : e.length = 128) : (runningWith replays e).bytesAt (.host 0x8000) 128 = e := by
  have := freeBytes_putBytes Config.hostByte e [] 0x8000
  rwa [h] at this

/-- An entry whose command is executed out of session. -/
theorem witness_RingEntriesRun :
    let s := fetched {} (entryOf 1 5 (List.replicate 16 0))
    s.linkReady = true ∧ s.sdie.ring.ctl.getLsbD 8 = true ∧ s.sdie.ring.ctl.toNat % 32 = 4 ∧ s.sdie.ring.head ≠ s.sdie.ring.tail ∧
      bytesToNat (((s.bytesAt (.host 0x8000) 128).drop 8).take 2) = 5 := by
  refine ⟨?_, ?_, ?_, ?_, ?_⟩ <;> decide +kernel

/-- The tag of the entry of `running`. -/
def tagOf (code op : Nat) : List Nat := cmac (leBytes 32 0) ((natToBytes 112 (1 + (code + op * 2 ^ 64) * 2 ^ 64)).map (·.toNat))

/-- Its tag is good. -/
theorem running_good (replays : List Replay) (code op : Nat) :
    let s := running replays code op (tagOf code op)
    let f := s.bytesAt (.host 0x8000) 128
    cmac (leBytes 32 s.sdie.ring.key.toNat) ((f.take 0x70).map (·.toNat)) = ((f.drop 0x70).take 16).map (·.toNat) := by
  have c : Laws.IsBytes 16 (tagOf code op) := Laws.cmac_bytes ⟨rfl, by decide⟩ (fun b hb => by
    obtain ⟨x, -, rfl⟩ := List.mem_map.1 hb; exact x.isLt)
  obtain ⟨h1, h2, h3⟩ := entry_parts 1 (code + op * 2 ^ 64) c
  intro s f
  simp only [f, s, running, runningWith_bytes _ _ h1, h2, h3]
  rfl

/-- Commands executed in turn: a launch that is taken, and a graph that waits. -/
theorem witness_RingEntriesRun_turn :
    (let s := running [] 2 5 (tagOf 2 5)
     s.linkReady = true ∧ s.sdie.ring.session = true ∧ s.sdie.ring.halted = false ∧ s.sdie.ring.e = 1 ∧ s.sdie.ring.head ≠ s.sdie.ring.tail ∧
       (launchRcb s 5 none).isSome = true) ∧
    (let s := running [⟨0, 1, 7, 0, [], [], [], [], false, 0x00F0000000000000⟩] 3 0x00F0000000000000 (tagOf 3 0x00F0000000000000)
     s.linkReady = true ∧ (match launchGraph s 0x00F0000000000000 with | .waits => true | _ => false) = true) := by
  decide +kernel

/-- Line 0x80 at its home, in the state `h`; the package is otherwise as the host left it. -/
def peered (h : HomeLine) : State := { hosted {} [] false with micro := { ({} : Micro) with home := [(0x80, h)] } }

/-- A line at rest, one that another core owns, one that the peer owns and one that somebody waits for; a region at its home; heads. -/
theorem witness_FabricAndMeshAct_homes :
    (let m := (peered {}).micro
     m.lineMoving 0x80 = false ∧ m.standing (m.homeOf (64 * 0x80)) < 1024 ∧ (m.homeLine 0x80).st = .c ∧ m.ownerOf 0x80 256 = none ∧
       m.watched (64 * 0x80) = false ∧ (peered {}).regionLine 0x80 = none ∧ (peered {}).egressOf (64 * 0x80) = none ∧
       (peered {}).delivered (.main (64 * 0x80)) = true ∧ 64 * 0x80 + 64 ≤ (peered {}).capacity) ∧
    (((peered { st := .o, owner := 5 }).micro.homeLine 0x80).st = .o ∧ ((peered { st := .o, owner := 256 }).micro.homeLine 0x80).owner = 256 + 0 ∧
      ((peered { st := .f, owner := 256, waiting := [.nop] }).micro.homeLine 0x80).waiting = [.nop]) ∧
    ((paged (prog [])).regionOn 5 = some { base := 0x100000, height := 10, counter := 7, subscribers := 1 } ∧ (paged (prog [])).regionOn 6 = none ∧
      atOrAhead 7 7 = true ∧ atOrAhead 7 8 = false) ∧
    (let f : Flit := { vc := 2, part := none, dest := .routers 0x60, msgs := [(5, .consumedUpdate 3)], onward := some (2, 1) }
     let m : Mesh := { fifos := [(fifoKey 1 5 0 2, [f])] }
     heads m 1 5 4 = [⟨0, 2, { f with dest := .routers 0x20 }⟩] ∧ heads m 1 5 1 = [⟨0, 2, { f with dest := .routers 0x40 }⟩] ∧ heads m 1 5 0 = [] ∧
       m.fifo (fifoKey 1 5 0 2) = [f] ∧ (2 % 4 ≠ 1) ∧ restOf (.routers 0x60) (.routers 0x20) = some (.routers 0x40) ∧
       restOf (.routers 0x20) (.routers 0x20) = none) ∧
    (let f : Flit := { vc := 2, part := none, dest := .sdie, msgs := [(16, .nop)] }
     (List.range 6).filter (fun p => (heads { fifos := [(fifoKey 1 0 0 2, [f])] } 1 0 p).isEmpty) = [0, 1, 2, 3, 4]) := by
  decide +kernel

/-- A port's queue that is empty and one that has a record; a received record that is taken and one that is not; lines that are backed, that
are poisoned, in an egress region and past the end; a router output with no head. -/
theorem witness_FabricAndMeshAct :
    (let s (head tail : Nat) : State := { small (prog []) with mem := Memory.writeBytes [] (64 * 0xE03) (natToBytes 32 (0x2000 + 0xE1 * 2 ^ 64 + head * 2 ^ 128 + tail * 2 ^ 192)) }
     ((s 0 0).queueDesc 0xE04 = none ∧ (s 0 0).queueDesc 0xE03 = some ⟨0x2000, 1, true, true, 0, 0⟩ ∧ (s 0 1).queueDesc 0xE03 = some ⟨0x2000, 1, true, true, 0, 1⟩)) ∧
    (let s (n : Nat) : State := { small (prog []) with mem := Memory.writeBytes [] (64 * 0xE10) (natToBytes 32 (0x2000 + 0xE1 * 2 ^ 64 + n * 2 ^ 192)) }
     (s 0).sdie.fabricIn = [] ∧ (match enqueueAt (s 0) 0xE10 5 false (deviceWho 1) with | .ok _ => true | _ => false) = true ∧
       (match enqueueAt (s 2) 0xE10 5 false (deviceWho 1) with | .ok _ => true | _ => false) = false) ∧
    (let s := hosted {} [(0, metered 64 [])] false
     s.delivered (.main 0x2000) = true ∧ 0x2000 + 64 ≤ s.capacity ∧ s.egressOf 0x2000 = none ∧ s.egressOf 0x1000 = some 0 ∧ s.capacity < 64 * (s.capacity / 64) + 64 ∧
       s.regionLine (0x2000 / 64) = none ∧ 0x2004 % 4 = 0 ∧ 0x2004 % 8 ≠ 0) ∧
    heads {} 1 5 0 = [] := by
  decide +kernel
/-- The monitor with a wrapped-key block in the first three lines of its local store. -/
def wrapped (bs : ByteList) : State := { keyed 5 false with mem := Memory.writeBytes [] 0x00F0000000000000 bs }

/-- Some wrapped-key block unwraps under the key that the package's own key agreement gives. -/
theorem some_block : ∃ bs : ByteList, bs.length = 192 ∧ ∃ key, unwrapBlock (bs.map (·.toNat)) = some key := by
  let x := beBytes 48 p384gx ++ beBytes 48 p384gy
  have hx : Laws.IsBytes 96 x := by
    have h1 := Laws.beBytes_bytes 48 p384gx
    have h2 := Laws.beBytes_bytes 48 p384gy
    exact ⟨by rw [List.length_append, h1.1, h2.1], fun b hb => (List.mem_append.1 hb).elim (h1.2 b) (h2.2 b)⟩
  let kek := (hkdf (sharedSecret p384gx p384gy) (label "larvan kload" ++ List.replicate 8 0) 48).take 32
  obtain ⟨w, key, hw, e⟩ := Laws.keyUnwrap_onto (kek := kek) (Laws.hkdf_bytes _ _)
  let l := x ++ w ++ List.replicate 56 0
  have hl : ∀ b ∈ l, b < 256 := fun b hb => by
    rcases List.mem_append.1 hb with hb | hb
    · exact (List.mem_append.1 hb).elim (hx.2 b) (hw.2 b)
    · rw [List.eq_of_mem_replicate hb]; decide
  have n : l.length = 192 := by simp only [l, List.length_append, hx.1, hw.1, List.length_replicate]
  refine ⟨l.map (BitVec.ofNat 8), by rw [List.length_map, n], key, ?_⟩
  have m : (l.map (BitVec.ofNat 8)).map (·.toNat) = l := by
    rw [List.map_map]
    conv => rhs; rw [← List.map_id l]
    exact List.map_congr_left (fun b hb => by
      show (BitVec.ofNat 8 b).toNat = b
      rw [BitVec.toNat_ofNat, Nat.mod_eq_of_lt (hl b hb)])
  rw [m]
  have hxy : (x ++ w).length = 136 := by rw [List.length_append, hx.1, hw.1]
  have e0 : l.drop 136 = List.replicate 56 0 := List.drop_left' hxy
  have e1 : l.take 48 = beBytes 48 p384gx := by
    simp only [l, x, List.append_assoc]; exact List.take_left' (Laws.beBytes_bytes 48 _).1
  have e2 : (l.drop 48).take 48 = beBytes 48 p384gy := by
    simp only [l, x, List.append_assoc]
    rw [List.drop_left' (Laws.beBytes_bytes 48 _).1]; exact List.take_left' (Laws.beBytes_bytes 48 _).1
  have e3 : (l.drop 0x60).take 40 = w := by
    simp only [l, List.append_assoc]
    rw [List.drop_left' hx.1]; exact List.take_left' hw.1
  have e4 : (l.drop 0x88).take 8 = List.replicate 8 0 := by rw [e0]; rfl
  have e5 : (l.drop 0x90).any (fun b => decide (b ≠ 0)) = false := by
    rw [show (0x90 : Nat) = 136 + 8 from rfl, ← List.drop_drop, e0]; rfl
  have bx : beNat (beBytes 48 p384gx) = p384gx := by decide +kernel
  have by' : beNat (beBytes 48 p384gy) = p384gy := by decide +kernel
  have on : onCurve p384gx p384gy = true := by decide +kernel
  simp only [unwrapBlock, e1, e2, e3, e4, e5, bx, by', on, Bool.not_true, Bool.or_false, Bool.false_eq_true, if_false]
  exact e

/-- Such a block. -/
noncomputable def keyBlob : ByteList := some_block.choose

def targetOk (s : State) (a : Word) : Option Target := match (checkMe s a { r := true, size := 64, ldx := true }).1 with | .ok t => some t | .error _ => none

/-- A thread's state after its uncached read of a local-store line. -/
def windowRead (s : State) (t : Target) (va : Nat) : State := loadedMe s (serveWindow s t (max (s.myWho.clk + 1) s.micro.minClk)) va

theorem windowRead_keeps (s : State) (t : Target) (va : Nat) (h : t.loc.place = none) (h' : t.loc ≠ .void) : s.Keeps (windowRead s t va) := by
  have k := (loadLine_keeping s s.myWho t).2 (serveWindow s t (max (s.myWho.clk + 1) s.micro.minClk))
  refine loadedMe_keeps (k ?_) va
  unfold loadLine
  split
  · exact absurd ‹_› h'
  · rw [h]

/-- One line of a key block in the local store. -/
theorem keyLines_step {s : State} {a : Word} {la n : Nat} {acc : List Nat} (h : targetOk s a = some { loc := .ls la }) :
    keyLines s a true (n + 1) acc =
      keyLines (windowRead (checkMe s a { r := true, size := 64, ldx := true }).2 { loc := .ls la } a.toNat) (a + 64) true n
        (acc ++ leBytes 64 ((checkMe s a { r := true, size := 64, ldx := true }).2.lineAt (.ls la)).1.toNat) := by
  unfold targetOk at h
  rcases hc : checkMe s a { r := true, size := 64, ldx := true } with ⟨_ | t, s'⟩
  · rw [hc] at h; cases h
  · rw [hc] at h
    obtain rfl : t = _ := Option.some.inj h
    simp only [keyLines, hc]
    rfl

/-- The monitor's state before each line of the block is read. -/
noncomputable def atLine : Nat → State
  | 0 => wrapped keyBlob
  | n + 1 => windowRead (checkMe (atLine n) (0x00F0000000000000 + 64 * BitVec.ofNat 64 n) { r := true, size := 64, ldx := true }).2
      { loc := .ls (0x00F0000000000000 + 64 * n) } (0x00F0000000000000 + 64 * BitVec.ofNat 64 n : Word).toNat

theorem atLine_mem (n : Nat) : (atLine n).mem = Memory.writeBytes [] 0x00F0000000000000 keyBlob := by
  induction n with
  | zero => rfl
  | succ n ih => rw [atLine, (windowRead_keeps _ _ _ rfl Loc.noConfusion).bytes.mem, ← ih]; exact (check_bytes (atLine n) _ _ _).mem

theorem lineBytes_wrapped (n o : Nat) (h : o + 64 ≤ 192) (d : o % 64 = 0) (a : Word) :
    leBytes 64 ((checkMe (atLine n) a { r := true, size := 64, ldx := true }).2.lineAt (.ls (0x00F0000000000000 + o))).1.toNat =
      ((keyBlob.drop o).take 64).map (·.toNat) := by
  have l : keyBlob.length = 192 := some_block.choose_spec.1
  have m : (checkMe (atLine n) a { r := true, size := 64, ldx := true }).2.mem.readBytes (0x00F0000000000000 + o) 64 = (keyBlob.drop o).take 64 := by
    rw [← Memory.readBytes_part keyBlob [] _ _ _ (by omega), ← atLine_mem n]; exact congrArg (fun m : Memory => m.readBytes _ 64) (check_bytes (atLine n) _ _ _).mem
  have e : (Loc.ls (0x00F0000000000000 + o)).lineBase = .ls (0x00F0000000000000 + o) := by rw [Loc.lineBase]; congr 1; omega
  have len : ((keyBlob.drop o).take 64).length = 64 := by rw [List.length_take, List.length_drop, l]; omega
  have lt := bytesToNat_lt ((keyBlob.drop o).take 64)
  rw [len, show (256 : Nat) ^ 64 = 2 ^ 512 by decide +kernel] at lt
  simp only [State.lineAt, State.bytesAt, e, m, BitVec.toNat_ofNat]
  rw [Nat.mod_eq_of_lt lt]
  have := leBytes_bytesToNat ((keyBlob.drop o).take 64)
  rwa [len] at this

/-- A block that unwraps, in the lines that KLOAD reads. -/
theorem witness_KeysAndJournal_good :
    let s := wrapped keyBlob
    s.me.level = .m ∧ (s.S 1).toNat = 5 ∧ (SMap.get {} s.sdie.keys 5).occupied = false ∧ s.sdie.journal.closed = false ∧
    ∃ blk s' key, keyLines s (s.S 2) true 3 [] = (.ok blk, s') ∧ unwrapBlock blk = some key := by
  intro s
  have t0 : targetOk (atLine 0) 0x00F0000000000000 = some { loc := .ls 0x00F0000000000000 } := by decide +kernel
  have t1 : targetOk (atLine 1) 0x00F0000000000040 = some { loc := .ls 0x00F0000000000040 } := by decide +kernel
  have t2 : targetOk (atLine 2) 0x00F0000000000080 = some { loc := .ls 0x00F0000000000080 } := by decide +kernel
  obtain ⟨l, key, hk⟩ := some_block.choose_spec
  have h : keyLines s (s.S 2) true 3 [] = (.ok (keyBlob.map (·.toNat)), atLine 3) := by
    have h0 := keyLines_step (n := 2) (acc := []) t0
    have h1 := keyLines_step (n := 1) (acc := [] ++ ((keyBlob.drop 0).take 64).map (·.toNat)) t1
    have h2 := keyLines_step (n := 0) (acc := [] ++ ((keyBlob.drop 0).take 64).map (·.toNat) ++ ((keyBlob.drop 64).take 64).map (·.toNat)) t2
    have b0 := lineBytes_wrapped 0 0 (by decide) rfl 0x00F0000000000000
    have b1 := lineBytes_wrapped 1 64 (by decide) rfl 0x00F0000000000040
    have b2 := lineBytes_wrapped 2 128 (by decide) rfl 0x00F0000000000080
    rw [b0] at h0
    rw [b1] at h1
    rw [b2] at h2
    refine h0.trans (h1.trans (h2.trans ?_))
    have cat : [] ++ ((keyBlob.drop 0).take 64).map (·.toNat) ++ ((keyBlob.drop 64).take 64).map (·.toNat) ++ ((keyBlob.drop 128).take 64).map (·.toNat) =
        keyBlob.map (·.toNat) := by
      rw [List.nil_append, ← List.map_append, ← List.map_append]
      congr 1
      have l : keyBlob.length = 192 := l
      rw [List.take_of_length_le (l := keyBlob.drop 128) (by rw [List.length_drop, l]), List.drop_zero, List.append_assoc,
        show keyBlob.drop 128 = (keyBlob.drop 64).drop 64 by rw [List.drop_drop], List.take_append_drop, List.take_append_drop]
    rw [cat]
    rfl
  exact ⟨rfl, rfl, rfl, rfl, _, _, key, h, hk⟩

/-- The debug port attached in mode `m` to a package whose core 0x00 has the context `x` and a trace record, after its journal has started. -/
def debugged (m : Option Nat) (x : Context) : State :=
  let s := { graphed [] with cores := [(0, { ctxs := [(0, x)], trace := [⟨1, 2, 3, 4⟩] })] }
  { s with sdie := { s.sdie with dbgMode := m, weirs := [], watchReports := [(5, 6, 7)] } }

/-- Both modes and neither; a closed journal and a package not yet started; a thread that runs, is stopped, is in a wait and is absent;
image offsets that can be reached and not; lines that are backed and not; slots, RCBs and save pools for a launch that is made, one refused
at the slot, one at the RCB and one for want of a save area. -/
theorem witness_DebugPortActs :
    ((debugged none (prog [])).sdie.dbgMode = none ∧ (debugged (some 0) (prog [])).sdie.dbgMode ≠ some 1 ∧ (debugged (some 1) (prog [])).sdie.dbgMode = some 1 ∧
      (debugged (some 1) (prog [])).sdie.dbgParked = [] ∧ (debugged none (prog [])).sdie.journal.closed = false ∧ (debugged none (prog [])).platform.stage ≠ 0 ∧
      (small {}).platform.stage = 0 ∧ (hosted {} [] true).sdie.journal.closed = true) ∧
    (((debugged (some 1) (prog [])).core 0).trace.drop 0 = [⟨1, 2, 3, 4⟩] ∧ (debugged (some 1) (prog [])).sdie.watchReports.drop 0 = [(5, 6, 7)] ∧
      crAssigned (0 : BitVec 10).toNat = true ∧ crAssigned (0x3FF : BitVec 10).toNat = false) ∧
    (let s := debugged (some 1) (prog [])
     (s.core 0).boundTo 0 = some 0 ∧ (s.core 0).boundTo 1 = none ∧ threadCtx s 0 1 = none ∧ (s.ctxOf ⟨0, 0⟩).stopped = false ∧ atPoint (s.ctxOf ⟨0, 0⟩) = true ∧
       ¬ ((s.ctxOf ⟨0, 0⟩).stopped = true ∨ (s.ctxOf ⟨0, 0⟩).st = .parked)) ∧
    (let s := debugged (some 1) { prog [] with stopped := true }
     (s.ctxOf ⟨0, 0⟩).stopped = true ∧ (0x2E0 : Word).toNat % 8 = 0 ∧ (0x2E0 : Word).toNat < 0x2E8 ∧ ¬ (0x2E8 : Word).toNat < 0x2E8 ∧ (0x2E4 : Word).toNat % 8 ≠ 0) ∧
    (atPoint { prog [] with wait := waitWord 1 0, pend := .reply } = false) ∧
    (let s := debugged (some 1) (prog [])
     s.delivered (.main (64 * 0x40)) = true ∧ 64 * 0x40 + 64 ≤ s.capacity ∧ s.egressOf (64 * 0x40) = none ∧ s.regionLine 0x40 = none ∧
       ¬ 64 * (s.capacity / 64) + 64 ≤ s.capacity) ∧
    (let s := debugged (some 1) (prog [])
     slotOpen s 0 0 = false ∧ slotOpen s 0 3 = true ∧ (debugRegister s 6 0).isNone = true ∧
       (match debugRegister s 5 0 with
        | some s1 => (match createContext (yieldSlot15 s1 0 3) 0 3 5 0 [] 0 0 1 .debug with | .ok s3 => some ((s3.reg 5).exhausted, s1.held 5, (s1.reg 5).exhausted) | .error _ => none)
        | none => none) = some (false, false, false) ∧
       (match debugRegister s 5 0 with
        | some s1 => (createContext { yieldSlot15 s1 0 3 with rcbs := [(5, { unit3 with saveAreas := 1 })] } 0 3 5 0 [] 0 0 1 .debug).toOption.isNone
        | none => false) = true ∧
       ({ unit3 with exhausted := true } : RcbReg).exhausted = true ∧ (region3 unit3 1 []).held 3 = true) := by
  decide +kernel

/-- Each stage of bring-up, with an error it can have and one it cannot; both ends of the points of operation; gating that starts and does
not; a line that is backed and one past the end; a slot that issues nothing, of a thread that can issue, that is stopped and that waits. -/
theorem witness_PlatformActs :
    (({ stage := 6 } : Platform).stage ≥ 6 ∧ ({ failed := true } : Platform).failed = true ∧ ({ stage := 5 } : Platform).stage < 6 ∧ ({} : Platform).failed = false ∧
      2 ∈ bootCodes 1 ∧ 5 ∈ bootCodes 2 ∧ 6 ∈ bootCodes 3 ∧ 1 ∈ bootCodes 4 ∧ 7 ∈ bootCodes 5 ∧ 7 ∉ bootCodes 6 ∧ 3 ∉ bootCodes 1) ∧
    (({ running := 3 } : Platform).running = 3 ∧ ({ gating := 2 } : Platform).gating - 1 ≠ 0 ∧ ({ gating := 1 } : Platform).gating - 1 = 0 ∧ ({} : Platform).running ≠ 3 ∧ ({ gating := 1 } : Platform).gating ≠ 0 ∧ ({} : Platform).gating = 0) ∧
    (64 * 5 < (small {}).capacity ∧ ¬ 64 * (6 * 2 ^ 34) < (small {}).capacity ∧ ((small {}).core 0).sq.length < 64 ∧ ((small {}).core 0).heldSq = []) ∧
    (let s := small (prog [])
     s.turn < 255 ∧ (s.core s.turn).slotpart = (s.core s.turn).slotpartReg ∧ ({ s with cycle := 1 }.core 0).boundTo (1 % 16) = none ∧ (s.core s.turn).boundTo (s.cycle % 16) = some 0 ∧
       ((s.core s.turn).ctx 0).stopped = false ∧ (s.core s.turn).dead = false ∧ ((s.core s.turn).ctx 0).st = .bound ∧ ((s.core s.turn).ctx 0).wait = 0 ∧
       ((s.core s.turn).ctx 0).pend = .none ∧ ((s.core s.turn).ctx 0).readyAt ≤ s.cycle) ∧
    (({ prog [] with wait := waitWord 1 0, pend := .reply } : Context).waitKind = 1 ∧ ({ prog [] with wait := waitWord 2 0, pend := .reissue } : Context).waitKind = 2 ∧
      ({ prog [] with wait := waitWord 6 0, pend := .work } : Context).waitKind = 6 ∧ ({ prog [] with wait := waitWord 7 0, pend := .reissue } : Context).waitKind = 7) := by
  decide +kernel

/-- Core 256, context 24, RCB 2,048 and port 16 are the first that do not exist. -/
theorem witness_UnitsThatDoNotExist : (256 ≤ 256 ∨ 24 ≤ 0) ∧ (256 ≤ 0 ∨ 24 ≤ 24) ∧ 2048 ≤ 2048 ∧ 16 ≤ 16 := by decide

/-- A well-formed instruction that has a word. -/
theorem witness_EncodingRoundTrips : (Instr.add 6 2 5).wf = true ∧ encode (.add 6 2 5) = some 0x00611401 ∧ (Instr.bne 3 0 0x7FFB).wf = true := by decide +kernel

/-- The word of ADD s3, s1, s2, the word of IMMX, a reserved word and, for chains, what may follow them, at a thread's pc. -/
def holding (x : Context) (w : Nat) : State := { small x with mem := Memory.writeBytes [] 0x00F0000000001000 (natToBytes 8 w) }

/-- The word that a fetch answers. -/
def fetchedWord (r : Except (Nat × Word) (BitVec 32) × State) : Option (BitVec 32) := match r.1 with | .ok w => some w | .error _ => none

theorem fetchedWord_some {r : Except (Nat × Word) (BitVec 32) × State} {w : BitVec 32} (h : fetchedWord r = some w) : ∃ s2, r = (.ok w, s2) := by
  rcases r with ⟨_ | t, s'⟩
  · cases h
  · obtain rfl : t = w := Option.some.inj h
    exact ⟨s', rfl⟩

/-- The word that the thread on offer fetches. -/
def fetched0 (s : State) : Option (BitVec 32) := fetchedWord (fetch { offerCount { s with tick := s.tick + 1 } with cur := ⟨0, 0⟩ })

/-- Nothing else to do; a slot with no thread, with one that waits and with one that is ready; a word that decodes, one that does not, and
an address that nothing can be fetched from; a prefix misused; an event that the schedule takes, and one that wakes a thread. -/
theorem witness_StepsRunInstructionsAndEvents :
    (let s := holding (prog []) 0x00308801
     s.due = [] ∧ chosen s = none ∧ fetched0 s = some 0x00308801 ∧ decode 0x00308801 = .ok (.add 3 1 2) ∧ s.me.chain.len = 0 ∧
       (let s1 := offerCount { s with tick := s.tick + 1 }
        (s1.core s1.turn).boundTo (s1.cycle % 16) = some 0 ∧ ((s1.core s1.turn).ctx 0).st = .bound ∧ ((s1.core s1.turn).ctx 0).stopped = false ∧
          ((s1.core s1.turn).ctx 0).wait = 0 ∧ ((s1.core s1.turn).ctx 0).pend = .none ∧ ((s1.core s1.turn).ctx 0).readyAt ≤ s1.cycle ∧ (s1.core s1.turn).dead = false ∧
          pcMatch (s1.core s1.turn) ((s1.core s1.turn).ctx 0) = false) ∧
       (match exec (.add 3 1 2) s with | .next _ => true | _ => false) = true) ∧
    (fetched0 (holding (prog []) 0xFFFFFFFF) = some 0xFFFFFFFF ∧ (match decode 0xFFFFFFFF with | .error _ => true | _ => false) = true ∧
      fetched0 (holding { prog [] with pc := 0x40 } 0) = none ∧ fetched0 (holding { prog [] with pc := 0x40, chain := { len := 1, hint := some 0 } } 0) = none) ∧
    (let x : Context := { prog [] with chain := { len := 1, rep := some (3, 0) } }
     x.chain.len ≠ 0 ∧ fetched0 (holding x (0xCC000002 * 2 ^ 32)) = some 0xCC000002 ∧ decode 0xCC000002 = .ok .halt ∧ (Instr.halt).prefixKind = none ∧
       prefixMisuse x.chain 0xCC000002 .halt = true) ∧
    (({ small (prog []) with cycle := 1 }.core 0).boundTo (1 % 16) = none ∧ ((small { prog [] with stopped := true }).me).stopped = true) := by
  refine ⟨⟨?_, rfl, ?_, ?_, ?_, ?_, ?_⟩, ⟨?_, ?_, ?_, ?_⟩, ?_, ?_⟩ <;> decide +kernel

/-- The schedule takes the agenda's entry, whatever order it is in; the entry goes on without waking a thread. -/
theorem witness_StepsRunInstructionsAndEvents_agenda :
    let s : State := { small (prog []) with agenda := List.replicate (Config.schedule 0 + 1) (.wearUpdate ⟨0, 0⟩) }
    let n := Config.schedule s.tick % (s.agenda.length + 1)
    s.due = [] ∧ laneOf s (.wearUpdate ⟨0, 0⟩) = none ∧ s.agenda[n]? = some (.wearUpdate ⟨0, 0⟩) ∧
      ∃ t, exec (.wearUpdate ⟨0, 0⟩) { s with tick := s.tick + 1, agenda := s.agenda.eraseIdx n } = .next t ∧ t.woken = none := by
  intro s n
  refine ⟨rfl, rfl, ?_, _, rfl, rfl⟩
  have e : n = Config.schedule 0 := by
    show Config.schedule 0 % ((List.replicate (Config.schedule 0 + 1) (Instr.wearUpdate ⟨0, 0⟩)).length + 1) = _
    rw [List.length_replicate, Nat.mod_eq_of_lt (by omega)]
  show (List.replicate (Config.schedule 0 + 1) (Instr.wearUpdate ⟨0, 0⟩))[n]? = _
  rw [e, List.getElem?_replicate, if_pos (Nat.lt_succ_self _)]

/-- A request that a home has let go on, and a message whose channel the mesh does not hold. -/
theorem witness_StepsRunInstructionsAndEvents_due :
    (let s : State := { small (prog []) with due := [.wearUpdate ⟨0, 7⟩] }
     s.due = .wearUpdate ⟨0, 7⟩ :: [] ∧ ∃ t, exec (.wearUpdate ⟨0, 7⟩) { s with tick := s.tick + 1, due := [] } = .next t ∧ t.woken = none) ∧
    (let s := small (prog [])
     (laneOf s (.agentWback 3 9)).isSome = true ∧ s.mesh.messages = [] ∧ ∃ t, exec (.agentWback 3 9) s = .next t ∧ t.woken = none) := by
  refine ⟨⟨rfl, _, rfl, rfl⟩, by decide +kernel, rfl, _, rfl, rfl⟩

/-- The same for an event that wakes a thread, which then carries its instruction out. -/
theorem witness_StepsRunInstructionsAndEvents_woken :
    let x : Context := { prog [(1, 5), (2, 6)] with wait := waitWord 2 0, pend := .reissue, ir := 0x00308801 }
    let s : State := { small x with agenda := List.replicate (Config.schedule 0 + 1) (.wake 0 0) }
    let n := Config.schedule s.tick % (s.agenda.length + 1)
    s.agenda[n]? = some (.wake 0 0) ∧ ∃ t, exec (.wake 0 0) { s with tick := s.tick + 1, agenda := s.agenda.eraseIdx n } = .next t ∧ t.woken = some ⟨0, 0⟩ ∧
      decode (t.ctxOf ⟨0, 0⟩).ir = .ok (.add 3 1 2) := by
  intro x s n
  have h : (nextOf (exec (.wake 0 0) { s with tick := s.tick + 1, agenda := s.agenda.eraseIdx n })).map (fun t => (t.woken, (t.ctxOf ⟨0, 0⟩).ir)) =
      some (some ⟨0, 0⟩, 0x00308801) := by decide +kernel
  refine ⟨?_, ?_⟩
  rotate_left
  · rcases hc : exec (.wake 0 0) { s with tick := s.tick + 1, agenda := s.agenda.eraseIdx n } with t | f | r
    · rw [hc] at h
      have h := Option.some.inj h
      exact ⟨t, rfl, congrArg Prod.fst h, by rw [show (t.ctxOf ⟨0, 0⟩).ir = _ from congrArg Prod.snd h]; decide +kernel⟩
    · rw [hc] at h; cases h
    · rw [hc] at h; cases h
  have e : n = Config.schedule 0 := by
    show Config.schedule 0 % ((List.replicate (Config.schedule 0 + 1) (Instr.wake 0 0)).length + 1) = _
    rw [List.length_replicate, Nat.mod_eq_of_lt (by omega)]
  show (List.replicate (Config.schedule 0 + 1) (Instr.wake 0 0))[n]? = _
  rw [e, List.getElem?_replicate, if_pos (Nat.lt_succ_self _)]

/-- A boundary of every kind. -/
theorem witness_BoundariesFollowInOrder :
    ((small { prog [] with st := .parked }).me.st ≠ .bound ∧ ({ prog [] with watchHit := some 0x40 } : Context).watchHit = some 0x40 ∧
      ({ prog [] with step := true } : Context).watchHit = none ∧ ({ prog [] with stopReq := true } : Context).parkReq = false ∧
      ({ prog [] with parkReq := true } : Context).stopReq = false ∧ (prog []).slot < 15 ∧ ((small (prog [])).core 0).resuming = [] ∧
      ({ prog [] with budgetStop := true } : Context).budgetStop = true ∧ ({ prog [] with dbgStep := true } : Context).budgetStop = false ∧
      ∀ p ∈ ((small (prog [])).core 0).ctxs, p.2.budgetDue = false) ∧ (small (prog [])).Calm := by
  exact ⟨by decide +kernel, rfl, rfl, rfl, rfl, rfl, rfl⟩

/-- Memories in the canonical form. -/
theorem witness_MemoryReadsBack : Memory.wf [] = true ∧ Memory.wf [(3, 5), (9, 1)] = true := by decide

/-- The machine at reset, with no step of another party due, steps on. -/
theorem witness_StepsKeepMemoryCanonical : (small {}).Canonical ∧ ∃ t, step (small {}) = .next t := by
  refine ⟨rfl, ?_⟩
  have e : step (small {}) = offer { small {} with tick := 1 } := rfl
  have h : (match offer { small {} with tick := 1 } with | .next _ => true | _ => false) = true := by decide +kernel
  rw [e]
  revert h
  cases offer { small {} with tick := 1 } with
  | next t => exact fun _ => ⟨t, rfl⟩
  | fault f => exact fun h => nomatch h
  | refused r => exact fun h => nomatch h

/-! ### The clauses that the second review had added -/

/-- A vector addition of two i8 lines of local store under line codes of i8; the descriptors of the operands and of the buffers' tiles. -/
def integers : State := { small tiled with side := [(0x00F0000000001000 / 64, 1), (0x00F0000000002000 / 64, 1)] }

def addBarge : Barge := { st := .running, cmd := { addCmd with td := tile 0x00F0000000001000 3 1 8, ta := tile 0x00F0000000002000 3 1 8, tb := tile 0x00F0000000002000 3 1 8 }, seq := 1, tid := 1 }

def matrixBarge (w : Nat) (td ta : BitVec 128) : Barge := { st := .running, cmd := { word := BitVec.ofNat 32 w, td := td, ta := ta, x := 3, y := 0x00F0000000002000 }, seq := 1, tid := 1 }

/-- The buffer 0 full of an 8 × 8 operand. -/
def fullBuf : State := { integers with cores := [(0, { ctxs := [(0, tiled)], bufs := [(0, { st := .full, rows := 8, cols := 8, integer := true })] })] }

/-- Units of a vector barge, of MXST, CBLD and MXMA, of a copy, a fill and a gather, each of which completes on operands of local store. -/
theorem witness_UnitsComputeTheirResults :
    (addBarge.vec.op = 0x48 ∧ addBarge.vec.member = 1 ∧ addBarge.lines = [] ∧ addBarge.vec.td.valid = true ∧ addBarge.vec.ta.valid = true ∧
      ownLs 0 addBarge.vec.td.base = true ∧ ownLs 0 addBarge.vec.ta.base = true ∧ addBarge.vec.usesB = true ∧
      ends (processUnit integers 0 2 addBarge 0 false) = 1) ∧
    (let b := matrixBarge 0x80000000 0 (tile 0x00F0000000002000 3 1 8)
     b.cmd.word.toNat / 2 ^ 25 = 0x40 ∧ (Tile.ofBits b.cmd.ta).valid = true ∧ (Tile.ofBits b.cmd.ta).order ≤ 7 ∧ ends (processUnit integers 0 1 b 0 false) = 1) ∧
    (let b := matrixBarge 0xB0000000 0 0
     b.cmd.word.toNat / 2 ^ 25 = 0x58 ∧ b.cmd.y.toNat % 512 = 0 ∧ ownLs 0 b.cmd.y.toNat = true ∧ ends (processUnit integers 0 1 b 7 false) = 1) ∧
    (let b := matrixBarge 0x82000000 (tile 0x00F0000000004000 3 4 8) (tile 0x00F0000000002000 3 1 8)
     b.cmd.word.toNat / 2 ^ 25 = 0x41 ∧ (Tile.ofBits b.cmd.td).valid = true ∧ (Tile.ofBits b.cmd.td).fmt = 4 ∧
       ends (processUnit { fullBuf with side := fullBuf.side ++ [(0x00F0000000004000 / 64, 4), (0x00F0000000004040 / 64, 4), (0x00F0000000004080 / 64, 4), (0x00F00000000040C0 / 64, 4)] } 0 1 b 0 false) = 1) ∧
    ((Tile.ofBits copyCmd.td).policy < 2 ∧ (Tile.ofBits copyCmd.td).valid = true ∧ (Tile.ofBits copyCmd.ta).valid = true ∧
      ends (processUnit integers 0 0 { st := .running, cmd := copyCmd, seq := 1, tid := 1 } 0 false) = 1 ∧
      ends (processUnit integers 0 0 { st := .running, cmd := { copyCmd with word := 0x72000007 }, seq := 1, tid := 1 } 0 false) = 1) ∧
    (let c : Command := { word := 0x74000000, td := tile 0x00F0000000001000 3 1 8, ta := tile 0x00F0000000002000 3 1 8, tb := tile 0x00F0000000003000 0 1 1 }
     c.word.toNat / 2 ^ 25 = 0x3A ∧ (Tile.ofBits c.tb).valid = true ∧ 3 ≤ (Tile.ofBits c.ta).height ∧
       ends (processUnit { integers with side := SMap.put integers.side (0x00F0000000003000 / 64) 1 } 0 0 { st := .running, cmd := c, seq := 1, tid := 1 } 0 false) = 1) := by
  decide +kernel

/-- R70's, R62's and R73's examples, a rounding that is huge, one that is away from zero and one that is tiny; a scale that is clamped. -/
theorem witness_NumberFormatsConvert :
    roundTo 1 .ne (.fin 509 (-2)) = (127, 16) ∧ (roundTo 1 .ne (.fin 255 (-1))).1 = 127 ∧ (roundTo 1 .ne (.fin 255 (-1))).2 = 1 ∧
    roundTo 1 .ne (.fin (-257) (-1)) = (0xFFFFFF80, 16) ∧ roundTo 1 .ne .nan = (0, 1) ∧
    roundTo 3 .ne (.fin 31 4) = (0x7F, 0b10100) ∧ (roundTo 3 .ru (.fin 17 0)).1 = 0x59 ∧ roundTo 3 .ne (.fin 1 (-11)) = (0, 0b11000) ∧
    patValue 3 0 0x7F = some (.fin 15 5) ∧ patValue 3 0 0x01 = some (.fin 1 (-9)) ∧ amaxScale 1 [.fin 1 200] = 127 ∧ amaxScale 3 [.fin 481 0] = 1 ∧
    (List.range 8).map (fun j => cb2Weight 0x2A57 0x00E4 j 0) =
      [.fin (-1) (-2), .fin (-5) (-2), .fin 11 (-2), .fin (-13) (-2), .fin 3 (-2), .fin (-1) (-2), .fin 3 (-2), .fin 3 (-2)] := by
  decide +kernel

/-- No region's record is registered, and no INV is under way. -/
theorem witness_NoRecords : (small (prog [])).NoRecords ∧ (paged (prog [])).NoRecords :=
  ⟨⟨fun _ => rfl, fun _ _ _ _ h => nomatch h⟩, ⟨fun _ => rfl, fun _ _ _ _ h => nomatch h⟩⟩

/-- Contexts at a park point and not at one; a need that lasts and none; lines at rest and in motion for FILL. -/
theorem witness_ContextsParkAndResume_points :
    ((prog []).wait.toNat / 2 ^ 60 = 0 ∧ (prog []).chain.len = 0 ∧
      (let x : Context := { prog [] with wait := waitWord 1 0, pend := .reply }
       x.wait.toNat / 2 ^ 60 = 1 ∧ x.pend ≠ .none ∧ x.stopped = false) ∧
      (let x : Context := { prog [] with wait := waitWord 2 0, pend := .message }
       x.wait.toNat / 2 ^ 60 = 2 ∧ x.pend ≠ .none)) ∧
    (let s := pagedMoving (prog [])
     let t : Target := { loc := .main 0x100000 }
     (match readyLines s (.wake 0 0) .gets (saveLines t) with | .error _ => true | .ok _ => false) = true ∧
       (match readyLines (paged (prog [])) (.wake 0 0) .gets (saveLines t) with | .error _ => false | .ok _ => true) = true) ∧
    ((SpillNeed.any, (prog []).tid) ∉ ((small (prog [])).core 0).spillFails ∧ ((small (prog [])).core 0).parking = []) := by
  decide +kernel

/-- A line that a peer granted and that the LLC holds for a lease; a copy that is far behind its view and one that is not; a FWD on its way and
none; a party that needs a line and one that does not. -/
theorem witness_CoherenceFollowsTheTables_more :
    (foreignLine (2 ^ 61 + 5) = true ∧ foreignLine 9 = false ∧
      ({ l2 := [(64, [(2 ^ 61 + 5, copy9 .v none false)])] } : Micro).l2At 64 (2 ^ 61 + 5) = some (copy9 .v none false) ∧ 3 ≤ (copy9 .v none false).img.rts) ∧
    (let s : State := { small (prog []) with cores := [(0, { ctxs := [(0, prog [])], views := [⟨5, 130⟩] })] }
     (s.core 0).viewOf 5 = some 130 ∧ 127 < ((130 : BitVec 32) - BitVec.ofNat 32 0).toNat ∧ ¬ 127 < ((130 : BitVec 32) - BitVec.ofNat 32 3).toNat) ∧
    (fwdComing { small (prog []) with agenda := [.agentFwd 2 9 .gets] } 2 9 = true ∧ fwdComing (small (prog [])) 2 9 = false ∧
      answerComing { small (prog []) with agenda := [.agentFwd 2 9 .gets] } 2 9 = true ∧ answerComing (small (prog [])) 2 9 = false) ∧
    ((small (prog [])).needs .sdie ((small (prog [])).qtable / 64 + 0xD0000 / 64) = true ∧ (small (prog [])).needs .sdie 9 = false) := by
  decide +kernel

/-- Streams that are established and not; a TLP inside one page and one that is not; readings beyond a limit and within. -/
theorem witness_HostWindowsAct_streams :
    ((hosted {} [] false).onStream (some 0) = true ∧ (hosted {} [] false).onStream none = false ∧ (hosted {} [] false).onStream (some 5) = false ∧
      unsecured.onStream (some 0) = false) ∧
    (1 ≤ (64 : Nat) ∧ 0xFC0 % 4096 + 64 ≤ 4096 ∧ ¬ 0xFC1 % 4096 + 64 ≤ 4096) ∧
    (let p : Platform := { thermal := 0x3B6, draw := 2500, power := 2400, overSince := 1, running := 3 }
     p.power.toNat < p.draw.toNat ∧ p.overSince ≠ 0 ∧ p.overSince + msUnits / 10 ≤ msUnits ∧ p.running = 3) ∧
    (let p : Platform := { thermal := 0x3B6, draw := 2300, power := 2400, coolSince := 1 }
     p.draw.toNat + 100 ≤ p.power.toNat ∧ p.coolSince ≠ 0 ∧ p.coolSince + 10 * msUnits ≤ 11 * msUnits) := by
  decide +kernel

/-- A JOIN of a peer that is aligned, backed and outside the egress regions, and one that is not; a grant that covers a frame; a launched thread in
slot 15. -/
theorem witness_FabricAndMeshAct_grants :
    (let s := hosted {} [(0, metered 64 [])] false
     s.delivered (.main 0x4000) = true ∧ ¬ s.capacity < 0x4000 + 128 ∧ 0x4000 % 128 = 0 ∧ s.inEgress (.main 0x4000) = false ∧ s.inEgress (.main 0x4040) = false ∧
       s.inEgress (.main 0x1000) = true) ∧
    (let g : Grant := ⟨1, 7, 0x10000, 6, 0⟩
     g.covers 1 0x10040 = true ∧ g.covers 1 0x20000 = false ∧ g.covers 2 0x10040 = false ∧
       [g].find? (fun x => decide (x.port = 1) && decide (x.id = 7)) = some g) ∧
    (let s : State := { small (sup []) with sdie := { (small (sup [])).sdie with dbgMode := some 1, dbgLaunched := [(0, 1)] } }
     s.sdie.dbgParked = [] ∧ s.sdie.dbgLaunched = [(0, 0 + 1)] ∧ (s.core 0).boundTo 15 = some 0) := by
  decide +kernel

/-- A comparator that holds the pc of a thread, of a claimed slot and of an unclaimed one, and one whose high bits are set; an instruction and a step of
the device; an operation that comes from outside and one that does not, and one whose line is not at rest. -/
theorem witness_StepsRunInstructionsAndEvents_more :
    (let c (v : Word) (l : BitVec 16) : Core := { pcmp := [(0, v)], pcmpctl := 0x8001, claims := l }
     pcMatch (c 0x00F0000000001000 0) (prog []) = true ∧ pcMatch (c 0x01F0000000001000 0) (prog []) = false ∧ pcMatch (c 0x00F0000000001004 0) (prog []) = false ∧
       (c 0x00F0000000001000 1).claims.getLsbD 0 = true ∧ (prog []).skipCmp = false) ∧
    (Instr.isEvent (.add 1 2 3) = false ∧ Instr.wf (.add 1 2 3) = true ∧ Instr.isEvent .heldRecordRetry = true) ∧
    (isOutside (.bar2Read ⟨0, none⟩ 8) = true ∧ isOutside (.add 1 2 3) = false ∧
      (match portReady (.peerAccess (.publish 0 5)) (paged (prog [])) with | .ok _ => true | .error _ => false) = true) := by
  decide +kernel

/-- A thread with a stop and a park pending at once, with each alone, and with neither; a single step and a watched line. -/
theorem witness_BoundariesFollowInOrder_both :
    (let x : Context := { prog [] with stopReq := true, parkReq := true }
     x.st = .bound ∧ x.slot < 15 ∧ ((small x).core 0).resuming = [] ∧ (∀ p ∈ ((small x).core 0).ctxs, p.2.budgetDue = false) ∧ x.watchHit = none ∧ x.step = false ∧
       (x.dbgStep || x.stopReq) = true ∧ x.parkReq = true) ∧
    ({ prog [] with parkReq := true } : Context).stopReq = false ∧ ({ prog [] with step := true } : Context).watchHit = none ∧
    ({ prog [] with watchHit := some 4 } : Context).watchHit = some 4 ∧ ({ small (prog []) with cores := [(0, { ctxs := [(0, { prog [] with st := .parked })] })] } : State).me.st = .parked := by
  decide +kernel

end Sys2Proof.Tests
end

section
/-! SUPPORT. The scalar register groups MULDIV, SHIFT and TREE (R58, R126, R127, R128): how a register operation completes, what each
result function computes, and the obligation on them. -/

namespace Sys2Proof.Machine

/-! ### Register operations complete by writing their result (R124) -/

/-- An instruction that is a register operation of two sources writes its result. -/
theorem binary_writes {s : State} {i : Instr} {d a b : BitVec 5} {f : Word → Word → Word} {v : Word}
    (h : exec i s = .next (binary s d a b f)) (hv : f (s.S a) (s.S b) = v) : Writes s i d v := by
  obtain ⟨u, hu, hr⟩ := writeRetire_only s d v
  exact ⟨u, hu, by rw [h, binary, hv, hr]⟩

/-- An instruction that is a unary register operation writes its result. -/
theorem unary_writes {s : State} {i : Instr} {d a : BitVec 5} {f : Word → Word} {v : Word}
    (h : exec i s = .next (unary s d a f)) (hv : f (s.S a) = v) : Writes s i d v := by
  obtain ⟨u, hu, hr⟩ := writeRetire_only s d v
  exact ⟨u, hu, by rw [h, unary, hv, hr]⟩

/-! ### MULDIV (R58, R126) -/

theorem toNat_ne_zero {x : Word} (hx : x ≠ 0) : x.toNat ≠ 0 := fun h => hx (BitVec.eq_of_toNat_eq h)

theorem mul_eq_ofNat (x y : Word) : x * y = BitVec.ofNat 64 (x.toNat * y.toNat) := by
  rw [BitVec.ofNat_mul, BitVec.ofNat_toNat, BitVec.ofNat_toNat, BitVec.setWidth_eq, BitVec.setWidth_eq]

theorem divS_zero (x : Word) : divS x 0 = BitVec.allOnes 64 := if_pos rfl
theorem remS_zero (x : Word) : remS x 0 = x := if_pos rfl
theorem divU_zero (x : Word) : divU x 0 = BitVec.allOnes 64 := if_pos rfl
theorem remU_zero (x : Word) : remU x 0 = x := if_pos rfl

/-- A signed quotient and remainder give the dividend back, also where the quotient wraps. -/
theorem divS_mul_add_remS {x y : Word} (hy : y ≠ 0) : divS x y * y + remS x y = x := by
  rw [divS, remS, if_neg hy, if_neg hy]
  calc BitVec.ofInt 64 (x.toInt.tdiv y.toInt) * y + BitVec.ofInt 64 (x.toInt.tmod y.toInt)
      = BitVec.ofInt 64 (x.toInt.tdiv y.toInt * y.toInt + x.toInt.tmod y.toInt) := by
        rw [BitVec.ofInt_add, BitVec.ofInt_mul, BitVec.ofInt_toInt]
    _ = x := by rw [Int.add_comm, Int.tmod_add_tdiv_mul, BitVec.ofInt_toInt]

/-- A signed remainder is that of the integers: it never wraps. -/
theorem toInt_remS {x y : Word} (hy : y ≠ 0) : (remS x y).toInt = x.toInt.tmod y.toInt := by
  rw [remS, if_neg hy, ← BitVec.toInt_srem, BitVec.ofInt_toInt]

theorem natAbs_remS_lt {x y : Word} (hy : y ≠ 0) : (remS x y).toInt.natAbs < y.toInt.natAbs := by
  have hpos : 0 < y.toInt.natAbs := Int.natAbs_pos.2 (fun h => hy (BitVec.eq_of_toInt_eq h))
  rw [toInt_remS hy, Int.natAbs_tmod]
  exact Nat.mod_lt _ hpos

/-- A remainder that is not zero takes the sign of the dividend. -/
theorem remS_neg_iff {x y : Word} (hy : y ≠ 0) (hr : remS x y ≠ 0) : (remS x y).toInt < 0 ↔ x.toInt < 0 := by
  have hne : (remS x y).toInt ≠ 0 := fun h => hr (BitVec.eq_of_toInt_eq h)
  rw [toInt_remS hy] at hne ⊢
  rcases Int.lt_or_le x.toInt 0 with hx | hx
  · have := Int.tmod_nonneg y.toInt (a := -x.toInt) (by omega)
    rw [Int.neg_tmod] at this
    omega
  · have := Int.tmod_nonneg y.toInt hx
    omega

theorem toNat_divU {x y : Word} (hy : y ≠ 0) : (divU x y).toNat = x.toNat / y.toNat := by
  rw [divU, if_neg hy, BitVec.toNat_ofNat, Nat.mod_eq_of_lt (Nat.lt_of_le_of_lt (Nat.div_le_self _ _) x.isLt)]

theorem toNat_remU {x y : Word} (hy : y ≠ 0) : (remU x y).toNat = x.toNat % y.toNat := by
  rw [remU, if_neg hy, BitVec.toNat_ofNat, Nat.mod_eq_of_lt (Nat.lt_of_le_of_lt (Nat.mod_le _ _) x.isLt)]

theorem toNat_eq_divU_remU {x y : Word} (hy : y ≠ 0) :
    x.toNat = y.toNat * (divU x y).toNat + (remU x y).toNat ∧ (remU x y).toNat < y.toNat := by
  have hpos : 0 < y.toNat := Nat.pos_of_ne_zero (toNat_ne_zero hy)
  rw [toNat_divU hy, toNat_remU hy]
  exact ⟨(Nat.div_add_mod _ _).symm, Nat.mod_lt _ hpos⟩

/-! ### SHIFT (R127) -/

theorem shamt_lt (y : Word) : shamt y < 64 := Nat.mod_lt _ (by decide)

theorem toNat_shiftLeft_eq_mul (x : Word) (n : Nat) : (x <<< n).toNat = x.toNat * 2 ^ n % 2 ^ 64 := by
  rw [BitVec.toNat_shiftLeft, Nat.shiftLeft_eq]

theorem toNat_ushiftRight_eq_div (x : Word) (n : Nat) : (x >>> n).toNat = x.toNat / 2 ^ n := by
  rw [BitVec.toNat_ushiftRight, Nat.shiftRight_eq_div_pow]

theorem toInt_sshiftRight_eq_div (x : Word) (n : Nat) : (x.sshiftRight n).toInt = x.toInt / 2 ^ n := by
  rw [BitVec.toInt_sshiftRight, Int.shiftRight_eq_div_pow]
  norm_cast

/-- A rotation by `n` moves bit `j` to bit `(j + n) mod 64`. -/
theorem getLsbD_rotateLeft_moved (x : Word) {n j : Nat} (hn : n < 64) (hj : j < 64) :
    (x.rotateLeft n).getLsbD ((j + n) % 64) = x.getLsbD j := by
  rw [BitVec.getLsbD_rotateLeft_of_le hn]
  by_cases hw : j + n < 64
  · have e : (j + n) % 64 = j + n := Nat.mod_eq_of_lt hw
    rw [e]
    simp [hw]
  · have e : (j + n) % 64 = j + n - 64 := by omega
    have e' : 64 - n + (j + n - 64) = j := by omega
    have lt : j + n - 64 < n := by omega
    rw [e, e']
    simp [lt]

theorem countLz_zero : countLz 0 = 64 := rfl

theorem countLz_of_ne {x : Word} (hx : x ≠ 0) : countLz x = 63 - x.toNat.log2 := if_neg hx

/-- The highest one bit of a word that is not zero is at `log2`. -/
theorem log2_toNat_lt {x : Word} (hx : x ≠ 0) : x.toNat.log2 < 64 :=
  (Nat.log2_lt (toNat_ne_zero hx)).2 x.isLt

theorem countLz_le (x : Word) : countLz x ≤ 64 := by
  by_cases hx : x = 0
  · rw [hx, countLz_zero]
  · rw [countLz_of_ne hx]; omega

theorem getLsbD_of_countLz_le {x : Word} {j : Nat} (hj : 64 - countLz x ≤ j) : x.getLsbD j = false := by
  by_cases hx : x = 0
  · rw [hx]; exact BitVec.getLsbD_zero
  · rw [countLz_of_ne hx] at hj
    have := log2_toNat_lt hx
    have le : x.toNat.log2 + 1 ≤ j := by omega
    exact Nat.testBit_lt_two_pow (Nat.lt_of_lt_of_le Nat.lt_log2_self (Nat.pow_le_pow_right (by decide) le))

theorem getLsbD_countLz {x : Word} (h : countLz x < 64) : x.getLsbD (63 - countLz x) = true := by
  have hx : x ≠ 0 := by rintro rfl; exact absurd h (by decide)
  have := log2_toNat_lt hx
  have e : 63 - countLz x = x.toNat.log2 := by rw [countLz_of_ne hx]; omega
  rw [e]
  exact Nat.testBit_log2 (toNat_ne_zero hx)

/-- Either no bit is set and the count is 64, or the count names the lowest bit that is. -/
theorem countTz_cases (x : Word) : (countTz x = 64 ∧ ∀ j < 64, x.getLsbD j = false) ∨
    (countTz x < 64 ∧ x.getLsbD (countTz x) = true ∧ ∀ j < countTz x, x.getLsbD j = false) := by
  unfold countTz
  cases h : (List.range 64).find? (fun j => x.getLsbD j) with
  | none => exact .inl ⟨rfl, fun j hj => by simpa using List.find?_range_eq_none.1 h j hj⟩
  | some n =>
    obtain ⟨hn, hlt, hbelow⟩ := List.find?_range_eq_some.1 h
    exact .inr ⟨List.mem_range.1 hlt, hn, fun j hj => by simpa using hbelow j hj⟩

/-- A count that a fold keeps is the number of elements counted. -/
theorem foldl_count_eq (p : Nat → Bool) (l : List Nat) (n : Nat) :
    l.foldl (fun n j => if p j then n + 1 else n) n = n + (l.filter p).length := by
  induction l generalizing n with
  | nil => rfl
  | cons j l ih =>
    rw [List.foldl_cons, ih]
    by_cases h : p j
    · simp [h]; omega
    · simp [h]

theorem countOnes_eq (x : Word) : countOnes x = ((List.range 64).filter (fun j => x.getLsbD j)).length :=
  (foldl_count_eq _ _ 0).trans (Nat.zero_add _)

/-- After `k` bits the reversal holds their digits, bit 0 the highest, above `64 - k` zeros. -/
theorem foldl_reversed_eq (p : Nat → Bool) {k : Nat} (hk : k ≤ 64) :
    ∃ m, (List.range k).foldl (fun n j => if p j then n + 2 ^ (63 - j) else n) 0 = 2 ^ (64 - k) * m ∧
      ∀ j < k, m.testBit (k - 1 - j) = p j := by
  induction k with
  | zero => exact ⟨0, rfl, nofun⟩
  | succ k ih =>
    obtain ⟨m, hm, hbits⟩ := ih (by omega)
    refine ⟨Nat.bit (p k) m, ?_, fun j hj => ?_⟩
    · have e : 64 - k = 63 - k + 1 := by omega
      have e' : 64 - (k + 1) = 63 - k := by omega
      rw [List.range_succ, List.foldl_append, hm, List.foldl_cons, List.foldl_nil, e, e', Nat.bit_val, Nat.pow_succ]
      cases p k <;> simp <;> ring
    · rcases Nat.lt_succ_iff_lt_or_eq.1 hj with hj | rfl
      · have e : k + 1 - 1 - j = k - 1 - j + 1 := by omega
        rw [e, Nat.testBit_bit_succ, hbits j hj]
      · have e : j + 1 - 1 - j = 0 := by omega
        rw [e, Nat.testBit_bit_zero]

theorem getLsbD_reverseBits (x : Word) {j : Nat} (hj : j < 64) : (reverseBits x).getLsbD (63 - j) = x.getLsbD j := by
  obtain ⟨m, hm, hbits⟩ := foldl_reversed_eq (fun j => x.getLsbD j) (le_refl 64)
  have lt : 63 - j < 64 := by omega
  rw [reverseBits, hm, Nat.sub_self, Nat.pow_zero, Nat.one_mul, BitVec.getLsbD_ofNat, decide_eq_true lt, Bool.true_and]
  exact hbits j hj

/-- Sign extension from bit `n` repeats that bit above it. -/
theorem getLsbD_sext (x : Word) {n j : Nat} (hj : j < 64) : (sext x.toNat (n + 1)).getLsbD j = x.getLsbD (min j n) := by
  rw [sext, BitVec.getLsbD_signExtend, BitVec.msb_eq_getLsbD_last, BitVec.ofNat_toNat]
  by_cases h : j < n + 1
  · have e : min j n = j := by omega
    simp [hj, h, e]
  · have e : min j n = n := by omega
    simp [hj, h, e]

/-! ### TREE (R33, R128) -/

theorem rowsOf_succ (n v : Nat) : rowsOf (n + 1) v = v / 2 % 2 + 2 * rowsOf n (v / 4) := by
  rw [rowsOf, rowsOf, colsOf, Nat.div_right_comm]

theorem colsOf_morton (n r c : Nat) : colsOf n (morton n r c) = c % 2 ^ n := by
  induction n generalizing r c with
  | zero => simp [colsOf, Nat.mod_one]
  | succ n ih =>
    have hlow : morton (n + 1) r c % 2 = c % 2 := by rw [morton]; omega
    have hhigh : morton (n + 1) r c / 4 = morton n (r / 2) (c / 2) := by rw [morton]; omega
    rw [colsOf, hlow, hhigh, ih, Nat.pow_succ', Nat.mod_mul]

theorem rowsOf_morton (n r c : Nat) : rowsOf n (morton n r c) = r % 2 ^ n := by
  induction n generalizing r c with
  | zero => simp [rowsOf, colsOf, Nat.mod_one]
  | succ n ih =>
    have hlow : morton (n + 1) r c / 2 % 2 = r % 2 := by rw [morton]; omega
    have hhigh : morton (n + 1) r c / 4 = morton n (r / 2) (c / 2) := by rw [morton]; omega
    rw [rowsOf_succ, hlow, hhigh, ih, Nat.pow_succ', Nat.mod_mul]

theorem morton_lt (n r c : Nat) : morton n r c < 4 ^ n := by
  induction n generalizing r c with
  | zero => simp [morton]
  | succ n ih =>
    have := ih (r / 2) (c / 2)
    rw [morton, Nat.pow_succ]
    omega

/-- The column of `n` digits is the sum over their even bits. -/
theorem colsOf_eq_sum (n v : Nat) : colsOf n v = ((List.range n).map (fun j => if v.testBit (2 * j) then 2 ^ j else 0)).sum := by
  induction n generalizing v with
  | zero => rfl
  | succ n ih =>
    have hlow : v % 2 = if v.testBit (2 * 0) then 2 ^ 0 else 0 := by
      rcases Nat.mod_two_eq_zero_or_one v with h | h <;> simp [Nat.testBit_zero, h]
    have hhigh : 2 * colsOf n (v / 4) = ((List.range n).map (fun j => if v.testBit (2 * (j + 1)) then 2 ^ (j + 1) else 0)).sum := by
      rw [ih, ← List.sum_map_mul_left]
      congr 1
      refine List.map_congr_left fun j _ => ?_
      have e : (v / 4).testBit (2 * j) = v.testBit (2 * (j + 1)) := Nat.testBit_div_two_pow (n := 2) v (2 * j)
      rw [e, Nat.pow_succ', mul_ite, Nat.mul_zero]
    rw [colsOf, List.range_succ_eq_map, List.map_cons, List.sum_cons, List.map_map, hlow, hhigh]
    rfl

/-- The low 56 bits of a word hold its digits: a bit of theirs is the word's. -/
theorem testBit_low56 (v : Word) {i : Nat} (hi : i < 56) : (v.toNat % 2 ^ 56).testBit i = v.getLsbD i := by
  rw [Nat.testBit_mod_two_pow, decide_eq_true hi, Bool.true_and]; rfl

theorem gridCol_eq_colsSum (v : Word) : gridCol v = colsSum v := by
  rw [gridCol, colsOf_eq_sum, colsSum]
  congr 1
  refine List.map_congr_left fun j hj => ?_
  have := List.mem_range.1 hj
  rw [testBit_low56 v (by omega)]

theorem gridRow_eq_rowsSum (v : Word) : gridRow v = rowsSum v := by
  rw [gridRow, rowsOf, colsOf_eq_sum, rowsSum]
  congr 1
  refine List.map_congr_left fun j hj => ?_
  have := List.mem_range.1 hj
  rw [Nat.testBit_div_two, testBit_low56 v (by omega)]

/-- An interleaving of 28 bits each fits a register. -/
theorem toNat_ofNat_morton (r c : Nat) : (BitVec.ofNat 64 (morton 28 r c)).toNat = morton 28 r c := by
  have := morton_lt 28 r c
  rw [BitVec.toNat_ofNat]
  omega

theorem rowsSum_ofNat_morton (r c : Nat) : rowsSum (BitVec.ofNat 64 (morton 28 r c)) = r % 2 ^ 28 := by
  have lt : morton 28 r c < 2 ^ 56 := morton_lt 28 r c
  rw [← gridRow_eq_rowsSum, gridRow, toNat_ofNat_morton, Nat.mod_eq_of_lt lt, rowsOf_morton]

theorem colsSum_ofNat_morton (r c : Nat) : colsSum (BitVec.ofNat 64 (morton 28 r c)) = c % 2 ^ 28 := by
  have lt : morton 28 r c < 2 ^ 56 := morton_lt 28 r c
  rw [← gridCol_eq_colsSum, gridCol, toNat_ofNat_morton, Nat.mod_eq_of_lt lt, colsOf_morton]

theorem ofNat_morton_lt (r c : Nat) : (BitVec.ofNat 64 (morton 28 r c)).toNat < 2 ^ 56 := by
  rw [toNat_ofNat_morton]; exact morton_lt 28 r c

theorem colsOf_lt (n v : Nat) : colsOf n v < 2 ^ n := by
  induction n generalizing v with
  | zero => simp [colsOf]
  | succ n ih =>
    have := ih (v / 4)
    rw [colsOf, Nat.pow_succ]
    omega

theorem rowsSum_lt (v : Word) : rowsSum v < 2 ^ 28 := gridRow_eq_rowsSum v ▸ colsOf_lt 28 _
theorem colsSum_lt (v : Word) : colsSum v < 2 ^ 28 := gridCol_eq_colsSum v ▸ colsOf_lt 28 _

theorem zip_spec (x y : Word) :
    rowsSum (zip x y) = x.toNat % 2 ^ 28 ∧ colsSum (zip x y) = y.toNat % 2 ^ 28 ∧ (zip x y).toNat < 2 ^ 56 := by
  rw [zip, rowsSum_ofNat_morton, colsSum_ofNat_morton, Nat.mod_mod, Nat.mod_mod]
  exact ⟨rfl, rfl, ofNat_morton_lt _ _⟩

theorem stepRow_spec (x y : Word) :
    rowsSum (stepRow x y) = (rowsSum x + y.toNat) % 2 ^ 28 ∧ colsSum (stepRow x y) = colsSum x ∧ (stepRow x y).toNat < 2 ^ 56 := by
  rw [stepRow, rowsSum_ofNat_morton, colsSum_ofNat_morton, Nat.mod_mod, gridRow_eq_rowsSum, gridCol_eq_colsSum,
    Nat.mod_eq_of_lt (colsSum_lt x)]
  exact ⟨rfl, rfl, ofNat_morton_lt _ _⟩

theorem stepCol_spec (x y : Word) :
    rowsSum (stepCol x y) = rowsSum x ∧ colsSum (stepCol x y) = (colsSum x + y.toNat) % 2 ^ 28 ∧ (stepCol x y).toNat < 2 ^ 56 := by
  rw [stepCol, rowsSum_ofNat_morton, colsSum_ofNat_morton, Nat.mod_mod, gridRow_eq_rowsSum, gridCol_eq_colsSum,
    Nat.mod_eq_of_lt (rowsSum_lt x)]
  exact ⟨rfl, rfl, ofNat_morton_lt _ _⟩

/-! ### The words of the unary members -/

open Laws Laws.RoundTrip in
/-- A word of form A whose b field is zero decodes to the unary member whose encoding joins that field to the function value. -/
theorem decode_unary {i : Instr} {op : BitVec 7} {d a : BitVec 5} {fn : BitVec 10} {low : BitVec 15} (h : Statement i) (hwf : i.wf = true)
    (he : encode i = some (op ++ d ++ a ++ low)) (hlow : low.toNat = fn.toNat) : decode (op ++ d ++ a ++ 0#5 ++ fn) = .ok i := by
  refine h hwf _ (he.trans (congrArg some (BitVec.eq_of_toNat_eq ?_)))
  simp only [append_toNat, hlow, BitVec.toNat_ofNat]
  omega

/-! ### The obligation -/

open Laws.RoundTrip in
/-- Settles O2: each member is a register operation, so it writes the value of its result function, and the lemmas above say what that
function computes; the words are those of the encoder, which the decoder reads back. -/
theorem multipliesShiftsAndTree : Obligations.MultipliesShiftsAndTree := by
  unfold Obligations.MultipliesShiftsAndTree
  refine ⟨⟨fun s d a b => ?muldiv, fun d a b => ?muldivWords⟩, ⟨fun s d a b => ?shift, fun d a b => ?shiftWords⟩,
    ⟨fun s d a b => ?tree, fun d a b => ?treeWords⟩⟩
  case muldiv =>
    refine ⟨binary_writes rfl (mul_eq_ofNat _ _), binary_writes rfl rfl, binary_writes rfl rfl,
      ⟨_, _, binary_writes rfl rfl, binary_writes rfl rfl, fun hy => ?_, fun hy => ?_⟩,
      ⟨_, _, binary_writes rfl rfl, binary_writes rfl rfl, fun hy => ?_, toNat_eq_divU_remU⟩⟩
    · rw [hy]; exact ⟨divS_zero _, remS_zero _⟩
    · exact ⟨if_neg hy, natAbs_remS_lt hy, divS_mul_add_remS hy, remS_neg_iff hy⟩
    · rw [hy]; exact ⟨divU_zero _, remU_zero _⟩
  case muldivWords =>
    exact ⟨mul d a b rfl _ rfl, mulh d a b rfl _ rfl, mulhu d a b rfl _ rfl, div d a b rfl _ rfl, divu d a b rfl _ rfl, rem d a b rfl _ rfl,
      remu d a b rfl _ rfl⟩
  case shift =>
    refine ⟨⟨_, binary_writes rfl rfl, toNat_shiftLeft_eq_mul _ _⟩, ⟨_, binary_writes rfl rfl, toNat_ushiftRight_eq_div _ _⟩,
      ⟨_, binary_writes rfl rfl, toInt_sshiftRight_eq_div _ _⟩,
      ⟨_, binary_writes rfl rfl, fun j => getLsbD_rotateLeft_moved _ (shamt_lt _)⟩,
      ⟨_, unary_writes rfl rfl, countLz_le _, fun j => getLsbD_of_countLz_le, getLsbD_countLz⟩,
      ⟨_, unary_writes rfl rfl, ?_⟩, unary_writes rfl (congrArg _ (countOnes_eq _)),
      ⟨_, unary_writes rfl rfl, fun j => getLsbD_reverseBits _⟩, ⟨_, binary_writes rfl rfl, fun j => getLsbD_sext _⟩⟩
    rcases countTz_cases (s.S a) with ⟨h64, hnone⟩ | ⟨hlt, hbit, hbelow⟩
    · rw [h64]; exact ⟨le_rfl, hnone, fun h => absurd h (lt_irrefl _)⟩
    · exact ⟨hlt.le, hbelow, fun _ => hbit⟩
  case shiftWords =>
    exact ⟨shl d a b rfl _ rfl, shr d a b rfl _ rfl, sra d a b rfl _ rfl, rot d a b rfl _ rfl, decode_unary (clz d a) rfl rfl rfl,
      decode_unary (ctz d a) rfl rfl rfl, decode_unary (popc d a) rfl rfl rfl, decode_unary (brev d a) rfl rfl rfl, exts d a b rfl _ rfl⟩
  case tree =>
    exact ⟨⟨_, binary_writes rfl rfl, zip_spec _ _⟩, unary_writes rfl (congrArg _ (gridRow_eq_rowsSum _)),
      unary_writes rfl (congrArg _ (gridCol_eq_colsSum _)), ⟨_, binary_writes rfl rfl, stepRow_spec _ _⟩,
      ⟨_, binary_writes rfl rfl, stepCol_spec _ _⟩⟩
  case treeWords =>
    exact ⟨Laws.RoundTrip.zip d a b rfl _ rfl, decode_unary (zrow d a) rfl rfl rfl, decode_unary (zcol d a) rfl rfl rfl, zaddr d a b rfl _ rfl,
      zaddc d a b rfl _ rfl⟩

end Sys2Proof.Machine
end

section
/-! SUPPORT. The ALU group and the immediates (R107, R117, R124, R125, R130 to R132): what each result function computes, the immediate
with and without IMMX, the reserved words of the group, and the obligation on them. -/

namespace Sys2Proof.Machine

/-! ### Results of ALU (R125) -/

theorem add_eq_ofNat (x y : Word) : x + y = BitVec.ofNat 64 ((x.toNat + y.toNat) % 2 ^ 64) :=
  BitVec.eq_of_toNat_eq (by rw [BitVec.toNat_add, BitVec.toNat_ofNat, Nat.mod_mod])

theorem sub_eq_ofInt (x y : Word) : x - y = BitVec.ofInt 64 (((x.toNat : Int) - y.toNat) % 2 ^ 64) := by
  apply BitVec.eq_of_toNat_eq
  rw [BitVec.toNat_sub, BitVec.toNat_ofInt]
  omega

theorem getLsbD_and_not (x y : Word) {j : Nat} (hj : j < 64) : (x &&& ~~~y).getLsbD j = (x.getLsbD j && !y.getLsbD j) := by
  rw [BitVec.getLsbD_and, BitVec.getLsbD_not, decide_eq_true hj, Bool.true_and]

theorem getLsbD_or_not (x y : Word) {j : Nat} (hj : j < 64) : (x ||| ~~~y).getLsbD j = (x.getLsbD j || !y.getLsbD j) := by
  rw [BitVec.getLsbD_or, BitVec.getLsbD_not, decide_eq_true hj, Bool.true_and]

theorem flag_decide (p : Prop) [Decidable p] : flag (decide p) = if p then 1 else 0 := by
  by_cases h : p <;> simp [flag, h]

theorem flag_decide_not (p : Prop) [Decidable p] : flag (decide ¬p) = if p then 0 else 1 :=
  (flag_decide _).trans (ite_not ..)

/-! ### Words without a meaning (R110) -/

theorem decode_of_none {w : BitVec 32} (h : decodeCell w = .ok none) : decode w = .error .reservedFunction := by
  rw [decode, h]

/-- The function values of ALU that have a member are 1 to 15. -/
theorem decodeAlu_reserved {w : BitVec 32} (h : fld w 0 10 = 0 ∨ 15 < (fld w 0 10).toNat) : decodeAlu w = none := by
  have hne (k : BitVec 10) (hpos : 0 < k.toNat) (hle : k.toNat ≤ 15) : fld w 0 10 ≠ k := by
    rintro rfl
    rcases h with h | h
    · exact absurd hpos (by rw [h]; decide)
    · omega
  simp [decodeAlu, hne]

/-! ### Immediates (R107, R117, R132) -/

/-- The payload of IMMX above the field is one 40-bit value. -/
theorem sext_payload (p : BitVec 25) (i : BitVec 15) : sext (p.toNat * 2 ^ 15 + i.toNat) 40 = (p ++ i).signExtend 64 := by
  rw [sext, ← Laws.append_toNat, BitVec.ofNat_toNat, BitVec.setWidth_eq]

theorem Context.imm_of_none {x : Context} (h : x.chain.immx = none) (i : BitVec 15) : x.imm i = i.signExtend 64 := by
  rw [Context.imm, h]

theorem Context.imm_of_some {x : Context} {p : BitVec 25} (h : x.chain.immx = some p) (i : BitVec 15) :
    x.imm i = (p ++ i).signExtend 64 := by
  rw [Context.imm, h, ← sext_payload]

theorem Context.immZ_of_none {x : Context} (h : x.chain.immx = none) (i : BitVec 15) : x.immZ i = i.setWidth 64 := by
  rw [Context.immZ, h]

theorem Context.immZ_of_some {x : Context} {p : BitVec 25} (h : x.chain.immx = some p) (i : BitVec 15) :
    x.immZ i = (p ++ i).signExtend 64 := by
  rw [Context.immZ, h, ← sext_payload]

/-! ### Immediate operations complete by writing their result (R130 to R132) -/

section
variable {s : State} {i : Instr} {d a : BitVec 5} {v : Word}

theorem immediate_writes {n : BitVec 15} {f : Word → Word → Word} (h : exec i s = .next (immediate s d a n f))
    (hv : f (s.S a) (s.me.imm n) = v) : Writes s i d v := by
  obtain ⟨u, hu, hr⟩ := writeRetire_only s d v
  exact ⟨u, hu, by rw [h, immediate, hv, hr]⟩

/-- An immediate shift without a payload, or with a zero one, writes its result. -/
theorem shiftImm_writes {f : Word → Word} (h : exec i s = .next (shiftImm s d a f))
    (hi : s.me.chain.immx = none ∨ s.me.chain.immx = some 0) (hv : f (s.S a) = v) : Writes s i d v := by
  refine unary_writes (h.trans (congrArg _ ?_)) hv
  rcases hi with hi | hi
  · rw [shiftImm, hi]
  · simp only [shiftImm, hi, if_true]

/-- An immediate shift under a payload that is not zero is a misuse. -/
theorem shiftImm_traps {f : Word → Word} {p : BitVec 25} (h : exec i s = .next (shiftImm s d a f)) (hi : s.me.chain.immx = some p)
    (hp : p ≠ 0) : Traps s i 0x05 s.irWord := by
  refine h.trans (congrArg _ ?_)
  simp only [shiftImm, hi, if_neg hp]

end

/-- The upper 24 bits of the result of LIH are the immediate's low ones, above the low 40 bits of the source. -/
theorem upper24_eq_append (x z : Word) :
    BitVec.ofNat 64 (x.toNat % 2 ^ 40 + z.toNat % 2 ^ 24 * 2 ^ 40) = z.extractLsb' 0 24 ++ x.extractLsb' 0 40 := by
  apply BitVec.eq_of_toNat_eq
  rw [Laws.append_toNat, BitVec.toNat_ofNat, BitVec.extractLsb'_toNat, BitVec.extractLsb'_toNat, Nat.shiftRight_zero, Nat.shiftRight_zero]
  omega

theorem lih_writes (s : State) (d a : BitVec 5) (i : BitVec 15) :
    Writes s (.lih d a i) d ((s.me.immZ i).extractLsb' 0 24 ++ (s.S a).extractLsb' 0 40) := by
  obtain ⟨u, hu, hr⟩ := writeRetire_only s d ((s.me.immZ i).extractLsb' 0 24 ++ (s.S a).extractLsb' 0 40)
  exact ⟨u, hu, by rw [exec, execLih, upper24_eq_append, hr]⟩

/-! ### The obligation -/

open Laws.RoundTrip in
/-- Settles O1: each member is a register operation, or an immediate one, so it writes the value of its result function; the immediate is
that of the two cases of IMMX. The words are those of the encoder, and the decoder has no member for the other function values. -/
theorem arithmeticWritesResult : Obligations.ArithmeticWritesResult := by
  unfold Obligations.ArithmeticWritesResult
  refine ⟨⟨fun s d a b => ?alu, fun d a b fn hfn => ?reserved, fun d a b => ?aluWords⟩, ⟨fun s d a i sh => ?imm, fun d a i => ?lihWord⟩⟩
  case alu =>
    exact ⟨binary_writes rfl (add_eq_ofNat _ _), binary_writes rfl (sub_eq_ofInt _ _),
      ⟨_, binary_writes rfl rfl, fun _ => BitVec.getLsbD_and⟩, ⟨_, binary_writes rfl rfl, fun _ => BitVec.getLsbD_or⟩,
      ⟨_, binary_writes rfl rfl, fun _ => BitVec.getLsbD_xor⟩, ⟨_, binary_writes rfl rfl, fun _ => getLsbD_and_not _ _⟩,
      ⟨_, binary_writes rfl rfl, fun _ => getLsbD_or_not _ _⟩, binary_writes rfl rfl, binary_writes rfl rfl, binary_writes rfl rfl,
      binary_writes rfl rfl, binary_writes rfl (flag_decide _), binary_writes rfl (flag_decide _), binary_writes rfl (flag_decide _),
      binary_writes rfl (flag_decide_not _)⟩
  case reserved =>
    refine decode_of_none ((cell_00 _ (s7_5_5_5_10_f0 ..)).trans (congrArg _ (decodeAlu_reserved ?_)))
    rwa [s7_5_5_5_10_f4]
  case aluWords =>
    exact ⟨add d a b rfl _ rfl, sub d a b rfl _ rfl, Laws.RoundTrip.and d a b rfl _ rfl, Laws.RoundTrip.or d a b rfl _ rfl,
      xor d a b rfl _ rfl, andn d a b rfl _ rfl, orn d a b rfl _ rfl, min d a b rfl _ rfl, max d a b rfl _ rfl, minu d a b rfl _ rfl,
      maxu d a b rfl _ rfl, slt d a b rfl _ rfl, sltu d a b rfl _ rfl, seq d a b rfl _ rfl, sne d a b rfl _ rfl⟩
  case imm =>
    intro x wide imm low
    have himm : s.me.imm i = imm := by
      cases h : s.me.chain.immx with
      | none => simp only [imm, h, Context.imm_of_none h]
      | some p => simp only [imm, h, wide, Context.imm_of_some h]
    have hlow : s.me.immZ i = low := by
      cases h : s.me.chain.immx with
      | none => simp only [low, h, Context.immZ_of_none h]
      | some p => simp only [low, h, wide, Context.immZ_of_some h]
    rw [← himm, ← hlow]
    exact ⟨immediate_writes rfl rfl, immediate_writes rfl rfl, immediate_writes rfl rfl, immediate_writes rfl rfl,
      immediate_writes rfl (flag_decide _), immediate_writes rfl (flag_decide _), lih_writes s d a i,
      fun h => ⟨shiftImm_writes rfl h rfl, shiftImm_writes rfl h rfl, shiftImm_writes rfl h rfl⟩,
      fun p h hp => ⟨shiftImm_traps rfl h hp, shiftImm_traps rfl h hp, shiftImm_traps rfl h hp⟩⟩
  case lihWord => exact lih d a i rfl _ rfl

end Sys2Proof.Machine
end

section
/-! SUPPORT. Branches, J and JR (R113, R133 to R135): targets and their checks, how a transfer completes, and the obligation on them. -/

namespace Sys2Proof.Machine

/-! ### Targets (R113) -/

/-- A displacement is counted in words and the address wraps in the 56-bit space. -/
theorem relTarget_eq_ofInt (x : Context) (disp : Word) :
    relTarget x disp = BitVec.ofInt 64 (((x.pc.toNat : Int) + disp.toInt * 4) % 2 ^ 56) := by
  apply BitVec.eq_of_toNat_eq
  rw [relTarget, addr56, BitVec.toNat_ofNat, BitVec.toNat_ofInt, BitVec.toNat_add, BitVec.toNat_mul, BitVec.toInt_eq_toNat_cond]
  have h4 : (4 : Word).toNat = 4 := rfl
  rw [h4]
  split <;> omega

theorem relTarget_signExtend (x : Context) {n : Nat} (hn : n ≤ 64) (i : BitVec n) :
    relTarget x (i.signExtend 64) = BitVec.ofInt 64 (((x.pc.toNat : Int) + i.toInt * 4) % 2 ^ 56) := by
  rw [relTarget_eq_ofInt, BitVec.toInt_signExtend_of_le hn]

theorem targetFault_of_high {t : Word} (h : t.toNat / 2 ^ 56 ≠ 0) : targetFault t = some 0x0D :=
  if_pos (by omega)

theorem targetFault_of_misaligned {t : Word} (h : t.toNat / 2 ^ 56 = 0) (h4 : t.toNat % 4 ≠ 0) : targetFault t = some 0x03 :=
  (if_neg (by omega)).trans (if_pos h4)

theorem targetFault_of_aligned {t : Word} (h : t.toNat / 2 ^ 56 = 0) (h4 : t.toNat % 4 = 0) : targetFault t = none :=
  (if_neg (by omega)).trans (if_neg (not_not_intro h4))

theorem jumpTo_of_fault {s : State} {t : Word} {c : Nat} (f : State → State) (h : targetFault t = some c) :
    jumpTo s t f = trap s c t := by
  rw [jumpTo, h]

theorem jumpTo_of_none {s : State} {t : Word} (f : State → State) (h : targetFault t = none) : jumpTo s t f = f s := by
  rw [jumpTo, h]

/-! ### Transfers (R133 to R135) -/

theorem retireTo_jumps {s : State} {i : Instr} {target : Word} (h : exec i s = .next (retireTo s target)) : Jumps s i s.me target := by
  obtain ⟨u, hu, hr⟩ := retireTo_only s target
  exact ⟨u, hu, h.trans (congrArg _ hr)⟩

theorem retire_completes {s : State} {i : Instr} (h : exec i s = .next (retire s)) : Completes s i s.me := by
  obtain ⟨u, hu, hr⟩ := retire_only s
  exact ⟨u, hu, h.trans (congrArg _ hr)⟩

/-- A branch whose condition is `taken` transfers where it holds and completes where it does not. -/
theorem branch_transfers {s : State} {n : Instr} {a b : BitVec 5} {i : BitVec 15} {f : Word → Word → Bool} {taken : Prop}
    (h : exec n s = .next (branch s a b i f)) (hf : f (s.S a) (s.S b) = true ↔ taken) :
    (taken → Jumps s n s.me (BitVec.ofInt 64 (((s.me.pc.toNat : Int) + i.toInt * 4) % 2 ^ 56))) ∧ (¬ taken → Completes s n s.me) := by
  rw [← relTarget_signExtend _ (by decide), ← hf]
  exact ⟨fun ht => retireTo_jumps (h.trans (congrArg _ (if_pos ht))), fun ht => retire_completes (h.trans (congrArg _ (if_neg ht)))⟩

theorem j_jumps (s : State) (j : BitVec 25) :
    Jumps s (.j j) s.me (BitVec.ofInt 64 (((s.me.pc.toNat : Int) + j.toInt * 4) % 2 ^ 56)) := by
  rw [← relTarget_signExtend _ (by decide)]
  exact retireTo_jumps rfl

theorem jr_jumps {s : State} {a : BitVec 5} (h : targetFault (s.S a) = none) : Jumps s (.jr a) s.me (s.S a) :=
  retireTo_jumps (congrArg _ (jumpTo_of_none _ h))

theorem jr_traps {s : State} {a : BitVec 5} {c : Nat} (h : targetFault (s.S a) = some c) : Traps s (.jr a) c (s.S a) :=
  congrArg _ (jumpTo_of_fault _ h)

/-! ### The words of JR (R110, R135) -/

open Laws Laws.RoundTrip in
/-- The d and b fields of JR must be zero: no other member of the group takes its function value. -/
theorem decodeJumpreg_reserved {d b : BitVec 5} (a : BitVec 5) (h : d ≠ 0 ∨ b ≠ 0) :
    decodeJumpreg (0x28#7 ++ d ++ a ++ b ++ 1#10) = none := by
  have hjr : ¬ (d = 0 ∧ fld (0x28#7 ++ d ++ a ++ b ++ 1#10) 0 15 = 1) := by
    rintro ⟨hd, hlow⟩
    have hb : b ≠ 0 := h.resolve_left (not_not_intro hd)
    refine fld_ne ?_ hlow
    simp only [append_toNat, BitVec.toNat_ofNat]
    bv_omega
  have hcallr : fld (0x28#7 ++ d ++ a ++ b ++ 1#10) 0 15 ≠ 2 := fld_ne (v := 2#15) (by simp only [append_toNat, BitVec.toNat_ofNat]; omega)
  have hret : fld (0x28#7 ++ d ++ a ++ b ++ 1#10) 0 25 ≠ 3 := fld_ne (v := 3#25) (by simp only [append_toNat, BitVec.toNat_ofNat]; omega)
  rw [decodeJumpreg, s7_5_5_5_10_f1, if_neg hjr, if_neg (fun hc => hcallr hc.2), if_neg hret]

/-! ### The obligation -/

open Laws.RoundTrip in
/-- Settles O5: a branch is the comparison it names, its target that of the unbounded sum wrapped to 56 bits, and JR checks its target
before it transfers; the words are those of the encoder. -/
theorem controlTransfers : Obligations.ControlTransfers := by
  unfold Obligations.ControlTransfers
  refine ⟨fun s a b i => ?branches, fun s a disp => ⟨?j, ?jr, ?high, ?misaligned⟩, fun d a b disp => ⟨?jWord, ?jrWord, ?reserved⟩⟩
  case branches =>
    exact ⟨branch_transfers rfl decide_eq_true_iff, branch_transfers rfl decide_eq_true_iff, branch_transfers rfl decide_eq_true_iff,
      branch_transfers rfl decide_eq_true_iff, branch_transfers rfl decide_eq_true_iff, branch_transfers rfl decide_eq_true_iff⟩
  case j => exact j_jumps s disp
  case jr => exact fun h h4 => jr_jumps (targetFault_of_aligned h h4)
  case high => exact fun h => jr_traps (targetFault_of_high h)
  case misaligned => exact fun h h4 => jr_traps (targetFault_of_misaligned h h4)
  case jWord => exact Laws.RoundTrip.j disp rfl _ rfl
  case jrWord => exact decode_unary (Laws.RoundTrip.jr a) rfl rfl rfl
  case reserved =>
    exact fun h => ⟨_, decode_of_none ((cell_28 _ (s7_5_5_5_10_f0 ..)).trans (congrArg _ (decodeJumpreg_reserved a h)))⟩

end Sys2Proof.Machine
end

section
/-! SUPPORT. The encoder and the decoder agree on every row of the opcode table (R105), and only the steps of the device have no word. -/

namespace Sys2Proof.Laws.RoundTrip

/-- Decoding undoes encoding, constructor by constructor. -/
theorem decode_encode : ∀ i : Instr, Statement i
  | .add _ _ _ => add _ _ _ | .sub _ _ _ => sub _ _ _ | .and _ _ _ => and _ _ _ | .or _ _ _ => or _ _ _ | .xor _ _ _ => xor _ _ _
  | .andn _ _ _ => andn _ _ _ | .orn _ _ _ => orn _ _ _ | .min _ _ _ => min _ _ _ | .max _ _ _ => max _ _ _ | .minu _ _ _ => minu _ _ _
  | .maxu _ _ _ => maxu _ _ _ | .slt _ _ _ => slt _ _ _ | .sltu _ _ _ => sltu _ _ _ | .seq _ _ _ => seq _ _ _ | .sne _ _ _ => sne _ _ _
  | .mul _ _ _ => mul _ _ _ | .mulh _ _ _ => mulh _ _ _ | .mulhu _ _ _ => mulhu _ _ _ | .div _ _ _ => div _ _ _
  | .divu _ _ _ => divu _ _ _ | .rem _ _ _ => rem _ _ _ | .remu _ _ _ => remu _ _ _ | .shl _ _ _ => shl _ _ _ | .shr _ _ _ => shr _ _ _
  | .sra _ _ _ => sra _ _ _ | .rot _ _ _ => rot _ _ _ | .clz _ _ => clz _ _ | .ctz _ _ => ctz _ _ | .popc _ _ => popc _ _
  | .brev _ _ => brev _ _ | .exts _ _ _ => exts _ _ _ | .zip _ _ _ => zip _ _ _ | .zrow _ _ => zrow _ _ | .zcol _ _ => zcol _ _
  | .zaddr _ _ _ => zaddr _ _ _ | .zaddc _ _ _ => zaddc _ _ _ | .ptrunc _ _ _ => ptrunc _ _ _ | .pdig _ _ _ => pdig _ _ _
  | .pcat _ _ _ => pcat _ _ _ | .addi _ _ _ => addi _ _ _ | .andi _ _ _ => andi _ _ _ | .ori _ _ _ => ori _ _ _
  | .xori _ _ _ => xori _ _ _ | .slti _ _ _ => slti _ _ _ | .sltiu _ _ _ => sltiu _ _ _ | .shli _ _ _ => shli _ _ _
  | .shri _ _ _ => shri _ _ _ | .srai _ _ _ => srai _ _ _ | .lih _ _ _ => lih _ _ _ | .ldB _ _ _ => ldB _ _ _ | .ldH _ _ _ => ldH _ _ _
  | .ldW _ _ _ => ldW _ _ _ | .ldD _ _ _ => ldD _ _ _ | .ldzB _ _ _ => ldzB _ _ _ | .ldzH _ _ _ => ldzH _ _ _ | .ldzW _ _ _ => ldzW _ _ _
  | .ldx _ _ _ => ldx _ _ _ | .stB _ _ _ => stB _ _ _ | .stH _ _ _ => stH _ _ _ | .stW _ _ _ => stW _ _ _ | .stD _ _ _ => stD _ _ _
  | .ldbB _ _ _ => ldbB _ _ _ | .ldbH _ _ _ => ldbH _ _ _ | .ldbW _ _ _ => ldbW _ _ _ | .ldbD _ _ _ => ldbD _ _ _
  | .ldbzB _ _ _ => ldbzB _ _ _ | .ldbzH _ _ _ => ldbzH _ _ _ | .ldbzW _ _ _ => ldbzW _ _ _ | .amoadd _ _ _ _ => amoadd _ _ _ _
  | .amoand _ _ _ _ => amoand _ _ _ _ | .amoor _ _ _ _ => amoor _ _ _ _ | .amoxor _ _ _ _ => amoxor _ _ _ _
  | .amomin _ _ _ _ => amomin _ _ _ _ | .amomax _ _ _ _ => amomax _ _ _ _ | .amominu _ _ _ _ => amominu _ _ _ _
  | .amomaxu _ _ _ _ => amomaxu _ _ _ _ | .amoswp _ _ _ _ => amoswp _ _ _ _ | .join _ _ => join _ _ | .cas _ _ _ _ => cas _ _ _ _
  | .nop => nop | .beq _ _ _ => beq _ _ _ | .bne _ _ _ => bne _ _ _ | .blt _ _ _ => blt _ _ _ | .bge _ _ _ => bge _ _ _
  | .bltu _ _ _ => bltu _ _ _ | .bgeu _ _ _ => bgeu _ _ _ | .j _ => j _ | .jal _ => jal _ | .jr _ => jr _ | .callr _ => callr _
  | .ret => ret | .callat _ _ _ => callat _ _ _ | .reply _ _ => reply _ _ | .waitr _ _ => waitr _ _ | .waitw => waitw
  | .waite _ => waite _ | .waiteFill _ => waiteFill _ | .waiteFree _ => waiteFree _ | .enq _ _ _ => enq _ _ _ | .deq _ _ _ => deq _ _ _
  | .deqt _ _ _ => deqt _ _ _ | .send _ _ _ _ => send _ _ _ _ | .rpub _ _ => rpub _ _ | .racq _ _ => racq _ _ | .rfloor _ _ => rfloor _ _
  | .rsub _ _ => rsub _ _ | .rfloorClr _ => rfloorClr _ | .binit _ _ => binit _ _ | .barr _ => barr _ | .bexp _ _ => bexp _ _
  | .bwait _ _ _ => bwait _ _ _ | .btest _ _ => btest _ _ | .bhset _ _ => bhset _ _ | .bsni _ _ => bsni _ _ | .bsnp _ _ => bsnp _ _
  | .bsnc _ => bsnc _ | .bsng _ _ => bsng _ _ | .bsnf _ => bsnf _ | .tdef _ _ _ => tdef _ _ _ | .tldd _ _ => tldd _ _
  | .tstd _ _ => tstd _ _ | .text _ _ _ => text _ _ _ | .tsub _ _ _ _ => tsub _ _ _ _ | .tsubr _ _ _ => tsubr _ _ _
  | .bcopy _ _ _ => bcopy _ _ _ | .bcopyBnd _ _ _ _ => bcopyBnd _ _ _ _ | .bcopyBsn _ _ _ _ => bcopyBsn _ _ _ _
  | .bfill _ _ _ => bfill _ _ _ | .bgath _ _ _ _ => bgath _ _ _ _ | .bscat _ _ _ _ => bscat _ _ _ _ | .bpref _ _ => bpref _ _
  | .bres _ _ _ => bres _ _ _ | .bevict _ _ => bevict _ _ | .bdemote _ _ => bdemote _ _ | .bown _ _ => bown _ _ | .brel _ _ => brel _ _
  | .mxst _ _ _ => mxst _ _ _ | .mxma _ _ _ _ => mxma _ _ _ _ | .mxmas _ _ _ _ _ => mxmas _ _ _ _ _ | .vadd _ _ _ _ => vadd _ _ _ _
  | .vsub _ _ _ _ => vsub _ _ _ _ | .vmul _ _ _ _ => vmul _ _ _ _ | .vfma _ _ _ _ => vfma _ _ _ _ | .vmin _ _ _ _ => vmin _ _ _ _
  | .vmax _ _ _ _ => vmax _ _ _ _ | .vabs _ _ _ => vabs _ _ _ | .vneg _ _ _ => vneg _ _ _ | .vand _ _ _ _ => vand _ _ _ _
  | .vor _ _ _ _ => vor _ _ _ _ | .vxor _ _ _ _ => vxor _ _ _ _ | .vnot _ _ _ => vnot _ _ _ | .vshl _ _ _ _ => vshl _ _ _ _
  | .vshr _ _ _ _ => vshr _ _ _ _ | .vcmp _ _ _ _ _ => vcmp _ _ _ _ _ | .vsel _ _ _ _ => vsel _ _ _ _ | .vcvt _ _ _ _ => vcvt _ _ _ _
  | .vexp2 _ _ _ => vexp2 _ _ _ | .vlog2 _ _ _ => vlog2 _ _ _ | .vrcp _ _ _ => vrcp _ _ _ | .vrsq _ _ _ => vrsq _ _ _
  | .vtanh _ _ _ => vtanh _ _ _ | .vred _ _ _ _ _ => vred _ _ _ _ _ | .vscan _ _ _ _ _ => vscan _ _ _ _ _ | .vtrn _ _ _ => vtrn _ _ _
  | .vbcst _ _ _ _ => vbcst _ _ _ _ | .vgath _ _ _ _ _ => vgath _ _ _ _ _ | .vmov _ _ _ => vmov _ _ _ | .vgen _ _ _ => vgen _ _ _
  | .vgenConst _ _ _ => vgenConst _ _ _ | .cbld _ _ => cbld _ _ | .skset _ _ => skset _ _ | .xbsetCtr _ _ _ => xbsetCtr _ _ _
  | .xbsetTerm _ _ _ => xbsetTerm _ _ _ | .xbsetStage _ _ _ => xbsetStage _ _ _ | .xbarmOn _ _ => xbarmOn _ _
  | .xbarmOff _ _ => xbarmOff _ _ | .ectlRd _ _ _ _ => ectlRd _ _ _ _ | .ectlRes _ _ => ectlRes _ _ | .ectlCan _ _ => ectlCan _ _
  | .estat _ _ => estat _ _ | .trap _ => trap _ | .scall _ => scall _ | .mcall => mcall | .eret => eret | .resume _ => resume _
  | .park _ => park _ | .crr _ _ => crr _ _ | .crw _ _ _ => crw _ _ _ | .ctxr _ _ _ => ctxr _ _ _ | .ctxw _ _ _ => ctxw _ _ _
  | .spill _ => spill _ | .fill _ _ _ => fill _ _ _ | .kload _ _ _ => kload _ _ _ | .kder _ _ _ => kder _ _ _ | .krev _ _ => krev _ _
  | .japp _ _ _ => japp _ _ _ | .ifence => ifence | .tfence => tfence | .bkpt => bkpt | .halt => halt | .immx _ => immx _
  | .rep _ _ => rep _ _ | .hint _ _ => hint _ _ | .memoryReply _ _ => memoryReply _ _ | .wake _ _ => wake _ _
  | .preempt _ _ => preempt _ _ | .windowSpill _ _ => windowSpill _ _ | .contextSpill _ => contextSpill _
  | .engineAccept _ _ => engineAccept _ _ | .bargeStart _ _ => bargeStart _ _ | .bargeUnit _ _ => bargeUnit _ _
  | .bargeComplete _ _ => bargeComplete _ _ | .basinSlotClaim _ => basinSlotClaim _ | .hubCommand _ => hubCommand _
  | .sendCommandReceipt _ => sendCommandReceipt _ | .replyDelivery _ _ _ => replyDelivery _ _ _
  | .remoteBarrierOperation _ => remoteBarrierOperation _ | .homeAtomic _ => homeAtomic _ | .homeJoin _ _ _ => homeJoin _ _ _
  | .homeEnqueue _ => homeEnqueue _ | .homeDequeue _ => homeDequeue _ | .dispenserRequest _ _ => dispenserRequest _ _
  | .dispenserBind _ _ => dispenserBind _ _ | .affinityTimeout _ _ => affinityTimeout _ _
  | .entryThreadCreate _ _ _ => entryThreadCreate _ _ _ | .periodStart => periodStart | .consumedUpdate _ => consumedUpdate _
  | .quiescent _ => quiescent _ | .rcbEnd _ => rcbEnd _ | .rcbJoinRetry _ => rcbJoinRetry _ | .heldRecordRetry => heldRecordRetry
  | .xbarTermFire _ _ => xbarTermFire _ _ | .stagedLaunch _ _ => stagedLaunch _ _ | .regionRpub _ _ _ => regionRpub _ _ _
  | .roundMulticast _ _ _ => roundMulticast _ _ _ | .boundedRequest _ _ => boundedRequest _ _ | .homeGets _ => homeGets _
  | .homeGetx _ => homeGetx _ | .homeUpg _ => homeUpg _ | .homeRenew _ => homeRenew _ | .homeWb _ _ _ _ => homeWb _ _ _ _
  | .homeGack _ _ => homeGack _ _ | .homeFdata _ _ _ _ => homeFdata _ _ _ _ | .homeGone _ _ => homeGone _ _
  | .walkerRead _ _ => walkerRead _ _ | .evictionNotice _ _ _ => evictionNotice _ _ _ | .agentData _ _ _ _ => agentData _ _ _ _
  | .agentAckx _ _ _ => agentAckx _ _ _ | .agentRnack _ _ _ => agentRnack _ _ _ | .agentWback _ _ => agentWback _ _
  | .agentFwd _ _ _ => agentFwd _ _ _ | .agentRetry _ => agentRetry _ | .invReceive _ _ _ _ => invReceive _ _ _ _
  | .iackReceive _ => iackReceive _ | .lineEviction _ _ => lineEviction _ _ | .translationDrop _ _ => translationDrop _ _
  | .l2PeerServe _ _ _ _ => l2PeerServe _ _ _ _ | .clockMinimumBroadcast _ => clockMinimumBroadcast _ | .rehome _ _ => rehome _ _
  | .meshArbitration _ _ _ => meshArbitration _ _ _ | .crSqpopWrite _ _ => crSqpopWrite _ _ | .crTrootWrite _ _ => crTrootWrite _ _
  | .crSlotpartWrite _ _ => crSlotpartWrite _ _ | .crBankpartWrite _ _ _ => crBankpartWrite _ _ _ | .crWinWrite _ _ _ => crWinWrite _ _ _
  | .crWspWrite _ _ _ => crWspWrite _ _ _ | .crJexportWrite _ => crJexportWrite _ | .crWeiraWrite _ _ _ => crWeiraWrite _ _ _
  | .crWeirbWrite _ _ _ => crWeirbWrite _ _ _ | .crSenslimWrite _ => crSenslimWrite _ | .sensorTrip _ _ _ => sensorTrip _ _ _
  | .journalCheckpoint => journalCheckpoint | .weirRefill _ => weirRefill _ | .weirTimeout _ => weirTimeout _
  | .weirEgressEntry _ => weirEgressEntry _ | .bar2Read _ _ => bar2Read _ _ | .bar2Write _ _ => bar2Write _ _
  | .bar0Write _ _ => bar0Write _ _ | .hcRingtail _ => hcRingtail _ | .hcRingctl _ => hcRingctl _ | .ringFetch => ringFetch
  | .ringOpen _ => ringOpen _ | .ringLaunch _ _ => ringLaunch _ _ | .ringGraph _ _ => ringGraph _ _ | .ringImport _ _ => ringImport _ _
  | .ringSummary _ _ => ringSummary _ _ | .ringJfree _ _ => ringJfree _ _ | .fabricSend _ => fabricSend _
  | .fabricReceive _ _ => fabricReceive _ _ | .peerAccess _ => peerAccess _ | .debugAttach _ => debugAttach _
  | .debugDetach => debugDetach | .debugStop _ _ => debugStop _ _ | .debugRelease _ _ => debugRelease _ _
  | .debugStep _ _ => debugStep _ _ | .debugClaim _ _ => debugClaim _ _ | .debugReadState _ _ _ => debugReadState _ _ _
  | .debugReadCr _ _ _ => debugReadCr _ _ _ | .debugReadContext _ _ _ => debugReadContext _ _ _
  | .debugWriteContext _ _ _ _ => debugWriteContext _ _ _ _ | .debugReadMemory _ => debugReadMemory _
  | .debugWriteMemory _ _ _ => debugWriteMemory _ _ _ | .debugProgramPcmp _ _ _ => debugProgramPcmp _ _ _
  | .debugProgramWatch _ _ _ => debugProgramWatch _ _ _ | .debugLaunch _ _ _ _ => debugLaunch _ _ _ _ | .powerOnReset => powerOnReset
  | .bringUpStage _ => bringUpStage _ | .powerControlWrite _ => powerControlWrite _ | .throttleDown => throttleDown
  | .throttleUp => throttleUp | .gatingStep _ _ => gatingStep _ _ | .machineCheck _ _ _ => machineCheck _ _ _
  | .wearUpdate _ => wearUpdate _ | .reservedEncoding _ => reservedEncoding _ | .unfetchableWord _ _ => unfetchableWord _ _
  | .slotOffer => slotOffer | .l1InstructionCacheDrop _ _ => l1InstructionCacheDrop _ _ | .keyCachePurge _ _ => keyCachePurge _ _
  | .homeRecall _ _ => homeRecall _ _

/-- A row of the opcode table has a word exactly when it is no step of the device. -/
theorem encode_isSome (i : Instr) : (encode i).isSome = !i.isEvent := by
  cases i <;> rfl

/-- Settles O51: the round trip of each constructor, and the word that every row but the steps of the device has. -/
theorem encodingRoundTrips : Obligations.EncodingRoundTrips := by
  unfold Obligations.EncodingRoundTrips
  refine ⟨decode_encode, fun i hwf hev => ?_⟩
  obtain ⟨w, hw⟩ := Option.isSome_iff_exists.mp ((encode_isSome i).trans (congrArg _ hev))
  exact ⟨w, hw, decode_encode i hwf w hw⟩

end Sys2Proof.Laws.RoundTrip
end

section
/-! SUPPORT. The state at reset, registers and memory: what power-on leaves (R35, R254 to R257), what a register and a byte of memory read
after a write (R5, R89, R121, R136), the fixed words (R105 to R111) and the units that do not exist (R13, R19, R20). -/

namespace Sys2Proof.Machine

/-! ### Registers (R89, R121, R136) -/

theorem Context.readT_writeS (x : Context) (i : BitVec 5) (v : Word) (k : BitVec 4) : (x.writeS i v).readT k = x.readT k := by
  unfold Context.writeS
  split
  · rfl
  · split <;> rfl

theorem Context.readB_writeS (x : Context) (i : BitVec 5) (v : Word) (k : BitVec 4) : (x.writeS i v).readB k = x.readB k := by
  unfold Context.writeS
  split
  · rfl
  · split <;> rfl

theorem Context.readS_writeB (x : Context) (p : BitVec 4) (h : BitVec 32) (k : BitVec 5) : (x.writeB p h).readS k = x.readS k := by
  unfold Context.writeB
  split <;> rfl

/-- Settles O54: the laws of reading after a write, register file by register file. -/
theorem registersReadBack : Obligations.RegistersReadBack := by
  unfold Obligations.RegistersReadBack
  intro x i j p q v t h
  exact ⟨x.readS_writeS i j v, rfl, x.readT_writeT p q t, x.readB_writeB p q h, fun k => ⟨rfl, x.readS_writeB p h k⟩,
    fun k => ⟨x.readT_writeS i v k, x.readB_writeS i v k⟩⟩

/-! ### Memory (R5, R35) -/

@[simp] theorem natToBytes_length (n x : Nat) : (natToBytes n x).length = n := by
  induction n generalizing x with
  | zero => rfl
  | succ n ih => simp [natToBytes, ih]

theorem bytesToNat_natToBytes (n x : Nat) : bytesToNat (natToBytes n x) = x % 256 ^ n := by
  induction n generalizing x with
  | zero => simp [natToBytes, bytesToNat, Nat.mod_one]
  | succ n ih =>
    rw [natToBytes, bytesToNat, ih, Nat.pow_succ', Nat.mod_mul]
    rfl

/-- A byte of a number written at `a` holds the digit of its place; every other byte stays. -/
theorem Memory.read_writeBytes_natToBytes (m : Memory) (a b n x : Nat) :
    (m.writeBytes a (natToBytes n x)).read b = if a ≤ b ∧ b < a + n then BitVec.ofNat 8 (x / 256 ^ (b - a)) else m.read b := by
  induction n generalizing m a x with
  | zero => rw [if_neg (by omega)]; rfl
  | succ n ih =>
    rw [natToBytes, Memory.writeBytes, ih, Memory.read_write]
    rcases Nat.lt_trichotomy b a with h | rfl | h
    · rw [if_neg (by omega), if_neg (by omega), if_neg (by omega)]
    · rw [if_neg (by omega), if_pos rfl, if_pos (by omega), Nat.sub_self, Nat.pow_zero, Nat.div_one]
    · have e : b - a = (b - (a + 1)) + 1 := by omega
      rw [if_neg (show b ≠ a by omega), Nat.div_div_eq_div_mul, ← Nat.pow_succ', e]
      exact if_congr (by omega) rfl rfl

/-- Settles O56: reading after a write, the bytes of a number in order, and the canonical form, in which equal reads make equal lists. -/
theorem memoryReadsBack : Obligations.MemoryReadsBack := by
  unfold Obligations.MemoryReadsBack
  refine ⟨fun m a b v => m.read_write a b v, fun m a b n x => m.read_writeBytes_natToBytes a b n x, fun m a n x => ?_,
    fun m a l h => Memory.wf_writeBytes l m a h, fun m m' h h' e => SMap.ext_of_wf 0 m m' none none h h' e⟩
  have h := Memory.readBytes_writeBytes (natToBytes n x) m a
  rw [natToBytes_length] at h
  rw [h, bytesToNat_natToBytes]

/-- Settles O57: the reset memory is the empty list. -/
theorem resetMemoryIsCanonical : Obligations.ResetMemoryIsCanonical := by
  unfold Obligations.ResetMemoryIsCanonical
  rfl

/-! ### Reset (R254 to R257, R365, R399) -/

/-- A region of egress whose registers are at reset is off. -/
theorem Weir.on_reset : Weir.on {} = false := by decide

/-- Settles O53: every family is empty at reset, so each of its members reads its default. -/
theorem resetLeavesTheStatedValues : Obligations.ResetLeavesTheStatedValues := by
  unfold Obligations.ResetLeavesTheStatedValues
  exact ⟨fun _ => rfl, fun _ => rfl, fun _ => rfl, fun _ _ => ⟨rfl, rfl⟩, fun _ _ _ => rfl,
    fun _ => ⟨rfl, rfl, rfl, rfl, rfl, rfl, rfl, rfl, fun _ => rfl⟩, fun _ => rfl, rfl, rfl, rfl, fun _ _ => Weir.on_reset, rfl, rfl, rfl,
    rfl, rfl, rfl, rfl⟩

/-! ### Words and units -/

/-- Settles O50: each word is decoded by evaluation. -/
theorem wordsDecode : Obligations.WordsDecode := by
  unfold Obligations.WordsDecode
  exact ⟨rfl, rfl, rfl, rfl, rfl, rfl, rfl, rfl, rfl, rfl, ⟨.reservedFunction, rfl⟩, ⟨.reservedCell, rfl⟩⟩

/-- Settles O49: every such step tests first that its unit exists. -/
theorem unitsThatDoNotExist : Obligations.UnitsThatDoNotExist := by
  unfold Obligations.UnitsThatDoNotExist
  intro s k i n v h
  have hctx : (!ctxExists k i) = true := by
    simp only [ctxExists, Bool.not_eq_true', Bool.and_eq_false_iff, decide_eq_false_iff_not]
    omega
  have hcore (hk : 256 ≤ k) : (!coreExists k) = true := by
    simp only [coreExists, Bool.not_eq_true', decide_eq_false_iff_not]
    omega
  have hor (hk : 256 ≤ k) (b : Bool) : (!coreExists k || b) = true := by rw [hcore hk, Bool.true_or]
  refine ⟨if_pos hctx, if_pos hctx, if_pos hctx, if_pos hctx, if_pos hctx, if_pos hctx, if_pos hctx, fun hk => ?cores, fun hn => ?rcbs,
    fun hn => ?ports⟩
  case cores =>
    exact ⟨if_pos (hor hk _), if_pos (hcore hk), if_pos (hcore hk), if_pos (hcore hk), if_pos (hcore hk), if_pos (hcore hk),
      if_pos (hcore hk), if_pos (hcore hk), if_pos (hor hk _), if_pos (by rw [hor hk, Bool.true_or])⟩
  case rcbs => exact ⟨if_pos hn, if_pos hn, if_pos hn⟩
  case ports => exact ⟨if_pos hn, if_pos hn, if_pos hn, if_pos hn⟩

end Sys2Proof.Machine
end

section
/-! SUPPORT. The bytes of a state as one value, and the shared operations of the model that leave every byte as it is: parking, stopping,
traps, boundaries, retirement, waits (R35, R81 to R104, R232 to R241). -/

namespace Sys2Proof.Machine

/-! ### The bytes of a state -/

/-- Everything that `State.SameBytes` compares: main memory and the local stores, the sidebands, the host's and the peers' memory. -/
def State.bytes (s : State) : Memory × SMap Word × SMap Byte × SMap Byte := (s.mem, s.side, s.hostMem, s.peerMem)

theorem State.bytes_eta (s : State) : (s.mem, s.side, s.hostMem, s.peerMem) = s.bytes := rfl

theorem State.sameBytes_iff {s t : State} : s.SameBytes t ↔ t.bytes = s.bytes := by
  constructor
  · rintro ⟨h1, h2, h3, h4⟩
    simp only [State.bytes, h1, h2, h3, h4]
  · intro h
    simp only [State.bytes, Prod.mk.injEq] at h
    obtain ⟨h1, h2, h3, h4⟩ := h
    exact ⟨h1, h2, h3, h4⟩

theorem State.SameBytes.bytes_eq {s t : State} (h : s.SameBytes t) : t.bytes = s.bytes := State.sameBytes_iff.mp h

theorem State.canonical_iff {s : State} : s.Canonical ↔ s.bytes.1.wf = true := Iff.rfl

/-- A fold whose steps each leave the bytes leaves them. -/
theorem foldl_bytes {α : Type} (f : State → α → State) (h : ∀ (s : State) (a : α), (f s a).bytes = s.bytes) (l : List α) (s : State) :
    (l.foldl f s).bytes = s.bytes := by
  induction l generalizing s with
  | nil => rfl
  | cons a t ih => exact (ih _).trans (h s a)

/-! ### Updates of the state -/

@[simp] theorem State.setCore_bytes (s : State) (k : Nat) (c : Core) : (s.setCore k c).bytes = s.bytes := rfl
@[simp] theorem State.setCtx_bytes (s : State) (r : ThreadRef) (x : Context) : (s.setCtx r x).bytes = s.bytes := rfl
@[simp] theorem State.setMe_bytes (s : State) (x : Context) : (s.setMe x).bytes = s.bytes := rfl
@[simp] theorem State.setMyCore_bytes (s : State) (c : Core) : (s.setMyCore c).bytes = s.bytes := rfl
@[simp] theorem State.mapCtxs_bytes (s : State) (f : Nat → Nat → Context → Context) : (s.mapCtxs f).bytes = s.bytes := rfl
@[simp] theorem State.setS_bytes (s : State) (i : BitVec 5) (v : Word) : (s.setS i v).bytes = s.bytes := rfl
@[simp] theorem State.setT_bytes (s : State) (i : BitVec 4) (v : BitVec 128) : (s.setT i v).bytes = s.bytes := rfl
@[simp] theorem State.setB_bytes (s : State) (i : BitVec 4) (v : BitVec 32) : (s.setB i v).bytes = s.bytes := rfl
@[simp] theorem State.post_bytes (s : State) (l : List Instr) : (s.post l).bytes = s.bytes := rfl
@[simp] theorem State.emit_bytes (s : State) (m : OutMsg) : (s.emit m).bytes = s.bytes := rfl
@[simp] theorem State.postWake_bytes (s : State) (k i : Nat) : (s.postWake k i).bytes = s.bytes := rfl
@[simp] theorem State.setClk_bytes (s : State) (r : ThreadRef) (c : Nat) : (s.setClk r c).bytes = s.bytes := rfl
@[simp] theorem State.logMachineCheck_bytes (s : State) (pa : Word) (die core : Nat) : (s.logMachineCheck pa die core).bytes = s.bytes := by
  simp only [State.logMachineCheck, State.bytes]
@[simp] theorem State.poll_bytes (s : State) (cl : Nat) : (s.poll cl).bytes = s.bytes := rfl
@[simp] theorem State.pollEntries_bytes (s : State) (k : Nat) : (s.pollEntries k).bytes = s.bytes := rfl
@[simp] theorem State.slotVacant_bytes (s : State) (k : Nat) : (s.slotVacant k).bytes = s.bytes := rfl
@[simp] theorem wakeAll_bytes (s : State) (k kind obj : Nat) : (wakeAll s k kind obj).bytes = s.bytes := rfl
@[simp] theorem bindHome_bytes (s : State) (r : ThreadRef) : (bindHome s r).bytes = s.bytes := rfl
@[simp] theorem dropMessages_bytes (r : ThreadRef) (s : State) : (dropMessages r s).bytes = s.bytes := rfl
@[simp] theorem enterMonitor_bytes (s : State) (a b c : Word) : (enterMonitor s a b c).bytes = s.bytes := rfl
@[simp] theorem leaveMonitor_bytes (s : State) : (leaveMonitor s).bytes = s.bytes := rfl
@[simp] theorem stopCore_bytes (s : State) : (stopCore s).bytes = s.bytes := by simp [stopCore]

@[simp] theorem State.traceAt_sameBytes (s : State) (k slot e : Nat) (pc data : Word) : (s.traceAt k slot e pc data).bytes = s.bytes :=
  (s.traceAt_bytes k slot e pc data).bytes_eq

@[simp] theorem State.traceMe_bytes (s : State) (e : Nat) (data : Word) : (s.traceMe e data).bytes = s.bytes := State.traceAt_sameBytes ..

/-! ### Waits -/

@[simp] theorem leave_sameBytes (s : State) (kind obj : Nat) (p : Pend) : (leave s kind obj p).bytes = s.bytes := (leave_bytes s kind obj p).bytes_eq

@[simp] theorem awaitReply_sameBytes (s : State) (obj : Nat) : (awaitReply s obj).bytes = s.bytes := (awaitReply_bytes s obj).bytes_eq

/-! ### The supervisor queue -/

@[simp] theorem wakeSupervisor_bytes (k : Nat) (s : State) : (wakeSupervisor k s).bytes = s.bytes := by
  unfold wakeSupervisor
  split
  · rfl
  · dsimp only
    split <;> rfl

@[simp] theorem pushSq_bytes (s : State) (k : Nat) (src : HeldSrc) (r : SqRec) : (pushSq s k src r).bytes = s.bytes := by
  unfold pushSq
  dsimp only
  split
  · simp
  · split
    · split <;> rfl
    · split <;> rfl
    · rfl

@[simp] theorem popSq_bytes (s : State) (k : Nat) : (popSq s k).bytes = s.bytes := by
  unfold popSq
  dsimp only
  split
  · rfl
  · simp

/-! ### Parking and stopping -/

@[simp] theorem vacate_bytes (s : State) (k slot : Nat) : (vacate s k slot).bytes = s.bytes := by
  unfold vacate
  dsimp only
  split
  · split <;> rfl
  · split <;> rfl

@[simp] theorem restoreSupervisor_bytes (s : State) (k : Nat) : (restoreSupervisor s k).bytes = s.bytes := by
  unfold restoreSupervisor
  split <;> rfl

@[simp] theorem endPark_bytes (s : State) (r : ThreadRef) : (endPark s r).bytes = s.bytes :=
  foldl_bytes (fun s o => (s.setClk o (max (s.clkOf o) (s.clkOf r))).post [.memoryReply o.core o.ctx]) (fun _ _ => rfl) _ _

@[simp] theorem parkCtx_bytes (s : State) (r : ThreadRef) : (parkCtx s r).bytes = s.bytes := by
  unfold parkCtx
  dsimp only
  split <;> split <;> (try split) <;> simp

@[simp] theorem stopCtx_bytes (s : State) (r : ThreadRef) : (stopCtx s r).bytes = s.bytes := by
  unfold stopCtx
  dsimp only
  split <;> simp

/-! ### Traps -/

@[simp] theorem takeTrap_bytes (s : State) (cause : Nat) (tval extra : Word) : (takeTrap s cause tval extra).bytes = s.bytes := by
  unfold takeTrap
  dsimp only
  split <;> simp

@[simp] theorem trap_bytes (s : State) (cause : Nat) (tval : Word) : (trap s cause tval).bytes = s.bytes := takeTrap_bytes ..

@[simp] theorem parkWithRecord_bytes (s : State) (kind : Nat) (tval tpc : Word) (b : Bool) : (parkWithRecord s kind tval tpc b).bytes = s.bytes := by
  cases b <;> simp [parkWithRecord]

/-! ### Boundaries and retirement -/

@[simp] theorem stopTrapped_bytes (s : State) (due : Bool) : (stopTrapped s due).bytes = s.bytes := by
  unfold stopTrapped
  dsimp only
  split
  · rfl
  · split <;> simp

@[simp] theorem boundary_bytes (s : State) : (boundary s).bytes = s.bytes := by
  unfold boundary
  dsimp only
  split
  · rfl
  · split
    · simp
    · split
      · simp
      · split <;> split <;> simp

@[simp] theorem retire_bytes (s : State) : (retire s).bytes = s.bytes := by simp [retire]
@[simp] theorem retireTo_bytes (s : State) (t : Word) : (retireTo s t).bytes = s.bytes := by simp [retireTo]
@[simp] theorem writeRetire_bytes (s : State) (d : BitVec 5) (v : Word) : (writeRetire s d v).bytes = s.bytes := by simp [writeRetire]

/-- A choice of the executing context is no byte. -/
@[simp] theorem State.setCur_bytes (s : State) (r : ThreadRef) : State.bytes { s with cur := r } = s.bytes := rfl

@[simp] theorem asThread_bytes (s : State) (r : ThreadRef) (f : State → State) : (asThread s r f).bytes = (f { s with cur := r }).bytes := rfl

@[simp] theorem reply_bytes (s : State) (r : ThreadRef) : (reply s r).bytes = s.bytes := by
  unfold reply
  rw [asThread_bytes]
  dsimp only
  split <;> split <;> simp

end Sys2Proof.Machine
end

section
/-! SUPPORT. What parking, stopping and trapping do to contexts and cores (R86, R232 to R236, R241, R339, R390). -/

namespace Sys2Proof.Machine

/-! ### Sparse families -/

/-- A family whose members are all changed by `g`, which leaves the default, reads `g` of what it held. -/
theorem SMap.get_map {V : Type} (d : V) (g : V → V) (hd : g d = d) (m : SMap V) (k : Nat) :
    SMap.get d (m.map (fun p => (p.1, g p.2))) k = g (SMap.get d m k) := by
  induction m with
  | nil => exact hd.symm
  | cons p t ih =>
    simp only [List.map_cons, SMap.get]
    split
    · rfl
    · exact ih

theorem SMap.mem_put {V : Type} {m : SMap V} {k : Nat} {v : V} {p : Nat × V} (h : p ∈ SMap.put m k v) : p = (k, v) ∨ p ∈ m := by
  induction m with
  | nil => exact .inl (List.mem_singleton.mp h)
  | cons q t ih =>
    obtain ⟨k', v'⟩ := q
    unfold SMap.put at h
    split at h
    · exact List.mem_cons.mp h
    · split at h
      · exact (List.mem_cons.mp h).imp_right (List.mem_cons_of_mem _)
      · obtain rfl | h := List.mem_cons.mp h
        · exact .inr List.mem_cons_self
        · exact (ih h).imp_right (List.mem_cons_of_mem _)

theorem SMap.mem_of_mem_del {V : Type} {m : SMap V} {k : Nat} {p : Nat × V} (h : p ∈ SMap.del m k) : p ∈ m := by
  induction m with
  | nil => exact h
  | cons q t ih =>
    obtain ⟨k', v'⟩ := q
    unfold SMap.del at h
    split at h
    · exact List.mem_cons_of_mem _ (ih h)
    · obtain rfl | h := List.mem_cons.mp h
      · exact List.mem_cons_self
      · exact List.mem_cons_of_mem _ (ih h)

/-- A member of a family after a write is the one written or was there before. -/
theorem SMap.mem_set {V : Type} [DecidableEq V] {d : V} {m : SMap V} {k : Nat} {v : V} {p : Nat × V} (h : p ∈ SMap.set d m k v) :
    p = (k, v) ∨ p ∈ m := by
  unfold SMap.set at h
  split at h
  · exact .inr (SMap.mem_of_mem_del h)
  · exact SMap.mem_put h

/-- What a family reads elsewhere than at its default is one of its members. -/
theorem SMap.mem_of_get {V : Type} (d : V) (m : SMap V) (k : Nat) (h : SMap.get d m k ≠ d) : (k, SMap.get d m k) ∈ m := by
  induction m with
  | nil => exact absurd rfl h
  | cons q t ih =>
    obtain ⟨k', v'⟩ := q
    unfold SMap.get at h ⊢
    split
    · subst_vars; exact List.mem_cons_self
    · rename_i hk
      rw [if_neg hk] at h
      exact List.mem_cons_of_mem _ (ih h)

/-! ### Contexts after an update of their core -/

/-- An update of a core that leaves its contexts leaves every context. -/
theorem State.ctxOf_setCore_of_ctxs {s : State} {k : Nat} {c : Core} (h : c.ctxs = (s.core k).ctxs) (q : ThreadRef) :
    (s.setCore k c).ctxOf q = s.ctxOf q := by
  simp only [State.ctxOf, State.core_setCore]
  split
  · rename_i hk
    rw [Core.ctx, h, hk, Core.ctx]
  · rfl

theorem State.core_setCtx (s : State) (r : ThreadRef) (x : Context) (k : Nat) :
    (s.setCtx r x).core k = if k = r.core then (s.core k).setCtx r.ctx x else s.core k := by
  unfold State.setCtx
  rw [State.core_setCore]
  split
  · subst k; rfl
  · rfl

@[simp] theorem State.ctxOf_setClk (s : State) (r q : ThreadRef) (c : Nat) : (s.setClk r c).ctxOf q = s.ctxOf q := rfl
@[simp] theorem State.core_setClk (s : State) (r : ThreadRef) (c k : Nat) : (s.setClk r c).core k = s.core k := rfl
@[simp] theorem State.ctxOf_slotVacant (s : State) (k : Nat) (q : ThreadRef) : (s.slotVacant k).ctxOf q = s.ctxOf q := rfl
@[simp] theorem State.core_slotVacant (s : State) (k j : Nat) : (s.slotVacant k).core j = s.core j := rfl

/-! ### Messages dropped -/

theorem dropMessages_core (r : ThreadRef) (s : State) (k : Nat) :
    (dropMessages r s).core k = { s.core k with bwaiters := (s.core k).bwaiters.filter (fun m => decide (m.who ≠ r)) } :=
  SMap.get_map ({} : Core) (fun c : Core => { c with bwaiters := c.bwaiters.filter (fun m => decide (m.who ≠ r)) }) rfl s.cores k

@[simp] theorem dropMessages_ctxOf (r : ThreadRef) (s : State) (q : ThreadRef) : (dropMessages r s).ctxOf q = s.ctxOf q := by
  rw [State.ctxOf, dropMessages_core]; rfl

@[simp] theorem dropMessages_cur (r : ThreadRef) (s : State) : (dropMessages r s).cur = s.cur := rfl

/-! ### The end of PARKs that wait -/

/-- The state in which the PARKs `l` have been answered, whose issuers follow the clock of `r`. -/
theorem answerParks_rest (r : ThreadRef) (l : List ThreadRef) (s : State) :
    let t := l.foldl (fun s o => (s.setClk o (max (s.clkOf o) (s.clkOf r))).post [.memoryReply o.core o.ctx]) s
    t = { s with micro := t.micro, agenda := s.agenda ++ l.map (fun o => .memoryReply o.core o.ctx) } := by
  induction l generalizing s with
  | nil => simp
  | cons o t ih =>
    simp only [List.foldl_cons] at ih ⊢
    rw [ih]
    simp [State.post, State.setClk]

theorem endPark_rest (s : State) (r : ThreadRef) :
    let c := s.core r.core
    endPark s r = { s.setCore r.core { c with parking := c.parking.filter (fun p => decide (p.1 ≠ r.ctx)) } with
      micro := (endPark s r).micro
      agenda := s.agenda ++ (c.parking.filter (fun p => decide (p.1 = r.ctx))).map (fun p => .memoryReply r.core p.2) } := by
  have h := answerParks_rest r (((s.core r.core).parking.filter (fun p => decide (p.1 = r.ctx))).map (fun p => (⟨r.core, p.2⟩ : ThreadRef)))
    (s.setCore r.core { s.core r.core with parking := (s.core r.core).parking.filter (fun p => decide (p.1 ≠ r.ctx)) })
  simp only [List.map_map] at h
  exact h

theorem endPark_core (s : State) (r : ThreadRef) (k : Nat) :
    (endPark s r).core k = if k = r.core then { s.core k with parking := (s.core k).parking.filter (fun p => decide (p.1 ≠ r.ctx)) } else s.core k := by
  rw [endPark_rest]
  refine (State.core_setCore s r.core k _).trans ?_
  split
  · subst k; rfl
  · rfl

@[simp] theorem endPark_ctxOf (s : State) (r q : ThreadRef) : (endPark s r).ctxOf q = s.ctxOf q := by
  simp only [State.ctxOf, endPark_core]
  split <;> rfl

theorem endPark_agenda (s : State) (r : ThreadRef) :
    (endPark s r).agenda = s.agenda ++ ((s.core r.core).parking.filter (fun p => decide (p.1 = r.ctx))).map (fun p => .memoryReply r.core p.2) := by
  rw [endPark_rest]

@[simp] theorem endPark_cur (s : State) (r : ThreadRef) : (endPark s r).cur = s.cur := by rw [endPark_rest]; rfl

/-! ### A slot that becomes vacant -/

/-- Nothing of the core waits for the slot: no RESUME and no context whose budget has been renewed. -/
structure Core.Unclaimed (c : Core) (slot : Nat) : Prop where
  resuming : ∀ w ∈ c.resuming, w.slot ≠ slot
  renewed : ∀ p ∈ c.ctxs, p.2.budgetDue = false

theorem vacate_of_unclaimed {s : State} {k slot : Nat} (h : (s.core k).Unclaimed slot) : vacate s k slot = s.slotVacant k := by
  have h1 : (s.core k).resuming.find? (fun w => decide (w.slot = slot)) = none := by
    rw [List.find?_eq_none]
    intro w hw
    simpa using h.resuming w hw
  have h2 : (s.core k).ctxs.find? (fun p => decide (p.2.st = .parked) && p.2.budgetDue && decide (p.2.slot = slot)) = none := by
    rw [List.find?_eq_none]
    intro p hp
    simp [h.renewed p hp]
  simp only [vacate, h1, h2]

/-! ### Parking -/

/-- The context `x`, parked at `now` (R86, R116, R241). -/
def Context.parked (x : Context) (now : Nat) : Context :=
  { x with
    st := .parked, parkedAt := now, parkReq := false, chain := {}, pend := .none, answer := none, miss := none
    budgetStop := false, budgetParked := x.budgetStop && !x.parkReq, budgetDue := false }

/-- The state once a wait that a context was in has been cut short: its messages go with it (R187, R241). -/
def State.cutWait (s : State) (r : ThreadRef) (p : Pend) : State := if p = .message ∨ p = .reply then dropMessages r s else s

theorem State.cutWait_core (s : State) (r : ThreadRef) (p : Pend) (k : Nat) :
    ∃ l, (s.cutWait r p).core k = { s.core k with bwaiters := l } := by
  unfold State.cutWait
  split
  · exact ⟨_, dropMessages_core r s k⟩
  · exact ⟨_, rfl⟩

@[simp] theorem State.cutWait_ctxOf (s : State) (r : ThreadRef) (p : Pend) (q : ThreadRef) : (s.cutWait r p).ctxOf q = s.ctxOf q := by
  unfold State.cutWait
  split
  · exact dropMessages_ctxOf r s q
  · rfl

@[simp] theorem State.cutWait_cur (s : State) (r : ThreadRef) (p : Pend) : (s.cutWait r p).cur = s.cur := by
  unfold State.cutWait
  split <;> rfl

/-- A bound context of one of the slots 0 to 14 is parked, and nothing waits for its slot. -/
theorem parkCtx_of_unclaimed {s : State} {r : ThreadRef} (hst : (s.ctxOf r).st = .bound) (hslot : (s.ctxOf r).slot < 15)
    (h : (s.core r.core).Unclaimed (s.ctxOf r).slot) :
    parkCtx s r = (endPark ((s.setCtx r ((s.ctxOf r).parked s.cycle)).cutWait r (s.ctxOf r).pend) r).slotVacant r.core := by
  have hu : ((endPark ((s.setCtx r ((s.ctxOf r).parked s.cycle)).cutWait r (s.ctxOf r).pend) r).core r.core).Unclaimed (s.ctxOf r).slot := by
    obtain ⟨l, hl⟩ := (s.setCtx r ((s.ctxOf r).parked s.cycle)).cutWait_core r (s.ctxOf r).pend r.core
    rw [endPark_core, if_pos rfl, hl, State.core_setCtx, if_pos rfl]
    refine ⟨h.resuming, fun p hp => ?_⟩
    have hp : p ∈ SMap.set {} (s.core r.core).ctxs r.ctx ((s.ctxOf r).parked s.cycle) := hp
    obtain rfl | hp := SMap.mem_set hp
    · rfl
    · exact h.renewed p hp
  rw [← vacate_of_unclaimed hu]
  exact if_pos ⟨hst, hslot⟩

/-- The cores after a parking that vacates a slot: only the contexts and what waited for the parked one differ. -/
theorem parkCtx_core {s : State} {r : ThreadRef} (hst : (s.ctxOf r).st = .bound) (hslot : (s.ctxOf r).slot < 15)
    (h : (s.core r.core).Unclaimed (s.ctxOf r).slot) (k : Nat) :
    { (parkCtx s r).core k with ctxs := [], bwaiters := [], parking := [] } = { s.core k with ctxs := [], bwaiters := [], parking := [] } := by
  obtain ⟨l, hl⟩ := (s.setCtx r ((s.ctxOf r).parked s.cycle)).cutWait_core r (s.ctxOf r).pend k
  rw [parkCtx_of_unclaimed hst hslot h, State.core_slotVacant, endPark_core, hl, State.core_setCtx]
  split <;> rfl

theorem parkCtx_ctxOf {s : State} {r : ThreadRef} (hst : (s.ctxOf r).st = .bound) (hslot : (s.ctxOf r).slot < 15)
    (h : (s.core r.core).Unclaimed (s.ctxOf r).slot) (q : ThreadRef) :
    (parkCtx s r).ctxOf q = if q = r then (s.ctxOf r).parked s.cycle else s.ctxOf q := by
  rw [parkCtx_of_unclaimed hst hslot h, State.ctxOf_slotVacant, endPark_ctxOf, State.cutWait_ctxOf, State.ctxOf_setCtx]

/-! ### Stopping -/

/-- A trace record changes the trace buffer alone. -/
theorem State.traceAt_core (s : State) (k slot e : Nat) (pc data : Word) (j : Nat) :
    { (s.traceAt k slot e pc data).core j with trace := [] } = { s.core j with trace := [] } := by
  obtain h | ⟨t, h⟩ := s.traceAt_cases k slot e pc data
  · rw [h]
  · rw [h, State.core_setCore]
    split
    · subst j; unfold Core.addTrace; rfl
    · rfl

/-- The context `x`, stopped (R390). -/
def Context.halted (x : Context) : Context :=
  { x with stopped := true, stopReq := false, dbgStep := false, chain := {}, pend := .none, answer := none, miss := none }

theorem stopCtx_eq (s : State) (r : ThreadRef) :
    stopCtx s r = ((s.setCtx r (s.ctxOf r).halted).cutWait r (s.ctxOf r).pend).traceAt r.core (s.ctxOf r).slot 1 (s.ctxOf r).pc 0x100 := rfl

theorem stopCtx_ctxOf (s : State) (r q : ThreadRef) : (stopCtx s r).ctxOf q = if q = r then (s.ctxOf r).halted else s.ctxOf q := by
  rw [stopCtx_eq, State.traceAt_ctxOf, State.cutWait_ctxOf, State.ctxOf_setCtx]

/-- The cores after a stop: the contexts, what waited for the stopped one and the trace alone differ. -/
theorem stopCtx_core (s : State) (r : ThreadRef) (k : Nat) : { (stopCtx s r).core k with bwaiters := [], trace := [] } =
    { s.core k with ctxs := ((s.setCtx r (s.ctxOf r).halted).core k).ctxs, bwaiters := [], trace := [] } := by
  obtain ⟨l, hl⟩ := (s.setCtx r (s.ctxOf r).halted).cutWait_core r (s.ctxOf r).pend k
  have h := State.traceAt_core ((s.setCtx r (s.ctxOf r).halted).cutWait r (s.ctxOf r).pend) r.core (s.ctxOf r).slot 1 (s.ctxOf r).pc 0x100 k
  rw [← stopCtx_eq, hl] at h
  refine (congrArg (fun c : Core => { c with bwaiters := [] }) h).trans ?_
  rw [State.core_setCtx]
  split <;> rfl

@[simp] theorem stopCtx_cur (s : State) (r : ThreadRef) : (stopCtx s r).cur = s.cur := by
  rw [stopCtx_eq, State.traceAt_cur, State.cutWait_cur]; rfl

end Sys2Proof.Machine
end

section
/-! SUPPORT. Traces, the supervisor queue and the machine-check log as taking a trap leaves them (R232 to R236, R396, R402). -/

namespace Sys2Proof.Machine

/-! ### Traces (R396) -/

theorem State.traceAt_rest (s : State) (k slot e : Nat) (pc data : Word) :
    s.traceAt k slot e pc data = { s with cores := (s.traceAt k slot e pc data).cores } := by
  obtain h | ⟨t, h⟩ := s.traceAt_cases k slot e pc data
  · rw [h]
  · rw [h]; rfl

@[simp] theorem State.traceMe_ctxOf (s : State) (e : Nat) (v : Word) (q : ThreadRef) : (s.traceMe e v).ctxOf q = s.ctxOf q := s.traceAt_ctxOf ..
@[simp] theorem State.traceMe_cur (s : State) (e : Nat) (v : Word) : (s.traceMe e v).cur = s.cur := s.traceAt_cur ..
@[simp] theorem State.traceMe_me (s : State) (e : Nat) (v : Word) : (s.traceMe e v).me = s.me := by
  rw [State.me, State.traceMe_cur, State.traceMe_ctxOf, State.me]
@[simp] theorem State.traceMe_cycle (s : State) (e : Nat) (v : Word) : (s.traceMe e v).cycle = s.cycle := by
  rw [State.traceMe, State.traceAt_rest]
@[simp] theorem State.traceMe_platform (s : State) (e : Nat) (v : Word) : (s.traceMe e v).platform = s.platform := by
  rw [State.traceMe, State.traceAt_rest]

theorem State.traceMe_core (s : State) (e : Nat) (v : Word) (k : Nat) : { (s.traceMe e v).core k with trace := [] } = { s.core k with trace := [] } :=
  State.traceAt_core ..

theorem State.traceMe_sq (s : State) (e : Nat) (v : Word) (k : Nat) : ((s.traceMe e v).core k).sq = (s.core k).sq :=
  (congrArg Core.sq (s.traceMe_core e v k) :)
theorem State.traceMe_heldSq (s : State) (e : Nat) (v : Word) (k : Nat) : ((s.traceMe e v).core k).heldSq = (s.core k).heldSq :=
  (congrArg Core.heldSq (s.traceMe_core e v k) :)
theorem State.traceMe_mentry (s : State) (e : Nat) (v : Word) (k : Nat) : ((s.traceMe e v).core k).mentry = (s.core k).mentry :=
  (congrArg Core.mentry (s.traceMe_core e v k) :)

theorem State.traceMe_unclaimed {s : State} {k slot : Nat} (h : (s.core k).Unclaimed slot) (e : Nat) (v : Word) :
    ((s.traceMe e v).core k).Unclaimed slot where
  resuming := by
    rw [show ((s.traceMe e v).core k).resuming = (s.core k).resuming from (congrArg Core.resuming (s.traceMe_core e v k) :)]
    exact h.resuming
  renewed := by
    rw [show ((s.traceMe e v).core k).ctxs = (s.core k).ctxs from (congrArg Core.ctxs (s.traceMe_core e v k) :)]
    exact h.renewed

/-! ### The supervisor queue (R233, R234) -/

/-- Waking the supervisor puts at most a step into the agenda. -/
theorem wakeSupervisor_posts (k : Nat) (s : State) : ∃ l, wakeSupervisor k s = s.post l := by
  have h0 : s = s.post [] := by simp [State.post]
  unfold wakeSupervisor
  split
  · exact ⟨[], h0⟩
  · dsimp only
    split
    · exact ⟨_, rfl⟩
    · exact ⟨[], h0⟩

theorem State.post_nil (s : State) : s.post [] = s := by simp [State.post]

/-- A core has room in its supervisor queue. -/
def Core.SqRoom (c : Core) : Prop := c.sq.length < 64 ∧ c.heldSq = []

/-- A record enters the queue, or is held at its source; nothing else of a core changes. -/
theorem pushSq_cases (s : State) (k : Nat) (src : HeldSrc) (r : SqRec) :
    (pushSq s k src r = s ∧ ¬ (s.core k).SqRoom) ∨
    ∃ q held l, ((s.core k).SqRoom → q = (s.core k).sq ++ [r]) ∧ pushSq s k src r = (s.setCore k { s.core k with sq := q, heldSq := held }).post l := by
  unfold pushSq
  dsimp only
  split
  · obtain ⟨l, hl⟩ := wakeSupervisor_posts k (s.setCore k { s.core k with sq := (s.core k).sq ++ [r] })
    exact .inr ⟨_, (s.core k).heldSq, l, fun _ => rfl, hl⟩
  · rename_i hfull
    have hno (h : (s.core k).SqRoom) : False := hfull (by simp [h.1, h.2])
    have held (l : List (HeldSrc × SqRec)) : (s.setCore k { s.core k with heldSq := l }) = s ∧ ¬ (s.core k).SqRoom ∨
        ∃ q held n, ((s.core k).SqRoom → q = (s.core k).sq ++ [r]) ∧
          s.setCore k { s.core k with heldSq := l } = (s.setCore k { s.core k with sq := q, heldSq := held }).post n :=
      .inr ⟨(s.core k).sq, l, [], fun h => (hno h).elim, (State.post_nil _).symm⟩
    split
    · split <;> exact held _
    · split
      · exact .inl ⟨rfl, hno⟩
      · exact held _
    · exact held _

@[simp] theorem pushSq_ctxOf (s : State) (k : Nat) (src : HeldSrc) (r : SqRec) (q : ThreadRef) : (pushSq s k src r).ctxOf q = s.ctxOf q := by
  obtain ⟨h, -⟩ | ⟨sq, held, l, -, h⟩ := pushSq_cases s k src r
  · rw [h]
  · rw [h, State.ctxOf_post]
    exact State.ctxOf_setCore_of_ctxs (c := { s.core k with sq := sq, heldSq := held }) rfl q

@[simp] theorem pushSq_cur (s : State) (k : Nat) (src : HeldSrc) (r : SqRec) : (pushSq s k src r).cur = s.cur := by
  obtain ⟨h, -⟩ | ⟨sq, held, l, -, h⟩ := pushSq_cases s k src r
  · rw [h]
  · rw [h]; rfl

/-- A record enters a queue that has room. -/
theorem pushSq_sq {s : State} {k : Nat} (hroom : (s.core k).SqRoom) (src : HeldSrc) (r : SqRec) :
    ((pushSq s k src r).core k).sq = (s.core k).sq ++ [r] := by
  obtain ⟨-, h⟩ | ⟨sq, held, l, hq, h⟩ := pushSq_cases s k src r
  · exact absurd hroom h
  · rw [h, State.core_post, State.core_setCore_same, hq hroom]

theorem pushSq_core (s : State) (k : Nat) (src : HeldSrc) (r : SqRec) (j : Nat) :
    { (pushSq s k src r).core j with sq := [], heldSq := [] } = { s.core j with sq := [], heldSq := [] } := by
  obtain ⟨h, -⟩ | ⟨sq, held, l, -, h⟩ := pushSq_cases s k src r
  · rw [h]
  · rw [h, State.core_post, State.core_setCore]
    split
    · subst j; rfl
    · rfl

/-! ### Parking with a record -/

theorem Core.Unclaimed.setCtx {s : State} {r : ThreadRef} {slot : Nat} (h : (s.core r.core).Unclaimed slot) {x : Context} (hx : x.budgetDue = false) :
    ((s.setCtx r x).core r.core).Unclaimed slot := by
  rw [State.core_setCtx, if_pos rfl]
  refine ⟨h.resuming, fun p hp => ?_⟩
  obtain rfl | hp := SMap.mem_set hp
  · exact hx
  · exact h.renewed p hp

/-- A core whose contexts await no renewal has none in particular that does. -/
theorem State.budgetDue_of_renewed {s : State} {r : ThreadRef} (h : ∀ p ∈ (s.core r.core).ctxs, p.2.budgetDue = false) :
    (s.ctxOf r).budgetDue = false := by
  by_cases e : (s.core r.core).ctx r.ctx = {}
  · rw [State.ctxOf, e]
  · exact h _ (SMap.mem_of_get ({} : Context) (s.core r.core).ctxs r.ctx e)

/-- What a context can be when it is parked at once: bound to one of the slots 0 to 14, for which nothing waits. -/
structure State.Parkable (s : State) (r : ThreadRef) : Prop where
  bound : (s.ctxOf r).st = .bound
  slot : (s.ctxOf r).slot < 15
  unclaimed : (s.core r.core).Unclaimed (s.ctxOf r).slot

/-- A change of the context keeps it so, where it stays bound to its slot. -/
theorem State.Parkable.setCtx {s : State} {r : ThreadRef} (h : s.Parkable r) {x : Context} (h1 : x.st = .bound) (h2 : x.slot = (s.ctxOf r).slot)
    (h3 : x.budgetDue = (s.ctxOf r).budgetDue) : (s.setCtx r x).Parkable r := by
  have hb := State.budgetDue_of_renewed h.unclaimed.renewed
  refine ⟨?_, ?_, ?_⟩ <;> rw [State.ctxOf_setCtx_same]
  · exact h1
  · rw [h2]; exact h.slot
  · rw [h2]; exact h.unclaimed.setCtx (h3.trans hb)

theorem State.Parkable.setMe {s : State} (h : s.Parkable s.cur) {x : Context} (h1 : x.st = .bound) (h2 : x.slot = s.me.slot)
    (h3 : x.budgetDue = s.me.budgetDue) : (s.setMe x).Parkable s.cur := h.setCtx h1 h2 h3

theorem State.Parkable.traceMe {s : State} {r : ThreadRef} (h : s.Parkable r) (e : Nat) (v : Word) : (s.traceMe e v).Parkable r := by
  refine ⟨?_, ?_, ?_⟩ <;> rw [State.traceMe_ctxOf]
  · exact h.bound
  · exact h.slot
  · exact State.traceMe_unclaimed h.unclaimed e v

theorem parkPush_ctxOf {s : State} {r : ThreadRef} (h : s.Parkable r) (k : Nat) (src : HeldSrc) (v : SqRec) (q : ThreadRef) :
    (pushSq (parkCtx s r) k src v).ctxOf q = if q = r then (s.ctxOf r).parked s.cycle else s.ctxOf q := by
  rw [pushSq_ctxOf, parkCtx_ctxOf h.bound h.slot h.unclaimed]

theorem parkPush_sq {s : State} {r : ThreadRef} (h : s.Parkable r) (hroom : (s.core r.core).SqRoom)
    (src : HeldSrc) (v : SqRec) : ((pushSq (parkCtx s r) r.core src v).core r.core).sq = (s.core r.core).sq ++ [v] := by
  have hc := parkCtx_core h.bound h.slot h.unclaimed r.core
  have hq : ((parkCtx s r).core r.core).sq = (s.core r.core).sq := (congrArg Core.sq hc :)
  have hh : ((parkCtx s r).core r.core).heldSq = (s.core r.core).heldSq := (congrArg Core.heldSq hc :)
  rw [pushSq_sq (by rw [Core.SqRoom, hq, hh]; exact hroom), hq]

/-! ### Records (R234) -/

/-- Word 0 of a thread's record. -/
theorem sqWord0_thread {cause kind ctx core slot : Nat} (hk : kind < 16) : sqWord0 cause kind ctx 0 false true (threadId core slot) =
    BitVec.ofNat 64 (cause % 2 ^ 8 * 2 ^ 56 + kind * 2 ^ 52 + ctx % 32 * 2 ^ 47 + 2 ^ 32 + (core % 256 * 16 + slot % 16) * 2 ^ 20) := by
  have ht : threadId core slot % 2 ^ 12 = core % 256 * 16 + slot % 16 := by unfold threadId; omega
  rw [sqWord0, ht, Nat.mod_eq_of_lt hk]
  simp

/-! ### The machine-check log (R402) -/

theorem List.mem_drop_append_singleton {α : Type} (l : List α) (e : α) {n : Nat} (h : n ≤ l.length) : e ∈ (l ++ [e]).drop n := by
  rw [List.drop_append_of_le_length h]
  exact List.mem_append_right _ (List.mem_singleton.mpr rfl)

/-- The log keeps its last sixteen entries. -/
theorem State.logMachineCheck_mclog (s : State) (pa : Word) (die core : Nat) : (s.logMachineCheck pa die core).platform.mclog =
    (s.platform.mclog ++ [(⟨pa, die, s.cycle, core⟩ : CheckEntry)]).drop (s.platform.mclog.length - 15) := by
  simp [State.logMachineCheck]

/-- The entry just made is in the log. -/
theorem State.mem_logMachineCheck (s : State) (pa : Word) (die core : Nat) : ⟨pa, die, s.cycle, core⟩ ∈ (s.logMachineCheck pa die core).platform.mclog := by
  rw [State.logMachineCheck_mclog]
  exact List.mem_drop_append_singleton _ _ (Nat.sub_le _ _)

end Sys2Proof.Machine
end

section
/-! SUPPORT. The shared operations leave the choice of the executing context as it is. -/

namespace Sys2Proof.Machine

@[simp] theorem State.slotVacant_cur (s : State) (k : Nat) : (s.slotVacant k).cur = s.cur := rfl
@[simp] theorem bindHome_cur (s : State) (r : ThreadRef) : (bindHome s r).cur = s.cur := rfl
@[simp] theorem enterMonitor_cur (s : State) (a b c : Word) : (enterMonitor s a b c).cur = s.cur := rfl
@[simp] theorem leaveMonitor_cur (s : State) : (leaveMonitor s).cur = s.cur := rfl
@[simp] theorem stopCore_cur (s : State) : (stopCore s).cur = s.cur := by simp [stopCore, State.logMachineCheck]

@[simp] theorem vacate_cur (s : State) (k slot : Nat) : (vacate s k slot).cur = s.cur := by
  unfold vacate
  dsimp only
  split <;> split <;> rfl

@[simp] theorem restoreSupervisor_cur (s : State) (k : Nat) : (restoreSupervisor s k).cur = s.cur := by
  unfold restoreSupervisor
  split <;> rfl

@[simp] theorem parkCtx_cur (s : State) (r : ThreadRef) : (parkCtx s r).cur = s.cur := by
  have h : ((s.setCtx r ((s.ctxOf r).parked s.cycle)).cutWait r (s.ctxOf r).pend).cur = s.cur := by rw [State.cutWait_cur]; rfl
  unfold parkCtx
  dsimp only
  split
  · rw [vacate_cur, endPark_cur]; exact h
  · split
    · rw [restoreSupervisor_cur, endPark_cur]; exact h
    · rw [endPark_cur]; exact h

@[simp] theorem takeTrap_cur (s : State) (cause : Nat) (tval extra : Word) : (takeTrap s cause tval extra).cur = s.cur := by
  unfold takeTrap
  dsimp only
  split <;> simp

@[simp] theorem trap_cur (s : State) (cause : Nat) (tval : Word) : (trap s cause tval).cur = s.cur := takeTrap_cur ..

@[simp] theorem parkWithRecord_cur (s : State) (kind : Nat) (v tpc : Word) (b : Bool) : (parkWithRecord s kind v tpc b).cur = s.cur := by
  cases b <;> simp [parkWithRecord]

@[simp] theorem stopTrapped_cur (s : State) (due : Bool) : (stopTrapped s due).cur = s.cur := by
  unfold stopTrapped
  dsimp only
  split
  · rfl
  · split
    · exact stopCtx_cur s s.cur
    · rfl

@[simp] theorem boundary_cur (s : State) : (boundary s).cur = s.cur := by
  unfold boundary
  dsimp only
  split
  · rfl
  · split
    · simp
    · split
      · simp
      · split <;> split <;> simp

@[simp] theorem retire_cur (s : State) : (retire s).cur = s.cur := by simp [retire]
@[simp] theorem retireTo_cur (s : State) (t : Word) : (retireTo s t).cur = s.cur := by simp [retireTo]
@[simp] theorem writeRetire_cur (s : State) (d : BitVec 5) (v : Word) : (writeRetire s d v).cur = s.cur := by simp [writeRetire]
@[simp] theorem asThread_cur (s : State) (r : ThreadRef) (f : State → State) : (asThread s r f).cur = s.cur := rfl
@[simp] theorem reply_cur (s : State) (r : ThreadRef) : (reply s r).cur = s.cur := rfl

end Sys2Proof.Machine
end

section
/-! SUPPORT. The order of what comes due at a boundary (R241, R253, R336, R390, R395). -/

namespace Sys2Proof.Machine

theorem boundary_of_not_bound {s : State} (h : s.me.st ≠ .bound) : boundary s = s := if_pos h

/-- A watch trap comes before anything else. -/
theorem boundary_watch {s : State} {b : Word} (hb : s.me.st = .bound) (h : s.me.watchHit = some b) :
    boundary s = stopTrapped (takeTrap (s.setMe { s.me with watchHit := none }) 0x21 b 0) (s.me.dbgStep || s.me.stopReq) := by
  simp [boundary, hb, h]

/-- Single step comes next. -/
theorem boundary_step {s : State} (hb : s.me.st = .bound) (hw : s.me.watchHit = none) (h : s.me.step = true) :
    boundary s = stopTrapped (takeTrap s 0x22 (BitVec.ofNat 64 (s.me.pc.toNat % 2 ^ 56)) 0) (s.me.dbgStep || s.me.stopReq) := by
  simp only [boundary, hb, hw, h]
  rfl

/-- Then a stop, and a park after it. -/
theorem boundary_stop {s : State} (hb : s.me.st = .bound) (hw : s.me.watchHit = none) (h : s.me.step = false)
    (hd : (s.me.dbgStep || s.me.stopReq) = true) :
    boundary s = if s.me.parkDue then parkCtx (stopCtx s s.cur) s.cur else stopCtx s s.cur := by
  simp only [boundary, hb, hw, h, hd, stopCtx_cur]
  rfl

/-- A park alone. -/
theorem boundary_park {s : State} (hb : s.me.st = .bound) (hw : s.me.watchHit = none) (h : s.me.step = false)
    (hd : (s.me.dbgStep || s.me.stopReq) = false) (hp : s.me.parkDue = true) : boundary s = parkCtx s s.cur := by
  simp [boundary, hb, hw, h, hd, hp]

theorem Context.parkDue_iff {x : Context} : x.parkDue = true ↔ x.parkReq = true ∨ x.budgetStop = true := by
  simp [Context.parkDue]

theorem stopCtx_resuming (s : State) (r : ThreadRef) (k : Nat) : ((stopCtx s r).core k).resuming = (s.core k).resuming :=
  (congrArg Core.resuming (stopCtx_core s r k) :)

theorem stopCtx_mem_ctxs {s : State} {r : ThreadRef} {k : Nat} {p : Nat × Context} (h : p ∈ ((stopCtx s r).core k).ctxs) :
    p.2 = (s.ctxOf r).halted ∨ p ∈ (s.core k).ctxs := by
  have hc : ((stopCtx s r).core k).ctxs = ((s.setCtx r (s.ctxOf r).halted).core k).ctxs :=
    (congrArg Core.ctxs (stopCtx_core s r k) :)
  rw [hc, State.core_setCtx] at h
  split at h
  · exact (SMap.mem_set h).imp_left (by rintro rfl; rfl)
  · exact .inr h

/-- Nothing waits for a slot after a stop for which nothing waited before. -/
theorem stopCtx_unclaimed {s : State} {r : ThreadRef} {slot : Nat} (h : (s.core r.core).Unclaimed slot) (hr : (s.ctxOf r).budgetDue = false) :
    ((stopCtx s r).core r.core).Unclaimed slot where
  resuming := by rw [stopCtx_resuming]; exact h.resuming
  renewed p hp := by
    obtain e | hp := stopCtx_mem_ctxs hp
    · rw [e]; exact hr
    · exact h.renewed p hp

/-- Settles O55: the boundary's tests in their order, and what a stop and a park make of the context. -/
theorem boundariesFollowInOrder : Obligations.BoundariesFollowInOrder := by
  unfold Obligations.BoundariesFollowInOrder
  intro s
  dsimp only
  have bytes : s.SameBytes (boundary s) := State.sameBytes_iff.mpr (boundary_bytes s)
  refine ⟨boundary_of_not_bound, boundary_calm, fun b => boundary_watch, boundary_step, fun u => ⟨rfl, fun h => ?parkedStop, fun h => ?boundStop⟩,
    fun hb hw hs hd hp hbs => ⟨bytes, ?stop⟩, fun hb ha hw hs hd hp => ⟨bytes, ?stopPark⟩, fun hb ha hw hs hd1 hd2 hp => ⟨bytes, ?park⟩⟩
  case parkedStop => simp [stopTrapped, h]
  case boundStop => simp [stopTrapped, h]
  case stop =>
    have hd : (s.me.dbgStep || s.me.stopReq) = true := by simpa using hd
    have hp : s.me.parkDue = false := by simp [Context.parkDue, hp, hbs]
    rw [boundary_stop hb hw hs hd, if_neg (by simp [hp]), stopCtx_ctxOf, if_pos rfl]
    exact ⟨hb, rfl⟩
  case stopPark =>
    obtain ⟨hslot, hres, hren⟩ := ha
    have hx : (stopCtx s s.cur).ctxOf s.cur = s.me.halted := by rw [stopCtx_ctxOf, if_pos rfl]; rfl
    have hun : (s.core s.cur.core).Unclaimed s.me.slot := ⟨by simp [hres], hren⟩
    have hun := stopCtx_unclaimed (r := s.cur) hun (State.budgetDue_of_renewed hren)
    rw [boundary_stop hb hw hs hd, if_pos (Context.parkDue_iff.mpr hp), parkCtx_ctxOf (by rw [hx]; exact hb) (by rw [hx]; exact hslot)
      (by rw [hx]; exact hun), if_pos rfl, hx]
    exact ⟨rfl, rfl⟩
  case park =>
    obtain ⟨hslot, hres, hren⟩ := ha
    have hun : (s.core s.cur.core).Unclaimed s.me.slot := ⟨by simp [hres], hren⟩
    rw [boundary_park hb hw hs (by rw [hd1, hd2]; rfl) (Context.parkDue_iff.mpr hp), parkCtx_ctxOf hb hslot hun, if_pos rfl]
    exact ⟨rfl, rfl⟩

end Sys2Proof.Machine
end

section
/-! SUPPORT. Taking a trap at each level (R112, R232, R234, R236). -/

namespace Sys2Proof.Machine

/-! ### Level U -/

/-- The context of a trap at level U before it is parked: its trap registers hold the trap (R232). -/
def Context.trapped (x : Context) (cause : Nat) (tval : Word) : Context :=
  { x with tcause := BitVec.ofNat 64 cause, tval := tval, tpc := addr56 x.pc.toNat, wait := 0, budgetStop := false }

/-- A thread at level U that traps is parked, its record pushed. -/
theorem takeTrap_user {s : State} (h : s.me.level = .u) (cause : Nat) (tval extra : Word) : ∃ t : State,
    t = (s.traceMe 1 (BitVec.ofNat 64 cause)).setMe (s.me.trapped cause tval) ∧
    takeTrap s cause tval extra = pushSq (parkCtx t s.cur) s.cur.core (.thread s.cur.ctx)
      ⟨sqWord0 cause 1 s.cur.ctx 0 false true (threadId s.cur.core s.me.slot), addr56 s.me.pc.toNat, tval, extra⟩ := by
  refine ⟨_, rfl, ?_⟩
  simp only [takeTrap, h, threadRec, State.traceMe_me, State.traceMe_cur, Context.trapped, State.setMe_cur]

theorem takeTrap_user_parkable {s : State} (h : s.Parkable s.cur) (cause : Nat) (tval : Word) :
    ((s.traceMe 1 (BitVec.ofNat 64 cause)).setMe (s.me.trapped cause tval)).Parkable s.cur := by
  rw [State.setMe, State.traceMe_cur]
  exact (h.traceMe 1 (BitVec.ofNat 64 cause)).setCtx h.bound (by rw [State.traceMe_ctxOf]; rfl) (by rw [State.traceMe_ctxOf]; rfl)

/-! ### Level S -/

/-- The monitor is entered: the core's `cr.m` registers and the executing context alone change (R236, R239). -/
theorem enterMonitor_core (s : State) (a b c : Word) (k : Nat) :
    (enterMonitor s a b c).core k = if k = s.cur.core then { s.core k with
      mresume := a, mreason := b, mdetail := c,
      ctxs := SMap.set {} (s.core k).ctxs s.cur.ctx
        { s.me with prior := 1, level := .m, pc := (s.core k).mentry, chain := {}, wait := 0, pend := .none } } else s.core k := by
  unfold enterMonitor State.setMyCore
  rw [State.core_setCore]
  split
  · subst k; rfl
  · rfl


theorem enterMonitor_ctxOf (s : State) (a b c : Word) (q : ThreadRef) : (enterMonitor s a b c).ctxOf q = if q = s.cur then
    { s.me with prior := 1, level := .m, pc := (s.core s.cur.core).mentry, chain := {}, wait := 0, pend := .none } else s.ctxOf q := by
  rw [← State.ctxOf_setCtx, State.ctxOf, State.ctxOf, enterMonitor_core, State.core_setCtx]
  split
  · rename_i hk
    rw [hk]; rfl
  · rfl

/-! ### Level M -/

theorem stopCore_ctxOf (s : State) (q : ThreadRef) : (stopCore s).ctxOf q = s.ctxOf q :=
  State.ctxOf_setCore_of_ctxs (s := s) (c := { s.core s.cur.core with dead := true }) rfl q

theorem stopCore_dead (s : State) : ((stopCore s).core s.cur.core).dead = true := by
  have h : (stopCore s).core s.cur.core = { s.core s.cur.core with dead := true } := State.core_setCore_same s _ _
  rw [h]

theorem mem_stopCore (s : State) : ⟨0, s.cur.core / 64, s.cycle, s.cur.core + 1⟩ ∈ (stopCore s).platform.mclog :=
  State.mem_logMachineCheck (s.setMyCore { s.myCore with dead := true }) 0 (s.cur.core / 64) (s.cur.core + 1)

/-! ### The obligation -/

/-- Settles O31: at each level the trap is the composition of a trace with parking and a record, with entering the monitor, or with
stopping the core. -/
theorem trapsAreTaken : Obligations.TrapsAreTaken := by
  unfold Obligations.TrapsAreTaken
  intro s cause tval extra
  dsimp only
  refine ⟨State.sameBytes_iff.mpr (takeTrap_bytes s cause tval extra), fun hl hst hslot h1 h2 hres hren => ?user, fun hl => ?supervisor, fun hl => ?monitor⟩
  case user =>
    obtain ⟨t, ht, he⟩ := takeTrap_user hl cause tval extra
    have hp : t.Parkable s.cur := ht ▸ takeTrap_user_parkable ⟨hst, hslot, hres, hren⟩ cause tval
    have hq (q : ThreadRef) : t.ctxOf q = if q = s.cur then s.me.trapped cause tval else s.ctxOf q := by
      rw [ht, State.ctxOf_setMe, State.traceMe_cur, State.traceMe_ctxOf]
    have hsq : (t.core s.cur.core).sq = (s.core s.cur.core).sq ∧ (t.core s.cur.core).heldSq = (s.core s.cur.core).heldSq := by
      rw [ht, State.setMe, State.traceMe_cur, State.core_setCtx, if_pos rfl]
      exact ⟨State.traceMe_sq .., State.traceMe_heldSq ..⟩
    have hc : t.cycle = s.cycle := by rw [ht]; exact State.traceMe_cycle ..
    have hx : t.ctxOf s.cur = s.me.trapped cause tval := by rw [hq, if_pos rfl]
    rw [he]
    refine ⟨?_, ?_, fun r hr => ?_, ?_⟩
    · rw [parkPush_ctxOf hp, if_pos rfl, hx, hc]; rfl
    · rw [parkPush_ctxOf hp, if_pos rfl, hx, hc]; rfl
    · rw [parkPush_ctxOf hp, if_neg hr, hq, if_neg hr]
    · rw [parkPush_sq hp ⟨by rw [hsq.1]; exact h1, by rw [hsq.2]; exact h2⟩, hsq.1, sqWord0_thread (by decide)]; rfl
  case supervisor =>
    have he : takeTrap s cause tval extra =
        enterMonitor (s.traceMe 1 (BitVec.ofNat 64 cause)) (addr56 s.me.pc.toNat) (BitVec.ofNat 64 cause) tval := by
      simp only [takeTrap, hl]
    have hcore := enterMonitor_core (s.traceMe 1 (BitVec.ofNat 64 cause)) (addr56 s.me.pc.toNat) (BitVec.ofNat 64 cause) tval s.cur.core
    rw [State.traceMe_cur, if_pos rfl, ← he] at hcore
    have hctx (q : ThreadRef) := enterMonitor_ctxOf (s.traceMe 1 (BitVec.ofNat 64 cause)) (addr56 s.me.pc.toNat) (BitVec.ofNat 64 cause) tval q
    simp only [State.traceMe_cur, State.traceMe_me, State.traceMe_ctxOf, State.traceMe_mentry, ← he] at hctx
    have hcur : (takeTrap s cause tval extra).cur = s.cur := by rw [he, enterMonitor_cur, State.traceMe_cur]
    refine ⟨?_, fun r hr => ?_, ?_, ?_, ?_, ?_⟩
    · rw [State.me, hcur, hctx, if_pos rfl]
    · rw [hctx, if_neg hr]
    · rw [hcore]; rfl
    · rw [hcore]
    · rw [hcore]
    · rw [hcore]; exact State.traceMe_sq ..
  case monitor =>
    have he : takeTrap s cause tval extra = stopCore (s.traceMe 1 (BitVec.ofNat 64 cause)) := by simp only [takeTrap, hl]
    have hd := stopCore_dead (s.traceMe 1 (BitVec.ofNat 64 cause))
    have hm := mem_stopCore (s.traceMe 1 (BitVec.ofNat 64 cause))
    rw [State.traceMe_cur] at hd
    rw [State.traceMe_cur, State.traceMe_cycle] at hm
    rw [he]
    exact ⟨fun r => by rw [stopCore_ctxOf, State.traceMe_ctxOf], hd, hm⟩

end Sys2Proof.Machine
end

section
/-! SUPPORT. TRAP, SCALL, PARK of itself, MCALL and ERET (R230, R232, R238, R239, R241, R253). -/

namespace Sys2Proof.Machine

/-! ### Retiring (R104, R116, R118) -/

/-- Retiring changes the wait, the pc, the chain and the repeat count, and nothing else of a context. -/
theorem advance_rest (x : Context) : advance x =
    { x with wait := 0, pend := .none, pc := (advance x).pc, chain := (advance x).chain, rcnt := (advance x).rcnt } := by
  unfold advance
  dsimp only
  split
  · split <;> rfl
  · rfl

theorem advance_keeps (x : Context) : (advance x).st = x.st ∧ (advance x).slot = x.slot ∧ (advance x).budgetDue = x.budgetDue ∧
    (advance x).stopReq = x.stopReq ∧ (advance x).dbgStep = x.dbgStep ∧ (advance x).step = x.step ∧ (advance x).parkReq = x.parkReq ∧
    (advance x).watchHit = x.watchHit ∧ (advance x).budgetStop = x.budgetStop ∧ (advance x).level = x.level := by
  rw [advance_rest]
  exact ⟨rfl, rfl, rfl, rfl, rfl, rfl, rfl, rfl, rfl, rfl⟩

/-! ### Parking with a record (R232, R238, R241) -/

/-- The context `x` before it is parked with a record: no stop and no budget's end is left pending but the stop that was due (R390). -/
def Context.leaving (x y : Context) : Context := { y with budgetStop := false, dbgStep := false, stopReq := x.stopReq || x.dbgStep }

/-- The trap registers of a call of the supervisor (R232). -/
def Context.called (x : Context) (v tpc : Word) : Context := { x with tcause := 0, tval := v, tpc := tpc }

/-- What PARK, TRAP and SCALL make of the context before it is parked. -/
def Context.parting (x : Context) (v tpc : Word) (traps : Bool) : Context := x.leaving (if traps then x.called v tpc else x)

theorem Context.parting_keeps (x : Context) (v tpc : Word) (b : Bool) :
    (x.parting v tpc b).st = x.st ∧ (x.parting v tpc b).slot = x.slot ∧ (x.parting v tpc b).budgetDue = x.budgetDue := by
  cases b <;> exact ⟨rfl, rfl, rfl⟩

/-- Parking with a record is parking from a state in which the executing context alone differs, and the push of the record. -/
theorem parkWithRecord_spec {s : State} (h : s.Parkable s.cur) (kind : Nat) (v tpc : Word) (b : Bool) : ∃ t : State, t.Parkable s.cur ∧
    (∀ q, t.ctxOf q = if q = s.cur then s.me.parting v tpc b else s.ctxOf q) ∧ t.cycle = s.cycle ∧
    (t.core s.cur.core).sq = (s.core s.cur.core).sq ∧ (t.core s.cur.core).heldSq = (s.core s.cur.core).heldSq ∧
    parkWithRecord s kind v tpc b = pushSq (parkCtx t s.cur) s.cur.core (.thread s.cur.ctx)
      ⟨sqWord0 0 kind s.cur.ctx 0 false true (threadId s.cur.core s.me.slot), tpc, v, 0⟩ := by
  cases b with
  | false =>
    refine ⟨s.setMe (s.me.leaving s.me), h.setMe h.bound rfl rfl, fun q => State.ctxOf_setMe s _ q, rfl, ?_, ?_, rfl⟩ <;>
      rw [State.setMe, State.core_setCtx, if_pos rfl] <;> rfl
  | true =>
    have h1 : ((s.traceMe 1 0).setMe (s.me.called v tpc)).Parkable s.cur := by
      rw [State.setMe, State.traceMe_cur]
      exact (h.traceMe 1 0).setCtx h.bound (by rw [State.traceMe_ctxOf]; rfl) (by rw [State.traceMe_ctxOf]; rfl)
    have hx : ((s.traceMe 1 0).setMe (s.me.called v tpc)).ctxOf s.cur = s.me.called v tpc := by
      rw [State.ctxOf_setMe, State.traceMe_cur, if_pos rfl]
    refine ⟨((s.traceMe 1 0).setMe (s.me.called v tpc)).setMe (s.me.leaving (s.me.called v tpc)), ?_, fun q => ?_, State.traceMe_cycle .., ?_, ?_, ?_⟩
    · rw [State.setMe, State.setMe_cur, State.traceMe_cur]
      exact h1.setCtx h.bound (by rw [hx]; rfl) (by rw [hx]; rfl)
    · simp only [State.ctxOf_setMe, State.setMe_cur, State.traceMe_cur, State.traceMe_ctxOf]
      split <;> rfl
    · simp only [State.setMe, State.setCtx_cur, State.traceMe_cur, State.core_setCtx, if_true]
      exact State.traceMe_sq ..
    · simp only [State.setMe, State.setCtx_cur, State.traceMe_cur, State.core_setCtx, if_true]
      exact State.traceMe_heldSq ..
    · simp only [parkWithRecord, if_true, State.traceMe_me, State.traceMe_cur, State.setMe_cur, State.me_setMe]
      rfl

theorem parkWithRecord_ctxOf {s : State} (h : s.Parkable s.cur) (kind : Nat) (v tpc : Word) (b : Bool) (q : ThreadRef) :
    (parkWithRecord s kind v tpc b).ctxOf q = if q = s.cur then (s.me.parting v tpc b).parked s.cycle else s.ctxOf q := by
  obtain ⟨t, hp, hq, hc, -, -, he⟩ := parkWithRecord_spec h kind v tpc b
  rw [he, parkPush_ctxOf hp, hq, if_pos rfl, hc]
  split
  · rfl
  · rename_i hne; rw [hq, if_neg hne]

theorem parkWithRecord_sq {s : State} (h : s.Parkable s.cur) (hroom : (s.core s.cur.core).SqRoom) (kind : Nat) (v tpc : Word) (b : Bool) :
    ((parkWithRecord s kind v tpc b).core s.cur.core).sq = (s.core s.cur.core).sq ++
      [⟨sqWord0 0 kind s.cur.ctx 0 false true (threadId s.cur.core s.me.slot), tpc, v, 0⟩] := by
  obtain ⟨t, hp, -, -, h1, h2, he⟩ := parkWithRecord_spec h kind v tpc b
  rw [he, parkPush_sq hp (by rw [Core.SqRoom, h1, h2]; exact hroom), h1]

/-- The same of a thread that retires first. -/
theorem parkRetired_ctxOf {s : State} (h : s.Parkable s.cur) (kind : Nat) (v tpc : Word) (b : Bool) (q : ThreadRef) :
    (parkWithRecord (s.setMe (advance s.me)) kind v tpc b).ctxOf q =
      if q = s.cur then ((advance s.me).parting v tpc b).parked s.cycle else s.ctxOf q := by
  have hk := advance_keeps s.me
  rw [parkWithRecord_ctxOf (h.setMe (hk.1.trans h.bound) hk.2.1 hk.2.2.1), State.me_setMe, State.ctxOf_setMe]
  by_cases hq : q = s.cur
  · rw [State.setMe_cur, if_pos hq, if_pos hq]; rfl
  · rw [State.setMe_cur, if_neg hq, if_neg hq, if_neg hq]

/-- The registers of a thread that has retired and is parked with a record: a stop that was due stays pending (R390). -/
theorem parkRetired_regs (x : Context) (v tpc : Word) (now : Nat) :
    (((advance x).parting v tpc true).parked now).regs = Context.regs { advance x with
      tcause := 0, tval := v, tpc := tpc, st := .parked, parkedAt := now, parkReq := false, chain := {}, answer := none, dbgStep := false,
      stopReq := x.stopReq || x.dbgStep, budgetStop := false, budgetParked := false, budgetDue := false } ∧
    (((advance x).parting v tpc false).parked now).regs = Context.regs { advance x with
      st := .parked, parkedAt := now, parkReq := false, chain := {}, answer := none, dbgStep := false,
      stopReq := x.stopReq || x.dbgStep, budgetStop := false, budgetParked := false, budgetDue := false } := by
  obtain ⟨-, -, -, hstop, hdbg, -⟩ := advance_keeps x
  simp [Context.parked, Context.parting, Context.leaving, Context.called, Context.regs, hstop, hdbg]

theorem parkRetired_sq {s : State} (h : s.Parkable s.cur) (hroom : (s.core s.cur.core).SqRoom) (kind : Nat) (v tpc : Word) (b : Bool) :
    ((parkWithRecord (s.setMe (advance s.me)) kind v tpc b).core s.cur.core).sq = (s.core s.cur.core).sq ++
      [⟨sqWord0 0 kind s.cur.ctx 0 false true (threadId s.cur.core s.me.slot), tpc, v, 0⟩] := by
  have hk := advance_keeps s.me
  have hc : (s.setMe (advance s.me)).core s.cur.core = (s.core s.cur.core).setCtx s.cur.ctx (advance s.me) := by
    rw [State.setMe, State.core_setCtx, if_pos rfl]
  have hm := parkWithRecord_sq (h.setMe (hk.1.trans h.bound) hk.2.1 hk.2.2.1 : (s.setMe (advance s.me)).Parkable (s.setMe (advance s.me)).cur)
    (by rw [State.setMe_cur, hc]; exact hroom) kind v tpc b
  rw [State.setMe_cur, State.me_setMe, hc, hk.2.1] at hm
  exact hm

/-! ### MCALL and ERET (R239) -/

theorem leaveMonitor_eq (s : State) : leaveMonitor s = s.setMe { s.me with
    level := if s.me.prior = 1 then Level.s else if s.me.prior = 2 then Level.m else Level.u, prior := 0, pc := (s.core s.cur.core).mresume, chain := {} } := rfl

/-- The boundary after ERET is calm when the thread was. -/
theorem leaveMonitor_calm {s : State} (h : s.Calm) : (leaveMonitor s).Calm := by
  obtain ⟨h1, h2, h3, h4, h5, h6⟩ := h
  constructor <;> rw [leaveMonitor_eq, State.me_setMe] <;> assumption

theorem enterMonitor_me (s : State) (a b c : Word) : (enterMonitor s a b c).me =
    { s.me with prior := 1, level := .m, pc := (s.core s.cur.core).mentry, chain := {}, wait := 0, pend := .none } := by
  rw [State.me, enterMonitor_cur, enterMonitor_ctxOf, if_pos rfl]

theorem enterMonitor_calm {s : State} (h : s.Calm) (a b c : Word) : (enterMonitor s a b c).Calm := by
  obtain ⟨h1, h2, h3, h4, h5, h6⟩ := h
  constructor <;> rw [enterMonitor_me] <;> assumption

theorem mcall_enters {s : State} (h : s.me.level = .s) : exec .mcall s = .next (boundary (enterMonitor s s.me.nextPc 0x100 0)) := by
  show execMcall s = _
  rw [execMcall, h]

theorem eret_leaves {s : State} (h : s.me.level = .m) (h1 : (s.core s.cur.core).mresume.toNat / 2 ^ 56 = 0)
    (h2 : (s.core s.cur.core).mresume.toNat % 4 = 0) : exec .eret s = .next (boundary (leaveMonitor s)) := by
  have ht : targetFault s.myCore.mresume = none := targetFault_of_aligned h1 h2
  show execEret s = _
  rw [execEret, atLeast, if_neg (by rw [h]; decide)]
  simp only [ht]

theorem eret_traps {s : State} (h : s.me.level = .m) {c : Nat} (ht : targetFault (s.core s.cur.core).mresume = some c) :
    Traps s .eret c (s.core s.cur.core).mresume := by
  have ht : targetFault s.myCore.mresume = some c := ht
  show execEret s = _
  rw [execEret, atLeast, if_neg (by rw [h]; decide)]
  simp only [ht]
  rfl

/-! ### The obligation -/

theorem callSupervisor_user {s : State} (h : s.me.level = .u) (kind : Nat) (v : Word) :
    callSupervisor s kind v = parkWithRecord (s.setMe (advance s.me)) kind v (addr56 s.me.pc.toNat) true := by
  rw [callSupervisor, h]

theorem callSupervisor_refuses {s : State} (h : s.me.level ≠ .u) (kind : Nat) (v : Word) : callSupervisor s kind v = trap s 0x01 s.irWord := by
  unfold callSupervisor
  split
  · rename_i e; exact absurd e h
  · rfl

/-- What parking a retired thread with a record does: its registers, every other context, the record (R232, R238, R241). -/
theorem parkRetired_spec {s : State} (h : s.Parkable s.cur) (hroom : (s.core s.cur.core).SqRoom) {kind : Nat} (hk : kind < 16) (v tpc : Word) (b : Bool) :
    let t := parkWithRecord (s.setMe (advance s.me)) kind v tpc b
    s.SameBytes t ∧ (t.ctxOf s.cur).regs = (((advance s.me).parting v tpc b).parked s.cycle).regs ∧ (∀ r, r ≠ s.cur → t.ctxOf r = s.ctxOf r) ∧
    (t.core s.cur.core).sq = (s.core s.cur.core).sq ++ [⟨BitVec.ofNat 64 (kind * 2 ^ 52 + s.cur.ctx % 32 * 2 ^ 47 + 2 ^ 32 +
      (s.cur.core % 256 * 16 + s.me.slot % 16) * 2 ^ 20), tpc, v, 0⟩] := by
  refine ⟨State.sameBytes_iff.mpr (parkWithRecord_bytes ..), ?_, fun r hr => ?_, ?_⟩
  · rw [parkRetired_ctxOf h, if_pos rfl]
  · rw [parkRetired_ctxOf h, if_neg hr]
  · rw [parkRetired_sq h hroom, sqWord0_thread hk, Nat.zero_mod, Nat.zero_mul, Nat.zero_add]

/-- A call of the supervisor parks its thread with its record. -/
theorem callSupervisor_records {s : State} {i : Instr} {kind : Nat} {v : Word} (he : exec i s = .next (callSupervisor s kind v)) (hl : s.me.level = .u)
    (hk : kind < 16) (h : s.Parkable s.cur) (hroom : (s.core s.cur.core).SqRoom) : ∃ t, exec i s = .next t ∧ s.SameBytes t ∧
      (t.ctxOf s.cur).regs = Context.regs { advance s.me with
        tcause := 0, tval := v, tpc := addr56 s.me.pc.toNat, st := .parked, parkedAt := s.cycle, parkReq := false, chain := {}, answer := none, dbgStep := false,
        stopReq := s.me.stopReq || s.me.dbgStep, budgetStop := false, budgetParked := false, budgetDue := false } ∧
      (∀ r, r ≠ s.cur → t.ctxOf r = s.ctxOf r) ∧
      (t.core s.cur.core).sq = (s.core s.cur.core).sq ++ [⟨BitVec.ofNat 64 (kind * 2 ^ 52 + s.cur.ctx % 32 * 2 ^ 47 + 2 ^ 32 +
        (s.cur.core % 256 * 16 + s.me.slot % 16) * 2 ^ 20), addr56 s.me.pc.toNat, v, 0⟩] := by
  obtain ⟨hb, hr, ho, hq⟩ := parkRetired_spec h hroom hk v (addr56 s.me.pc.toNat) true
  rw [callSupervisor_user hl] at he
  exact ⟨_, he, hb, hr.trans (parkRetired_regs s.me v _ _).1, ho, hq⟩

/-- The parked thread of a call of the supervisor, whatever its queue holds. -/
theorem callSupervisor_parks {s : State} {i : Instr} {kind : Nat} {v : Word} (he : exec i s = .next (callSupervisor s kind v)) (hl : s.me.level = .u)
    (hst : s.me.st = .bound) (hslot : s.me.slot < 15) :
    ∃ t, exec i s = .next t ∧ s.SameBytes t ∧ ((∀ p ∈ (s.core s.cur.core).ctxs, p.2.budgetDue = false) →
      (∀ w ∈ (s.core s.cur.core).resuming, w.slot ≠ s.me.slot) →
      t.me.st = .parked ∧ t.me.pc = (advance s.me).pc ∧ t.me.tcause = 0 ∧ t.me.tval = v) := by
  rw [callSupervisor_user hl] at he
  refine ⟨_, he, State.sameBytes_iff.mpr (parkWithRecord_bytes ..), fun hren hres => ?_⟩
  have hx := parkRetired_ctxOf ⟨hst, hslot, hres, hren⟩ kind v (addr56 s.me.pc.toNat) true s.cur
  rw [if_pos rfl] at hx
  rw [State.me, parkWithRecord_cur, State.setMe_cur, hx]
  exact ⟨rfl, rfl, rfl, rfl⟩

theorem Context.regs_step (x : Context) : x.regs.step = x.step := rfl

/-- PARK of itself parks the thread with its record; a single-step trap follows (R253). -/
theorem park_self_records {s : State} (h : s.Parkable s.cur) (hroom : (s.core s.cur.core).SqRoom) :
    ∃ t, exec (.park 0) s = .next (if s.me.step then takeTrap t 0x22 (addr56 (advance s.me).pc.toNat) 0 else t) ∧ s.SameBytes t ∧
      (t.ctxOf s.cur).regs = Context.regs { advance s.me with
        st := .parked, parkedAt := s.cycle, parkReq := false, chain := {}, answer := none, dbgStep := false,
        stopReq := s.me.stopReq || s.me.dbgStep, budgetStop := false, budgetParked := false, budgetDue := false } ∧
      (∀ r, r ≠ s.cur → t.ctxOf r = s.ctxOf r) ∧
      (t.core s.cur.core).sq = (s.core s.cur.core).sq ++ [⟨BitVec.ofNat 64 (4 * 2 ^ 52 + s.cur.ctx % 32 * 2 ^ 47 + 2 ^ 32 +
        (s.cur.core % 256 * 16 + s.me.slot % 16) * 2 ^ 20), addr56 (advance s.me).pc.toNat, 0, 0⟩] := by
  obtain ⟨hb, hr, ho, hq⟩ := parkRetired_spec h hroom (by decide : 4 < 16) 0 (addr56 (advance s.me).pc.toNat) false
  have hstep : (parkWithRecord (s.setMe (advance s.me)) 4 0 (addr56 (advance s.me).pc.toNat) false).me.step = s.me.step := by
    have hs : ((parkWithRecord (s.setMe (advance s.me)) 4 0 (addr56 (advance s.me).pc.toNat) false).ctxOf s.cur).step = (advance s.me).step := by
      have hs := congrArg Context.step hr
      rwa [Context.regs_step, Context.regs_step] at hs
    obtain ⟨-, -, -, -, -, hk, -⟩ := advance_keeps s.me
    rw [hk] at hs
    rw [← hs, State.me, parkWithRecord_cur, State.setMe_cur]
  refine ⟨_, ?_, hb, hr.trans (parkRetired_regs s.me 0 (addr56 (advance s.me).pc.toNat) _).2, ho, hq⟩
  have hslot : s.me.slot ≠ 15 := Nat.ne_of_lt h.slot
  show execPark 0 s = _
  rw [execPark, if_pos rfl, if_neg hslot]
  simp only [State.me_setMe, hstep]

/-- Settles O32: TRAP, SCALL and PARK of itself park with a record, MCALL enters the monitor and ERET leaves it. -/
theorem systemCallsTransfer : Obligations.SystemCallsTransfer := by
  unfold Obligations.SystemCallsTransfer
  refine ⟨fun s a => ?_, fun s a => ?_⟩ <;> dsimp only
  · refine ⟨fun hl hst hslot => ⟨?trap, ?scall, ?park⟩, fun hl => ⟨congrArg _ (callSupervisor_refuses hl 2 _), congrArg _ (callSupervisor_refuses hl 3 _)⟩,
      fun h => ?park15, fun h => ?mcallU, fun h => ?mcallM, fun h => ?mcall, fun h => ?eretLow, fun h => ⟨fun h1 => ?high, fun h1 h2 => ?misaligned, fun h1 h2 => ?eret⟩⟩
    case trap =>
      intro h1 h2 hres hren
      exact callSupervisor_records rfl hl (by decide) ⟨hst, hslot, hres, hren⟩ ⟨h1, h2⟩
    case scall =>
      intro h1 h2 hres hren
      exact callSupervisor_records rfl hl (by decide) ⟨hst, hslot, hres, hren⟩ ⟨h1, h2⟩
    case park =>
      intro h1 h2 hres hren
      exact park_self_records ⟨hst, hslot, hres, hren⟩ ⟨h1, h2⟩
    case park15 => exact congrArg _ ((if_pos rfl).trans (if_pos h))
    case mcallU =>
      show execMcall s = _
      rw [execMcall, h]
    case mcallM =>
      show execMcall s = _
      rw [execMcall, h]
    case mcall =>
      have hc := enterMonitor_core s s.me.nextPc 0x100 0 s.cur.core
      rw [if_pos rfl] at hc
      exact ⟨_, mcall_enters h, State.sameBytes_iff.mpr (enterMonitor_bytes ..), enterMonitor_me .., fun r hr => by rw [enterMonitor_ctxOf, if_neg hr],
        by rw [hc], by rw [hc], by rw [hc]⟩
    case eretLow => exact congrArg _ (if_pos (by revert h; cases s.me.level <;> decide))
    case high => exact eret_traps h (targetFault_of_high h1)
    case misaligned => exact eret_traps h (targetFault_of_misaligned h1 h2)
    case eret => exact ⟨_, eret_leaves h h1 h2, by rw [leaveMonitor_eq]; exact State.Only.setMe s _⟩
  · refine ⟨fun hl hst hslot => ⟨?trap2, ?scall2⟩, fun hl hst hcalm => ?mcall2, fun hl hst hcalm h1 h2 => ?eret2⟩
    case trap2 => exact callSupervisor_parks rfl hl hst hslot
    case scall2 => exact callSupervisor_parks rfl hl hst hslot
    case mcall2 =>
      refine ⟨enterMonitor s s.me.nextPc 0x100 0, (mcall_enters hl).trans (by rw [boundary_calm (enterMonitor_calm hcalm ..)]),
        State.sameBytes_iff.mpr (enterMonitor_bytes ..), ?_, ?_, ?_, ?_⟩
      · rw [enterMonitor_me]
      · rw [enterMonitor_me]
      · rw [enterMonitor_me]
      · rw [enterMonitor_core, if_pos rfl]
    case eret2 =>
      refine ⟨leaveMonitor s, (eret_leaves hl (by omega) h2).trans (by rw [boundary_calm (leaveMonitor_calm hcalm)]),
        State.sameBytes_iff.mpr (leaveMonitor_bytes s), ?_, ?_, ?_⟩ <;> rw [leaveMonitor_eq, State.me_setMe]

end Sys2Proof.Machine
end

section
/-! SUPPORT. RESUME, PARK of another context and PREEMPT (R240, R241, R339). -/

namespace Sys2Proof.Machine

/-! ### The points at which a context may be parked (R241) -/

theorem Context.waitKind_eq (x : Context) : x.waitKind = x.wait.toNat / 2 ^ 60 := by
  have := x.wait.isLt
  rw [Context.waitKind, bitsOf]
  omega

theorem atPoint_iff (x : Context) : atPoint x = true ↔ x.stopped = true ∨ ((x.wait.toNat / 2 ^ 60 = 0 ∨ x.pend = .none) ∧ x.chain.len = 0) ∨
    (x.pend ≠ .none ∧ 2 ≤ x.wait.toNat / 2 ^ 60 ∧ x.wait.toNat / 2 ^ 60 ≤ 7 ∧ (x.wait.toNat / 2 ^ 60 = 5 → x.pend = .message)) := by
  rw [← Context.waitKind_eq]
  unfold atPoint cutShort
  by_cases hs : x.stopped = true
  · simp [hs]
  · by_cases hw : x.waitKind = 0 ∨ x.pend = .none
    · have hn : ¬ (x.pend ≠ .none ∧ 2 ≤ x.waitKind ∧ x.waitKind ≤ 7 ∧ (x.waitKind = 5 → x.pend = .message)) := by
        rintro ⟨h1, h2, -⟩
        obtain h | h := hw
        · omega
        · exact h1 h
      simp only [hs, hw, hn, if_true, decide_eq_true_eq, true_and, or_false, false_or, Bool.false_eq_true, if_false]
    · have hn := hw
      rw [not_or] at hn
      simp [hs, hn.1, hn.2, imp_iff_not_or, and_assoc]

/-! ### A context parked, its slot still to be given away -/

/-- `r` is parked and the PARKs that waited for it have retired; its slot has not been given away yet (R86, R241). -/
def State.withdrawn (s : State) (r : ThreadRef) : State := endPark ((s.setCtx r ((s.ctxOf r).parked s.cycle)).cutWait r (s.ctxOf r).pend) r

theorem State.withdrawn_ctxOf (s : State) (r q : ThreadRef) : (s.withdrawn r).ctxOf q = if q = r then (s.ctxOf r).parked s.cycle else s.ctxOf q := by
  rw [State.withdrawn, endPark_ctxOf, State.cutWait_ctxOf, State.ctxOf_setCtx]

theorem State.withdrawn_core (s : State) (r : ThreadRef) (k : Nat) :
    { (s.withdrawn r).core k with ctxs := [], bwaiters := [], parking := [] } = { s.core k with ctxs := [], bwaiters := [], parking := [] } := by
  obtain ⟨l, hl⟩ := (s.setCtx r ((s.ctxOf r).parked s.cycle)).cutWait_core r (s.ctxOf r).pend k
  rw [State.withdrawn, endPark_core, hl, State.core_setCtx]
  split <;> rfl

@[simp] theorem State.withdrawn_cur (s : State) (r : ThreadRef) : (s.withdrawn r).cur = s.cur := by
  rw [State.withdrawn, endPark_cur, State.cutWait_cur]
  rfl

/-- The replies to the PARKs that waited are on their way. -/
theorem State.mem_withdrawn_agenda {s : State} {r : ThreadRef} {p : Nat × Nat} (h : p ∈ (s.core r.core).parking) (hp : p.1 = r.ctx) :
    .memoryReply r.core p.2 ∈ (s.withdrawn r).agenda := by
  obtain ⟨l, hl⟩ := (s.setCtx r ((s.ctxOf r).parked s.cycle)).cutWait_core r (s.ctxOf r).pend r.core
  rw [State.withdrawn, endPark_agenda, hl, State.core_setCtx, if_pos rfl]
  refine List.mem_append_right _ (List.mem_map.mpr ⟨p, List.mem_filter.mpr ⟨h, by simpa using hp⟩, rfl⟩)

/-- Parking a bound context of one of the slots 0 to 14 gives its slot away. -/
theorem parkCtx_vacates {s : State} {r : ThreadRef} (h1 : (s.ctxOf r).st = .bound) (h2 : (s.ctxOf r).slot < 15) :
    parkCtx s r = vacate (s.withdrawn r) r.core (s.ctxOf r).slot := if_pos ⟨h1, h2⟩

/-- A RESUME that waits for the slot binds its context (R240). -/
theorem vacate_resumes {s : State} {k slot : Nat} {w : Resuming} (h : (s.core k).resuming.find? (fun w => decide (w.slot = slot)) = some w)
    (hp : ((s.core k).ctx w.ctx).st = .parked) : vacate s k slot =
      bindHome ((s.setCore k { s.core k with resuming := (s.core k).resuming.filter (fun v => decide (v.slot ≠ slot)) }).post [.memoryReply k w.issuer]) ⟨k, w.ctx⟩ := by
  simp only [vacate, h]
  exact if_pos hp

/-- What a bound context is once its slot has been given to it (R240, R390). -/
def Context.homed (x : Context) : Context :=
  { x with
    st := .bound, wait := 0, pend := .none, chain := {}, budgetParked := false, budgetDue := false, parkReq := false, budgetStop := false
    stopped := x.stopped || x.stopReq, stopReq := false }

theorem bindHome_ctxOf (s : State) (r q : ThreadRef) : (bindHome s r).ctxOf q = if q = r then (s.ctxOf r).homed else s.ctxOf q := State.ctxOf_setCtx ..

/-- Leaving the rotation changes a context and a trace buffer. -/
theorem leave_core (s : State) (kind obj : Nat) (p : Pend) (k : Nat) :
    { (leave s kind obj p).core k with ctxs := [], trace := [] } = { s.core k with ctxs := [], trace := [] } := by
  have set (x : Context) : { (s.setMe x).core k with ctxs := [], trace := [] } = { s.core k with ctxs := [], trace := [] } := by
    rw [State.setMe, State.core_setCtx]
    split <;> rfl
  unfold leave
  split
  · exact set _
  · have h := congrArg (fun c : Core => { c with ctxs := [] }) (State.traceMe_core
      (s.setMe { s.me with wait := waitWord kind obj, pend := p, waitSince := s.cycle }) 8 (waitWord kind obj) k)
    exact h.trans (set _)

/-! ### Parking at a point (R241, R339) -/

/-- The context `x` with a park pending. -/
def Context.asked (x : Context) : Context := { x with parkReq := true }

theorem atPoint_asked (x : Context) : atPoint x.asked = atPoint x := rfl

theorem parkPoint_of_not_bound {s : State} {r : ThreadRef} (h : (s.ctxOf r).st ≠ .bound) : parkPoint s r = s := if_pos h

theorem parkPoint_parks {s : State} {r : ThreadRef} (h : (s.ctxOf r).st = .bound) (hp : atPoint (s.ctxOf r) = true) :
    parkPoint s r = parkCtx (s.setCtx r (s.ctxOf r).asked) r := (if_neg (not_not_intro h)).trans (if_pos hp)

theorem parkPoint_marks {s : State} {r : ThreadRef} (h : (s.ctxOf r).st = .bound) (hp : ¬ atPoint (s.ctxOf r) = true) :
    parkPoint s r = s.setCtx r (s.ctxOf r).asked := (if_neg (not_not_intro h)).trans (if_neg hp)

@[simp] theorem parkPoint_bytes (s : State) (r : ThreadRef) : (parkPoint s r).bytes = s.bytes := by
  unfold parkPoint
  dsimp only
  split
  · rfl
  · split <;> simp

@[simp] theorem parkPoint_cur (s : State) (r : ThreadRef) : (parkPoint s r).cur = s.cur := by
  unfold parkPoint
  dsimp only
  split
  · rfl
  · split <;> simp

/-- A context that is marked to be parked, and is parked at once. -/
theorem parkAsked_ctxOf {s : State} {r : ThreadRef} (h : s.Parkable r) (q : ThreadRef) :
    (parkCtx (s.setCtx r (s.ctxOf r).asked) r).ctxOf q = if q = r then (s.ctxOf r).asked.parked s.cycle else s.ctxOf q := by
  have hp : (s.setCtx r (s.ctxOf r).asked).Parkable r := h.setCtx h.bound rfl rfl
  rw [parkCtx_ctxOf hp.bound hp.slot hp.unclaimed, State.ctxOf_setCtx_same, State.ctxOf_setCtx]
  split <;> rfl

theorem parkAsked_sq {s : State} {r : ThreadRef} (h : s.Parkable r) (k : Nat) :
    ((parkCtx (s.setCtx r (s.ctxOf r).asked) r).core k).sq = (s.core k).sq := by
  have hp : (s.setCtx r (s.ctxOf r).asked).Parkable r := h.setCtx h.bound rfl rfl
  rw [show ((parkCtx (s.setCtx r (s.ctxOf r).asked) r).core k).sq = ((s.setCtx r (s.ctxOf r).asked).core k).sq from
    (congrArg Core.sq (parkCtx_core hp.bound hp.slot hp.unclaimed k) :), State.core_setCtx]
  split <;> rfl

/-! ### RESUME (R240) -/

/-- The state in which a RESUME of `r` waits for its slot. -/
def State.resumeWaits (s : State) (slot : Nat) (r : ThreadRef) : State :=
  leave (s.setMyCore { s.myCore with resuming := s.myCore.resuming ++ [⟨slot, r.ctx, s.cur.ctx⟩] }) 1 r.ctx .reply

theorem State.setMyCore_ctxOf {s : State} {c : Core} (h : c.ctxs = s.myCore.ctxs) (q : ThreadRef) : (s.setMyCore c).ctxOf q = s.ctxOf q :=
  State.ctxOf_setCore_of_ctxs h q

theorem State.resumeWaits_cur (s : State) (slot : Nat) (r : ThreadRef) : (s.resumeWaits slot r).cur = s.cur := leave_cur ..

theorem State.resumeWaits_ctxOf (s : State) (slot : Nat) (r q : ThreadRef) : (s.resumeWaits slot r).ctxOf q =
    if q = s.cur then s.me.left (waitWord 1 r.ctx) .reply s.cycle else s.ctxOf q := by
  have h := State.setMyCore_ctxOf (s := s) (c := { s.myCore with resuming := s.myCore.resuming ++ [⟨slot, r.ctx, s.cur.ctx⟩] }) rfl
  rw [State.resumeWaits, leave_ctxOf, State.me, h, h]
  rfl

theorem State.resumeWaits_resuming (s : State) (slot : Nat) (r : ThreadRef) :
    ((s.resumeWaits slot r).core s.cur.core).resuming = (s.core s.cur.core).resuming ++ [⟨slot, r.ctx, s.cur.ctx⟩] := by
  have h := leave_core (s.setMyCore { s.myCore with resuming := s.myCore.resuming ++ [⟨slot, r.ctx, s.cur.ctx⟩] }) 1 r.ctx .reply s.cur.core
  have h2 := (congrArg Core.resuming h :)
  rw [State.setMyCore, State.core_setCore_same] at h2
  exact h2

theorem State.resumeWaits_bytes (s : State) (slot : Nat) (r : ThreadRef) : (s.resumeWaits slot r).bytes = s.bytes := leave_sameBytes ..

/-- The context at the slot is parked at once, and the one to resume takes the slot. -/
theorem parkCtx_resumes {s : State} {k i slot : Nat} {w : Resuming} (h1 : (s.ctxOf ⟨k, i⟩).st = .bound) (h2 : (s.ctxOf ⟨k, i⟩).slot = slot) (h3 : slot < 15)
    (hw : (s.core k).resuming = [w]) (hws : w.slot = slot) (hwp : (s.ctxOf ⟨k, w.ctx⟩).st = .parked) :
    (∀ q, (parkCtx s ⟨k, i⟩).ctxOf q = if q = ⟨k, w.ctx⟩ then (s.ctxOf ⟨k, w.ctx⟩).homed else if q = ⟨k, i⟩ then (s.ctxOf ⟨k, i⟩).parked s.cycle else s.ctxOf q) ∧
    .memoryReply k w.issuer ∈ (parkCtx s ⟨k, i⟩).agenda := by
  have hne : (⟨k, w.ctx⟩ : ThreadRef) ≠ ⟨k, i⟩ := by
    intro e
    rw [e, h1] at hwp
    exact CtxState.noConfusion hwp
  have hres : ((s.withdrawn ⟨k, i⟩).core k).resuming = [w] := (congrArg Core.resuming (s.withdrawn_core ⟨k, i⟩ k) :).trans hw
  have hfind : ((s.withdrawn ⟨k, i⟩).core k).resuming.find? (fun w => decide (w.slot = slot)) = some w := by simp [hres, hws]
  have hpark : (((s.withdrawn ⟨k, i⟩).core k).ctx w.ctx).st = .parked := by
    have := s.withdrawn_ctxOf ⟨k, i⟩ ⟨k, w.ctx⟩
    rw [if_neg hne] at this
    exact (congrArg Context.st this :).trans hwp
  have he := parkCtx_vacates h1 (by omega)
  rw [h2, vacate_resumes hfind hpark] at he
  have hset (q : ThreadRef) := State.ctxOf_setCore_of_ctxs (s := s.withdrawn ⟨k, i⟩) (k := k)
    (c := { (s.withdrawn ⟨k, i⟩).core k with resuming := ((s.withdrawn ⟨k, i⟩).core k).resuming.filter (fun v => decide (v.slot ≠ slot)) }) rfl q
  rw [he]
  refine ⟨fun q => ?_, List.mem_append_right _ (List.mem_singleton.mpr rfl)⟩
  rw [bindHome_ctxOf, State.ctxOf_post, State.ctxOf_post, hset, hset, State.withdrawn_ctxOf, State.withdrawn_ctxOf, if_neg hne]

/-! ### The obligation -/

/-- An instruction reserved to level S or above runs there. -/
theorem atLeast_supervisor {s : State} (h : s.me.level ≠ .u) (f : State → State) : atLeast .s s f = f s :=
  if_neg (by revert h; cases s.me.level <;> decide)

theorem atLeast_supervisor_user {s : State} (h : s.me.level = .u) (f : State → State) : atLeast .s s f = trap s 0x04 s.irWord :=
  if_pos (by rw [h]; decide)

theorem parkedArg_none {s : State} {v : Word} (h : 23 < v.toNat ∨ (s.ctxOf ⟨s.cur.core, v.toNat⟩).st ≠ .parked) : parkedArg s v = none := by
  unfold parkedArg
  dsimp only
  split
  · rfl
  · exact if_neg (h.resolve_left ‹_›)

theorem parkedArg_some {s : State} {v : Word} (h : v.toNat ≤ 23) (hp : (s.ctxOf ⟨s.cur.core, v.toNat⟩).st = .parked) :
    parkedArg s v = some (⟨s.cur.core, v.toNat⟩, s.ctxOf ⟨s.cur.core, v.toNat⟩) := (if_neg (by omega)).trans (if_pos hp)

/-- RESUME of a context that can be resumed (R240). -/
theorem resume_eq {s : State} {a : BitVec 5} (hl : s.me.level ≠ .u) (hv : (s.S a).toNat ≤ 23)
    (hp : (s.ctxOf ⟨s.cur.core, (s.S a).toNat⟩).st = .parked) (h15 : (s.ctxOf ⟨s.cur.core, (s.S a).toNat⟩).slot ≠ 15) :
    exec (.resume a) s = .next (match targetFault (s.ctxOf ⟨s.cur.core, (s.S a).toNat⟩).pc with
      | some c => trap s c (s.ctxOf ⟨s.cur.core, (s.S a).toNat⟩).pc
      | none => match s.myCore.boundTo (s.ctxOf ⟨s.cur.core, (s.S a).toNat⟩).slot with
        | none => retire (bindHome s ⟨s.cur.core, (s.S a).toNat⟩)
        | some i => parkPoint (s.resumeWaits (s.ctxOf ⟨s.cur.core, (s.S a).toNat⟩).slot ⟨s.cur.core, (s.S a).toNat⟩) ⟨s.cur.core, i⟩) := by
  show execResume a s = _
  rw [execResume, atLeast_supervisor hl, parkedArg_some hv hp]
  simp only [h15, if_false]
  rfl

/-- PARK of a context of the core (R241). -/
theorem park_eq {s : State} {a : BitVec 5} (ha : a ≠ 0) (hl : s.me.level ≠ .u) : exec (.park a) s = .next (
    if (s.S a).toNat > 23 ∨ (s.ctxOf ⟨s.cur.core, (s.S a).toNat⟩).st = .free then trap s 0x01 (s.S a)
    else if (⟨s.cur.core, (s.S a).toNat⟩ : ThreadRef) = s.cur then retire (s.setMe { s.me with parkReq := true })
    else
      let r : ThreadRef := ⟨s.cur.core, (s.S a).toNat⟩
      let t := parkPoint s r
      if (t.ctxOf r).st = .bound then
        leave (t.setMyCore { t.myCore with parking := t.myCore.parking ++ [(r.ctx, t.cur.ctx)] }) 1 r.ctx .reply
      else retire (t.setClk t.cur (max (t.clkOf t.cur) (t.clkOf r)))) := by
  show execPark a s = _
  rw [execPark, if_neg ha, atLeast_supervisor hl]

theorem preempt_eq {s : State} {k i : Nat} (hk : k < 256) (hi : i < 24) : exec (.preempt k i) s = .next (
    if (s.ctxOf ⟨k, i⟩).st = .bound ∧ (s.ctxOf ⟨k, i⟩).parkDue = true ∧ atPoint (s.ctxOf ⟨k, i⟩) = true then parkCtx s ⟨k, i⟩ else s) := by
  show execPreempt k i s = _
  rw [execPreempt, if_neg (by simp [ctxExists, hk, hi])]

/-- Retiring leaves every other context. -/
theorem retire_spec (s : State) : ∃ u, retire s = boundary u ∧ u.bytes = s.bytes ∧ u.me = advance s.me ∧ u.cur = s.cur ∧
    (∀ q, q ≠ s.cur → u.ctxOf q = s.ctxOf q) ∧ ∀ k, { u.core k with ctxs := [] } = { s.core k with ctxs := [] } := by
  obtain ⟨u, hu, hr⟩ := retire_only s
  exact ⟨u, hr, hu.sameBytes.bytes_eq, hu.me, hu.cur, fun q hq => by rw [hu.ctx, if_neg hq], hu.core⟩

theorem asked_parked_regs (x : Context) (now : Nat) : (x.asked.parked now).regs =
    Context.regs { x with
      st := .parked, parkedAt := now, parkReq := false, chain := {}, answer := none, budgetStop := false, budgetParked := false, budgetDue := false } := by
  simp [Context.asked, Context.parked, Context.regs]

theorem parked_regs (x : Context) (now : Nat) : (x.parked now).regs =
    Context.regs { x with
      st := .parked, parkedAt := now, parkReq := false, chain := {}, answer := none, budgetStop := false,
      budgetParked := x.budgetStop && !x.parkReq, budgetDue := false } := rfl

/-- PARK of another context that stands at a point parks it and retires. -/
theorem park_parks {s : State} {a : BitVec 5} {r : ThreadRef} (hr : r = ⟨s.cur.core, (s.S a).toNat⟩) (ha : a ≠ 0) (hl : s.me.level ≠ .u)
    (hv : (s.S a).toNat ≤ 23) (hp : s.Parkable r) (hne : r ≠ s.cur) (hpt : atPoint (s.ctxOf r) = true) :
    ∃ u, exec (.park a) s = .next (boundary u) ∧ s.SameBytes u ∧ u.me = advance s.me ∧ (u.core s.cur.core).sq = (s.core s.cur.core).sq ∧
      (∀ q, q ≠ r → q ≠ s.cur → u.ctxOf q = s.ctxOf q) ∧
      (u.ctxOf r).regs = Context.regs { s.ctxOf r with
        st := .parked, parkedAt := s.cycle, parkReq := false, chain := {}, answer := none, budgetStop := false, budgetParked := false, budgetDue := false } := by
  have he := park_eq ha hl
  rw [← hr, if_neg (by rw [hp.bound]; simp; omega), if_neg hne] at he
  dsimp only at he
  rw [parkPoint_parks hp.bound hpt] at he
  obtain ⟨t, ht⟩ : ∃ t, t = parkCtx (s.setCtx r (s.ctxOf r).asked) r := ⟨_, rfl⟩
  have hctx (q : ThreadRef) : t.ctxOf q = if q = r then (s.ctxOf r).asked.parked s.cycle else s.ctxOf q := by rw [ht, parkAsked_ctxOf hp]
  have hsq : (t.core s.cur.core).sq = (s.core s.cur.core).sq := by rw [ht, parkAsked_sq hp]
  have hcur : t.cur = s.cur := by rw [ht, parkCtx_cur]; rfl
  have hbytes : t.bytes = s.bytes := by rw [ht, parkCtx_bytes]; rfl
  have hst : (t.ctxOf r).st ≠ .bound := by
    rw [hctx, if_pos rfl]
    exact fun h => CtxState.noConfusion h
  rw [← ht, if_neg hst] at he
  obtain ⟨u, hu, hb, hme, -, ho, hc⟩ := retire_spec (t.setClk t.cur (max (t.clkOf t.cur) (t.clkOf r)))
  rw [hu] at he
  rw [State.setClk_cur, hcur] at ho
  refine ⟨u, he, State.sameBytes_iff.mpr (hb.trans hbytes), ?_, ?_, fun q hq hqc => ?_, ?_⟩
  · rw [hme, State.me_setClk, State.me, hcur, hctx, if_neg hne.symm, State.me]
  · exact (congrArg Core.sq (hc s.cur.core) :).trans hsq
  · rw [ho q hqc, State.ctxOf_setClk, hctx, if_neg hq]
  · rw [ho r hne, State.ctxOf_setClk, hctx, if_pos rfl, asked_parked_regs]

/-- PARK of another context that is not at a point marks it and waits. -/
theorem park_marks {s : State} {a : BitVec 5} {r : ThreadRef} (hr : r = ⟨s.cur.core, (s.S a).toNat⟩) (ha : a ≠ 0) (hl : s.me.level ≠ .u)
    (hv : (s.S a).toNat ≤ 23) (hb : (s.ctxOf r).st = .bound) (hne : r ≠ s.cur) (hpt : ¬ atPoint (s.ctxOf r) = true) :
    ∃ u, exec (.park a) s = .next u ∧ s.SameBytes u ∧ s.Waits u 1 (s.S a).toNat .reply ∧ u.me.regs = s.me.regs ∧
      (u.core s.cur.core).sq = (s.core s.cur.core).sq ∧ (∀ q, q ≠ r → q ≠ s.cur → u.ctxOf q = s.ctxOf q) ∧
      u.ctxOf r = { s.ctxOf r with parkReq := true } ∧ (r.ctx, s.cur.ctx) ∈ (u.core s.cur.core).parking := by
  have he := park_eq ha hl
  rw [← hr, if_neg (by rw [hb]; simp; omega), if_neg hne] at he
  dsimp only at he
  rw [parkPoint_marks hb hpt] at he
  obtain ⟨t, ht⟩ : ∃ t, t = s.setCtx r (s.ctxOf r).asked := ⟨_, rfl⟩
  have hctx (q : ThreadRef) : t.ctxOf q = if q = r then (s.ctxOf r).asked else s.ctxOf q := by rw [ht, State.ctxOf_setCtx]
  have hcur : t.cur = s.cur := by rw [ht]; rfl
  have hcore : { t.core s.cur.core with ctxs := [] } = { s.core s.cur.core with ctxs := [] } := by
    rw [ht, State.core_setCtx]
    split <;> rfl
  have hbytes : t.bytes = s.bytes := by rw [ht]; rfl
  have hst : (t.ctxOf r).st = .bound := by rw [hctx, if_pos rfl]; exact hb
  rw [← ht, if_pos hst] at he
  obtain ⟨v, hvd⟩ : ∃ v, v = t.setMyCore { t.myCore with parking := t.myCore.parking ++ [(r.ctx, t.cur.ctx)] } := ⟨_, rfl⟩
  have hvctx (q : ThreadRef) : v.ctxOf q = t.ctxOf q := by
    rw [hvd]
    exact State.setMyCore_ctxOf (s := t) (c := { t.myCore with parking := t.myCore.parking ++ [(r.ctx, t.cur.ctx)] }) rfl q
  have hvcur : v.cur = s.cur := by rw [hvd]; exact hcur
  have hvcore : v.core s.cur.core = { t.core s.cur.core with parking := (t.core s.cur.core).parking ++ [(r.ctx, s.cur.ctx)] } := by
    rw [hvd, State.setMyCore, State.myCore, hcur, State.core_setCore_same]
  have hvme : v.me = s.me := by rw [State.me, hvcur, hvctx, hctx, if_neg hne.symm, State.me]
  rw [← hvd] at he
  have hw := leave_waits v 1 r.ctx .reply
  have hl := leave_ctxOf v 1 r.ctx .reply
  rw [hvcur, hvme] at hl
  have hlc := leave_core v 1 r.ctx .reply s.cur.core
  rw [hvcore] at hlc
  refine ⟨_, he, State.sameBytes_iff.mpr ?_, ?_, ?_, ?_, fun q hq hqc => ?_, ?_, ?_⟩
  · rw [leave_sameBytes, hvd]; exact hbytes
  · obtain ⟨hw1, hw2⟩ := hw
    rw [hvcur] at hw1 hw2
    exact ⟨by rw [hw1, hr], hw2⟩
  · rw [State.me, leave_cur, hvcur, hl, if_pos rfl, Context.left_regs]
  · exact (congrArg Core.sq hlc :).trans (congrArg Core.sq hcore :)
  · rw [hl, if_neg hqc, hvctx, hctx, if_neg hq]
  · rw [hl, if_neg hne, hvctx, hctx, if_pos rfl]; rfl
  · rw [show ((leave v 1 r.ctx .reply).core s.cur.core).parking = (t.core s.cur.core).parking ++ [(r.ctx, s.cur.ctx)] from (congrArg Core.parking hlc :)]
    exact List.mem_append_right _ (List.mem_singleton.mpr rfl)

/-- RESUME of a context whose slot another context holds: it waits, and that context is parked at a point, or marked. -/
theorem resumeWaits_spec {s : State} {r : ThreadRef} {i : Nat} (hk : r.core = s.cur.core) (hb : s.me.st = .bound) (hp : (s.ctxOf r).st = .parked)
    (hn : s.me.slot ≠ (s.ctxOf r).slot) (hlt : (s.ctxOf r).slot < 15) (hib : (s.ctxOf ⟨s.cur.core, i⟩).st = .bound)
    (his : (s.ctxOf ⟨s.cur.core, i⟩).slot = (s.ctxOf r).slot) (hres : (s.core s.cur.core).resuming = []) :
    let u := parkPoint (s.resumeWaits (s.ctxOf r).slot r) ⟨s.cur.core, i⟩
    s.SameBytes u ∧ u.me.regs = s.me.regs ∧ s.Waits u 1 r.ctx .reply ∧
      (atPoint (s.ctxOf ⟨s.cur.core, i⟩) = true → (u.ctxOf ⟨s.cur.core, i⟩).st = .parked ∧ (u.ctxOf r).st = .bound ∧
        .memoryReply s.cur.core s.cur.ctx ∈ u.agenda) ∧
      (¬ atPoint (s.ctxOf ⟨s.cur.core, i⟩) = true → (u.ctxOf ⟨s.cur.core, i⟩).parkReq = true ∧ (u.ctxOf r).st = .parked ∧
        (u.core s.cur.core).resuming = [⟨(s.ctxOf r).slot, r.ctx, s.cur.ctx⟩]) := by
  obtain ⟨t, ht⟩ : ∃ t, t = s.resumeWaits (s.ctxOf r).slot r := ⟨_, rfl⟩
  have hctx (q : ThreadRef) : t.ctxOf q = if q = s.cur then s.me.left (waitWord 1 r.ctx) .reply s.cycle else s.ctxOf q := by
    rw [ht, State.resumeWaits_ctxOf]
  have htres : (t.core s.cur.core).resuming = [⟨(s.ctxOf r).slot, r.ctx, s.cur.ctx⟩] := by rw [ht, State.resumeWaits_resuming, hres]; rfl
  have htb : t.bytes = s.bytes := by rw [ht, State.resumeWaits_bytes]
  have htc : t.cur = s.cur := by rw [ht, State.resumeWaits_cur]
  have hne : (⟨s.cur.core, i⟩ : ThreadRef) ≠ s.cur := by
    intro e
    rw [e] at his
    exact hn his
  have hrne : r ≠ s.cur := by
    rintro rfl
    exact CtxState.noConfusion (hp.symm.trans hb)
  have hrne2 : r ≠ ⟨s.cur.core, i⟩ := by
    rintro rfl
    exact CtxState.noConfusion (hp.symm.trans hib)
  have ho : t.ctxOf ⟨s.cur.core, i⟩ = s.ctxOf ⟨s.cur.core, i⟩ := by rw [hctx, if_neg hne]
  have htr : t.ctxOf r = s.ctxOf r := by rw [hctx, if_neg hrne]
  have hre : (⟨s.cur.core, r.ctx⟩ : ThreadRef) = r := by rw [← hk]
  rw [← ht]
  dsimp only
  -- whatever becomes of the other context, the issuer waits as it did
  have waits (u : State) (h : u.ctxOf s.cur = t.ctxOf s.cur) (hc : u.cur = s.cur) : u.me.regs = s.me.regs ∧ s.Waits u 1 r.ctx .reply := by
    rw [hctx, if_pos rfl] at h
    exact ⟨by rw [State.me, hc, h, Context.left_regs], by rw [h, Context.left_wait], by rw [h, Context.left_pend]⟩
  have hby : s.SameBytes (parkPoint t ⟨s.cur.core, i⟩) := State.sameBytes_iff.mpr (by rw [parkPoint_bytes, htb])
  have hcur : (parkPoint t ⟨s.cur.core, i⟩).cur = s.cur := by rw [parkPoint_cur, htc]
  by_cases hpt : atPoint (s.ctxOf ⟨s.cur.core, i⟩) = true
  · have he := parkPoint_parks (s := t) (r := ⟨s.cur.core, i⟩) (by rw [ho]; exact hib) (by rw [ho]; exact hpt)
    rw [ho] at he
    obtain ⟨v, hv⟩ : ∃ v, v = t.setCtx ⟨s.cur.core, i⟩ (s.ctxOf ⟨s.cur.core, i⟩).asked := ⟨_, rfl⟩
    have hvc (q : ThreadRef) : v.ctxOf q = if q = ⟨s.cur.core, i⟩ then (s.ctxOf ⟨s.cur.core, i⟩).asked else t.ctxOf q := by rw [hv, State.ctxOf_setCtx]
    have hvi : v.ctxOf ⟨s.cur.core, i⟩ = (s.ctxOf ⟨s.cur.core, i⟩).asked := by rw [hvc, if_pos rfl]
    have hvres : (v.core s.cur.core).resuming = [⟨(s.ctxOf r).slot, r.ctx, s.cur.ctx⟩] := by
      rw [hv, State.core_setCtx, if_pos rfl]; exact htres
    obtain ⟨hq, hm⟩ := parkCtx_resumes (s := v) (k := s.cur.core) (i := i) (by rw [hvi]; exact hib) (by rw [hvi]; exact his) hlt hvres rfl
      (by rw [hre, hvc, if_neg hrne2, htr]; exact hp)
    rw [← hv] at he
    rw [← he] at hq hm
    dsimp only at hq hm
    rw [hre] at hq
    obtain ⟨hw1, hw2⟩ := waits _ (by rw [hq, if_neg hrne.symm, if_neg hne.symm, hvc, if_neg hne.symm]) hcur
    refine ⟨hby, hw1, hw2, fun _ => ⟨?_, ?_, hm⟩, fun h => absurd hpt h⟩
    · rw [hq, if_neg hrne2.symm, if_pos rfl]; rfl
    · rw [hq, if_pos rfl]; rfl
  · have he := parkPoint_marks (s := t) (r := ⟨s.cur.core, i⟩) (by rw [ho]; exact hib) (by rw [ho]; exact hpt)
    have hq (q : ThreadRef) : (parkPoint t ⟨s.cur.core, i⟩).ctxOf q = if q = ⟨s.cur.core, i⟩ then (s.ctxOf ⟨s.cur.core, i⟩).asked else t.ctxOf q := by
      rw [he, State.ctxOf_setCtx, ho]
    obtain ⟨hw1, hw2⟩ := waits _ (by rw [hq, if_neg hne.symm]) hcur
    refine ⟨hby, hw1, hw2, fun h => absurd h hpt, fun _ => ⟨?_, ?_, ?_⟩⟩
    · rw [hq, if_pos rfl]; rfl
    · rw [hq, if_neg hrne2, htr]; exact hp
    · rw [he, State.core_setCtx, if_pos rfl]; exact htres

/-- Settles O33: RESUME and PARK are compositions of parking at a point, binding home and leaving the rotation. -/
theorem contextsParkAndResume : Obligations.ContextsParkAndResume := by
  unfold Obligations.ContextsParkAndResume
  refine ⟨fun s a => ?_, fun s k i hk hi => ?_⟩ <;> dsimp only
  · refine ⟨fun hl => ⟨congrArg Host.Outcome.next (atLeast_supervisor_user hl _), fun ha => ?parkUser⟩, fun hl h => ?resumeNone, fun hl ha h => ?parkNone,
      fun hl hv hp => ⟨fun ha hb => ?parkParked, fun h15 => ?resume15, fun h15 h1 => ?high, fun h15 h1 h2 => ?misaligned, fun h15 h1 h2 hb hs15 => ⟨fun hn => ?bindsHome,
        fun i hlt hi hib his hres => ?resumeWaits⟩⟩, fun hl ha hv hb hne hslot hres hren => ⟨fun hpt => ?parks, fun hpt => ?marks⟩,
      fun hl ha hv hb he => ?parkSelf⟩
    case parkUser =>
      show execPark a s = _
      rw [execPark, if_neg ha, atLeast_supervisor_user hl]
    case resumeNone =>
      show execResume a s = _
      rw [execResume, atLeast_supervisor hl, parkedArg_none h]
    case parkNone =>
      rw [Traps, park_eq ha hl, if_pos h]
    case parkParked =>
      have hne : (⟨s.cur.core, (s.S a).toNat⟩ : ThreadRef) ≠ s.cur := by
        intro e
        rw [e] at hp
        exact CtxState.noConfusion (hp.symm.trans hb)
      have hpp : parkPoint s ⟨s.cur.core, (s.S a).toNat⟩ = s := parkPoint_of_not_bound (by rw [hp]; decide)
      obtain ⟨u, hu, hr⟩ := retire_only (s.setClk s.cur (max (s.clkOf s.cur) (s.clkOf ⟨s.cur.core, (s.S a).toNat⟩)))
      refine ⟨_, u, hu, ?_⟩
      rw [park_eq ha hl, if_neg (by rw [hp]; simp; omega), if_neg hne]
      simp only [hpp, hp]
      exact congrArg Host.Outcome.next hr
    case resume15 =>
      show execResume a s = _
      rw [execResume, atLeast_supervisor hl, parkedArg_some hv hp]
      simp only [h15, if_true]
    case high => rw [Traps, resume_eq hl hv hp h15, targetFault_of_high h1]
    case misaligned => rw [Traps, resume_eq hl hv hp h15, targetFault_of_misaligned h1 h2]
    case bindsHome =>
      have hne : s.cur ≠ ⟨s.cur.core, (s.S a).toNat⟩ := by
        intro e
        rw [← e] at hp
        exact CtxState.noConfusion (hp.symm.trans hb)
      have hme : (bindHome s ⟨s.cur.core, (s.S a).toNat⟩).me = s.me := by
        rw [State.me, bindHome_cur, bindHome_ctxOf, if_neg hne, State.me]
      obtain ⟨u, hr, hbytes, hu, -, ho, -⟩ := retire_spec (bindHome s ⟨s.cur.core, (s.S a).toNat⟩)
      refine ⟨u, ?_, State.sameBytes_iff.mpr hbytes, fun q hq hqc => ?_, by rw [hu, hme], ?_⟩
      · rw [resume_eq hl hv hp h15, targetFault_of_aligned h1 h2, show s.myCore.boundTo _ = none from hn, hr]
      · rw [ho q hqc, bindHome_ctxOf, if_neg hq]
      · rw [ho _ hne.symm, bindHome_ctxOf, if_pos rfl]; rfl
    case resumeWaits =>
      have he := resume_eq hl hv hp h15
      rw [targetFault_of_aligned h1 h2, show s.myCore.boundTo _ = some i from hi] at he
      have hn : s.me.slot ≠ (s.ctxOf ⟨s.cur.core, (s.S a).toNat⟩).slot := by omega
      obtain ⟨hbytes, hregs, hwait, hpt, hmk⟩ := resumeWaits_spec (s := s) (i := i) (r := ⟨s.cur.core, (s.S a).toNat⟩) rfl hb hp hn hlt hib his hres
      exact ⟨_, he, hbytes, hregs, hwait, fun h => hpt ((atPoint_iff _).mpr h), fun h => hmk (by rwa [atPoint_iff])⟩
    case parks => exact park_parks rfl ha hl hv ⟨hb, hslot, by rw [hres]; simp, hren⟩ hne ((atPoint_iff _).mpr hpt)
    case marks => exact park_marks rfl ha hl hv hb hne (by rwa [atPoint_iff])
    case parkSelf =>
      rw [Completes, park_eq ha hl, if_neg (by rw [hb]; simp; omega), if_pos he]
      obtain ⟨u, hu, hr⟩ := retire_setMe s { s.me with parkReq := true }
      exact ⟨u, hu, congrArg Host.Outcome.next hr⟩
  · refine ⟨fun h => ?idle, fun hb hd hpt hslot hres hren => ?preempts⟩
    case idle =>
      rw [preempt_eq hk hi, if_neg]
      rintro ⟨hb, hd, hpt⟩
      rw [Context.parkDue_iff] at hd
      rw [atPoint_iff] at hpt
      obtain h | ⟨h1, h2⟩ | h := h
      · exact h hb
      · simp [h1, h2] at hd
      · exact h hpt
    case preempts =>
      have hp : s.Parkable ⟨k, i⟩ := ⟨hb, hslot, by rw [hres]; simp, hren⟩
      refine ⟨_, by rw [preempt_eq hk hi, if_pos ⟨hb, Context.parkDue_iff.mpr hd, (atPoint_iff _).mpr hpt⟩], State.sameBytes_iff.mpr (parkCtx_bytes ..), ?_,
        fun q hq => ?_, ?_, fun p hpp hpi => ?_⟩
      · exact (congrArg Core.sq (parkCtx_core hp.bound hp.slot hp.unclaimed k) :)
      · rw [parkCtx_ctxOf hp.bound hp.slot hp.unclaimed, if_neg hq]
      · rw [parkCtx_ctxOf hp.bound hp.slot hp.unclaimed, if_pos rfl, parked_regs]
      · rw [parkCtx_of_unclaimed hp.bound hp.slot hp.unclaimed]
        exact List.mem_append_left _ (List.mem_append_left _ (State.mem_withdrawn_agenda hpp hpi))

end Sys2Proof.Machine
end

section
/-! SUPPORT. NOP, the prefixes, and what retiring does to a context (R104, R111, R116 to R119). -/

namespace Sys2Proof.Machine

/-- The first prefix of its kind takes its turn and changes its context's chain alone. -/
theorem readPrefix_first (s : State) (c : Chain) : ∃ u, s.Only u { s.me with chain := { c with len := c.len + 1 } } ∧ readPrefix s false c = u :=
  ⟨_, State.Only.setMe s _, rfl⟩

/-- A prefix `i` that records `c` where none of its kind, `old`, stands in the chain, and is a misuse where one does. -/
theorem prefix_reads {α : Type} {s : State} {i : Instr} {old : Option α} {c : Chain} (hlen : c.len = s.me.chain.len)
    (he : exec i s = .next (readPrefix s old.isSome c)) :
    (old = none → ∃ u, s.Only u { s.me with chain := { c with len := s.me.chain.len + 1 } } ∧ exec i s = .next u) ∧
    (old ≠ none → Traps s i 0x05 s.irWord) := by
  constructor
  · rintro rfl
    obtain ⟨u, hu, hr⟩ := readPrefix_first s c
    exact ⟨u, hlen ▸ hu, he.trans (congrArg Host.Outcome.next hr)⟩
  · intro h
    rw [Option.isSome_iff_ne_none.mpr h] at he
    exact he

theorem advance_of_no_rep {x : Context} (h : x.chain.rep = none) :
    advance x = { x with wait := 0, pend := .none, pc := BitVec.ofNat 64 ((x.pc.toNat + 4 * x.chain.len + 4) % 2 ^ 56), chain := {} } := by
  simp only [advance, h]
  rfl

/-- Under REP the last repeat goes past the chain; any other stays at its first word. -/
theorem advance_of_rep {x : Context} {r : BitVec 6 × BitVec 4} (h : x.chain.rep = some r) :
    (x.rcnt = 1 → advance x =
      { x with wait := 0, pend := .none, pc := BitVec.ofNat 64 ((x.pc.toNat + 4 * x.chain.len + 4) % 2 ^ 56), chain := {}, rcnt := 0 }) ∧
    (x.rcnt ≠ 1 → advance x = { x with wait := 0, pend := .none, rcnt := x.rcnt - 1 }) := by
  have last : x.rcnt - 1 = 0 ↔ x.rcnt = 1 := by rw [sub_eq_zero]
  constructor <;> intro h1
  · simp only [advance, h, if_pos (last.mpr h1)]
    rfl
  · simp only [advance, h, if_neg (mt last.mp h1)]

/-- Settles O4: a prefix is read where it is the first of its kind, and retiring follows the repeat count. -/
theorem prefixesAndRetirement : Obligations.PrefixesAndRetirement := by
  unfold Obligations.PrefixesAndRetirement
  refine ⟨fun s p c f k h => ?_, fun x => ⟨advance_of_no_rep, fun r => advance_of_rep⟩⟩
  have himmx := prefix_reads (s := s) (i := .immx p) (old := s.me.chain.immx) (c := { s.me.chain with immx := some p }) rfl rfl
  have hrep := prefix_reads (s := s) (i := .rep c f) (old := s.me.chain.rep) (c := { s.me.chain with rep := some (c, f) }) rfl rfl
  have hhint := prefix_reads (s := s) (i := .hint k h) (old := s.me.chain.hint) (c := { s.me.chain with hint := some (k ++ h) }) rfl rfl
  exact ⟨retire_completes rfl, himmx.1, himmx.2, hrep.1, hrep.2, hhint.1, hhint.2⟩

end Sys2Proof.Machine
end

section
/-! SUPPORT. Path values, fields of descriptors and the descriptor instructions (R114, R128, R129, R39, R42, R90, R201, R202). -/

namespace Sys2Proof.Machine

/-! ### Fields of words (R90) -/

theorem bitsOf_eq {w : Nat} (x : BitVec w) (hi lo : Nat) : bitsOf x hi lo = x.toNat / 2 ^ lo % 2 ^ (hi + 1 - lo) := by
  rw [bitsOf, Nat.shiftRight_eq_div_pow]

theorem testBit_field {w : Nat} (x : BitVec w) (lo n i : Nat) : (x.toNat / 2 ^ lo % 2 ^ n).testBit i = (decide (i < n) && x.getLsbD (lo + i)) := by
  rw [Nat.testBit_mod_two_pow, Nat.testBit_div_two_pow, Nat.add_comm i lo]; rfl

/-- Setting bits [hi:lo] sets those bits and no other. -/
theorem getLsbD_setBits128 (b : BitVec 128) (hi lo v : Nat) {j : Nat} (hj : j < 128) :
    (setBits128 b hi lo v).getLsbD j = if lo ≤ j ∧ j ≤ hi then v.testBit (j - lo) else b.getLsbD j := by
  have hmask : (BitVec.ofNat 128 ((2 ^ (hi + 1 - lo) - 1) * 2 ^ lo)).getLsbD j = decide (lo ≤ j ∧ j ≤ hi) := by
    rw [BitVec.getLsbD_ofNat, Nat.testBit_mul_two_pow, Nat.testBit_two_pow_sub_one, decide_eq_true hj, Bool.true_and, ← Bool.decide_and]
    exact decide_eq_decide.mpr (by omega)
  have hval : (BitVec.ofNat 128 (v % 2 ^ (hi + 1 - lo) * 2 ^ lo)).getLsbD j = (decide (lo ≤ j ∧ j ≤ hi) && v.testBit (j - lo)) := by
    rw [BitVec.getLsbD_ofNat, Nat.testBit_mul_two_pow, Nat.testBit_mod_two_pow, decide_eq_true hj, Bool.true_and, ← Bool.and_assoc, ← Bool.decide_and]
    exact congrArg (· && _) (decide_eq_decide.mpr (by omega))
  rw [setBits128, BitVec.getLsbD_or, BitVec.getLsbD_and, BitVec.getLsbD_not, hmask, hval, decide_eq_true hj]
  by_cases h : lo ≤ j ∧ j ≤ hi <;> simp [h]

/-- A field reads what was set in it. -/
theorem field_setBits128_same (b : BitVec 128) {hi lo : Nat} (v : Nat) (h : hi < 128) :
    (setBits128 b hi lo v).toNat / 2 ^ lo % 2 ^ (hi + 1 - lo) = v % 2 ^ (hi + 1 - lo) := by
  refine Nat.eq_of_testBit_eq fun i => ?_
  rw [testBit_field, Nat.testBit_mod_two_pow]
  by_cases hi' : i < hi + 1 - lo
  · rw [getLsbD_setBits128 b hi lo v (by omega), if_pos (by omega), Nat.add_sub_cancel_left]
  · simp [hi']

/-- A field outside the bits that are set reads as before. -/
theorem field_setBits128_other (b : BitVec 128) {hi lo lo' n : Nat} (v : Nat) (hn : lo' + n ≤ 128) (h : lo' + n ≤ lo ∨ hi < lo') :
    (setBits128 b hi lo v).toNat / 2 ^ lo' % 2 ^ n = b.toNat / 2 ^ lo' % 2 ^ n := by
  refine Nat.eq_of_testBit_eq fun i => ?_
  rw [testBit_field, testBit_field]
  by_cases hi' : i < n
  · rw [getLsbD_setBits128 b hi lo v (by omega), if_neg (by omega)]
  · simp [hi']

/-! ### Path values (R114) -/

theorem pathOf_bad {v : Word} (h : PathBad v) : pathOf v = none := by
  have hv := v.isLt
  simp only [PathBad, pathCount, pathDigits] at h
  simp only [pathOf, bitsOf_eq]
  refine if_pos ?_
  obtain h | h | h := h
  · exact .inr (.inl (by simpa using h))
  · refine .inr (.inr ?_)
    have hpos : 0 < 4 ^ (v.toNat / 2 ^ 56 % 64) := by positivity
    have := Nat.pos_of_ne_zero h
    rw [Nat.div_pos_iff] at this
    simpa using this.2
  · refine .inl ?_
    omega

theorem pathOf_good {v : Word} (h : ¬ PathBad v) : pathOf v = some ⟨pathCount v, pathDigits v⟩ := by
  have hv := v.isLt
  simp only [PathBad, pathCount, pathDigits, not_or, not_not] at h
  obtain ⟨h1, h2, h3⟩ := h
  have hpos : 0 < 4 ^ (v.toNat / 2 ^ 56 % 64) := by positivity
  rw [Nat.div_eq_zero_iff_lt hpos] at h2
  simp only [pathOf, bitsOf_eq]
  rw [if_neg]
  · simp [pathCount, pathDigits]
  · rintro (h | h | h)
    · omega
    · exact h1 (by simpa using h)
    · exact absurd h2 (Nat.not_lt.mpr (by simpa using h))

theorem Path.value_eq (k p : Nat) : Path.value ⟨k, p⟩ = pathWord k p := rfl

theorem shiftRight_digits (p k : Nat) : p >>> (2 * k) = p / 4 ^ k := by
  rw [Nat.shiftRight_eq_div_pow, Nat.pow_mul]

/-! ### Sub-tiles (R202) -/

/-- The column that `k` digits name, weighed from the highest. -/
theorem colsOf_mul_eq_sum (k q n : Nat) (h : k ≤ n) :
    colsOf k q * 2 ^ (n - k) = ((List.range k).map (fun i => q / 4 ^ (k - 1 - i) % 2 * 2 ^ (n - 1 - i))).sum := by
  induction k generalizing q n with
  | zero => simp [colsOf]
  | succ k ih =>
    have hlast : (List.range k).map (fun i => q / 4 ^ (k + 1 - 1 - i) % 2 * 2 ^ (n - 1 - i)) =
        (List.range k).map (fun i => q / 4 / 4 ^ (k - 1 - i) % 2 * 2 ^ (n - 1 - i)) := by
      refine List.map_congr_left fun i hi => ?_
      have := List.mem_range.mp hi
      rw [Nat.div_div_eq_div_mul, ← Nat.pow_succ', show k + 1 - 1 - i = k - 1 - i + 1 by omega]
    have hpow : 2 ^ (n - k) = 2 * 2 ^ (n - (k + 1)) := by rw [← Nat.pow_succ']; congr 1; omega
    rw [List.range_succ, List.map_append, List.sum_append, hlast, ← ih (q / 4) n (by omega), hpow, colsOf]
    simp only [List.map_cons, List.map_nil, List.sum_cons, List.sum_nil, Nat.add_sub_cancel, Nat.sub_self, Nat.pow_zero, Nat.div_one, Nat.add_zero]
    rw [show n - 1 - k = n - (k + 1) by omega]
    ring

/-- The row that `k` digits name, weighed from the highest. -/
theorem rowsOf_mul_eq_sum (k q n : Nat) (h : k ≤ n) :
    rowsOf k q * 2 ^ (n - k) = ((List.range k).map (fun i => q / 4 ^ (k - 1 - i) % 4 / 2 * 2 ^ (n - 1 - i))).sum := by
  rw [rowsOf, colsOf_mul_eq_sum k (q / 2) n h]
  congr 1
  refine List.map_congr_left fun i _ => ?_
  rw [Nat.div_right_comm]
  have : q / 4 ^ (k - 1 - i) / 2 % 2 = q / 4 ^ (k - 1 - i) % 4 / 2 := by omega
  rw [this]

/-- A field of a descriptor (R90): `n` bits from bit `lo` on. -/
def descField (v : BitVec 128) (lo n : Nat) : Nat := v.toNat / 2 ^ lo % 2 ^ n

theorem Tile.ofBits_fields (b : BitVec 128) : (Tile.ofBits b).base = descField b 0 56 ∧ (Tile.ofBits b).order = descField b 56 4 ∧
    (Tile.ofBits b).fmt = descField b 60 8 ∧ (Tile.ofBits b).rows = descField b 68 11 ∧ (Tile.ofBits b).cols = descField b 79 11 := by
  simp only [Tile.ofBits, bitsOf_eq, descField, and_self]

/-- The path of a sub-tile fits its tile. -/
def SubFits (b : BitVec 128) (k : Nat) : Prop := (8 ≤ descField b 60 8 ∧ descField b 60 8 ≤ 15 → k + 2 ≤ descField b 56 4) ∧ k ≤ descField b 56 4

/-- The block height of a tile (R39). -/
def descHeight (b : BitVec 128) : Nat :=
  if 4 ≤ descField b 60 8 ∧ descField b 60 8 ≤ 6 then descField b 56 4 + 1
  else if 8 ≤ descField b 60 8 ∧ descField b 60 8 ≤ 15 then descField b 56 4 - 1 else descField b 56 4

theorem fclass_cb2 {c : Nat} : fclass c = .cb2 ↔ 8 ≤ c ∧ c ≤ 15 := by
  unfold fclass
  split
  · simp; omega
  · split
    · simp; omega
    · split
      · simpa
      · simp; omega

theorem fclass_b32 {c : Nat} : fclass c = .b32 ↔ 4 ≤ c ∧ c ≤ 6 := by
  unfold fclass
  split
  · simp; omega
  · split
    · simp; omega
    · split
      · simp; omega
      · simp; omega

theorem Tile.height_ofBits (b : BitVec 128) : (Tile.ofBits b).height = descHeight b := by
  obtain ⟨-, ho, hf, -, -⟩ := Tile.ofBits_fields b
  unfold Tile.height descHeight
  rw [ho, hf]
  split
  · rename_i h; rw [if_pos (fclass_b32.mp h)]
  · rename_i h
    have := fclass_cb2.mp h
    rw [if_neg (by omega), if_pos this]
  · rename_i h1 h2
    rw [if_neg (fun h => h1 (fclass_b32.mpr h)), if_neg (fun h => h2 (fclass_cb2.mpr h))]

/-- The origin of a sub-tile in its tile's rows and columns. -/
def subOrigin (k q n : Nat) (trans : Bool) : Nat × Nat :=
  let row := ((List.range k).map (fun i => q / 4 ^ (k - 1 - i) % 4 / 2 * 2 ^ (n - 1 - i))).sum
  let col := ((List.range k).map (fun i => q / 4 ^ (k - 1 - i) % 2 * 2 ^ (n - 1 - i))).sum
  (if trans then col else row, if trans then row else col)

/-- The four fields of a sub-tile, set one after another (R202). -/
theorem subTile_of_fits {b : BitVec 128} {k : Nat} (q : Nat) (h : SubFits b k) :
    let n := descField b 56 4
    let o := subOrigin k q n (b.getLsbD 92)
    subTile b k q = some (setBits128 (setBits128 (setBits128 (setBits128 b 55 0 (descField b 0 56 + q * 4 ^ (descHeight b - k))) 59 56 (n - k)) 78 68
      (min (descField b 68 11 - o.1) (2 ^ (n - k)))) 89 79 (min (descField b 79 11 - o.2) (2 ^ (n - k)))) := by
  obtain ⟨hb, ho, hf, hr, hc⟩ := Tile.ofBits_fields b
  obtain ⟨h1, h2⟩ := h
  have hlim : ¬ ((k : Int) > if fclass (Tile.ofBits b).fmt = .cb2 then ((Tile.ofBits b).order : Int) - 2 else (Tile.ofBits b).order) := by
    simp only [hf, ho, fclass_cb2]
    split <;> omega
  have ht : (Tile.ofBits b).trans = b.getLsbD 92 := rfl
  dsimp only
  unfold subTile
  dsimp only
  rw [if_neg hlim, hb, ho, hr, hc, ht, Tile.height_ofBits, rowsOf_mul_eq_sum k q _ h2, colsOf_mul_eq_sum k q _ h2]
  cases b.getLsbD 92 <;> rfl

theorem subTile_of_not_fits {b : BitVec 128} {k : Nat} (q : Nat) (h : ¬ SubFits b k) : subTile b k q = none := by
  obtain ⟨-, ho, hf, -, -⟩ := Tile.ofBits_fields b
  refine if_pos ?_
  rw [SubFits] at h
  simp only [hf, ho, fclass_cb2]
  split <;> omega

/-- The fields of a sub-tile, and the bits it leaves. -/
theorem subTile_fields {b : BitVec 128} {k : Nat} (q : Nat) (h : SubFits b k) :
    let n := descField b 56 4
    let o := subOrigin k q n (b.getLsbD 92)
    ∃ v, subTile b k q = some v ∧ descField v 0 56 = (descField b 0 56 + q * 4 ^ (descHeight b - k)) % 2 ^ 56 ∧ descField v 56 4 = n - k ∧
      descField v 68 11 = min (descField b 68 11 - o.1) (2 ^ (n - k)) ∧ descField v 79 11 = min (descField b 79 11 - o.2) (2 ^ (n - k)) ∧
      ∀ j < 128, (60 ≤ j ∧ j < 68) ∨ 90 ≤ j → v.getLsbD j = b.getLsbD j := by
  dsimp only
  refine ⟨_, subTile_of_fits q h, ?_, ?_, ?_, ?_, fun j hj hjr => ?_⟩
  · unfold descField
    rw [field_setBits128_other _ _ (by omega) (by omega), field_setBits128_other _ _ (by omega) (by omega), field_setBits128_other _ _ (by omega) (by omega)]
    exact field_setBits128_same b (hi := 55) _ (by omega)
  · have hn : descField b 56 4 - k < 2 ^ 4 := lt_of_le_of_lt (Nat.sub_le _ _) (Nat.mod_lt _ (by positivity))
    rw [descField, field_setBits128_other _ _ (by omega) (by omega), field_setBits128_other _ _ (by omega) (by omega)]
    exact (field_setBits128_same _ (hi := 59) _ (by omega)).trans (Nat.mod_eq_of_lt hn)
  · have hn : min (descField b 68 11 - (subOrigin k q (descField b 56 4) (b.getLsbD 92)).1) (2 ^ (descField b 56 4 - k)) < 2 ^ 11 :=
      lt_of_le_of_lt (le_trans (min_le_left _ _) (Nat.sub_le _ _)) (Nat.mod_lt _ (by positivity))
    rw [descField, field_setBits128_other _ _ (by omega) (by omega)]
    exact (field_setBits128_same _ (hi := 78) _ (by omega)).trans (Nat.mod_eq_of_lt hn)
  · have hn : min (descField b 79 11 - (subOrigin k q (descField b 56 4) (b.getLsbD 92)).2) (2 ^ (descField b 56 4 - k)) < 2 ^ 11 :=
      lt_of_le_of_lt (le_trans (min_le_left _ _) (Nat.sub_le _ _)) (Nat.mod_lt _ (by positivity))
    exact (field_setBits128_same _ (hi := 89) _ (by omega)).trans (Nat.mod_eq_of_lt hn)
  · rw [getLsbD_setBits128 _ _ _ _ hj, if_neg (by omega), getLsbD_setBits128 _ _ _ _ hj, if_neg (by omega), getLsbD_setBits128 _ _ _ _ hj, if_neg (by omega),
      getLsbD_setBits128 _ _ _ _ hj, if_neg (by omega)]

/-! ### The instructions -/

/-- Writing a register and retiring completes. -/
theorem writeRetire_writes {s : State} {i : Instr} {d : BitVec 5} {v : Word} (h : exec i s = .next (writeRetire s d v)) : Writes s i d v := by
  obtain ⟨u, hu, hr⟩ := writeRetire_only s d v
  exact ⟨u, hu, h.trans (congrArg Host.Outcome.next hr)⟩

theorem setT_completes {s : State} {i : Instr} {d : BitVec 4} {v : BitVec 128} (h : exec i s = .next (retire (s.setT d v))) :
    Completes s i (s.me.writeT d v) := by
  obtain ⟨u, hu, hr⟩ := retire_setMe s (s.me.writeT d v)
  exact ⟨u, hu, h.trans (congrArg Host.Outcome.next hr)⟩

/-- An instruction that writes the sub-tile of a path, or traps where the path is too long. -/
theorem subTile_instr {s : State} {i : Instr} {d a : BitVec 4} {tval : Word} {k q : Nat}
    (he : exec i s = .next (match subTile (s.T a) k q with | some t => retire (s.setT d t) | none => trap s 0x01 tval)) :
    let n := descField (s.T a) 56 4
    let o := subOrigin k q n ((s.T a).getLsbD 92)
    (¬ SubFits (s.T a) k → Traps s i 0x01 tval) ∧
    (SubFits (s.T a) k → ∃ v, Completes s i (s.me.writeT d v) ∧
      descField v 0 56 = (descField (s.T a) 0 56 + q * 4 ^ (descHeight (s.T a) - k)) % 2 ^ 56 ∧ descField v 56 4 = n - k ∧
      descField v 68 11 = min (descField (s.T a) 68 11 - o.1) (2 ^ (n - k)) ∧ descField v 79 11 = min (descField (s.T a) 79 11 - o.2) (2 ^ (n - k)) ∧
      ∀ j < 128, (60 ≤ j ∧ j < 68) ∨ 90 ≤ j → v.getLsbD j = (s.T a).getLsbD j) := by
  refine ⟨fun h => ?_, fun h => ?_⟩
  · rw [subTile_of_not_fits q h] at he
    exact he
  · obtain ⟨v, hv, fields⟩ := subTile_fields q h
    rw [hv] at he
    exact ⟨v, setT_completes he, fields⟩

/-- The result of TEXT: the rows and columns are replaced, and no other bit. -/
theorem getLsbD_text (t : BitVec 128) (v : Word) {j : Nat} (hj : j < 128) :
    (setBits128 (setBits128 t 78 68 (bitsOf v 10 0)) 89 79 (bitsOf v 26 16)).getLsbD j =
      if 68 ≤ j ∧ j ≤ 78 then v.getLsbD (j - 68) else if 79 ≤ j ∧ j ≤ 89 then v.getLsbD (16 + (j - 79)) else t.getLsbD j := by
  rw [getLsbD_setBits128 _ _ _ _ hj, getLsbD_setBits128 _ _ _ _ hj, bitsOf_eq, bitsOf_eq, testBit_field, testBit_field]
  by_cases h1 : 68 ≤ j ∧ j ≤ 78
  · rw [if_neg (by omega), if_pos h1, if_pos h1, decide_eq_true (by omega), Bool.true_and, Nat.zero_add]
  · rw [if_neg h1, if_neg h1]
    by_cases h2 : 79 ≤ j ∧ j ≤ 89
    · rw [if_pos h2, if_pos h2, decide_eq_true (by omega), Bool.true_and]
    · rw [if_neg h2, if_neg h2]

theorem ptrunc_eq {s : State} {a b : BitVec 5} (d : BitVec 5) (h : ¬ PathBad (s.S a)) : exec (.ptrunc d a b) s =
    if (s.S b).toNat > pathCount (s.S a) then .next (trap s 0x01 (s.S b))
    else .next (writeRetire s d (pathWord (s.S b).toNat (pathDigits (s.S a) / 4 ^ (pathCount (s.S a) - (s.S b).toNat)))) := by
  show execPtrunc d a b s = _
  rw [execPtrunc, pathOf_good h]
  simp only [shiftRight_digits, Path.value_eq]

theorem pdig_eq {s : State} {a b : BitVec 5} (d : BitVec 5) (h : ¬ PathBad (s.S a)) : exec (.pdig d a b) s =
    if (s.S b).toNat ≥ pathCount (s.S a) then .next (trap s 0x01 (s.S b))
    else .next (writeRetire s d (BitVec.ofNat 64 (pathDigits (s.S a) / 4 ^ (pathCount (s.S a) - 1 - (s.S b).toNat) % 4))) := by
  show execPdig d a b s = _
  rw [execPdig, pathOf_good h]
  simp only [shiftRight_digits]

theorem pcat_eq {s : State} {a b : BitVec 5} (d : BitVec 5) (h : ¬ PathBad (s.S a)) (h' : ¬ PathBad (s.S b)) : exec (.pcat d a b) s =
    if pathCount (s.S a) + pathCount (s.S b) > 28 then .next (trap s 0x01 (BitVec.ofNat 64 (pathCount (s.S a) + pathCount (s.S b))))
    else .next (writeRetire s d (pathWord (pathCount (s.S a) + pathCount (s.S b))
      (pathDigits (s.S a) * 4 ^ pathCount (s.S b) + pathDigits (s.S b)))) := by
  show execPcat d a b s = _
  rw [execPcat, pathOf_good h, pathOf_good h']
  rfl

/-- Settles O3: path members by the reading of path values, descriptors by the bits that setting a field changes. -/
theorem pathsAndDescriptors : Obligations.PathsAndDescriptors := by
  unfold Obligations.PathsAndDescriptors
  refine ⟨⟨fun s d a b => ⟨fun hx => ⟨?_, ?_, ?_⟩, fun hx => ⟨fun h => ?_, fun h => ?_, fun h => ?_, fun h => ?_, fun hy => ?_, fun hy h => ?_, fun hy h => ?_⟩⟩,
    fun d a b => ⟨Laws.RoundTrip.ptrunc d a b rfl _ rfl, Laws.RoundTrip.pdig d a b rfl _ rfl, Laws.RoundTrip.pcat d a b rfl _ rfl⟩⟩,
    fun s d a b c k p => ⟨setT_completes rfl, ⟨_, setT_completes rfl, fun j hj => getLsbD_text _ _ hj⟩, ?_, fun hb => ?_, fun hb => ?_⟩⟩
  · show execPtrunc d a b s = _
    rw [execPtrunc, pathOf_bad hx]
  · show execPdig d a b s = _
    rw [execPdig, pathOf_bad hx]
  · show execPcat d a b s = _
    rw [execPcat, pathOf_bad hx]
  · rw [Traps, ptrunc_eq d hx, if_pos h]
  · exact writeRetire_writes (by rw [ptrunc_eq d hx, if_neg (by omega)])
  · rw [Traps, pdig_eq d hx, if_pos h]
  · exact writeRetire_writes (by rw [pdig_eq d hx, if_neg (by omega)])
  · show execPcat d a b s = _
    rw [execPcat, pathOf_good hx, pathOf_bad hy]
  · rw [Traps, pcat_eq d hx hy, if_pos h]
  · exact writeRetire_writes (by rw [pcat_eq d hx hy, if_neg (by omega)])
  · exact subTile_instr rfl
  · show execTsubr d a b s = _
    rw [execTsubr, pathOf_bad hb]
  · refine subTile_instr ?_
    show execTsubr d a b s = _
    rw [execTsubr, pathOf_good hb] <;> rfl

end Sys2Proof.Machine
end

section
/-! SUPPORT. Windows (R136 to R141): what a call and a return do with the windows, and the obligation on them. -/

namespace Sys2Proof.Machine

/-- A line is its bytes. -/
theorem State.SameBytes.lineAt {s t : State} (h : s.SameBytes t) (l : Loc) : t.lineAt l = s.lineAt l := by
  obtain ⟨hm, hs, hh, hp⟩ := h
  simp only [State.lineAt, State.bytesAt, State.sideAt, hm, hs, hh, hp]

theorem retireTo_post (s : State) (l : List Instr) (t : Word) :
    retireTo (s.post l) t = boundary (State.post (s.setMe (s.me.jump t)) l) := rfl

/-! ### Calls (R137) -/

/-- The context in the window that a call opens: the link in s31, and nothing else in it. -/
def Context.opened (x : Context) : Context := { x with win := x.win + 1, wins := SMap.set 0 [] 31 x.nextPc :: x.wins }

theorem Context.opened_link (x : Context) : x.opened.readS 31 = x.nextPc := by
  show SMap.get 0 (SMap.set 0 [] 31 x.nextPc) 31 = _
  rw [SMap.get_set_same]

theorem Context.opened_zero (x : Context) {j : BitVec 5} (h : 16 ≤ j.toNat) (h' : j.toNat < 31) : x.opened.readS j = 0 := by
  have h0 : j ≠ 0 := fun e => absurd (e ▸ h) (by decide)
  rw [Context.readS, if_neg h0, if_neg (by omega)]
  exact SMap.get_set_other 0 [] _ (by omega)

theorem Context.opened_low (x : Context) {j : BitVec 5} (h : j.toNat < 16) : x.opened.readS j = x.readS j := by
  simp only [Context.readS, if_pos h]
  rfl

theorem call_eq (s : State) (target : Word) : call s target =
    if s.me.wins.length ≥ 8 then
      match stackFault s s.cur s.me.wsp s.me.wsp true with
      | some (c, v) => trap s c v
      | none => (leave s 1 s.me.wsp.toNat .reissue).post [.windowSpill s.cur.core s.cur.ctx]
    else retireTo (State.post (s.setMe s.me.opened) (if s.me.wins.length ≥ 6 then [.windowSpill s.cur.core s.cur.ctx] else [])) target := by
  unfold call
  dsimp only
  split
  · rfl
  · by_cases h : s.me.wins.length ≥ 6
    · rw [if_pos h, if_pos h]
      rfl
    · rw [if_neg h, if_neg h, State.post_nil]
      rfl

/-- A call opens a window where one is free. -/
theorem call_opens {s : State} {n : Instr} {target : Word} (h : exec n s = .next (call s target)) (hw : s.me.wins.length < 8) :
    ∃ u, s.Only u (s.me.opened.jump target) ∧
      ∃ l, exec n s = .next (boundary (u.post l)) ∧ (6 ≤ s.me.wins.length → .windowSpill s.cur.core s.cur.ctx ∈ l) := by
  have hu := State.Only.setMe (s.setMe s.me.opened) ((s.setMe s.me.opened).me.jump target)
  have hx : (s.setMe s.me.opened).me.jump target = s.me.opened.jump target := by rw [State.me_setMe]
  refine ⟨_, (State.Only.setMe s s.me.opened).trans (hx ▸ hu), if s.me.wins.length ≥ 6 then [.windowSpill s.cur.core s.cur.ctx] else [], ?_, fun h6 => ?_⟩
  · rw [h, call_eq, if_neg (by omega), retireTo_post, hx]
  · rw [if_pos h6]
    exact List.mem_singleton.mpr rfl

/-- A call with eight windows resident waits for a spill. -/
theorem call_waits {s : State} {n : Instr} {target : Word} (h : exec n s = .next (call s target)) (hw : 8 ≤ s.me.wins.length)
    (hf : stackFault s s.cur s.me.wsp s.me.wsp true = none) :
    ∃ t, exec n s = .next t ∧ s.Touches t s.me ∧ s.Waits t 1 s.me.wsp.toNat .reissue ∧ .windowSpill s.cur.core s.cur.ctx ∈ t.agenda := by
  rw [call_eq, if_pos hw, hf] at h
  obtain ⟨hwait, hpend⟩ := leave_waits s 1 s.me.wsp.toNat .reissue
  exact ⟨_, h, ((leave_keeps ..).then (State.Keeps.post ..)).touches, ⟨hwait, hpend⟩, List.mem_append_right _ (List.mem_singleton.mpr rfl)⟩

theorem call_traps {s : State} {n : Instr} {target : Word} (h : exec n s = .next (call s target)) (hw : 8 ≤ s.me.wins.length) {c : Nat} {v : Word}
    (hf : stackFault s s.cur s.me.wsp s.me.wsp true = some (c, v)) : Traps s n c v := by
  rw [call_eq, if_pos hw, hf] at h
  exact h

/-! ### Returns (R138) -/

theorem ret_top {s : State} (h : s.me.win = 0) : Traps s .ret 0x01 s.irWord := by
  show execRet s = _
  rw [execRet]
  exact if_pos h

theorem ret_eq {s : State} (h : s.me.win ≠ 0) : exec .ret s = .next (jumpTo s (s.S 31) (fun s' =>
    if s.me.wins.length ≥ 2 then retireTo (s'.setMe { s.me with wins := s.me.wins.tail, win := s.me.win - 1 }) (s'.S 31) else fillWindow s' (s'.S 31))) := by
  show execRet s = _
  rw [execRet]
  dsimp only
  rw [if_neg h]

theorem ret_aligned {s : State} (h : s.me.win ≠ 0) (hf : targetFault (s.S 31) = none) : exec .ret s = .next
    (if s.me.wins.length ≥ 2 then retireTo (s.setMe { s.me with wins := s.me.wins.tail, win := s.me.win - 1 }) (s.S 31) else fillWindow s (s.S 31)) := by
  rw [ret_eq h, jumpTo_of_none _ hf]

theorem ret_traps {s : State} (h : s.me.win ≠ 0) {c : Nat} (hf : targetFault (s.S 31) = some c) : Traps s .ret c (s.S 31) := by
  rw [Traps, ret_eq h, jumpTo_of_fault _ hf]

/-- Retiring a transfer after the context is replaced. -/
theorem retireTo_setMe {s : State} {i : Instr} {x : Context} {target : Word} (h : exec i s = .next (retireTo (s.setMe x) target)) :
    Jumps s i x target := by
  obtain ⟨u, hu, hr⟩ := retireTo_only (s.setMe x) target
  rw [State.me_setMe] at hu
  exact ⟨u, (State.Only.setMe s x).trans hu, h.trans (congrArg _ hr)⟩

/-- The registers of a window read back from two lines. -/
theorem windowOf_get (l0 l1 : LineData) {j : Nat} (h : j < 8) :
    SMap.get 0 (windowOf l0 l1) (16 + j) = lineWord l0 (8 * j) ∧ SMap.get 0 (windowOf l0 l1) (24 + j) = lineWord l1 (8 * j) := by
  suffices ∀ n, n ≤ 8 → ∀ j < n,
      let w := (List.range n).foldl (fun w i => SMap.set 0 (SMap.set 0 w (16 + i) (lineWord l0 (8 * i))) (24 + i) (lineWord l1 (8 * i))) []
      SMap.get 0 w (16 + j) = lineWord l0 (8 * j) ∧ SMap.get 0 w (24 + j) = lineWord l1 (8 * j) from this 8 (le_refl 8) j h
  intro n
  induction n with
  | zero => exact fun _ j hj => absurd hj (Nat.not_lt_zero j)
  | succ n ih =>
    intro hn j hj
    dsimp only
    rw [List.range_succ, List.foldl_append, List.foldl_cons, List.foldl_nil, SMap.get_set, SMap.get_set, SMap.get_set, SMap.get_set]
    obtain rfl | hlt := Nat.eq_or_lt_of_le (Nat.le_of_lt_succ hj)
    · rw [if_neg (by omega), if_pos rfl, if_pos rfl]
      exact ⟨rfl, rfl⟩
    · obtain ⟨h1, h2⟩ := ih (by omega) j hlt
      rw [if_neg (by omega), if_neg (by omega), if_neg (by omega), if_neg (by omega)]
      exact ⟨h1, h2⟩

/-- A line of local store is always at hand. -/
theorem withLine_ls (s : State) {t : Target} {a : Nat} (ht : t.loc = .ls a) (obj : Nat) (f : LineData × Word → State → State) :
    ∃ u, s.Keeps u ∧ withLine s t obj f = f (s.lineAt (.ls a)) u := by
  have hl : loadLine s s.myWho t = .ok (serveWindow s t (max (s.myWho.clk + 1) s.micro.minClk)) := by
    rw [loadLine, ht]
    rfl
  refine ⟨_, loadedMe_keeps (serveWindow_keeps s t (max (s.myWho.clk + 1) s.micro.minClk)) obj, ?_⟩
  rw [withLine, hl, ← ht]
  rfl

/-- The context in the window that a return reads back from the window stack. -/
def Context.filled (x : Context) (w : SMap Word) (a : Word) (win : Word) (target : Word) : Context :=
  { x with wins := [w], wsp := a, win := win, pc := target, chain := {} }

theorem Context.filled_regs (x : Context) (w : SMap Word) (a win target : Word) : (x.filled w a win target).regs = x.regs.filled w a win target := rfl

/-- The frame and the wait of a return whose window is read back. -/
theorem fillWindow_fills {s : State} {target : Word} (hf : stackFault s s.cur s.me.wsp (s.me.wsp - 128) false = none) :
    let a := s.me.wsp - 128
    ∃ u w, s.Keeps u ∧
      fillWindow s target = (leave (u.setMe (u.me.filled w a (s.me.win - 1) target)) 1 a.toNat .landed).post [.memoryReply u.cur.core u.cur.ctx] ∧
      w = windowOf (s.lineAt (.ls (resolveAlias s.cur.core a.toNat))).1 (s.lineAt (.ls (resolveAlias s.cur.core a.toNat + 64))).1 := by
  dsimp only
  unfold fillWindow
  dsimp only
  rw [hf]
  dsimp only
  obtain ⟨u, hu, e⟩ := withLine_ls s (t := stackLoc s.cur (s.me.wsp - 128) 0) rfl (s.me.wsp - 128).toNat (fun l0 s' =>
    withLine s' (stackLoc s'.cur (s.me.wsp - 128) 64) (s.me.wsp - 128).toNat (fun l1 s' =>
      (leave (s'.setMe { s'.me with wins := [windowOf l0.1 l1.1], wsp := s.me.wsp - 128, win := s.me.win - 1, pc := target, chain := {} }) 1
        (s.me.wsp - 128).toNat .landed).post [.memoryReply s'.cur.core s'.cur.ctx]))
  obtain ⟨v, hv, e'⟩ := withLine_ls u (t := stackLoc u.cur (s.me.wsp - 128) 64) rfl (s.me.wsp - 128).toNat (fun l1 s' =>
      (leave (s'.setMe { s'.me with wins := [windowOf (s.lineAt (.ls (resolveAlias s.cur.core (s.me.wsp - 128).toNat))).1 l1.1], wsp := s.me.wsp - 128, win := s.me.win - 1, pc := target, chain := {} }) 1
        (s.me.wsp - 128).toNat .landed).post [.memoryReply s'.cur.core s'.cur.ctx])
  refine ⟨v, _, hu.then hv, (e.trans e').trans ?_, rfl⟩
  rw [hu.bytes.lineAt, hu.touches.cur]
  rfl

/-- Leaving the rotation with something posted, after what an access may touch. -/
theorem State.Touches.leave {s u : State} {x : Context} (h : s.Touches u x) (kind obj : Nat) (p : Pend) (l : List Instr) :
    s.Touches ((Machine.leave u kind obj p).post l) x ∧ s.Waits ((Machine.leave u kind obj p).post l) kind obj p ∧
      ∀ m ∈ l, m ∈ ((Machine.leave u kind obj p).post l).agenda := by
  obtain ⟨hwait, hpend⟩ := leave_waits u kind obj p
  rw [h.cur] at hwait hpend
  have hk := (leave_keeps u kind obj p).then (State.Keeps.post _ l)
  exact ⟨(h.trans hk.touches).of_regs h.meRegs, ⟨hwait, hpend⟩, fun m hm => List.mem_append_right _ hm⟩

/-- A return at depth above 0 whose window is not resident reads it back. -/
theorem ret_fills {s : State} (hw : s.me.win ≠ 0) (hf : targetFault (s.S 31) = none) (hl : s.me.wins.length < 2)
    (ha : stackFault s s.cur s.me.wsp (s.me.wsp - 128) false = none) :
    let a := s.me.wsp - 128
    ∃ (t : State) (w : SMap Word), exec .ret s = .next t ∧ s.Touches t (s.me.filled w a (s.me.win - 1) (s.S 31)) ∧
      s.Waits t 1 a.toNat .landed ∧ .memoryReply s.cur.core s.cur.ctx ∈ t.agenda ∧ s.SameBytes t ∧
      w = windowOf (s.lineAt (.ls (resolveAlias s.cur.core a.toNat))).1 (s.lineAt (.ls (resolveAlias s.cur.core a.toNat + 64))).1 := by
  dsimp only
  obtain ⟨u, w, hu, e, hwin⟩ := fillWindow_fills (target := s.S 31) ha
  obtain ⟨y, hy⟩ : ∃ y, y = u.me.filled w (s.me.wsp - 128) (s.me.win - 1) (s.S 31) := ⟨_, rfl⟩
  rw [← hy] at e
  have hregs : y.regs = (s.me.filled w (s.me.wsp - 128) (s.me.win - 1) (s.S 31)).regs := by
    rw [hy, Context.filled_regs, hu.touches.me_eq, Context.filled_regs]
  obtain ⟨ht, hwait, hpost⟩ := (hu.touches.setMe y).leave 1 (s.me.wsp - 128).toNat .landed [.memoryReply u.cur.core u.cur.ctx]
  have hb : s.SameBytes ((leave (u.setMe y) 1 (s.me.wsp - 128).toNat .landed).post [.memoryReply u.cur.core u.cur.ctx]) :=
    State.sameBytes_iff.mpr (by simp [hu.bytes.bytes_eq])
  have hr := hpost _ (List.mem_singleton.mpr rfl)
  have hx : exec .ret s = .next (fillWindow s (s.S 31)) := by rw [ret_aligned hw hf, if_neg (by omega)]
  rw [← e] at ht hwait hb hr
  rw [hu.touches.cur] at hr
  exact ⟨_, w, hx, ht.of_regs hregs, hwait, hr, hb, hwin⟩

theorem ret_fillTraps {s : State} (hw : s.me.win ≠ 0) (hf : targetFault (s.S 31) = none) (hl : s.me.wins.length < 2) {c : Nat} {v : Word}
    (ha : stackFault s s.cur s.me.wsp (s.me.wsp - 128) false = some (c, v)) : Traps s .ret c v := by
  rw [Traps, ret_aligned hw hf, if_neg (by omega), fillWindow]
  dsimp only
  rw [ha]

/-- What an instruction that calls `target` does with the windows. -/
theorem call_windows {s : State} {n : Instr} {target : Word} (h : exec n s = .next (call s target)) :
    (s.me.wins.length < 8 → ∃ (u : State) (y : Context),
      s.Only u (y.jump target) ∧
      y.wins.tail = s.me.wins ∧ y.win = s.me.win + 1 ∧ { y with wins := s.me.wins, win := s.me.win } = s.me ∧
      y.readS 31 = s.me.nextPc ∧ (∀ j : BitVec 5, 16 ≤ j.toNat → j.toNat < 31 → y.readS j = 0) ∧
      (∀ j : BitVec 5, j.toNat < 16 → y.readS j = s.me.readS j) ∧
      ∃ l, exec n s = .next (boundary (u.post l)) ∧ (6 ≤ s.me.wins.length → .windowSpill s.cur.core s.cur.ctx ∈ l)) ∧
    (8 ≤ s.me.wins.length → stackFault s s.cur s.me.wsp s.me.wsp true = none →
      ∃ t, exec n s = .next t ∧ s.Touches t s.me ∧ s.Waits t 1 s.me.wsp.toNat .reissue ∧ .windowSpill s.cur.core s.cur.ctx ∈ t.agenda) ∧
    (8 ≤ s.me.wins.length → ∀ c v, stackFault s s.cur s.me.wsp s.me.wsp true = some (c, v) → Traps s n c v) := by
  refine ⟨fun hw => ?_, fun hw hf => call_waits h hw hf, fun hw c v hf => call_traps h hw hf⟩
  obtain ⟨u, hu, l, hl, hspill⟩ := call_opens h hw
  exact ⟨u, s.me.opened, hu, rfl, rfl, rfl, s.me.opened_link, fun j => s.me.opened_zero, fun j => s.me.opened_low, l, hl, hspill⟩

/-- Settles O6: a call pushes a window or waits for a spill, a return discards its window or reads its caller's back, each by the equation of
its operation. -/
theorem windowsOpenAndClose : Obligations.WindowsOpenAndClose := by
  unfold Obligations.WindowsOpenAndClose
  refine ⟨fun s i a => ⟨?jal, fun h h4 => ?callr, fun h => ?high, fun h h4 => ?misaligned⟩,
    fun s => ⟨ret_top, fun hw h => ret_traps hw (targetFault_of_high h), fun hw h h4 => ret_traps hw (targetFault_of_misaligned h h4),
      fun hw h h4 hl => ?resident, fun hw h h4 hl => ⟨fun c v ha => ?refused, fun ha => ?filled⟩⟩⟩
  case jal =>
    rw [← relTarget_signExtend _ (by decide)]
    exact call_windows rfl
  case callr => exact call_windows (congrArg _ (jumpTo_of_none _ (targetFault_of_aligned h h4)))
  case high => exact congrArg _ (jumpTo_of_fault _ (targetFault_of_high h))
  case misaligned => exact congrArg _ (jumpTo_of_fault _ (targetFault_of_misaligned h h4))
  case resident =>
    refine retireTo_setMe ?_
    rw [ret_aligned hw (targetFault_of_aligned h h4), if_pos hl]
  case refused => exact ret_fillTraps hw (targetFault_of_aligned h h4) hl ha
  case filled =>
    obtain ⟨t, w, e, ht, hwait, hreply, hb, hwin⟩ := ret_fills hw (targetFault_of_aligned h h4) hl ha
    exact ⟨t, w, e, ht, hwait, hreply, hb, fun j hj => hwin ▸ windowOf_get _ _ hj⟩

end Sys2Proof.Machine
end

section
/-! SUPPORT. The checks of an access in order (R146), one lemma per check, and the obligation on them (R35, R47, R48). -/

namespace Sys2Proof.Machine

/-- A check answers what the checks of R146 answer at the address with its alias resolved. -/
theorem checkMe_ans (s : State) (va : Word) (n : Need) : (checkMe s va n).1 = (checkXlat s s.myWho (resolveAlias s.cur.core va.toNat) n).ans := rfl

theorem inLs_eq_true {va : Nat} : inLs va = true ↔ va / 2 ^ 28 = 0x00F000000 := decide_eq_true_iff

theorem inHost_eq_true {va : Nat} : inHost va = true ↔ va / 2 ^ 52 = 0xE := decide_eq_true_iff

theorem inUnassigned_eq_true {va : Nat} : inUnassigned va = true ↔ va / 2 ^ 52 = 0xF ∧ va / 2 ^ 28 ≠ 0x00F000000 := by
  rw [inUnassigned, Bool.and_eq_true, decide_eq_true_iff, Bool.not_eq_true', ← Bool.not_eq_true, inLs_eq_true]

section
variable {s : State} {w : Who} {va : Nat} {n : Need}

theorem checkXlat_high (h : 2 ^ 56 ≤ va) : (checkXlat s w va n).ans = .error 0x0D := by
  rw [checkXlat, if_pos h]

theorem checkXlat_misaligned (h : va < 2 ^ 56) (ha : n.align = true) (hm : va % n.size ≠ 0) : (checkXlat s w va n).ans = .error 0x03 := by
  rw [checkXlat, if_neg (by omega), if_pos (by simp [ha, hm])]

section
variable (h : va < 2 ^ 56) (ha : n.align = true → va % n.size = 0)
include h ha

/-- Past the first two checks. -/
theorem checkXlat_aligned : checkXlat s w va n =
    if inUnassigned va then ⟨.error 0x08, s.micro, [], [], []⟩
    else if n.atomic && inHost va then ⟨.error 0x01, s.micro, [], [], []⟩
    else if inLs va then
      if !bankOwned s w va then ⟨.error (if n.x then 0x0B else if n.r then 0x0A else 0x09), s.micro, [], [], []⟩
      else ⟨permitted s w n { loc := .ls va } true true true, s.micro, [], [], []⟩
    else
      match translate s w va with
      | ⟨.error c, m, ns, gs, q⟩ => ⟨.error c, m, ns, gs, q⟩
      | ⟨.ok e, m, ns, gs, q⟩ =>
        let open_ := !(e.attr.getLsbD 0 && decide (w.level = .u))
        ⟨permitted s w n (targetOf s e va) (e.entry.getLsbD 5 && open_) (e.entry.getLsbD 6 && open_) (e.entry.getLsbD 7 && open_), m, ns, gs, q⟩ := by
  have hal : ¬ (n.align && decide (va % n.size ≠ 0)) = true := by
    rw [Bool.and_eq_true, decide_eq_true_eq]
    exact fun ⟨h1, h2⟩ => h2 (ha h1)
  rw [checkXlat, if_neg (by omega), if_neg hal] <;> rfl

theorem checkXlat_unassigned (hu : va / 2 ^ 52 = 0xF) (hl : va / 2 ^ 28 ≠ 0x00F000000) : (checkXlat s w va n).ans = .error 0x08 := by
  rw [checkXlat_aligned h ha, if_pos (inUnassigned_eq_true.mpr ⟨hu, hl⟩)]

theorem checkXlat_host (hh : va / 2 ^ 52 = 0xE) (hat : n.atomic = true) : (checkXlat s w va n).ans = .error 0x01 := by
  have hu : ¬ inUnassigned va = true := fun hu => absurd (hh.symm.trans (inUnassigned_eq_true.mp hu).1) (by decide)
  have hh' : (n.atomic && inHost va) = true := by rw [hat, inHost_eq_true.mpr hh]; rfl
  rw [checkXlat_aligned h ha, if_neg hu, if_pos hh']

/-- In the local store no translation is needed: the bank's owner and the permissions decide. -/
theorem checkXlat_ls (hl : va / 2 ^ 28 = 0x00F000000) : (checkXlat s w va n).ans =
    if !bankOwned s w va then .error (if n.x then 0x0B else if n.r then 0x0A else 0x09) else permitted s w n { loc := .ls va } true true true := by
  have hu : ¬ inUnassigned va = true := fun hu => (inUnassigned_eq_true.mp hu).2 hl
  have hh : ¬ (n.atomic && inHost va) = true := fun hh => by
    rw [Bool.and_eq_true, inHost_eq_true] at hh
    omega
  rw [checkXlat_aligned h ha, if_neg hu, if_neg hh, if_pos (inLs_eq_true.mpr hl)]
  split <;> rfl

end

/-- Without protection windows every access is inside them. -/
theorem pwinAllows_of_off (h : ∀ j < 16, (SMap.get 0 (s.core w.pcore).pwin (2 * j + 1)).getLsbD 3 = false) (space addr perm : Nat) :
    pwinAllows s w space addr perm = true := by
  have hoff : (List.range 16).filter (fun i => (SMap.get 0 (s.core w.pcore).pwin (2 * i + 1)).getLsbD 3) = [] :=
    List.filter_eq_nil_iff.mpr fun i hi => by rw [h i (List.mem_range.mp hi)]; exact Bool.false_ne_true
  rw [pwinAllows, hoff]
  simp only [List.isEmpty_nil, Bool.or_true, Bool.true_or]

/-- Without protection windows every access to the local store is permitted. -/
theorem permitted_ls (h : ∀ j < 16, (SMap.get 0 (s.core w.pcore).pwin (2 * j + 1)).getLsbD 3 = false) (a : Nat) :
    permitted s w n { loc := .ls a } true true true = .ok { loc := .ls a } := by
  simp [permitted, pwinSpan, pwinLoc, Loc.add, pwinAllows_of_off h, State.inEgress, State.delivered, foreignRefusal]

end

/-- The bank of a local-store address is not owned by a thread at level U of another partition. -/
theorem bankOwned_eq (s : State) (w : Who) (va : Nat) : bankOwned s w va =
    (decide (w.level ≠ .u) || decide (bitsOf (if va / 32768 % 32 < 16 then (s.core (va / 0x100000 % 256)).bankpart0 else (s.core (va / 0x100000 % 256)).bankpart1)
      (4 * (va / 32768 % 32 % 16) + 3) (4 * (va / 32768 % 32 % 16)) = w.part)) := by
  rw [bankOwned]
  split <;> simp [*]

/-- The first checks of an access at an address whose alias is resolved. -/
theorem checks_inOrder (s : State) (va : Nat) (n : Need) :
    let k := s.cur.core
    let ans := (checkXlat s s.myWho va n).ans
    (2 ^ 56 ≤ va → ans = .error 0x0D) ∧
    (va < 2 ^ 56 → n.align = true → va % n.size ≠ 0 → ans = .error 0x03) ∧
    (va < 2 ^ 56 → (n.align = true → va % n.size = 0) →
      (va / 2 ^ 52 = 0xF → va / 2 ^ 28 ≠ 0x00F000000 → ans = .error 0x08) ∧
      (va / 2 ^ 52 = 0xE → n.atomic = true → ans = .error 0x01) ∧
      (va / 2 ^ 28 = 0x00F000000 →
        let bank := va / 32768 % 32
        let c := s.core (va / 0x100000 % 256)
        let owner := bitsOf (if bank < 16 then c.bankpart0 else c.bankpart1) (4 * (bank % 16) + 3) (4 * (bank % 16))
        (s.me.level = .u → owner ≠ (s.core k).partOf s.me.slot → ans = .error (if n.x then 0x0B else if n.r then 0x0A else 0x09)) ∧
        (s.me.level ≠ .u ∨ owner = (s.core k).partOf s.me.slot →
          (∀ j < 16, (SMap.get 0 (s.core k).pwin (2 * j + 1)).getLsbD 3 = false) → ans = .ok { loc := .ls va }))) := by
  refine ⟨checkXlat_high, checkXlat_misaligned, fun h ha => ⟨checkXlat_unassigned h ha, checkXlat_host h ha, fun hl => ⟨fun hu hp => ?_, fun hp hw => ?_⟩⟩⟩
  · have hown : bankOwned s s.myWho va = false := by
      rw [bankOwned_eq]
      exact Bool.or_eq_false_iff.mpr ⟨decide_eq_false (not_not_intro hu), decide_eq_false hp⟩
    rw [checkXlat_ls h ha hl, hown]
    rfl
  · have hown : bankOwned s s.myWho va = true := by
      rw [bankOwned_eq, Bool.or_eq_true, decide_eq_true_eq, decide_eq_true_eq]
      exact hp
    rw [checkXlat_ls h ha hl, hown, permitted_ls (w := s.myWho) hw va]
    rfl

/-- Settles O7: each check has its lemma, in the order of R146. -/
theorem accessChecksInOrder : Obligations.AccessChecksInOrder := by
  unfold Obligations.AccessChecksInOrder
  exact fun s ea n => checks_inOrder s (resolveAlias s.cur.core ea.toNat) n

end Sys2Proof.Machine
end

section
/-! SUPPORT. Loads (R83, R146, R148, R303): the bytes of a line at hand, the alignment that a check leaves, and the obligation on them. -/

namespace Sys2Proof.Machine

/-! ### The bytes of a line -/

theorem State.SameBytes.bytesAt {s t : State} (h : s.SameBytes t) (l : Loc) (n : Nat) : t.bytesAt l n = s.bytesAt l n := by
  obtain ⟨hm, hs, hh, hp⟩ := h
  simp only [State.bytesAt, hm, hh, hp]

theorem freeBytes_slice (f : Nat → Byte) (m : SMap Byte) (o a N n : Nat) (h : o + n ≤ N) :
    ((freeBytes f m a N).drop o).take n = freeBytes f m (a + o) n := by
  induction o generalizing a N with
  | zero =>
    rw [List.drop_zero, Nat.add_zero]
    induction n generalizing a N with
    | zero => rfl
    | succ n ih =>
      obtain _ | N := N
      · omega
      · rw [freeBytes, freeBytes, List.take_succ_cons, ih (a + 1) N (by omega)]
  | succ o ih =>
    obtain _ | N := N
    · omega
    · rw [freeBytes, List.drop_succ_cons, ih (a + 1) N (by omega), Nat.add_right_comm]
      rfl

/-- The bytes at a location are those of its line at its offset. -/
theorem State.bytesAt_slice (s : State) (l : Loc) {n : Nat} (h : l.off + n ≤ 64) :
    ((s.bytesAt l.lineBase 64).drop l.off).take n = s.bytesAt l n := by
  have hdm (a : Nat) : a / 64 * 64 + a % 64 = a := Nat.div_add_mod' a 64
  cases l with
  | main pa => exact (Memory.readBytes_slice s.mem (pa % 64) (pa / 64 * 64) 64 n h).trans (by rw [hdm]; rfl)
  | ls a => exact (Memory.readBytes_slice s.mem (a % 64) (a / 64 * 64) 64 n h).trans (by rw [hdm]; rfl)
  | host b => exact (freeBytes_slice Config.hostByte s.hostMem (b % 64) (b / 64 * 64) 64 n h).trans (by rw [hdm]; rfl)
  | void =>
    have hn : n ≤ 64 := by simpa [Loc.off] using h
    show List.take n (List.replicate 64 0) = List.replicate n 0
    rw [List.take_replicate, min_eq_left hn]
  | foreign p f =>
    refine (freeBytes_slice Config.peerByte s.peerMem (f % 64) (peerKey p (f / 64 * 64)) 64 n h).trans ?_
    rw [peerKey, Nat.add_assoc, hdm]
    rfl

theorem State.bytesAt_length (s : State) (l : Loc) (n : Nat) : (s.bytesAt l n).length = n := by
  cases l with
  | main pa => exact Memory.readBytes_length s.mem n pa
  | ls a => exact Memory.readBytes_length s.mem n a
  | host b => exact freeBytes_length _ _ _ _
  | void => exact List.length_replicate
  | foreign p f => exact freeBytes_length _ _ _ _

/-- Bytes within a line, as the line at hand holds them. -/
theorem lineBytes_lineAt (s : State) (l : Loc) {n : Nat} (h : l.off + n ≤ 64) : lineBytes (s.lineAt l).1 l.off n = bytesToNat (s.bytesAt l n) := by
  have hlen := s.bytesAt_length l.lineBase 64
  have hlt := bytesToNat_lt (s.bytesAt l.lineBase 64)
  rw [hlen] at hlt
  have hlt' : bytesToNat (s.bytesAt l.lineBase 64) < 2 ^ (8 * 64) := by rwa [Nat.pow_mul]
  rw [lineBytes, State.lineAt, BitVec.toNat_ofNat, Nat.mod_eq_of_lt hlt', Nat.shiftRight_eq_div_pow, Nat.pow_mul, Nat.pow_mul,
    ← State.bytesAt_slice s l h]
  exact bytesToNat_slice _ _ _ (hlen.symm ▸ h)

/-! ### Alignment -/

theorem mod_mod_pow {va j h : Nat} (hva : va % 2 ^ j = 0) : va % 4 ^ h % 2 ^ j = 0 := by
  rw [show (4 : Nat) ^ h = 2 ^ (2 * h) by rw [Nat.pow_mul]]
  obtain hle | hle := Nat.le_total j (2 * h)
  · rw [Nat.mod_mod_of_dvd _ (Nat.pow_dvd_pow 2 hle), hva]
  · have : va % 2 ^ (2 * h) = 0 := Nat.mod_eq_zero_of_dvd (Nat.dvd_trans (Nat.pow_dvd_pow 2 hle) (Nat.dvd_of_mod_eq_zero hva))
    rw [this, Nat.zero_mod]

/-- Bytes of a size that divides their offset lie in one line. -/
theorem fits_of_aligned {o j : Nat} (hj : j ≤ 6) (ho : o < 64) (h : o % 2 ^ j = 0) : o + 2 ^ j ≤ 64 := by
  have hcases : j = 0 ∨ j = 1 ∨ j = 2 ∨ j = 3 ∨ j = 4 ∨ j = 5 ∨ j = 6 := by omega
  obtain rfl | rfl | rfl | rfl | rfl | rfl | rfl := hcases <;> omega

theorem Loc_off_lt (l : Loc) : l.off < 64 := by
  cases l <;> simp only [Loc.off] <;> omega

theorem mod64_aligned {a j : Nat} (hj : j ≤ 6) (h : a % 2 ^ j = 0) : a % 64 % 2 ^ j = 0 :=
  (Nat.mod_mod_of_dvd a (Nat.pow_dvd_pow 2 hj : 2 ^ j ∣ 2 ^ 6)).trans h

/-- A translation keeps alignment within the line. -/
theorem targetOf_aligned (s : State) (e : TlbEntry) {va j : Nat} (hj : j ≤ 6) (h : va % 2 ^ j = 0) : (targetOf s e va).loc.off % 2 ^ j = 0 := by
  have ho : va % 4 ^ e.height % 2 ^ j = 0 := mod_mod_pow h
  have hbase (b : Nat) : (b * 256 + va % 4 ^ e.height) % 2 ^ j = 0 := by
    have hd : 2 ^ j ∣ b * 256 := Dvd.dvd.mul_left (Nat.dvd_trans (Nat.pow_dvd_pow 2 hj) (by decide)) b
    rw [Nat.add_mod, Nat.mod_eq_zero_of_dvd hd, Nat.zero_add, Nat.mod_mod, ho]
  have hmod := fun b => mod64_aligned hj (hbase b)
  simp only [targetOf]
  split
  · exact Nat.zero_mod _
  · split
    · exact hmod _
    · split <;> exact hmod _

theorem permitted_ok {s : State} {w : Who} {n : Need} {t t' : Target} {pr pw px : Bool} (h : permitted s w n t pr pw px = .ok t') : t' = t := by
  unfold permitted at h
  repeat' split at h
  all_goals cases h
  all_goals rfl

/-- What a check allows is aligned to its size within its line. -/
theorem checkXlat_aligned_ok {s : State} {w : Who} {va j : Nat} {n : Need} {t : Target} (hj : j ≤ 6) (hs : n.size = 2 ^ j) (ha : n.align = true)
    (h : (checkXlat s w va n).ans = .ok t) : t.loc.off % 2 ^ j = 0 := by
  have h1 : va < 2 ^ 56 := by
    by_contra hge
    rw [checkXlat_high (Nat.le_of_not_lt hge)] at h
    exact nomatch h
  have h2 : va % n.size = 0 := by
    by_contra hne
    rw [checkXlat_misaligned h1 ha hne] at h
    exact nomatch h
  rw [checkXlat_aligned h1 (fun _ => h2)] at h
  rw [hs] at h2
  split at h
  · exact nomatch h
  · split at h
    · exact nomatch h
    · split at h
      · split at h
        · exact nomatch h
        · rw [permitted_ok h]
          exact mod64_aligned hj h2
      · split at h
        · exact nomatch h
        · rw [permitted_ok h]
          exact targetOf_aligned s _ hj h2

/-- A check of the executing thread. -/
theorem checkMe_keeps {s s' : State} {ea : Word} {n : Need} {e : Except Nat Target} (h : checkMe s ea n = (e, s')) : s.Keeps s' := by
  rw [show s' = (checkMe s ea n).2 by rw [h]]
  exact check_keeps s s.myWho ea.toNat n

theorem checkMe_fits {s s' : State} {ea : Word} {n : Need} {t : Target} {j : Nat} (hj : j ≤ 6) (hs : n.size = 2 ^ j) (ha : n.align = true)
    (h : checkMe s ea n = (.ok t, s')) : t.loc.off + 2 ^ j ≤ 64 :=
  fits_of_aligned hj (Loc_off_lt t.loc) (checkXlat_aligned_ok hj hs ha (congrArg Prod.fst h))

/-! ### Loads that find their line at hand -/

/-- A line that is in no cache is at hand. -/
theorem loadLine_noPlace (s : State) (w : Who) {t : Target} (h : t.loc.place = none) : ∃ l, loadLine s w t = .ok l ∧ l.line = s.lineAt t.loc := by
  unfold loadLine
  dsimp only
  split
  · exact ⟨_, rfl, rfl⟩
  · rw [h]
    exact ⟨_, rfl, rfl⟩

theorem place_line {l : Loc} {pa : Nat} (h : l.place = some pa) : pa / 64 = l.line := by
  cases l with
  | main a => cases h; rfl
  | foreign p f =>
    cases h
    rw [Loc.line]
    omega
  | _ => exact nomatch h

theorem loadLine_place (s : State) (w : Who) {t : Target} {pa : Nat} (h : t.loc.place = some pa) :
    loadLine s w t = mainLoad s w t pa (max (w.clk + 1) s.micro.minClk) := by
  unfold loadLine
  dsimp only
  split
  · rename_i hv
    rw [hv] at h
    exact nomatch h
  · rw [h]

/-- A line that the core owns is at hand. -/
theorem loadLine_owned (s : State) (w : Who) {t : Target} (hu : t.uncached = false) (hc : w.core < 1024) {o : Copy}
    (ho : s.micro.copyAt w.core t.loc.line = some o) (hx : o.st = .x) : ∃ l, loadLine s w t = .ok l ∧ l.line = s.lineAt t.loc := by
  cases hp : t.loc.place with
  | none => exact loadLine_noPlace s w hp
  | some pa =>
    rw [loadLine_place s w hp, mainLoad, if_neg (by simp [hu]; omega), place_line hp, ho]
    dsimp only
    rw [if_pos hx]
    exact ⟨_, rfl, rfl⟩

/-- An uncached line is read as its home holds it. -/
theorem loadLine_uncached {s : State} {w : Who} {t : Target} {l : Loaded} (hu : t.uncached = true) (h : loadLine s w t = .ok l) :
    l.line = s.lineAt t.loc := by
  cases hp : t.loc.place with
  | none =>
    obtain ⟨l', h', e⟩ := loadLine_noPlace s w hp
    rw [← e, Except.ok.inj (h.symm.trans h')]
  | some pa =>
    rw [loadLine_place s w hp, mainLoad, if_pos (by simp [hu]), homeLoad] at h
    cases hg : accessGate s w (pa / 64) .gets with
    | error u => rw [hg] at h; exact nomatch h
    | ok u =>
      rw [hg] at h
      rw [← Except.ok.inj h]
      exact (((accessGate_keeps s w _ _).2 u hg).bytes).lineAt t.loc

/-! ### Scalar loads (R148) -/

theorem withLine_ok {s : State} {t : Target} {l : Loaded} (h : loadLine s s.myWho t = .ok l) (obj : Nat) (f : LineData × Word → State → State) :
    withLine s t obj f = f l.line (loadedMe s l obj) := by
  rw [withLine, h]

theorem withLine_error {s u : State} {t : Target} (h : loadLine s s.myWho t = .error u) (obj : Nat) (f : LineData × Word → State → State) :
    withLine s t obj f = leave u 1 obj .reissue := by
  rw [withLine, h]

/-- What a scalar load asks of memory once its check allows it. -/
theorem load_asks {s s' : State} {n : Instr} {d a : BitVec 5} {i : BitVec 15} {size : Nat} {ext : Nat → Word} {t : Target} {l : Loaded}
    (he : exec n s = .next (load s d a i size ext)) (h : checkMe s (s.ea a i) { r := true, size := size } = (.ok t, s'))
    (hl : loadLine s' s'.myWho t = .ok l) :
    ∃ u, Asks s n u (s.me.writeS d (ext (lineBytes l.line.1 t.loc.off size))) (s.ea a i).toNat ∧ s.SameBytes u := by
  have hk := (checkMe_keeps h).then (loadedMe_keeps ((loadLine_keeping s' s'.myWho t).2 l hl) (s.ea a i).toNat)
  have ht := hk.touches.setMe ((loadedMe s' l (s.ea a i).toNat).me.writeS d (ext (lineBytes l.line.1 t.loc.off size)))
  have hx : exec n s = .next (awaitReply ((loadedMe s' l (s.ea a i).toNat).setS d (ext (lineBytes l.line.1 t.loc.off size))) (s.ea a i).toNat) := by
    rw [he, load]
    rw [h]
    dsimp only
    rw [withBytes, withLine_ok hl]
  refine ⟨_, asks_of hx (ht.of_regs ?_), ?_⟩
  · rw [Context.writeS_regs, hk.touches.me_eq, Context.writeS_regs]
  · rw [State.sameBytes_iff]
    simp [hk.bytes.bytes_eq]

theorem load_retries {s s' : State} {n : Instr} {d a : BitVec 5} {i : BitVec 15} {size : Nat} {ext : Nat → Word} {t : Target} {u : State}
    (he : exec n s = .next (load s d a i size ext)) (h : checkMe s (s.ea a i) { r := true, size := size } = (.ok t, s'))
    (hl : loadLine s' s'.myWho t = .error u) : Retries s n 1 (s.ea a i).toNat := by
  refine retries_of (t := u) ?_ ((checkMe_keeps h).then ((loadLine_keeping s' s'.myWho t).1 u hl))
  rw [he, load]
  rw [h]
  dsimp only
  rw [withBytes, withLine_error hl]

theorem load_traps {s s' : State} {n : Instr} {d a : BitVec 5} {i : BitVec 15} {size c : Nat} {ext : Nat → Word}
    (he : exec n s = .next (load s d a i size ext)) (h : checkMe s (s.ea a i) { r := true, size := size } = (.error c, s')) :
    exec n s = .next (trap s' c (s.ea a i)) := by
  rw [he, load]
  rw [h]

/-- What a scalar load of `2 ^ j` bytes does. -/
theorem load_reads {s : State} {n : Instr} {d a : BitVec 5} {i : BitVec 15} (j : Nat) (hj : j ≤ 6) {size : Nat} (hs : size = 2 ^ j) {ext ext' : Nat → Word}
    (he : exec n s = .next (load s d a i size ext')) (hext : ∀ v, ext' v = ext v) :
    (∀ t s', checkMe s (s.ea a i) { r := true, size := size } = (.ok t, s') →
      (∀ l, loadLine s' s'.myWho t = .ok l →
        ∃ (u : State) (v : Nat), Asks s n u (s.me.writeS d (ext v)) (s.ea a i).toNat ∧ s.SameBytes u ∧ v = lineBytes l.line.1 t.loc.off size ∧
          (t.loc.place = none ∨ t.uncached = true → v = bytesToNat (s.bytesAt t.loc size))) ∧
      (∀ u, loadLine s' s'.myWho t = .error u → Retries s n 1 (s.ea a i).toNat) ∧
      (t.loc.place = none ∨ (t.uncached = false ∧ s.cur.core < 1024 ∧ ∃ o, s'.micro.copyAt s.cur.core t.loc.line = some o ∧ o.st = .x) →
        ∃ l, loadLine s' s'.myWho t = .ok l ∧ l.line = s'.lineAt t.loc)) ∧
    (∀ c s', checkMe s (s.ea a i) { r := true, size := size } = (.error c, s') → exec n s = .next (trap s' c (s.ea a i))) := by
  refine ⟨fun t s' h => ⟨fun l hl => ?_, fun u hl => load_retries he h hl, ?_⟩, fun c s' h => load_traps he h⟩
  · obtain ⟨u, hu, hb⟩ := load_asks he h hl
    rw [hext] at hu
    refine ⟨u, _, hu, hb, rfl, fun hw => ?_⟩
    have hline : l.line = s'.lineAt t.loc := by
      obtain hp | hu := hw
      · obtain ⟨l', h', e⟩ := loadLine_noPlace s' s'.myWho hp
        rw [← e, Except.ok.inj (hl.symm.trans h')]
      · exact loadLine_uncached hu hl
    rw [hline, lineBytes_lineAt _ _ (hs ▸ checkMe_fits hj hs rfl h), (checkMe_keeps h).bytes.bytesAt]
  · rintro (hp | ⟨hu, hc, o, ho, hx⟩)
    · exact loadLine_noPlace s' s'.myWho hp
    · rw [← (checkMe_keeps h).touches.cur] at hc ho
      exact loadLine_owned s' s'.myWho hu hc ho hx

/-- Settles O8: all loads are the load of `2 ^ j` bytes, with the extension that each names. -/
theorem loadsReadMemory : Obligations.LoadsReadMemory := by
  unfold Obligations.LoadsReadMemory
  intro s d a i
  exact ⟨load_reads 0 (by decide) rfl rfl (fun _ => rfl), load_reads 1 (by decide) rfl rfl (fun _ => rfl),
    load_reads 2 (by decide) rfl rfl (fun _ => rfl), load_reads 3 (by decide) rfl rfl (fun v => BitVec.eq_of_toNat_eq (by simp [zext])),
    load_reads 0 (by decide) rfl rfl (fun _ => rfl), load_reads 1 (by decide) rfl rfl (fun _ => rfl),
    load_reads 2 (by decide) rfl rfl (fun _ => rfl)⟩

end Sys2Proof.Machine
end

section
/-! SUPPORT. Stores (R83, R98, R146, R149, R201, R303): the bytes that a store writes, and the obligation on them. -/

namespace Sys2Proof.Machine

/-! ### Bytes written -/

theorem get_putBytes_natToBytes (d : Byte) (m : SMap Byte) (a b n x : Nat) :
    SMap.get d (putBytes m a (natToBytes n x)) b = if a ≤ b ∧ b < a + n then BitVec.ofNat 8 (x / 256 ^ (b - a)) else SMap.get d m b := by
  induction n generalizing m a x with
  | zero => rw [if_neg (by omega)]; rfl
  | succ n ih =>
    rw [natToBytes, putBytes, ih, SMap.get_put]
    rcases Nat.lt_trichotomy b a with h | rfl | h
    · rw [if_neg (by omega), if_neg (by omega), if_neg (by omega)]
    · rw [if_neg (by omega), if_pos rfl, if_pos (by omega), Nat.sub_self, Nat.pow_zero, Nat.div_one]
    · have e : b - a = (b - (a + 1)) + 1 := by omega
      rw [if_neg (show b ≠ a by omega), Nat.div_div_eq_div_mul, ← Nat.pow_succ', e]
      exact if_congr (by omega) rfl rfl

theorem freeBytes_putBytes_natToBytes (f : Nat → Byte) (m : SMap Byte) (a b n x : Nat) :
    freeBytes f (putBytes m a (natToBytes n x)) b 1 =
      if a ≤ b ∧ b < a + n then [BitVec.ofNat 8 (x / 256 ^ (b - a))] else freeBytes f m b 1 := by
  rw [freeBytes, get_putBytes_natToBytes]
  split <;> rfl

/-- In `u` the `n` bytes at `l` are those of `x`, and every other byte and every sideband is that of `s`. -/
def State.Stored (s u : State) (l : Loc) (n x : Nat) : Prop :=
  u.side = s.side ∧
  (∀ pa, l = .main pa ∨ l = .ls pa → u.hostMem = s.hostMem ∧ u.peerMem = s.peerMem ∧
    ∀ y, u.mem.read y = if pa ≤ y ∧ y < pa + n then BitVec.ofNat 8 (x / 256 ^ (y - pa)) else s.mem.read y) ∧
  (∀ b, l = .host b → u.mem = s.mem ∧ u.peerMem = s.peerMem ∧ ∀ y, freeBytes Config.hostByte u.hostMem y 1 =
    if b ≤ y ∧ y < b + n then [BitVec.ofNat 8 (x / 256 ^ (y - b))] else freeBytes Config.hostByte s.hostMem y 1) ∧
  (∀ p f, l = .foreign p f → u.mem = s.mem ∧ u.hostMem = s.hostMem ∧ ∀ y, freeBytes Config.peerByte u.peerMem y 1 =
    if peerKey p f ≤ y ∧ y < peerKey p f + n then [BitVec.ofNat 8 (x / 256 ^ (y - peerKey p f))] else freeBytes Config.peerByte s.peerMem y 1) ∧
  (l = .void → s.SameBytes u)

/-- What writing a number at a location leaves. -/
theorem State.stored_writeAt {s s' u : State} (h : s.SameBytes s') (l : Loc) (n x : Nat) (hu : (s'.writeAt l (natToBytes n x)).SameBytes u) :
    s.Stored u l n x := by
  obtain ⟨hm, hs, hh, hp⟩ := h
  obtain ⟨um, us, uh, up⟩ := hu
  cases l with
  | main a =>
    refine ⟨us.trans hs, ?_, fun _ e => (nomatch e), fun _ _ e => (nomatch e), fun e => (nomatch e)⟩
    rintro pa (e | e)
    · obtain rfl := Loc.main.inj e
      exact ⟨uh.trans hh, up.trans hp, fun y => by rw [um, State.writeAt, ← hm]; exact Memory.read_writeBytes_natToBytes ..⟩
    · exact nomatch e
  | ls a =>
    refine ⟨us.trans hs, ?_, fun _ e => (nomatch e), fun _ _ e => (nomatch e), fun e => (nomatch e)⟩
    rintro pa (e | e)
    · exact nomatch e
    · obtain rfl := Loc.ls.inj e
      exact ⟨uh.trans hh, up.trans hp, fun y => by rw [um, State.writeAt, ← hm]; exact Memory.read_writeBytes_natToBytes ..⟩
  | host b =>
    refine ⟨us.trans hs, fun _ e => e.elim (fun e => nomatch e) (fun e => nomatch e), fun c e => ?_, fun _ _ e => (nomatch e), fun e => (nomatch e)⟩
    obtain rfl := Loc.host.inj e
    exact ⟨um.trans hm, up.trans hp, fun y => by rw [uh, State.writeAt, ← hh]; exact freeBytes_putBytes_natToBytes ..⟩
  | void =>
    exact ⟨us.trans hs, fun _ e => e.elim (fun e => nomatch e) (fun e => nomatch e), fun _ e => (nomatch e), fun _ _ e => (nomatch e),
      fun _ => ⟨um.trans hm, us.trans hs, uh.trans hh, up.trans hp⟩⟩
  | foreign p f =>
    refine ⟨us.trans hs, fun _ e => e.elim (fun e => nomatch e) (fun e => nomatch e), fun _ e => (nomatch e), fun q g e => ?_, fun e => (nomatch e)⟩
    obtain ⟨rfl, rfl⟩ := Loc.foreign.inj e
    exact ⟨um.trans hm, uh.trans hh, fun y => by rw [up, State.writeAt, ← hp]; exact freeBytes_putBytes_natToBytes ..⟩

/-! ### A store of the executing thread -/

/-- The store of the low `n` bytes of `x` at `ea`, as ST and TSTD make it. -/
def storeNat (s : State) (ea : Word) (n : Nat) (x : State → Nat) : State :=
  match checkMe s ea { w := true, size := n } with
  | (.error c, s) => trap s c ea
  | (.ok t, s) =>
    if hazard s (resolveAlias s.cur.core ea.toNat) then leave s 1 ea.toNat .reissue
    else storeMe s t (natToBytes n (x s)) none false ea.toNat

theorem store_eq_storeNat (s : State) (v a : BitVec 5) (i : BitVec 15) (n : Nat) : store s v a i n = storeNat s (s.ea a i) n (fun s => (s.S v).toNat) := rfl

theorem tstd_eq_storeNat (s : State) (a : BitVec 5) (b : BitVec 4) :
    exec (.tstd a b) s = .next (storeNat s (s.S a) 16 (fun s => (s.T b).toNat)) := rfl

section
variable {s s' : State} {n : Instr} {ea : Word} {size : Nat} {x : State → Nat} {t : Target}
variable (he : exec n s = .next (storeNat s ea size x))
include he

theorem storeNat_traps {c : Nat} (h : checkMe s ea { w := true, size := size } = (.error c, s')) : exec n s = .next (trap s' c ea) := by
  rw [he, storeNat, h]

variable (h : checkMe s ea { w := true, size := size } = (.ok t, s'))
include h

theorem storeNat_hazard (hz : hazard s' (resolveAlias s.cur.core ea.toNat) = true) : Retries s n 1 ea.toNat := by
  refine retries_of (t := s') ?_ (checkMe_keeps h)
  rw [he, storeNat, h]
  dsimp only
  rw [(checkMe_keeps h).touches.cur, if_pos hz]

variable (hz : hazard s' (resolveAlias s.cur.core ea.toNat) = false)
include hz

theorem storeNat_next : exec n s = .next (storeMe s' t (natToBytes size (x s')) none false ea.toNat) := by
  rw [he, storeNat, h]
  dsimp only
  rw [(checkMe_keeps h).touches.cur, if_neg (by rw [hz]; exact Bool.false_ne_true)]

theorem storeNat_retries {u : State} (hu : storeLine s' s'.myWho t (natToBytes size (x s')) none false = .error u) : Retries s n 1 ea.toNat := by
  obtain ⟨v, hv, e⟩ | ⟨a, lv, ha, -⟩ := storeMe_cases s' t (natToBytes size (x s')) none false ea.toNat
  · exact retries_of ((storeNat_next he h hz).trans (congrArg _ e)) ((checkMe_keeps h).then hv)
  · exact nomatch hu.symm.trans ha

theorem storeNat_asks {w : Stored} (hw : storeLine s' s'.myWho t (natToBytes size (x s')) none false = .ok w) :
    ∃ u, Asks s n u s.me ea.toNat ∧ s.Stored u t.loc size (x s') := by
  have hk := checkMe_keeps h
  obtain ⟨v, e, -⟩ | ⟨a, e, ht, hb⟩ := storeLine_cases s' s'.myWho t (natToBytes size (x s')) none false
  · exact nomatch hw.symm.trans e
  · obtain rfl := Except.ok.inj (hw.symm.trans e)
    have hs := storedMe_keeps t w ea.toNat (storeLevel s' s'.myWho t false)
    have hx : storeMe s' t (natToBytes size (x s')) none false ea.toNat =
        awaitStore (storedMe t w ea.toNat (storeLevel s' s'.myWho t false)) ea.toNat := by rw [storeMe, hw]
    exact ⟨_, asks_store ((storeNat_next he h hz).trans (congrArg _ hx)) (hk.touches.then (ht.then hs.touches)),
      State.stored_writeAt hk.bytes t.loc size (x s') ((hb.trans hs.bytes).trans (awaitStore_keeps _ _).bytes)⟩

end

theorem storeLine_noPlace (s : State) (w : Who) {t : Target} (h : t.loc.place = none) (bs : ByteList) : ∃ a, storeLine s w t bs none false = .ok a := by
  unfold storeLine
  dsimp only
  split
  · exact ⟨_, rfl⟩
  · rw [h]
    exact ⟨_, rfl⟩

/-- A check leaves the registers. -/
theorem State.Keeps.readS {s t : State} (h : s.Keeps t) (i : BitVec 5) : t.S i = s.S i :=
  ((Context.readS_regs t.me i).symm.trans (congrArg (Context.readS · i) h.touches.me_eq)).trans (Context.readS_regs s.me i)

/-- What a scalar store of `size` bytes does. -/
theorem store_writes {s : State} {n : Instr} {v a : BitVec 5} {i : BitVec 15} {size : Nat} (he : exec n s = .next (store s v a i size)) :
    let wr (s' : State) (t : Target) : Except State Stored := storeLine s' s'.myWho t (natToBytes size (s.S v).toNat) none false
    (∀ t s', checkMe s (s.ea a i) { w := true, size := size } = (.ok t, s') →
      (hazard s' (resolveAlias s.cur.core (s.ea a i).toNat) = false → (t.loc.place = none → ∃ a, wr s' t = .ok a) ∧
        (∀ u, wr s' t = .error u → Retries s n 1 (s.ea a i).toNat) ∧
        (∀ w, wr s' t = .ok w → ∃ u, Asks s n u s.me (s.ea a i).toNat ∧ s.Stored u t.loc size (s.S v).toNat)) ∧
      (hazard s' (resolveAlias s.cur.core (s.ea a i).toNat) = true → Retries s n 1 (s.ea a i).toNat)) ∧
    (∀ c s', checkMe s (s.ea a i) { w := true, size := size } = (.error c, s') → exec n s = .next (trap s' c (s.ea a i))) := by
  rw [store_eq_storeNat] at he
  refine ⟨fun t s' h => ⟨fun hz => ⟨fun hp => storeLine_noPlace _ _ hp _, fun u hu => ?_, fun w hw => ?_⟩, storeNat_hazard he h⟩,
    fun c s' h => storeNat_traps he h⟩
  · rw [← (checkMe_keeps h).readS v] at hu
    exact storeNat_retries he h hz hu
  · rw [← (checkMe_keeps h).readS v] at hw ⊢
    exact storeNat_asks he h hz hw

/-- Settles O9: all stores are the store of the low `size` bytes of S[v]. -/
theorem storesWriteMemory : Obligations.StoresWriteMemory := by
  unfold Obligations.StoresWriteMemory
  intro s v a i
  exact ⟨store_writes rfl, store_writes rfl, store_writes rfl, store_writes rfl⟩

end Sys2Proof.Machine
end

section
/-! SUPPORT. LDX, TLDD and TSTD (R61, R64 to R66, R150, R201): what LDX makes of a line, and the obligation on them. -/

namespace Sys2Proof.Machine

/-! ### What LDX reads (R150) -/

theorem patValue_some {c : Nat} (h : 1 ≤ c) (h' : c ≤ 6) (s : Int) (p : BitVec 32) : ∃ v, patValue c s p = some v := by
  have hcases : c = 1 ∨ c = 2 ∨ c = 3 ∨ c = 4 ∨ c = 5 ∨ c = 6 := by omega
  obtain rfl | rfl | rfl | rfl | rfl | rfl := hcases <;> exact ⟨_, rfl⟩

theorem sideScale_eq (x : Word) : sideScale x = x.extractLsb' 8 8 := by
  apply BitVec.eq_of_toNat_eq
  rw [sideScale, BitVec.toNat_ofNat, bitsOf_eq, BitVec.extractLsb'_toNat, Nat.shiftRight_eq_div_pow]
  omega

theorem sideFormat_eq (x : Word) : sideFormat x = x.toNat % 256 := by
  rw [sideFormat, bitsOf_eq]
  omega

theorem voidLine_iff (x : Word) : voidLine x = true ↔ (x.extractLsb' 8 8).toInt = -128 := by
  have h80 : (0x80#8 : BitVec 8).toInt = -128 := by decide
  have hbits : bitsOf x 15 8 = (x.extractLsb' 8 8).toNat := by
    rw [bitsOf_eq, BitVec.extractLsb'_toNat, Nat.shiftRight_eq_div_pow]
  rw [voidLine, decide_eq_true_iff, hbits, ← h80, BitVec.toInt_inj]
  exact BitVec.toNat_inj (y := 0x80#8)

section
variable {l : LineData × Word} {o : Nat}

theorem ldxValue_void (h : (l.2.extractLsb' 8 8).toInt = -128) : ldxValue l o = .ok (0, 0) := by
  rw [ldxValue]
  exact if_pos ((voidLine_iff l.2).mpr h)

variable (h : (l.2.extractLsb' 8 8).toInt ≠ -128)
include h

theorem ldxValue_format (hf : l.2.toNat % 256 = 0 ∨ 6 < l.2.toNat % 256) : ldxValue l o = .error 0x12 := by
  have hbad : l.2.toNat % 256 = 0 ∨ fclass (l.2.toNat % 256) = .cb2 ∨ fclass (l.2.toNat % 256) = .bad := by
    refine hf.imp id fun h6 => ?_
    rw [fclass_cb2]
    unfold fclass
    rw [if_neg (by omega), if_neg (by omega)]
    by_cases h8 : 8 ≤ l.2.toNat % 256 ∧ l.2.toNat % 256 ≤ 15
    · exact .inl h8
    · exact .inr (if_neg h8)
  rw [ldxValue, if_neg (fun hv => h ((voidLine_iff l.2).mp hv)), sideFormat_eq]
  exact if_pos hbad

theorem ldxValue_misaligned (h4 : 4 ≤ l.2.toNat % 256) (h6 : l.2.toNat % 256 ≤ 6) (ho : o % 4 ≠ 0) : ldxValue l o = .error 0x03 := by
  have hc : fclass (l.2.toNat % 256) = .b32 := fclass_b32.mpr ⟨h4, h6⟩
  rw [ldxValue, if_neg (fun hv => h ((voidLine_iff l.2).mp hv)), sideFormat_eq, hc]
  exact (if_neg (by simp; omega)).trans (if_pos ⟨rfl, ho⟩)

theorem ldxValue_b8 (h1 : 1 ≤ l.2.toNat % 256) (h3 : l.2.toNat % 256 ≤ 3) {v : XVal}
    (hv : patValue (l.2.toNat % 256) (l.2.extractLsb' 8 8).toInt (BitVec.ofNat 32 (lineBytes l.1 o 1)) = some v) :
    ldxValue l o = .ok (roundF32 .ne v) := by
  have hc : fclass (l.2.toNat % 256) = .b8 := if_pos h3
  rw [ldxValue, if_neg (fun hv => h ((voidLine_iff l.2).mp hv)), sideFormat_eq, sideScale_eq, hc]
  refine (if_neg (by simp; omega)).trans ((if_neg (by simp)).trans ?_)
  rw [if_neg (by decide), scaleInt]
  dsimp only
  rw [hv]

theorem ldxValue_b32 (h4 : 4 ≤ l.2.toNat % 256) (h6 : l.2.toNat % 256 ≤ 6) (ho : o % 4 = 0) {v : XVal}
    (hv : patValue (l.2.toNat % 256) (l.2.extractLsb' 8 8).toInt (BitVec.ofNat 32 (lineBytes l.1 o 4)) = some v) :
    ldxValue l o = .ok (roundF32 .ne v) := by
  have hc : fclass (l.2.toNat % 256) = .b32 := fclass_b32.mpr ⟨h4, h6⟩
  rw [ldxValue, if_neg (fun hv => h ((voidLine_iff l.2).mp hv)), sideFormat_eq, sideScale_eq, hc]
  refine (if_neg (by simp; omega)).trans ((if_neg (by simp [ho])).trans ?_)
  rw [if_pos rfl, scaleInt]
  dsimp only
  rw [hv]

end

/-! ### LDX -/

section
variable {s s' : State} {d a : BitVec 5} {i : BitVec 15} {t : Target}

theorem ldx_traps {c : Nat} (h : checkMe s (s.ea a i) { r := true, size := 1, align := false, ldx := true } = (.error c, s')) :
    exec (.ldx d a i) s = .next (trap s' c (s.ea a i)) := by
  show execLdx d a i s = _
  rw [execLdx, h]

variable (h : checkMe s (s.ea a i) { r := true, size := 1, align := false, ldx := true } = (.ok t, s'))
include h

theorem ldx_retries {u : State} (hl : loadLine s' s'.myWho t = .error u) : Retries s (.ldx d a i) 1 (s.ea a i).toNat := by
  refine retries_of (t := u) ?_ ((checkMe_keeps h).then ((loadLine_keeping s' s'.myWho t).1 u hl))
  show execLdx d a i s = _
  rw [execLdx, h]
  exact congrArg _ (withLine_error hl _ _)

variable {l : Loaded} (hl : loadLine s' s'.myWho t = .ok l)
include hl

theorem ldx_stops {c : Nat} (hv : ldxValue l.line t.loc.off = .error c) :
    exec (.ldx d a i) s = .next (trap (loadedMe s' l (s.ea a i).toNat) c (s.ea a i)) := by
  show execLdx d a i s = _
  rw [execLdx, h]
  refine congrArg _ ((withLine_ok hl _ _).trans ?_)
  dsimp only
  rw [hv]

theorem ldx_asks {v : BitVec 32} {f : Flags5} (hv : ldxValue l.line t.loc.off = .ok (v, f)) :
    ∃ u, Asks s (.ldx d a i) u { s.me.writeS d (v.setWidth 64) with lateFlags := f } (s.ea a i).toNat ∧ s.SameBytes u := by
  have hk := (checkMe_keeps h).then (loadedMe_keeps ((loadLine_keeping s' s'.myWho t).2 l hl) (s.ea a i).toNat)
  obtain ⟨u, hu⟩ : ∃ u, u = loadedMe s' l (s.ea a i).toNat := ⟨_, rfl⟩
  rw [← hu] at hk
  have hx : exec (.ldx d a i) s = .next (awaitReply ((u.setS d (v.setWidth 64)).setMe { (u.setS d (v.setWidth 64)).me with lateFlags := f }) (s.ea a i).toNat) := by
    show execLdx d a i s = _
    rw [execLdx, h]
    refine congrArg _ ((withLine_ok hl _ _).trans ?_)
    dsimp only
    rw [hv, ← hu]
  have ht := (hk.touches.setMe (u.me.writeS d (v.setWidth 64))).setMe { (u.setS d (v.setWidth 64)).me with lateFlags := f }
  refine ⟨_, asks_of hx (ht.of_regs ?_), ?_⟩
  · have e : (u.setS d (v.setWidth 64)).me = u.me.writeS d (v.setWidth 64) := State.me_setMe ..
    rw [e]
    have e' : (u.me.writeS d (v.setWidth 64)).regs = (s.me.writeS d (v.setWidth 64)).regs := by
      rw [Context.writeS_regs, hk.touches.me_eq, Context.writeS_regs]
    exact congrArg (fun y : Context => { y with lateFlags := f }) e'
  · rw [State.sameBytes_iff]
    simp [hk.bytes.bytes_eq]

end

/-! ### TLDD (R201) -/

section
variable {s s' : State} {d : BitVec 4} {a : BitVec 5} {t : Target}

theorem tldd_traps {c : Nat} (h : checkMe s (s.S a) { r := true, size := 16 } = (.error c, s')) : exec (.tldd d a) s = .next (trap s' c (s.S a)) := by
  show execTldd d a s = _
  rw [execTldd, h]

variable (h : checkMe s (s.S a) { r := true, size := 16 } = (.ok t, s'))
include h

theorem tldd_retries {u : State} (hl : loadLine s' s'.myWho t = .error u) : Retries s (.tldd d a) 1 (s.S a).toNat := by
  refine retries_of (t := u) ?_ ((checkMe_keeps h).then ((loadLine_keeping s' s'.myWho t).1 u hl))
  show execTldd d a s = _
  rw [execTldd, h]
  exact congrArg _ (withLine_error hl _ _)

theorem tldd_asks {l : Loaded} (hl : loadLine s' s'.myWho t = .ok l) :
    ∃ u, Asks s (.tldd d a) u (s.me.writeT d (BitVec.ofNat 128 (lineBytes l.line.1 t.loc.off 16))) (s.S a).toNat ∧ s.SameBytes u := by
  have hk := (checkMe_keeps h).then (loadedMe_keeps ((loadLine_keeping s' s'.myWho t).2 l hl) (s.S a).toNat)
  have ht := hk.touches.setMe ((loadedMe s' l (s.S a).toNat).me.writeT d (BitVec.ofNat 128 (lineBytes l.line.1 t.loc.off 16)))
  have hx : exec (.tldd d a) s = .next (awaitReply ((loadedMe s' l (s.S a).toNat).setT d (BitVec.ofNat 128 (lineBytes l.line.1 t.loc.off 16))) (s.S a).toNat) := by
    show execTldd d a s = _
    rw [execTldd, h]
    exact congrArg _ (withLine_ok hl _ _)
  refine ⟨_, asks_of hx (ht.of_regs ?_), ?_⟩
  · rw [Context.writeT_regs, hk.touches.me_eq, Context.writeT_regs]
  · rw [State.sameBytes_iff]
    simp [hk.bytes.bytes_eq]

end

theorem State.Keeps.readT {s t : State} (h : s.Keeps t) (i : BitVec 4) : t.T i = s.T i :=
  (congrArg (Context.readT · i) h.touches.me_eq : t.me.regs.readT i = s.me.regs.readT i)

/-- Settles O10: LDX by the value that it reads, the descriptor accesses as a load and a store of 16 bytes. -/
theorem elementAndDescriptorAccesses : Obligations.ElementAndDescriptorAccesses := by
  unfold Obligations.ElementAndDescriptorAccesses
  intro s d a i t4
  refine ⟨fun t s' h => ⟨fun l hl => ⟨fun hs => ?void, fun hs hf => ?format, fun hs h4 h6 ho => ?misaligned, fun hs h1 h3 => ?b8, fun hs h4 h6 ho => ?b32⟩,
      fun u hu => ldx_retries h hu⟩, fun c s' h => ldx_traps h, fun t s' h => ⟨fun l hl => tldd_asks h hl, fun u hu => tldd_retries h hu⟩,
    fun c s' h => tldd_traps h, fun t s' h => ⟨fun hz => ?hazard, fun hz => ⟨fun u hu => ?retries, fun w hw => ?stored⟩⟩, fun c s' h => ?tstdTraps⟩
  case void => exact ldx_asks h hl (ldxValue_void hs)
  case format => exact ldx_stops h hl (ldxValue_format hs hf)
  case misaligned => exact ldx_stops h hl (ldxValue_misaligned hs h4 h6 ho)
  case b8 =>
    obtain ⟨v, hv⟩ := patValue_some h1 (by omega) (l.line.2.extractLsb' 8 8).toInt (BitVec.ofNat 32 (lineBytes l.line.1 t.loc.off 1))
    exact ⟨v, hv, ldx_asks h hl (ldxValue_b8 hs h1 h3 hv)⟩
  case b32 =>
    obtain ⟨v, hv⟩ := patValue_some (by omega) h6 (l.line.2.extractLsb' 8 8).toInt (BitVec.ofNat 32 (lineBytes l.line.1 t.loc.off 4))
    exact ⟨v, hv, ldx_asks h hl (ldxValue_b32 hs h4 h6 ho hv)⟩
  case hazard => exact storeNat_hazard (tstd_eq_storeNat s a t4) h hz
  case retries =>
    rw [← (checkMe_keeps h).readT t4] at hu
    exact storeNat_retries (tstd_eq_storeNat s a t4) h hz hu
  case stored =>
    rw [← (checkMe_keeps h).readT t4] at hw ⊢
    obtain ⟨u, hu, side, own, -⟩ := storeNat_asks (tstd_eq_storeNat s a t4) h hz hw
    exact ⟨u, hu, side, fun pa hp => (own pa hp).2.2⟩
  case tstdTraps => exact storeNat_traps (tstd_eq_storeNat s a t4) h

end Sys2Proof.Machine
end

section
/-! SUPPORT. Replies and acknowledgements (R61, R83, R101, R187, R319), and the obligation on them. -/

namespace Sys2Proof.Machine

theorem State.Only.refl (s : State) : s.Only s s.me where
  rest := rfl
  core _ := rfl
  ctx r := by
    split
    · subst r; rfl
    · rfl

/-- Writing a register leaves the bookkeeping of waits and flags. -/
theorem Context.writeS_book (x : Context) (d : BitVec 5) (v : Word) : (x.writeS d v).wait = x.wait ∧ (x.writeS d v).pend = x.pend ∧
    (x.writeS d v).fflags = x.fflags ∧ (x.writeS d v).lateFlags = x.lateFlags := by
  unfold Context.writeS
  split
  · exact ⟨rfl, rfl, rfl, rfl⟩
  · split <;> exact ⟨rfl, rfl, rfl, rfl⟩

/-- The registers with the value that a barrier's answer holds for them (R187). -/
def Context.answered (x : Context) : Context := match x.answer with | some (d, v) => x.writeS d v | none => x

/-- A context whose reply has come, at cycle `now` (R61, R101). -/
def Context.replied (x : Context) (now : Nat) : Context :=
  { x.answered with answer := none, readyAt := now + 4, lastWait := x.waitKind, fflags := x.fflags ||| x.lateFlags, lateFlags := 0 }

theorem Context.answered_book (x : Context) : x.answered.wait = x.wait ∧ x.answered.pend = x.pend ∧ x.answered.fflags = x.fflags ∧
    x.answered.lateFlags = x.lateFlags := by
  unfold Context.answered
  split
  · exact x.writeS_book _ _
  · exact ⟨rfl, rfl, rfl, rfl⟩

/-- The value of a barrier's answer is written first. -/
def State.answered (s : State) : State := match s.me.answer with | some (d, v) => s.setS d v | none => s

theorem State.answered_only (s : State) : s.Only s.answered s.me.answered := by
  unfold State.answered Context.answered
  cases s.me.answer with
  | none => exact State.Only.refl s
  | some p => exact State.Only.setMe s _

theorem reply_eq (s : State) (r : ThreadRef) : reply s r = asThread s r (fun s' =>
    if decide (s'.answered.me.pend = Pend.landed) then boundary (s'.answered.setMe { s'.me.replied s'.cycle with wait := 0, pend := .none })
    else retire (s'.answered.setMe (s'.me.replied s'.cycle))) := by
  unfold reply
  refine congrArg (asThread s r) (funext fun s' => ?_)
  have ho := s'.answered_only
  have hcycle : s'.answered.cycle = s'.cycle := by rw [ho.rest]
  have hme : { s'.answered.me with readyAt := s'.answered.cycle + 4, lastWait := s'.answered.me.waitKind, answer := none, fflags := s'.answered.me.fflags ||| s'.answered.me.lateFlags, lateFlags := 0 } =
      s'.me.replied s'.cycle := by
    obtain ⟨hw, -, hf, hl⟩ := s'.me.answered_book
    have hk : s'.me.answered.waitKind = s'.me.waitKind := by rw [Context.waitKind, Context.waitKind, hw]
    rw [ho.me, hcycle, hk, hf, hl]
    rfl
  rw [← hme]
  rfl

/-- A reply retires the instruction of its thread. -/
theorem reply_retires {s : State} {r : ThreadRef} (h : (s.ctxOf r).pend = .reply) :
    ∃ u, ({ s with cur := r } : State).Only u (advance ((s.ctxOf r).replied s.cycle)) ∧ reply s r = { boundary u with cur := s.cur } := by
  have ho := State.answered_only { s with cur := r }
  obtain ⟨u, hu, e⟩ := retire_setMe (State.answered { s with cur := r }) ((s.ctxOf r).replied s.cycle)
  have hp : (State.answered { s with cur := r }).me.pend = .reply := by rw [ho.me, (Context.answered_book _).2.1]; exact h
  refine ⟨u, ho.trans hu, ?_⟩
  rw [reply_eq, asThread, if_neg (by rw [hp]; decide), ← e]
  rfl

/-- Bytes that have landed end the wait of their thread. -/
theorem reply_lands {s : State} {r : ThreadRef} (h : (s.ctxOf r).pend = .landed) :
    ∃ u, ({ s with cur := r } : State).Only u { (s.ctxOf r).replied s.cycle with wait := 0, pend := .none } ∧
      reply s r = { boundary u with cur := s.cur } := by
  have ho := State.answered_only { s with cur := r }
  have hp : (State.answered { s with cur := r }).me.pend = .landed := by rw [ho.me, (Context.answered_book _).2.1]; exact h
  refine ⟨_, ho.trans (State.Only.setMe _ { (s.ctxOf r).replied s.cycle with wait := 0, pend := .none }), ?_⟩
  rw [reply_eq, asThread, if_pos (by rw [hp]; decide)]
  rfl

theorem ctxExists_of {core ctx : Nat} (hc : core < 256) (hx : ctx < 24) : ctxExists core ctx = true := by
  simp [ctxExists, hc, hx]

theorem memoryReply_eq {s : State} {core ctx : Nat} (hc : core < 256) (hx : ctx < 24) (hst : (s.ctxOf ⟨core, ctx⟩).st = .bound)
    (ha : (s.ctxOf ⟨core, ctx⟩).acksDue = 0) (hp : (s.ctxOf ⟨core, ctx⟩).pend = .reply ∨ (s.ctxOf ⟨core, ctx⟩).pend = .landed) :
    exec (.memoryReply core ctx) s = .next (reply s ⟨core, ctx⟩) := by
  show execMemoryReply core ctx s = _
  rw [execMemoryReply, if_neg (by rw [ctxExists_of hc hx]; decide)]
  dsimp only
  rw [if_pos ⟨hst, ha, hp⟩]

theorem iackReceive_eq {s : State} {core ctx : Nat} (hc : core < 256) (hx : ctx < 24) (p : Party) : exec (.iackReceive ⟨p, ⟨core, ctx⟩⟩) s =
    if (s.ctxOf ⟨core, ctx⟩).acksDue = 0 then .next s
    else .next (if (s.ctxOf ⟨core, ctx⟩).acksDue = 1
      then State.post (s.setCtx ⟨core, ctx⟩ { s.ctxOf ⟨core, ctx⟩ with acksDue := (s.ctxOf ⟨core, ctx⟩).acksDue - 1 }) [.memoryReply core ctx]
      else s.setCtx ⟨core, ctx⟩ { s.ctxOf ⟨core, ctx⟩ with acksDue := (s.ctxOf ⟨core, ctx⟩).acksDue - 1 }) := by
  show execIackReceive ⟨p, ⟨core, ctx⟩⟩ s = _
  rw [execIackReceive]
  dsimp only
  rw [ctxExists_of hc hx]
  rfl

/-- An update of one context, seen from that context. -/
theorem State.Only.setCtx (s : State) (r : ThreadRef) (x : Context) : ({ s with cur := r } : State).Only { s.setCtx r x with cur := r } x :=
  State.Only.setMe { s with cur := r } x

/-- Settles O11: a reply is the equation of its operation, an acknowledgement an update of one counter. -/
theorem repliesRetire : Obligations.RepliesRetire := by
  unfold Obligations.RepliesRetire
  intro s core ctx p hc hx
  refine ⟨fun hst ha hp => ?reply, fun hst ha hp => ?landed, fun ha => ?none, fun ha => ?counts, fun ha => ?last⟩
  case reply =>
    obtain ⟨u, hu, e⟩ := reply_retires hp
    exact ⟨u, hu, (memoryReply_eq hc hx hst ha (.inl hp)).trans (congrArg _ e)⟩
  case landed =>
    obtain ⟨u, hu, e⟩ := reply_lands hp
    exact ⟨u, hu, (memoryReply_eq hc hx hst ha (.inr hp)).trans (congrArg _ e)⟩
  case none => rw [iackReceive_eq hc hx, if_pos ha]
  case counts =>
    refine ⟨_, ?_, State.Only.setCtx s ⟨core, ctx⟩ _⟩
    rw [iackReceive_eq hc hx, if_neg (by omega), if_neg (by omega)]
  case last =>
    refine ⟨_, ?_, State.Only.setCtx s ⟨core, ctx⟩ _⟩
    rw [iackReceive_eq hc hx, if_neg (by omega), if_pos ha, ha]

end Sys2Proof.Machine
end

section
/-! SUPPORT. Messages and their senders (R169, R173): what sending and accepting one leave. Replies to calls (R162, R164, R165, R167,
R245), and the obligation on them. -/

namespace Sys2Proof.Machine

/-! ### Sending and accepting -/

/-- Sending a message from a state that differs from `s` in nothing but what an access may touch. -/
theorem sends_of {s t : State} {i m : Instr} {x : Context} {kind obj : Nat} (he : exec i s = .next ((leave t kind obj .message).post [m]))
    (h : s.Touches t x) (hb : s.SameBytes t) : Sends s i x kind obj m := by
  obtain ⟨ht, hw, hm⟩ := h.leave kind obj .message [m]
  exact ⟨_, he, ht, hw, hm m (List.mem_singleton.mpr rfl), State.sameBytes_iff.mpr (by simp [hb.bytes_eq])⟩

/-- Waiting, to be issued again, from a state that differs from `s` in nothing that a program names. -/
theorem retries_with {s t : State} {i : Instr} {kind obj : Nat} (he : exec i s = .next (leave t kind obj .reissue)) (h : s.Keeps t) :
    Retries s i kind obj := by
  obtain ⟨ht, hw, -⟩ := h.touches.leave kind obj .reissue []
  rw [State.post_nil] at ht hw
  exact ⟨_, he, ht, hw, State.sameBytes_iff.mpr (by simp [h.bytes.bytes_eq])⟩

section
variable {s : State} {r : ThreadRef} (h : Awaits s r)
include h

theorem Awaits.exists : ctxExists r.core r.ctx = true := by
  obtain ⟨hc, hx, -, -⟩ := h
  exact ctxExists_of hc hx

theorem Awaits.waits : waitsFor s r = true := by
  obtain ⟨-, -, hst, hp⟩ := h
  simp [waitsFor, hst, hp]

/-- The operation of a message takes place where its sender waits for the answer. -/
theorem Awaits.passes {α : Type} (a b c : α) : (if !ctxExists r.core r.ctx then a else if !waitsFor s r then b else c) = c := by
  rw [h.exists, h.waits]
  rfl

end

@[simp] theorem accept_bytes (s : State) (r : ThreadRef) : (accept s r).bytes = s.bytes := rfl

theorem accept_ctxOf (s : State) (r q : ThreadRef) : (accept s r).ctxOf q = if q = r then { s.ctxOf r with pend := .reply } else s.ctxOf q :=
  State.ctxOf_setCtx ..

theorem accept_regs (s : State) (r q : ThreadRef) : ((accept s r).ctxOf q).regs = (s.ctxOf q).regs := by
  rw [accept_ctxOf]
  split
  · subst q; rfl
  · rfl

/-- What accepting a message leaves of every context. -/
theorem accept_fields (s : State) (r q : ThreadRef) : ((accept s r).ctxOf q).st = (s.ctxOf q).st ∧ ((accept s r).ctxOf q).rstate = (s.ctxOf q).rstate ∧
    ((accept s r).ctxOf q).reply = (s.ctxOf q).reply ∧ ((accept s r).ctxOf q).wait = (s.ctxOf q).wait := by
  rw [accept_ctxOf]
  split
  · subst q; exact ⟨rfl, rfl, rfl, rfl⟩
  · exact ⟨rfl, rfl, rfl, rfl⟩

theorem accept_reply (s : State) (r : ThreadRef) : .memoryReply r.core r.ctx ∈ (accept s r).agenda :=
  List.mem_append_right _ (List.mem_singleton.mpr rfl)

/-! ### Routes (R162) -/

theorem routeOf_bad {v : Word} (h : v.toNat ≥ 2 ^ 15 ∨ v.toNat / 4 % 32 > 23) : routeOf v = none := by
  have hv := v.isLt
  simp only [routeOf, bitsOf_eq]
  exact if_pos (by omega)

theorem routeOf_good {v : Word} (h : v.toNat < 2 ^ 15) (h' : v.toNat / 4 % 32 ≤ 23) :
    routeOf v = some (⟨v.toNat / 128, v.toNat / 4 % 32⟩, v.toNat % 4) := by
  have hv := v.isLt
  simp only [routeOf, bitsOf_eq]
  rw [if_neg (by omega)]
  refine congrArg some (Prod.ext ?_ (by omega))
  exact congrArg₂ ThreadRef.mk (by omega) (by omega)

theorem reply_bad {s : State} {a b : BitVec 5} (h : (s.S a).toNat ≥ 2 ^ 15 ∨ (s.S a).toNat / 4 % 32 > 23) : Traps s (.reply a b) 0x01 (s.S a) := by
  show execReply a b s = _
  rw [execReply, routeOf_bad h]

theorem reply_sends {s : State} {a b : BitVec 5} (h : (s.S a).toNat < 2 ^ 15) (h' : (s.S a).toNat / 4 % 32 ≤ 23) :
    Sends s (.reply a b) s.me 9 ((s.S a).toNat / 128) (.replyDelivery (s.S a) (s.S b) s.cur) := by
  refine sends_of ?_ (State.Touches.refl s) (State.SameBytes.refl s)
  show execReply a b s = _
  rw [execReply, routeOf_good h h']

/-! ### WAITR (R167) -/

section
variable {s : State} {d a : BitVec 5}

theorem waitr_empty (h : 3 < (s.S a).toNat ∨ SMap.get 0 s.me.rstate (s.S a).toNat = 0) : Traps s (.waitr d a) 0x01 (s.S a) := by
  show execWaitr d a s = _
  rw [execWaitr, if_pos h]

variable (h : (s.S a).toNat ≤ 3)
include h

theorem waitr_waits (h0 : SMap.get 0 s.me.rstate (s.S a).toNat ≠ 0) (h2 : SMap.get 0 s.me.rstate (s.S a).toNat ≠ 2) :
    Retries s (.waitr d a) 2 (s.S a).toNat := by
  refine retries_with (t := s) ?_ (State.Keeps.refl s)
  show execWaitr d a s = _
  rw [execWaitr, if_neg (not_or.mpr ⟨Nat.not_lt.mpr h, h0⟩), if_neg h2]

theorem waitr_takes (h2 : SMap.get 0 s.me.rstate (s.S a).toNat = 2) :
    Observes s (.waitr d a) ({ s.me with rstate := SMap.set 0 s.me.rstate (s.S a).toNat 0 }.writeS d (SMap.get 0 s.me.reply (s.S a).toNat)) := by
  obtain ⟨t, ht⟩ : ∃ t, t = s.setClk s.cur (max (s.clkOf s.cur + 1) (SMap.get 0 s.micro.stReply (4 * clockKey s.cur + (s.S a).toNat))) := ⟨_, rfl⟩
  obtain ⟨x, hx⟩ : ∃ x : Context, x = { s.me with rstate := SMap.set 0 s.me.rstate (s.S a).toNat 0 } := ⟨_, rfl⟩
  obtain ⟨u, hu, e⟩ := writeRetire_only (t.setMe x) d (SMap.get 0 s.me.reply (s.S a).toNat)
  rw [State.me_setMe] at hu
  rw [← hx]
  refine ⟨_, u, ht ▸ ((State.Only.setMe t x).trans hu), ?_⟩
  show execWaitr d a s = _
  rw [execWaitr, if_neg (not_or.mpr ⟨Nat.not_lt.mpr h, by rw [h2]; decide⟩), if_pos h2, ← e, ht, hx]
  rfl

end

/-! ### REPLY_DELIVERY (R164, R165, R245) -/

theorem waitWord_two {i : Nat} (h : i < 4) (x : Context) (hx : x.wait = waitWord 2 i) : x.waitKind = 2 ∧ x.waitObj = i := by
  have hn : (waitWord 2 i).toNat = 2 * 2 ^ 60 + i := by
    rw [waitWord, BitVec.toNat_ofNat]
    omega
  rw [Context.waitKind, Context.waitObj, hx, bitsOf_eq, bitsOf_eq, hn]
  omega

section
variable {s : State} {route value : Word} {k : ThreadRef}

theorem replyDelivery_eq (hk : Awaits s k) (h : route.toNat < 2 ^ 15) (h' : route.toNat / 4 % 32 ≤ 23) :
    exec (.replyDelivery route value k) s =
      let t := accept (s.setClk k (s.clkOf k + 1)) k
      let r : ThreadRef := ⟨route.toNat / 128, route.toNat / 4 % 32⟩
      let i := route.toNat % 4
      let x := t.ctxOf r
      if x.st ≠ .free ∧ SMap.get 0 x.rstate i = 1 then
        let u := t.setCtx r { x with reply := SMap.set 0 x.reply i value, rstate := SMap.set 0 x.rstate i 2 }
        let u := { u with micro := { u.micro with stReply := SMap.set 0 u.micro.stReply (4 * clockKey r + i) (max (SMap.get 0 u.micro.stReply (4 * clockKey r + i)) (u.clkOf k)) } }
        .next (if x.waitKind = 2 ∧ x.waitObj = i ∧ x.pend = .reissue then u.postWake r.core r.ctx else u)
      else .next t := by
  show execReplyDelivery route value k s = _
  rw [execReplyDelivery, hk.passes, routeOf_good h h']

/-- A value for a slot that does not wait for one is discarded. -/
theorem replyDelivery_discards (hk : Awaits s k) (h : route.toNat < 2 ^ 15) (h' : route.toNat / 4 % 32 ≤ 23)
    (hx : ¬ ((s.ctxOf ⟨route.toNat / 128, route.toNat / 4 % 32⟩).st ≠ .free ∧
      SMap.get 0 (s.ctxOf ⟨route.toNat / 128, route.toNat / 4 % 32⟩).rstate (route.toNat % 4) = 1)) :
    exec (.replyDelivery route value k) s = .next (accept (s.setClk k (s.clkOf k + 1)) k) := by
  obtain ⟨hst, hrs, hrp, -⟩ := accept_fields (s.setClk k (s.clkOf k + 1)) k ⟨route.toNat / 128, route.toNat / 4 % 32⟩
  rw [State.ctxOf_setClk] at hst hrs hrp
  rw [replyDelivery_eq hk h h']
  dsimp only
  rw [hst, hrs]
  exact if_neg hx

/-- An awaiting slot becomes full, and its thread is woken where it waits for it. -/
theorem replyDelivery_fills (hk : Awaits s k) (h : route.toNat < 2 ^ 15) (h' : route.toNat / 4 % 32 ≤ 23)
    (hx : (s.ctxOf ⟨route.toNat / 128, route.toNat / 4 % 32⟩).st ≠ .free)
    (h1 : SMap.get 0 (s.ctxOf ⟨route.toNat / 128, route.toNat / 4 % 32⟩).rstate (route.toNat % 4) = 1) :
    let r : ThreadRef := ⟨route.toNat / 128, route.toNat / 4 % 32⟩
    let i := route.toNat % 4
    let t := accept (s.setClk k (s.clkOf k + 1)) k
    ∃ u, u = t.setCtx r { t.ctxOf r with reply := SMap.set 0 (s.ctxOf r).reply i value, rstate := SMap.set 0 (s.ctxOf r).rstate i 2 } ∧
      ∃ m w, w = (if (t.ctxOf r).waitKind = 2 ∧ (t.ctxOf r).waitObj = i ∧ (t.ctxOf r).pend = .reissue
        then State.postWake { u with micro := m } r.core r.ctx else { u with micro := m }) ∧ exec (.replyDelivery route value k) s = .next w := by
  obtain ⟨hst, hrs, hrp, -⟩ := accept_fields (s.setClk k (s.clkOf k + 1)) k ⟨route.toNat / 128, route.toNat / 4 % 32⟩
  rw [State.ctxOf_setClk] at hst hrs hrp
  refine ⟨_, rfl, ?_⟩
  rw [replyDelivery_eq hk h h']
  dsimp only
  rw [hst, hrs, hrp]
  exact ⟨_, _, rfl, if_pos ⟨hx, h1⟩⟩

end

/-- A context with other reply slots. -/
def Context.slots (x : Context) (m : SMap Word) (n : SMap (BitVec 2)) : Context := { x with reply := m, rstate := n }

theorem Context.slots_regs (x : Context) (m : SMap Word) (n : SMap (BitVec 2)) : (x.slots m n).regs = x.regs.slots m n := rfl

/-- What a delivery leaves that fills its slot. -/
theorem delivered_fills {s : State} {r k : ThreadRef} {i : Nat} {value : Word} {c : Prop} [Decidable c] {t u w : State} {m : Micro}
    (ht : t = accept (s.setClk k (s.clkOf k + 1)) k)
    (hu : u = t.setCtx r ((t.ctxOf r).slots (SMap.set 0 (s.ctxOf r).reply i value) (SMap.set 0 (s.ctxOf r).rstate i 2)))
    (hw : w = if c then State.postWake { u with micro := m } r.core r.ctx else { u with micro := m }) :
    s.SameBytes w ∧ (w.ctxOf k).pend = .reply ∧ .memoryReply k.core k.ctx ∈ w.agenda ∧
      (∀ j, (w.ctxOf j).regs = if j = r then ((s.ctxOf r).slots (SMap.set 0 (s.ctxOf r).reply i value) (SMap.set 0 (s.ctxOf r).rstate i 2)).regs
        else (s.ctxOf j).regs) ∧ (c → .wake r.core r.ctx ∈ w.agenda) := by
  have hregs (j : ThreadRef) : (t.ctxOf j).regs = (s.ctxOf j).regs := by rw [ht, accept_regs, State.ctxOf_setClk]
  have hctx (j : ThreadRef) : w.ctxOf j = u.ctxOf j := by rw [hw]; split <;> rfl
  have hag : ∃ l, w.agenda = t.agenda ++ l ∧ (c → .wake r.core r.ctx ∈ l) := by
    rw [hw, hu]
    split
    · exact ⟨_, rfl, fun _ => List.mem_singleton.mpr rfl⟩
    · exact ⟨[], (List.append_nil _).symm, fun h => absurd h ‹_›⟩
  obtain ⟨l, hl, hwake⟩ := hag
  refine ⟨?_, ?_, ?_, fun j => ?_, fun hc => ?_⟩
  · have hb : u.bytes = s.bytes := by rw [hu, ht, State.setCtx_bytes, accept_bytes, State.setClk_bytes]
    rw [State.sameBytes_iff, hw, ← hb]
    split <;> rfl
  · rw [hctx, hu, State.ctxOf_setCtx]
    split
    · rename_i hkr
      show (t.ctxOf r).pend = .reply
      rw [ht, accept_ctxOf, if_pos hkr.symm]
    · rw [ht, accept_ctxOf, if_pos rfl]
  · rw [hl, ht]
    exact List.mem_append_left _ (accept_reply _ k)
  · rw [hctx, hu, State.ctxOf_setCtx]
    split
    · rw [Context.slots_regs, hregs, Context.slots_regs]
    · exact hregs j
  · rw [hl]
    exact List.mem_append_right _ (hwake hc)

/-- Settles O16: REPLY by the route it carries, WAITR by the state of its slot, and the delivery by the state of the slot that the route names. -/
theorem repliesFillSlots : Obligations.RepliesFillSlots := by
  unfold Obligations.RepliesFillSlots
  refine ⟨fun s d a b => ⟨reply_bad, fun h => ?sends, waitr_empty, fun h h2 => waitr_takes h h2, fun h h0 h2 => waitr_waits h h0 h2⟩,
    fun s route value k hk h h' => ?delivery⟩
  case sends => exact reply_sends (by omega) (by omega)
  case delivery =>
    by_cases hx : (s.ctxOf ⟨route.toNat / 128, route.toNat / 4 % 32⟩).st ≠ .free ∧
      SMap.get 0 (s.ctxOf ⟨route.toNat / 128, route.toNat / 4 % 32⟩).rstate (route.toNat % 4) = 1
    · obtain ⟨hst, h1⟩ := hx
      obtain ⟨u, hu, m, w, hw, e⟩ := replyDelivery_fills (value := value) hk h h' hst h1
      obtain ⟨hb, hp, hrep, hregs, hwake⟩ := delivered_fills (m := m) rfl hu hw
      refine ⟨w, e, hb, hp, hrep, fun hn => absurd (hn.resolve_left hst) (not_not_intro h1), fun _ _ => ⟨hregs, fun hwait hpend hne => hwake ?_⟩⟩
      obtain ⟨hk2, ho⟩ := waitWord_two (Nat.mod_lt _ (by decide)) _ hwait
      rw [accept_ctxOf, if_neg hne]
      exact ⟨hk2, ho, hpend⟩
    · refine ⟨_, replyDelivery_discards hk h h' hx, State.sameBytes_iff.mpr rfl, ?_, accept_reply _ k, fun _ j => ?_, fun h1 h2 => absurd ⟨h1, h2⟩ hx⟩
      · rw [accept_ctxOf, if_pos rfl]
      · rw [accept_regs, State.ctxOf_setClk]

end Sys2Proof.Machine
end

section
/-! SUPPORT. Queue descriptors and refusals (R36, R159, R160), the instructions on queues (R160, R161, R163), and the obligation on them. -/

namespace Sys2Proof.Machine

/-! ### Words of memory -/

theorem Memory.readBytes_add (mem : Memory) (a m n : Nat) : mem.readBytes a (m + n) = mem.readBytes a m ++ mem.readBytes (a + m) n := by
  induction m generalizing a with
  | zero => rw [Nat.zero_add]; rfl
  | succ m ih => rw [Nat.succ_add, Memory.readBytes, ih, Nat.succ_add_eq_add_succ]; rfl

theorem bytesToNat_eq_zero {l : ByteList} : bytesToNat l = 0 ↔ l.any (fun b => decide (b ≠ 0)) = false := by
  induction l with
  | nil => exact iff_of_true rfl rfl
  | cons b t ih =>
    rw [bytesToNat, List.any_cons, Bool.or_eq_false_iff, ← ih, Nat.add_eq_zero_iff, decide_eq_false_iff_not, not_not]
    refine and_congr ?_ (by omega)
    rw [← BitVec.toNat_inj]
    rfl

/-- The doubleword at `a` of main memory, as a number. -/
def Memory.word (mem : Memory) (a : Nat) : Nat := bytesToNat (mem.readBytes a 8)

theorem Memory.word_lt (mem : Memory) (a : Nat) : mem.word a < 2 ^ 64 := by
  have h := bytesToNat_lt (mem.readBytes a 8)
  rw [Memory.readBytes_length] at h
  exact h

theorem Memory.rest_zero (mem : Memory) (a : Nat) : (mem.readBytes a 32).any (fun b => decide (b ≠ 0)) = false ↔
    mem.word a = 0 ∧ mem.word (a + 8) = 0 ∧ mem.word (a + 16) = 0 ∧ mem.word (a + 24) = 0 := by
  rw [Memory.readBytes_add mem a 8 24, Memory.readBytes_add mem (a + 8) 8 16, Memory.readBytes_add mem (a + 8 + 8) 8 8]
  simp only [List.any_append, Bool.or_eq_false_iff, ← bytesToNat_eq_zero]
  rfl

theorem State.physWord_toNat {s : State} {a : Nat} (h : a + 8 ≤ s.capacity) : (s.physWord a).toNat = s.mem.word a := by
  rw [State.physWord, if_neg (by omega), BitVec.toNat_ofNat]
  exact Nat.mod_eq_of_lt (s.mem.word_lt a)

/-! ### Descriptors (R159) -/

/-- A queue's descriptor is valid and enabled, as its words say. -/
def State.QSound (s : State) (q : Nat) : Prop :=
  let a := s.qtable + 64 * q
  let w (k : Nat) := s.mem.word (a + 8 * k)
  let ring := w 0 % 2 ^ 52
  let c := w 1 % 32
  a + 64 ≤ s.capacity ∧ w 0 < 2 ^ 52 ∧ w 1 < 2 ^ 8 ∧ w 2 < 2 ^ 32 ∧ w 3 < 2 ^ 32 ∧ w 4 = 0 ∧ w 5 = 0 ∧ w 6 = 0 ∧
    w 7 = 0 ∧ 1 ≤ c ∧ c ≤ 20 ∧ ring % 2 ^ (c + 6) = 0 ∧ ring + 2 ^ (c + 6) ≤ s.capacity ∧ (w 1).testBit 5 = true

/-- The descriptor that the words of a queue stand for. -/
def State.qdesc (s : State) (q : Nat) : QDesc :=
  let a := s.qtable + 64 * q
  let w (k : Nat) := s.mem.word (a + 8 * k)
  ⟨w 0 % 2 ^ 52, w 1 % 32, (w 1).testBit 6, (w 1).testBit 7, w 2, w 3⟩

theorem bits_of_toNat {x : Word} {n : Nat} (h : x.toNat = n) : bitsOf x 51 0 = n % 2 ^ 52 ∧ bitsOf x 4 0 = n % 32 ∧ bitsOf x 31 0 = n % 2 ^ 32 ∧
    (bitsOf x 63 52 = 0 ↔ n < 2 ^ 52) ∧ (bitsOf x 63 8 = 0 ↔ n < 2 ^ 8) ∧ (bitsOf x 63 32 = 0 ↔ n < 2 ^ 32) ∧ ∀ i, x.getLsbD i = n.testBit i := by
  have hx := x.isLt
  simp only [bitsOf_eq, h] at hx ⊢
  refine ⟨by simp, by simp, by simp, by omega, by omega, by omega, fun i => ?_⟩
  rw [← h]
  rfl

/-- The words of a queue's descriptor, as numbers. -/
theorem queueWords {s : State} {q : Nat} (hcap : s.qtable + 64 * q + 64 ≤ s.capacity) :
    (s.physWord (s.queueAddr q)).toNat = s.mem.word (s.qtable + 64 * q + 8 * 0) ∧
    (s.physWord (s.queueAddr q + 8)).toNat = s.mem.word (s.qtable + 64 * q + 8 * 1) ∧
    (s.physWord (s.queueAddr q + 16)).toNat = s.mem.word (s.qtable + 64 * q + 8 * 2) ∧
    (s.physWord (s.queueAddr q + 24)).toNat = s.mem.word (s.qtable + 64 * q + 8 * 3) := by
  have hw (o : Nat) (ho : o ≤ 24) : (s.physWord (s.queueAddr q + o)).toNat = s.mem.word (s.qtable + 64 * q + o) :=
    State.physWord_toNat (by unfold State.queueAddr; omega)
  have hw0 := hw 0 (by decide)
  rw [Nat.add_zero, Nat.add_zero] at hw0
  rw [Nat.mul_zero, Nat.add_zero]
  exact ⟨hw0, hw 8 (by decide), hw 16 (by decide), hw 24 (by decide)⟩

theorem queueDesc_of_sound {s : State} {q : Nat} (h : s.QSound q) (hd : s.delivered (.main (s.qtable + 64 * q)) = true) :
    s.queueDesc q = some (s.qdesc q) := by
  obtain ⟨hcap, h0, h1, h2, h3, h4, h5, h6, h7, hc, hc', hr, hr', he⟩ := h
  obtain ⟨w0, w1, w2, w3⟩ := queueWords hcap
  obtain ⟨r0, -, -, z0, -, -, -⟩ := bits_of_toNat w0
  obtain ⟨-, c1, -, -, z1, -, b1⟩ := bits_of_toNat w1
  obtain ⟨-, -, n2, -, -, z2, -⟩ := bits_of_toNat w2
  obtain ⟨-, -, n3, -, -, z3, -⟩ := bits_of_toNat w3
  have hrest := (Memory.rest_zero s.mem (s.queueAddr q + 32)).mpr ⟨h4, h5, h6, h7⟩
  unfold State.queueDesc
  dsimp only
  rw [r0, c1, n2, n3, b1, b1, b1, hrest, Nat.mod_eq_of_lt h2, Nat.mod_eq_of_lt h3]
  refine if_neg ?_
  rintro (h | h | h | h | h | h | h | h | h | h | h | h)
  · exact absurd (hd.symm.trans h) (by decide)
  · exact absurd hcap (Nat.not_le.mpr h)
  · exact h (z0.mpr h0)
  · exact h (z1.mpr h1)
  · exact h (z2.mpr h2)
  · exact h (z3.mpr h3)
  · exact absurd h (by decide)
  · exact absurd hc (Nat.not_le.mpr h)
  · exact absurd hc' (Nat.not_le.mpr h)
  · exact h hr
  · exact absurd hr' (Nat.not_le.mpr h)
  · exact absurd (he.symm.trans h) (by decide)

theorem queueDesc_none {s : State} {q : Nat} (h : ¬ s.QSound q ∨ s.delivered (.main (s.qtable + 64 * q)) = false) : s.queueDesc q = none := by
  unfold State.queueDesc
  dsimp only
  refine if_pos ?_
  obtain h | h := h
  · by_contra hn
    simp only [not_or] at hn
    obtain ⟨hd, hcap, h0, h1, h2, h3, h4, hc, hc', hr, hr', he⟩ := hn
    have hcap' : s.qtable + 64 * q + 64 ≤ s.capacity := Nat.not_lt.mp hcap
    obtain ⟨w0, w1, w2, w3⟩ := queueWords hcap'
    obtain ⟨r0, -, -, z0, -, -, -⟩ := bits_of_toNat w0
    obtain ⟨-, c1, -, -, z1, -, b1⟩ := bits_of_toNat w1
    obtain ⟨-, -, n2, -, -, z2, -⟩ := bits_of_toNat w2
    obtain ⟨-, -, n3, -, -, z3, -⟩ := bits_of_toNat w3
    obtain ⟨e4, e5, e6, e7⟩ := (Memory.rest_zero s.mem (s.queueAddr q + 32)).mp (Bool.eq_false_iff.mpr h4)
    rw [c1] at hc hc'
    rw [r0, c1] at hr hr'
    rw [b1] at he
    exact h ⟨hcap', z0.mp (not_not.mp h0), z1.mp (not_not.mp h1), z2.mp (not_not.mp h2), z3.mp (not_not.mp h3), e4, e5, e6, e7,
      Nat.not_lt.mp hc, Nat.not_lt.mp hc', not_not.mp hr, Nat.not_lt.mp hr', Bool.eq_true_of_not_eq_false he⟩
  · exact .inl h

/-! ### Refusals (R160) -/

section
variable {s : State} {q : Nat} {user enq : Bool}

theorem queueRefusal_number (h : 4096 ≤ q) : queueRefusal s q user enq = some (0x01, BitVec.ofNat 64 q) := if_pos h

variable (hq : q < 4096)
include hq

theorem queueRefusal_undelivered (h : s.delivered (.main (s.qtable + 64 * q)) = false) :
    queueRefusal s q user enq = some (0x30, BitVec.ofNat 64 q) :=
  (if_neg (Nat.not_le.mpr hq)).trans (if_pos (by rw [State.queueAddr, h]; rfl))

variable (hd : s.delivered (.main (s.qtable + 64 * q)) = true)
include hd

theorem queueRefusal_unsound (h : ¬ s.QSound q) : queueRefusal s q user enq = some (0x01, BitVec.ofNat 64 q) := by
  rw [queueRefusal, if_neg (Nat.not_le.mpr hq), State.queueAddr, hd, queueDesc_none (.inl h)]
  rfl

variable (h : s.QSound q)
include h

/-- The refusals of an operation on a valid queue. -/
theorem queueRefusal_sound : queueRefusal s q user enq =
    if user && !(if enq then (s.qdesc q).userEnq else (s.qdesc q).userDeq) then some (0x04, BitVec.ofNat 64 q)
    else if enq && decide ((s.qdesc q).count ≥ 2 ^ (s.qdesc q).c) then some (0x18, BitVec.ofNat 64 q)
    else if !enq && decide ((s.qdesc q).count ≠ 0) && !s.delivered (.main ((s.qdesc q).slotAddr (s.qdesc q).head)) then some (0x30, BitVec.ofNat 64 q)
    else none := by
  rw [queueRefusal, if_neg (Nat.not_le.mpr hq), State.queueAddr, hd, queueDesc_of_sound h hd]
  rfl

theorem queueRefusal_user (hu : user = true) (hp : (if enq then (s.qdesc q).userEnq else (s.qdesc q).userDeq) = false) :
    queueRefusal s q user enq = some (0x04, BitVec.ofNat 64 q) := by
  rw [queueRefusal_sound hq hd h, hu, hp]
  rfl

variable (hp : (if enq then (s.qdesc q).userEnq else (s.qdesc q).userDeq) = true ∨ user = false)
include hp

/-- The refusals of an operation that the queue admits. -/
theorem queueRefusal_admitted : queueRefusal s q user enq =
    if enq && decide ((s.qdesc q).count ≥ 2 ^ (s.qdesc q).c) then some (0x18, BitVec.ofNat 64 q)
    else if !enq && decide ((s.qdesc q).count ≠ 0) && !s.delivered (.main ((s.qdesc q).slotAddr (s.qdesc q).head)) then some (0x30, BitVec.ofNat 64 q)
    else none := by
  rw [queueRefusal_sound hq hd h, if_neg]
  obtain hp | hu := hp
  · rw [hp, Bool.not_true, Bool.and_false]
    exact Bool.false_ne_true
  · rw [hu, Bool.false_and]
    exact Bool.false_ne_true

end

/-- The third clause of the refusals: those of a queue that admits the operation. -/
theorem queueRefusal_cases {s : State} {q : Nat} {user : Bool} (hq : q < 4096) (hd : s.delivered (.main (s.qtable + 64 * q)) = true) (h : s.QSound q) (enq : Bool)
    (hp : (if enq then (s.qdesc q).userEnq else (s.qdesc q).userDeq) = true ∨ user = false) :
    let g := s.qdesc q
    let bad := s.delivered (.main (g.slotAddr g.head))
    (enq = true → 2 ^ g.c ≤ g.count → queueRefusal s q user enq = some (0x18, BitVec.ofNat 64 q)) ∧
    (enq = true → g.count < 2 ^ g.c → queueRefusal s q user enq = none) ∧
    (enq = false → g.count ≠ 0 → bad = false → queueRefusal s q user enq = some (0x30, BitVec.ofNat 64 q)) ∧
    (enq = false → g.count = 0 ∨ bad = true → queueRefusal s q user enq = none) := by
  dsimp only
  rw [queueRefusal_admitted hq hd h hp]
  refine ⟨fun he hc => ?_, fun he hc => ?_, fun he hc hb => ?_, fun he hc => ?_⟩
  · rw [he, decide_eq_true hc]
    rfl
  · rw [he, decide_eq_false (Nat.not_le.mpr hc)]
    rfl
  · rw [he, decide_eq_true hc, hb]
    rfl
  · rw [he, Bool.false_and, if_neg Bool.false_ne_true, if_neg]
    obtain hc | hb := hc
    · rw [decide_eq_false (not_not_intro hc), Bool.and_false, Bool.false_and]
      exact Bool.false_ne_true
    · rw [hb, Bool.not_true, Bool.and_false]
      exact Bool.false_ne_true

/-! ### ENQ, DEQ, DEQT (R160, R161) -/

section
variable {s s' : State} {d a b : BitVec 5} {t : Target}

theorem enq_traps {c : Nat} (h : checkMe s (s.S b) { r := true, size := 64 } = (.error c, s')) : exec (.enq d a b) s = .next (trap s' c (s.S b)) := by
  show execEnq d a b s = _
  rw [execEnq, h]

theorem enq_retries {u : State} (h : checkMe s (s.S b) { r := true, size := 64 } = (.ok t, s')) (hl : loadLine s' s'.myWho t = .error u) :
    Retries s (.enq d a b) 1 (s.S b).toNat := by
  refine retries_of (t := u) ?_ ((checkMe_keeps h).then ((loadLine_keeping s' s'.myWho t).1 u hl))
  show execEnq d a b s = _
  rw [execEnq, h]
  exact congrArg _ (withLine_error hl _ _)

theorem State.Keeps.level {s t : State} (h : s.Keeps t) : t.me.level = s.me.level := by
  have := congrArg Context.level h.touches.me_eq
  exact this

theorem enq_sends {l : Loaded} (h : checkMe s (s.S b) { r := true, size := 64 } = (.ok t, s')) (hl : loadLine s' s'.myWho t = .ok l) :
    Sends s (.enq d a b) s.me 9 (s.S a).toNat (.homeEnqueue ⟨(s.S a).toNat, l.line.1, decide (s.me.level = .u), none, s.cur, d⟩) := by
  have hk := (checkMe_keeps h).then (loadedMe_keeps ((loadLine_keeping s' s'.myWho t).2 l hl) (s.S b).toNat)
  refine sends_of (t := loadedMe s' l (s.S b).toNat) ?_ hk.touches hk.bytes
  show execEnq d a b s = _
  rw [execEnq, h]
  refine congrArg _ ((withLine_ok hl _ _).trans ?_)
  rw [isUser, hk.level, hk.touches.cur]

theorem deq_traps {w : Bool} {c : Nat} (h : checkMe s (s.S b) { w := true, size := 64 } = (.error c, s')) : deq s d a b w = trap s' c (s.S b) := by
  rw [deq, h]

theorem deq_sends {i : Instr} {w : Bool} (he : exec i s = .next (deq s d a b w)) (h : checkMe s (s.S b) { w := true, size := 64 } = (.ok t, s')) :
    Sends s i s.me 5 (s.S a).toNat (.homeDequeue ⟨(s.S a).toNat, t, decide (s.me.level = .u), w, s.cur, d, s.S b⟩) := by
  have hk := checkMe_keeps h
  refine sends_of (t := s') ?_ hk.touches hk.bytes
  rw [he, deq, h]
  dsimp only
  rw [isUser, hk.level, hk.touches.cur]

end

/-! ### CALLAT (R163) -/

section
variable {s : State} {d a b : BitVec 5}

theorem callat_target (h : 256 ≤ (s.S a).toNat) : Traps s (.callat d a b) 0x01 (s.S a) := by
  have hx := (s.S a).isLt
  show execCallat d a b s = _
  rw [execCallat, bitsOf_eq, if_pos (by omega)]

theorem emptySlot_none {x : Context} (h : ∀ j < 4, SMap.get 0 x.rstate j ≠ 0) : emptySlot x = none := by
  refine List.find?_eq_none.mpr fun j hj => ?_
  rw [decide_eq_true_eq]
  exact h j (List.mem_range.mp hj)

theorem emptySlot_some {x : Context} {i : Nat} (hi : i < 4) (h : SMap.get 0 x.rstate i = 0) (hl : ∀ j < i, SMap.get 0 x.rstate j ≠ 0) :
    emptySlot x = some i := by
  refine List.find?_range_eq_some.mpr ⟨decide_eq_true h, List.mem_range.mpr hi, fun j hj => ?_⟩
  rw [decide_eq_false (hl j hj)]
  rfl

theorem callat_full (h : (s.S a).toNat < 256) (hf : ∀ j < 4, SMap.get 0 s.me.rstate j ≠ 0) : Traps s (.callat d a b) 0x19 0 := by
  have hx := (s.S a).isLt
  show execCallat d a b s = _
  rw [execCallat, bitsOf_eq, if_neg (by omega), emptySlot_none hf]

theorem callat_sends (h : (s.S a).toNat < 256) {i : Nat} (hi : emptySlot s.me = some i) :
    Sends s (.callat d a b) s.me 9 (s.S a).toNat
      (.homeEnqueue ⟨0xF00 + (s.S a).toNat, callRecord s.me (s.S b) (routeWord s.cur i), false, some i, s.cur, d⟩) := by
  have hx := (s.S a).isLt
  refine sends_of (t := s) ?_ (State.Touches.refl s) (State.SameBytes.refl s)
  show execCallat d a b s = _
  rw [execCallat, bitsOf_eq, if_neg (by omega), hi]

end

/-- A doubleword of a line, as a number. -/
theorem lineWord_toNat (l : LineData) (k : Nat) : (lineWord l (8 * k)).toNat = l.toNat / 2 ^ (64 * k) % 2 ^ 64 := by
  rw [lineWord, BitVec.toNat_setWidth, BitVec.toNat_ushiftRight, Nat.shiftRight_eq_div_pow, ← Nat.mul_assoc]

/-- The eight doublewords of the record that CALLAT enqueues. -/
theorem callRecord_words (x : Context) (code route : Word) :
    let r := callRecord x code route
    lineWord r 0 = code ∧ lineWord r 8 = route ∧ lineWord r 16 = 0 ∧ lineWord r 24 = x.readS 1 ∧ lineWord r 32 = x.readS 2 ∧
      lineWord r 40 = x.readS 3 ∧ lineWord r 48 = x.readS 4 ∧ lineWord r 56 = x.rcb.setWidth 64 := by
  have h0 := code.isLt
  have h1 := route.isLt
  have h2 := (x.readS 1).isLt
  have h3 := (x.readS 2).isLt
  have h4 := (x.readS 3).isLt
  have h5 := (x.readS 4).isLt
  have h6 := x.rcb.isLt
  have hn : (callRecord x code route).toNat = code.toNat + route.toNat * 2 ^ 64 + (x.readS 1).toNat * 2 ^ (64 * 3) + (x.readS 2).toNat * 2 ^ (64 * 4)
      + (x.readS 3).toNat * 2 ^ (64 * 5) + (x.readS 4).toNat * 2 ^ (64 * 6) + x.rcb.toNat * 2 ^ (64 * 7) := by
    rw [callRecord, BitVec.toNat_ofNat]
    exact Nat.mod_eq_of_lt (by omega)
  have hw (k : Nat) (v : Word) (h : (callRecord x code route).toNat / 2 ^ (64 * k) % 2 ^ 64 = v.toNat) : lineWord (callRecord x code route) (8 * k) = v :=
    BitVec.eq_of_toNat_eq ((lineWord_toNat _ k).trans h)
  have hrcb : (x.rcb.setWidth 64).toNat = x.rcb.toNat := by rw [BitVec.toNat_setWidth]; omega
  refine ⟨hw 0 _ ?_, hw 1 _ ?_, hw 2 0 ?_, hw 3 _ ?_, hw 4 _ ?_, hw 5 _ ?_, hw 6 _ ?_, hw 7 _ ?_⟩
  all_goals rw [hn]
  · omega
  · omega
  · rw [show (0 : Word).toNat = 0 from rfl]
    omega
  · omega
  · omega
  · omega
  · omega
  · rw [hrcb]
    omega

/-- Settles O14: a descriptor by its words, the refusals in the table's order, and each instruction by its equation. -/
theorem queueInstructionsCheckAndSend : Obligations.QueueInstructionsCheckAndSend := by
  unfold Obligations.QueueInstructionsCheckAndSend
  refine ⟨fun s q user enq => ⟨fun h => queueDesc_none h, fun h hd => queueDesc_of_sound h hd, queueRefusal_number,
      fun hq hd => queueRefusal_undelivered hq hd, fun hq hd => ⟨queueRefusal_unsound hq hd, fun h hp hu => ?user, fun h hp => ?admitted⟩⟩,
    fun s d a b => ⟨fun t s' h => ⟨fun l hl => enq_sends h hl, fun u hu => enq_retries h hu⟩, fun c s' h => enq_traps h,
      fun t s' h => ⟨deq_sends rfl h, deq_sends rfl h⟩, fun c s' h => ⟨congrArg _ (deq_traps h), congrArg _ (deq_traps h)⟩,
      callat_target, callat_full, fun h i hi h0 hl => ?call⟩⟩
  case user => exact queueRefusal_user hq hd h hu (by cases enq <;> exact hp)
  case admitted => exact queueRefusal_cases hq hd h enq (by cases enq <;> exact hp)
  case call =>
    obtain ⟨w0, w1, w2, w3, w4, w5, w6, w7⟩ := callRecord_words s.me (s.S b) (routeWord s.cur i)
    refine ⟨_, callat_sends h (emptySlot_some hi h0 hl), w0, w1.trans ?_, w2, w3, w4, w5, w6, w7⟩
    rw [routeWord, Nat.mod_eq_of_lt hi]

end Sys2Proof.Machine
end

section
/-! SUPPORT. What stands at homes and what is done there for a waiting thread: gates, stores of the package's own, answers (R153, R169, R173, R305). -/

namespace Sys2Proof.Machine

/-! ### From another thread's point of view -/

theorem State.Touches.regsOf {s t : State} (h : s.Touches t s.me) (r : ThreadRef) : (t.ctxOf r).regs = (s.ctxOf r).regs := by
  rw [h.regs]
  split
  · rename_i e
    subst e
    rfl
  · rfl

/-- What touches no register touches none, whoever executes. -/
theorem State.Touches.at {s t : State} (h : s.Touches t s.me) (r : ThreadRef) :
    ({ s with cur := r } : State).Touches { t with cur := r } (s.ctxOf r) where
  rest := by
    have hr := h.rest
    rw [hr]
  sdie := h.sdie
  core := h.core
  regs q := by
    refine (h.regsOf q).trans ?_
    split
    · rename_i e
      rw [e]
    · rfl

theorem State.Keeps.regs {s t : State} (h : s.Keeps t) (r : ThreadRef) : (t.ctxOf r).regs = (s.ctxOf r).regs := h.touches.regsOf r

/-! ### Gates (R305, R323) -/

/-- A gate changes what homes and the network hold. -/
theorem homeGate_cores (s : State) (line core : Nat) (k : FwdKind) (i : Instr) :
    (∀ t, homeGate s line core k i = .error t → t.cores = s.cores) ∧ (∀ t, homeGate s line core k i = .ok t → t.cores = s.cores) := by
  unfold homeGate
  dsimp only
  constructor <;> intro t h <;> (repeat' split at h) <;> cases h <;> rfl

theorem accessGate_cores (s : State) (w : Who) (line : Nat) (k : FwdKind) :
    (∀ t, accessGate s w line k = .error t → t.cores = s.cores) ∧ (∀ t, accessGate s w line k = .ok t → t.cores = s.cores) := by
  unfold accessGate
  split
  · exact homeGate_cores ..
  · exact ⟨fun t h => (nomatch h), fun t h => by cases h; rfl⟩

theorem atomicGate_noPlace (s : State) (w : Who) {t : Target} (h : t.loc.place = none) : atomicGate s w t = .ok s := by
  rw [atomicGate, h]

theorem atomicGate_error {s u : State} {w : Who} {t : Target} (h : atomicGate s w t = .error u) : s.Keeps u ∧ u.cores = s.cores := by
  unfold atomicGate at h
  split at h
  · exact ⟨(accessGate_keeps ..).1 u h, (accessGate_cores ..).1 u h⟩
  · exact nomatch h

theorem atomicGate_ok {s u : State} {w : Who} {t : Target} (h : atomicGate s w t = .ok u) : s.Keeps u := by
  unfold atomicGate at h
  split at h
  · exact (accessGate_keeps ..).2 u h
  · cases h
    exact State.Keeps.refl s

/-! ### Stores of the package's own -/

/-- A store of a party that waits nowhere is made. -/
theorem storeLine_quiet (s : State) (w : Who) (t : Target) (bs : ByteList) (side : Option Word) :
    ∃ a, storeLine s { w with self := none, thread := none } t bs side true = .ok a := by
  unfold storeLine
  dsimp only
  split
  · exact ⟨_, rfl⟩
  · split
    · exact ⟨_, rfl⟩
    · exact ⟨_, rfl⟩

/-- It writes its bytes at its location, and touches no register. -/
theorem storeQuiet_stores (s : State) (w : Who) (t : Target) (bs : ByteList) (side : Option Word) :
    s.Touches (storeQuiet s w t bs side).2.2 s.me ∧ (s.writeBoth t.loc bs side).SameBytes (storeQuiet s w t bs side).2.2 := by
  obtain ⟨a, ha⟩ := storeLine_quiet s w t bs side
  obtain ⟨u, e, -⟩ | ⟨a', e, h⟩ := storeLine_cases s { w with self := none, thread := none } t bs side true
  · exact nomatch ha.symm.trans e
  · rw [storeQuiet, e]
    exact h

/-- An atomic writes its bytes at its operand, and touches no register. -/
theorem atomicAt_stores (s : State) (w : Who) (t : Target) (bs : ByteList) :
    s.Touches (atomicAt s w t bs).2.2 s.me ∧ (s.writeAt t.loc bs).SameBytes (atomicAt s w t bs).2.2 := by
  unfold atomicAt
  split
  · rename_i pa _
    have h := storeHome_keeps s w t pa (max (w.clk + 1) s.micro.minClk) bs none true
    exact ⟨(writeBoth_touches s t.loc bs none).then h.touches, h.bytes⟩
  · exact storeQuiet_stores s w t bs none

/-! ### Answers (R83, R173, R319) -/

theorem answer_keeps (t : State) : t.Keeps (answer t) := by
  have h : t.Keeps (t.setMe { t.me with pend := .reply }) := State.Keeps.setMe t _ (Context.pend_regs t.me .reply)
  unfold answer
  dsimp only
  split
  · exact h.then (State.Keeps.post _ _)
  · exact h

theorem answer_me (t : State) : (answer t).me = { t.me with pend := .reply } := by
  unfold answer
  dsimp only
  split <;> exact State.me_setMe ..

theorem answer_reply (t : State) (h : t.me.acksDue = 0) : .memoryReply t.cur.core t.cur.ctx ∈ (answer t).agenda := by
  unfold answer
  dsimp only
  rw [State.me_setMe, if_pos h]
  exact List.mem_append_right _ (List.mem_singleton.mpr rfl)

/-- Answering a thread: what the answer leaves, seen from the thread, is what it leaves. -/
theorem answers_from {s u : State} {i : Instr} {r : ThreadRef} {x : Context} (he : exec i s = .next { u with cur := s.cur })
    (h : ({ s with cur := r } : State).Touches u x) (hp : u.me.pend = .reply)
    (hr : u.me.acksDue = 0 → .memoryReply u.cur.core u.cur.ctx ∈ u.agenda) : Answers s i r x { u with cur := s.cur } := by
  have hcur : u.cur = r := h.cur
  have hself : ({ u with cur := r } : State) = u := by rw [← hcur]
  have hme : u.ctxOf r = u.me := by rw [State.me, hcur]
  refine ⟨he, rfl, ?_, ?_, fun ha => ?_⟩
  · show ({ s with cur := r } : State).Touches { u with cur := r } x
    rw [hself]
    exact h
  · show (u.ctxOf r).pend = .reply
    rw [hme, hp]
  · have ha' : (u.ctxOf r).acksDue = 0 := ha
    rw [hme] at ha'
    have := hr ha'
    rw [hcur] at this
    exact this

/-- Answering a thread from a state that differs from `s` in nothing but what an access of that thread may touch. -/
theorem answers_of {s t : State} {i : Instr} {r : ThreadRef} {x : Context} (he : exec i s = .next { answer t with cur := s.cur })
    (h : ({ s with cur := r } : State).Touches t x) : Answers s i r x { answer t with cur := s.cur } := by
  refine answers_from he ((h.trans (answer_keeps t).touches).of_regs h.meRegs) (by rw [answer_me]) fun ha => ?_
  rw [answer_me] at ha
  rw [(answer_keeps t).touches.cur]
  exact answer_reply t ha

end Sys2Proof.Machine
end

section
/-! SUPPORT. Atomics (R153 to R155, R271): the request, what each member makes of the old value, the home's member, and the obligation on them. -/

namespace Sys2Proof.Machine

/-! ### The request (R153) -/

section
variable {s s' : State} {i : Instr} {d a b : BitVec 5} {n : Nat} {op : AmoOp} {t : Target}
variable (he : exec i s = .next (atomic s d a b n op))
include he

theorem atomic_traps {c : Nat} (h : checkMe s (s.S a) { r := true, w := true, size := n, atomic := true } = (.error c, s')) :
    exec i s = .next (trap s' c (s.S a)) := by
  rw [he, atomic, h]

variable (h : checkMe s (s.S a) { r := true, w := true, size := n, atomic := true } = (.ok t, s'))
include h

theorem atomic_retries (hz : hazard s' (resolveAlias s.cur.core (s.S a).toNat) = true) : Retries s i 1 (s.S a).toNat := by
  refine retries_of (t := s') ?_ (checkMe_keeps h)
  rw [he, atomic, h]
  dsimp only
  rw [(checkMe_keeps h).touches.cur, if_pos hz]

theorem atomic_sends (hz : hazard s' (resolveAlias s.cur.core (s.S a).toNat) = false) :
    Sends s i s.me 1 (s.S a).toNat (.homeAtomic ⟨t, n, op, BitVec.ofNat 64 ((s.S b).toNat % 2 ^ (8 * n)), s.cur, d⟩) := by
  have hk := checkMe_keeps h
  refine sends_of (t := s') ?_ hk.touches hk.bytes
  rw [he, atomic, h]
  dsimp only
  rw [hk.touches.cur, if_neg (by rw [hz]; exact Bool.false_ne_true), hk.readS b]

end

/-! ### What a member makes of the old value (R154, R155) -/

/-- A number of `n` bytes as a signed one. -/
def signedOf (n v : Nat) : Int := if v < 2 ^ (8 * n - 1) then v else v - 2 ^ (8 * n)

theorem toInt_ofNat_eq {w v : Nat} (hw : 0 < w) (h : v < 2 ^ w) : (BitVec.ofNat w v).toInt = if v < 2 ^ (w - 1) then (v : Int) else (v : Int) - 2 ^ w := by
  rw [BitVec.toInt_eq_toNat_cond, BitVec.toNat_ofNat, Nat.mod_eq_of_lt h]
  have hp : 2 ^ w = 2 * 2 ^ (w - 1) := by rw [← Nat.pow_succ']; congr 1; omega
  by_cases hv : v < 2 ^ (w - 1)
  · rw [if_pos hv, if_pos (by omega)]
  · rw [if_neg hv, if_neg (by omega)]
    push_cast
    rfl

theorem signedOf_eq {n v : Nat} (hn : 0 < n) (h : v < 2 ^ (8 * n)) : (BitVec.ofNat (8 * n) v).toInt = signedOf n v :=
  toInt_ofNat_eq (by omega) h

theorem sext_signedOf {n v : Nat} (hn : n = 4 ∨ n = 8) (h : v < 2 ^ (8 * n)) : sext v (8 * n) = BitVec.ofInt 64 (signedOf n v) := by
  rw [← signedOf_eq (by omega) h]
  obtain rfl | rfl := hn <;> rfl

/-- The value that a member leaves in memory: what it writes, or, where it writes nothing, the old value. -/
def amoValue (op : AmoOp) (n m y : Nat) : Nat := (amoNew op n m y).getD m

/-- What each member writes. -/
theorem amoValue_spec {op : AmoOp} {n m y : Nat} (hn : n = 4 ∨ n = 8) (hm : m < 2 ^ (8 * n)) (hy : y < 2 ^ (8 * n)) :
    match op with
    | .add => amoValue op n m y = (m + y) % 2 ^ (8 * n)
    | .and => ∀ j, (amoValue op n m y).testBit j = (m.testBit j && y.testBit j)
    | .or => ∀ j, (amoValue op n m y).testBit j = (m.testBit j || y.testBit j)
    | .xor => ∀ j, (amoValue op n m y).testBit j = (m.testBit j ^^ y.testBit j)
    | .min => amoValue op n m y = if signedOf n m ≤ signedOf n y then m else y
    | .max => amoValue op n m y = if signedOf n m ≥ signedOf n y then m else y
    | .minu => amoValue op n m y = if m ≤ y then m else y
    | .maxu => amoValue op n m y = if m ≥ y then m else y
    | .swp => amoValue op n m y = y
    | .cas e => amoValue op n m y = if m = e.toNat % 2 ^ (8 * n) then y else m := by
  have hpos : 0 < n := by omega
  cases op with
  | add => rfl
  | and => exact fun j => Nat.testBit_and m y j
  | or => exact fun j => Nat.testBit_or m y j
  | xor => exact fun j => Nat.testBit_xor m y j
  | min => rw [← signedOf_eq hpos hm, ← signedOf_eq hpos hy]; rfl
  | max => rw [← signedOf_eq hpos hm, ← signedOf_eq hpos hy]; rfl
  | minu => rfl
  | maxu => rfl
  | swp => rfl
  | cas e =>
    simp only [amoValue, amoNew]
    split <;> rfl

/-! ### The bytes that it writes -/

/-- The bytes of a member: those of its value, or none. -/
def amoBytes (op : AmoOp) (n m y : Nat) : ByteList :=
  match amoNew op n m y with
  | some v => natToBytes n v
  | none => []

/-- A byte of a number that bytes stand for. -/
theorem byte_of_bytes (l : ByteList) (j : Nat) (h : j < l.length) : BitVec.ofNat 8 (bytesToNat l / 256 ^ j) = l[j] := by
  induction l generalizing j with
  | nil => exact absurd h (Nat.not_lt_zero j)
  | cons b t ih =>
    obtain _ | j := j
    · apply BitVec.eq_of_toNat_eq
      have := b.isLt
      rw [bytesToNat, Nat.pow_zero, Nat.div_one, BitVec.toNat_ofNat, List.getElem_cons_zero]
      omega
    · rw [List.getElem_cons_succ, ← ih j (Nat.lt_of_succ_lt_succ h), bytesToNat, Nat.pow_succ', ← Nat.div_div_eq_div_mul,
        Nat.add_mul_div_left _ _ (by decide), Nat.div_eq_of_lt b.isLt, Nat.zero_add]

theorem Memory.readBytes_get (mem : Memory) (a n j : Nat) (h : j < (mem.readBytes a n).length) : (mem.readBytes a n)[j] = mem.read (a + j) := by
  induction n generalizing a j with
  | zero => exact absurd h (Nat.not_lt_zero j)
  | succ n ih =>
    obtain _ | j := j
    · rfl
    · exact (ih (a + 1) j (Nat.lt_of_succ_lt_succ h)).trans (congrArg mem.read (by omega))

/-- Memory holds the bytes of the number that is read from it. -/
theorem Memory.read_of_readBytes (mem : Memory) {a n x : Nat} (h : a ≤ x) (h' : x < a + n) :
    BitVec.ofNat 8 (bytesToNat (mem.readBytes a n) / 256 ^ (x - a)) = mem.read x := by
  have hlt : x - a < (mem.readBytes a n).length := by rw [Memory.readBytes_length]; omega
  rw [byte_of_bytes _ _ hlt, Memory.readBytes_get]
  congr 1
  omega

/-- What a member leaves in memory. -/
theorem amo_stored {s s' u : State} (h : s.SameBytes s') (l : Loc) (op : AmoOp) (n y : Nat)
    (hu : (s'.writeAt l (amoBytes op n (bytesToNat (s.bytesAt l n)) y)).SameBytes u) :
    u.side = s.side ∧ ∀ pa, l = .main pa ∨ l = .ls pa → u.hostMem = s.hostMem ∧ u.peerMem = s.peerMem ∧ ∀ a, u.mem.read a =
      if pa ≤ a ∧ a < pa + n then BitVec.ofNat 8 (amoValue op n (bytesToNat (s.bytesAt l n)) y / 256 ^ (a - pa)) else s.mem.read a := by
  unfold amoBytes at hu
  unfold amoValue
  cases hn : amoNew op n (bytesToNat (s.bytesAt l n)) y with
  | some v =>
    rw [hn] at hu
    obtain ⟨side, own, -⟩ := State.stored_writeAt h l n v hu
    exact ⟨side, own⟩
  | none =>
    rw [hn] at hu
    have hsame : s.SameBytes u := by
      refine h.trans (State.SameBytes.trans ?_ hu)
      cases l <;> exact ⟨rfl, rfl, rfl, rfl⟩
    refine ⟨hsame.side, fun pa hl => ⟨hsame.host, hsame.peer, fun a => ?_⟩⟩
    have hb : s.bytesAt l n = s.mem.readBytes pa n := by obtain rfl | rfl := hl <;> rfl
    rw [hsame.mem, Option.getD_none, hb]
    split
    · rename_i hr
      obtain ⟨hr, hr'⟩ := hr
      exact (Memory.read_of_readBytes s.mem hr hr').symm
    · rfl

/-! ### The home's member (R153, R271, R305) -/

section
variable {s : State} {q : AtomicReq}

/-- The party of an atomic's requester. -/
def atomicParty (s : State) (q : AtomicReq) : Who := { whoOf s q.who with self := some (.homeAtomic q) }

/-- The operation where its requester waits. -/
theorem homeAtomic_eq (hk : Awaits s q.who) : exec (.homeAtomic q) s =
    .next (match pointFault s (atomicParty s q) q.t, atomicGate s (atomicParty s q) q.t with
      | some c, _ => refuse s q.who (c, BitVec.ofNat 64 (s.ctxOf q.who).waitObj)
      | none, .error s => s
      | none, .ok s' =>
        let a := atomicAt s' (atomicParty s q) q.t (amoBytes q.op q.n (bytesToNat (s.bytesAt q.t.loc q.n)) q.y.toNat)
        asThread a.2.2 q.who (fun s'' => answer ((storedMe q.t (a.1, a.2.1, s'') s''.me.waitObj (storeLevel s (atomicParty s q) q.t true)).setS q.d
          (sext (bytesToNat (s.bytesAt q.t.loc q.n)) (8 * q.n))))) := by
  show execHomeAtomic q s = _
  rw [execHomeAtomic, hk.passes] <;> rfl

theorem pointFault_bank {w : Who} {t : Target} {a : Nat} (ht : t.loc = .ls a) (h : bankOwned s w a = false) : pointFault s w t = some 0x0A := by
  rw [pointFault, bankFault, ht]
  dsimp only
  rw [h]
  rfl

theorem bankFault_none {w : Who} {t : Target} (h : ∀ a, t.loc = .ls a → bankOwned s w a = true) (rd : Bool) : bankFault s w t rd = none := by
  unfold bankFault
  split
  · rename_i a ht
    exact if_pos (h a ht)
  · rfl

theorem pointFault_owned {w : Who} {t : Target} (h : ∀ a, t.loc = .ls a → bankOwned s w a = true) :
    pointFault s w t = if s.delivered t.loc then none else some 0x30 := by
  rw [pointFault, bankFault_none h]

theorem homeAtomic_refuses (hk : Awaits s q.who) {c : Nat} (h : pointFault s (atomicParty s q) q.t = some c) :
    TrapsThread s (.homeAtomic q) s q.who c (BitVec.ofNat 64 (s.ctxOf q.who).waitObj) := by
  rw [TrapsThread, homeAtomic_eq hk, h]
  rfl

theorem homeAtomic_stands (hk : Awaits s q.who) {u : State} (h : pointFault s (atomicParty s q) q.t = none) (hg : atomicGate s (atomicParty s q) q.t = .error u) :
    exec (.homeAtomic q) s = .next u := by
  rw [homeAtomic_eq hk, h, hg]

theorem homeAtomic_answers (hk : Awaits s q.who) {s' : State} (h : pointFault s (atomicParty s q) q.t = none) (hg : atomicGate s (atomicParty s q) q.t = .ok s') :
    ∃ u, Answers s (.homeAtomic q) q.who ((s.ctxOf q.who).writeS q.d (sext (bytesToNat (s.bytesAt q.t.loc q.n)) (8 * q.n))) u ∧
      (s'.writeAt q.t.loc (amoBytes q.op q.n (bytesToNat (s.bytesAt q.t.loc q.n)) q.y.toNat)).SameBytes u := by
  obtain ⟨a, ha⟩ : ∃ a, a = atomicAt s' (atomicParty s q) q.t (amoBytes q.op q.n (bytesToNat (s.bytesAt q.t.loc q.n)) q.y.toNat) := ⟨_, rfl⟩
  obtain ⟨htouch, hbytes⟩ := atomicAt_stores s' (atomicParty s q) q.t (amoBytes q.op q.n (bytesToNat (s.bytesAt q.t.loc q.n)) q.y.toNat)
  rw [← ha] at htouch hbytes
  have hk' := atomicGate_ok hg
  have hcur : a.2.2.cur = s.cur := htouch.cur.trans hk'.touches.cur
  obtain ⟨t, ht⟩ : ∃ t, t = storedMe q.t (a.1, a.2.1, { a.2.2 with cur := q.who }) (({ a.2.2 with cur := q.who } : State).me.waitObj)
    (storeLevel s (atomicParty s q) q.t true) := ⟨_, rfl⟩
  have hs := storedMe_keeps q.t (a.1, a.2.1, { a.2.2 with cur := q.who }) (({ a.2.2 with cur := q.who } : State).me.waitObj)
    (storeLevel s (atomicParty s q) q.t true)
  rw [← ht] at hs
  have hstart : ({ s with cur := q.who } : State).Touches { a.2.2 with cur := q.who } (s.ctxOf q.who) := (hk'.touches.then htouch).at q.who
  have hme : ({ a.2.2 with cur := q.who } : State).me.regs = (s.ctxOf q.who).regs := hstart.meRegs
  have hT : ({ s with cur := q.who } : State).Touches t (s.ctxOf q.who) := (hstart.trans hs.touches).of_regs hme
  have hset := hT.setMe (t.me.writeS q.d (sext (bytesToNat (s.bytesAt q.t.loc q.n)) (8 * q.n)))
  have hx : exec (.homeAtomic q) s = .next { answer (t.setS q.d (sext (bytesToNat (s.bytesAt q.t.loc q.n)) (8 * q.n))) with cur := s.cur } := by
    rw [homeAtomic_eq hk, h, hg]
    dsimp only
    rw [← ha, asThread, hcur, ht]
  refine ⟨_, answers_of hx (hset.of_regs ?_), ?_⟩
  · rw [Context.writeS_regs, hT.meRegs, Context.writeS_regs]
  · have hb : (t.setS q.d (sext (bytesToNat (s.bytesAt q.t.loc q.n)) (8 * q.n))).bytes = a.2.2.bytes := by
      rw [State.setS_bytes, hs.bytes.bytes_eq]
      rfl
    rw [State.sameBytes_iff, State.setCur_bytes, (answer_keeps _).bytes.bytes_eq, hb, hbytes.bytes_eq]

end

/-- Settles O12: the request by its check and its hazard, the home's member by its gate and the value that each member makes. -/
theorem atomicsActAtTheirHomes : Obligations.AtomicsActAtTheirHomes := by
  unfold Obligations.AtomicsActAtTheirHomes
  refine ⟨fun s d a b z => ?_, fun s q hk hn hy => ⟨fun a ht hb => ?bank, fun hb hd => ?undelivered, fun hb hd => ⟨fun hp => atomicGate_noPlace _ _ hp, fun u hu => ?stands,
    fun s' hg => ?answers⟩⟩⟩
  · have go {i : Instr} {op : AmoOp} (he : exec i s = .next (atomic s d a b (amoSize z) op)) :=
      And.intro (fun (t : Target) (s' : State) (h : checkMe s (s.S a) { r := true, w := true, size := amoSize z, atomic := true } = (.ok t, s')) =>
        And.intro (atomic_sends he h) (atomic_retries he h)) (fun (c : Nat) (s' : State) => atomic_traps he (s' := s') (c := c))
    exact ⟨go rfl, go rfl, go rfl, go rfl, go rfl, go rfl, go rfl, go rfl, go rfl, go rfl⟩
  case bank => exact homeAtomic_refuses hk (pointFault_bank ht hb)
  case undelivered => exact homeAtomic_refuses hk ((pointFault_owned hb).trans (by rw [hd]; rfl))
  case stands =>
    obtain ⟨hkeep, hcores⟩ := atomicGate_error hu
    exact ⟨homeAtomic_stands hk ((pointFault_owned hb).trans (by rw [hd]; rfl)) hu, hkeep.bytes, hcores⟩
  case answers =>
    have hm : bytesToNat (s.bytesAt q.t.loc q.n) < 2 ^ (8 * q.n) := by
      have := bytesToNat_lt (s.bytesAt q.t.loc q.n)
      rw [State.bytesAt_length] at this
      rwa [Nat.pow_mul]
    obtain ⟨u, hu, hb'⟩ := homeAtomic_answers hk ((pointFault_owned hb).trans (by rw [hd]; rfl)) hg
    rw [sext_signedOf hn hm] at hu
    obtain ⟨side, own⟩ := amo_stored (atomicGate_ok hg).bytes q.t.loc q.op q.n q.y.toNat hb'
    exact ⟨u, _, hu, amoValue_spec hn hm hy, side, own⟩

end Sys2Proof.Machine
end

section
/-! SUPPORT. WAITW and WAKE (R82, R101, R161, R168, R192, R242): the record that a woken DEQ writes, and the obligation on them. -/

namespace Sys2Proof.Machine

/-! ### WAITW (R168, R242) -/

theorem waitw_program {s : State} (h : s.me.slot ≠ 15) : ∃ t, exec .waitw s = .next t ∧ s.Touches t s.me ∧ s.Waits t 6 0 .work ∧ s.SameBytes t ∧
    .dispenserRequest (clusterOf s.cur.core) (0xF00 + 4 * clusterOf s.cur.core) ∈ t.agenda := by
  obtain ⟨l, hl⟩ : ∃ l : List Instr, l = (State.queuesOf (leave s 6 0 .work) (clusterOf s.cur.core)).map
    (fun q => .dispenserRequest (clusterOf s.cur.core) q) := ⟨_, rfl⟩
  obtain ⟨ht, hw, hm⟩ := (State.Touches.refl s).leave 6 0 .work l
  have hx : exec .waitw s = .next ((leave s 6 0 .work).post l) := by
    show execWaitw s = _
    rw [execWaitw, if_neg h, hl]
    rfl
  refine ⟨_, hx, ht, hw, State.sameBytes_iff.mpr (by simp), hm _ ?_⟩
  rw [hl]
  exact List.mem_map.mpr ⟨_, List.mem_append_left _ (List.mem_cons_self ..), rfl⟩

theorem waitw_retires {s : State} (h : s.me.slot = 15) (hq : s.myCore.sq ≠ []) : Completes s .waitw s.me := by
  refine retire_completes ?_
  show execWaitw s = _
  have hn : s.myCore.sq.isEmpty = false := by simpa using hq
  rw [execWaitw, if_pos h, hn]
  rfl

theorem waitw_waits {s : State} (h : s.me.slot = 15) (hq : s.myCore.sq = []) : Retries s .waitw 6 0 := by
  refine retries_with (t := s) ?_ (State.Keeps.refl s)
  show execWaitw s = _
  rw [execWaitw, if_pos h, hq]
  rfl

/-! ### WAKE (R101, R161) -/

theorem wake_reissue {s : State} {k i : Nat} (hk : k < 256) (hi : i < 24) (hst : (s.ctxOf ⟨k, i⟩).st = .bound) (hp : (s.ctxOf ⟨k, i⟩).pend = .reissue) :
    exec (.wake k i) s = .next { s.setCtx ⟨k, i⟩ { s.ctxOf ⟨k, i⟩ with
      pend := .none, readyAt := s.cycle + 4, lastWait := (s.ctxOf ⟨k, i⟩).waitKind, miss := none, served := if (s.ctxOf ⟨k, i⟩).miss.isSome then (s.ctxOf ⟨k, i⟩).served else 0 }
      with woken := some ⟨k, i⟩ } := by
  show execWake k i s = _
  rw [execWake, if_neg (by rw [ctxExists_of hk hi]; decide)]
  dsimp only
  rw [hst, hp]

theorem wake_record {s : State} {k i : Nat} (hk : k < 256) (hi : i < 24) (hst : (s.ctxOf ⟨k, i⟩).st = .bound) {t : Target} {va : Word} {l : LineData}
    (hp : (s.ctxOf ⟨k, i⟩).pend = .record t va l) : exec (.wake k i) s =
      .next { storeRecord { s.setCtx ⟨k, i⟩ { s.ctxOf ⟨k, i⟩ with miss := none } with cur := ⟨k, i⟩ } t va l with cur := s.cur } := by
  show execWake k i s = _
  rw [execWake, if_neg (by rw [ctxExists_of hk hi]; decide)]
  dsimp only
  rw [hst, hp]
  rfl

theorem wake_other {s : State} {k i : Nat} (hk : k < 256) (hi : i < 24)
    (h : (s.ctxOf ⟨k, i⟩).st ≠ .bound ∨ ((s.ctxOf ⟨k, i⟩).pend ≠ .reissue ∧ ∀ t va l, (s.ctxOf ⟨k, i⟩).pend ≠ .record t va l)) :
    exec (.wake k i) s = .next s := by
  show execWake k i s = _
  rw [execWake, if_neg (by rw [ctxExists_of hk hi]; decide)]
  dsimp only
  split
  · rename_i hst hp
    exact absurd hp ((h.resolve_left (not_not_intro hst)).1)
  · rename_i hst hp
    exact absurd hp ((h.resolve_left (not_not_intro hst)).2 _ _ _)
  · rfl

/-! ### The record of a dequeue (R161) -/

section
variable {s : State} {t : Target} {va : Word} {l : LineData}

/-- A record whose line is not at hand is kept by the thread. -/
theorem storeRecord_keeps {v : State} (h : storeLine s s.myWho t (natToBytes 64 l.toNat) (some 0) false = .error v) :
    s.Keeps (storeRecord s t va l) ∧ (storeRecord s t va l).me.pend = .record t va l := by
  obtain ⟨u, e, hk⟩ | ⟨a, e, -⟩ := storeLine_cases s s.myWho t (natToBytes 64 l.toNat) (some 0) false
  · rw [storeRecord, e]
    exact ⟨hk.then (State.Keeps.setMe u _ (Context.pend_regs u.me _)), congrArg Context.pend (State.me_setMe ..)⟩
  · exact nomatch h.symm.trans e

/-- A record whose line is at hand is written, and the answer is on its way. -/
theorem storeRecord_stores {a : Stored} (h : storeLine s s.myWho t (natToBytes 64 l.toNat) (some 0) false = .ok a) :
    s.Touches (storeRecord s t va l) s.me ∧ (s.writeBoth t.loc (natToBytes 64 l.toNat) (some 0)).SameBytes (storeRecord s t va l) ∧
      (storeRecord s t va l).me.pend = .reply := by
  obtain ⟨u, e, hk⟩ | ⟨a, e, ht, hb⟩ := storeLine_cases s s.myWho t (natToBytes 64 l.toNat) (some 0) false
  · exact nomatch h.symm.trans e
  · have hs := storedMe_keeps t a va.toNat (storeLevel s s.myWho t false)
    rw [storeRecord, e]
    exact ⟨ht.then (hs.touches.then (answer_keeps _).touches), hb.trans (hs.bytes.trans (answer_keeps _).bytes), by rw [answer_me]⟩

end

/-- A record written to main memory or a local store. -/
theorem writeBoth_record {s u : State} {l : Loc} {x : Nat} (h : (s.writeBoth l (natToBytes 64 x) (some 0)).SameBytes u) {pa : Nat}
    (hl : l = .main pa ∨ l = .ls pa) : SMap.get 0 u.side (pa / 64) = 0 ∧
      ∀ a, u.mem.read a = if pa ≤ a ∧ a < pa + 64 then BitVec.ofNat 8 (x / 256 ^ (a - pa)) else s.mem.read a := by
  obtain ⟨hm, hs, -, -⟩ := h
  rw [hm, hs]
  obtain rfl | rfl := hl
  · exact ⟨SMap.get_set_same 0 s.side (pa / 64) 0, fun a => Memory.read_writeBytes_natToBytes s.mem pa a 64 x⟩
  · exact ⟨SMap.get_set_same 0 s.side (pa / 64) 0, fun a => Memory.read_writeBytes_natToBytes s.mem pa a 64 x⟩

/-- Settles O17: WAITW by its slot, WAKE by what the thread waits for. -/
theorem workWaits : Obligations.WorkWaits := by
  unfold Obligations.WorkWaits
  refine ⟨fun s => ⟨waitw_program, waitw_retires, waitw_waits⟩, fun s k i hk hi => ⟨fun hst hp => ⟨_, wake_reissue hk hi hst hp, rfl⟩,
    fun t va l hst hp => ?record, wake_other hk hi⟩⟩
  case record =>
    have hstart : s.Keeps (s.setCtx ⟨k, i⟩ { s.ctxOf ⟨k, i⟩ with miss := none }) := State.Keeps.setCtx s ⟨k, i⟩ _ rfl
    obtain ⟨s1, hs1⟩ : ∃ s1 : State, s1 = { s.setCtx ⟨k, i⟩ { s.ctxOf ⟨k, i⟩ with miss := none } with cur := ⟨k, i⟩ } := ⟨_, rfl⟩
    have hx := wake_record hk hi hst hp
    have hregs (j : ThreadRef) : (s1.ctxOf j).regs = (s.ctxOf j).regs := by rw [hs1]; exact hstart.regs j
    have hbytes : s1.bytes = s.bytes := by rw [hs1, State.setCur_bytes, State.setCtx_bytes]
    have hcur : s1.cur = ⟨k, i⟩ := by rw [hs1]
    rw [← hs1] at hx
    dsimp only
    rw [← hs1]
    obtain ⟨u, hu⟩ : ∃ u, u = storeRecord s1 t va l := ⟨_, rfl⟩
    rw [← hu] at hx
    refine ⟨fun v hv => ?_, fun a ha => ?_⟩
    · obtain ⟨hkeep, hpend⟩ := storeRecord_keeps (va := va) hv
      rw [← hu] at hkeep hpend
      refine ⟨_, hx, State.sameBytes_iff.mpr ?_, ?_, fun j => (hkeep.regs j).trans (hregs j)⟩
      · rw [State.setCur_bytes, hkeep.bytes.bytes_eq, hbytes]
      · rw [State.me, hkeep.touches.cur, hcur] at hpend
        exact hpend
    · obtain ⟨htouch, hb, hpend⟩ := storeRecord_stores (va := va) ha
      rw [← hu] at htouch hb hpend
      refine ⟨_, hx, ?_, fun j => (htouch.regsOf j).trans (hregs j), fun pa hpa => ?_⟩
      · rw [State.me, htouch.cur, hcur] at hpend
        exact hpend
      · obtain ⟨hside, hmem⟩ := writeBoth_record hb hpa
        have hm : s1.mem = s.mem := congrArg Prod.fst hbytes
        rw [hm] at hmem
        exact ⟨hside, hmem⟩

end Sys2Proof.Machine
end

section
/-! SUPPORT. The journal (R369 to R371): what appending an entry and a checkpoint does to its head and its entries. -/

namespace Sys2Proof.Machine

/-- `j'` is `j` with `n` entries more, which leave the older ones as they are and move no export point (R369). -/
structure Journal.Grows (j j' : Journal) (n : Nat) : Prop where
  head : j'.head = j.head + n
  exportPt : j'.exportPt = j.exportPt
  lost : j'.lost = j.lost
  entries : ∀ z i, (∀ m < n, i ≠ (j.head + m) % 2048) → SMap.get z j'.entries i = SMap.get z j.entries i

theorem Journal.Grows.refl {j j' : Journal} (hh : j'.head = j.head) (he : j'.exportPt = j.exportPt) (hl : j'.lost = j.lost) (hn : j'.entries = j.entries) :
    j.Grows j' 0 := ⟨hh, he, hl, fun _ _ _ => by rw [hn]⟩

theorem Journal.Grows.trans {a b c : Journal} {m n : Nat} (h : a.Grows b m) (h' : b.Grows c n) : a.Grows c (m + n) where
  head := by rw [h'.head, h.head, Nat.add_assoc]
  exportPt := h'.exportPt.trans h.exportPt
  lost := h'.lost.trans h.lost
  entries z i hi := by
    rw [h'.entries z i (fun k hk => by rw [h.head, Nat.add_assoc]; exact hi (m + k) (by omega)), h.entries z i (fun k hk => hi k (by omega))]

/-- The same journal but for fields that `Grows` does not look at. -/
theorem Journal.Grows.of_eq {a b c : Journal} {n : Nat} (h : a.Grows b n) (hh : c.head = b.head) (he : c.exportPt = b.exportPt) (hl : c.lost = b.lost)
    (hn : c.entries = b.entries) : a.Grows c n := h.trans (Journal.Grows.refl hh he hl hn)

theorem Journal.put_grows (j : Journal) (ms kind source detail : Nat) (p0 p1 : Word) : j.Grows (j.put ms kind source detail p0 p1) 1 where
  head := rfl
  exportPt := rfl
  lost := rfl
  entries z i hi := (SMap.get_put z j.entries (j.head % 2048) i _).trans (if_neg (hi 0 (by decide)))

theorem Journal.put_entry (j : Journal) (ms kind source detail : Nat) (p0 p1 : Word) (z : JEntry) :
    SMap.get z (j.put ms kind source detail p0 p1).entries (j.head % 2048) =
      ⟨BitVec.ofNat 64 j.head, BitVec.ofNat 8 kind, BitVec.ofNat 8 source, BitVec.ofNat 16 detail, BitVec.ofNat 32 ms, p0, p1⟩ :=
  (SMap.get_put z j.entries (j.head % 2048) _ _).trans (if_pos rfl)

theorem Journal.foldl_grows {f : Journal → Nat → Journal} (h : ∀ (j : Journal) (i : Nat), j.Grows (f j i) 1) (l : List Nat) (j : Journal) : j.Grows (l.foldl f j) l.length := by
  induction l generalizing j with
  | nil => exact Journal.Grows.refl rfl rfl rfl rfl
  | cons i l ih =>
    rw [List.length_cons, Nat.add_comm]
    exact (h j i).trans (ih (f j i))

/-- Nine entries in a row: a header with the number of entries since the last one, and eight of kind 2 (R370). -/
def Journal.nine (j : Journal) (ms n : Nat) (p : Word × Word) (q r : Word × Word) (f : Nat → Word × Word) : Journal :=
  let j := { j.put ms 1 255 j.since p.1 p.2 with headers := j.headers ++ [n] }
  let j := (j.put ms 2 255 1 q.1 q.2).put ms 2 255 2 r.1 r.2
  { (List.range 6).foldl (fun j i => j.put ms 2 255 (3 + i) (f i).1 (f i).2) j with since := 0 }

theorem Journal.nine_grows (j : Journal) (ms n : Nat) (p q r : Word × Word) (f : Nat → Word × Word) : j.Grows (j.nine ms n p q r f) 9 := by
  have h1 : j.Grows { j.put ms 1 255 j.since p.1 p.2 with headers := j.headers ++ [n] } 1 := (j.put_grows ms 1 255 j.since p.1 p.2).of_eq rfl rfl rfl rfl
  have h3 := (h1.trans (Journal.put_grows _ ms 2 255 1 q.1 q.2)).trans (Journal.put_grows _ ms 2 255 2 r.1 r.2)
  exact (h3.trans (Journal.foldl_grows (fun j i => j.put_grows ms 2 255 (3 + i) (f i).1 (f i).2) (List.range 6) _)).of_eq rfl rfl rfl rfl

theorem Journal.checkpoint_eq (j : Journal) (ms : Nat) : ∃ p q r f, j.checkpoint ms = j.nine ms j.head p q r f := ⟨_, _, _, _, rfl⟩

/-- A checkpoint is nine entries (R370). -/
theorem Journal.checkpoint_grows (j : Journal) (ms : Nat) : j.Grows (j.checkpoint ms) 9 := by
  obtain ⟨p, q, r, f, e⟩ := j.checkpoint_eq ms
  rw [e]
  exact j.nine_grows ms j.head p q r f

/-- An entry put down and, where it is time, the checkpoint after it. -/
def Journal.putThen (j : Journal) (ms kind source detail : Nat) (p0 p1 : Word) : Journal :=
  let j : Journal := { j.put ms kind source detail p0 p1 with since := j.since + 1 }
  if decide (j.since ≥ 247) || decide (j.used ≥ 2039) then j.checkpoint ms else j

theorem Journal.add_eq (j : Journal) (ms kind source detail : Nat) (p0 p1 : Word) : ∃ c, j.add ms kind source detail p0 p1 =
    { (if j.since = 0 then { j with firstMs := ms } else j : Journal).putThen ms kind source detail p0 p1 with closed := c } := ⟨_, rfl⟩

theorem Journal.putThen_entry (j : Journal) (ms kind source detail : Nat) (p0 p1 : Word) : j.head < (j.putThen ms kind source detail p0 p1).head ∧
    ∀ z, SMap.get z (j.putThen ms kind source detail p0 p1).entries (j.head % 2048) =
      ⟨BitVec.ofNat 64 j.head, BitVec.ofNat 8 kind, BitVec.ofNat 8 source, BitVec.ofNat 16 detail, BitVec.ofNat 32 ms, p0, p1⟩ := by
  obtain ⟨u, hu⟩ : ∃ u : Journal, u = { j.put ms kind source detail p0 p1 with since := j.since + 1 } := ⟨_, rfl⟩
  have hhead : u.head = j.head + 1 := by rw [hu]; rfl
  have hent (z : JEntry) := (congrArg (fun c : Journal => SMap.get z c.entries (j.head % 2048)) hu).trans (j.put_entry ms kind source detail p0 p1 z)
  rw [Journal.putThen, ← hu]
  split
  · have hgrow := u.checkpoint_grows ms
    exact ⟨by rw [hgrow.head]; omega, fun z => (hgrow.entries z (j.head % 2048) (fun m hm => by omega)).trans (hent z)⟩
  · exact ⟨by omega, hent⟩

/-- An entry appended to a journal that is not full, and what a checkpoint adds after it (R370, R371). -/
theorem Journal.add_entry (j : Journal) (ms kind source detail : Nat) (p0 p1 : Word) : j.head < (j.add ms kind source detail p0 p1).head ∧
    ∀ z, SMap.get z (j.add ms kind source detail p0 p1).entries (j.head % 2048) =
      ⟨BitVec.ofNat 64 j.head, BitVec.ofNat 8 kind, BitVec.ofNat 8 source, BitVec.ofNat 16 detail, BitVec.ofNat 32 ms, p0, p1⟩ := by
  obtain ⟨c, e⟩ := j.add_eq ms kind source detail p0 p1
  have hhead : (if j.since = 0 then { j with firstMs := ms } else j : Journal).head = j.head := by split <;> rfl
  have h := Journal.putThen_entry (if j.since = 0 then { j with firstMs := ms } else j) ms kind source detail p0 p1
  rw [hhead] at h
  rw [e]
  exact h

/-! ### The journal of a state -/

theorem State.journal_rest (s : State) (kind source detail : Nat) (p0 p1 : Word) :
    s.journal kind source detail p0 p1 = { s with sdie := { s.sdie with journal := (s.journal kind source detail p0 p1).sdie.journal } } := rfl

@[simp] theorem State.journal_bytes (s : State) (kind source detail : Nat) (p0 p1 : Word) : (s.journal kind source detail p0 p1).bytes = s.bytes := rfl

@[simp] theorem State.journal_ctxOf (s : State) (kind source detail : Nat) (p0 p1 : Word) (r : ThreadRef) :
    (s.journal kind source detail p0 p1).ctxOf r = s.ctxOf r := rfl

/-- The entry of an event that an open journal takes. -/
theorem State.journal_entry {s : State} (h : s.sdie.journal.closed = false) (kind source detail : Nat) (p0 p1 : Word) :
    s.sdie.journal.head < (s.journal kind source detail p0 p1).sdie.journal.head ∧
      ∀ z, SMap.get z (s.journal kind source detail p0 p1).sdie.journal.entries (s.sdie.journal.head % 2048) =
        ⟨BitVec.ofNat 64 s.sdie.journal.head, BitVec.ofNat 8 kind, BitVec.ofNat 8 source, BitVec.ofNat 16 detail, BitVec.ofNat 32 s.ms, p0, p1⟩ := by
  have e : (s.journal kind source detail p0 p1).sdie.journal = s.sdie.journal.add s.ms kind source detail p0 p1 := by
    rw [State.journal, h]
    rfl
  rw [e]
  exact s.sdie.journal.add_entry s.ms kind source detail p0 p1

end Sys2Proof.Machine
end

section
/-! O42 (R141, R233, R255, R314, R340, R365, R371, R372): what a write to a control register does as a step of its own. -/

namespace Sys2Proof.Machine

/-! ### States that differ in no byte and no context -/

/-- `t` has the bytes and the contexts of `s`. -/
structure State.Steady (s t : State) : Prop where
  bytes : s.SameBytes t
  ctx : ∀ q, t.ctxOf q = s.ctxOf q

theorem State.Steady.refl (s : State) : s.Steady s := ⟨State.SameBytes.refl s, fun _ => rfl⟩

theorem State.Steady.trans {s t u : State} (h : s.Steady t) (h' : t.Steady u) : s.Steady u := ⟨h.bytes.trans h'.bytes, fun q => (h'.ctx q).trans (h.ctx q)⟩

theorem State.Steady.post (s : State) (l : List Instr) : s.Steady (s.post l) := ⟨⟨rfl, rfl, rfl, rfl⟩, fun _ => rfl⟩

theorem State.Steady.sdie (s : State) (d : Sdie) : s.Steady { s with sdie := d } := ⟨⟨rfl, rfl, rfl, rfl⟩, fun _ => rfl⟩

theorem State.Steady.micro (s : State) (m : Micro) : s.Steady { s with micro := m } := ⟨⟨rfl, rfl, rfl, rfl⟩, fun _ => rfl⟩

theorem State.Steady.platform (s : State) (p : Platform) : s.Steady { s with platform := p } := ⟨⟨rfl, rfl, rfl, rfl⟩, fun _ => rfl⟩

theorem State.Steady.setCore {s : State} {k : Nat} {c : Core} (h : c.ctxs = (s.core k).ctxs) : s.Steady (s.setCore k c) :=
  ⟨⟨rfl, rfl, rfl, rfl⟩, State.ctxOf_setCore_of_ctxs h⟩

theorem State.Steady.journal (s : State) (kind source detail : Nat) (p0 p1 : Word) : s.Steady (s.journal kind source detail p0 p1) :=
  State.Steady.sdie s (s.journal kind source detail p0 p1).sdie

theorem State.Steady.pushSq (s : State) (k : Nat) (src : HeldSrc) (r : SqRec) : s.Steady (pushSq s k src r) :=
  ⟨State.sameBytes_iff.mpr (pushSq_bytes s k src r), pushSq_ctxOf s k src r⟩

/-- What `f` keeps at every step, it keeps over a list. -/
theorem State.Steady.foldl {α : Type} {f : State → α → State} (h : ∀ (s : State) (a : α), s.Steady (f s a)) (l : List α) (s : State) : s.Steady (l.foldl f s) := by
  induction l generalizing s with
  | nil => exact State.Steady.refl s
  | cons a l ih => exact (h s a).trans (ih (f s a))

theorem coreExists_of {k : Nat} (hk : k < 256) : (!coreExists k) = false := by simp [coreExists, hk]

/-! ### The supervisor queue (R233, R255) -/

theorem popSq_nil {s : State} {k : Nat} (h : (s.core k).sq = []) : popSq s k = s := by
  rw [popSq, h]

/-- The head leaves, and held records take the places that are free. -/
theorem popSq_cons {s : State} {k : Nat} {h : SqRec} {t : List SqRec} (e : (s.core k).sq = h :: t) : s.Steady (popSq s k) ∧
    ((popSq s k).core k).sq = t ++ ((s.core k).heldSq.take (64 - t.length)).map (·.2) ∧
    ((popSq s k).core k).heldSq = (s.core k).heldSq.drop (64 - t.length) := by
  obtain ⟨u, hu⟩ : ∃ u, u = s.setCore k { s.core k with
    sq := t ++ ((s.core k).heldSq.take (64 - t.length)).map (·.2), heldSq := (s.core k).heldSq.drop (64 - t.length) } := ⟨_, rfl⟩
  have hpop : popSq s k = wakeSupervisor k u := by rw [popSq, e, hu]
  have hset : s.Steady u := by rw [hu]; exact State.Steady.setCore rfl
  obtain ⟨l, hl⟩ := wakeSupervisor_posts k u
  rw [hpop, hl]
  refine ⟨hset.trans (State.Steady.post u l), ?_⟩
  rw [State.core_post, hu, State.core_setCore_same]
  exact ⟨rfl, rfl⟩

/-! ### The table root (R314) -/

theorem tfence_spec (s : State) (k : Nat) : s.Steady (tfence s k) ∧ (∀ j, (tfence s k).core j = s.core j) ∧
    SMap.get [] (tfence s k).micro.tlb k = [] ∧ SMap.get [] (tfence s k).micro.wcache k = [] := by
  refine ⟨⟨⟨rfl, rfl, rfl, rfl⟩, fun _ => rfl⟩, fun _ => rfl, ?_, ?_⟩
  · exact SMap.get_set_same [] s.micro.tlb k []
  · exact SMap.get_set_same [] s.micro.wcache k []

theorem writeTroot_spec (s : State) (k : Nat) (v : Word) : s.Steady (writeTroot s k v) ∧
    ((writeTroot s k v).core k).troot = v &&& 0x000FFFFFFFFFF801 ∧
    SMap.get [] (writeTroot s k v).micro.tlb k = [] ∧ SMap.get [] (writeTroot s k v).micro.wcache k = [] := by
  obtain ⟨u, hu⟩ : ∃ u, u = s.setCore k { s.core k with troot := v &&& 0x000FFFFFFFFFF801 } := ⟨_, rfl⟩
  have hset : s.Steady u := hu ▸ State.Steady.setCore rfl
  obtain ⟨hsteady, hcore, htlb, hwalks⟩ := tfence_spec u k
  rw [writeTroot, ← hu]
  exact ⟨hset.trans hsteady, by rw [hcore, hu, State.core_setCore_same], htlb, hwalks⟩

/-! ### The journal's export point (R371) -/

theorem setExport_refused {s : State} {v : Word} (h : v.toNat ∉ s.sdie.journal.headers ∨ v.toNat < s.sdie.journal.exportPt ∨ s.sdie.journal.head < v.toNat) :
    setExport s v = s := by
  rw [setExport]
  refine if_neg fun hall => ?_
  simp only [Bool.and_eq_true, List.contains_iff_mem, decide_eq_true_eq] at hall
  obtain ⟨⟨hmem, hlo⟩, hhi⟩ := hall
  rcases h with h | h | h
  · exact h hmem
  · omega
  · omega

theorem setExport_moves {s : State} {v : Word} (hmem : v.toNat ∈ s.sdie.journal.headers) (hlo : s.sdie.journal.exportPt ≤ v.toNat)
    (hhi : v.toNat ≤ s.sdie.journal.head) : s.Steady (setExport s v) ∧ (setExport s v).sdie.journal.exportPt = v.toNat ∧
      (setExport s v).sdie.journal.head = s.sdie.journal.head ∧
      ((setExport s v).sdie.journal.closed = true ↔ 2039 ≤ s.sdie.journal.head - v.toNat) := by
  rw [setExport, if_pos (by simp [hmem, hlo, hhi])]
  exact ⟨State.Steady.sdie s _, rfl, rfl, decide_eq_true_iff⟩

/-! ### The egress regions (R365) -/

theorem State.weir_setWeir (s : State) (n : Nat) (w : Weir) : (s.setWeir n w).weir n = w := SMap.get_set_same _ _ _ _

theorem State.weir_journal (s : State) (kind source detail : Nat) (p0 p1 : Word) (n : Nat) : (s.journal kind source detail p0 p1).weir n = s.weir n := rfl

/-- A region takes its new registers, and the journal the entry of them. -/
theorem weirEntry_setWeir (s : State) (k n : Nat) (w : Weir) : s.Steady (weirEntry (s.setWeir n w) k n) ∧ (weirEntry (s.setWeir n w) k n).weir n = w ∧
    (s.sdie.journal.closed = false → s.sdie.journal.head < (weirEntry (s.setWeir n w) k n).sdie.journal.head ∧
      ∀ z, SMap.get z (weirEntry (s.setWeir n w) k n).sdie.journal.entries (s.sdie.journal.head % 2048) =
        ⟨BitVec.ofNat 64 s.sdie.journal.head, 0x22, BitVec.ofNat 8 k, BitVec.ofNat 16 n, BitVec.ofNat 32 s.ms, w.a, w.b⟩) := by
  rw [weirEntry, State.weir_setWeir, State.weir_journal, State.weir_setWeir]
  exact ⟨(State.Steady.sdie s _).trans (State.Steady.journal _ 0x22 k n w.a w.b), rfl, fun h => State.journal_entry (s := s.setWeir n w) h 0x22 k n w.a w.b⟩

/-- With no transfer held, disabling a region releases nothing. -/
theorem releaseAll_nil {s : State} {n : Nat} (h : (s.weir n).held = []) : s.Steady (releaseAll s n) ∧ ((releaseAll s n).weir n).a = (s.weir n).a ∧
    ((releaseAll s n).weir n).b = (s.weir n).b ∧ (releaseAll s n).sdie.journal = s.sdie.journal := by
  rw [releaseAll, h]
  refine ⟨State.Steady.sdie s _, ?_, ?_, rfl⟩
  all_goals exact (congrArg _ (State.weir_setWeir s n _)).trans rfl

/-- The region's registers and bucket after a write to its A register. -/
def Weir.wroteA (w : Weir) (v : Word) (now : Nat) : Weir :=
  let u : Weir := { w with a := v &&& weirAMask }
  if u.on && !w.on then { u with level := u.burst, frac := 0, refillAt := now } else u

theorem Weir.wroteA_spec (w : Weir) (v : Word) (now : Nat) : (w.wroteA v now).a = v &&& 0x9F0FFFFFFFFFFFFF ∧ (w.wroteA v now).b = w.b ∧
    (w.wroteA v now).held = w.held ∧ (w.wroteA v now).on = ({ w with a := v &&& weirAMask } : Weir).on ∧
    (w.wroteA v now).level = if ({ w with a := v &&& weirAMask } : Weir).on = true ∧ w.on = false then max 4 (bitsOf w.b 51 28) * 1024 else w.level := by
  unfold Weir.wroteA
  dsimp only
  cases h : ({ w with a := v &&& weirAMask } : Weir).on <;> cases h' : w.on <;> exact ⟨rfl, rfl, rfl, h, rfl⟩

theorem writeWeirA_eq (s : State) (k n : Nat) (v : Word) : writeWeirA s k n v =
    if (s.weir n).on && !((s.weir n).wroteA v s.timeUnits).on then releaseAll (weirEntry (s.setWeir n ((s.weir n).wroteA v s.timeUnits)) k n) n
    else weirEntry (s.setWeir n ((s.weir n).wroteA v s.timeUnits)) k n := rfl

/-! ### The sensor limits (R372) -/

/-- Four fields of 16 bits in a word, read back. -/
theorem bitsOf_packed {a b c d : Nat} (ha : a < 2 ^ 16) (hb : b < 2 ^ 16) (hc : c < 2 ^ 16) (hd : d < 2 ^ 16) :
    bitsOf (BitVec.ofNat 64 (d * 2 ^ 48 + c * 2 ^ 32 + b * 2 ^ 16 + a)) 15 0 = a ∧ bitsOf (BitVec.ofNat 64 (d * 2 ^ 48 + c * 2 ^ 32 + b * 2 ^ 16 + a)) 31 16 = b ∧
    bitsOf (BitVec.ofNat 64 (d * 2 ^ 48 + c * 2 ^ 32 + b * 2 ^ 16 + a)) 47 32 = c ∧ bitsOf (BitVec.ofNat 64 (d * 2 ^ 48 + c * 2 ^ 32 + b * 2 ^ 16 + a)) 63 48 = d := by
  simp only [bitsOf_eq, BitVec.toNat_ofNat]
  omega

theorem bitsOf_lt {w : Nat} (x : BitVec w) (hi lo : Nat) : bitsOf x hi lo < 2 ^ (hi + 1 - lo) := by
  rw [bitsOf_eq]
  exact Nat.mod_lt _ (Nat.two_pow_pos _)

/-- The narrower of two signed limits. -/
def colder (old new : BitVec 16) : BitVec 16 := if new.toInt < old.toInt then new else old

theorem colder_toInt (old new : BitVec 16) : (colder old new).toInt = min new.toInt old.toInt := by
  unfold colder
  split
  · omega
  · omega

theorem tighten_eq (old new : Word) : tighten old new = BitVec.ofNat 64 (min (bitsOf new 63 48) (bitsOf old 63 48) * 2 ^ 48 +
    (colder (BitVec.ofNat 16 (bitsOf old 47 32)) (BitVec.ofNat 16 (bitsOf new 47 32))).toNat * 2 ^ 32 + min (bitsOf new 31 16) (bitsOf old 31 16) * 2 ^ 16
    + max (bitsOf new 15 0) (bitsOf old 15 0)) := rfl

/-- Each limit is the narrower of the two. -/
theorem tighten_spec (old new : Word) : bitsOf (tighten old new) 15 0 = max (bitsOf new 15 0) (bitsOf old 15 0) ∧
    bitsOf (tighten old new) 31 16 = min (bitsOf new 31 16) (bitsOf old 31 16) ∧ bitsOf (tighten old new) 63 48 = min (bitsOf new 63 48) (bitsOf old 63 48) ∧
    (BitVec.ofNat 16 (bitsOf (tighten old new) 47 32)).toInt =
      min (BitVec.ofNat 16 (bitsOf new 47 32)).toInt (BitVec.ofNat 16 (bitsOf old 47 32)).toInt := by
  have h0 := bitsOf_lt new 15 0
  have h0' := bitsOf_lt old 15 0
  have h1 := bitsOf_lt new 31 16
  have h3 := bitsOf_lt new 63 48
  obtain ⟨e0, e1, e2, e3⟩ := bitsOf_packed (a := max (bitsOf new 15 0) (bitsOf old 15 0)) (b := min (bitsOf new 31 16) (bitsOf old 31 16))
    (c := (colder (BitVec.ofNat 16 (bitsOf old 47 32)) (BitVec.ofNat 16 (bitsOf new 47 32))).toNat) (d := min (bitsOf new 63 48) (bitsOf old 63 48))
    (by omega) (by omega) (BitVec.isLt _) (by omega)
  rw [tighten_eq]
  refine ⟨e0, e1, e3, ?_⟩
  rw [e2, BitVec.ofNat_toNat, BitVec.setWidth_eq, colder_toInt]

/-- The clock's point and the sensor word that shows it are all that a change of the point touches. -/
def State.reclocked (s : State) (p : Platform) (v : Word) : State := { s with platform := p, sdie := { s.sdie with sensor := v } }

theorem State.reclocked_spec (s : State) (p : Platform) (v : Word) : s.Steady (s.reclocked p v) ∧ (s.reclocked p v).sdie.senslim = s.sdie.senslim :=
  ⟨⟨⟨rfl, rfl, rfl, rfl⟩, fun _ => rfl⟩, rfl⟩

theorem retime_eq (s : State) : ∃ p v, retime s = s.reclocked p v := by
  unfold retime
  dsimp only
  by_cases h : (if s.platform.gating = 0 then max (max s.platform.requested s.platform.allowed) (clockPoint (bitsOf s.sdie.senslim 63 48)) else 3) = s.platform.running
  · rw [if_pos h]
    exact ⟨_, s.sdie.sensor, rfl⟩
  · rw [if_neg h]
    exact ⟨_, _, rfl⟩

theorem retime_spec (s : State) : s.Steady (retime s) ∧ (retime s).sdie.senslim = s.sdie.senslim := by
  obtain ⟨p, v, e⟩ := retime_eq s
  rw [e]
  exact s.reclocked_spec p v

/-- The keys are gone from the store and from every core. -/
def State.keyless (s : State) : State :=
  { s with
    sdie := { s.sdie with keys := [], erased := true }
    cores := s.cores.map (fun (p : Nat × Core) => (p.1, { p.2 with keyCache := [] })) }

theorem State.core_keyless (s : State) (k : Nat) : s.keyless.core k = { s.core k with keyCache := [] } :=
  SMap.get_map ({} : Core) (fun c : Core => { c with keyCache := [] }) rfl s.cores k

theorem State.keyless_steady (s : State) : s.Steady s.keyless :=
  ⟨⟨rfl, rfl, rfl, rfl⟩, fun q => by
    show (s.keyless.core q.core).ctx q.ctx = _
    rw [s.core_keyless]
    rfl⟩

theorem pushSq_sdie (s : State) (k : Nat) (src : HeldSrc) (r : SqRec) : (pushSq s k src r).sdie = s.sdie := by
  obtain ⟨h, -⟩ | ⟨sq, held, l, -, h⟩ := pushSq_cases s k src r
  · rw [h]
  · rw [h]; rfl

/-- Every core is told. -/
def State.tellAll (s : State) : State := (List.range 256).foldl (fun s k => pushSq s k .sensor ⟨sqWord0 0x31 7 0 0 false false 0, 0, 0, 0⟩) s

theorem State.tellAll_steady (s : State) : s.Steady s.tellAll := State.Steady.foldl (fun s k => State.Steady.pushSq s k _ _) _ s

theorem State.tellAll_sdie (s : State) : s.tellAll.sdie = s.sdie := by
  unfold State.tellAll
  induction List.range 256 generalizing s with
  | nil => rfl
  | cons k l ih => exact (ih _).trans (pushSq_sdie s k _ _)

/-- The journal with the checkpoint that an erasure asks for. -/
def State.sealed (s : State) : State :=
  let j := s.sdie.journal
  if j.closed || decide (j.since = 0) then s
  else
    let j := j.checkpoint s.ms
    { s with sdie := { s.sdie with journal := { j with closed := decide (j.used ≥ 2039) } } }

theorem State.sealed_spec (s : State) : s.Steady s.sealed ∧ s.sealed.sdie.keys = s.sdie.keys ∧ s.sealed.sdie.erased = s.sdie.erased ∧
    s.sealed.sdie.senslim = s.sdie.senslim := by
  unfold State.sealed
  dsimp only
  split
  · exact ⟨State.Steady.refl s, rfl, rfl, rfl⟩
  · exact ⟨State.Steady.sdie s _, rfl, rfl, rfl⟩

theorem eraseKeys_eq (s : State) (sensor : Nat) (reading limit : Word) :
    eraseKeys s sensor reading limit = (s.keyless.journal 0x70 0xFF (Config.sensorCode sensor).toNat reading limit).sealed.tellAll := rfl

theorem eraseKeys_spec (s : State) (sensor : Nat) (reading limit : Word) : s.Steady (eraseKeys s sensor reading limit) ∧
    (eraseKeys s sensor reading limit).sdie.keys = [] ∧ (eraseKeys s sensor reading limit).sdie.erased = true ∧
    (eraseKeys s sensor reading limit).sdie.senslim = s.sdie.senslim := by
  obtain ⟨u, hu⟩ : ∃ u, u = s.keyless.journal 0x70 0xFF (Config.sensorCode sensor).toNat reading limit := ⟨_, rfl⟩
  have hsu : s.Steady u := by rw [hu]; exact s.keyless_steady.trans (State.Steady.journal s.keyless 0x70 0xFF _ reading limit)
  have hd : u.sdie.keys = [] ∧ u.sdie.erased = true ∧ u.sdie.senslim = s.sdie.senslim := by rw [hu]; exact ⟨rfl, rfl, rfl⟩
  obtain ⟨hkeys, herased, hlim⟩ := hd
  obtain ⟨hsteady, ek, ee, el⟩ := u.sealed_spec
  rw [eraseKeys_eq, ← hu, State.tellAll_sdie, ek, ee, el]
  exact ⟨(hsu.trans hsteady).trans (State.tellAll_steady _), hkeys, herased, hlim⟩

theorem setSenslim_spec (s : State) (v : Word) : s.Steady (setSenslim s v) ∧ (setSenslim s v).sdie.senslim = tighten s.sdie.senslim v ∧
    (s.sdie.outside = none → (setSenslim s v).sdie.outside ≠ none → (setSenslim s v).sdie.keys = [] ∧ (setSenslim s v).sdie.erased = true) := by
  obtain ⟨t, ht⟩ : ∃ t, t = retime { s with sdie := { s.sdie with senslim := tighten s.sdie.senslim v } } := ⟨_, rfl⟩
  obtain ⟨hsteady, hlim⟩ := retime_spec { s with sdie := { s.sdie with senslim := tighten s.sdie.senslim v } }
  rw [← ht] at hsteady hlim
  have hst : s.Steady t := (State.Steady.sdie s _).trans hsteady
  rw [setSenslim, ← ht]
  cases hout : t.sdie.outside with
  | none => exact ⟨hst, hlim, fun _ h => absurd hout h⟩
  | some p =>
    obtain ⟨n, r, l⟩ := p
    dsimp only
    split
    · obtain ⟨hsteady, hkeys, herased, el⟩ := eraseKeys_spec t n r l
      exact ⟨hst.trans hsteady, el.trans hlim, fun _ _ => ⟨hkeys, herased⟩⟩
    · rename_i hsome
      exact ⟨hst, hlim, fun hnone => absurd (by rw [hnone]; rfl) hsome⟩

/-! ### The obligation -/

/-- Settles O42. -/
theorem registerWritesAct : Obligations.RegisterWritesAct := by
  intro s k i n hi v hk hi24 hn
  dsimp only
  have hc := coreExists_of hk
  have hr : (!coreExists k || decide (n ≥ 16)) = false := by rw [hc, Bool.false_or, decide_eq_false]; omega
  have hx : (!ctxExists k i) = false := by rw [ctxExists_of hk hi24]; rfl
  refine ⟨?_, ?_, ?_, ?_, ?_, ?_, ?_, ?_, ?_, ?_, ?_, ?_, ?_⟩
  · intro h
    show execCrSqpopWrite k v s = _
    rw [execCrSqpopWrite, hc, popSq_nil h]
    rfl
  · intro h t e eheld
    obtain ⟨hsteady, hsq, -⟩ := popSq_cons e
    refine ⟨popSq s k, ?_, hsteady.bytes, hsteady.ctx, by rw [hsq, eheld]; simp⟩
    show execCrSqpopWrite k v s = _
    rw [execCrSqpopWrite, hc]
    rfl
  · intro h t src q l e elen eheld
    obtain ⟨hsteady, hsq, hheld⟩ := popSq_cons e
    rw [eheld, elen] at hsq hheld
    refine ⟨popSq s k, ?_, hsteady.bytes, hsteady.ctx, hsq, hheld⟩
    show execCrSqpopWrite k v s = _
    rw [execCrSqpopWrite, hc]
    rfl
  · obtain ⟨hsteady, h⟩ := writeTroot_spec s k v
    refine ⟨_, ?_, hsteady.bytes, hsteady.ctx, h⟩
    show execCrTrootWrite k v s = _
    rw [execCrTrootWrite, hc]
    rfl
  · have hsteady : s.Steady (s.setCore k { s.core k with slotpartReg := v }) := State.Steady.setCore rfl
    refine ⟨_, ?_, hsteady.bytes, hsteady.ctx, State.core_setCore_same _ _ _⟩
    show execCrSlotpartWrite k v s = _
    rw [execCrSlotpartWrite, hc]
    rfl
  · have hsteady : s.Steady (s.setCore k (if hi then { s.core k with bankpart1 := v } else { s.core k with bankpart0 := v })) :=
      State.Steady.setCore (by split <;> rfl)
    refine ⟨_, ?_, hsteady.bytes, hsteady.ctx, State.core_setCore_same _ _ _⟩
    show execCrBankpartWrite k hi v s = _
    rw [execCrBankpartWrite, hc]
    rfl
  · refine ⟨s.setCtx ⟨k, i⟩ (setWin (s.ctxOf ⟨k, i⟩) v), ?_, ⟨rfl, rfl, rfl, rfl⟩, fun q => State.ctxOf_setCtx _ _ _ _⟩
    show execCrWinWrite k i v s = _
    rw [execCrWinWrite, hx]
    rfl
  · refine ⟨s.setCtx ⟨k, i⟩ { s.ctxOf ⟨k, i⟩ with wsp := v }, ?_, ⟨rfl, rfl, rfl, rfl⟩, fun q => State.ctxOf_setCtx _ _ _ _⟩
    show execCrWspWrite k i v s = _
    rw [execCrWspWrite, hx]
    rfl
  · intro h
    exact congrArg Host.Outcome.next (setExport_refused h)
  · intro hmem hlo hhi
    obtain ⟨hsteady, h⟩ := setExport_moves hmem hlo hhi
    exact ⟨_, rfl, hsteady.bytes, hsteady.ctx, h⟩
  · obtain ⟨ea, eb, eheld, eon, elevel⟩ := (s.weir n).wroteA_spec v s.timeUnits
    obtain ⟨hsteady, ew, hlog⟩ := weirEntry_setWeir s k n ((s.weir n).wroteA v s.timeUnits)
    have hexec : exec (.crWeiraWrite k n v) s = .next (writeWeirA s k n v) := by
      show execCrWeiraWrite k n v s = _
      rw [execCrWeiraWrite, hr]
      rfl
    rw [writeWeirA_eq, eon] at hexec
    constructor
    · intro h
      rw [if_neg (by rcases h with h | h <;> simp_all [Weir.on, weirAMask])] at hexec
      refine ⟨_, hexec, hsteady.bytes, hsteady.ctx, by rw [ew, ea], by rw [ew, eb], fun hopen => ?_, by rw [ew]; exact elevel⟩
      rw [ew]
      exact hlog hopen
    · intro hwas hnot hempty
      rw [if_pos (by rw [hwas]; exact (congrArg not hnot))] at hexec
      obtain ⟨hrel, ra, rb, rj⟩ := releaseAll_nil (s := weirEntry (s.setWeir n ((s.weir n).wroteA v s.timeUnits)) k n) (n := n) (by rw [ew, eheld, hempty])
      refine ⟨_, hexec, (hsteady.trans hrel).bytes, (hsteady.trans hrel).ctx, by rw [ra, ew, ea], fun hopen => ?_⟩
      rw [ra, rb, rj, ew]
      exact hlog hopen
  · obtain ⟨hsteady, ew, hlog⟩ := weirEntry_setWeir s k n { (s.weir n).refilled s.timeUnits with
      b := v, level := min ((s.weir n).refilled s.timeUnits).level (max 4 (bitsOf v 51 28) * 1024) }
    have ha : ((s.weir n).refilled s.timeUnits).a = (s.weir n).a := by unfold Weir.refilled; split <;> rfl
    refine ⟨_, ?_, hsteady.bytes, hsteady.ctx, by rw [ew]; exact ha, by rw [ew], by rw [ew], fun hopen => ?_⟩
    · show execCrWeirbWrite k n v s = _
      rw [execCrWeirbWrite, hr]
      rfl
    · rw [ew]
      exact hlog hopen
  · obtain ⟨hsteady, elim, herase⟩ := setSenslim_spec s v
    obtain ⟨e0, e1, e3, e2⟩ := tighten_spec s.sdie.senslim v
    refine ⟨_, rfl, hsteady.bytes, hsteady.ctx, ?_, ?_, ?_, ?_, herase⟩
    all_goals rw [elim]
    · exact e0
    · exact e1
    · exact e3
    · exact e2

end Sys2Proof.Machine
end

section
/-! O43 (R366, R368 to R370, R372): the buckets of the egress regions, their held transfers and entries, the journal's timer and the sensors. -/

namespace Sys2Proof.Machine

/-! ### The bucket of a region (R366) -/

theorem Weir.refilled_off {w : Weir} (h : w.on = false) (now : Nat) : w.refilled now = w := by
  rw [Weir.refilled, h]
  rfl

theorem Weir.refilled_on {w : Weir} (h : w.on = true) (now : Nat) : w.refilled now = { w with
    level := min w.burst (w.level + (w.frac + (now - w.refillAt) * w.rate) / (1000 * msUnits))
    frac := (w.frac + (now - w.refillAt) * w.rate) % (1000 * msUnits)
    refillAt := now } := by
  rw [Weir.refilled, h]
  rfl

theorem Weir.refilled_keeps (w : Weir) (now : Nat) : (w.refilled now).on = w.on ∧ (w.refilled now).held = w.held ∧ (w.refilled now).rate = w.rate := by
  cases h : w.on with
  | false => rw [Weir.refilled_off h]; exact ⟨h, rfl, rfl⟩
  | true => rw [Weir.refilled_on h]; exact ⟨h, rfl, rfl⟩

/-- A second refill at the same time adds nothing. -/
theorem Weir.refilled_level {w : Weir} (h : w.on = true) (now : Nat) : ((w.refilled now).refilled now).level = (w.refilled now).level := by
  have hon : (w.refilled now).on = true := (w.refilled_keeps now).1.trans h
  rw [Weir.refilled_on hon, Weir.refilled_on h]
  have hfrac : (w.frac + (now - w.refillAt) * w.rate) % (1000 * msUnits) / (1000 * msUnits) = 0 :=
    Nat.div_eq_of_lt (Nat.mod_lt _ (by decide))
  simp only [Nat.sub_self, Nat.zero_mul, Nat.add_zero, hfrac]
  exact min_eq_right (Nat.min_le_left _ _)

/-- No transfer leaves a region while the journal is full, the rate is zero or the bucket too low. -/
theorem weirPass_none {s : State} {i : Nat} {kind : PortKind} {n pa : Nat}
    (h : s.sdie.journal.closed = true ∨ ((s.weir i).refilled s.timeUnits).rate = 0 ∨ ((s.weir i).refilled s.timeUnits).level < n) :
    weirPass s i kind n pa true = none := by
  unfold weirPass
  refine if_pos ?_
  simpa [or_assoc] using h

/-- Otherwise one that waits passes, and the bucket pays for it. -/
theorem weirPass_some {s : State} {i : Nat} {kind : PortKind} {n pa : Nat} (hopen : s.sdie.journal.closed = false)
    (hrate : 0 < ((s.weir i).refilled s.timeUnits).rate) (hlevel : n ≤ ((s.weir i).refilled s.timeUnits).level) :
    ∃ w, weirPass s i kind n pa true = some (s.setWeir i w) ∧ w.level = ((s.weir i).refilled s.timeUnits).level - n := by
  unfold weirPass
  rw [if_neg (by rw [hopen]; simp; omega)]
  exact ⟨_, rfl, rfl⟩

/-! ### The journal of several entries -/

theorem Journal.putThen_grows (j : Journal) (ms kind source detail : Nat) (p0 p1 : Word) :
    ∃ n, 1 ≤ n ∧ n ≤ 10 ∧ j.Grows (j.putThen ms kind source detail p0 p1) n := by
  obtain ⟨u, hu⟩ : ∃ u : Journal, u = { j.put ms kind source detail p0 p1 with since := j.since + 1 } := ⟨_, rfl⟩
  have hgrow : j.Grows u 1 := by rw [hu]; exact (j.put_grows ms kind source detail p0 p1).of_eq rfl rfl rfl rfl
  rw [Journal.putThen, ← hu]
  split
  · exact ⟨10, by decide, by decide, hgrow.trans (u.checkpoint_grows ms)⟩
  · exact ⟨1, by decide, by decide, hgrow⟩

/-- An entry, with the checkpoint that may follow it, is at most ten. -/
theorem Journal.add_grows (j : Journal) (ms kind source detail : Nat) (p0 p1 : Word) :
    ∃ n, 1 ≤ n ∧ n ≤ 10 ∧ j.Grows (j.add ms kind source detail p0 p1) n := by
  obtain ⟨c, e⟩ := j.add_eq ms kind source detail p0 p1
  have hself : j.Grows (if j.since = 0 then { j with firstMs := ms } else j) 0 := by split <;> exact Journal.Grows.refl rfl rfl rfl rfl
  obtain ⟨n, h1, h10, hgrow⟩ := Journal.putThen_grows (if j.since = 0 then { j with firstMs := ms } else j) ms kind source detail p0 p1
  rw [e]
  exact ⟨n, h1, h10, by have h := hself.trans hgrow; rw [Nat.zero_add] at h; exact h.of_eq rfl rfl rfl rfl⟩

/-- The journal goes on, and what stands well before its head stays. -/
theorem State.journal_after (s : State) (kind source detail : Nat) (p0 p1 : Word) :
    s.sdie.journal.head ≤ (s.journal kind source detail p0 p1).sdie.journal.head ∧
    (s.journal kind source detail p0 p1).sdie.journal.head ≤ s.sdie.journal.head + 10 ∧
    ∀ z i, (∀ m < 10, i ≠ (s.sdie.journal.head + m) % 2048) →
      SMap.get z (s.journal kind source detail p0 p1).sdie.journal.entries i = SMap.get z s.sdie.journal.entries i := by
  have e : (s.journal kind source detail p0 p1).sdie.journal = if s.sdie.journal.closed then
      { s.sdie.journal with lost := min (s.sdie.journal.lost + 1) (2 ^ 32 - 1) } else s.sdie.journal.add s.ms kind source detail p0 p1 := rfl
  by_cases hc : s.sdie.journal.closed = true
  · rw [e, if_pos hc]
    exact ⟨Nat.le_refl _, Nat.le_add_right _ _, fun _ _ _ => rfl⟩
  · rw [if_neg hc] at e
    obtain ⟨n, h1, h10, hgrow⟩ := s.sdie.journal.add_grows s.ms kind source detail p0 p1
    rw [e, hgrow.head]
    exact ⟨by omega, by omega, fun z i hi => hgrow.entries z i (fun m hm => hi m (by omega))⟩

/-- An entry stays readable below one more. -/
theorem State.journal_journal {s : State} (h : s.sdie.journal.closed = false) (kind source detail : Nat) (p0 p1 : Word) (kind' source' detail' : Nat) (p0' p1' : Word) :
    s.sdie.journal.head < ((s.journal kind source detail p0 p1).journal kind' source' detail' p0' p1').sdie.journal.head ∧
      ∀ z, SMap.get z ((s.journal kind source detail p0 p1).journal kind' source' detail' p0' p1').sdie.journal.entries (s.sdie.journal.head % 2048) =
        ⟨BitVec.ofNat 64 s.sdie.journal.head, BitVec.ofNat 8 kind, BitVec.ofNat 8 source, BitVec.ofNat 16 detail, BitVec.ofNat 32 s.ms, p0, p1⟩ := by
  obtain ⟨hlt, hentry⟩ := State.journal_entry h kind source detail p0 p1
  obtain ⟨-, hle, -⟩ := s.journal_after kind source detail p0 p1
  obtain ⟨hle', -, hkeep⟩ := (s.journal kind source detail p0 p1).journal_after kind' source' detail' p0' p1'
  exact ⟨by omega, fun z => (hkeep z _ (fun m hm => by omega)).trans (hentry z)⟩

/-! ### The journal's timer (R370) -/

theorem Journal.foldl_headers {f : Journal → Nat → Journal} (h : ∀ (j : Journal) (i : Nat), (f j i).headers = j.headers) (l : List Nat) (j : Journal) :
    (l.foldl f j).headers = j.headers := by
  induction l generalizing j with
  | nil => rfl
  | cons i l ih => exact (ih _).trans (h j i)

/-- The header of a checkpoint stands where the journal's head was. -/
theorem Journal.nine_header (j : Journal) (ms n : Nat) (p q r : Word × Word) (f : Nat → Word × Word) : (j.nine ms n p q r f).since = 0 ∧
    (j.nine ms n p q r f).headers = j.headers ++ [n] ∧ ∀ z, SMap.get z (j.nine ms n p q r f).entries (j.head % 2048) =
      ⟨BitVec.ofNat 64 j.head, 1, 255, BitVec.ofNat 16 j.since, BitVec.ofNat 32 ms, p.1, p.2⟩ := by
  obtain ⟨a, ha⟩ : ∃ a : Journal, a = { j.put ms 1 255 j.since p.1 p.2 with headers := j.headers ++ [n] } := ⟨_, rfl⟩
  have hhead : a.head = j.head + 1 := by rw [ha]; rfl
  have hheaders : a.headers = j.headers ++ [n] := by rw [ha]
  have hentry (z : JEntry) : SMap.get z a.entries (j.head % 2048) = ⟨BitVec.ofNat 64 j.head, 1, 255, BitVec.ofNat 16 j.since, BitVec.ofNat 32 ms, p.1, p.2⟩ := by
    rw [ha]
    exact j.put_entry ms 1 255 j.since p.1 p.2 z
  have htwo := (a.put_grows ms 2 255 1 q.1 q.2).trans (Journal.put_grows _ ms 2 255 2 r.1 r.2)
  have height := htwo.trans (Journal.foldl_grows (fun j i => j.put_grows ms 2 255 (3 + i) (f i).1 (f i).2) (List.range 6) _)
  unfold Journal.nine
  rw [← ha]
  exact ⟨rfl, (Journal.foldl_headers (f := fun j i => j.put ms 2 255 (3 + i) (f i).1 (f i).2) (fun _ _ => rfl) _ _).trans hheaders,
    fun z => (height.entries z _ (fun m hm => by rw [List.length_range] at hm; omega)).trans (hentry z)⟩

theorem Journal.checkpoint_header (j : Journal) (ms : Nat) : (j.checkpoint ms).since = 0 ∧ j.head ∈ (j.checkpoint ms).headers ∧
    ∀ z, SMap.get z (j.checkpoint ms).entries (j.head % 2048) =
      ⟨BitVec.ofNat 64 j.head, 1, 255, BitVec.ofNat 16 j.since, BitVec.ofNat 32 ms, (payload (chainBytes j.chain) 0).1, (payload (chainBytes j.chain) 0).2⟩ := by
  obtain ⟨q, r, f, e⟩ : ∃ q r f, j.checkpoint ms = j.nine ms j.head (payload (chainBytes j.chain) 0) q r f := ⟨_, _, _, rfl⟩
  obtain ⟨hsince, hheaders, hentry⟩ := j.nine_header ms j.head (payload (chainBytes j.chain) 0) q r f
  rw [e]
  exact ⟨hsince, by rw [hheaders]; exact List.mem_append_right _ (List.mem_singleton_self _), hentry⟩

theorem journalTimer_waits {s : State} (h : s.sdie.journal.since = 0 ∨ s.sdie.journal.closed = true ∨ s.ms < s.sdie.journal.firstMs + 1000) : journalTimer s = s := by
  unfold journalTimer
  refine if_neg fun hall => ?_
  simp only [Bool.and_eq_true, Bool.not_eq_true', decide_eq_true_eq] at hall
  obtain ⟨⟨hsince, hclosed⟩, hdue⟩ := hall
  rcases h with h | h | h
  · omega
  · rw [hclosed] at h; contradiction
  · omega

/-- The journal is `j`, closed or not. -/
def State.rejournaled (s : State) (j : Journal) (c : Bool) : State := { s with sdie := { s.sdie with journal := { j with closed := c } } }

theorem State.rejournaled_bytes (s : State) (j : Journal) (c : Bool) : s.SameBytes (s.rejournaled j c) := ⟨rfl, rfl, rfl, rfl⟩
theorem State.rejournaled_head (s : State) (j : Journal) (c : Bool) : (s.rejournaled j c).sdie.journal.head = j.head := rfl
theorem State.rejournaled_since (s : State) (j : Journal) (c : Bool) : (s.rejournaled j c).sdie.journal.since = j.since := rfl
theorem State.rejournaled_headers (s : State) (j : Journal) (c : Bool) : (s.rejournaled j c).sdie.journal.headers = j.headers := rfl
theorem State.rejournaled_entries (s : State) (j : Journal) (c : Bool) : (s.rejournaled j c).sdie.journal.entries = j.entries := rfl

/-- The checkpoint that falls due. -/
theorem journalTimer_due {s : State} (hsince : 0 < s.sdie.journal.since) (hopen : s.sdie.journal.closed = false) (hdue : s.sdie.journal.firstMs + 1000 ≤ s.ms) :
    s.SameBytes (journalTimer s) ∧ (journalTimer s).sdie.journal.head = s.sdie.journal.head + 9 ∧ (journalTimer s).sdie.journal.since = 0 ∧
    s.sdie.journal.head ∈ (journalTimer s).sdie.journal.headers ∧
    ∀ z, SMap.get z (journalTimer s).sdie.journal.entries (s.sdie.journal.head % 2048) =
      ⟨BitVec.ofNat 64 s.sdie.journal.head, 1, 255, BitVec.ofNat 16 s.sdie.journal.since, BitVec.ofNat 32 s.ms,
        (payload (chainBytes s.sdie.journal.chain) 0).1, (payload (chainBytes s.sdie.journal.chain) 0).2⟩ := by
  obtain ⟨c, e⟩ : ∃ c, journalTimer s = s.rejournaled (s.sdie.journal.checkpoint s.ms) c := by
    unfold journalTimer
    rw [if_pos (by simp [hsince, hopen, hdue])]
    exact ⟨_, rfl⟩
  obtain ⟨hz, hmem, hentry⟩ := s.sdie.journal.checkpoint_header s.ms
  have hhead := (s.sdie.journal.checkpoint_grows s.ms).head
  rw [e, State.rejournaled_head, State.rejournaled_since, State.rejournaled_headers, State.rejournaled_entries]
  exact ⟨s.rejournaled_bytes _ c, hhead, hz, hmem, hentry⟩

/-! ### The sensors (R372) -/

theorem tripped_none {lim : Word} {volt temp clock : BitVec 16} (h : bitsOf lim 15 0 ≤ volt.toNat ∧ volt.toNat ≤ bitsOf lim 31 16 ∧
    temp.toInt ≤ (BitVec.ofNat 16 (bitsOf lim 47 32)).toInt ∧ clock.toNat ≤ bitsOf lim 63 48) : tripped lim volt temp clock = none := by
  obtain ⟨hlow, hhigh, htemp, hclock⟩ := h
  rw [tripped, if_neg (by omega), if_neg (by omega), if_neg (by omega), if_neg (by omega)]

theorem tripped_some {lim : Word} {volt temp clock : BitVec 16} (h : ¬ (bitsOf lim 15 0 ≤ volt.toNat ∧ volt.toNat ≤ bitsOf lim 31 16 ∧
    temp.toInt ≤ (BitVec.ofNat 16 (bitsOf lim 47 32)).toInt ∧ clock.toNat ≤ bitsOf lim 63 48)) : ∃ n r l, tripped lim volt temp clock = some (n, r, l) := by
  unfold tripped
  split
  · exact ⟨_, _, _, rfl⟩
  split
  · exact ⟨_, _, _, rfl⟩
  split
  · exact ⟨_, _, _, rfl⟩
  split
  · exact ⟨_, _, _, rfl⟩
  exact absurd ⟨by omega, by omega, by omega, by omega⟩ h

theorem pushSq_other {s : State} {k j : Nat} (h : j ≠ k) (src : HeldSrc) (r : SqRec) : (pushSq s k src r).core j = s.core j := by
  obtain ⟨e, -⟩ | ⟨sq, held, l, -, e⟩ := pushSq_cases s k src r
  · rw [e]
  · rw [e, State.core_post, State.core_setCore, if_neg h]

theorem pushSq_keyCache (s : State) (k j : Nat) (src : HeldSrc) (r : SqRec) : ((pushSq s k src r).core j).keyCache = (s.core j).keyCache := by
  have h := congrArg Core.keyCache (pushSq_core s k src r j)
  exact h

/-- Telling the cores of a list, each once: every queue with room gains its record. -/
theorem pushSq_each (src : HeldSrc) (r : SqRec) (l : List Nat) (hl : l.Nodup) (s : State) (k : Nat) :
    ((l.foldl (fun s k => pushSq s k src r) s).core k).keyCache = (s.core k).keyCache ∧
    (k ∉ l → (l.foldl (fun s k => pushSq s k src r) s).core k = s.core k) ∧
    (k ∈ l → (s.core k).SqRoom → ((l.foldl (fun s k => pushSq s k src r) s).core k).sq = (s.core k).sq ++ [r]) := by
  induction l generalizing s with
  | nil => exact ⟨rfl, fun _ => rfl, (nomatch ·)⟩
  | cons j l ih =>
    obtain ⟨hj, hl⟩ := List.nodup_cons.mp hl
    obtain ⟨hcache, hout, hin⟩ := ih hl (pushSq s j src r)
    refine ⟨hcache.trans (pushSq_keyCache s j k src r), fun hk => ?_, fun hk hroom => ?_⟩
    · rw [List.mem_cons, not_or] at hk
      exact (hout hk.2).trans (pushSq_other hk.1 src r)
    · by_cases e : k = j
      · subst e
        rw [List.foldl_cons, hout hj]
        exact pushSq_sq hroom src r
      · have hother := pushSq_other (s := s) e src r
        have h := hin ((List.mem_cons.mp hk).resolve_left e) (hother ▸ hroom)
        rwa [hother] at h

/-- What an erasure leaves: no key anywhere, an entry in the journal, and every core with room told. -/
theorem eraseKeys_tells (s : State) (sensor : Nat) (reading limit : Word) :
    (eraseKeys s sensor reading limit).sdie.sensor = s.sdie.sensor ∧ (∀ k, ((eraseKeys s sensor reading limit).core k).keyCache = []) ∧
    (s.sdie.journal.closed = false → s.sdie.journal.head < (eraseKeys s sensor reading limit).sdie.journal.head) ∧
    ∀ k < 256, (s.core k).SqRoom → ((eraseKeys s sensor reading limit).core k).sq = (s.core k).sq ++ [⟨BitVec.ofNat 64 (0x31 * 2 ^ 56 + 7 * 2 ^ 52), 0, 0, 0⟩] := by
  obtain ⟨u, hu⟩ : ∃ u, u = s.keyless.journal 0x70 0xFF (Config.sensorCode sensor).toNat reading limit := ⟨_, rfl⟩
  have hcore (k : Nat) : u.core k = { s.core k with keyCache := [] } := by rw [hu]; exact s.core_keyless k
  have hsensor : u.sdie.sensor = s.sdie.sensor := by rw [hu]; rfl
  have hhead (h : s.sdie.journal.closed = false) : s.sdie.journal.head < u.sdie.journal.head := by
    rw [hu]
    exact (State.journal_entry (s := s.keyless) h 0x70 0xFF _ reading limit).1
  have hseal : u.sealed.sdie.sensor = u.sdie.sensor ∧ (∀ k, u.sealed.core k = u.core k) ∧ u.sdie.journal.head ≤ u.sealed.sdie.journal.head := by
    unfold State.sealed
    dsimp only
    split
    · exact ⟨rfl, fun _ => rfl, Nat.le_refl _⟩
    · exact ⟨rfl, fun _ => rfl, by rw [(u.sdie.journal.checkpoint_grows u.ms).head]; omega⟩
  obtain ⟨esensor, ecore, ehead⟩ := hseal
  have htold (k : Nat) := pushSq_each .sensor ⟨sqWord0 0x31 7 0 0 false false 0, 0, 0, 0⟩ (List.range 256) List.nodup_range u.sealed k
  have hsealed (k : Nat) : u.sealed.core k = { s.core k with keyCache := [] } := (ecore k).trans (hcore k)
  rw [eraseKeys_eq, ← hu, State.tellAll_sdie]
  refine ⟨esensor.trans hsensor, fun k => ?_, fun h => Nat.lt_of_lt_of_le (hhead h) ehead, fun k hk hroom => ?_⟩
  · exact (htold k).1.trans (congrArg Core.keyCache (hsealed k))
  · have h := (htold k).2.2 (List.mem_range.mpr hk) (by rw [hsealed]; exact hroom)
    rw [hsealed] at h
    exact h

/-! ### Transfers held at a region (R366, R368) -/

section
variable (s : State) (n : Nat)

/-- The bucket refills (R366). -/
theorem refill_off (h : (s.weir n).on = false) : refill s n = s := by
  unfold refill
  refine if_pos ?_
  rw [((s.weir n).refilled_keeps s.timeUnits).1, h]
  rfl

theorem refill_on (h : (s.weir n).on = true) :
    refill s n = drain (s.setWeir n ((s.weir n).refilled s.timeUnits)) n ((s.weir n).refilled s.timeUnits).held.length := by
  unfold refill
  refine if_neg ?_
  rw [((s.weir n).refilled_keeps s.timeUnits).1, h]
  decide

end

/-- The one transfer held leaves where the bucket can pay for it. -/
theorem drain_one {s : State} {n : Nat} {h : HeldEgress} (e : (s.weir n).held = [h]) : drain s n 1 =
    match weirPass s n h.kind h.bytes h.pa true with
    | none => s
    | some t => passHeld (t.setWeir n { t.weir n with held := [] }) h := by
  rw [drain, e]
  dsimp only
  cases weirPass s n h.kind h.bytes h.pa true <;> rfl

theorem rangeDelivered_congr {s t : State} (h1 : t.sdie.erased = s.sdie.erased) (h2 : t.poison = s.poison) (pa n : Nat) : rangeDelivered t pa n = rangeDelivered s pa n := by
  simp only [rangeDelivered, State.delivered, h1, h2]

/-- A read of the host that was held leaves with its data. -/
theorem passHeld_host {s : State} {h : HeldEgress} {off len : Nat} (e : h.exit = .hostRead off len) :
    passHeld s h = s.emit (if rangeDelivered s h.pa len then .hostData off (s.bytesAt (.main h.pa) len) else .hostPoisoned off) := by
  rw [passHeld, e]

theorem expire_none {s : State} {n : Nat} (h : ∀ x ∈ (s.weir n).held, s.timeUnits < x.since + bitsOf (s.weir n).b 63 52 * msUnits) : expire s n = s := by
  have hdue : (s.weir n).held.filter (fun x => decide (x.since + (s.weir n).timeout ≤ s.timeUnits)) = [] := by
    refine List.filter_eq_nil_iff.mpr fun x hx => ?_
    have := h x hx
    rw [Weir.timeout, decide_eq_true_eq]
    omega
  rw [expire, hdue]

/-- The one transfer held fails after the region's timeout. -/
theorem expire_one {s : State} {n : Nat} {h : HeldEgress} (e : (s.weir n).held = [h]) (hdue : h.since + bitsOf (s.weir n).b 63 52 * msUnits ≤ s.timeUnits) :
    ∃ w, expire s n = failHeld (s.setWeir n w) h ∧ w.held = [] ∧ w.failed = (s.weir n).failed + 1 := by
  have hd : decide (h.since + (s.weir n).timeout ≤ s.timeUnits) = true := decide_eq_true hdue
  have hfilter : (s.weir n).held.filter (fun x => decide (x.since + (s.weir n).timeout ≤ s.timeUnits)) = [h] := by rw [e, List.filter_cons, hd]; rfl
  have hrest : (s.weir n).held.filter (fun x => !decide (x.since + (s.weir n).timeout ≤ s.timeUnits)) = [] := by rw [e, List.filter_cons, hd]; rfl
  rw [expire, hfilter, hrest]
  exact ⟨_, rfl, rfl, rfl⟩

theorem foldl_journal_weir (l : SMap (Nat × Nat)) (n m : Nat) (s : State) :
    (l.foldl (fun s p => s.journal 0x20 0xFF (p.1 * 256 + n) (BitVec.ofNat 64 p.2.1) (BitVec.ofNat 64 p.2.2)) s).weir m = s.weir m := by
  induction l generalizing s with
  | nil => rfl
  | cons p l ih => exact ih _

/-- The state of a region whose millisecond has been written down. -/
def State.entered (s : State) (n : Nat) : State :=
  (s.weir n).passed.foldl (fun s p => s.journal 0x20 0xFF (p.1 * 256 + n) (BitVec.ofNat 64 p.2.1) (BitVec.ofNat 64 p.2.2))
    (s.setWeir n { s.weir n with passed := [], failed := 0, failedAt := 0 })

theorem egressEntries_eq (s : State) (n : Nat) : egressEntries s n = if (s.weir n).failed = 0 then s.entered n
    else (s.entered n).journal 0x21 0xFF n (BitVec.ofNat 64 (s.weir n).failed) (BitVec.ofNat 64 (s.weir n).failedAt) := rfl

theorem State.setWeir_steady (s : State) (n : Nat) (w : Weir) : s.Steady (s.setWeir n w) := State.Steady.sdie s _

theorem State.setWeir_erased (s : State) (n : Nat) (w : Weir) : (s.setWeir n w).sdie.erased = s.sdie.erased := rfl

theorem State.entered_keeps (s : State) (n : Nat) : s.Steady (s.entered n) ∧ (s.entered n).weir n = { s.weir n with passed := [], failed := 0, failedAt := 0 } := by
  obtain ⟨t, ht⟩ : ∃ t, t = s.setWeir n { s.weir n with passed := [], failed := 0, failedAt := 0 } := ⟨_, rfl⟩
  have hsteady : s.Steady t := by rw [ht]; exact s.setWeir_steady n _
  have hweir : t.weir n = { s.weir n with passed := [], failed := 0, failedAt := 0 } := by rw [ht, State.weir_setWeir]
  rw [State.entered, ← ht, ← hweir]
  exact ⟨hsteady.trans (State.Steady.foldl (fun s _ => State.Steady.journal s _ _ _ _ _) _ t), foldl_journal_weir _ n n t⟩

theorem egressEntries_keeps (s : State) (n : Nat) : s.Steady (egressEntries s n) ∧
    (egressEntries s n).weir n = { s.weir n with passed := [], failed := 0, failedAt := 0 } := by
  obtain ⟨hsteady, hweir⟩ := s.entered_keeps n
  rw [egressEntries_eq]
  split
  · exact ⟨hsteady, hweir⟩
  · exact ⟨hsteady.trans (State.Steady.journal _ _ _ _ _ _), (State.weir_journal _ _ _ _ _ _ _).trans hweir⟩

/-- Nothing passed and nothing failed: no entry. -/
theorem egressEntries_none {s : State} {n : Nat} (hp : (s.weir n).passed = []) (hf : (s.weir n).failed = 0) : (egressEntries s n).sdie.journal = s.sdie.journal := by
  rw [egressEntries_eq, if_pos hf, State.entered, hp]
  rfl

/-- The entry of an open journal `j` in `u`. -/
def State.Logged (s u : State) (kind detail : Nat) (p0 p1 : Word) : Prop := s.sdie.journal.closed = false → s.sdie.journal.head < u.sdie.journal.head ∧
  ∀ z, SMap.get z u.sdie.journal.entries (s.sdie.journal.head % 2048) =
    ⟨BitVec.ofNat 64 s.sdie.journal.head, BitVec.ofNat 8 kind, 0xFF, BitVec.ofNat 16 detail, BitVec.ofNat 32 s.ms, p0, p1⟩

theorem egressEntries_passed {s : State} {n p b a : Nat} (hp : (s.weir n).passed = [(p, (b, a))]) :
    s.Logged (egressEntries s n) 0x20 (p * 256 + n) (BitVec.ofNat 64 b) (BitVec.ofNat 64 a) := by
  intro hopen
  obtain ⟨t, ht⟩ : ∃ t, t = s.setWeir n { s.weir n with passed := [], failed := 0, failedAt := 0 } := ⟨_, rfl⟩
  have hj : t.sdie.journal = s.sdie.journal := by rw [ht]; rfl
  have hms : t.ms = s.ms := by rw [ht]; rfl
  have hent : s.entered n = t.journal 0x20 0xFF (p * 256 + n) (BitVec.ofNat 64 b) (BitVec.ofNat 64 a) := by rw [State.entered, ← ht, hp]; rfl
  have hopen' : t.sdie.journal.closed = false := by rw [hj, hopen]
  have hone := State.journal_entry hopen' 0x20 0xFF (p * 256 + n) (BitVec.ofNat 64 b) (BitVec.ofNat 64 a)
  have htwo := State.journal_journal hopen' 0x20 0xFF (p * 256 + n) (BitVec.ofNat 64 b) (BitVec.ofNat 64 a) 0x21 0xFF n
    (BitVec.ofNat 64 (s.weir n).failed) (BitVec.ofNat 64 (s.weir n).failedAt)
  rw [hj, hms] at hone htwo
  rw [egressEntries_eq, hent]
  split
  · exact hone
  · exact htwo

theorem egressEntries_failed {s : State} {n : Nat} (hp : (s.weir n).passed = []) (hf : (s.weir n).failed ≠ 0) :
    s.Logged (egressEntries s n) 0x21 n (BitVec.ofNat 64 (s.weir n).failed) (BitVec.ofNat 64 (s.weir n).failedAt) := by
  intro hopen
  obtain ⟨t, ht⟩ : ∃ t, t = s.setWeir n { s.weir n with passed := [], failed := 0, failedAt := 0 } := ⟨_, rfl⟩
  have hj : t.sdie.journal = s.sdie.journal := by rw [ht]; rfl
  have hms : t.ms = s.ms := by rw [ht]; rfl
  have hent : s.entered n = t := by rw [State.entered, ← ht, hp]; rfl
  have h := State.journal_entry (s := t) (by rw [hj, hopen]) 0x21 0xFF n (BitVec.ofNat 64 (s.weir n).failed) (BitVec.ofNat 64 (s.weir n).failedAt)
  rw [hj, hms] at h
  rw [egressEntries_eq, if_neg hf, hent]
  exact h

/-! ### Refilling (R366) -/

/-- The state in which the region's bucket has been refilled. -/
def State.poured (s : State) (n : Nat) : State := s.setWeir n ((s.weir n).refilled s.timeUnits)

theorem State.poured_weir (s : State) (n : Nat) : (s.poured n).weir n = (s.weir n).refilled s.timeUnits := State.weir_setWeir s n _

theorem refill_empty {s : State} {n : Nat} (hon : (s.weir n).on = true) (hempty : (s.weir n).held = []) : refill s n = s.poured n := by
  rw [refill_on s n hon, ((s.weir n).refilled_keeps s.timeUnits).2.1, hempty]
  rfl

theorem refill_one {s : State} {n : Nat} {h : HeldEgress} (hon : (s.weir n).on = true) (e : (s.weir n).held = [h]) : refill s n =
    match weirPass (s.poured n) n h.kind h.bytes h.pa true with
    | none => s.poured n
    | some t => passHeld (t.setWeir n { t.weir n with held := [] }) h := by
  have hheld : ((s.weir n).refilled s.timeUnits).held = [h] := ((s.weir n).refilled_keeps s.timeUnits).2.1.trans e
  rw [refill_on s n hon, hheld]
  exact (drain_one (s := s.poured n) ((congrArg Weir.held (s.poured_weir n)).trans hheld)).trans rfl

theorem refill_pays {s : State} {n : Nat} {h : HeldEgress} {off len : Nat} (hon : (s.weir n).on = true) (e : (s.weir n).held = [h])
    (hexit : h.exit = .hostRead off len) (hopen : s.sdie.journal.closed = false) (hrate : 0 < (s.weir n).rate)
    (hlevel : h.bytes ≤ ((s.weir n).refilled s.timeUnits).level) : s.SameBytes (refill s n) ∧ ((refill s n).weir n).held = [] ∧
      ((refill s n).weir n).level = ((s.weir n).refilled s.timeUnits).level - h.bytes ∧
      (refill s n).out = s.out ++ [if rangeDelivered s h.pa len then .hostData off (s.bytesAt (.main h.pa) len) else .hostPoisoned off] := by
  have hw := s.poured_weir n
  have htime : (s.poured n).timeUnits = s.timeUnits := rfl
  have hlevel2 : (((s.poured n).weir n).refilled (s.poured n).timeUnits).level = ((s.weir n).refilled s.timeUnits).level := by
    rw [hw, htime, Weir.refilled_level hon]
  obtain ⟨w, hpass, elevel⟩ := weirPass_some (s := s.poured n) (i := n) (kind := h.kind) (n := h.bytes) (pa := h.pa) hopen
    (by rw [hw, htime, (Weir.refilled_keeps _ _).2.2, (Weir.refilled_keeps _ _).2.2]; exact hrate) (by rw [hlevel2]; exact hlevel)
  rw [refill_one hon e, hpass]
  dsimp only
  obtain ⟨u, hu⟩ : ∃ u, u = ((s.poured n).setWeir n w).setWeir n { w with held := [] } := ⟨_, rfl⟩
  have hsteady : s.Steady u := by
    rw [hu]
    exact ((s.setWeir_steady n _).trans (State.setWeir_steady _ n _)).trans (State.setWeir_steady _ n _)
  have hweir : u.weir n = { w with held := [] } := by rw [hu, State.weir_setWeir]
  obtain ⟨hout, herased, hpoison⟩ : u.out = s.out ∧ u.sdie.erased = s.sdie.erased ∧ u.poison = s.poison := by
    rw [hu, State.setWeir_out, State.setWeir_out, State.setWeir_poison, State.setWeir_poison, State.setWeir_erased, State.setWeir_erased]
    exact ⟨State.setWeir_out s n _, State.setWeir_erased s n _, State.setWeir_poison s n _⟩
  rw [State.weir_setWeir, ← hu, passHeld_host hexit, rangeDelivered_congr herased hpoison, hsteady.bytes.bytesAt]
  refine ⟨hsteady.bytes.trans ⟨rfl, rfl, rfl, rfl⟩, congrArg Weir.held hweir, ?_, congrArg (· ++ _) hout⟩
  exact (congrArg Weir.level hweir).trans (elevel.trans (by rw [hlevel2]))

theorem refill_holds {s : State} {n : Nat} {h : HeldEgress} (hon : (s.weir n).on = true) (e : (s.weir n).held = [h])
    (hno : s.sdie.journal.closed = true ∨ (s.weir n).rate = 0 ∨ ((s.weir n).refilled s.timeUnits).level < h.bytes) : refill s n = s.poured n := by
  have hw := s.poured_weir n
  have htime : (s.poured n).timeUnits = s.timeUnits := rfl
  rw [refill_one hon e, weirPass_none]
  rw [hw, htime, (Weir.refilled_keeps _ _).2.2, (Weir.refilled_keeps _ _).2.2, Weir.refilled_level hon]
  exact hno

/-! ### A reading of the sensors (R372) -/

/-- The block holds the reading. -/
def State.sensed (s : State) (v : Word) : State := { s with sdie := { s.sdie with sensor := v } }

theorem execSensorTrip_eq (volt temp clock : BitVec 16) (s : State) : execSensorTrip volt temp clock s =
    .next (match tripped s.sdie.senslim volt temp clock with
      | some (n, r, l) => eraseKeys (s.sensed (BitVec.ofNat 64 (clock.toNat * 2 ^ 32 + temp.toNat * 2 ^ 16 + volt.toNat))) n r l
      | none => s.sensed (BitVec.ofNat 64 (clock.toNat * 2 ^ 32 + temp.toNat * 2 ^ 16 + volt.toNat))) := rfl

theorem State.sensed_spec (s : State) (v : Word) : s.Steady (s.sensed v) ∧ (s.sensed v).sdie.sensor = v ∧ (s.sensed v).sdie.keys = s.sdie.keys ∧
    (s.sensed v).sdie.erased = s.sdie.erased ∧ (s.sensed v).cores = s.cores := ⟨State.Steady.sdie s _, rfl, rfl, rfl, rfl⟩

/-- A reading inside every limit of `lim`. -/
def Within (lim : Word) (volt temp clock : BitVec 16) : Prop := bitsOf lim 15 0 ≤ volt.toNat ∧ volt.toNat ≤ bitsOf lim 31 16 ∧
  temp.toInt ≤ (BitVec.ofNat 16 (bitsOf lim 47 32)).toInt ∧ clock.toNat ≤ bitsOf lim 63 48

/-- One inside them is only noted. -/
theorem sensorTrip_within {s : State} {volt temp clock : BitVec 16} (h : Within s.sdie.senslim volt temp clock) : execSensorTrip volt temp clock s =
    .next (s.sensed (BitVec.ofNat 64 (clock.toNat * 2 ^ 32 + temp.toNat * 2 ^ 16 + volt.toNat))) := by
  rw [execSensorTrip_eq, tripped_none h]

/-- One outside them erases the keys. -/
theorem sensorTrip_outside {s : State} {volt temp clock : BitVec 16} (h : ¬ Within s.sdie.senslim volt temp clock) : ∃ n r l, execSensorTrip volt temp clock s =
    .next (eraseKeys (s.sensed (BitVec.ofNat 64 (clock.toNat * 2 ^ 32 + temp.toNat * 2 ^ 16 + volt.toNat))) n r l) := by
  obtain ⟨n, r, l, e⟩ := tripped_some h
  rw [execSensorTrip_eq, e]
  exact ⟨n, r, l, rfl⟩

theorem eraseKeys_sensed (s : State) (v : Word) (n : Nat) (r l : Word) : s.Steady (eraseKeys (s.sensed v) n r l) ∧
    (eraseKeys (s.sensed v) n r l).sdie.sensor = v ∧ (eraseKeys (s.sensed v) n r l).sdie.keys = [] ∧ (eraseKeys (s.sensed v) n r l).sdie.erased = true ∧
    (∀ k, ((eraseKeys (s.sensed v) n r l).core k).keyCache = []) ∧
    (s.sdie.journal.closed = false → s.sdie.journal.head < (eraseKeys (s.sensed v) n r l).sdie.journal.head) ∧
    ∀ k < 256, (s.core k).sq.length < 64 → (s.core k).heldSq = [] →
      ((eraseKeys (s.sensed v) n r l).core k).sq = (s.core k).sq ++ [⟨BitVec.ofNat 64 (0x31 * 2 ^ 56 + 7 * 2 ^ 52), 0, 0, 0⟩] := by
  obtain ⟨t, ht⟩ : ∃ t, t = s.sensed v := ⟨_, rfl⟩
  have hsteady : s.Steady t := by rw [ht]; exact (s.sensed_spec v).1
  have hrest : t.sdie.sensor = v ∧ t.sdie.journal = s.sdie.journal ∧ ∀ k, t.core k = s.core k := by rw [ht]; exact ⟨rfl, rfl, fun _ => rfl⟩
  obtain ⟨hsensor, hjournal, hcore⟩ := hrest
  obtain ⟨hst, ekeys, eerased, -⟩ := eraseKeys_spec t n r l
  obtain ⟨esensor, ecache, ehead, etold⟩ := eraseKeys_tells t n r l
  rw [hjournal] at ehead
  rw [← ht]
  refine ⟨hsteady.trans hst, esensor.trans hsensor, ekeys, eerased, ecache, ehead, fun k hk hlen hheld => ?_⟩
  have h := etold k hk (by rw [hcore]; exact ⟨hlen, hheld⟩)
  rwa [hcore] at h

/-! ### The obligation -/

/-- Settles O43. -/
theorem egressAndSensorsAct : Obligations.EgressAndSensorsAct := by
  intro s n volt temp clock hn
  have hn' : ¬ n ≥ 16 := by omega
  have hrefill : exec (.weirRefill n) s = .next (refill s n) := if_neg hn'
  have htimeout : exec (.weirTimeout n) s = .next (expire s n) := if_neg hn'
  have hentries : exec (.weirEgressEntry n) s = .next (egressEntries s n) := if_neg hn'
  have hlevel (hon : (s.weir n).on = true) := congrArg Weir.level (Weir.refilled_on hon s.timeUnits)
  rw [hrefill, htimeout, hentries]
  refine ⟨?_, ?_, ?_, ?_, ?_, ?_, ?_, ?_, ?_, ?_⟩
  · intro h
    rw [refill_off s n h]
  · intro hon hempty
    refine ⟨_, congrArg Host.Outcome.next (refill_empty hon hempty), ⟨rfl, rfl, rfl, rfl⟩, ?_⟩
    exact (s.poured_weir n).trans (Weir.refilled_on hon s.timeUnits)
  · intro h off len hon e hexit hopen hpos hle
    obtain ⟨hbytes, hheld, hpaid, hout⟩ := refill_pays hon e hexit hopen hpos (by rw [hlevel hon]; exact hle)
    exact ⟨_, rfl, hbytes, hheld, hpaid.trans (by rw [hlevel hon]; rfl), hout⟩
  · intro h hon e hno
    refine ⟨_, congrArg Host.Outcome.next (refill_holds hon e (by rw [hlevel hon]; exact hno)), ⟨rfl, rfl, rfl, rfl⟩, ?_, rfl⟩
    rw [s.poured_weir n, ((s.weir n).refilled_keeps s.timeUnits).2.1, e]
  · intro h
    rw [expire_none h]
  · intro h off len e hdue hexit
    obtain ⟨w, ew, eheld, efailed⟩ := expire_one e hdue
    rw [ew, failHeld, hexit]
    exact ⟨_, rfl, ⟨rfl, rfl, rfl, rfl⟩, by rw [← eheld]; exact congrArg Weir.held (State.weir_setWeir s n w),
      by rw [← efailed]; exact congrArg Weir.failed (State.weir_setWeir s n w), rfl⟩
  · obtain ⟨hsteady, hweir⟩ := egressEntries_keeps s n
    exact ⟨_, rfl, hsteady.bytes, hweir, egressEntries_none, fun p b a => egressEntries_passed, egressEntries_failed⟩
  · exact fun h => congrArg Host.Outcome.next (journalTimer_waits h)
  · intro hsince hopen hdue
    obtain ⟨hbytes, hhead, hz, hmem, hentry⟩ := journalTimer_due hsince hopen hdue
    exact ⟨_, rfl, hbytes, hhead, hz, hmem, fun _ => ⟨by rw [hhead]; omega, hentry⟩⟩
  · by_cases hok : Within s.sdie.senslim volt temp clock
    · obtain ⟨hsteady, hsensor, hrest⟩ := s.sensed_spec (BitVec.ofNat 64 (clock.toNat * 2 ^ 32 + temp.toNat * 2 ^ 16 + volt.toNat))
      exact ⟨_, sensorTrip_within hok, hsteady.bytes, hsteady.ctx, hsensor, fun _ => hrest, fun h => absurd hok h⟩
    · obtain ⟨i, r, l, e⟩ := sensorTrip_outside hok
      obtain ⟨hsteady, hsensor, herase⟩ := eraseKeys_sensed s (BitVec.ofNat 64 (clock.toNat * 2 ^ 32 + temp.toNat * 2 ^ 16 + volt.toNat)) i r l
      exact ⟨_, e, hsteady.bytes, hsteady.ctx, hsensor, fun h => absurd h hok, fun _ => herase⟩

end Sys2Proof.Machine
end

section
/-! O37 (R249 to R251, R358 to R361, R369, R371): the key slots and the journal's own entries. -/

namespace Sys2Proof.Machine

/-! ### Instructions that answer a value at once (R83, R249 to R251) -/

/-- `t` runs the thread of `s`, with the bytes and the registers of `s`. -/
structure State.Beside (s t : State) : Prop where
  bytes : s.SameBytes t
  cur : t.cur = s.cur
  regs : ∀ q, (t.ctxOf q).regs = (s.ctxOf q).regs

theorem State.Keeps.beside {s t : State} (h : s.Keeps t) : s.Beside t := ⟨h.bytes, h.touches.cur, h.regs⟩

theorem State.Beside.refl (s : State) : s.Beside s := (State.Keeps.refl s).beside

theorem State.Beside.then {s t u : State} (h : s.Beside t) (h' : t.Steady u) (hc : u.cur = t.cur) : s.Beside u :=
  ⟨h.bytes.trans h'.bytes, hc.trans h.cur, fun q => by rw [h'.ctx, h.regs]⟩

/-- What an access may touch leaves the package's keys and journal, and the cores' key caches. -/
theorem State.Keeps.keys {s t : State} (h : s.Keeps t) : t.sdie.keys = s.sdie.keys ∧ t.sdie.journal = s.sdie.journal ∧
    (∀ k, (t.core k).keyCache = (s.core k).keyCache) ∧ t.timeUnits = s.timeUnits := by
  have hd := h.touches.sdie
  refine ⟨by rw [hd], by rw [hd], fun k => ?_, by rw [h.touches.rest]⟩
  exact (congrArg Core.keyCache (h.touches.core k) :)

theorem State.keyCache_setS (s : State) (d : BitVec 5) (v : Word) (k : Nat) : ((s.setS d v).core k).keyCache = (s.core k).keyCache := by
  rw [State.setS, State.setMe, State.core_setCtx]
  split
  · rfl
  · rfl

/-- An instruction that writes `v` to S[d] and waits with kind 1 for its reply. -/
theorem answers_with {s t : State} {i : Instr} {d : BitVec 5} {v : Word} {obj : Nat} (he : exec i s = .next (awaitReply (t.setS d v) obj)) (h : s.Beside t) :
    ∃ u, exec i s = .next u ∧ s.SameBytes u ∧ s.Waits u 1 obj .reply ∧ .memoryReply s.cur.core s.cur.ctx ∈ u.agenda ∧
      (∀ q, (u.ctxOf q).regs = if q = s.cur then (s.me.writeS d v).regs else (s.ctxOf q).regs) ∧
      u.sdie.keys = t.sdie.keys ∧ u.sdie.journal = t.sdie.journal ∧ ∀ k, (u.core k).keyCache = (t.core k).keyCache := by
  obtain ⟨w, hw⟩ : ∃ w, w = t.setS d v := ⟨_, rfl⟩
  have hcur : w.cur = s.cur := by rw [hw]; exact h.cur
  have hsdie : w.sdie = t.sdie := by rw [hw]; rfl
  have hcache (k : Nat) : (w.core k).keyCache = (t.core k).keyCache := by rw [hw, t.keyCache_setS]
  have hctx (q : ThreadRef) : (w.ctxOf q).regs = if q = s.cur then (s.me.writeS d v).regs else (s.ctxOf q).regs := by
    rw [hw, State.setS, State.ctxOf_setMe, h.cur]
    split
    · rw [Context.writeS_regs, Context.writeS_regs, State.me, h.cur, h.regs]; rfl
    · exact h.regs q
  have hbytes : w.bytes = s.bytes := by rw [hw]; simp [h.bytes.bytes_eq]
  have hk := awaitReply_keeps w obj
  obtain ⟨hkeys, hjournal, hcache', -⟩ := hk.keys
  have hwait := leave_waits w 1 obj .reply
  have hreply := awaitReply_reply w obj
  rw [hcur] at hreply
  rw [← hw] at he
  exact ⟨_, he, State.sameBytes_iff.mpr (hk.bytes.bytes_eq.trans hbytes), ⟨hcur ▸ hwait.wait, hcur ▸ hwait.pend⟩, hreply,
    fun q => (hk.regs q).trans (hctx q), hkeys.trans (by rw [hsdie]), hjournal.trans (by rw [hsdie]), fun k => (hcache' k).trans (hcache k)⟩

/-! ### The key store -/

@[simp] theorem setKey_slot (s : State) (i j : Nat) (k : KeySlot) : (setKey s i k).sdie.slot j = if j = i then k else s.sdie.slot j :=
  SMap.get_set _ _ _ _ _

theorem setKey_spec (s : State) (i : Nat) (k : KeySlot) : s.Steady (setKey s i k) ∧ (setKey s i k).cur = s.cur := ⟨State.Steady.sdie s _, rfl⟩

theorem placeKey_spec (s : State) (kind slot : Nat) (key : List Nat) (p0 : Word) : s.Steady (placeKey s kind slot key p0) ∧
    (placeKey s kind slot key p0).cur = s.cur ∧ ∀ j, (placeKey s kind slot key p0).sdie.slot j =
      if j = slot then { occupied := true, use := 0, key := BitVec.ofNat 512 (leNat key) } else s.sdie.slot j := by
  obtain ⟨t, ht⟩ : ∃ t, t = setKey s slot { occupied := true, use := 0, key := BitVec.ofNat 512 (leNat key) } := ⟨_, rfl⟩
  have hsteady : s.Steady t := by rw [ht]; exact (setKey_spec s slot _).1
  have hslot (j : Nat) : t.sdie.slot j = if j = slot then { occupied := true, use := 0, key := BitVec.ofNat 512 (leNat key) } else s.sdie.slot j := by
    rw [ht, setKey_slot]
  have hcur : t.cur = s.cur := by rw [ht]; rfl
  rw [placeKey, ← ht]
  exact ⟨hsteady.trans (State.Steady.journal t _ _ _ _ _), hcur, hslot⟩

theorem slotFields_none {v : Word} {src : Bool} (h : v.toNat / 2 ^ 6 % 4 ≠ 0 ∨ v.toNat / 2 ^ 14 % 4 ≠ 0 ∨ v.toNat / 2 ^ 18 ≠ 0 ∨
    (src = false ∧ v.toNat / 2 ^ 8 % 64 ≠ 0)) : slotFields v src = none := by
  have hv := v.isLt
  unfold slotFields
  simp only [bitsOf_eq]
  refine if_pos ?_
  rcases h with h | h | h | ⟨h, h'⟩
  · exact .inl h
  · exact .inr (.inl h)
  · exact .inr (.inr (.inl (by omega)))
  · exact .inr (.inr (.inr ⟨h, h'⟩))

theorem slotFields_some {v : Word} {src : Bool} (h6 : v.toNat / 2 ^ 6 % 4 = 0) (h14 : v.toNat / 2 ^ 14 % 4 = 0) (h18 : v.toNat / 2 ^ 18 = 0)
    (h8 : src = false → v.toNat / 2 ^ 8 % 64 = 0) : slotFields v src = some (v.toNat % 64, v.toNat / 2 ^ 8 % 64, v.toNat / 2 ^ 16 % 4) := by
  unfold slotFields
  simp only [bitsOf_eq]
  rw [if_neg]
  · simp only [Option.some.injEq, Prod.mk.injEq]
    exact ⟨by omega, by omega, by omega⟩
  · rintro (h | h | h | ⟨h, h'⟩)
    · exact h h6
    · exact h h14
    · omega
    · exact h' (h8 h)

/-- The bits that every slot word leaves zero. -/
def BadForm (v : Word) : Prop := v.toNat / 2 ^ 6 % 4 ≠ 0 ∨ v.toNat / 2 ^ 14 % 4 ≠ 0 ∨ v.toNat / 2 ^ 18 ≠ 0

theorem slotWord_none {v : Word} {src : Bool} (h : (BadForm v ∨ v.toNat / 2 ^ 16 % 4 = 3) ∨ src = false ∧ v.toNat / 2 ^ 8 % 64 ≠ 0) : slotWord v src = none := by
  unfold slotWord
  split
  · rfl
  · rename_i h3
    refine slotFields_none ?_
    rcases h with (h | h) | h
    · rcases h with h | h | h
      · exact .inl h
      · exact .inr (.inl h)
      · exact .inr (.inr (.inl h))
    · exact absurd ((bitsOf_eq v 17 16).trans h) h3
    · exact .inr (.inr (.inr h))

theorem slotWord_some {v : Word} {src : Bool} (h : ¬ (BadForm v ∨ v.toNat / 2 ^ 16 % 4 = 3)) (h8 : src = false → v.toNat / 2 ^ 8 % 64 = 0) :
    slotWord v src = some (v.toNat % 64, v.toNat / 2 ^ 8 % 64, v.toNat / 2 ^ 16 % 4) := by
  unfold BadForm at h
  rw [slotWord, if_neg (by rw [bitsOf_eq]; omega)]
  exact slotFields_some (by omega) (by omega) (by omega) h8

/-! ### Lines of a key instruction -/

theorem keyLines_keeps {s t : State} {a : Word} {bad : Bool} {n : Nat} {acc : List Nat} {e : Except (Option (Nat × Word)) (List Nat)}
    (h : keyLines s a bad n acc = (e, t)) : s.Keeps t := by
  induction n generalizing s a acc with
  | zero =>
    cases h
    exact State.Keeps.refl _
  | succ n ih =>
    unfold keyLines at h
    split at h
    · rename_i c s' hcheck
      cases h
      exact checkMe_keeps hcheck
    · rename_i l s' hcheck
      have hk := checkMe_keeps hcheck
      have hload := loadLine_keeping s' s'.myWho { l with uncached := true }
      split at h
      · rename_i u hl
        cases h
        rw [hl] at hload
        exact hk.then (hload.1 _ rfl)
      · rename_i u hl
        rw [hl] at hload
        exact (hk.then (loadedMe_keeps (hload.2 _ rfl) _)).then (ih h)

/-! ### The instructions -/

theorem atLeast_monitor {s : State} (h : s.me.level = .m) (f : State → State) : atLeast .m s f = f s :=
  if_neg (by rw [h]; decide)

theorem atLeast_monitor_below {s : State} (h : s.me.level ≠ .m) (f : State → State) : atLeast .m s f = trap s 0x04 s.irWord :=
  if_pos (by revert h; cases s.me.level <;> decide)

/-- What stands in the key store's slot `i` is in use. -/
def State.KeyIn (s : State) (i : Nat) : Prop := (s.sdie.slot i).occupied = true

/-- A destination that takes no key. -/
def State.Refuses (s : State) (v : Word) : Prop := v.toNat / 2 ^ 16 % 4 ≠ 0 ∨ 62 ≤ v.toNat % 64 ∨ s.KeyIn (v.toNat % 64)

section
variable {s : State} {d a b : BitVec 5} (hm : s.me.level = .m)
include hm

theorem kload_refused (h : (BadForm (s.S a) ∨ (s.S a).toNat / 2 ^ 16 % 4 = 3) ∨ (s.S a).toNat / 2 ^ 8 % 64 ≠ 0 ∨ s.Refuses (s.S a)) :
    Traps s (.kload d a b) 0x01 (s.S a) := by
  show execKload d a b s = _
  rw [execKload, atLeast_monitor hm]
  dsimp only
  by_cases hf : (BadForm (s.S a) ∨ (s.S a).toNat / 2 ^ 16 % 4 = 3) ∨ false = false ∧ (s.S a).toNat / 2 ^ 8 % 64 ≠ 0
  · rw [slotWord_none hf]
  · rw [not_or] at hf
    have hsrc : (s.S a).toNat / 2 ^ 8 % 64 = 0 := by simpa using hf.2
    rw [slotWord_some hf.1 (fun _ => hsrc)]
    have href : s.Refuses (s.S a) := (h.resolve_left hf.1).resolve_left (fun hne => hne hsrc)
    exact congrArg Host.Outcome.next (if_pos href)

/-- KLOAD from a good slot word reads its block. -/
theorem kload_reads (hgood : ¬ (BadForm (s.S a) ∨ (s.S a).toNat / 2 ^ 16 % 4 = 3)) (hsrc : (s.S a).toNat / 2 ^ 8 % 64 = 0) (href : ¬ s.Refuses (s.S a)) :
    exec (.kload d a b) s = .next (match keyLines s (s.S b) true 3 [] with
      | (.error (some (c, va)), t) => trap t c va
      | (.error none, t) => leave t 1 (s.S b).toNat .reissue
      | (.ok blk, t) =>
        if t.sdie.journal.closed then awaitReply (t.setS d 2) (s.S b).toNat
        else match unwrapBlock blk with
          | none => awaitReply (t.setS d 1) (s.S b).toNat
          | some key => awaitReply ((placeKey t 0x10 ((s.S a).toNat % 64) key (BitVec.ofNat 64 (leNat ((blk.drop 0x88).take 8)))).setS d 0) (s.S b).toNat) := by
  show execKload d a b s = _
  rw [execKload, atLeast_monitor hm]
  dsimp only
  rw [slotWord_some hgood (fun _ => hsrc)]
  refine congrArg Host.Outcome.next ((if_neg href).trans ?_)
  obtain ⟨e, t⟩ := keyLines s (s.S b) true 3 []
  rcases e with (_ | ⟨c, va⟩) | blk
  · rfl
  · rfl
  · cases h : unwrapBlock blk <;> simp only [h]

theorem kder_refused (h : (BadForm (s.S a) ∨ (s.S a).toNat / 2 ^ 16 % 4 = 3) ∨ s.Refuses (s.S a) ∨ ¬ s.KeyIn ((s.S a).toNat / 2 ^ 8 % 64)) :
    Traps s (.kder d a b) 0x01 (s.S a) := by
  show execKder d a b s = _
  rw [execKder, atLeast_monitor hm]
  dsimp only
  by_cases hf : BadForm (s.S a) ∨ (s.S a).toNat / 2 ^ 16 % 4 = 3
  · rw [slotWord_none (src := true) (.inl hf)]
  · rw [slotWord_some (src := true) hf (fun h => nomatch h)]
    refine congrArg Host.Outcome.next (if_pos ?_)
    rcases h.resolve_left hf with (h | h | h) | h
    · exact .inl h
    · exact .inr (.inl h)
    · exact .inr (.inr (.inl h))
    · exact .inr (.inr (.inr (Bool.eq_false_iff.mpr h)))

theorem kder_reads (hgood : ¬ (BadForm (s.S a) ∨ (s.S a).toNat / 2 ^ 16 % 4 = 3)) (href : ¬ s.Refuses (s.S a)) (hsrc : s.KeyIn ((s.S a).toNat / 2 ^ 8 % 64)) :
    exec (.kder d a b) s = .next (match keyLines s (s.S b) false 1 [] with
      | (.error (some (c, va)), t) => trap t c va
      | (.error none, t) => leave t 1 (s.S b).toNat .reissue
      | (.ok info, t) =>
        if t.sdie.journal.closed then awaitReply (t.setS d 2) (s.S b).toNat
        else if (t.sdie.slot ((s.S a).toNat / 2 ^ 8 % 64)).use ≠ 0 then awaitReply (t.setS d 1) (s.S b).toNat
        else awaitReply ((placeKey t 0x11 ((s.S a).toNat % 64) ((hkdf (t.sdie.slot ((s.S a).toNat / 2 ^ 8 % 64)).bytes info 48).take 32)
          (BitVec.ofNat 64 ((s.S a).toNat / 2 ^ 8 % 64))).setS d 0) (s.S b).toNat) := by
  show execKder d a b s = _
  rw [execKder, atLeast_monitor hm]
  dsimp only
  rw [slotWord_some (src := true) hgood (fun h => nomatch h)]
  refine congrArg Host.Outcome.next ((if_neg ?_).trans ?_)
  · rintro (h | h | h | h)
    · exact href (.inl h)
    · exact href (.inr (.inl h))
    · exact href (.inr (.inr h))
    · exact Bool.eq_false_iff.mp h hsrc
  · obtain ⟨e, t⟩ := keyLines s (s.S b) false 1 []
    rcases e with (_ | ⟨c, va⟩) | blk <;> rfl

end

/-! ### Purging (R250) -/

theorem purgeKey_spec (s : State) (k slot : Nat) : s.Steady (purgeKey s k slot) ∧ (purgeKey s k slot).cur = s.cur ∧ (purgeKey s k slot).sdie = s.sdie ∧
    ∀ j, ((purgeKey s k slot).core j).keyCache = if j = k then (s.core j).keyCache.filter (fun p => decide (p.1 ≠ slot)) else (s.core j).keyCache := by
  refine ⟨State.Steady.setCore rfl, rfl, rfl, fun j => ?_⟩
  rw [purgeKey, State.core_setCore]
  split
  · subst j; rfl
  · rfl

/-- Cores purge a slot's key one after another. -/
theorem purgeAll_spec (slot : Nat) (l : List Nat) (s : State) : s.Steady (l.foldl (fun s k => purgeKey s k slot) s) ∧
    (l.foldl (fun s k => purgeKey s k slot) s).cur = s.cur ∧ (l.foldl (fun s k => purgeKey s k slot) s).sdie = s.sdie ∧
    ∀ j, (∀ p ∈ ((l.foldl (fun s k => purgeKey s k slot) s).core j).keyCache, p ∈ (s.core j).keyCache) ∧
      (j ∈ l → ∀ p ∈ ((l.foldl (fun s k => purgeKey s k slot) s).core j).keyCache, p.1 ≠ slot) := by
  induction l generalizing s with
  | nil => exact ⟨State.Steady.refl s, rfl, rfl, fun j => ⟨fun _ h => h, (nomatch ·)⟩⟩
  | cons k l ih =>
    obtain ⟨hsteady, hcur, hsdie, hcache⟩ := purgeKey_spec s k slot
    obtain ⟨hsteady', hcur', hsdie', hcache'⟩ := ih (purgeKey s k slot)
    refine ⟨hsteady.trans hsteady', hcur'.trans hcur, hsdie'.trans hsdie, fun j => ⟨fun p hp => ?_, fun hj p hp => ?_⟩⟩
    · have h := (hcache' j).1 p hp
      rw [hcache j] at h
      split at h
      · exact List.mem_of_mem_filter h
      · exact h
    · obtain rfl | hj := List.mem_cons.mp hj
      · have h := (hcache' j).1 p hp
        rw [hcache j, if_pos rfl] at h
        exact of_decide_eq_true (List.mem_filter.mp h).2
      · exact (hcache' j).2 hj p hp

/-- The state in which a slot is empty and every core has purged its key. -/
def State.revoked (s : State) (slot : Nat) : State :=
  let t := (List.range 256).foldl (fun s k => purgeKey s k slot) (setKey s slot {})
  if (s.sdie.slot slot).occupied then t.journal 0x12 t.cur.core slot 0 1 else t

theorem State.revoked_spec (s : State) (slot : Nat) : s.Steady (s.revoked slot) ∧ (s.revoked slot).cur = s.cur ∧
    (∀ j, (s.revoked slot).sdie.slot j = if j = slot then {} else s.sdie.slot j) ∧
    ∀ k < 256, ∀ p ∈ ((s.revoked slot).core k).keyCache, p.1 ≠ slot := by
  obtain ⟨t, ht⟩ : ∃ t, t = (List.range 256).foldl (fun s k => purgeKey s k slot) (setKey s slot {}) := ⟨_, rfl⟩
  obtain ⟨hsteady, hcur, hsdie, hcache⟩ := purgeAll_spec slot (List.range 256) (setKey s slot {})
  rw [← ht] at hsteady hcur hsdie hcache
  have hst : s.Steady t := (setKey_spec s slot {}).1.trans hsteady
  have hslot (j : Nat) : t.sdie.slot j = if j = slot then {} else s.sdie.slot j := by rw [hsdie, setKey_slot]
  have hcur' : t.cur = s.cur := hcur.trans (setKey_spec s slot {}).2
  have hgone (k : Nat) (hk : k < 256) := (hcache k).2 (List.mem_range.mpr hk)
  rw [State.revoked, ← ht]
  split
  · exact ⟨hst.trans (State.Steady.journal t _ _ _ _ _), hcur', hslot, hgone⟩
  · exact ⟨hst, hcur', hslot, hgone⟩

section
variable {s : State} {d a : BitVec 5} (hm : s.me.level = .m)
include hm

theorem krev_refused (h : BadForm (s.S a) ∨ (s.S a).toNat / 2 ^ 8 % 64 ≠ 0 ∨ 62 ≤ (s.S a).toNat % 64) : Traps s (.krev d a) 0x01 (s.S a) := by
  show execKrev d a s = _
  rw [execKrev, atLeast_monitor hm]
  dsimp only
  by_cases hf : BadForm (s.S a) ∨ (s.S a).toNat / 2 ^ 8 % 64 ≠ 0
  · rw [slotFields_none]
    rcases hf with (h | h | h) | h
    · exact .inl h
    · exact .inr (.inl h)
    · exact .inr (.inr (.inl h))
    · exact .inr (.inr (.inr ⟨rfl, h⟩))
  · rw [not_or] at hf
    unfold BadForm at hf
    rw [slotFields_some (by omega) (by omega) (by omega) (fun _ => by omega)]
    exact congrArg Host.Outcome.next (if_pos ((h.resolve_left hf.1).resolve_left hf.2))

theorem krev_revokes (hgood : ¬ BadForm (s.S a)) (hsrc : (s.S a).toNat / 2 ^ 8 % 64 = 0) (hdst : (s.S a).toNat % 64 < 62) : exec (.krev d a) s =
    .next (awaitReply ((s.revoked ((s.S a).toNat % 64)).setS d (if (s.sdie.slot ((s.S a).toNat % 64)).occupied then 1 else 0)) 0) := by
  show execKrev d a s = _
  unfold BadForm at hgood
  rw [execKrev, atLeast_monitor hm]
  dsimp only
  rw [slotFields_some (by omega) (by omega) (by omega) (fun _ => hsrc)]
  exact congrArg Host.Outcome.next ((if_neg (by omega)).trans rfl)

end

/-! ### The obligation -/

/-- Settles O37. -/
theorem keysAndJournal : Obligations.KeysAndJournal := by
  refine ⟨fun s d a b => ⟨fun hm => ?_, fun hm => ?_, fun hu => ?_, fun hs hclosed => ?_, fun hs hopen => ?_⟩, fun s k slot hk => ⟨fun h => ?_, fun h => ?_⟩⟩
  · refine ⟨?_, ?_, ?_⟩
    · exact congrArg Host.Outcome.next (atLeast_monitor_below hm _)
    · exact congrArg Host.Outcome.next (atLeast_monitor_below hm _)
    · exact congrArg Host.Outcome.next (atLeast_monitor_below hm _)
  · refine ⟨fun h => ?_, fun hgood hsrc href => ?_, fun h => ?_, fun hgood href hsrc => ?_, fun h => ?_, fun hgood hsrc hdst => ?_⟩
    · exact kload_refused hm (by
        rcases h with h | h | h
        · exact .inl h
        · exact .inr (.inl h)
        · exact .inr (.inr h))
    · have he := kload_reads (d := d) (b := b) hm hgood hsrc href
      have hempty : ¬ s.KeyIn ((s.S a).toNat % 64) := fun h => href (.inr (.inr h))
      refine ⟨fun c va s' h => ?_, fun s' h => ?_, fun blk s' h => ?_⟩
      · rw [he, h]
      · rw [h] at he
        dsimp only at he
        exact retries_with he (keyLines_keeps h)
      · obtain ⟨ekeys, ejournal, -⟩ := (keyLines_keeps h).keys
        have hbeside := (keyLines_keeps h).beside
        rw [h] at he
        dsimp only at he
        rw [ejournal] at he
        have hocc (u : State) (e : u.sdie.keys = s'.sdie.keys) : (SMap.get {} u.sdie.keys ((s.S a).toNat % 64) : KeySlot).occupied = false := by
          rw [e, ekeys]
          exact Bool.eq_false_iff.mpr hempty
        refine ⟨fun hj => ?_, fun hj hunwrap => ?_, fun key hj hunwrap => ?_⟩
        · rw [if_pos hj] at he
          obtain ⟨u, e, hb, hw, hr, hregs, hkeys, -⟩ := answers_with he hbeside
          exact ⟨u, e, hb, hw, hr, hregs, hocc u hkeys⟩
        · rw [if_neg (by rw [hj]; decide), hunwrap] at he
          obtain ⟨u, e, hb, hw, hr, hregs, hkeys, -⟩ := answers_with he hbeside
          exact ⟨u, e, hb, hw, hr, hregs, hocc u hkeys⟩
        · rw [if_neg (by rw [hj]; decide), hunwrap] at he
          obtain ⟨hsteady, hcur, hslot⟩ := placeKey_spec s' 0x10 ((s.S a).toNat % 64) key (BitVec.ofNat 64 (leNat ((blk.drop 0x88).take 8)))
          obtain ⟨u, e, hb, hw, hr, hregs, hkeys, -⟩ := answers_with he (hbeside.then hsteady hcur)
          refine ⟨u, e, hb, hw, hr, hregs, ?_, fun i hi => ?_⟩
          · rw [hkeys]
            exact (hslot _).trans (if_pos rfl)
          · rw [hkeys, ← ekeys]
            exact (hslot i).trans (if_neg hi)
    · exact kder_refused hm (by
        rcases h with h | h | h
        · exact .inl h
        · exact .inr (.inl h)
        · exact .inr (.inr (Bool.eq_false_iff.mp h)))
    · have he := kder_reads (d := d) (b := b) hm hgood href hsrc
      have hempty : ¬ s.KeyIn ((s.S a).toNat % 64) := fun h => href (.inr (.inr h))
      refine ⟨fun c va s' h => ?_, fun s' h => ?_, fun info s' h => ?_⟩
      · rw [he, h]
      · rw [h] at he
        dsimp only at he
        exact retries_with he (keyLines_keeps h)
      · obtain ⟨ekeys, ejournal, -⟩ := (keyLines_keeps h).keys
        have hbeside := (keyLines_keeps h).beside
        have eslot (i : Nat) : s'.sdie.slot i = s.sdie.slot i := by rw [Sdie.slot, ekeys]; rfl
        rw [h] at he
        dsimp only at he
        rw [ejournal, eslot, Sdie.slot] at he
        have hocc (u : State) (e : u.sdie.keys = s'.sdie.keys) : (SMap.get {} u.sdie.keys ((s.S a).toNat % 64) : KeySlot).occupied = false := by
          rw [e, ekeys]
          exact Bool.eq_false_iff.mpr hempty
        refine ⟨fun hj => ?_, fun hj huse => ?_, fun hj huse => ?_⟩
        · rw [if_pos hj] at he
          obtain ⟨u, e, hb, hw, hr, hregs, hkeys, -⟩ := answers_with he hbeside
          exact ⟨u, e, hb, hw, hr, hregs, hocc u hkeys⟩
        · rw [if_neg (by rw [hj]; decide), if_pos huse] at he
          obtain ⟨u, e, hb, hw, hr, hregs, hkeys, -⟩ := answers_with he hbeside
          exact ⟨u, e, hb, hw, hr, hregs, hocc u hkeys⟩
        · rw [if_neg (by rw [hj]; decide), if_neg (not_not_intro huse)] at he
          obtain ⟨hsteady, hcur, hslot⟩ := placeKey_spec s' 0x11 ((s.S a).toNat % 64)
            ((hkdf (SMap.get {} s.sdie.keys ((s.S a).toNat / 2 ^ 8 % 64) : KeySlot).bytes info 48).take 32) (BitVec.ofNat 64 ((s.S a).toNat / 2 ^ 8 % 64))
          obtain ⟨u, e, hb, hw, hr, hregs, hkeys, -⟩ := answers_with he (hbeside.then hsteady hcur)
          refine ⟨u, e, hb, hw, hr, hregs, ?_⟩
          dsimp only
          rw [hkeys]
          exact (hslot _).trans (if_pos rfl)
    · exact krev_refused hm h
    · obtain ⟨hsteady, hcur, hslot, hcache⟩ := s.revoked_spec ((s.S a).toNat % 64)
      obtain ⟨u, e, hb, hw, hr, hregs, hkeys, -, ecache⟩ := answers_with (krev_revokes (d := d) hm hgood hsrc hdst) ((State.Beside.refl s).then hsteady hcur)
      refine ⟨u, e, hb, hw, hr, hregs, ?_, fun i hi => ?_, fun k hk p hp => ?_⟩
      · show (u.sdie.slot ((s.S a).toNat % 64)).occupied = false
        rw [Sdie.slot, hkeys]
        exact congrArg KeySlot.occupied ((hslot _).trans (if_pos rfl))
      · rw [hkeys]
        exact (hslot i).trans (if_neg hi)
      · rw [ecache] at hp
        exact hcache k hk p hp
  · exact congrArg Host.Outcome.next (atLeast_supervisor_user hu _)
  · have he : exec (.japp d a b) s = .next (awaitReply (s.setS d (BitVec.allOnes 64)) 0) :=
      congrArg Host.Outcome.next ((atLeast_supervisor hs _).trans (if_pos hclosed))
    obtain ⟨u, e, hb, hw, hr, hregs, -, hj, -⟩ := answers_with he (State.Beside.refl s)
    exact ⟨u, e, hb, hw, hr, hregs, hj⟩
  · obtain ⟨t, ht⟩ : ∃ t, t = s.journal 0x80 s.cur.core 0 (s.S a) (s.S b) := ⟨_, rfl⟩
    have hsteady : s.Steady t := by rw [ht]; exact State.Steady.journal s _ _ _ _ _
    have hcur : t.cur = s.cur := by rw [ht]; rfl
    have hlog := State.journal_entry hopen 0x80 s.cur.core 0 (s.S a) (s.S b)
    have he : exec (.japp d a b) s = .next (awaitReply ((s.journal 0x80 s.cur.core 0 (s.S a) (s.S b)).setS d (BitVec.ofNat 64 s.sdie.journal.head)) 0) :=
      congrArg Host.Outcome.next ((atLeast_supervisor hs _).trans (if_neg (by rw [hopen]; decide)))
    rw [← ht] at hlog he
    obtain ⟨u, e, hb, hw, hr, hregs, -, hj, -⟩ := answers_with he ((State.Beside.refl s).then hsteady hcur)
    rw [← hj] at hlog
    exact ⟨u, e, hb, hw, hr, hregs, hlog⟩
  · show execKeyCachePurge k slot s = _
    rw [execKeyCachePurge, coreExists_of hk]
    exact if_pos h
  · obtain ⟨hsteady, -, -, hcache⟩ := purgeKey_spec s k slot
    refine ⟨purgeKey s k slot, ?_, hsteady.bytes, hsteady.ctx, (hcache k).trans (if_pos rfl)⟩
    show execKeyCachePurge k slot s = _
    rw [execKeyCachePurge, coreExists_of hk]
    exact if_neg (Bool.eq_false_iff.mp h)

end Sys2Proof.Machine
end

section
/-! O52 (R81, R104, R112, R116, R192, R304, R305): a step runs the instruction on offer or an event of the agenda. -/

namespace Sys2Proof.Machine

/-! ### What an offer issues (R81, R391) -/

/-- The context can issue at its turn. -/
def Issues (s : State) (c : Core) (x : Context) : Prop :=
  x.st = .bound ∧ x.stopped = false ∧ x.wait = 0 ∧ x.pend = .none ∧ x.readyAt ≤ s.cycle ∧ c.dead = false

theorem canIssue_iff (s : State) (c : Core) (x : Context) : canIssue s c x = true ↔ Issues s c x := by
  simp [canIssue, Issues, and_assoc]

theorem issue_vacant {s : State} (h : (s.core s.turn).boundTo (s.cycle % 16) = none) : issue s = .next s := by
  rw [issue, issueNext]
  dsimp only
  rw [h]

section
variable {s : State} {i : Nat} (hb : (s.core s.turn).boundTo (s.cycle % 16) = some i)
include hb

theorem issue_waits (h : ¬ Issues s (s.core s.turn) ((s.core s.turn).ctx i)) : issue s = .next s := by
  rw [issue, issueNext]
  dsimp only
  rw [hb]
  dsimp only
  rw [if_pos (by rw [Bool.eq_false_iff.mpr (fun e => h ((canIssue_iff _ _ _).mp e))]; rfl)]

theorem issueNext_break (h : Issues s (s.core s.turn) ((s.core s.turn).ctx i))
    (hm : ((s.core s.turn).ctx i).chain.len = 0 ∧ ((s.core s.turn).ctx i).skipCmp = false ∧ pcMatch (s.core s.turn) ((s.core s.turn).ctx i) = true) :
    issueNext s = .idle (breakAt { s with cur := ⟨s.turn, i⟩ }) := by
  obtain ⟨hlen, hskip, hpc⟩ := hm
  rw [issueNext]
  dsimp only
  rw [hb]
  dsimp only
  rw [if_neg (by rw [(canIssue_iff _ _ _).mpr h]; decide), if_pos (by rw [hlen, hskip, hpc]; decide)]

theorem issueNext_fetches (h : Issues s (s.core s.turn) ((s.core s.turn).ctx i))
    (hm : ((s.core s.turn).ctx i).chain.len ≠ 0 ∨ ((s.core s.turn).ctx i).skipCmp = true ∨ pcMatch (s.core s.turn) ((s.core s.turn).ctx i) = false) :
    issueNext s = issueFetched (State.setMe { s with cur := ⟨s.turn, i⟩ } { (s.core s.turn).ctx i with skipCmp := false }) := by
  rw [issueNext]
  dsimp only
  rw [hb]
  dsimp only
  rw [if_neg (by rw [(canIssue_iff _ _ _).mpr h]; decide), if_neg]
  intro hall
  simp only [Bool.and_eq_true, Bool.not_eq_true', decide_eq_true_eq] at hall
  obtain ⟨⟨hlen, hskip⟩, hpc⟩ := hall
  rcases hm with hm | hm | hm
  · exact hm hlen
  · rw [hskip] at hm; contradiction
  · rw [hpc] at hm; contradiction

end

/-- A chain held by a comparator traps, or stops where its slot is claimed (R392). -/
theorem breakAt_trap {s : State} (h : s.myCore.claims.getLsbD s.me.slot = false) : breakAt s = takeTrap s 0x20 (addr56 s.me.pc.toNat) 0 :=
  if_neg (by rw [claimed, h]; decide)

theorem breakAt_stop {s : State} (h : s.myCore.claims.getLsbD s.me.slot = true) : breakAt s = stopCtx (s.setMe { s.me with skipCmp := true }) s.cur :=
  if_pos h

/-! ### What is fetched (R104, R112, R120) -/

/-- The state in which a fetched word is latched. -/
def State.latched (s : State) (w : BitVec 32) : State := s.setMe { s.me with ir := w, served := 0 }

theorem issueWord_reserved {s : State} {w : BitVec 32} {e : Reject} (h : decode w = .error e) : issueWord s w = .idle (trap (s.latched w) 0x02 (w.setWidth 64)) := by
  rw [issueWord]
  dsimp only
  rw [h]
  rfl

theorem issueWord_runs {s : State} {w : BitVec 32} {n : Instr} (h : decode w = .ok n) (hc : (s.latched w).me.chain.len = 0 ∨ n.prefixKind.isSome = true ∨
    (prefixMisuse (s.latched w).me.chain w n = false ∧ (s.latched w).me.chain.rep = none)) : issueWord s w = .word (s.latched w) n := by
  rw [issueWord]
  dsimp only
  rw [h]
  dsimp only
  split
  · rfl
  · rename_i hno
    simp only [Bool.or_eq_true, decide_eq_true_eq, not_or] at hno
    obtain ⟨hmisuse, hrep⟩ := (hc.resolve_left hno.2).resolve_left hno.1
    rw [State.latched] at hmisuse hrep
    rw [hmisuse, hrep]
    rfl

theorem issueWord_misuse {s : State} {w : BitVec 32} {n : Instr} (h : decode w = .ok n) (hlen : (s.latched w).me.chain.len ≠ 0) (hp : n.prefixKind = none)
    (hmisuse : prefixMisuse (s.latched w).me.chain w n = true) : issueWord s w = .idle (trap (s.latched w) 0x05 (s.latched w).irWord) := by
  rw [issueWord]
  dsimp only
  rw [h]
  dsimp only
  rw [hp, if_neg, if_pos]
  · rfl
  · exact hmisuse
  · rw [State.latched] at hlen
    simpa using hlen

theorem issueFetched_word {s t : State} {w : BitVec 32} (h : fetch s = (.ok w, t)) : issueFetched s = issueWord t w := by
  rw [issueFetched, h]

theorem issueFetched_error {s t : State} {c : Nat} {a : Word} (h : fetch s = (.error (c, a), t)) :
    issueFetched s = if t.me.chain.len = 0 then .idle (unfetchable t c a) else .idle (takeTrap t 0x05 a 0) := by
  rw [issueFetched, h]

/-! ### What a step does -/

theorem step_offers {s : State} (hd : s.due = []) (hc : chosen s = none) : step s =
    match issue (offerCount { s with tick := s.tick + 1 }) with
    | .next t => .next (endOffer t)
    | .fault f => .fault f
    | .refused r => .refused r := by
  rw [step]
  dsimp only
  rw [hd, hc]
  rfl

theorem issue_idle {s t : State} (h : issueNext s = .idle t) : issue s = .next t := by
  rw [issue, h]

theorem issue_word {s t : State} {i : Instr} (h : issueNext s = .word t i) : (∀ u, exec i t = .next u → issue s = .next (takePending u t.cur)) ∧
    ∀ f, exec i t = .fault f → issue s = .fault f := by
  rw [issue, h]
  dsimp only
  exact ⟨fun u e => by rw [e], fun f e => by rw [e]⟩

/-- A step that another party's step is: it waits, or runs, with the instruction of the thread it wakes. -/
def Runs (s : State) (i : Instr) (s0 : State) : Prop :=
  (isOutside i = false → portReady i s0 = .ok s0) ∧ (∀ u, portReady i s0 = .error u → step s = .next u) ∧ ∀ s', portReady i s0 = .ok s' →
  (∀ t, exec i s' = .next t → t.woken = none → step s = .next t) ∧
  (∀ t r j, exec i s' = .next t → t.woken = some r → decode (t.ctxOf r).ir = .ok j →
    ∀ u, exec j { t with woken := none, cur := r } = .next u → step s = .next (takePending u r)) ∧
  (∀ f, exec i s' = .fault f → step s = .fault f)

/-- What the device itself does never waits at the port. -/
theorem portReady_inside {i : Instr} (h : isOutside i = false) (s : State) : portReady i s = .ok s := by
  have hlines (h : isOutside i = false) : portLines s i = (.gets, []) := by
    unfold portLines
    split
    iterate 5 · cases h
    rfl
  unfold portReady
  split
  · cases h
  · rw [hlines h]
    rfl

theorem runs_of_act {s s0 : State} {i : Instr} (h : step s = act i s0) : Runs s i s0 := by
  refine ⟨fun hin => portReady_inside hin s0, fun u e => ?_, fun s' e => ⟨fun t et hw => ?_, fun t r j et hw hj u eu => ?_, fun f ef => ?_⟩⟩
  · rw [h, act, e]
  · rw [h, act, e]
    dsimp only
    rw [et]
    dsimp only
    rw [hw]
  · rw [h, act, e]
    dsimp only
    rw [et]
    dsimp only
    rw [hw]
    dsimp only
    rw [completeWoken]
    have hj' : decode (State.me { t with woken := none, cur := r }).ir = .ok j := hj
    dsimp only
    rw [hj']
    dsimp only
    rw [eu]
  · rw [h, act, e]
    dsimp only
    rw [ef]

theorem step_due {s : State} {i : Instr} {l : List Instr} (h : s.due = i :: l) : step s = act i { s with tick := s.tick + 1, due := l } := by
  rw [step]
  dsimp only
  rw [h]

theorem step_chosen {s : State} {n : Nat} {i : Instr} (hd : s.due = []) (hc : chosen s = some n) (hi : s.agenda[n]? = some i) :
    step s = act i { s with tick := s.tick + 1, agenda := s.agenda.eraseIdx n } := by
  rw [step]
  dsimp only
  rw [hd, hc]
  dsimp only
  rw [hi]

theorem heldBack_free {s : State} {x : Instr} (h : laneOf s x = none) : heldBack s x = false := by
  unfold heldBack
  rw [h]

theorem heldBack_passed {s : State} {x : Instr} {p : Lane} (h : laneOf s x = some p) (hmesh : ∀ y ∈ s.mesh.messages, laneOf s y ≠ some p) :
    heldBack s x = false := by
  unfold heldBack
  rw [h]
  simpa using hmesh

theorem firstOfLane_free {s : State} {x : Instr} (h : laneOf s x = none) (n : Nat) : firstOfLane s n x = n := by
  unfold firstOfLane
  rw [h]

/-- The first of a channel's messages up to place `n`. -/
theorem firstOfLane_eq {s : State} {x i : Instr} {p : Lane} {j n : Nat} (hp : laneOf s x = some p) (hj : j ≤ n) (hi : s.agenda[j]? = some i)
    (hl : laneOf s i = some p) (hfirst : ∀ m y, m < j → s.agenda[m]? = some y → laneOf s y ≠ some p) : firstOfLane s n x = j := by
  have hbefore (m : Nat) (hm : m < j) : (s.agenda[m]?).any (fun y => decide (laneOf s y = some p)) = false := by
    cases h : s.agenda[m]? with
    | none => rfl
    | some y => exact decide_eq_false (hfirst m y hm h)
  unfold firstOfLane
  rw [hp]
  dsimp only
  obtain hlt | heq := Nat.lt_or_eq_of_le hj
  · have hfind : (List.range n).find? (fun j => (s.agenda[j]?).any (fun y => decide (laneOf s y = some p))) = some j := by
      rw [List.find?_range_eq_some]
      exact ⟨by rw [hi]; exact decide_eq_true hl, List.mem_range.mpr hlt, fun m hm => by rw [hbefore m hm]; rfl⟩
    rw [hfind]
    rfl
  · have hfind : (List.range n).find? (fun j => (s.agenda[j]?).any (fun y => decide (laneOf s y = some p))) = none := by
      rw [List.find?_eq_none]
      intro m hm
      rw [hbefore m (heq ▸ List.mem_range.mp hm)]
      decide
    rw [hfind, heq]
    rfl

theorem chosen_free {s : State} {x : Instr} (hx : s.agenda[Config.schedule s.tick % (s.agenda.length + 1)]? = some x) (hl : laneOf s x = none) :
    chosen s = some (Config.schedule s.tick % (s.agenda.length + 1)) := by
  rw [chosen, hx]
  dsimp only
  rw [heldBack_free hl, firstOfLane_free hl]
  rfl

/-- The first message of a channel is the one that a step takes of it (R304, R350). -/
theorem chosen_first {s : State} {x i : Instr} {p : Lane} {j : Nat} (hx : s.agenda[Config.schedule s.tick % (s.agenda.length + 1)]? = some x)
    (hp : laneOf s x = some p) (hmesh : ∀ y ∈ s.mesh.messages, laneOf s y ≠ some p) (hj : j ≤ Config.schedule s.tick % (s.agenda.length + 1))
    (hi : s.agenda[j]? = some i) (hl : laneOf s i = some p) (hfirst : ∀ m y, m < j → s.agenda[m]? = some y → laneOf s y ≠ some p) : chosen s = some j := by
  rw [chosen, hx]
  dsimp only
  rw [heldBack_passed hp hmesh, firstOfLane_eq hp hj hi hl hfirst]
  rfl

/-! ### The obligation -/

section
variable {s : State} {i : Nat} (hb : (s.core s.turn).boundTo (s.cycle % 16) = some i) (hready : Issues s (s.core s.turn) ((s.core s.turn).ctx i))
include hb hready

/-- A chain whose first word a comparator holds traps, or stops its thread where its slot is claimed. -/
theorem issue_breaks (hm : ((s.core s.turn).ctx i).chain.len = 0 ∧ ((s.core s.turn).ctx i).skipCmp = false ∧ pcMatch (s.core s.turn) ((s.core s.turn).ctx i) = true) :
    ((s.core s.turn).claims.getLsbD ((s.core s.turn).ctx i).slot = false →
      issue s = .next (takeTrap { s with cur := ⟨s.turn, i⟩ } 0x20 (addr56 ((s.core s.turn).ctx i).pc.toNat) 0)) ∧
    ((s.core s.turn).claims.getLsbD ((s.core s.turn).ctx i).slot = true →
      issue s = .next (stopCtx (State.setMe { s with cur := ⟨s.turn, i⟩ } { (s.core s.turn).ctx i with skipCmp := true }) ⟨s.turn, i⟩)) := by
  have h := issue_idle (issueNext_break hb hready hm)
  exact ⟨fun hclaim => h.trans (congrArg Host.Outcome.next (breakAt_trap hclaim)), fun hclaim => h.trans (congrArg Host.Outcome.next (breakAt_stop hclaim))⟩

/-- Otherwise its next word is fetched, and runs, or traps. -/
theorem issue_fetches (hm : ((s.core s.turn).ctx i).chain.len ≠ 0 ∨ ((s.core s.turn).ctx i).skipCmp = true ∨ pcMatch (s.core s.turn) ((s.core s.turn).ctx i) = false) :
    let s0 := State.setMe { s with cur := ⟨s.turn, i⟩ } { (s.core s.turn).ctx i with skipCmp := false }
    (∀ w t, fetch s0 = (.ok w, t) →
      (∀ e, decode w = .error e → issue s = .next (trap (t.latched w) 0x02 (w.setWidth 64))) ∧
      (∀ n, decode w = .ok n → (t.latched w).me.chain.len = 0 ∨ n.prefixKind.isSome = true ∨
        (prefixMisuse (t.latched w).me.chain w n = false ∧ (t.latched w).me.chain.rep = none) →
        (∀ u, exec n (t.latched w) = .next u → issue s = .next (takePending u (t.latched w).cur)) ∧ ∀ f, exec n (t.latched w) = .fault f → issue s = .fault f) ∧
      (∀ n, decode w = .ok n → (t.latched w).me.chain.len ≠ 0 → n.prefixKind = none → prefixMisuse (t.latched w).me.chain w n = true →
        issue s = .next (trap (t.latched w) 0x05 (t.latched w).irWord))) ∧
    ∀ c a t, fetch s0 = (.error (c, a), t) → (t.me.chain.len = 0 → issue s = .next (takeTrap t c a 0)) ∧
      (t.me.chain.len ≠ 0 → issue s = .next (takeTrap t 0x05 a 0)) := by
  have h := issueNext_fetches hb hready hm
  refine ⟨fun w t hf => ?_, fun c a t hf => ?_⟩
  · rw [issueFetched_word hf] at h
    exact ⟨fun e he => issue_idle (h.trans (issueWord_reserved he)), fun n hn hch => issue_word (h.trans (issueWord_runs hn hch)),
      fun n hn hlen hp hmis => issue_idle (h.trans (issueWord_misuse hn hlen hp hmis))⟩
  · rw [issueFetched_error hf] at h
    exact ⟨fun hlen => issue_idle (h.trans (if_pos hlen)), fun hlen => issue_idle (h.trans (if_neg hlen))⟩

end

/-- Settles O52. -/
theorem stepsRunInstructionsAndEvents : Obligations.StepsRunInstructionsAndEvents := by
  refine ⟨fun s hd hc => ?_, fun s i => ⟨fun l hl => ?_, fun hd x hx hl hix => ?_, fun hd x p hx hp hmesh j hj hi hl hfirst => ?_⟩⟩
  · have hstep := step_offers hd hc
    obtain ⟨t, ht⟩ : ∃ t, t = offerCount { s with tick := s.tick + 1 } := ⟨_, rfl⟩
    rw [← ht] at hstep ⊢
    have ends {u : State} (e : issue t = .next u) : step s = .next (endOffer u) := by rw [hstep, e]
    refine ⟨fun hb => ends (issue_vacant hb), fun i hb => ⟨fun hready => ends (issue_waits hb hready), fun hready hlen hskip hpc hclaim => ?_,
      fun hready hlen hskip hpc hclaim => ?_, fun hready hm => ?_⟩⟩
    · exact ends ((issue_breaks hb hready ⟨hlen, hskip, hpc⟩).1 hclaim)
    · exact ends ((issue_breaks hb hready ⟨hlen, hskip, hpc⟩).2 hclaim)
    · obtain ⟨hword, herror⟩ := issue_fetches hb hready hm
      refine ⟨fun w u hf => ?_, fun c a u hf => ?_⟩
      · obtain ⟨hreserved, hruns, hmisuse⟩ := hword w u hf
        refine ⟨fun e he => ends (hreserved e he), fun n hn hch => ⟨fun v e => ends ((hruns n hn hch).1 v e), fun f e => ?_⟩,
          fun n hn hlen hp hmis => ends (hmisuse n hn hlen hp hmis)⟩
        rw [hstep, (hruns n hn hch).2 f e]
      · obtain ⟨hfirst, hlater⟩ := herror c a u hf
        exact ⟨fun hlen => ends (hfirst hlen), fun hlen => ends (hlater hlen)⟩
  · exact runs_of_act (step_due hl)
  · subst hix
    exact runs_of_act (step_chosen hd (chosen_free hx hl) hx)
  · exact runs_of_act (step_chosen hd (chosen_first hx hp hmesh hj hi hl hfirst) hi)

end Sys2Proof.Machine
end

section
/-! O20 (R175, R290 to R292, R296): a publication raises the counter and reaches the slices and the clusters. -/

namespace Sys2Proof.Machine

/-! ### Records of round regions -/

theorem SMap.find?_put {V : Type} (m : SMap V) (k : Nat) (v : V) : (SMap.put m k v).find? (fun p => decide (p.1 = k)) = some (k, v) := by
  induction m with
  | nil => simp [SMap.put]
  | cons p t ih =>
    obtain ⟨k', v'⟩ := p
    unfold SMap.put
    split
    · simp
    · split
      · simp
      · rename_i hne
        simpa [Ne.symm hne] using ih

theorem State.regionOn_put (s : State) (r : Nat) (g : RegionRec) : ({ s with regions := SMap.put s.regions r g } : State).regionOn r = some g := by
  rw [State.regionOn, SMap.find?_put]
  rfl

theorem State.regionOn_congr {s t : State} (h : t.regions = s.regions) (r : Nat) : t.regionOn r = s.regionOn r := by
  rw [State.regionOn, State.regionOn, h]

/-- Emitting a list of messages touches what leaves the package alone. -/
theorem foldl_emit (f : Nat → OutMsg) (l : List Nat) (s : State) : ∃ o, l.foldl (fun s p => s.emit (f p)) s = { s with out := o } := by
  induction l generalizing s with
  | nil => exact ⟨s.out, rfl⟩
  | cons p l ih =>
    obtain ⟨o, e⟩ := ih (s.emit (f p))
    exact ⟨o, e⟩

/-- The state in which the record of region `r` is `g` and the steps `l` are on their way. -/
def State.recorded (s : State) (r : Nat) (g : RegionRec) (l : List Instr) (o : List OutMsg) : State :=
  { s with regions := SMap.put s.regions r g, agenda := s.agenda ++ l, out := o }

theorem publishRound_eq (s : State) (r : Nat) (g : RegionRec) (clk : Nat) : ∃ t o, publishRound s r g clk = (g.counter + 1, t,
    s.recorded r { g with counter := g.counter + 1, wts := t, rts := t } ((s.regionSlices g).map (fun k => .roundMulticast (.slice k) r (g.counter + 1)) ++
      ((List.range 64).filter (fun c => g.subscribers.getLsbD c)).map (fun c => .roundMulticast (.cluster c) r (g.counter + 1))) o) := by
  obtain ⟨t, ht⟩ : ∃ t, t = max (max (clk + 1) s.micro.minClk) (s.micro.raised g.rts) + 1 := ⟨_, rfl⟩
  obtain ⟨o, e⟩ := foldl_emit (fun p => .peerRound p r (g.counter + 1)) ((List.range 16).filter (fun p => g.ports.getLsbD p))
    ((State.post { s with regions := SMap.put s.regions r { g with counter := g.counter + 1, wts := t, rts := t } }
      ((s.regionSlices g).map (fun k => .roundMulticast (.slice k) r (g.counter + 1)))).post
      (((List.range 64).filter (fun c => g.subscribers.getLsbD c)).map (fun c => .roundMulticast (.cluster c) r (g.counter + 1))))
  refine ⟨t, o, ?_⟩
  rw [publishRound, ← ht]
  refine congrArg (fun u => (g.counter + 1, t, u)) (e.trans ?_)
  rw [State.recorded, ← List.append_assoc]
  rfl

/-- The state that a publication leaves at the record (R290, R291). -/
theorem publishRound_spec (s : State) (r : Nat) (g : RegionRec) (clk : Nat) : ∃ t u g', publishRound s r g clk = (g.counter + 1, t, u) ∧ s.Steady u ∧
    u.cur = s.cur ∧ u.regionOn r = some g' ∧ g'.counter = g.counter + 1 ∧ g'.base = g.base ∧ g'.height = g.height ∧ g'.subscribers = g.subscribers ∧
    (∀ k ∈ s.regionSlices g, .roundMulticast (.slice k) r (g.counter + 1) ∈ u.agenda) ∧
    (∀ c < 64, g.subscribers.getLsbD c = true → .roundMulticast (.cluster c) r (g.counter + 1) ∈ u.agenda) := by
  obtain ⟨t, o, e⟩ := publishRound_eq s r g clk
  refine ⟨t, _, _, e, ⟨⟨rfl, rfl, rfl, rfl⟩, fun _ => rfl⟩, rfl, State.regionOn_put s r _, rfl, rfl, rfl, rfl, fun k hk => ?_, fun c hc hsub => ?_⟩
  · exact List.mem_append_right _ (List.mem_append_left _ (List.mem_map_of_mem hk))
  · exact List.mem_append_right _ (List.mem_append_right _ (List.mem_map_of_mem (f := fun c => Instr.roundMulticast (.cluster c) r (g.counter + 1))
      (List.mem_filter.mpr ⟨List.mem_range.mpr hc, hsub⟩)))

/-! ### The publisher's answer -/

theorem State.traceMe_rest (s : State) (e : Nat) (v : Word) : s.traceMe e v = { s with cores := (s.traceMe e v).cores } := State.traceAt_rest ..

/-- RPUB's thread receives its round, and its reply is on its way. -/
theorem published_spec (s : State) (r : Nat) (who : ThreadRef) (d : BitVec 5) (v : BitVec 32) : s.SameBytes (published s r who d v) ∧
    (published s r who d v).regions = s.regions ∧ (∀ m ∈ s.agenda, m ∈ (published s r who d v).agenda) ∧
    (∀ j, ((published s r who d v).ctxOf j).regs = if j = who then ((s.ctxOf who).writeS d (v.setWidth 64)).regs else (s.ctxOf j).regs) ∧
    ((published s r who d v).ctxOf who).pend = .reply ∧ .memoryReply who.core who.ctx ∈ (published s r who d v).agenda := by
  obtain ⟨u, hu⟩ : ∃ u, u = State.traceMe { s with cur := who } 6 (roundTrace r v.toNat) := ⟨_, rfl⟩
  have hcur : u.cur = who := by rw [hu, State.traceMe_cur]
  have hctx (j : ThreadRef) : u.ctxOf j = s.ctxOf j := by rw [hu, State.traceMe_ctxOf]; rfl
  have hrest : u = { s with cur := who, cores := u.cores } := by rw [hu]; exact State.traceMe_rest ..
  obtain ⟨w, hw⟩ : ∃ w, w = asThread s who (fun s => (s.traceMe 6 (roundTrace r v.toNat)).setS d (v.setWidth 64)) := ⟨_, rfl⟩
  have ew : w = { u.setMe (u.me.writeS d (v.setWidth 64)) with cur := s.cur } := by rw [hw, asThread, hu]; rfl
  have hbytes : w.bytes = s.bytes := by rw [hw]; simp
  have hregions : w.regions = s.regions ∧ w.agenda = s.agenda := by rw [ew, hrest]; exact ⟨rfl, rfl⟩
  have hwctx (j : ThreadRef) : w.ctxOf j = if j = who then (s.ctxOf who).writeS d (v.setWidth 64) else s.ctxOf j := by
    have e : w.ctxOf j = (u.setMe (u.me.writeS d (v.setWidth 64))).ctxOf j := by rw [ew]; rfl
    rw [e, State.ctxOf_setMe, State.me, hcur, hctx, hctx]
  have hpend := accept_ctxOf w who who
  have hreply := accept_reply w who
  rw [published, ← hw]
  refine ⟨State.sameBytes_iff.mpr (by rw [accept_bytes, hbytes]), hregions.1, fun m hm => ?_, fun j => ?_, by rw [hpend, if_pos rfl], hreply⟩
  · exact List.mem_append_left _ (hregions.2 ▸ hm)
  · rw [accept_regs, hwctx]
    split <;> rfl

/-! ### Levels of a multicast (R291, R292) -/

theorem atOrAhead_true {a b : BitVec 32} (h : (a - b).toNat < 2 ^ 31) : atOrAhead a b = true := decide_eq_true h

theorem atOrAhead_false {a b : BitVec 32} (h : 2 ^ 31 ≤ (a - b).toNat) : atOrAhead a b = false := decide_eq_false (Nat.not_lt.mpr h)

/-- Giving up a line of an L1 cache leaves every core and every byte. -/
theorem evictLine_spec (s : State) (k line : Nat) : s.Steady (evictLine s k line) ∧ (evictLine s k line).cores = s.cores := by
  unfold evictLine
  split
  · split
    · exact ⟨State.Steady.micro s _, rfl⟩
    · exact ⟨(State.Steady.micro s _).trans (State.Steady.post _ _), rfl⟩
    · exact ⟨State.Steady.refl s, rfl⟩
  · exact ⟨State.Steady.refl s, rfl⟩

theorem clearL1_spec (s : State) (k : Nat) (gone : Copy → Bool) : s.Steady (clearL1 s k gone) ∧ (clearL1 s k gone).cores = s.cores := by
  have hfold (l : SMap Copy) (s : State) : s.Steady (l.foldl (fun s p => evictLine s k p.1) s) ∧ (l.foldl (fun s p => evictLine s k p.1) s).cores = s.cores := by
    induction l generalizing s with
    | nil => exact ⟨State.Steady.refl s, rfl⟩
    | cons p l ih =>
      obtain ⟨h, e⟩ := evictLine_spec s k p.1
      obtain ⟨h', e'⟩ := ih (evictLine s k p.1)
      exact ⟨h.trans h', e'.trans e⟩
  obtain ⟨h, e⟩ := hfold ((SMap.get [] s.micro.l1d k).filter (fun p => gone p.2)) s
  exact ⟨h.trans (State.Steady.micro _ _), e⟩

/-- What a level that has `old` takes of round `v`. -/
def newer (old v : BitVec 32) : BitVec 32 := if (old - v).toNat < 2 ^ 31 then old else v

theorem Core.viewOf_map (l : List RoundView) (r : Nat) (v old : BitVec 32) (h : (l.find? (fun e => decide (e.region = r))).map (·.view) = some old) :
    ((l.map (fun e => if e.region = r then { e with view := v } else e)).find? (fun e => decide (e.region = r))).map (·.view) = some v := by
  induction l with
  | nil => cases h
  | cons e l ih =>
    by_cases he : e.region = r
    · simp [he]
    · rw [List.find?_cons, decide_eq_false he] at h
      rw [List.map_cons, if_neg he, List.find?_cons, decide_eq_false he]
      exact ih h

/-- A core's L1 takes a round ahead of its view (R292). -/
theorem advanceL1_spec (s : State) (k r : Nat) (v : BitVec 32) : s.Steady (advanceL1 s k r v) ∧
    (∀ j, j ≠ k → (advanceL1 s k r v).core j = s.core j) ∧
    ∀ old, (s.core k).viewOf r = some old → ((advanceL1 s k r v).core k).viewOf r = some (newer old v) := by
  unfold advanceL1
  cases hview : (s.core k).viewOf r with
  | none => exact ⟨State.Steady.refl s, fun _ _ => rfl, fun old h => nomatch h⟩
  | some old =>
    dsimp only
    by_cases hahead : (old - v).toNat < 2 ^ 31
    · rw [if_pos (atOrAhead_true hahead)]
      refine ⟨State.Steady.refl s, fun _ _ => rfl, fun o ho => ?_⟩
      cases ho
      rw [hview, newer, if_pos hahead]
    · obtain ⟨hsteady, hcores⟩ := clearL1_spec s k (staleCopy r v)
      have hcore (j : Nat) : (clearL1 s k (staleCopy r v)).core j = s.core j := by rw [State.core, hcores]; rfl
      rw [if_neg (by rw [atOrAhead_false (Nat.not_lt.mp hahead)]; decide)]
      refine ⟨hsteady.trans (State.Steady.setCore rfl), fun j hj => ?_, fun o ho => ?_⟩
      · rw [State.core_setCore, if_neg hj, hcore]
      · cases ho
        rw [State.core_setCore_same, newer, if_neg hahead, hcore]
        exact Core.viewOf_map _ r v old hview

theorem advanceL1_foldl (r : Nat) (v : BitVec 32) (l : List Nat) (hl : l.Nodup) (s : State) : s.Steady (l.foldl (fun s k => advanceL1 s k r v) s) ∧
    (∀ j, j ∉ l → (l.foldl (fun s k => advanceL1 s k r v) s).core j = s.core j) ∧
    ∀ k ∈ l, ∀ old, (s.core k).viewOf r = some old → ((l.foldl (fun s k => advanceL1 s k r v) s).core k).viewOf r = some (newer old v) := by
  induction l generalizing s with
  | nil => exact ⟨State.Steady.refl s, fun _ _ => rfl, fun _ h => nomatch h⟩
  | cons a l ih =>
    obtain ⟨ha, hl⟩ := List.nodup_cons.mp hl
    obtain ⟨h, hother, hview⟩ := advanceL1_spec s a r v
    obtain ⟨h', hother', hview'⟩ := ih hl (advanceL1 s a r v)
    refine ⟨h.trans h', fun j hj => ?_, fun k hk old ho => ?_⟩
    · rw [List.mem_cons, not_or] at hj
      exact (hother' j hj.2).trans (hother j hj.1)
    · by_cases e : k = a
      · subst e
        rw [List.foldl_cons, hother' k ha]
        exact hview old ho
      · exact hview' k ((List.mem_cons.mp hk).resolve_left e) old (by rw [hother k e]; exact ho)

theorem advanceL2_spec (s : State) (c r : Nat) (v : BitVec 32) : s.Steady (advanceL2 s c r v) ∧ (advanceL2 s c r v).cores = s.cores := by
  unfold advanceL2
  split
  · exact ⟨State.Steady.refl s, rfl⟩
  · split
    · exact ⟨State.Steady.refl s, rfl⟩
    · exact ⟨⟨⟨rfl, rfl, rfl, rfl⟩, fun _ => rfl⟩, rfl⟩

theorem coresOf_nodup (c : Nat) : (coresOf c).Nodup := by
  simp [coresOf]

theorem mem_coresOf {c k : Nat} (h : k / 4 = c) : k ∈ coresOf c := by
  simp only [coresOf, List.mem_cons, List.not_mem_nil, or_false]
  omega

/-! ### Slices (R291, R296) -/

/-- A slice that takes a round lets the loads that stalled for it go on. -/
theorem releaseStalled_spec (s : State) (k r : Nat) (v : BitVec 32) : s.SameBytes (releaseStalled s k r v) ∧ (releaseStalled s k r v).cores = s.cores ∧
    (releaseStalled s k r v).sliceViews = s.sliceViews ∧ ∀ p ∈ s.stalled, p.slice = k →
      (p.out = false → p.region = r → (v - p.q).toNat < 2 ^ 31 → p.self ∈ (releaseStalled s k r v).due ∧ p ∉ (releaseStalled s k r v).stalled) ∧
      (p.out = false → p.region ≠ r ∨ 2 ^ 31 ≤ (v - p.q).toNat → p ∈ (releaseStalled s k r v).stalled) ∧
      (p.out = true → p.self ∈ (releaseStalled s k r v).agenda) := by
  refine ⟨⟨rfl, rfl, rfl, rfl⟩, rfl, rfl, fun p hp hk => ⟨fun hin hr hq => ⟨?_, fun h => ?_⟩, fun hin h => ?_, fun hout => ?_⟩⟩
  · refine List.mem_append_right _ (List.mem_map_of_mem (List.mem_filter.mpr ⟨hp, ?_⟩))
    simp [hk, hr, hin, atOrAhead_true hq]
  · have hno := (List.mem_filter.mp h).2
    simp [hk, hr, hin, atOrAhead_true hq] at hno
  · refine List.mem_filter.mpr ⟨hp, ?_⟩
    rcases h with h | h
    · simp [h, hin]
    · simp [hin, atOrAhead_false h]
  · refine List.mem_append_right _ (List.mem_map_of_mem (List.mem_filter.mpr ⟨hp, ?_⟩))
    simp [hk, hout]

/-! ### The obligation -/

section
variable {s : State} {r : Nat} {who : ThreadRef} {d : BitVec 5} (ha : Awaits s who) (hr : r < 4096)
include ha hr

theorem regionRpub_eq : exec (.regionRpub r who d) s = .next (match s.regionOn r, recordGate s r (.regionRpub r who d) with
    | none, _ => refuse s who (0x01, BitVec.ofNat 64 (s.ctxOf who).waitObj)
    | some _, .error s => s
    | some g, .ok s =>
      let (v, t, s) := publishRound s r g (s.clkOf who)
      published (s.setClk who t) r who d v) := by
  show execRegionRpub r who d s = _
  rw [execRegionRpub, ha.exists, ha.waits]
  rw [if_neg (by simp; omega), if_neg (by decide), if_neg (by omega)] <;> rfl

end

/-- Settles O20. -/
theorem roundsArePublished : Obligations.RoundsArePublished := by
  refine ⟨fun s r who d ha hr => ⟨fun hg => ?_, fun g hg hmoving => ?_, fun g hg hstill => ?_⟩,
    fun s r v hr hon => ?_⟩
  · have he := regionRpub_eq (d := d) ha hr
    rw [hg] at he
    exact he
  · have he := regionRpub_eq (d := d) ha hr
    rw [hg, recordGate, hg] at he
    dsimp only at he
    rw [if_pos hmoving] at he
    exact he
  · have he := regionRpub_eq (d := d) ha hr
    obtain ⟨t, u, g', e, hsteady, hcur, hon, hcounter, hbase, hheight, hsubs, hslices, hclusters⟩ := publishRound_spec s r g (s.clkOf who)
    rw [hg, recordGate, hg] at he
    dsimp only at he
    rw [if_neg (by rw [hstill]; decide)] at he
    dsimp only at he
    rw [e] at he
    dsimp only at he
    obtain ⟨hbytes, hregions, hagenda, hregs, hpend, hreply⟩ := published_spec (u.setClk who t) r who d (g.counter + 1)
    refine ⟨_, g', he, (hsteady.bytes.trans (State.Steady.micro u _).bytes).trans hbytes, (State.regionOn_congr hregions r).trans hon, hcounter, hbase, hheight, hsubs, fun j => ?_, hpend, hreply,
      fun k hk => hagenda _ (hslices k hk), fun c hc hsub => hagenda _ (hclusters c hc hsub)⟩
    rw [hregs, State.ctxOf_setClk, State.ctxOf_setClk, hsteady.ctx, hsteady.ctx]
  · have hnone : ¬ (s.regionOn r).isNone = true := by cases h : s.regionOn r <;> simp_all
    refine ⟨fun k hk => ⟨fun hold => ?_, fun hold => ?_⟩, fun c hc => ?_⟩
    · show execRoundMulticast (.slice k) r v s = _
      rw [execRoundMulticast, if_neg (by simp; omega), if_neg (not_and_of_not_right _ hnone)]
      dsimp only
      rw [if_neg (by omega), if_pos (atOrAhead_true hold)]
    · obtain ⟨t, ht⟩ : ∃ t : State, t = { s with sliceViews := SMap.set 0 s.sliceViews (4096 * k + r) v } := ⟨_, rfl⟩
      obtain ⟨hbytes, hcores, hviews, hstalled⟩ := releaseStalled_spec t k r v
      have hstart : t.sliceViews = SMap.set 0 s.sliceViews (4096 * k + r) v ∧ s.SameBytes t ∧ t.cores = s.cores ∧ t.stalled = s.stalled := by
        rw [ht]; exact ⟨rfl, ⟨rfl, rfl, rfl, rfl⟩, rfl, rfl⟩
      obtain ⟨eviews, ebytes, ecores, estalled⟩ := hstart
      rw [estalled] at hstalled
      refine ⟨releaseStalled t k r v, ?_, by rw [hviews, eviews, SMap.get_set_same], ebytes.trans hbytes, hcores.trans ecores, hstalled⟩
      show execRoundMulticast (.slice k) r v s = _
      rw [execRoundMulticast, if_neg (by simp; omega), if_neg (not_and_of_not_right _ hnone)]
      dsimp only
      rw [if_neg (by omega), if_neg (by rw [atOrAhead_false hold]; decide), ht]
    · obtain ⟨h2, hcores⟩ := advanceL2_spec s c r v
      obtain ⟨h1, -, hview⟩ := advanceL1_foldl r v (coresOf c) (coresOf_nodup c) (advanceL2 s c r v)
      refine ⟨(coresOf c).foldl (fun s k => advanceL1 s k r v) (advanceL2 s c r v), ?_, (h2.trans h1).bytes, (h2.trans h1).ctx, fun k old hk ho => ?_⟩
      · show execRoundMulticast (.cluster c) r v s = _
        rw [execRoundMulticast, if_neg (by simp; omega), if_neg (not_and_of_not_right _ hnone)]
      · exact hview k (mem_coresOf hk) old (by rw [State.core, hcores]; exact ho)

end Sys2Proof.Machine
end

section
/-! SUPPORT. Rounds that are taken within a step, and stores of the device's own bookkeeping (R319, R321). -/

namespace Sys2Proof.Machine

/-- What a round within a step may touch: bytes of main memory, the caches and directories, the records of regions and the loads stalled for them,
watch reports, and what is on its way, to which it adds. -/
structure State.Rounded (s t : State) : Prop where
  rest : t = { s with mem := t.mem, micro := t.micro, agenda := t.agenda, due := t.due, regions := t.regions, sliceViews := t.sliceViews,
                      stalled := t.stalled, sdie := t.sdie }
  sdie : t.sdie = { s.sdie with watchReports := t.sdie.watchReports }
  agenda : ∀ m ∈ s.agenda, m ∈ t.agenda

theorem State.Rounded.refl (s : State) : s.Rounded s := ⟨rfl, rfl, fun _ h => h⟩

theorem State.Rounded.trans {s t u : State} (h : s.Rounded t) (h' : t.Rounded u) : s.Rounded u where
  rest := by rw [h'.rest, h.rest]
  sdie := by rw [h'.sdie, h.sdie]
  agenda m hm := h'.agenda m (h.agenda m hm)

theorem State.Rounded.micro (s : State) (m : Micro) : s.Rounded { s with micro := m } := ⟨rfl, rfl, fun _ h => h⟩

theorem State.Rounded.post (s : State) (l : List Instr) : s.Rounded (s.post l) := ⟨rfl, rfl, fun _ h => List.mem_append_left _ h⟩

theorem State.Rounded.cores {s t : State} (h : s.Rounded t) : t.cores = s.cores := by rw [h.rest]

theorem State.Rounded.ctxOf {s t : State} (h : s.Rounded t) (q : ThreadRef) : t.ctxOf q = s.ctxOf q := by rw [h.rest]; rfl

theorem State.Rounded.foldl {α : Type} {f : State → α → State} (h : ∀ (s : State) (a : α), s.Rounded (f s a)) (l : List α) (s : State) : s.Rounded (l.foldl f s) := by
  induction l generalizing s with
  | nil => exact State.Rounded.refl s
  | cons a l ih => exact (h s a).trans (ih (f s a))

theorem watchReport_rounded (s : State) {w : Who} (hw : w.thread = none) (l : Loc) (rd wr : Bool) : s.Rounded (watchReport s w l rd wr) := by
  unfold watchReport
  split
  · refine State.Rounded.foldl (fun s e => ?_) _ s
    dsimp only
    rw [hw]
    dsimp only
    rw [ite_self]
    exact ⟨rfl, rfl, fun _ h => h⟩
  · exact State.Rounded.refl s

theorem partyWho_thread (p : Party) : (partyWho p).thread = none := by
  cases p <;> rfl

theorem State.track_rounded (s : State) (p : Party) (line : Nat) : s.Rounded (s.track p line) := by
  unfold State.track
  exact ((State.Rounded.micro s _).trans (State.Rounded.post _ _)).trans (watchReport_rounded _ (partyWho_thread p) _ _ _)

theorem State.physPut_rounded (s : State) (pa : Nat) (bs : ByteList) (c : Nat) : s.Rounded (s.physPut pa bs c) := by
  unfold State.physPut
  split
  · exact State.Rounded.refl s
  · exact ⟨rfl, rfl, fun _ h => h⟩

/-- The record of a region that is no longer described is written back, and its loads go on. -/
theorem State.reloadRegion_gone {s : State} {id : Nat} {p : Nat × RegionRec} (hd : s.regionDesc id = none) (ho : s.regions.find? (fun p => decide (p.1 = id)) = some p) :
    ∃ rs vs a bs c m l st du, s.reloadRegion id = { (State.post { (State.physPut { s with regions := rs, sliceViews := vs } a bs c) with micro := m } l) with
      stalled := st, due := du } := by
  unfold State.reloadRegion
  rw [hd, ho]
  exact ⟨_, _, _, _, _, _, _, _, _, rfl⟩

theorem State.Rounded.released {s t : State} (h : s.Rounded t) (st : List Stalled) (du : List Instr) : s.Rounded { t with stalled := st, due := du } :=
  h.trans ⟨rfl, rfl, fun _ h => h⟩

theorem State.reloadRegion_rounded (s : State) (id : Nat) : s.Rounded (s.reloadRegion id) := by
  cases hd : s.regionDesc id with
  | some d =>
    unfold State.reloadRegion
    rw [hd]
    cases s.regions.find? (fun p => decide (p.1 = id)) with
    | none => exact ⟨rfl, rfl, fun _ h => h⟩
    | some p => exact ⟨rfl, rfl, fun _ h => h⟩
  | none =>
    cases ho : s.regions.find? (fun p => decide (p.1 = id)) with
    | none =>
      unfold State.reloadRegion
      rw [hd, ho]
      exact State.Rounded.refl s
    | some p =>
      obtain ⟨rs, vs, a, bs, c, m, l, st, du, e⟩ := State.reloadRegion_gone hd ho
      have h : s.Rounded { s with regions := rs, sliceViews := vs } := ⟨rfl, rfl, fun _ h => h⟩
      rw [e]
      exact ((h.trans (State.physPut_rounded _ a bs c)).trans ((State.Rounded.micro _ m).trans (State.Rounded.post _ l))).released st du

theorem takeInv_rounded (s : State) (p : Party) (line : Nat) : s.Rounded (takeInv s p line) := by
  unfold takeInv
  split
  · exact (State.Rounded.micro s _).trans (State.Rounded.post _ _)
  · dsimp only
    split
    · exact ((State.Rounded.micro s _).trans (State.Rounded.post _ _)).trans (State.track_rounded _ _ _)
    · exact (State.Rounded.micro s _).trans (State.Rounded.post _ _)
  · split
    · exact State.track_rounded _ _ _
    · exact State.Rounded.refl s
  · split
    · exact State.track_rounded _ _ _
    · exact State.Rounded.refl s
  · dsimp only
    split
    · exact (State.reloadRegion_rounded s _).trans (State.track_rounded _ _ _)
    · exact State.reloadRegion_rounded s _

theorem takeRound_rounded (s : State) (line : Nat) (ps : List Party × Nat) : s.Rounded (takeRound s line ps) :=
  State.Rounded.foldl (fun s p => takeInv_rounded s p line) _ s

/-- A store of the device's own bookkeeping touches no register. -/
theorem storeDevice_regs (s : State) (w : Who) (t : Target) (bs : ByteList) (q : ThreadRef) : ((storeDevice s w t bs).ctxOf q).regs = (s.ctxOf q).regs := by
  rw [storeDevice, (takeRound_rounded _ _ _).ctxOf, (storeQuiet_stores s w t bs none).1.regsOf]

theorem State.physStore_rounded (s : State) (pa : Nat) (bs : ByteList) (c : Nat) : s.Rounded (s.physStore pa bs c) := by
  unfold State.physStore
  exact ((State.physPut_rounded s pa bs c).trans (State.Rounded.micro _ _)).trans (takeRound_rounded _ _ _)

theorem State.physWrite_rounded (s : State) (pa : Nat) (bs : ByteList) (c : Nat) : s.Rounded (s.physWrite pa bs c) :=
  (s.physStore_rounded pa bs c).trans (watchReport_rounded _ rfl _ _ _)

end Sys2Proof.Machine
end

section
/-! O38 (R87, R137, R139): background spills of windows, and contexts that a full core spills. -/

namespace Sys2Proof.Machine

/-! ### The bytes of a window (R139) -/

theorem windowBytes_eq (w : SMap Word) (lo : Nat) : windowBytes w lo = (List.range 8).flatMap (fun i => natToBytes 8 (SMap.get 0 w (lo + i)).toNat) := rfl

theorem Memory.writeBytes_append (m : Memory) (a : Nat) (xs ys : ByteList) : m.writeBytes a (xs ++ ys) = (m.writeBytes a xs).writeBytes (a + xs.length) ys := by
  induction xs generalizing m a with
  | nil => rfl
  | cons x xs ih =>
    rw [List.cons_append, Memory.writeBytes, ih, Memory.writeBytes, List.length_cons, Nat.add_assoc, Nat.add_comm 1]

/-- Registers written one after another, read byte by byte. -/
theorem Memory.read_writeWords (f : Nat → Word) (n : Nat) (m : Memory) (a y : Nat) :
    (m.writeBytes a ((List.range n).flatMap (fun i => natToBytes 8 (f i).toNat))).read y =
      if a ≤ y ∧ y < a + 8 * n then BitVec.ofNat 8 ((f ((y - a) / 8)).toNat / 256 ^ ((y - a) % 8)) else m.read y := by
  induction n generalizing m with
  | zero => rw [if_neg (by omega)]; rfl
  | succ n ih =>
    have hlen : ((List.range n).flatMap (fun i => natToBytes 8 (f i).toNat)).length = 8 * n := by simp; omega
    rw [List.range_succ, List.flatMap_append, Memory.writeBytes_append, hlen, List.flatMap_singleton, Memory.read_writeBytes_natToBytes, ih]
    by_cases h1 : a + 8 * n ≤ y ∧ y < a + 8 * n + 8
    · rw [if_pos h1, if_pos (by omega), show (y - a) / 8 = n by omega, show y - (a + 8 * n) = (y - a) % 8 by omega]
    · rw [if_neg h1]
      by_cases h2 : a ≤ y ∧ y < a + 8 * n
      · rw [if_pos h2, if_pos (by omega)]
      · rw [if_neg h2, if_neg (by omega)]

theorem Memory.read_windowBytes (w : SMap Word) (lo : Nat) (m : Memory) (a y : Nat) : (m.writeBytes a (windowBytes w lo)).read y =
    if a ≤ y ∧ y < a + 64 then BitVec.ofNat 8 ((SMap.get 0 w (lo + (y - a) / 8)).toNat / 256 ^ ((y - a) % 8)) else m.read y :=
  Memory.read_writeWords (fun i => SMap.get 0 w (lo + i)) 8 m a y

/-! ### Spilling a window -/

/-- The two lines of a spilled window: the lower half of its registers, then the upper (R139). -/
theorem spillWindow_spec (s : State) (r : ThreadRef) :
    let a := resolveAlias r.core (s.ctxOf r).wsp.toNat
    let w := (s.ctxOf r).wins.getLastD []
    (∀ q, ((spillWindow s r).ctxOf q).regs = if q = r then { s.ctxOf r with wins := (s.ctxOf r).wins.dropLast, wsp := (s.ctxOf r).wsp + 128 }.regs else (s.ctxOf q).regs) ∧
    (spillWindow s r).hostMem = s.hostMem ∧ (spillWindow s r).peerMem = s.peerMem ∧
    (∀ y, (spillWindow s r).mem.read y = if a ≤ y ∧ y < a + 128 then BitVec.ofNat 8 ((SMap.get 0 w (16 + (y - a) / 8)).toNat / 256 ^ ((y - a) % 8)) else s.mem.read y) ∧
    (∀ l, SMap.get 0 (spillWindow s r).side l = if l = a / 64 ∨ l = (a + 64) / 64 then 0 else SMap.get 0 s.side l) := by
  intro a w
  obtain ⟨t0, h0⟩ : ∃ t, t = storeQuiet s (whoOf s r) (stackLoc r (s.ctxOf r).wsp 0) (windowBytes w 16) (some 0) := ⟨_, rfl⟩
  obtain ⟨t1, h1⟩ : ∃ t, t = storeQuiet (t0.2.2.setClk r t0.1) (whoOf (t0.2.2.setClk r t0.1) r) (stackLoc r (s.ctxOf r).wsp 64) (windowBytes w 24) (some 0) := ⟨_, rfl⟩
  have hspill : spillWindow s r = (t1.2.2.setClk r t1.1).setCtx r { (t1.2.2.setClk r t1.1).ctxOf r with
      wins := (s.ctxOf r).wins.dropLast, wsp := (s.ctxOf r).wsp + 128 } := by
    rw [h1, h0]
    rfl
  obtain ⟨ht0, hb0⟩ := storeQuiet_stores s (whoOf s r) (stackLoc r (s.ctxOf r).wsp 0) (windowBytes w 16) (some 0)
  obtain ⟨ht1, hb1⟩ := storeQuiet_stores (t0.2.2.setClk r t0.1) (whoOf (t0.2.2.setClk r t0.1) r) (stackLoc r (s.ctxOf r).wsp 64) (windowBytes w 24) (some 0)
  rw [← h0] at ht0 hb0
  rw [← h1] at ht1 hb1
  have hregs (q : ThreadRef) : (t1.2.2.ctxOf q).regs = (s.ctxOf q).regs := (ht1.regsOf q).trans (ht0.regsOf q)
  have hmem : t1.2.2.mem = (s.mem.writeBytes a (windowBytes w 16)).writeBytes (a + 64) (windowBytes w 24) :=
    hb1.mem.trans (congrArg (fun m : Memory => m.writeBytes (a + 64) (windowBytes w 24)) hb0.mem)
  have hside : t1.2.2.side = SMap.set 0 (SMap.set 0 s.side (a / 64) 0) ((a + 64) / 64) 0 :=
    hb1.side.trans (congrArg (fun m => SMap.set 0 m ((a + 64) / 64) 0) hb0.side)
  have hhost : t1.2.2.hostMem = s.hostMem := hb1.host.trans hb0.host
  have hpeer : t1.2.2.peerMem = s.peerMem := hb1.peer.trans hb0.peer
  rw [hspill]
  refine ⟨fun q => ?_, hhost, hpeer, fun y => ?_, fun l => ?_⟩
  · rw [State.ctxOf_setCtx]
    split
    · rw [State.ctxOf_setClk]
      have h := hregs r
      exact congrArg (fun x : Context => ({ x with wins := (s.ctxOf r).wins.dropLast, wsp := (s.ctxOf r).wsp + 128 } : Context)) h
    · exact hregs q
  · show t1.2.2.mem.read y = _
    rw [hmem, Memory.read_windowBytes, Memory.read_windowBytes]
    by_cases hhigh : a + 64 ≤ y ∧ y < a + 64 + 64
    · rw [if_pos hhigh, if_pos (by omega), show 24 + (y - (a + 64)) / 8 = 16 + (y - a) / 8 by omega, show (y - (a + 64)) % 8 = (y - a) % 8 by omega]
    · rw [if_neg hhigh]
      by_cases hlow : a ≤ y ∧ y < a + 64
      · rw [if_pos hlow, if_pos (by omega)]
      · rw [if_neg hlow, if_neg (by omega)]
  · show SMap.get 0 t1.2.2.side l = _
    rw [hside, SMap.get_set, SMap.get_set]
    by_cases hhigh : l = (a + 64) / 64
    · rw [if_pos hhigh, if_pos (.inr hhigh)]
    · rw [if_neg hhigh]
      by_cases hlow : l = a / 64
      · rw [if_pos hlow, if_pos (.inl hlow)]
      · rw [if_neg hlow, if_neg (by rintro (h | h); exacts [hlow h, hhigh h])]

theorem execWindowSpill_eq {s : State} {k i : Nat} (hk : k < 256) (hi : i < 24) : exec (.windowSpill k i) s =
    if (s.ctxOf ⟨k, i⟩).st = .free ∨ (s.ctxOf ⟨k, i⟩).wins.length < 7 then .next s
    else match stackFault s ⟨k, i⟩ (s.ctxOf ⟨k, i⟩).wsp (s.ctxOf ⟨k, i⟩).wsp true with
      | some _ => .next (if (s.ctxOf ⟨k, i⟩).waitKind = 1 ∧ (s.ctxOf ⟨k, i⟩).pend = .reissue then s.postWake k i else s)
      | none => .next (if (s.ctxOf ⟨k, i⟩).waitKind = 1 ∧ (s.ctxOf ⟨k, i⟩).pend = .reissue then (spillWindow s ⟨k, i⟩).postWake k i else spillWindow s ⟨k, i⟩) := by
  show execWindowSpill k i s = _
  rw [execWindowSpill, ctxExists_of hk hi]
  rfl

/-! ### The choice of a context (R87) -/

/-- The context that has been parked longest of a list, of several the first. -/
def longest (l : List (Nat × Context)) (best : Option (Nat × Context)) : Option (Nat × Context) :=
  l.foldl (fun best p => match best with
    | none => some p
    | some b => if p.2.parkedAt < b.2.parkedAt then some p else best) best

theorem longest_some (l : List (Nat × Context)) (b : Nat × Context) :
    ∃ p, longest l (some b) = some p ∧ (p = b ∨ p ∈ l) ∧ p.2.parkedAt ≤ b.2.parkedAt ∧ ∀ q ∈ l, p.2.parkedAt ≤ q.2.parkedAt := by
  induction l generalizing b with
  | nil => exact ⟨b, rfl, .inl rfl, Nat.le_refl _, fun _ h => nomatch h⟩
  | cons a l ih =>
    by_cases h : a.2.parkedAt < b.2.parkedAt
    · obtain ⟨p, e, hin, hle, hall⟩ := ih a
      refine ⟨p, ?_, .inr (List.mem_cons.mpr hin), by omega, fun q hq => ?_⟩
      · rw [longest, List.foldl_cons]
        dsimp only
        rw [if_pos h]
        exact e
      · obtain rfl | hq := List.mem_cons.mp hq
        · exact hle
        · exact hall q hq
    · obtain ⟨p, e, hin, hle, hall⟩ := ih b
      refine ⟨p, ?_, hin.imp_right (List.mem_cons_of_mem a), hle, fun q hq => ?_⟩
      · rw [longest, List.foldl_cons]
        dsimp only
        rw [if_neg h]
        exact e
      · obtain rfl | hq := List.mem_cons.mp hq
        · omega
        · exact hall q hq

theorem longest_none (l : List (Nat × Context)) :
    (∀ p, longest l none = some p → p ∈ l ∧ ∀ q ∈ l, p.2.parkedAt ≤ q.2.parkedAt) ∧ (longest l none = none → l = []) := by
  cases l with
  | nil => exact ⟨fun p h => (nomatch h), fun _ => rfl⟩
  | cons a l =>
    obtain ⟨p, e, hin, hle, hall⟩ := longest_some l a
    have hfold : longest (a :: l) none = some p := e
    rw [hfold]
    refine ⟨fun q hq => ?_, fun h => (nomatch h)⟩
    cases hq
    refine ⟨List.mem_cons.mpr hin, fun q hq => ?_⟩
    obtain rfl | hq := List.mem_cons.mp hq
    · exact hle
    · exact hall q hq

/-- The contexts that a core lets itself choose. -/
def Core.Spills (c : Core) (p : Nat × Context) : Prop := p.1 < 24 ∧ p.2.st = .parked ∧ p.2.stopped = false ∧ p.2.stopReq = false ∧
  (∀ h ∈ c.heldSq, h.1 ≠ .thread p.1) ∧ (∀ j < 4, SMap.get 0 p.2.rstate j ≠ 1) ∧ (SpillNeed.any, p.2.tid) ∉ c.spillFails

theorem spillChoice_spec (c : Core) :
    (∀ i, spillChoice c .any = some i → ∃ p ∈ c.ctxs, p.1 = i ∧ c.Spills p ∧ ∀ q ∈ c.ctxs, c.Spills q → p.2.parkedAt ≤ q.2.parkedAt) ∧
    (spillChoice c .any = none → ∀ q ∈ c.ctxs, ¬ c.Spills q) := by
  obtain ⟨f, hf⟩ : ∃ f : Nat × Context → Bool, f = fun p =>
    decide (p.1 < 24) && decide (p.2.st = .parked) && !p.2.stopped && !p.2.stopReq && !(c.heldSq.any (fun h => decide (h.1 = .thread p.1)))
      && !((List.range 4).any (fun i => decide (SMap.get 0 p.2.rstate i = 1))) && !c.spillFails.contains (.any, p.2.tid) := ⟨_, rfl⟩
  have hspills (p : Nat × Context) : f p = true ↔ c.Spills p := by
    rw [hf]
    simp only [Core.Spills, Bool.and_eq_true, decide_eq_true_eq, Bool.not_eq_true', List.any_eq_false, List.mem_range, List.contains_eq_mem, decide_eq_false_iff_not, and_assoc]
  have hmem (p : Nat × Context) : p ∈ c.ctxs.filter f ↔ p ∈ c.ctxs ∧ c.Spills p := by rw [List.mem_filter, hspills]
  have hchoice : spillChoice c .any = (longest (c.ctxs.filter f) none).map (·.1) := by rw [hf]; rfl
  obtain ⟨hsome, hnone⟩ := longest_none (c.ctxs.filter f)
  rw [hchoice]
  refine ⟨fun i h => ?_, fun h q hq hs => ?_⟩
  · obtain ⟨p, e, rfl⟩ := Option.map_eq_some_iff.mp h
    obtain ⟨hp, hall⟩ := hsome p e
    obtain ⟨hin, hs⟩ := (hmem p).mp hp
    exact ⟨p, hin, rfl, hs, fun q hq hqs => hall q ((hmem q).mpr ⟨hq, hqs⟩)⟩
  · have hempty := hnone (Option.map_eq_none_iff.mp h)
    have := (hmem q).mpr ⟨hq, hs⟩
    rw [hempty] at this
    contradiction

/-! ### Spilling a context (R87, R414) -/

/-- Spilling the windows of a context touches no other context's registers. -/
theorem spillAll_regs (r : ThreadRef) (n : Nat) (s : State) {q : ThreadRef} (hq : q ≠ r) : ((spillAll s r n).2.ctxOf q).regs = (s.ctxOf q).regs := by
  induction n generalizing s with
  | zero => rfl
  | succ n ih =>
    unfold spillAll
    dsimp only
    split
    · rfl
    · split
      · rfl
      · rw [ih, (spillWindow_spec s r).1 q, if_neg hq]

theorem writeSave_regs (k : Nat) (a : Word) (c : Core) (x : Context) (out clk : Nat) (l : List Nat) (s : State) (q : ThreadRef) :
    ((writeSave s k a c x out clk l).2.ctxOf q).regs = (s.ctxOf q).regs := by
  induction l generalizing s clk with
  | nil => rfl
  | cons i l ih =>
    unfold writeSave
    dsimp only
    have hk := check_keeps s (saveWho s k) (a + BitVec.ofNat 64 (64 * i)).toNat { w := true, size := 64 }
    split
    · rename_i e
      rw [e] at hk
      exact hk.regs q
    · rename_i e
      rw [e] at hk
      rw [ih, storeDevice_regs]
      exact hk.regs q

/-- A context that has been spilled is free, and its save area known. -/
theorem spillCtx_spec {s s' : State} {r : ThreadRef} (h : spillCtx s r = (none, s')) : s'.ctxOf r = {} ∧
    SMap.get 0 s'.spilled (s.ctxOf r).tid = (s.ctxOf r).save ∧ ∀ q, q ≠ r → (s'.ctxOf q).regs = (s.ctxOf q).regs := by
  unfold spillCtx at h
  dsimp only at h
  split at h
  · cases h
  · rename_i t ht
    split at h
    · cases h
    · rename_i u hu
      cases h
      refine ⟨State.ctxOf_setCtx_same _ _ _, SMap.get_set_same _ _ _ _, fun q hq => ?_⟩
      have h1 := spillAll_regs r 8 s hq
      have h2 := writeSave_regs r.core (s.ctxOf r).save (t.core r.core) (t.ctxOf r) (t.outstanding (s.ctxOf r).tid) (t.clkOf r) (List.range 13) t q
      rw [ht] at h1
      rw [hu] at h2
      have hset : ((u.setCtx r {}).ctxOf q) = u.ctxOf q := by rw [State.ctxOf_setCtx, if_neg hq]
      exact (congrArg Context.regs hset).trans (h2.trans h1)

theorem endNeeds_ctxOf (s : State) (k : Nat) (p : SpillNeed → Bool) (q : ThreadRef) : (endNeeds s k p).ctxOf q = s.ctxOf q :=
  State.ctxOf_setCore_of_ctxs (by rfl) q

theorem autoSpill_none {s s' : State} {r : ThreadRef} (h : spillCtx s r = (none, s')) : ∃ u, autoSpill s r = (none, u) ∧ (∀ q, u.ctxOf q = s'.ctxOf q) ∧ u.spilled = s'.spilled := by
  rw [autoSpill, h]
  dsimp only
  refine ⟨_, rfl, fun q => ?_, ?_⟩
  · split
    · exact State.ctxOf_setCore_of_ctxs (by rfl) q
    · rfl
  · split <;> rfl

theorem autoSpill_some {s s' : State} {r : ThreadRef} {e : Nat × Word} (h : spillCtx s r = (some e, s')) : autoSpill s r = (some e, s') := by
  rw [autoSpill, h]

/-! ### The obligation -/

/-- Settles O38. -/
theorem windowsAndContextsSpill : Obligations.WindowsAndContextsSpill := by
  refine ⟨fun s k i hk hi => ⟨fun h => ?_, fun hst hlen hf => ?_, fun hst hlen hf => ?_⟩,
    fun s k hk => ⟨fun h => ?_, (spillChoice_spec (s.core k)).1, (spillChoice_spec (s.core k)).2, fun hfull i hc => ⟨fun s' h => ?_, fun e s' h => ?_⟩⟩⟩
  · rw [execWindowSpill_eq hk hi]
    exact if_pos h
  · rw [execWindowSpill_eq hk hi, if_neg (by rintro (h | h); exacts [hst h, by omega])]
    obtain ⟨e, he⟩ := Option.ne_none_iff_exists'.mp hf
    rw [he]
    rfl
  · have hexec := execWindowSpill_eq (s := s) hk hi
    obtain ⟨hregs, hhost, hpeer, hmem, hside⟩ := spillWindow_spec s ⟨k, i⟩
    rw [if_neg (by rintro (h | h); exacts [hst h, by omega]), hf] at hexec
    refine ⟨_, hexec, ?_⟩
    split
    · exact ⟨hregs, hhost, hpeer, hmem, hside, fun _ _ => List.mem_append_right _ (List.mem_singleton_self _)⟩
    · rename_i hno
      exact ⟨hregs, hhost, hpeer, hmem, hside, fun h1 h2 => absurd ⟨h1, h2⟩ hno⟩
  · show execContextSpill k s = _
    rw [execContextSpill, coreExists_of hk, if_neg (by decide)]
    by_cases hfree : (s.core k).freeCtx.isSome = true
    · rw [if_pos hfree]
    · rw [if_neg hfree, h.resolve_left (fun hne => hfree (Option.isSome_iff_ne_none.mpr hne))]
  · obtain ⟨u, hu, hctx, hspilled⟩ := autoSpill_none h
    obtain ⟨hfree, hsave, hregs⟩ := spillCtx_spec h
    refine ⟨endNeeds u k (fun x => decide (x = .any)), ?_, ?_, ?_, fun q hq => ?_⟩
    · show execContextSpill k s = _
      rw [execContextSpill, coreExists_of hk, if_neg (by decide), hfull, if_neg (by decide), hc]
      dsimp only
      rw [hu]
    · rw [endNeeds_ctxOf, hctx, hfree]
    · exact (congrArg (fun m => SMap.get 0 m ((s.core k).ctx i).tid) hspilled).trans hsave
    · rw [endNeeds_ctxOf, hctx]
      exact hregs q hq
  · have hu := autoSpill_some h
    refine ⟨failSpill s' ⟨k, i⟩ .any, ?_, State.ctxOf_setCore_of_ctxs (by rfl) _, ?_⟩
    · show execContextSpill k s = _
      rw [execContextSpill, coreExists_of hk, if_neg (by decide), hfull, if_neg (by decide), hc]
      dsimp only
      rw [hu]
    · rw [failSpill, State.core_setCore_same]
      exact List.mem_append_right _ (List.mem_singleton_self _)

end Sys2Proof.Machine
end

section
/-! SUPPORT. What a page walk and a tracking read leave of the caches, directories and notices (R310 to R318, R321). -/

namespace Sys2Proof.Machine

/-- No entry of the directory is a region record's. -/
def Micro.Recordless (m : Micro) : Prop := ∀ l, (SMap.get {} m.dir l).record = false

/-- What a walk or a tracking read may touch: copies in the L1 caches, home lines, translations and the directory, in which no record of a region
appears. -/
structure Micro.Walked (m m' : Micro) : Prop where
  rest : m' = { m with l1d := m'.l1d, home := m'.home, tlb := m'.tlb, ctlb := m'.ctlb, wcache := m'.wcache, dir := m'.dir, dirOrder := m'.dirOrder,
                       tick := m'.tick }
  records : m.Recordless → m'.Recordless

theorem Micro.Walked.refl (m : Micro) : m.Walked m := ⟨rfl, id⟩

theorem Micro.Walked.trans {a b c : Micro} (h : a.Walked b) (h' : b.Walked c) : a.Walked c where
  rest := by rw [h'.rest, h.rest]
  records := h'.records ∘ h.records

theorem Micro.Walked.moving {m m' : Micro} (h : m.Walked m') : m'.moving = m.moving := by rw [h.rest]

theorem Micro.Walked.lineMoving {m m' : Micro} (h : m.Walked m') (line : Nat) : m'.lineMoving line = m.lineMoving line := by
  rw [Micro.lineMoving, Micro.lineMoving, h.moving]

/-- Every instruction of a list is an eviction notice (R318). -/
def Notices (l : List Instr) : Prop := ∀ i ∈ l, ∃ k n r, i = .evictionNotice k n r

theorem Notices.nil : Notices [] := fun _ h => nomatch h

theorem Notices.append {a b : List Instr} (ha : Notices a) (hb : Notices b) : Notices (a ++ b) := fun i h =>
  (List.mem_append.mp h).elim (ha i) (hb i)

theorem Notices.flatMap {α : Type} {f : α → List Instr} (h : ∀ a, Notices (f a)) (l : List α) : Notices (l.flatMap f) := fun i hi => by
  obtain ⟨a, -, ha⟩ := List.mem_flatMap.mp hi
  exact h a i ha

theorem Micro.notices_are (m : Micro) (k : Nat) (l : List (Nat × Nat)) : Notices (m.notices k l) := fun i hi => by
  obtain ⟨p, -, rfl⟩ := List.mem_map.mp hi
  exact ⟨_, _, _, rfl⟩

/-- A step of a walk: what it leaves and what it sends. -/
def Walks (m : Micro) (a : Micro × List Instr) : Prop := m.Walked a.1 ∧ Notices a.2

theorem Walks.refl (m : Micro) : Walks m (m, []) := ⟨Micro.Walked.refl m, Notices.nil⟩

theorem Micro.dropDerived_walks (m : Micro) (core line : Nat) : Walks m (m.dropDerived core line) :=
  ⟨⟨rfl, id⟩, Micro.notices_are _ _ _⟩

theorem Micro.dropDerivedAll_walks (m : Micro) (cores : List Nat) (line : Nat) : Walks m (m.dropDerivedAll cores line) := by
  have hfold (l : List Nat) (a : Micro × List Instr) (h : Walks m a) :
      Walks m (l.foldl (fun a k => let b := a.1.dropDerived k line; (b.1, a.2 ++ b.2)) a) := by
    induction l generalizing a with
    | nil => exact h
    | cons k l ih =>
      obtain ⟨hw, hn⟩ := Micro.dropDerived_walks a.1 k line
      exact ih _ ⟨h.1.trans hw, h.2.append hn⟩
  exact hfold cores (m, []) (Walks.refl m)

/-! ### Entries of the directory (R317, R321) -/

/-- A party other than a region's record. -/
def PlainParty (p : Party) : Prop := ∀ k id, p ≠ .regionRecord k id

theorem DirEntry.addCore_record (d : DirEntry) (k : Nat) : (d.addCore k).record = d.record := by
  unfold DirEntry.addCore
  split
  · rfl
  · split
    · rfl
    · split <;> rfl

theorem DirEntry.add_record {d : DirEntry} {p : Party} (hp : PlainParty p) : (d.add p).record = d.record := by
  cases p with
  | core k => exact d.addCore_record k
  | hub c => rfl
  | dispenser c => rfl
  | sdie => rfl
  | regionRecord k id => exact absurd rfl (hp k id)

theorem DirEntry.foldl_add_record {l : List Party} (hl : ∀ p ∈ l, PlainParty p) (d : DirEntry) : (l.foldl DirEntry.add d).record = d.record := by
  induction l generalizing d with
  | nil => rfl
  | cons p l ih => exact (ih (fun q hq => hl q (List.mem_cons_of_mem p hq)) _).trans (DirEntry.add_record (hl p List.mem_cons_self))

theorem DirEntry.readers_plain {d : DirEntry} (h : d.record = false) (slice : Nat) : ∀ p ∈ d.readers slice, PlainParty p := by
  intro p hp k id e
  subst e
  unfold DirEntry.readers at hp
  rw [h] at hp
  split at hp
  · simp at hp
  · cases hp

theorem Micro.recordless_put {m : Micro} {line : Nat} {d : DirEntry} (h : m.Recordless) (hd : d.record = false) (o : List Nat) :
    ({ m with dir := SMap.put m.dir line d, dirOrder := o } : Micro).Recordless := fun l => by
  rw [SMap.get_put]
  split
  · exact hd
  · exact h l

theorem Micro.recordless_del {m : Micro} {line : Nat} (h : m.Recordless) (o : List Nat) :
    ({ m with dir := SMap.del m.dir line, dirOrder := o } : Micro).Recordless := fun l => by
  rw [SMap.get_del]
  split
  · rfl
  · exact h l

/-- An entry that is reused, registered anew for those who read its line again. -/
def Micro.reuse (m : Micro) (old : Nat) (again : List Party) (round : Nat) : Micro :=
  if again.isEmpty then { m with dir := SMap.del m.dir old, dirOrder := m.dirOrder.filter (fun x => decide (x ≠ old)) }
  else { m with dir := SMap.put m.dir old (again.foldl DirEntry.add { round := round }), dirOrder := m.dirOrder.filter (fun x => decide (x ≠ old)) ++ [old] }

theorem Micro.reuse_walked {m : Micro} {again : List Party} (h : m.Recordless → ∀ p ∈ again, PlainParty p) (old round : Nat) : m.Walked (m.reuse old again round) := by
  unfold Micro.reuse
  split
  · exact ⟨rfl, fun hm => Micro.recordless_del hm _⟩
  · exact ⟨rfl, fun hm => Micro.recordless_put hm (DirEntry.foldl_add_record (h hm) _) _⟩

theorem Micro.trimDir_succ (needs : Party → Nat → Bool) (slice cap n : Nat) (m : Micro) : m.trimDir needs slice cap (n + 1) =
    match m.dirOf slice with
    | [] => (m, [])
    | old :: l =>
      if l.length < cap then (m, [])
      else
        let a := m.dropDerivedAll (SMap.get {} m.dir old).sharers old
        let b := (a.1.reuse old (((SMap.get {} m.dir old).readers slice).filter (fun p => needs p old)) (((SMap.get {} m.dir old).round + 1) % 256)).trimDir
          needs slice cap n
        (b.1, a.2 ++ b.2) := rfl

theorem Micro.dropDerivedAll_dir (m : Micro) (cores : List Nat) (line : Nat) : (m.dropDerivedAll cores line).1.dir = m.dir := by
  have hfold (l : List Nat) (a : Micro × List Instr) : (l.foldl (fun a k => let b := a.1.dropDerived k line; (b.1, a.2 ++ b.2)) a).1.dir = a.1.dir := by
    induction l generalizing a with
    | nil => rfl
    | cons k l ih => exact (ih _).trans rfl
  exact hfold cores (m, [])

theorem Micro.trimDir_walks (needs : Party → Nat → Bool) (slice cap n : Nat) (m : Micro) : Walks m (m.trimDir needs slice cap n) := by
  induction n generalizing m with
  | zero => exact Walks.refl m
  | succ n ih =>
    rw [Micro.trimDir_succ]
    cases m.dirOf slice with
    | nil => exact Walks.refl m
    | cons old l =>
      dsimp only
      split
      · exact Walks.refl m
      · obtain ⟨hw, hn⟩ := Micro.dropDerivedAll_walks m (SMap.get {} m.dir old).sharers old
        have hdir := Micro.dropDerivedAll_dir m (SMap.get {} m.dir old).sharers old
        obtain ⟨a, ha⟩ : ∃ a, a = m.dropDerivedAll (SMap.get {} m.dir old).sharers old := ⟨_, rfl⟩
        rw [← ha] at hw hn hdir ⊢
        have hre : a.1.Walked (a.1.reuse old (((SMap.get {} m.dir old).readers slice).filter (fun p => needs p old)) (((SMap.get {} m.dir old).round + 1) % 256)) :=
          Micro.reuse_walked (fun hrec p hp => DirEntry.readers_plain (by rw [← hdir]; exact hrec old) slice p (List.mem_of_mem_filter hp)) _ _
        obtain ⟨hw', hn'⟩ := ih (a.1.reuse old (((SMap.get {} m.dir old).readers slice).filter (fun p => needs p old)) (((SMap.get {} m.dir old).round + 1) % 256))
        exact ⟨(hw.trans hre).trans hw', hn.append hn'⟩

/-- A tracking read of a party that is no record (R317). -/
theorem Micro.register_walks (needs : Party → Nat → Bool) (m : Micro) {p : Party} (hp : PlainParty p) (line : Nat) : Walks m (m.register needs p line) := by
  obtain ⟨a, ha⟩ : ∃ a, a = if m.dirOrder.contains line ∨ m.dirOrder.length < 32768 then (m, []) else m.trimDir needs (m.homeOf (64 * line)) 32767 8203 := ⟨_, rfl⟩
  have hwalk : Walks m a := by
    rw [ha]
    split
    · exact Walks.refl m
    · exact Micro.trimDir_walks _ _ _ _ _
  rw [Micro.register, ← ha]
  exact ⟨hwalk.1.trans ⟨rfl, fun h => Micro.recordless_put h ((DirEntry.add_record hp).trans (h line)) _⟩, hwalk.2⟩

theorem Micro.takeBack_walked (m : Micro) (flat : LineData × Word) (line : Nat) (rd : Bool) : m.Walked (m.takeBack flat line rd) := by
  unfold Micro.takeBack
  dsimp only
  split
  · split
    · split
      · exact ⟨rfl, id⟩
      · exact ⟨rfl, id⟩
    · exact Micro.Walked.refl m
  · exact Micro.Walked.refl m

/-! ### Watch reports (R394) -/

theorem watchReport_fields (s : State) (w : Who) (l : Loc) (rd wr : Bool) :
    (watchReport s w l rd wr).micro = s.micro ∧ (watchReport s w l rd wr).agenda = s.agenda := by
  unfold watchReport
  split
  · induction s.micro.watchesOn _ rd wr generalizing s with
    | nil => exact ⟨rfl, rfl⟩
    | cons e es ih =>
      rw [List.foldl_cons]
      refine ⟨(ih _).1.trans ?_, (ih _).2.trans ?_⟩
      all_goals
        dsimp only
        split
        · split <;> rfl
        · rfl
  · exact ⟨rfl, rfl⟩

theorem watchReport_micro (s : State) (w : Who) (l : Loc) (rd wr : Bool) : (watchReport s w l rd wr).micro = s.micro := (watchReport_fields s w l rd wr).1

theorem watchReport_agenda (s : State) (w : Who) (l : Loc) (rd wr : Bool) : (watchReport s w l rd wr).agenda = s.agenda := (watchReport_fields s w l rd wr).2

/-! ### Walks (R310 to R315) -/

/-- The step of a walk is one of `m`. -/
def Xlat.From {α : Type} (m : Micro) (x : Xlat α) : Prop := Walks m (x.micro, x.notes)

theorem Xlat.From.refl {α : Type} (m : Micro) (a : Except Nat α) (g : List (Nat × Nat)) (q : List Nat) : Xlat.From m ⟨a, m, [], g, q⟩ := Walks.refl m

/-- What follows a first part. -/
theorem Xlat.From.after {α : Type} {m m' : Micro} {n : List Instr} (h : Walks m (m', n)) {x : Xlat α} (hx : Xlat.From m' x) (g : List (Nat × Nat)) (q : List Nat) :
    Xlat.From m (x.after n g q) := ⟨h.1.trans hx.1, h.2.append hx.2⟩

theorem nodeLine_from (s : State) (w : Who) (m : Micro) (line : Nat) : Xlat.From m (nodeLine s w m line) := by
  unfold nodeLine
  split
  · exact Xlat.From.refl m _ _ _
  · split
    · exact Xlat.From.refl m _ _ _
    · split
      · exact Xlat.From.refl m _ _ _
      · split
        · exact Xlat.From.refl m _ _ _
        · obtain ⟨hw, hn⟩ := Micro.register_walks s.needs (m.takeBack (s.lineAt (.main (64 * line))) line true) (p := .core w.core) (fun _ _ h => nomatch h) line
          have hall := (Micro.takeBack_walked m (s.lineAt (.main (64 * line))) line true).trans hw
          dsimp only
          split
          · exact ⟨hall.trans ⟨rfl, id⟩, hn⟩
          · exact ⟨hall.trans ⟨rfl, id⟩, hn⟩

/-- A result of the first part, with whatever answer follows from it. -/
theorem Xlat.From.answer {α β : Type} {m : Micro} {x : Xlat α} (h : Xlat.From m x) (a : Except Nat β) (g : List (Nat × Nat)) (q : List Nat) :
    Xlat.From m ⟨a, x.micro, x.notes, g, q⟩ := h

theorem readAttr_from (s : State) (w : Who) (m : Micro) (root i : Nat) (host : Bool) : Xlat.From m (readAttr s w m root i host) := by
  unfold readAttr
  dsimp only
  have h0 := nodeLine_from s w m ((root + 8 * 0xF0) / 64)
  split
  · rename_i e
    rw [e] at h0
    exact h0
  · rename_i img r0 m0 n0 g0 q0 e
    rw [e] at h0
    split
    · exact h0
    · have h1 := nodeLine_from s w m0 ((bitsOf (lineWord img ((root + 8 * 0xF0) % 64)) 63 20 * 256 + 16 * i) / 64)
      split
      · rename_i e
        rw [e] at h1
        exact ⟨h0.1.trans h1.1, h0.2.append h1.2⟩
      · rename_i e
        rw [e] at h1
        split
        · exact ⟨h0.1.trans h1.1, h0.2.append h1.2⟩
        · exact ⟨h0.1.trans h1.1, h0.2.append h1.2⟩

theorem walkEnd_from (s : State) (w : Who) (m : Micro) (root va l : Nat) (e : Word) (lines : List (Nat × Nat)) : Xlat.From m (walkEnd s w m root va l e lines) := by
  unfold walkEnd
  dsimp only
  split
  · exact Xlat.From.refl m _ _ _
  · have h := readAttr_from s w m root (bitsOf e 19 8) (inHost va && decide (bitsOf e 2 0 = 2))
    split
    · rename_i e'
      rw [e'] at h
      exact h
    · rename_i e'
      rw [e'] at h
      exact h

theorem walkFrom_from (s : State) (w : Who) (root va : Nat) (ls : List Nat) (base : Nat) (lines : List (Nat × Nat)) (m : Micro) :
    Xlat.From m (walkFrom s w root va ls base lines m) := by
  induction ls generalizing base lines m with
  | nil => exact Xlat.From.refl m _ _ _
  | cons l ls ih =>
    unfold walkFrom
    dsimp only
    have h := nodeLine_from s w m ((base + 8 * (va / 2 ^ (56 - 8 * l) % 256)) / 64)
    split
    · rename_i e
      rw [e] at h
      exact h
    · rename_i e
      rw [e] at h
      split
      · split
        · exact h
        · exact Xlat.From.after h (ih _ _ _) _ _
      · split
        · exact Xlat.From.after h (walkEnd_from s w _ root va l _ _) _ _
        · exact h

theorem keepEntry_walks (m : Micro) (core : Nat) (e : TlbEntry) : Walks m (keepEntry m core e) :=
  ⟨⟨rfl, id⟩, (Notices.flatMap (fun _ => Micro.notices_are _ _ _) _).append (Notices.flatMap (fun _ => Micro.notices_are _ _ _) _)⟩

theorem endWalk_from {m : Micro} {x : Xlat TlbEntry} (h : Xlat.From m x) (core : Nat) : Xlat.From m (endWalk core x) := by
  obtain ⟨a, ha⟩ : ∃ a, a = match x.ans with
      | .ok e => if x.micro.registered core e then keepEntry x.micro core e else (x.micro, [])
      | .error _ => (x.micro, []) := ⟨_, rfl⟩
  have hwalk : Walks x.micro a := by
    rw [ha]
    split
    · split
      · exact keepEntry_walks _ _ _
      · exact Walks.refl _
    · exact Walks.refl _
  have e : endWalk core x = ⟨x.ans, a.1, x.notes ++ a.2 ++ a.1.notices core x.gone.eraseDups, [], x.reads⟩ := by rw [ha]; rfl
  rw [e]
  exact ⟨h.1.trans hwalk.1, (h.2.append hwalk.2).append (Micro.notices_are _ _ _)⟩

theorem translate_from (s : State) (w : Who) (va : Nat) : Xlat.From s.micro (translate s w va) := by
  unfold translate
  dsimp only
  split
  · exact Xlat.From.refl _ _ _ _
  · split
    · exact Xlat.From.refl _ _ _ _
    · split
      · exact Xlat.From.refl _ _ _ _
      · split
        · exact Xlat.From.refl _ _ _ _
        · exact endWalk_from (walkFrom_from s w _ va _ _ _ _) _

theorem checkXlat_from (s : State) (w : Who) (va : Nat) (n : Need) : Xlat.From s.micro (checkXlat s w va n) := by
  unfold checkXlat
  split
  · exact Xlat.From.refl _ _ _ _
  split
  · exact Xlat.From.refl _ _ _ _
  split
  · exact Xlat.From.refl _ _ _ _
  split
  · exact Xlat.From.refl _ _ _ _
  split
  · split
    · exact Xlat.From.refl _ _ _ _
    · exact Xlat.From.refl _ _ _ _
  · have h := translate_from s w va
    split
    · rename_i e
      rw [e] at h
      exact h
    · rename_i e
      rw [e] at h
      exact h

/-- What a check of an access leaves of the caches, and what it sends. -/
theorem check_walks (s : State) (w : Who) (va : Nat) (n : Need) : s.micro.Walked (check s w va n).2.micro ∧
    ∃ l, (check s w va n).2.agenda = s.agenda ++ l ∧ Notices l := by
  have h := checkXlat_from s w (resolveAlias w.core va) n
  obtain ⟨x, hx⟩ : ∃ x, x = checkXlat s w (resolveAlias w.core va) n := ⟨_, rfl⟩
  rw [← hx] at h
  have hreport (l : List Nat) (t : State) : (watchedWalk t w l).micro = t.micro ∧ (watchedWalk t w l).agenda = t.agenda := by
    unfold watchedWalk
    induction l generalizing t with
    | nil => exact ⟨rfl, rfl⟩
    | cons a l ih => exact ⟨(ih _).1.trans (watchReport_micro ..), (ih _).2.trans (watchReport_agenda ..)⟩
  have e : check s w va n = (x.ans, watchedWalk { s with micro := x.micro, agenda := s.agenda ++ x.notes } w x.reads) := by rw [hx]; rfl
  rw [e]
  obtain ⟨hm, ha⟩ := hreport x.reads { s with micro := x.micro, agenda := s.agenda ++ x.notes }
  exact ⟨by rw [hm]; exact h.1, x.notes, ha, h.2⟩

theorem checkMe_walks {s s' : State} {ea : Word} {n : Need} {e : Except Nat Target} (h : checkMe s ea n = (e, s')) : s.micro.Walked s'.micro := by
  have hw := (check_walks s s.myWho ea.toNat n).1
  rw [checkMe] at h
  rwa [h] at hw

end Sys2Proof.Machine
end

section
/-! O19 (R174 to R178, R291, R292): the members of ROUND on their regions. -/

namespace Sys2Proof.Machine

/-! ### A thread that answers itself -/

/-- `t` runs the thread of `s` with the registers of `x`, and has the bytes of `s`. -/
structure State.Serves (s t : State) (x : Context) : Prop where
  bytes : s.SameBytes t
  cur : t.cur = s.cur
  regs : ∀ q, (t.ctxOf q).regs = if q = s.cur then x.regs else (s.ctxOf q).regs

theorem State.Keeps.serves {s t : State} (h : s.Keeps t) : s.Serves t s.me where
  bytes := h.bytes
  cur := h.touches.cur
  regs q := by
    rw [h.regs]
    split
    · subst q; rfl
    · rfl

theorem State.Serves.steady {s t u : State} {x : Context} (h : s.Serves t x) (h' : t.Steady u) (hc : u.cur = t.cur) : s.Serves u x where
  bytes := h.bytes.trans h'.bytes
  cur := hc.trans h.cur
  regs q := by rw [h'.ctx, h.regs]

theorem State.Serves.me {s t : State} {x : Context} (h : s.Serves t x) : t.me.regs = x.regs := by
  rw [State.me, h.cur, h.regs, if_pos rfl]

theorem State.Serves.setMe {s t : State} {x : Context} (h : s.Serves t x) (y : Context) : s.Serves (t.setMe y) y where
  bytes := State.sameBytes_iff.mpr (by simp [h.bytes.bytes_eq])
  cur := h.cur
  regs q := by
    rw [State.ctxOf_setMe, h.cur]
    split
    · rfl
    · rw [h.regs, if_neg ‹_›]

theorem State.Serves.of_regs {s t : State} {x y : Context} (h : s.Serves t x) (e : x.regs = y.regs) : s.Serves t y := ⟨h.bytes, h.cur, fun q => by rw [h.regs, e]⟩

theorem leave_views (s : State) (kind obj : Nat) (p : Pend) (k : Nat) : ((leave s kind obj p).core k).views = (s.core k).views := by
  have hset (x : Context) : ((s.setMe x).core k).views = (s.core k).views := by
    rw [State.setMe, State.core_setCtx]
    split <;> rfl
  unfold leave
  split
  · exact hset _
  · exact ((congrArg Core.views (State.traceMe_core _ 8 (waitWord kind obj) k)) :).trans (hset _)

/-- Waiting for one's own reply leaves regions and views. -/
theorem awaitReply_regions (s : State) (obj k : Nat) : (awaitReply s obj).regions = s.regions ∧ ((awaitReply s obj).core k).views = (s.core k).views :=
  ⟨by rw [(awaitReply_keeps s obj).touches.rest], leave_views s 1 obj .reply k⟩

/-- The thread writes `v` to S[d] and waits with kind 1 for its reply. -/
theorem awaits_as {s t : State} {i : Instr} {d : BitVec 5} {v : Word} {obj : Nat} {x : Context} (he : exec i s = .next (awaitReply (t.setS d v) obj))
    (h : s.Serves t x) : ∃ u, exec i s = .next u ∧ s.SameBytes u ∧ s.Waits u 1 obj .reply ∧ .memoryReply s.cur.core s.cur.ctx ∈ u.agenda ∧
      (∀ q, (u.ctxOf q).regs = if q = s.cur then (x.writeS d v).regs else (s.ctxOf q).regs) ∧ u.regions = t.regions ∧
      ∀ k, (u.core k).views = (t.core k).views := by
  obtain ⟨w, hw⟩ : ∃ w, w = t.setS d v := ⟨_, rfl⟩
  have hws : s.Serves w (x.writeS d v) := by
    rw [hw]
    exact (h.setMe (t.me.writeS d v)).of_regs (by rw [Context.writeS_regs, Context.writeS_regs, h.me])
  have hregions : w.regions = t.regions := by rw [hw]; rfl
  have hviews (k : Nat) : (w.core k).views = (t.core k).views := by
    rw [hw, State.setS, State.setMe, State.core_setCtx]
    split <;> rfl
  have hk := awaitReply_keeps w obj
  have hwait := leave_waits w 1 obj .reply
  have hreply := awaitReply_reply w obj
  rw [hws.cur] at hreply
  rw [← hw] at he
  exact ⟨_, he, hws.bytes.trans hk.bytes, ⟨hws.cur ▸ hwait.wait, hws.cur ▸ hwait.pend⟩, hreply, fun q => (hk.regs q).trans (hws.regs q),
    (awaitReply_regions w obj 0).1.trans hregions, fun k => (awaitReply_regions w obj k).2.trans (hviews k)⟩

theorem State.traceMe_steady (s : State) (e : Nat) (v : Word) : s.Steady (s.traceMe e v) :=
  ⟨State.sameBytes_iff.mpr (State.traceMe_bytes s e v), State.traceMe_ctxOf s e v⟩

/-! ### Floors (R177) -/

/-- Floor `i` is valid and names region `r`. -/
def FloorNames (floors : SMap Word) (r i : Nat) : Prop := (SMap.get 0 floors i).getLsbD 63 = true ∧ (SMap.get 0 floors i).toNat / 2 ^ 32 % 2 ^ 12 = r

theorem floorNames_iff (floors : SMap Word) (r i : Nat) : floorNames (SMap.get 0 floors i) r = true ↔ FloorNames floors r i := by
  rw [floorNames, Bool.and_eq_true, decide_eq_true_eq, bitsOf_eq]
  exact Iff.rfl

theorem floorIndex_some {floors : SMap Word} {r i : Nat} (hi : i < 8) (h : FloorNames floors r i) (hfirst : ∀ j < i, ¬ FloorNames floors r j) :
    floorIndex floors r = some i := by
  rw [floorIndex, List.find?_range_eq_some]
  refine ⟨(floorNames_iff ..).mpr h, List.mem_range.mpr hi, fun j hj => ?_⟩
  rw [Bool.not_eq_true', Bool.eq_false_iff]
  exact fun e => hfirst j hj ((floorNames_iff ..).mp e)

theorem floorIndex_none {floors : SMap Word} {r : Nat} (h : ∀ j < 8, ¬ FloorNames floors r j) : floorIndex floors r = none := by
  rw [floorIndex, List.find?_eq_none]
  exact fun j hj e => h j (List.mem_range.mp hj) ((floorNames_iff ..).mp e)

/-- The floor that RACQ and RFLOOR set: the valid one of the region, else the lowest invalid one. -/
def FloorChosen (floors : SMap Word) (r i : Nat) : Prop := i < 8 ∧ ((FloorNames floors r i ∧ ∀ j < i, ¬ FloorNames floors r j) ∨
  ((∀ j < 8, ¬ FloorNames floors r j) ∧ (SMap.get 0 floors i).getLsbD 63 = false ∧ ∀ j < i, (SMap.get 0 floors j).getLsbD 63 = true))

theorem floorSlot_chosen {floors : SMap Word} {r i : Nat} (h : FloorChosen floors r i) : floorSlot floors r = some i := by
  obtain ⟨hi, ⟨hn, hfirst⟩ | ⟨hnone, hfree, hfirst⟩⟩ := h
  · rw [floorSlot, floorIndex_some hi hn hfirst]
  · rw [floorSlot, floorIndex_none hnone]
    dsimp only
    rw [List.find?_range_eq_some]
    exact ⟨by rw [hfree]; rfl, List.mem_range.mpr hi, fun j hj => by rw [hfirst j hj]; rfl⟩

theorem floorSlot_full {floors : SMap Word} {r : Nat} (h : ∀ j < 8, (SMap.get 0 floors j).getLsbD 63 = true ∧ ¬ FloorNames floors r j) : floorSlot floors r = none := by
  rw [floorSlot, floorIndex_none (fun j hj => (h j hj).2)]
  dsimp only
  rw [List.find?_eq_none]
  intro j hj
  rw [(h j (List.mem_range.mp hj)).1]
  decide

/-! ### The check of a member (R174) -/

section
variable {s : State} {i : Instr} {a : BitVec 5} {n : Need} {f : State → Nat → Target → State} (he : exec i s = .next (withRegion s a n f))
include he

theorem withRegion_error {c : Nat} {s' : State} (h : checkMe s (s.S a) { n with size := 1 } = (.error c, s')) : exec i s = .next (trap s' c (s.S a)) := by
  rw [he, withRegion, h]

theorem withRegion_outside {t : Target} {s' : State} (h : checkMe s (s.S a) { n with size := 1 } = (.ok t, s')) (hr : t.region = none) :
    exec i s = .next (trap s' 0x01 (s.S a)) := by
  rw [he, withRegion, h]
  dsimp only
  rw [hr]

theorem withRegion_inside {t : Target} {s' : State} {r : Nat} (h : checkMe s (s.S a) { n with size := 1 } = (.ok t, s')) (hr : t.region = some r) :
    exec i s = .next (f s' r t) := by
  rw [he, withRegion, h]
  dsimp only
  rw [hr]

end

/-! ### The region's record (R290, R323) -/

/-- The granule of the region's record is in motion. -/
def State.RecordMoves (s : State) (n : Nat) : Prop := ∃ g, s.regionOn n = some g ∧ s.micro.lineMoving (g.base / 64) = true

theorem recordGate_moves {s : State} {n : Nat} (h : s.RecordMoves n) (self : Instr) : ∃ u, recordGate s n self = .error u ∧ s.Keeps u := by
  obtain ⟨g, hg, hm⟩ := h
  rw [recordGate, hg]
  dsimp only
  rw [if_pos hm]
  exact ⟨_, rfl, State.Keeps.micro s _⟩

theorem recordGate_rests {s : State} {n : Nat} (h : ¬ s.RecordMoves n) (self : Instr) : recordGate s n self = .ok s := by
  rw [recordGate]
  cases hg : s.regionOn n with
  | none => rfl
  | some g => exact if_neg (fun hm => h ⟨g, hg, hm⟩)

theorem recordMoves_check {s s' : State} {ea : Word} {n : Need} {e : Except Nat Target} (h : checkMe s ea n = (e, s')) (m : Nat) : s'.RecordMoves m ↔ s.RecordMoves m := by
  have hregion : s'.regionOn m = s.regionOn m := State.regionOn_congr (by rw [(checkMe_keeps h).touches.rest]) m
  simp only [State.RecordMoves, hregion, (checkMe_walks h).lineMoving]

/-- Reading the counter of a region (R176, R299). -/
theorem readCounter_spec (s : State) (n : Nat) : s.Steady (readCounter s n).2 ∧ (readCounter s n).2.cur = s.cur ∧
    (∀ k, (readCounter s n).2.core k = s.core k) ∧ ∀ g, s.regionOn n = some g → (readCounter s n).1 = g.counter ∧
      ∃ g', (readCounter s n).2.regionOn n = some g' ∧ g'.counter = g.counter ∧ g'.base = g.base ∧ g'.height = g.height ∧ g'.subscribers = g.subscribers := by
  unfold readCounter
  dsimp only
  cases hg : s.regionOn n with
  | none =>
    dsimp only
    refine ⟨?_, ?_, ?_, fun g h => nomatch h⟩
    · split
      · exact State.Steady.micro s _
      · unfold peerCounter
        dsimp only
        split
        · exact State.Steady.micro s _
        · exact ⟨⟨rfl, rfl, rfl, rfl⟩, fun _ => rfl⟩
    · split
      · rfl
      · unfold peerCounter
        dsimp only
        split <;> rfl
    · intro k
      split
      · rfl
      · unfold peerCounter
        dsimp only
        split <;> rfl
  | some g =>
    refine ⟨⟨⟨rfl, rfl, rfl, rfl⟩, fun _ => rfl⟩, rfl, fun _ => rfl, fun g' h => ?_⟩
    cases h
    exact ⟨rfl, _, State.regionOn_put s n _, rfl, rfl, rfl, rfl⟩

/-! ### The members -/

section
variable {s s' : State} {d a b : BitVec 5} {t : Target} {r : Nat}

theorem rpub_sends (h : checkMe s (s.S a) { w := true, size := 1 } = (.ok t, s')) (hr : t.region = some r) :
    Sends s (.rpub d a) s.me 1 (s.S a).toNat (.regionRpub (regionNo t r) s.cur d) := by
  have hk := checkMe_keeps h
  have he := withRegion_inside (i := .rpub d a) (n := { w := true })
    (f := fun s r t => (leave s 1 (s.S a).toNat .message).post [.regionRpub (regionNo t r) s.cur d]) rfl h hr
  rw [hk.readS, hk.touches.cur] at he
  exact sends_of he hk.touches hk.bytes

theorem checkMe_floors {e : Except Nat Target} {n : Need} (h : checkMe s (s.S a) n = (e, s')) : s'.me.floors = s.me.floors :=
  (congrArg Context.floors (checkMe_keeps h).touches.me_eq :)

theorem racq_full (h : checkMe s (s.S a) { r := true, size := 1 } = (.ok t, s')) (hr : t.region = some r)
    (hf : ∀ j < 8, (SMap.get 0 s.me.floors j).getLsbD 63 = true ∧ ¬ FloorNames s.me.floors r j) :
    exec (.racq d a) s = .next (trap s' 0x01 (BitVec.ofNat 64 r)) := by
  have he : exec (.racq d a) s = execRacq d a s := rfl
  rw [execRacq] at he
  have he := withRegion_inside he h hr
  dsimp only at he
  rw [checkMe_floors h, floorSlot_full hf] at he
  exact he

/-- A floor that holds round `v` of region `r`. -/
def Context.floored (x : Context) (r i v : Nat) : Context :=
  { x with floors := SMap.set 0 x.floors i (floorWord r v) }

theorem floorWord_eq (r v : Nat) : floorWord r v = BitVec.ofNat 64 (2 ^ 63 + r % 2 ^ 12 * 2 ^ 32 + v % 2 ^ 32) := by
  simp only [floorWord, Nat.reducePow]

theorem Context.floored_eq (x : Context) (r i v : Nat) : ({ x with floors := SMap.set 0 x.floors i (floorWord r v) } : Context) = x.floored r i v := rfl

theorem Context.floors_readS (x : Context) (l : SMap Word) (a : BitVec 5) : ({ x with floors := l } : Context).readS a = x.readS a := rfl

theorem Context.floored_readS (x : Context) (r i v : Nat) (a : BitVec 5) : (x.floored r i v).readS a = x.readS a := Context.floors_readS x _ a

theorem Context.floors_regs (x : Context) (l : SMap Word) : ({ x with floors := l } : Context).regs = { x.regs with floors := l } := rfl

theorem Context.floors_kept (x : Context) : x.regs.floors = x.floors := rfl

theorem Context.floored_regs (x : Context) (r i v : Nat) : (x.floored r i v).regs = x.regs.floored r i v := by
  rw [Context.floored, Context.floored, Context.floors_regs, Context.floors_kept]

theorem racq_moves {i : Nat} (h : checkMe s (s.S a) { r := true, size := 1 } = (.ok t, s')) (hr : t.region = some r) (hc : FloorChosen s.me.floors r i)
    (hm : s.RecordMoves (regionNo t r)) : Retries s (.racq d a) 1 (s.S a).toNat := by
  have hk := checkMe_keeps h
  have he : exec (.racq d a) s = execRacq d a s := rfl
  rw [execRacq] at he
  have he := withRegion_inside he h hr
  dsimp only at he
  obtain ⟨u, hu, hku⟩ := recordGate_moves ((recordMoves_check h _).mpr hm) (.wake s'.cur.core s'.cur.ctx)
  rw [checkMe_floors h, floorSlot_chosen hc] at he
  dsimp only at he
  rw [hu] at he
  dsimp only at he
  rw [(hk.then hku).readS] at he
  exact retries_with he (hk.then hku)

theorem racq_reads {i : Nat} (h : checkMe s (s.S a) { r := true, size := 1 } = (.ok t, s')) (hr : t.region = some r) (hc : FloorChosen s.me.floors r i)
    (hm : ¬ s.RecordMoves (regionNo t r)) : ∃ (u : State) (v : BitVec 32), exec (.racq d a) s = .next u ∧ s.SameBytes u ∧
      s.Waits u 1 (s.S a).toNat .reply ∧ .memoryReply s.cur.core s.cur.ctx ∈ u.agenda ∧
      (∀ j, (u.ctxOf j).regs = if j = s.cur then ((s.me.floored r i v.toNat).writeS d (v.setWidth 64)).regs else (s.ctxOf j).regs) ∧
      (∀ g, s.regionOn (regionNo t r) = some g → v = g.counter ∧ ∃ g', u.regionOn (regionNo t r) = some g' ∧ g'.counter = v ∧ g'.subscribers = g.subscribers) := by
  have hk := checkMe_keeps h
  have he : exec (.racq d a) s = execRacq d a s := rfl
  rw [execRacq] at he
  have he := withRegion_inside he h hr
  dsimp only at he
  rw [checkMe_floors h, floorSlot_chosen hc] at he
  dsimp only at he
  rw [recordGate_rests (fun hm' => hm ((recordMoves_check h _).mp hm'))] at he
  dsimp only at he
  obtain ⟨hsteady, hcur, -, hread⟩ := readCounter_spec s' (regionNo t r)
  obtain ⟨⟨v, u⟩, hvu⟩ : ∃ p, p = readCounter s' (regionNo t r) := ⟨_, rfl⟩
  rw [← hvu] at hsteady hcur hread he
  dsimp only at hsteady hcur hread he
  have hserve : s.Serves u s.me := hk.serves.steady hsteady hcur
  have hfloor : u.me.floors = s.me.floors := (congrArg Context.floors hserve.me :)
  obtain ⟨w, hw⟩ : ∃ w, w = u.setMe (u.me.floored r i v.toNat) := ⟨_, rfl⟩
  have hws : s.Serves w (s.me.floored r i v.toNat) := by
    rw [hw]
    refine (hserve.setMe _).of_regs ?_
    rw [Context.floored_regs, hserve.me, ← Context.floored_regs]
  have hwS : w.S a = s.S a := by
    have e := congrArg (fun x : Context => x.readS a) hws.me
    rw [State.S, ← Context.readS_regs, e, Context.readS_regs, Context.floored_readS]
    rfl
  rw [Context.floored_eq, ← hw, hwS] at he
  obtain ⟨x, ex, hb, hwt, hrep, hregs, hregions, -⟩ := awaits_as he (hws.steady (State.traceMe_steady w 6 (roundTrace r v.toNat)) (State.traceMe_cur ..))
  refine ⟨x, v, ex, hb, hwt, hrep, hregs, fun g hg => ?_⟩
  have hg' : s'.regionOn (regionNo t r) = some g := (State.regionOn_congr (by rw [hk.touches.rest]) _).trans hg
  obtain ⟨ev, g', hon, hcounter, -, -, hsubs⟩ := hread g hg'
  refine ⟨ev, g', (State.regionOn_congr (hregions.trans ?_) _).trans hon, hcounter.trans ev.symm, hsubs⟩
  rw [State.traceMe_rest, hw]
  rfl

end

/-! ### RFLOOR (R177) -/

/-- Clearing the valid bit. -/
theorem and_low63 {v : Word} (hv : v.getLsbD 63 = true) : (v &&& 0x7FFFFFFFFFFFFFFF).toNat = v.toNat - 2 ^ 63 := by
  have hmsb : 2 ^ 63 ≤ v.toNat := by
    rw [← BitVec.msb_eq_getLsbD_last] at hv
    exact BitVec.toNat_ge_of_msb_true hv
  have hlt := v.isLt
  rw [BitVec.toNat_and, show (0x7FFFFFFFFFFFFFFF : Word).toNat = 2 ^ 63 - 1 from rfl, Nat.and_two_pow_sub_one_eq_mod]
  omega

theorem withWalk_walks {s : State} {a : BitVec 5} (h : ¬ (s.me.wait ≠ 0 ∨ needsWalk s s.cur.core (s.S a) = false)) (n : Need) (f : State → Nat → Target → State) :
    withWalk s a n f = (leave s 1 (s.S a).toNat .reissue).postWake s.cur.core s.cur.ctx := by
  rw [not_or, not_not, Bool.not_eq_false] at h
  exact if_pos (by simp [h.1, h.2])

theorem withWalk_checks {s : State} {a : BitVec 5} (h : s.me.wait ≠ 0 ∨ needsWalk s s.cur.core (s.S a) = false) (n : Need) (f : State → Nat → Target → State) :
    withWalk s a n f = withRegion s a n f := by
  refine if_neg fun hall => ?_
  rw [Bool.and_eq_true, decide_eq_true_eq] at hall
  rcases h with h | h
  · exact h hall.1
  · rw [h] at hall
    exact nomatch hall.2

/-- Leaving the rotation for a page walk, to be issued again. -/
theorem retries_walk {s : State} {i : Instr} {obj : Nat} (he : exec i s = .next ((leave s 1 obj .reissue).postWake s.cur.core s.cur.ctx)) : Retries s i 1 obj := by
  obtain ⟨ht, hw, -⟩ := (State.Touches.refl s).leave 1 obj .reissue [.wake s.cur.core s.cur.ctx]
  exact ⟨_, he, ht, hw, State.sameBytes_iff.mpr (by simp)⟩

theorem advance_regs (x : Context) : (advance x).regs = (advance x.regs).regs := by
  cases h : x.chain.rep with
  | none =>
    have h' : x.regs.chain.rep = none := h
    rw [advance_of_no_rep h, advance_of_no_rep h']
    rfl
  | some p =>
    have h' : x.regs.chain.rep = some p := h
    obtain ⟨hlast, hmore⟩ := advance_of_rep h
    obtain ⟨hlast', hmore'⟩ := advance_of_rep h'
    by_cases h1 : x.rcnt = 1
    · rw [hlast h1, hlast' h1]
      rfl
    · rw [hmore h1, hmore' h1]
      rfl

theorem advance_idle (x : Context) : (advance x).wait = 0 ∧ (advance x).pend = .none := by
  unfold advance
  dsimp only
  split
  · split <;> exact ⟨rfl, rfl⟩
  · exact ⟨rfl, rfl⟩

/-- A member that completes with the registers of `x`. -/
theorem passes_retire {s t : State} {i : Instr} {x : Context} (he : exec i s = .next (retire t)) (h : s.Touches t x) (hb : s.SameBytes t) : Passes s i x := by
  refine ⟨t.setMe (advance t.me), he, (h.setMe (advance t.me)).of_regs ?_, ?_, ?_, State.sameBytes_iff.mpr (by simp [hb.bytes_eq])⟩
  · rw [advance_regs, h.meRegs, ← advance_regs]
  · rw [State.me_setMe]
    exact (advance_idle _).1
  · rw [State.me_setMe]
    exact (advance_idle _).2

section
variable {s s' : State} {a b : BitVec 5} {t : Target} {r : Nat} (hw : s.me.wait ≠ 0 ∨ needsWalk s s.cur.core (s.S a) = false)
include hw

theorem execRfloor_eq : exec (.rfloor a b) s = .next (withRegion s a { r := true } (fun s r _ =>
    if bitsOf (s.S b) 63 32 ≠ 0 then trap s 0x01 (s.S b)
    else match floorSlot s.me.floors r with
      | none => trap s 0x01 (BitVec.ofNat 64 r)
      | some i => retire ((s.setMe { s.me with floors := SMap.set 0 s.me.floors i (floorWord r (s.S b).toNat) }).traceMe 6 (roundTrace r (s.S b).toNat)))) :=
  congrArg Host.Outcome.next (withWalk_checks hw { r := true } _)

variable (h : checkMe s (s.S a) { r := true, size := 1 } = (.ok t, s')) (hr : t.region = some r)
include h hr

theorem rfloor_wide (hb : 2 ^ 32 ≤ (s.S b).toNat) : exec (.rfloor a b) s = .next (trap s' 0x01 (s.S b)) := by
  have he := withRegion_inside (execRfloor_eq (b := b) hw) h hr
  dsimp only at he
  rw [(checkMe_keeps h).readS, if_pos (by rw [bitsOf_eq]; have := (s.S b).isLt; omega)] at he
  exact he

variable (hb : (s.S b).toNat < 2 ^ 32)
include hb

theorem rfloor_full (hf : ∀ j < 8, (SMap.get 0 s.me.floors j).getLsbD 63 = true ∧ ¬ FloorNames s.me.floors r j) :
    exec (.rfloor a b) s = .next (trap s' 0x01 (BitVec.ofNat 64 r)) := by
  have he := withRegion_inside (execRfloor_eq (b := b) hw) h hr
  dsimp only at he
  rw [(checkMe_keeps h).readS, if_neg (by rw [bitsOf_eq]; omega), checkMe_floors h, floorSlot_full hf] at he
  exact he

theorem rfloor_sets {i : Nat} (hc : FloorChosen s.me.floors r i) : Passes s (.rfloor a b) (s.me.floored r i (s.S b).toNat) := by
  have hk := checkMe_keeps h
  have he := withRegion_inside (execRfloor_eq (b := b) hw) h hr
  dsimp only at he
  rw [hk.readS, if_neg (by rw [bitsOf_eq]; omega), checkMe_floors h, floorSlot_chosen hc] at he
  dsimp only at he
  have ht := (hk.touches.setMe { s'.me with floors := SMap.set 0 s.me.floors i (floorWord r (s.S b).toNat) }).of_regs
    (y := s.me.floored r i (s.S b).toNat) (congrArg (fun x : Context => ({ x with floors := SMap.set 0 s.me.floors i (floorWord r (s.S b).toNat) } : Context)) hk.touches.me_eq)
  have htrace := State.Keeps.traceMe (s'.setMe { s'.me with floors := SMap.set 0 s.me.floors i (floorWord r (s.S b).toNat) }) 6 (roundTrace r (s.S b).toNat)
  exact passes_retire he ((ht.trans htrace.touches).of_regs ht.meRegs) (State.sameBytes_iff.mpr (by simp [hk.bytes.bytes_eq]))

end

section
variable {s s' : State} {a : BitVec 5} {t : Target} {r : Nat} (hw : s.me.wait ≠ 0 ∨ needsWalk s s.cur.core (s.S a) = false)
include hw

theorem execRfloorClr_eq : exec (.rfloorClr a) s = .next (withRegion s a {} (fun s r _ =>
    match floorIndex s.me.floors r with
    | none => retire s
    | some i => retire (s.setMe { s.me with floors := SMap.set 0 s.me.floors i (SMap.get 0 s.me.floors i &&& 0x7FFFFFFFFFFFFFFF) }))) :=
  congrArg Host.Outcome.next (withWalk_checks hw {} _)

variable (h : checkMe s (s.S a) { size := 1 } = (.ok t, s')) (hr : t.region = some r)
include h hr

theorem rfloorClr_none (hn : ∀ j < 8, ¬ FloorNames s.me.floors r j) : Passes s (.rfloorClr a) s.me := by
  have hk := checkMe_keeps h
  have he := withRegion_inside (execRfloorClr_eq hw) h hr
  dsimp only at he
  rw [checkMe_floors h, floorIndex_none hn] at he
  exact passes_retire he hk.touches hk.bytes

theorem rfloorClr_clears {i : Nat} (hi : i < 8) (hn : FloorNames s.me.floors r i) (hfirst : ∀ j < i, ¬ FloorNames s.me.floors r j) :
    ∃ v : Word, v.toNat = (SMap.get 0 s.me.floors i).toNat - 2 ^ 63 ∧ Passes s (.rfloorClr a) { s.me with floors := SMap.set 0 s.me.floors i v } := by
  have hk := checkMe_keeps h
  have he := withRegion_inside (execRfloorClr_eq hw) h hr
  dsimp only at he
  rw [checkMe_floors h, floorIndex_some hi hn hfirst] at he
  refine ⟨_, and_low63 hn.1, passes_retire he ((hk.touches.setMe _).of_regs ?_) (State.sameBytes_iff.mpr (by simp [hk.bytes.bytes_eq]))⟩
  exact congrArg (fun x : Context => ({ x with floors := SMap.set 0 s.me.floors i (SMap.get 0 s.me.floors i &&& 0x7FFFFFFFFFFFFFFF) } : Context)) hk.touches.me_eq

end

/-! ### RSUB (R178, R291, R292) -/

/-- What entering and leaving views may touch: the caches, the views of cores and clusters, and what is on its way. -/
structure State.Viewed (s t : State) : Prop where
  rest : t = { s with micro := t.micro, agenda := t.agenda, clusterViews := t.clusterViews, cores := t.cores }
  ctxs : ∀ k, (t.core k).ctxs = (s.core k).ctxs

theorem State.Viewed.refl (s : State) : s.Viewed s := ⟨rfl, fun _ => rfl⟩

theorem State.Viewed.trans {s t u : State} (h : s.Viewed t) (h' : t.Viewed u) : s.Viewed u where
  rest := by rw [h'.rest, h.rest]
  ctxs k := (h'.ctxs k).trans (h.ctxs k)

theorem State.Viewed.steady {s t : State} (h : s.Viewed t) : s.Steady t where
  bytes := by rw [h.rest]; exact ⟨rfl, rfl, rfl, rfl⟩
  ctx q := by rw [State.ctxOf, State.ctxOf, Core.ctx, Core.ctx, h.ctxs]

theorem State.Viewed.micro (s : State) (m : Micro) : s.Viewed { s with micro := m } := ⟨rfl, fun _ => rfl⟩

theorem State.Viewed.setCore {s : State} {k : Nat} {c : Core} (h : c.ctxs = (s.core k).ctxs) : s.Viewed (s.setCore k c) where
  rest := rfl
  ctxs j := by
    rw [State.core_setCore]
    split
    · subst j; exact h
    · rfl

/-- A step on copies and cluster views alone. -/
def State.Cached (s t : State) : Prop := s.Viewed t ∧ t.cores = s.cores

theorem State.Cached.refl (s : State) : s.Cached s := ⟨.refl s, rfl⟩

theorem State.Cached.trans {s t u : State} (h : s.Cached t) (h' : t.Cached u) : s.Cached u := ⟨h.1.trans h'.1, h'.2.trans h.2⟩

theorem State.Cached.core {s t : State} (h : s.Cached t) (k : Nat) : t.core k = s.core k := by rw [State.core, h.2]; rfl

theorem evictLine_cached (s : State) (k line : Nat) : s.Cached (evictLine s k line) := by
  unfold evictLine
  split
  · split
    · exact ⟨.micro s _, rfl⟩
    · exact ⟨⟨rfl, fun _ => rfl⟩, rfl⟩
    · exact .refl s
  · exact .refl s

theorem clearL1_cached (s : State) (k : Nat) (gone : Copy → Bool) : s.Cached (clearL1 s k gone) := by
  have hfold (l : SMap Copy) (s : State) : s.Cached (l.foldl (fun s p => evictLine s k p.1) s) := by
    induction l generalizing s with
    | nil => exact .refl s
    | cons p l ih => exact (evictLine_cached s k p.1).trans (ih _)
  exact (hfold _ s).trans ⟨.micro _ _, rfl⟩

theorem endL2View_cached (s : State) (cl r : Nat) : s.Cached (endL2View s cl r) := ⟨⟨rfl, fun _ => rfl⟩, rfl⟩

theorem leaveL2_cached (s : State) (cl r : Nat) : s.Cached (leaveL2 s cl r) := by
  unfold leaveL2
  split
  · dsimp only
    split
    · exact (endL2View_cached s cl r).trans (endL2View_cached _ llcPlace r)
    · exact endL2View_cached s cl r
  · exact .refl s

theorem advanceL2_cached (s : State) (c r : Nat) (v : BitVec 32) : s.Cached (advanceL2 s c r v) := by
  unfold advanceL2
  split
  · exact .refl s
  · split
    · exact .refl s
    · exact ⟨⟨rfl, fun _ => rfl⟩, rfl⟩

/-- The clusters' own views, as a core enters a region. -/
def enterL2 (s : State) (k r : Nat) (v : BitVec 32) : State :=
  let enter (s : State) (cl : Nat) : State := if (s.l2View cl r).isNone then recordL2 s cl r v else advanceL2 s cl r v
  enter (if r ≥ 4096 then enter s llcPlace else s) (clusterOf k)

theorem enterL2_cached (s : State) (k r : Nat) (v : BitVec 32) : s.Cached (enterL2 s k r v) := by
  have henter (s : State) (cl : Nat) : s.Cached (if (s.l2View cl r).isNone then recordL2 s cl r v else advanceL2 s cl r v) := by
    split
    · exact ⟨⟨rfl, fun _ => rfl⟩, rfl⟩
    · exact advanceL2_cached s cl r v
  unfold enterL2
  dsimp only
  refine State.Cached.trans ?_ (henter _ _)
  split
  · exact henter s llcPlace
  · exact .refl s

/-- The views that are left of `l` when there is room for one more. -/
def viewsWithRoom (l : List RoundView) : List RoundView :=
  match l with
  | e :: _ => if l.length ≥ 64 then l.filter (fun o => decide (o.region ≠ e.region)) else l
  | [] => l

/-- Where the table of a core is full, its first entry leaves. -/
def leaveOldest (s : State) (k : Nat) : State :=
  match (s.core k).views with
  | e :: _ => if (s.core k).views.length ≥ 64 then leaveView s k e.region else s
  | [] => s

/-- A view of region `n` is entered behind those that core `k` has. -/
def addView (s : State) (k n : Nat) (v : BitVec 32) : State :=
  s.setCore k { s.core k with views := (s.core k).views ++ [⟨n, v⟩] }

theorem enterView_eq (s : State) (k n : Nat) (v : BitVec 32) : enterView s k n v =
    if ((((enterL2 s k n v)).core k).viewOf n).isSome then advanceL1 (enterL2 s k n v) k n v
    else addView (clearL1 (leaveOldest (enterL2 s k n v) k) k (staleCopy n v)) k n v := rfl

/-- Core `k` forgets its view of region `n`. -/
def dropView (s : State) (k n : Nat) : State :=
  s.setCore k { s.core k with views := (s.core k).views.filter (fun o => decide (o.region ≠ n)) }

theorem dropView_spec (s : State) (k n : Nat) :
    s.Viewed (dropView s k n) ∧ ((dropView s k n).core k).views = (s.core k).views.filter (fun o => decide (o.region ≠ n)) := by
  unfold dropView
  exact ⟨State.Viewed.setCore rfl, by rw [State.core_setCore_same]⟩

theorem leaveView_eq (s : State) (k n : Nat) : leaveView s k n = leaveL2 (clearL1 (dropView s k n) k (fun o => decide (o.region = some n))) (clusterOf k) n := rfl

theorem leaveView_spec (s : State) (k n : Nat) :
    s.Viewed (leaveView s k n) ∧ ((leaveView s k n).core k).views = (s.core k).views.filter (fun o => decide (o.region ≠ n)) := by
  have hrest (u : State) (mine : Copy → Bool) : u.Cached (leaveL2 (clearL1 u k mine) (clusterOf k) n) := (clearL1_cached u k mine).trans (leaveL2_cached _ (clusterOf k) n)
  obtain ⟨hdrop, hviews⟩ := dropView_spec s k n
  rw [leaveView_eq, (hrest _ _).core]
  exact ⟨hdrop.trans (hrest _ _).1, hviews⟩

theorem leaveOldest_spec (s : State) (k : Nat) : s.Viewed (leaveOldest s k) ∧ ((leaveOldest s k).core k).views = viewsWithRoom (s.core k).views := by
  unfold leaveOldest viewsWithRoom
  cases hv : (s.core k).views with
  | nil => exact ⟨.refl s, hv⟩
  | cons e l =>
    dsimp only
    by_cases hfull : (e :: l).length ≥ 64
    · rw [if_pos hfull, if_pos hfull, ← hv]
      exact leaveView_spec s k e.region
    · rw [if_neg hfull, if_neg hfull]
      exact ⟨.refl s, hv⟩

theorem enterView_new {s : State} {k n : Nat} (v : BitVec 32) (h : (s.core k).viewOf n = none) :
    s.Viewed (enterView s k n v) ∧ ((enterView s k n v).core k).views = viewsWithRoom (s.core k).views ++ [⟨n, v⟩] := by
  have h2 := enterL2_cached s k n v
  obtain ⟨hleft, hviews⟩ := leaveOldest_spec (enterL2 s k n v) k
  have h1 := clearL1_cached (leaveOldest (enterL2 s k n v) k) k (staleCopy n v)
  rw [enterView_eq, if_neg (by rw [h2.core, h]; decide), addView]
  refine ⟨((h2.1.trans hleft).trans h1.1).trans (State.Viewed.setCore rfl), ?_⟩
  rw [State.core_setCore_same]
  dsimp only
  rw [h1.core, hviews, h2.core]

theorem advanceL1_viewed (s : State) (k r : Nat) (v : BitVec 32) : s.Viewed (advanceL1 s k r v) := by
  unfold advanceL1
  split
  · exact .refl s
  · split
    · exact .refl s
    · exact (clearL1_cached s k _).1.trans (State.Viewed.setCore rfl)

theorem enterView_held {s : State} {k n : Nat} (v : BitVec 32) {old : BitVec 32} (h : (s.core k).viewOf n = some old) :
    s.Viewed (enterView s k n v) ∧ ((enterView s k n v).core k).viewOf n = some (newer old v) := by
  have h2 := enterL2_cached s k n v
  have hview : ((enterL2 s k n v).core k).viewOf n = some old := by rw [h2.core, h]
  rw [enterView_eq, if_pos (by rw [hview]; rfl)]
  exact ⟨h2.1.trans (advanceL1_viewed _ k n v), (advanceL1_spec _ k n v).2.2 old hview⟩

theorem enterView_viewed (s : State) (k n : Nat) (v : BitVec 32) : s.Viewed (enterView s k n v) := by
  cases h : (s.core k).viewOf n with
  | none => exact (enterView_new v h).1
  | some old => exact (enterView_held v h).1

theorem viewsWithRoom_sublist (l : List RoundView) : (viewsWithRoom l).Sublist l := by
  unfold viewsWithRoom
  split
  · split
    · exact List.filter_sublist
    · exact List.Sublist.refl _
  · exact List.Sublist.refl _

/-- A region that `l` does not hold, entered behind its entries, is held with its round. -/
theorem Core.viewOf_entered {c : Core} {l : List RoundView} {n : Nat} {v : BitVec 32} (h : c.viewOf n = none) (hl : l.Sublist c.views) (c' : Core) (hc : c'.views = l ++ [⟨n, v⟩]) :
    c'.viewOf n = some v := by
  have hnone : l.find? (fun e => decide (e.region = n)) = none := by
    rw [Core.viewOf, Option.map_eq_none_iff, List.find?_eq_none] at h
    exact List.find?_eq_none.mpr fun e he => h e (hl.subset he)
  rw [Core.viewOf, hc, List.find?_append, hnone]
  simp

theorem mem_viewsWithRoom {l vs : List RoundView} {v e : RoundView} (hl : l = v :: vs) (hfull : 64 ≤ l.length) (he : e ∈ viewsWithRoom l) : e.region ∈ vs.map (·.region) := by
  subst hl
  rw [viewsWithRoom, if_pos hfull, List.mem_filter, List.mem_cons, decide_eq_true_eq] at he
  obtain ⟨hv | hvs, hne⟩ := he
  · exact absurd (by rw [hv]) hne
  · exact List.mem_map_of_mem hvs

theorem setBit64_bit (x : BitVec 64) {i c : Nat} (hi : i < 64) (hc : c < 64) : (setBit64 x i).getLsbD c = (x.getLsbD c || decide (c = i)) := by
  rw [setBit64, Nat.mod_eq_of_lt hi, BitVec.getLsbD_or, BitVec.getLsbD_ofNat, Nat.testBit_two_pow]
  simp [hc, eq_comm]

theorem check_cores (s : State) (w : Who) (va : Nat) (n : Need) : (check s w va n).2.cores = s.cores := by
  unfold check watchedWalk
  exact State.Rounded.cores (s := { s with micro := (checkXlat s w (resolveAlias w.core va) n).micro, agenda := s.agenda ++ (checkXlat s w (resolveAlias w.core va) n).notes })
    (State.Rounded.foldl (fun s l => watchReport_rounded s (w := { w with thread := none }) rfl (.main (64 * l)) true false) _ _)

theorem checkMe_cores {s s' : State} {ea : Word} {n : Need} {e : Except Nat Target} (h : checkMe s ea n = (e, s')) (k : Nat) : s'.core k = s.core k := by
  have hc := check_cores s s.myWho ea.toNat n
  rw [checkMe] at h
  rw [h] at hc
  rw [State.core, hc]
  rfl

/-- The region's record with the cluster of core `k` among its subscribers. -/
def State.subscribed (s : State) (n k : Nat) (g : RegionRec) : State :=
  { s with regions := SMap.put s.regions n { g with subscribers := setBit64 g.subscribers (clusterOf k) } }

section
variable {s s' : State} {d a : BitVec 5} {t : Target} {r : Nat} {g : RegionRec}
  (h : checkMe s (s.S a) { r := true, size := 1 } = (.ok t, s')) (hr : t.region = some r) (hg : s.regionOn (regionNo t r) = some g)
include h hr hg

theorem rsub_moves (hm : s.micro.lineMoving (g.base / 64) = true) : Retries s (.rsub d a) 1 (s.S a).toNat := by
  have hk := checkMe_keeps h
  have he : exec (.rsub d a) s = execRsub d a s := rfl
  rw [execRsub] at he
  have he := withRegion_inside he h hr
  dsimp only at he
  obtain ⟨u, hu, hku⟩ := recordGate_moves ((recordMoves_check h _).mpr ⟨g, hg, hm⟩) (.wake s'.cur.core s'.cur.ctx)
  rw [hu] at he
  dsimp only at he
  rw [(hk.then hku).readS] at he
  exact retries_with he (hk.then hku)

theorem rsub_enters (hm : s.micro.lineMoving (g.base / 64) = false) : ∃ w u g', (∀ k, w.core k = s.core k) ∧
    exec (.rsub d a) s = .next u ∧ s.SameBytes u ∧ s.Waits u 1 (s.S a).toNat .reply ∧
    (∀ j, (u.ctxOf j).regs = if j = s.cur then (s.me.writeS d (g.counter.setWidth 64)).regs else (s.ctxOf j).regs) ∧
    u.regionOn (regionNo t r) = some g' ∧ g'.base = g.base ∧ g'.height = g.height ∧ g'.counter = g.counter ∧
    g'.subscribers = setBit64 g.subscribers (clusterOf s.cur.core) ∧
    ∀ k, (u.core k).views = ((enterView w s.cur.core (regionNo t r) g.counter).core k).views := by
  have hk := checkMe_keeps h
  have he : exec (.rsub d a) s = execRsub d a s := rfl
  rw [execRsub] at he
  have he := withRegion_inside he h hr
  have hcur : s'.cur = s.cur := hk.touches.cur
  have hmoves : ¬ s'.RecordMoves (regionNo t r) := fun hm' => by
    obtain ⟨g₀, hg₀, hm₀⟩ := (recordMoves_check h _).mp hm'
    rw [hg] at hg₀
    cases hg₀
    rw [hm] at hm₀
    cases hm₀
  have hon : s'.regionOn (regionNo t r) = some g := (State.regionOn_congr (by rw [hk.touches.rest]) _).trans hg
  dsimp only at he
  rw [recordGate_rests hmoves, hcur] at he
  dsimp only at he
  rw [hon] at he
  dsimp only at he
  obtain ⟨y, hy⟩ : ∃ y, y = s'.subscribed (regionNo t r) s.cur.core g := ⟨_, rfl⟩
  have hys : s'.Steady y ∧ y.cur = s'.cur ∧ (∀ k, y.core k = s'.core k) ∧
      y.regionOn (regionNo t r) = some { g with subscribers := setBit64 g.subscribers (clusterOf s.cur.core) } := by
    rw [hy]
    exact ⟨⟨⟨rfl, rfl, rfl, rfl⟩, fun _ => rfl⟩, rfl, fun _ => rfl, State.regionOn_put ..⟩
  obtain ⟨hysteady, hycur, hycore, hyon⟩ := hys
  obtain ⟨hsteady, hcur', hcore, hread⟩ := readCounter_spec y (regionNo t r)
  obtain ⟨ev, g', hon', hcounter, hbase, hheight, hsubs⟩ := hread _ hyon
  obtain ⟨⟨v, w⟩, hvw⟩ : ∃ p, p = readCounter y (regionNo t r) := ⟨_, rfl⟩
  rw [← hvw] at hsteady hcur' hcore ev hon'
  dsimp only at hsteady hcur' hcore ev hon'
  rw [show ({ s' with regions := SMap.put s'.regions (regionNo t r) { g with subscribers := setBit64 g.subscribers (clusterOf s.cur.core) } } : State) = y from hy.symm, ← hvw] at he
  dsimp only at he
  have hv := enterView_viewed w s.cur.core (regionNo t r) v
  have hserve := ((hk.serves.steady hysteady hycur).steady hsteady hcur').steady hv.steady (by rw [hv.rest])
  have hwS : w.S a = s.S a := by
    have hw := congrArg (fun x : Context => x.readS a) ((hk.serves.steady hysteady hycur).steady hsteady hcur').me
    exact hw
  rw [hwS] at he
  obtain ⟨x, ex, hb, hwt, hrep, hregs, hregions, hviews⟩ := awaits_as he hserve
  subst ev
  refine ⟨w, x, g', fun k => ?_, ex, hb, hwt, hregs, (State.regionOn_congr (hregions.trans ?_) _).trans hon', hbase, hheight, hcounter, hsubs, hviews⟩
  · rw [hcore, hycore, checkMe_cores h]
  · rw [hv.rest]

end

theorem Context.floored_as (x : Context) (r i v : Nat) :
    x.floored r i v = { x with floors := SMap.set 0 x.floors i (BitVec.ofNat 64 (2 ^ 63 + r % 2 ^ 12 * 2 ^ 32 + v % 2 ^ 32)) } := by
  rw [Context.floored, floorWord_eq]

/-- Settles O19. -/
theorem roundMembersAct : Obligations.RoundMembersAct := by
  refine ⟨fun s d a b => ⟨⟨fun c s' h => withRegion_error rfl h, fun t s' h hr => withRegion_outside rfl h hr, fun t s' r h hr => rpub_sends h hr⟩,
    ⟨fun c s' h => withRegion_error rfl h, fun t s' h hr => withRegion_outside rfl h hr, fun t s' r h hr =>
      ⟨racq_full h hr, fun i hc hm => racq_moves h hr hc hm, fun i hc hm => ?_⟩⟩, fun hw => ?_, fun hw => ?_, fun hw => ?_⟩, fun s d a t s' r g h hr hg hk => ⟨rsub_moves h hr hg, fun hm => ?_⟩⟩
  · simp only [← Context.floored_as]
    exact racq_reads h hr hc hm
  · exact ⟨retries_walk (congrArg Host.Outcome.next (withWalk_walks hw _ _)), retries_walk (congrArg Host.Outcome.next (withWalk_walks hw _ _))⟩
  · refine ⟨fun c s' h => withRegion_error (execRfloor_eq hw) h, fun t s' h hr => withRegion_outside (execRfloor_eq hw) h hr, fun t s' r h hr =>
      ⟨rfloor_wide hw h hr, rfloor_full hw h hr, fun hb i hc => ?_⟩⟩
    simp only [← Context.floored_as]
    exact rfloor_sets hw h hr hb hc
  · exact ⟨fun c s' h => withRegion_error (execRfloorClr_eq hw) h, fun t s' h hr => withRegion_outside (execRfloorClr_eq hw) h hr, fun t s' r h hr =>
      ⟨rfloorClr_none hw h hr, fun i hi hn hfirst => rfloorClr_clears hw h hr hi hn hfirst⟩⟩
  · obtain ⟨w, u, g', hcore, he, hb, hwt, hregs, hon, hbase, hheight, hcounter, hsubs, hviews⟩ := rsub_enters h hr hg hm
    have hview (o : Option (BitVec 32)) (hw : ((enterView w s.cur.core (regionNo t r) g.counter).core s.cur.core).viewOf (regionNo t r) = o) :
        (u.core s.cur.core).viewOf (regionNo t r) = o := by
      rw [← hw, Core.viewOf, Core.viewOf, hviews]
    refine ⟨u, g', he, hb, hwt, hregs, hon, hbase, hheight, hcounter, fun c hc => ?_, fun hnone => hview _ ?_, fun old hold => hview _ ?_, fun hnone hfull v vs hvs e hmem => ?_⟩
    · have hcl : clusterOf s.cur.core = s.cur.core / 4 := by rw [clusterOf]; omega
      rw [hsubs, hcl, setBit64_bit _ (by omega) hc]
    · rw [← hcore] at hnone
      exact Core.viewOf_entered hnone (viewsWithRoom_sublist _) _ (enterView_new g.counter hnone).2
    · rw [← hcore] at hold
      exact (enterView_held g.counter hold).2
    · rw [← hcore] at hnone hfull hvs
      rw [hviews, (enterView_new g.counter hnone).2, List.mem_append, List.mem_singleton] at hmem
      rcases hmem with hmem | rfl
      · exact Or.inr (mem_viewsWithRoom hvs hfull hmem)
      · exact Or.inl rfl

end Sys2Proof.Machine
end

section
/-! O36 (R231, R243, R254 to R257): CRR and CRW on the control registers. -/

namespace Sys2Proof.Machine

/-! ### Words packed of fields of one width -/

/-- Fields of `w` bits side by side: the lowest `n` of `f`. -/
def packed (w n : Nat) (f : Nat → Nat) : Nat := (List.range n).foldl (fun v i => v + f i * 2 ^ (w * i)) 0

theorem packed_succ (w n : Nat) (f : Nat → Nat) : packed w (n + 1) f = packed w n f + f n * 2 ^ (w * n) := by
  rw [packed, List.range_succ, List.foldl_append]
  rfl

theorem packed_lt {w : Nat} (n : Nat) {f : Nat → Nat} (hf : ∀ i, f i < 2 ^ w) : packed w n f < 2 ^ (w * n) := by
  induction n with
  | zero => exact Nat.two_pow_pos _
  | succ n ih =>
    rw [packed_succ]
    calc packed w n f + f n * 2 ^ (w * n) < (f n + 1) * 2 ^ (w * n) := by rw [Nat.succ_mul]; omega
      _ ≤ 2 ^ w * 2 ^ (w * n) := Nat.mul_le_mul_right _ (hf n)
      _ = 2 ^ (w * (n + 1)) := by rw [← Nat.pow_add]; congr 1; ring

theorem packed_field {w n i : Nat} {f : Nat → Nat} (hf : ∀ i, f i < 2 ^ w) (hi : i < n) : packed w n f / 2 ^ (w * i) % 2 ^ w = f i := by
  induction n with
  | zero => cases hi
  | succ n ih =>
    rw [packed_succ]
    rcases Nat.lt_succ_iff_lt_or_eq.mp hi with h | h
    · have hsplit : f n * 2 ^ (w * n) = 2 ^ (w * i) * (2 ^ w * (f n * 2 ^ (w * (n - i - 1)))) := by
        obtain ⟨m, rfl⟩ := Nat.exists_eq_add_of_lt h
        rw [show i + m + 1 - i - 1 = m by omega]
        ring
      rw [hsplit, Nat.add_mul_div_left _ _ (Nat.two_pow_pos _), Nat.add_mul_mod_self_left]
      exact ih h
    · subst h
      rw [Nat.add_mul_div_right _ _ (Nat.two_pow_pos _), Nat.div_eq_of_lt (packed_lt i hf), Nat.zero_add]
      exact Nat.mod_eq_of_lt (hf i)

/-- A word that holds the packed fields. -/
theorem packed_word {w n i : Nat} {f : Nat → Nat} (hf : ∀ i, f i < 2 ^ w) (hw : w * n ≤ 64) (hi : i < n) :
    (BitVec.ofNat 64 (packed w n f)).toNat / 2 ^ (w * i) % 2 ^ w = f i := by
  rw [BitVec.toNat_ofNat, Nat.mod_eq_of_lt (lt_of_lt_of_le (packed_lt n hf) (Nat.pow_le_pow_right (by decide) hw))]
  exact packed_field hf hi

/-! ### Levels -/

theorem crLevel_code (n : Nat) (h : n < 0x400) : (crLevel n).code = if n < 0x100 then 0 else if n / 0x100 = 2 then 2 else 1 := by
  unfold crLevel
  by_cases h1 : n < 0x100
  · rw [if_pos h1, if_pos h1]
    rfl
  · rw [if_neg h1, if_neg h1]
    by_cases h2 : n / 0x100 = 2
    · rw [if_pos h2, if_pos (by omega)]
      rfl
    · rw [if_neg h2, if_neg (by omega)]
      rfl

theorem level_code (l : Level) : (match l with | Machine.Level.u => 0 | Machine.Level.s => 1 | Machine.Level.m => 2 : Nat) = l.code := by
  cases l <;> rfl

section
variable {s : State} {d a : BitVec 5} {c : BitVec 10}

theorem cr_unassigned (h : crAssigned c.toNat = false) : Traps s (.crr d c) 0x02 s.irWord ∧ Traps s (.crw d a c) 0x02 s.irWord :=
  ⟨congrArg Host.Outcome.next (if_pos (by rw [h]; rfl)), congrArg Host.Outcome.next (if_pos (by rw [h]; rfl))⟩

theorem cr_reserved (h : crAssigned c.toNat = true) (hl : s.me.level.code < (crLevel c.toNat).code) : Traps s (.crr d c) 0x04 s.irWord ∧ Traps s (.crw d a c) 0x04 s.irWord :=
  ⟨congrArg Host.Outcome.next ((if_neg (by rw [h]; decide)).trans (if_pos hl)), congrArg Host.Outcome.next ((if_neg (by rw [h]; decide)).trans (if_pos hl))⟩

variable (h : crAssigned c.toNat = true) (hl : ¬ s.me.level.code < (crLevel c.toNat).code)
include h hl

theorem crr_reads : Writes s (.crr d c) d (readCr s s.cur c.toNat) :=
  writeRetire_writes (congrArg Host.Outcome.next ((if_neg (by rw [h]; decide)).trans (if_neg hl)))

theorem crw_writes : exec (.crw d a c) s = .next (writeRetire (writeCr s c.toNat (s.S a)) d (readCr s s.cur c.toNat)) :=
  congrArg Host.Outcome.next ((if_neg (by rw [h]; decide)).trans (if_neg hl))

theorem crw_completes : ∃ u, exec (.crw d a c) s = .next (boundary u) := by
  obtain ⟨u, -, hr⟩ := writeRetire_only (writeCr s c.toNat (s.S a)) d (readCr s s.cur c.toNat)
  exact ⟨u, (crw_writes h hl).trans (congrArg Host.Outcome.next hr)⟩

/-- A write to a register of the thread. -/
theorem crw_thread {y : Context} {old : Word} (he : writeCr s c.toNat (s.S a) = s.setMe y) (ho : readCr s s.cur c.toNat = old) :
    Completes s (.crw d a c) (y.writeS d old) := by
  have hw := crw_writes (d := d) (a := a) h hl
  obtain ⟨u, hu, hr⟩ := writeRetire_only (s.setMe y) d old
  rw [State.me_setMe] at hu
  rw [he, ho] at hw
  exact ⟨u, (State.Only.setMe s y).trans hu, hw.trans (congrArg Host.Outcome.next hr)⟩

/-- A write to a register of the core or the package. -/
theorem crw_core {t : State} (he : writeCr s c.toNat (s.S a) = t) (hst : s.Steady t) (hc : t.cur = s.cur) :
    ∃ u, exec (.crw d a c) s = .next (boundary u) ∧ s.SameBytes u ∧ { u.core s.cur.core with ctxs := [] } = { t.core s.cur.core with ctxs := [] } ∧
      ∀ q, u.ctxOf q = if q = s.cur then advance (s.me.writeS d (readCr s s.cur c.toNat)) else s.ctxOf q := by
  have hw := crw_writes (d := d) (a := a) h hl
  obtain ⟨u, hu, hr⟩ := writeRetire_only t d (readCr s s.cur c.toNat)
  have hme : t.me = s.me := by rw [State.me, State.me, hc, hst.ctx]
  rw [he] at hw
  refine ⟨u, hw.trans (congrArg Host.Outcome.next hr), hst.bytes.trans ?_, hu.core _, fun q => ?_⟩
  · rw [hu.rest]
    exact ⟨rfl, rfl, rfl, rfl⟩
  · rw [hu.ctx, hc, hme, hst.ctx]

end

theorem sum_packed (w n : Nat) (f : Nat → Nat) : (List.range n).foldl (fun v i => v + f i * 2 ^ (w * i)) 0 = packed w n f := rfl

/-- The field of `cr.slotmap0` or `cr.slotmap1` for a slot. -/
def slotField (c : Core) (i : Nat) : Nat := match c.boundTo i with | some k => 32 + k | none => 0

theorem boundTo_lt {c : Core} {i k : Nat} (h : c.boundTo i = some k) : k < 24 := by
  rw [Core.boundTo, Option.map_eq_some_iff] at h
  obtain ⟨p, hp, rfl⟩ := h
  have hp := List.find?_some hp
  simp only [Bool.and_eq_true, decide_eq_true_eq] at hp
  exact hp.2

theorem slotField_lt (c : Core) (i : Nat) : slotField c i < 2 ^ 6 := by
  unfold slotField
  cases h : c.boundTo i with
  | none => decide
  | some k =>
    have := boundTo_lt h
    dsimp only
    omega

theorem slotMap_packed (c : Core) (base : Nat) : slotMap c base = BitVec.ofNat 64 (packed 6 8 (fun i => slotField c (base + i))) := by
  rw [slotMap, packed]
  congr 2
  funext v i
  unfold slotField
  cases c.boundTo (base + i) <;> simp

theorem ctxCode_lt (x : CtxState) : x.code < 2 ^ 2 := by cases x <;> decide

theorem ctxCode_match (x : CtxState) : (match x with | .free => 0 | .bound => 1 | .parked => 2 : Nat) = x.code := by cases x <;> rfl

theorem ctxMap_packed (c : Core) : ctxMap c = BitVec.ofNat 64 (packed 2 24 (fun i => (c.ctx i).st.code)) := rfl

theorem status_read (s : State) : readCr s s.cur 0x000 = BitVec.ofNat 64 (s.me.level.code + s.me.prior.toNat * 4 + (if s.me.step then 2 ^ 8 else 0) +
    (s.core s.cur.core).partOf s.me.slot * 2 ^ 12) := by
  show statusWord (s.core s.cur.core) s.me = _
  simp only [statusWord, Nat.reducePow]

theorem floor_read (s : State) {i : Nat} (hi : i < 8) : readCr s s.cur (0x010 + i) = SMap.get 0 s.me.floors i := by
  rw [readCr, if_pos (by omega), readThreadCr]
  repeat rw [if_neg (by omega)]
  rw [Nat.add_sub_cancel_left]
  rfl

theorem floor_write (s : State) {i : Nat} (v : Word) : i < 8 →
    writeCr s (0x010 + i) v = s.setMe { s.me with floors := SMap.set 0 s.me.floors i (v &&& 0x80000FFFFFFFFFFF) } := by
  intro hi
  rw [writeCr, if_pos (by omega), writeThreadCr]
  repeat rw [if_neg (by omega)]
  rw [Nat.add_sub_cancel_left, floorMask]

theorem fixed_write (s : State) {n : Nat} (h6 : 0x006 ≤ n) (hc : n ≤ 0x00C) (v : Word) : writeCr s n v = s.setMe s.me := by
  rw [writeCr, if_pos (by omega), writeThreadCr]
  repeat rw [if_neg (by omega)]
  rw [if_pos (by omega)]

theorem queue_read (s : State) {n : Nat} (h0 : 0x100 ≤ n) (h3 : n ≤ 0x103) : readCr s s.cur n = headWord (s.core s.cur.core) (n - 0x100) := by
  rw [readCr, if_neg (by omega), readCoreCr, if_pos (by omega)]

section
variable (s : State) (v : Word)

theorem pwin_read {j : Nat} (hj : j < 32) : readCr s s.cur (0x210 + j) = SMap.get 0 (s.core s.cur.core).pwin j := by
  rw [readCr, if_neg (by omega), readCoreCr]
  repeat rw [if_neg (by omega)]
  rw [if_pos (by omega), Nat.add_sub_cancel_left]

theorem pwin_write {j : Nat} (hj : j < 32) : writeCr s (0x210 + j) v = s.setCore s.cur.core { s.core s.cur.core with
    pwin := SMap.set 0 (s.core s.cur.core).pwin j (v &&& (if j % 2 = 0 then 0x3FFFFFFFFFFFFFFF else 0xFFFFF)) } := by
  have hmod : (0x210 + j) % 2 = j % 2 := by omega
  rw [writeCr, if_neg (by omega), writeCoreCr]
  repeat rw [if_neg (by omega)]
  rw [if_pos (by omega), Nat.add_sub_cancel_left, hmod]

theorem pcmp_read {i : Nat} (hi : i < 4) : readCr s s.cur (0x300 + i) = SMap.get 0 (s.core s.cur.core).pcmp i := by
  rw [readCr, if_neg (by omega), readCoreCr]
  repeat rw [if_neg (by omega)]
  rw [if_pos (by omega), Nat.add_sub_cancel_left]

theorem pcmp_write {i : Nat} (hi : i < 4) : writeCr s (0x300 + i) v = s.setCore s.cur.core { s.core s.cur.core with
    pcmp := SMap.set 0 (s.core s.cur.core).pcmp i v } := by
  rw [writeCr, if_neg (by omega), writeCoreCr]
  repeat rw [if_neg (by omega)]
  rw [if_pos (by omega), Nat.add_sub_cancel_left]

theorem slotcnt_read {i : Nat} (hi : i < 64) : readCr s s.cur (0x340 + i) = SMap.get 0 (s.core s.cur.core).slotcnt i := by
  rw [readCr, if_neg (by omega), readCoreCr]
  repeat rw [if_neg (by omega)]
  rw [if_pos (by omega), Nat.add_sub_cancel_left]

theorem slotcnt_write {i : Nat} (hi : i < 64) : writeCr s (0x340 + i) v = s.setCore s.cur.core { s.core s.cur.core with
    slotcnt := SMap.set 0 (s.core s.cur.core).slotcnt i (SMap.get 0 (s.core s.cur.core).slotcnt i &&& ~~~v) } := by
  rw [writeCr, if_neg (by omega), writeCoreCr]
  repeat rw [if_neg (by omega)]
  rw [if_pos (by omega), Nat.add_sub_cancel_left]

theorem readyhist_read {i : Nat} (hi : i < 17) : readCr s s.cur (0x380 + i) = SMap.get 0 (s.core s.cur.core).readyhist i := by
  rw [readCr, if_neg (by omega), readCoreCr]
  repeat rw [if_neg (by omega)]
  rw [Nat.add_sub_cancel_left]

theorem readyhist_write {i : Nat} (hi : i < 17) : writeCr s (0x380 + i) v = s.setCore s.cur.core { s.core s.cur.core with
    readyhist := SMap.set 0 (s.core s.cur.core).readyhist i (SMap.get 0 (s.core s.cur.core).readyhist i &&& ~~~v) } := by
  rw [writeCr, if_neg (by omega), writeCoreCr]
  repeat rw [if_neg (by omega)]
  rw [Nat.add_sub_cancel_left]

end

/-- A register of the core that keeps its field `f` apart from the contexts: what CRW does to it. -/
def CrSets (s : State) (d a : BitVec 5) (c : BitVec 10) (old : Word) (f : Core → Word) (w : Word) : Prop :=
  old = f (s.core s.cur.core) ∧ ∃ u, exec (.crw d a c) s = .next (boundary u) ∧ s.SameBytes u ∧ f (u.core s.cur.core) = w ∧
    ∀ q, u.ctxOf q = if q = s.cur then advance (s.me.writeS d old) else s.ctxOf q

section
variable {s : State} {d a : BitVec 5} {c : BitVec 10} {f : Core → Word} {w : Word}
  (h : crAssigned c.toNat = true) (hl : ¬ s.me.level.code < (crLevel c.toNat).code) (hf : ∀ y : Core, f y = f { y with ctxs := [] })
include h hl hf

theorem crSets_of {t : State} (he : writeCr s c.toNat (s.S a) = t) (ho : readCr s s.cur c.toNat = f (s.core s.cur.core)) (hst : s.Steady t) (hc : t.cur = s.cur)
    (hw : f (t.core s.cur.core) = w) : CrSets s d a c (readCr s s.cur c.toNat) f w := by
  obtain ⟨u, hu, hb, hcore, hctx⟩ := crw_core (d := d) h hl he hst hc
  exact ⟨ho, u, hu, hb, by rw [hf, hcore, ← hf, hw], hctx⟩

theorem crSets_setCore (y : Core) (he : writeCr s c.toNat (s.S a) = s.setCore s.cur.core y) (ho : readCr s s.cur c.toNat = f (s.core s.cur.core))
    (hy : y.ctxs = (s.core s.cur.core).ctxs) (hw : f y = w) : CrSets s d a c (readCr s s.cur c.toNat) f w :=
  crSets_of h hl hf he ho (State.Steady.setCore hy) rfl (by rw [State.core_setCore_same, hw])

end

section
variable {s : State} {d a : BitVec 5} {c : BitVec 10}
  (h : crAssigned c.toNat = true) (hl : ¬ s.me.level.code < (crLevel c.toNat).code)
include h hl

/-- The registers of a thread (R254). -/
theorem crw_threadRegisters :
    (c.toNat = 0x000 → Completes s (.crw d a c) ({ s.me with step := if s.me.level = Machine.Level.u then s.me.step else (s.S a).getLsbD 8 }.writeS d (readCr s s.cur c.toNat))) ∧
    (c.toNat = 0x001 → Completes s (.crw d a c) ({ s.me with fflags := (s.S a).setWidth 5 }.writeS d (readCr s s.cur c.toNat))) ∧
    (c.toNat = 0x002 → Completes s (.crw d a c) ({ s.me with rcnt := s.S a }.writeS d (readCr s s.cur c.toNat))) ∧
    (c.toNat = 0x003 → Completes s (.crw d a c) ({ s.me with win := s.S a, wins := [s.me.wins.headD []] }.writeS d (readCr s s.cur c.toNat))) ∧
    (c.toNat = 0x004 → Completes s (.crw d a c) ({ s.me with wsp := s.S a }.writeS d (readCr s s.cur c.toNat))) ∧
    (c.toNat = 0x005 → Completes s (.crw d a c) ({ s.me with lease := (s.S a).setWidth 16 }.writeS d (readCr s s.cur c.toNat))) := by
  refine ⟨fun hn => ?_, fun hn => ?_, fun hn => ?_, fun hn => ?_, fun hn => ?_, fun hn => ?_⟩
  all_goals refine crw_thread h hl ?_ rfl
  all_goals rw [hn]
  · show s.setMe (if s.me.level = Machine.Level.u then s.me else { s.me with step := (s.S a).getLsbD 8 }) = _
    split <;> rfl
  · show s.setMe { s.me with fflags := BitVec.ofNat 5 (s.S a).toNat } = _
    rw [BitVec.ofNat_toNat]
  · rfl
  · rfl
  · rfl
  · show s.setMe { s.me with lease := BitVec.ofNat 16 (s.S a).toNat } = _
    rw [BitVec.ofNat_toNat]

/-- The registers of a core (R255 to R257). -/
theorem crw_coreRegisters :
    (c.toNat = 0x10C → CrSets s d a c (readCr s s.cur c.toNat) (·.slotpartReg) (s.S a)) ∧
    (c.toNat = 0x10D → CrSets s d a c (readCr s s.cur c.toNat) (·.bankpart0) (s.S a)) ∧
    (c.toNat = 0x10E → CrSets s d a c (readCr s s.cur c.toNat) (·.bankpart1) (s.S a)) ∧
    (c.toNat = 0x110 → CrSets s d a c (readCr s s.cur c.toNat) (·.troot) (s.S a &&& 0x000FFFFFFFFFF801)) ∧
    (c.toNat = 0x112 → s.cur.core ≠ 0 → CrSets s d a c (readCr s s.cur c.toNat) (·.qtable) (s.S a &&& 0x000FFFFFFFFC0000)) ∧
    (c.toNat = 0x200 → CrSets s d a c (readCr s s.cur c.toNat) (·.mentry) (s.S a)) ∧
    (c.toNat = 0x201 → CrSets s d a c (readCr s s.cur c.toNat) (·.mresume) (s.S a)) ∧
    (c.toNat = 0x202 → CrSets s d a c (readCr s s.cur c.toNat) (·.mreason) (s.S a &&& 0x1FF)) ∧
    (c.toNat = 0x203 → CrSets s d a c (readCr s s.cur c.toNat) (·.mdetail) (s.S a)) := by
  refine ⟨fun hn => ?_, fun hn => ?_, fun hn => ?_, fun hn => ?_, fun hn hk => ?_, fun hn => ?_, fun hn => ?_, fun hn => ?_, fun hn => ?_⟩
  case refine_4 =>
    obtain ⟨hst, ht, -, -⟩ := writeTroot_spec s s.cur.core (s.S a)
    exact crSets_of h hl (fun _ => rfl) (by rw [hn]; rfl) (by rw [hn]; rfl) hst rfl ht
  case refine_5 =>
    refine crSets_setCore h hl (fun _ => rfl) { s.core s.cur.core with qtable := s.S a &&& 0x000FFFFFFFFC0000 } ?_ (by rw [hn]; rfl) rfl rfl
    rw [hn]
    exact if_neg hk
  · exact crSets_setCore h hl (fun _ => rfl) { s.core s.cur.core with slotpartReg := s.S a } (by rw [hn]; rfl) (by rw [hn]; rfl) rfl rfl
  · exact crSets_setCore h hl (fun _ => rfl) { s.core s.cur.core with bankpart0 := s.S a } (by rw [hn]; rfl) (by rw [hn]; rfl) rfl rfl
  · exact crSets_setCore h hl (fun _ => rfl) { s.core s.cur.core with bankpart1 := s.S a } (by rw [hn]; rfl) (by rw [hn]; rfl) rfl rfl
  · exact crSets_setCore h hl (fun _ => rfl) { s.core s.cur.core with mentry := s.S a } (by rw [hn]; rfl) (by rw [hn]; rfl) rfl rfl
  · exact crSets_setCore h hl (fun _ => rfl) { s.core s.cur.core with mresume := s.S a } (by rw [hn]; rfl) (by rw [hn]; rfl) rfl rfl
  · exact crSets_setCore h hl (fun _ => rfl) { s.core s.cur.core with mreason := s.S a &&& 0x1FF } (by rw [hn]; rfl) (by rw [hn]; rfl) rfl rfl
  · exact crSets_setCore h hl (fun _ => rfl) { s.core s.cur.core with mdetail := s.S a } (by rw [hn]; rfl) (by rw [hn]; rfl) rfl rfl

/-- The protection windows and the debug and profiling registers (R256, R257). -/
theorem crw_tableRegisters :
    (∀ i < 16, c.toNat = 0x210 + 2 * i → CrSets s d a c (readCr s s.cur c.toNat) (fun y => SMap.get 0 y.pwin (2 * i)) (s.S a &&& 0x3FFFFFFFFFFFFFFF)) ∧
    (∀ i < 16, c.toNat = 0x211 + 2 * i → CrSets s d a c (readCr s s.cur c.toNat) (fun y => SMap.get 0 y.pwin (2 * i + 1)) (s.S a &&& 0xFFFFF)) ∧
    (∀ i < 4, c.toNat = 0x300 + i → CrSets s d a c (readCr s s.cur c.toNat) (fun y => SMap.get 0 y.pcmp i) (s.S a)) ∧
    (c.toNat = 0x304 → CrSets s d a c (readCr s s.cur c.toNat) (·.pcmpctl) (s.S a)) ∧
    (c.toNat = 0x308 → CrSets s d a c (readCr s s.cur c.toNat) (·.tracectl) (s.S a &&& 0x7FFF01FF)) ∧
    (∀ i < 64, c.toNat = 0x340 + i → CrSets s d a c (readCr s s.cur c.toNat) (fun y => SMap.get 0 y.slotcnt i) (SMap.get 0 (s.core s.cur.core).slotcnt i &&& ~~~(s.S a))) ∧
    (∀ i < 17, c.toNat = 0x380 + i → CrSets s d a c (readCr s s.cur c.toNat) (fun y => SMap.get 0 y.readyhist i) (SMap.get 0 (s.core s.cur.core).readyhist i &&& ~~~(s.S a))) := by
  refine ⟨fun i hi hn => ?_, fun i hi hn => ?_, fun i hi hn => ?_, fun hn => ?_, fun hn => ?_, fun i hi hn => ?_, fun i hi hn => ?_⟩
  · refine crSets_setCore h hl (fun _ => rfl) { s.core s.cur.core with
      pwin := SMap.set 0 (s.core s.cur.core).pwin (2 * i) (s.S a &&& (if 2 * i % 2 = 0 then 0x3FFFFFFFFFFFFFFF else 0xFFFFF)) }
      (by rw [hn]; exact pwin_write s _ (j := 2 * i) (by omega)) (by rw [hn]; exact pwin_read s (by omega)) rfl ?_
    rw [if_pos (by omega)]
    exact SMap.get_set_same ..
  · have hn' : c.toNat = 0x210 + (2 * i + 1) := by omega
    refine crSets_setCore h hl (fun _ => rfl) { s.core s.cur.core with
      pwin := SMap.set 0 (s.core s.cur.core).pwin (2 * i + 1) (s.S a &&& (if (2 * i + 1) % 2 = 0 then 0x3FFFFFFFFFFFFFFF else 0xFFFFF)) }
      (by rw [hn']; exact pwin_write s _ (j := 2 * i + 1) (by omega)) (by rw [hn']; exact pwin_read s (by omega)) rfl ?_
    rw [if_neg (by omega)]
    exact SMap.get_set_same ..
  · exact crSets_setCore h hl (fun _ => rfl) { s.core s.cur.core with pcmp := SMap.set 0 (s.core s.cur.core).pcmp i (s.S a) } (by rw [hn]; exact pcmp_write s _ hi) (by rw [hn]; exact pcmp_read s hi) rfl (SMap.get_set_same ..)
  · exact crSets_setCore h hl (fun _ => rfl) { s.core s.cur.core with pcmpctl := s.S a } (by rw [hn]; rfl) (by rw [hn]; rfl) rfl rfl
  · exact crSets_setCore h hl (fun _ => rfl) { s.core s.cur.core with tracectl := s.S a &&& 0x7FFF01FF } (by rw [hn]; rfl) (by rw [hn]; rfl) rfl rfl
  · exact crSets_setCore h hl (fun _ => rfl) { s.core s.cur.core with slotcnt := SMap.set 0 (s.core s.cur.core).slotcnt i (SMap.get 0 (s.core s.cur.core).slotcnt i &&& ~~~(s.S a)) }
      (by rw [hn]; exact slotcnt_write s _ hi) (by rw [hn]; exact slotcnt_read s hi) rfl (SMap.get_set_same ..)
  · exact crSets_setCore h hl (fun _ => rfl) { s.core s.cur.core with readyhist := SMap.set 0 (s.core s.cur.core).readyhist i (SMap.get 0 (s.core s.cur.core).readyhist i &&& ~~~(s.S a)) }
      (by rw [hn]; exact readyhist_write s _ hi) (by rw [hn]; exact readyhist_read s hi) rfl (SMap.get_set_same ..)

end

/-- The maps of slots and contexts, field by field (R255). -/
theorem maps_read (s : State) {n : Nat} :
    (n = 0x108 ∨ n = 0x109 → ∀ i < 8, (readCr s s.cur n).toNat / 2 ^ (6 * i) % 64 =
      match (s.core s.cur.core).boundTo (8 * (n - 0x108) + i) with | some j => 32 + j | none => 0) ∧
    (n = 0x10A → ∀ i < 24, (readCr s s.cur n).toNat / 4 ^ i % 4 = match ((s.core s.cur.core).ctx i).st with | .free => 0 | .bound => 1 | .parked => 2) := by
  refine ⟨fun hn i hi => ?_, fun hn i hi => ?_⟩
  · have hr : readCr s s.cur n = slotMap (s.core s.cur.core) (8 * (n - 0x108)) := by
      rcases hn with rfl | rfl <;> rfl
    rw [hr, slotMap_packed]
    exact packed_word (w := 6) (n := 8) (fun j => slotField_lt (s.core s.cur.core) (8 * (n - 0x108) + j)) (by decide) hi
  · have hr : readCr s s.cur n = ctxMap (s.core s.cur.core) := by rw [hn]; rfl
    rw [hr, ctxMap_packed, ctxCode_match, show 4 ^ i = 2 ^ (2 * i) by rw [Nat.pow_mul]]
    exact packed_word (w := 2) (n := 24) (fun j => ctxCode_lt ((s.core s.cur.core).ctx j).st) (by decide) hi

/-- Settles O36. -/
theorem controlRegisters : Obligations.ControlRegisters := by
  intro s d a c
  dsimp only
  have hlevel : ¬ (match s.me.level with | Machine.Level.u => 0 | Machine.Level.s => 1 | Machine.Level.m => 2 : Nat) < (if c.toNat < 0x100 then 0 else if c.toNat / 0x100 = 2 then 2 else 1) ↔
      ¬ s.me.level.code < (crLevel c.toNat).code := by
    rw [crLevel_code _ (by omega), level_code]
  refine ⟨cr_unassigned, fun h hl => cr_reserved h (not_not.mp (mt hlevel.mpr (not_not.mpr hl))), fun h hl => ?_⟩
  have hl := hlevel.mp (Nat.not_lt.mpr hl)
  obtain ⟨h0, h1, h2, h3, h4, h5⟩ := crw_threadRegisters (d := d) (a := a) h hl
  obtain ⟨hmaps, hctx⟩ := maps_read s (n := c.toNat)
  obtain ⟨k1, k2, k3, k4, k5, k6, k7, k8, k9⟩ := crw_coreRegisters (d := d) (a := a) h hl
  obtain ⟨t1, t2, t3, t4, t5, t6, t7⟩ := crw_tableRegisters (d := d) (a := a) h hl
  refine ⟨readCr s s.cur c.toNat, crr_reads h hl, crw_completes h hl,
    fun hn => ⟨?_, h0 hn⟩, fun hn => ⟨by rw [hn]; rfl, h1 hn⟩, fun hn => ⟨by rw [hn]; rfl, h2 hn⟩, fun hn => ⟨by rw [hn]; rfl, h3 hn⟩, fun hn => ⟨by rw [hn]; rfl, h4 hn⟩,
    fun hn => ⟨by rw [hn]; rfl, h5 hn⟩, fun hn => ?_, fun hn => by rw [hn]; rfl, fun hn => by rw [hn]; rfl, fun hn => by rw [hn]; rfl, fun hn => by rw [hn]; rfl,
    fun hn => by rw [hn]; rfl, fun h6 hc => crw_thread h hl (fixed_write s h6 hc _) rfl, fun i hi hn => ⟨?_, ?_⟩, fun r t hq => ?_, fun hq h0 h3 => ?_, fun hn => ?_, hmaps, hctx,
    k1, k2, k3, k4, k5, k6, k7, k8, k9, t1, t2, t3, t4, t5, t6, t7⟩
  · rw [hn, status_read]
    cases s.me.level <;> rfl
  · rw [hn]
    show BitVec.ofNat 64 (s.cur.ctx % 32 * 2 ^ 12 + threadId s.cur.core s.me.slot) = _
    rw [threadId, Nat.add_assoc]
  · rw [hn]
    exact floor_read s hi
  · exact crw_thread h hl (by rw [hn]; exact floor_write s _ hi) rfl
  · refine ⟨fun hn => ?_, fun hn => ?_, fun hn => ?_, fun hn => ?_⟩
    all_goals
      rw [hn, queue_read s (by decide) (by decide), headWord, hq]
      rfl
  · rw [queue_read s h0 h3, headWord, hq]
  · rw [hn]
    show BitVec.ofNat 64 ((s.core s.cur.core).sq.length % 128 + (if (s.core s.cur.core).heldSq.isEmpty then 0 else 128)) = _
    cases (s.core s.cur.core).heldSq <;> rfl

end Sys2Proof.Machine
end

section
/-! O28 (R93, R97, R228, R261): ECTL and ESTAT. -/

namespace Sys2Proof.Machine

/-! ### Engines of a core -/

@[simp] theorem State.engine_setEngine (s : State) (k e : Nat) (g : Engine) : ((s.setEngine k e g).core k).engine e = g := by
  rw [State.setEngine, State.core_setCore_same, Core.engine, SMap.get_set_same]

theorem State.Steady.setEngine (s : State) (k e : Nat) (g : Engine) : s.Steady (s.setEngine k e g) := State.Steady.setCore rfl

theorem Engine.barge_setBarge (g : Engine) (r q : Nat) (b : Barge) : (g.setBarge r b).barge q = if q = r then b else g.barge q := SMap.get_set ..

theorem engineWake_spec (s : State) (k e : Nat) : s.Steady (engineWake s k e) ∧ (engineWake s k e).cores = s.cores ∧ (engineWake s k e).cur = s.cur :=
  ⟨⟨⟨rfl, rfl, rfl, rfl⟩, fun _ => rfl⟩, rfl, rfl⟩

/-- What retires with the registers it had, on a state that has changed no context. -/
theorem retire_steady {s t : State} {i : Instr} (he : exec i s = .next (retire t)) (hst : s.Steady t) (hc : t.cur = s.cur) :
    ∃ u, exec i s = .next (boundary u) ∧ (∀ q, u.ctxOf q = if q = s.cur then advance s.me else s.ctxOf q) ∧ s.SameBytes u ∧
      (∀ k, { u.core k with ctxs := [] } = { t.core k with ctxs := [] }) ∧ u.agenda = t.agenda ∧ u.due = t.due := by
  obtain ⟨u, hu, hr⟩ := retire_only t
  have hme : t.me = s.me := by rw [State.me, State.me, hc, hst.ctx]
  refine ⟨u, he.trans (congrArg Host.Outcome.next hr), fun q => ?_, hst.bytes.trans ?_, hu.core, by rw [hu.rest], by rw [hu.rest]⟩
  · rw [hu.ctx, hc, hme, hst.ctx]
  · rw [hu.rest]
    exact ⟨rfl, rfl, rfl, rfl⟩

/-- The engines of a core stand apart from its contexts. -/
theorem Core.engine_of {c c' : Core} (h : { c with ctxs := [] } = { c' with ctxs := [] }) (e : Nat) : c.engine e = c'.engine e :=
  have h' : c.engines = c'.engines := (congrArg Core.engines h :)
  congrArg (fun m : SMap Engine => SMap.get ({} : Engine) m e) h'

/-! ### ECTL.rd -/

theorem BState.code_lt (t : BState) : t.code < 2 ^ 3 := by cases t <;> decide

/-- The upper and the lower half of a descriptor. -/
theorem half_low (v : BitVec 128) : ((v >>> (64 * 0)).setWidth 64 : Word) = v.setWidth 64 := by
  rw [Nat.mul_zero, BitVec.ushiftRight_zero]

theorem half_high (v : BitVec 128) : ((v >>> (64 * 1)).setWidth 64 : Word) = v.extractLsb' 64 64 := by
  rw [Nat.mul_one]
  rfl

section
variable {k e r w : Nat} {x : Barge} (hst : x.st ≠ .free)
include hst

theorem bargeWord_status : bargeWord k e r x 0 = BitVec.ofNat 64 (x.cause.toNat * 2 ^ 56 + x.cursor % 2 ^ 24 * 2 ^ 32 + threadId x.issuerCore x.slot * 2 ^ 20 +
    x.st.code * 2 ^ 17 + bargeId k e r) := if_neg hst

theorem bargeWord_words : bargeWord k e r x 1 = x.faultAddr ∧ bargeWord k e r x 2 = x.rcb.setWidth 64 ∧ bargeWord k e r x 3 = x.cmd.word.setWidth 64 ∧
    bargeWord k e r x 10 = x.cmd.handle.setWidth 64 ∧ bargeWord k e r x 12 = x.flags.setWidth 64 :=
  ⟨if_neg hst, if_neg hst, if_neg hst, if_neg hst, if_neg hst⟩

theorem bargeWord_descriptors : bargeWord k e r x 4 = x.cmd.td.setWidth 64 ∧ bargeWord k e r x 5 = x.cmd.td.extractLsb' 64 64 ∧
    bargeWord k e r x 6 = x.cmd.ta.setWidth 64 ∧ bargeWord k e r x 7 = x.cmd.ta.extractLsb' 64 64 ∧
    bargeWord k e r x 8 = x.cmd.tb.setWidth 64 ∧ bargeWord k e r x 9 = x.cmd.tb.extractLsb' 64 64 :=
  ⟨(if_neg hst).trans (half_low _), (if_neg hst).trans (half_high _), (if_neg hst).trans (half_low _), (if_neg hst).trans (half_high _),
    (if_neg hst).trans (half_low _), (if_neg hst).trans (half_high _)⟩

theorem bargeWord_stream : bargeWord k e r x 11 = if x.cmd.word.toNat / 2 ^ 25 = 0x38 then BitVec.ofNat 64 (x.cmd.word.toNat % 128)
    else if x.cmd.word.toNat / 2 ^ 25 = 0x42 then x.stream.addr else 0 := by
  have hop : opcodeOf x.cmd.word = x.cmd.word.toNat / 2 ^ 25 := by
    rw [opcodeOf, bitsOf_eq]
    have := x.cmd.word.isLt
    omega
  have hlow : bitsOf x.cmd.word 6 0 = x.cmd.word.toNat % 128 := by
    rw [bitsOf_eq]
    omega
  rw [← hop, ← hlow]
  exact if_neg hst

end

theorem bargeWord_free {k e r w : Nat} {x : Barge} (hst : x.st = .free) : bargeWord k e r x w = 0 := if_pos hst

section
variable {s : State} {d a b : BitVec 5} {e : BitVec 2}

theorem ectlRd_index (h : 8 ≤ (s.S a).toNat) : Traps s (.ectlRd d a b e) 0x01 (s.S a) := congrArg Host.Outcome.next (if_pos h)

variable (h : (s.S a).toNat < 8)
include h

theorem ectlRd_word (hw : 13 ≤ (s.S b).toNat) : Traps s (.ectlRd d a b e) 0x01 (s.S b) :=
  congrArg Host.Outcome.next ((if_neg (by omega)).trans (if_pos hw))

variable (hw : (s.S b).toNat < 13)
include hw

theorem ectlRd_foreign (hu : s.me.level = .u) (hst : (((s.core s.cur.core).engine e.toNat).barge (s.S a).toNat).st ≠ .free)
    (ht : (((s.core s.cur.core).engine e.toNat).barge (s.S a).toNat).tid ≠ s.me.tid) : Traps s (.ectlRd d a b e) 0x04 s.irWord :=
  congrArg Host.Outcome.next ((if_neg (by omega)).trans ((if_neg (by omega)).trans (if_pos ⟨hu, hst, ht⟩)))

theorem ectlRd_reads (hown : ¬ s.me.level = .u ∨ (((s.core s.cur.core).engine e.toNat).barge (s.S a).toNat).st = .free ∨
      (((s.core s.cur.core).engine e.toNat).barge (s.S a).toNat).tid = s.me.tid) :
    Writes s (.ectlRd d a b e) d (bargeWord s.cur.core e.toNat (s.S a).toNat (((s.core s.cur.core).engine e.toNat).barge (s.S a).toNat) (s.S b).toNat) := by
  refine writeRetire_writes (congrArg Host.Outcome.next ((if_neg (by omega)).trans ((if_neg (by omega)).trans (if_neg fun hall => ?_))))
  obtain ⟨hu, hst, ht⟩ := hall
  rcases hown with h | h | h
  · exact h hu
  · exact hst h
  · exact ht h

end

/-! ### ECTL.res and ECTL.can -/

section
variable {s : State} {a : BitVec 5} {e : BitVec 2}

theorem ectl_user (h : s.me.level = .u) : Traps s (.ectlRes a e) 0x04 s.irWord ∧ Traps s (.ectlCan a e) 0x04 s.irWord :=
  ⟨congrArg Host.Outcome.next (atLeast_supervisor_user h _), congrArg Host.Outcome.next (atLeast_supervisor_user h _)⟩

variable (h : s.me.level ≠ .u)
include h

theorem ectl_absent (hr : 8 ≤ (s.S a).toNat ∨ (((s.core s.cur.core).engine e.toNat).barge (s.S a).toNat).st ≠ .parked) :
    Traps s (.ectlRes a e) 0x01 (s.S a) ∧ Traps s (.ectlCan a e) 0x01 (s.S a) :=
  ⟨congrArg Host.Outcome.next ((atLeast_supervisor h _).trans (if_pos hr)), congrArg Host.Outcome.next ((atLeast_supervisor h _).trans (if_pos hr))⟩

variable (hr : (s.S a).toNat < 8) (hst : (((s.core s.cur.core).engine e.toNat).barge (s.S a).toNat).st = .parked)
include hr hst

/-- The record `x` as ECTL.res leaves it, at clock `c`. -/
def Barge.resumedAt (x : Barge) (c : Nat) : Barge :=
  { x with st := .queued, cause := 0, faultAddr := 0, lines := [], asked := false, clk := max (max x.clk x.doneClk) c }

/-- The engine once record `r` is resumed. -/
def Engine.resumes (g : Engine) (r c : Nat) : Engine := { g.setBarge r ((g.barge r).resumedAt c) with resumed := g.resumed ++ [r] }

/-- The engine once record `r` is cancelled. -/
def Engine.cancels (g : Engine) (r : Nat) : Engine := g.setBarge r { g.barge r with st := .cancelled, finished := true }

omit h hr hst in
theorem Engine.resumes_barge (g : Engine) (r c q : Nat) : (g.resumes r c).barge q = if q = r then (g.barge r).resumedAt c else g.barge q :=
  Engine.barge_setBarge g r q ((g.barge r).resumedAt c)

theorem ectlRes_resumes : ∃ u, exec (.ectlRes a e) s = .next (boundary u) ∧ (∀ q, u.ctxOf q = if q = s.cur then advance s.me else s.ctxOf q) ∧ s.SameBytes u ∧
    .bargeStart s.cur.core e.toNat ∈ u.agenda ∧ (u.core s.cur.core).engine e.toNat = ((s.core s.cur.core).engine e.toNat).resumes (s.S a).toNat (s.clkOf s.cur) := by
  have he : exec (.ectlRes a e) s = .next (retire ((s.setEngine s.cur.core e.toNat (((s.core s.cur.core).engine e.toNat).resumes (s.S a).toNat (s.clkOf s.cur))).post
      [.bargeStart s.cur.core e.toNat])) :=
    congrArg Host.Outcome.next ((atLeast_supervisor h _).trans (if_neg (by rw [hst, not_or]; exact ⟨by omega, not_not.mpr rfl⟩)))
  obtain ⟨u, hu, hctx, hb, hcore, hag, -⟩ := retire_steady (i := .ectlRes a e) he ((State.Steady.setEngine ..).trans (State.Steady.post ..)) rfl
  refine ⟨u, hu, hctx, hb, ?_, ?_⟩
  · rw [hag]
    exact List.mem_append_right _ (List.mem_singleton.mpr rfl)
  · rw [Core.engine_of (hcore s.cur.core)]
    exact State.engine_setEngine ..

theorem ectlCan_cancels : ∃ u, exec (.ectlCan a e) s = .next (boundary u) ∧ (∀ q, u.ctxOf q = if q = s.cur then advance s.me else s.ctxOf q) ∧ s.SameBytes u ∧
    .bargeComplete s.cur.core e.toNat ∈ u.agenda ∧ (u.core s.cur.core).engine e.toNat = ((s.core s.cur.core).engine e.toNat).cancels (s.S a).toNat := by
  have he : exec (.ectlCan a e) s = .next (retire ((engineWake (s.setEngine s.cur.core e.toNat (((s.core s.cur.core).engine e.toNat).cancels (s.S a).toNat))
      s.cur.core e.toNat).post [.bargeComplete s.cur.core e.toNat, .bargeStart s.cur.core e.toNat])) :=
    congrArg Host.Outcome.next ((atLeast_supervisor h _).trans (if_neg (by rw [hst, not_or]; exact ⟨by omega, not_not.mpr rfl⟩)))
  obtain ⟨hwake, hcores, hcur⟩ := engineWake_spec (s.setEngine s.cur.core e.toNat (((s.core s.cur.core).engine e.toNat).cancels (s.S a).toNat)) s.cur.core e.toNat
  obtain ⟨u, hu, hctx, hb, hcore, hag, -⟩ := retire_steady (i := .ectlCan a e) he (((State.Steady.setEngine ..).trans hwake).trans (State.Steady.post ..)) hcur
  refine ⟨u, hu, hctx, hb, ?_, ?_⟩
  · rw [hag]
    exact List.mem_append_right _ (List.mem_cons_self ..)
  · rw [Core.engine_of (hcore s.cur.core)]
    exact State.engine_setEngine ..

end

/-! ### ESTAT -/

theorem statWord_fields (g : Engine) : (∀ i < 8, (statWord g).toNat / 2 ^ (3 * i) % 8 = (g.barge i).st.code) ∧
    (statWord g).toNat / 2 ^ 27 % 2 = (if g.running = none then 0 else 1) ∧ (∀ i, g.running = some i → i < 8 → (statWord g).toNat / 2 ^ 24 % 8 = i) ∧
    (g.queue.length < 4 → (statWord g).toNat / 2 ^ 28 = g.queue.length) := by
  have hcodes : packed 3 8 (fun i => (g.barge i).st.code) < 2 ^ 24 := packed_lt 8 (fun i => (g.barge i).st.code_lt)
  have hfield {i : Nat} (hi : i < 8) := packed_field (w := 3) (f := fun i => (g.barge i).st.code) (fun i => (g.barge i).st.code_lt) hi
  obtain ⟨p, hp⟩ : ∃ p, p = packed 3 8 (fun i => (g.barge i).st.code) := ⟨_, rfl⟩
  rw [← hp] at hcodes hfield
  have hval : ∃ m, m < 16 ∧ (statWord g).toNat = (g.queue.length % 4 * 16 + m) * 2 ^ 24 + p ∧ m / 8 = (if g.running = none then 0 else 1) ∧
      (∀ i, g.running = some i → i < 8 → m % 8 = i) := by
    cases hr : g.running with
    | none =>
      refine ⟨0, by omega, ?_, rfl, fun i h => nomatch h⟩
      rw [statWord, hr, sum_packed, ← hp, BitVec.toNat_ofNat]
      dsimp only
      omega
    | some i =>
      refine ⟨8 + i % 8, by omega, ?_, ?_, fun j hj hlt => ?_⟩
      · rw [statWord, hr, sum_packed, ← hp, BitVec.toNat_ofNat]
        dsimp only
        omega
      · rw [if_neg (by simp)]
        omega
      · cases hj
        omega
  obtain ⟨m, hm, hv, h27, h24⟩ := hval
  rw [hv]
  refine ⟨fun i hi => ?_, ?_, fun i hi hlt => ?_, fun hq => ?_⟩
  · rw [← hfield hi]
    have hsplit : (g.queue.length % 4 * 16 + m) * 2 ^ 24 = 2 ^ (3 * i) * (2 ^ 3 * ((g.queue.length % 4 * 16 + m) * 2 ^ (3 * (7 - i)))) := by
      have e : 2 ^ 24 = 2 ^ (3 * i) * (2 ^ 3 * 2 ^ (3 * (7 - i))) := by
        rw [← Nat.pow_add, ← Nat.pow_add]
        congr 1
        omega
      rw [e]
      ring
    rw [hsplit, Nat.add_comm, Nat.add_mul_div_left _ _ (Nat.two_pow_pos _), show 8 = 2 ^ 3 by decide, Nat.add_mul_mod_self_left]
  · rw [← h27]
    omega
  · have := h24 i hi hlt
    omega
  · omega

theorem estat_observes (s : State) (d : BitVec 5) (e : BitVec 2) : Observes s (.estat d e) (s.me.writeS d (statWord ((s.core s.cur.core).engine e.toNat))) := by
  obtain ⟨u, hu, hr⟩ := writeRetire_only (s.setClk s.cur (max (s.clkOf s.cur) ((s.core s.cur.core).engine e.toNat).statClk)) d
    (statWord ((s.core s.cur.core).engine e.toNat))
  exact ⟨_, u, hu, congrArg Host.Outcome.next hr⟩

/-- Settles O28. -/
theorem engineControl : Obligations.EngineControl := by
  intro s d a b e
  dsimp only
  refine ⟨ectlRd_index, ectlRd_word, ectlRd_foreign, fun hr hw hown => ⟨_, ectlRd_reads hr hw hown, bargeWord_free, fun hst => ?_⟩, ectl_user, ectl_absent, fun h hr hst => ⟨?_, ?_⟩,
    ⟨_, estat_observes s d e, statWord_fields _⟩⟩
  · obtain ⟨w1, w2, w3, w10, w12⟩ := bargeWord_words (k := s.cur.core) (e := e.toNat) (r := (s.S a).toNat) hst
    obtain ⟨w4, w5, w6, w7, w8, w9⟩ := bargeWord_descriptors (k := s.cur.core) (e := e.toNat) (r := (s.S a).toNat) hst
    refine ⟨fun hn => ?_, fun hn => by rw [hn, w1], fun hn => by rw [hn, w2], fun hn => by rw [hn, w3], fun hn => by rw [hn, w4], fun hn => by rw [hn, w5], fun hn => by rw [hn, w6],
      fun hn => by rw [hn, w7], fun hn => by rw [hn, w8], fun hn => by rw [hn, w9], fun hn => by rw [hn, w10], fun hn => by rw [hn, bargeWord_stream hst], fun hn => by rw [hn, w12]⟩
    have hid : bargeId s.cur.core e.toNat (s.S a).toNat = s.cur.core % 256 * 2 ^ 5 + e.toNat * 2 ^ 3 + (s.S a).toNat := by
      rw [bargeId]
      omega
    rw [hn, ← hid]
    exact bargeWord_status hst
  · obtain ⟨u, hu, hctx, hb, hag, heng⟩ := ectlRes_resumes h hr hst
    refine ⟨u, hu, ⟨hctx, hb⟩, hag, ?_⟩
    rw [heng]
    exact ⟨(Engine.resumes_barge ..).trans (if_pos rfl), fun q hq => (Engine.resumes_barge ..).trans (if_neg hq), rfl, rfl⟩
  · obtain ⟨u, hu, hctx, hb, hag, heng⟩ := ectlCan_cancels h hr hst
    refine ⟨u, hu, ⟨hctx, hb⟩, hag, ?_⟩
    rw [heng, Engine.cancels, Engine.barge_setBarge, if_pos rfl]
    exact ⟨rfl, rfl, fun q hq => (Engine.barge_setBarge ..).trans (if_neg hq)⟩

end Sys2Proof.Machine
end

section
/-! O24 (R166, R170, R188 to R191): basins. -/

namespace Sys2Proof.Machine

/-! ### Operations on the barriers and basins of a core -/

/-- A step that synchronises, before its instruction advances. -/
structure State.Synced (s t : State) : Prop where
  rest : t = { s with cores := t.cores, micro := t.micro, agenda := t.agenda, due := t.due }
  micro : t.micro = { s.micro with clkCtx := t.micro.clkCtx, stBarrier := t.micro.stBarrier, stBasin := t.micro.stBasin }
  core : ∀ k, { t.core k with ctxs := [], barriers := [], basins := [], counters := [], staged := [] } =
    { s.core k with ctxs := [], barriers := [], basins := [], counters := [], staged := [] }
  ctxs : ∀ k, (t.core k).ctxs = (s.core k).ctxs

theorem State.Synced.refl (s : State) : s.Synced s := ⟨rfl, rfl, fun _ => rfl, fun _ => rfl⟩

theorem State.Synced.trans {s t u : State} (h : s.Synced t) (h' : t.Synced u) : s.Synced u where
  rest := by rw [h'.rest, h.rest]
  micro := by rw [h'.micro, h.micro]
  core k := (h'.core k).trans (h.core k)
  ctxs k := (h'.ctxs k).trans (h.ctxs k)

theorem State.Synced.ctxOf {s t : State} (h : s.Synced t) (q : ThreadRef) : t.ctxOf q = s.ctxOf q := by
  rw [State.ctxOf, State.ctxOf, Core.ctx, Core.ctx, h.ctxs]

theorem State.Synced.cur {s t : State} (h : s.Synced t) : t.cur = s.cur := by rw [h.rest]

theorem State.Synced.me {s t : State} (h : s.Synced t) : t.me = s.me := by rw [State.me, State.me, h.cur, h.ctxOf]

theorem State.Synced.setClk (s : State) (r : ThreadRef) (c : Nat) : s.Synced (s.setClk r c) := ⟨rfl, rfl, fun _ => rfl, fun _ => rfl⟩

theorem State.Synced.due (s : State) (l : List Instr) : s.Synced { s with due := l } := ⟨rfl, rfl, fun _ => rfl, fun _ => rfl⟩

theorem State.Synced.post (s : State) (l : List Instr) : s.Synced (s.post l) := ⟨rfl, rfl, fun _ => rfl, fun _ => rfl⟩

theorem State.Synced.setCore {s : State} {k : Nat} {c : Core} (hc : { c with ctxs := [], barriers := [], basins := [], counters := [], staged := [] } =
      { s.core k with ctxs := [], barriers := [], basins := [], counters := [], staged := [] }) (hx : c.ctxs = (s.core k).ctxs) : s.Synced (s.setCore k c) where
  rest := rfl
  micro := rfl
  core j := by
    rw [State.core_setCore]
    split
    · subst j; exact hc
    · rfl
  ctxs j := by
    rw [State.core_setCore]
    split
    · subst j; exact hx
    · rfl

theorem State.Synced.setBasin (s : State) (k i : Nat) (b : Basin) : s.Synced (s.setBasin k i b) := State.Synced.setCore rfl rfl

theorem State.Synced.stampBasin (s : State) (k i c : Nat) : s.Synced (stampBasin s k i c) := ⟨rfl, rfl, fun _ => rfl, fun _ => rfl⟩

theorem State.Synced.wakeBasin (s : State) (k i : Nat) (f : Context → Bool) : s.Synced (wakeBasin s k i f) := State.Synced.due s _

theorem State.Synced.pulse (s : State) (k kind index c : Nat) : s.Synced (pulse s k kind index c) := State.Synced.setCore rfl rfl

/-- The advance of the thread after a step that synchronises. -/
theorem State.Synced.setMe {s t : State} (h : s.Synced t) (x : Context) : s.Syncs (t.setMe x) x where
  rest := by
    have e := h.rest
    rw [State.setMe, State.setCtx, State.setCore, e]
  micro := h.micro
  core k := by
    refine Eq.trans ?_ (h.core k)
    rw [State.setMe, State.core_setCtx]
    split
    · subst k; rfl
    · rfl
  ctx r := by
    rw [State.ctxOf_setMe, h.cur, h.ctxOf]

theorem State.core_setMe_fields (s : State) (x : Context) (k : Nat) : ((s.setMe x).core k).basins = (s.core k).basins ∧ ((s.setMe x).core k).barriers = (s.core k).barriers := by
  rw [State.setMe, State.core_setCtx]
  split <;> exact ⟨rfl, rfl⟩

/-- What an instruction that retires with the registers of `y` does, on top of a step that synchronises. -/
theorem acts_setMe {s t : State} {i : Instr} {y : Context} (he : exec i s = .next (retire (t.setMe y))) (h : s.Synced t) :
    ∃ u, Acts s i y u ∧ ∀ k, (u.core k).basins = (t.core k).basins ∧ (u.core k).barriers = (t.core k).barriers := by
  have hy := h.setMe y
  refine ⟨(t.setMe y).setMe (advance y), ⟨⟨?_, hy.micro, fun k => ?_, fun r => ?_⟩, he.trans (congrArg Host.Outcome.next ?_)⟩, fun k => ?_⟩
  · obtain ⟨v, hv⟩ : ∃ v, v = t.setMe y := ⟨_, rfl⟩
    rw [← hv] at hy ⊢
    have e := hy.rest
    rw [State.setMe, State.setCtx, State.setCore, e]
  · refine Eq.trans ?_ (hy.core k)
    rw [State.setMe, State.core_setCtx]
    split
    · rename_i hk; subst hk; rfl
    · rfl
  · rw [State.ctxOf_setMe, State.ctxOf_setMe, show (t.setMe y).cur = s.cur from h.cur, h.cur, h.ctxOf]
    split <;> rfl
  · rw [retire, State.me_setMe]
  · obtain ⟨h1, h2⟩ := State.core_setMe_fields (t.setMe y) (advance y) k
    obtain ⟨h3, h4⟩ := State.core_setMe_fields t y k
    exact ⟨h1.trans h3, h2.trans h4⟩

/-- What an instruction that retires with the registers it had does, on top of a step that synchronises. -/
theorem acts_retire {s t : State} {i : Instr} (he : exec i s = .next (retire t)) (h : s.Synced t) :
    ∃ u, Acts s i s.me u ∧ ∀ k, (u.core k).basins = (t.core k).basins ∧ (u.core k).barriers = (t.core k).barriers :=
  ⟨t.setMe (advance s.me), ⟨h.setMe _, he.trans (congrArg Host.Outcome.next (by rw [retire, h.me]))⟩, State.core_setMe_fields t _⟩

/-! ### Basin counters -/

theorem Basin.skip_of_nil (n : Nat) {b : Basin} (h : b.withdrawn = []) : b.skip n = b := by
  cases n with
  | zero => rfl
  | succ n => simp [Basin.skip, h]

theorem Basin.norm_of_nil {b : Basin} (h : b.withdrawn = []) : b.norm = b := Basin.skip_of_nil _ h

theorem Basin.free_eq_zero {b : Basin} (hc : b.claim < 512) (hr : b.release < 512) : b.free = 0 ↔ (2 ^ b.k : Int) - ((b.claim : Int) - b.release) % 512 ≤ 0 := by
  have hpow : ((2 ^ b.k : Nat) : Int) = 2 ^ b.k := by norm_num
  rw [Basin.free, ← hpow]
  omega

theorem Basin.filled_eq_zero {b : Basin} (hc : b.commit < 512) (ht : b.take < 512) : b.filled = 0 ↔ b.commit = b.take := by
  rw [Basin.filled]
  omega

theorem Core.basin_set (s : State) (k i q : Nat) (b : Basin) : ((s.setBasin k i b).core k).basin q = if q = i then b else (s.core k).basin q := by
  rw [State.setBasin, State.core_setCore_same]
  exact SMap.get_set ..

/-! ### The members on an enabled basin (R166, R170, R190) -/

section
variable {s : State} {a d : BitVec 5} (hi : (s.S a).toNat ≤ 63)

theorem withBasin_far (h : 63 < (s.S a).toNat) (f : Nat → Basin → State) : withBasin s a f = trap s 0x1B (s.S a) := if_pos h

include hi

theorem withBasin_disabled (h : ((s.core s.cur.core).basin (s.S a).toNat).enabled = false) (f : Nat → Basin → State) : withBasin s a f = trap s 0x1B (s.S a) :=
  (if_neg (by omega)).trans (if_neg (by rw [show s.myCore = s.core s.cur.core from rfl, h]; decide))

theorem withBasin_enabled (h : ((s.core s.cur.core).basin (s.S a).toNat).enabled = true) (f : Nat → Basin → State) :
    withBasin s a f = f (s.S a).toNat ((s.core s.cur.core).basin (s.S a).toNat) :=
  (if_neg (by omega)).trans (if_pos h)

end

/-- Where one basin of the core of `s` is `e`, if no slot of it was withdrawn, and every other basin and every barrier is as before. -/
def BasinMoves (s : State) (n : Instr) (y : Context) (i : Nat) (e : Basin) : Prop :=
  ∃ u, Acts s n y u ∧ (((s.core s.cur.core).basin i).withdrawn = [] → (u.core s.cur.core).basin i = e) ∧
    (∀ q, q ≠ i → (u.core s.cur.core).basin q = (s.core s.cur.core).basin q) ∧ ∀ q, (u.core s.cur.core).barrier q = (s.core s.cur.core).barrier q

theorem basinMoves_of {s t : State} {n : Instr} {y : Context} {i : Nat} {e : Basin} 
    (hu : ∃ u, Acts s n y u ∧ ∀ k, (u.core k).basins = (t.core k).basins ∧ (u.core k).barriers = (t.core k).barriers)
    (hb : (t.core s.cur.core).basins = SMap.set {} (s.core s.cur.core).basins i e.norm) (hw : ((s.core s.cur.core).basin i).withdrawn = [] → e.withdrawn = [])
    (hbar : (t.core s.cur.core).barriers = (s.core s.cur.core).barriers) : BasinMoves s n y i e := by
  obtain ⟨u, hu, hcore⟩ := hu
  obtain ⟨hbasins, hbarriers⟩ := hcore s.cur.core
  have hget (q : Nat) : (u.core s.cur.core).basin q = if q = i then e.norm else (s.core s.cur.core).basin q := by
    rw [Core.basin, hbasins, hb]
    exact SMap.get_set ..
  refine ⟨u, hu, fun h0 => ?_, fun q hq => ?_, fun q => ?_⟩
  · rw [hget, if_pos rfl, Basin.norm_of_nil (hw h0)]
  · rw [hget, if_neg hq]
  · rw [Core.barrier, hbarriers, hbar]
    rfl

section
variable {s : State} {a d : BitVec 5} (hi : (s.S a).toNat ≤ 63)

theorem basin_refused (h : ∀ f, withBasin s a f = trap s 0x1B (s.S a)) : Traps s (.bsnp d a) 0x1B (s.S a) ∧ Traps s (.bsnc a) 0x1B (s.S a) ∧
    Traps s (.bsng d a) 0x1B (s.S a) ∧ Traps s (.bsnf a) 0x1B (s.S a) ∧ Traps s (.waiteFill a) 0x1B (s.S a) ∧ Traps s (.waiteFree a) 0x1B (s.S a) :=
  ⟨congrArg Host.Outcome.next (h _), congrArg Host.Outcome.next (h _), congrArg Host.Outcome.next (h _), congrArg Host.Outcome.next (h _),
    congrArg Host.Outcome.next (h _), congrArg Host.Outcome.next (h _)⟩

include hi
variable {b : Basin} (hb : (s.core s.cur.core).basin (s.S a).toNat = b) (hen : b.enabled = true)
include hb hen

theorem withBasin_acts (f : Nat → Basin → State) : withBasin s a f = f (s.S a).toNat b := by
  rw [withBasin_enabled hi (by rw [hb, hen]), hb]

theorem free_none (h : b.free = 0) : Retries s (.bsnp d a) 4 (s.S a).toNat ∧ Retries s (.waiteFree a) 4 (s.S a).toNat :=
  ⟨retries_with (congrArg Host.Outcome.next ((withBasin_acts hi hb hen _).trans (if_pos h))) (State.Keeps.refl s),
    retries_with (congrArg Host.Outcome.next ((withBasin_acts hi hb hen _).trans (if_pos h))) (State.Keeps.refl s)⟩

theorem filled_none (h : b.filled = 0) : Retries s (.bsng d a) 4 (s.S a).toNat ∧ Retries s (.waiteFill a) 4 (s.S a).toNat :=
  ⟨retries_with (congrArg Host.Outcome.next ((withBasin_acts hi hb hen _).trans (if_pos h))) (State.Keeps.refl s),
    retries_with (congrArg Host.Outcome.next ((withBasin_acts hi hb hen _).trans (if_pos h))) (State.Keeps.refl s)⟩

omit hi hb hen in
/-- Looking at the basin's stamp, a member that changes nothing completes. -/
theorem observes_of {n : Instr} (he : exec n s = .next (retire (observeBasin s s.cur (s.S a).toNat))) : Observes s n s.me := by
  obtain ⟨u, hu, hr⟩ := retire_only (observeBasin s s.cur (s.S a).toNat)
  exact ⟨_, u, hu, he.trans (congrArg Host.Outcome.next hr)⟩

theorem waiteFree_passes (h : b.free ≠ 0) : Observes s (.waiteFree a) s.me :=
  observes_of (congrArg Host.Outcome.next ((withBasin_acts hi hb hen _).trans (if_neg h)))

theorem waiteFill_passes (h : b.filled ≠ 0) : Observes s (.waiteFill a) s.me :=
  observes_of (congrArg Host.Outcome.next ((withBasin_acts hi hb hen _).trans (if_neg h)))

theorem bsnp_claims (h : b.free ≠ 0) :
    BasinMoves s (.bsnp d a) (s.me.writeS d (b.slotAddr b.claim)) (s.S a).toNat { b with claim := (b.claim + 1) % 512 } := by
  obtain ⟨t, ht⟩ : ∃ t, t = (observeBasin s s.cur (s.S a).toNat).setBasin s.cur.core (s.S a).toNat b.claimOne.norm := ⟨_, rfl⟩
  have hst : s.Synced t := by
    rw [ht]
    exact (State.Synced.setClk s _ _).trans (State.Synced.setBasin ..)
  have he : exec (.bsnp d a) s = .next (writeRetire t d (b.slotAddr b.claim)) := by
    rw [ht]
    exact congrArg Host.Outcome.next ((withBasin_acts hi hb hen _).trans (if_neg h))
  rw [writeRetire, State.setS, hst.me] at he
  refine basinMoves_of (acts_setMe he hst) ?_ (fun h0 => hb ▸ h0) ?_
  · rw [ht, State.setBasin, State.core_setCore_same]
    rfl
  · rw [ht, State.setBasin, State.core_setCore_same]
    rfl

theorem bsng_takes (h : b.filled ≠ 0) :
    BasinMoves s (.bsng d a) (s.me.writeS d (b.slotAddr b.take)) (s.S a).toNat { b with take := (b.take + 1) % 512 } := by
  obtain ⟨t, ht⟩ : ∃ t, t = (observeBasin s s.cur (s.S a).toNat).setBasin s.cur.core (s.S a).toNat ({ b with take := inc9 b.take } : Basin).norm := ⟨_, rfl⟩
  have hst : s.Synced t := by
    rw [ht]
    exact (State.Synced.setClk s _ _).trans (State.Synced.setBasin ..)
  have he : exec (.bsng d a) s = .next (writeRetire t d (b.slotAddr b.take)) := by
    rw [ht]
    exact congrArg Host.Outcome.next ((withBasin_acts hi hb hen _).trans (if_neg h))
  rw [writeRetire, State.setS, hst.me] at he
  refine basinMoves_of (acts_setMe he hst) ?_ (fun h0 => hb ▸ h0) ?_
  · rw [ht, State.setBasin, State.core_setCore_same]
    rfl
  · rw [ht, State.setBasin, State.core_setCore_same]
    rfl

theorem bsnc_outOfTurn (h : b.commit = b.claim) : Traps s (.bsnc a) 0x1B (s.S a) :=
  congrArg Host.Outcome.next ((withBasin_acts hi hb hen _).trans (if_pos h))

theorem bsnf_outOfTurn (h : b.release = b.take) : Traps s (.bsnf a) 0x1B (s.S a) :=
  congrArg Host.Outcome.next ((withBasin_acts hi hb hen _).trans (if_pos h))

theorem bsnc_commits (h : b.commit ≠ b.claim) : BasinMoves s (.bsnc a) s.me (s.S a).toNat { b with commit := (b.commit + 1) % 512 } := by
  have he : exec (.bsnc a) s = .next (retire (basinCommit s s.cur.core (s.S a).toNat (s.clkOf s.cur))) :=
    congrArg Host.Outcome.next ((withBasin_acts hi hb hen _).trans (if_neg h))
  have hst : s.Synced (basinCommit s s.cur.core (s.S a).toNat (s.clkOf s.cur)) :=
    (((State.Synced.setBasin ..).trans (State.Synced.stampBasin ..)).trans (State.Synced.wakeBasin ..)).trans (State.Synced.pulse ..)
  refine basinMoves_of (acts_retire he hst) ?_ (fun h0 => hb ▸ h0) ?_
  · rw [basinCommit, hb, pulse, State.core_setCore_same]
    exact (congrArg Core.basins (State.core_setCore_same ..) :)
  · rw [basinCommit, hb, pulse, State.core_setCore_same]
    exact (congrArg Core.barriers (State.core_setCore_same ..) :)

theorem bsnf_frees (h : b.release ≠ b.take) : BasinMoves s (.bsnf a) s.me (s.S a).toNat { b with release := (b.release + 1) % 512 } := by
  have he : exec (.bsnf a) s = .next (retire (basinRelease s s.cur.core (s.S a).toNat (s.clkOf s.cur))) :=
    congrArg Host.Outcome.next ((withBasin_acts hi hb hen _).trans (if_neg h))
  have hst : s.Synced (basinRelease s s.cur.core (s.S a).toNat (s.clkOf s.cur)) :=
    (((State.Synced.setBasin ..).trans (State.Synced.stampBasin ..)).trans (State.Synced.wakeBasin ..)).trans (State.Synced.post ..)
  refine basinMoves_of (acts_retire he hst) ?_ (fun h0 => hb ▸ h0) ?_
  · rw [basinRelease, hb]
    exact (congrArg Core.basins (State.core_setCore_same ..) :)
  · rw [basinRelease, hb]
    exact (congrArg Core.barriers (State.core_setCore_same ..) :)

end

/-! ### BSNI (R189) -/

/-- The claim of basin `i` that a copy barge holds. -/
def Barge.ClaimsOf (g : Barge) (i : Nat) : Prop :=
  opcodeOf g.cmd.word = 0x38 ∧ bitsOf g.cmd.word 8 7 = 2 ∧ bitsOf g.cmd.word 5 0 = i ∧ g.basinClaim.isSome = true

/-- A record as BSNI of basin `i` leaves it. -/
def Barge.forgets (i : Nat) (g : Barge) : Barge :=
  if decide (opcodeOf g.cmd.word = 0x38) && decide (bitsOf g.cmd.word 8 7 = 2) && decide (bitsOf g.cmd.word 5 0 = i) && g.basinClaim.isSome
  then { g with basinClaim := none, forgot := g.basinClaim } else g

theorem Barge.forgets_spec (g : Barge) (i : Nat) :
    (g.ClaimsOf i → g.forgets i = { g with basinClaim := none, forgot := g.basinClaim }) ∧ (¬ g.ClaimsOf i → g.forgets i = g) := by
  have hiff : (decide (opcodeOf g.cmd.word = 0x38) && decide (bitsOf g.cmd.word 8 7 = 2) && decide (bitsOf g.cmd.word 5 0 = i) && g.basinClaim.isSome) = true ↔ g.ClaimsOf i := by
    simp only [Bool.and_eq_true, decide_eq_true_eq, Barge.ClaimsOf, and_assoc]
  exact ⟨fun h => if_pos (hiff.mpr h), fun h => if_neg (mt hiff.mp h)⟩

/-- The copy engine of core `k` once BSNI of basin `i` is done. -/
def Engine.forgets (e : Engine) (i : Nat) : Engine := { e with recs := e.recs.map (fun p => (p.1, p.2.forgets i)) }

theorem Engine.barge_forgets (e : Engine) (i r : Nat) : (e.forgets i).barge r = (e.barge r).forgets i :=
  SMap.get_map ({} : Barge) (Barge.forgets i) ((Barge.forgets_spec {} i).2 (fun h => by obtain ⟨-, -, -, h⟩ := h; exact nomatch h)) e.recs r

theorem forgetClaims_eq (s : State) (k i : Nat) :
    forgetClaims s k i = s.setCore k { s.core k with engines := SMap.set {} (s.core k).engines 0 (((s.core k).engine 0).forgets i) } := by
  have hmap (l : SMap Barge) : l.map (fun p => if decide (opcodeOf p.2.cmd.word = 0x38) && decide (bitsOf p.2.cmd.word 8 7 = 2) && decide (bitsOf p.2.cmd.word 5 0 = i)
      && p.2.basinClaim.isSome then (p.1, { p.2 with basinClaim := none, forgot := p.2.basinClaim }) else p) = l.map (fun p => (p.1, p.2.forgets i)) := by
    refine List.map_congr_left fun p _ => ?_
    rw [Barge.forgets]
    split <;> rfl
  rw [forgetClaims, hmap]
  rfl

theorem mem_insertWaiter (a : Nat × Context) (l : List (Nat × Context)) (p : Nat × Context) : p ∈ insertWaiter a l ↔ p = a ∨ p ∈ l := by
  induction l with
  | nil => simp [insertWaiter]
  | cons b t ih =>
    rw [insertWaiter]
    split
    · simp
    · simp only [List.mem_cons, ih]
      tauto

theorem mem_foldl_insertWaiter (l acc : List (Nat × Context)) (p : Nat × Context) :
    p ∈ l.foldl (fun acc p => insertWaiter p acc) acc ↔ p ∈ l ∨ p ∈ acc := by
  induction l generalizing acc with
  | nil => simp
  | cons a t ih =>
    rw [List.foldl_cons, ih, mem_insertWaiter, List.mem_cons]
    tauto

theorem waitWord_basin {i : Nat} (hi : i < 64) : bitsOf (waitWord 4 i) 63 60 = 4 ∧ bitsOf (waitWord 4 i) 55 0 = i := by
  rw [bitsOf_eq, bitsOf_eq, waitWord, BitVec.toNat_ofNat]
  omega

/-- Every thread that waits on the basin is woken (R190). -/
theorem wakeBasin_all (s : State) (k : Nat) {i c : Nat} (hi : i < 64) (hw : ((s.core k).ctx c).wait = waitWord 4 i) (hp : ((s.core k).ctx c).pend = .reissue) :
    .wake k c ∈ (wakeBasin s k i (fun _ => true)).due := by
  obtain ⟨hkind, hobj⟩ := waitWord_basin hi
  have hne : (s.core k).ctx c ≠ {} := fun e => by
    rw [e] at hw
    rw [← hw] at hkind
    exact absurd hkind (by decide)
  have hmem := SMap.mem_of_get ({} : Context) (s.core k).ctxs c hne
  refine List.mem_append_right _ (List.mem_map.mpr ⟨(c, (s.core k).ctx c), (mem_foldl_insertWaiter ..).mpr (Or.inl (List.mem_filter.mpr ⟨hmem, ?_⟩)), rfl⟩)
  dsimp only
  rw [Context.waitKind, Context.waitObj, hw, hkind, hobj, hp]
  simp

/-- BSNI has set basin `i` of the core to `e`. -/
def BasinSets (s : State) (n : Instr) (i : Nat) (e : Basin) : Prop :=
  ∃ u, exec n s = .next (boundary u) ∧ s.SameBytes u ∧ (u.core s.cur.core).basin i = e ∧
    (∀ q, q ≠ i → (u.core s.cur.core).basin q = (s.core s.cur.core).basin q) ∧ .basinSlotClaim s.cur.core ∈ u.agenda ∧
    (∀ r, u.ctxOf r = if r = s.cur then advance s.me else s.ctxOf r) ∧ (∀ q, (u.core s.cur.core).barrier q = (s.core s.cur.core).barrier q) ∧
    (∀ r, ((((s.core s.cur.core).engine 0).barge r).ClaimsOf i → ((u.core s.cur.core).engine 0).barge r =
        { ((s.core s.cur.core).engine 0).barge r with basinClaim := none, forgot := (((s.core s.cur.core).engine 0).barge r).basinClaim }) ∧
      (¬ (((s.core s.cur.core).engine 0).barge r).ClaimsOf i → ((u.core s.cur.core).engine 0).barge r = ((s.core s.cur.core).engine 0).barge r)) ∧
    ∀ c, ((s.core s.cur.core).ctx c).wait = waitWord 4 i → ((s.core s.cur.core).ctx c).pend = .reissue → .wake s.cur.core c ∈ u.due

theorem basinSets_of {s : State} {n : Instr} {i : Nat} {e : Basin} (hi : i < 64)
    (he : exec n s = .next (retire ((wakeBasin ((forgetClaims s s.cur.core i).setBasin s.cur.core i e) s.cur.core i (fun _ => true)).post [.basinSlotClaim s.cur.core]))) :
    BasinSets s n i e := by
  obtain ⟨f, hf⟩ : ∃ f, f = forgetClaims s s.cur.core i := ⟨_, rfl⟩
  have hfs : s.Steady f ∧ f.cur = s.cur ∧ f.core s.cur.core =
      { s.core s.cur.core with engines := SMap.set {} (s.core s.cur.core).engines 0 (((s.core s.cur.core).engine 0).forgets i) } := by
    rw [hf, forgetClaims_eq]
    exact ⟨State.Steady.setCore rfl, rfl, State.core_setCore_same ..⟩
  obtain ⟨hfst, hfcur, hfcore⟩ := hfs
  obtain ⟨g, hg⟩ : ∃ g, g = f.setBasin s.cur.core i e := ⟨_, rfl⟩
  have hgs : s.Steady g ∧ g.cur = s.cur ∧ (g.core s.cur.core).basins = SMap.set {} (s.core s.cur.core).basins i e ∧
      (g.core s.cur.core).barriers = (s.core s.cur.core).barriers ∧ (g.core s.cur.core).engine 0 = ((s.core s.cur.core).engine 0).forgets i := by
    have hset : f.Steady (f.setBasin s.cur.core i e) := State.Steady.setCore rfl
    rw [hg]
    refine ⟨hfst.trans hset, hfcur, ?_⟩
    rw [State.setBasin, State.core_setCore_same, hfcore]
    exact ⟨rfl, rfl, SMap.get_set_same ..⟩
  obtain ⟨hgst, hgcur, hgbasins, hgbarriers, hgengine⟩ := hgs
  obtain ⟨w, hw⟩ : ∃ w, w = wakeBasin g s.cur.core i (fun _ => true) := ⟨_, rfl⟩
  have hws : s.Steady w ∧ w.cur = s.cur ∧ w.core s.cur.core = g.core s.cur.core := by
    rw [hw]
    exact ⟨hgst.trans ⟨⟨rfl, rfl, rfl, rfl⟩, fun _ => rfl⟩, hgcur, rfl⟩
  obtain ⟨hwst, hwcur, hwcore⟩ := hws
  rw [← hf, ← hg, ← hw] at he
  obtain ⟨u, hu, hctx, hbytes, hcore, hag, hdue⟩ := retire_steady he (hwst.trans (State.Steady.post ..)) hwcur
  have hc : { u.core s.cur.core with ctxs := [] } = { g.core s.cur.core with ctxs := [] } := (hcore s.cur.core).trans (by rw [← hwcore]; rfl)
  have hbasins : (u.core s.cur.core).basins = SMap.set {} (s.core s.cur.core).basins i e := ((congrArg Core.basins hc :)).trans hgbasins
  have hget (q : Nat) : (u.core s.cur.core).basin q = if q = i then e else (s.core s.cur.core).basin q := by
    rw [Core.basin, hbasins]
    exact SMap.get_set ..
  have hbarge (r : Nat) : ((u.core s.cur.core).engine 0).barge r = (((s.core s.cur.core).engine 0).barge r).forgets i := by
    rw [Core.engine_of hc, hgengine, Engine.barge_forgets]
  refine ⟨u, hu, hbytes, by rw [hget, if_pos rfl], fun q hq => by rw [hget, if_neg hq], ?_, hctx, fun q => ?_, fun r => ?_, fun c hwait hpend => ?_⟩
  · rw [hag]
    exact List.mem_append_right _ (List.mem_singleton.mpr rfl)
  · rw [Core.barrier, (congrArg Core.barriers hc :), hgbarriers]
    rfl
  · rw [hbarge]
    exact Barge.forgets_spec _ i
  · have hctxs : (g.core s.cur.core).ctx c = (s.core s.cur.core).ctx c := hgst.ctx ⟨s.cur.core, c⟩
    rw [hdue]
    change _ ∈ w.due
    rw [hw]
    exact wakeBasin_all g s.cur.core hi (by rw [hctxs, hwait]) (by rw [hctxs, hpend])

/-- Every bank of the ring is owned by the thread's partition, or the thread stands above level U. -/
def RingOwned (s : State) (base k j : Nat) : Prop := s.me.level ≠ .u ∨ ∀ q, base % 0x100000 / 32768 ≤ q → q ≤ (base % 0x100000 + 2 ^ (k + j) - 1) / 32768 →
  bitsOf (if q < 16 then (s.core s.cur.core).bankpart0 else (s.core s.cur.core).bankpart1) (4 * (q % 16) + 3) (4 * (q % 16)) = (s.core s.cur.core).partOf s.me.slot

/-- The shape that R189 asks of a ring. -/
def RingSized (core base k j : Nat) : Prop :=
  k ≤ 8 ∧ 6 ≤ j ∧ k + j ≤ 20 ∧ base / 0x100000 = 0x00F0000000000000 / 0x100000 + core % 256 ∧ base % 2 ^ (k + j) = 0

/-- A ring that is sized so lies in one local store. -/
theorem ring_inside {core base k j : Nat} (h : RingSized core base k j) : base % 0x100000 + 2 ^ (k + j) ≤ 0x100000 := by
  obtain ⟨-, -, hkj, -, hal⟩ := h
  obtain ⟨m, hm⟩ : 2 ^ (k + j) ∣ 2 ^ 20 := Nat.pow_dvd_pow 2 hkj
  have hpos : 0 < 2 ^ (k + j) := Nat.two_pow_pos _
  have hdvd : 2 ^ (k + j) ∣ base % 2 ^ 20 := (Nat.dvd_mod_iff ⟨m, hm⟩).mpr (Nat.dvd_of_mod_eq_zero hal)
  obtain ⟨q, hq⟩ := hdvd
  have hlt : base % 2 ^ 20 < 2 ^ 20 := Nat.mod_lt _ (Nat.two_pow_pos _)
  have hqm : q < m := by
    rw [hq] at hlt
    rw [hm] at hlt
    exact Nat.lt_of_mul_lt_mul_left hlt
  have hle : 2 ^ (k + j) * (q + 1) ≤ 2 ^ (k + j) * m := Nat.mul_le_mul_left _ hqm
  rw [show 0x100000 = 2 ^ 20 by decide, hq, hm]
  rw [Nat.mul_succ] at hle
  exact hle

theorem bankOwned_bank (s : State) {base q : Nat} (hcore : s.cur.core < 256) (hb : base / 0x100000 = 0x00F0000000000000 / 0x100000 + s.cur.core % 256) (hq : q < 32) :
    bankOwned s s.myWho (base / 0x100000 * 0x100000 + 32768 * q) = true ↔ s.me.level ≠ .u ∨
      bitsOf (if q < 16 then (s.core s.cur.core).bankpart0 else (s.core s.cur.core).bankpart1) (4 * (q % 16) + 3) (4 * (q % 16)) = (s.core s.cur.core).partOf s.me.slot := by
  have hk : (base / 0x100000 * 0x100000 + 32768 * q) / 0x100000 % 256 = s.cur.core := by omega
  have hbank : (base / 0x100000 * 0x100000 + 32768 * q) / 32768 % 32 = q := by omega
  have hwho : s.myWho.level = s.me.level ∧ s.myWho.part = (s.core s.cur.core).partOf s.me.slot := ⟨rfl, rfl⟩
  unfold bankOwned
  dsimp only
  rw [hk, hbank, hwho.1, hwho.2]
  by_cases hu : s.me.level = .u
  · rw [if_neg (not_not.mpr hu), decide_eq_true_eq]
    exact ⟨Or.inr, fun h => h.resolve_left (not_not.mpr hu)⟩
  · rw [if_pos hu]
    exact ⟨fun _ => Or.inl hu, fun _ => rfl⟩

theorem ringOwned_iff (s : State) {base k j : Nat} (hcore : s.cur.core < 256) (h : RingSized s.cur.core base k j) :
    ringOwned s base (2 ^ (k + j)) = true ↔ RingOwned s base k j := by
  have hin := ring_inside h
  obtain ⟨-, -, -, hbase, -⟩ := h
  have hpos : 0 < 2 ^ (k + j) := Nat.two_pow_pos _
  obtain ⟨z, hz⟩ : ∃ z, z = 2 ^ (k + j) := ⟨_, rfl⟩
  have hlo : base / 32768 % 32 = base % 0x100000 / 32768 := by omega
  have hhi : (base + z - 1) / 32768 % 32 = (base % 0x100000 + z - 1) / 32768 := by omega
  have hlast : (base % 0x100000 + z - 1) / 32768 < 32 := by omega
  unfold ringOwned RingOwned
  rw [← hz, hlo, hhi, List.all_eq_true]
  simp only [List.mem_range, Bool.or_eq_true, Bool.not_eq_true', Bool.and_eq_false_iff, decide_eq_false_iff_not]
  constructor
  · intro hall
    by_cases hu : s.me.level = .u
    · refine Or.inr fun q h1 h2 => ?_
      have hq : q < 32 := lt_of_le_of_lt h2 hlast
      rcases hall q hq with (h | h) | h
      · exact absurd h1 h
      · exact absurd h2 h
      · exact ((bankOwned_bank s hcore hbase hq).mp h).resolve_left (not_not.mpr hu)
    · exact Or.inl hu
  · intro hown q hq
    by_cases h1 : base % 0x100000 / 32768 ≤ q
    · by_cases h2 : q ≤ (base % 0x100000 + z - 1) / 32768
      · exact Or.inr ((bankOwned_bank s hcore hbase hq).mpr (hown.imp id fun h => h q h1 h2))
      · exact Or.inl (Or.inr h2)
    · exact Or.inl (Or.inl h1)

/-- An enabled basin at its start. -/
def ringBasin (k j base : Nat) : Basin := { k := k, j := j, enabled := true, base := BitVec.ofNat 64 base }

theorem ring_checks {s : State} (hcore : s.cur.core < 256) (base k j : Nat) :
    (k > 8 ∨ j < 6 ∨ k + j > 20 ∨ base / 0x100000 ≠ lsBase s.cur.core / 0x100000 ∨ base % 2 ^ (k + j) ≠ 0 ∨ ringOwned s base (2 ^ (k + j)) = false) ↔
      ¬ (RingSized s.cur.core base k j ∧ RingOwned s base k j) := by
  have hls : lsBase s.cur.core / 0x100000 = 0x00F0000000000000 / 0x100000 + s.cur.core % 256 := by
    rw [lsBase]
    omega
  have hsplit : (k > 8 ∨ j < 6 ∨ k + j > 20 ∨ base / 0x100000 ≠ lsBase s.cur.core / 0x100000 ∨ base % 2 ^ (k + j) ≠ 0 ∨ ringOwned s base (2 ^ (k + j)) = false) ↔
      ¬ (RingSized s.cur.core base k j ∧ ringOwned s base (2 ^ (k + j)) = true) := by
    rw [hls, RingSized, ← Bool.not_eq_true]
    simp only [not_and_or, Nat.not_le, ne_eq, or_assoc]
  rw [hsplit, not_iff_not]
  exact and_congr_right fun hsized => ringOwned_iff s hcore hsized

/-- The control word of BSNI has the form of R189. -/
def BsniForm (n : Nat) : Prop := n / 2 ^ 6 % 4 = 0 ∧ n / 2 ^ 12 % 16 = 0 ∧ n / 2 ^ 21 = 0

theorem bsniForm_iff (w : Word) : (bitsOf w 7 6 ≠ 0 ∨ bitsOf w 15 12 ≠ 0 ∨ bitsOf w 63 21 ≠ 0) ↔ ¬ BsniForm w.toNat := by
  have hlt := w.isLt
  rw [bitsOf_eq, bitsOf_eq, bitsOf_eq, BsniForm]
  omega

section
variable {s : State} {a b : BitVec 5}

theorem bsni_malformed (h : ¬ BsniForm (s.S a).toNat) : Traps s (.bsni a b) 0x1B (s.S a) := congrArg Host.Outcome.next (if_pos ((bsniForm_iff _).mpr h))

variable (h : BsniForm (s.S a).toNat)
include h

theorem bsni_disables (hj : (s.S a).toNat / 2 ^ 16 % 32 = 0) : BasinSets s (.bsni a b) ((s.S a).toNat % 64) {} := by
  have hi : bitsOf (s.S a) 5 0 = (s.S a).toNat % 64 := by rw [bitsOf_eq]; omega
  have hj' : bitsOf (s.S a) 20 16 = 0 := by rw [bitsOf_eq]; omega
  rw [← hi]
  exact basinSets_of (by rw [hi]; omega) (congrArg Host.Outcome.next ((if_neg (fun hall => (bsniForm_iff _).mp hall h)).trans (if_pos hj')))

variable (hj : (s.S a).toNat / 2 ^ 16 % 32 ≠ 0) (hcore : s.cur.core < 256)
include hj hcore

omit h hj hcore in
theorem bsni_fields : bitsOf (s.S a) 5 0 = (s.S a).toNat % 64 ∧ bitsOf (s.S a) 11 8 = (s.S a).toNat / 2 ^ 8 % 16 ∧
    bitsOf (s.S a) 20 16 = (s.S a).toNat / 2 ^ 16 % 32 := by
  rw [bitsOf_eq, bitsOf_eq, bitsOf_eq]
  omega

theorem bsni_refused (hbad : ¬ (RingSized s.cur.core (resolveAlias s.cur.core (s.S b).toNat) ((s.S a).toNat / 2 ^ 8 % 16) ((s.S a).toNat / 2 ^ 16 % 32) ∧
      RingOwned s (resolveAlias s.cur.core (s.S b).toNat) ((s.S a).toNat / 2 ^ 8 % 16) ((s.S a).toNat / 2 ^ 16 % 32))) : Traps s (.bsni a b) 0x1B (s.S a) := by
  obtain ⟨-, hk, hj'⟩ := bsni_fields (s := s) (a := a)
  refine congrArg Host.Outcome.next ((if_neg (fun hall => (bsniForm_iff _).mp hall h)).trans ((if_neg (by rw [hj']; exact hj)).trans (if_pos ?_)))
  rw [hk, hj']
  exact (ring_checks hcore _ _ _).mpr hbad

theorem bsni_sets (hsized : RingSized s.cur.core (resolveAlias s.cur.core (s.S b).toNat) ((s.S a).toNat / 2 ^ 8 % 16) ((s.S a).toNat / 2 ^ 16 % 32))
      (hown : RingOwned s (resolveAlias s.cur.core (s.S b).toNat) ((s.S a).toNat / 2 ^ 8 % 16) ((s.S a).toNat / 2 ^ 16 % 32)) :
    BasinSets s (.bsni a b) ((s.S a).toNat % 64)
      (ringBasin ((s.S a).toNat / 2 ^ 8 % 16) ((s.S a).toNat / 2 ^ 16 % 32) (resolveAlias s.cur.core (s.S b).toNat)) := by
  obtain ⟨hi, hk, hj'⟩ := bsni_fields (s := s) (a := a)
  have hpass := mt (ring_checks hcore _ _ _).mp (not_not.mpr ⟨hsized, hown⟩)
  rw [← hk, ← hj'] at hpass
  rw [← hi, ← hk, ← hj']
  exact basinSets_of (by rw [hi]; omega)
    (congrArg Host.Outcome.next ((if_neg (fun hall => (bsniForm_iff _).mp hall h)).trans ((if_neg (by rw [hj']; exact hj)).trans (if_neg hpass))))

end

/-- Settles O24. -/
theorem basinsAct : Obligations.BasinsAct := by
  refine ⟨fun s a b => ⟨bsni_malformed, bsni_disables, fun h hj hcore => ⟨fun hbad => bsni_refused h hj hcore (fun hall => hbad hall.1),
    fun _ hbad => bsni_refused h hj hcore (fun hall => hbad hall.2), fun hsized hown => bsni_sets h hj hcore hsized hown⟩⟩,
    fun s d a => ⟨fun hfar => basin_refused (withBasin_far hfar), fun hi hen => basin_refused (withBasin_disabled hi hen), fun hi hen hclaim hcommit htake hrelease =>
      ⟨fun hfree => ?_, fun hfree => ?_, fun hsame => ?_, fun hne => ?_, bsnc_outOfTurn hi rfl hen, bsnc_commits hi rfl hen, bsnf_outOfTurn hi rfl hen, bsnf_frees hi rfl hen⟩⟩⟩
  · exact free_none hi rfl hen ((Basin.free_eq_zero hclaim hrelease).mpr hfree)
  · have hne : ((s.core s.cur.core).basin (s.S a).toNat).free ≠ 0 := fun h0 => absurd ((Basin.free_eq_zero hclaim hrelease).mp h0) (not_le.mpr hfree)
    exact ⟨bsnp_claims hi rfl hen hne, waiteFree_passes hi rfl hen hne⟩
  · exact filled_none hi rfl hen ((Basin.filled_eq_zero hcommit htake).mpr hsame)
  · have hne' := mt (Basin.filled_eq_zero hcommit htake).mp hne
    exact ⟨bsng_takes hi rfl hen hne', waiteFill_passes hi rfl hen hne'⟩

end Sys2Proof.Machine
end

section
/-! O22 (R169, R180, R181, R183, R185, R186): barrier steps, and the instructions on a barrier of their own core. -/

namespace Sys2Proof.Machine

/-! ### The steps on an entry (R180) -/

/-- The entry once its phase is complete is `barComplete`; `c` is the entry before the test. -/
def BarSettles (b : Barrier) (st : BarStep) (c : Barrier) : Prop :=
  (c.remaining = 0 → c.pending = 0 → barStep b st = (barComplete c, true)) ∧
  (c.remaining ≠ 0 ∨ c.pending ≠ 0 → barStep b st = ({ c with armed := true }, false))

theorem barSettles_of {b c : Barrier} {st : BarStep} (h : barStep b st =
    (if ({ c with armed := true } : Barrier).remaining = 0 ∧ ({ c with armed := true } : Barrier).pending = 0 then (barComplete { c with armed := true }, true)
     else ({ c with armed := true }, false))) : BarSettles b st c :=
  ⟨fun hr hp => h.trans (if_pos ⟨hr, hp⟩), fun hne => h.trans (if_neg fun hall => hne.elim (fun hr => hr hall.1) (fun hp => hp hall.2))⟩

/-- Pending bytes that 40 bits hold. -/
def Fits40 (v : Int) : Prop := -(2 ^ 39) ≤ v ∧ v < 2 ^ 39

theorem barPend_fits {b : Barrier} {x : Int} (h : Fits40 (b.pending + x)) : barPend b x = { b with pending := b.pending + x } :=
  if_neg fun hall => hall.elim (fun hlo => absurd h.1 (not_le.mpr hlo)) (fun hhi => absurd h.2 (not_lt.mpr hhi))

theorem barPend_faults {b : Barrier} {x : Int} (h : ¬ Fits40 (b.pending + x)) : barPend b x = { b with fault := true } := by
  refine if_pos ?_
  rw [Fits40, not_and_or, not_le, not_lt] at h
  exact h

theorem barStep_settles (b : Barrier) (x n : Nat) :
    BarSettles b .arrive { b with remaining := b.remaining - 1 } ∧
    (Fits40 (b.pending + x) → BarSettles b (.expect x) { b with remaining := b.remaining - 1, pending := b.pending + x }) ∧
    (¬ Fits40 (b.pending + x) → BarSettles b (.expect x) { b with remaining := b.remaining - 1, fault := true }) ∧
    (Fits40 (b.pending - n) → BarSettles b (.landed n) { b with pending := b.pending - n }) ∧
    (¬ Fits40 (b.pending - n) → BarSettles b (.landed n) { b with fault := true }) ∧ BarSettles b .fork b := by
  refine ⟨barSettles_of rfl, fun h => barSettles_of ?_, fun h => barSettles_of ?_, fun h => barSettles_of ?_, fun h => barSettles_of ?_, barSettles_of rfl⟩
  · rw [barStep]
    dsimp only
    rw [barPend_fits h]
  · rw [barStep]
    dsimp only
    rw [barPend_faults h]
  · rw [barStep]
    dsimp only
    rw [barPend_fits (by rwa [← sub_eq_add_neg]), ← sub_eq_add_neg]
  · rw [barStep]
    dsimp only
    rw [barPend_faults (by rwa [← sub_eq_add_neg])]

/-! ### What a step on a barrier leaves -/

/-- `t` has the bytes of `s` and every barrier and basin. -/
structure State.Barred (s t : State) : Prop where
  bytes : s.SameBytes t
  barriers : ∀ k, (t.core k).barriers = (s.core k).barriers

theorem State.Barred.refl (s : State) : s.Barred s := ⟨State.SameBytes.refl s, fun _ => rfl⟩

theorem State.Barred.trans {s t u : State} (h : s.Barred t) (h' : t.Barred u) : s.Barred u := ⟨h.bytes.trans h'.bytes, fun k => (h'.barriers k).trans (h.barriers k)⟩

theorem State.Barred.setCtx (s : State) (r : ThreadRef) (x : Context) : s.Barred (s.setCtx r x) where
  bytes := ⟨rfl, rfl, rfl, rfl⟩
  barriers k := by
    rw [State.core_setCtx]
    split <;> rfl

theorem State.Barred.accept (s : State) (r : ThreadRef) : s.Barred (accept s r) :=
  (State.Barred.setCtx s r _).trans ⟨⟨rfl, rfl, rfl, rfl⟩, fun _ => rfl⟩

theorem State.Barred.observeBar (s : State) (r : ThreadRef) (k i : Nat) : s.Barred (observeBar s r k i) := ⟨⟨rfl, rfl, rfl, rfl⟩, fun _ => rfl⟩

/-- The value that the barrier's answer holds for the thread until it arrives (R187). -/
theorem State.Barred.answer (s : State) (r : ThreadRef) (v : BitVec 5 × Word) :
    s.Barred (asThread s r (fun s => s.setMe { s.me with answer := some v })) := by
  have h := State.Barred.setCtx { s with cur := r } r { State.me { s with cur := r } with answer := some v }
  exact ⟨⟨rfl, rfl, rfl, rfl⟩, h.barriers⟩

theorem State.Barred.answerBar (s : State) (m : BarrierMsg) : s.Barred (answerBar s m) := by
  unfold Sys2Proof.Machine.answerBar
  dsimp only
  refine State.Barred.trans ?_ (State.Barred.accept _ _)
  split
  · exact (State.Barred.observeBar ..).trans (State.Barred.answer ..)
  · exact (State.Barred.observeBar ..).trans (State.Barred.answer ..)
  · exact State.Barred.observeBar ..
  · exact State.Barred.refl s

theorem State.Barred.foldl {α : Type} {f : State → α → State} (h : ∀ (s : State) (a : α), s.Barred (f s a)) (l : List α) (s : State) : s.Barred (l.foldl f s) := by
  induction l generalizing s with
  | nil => exact State.Barred.refl s
  | cons a l ih => exact (h s a).trans (ih (f s a))

theorem State.Barred.setCore {s : State} {k : Nat} {c : Core} (h : c.barriers = (s.core k).barriers) : s.Barred (s.setCore k c) where
  bytes := ⟨rfl, rfl, rfl, rfl⟩
  barriers j := by
    rw [State.core_setCore]
    split
    · subst j; exact h
    · rfl

theorem State.Barred.wakeAll (s : State) (k kind obj : Nat) : s.Barred (wakeAll s k kind obj) := ⟨⟨rfl, rfl, rfl, rfl⟩, fun _ => rfl⟩

theorem State.Barred.barNotify (s : State) (k i : Nat) : s.Barred (barNotify s k i) := by
  unfold Sys2Proof.Machine.barNotify
  dsimp only
  refine State.Barred.trans ?_ (State.Barred.wakeAll ..)
  refine State.Barred.trans ?_ (State.Barred.foldl State.Barred.answerBar _ _)
  exact State.Barred.setCore rfl

theorem State.Barred.barWake (s : State) (k i : Nat) : s.Barred (barWake s k i) := (State.Barred.barNotify s k i).trans (State.Barred.setCore rfl)

/-- Where no remote thread waits at the barrier, no context changes. -/
theorem State.Synced.barNotify {s : State} {k i : Nat} (h : ∀ m ∈ (s.core k).bwaiters, m.index ≠ i) :
    s.Synced (barNotify s k i) ∧ ∀ j, ((barNotify s k i).core j).basins = (s.core j).basins := by
  have hfalse {m : BarrierMsg} (hm : m ∈ (s.core k).bwaiters) : decide (m.index = i) = false := decide_eq_false (h m hm)
  have hnone : (s.core k).bwaiters.filter (fun m => decide (m.index = i) && !barWaits ((s.core k).barrier i) m.op) = [] := by
    rw [List.filter_eq_nil_iff]
    intro m hm
    rw [hfalse hm]
    exact Bool.false_ne_true
  have hall : (s.core k).bwaiters.filter (fun m => !(decide (m.index = i) && !barWaits ((s.core k).barrier i) m.op)) = (s.core k).bwaiters := by
    rw [List.filter_eq_self]
    intro m hm
    rw [hfalse hm]
    rfl
  unfold Sys2Proof.Machine.barNotify
  dsimp only
  rw [hnone, hall]
  refine ⟨(State.Synced.setCore rfl rfl).trans (State.Synced.post ..), fun j => ?_⟩
  refine (congrArg Core.basins (State.core_setCore ..) :).trans ?_
  split
  · subst j; rfl
  · rfl

theorem State.Synced.setBarrier (s : State) (k i : Nat) (b : Barrier) : s.Synced (s.setBarrier k i b) := State.Synced.setCore rfl rfl

theorem State.Synced.stampBar (s : State) (k i c : Nat) : s.Synced (stampBar s k i c) := ⟨rfl, rfl, fun _ => rfl, fun _ => rfl⟩

/-- What a step on barrier `i` of core `k` does to the state: the entry is `e`, every other barrier stands, and no byte changes; where no remote thread
waits there, it only synchronises, and no basin moves. -/
structure BarMoves (s t : State) (k i : Nat) (e : Barrier) : Prop where
  bytes : s.SameBytes t
  entry : (t.core k).barrier i = e
  others : ∀ j, j ≠ i → (t.core k).barrier j = (s.core k).barrier j
  calm : (∀ m ∈ (s.core k).bwaiters, m.index ≠ i) → s.Synced t ∧ ∀ j, (t.core j).basins = (s.core j).basins

theorem barMoves_stamped (s : State) (k i c : Nat) (e : Barrier) : BarMoves s (stampBar (s.setBarrier k i e) k i c) k i e := by
  have hcore : (stampBar (s.setBarrier k i e) k i c).core k = { s.core k with barriers := SMap.set {} (s.core k).barriers i e } := State.core_setCore_same ..
  have hget (j : Nat) : ((stampBar (s.setBarrier k i e) k i c).core k).barrier j = if j = i then e else (s.core k).barrier j := by
    rw [hcore]
    exact SMap.get_set ..
  refine ⟨⟨rfl, rfl, rfl, rfl⟩, by rw [hget, if_pos rfl], fun j hj => by rw [hget, if_neg hj], fun _ => ⟨(State.Synced.setBarrier ..).trans (State.Synced.stampBar ..), fun j => ?_⟩⟩
  refine (congrArg Core.basins (State.core_setCore s k j { s.core k with barriers := SMap.set {} (s.core k).barriers i e }) :).trans ?_
  split
  · subst j; rfl
  · rfl

/-- What comes after it, and touches no barrier, leaves such a step as it is. -/
theorem BarMoves.then {s t u : State} {k i : Nat} {e : Barrier} (h : BarMoves s t k i e) (hb : t.Barred u)
    (hc : (∀ m ∈ (t.core k).bwaiters, m.index ≠ i) → t.Synced u ∧ ∀ j, (u.core j).basins = (t.core j).basins)
    (hw : (t.core k).bwaiters = (s.core k).bwaiters) : BarMoves s u k i e where
  bytes := h.bytes.trans hb.bytes
  entry := by rw [Core.barrier, hb.barriers]; exact h.entry
  others j hj := by rw [Core.barrier, hb.barriers]; exact h.others j hj
  calm hcalm := by
    obtain ⟨h1, h2⟩ := h.calm hcalm
    obtain ⟨h3, h4⟩ := hc (by rw [hw]; exact hcalm)
    exact ⟨h1.trans h3, fun j => (h4 j).trans (h2 j)⟩

theorem stamped_bwaiters (s : State) (k i c : Nat) (e : Barrier) : ((stampBar (s.setBarrier k i e) k i c).core k).bwaiters = (s.core k).bwaiters :=
  (congrArg Core.bwaiters (State.core_setCore_same s k { s.core k with barriers := SMap.set {} (s.core k).barriers i e }) :)

theorem barInit_moves (s : State) (k i n part clk : Nat) : BarMoves s (barInit s k i n part clk) k i { part := part, expected := n, remaining := n } :=
  (barMoves_stamped ..).then (State.Barred.barNotify ..) State.Synced.barNotify (stamped_bwaiters ..)

theorem barWake_calm {s : State} {k i : Nat} (h : ∀ m ∈ (s.core k).bwaiters, m.index ≠ i) :
    s.Synced (barWake s k i) ∧ ∀ j, ((barWake s k i).core j).basins = (s.core j).basins := by
  obtain ⟨h1, h2⟩ := State.Synced.barNotify h
  refine ⟨h1.trans (State.Synced.pulse ..), fun j => ?_⟩
  refine (congrArg Core.basins (State.core_setCore ..) :).trans ?_
  split
  · subst j; exact h2 k
  · exact h2 j

theorem barDo_moves (s : State) (k i : Nat) (st : BarStep) (clk : Nat) : BarMoves s (barDo s k i st clk) k i (barStep ((s.core k).barrier i) st).1 := by
  unfold barDo
  dsimp only
  split
  · exact (barMoves_stamped ..).then (State.Barred.barWake ..) barWake_calm (stamped_bwaiters ..)
  · exact barMoves_stamped ..

/-! ### The instructions on a barrier of their own core -/

theorem handle_fields (h : BitVec 32) : handleCore h = h.toNat / 2 ^ 11 % 256 ∧ handleIndex h = h.toNat % 2 ^ 11 := by
  rw [handleCore, handleIndex, bitsOf_eq, bitsOf_eq]
  omega

section
variable {s : State} {h : BitVec 32} (hv : handleValid h = true)
include hv

theorem barrierInstr_local (hk : handleCore h = s.cur.core) (op : BarOp) (d : BitVec 5) (val waits : Bool) : barrierInstr s h op d val waits =
    match barOp s s.cur.core (handleIndex h) op s.myPart (isUser s) (s.clkOf s.cur + 1) with
      | none => trap s 0x1A (h.setWidth 64)
      | some (false, s) => leave s 3 h.toNat .reissue
      | some (true, t) =>
        let v := barStatus ((t.core s.cur.core).barrier (handleIndex h))
        let t := if waits then observeBar t t.cur s.cur.core (handleIndex h) else t.setClk t.cur (s.clkOf s.cur + 1)
        if val then writeRetire t d v else retire t := by
  rw [barrierInstr, if_neg (by rw [hv]; decide)]
  dsimp only
  rw [if_pos hk, hk] <;> rfl

end

/-- An instruction has made a step on barrier `i` of its core, which leaves `e`. -/
def BarDoes (s : State) (n : Instr) (i : Nat) (e : Barrier) : Prop :=
  (∃ u, exec n s = .next (boundary u) ∧ s.SameBytes u ∧ (u.core s.cur.core).barrier i = e ∧
    ∀ j, j ≠ i → (u.core s.cur.core).barrier j = (s.core s.cur.core).barrier j) ∧
  ((∀ m ∈ (s.core s.cur.core).bwaiters, m.index ≠ i) → ∃ u, Acts s n s.me u ∧ (u.core s.cur.core).barrier i = e ∧
    (∀ j, j ≠ i → (u.core s.cur.core).barrier j = (s.core s.cur.core).barrier j) ∧ ∀ j, (u.core s.cur.core).basin j = (s.core s.cur.core).basin j)

theorem barDoes_of {s t : State} {n : Instr} {i c : Nat} {e : Barrier} (he : exec n s = .next (retire (t.setClk t.cur c))) (h : BarMoves s t s.cur.core i e) :
    BarDoes s n i e := by
  have hbar (x : Context) (j : Nat) : (((t.setClk t.cur c).setMe x).core s.cur.core).barrier j = (t.core s.cur.core).barrier j := by
    rw [Core.barrier, (State.core_setMe_fields (t.setClk t.cur c) x s.cur.core).2]
    rfl
  refine ⟨⟨(t.setClk t.cur c).setMe (advance (t.setClk t.cur c).me), he, h.bytes.trans ⟨rfl, rfl, rfl, rfl⟩, by rw [hbar, h.entry], fun j hj => by rw [hbar, h.others j hj]⟩, fun hcalm => ?_⟩
  obtain ⟨hst, hbasins⟩ := h.calm hcalm
  obtain ⟨u, hu, hcore⟩ := acts_retire he (hst.trans (State.Synced.setClk ..))
  obtain ⟨hub, hubar⟩ := hcore s.cur.core
  have hubar' (j : Nat) : (u.core s.cur.core).barrier j = (t.core s.cur.core).barrier j := by
    rw [Core.barrier, hubar]
    rfl
  refine ⟨u, hu, by rw [hubar', h.entry], fun j hj => by rw [hubar', h.others j hj], fun j => ?_⟩
  rw [Core.basin, hub]
  exact congrArg (fun m : SMap Basin => SMap.get ({} : Basin) m j) (hbasins s.cur.core)

/-- A party that may not touch an initialised entry (R181). -/
def BarAlien (s : State) (b : Barrier) : Prop := decide (s.me.level = .u) = true ∧ b.part ≠ (s.core s.cur.core).partOf s.me.slot

theorem barDenied_iff (s : State) (b : Barrier) : barDenied b s.myPart (isUser s) = true ↔ b.expected = 0 ∨ BarAlien s b := by
  rw [barDenied, Bool.or_eq_true, Bool.and_eq_true, decide_eq_true_eq, decide_eq_true_eq]
  exact Iff.rfl

theorem initMisuse_iff (s : State) (b : Barrier) : initMisuse b s.myPart (isUser s) = true ↔ (b.expected ≠ 0 ∧ BarAlien s b) ∨ b.armed = true := by
  rw [initMisuse, Bool.or_eq_true, Bool.and_eq_true, Bool.and_eq_true, decide_eq_true_eq, decide_eq_true_eq, and_assoc]
  exact Iff.rfl

/-- The counting steps, which an entry with no arrivals left refuses. -/
theorem barMisuse_counts {s : State} {b : Barrier} {st : BarStep} (hst : st = .arrive ∨ ∃ x, st = .expect x) :
    barMisuse b st s.myPart (isUser s) = true ↔ (b.expected = 0 ∨ BarAlien s b) ∨ b.remaining = 0 := by
  have hboth : (barDenied b s.myPart (isUser s) || decide (b.remaining = 0)) = true ↔ (b.expected = 0 ∨ BarAlien s b) ∨ b.remaining = 0 := by
    rw [Bool.or_eq_true, barDenied_iff, decide_eq_true_eq]
  rcases hst with rfl | ⟨x, rfl⟩
  · exact hboth
  · exact hboth

section
variable {s : State} {d : BitVec 5} {h : BitVec 4} {c : BitVec 5} (hv : (s.B h).getLsbD 19 = true) (hk : (s.B h).toNat / 2 ^ 11 % 256 = s.cur.core)
include hv hk

theorem barrierInstr_none {op : BarOp} (ho : barOp s s.cur.core ((s.B h).toNat % 2 ^ 11) op s.myPart (isUser s) (s.clkOf s.cur + 1) = none)
    (d : BitVec 5) (val waits : Bool) : barrierInstr s (s.B h) op d val waits = trap s 0x1A ((s.B h).setWidth 64) := by
  rw [barrierInstr_local (s := s) (h := s.B h) hv ((handle_fields _).1.trans hk), (handle_fields (s.B h)).2, ho]

theorem barrierInstr_waits {op : BarOp} {t : State} (ho : barOp s s.cur.core ((s.B h).toNat % 2 ^ 11) op s.myPart (isUser s) (s.clkOf s.cur + 1) = some (false, t))
    (d : BitVec 5) (val waits : Bool) : barrierInstr s (s.B h) op d val waits = leave t 3 (s.B h).toNat .reissue := by
  rw [barrierInstr_local (s := s) (h := s.B h) hv ((handle_fields _).1.trans hk), (handle_fields (s.B h)).2, ho]

theorem barrierInstr_passes {op : BarOp} {t : State} (ho : barOp s s.cur.core ((s.B h).toNat % 2 ^ 11) op s.myPart (isUser s) (s.clkOf s.cur + 1) = some (true, t))
    (d : BitVec 5) (val waits : Bool) : barrierInstr s (s.B h) op d val waits =
      (let u := if waits then observeBar t t.cur s.cur.core ((s.B h).toNat % 2 ^ 11) else t.setClk t.cur (s.clkOf s.cur + 1)
       if val then writeRetire u d (barStatus ((t.core s.cur.core).barrier ((s.B h).toNat % 2 ^ 11))) else retire u) := by
  rw [barrierInstr_local (s := s) (h := s.B h) hv ((handle_fields _).1.trans hk), (handle_fields (s.B h)).2, ho]

theorem barrierInstr_status {op : BarOp} {t : State} (ho : barOp s s.cur.core ((s.B h).toNat % 2 ^ 11) op s.myPart (isUser s) (s.clkOf s.cur + 1) = some (true, t))
    (d : BitVec 5) : barrierInstr s (s.B h) op d true true =
      writeRetire (observeBar t t.cur s.cur.core ((s.B h).toNat % 2 ^ 11)) d (barStatus ((t.core s.cur.core).barrier ((s.B h).toNat % 2 ^ 11))) :=
  (barrierInstr_passes hv hk ho d true true).trans ((if_pos rfl).trans (by rw [if_pos rfl]))

theorem barrierInstr_observes {op : BarOp} {t : State} (ho : barOp s s.cur.core ((s.B h).toNat % 2 ^ 11) op s.myPart (isUser s) (s.clkOf s.cur + 1) = some (true, t))
    (d : BitVec 5) : barrierInstr s (s.B h) op d false true = retire (observeBar t t.cur s.cur.core ((s.B h).toNat % 2 ^ 11)) :=
  (barrierInstr_passes hv hk ho d false true).trans ((if_neg Bool.false_ne_true).trans (by rw [if_pos rfl]))

/-- A step of the instruction on its barrier. -/
theorem barDoes_step {n : Instr} {op : BarOp} {t : State} {e : Barrier} (hn : exec n s = .next (barrierInstr s (s.B h) op 0 false false))
    (ho : barOp s s.cur.core ((s.B h).toNat % 2 ^ 11) op s.myPart (isUser s) (s.clkOf s.cur + 1) = some (true, t)) (ht : BarMoves s t s.cur.core ((s.B h).toNat % 2 ^ 11) e) :
    BarDoes s n ((s.B h).toNat % 2 ^ 11) e := by
  rw [barrierInstr_passes hv hk ho] at hn
  exact barDoes_of hn ht

omit hk in
theorem binit_count (hc : (s.S c).toNat < 1 ∨ 2 ^ 16 ≤ (s.S c).toNat) : Traps s (.binit h c) 0x1A ((s.B h).setWidth 64) :=
  congrArg Host.Outcome.next ((if_neg (by rw [handleValid, hv]; decide)).trans (if_pos (by omega)))

omit hk in
theorem execBinit_eq (h1 : 1 ≤ (s.S c).toNat) (h2 : (s.S c).toNat < 2 ^ 16) : exec (.binit h c) s = .next (barrierInstr s (s.B h) (.init (s.S c)) 0 false false) :=
  congrArg Host.Outcome.next ((if_neg (by rw [handleValid, hv]; decide)).trans (if_neg (by omega)))

omit hk in
theorem bexp_bytes (hc : 2 ^ 39 ≤ (s.S c).toNat) : Traps s (.bexp h c) 0x01 (s.S c) :=
  congrArg Host.Outcome.next ((if_neg (by rw [handleValid, hv]; decide)).trans (if_pos hc))

omit hk in
theorem execBexp_eq (hc : (s.S c).toNat < 2 ^ 39) : exec (.bexp h c) s = .next (barrierInstr s (s.B h) (.expect (s.S c)) 0 false false) :=
  congrArg Host.Outcome.next ((if_neg (by rw [handleValid, hv]; decide)).trans (if_neg (by omega)))

variable {b : Barrier} (hb : (s.core s.cur.core).barrier ((s.B h).toNat % 2 ^ 11) = b)
include hb

theorem binit_traps (h1 : 1 ≤ (s.S c).toNat) (h2 : (s.S c).toNat < 2 ^ 16) (hm : (b.expected ≠ 0 ∧ BarAlien s b) ∨ b.armed = true) :
    Traps s (.binit h c) 0x1A ((s.B h).setWidth 64) := by
  refine (execBinit_eq hv h1 h2).trans (congrArg Host.Outcome.next (barrierInstr_none hv hk ?_ _ _ _))
  rw [barOp, hb]
  exact if_pos ((initMisuse_iff s b).mpr hm)

theorem binit_sets (h1 : 1 ≤ (s.S c).toNat) (h2 : (s.S c).toNat < 2 ^ 16) (hm : ¬ ((b.expected ≠ 0 ∧ BarAlien s b) ∨ b.armed = true)) :
    BarDoes s (.binit h c) ((s.B h).toNat % 2 ^ 11) { part := (s.core s.cur.core).partOf s.me.slot, expected := (s.S c).toNat, remaining := (s.S c).toNat } := by
  refine barDoes_step hv hk (execBinit_eq hv h1 h2) ?_ (barInit_moves s s.cur.core _ _ _ (s.clkOf s.cur + 1))
  rw [barOp, hb]
  exact if_neg (mt (initMisuse_iff s b).mp hm)

/-- What refuses every operation on an initialised entry but BINIT. -/
theorem bar_denied (hd : b.expected = 0 ∨ BarAlien s b) : Traps s (.barr h) 0x1A ((s.B h).setWidth 64) ∧
    ((s.S c).toNat < 2 ^ 39 → Traps s (.bexp h c) 0x1A ((s.B h).setWidth 64)) ∧ Traps s (.btest d h) 0x1A ((s.B h).setWidth 64) ∧
    Traps s (.bwait d h c) 0x1A ((s.B h).setWidth 64) ∧ Traps s (.waite h) 0x1A ((s.B h).setWidth 64) := by
  have hdenied := (barDenied_iff s b).mpr hd
  refine ⟨congrArg Host.Outcome.next (barrierInstr_none hv hk ?_ _ _ _), fun hc => (execBexp_eq hv hc).trans (congrArg Host.Outcome.next (barrierInstr_none hv hk ?_ _ _ _)),
    congrArg Host.Outcome.next (barrierInstr_none hv hk ?_ _ _ _), congrArg Host.Outcome.next (barrierInstr_none hv hk ?_ _ _ _),
    congrArg Host.Outcome.next (barrierInstr_none hv hk ?_ _ _ _)⟩
  all_goals rw [barOp, hb]
  · exact if_pos ((barMisuse_counts (Or.inl rfl)).mpr (Or.inl hd))
  · exact if_pos ((barMisuse_counts (Or.inr ⟨_, rfl⟩)).mpr (Or.inl hd))
  · exact if_pos hdenied
  · exact if_pos hdenied
  · exact if_pos hdenied

theorem bar_exhausted (hr : b.remaining = 0) : Traps s (.barr h) 0x1A ((s.B h).setWidth 64) ∧
    ((s.S c).toNat < 2 ^ 39 → Traps s (.bexp h c) 0x1A ((s.B h).setWidth 64)) := by
  refine ⟨congrArg Host.Outcome.next (barrierInstr_none hv hk ?_ _ _ _), fun hc => (execBexp_eq hv hc).trans (congrArg Host.Outcome.next (barrierInstr_none hv hk ?_ _ _ _))⟩
  all_goals rw [barOp, hb]
  · exact if_pos ((barMisuse_counts (Or.inl rfl)).mpr (Or.inr hr))
  · exact if_pos ((barMisuse_counts (Or.inr ⟨_, rfl⟩)).mpr (Or.inr hr))

variable (hd : ¬ (b.expected = 0 ∨ BarAlien s b))
include hd

theorem bar_counts (hr : b.remaining ≠ 0) : BarDoes s (.barr h) ((s.B h).toNat % 2 ^ 11) (barStep b .arrive).1 ∧
    ((s.S c).toNat < 2 ^ 39 → BarDoes s (.bexp h c) ((s.B h).toNat % 2 ^ 11) (barStep b (.expect (s.S c).toNat)).1) := by
  have hok {st : BarStep} (hst : st = .arrive ∨ ∃ x, st = .expect x) : ¬ barMisuse b st s.myPart (isUser s) = true := fun hm => by
    rcases (barMisuse_counts hst).mp hm with h | h
    · exact hd h
    · exact hr h
  have hmoves (st : BarStep) := barDo_moves s s.cur.core ((s.B h).toNat % 2 ^ 11) st (s.clkOf s.cur + 1)
  rw [hb] at hmoves
  refine ⟨barDoes_step hv hk rfl ?_ (hmoves .arrive), fun hc => barDoes_step hv hk (execBexp_eq hv hc) ?_ (hmoves (.expect (s.S c).toNat))⟩
  all_goals rw [barOp, hb]
  · exact if_neg (hok (Or.inl rfl))
  · exact if_neg (hok (Or.inr ⟨_, rfl⟩))

omit hd in
/-- Reading the entry's status into S[d]. -/
theorem observes_status {n : Instr} {op : BarOp} (hn : exec n s = .next (barrierInstr s (s.B h) op d true true))
    (ho : barOp s s.cur.core ((s.B h).toNat % 2 ^ 11) op s.myPart (isUser s) (s.clkOf s.cur + 1) = some (true, s)) : Observes s n (s.me.writeS d (barStatus b)) := by
  rw [barrierInstr_status hv hk ho, hb] at hn
  obtain ⟨u, hu, hr⟩ := writeRetire_only (observeBar s s.cur s.cur.core ((s.B h).toNat % 2 ^ 11)) d (barStatus b)
  exact ⟨_, u, hu, hn.trans (congrArg Host.Outcome.next hr)⟩

theorem bar_watches : Observes s (.btest d h) (s.me.writeS d (barStatus b)) ∧
    (b.phase ≠ (s.S c).getLsbD 0 → Observes s (.bwait d h c) (s.me.writeS d (barStatus b))) ∧
    (b.phase = (s.S c).getLsbD 0 → Retries s (.bwait d h c) 3 (s.B h).toNat) ∧
    (b.armed = false → Observes s (.waite h) s.me) ∧ (b.armed = true → Retries s (.waite h) 3 (s.B h).toNat) := by
  have hden : ¬ barDenied b s.myPart (isUser s) = true := mt (barDenied_iff s b).mp hd
  refine ⟨observes_status hv hk hb rfl ?_, fun hp => observes_status hv hk hb rfl ?_, fun hp => ?_, fun ha => ?_, fun ha => ?_⟩
  · rw [barOp, hb]
    exact if_neg hden
  · rw [barOp, hb]
    exact (if_neg hden).trans (by rw [decide_eq_true hp])
  · refine retries_with (congrArg Host.Outcome.next (barrierInstr_waits hv hk (t := s) ?_ _ _ _)) (State.Keeps.refl s)
    rw [barOp, hb]
    exact (if_neg hden).trans (by rw [decide_eq_false (not_not.mpr hp)])
  · obtain ⟨u, hu, hr⟩ := retire_only (observeBar s s.cur s.cur.core ((s.B h).toNat % 2 ^ 11))
    have ho : barOp s s.cur.core ((s.B h).toNat % 2 ^ 11) .disarmed s.myPart (isUser s) (s.clkOf s.cur + 1) = some (true, s) := by
      rw [barOp, hb]
      exact (if_neg hden).trans (by rw [ha]; rfl)
    have hn : exec (.waite h) s = .next (barrierInstr s (s.B h) .disarmed 0 false true) := rfl
    rw [barrierInstr_observes hv hk ho] at hn
    exact ⟨_, u, hu, hn.trans (congrArg Host.Outcome.next hr)⟩
  · refine retries_with (congrArg Host.Outcome.next (barrierInstr_waits hv hk (t := s) ?_ _ _ _)) (State.Keeps.refl s)
    rw [barOp, hb]
    exact (if_neg hden).trans (by rw [ha]; rfl)

end

/-- Settles O22. -/
theorem barriersFollowTheRule : Obligations.BarriersFollowTheRule := by
  refine ⟨fun b x n => ?_, fun s d h c hv hk => ⟨binit_count hv, fun h1 h2 => ⟨binit_traps hv hk rfl h1 h2, fun hm ha => ?_⟩, bexp_bytes hv, bar_denied hv hk rfl, fun he hal => ?_⟩⟩
  · obtain ⟨h1, h2, h3, h4, h5, h6⟩ := barStep_settles b x n
    exact ⟨h1, h2, h3, h4, h5, h6, rfl⟩
  · exact binit_sets hv hk rfl h1 h2 (fun hall => hall.elim hm (fun e => by rw [ha] at e; cases e))
  · have hd : ¬ (((s.core s.cur.core).barrier ((s.B h).toNat % 2 ^ 11)).expected = 0 ∨ BarAlien s ((s.core s.cur.core).barrier ((s.B h).toNat % 2 ^ 11))) := not_or.mpr ⟨he, hal⟩
    exact ⟨bar_exhausted hv hk rfl, bar_counts hv hk rfl hd, bar_watches hv hk rfl hd⟩

end Sys2Proof.Machine
end

section
/-! O23 (R89, R169, R173, R181, R182, R184, R187): barrier instructions on another core, and their messages at the barrier. -/

namespace Sys2Proof.Machine

/-! ### Sending -/

section
variable {s : State} {d : BitVec 5} {h : BitVec 4} {c : BitVec 5}

theorem barrier_badHandle (hv : (s.B h).getLsbD 19 = false) : Traps s (.binit h c) 0x1A ((s.B h).setWidth 64) ∧ Traps s (.barr h) 0x1A ((s.B h).setWidth 64) ∧
    Traps s (.bexp h c) 0x1A ((s.B h).setWidth 64) ∧ Traps s (.bwait d h c) 0x1A ((s.B h).setWidth 64) ∧ Traps s (.btest d h) 0x1A ((s.B h).setWidth 64) ∧
    Traps s (.waite h) 0x1A ((s.B h).setWidth 64) := by
  have hbad : (!handleValid (s.B h)) = true := by rw [handleValid, hv]; rfl
  exact ⟨congrArg Host.Outcome.next (if_pos hbad), congrArg Host.Outcome.next (if_pos hbad), congrArg Host.Outcome.next (if_pos hbad),
    congrArg Host.Outcome.next (if_pos hbad), congrArg Host.Outcome.next (if_pos hbad), congrArg Host.Outcome.next (if_pos hbad)⟩

variable (hv : (s.B h).getLsbD 19 = true) (hk : (s.B h).toNat / 2 ^ 11 % 256 ≠ s.cur.core)
include hv hk

/-- An operation on a barrier of another core is a message (R182). -/
theorem barrier_sends {n : Instr} {op : BarOp} {d : BitVec 5} {val waits : Bool} (hn : exec n s = .next (barrierInstr s (s.B h) op d val waits)) :
    Sends s n s.me (if waits then 3 else 9) (s.B h).toNat (.remoteBarrierOperation ⟨(s.B h).toNat / 2 ^ 11 % 256, (s.B h).toNat % 2 ^ 11, op,
      (s.core s.cur.core).partOf s.me.slot, decide (s.me.level = .u), s.cur, d, s.clkOf s.cur + 1⟩) := by
  obtain ⟨hcore, hindex⟩ := handle_fields (s.B h)
  rw [barrierInstr, if_neg (by rw [handleValid, hv]; decide)] at hn
  dsimp only at hn
  rw [hcore, hindex, if_neg hk] at hn
  exact sends_of hn (State.Keeps.setClk s s.cur _).touches (State.Keeps.setClk s s.cur _).bytes

end

theorem handleForm_iff (v : Word) : handleForm v = true ↔ v.toNat < 2 ^ 20 := by
  have := v.isLt
  rw [handleForm, decide_eq_true_eq, bitsOf_eq]
  omega

theorem bhset_sets {s : State} {h : BitVec 4} {c : BitVec 5} (hc : (s.S c).toNat < 2 ^ 20) : ∃ y, Completes s (.bhset h c) y ∧
    (∀ j, y.readB j = if j = h ∧ h ≠ 0 then (s.S c).setWidth 32 else s.me.readB j) ∧ { y with handles := s.me.handles } = s.me := by
  obtain ⟨u, hu, hr⟩ := retire_setMe s (s.me.writeB h ((s.S c).setWidth 32))
  have he : exec (.bhset h c) s = .next (retire (s.setB h ((s.S c).setWidth 32))) := congrArg Host.Outcome.next (if_pos ((handleForm_iff _).mpr hc))
  refine ⟨s.me.writeB h ((s.S c).setWidth 32), ⟨u, hu, he.trans (congrArg Host.Outcome.next hr)⟩, fun j => ?_, ?_⟩
  · rw [Context.readB_writeB]
    by_cases hj : j = 0
    · rw [if_pos hj, if_neg (fun hall => hall.2 (hall.1 ▸ hj)), Context.readB, if_pos hj]
    · rw [if_neg hj]
      exact if_congr ⟨fun e => ⟨e, e ▸ hj⟩, And.left⟩ rfl rfl
  · unfold Context.writeB
    split <;> rfl

/-! ### At the barrier -/

/-- The sender of `m` is answered: the registers of its context are those of `y`, and its reply is on the way. -/
structure BarAnswered (s u : State) (m : BarrierMsg) (y : Context) : Prop where
  bytes : s.SameBytes u
  barriers : ∀ k, (u.core k).barriers = (s.core k).barriers
  regs : ∀ r, (u.ctxOf r).regs = if r = m.who then y.regs else (s.ctxOf r).regs
  pend : (u.ctxOf m.who).pend = .reply
  reply : .memoryReply m.who.core m.who.ctx ∈ u.agenda

theorem barAnswered_accept {s t : State} {m : BarrierMsg} {y : Context} (hb : s.Barred t) (hr : ∀ r, (t.ctxOf r).regs = if r = m.who then y.regs else (s.ctxOf r).regs) :
    BarAnswered s (accept t m.who) m y where
  bytes := hb.bytes.trans (State.Barred.accept ..).bytes
  barriers k := ((State.Barred.accept ..).barriers k).trans (hb.barriers k)
  regs r := (accept_regs t m.who r).trans (hr r)
  pend := by rw [accept_ctxOf, if_pos rfl]
  reply := accept_reply t m.who

/-- The context of the sender once its answer holds `v`. -/
theorem answer_ctxOf (s : State) (r q : ThreadRef) (v : BitVec 5 × Word) :
    (asThread s r (fun s => s.setMe { s.me with answer := some v })).ctxOf q = if q = r then { s.ctxOf r with answer := some v } else s.ctxOf q :=
  State.ctxOf_setMe { s with cur := r } { s.ctxOf r with answer := some v } q

theorem answerBar_plain {s : State} {m : BarrierMsg} (h : (∃ n, m.op = .init n) ∨ m.op = .arrive ∨ (∃ n, m.op = .expect n) ∨ m.op = .disarmed) :
    BarAnswered s (answerBar s m) m (s.ctxOf m.who) := by
  have hsame (r : ThreadRef) : (s.ctxOf r).regs = if r = m.who then (s.ctxOf m.who).regs else (s.ctxOf r).regs := by
    split
    · subst r; rfl
    · rfl
  unfold answerBar
  dsimp only
  rcases h with ⟨n, h⟩ | h | ⟨n, h⟩ | h
  all_goals rw [h]
  · exact barAnswered_accept (State.Barred.refl s) hsame
  · exact barAnswered_accept (State.Barred.refl s) hsame
  · exact barAnswered_accept (State.Barred.refl s) hsame
  · exact barAnswered_accept (State.Barred.observeBar ..) hsame

theorem answerBar_status {s : State} {m : BarrierMsg} (h : m.op = .test ∨ ∃ p, m.op = .wait p) :
    BarAnswered s (answerBar s m) m { s.ctxOf m.who with answer := some (m.d, barStatus ((s.core m.core).barrier m.index)) } := by
  have hregs (r : ThreadRef) : ((asThread (observeBar s m.who m.core m.index) m.who
      (fun s' => s'.setMe { s'.me with answer := some (m.d, barStatus ((s.core m.core).barrier m.index)) })).ctxOf r).regs =
        if r = m.who then ({ s.ctxOf m.who with answer := some (m.d, barStatus ((s.core m.core).barrier m.index)) } : Context).regs else (s.ctxOf r).regs := by
    rw [answer_ctxOf]
    split <;> rfl
  unfold answerBar
  dsimp only
  rcases h with h | ⟨p, h⟩
  all_goals rw [h]
  · exact barAnswered_accept ((State.Barred.observeBar ..).trans (State.Barred.answer ..)) hregs
  · exact barAnswered_accept ((State.Barred.observeBar ..).trans (State.Barred.answer ..)) hregs

section
variable {s : State} {m : BarrierMsg} (ha : Awaits s m.who) (hk : m.core < 256) (hi : m.index < 2048)
include ha hk hi

/-- What the message does at its barrier. -/
theorem remoteBarrier_eq : exec (.remoteBarrierOperation m) s = .next (match barOp s m.core m.index m.op m.part m.user m.clk with
      | none => refuse s m.who (0x1A, BitVec.ofNat 64 (handleOf m.core m.index))
      | some (false, s) => s.setCore m.core { s.core m.core with bwaiters := (s.core m.core).bwaiters ++ [m] }
      | some (true, s) => answerBar s m) := by
  show execRemoteBarrierOperation m s = _
  rw [execRemoteBarrierOperation, if_neg (by simp [coreExists, hk, ha.exists]; omega), if_neg (by rw [ha.waits]; decide)] <;> rfl

theorem remoteBarrier_misuse (h : barOp s m.core m.index m.op m.part m.user m.clk = none) :
    TrapsThread s (.remoteBarrierOperation m) s m.who 0x1A (BitVec.ofNat 64 (2 ^ 19 + m.core * 2 ^ 11 + m.index)) := by
  have hh : handleOf m.core m.index = 2 ^ 19 + m.core * 2 ^ 11 + m.index := by
    rw [handleOf, Nat.mod_eq_of_lt hk, Nat.mod_eq_of_lt (show m.index < 2 ^ 11 by omega)]
  rw [TrapsThread, remoteBarrier_eq ha hk hi, h, ← hh]
  rfl

theorem remoteBarrier_stands {t : State} (h : barOp s m.core m.index m.op m.part m.user m.clk = some (false, t)) (ht : t = s) :
    exec (.remoteBarrierOperation m) s = .next (s.setCore m.core { s.core m.core with bwaiters := (s.core m.core).bwaiters ++ [m] }) := by
  rw [remoteBarrier_eq ha hk hi, h, ht]

theorem remoteBarrier_answers {t : State} (h : barOp s m.core m.index m.op m.part m.user m.clk = some (true, t)) :
    exec (.remoteBarrierOperation m) s = .next (answerBar t m) := by
  rw [remoteBarrier_eq ha hk hi, h]

end

/-- The message took effect at its barrier, which leaves `e`, and its sender is answered with the registers of `y`. -/
def BarServed (s : State) (m : BarrierMsg) (e : Barrier) (y : Context) : Prop :=
  ∃ u, exec (.remoteBarrierOperation m) s = .next u ∧ s.SameBytes u ∧ (u.core m.core).barrier m.index = e ∧
    (∀ j, j ≠ m.index → (u.core m.core).barrier j = (s.core m.core).barrier j) ∧ (∀ r, (u.ctxOf r).regs = if r = m.who then y.regs else (s.ctxOf r).regs) ∧
    (u.ctxOf m.who).pend = .reply ∧ .memoryReply m.who.core m.who.ctx ∈ u.agenda

section
variable {s : State} {m : BarrierMsg} (ha : Awaits s m.who) (hk : m.core < 256) (hi : m.index < 2048)
  (hcalm : ∀ n ∈ (s.core m.core).bwaiters, n.index ≠ m.index)
include ha hk hi hcalm

/-- A step on the entry, answered. -/
theorem barServed_step {t : State} {e : Barrier} (ho : barOp s m.core m.index m.op m.part m.user m.clk = some (true, t)) (ht : BarMoves s t m.core m.index e)
    (hop : (∃ n, m.op = .init n) ∨ m.op = .arrive ∨ (∃ n, m.op = .expect n) ∨ m.op = .disarmed) : BarServed s m e (s.ctxOf m.who) := by
  have hans := answerBar_plain (s := t) hop
  obtain ⟨hst, -⟩ := ht.calm hcalm
  refine ⟨_, remoteBarrier_answers ha hk hi ho, ht.bytes.trans hans.bytes, ?_, fun j hj => ?_, fun r => ?_, hans.pend, hans.reply⟩
  · rw [Core.barrier, hans.barriers]
    exact ht.entry
  · rw [Core.barrier, hans.barriers]
    exact ht.others j hj
  · rw [hans.regs, hst.ctxOf, hst.ctxOf]

omit hcalm in
/-- A look at the entry, answered. -/
theorem barServed_look {y : Context} (ho : barOp s m.core m.index m.op m.part m.user m.clk = some (true, s)) (hans : BarAnswered s (answerBar s m) m y) :
    BarServed s m ((s.core m.core).barrier m.index) y :=
  ⟨_, remoteBarrier_answers ha hk hi ho, hans.bytes, by rw [Core.barrier, hans.barriers]; rfl, fun j _ => by rw [Core.barrier, hans.barriers]; rfl, hans.regs, hans.pend, hans.reply⟩

variable {b : Barrier} (hb : (s.core m.core).barrier m.index = b)
include hb

theorem remoteInit {n : Word} (hop : m.op = .init n) :
    ((b.expected ≠ 0 ∧ m.user = true ∧ b.part ≠ m.part) ∨ b.armed = true →
      TrapsThread s (.remoteBarrierOperation m) s m.who 0x1A (BitVec.ofNat 64 (2 ^ 19 + m.core * 2 ^ 11 + m.index))) ∧
    (¬ (b.expected ≠ 0 ∧ m.user = true ∧ b.part ≠ m.part) → b.armed = false →
      BarServed s m { part := m.part, expected := n.toNat, remaining := n.toNat } (s.ctxOf m.who)) := by
  have hiff : initMisuse b m.part m.user = true ↔ (b.expected ≠ 0 ∧ m.user = true ∧ b.part ≠ m.part) ∨ b.armed = true := by
    rw [initMisuse, Bool.or_eq_true, Bool.and_eq_true, Bool.and_eq_true, decide_eq_true_eq, decide_eq_true_eq, and_assoc]
  refine ⟨fun hm => remoteBarrier_misuse ha hk hi ?_, fun hm harmed => barServed_step ha hk hi hcalm ?_ (barInit_moves s m.core m.index n.toNat m.part m.clk) (Or.inl ⟨n, hop⟩)⟩
  · rw [hop, barOp, hb]
    exact if_pos (hiff.mpr hm)
  · rw [hop, barOp, hb]
    exact if_neg (fun hall => (hiff.mp hall).elim hm (fun e => by rw [harmed] at e; cases e))

omit hcalm in
theorem remote_denied (hop : ∀ n, m.op ≠ .init n) (hd : b.expected = 0 ∨ m.user = true ∧ b.part ≠ m.part) :
    TrapsThread s (.remoteBarrierOperation m) s m.who 0x1A (BitVec.ofNat 64 (2 ^ 19 + m.core * 2 ^ 11 + m.index)) := by
  have hden : barDenied b m.part m.user = true := by
    rw [barDenied, Bool.or_eq_true, Bool.and_eq_true, decide_eq_true_eq, decide_eq_true_eq]
    exact hd
  have hmis (st : BarStep) : barMisuse b st m.part m.user = true := Bool.or_eq_true_iff.mpr (Or.inl hden)
  refine remoteBarrier_misuse ha hk hi ?_
  cases h : m.op with
  | init n => exact absurd h (hop n)
  | arrive => rw [barOp, hb]; exact if_pos (hmis _)
  | expect x => rw [barOp, hb]; exact if_pos (hmis _)
  | test => rw [barOp, hb]; exact if_pos hden
  | wait p => rw [barOp, hb]; exact if_pos hden
  | disarmed => rw [barOp, hb]; exact if_pos hden

variable (hne : b.expected ≠ 0) (hal : ¬ (m.user = true ∧ b.part ≠ m.part))
include hne hal

omit ha hk hi hcalm hb in
theorem remote_allowed : ¬ barDenied b m.part m.user = true := by
  rw [barDenied, Bool.or_eq_true, Bool.and_eq_true, decide_eq_true_eq, decide_eq_true_eq, not_or]
  exact ⟨hne, hal⟩

theorem remote_counts {st : BarStep} (hst : st = .arrive ∨ ∃ x, st = .expect x)
    (ho : barOp s m.core m.index m.op m.part m.user m.clk = if barMisuse b st m.part m.user then none else some (true, barDo s m.core m.index st m.clk))
    (hop : (∃ n, m.op = .init n) ∨ m.op = .arrive ∨ (∃ n, m.op = .expect n) ∨ m.op = .disarmed) :
    (b.remaining = 0 → TrapsThread s (.remoteBarrierOperation m) s m.who 0x1A (BitVec.ofNat 64 (2 ^ 19 + m.core * 2 ^ 11 + m.index))) ∧
    (b.remaining ≠ 0 → BarServed s m (barStep b st).1 (s.ctxOf m.who)) := by
  have hiff : barMisuse b st m.part m.user = true ↔ b.remaining = 0 := by
    have hboth : (barDenied b m.part m.user || decide (b.remaining = 0)) = true ↔ b.remaining = 0 := by
      rw [Bool.or_eq_true, decide_eq_true_eq]
      exact ⟨fun h => h.resolve_left (remote_allowed hne hal), Or.inr⟩
    rcases hst with rfl | ⟨x, rfl⟩
    · exact hboth
    · exact hboth
  refine ⟨fun hr => remoteBarrier_misuse ha hk hi (ho.trans (if_pos (hiff.mpr hr))), fun hr => ?_⟩
  have hmoves := barDo_moves s m.core m.index st m.clk
  rw [hb] at hmoves
  exact barServed_step ha hk hi hcalm (ho.trans (if_neg (mt hiff.mp hr))) hmoves hop

omit hcalm in
theorem remote_watches :
    (m.op = .test → BarServed s m b { s.ctxOf m.who with answer := some (m.d, barStatus b) }) ∧
    (∀ p, m.op = .wait p → (b.phase = p → exec (.remoteBarrierOperation m) s =
        .next (s.setCore m.core { s.core m.core with bwaiters := (s.core m.core).bwaiters ++ [m] })) ∧
      (b.phase ≠ p → BarServed s m b { s.ctxOf m.who with answer := some (m.d, barStatus b) })) ∧
    (m.op = .disarmed → (b.armed = true → exec (.remoteBarrierOperation m) s =
        .next (s.setCore m.core { s.core m.core with bwaiters := (s.core m.core).bwaiters ++ [m] })) ∧
      (b.armed = false → BarServed s m b (s.ctxOf m.who))) := by
  have hden := remote_allowed hne hal
  have hstatus (hop : m.op = .test ∨ ∃ p, m.op = .wait p) := answerBar_status (s := s) hop
  rw [hb] at hstatus
  refine ⟨fun hop => ?_, fun p hop => ⟨fun hp => remoteBarrier_stands ha hk hi (t := s) ?_ rfl, fun hp => ?_⟩,
    fun hop => ⟨fun harmed => remoteBarrier_stands ha hk hi (t := s) ?_ rfl, fun harmed => ?_⟩⟩
  · have h := barServed_look ha hk hi (by rw [hop, barOp, hb]; exact if_neg hden) (hstatus (Or.inl hop))
    rwa [hb] at h
  · rw [hop, barOp, hb]
    exact (if_neg hden).trans (by rw [decide_eq_false (not_not.mpr hp)])
  · have h := barServed_look ha hk hi (by rw [hop, barOp, hb]; exact (if_neg hden).trans (by rw [decide_eq_true hp])) (hstatus (Or.inr ⟨p, hop⟩))
    rwa [hb] at h
  · rw [hop, barOp, hb]
    exact (if_neg hden).trans (by rw [harmed]; rfl)
  · have h := barServed_look ha hk hi (by rw [hop, barOp, hb]; exact (if_neg hden).trans (by rw [harmed]; rfl)) (answerBar_plain (Or.inr (Or.inr (Or.inr hop))))
    rwa [hb] at h

end

/-- Settles O23. -/
theorem barrierMessagesAct : Obligations.BarrierMessagesAct := by
  refine ⟨fun s d h c => ⟨barrier_badHandle, fun hv hk => ⟨fun h1 h2 => barrier_sends (waits := false) hv hk (execBinit_eq hv h1 h2), barrier_sends (op := .arrive) (waits := false) (val := false) hv hk rfl,
      fun hc => barrier_sends (waits := false) hv hk (execBexp_eq hv hc), barrier_sends (op := .wait ((s.S c).getLsbD 0)) (waits := true) (val := true) hv hk rfl,
      barrier_sends (op := .test) (waits := true) (val := true) hv hk rfl, barrier_sends (op := .disarmed) (waits := true) (val := false) hv hk rfl⟩, fun hc => ?_, bhset_sets⟩,
    fun s m ha hk hi hcalm => ⟨fun n hop => remoteInit ha hk hi hcalm rfl hop, remote_denied ha hk hi rfl, fun hne hal => ⟨fun hop => ?_, fun n hop => ?_, ?_⟩⟩⟩
  · exact congrArg Host.Outcome.next (if_neg (by rw [handleForm_iff]; omega))
  · exact remote_counts ha hk hi hcalm rfl hne hal (Or.inl rfl) (by rw [hop]; rfl) (Or.inr (Or.inl hop))
  · exact remote_counts ha hk hi hcalm rfl hne hal (Or.inr ⟨_, rfl⟩) (by rw [hop]; rfl) (Or.inr (Or.inr (Or.inl ⟨n, hop⟩)))
  · exact remote_watches ha hk hi rfl hne hal

end Sys2Proof.Machine
end

section
/-! SUPPORT. What a look at memory for a thread leaves of every context: all but the report of a watchpoint and the marks of a miss (R303, R390, R395, R396). -/

namespace Sys2Proof.Machine

/-- What an access of a thread does not touch of its context. -/
def Context.unmarked (x : Context) : Context := { x with watchHit := none, miss := none, served := 0 }

/-- `t` has the bytes of `s`, runs the same thread, and has every context but for its marks. -/
structure State.Looked (s t : State) : Prop where
  bytes : s.SameBytes t
  cur : t.cur = s.cur
  ctx : ∀ q, (t.ctxOf q).unmarked = (s.ctxOf q).unmarked

theorem State.Looked.refl (s : State) : s.Looked s := ⟨State.SameBytes.refl s, rfl, fun _ => rfl⟩

theorem State.Looked.then {s t u : State} (h : s.Looked t) (h' : t.Looked u) : s.Looked u :=
  ⟨h.bytes.trans h'.bytes, h'.cur.trans h.cur, fun q => (h'.ctx q).trans (h.ctx q)⟩

theorem State.Looked.micro (s : State) (m : Micro) : s.Looked { s with micro := m } := ⟨⟨rfl, rfl, rfl, rfl⟩, rfl, fun _ => rfl⟩

theorem State.Looked.post (s : State) (l : List Instr) : s.Looked (s.post l) := ⟨⟨rfl, rfl, rfl, rfl⟩, rfl, fun _ => rfl⟩

theorem State.Looked.of_steady {s t : State} (h : s.Steady t) (hc : t.cur = s.cur) : s.Looked t := ⟨h.bytes, hc, fun q => by rw [h.ctx]⟩

theorem State.Looked.of_cores {s t : State} (hb : s.SameBytes t) (hc : t.cur = s.cur) (h : t.cores = s.cores) : s.Looked t :=
  ⟨hb, hc, fun q => by rw [State.ctxOf, State.core, h]; rfl⟩

theorem State.Looked.setCtx (s : State) {r : ThreadRef} {x : Context} (h : x.unmarked = (s.ctxOf r).unmarked) : s.Looked (s.setCtx r x) :=
  ⟨⟨rfl, rfl, rfl, rfl⟩, rfl, fun q => by
    rw [State.ctxOf_setCtx]
    split
    · subst q; exact h
    · rfl⟩

theorem State.Looked.foldl {α : Type} {f : State → α → State} (h : ∀ (s : State) (a : α), s.Looked (f s a)) (l : List α) (s : State) : s.Looked (l.foldl f s) := by
  induction l generalizing s with
  | nil => exact State.Looked.refl s
  | cons a l ih => exact (h s a).then (ih (f s a))

theorem Context.unmarked_regs (x : Context) : x.unmarked.regs = x.regs := rfl

/-- What the marks leave. -/
theorem State.Looked.fields {s t : State} (h : s.Looked t) (q : ThreadRef) : (t.ctxOf q).wait = (s.ctxOf q).wait ∧ (t.ctxOf q).pend = (s.ctxOf q).pend ∧
    (t.ctxOf q).acksDue = (s.ctxOf q).acksDue ∧ (t.ctxOf q).st = (s.ctxOf q).st ∧ (t.ctxOf q).regs = (s.ctxOf q).regs := by
  have e := h.ctx q
  exact ⟨(congrArg Context.wait e :), (congrArg Context.pend e :), (congrArg Context.acksDue e :), (congrArg Context.st e :), (congrArg Context.regs e :)⟩

theorem watchHit_looked (s : State) (c : Prop) [Decidable c] (th : Option ThreadRef) (v : Option Word) :
    s.Looked (if c then match th with | some r => s.setCtx r { s.ctxOf r with watchHit := v } | none => s else s) := by
  split
  · split
    · exact State.Looked.setCtx s rfl
    · exact State.Looked.refl s
  · exact State.Looked.refl s

theorem watchReport_looked (s : State) (w : Who) (l : Loc) (rd wr : Bool) : s.Looked (watchReport s w l rd wr) := by
  unfold watchReport
  split
  · exact State.Looked.foldl (fun s e => State.Looked.then (t := { s with sdie := { s.sdie with watchReports := s.sdie.watchReports ++
      [(BitVec.ofNat 64 (bitsOf e 51 0), BitVec.ofNat 64 ((if rd then 1 else 0) + (if wr then 2 else 0) + reportRequester w * 4), BitVec.ofNat 64 s.cycle)] } })
      ⟨⟨rfl, rfl, rfl, rfl⟩, rfl, fun _ => rfl⟩ (watchHit_looked _ _ w.thread _)) _ s
  · exact State.Looked.refl s

theorem homeGate_looked {s u : State} {line core : Nat} {k : FwdKind} {i : Instr} (h : homeGate s line core k i = .ok u) : s.Looked u :=
  State.Looked.of_cores ((homeGate_keeps ..).2 u h).bytes ((homeGate_keeps ..).2 u h).touches.cur ((homeGate_cores ..).2 u h)

theorem accessGate_looked {s u : State} {w : Who} {line : Nat} {k : FwdKind} (h : accessGate s w line k = .ok u) : s.Looked u :=
  State.Looked.of_cores ((accessGate_keeps ..).2 u h).bytes ((accessGate_keeps ..).2 u h).touches.cur ((accessGate_cores ..).2 u h)

theorem noteSeen_looked (s : State) (w : Who) (t : Target) (c : Nat) : s.Looked (noteSeen s w t c) := by
  unfold noteSeen
  split
  · exact State.Looked.micro s _
  · exact State.Looked.refl s

theorem evictLine_looked (s : State) (core line : Nat) : s.Looked (evictLine s core line) :=
  State.Looked.of_steady (evictLine_spec s core line).1 (evictLine_keeps s core line).touches.cur

theorem makeRoom_looked (s : State) (core line : Nat) : s.Looked (makeRoom s core line) := by
  unfold makeRoom
  dsimp only
  split
  · exact State.Looked.refl s
  · split
    · exact State.Looked.refl s
    · exact (State.Looked.micro s _).then (evictLine_looked _ _ _)

theorem advanceL1_looked (s : State) (k r : Nat) (v : BitVec 32) : s.Looked (advanceL1 s k r v) :=
  State.Looked.of_steady (advanceL1_spec s k r v).1 (advanceL1_keeps s k r v).touches.cur

theorem advanceL2_looked (s : State) (c r : Nat) (v : BitVec 32) : s.Looked (advanceL2 s c r v) :=
  State.Looked.of_steady (advanceL2_spec s c r v).1 (by rw [(advanceL2_cached s c r v).1.rest])

theorem advanceFor_looked (s : State) (core : Nat) (o : Copy) : s.Looked (advanceFor s core o) := by
  unfold advanceFor
  split
  · exact advanceL1_looked s _ _ _
  · exact State.Looked.refl s

theorem passToL1_looked (s : State) (core line : Nat) (o : Copy) : s.Looked (passToL1 s core line o) :=
  ((advanceFor_looked s core o).then (makeRoom_looked _ core line)).then (State.Looked.micro _ _)

theorem fillL2_looked (s : State) (cl line : Nat) (o : Copy) : s.Looked (fillL2 s cl line o) := by
  unfold fillL2
  dsimp only
  have hview : s.Looked (match o.region with | some r => advanceL2 s cl r (BitVec.ofNat 32 o.img.round) | none => s) := by
    split
    · exact advanceL2_looked ..
    · exact State.Looked.refl s
  have hset (t : State) (c : Bool) : t.Looked (if c then { t with micro := t.micro.dropL2 cl line } else { t with micro := t.micro.setL2 cl line o }) := by
    split
    · exact State.Looked.micro _ _
    · exact State.Looked.micro _ _
  exact hview.then (hset _ _)

theorem fillCopies_looked (s : State) (core line : Nat) (img : Stamped) (region : Option Nat) (cls : Nat) (l1 l2 : Bool) :
    s.Looked (fillCopies s core line img region cls l1 l2) := by
  have hfill (s : State) (b : Bool) (cl : Nat) (o : Copy) : s.Looked (if b then fillL2 s cl line o else s) := by
    split
    · exact fillL2_looked ..
    · exact State.Looked.refl s
  unfold fillCopies
  dsimp only
  split
  · exact (hfill _ _ _ _).then (hfill _ _ _ _)
  · have hkeep (t : State) (c : Bool) (m : Micro) : t.Looked (if c then t else { t with micro := m }) := by
      split
      · exact State.Looked.refl t
      · exact State.Looked.micro t m
    exact ((hfill _ _ _ _).then (hfill _ _ _ _)).then (((advanceFor_looked _ _ _).then (makeRoom_looked _ _ _)).then (hkeep _ _ _))

/-! ### Loads that are made -/

theorem serveHit_looked (s : State) (w : Who) (t : Target) (line c lv : Nat) (o : Copy) : s.Looked (serveHit s w t line c lv o).st :=
  (State.Looked.micro s _).then (noteSeen_looked _ w t _)

theorem serveHomeLoad_looked (s : State) (w : Who) (t : Target) (pa c : Nat) : s.Looked (serveHomeLoad s w t pa c).st :=
  ((State.Looked.micro s _).then (watchReport_looked _ w t.loc true false)).then (noteSeen_looked _ w t _)

theorem homeLoad_looked {s : State} {w : Who} {t : Target} {pa c : Nat} {a : Loaded} (h : homeLoad s w t pa c = .ok a) : s.Looked a.st := by
  unfold homeLoad at h
  cases e : accessGate s w (pa / 64) .gets with
  | error x => rw [e] at h; cases h
  | ok x =>
    rw [e] at h
    cases h
    exact (accessGate_looked e).then (serveHomeLoad_looked x w t pa c)

theorem missLoad_looked {s : State} {w : Who} {t : Target} {pa c : Nat} {a : Loaded} (h : missLoad s w t pa c = .ok a) : s.Looked a.st := by
  unfold missLoad at h
  split at h
  · cases h
  · exact homeLoad_looked h

theorem serveL2_looked (s : State) (w : Who) (t : Target) (line c : Nat) (o : Copy) : s.Looked (serveL2 s w t line c o).st := by
  refine State.Looked.then ?_ (serveHit_looked _ w t line c 2 _)
  split
  · exact passToL1_looked s _ _ _
  · exact State.Looked.refl s

theorem beyondL2_looked {s : State} {w : Who} {t : Target} {pa c : Nat} {a : Loaded} (h : beyondL2 s w t pa c = .ok a) : s.Looked a.st := by
  unfold beyondL2 at h
  split at h
  · cases h
    exact serveHit_looked s w t _ c 2 _
  · exact missLoad_looked h

theorem l2Load_looked {s : State} {w : Who} {t : Target} {pa c : Nat} {a : Loaded} (h : l2Load s w t pa c = .ok a) : s.Looked a.st := by
  unfold l2Load at h
  split at h
  · split at h
    · cases h
      exact serveL2_looked s w t _ c _
    · exact beyondL2_looked h
  · exact beyondL2_looked h

theorem mainLoad_looked {s : State} {w : Who} {t : Target} {pa c : Nat} {a : Loaded} (h : mainLoad s w t pa c = .ok a) : s.Looked a.st := by
  unfold mainLoad at h
  split at h
  · exact homeLoad_looked h
  · split at h
    · split at h
      · cases h
        exact (State.Looked.micro s _).then (noteSeen_looked _ w t _)
      · split at h
        · cases h
          exact serveHit_looked s w t _ c 1 _
        · split at h
          · exact l2Load_looked h
          · exact missLoad_looked h
    · exact l2Load_looked h

/-- A load that is made. -/
theorem loadLine_looked {s : State} {w : Who} {t : Target} {a : Loaded} (h : loadLine s w t = .ok a) : s.Looked a.st := by
  unfold loadLine at h
  dsimp only at h
  split at h
  · cases h
    exact State.Looked.refl s
  · split at h
    · exact mainLoad_looked h
    · cases h
      exact State.Looked.micro s _

theorem traceAccess_looked (s : State) (va lv : Nat) : s.Looked (traceAccess s va lv) := by
  have h : s.Looked (s.setMe { s.me with served := 0 }) := State.Looked.setCtx s rfl
  unfold traceAccess
  exact h.then (State.Looked.of_steady (State.traceMe_steady ..) (State.traceMe_cur ..))

theorem loadedMe_looked {s : State} {a : Loaded} (h : s.Looked a.st) (va : Nat) : s.Looked (loadedMe s a va) :=
  (h.then (State.Looked.micro _ _)).then (traceAccess_looked _ _ _)

end Sys2Proof.Machine
end

section
/-! O21 (R36, R151, R152, R293 to R296, R305): bounded loads, at the levels below the home and at the home. -/

namespace Sys2Proof.Machine

/-! ### The floor a load is bounded by (R152, R177) -/

theorem floorOf_eq {floors : SMap Word} {r : Nat} {f : BitVec 32}
    (h : (∃ i < 8, FloorNames floors r i ∧ (∀ j < i, ¬ FloorNames floors r j) ∧ f = (SMap.get 0 floors i).setWidth 32) ∨ ((∀ j < 8, ¬ FloorNames floors r j) ∧ f = 0)) :
    floorOf floors r = f := by
  unfold floorOf
  rcases h with ⟨i, hi, hn, hfirst, hf⟩ | ⟨hnone, hf⟩
  · rw [floorIndex_some hi hn hfirst, hf]
    refine BitVec.eq_of_toNat_eq ?_
    rw [BitVec.toNat_ofNat, bitsOf_eq, BitVec.toNat_setWidth]
    omega
  · rw [floorIndex_none hnone, hf]

/-! ### LDB at the levels below the home -/

/-- A copy that is asked whether it serves. -/
theorem copyAnswer_keeps {s : State} {x : Option Copy} {c : Copy → Bool} {g : Copy → Loaded} (hg : ∀ o, s.Keeps (g o).st) {l : Loaded}
    (h : (match x with | some o => if c o then some (g o) else none | none => none) = some l) : s.Keeps l.st := by
  cases x with
  | none => cases h
  | some o =>
    dsimp only at h
    split at h
    · cases h
      exact hg o
    · cases h

theorem serveBounded_keeps {s : State} {w : Who} {t : Target} {r : Nat} {q : BitVec 32} {sc : Bool} {l : Loaded} (h : serveBounded s w t r q sc = some l) : s.Keeps l.st := by
  unfold serveBounded at h
  split at h
  · dsimp only at h
    split at h
    · cases h
    · split at h
      · split at h
        · split at h
          · cases h
            exact State.Keeps.micro s _
          · split at h
            · cases h
              exact State.Keeps.refl s
            · exact copyAnswer_keeps (fun o => passToL1_keeps s w.core _ o) h
        · exact copyAnswer_keeps (fun o => passToL1_keeps s w.core _ o) h
      · exact copyAnswer_keeps (fun _ => State.Keeps.refl s) h
  · cases h

/-- A line that neither level holds is forwarded to the home. -/
theorem serveBounded_absent {s : State} {w : Who} {t : Target} {r pa : Nat} {q : BitVec 32} (ht : t.loc = .main pa) (h1 : s.micro.copyAt w.core (pa / 64) = none)
    (h2 : s.micro.l2At (clusterOf w.core) (pa / 64) = none) : serveBounded s w t r q true = none := by
  unfold serveBounded
  rw [ht]
  dsimp only [Loc.place]
  rw [h1, h2]
  simp

section
variable {s s' : State} {i : Instr} {d a b : BitVec 5} {n : Nat} {sx : Bool} {t : Target} (he : exec i s = .next (ldb s d a b n sx))
include he

theorem ldb_traps {c : Nat} (h : checkMe s (s.S a) { r := true, size := n } = (.error c, s')) : exec i s = .next (trap s' c (s.S a)) := by
  rw [he, ldb, h]

variable (h : checkMe s (s.S a) { r := true, size := n } = (.ok t, s'))
include h

theorem ldb_outside (hr : t.region = none) : exec i s = .next (withBytes s' t n (s.S a).toNat (fun v u => awaitReply (u.setS d (ldbValue n sx v)) (s.S a).toNat)) := by
  rw [he, ldb, h]
  simp only [hr]

omit he h in
/-- A load that is served asks memory. -/
theorem asks_served {l : Loaded} {v : Word} (he : exec i s = .next (awaitReply ((loadedMe s' l (s.S a).toNat).setS d v) (s.S a).toNat)) (hs : s.Keeps (loadedMe s' l (s.S a).toNat)) :
    ∃ u, Asks s i u (s.me.writeS d v) (s.S a).toNat ∧ s.SameBytes u := by
  have ht := hs.touches.setMe ((loadedMe s' l (s.S a).toNat).me.writeS d v)
  refine ⟨_, asks_of he (ht.of_regs ?_), ?_⟩
  · rw [Context.writeS_regs, hs.touches.me_eq, Context.writeS_regs]
  · rw [State.sameBytes_iff]
    simp [hs.bytes.bytes_eq]

theorem ldb_loads (hr : t.region = none) {l : Loaded} (hl : loadLine s' s'.myWho t = .ok l) :
    ∃ u, Asks s i u (s.me.writeS d (ldbValue n sx (lineBytes l.line.1 t.loc.off n))) (s.S a).toNat ∧ s.SameBytes u := by
  have hx := ldb_outside he h hr
  rw [withBytes, withLine_ok hl] at hx
  exact asks_served hx ((checkMe_keeps h).then (loadedMe_keeps ((loadLine_keeping s' s'.myWho t).2 l hl) (s.S a).toNat))

theorem ldb_retries (hr : t.region = none) {u : State} (hl : loadLine s' s'.myWho t = .error u) : Retries s i 1 (s.S a).toNat := by
  have hx := ldb_outside he h hr
  rw [withBytes, withLine_error hl] at hx
  exact retries_of hx ((checkMe_keeps h).then ((loadLine_keeping s' s'.myWho t).1 u hl))

variable {r : Nat} (hr : t.region = some r)
include hr

theorem ldb_bound (hb : 2 ^ 31 ≤ (s.S b).toNat) : exec i s = .next (trap s' 0x01 (s.S b)) := by
  rw [he, ldb, h]
  dsimp only
  rw [hr]
  dsimp only
  rw [(checkMe_keeps h).readS, if_pos hb]

variable (hb : (s.S b).toNat < 2 ^ 31) {q : BitVec 32} (hq : floorOf s.me.floors r - BitVec.ofNat 32 (s.S b).toNat = q)
include hb hq

theorem ldb_inside : exec i s = .next (match serveBounded s' s'.myWho t r q true with
    | some l => awaitReply (boundedMe s' t l (s.S a).toNat d n sx) (s.S a).toNat
    | none => (leave s' 1 (s.S a).toNat (.bounded d n sx q t (s.S a))).post [.boundedRequest s'.cur.core s'.cur.ctx]) := by
  rw [he, ldb, h]
  dsimp only
  rw [hr]
  dsimp only
  have hw : (s.S b).setWidth 32 = BitVec.ofNat 32 (s.S b).toNat := rfl
  rw [(checkMe_keeps h).readS, if_neg (by omega), checkMe_floors h, hw, hq] <;> rfl

theorem ldb_serves {l : Loaded} (hl : serveBounded s' s'.myWho t r q true = some l) :
    ∃ u, Asks s i u (s.me.writeS d (ldbValue n sx (lineBytes l.line.1 t.loc.off n))) (s.S a).toNat ∧ s.SameBytes u := by
  have hx := ldb_inside he h hr hb hq
  rw [hl] at hx
  exact asks_served hx ((checkMe_keeps h).then (loadedMe_keeps (serveBounded_keeps hl) _))

theorem ldb_forwards (hl : serveBounded s' s'.myWho t r q true = none) : ∃ u, exec i s = .next u ∧ s.Waits u 1 (s.S a).toNat (.bounded d n sx q t (s.S a)) ∧
    s.SameBytes u ∧ (∀ j, (u.ctxOf j).regs = (s.ctxOf j).regs) ∧ .boundedRequest s.cur.core s.cur.ctx ∈ u.agenda := by
  have hx := ldb_inside he h hr hb hq
  rw [hl] at hx
  have hk := checkMe_keeps h
  obtain ⟨ht, hw, hm⟩ := hk.touches.leave 1 (s.S a).toNat (.bounded d n sx q t (s.S a)) [.boundedRequest s'.cur.core s'.cur.ctx]
  refine ⟨_, hx, hw, State.sameBytes_iff.mpr (by simp [hk.bytes.bytes_eq]), fun j => ?_, ?_⟩
  · exact ht.regsOf j
  · rw [← hk.touches.cur]
    exact hm _ (List.mem_singleton.mpr rfl)

end

/-! ### Answering a thread that looked -/

theorem answerReply_ctxOf (t : State) (q : ThreadRef) : (answer t).ctxOf q = if q = t.cur then { t.me with pend := .reply } else t.ctxOf q := by
  unfold answer
  dsimp only
  split <;> exact State.ctxOf_setMe ..

/-- A thread that was served: `u` has its answer on the way, with the registers of `y`. -/
structure Served (s u : State) (y : Context) : Prop where
  bytes : s.SameBytes u
  wait : (u.ctxOf s.cur).wait = s.me.wait
  pend : (u.ctxOf s.cur).pend = .reply
  reply : .memoryReply s.cur.core s.cur.ctx ∈ u.agenda
  regs : ∀ j, (u.ctxOf j).regs = if j = s.cur then y.regs else (s.ctxOf j).regs

theorem served_answer {s t : State} (h : s.Looked t) (ha : s.me.acksDue = 0) (d : BitVec 5) (v : Word) : Served s (answer (t.setS d v)) (s.me.writeS d v) := by
  obtain ⟨w, hw⟩ : ∃ w, w = t.setS d v := ⟨_, rfl⟩
  have hcur : w.cur = s.cur := by rw [hw]; exact h.cur
  have hme : w.me = t.me.writeS d v := by rw [hw]; exact State.me_setMe ..
  have htm : t.me = t.ctxOf s.cur := by rw [State.me, h.cur]
  have hother {q : ThreadRef} (hq : q ≠ s.cur) : w.ctxOf q = t.ctxOf q := by
    rw [hw, State.setS, State.ctxOf_setMe, h.cur, if_neg hq]
  obtain ⟨hwait, -, hacks, -, hregs⟩ := h.fields s.cur
  rw [← htm] at hwait hacks hregs
  have hbook := (t.me.writeS_book d v).1
  have hdue : (t.me.writeS d v).acksDue = t.me.acksDue := by
    unfold Context.writeS
    split
    · rfl
    · split <;> rfl
  rw [← hw]
  refine ⟨h.bytes.trans (State.sameBytes_iff.mpr ?_), ?_, ?_, ?_, fun j => ?_⟩
  · rw [(answer_keeps w).bytes.bytes_eq, hw]
    simp
  · rw [answerReply_ctxOf, hcur, if_pos rfl, hme]
    exact hbook.trans hwait
  · rw [answerReply_ctxOf, hcur, if_pos rfl]
  · rw [← hcur]
    exact answer_reply w (by rw [hme, hdue, hacks]; exact ha)
  · rw [answerReply_ctxOf, hcur]
    by_cases hj : j = s.cur
    · rw [if_pos hj, if_pos hj, hme]
      refine (Context.pend_regs _ _).trans ?_
      rw [Context.writeS_regs, hregs, ← Context.writeS_regs]
      rfl
    · rw [if_neg hj, if_neg hj, hother hj]
      exact (h.fields j).2.2.2.2

/-! ### The bounded request at its home (R295, R296) -/

/-- The state in which the home decides a bounded request of thread `w`. -/
def State.deciding (s : State) (w : ThreadRef) : State :=
  { s with cur := w, stalled := s.stalled.filter (fun p => decide (p.self ≠ .boundedRequest w.core w.ctx)) }

theorem fillBounded_looked (s : State) (core line : Nat) (img : Stamped) (r cls : Nat) (l1 : Bool) : s.Looked (fillBounded s core line img r cls l1) := by
  have hviews : s.Looked (if l1 then advanceL1 (advanceL2 s (clusterOf core) r (BitVec.ofNat 32 img.round)) core r (BitVec.ofNat 32 img.round)
      else advanceL2 s (clusterOf core) r (BitVec.ofNat 32 img.round)) := by
    split
    · exact (advanceL2_looked ..).then (advanceL1_looked ..)
    · exact advanceL2_looked ..
  unfold fillBounded
  dsimp only
  exact (hviews.then (State.Looked.micro _ _)).then (fillCopies_looked ..)

theorem serveBoundedHome_looked (s : State) (w : Who) (t : Target) (r pa round : Nat) (l1 : Bool) : s.Looked (serveBoundedHome s w t r pa round l1).st := by
  have hfill (u : State) (c : Bool) (img : Stamped) : u.Looked (if c then u else fillBounded u w.core (pa / 64) img (regionNo t r) t.cls l1) := by
    split
    · exact State.Looked.refl u
    · exact fillBounded_looked ..
  unfold serveBoundedHome
  dsimp only
  exact ((State.Looked.micro s _).then (watchReport_looked ..)).then (hfill _ _ _)

/-- A gate that lets its request pass marks the home's line. -/
theorem accessGate_passes {s u : State} {w : Who} {i : Instr} {line : Nat} {k : FwdKind} (hw : w.self = some i) (h : accessGate s w line k = .ok u) :
    ∃ x, u = { s with micro := s.micro.setHome line x } := by
  rw [accessGate, hw] at h
  dsimp only at h
  unfold homeGate at h
  dsimp only at h
  repeat' split at h
  all_goals cases h
  exact ⟨_, rfl⟩

section
variable {s : State} {w : ThreadRef} {d : BitVec 5} {n : Nat} {sx : Bool} {q : BitVec 32} {t : Target} {va : Word} {r pa : Nat}
  (hk : w.core < 256) (hi : w.ctx < 24) (hst : (s.ctxOf w).st = .bound) (hp : (s.ctxOf w).pend = .bounded d n sx q t va)
  (hr : t.region = some r) (ht : t.loc = .main pa)
include hk hi hst hp

theorem boundedRequest_eq : exec (.boundedRequest w.core w.ctx) s = .next { (
      match t.region with
      | none => withBytes (s.deciding w) { t with region := none } n va.toNat (fun v s => answer (s.setS d (ldbValue n sx v)))
      | some rg =>
        if t.loc.isMain && ((s.deciding w).regionOn rg).isNone then
          withBytes (s.deciding w) { t with region := none } n va.toNat (fun v s => answer (s.setS d (ldbValue n sx v)))
        else match boundedAtHome (s.deciding w) (s.deciding w).myWho t rg q true (.boundedRequest w.core w.ctx) with
          | .waits s => s
          | .bad c s => trap s c va
          | .stalled u => leave u 8 (rg % 4096) (s.ctxOf w).pend
          | .served a => answer (boundedMe (s.deciding w) t a va.toNat d n sx)) with cur := s.cur } := by
  show execBoundedRequest w.core w.ctx s = _
  rw [execBoundedRequest, if_neg (by rw [ctxExists_of hk hi]; decide)]
  dsimp only
  rw [show (⟨w.core, w.ctx⟩ : ThreadRef) = w from rfl, hp, hst]
  rfl

include hr ht

omit ht in
theorem boundedRequest_on (hon : (s.regionOn r).isSome = true) : exec (.boundedRequest w.core w.ctx) s = .next { (
      match boundedAtHome (s.deciding w) (s.deciding w).myWho t r q true (.boundedRequest w.core w.ctx) with
      | .waits s => s
      | .bad c s => trap s c va
      | .stalled u => leave u 8 (r % 4096) (s.ctxOf w).pend
      | .served a => answer (boundedMe (s.deciding w) t a va.toNat d n sx)) with cur := s.cur } := by
  have he := boundedRequest_eq hk hi hst hp
  rw [hr] at he
  dsimp only at he
  have hnone : ¬ (t.loc.isMain && ((s.deciding w).regionOn r).isNone) = true := by
    rw [show (s.deciding w).regionOn r = s.regionOn r from rfl, Option.isNone_eq_false_iff.mpr hon, Bool.and_false]
    decide
  rwa [if_neg hnone] at he

omit hk hi hst hp hr in
/-- What the home of a main-memory line does once the request's turn has come. -/
theorem boundedAtHome_ready {W : Who} {i : Instr} {u : State} (hg : accessGate s { W with self := some i } (pa / 64) .gets = .ok u) :
    boundedAtHome s W t r q true i =
      if !atOrAhead (u.homeView r pa) q then .stalled (stallAt u r q pa i)
      else if !u.delivered (.main pa) then .bad 0x30 u
      else .served (serveBoundedHome u W t r pa (u.homeView r pa).toNat true) := by
  unfold boundedAtHome
  simp only [ht, Loc.place, hg]

omit hk hi hst hp hr in
theorem boundedAtHome_gated {W : Who} {i : Instr} {u : State} (hg : accessGate s { W with self := some i } (pa / 64) .gets = .error u) :
    boundedAtHome s W t r q true i = .waits u := by
  unfold boundedAtHome
  simp only [ht, Loc.place, hg]

section
variable (hon : (s.regionOn r).isSome = true) {u : State}
include hon

theorem boundedRequest_stands (hg : accessGate (s.deciding w) { (s.deciding w).myWho with self := some (.boundedRequest w.core w.ctx) } (pa / 64) .gets = .error u) :
    exec (.boundedRequest w.core w.ctx) s = .next { u with cur := s.cur } ∧ (s.deciding w).SameBytes u := by
  have he := boundedRequest_on hk hi hst hp hr hon
  rw [boundedAtHome_gated ht hg] at he
  exact ⟨he, ((accessGate_keeps ..).1 u hg).bytes⟩

variable (hg : accessGate (s.deciding w) { (s.deciding w).myWho with self := some (.boundedRequest w.core w.ctx) } (pa / 64) .gets = .ok u)
include hg

omit hk hi hst hp hr ht hon in
/-- What the gate leaves of the home's view and of the line. -/
theorem gate_leaves : u.homeView r pa = s.homeView r pa ∧ u.delivered (.main pa) = s.delivered (.main pa) ∧ u.micro.homeOf pa = s.micro.homeOf pa ∧
    (s.deciding w).Looked u := by
  have hlook := accessGate_looked hg
  obtain ⟨x, rfl⟩ := accessGate_passes rfl hg
  exact ⟨rfl, rfl, rfl, hlook⟩

theorem boundedRequest_lost (hv : (s.homeView r pa - q).toNat < 2 ^ 31) (hd : s.delivered (.main pa) = false) :
    exec (.boundedRequest w.core w.ctx) s = .next { trap u 0x30 va with cur := s.cur } := by
  obtain ⟨hview, hdel, -, -⟩ := gate_leaves (r := r) hg
  have he := boundedRequest_on hk hi hst hp hr hon
  rw [boundedAtHome_ready ht hg, hview, hdel, if_neg (by rw [atOrAhead_true hv]; decide), if_pos (by rw [hd]; rfl)] at he
  exact he

theorem boundedRequest_serves (ha : (s.ctxOf w).acksDue = 0) (hv : (s.homeView r pa - q).toNat < 2 ^ 31) (hd : s.delivered (.main pa) = true) :
    ∃ v, exec (.boundedRequest w.core w.ctx) s = .next { v with cur := s.cur } ∧
      Served (s.deciding w) v ((s.ctxOf w).writeS d (ldbValue n sx (lineBytes (s.lineAt t.loc).1 (pa % 64) n))) := by
  obtain ⟨hview, hdel, -, hlook⟩ := gate_leaves (r := r) hg
  have he := boundedRequest_on hk hi hst hp hr hon
  rw [boundedAtHome_ready ht hg, hview, hdel, if_neg (by rw [atOrAhead_true hv]; decide), if_neg (by rw [hd]; decide)] at he
  dsimp only at he
  have hloaded := loadedMe_looked (hlook.then (serveBoundedHome_looked u (s.deciding w).myWho t r pa (s.homeView r pa).toNat true)) va.toNat
  have hline : (serveBoundedHome u (s.deciding w).myWho t r pa (s.homeView r pa).toNat true).line = s.lineAt t.loc := hlook.bytes.lineAt t.loc
  refine ⟨_, he, ?_⟩
  have hs := served_answer hloaded ha d (ldbValue n sx (lineBytes (s.lineAt t.loc).1 (pa % 64) n))
  rw [boundedMe, hline, show t.loc.off = pa % 64 by rw [ht]; rfl]
  exact hs

theorem boundedRequest_stalls (hv : 2 ^ 31 ≤ (s.homeView r pa - q).toNat) : ∃ (v : State) (o : Bool), exec (.boundedRequest w.core w.ctx) s = .next { v with cur := s.cur } ∧
    (s.deciding w).SameBytes v ∧ (s.deciding w).Waits v 8 (r % 4096) (s.ctxOf w).pend ∧ (∀ j, (v.ctxOf j).regs = (s.ctxOf j).regs) ∧
    (⟨s.micro.homeOf pa, r, q, pa, .boundedRequest w.core w.ctx, o⟩ : Stalled) ∈ v.stalled := by
  obtain ⟨hview, -, hhome, hlook⟩ := gate_leaves (r := r) hg
  have he := boundedRequest_on hk hi hst hp hr hon
  rw [boundedAtHome_ready ht hg, hview, if_pos (by rw [atOrAhead_false hv]; rfl)] at he
  dsimp only at he
  have hstall : (s.deciding w).Looked (stallAt u r q pa (.boundedRequest w.core w.ctx)) := hlook.then ⟨⟨rfl, rfl, rfl, rfl⟩, rfl, fun _ => rfl⟩
  have hk := leave_keeps (stallAt u r q pa (.boundedRequest w.core w.ctx)) 8 (r % 4096) (s.ctxOf w).pend
  have hw := leave_waits (stallAt u r q pa (.boundedRequest w.core w.ctx)) 8 (r % 4096) (s.ctxOf w).pend
  refine ⟨_, decide ((u.stalled.filter (fun p => decide (p.slice = u.micro.homeOf pa) && !p.out)).length ≥ 256), he, hstall.bytes.trans hk.bytes, ?_, fun j => (hk.regs j).trans (hstall.fields j).2.2.2.2, ?_⟩
  · exact ⟨hstall.cur ▸ hw.wait, hstall.cur ▸ hw.pend⟩
  · rw [hk.touches.rest, ← hhome]
    exact List.mem_append_right _ (List.mem_singleton.mpr rfl)

end

theorem boundedRequest_off (hoff : s.regionOn r = none) : exec (.boundedRequest w.core w.ctx) s =
    .next { withBytes (s.deciding w) { t with region := none } n va.toNat (fun v s => answer (s.setS d (ldbValue n sx v))) with cur := s.cur } := by
  have he := boundedRequest_eq hk hi hst hp
  rw [hr] at he
  dsimp only at he
  rwa [if_pos (by rw [show (s.deciding w).regionOn r = s.regionOn r from rfl, hoff, ht]; rfl)] at he

end

section
variable {s : State} {w : ThreadRef} {d : BitVec 5} {n : Nat} {sx : Bool} {q : BitVec 32} {t : Target} {va : Word} {r pa : Nat}
  (hk : w.core < 256) (hi : w.ctx < 24) (hst : (s.ctxOf w).st = .bound) (hp : (s.ctxOf w).pend = .bounded d n sx q t va)
  (hr : t.region = some r) (ht : t.loc = .main pa) (hoff : s.regionOn r = none)
include hk hi hst hp hr ht hoff

theorem boundedRequest_plain (ha : (s.ctxOf w).acksDue = 0) {l : Loaded} (hl : loadLine (s.deciding w) (s.deciding w).myWho { t with region := none } = .ok l) :
    ∃ v, exec (.boundedRequest w.core w.ctx) s = .next { v with cur := s.cur } ∧
      Served (s.deciding w) v ((s.ctxOf w).writeS d (ldbValue n sx (lineBytes l.line.1 (pa % 64) n))) := by
  have he := boundedRequest_off hk hi hst hp hr ht hoff
  rw [withBytes, withLine_ok hl] at he
  have hs := served_answer (loadedMe_looked (loadLine_looked hl) va.toNat) ha d (ldbValue n sx (lineBytes l.line.1 (pa % 64) n))
  refine ⟨_, he, ?_⟩
  dsimp only
  rw [show t.loc.off = pa % 64 by rw [ht]; rfl]
  exact hs

theorem boundedRequest_waits {v : State} (hl : loadLine (s.deciding w) (s.deciding w).myWho { t with region := none } = .error v) :
    ∃ u : State, exec (.boundedRequest w.core w.ctx) s = .next { u with cur := s.cur } ∧ (s.deciding w).SameBytes u ∧
      (s.deciding w).Waits u 1 va.toNat .reissue ∧ ∀ j, (u.ctxOf j).regs = (s.ctxOf j).regs := by
  have he := boundedRequest_off hk hi hst hp hr ht hoff
  rw [withBytes, withLine_error hl] at he
  have hv := (loadLine_keeping ..).1 v hl
  have hk := leave_keeps v 1 va.toNat .reissue
  have hw := leave_waits v 1 va.toNat .reissue
  refine ⟨_, he, hv.bytes.trans hk.bytes, ?_, fun j => ((hv.then hk).regs j)⟩
  exact ⟨hv.touches.cur ▸ hw.wait, hv.touches.cur ▸ hw.pend⟩

end

/-- One member of LDB: the load of `n` bytes with the extension that it names. -/
theorem ldb_acts {s : State} {i : Instr} {d a b : BitVec 5} {n : Nat} {sx : Bool} {ext : Nat → Word} (he : exec i s = .next (ldb s d a b n sx))
    (hext : ∀ v, ldbValue n sx v = ext v) :
    (∀ c s', checkMe s (s.S a) { r := true, size := n } = (.error c, s') → exec i s = .next (trap s' c (s.S a))) ∧
    (∀ t s', checkMe s (s.S a) { r := true, size := n } = (.ok t, s') →
      (t.region = none →
        (∀ l, loadLine s' s'.myWho t = .ok l → ∃ u, Asks s i u (s.me.writeS d (ext (lineBytes l.line.1 t.loc.off n))) (s.S a).toNat ∧ s.SameBytes u) ∧
        (∀ u, loadLine s' s'.myWho t = .error u → Retries s i 1 (s.S a).toNat)) ∧
      (∀ r, t.region = some r → 2 ^ 31 ≤ (s.S b).toNat → exec i s = .next (trap s' 0x01 (s.S b))) ∧
      (∀ r f, t.region = some r → (s.S b).toNat < 2 ^ 31 →
        ((∃ j < 8, FloorNames s.me.floors r j ∧ (∀ k < j, ¬ FloorNames s.me.floors r k) ∧ f = (SMap.get 0 s.me.floors j).setWidth 32) ∨
          ((∀ j < 8, ¬ FloorNames s.me.floors r j) ∧ f = 0)) →
        (∀ l, serveBounded s' s'.myWho t r (f - BitVec.ofNat 32 (s.S b).toNat) true = some l →
          ∃ u, Asks s i u (s.me.writeS d (ext (lineBytes l.line.1 t.loc.off n))) (s.S a).toNat ∧ s.SameBytes u) ∧
        (serveBounded s' s'.myWho t r (f - BitVec.ofNat 32 (s.S b).toNat) true = none → ∃ u, exec i s = .next u ∧
          s.Waits u 1 (s.S a).toNat (.bounded d n sx (f - BitVec.ofNat 32 (s.S b).toNat) t (s.S a)) ∧
          s.SameBytes u ∧ (∀ j, (u.ctxOf j).regs = (s.ctxOf j).regs) ∧ .boundedRequest s.cur.core s.cur.ctx ∈ u.agenda) ∧
        (∀ pa, t.loc = .main pa → s'.micro.copyAt s.cur.core (pa / 64) = none → s'.micro.l2At (clusterOf s.cur.core) (pa / 64) = none →
          serveBounded s' s'.myWho t r (f - BitVec.ofNat 32 (s.S b).toNat) true = none))) := by
  refine ⟨fun c s' h => ldb_traps he h, fun t s' h => ⟨fun hr => ⟨fun l hl => ?_, fun u hl => ldb_retries he h hr hl⟩, fun r hr hb => ldb_bound he h hr hb,
    fun r f hr hb hf => ⟨fun l hl => ?_, fun hl => ?_, fun pa ht h1 h2 => ?_⟩⟩⟩
  · rw [← hext]
    exact ldb_loads he h hr hl
  · rw [← hext]
    exact ldb_serves he h hr hb (by rw [floorOf_eq hf]) hl
  · exact ldb_forwards he h hr hb (by rw [floorOf_eq hf]) hl
  · have hcore : s'.myWho.core = s.cur.core := congrArg ThreadRef.core (checkMe_keeps h).touches.cur
    exact serveBounded_absent ht (by rw [hcore, h1]) (by rw [hcore, h2])

theorem ldbValue_double (v : Nat) : ldbValue 8 true v = BitVec.ofNat 64 v := BitVec.signExtend_eq _

/-- Settles O21. -/
theorem boundedLoadsAct : Obligations.BoundedLoadsAct := by
  refine ⟨fun s d a b => ⟨ldb_acts (n := 1) (sx := true) (ext := fun v => (BitVec.ofNat 8 v).signExtend 64) rfl (fun _ => rfl),
    ldb_acts (n := 2) (sx := true) (ext := fun v => (BitVec.ofNat 16 v).signExtend 64) rfl (fun _ => rfl),
    ldb_acts (n := 4) (sx := true) (ext := fun v => (BitVec.ofNat 32 v).signExtend 64) rfl (fun _ => rfl),
    ldb_acts (n := 8) (sx := true) (ext := fun v => BitVec.ofNat 64 v) rfl ldbValue_double,
    ldb_acts (n := 1) (sx := false) (ext := fun v => BitVec.ofNat 64 (v % 2 ^ 8)) rfl (fun _ => rfl),
    ldb_acts (n := 2) (sx := false) (ext := fun v => BitVec.ofNat 64 (v % 2 ^ 16)) rfl (fun _ => rfl),
    ldb_acts (n := 4) (sx := false) (ext := fun v => BitVec.ofNat 64 (v % 2 ^ 32)) rfl (fun _ => rfl)⟩, fun s k i d n sx q t va r pa hk hi hst ha hp hr ht => ⟨fun hon => ⟨fun u hg => ?_, fun s2 hg =>
      ⟨fun hv hd => ?_, fun hv hd => ?_, fun hv => ?_⟩⟩, fun hoff => ⟨fun l hl => ?_, fun v hl => ?_⟩⟩⟩
  · exact boundedRequest_stands (w := ⟨k, i⟩) hk hi hst hp hr ht hon hg
  · rw [ht] at hd
    exact boundedRequest_lost (w := ⟨k, i⟩) hk hi hst hp hr ht hon hg hv hd
  · rw [ht] at hd
    obtain ⟨u, hu, h⟩ := boundedRequest_serves (w := ⟨k, i⟩) hk hi hst hp hr ht hon hg ha hv hd
    exact ⟨u, hu, h.bytes, h.wait, h.pend, h.reply, h.regs⟩
  · exact boundedRequest_stalls (w := ⟨k, i⟩) hk hi hst hp hr ht hon hg hv
  · obtain ⟨u, hu, h⟩ := boundedRequest_plain (w := ⟨k, i⟩) hk hi hst hp hr ht hoff ha hl
    exact ⟨u, hu, h.bytes, h.wait, h.pend, h.reply, h.regs⟩
  · exact boundedRequest_waits (w := ⟨k, i⟩) hk hi hst hp hr ht hoff hl

end Sys2Proof.Machine
end

section
/-! SUPPORT. What the package files of its own accord (R87, R319, R329): stores to images and control blocks, which touch no core. -/

namespace Sys2Proof.Machine

/-- A state that differs in the bytes, in what is on its way and in the records of regions alone: every core stands. -/
structure State.Filed (s t : State) : Prop where
  rest : t = { s with mem := t.mem, side := t.side, hostMem := t.hostMem, peerMem := t.peerMem, micro := t.micro, agenda := t.agenda, due := t.due,
                      regions := t.regions, sliceViews := t.sliceViews, stalled := t.stalled, sdie := t.sdie }

theorem State.Filed.refl (s : State) : s.Filed s := ⟨rfl⟩

theorem State.Filed.trans {s t u : State} (h : s.Filed t) (h' : t.Filed u) : s.Filed u := ⟨by rw [h'.rest, h.rest]⟩

theorem State.Filed.cores {s t : State} (h : s.Filed t) : t.cores = s.cores := by rw [h.rest]

theorem State.Filed.core {s t : State} (h : s.Filed t) (k : Nat) : t.core k = s.core k := by rw [State.core, h.cores]; rfl

theorem State.Filed.cur {s t : State} (h : s.Filed t) : t.cur = s.cur := by rw [h.rest]

theorem State.Filed.ctxOf {s t : State} (h : s.Filed t) (q : ThreadRef) : t.ctxOf q = s.ctxOf q := by rw [State.ctxOf, State.ctxOf, h.core]

theorem State.Rounded.filed {s t : State} (h : s.Rounded t) : s.Filed t := ⟨by rw [h.rest]⟩

theorem State.Keeps.filed {s t : State} (h : s.Keeps t) (hc : t.cores = s.cores) : s.Filed t := ⟨by rw [h.touches.rest, hc]⟩

theorem writeBoth_filed (s : State) (l : Loc) (bs : ByteList) (side : Option Word) : s.Filed (s.writeBoth l bs side) := by
  cases side <;> cases l <;> exact ⟨rfl⟩

theorem storeHome_filed (s : State) {w : Who} (hw : w.thread = none) (t : Target) (pa c : Nat) (bs : ByteList) (side : Option Word) (rd : Bool) :
    s.Filed (storeHome s w t pa c bs side rd).2.2 := by
  unfold storeHome
  dsimp only
  rw [noteSeen, hw]
  exact (writeBoth_filed s t.loc bs side).trans ((State.Rounded.micro _ _).trans (watchReport_rounded _ hw _ _ _)).filed

theorem storeWindow_filed (s : State) (l : Loc) (c : Nat) (bs : ByteList) (side : Option Word) : s.Filed (storeWindow s l c bs side).2.2 :=
  (writeBoth_filed s l bs side).trans ⟨rfl⟩

theorem storeLine_filed {s : State} {w : Who} (hs : w.self = none) (hw : w.thread = none) {t : Target} {bs : ByteList} {side : Option Word} {a : Stored}
    (h : storeLine s w t bs side true = .ok a) : s.Filed a.2.2 := by
  have hhome (pa : Nat) : storesAtHome s w t pa true = true := rfl
  unfold storeLine at h
  dsimp only at h
  split at h
  · cases h
    exact State.Filed.refl s
  · split at h
    · rename_i pa _
      rw [hhome, if_pos rfl, accessGate, hs] at h
      cases h
      exact State.Filed.trans ⟨rfl⟩ (storeHome_filed _ hw ..)
    · cases h
      exact storeWindow_filed ..

theorem storeQuiet_filed (s : State) (w : Who) (t : Target) (bs : ByteList) (side : Option Word) : s.Filed (storeQuiet s w t bs side).2.2 := by
  obtain ⟨a, ha⟩ := storeLine_quiet s w t bs side
  rw [storeQuiet, ha]
  exact storeLine_filed rfl rfl ha

theorem storeDevice_filed (s : State) (w : Who) (t : Target) (bs : ByteList) : s.Filed (storeDevice s w t bs) :=
  (storeQuiet_filed s w t bs none).trans (takeRound_rounded _ _ _).filed

theorem check_filed (s : State) (w : Who) (va : Nat) (n : Need) : s.Filed (check s w va n).2 := (check_keeps s w va n).filed (check_cores s w va n)

theorem saveTarget_filed (s : State) (core : Nat) (a : Word) : s.Filed (saveTarget s core a).2 := by
  have h := check_filed s (saveWho s core) a.toNat { r := true, w := true, size := 8 }
  unfold saveTarget
  split <;> rename_i e <;> rw [e] at h <;> exact h

theorem setRun_rounded (s : State) (i : Nat) (f : Nat → Nat → Nat) : s.Rounded (s.setRun i f) := by
  unfold State.setRun
  dsimp only
  split
  · exact State.Rounded.refl s
  · exact State.physWrite_rounded ..

theorem addBarges_rounded (s : State) (i : Nat) (up : Bool) : s.Rounded (s.addBarges i up) := by
  unfold State.addBarges
  split
  · exact setRun_rounded ..
  · exact State.Rounded.refl s

theorem bumpOutstanding_filed (s : State) (tid core : Nat) : s.Filed (bumpOutstanding s tid core) := by
  unfold bumpOutstanding
  dsimp only
  split
  · exact State.Filed.refl s
  · have h := saveTarget_filed s core (SMap.get 0 s.spilled tid + 0x310)
    split <;> rename_i e <;> rw [e] at h
    · exact h
    · exact h.trans (storeDevice_filed ..)

end Sys2Proof.Machine
end

section
/-! O25 (R92, R194, R195, R216): engine instructions check, wait for their engine, or fork a barge. -/

namespace Sys2Proof.Machine

/-! ### What forking a barge leaves of the cores -/

/-- A step after which the engines and the staged registers of every core stand. -/
structure State.Geared (s t : State) : Prop where
  engines : ∀ k, (t.core k).engines = (s.core k).engines
  staged : ∀ k, (t.core k).staged = (s.core k).staged
  cur : t.cur = s.cur

theorem State.Geared.refl (s : State) : s.Geared s := ⟨fun _ => rfl, fun _ => rfl, rfl⟩

theorem State.Geared.trans {s t u : State} (h : s.Geared t) (h' : t.Geared u) : s.Geared u :=
  ⟨fun k => (h'.engines k).trans (h.engines k), fun k => (h'.staged k).trans (h.staged k), h'.cur.trans h.cur⟩

theorem State.Geared.setCore {s : State} {k : Nat} {c : Core} (h : c.engines = (s.core k).engines) (h' : c.staged = (s.core k).staged) : s.Geared (s.setCore k c) where
  engines j := by
    rw [State.core_setCore]
    split
    · subst j; exact h
    · rfl
  staged j := by
    rw [State.core_setCore]
    split
    · subst j; exact h'
    · rfl
  cur := rfl

theorem State.Geared.setCtx (s : State) (r : ThreadRef) (x : Context) : s.Geared (s.setCtx r x) := State.Geared.setCore rfl rfl

theorem State.Geared.foldl {α : Type} {f : State → α → State} (h : ∀ (s : State) (a : α), s.Geared (f s a)) (l : List α) (s : State) : s.Geared (l.foldl f s) := by
  induction l generalizing s with
  | nil => exact State.Geared.refl s
  | cons a l ih => exact (h s a).trans (ih (f s a))

theorem State.Filed.geared {s t : State} (h : s.Filed t) : s.Geared t := ⟨fun k => by rw [h.core], fun k => by rw [h.core], h.cur⟩

theorem State.Geared.post (s : State) (l : List Instr) : s.Geared (s.post l) := ⟨fun _ => rfl, fun _ => rfl, rfl⟩

theorem State.Geared.accept (s : State) (r : ThreadRef) : s.Geared (accept s r) := (State.Geared.setCtx s r _).trans (State.Geared.post ..)

/-- What a thread does to its own context leaves the engines as they are. -/
theorem State.Geared.asThread (s : State) (r : ThreadRef) (x : State → Context) : s.Geared (asThread s r (fun s => s.setMe (x s))) :=
  have h := State.Geared.setCtx { s with cur := r } r (x { s with cur := r })
  ⟨h.engines, h.staged, rfl⟩

theorem State.Geared.answerBar (s : State) (m : BarrierMsg) : s.Geared (answerBar s m) := by
  unfold Sys2Proof.Machine.answerBar
  dsimp only
  refine State.Geared.trans ?_ (State.Geared.accept _ _)
  have hsee : s.Geared (observeBar s m.who m.core m.index) := ⟨fun _ => rfl, fun _ => rfl, rfl⟩
  split
  · exact hsee.trans (State.Geared.asThread _ _ _)
  · exact hsee.trans (State.Geared.asThread _ _ _)
  · exact hsee
  · exact State.Geared.refl s

theorem State.Geared.barNotify (s : State) (k i : Nat) : s.Geared (barNotify s k i) := by
  unfold Sys2Proof.Machine.barNotify
  dsimp only
  refine State.Geared.trans ?_ (State.Geared.post _ _)
  refine State.Geared.trans ?_ (State.Geared.foldl State.Geared.answerBar _ _)
  exact State.Geared.setCore rfl rfl

theorem State.Geared.setBarrier (s : State) (k i : Nat) (b : Barrier) : s.Geared (s.setBarrier k i b) := State.Geared.setCore rfl rfl

theorem State.Geared.barDo (s : State) (k i : Nat) (st : BarStep) (c : Nat) : s.Geared (barDo s k i st c) := by
  unfold Sys2Proof.Machine.barDo
  dsimp only
  have hset (b : Barrier) : s.Geared (stampBar (s.setBarrier k i b) k i c) := (State.Geared.setBarrier s k i b).trans ⟨fun _ => rfl, fun _ => rfl, rfl⟩
  split
  · exact (hset _).trans ((State.Geared.barNotify _ k i).trans (State.Geared.setCore rfl rfl))
  · exact hset _

theorem State.Geared.barSignal (s : State) (h : BitVec 32) (st : BarStep) (part : Nat) (user : Bool) (c : Nat) : s.Geared (barSignal s h st part user c) := by
  unfold Sys2Proof.Machine.barSignal
  dsimp only
  split
  · exact State.Geared.refl s
  · split
    · exact State.Geared.setBarrier ..
    · exact State.Geared.barDo ..

/-- Where no remote thread waits at a barrier, a step on one changes no context. -/
theorem barSignal_calm {s : State} (hn : ∀ j, (s.core j).bwaiters = []) (h : BitVec 32) (st : BarStep) (part : Nat) (user : Bool) (c : Nat) :
    s.Synced (barSignal s h st part user c) := by
  unfold barSignal
  dsimp only
  split
  · exact State.Synced.refl s
  · split
    · exact State.Synced.setBarrier ..
    · exact ((barDo_moves ..).calm (fun m hm => by rw [hn] at hm; exact nomatch hm)).1

/-- A trace record stands apart from everything else of its core. -/
theorem State.Geared.traceAt (s : State) (k slot e : Nat) (pc data : Word) : s.Geared (s.traceAt k slot e pc data) where
  engines j := (congrArg Core.engines (State.traceAt_core s k slot e pc data j) :)
  staged j := (congrArg Core.staged (State.traceAt_core s k slot e pc data j) :)
  cur := by
    unfold State.traceAt
    split
    · exact State.setCore_cur ..
    · rfl

theorem State.traceAt_calm (s : State) (k slot e : Nat) (pc data : Word) :
    (∀ q, (s.traceAt k slot e pc data).ctxOf q = s.ctxOf q) ∧ ∀ j, ((s.traceAt k slot e pc data).core j).bwaiters = (s.core j).bwaiters := by
  refine ⟨fun q => ?_, fun j => (congrArg Core.bwaiters (State.traceAt_core s k slot e pc data j) :)⟩
  have h : ((s.traceAt k slot e pc data).core q.core).ctxs = (s.core q.core).ctxs := (congrArg Core.ctxs (State.traceAt_core s k slot e pc data q.core) :)
  rw [State.ctxOf, State.ctxOf, Core.ctx, Core.ctx, h]

/-! ### A command that an engine takes (R92) -/

theorem canAccept_iff (c : Core) (e : Nat) : c.canAccept e = true ↔ CanTake c e := by
  have hfree : (c.engine e).nextRec.isSome = true ↔ ∃ r < 8, ((c.engine e).barge r).st = .free := by
    rw [Engine.nextRec, List.find?_isSome]
    simp only [List.mem_map, List.mem_range, decide_eq_true_eq, exists_exists_and_eq_and]
    constructor
    · rintro ⟨i, -, h⟩
      exact ⟨_, Nat.mod_lt _ (by decide), h⟩
    · rintro ⟨r, hr, h⟩
      refine ⟨(r + 16 - ((c.engine e).last + 1) % 8) % 8, Nat.mod_lt _ (by decide), ?_⟩
      rw [show ((c.engine e).last + 1 + (r + 16 - ((c.engine e).last + 1) % 8) % 8) % 8 = r by omega]
      exact h
  rw [Core.canAccept, Bool.and_eq_true, Bool.and_eq_true, hfree, decide_eq_true_eq, Bool.not_eq_true', CanTake, and_assoc]

/-- The record that a command takes: the first free one after the last. -/
theorem nextRec_first {g : Engine} (h : g.nextRec.isSome = true) : ∃ j < 8, g.nextRec.getD 0 = (g.last + 1 + j) % 8 ∧ (g.barge (g.nextRec.getD 0)).st = .free ∧
    ∀ l < j, (g.barge ((g.last + 1 + l) % 8)).st ≠ .free := by
  obtain ⟨r, hr⟩ := Option.isSome_iff_exists.mp h
  rw [hr]
  rw [Engine.nextRec, List.find?_map] at hr
  obtain ⟨j, hj, hjr⟩ := Option.map_eq_some_iff.mp hr
  rw [List.find?_range_eq_some] at hj
  obtain ⟨hfree, hmem, hfirst⟩ := hj
  refine ⟨j, List.mem_range.mp hmem, hjr.symm, ?_, fun l hl hst => ?_⟩
  · rw [Option.getD_some, ← hjr]
    exact of_decide_eq_true hfree
  · have := hfirst l hl
    rw [Function.comp_apply, decide_eq_true hst] at this
    exact absurd this (by decide)

/-- The record of a command that issuer `i` forks. -/
def Issuer.forks (i : Issuer) (c : Command) (seq : Nat) : Barge :=
  { st := .queued, slot := i.slot, issuerCore := i.core, direct := i.direct, ctx := i.ctx, tid := i.tid, pc := addr56 i.pc.toNat, rcb := i.rcb,
    part := i.part, level := i.level, lease := i.lease, floors := i.floors, captured := i.captured, clk := i.clk, cmd := c, seq := seq }

/-- The engine that has taken it into record `r`. -/
def Engine.takes (g : Engine) (c : Command) (i : Issuer) (r : Nat) : Engine :=
  { g.setBarge r (i.forks c (g.seq + 1)) with queue := g.queue ++ [r], last := r, seq := g.seq + 1 }

theorem Engine.takes_barge (g : Engine) (c : Command) (i : Issuer) (r q : Nat) : (g.takes c i r).barge q = if q = r then i.forks c (g.seq + 1) else g.barge q :=
  Engine.barge_setBarge g r q (i.forks c (g.seq + 1))

theorem acceptBarge_eq (s : State) (k e : Nat) (c : Command) (i : Issuer) : ∃ s1 s2 s3 pc data,
    s1 = (s.setEngine k e (((s.core k).engine e).takes c i (acceptBarge s k e c i).1)).addBarges i.rcb.toNat true ∧ s2 = bumpOutstanding s1 i.tid i.core ∧
    s3 = s2.traceAt i.core i.slot 2 pc data ∧
    (acceptBarge s k e c i).2 = (barSignal s3 c.handle .fork i.part (decide (i.level = .u)) i.clk).post [.bargeStart k e] :=
  ⟨_, _, _, _, _, rfl, rfl, rfl, rfl⟩

theorem acceptBarge_geared (s : State) (k e : Nat) (c : Command) (i : Issuer) :
    (s.setEngine k e (((s.core k).engine e).takes c i (acceptBarge s k e c i).1)).Geared (acceptBarge s k e c i).2 := by
  obtain ⟨s1, s2, s3, pc, data, h1, h2, h3, h4⟩ := acceptBarge_eq s k e c i
  rw [h4, h3, h2, h1]
  refine State.Geared.trans ?_ (State.Geared.post _ _)
  refine State.Geared.trans ?_ (State.Geared.barSignal ..)
  refine State.Geared.trans ?_ (State.Geared.traceAt ..)
  exact (addBarges_rounded ..).filed.geared.trans (bumpOutstanding_filed ..).geared

/-- Where no remote thread waits at a barrier, it changes no context. -/
theorem acceptBarge_calm {s : State} (hn : ∀ j, (s.core j).bwaiters = []) (k e : Nat) (c : Command) (i : Issuer) (q : ThreadRef) :
    (acceptBarge s k e c i).2.ctxOf q = s.ctxOf q := by
  obtain ⟨s1, s2, s3, pc, data, h1, h2, h3, h4⟩ := acceptBarge_eq s k e c i
  generalize (acceptBarge s k e c i).1 = r at h1
  have hset (j : Nat) : ((s.setEngine k e (((s.core k).engine e).takes c i r)).core j).bwaiters = [] := by
    rw [State.setEngine, State.core_setCore]
    split
    · exact hn k
    · exact hn j
  have hf : (s.setEngine k e (((s.core k).engine e).takes c i r)).Filed s2 := by
    rw [h2, h1]
    exact (addBarges_rounded ..).filed.trans (bumpOutstanding_filed ..)
  have hn3 (j : Nat) : (s3.core j).bwaiters = [] := by rw [h3, (State.traceAt_calm ..).2, hf.core, hset]
  rw [h4]
  refine ((barSignal_calm hn3 ..).ctxOf q).trans ?_
  rw [h3, (State.traceAt_calm ..).1, hf.ctxOf]
  exact State.ctxOf_setCore_of_ctxs (by rfl) q

theorem acceptBarge_cur (s : State) (k e : Nat) (c : Command) (i : Issuer) : (acceptBarge s k e c i).2.cur = s.cur := (acceptBarge_geared s k e c i).cur

theorem acceptBarge_forks {s : State} {k e : Nat} (h : CanTake (s.core k) e) (c : Command) (i : Issuer) :
    Forks s k e c i (acceptBarge s k e c i).2 (acceptBarge s k e c i).1 := by
  have hsome : ((s.core k).engine e).nextRec.isSome = true := (Bool.and_eq_true _ _ ▸ (canAccept_iff (s.core k) e).mpr h : _ ∧ _).2
  obtain ⟨j, hj, hr, hfree, hfirst⟩ := nextRec_first hsome
  have hg : ((acceptBarge s k e c i).2.core k).engine e = ((s.core k).engine e).takes c i (acceptBarge s k e c i).1 := by
    rw [Core.engine, (acceptBarge_geared s k e c i).engines]
    exact State.engine_setEngine ..
  unfold Forks
  dsimp only
  rw [hg]
  exact ⟨⟨j, hj, hr, hfree, hfirst⟩, (Engine.takes_barge ..).trans (if_pos rfl), fun q hq => (Engine.takes_barge ..).trans (if_neg hq), rfl, rfl, rfl,
    List.mem_append_right _ (List.mem_singleton_self _)⟩

theorem Forks.congr {s s' u u' : State} {k e r : Nat} {c : Command} {i : Issuer} (h : Forks s k e c i u r) (hs : (s'.core k).engine e = (s.core k).engine e)
    (hu : (u'.core k).engine e = (u.core k).engine e) (ha : ∀ m ∈ u.agenda, m ∈ u'.agenda) : Forks s' k e c i u' r := by
  obtain ⟨h1, h2, h3, h4, h5, h6, h7⟩ := h
  unfold Forks
  dsimp only
  rw [hs, hu]
  exact ⟨h1, h2, h3, h4, h5, h6, ha _ h7⟩

/-! ### Issue (R194, R195) -/

/-- What an engine instruction whose command is `m` does: it traps, forks its barge, or waits for its engine. -/
def IssuesCommand (s : State) (i : Instr) (e : Nat) (m : Command) : Prop :=
  (∀ cause tval, checkCmd s s.cur.core m = some (cause, tval) → Traps s i cause tval) ∧
  (checkCmd s s.cur.core m = none → CanTake (s.core s.cur.core) e → ∃ u r, exec i s = .next (boundary u) ∧ Forks s s.cur.core e m (issuerOf s s.cur true) u r ∧
    ((∀ j, (s.core j).bwaiters = []) → ∀ t, u.ctxOf t = if t = s.cur then advance s.me else s.ctxOf t)) ∧
  (checkCmd s s.cur.core m = none → ¬ CanTake (s.core s.cur.core) e →
    ∃ t, exec i s = .next t ∧ s.Touches t s.me ∧ s.Waits t 7 e (.engine e m) ∧ s.SameBytes t)

/-- The thread goes on behind a barge that it has forked. -/
theorem retire_forks {s : State} {k e : Nat} (hk : CanTake (s.core k) e) (c : Command) (i : Issuer) : ∃ u, retire (acceptBarge s k e c i).2 = boundary u ∧
    Forks s k e c i u (acceptBarge s k e c i).1 ∧ u.cur = s.cur ∧
    ((∀ j, (s.core j).bwaiters = []) → ∀ t, u.ctxOf t = if t = s.cur then advance s.me else s.ctxOf t) := by
  have hcur := acceptBarge_cur s k e c i
  obtain ⟨u, hu, hr⟩ := retire_only (acceptBarge s k e c i).2
  refine ⟨u, hr, (acceptBarge_forks hk c i).congr rfl (Core.engine_of (hu.core k) e) (fun m hm => by rw [hu.rest]; exact hm), by rw [hu.rest]; exact hcur, fun hn t => ?_⟩
  have hme : (acceptBarge s k e c i).2.me = s.me := by rw [State.me, State.me, hcur, acceptBarge_calm hn]
  rw [hu.ctx, hcur, hme, acceptBarge_calm hn]

theorem issues_of {s : State} {i : Instr} {m : Command} (he : exec i s = .next (issueCmd s m)) : IssuesCommand s i (engineOf (opcodeOf m.word)) m := by
  refine ⟨fun cause tval h => ?_, fun h hk => ?_, fun h hk => ?_⟩
  · unfold issueCmd at he
    dsimp only at he
    simp only [h] at he
    exact he
  · obtain ⟨u, hr, hf, -, hc⟩ := retire_forks hk m (issuerOf s s.cur true)
    unfold issueCmd at he
    dsimp only at he
    simp only [h, (canAccept_iff _ _).mpr hk, if_true] at he
    exact ⟨u, _, he.trans (congrArg Host.Outcome.next hr), hf, hc⟩
  · unfold issueCmd at he
    dsimp only at he
    simp only [h] at he
    rw [if_neg (fun hc => hk ((canAccept_iff _ _).mp hc))] at he
    exact ⟨_, he, leave_touches .., leave_waits .., (leave_keeps ..).bytes⟩

/-! ### The words of the tables and their commands -/

theorem append_field {m n : Nat} (x : BitVec m) (y : BitVec n) : (x ++ y).toNat = x.toNat * 2 ^ n + y.toNat := by
  rw [BitVec.toNat_append, Nat.shiftLeft_eq, Nat.mul_comm, ← Nat.two_pow_add_eq_or_of_lt y.isLt]

theorem tWord_of {w : BitVec 32} {op fn : Nat} {d a c h : BitVec 4}
    (e : w.toNat = op * 2 ^ 25 + d.toNat * 2 ^ 21 + a.toNat * 2 ^ 17 + c.toNat * 2 ^ 13 + h.toNat * 2 ^ 9 + fn % 512) : w = tWord op d a c h fn := by
  apply BitVec.eq_of_toNat_eq
  rw [tWord, ← e, BitVec.toNat_ofNat, Nat.mod_eq_of_lt w.isLt]

/-- The descriptor that a command carries where it uses one. -/
def tileOf (s : State) (used : Bool) (r : BitVec 4) : BitVec 128 := if used then resolveDesc s.cur.core (s.T r) else 0

/-- Each word of the instruction issues its command on engine `e`, with the descriptors that it uses. -/
def RowIssues (s : State) (i : Instr) (e : Nat) (d a c h : BitVec 4) (u : Bool × Bool × Bool) : Prop :=
  ∀ w, encode i = some w → IssuesCommand s i e { word := w, handle := s.B h, td := tileOf s u.1 d, ta := tileOf s u.2.1 a, tb := tileOf s u.2.2 c }

theorem opcodeOf_tWord {op fn : Nat} (ho : op < 128) (d a c h : BitVec 4) : opcodeOf (tWord op d a c h fn) = op := by
  have hd := d.isLt
  have ha := a.isLt
  have hc := c.isLt
  have hh := h.isLt
  rw [opcodeOf, bitsOf_eq, tWord, BitVec.toNat_ofNat]
  omega

/-- A row of an engine: the instruction issues the command of its word, which uses the descriptors that its opcode and function name. -/
theorem row_issues {s : State} {i : Instr} {op fn e : Nat} {d a c h : BitVec 4} {u : Bool × Bool × Bool} (he : exec i s = .next (engineT s op d a c h fn))
    (hw : ∀ w, encode i = some w → w.toNat = op * 2 ^ 25 + d.toNat * 2 ^ 21 + a.toNat * 2 ^ 17 + c.toNat * 2 ^ 13 + h.toNat * 2 ^ 9 + fn % 512)
    (ho : op < 128) (hop : engineOf op = e) (hu : cmdUses op fn = u) : RowIssues s i e d a c h u := by
  intro w hiw
  have hword := tWord_of (hw w hiw)
  have hcmd : s.command op d a c h fn = { word := w, handle := s.B h, td := tileOf s u.1 d, ta := tileOf s u.2.1 a, tb := tileOf s u.2.2 c } := by
    rw [State.command, hu, hword]
    rfl
  have h := issues_of he
  rw [hcmd] at h
  dsimp only at h
  rwa [hword, opcodeOf_tWord ho, hop, ← hword] at h

theorem cmdUses_gather (m : BitVec 1) : cmdUses 0x4F (16 * m.toNat + 3) = (true, true, true) := by
  rw [cmdUses, show (16 * m.toNat + 3) % 16 = 3 by omega]
  rfl

theorem cmdUses_broadcast (b : BitVec 2) : cmdUses 0x4F (16 * b.toNat + 2) = (true, true, false) := by
  rw [cmdUses, show (16 * b.toNat + 2) % 16 = 2 by omega]
  rfl

section
variable (s : State) (d a c h p : BitVec 4) (v : BitVec 8) (k7 : BitVec 7) (n : BitVec 6) (w3 : BitVec 3) (w2 r2 : BitVec 2) (w1 : BitVec 1) (w5 : BitVec 5)

/-- The rows of the copy engine (R204 to R209). -/
theorem copy_rows : RowIssues s (.bcopy d a h) 0 d a 0 h (true, true, false) ∧ RowIssues s (.bcopyBnd d a h k7) 0 d a 0 h (true, true, false) ∧
    RowIssues s (.bcopyBsn d a h n) 0 d a 0 h (true, true, false) ∧ RowIssues s (.bfill d h v) 0 d 0 0 h (true, false, false) ∧
    RowIssues s (.bgath d a c h) 0 d a c h (true, true, true) ∧ RowIssues s (.bscat d a c h) 0 d a c h (true, true, true) ∧
    RowIssues s (.bpref d h) 0 d 0 0 h (true, false, false) ∧ RowIssues s (.bres d h w3) 0 d 0 0 h (true, false, false) ∧
    RowIssues s (.bevict d h) 0 d 0 0 h (true, false, false) ∧ RowIssues s (.bdemote d h) 0 d 0 0 h (true, false, false) ∧
    RowIssues s (.bown d h) 0 d 0 0 h (true, false, false) ∧ RowIssues s (.brel d h) 0 d 0 0 h (true, false, false) := by
  refine ⟨row_issues rfl ?_ (by decide) rfl rfl, row_issues rfl ?_ (by decide) rfl rfl, row_issues rfl ?_ (by decide) rfl rfl, row_issues rfl ?_ (by decide) rfl rfl,
    row_issues rfl ?_ (by decide) rfl rfl, row_issues rfl ?_ (by decide) rfl rfl, row_issues rfl ?_ (by decide) rfl rfl, row_issues rfl ?_ (by decide) rfl rfl,
    row_issues rfl ?_ (by decide) rfl rfl, row_issues rfl ?_ (by decide) rfl rfl, row_issues rfl ?_ (by decide) rfl rfl, row_issues rfl ?_ (by decide) rfl rfl⟩
  all_goals
    intro w hw
    cases hw
    simp only [append_field, BitVec.ofNat_eq_ofNat, BitVec.toNat_ofNat]
    omega

/-- The rows of the matrix engine (R211 to R216). -/
theorem matrix_rows : RowIssues s (.mxst a h w1) 1 0 a 0 h (false, true, false) ∧ RowIssues s (.mxma d a h w1) 1 d a 0 h (true, true, false) ∧
    RowIssues s (.mxmas d a h r2 w1) 1 d a 0 h (true, true, false) := by
  refine ⟨row_issues rfl ?_ (by decide) rfl rfl, row_issues rfl ?_ (by decide) rfl rfl, row_issues rfl ?_ (by decide) rfl rfl⟩
  all_goals
    intro w hw
    cases hw
    simp only [append_field, BitVec.ofNat_eq_ofNat, BitVec.toNat_ofNat]
    omega

/-- The rows of the vector engine (R217 to R225). -/
theorem vector_rows : RowIssues s (.vadd d a c h) 2 d a c h (true, true, true) ∧ RowIssues s (.vsub d a c h) 2 d a c h (true, true, true) ∧
    RowIssues s (.vmul d a c h) 2 d a c h (true, true, true) ∧ RowIssues s (.vfma d a c h) 2 d a c h (true, true, true) ∧
    RowIssues s (.vmin d a c h) 2 d a c h (true, true, true) ∧ RowIssues s (.vmax d a c h) 2 d a c h (true, true, true) ∧
    RowIssues s (.vabs d a h) 2 d a 0 h (true, true, false) ∧ RowIssues s (.vneg d a h) 2 d a 0 h (true, true, false) ∧
    RowIssues s (.vand d a c h) 2 d a c h (true, true, true) ∧ RowIssues s (.vor d a c h) 2 d a c h (true, true, true) ∧
    RowIssues s (.vxor d a c h) 2 d a c h (true, true, true) ∧ RowIssues s (.vnot d a h) 2 d a 0 h (true, true, false) ∧
    RowIssues s (.vshl d a c h) 2 d a c h (true, true, true) ∧ RowIssues s (.vshr d a c h) 2 d a c h (true, true, true) ∧
    RowIssues s (.vcmp d a c h w3) 2 d a c h (true, true, true) ∧ RowIssues s (.vsel d a c h) 2 d a c h (true, true, true) ∧
    RowIssues s (.vcvt d a h w2) 2 d a 0 h (true, true, false) ∧ RowIssues s (.vexp2 d a h) 2 d a 0 h (true, true, false) ∧
    RowIssues s (.vlog2 d a h) 2 d a 0 h (true, true, false) ∧ RowIssues s (.vrcp d a h) 2 d a 0 h (true, true, false) ∧
    RowIssues s (.vrsq d a h) 2 d a 0 h (true, true, false) ∧ RowIssues s (.vtanh d a h) 2 d a 0 h (true, true, false) ∧
    RowIssues s (.vred d a h w1 w2) 2 d a 0 h (true, true, false) ∧ RowIssues s (.vscan d a h r2 w2) 2 d a 0 h (true, true, false) ∧
    RowIssues s (.vtrn d a h) 2 d a 0 h (true, true, false) ∧ RowIssues s (.vbcst d a h w2) 2 d a 0 h (true, true, false) ∧
    RowIssues s (.vgath d a c h w1) 2 d a c h (true, true, true) ∧ RowIssues s (.vmov d a h) 2 d a 0 h (true, true, false) ∧
    RowIssues s (.vgen d h p) 2 d 0 0 h (true, false, false) ∧ RowIssues s (.vgenConst d h w5) 2 d 0 0 h (true, false, false) := by
  refine ⟨row_issues rfl ?_ (by decide) rfl rfl, row_issues rfl ?_ (by decide) rfl rfl, row_issues rfl ?_ (by decide) rfl rfl, row_issues rfl ?_ (by decide) rfl rfl,
    row_issues rfl ?_ (by decide) rfl rfl, row_issues rfl ?_ (by decide) rfl rfl, row_issues rfl ?_ (by decide) rfl rfl, row_issues rfl ?_ (by decide) rfl rfl,
    row_issues rfl ?_ (by decide) rfl rfl, row_issues rfl ?_ (by decide) rfl rfl, row_issues rfl ?_ (by decide) rfl rfl, row_issues rfl ?_ (by decide) rfl rfl,
    row_issues rfl ?_ (by decide) rfl rfl, row_issues rfl ?_ (by decide) rfl rfl, row_issues rfl ?_ (by decide) rfl rfl, row_issues rfl ?_ (by decide) rfl rfl,
    row_issues rfl ?_ (by decide) rfl rfl, row_issues rfl ?_ (by decide) rfl rfl, row_issues rfl ?_ (by decide) rfl rfl, row_issues rfl ?_ (by decide) rfl rfl,
    row_issues rfl ?_ (by decide) rfl rfl, row_issues rfl ?_ (by decide) rfl rfl, row_issues rfl ?_ (by decide) rfl rfl, row_issues rfl ?_ (by decide) rfl rfl,
    row_issues rfl ?_ (by decide) rfl rfl, row_issues rfl ?_ (by decide) rfl (cmdUses_broadcast w2), row_issues rfl ?_ (by decide) rfl (cmdUses_gather w1),
    row_issues rfl ?_ (by decide) rfl rfl, row_issues rfl ?_ (by decide) rfl rfl, row_issues rfl ?_ (by decide) rfl rfl⟩
  all_goals
    intro w hw
    cases hw
    simp only [append_field, BitVec.ofNat_eq_ofNat, BitVec.toNat_ofNat]
    omega

end

/-- CBLD and SKSET carry the values of their registers (R215, R216). -/
theorem loader_issues {s : State} {i : Instr} {op e : Nat} {x y : BitVec 5} (he : exec i s = .next (issueCmd s (xCommand s op x y)))
    (hw : ∀ w, encode i = some w → w.toNat = op * 2 ^ 25 + x.toNat * 2 ^ 15 + y.toNat * 2 ^ 10 + 9) (hop : engineOf op = e) :
    ∀ w, encode i = some w → IssuesCommand s i e { word := w, x := s.S x, y := s.S y } := by
  intro w hiw
  have hn := hw w hiw
  have hlt := w.isLt
  have hx := x.isLt
  have hy := y.isLt
  have hword : w = (xCommand s op x y).word := by
    apply BitVec.eq_of_toNat_eq
    rw [xCommand, BitVec.toNat_ofNat]
    omega
  have hopw : opcodeOf w = op := by
    rw [opcodeOf, bitsOf_eq]
    omega
  have h := issues_of he
  rw [← hword, hopw, hop, show xCommand s op x y = { word := w, x := s.S x, y := s.S y } by rw [hword]; rfl] at h
  exact h

theorem cbld_issues (s : State) (x y : BitVec 5) : ∀ w, encode (.cbld x y) = some w → IssuesCommand s (.cbld x y) 1 { word := w, x := s.S x, y := s.S y } := by
  refine loader_issues rfl (fun w hw => ?_) rfl
  cases hw
  simp only [append_field, BitVec.toNat_ofNat]
  omega

theorem skset_issues (s : State) (x y : BitVec 5) : ∀ w, encode (.skset x y) = some w → IssuesCommand s (.skset x y) 1 { word := w, x := s.S x, y := s.S y } := by
  refine loader_issues rfl (fun w hw => ?_) rfl
  cases hw
  simp only [append_field, BitVec.toNat_ofNat]
  omega

/-! ### The thread that waited for its engine (R194) -/

theorem CanTake.congr {c c' : Core} {e : Nat} (h : { c with ctxs := [] } = { c' with ctxs := [] }) : CanTake c e ↔ CanTake c' e := by
  have hd : c.dead = c'.dead := (congrArg Core.dead h :)
  rw [CanTake, CanTake, Core.engine_of h, hd]

section
variable {s : State} {k j e : Nat} {m : Command} (hk : k < 256) (hj : j < 24) (hst : (s.ctxOf ⟨k, j⟩).st = .bound) (hp : (s.ctxOf ⟨k, j⟩).pend = .engine e m)
include hk hj hst hp

theorem execEngineAccept_eq : exec (.engineAccept k j) s = if (s.core k).canAccept e = true then .next (asThread s ⟨k, j⟩ (fun u =>
      retire (acceptBarge (u.setMe { u.me with readyAt := u.cycle + 4, lastWait := 7 }) k e m (issuerOf s ⟨k, j⟩ true)).2)) else .next s := by
  have hex : ctxExists k j = true := ctxExists_of hk hj
  show execEngineAccept k j s = _
  rw [execEngineAccept, hex]
  simp only [hp, hst, Bool.not_true, Bool.false_eq_true, if_false] <;> rfl

theorem engineAccept_forks (hc : CanTake (s.core k) e) : ∃ (u : State) (q : Nat), exec (.engineAccept k j) s = .next { boundary u with cur := s.cur } ∧
    u.cur = ⟨k, j⟩ ∧ Forks s k e m (issuerOf s ⟨k, j⟩ true) u q ∧ ((∀ j, (s.core j).bwaiters = []) → ∀ t, u.ctxOf t =
      if t = ⟨k, j⟩ then advance { s.ctxOf ⟨k, j⟩ with readyAt := s.cycle + 4, lastWait := 7 } else s.ctxOf t) := by
  obtain ⟨y, hy⟩ : ∃ y, y = { s.ctxOf ⟨k, j⟩ with readyAt := s.cycle + 4, lastWait := 7 } := ⟨_, rfl⟩
  have he := execEngineAccept_eq hk hj hst hp
  rw [if_pos ((canAccept_iff _ _).mpr hc)] at he
  have hcore (n : Nat) : { (s.setCtx ⟨k, j⟩ y).core n with ctxs := [] } = { s.core n with ctxs := [] } := by
    rw [State.core_setCtx]
    split <;> rfl
  obtain ⟨t, ht⟩ : ∃ t, t = State.setMe { s with cur := ⟨k, j⟩ } y := ⟨_, rfl⟩
  have htc (n : Nat) : { t.core n with ctxs := [] } = { s.core n with ctxs := [] } := by rw [ht]; exact hcore n
  have htx (q : ThreadRef) : t.ctxOf q = if q = ⟨k, j⟩ then y else s.ctxOf q := by rw [ht]; exact State.ctxOf_setCtx s ⟨k, j⟩ q y
  have htr : t.cur = ⟨k, j⟩ := by rw [ht]; rfl
  obtain ⟨u, hr, hf, hcur, hcalm⟩ := retire_forks ((CanTake.congr (htc k)).mpr hc) m (issuerOf s ⟨k, j⟩ true)
  refine ⟨u, _, he.trans ?_, hcur.trans htr, hf.congr (Core.engine_of (htc k).symm e) rfl (fun _ h => h), fun hn q => ?_⟩
  · rw [← hr, ht, hy]
    rfl
  · have hme : t.me = y := by rw [State.me, htr, htx, if_pos rfl]
    have hbw (n : Nat) : (t.core n).bwaiters = (s.core n).bwaiters := (congrArg Core.bwaiters (htc n) :)
    rw [hcalm (fun n => (hbw n).trans (hn n)), htr, hme, htx, ← hy]
    split <;> rfl

theorem engineAccept_waits (hc : ¬ CanTake (s.core k) e) : exec (.engineAccept k j) s = .next s :=
  (execEngineAccept_eq hk hj hst hp).trans (if_neg (fun h => hc ((canAccept_iff _ _).mp h)))

end

/-- Settles O25, from the one lemma about issue, the words of the rows, and the acceptance that a waiting thread goes on at. -/
theorem engineCommandsFork : Obligations.EngineCommandsFork := by
  unfold Obligations.EngineCommandsFork
  refine ⟨fun s d a c h p v k7 n w3 w2 r2 w1 w5 x y => ?_, fun s k j e m hk hj hst hp =>
    ⟨engineAccept_forks hk hj hst hp, engineAccept_waits hk hj hst hp⟩⟩
  obtain ⟨c1, c2, c3, c4, c5, c6, c7, c8, c9, c10, c11, c12⟩ := copy_rows s d a c h v k7 n w3
  obtain ⟨m1, m2, m3⟩ := matrix_rows s d a h r2 w1
  obtain ⟨v1, v2, v3, v4, v5, v6, v7, v8, v9, v10, v11, v12, v13, v14, v15, v16, v17, v18, v19, v20, v21, v22, v23, v24, v25, v26, v27, v28, v29, v30⟩ :=
    vector_rows s d a c h p w3 w2 r2 w1 w5
  exact ⟨c1, c2, c3, c4, c5, c6, c7, c8, c9, c10, c11, c12, m1, m2, m3, v1, v2, v3, v4, v5, v6, v7, v8, v9, v10, v11, v12, v13, v14, v15, v16, v17, v18, v19, v20,
    v21, v22, v23, v24, v25, v26, v27, v28, v29, v30, cbld_issues s x y, skset_issues s x y⟩

end Sys2Proof.Machine
end

section
/-! O29 (R171, R172, R209, R303, R352): SEND and the receipt of its command. -/

namespace Sys2Proof.Machine

/-! ### The command line of a SEND (R171) -/

/-- The command of a line carries its word and its handle, the words of its first doubleword. -/
theorem lineCommand_head {k : Nat} {l : LineData} {c : Command} (h : lineCommand k l = some c) : c.word = l.setWidth 32 ∧ c.handle = l.extractLsb' 32 32 := by
  rw [lineCommand] at h
  dsimp only at h
  split at h
  · exact nomatch h
  · cases h
    constructor
    · apply BitVec.eq_of_toNat_eq
      simp only [lineWord, Nat.mul_zero, BitVec.ushiftRight_zero, BitVec.toNat_setWidth]
      omega
    · apply BitVec.eq_of_toNat_eq
      simp only [lineWord, Nat.mul_zero, BitVec.ushiftRight_zero, BitVec.toNat_setWidth, BitVec.toNat_ushiftRight, BitVec.extractLsb'_toNat, Nat.shiftRight_eq_div_pow]
      omega

section
variable {s s' : State} {d a b : BitVec 5} {e : BitVec 2}

theorem send_traps {c : Nat} (h : checkMe s (s.S b) { r := true, size := 64 } = (.error c, s')) : exec (.send d a b e) s = .next (trap s' c (s.S b)) := by
  show execSend d a b e s = _
  rw [execSend, h]

variable {t : Target} (h : checkMe s (s.S b) { r := true, size := 64 } = (.ok t, s'))
include h

theorem send_retries {u : State} (hl : loadLine s' s'.myWho t = .error u) : Retries s (.send d a b e) 1 (s.S b).toNat := by
  refine retries_of (t := u) ?_ ((checkMe_keeps h).then ((loadLine_keeping s' s'.myWho t).1 u hl))
  show execSend d a b e s = _
  rw [execSend, h]
  exact congrArg _ (withLine_error hl _ _)

variable {l : Loaded} (hl : loadLine s' s'.myWho t = .ok l)
include hl

theorem send_loaded : s.Keeps (loadedMe s' l (s.S b).toNat) := (checkMe_keeps h).then (loadedMe_keeps ((loadLine_keeping s' s'.myWho t).2 l hl) (s.S b).toNat)

/-- What SEND does with the line that it has loaded. -/
theorem execSend_loaded : exec (.send d a b e) s = .next (match lineCommand s.cur.core l.line.1 with
    | none => trap (loadedMe s' l (s.S b).toNat) 0x01 (s.S b)
    | some c =>
      if !sendWordOk e.toNat c.word then trap (loadedMe s' l (s.S b).toNat) 0x01 (s.S b)
      else if (s.S a).toNat ≥ (if e = 3 then 64 else 256) then trap (loadedMe s' l (s.S b).toNat) 0x01 (s.S a)
      else (leave (loadedMe s' l (s.S b).toNat) 9 (s.S a).toNat .message).post
        [if e = 3 then .hubCommand ⟨e.toNat, (s.S a).toNat, c.word, c.handle, c.td, c.ta, c.tb, s.cur, d, s.S b⟩
         else .sendCommandReceipt ⟨e.toNat, (s.S a).toNat, c.word, c.handle, c.td, c.ta, c.tb, s.cur, d, s.S b⟩]) := by
  show execSend d a b e s = _
  rw [execSend, h]
  refine congrArg _ ((withLine_ok hl _ _).trans ?_)
  dsimp only
  rw [(send_loaded h hl).touches.cur] <;> rfl

theorem send_malformed (hbad : lineCommand s.cur.core l.line.1 = none ∨ sendWordOk e.toNat (l.line.1.setWidth 32) = false) :
    exec (.send d a b e) s = .next (trap (loadedMe s' l (s.S b).toNat) 0x01 (s.S b)) := by
  rw [execSend_loaded h hl]
  cases hc : lineCommand s.cur.core l.line.1 with
  | none => rfl
  | some c =>
    have hw : sendWordOk e.toNat c.word = false := by
      obtain hn | hw := hbad
      · exact nomatch hn.symm.trans hc
      · rwa [(lineCommand_head hc).1]
    simp only [hw, Bool.not_false, if_true]

variable {c : Command} (hc : lineCommand s.cur.core l.line.1 = some c) (hw : sendWordOk e.toNat (l.line.1.setWidth 32) = true)
include hc hw

theorem send_target (hn : (if e = 3 then 64 else 256) ≤ (s.S a).toNat) :
    exec (.send d a b e) s = .next (trap (loadedMe s' l (s.S b).toNat) 0x01 (s.S a)) := by
  have hw' : sendWordOk e.toNat c.word = true := by rwa [(lineCommand_head hc).1]
  rw [execSend_loaded h hl]
  simp only [hc, hw', Bool.not_true, Bool.false_eq_true, if_false]
  rw [if_pos hn]

theorem send_sends (hn : (s.S a).toNat < if e = 3 then 64 else 256) : Sends s (.send d a b e) s.me 9 (s.S a).toNat
    (if e = 3 then .hubCommand ⟨e.toNat, (s.S a).toNat, l.line.1.setWidth 32, c.handle, c.td, c.ta, c.tb, s.cur, d, s.S b⟩
     else .sendCommandReceipt ⟨e.toNat, (s.S a).toNat, l.line.1.setWidth 32, c.handle, c.td, c.ta, c.tb, s.cur, d, s.S b⟩) := by
  have hk := send_loaded h hl
  have hw' : sendWordOk e.toNat c.word = true := by rwa [(lineCommand_head hc).1]
  refine sends_of (t := loadedMe s' l (s.S b).toNat) ?_ hk.touches hk.bytes
  rw [execSend_loaded h hl]
  simp only [hc, hw', Bool.not_true, Bool.false_eq_true, if_false]
  rw [if_neg (Nat.not_le.mpr hn), (lineCommand_head hc).1]

end

/-! ### Receipt (R172) -/

/-- The answer of a receipt: the sender's register, and the reply on its way. -/
theorem accept_answers (t : State) (r : ThreadRef) (d : BitVec 5) (v : Word) :
    ((accept (asThread t r (fun s => s.setS d v)) r).ctxOf r).readS d = (if d = 0 then 0 else v) ∧
    ((accept (asThread t r (fun s => s.setS d v)) r).ctxOf r).pend = .reply ∧
    .memoryReply r.core r.ctx ∈ (accept (asThread t r (fun s => s.setS d v)) r).agenda := by
  have hx : (asThread t r (fun s => s.setS d v)).ctxOf r = (t.ctxOf r).writeS d v :=
    (State.ctxOf_setMe { t with cur := r } ((t.ctxOf r).writeS d v) r).trans (if_pos rfl)
  rw [accept_ctxOf, if_pos rfl, hx]
  refine ⟨?_, rfl, accept_reply _ r⟩
  refine (Context.readS_writeS (t.ctxOf r) d d v).trans ?_
  rw [if_pos rfl]

theorem accept_sameBytes (t : State) (r : ThreadRef) (d : BitVec 5) (v : Word) : t.SameBytes (accept (asThread t r (fun s => s.setS d v)) r) := by
  rw [State.sameBytes_iff, accept_bytes, asThread_bytes, State.setS_bytes]
  rfl

theorem accept_geared (t : State) (r : ThreadRef) (d : BitVec 5) (v : Word) : t.Geared (accept (asThread t r (fun s => s.setS d v)) r) :=
  (State.Geared.asThread t r (fun s => s.me.writeS d v)).trans (State.Geared.accept ..)

/-- What a receipt at engine `e` of core `k` does, and what its answer is from the record. -/
def Receives (s : State) (m : SendMsg) (i : Instr) (k e : Nat) (id : Nat → Nat) : Prop :=
  (∀ cause v, checkCmd s k (sendCmd m) = some (cause, v) → TrapsThread s i s m.who cause m.addr) ∧
  (checkCmd s k (sendCmd m) = none → CanTake (s.core k) e → ∃ u r, exec i s = .next u ∧ Forks s k e (sendCmd m) (issuerOf s m.who false) u r ∧
    (u.ctxOf m.who).readS m.d = (if m.d = 0 then 0 else BitVec.ofNat 64 (id r)) ∧ (u.ctxOf m.who).pend = .reply ∧
    .memoryReply m.who.core m.who.ctx ∈ u.agenda) ∧
  (checkCmd s k (sendCmd m) = none → ¬ CanTake (s.core k) e → exec i s =
    .next { s with hubBuf := SMap.set [] s.hubBuf (k / 4) (SMap.get [] s.hubBuf (k / 4) ++ [i]) })

theorem receives_of {s : State} {m : SendMsg} {i : Instr} {k e : Nat} {id : Nat → Nat} {answer : Nat → Word} (hk : k < 256)
    (he : exec i s = .next (receiveCommand s k e m answer i)) (hid : ∀ r < 8, answer r = BitVec.ofNat 64 (id r)) : Receives s m i k e id := by
  unfold receiveCommand at he
  refine ⟨fun cause v hc => ?_, fun hc ht => ?_, fun hc ht => ?_⟩
  · simp only [hc] at he
    exact he
  · simp only [hc, (canAccept_iff _ _).mpr ht, if_true] at he
    obtain ⟨t, hteq⟩ : ∃ t, t = (acceptBarge s k e (sendCmd m) (issuerOf s m.who false)).2 := ⟨_, rfl⟩
    obtain ⟨r, hreq⟩ : ∃ r, r = (acceptBarge s k e (sendCmd m) (issuerOf s m.who false)).1 := ⟨_, rfl⟩
    have hf := acceptBarge_forks ht (sendCmd m) (issuerOf s m.who false)
    rw [← hteq, ← hreq] at hf he
    obtain ⟨h1, h2, h3⟩ := accept_answers t m.who m.d (answer r)
    have hr : r < 8 := by
      obtain ⟨⟨j, -, hj, -⟩, -⟩ := hf
      rw [hj]
      exact Nat.mod_lt _ (by decide)
    rw [hid r hr] at h1 h2 h3 he
    have hg := (accept_geared t m.who m.d (BitVec.ofNat 64 (id r))).engines k
    refine ⟨_, r, he, hf.congr rfl ?_ (fun x hx => List.mem_append_left _ hx), h1, h2, h3⟩
    rw [Core.engine, Core.engine, hg]
  · simp only [hc] at he
    rw [if_neg (fun h => ht ((canAccept_iff _ _).mp h))] at he
    rw [he, clusterOf, Nat.mod_eq_of_lt (by omega)]

section
variable {s : State} {m : SendMsg} (ha : Awaits s m.who)
include ha

theorem sendCommandReceipt_receives (ht : m.target < 256) (he : m.e < 3) :
    Receives s m (.sendCommandReceipt m) m.target m.e (fun r => m.target * 2 ^ 5 + m.e * 2 ^ 3 + r) := by
  refine receives_of (answer := fun r => BitVec.ofNat 64 (bargeId m.target m.e r)) ht ?_ (fun r hr => ?_)
  · show execSendCommandReceipt m s = _
    rw [execSendCommandReceipt, ha.exists, ha.waits, coreExists, decide_eq_true ht, decide_eq_false (Nat.not_le.mpr he)]
    rfl
  · rw [bargeId, Nat.mod_eq_of_lt ht, Nat.mod_eq_of_lt (by omega : m.e < 4), Nat.mod_eq_of_lt hr]
    rfl

section
variable (ht : m.target < 64)
include ht

/-- A hub that is sent a copy passes it to the core whose local store it writes. -/
theorem execHubCommand_copy (hop : m.command.toNat / 2 ^ 25 = 0x38) : exec (.hubCommand m) s =
    if inLs (m.d0.toNat % 2 ^ 56) && decide (clusterOf (m.d0.toNat % 2 ^ 56 / 2 ^ 20 % 256) = m.target)
      then .next (receiveCommand s (m.d0.toNat % 2 ^ 56 / 2 ^ 20 % 256) 0 m (fun _ => 0) (.hubCommand m))
      else .next (refuse s m.who (0x01, m.addr)) := by
  have hlt := m.command.isLt
  have hbits : bitsOf m.d0 55 0 = m.d0.toNat % 2 ^ 56 := by rw [bitsOf_eq, Nat.pow_zero, Nat.div_one]
  have hopc : opcodeOf m.command = 0x38 := by rw [opcodeOf, bitsOf_eq]; omega
  show execHubCommand m s = _
  rw [execHubCommand, if_neg (by rw [ha.exists]; simp only [Bool.true_eq_false, or_false]; omega), ha.waits, hopc]
  dsimp only
  rw [hbits]
  rfl

theorem hubCommand_receives (hop : m.command.toNat / 2 ^ 25 = 0x38) (hls : m.d0.toNat % 2 ^ 56 / 2 ^ 28 = 0x00F000000)
    (hcl : m.d0.toNat % 2 ^ 56 / 2 ^ 20 % 256 / 4 = m.target) : Receives s m (.hubCommand m) (m.d0.toNat % 2 ^ 56 / 2 ^ 20 % 256) 0 (fun _ => 0) := by
  refine receives_of (answer := fun _ => 0) (Nat.mod_lt _ (by decide)) ?_ (fun _ _ => rfl)
  have hc : clusterOf (m.d0.toNat % 2 ^ 56 / 2 ^ 20 % 256) = m.target := by rw [clusterOf]; omega
  rw [execHubCommand_copy ha ht hop, inLs_eq_true.mpr hls, decide_eq_true hc]
  rfl

theorem hubCommand_elsewhere (hop : m.command.toNat / 2 ^ 25 = 0x38) (h : m.d0.toNat % 2 ^ 56 / 2 ^ 28 ≠ 0x00F000000 ∨
    m.d0.toNat % 2 ^ 56 / 2 ^ 20 % 256 / 4 ≠ m.target) : TrapsThread s (.hubCommand m) s m.who 0x01 m.addr := by
  rw [TrapsThread, execHubCommand_copy ha ht hop, if_neg]
  · rfl
  · rw [Bool.and_eq_true, inLs_eq_true, decide_eq_true_iff, clusterOf]
    omega

/-- The prefetches of a hub for the sender. -/
def hubWho (s : State) (m : SendMsg) : Who :=
  let i := issuerOf s m.who false
  ⟨4 * m.target, i.core, i.slot, i.level, i.part, i.clk, leaseOf i.lease, none, some (.hubCommand m), false⟩

def hubLines (m : SendMsg) : List Nat := (List.range (Tile.ofBits m.d0).lines).filter (Tile.ofBits m.d0).lineLive

theorem execHubCommand_prefetch (hop : m.command.toNat / 2 ^ 25 ≠ 0x38) : exec (.hubCommand m) s = match checkCmd s (4 * m.target) (sendCmd m) with
    | some (c, _) => .next (refuse s m.who (c, m.addr))
    | none => match hubPrefetch m.target (hubWho s m) (Tile.ofBits m.d0) (hubLines m) s with
      | .error u => .next u
      | .ok u => .next (accept (asThread (barSignal u m.handle .arrive (issuerOf s m.who false).part (decide ((issuerOf s m.who false).level = .u))
          (issuerOf s m.who false).clk) m.who (fun s => s.setS m.d 0)) m.who) := by
  have hlt := m.command.isLt
  have hopc : opcodeOf m.command ≠ 0x38 := by rw [opcodeOf, bitsOf_eq]; omega
  show execHubCommand m s = _
  rw [execHubCommand, if_neg (by rw [ha.exists]; simp only [Bool.true_eq_false, or_false]; omega), ha.waits, Bool.not_true, if_neg Bool.false_ne_true, if_neg hopc]
  rfl

theorem hubCommand_refuses (hop : m.command.toNat / 2 ^ 25 ≠ 0x38) {cause : Nat} {v : Word} (hc : checkCmd s (4 * m.target) (sendCmd m) = some (cause, v)) :
    TrapsThread s (.hubCommand m) s m.who cause m.addr := by
  rw [TrapsThread, execHubCommand_prefetch ha ht hop]
  simp only [hc]
  rfl

end

end

/-- A prefetch of a line finds it at hand, waits for it, or fills the cache with it. -/
theorem prefetchLine_eq (s : State) (w : Who) (core : Nat) {t : Target} {pa : Nat} (h : t.loc.place = some pa) : ∃ (c : Bool) (f : State → State),
    (∀ x : State, x.SameBytes (f x)) ∧ prefetchLine s w core t = if c then .ok s else match accessGate s w (pa / 64) .gets with
      | .error x => .error x
      | .ok x => .ok (f x) := by
  unfold prefetchLine
  rw [h]
  refine ⟨_, fun x => _, fun x => ?_, rfl⟩
  exact (((State.Looked.micro x _).then (watchReport_looked ..)).then (fillCopies_looked ..)).bytes

theorem prefetchLine_bytes (s : State) (w : Who) (core : Nat) (t : Target) : (∀ u, prefetchLine s w core t = .error u → s.SameBytes u) ∧
    ∀ u, prefetchLine s w core t = .ok u → s.SameBytes u := by
  cases h : t.loc.place with
  | none =>
    rw [prefetchLine, h]
    exact ⟨fun u h => (nomatch h), fun u h => by cases h; exact State.SameBytes.refl s⟩
  | some pa =>
    obtain ⟨c, f, hf, e⟩ := prefetchLine_eq s w core h
    rw [e]
    cases c with
    | true => exact ⟨fun u h => (nomatch h), fun u h => by cases h; exact State.SameBytes.refl s⟩
    | false =>
      rw [if_neg Bool.false_ne_true]
      cases hg : accessGate s w (pa / 64) .gets with
      | error x => exact ⟨fun u h => by cases h; exact ((accessGate_keeps ..).1 x hg).bytes, fun u h => (nomatch h)⟩
      | ok x => exact ⟨fun u h => (nomatch h), fun u h => by cases h; exact ((accessGate_keeps ..).2 x hg).bytes.trans (hf x)⟩

theorem hubPrefetch_bytes (cl : Nat) (w : Who) (t : Tile) (l : List Nat) (s : State) : (∀ u, hubPrefetch cl w t l s = .error u → s.SameBytes u) ∧
    ∀ u, hubPrefetch cl w t l s = .ok u → s.SameBytes u := by
  induction l generalizing s with
  | nil => exact ⟨fun u h => (nomatch h), fun u h => by cases h; exact State.SameBytes.refl s⟩
  | cons i l ih =>
    have hk := (check_keeps s w (t.lineAddr i) { r := true }).bytes
    unfold hubPrefetch
    rcases hc : check s w (t.lineAddr i) { r := true } with ⟨_ | g, x⟩ <;> rw [hc] at hk
    · exact ⟨fun u h => hk.trans ((ih _).1 u h), fun u h => hk.trans ((ih _).2 u h)⟩
    · cases hp : prefetchLine x w (4 * cl) g with
      | error y =>
        simp only [hp]
        exact ⟨fun u h => by cases h; exact hk.trans ((prefetchLine_bytes ..).1 _ hp), fun u h => (nomatch h)⟩
      | ok y =>
        have hy := hk.trans ((prefetchLine_bytes ..).2 _ hp)
        simp only [hp]
        exact ⟨fun u h => hy.trans ((ih _).1 u h), fun u h => hy.trans ((ih _).2 u h)⟩

theorem barSignal_bytes (s : State) (h : BitVec 32) (st : BarStep) (part : Nat) (user : Bool) (c : Nat) : s.SameBytes (barSignal s h st part user c) := by
  unfold barSignal
  dsimp only
  split
  · exact State.SameBytes.refl s
  · split
    · exact ⟨rfl, rfl, rfl, rfl⟩
    · exact (barDo_moves ..).bytes

section
variable {s : State} {m : SendMsg} (ha : Awaits s m.who) (ht : m.target < 64) (hop : m.command.toNat / 2 ^ 25 ≠ 0x38)
  (hc : checkCmd s (4 * m.target) (sendCmd m) = none)
include ha ht hop hc

theorem hubCommand_stands {u : State} (hf : hubPrefetch m.target (hubWho s m) (Tile.ofBits m.d0) (hubLines m) s = .error u) :
    exec (.hubCommand m) s = .next u ∧ s.SameBytes u := by
  refine ⟨?_, (hubPrefetch_bytes ..).1 u hf⟩
  rw [execHubCommand_prefetch ha ht hop]
  simp only [hc, hf]

theorem hubCommand_prefetches {s' : State} (hf : hubPrefetch m.target (hubWho s m) (Tile.ofBits m.d0) (hubLines m) s = .ok s') :
    ∃ u, exec (.hubCommand m) s = .next u ∧ s.SameBytes u ∧ (u.ctxOf m.who).readS m.d = 0 ∧ (u.ctxOf m.who).pend = .reply ∧
      .memoryReply m.who.core m.who.ctx ∈ u.agenda := by
  have he := execHubCommand_prefetch ha ht hop
  simp only [hc, hf] at he
  obtain ⟨t, hteq⟩ : ∃ t, t = barSignal s' m.handle .arrive (issuerOf s m.who false).part (decide ((issuerOf s m.who false).level = .u))
    (issuerOf s m.who false).clk := ⟨_, rfl⟩
  have hb : s.SameBytes t := by
    rw [hteq]
    exact ((hubPrefetch_bytes ..).2 s' hf).trans (barSignal_bytes ..)
  rw [← hteq] at he
  obtain ⟨h1, h2, h3⟩ := accept_answers t m.who m.d 0
  refine ⟨_, he, ?_, h1.trans (ite_self _), h2, h3⟩
  exact hb.trans (accept_sameBytes ..)

end

/-- Settles O29, by the outcomes of SEND's checks and of the two receipts. -/
theorem sendReachesEngines : Obligations.SendReachesEngines := by
  unfold Obligations.SendReachesEngines
  refine ⟨fun s d a b e => ⟨fun c s' h => send_traps h, fun t s' h => ⟨fun u hu => send_retries h hu, fun ld hl =>
      ⟨fun hbad => send_malformed h hl hbad, fun c hc hw => ⟨(lineCommand_head hc).1, (lineCommand_head hc).2, fun hn => send_target h hl hc hw hn,
        fun hn he => ?send, fun hn he => ?hub⟩⟩⟩⟩,
    fun s m ha => ⟨fun ht he => ?receipt, fun ht hop => ⟨fun hls hcl => ?copy, fun h => ?elsewhere⟩,
      fun ht hop => ⟨fun cause v hc => ?refused, fun hc => ⟨fun u hf => ?stands, fun u hf => ?prefetched⟩⟩⟩⟩
  case receipt => exact sendCommandReceipt_receives ha ht he
  case copy => exact hubCommand_receives ha ht hop hls hcl
  case elsewhere => exact hubCommand_elsewhere ha ht hop h
  case refused => exact hubCommand_refuses ha ht hop hc
  case stands => exact hubCommand_stands ha ht hop hc hf
  case prefetched => exact hubCommand_prefetches ha ht hop hc hf
  case send =>
    have := send_sends (d := d) h hl hc hw hn
    rwa [if_neg he] at this
  case hub =>
    have := send_sends (d := d) h hl hc hw hn
    rwa [if_pos he] at this

end Sys2Proof.Machine
end

section
/-! O30 (R226, R227): the event crossbar is programmed, fires, and launches what is staged. -/

namespace Sys2Proof.Machine

/-! ### Programming (R226) -/

theorem opcodeOf_eq (w : BitVec 32) : opcodeOf w = w.toNat / 2 ^ 25 := by
  have hw := w.isLt
  rw [opcodeOf, bitsOf_eq]
  omega

/-- An entry that another partition programmed. -/
def State.Foreign (s : State) (owner : Nat) : Prop := s.me.level = .u ∧ owner ≠ 0 ∧ owner ≠ (s.core s.cur.core).partOf s.me.slot + 1

theorem foreignEntry_iff (s : State) (owner : Nat) : foreignEntry s owner = true ↔ s.Foreign owner := by
  rw [foreignEntry, Bool.and_eq_true, Bool.and_eq_true, isUser, decide_eq_true_iff, decide_eq_true_iff, decide_eq_true_iff, State.Foreign, and_assoc]
  rfl

/-- An instruction that programs the crossbar: it retires with what its entry held, on a core that `f` describes. -/
def Programs (s : State) (n : Instr) (d : BitVec 5) (v : Word) (f : Core → Prop) : Prop := ∃ u, exec n s = .next (boundary u) ∧ s.SameBytes u ∧
  (∀ t, u.ctxOf t = if t = s.cur then advance (s.me.writeS d v) else s.ctxOf t) ∧ f (u.core s.cur.core)

theorem programs_of {s : State} {n : Instr} {d : BitVec 5} {v : Word} {y : Core} {f : Core → Prop} (he : exec n s = .next (writeRetire (s.setMyCore y) d v))
    (hy : y.ctxs = (s.core s.cur.core).ctxs)
    (hf : ∀ z : Core, z.counters = y.counters → z.terms = y.terms → z.armed = y.armed → z.staged = y.staged → f z) : Programs s n d v f := by
  obtain ⟨u, hu, hr⟩ := writeRetire_only (s.setMyCore y) d v
  have hx (q : ThreadRef) : (s.setMyCore y).ctxOf q = s.ctxOf q := State.ctxOf_setCore_of_ctxs hy q
  have hc : { u.core s.cur.core with ctxs := [] } = { y with ctxs := [] } := by
    rw [hu.core, State.setMyCore, State.core_setCore_same]
  refine ⟨u, he.trans (congrArg _ hr), ?_, fun t => ?_, hf _ (congrArg Core.counters hc :) (congrArg Core.terms hc :) (congrArg Core.armed hc :)
    (congrArg Core.staged hc :)⟩
  · rw [hu.rest]
    exact ⟨rfl, rfl, rfl, rfl⟩
  · rw [hu.ctx, hx]
    show (if t = s.cur then advance (((s.setMyCore y).ctxOf s.cur).writeS d v) else _) = _
    rw [hx]
    rfl

/-- The fields of a counter's source. -/
theorem badSource_iff (v : Word) : (bitsOf v 15 4 ≠ 0 ∨ bitsOf v 63 27 ≠ 0 ∨ bitsOf v 3 0 > 5 ∨ (bitsOf v 3 0 = 5 ∧ bitsOf v 26 22 ≠ 0)) ↔
    (v.toNat / 2 ^ 4 % 2 ^ 12 ≠ 0 ∨ v.toNat / 2 ^ 27 ≠ 0 ∨ 5 < v.toNat % 16 ∨ (v.toNat % 16 = 5 ∧ v.toNat / 2 ^ 22 ≠ 0)) := by
  have hv := v.isLt
  rw [bitsOf_eq, bitsOf_eq, bitsOf_eq, bitsOf_eq]
  omega

section
variable {s : State} {d a b : BitVec 5}

theorem xbsetCtr_range (h : 32 ≤ (s.S a).toNat) : Traps s (.xbsetCtr d a b) 0x01 (s.S a) := congrArg Host.Outcome.next (if_pos h)

section
variable (h : (s.S a).toNat < 32)
include h

theorem xbsetCtr_foreign (hf : s.Foreign (SMap.get ({} : XCounter) (s.core s.cur.core).counters (s.S a).toNat).owner) : Traps s (.xbsetCtr d a b) 0x04 (s.S a) :=
  congrArg Host.Outcome.next ((if_neg (Nat.not_le.mpr h)).trans (if_pos ((foreignEntry_iff _ _).mpr hf)))

variable (hf : ¬ s.Foreign (SMap.get ({} : XCounter) (s.core s.cur.core).counters (s.S a).toNat).owner)
include hf

theorem xbsetCtr_source (hb : (s.S b).toNat / 2 ^ 4 % 2 ^ 12 ≠ 0 ∨ (s.S b).toNat / 2 ^ 27 ≠ 0 ∨ 5 < (s.S b).toNat % 16 ∨
    ((s.S b).toNat % 16 = 5 ∧ (s.S b).toNat / 2 ^ 22 ≠ 0)) : Traps s (.xbsetCtr d a b) 0x01 (s.S b) :=
  congrArg Host.Outcome.next ((if_neg (Nat.not_le.mpr h)).trans ((if_neg (fun hx => hf ((foreignEntry_iff _ _).mp hx))).trans (if_pos ((badSource_iff _).mpr hb))))

theorem xbsetCtr_sets (hb : ¬ ((s.S b).toNat / 2 ^ 4 % 2 ^ 12 ≠ 0 ∨ (s.S b).toNat / 2 ^ 27 ≠ 0 ∨ 5 < (s.S b).toNat % 16 ∨
      ((s.S b).toNat % 16 = 5 ∧ (s.S b).toNat / 2 ^ 22 ≠ 0))) :
    Programs s (.xbsetCtr d a b) d (BitVec.ofNat 64 (SMap.get ({} : XCounter) (s.core s.cur.core).counters (s.S a).toNat).count) (fun y =>
      SMap.get {} y.counters (s.S a).toNat = ⟨(s.S b).toNat % 16, (s.S b).toNat / 2 ^ 16 % 2 ^ 11, 0, (s.core s.cur.core).partOf s.me.slot + 1, 0⟩ ∧
      (∀ j, j ≠ (s.S a).toNat → SMap.get {} y.counters j = SMap.get {} (s.core s.cur.core).counters j) ∧
      y.terms = (s.core s.cur.core).terms ∧ y.armed = (s.core s.cur.core).armed ∧ y.staged = (s.core s.cur.core).staged) := by
  refine programs_of (congrArg Host.Outcome.next ((if_neg (Nat.not_le.mpr h)).trans ((if_neg (fun hx => hf ((foreignEntry_iff _ _).mp hx))).trans
    (if_neg (fun hx => hb ((badSource_iff _).mp hx)))))) rfl (fun z h1 h2 h3 h4 => ?_)
  rw [h1, h2, h3, h4]
  refine ⟨(SMap.get_set_same ..).trans ?_, fun j hj => SMap.get_set_other _ _ _ hj, rfl, rfl, rfl⟩
  rw [bitsOf_eq, bitsOf_eq, Nat.pow_zero, Nat.div_one]
  rfl

end

/-- XBSET.term's first word: its reserved bits, its index and its register. -/
theorem termWord_fields (v : Word) : bitsOf v 5 0 = v.toNat % 64 ∧ bitsOf v 11 8 = v.toNat / 2 ^ 8 % 16 ∧
    ((bitsOf v 7 6 ≠ 0 ∨ bitsOf v 63 13 ≠ 0) ↔ (v.toNat / 2 ^ 6 % 4 ≠ 0 ∨ v.toNat / 2 ^ 13 ≠ 0)) := by
  have hv := v.isLt
  rw [bitsOf_eq, bitsOf_eq, bitsOf_eq, bitsOf_eq]
  omega

/-- Another partition's entries among those that a term names. -/
def State.TermForeign (s : State) (n r : Nat) (conds : Word) : Prop :=
  s.Foreign (SMap.get ({} : XTerm) (s.core s.cur.core).terms n).owner ∨ s.Foreign (SMap.get ({} : Staged) (s.core s.cur.core).staged r).owner ∨
    ∃ j < 4, conds.getLsbD (16 * j + 15) = true ∧ s.Foreign (SMap.get ({} : XCounter) (s.core s.cur.core).counters (conds.toNat / 2 ^ (16 * j + 10) % 32)).owner

theorem mem_termCounters (conds : Word) (n : Nat) : n ∈ termCounters conds ↔ ∃ j < 4, conds.getLsbD (16 * j + 15) = true ∧ n = conds.toNat / 2 ^ (16 * j + 10) % 32 := by
  have hbits (j : Nat) : bitsOf conds (16 * j + 14) (16 * j + 10) = conds.toNat / 2 ^ (16 * j + 10) % 32 := by
    rw [bitsOf_eq, show 16 * j + 14 + 1 - (16 * j + 10) = 5 by omega, show 2 ^ 5 = 32 from rfl]
  rw [termCounters, List.mem_map]
  constructor
  · rintro ⟨p, hp, rfl⟩
    rw [XTerm.used, List.mem_filterMap] at hp
    obtain ⟨j, hj, h⟩ := hp
    rw [xCond] at h
    dsimp only at h
    split at h
    · rename_i hb
      cases h
      exact ⟨j, List.mem_range.mp hj, hb, hbits j⟩
    · exact nomatch h
  · rintro ⟨j, hj, hb, rfl⟩
    refine ⟨(xCond conds j).2, ?_, hbits j⟩
    rw [XTerm.used, List.mem_filterMap]
    exact ⟨j, List.mem_range.mpr hj, if_pos hb⟩

theorem termForeign_iff (s : State) (n r : Nat) (conds : Word) : (foreignEntry s (SMap.get ({} : XTerm) s.myCore.terms n).owner ||
    foreignEntry s (SMap.get ({} : Staged) s.myCore.staged r).owner ||
    (termCounters conds).any (fun n => foreignEntry s (SMap.get ({} : XCounter) s.myCore.counters n).owner)) = true ↔ s.TermForeign n r conds := by
  rw [Bool.or_eq_true, Bool.or_eq_true, foreignEntry_iff, foreignEntry_iff, List.any_eq_true, State.TermForeign, or_assoc]
  refine or_congr Iff.rfl (or_congr Iff.rfl ?_)
  constructor
  · rintro ⟨m, hm, hf⟩
    obtain ⟨j, hj, hb, rfl⟩ := (mem_termCounters ..).mp hm
    exact ⟨j, hj, hb, (foreignEntry_iff ..).mp hf⟩
  · rintro ⟨j, hj, hb, hf⟩
    exact ⟨_, (mem_termCounters ..).mpr ⟨j, hj, hb, rfl⟩, (foreignEntry_iff ..).mpr hf⟩

def Core.setTerm (c : Core) (n : Nat) (t : XTerm) : Core := { c with terms := SMap.set {} c.terms n t }

theorem xbsetTerm_bad (h : (s.S a).toNat / 2 ^ 6 % 4 ≠ 0 ∨ (s.S a).toNat / 2 ^ 13 ≠ 0) : Traps s (.xbsetTerm d a b) 0x01 (s.S a) :=
  congrArg Host.Outcome.next (if_pos ((termWord_fields _).2.2.mpr h))

section
variable (h : ¬ ((s.S a).toNat / 2 ^ 6 % 4 ≠ 0 ∨ (s.S a).toNat / 2 ^ 13 ≠ 0))
include h

/-- What XBSET.term does with a word in its form. -/
theorem execXbsetTerm_eq : exec (.xbsetTerm d a b) s = .next (
    if foreignEntry s (SMap.get ({} : XTerm) s.myCore.terms ((s.S a).toNat % 64)).owner ||
        foreignEntry s (SMap.get ({} : Staged) s.myCore.staged ((s.S a).toNat / 2 ^ 8 % 16)).owner ||
        (termCounters (s.S b)).any (fun n => foreignEntry s (SMap.get ({} : XCounter) s.myCore.counters n).owner) then trap s 0x04 (s.S a)
    else writeRetire (s.setMyCore (s.myCore.setTerm ((s.S a).toNat % 64) ⟨s.S b, (s.S a).toNat / 2 ^ 8 % 16, (s.S a).getLsbD 12, s.ownerMark⟩)) d (SMap.get ({} : XTerm) s.myCore.terms ((s.S a).toNat % 64)).conds) := by
  obtain ⟨h1, h2, h3⟩ := termWord_fields (s.S a)
  show execXbsetTerm d a b s = _
  rw [execXbsetTerm, if_neg (fun hx => h (h3.mp hx)), h1, h2]
  rfl

theorem xbsetTerm_foreign (hf : s.TermForeign ((s.S a).toNat % 64) ((s.S a).toNat / 2 ^ 8 % 16) (s.S b)) : Traps s (.xbsetTerm d a b) 0x04 (s.S a) :=
  (execXbsetTerm_eq h).trans (congrArg Host.Outcome.next (if_pos ((termForeign_iff ..).mpr hf)))

theorem xbsetTerm_sets (hf : ¬ s.TermForeign ((s.S a).toNat % 64) ((s.S a).toNat / 2 ^ 8 % 16) (s.S b)) :
    Programs s (.xbsetTerm d a b) d (SMap.get ({} : XTerm) (s.core s.cur.core).terms ((s.S a).toNat % 64)).conds (fun y =>
      SMap.get {} y.terms ((s.S a).toNat % 64) = ⟨s.S b, (s.S a).toNat / 2 ^ 8 % 16, (s.S a).getLsbD 12, (s.core s.cur.core).partOf s.me.slot + 1⟩ ∧
      (∀ j, j ≠ (s.S a).toNat % 64 → SMap.get {} y.terms j = SMap.get {} (s.core s.cur.core).terms j) ∧
      y.counters = (s.core s.cur.core).counters ∧ y.armed = (s.core s.cur.core).armed ∧ y.staged = (s.core s.cur.core).staged) := by
  have he : exec (.xbsetTerm d a b) s = _ := (execXbsetTerm_eq h).trans (congrArg Host.Outcome.next (if_neg (fun hx => hf ((termForeign_iff ..).mp hx))))
  refine programs_of he rfl (fun z h1 h2 h3 h4 => ?_)
  rw [h1, h2, h3, h4]
  exact ⟨SMap.get_set_same .., fun j hj => SMap.get_set_other _ _ _ hj, rfl, rfl, rfl⟩

end

/-! ### Arming (R226) -/

/-- A term of another partition in a mask. -/
def State.MaskForeign (s : State) (m : Word) : Prop := ∃ j < 64, m.getLsbD j = true ∧ s.Foreign (SMap.get ({} : XTerm) (s.core s.cur.core).terms j).owner

theorem foreignTerms_iff (s : State) (m : Word) : foreignTerms s m = true ↔ s.MaskForeign m := by
  rw [foreignTerms, List.any_eq_true, State.MaskForeign]
  simp only [List.mem_range, Bool.and_eq_true, foreignEntry_iff]
  rfl

theorem xbarm_foreign (h : s.MaskForeign (s.S a)) : Traps s (.xbarmOn d a) 0x04 (s.S a) ∧ Traps s (.xbarmOff d a) 0x04 (s.S a) :=
  ⟨congrArg Host.Outcome.next (if_pos ((foreignTerms_iff ..).mpr h)), congrArg Host.Outcome.next (if_pos ((foreignTerms_iff ..).mpr h))⟩

/-- A map of the members of a family, each by its key, which leaves the default. -/
theorem SMap.get_mapKey {V : Type} (d : V) (g : Nat → V → V) (hd : ∀ k, g k d = d) (m : SMap V) (k : Nat) :
    SMap.get d (m.map (fun p => (p.1, g p.1 p.2))) k = g k (SMap.get d m k) := by
  induction m with
  | nil => exact (hd k).symm
  | cons p t ih =>
    simp only [List.map_cons, SMap.get]
    split
    · rename_i hk
      rw [hk]
    · exact ih

/-- A term that the mask disarms starts register `n`. -/
def Core.disarms (c : Core) (mask : Word) (n : Nat) : Bool := (List.range 64).any (fun j => mask.getLsbD j && decide ((SMap.get ({} : XTerm) c.terms j).staged = n))

theorem Core.dropLaunches_get (c : Core) (mask : Word) (n : Nat) : SMap.get ({} : Staged) (c.dropLaunches mask) n =
    if c.disarms mask n then { SMap.get ({} : Staged) c.staged n with pending := 0 } else SMap.get {} c.staged n := by
  have hmap : c.dropLaunches mask = c.staged.map (fun p => (p.1, (fun k g => if c.disarms mask k then { g with pending := 0 } else g) p.1 p.2)) := by
    rw [Core.dropLaunches]
    refine List.map_congr_left fun p _ => ?_
    show (if c.disarms mask p.1 then (p.1, { p.2 with pending := 0 }) else p) = (p.1, if c.disarms mask p.1 then { p.2 with pending := 0 } else p.2)
    split <;> rfl
  rw [hmap]
  exact SMap.get_mapKey ({} : Staged) (fun k g => if c.disarms mask k then { g with pending := 0 } else g) (fun k => ite_self _) c.staged n

section
variable (h : ¬ s.MaskForeign (s.S a))
include h

theorem xbarmOn_arms : Programs s (.xbarmOn d a) d (s.core s.cur.core).armed (fun y => y.armed = (s.core s.cur.core).armed ||| s.S a ∧
    y.counters = (s.core s.cur.core).counters ∧ y.terms = (s.core s.cur.core).terms) := by
  refine programs_of (congrArg Host.Outcome.next (if_neg (fun hx => h ((foreignTerms_iff ..).mp hx)))) rfl (fun z h1 h2 h3 _ => ?_)
  rw [h1, h2, h3]
  exact ⟨rfl, rfl, rfl⟩

theorem xbarmOff_disarms : Programs s (.xbarmOff d a) d (s.core s.cur.core).armed (fun y => y.armed = (s.core s.cur.core).armed &&& ~~~s.S a ∧
    y.counters = (s.core s.cur.core).counters ∧ y.terms = (s.core s.cur.core).terms ∧ ∀ n, SMap.get {} y.staged n =
      if (s.core s.cur.core).disarms (s.S a) n then { SMap.get ({} : Staged) (s.core s.cur.core).staged n with pending := 0 }
      else SMap.get {} (s.core s.cur.core).staged n) := by
  refine programs_of (congrArg Host.Outcome.next (if_neg (fun hx => h ((foreignTerms_iff ..).mp hx)))) rfl (fun z h1 h2 h3 h4 => ?_)
  rw [h1, h2, h3, h4]
  exact ⟨rfl, rfl, rfl, fun n => Core.dropLaunches_get ..⟩

end

/-! ### Staging (R226) -/

theorem State.Geared.setMe (s : State) (x : Context) : s.Geared (s.setMe x) := State.Geared.setCtx s s.cur x

theorem awaitReply_geared (s : State) (obj : Nat) : s.Geared (awaitReply s obj) := by
  refine State.Geared.trans ?_ (State.Geared.post _ _)
  unfold leave
  split
  · exact State.Geared.setMe ..
  · exact (State.Geared.setMe ..).trans (State.Geared.traceAt ..)

/-- What is staged for the thread of `s`. -/
def State.stages (s : State) (c : Command) : Staged :=
  { enabled := true, cmd := c, core := s.cur.core, slot := s.me.slot, ctx := s.cur.ctx, tid := s.me.tid, rcb := s.me.rcb, part := s.myPart, level := s.me.level,
    lease := s.me.lease, floors := s.me.floors, pending := 0, owner := s.ownerMark, clk := s.clkOf s.cur }

def Core.stage (c : Core) (n : Nat) (g : Staged) : Core := { c with staged := SMap.set {} c.staged n g }

/-- What XBSET.stage does with the line that it has loaded. -/
def stageLine (n : Nat) (d : BitVec 5) (ea : Word) (l : LineData × Word) (s : State) : State := match lineCommand s.cur.core l.1 with
  | none => trap s 0x01 ea
  | some c =>
    if !sendWordOk (engineOf (opcodeOf c.word)) c.word then trap s 0x01 ea
    else awaitReply ((s.setMyCore (s.myCore.stage n (s.stages c))).setS d 0) ea.toNat

section
variable {s : State} {l : LineData × Word} (n : Nat) (d : BitVec 5) (ea : Word)

theorem stageLine_malformed (h : lineCommand s.cur.core l.1 = none ∨ sendWordOk (engineOf ((l.1.setWidth 32 : BitVec 32).toNat / 2 ^ 25)) (l.1.setWidth 32) = false) :
    stageLine n d ea l s = trap s 0x01 ea := by
  unfold stageLine
  cases hc : lineCommand s.cur.core l.1 with
  | none => rfl
  | some c =>
    have hw := h.resolve_left (by rw [hc]; exact nofun)
    dsimp only
    rw [(lineCommand_head hc).1, opcodeOf_eq, hw]
    rfl

theorem stageLine_stages {c : Command} (hc : lineCommand s.cur.core l.1 = some c)
    (hw : sendWordOk (engineOf ((l.1.setWidth 32 : BitVec 32).toNat / 2 ^ 25)) (l.1.setWidth 32) = true) :
    stageLine n d ea l s = awaitReply ((s.setMyCore (s.myCore.stage n (s.stages c))).setS d 0) ea.toNat := by
  unfold stageLine
  simp only [hc]
  rw [(lineCommand_head hc).1, opcodeOf_eq, hw]
  rfl

end

theorem xbsetStage_range (h : 16 ≤ (s.S a).toNat) : Traps s (.xbsetStage d a b) 0x01 (s.S a) := congrArg Host.Outcome.next (if_pos h)

section
variable (h : (s.S a).toNat < 16)
include h

theorem xbsetStage_foreign (hf : s.Foreign (SMap.get ({} : Staged) (s.core s.cur.core).staged (s.S a).toNat).owner) : Traps s (.xbsetStage d a b) 0x04 (s.S a) :=
  congrArg Host.Outcome.next ((if_neg (Nat.not_le.mpr h)).trans (if_pos ((foreignEntry_iff _ _).mpr hf)))

variable (hf : ¬ s.Foreign (SMap.get ({} : Staged) (s.core s.cur.core).staged (s.S a).toNat).owner)
include hf

omit h in
theorem stage_own : ¬ foreignEntry s (SMap.get ({} : Staged) s.myCore.staged (s.S a).toNat).owner = true := fun hx => hf ((foreignEntry_iff _ _).mp hx)

theorem xbsetStage_traps {e : Nat} {s' : State} (hc : checkMe s (s.S b) { r := true, size := 64 } = (.error e, s')) :
    exec (.xbsetStage d a b) s = .next (trap s' e (s.S b)) := by
  show execXbsetStage d a b s = _
  rw [execXbsetStage, if_neg (Nat.not_le.mpr h), if_neg (stage_own hf), hc]

section
variable {s' : State} {t : Target} (hc : checkMe s (s.S b) { r := true, size := 64 } = (.ok t, s'))
include hc

theorem xbsetStage_retries {u : State} (hl : loadLine s' s'.myWho t = .error u) : Retries s (.xbsetStage d a b) 1 (s.S b).toNat := by
  refine retries_of (t := u) ?_ ((checkMe_keeps hc).then ((loadLine_keeping s' s'.myWho t).1 u hl))
  show execXbsetStage d a b s = _
  rw [execXbsetStage, if_neg (Nat.not_le.mpr h), if_neg (stage_own hf), hc]
  exact congrArg _ (withLine_error hl _ _)

variable {l : Loaded} (hl : loadLine s' s'.myWho t = .ok l)
include hl

omit h hf in
theorem xbsetStage_keeps : s.Keeps (loadedMe s' l (s.S b).toNat) := (checkMe_keeps hc).then (loadedMe_keeps ((loadLine_keeping s' s'.myWho t).2 l hl) (s.S b).toNat)

theorem xbsetStage_loaded : exec (.xbsetStage d a b) s = .next (stageLine (s.S a).toNat d (s.S b) l.line (loadedMe s' l (s.S b).toNat)) := by
  show execXbsetStage d a b s = _
  rw [execXbsetStage, if_neg (Nat.not_le.mpr h), if_neg (stage_own hf), hc]
  exact congrArg _ (withLine_ok hl _ _)

theorem xbsetStage_malformed (hbad : lineCommand s.cur.core l.line.1 = none ∨
    sendWordOk (engineOf ((l.line.1.setWidth 32 : BitVec 32).toNat / 2 ^ 25)) (l.line.1.setWidth 32) = false) :
    exec (.xbsetStage d a b) s = .next (trap (loadedMe s' l (s.S b).toNat) 0x01 (s.S b)) := by
  rw [xbsetStage_loaded h hf hc hl, stageLine_malformed (l := l.line) _ _ _ (by rwa [(xbsetStage_keeps hc hl).touches.cur])]

theorem xbsetStage_stages {c : Command} (hm : lineCommand s.cur.core l.line.1 = some c)
    (hw : sendWordOk (engineOf ((l.line.1.setWidth 32 : BitVec 32).toNat / 2 ^ 25)) (l.line.1.setWidth 32) = true) :
    ∃ u g, exec (.xbsetStage d a b) s = .next u ∧ s.SameBytes u ∧ s.Waits u 1 (s.S b).toNat .reply ∧
      (∀ t, (u.ctxOf t).regs = if t = s.cur then (s.me.writeS d 0).regs else (s.ctxOf t).regs) ∧
      SMap.get {} (u.core s.cur.core).staged (s.S a).toNat = g ∧ g.enabled = true ∧ g.cmd = c ∧ g.tid = s.me.tid ∧ g.rcb = s.me.rcb ∧ g.lease = s.me.lease ∧
      g.floors = s.me.floors ∧ g.pending = 0 ∧ g.owner = (s.core s.cur.core).partOf s.me.slot + 1 ∧
      ∀ j, j ≠ (s.S a).toNat → SMap.get {} (u.core s.cur.core).staged j = SMap.get ({} : Staged) (s.core s.cur.core).staged j := by
  have hk := xbsetStage_keeps hc hl
  have he := xbsetStage_loaded (d := d) h hf hc hl
  obtain ⟨v, hv⟩ : ∃ v, v = loadedMe s' l (s.S b).toNat := ⟨_, rfl⟩
  rw [← hv] at hk he
  rw [stageLine_stages _ _ _ (by rwa [hk.touches.cur]) hw] at he
  have hcur := hk.touches.cur
  have hme := hk.touches.me_eq
  have hcore := hk.touches.core s.cur.core
  obtain ⟨y, hy⟩ : ∃ y, y = v.setMyCore (v.myCore.stage (s.S a).toNat (v.stages c)) := ⟨_, rfl⟩
  rw [← hy] at he
  have hserve : s.Serves y s.me := by
    rw [hy]
    exact hk.serves.steady (State.Steady.setCore rfl) rfl
  obtain ⟨u, eu, hb, hwait, -, hregs, -, -⟩ := awaits_as he hserve
  have hstaged : (u.core s.cur.core).staged = SMap.set {} (s.core s.cur.core).staged (s.S a).toNat (v.stages c) := by
    rw [Host.Outcome.next.inj (eu.symm.trans he)]
    refine ((awaitReply_geared (y.setS d 0) _).staged s.cur.core).trans (((State.Geared.setMe y _).staged s.cur.core).trans ?_)
    rw [hy, State.setMyCore, State.myCore, hcur, State.core_setCore_same]
    exact congrArg (fun m => SMap.set {} m (s.S a).toNat (v.stages c)) (congrArg Core.staged hcore :)
  refine ⟨u, v.stages c, eu, hb, hwait, hregs, by rw [hstaged, SMap.get_set_same], rfl, rfl, (congrArg Context.tid hme :), (congrArg Context.rcb hme :),
    (congrArg Context.lease hme :), (congrArg Context.floors hme :), rfl, ?_, fun j hj => by rw [hstaged, SMap.get_set_other _ _ _ hj]⟩
  have hslot : v.me.slot = s.me.slot := (congrArg Context.slot hme :)
  have hpart : (v.core s.cur.core).slotpart = (s.core s.cur.core).slotpart := (congrArg Core.slotpart hcore :)
  show v.myPart + 1 = _
  rw [State.myPart, State.myCore, hcur, hslot, Core.partOf, Core.partOf, hpart]

end

end

end

/-! ### A term fires (R227) -/

theorem termReady_iff (c : Core) (i : Nat) : c.termReady i = true ↔ c.armed.getLsbD i = true ∧ (SMap.get ({} : XTerm) c.terms i).used ≠ [] ∧
    (∀ p ∈ (SMap.get ({} : XTerm) c.terms i).used, p.2 ≤ (SMap.get ({} : XCounter) c.counters p.1).count) ∧
    (SMap.get ({} : Staged) c.staged (SMap.get ({} : XTerm) c.terms i).staged).pending < 255 := by
  rw [Core.termReady, Bool.and_eq_true, Bool.and_eq_true, Bool.and_eq_true, Bool.not_eq_true', List.isEmpty_eq_false_iff, List.all_eq_true, decide_eq_true_iff, and_assoc, and_assoc]
  simp only [decide_eq_true_iff]

/-- The thresholds of a term, subtracted one after another. -/
def subtractAll (l : List (Nat × Nat)) (m : SMap XCounter) : SMap XCounter :=
  l.foldl (fun m p => SMap.set {} m p.1 { SMap.get ({} : XCounter) m p.1 with count := (SMap.get ({} : XCounter) m p.1).count - p.2 }) m

theorem subtractAll_cons (p : Nat × Nat) (l : List (Nat × Nat)) (m : SMap XCounter) : subtractAll (p :: l) m =
    subtractAll l (SMap.set {} m p.1 { SMap.get ({} : XCounter) m p.1 with count := (SMap.get ({} : XCounter) m p.1).count - p.2 }) := rfl

theorem subtractAll_other {l : List (Nat × Nat)} {n : Nat} (h : n ∉ l.map (·.1)) (m : SMap XCounter) :
    SMap.get ({} : XCounter) (subtractAll l m) n = SMap.get {} m n := by
  induction l generalizing m with
  | nil => rfl
  | cons p l ih =>
    rw [List.map_cons, List.mem_cons, not_or] at h
    rw [subtractAll_cons, ih h.2, SMap.get_set_other _ _ _ h.1]

theorem subtractAll_count {l : List (Nat × Nat)} (h : (l.map (·.1)).Nodup) (m : SMap XCounter) : ∀ p ∈ l,
    (SMap.get ({} : XCounter) (subtractAll l m) p.1).count = (SMap.get ({} : XCounter) m p.1).count - p.2 := by
  induction l generalizing m with
  | nil => exact fun p hp => (nomatch hp)
  | cons q l ih =>
    rw [List.map_cons, List.nodup_cons] at h
    obtain ⟨hq, hl⟩ := h
    intro p hp
    rw [subtractAll_cons]
    obtain rfl | hp := List.mem_cons.mp hp
    · rw [subtractAll_other hq, SMap.get_set_same]
    · have hne : p.1 ≠ q.1 := fun e => hq (e ▸ List.mem_map_of_mem hp)
      rw [ih hl _ p hp, SMap.get_set_other _ _ _ hne]

theorem Staged.start_eq (g : Staged) (now clk : Nat) : g.start now clk =
    (let g : Staged := { g with clk := max g.clk clk }
     if g.enabled = true ∧ g.startAt ≠ now + 1 then { g with pending := g.pending + 1, startAt := now + 1 } else g) := by
  unfold Staged.start
  dsimp only
  by_cases h : g.enabled = true ∧ g.startAt ≠ now + 1
  · rw [if_pos h, if_neg]
    rw [h.1, decide_eq_false h.2]
    exact Bool.false_ne_true
  · rw [if_neg h, if_pos]
    rw [Bool.or_eq_true, Bool.not_eq_true', decide_eq_true_iff]
    by_cases he : g.enabled = true
    · exact .inr (Decidable.not_not.mp fun hs => h ⟨he, hs⟩)
    · exact .inl (Bool.eq_false_iff.mpr he)

/-- A fired term stays armed only if it rearms. -/
theorem disarm_bit (v : Word) (i : Nat) {j : Nat} (hj : j < 64) (b : Bool) :
    (if b then v else v &&& ~~~(BitVec.ofNat 64 (2 ^ i))).getLsbD j = (v.getLsbD j && (b || decide (j ≠ i))) := by
  have hbit : (BitVec.ofNat 64 (2 ^ i)).getLsbD j = decide (i = j) := by
    rw [BitVec.getLsbD_ofNat, Nat.testBit_two_pow, decide_eq_true hj, Bool.true_and]
  cases b with
  | true => rw [if_pos rfl, Bool.true_or, Bool.and_true]
  | false =>
    rw [if_neg Bool.false_ne_true, BitVec.getLsbD_and, BitVec.getLsbD_not, hbit, decide_eq_true hj, Bool.true_and, Bool.false_or]
    congr 1
    rw [← decide_not, decide_eq_decide]
    exact ne_comm

theorem nextTerm_spec (s : State) (k i : Nat) : (nextTerm s k i).cores = s.cores ∧ s.SameBytes (nextTerm s k i) := by
  unfold nextTerm
  split <;> exact ⟨rfl, rfl, rfl, rfl, rfl⟩

/-- The core after term `i` has fired at cycle `now`. -/
def Core.fires (c : Core) (i now : Nat) : Core :=
  let t := SMap.get ({} : XTerm) c.terms i
  { c with counters := subtractAll t.used c.counters, staged := SMap.set {} c.staged t.staged ((SMap.get ({} : Staged) c.staged t.staged).start now (c.termClk t)),
           armed := if t.rearm then c.armed else c.armed &&& ~~~(BitVec.ofNat 64 (2 ^ i)) }

section
variable {s : State} {k i : Nat} (hk : k < 256) (hi : i < 64)
include hk hi

theorem execXbarTermFire_eq : exec (.xbarTermFire k i) s = if (s.core k).termReady i = true then
      .next ((nextTerm (s.setCore k ((s.core k).fires i s.cycle)) k i).post [.stagedLaunch k (SMap.get ({} : XTerm) (s.core k).terms i).staged])
    else .next s := by
  show execXbarTermFire k i s = _
  rw [execXbarTermFire, coreExists, decide_eq_true hk, decide_eq_false (Nat.not_le.mpr hi), if_neg (by decide)]
  dsimp only
  cases (s.core k).termReady i <;> rfl

theorem xbarTermFire_fires (h : (s.core k).termReady i = true) : ∃ u, exec (.xbarTermFire k i) s = .next u ∧ s.SameBytes u ∧ (∀ r, u.ctxOf r = s.ctxOf r) ∧
    u.core k = (s.core k).fires i s.cycle ∧ .stagedLaunch k (SMap.get ({} : XTerm) (s.core k).terms i).staged ∈ u.agenda := by
  obtain ⟨hc, hb⟩ := nextTerm_spec (s.setCore k ((s.core k).fires i s.cycle)) k i
  have hx (r : ThreadRef) : (s.setCore k ((s.core k).fires i s.cycle)).ctxOf r = s.ctxOf r := State.ctxOf_setCore_of_ctxs (by rfl) r
  have hcore (j : Nat) : (nextTerm (s.setCore k ((s.core k).fires i s.cycle)) k i).core j = (s.setCore k ((s.core k).fires i s.cycle)).core j := by
    rw [State.core, hc]
    rfl
  refine ⟨_, (execXbarTermFire_eq hk hi).trans (if_pos h), ⟨hb.mem, hb.side, hb.host, hb.peer⟩, fun r => ?_, (hcore k).trans (State.core_setCore_same ..),
    List.mem_append_right _ (List.mem_singleton_self _)⟩
  exact (congrArg (fun c : Core => c.ctx r.ctx) (hcore r.core)).trans (hx r)

end

/-! ### A staged launch (R227) -/

/-- Word 0 of a staged launch's record. -/
theorem sqWord0_head (cause ctx thread : Nat) (v : Bool) : (sqWord0 cause 6 ctx 0 false v thread).toNat / 2 ^ 56 = cause % 256 ∧
    (sqWord0 cause 6 ctx 0 false v thread).toNat / 2 ^ 52 % 16 = 6 := by
  rw [sqWord0, BitVec.toNat_ofNat]
  cases v
  · simp only [Bool.false_eq_true, if_false]
    omega
  · simp only [Bool.false_eq_true, if_false, if_true]
    omega

/-- The failing launch of register `i`. -/
def FailsLaunch (s : State) (k i cause : Nat) : Prop := (s.core k).sq.length < 64 → (s.core k).heldSq = [] → ∃ u x, exec (.stagedLaunch k i) s = .next u ∧ s.SameBytes u ∧
  SMap.get {} (u.core k).staged i = { SMap.get ({} : Staged) (s.core k).staged i with enabled := false, pending := 0 } ∧ (u.core k).sq = (s.core k).sq ++ [x] ∧
  x.w0.toNat / 2 ^ 56 = cause % 256 ∧ x.w0.toNat / 2 ^ 52 % 16 = 6 ∧ x.w2 = BitVec.ofNat 64 i ∧ x.w3 = (SMap.get ({} : Staged) (s.core k).staged i).cmd.word.setWidth 64

theorem failsLaunch_of {s : State} {k i cause : Nat} (he : exec (.stagedLaunch k i) s = .next (failLaunch s k i (SMap.get ({} : Staged) (s.core k).staged i) cause)) :
    FailsLaunch s k i cause := by
  intro hroom hheld
  obtain ⟨t, ht⟩ : ∃ t, t = s.setCore k ((s.core k).stage i { SMap.get ({} : Staged) (s.core k).staged i with enabled := false, pending := 0 }) := ⟨_, rfl⟩
  obtain ⟨ctx, v, th, hf⟩ : ∃ ctx v th, failLaunch s k i (SMap.get ({} : Staged) (s.core k).staged i) cause = pushSq t k (.staged i)
      ⟨sqWord0 cause 6 ctx 0 false v th, 0, BitVec.ofNat 64 i, (SMap.get ({} : Staged) (s.core k).staged i).cmd.word.setWidth 64⟩ := by
    rw [ht]
    exact ⟨_, _, _, rfl⟩
  have htc : t.core k = (s.core k).stage i { SMap.get ({} : Staged) (s.core k).staged i with enabled := false, pending := 0 } := by
    rw [ht, State.core_setCore_same]
  have hroom' : (t.core k).SqRoom := by
    rw [htc]
    exact ⟨hroom, hheld⟩
  obtain ⟨h1, h2⟩ := sqWord0_head cause ctx th v
  obtain ⟨x, hx⟩ : ∃ x : SqRec, x = ⟨sqWord0 cause 6 ctx 0 false v th, 0, BitVec.ofNat 64 i, (SMap.get ({} : Staged) (s.core k).staged i).cmd.word.setWidth 64⟩ := ⟨_, rfl⟩
  rw [← hx] at hf
  refine ⟨_, x, he.trans (congrArg _ hf), ?_, ?_, ?_, by rw [hx]; exact h1, by rw [hx]; exact h2, by rw [hx], by rw [hx]⟩
  · rw [State.sameBytes_iff, pushSq_bytes, ht]
    rfl
  · have hs : ((pushSq t k (.staged i) x).core k).staged = (t.core k).staged := (congrArg Core.staged (pushSq_core t k (.staged i) x k) :)
    rw [hs, htc]
    exact SMap.get_set_same ..
  · rw [pushSq_sq hroom', htc]
    rfl

section
variable {s : State} {k i : Nat} (hk : k < 256) (hi : i < 16)
include hk hi

/-- The issuer of a staged launch: the thread that programmed its register. -/
def Staged.issuer (g : Staged) (minClk : Nat) : Issuer := ⟨g.core, g.ctx, g.tid, g.slot, g.rcb, g.part, g.level, g.lease, g.floors, max g.clk minClk, 0, false, true⟩

theorem execStagedLaunch_eq : exec (.stagedLaunch k i) s =
    (let g := SMap.get ({} : Staged) (s.core k).staged i
     if !g.enabled || decide (g.pending = 0) then .next s
     else if !(s.reg g.rcb.toNat).launched then .next (failLaunch s k i g 0x01)
     else match checkCmd s k g.cmd with
       | some (cause, _) => .next (failLaunch s k i g cause)
       | none => if !(s.core k).canAccept (engineOf (opcodeOf g.cmd.word)) then .next s
         else .next ((acceptBarge (s.setCore k ((s.core k).stage i { g with pending := g.pending - 1 })) k (engineOf (opcodeOf g.cmd.word)) g.cmd
           (g.issuer s.micro.minClk)).2.post [.stagedLaunch k i])) := by
  show execStagedLaunch k i s = _
  rw [execStagedLaunch, coreExists, decide_eq_true hk, decide_eq_false (Nat.not_le.mpr hi), if_neg (by decide)]
  rfl

theorem stagedLaunch_idle (h : (SMap.get ({} : Staged) (s.core k).staged i).enabled = false ∨ (SMap.get ({} : Staged) (s.core k).staged i).pending = 0) :
    exec (.stagedLaunch k i) s = .next s := by
  rw [execStagedLaunch_eq hk hi]
  refine if_pos ?_
  rw [Bool.or_eq_true, Bool.not_eq_true', decide_eq_true_iff]
  exact h

variable (he : (SMap.get ({} : Staged) (s.core k).staged i).enabled = true) (hp : (SMap.get ({} : Staged) (s.core k).staged i).pending ≠ 0)
include he hp

theorem stagedLaunch_ended (hl : (s.reg (SMap.get ({} : Staged) (s.core k).staged i).rcb.toNat).launched = false) : FailsLaunch s k i 0x01 := by
  refine failsLaunch_of ?_
  rw [execStagedLaunch_eq hk hi]
  dsimp only
  rw [he, decide_eq_false hp, if_neg (by decide), hl]
  rfl

variable (hl : (s.reg (SMap.get ({} : Staged) (s.core k).staged i).rcb.toNat).launched = true)
include hl

theorem stagedLaunch_refused {cause : Nat} {v : Word} (hc : checkCmd s k (SMap.get ({} : Staged) (s.core k).staged i).cmd = some (cause, v)) : FailsLaunch s k i cause := by
  refine failsLaunch_of ?_
  rw [execStagedLaunch_eq hk hi]
  dsimp only
  rw [he, decide_eq_false hp, if_neg (by decide), hl, if_neg (by decide)]
  simp only [hc]

variable (hc : checkCmd s k (SMap.get ({} : Staged) (s.core k).staged i).cmd = none)
include hc

theorem stagedLaunch_passes : exec (.stagedLaunch k i) s =
    if (s.core k).canAccept (engineOf (opcodeOf (SMap.get ({} : Staged) (s.core k).staged i).cmd.word)) = true then
      .next ((acceptBarge (s.setCore k ((s.core k).stage i { SMap.get ({} : Staged) (s.core k).staged i with
        pending := (SMap.get ({} : Staged) (s.core k).staged i).pending - 1 })) k (engineOf (opcodeOf (SMap.get ({} : Staged) (s.core k).staged i).cmd.word))
        (SMap.get ({} : Staged) (s.core k).staged i).cmd ((SMap.get ({} : Staged) (s.core k).staged i).issuer s.micro.minClk)).2.post [.stagedLaunch k i])
    else .next s := by
  rw [execStagedLaunch_eq hk hi]
  dsimp only
  rw [he, decide_eq_false hp, if_neg (by decide), hl, if_neg (by decide)]
  simp only [hc]
  cases (s.core k).canAccept _ <;> rfl

theorem stagedLaunch_waits (ht : ¬ CanTake (s.core k) (engineOf (opcodeOf (SMap.get ({} : Staged) (s.core k).staged i).cmd.word))) :
    exec (.stagedLaunch k i) s = .next s :=
  (stagedLaunch_passes hk hi he hp hl hc).trans (if_neg (fun h => ht ((canAccept_iff _ _).mp h)))

theorem stagedLaunch_forks (ht : CanTake (s.core k) (engineOf (opcodeOf (SMap.get ({} : Staged) (s.core k).staged i).cmd.word))) :
    ∃ u r, exec (.stagedLaunch k i) s = .next u ∧ Forks s k (engineOf (opcodeOf (SMap.get ({} : Staged) (s.core k).staged i).cmd.word))
      (SMap.get ({} : Staged) (s.core k).staged i).cmd ((SMap.get ({} : Staged) (s.core k).staged i).issuer s.micro.minClk) u r ∧
      (SMap.get ({} : Staged) (u.core k).staged i).pending = (SMap.get ({} : Staged) (s.core k).staged i).pending - 1 ∧ .stagedLaunch k i ∈ u.agenda := by
  have hexec := (stagedLaunch_passes hk hi he hp hl hc).trans (if_pos ((canAccept_iff _ _).mpr ht))
  generalize SMap.get ({} : Staged) (s.core k).staged i = g at *
  obtain ⟨t, hteq⟩ : ∃ t, t = s.setCore k ((s.core k).stage i { g with pending := g.pending - 1 }) := ⟨_, rfl⟩
  rw [← hteq] at hexec
  have htc : t.core k = (s.core k).stage i { g with pending := g.pending - 1 } := by rw [hteq, State.core_setCore_same]
  have ht' : CanTake (t.core k) (engineOf (opcodeOf g.cmd.word)) := by
    rw [htc]
    exact ht
  have hf := acceptBarge_forks ht' g.cmd (g.issuer s.micro.minClk)
  have hg := (acceptBarge_geared t k (engineOf (opcodeOf g.cmd.word)) g.cmd (g.issuer s.micro.minClk)).staged k
  refine ⟨_, _, hexec, hf.congr (by rw [htc]; rfl) rfl (fun m hm => List.mem_append_left _ hm), ?_, List.mem_append_right _ (List.mem_singleton_self _)⟩
  have hset (e : Engine) : ((t.setEngine k (engineOf (opcodeOf g.cmd.word)) e).core k).staged = SMap.set {} (s.core k).staged i { g with pending := g.pending - 1 } := by
    rw [State.setEngine, State.core_setCore_same, htc]
    rfl
  show (SMap.get ({} : Staged) ((acceptBarge t k _ g.cmd _).2.core k).staged i).pending = _
  rw [hg, hset, SMap.get_set_same]

end

/-! ### The obligation -/

/-- A term that is ready fires, and one that is not stays. -/
theorem termFires {s : State} {k i : Nat} (hk : k < 256) (hi : i < 64) {c : Core} (hc : c = s.core k) {t : XTerm} (ht : t = SMap.get ({} : XTerm) c.terms i) {g : Staged}
    (hg : g = SMap.get ({} : Staged) c.staged t.staged) {P : Prop}
    (hP : P ↔ c.armed.getLsbD i = true ∧ t.used ≠ [] ∧ (∀ p ∈ t.used, p.2 ≤ (SMap.get ({} : XCounter) c.counters p.1).count) ∧ g.pending < 255) :
    (¬ P → exec (.xbarTermFire k i) s = .next s) ∧
    (P → ∃ u, exec (.xbarTermFire k i) s = .next u ∧ s.SameBytes u ∧ (∀ r, u.ctxOf r = s.ctxOf r) ∧
      ((t.used.map (·.1)).Nodup → ∀ p ∈ t.used, (SMap.get ({} : XCounter) (u.core k).counters p.1).count = (SMap.get ({} : XCounter) c.counters p.1).count - p.2) ∧
      (∀ n, n ∉ t.used.map (·.1) → SMap.get ({} : XCounter) (u.core k).counters n = SMap.get {} c.counters n) ∧
      SMap.get {} (u.core k).staged t.staged = g.start s.cycle (c.termClk t) ∧
      (∀ j < 64, (u.core k).armed.getLsbD j = (c.armed.getLsbD j && (t.rearm || decide (j ≠ i)))) ∧ .stagedLaunch k t.staged ∈ u.agenda) := by
  subst hg ht hc
  have hready := hP.trans (termReady_iff (s.core k) i).symm
  refine ⟨fun h => (execXbarTermFire_eq hk hi).trans (if_neg (fun hr => h (hready.mpr hr))), fun h => ?_⟩
  obtain ⟨u, he, hb, hx, hcore, hm⟩ := xbarTermFire_fires hk hi (hready.mp h)
  refine ⟨u, he, hb, hx, fun hnd p hp => ?_, fun n hn => ?_, ?_, fun j hj => ?_, hm⟩
  · rw [hcore]
    exact subtractAll_count hnd _ p hp
  · rw [hcore]
    exact subtractAll_other hn _
  · rw [hcore]
    exact SMap.get_set_same ..
  · rw [hcore]
    exact disarm_bit _ i hj _

/-- Settles O30, by the programs of XBSET and XBARM, the firing of a term, and the outcomes of a launch. -/
theorem crossbarProgramsAndFires : Obligations.CrossbarProgramsAndFires := by
  unfold Obligations.CrossbarProgramsAndFires
  refine ⟨fun s d a b => ⟨xbsetCtr_range, fun h hf => xbsetCtr_foreign h hf, fun h hf hb => xbsetCtr_source h hf hb, fun h hf hb => xbsetCtr_sets h hf hb,
      ⟨xbsetTerm_bad, fun h hf => xbsetTerm_foreign h hf, fun h hf => xbsetTerm_sets h hf⟩, xbsetStage_range, fun h hf => xbsetStage_foreign h hf,
      fun h hf => ⟨fun e s' hc => xbsetStage_traps h hf hc, fun t s' hc => ⟨fun u hl => xbsetStage_retries h hf hc hl, fun ld hl =>
        ⟨fun hbad => ?malformed, fun m hm hw => ?stages⟩⟩⟩,
      ⟨fun h => xbarm_foreign h, fun h => ⟨xbarmOn_arms h, xbarmOff_disarms h⟩⟩⟩,
    fun s k i hk => ⟨fun hi => ?fires, fun hi => ⟨fun h => stagedLaunch_idle hk hi h, fun he hp => ⟨fun hl => stagedLaunch_ended hk hi he hp hl,
      fun hl => ⟨fun cause v hc => stagedLaunch_refused hk hi he hp hl hc, fun hc ht => ?waits, fun hc ht => ?forks⟩⟩⟩⟩⟩
  case malformed => exact xbsetStage_malformed h hf hc hl hbad
  case stages => exact xbsetStage_stages h hf hc hl hm hw
  case fires =>
    obtain ⟨h1, h2⟩ := termFires hk hi rfl rfl rfl Iff.rfl
    refine ⟨h1, fun hr => ?_⟩
    obtain ⟨u, he, hb, hx, hcount, hother, hstart, harmed, hm⟩ := h2 hr
    exact ⟨u, he, hb, hx, hcount, hother, hstart.trans (Staged.start_eq ..), harmed, hm⟩
  case waits => exact stagedLaunch_waits hk hi he hp hl hc (by rwa [opcodeOf_eq])
  case forks =>
    have := stagedLaunch_forks hk hi he hp hl hc (by rwa [opcodeOf_eq])
    rwa [opcodeOf_eq] at this

end Sys2Proof.Machine
end

section
/-! O27 (R94 to R97, R191): barges start, run and complete in order. -/

namespace Sys2Proof.Machine

/-! ### Starting (R94, R97) -/

/-- The least by a number so far, the first of those that have it. -/
def lesser {α : Type} (f : α → Nat) (m : Option α) (x : α) : Option α := match m with
  | none => some x
  | some q => if f x < f q then some x else m

/-- One that is least of a list is what the list is searched for. -/
theorem foldl_lesser {α : Type} (f : α → Nat) {r : α} (l : List α) (m : Option α) (hr : r ∈ l ∨ m = some r) (hmin : ∀ x ∈ l, x ≠ r → f r < f x)
    (hm : ∀ q, m = some q → q = r ∨ f r < f q) : l.foldl (lesser f) m = some r := by
  induction l generalizing m with
  | nil => exact hr.resolve_left (fun h => nomatch h)
  | cons x l ih =>
    have hmin' := fun y hy => hmin y (List.mem_cons_of_mem _ hy)
    rw [List.foldl_cons]
    by_cases hx : x = r
    · subst hx
      have hnew : lesser f m x = some x := by
        cases m with
        | none => rfl
        | some q =>
          obtain rfl | hq := hm q rfl
          · exact if_neg (lt_irrefl _)
          · exact if_pos hq
      exact ih _ (.inr hnew) hmin' (fun q hq => .inl (Option.some.inj (hq.symm.trans hnew)))
    · have hfx := hmin x List.mem_cons_self hx
      have hl : r ∈ l ∨ m = some r := hr.imp_left fun h => (List.mem_cons.mp h).resolve_left (Ne.symm hx)
      cases m with
      | none => exact ih _ (.inl (hl.resolve_right nofun)) hmin' (fun q hq => by cases hq; exact .inr hfx)
      | some q =>
        by_cases hlt : f x < f q
        · have hne : some q ≠ some r := fun e => by
            cases e
            exact absurd hlt (Nat.lt_asymm hfx)
          rw [lesser, if_pos hlt]
          exact ih _ (.inl (hl.resolve_right hne)) hmin' (fun y hy => by cases hy; exact .inr hfx)
        · rw [lesser, if_neg hlt]
          exact ih _ hl hmin' hm

theorem startable_eq (g : Engine) : g.startable =
    ((g.resumed ++ g.queue).filter (fun r => !(g.recs.any (fun p => blockedBy (g.barge r) p.2)))).foldl (lesser (fun r => (g.barge r).seq)) none := by
  unfold Engine.startable
  congr 1
  funext m r
  cases m <;> rfl

/-- With nothing parked, the first in issue order may start. -/
theorem startable_first {g : Engine} {r : Nat} (hr : r ∈ g.resumed ++ g.queue) (hmin : ∀ x ∈ g.resumed ++ g.queue, x ≠ r → (g.barge r).seq < (g.barge x).seq)
    (hp : ∀ p ∈ g.recs, p.2.st ≠ .parked) : g.startable = some r := by
  have hfree (x : Nat) : (!(g.recs.any (fun p => blockedBy (g.barge x) p.2))) = true := by
    rw [Bool.not_eq_true', ← Bool.not_eq_true, List.any_eq_true]
    rintro ⟨p, hmem, hb⟩
    rw [blockedBy, decide_eq_false (hp p hmem)] at hb
    exact absurd hb Bool.false_ne_true
  rw [startable_eq, List.filter_eq_self.mpr (fun x _ => hfree x)]
  exact foldl_lesser _ _ _ (.inl hr) hmin (fun q hq => nomatch hq)

/-- A parked earlier barge that writes where the only one that waits would read or write holds it back. -/
theorem startable_held {g : Engine} {r : Nat} {p : Nat × Barge} (hr : g.resumed ++ g.queue = [r]) (hp : p ∈ g.recs) (hst : p.2.st = .parked)
    (hseq : p.2.seq < (g.barge r).seq)
    (ho : ∃ x ∈ (g.barge r).reads ++ (g.barge r).writes, ∃ y ∈ p.2.writes, x.1 / 4 ^ max x.2 y.2 = y.1 / 4 ^ max x.2 y.2) : g.startable = none := by
  obtain ⟨x, hx, y, hy, hxy⟩ := ho
  have hany : ((g.barge r).reads ++ (g.barge r).writes).any (fun x => p.2.writes.any (fun y => blocksOverlap x.1 x.2 y.1 y.2)) = true :=
    List.any_eq_true.mpr ⟨x, hx, List.any_eq_true.mpr ⟨y, hy, decide_eq_true hxy⟩⟩
  have hb : blockedBy (g.barge r) p.2 = true := by
    rw [blockedBy, decide_eq_true hst, decide_eq_true hseq, hany]
    rfl
  rw [startable_eq, hr, List.filter_singleton, List.any_eq_true.mpr ⟨p, hp, hb⟩]
  rfl

/-- What starting does to the matrix engine leaves the barge's command and cursor, and every engine's records. -/
theorem startMatrix_spec (s : State) (k : Nat) (b : Barge) : (startMatrix s k b).1.cmd = b.cmd ∧ (startMatrix s k b).1.cursor = b.cursor ∧
    s.Steady (startMatrix s k b).2 ∧ s.Geared (startMatrix s k b).2 := by
  unfold startMatrix
  dsimp only
  split
  · exact ⟨rfl, rfl, State.Steady.setCore rfl, State.Geared.setCore rfl rfl⟩
  · split
    · exact ⟨rfl, rfl, State.Steady.refl s, State.Geared.refl s⟩
    · split
      · exact ⟨rfl, rfl, State.Steady.setCore rfl, State.Geared.setCore rfl rfl⟩
      · exact ⟨rfl, rfl, State.Steady.refl s, State.Geared.refl s⟩

theorem engineWake_geared (s : State) (k e : Nat) : s.Geared (engineWake s k e) := ⟨fun _ => rfl, fun _ => rfl, rfl⟩

theorem State.Geared.engine {s t : State} (h : s.Geared t) (k e : Nat) : (t.core k).engine e = (s.core k).engine e := by
  rw [Core.engine, Core.engine, h.engines]

/-- An engine that has started record `r`, whose barge is `b`. -/
def Engine.starts (g : Engine) (r : Nat) (b : Barge) : Engine :=
  { g.setBarge r b with running := some r, queue := g.queue.filter (fun x => decide (x ≠ r)), resumed := g.resumed.filter (fun x => decide (x ≠ r)) }

section
variable {s : State} {k e : Nat} (hk : k < 256) (he : e < 3)
include hk he

theorem bargeStart_idle (h : ((s.core k).engine e).running ≠ none ∨ ((s.core k).engine e).startable = none) : exec (.bargeStart k e) s = .next s := by
  show execBargeStart k e s = _
  rw [execBargeStart, coreExists, decide_eq_true hk, decide_eq_false (Nat.not_le.mpr he), if_neg (by decide)]
  dsimp only
  cases hr : ((s.core k).engine e).running with
  | some q => exact if_pos rfl
  | none =>
    have hn := h.resolve_left (fun hx => hx hr)
    rw [if_neg (by decide)]
    simp only [hn]

theorem bargeStart_starts {r : Nat} (hrun : ((s.core k).engine e).running = none) (hs : ((s.core k).engine e).startable = some r) : ∃ b u,
    exec (.bargeStart k e) s = .next u ∧ (u.core k).engine e = ((s.core k).engine e).starts r b ∧ b.st = .running ∧ b.cmd = (((s.core k).engine e).barge r).cmd ∧
      b.cursor = (((s.core k).engine e).barge r).cursor ∧ .bargeUnit k e ∈ u.agenda ∧ s.Steady u := by
  obtain ⟨hcmd, hcursor, hst, hg⟩ := startMatrix_spec s k (((s.core k).engine e).barge r)
  obtain ⟨b0, t, hbt⟩ : ∃ b0 t, startMatrix s k (((s.core k).engine e).barge r) = (b0, t) := ⟨_, _, rfl⟩
  rw [hbt] at hcmd hcursor hst hg
  obtain ⟨b, hb⟩ : ∃ b : Barge, b = { b0 with st := .running, floors := startFloors t b0, captured := true } := ⟨_, rfl⟩
  obtain ⟨w, hw⟩ : ∃ w, w = (engineWake (t.setEngine k e (((s.core k).engine e).starts r b)) k e).post [.bargeUnit k e] := ⟨_, rfl⟩
  have hexec : exec (.bargeStart k e) s = .next (if b.needsSlot then w.post [.basinSlotClaim k] else w) := by
    show execBargeStart k e s = _
    rw [execBargeStart, coreExists, decide_eq_true hk, decide_eq_false (Nat.not_le.mpr he), if_neg (by decide)]
    dsimp only
    rw [hrun, if_neg (by decide)]
    simp only [hs, hbt]
    rw [hg.engine, hw, hb]
    rfl
  have hwe : (w.core k).engine e = ((s.core k).engine e).starts r b := by
    rw [hw]
    exact ((engineWake_geared _ k e).engine k e).trans (State.engine_setEngine ..)
  have hws : s.Steady w := by
    rw [hw]
    exact (hst.trans (State.Steady.setEngine ..)).trans ((engineWake_spec _ k e).1.trans (State.Steady.post ..))
  have hwa : .bargeUnit k e ∈ w.agenda := by
    rw [hw]
    exact List.mem_append_right _ (List.mem_singleton_self _)
  refine ⟨b, if b.needsSlot then w.post [.basinSlotClaim k] else w, hexec, ?_, by rw [hb], by rw [hb]; exact hcmd, by rw [hb]; exact hcursor, ?_, ?_⟩
  · split
    · exact hwe
    · exact hwe
  · split
    · exact List.mem_append_left _ hwa
    · exact hwa
  · split
    · exact hws.trans (State.Steady.post ..)
    · exact hws

theorem execBargeUnit_eq : exec (.bargeUnit k e) s = .next (runUnit s k e false) := by
  show execBargeUnit k e s = _
  rw [execBargeUnit, coreExists, decide_eq_true hk, decide_eq_false (Nat.not_le.mpr he), if_neg (by decide)]

end

/-! ### Units (R96, R97) -/

/-- The engine of a barge that has processed its last unit, and what it then asks for. -/
def Finishes (s u : State) (k e r : Nat) : Prop := s.SameBytes u ∧ ((u.core k).engine e).running = none ∧ (((u.core k).engine e).barge r).st = .done ∧
  .bargeComplete k e ∈ u.agenda ∧ .bargeStart k e ∈ u.agenda

theorem finishBarge_finishes (s : State) (k e r : Nat) (b : Barge) : Finishes s (finishBarge s k e r b) k e r := by
  obtain ⟨b', hb'⟩ : ∃ b' : Barge, b' = { b with st := .done, finished := true } := ⟨_, rfl⟩
  obtain ⟨t, ht⟩ : ∃ t, t = s.setEngine k e { (((s.core k).engine e).setBarge r b') with running := none } := ⟨_, rfl⟩
  obtain ⟨v, hv⟩ : ∃ v, v = if opcodeOf b'.cmd.word = 0x40 then t.setBuf k (cmdFn b'.cmd.word % 2) { (t.core k).buf (cmdFn b'.cmd.word % 2) with st := .full } else t :=
    ⟨_, rfl⟩
  have hf : finishBarge s k e r b = (engineWake v k e).post [.bargeComplete k e, .bargeStart k e] := by
    rw [hv, ht, hb']
    rfl
  have hvg : t.Geared v ∧ t.Steady v := by
    rw [hv]
    split
    · exact ⟨State.Geared.setCore rfl rfl, State.Steady.setCore rfl⟩
    · exact ⟨State.Geared.refl t, State.Steady.refl t⟩
  have hte : (t.core k).engine e = { (((s.core k).engine e).setBarge r b') with running := none } := by
    rw [ht]
    exact State.engine_setEngine ..
  have heng : ((finishBarge s k e r b).core k).engine e = { (((s.core k).engine e).setBarge r b') with running := none } := by
    rw [hf]
    exact ((engineWake_geared v k e).engine k e).trans ((hvg.1.engine k e).trans hte)
  have hbytes : s.SameBytes (finishBarge s k e r b) := by
    rw [hf]
    refine State.SameBytes.trans ?_ ((hvg.2.trans ((engineWake_spec v k e).1.trans (State.Steady.post ..))).bytes)
    rw [ht]
    exact (State.Steady.setEngine ..).bytes
  refine ⟨hbytes, by rw [heng], ?_, ?_, ?_⟩
  · rw [heng]
    refine (congrArg Barge.st (Engine.barge_setBarge ((s.core k).engine e) r r b')).trans ?_
    rw [if_pos rfl, hb']
  · rw [hf]
    exact List.mem_append_right _ List.mem_cons_self
  · rw [hf]
    exact List.mem_append_right _ (List.mem_cons_of_mem _ List.mem_cons_self)

theorem setBarge_barge (s : State) (k e r : Nat) (b : Barge) : (((s.setBarge k e r b).core k).engine e).barge r = b := by
  rw [State.setBarge, State.engine_setEngine, Engine.barge_setBarge, if_pos rfl]

theorem State.Steady.setBarge (s : State) (k e r : Nat) (b : Barge) : s.Steady (s.setBarge k e r b) := State.Steady.setEngine ..

theorem waitUnit_waits (s : State) (k e r : Nat) (old b : Barge) : s.SameBytes (waitUnit s k e r old b) ∧ (((waitUnit s k e r old b).core k).engine e).barge r = b := by
  unfold waitUnit
  dsimp only
  split
  · exact ⟨(State.Steady.setBarge ..).bytes, setBarge_barge ..⟩
  · refine ⟨((State.Steady.setBarge ..).trans (engineWake_spec _ k e).1).bytes, ?_⟩
    rw [(engineWake_geared _ k e).engine]
    exact setBarge_barge ..

/-- What a family holds is held after a write, or is what the write replaces. -/
theorem SMap.mem_of_put {V : Type} (d : V) {m : SMap V} {k : Nat} {v : V} {p : Nat × V} (h : p ∈ m) : p ∈ SMap.put m k v ∨ p = (k, SMap.get d m k) := by
  induction m with
  | nil => exact nomatch h
  | cons q t ih =>
    obtain ⟨k', v'⟩ := q
    unfold SMap.put SMap.get
    split
    · exact .inl (List.mem_cons_of_mem _ h)
    · split
      · rename_i hk
        obtain rfl | h := List.mem_cons.mp h
        · exact .inr (by rw [hk])
        · exact .inl (List.mem_cons_of_mem _ h)
      · obtain rfl | h := List.mem_cons.mp h
        · exact .inl List.mem_cons_self
        · exact (ih h).imp_left (List.mem_cons_of_mem _)

theorem SMap.mem_put_self {V : Type} (m : SMap V) (k : Nat) (v : V) : (k, v) ∈ SMap.put m k v := by
  induction m with
  | nil => exact List.mem_cons_self
  | cons q t ih =>
    unfold SMap.put
    split
    · exact List.mem_cons_self
    · split
      · exact List.mem_cons_self
      · exact List.mem_cons_of_mem _ ih

/-- A thread that exists is there after an update of a core that leaves its contexts. -/
theorem threadExists_setCore {s : State} {k tid : Nat} {c : Core} (hne : c ≠ {}) (hc : c.ctxs = (s.core k).ctxs) (h : s.threadExists tid = true) :
    (s.setCore k c).threadExists tid = true := by
  rw [State.threadExists, Bool.or_eq_true] at h ⊢
  refine h.imp_left fun h => ?_
  rw [State.residentTid, List.findSome?_isSome_iff] at h ⊢
  obtain ⟨p, hp, hs⟩ := h
  have hres : c.resident = (s.core k).resident := by rw [Core.resident, Core.resident, hc]
  show ∃ x ∈ SMap.set ({} : Core) s.cores k c, _
  rw [SMap.set, if_neg hne]
  obtain hmem | rfl := SMap.mem_of_put ({} : Core) (k := k) (v := c) hp
  · exact ⟨p, hmem, hs⟩
  · refine ⟨(k, c), SMap.mem_put_self .., ?_⟩
    dsimp only at hs ⊢
    rwa [hres]

/-- Cause and kind of a record. -/
theorem sqWord0_kind (cause ctx barge thread : Nat) {kind : Nat} (hk : kind < 16) (isBarge valid : Bool) :
    (sqWord0 cause kind ctx barge isBarge valid thread).toNat / 2 ^ 56 = cause % 256 ∧ (sqWord0 cause kind ctx barge isBarge valid thread).toNat / 2 ^ 52 % 16 = kind := by
  have h1 : (if isBarge then 2 ^ 33 else 0) ≤ 2 ^ 33 := by split <;> decide
  have h2 : (if valid then 2 ^ 32 else 0) ≤ 2 ^ 32 := by split <;> decide
  rw [sqWord0, BitVec.toNat_ofNat]
  generalize (if isBarge then 2 ^ 33 else 0) = x at *
  generalize (if valid then 2 ^ 32 else 0) = y at *
  omega

section
variable (s : State) (k e r : Nat) (b : Barge) (i c v : Nat)

/-- The barge that is parked, and its engine. -/
def Barge.parkedAt (b : Barge) (i c v : Nat) : Barge :=
  { b with st := .parked, cursor := i, cause := BitVec.ofNat 8 c, faultAddr := addr56 v, watchHit := none }

def Engine.parks (g : Engine) (r : Nat) (b : Barge) : Engine := { g.setBarge r b with running := none }

theorem Engine.parks_barge (g : Engine) : (g.parks r b).barge r = b := (Engine.barge_setBarge g r r b).trans (if_pos rfl)

/-- What parking a barge of a thread that exists amounts to. -/
theorem parkBarge_eq (ha : (s.setEngine k e (((s.core k).engine e).parks r (b.parkedAt i c v))).threadExists b.tid = true) : ∃ ctx d, parkBarge s k e r b i c v =
    (engineWake (pushSq ((s.setEngine k e (((s.core k).engine e).parks r (b.parkedAt i c v))).traceAt b.issuerCore b.slot 4 0 d) b.issuerCore (.barge e r)
      ⟨sqWord0 c 5 ctx (bargeId k e r) true true (threadId b.issuerCore b.slot), b.pc, addr56 v, BitVec.ofNat 64 (i % 2 ^ 24)⟩) k e).post [.bargeStart k e] := by
  obtain ⟨ctx, d, y, h⟩ : ∃ ctx d y, parkBarge s k e r b i c v =
      (let t := s.setEngine k e (((s.core k).engine e).parks r (b.parkedAt i c v))
       let alive := t.threadExists b.tid
       let t := pushSq (t.traceAt b.issuerCore b.slot 4 0 d) b.issuerCore (.barge e r)
         ⟨sqWord0 c 5 ctx (bargeId k e r) true alive (threadId b.issuerCore b.slot), b.pc, addr56 v, BitVec.ofNat 64 (i % 2 ^ 24)⟩
       (engineWake (if alive then t else y) k e).post [.bargeStart k e]) := ⟨_, _, _, rfl⟩
  dsimp only at h
  rw [ha] at h
  exact ⟨ctx, d, h⟩

end

/-- Parking keeps the cursor, the cause and the address, and tells the issuing core's supervisor (R97, R234). -/
theorem parkBarge_parks {s : State} {b : Barge} (k e r i c v : Nat) (hroom : (s.core b.issuerCore).SqRoom) (ha : s.threadExists b.tid = true) : ∃ x,
    s.SameBytes (parkBarge s k e r b i c v) ∧ ((parkBarge s k e r b i c v).core k).engine e = ((s.core k).engine e).parks r (b.parkedAt i c v) ∧
    ((parkBarge s k e r b i c v).core b.issuerCore).sq = (s.core b.issuerCore).sq ++ [x] ∧ x.w0.toNat / 2 ^ 56 = c % 256 ∧ x.w0.toNat / 2 ^ 52 % 16 = 5 ∧
    x.w2 = addr56 v ∧ x.w3 = BitVec.ofNat 64 (i % 2 ^ 24) ∧ .bargeStart k e ∈ (parkBarge s k e r b i c v).agenda := by
  obtain ⟨t, ht⟩ : ∃ t, t = s.setEngine k e (((s.core k).engine e).parks r (b.parkedAt i c v)) := ⟨_, rfl⟩
  have halive : t.threadExists b.tid = true := by
    rw [ht]
    refine threadExists_setCore (fun hd => ?_) rfl ha
    have hempty : ((s.core k).engine e).parks r (b.parkedAt i c v) = {} := by
      rw [← State.engine_setEngine s k e (((s.core k).engine e).parks r (b.parkedAt i c v)), State.setEngine, State.core_setCore_same, hd]
      rfl
    have hst := Engine.parks_barge r (b.parkedAt i c v) ((s.core k).engine e)
    rw [hempty] at hst
    exact BState.noConfusion (congrArg Barge.st hst : BState.free = BState.parked)
  obtain ⟨ctx, d, hp⟩ := parkBarge_eq s k e r b i c v (ht ▸ halive)
  rw [← ht] at hp
  obtain ⟨w, hw⟩ : ∃ w, w = t.traceAt b.issuerCore b.slot 4 0 d := ⟨_, rfl⟩
  obtain ⟨x, hx⟩ : ∃ x : SqRec, x = ⟨sqWord0 c 5 ctx (bargeId k e r) true true (threadId b.issuerCore b.slot), b.pc, addr56 v, BitVec.ofNat 64 (i % 2 ^ 24)⟩ := ⟨_, rfl⟩
  rw [← hw, ← hx] at hp
  have hwcore (j : Nat) : { w.core j with trace := [] } = { t.core j with trace := [] } := by
    rw [hw]
    exact State.traceAt_core ..
  have htq : (t.core b.issuerCore).sq = (s.core b.issuerCore).sq ∧ (t.core b.issuerCore).heldSq = (s.core b.issuerCore).heldSq := by
    rw [ht, State.setEngine, State.core_setCore]
    split
    · rename_i hk
      rw [hk]
      exact ⟨rfl, rfl⟩
    · exact ⟨rfl, rfl⟩
  have hwq : (w.core b.issuerCore).sq = (t.core b.issuerCore).sq := (congrArg Core.sq (hwcore _) :)
  have hwh : (w.core b.issuerCore).heldSq = (t.core b.issuerCore).heldSq := (congrArg Core.heldSq (hwcore _) :)
  have hwroom : (w.core b.issuerCore).SqRoom := by
    rw [Core.SqRoom, hwq, hwh, htq.1, htq.2]
    exact hroom
  have hwe : (w.core k).engines = (t.core k).engines := (congrArg Core.engines (hwcore k) :)
  have hpe : ((pushSq w b.issuerCore (.barge e r) x).core k).engines = (w.core k).engines := (congrArg Core.engines (pushSq_core w _ _ x k) :)
  obtain ⟨h1, h2⟩ := sqWord0_kind c ctx (bargeId k e r) (threadId b.issuerCore b.slot) (by decide : 5 < 16) true true
  rw [hp]
  refine ⟨x, ?_, ?_, ?_, by rw [hx]; exact h1, by rw [hx]; exact h2, by rw [hx], by rw [hx], List.mem_append_right _ (List.mem_singleton_self _)⟩
  · refine State.SameBytes.trans ?_ ((engineWake_spec _ k e).1.trans (State.Steady.post ..)).bytes
    rw [State.sameBytes_iff, pushSq_bytes, hw, (State.traceAt_bytes ..).bytes_eq, ht]
    rfl
  · refine ((engineWake_geared (pushSq w b.issuerCore (.barge e r) x) k e).engine k e).trans ?_
    rw [Core.engine, hpe, hwe, ht]
    exact State.engine_setEngine ..
  · refine (congrArg Core.sq (?_ : _ = (pushSq w b.issuerCore (.barge e r) x).core b.issuerCore)).trans ?_
    · rfl
    · rw [pushSq_sq hwroom, hwq, htq.1]

/-- What the outcome of unit `i` of the running barge `old` makes of the state. -/
def unitOutcome (k e r i : Nat) (old : Barge) (u : UnitRes) : State := match u with
  | .error (.fault c a s) => parkBarge s k e r { old with cursor := i } i c a
  | .error (.wait b s) => waitUnit s k e r old { b with cursor := i, watchHit := none, paid := old.paid }
  | .ok (b, s) =>
    if (nextUnit b.cmd (i + 1)).isNone then finishBarge s k e r { b with cursor := i + 1, asked := false, paid := false }
    else (engineWake (s.setBarge k e r { b with cursor := i + 1, asked := false, paid := false }) k e).post [.bargeUnit k e]

section
variable {s : State} {k e : Nat} (hk : k < 256) (he : e < 3)
include hk he

theorem bargeUnit_idle (h : ((s.core k).engine e).running = none) : exec (.bargeUnit k e) s = .next s := by
  rw [execBargeUnit_eq hk he, runUnit]
  dsimp only
  rw [h]

variable {r : Nat} (hr : ((s.core k).engine e).running = some r)
include hr

theorem bargeUnit_last (hn : nextUnit (((s.core k).engine e).barge r).cmd (((s.core k).engine e).barge r).cursor = none) :
    ∃ u, exec (.bargeUnit k e) s = .next u ∧ Finishes s u k e r := by
  refine ⟨_, ?_, finishBarge_finishes s k e r (((s.core k).engine e).barge r)⟩
  rw [execBargeUnit_eq hk he, runUnit]
  dsimp only
  rw [hr]
  simp only [hn]

variable {i : Nat} (hn : nextUnit (((s.core k).engine e).barge r).cmd (((s.core k).engine e).barge r).cursor = some i)
  (hw : (((s.core k).engine e).barge r).watchHit = none) (hs : (((s.core k).engine e).barge r).needsSlot = false)
include hn hw hs

/-- What a unit makes of the state. -/
theorem bargeUnit_processes : exec (.bargeUnit k e) s = .next (unitOutcome k e r i (((s.core k).engine e).barge r)
    (processUnit s k e { ((s.core k).engine e).barge r with cursor := i } i (((s.core k).engine e).barge r).paid)) := by
  rw [execBargeUnit_eq hk he, runUnit]
  dsimp only
  rw [hr]
  simp only [hn, hw, hs, Bool.false_eq_true, if_false, Bool.false_or]
  rcases processUnit s k e { ((s.core k).engine e).barge r with cursor := i } i (((s.core k).engine e).barge r).paid with ⟨_ | _⟩ | ⟨_, _⟩ <;> rfl

end

/-! ### Completion (R95, R191) -/

/-- A step that only synchronises, and leaves engines as they are; no context where no remote thread waits at a barrier. -/
structure State.Settles (s t : State) : Prop where
  geared : s.Geared t
  calm : (∀ j, (s.core j).bwaiters = []) → s.Synced t

theorem State.Settles.refl (s : State) : s.Settles s := ⟨State.Geared.refl s, fun _ => State.Synced.refl s⟩

theorem State.Synced.bwaiters {s t : State} (h : s.Synced t) (j : Nat) : (t.core j).bwaiters = (s.core j).bwaiters := (congrArg Core.bwaiters (h.core j) :)

theorem State.Settles.trans {s t u : State} (h : s.Settles t) (h' : t.Settles u) : s.Settles u :=
  ⟨h.geared.trans h'.geared, fun hn => (h.calm hn).trans (h'.calm fun j => ((h.calm hn).bwaiters j).trans (hn j))⟩

theorem bargeSignal_settles (s : State) (b : Barge) (st : BarStep) : s.Settles (bargeSignal s b st) :=
  ⟨State.Geared.barSignal .., fun hn => barSignal_calm hn ..⟩

theorem setBasin_settles (s : State) (k i : Nat) (b : Basin) : s.Settles (s.setBasin k i b) := ⟨State.Geared.setCore rfl rfl, fun _ => State.Synced.setBasin ..⟩

theorem pulse_settles (s : State) (k kind i c : Nat) : s.Settles (pulse s k kind i c) := ⟨State.Geared.setCore rfl rfl, fun _ => State.Synced.pulse ..⟩

theorem wakeBasin_settles (s : State) (k i : Nat) (f : Context → Bool) : s.Settles (wakeBasin s k i f) :=
  ⟨⟨fun _ => rfl, fun _ => rfl, rfl⟩, fun _ => State.Synced.wakeBasin ..⟩

theorem post_settles (s : State) (l : List Instr) : s.Settles (s.post l) := ⟨State.Geared.post .., fun _ => State.Synced.post ..⟩

theorem stampBasin_settles (s : State) (k i c : Nat) : s.Settles (stampBasin s k i c) := ⟨⟨fun _ => rfl, fun _ => rfl, rfl⟩, fun _ => State.Synced.stampBasin ..⟩

theorem basinCommit_settles (s : State) (k i c : Nat) : s.Settles (basinCommit s k i c) :=
  (setBasin_settles s k i _).trans ((stampBasin_settles _ k i c).trans ((wakeBasin_settles _ k i _).trans (pulse_settles _ k 5 i c)))

theorem basinFreed_settles (s : State) (k i : Nat) : s.Settles (basinFreed s k i) := (wakeBasin_settles s k i _).trans (post_settles _ _)

theorem settleSlot_settles (s : State) (k : Nat) (b : Barge) (c : Bool) : s.Settles (settleSlot s k b c) := by
  unfold settleSlot
  split
  · exact State.Settles.refl s
  · dsimp only
    split
    · split
      · exact (setBasin_settles ..).trans (basinFreed_settles ..)
      · exact setBasin_settles ..
    · exact basinCommit_settles ..

theorem mergeFlags_geared (s : State) (tid core : Nat) (f : Flags5) : s.Geared (mergeFlags s tid core f) := by
  unfold mergeFlags
  split
  · exact State.Geared.setCtx ..
  · dsimp only
    split
    · exact State.Geared.refl s
    · have h1 := (saveTarget_filed s core (SMap.get 0 s.spilled tid + 0x10)).geared
      rcases e1 : saveTarget s core (SMap.get 0 s.spilled tid + 0x10) with ⟨_ | t, u⟩ <;> rw [e1] at h1
      · exact h1
      · obtain ⟨w, hw⟩ : ∃ w, w = storeDevice u (saveWho u core) t (natToBytes 8 (BitVec.ofNat 64 (bytesToNat (u.bytesAt t.loc 8)) ||| f.setWidth 64).toNat) := ⟨_, rfl⟩
        have hg : s.Geared w := by
          rw [hw]
          exact h1.trans (storeDevice_filed ..).geared
        have h2 := hg.trans (saveTarget_filed w core (SMap.get 0 s.spilled tid + 0x310)).geared
        simp only [← hw]
        rcases e2 : saveTarget w core (SMap.get 0 s.spilled tid + 0x310) with ⟨_ | t, u⟩ <;> rw [e2] at h2
        · exact h2
        · exact h2.trans (storeDevice_filed ..).geared

theorem mergeFlags_resident {s : State} {tid : Nat} {t : ThreadRef} (h : s.residentTid tid = some t) (core : Nat) (f : Flags5) :
    mergeFlags s tid core f = s.setCtx t { s.ctxOf t with fflags := (s.ctxOf t).fflags ||| f } := by
  rw [mergeFlags, h]

/-- The completion of a record: its flags, its barrier and its slot, and then its record freed. -/
theorem completeBarge_eq (s : State) (k e r : Nat) (b : Barge) : ∃ v w c d, (mergeFlags s b.tid b.issuerCore b.flags).Settles v ∧
    v.Geared w ∧ (∀ q, w.ctxOf q = v.ctxOf q) ∧ completeBarge s k e r b =
      engineWake (pulse (State.traceAt ((w.setEngine k e { ((w.core k).engine e).setBarge r {} with clk := c }).addBarges b.rcb.toNat false) b.issuerCore b.slot 3 0 d)
        k (e + 1) 0 c) k e := by
  obtain ⟨b', hb'⟩ : ∃ b' : Barge, b' = { b with doneClk := max ((s.core k).engine e).clk (max b.clk b.doneClk) } := ⟨_, rfl⟩
  obtain ⟨u, hu⟩ : ∃ u, u = mergeFlags s b'.tid b'.issuerCore b'.flags := ⟨_, rfl⟩
  obtain ⟨u', hu'⟩ : ∃ u', u' = if decide (b.st = .cancelled) then bargeSignal u b' .cancel
    else if opcodeOf b'.cmd.word = 0x58 ∨ opcodeOf b'.cmd.word = 0x59 then u
    else if byteCounter (opcodeOf b'.cmd.word) then bargeSignal u b' (.landed b'.lastBytes)
    else bargeSignal u b' .arrive := ⟨_, rfl⟩
  obtain ⟨v, hv⟩ : ∃ v, v = settleSlot u' k b' (decide (b.st = .cancelled)) := ⟨_, rfl⟩
  obtain ⟨w, hw⟩ : ∃ w, w = if decide (b.st = .cancelled) && decide (opcodeOf b'.cmd.word = 0x40) then
      v.setBuf k (cmdFn b'.cmd.word % 2) { (v.core k).buf (cmdFn b'.cmd.word % 2) with st := .cut } else v := ⟨_, rfl⟩
  have hsig : u.Settles u' := by
    rw [hu']
    split
    · exact bargeSignal_settles ..
    · split
      · exact State.Settles.refl u
      · split <;> exact bargeSignal_settles ..
  have hset : u'.Settles v := by
    rw [hv]
    exact settleSlot_settles ..
  have hbuf : v.Geared w ∧ ∀ q, w.ctxOf q = v.ctxOf q := by
    rw [hw]
    split
    · exact ⟨State.Geared.setCore rfl rfl, fun q => State.ctxOf_setCore_of_ctxs (by rfl) q⟩
    · exact ⟨State.Geared.refl v, fun _ => rfl⟩
  have hmerge : mergeFlags s b.tid b.issuerCore b.flags = u := by
    rw [hu, hb']
  refine ⟨v, w, b'.doneClk, BitVec.ofNat 64 (bargeId k e r + (if decide (b.st = .cancelled) then 2 ^ 63 else 0)), ?_, hbuf.1, hbuf.2, ?_⟩
  · rw [hmerge]
    exact hsig.trans hset
  · rw [hw, hv, hu', hu, hb']
    rfl

section
variable {s : State} {k e : Nat} (hk : k < 256) (he : e < 3) {r : Nat} {b : Barge} (h : ((s.core k).engine e).earliest = some (r, b))
include hk he h

theorem execBargeComplete_eq : exec (.bargeComplete k e) s =
    if b.st = .done ∨ b.st = .cancelled then .next ((completeBarge s k e r b).post [.bargeComplete k e, .bargeStart k e]) else .next s := by
  show execBargeComplete k e s = _
  rw [execBargeComplete, coreExists, decide_eq_true hk, decide_eq_false (Nat.not_le.mpr he), if_neg (by decide), h]

/-- The earliest barge, done or cancelled, completes. -/
theorem bargeComplete_completes (hst : b.st = .done ∨ b.st = .cancelled) : ∃ u, exec (.bargeComplete k e) s = .next u ∧
    (((u.core k).engine e).barge r).st = .free ∧ (∀ q, q ≠ r → ((u.core k).engine e).barge q = ((s.core k).engine e).barge q) ∧
    .bargeComplete k e ∈ u.agenda ∧ .bargeStart k e ∈ u.agenda ∧
    (∀ t, s.residentTid b.tid = some t → (∀ j, (s.core j).bwaiters = []) → (u.ctxOf t).fflags = (s.ctxOf t).fflags ||| b.flags) := by
  obtain ⟨v, w, c, d, hset, hgw, hwx, hc⟩ := completeBarge_eq s k e r b
  obtain ⟨x, hx⟩ : ∃ x, x = w.setEngine k e { ((w.core k).engine e).setBarge r {} with clk := c } := ⟨_, rfl⟩
  obtain ⟨y, hy⟩ : ∃ y, y = (x.addBarges b.rcb.toNat false).traceAt b.issuerCore b.slot 3 0 d := ⟨_, rfl⟩
  rw [← hx, ← hy] at hc
  have hw : (w.core k).engine e = ((s.core k).engine e) := ((mergeFlags_geared s b.tid b.issuerCore b.flags).trans (hset.geared.trans hgw)).engine k e
  have hxe : (x.core k).engine e = { ((s.core k).engine e).setBarge r {} with clk := c } := by
    rw [hx, State.engine_setEngine, hw]
  have hye : (y.core k).engine e = (x.core k).engine e := by
    rw [hy]
    exact ((addBarges_rounded x b.rcb.toNat false).filed.geared.trans (State.Geared.traceAt ..)).engine k e
  have hue : ((completeBarge s k e r b).core k).engine e = { ((s.core k).engine e).setBarge r {} with clk := c } := by
    rw [hc]
    exact (((pulse_settles y k (e + 1) 0 c).geared.trans (engineWake_geared ..)).engine k e).trans (hye.trans hxe)
  refine ⟨_, (execBargeComplete_eq hk he h).trans (if_pos hst), ?_, fun q hq => ?_, List.mem_append_right _ List.mem_cons_self,
    List.mem_append_right _ (List.mem_cons_of_mem _ List.mem_cons_self), fun t ht hn => ?_⟩
  · show ((((completeBarge s k e r b).core k).engine e).barge r).st = .free
    rw [hue]
    exact congrArg Barge.st ((Engine.barge_setBarge ((s.core k).engine e) r r {}).trans (if_pos rfl))
  · show (((completeBarge s k e r b).core k).engine e).barge q = ((s.core k).engine e).barge q
    rw [hue]
    exact (Engine.barge_setBarge ((s.core k).engine e) r q {}).trans (if_neg hq)
  · have hm := mergeFlags_resident ht b.issuerCore b.flags
    have hbw (j : Nat) : ((mergeFlags s b.tid b.issuerCore b.flags).core j).bwaiters = [] := by
      rw [hm, State.core_setCtx]
      split
      · exact hn j
      · exact hn j
    have hyx (q : ThreadRef) : y.ctxOf q = w.ctxOf q := by
      rw [hy, (State.traceAt_calm ..).1, (addBarges_rounded x b.rcb.toNat false).ctxOf, hx]
      exact State.ctxOf_setCore_of_ctxs (by rfl) q
    show ((completeBarge s k e r b).ctxOf t).fflags = _
    rw [hc]
    refine (congrArg Context.fflags ((engineWake_spec (pulse y k (e + 1) 0 c) k e).1.ctx t)).trans ?_
    rw [(State.Synced.pulse y k (e + 1) 0 c).ctxOf, hyx, hwx, (hset.calm hbw).ctxOf, hm, State.ctxOf_setCtx, if_pos rfl]

end

/-! ### The slot of a basin copy (R191) -/

section
variable {s : State} {k : Nat} (hk : k < 256)
include hk

theorem basinSlotClaim_idle (h : ((s.core k).engine 0).running = none) : exec (.basinSlotClaim k) s = .next s := by
  show execBasinSlotClaim k s = _
  rw [execBasinSlotClaim, coreExists, decide_eq_true hk, if_neg (by decide)]
  dsimp only
  rw [h]

variable {r : Nat} (h : ((s.core k).engine 0).running = some r)
include h

/-- What the running barge's claim does. -/
theorem execBasinSlotClaim_eq {b : Barge} (hb : ((s.core k).engine 0).barge r = b) {bs : Basin} (hbs : (s.core k).basin (b.cmd.word.toNat % 64) = bs) :
    exec (.basinSlotClaim k) s = if !b.needsSlot then .next s else if !bs.enabled then .next (s.post [.bargeUnit k 0]) else if bs.free = 0 then .next s
      else .next (((s.setBasin k (b.cmd.word.toNat % 64) bs.claimOne.norm).setBarge k 0 r { b with
        basinClaim := some bs.claim
        clk := max b.clk (SMap.get 0 s.micro.stBasin (basinKey k (b.cmd.word.toNat % 64)))
        cmd := { b.cmd with td := setBits128 b.cmd.td 55 0 (bs.slotAddr bs.claim).toNat } }).post [.bargeUnit k 0]) := by
  have hn : bitsOf b.cmd.word 5 0 = b.cmd.word.toNat % 64 := by rw [bitsOf_eq, Nat.pow_zero, Nat.div_one]; rfl
  show execBasinSlotClaim k s = _
  rw [execBasinSlotClaim, coreExists, decide_eq_true hk, if_neg (by decide)]
  dsimp only
  rw [h]
  dsimp only
  rw [hb, hn, hbs]

theorem basinSlotClaim_done (hc : isBsn (((s.core k).engine 0).barge r).cmd.word = false ∨ (((s.core k).engine 0).barge r).basinClaim ≠ none ∨
    (((s.core k).engine 0).barge r).forgot ≠ none) : exec (.basinSlotClaim k) s = .next s := by
  rw [execBasinSlotClaim_eq hk h rfl rfl, if_pos]
  rw [Bool.not_eq_true', Barge.needsSlot]
  obtain hc | hc | hc := hc
  · rw [hc]
    rfl
  · rw [Option.isNone_eq_false_iff.mpr (Option.isSome_iff_ne_none.mpr hc), Bool.and_false]
    rfl
  · rw [Option.isNone_eq_false_iff.mpr (Option.isSome_iff_ne_none.mpr hc), Bool.and_false]

variable (hbsn : isBsn (((s.core k).engine 0).barge r).cmd.word = true) (hbc : (((s.core k).engine 0).barge r).basinClaim = none)
  (hfg : (((s.core k).engine 0).barge r).forgot = none)
include hbsn hbc hfg

omit hk h in
theorem needsSlot_true : (!(((s.core k).engine 0).barge r).needsSlot) = false := by
  rw [Barge.needsSlot, hbsn, hbc, hfg]
  rfl

theorem basinSlotClaim_disabled (he : ((s.core k).basin ((((s.core k).engine 0).barge r).cmd.word.toNat % 64)).enabled = false) :
    exec (.basinSlotClaim k) s = .next (s.post [.bargeUnit k 0]) := by
  rw [execBasinSlotClaim_eq hk h rfl rfl, needsSlot_true hbsn hbc hfg, he]
  rfl

variable (he : ((s.core k).basin ((((s.core k).engine 0).barge r).cmd.word.toNat % 64)).enabled = true)
include he

theorem basinSlotClaim_full (hf : ((s.core k).basin ((((s.core k).engine 0).barge r).cmd.word.toNat % 64)).free = 0) : exec (.basinSlotClaim k) s = .next s := by
  rw [execBasinSlotClaim_eq hk h rfl rfl, needsSlot_true hbsn hbc hfg, he, if_neg (by decide), if_neg (by decide), if_pos hf]

theorem basinSlotClaim_claims {b : Barge} (hb : ((s.core k).engine 0).barge r = b) {bs : Basin} (hbs : (s.core k).basin (b.cmd.word.toNat % 64) = bs)
    (hf : bs.free ≠ 0) : ∃ u, exec (.basinSlotClaim k) s = .next u ∧ s.SameBytes u ∧ (∀ t, u.ctxOf t = s.ctxOf t) ∧
      (((u.core k).engine 0).barge r).basinClaim = some bs.claim ∧
      (((u.core k).engine 0).barge r).cmd.td.toNat % 2 ^ 56 = (bs.base.toNat + bs.claim % 2 ^ bs.k * 2 ^ bs.j) % 2 ^ 64 % 2 ^ 56 ∧
      (bs.withdrawn = [] → (u.core k).basin (b.cmd.word.toNat % 64) = { bs with claim := (bs.claim + 1) % 512 }) ∧ .bargeUnit k 0 ∈ u.agenda := by
  have hexec := execBasinSlotClaim_eq hk h hb hbs
  rw [← hb, needsSlot_true hbsn hbc hfg, if_neg (by decide), hb] at hexec
  rw [hb, hbs] at he
  rw [he, if_neg (by decide), if_neg hf] at hexec
  obtain ⟨b', hb'⟩ : ∃ b' : Barge, b' = { b with
    basinClaim := some bs.claim
    clk := max b.clk (SMap.get 0 s.micro.stBasin (basinKey k (b.cmd.word.toNat % 64)))
    cmd := { b.cmd with td := setBits128 b.cmd.td 55 0 (bs.slotAddr bs.claim).toNat } } := ⟨_, rfl⟩
  rw [← hb'] at hexec
  obtain ⟨t, ht⟩ : ∃ t, t = s.setBasin k (b.cmd.word.toNat % 64) bs.claimOne.norm := ⟨_, rfl⟩
  rw [← ht] at hexec
  have hst : s.Steady t := by
    rw [ht]
    exact State.Steady.setCore rfl
  refine ⟨_, hexec, (hst.trans ((State.Steady.setBarge ..).trans (State.Steady.post ..))).bytes, (hst.trans (State.Steady.setBarge t k 0 r b')).ctx, ?_, ?_, fun hw => ?_,
    List.mem_append_right _ (List.mem_singleton_self _)⟩
  · refine (congrArg Barge.basinClaim (setBarge_barge t k 0 r b')).trans ?_
    rw [hb']
  · have hcmd : (((t.setBarge k 0 r b').core k).engine 0).barge r = b' := setBarge_barge ..
    show ((((t.setBarge k 0 r b').core k).engine 0).barge r).cmd.td.toNat % 2 ^ 56 = _
    rw [hcmd, hb']
    have := field_setBits128_same b.cmd.td (hi := 55) (lo := 0) (bs.slotAddr bs.claim).toNat (by decide)
    rw [Nat.pow_zero, Nat.div_one] at this
    refine this.trans ?_
    rw [Basin.slotAddr, BitVec.toNat_ofNat]
  · have hset : ((t.setBarge k 0 r b').core k).basins = (t.core k).basins := by
      rw [State.setBarge, State.setEngine, State.core_setCore_same]
    show SMap.get ({} : Basin) ((t.setBarge k 0 r b').core k).basins _ = _
    rw [hset, ht]
    refine (Core.basin_set s k _ _ _).trans ?_
    rw [if_pos rfl, Basin.norm_of_nil (b := bs.claimOne) hw]
    rfl

end

/-! ### The obligation -/

section
variable {s : State} {k e r : Nat} (hk : k < 256) (he : e < 3)
include hk he

theorem bargeStart_first (hr : r ∈ ((s.core k).engine e).resumed ++ ((s.core k).engine e).queue) (hrun : ((s.core k).engine e).running = none)
    (hmin : ∀ x ∈ ((s.core k).engine e).resumed ++ ((s.core k).engine e).queue, x ≠ r → (((s.core k).engine e).barge r).seq < (((s.core k).engine e).barge x).seq)
    (hp : ∀ p ∈ ((s.core k).engine e).recs, p.2.st ≠ .parked) : ∃ u, exec (.bargeStart k e) s = .next u ∧
      ((u.core k).engine e).running = some r ∧ ((u.core k).engine e).queue = ((s.core k).engine e).queue.filter (fun x => decide (x ≠ r)) ∧
      ((u.core k).engine e).resumed = ((s.core k).engine e).resumed.filter (fun x => decide (x ≠ r)) ∧ (((u.core k).engine e).barge r).st = .running ∧
      (((u.core k).engine e).barge r).cmd = (((s.core k).engine e).barge r).cmd ∧ (((u.core k).engine e).barge r).cursor = (((s.core k).engine e).barge r).cursor ∧
      .bargeUnit k e ∈ u.agenda ∧ s.SameBytes u ∧ ∀ t, u.ctxOf t = s.ctxOf t := by
  obtain ⟨b, u, ex, heng, h1, h2, h3, h4, h5⟩ := bargeStart_starts hk he hrun (startable_first hr hmin hp)
  have hb : (((s.core k).engine e).starts r b).barge r = b := (Engine.barge_setBarge ((s.core k).engine e) r r b).trans (if_pos rfl)
  refine ⟨u, ex, ?_⟩
  rw [heng, hb]
  exact ⟨rfl, rfl, rfl, h1, h2, h3, h4, h5.bytes, h5.ctx⟩

theorem bargeUnit_faults {i c v : Nat} {s' : State} (hr : ((s.core k).engine e).running = some r)
    (hn : nextUnit (((s.core k).engine e).barge r).cmd (((s.core k).engine e).barge r).cursor = some i)
    (hw : (((s.core k).engine e).barge r).watchHit = none) (hs : (((s.core k).engine e).barge r).needsSlot = false)
    (ho : processUnit s k e { ((s.core k).engine e).barge r with cursor := i } i (((s.core k).engine e).barge r).paid = .error (.fault c v s'))
    (h1 : (s'.core (((s.core k).engine e).barge r).issuerCore).sq.length < 64) (h2 : (s'.core (((s.core k).engine e).barge r).issuerCore).heldSq = [])
    (h3 : s'.threadExists (((s.core k).engine e).barge r).tid = true) :
    ∃ u x, exec (.bargeUnit k e) s = .next u ∧ s'.SameBytes u ∧ ((u.core k).engine e).running = none ∧ (((u.core k).engine e).barge r).st = .parked ∧
      (((u.core k).engine e).barge r).cursor = i ∧ (((u.core k).engine e).barge r).cause = BitVec.ofNat 8 c ∧
      (((u.core k).engine e).barge r).faultAddr.toNat = v % 2 ^ 56 ∧ (u.core (((s.core k).engine e).barge r).issuerCore).sq =
        (s'.core (((s.core k).engine e).barge r).issuerCore).sq ++ [x] ∧ x.w0.toNat / 2 ^ 56 = c % 256 ∧ x.w0.toNat / 2 ^ 52 % 16 = 5 ∧
      x.w2.toNat = v % 2 ^ 56 ∧ x.w3.toNat = i % 2 ^ 24 ∧ .bargeStart k e ∈ u.agenda := by
  obtain ⟨b, hb⟩ : ∃ b : Barge, b = { ((s.core k).engine e).barge r with cursor := i } := ⟨_, rfl⟩
  have hi : b.issuerCore = (((s.core k).engine e).barge r).issuerCore := by rw [hb]
  have ht : b.tid = (((s.core k).engine e).barge r).tid := by rw [hb]
  have haddr : (addr56 v).toNat = v % 2 ^ 56 := by
    rw [addr56, BitVec.toNat_ofNat]
    omega
  have hcursor : (BitVec.ofNat 64 (i % 2 ^ 24) : Word).toNat = i % 2 ^ 24 := by
    rw [BitVec.toNat_ofNat]
    omega
  obtain ⟨x, hbytes, heng, hsq, hw0, hw0', hw2, hw3, hm⟩ := parkBarge_parks (s := s') (b := b) k e r i c v (by rw [hi]; exact ⟨h1, h2⟩) (by rw [ht]; exact h3)
  have hpb := Engine.parks_barge r (b.parkedAt i c v) ((s'.core k).engine e)
  rw [hi] at hsq
  refine ⟨parkBarge s' k e r b i c v, x, ?_, hbytes, ?_⟩
  · rw [bargeUnit_processes hk he hr hn hw hs, ho, unitOutcome, hb]
  · rw [heng, hpb, hw2, hw3, haddr, hcursor]
    exact ⟨rfl, rfl, rfl, rfl, haddr, hsq, hw0, hw0', rfl, rfl, hm⟩

end

/-- Settles O27, by the start, the outcomes of a unit, the completion and the claim of a slot. -/
theorem bargesRunInOrder : Obligations.BargesRunInOrder := by
  unfold Obligations.BargesRunInOrder
  refine ⟨fun s k e hk he => ⟨fun h => bargeStart_idle hk he (.inl h), fun r hr hrun hmin hp => ?start, fun r p hrun hq hp hst hseq ho => ?held,
      fun h => bargeUnit_idle hk he h, fun r hr => ⟨fun hn => ?last, fun i hn hw hs => ⟨fun b' s' ho => ⟨fun hlast => ?finish, fun hmore => ?go⟩, fun b' s' ho => ?wait,
        fun c v s' ho h1 h2 h3 => ?park⟩⟩, fun r b h h1 h2 => ?stay, fun r b h hst => bargeComplete_completes hk he h hst⟩,
    fun s k r hk => ⟨fun h => basinSlotClaim_idle hk h, fun h hc => basinSlotClaim_done hk h hc, fun h h1 h2 h3 => ⟨fun he => basinSlotClaim_disabled hk h h1 h2 h3 he,
      fun he hf => basinSlotClaim_full hk h h1 h2 h3 he hf, fun he hf => basinSlotClaim_claims hk h h1 h2 h3 he rfl rfl hf⟩⟩⟩
  case start => exact bargeStart_first hk he hr hrun hmin hp
  case held => exact bargeStart_idle hk he (.inr (startable_held hq hp hst hseq ho))
  case last =>
    obtain ⟨u, ex, -, h⟩ := bargeUnit_last hk he hr hn
    exact ⟨u, ex, h⟩
  case finish =>
    obtain ⟨hb, h⟩ := finishBarge_finishes s' k e r { b' with cursor := i + 1, asked := false, paid := false }
    refine ⟨_, ?_, hb, h⟩
    rw [bargeUnit_processes hk he hr hn hw hs, ho, unitOutcome, hlast]
    rfl
  case go =>
    obtain ⟨b, hb⟩ : ∃ b : Barge, b = { b' with cursor := i + 1, asked := false, paid := false } := ⟨_, rfl⟩
    refine ⟨(engineWake (s'.setBarge k e r b) k e).post [.bargeUnit k e], ?_, ((State.Steady.setBarge ..).trans ((engineWake_spec _ k e).1.trans (State.Steady.post ..))).bytes,
      ?_, List.mem_append_right _ (List.mem_singleton_self _)⟩
    · rw [bargeUnit_processes hk he hr hn hw hs, ho, unitOutcome, if_neg (by rwa [Option.isNone_iff_eq_none]), hb]
    · refine (congrArg (fun g : Engine => g.barge r) ((engineWake_geared (s'.setBarge k e r b) k e).engine k e)).trans ?_
      rw [setBarge_barge, hb]
  case wait =>
    obtain ⟨h1, h2⟩ := waitUnit_waits s' k e r (((s.core k).engine e).barge r) { b' with cursor := i, watchHit := none, paid := (((s.core k).engine e).barge r).paid }
    refine ⟨_, ?_, h1, h2⟩
    rw [bargeUnit_processes hk he hr hn hw hs, ho]
    rfl
  case park => exact bargeUnit_faults hk he hr hn hw hs ho h1 h2 h3
  case stay =>
    rw [execBargeComplete_eq hk he h, if_neg]
    rintro (h | h)
    · exact h1 h
    · exact h2 h

end Sys2Proof.Machine
end

section
/-! O26 (R32, R39, R46, R51, R90, R91, R97, R99, R195, R196, R216): checks at issue, and units that fault. -/

namespace Sys2Proof.Machine

/-! ### Tiles of descriptors (R39, R90) -/

theorem Tile.valid_iff (t : Tile) : t.valid = true ↔ t.order ≤ 10 ∧ fclass t.fmt ≠ .bad ∧ 1 ≤ t.rows ∧ t.rows ≤ 2 ^ t.order ∧ 1 ≤ t.cols ∧ t.cols ≤ 2 ^ t.order ∧
    ¬ (fclass t.fmt = .cb2 ∧ t.order < 2) ∧ t.base % 4 ^ t.height = 0 ∧ t.reserved = 0 ∧ t.policy ≠ 3 ∧ padBad t.fmt t.pad = false ∧
    blockInRange t.base t.height = true := by
  simp only [Tile.valid, Bool.and_eq_true, decide_eq_true_eq, Bool.not_eq_true', Bool.and_eq_false_iff, decide_eq_false_iff_not, not_and_or, and_assoc]

/-- Validity where the class names the height and is not that of a codebook. -/
theorem Tile.valid_iff_of_height {t : Tile} {n : Nat} (hb : fclass t.fmt ≠ .bad) (hc : fclass t.fmt ≠ .cb2) (hn : t.height = n) :
    t.valid = true ↔ t.order ≤ 10 ∧ 1 ≤ t.rows ∧ t.rows ≤ 2 ^ t.order ∧ 1 ≤ t.cols ∧ t.cols ≤ 2 ^ t.order ∧ t.base % 4 ^ n = 0 ∧ t.reserved = 0 ∧
      t.policy ≠ 3 ∧ padBad t.fmt t.pad = false ∧ blockInRange t.base n = true := by
  rw [Tile.valid_iff, hn]
  constructor
  · rintro ⟨h1, -, h2, h3, h4, h5, -, h6⟩
    exact ⟨h1, h2, h3, h4, h5, h6⟩
  · rintro ⟨h1, h2, h3, h4, h5, h6⟩
    exact ⟨h1, hb, h2, h3, h4, h5, fun h => hc h.1, h6⟩

theorem Tile.height_of_b32 {t : Tile} (h : fclass t.fmt = .b32) : t.height = t.order + 1 := by rw [Tile.height, h]

theorem Tile.height_of_b8 {t : Tile} (h : fclass t.fmt = .b8) : t.height = t.order := by rw [Tile.height, h]

/-- The tile of a descriptor, by the bits of its fields. -/
theorem Tile.ofBits_eq (b : BitVec 128) : Tile.ofBits b = ⟨b.toNat / 2 ^ 0 % 2 ^ (55 + 1 - 0), b.toNat / 2 ^ 56 % 2 ^ (59 + 1 - 56), b.toNat / 2 ^ 60 % 2 ^ (67 + 1 - 60),
    b.toNat / 2 ^ 68 % 2 ^ (78 + 1 - 68), b.toNat / 2 ^ 79 % 2 ^ (89 + 1 - 79), b.toNat / 2 ^ 90 % 2 ^ (91 + 1 - 90), decide (b.toNat / 2 ^ 92 % 2 ^ (92 + 1 - 92) = 1),
    b.toNat / 2 ^ 93 % 2 ^ (94 + 1 - 93), BitVec.ofNat 8 (b.toNat / 2 ^ 95 % 2 ^ (102 + 1 - 95)), b.toNat / 2 ^ 103 % 2 ^ (127 + 1 - 103)⟩ := by
  simp only [Tile.ofBits, bitsOf_eq, BitVec.getLsbD, Nat.testBit_eq_decide_div_mod_eq]
  rfl

theorem Tile.trans_eq_iff (v w : BitVec 128) : (Tile.ofBits v).trans = (Tile.ofBits w).trans ↔ v.toNat / 2 ^ 92 % 2 ^ (92 + 1 - 92) = w.toNat / 2 ^ 92 % 2 ^ (92 + 1 - 92) := by
  rw [Tile.ofBits_eq, Tile.ofBits_eq, decide_eq_decide]
  omega

theorem sameShape_iff (v w : BitVec 128) : sameShape (Tile.ofBits v) (Tile.ofBits w) = true ↔ v.toNat / 2 ^ 56 % 2 ^ (59 + 1 - 56) = w.toNat / 2 ^ 56 % 2 ^ (59 + 1 - 56) ∧
    v.toNat / 2 ^ 68 % 2 ^ (78 + 1 - 68) = w.toNat / 2 ^ 68 % 2 ^ (78 + 1 - 68) ∧ v.toNat / 2 ^ 79 % 2 ^ (89 + 1 - 79) = w.toNat / 2 ^ 79 % 2 ^ (89 + 1 - 79) := by
  simp only [sameShape, Bool.and_eq_true, decide_eq_true_eq, Tile.ofBits_eq, and_assoc]

/-! ### Where operands lie (R46, R196) -/

theorem inUnassigned_iff (va : Nat) : inUnassigned va = true ↔ va / 2 ^ 52 = 0xF ∧ va / 2 ^ 28 ≠ 0x00F000000 := by
  rw [inUnassigned, Bool.and_eq_true, decide_eq_true_eq, Bool.not_eq_true', ← Bool.not_eq_true, inLs_eq_true]

theorem ownLs_iff {k : Nat} (hk : k < 256) (base : Nat) : ownLs k base = true ↔ base / 2 ^ 20 = 0x00F0000000000000 / 2 ^ 20 + k := by
  rw [ownLs, decide_eq_true_eq, lsBase, Nat.mod_eq_of_lt hk]
  omega

/-- An address of the own local store, by its own name or by the alias (R47). -/
theorem ownLs_alias {k : Nat} (hk : k < 256) (y : Nat) : ownLs k (resolveAlias k y) = true ↔
    y / 2 ^ 20 = 0x00F0000000000000 / 2 ^ 20 + k ∨ y / 2 ^ 20 = 0x00FFFFFFFFF00000 / 2 ^ 20 := by
  rw [ownLs_iff hk, resolveAlias, lsBase, Nat.mod_eq_of_lt hk]
  split <;> omega

/-! ### The words of the commands -/

/-- The fields of a command's word. -/
theorem tWord_fields {op fn : Nat} (ho : op < 128) (hf : fn < 512) (d a c h : BitVec 4) : opcodeOf (tWord op d a c h fn) = op ∧
    cmdTd (tWord op d a c h fn) = d.toNat ∧ cmdTa (tWord op d a c h fn) = a.toNat ∧ cmdTb (tWord op d a c h fn) = c.toNat ∧ cmdFn (tWord op d a c h fn) = fn ∧
    bitsOf (tWord op d a c h fn) 8 7 = fn / 128 := by
  have hd := d.isLt
  have ha := a.isLt
  have hc := c.isLt
  have hh := h.isLt
  refine ⟨opcodeOf_tWord ho d a c h, ?_⟩
  simp only [cmdTd, cmdTa, cmdTb, cmdFn, bitsOf_eq, tWord, BitVec.toNat_ofNat]
  omega

theorem word_bcopy {d a h : BitVec 4} {w : BitVec 32} (e : encode (.bcopy d a h) = some w) : w = tWord 0x38 d a 0 h 0 :=
  tWord_of (by cases e; simp only [append_field, BitVec.ofNat_eq_ofNat, BitVec.toNat_ofNat]; omega)

theorem word_vadd {d a c h : BitVec 4} {w : BitVec 32} (e : encode (.vadd d a c h) = some w) : w = tWord 0x48 d a c h 1 :=
  tWord_of (by cases e; simp only [append_field, BitVec.toNat_ofNat]; omega)

theorem opcodeOf_cbld {x y : BitVec 5} {w : BitVec 32} (e : encode (.cbld x y) = some w) : opcodeOf w = 0x58 := by
  cases e
  rw [opcodeOf_eq]
  simp only [append_field, BitVec.toNat_ofNat]
  have := x.isLt
  have := y.isLt
  omega

theorem opcodeOf_skset {x y : BitVec 5} {w : BitVec 32} (e : encode (.skset x y) = some w) : opcodeOf w = 0x59 := by
  cases e
  rw [opcodeOf_eq]
  simp only [append_field, BitVec.toNat_ofNat]
  have := x.isLt
  have := y.isLt
  omega

/-! ### The checks of BCOPY and VADD, as the tables order them (R195, R198, R217) -/

/-- The first failing check of a copy between tiles. -/
def bcopyFault (m : Command) (d a : Nat) : Option (Nat × Nat) :=
  let td := Tile.ofBits m.td
  let ta := Tile.ofBits m.ta
  if ¬ td.valid = true then some (0x10, d) else if ¬ ta.valid = true then some (0x10, a)
  else if inUnassigned td.base = true then some (0x01, d) else if inUnassigned ta.base = true then some (0x01, a)
  else if ¬ (sameShape ta td = true ∧ ta.trans = td.trans ∧ fclass ta.fmt = fclass td.fmt) then some (0x13, a)
  else if blocksOverlap ta.base ta.height td.base td.height = true then some (0x11, a)
  else if td.policy = 2 then some (0x10, d) else none

/-- The tile is of a format that the vector engine has no arithmetic for. -/
def Tile.noValues (t : Tile) : Bool := decide (t.fmt = 0) || decide (fclass t.fmt = .cb2)

/-- A source overlaps the destination and is not the destination itself. -/
def clashes (x td : Tile) : Bool :=
  blocksOverlap x.base x.height td.base td.height && !(decide (x.base = td.base) && decide (x.height = td.height) && decide (fclass x.fmt = fclass td.fmt) && (x.trans == td.trans))

/-- The first failing check of a vector sum. -/
def vaddFault (k : Nat) (m : Command) (d a b : Nat) : Option (Nat × Nat) :=
  let td := Tile.ofBits m.td
  let ta := Tile.ofBits m.ta
  let tb := Tile.ofBits m.tb
  if ¬ td.valid = true then some (0x10, d) else if ¬ ta.valid = true then some (0x10, a) else if ¬ tb.valid = true then some (0x10, b)
  else if ¬ ownLs k td.base = true then some (0x01, d) else if ¬ ownLs k ta.base = true then some (0x01, a) else if ¬ ownLs k tb.base = true then some (0x01, b)
  else if td.noValues = true then some (0x12, d) else if ta.noValues = true then some (0x12, a) else if tb.noValues = true then some (0x12, b)
  else if ¬ sameShape ta td = true then some (0x13, a) else if ¬ sameShape tb td = true then some (0x13, b)
  else if clashes ta td = true then some (0x11, a) else if clashes tb td = true then some (0x11, b) else none

/-- A register's number as the word that a trap gives. -/
def numbered (x : Option (Nat × Nat)) : Option (Nat × Word) := x.map fun e => (e.1, BitVec.ofNat 64 e.2)

theorem checkCmd_bcopy (s : State) (k : Nat) {m : Command} {d a h : BitVec 4} (e : encode (.bcopy d a h) = some m.word) :
    checkCmd s k m = numbered (bcopyFault m d.toNat a.toNat) := by
  obtain ⟨hop, hd, ha, -, hf, hb⟩ := tWord_fields (op := 0x38) (fn := 0) (by decide) (by decide) d a 0 h
  rw [← word_bcopy e] at hop hd ha hf hb
  have hbsn : isBsn m.word = false := by rw [isBsn, hb, decide_eq_false (by decide : ¬ 0 / 128 = 2), Bool.and_false]
  have ht : m.tiles = ⟨d.toNat, a.toNat, cmdTb m.word, Tile.ofBits m.td, Tile.ofBits m.ta, Tile.ofBits m.tb⟩ := by rw [Command.tiles, hbsn, hd, ha]; rfl
  have hu : m.used = [(0, d.toNat, Tile.ofBits m.td), (1, a.toNat, Tile.ofBits m.ta)] := by rw [Command.used, ht, hop, hf]; rfl
  have hfmt : formatFault 0x38 0 m.tiles m.used = none := rfl
  unfold checkCmd numbered bcopyFault
  simp only [hop, hf, hfmt]
  rw [ht, hu]
  generalize Tile.ofBits m.td = td
  generalize Tile.ofBits m.ta = ta
  generalize Tile.ofBits m.tb = tb
  rcases h1 : td.valid with _ | _
  · simp [List.find?, h1]
  rcases h2 : ta.valid with _ | _
  · simp [List.find?, h1, h2]
  rcases h3 : inUnassigned td.base with _ | _
  case true => simp [List.find?, placed, h1, h2, h3]
  rcases h4 : inUnassigned ta.base with _ | _
  case true => simp [List.find?, placed, h1, h2, h3, h4]
  by_cases h5 : sameShape ta td = true ∧ ta.trans = td.trans ∧ fclass ta.fmt = fclass td.fmt
  case neg => simp [List.find?, placed, shapeFault, h1, h2, h3, h4, h5, and_assoc]
  obtain ⟨hs, htr, hc⟩ := h5
  rcases h6 : blocksOverlap ta.base ta.height td.base td.height with _ | _
  case true => simp [List.find?, placed, shapeFault, overlapFault, inPlaceOk, hbsn, h1, h2, h3, h4, hs, htr, hc, h6, hop]
  by_cases h7 : td.policy = 2
  · simp [List.find?, placed, shapeFault, overlapFault, entryFault, byteCounter, hbsn, h1, h2, h3, h4, hs, htr, hc, h6, h7, hop]
  · simp [List.find?, placed, shapeFault, overlapFault, entryFault, byteCounter, hbsn, h1, h2, h3, h4, hs, htr, hc, h6, h7, hop]

theorem formatFault_vector (t : CmdTiles) (u : List (Nat × Nat × Tile)) : formatFault 0x48 1 t u = (u.find? fun x => x.2.2.noValues).map fun x => x.2.1 := by
  unfold formatFault
  rw [if_neg (by decide), if_neg (by decide), if_neg (by decide), if_neg (by decide)]
  split <;> rename_i hu <;> exact (congrArg (Option.map fun x => x.2.1) hu).symm

theorem shapeFault_vector (t : CmdTiles) (u : List (Nat × Nat × Tile)) : shapeFault 0x48 1 t u =
    (u.find? fun x => decide (x.1 ≠ 0) && !sameShape x.2.2 t.td).map fun x => x.2.1 := rfl

theorem overlapFault_vector (c : Core) {w : BitVec 32} (hw : opcodeOf w = 0x48) (t : CmdTiles) (u : List (Nat × Nat × Tile)) : overlapFault c w t u =
    (u.find? fun x => decide (x.1 ≠ 0) && clashes x.2.2 t.td).map fun x => x.2.1 := by
  unfold overlapFault isBsn
  simp only [hw]
  rw [if_neg (by simp), if_neg (by decide), if_neg (by decide)]
  split <;> rename_i hu <;> exact (congrArg (Option.map fun x => x.2.1) hu).symm

theorem checkCmd_vadd (s : State) (k : Nat) {m : Command} {d a c h : BitVec 4} (e : encode (.vadd d a c h) = some m.word) :
    checkCmd s k m = numbered (vaddFault k m d.toNat a.toNat c.toNat) := by
  obtain ⟨hop, hd, ha, hc, hf, -⟩ := tWord_fields (op := 0x48) (fn := 1) (by decide) (by decide) d a c h
  rw [← word_vadd e] at hop hd ha hc hf
  have hbsn : isBsn m.word = false := by rw [isBsn, hop]; rfl
  have ht : m.tiles = ⟨d.toNat, a.toNat, c.toNat, Tile.ofBits m.td, Tile.ofBits m.ta, Tile.ofBits m.tb⟩ := by rw [Command.tiles, hbsn, hd, ha, hc]; rfl
  have hu : m.used = [(0, d.toNat, Tile.ofBits m.td), (1, a.toNat, Tile.ofBits m.ta), (2, c.toNat, Tile.ofBits m.tb)] := by rw [Command.used, ht, hop, hf]; rfl
  have hent : entryFault (s.core k) m.word m.tiles = none := by rw [entryFault, hop, hbsn]; rfl
  unfold checkCmd numbered vaddFault
  simp only [hop, hf, hent]
  rw [ht, hu]
  generalize Tile.ofBits m.td = td
  generalize Tile.ofBits m.ta = ta
  generalize Tile.ofBits m.tb = tb
  rcases h1 : td.valid with _ | _
  · simp [List.find?, h1]
  rcases h2 : ta.valid with _ | _
  · simp [List.find?, h1, h2]
  rcases h3 : tb.valid with _ | _
  · simp [List.find?, h1, h2, h3]
  rcases h4 : ownLs k td.base with _ | _
  · simp [List.find?, placed, h1, h2, h3, h4]
  rcases h5 : ownLs k ta.base with _ | _
  · simp [List.find?, placed, h1, h2, h3, h4, h5]
  rcases h6 : ownLs k tb.base with _ | _
  · simp [List.find?, placed, h1, h2, h3, h4, h5, h6]
  rw [formatFault_vector, shapeFault_vector, overlapFault_vector _ hop]
  rcases g1 : td.noValues with _ | _
  case true => simp [List.find?, placed, h1, h2, h3, h4, h5, h6, g1]
  rcases g2 : ta.noValues with _ | _
  case true => simp [List.find?, placed, h1, h2, h3, h4, h5, h6, g1, g2]
  rcases g3 : tb.noValues with _ | _
  case true => simp [List.find?, placed, h1, h2, h3, h4, h5, h6, g1, g2, g3]
  rcases g4 : sameShape ta td with _ | _
  · simp [List.find?, placed, h1, h2, h3, h4, h5, h6, g1, g2, g3, g4]
  rcases g5 : sameShape tb td with _ | _
  · simp [List.find?, placed, h1, h2, h3, h4, h5, h6, g1, g2, g3, g4, g5]
  rcases g6 : clashes ta td with _ | _
  case true => simp [List.find?, placed, h1, h2, h3, h4, h5, h6, g1, g2, g3, g4, g5, g6]
  rcases g7 : clashes tb td with _ | _ <;> simp [List.find?, placed, h1, h2, h3, h4, h5, h6, g1, g2, g3, g4, g5, g6, g7]

/-! ### A unit that faults has written nothing (R97) -/

/-- A result that is a fault has the bytes of `s`. -/
def Spares (s : State) {α : Type} (r : Except Stop α) : Prop := ∀ c v s', r = .error (.fault c v s') → s.SameBytes s'

/-- So has one that goes on, from which `st` takes the state. -/
structure Reads (s : State) {α : Type} (st : α → State) (r : Except Stop α) : Prop where
  spares : Spares s r
  goes : ∀ a, r = .ok a → s.SameBytes (st a)

section
variable {s : State} {α β : Type}

theorem Spares.fault {c v : Nat} {t : State} (h : s.SameBytes t) : Spares s (.error (.fault c v t) : Except Stop α) := fun _ _ _ e => by cases e; exact h

theorem Spares.wait (b : Barge) (t : State) : Spares s (.error (.wait b t) : Except Stop α) := fun _ _ _ e => nomatch e

theorem Spares.ok (a : α) : Spares s (.ok a : Except Stop α) := fun _ _ _ e => nomatch e

theorem Reads.error {st : α → State} {x : Stop} (h : Spares s (.error x : Except Stop α)) : Reads s st (.error x) := ⟨h, fun _ e => nomatch e⟩

theorem Reads.ok {st : α → State} {a : α} (h : s.SameBytes (st a)) : Reads s st (.ok a) := ⟨Spares.ok a, fun _ e => by cases e; exact h⟩

/-- What follows a result that has read. -/
theorem Reads.spares_bind {st : α → State} {r : Except Stop α} {f : α → Except Stop β} (h : Reads s st r) (hf : ∀ a, s.SameBytes (st a) → Spares s (f a)) :
    Spares s (r >>= f) := by
  cases r with
  | error x => exact fun c v t e => h.spares c v t (by cases e; rfl)
  | ok a => exact hf a (h.goes a rfl)

/-- What follows a result, where nothing that follows faults but as it should. -/
theorem Spares.bind {r : Except Stop α} {f : α → Except Stop β} (h : Spares s r) (hf : ∀ a, Spares s (f a)) : Spares s (r >>= f) :=
  Reads.spares_bind (st := fun _ => s) ⟨h, fun _ _ => ⟨rfl, rfl, rfl, rfl⟩⟩ fun a _ => hf a

theorem Reads.bind {st : α → State} {st' : β → State} {r : Except Stop α} {f : α → Except Stop β} (h : Reads s st r) (hf : ∀ a, s.SameBytes (st a) → Reads s st' (f a)) :
    Reads s st' (r >>= f) := by
  cases r with
  | error x => exact Reads.error (fun c v t e => h.spares c v t (by cases e; rfl))
  | ok a => exact hf a (h.goes a rfl)

theorem Reads.ite {st : α → State} {c : Prop} [Decidable c] {a b : Except Stop α} (ha : Reads s st a) (hb : Reads s st b) : Reads s st (if c then a else b) := by
  split
  · exact ha
  · exact hb

theorem Spares.ite {c : Prop} [Decidable c] {a b : Except Stop α} (ha : Spares s a) (hb : Spares s b) : Spares s (if c then a else b) := by
  split
  · exact ha
  · exact hb

end

section
variable {s0 s : State} (h : s0.SameBytes s) (k e : Nat) (b : Barge)
include h

theorem bargeCheck_reads (va : Nat) (n : Need) : Reads s0 (·.2) (bargeCheck s k e b va n) := by
  have hk := h.trans (check_keeps s (bargeWho s k e b) va n).bytes
  unfold bargeCheck
  split <;> rename_i e1 <;> rw [e1] at hk
  · exact Reads.error (Spares.fault hk)
  · exact Reads.ok hk

theorem readLine_reads (va : Nat) (n : Need) : Reads s0 (·.2.2) (readLine s k e b va n) := by
  have hc := bargeCheck_reads h k e b va n
  unfold readLine
  split <;> rename_i e1 <;> rw [e1] at hc
  · exact Reads.error (fun c v t e => hc.spares c v t (by cases e; rfl))
  · have hs := hc.goes _ rfl
    split
    · exact Reads.error (Spares.wait _ _)
    · rename_i a ha
      exact Reads.ok (hs.trans (loadLine_looked ha).bytes)

omit h in
theorem writesReady_waits (l : List Target) : Spares s0 (writesReady s k e b l) := by
  induction l with
  | nil => exact Spares.ok _
  | cons t ts ih =>
    unfold writesReady
    split
    · split
      · exact Spares.wait _ _
      · exact ih
    · exact ih

omit h in
theorem bargeWrite_spares (t : Target) (bs : List (Nat × Byte)) (side : Word) : Spares s0 (bargeWrite s k e b t bs side) := by
  unfold bargeWrite
  dsimp only
  split
  · exact Spares.wait _ _
  · exact Spares.ok _

end

/-! ### Reads beyond the core (R205, R295) -/

theorem peerCounter_bytes (s : State) (n : Nat) : s.SameBytes (peerCounter s n).2 := by
  unfold peerCounter
  dsimp only
  split
  · exact State.SameBytes.refl s
  · exact ⟨rfl, rfl, rfl, rfl⟩

theorem loadQuiet_bytes (s : State) (w : Who) (t : Target) : s.SameBytes (loadQuiet s w t).st := by
  have h := loadLine_keeping s { w with self := none, thread := none } { t with uncached := true }
  unfold loadQuiet
  split
  · rename_i a ha
    exact (loadLine_looked ha).bytes
  · rename_i u hu
    exact (h.1 u hu).bytes

/-- What a home answers, it answers with the bytes as they stand. -/
def AnswersBytes (s : State) (r : BoundedRes) : Prop := (∀ c u, r = .bad c u → s.SameBytes u) ∧ ∀ a, r = .served a → s.SameBytes a.st

theorem AnswersBytes.served {s : State} {a : Loaded} (h : s.SameBytes a.st) : AnswersBytes s (.served a) := ⟨fun _ _ e => (nomatch e), fun _ e => by cases e; exact h⟩

theorem AnswersBytes.stalled (s u : State) : AnswersBytes s (.stalled u) := ⟨fun _ _ e => (nomatch e), fun _ e => (nomatch e)⟩

theorem boundedBeyond_bytes (s : State) (w : Who) (t : Target) (port region pa : Nat) (q : BitVec 32) (l1 : Bool) (self : Instr) :
    AnswersBytes s (boundedBeyond s w t port region pa q l1 self) := by
  unfold boundedBeyond
  dsimp only
  split
  · exact AnswersBytes.served (fillBounded_looked ..).bytes
  · split
    · exact AnswersBytes.served ((peerCounter_bytes ..).trans (serveBoundedHome_looked ..).bytes)
    · exact AnswersBytes.stalled ..

theorem boundedAtHome_bytes (s : State) (w : Who) (t : Target) (region : Nat) (q : BitVec 32) (l1 : Bool) (self : Instr) :
    AnswersBytes s (boundedAtHome s w t region q l1 self) := by
  unfold boundedAtHome
  split
  · rename_i pa _
    split
    · exact ⟨fun _ _ e => (nomatch e), fun _ e => (nomatch e)⟩
    · rename_i u hu
      have hb := (accessGate_looked hu).bytes
      have hthen {r : BoundedRes} (hr : AnswersBytes u r) : AnswersBytes s r := ⟨fun c v e => hb.trans (hr.1 c v e), fun a e => hb.trans (hr.2 a e)⟩
      split
      · exact hthen (boundedBeyond_bytes ..)
      · split
        · exact AnswersBytes.stalled ..
        · split
          · exact ⟨fun _ _ e => by cases e; exact hb, fun _ e => nomatch e⟩
          · exact AnswersBytes.served (hb.trans (serveBoundedHome_looked ..).bytes)
  · exact AnswersBytes.served (loadQuiet_bytes ..)

/-! ### Copies (R198, R199, R204 to R208) -/

theorem leafOf_bytes (s : State) (w : Who) (va : Nat) : s.SameBytes (leafOf s w va).2 := by
  unfold leafOf
  dsimp only
  split
  · exact State.SameBytes.refl s
  · split
    · exact State.SameBytes.refl s
    · have hw (m : Micro) (l : List Instr) (r : List Nat) : s.SameBytes (watchedWalk { s with micro := m, agenda := l } w r) :=
        State.SameBytes.trans (t := { s with micro := m, agenda := l }) ⟨rfl, rfl, rfl, rfl⟩ (watchedWalk_keeps ..).bytes
      split <;> exact hw ..

theorem sealedRefused_bytes (s : State) (w : Who) (img : LineData × Word) (t : Target) (va : Nat) (keep whole : Bool) :
    s.SameBytes (sealedRefused s w img t va keep whole).2 := by
  unfold sealedRefused
  split
  · exact State.SameBytes.refl s
  · split
    · exact State.SameBytes.refl s
    · exact leafOf_bytes ..

section
variable {s0 s : State} (h : s0.SameBytes s) (k e : Nat) (b : Barge)
include h

theorem weirLeave_reads (src : Loc) (out : Bool) (n va : Nat) : Reads s0 id (weirLeave s k e b src out n va) := by
  unfold weirLeave
  split
  · split
    · exact Reads.ok h
    · split
      · exact Reads.ok h
      · split
        · rename_i u hu
          refine Reads.ok (h.trans ?_)
          unfold weirPass at hu
          dsimp only at hu
          split at hu
          · exact nomatch hu
          · cases hu
            exact ⟨rfl, rfl, rfl, rfl⟩
        · split
          · exact Reads.error (Spares.wait _ _)
          · exact Reads.error (Spares.wait _ _)
  · exact Reads.ok h

theorem moveLine_spares (img : LineData × Word) (t : Target) (srcVa dstVa : Nat) (pairs : List (Nat × Nat)) (whole last metered : Bool) :
    Spares s0 (moveLine s k e b img t srcVa dstVa pairs whole last metered) := by
  have hs := h.trans (sealedRefused_bytes s (bargeWho s k e b) img t dstVa (decide ((Tile.ofBits b.cmd.td).policy = 0)) whole)
  unfold moveLine
  dsimp only
  refine Spares.ite (Spares.fault hs) (Reads.spares_bind (bargeCheck_reads hs k e b _ _) fun a ha => Spares.ite (Spares.fault ha) ?_)
  refine Reads.spares_bind (st := fun _ => a.2) ⟨writesReady_waits k e b _, fun _ _ => ha⟩ fun _ _ => ?_
  refine Reads.spares_bind (weirLeave_reads ha k e b _ _ _ _) fun u _ => ?_
  exact (bargeWrite_spares k e b _ _ _).bind fun _ => Spares.ok _

theorem copyRead_reads (va : Nat) : Reads s0 (·.2.2) (copyRead s k e b va) := by
  unfold copyRead
  dsimp only
  refine Reads.bind (bargeCheck_reads h k e b _ _) fun a ha => ?_
  split
  · exact Reads.ok ha
  · split
    · split
      · exact Reads.error (Spares.wait _ _)
      · rename_i l hl
        exact Reads.ok (ha.trans (loadLine_looked hl).bytes)
    · split
      · rename_i l hl
        split at hl
        · exact nomatch hl
        · exact Reads.ok (ha.trans (serveBounded_keeps hl).bytes)
      · rename_i r q _ _ _
        obtain ⟨hbad, hserved⟩ := boundedAtHome_bytes a.2 (bargeWho a.2 k e b) a.1 r q false (.bargeUnit k e)
        split
        · exact Reads.error (Spares.wait _ _)
        · exact Reads.error (Spares.wait _ _)
        · rename_i c u hu
          exact Reads.error (Spares.fault (ha.trans (hbad c u hu)))
        · rename_i l hl
          exact Reads.ok (ha.trans (hserved l hl))

theorem copyLine_spares (srcVa dstVa : Nat) (pairs : List (Nat × Nat)) (whole last metered : Bool) :
    Spares s0 (copyLine s k e b srcVa dstVa pairs whole last metered) :=
  Reads.spares_bind (copyRead_reads h k e b srcVa) fun _ ha => moveLine_spares ha k e _ _ _ _ _ _ _ _ _

theorem unitBfill_spares (i : Nat) (last : Bool) : Spares s0 (unitBfill s k e b i last) :=
  Reads.spares_bind (bargeCheck_reads h k e b _ _) fun _ _ => (bargeWrite_spares k e b _ _ _).bind fun _ => Spares.ok _

theorem blockNumber_reads (tb : Tile) (r c : Nat) : Reads s0 (·.2.2) (blockNumber s k e b tb r c) := by
  unfold blockNumber
  refine Reads.ite (Reads.ok h) ?_
  refine Reads.bind (st := fun x => x.2.2) ?_ fun x hx => Reads.ite (Reads.ok hx) (Reads.ite (Reads.ok hx) (Reads.error (Spares.fault hx)))
  split
  · exact Reads.ok h
  · exact Reads.bind (readLine_reads h k e b _ _) fun x hx => Reads.ok hx

theorem unitGather_spares (i : Nat) (scatter last metered : Bool) : Spares s0 (unitGather s k e b i scatter last metered) := by
  unfold unitGather
  dsimp only
  refine Reads.spares_bind (blockNumber_reads h k e b _ _ _) fun x hx => Spares.ite (Spares.fault hx) (Spares.ite (Spares.fault hx) (Spares.ite ?_ ?_))
  · exact Spares.ite (Spares.fault hx) (copyLine_spares hx k e _ _ _ _ _ _ _)
  · exact copyLine_spares hx k e _ _ _ _ _ _ _

/-! ### Residency (R210) -/

omit h in
theorem bownLine_spares (slice : Nat) (x : OwnerEntry) : Spares s0 (bownLine s k e b slice x) := by
  unfold bownLine
  split
  · exact Spares.ok _
  · split <;> exact Spares.wait _ _

theorem unitResidency_spares (i : Nat) : Spares s0 (unitResidency s k e b i) := by
  have hk (n : Need) := h.trans (check_keeps s (bargeWho s k e b) ((Tile.ofBits b.cmd.td).lineAddr i) n).bytes
  unfold unitResidency
  dsimp only
  split
  · split
    · exact Spares.ok _
    · split
      · exact Spares.wait _ _
      · exact Spares.ok _
  · have hc := hk (if decide (opcodeOf b.cmd.word = 0x3D) then { w := true, voidOk := true, sealedOk := true } else { r := true, egress := true })
    split <;> rename_i e1 <;> rw [e1] at hc
    · exact Spares.fault hc
    · split
      · refine Spares.ite (bownLine_spares k e b _ _) (Spares.ite ?_ (Spares.ite (Spares.ok _) ?_))
        · split
          · exact Spares.ite (Spares.wait _ _) (Spares.ok _)
          · exact Spares.ok _
        · split
          · exact Spares.wait _ _
          · exact Spares.ok _
      · exact Spares.ok _

/-! ### The matrix engine (R212 to R216) -/

omit h in
theorem portKey_bytes (k slot : Nat) : s.SameBytes (portKey s k slot).2 := by
  unfold portKey
  dsimp only
  split
  · exact State.SameBytes.refl s
  · split
    · exact State.SameBytes.refl s
    · split
      · exact ⟨rfl, rfl, rfl, rfl⟩
      · exact State.SameBytes.refl s

/-- What the port makes of a line, it makes with the bytes as they stand. -/
theorem portLine_bytes (i va : Nat) (img : LineData × Word) (t : Target) : (∀ x, portLine s k i va img t = .error x → s0.SameBytes x.2) ∧
    ∀ x, portLine s k i va img t = .ok x → s0.SameBytes x.2 := by
  have hp := h.trans (portKey_bytes k t.key)
  unfold portLine
  split
  · exact ⟨fun x hx => (nomatch hx), fun x hx => by cases hx; exact h⟩
  · split
    · exact ⟨fun x hx => by cases hx; exact h, fun x hx => (nomatch hx)⟩
    · split <;> rename_i e1 <;> rw [e1] at hp
      · exact ⟨fun x hx => by cases hx; exact hp, fun x hx => (nomatch hx)⟩
      · dsimp only
        split
        · exact ⟨fun x hx => by rw [← Except.error.inj hx]; exact hp.trans ⟨rfl, rfl, rfl, rfl⟩, fun x hx => (nomatch hx)⟩
        · exact ⟨fun x hx => (nomatch hx), fun x hx => by rw [← Except.ok.inj hx]; exact hp⟩

theorem unitMxst_spares (i : Nat) : Spares s0 (unitMxst s k e b i) := by
  unfold unitMxst
  dsimp only
  refine Reads.spares_bind (readLine_reads h k e b _ _) fun x hx => ?_
  obtain ⟨herr, hok⟩ := portLine_bytes hx k i ((Tile.ofBits b.cmd.ta).lineAddr i) x.1.1 x.1.2
  split
  · rename_i c u hu
    exact Spares.fault (herr _ hu)
  · rename_i d u hu
    split
    · exact Spares.fault (hok _ hu)
    · exact Spares.ok _

theorem readLines_reads (bad : Nat → Word → Bool) (sealBad keep : Bool) (l : List Nat) (ls : Lines) :
    Reads s0 (·.2.2) (readLines s k e b bad sealBad keep l ls) := by
  induction l generalizing s b ls with
  | nil => exact Reads.ok h
  | cons va t ih =>
    unfold readLines
    split
    · exact Reads.ite (Reads.error (Spares.fault h)) (ih h b _)
    · have hr := readLine_reads h k e b va { r := true }
      split <;> rename_i e1 <;> rw [e1] at hr
      · exact Reads.error (fun c v u hu => hr.spares c v u (by cases hu; rfl))
      · have hx := hr.goes _ rfl
        exact Reads.ite (Reads.error (Spares.fault hx)) (Reads.ite (Reads.error (Spares.fault hx)) (ih hx _ _))

theorem checkC_reads (td : Tile) (l : List Nat) : Reads s0 (·.2) (checkC k e td b l s) := by
  induction l generalizing s with
  | nil => exact Reads.ok h
  | cons i t ih =>
    unfold checkC
    exact Reads.bind (bargeCheck_reads h k e b _ _) fun x hx => Reads.bind (ih hx) fun y hy => Reads.ok hy

omit h in
theorem writeC_spares (td : Tile) (real : Bool) (val : Nat → Nat → Val) (l : List (Nat × Target)) : Spares s0 (writeC k e td real val l b s) := by
  induction l generalizing s b with
  | nil => exact Spares.ok _
  | cons x t ih =>
    unfold writeC
    dsimp only
    exact (bargeWrite_spares k e _ _ _ _).bind fun y => ih y.1

theorem unitCbld_spares (i : Nat) : Spares s0 (unitCbld s k e b i) := by
  unfold unitCbld
  dsimp only
  exact Reads.spares_bind (readLine_reads h k e b _ _) fun x hx => Spares.ite (Spares.fault hx) (Spares.ok _)

theorem unitMxma_spares (g : Nat) : Spares s0 (unitMxma s k e b g) := by
  unfold unitMxma
  dsimp only
  refine Spares.ite (Spares.fault h) (Spares.ite (Spares.fault h) (Spares.ite (Spares.fault h) ?_))
  split
  · exact Spares.fault h
  · rename_i skips st _
    refine Reads.spares_bind (readLines_reads h k e b _ _ _ _ _) fun x hx => ?_
    split
    · exact Spares.fault hx
    · refine Reads.spares_bind (readLines_reads hx k e _ _ _ _ _ _) fun y hy => Reads.spares_bind (checkC_reads hy k e _ _ _) fun z hz => ?_
      refine (writesReady_waits k e _ _).bind fun _ => (writeC_spares k e _ _ _ _ _).bind fun w => Spares.ite (Spares.ok _) (Spares.ok _)

/-! ### The vector engine -/

theorem unitVector_spares (i : Nat) : Spares s0 (unitVector s k e b i) := by
  unfold unitVector
  dsimp only
  refine Reads.spares_bind (readLines_reads h k e b _ _ _ _ _) fun x hx => Reads.spares_bind (readLines_reads hx k e _ _ _ _ _ _) fun y hy =>
    Spares.ite (Spares.fault hy) (Reads.spares_bind (bargeCheck_reads hy k e _ _ _) fun z hz => ?_)
  exact bargeWrite_spares k e _ _ _ _

theorem processUnit_spares (i : Nat) (metered : Bool) : Spares s0 (processUnit s k e b i metered) := by
  unfold processUnit
  dsimp only
  refine Spares.ite (copyLine_spares h k e _ _ _ _ _ _ _) (Spares.ite (unitBfill_spares h k e _ _ _) (Spares.ite (unitGather_spares h k e _ _ _ _ _)
    (Spares.ite (unitGather_spares h k e _ _ _ _ _) (Spares.ite (unitResidency_spares h k e _ _) (Spares.ite (unitMxst_spares h k e _ _)
    (Spares.ite (unitMxma_spares h k e _ _) (Spares.ite (unitCbld_spares h k e _ _) (unitVector_spares h k e _ _))))))))

end

theorem numbered_some (c : Nat) (r : BitVec 4) : numbered (some (c, r.toNat)) = some (c, r.setWidth 64) := by
  rw [numbered, Option.map_some, BitVec.ofNat_toNat]

/-- The tiles of two descriptors overlap (R46). -/
theorem blocksOverlap_iff (x y : Tile) : blocksOverlap x.base x.height y.base y.height = true ↔
    x.base / 4 ^ max x.height y.height = y.base / 4 ^ max x.height y.height := by rw [blocksOverlap, decide_eq_true_eq]

theorem clashes_iff (x y : Tile) : clashes x y = true ↔ (x.base / 4 ^ max x.height y.height = y.base / 4 ^ max x.height y.height) ∧
    ¬ (x.base = y.base ∧ x.height = y.height ∧ fclass x.fmt = fclass y.fmt ∧ x.trans = y.trans) := by
  rw [clashes, Bool.and_eq_true, blocksOverlap_iff]
  simp only [Bool.not_eq_true', Bool.and_eq_false_iff, decide_eq_false_iff_not, beq_eq_false_iff_ne, not_and_or, or_assoc, ne_eq]

theorem Tile.noValues_iff (t : Tile) : t.noValues = true ↔ t.fmt = 0 ∨ fclass t.fmt = .cb2 := by
  rw [Tile.noValues, Bool.or_eq_true, decide_eq_true_eq, decide_eq_true_eq]

/-- Settles O26: the checks of a command in the order of the tables, and R97 for every unit. -/
theorem engineChecksAndFaults : Obligations.EngineChecksAndFaults := by
  unfold Obligations.EngineChecksAndFaults
  refine ⟨?_, fun s k e b i metered c v s' h => processUnit_spares (State.SameBytes.refl s) k e b i metered c v s' h⟩
  intro s k d a b h m hk f base height good wide narrow own same overlap inPlace num ans
  have hv (v) := Tile.ofBits_eq v
  have hfmt (v : BitVec 128) : (Tile.ofBits v).fmt = f v 67 60 := by rw [hv]
  have hbase (v : BitVec 128) : (Tile.ofBits v).base = base v := by rw [hv]
  have hpolicy (v : BitVec 128) : (Tile.ofBits v).policy = f v 94 93 := by rw [hv]
  have hover (v w : BitVec 128) : blocksOverlap (Tile.ofBits v).base (Tile.ofBits v).height (Tile.ofBits w).base (Tile.ofBits w).height = true ↔ overlap v w := by
    rw [blocksOverlap_iff, hbase, hbase]
  have hown (v : BitVec 128) : ownLs k (Tile.ofBits v).base = true ↔ own v := by rw [ownLs_iff hk, hbase]
  refine ⟨fun hw => ?_, fun hn => ?_, fun e => ?_, fun e => ?_, fun x y e => ?_, fun x y e => ?_⟩
  · have hc : fclass (Tile.ofBits m.td).fmt = .b32 := by rw [hfmt]; exact hw
    have hval := Tile.valid_iff_of_height (by rw [hc]; decide) (by rw [hc]; decide) (Tile.height_of_b32 hc)
    rw [hv] at hval
    exact Iff.trans (by rw [← hv]) hval
  · have hc : fclass (Tile.ofBits m.td).fmt = .b8 := by rw [hfmt]; exact hn
    have hval := Tile.valid_iff_of_height (by rw [hc]; decide) (by rw [hc]; decide) (Tile.height_of_b8 hc)
    rw [hv] at hval
    exact Iff.trans (by rw [← hv]) hval
  · intro lost
    have hans : ans = _ := checkCmd_bcopy s k e
    have hlost (v : BitVec 128) : inUnassigned (Tile.ofBits v).base = true ↔ lost v := by rw [inUnassigned_iff, hbase]
    have hfit : (sameShape (Tile.ofBits m.ta) (Tile.ofBits m.td) = true ∧ (Tile.ofBits m.ta).trans = (Tile.ofBits m.td).trans ∧
        fclass (Tile.ofBits m.ta).fmt = fclass (Tile.ofBits m.td).fmt) ↔ same m.ta m.td ∧ f m.ta 92 92 = f m.td 92 92 ∧ fclass (f m.ta 67 60) = fclass (f m.td 67 60) := by
      rw [sameShape_iff, Tile.trans_eq_iff, hfmt, hfmt]
    unfold bcopyFault at hans
    dsimp only at hans
    refine ⟨fun h1 => ?_, fun h1 h2 => ?_, fun h1 h2 => ?_⟩
    · rw [hans, if_pos (show ¬ (Tile.ofBits m.td).valid = true from h1)]; exact numbered_some ..
    all_goals
      change (Tile.ofBits m.td).valid = true at h1
      rw [if_neg (not_not_intro h1)] at hans
    · rw [hans, if_pos (show ¬ (Tile.ofBits m.ta).valid = true from h2)]; exact numbered_some ..
    change (Tile.ofBits m.ta).valid = true at h2
    rw [if_neg (not_not_intro h2)] at hans
    refine ⟨fun h3 => ?_, fun h3 h4 => ?_, fun h3 h4 => ?_⟩
    · rw [hans, if_pos ((hlost _).mpr h3)]; exact numbered_some ..
    · rw [hans, if_neg (mt (hlost _).mp h3), if_pos ((hlost _).mpr h4)]; exact numbered_some ..
    rw [if_neg (mt (hlost _).mp h3), if_neg (mt (hlost _).mp h4)] at hans
    refine ⟨fun h5 => ?_, fun h5 h6 => ?_, fun h5 h6 h7 => ?_, fun h5 h6 h7 => ?_⟩
    · rw [hans, if_pos (mt hfit.mp h5)]; exact numbered_some ..
    all_goals rw [hans, if_neg (not_not_intro (hfit.mpr h5))]
    · rw [if_pos ((hover _ _).mpr h6)]; exact numbered_some ..
    · rw [if_neg (mt (hover _ _).mp h6), if_pos ((hpolicy _).trans h7)]; exact numbered_some ..
    · rw [if_neg (mt (hover _ _).mp h6), if_neg (fun h => h7 ((hpolicy _).symm.trans h))]; rfl
  · intro raw
    have hans : ans = _ := checkCmd_vadd s k e
    have hraw (v : BitVec 128) : (Tile.ofBits v).noValues = true ↔ raw v := by rw [Tile.noValues_iff, hfmt]
    have hsame (v : BitVec 128) : sameShape (Tile.ofBits v) (Tile.ofBits m.td) = true ↔ same v m.td := sameShape_iff v m.td
    have hclash (v : BitVec 128) : clashes (Tile.ofBits v) (Tile.ofBits m.td) = true ↔ overlap v m.td ∧ ¬ inPlace v m.td := by
      rw [clashes_iff, Tile.trans_eq_iff, hfmt, hfmt, hbase, hbase]
    unfold vaddFault at hans
    dsimp only at hans
    refine ⟨fun h1 => ?_, fun h1 h2 => ?_, fun h1 h2 h3 => ?_, fun h1 h2 h3 => ?_⟩
    · rw [hans, if_pos (show ¬ (Tile.ofBits m.td).valid = true from h1)]; exact numbered_some ..
    all_goals
      change (Tile.ofBits m.td).valid = true at h1
      rw [if_neg (not_not_intro h1)] at hans
    · rw [hans, if_pos (show ¬ (Tile.ofBits m.ta).valid = true from h2)]; exact numbered_some ..
    all_goals
      change (Tile.ofBits m.ta).valid = true at h2
      rw [if_neg (not_not_intro h2)] at hans
    · rw [hans, if_pos (show ¬ (Tile.ofBits m.tb).valid = true from h3)]; exact numbered_some ..
    change (Tile.ofBits m.tb).valid = true at h3
    rw [if_neg (not_not_intro h3)] at hans
    refine ⟨fun h4 => ?_, fun h4 h5 => ?_, fun h4 h5 h6 => ?_, fun h4 h5 h6 => ?_⟩
    · rw [hans, if_pos (mt (hown _).mp h4)]; exact numbered_some ..
    · rw [hans, if_neg (not_not_intro ((hown _).mpr h4)), if_pos (mt (hown _).mp h5)]; exact numbered_some ..
    · rw [hans, if_neg (not_not_intro ((hown _).mpr h4)), if_neg (not_not_intro ((hown _).mpr h5)), if_pos (mt (hown _).mp h6)]; exact numbered_some ..
    rw [if_neg (not_not_intro ((hown _).mpr h4)), if_neg (not_not_intro ((hown _).mpr h5)), if_neg (not_not_intro ((hown _).mpr h6))] at hans
    refine ⟨fun g1 => ?_, fun g1 g2 => ?_, fun g1 g2 g3 => ?_, fun g1 g2 g3 => ?_⟩
    · rw [hans, if_pos ((hraw _).mpr g1)]; exact numbered_some ..
    · rw [hans, if_neg (mt (hraw _).mp g1), if_pos ((hraw _).mpr g2)]; exact numbered_some ..
    · rw [hans, if_neg (mt (hraw _).mp g1), if_neg (mt (hraw _).mp g2), if_pos ((hraw _).mpr g3)]; exact numbered_some ..
    rw [if_neg (mt (hraw _).mp g1), if_neg (mt (hraw _).mp g2), if_neg (mt (hraw _).mp g3)] at hans
    intro clash
    refine ⟨fun g4 => ?_, fun g4 g5 => ?_, fun g4 g5 g6 => ?_, fun g4 g5 g6 g7 => ?_, fun g4 g5 g6 g7 => ?_⟩
    · rw [hans, if_pos (mt (hsame _).mp g4)]; exact numbered_some ..
    all_goals rw [hans, if_neg (not_not_intro ((hsame _).mpr g4))]
    · rw [if_pos (mt (hsame _).mp g5)]; exact numbered_some ..
    all_goals rw [if_neg (not_not_intro ((hsame _).mpr g5))]
    · rw [if_pos ((hclash _).mpr g6)]; exact numbered_some ..
    · rw [if_neg (mt (hclash _).mp g6), if_pos ((hclash _).mpr g7)]; exact numbered_some ..
    · rw [if_neg (mt (hclash _).mp g6), if_neg (mt (hclash _).mp g7)]; rfl
  · have hans : ans = _ := (if_pos (opcodeOf_cbld e) :)
    refine ⟨fun h1 => ?_, fun h1 h2 => ?_, fun h1 h2 => ?_⟩
    · rw [hans, if_pos h1]
    · rw [hans, if_neg (by omega), if_pos h2]
    · rw [hans, if_neg (by omega), if_neg (by omega)]
  · intro stray
    have hop := opcodeOf_skset e
    have hne : ¬ opcodeOf m.word = 0x58 := by rw [hop]; decide
    have hans : ans = _ := ((if_neg hne).trans (if_pos hop) :)
    have hstray : (m.y.toNat % 2 ≠ 0 ∨ ownLs k (resolveAlias k m.y.toNat) = false) ↔ stray := by
      rw [← Bool.not_eq_true, ownLs_alias hk, not_or]
    rw [if_congr Iff.rfl rfl (if_congr hstray rfl rfl)] at hans
    refine ⟨fun h1 => ?_, fun h1 h2 => ?_, fun h1 h2 => ?_⟩
    · rw [hans, if_pos h1]
    · rw [hans, if_neg (by omega), if_pos h2]
    · rw [hans, if_neg (by omega), if_neg h2]

end Sys2Proof.Machine
end

section
/-! SUPPORT for O58 (R35). What keeps the canonical form of the memory, function by function: the operations of the state, memory and homes. -/

namespace Sys2Proof.Machine

/-- The canonical form is that of the memory alone. -/
theorem State.canonical_mem (s : State) : s.Canonical = (s.mem.wf = true) := rfl

/-- A fold keeps the canonical form where each of its steps does. -/
theorem foldl_canonical {α : Type} {f : State → α → State} (hf : ∀ s a, s.Canonical → (f s a).Canonical) {s : State} (h : s.Canonical) (l : List α) :
    (l.foldl f s).Canonical := by
  induction l generalizing s with
  | nil => exact h
  | cons a t ih => exact ih (hf s a h)

theorem ite_canonical {c : Prop} [Decidable c] {s t : State} (hs : s.Canonical) (ht : t.Canonical) : (if c then s else t).Canonical := by
  split
  · exact hs
  · exact ht

/-! ### Operations of the state -/

theorem State.setCore_canonical {s : State} (h : s.Canonical) (k : Nat) (c : Core) : (State.setCore s k c).Canonical := h

theorem State.setCtx_canonical {s : State} (h : s.Canonical) (r : ThreadRef) (x : Context) : (State.setCtx s r x).Canonical := by
  unfold State.setCtx
  grind [State.setCore_canonical]

theorem State.setMe_canonical {s : State} (h : s.Canonical) (x : Context) : (State.setMe s x).Canonical := by
  unfold State.setMe
  grind [State.setCtx_canonical]

theorem State.mapCtxs_canonical {s : State} (h : s.Canonical) (f : Nat → Nat → Context → Context) : (State.mapCtxs s f).Canonical := h

theorem State.setMyCore_canonical {s : State} (h : s.Canonical) (c : Core) : (State.setMyCore s c).Canonical := by
  unfold State.setMyCore
  grind [State.setCore_canonical]

theorem State.setS_canonical {s : State} (h : s.Canonical) (i : BitVec 5) (v : Word) : (State.setS s i v).Canonical := by
  unfold State.setS
  grind [State.setMe_canonical]

theorem State.setT_canonical {s : State} (h : s.Canonical) (i : BitVec 4) (v : BitVec 128) : (State.setT s i v).Canonical := by
  unfold State.setT
  grind [State.setMe_canonical]

theorem State.setB_canonical {s : State} (h : s.Canonical) (i : BitVec 4) (v : BitVec 32) : (State.setB s i v).Canonical := by
  unfold State.setB
  grind [State.setMe_canonical]

theorem State.post_canonical {s : State} (h : s.Canonical) (l : List Instr) : (State.post s l).Canonical := h

theorem State.emit_canonical {s : State} (h : s.Canonical) (m : OutMsg) : (State.emit s m).Canonical := h

theorem State.postWake_canonical {s : State} (h : s.Canonical) (k i : Nat) : (State.postWake s k i).Canonical := by
  unfold State.postWake
  grind [State.post_canonical]

theorem State.traceAt_canonical {s : State} (h : s.Canonical) (k slot e : Nat) (pc data : Word) : (State.traceAt s k slot e pc data).Canonical := by
  unfold State.traceAt
  grind [State.setCore_canonical]

theorem State.traceMe_canonical {s : State} (h : s.Canonical) (e : Nat) (data : Word) : (State.traceMe s e data).Canonical := by
  unfold State.traceMe
  grind [State.traceAt_canonical]

theorem State.logMachineCheck_canonical {s : State} (h : s.Canonical) (pa : Word) (die core : Nat) :
    (State.logMachineCheck s pa die core).Canonical := h

theorem wakeSupervisor_canonical {s : State} (h : s.Canonical) (k : Nat) : (wakeSupervisor k s).Canonical := by
  unfold wakeSupervisor
  grind [State.postWake_canonical]

theorem pushSq_canonical {s : State} (h : s.Canonical) (k : Nat) (src : HeldSrc) (r : SqRec) : (pushSq s k src r).Canonical := by
  unfold pushSq
  grind [State.setCore_canonical, wakeSupervisor_canonical]

theorem popSq_canonical {s : State} (h : s.Canonical) (k : Nat) : (popSq s k).Canonical := by
  unfold popSq
  grind [State.setCore_canonical, wakeSupervisor_canonical]

theorem State.setClk_canonical {s : State} (h : s.Canonical) (r : ThreadRef) (c : Nat) : (State.setClk s r c).Canonical := h

theorem leave_canonical {s : State} (h : s.Canonical) (kind obj : Nat) (p : Pend) : (leave s kind obj p).Canonical := by
  unfold leave
  grind [State.setMe_canonical, State.traceMe_canonical]

theorem wakeAll_canonical {s : State} (h : s.Canonical) (k kind obj : Nat) : (wakeAll s k kind obj).Canonical := by
  unfold wakeAll
  grind [State.post_canonical]

theorem awaitReply_canonical {s : State} (h : s.Canonical) (obj : Nat) : (awaitReply s obj).Canonical := by
  unfold awaitReply
  grind [State.post_canonical, leave_canonical]

theorem State.poll_canonical {s : State} (h : s.Canonical) (cl : Nat) : (State.poll s cl).Canonical := by
  unfold State.poll
  grind [State.post_canonical]

theorem State.pollEntries_canonical {s : State} (h : s.Canonical) (core : Nat) : (State.pollEntries s core).Canonical := by
  unfold State.pollEntries
  grind [State.post_canonical]

theorem State.slotVacant_canonical {s : State} (h : s.Canonical) (core : Nat) : (State.slotVacant s core).Canonical := by
  unfold State.slotVacant
  grind [State.poll_canonical, State.pollEntries_canonical]

theorem bindHome_canonical {s : State} (h : s.Canonical) (r : ThreadRef) : (bindHome s r).Canonical := by
  unfold bindHome
  grind [State.setCtx_canonical]

theorem vacate_canonical {s : State} (h : s.Canonical) (core slot : Nat) : (vacate s core slot).Canonical := by
  unfold vacate
  grind [State.setCore_canonical, State.post_canonical, State.slotVacant_canonical, bindHome_canonical]

theorem restoreSupervisor_canonical {s : State} (h : s.Canonical) (core : Nat) : (restoreSupervisor s core).Canonical := by
  unfold restoreSupervisor
  grind [State.canonical_mem, State.setCtx_canonical, bindHome_canonical]

theorem dropMessages_canonical {s : State} (h : s.Canonical) (who : ThreadRef) : (dropMessages who s).Canonical := h

theorem endPark_canonical {s : State} (h : s.Canonical) (r : ThreadRef) : (endPark s r).Canonical := by
  unfold endPark
  grind [State.setCore_canonical, State.post_canonical, State.setClk_canonical, foldl_canonical]

theorem parkCtx_canonical {s : State} (h : s.Canonical) (r : ThreadRef) : (parkCtx s r).Canonical := by
  unfold parkCtx
  grind [State.setCtx_canonical, vacate_canonical, restoreSupervisor_canonical, dropMessages_canonical, endPark_canonical]

theorem stopCtx_canonical {s : State} (h : s.Canonical) (r : ThreadRef) : (stopCtx s r).Canonical := by
  unfold stopCtx
  grind [State.setCtx_canonical, State.traceAt_canonical, dropMessages_canonical]

theorem enterMonitor_canonical {s : State} (h : s.Canonical) (resume reason detail : Word) : (enterMonitor s resume reason detail).Canonical := by
  unfold enterMonitor
  grind [State.setMyCore_canonical]

theorem stopCore_canonical {s : State} (h : s.Canonical) : (stopCore s).Canonical := by
  unfold stopCore
  grind [State.setMyCore_canonical, State.logMachineCheck_canonical]

theorem takeTrap_canonical {s : State} (h : s.Canonical) (cause : Nat) (tval extra : Word) : (takeTrap s cause tval extra).Canonical := by
  unfold takeTrap
  grind [State.setMe_canonical, State.traceMe_canonical, pushSq_canonical, parkCtx_canonical, enterMonitor_canonical, stopCore_canonical]

theorem trap_canonical {s : State} (h : s.Canonical) (cause : Nat) (tval : Word) : (trap s cause tval).Canonical := by
  unfold trap
  grind [takeTrap_canonical]

theorem leaveMonitor_canonical {s : State} (h : s.Canonical) : (leaveMonitor s).Canonical := by
  unfold leaveMonitor
  grind [State.setMyCore_canonical]

theorem parkWithRecord_canonical {s : State} (h : s.Canonical) (kind : Nat) (tval : Word) (tpc : Word) (traps : Bool) :
    (parkWithRecord s kind tval tpc traps).Canonical := by
  unfold parkWithRecord
  grind [State.setMe_canonical, State.traceMe_canonical, pushSq_canonical, parkCtx_canonical]

theorem stopTrapped_canonical {s : State} (h : s.Canonical) (due : Bool) : (stopTrapped s due).Canonical := by
  unfold stopTrapped
  grind [State.setMe_canonical, stopCtx_canonical]

theorem boundary_canonical {s : State} (h : s.Canonical) : (boundary s).Canonical := by
  unfold boundary
  grind [State.setMe_canonical, parkCtx_canonical, stopCtx_canonical, takeTrap_canonical, stopTrapped_canonical]

theorem retire_canonical {s : State} (h : s.Canonical) : (retire s).Canonical := by
  unfold retire
  grind [State.setMe_canonical, boundary_canonical]

theorem retireTo_canonical {s : State} (h : s.Canonical) (target : Word) : (retireTo s target).Canonical := by
  unfold retireTo
  grind [State.setMe_canonical, boundary_canonical]

theorem writeRetire_canonical {s : State} (h : s.Canonical) (d : BitVec 5) (v : Word) : (writeRetire s d v).Canonical := by
  unfold writeRetire
  grind [State.setS_canonical, retire_canonical]

theorem asThread_canonical {f : State → State} (hf : ∀ s, s.Canonical → (f s).Canonical) {s : State} (h : s.Canonical) (r : ThreadRef) :
    (asThread s r f).Canonical := hf { s with cur := r } h

theorem reply_canonical {s : State} (h : s.Canonical) (r : ThreadRef) : (reply s r).Canonical := by
  unfold reply
  grind [State.setMe_canonical, State.setS_canonical, boundary_canonical, retire_canonical, asThread_canonical]

theorem atLeast_canonical {f : State → State} (hf : ∀ s, s.Canonical → (f s).Canonical) {s : State} (h : s.Canonical) (lv : Level) :
    (atLeast lv s f).Canonical := by
  unfold atLeast
  split
  · exact trap_canonical h _ _
  · exact hf s h

/-! ### Memory as the parties reach it -/

theorem State.writeAt_canonical {s : State} (h : s.Canonical) (l : Loc) (bs : ByteList) : (s.writeAt l bs).Canonical := by
  unfold State.writeAt
  split
  · exact Memory.wf_writeBytes _ _ _ h
  · exact Memory.wf_writeBytes _ _ _ h
  all_goals exact h

theorem State.writeSide_canonical {s : State} (h : s.Canonical) (l : Loc) (v : Word) : (State.writeSide s l v).Canonical := by
  unfold State.writeSide
  grind [State.canonical_mem]

theorem watchReport_canonical {s : State} (h : s.Canonical) (w : Who) (l : Loc) (rd wr : Bool) : (watchReport s w l rd wr).Canonical := by
  unfold watchReport
  grind [State.canonical_mem, State.setCtx_canonical, foldl_canonical]

theorem watchedWalk_canonical {s : State} (h : s.Canonical) (w : Who) (lines : List Nat) : (watchedWalk s w lines).Canonical := by
  unfold watchedWalk
  grind [watchReport_canonical, foldl_canonical]

theorem check_canonical {s : State} (h : s.Canonical) (w : Who) (va : Nat) (n : Need) : (check s w va n).2.Canonical := by
  unfold check
  grind [State.canonical_mem, watchedWalk_canonical]

theorem homeGate_canonical_error {s : State} (h : s.Canonical) (line core : Nat) (kind : FwdKind) (self : Instr) {u : State} :
    homeGate s line core kind self = .error u → u.Canonical := by
  unfold homeGate
  grind [State.canonical_mem, State.post_canonical]

theorem homeGate_canonical_ok {s : State} (h : s.Canonical) (line core : Nat) (kind : FwdKind) (self : Instr) {u : State} :
    homeGate s line core kind self = .ok u → u.Canonical := by
  unfold homeGate
  grind [State.canonical_mem]

theorem accessGate_canonical_error {s : State} (h : s.Canonical) (w : Who) (line : Nat) (kind : FwdKind) {u : State} :
    accessGate s w line kind = .error u → u.Canonical := by
  unfold accessGate
  grind [homeGate_canonical_error]

theorem accessGate_canonical_ok {s : State} (h : s.Canonical) (w : Who) (line : Nat) (kind : FwdKind) {u : State} :
    accessGate s w line kind = .ok u → u.Canonical := by
  unfold accessGate
  grind [State.canonical_mem, homeGate_canonical_ok]

theorem deviceGate_canonical {s : State} (h : s.Canonical) (line : Nat) : (deviceGate s line).2.Canonical := by
  unfold deviceGate
  grind [State.canonical_mem, State.post_canonical]

theorem readyLines_canonical_error {s : State} (h : s.Canonical) (self : Instr) (kind : FwdKind) (lines : List Nat) {u : State} :
    readyLines s self kind lines = .error u → u.Canonical := by
  unfold readyLines
  grind [homeGate_canonical_error]

theorem readyLines_canonical_ok {s : State} (h : s.Canonical) (self : Instr) (kind : FwdKind) (lines : List Nat) {u : State} :
    readyLines s self kind lines = .ok u → u.Canonical := by
  unfold readyLines
  grind [State.canonical_mem, homeGate_canonical_ok, foldl_canonical]

theorem noteSeen_canonical {s : State} (h : s.Canonical) (w : Who) (t : Target) (stamp : Nat) : (noteSeen s w t stamp).Canonical := by
  unfold noteSeen
  grind [State.canonical_mem]

theorem serveHit_canonical {s : State} (h : s.Canonical) (w : Who) (t : Target) (line c lv : Nat) (o : Copy) :
    (serveHit s w t line c lv o).st.Canonical := by
  unfold serveHit
  grind [State.canonical_mem, noteSeen_canonical]

theorem serveHomeLoad_canonical {s : State} (h : s.Canonical) (w : Who) (t : Target) (pa c : Nat) : (serveHomeLoad s w t pa c).st.Canonical := by
  unfold serveHomeLoad
  grind [State.canonical_mem, watchReport_canonical, noteSeen_canonical]

theorem serveWindow_canonical {s : State} (h : s.Canonical) (t : Target) (c : Nat) : (serveWindow s t c).st.Canonical := h

theorem markMiss_canonical {s : State} (h : s.Canonical) (w : Who) (line : Nat) (exclusive : Bool) : (markMiss s w line exclusive).Canonical := by
  unfold markMiss
  grind [State.setCtx_canonical]

theorem askHome_canonical {s : State} (h : s.Canonical) (w : Who) (t : Target) (line c : Nat) (exclusive : Bool) :
    (askHome s w t line c exclusive).Canonical := by
  unfold askHome
  grind [State.canonical_mem, State.post_canonical]

theorem requestLine_canonical {s : State} (h : s.Canonical) (w : Who) (t : Target) (line c : Nat) (exclusive : Bool) :
    (requestLine s w t line c exclusive).Canonical := by
  unfold requestLine
  grind [markMiss_canonical, askHome_canonical]

theorem evictLine_canonical {s : State} (h : s.Canonical) (core line : Nat) : (evictLine s core line).Canonical := by
  unfold evictLine
  grind [State.canonical_mem, State.post_canonical]

theorem makeRoom_canonical {s : State} (h : s.Canonical) (core line : Nat) : (makeRoom s core line).Canonical := by
  unfold makeRoom
  grind [State.canonical_mem, evictLine_canonical]

theorem clearL1_canonical {s : State} (h : s.Canonical) (k : Nat) (gone : Copy → Bool) : (clearL1 s k gone).Canonical := by
  unfold clearL1
  grind [State.canonical_mem, evictLine_canonical, foldl_canonical]

theorem clearL2_canonical {s : State} (h : s.Canonical) (cl : Nat) (gone : Copy → Bool) : (clearL2 s cl gone).Canonical := h

theorem advanceL1_canonical {s : State} (h : s.Canonical) (k region : Nat) (v : BitVec 32) : (advanceL1 s k region v).Canonical := by
  unfold advanceL1
  grind [State.setCore_canonical, clearL1_canonical]

theorem recordL2_canonical {s : State} (h : s.Canonical) (cl region : Nat) (v : BitVec 32) : (recordL2 s cl region v).Canonical := by
  unfold recordL2
  grind [State.canonical_mem, clearL2_canonical]

theorem advanceL2_canonical {s : State} (h : s.Canonical) (cl region : Nat) (v : BitVec 32) : (advanceL2 s cl region v).Canonical := by
  unfold advanceL2
  grind [recordL2_canonical]

theorem advanceFor_canonical {s : State} (h : s.Canonical) (core : Nat) (o : Copy) : (advanceFor s core o).Canonical := by
  unfold advanceFor
  grind [advanceL1_canonical]

theorem passToL1_canonical {s : State} (h : s.Canonical) (core line : Nat) (o : Copy) : (passToL1 s core line o).Canonical := by
  unfold passToL1
  grind [State.canonical_mem, makeRoom_canonical, advanceFor_canonical]

theorem fillL2_canonical {s : State} (h : s.Canonical) (cl line : Nat) (o : Copy) : (fillL2 s cl line o).Canonical := by
  unfold fillL2
  grind [State.canonical_mem, advanceL2_canonical]

theorem fillCopies_canonical {s : State} (h : s.Canonical) (core line : Nat) (img : Stamped) (region : Option Nat) (cls : Nat) (l1 l2 : Bool) :
    (fillCopies s core line img region cls l1 l2).Canonical := by
  unfold fillCopies
  grind [State.canonical_mem, makeRoom_canonical, advanceFor_canonical, fillL2_canonical]

theorem homeLoad_canonical_error {s : State} (h : s.Canonical) (w : Who) (t : Target) (pa c : Nat) {u : State} :
    homeLoad s w t pa c = .error u → u.Canonical := by
  unfold homeLoad
  grind [accessGate_canonical_error]

theorem homeLoad_canonical_ok {s : State} (h : s.Canonical) (w : Who) (t : Target) (pa c : Nat) {a : Loaded} :
    homeLoad s w t pa c = .ok a → a.st.Canonical := by
  unfold homeLoad
  grind [accessGate_canonical_ok, serveHomeLoad_canonical]

theorem missLoad_canonical_error {s : State} (h : s.Canonical) (w : Who) (t : Target) (pa c : Nat) {u : State} :
    missLoad s w t pa c = .error u → u.Canonical := by
  unfold missLoad
  grind [requestLine_canonical, makeRoom_canonical, homeLoad_canonical_error]

theorem missLoad_canonical_ok {s : State} (h : s.Canonical) (w : Who) (t : Target) (pa c : Nat) {a : Loaded} :
    missLoad s w t pa c = .ok a → a.st.Canonical := by
  unfold missLoad
  grind [homeLoad_canonical_ok]

theorem serveL2_canonical {s : State} (h : s.Canonical) (w : Who) (t : Target) (line c : Nat) (o : Copy) : (serveL2 s w t line c o).st.Canonical := by
  unfold serveL2
  grind [serveHit_canonical, passToL1_canonical]

theorem beyondL2_canonical_error {s : State} (h : s.Canonical) (w : Who) (t : Target) (pa c : Nat) {u : State} :
    beyondL2 s w t pa c = .error u → u.Canonical := by
  unfold beyondL2
  grind [missLoad_canonical_error]

theorem beyondL2_canonical_ok {s : State} (h : s.Canonical) (w : Who) (t : Target) (pa c : Nat) {a : Loaded} :
    beyondL2 s w t pa c = .ok a → a.st.Canonical := by
  unfold beyondL2
  grind [serveHit_canonical, missLoad_canonical_ok]

theorem l2Load_canonical_error {s : State} (h : s.Canonical) (w : Who) (t : Target) (pa c : Nat) {u : State} :
    l2Load s w t pa c = .error u → u.Canonical := by
  unfold l2Load
  grind [beyondL2_canonical_error]

theorem l2Load_canonical_ok {s : State} (h : s.Canonical) (w : Who) (t : Target) (pa c : Nat) {a : Loaded} :
    l2Load s w t pa c = .ok a → a.st.Canonical := by
  unfold l2Load
  grind [serveL2_canonical, beyondL2_canonical_ok]

theorem serveOwned_canonical {s : State} (h : s.Canonical) (w : Who) (t : Target) (line c : Nat) (o : Copy) :
    (serveOwned s w t line c o).st.Canonical := by
  unfold serveOwned
  grind [State.canonical_mem, noteSeen_canonical]

theorem mainLoad_canonical_error {s : State} (h : s.Canonical) (w : Who) (t : Target) (pa c : Nat) {u : State} :
    mainLoad s w t pa c = .error u → u.Canonical := by
  unfold mainLoad
  grind [homeLoad_canonical_error, missLoad_canonical_error, l2Load_canonical_error]

theorem mainLoad_canonical_ok {s : State} (h : s.Canonical) (w : Who) (t : Target) (pa c : Nat) {a : Loaded} :
    mainLoad s w t pa c = .ok a → a.st.Canonical := by
  unfold mainLoad
  grind [serveHit_canonical, homeLoad_canonical_ok, missLoad_canonical_ok, l2Load_canonical_ok, serveOwned_canonical]

theorem loadLine_canonical_error {s : State} (h : s.Canonical) (w : Who) (t : Target) {u : State} : loadLine s w t = .error u → u.Canonical := by
  unfold loadLine
  grind [mainLoad_canonical_error]

theorem loadLine_canonical_ok {s : State} (h : s.Canonical) (w : Who) (t : Target) {a : Loaded} : loadLine s w t = .ok a → a.st.Canonical := by
  unfold loadLine
  grind [serveWindow_canonical, mainLoad_canonical_ok]

theorem State.writeBoth_canonical {s : State} (h : s.Canonical) (l : Loc) (bs : ByteList) (side : Option Word) :
    (State.writeBoth s l bs side).Canonical := by
  unfold State.writeBoth
  grind [State.writeAt_canonical, State.writeSide_canonical]

theorem storeHome_canonical {s : State} (h : s.Canonical) (w : Who) (t : Target) (pa c : Nat) (bs : ByteList) (side : Option Word) (rd : Bool) :
    (storeHome s w t pa c bs side rd).2.2.Canonical := by
  unfold storeHome
  grind [State.canonical_mem, watchReport_canonical, noteSeen_canonical, State.writeBoth_canonical]

theorem storeOwned_canonical {s : State} (h : s.Canonical) (w : Who) (t : Target) (line c : Nat) (o : Copy) (bs : ByteList) (side : Option Word) :
    (storeOwned s w t line c o bs side).2.2.Canonical := by
  unfold storeOwned
  grind [State.canonical_mem, noteSeen_canonical, State.writeBoth_canonical]

theorem storeWindow_canonical {s : State} (h : s.Canonical) (l : Loc) (c : Nat) (bs : ByteList) (side : Option Word) :
    (storeWindow s l c bs side).2.2.Canonical := by
  unfold storeWindow
  grind [State.canonical_mem, State.writeBoth_canonical]

theorem storeLine_canonical_error {s : State} (h : s.Canonical) (w : Who) (t : Target) (bs : ByteList) (side : Option Word) (atHome : Bool) {u : State} :
    storeLine s w t bs side atHome = .error u → u.Canonical := by
  unfold storeLine
  grind [accessGate_canonical_error, requestLine_canonical, makeRoom_canonical]

theorem storeLine_canonical_ok {s : State} (h : s.Canonical) (w : Who) (t : Target) (bs : ByteList) (side : Option Word) (atHome : Bool) {a : Stored} :
    storeLine s w t bs side atHome = .ok a → a.2.2.Canonical := by
  unfold storeLine
  grind [accessGate_canonical_ok, storeHome_canonical, storeOwned_canonical, storeWindow_canonical]

theorem atomicGate_canonical_error {s : State} (h : s.Canonical) (w : Who) (t : Target) {u : State} : atomicGate s w t = .error u → u.Canonical := by
  unfold atomicGate
  grind [accessGate_canonical_error]

theorem atomicGate_canonical_ok {s : State} (h : s.Canonical) (w : Who) (t : Target) {u : State} : atomicGate s w t = .ok u → u.Canonical := by
  unfold atomicGate
  grind [accessGate_canonical_ok]

theorem loadQuiet_canonical {s : State} (h : s.Canonical) (w : Who) (t : Target) : (loadQuiet s w t).st.Canonical := by
  unfold loadQuiet
  grind [loadLine_canonical_error, loadLine_canonical_ok]

theorem storeQuiet_canonical {s : State} (h : s.Canonical) (w : Who) (t : Target) (bs : ByteList) (side : Option Word) :
    (storeQuiet s w t bs side).2.2.Canonical := by
  unfold storeQuiet
  grind [storeLine_canonical_error, storeLine_canonical_ok]

theorem atomicAt_canonical {s : State} (h : s.Canonical) (w : Who) (t : Target) (bs : ByteList) : (atomicAt s w t bs).2.2.Canonical := by
  unfold atomicAt
  grind [storeHome_canonical, storeQuiet_canonical]

theorem State.physPut_canonical {s : State} (h : s.Canonical) (pa : Nat) (bs : ByteList) (c : Nat) : (s.physPut pa bs c).Canonical := by
  unfold State.physPut
  split
  · exact h
  · exact Memory.wf_writeBytes _ _ _ h

theorem State.reloadRegion_canonical {s : State} (h : s.Canonical) (id : Nat) : (s.reloadRegion id).Canonical := by
  cases hd : s.regionDesc id with
  | some d =>
    unfold State.reloadRegion
    rw [hd]
    cases s.regions.find? (fun p => decide (p.1 = id)) with
    | none => exact h
    | some p => exact h
  | none =>
    cases ho : s.regions.find? (fun p => decide (p.1 = id)) with
    | none =>
      unfold State.reloadRegion
      rw [hd, ho]
      exact h
    | some p =>
      obtain ⟨rs, vs, a, bs, c, m, l, st, du, e⟩ := State.reloadRegion_gone hd ho
      have hu : ({ s with regions := rs, sliceViews := vs }.physPut a bs c).Canonical := State.physPut_canonical (s := { s with regions := rs, sliceViews := vs }) h a bs c
      rw [e]
      generalize ({ s with regions := rs, sliceViews := vs } : State).physPut a bs c = u at hu
      exact hu

theorem State.track_canonical {s : State} (h : s.Canonical) (p : Party) (line : Nat) : (State.track s p line).Canonical := by
  unfold State.track
  grind [State.canonical_mem, State.post_canonical, watchReport_canonical]

theorem State.trackRecord_canonical {s : State} (h : s.Canonical) (id : Nat) : (State.trackRecord s id).Canonical := by
  unfold State.trackRecord
  grind [State.track_canonical]

theorem State.trackTables_canonical {s : State} (h : s.Canonical) : (State.trackTables s).Canonical := by
  unfold State.trackTables
  grind [State.track_canonical, foldl_canonical]

theorem takeInv_canonical {s : State} (h : s.Canonical) (p : Party) (line : Nat) : (takeInv s p line).Canonical := by
  have hm (m : Micro) (l : List Instr) : ({ s with micro := m }.post l).Canonical := h
  unfold takeInv
  split
  · exact h
  · dsimp only
    split
    · exact State.track_canonical (hm _ _) _ _
    · exact h
  · split
    · exact State.track_canonical h _ _
    · exact h
  · split
    · exact State.track_canonical h _ _
    · exact h
  · have hr := State.reloadRegion_canonical h
    dsimp only
    split
    · exact State.track_canonical (hr _) _ _
    · exact hr _

theorem takeRound_canonical {s : State} (h : s.Canonical) (line : Nat) (ps : List Party × Nat) : (takeRound s line ps).Canonical := by
  unfold takeRound
  grind [takeInv_canonical, foldl_canonical]

end Sys2Proof.Machine
end

section
/-! SUPPORT for O58 (R35). What keeps the canonical form of the memory: loads and stores, windows, contexts, queues, joins and barriers. -/

namespace Sys2Proof.Machine

/-! ### Memory as the parties reach it -/

theorem storeDevice_canonical {s : State} (h : s.Canonical) (w : Who) (t : Target) (bs : ByteList) : (storeDevice s w t bs).Canonical := by
  unfold storeDevice
  grind [storeQuiet_canonical, takeRound_canonical]

theorem State.physStore_canonical {s : State} (h : s.Canonical) (pa : Nat) (bs : ByteList) (c : Nat) : (State.physStore s pa bs c).Canonical := by
  unfold State.physStore
  grind [State.canonical_mem, State.physPut_canonical, takeRound_canonical]

theorem State.physWrite_canonical {s : State} (h : s.Canonical) (pa : Nat) (bs : ByteList) (c : Nat) : (State.physWrite s pa bs c).Canonical := by
  unfold State.physWrite
  grind [watchReport_canonical, State.physStore_canonical]

theorem checkMe_canonical {s : State} (h : s.Canonical) (va : Word) (n : Need) : (checkMe s va n).2.Canonical := by
  unfold checkMe
  grind [check_canonical]

theorem traceAccess_canonical {s : State} (h : s.Canonical) (va level : Nat) : (traceAccess s va level).Canonical := by
  unfold traceAccess
  grind [State.setMe_canonical, State.traceMe_canonical]

theorem loadedMe_canonical (s : State) {a : Loaded} (h : a.st.Canonical) (va : Nat) : (loadedMe s a va).Canonical := by
  unfold loadedMe
  grind [traceAccess_canonical, State.setClk_canonical]

theorem withLine_canonical {f : LineData × Word → State → State} (hf : ∀ l s, s.Canonical → (f l s).Canonical) {s : State} (h : s.Canonical) (t : Target) (obj : Nat) :
    (withLine s t obj f).Canonical := by
  unfold withLine
  split
  · rename_i u hu
    exact leave_canonical (loadLine_canonical_error h _ _ hu) _ _ _
  · rename_i a ha
    exact hf _ _ (loadedMe_canonical s (loadLine_canonical_ok h _ _ ha) _)

theorem withBytes_canonical {f : Nat → State → State} (hf : ∀ n s, s.Canonical → (f n s).Canonical) {s : State} (h : s.Canonical) (t : Target) (n obj : Nat) :
    (withBytes s t n obj f).Canonical := withLine_canonical (fun _ _ hu => hf _ _ hu) h _ _

theorem sendRound_canonical {s : State} (h : s.Canonical) (line : Nat) (ps : List Party × Nat) : (sendRound s line ps).Canonical := by
  unfold sendRound
  grind [State.setMe_canonical, State.post_canonical]

theorem storedMe_canonical (t : Target) {a : Stored} (h : a.2.2.Canonical) (va level : Nat) : (storedMe t a va level).Canonical := by
  unfold storedMe
  grind [sendRound_canonical, traceAccess_canonical, State.setClk_canonical]

theorem answer_canonical {s : State} (h : s.Canonical) : (answer s).Canonical := by
  unfold answer
  grind [State.setMe_canonical, State.post_canonical]

theorem awaitStore_canonical {s : State} (h : s.Canonical) (obj : Nat) : (awaitStore s obj).Canonical := by
  unfold awaitStore
  grind [leave_canonical, awaitReply_canonical]

theorem storeMe_canonical {s : State} (h : s.Canonical) (t : Target) (bs : ByteList) (side : Option Word) (atHome : Bool) (obj : Nat) :
    (storeMe s t bs side atHome obj).Canonical := by
  unfold storeMe
  split
  · rename_i u hu
    exact leave_canonical (storeLine_canonical_error h _ _ _ _ _ hu) _ _ _
  · rename_i a ha
    exact awaitStore_canonical (storedMe_canonical t (storeLine_canonical_ok h _ _ _ _ _ ha) _ _) _

/-! ### Flags -/

theorem State.orFlags_canonical {s : State} (h : s.Canonical) (f : Flags5) : (State.orFlags s f).Canonical := by
  unfold State.orFlags
  grind [State.setMe_canonical]

theorem saveTarget_canonical {s : State} (h : s.Canonical) (core : Nat) (a : Word) : (saveTarget s core a).2.Canonical := by
  unfold saveTarget
  grind [check_canonical]

theorem mergeFlags_canonical {s : State} (h : s.Canonical) (tid core : Nat) (f : Flags5) : (mergeFlags s tid core f).Canonical := by
  unfold mergeFlags
  grind [State.canonical_mem, State.setCtx_canonical, storeDevice_canonical, saveTarget_canonical]

/-! ### Loads and stores -/

theorem load_canonical {s : State} (h : s.Canonical) (d a : BitVec 5) (i : BitVec 15) (n : Nat) (ext : Nat → Word) :
    (load s d a i n ext).Canonical := by
  unfold load
  grind [State.setS_canonical, awaitReply_canonical, trap_canonical, checkMe_canonical, withBytes_canonical]

theorem store_canonical {s : State} (h : s.Canonical) (v a : BitVec 5) (i : BitVec 15) (n : Nat) : (store s v a i n).Canonical := by
  unfold store
  grind [leave_canonical, trap_canonical, checkMe_canonical, storeMe_canonical]

theorem execLdx_canonical {s : State} (h : s.Canonical) (d a : BitVec 5) (i : BitVec 15) {u : State} : execLdx d a i s = .next u → u.Canonical := by
  unfold execLdx
  grind [State.setMe_canonical, State.setS_canonical, awaitReply_canonical, trap_canonical, checkMe_canonical, withLine_canonical]

theorem execTldd_canonical {s : State} (h : s.Canonical) (d : BitVec 4) (a : BitVec 5) {u : State} : execTldd d a s = .next u → u.Canonical := by
  unfold execTldd
  grind [State.setT_canonical, awaitReply_canonical, trap_canonical, checkMe_canonical, withBytes_canonical]

theorem execTstd_canonical {s : State} (h : s.Canonical) (a : BitVec 5) (b : BitVec 4) {u : State} : execTstd a b s = .next u → u.Canonical := by
  unfold execTstd
  grind [leave_canonical, trap_canonical, checkMe_canonical, storeMe_canonical]

theorem execMemoryReply_canonical {s : State} (h : s.Canonical) (core ctx : Nat) {u : State} :
    execMemoryReply core ctx s = .next u → u.Canonical := by
  unfold execMemoryReply
  grind [reply_canonical]

theorem execIackReceive_canonical {s : State} (h : s.Canonical) (ack : Iack) {u : State} : execIackReceive ack s = .next u → u.Canonical := by
  unfold execIackReceive
  grind [State.setCtx_canonical, State.post_canonical]

theorem storeRecord_canonical {s : State} (h : s.Canonical) (t : Target) (va : Word) (rcd : LineData) : (storeRecord s t va rcd).Canonical := by
  unfold storeRecord
  split
  · rename_i u hu
    exact State.setMe_canonical (storeLine_canonical_error h _ _ _ _ _ hu) _
  · rename_i a ha
    exact answer_canonical (storedMe_canonical t (storeLine_canonical_ok h _ _ _ _ _ ha) _ _)

theorem execWake_canonical {s : State} (h : s.Canonical) (core ctx : Nat) {u : State} : execWake core ctx s = .next u → u.Canonical := by
  unfold execWake
  grind [State.canonical_mem, State.setCtx_canonical, asThread_canonical, storeRecord_canonical]

/-! ### Branches, calls and windows -/

theorem branch_canonical {s : State} (h : s.Canonical) (a b : BitVec 5) (i : BitVec 15) (f : Word → Word → Bool) : (branch s a b i f).Canonical := by
  unfold branch
  grind [retire_canonical, retireTo_canonical]

theorem jumpTo_canonical {f : State → State} (hf : ∀ s, s.Canonical → (f s).Canonical) {s : State} (h : s.Canonical) (t : Word) : (jumpTo s t f).Canonical := by
  unfold jumpTo
  split
  · exact trap_canonical h _ _
  · exact hf s h

theorem spillWindow_canonical {s : State} (h : s.Canonical) (r : ThreadRef) : (spillWindow s r).Canonical := by
  unfold spillWindow
  grind [State.setCtx_canonical, State.setClk_canonical, storeQuiet_canonical]

theorem execWindowSpill_canonical {s : State} (h : s.Canonical) (core ctx : Nat) {u : State} :
    execWindowSpill core ctx s = .next u → u.Canonical := by
  unfold execWindowSpill
  grind [State.postWake_canonical, spillWindow_canonical]

theorem call_canonical {s : State} (h : s.Canonical) (target : Word) : (call s target).Canonical := by
  unfold call
  grind [State.setMe_canonical, State.post_canonical, leave_canonical, trap_canonical, retireTo_canonical]

theorem fillWindow_canonical {s : State} (h : s.Canonical) (target : Word) : (fillWindow s target).Canonical := by
  unfold fillWindow
  grind [State.setMe_canonical, State.post_canonical, leave_canonical, trap_canonical, withLine_canonical]

theorem execRet_canonical {s : State} (h : s.Canonical) {u : State} : execRet s = .next u → u.Canonical := by
  unfold execRet
  grind [State.setMe_canonical, trap_canonical, retireTo_canonical, jumpTo_canonical, fillWindow_canonical]

theorem execCrWinWrite_canonical {s : State} (h : s.Canonical) (core ctx : Nat) (v : Word) {u : State} :
    execCrWinWrite core ctx v s = .next u → u.Canonical := by
  unfold execCrWinWrite
  grind [State.setCtx_canonical]

theorem execCrWspWrite_canonical {s : State} (h : s.Canonical) (core ctx : Nat) (v : Word) {u : State} :
    execCrWspWrite core ctx v s = .next u → u.Canonical := by
  unfold execCrWspWrite
  grind [State.setCtx_canonical]

/-! ### Contexts and region control blocks -/

theorem writeSave_canonical {s : State} (h : s.Canonical) (core : Nat) (a : Word) (c : Core) (x : Context) (out clk : Nat) (l : List Nat) :
    (writeSave s core a c x out clk l).2.Canonical := by
  induction l generalizing s clk with
  | nil => exact h
  | cons i t ih =>
    have hc := check_canonical h (saveWho s core) (a + BitVec.ofNat 64 (64 * i)).toNat { w := true, size := 64 }
    unfold writeSave
    grind [storeDevice_canonical]

theorem spillAll_canonical {s : State} (h : s.Canonical) (r : ThreadRef) (n : Nat) : (spillAll s r n).2.Canonical := by
  induction n generalizing s with
  | zero => exact h
  | succ n ih =>
    unfold spillAll
    grind [spillWindow_canonical]

theorem spillCtx_canonical {s : State} (h : s.Canonical) (r : ThreadRef) : (spillCtx s r).2.Canonical := by
  unfold spillCtx
  grind [State.canonical_mem, State.setCtx_canonical, writeSave_canonical, spillAll_canonical]

theorem autoSpill_canonical {s : State} (h : s.Canonical) (r : ThreadRef) : (autoSpill s r).2.Canonical := by
  unfold autoSpill
  grind [State.setCore_canonical, spillCtx_canonical]

theorem endNeeds_canonical {s : State} (h : s.Canonical) (k : Nat) (p : SpillNeed → Bool) : (endNeeds s k p).Canonical := by
  unfold endNeeds
  grind [State.setCore_canonical]

theorem failSpill_canonical {s : State} (h : s.Canonical) (r : ThreadRef) (need : SpillNeed) : (failSpill s r need).Canonical := by
  unfold failSpill
  grind [State.setCore_canonical]

theorem needCtx_canonical {s : State} (h : s.Canonical) (k : Nat) (need : SpillNeed) (n : Nat) : (needCtx s k need n).2.Canonical := by
  induction n generalizing s with
  | zero => exact h
  | succ n ih =>
    unfold needCtx
    grind [autoSpill_canonical, endNeeds_canonical, failSpill_canonical]

theorem execContextSpill_canonical {s : State} (h : s.Canonical) (core : Nat) {u : State} : execContextSpill core s = .next u → u.Canonical := by
  unfold execContextSpill
  grind [autoSpill_canonical, endNeeds_canonical, failSpill_canonical]

theorem savedWords_canonical {s : State} (h : s.Canonical) (core : Nat) (a : Word) (n : Nat) (acc : List Word) (clk : Nat) : (savedWords s core a n acc clk).2.Canonical := by
  induction n generalizing s acc clk with
  | zero => exact h
  | succ n ih =>
    unfold savedWords
    grind [check_canonical, loadQuiet_canonical]

theorem restoreCtx_canonical {s : State} (h : s.Canonical) (r : ThreadRef) (x : Context) (clk : Nat) : (restoreCtx s r x clk).Canonical := by
  unfold restoreCtx
  grind [State.canonical_mem, State.setCtx_canonical, State.setClk_canonical]

theorem State.setReg_canonical {s : State} (h : s.Canonical) (i : Nat) (r : RcbReg) : (State.setReg s i r).Canonical := h

theorem State.setRun_canonical {s : State} (h : s.Canonical) (i : Nat) (f : Nat → Nat → Nat) : (s.setRun i f).Canonical := by
  unfold State.setRun
  dsimp only
  split
  · exact h
  · exact State.physWrite_canonical h _ _ _

theorem State.addContexts_canonical {s : State} (h : s.Canonical) (i : Nat) (up : Bool) : (State.addContexts s i up).Canonical := by
  unfold State.addContexts
  grind [State.setRun_canonical]

theorem State.addBarges_canonical {s : State} (h : s.Canonical) (i : Nat) (up : Bool) : (State.addBarges s i up).Canonical := by
  unfold State.addBarges
  grind [State.setRun_canonical]

theorem poolTarget_canonical {s : State} (h : s.Canonical) (core base : Nat) (line : Nat) : (poolTarget s core base line).2.Canonical := by
  unfold poolTarget
  grind [check_canonical]

theorem allocSave_canonical {s : State} (h : s.Canonical) (core : Nat) (g : RcbReg) : (allocSave s core g).2.Canonical := by
  unfold allocSave
  grind [storeDevice_canonical, poolTarget_canonical]

theorem freeSave_canonical {s : State} (h : s.Canonical) (core : Nat) (g : RcbReg) (a : Word) : (freeSave s core g a).Canonical := by
  unfold freeSave
  grind [storeDevice_canonical, poolTarget_canonical]

theorem createContext_canonical_error {s : State} (h : s.Canonical) (core slot rcb : Nat) (pc : Word) (args : List Word) (frame join : Word) (clk : Nat) (need : SpillNeed) {u : State} :
    createContext s core slot rcb pc args frame join clk need = .error u → u.Canonical := by
  unfold createContext
  grind [needCtx_canonical, allocSave_canonical]

theorem createContext_canonical_ok {s : State} (h : s.Canonical) (core slot rcb : Nat) (pc : Word) (args : List Word) (frame join : Word) (clk : Nat) (need : SpillNeed) {u : State} :
    createContext s core slot rcb pc args frame join clk need = .ok u → u.Canonical := by
  unfold createContext
  grind [State.canonical_mem, State.setCtx_canonical, State.setClk_canonical, needCtx_canonical, State.setReg_canonical, State.addContexts_canonical, allocSave_canonical]

theorem bindRecord_canonical_error {s : State} (h : s.Canonical) (cl queue : Nat) (t : BindTarget) (w : WorkRec) {u : State} :
    bindRecord s cl queue t w = .error u → u.Canonical := by
  unfold bindRecord
  grind [createContext_canonical_error]

theorem bindRecord_canonical_ok {s : State} (h : s.Canonical) (cl queue : Nat) (t : BindTarget) (w : WorkRec) {u : State} :
    bindRecord s cl queue t w = .ok u → u.Canonical := by
  unfold bindRecord
  grind [State.setCtx_canonical, State.traceAt_canonical, State.setClk_canonical, boundary_canonical, asThread_canonical, createContext_canonical_ok]

/-! ### Queues, atomics and joins -/

theorem queueWatch_canonical {s : State} (h : s.Canonical) (q slot : Nat) (who : Who) : (queueWatch s q slot who).Canonical := by
  unfold queueWatch
  grind [watchReport_canonical]

theorem stampQueue_canonical {s : State} (h : s.Canonical) (q c : Nat) : (stampQueue s q c).Canonical := h

theorem appendRecord_canonical {s : State} (h : s.Canonical) (q : Nat) (d : QDesc) (rcd : LineData) (clk : Nat) :
    (appendRecord s q d rcd clk).2.Canonical := by
  unfold appendRecord
  grind [State.writeSide_canonical, State.physStore_canonical, stampQueue_canonical]

theorem queueGate_canonical_error {s : State} (h : s.Canonical) (q core : Nat) (self : Instr) {u : State} :
    queueGate s q core self = .error u → u.Canonical := by
  unfold queueGate
  grind [homeGate_canonical_error]

theorem queueGate_canonical_ok {s : State} (h : s.Canonical) (q core : Nat) (self : Instr) {u : State} :
    queueGate s q core self = .ok u → u.Canonical := by
  unfold queueGate
  grind [homeGate_canonical_ok]

theorem seeHead_canonical {s : State} (h : s.Canonical) (cl q : Nat) : (seeHead s cl q).Canonical := by
  unfold seeHead
  dsimp only
  split
  · exact h
  · split
    · exact h
    · split
      · exact h
      · exact h

theorem headGone_canonical {s : State} (h : s.Canonical) (q : Nat) : (headGone s q).Canonical := by
  unfold headGone
  grind [State.canonical_mem, seeHead_canonical, foldl_canonical]

theorem takeHead_canonical {s : State} (h : s.Canonical) (q : Nat) (d : QDesc) (clk : Nat) : (takeHead s q d clk).2.2.Canonical := by
  unfold takeHead
  grind [State.canonical_mem, State.physStore_canonical, headGone_canonical]

theorem dispenserTake_canonical {s : State} (h : s.Canonical) (cl q : Nat) (d : QDesc) : (dispenserTake s cl q d).Canonical := by
  unfold dispenserTake
  grind [State.canonical_mem, State.post_canonical, queueWatch_canonical, takeHead_canonical]

theorem refuse_canonical {s : State} (h : s.Canonical) (who : ThreadRef) (e : Nat × Word) : (refuse s who e).Canonical := by
  unfold refuse
  grind [trap_canonical, asThread_canonical]

theorem finishDeq_canonical {s : State} (h : s.Canonical) (q : DequeueReq) (d : QDesc) : (finishDeq s q d).Canonical := by
  unfold finishDeq
  grind [State.setS_canonical, State.setClk_canonical, asThread_canonical, storeRecord_canonical, queueWatch_canonical, takeHead_canonical, refuse_canonical]

theorem withdraw_canonical {s : State} (h : s.Canonical) (q : Nat) : (withdraw s q).Canonical := h

theorem withdrawAll_canonical {s : State} (h : s.Canonical) : (withdrawAll s).Canonical := by
  unfold withdrawAll
  grind [withdraw_canonical, foldl_canonical]

theorem visitUntil_canonical {s : State} (h : s.Canonical) (cl : Nat) (ids : List Nat) : (visitUntil s cl ids).2.Canonical := by
  unfold visitUntil
  grind [State.canonical_mem]

theorem serveWaiters_canonical {s : State} (h : s.Canonical) (q n : Nat) : (serveWaiters s q n).Canonical := by
  induction n generalizing s with
  | zero => exact h
  | succ n ih =>
    have hw := withdraw_canonical h q
    have hgone (m : SMap (List QWaiter)) : ({ withdraw s q with waiters := m } : State).Canonical := hw
    unfold serveWaiters
    split
    · exact h
    · split
      · exact h
      · dsimp only
        split
        · exact hw
        · split
          · split
            · exact ih (finishDeq_canonical (hgone _) _ _)
            · exact ih (refuse_canonical (hgone _) _ _)
          · refine ih (dispenserTake_canonical ?_ _ _ _)
            split
            · exact hgone _
            · exact visitUntil_canonical (hgone _) _ _

theorem enqueueAt_canonical {s : State} (h : s.Canonical) (q : Nat) (rcd : LineData) (user : Bool) (w : Who) {a : Nat × Nat × State} :
    enqueueAt s q rcd user w = .ok a → a.2.2.Canonical := by
  unfold enqueueAt
  split
  · exact fun e => nomatch e
  · exact fun e => nomatch e
  · rename_i d _ _
    intro e
    rw [← Except.ok.inj e]
    have hs := serveWaiters_canonical (queueWatch_canonical (appendRecord_canonical h q d rcd w.clk) q (d.slotAddr d.tail) w) q 2
    have hf (l : List Nat) := foldl_canonical (fun u cl hu => seeHead_canonical hu cl q) hs l
    dsimp only
    split
    · exact State.post_canonical (State.post_canonical (hf _) _) _
    · exact State.post_canonical (hf _) _

theorem execEnq_canonical {s : State} (h : s.Canonical) (d a b : BitVec 5) {u : State} : execEnq d a b s = .next u → u.Canonical := by
  unfold execEnq
  grind [State.post_canonical, leave_canonical, trap_canonical, checkMe_canonical, withLine_canonical]

theorem accept_canonical {s : State} (h : s.Canonical) (who : ThreadRef) : (accept s who).Canonical := by
  unfold accept
  grind [State.setCtx_canonical, State.post_canonical]

theorem execHomeEnqueue_canonical {s : State} (h : s.Canonical) (q : EnqueueReq) {u : State} : execHomeEnqueue q s = .next u → u.Canonical := by
  unfold execHomeEnqueue
  split
  · exact fun e => nomatch e
  · split
    · exact fun e => Host.Outcome.next.inj e ▸ h
    · intro e
      rw [← Host.Outcome.next.inj e]
      split
      · rename_i hg
        exact queueGate_canonical_error h _ _ _ hg
      · rename_i hg
        have hs := queueGate_canonical_ok h _ _ _ hg
        split
        · exact refuse_canonical hs _ _
        · rename_i ha
          refine accept_canonical (State.setClk_canonical (asThread_canonical (fun s hs => ?_) (enqueueAt_canonical hs _ _ _ _ ha) _) _ _) _
          split
          · exact State.setS_canonical (State.setMe_canonical hs _) _ _
          · exact State.setS_canonical hs _ _

theorem deq_canonical {s : State} (h : s.Canonical) (d a b : BitVec 5) (wait : Bool) : (deq s d a b wait).Canonical := by
  unfold deq
  grind [State.post_canonical, leave_canonical, trap_canonical, checkMe_canonical]

theorem execHomeDequeue_canonical {s : State} (h : s.Canonical) (q : DequeueReq) {u : State} : execHomeDequeue q s = .next u → u.Canonical := by
  unfold execHomeDequeue
  split
  · exact fun e => nomatch e
  · split
    · exact fun e => Host.Outcome.next.inj e ▸ h
    · intro e
      rw [← Host.Outcome.next.inj e]
      split
      · rename_i hg
        exact queueGate_canonical_error h _ _ _ hg
      · rename_i hg
        have hs := queueGate_canonical_ok h _ _ _ hg
        split
        · exact refuse_canonical hs _ _
        · exact refuse_canonical hs _ _
        · split
          · exact finishDeq_canonical hs _ _
          · split
            · exact hs
            · exact accept_canonical (asThread_canonical (fun u hu => State.setS_canonical hu _ _) (watchReport_canonical hs _ _ _ _) _) _

theorem trackRuns_canonical {s : State} (h : s.Canonical) (cl : Nat) : (trackRuns s cl).Canonical := by
  unfold trackRuns
  grind [State.track_canonical, foldl_canonical]

theorem execDispenserRequest_canonical {s : State} (h : s.Canonical) (cluster queue : Nat) {u : State} : execDispenserRequest cluster queue s = .next u → u.Canonical := by
  have htake (q : Nat) {s : State} (hs : s.Canonical) : (match s.queueDesc q with | some d => dispenserTake s cluster q d | none => s).Canonical := by
    split
    · exact dispenserTake_canonical hs _ _ _
    · exact hs
  unfold execDispenserRequest
  split
  · exact fun e => nomatch e
  · split
    · exact fun e => Host.Outcome.next.inj e ▸ h
    · split
      · rename_i hg
        exact fun e => Host.Outcome.next.inj e ▸ queueGate_canonical_error h _ _ _ hg
      · rename_i hg
        intro e
        rw [← Host.Outcome.next.inj e]
        have hs := foldl_canonical (fun u q hu => seeHead_canonical hu cluster q)
          (withdraw_canonical (trackRuns_canonical (queueGate_canonical_ok h _ _ _ hg) cluster) queue)
        dsimp only
        split
        · exact htake _ (hs _)
        · split
          · rename_i hv
            have hu := hv ▸ visitUntil_canonical (hs _) cluster _
            split
            · exact hu
            · exact hu
          · rename_i hv
            have hu := hv ▸ visitUntil_canonical (hs _) cluster _
            split
            · exact htake _ hu
            · exact hu

theorem execDispenserBind_canonical {s : State} (h : s.Canonical) (cluster queue : Nat) {u : State} : execDispenserBind cluster queue s = .next u → u.Canonical := by
  have hput {s : State} (hs : s.Canonical) (m : SMap Dispenser) : ({ s with dispensers := m } : State).Canonical := hs
  have hfold {s : State} (hs : s.Canonical) (p : SpillNeed → Bool) (l : List Nat) : (l.foldl (fun s k => endNeeds s k p) s).Canonical :=
    foldl_canonical (fun u k hu => endNeeds_canonical hu k _) hs _
  unfold execDispenserBind
  split
  · exact fun e => nomatch e
  · extract_lets ds ended core
    split
    · exact fun e => Host.Outcome.next.inj e ▸ h
    · extract_lets w drop
      have hdrop : (drop s).Canonical := hput h _
      have hended {s : State} (hs : s.Canonical) : (ended s).Canonical := hfold hs _ _
      split
      · exact fun e => Host.Outcome.next.inj e ▸ pushSq_canonical (hended hdrop) _ _ _
      · split
        · exact fun e => Host.Outcome.next.inj e ▸ State.post_canonical h _
        · split
          · rename_i hb
            exact fun e => Host.Outcome.next.inj e ▸ State.post_canonical (hended (bindRecord_canonical_ok hdrop _ _ _ _ hb)) _
          · rename_i hb
            exact fun e => Host.Outcome.next.inj e ▸ State.post_canonical (hput (bindRecord_canonical_error hdrop _ _ _ _ hb) _) _

theorem execAffinityTimeout_canonical {s : State} (h : s.Canonical) (cluster queue : Nat) {u : State} :
    execAffinityTimeout cluster queue s = .next u → u.Canonical := by
  unfold execAffinityTimeout
  grind [State.canonical_mem, State.post_canonical]

theorem execCallat_canonical {s : State} (h : s.Canonical) (d a b : BitVec 5) {u : State} : execCallat d a b s = .next u → u.Canonical := by
  unfold execCallat
  grind [State.post_canonical, leave_canonical, trap_canonical]

theorem execReply_canonical {s : State} (h : s.Canonical) (a b : BitVec 5) {u : State} : execReply a b s = .next u → u.Canonical := by
  unfold execReply
  grind [State.post_canonical, leave_canonical, trap_canonical]

theorem execReplyDelivery_canonical {s : State} (h : s.Canonical) (route value : Word) (sender : ThreadRef) {u : State} :
    execReplyDelivery route value sender s = .next u → u.Canonical := by
  unfold execReplyDelivery
  grind [State.canonical_mem, State.setCtx_canonical, State.postWake_canonical, State.setClk_canonical, accept_canonical]

theorem execWaitr_canonical {s : State} (h : s.Canonical) (d a : BitVec 5) {u : State} : execWaitr d a s = .next u → u.Canonical := by
  unfold execWaitr
  grind [State.setMe_canonical, State.setClk_canonical, leave_canonical, trap_canonical, writeRetire_canonical]

theorem execWaitw_canonical {s : State} (h : s.Canonical) {u : State} : execWaitw s = .next u → u.Canonical := by
  unfold execWaitw
  grind [leave_canonical, State.poll_canonical, retire_canonical]

theorem atomic_canonical {s : State} (h : s.Canonical) (d a b : BitVec 5) (n : Nat) (op : AmoOp) : (atomic s d a b n op).Canonical := by
  unfold atomic
  grind [State.post_canonical, leave_canonical, trap_canonical, checkMe_canonical]

theorem execHomeAtomic_canonical {s : State} (h : s.Canonical) (q : AtomicReq) {u : State} : execHomeAtomic q s = .next u → u.Canonical := by
  unfold execHomeAtomic
  grind [State.setS_canonical, asThread_canonical, atomicGate_canonical_error, atomicGate_canonical_ok, atomicAt_canonical, storedMe_canonical, answer_canonical, refuse_canonical]

theorem joinAt_canonical {s : State} (h : s.Canonical) (w : Who) (t : Target) (user : Bool) (ea : Word) {a : Nat × Stored} :
    joinAt s w t user ea = .ok a → a.2.2.2.Canonical := by
  have hm (m : Micro) : ({ s with micro := m } : State).Canonical := h
  unfold joinAt
  dsimp only
  split
  · exact fun e => nomatch e
  · split
    · exact fun e => Except.ok.inj e ▸ atomicAt_canonical (hm _) _ _ _
    · split
      · split
        · exact fun e => nomatch e
        · split
          · split
            · exact fun e => nomatch e
            · exact fun e => Except.ok.inj e ▸ atomicAt_canonical (hm _) _ _ _
          · split
            · exact fun e => nomatch e
            · rename_i hq
              exact fun e => Except.ok.inj e ▸ atomicAt_canonical (enqueueAt_canonical (hm _) _ _ _ _ hq) _ _ _
      · exact fun e => Except.ok.inj e ▸ atomicAt_canonical (hm _) _ _ _

theorem joinGate_canonical_error {s : State} (h : s.Canonical) (core : Nat) (self : Instr) (l : List Nat) {u : State} :
    joinGate s core self l = .error u → u.Canonical := by
  unfold joinGate
  grind [homeGate_canonical_error]

theorem joinGate_canonical_ok {s : State} (h : s.Canonical) (core : Nat) (self : Instr) (l : List Nat) {u : State} :
    joinGate s core self l = .ok u → u.Canonical := by
  unfold joinGate
  grind [homeGate_canonical_ok]

theorem checkBlock_canonical {s : State} (h : s.Canonical) (ea : Word) : (checkBlock s ea).2.Canonical := by
  unfold checkBlock
  grind [checkMe_canonical]

theorem execJoin_canonical {s : State} (h : s.Canonical) (d a : BitVec 5) {u : State} : execJoin d a s = .next u → u.Canonical := by
  unfold execJoin
  grind [State.post_canonical, leave_canonical, trap_canonical, checkBlock_canonical]

theorem execHomeJoin_canonical {s : State} (h : s.Canonical) (block : Target) (who : ThreadRef) (d : BitVec 5) {u : State} :
    execHomeJoin block who d s = .next u → u.Canonical := by
  unfold execHomeJoin
  split
  · exact fun e => nomatch e
  · split
    · exact fun e => Host.Outcome.next.inj e ▸ h
    · intro e
      rw [← Host.Outcome.next.inj e]
      dsimp only
      split
      · exact refuse_canonical h _ _
      · rename_i hg
        exact atomicGate_canonical_error h _ _ hg
      · rename_i hg
        have hs := atomicGate_canonical_ok h _ _ hg
        split
        · rename_i hj
          exact joinGate_canonical_error hs _ _ _ hj
        · rename_i hj
          have hs := joinGate_canonical_ok hs _ _ _ hj
          split
          · exact refuse_canonical hs _ _
          · rename_i ha
            exact asThread_canonical (fun u hu => answer_canonical (State.setS_canonical (storedMe_canonical block hu _ _) _ _)) (joinAt_canonical hs _ _ _ _ ha) _

/-! ### Barriers and basins -/

theorem evalXbar_canonical {s : State} (h : s.Canonical) (k : Nat) : (evalXbar s k).Canonical := by
  unfold evalXbar
  grind [State.canonical_mem]

theorem pulse_canonical {s : State} (h : s.Canonical) (k kind index clk : Nat) : (pulse s k kind index clk).Canonical := by
  unfold pulse
  grind [State.setCore_canonical]

theorem State.setBarrier_canonical {s : State} (h : s.Canonical) (k i : Nat) (b : Barrier) : (State.setBarrier s k i b).Canonical := by
  unfold State.setBarrier
  grind [State.setCore_canonical]

theorem observeBar_canonical {s : State} (h : s.Canonical) (r : ThreadRef) (k i : Nat) : (observeBar s r k i).Canonical := by
  unfold observeBar
  grind [State.setClk_canonical]

theorem stampBar_canonical {s : State} (h : s.Canonical) (k i clk : Nat) : (stampBar s k i clk).Canonical := h

theorem answerBar_canonical {s : State} (h : s.Canonical) (m : BarrierMsg) : (answerBar s m).Canonical := by
  unfold answerBar
  grind [State.setMe_canonical, asThread_canonical, accept_canonical, observeBar_canonical]

theorem barNotify_canonical {s : State} (h : s.Canonical) (k i : Nat) : (barNotify s k i).Canonical := by
  unfold barNotify
  grind [State.setCore_canonical, wakeAll_canonical, answerBar_canonical, foldl_canonical]

theorem barWake_canonical {s : State} (h : s.Canonical) (k i : Nat) : (barWake s k i).Canonical := by
  unfold barWake
  grind [pulse_canonical, barNotify_canonical]

theorem barDo_canonical {s : State} (h : s.Canonical) (k i : Nat) (st : BarStep) (clk : Nat) : (barDo s k i st clk).Canonical := by
  unfold barDo
  grind [State.setBarrier_canonical, stampBar_canonical, barWake_canonical]

theorem barSignal_canonical {s : State} (hs : s.Canonical) (h : BitVec 32) (st : BarStep) (part : Nat) (user : Bool) (clk : Nat) :
    (barSignal s h st part user clk).Canonical := by
  unfold barSignal
  grind [State.setBarrier_canonical, barDo_canonical]

theorem barInit_canonical {s : State} (h : s.Canonical) (k i count part : Nat) (clk : Nat) : (barInit s k i count part clk).Canonical := by
  unfold barInit
  grind [State.setBarrier_canonical, stampBar_canonical, barNotify_canonical]

theorem barOp_canonical {s : State} (h : s.Canonical) (k i : Nat) (op : BarOp) (part : Nat) (user : Bool) (clk : Nat) {a : Bool × State} :
    barOp s k i op part user clk = some a → a.2.Canonical := by
  unfold barOp
  grind [barDo_canonical, barInit_canonical]

theorem barrierInstr_canonical {s : State} (hs : s.Canonical) (h : BitVec 32) (op : BarOp) (d : BitVec 5) (val waits : Bool) :
    (barrierInstr s h op d val waits).Canonical := by
  unfold barrierInstr
  dsimp only
  split
  · exact trap_canonical hs _ _
  · split
    · split
      · exact trap_canonical hs _ _
      · rename_i hb
        exact leave_canonical (barOp_canonical hs _ _ _ _ _ _ hb) _ _ _
      · rename_i u hb
        have hu : u.Canonical := barOp_canonical hs _ _ _ _ _ _ hb
        have hv : (if waits = true then observeBar u u.cur (handleCore h) (handleIndex h) else u.setClk u.cur (s.clkOf s.cur + 1)).Canonical := by
          split
          · exact observeBar_canonical hu _ _ _
          · exact State.setClk_canonical hu _ _
        split
        · exact writeRetire_canonical hv _ _
        · exact retire_canonical hv
    · exact State.post_canonical (leave_canonical (State.setClk_canonical hs _ _) _ _ _) _

end Sys2Proof.Machine
end

section
/-! SUPPORT for O58 (R35). What keeps the canonical form of the memory: basins, rounds, engine commands, the journal, and units of barges. -/

namespace Sys2Proof.Machine

/-! ### Barriers and basins -/

theorem execBinit_canonical {s : State} (h : s.Canonical) (a : BitVec 4) (b : BitVec 5) {u : State} : execBinit a b s = .next u → u.Canonical := by
  unfold execBinit
  grind [trap_canonical, barrierInstr_canonical]

theorem execBexp_canonical {s : State} (h : s.Canonical) (a : BitVec 4) (b : BitVec 5) {u : State} : execBexp a b s = .next u → u.Canonical := by
  unfold execBexp
  grind [trap_canonical, barrierInstr_canonical]

theorem execBhset_canonical {s : State} (h : s.Canonical) (d : BitVec 4) (a : BitVec 5) {u : State} : execBhset d a s = .next u → u.Canonical := by
  unfold execBhset
  grind [State.setB_canonical, trap_canonical, retire_canonical]

theorem execRemoteBarrierOperation_canonical {s : State} (h : s.Canonical) (m : BarrierMsg) {u : State} :
    execRemoteBarrierOperation m s = .next u → u.Canonical := by
  unfold execRemoteBarrierOperation
  split
  · exact fun e => nomatch e
  · split
    · exact fun e => Host.Outcome.next.inj e ▸ h
    · intro e
      rw [← Host.Outcome.next.inj e]
      split
      · exact refuse_canonical h _ _
      · rename_i hb
        exact State.setCore_canonical (barOp_canonical h _ _ _ _ _ _ hb) _ _
      · rename_i hb
        exact answerBar_canonical (barOp_canonical h _ _ _ _ _ _ hb) _

theorem State.setBasin_canonical {s : State} (h : s.Canonical) (k i : Nat) (b : Basin) : (State.setBasin s k i b).Canonical := by
  unfold State.setBasin
  grind [State.setCore_canonical]

theorem stampBasin_canonical {s : State} (h : s.Canonical) (k i clk : Nat) : (stampBasin s k i clk).Canonical := h

theorem observeBasin_canonical {s : State} (h : s.Canonical) (r : ThreadRef) (i : Nat) : (observeBasin s r i).Canonical := by
  unfold observeBasin
  grind [State.setClk_canonical]

theorem wakeBasin_canonical {s : State} (h : s.Canonical) (k i : Nat) (which : Context → Bool) : (wakeBasin s k i which).Canonical := h

theorem basinCommit_canonical {s : State} (h : s.Canonical) (k i clk : Nat) : (basinCommit s k i clk).Canonical := by
  unfold basinCommit
  grind [pulse_canonical, State.setBasin_canonical, stampBasin_canonical, wakeBasin_canonical]

theorem basinFreed_canonical {s : State} (h : s.Canonical) (k i : Nat) : (basinFreed s k i).Canonical := by
  unfold basinFreed
  grind [State.post_canonical, wakeBasin_canonical]

theorem basinRelease_canonical {s : State} (h : s.Canonical) (k i clk : Nat) : (basinRelease s k i clk).Canonical := by
  unfold basinRelease
  grind [State.setBasin_canonical, stampBasin_canonical, basinFreed_canonical]

theorem withBasin_canonical {f : Nat → Basin → State} (hf : ∀ i b, (f i b).Canonical) {s : State} (h : s.Canonical) (a : BitVec 5) : (withBasin s a f).Canonical := by
  unfold withBasin
  grind [trap_canonical]

theorem forgetClaims_canonical {s : State} (h : s.Canonical) (k i : Nat) : (forgetClaims s k i).Canonical := by
  unfold forgetClaims
  grind [State.setCore_canonical]

theorem execBsni_canonical {s : State} (h : s.Canonical) (a b : BitVec 5) {u : State} : execBsni a b s = .next u → u.Canonical := by
  unfold execBsni
  grind [State.post_canonical, trap_canonical, retire_canonical, State.setBasin_canonical, wakeBasin_canonical, forgetClaims_canonical]

theorem execBsnp_canonical {s : State} (h : s.Canonical) (d a : BitVec 5) {u : State} : execBsnp d a s = .next u → u.Canonical := by
  unfold execBsnp
  grind [leave_canonical, writeRetire_canonical, State.setBasin_canonical, observeBasin_canonical, withBasin_canonical]

theorem execBsnc_canonical {s : State} (h : s.Canonical) (a : BitVec 5) {u : State} : execBsnc a s = .next u → u.Canonical := by
  unfold execBsnc
  grind [trap_canonical, retire_canonical, basinCommit_canonical, withBasin_canonical]

theorem execBsng_canonical {s : State} (h : s.Canonical) (d a : BitVec 5) {u : State} : execBsng d a s = .next u → u.Canonical := by
  unfold execBsng
  grind [leave_canonical, writeRetire_canonical, State.setBasin_canonical, observeBasin_canonical, withBasin_canonical]

theorem execBsnf_canonical {s : State} (h : s.Canonical) (a : BitVec 5) {u : State} : execBsnf a s = .next u → u.Canonical := by
  unfold execBsnf
  grind [trap_canonical, retire_canonical, basinRelease_canonical, withBasin_canonical]

/-! ### Fault queues -/

theorem sendFault_canonical {s : State} (h : s.Canonical) (f : HeldFault) : (sendFault s f).2.Canonical := by
  have hput {t : State} (ht : t.Canonical) (m : Micro) : ({ t with micro := m } : State).Canonical := ht
  unfold sendFault
  split
  · exact h
  · have hg := deviceGate_canonical h
    split
    · rename_i e
      exact (congrArg (State.Canonical ·.2) e).mp (hg _)
    · rename_i e
      have hs := (congrArg (State.Canonical ·.2) e).mp (hg _)
      split
      · rename_i ha
        exact hput (enqueueAt_canonical hs _ _ _ _ ha) _
      · exact hs

theorem faultEvent_canonical {s : State} (h : s.Canonical) (src : FaultSrc) (rcb domain : Nat) (rcd : SqRec) :
    (faultEvent s src rcb domain rcd).Canonical := by
  unfold faultEvent
  grind [State.canonical_mem, sendFault_canonical]

theorem rcbEvent_canonical {s : State} (h : s.Canonical) (rcb cause : Nat) : (rcbEvent s rcb cause).Canonical := by
  unfold rcbEvent
  grind [faultEvent_canonical]

theorem execHeldRecordRetry_canonical {s : State} (h : s.Canonical) {u : State} : execHeldRecordRetry s = .next u → u.Canonical := by
  unfold execHeldRecordRetry
  grind [State.canonical_mem, sendFault_canonical, foldl_canonical]

/-! ### Rounds and bounded loads -/

theorem endL2View_canonical {s : State} (h : s.Canonical) (cl region : Nat) : (endL2View s cl region).Canonical := by
  unfold endL2View
  grind [State.canonical_mem, clearL2_canonical]

theorem leaveL2_canonical {s : State} (h : s.Canonical) (cl region : Nat) : (leaveL2 s cl region).Canonical := by
  unfold leaveL2
  grind [endL2View_canonical]

theorem leaveView_canonical {s : State} (h : s.Canonical) (core region : Nat) : (leaveView s core region).Canonical := by
  unfold leaveView
  grind [State.setCore_canonical, clearL1_canonical, leaveL2_canonical]

theorem enterView_canonical {s : State} (h : s.Canonical) (core region : Nat) (v : BitVec 32) : (enterView s core region v).Canonical := by
  unfold enterView
  grind [State.canonical_mem, State.setCore_canonical, clearL1_canonical, advanceL1_canonical, recordL2_canonical, advanceL2_canonical, leaveView_canonical]

theorem peerMulticast_canonical {s : State} (h : s.Canonical) (n : Nat) (v : BitVec 32) : (peerMulticast s n v).Canonical := by
  unfold peerMulticast
  grind [State.canonical_mem, State.post_canonical]

theorem peerCounter_canonical {s : State} (h : s.Canonical) (n : Nat) : (peerCounter s n).2.Canonical := by
  unfold peerCounter
  grind [peerMulticast_canonical]

theorem serveBounded_canonical {s : State} (h : s.Canonical) (w : Who) (t : Target) (region : Nat) (q : BitVec 32) (scalar : Bool) {a : Loaded} :
    serveBounded s w t region q scalar = some a → a.st.Canonical := by
  unfold serveBounded
  grind [State.canonical_mem, passToL1_canonical]

theorem fillBounded_canonical {s : State} (h : s.Canonical) (core line : Nat) (img : Stamped) (region cls : Nat) (l1 : Bool) :
    (fillBounded s core line img region cls l1).Canonical := by
  unfold fillBounded
  grind [State.canonical_mem, advanceL1_canonical, advanceL2_canonical, fillCopies_canonical]

theorem serveBoundedHome_canonical {s : State} (h : s.Canonical) (w : Who) (t : Target) (region pa round : Nat) (l1 : Bool) :
    (serveBoundedHome s w t region pa round l1).st.Canonical := by
  unfold serveBoundedHome
  grind [State.canonical_mem, watchReport_canonical, fillBounded_canonical]

theorem stallAt_canonical {s : State} (h : s.Canonical) (region : Nat) (q : BitVec 32) (pa : Nat) (self : Instr) :
    (stallAt s region q pa self).Canonical := h

/-- The state that a home's answer leaves is canonical. -/
def BoundedRes.Canonical : BoundedRes → Prop
  | .served a => a.st.Canonical
  | .stalled s => s.Canonical
  | .waits s => s.Canonical
  | .bad _ s => s.Canonical

theorem boundedBeyond_canonical {s : State} (h : s.Canonical) (w : Who) (t : Target) (port region pa : Nat) (q : BitVec 32) (l1 : Bool) (self : Instr) :
    (boundedBeyond s w t port region pa q l1 self).Canonical := by
  unfold boundedBeyond
  dsimp only
  split
  · exact fillBounded_canonical h _ _ _ _ _ _
  · split
    · exact serveBoundedHome_canonical (peerCounter_canonical h _) _ _ _ _ _ _
    · exact State.post_canonical (peerCounter_canonical h _) _

theorem boundedAtHome_canonical {s : State} (h : s.Canonical) (w : Who) (t : Target) (region : Nat) (q : BitVec 32) (l1 : Bool) (self : Instr) :
    (boundedAtHome s w t region q l1 self).Canonical := by
  unfold boundedAtHome
  split
  · split
    · rename_i hg
      exact accessGate_canonical_error h _ _ _ hg
    · rename_i hg
      have hs := accessGate_canonical_ok h _ _ _ hg
      split
      · exact boundedBeyond_canonical hs _ _ _ _ _ _ _ _
      · split
        · exact stallAt_canonical hs _ _ _ _
        · split
          · exact hs
          · exact serveBoundedHome_canonical hs _ _ _ _ _ _
  · exact loadQuiet_canonical h _ _

theorem releaseStalled_canonical {s : State} (h : s.Canonical) (slice region : Nat) (round : BitVec 32) :
    (releaseStalled s slice region round).Canonical := by
  unfold releaseStalled
  grind [State.canonical_mem, State.post_canonical]

theorem boundedMe_canonical (s : State) (t : Target) {a : Loaded} (h : a.st.Canonical) (va : Nat) (d : BitVec 5) (n : Nat) (sx : Bool) :
    (boundedMe s t a va d n sx).Canonical := State.setS_canonical (loadedMe_canonical s h va) _ _

theorem ldb_canonical {s : State} (h : s.Canonical) (d a b : BitVec 5) (n : Nat) (sx : Bool) : (ldb s d a b n sx).Canonical := by
  unfold ldb
  grind [State.setS_canonical, State.post_canonical, leave_canonical, awaitReply_canonical, trap_canonical, checkMe_canonical, withBytes_canonical, serveBounded_canonical, boundedMe_canonical]

theorem execBoundedRequest_canonical {s : State} (h : s.Canonical) (core ctx : Nat) {u : State} : execBoundedRequest core ctx s = .next u → u.Canonical := by
  unfold execBoundedRequest
  split
  · exact fun e => nomatch e
  · extract_lets r x s1
    split
    · extract_lets plain
      have hplain {s : State} (hs : s.Canonical) : (plain s).Canonical :=
        withBytes_canonical (fun _ u hu => answer_canonical (State.setS_canonical hu _ _)) hs _ _ _
      intro e
      rw [← Host.Outcome.next.inj e]
      refine asThread_canonical (fun u hu => ?_) (s := s1) h r
      split
      · exact hplain hu
      · split
        · exact hplain hu
        · have hr := boundedAtHome_canonical hu u.myWho
          split
          · rename_i hb
            exact (congrArg BoundedRes.Canonical hb).mp (hr _ _ _ _ _)
          · rename_i hb
            exact trap_canonical ((congrArg BoundedRes.Canonical hb).mp (hr _ _ _ _ _)) _ _
          · rename_i hb
            exact leave_canonical ((congrArg BoundedRes.Canonical hb).mp (hr _ _ _ _ _)) _ _ _
          · rename_i hb
            exact answer_canonical (boundedMe_canonical u _ ((congrArg BoundedRes.Canonical hb).mp (hr _ _ _ _ _)) _ _ _ _)
    · exact fun e => Host.Outcome.next.inj e ▸ h

theorem withRegion_canonical {f : State → Nat → Target → State} (hf : ∀ s r t, s.Canonical → (f s r t).Canonical) {s : State} (h : s.Canonical) (a : BitVec 5) (n : Need) :
    (withRegion s a n f).Canonical := by
  have hc := checkMe_canonical h
  unfold withRegion
  grind [trap_canonical]

theorem recordGate_canonical_error {s : State} (h : s.Canonical) (r : Nat) (self : Instr) {u : State} :
    recordGate s r self = .error u → u.Canonical := by
  unfold recordGate
  grind [State.canonical_mem]

theorem recordGate_canonical_ok {s : State} (h : s.Canonical) (r : Nat) (self : Instr) {u : State} : recordGate s r self = .ok u → u.Canonical := by
  unfold recordGate
  grind

theorem readCounter_canonical {s : State} (h : s.Canonical) (r : Nat) : (readCounter s r).2.Canonical := by
  unfold readCounter
  grind [State.canonical_mem, State.setClk_canonical, peerCounter_canonical]

theorem execRacq_canonical {s : State} (h : s.Canonical) (d a : BitVec 5) {u : State} : execRacq d a s = .next u → u.Canonical := by
  unfold execRacq
  grind [State.setMe_canonical, State.setS_canonical, State.traceMe_canonical, leave_canonical, awaitReply_canonical, trap_canonical, withRegion_canonical, recordGate_canonical_error, recordGate_canonical_ok, readCounter_canonical]

theorem withWalk_canonical {f : State → Nat → Target → State} (hf : ∀ s r t, s.Canonical → (f s r t).Canonical) {s : State} (h : s.Canonical) (a : BitVec 5) (n : Need) :
    (withWalk s a n f).Canonical := by
  unfold withWalk
  split
  · exact State.postWake_canonical (leave_canonical h _ _ _) _ _
  · exact withRegion_canonical hf h a n

theorem execRfloor_canonical {s : State} (h : s.Canonical) (a b : BitVec 5) {u : State} : execRfloor a b s = .next u → u.Canonical := by
  unfold execRfloor
  grind [State.setMe_canonical, State.traceMe_canonical, trap_canonical, retire_canonical, withWalk_canonical]

theorem execRfloorClr_canonical {s : State} (h : s.Canonical) (a : BitVec 5) {u : State} : execRfloorClr a s = .next u → u.Canonical := by
  unfold execRfloorClr
  grind [State.setMe_canonical, retire_canonical, withWalk_canonical]

theorem execRsub_canonical {s : State} (h : s.Canonical) (d a : BitVec 5) {u : State} : execRsub d a s = .next u → u.Canonical := by
  have hput {s : State} (hs : s.Canonical) (l : List (Nat × RegionRec)) : ({ s with regions := l } : State).Canonical := hs
  intro e
  rw [← Host.Outcome.next.inj e]
  refine withRegion_canonical (fun s r t hs => ?_) h _ _
  dsimp only
  split
  · rename_i hg
    exact leave_canonical (recordGate_canonical_error hs _ _ hg) _ _ _
  · rename_i hg
    have hs := recordGate_canonical_ok hs _ _ hg
    refine awaitReply_canonical (State.setS_canonical (enterView_canonical (readCounter_canonical ?_ _) _ _ _) _ _) _
    split
    · exact hput hs _
    · exact hs

theorem publishRound_canonical {s : State} (h : s.Canonical) (region : Nat) (g : RegionRec) (clk : Nat) :
    (publishRound s region g clk).2.2.Canonical := by
  unfold publishRound
  grind [State.canonical_mem, State.post_canonical, State.emit_canonical, foldl_canonical]

theorem published_canonical {s : State} (h : s.Canonical) (region : Nat) (who : ThreadRef) (d : BitVec 5) (v : BitVec 32) :
    (published s region who d v).Canonical := by
  unfold published
  grind [State.setS_canonical, State.traceMe_canonical, asThread_canonical, accept_canonical]

theorem execRegionRpub_canonical {s : State} (h : s.Canonical) (region : Nat) (who : ThreadRef) (d : BitVec 5) {u : State} :
    execRegionRpub region who d s = .next u → u.Canonical := by
  unfold execRegionRpub
  grind [State.setClk_canonical, refuse_canonical, peerMulticast_canonical, peerCounter_canonical, recordGate_canonical_error, recordGate_canonical_ok, publishRound_canonical, published_canonical]

theorem execRoundMulticast_canonical {s : State} (h : s.Canonical) (level : ViewLevel) (region : Nat) (round : BitVec 32) {u : State} :
    execRoundMulticast level region round s = .next u → u.Canonical := by
  unfold execRoundMulticast
  grind [State.canonical_mem, advanceL1_canonical, advanceL2_canonical, releaseStalled_canonical, foldl_canonical]

/-! ### Engine commands -/

theorem State.setEngine_canonical {s : State} (h : s.Canonical) (k e : Nat) (g : Engine) : (State.setEngine s k e g).Canonical := by
  unfold State.setEngine
  grind [State.setCore_canonical]

theorem State.setBarge_canonical {s : State} (h : s.Canonical) (k e r : Nat) (b : Barge) : (State.setBarge s k e r b).Canonical := by
  unfold State.setBarge
  grind [State.setEngine_canonical]

theorem bumpOutstanding_canonical {s : State} (h : s.Canonical) (tid core : Nat) : (bumpOutstanding s tid core).Canonical := by
  unfold bumpOutstanding
  grind [State.canonical_mem, storeDevice_canonical, saveTarget_canonical]

theorem acceptBarge_canonical {s : State} (h : s.Canonical) (k e : Nat) (c : Command) (i : Issuer) : (acceptBarge s k e c i).2.Canonical := by
  unfold acceptBarge
  grind [State.post_canonical, State.traceAt_canonical, State.addBarges_canonical, barSignal_canonical, State.setEngine_canonical, bumpOutstanding_canonical]

theorem issueCmd_canonical {s : State} (h : s.Canonical) (c : Command) : (issueCmd s c).Canonical := by
  unfold issueCmd
  grind [leave_canonical, trap_canonical, retire_canonical, acceptBarge_canonical]

theorem engineT_canonical {s : State} (hs : s.Canonical) (op : Nat) (d a c h : BitVec 4) (fn : Nat) : (engineT s op d a c h fn).Canonical := by
  unfold engineT
  grind [issueCmd_canonical]

theorem execEngineAccept_canonical {s : State} (h : s.Canonical) (core ctx : Nat) {u : State} :
    execEngineAccept core ctx s = .next u → u.Canonical := by
  unfold execEngineAccept
  grind [State.setMe_canonical, retire_canonical, asThread_canonical, acceptBarge_canonical]

theorem execText_canonical {s : State} (h : s.Canonical) (d a : BitVec 4) (b : BitVec 5) {u : State} : execText d a b s = .next u → u.Canonical := by
  unfold execText
  grind [State.setT_canonical, retire_canonical]

theorem execTsub_canonical {s : State} (h : s.Canonical) (d a : BitVec 4) (k : BitVec 3) (p : BitVec 14) {u : State} :
    execTsub d a k p s = .next u → u.Canonical := by
  unfold execTsub
  grind [State.setT_canonical, trap_canonical, retire_canonical]

theorem execTsubr_canonical {s : State} (h : s.Canonical) (d a : BitVec 4) (b : BitVec 5) {u : State} :
    execTsubr d a b s = .next u → u.Canonical := by
  unfold execTsubr
  grind [State.setT_canonical, trap_canonical, retire_canonical]

/-! ### Journal and keys -/

theorem State.journal_canonical {s : State} (h : s.Canonical) (kind source detail : Nat) (p0 p1 : Word) :
    (State.journal s kind source detail p0 p1).Canonical := h

theorem setExport_canonical {s : State} (h : s.Canonical) (v : Word) : (setExport s v).Canonical := by
  unfold setExport
  grind [State.canonical_mem]

theorem journalTimer_canonical {s : State} (h : s.Canonical) : (journalTimer s).Canonical := by
  unfold journalTimer
  grind [State.canonical_mem]

theorem execJapp_canonical {s : State} (h : s.Canonical) (d a b : BitVec 5) {u : State} : execJapp d a b s = .next u → u.Canonical := by
  unfold execJapp
  grind [State.setS_canonical, awaitReply_canonical, atLeast_canonical, State.journal_canonical]

theorem setKey_canonical {s : State} (h : s.Canonical) (i : Nat) (k : KeySlot) : (setKey s i k).Canonical := h

theorem keyLines_canonical {s : State} (h : s.Canonical) (a : Word) (sealedBad : Bool) (n : Nat) (acc : List Nat) : (keyLines s a sealedBad n acc).2.Canonical := by
  induction n generalizing s a acc with
  | zero => exact h
  | succ n ih =>
    have hc := checkMe_canonical h a { r := true, size := 64, ldx := sealedBad }
    unfold keyLines
    grind [loadLine_canonical_error, loadLine_canonical_ok, loadedMe_canonical]

theorem placeKey_canonical {s : State} (h : s.Canonical) (kind slot : Nat) (key : List Nat) (p0 : Word) :
    (placeKey s kind slot key p0).Canonical := by
  unfold placeKey
  grind [State.journal_canonical, setKey_canonical]

theorem execKload_canonical {s : State} (h : s.Canonical) (d a b : BitVec 5) {u : State} : execKload d a b s = .next u → u.Canonical := by
  unfold execKload
  grind [State.setS_canonical, leave_canonical, awaitReply_canonical, trap_canonical, atLeast_canonical, keyLines_canonical, placeKey_canonical]

theorem execKder_canonical {s : State} (h : s.Canonical) (d a b : BitVec 5) {u : State} : execKder d a b s = .next u → u.Canonical := by
  unfold execKder
  grind [State.setS_canonical, leave_canonical, awaitReply_canonical, trap_canonical, atLeast_canonical, keyLines_canonical, placeKey_canonical]

theorem purgeKey_canonical {s : State} (h : s.Canonical) (core slot : Nat) : (purgeKey s core slot).Canonical := by
  unfold purgeKey
  grind [State.setCore_canonical]

theorem execKrev_canonical {s : State} (h : s.Canonical) (d a : BitVec 5) {u : State} : execKrev d a s = .next u → u.Canonical := by
  unfold execKrev
  grind [State.setS_canonical, awaitReply_canonical, trap_canonical, atLeast_canonical, State.journal_canonical, setKey_canonical, purgeKey_canonical, foldl_canonical]

theorem execKeyCachePurge_canonical {s : State} (h : s.Canonical) (core slot : Nat) {u : State} :
    execKeyCachePurge core slot s = .next u → u.Canonical := by
  unfold execKeyCachePurge
  grind [purgeKey_canonical]

theorem portKey_canonical {s : State} (h : s.Canonical) (core slot : Nat) : (portKey s core slot).2.Canonical := by
  unfold portKey
  grind [State.setCore_canonical]

/-! ### Units of barges -/

/-! #### Units of barges (R97) -/

def Stop.Canonical : Stop → Prop
  | .fault _ _ s => s.Canonical
  | .wait _ s => s.Canonical

/-- What a part of a unit leaves is canonical: where it stops, and, by `p`, where it goes on. -/
def Sound {α : Type} (p : α → Prop) : Except Stop α → Prop
  | .error x => x.Canonical
  | .ok a => p a

theorem Sound.bind {α β : Type} {p : α → Prop} {q : β → Prop} {r : Except Stop α} {f : α → Except Stop β} (h : Sound p r) (hf : ∀ a, p a → Sound q (f a)) :
    Sound q (r >>= f) := by
  cases r with
  | error x => exact h
  | ok a => exact hf a h

theorem Sound.ite {α : Type} {p : α → Prop} {c : Prop} [Decidable c] {a b : Except Stop α} (ha : Sound p a) (hb : Sound p b) : Sound p (if c then a else b) := by
  split
  · exact ha
  · exact hb

theorem Sound.of_eq {α : Type} {p : α → Prop} {r r' : Except Stop α} (h : Sound p r) (e : r = r') : Sound p r' := e ▸ h

theorem bargeCheck_canonical {s : State} (h : s.Canonical) (k e : Nat) (b : Barge) (va : Nat) (n : Need) : Sound (·.2.Canonical) (bargeCheck s k e b va n) := by
  have hc := check_canonical h (bargeWho s k e b) va n
  unfold bargeCheck
  split <;> rename_i e1 <;> rw [e1] at hc <;> exact hc

theorem readLine_canonical {s : State} (h : s.Canonical) (k e : Nat) (b : Barge) (va : Nat) (n : Need) : Sound (·.2.2.Canonical) (readLine s k e b va n) := by
  have hc := bargeCheck_canonical h k e b va n
  unfold readLine
  split <;> rename_i e1 <;> rw [e1] at hc
  · exact hc
  · split
    · rename_i hl
      exact loadLine_canonical_error hc _ _ hl
    · rename_i hl
      exact loadLine_canonical_ok hc _ _ hl

theorem writesReady_canonical {s : State} (h : s.Canonical) (k e : Nat) (b : Barge) (l : List Target) : Sound (fun _ => True) (writesReady s k e b l) := by
  induction l with
  | nil => trivial
  | cons t ts ih =>
    unfold writesReady
    split
    · split
      · rename_i hg
        exact accessGate_canonical_error h _ _ _ hg
      · exact ih
    · exact ih

theorem bargeWrite_canonical {s : State} (h : s.Canonical) (k e : Nat) (b : Barge) (t : Target) (bs : List (Nat × Byte)) (side : Word) :
    Sound (·.2.Canonical) (bargeWrite s k e b t bs side) := by
  unfold bargeWrite
  dsimp only
  split
  · rename_i hs
    exact storeLine_canonical_error h _ _ _ _ _ hs
  · rename_i hs
    exact takeRound_canonical (storeLine_canonical_ok h _ _ _ _ _ hs) _ _

theorem bargeSignal_canonical {s : State} (h : s.Canonical) (b : Barge) (st : BarStep) : (bargeSignal s b st).Canonical := by
  unfold bargeSignal
  grind [barSignal_canonical]

theorem countBytes_canonical {s : State} (h : s.Canonical) (b : Barge) (n : Nat) (last : Bool) : (countBytes s b n last).2.Canonical := by
  unfold countBytes
  grind [bargeSignal_canonical]

theorem weirPass_canonical {s : State} (h : s.Canonical) (i : Nat) (kind : PortKind) (n pa : Nat) (ahead : Bool) {u : State} :
    weirPass s i kind n pa ahead = some u → u.Canonical := by
  unfold weirPass
  grind [State.canonical_mem]

theorem weirLeave_canonical {s : State} (h : s.Canonical) (k e : Nat) (b : Barge) (src : Loc) (out : Bool) (n va : Nat) :
    Sound State.Canonical (weirLeave s k e b src out n va) := by
  unfold weirLeave
  split
  · split
    · exact h
    · split
      · exact h
      · split
        · rename_i hw
          exact weirPass_canonical h _ _ _ _ _ hw
        · split
          · exact h
          · exact h
  · exact h

theorem leafOf_canonical {s : State} (h : s.Canonical) (w : Who) (va : Nat) : (leafOf s w va).2.Canonical := by
  unfold leafOf
  grind [State.canonical_mem, watchedWalk_canonical]

theorem sealedRefused_canonical {s : State} (h : s.Canonical) (w : Who) (img : LineData × Word) (st : Target) (dstVa : Nat) (keep whole : Bool) :
    (sealedRefused s w img st dstVa keep whole).2.Canonical := by
  unfold sealedRefused
  grind [leafOf_canonical]

theorem moveLine_canonical {s : State} (h : s.Canonical) (k e : Nat) (b : Barge) (img : LineData × Word) (t : Target) (srcVa dstVa : Nat) (pairs : List (Nat × Nat))
    (whole last metered : Bool) : Sound (·.2.Canonical) (moveLine s k e b img t srcVa dstVa pairs whole last metered) := by
  have hs := sealedRefused_canonical h (bargeWho s k e b) img t dstVa (decide ((Tile.ofBits b.cmd.td).policy = 0)) whole
  unfold moveLine
  dsimp only
  refine Sound.ite hs (Sound.bind (bargeCheck_canonical hs k e b _ _) fun a ha => Sound.ite ha ?_)
  refine Sound.bind (writesReady_canonical ha k e b _) fun _ _ => Sound.bind (weirLeave_canonical ha k e b _ _ _ _) fun u hu => ?_
  exact Sound.bind (bargeWrite_canonical hu k e b _ _ _) fun y hy => countBytes_canonical hy _ _ _

theorem copyRead_canonical {s : State} (h : s.Canonical) (k e : Nat) (b : Barge) (va : Nat) : Sound (·.2.2.Canonical) (copyRead s k e b va) := by
  unfold copyRead
  dsimp only
  refine Sound.bind (bargeCheck_canonical h k e b _ _) fun a ha => ?_
  split
  · exact ha
  · split
    · split
      · rename_i hl
        exact loadLine_canonical_error ha _ _ hl
      · rename_i hl
        exact loadLine_canonical_ok ha _ _ hl
    · split
      · rename_i hl
        split at hl
        · exact nomatch hl
        · exact serveBounded_canonical ha _ _ _ _ _ hl
      · have hr := boundedAtHome_canonical ha
        split <;> rename_i hb <;> exact (congrArg BoundedRes.Canonical hb).mp (hr _ _ _ _ _ _)

theorem copyLine_canonical {s : State} (h : s.Canonical) (k e : Nat) (b : Barge) (srcVa dstVa : Nat) (pairs : List (Nat × Nat)) (whole last metered : Bool) :
    Sound (·.2.Canonical) (copyLine s k e b srcVa dstVa pairs whole last metered) :=
  Sound.bind (copyRead_canonical h k e b srcVa) fun _ ha => moveLine_canonical ha k e _ _ _ _ _ _ _ _ _

theorem unitBcopy_canonical {s : State} (h : s.Canonical) (k e : Nat) (b : Barge) (i : Nat) (last metered : Bool) :
    Sound (·.2.Canonical) (unitBcopy s k e b i last metered) := copyLine_canonical h k e b _ _ _ _ _ _

theorem unitBfill_canonical {s : State} (h : s.Canonical) (k e : Nat) (b : Barge) (i : Nat) (last : Bool) : Sound (·.2.Canonical) (unitBfill s k e b i last) :=
  Sound.bind (bargeCheck_canonical h k e b _ _) fun _ ha => Sound.bind (bargeWrite_canonical ha k e b _ _ _) fun _ hy => countBytes_canonical hy _ _ _

theorem blockNumber_canonical {s : State} (h : s.Canonical) (k e : Nat) (b : Barge) (tb : Tile) (r c : Nat) : Sound (·.2.2.Canonical) (blockNumber s k e b tb r c) := by
  unfold blockNumber
  refine Sound.ite h (Sound.bind (p := (·.2.2.Canonical)) ?_ fun x hx => Sound.ite hx (Sound.ite hx hx))
  split
  · exact h
  · exact Sound.bind (readLine_canonical h k e b _ _) fun x hx => hx

theorem unitGather_canonical {s : State} (h : s.Canonical) (k e : Nat) (b : Barge) (i : Nat) (scatter last metered : Bool) :
    Sound (·.2.Canonical) (unitGather s k e b i scatter last metered) :=
  Sound.bind (blockNumber_canonical h k e b _ _ _) fun _ hx => Sound.ite hx (Sound.ite hx (Sound.ite (Sound.ite hx (copyLine_canonical hx k e _ _ _ _ _ _ _))
    (copyLine_canonical hx k e _ _ _ _ _ _ _)))

theorem ownersOut_canonical {s : State} (h : s.Canonical) (line : Nat) {u : State} : ownersOut s line = some u → u.Canonical := by
  unfold ownersOut
  grind [evictLine_canonical, foldl_canonical]

theorem removeCopies_canonical {s : State} (h : s.Canonical) (line : Nat) (llc : Bool) : (removeCopies s line llc).Canonical := h

theorem prefetchLine_canonical_error {s : State} (h : s.Canonical) (w : Who) (core : Nat) (t : Target) {u : State} : prefetchLine s w core t = .error u → u.Canonical := by
  unfold prefetchLine
  grind [accessGate_canonical_error]

theorem prefetchLine_canonical_ok {s : State} (h : s.Canonical) (w : Who) (core : Nat) (t : Target) {u : State} : prefetchLine s w core t = .ok u → u.Canonical := by
  have hput {s : State} (hs : s.Canonical) (m : Micro) : ({ s with micro := m } : State).Canonical := hs
  unfold prefetchLine
  split
  · extract_lets line c held
    split
    · exact fun e => Except.ok.inj e ▸ h
    · split
      · exact fun e => nomatch e
      · rename_i hg
        intro e
        rw [← Except.ok.inj e]
        exact fillCopies_canonical (watchReport_canonical (hput (accessGate_canonical_ok h _ _ _ hg) _) _ _ _ _) _ _ _ _ _ _ _
  · exact fun e => Except.ok.inj e ▸ h

theorem bownLine_canonical {s : State} (h : s.Canonical) (k e : Nat) (b : Barge) (slice : Nat) (x : OwnerEntry) : Sound (·.2.Canonical) (bownLine s k e b slice x) := by
  unfold bownLine
  split
  · exact h
  · split <;> rename_i hg
    · exact homeGate_canonical_error h _ _ _ _ hg
    · exact State.post_canonical (homeGate_canonical_ok h _ _ _ _ hg) _

theorem unitResidency_canonical {s : State} (h : s.Canonical) (k e : Nat) (b : Barge) (i : Nat) : Sound (·.2.Canonical) (unitResidency s k e b i) := by
  have hput {s : State} (hs : s.Canonical) (m : Micro) : ({ s with micro := m } : State).Canonical := hs
  have hc (n : Need) := check_canonical h (bargeWho s k e b) ((Tile.ofBits b.cmd.td).lineAddr i) n
  unfold unitResidency
  dsimp only
  split
  · split <;> rename_i e1
    · exact (congrArg (State.Canonical ·.2) e1).mp (hc _)
    · have hs := (congrArg (State.Canonical ·.2) e1).mp (hc _)
      split <;> rename_i hp
      · exact prefetchLine_canonical_error hs _ _ _ hp
      · exact prefetchLine_canonical_ok hs _ _ _ hp
  · split <;> rename_i e1
    · exact (congrArg (State.Canonical ·.2) e1).mp (hc _)
    · have hs := (congrArg (State.Canonical ·.2) e1).mp (hc _)
      split
      · refine Sound.ite (bownLine_canonical hs k e b _ _) (Sound.ite ?_ (Sound.ite (hput hs _) ?_))
        · split
          · exact Sound.ite (State.post_canonical (evictLine_canonical hs _ _) _) (hput hs _)
          · exact hput hs _
        · split
          · rename_i ho
            exact State.post_canonical (ownersOut_canonical hs _ ho) _
          · exact removeCopies_canonical hs _ _
      · exact hs

theorem State.setBuf_canonical {s : State} (h : s.Canonical) (k i : Nat) (x : StatBuf) : (State.setBuf s k i x).Canonical := by
  unfold State.setBuf
  grind [State.setCore_canonical]

theorem portLine_canonical {s : State} (h : s.Canonical) (k i va : Nat) (img : LineData × Word) (t : Target) :
    (∀ x, portLine s k i va img t = .error x → x.2.Canonical) ∧ ∀ x, portLine s k i va img t = .ok x → x.2.Canonical := by
  have hp := portKey_canonical h k t.key
  unfold portLine
  split
  · exact ⟨fun _ e => (nomatch e), fun _ e => Except.ok.inj e ▸ h⟩
  · split
    · exact ⟨fun _ e => Except.error.inj e ▸ h, fun _ e => (nomatch e)⟩
    · split <;> rename_i e1 <;> rw [e1] at hp
      · exact ⟨fun _ e => Except.error.inj e ▸ hp, fun _ e => (nomatch e)⟩
      · dsimp only
        split
        · exact ⟨fun _ e => Except.error.inj e ▸ State.journal_canonical hp _ _ _ _ _, fun _ e => (nomatch e)⟩
        · exact ⟨fun _ e => (nomatch e), fun _ e => Except.ok.inj e ▸ hp⟩

theorem unitMxst_canonical {s : State} (h : s.Canonical) (k e : Nat) (b : Barge) (i : Nat) : Sound (·.2.Canonical) (unitMxst s k e b i) := by
  unfold unitMxst
  dsimp only
  refine Sound.bind (readLine_canonical h k e b _ _) fun x hx => ?_
  obtain ⟨herr, hok⟩ := portLine_canonical hx k i ((Tile.ofBits b.cmd.ta).lineAddr i) x.1.1 x.1.2
  split
  · rename_i c u hu
    exact herr _ hu
  · rename_i d u hu
    split
    · exact hok _ hu
    · exact State.setBuf_canonical (hok _ hu) _ _ _

theorem readLines_canonical {s : State} (h : s.Canonical) (k e : Nat) (b : Barge) (bad : Nat → Word → Bool) (sealBad keep : Bool) (l : List Nat) (ls : Lines) :
    Sound (·.2.2.Canonical) (readLines s k e b bad sealBad keep l ls) := by
  induction l generalizing s b ls with
  | nil => exact h
  | cons va t ih =>
    unfold readLines
    split
    · exact Sound.ite h (ih h b _)
    · have hr := readLine_canonical h k e b va { r := true }
      split <;> rename_i e1 <;> rw [e1] at hr
      · exact hr
      · exact Sound.ite hr (Sound.ite hr (ih hr _ _))

theorem checkC_canonical {s : State} (h : s.Canonical) (k e : Nat) (td : Tile) (b : Barge) (l : List Nat) : Sound (·.2.Canonical) (checkC k e td b l s) := by
  induction l generalizing s with
  | nil => exact h
  | cons i t ih =>
    unfold checkC
    exact Sound.bind (bargeCheck_canonical h k e b _ _) fun x hx => Sound.bind (ih hx) fun y hy => hy

theorem writeC_canonical {s : State} (h : s.Canonical) (k e : Nat) (td : Tile) (real : Bool) (val : Nat → Nat → Val) (l : List (Nat × Target)) (b : Barge) :
    Sound (·.2.Canonical) (writeC k e td real val l b s) := by
  induction l generalizing s b with
  | nil => exact h
  | cons x t ih =>
    unfold writeC
    exact Sound.bind (bargeWrite_canonical h k e _ _ _ _) fun y hy => ih hy y.1

theorem unitMxma_canonical {s : State} (h : s.Canonical) (k e : Nat) (b : Barge) (g : Nat) : Sound (·.2.Canonical) (unitMxma s k e b g) := by
  unfold unitMxma
  dsimp only
  refine Sound.ite h (Sound.ite h (Sound.ite h ?_))
  split
  · exact h
  · refine Sound.bind (readLines_canonical h k e b _ _ _ _ _) fun x hx => ?_
    split
    · exact hx
    · refine Sound.bind (readLines_canonical hx k e _ _ _ _ _ _) fun y hy => Sound.bind (checkC_canonical hy k e _ _ _) fun z hz => ?_
      refine Sound.bind (writesReady_canonical hz k e _ _) fun _ _ => Sound.bind (writeC_canonical hz k e _ _ _ _ _) fun w hw => ?_
      exact Sound.ite (State.setCore_canonical hw _ _) hw

theorem unitCbld_canonical {s : State} (h : s.Canonical) (k e : Nat) (b : Barge) (i : Nat) : Sound (·.2.Canonical) (unitCbld s k e b i) :=
  Sound.bind (readLine_canonical h k e b _ _) fun _ hx => Sound.ite hx (State.setCore_canonical hx _ _)

theorem readOps_canonical {s : State} (h : s.Canonical) (k e : Nat) (b : Barge) (v : VecOp) (os : List OpLine) (ls : Lines) :
    Sound (·.2.2.Canonical) (readOps s k e b v os ls) := readLines_canonical h k e b _ _ _ _ _

theorem unitVector_canonical {s : State} (h : s.Canonical) (k e : Nat) (b : Barge) (i : Nat) : Sound (·.2.Canonical) (unitVector s k e b i) :=
  Sound.bind (readOps_canonical h k e b _ _ _) fun _ hx => Sound.bind (readOps_canonical hx k e _ _ _ _) fun _ hy =>
    Sound.ite hy (Sound.bind (bargeCheck_canonical hy k e _ _ _) fun _ hz => bargeWrite_canonical hz k e _ _ _ _)

theorem processUnit_canonical {s : State} (h : s.Canonical) (k e : Nat) (b : Barge) (i : Nat) (metered : Bool) : Sound (·.2.Canonical) (processUnit s k e b i metered) :=
  Sound.ite (unitBcopy_canonical h k e _ _ _ _) (Sound.ite (unitBfill_canonical h k e _ _ _) (Sound.ite (unitGather_canonical h k e _ _ _ _ _)
    (Sound.ite (unitGather_canonical h k e _ _ _ _ _) (Sound.ite (unitResidency_canonical h k e _ _) (Sound.ite (unitMxst_canonical h k e _ _)
    (Sound.ite (unitMxma_canonical h k e _ _) (Sound.ite (unitCbld_canonical h k e _ _) (unitVector_canonical h k e _ _))))))))

end Sys2Proof.Machine
end

section
/-! SUPPORT for O58 (R35). What keeps the canonical form of the memory: barges, the mesh, coherence, system instructions, registers and launching. -/

namespace Sys2Proof.Machine

/-! ### Barges -/

theorem engineWake_canonical {s : State} (h : s.Canonical) (k e : Nat) : (engineWake s k e).Canonical := by
  unfold engineWake
  grind [State.canonical_mem, State.post_canonical]

theorem startMatrix_canonical {s : State} (h : s.Canonical) (k : Nat) (b : Barge) : (startMatrix s k b).2.Canonical := by
  unfold startMatrix
  grind [State.setCore_canonical, State.setBuf_canonical]

theorem execBargeStart_canonical {s : State} (h : s.Canonical) (core e : Nat) {u : State} : execBargeStart core e s = .next u → u.Canonical := by
  unfold execBargeStart
  grind [State.post_canonical, State.setEngine_canonical, engineWake_canonical, startMatrix_canonical]

theorem execBasinSlotClaim_canonical {s : State} (h : s.Canonical) (core : Nat) {u : State} : execBasinSlotClaim core s = .next u → u.Canonical := by
  unfold execBasinSlotClaim
  grind [State.post_canonical, State.setBasin_canonical, State.setBarge_canonical]

theorem parkBarge_canonical {s : State} (h : s.Canonical) (k e r : Nat) (b : Barge) (i cause addr : Nat) :
    (parkBarge s k e r b i cause addr).Canonical := by
  unfold parkBarge
  grind [State.post_canonical, State.traceAt_canonical, pushSq_canonical, faultEvent_canonical, State.setEngine_canonical, engineWake_canonical]

theorem finishBarge_canonical {s : State} (h : s.Canonical) (k e r : Nat) (b : Barge) : (finishBarge s k e r b).Canonical := by
  unfold finishBarge
  grind [State.post_canonical, State.setEngine_canonical, State.setBuf_canonical, engineWake_canonical]

theorem waitUnit_canonical {s : State} (h : s.Canonical) (k e r : Nat) (old b : Barge) : (waitUnit s k e r old b).Canonical := by
  unfold waitUnit
  grind [State.setBarge_canonical, engineWake_canonical]

theorem runUnit_canonical {s : State} (h : s.Canonical) (k e : Nat) (metered : Bool) : (runUnit s k e metered).Canonical := by
  unfold runUnit
  dsimp only
  split
  · exact h
  · split
    · exact finishBarge_canonical h _ _ _ _
    · split
      · exact parkBarge_canonical h _ _ _ _ _ _ _
      · refine ite_canonical (ite_canonical h (parkBarge_canonical h _ _ _ _ _ _ _)) ?_
        have hu := processUnit_canonical h k e
        split <;> rename_i hr <;> have hp := (hu _ _ _).of_eq hr
        · exact parkBarge_canonical hp _ _ _ _ _ _ _
        · exact waitUnit_canonical hp _ _ _ _ _
        · exact ite_canonical (finishBarge_canonical hp _ _ _ _) (State.post_canonical (engineWake_canonical (State.setBarge_canonical hp _ _ _ _) _ _) _)

theorem execBargeUnit_canonical {s : State} (h : s.Canonical) (core e : Nat) {u : State} : execBargeUnit core e s = .next u → u.Canonical := by
  unfold execBargeUnit
  grind [runUnit_canonical]

theorem settleSlot_canonical {s : State} (h : s.Canonical) (k : Nat) (b : Barge) (cancelled : Bool) : (settleSlot s k b cancelled).Canonical := by
  unfold settleSlot
  grind [State.setBasin_canonical, basinCommit_canonical, basinFreed_canonical]

theorem completeBarge_canonical {s : State} (h : s.Canonical) (k e r : Nat) (b : Barge) : (completeBarge s k e r b).Canonical := by
  unfold completeBarge
  grind [State.traceAt_canonical, mergeFlags_canonical, State.addBarges_canonical, pulse_canonical, State.setEngine_canonical, bargeSignal_canonical, State.setBuf_canonical, engineWake_canonical, settleSlot_canonical]

theorem execBargeComplete_canonical {s : State} (h : s.Canonical) (core e : Nat) {u : State} :
    execBargeComplete core e s = .next u → u.Canonical := by
  unfold execBargeComplete
  grind [State.post_canonical, completeBarge_canonical]

theorem execEctlRd_canonical {s : State} (h : s.Canonical) (d a b : BitVec 5) (e : BitVec 2) {u : State} :
    execEctlRd d a b e s = .next u → u.Canonical := by
  unfold execEctlRd
  grind [trap_canonical, writeRetire_canonical]

theorem execEctlRes_canonical {s : State} (h : s.Canonical) (a : BitVec 5) (e : BitVec 2) {u : State} :
    execEctlRes a e s = .next u → u.Canonical := by
  unfold execEctlRes
  grind [State.post_canonical, trap_canonical, retire_canonical, atLeast_canonical, State.setEngine_canonical]

theorem execEctlCan_canonical {s : State} (h : s.Canonical) (a : BitVec 5) (e : BitVec 2) {u : State} :
    execEctlCan a e s = .next u → u.Canonical := by
  unfold execEctlCan
  grind [State.post_canonical, trap_canonical, retire_canonical, atLeast_canonical, State.setEngine_canonical, engineWake_canonical]

theorem execEstat_canonical {s : State} (h : s.Canonical) (d : BitVec 5) (e : BitVec 2) {u : State} : execEstat d e s = .next u → u.Canonical := by
  unfold execEstat
  grind [State.setClk_canonical, writeRetire_canonical]

theorem execSend_canonical {s : State} (h : s.Canonical) (d a b : BitVec 5) (e : BitVec 2) {u : State} :
    execSend d a b e s = .next u → u.Canonical := by
  unfold execSend
  grind [State.post_canonical, leave_canonical, trap_canonical, checkMe_canonical, withLine_canonical]

theorem receiveCommand_canonical {s : State} (h : s.Canonical) (k e : Nat) (m : SendMsg) (answer : Nat → Word) (again : Instr) :
    (receiveCommand s k e m answer again).Canonical := by
  unfold receiveCommand
  grind [State.canonical_mem, State.setS_canonical, asThread_canonical, refuse_canonical, accept_canonical, acceptBarge_canonical]

theorem execSendCommandReceipt_canonical {s : State} (h : s.Canonical) (m : SendMsg) {u : State} :
    execSendCommandReceipt m s = .next u → u.Canonical := by
  unfold execSendCommandReceipt
  grind [receiveCommand_canonical]

theorem hubPrefetch_canonical {s : State} (h : s.Canonical) (cl : Nat) (w : Who) (t : Tile) (l : List Nat) :
    (∀ u, hubPrefetch cl w t l s = .error u → u.Canonical) ∧ ∀ u, hubPrefetch cl w t l s = .ok u → u.Canonical := by
  induction l generalizing s with
  | nil => exact ⟨fun _ e => (nomatch e), fun _ e => Except.ok.inj e ▸ h⟩
  | cons i l ih =>
    have hc := check_canonical h w (t.lineAddr i) { r := true }
    unfold hubPrefetch
    split <;> rename_i e1 <;> rw [e1] at hc
    · exact ih hc
    · split <;> rename_i hp
      · exact ⟨fun _ e => Except.error.inj e ▸ prefetchLine_canonical_error hc _ _ _ hp, fun _ e => (nomatch e)⟩
      · exact ih (prefetchLine_canonical_ok hc _ _ _ hp)

theorem execHubCommand_canonical {s : State} (h : s.Canonical) (m : SendMsg) {u : State} : execHubCommand m s = .next u → u.Canonical := by
  unfold execHubCommand
  split
  · exact fun e => nomatch e
  · split
    · exact fun e => Host.Outcome.next.inj e ▸ h
    · split
      · extract_lets a k
        split
        · exact fun e => Host.Outcome.next.inj e ▸ receiveCommand_canonical h _ _ _ _ _
        · exact fun e => Host.Outcome.next.inj e ▸ refuse_canonical h _ _
      · split
        · exact fun e => Host.Outcome.next.inj e ▸ refuse_canonical h _ _
        · extract_lets i w t
          obtain ⟨herr, hok⟩ := hubPrefetch_canonical h m.target w t ((List.range t.lines).filter t.lineLive)
          split <;> rename_i hp
          · exact fun e => Host.Outcome.next.inj e ▸ herr _ hp
          · exact fun e => Host.Outcome.next.inj e ▸ accept_canonical
              (asThread_canonical (fun u hu => State.setS_canonical hu _ _) (barSignal_canonical (hok _ hp) _ _ _ _ _) _) _

/-! ### The mesh -/

theorem deliver_canonical {s : State} (h : s.Canonical) (pos port : Nat) (f : Flit) : (deliver s pos port f).Canonical := by
  unfold deliver
  grind [State.canonical_mem]

theorem moveFlit_canonical {s : State} (hs : s.Canonical) (die pos port : Nat) (h : Head) : (moveFlit s die pos port h).Canonical := by
  unfold moveFlit
  grind [State.canonical_mem, deliver_canonical]

theorem grants_canonical {s : State} (h : s.Canonical) (die pos port n : Nat) (o : MeshOut) (left : List Head) : (grants s die pos port n o left).1.Canonical := by
  induction n generalizing s o left with
  | zero => exact h
  | succ n ih =>
    unfold grants
    split
    · exact h
    · exact ih (moveFlit_canonical h _ _ _ _) _ _

theorem arbitrate_canonical {s : State} (h : s.Canonical) (die pos port : Nat) : (arbitrate s die pos port).Canonical := by
  unfold arbitrate
  grind [State.canonical_mem, grants_canonical]

theorem execMeshArbitration_canonical {s : State} (h : s.Canonical) (die pos port : Nat) {u : State} :
    execMeshArbitration die pos port s = .next u → u.Canonical := by
  unfold execMeshArbitration
  grind [arbitrate_canonical]

theorem meshCycle_canonical {s : State} (h : s.Canonical) : (meshCycle s).Canonical := by
  unfold meshCycle
  grind [arbitrate_canonical, foldl_canonical]

theorem putOnMesh_canonical {s : State} (h : s.Canonical) (n : Nat) : (putOnMesh s n).Canonical := by
  unfold putOnMesh
  grind [State.canonical_mem]

/-! ### Coherence -/

theorem serveHome_canonical {s : State} (h : s.Canonical) (q : CohReq) : (serveHome s q).Canonical := by
  unfold serveHome
  grind [State.canonical_mem, State.post_canonical, watchReport_canonical]

theorem homeRequest_canonical {s : State} (h : s.Canonical) (q : CohReq) : (homeRequest s q).Canonical := by
  unfold homeRequest
  grind [State.post_canonical, homeGate_canonical_error, homeGate_canonical_ok, serveHome_canonical]

theorem nextWaiting_canonical {s : State} (h : s.Canonical) (line : Nat) : (nextWaiting s line).Canonical := h

theorem execHomeGets_canonical {s : State} (h : s.Canonical) (q : CohReq) {u : State} : execHomeGets q s = .next u → u.Canonical := by
  unfold execHomeGets
  grind [homeRequest_canonical]

theorem execHomeGetx_canonical {s : State} (h : s.Canonical) (q : CohReq) {u : State} : execHomeGetx q s = .next u → u.Canonical := by
  unfold execHomeGetx
  grind [homeRequest_canonical]

theorem execHomeUpg_canonical {s : State} (h : s.Canonical) (q : CohReq) {u : State} : execHomeUpg q s = .next u → u.Canonical := by
  unfold execHomeUpg
  grind [State.canonical_mem, homeRequest_canonical, foldl_canonical]

theorem execHomeRenew_canonical {s : State} (h : s.Canonical) (q : CohReq) {u : State} : execHomeRenew q s = .next u → u.Canonical := by
  unfold execHomeRenew
  grind [homeRequest_canonical]

theorem takeImage_canonical {s : State} (h : s.Canonical) (line core : Nat) (img : Stamped) : (takeImage s line core img).Canonical := by
  unfold takeImage
  grind [State.canonical_mem, nextWaiting_canonical]

theorem execHomeWb_canonical {s : State} (h : s.Canonical) (line core : Nat) (img : Stamped) (_clean : Bool) {u : State} :
    execHomeWb line core img _clean s = .next u → u.Canonical := by
  unfold execHomeWb
  grind [State.post_canonical, takeImage_canonical]

theorem execHomeFdata_canonical {s : State} (h : s.Canonical) (line core : Nat) (img : LineData × Word) (stamps : Nat × Nat) {u : State} :
    execHomeFdata line core img stamps s = .next u → u.Canonical := by
  unfold execHomeFdata
  grind [takeImage_canonical]

theorem execHomeGack_canonical {s : State} (h : s.Canonical) (line core : Nat) {u : State} : execHomeGack line core s = .next u → u.Canonical := by
  unfold execHomeGack
  grind [State.canonical_mem, nextWaiting_canonical]

theorem execHomeGone_canonical {s : State} (h : s.Canonical) (line core : Nat) {u : State} : execHomeGone line core s = .next u → u.Canonical := by
  unfold execHomeGone
  grind [takeImage_canonical]

theorem wakeMiss_canonical {s : State} (h : s.Canonical) (core line acks level : Nat) : (wakeMiss s core line acks level).Canonical := by
  unfold wakeMiss
  grind [State.setCore_canonical, State.post_canonical]

theorem becomeOwner_canonical {s : State} (h : s.Canonical) (core line : Nat) (o : Copy) (acks level : Nat) :
    (becomeOwner s core line o acks level).Canonical := by
  unfold becomeOwner
  grind [State.canonical_mem, State.post_canonical, wakeMiss_canonical]

theorem execAgentData_canonical {s : State} (h : s.Canonical) (core line : Nat) (r : DataReply) (exclusive : Bool) {u : State} :
    execAgentData core line r exclusive s = .next u → u.Canonical := by
  unfold execAgentData
  grind [State.canonical_mem, advanceL1_canonical, advanceL2_canonical, fillCopies_canonical, wakeMiss_canonical, becomeOwner_canonical]

theorem execAgentAckx_canonical {s : State} (h : s.Canonical) (core line : Nat) (r : LeaseReply) {u : State} :
    execAgentAckx core line r s = .next u → u.Canonical := by
  unfold execAgentAckx
  grind [becomeOwner_canonical]

theorem execAgentRnack_canonical {s : State} (h : s.Canonical) (core line : Nat) (r : LeaseReply) {u : State} :
    execAgentRnack core line r s = .next u → u.Canonical := by
  unfold execAgentRnack
  grind [State.canonical_mem, wakeMiss_canonical]

theorem execAgentWback_canonical {s : State} (h : s.Canonical) (core line : Nat) {u : State} :
    execAgentWback core line s = .next u → u.Canonical := by
  unfold execAgentWback
  grind [State.canonical_mem, State.post_canonical, wakeMiss_canonical]

theorem execAgentFwd_canonical {s : State} (h : s.Canonical) (core line : Nat) (kind : FwdKind) {u : State} :
    execAgentFwd core line kind s = .next u → u.Canonical := by
  unfold execAgentFwd
  grind [State.canonical_mem, State.post_canonical, State.emit_canonical]

theorem execAgentRetry_canonical {s : State} (h : s.Canonical) (q : CohReq) {u : State} : execAgentRetry q s = .next u → u.Canonical := by
  unfold execAgentRetry
  grind [State.canonical_mem, State.post_canonical]

theorem execLineEviction_canonical {s : State} (h : s.Canonical) (core line : Nat) {u : State} :
    execLineEviction core line s = .next u → u.Canonical := by
  unfold execLineEviction
  grind [evictLine_canonical]

theorem execInvReceive_canonical {s : State} (h : s.Canonical) (party : Party) (line : Nat) (_round : Nat) (writer : ThreadRef) {u : State} :
    execInvReceive party line _round writer s = .next u → u.Canonical := by
  unfold execInvReceive
  grind [State.post_canonical, takeInv_canonical]

theorem execEvictionNotice_canonical {s : State} (h : s.Canonical) (core line round : Nat) {u : State} :
    execEvictionNotice core line round s = .next u → u.Canonical := by
  unfold execEvictionNotice
  grind [State.canonical_mem]

theorem execWalkerRead_canonical {s : State} (h : s.Canonical) (reader : Party) (line : Nat) {u : State} :
    execWalkerRead reader line s = .next u → u.Canonical := by
  unfold execWalkerRead
  grind [State.track_canonical]

theorem dropTranslation_canonical {s : State} (h : s.Canonical) (core index : Nat) : (dropTranslation s core index).Canonical := by
  unfold dropTranslation
  grind [State.canonical_mem, State.post_canonical]

theorem execTranslationDrop_canonical {s : State} (h : s.Canonical) (core index : Nat) {u : State} :
    execTranslationDrop core index s = .next u → u.Canonical := by
  unfold execTranslationDrop
  grind [dropTranslation_canonical]

theorem dropFetched_canonical {s : State} (h : s.Canonical) (core line : Nat) : (dropFetched s core line).Canonical := h

theorem execL1InstructionCacheDrop_canonical {s : State} (h : s.Canonical) (core line : Nat) {u : State} :
    execL1InstructionCacheDrop core line s = .next u → u.Canonical := by
  unfold execL1InstructionCacheDrop
  grind [dropFetched_canonical]

theorem peerServe_canonical {s : State} (h : s.Canonical) (cluster peer line : Nat) : (peerServe s cluster peer line).Canonical := by
  unfold peerServe
  grind [State.canonical_mem, State.post_canonical]

theorem execL2PeerServe_canonical {s : State} (h : s.Canonical) (cluster peer line _clk : Nat) {u : State} :
    execL2PeerServe cluster peer line _clk s = .next u → u.Canonical := by
  unfold execL2PeerServe
  grind [peerServe_canonical]

theorem broadcastMin_canonical {s : State} (h : s.Canonical) (slice : Nat) : (broadcastMin s slice).Canonical := h

theorem execClockMinimumBroadcast_canonical {s : State} (h : s.Canonical) (slice : Nat) {u : State} :
    execClockMinimumBroadcast slice s = .next u → u.Canonical := by
  unfold execClockMinimumBroadcast
  grind [broadcastMin_canonical]

theorem moveViews_canonical {s : State} (h : s.Canonical) (granule slice : Nat) : (moveViews s granule slice).Canonical := by
  unfold moveViews
  grind [State.canonical_mem, releaseStalled_canonical, foldl_canonical]

theorem recallOwned_canonical {s : State} (h : s.Canonical) (lines : List Nat) : (recallOwned s lines).Canonical := by
  unfold recallOwned
  grind [State.canonical_mem, State.post_canonical, foldl_canonical]

theorem startMove_canonical {s : State} (h : s.Canonical) (granule slice : Nat) : (startMove s granule slice).Canonical := h

theorem endMove_canonical {s : State} (h : s.Canonical) (granule slice : Nat) : (endMove s granule slice).Canonical := by
  unfold endMove
  grind [State.canonical_mem, State.post_canonical, moveViews_canonical]

theorem rehome_canonical {s : State} (h : s.Canonical) (granule slice : Nat) : (rehome s granule slice).Canonical := by
  unfold rehome
  grind [State.post_canonical, recallOwned_canonical, startMove_canonical, endMove_canonical]

theorem execRehome_canonical {s : State} (h : s.Canonical) (granule slice : Nat) {u : State} :
    execRehome granule slice s = .next u → u.Canonical := by
  unfold execRehome
  grind [rehome_canonical]

theorem execHomeRecall_canonical {s : State} (h : s.Canonical) (slice : Nat) (q : RecallReq) {u : State} :
    execHomeRecall slice q s = .next u → u.Canonical := by
  unfold execHomeRecall
  grind [State.canonical_mem, State.post_canonical, homeGate_canonical_error, homeGate_canonical_ok, removeCopies_canonical, foldl_canonical]

theorem spontaneous_canonical {s : State} (h : s.Canonical) (e : Nat × Nat × Nat) : (spontaneous s e).Canonical := by
  unfold spontaneous
  grind [evictLine_canonical, peerCounter_canonical, dropTranslation_canonical, dropFetched_canonical, peerServe_canonical, broadcastMin_canonical, rehome_canonical]

/-! ### System instructions -/

theorem parkPoint_canonical {s : State} (h : s.Canonical) (r : ThreadRef) : (parkPoint s r).Canonical := by
  unfold parkPoint
  grind [State.setCtx_canonical, parkCtx_canonical]

theorem budgetPoint_canonical {s : State} (h : s.Canonical) (r : ThreadRef) : (budgetPoint s r).Canonical := by
  unfold budgetPoint
  grind [State.setCtx_canonical, parkCtx_canonical]

theorem takePending_canonical {s : State} (h : s.Canonical) (r : ThreadRef) : (takePending s r).Canonical := by
  unfold takePending
  grind [parkCtx_canonical, stopCtx_canonical]

theorem execPreempt_canonical {s : State} (h : s.Canonical) (core ctx : Nat) {u : State} : execPreempt core ctx s = .next u → u.Canonical := by
  unfold execPreempt
  grind [parkCtx_canonical]

theorem callSupervisor_canonical {s : State} (h : s.Canonical) (kind : Nat) (v : Word) : (callSupervisor s kind v).Canonical := by
  unfold callSupervisor
  grind [State.setMe_canonical, trap_canonical, parkWithRecord_canonical]

theorem execMcall_canonical {s : State} (h : s.Canonical) {u : State} : execMcall s = .next u → u.Canonical := by
  unfold execMcall
  grind [enterMonitor_canonical, trap_canonical, boundary_canonical]

theorem execEret_canonical {s : State} (h : s.Canonical) {u : State} : execEret s = .next u → u.Canonical := by
  unfold execEret
  grind [trap_canonical, leaveMonitor_canonical, boundary_canonical, atLeast_canonical]

theorem tryAgain_canonical {s : State} (h : s.Canonical) (obj : Nat) : (tryAgain s obj).Canonical := by
  unfold tryAgain
  grind [State.postWake_canonical, leave_canonical]

theorem execResume_canonical {s : State} (h : s.Canonical) (a : BitVec 5) {u : State} : execResume a s = .next u → u.Canonical := by
  unfold execResume
  grind [State.setMyCore_canonical, leave_canonical, bindHome_canonical, trap_canonical, retire_canonical, atLeast_canonical, parkPoint_canonical]

theorem execPark_canonical {s : State} (h : s.Canonical) (a : BitVec 5) {u : State} : execPark a s = .next u → u.Canonical := by
  unfold execPark
  grind [State.setMe_canonical, State.setMyCore_canonical, State.setClk_canonical, leave_canonical, takeTrap_canonical, trap_canonical, parkWithRecord_canonical, retire_canonical, atLeast_canonical, parkPoint_canonical]

theorem withImage_canonical {f : State → ThreadRef → Nat → State} (hf : ∀ s r o, s.Canonical → (f s r o).Canonical) {s : State} (h : s.Canonical) (a b : BitVec 5) :
    (withImage s a b f).Canonical := by
  refine atLeast_canonical (fun u hu => ?_) h _
  split
  · exact trap_canonical hu _ _
  · exact ite_canonical (trap_canonical hu _ _) (hf _ _ _ hu)

theorem writeImage_canonical {s : State} (h : s.Canonical) (r : ThreadRef) (o : Nat) (v : Word) : (writeImage s r o v).Canonical := by
  unfold writeImage
  grind [State.setCtx_canonical]

theorem execSpill_canonical {s : State} (h : s.Canonical) (a : BitVec 5) {u : State} : execSpill a s = .next u → u.Canonical := by
  unfold execSpill
  grind [awaitReply_canonical, trap_canonical, atLeast_canonical, spillCtx_canonical, tryAgain_canonical]

theorem fillWords_canonical {s : State} (h : s.Canonical) (a : Word) (n : Nat) (acc : List Word) : (fillWords s a n acc).2.Canonical := by
  induction n generalizing s acc with
  | zero => exact h
  | succ n ih =>
    have hc := checkMe_canonical h (a + BitVec.ofNat 64 (8 * acc.length)) { r := true, size := 64 }
    unfold fillWords
    dsimp only
    split <;> rename_i e1 <;> rw [e1] at hc
    · exact hc
    · exact ih (loadedMe_canonical _ (loadQuiet_canonical hc _ _) _) _

theorem execFill_canonical {s : State} (h : s.Canonical) (d a b : BitVec 5) {u : State} : execFill d a b s = .next u → u.Canonical := by
  have hput {s : State} (hs : s.Canonical) (m : Micro) : ({ s with micro := m } : State).Canonical := hs
  intro e
  rw [← Host.Outcome.next.inj e]
  refine atLeast_canonical (fun s h => ?_) h _
  extract_lets va ended
  have hended {s : State} (hs : s.Canonical) : (ended s).Canonical := endNeeds_canonical hs _ _
  have hc := checkMe_canonical h va { r := true, size := 1024 }
  split <;> rename_i e1 <;> rw [e1] at hc
  · exact trap_canonical (hended hc) _ _
  · refine ite_canonical (trap_canonical (hended hc) _ _) ?_
    split <;> rename_i hl
    · exact leave_canonical (readyLines_canonical_error hc _ _ _ hl) _ _ _
    · have hw := fillWords_canonical (readyLines_canonical_ok hc _ _ _ hl) va 13 []
      split <;> rename_i e2 <;> rw [e2] at hw
      · exact trap_canonical (hended hw) _ _
      · refine ite_canonical (tryAgain_canonical hw _) ?_
        have hn := needCtx_canonical hw
        split <;> rename_i e3
        · exact tryAgain_canonical ((congrArg (State.Canonical ·.2) e3).mp (hn _ _ _)) _
        · extract_lets r x s1 s2
          have h1 : s1.Canonical := restoreCtx_canonical ((congrArg (State.Canonical ·.2) e3).mp (hn _ _ _)) r x _
          exact awaitReply_canonical (State.setS_canonical (hput h1 _) _ _) _

theorem execIfence_canonical {s : State} (h : s.Canonical) {u : State} : execIfence s = .next u → u.Canonical := by
  unfold execIfence
  grind [State.canonical_mem, State.setClk_canonical, awaitReply_canonical]

theorem tfence_canonical {s : State} (h : s.Canonical) (core : Nat) : (tfence s core).Canonical := by
  unfold tfence
  grind [State.canonical_mem, State.post_canonical]

theorem execBkpt_canonical {s : State} (h : s.Canonical) {u : State} : execBkpt s = .next u → u.Canonical := by
  unfold execBkpt
  grind [State.setMe_canonical, stopCtx_canonical, trap_canonical]

theorem freeCtx_canonical {s : State} (h : s.Canonical) (r : ThreadRef) : (freeCtx s r).Canonical := by
  unfold freeCtx
  grind [State.canonical_mem, State.setCtx_canonical, State.post_canonical, State.setClk_canonical, vacate_canonical, endPark_canonical, State.addContexts_canonical, freeSave_canonical]

theorem execHalt_canonical {s : State} (h : s.Canonical) {u : State} : execHalt s = .next u → u.Canonical := by
  intro e
  rw [← Host.Outcome.next.inj e]
  split
  · refine ite_canonical (freeCtx_canonical h _) ?_
    have hc := checkBlock_canonical h s.me.join
    split <;> rename_i e1 <;> rw [e1] at hc
    · exact trap_canonical hc _ _
    · refine ite_canonical (tryAgain_canonical hc _) ?_
      split <;> rename_i hg
      · exact leave_canonical (atomicGate_canonical_error hc _ _ hg) _ _ _
      · have hs := atomicGate_canonical_ok hc _ _ hg
        split <;> rename_i hj
        · exact trap_canonical hs _ _
        · exact freeCtx_canonical (takeRound_canonical (State.setClk_canonical (joinAt_canonical hs _ _ _ _ hj) _ _) _ _) _
  · exact trap_canonical h _ _

theorem reservedWord_canonical {s : State} (h : s.Canonical) (w : BitVec 32) : (reservedWord s w).Canonical := by
  unfold reservedWord
  grind [trap_canonical]

theorem unfetchable_canonical {s : State} (h : s.Canonical) (cause : Nat) (tval : Word) : (unfetchable s cause tval).Canonical := by
  unfold unfetchable
  grind [takeTrap_canonical]

/-! ### Protected egress -/

theorem State.setWeir_canonical {s : State} (h : s.Canonical) (i : Nat) (w : Weir) : (State.setWeir s i w).Canonical := h

theorem passHeld_canonical {s : State} (hs : s.Canonical) (h : HeldEgress) : (passHeld s h).Canonical := by
  unfold passHeld
  grind [State.emit_canonical, runUnit_canonical]

theorem failHeld_canonical {s : State} (hs : s.Canonical) (h : HeldEgress) : (failHeld s h).Canonical := by
  unfold failHeld
  grind [State.emit_canonical, parkBarge_canonical]

theorem releaseAll_canonical {s : State} (h : s.Canonical) (i : Nat) : (releaseAll s i).Canonical := by
  unfold releaseAll
  grind [State.setWeir_canonical, passHeld_canonical, foldl_canonical]

theorem weirEntry_canonical {s : State} (h : s.Canonical) (core i : Nat) : (weirEntry s core i).Canonical := by
  unfold weirEntry
  grind [State.journal_canonical]

theorem writeWeirA_canonical {s : State} (h : s.Canonical) (core i : Nat) (v : Word) : (writeWeirA s core i v).Canonical := by
  unfold writeWeirA
  grind [State.setWeir_canonical, releaseAll_canonical, weirEntry_canonical]

theorem writeWeirB_canonical {s : State} (h : s.Canonical) (core i : Nat) (v : Word) : (writeWeirB s core i v).Canonical := by
  unfold writeWeirB
  grind [State.setWeir_canonical, weirEntry_canonical]

theorem execCrWeiraWrite_canonical {s : State} (h : s.Canonical) (core region : Nat) (v : Word) {u : State} :
    execCrWeiraWrite core region v s = .next u → u.Canonical := by
  unfold execCrWeiraWrite
  grind [writeWeirA_canonical]

theorem execCrWeirbWrite_canonical {s : State} (h : s.Canonical) (core region : Nat) (v : Word) {u : State} :
    execCrWeirbWrite core region v s = .next u → u.Canonical := by
  unfold execCrWeirbWrite
  grind [writeWeirB_canonical]

theorem drain_canonical {s : State} (h : s.Canonical) (i n : Nat) : (drain s i n).Canonical := by
  induction n generalizing s with
  | zero => exact h
  | succ n ih =>
    unfold drain
    split
    · exact h
    · split
      · exact h
      · rename_i hw
        exact ih (passHeld_canonical (State.setWeir_canonical (weirPass_canonical h _ _ _ _ _ hw) _ _) _)

theorem refill_canonical {s : State} (h : s.Canonical) (i : Nat) : (refill s i).Canonical := by
  unfold refill
  grind [State.setWeir_canonical, drain_canonical]

theorem execWeirRefill_canonical {s : State} (h : s.Canonical) (region : Nat) {u : State} : execWeirRefill region s = .next u → u.Canonical := by
  unfold execWeirRefill
  grind [refill_canonical]

theorem expire_canonical {s : State} (h : s.Canonical) (i : Nat) : (expire s i).Canonical := by
  unfold expire
  grind [State.setWeir_canonical, failHeld_canonical, foldl_canonical]

theorem execWeirTimeout_canonical {s : State} (h : s.Canonical) (region : Nat) {u : State} : execWeirTimeout region s = .next u → u.Canonical := by
  unfold execWeirTimeout
  grind [expire_canonical]

theorem egressEntries_canonical {s : State} (h : s.Canonical) (i : Nat) : (egressEntries s i).Canonical := by
  unfold egressEntries
  grind [State.journal_canonical, State.setWeir_canonical, foldl_canonical]

theorem execWeirEgressEntry_canonical {s : State} (h : s.Canonical) (region : Nat) {u : State} :
    execWeirEgressEntry region s = .next u → u.Canonical := by
  unfold execWeirEgressEntry
  grind [egressEntries_canonical]

theorem retime_canonical {s : State} (h : s.Canonical) : (retime s).Canonical := by
  unfold retime
  grind [State.canonical_mem]

theorem eraseKeys_canonical {s : State} (h : s.Canonical) (sensor : Nat) (reading limit : Word) : (eraseKeys s sensor reading limit).Canonical := by
  unfold eraseKeys
  grind [State.canonical_mem, pushSq_canonical, State.journal_canonical, foldl_canonical]

theorem setSenslim_canonical {s : State} (h : s.Canonical) (v : Word) : (setSenslim s v).Canonical := by
  unfold setSenslim
  grind [State.canonical_mem, retime_canonical, eraseKeys_canonical]

theorem execSensorTrip_canonical {s : State} (h : s.Canonical) (volt temp clock : BitVec 16) {u : State} :
    execSensorTrip volt temp clock s = .next u → u.Canonical := by
  unfold execSensorTrip
  grind [State.canonical_mem, eraseKeys_canonical]

/-! ### Control registers -/

theorem writeTroot_canonical {s : State} (h : s.Canonical) (k : Nat) (v : Word) : (writeTroot s k v).Canonical := by
  unfold writeTroot
  grind [State.setCore_canonical, tfence_canonical]

theorem writeBankpart_canonical {s : State} (h : s.Canonical) (k : Nat) (hi : Bool) (v : Word) : (writeBankpart s k hi v).Canonical := by
  unfold writeBankpart
  grind [State.setCore_canonical]

theorem writeSlotpart_canonical {s : State} (h : s.Canonical) (k : Nat) (v : Word) : (writeSlotpart s k v).Canonical := by
  unfold writeSlotpart
  grind [State.setCore_canonical]

theorem writeQtable_canonical {s : State} (h : s.Canonical) (k : Nat) (v : Word) : (writeQtable s k v).Canonical := by
  unfold writeQtable
  grind [State.setCore_canonical, State.reloadRegion_canonical, State.trackRecord_canonical, State.trackTables_canonical, foldl_canonical]

theorem writeCoreCr_canonical {s : State} (h : s.Canonical) (k n : Nat) (v : Word) : (writeCoreCr s k n v).Canonical := by
  have hc (c : Core) : (s.setCore k c).Canonical := State.setCore_canonical h k c
  have hw : (if n % 2 = 0 then writeWeirA s k ((n - 0x240) / 2) v else writeWeirB s k ((n - 0x240) / 2) v).Canonical :=
    ite_canonical (writeWeirA_canonical h _ _ _) (writeWeirB_canonical h _ _ _)
  have hlast (c d e f g : Core) : (if n < 0x304 then s.setCore k c else if n = 0x304 then s.setCore k d else if n = 0x308 then s.setCore k e else if n < 0x340 then s
      else if n < 0x380 then s.setCore k f else s.setCore k g).Canonical :=
    ite_canonical (hc c) (ite_canonical (hc d) (ite_canonical (hc e) (ite_canonical h (ite_canonical (hc f) (hc g)))))
  unfold writeCoreCr
  exact ite_canonical (popSq_canonical h _) (ite_canonical (writeSlotpart_canonical h _ _) (ite_canonical (writeBankpart_canonical h _ _ _)
    (ite_canonical (writeBankpart_canonical h _ _ _) (ite_canonical (writeTroot_canonical h _ _) (ite_canonical (writeQtable_canonical h _ _)
    (ite_canonical (hc _) (ite_canonical (hc _) (ite_canonical (hc _) (ite_canonical (hc _) (ite_canonical h (ite_canonical (hc _) (ite_canonical h (ite_canonical hw
    (ite_canonical (setExport_canonical h _) (ite_canonical (setSenslim_canonical h _) (ite_canonical h (hlast _ _ _ _ _)))))))))))))))))

theorem writeCr_canonical {s : State} (h : s.Canonical) (n : Nat) (v : Word) : (writeCr s n v).Canonical := by
  unfold writeCr
  grind [State.setMe_canonical, writeCoreCr_canonical]

theorem execCrr_canonical {s : State} (h : s.Canonical) (d : BitVec 5) (c : BitVec 10) {u : State} : execCrr d c s = .next u → u.Canonical := by
  unfold execCrr
  grind [trap_canonical, writeRetire_canonical, atLeast_canonical]

theorem execCrw_canonical {s : State} (h : s.Canonical) (d a : BitVec 5) (c : BitVec 10) {u : State} : execCrw d a c s = .next u → u.Canonical := by
  unfold execCrw
  grind [trap_canonical, writeRetire_canonical, atLeast_canonical, writeCr_canonical]

theorem execCrSqpopWrite_canonical {s : State} (h : s.Canonical) (core : Nat) (_v : Word) {u : State} :
    execCrSqpopWrite core _v s = .next u → u.Canonical := by
  unfold execCrSqpopWrite
  grind [popSq_canonical]

theorem execCrTrootWrite_canonical {s : State} (h : s.Canonical) (core : Nat) (v : Word) {u : State} :
    execCrTrootWrite core v s = .next u → u.Canonical := by
  unfold execCrTrootWrite
  grind [writeTroot_canonical]

theorem execCrSlotpartWrite_canonical {s : State} (h : s.Canonical) (core : Nat) (v : Word) {u : State} :
    execCrSlotpartWrite core v s = .next u → u.Canonical := by
  unfold execCrSlotpartWrite
  grind [writeSlotpart_canonical]

theorem execCrBankpartWrite_canonical {s : State} (h : s.Canonical) (core : Nat) (hi : Bool) (v : Word) {u : State} :
    execCrBankpartWrite core hi v s = .next u → u.Canonical := by
  unfold execCrBankpartWrite
  grind [writeBankpart_canonical]

theorem applySlotpart_canonical {s : State} (h : s.Canonical) (k slot : Nat) : (applySlotpart s k slot).Canonical := by
  unfold applySlotpart
  grind [State.setCore_canonical, vacate_canonical, parkPoint_canonical]

/-! ### Launching and ending -/

theorem State.raiseSdie_canonical {s : State} (h : s.Canonical) (c : Nat) : (State.raiseSdie s c).Canonical := h

theorem sdieStore_canonical {s : State} (h : s.Canonical) (t : Target) (bs : ByteList) (side : Option Word) : (sdieStore s t bs side).Canonical := by
  unfold sdieStore
  grind [storeQuiet_canonical, takeRound_canonical, State.raiseSdie_canonical]

theorem sdieRead_canonical {s : State} (h : s.Canonical) (t : Target) : (sdieRead s t).2.Canonical := by
  unfold sdieRead
  grind [loadQuiet_canonical, State.raiseSdie_canonical]

theorem sdieCopy_canonical {s : State} (h : s.Canonical) (src dst : Target) : (sdieCopy s src dst).Canonical := by
  unfold sdieCopy
  grind [sdieStore_canonical, sdieRead_canonical]

theorem sdieLines_canonical {s : State} (h : s.Canonical) (va : Nat) (n : Need) (k : Nat) : (sdieLines s va n k).2.Canonical := by
  induction k generalizing s va with
  | zero => exact h
  | succ k ih =>
    have hc := check_canonical h (sdieWho s) va { n with size := 64 }
    unfold sdieLines
    split <;> rename_i e1 <;> rw [e1] at hc
    · exact hc
    · split
      · exact hc
      · have hl := ih hc (va + 64)
        split <;> rename_i e2 <;> rw [e2] at hl <;> exact hl

theorem sdieBytes_canonical {s : State} (h : s.Canonical) (l : List Target) : (sdieBytes s l).2.Canonical := by
  induction l generalizing s with
  | nil => exact h
  | cons t l ih => exact ih (sdieRead_canonical h t)

theorem deviceGates_canonical {s : State} (h : s.Canonical) (l : List Nat) : (deviceGates s l).2.Canonical := by
  induction l generalizing s with
  | nil => exact h
  | cons a l ih =>
    have hg := deviceGate_canonical h a
    unfold deviceGates
    split <;> rename_i e1 <;> rw [e1] at hg
    · exact hg
    · exact ih hg

theorem deviceJoin_canonical {s : State} (h : s.Canonical) (a : Word) : (deviceJoin s a).2.Canonical := by
  have hc := check_canonical h (sdieWho s) a.toNat { r := true, w := true, size := 128, atomic := true }
  unfold deviceJoin
  split <;> rename_i e1 <;> rw [e1] at hc
  · exact h
  · have hg := deviceGates_canonical hc
    split <;> rename_i e2 <;> have hs := (congrArg (State.Canonical ·.2) e2).mp (hg _)
    · exact hs
    · split <;> rename_i hj
      · exact hs
      · exact takeRound_canonical (State.raiseSdie_canonical (joinAt_canonical hs _ _ _ _ hj) _) _ _

theorem tryJoin_canonical {s : State} (h : s.Canonical) (id : Nat) (a : Word) : (tryJoin s id a).1.Canonical := by
  unfold tryJoin
  grind [State.canonical_mem, deviceJoin_canonical]

theorem registerAt_canonical {s : State} (h : s.Canonical) (id : Nat) (cls : List Nat) : (registerAt s id cls).Canonical := by
  unfold registerAt
  grind [State.canonical_mem, foldl_canonical]

theorem trackRcb_canonical {s : State} (h : s.Canonical) (id : Nat) (cls : List Nat) : (trackRcb s id cls).Canonical := by
  unfold trackRcb
  grind [State.track_canonical, foldl_canonical]

theorem launchRcb_canonical {s : State} (h : s.Canonical) (id : Nat) (dbg : Option Nat) {u : State} : launchRcb s id dbg = some u → u.Canonical := by
  have hput {s : State} (hs : s.Canonical) (l : List EntryWait) : ({ s with entryWaits := l } : State).Canonical := hs
  unfold launchRcb
  split
  · exact fun e => nomatch e
  · split
    · exact fun e => nomatch e
    · extract_lets run g cls0 cls
      split
      · exact fun e => nomatch e
      · intro e
        rw [← Option.some.inj e]
        refine foldl_canonical (fun u c hu => State.poll_canonical hu c) (State.post_canonical (hput ?_ _) _) _
        exact State.raiseSdie_canonical (State.physWrite_canonical (registerAt_canonical (State.setReg_canonical (trackRcb_canonical h _ _) _ _) _ _) _ _ _) _

theorem execEntryThreadCreate_canonical {s : State} (h : s.Canonical) (core slot rcb : Nat) {u : State} : execEntryThreadCreate core slot rcb s = .next u → u.Canonical := by
  have hput {s : State} (hs : s.Canonical) (l : List EntryWait) : ({ s with entryWaits := l } : State).Canonical := hs
  unfold execEntryThreadCreate
  split
  · exact fun e => nomatch e
  · extract_lets w g c
    split
    · exact fun e => Host.Outcome.next.inj e ▸ h
    · split <;> rename_i hc
      · exact fun e => Host.Outcome.next.inj e ▸ createContext_canonical_error h _ _ _ _ _ _ _ _ _ hc
      · exact fun e => Host.Outcome.next.inj e ▸ hput (createContext_canonical_ok h _ _ _ _ _ _ _ _ _ hc) _

theorem exhaust_canonical {s : State} (h : s.Canonical) (rcb : Nat) : (exhaust s rcb).Canonical := by
  unfold exhaust
  grind [State.canonical_mem, State.mapCtxs_canonical, budgetPoint_canonical, foldl_canonical]

theorem addConsumed_canonical {s : State} (h : s.Canonical) (rcb : Nat) : (addConsumed s rcb).Canonical := by
  unfold addConsumed
  extract_lets g used s1 s2 g2 s3
  have h2 : s2.Canonical := State.setReg_canonical (State.physWrite_canonical h _ _ _) _ _
  have h3 : s3.Canonical := exhaust_canonical (State.setReg_canonical h2 _ _) _
  exact ite_canonical h (ite_canonical h (ite_canonical h2 (ite_canonical h3 (rcbEvent_canonical h3 _ _))))

theorem execConsumedUpdate_canonical {s : State} (h : s.Canonical) (rcb : Nat) {u : State} : execConsumedUpdate rcb s = .next u → u.Canonical := by
  unfold execConsumedUpdate
  grind [addConsumed_canonical]

theorem renew_canonical {s : State} (h : s.Canonical) (r : ThreadRef) : (renew s r).Canonical := by
  unfold renew
  grind [State.setCtx_canonical, bindHome_canonical]

theorem execPeriodStart_canonical {s : State} (h : s.Canonical) {u : State} : execPeriodStart s = .next u → u.Canonical := by
  have hput {s : State} (hs : s.Canonical) (l : SMap Core) : ({ s with cores := l } : State).Canonical := hs
  unfold execPeriodStart
  extract_lets ids s1 s2 s3 back
  intro e
  rw [← Host.Outcome.next.inj e]
  refine foldl_canonical (fun u r hu => renew_canonical hu r) (hput (State.mapCtxs_canonical (foldl_canonical (fun u i hu => ?_) h ids) _) _) back
  exact State.setReg_canonical (ite_canonical (State.physWrite_canonical hu _ _ _) hu) _ _

theorem returnSpilled_canonical {s : State} (h : s.Canonical) (k : Nat) (e : BudgetSpill) : (returnSpilled s k e).Canonical := by
  unfold returnSpilled
  grind [State.canonical_mem, bindHome_canonical, needCtx_canonical, savedWords_canonical, restoreCtx_canonical]

theorem returnAll_canonical {s : State} (h : s.Canonical) : (returnAll s).Canonical := by
  unfold returnAll
  grind [returnSpilled_canonical, foldl_canonical]

theorem countQuiet_canonical {s : State} (h : s.Canonical) (rcb : Nat) : (countQuiet s rcb).Canonical := by
  unfold countQuiet
  grind [State.canonical_mem, State.setReg_canonical]

theorem execQuiescent_canonical {s : State} (h : s.Canonical) (rcb : Nat) {u : State} : execQuiescent rcb s = .next u → u.Canonical := by
  unfold execQuiescent
  grind [State.setReg_canonical, rcbEvent_canonical]

end Sys2Proof.Machine
end

section
/-! SUPPORT for O58 (R35). What keeps the canonical form of the memory: the host link, the debug port, the platform, the crossbar and the scalar groups. -/

namespace Sys2Proof.Machine

/-! ### Launching and ending -/

theorem readNodes_canonical {s : State} (h : s.Canonical) (base n k : Nat) : (readNodes s base n k).2.Canonical := by
  induction k generalizing s with
  | zero => exact h
  | succ k ih =>
    have hl := sdieLines_canonical h (base + 256 * (n - (k + 1))) { r := true } 4
    unfold readNodes
    split <;> rename_i e1 <;> rw [e1] at hl
    · exact hl
    · rename_i l _
      have hb := sdieBytes_canonical hl l
      dsimp only
      split
      · exact hb
      · have hr := ih (hb)
        split <;> rename_i e2 <;> exact (congrArg (State.Canonical ·.2) e2).mp hr

theorem paramLines_canonical {s : State} (h : s.Canonical) (d : GraphDesc) (slot : Nat) (l : List GraphNode) (i : Nat) : (paramLines s d slot l i).2.Canonical := by
  induction l generalizing s i with
  | nil => exact h
  | cons x xs ih =>
    have hl := sdieLines_canonical h x.params { r := true } d.lines
    unfold paramLines
    split <;> rename_i e1 <;> rw [e1] at hl
    · exact hl
    · have hw := sdieLines_canonical hl (d.frames + (slot * d.count + i) * (64 * d.lines)) { w := true } d.lines
      split <;> rename_i e2 <;> rw [e2] at hw
      · exact hw
      · have hr := ih hw (i + 1)
        split <;> rename_i e3 <;> exact (congrArg (State.Canonical ·.2) e3).mp hr

theorem nodeFailed_canonical {s : State} (h : s.Canonical) (id : Nat) : (nodeFailed s id).Canonical := faultEvent_canonical h _ _ _ _

theorem launchNodes_canonical {s : State} (h : s.Canonical) (base : Nat) (l : List Nat) : (launchNodes s base l).1.Canonical := by
  induction l generalizing s with
  | nil => exact h
  | cons i t ih =>
    unfold launchNodes
    split
    · rename_i hl
      exact ih (launchRcb_canonical h _ _ hl)
    · exact nodeFailed_canonical h _

theorem launchGraph_canonical {s : State} (h : s.Canonical) (addr : Nat) {u : State} : launchGraph s addr = .launched u → u.Canonical := by
  have hput {s : State} (hs : s.Canonical) (d : Sdie) : ({ s with sdie := d } : State).Canonical := hs
  have hl := sdieLines_canonical h addr { r := true, w := true } 1
  unfold launchGraph
  split
  · exact fun e => nomatch e
  · split
    · rename_i e1
      rw [e1] at hl
      extract_lets b s2
      have h2 : s2.Canonical := sdieBytes_canonical hl _
      split
      · exact fun e => nomatch e
      · rename_i d _
        have hr := readNodes_canonical h2 d.nodes d.count d.count
        split <;> rename_i e2 <;> rw [e2] at hr
        · exact fun e => nomatch e
        · extract_lets succ slot base first pending
          split
          · exact fun e => nomatch e
          · split
            · exact fun e => nomatch e
            · have hp := paramLines_canonical hr d slot
              split <;> rename_i e3
              · exact fun e => nomatch e
              · extract_lets s3 s4 s5 r
                intro e
                rw [← GraphRes.launched.inj e]
                have h3 : s3.Canonical := foldl_canonical (fun u p hu => sdieCopy_canonical hu p.1 p.2) ((congrArg (State.Canonical ·.2) e3).mp (hp _ _)) _
                have h5 : s5.Canonical := foldl_canonical (fun u p hu => sdieStore_canonical (sdieStore_canonical hu _ _ _) _ _ _) (sdieStore_canonical h3 _ _ _) _
                have hn : r.1.Canonical := launchNodes_canonical h5 base first
                exact ite_canonical hn (hput hn _)
    · exact fun e => nomatch e

theorem replayEnd_canonical {s : State} (h : s.Canonical) (p : Replay) (id : Nat) : (replayEnd s p id).Canonical := by
  unfold replayEnd
  grind [State.canonical_mem, tryJoin_canonical, launchNodes_canonical]

theorem afterEnd_canonical {s : State} (h : s.Canonical) (id : Nat) : (afterEnd s id).Canonical := by
  unfold afterEnd
  grind [State.canonical_mem, State.setReg_canonical, replayEnd_canonical]

theorem endEntryNeeds_canonical {s : State} (h : s.Canonical) (rcb : Nat) : (endEntryNeeds s rcb).Canonical := by
  unfold endEntryNeeds
  grind [endNeeds_canonical, foldl_canonical]

theorem execRcbEnd_canonical {s : State} (h : s.Canonical) (rcb : Nat) {u : State} : execRcbEnd rcb s = .next u → u.Canonical := by
  unfold execRcbEnd
  grind [State.canonical_mem, State.physWrite_canonical, State.setReg_canonical, tryJoin_canonical, afterEnd_canonical, endEntryNeeds_canonical]

theorem execRcbJoinRetry_canonical {s : State} (h : s.Canonical) (rcb : Nat) {u : State} : execRcbJoinRetry rcb s = .next u → u.Canonical := by
  unfold execRcbJoinRetry
  grind [State.canonical_mem, deviceJoin_canonical, afterEnd_canonical]

/-! ### The host link and peers -/

theorem offStream_canonical {s : State} (h : s.Canonical) (off : Nat) : (offStream s off).Canonical := by
  unfold offStream
  grind [State.emit_canonical]

theorem State.setRing_canonical {s : State} (h : s.Canonical) (r : Ring) : (State.setRing s r).Canonical := h

theorem sendPart_canonical {s : State} (h : s.Canonical) (w : Window) (x : Option Nat × Nat × Nat) : (sendPart s w x).Canonical := by
  unfold sendPart
  grind [State.emit_canonical, weirPass_canonical, State.setWeir_canonical]

theorem rangeWatch_canonical {s : State} (h : s.Canonical) (w : Who) (pa n : Nat) : (rangeWatch s w pa n).Canonical := by
  unfold rangeWatch
  grind [watchReport_canonical, foldl_canonical]

theorem execBar2Read_canonical {s : State} (h : s.Canonical) (dest : TlpAddr) (len : Nat) {u : State} :
    execBar2Read dest len s = .next u → u.Canonical := by
  unfold execBar2Read
  grind [State.emit_canonical, offStream_canonical, sendPart_canonical, rangeWatch_canonical, foldl_canonical]

theorem portWrite_canonical {s : State} (h : s.Canonical) (port n pa : Nat) (bs : ByteList) : (portWrite s port n pa bs).2.Canonical := by
  induction n generalizing s pa bs with
  | zero => exact h
  | succ n ih =>
    unfold portWrite
    dsimp only
    split
    · exact h
    · exact ih (takeRound_canonical (storeQuiet_canonical h _ _ _ _) _ _) _ _

theorem execBar2Write_canonical {s : State} (h : s.Canonical) (dest : TlpAddr) (bytes : ByteList) {u : State} :
    execBar2Write dest bytes s = .next u → u.Canonical := by
  unfold execBar2Write
  grind [State.emit_canonical, offStream_canonical, State.setRing_canonical, portWrite_canonical]

theorem doorbell_canonical {s : State} (h : s.Canonical) (v : Word) : (doorbell s v).Canonical := by
  unfold doorbell
  grind [State.post_canonical, State.setRing_canonical]

theorem execHcRingtail_canonical {s : State} (h : s.Canonical) (word : TlpWord) {u : State} : execHcRingtail word s = .next u → u.Canonical := by
  unfold execHcRingtail
  grind [offStream_canonical, doorbell_canonical]

theorem execHcRingctl_canonical {s : State} (h : s.Canonical) (word : TlpWord) {u : State} : execHcRingctl word s = .next u → u.Canonical := by
  unfold execHcRingctl
  grind [offStream_canonical, State.setRing_canonical]

theorem windowWrite_canonical {s : State} (h : s.Canonical) (off : Nat) (v : Word) : (windowWrite s off v).Canonical := by
  unfold windowWrite
  grind [State.setRing_canonical, doorbell_canonical]

theorem execBar0Write_canonical {s : State} (h : s.Canonical) (dest : TlpAddr) (op : WindowOp) {u : State} :
    execBar0Write dest op s = .next u → u.Canonical := by
  unfold execBar0Write
  grind [State.emit_canonical, offStream_canonical, State.setRing_canonical, windowWrite_canonical]

theorem cmdOpen_canonical {s : State} (h : s.Canonical) (ops : ByteList) {a : Nat × Nat × State} : cmdOpen s ops = some a → a.2.2.Canonical := by
  unfold cmdOpen
  grind [State.journal_canonical, State.setRing_canonical]

theorem cmdLaunch_canonical {s : State} (h : s.Canonical) (ops : ByteList) {a : Nat × Nat × State} : cmdLaunch s ops = some a → a.2.2.Canonical := by
  unfold cmdLaunch
  grind [launchRcb_canonical]

theorem cmdGraph_canonical {s : State} (h : s.Canonical) (ops : ByteList) {a : Nat × Nat × State} : cmdGraph s ops = some a → a.2.2.Canonical := by
  unfold cmdGraph
  split <;> intro e
  · exact Option.some.inj e ▸ h
  · exact nomatch e
  · rename_i hg
    exact Option.some.inj e ▸ launchGraph_canonical h _ hg

theorem importLines_canonical {s : State} (h : s.Canonical) (host dst n : Nat) : (importLines s host dst n).Canonical := by
  induction n with
  | zero => exact h
  | succ n ih => exact sdieStore_canonical ih _ _ _

theorem cmdImport_canonical {s : State} (h : s.Canonical) (ops : ByteList) {a : Nat × Nat × State} : cmdImport s ops = some a → a.2.2.Canonical := by
  unfold cmdImport
  grind [importLines_canonical]

theorem cmdSummary_canonical {s : State} (h : s.Canonical) (ops : ByteList) {a : Nat × Nat × State} :
    cmdSummary s ops = some a → a.2.2.Canonical := by
  unfold cmdSummary
  grind [State.writeAt_canonical]

theorem cmdJfree_canonical {s : State} (h : s.Canonical) (ops : ByteList) {a : Nat × Nat × State} : cmdJfree s ops = some a → a.2.2.Canonical := by
  unfold cmdJfree
  grind [setExport_canonical]

theorem command_canonical {s : State} (h : s.Canonical) (code : Nat) (ops : ByteList) {a : Nat × Nat × State} :
    command s code ops = some a → a.2.2.Canonical := by
  unfold command
  grind [cmdOpen_canonical, cmdLaunch_canonical, cmdGraph_canonical, cmdImport_canonical, cmdSummary_canonical, cmdJfree_canonical]

theorem complete_canonical {s : State} (h : s.Canonical) (seq : Word) (status code result : Nat) : (complete s seq status code result).Canonical := by
  unfold complete
  grind [State.emit_canonical, State.writeAt_canonical, State.setRing_canonical]

theorem runCommand_canonical {s : State} (h : s.Canonical) (seq : Word) (code : Nat) (ops : ByteList) {u : State} : runCommand s seq code ops = some u → u.Canonical := by
  unfold runCommand
  split
  · exact fun e => nomatch e
  · rename_i hc
    exact fun e => Option.some.inj e ▸ complete_canonical (command_canonical h _ _ hc) _ _ _ _

theorem commandStep_canonical {s : State} (h : s.Canonical) (seq : Word) (code : Nat) (ops : ByteList) {u : State} :
    commandStep s seq code ops = .next u → u.Canonical := by
  unfold commandStep
  grind [runCommand_canonical]

theorem execRingOpen_canonical {s : State} (h : s.Canonical) (entry : ByteList) {u : State} : execRingOpen entry s = .next u → u.Canonical := by
  unfold execRingOpen
  grind [commandStep_canonical]

theorem execRingLaunch_canonical {s : State} (h : s.Canonical) (seq : Word) (operands : ByteList) {u : State} :
    execRingLaunch seq operands s = .next u → u.Canonical := by
  unfold execRingLaunch
  grind [commandStep_canonical]

theorem execRingGraph_canonical {s : State} (h : s.Canonical) (seq : Word) (operands : ByteList) {u : State} :
    execRingGraph seq operands s = .next u → u.Canonical := by
  unfold execRingGraph
  grind [commandStep_canonical]

theorem execRingImport_canonical {s : State} (h : s.Canonical) (seq : Word) (operands : ByteList) {u : State} :
    execRingImport seq operands s = .next u → u.Canonical := by
  unfold execRingImport
  grind [commandStep_canonical]

theorem execRingSummary_canonical {s : State} (h : s.Canonical) (seq : Word) (operands : ByteList) {u : State} :
    execRingSummary seq operands s = .next u → u.Canonical := by
  unfold execRingSummary
  grind [commandStep_canonical]

theorem execRingJfree_canonical {s : State} (h : s.Canonical) (seq : Word) (operands : ByteList) {u : State} :
    execRingJfree seq operands s = .next u → u.Canonical := by
  unfold execRingJfree
  grind [commandStep_canonical]

theorem ringError_canonical {s : State} (h : s.Canonical) (status : Nat) (num : Word) : (ringError s status num).Canonical := by
  unfold ringError
  grind [State.journal_canonical]

theorem handleEntry_canonical {s : State} (h : s.Canonical) (entry : ByteList) {u : State} : handleEntry s entry = some u → u.Canonical := by
  unfold handleEntry
  grind [State.setRing_canonical, complete_canonical, runCommand_canonical, ringError_canonical]

theorem execRingFetch_canonical {s : State} (h : s.Canonical) {u : State} : execRingFetch s = .next u → u.Canonical := by
  unfold execRingFetch
  grind [State.post_canonical, State.raiseSdie_canonical, State.setRing_canonical, handleEntry_canonical]

theorem dropForeign_canonical {s : State} (h : s.Canonical) (g : Grant) : (dropForeign s g).Canonical := h

theorem endGrant_canonical {s : State} (h : s.Canonical) (port id : Nat) : (endGrant s port id).Canonical := by
  unfold endGrant
  grind [State.canonical_mem, dropForeign_canonical]

theorem noteGrant_canonical {s : State} (h : s.Canonical) (port : Nat) (rcd : LineData) : (noteGrant s port rcd).Canonical := by
  unfold noteGrant
  grind [State.canonical_mem]

theorem noteAck_canonical {s : State} (h : s.Canonical) (port : Nat) (rcd : LineData) : (noteAck s port rcd).Canonical := by
  unfold noteAck
  grind [State.canonical_mem, State.post_canonical]

theorem fenceGrants_canonical {s : State} (h : s.Canonical) : (fenceGrants s).Canonical := by
  unfold fenceGrants
  grind [endGrant_canonical, foldl_canonical]

theorem execFabricSend_canonical {s : State} (h : s.Canonical) (port : Nat) {u : State} : execFabricSend port s = .next u → u.Canonical := by
  unfold execFabricSend
  split
  · exact fun e => nomatch e
  · intro e
    rw [← Host.Outcome.next.inj e]
    split
    · exact h
    · rename_i d _
      refine ite_canonical h ?_
      have hg := deviceGate_canonical h (s.queueAddr (0xE00 + port) / 64)
      split <;> rename_i e1 <;> rw [e1] at hg
      · exact State.post_canonical hg _
      · split
        rename_i e2
        have hs := (congrArg (State.Canonical ·.2.2) e2).mp (takeHead_canonical hg _ _ _)
        have hn (c : Nat) (m : OutMsg) := noteAck_canonical (State.emit_canonical (State.raiseSdie_canonical hs c) m) port
        exact ite_canonical (hn _ _ _) (State.post_canonical (hn _ _ _) _)

theorem drainFabric_canonical {s : State} (h : s.Canonical) (n : Nat) : (drainFabric s n).Canonical := by
  have hput {s : State} (hs : s.Canonical) (d : Sdie) : ({ s with sdie := d } : State).Canonical := hs
  induction n generalizing s with
  | zero => exact h
  | succ n ih =>
    have hg := deviceGate_canonical h (s.queueAddr 0xE10 / 64)
    unfold drainFabric
    split
    · exact h
    · split <;> rename_i e1 <;> rw [e1] at hg
      · exact hg
      · split <;> rename_i ha
        · exact hg
        · exact ih (hput (State.raiseSdie_canonical (enqueueAt_canonical hg _ _ _ _ ha) _) _)

theorem execFabricReceive_canonical {s : State} (h : s.Canonical) (port : Nat) (record : BitVec 512) {u : State} :
    execFabricReceive port record s = .next u → u.Canonical := by
  unfold execFabricReceive
  grind [State.canonical_mem, noteGrant_canonical, drainFabric_canonical]

theorem peerRead_canonical {s : State} (h : s.Canonical) (p line clk lease : Nat) : (peerRead s p line clk lease).Canonical := by
  unfold peerRead
  grind [State.emit_canonical, serveHomeLoad_canonical, weirPass_canonical, State.setWeir_canonical]

theorem releasePeers_canonical {s : State} (h : s.Canonical) : (releasePeers s).Canonical := h

theorem peerAtHome_canonical {f : State → State} (hf : ∀ s, s.Canonical → (f s).Canonical) {s : State} (h : s.Canonical) (p line : Nat) (kind : FwdKind) (q : PeerReq) :
    (peerAtHome s p line kind q f).Canonical := by
  unfold peerAtHome
  split <;> rename_i hg
  · exact homeGate_canonical_error h _ _ _ _ hg
  · exact hf _ (homeGate_canonical_ok h _ _ _ _ hg)

theorem peerStore_canonical {s : State} (h : s.Canonical) (p line : Nat) (data : LineData) (side : Word) :
    (peerStore s p line data side).Canonical := by
  unfold peerStore
  grind [storeQuiet_canonical, takeRound_canonical]

theorem peerJoin_canonical {s : State} (h : s.Canonical) (p pa : Nat) (user : Bool) (q : PeerReq) : (peerJoin s p pa user q).Canonical := by
  unfold peerJoin
  dsimp only
  split <;> rename_i hg
  · exact joinGate_canonical_error h _ _ _ hg
  · have hs := joinGate_canonical_ok h _ _ _ hg
    split <;> rename_i hj
    · exact State.emit_canonical hs _
    · exact State.emit_canonical (takeRound_canonical (joinAt_canonical hs _ _ _ _ hj) _ _) _

theorem execPeerAccess_canonical {s : State} (h : s.Canonical) (q : PeerReq) {u : State} : execPeerAccess q s = .next u → u.Canonical := by
  have hreg {s : State} (hs : s.Canonical) (l : List (Nat × RegionRec)) : ({ s with regions := l } : State).Canonical := hs
  have hsdie (d : Sdie) : ({ s with sdie := d } : State).Canonical := h
  have hmicro {s : State} (hs : s.Canonical) (m : Micro) : ({ s with micro := m } : State).Canonical := hs
  have hread (p line clk lease : Nat) (s : State) (hs : s.Canonical) := peerRead_canonical hs p line clk lease
  have he (m : OutMsg) := State.emit_canonical h m
  unfold execPeerAccess
  split
  · exact fun e => nomatch e
  · intro e
    rw [← Host.Outcome.next.inj e]
    split
    · exact ite_canonical (he _) (peerAtHome_canonical (hread _ _ _ _) h _ _ _ _)
    · exact ite_canonical (he _) (peerAtHome_canonical (fun s hs => peerStore_canonical hs _ _ _ _) h _ _ _ _)
    · exact ite_canonical (he _) (peerAtHome_canonical (fun s hs => State.emit_canonical (takeRound_canonical (atomicAt_canonical hs _ _ _) _ _) _) h _ _ _ _)
    · split
      · exact he _
      · rename_i hg
        exact recordGate_canonical_error h _ _ hg
      · rename_i hg
        exact State.emit_canonical (publishRound_canonical (recordGate_canonical_ok h _ _ hg) _ _ _) _
    · split
      · exact he _
      · rename_i hg
        exact recordGate_canonical_error h _ _ hg
      · rename_i hg
        exact State.emit_canonical (recordGate_canonical_ok h _ _ hg) _
    · split
      · exact he _
      · rename_i hg
        exact recordGate_canonical_error h _ _ hg
      · rename_i hg
        exact State.emit_canonical (hreg (recordGate_canonical_ok h _ _ hg) _) _
    · exact ite_canonical (he _) (ite_canonical (hsdie _) (peerAtHome_canonical (hread _ _ _ _) h _ _ _ _))
    · exact ite_canonical (he _) (peerAtHome_canonical (fun s hs => ite_canonical (hread _ _ _ _ s hs) (State.emit_canonical (hmicro hs _) _)) h _ _ _ _)
    · exact ite_canonical h (takeImage_canonical (peerStore_canonical h _ _ _ _) _ _ _)
    · exact takeImage_canonical h _ _ _
    · exact ite_canonical (he _) (peerAtHome_canonical (fun s hs => peerJoin_canonical hs _ _ _ _) h _ _ _ _)
    · exact endGrant_canonical h _ _

/-! ### The debug port -/

theorem debugRefuse_canonical {s : State} (h : s.Canonical) : (debugRefuse s).Canonical := by
  unfold debugRefuse
  grind [State.emit_canonical]

theorem debugDone_canonical {s : State} (h : s.Canonical) : (debugDone s).Canonical := by
  unfold debugDone
  grind [State.emit_canonical]

theorem attached_canonical {f : State → State} (hf : ∀ s, s.Canonical → (f s).Canonical) {s : State} (h : s.Canonical) : (attached s f).Canonical :=
  ite_canonical (hf s h) (debugRefuse_canonical h)

theorem inControl_canonical {f : State → State} (hf : ∀ s, s.Canonical → (f s).Canonical) {s : State} (h : s.Canonical) : (inControl s f).Canonical :=
  ite_canonical (hf s h) (debugRefuse_canonical h)

theorem execDebugAttach_canonical {s : State} (h : s.Canonical) (mode : Nat) {u : State} : execDebugAttach mode s = .next u → u.Canonical := by
  unfold execDebugAttach
  grind [State.canonical_mem, State.journal_canonical, debugRefuse_canonical, debugDone_canonical]

theorem releaseStops_canonical {s : State} (h : s.Canonical) : (releaseStops s).Canonical := by
  unfold releaseStops
  grind [State.canonical_mem, State.mapCtxs_canonical]

theorem endSlot15_canonical {s : State} (h : s.Canonical) (core : Nat) : (endSlot15 s core).Canonical := by
  unfold endSlot15
  grind [State.canonical_mem, restoreSupervisor_canonical, parkPoint_canonical]

theorem execDebugDetach_canonical {s : State} (h : s.Canonical) {u : State} : execDebugDetach s = .next u → u.Canonical := by
  unfold execDebugDetach
  grind [State.canonical_mem, debugDone_canonical, attached_canonical, releaseStops_canonical, endSlot15_canonical, foldl_canonical]

theorem execDebugStop_canonical {s : State} (h : s.Canonical) (core slot : Nat) {u : State} : execDebugStop core slot s = .next u → u.Canonical := by
  unfold execDebugStop
  grind [State.setCtx_canonical, stopCtx_canonical, debugRefuse_canonical, debugDone_canonical, inControl_canonical]

theorem execDebugRelease_canonical {s : State} (h : s.Canonical) (core slot : Nat) {u : State} :
    execDebugRelease core slot s = .next u → u.Canonical := by
  unfold execDebugRelease
  grind [State.setCtx_canonical, debugRefuse_canonical, debugDone_canonical, inControl_canonical]

theorem execDebugStep_canonical {s : State} (h : s.Canonical) (core slot : Nat) {u : State} : execDebugStep core slot s = .next u → u.Canonical := by
  unfold execDebugStep
  grind [State.setCtx_canonical, debugRefuse_canonical, debugDone_canonical, inControl_canonical]

theorem execDebugClaim_canonical {s : State} (h : s.Canonical) (core : Nat) (mask : BitVec 16) {u : State} :
    execDebugClaim core mask s = .next u → u.Canonical := by
  unfold execDebugClaim
  grind [State.setCore_canonical, debugDone_canonical, inControl_canonical]

theorem execDebugReadState_canonical {s : State} (h : s.Canonical) (core : Nat) (what : DebugItem) (index : Nat) {u : State} :
    execDebugReadState core what index s = .next u → u.Canonical := by
  unfold execDebugReadState
  grind [State.emit_canonical, debugRefuse_canonical, attached_canonical]

theorem execDebugReadCr_canonical {s : State} (h : s.Canonical) (core ctx : Nat) (cr : BitVec 10) {u : State} :
    execDebugReadCr core ctx cr s = .next u → u.Canonical := by
  unfold execDebugReadCr
  grind [State.emit_canonical, debugRefuse_canonical, attached_canonical]

theorem execDebugReadContext_canonical {s : State} (h : s.Canonical) (core ctx : Nat) (off : Word) {u : State} :
    execDebugReadContext core ctx off s = .next u → u.Canonical := by
  unfold execDebugReadContext
  grind [State.emit_canonical, debugRefuse_canonical, inControl_canonical]

theorem execDebugWriteContext_canonical {s : State} (h : s.Canonical) (core ctx : Nat) (off v : Word) {u : State} :
    execDebugWriteContext core ctx off v s = .next u → u.Canonical := by
  unfold execDebugWriteContext
  grind [writeImage_canonical, debugRefuse_canonical, debugDone_canonical, inControl_canonical]

theorem sendLine_canonical {s : State} (h : s.Canonical) (line : Nat) (l : LineData × Word) : (sendLine s line l).Canonical := by
  unfold sendLine
  grind [State.emit_canonical]

theorem execDebugReadMemory_canonical {s : State} (h : s.Canonical) (line : Nat) {u : State} :
    execDebugReadMemory line s = .next u → u.Canonical := by
  unfold execDebugReadMemory
  grind [State.emit_canonical, loadQuiet_canonical, weirPass_canonical, State.setWeir_canonical, inControl_canonical, sendLine_canonical]

theorem execDebugWriteMemory_canonical {s : State} (h : s.Canonical) (line : Nat) (data : LineData) (side : Word) {u : State} :
    execDebugWriteMemory line data side s = .next u → u.Canonical := by
  unfold execDebugWriteMemory
  grind [State.emit_canonical, storeQuiet_canonical, takeRound_canonical, State.raiseSdie_canonical, debugDone_canonical, inControl_canonical]

theorem execDebugProgramPcmp_canonical {s : State} (h : s.Canonical) (core index : Nat) (v : Word) {u : State} :
    execDebugProgramPcmp core index v s = .next u → u.Canonical := by
  unfold execDebugProgramPcmp
  grind [writeCoreCr_canonical, debugDone_canonical, inControl_canonical]

theorem execDebugProgramWatch_canonical {s : State} (h : s.Canonical) (slice index : Nat) (v : Word) {u : State} :
    execDebugProgramWatch slice index v s = .next u → u.Canonical := by
  unfold execDebugProgramWatch
  grind [State.canonical_mem, State.post_canonical, debugDone_canonical, inControl_canonical]

theorem yieldSlot15_canonical {s : State} (h : s.Canonical) (core slot : Nat) : (yieldSlot15 s core slot).Canonical := by
  unfold yieldSlot15
  grind [State.canonical_mem, State.setCtx_canonical]

theorem keepSlot15_canonical {s : State} (h : s.Canonical) (core slot : Nat) : (keepSlot15 s core slot).Canonical := by
  unfold keepSlot15
  grind [State.canonical_mem]

theorem debugRegister_canonical {s : State} (h : s.Canonical) (id core : Nat) {u : State} : debugRegister s id core = some u → u.Canonical := by
  unfold debugRegister
  grind [registerAt_canonical, trackRcb_canonical, launchRcb_canonical]

theorem execDebugLaunch_canonical {s : State} (h : s.Canonical) (entry : Word) (core slot rcb : Nat) {u : State} :
    execDebugLaunch entry core slot rcb s = .next u → u.Canonical := by
  unfold execDebugLaunch
  split
  · exact fun e => nomatch e
  · refine fun e => Host.Outcome.next.inj e ▸ inControl_canonical (fun s0 h0 => ite_canonical (debugRefuse_canonical h0) ?_) h
    split <;> rename_i hr
    · exact debugRefuse_canonical h0
    · have hs := debugRegister_canonical h0 _ _ hr
      refine ite_canonical (debugRefuse_canonical h0) ?_
      split <;> rename_i hc
      · exact debugRefuse_canonical h0
      · exact debugDone_canonical (keepSlot15_canonical (createContext_canonical_ok (yieldSlot15_canonical hs _ _) _ _ _ _ _ _ _ _ _ hc) _ _)

theorem launchReady_canonical {s : State} (h : s.Canonical) (core slot rcb : Nat) :
    (∀ u, launchReady s core slot rcb = .error u → u.Canonical) ∧ ∀ u, launchReady s core slot rcb = .ok u → u.Canonical := by
  have hsame : (∀ u, (.ok s : Except State State) = .error u → u.Canonical) ∧ ∀ u, (.ok s : Except State State) = .ok u → u.Canonical :=
    ⟨fun _ e => (nomatch e), fun _ e => Except.ok.inj e ▸ h⟩
  have hn := needCtx_canonical h core .debug 24
  unfold launchReady
  split
  · split
    · exact hsame
    · split
      · exact hsame
      · split <;> rename_i e1 <;> rw [e1] at hn
        · exact ⟨fun _ e => Except.error.inj e ▸ hn, fun _ e => (nomatch e)⟩
        · exact ⟨fun _ e => (nomatch e), fun _ e => Except.ok.inj e ▸ hn⟩
  · exact hsame

theorem portReady_canonical {s : State} (h : s.Canonical) (i : Instr) : (∀ u, portReady i s = .error u → u.Canonical) ∧ ∀ u, portReady i s = .ok u → u.Canonical := by
  unfold portReady
  split
  · obtain ⟨herr, hok⟩ := launchReady_canonical h _ _ _
    split <;> rename_i e1
    · exact ⟨fun _ e => Except.error.inj e ▸ State.post_canonical (herr _ e1) _, fun _ e => (nomatch e)⟩
    · exact ⟨fun _ e => (nomatch e), fun _ e => Except.ok.inj e ▸ hok _ e1⟩
  · dsimp only
    split
    · exact ⟨fun _ e => (nomatch e), fun _ e => Except.ok.inj e ▸ h⟩
    · exact ⟨fun _ e => readyLines_canonical_error h _ _ _ e, fun _ e => readyLines_canonical_ok h _ _ _ e⟩

/-! ### Platform -/

theorem execPowerOnReset_canonical (s : State) {u : State} (e : execPowerOnReset s = .next u) : u.Canonical := by
  have hmem : u.mem = [] := by rw [← Host.Outcome.next.inj e]; rfl
  rw [State.canonical_mem, hmem]
  rfl

theorem bootKeys_canonical {s : State} (h : s.Canonical) : (bootKeys s).Canonical := h

theorem bootClear_canonical (s : State) : (bootClear s).Canonical := by
  have hclear : ({ s with mem := [], side := [], poison := [], cores := [], dispensers := [], micro := {} } : State).Canonical := rfl
  unfold bootClear
  exact State.trackTables_canonical (foldl_canonical (fun _ i hu => State.trackRecord_canonical hu i) hclear _)

theorem placeImage_canonical {s : State} (h : s.Canonical) (l : List (Nat × Byte)) : (placeImage s l).Canonical := by
  have hl (m : Memory) (hm : m.wf = true) : (l.foldl (fun m p => m.write p.1 p.2) m).wf = true := by
    induction l generalizing m with
    | nil => exact hm
    | cons p l ih => exact ih _ (Memory.wf_write m p.1 p.2 hm)
  exact hl s.mem h

theorem startSlot15_canonical {s : State} (h : s.Canonical) (core : Nat) (lv : Level) (prior : BitVec 2) (pc : Word) :
    (startSlot15 s core lv prior pc).Canonical := by
  unfold startSlot15
  grind [State.canonical_mem, State.setCtx_canonical]

theorem bootMonitor_canonical {s : State} (h : s.Canonical) : (bootMonitor s).Canonical := by
  unfold bootMonitor
  grind [State.journal_canonical, placeImage_canonical, startSlot15_canonical]

theorem bootKernel_canonical {s : State} (h : s.Canonical) : (bootKernel s).Canonical := by
  unfold bootKernel
  grind [placeImage_canonical, startSlot15_canonical, foldl_canonical]

theorem bootStage_canonical {s : State} (h : s.Canonical) (n : Nat) : (bootStage s n).Canonical :=
  ite_canonical (bootKeys_canonical h) (ite_canonical (bootClear_canonical s) (ite_canonical (bootMonitor_canonical h) (ite_canonical (bootKernel_canonical h) h)))

theorem execBringUpStage_canonical {s : State} (h : s.Canonical) (r : BootResult) {u : State} : execBringUpStage r s = .next u → u.Canonical := by
  unfold execBringUpStage
  grind [State.canonical_mem, State.post_canonical, bootStage_canonical]

theorem setPower_canonical {s : State} (h : s.Canonical) (v : Word) : (setPower s v).Canonical := by
  unfold setPower
  grind [State.canonical_mem, retime_canonical]

theorem execPowerControlWrite_canonical {s : State} (h : s.Canonical) (op : MgmtOp) {u : State} :
    execPowerControlWrite op s = .next u → u.Canonical := by
  unfold execPowerControlWrite
  grind [State.emit_canonical, setPower_canonical]

theorem watchLimits_canonical {s : State} (h : s.Canonical) : (watchLimits s).Canonical := h

theorem throttleDown_canonical {s : State} (h : s.Canonical) : (throttleDown s).Canonical := by
  unfold throttleDown
  grind [State.canonical_mem, retime_canonical]

theorem throttleUp_canonical {s : State} (h : s.Canonical) : (throttleUp s).Canonical := by
  unfold throttleUp
  grind [State.canonical_mem, retime_canonical]

theorem gatingStep_canonical {s : State} (h : s.Canonical) (deeper : Bool) : (gatingStep s deeper).Canonical := by
  unfold gatingStep
  grind [State.canonical_mem, retime_canonical]

theorem controlPower_canonical {s : State} (h : s.Canonical) : (controlPower s).Canonical := by
  unfold controlPower
  grind [throttleDown_canonical, throttleUp_canonical, gatingStep_canonical]

theorem execMachineCheck_canonical {s : State} (h : s.Canonical) (line die core : Nat) {u : State} :
    execMachineCheck line die core s = .next u → u.Canonical := by
  unfold execMachineCheck
  grind [State.canonical_mem, State.logMachineCheck_canonical, pushSq_canonical]

theorem execWearUpdate_canonical {s : State} (h : s.Canonical) (fig : DieWear) {u : State} : execWearUpdate fig s = .next u → u.Canonical := by
  unfold execWearUpdate
  grind [State.canonical_mem]

/-! ### The crossbar -/

theorem execXbsetCtr_canonical {s : State} (h : s.Canonical) (d a b : BitVec 5) {u : State} : execXbsetCtr d a b s = .next u → u.Canonical := by
  unfold execXbsetCtr
  grind [State.setMyCore_canonical, trap_canonical, writeRetire_canonical]

theorem execXbsetTerm_canonical {s : State} (h : s.Canonical) (d a b : BitVec 5) {u : State} : execXbsetTerm d a b s = .next u → u.Canonical := by
  unfold execXbsetTerm
  grind [State.setMyCore_canonical, trap_canonical, writeRetire_canonical]

theorem execXbsetStage_canonical {s : State} (h : s.Canonical) (d a b : BitVec 5) {u : State} : execXbsetStage d a b s = .next u → u.Canonical := by
  unfold execXbsetStage
  grind [State.setMyCore_canonical, State.setS_canonical, awaitReply_canonical, trap_canonical, checkMe_canonical, withLine_canonical]

theorem execXbarmOn_canonical {s : State} (h : s.Canonical) (d a : BitVec 5) {u : State} : execXbarmOn d a s = .next u → u.Canonical := by
  unfold execXbarmOn
  grind [State.setMyCore_canonical, trap_canonical, writeRetire_canonical]

theorem execXbarmOff_canonical {s : State} (h : s.Canonical) (d a : BitVec 5) {u : State} : execXbarmOff d a s = .next u → u.Canonical := by
  unfold execXbarmOff
  grind [State.setMyCore_canonical, trap_canonical, writeRetire_canonical]

theorem nextTerm_canonical {s : State} (h : s.Canonical) (k i : Nat) : (nextTerm s k i).Canonical := by
  unfold nextTerm
  grind [State.canonical_mem]

theorem execXbarTermFire_canonical {s : State} (h : s.Canonical) (core term : Nat) {u : State} :
    execXbarTermFire core term s = .next u → u.Canonical := by
  unfold execXbarTermFire
  grind [State.setCore_canonical, State.post_canonical, nextTerm_canonical]

theorem failLaunch_canonical {s : State} (h : s.Canonical) (k i : Nat) (g : Staged) (cause : Nat) : (failLaunch s k i g cause).Canonical := by
  unfold failLaunch
  grind [State.setCore_canonical, pushSq_canonical]

theorem execStagedLaunch_canonical {s : State} (h : s.Canonical) (core reg : Nat) {u : State} :
    execStagedLaunch core reg s = .next u → u.Canonical := by
  unfold execStagedLaunch
  grind [State.setCore_canonical, State.post_canonical, acceptBarge_canonical, failLaunch_canonical]

/-! ### Issue -/

theorem readPrefix_canonical {s : State} (h : s.Canonical) (again : Bool) (c : Chain) : (readPrefix s again c).Canonical := by
  unfold readPrefix
  grind [State.setMe_canonical, trap_canonical]

theorem countUse_canonical {s : State} (h : s.Canonical) (k : Nat) : (countUse s k).Canonical := by
  unfold countUse
  grind [State.canonical_mem, State.setReg_canonical, foldl_canonical]

theorem offerCount_canonical {s : State} (h : s.Canonical) : (offerCount s).Canonical := by
  unfold offerCount
  grind [State.setCore_canonical, applySlotpart_canonical, countUse_canonical]

theorem State.postNew_canonical {s : State} (h : s.Canonical) (l : List Instr) : (State.postNew s l).Canonical := by
  unfold State.postNew
  grind [State.post_canonical]

theorem crossbars_canonical {s : State} (h : s.Canonical) : (crossbars s).Canonical := by
  unfold crossbars
  grind [evalXbar_canonical, foldl_canonical]

theorem hostStores_canonical {s : State} (h : s.Canonical) : (hostStores s).Canonical := by
  unfold hostStores
  grind [State.writeAt_canonical, State.writeBoth_canonical, foldl_canonical]

theorem ofOwnAccord_canonical {s : State} (h : s.Canonical) (e : Nat × Nat × Nat) : (ofOwnAccord s e).Canonical := by
  unfold ofOwnAccord
  grind [putOnMesh_canonical, spontaneous_canonical]

theorem everyKilocycle_canonical {s : State} (h : s.Canonical) : (everyKilocycle s).Canonical := by
  unfold everyKilocycle
  grind [addConsumed_canonical, controlPower_canonical, State.postNew_canonical, foldl_canonical]

theorem everyMillisecond_canonical {s : State} (h : s.Canonical) : (everyMillisecond s).Canonical := by
  unfold everyMillisecond
  grind [journalTimer_canonical, egressEntries_canonical, fenceGrants_canonical, foldl_canonical]

theorem weirs_canonical {s : State} (h : s.Canonical) : (weirs s).Canonical := by
  unfold weirs
  grind [refill_canonical, expire_canonical, foldl_canonical]

theorem endCycle_canonical {s : State} (h : s.Canonical) : (endCycle s).Canonical := by
  unfold endCycle
  grind [State.canonical_mem, withdrawAll_canonical, meshCycle_canonical, returnAll_canonical, countQuiet_canonical, drainFabric_canonical, releasePeers_canonical, watchLimits_canonical, State.postNew_canonical, crossbars_canonical, hostStores_canonical, ofOwnAccord_canonical, everyKilocycle_canonical, everyMillisecond_canonical, weirs_canonical, foldl_canonical]

theorem endOffer_canonical {s : State} (h : s.Canonical) : (endOffer s).Canonical := by
  unfold endOffer
  grind [State.canonical_mem, endCycle_canonical]

theorem fetchLine_canonical {s : State} (h : s.Canonical) (t : Target) : (fetchLine s t).2.Canonical := by
  unfold fetchLine
  grind [State.canonical_mem, watchReport_canonical]

theorem fetch_canonical {s : State} (h : s.Canonical) : (fetch s).2.Canonical := by
  unfold fetch
  grind [checkMe_canonical, fetchLine_canonical]

theorem breakAt_canonical {s : State} (h : s.Canonical) : (breakAt s).Canonical := by
  unfold breakAt
  grind [State.setMe_canonical, stopCtx_canonical, takeTrap_canonical]

/-! ### Scalar groups -/

theorem binary_canonical {s : State} (h : s.Canonical) (d a b : BitVec 5) (f : Word → Word → Word) : (binary s d a b f).Canonical := by
  unfold binary
  grind [writeRetire_canonical]

theorem unary_canonical {s : State} (h : s.Canonical) (d a : BitVec 5) (f : Word → Word) : (unary s d a f).Canonical := by
  unfold unary
  grind [writeRetire_canonical]

theorem execPtrunc_canonical {s : State} (h : s.Canonical) (d a b : BitVec 5) {u : State} : execPtrunc d a b s = .next u → u.Canonical := by
  unfold execPtrunc
  grind [trap_canonical, writeRetire_canonical]

theorem execPdig_canonical {s : State} (h : s.Canonical) (d a b : BitVec 5) {u : State} : execPdig d a b s = .next u → u.Canonical := by
  unfold execPdig
  grind [trap_canonical, writeRetire_canonical]

theorem execPcat_canonical {s : State} (h : s.Canonical) (d a b : BitVec 5) {u : State} : execPcat d a b s = .next u → u.Canonical := by
  unfold execPcat
  grind [trap_canonical, writeRetire_canonical]

theorem immediate_canonical {s : State} (h : s.Canonical) (d a : BitVec 5) (i : BitVec 15) (f : Word → Word → Word) :
    (immediate s d a i f).Canonical := by
  unfold immediate
  grind [writeRetire_canonical]

theorem shiftImm_canonical {s : State} (h : s.Canonical) (d a : BitVec 5) (f : Word → Word) : (shiftImm s d a f).Canonical := by
  unfold shiftImm
  grind [trap_canonical, unary_canonical]

end Sys2Proof.Machine
end

section
/-! O58 (R35): every row and every step keep the canonical form of the memory. -/

namespace Sys2Proof.Machine

theorem next_canonical {t u : State} (e : (.next t : Result) = .next u) (h : t.Canonical) : u.Canonical := Host.Outcome.next.inj e ▸ h

/-- Every row of the tables keeps the canonical form. -/
theorem exec_canonical {s : State} (h : s.Canonical) (i : Instr) {u : State} (e : exec i s = .next u) : u.Canonical := by
  have hput (p : Platform) : ({ s with platform := p } : State).Canonical := h
  cases i with
  | add | sub | and | or | xor | andn | orn | min | max | minu | maxu | slt | sltu | seq | sne | mul | mulh | mulhu | div | divu | rem | remu | shl |
      shr | sra | rot | exts | zip | zaddr | zaddc => exact next_canonical e (binary_canonical h _ _ _ _)
  | clz | ctz | popc | brev | zrow | zcol => exact next_canonical e (unary_canonical h _ _ _)
  | ptrunc => exact execPtrunc_canonical h _ _ _ e
  | pdig => exact execPdig_canonical h _ _ _ e
  | pcat => exact execPcat_canonical h _ _ _ e
  | addi | andi | ori | xori | slti | sltiu => exact next_canonical e (immediate_canonical h _ _ _ _)
  | shli | shri | srai => exact next_canonical e (shiftImm_canonical h _ _ _)
  | lih => exact next_canonical e (writeRetire_canonical h _ _)
  | ldB | ldH | ldW | ldD | ldzB | ldzH | ldzW => exact next_canonical e (load_canonical h _ _ _ _ _)
  | ldx => exact execLdx_canonical h _ _ _ e
  | stB | stH | stW | stD => exact next_canonical e (store_canonical h _ _ _ _)
  | ldbB | ldbH | ldbW | ldbD | ldbzB | ldbzH | ldbzW => exact next_canonical e (ldb_canonical h _ _ _ _ _)
  | amoadd | amoand | amoor | amoxor | amomin | amomax | amominu | amomaxu | amoswp | cas => exact next_canonical e (atomic_canonical h _ _ _ _ _)
  | join => exact execJoin_canonical h _ _ e
  | nop => exact next_canonical e (retire_canonical h)
  | beq | bne | blt | bge | bltu | bgeu => exact next_canonical e (branch_canonical h _ _ _ _)
  | j => exact next_canonical e (retireTo_canonical h _)
  | jal => exact next_canonical e (call_canonical h _)
  | jr => exact next_canonical e (jumpTo_canonical (fun _ hu => retireTo_canonical hu _) h _)
  | callr => exact next_canonical e (jumpTo_canonical (fun _ hu => call_canonical hu _) h _)
  | ret => exact execRet_canonical h e
  | callat => exact execCallat_canonical h _ _ _ e
  | reply => exact execReply_canonical h _ _ e
  | waitr => exact execWaitr_canonical h _ _ e
  | waitw => exact execWaitw_canonical h e
  | waite | barr | bwait | btest => exact next_canonical e (barrierInstr_canonical h _ _ _ _ _)
  | waiteFill | waiteFree => exact next_canonical e (withBasin_canonical (fun _ _ => ite_canonical (leave_canonical h _ _ _) (retire_canonical
      (observeBasin_canonical h _ _))) h _)
  | enq => exact execEnq_canonical h _ _ _ e
  | deq | deqt => exact next_canonical e (deq_canonical h _ _ _ _)
  | send => exact execSend_canonical h _ _ _ _ e
  | rpub => exact next_canonical e (withRegion_canonical (fun _ _ _ hu => State.post_canonical (leave_canonical hu _ _ _) _) h _ _)
  | racq => exact execRacq_canonical h _ _ e
  | rfloor => exact execRfloor_canonical h _ _ e
  | rsub => exact execRsub_canonical h _ _ e
  | rfloorClr => exact execRfloorClr_canonical h _ e
  | binit => exact execBinit_canonical h _ _ e
  | bexp => exact execBexp_canonical h _ _ e
  | bhset => exact execBhset_canonical h _ _ e
  | bsni => exact execBsni_canonical h _ _ e
  | bsnp => exact execBsnp_canonical h _ _ e
  | bsnc => exact execBsnc_canonical h _ e
  | bsng => exact execBsng_canonical h _ _ e
  | bsnf => exact execBsnf_canonical h _ e
  | tdef => exact next_canonical e (retire_canonical (State.setT_canonical h _ _))
  | tldd => exact execTldd_canonical h _ _ e
  | tstd => exact execTstd_canonical h _ _ e
  | text => exact execText_canonical h _ _ _ e
  | tsub => exact execTsub_canonical h _ _ _ _ e
  | tsubr => exact execTsubr_canonical h _ _ _ e
  | bcopy | bcopyBnd | bcopyBsn | bfill | bgath | bscat | bpref | bres | bevict | bdemote | bown | brel | mxst | mxma | mxmas | vadd | vsub | vmul |
      vfma | vmin | vmax | vabs | vneg | vand | vor | vxor | vnot | vshl | vshr | vcmp | vsel | vcvt | vexp2 | vlog2 | vrcp | vrsq | vtanh | vred |
      vscan | vtrn | vbcst | vgath | vmov | vgen | vgenConst => exact next_canonical e (engineT_canonical h _ _ _ _ _ _)
  | cbld | skset => exact next_canonical e (issueCmd_canonical h _)
  | xbsetCtr => exact execXbsetCtr_canonical h _ _ _ e
  | xbsetTerm => exact execXbsetTerm_canonical h _ _ _ e
  | xbsetStage => exact execXbsetStage_canonical h _ _ _ e
  | xbarmOn => exact execXbarmOn_canonical h _ _ e
  | xbarmOff => exact execXbarmOff_canonical h _ _ e
  | ectlRd => exact execEctlRd_canonical h _ _ _ _ e
  | ectlRes => exact execEctlRes_canonical h _ _ e
  | ectlCan => exact execEctlCan_canonical h _ _ e
  | estat => exact execEstat_canonical h _ _ e
  | trap | scall => exact next_canonical e (callSupervisor_canonical h _ _)
  | mcall => exact execMcall_canonical h e
  | eret => exact execEret_canonical h e
  | resume => exact execResume_canonical h _ e
  | park => exact execPark_canonical h _ e
  | crr => exact execCrr_canonical h _ _ e
  | crw => exact execCrw_canonical h _ _ _ e
  | ctxr => exact next_canonical e (withImage_canonical (fun _ _ _ hu => writeRetire_canonical hu _ _) h _ _)
  | ctxw => exact next_canonical e (withImage_canonical (fun _ _ _ hu => retire_canonical (writeImage_canonical hu _ _ _)) h _ _)
  | spill => exact execSpill_canonical h _ e
  | fill => exact execFill_canonical h _ _ _ e
  | kload => exact execKload_canonical h _ _ _ e
  | kder => exact execKder_canonical h _ _ _ e
  | krev => exact execKrev_canonical h _ _ e
  | japp => exact execJapp_canonical h _ _ _ e
  | ifence => exact execIfence_canonical h e
  | tfence => exact next_canonical e (atLeast_canonical (fun _ hu => awaitReply_canonical (tfence_canonical hu _) _) h _)
  | bkpt => exact execBkpt_canonical h e
  | halt => exact execHalt_canonical h e
  | immx | rep | hint => exact next_canonical e (readPrefix_canonical h _ _)
  | memoryReply => exact execMemoryReply_canonical h _ _ e
  | wake => exact execWake_canonical h _ _ e
  | preempt => exact execPreempt_canonical h _ _ e
  | windowSpill => exact execWindowSpill_canonical h _ _ e
  | contextSpill => exact execContextSpill_canonical h _ e
  | engineAccept => exact execEngineAccept_canonical h _ _ e
  | bargeStart => exact execBargeStart_canonical h _ _ e
  | bargeUnit => exact execBargeUnit_canonical h _ _ e
  | bargeComplete => exact execBargeComplete_canonical h _ _ e
  | basinSlotClaim => exact execBasinSlotClaim_canonical h _ e
  | hubCommand => exact execHubCommand_canonical h _ e
  | sendCommandReceipt => exact execSendCommandReceipt_canonical h _ e
  | replyDelivery => exact execReplyDelivery_canonical h _ _ _ e
  | remoteBarrierOperation => exact execRemoteBarrierOperation_canonical h _ e
  | homeAtomic => exact execHomeAtomic_canonical h _ e
  | homeJoin => exact execHomeJoin_canonical h _ _ _ e
  | homeEnqueue => exact execHomeEnqueue_canonical h _ e
  | homeDequeue => exact execHomeDequeue_canonical h _ e
  | dispenserRequest => exact execDispenserRequest_canonical h _ _ e
  | dispenserBind => exact execDispenserBind_canonical h _ _ e
  | affinityTimeout => exact execAffinityTimeout_canonical h _ _ e
  | entryThreadCreate => exact execEntryThreadCreate_canonical h _ _ _ e
  | periodStart => exact execPeriodStart_canonical h e
  | consumedUpdate => exact execConsumedUpdate_canonical h _ e
  | quiescent => exact execQuiescent_canonical h _ e
  | rcbEnd => exact execRcbEnd_canonical h _ e
  | rcbJoinRetry => exact execRcbJoinRetry_canonical h _ e
  | heldRecordRetry => exact execHeldRecordRetry_canonical h e
  | xbarTermFire => exact execXbarTermFire_canonical h _ _ e
  | stagedLaunch => exact execStagedLaunch_canonical h _ _ e
  | regionRpub => exact execRegionRpub_canonical h _ _ _ e
  | roundMulticast => exact execRoundMulticast_canonical h _ _ _ e
  | boundedRequest => exact execBoundedRequest_canonical h _ _ e
  | homeGets => exact execHomeGets_canonical h _ e
  | homeGetx => exact execHomeGetx_canonical h _ e
  | homeUpg => exact execHomeUpg_canonical h _ e
  | homeRenew => exact execHomeRenew_canonical h _ e
  | homeWb => exact execHomeWb_canonical h _ _ _ false e
  | homeGack => exact execHomeGack_canonical h _ _ e
  | homeFdata => exact execHomeFdata_canonical h _ _ _ _ e
  | homeGone => exact execHomeGone_canonical h _ _ e
  | walkerRead => exact execWalkerRead_canonical h _ _ e
  | evictionNotice => exact execEvictionNotice_canonical h _ _ _ e
  | agentData => exact execAgentData_canonical h _ _ _ _ e
  | agentAckx => exact execAgentAckx_canonical h _ _ _ e
  | agentRnack => exact execAgentRnack_canonical h _ _ _ e
  | agentWback => exact execAgentWback_canonical h _ _ e
  | agentFwd => exact execAgentFwd_canonical h _ _ _ e
  | agentRetry => exact execAgentRetry_canonical h _ e
  | invReceive => exact execInvReceive_canonical h _ _ 0 _ e
  | iackReceive => exact execIackReceive_canonical h _ e
  | lineEviction => exact execLineEviction_canonical h _ _ e
  | translationDrop => exact execTranslationDrop_canonical h _ _ e
  | l2PeerServe => exact execL2PeerServe_canonical h _ _ _ 0 e
  | clockMinimumBroadcast => exact execClockMinimumBroadcast_canonical h _ e
  | rehome => exact execRehome_canonical h _ _ e
  | meshArbitration => exact execMeshArbitration_canonical h _ _ _ e
  | crSqpopWrite => exact execCrSqpopWrite_canonical h _ 0 e
  | crTrootWrite => exact execCrTrootWrite_canonical h _ _ e
  | crSlotpartWrite => exact execCrSlotpartWrite_canonical h _ _ e
  | crBankpartWrite => exact execCrBankpartWrite_canonical h _ _ _ e
  | crWinWrite => exact execCrWinWrite_canonical h _ _ _ e
  | crWspWrite => exact execCrWspWrite_canonical h _ _ _ e
  | crJexportWrite => exact next_canonical e (setExport_canonical h _)
  | crWeiraWrite => exact execCrWeiraWrite_canonical h _ _ _ e
  | crWeirbWrite => exact execCrWeirbWrite_canonical h _ _ _ e
  | crSenslimWrite => exact next_canonical e (setSenslim_canonical h _)
  | sensorTrip => exact execSensorTrip_canonical h _ _ _ e
  | journalCheckpoint => exact next_canonical e (journalTimer_canonical h)
  | weirRefill => exact execWeirRefill_canonical h _ e
  | weirTimeout => exact execWeirTimeout_canonical h _ e
  | weirEgressEntry => exact execWeirEgressEntry_canonical h _ e
  | bar2Read => exact execBar2Read_canonical h _ _ e
  | bar2Write => exact execBar2Write_canonical h _ _ e
  | bar0Write => exact execBar0Write_canonical h _ _ e
  | hcRingtail => exact execHcRingtail_canonical h _ e
  | hcRingctl => exact execHcRingctl_canonical h _ e
  | ringFetch => exact execRingFetch_canonical h e
  | ringOpen => exact execRingOpen_canonical h _ e
  | ringLaunch => exact execRingLaunch_canonical h _ _ e
  | ringGraph => exact execRingGraph_canonical h _ _ e
  | ringImport => exact execRingImport_canonical h _ _ e
  | ringSummary => exact execRingSummary_canonical h _ _ e
  | ringJfree => exact execRingJfree_canonical h _ _ e
  | fabricSend => exact execFabricSend_canonical h _ e
  | fabricReceive => exact execFabricReceive_canonical h _ _ e
  | peerAccess => exact execPeerAccess_canonical h _ e
  | debugAttach => exact execDebugAttach_canonical h _ e
  | debugDetach => exact execDebugDetach_canonical h e
  | debugStop => exact execDebugStop_canonical h _ _ e
  | debugRelease => exact execDebugRelease_canonical h _ _ e
  | debugStep => exact execDebugStep_canonical h _ _ e
  | debugClaim => exact execDebugClaim_canonical h _ _ e
  | debugReadState => exact execDebugReadState_canonical h _ _ _ e
  | debugReadCr => exact execDebugReadCr_canonical h _ _ _ e
  | debugReadContext => exact execDebugReadContext_canonical h _ _ _ e
  | debugWriteContext => exact execDebugWriteContext_canonical h _ _ _ _ e
  | debugReadMemory => exact execDebugReadMemory_canonical h _ e
  | debugWriteMemory => exact execDebugWriteMemory_canonical h _ _ _ e
  | debugProgramPcmp => exact execDebugProgramPcmp_canonical h _ _ _ e
  | debugProgramWatch => exact execDebugProgramWatch_canonical h _ _ _ e
  | debugLaunch => exact execDebugLaunch_canonical h _ _ _ _ e
  | powerOnReset => exact execPowerOnReset_canonical s e
  | bringUpStage => exact execBringUpStage_canonical h _ e
  | powerControlWrite => exact execPowerControlWrite_canonical h _ e
  | throttleDown => exact next_canonical e (throttleDown_canonical h)
  | throttleUp => exact next_canonical e (throttleUp_canonical h)
  | gatingStep => exact next_canonical e (gatingStep_canonical (hput _) _)
  | machineCheck => exact execMachineCheck_canonical h _ _ _ e
  | wearUpdate => exact execWearUpdate_canonical h _ e
  | reservedEncoding => exact next_canonical e (reservedWord_canonical h _)
  | unfetchableWord => exact next_canonical e (unfetchable_canonical h _ _)
  | slotOffer => exact next_canonical e (endOffer_canonical (offerCount_canonical h))
  | l1InstructionCacheDrop => exact execL1InstructionCacheDrop_canonical h _ _ e
  | keyCachePurge => exact execKeyCachePurge_canonical h _ _ e
  | homeRecall => exact execHomeRecall_canonical h _ _ e


/-! ### Steps (R81, R116) -/

/-- The state in which the word on offer, if any, is executed. -/
def Issue.state : Issue → State
  | .idle s => s
  | .word s _ => s

theorem issueRepeat_canonical {s : State} (h : s.Canonical) (w : BitVec 32) (i : Instr) (n : Nat) (f : BitVec 4) : (issueRepeat s w i n f).state.Canonical := by
  unfold issueRepeat
  dsimp only
  split
  · exact trap_canonical h _ _
  · split
    · exact State.setMe_canonical h _
    · exact reservedWord_canonical (State.setMe_canonical h _) _

theorem issueWord_canonical {s : State} (h : s.Canonical) (w : BitVec 32) : (issueWord s w).state.Canonical := by
  have hs := State.setMe_canonical h { s.me with ir := w, served := 0 }
  unfold issueWord
  dsimp only
  split
  · exact reservedWord_canonical hs _
  · split
    · exact hs
    · split
      · exact trap_canonical hs _ _
      · split
        · exact hs
        · exact issueRepeat_canonical hs _ _ _ _

theorem issueFetched_canonical {s : State} (h : s.Canonical) : (issueFetched s).state.Canonical := by
  have hf := fetch_canonical h
  unfold issueFetched
  split <;> rename_i e1 <;> rw [e1] at hf
  · exact issueWord_canonical hf _
  · split
    · exact unfetchable_canonical hf _ _
    · exact takeTrap_canonical hf _ _ _

theorem issueNext_canonical {s : State} (h : s.Canonical) : (issueNext s).state.Canonical := by
  have hcur (r : ThreadRef) : ({ s with cur := r } : State).Canonical := h
  unfold issueNext
  dsimp only
  split
  · exact h
  · split
    · exact h
    · split
      · exact breakAt_canonical (hcur _)
      · exact issueFetched_canonical (State.setMe_canonical (hcur _) _)

theorem issue_canonical {s : State} (h : s.Canonical) {u : State} (e : issue s = .next u) : u.Canonical := by
  have hn := issueNext_canonical h
  unfold issue at e
  split at e <;> rename_i e1 <;> rw [e1] at hn
  · exact next_canonical e hn
  · split at e
    · rename_i he
      exact next_canonical e (takePending_canonical (exec_canonical hn _ he) _)
    · exact nomatch e
    · exact nomatch e

theorem offer_canonical {s : State} (h : s.Canonical) {u : State} (e : offer s = .next u) : u.Canonical := by
  unfold offer at e
  split at e
  · rename_i hi
    exact next_canonical e (endOffer_canonical (issue_canonical (offerCount_canonical h) hi))
  · exact nomatch e
  · exact nomatch e

theorem completeWoken_canonical {s : State} (h : s.Canonical) (r : ThreadRef) {u : State} (e : completeWoken r s = .next u) : u.Canonical := by
  have hw : ({ s with woken := none, cur := r } : State).Canonical := h
  unfold completeWoken at e
  dsimp only at e
  split at e
  · exact next_canonical e (State.setMe_canonical hw _)
  · split at e
    · rename_i he
      exact next_canonical e (takePending_canonical (exec_canonical hw _ he) _)
    · exact nomatch e
    · exact nomatch e

theorem act_canonical {s : State} (h : s.Canonical) (i : Instr) {u : State} (e : act i s = .next u) : u.Canonical := by
  obtain ⟨herr, hok⟩ := portReady_canonical h i
  unfold act at e
  split at e
  · rename_i hp
    exact next_canonical e (herr _ hp)
  · rename_i hp
    split at e
    · rename_i he
      have ht := exec_canonical (hok _ hp) i he
      split at e
      · exact next_canonical e ht
      · exact completeWoken_canonical ht _ e
    · exact nomatch e
    · exact nomatch e

/-- Settles O58: every row keeps the canonical form, and a step executes one of them or offers a slot. -/
theorem stepsKeepMemoryCanonical : Obligations.StepsKeepMemoryCanonical := by
  intro s t h e
  have hq (d a : List Instr) : ({ s with tick := s.tick + 1, due := d, agenda := a } : State).Canonical := h
  unfold step at e
  dsimp only at e
  split at e
  · exact act_canonical (hq _ s.agenda) _ e
  · exact offer_canonical (hq s.due s.agenda) e
  · split at e
    · exact offer_canonical (hq s.due s.agenda) e
    · exact act_canonical (hq s.due _) _ e

end Sys2Proof.Machine
end

section
/-! SUPPORT. Stores of the device's own bookkeeping where no region's record reads the lines written (R290, R319, R321): the bytes they leave. -/

namespace Sys2Proof.Machine

/-! ### Rounds that reach no region's record -/

/-- What a round may touch that reaches no region's record: caches and directories, watch reports, and what is on its way, to which it adds. -/
structure State.Mild (s t : State) : Prop where
  rest : t = { s with micro := t.micro, agenda := t.agenda, sdie := t.sdie }
  sdie : t.sdie = { s.sdie with watchReports := t.sdie.watchReports }
  agenda : ∀ m ∈ s.agenda, m ∈ t.agenda
  records : s.NoRecords → t.NoRecords

theorem State.Mild.refl (s : State) : s.Mild s := ⟨rfl, rfl, fun _ h => h, id⟩

theorem State.Mild.trans {s t u : State} (h : s.Mild t) (h' : t.Mild u) : s.Mild u where
  rest := by rw [h'.rest, h.rest]
  sdie := by rw [h'.sdie, h.sdie]
  agenda m hm := h'.agenda m (h.agenda m hm)
  records := h'.records ∘ h.records

theorem State.Mild.bytes {s t : State} (h : s.Mild t) : t.bytes = s.bytes := by
  rw [h.rest]
  rfl

theorem State.Mild.steady {s t : State} (h : s.Mild t) : s.Steady t where
  bytes := State.sameBytes_iff.mpr h.bytes
  ctx q := by
    rw [h.rest]
    rfl

/-- The same, from a memory with other bytes. -/
theorem State.Mild.rewrite {s t u : State} {m : Memory} {sd : SMap Word} (h : s.Mild t) (hu : u = { t with mem := m, side := sd }) :
    ({ s with mem := m, side := sd } : State).Mild u where
  rest := by rw [hu, h.rest]
  sdie := by rw [hu]; exact h.sdie
  agenda := by rw [hu]; exact h.agenda
  records := by rw [hu]; exact h.records

theorem State.Mild.fields {s t : State} (h : s.Mild t) : t.mem = s.mem ∧ t.side = s.side ∧ t.hostMem = s.hostMem ∧ t.peerMem = s.peerMem := by
  rw [h.rest]
  exact ⟨rfl, rfl, rfl, rfl⟩

theorem State.Mild.cores {s t : State} (h : s.Mild t) : t.cores = s.cores := by rw [h.rest]

/-- Caches and directories change, in which no record appears anew. -/
theorem State.Mild.micro (s : State) {m : Micro} (h : s.micro.Recordless → m.Recordless) : s.Mild { s with micro := m } :=
  ⟨rfl, rfl, fun _ hm => hm, fun hn => ⟨h hn.1, hn.2⟩⟩

/-- Messages are sent that are no rounds to a region's record. -/
theorem State.Mild.post (s : State) {l : List Instr} (h : ∀ p n r w, .invReceive p n r w ∈ l → PlainParty p) : s.Mild (s.post l) := by
  refine ⟨rfl, rfl, fun _ hm => List.mem_append_left _ hm, fun hn => ⟨hn.1, fun p n r w hm => ?_⟩⟩
  simp only [State.underWay, State.post, List.mem_append] at hm
  obtain ((hm | hm) | hm) | hm := hm
  · exact hn.2 p n r w (List.mem_append_left _ (List.mem_append_left _ hm))
  · exact h p n r w hm
  · exact hn.2 p n r w (List.mem_append_left _ (List.mem_append_right _ hm))
  · exact hn.2 p n r w (List.mem_append_right _ hm)

theorem State.Mild.notices (s : State) {l : List Instr} (h : Notices l) : s.Mild (s.post l) :=
  State.Mild.post s fun p n r w hm => by
    obtain ⟨_, _, _, e⟩ := h _ hm
    exact nomatch e

theorem State.Mild.foldl {α : Type} {f : State → α → State} {l : List α} (h : ∀ a ∈ l, ∀ s : State, s.Mild (f s a)) (s : State) : s.Mild (l.foldl f s) := by
  induction l generalizing s with
  | nil => exact State.Mild.refl s
  | cons a l ih => exact (h a List.mem_cons_self s).trans (ih (fun b hb => h b (List.mem_cons_of_mem a hb)) (f s a))

/-- The step of a walk. -/
theorem State.Mild.walks (s : State) {a : Micro × List Instr} (h : Walks s.micro a) : s.Mild (({ s with micro := a.1 } : State).post a.2) :=
  (State.Mild.micro s h.1.records).trans (State.Mild.notices _ h.2)

theorem watchReport_mild (s : State) {w : Who} (hw : w.thread = none) (l : Loc) (rd wr : Bool) : s.Mild (watchReport s w l rd wr) := by
  unfold watchReport
  split
  · refine State.Mild.foldl (fun e _ s => ?_) s
    dsimp only
    rw [hw]
    dsimp only
    rw [ite_self]
    exact ⟨rfl, rfl, fun _ h => h, id⟩
  · exact State.Mild.refl s

theorem State.track_mild (s : State) {p : Party} (hp : PlainParty p) (line : Nat) : s.Mild (s.track p line) := by
  unfold State.track
  exact (State.Mild.walks s (Micro.register_walks s.needs s.micro hp line)).trans (watchReport_mild _ (partyWho_thread p) _ _ _)

/-- Whoever holds a line of the device's tables is no region's record. -/
theorem State.holderOf_plain {s : State} {c line : Nat} {p : Party} (h : s.holderOf c line = some p) : PlainParty p := by
  unfold State.holderOf at h
  dsimp only at h
  split at h
  · cases h
    exact fun _ _ e => nomatch e
  · split at h
    · cases h
      exact fun _ _ e => nomatch e
    · cases h

theorem takeInv_mild (s : State) {p : Party} (hp : PlainParty p) (line : Nat) : s.Mild (takeInv s p line) := by
  unfold takeInv
  split
  · exact State.Mild.walks s (Micro.dropDerived_walks s.micro _ line)
  · have h := State.Mild.walks s (Micro.dropDerivedAll_walks s.micro (coresOf ‹Nat›) line)
    dsimp only
    split
    · exact h.trans (State.track_mild _ (State.holderOf_plain ‹_›) line)
    · exact h
  · split
    · exact State.track_mild _ (State.holderOf_plain ‹_›) line
    · exact State.Mild.refl s
  · split
    · exact State.track_mild s hp line
    · exact State.Mild.refl s
  · exact absurd rfl (hp _ _)

theorem takeRound_mild (s : State) (line : Nat) {ps : List Party × Nat} (h : ∀ p ∈ ps.1, PlainParty p) : s.Mild (takeRound s line ps) :=
  State.Mild.foldl (fun p hp s => takeInv_mild s (h p hp) line) s

/-! ### Who is in a round -/

theorem DirEntry.parties_plain {d : DirEntry} (h : d.record = false) (slice : Nat) : ∀ p ∈ d.parties slice, PlainParty p := by
  intro p hp k id e
  subst e
  unfold DirEntry.parties at hp
  rw [h] at hp
  cases hc : d.coarse <;> cases hs : d.sdie <;> simp [hc, hs] at hp

theorem State.roundParties_plain {s : State} (h : s.NoRecords) (line : Nat) (tracked : Bool) : ∀ p ∈ (s.roundParties line tracked).1, PlainParty p := by
  intro p hp
  unfold State.roundParties at hp
  dsimp only at hp
  split at hp
  · rw [List.mem_eraseDups, List.mem_append] at hp
    obtain hp | hp := hp
    · exact DirEntry.parties_plain (h.1 line) _ p hp
    · obtain ⟨i, hi, e⟩ := List.mem_filterMap.mp hp
      split at e
      · split at e
        · cases e
          exact h.2 _ _ _ _ hi
        · cases e
      · cases e
  · cases hp

theorem Micro.roundReset_recordless (m : Micro) (line : Nat) (tracked : Bool) (h : m.Recordless) : (m.roundReset line tracked).Recordless := by
  unfold Micro.roundReset
  dsimp only
  split
  · exact Micro.recordless_put h rfl _
  · exact h

/-- The home of a line that the device itself writes. -/
theorem Micro.stampHome_dir (m : Micro) (line c : Nat) (region : Option Nat) : (m.stampHome 1024 line c region).2.dir = m.dir := rfl

/-! ### The stores -/

/-- A device's store is one of its bytes, and the round that it makes. -/
theorem State.physStore_mild {s : State} (h : s.NoRecords) {pa : Nat} {bs : ByteList} (hcap : pa + bs.length ≤ s.capacity) (c : Nat) :
    ({ s with mem := s.mem.writeBytes pa bs } : State).Mild (s.physStore pa bs c) := by
  obtain ⟨m, hm⟩ : ∃ m, m = (Micro.stampHome (s.micro.takeBack (s.lineAt (.main pa)) (pa / 64) false) 1024 (pa / 64) c none).2 := ⟨_, rfl⟩
  have hput : s.physPut pa bs c = { s with mem := s.mem.writeBytes pa bs, micro := m } := by
    rw [State.physPut, if_neg (by omega), hm]
  have hrec : m.Recordless := by
    intro l
    rw [hm, Micro.stampHome_dir]
    exact (Micro.takeBack_walked s.micro (s.lineAt (.main pa)) (pa / 64) false).records h.1 l
  unfold State.physStore
  rw [hput]
  have hround : ({ s with mem := s.mem.writeBytes pa bs } : State).Mild { s with mem := s.mem.writeBytes pa bs, micro := m.roundReset (pa / 64) false } :=
    State.Mild.micro { s with mem := s.mem.writeBytes pa bs } fun _ => Micro.roundReset_recordless m _ _ hrec
  exact hround.trans (takeRound_mild _ _ (State.roundParties_plain h _ _))

theorem State.physStore_bytes {s : State} (h : s.NoRecords) {pa : Nat} {bs : ByteList} (hcap : pa + bs.length ≤ s.capacity) (c : Nat) :
    (s.physStore pa bs c).bytes = (s.mem.writeBytes pa bs, s.side, s.hostMem, s.peerMem) := (State.physStore_mild h hcap c).bytes

theorem State.physStore_noRecords {s : State} (h : s.NoRecords) {pa : Nat} {bs : ByteList} (hcap : pa + bs.length ≤ s.capacity) (c : Nat) :
    (s.physStore pa bs c).NoRecords := (State.physStore_mild h hcap c).records h

theorem State.physWrite_mild {s : State} (h : s.NoRecords) {pa : Nat} {bs : ByteList} (hcap : pa + bs.length ≤ s.capacity) (c : Nat) :
    ({ s with mem := s.mem.writeBytes pa bs } : State).Mild (s.physWrite pa bs c) :=
  (State.physStore_mild h hcap c).trans (watchReport_mild _ rfl _ _ _)

theorem State.physWrite_bytes {s : State} (h : s.NoRecords) {pa : Nat} {bs : ByteList} (hcap : pa + bs.length ≤ s.capacity) (c : Nat) :
    (s.physWrite pa bs c).bytes = (s.mem.writeBytes pa bs, s.side, s.hostMem, s.peerMem) := (State.physWrite_mild h hcap c).bytes

end Sys2Proof.Machine
end

section
/-! O15 (R36, R100, R160, R161, R163, R271, R305, R367): enqueues and dequeues at a queue's home. -/

namespace Sys2Proof.Machine

/-! ### Gates and descriptors -/

theorem queueGate_beyond {s : State} {q core : Nat} {i : Instr} (h : 4096 ≤ q) : queueGate s q core i = .ok s := if_pos h

theorem queueGate_stands {s u : State} {q core : Nat} {i : Instr} (h : queueGate s q core i = .error u) : s.SameBytes u ∧ u.cores = s.cores := by
  unfold queueGate at h
  split at h
  · exact nomatch h
  · exact ⟨((homeGate_keeps ..).1 u h).bytes, (homeGate_cores ..).1 u h⟩

/-- A home that serves a request notes it, and changes nothing else. -/
theorem homeGate_serves {s u : State} {line core : Nat} {k : FwdKind} {i : Instr} (h : homeGate s line core k i = .ok u) :
    u = { s with micro := s.micro.setHome line { s.micro.homeLine line with served := false } } := by
  unfold homeGate at h
  dsimp only at h
  split at h
  · exact nomatch h
  · split at h
    · exact nomatch h
    · split at h
      · exact nomatch h
      · split at h
        · exact nomatch h
        · exact (Except.ok.inj h).symm

theorem queueGate_serves {s u : State} {q core : Nat} {i : Instr} (h : queueGate s q core i = .ok u) :
    ∃ h : SMap HomeLine, u = { s with micro := { s.micro with home := h } } := by
  unfold queueGate at h
  split at h
  · exact ⟨s.micro.home, (Except.ok.inj h).symm⟩
  · exact ⟨_, homeGate_serves h⟩

/-- The facts about a queue whose descriptor is valid. -/
theorem queueDesc_facts {s : State} {q : Nat} {g : QDesc} (h : s.queueDesc q = some g) :
    s.qtable + 64 * q + 64 ≤ s.capacity ∧ g.ring % 64 = 0 ∧ (∀ i, g.slotAddr i + 64 ≤ s.capacity ∧ g.slotAddr i % 64 = 0) ∧ g.head < 2 ^ 32 ∧ g.tail < 2 ^ 32 := by
  have hsound : s.QSound q := by
    by_contra hn
    rw [queueDesc_none (.inl hn)] at h
    cases h
  have hd : s.delivered (.main (s.qtable + 64 * q)) = true := by
    by_contra hn
    rw [queueDesc_none (.inr (Bool.eq_false_iff.mpr hn))] at h
    cases h
  rw [queueDesc_of_sound hsound hd] at h
  obtain ⟨hcap, -, -, hh, ht, -, -, -, -, -, -, halign, hring, -⟩ := hsound
  cases h
  have hr : (s.qdesc q).ring % 2 ^ ((s.qdesc q).c + 6) = 0 := halign
  have hcapr : (s.qdesc q).ring + 2 ^ ((s.qdesc q).c + 6) ≤ s.capacity := hring
  rw [pow_add] at hr hcapr
  have hmod : (s.qdesc q).ring % 64 = 0 := Nat.mod_eq_zero_of_dvd (Dvd.dvd.trans (Dvd.intro_left _ rfl) (Nat.dvd_of_mod_eq_zero hr))
  refine ⟨hcap, hmod, fun i => ?_, hh, ht⟩
  have hi : i % 2 ^ (s.qdesc q).c < 2 ^ (s.qdesc q).c := Nat.mod_lt _ (Nat.two_pow_pos _)
  unfold QDesc.slotAddr
  omega

/-- A queue is empty where its head is its tail. -/
theorem QDesc.count_eq_zero {g : QDesc} (hh : g.head < 2 ^ 32) (ht : g.tail < 2 ^ 32) : g.count = 0 ↔ g.head = g.tail := by
  unfold QDesc.count
  omega

/-! ### Appending a record (R160) -/

theorem length_natToBytes (n x : Nat) : (natToBytes n x).length = n := by
  induction n generalizing x with
  | zero => rfl
  | succ n ih => exact congrArg Nat.succ (ih _)

section
variable {s : State} {q : Nat} {g : QDesc}

/-- The bytes that an append leaves: the slot, then the tail. -/
def State.appended (s : State) (q : Nat) (g : QDesc) (rcd : LineData) : State :=
  { s with mem := (s.mem.writeBytes (g.slotAddr g.tail) (natToBytes 64 rcd.toNat)).writeBytes (s.queueAddr q + 24) (natToBytes 8 ((g.tail + 1) % 2 ^ 32)),
           side := SMap.set 0 s.side (g.slotAddr g.tail / 64) 0 }

theorem appendRecord_mild (hn : s.NoRecords) (hcap : s.qtable + 64 * q + 64 ≤ s.capacity) (hslot : g.slotAddr g.tail + 64 ≤ s.capacity) (rcd : LineData) (clk : Nat) :
    (s.appended q g rcd).Mild (appendRecord s q g rcd clk).2 := by
  obtain ⟨t, ht⟩ : ∃ t, t = (s.physStore (g.slotAddr g.tail) (natToBytes 64 rcd.toNat) clk).writeSide (.main (g.slotAddr g.tail)) 0 := ⟨_, rfl⟩
  have hlen : g.slotAddr g.tail + (natToBytes 64 rcd.toNat).length ≤ s.capacity := by rw [length_natToBytes]; exact hslot
  have h1t : ({ s with mem := s.mem.writeBytes (g.slotAddr g.tail) (natToBytes 64 rcd.toNat), side := SMap.set 0 s.side (g.slotAddr g.tail / 64) 0 } : State).Mild t := by
    have h1 := State.physStore_mild hn hlen clk
    obtain ⟨p, hp⟩ : ∃ p, p = s.physStore (g.slotAddr g.tail) (natToBytes 64 rcd.toNat) clk := ⟨_, rfl⟩
    rw [← hp] at h1 ht
    have hm : p.mem = s.mem.writeBytes (g.slotAddr g.tail) (natToBytes 64 rcd.toNat) := h1.fields.1
    have hs : p.side = s.side := h1.fields.2.1
    refine h1.rewrite ?_
    rw [ht, ← hm, State.writeSide, hs]
  have hnt : t.NoRecords := h1t.records hn
  have haddr : t.queueAddr q = s.queueAddr q := by rw [h1t.rest]; rfl
  have hcapt : t.capacity = s.capacity := by rw [h1t.rest]; rfl
  have hlen' : t.queueAddr q + 24 + (natToBytes 8 ((g.tail + 1) % 2 ^ 32)).length ≤ t.capacity := by
    rw [length_natToBytes, haddr, hcapt, State.queueAddr]
    omega
  have h2 := State.physStore_mild hnt hlen' (max clk (t.stampOf (g.slotAddr g.tail)))
  have hbase : (s.appended q g rcd).Mild { t with mem := t.mem.writeBytes (t.queueAddr q + 24) (natToBytes 8 ((g.tail + 1) % 2 ^ 32)) } := by
    have hm : t.mem = s.mem.writeBytes (g.slotAddr g.tail) (natToBytes 64 rcd.toNat) := h1t.fields.1
    have hs : t.side = SMap.set 0 s.side (g.slotAddr g.tail / 64) 0 := h1t.fields.2.1
    refine h1t.rewrite ?_
    rw [hm, haddr, ← hs]
  unfold appendRecord stampQueue
  dsimp only
  rw [← ht]
  exact (hbase.trans h2).trans (State.Mild.micro _ id)

/-! ### Who stands at the queue (R161, R331, R334) -/

/-- Where nobody stands at a queue nobody is served. -/
theorem serveWaiters_none (h : SMap.get [] s.waiters q = []) (n : Nat) : ∃ ws, serveWaiters s q n = { s with waiters := ws } := by
  cases n with
  | zero => exact ⟨s.waiters, rfl⟩
  | succ n =>
    unfold serveWaiters
    split
    · exact ⟨s.waiters, rfl⟩
    · split
      · exact ⟨s.waiters, rfl⟩
      · have hw : SMap.get [] (withdraw s q).waiters q = [] := by
          rw [withdraw, h]
          exact SMap.get_set_same [] s.waiters q []
        dsimp only
        rw [hw]
        exact ⟨_, rfl⟩

theorem State.Looked.waiters (s : State) (ws : SMap (List QWaiter)) : s.Looked { s with waiters := ws } := ⟨⟨rfl, rfl, rfl, rfl⟩, rfl, fun _ => rfl⟩

theorem State.Looked.dispensers (s : State) (ds : SMap Dispenser) : s.Looked { s with dispensers := ds } := ⟨⟨rfl, rfl, rfl, rfl⟩, rfl, fun _ => rfl⟩

theorem seeHead_looked (s : State) (cl q : Nat) : s.Looked (seeHead s cl q) := by
  unfold seeHead
  dsimp only
  split
  · exact State.Looked.refl s
  · split
    · exact State.Looked.refl s
    · split
      · exact (State.Looked.dispensers s _).then (State.Looked.post _ _)
      · exact State.Looked.dispensers s _

theorem headGone_looked (s : State) (q : Nat) : s.Looked (headGone s q) :=
  (State.Looked.dispensers s _).then (State.Looked.foldl (fun s cl => seeHead_looked s cl q) _ _)

theorem queueWatch_looked (s : State) (q slot : Nat) (w : Who) : s.Looked (queueWatch s q slot w) :=
  (watchReport_looked s w _ true true).then (watchReport_looked _ w _ true true)

/-- What follows the service of those who stand at a queue: the dispensers see its head, and ask for it. -/
def State.noticed (s : State) (q : Nat) : State :=
  let s := (dispensersOf s q).foldl (fun s cl => seeHead s cl q) s
  let s := s.post ((dispensersOf s q).map (fun cl => .dispenserRequest cl q))
  if 0xE00 ≤ q ∧ q < 0xE10 then s.post [.fabricSend (q - 0xE00)] else s

theorem State.noticed_looked (s : State) (q : Nat) : s.Looked (s.noticed q) := by
  obtain ⟨t, ht⟩ : ∃ t, t = (dispensersOf s q).foldl (fun s cl => seeHead s cl q) s := ⟨_, rfl⟩
  have h : s.Looked t := ht ▸ State.Looked.foldl (fun s cl => seeHead_looked s cl q) (dispensersOf s q) s
  have hpost := h.then (State.Looked.post t ((dispensersOf t q).map (fun cl => .dispenserRequest cl q)))
  unfold State.noticed
  dsimp only
  rw [← ht]
  split
  · exact hpost.then (State.Looked.post _ _)
  · exact hpost

/-- An accepted enqueue: the record's number, and who stands at the queue or sees its head. -/
theorem enqueueAt_accepts {user : Bool} (rcd : LineData) (w : Who) (hr : queueRefusal s q user true = none) (hg : s.queueDesc q = some g) :
    enqueueAt s q rcd user w = .ok (g.tail, (appendRecord s q g rcd w.clk).1,
      (serveWaiters (queueWatch (appendRecord s q g rcd w.clk).2 q (g.slotAddr g.tail) w) q 2).noticed q) := by
  unfold enqueueAt
  rw [hr, hg] <;> rfl

/-- Where nobody stands at the queue and no round reaches a region's record, an enqueue leaves the appended record alone. -/
theorem enqueueAt_appends (rcd : LineData) (w : Who) (hg : s.queueDesc q = some g) (hw : SMap.get [] s.waiters q = []) (hn : s.NoRecords) :
    (s.appended q g rcd).Looked ((serveWaiters (queueWatch (appendRecord s q g rcd w.clk).2 q (g.slotAddr g.tail) w) q 2).noticed q) := by
  obtain ⟨hcap, -, hslot, -, -⟩ := queueDesc_facts hg
  have hm := appendRecord_mild hn hcap (hslot g.tail).1 rcd w.clk
  obtain ⟨a, ha⟩ : ∃ a, a = (appendRecord s q g rcd w.clk).2 := ⟨_, rfl⟩
  rw [← ha] at hm ⊢
  have hwa : SMap.get [] (queueWatch a q (g.slotAddr g.tail) w).waiters q = [] := by
    rw [queueWatch, (watchReport_keeps _ _ _ _ _).touches.rest]
    dsimp only
    rw [(watchReport_keeps _ _ _ _ _).touches.rest]
    dsimp only
    rw [hm.rest]
    exact hw
  obtain ⟨ws, e⟩ := serveWaiters_none hwa 2
  rw [e]
  exact (((State.Looked.of_steady hm.steady (by rw [hm.rest])).then (queueWatch_looked a q _ w)).then (State.Looked.waiters _ _)).then (State.noticed_looked _ q)

end

/-! ### HOME_ENQUEUE (R160, R163) -/

/-- What an accepted enqueue makes of its sender: the reply slot of a call awaits, and S[d] receives the slot's number or the record's. -/
def enqueueCalled (q : EnqueueReq) (x : Context) : Context :=
  match q.call with
  | some i => { x with rstate := SMap.set 0 x.rstate i 1 }
  | none => x

def enqueueReply (q : EnqueueReq) (n : Nat) : Word :=
  match q.call with
  | some i => BitVec.ofNat 64 i
  | none => BitVec.ofNat 64 n

/-- The answer reaches the sender alone. -/
theorem enqueueAnswer_ctxOf (s : State) (q : EnqueueReq) (n : Nat) (r : ThreadRef) :
    ((asThread s q.who (fun s => match q.call with
      | some i => (s.setMe { s.me with rstate := SMap.set 0 s.me.rstate i 1 }).setS q.d (BitVec.ofNat 64 i)
      | none => s.setS q.d (BitVec.ofNat 64 n))).ctxOf r) =
      if r = q.who then (enqueueCalled q (s.ctxOf q.who)).writeS q.d (enqueueReply q n) else s.ctxOf r := by
  unfold enqueueCalled enqueueReply
  cases q.call with
  | none => exact State.ctxOf_setCtx s q.who r ((s.ctxOf q.who).writeS q.d (BitVec.ofNat 64 n))
  | some i =>
    obtain ⟨x, hx⟩ : ∃ x : Context, x = { s.ctxOf q.who with rstate := SMap.set 0 (s.ctxOf q.who).rstate i 1 } := ⟨_, rfl⟩
    have he : (asThread s q.who (fun s => (s.setMe { s.me with rstate := SMap.set 0 s.me.rstate i 1 }).setS q.d (BitVec.ofNat 64 i))) =
        (s.setCtx q.who x).setCtx q.who (((s.setCtx q.who x).ctxOf q.who).writeS q.d (BitVec.ofNat 64 i)) := by rw [hx]; rfl
    dsimp only
    rw [he, ← hx, State.ctxOf_setCtx, State.ctxOf_setCtx_same, State.ctxOf_setCtx]
    split <;> rfl

theorem enqueueAnswer_bytes (s : State) (q : EnqueueReq) (n : Nat) :
    (asThread s q.who (fun s => match q.call with
      | some i => (s.setMe { s.me with rstate := SMap.set 0 s.me.rstate i 1 }).setS q.d (BitVec.ofNat 64 i)
      | none => s.setS q.d (BitVec.ofNat 64 n))).bytes = s.bytes := by
  cases q.call <;> rfl

section
variable {s : State} {q : EnqueueReq} (hk : Awaits s q.who)
include hk

theorem homeEnqueue_eq : exec (.homeEnqueue q) s = .next (match queueGate s q.queue q.who.core (.homeEnqueue q) with
    | .error s => s
    | .ok s0 => match enqueueAt s0 q.queue q.record q.user { whoOf s q.who with clk := (whoOf s q.who).clk + 1 } with
      | .error e => refuse s0 q.who e
      | .ok (n, c, t) => accept ((asThread t q.who (fun s => match q.call with
          | some i => (s.setMe { s.me with rstate := SMap.set 0 s.me.rstate i 1 }).setS q.d (BitVec.ofNat 64 i)
          | none => s.setS q.d (BitVec.ofNat 64 n))).setClk q.who c) q.who) := by
  show execHomeEnqueue q s = _
  rw [execHomeEnqueue, hk.passes] <;> rfl

theorem homeEnqueue_stands {u : State} (hg : queueGate s q.queue q.who.core (.homeEnqueue q) = .error u) : exec (.homeEnqueue q) s = .next u := by
  rw [homeEnqueue_eq hk, hg]

variable {s0 : State} (hg : queueGate s q.queue q.who.core (.homeEnqueue q) = .ok s0)
include hg

theorem homeEnqueue_refuses {c : Nat} {v : Word} (hr : queueRefusal s q.queue q.user true = some (c, v)) : TrapsThread s (.homeEnqueue q) s0 q.who c v := by
  obtain ⟨h, hs0⟩ := queueGate_serves hg
  have hr0 : queueRefusal s0 q.queue q.user true = some (c, v) := by rw [hs0]; exact hr
  have hcur : s0.cur = s.cur := by rw [hs0]
  have he : enqueueAt s0 q.queue q.record q.user { whoOf s q.who with clk := (whoOf s q.who).clk + 1 } = .error (c, v) := by
    unfold enqueueAt
    rw [hr0]
  rw [TrapsThread, homeEnqueue_eq hk, hg]
  dsimp only
  rw [he, ← hcur]
  rfl

/-- An accepted enqueue answers its sender, and where nobody stands at the queue and no round reaches a region's record it appends. -/
theorem homeEnqueue_accepts {g : QDesc} (hr : queueRefusal s q.queue q.user true = none) (hd : s.queueDesc q.queue = some g) :
    ∃ t u : State, exec (.homeEnqueue q) s = .next u ∧
      (∀ r, u.ctxOf r = if r = q.who then { (enqueueCalled q (t.ctxOf q.who)).writeS q.d (enqueueReply q g.tail) with pend := .reply } else t.ctxOf r) ∧
      u.bytes = t.bytes ∧ .memoryReply q.who.core q.who.ctx ∈ u.agenda ∧
      (SMap.get [] s.waiters q.queue = [] → s.NoRecords → (s.appended q.queue g q.record).Looked t) := by
  obtain ⟨h, hs0⟩ := queueGate_serves hg
  have hr0 : queueRefusal s0 q.queue q.user true = none := by rw [hs0]; exact hr
  have hd0 : s0.queueDesc q.queue = some g := by rw [hs0]; exact hd
  obtain ⟨w, hw⟩ : ∃ w : Who, w = { whoOf s q.who with clk := (whoOf s q.who).clk + 1 } := ⟨_, rfl⟩
  obtain ⟨t, ht⟩ : ∃ t, t = (serveWaiters (queueWatch (appendRecord s0 q.queue g q.record w.clk).2 q.queue (g.slotAddr g.tail) w) q.queue 2).noticed q.queue := ⟨_, rfl⟩
  have he := enqueueAt_accepts q.record w hr0 hd0
  rw [← ht] at he
  obtain ⟨a, ha⟩ : ∃ a : State, a = (asThread t q.who (fun s => match q.call with
    | some i => (s.setMe { s.me with rstate := SMap.set 0 s.me.rstate i 1 }).setS q.d (BitVec.ofNat 64 i)
    | none => s.setS q.d (BitVec.ofNat 64 g.tail))) := ⟨_, rfl⟩
  refine ⟨t, accept (a.setClk q.who (appendRecord s0 q.queue g q.record w.clk).1) q.who, ?_, fun r => ?_, ?_,
    accept_reply _ _, fun hempty hn => ?_⟩
  · rw [homeEnqueue_eq hk, hg]
    dsimp only
    rw [← hw, he, ha]
  · have hctx (r : ThreadRef) := enqueueAnswer_ctxOf t q g.tail r
    rw [← ha] at hctx
    rw [accept_ctxOf, State.ctxOf_setClk, State.ctxOf_setClk, hctx, hctx, if_pos rfl]
    split <;> rfl
  · rw [accept_bytes, State.setClk_bytes, ha, enqueueAnswer_bytes]
  · have happ := enqueueAt_appends q.record w hd0 (hs0 ▸ hempty) (hs0 ▸ hn)
    rw [← ht] at happ
    have hbase : (s.appended q.queue g q.record).Looked (s0.appended q.queue g q.record) := by
      rw [hs0]
      exact State.Looked.micro (s.appended q.queue g q.record) _
    exact hbase.then happ

end

/-- What the regs of the sender are after an answer. -/
theorem enqueueCalled_regs (q : EnqueueReq) {x y : Context} (h : x.regs = y.regs) (v : Word) :
    ((enqueueCalled q x).writeS q.d v).regs = ((enqueueCalled q y).writeS q.d v).regs := by
  have hr : x.rstate = y.rstate := (congrArg Context.rstate h :)
  rw [Context.writeS_regs, Context.writeS_regs]
  refine congrArg (fun z : Context => z.writeS q.d v) ?_
  unfold enqueueCalled
  cases q.call with
  | none => exact h
  | some i =>
    rw [hr]
    exact congrArg (fun z : Context => { z with rstate := SMap.set 0 y.rstate i 1 }) h

/-- The bytes of memory after an append: the slot and the tail. -/
theorem State.appended_read (s : State) (q : Nat) (g : QDesc) (rcd : LineData) (a : Nat) : (s.appended q g rcd).mem.read a =
    if s.qtable + 64 * q + 24 ≤ a ∧ a < s.qtable + 64 * q + 24 + 8 then BitVec.ofNat 8 ((g.tail + 1) % 2 ^ 32 / 256 ^ (a - (s.qtable + 64 * q + 24)))
    else if g.ring + 64 * (g.tail % 2 ^ g.c) ≤ a ∧ a < g.ring + 64 * (g.tail % 2 ^ g.c) + 64 then
      BitVec.ofNat 8 (rcd.toNat / 256 ^ (a - (g.ring + 64 * (g.tail % 2 ^ g.c)))) else s.mem.read a := by
  show (Memory.writeBytes _ _ _).read a = _
  rw [Memory.read_writeBytes_natToBytes, Memory.read_writeBytes_natToBytes] <;> rfl

/-! ### Taking the head record (R161) -/

theorem watchReport_noRecords {s : State} (h : s.NoRecords) (w : Who) (l : Loc) (rd wr : Bool) : (watchReport s w l rd wr).NoRecords := by
  have hrest := (watchReport_keeps s w l rd wr).touches.rest
  have hdue : (watchReport s w l rd wr).underWay = s.underWay := by
    rw [State.underWay, watchReport_agenda, hrest]
    rfl
  exact ⟨by rw [watchReport_micro]; exact h.1, by rw [hdue]; exact h.2⟩

section
variable {s : State} {q : Nat} {g : QDesc}

/-- The head of a queue, one more. -/
def State.headed (s : State) (q : Nat) (g : QDesc) : State :=
  { s with mem := s.mem.writeBytes (s.queueAddr q + 16) (natToBytes 8 ((g.head + 1) % 2 ^ 32)) }

theorem takeHead_looked (hn : s.NoRecords) (hcap : s.qtable + 64 * q + 64 ≤ s.capacity) (clk : Nat) :
    (s.headed q g).Looked (takeHead s q g clk).2.2 ∧ (takeHead s q g clk).1 = s.physLine (g.slotAddr g.head) := by
  obtain ⟨c, hc⟩ : ∃ c, c = max clk (s.micro.raised (s.micro.homeLine (g.slotAddr g.head / 64)).wts) := ⟨_, rfl⟩
  obtain ⟨t, ht⟩ : ∃ t : State, t = { s with micro := s.micro.setHome (g.slotAddr g.head / 64) { s.micro.homeLine (g.slotAddr g.head / 64) with
    rts := max (s.micro.homeLine (g.slotAddr g.head / 64)).rts c } } := ⟨_, rfl⟩
  have hnt : t.NoRecords := by rw [ht]; exact hn
  have hlen : t.queueAddr q + 16 + (natToBytes 8 ((g.head + 1) % 2 ^ 32)).length ≤ t.capacity := by
    have hcapt : t.capacity = s.capacity := by rw [ht]; rfl
    have haddr : t.queueAddr q = s.queueAddr q := by rw [ht]; rfl
    rw [length_natToBytes, haddr, hcapt, State.queueAddr]
    omega
  have hm := State.physStore_mild hnt hlen c
  have he : (takeHead s q g clk).2.2 = headGone (t.physStore (t.queueAddr q + 16) (natToBytes 8 ((g.head + 1) % 2 ^ 32)) c) q := by rw [ht, hc]; rfl
  refine ⟨?_, rfl⟩
  rw [he]
  have hbase : (s.headed q g).Looked { t with mem := t.mem.writeBytes (t.queueAddr q + 16) (natToBytes 8 ((g.head + 1) % 2 ^ 32)) } := by
    rw [ht]
    exact State.Looked.micro (s.headed q g) _
  exact (hbase.then (State.Looked.of_steady hm.steady (by rw [hm.rest]))).then (headGone_looked _ q)

end

/-! ### A record that is written, or waits for its line -/

/-- The wait words stay. -/
def State.Waited (s t : State) : Prop := ∀ q, (t.ctxOf q).wait = (s.ctxOf q).wait

theorem State.Waited.trans {s t u : State} (h : s.Waited t) (h' : t.Waited u) : s.Waited u := fun q => (h' q).trans (h q)

theorem State.Looked.waited {s t : State} (h : s.Looked t) : s.Waited t := fun q => (h.fields q).1

theorem State.Waited.setMe (s : State) {x : Context} (h : x.wait = s.me.wait) : s.Waited (s.setMe x) := fun q => by
  rw [State.ctxOf_setMe]
  split
  · subst q; exact h
  · rfl

theorem writeBoth_waited (s : State) (l : Loc) (bs : ByteList) (side : Option Word) : s.Waited (s.writeBoth l bs side) := by
  unfold State.writeBoth State.writeAt State.writeSide
  intro q
  split <;> split <;> (try split) <;> rfl

theorem State.Waited.of_cores {s t : State} (h : t.cores = s.cores) : s.Waited t := fun q => by rw [State.ctxOf, State.core, h]; rfl

theorem requestLine_looked (s : State) (w : Who) (t : Target) (line c : Nat) (x : Bool) : s.Looked (requestLine s w t line c x) := by
  have hmark : s.Looked (markMiss s w line x) := by
    unfold markMiss
    split
    · exact State.Looked.setCtx s rfl
    · exact State.Looked.refl s
  refine hmark.then ?_
  unfold requestLine askHome
  dsimp only
  split
  · exact State.Looked.then (State.Looked.micro _ _) (State.Looked.post _ _)
  · split
    · exact State.Looked.refl _
    · split
      · exact State.Looked.then (State.Looked.micro _ _) (State.Looked.post _ _)
      · exact State.Looked.then (State.Looked.micro _ _) (State.Looked.post _ _)

theorem storeHome_waited (s : State) (w : Who) (t : Target) (pa c : Nat) (bs : ByteList) (side : Option Word) (rd : Bool) :
    s.Waited (storeHome s w t pa c bs side rd).2.2 :=
  (writeBoth_waited s t.loc bs side).trans
    (((State.Looked.micro (s.writeBoth t.loc bs side) _).then (watchReport_looked _ w t.loc rd true)).then (noteSeen_looked _ w t _)).waited

theorem storeLine_waited (s : State) (w : Who) (t : Target) (bs : ByteList) (side : Option Word) (h : Bool) :
    (∀ u, storeLine s w t bs side h = .error u → s.Waited u) ∧ (∀ a, storeLine s w t bs side h = .ok a → s.Waited a.2.2) := by
  have bad {u : State} (hu : s.Waited u) : (∀ v, (.error u : Except State Stored) = .error v → s.Waited v) ∧
      ∀ a, (.error u : Except State Stored) = .ok a → s.Waited a.2.2 := ⟨fun _ e => by cases e; exact hu, fun _ e => nomatch e⟩
  have good {b : Stored} (hb : s.Waited b.2.2) : (∀ v, (.ok b : Except State Stored) = .error v → s.Waited v) ∧
      ∀ a, (.ok b : Except State Stored) = .ok a → s.Waited a.2.2 := ⟨fun _ e => (nomatch e), fun _ e => by cases e; exact hb⟩
  unfold storeLine
  dsimp only
  split
  · exact good fun _ => rfl
  · split
    · split
      · split
        · exact bad (State.Waited.of_cores ((accessGate_cores ..).1 _ ‹_›))
        · exact good ((State.Waited.of_cores ((accessGate_cores ..).2 _ ‹_›)).trans (storeHome_waited _ w t _ _ bs side false))
      · split
        · split
          · exact good ((writeBoth_waited s t.loc bs side).trans ((State.Looked.micro (s.writeBoth t.loc bs side) _).then (noteSeen_looked _ w t _)).waited)
          · exact bad (requestLine_looked s w t _ _ true).waited
        · exact bad ((makeRoom_looked s _ _).then (requestLine_looked _ w t _ _ true)).waited
    · exact good (writeBoth_waited s _ bs side)

theorem storedMe_waited (t : Target) (a : Stored) (va lv : Nat) : a.2.2.Waited (storedMe t a va lv) := by
  have htrace (s : State) : s.Waited (traceAccess s va lv) := (State.Waited.setMe s (x := { s.me with served := 0 }) rfl).trans fun q =>
    congrArg Context.wait (State.traceAt_ctxOf ..)
  exact (htrace (a.2.2.setClk a.2.2.cur a.1)).trans (State.Waited.setMe _ rfl)

theorem answer_waited (s : State) : s.Waited (answer s) := by
  unfold answer
  dsimp only
  split
  · exact State.Waited.setMe s rfl
  · exact State.Waited.setMe s rfl

theorem storeRecord_waited (s : State) (t : Target) (va : Word) (l : LineData) : s.Waited (storeRecord s t va l) := by
  obtain ⟨hbad, hgood⟩ := storeLine_waited s s.myWho t (natToBytes 64 l.toNat) (some 0) false
  unfold storeRecord
  split
  · exact (hbad _ ‹_›).trans (State.Waited.setMe _ rfl)
  · exact ((hgood _ ‹_›).trans (storedMe_waited t _ _ _)).trans (answer_waited _)

/-- A record for a place of no line is written at once. -/
theorem storeLine_placeless (s : State) (w : Who) {t : Target} (h : t.loc.place = none) (bs : ByteList) (side : Option Word) (b : Bool) :
    ∃ a, storeLine s w t bs side b = .ok a := by
  unfold storeLine
  dsimp only
  split
  · exact ⟨_, rfl⟩
  · rw [h]
    exact ⟨_, rfl⟩

/-! ### HOME_DEQUEUE (R161) -/

theorem State.physLine_congr {s t : State} (h : t.mem = s.mem) (pa : Nat) : t.physLine pa = s.physLine pa := by
  show BitVec.ofNat 512 (bytesToNat (t.mem.readBytes _ 64)) = _
  rw [h]
  rfl

/-- A byte of a line that starts at `a`. -/
theorem State.physLine_byte (s : State) {a x : Nat} (ha : a % 64 = 0) (h : a ≤ x) (h' : x < a + 64) :
    BitVec.ofNat 8 ((s.physLine a).toNat / 256 ^ (x - a)) = s.mem.read x := by
  have hbase : (Loc.main a).lineBase = .main a := congrArg Loc.main (by omega)
  have hlt := bytesToNat_lt (s.mem.readBytes a 64)
  rw [Memory.readBytes_length, show (256 : Nat) = 2 ^ 8 from rfl, ← pow_mul] at hlt
  have he : (s.physLine a).toNat = bytesToNat (s.mem.readBytes a 64) := by
    rw [State.physLine, State.lineAt, hbase]
    exact (BitVec.toNat_ofNat ..).trans (Nat.mod_eq_of_lt hlt)
  rw [he]
  exact s.mem.read_of_readBytes h h'

section
variable {s : State} {q : DequeueReq} {g : QDesc}

theorem finishDeq_refuses {c : Nat} {v : Word} (h : deqRefusal s q g = some (c, v)) : finishDeq s q g = refuse s q.who (c, v) := by
  rw [finishDeq, h]

/-- A dequeue that takes its record: the head is one more, S[d] receives its number, and the record is written or waits for its line. -/
theorem finishDeq_takes (h : deqRefusal s q g = none) (hn : s.NoRecords) (hcap : s.qtable + 64 * q.queue + 64 ≤ s.capacity) :
    ∃ w : State, finishDeq s q g = { storeRecord w q.t q.va (s.physLine (g.slotAddr g.head)) with cur := s.cur } ∧
      w.cur = q.who ∧ w.bytes = (s.headed q.queue g).bytes ∧ (w.ctxOf q.who).wait = (s.ctxOf q.who).wait ∧
      ∀ r, (w.ctxOf r).regs = if r = q.who then ((s.ctxOf q.who).writeS q.d (BitVec.ofNat 64 g.head)).regs else (s.ctxOf r).regs := by
  obtain ⟨t, ht⟩ : ∃ t, t = queueWatch s q.queue (g.slotAddr g.head) (whoOf s q.who) := ⟨_, rfl⟩
  have hwatch : s.Looked t := ht ▸ queueWatch_looked s q.queue (g.slotAddr g.head) (whoOf s q.who)
  have hkeep : s.Keeps t := ht ▸ (watchReport_keeps ..).then (watchReport_keeps ..)
  have hnt : t.NoRecords := ht ▸ watchReport_noRecords (watchReport_noRecords hn _ _ _ _) _ _ _ _
  have hrest := hkeep.touches.rest
  obtain ⟨v, hv⟩ : ∃ v : State, v = { t with cur := q.who } := ⟨_, rfl⟩
  have hnv : v.NoRecords := hv ▸ hnt
  have hqt : v.queueAddr q.queue = s.queueAddr q.queue ∧ v.qtable = s.qtable ∧ v.capacity = s.capacity := by
    have hb : v.bmm256 = s.bmm256 := by rw [hv, hrest]
    have hc : v.capacity = s.capacity := by rw [State.capacity, State.capacity, hb]
    have hreg : (v.core 0).qtable = (s.core 0).qtable := by
      rw [hv]
      exact (congrArg Core.qtable (hkeep.touches.core 0) :)
    have hq : v.qtable = s.qtable := by rw [State.qtable, State.qtable, hreg]
    exact ⟨congrArg (· + 64 * q.queue) hq, hq, hc⟩
  have hvb : v.bytes = s.bytes := by rw [hv]; exact hwatch.bytes.bytes_eq
  have hvm : v.mem = s.mem := congrArg Prod.fst hvb
  have hvc (r : ThreadRef) : (v.ctxOf r).unmarked = (s.ctxOf r).unmarked := by rw [hv]; exact hwatch.ctx r
  obtain ⟨hlook, hrcd⟩ := takeHead_looked (g := g) hnv (by rw [hqt.2.1, hqt.2.2]; exact hcap) (observeQueue v q.queue (v.clkOf q.who + 1))
  obtain ⟨a, ha⟩ : ∃ a, a = takeHead v q.queue g (observeQueue v q.queue (v.clkOf q.who + 1)) := ⟨_, rfl⟩
  rw [← ha] at hlook hrcd
  rw [State.physLine_congr hvm] at hrcd
  obtain ⟨w, hw⟩ : ∃ w, w = (a.2.2.setClk q.who a.2.1).setS q.d (BitVec.ofNat 64 g.head) := ⟨_, rfl⟩
  have hcur : a.2.2.cur = q.who := by
    rw [hlook.cur]
    show v.cur = _
    rw [hv]
  have hctx (r : ThreadRef) : w.ctxOf r = if r = q.who then (a.2.2.ctxOf q.who).writeS q.d (BitVec.ofNat 64 g.head) else a.2.2.ctxOf r := by
    rw [hw, ← hcur]
    exact State.ctxOf_setMe ..
  have hactx (r : ThreadRef) : (a.2.2.ctxOf r).unmarked = (s.ctxOf r).unmarked := (hlook.ctx r).trans (hvc r)
  refine ⟨w, ?_, ?_, ?_, ?_, fun r => ?_⟩
  · have he : finishDeq s q g = { storeRecord ((a.2.2.setClk q.who a.2.1).setS q.d (BitVec.ofNat 64 g.head)) q.t q.va a.1 with cur := t.cur } := by
      rw [finishDeq, h, ha, hv, ht] <;> rfl
    rw [he, ← hw, hrcd, hwatch.cur]
  · rw [hw]
    exact hcur
  · have hb := hlook.bytes.bytes_eq
    rw [hw, State.setS_bytes, State.setClk_bytes, hb]
    simp only [State.bytes, Prod.mk.injEq] at hvb
    obtain ⟨hm, hs, hh, hp⟩ := hvb
    simp only [State.bytes, State.headed, hm, hs, hh, hp, hqt.1]
  · rw [hctx, if_pos rfl]
    rw [(Context.writeS_book _ _ _).1]
    exact (congrArg Context.wait (hactx q.who) :)
  · rw [hctx]
    split
    · rw [Context.writeS_regs, Context.writeS_regs]
      exact congrArg (fun z : Context => z.writeS q.d (BitVec.ofNat 64 g.head)) (congrArg Context.regs (hactx q.who) :)
    · exact (congrArg Context.regs (hactx r) :)

end

section
variable {s : State} {q : DequeueReq} (hk : Awaits s q.who)
include hk

theorem homeDequeue_eq : exec (.homeDequeue q) s = .next (match queueGate s q.queue q.who.core (.homeDequeue q) with
    | .error s => s
    | .ok s0 => match queueRefusal s0 q.queue q.user false, s0.queueDesc q.queue with
      | some e, _ => refuse s0 q.who e
      | none, none => refuse s0 q.who (0x01, BitVec.ofNat 64 q.queue)
      | none, some d =>
        if d.count ≠ 0 then finishDeq s0 q d
        else if q.wait then { s0 with waiters := SMap.set [] s0.waiters q.queue (SMap.get [] s0.waiters q.queue ++ [.thread q]) }
        else accept (asThread (watchReport s0 (whoOf s0 q.who) (.main (s0.queueAddr q.queue)) true true) q.who (fun s => s.setS q.d (BitVec.allOnes 64))) q.who) := by
  show execHomeDequeue q s = _
  rw [execHomeDequeue, hk.passes] <;> rfl

theorem homeDequeue_stands {u : State} (hg : queueGate s q.queue q.who.core (.homeDequeue q) = .error u) : exec (.homeDequeue q) s = .next u := by
  rw [homeDequeue_eq hk, hg]

variable {s0 : State} (hg : queueGate s q.queue q.who.core (.homeDequeue q) = .ok s0)
include hg

theorem homeDequeue_refuses {c : Nat} {v : Word} (hr : queueRefusal s q.queue q.user false = some (c, v)) : TrapsThread s (.homeDequeue q) s0 q.who c v := by
  obtain ⟨h, hs0⟩ := queueGate_serves hg
  have hr0 : queueRefusal s0 q.queue q.user false = some (c, v) := by rw [hs0]; exact hr
  have hcur : s0.cur = s.cur := by rw [hs0]
  rw [TrapsThread, homeDequeue_eq hk, hg]
  dsimp only
  rw [hr0, ← hcur] <;> rfl

section
variable {g : QDesc} (hr : queueRefusal s q.queue q.user false = none) (hd : s.queueDesc q.queue = some g)
include hr hd

/-- The queue's state decides. -/
theorem homeDequeue_admitted : exec (.homeDequeue q) s = .next (if g.head ≠ g.tail then finishDeq s0 q g
    else if q.wait then { s0 with waiters := SMap.set [] s0.waiters q.queue (SMap.get [] s0.waiters q.queue ++ [.thread q]) }
    else accept (asThread (watchReport s0 (whoOf s0 q.who) (.main (s0.queueAddr q.queue)) true true) q.who (fun s => s.setS q.d (BitVec.allOnes 64))) q.who) := by
  obtain ⟨-, -, -, hh, ht⟩ := queueDesc_facts hd
  obtain ⟨h, hs0⟩ := queueGate_serves hg
  have hr0 : queueRefusal s0 q.queue q.user false = none := by rw [hs0]; exact hr
  have hd0 : s0.queueDesc q.queue = some g := by rw [hs0]; exact hd
  rw [homeDequeue_eq hk, hg]
  dsimp only
  rw [hr0, hd0]
  refine congrArg Host.Outcome.next (if_congr (not_congr (QDesc.count_eq_zero hh ht)) rfl rfl)

/-- The refusals of a dequeue that finds a record, as the state before the gate gives them. -/
theorem homeDequeue_taken (hne : g.head ≠ g.tail) {c : Nat} {v : Word} (h : deqRefusal s q g = some (c, v)) : TrapsThread s (.homeDequeue q) s0 q.who c v := by
  obtain ⟨m, hs0⟩ := queueGate_serves hg
  have hr0 : deqRefusal s0 q g = some (c, v) := by rw [hs0]; exact h
  have hcur : s0.cur = s.cur := by rw [hs0]
  rw [TrapsThread, homeDequeue_admitted hk hg hr hd, if_pos hne, finishDeq_refuses hr0, ← hcur]
  rfl

/-- DEQT on an empty queue answers all ones. -/
theorem homeDequeue_empty (he : g.head = g.tail) (hw : q.wait = false) :
    ∃ u, Answers s (.homeDequeue q) q.who ((s.ctxOf q.who).writeS q.d (BitVec.allOnes 64)) u ∧ s.SameBytes u ∧ (u.ctxOf q.who).wait = (s.ctxOf q.who).wait := by
  obtain ⟨m, hs0⟩ := queueGate_serves hg
  obtain ⟨t, ht⟩ : ∃ t, t = watchReport s0 (whoOf s0 q.who) (.main (s0.queueAddr q.queue)) true true := ⟨_, rfl⟩
  have hkeep : s.Keeps t := by
    rw [ht, hs0]
    exact (State.Keeps.micro s _).then (watchReport_keeps ..)
  have hlook : s.Looked t := by
    rw [ht, hs0]
    exact (State.Looked.micro s _).then (watchReport_looked ..)
  obtain ⟨a, ha⟩ : ∃ a, a = asThread t q.who (fun s => s.setS q.d (BitVec.allOnes 64)) := ⟨_, rfl⟩
  have hx : exec (.homeDequeue q) s = .next (accept a q.who) := by
    rw [homeDequeue_admitted hk hg hr hd, if_neg (not_not_intro he), hw, ha, ht]
    rfl
  have hctx (r : ThreadRef) : a.ctxOf r = if r = q.who then (t.ctxOf q.who).writeS q.d (BitVec.allOnes 64) else t.ctxOf r := by
    rw [ha]
    exact State.ctxOf_setCtx t q.who r _
  have hT : ({ s with cur := q.who } : State).Touches { accept a q.who with cur := q.who } ((s.ctxOf q.who).writeS q.d (BitVec.allOnes 64)) := by
    have h1 := ((hkeep.touches.at q.who).setMe ((t.ctxOf q.who).writeS q.d (BitVec.allOnes 64))).of_regs (y := (s.ctxOf q.who).writeS q.d (BitVec.allOnes 64)) (by
      rw [Context.writeS_regs, hkeep.regs, Context.writeS_regs])
    obtain ⟨b, hb⟩ : ∃ b : State, b = State.setMe { t with cur := q.who } ((t.ctxOf q.who).writeS q.d (BitVec.allOnes 64)) := ⟨_, rfl⟩
    rw [← hb] at h1
    have h2 := (h1.trans (State.Keeps.setMe b { b.me with pend := .reply } rfl).touches).of_regs h1.meRegs
    have h3 := (h2.trans (State.Keeps.post (b.setMe { b.me with pend := .reply }) [.memoryReply q.who.core q.who.ctx]).touches).of_regs h2.meRegs
    rw [ha]
    rw [hb] at h3
    exact h3
  have hcura : a.cur = s.cur := by
    rw [ha]
    exact hkeep.touches.cur
  refine ⟨_, ⟨hx, hcura, hT, ?_, fun _ => accept_reply _ _⟩, State.sameBytes_iff.mpr ?_, ?_⟩
  · rw [accept_ctxOf, if_pos rfl]
  · have hab : a.bytes = t.bytes := by rw [ha]; rfl
    rw [accept_bytes, hab, hlook.bytes.bytes_eq]
  · rw [(accept_fields _ _ _).2.2.2, hctx, if_pos rfl, (Context.writeS_book _ _ _).1]
    exact (hlook.fields q.who).1

/-- DEQ on an empty queue stands there. -/
theorem homeDequeue_waits (he : g.head = g.tail) (hw : q.wait = true) : ∃ u, exec (.homeDequeue q) s = .next u ∧
    SMap.get [] u.waiters q.queue = SMap.get [] s.waiters q.queue ++ [.thread q] ∧ s.SameBytes u ∧
    ∀ r, (u.ctxOf r).regs = (s.ctxOf r).regs ∧ (u.ctxOf r).pend = (s.ctxOf r).pend := by
  obtain ⟨m, hs0⟩ := queueGate_serves hg
  refine ⟨{ s0 with waiters := SMap.set [] s0.waiters q.queue (SMap.get [] s0.waiters q.queue ++ [.thread q]) }, ?_, ?_, ?_⟩
  · rw [homeDequeue_admitted hk hg hr hd, if_neg (not_not_intro he), hw, if_pos rfl]
  · rw [hs0]
    exact SMap.get_set_same ..
  · rw [hs0]
    exact ⟨⟨rfl, rfl, rfl, rfl⟩, fun r => ⟨rfl, rfl⟩⟩

/-- The head record is taken: by its thread's registers, and by where the record lies then. -/
theorem homeDequeue_takes (hne : g.head ≠ g.tail) (h : deqRefusal s q g = none) (hn : s.NoRecords) :
    ∃ u, exec (.homeDequeue q) s = .next u ∧ (u.ctxOf q.who).wait = (s.ctxOf q.who).wait ∧
      (∀ r, (u.ctxOf r).regs = if r = q.who then ((s.ctxOf q.who).writeS q.d (BitVec.ofNat 64 g.head)).regs else (s.ctxOf r).regs) ∧
      (((u.ctxOf q.who).pend = .reply ∧ ((s.headed q.queue g).writeBoth q.t.loc (natToBytes 64 (s.physLine (g.slotAddr g.head)).toNat) (some 0)).SameBytes u) ∨
        (q.t.loc.place ≠ none ∧ (u.ctxOf q.who).pend = .record q.t q.va (s.physLine (g.slotAddr g.head)) ∧ (s.headed q.queue g).SameBytes u)) := by
  obtain ⟨m, hs0⟩ := queueGate_serves hg
  have hr0 : deqRefusal s0 q g = none := by rw [hs0]; exact h
  have hn0 : s0.NoRecords := by rw [hs0]; exact hn
  have hcap : s0.qtable + 64 * q.queue + 64 ≤ s0.capacity := by rw [hs0]; exact (queueDesc_facts hd).1
  obtain ⟨w, hx, hcur, hb, hwait, hregs⟩ := finishDeq_takes hr0 hn0 hcap
  have hline : s0.physLine (g.slotAddr g.head) = s.physLine (g.slotAddr g.head) := by rw [hs0]; rfl
  rw [hline] at hx
  obtain ⟨u, hu⟩ : ∃ u, u = storeRecord w q.t q.va (s.physLine (g.slotAddr g.head)) := ⟨_, rfl⟩
  rw [← hu] at hx
  have hwu : w.Waited u := hu ▸ storeRecord_waited w q.t q.va (s.physLine (g.slotAddr g.head))
  have hbase : (s.headed q.queue g).bytes = w.bytes := by
    rw [hb, hs0]
    rfl
  have hctx0 (r : ThreadRef) : s0.ctxOf r = s.ctxOf r := by rw [hs0]; rfl
  rw [hctx0] at hwait
  simp only [hctx0] at hregs
  refine ⟨{ u with cur := s0.cur }, ?_, (hwu q.who).trans hwait, ?_⟩
  · rw [homeDequeue_admitted hk hg hr hd, if_pos hne, hx]
  cases hst : storeLine w w.myWho q.t (natToBytes 64 (s.physLine (g.slotAddr g.head)).toNat) (some 0) false with
  | error v =>
    obtain ⟨hkeep, hpend⟩ := storeRecord_keeps (va := q.va) hst
    rw [← hu] at hkeep hpend
    rw [State.me, hkeep.touches.cur, hcur] at hpend
    refine ⟨fun r => (hkeep.regs r).trans (hregs r), .inr ⟨fun hp => ?_, hpend, State.sameBytes_iff.mpr (hkeep.bytes.bytes_eq.trans hbase.symm)⟩⟩
    obtain ⟨a, e⟩ := storeLine_placeless w w.myWho hp (natToBytes 64 (s.physLine (g.slotAddr g.head)).toNat) (some 0) false
    rw [e] at hst
    cases hst
  | ok a =>
    obtain ⟨htouch, hbw, hpend⟩ := storeRecord_stores (va := q.va) hst
    rw [← hu] at htouch hbw hpend
    rw [State.me, htouch.cur, hcur] at hpend
    refine ⟨fun r => (htouch.regsOf r).trans (hregs r), .inl ⟨hpend, State.sameBytes_iff.mpr (State.SameBytes.bytes_eq (t := u) ?_)⟩⟩
    exact (writeBoth_bytes (State.sameBytes_iff.mpr hbase.symm) q.t.loc _ (some 0)).trans hbw

end
end

theorem deqRefusal_bank {s : State} {q : DequeueReq} {g : QDesc} (h : ¬ ∀ a, q.t.loc = .ls a → bankOwned s (whoOf s q.who) a = true) :
    deqRefusal s q g = some (0x09, q.va) := by
  have hb : bankFault s (whoOf s q.who) q.t false = some 0x09 := by
    unfold bankFault
    split
    · rename_i a ha
      rw [if_neg fun ho => h fun b hb => ?_]
      · rfl
      · rw [ha] at hb
        cases hb
        exact ho
    · rename_i hne
      exact absurd (fun a ha => absurd ha (hne a)) h
  rw [deqRefusal, hb]

theorem deqRefusal_owned {s : State} {q : DequeueReq} {g : QDesc} (h : ∀ a, q.t.loc = .ls a → bankOwned s (whoOf s q.who) a = true) :
    deqRefusal s q g = if s.inEgress (.main (g.ring + 64 * (g.head % 2 ^ g.c))) = true ∧ (s.ctxOf q.who).level ≠ .m then some (0x0A, BitVec.ofNat 64 q.queue) else none := by
  rw [deqRefusal, bankFault_none h]
  refine if_congr ?_ rfl rfl
  rw [Bool.and_eq_true, decide_eq_true_eq] <;> rfl

/-- Settles O15: the home's gate, the refusals of the table, and the descriptor's head and tail decide; the bytes are those of the device's stores. -/
theorem queuesAppendAndTake : Obligations.QueuesAppendAndTake := by
  unfold Obligations.QueuesAppendAndTake
  refine ⟨fun s q hk => ⟨queueGate_beyond, fun u hu => ⟨homeEnqueue_stands hk hu, queueGate_stands hu⟩, fun s0 hg =>
      ⟨fun c v hr => homeEnqueue_refuses hk hg hr, fun g hr hd => ?enqueue⟩⟩,
    fun s q hk => ⟨queueGate_beyond, fun u hu => ⟨homeDequeue_stands hk hu, queueGate_stands hu⟩, fun s0 hg =>
      ⟨fun c v hr => homeDequeue_refuses hk hg hr, fun g hr hd => ⟨fun hne ho => homeDequeue_taken hk hg hr hd hne (deqRefusal_bank ho),
        fun hne ho hh => homeDequeue_taken hk hg hr hd hne ((deqRefusal_owned ho).trans (if_pos hh)), fun hne ho hh hn => ?take,
        homeDequeue_empty hk hg hr hd, homeDequeue_waits hk hg hr hd⟩⟩⟩⟩
  case enqueue =>
    obtain ⟨t, u, he, hctx, hb, hrep, happ⟩ := homeEnqueue_accepts hk hg hr hd
    have hwho := hctx q.who
    rw [if_pos rfl] at hwho
    refine ⟨⟨u, he, ?_, by rw [hwho], hrep⟩, fun hw hn => ⟨u, he, fun r => ?_, ?_⟩⟩
    · rw [hwho]
      exact (Context.readS_writeS (enqueueCalled q (t.ctxOf q.who)) q.d q.d (enqueueReply q g.tail)).trans (by rw [if_pos (rfl : q.d = q.d)]; rfl)
    · have hreg := (happ hw hn).fields
      rw [hctx]
      split
      · exact enqueueCalled_regs q (hreg q.who).2.2.2.2 _
      · exact (hreg r).2.2.2.2
    · obtain ⟨hm, hs, hh, hp⟩ := State.sameBytes_iff.mpr (hb.trans (happ hw hn).bytes.bytes_eq)
      rw [hm, hs, hh, hp]
      exact ⟨fun a => State.appended_read s q.queue g q.record a, fun l => SMap.get_set 0 s.side (g.slotAddr g.tail / 64) l 0, rfl, rfl⟩
  case take =>
    obtain ⟨u, he, hwait, hregs, hcases⟩ := homeDequeue_takes hk hg hr hd hne ((deqRefusal_owned ho).trans (if_neg hh)) hn
    have hslot : g.slotAddr g.head = g.ring + 64 * (g.head % 2 ^ g.c) := rfl
    have hhead (a : Nat) : (s.headed q.queue g).mem.read a = if s.qtable + 64 * q.queue + 16 ≤ a ∧ a < s.qtable + 64 * q.queue + 16 + 8 then
        BitVec.ofNat 8 ((g.head + 1) % 2 ^ 32 / 256 ^ (a - (s.qtable + 64 * q.queue + 16))) else s.mem.read a := Memory.read_writeBytes_natToBytes ..
    refine ⟨u, he, hwait, hregs, ?_, fun hp => ?_, fun hp => ?_, fun hp pa hpa => ?_⟩
    · exact hcases.imp (fun h => h.1) (fun h => h.2.1)
    · exact hcases.elim (fun h => h.1) (fun h => absurd hp h.1)
    · obtain ⟨h, -⟩ | ⟨-, -, hb⟩ := hcases
      · exact nomatch h.symm.trans hp
      · obtain ⟨hm, hs, -, -⟩ := hb
        exact ⟨hs, fun a => by rw [hm]; exact hhead a⟩
    · obtain ⟨-, hb⟩ | ⟨-, h, -⟩ := hcases
      · obtain ⟨hside, hmem⟩ := writeBoth_record hb hpa
        refine ⟨hside, fun a => (hmem a).trans ?_⟩
        by_cases hin : pa ≤ a ∧ a < pa + 64
        · rw [if_pos hin, if_pos hin]
          have halign := ((queueDesc_facts hd).2.2.1 g.head).2
          have hbyte := s.physLine_byte halign (x := g.slotAddr g.head + (a - pa)) (by omega) (by omega)
          rw [Nat.add_sub_cancel_left] at hbyte
          exact hbyte
        · rw [if_neg hin, if_neg hin]
          exact hhead a
      · exact nomatch h.symm.trans hp

end Sys2Proof.Machine
end

section
/-! O35 (R107, R112, R247, R248, R252, R337, R392): fences, BKPT, HALT and words that cannot run. -/

namespace Sys2Proof.Machine

/-! ### The region of every thread (R329) -/

/-- The same thread runs, and every context belongs to the region it belonged to. -/
structure State.Kin (s t : State) : Prop where
  cur : t.cur = s.cur
  rcb : ∀ q, (t.ctxOf q).rcb = (s.ctxOf q).rcb

theorem State.Kin.refl (s : State) : s.Kin s := ⟨rfl, fun _ => rfl⟩

theorem State.Kin.trans {s t u : State} (h : s.Kin t) (h' : t.Kin u) : s.Kin u := ⟨h'.cur.trans h.cur, fun q => (h'.rcb q).trans (h.rcb q)⟩

theorem State.Kin.foldl {α : Type} {f : State → α → State} (h : ∀ (s : State) (a : α), s.Kin (f s a)) (l : List α) (s : State) : s.Kin (l.foldl f s) := by
  induction l generalizing s with
  | nil => exact State.Kin.refl s
  | cons a l ih => exact (h s a).trans (ih (f s a))

theorem State.Kin.of_ctxOf {s t : State} (hc : t.cur = s.cur) (h : ∀ q, t.ctxOf q = s.ctxOf q) : s.Kin t := ⟨hc, fun q => congrArg Context.rcb (h q)⟩

theorem State.Kin.of_cores {s t : State} (hc : t.cur = s.cur) (h : t.cores = s.cores) : s.Kin t :=
  State.Kin.of_ctxOf hc fun q => by rw [State.ctxOf, State.core, h]; rfl

theorem State.Looked.kin {s t : State} (h : s.Looked t) : s.Kin t := ⟨h.cur, fun q => (congrArg Context.rcb (h.ctx q) :)⟩

theorem State.Touches.kin {s t : State} (h : s.Touches t s.me) : s.Kin t := ⟨h.cur, fun q => (congrArg Context.rcb (h.regsOf q) :)⟩

theorem State.Rounded.kin {s t : State} (h : s.Rounded t) : s.Kin t := State.Kin.of_ctxOf (by rw [h.rest]) h.ctxOf

theorem State.Kin.setCtx (s : State) {r : ThreadRef} {x : Context} (h : x.rcb = (s.ctxOf r).rcb) : s.Kin (s.setCtx r x) where
  cur := rfl
  rcb q := by
    rw [State.ctxOf_setCtx]
    split
    · subst q; exact h
    · rfl

theorem State.Kin.setMe (s : State) {x : Context} (h : x.rcb = s.me.rcb) : s.Kin (s.setMe x) := State.Kin.setCtx s h

theorem Context.writeS_rcb (x : Context) (d : BitVec 5) (v : Word) : (x.writeS d v).rcb = x.rcb := by
  unfold Context.writeS
  split
  · rfl
  · split <;> rfl

/-- What another thread does, seen from the one that runs. -/
theorem State.Kin.asThread {f : State → State} (h : ∀ s : State, s.Kin (f s)) (s : State) (r : ThreadRef) : s.Kin (asThread s r f) where
  cur := rfl
  rcb := (h { s with cur := r }).rcb

/-! ### Parking and traps -/

theorem bindHome_kin (s : State) (r : ThreadRef) : s.Kin (bindHome s r) := State.Kin.setCtx s rfl

theorem vacate_kin (s : State) (k slot : Nat) : s.Kin (vacate s k slot) := by
  unfold vacate
  dsimp only
  split
  · rename_i w _
    have h : s.Kin ((s.setCore k { s.core k with resuming := (s.core k).resuming.filter (fun v => decide (v.slot ≠ slot)) }).post [.memoryReply k w.issuer]) :=
      State.Kin.of_ctxOf rfl (State.ctxOf_setCore_of_ctxs rfl)
    split
    · exact h.trans (bindHome_kin _ _)
    · exact h.trans (State.Kin.of_ctxOf rfl fun _ => rfl)
  · split
    · exact bindHome_kin s _
    · exact State.Kin.of_ctxOf rfl fun _ => rfl

theorem restoreSupervisor_kin (s : State) (k : Nat) : s.Kin (restoreSupervisor s k) := by
  unfold restoreSupervisor
  split
  · rename_i i _ _
    obtain ⟨t, ht⟩ : ∃ t : State, t = { s with sdie := { s.sdie with dbgParked := SMap.del s.sdie.dbgParked k, dbgLaunched := SMap.set 0 s.sdie.dbgLaunched k 0 } } :=
      ⟨_, rfl⟩
    have h : s.Kin t := by
      rw [ht]
      exact State.Kin.of_cores rfl rfl
    dsimp only
    rw [← ht]
    exact (h.trans (State.Kin.setCtx t (x := releaseCtx (t.ctxOf ⟨k, i⟩)) rfl)).trans (bindHome_kin _ _)
  · exact State.Kin.refl s

theorem dropMessages_kin (r : ThreadRef) (s : State) : s.Kin (dropMessages r s) := State.Kin.of_ctxOf rfl (dropMessages_ctxOf r s)

theorem endPark_kin (s : State) (r : ThreadRef) : s.Kin (endPark s r) := State.Kin.of_ctxOf (endPark_cur s r) (endPark_ctxOf s r)

theorem parkCtx_kin (s : State) (r : ThreadRef) : s.Kin (parkCtx s r) := by
  have h1 : s.Kin ((s.setCtx r ((s.ctxOf r).parked s.cycle)).cutWait r (s.ctxOf r).pend) :=
    (State.Kin.setCtx s (x := (s.ctxOf r).parked s.cycle) rfl).trans (State.Kin.of_ctxOf (State.cutWait_cur ..) (State.cutWait_ctxOf _ r _))
  have h2 := h1.trans (endPark_kin _ r)
  unfold parkCtx
  dsimp only
  split
  · exact State.Kin.trans h2 (vacate_kin _ _ _)
  · split
    · exact State.Kin.trans h2 (restoreSupervisor_kin _ _)
    · exact h2

theorem pushSq_kin (s : State) (k : Nat) (src : HeldSrc) (r : SqRec) : s.Kin (pushSq s k src r) := by
  refine State.Kin.of_ctxOf ?_ fun q => ?_
  · obtain ⟨h, -⟩ | ⟨sq, held, l, -, h⟩ := pushSq_cases s k src r
    · rw [h]
    · rw [h]; rfl
  · have h : ((pushSq s k src r).core q.core).ctxs = (s.core q.core).ctxs := (congrArg Core.ctxs (pushSq_core s k src r q.core) :)
    rw [State.ctxOf, State.ctxOf, Core.ctx, Core.ctx, h]

theorem enterMonitor_kin (s : State) (a b c : Word) : s.Kin (enterMonitor s a b c) := ⟨rfl, fun q => by
  rw [enterMonitor_ctxOf]
  split
  · subst q; rfl
  · rfl⟩

theorem stopCore_kin (s : State) : s.Kin (stopCore s) := State.Kin.of_ctxOf (stopCore_cur s) fun q =>
  State.ctxOf_setCore_of_ctxs (s := s) (k := s.cur.core) (c := { s.myCore with dead := true }) rfl q

theorem takeTrap_kin (s : State) (cause : Nat) (tval extra : Word) : s.Kin (takeTrap s cause tval extra) := by
  obtain ⟨t, ht⟩ : ∃ t, t = s.traceMe 1 (BitVec.ofNat 64 cause) := ⟨_, rfl⟩
  have h : s.Kin t := by
    rw [ht]
    exact State.Kin.of_ctxOf (State.traceMe_cur ..) (State.traceMe_ctxOf s 1 _)
  unfold takeTrap
  dsimp only
  rw [← ht]
  split
  · refine ((h.trans (State.Kin.setMe t ?_)).trans (parkCtx_kin _ _)).trans (pushSq_kin _ _ _ _)
    rfl
  · exact h.trans (enterMonitor_kin _ _ _ _)
  · exact h.trans (stopCore_kin _)

theorem trap_kin (s : State) (cause : Nat) (tval : Word) : s.Kin (trap s cause tval) := takeTrap_kin ..

/-! ### Queues (R160, R161) -/

theorem appendRecord_kin (s : State) (q : Nat) (d : QDesc) (rcd : LineData) (clk : Nat) : s.Kin (appendRecord s q d rcd clk).2 := by
  obtain ⟨t, ht⟩ : ∃ t, t = (s.physStore (d.slotAddr d.tail) (natToBytes 64 rcd.toNat) clk).writeSide (.main (d.slotAddr d.tail)) 0 := ⟨_, rfl⟩
  have h : s.Kin t := by
    rw [ht]
    exact (State.physStore_rounded s _ _ clk).kin.trans (writeSide_touches _ _ _).kin
  unfold appendRecord stampQueue
  dsimp only
  rw [← ht]
  exact (h.trans (State.physStore_rounded _ _ _ _).kin).trans (State.Kin.of_cores rfl rfl)

theorem takeHead_kin (s : State) (q : Nat) (d : QDesc) (clk : Nat) : s.Kin (takeHead s q d clk).2.2 := by
  obtain ⟨m, hm⟩ : ∃ m : Micro, (takeHead s q d clk).2.2 = headGone (State.physStore { s with micro := m } (s.queueAddr q + 16) (natToBytes 8 ((d.head + 1) % 2 ^ 32))
    (max clk (s.micro.raised (s.micro.homeLine (d.slotAddr d.head / 64)).wts))) q := ⟨_, rfl⟩
  have h : s.Kin { s with micro := m } := State.Kin.of_cores rfl rfl
  rw [hm]
  exact (h.trans (State.physStore_rounded _ _ _ _).kin).trans (headGone_looked _ q).kin

theorem storeRecord_kin (s : State) (t : Target) (va : Word) (l : LineData) : s.Kin (storeRecord s t va l) := by
  cases h : storeLine s s.myWho t (natToBytes 64 l.toNat) (some 0) false with
  | error v => exact (storeRecord_keeps h).1.touches.kin
  | ok a => exact (storeRecord_stores h).1.kin

theorem finishDeq_kin (s : State) (q : DequeueReq) (d : QDesc) : s.Kin (finishDeq s q d) := by
  unfold finishDeq
  split
  · exact State.Kin.asThread (fun s => trap_kin s _ _) s _
  · refine (queueWatch_looked s q.queue _ _).kin.trans (State.Kin.asThread (fun s => ?_) _ _)
    obtain ⟨a, ha⟩ : ∃ a, a = takeHead s q.queue d (observeQueue s q.queue (s.clkOf q.who + 1)) := ⟨_, rfl⟩
    have h : s.Kin a.2.2 := by
      rw [ha]
      exact takeHead_kin ..
    dsimp only
    rw [← ha]
    refine (h.trans (State.Kin.trans (t := a.2.2.setClk q.who a.2.1) (State.Kin.of_cores rfl rfl) (State.Kin.setMe _ (Context.writeS_rcb _ _ _)))).trans (storeRecord_kin _ _ _ _)

theorem dispenserTake_kin (s : State) (cl q : Nat) (d : QDesc) : s.Kin (dispenserTake s cl q d) := by
  unfold dispenserTake
  dsimp only
  exact ((takeHead_kin s q d _).trans (queueWatch_looked _ _ _ _).kin).trans (State.Kin.of_cores rfl rfl)

theorem visitUntil_kin (s : State) (cl : Nat) (ids : List Nat) : s.Kin (visitUntil s cl ids).2 := by
  unfold visitUntil
  dsimp only
  split
  · exact State.Kin.refl s
  · exact State.Kin.of_cores rfl rfl

theorem serveWaiters_kin (s : State) (q n : Nat) : s.Kin (serveWaiters s q n) := by
  induction n generalizing s with
  | zero => exact State.Kin.refl s
  | succ n ih =>
    unfold serveWaiters
    split
    · exact State.Kin.refl s
    · split
      · exact State.Kin.refl s
      · have hw : s.Kin (withdraw s q) := State.Kin.of_cores rfl rfl
        dsimp only
        split
        · exact hw
        · rename_i w _
          have hg : s.Kin { withdraw s q with waiters := SMap.set [] (withdraw s q).waiters q ((SMap.get [] (withdraw s q).waiters q).erase w) } :=
            State.Kin.of_cores rfl rfl
          split
          · split
            · exact (hg.trans (finishDeq_kin _ _ _)).trans (ih _)
            · exact (hg.trans (State.Kin.asThread (fun s => trap_kin s _ _) _ _)).trans (ih _)
          · split
            · exact (hg.trans (dispenserTake_kin _ _ _ _)).trans (ih _)
            · exact ((hg.trans (visitUntil_kin _ _ _)).trans (dispenserTake_kin _ _ _ _)).trans (ih _)

theorem enqueueAt_kin {s t : State} {q n c : Nat} {rcd : LineData} {user : Bool} {w : Who} (h : enqueueAt s q rcd user w = .ok (n, c, t)) : s.Kin t := by
  cases hr : queueRefusal s q user true with
  | some e =>
    unfold enqueueAt at h
    rw [hr] at h
    cases h
  | none =>
    cases hg : s.queueDesc q with
    | none =>
      unfold enqueueAt at h
      rw [hr, hg] at h
      cases h
    | some g =>
      rw [enqueueAt_accepts rcd w hr hg] at h
      cases h
      exact (((appendRecord_kin s q g rcd w.clk).trans (queueWatch_looked _ _ _ _).kin).trans (serveWaiters_kin _ _ _)).trans (State.noticed_looked _ _).kin

/-! ### JOIN counters (R157) -/

theorem joinAt_kin {s : State} {w : Who} {t : Target} {user : Bool} {ea : Word} {r : Nat × Stored} (h : joinAt s w t user ea = .ok r) : s.Kin r.2.2.2 := by
  unfold joinAt at h
  extract_lets cnt q c m s1 w1 at h
  have h1 : s.Kin s1 := State.Kin.of_cores rfl rfl
  have hat (u : State) (w : Who) (bs : ByteList) : u.Kin (atomicAt u w t bs).2.2 := (atomicAt_stores u w t bs).1.kin
  split at h
  · cases h
  · split at h
    · cases h
      exact h1.trans (hat _ _ _)
    · split at h
      · split at h
        · cases h
        · split at h
          · split at h
            · cases h
            · cases h
              exact h1.trans (hat _ _ _)
          · split at h
            · cases h
            · rename_i he
              cases h
              exact (h1.trans (enqueueAt_kin he)).trans (hat _ _ _)
      · cases h
        exact h1.trans (hat _ _ _)

/-! ### A context that is freed (R252) -/

theorem SMap.not_mem_del {V : Type} {m : SMap V} {k : Nat} {p : Nat × V} (h : p ∈ SMap.del m k) : p.1 ≠ k := by
  induction m with
  | nil => exact nomatch h
  | cons a t ih =>
    obtain ⟨k', v⟩ := a
    unfold SMap.del at h
    split at h
    · exact ih h
    · rename_i hk
      obtain rfl | h := List.mem_cons.mp h
      · exact fun e => hk e.symm
      · exact ih h

/-- A slot that becomes vacant is given to no context that does not exist. -/
theorem vacate_free {s : State} {r : ThreadRef} {slot : Nat} (h : s.ctxOf r = {}) (hk : ∀ p ∈ (s.core r.core).ctxs, p.1 ≠ r.ctx) :
    (vacate s r.core slot).ctxOf r = {} := by
  have hother (t : State) (ht : t.ctxOf r = {}) {i : Nat} (hi : i ≠ r.ctx) : (bindHome t ⟨r.core, i⟩).ctxOf r = {} := by
    rw [bindHome, State.ctxOf_setCtx, if_neg fun e => hi (congrArg ThreadRef.ctx e).symm, ht]
  unfold vacate
  dsimp only
  split
  · rename_i w _
    have ht : ((s.setCore r.core { s.core r.core with resuming := (s.core r.core).resuming.filter (fun v => decide (v.slot ≠ slot)) }).post
        [.memoryReply r.core w.issuer]).ctxOf r = {} := (State.ctxOf_setCore_of_ctxs (c := { s.core r.core with
          resuming := (s.core r.core).resuming.filter (fun v => decide (v.slot ≠ slot)) }) rfl r).trans h
    split
    · rename_i hp
      refine hother _ ht fun e => ?_
      rw [e] at hp
      have hc : (s.core r.core).ctx r.ctx = {} := h
      rw [hc] at hp
      cases hp
    · exact ht
  · split
    · rename_i p hp
      exact hother s h (hk p (List.mem_of_find?_eq_some hp))
    · exact h

theorem freeCtx_vacates (s : State) (r : ThreadRef) : ∃ (t : State) (m : Micro), freeCtx s r =
    (vacate { t.setCtx r {} with micro := m } r.core (s.ctxOf r).slot).post [.rcbEnd (s.ctxOf r).rcb.toNat] := ⟨_, _, rfl⟩

/-- Freeing a context leaves none of it, and its region may end. -/
theorem freeCtx_frees (s : State) (r : ThreadRef) : (freeCtx s r).ctxOf r = {} ∧ .rcbEnd (s.ctxOf r).rcb.toNat ∈ (freeCtx s r).agenda := by
  obtain ⟨t, m, e⟩ := freeCtx_vacates s r
  obtain ⟨u, hu⟩ : ∃ u : State, u = { t.setCtx r {} with micro := m } := ⟨_, rfl⟩
  have hctx : u.ctxOf r = {} := by
    rw [hu]
    exact State.ctxOf_setCtx_same t r {}
  have hcore : (u.core r.core).ctxs = SMap.del (t.core r.core).ctxs r.ctx := by
    rw [hu]
    refine (congrArg Core.ctxs ((State.core_setCtx t r {} r.core).trans (if_pos rfl))).trans ?_
    show SMap.set {} (t.core r.core).ctxs r.ctx {} = _
    exact if_pos rfl
  rw [e, ← hu]
  refine ⟨vacate_free hctx fun p hp => ?_, List.mem_append_right _ (List.mem_singleton.mpr rfl)⟩
  rw [hcore] at hp
  exact SMap.not_mem_del hp

/-! ### HALT (R252) -/

section
variable {s : State} (hu : s.me.level = .u)
include hu

/-- HALT of a context that makes no JOIN. -/
theorem halt_frees (h : s.me.join = 0) : ∃ t, exec .halt s = .next t ∧ t.ctxOf s.cur = {} ∧ .rcbEnd s.me.rcb.toNat ∈ t.agenda := by
  refine ⟨freeCtx s s.cur, ?_, freeCtx_frees s s.cur⟩
  show execHalt s = _
  rw [execHalt, hu]
  exact congrArg Host.Outcome.next (if_pos h)

variable (hj : s.me.join ≠ 0)
include hj

theorem halt_traps {c : Nat} {s' : State} (h : checkBlock s s.me.join = (.error c, s')) : exec .halt s = .next (trap s' c s.me.join) := by
  show execHalt s = _
  rw [execHalt, hu]
  refine congrArg Host.Outcome.next ((if_neg hj).trans ?_)
  rw [h]

variable {t : Target} {s' : State} (h : checkBlock s s.me.join = (.ok t, s'))
include h

/-- After the check the hazard, the gate and the counter decide. -/
theorem halt_checked : exec .halt s = .next (if hazard s' (resolveAlias s.cur.core s.me.join.toNat) then tryAgain s' s.me.join.toNat
    else match atomicGate s' s'.myWho t with
      | .error u => leave u 1 s.me.join.toNat .reissue
      | .ok u => match joinAt u u.myWho t true s.me.join with
        | .error e => trap u e.1 e.2
        | .ok (_, clk, ps, v) => freeCtx (takeRound (v.setClk v.cur clk) t.loc.line ps) v.cur) := by
  have hk := checkMe_keeps h
  show execHalt s = _
  rw [execHalt, hu]
  refine congrArg Host.Outcome.next ((if_neg hj).trans ?_)
  rw [h]
  dsimp only
  rw [hk.touches.cur] <;> rfl

theorem halt_hazard (hz : hazard s' (resolveAlias s.cur.core s.me.join.toNat) = true) : Retries s .halt 1 s.me.join.toNat := by
  refine ⟨tryAgain s' s.me.join.toNat, ?_, ?_⟩
  · rw [halt_checked hu hj h, if_pos hz]
  · have hk := checkMe_keeps h
    obtain ⟨ht, hw, -⟩ := hk.touches.leave 1 s.me.join.toNat .reissue [.wake s'.cur.core s'.cur.ctx]
    exact ⟨ht, hw, State.sameBytes_iff.mpr ((leave_sameBytes s' 1 s.me.join.toNat .reissue).trans hk.bytes.bytes_eq)⟩

variable (hz : hazard s' (resolveAlias s.cur.core s.me.join.toNat) = false)
include hz

theorem halt_gate {u : State} (hg : atomicGate s' s'.myWho t = .error u) : Retries s .halt 1 s.me.join.toNat := by
  refine retries_of (t := u) ?_ ((checkMe_keeps h).then (atomicGate_error hg).1)
  rw [halt_checked hu hj h, hz, hg] <;> rfl

variable {u : State} (hg : atomicGate s' s'.myWho t = .ok u)
include hg

theorem halt_joinFails {c : Nat} {v : Word} (hjoin : joinAt u u.myWho t true s.me.join = .error (c, v)) : exec .halt s = .next (trap u c v) := by
  rw [halt_checked hu hj h, hz, hg]
  dsimp only
  rw [hjoin] <;> rfl

theorem halt_joins {v : Nat × Stored} (hjoin : joinAt u u.myWho t true s.me.join = .ok v) :
    ∃ t, exec .halt s = .next t ∧ t.ctxOf s.cur = {} ∧ .rcbEnd s.me.rcb.toNat ∈ t.agenda := by
  obtain ⟨n, clk, ps, w⟩ := v
  have hkin : s.Kin w := ((checkMe_keeps h).touches.kin.trans (atomicGate_ok hg).touches.kin).trans (joinAt_kin hjoin)
  obtain ⟨x, hx⟩ : ∃ x, x = takeRound (w.setClk w.cur clk) t.loc.line ps := ⟨_, rfl⟩
  have hkx : s.Kin x := hkin.trans (State.Kin.trans (t := w.setClk w.cur clk) (State.Kin.of_cores rfl rfl) (hx ▸ (takeRound_rounded _ _ _).kin))
  obtain ⟨hfree, hend⟩ := freeCtx_frees x s.cur
  have hrcb : (x.ctxOf s.cur).rcb = s.me.rcb := hkx.rcb s.cur
  rw [hrcb] at hend
  refine ⟨freeCtx x s.cur, ?_, hfree, hend⟩
  rw [halt_checked hu hj h, hz, hg]
  dsimp only
  rw [hjoin]
  dsimp only
  rw [← hx, hkin.cur] <;> rfl

end

/-! ### Fences (R247, R248) -/

theorem awaitReply_micro (s : State) (obj : Nat) : (awaitReply s obj).micro = s.micro := by
  show (leave s 1 obj .reply).micro = _
  unfold leave
  split
  · rfl
  · rw [State.traceMe, State.traceAt_rest]
    rfl

theorem ifence_empties (s : State) : ∃ u, Asks s .ifence u s.me 0 ∧ s.SameBytes u ∧ SMap.get [] u.micro.l1i s.cur.core = [] := by
  obtain ⟨t, ht⟩ : ∃ t : State, t = s.setClk s.cur (s.clkOf s.cur + 1) := ⟨_, rfl⟩
  have h : s.Keeps { t with micro := { t.micro with l1i := SMap.set [] t.micro.l1i t.cur.core [] } } := by
    rw [ht]
    exact State.Keeps.micro s _
  refine ⟨_, asks_of (t := { t with micro := { t.micro with l1i := SMap.set [] t.micro.l1i t.cur.core [] } }) ?_ h.touches,
    h.bytes.trans (awaitReply_bytes _ 0), ?_⟩
  · show execIfence s = _
    rw [execIfence, ht]
  · rw [awaitReply_micro, ht]
    exact SMap.get_set_same [] s.micro.l1i s.cur.core []

/-- A fence of a core's walks leaves none of its entries, and bars it from those that the other cores of its cluster keep. -/
theorem tfence_empties (s : State) (k : Nat) : s.Keeps (tfence s k) ∧ SMap.get [] (tfence s k).micro.tlb k = [] ∧ SMap.get [] (tfence s k).micro.wcache k = [] ∧
    ∀ e ∈ SMap.get [] (tfence s k).micro.ctlb (clusterOf k), e.core ≠ k ∧ k ∈ e.barred := by
  refine ⟨(State.Keeps.micro s _).then (State.Keeps.post _ _), SMap.get_set_same [] s.micro.tlb k [], SMap.get_set_same [] s.micro.wcache k [], fun e he => ?_⟩
  have hget : SMap.get [] (tfence s k).micro.ctlb (clusterOf k) = ((SMap.get [] s.micro.ctlb (clusterOf k)).filter (fun e => decide (e.core ≠ k))).map
      (fun e => { e with barred := if e.barred.contains k then e.barred else k :: e.barred }) := SMap.get_set_same ..
  rw [hget] at he
  obtain ⟨a, ha, rfl⟩ := List.mem_map.mp he
  refine ⟨of_decide_eq_true (List.mem_filter.mp ha).2, ?_⟩
  show k ∈ (if a.barred.contains k then a.barred else k :: a.barred)
  split
  · rename_i hc
    exact List.contains_iff_mem.mp hc
  · exact List.mem_cons_self

theorem tfence_waits {s : State} (h : s.me.level ≠ .u) : ∃ u, Asks s .tfence u s.me 0 ∧ s.SameBytes u ∧ SMap.get [] u.micro.tlb s.cur.core = [] ∧
    SMap.get [] u.micro.wcache s.cur.core = [] ∧ ∀ e ∈ SMap.get [] u.micro.ctlb (clusterOf s.cur.core), e.core ≠ s.cur.core ∧ s.cur.core ∈ e.barred := by
  obtain ⟨hk, htlb, hwalk, hall⟩ := tfence_empties s s.cur.core
  refine ⟨_, asks_of (t := tfence s s.cur.core) ?_ hk.touches, hk.bytes.trans (awaitReply_bytes _ 0), ?_⟩
  · show execTfence s = _
    rw [execTfence, atLeast_supervisor h]
  · rw [awaitReply_micro]
    exact ⟨htlb, hwalk, hall⟩

/-! ### BKPT (R392) -/

theorem bkpt_traps {s : State} (hu : s.me.level = .u) (hc : (s.core s.cur.core).claims.getLsbD s.me.slot = false) : Traps s .bkpt 0x20 s.irWord := by
  show execBkpt s = _
  rw [execBkpt, hu]
  exact congrArg Host.Outcome.next (if_neg (by rw [claimed, State.myCore, hc]; decide))

/-- BKPT of a thread whose slot is claimed stops it. -/
theorem bkpt_stops {s : State} (hu : s.me.level = .u) (hc : (s.core s.cur.core).claims.getLsbD s.me.slot = true) : ∃ t, exec .bkpt s = .next t ∧ s.SameBytes t ∧
    (∀ q, q ≠ s.cur → t.ctxOf q = s.ctxOf q) ∧ (t.core s.cur.core).sq = (s.core s.cur.core).sq ∧
    (t.ctxOf s.cur).regs = ({ s.me with stopped := true, stopReq := false, dbgStep := false, chain := {}, answer := none, skipWords := s.me.chain.len + 1 } : Context).regs := by
  obtain ⟨u, hu'⟩ : ∃ u, u = s.setMe { s.me with skipWords := s.me.chain.len + 1 } := ⟨_, rfl⟩
  have hme : u.ctxOf s.cur = { s.me with skipWords := s.me.chain.len + 1 } := by rw [hu']; exact State.ctxOf_setCtx_same ..
  have hcore : (u.core s.cur.core).sq = (s.core s.cur.core).sq := by
    rw [hu']
    exact (congrArg Core.sq (State.core_setCtx s s.cur _ s.cur.core)).trans (by rw [if_pos rfl]; rfl)
  refine ⟨stopCtx u s.cur, ?_, State.sameBytes_iff.mpr ?_, fun q hq => ?_, ?_, ?_⟩
  · show execBkpt s = _
    rw [execBkpt, hu, hu']
    exact congrArg Host.Outcome.next (if_pos hc)
  · rw [stopCtx_bytes, hu', State.setMe_bytes]
  · rw [stopCtx_ctxOf, if_neg hq, hu', State.ctxOf_setMe, if_neg hq]
  · exact ((congrArg Core.sq (stopCtx_core u s.cur s.cur.core) :)).trans hcore
  · rw [stopCtx_ctxOf, if_pos rfl, hme]
    rfl

/-- Settles O35: fences by what they leave in the caches, BKPT by its claim, HALT by its JOIN counter, and words that cannot run by their traps. -/
theorem fencesAndStops : Obligations.FencesAndStops := by
  unfold Obligations.FencesAndStops
  intro s w cause tval
  refine ⟨ifence_empties s, fun hl => congrArg Host.Outcome.next (atLeast_supervisor_user hl _), tfence_waits, fun hl => ⟨?_, ?_⟩, bkpt_traps, bkpt_stops, halt_frees,
    fun hu hj => ⟨fun c s' h => halt_traps hu hj h, fun t s' h => ⟨halt_hazard hu hj h, fun hz => ⟨fun u hg => halt_gate hu hj h hz hg, fun u hg =>
      ⟨fun c v hjoin => halt_joinFails hu hj h hz hg hjoin, fun v hjoin => halt_joins hu hj h hz hg hjoin⟩⟩⟩⟩, rfl, rfl⟩
  · show execBkpt s = _
    rw [execBkpt]
    cases hm : s.me.level with
    | u => exact absurd hm hl
    | s => rfl
    | m => rfl
  · show execHalt s = _
    rw [execHalt]
    cases hm : s.me.level with
    | u => exact absurd hm hl
    | s => rfl
    | m => rfl

end Sys2Proof.Machine
end

section
/-! SUPPORT. The image of a context, doubleword by doubleword (R88, R245, R330). -/

namespace Sys2Proof.Machine

/-! ### Halves of a descriptor -/

theorem setBits128_high (b : BitVec 128) (v : Word) : setBits128 b 127 64 v.toNat = v ++ b.setWidth 64 := by
  refine BitVec.eq_of_getLsbD_eq fun j hj => ?_
  rw [getLsbD_setBits128 b 127 64 v.toNat hj, BitVec.getLsbD_append]
  by_cases h : j < 64
  · rw [if_neg (by omega), if_pos h, BitVec.getLsbD_setWidth]
    simp [h]
  · rw [if_pos (by omega), if_neg h]
    rfl

theorem setBits128_low (b : BitVec 128) (v : Word) : setBits128 b 63 0 v.toNat = b.extractLsb' 64 64 ++ v := by
  refine BitVec.eq_of_getLsbD_eq fun j hj => ?_
  rw [getLsbD_setBits128 b 63 0 v.toNat hj, BitVec.getLsbD_append]
  by_cases h : j < 64
  · rw [if_pos (by omega), if_pos h]
    rfl
  · rw [if_neg (by omega), if_neg h, BitVec.getLsbD_extractLsb']
    simp [show j - 64 < 64 by omega, show 64 + (j - 64) = j by omega]

/-! ### What a doubleword stores (R245) -/

section
variable (x : Context) (v : Word) (r : Bool)

theorem setImageWord_reg {i : Nat} (h : i < 32) : setImageWord x (0x40 + 8 * i) v r = x.writeS (BitVec.ofNat 5 i) v := by
  unfold setImageWord
  iterate 8 rw [if_neg (by omega)]
  rw [if_pos (by omega), show (0x40 + 8 * i - 0x40) / 8 = i by omega]

theorem setImageWord_tileLow {i : Nat} (h : i < 16) : setImageWord x (0x140 + 16 * i) v r =
    x.writeT (BitVec.ofNat 4 i) ((x.readT (BitVec.ofNat 4 i)).extractLsb' 64 64 ++ v) := by
  unfold setImageWord
  iterate 9 rw [if_neg (by omega)]
  rw [if_pos (by omega)]
  dsimp only
  rw [if_neg (by omega), show (0x140 + 16 * i - 0x140) / 16 = i by omega, setBits128_low]

theorem setImageWord_tileHigh {i : Nat} (h : i < 16) : setImageWord x (0x148 + 16 * i) v r =
    x.writeT (BitVec.ofNat 4 i) (v ++ (x.readT (BitVec.ofNat 4 i)).setWidth 64) := by
  unfold setImageWord
  iterate 9 rw [if_neg (by omega)]
  rw [if_pos (by omega)]
  dsimp only
  rw [if_pos (by omega), show (0x148 + 16 * i - 0x140) / 16 = i by omega, setBits128_high]

theorem setImageWord_handles {i : Nat} (h : i < 8) : setImageWord x (0x240 + 8 * i) v r =
    (x.writeB (BitVec.ofNat 4 (2 * i)) ((v.setWidth 20).setWidth 32)).writeB (BitVec.ofNat 4 (2 * i + 1)) ((v.extractLsb' 32 20).setWidth 32) := by
  have hlow : BitVec.ofNat 32 (bitsOf v 19 0) = (v.setWidth 20).setWidth 32 := by
    apply BitVec.eq_of_toNat_eq
    rw [bitsOf_eq, BitVec.toNat_ofNat, BitVec.toNat_setWidth, BitVec.toNat_setWidth]
    omega
  have hhigh : BitVec.ofNat 32 (bitsOf v 51 32) = (v.extractLsb' 32 20).setWidth 32 := by
    apply BitVec.eq_of_toNat_eq
    rw [bitsOf_eq, BitVec.toNat_ofNat, BitVec.toNat_setWidth, BitVec.extractLsb'_toNat, Nat.shiftRight_eq_div_pow]
  unfold setImageWord
  iterate 10 rw [if_neg (by omega)]
  rw [if_pos (by omega)]
  dsimp only
  rw [show (0x240 + 8 * i - 0x240) / 4 = 2 * i by omega, ← hlow, ← hhigh]

theorem setImageWord_floor {i : Nat} (h : i < 8) : setImageWord x (0x280 + 8 * i) v r = { x with floors := SMap.set 0 x.floors i (v &&& 0x80000FFFFFFFFFFF) } := by
  unfold setImageWord
  iterate 11 rw [if_neg (by omega)]
  rw [if_pos (by omega), show (0x280 + 8 * i - 0x280) / 8 = i by omega, floorMask]

theorem setImageWord_reply {i : Nat} (h : i < 4) : setImageWord x (0x2C0 + 8 * i) v r = { x with reply := SMap.set 0 x.reply i v } := by
  unfold setImageWord
  iterate 12 rw [if_neg (by omega)]
  rw [if_pos (by omega), show (0x2C0 + 8 * i - 0x2C0) / 8 = i by omega]

theorem setImageWord_states : setImageWord x 0x2E0 v r = { x with rstate := replyStates v } := rfl

theorem replyStates_get {i : Nat} (h : i < 4) : (SMap.get 0 (replyStates v) i).toNat = if v.toNat / 4 ^ i % 4 = 3 then 0 else v.toNat / 4 ^ i % 4 := by
  have hb (j : Nat) (hj : j < 4) : bitsOf v (2 * j + 1) (2 * j) = v.toNat / 4 ^ j % 4 := by
    rw [bitsOf_eq, show 2 * j + 1 + 1 - 2 * j = 2 by omega, pow_mul] <;> rfl
  have hget : SMap.get 0 (replyStates v) i = if bitsOf v (2 * i + 1) (2 * i) = 3 then 0 else BitVec.ofNat 2 (bitsOf v (2 * i + 1) (2 * i)) := by
    unfold replyStates
    simp only [List.range, List.range.loop, List.foldl_cons, List.foldl_nil, SMap.get_set]
    obtain rfl | rfl | rfl | rfl : i = 0 ∨ i = 1 ∨ i = 2 ∨ i = 3 := by omega
    all_goals rfl
  rw [hget, hb i h]
  split
  · rfl
  · rw [BitVec.toNat_ofNat]
    omega

/-- What no doubleword of an image stores. -/
def Context.place (x : Context) : CtxState × Nat × Level × Word × BitVec 11 × Word := (x.st, x.slot, x.level, x.save, x.rcb, x.join)

theorem Context.writeS_place (i : BitVec 5) : (x.writeS i v).place = x.place := by
  unfold Context.writeS
  split
  · rfl
  · split <;> rfl

theorem Context.writeB_place (i : BitVec 4) (h : BitVec 32) : (x.writeB i h).place = x.place := by
  unfold Context.writeB
  split <;> rfl

theorem setImageWord_place (o : Nat) : (setImageWord x o v r).place = x.place := by
  unfold setImageWord
  iterate 8
    rw [apply_ite Context.place]
    refine (ite_congr rfl (fun _ => rfl) fun _ => ?_).trans (ite_self _)
  rw [apply_ite Context.place]
  refine (ite_congr rfl (fun _ => Context.writeS_place ..) fun _ => ?_).trans (ite_self _)
  rw [apply_ite Context.place]
  refine (ite_congr rfl (fun _ => rfl) fun _ => ?_).trans (ite_self _)
  rw [apply_ite Context.place]
  refine (ite_congr rfl (fun _ => (Context.writeB_place ..).trans (Context.writeB_place ..)) fun _ => ?_).trans (ite_self _)
  iterate 3
    rw [apply_ite Context.place]
    refine (ite_congr rfl (fun _ => rfl) fun _ => ?_).trans (ite_self _)
  rfl

/-- The fields of an image from which a thread goes on. -/
def Context.going (x : Context) : Word × Word × Word × Word × SMap Word × List (SMap Word) := (x.pc, x.rcnt, x.win, x.wsp, x.sregs, x.wins)

theorem Context.writeB_going (i : BitVec 4) (h : BitVec 32) : (x.writeB i h).going = x.going := by
  unfold Context.writeB
  split <;> rfl

/-- The doublewords that store none of them. -/
theorem setImageWord_going {k : Nat} (h0 : k ≠ 0) (h3 : k ≠ 3) (h4 : k ≠ 4) (h7 : k ≠ 7) (hr : k < 8 ∨ 40 ≤ k) : (setImageWord x (8 * k) v r).going = x.going := by
  unfold setImageWord
  rw [if_neg (by omega : ¬ 8 * k = 0), apply_ite Context.going]
  refine (ite_congr rfl (fun _ => rfl) fun _ => ?_).trans (ite_self _)
  rw [apply_ite Context.going]
  refine (ite_congr rfl (fun _ => rfl) fun _ => ?_).trans (ite_self _)
  rw [if_neg (by omega : ¬ 8 * k = 0x018), if_neg (by omega : ¬ 8 * k = 0x020), apply_ite Context.going]
  refine (ite_congr rfl (fun _ => rfl) fun _ => ?_).trans (ite_self _)
  rw [apply_ite Context.going]
  refine (ite_congr rfl (fun _ => rfl) fun _ => ?_).trans (ite_self _)
  rw [if_neg (by omega : ¬ 8 * k = 0x038), if_neg (by omega : ¬ 8 * k < 0x140), apply_ite Context.going]
  refine (ite_congr rfl (fun _ => rfl) fun _ => ?_).trans (ite_self _)
  rw [apply_ite Context.going]
  refine (ite_congr rfl (fun _ => (Context.writeB_going ..).trans (Context.writeB_going ..)) fun _ => ?_).trans (ite_self _)
  iterate 3
    rw [apply_ite Context.going]
    refine (ite_congr rfl (fun _ => rfl) fun _ => ?_).trans (ite_self _)
  rfl

/-- What doubleword `k` of an image stores of the pc, the counters and the registers. -/
structure Context.Stores (x y : Context) (k : Nat) (v : Word) : Prop where
  pc : y.pc = if k = 0 then v else x.pc
  rcnt : y.rcnt = if k = 3 then v else x.rcnt
  win : y.win = if k = 4 then v else x.win
  wsp : y.wsp = if k = 7 then v else x.wsp
  reg : ∀ j : BitVec 5, j ≠ 0 → y.readS j = if k = 8 + j.toNat then v else x.readS j

theorem setImageWord_stores (k : Nat) : x.Stores (setImageWord x (8 * k) v r) k v := by
  have hother (h0 : k ≠ 0) (h3 : k ≠ 3) (h4 : k ≠ 4) (h7 : k ≠ 7) (hr : k < 8 ∨ 40 ≤ k) : x.Stores (setImageWord x (8 * k) v r) k v := by
    have h := setImageWord_going x v r h0 h3 h4 h7 hr
    simp only [Context.going, Prod.mk.injEq] at h
    obtain ⟨e1, e2, e3, e4, e5, e6⟩ := h
    refine ⟨by rw [if_neg h0, e1], by rw [if_neg h3, e2], by rw [if_neg h4, e3], by rw [if_neg h7, e4], fun j hj => ?_⟩
    have hlt := j.isLt
    have hpos : j.toNat ≠ 0 := fun e => hj (BitVec.eq_of_toNat_eq e)
    rw [if_neg (by omega), Context.readS, Context.readS, e5, e6]
  have hno (j : BitVec 5) (hj : j ≠ 0) (n : Nat) (hn : n < 8) : ¬ n = 8 + j.toNat := by omega
  by_cases hreg : 8 ≤ k ∧ k < 40
  · obtain ⟨i, rfl⟩ : ∃ i, k = 8 + i := ⟨k - 8, by omega⟩
    have hi : i < 32 := by omega
    rw [show 8 * (8 + i) = 0x40 + 8 * i by omega, setImageWord_reg x v r hi]
    obtain ⟨e1, e2, e3, e4⟩ : (x.writeS (BitVec.ofNat 5 i) v).pc = x.pc ∧ (x.writeS (BitVec.ofNat 5 i) v).rcnt = x.rcnt ∧
        (x.writeS (BitVec.ofNat 5 i) v).win = x.win ∧ (x.writeS (BitVec.ofNat 5 i) v).wsp = x.wsp := by
      unfold Context.writeS
      split
      · exact ⟨rfl, rfl, rfl, rfl⟩
      · split <;> exact ⟨rfl, rfl, rfl, rfl⟩
    refine ⟨by rw [if_neg (by omega), e1], by rw [if_neg (by omega), e2], by rw [if_neg (by omega), e3], by rw [if_neg (by omega), e4], fun j hj => ?_⟩
    rw [Context.readS_writeS, if_neg hj]
    refine if_congr ⟨fun e => ?_, fun e => ?_⟩ rfl rfl
    · rw [e, BitVec.toNat_ofNat]
      omega
    · apply BitVec.eq_of_toNat_eq
      rw [BitVec.toNat_ofNat]
      omega
  · by_cases h0 : k = 0
    · subst h0
      exact ⟨rfl, rfl, rfl, rfl, fun j hj => (if_neg (hno j hj 0 (by decide))).symm⟩
    · by_cases h3 : k = 3
      · subst h3
        exact ⟨rfl, rfl, rfl, rfl, fun j hj => (if_neg (hno j hj 3 (by decide))).symm⟩
      · by_cases h4 : k = 4
        · subst h4
          exact ⟨rfl, rfl, rfl, rfl, fun j hj => (if_neg (hno j hj 4 (by decide))).symm⟩
        · by_cases h7 : k = 7
          · subst h7
            exact ⟨rfl, rfl, rfl, rfl, fun j hj => (if_neg (hno j hj 7 (by decide))).symm⟩
          · exact hother h0 h3 h4 h7 (by omega)

end

/-! ### What a doubleword reads (R245) -/

section
variable (c : Core) (x : Context)

theorem imageWord_reg {i : Nat} (h : i < 32) : imageWord c x (0x40 + 8 * i) = x.readS (BitVec.ofNat 5 i) := by
  unfold imageWord
  iterate 8 rw [if_neg (by omega)]
  rw [if_pos (by omega), show (0x40 + 8 * i - 0x40) / 8 = i by omega]

theorem imageWord_tileLow {i : Nat} (h : i < 16) : imageWord c x (0x140 + 16 * i) = (x.readT (BitVec.ofNat 4 i)).setWidth 64 := by
  unfold imageWord
  iterate 9 rw [if_neg (by omega)]
  rw [if_pos (by omega), if_neg (by omega), show (0x140 + 16 * i - 0x140) / 16 = i by omega, BitVec.ushiftRight_zero]

theorem imageWord_tileHigh {i : Nat} (h : i < 16) : imageWord c x (0x148 + 16 * i) = (x.readT (BitVec.ofNat 4 i)).extractLsb' 64 64 := by
  unfold imageWord
  iterate 9 rw [if_neg (by omega)]
  rw [if_pos (by omega), if_pos (by omega), show (0x148 + 16 * i - 0x140) / 16 = i by omega]
  rfl

theorem imageWord_handles {i : Nat} (h : i < 8) : imageWord c x (0x240 + 8 * i) = x.readB (BitVec.ofNat 4 (2 * i + 1)) ++ x.readB (BitVec.ofNat 4 (2 * i)) := by
  unfold imageWord
  iterate 10 rw [if_neg (by omega)]
  rw [if_pos (by omega)]
  dsimp only
  rw [show (0x240 + 8 * i - 0x240) / 4 = 2 * i by omega]
  exact BitVec.setWidth_eq _

theorem imageWord_floor {i : Nat} (h : i < 8) : imageWord c x (0x280 + 8 * i) = SMap.get 0 x.floors i := by
  unfold imageWord
  iterate 11 rw [if_neg (by omega)]
  rw [if_pos (by omega), show (0x280 + 8 * i - 0x280) / 8 = i by omega]

theorem imageWord_reply {i : Nat} (h : i < 4) : imageWord c x (0x2C0 + 8 * i) = SMap.get 0 x.reply i := by
  unfold imageWord
  iterate 12 rw [if_neg (by omega)]
  rw [if_pos (by omega), show (0x2C0 + 8 * i - 0x2C0) / 8 = i by omega]

/-- Four states of two bits each in one doubleword. -/
theorem packed_states : ∀ a b c d : BitVec 2, ∀ i < 4,
    ((((0 ||| ((a.setWidth 64 : Word) <<< (2 * 0))) ||| (b.setWidth 64 <<< (2 * 1))) ||| (c.setWidth 64 <<< (2 * 2))) ||| (d.setWidth 64 <<< (2 * 3))).toNat / 4 ^ i % 4 =
      ([a, b, c, d].getD i 0).toNat := by decide

theorem imageWord_states {i : Nat} (h : i < 4) : (imageWord c x 0x2E0).toNat / 4 ^ i % 4 = (SMap.get 0 x.rstate i).toNat := by
  have hp := packed_states (SMap.get 0 x.rstate 0) (SMap.get 0 x.rstate 1) (SMap.get 0 x.rstate 2) (SMap.get 0 x.rstate 3) i h
  refine Eq.trans hp ?_
  obtain rfl | rfl | rfl | rfl : i = 0 ∨ i = 1 ∨ i = 2 ∨ i = 3 := by omega
  all_goals rfl

end

/-! ### A context that is filled (R246) -/

/-- The context after the first `n` doublewords of an image. -/
def Context.imaged (x : Context) (ws : List Word) (n : Nat) : Context := (List.range n).foldl (fun x i => setImageWord x (8 * i) (ws.getD i 0) true) x

theorem Context.imaged_succ (x : Context) (ws : List Word) (n : Nat) : x.imaged ws (n + 1) = setImageWord (x.imaged ws n) (8 * n) (ws.getD n 0) true := by
  rw [Context.imaged, List.range_succ, List.foldl_append]
  rfl

theorem Context.imaged_place (x : Context) (ws : List Word) (n : Nat) : (x.imaged ws n).place = x.place := by
  induction n with
  | zero => rfl
  | succ n ih => rw [Context.imaged_succ, setImageWord_place, ih]

/-- Every field is that of its doubleword, where the image reaches it. -/
theorem Context.imaged_fields (x : Context) (ws : List Word) (n : Nat) : (0 < n → (x.imaged ws n).pc = ws.getD 0 0) ∧ (3 < n → (x.imaged ws n).rcnt = ws.getD 3 0) ∧
    (4 < n → (x.imaged ws n).win = ws.getD 4 0) ∧ (7 < n → (x.imaged ws n).wsp = ws.getD 7 0) ∧
    ∀ j : BitVec 5, j ≠ 0 → 8 + j.toNat < n → (x.imaged ws n).readS j = ws.getD (8 + j.toNat) 0 := by
  induction n with
  | zero => exact ⟨fun h => absurd h (by decide), fun h => absurd h (by decide), fun h => absurd h (by decide), fun h => absurd h (by decide),
      fun _ _ h => absurd h (by omega)⟩
  | succ n ih =>
    obtain ⟨h0, h3, h4, h7, hj⟩ := ih
    have hs := setImageWord_stores (x.imaged ws n) (ws.getD n 0) true n
    have last {k : Nat} {y : Word} (h : k < n → y = ws.getD k 0) (hk : k < n + 1) : (if n = k then ws.getD n 0 else y) = ws.getD k 0 := by
      split
      · rename_i e
        rw [e]
      · exact h (by omega)
    rw [Context.imaged_succ]
    refine ⟨fun h => hs.pc.trans (last h0 h), fun h => hs.rcnt.trans (last h3 h), fun h => hs.win.trans (last h4 h), fun h => hs.wsp.trans (last h7 h),
      fun j hne h => (hs.reg j hne).trans (last (hj j hne) h)⟩

end Sys2Proof.Machine
end

section
/-! O34 (R87, R88, R245, R246, R330): CTXR, CTXW, SPILL and FILL. -/

namespace Sys2Proof.Machine

/-! ### CTXR and CTXW (R245) -/

theorem withImage_user {s : State} (h : s.me.level = .u) (a b : BitVec 5) (f : State → ThreadRef → Nat → State) : withImage s a b f = trap s 0x04 s.irWord :=
  atLeast_supervisor_user h _

/-- The context that a CTXW leaves. -/
def Context.imageSet (x : Context) (o : Nat) (v : Word) : Context := if o = 0 then { setImageWord x o v false with skipWords := 0 } else setImageWord x o v false

theorem Context.imageSet_place (x : Context) (o : Nat) (v : Word) : (x.imageSet o v).place = x.place := by
  unfold Context.imageSet
  split
  · exact setImageWord_place x v false o
  · exact setImageWord_place x v false o

theorem Context.imageSet_of_ne (x : Context) {o : Nat} (v : Word) (h : o ≠ 0) : x.imageSet o v = setImageWord x o v false := if_neg h

section
variable {s : State} {a b : BitVec 5} (hl : s.me.level ≠ .u)
include hl

theorem withImage_absent (h : 23 < (s.S a).toNat ∨ (s.ctxOf ⟨s.cur.core, (s.S a).toNat⟩).st ≠ .parked) (f : State → ThreadRef → Nat → State) :
    withImage s a b f = trap s 0x01 (s.S a) := by
  rw [withImage, atLeast_supervisor hl, parkedArg_none h]

variable (hv : (s.S a).toNat ≤ 23) (hp : (s.ctxOf ⟨s.cur.core, (s.S a).toNat⟩).st = .parked)
include hv hp

theorem withImage_beyond (h : (s.S b).toNat % 8 ≠ 0 ∨ 0x2E8 ≤ (s.S b).toNat) (f : State → ThreadRef → Nat → State) : withImage s a b f = trap s 0x01 (s.S b) := by
  rw [withImage, atLeast_supervisor hl, parkedArg_some hv hp]
  exact if_pos h

theorem withImage_reaches (h : (s.S b).toNat % 8 = 0) (h' : (s.S b).toNat < 0x2E8) (f : State → ThreadRef → Nat → State) :
    withImage s a b f = f s ⟨s.cur.core, (s.S a).toNat⟩ (s.S b).toNat := by
  rw [withImage, atLeast_supervisor hl, parkedArg_some hv hp]
  exact if_neg (by omega)

theorem ctxr_writes (d : BitVec 5) (h : (s.S b).toNat % 8 = 0) (h' : (s.S b).toNat < 0x2E8) :
    Writes s (.ctxr d a b) d (imageWord (s.core s.cur.core) (s.ctxOf ⟨s.cur.core, (s.S a).toNat⟩) (s.S b).toNat) := by
  obtain ⟨u, hu, e⟩ := writeRetire_only s d (imageWord (s.core s.cur.core) (s.ctxOf ⟨s.cur.core, (s.S a).toNat⟩) (s.S b).toNat)
  refine ⟨u, hu, ?_⟩
  show execCtxr d a b s = _
  rw [execCtxr, withImage_reaches hl hv hp h h', e]

theorem ctxw_writes (d : BitVec 5) (h : (s.S b).toNat % 8 = 0) (h' : (s.S b).toNat < 0x2E8) (hb : s.me.st = .bound) :
    ∃ u, exec (.ctxw d a b) s = .next (boundary u) ∧ s.SameBytes u ∧ ∀ q, u.ctxOf q = if q = s.cur then advance s.me
      else if q = ⟨s.cur.core, (s.S a).toNat⟩ then (s.ctxOf ⟨s.cur.core, (s.S a).toNat⟩).imageSet (s.S b).toNat (s.S d) else s.ctxOf q := by
  obtain ⟨r, hr⟩ : ∃ r : ThreadRef, r = ⟨s.cur.core, (s.S a).toNat⟩ := ⟨_, rfl⟩
  rw [← hr] at hp ⊢
  have hne : s.cur ≠ r := fun e => by
    rw [← e] at hp
    exact nomatch hb.symm.trans hp
  obtain ⟨t, ht⟩ : ∃ t, t = s.setCtx r ((s.ctxOf r).imageSet (s.S b).toNat (s.S d)) := ⟨_, rfl⟩
  have hme : t.me = s.me := by
    show t.ctxOf t.cur = _
    rw [ht]
    exact (State.ctxOf_setCtx ..).trans (if_neg hne)
  obtain ⟨u, hu, e⟩ := retire_only t
  have hcur : t.cur = s.cur := by rw [ht]; rfl
  refine ⟨u, ?_, (State.sameBytes_iff.mpr (by rw [ht, State.setCtx_bytes]) : s.SameBytes t).trans hu.sameBytes, fun q => ?_⟩
  · show execCtxw d a b s = _
    rw [execCtxw, withImage_reaches hl hv (hr ▸ hp) h h', ← e, ht, hr] <;> rfl
  · rw [hu.ctx, hcur, hme, ht, State.ctxOf_setCtx]

end

/-! ### SPILL (R246) -/

/-- Spilling a context leaves the choice of the executing thread. -/
theorem spillAll_cur (r : ThreadRef) (n : Nat) (s : State) : (spillAll s r n).2.cur = s.cur := by
  induction n generalizing s with
  | zero => rfl
  | succ n ih =>
    have hw : (spillWindow s r).cur = s.cur := by
      obtain ⟨t0, h0⟩ : ∃ t, t = storeQuiet s (whoOf s r) (stackLoc r (s.ctxOf r).wsp 0) (windowBytes ((s.ctxOf r).wins.getLastD []) 16) (some 0) := ⟨_, rfl⟩
      have h1 : t0.2.2.cur = s.cur := h0 ▸ (storeQuiet_stores ..).1.cur
      have h2 := (storeQuiet_stores (t0.2.2.setClk r t0.1) (whoOf (t0.2.2.setClk r t0.1) r) (stackLoc r (s.ctxOf r).wsp 64) (windowBytes ((s.ctxOf r).wins.getLastD []) 24)
        (some 0)).1.cur
      rw [h0] at h1 h2
      exact h2.trans h1
    unfold spillAll
    dsimp only
    split
    · rfl
    · split
      · rfl
      · exact (ih _).trans hw

theorem storeDevice_cur (s : State) (w : Who) (t : Target) (bs : ByteList) : (storeDevice s w t bs).cur = s.cur := by
  rw [storeDevice, (takeRound_rounded _ _ _).kin.cur, (storeQuiet_stores s w t bs none).1.cur]

theorem writeSave_cur (k : Nat) (a : Word) (c : Core) (x : Context) (out clk : Nat) (l : List Nat) (s : State) : (writeSave s k a c x out clk l).2.cur = s.cur := by
  induction l generalizing s clk with
  | nil => rfl
  | cons i l ih =>
    unfold writeSave
    dsimp only
    have hk := (check_keeps s (saveWho s k) (a + BitVec.ofNat 64 (64 * i)).toNat { w := true, size := 64 }).touches.cur
    split
    · rename_i e
      rw [e] at hk
      exact hk
    · rename_i e
      rw [e] at hk
      rw [ih, storeDevice_cur]
      exact hk

theorem spillCtx_cur (s : State) (r : ThreadRef) : (spillCtx s r).2.cur = s.cur := by
  have h := spillAll_cur r 8 s
  unfold spillCtx
  dsimp only
  split
  · rename_i e
    rw [e] at h
    exact h
  · rename_i t e
    rw [e] at h
    have h' := writeSave_cur r.core (s.ctxOf r).save (t.core r.core) (t.ctxOf r) (t.outstanding (s.ctxOf r).tid) (t.clkOf r) (List.range 13) t
    split
    · rename_i e'
      rw [e'] at h'
      exact h'.trans h
    · rename_i e'
      rw [e'] at h'
      exact h'.trans h

/-- An instruction that has to be tried again is at once. -/
theorem tries_again {s t : State} {i : Instr} {obj : Nat} (he : exec i s = .next (tryAgain t obj)) (hc : t.cur = s.cur) :
    ∃ u, exec i s = .next u ∧ s.Waits u 1 obj .reissue ∧ .wake s.cur.core s.cur.ctx ∈ u.agenda := by
  obtain ⟨hw, hp⟩ := leave_waits t 1 obj .reissue
  rw [hc] at hw hp
  refine ⟨_, he, ⟨hw, hp⟩, ?_⟩
  rw [tryAgain, hc]
  exact List.mem_append_right _ (List.mem_singleton.mpr rfl)

section
variable {s : State} {a : BitVec 5} (hl : s.me.level ≠ .u) (hv : (s.S a).toNat ≤ 23) (hp : (s.ctxOf ⟨s.cur.core, (s.S a).toNat⟩).st = .parked)
include hl hv hp

theorem spill_eq : exec (.spill a) s = .next (if s.myCore.heldSq.any (fun h => decide (h.1 = .thread (s.S a).toNat)) || (s.ctxOf ⟨s.cur.core, (s.S a).toNat⟩).stopped
      || (s.ctxOf ⟨s.cur.core, (s.S a).toNat⟩).stopReq then tryAgain s (s.ctxOf ⟨s.cur.core, (s.S a).toNat⟩).save.toNat
    else match spillCtx s ⟨s.cur.core, (s.S a).toNat⟩ with
      | (some (c, va), s) => trap s c va
      | (none, t) => awaitReply t (s.ctxOf ⟨s.cur.core, (s.S a).toNat⟩).save.toNat) := by
  show execSpill a s = _
  rw [execSpill, atLeast_supervisor hl, parkedArg_some hv hp] <;> rfl

theorem spill_waits (h : (∃ h ∈ (s.core s.cur.core).heldSq, h.1 = .thread (s.S a).toNat) ∨ (s.ctxOf ⟨s.cur.core, (s.S a).toNat⟩).stopped = true ∨
      (s.ctxOf ⟨s.cur.core, (s.S a).toNat⟩).stopReq = true) :
    ∃ t, exec (.spill a) s = .next t ∧ s.Waits t 1 (s.ctxOf ⟨s.cur.core, (s.S a).toNat⟩).save.toNat .reissue ∧ .wake s.cur.core s.cur.ctx ∈ t.agenda := by
  refine tries_again (t := s) ?_ rfl
  rw [spill_eq hl hv hp, if_pos]
  rw [Bool.or_eq_true, Bool.or_eq_true, or_assoc, List.any_eq_true]
  exact h.imp_left fun ⟨p, hm, e⟩ => ⟨p, hm, decide_eq_true e⟩

variable (hh : ∀ h ∈ (s.core s.cur.core).heldSq, h.1 ≠ .thread (s.S a).toNat) (h1 : (s.ctxOf ⟨s.cur.core, (s.S a).toNat⟩).stopped = false)
  (h2 : (s.ctxOf ⟨s.cur.core, (s.S a).toNat⟩).stopReq = false)
include hh h1 h2

theorem spill_free : exec (.spill a) s = .next (match spillCtx s ⟨s.cur.core, (s.S a).toNat⟩ with
      | (some (c, va), s) => trap s c va
      | (none, t) => awaitReply t (s.ctxOf ⟨s.cur.core, (s.S a).toNat⟩).save.toNat) := by
  have hheld : s.myCore.heldSq.any (fun h => decide (h.1 = .thread (s.S a).toNat)) = false := List.any_eq_false.mpr fun p hm => by
    rw [decide_eq_true_eq]
    exact hh p hm
  rw [spill_eq hl hv hp, if_neg]
  rw [hheld, h1, h2]
  decide

theorem spill_spills (hb : s.me.st = .bound) {s' : State} (h : spillCtx s ⟨s.cur.core, (s.S a).toNat⟩ = (none, s')) :
    ∃ u, exec (.spill a) s = .next u ∧ s'.SameBytes u ∧ s.Waits u 1 (s.ctxOf ⟨s.cur.core, (s.S a).toNat⟩).save.toNat .reply ∧
      .memoryReply s.cur.core s.cur.ctx ∈ u.agenda ∧ u.ctxOf ⟨s.cur.core, (s.S a).toNat⟩ = {} ∧
      SMap.get 0 u.spilled (s.ctxOf ⟨s.cur.core, (s.S a).toNat⟩).tid = (s.ctxOf ⟨s.cur.core, (s.S a).toNat⟩).save ∧
      ∀ q, q ≠ ⟨s.cur.core, (s.S a).toNat⟩ → (u.ctxOf q).regs = (s.ctxOf q).regs := by
  have hx := spill_free hl hv hp hh h1 h2
  obtain ⟨r, hr⟩ : ∃ r : ThreadRef, r = ⟨s.cur.core, (s.S a).toNat⟩ := ⟨_, rfl⟩
  rw [← hr] at hx h hp ⊢
  have hne : r ≠ s.cur := fun e => by
    rw [e] at hp
    exact nomatch hb.symm.trans hp
  obtain ⟨hfree, hsp, hregs⟩ := spillCtx_spec h
  have hcur : s'.cur = s.cur := by
    have := spillCtx_cur s r
    rw [h] at this
    exact this
  have hk := awaitReply_keeps s' (s.ctxOf r).save.toNat
  obtain ⟨hw, hpend⟩ := leave_waits s' 1 (s.ctxOf r).save.toNat .reply
  rw [hcur] at hw hpend
  rw [h] at hx
  refine ⟨_, hx, hk.bytes, ⟨hw, hpend⟩, ?_, ?_, ?_, fun q hq => (hk.regs q).trans (hregs q hq)⟩
  · have := awaitReply_reply s' (s.ctxOf r).save.toNat
    rw [hcur] at this
    exact this
  · show (leave s' 1 (s.ctxOf r).save.toNat .reply).ctxOf r = {}
    rw [leave_ctxOf, if_neg (hcur ▸ hne), hfree]
  · exact (congrArg (fun m => SMap.get 0 m (s.ctxOf r).tid) (congrArg State.spilled hk.touches.rest)).trans hsp

end

/-! ### FILL (R246) -/

theorem autoSpill_cur (s : State) (r : ThreadRef) : (autoSpill s r).2.cur = s.cur := by
  have h := spillCtx_cur s r
  unfold autoSpill
  dsimp only
  split
  · rename_i e
    rw [e] at h
    dsimp only
    split
    · exact h
    · exact h
  · exact h

theorem needCtx_cur (k : Nat) (need : SpillNeed) (n : Nat) (s : State) : (needCtx s k need n).2.cur = s.cur := by
  induction n generalizing s with
  | zero => rfl
  | succ n ih =>
    unfold needCtx
    split
    · rfl
    · split
      · rfl
      · rename_i i _
        have h := autoSpill_cur s ⟨k, i⟩
        dsimp only
        split
        · rename_i e
          rw [e] at h
          exact h
        · rename_i e
          rw [e] at h
          exact (ih _).trans h

theorem readyLines_keeps (s : State) (i : Instr) (k : FwdKind) (lines : List Nat) :
    (∀ u, readyLines s i k lines = .error u → s.Keeps u) ∧ (∀ u, readyLines s i k lines = .ok u → s.Keeps u) := by
  unfold readyLines
  split
  · exact homeGate_keeps ..
  · refine ⟨fun u h => (nomatch h), fun u h => ?_⟩
    cases h
    exact foldl_keeps _ (fun s l => State.Keeps.micro s _) lines s

theorem loadQuiet_keeps (s : State) (w : Who) (t : Target) : s.Keeps (loadQuiet s w t).st := by
  have h := loadLine_keeping s { w with self := none, thread := none } { t with uncached := true }
  unfold loadQuiet
  split
  · rename_i a ha
    exact h.2 a ha
  · rename_i u hu
    exact h.1 u hu

theorem fillWords_keeps (a : Word) (n : Nat) (acc : List Word) (s : State) : s.Keeps (fillWords s a n acc).2 := by
  induction n generalizing acc s with
  | zero => exact State.Keeps.refl s
  | succ n ih =>
    unfold fillWords
    dsimp only
    have hk := check_keeps s s.myWho (a + BitVec.ofNat 64 (8 * acc.length)).toNat { r := true, size := 64 }
    split
    · rename_i e
      have e' : check s s.myWho (a + BitVec.ofNat 64 (8 * acc.length)).toNat { r := true, size := 64 } = _ := e
      rw [e'] at hk
      exact hk
    · rename_i e
      have e' : check s s.myWho (a + BitVec.ofNat 64 (8 * acc.length)).toNat { r := true, size := 64 } = _ := e
      rw [e'] at hk
      dsimp only at hk
      exact ((hk.then (loadQuiet_keeps _ _ _)).then (loadedMe_keeps (State.Keeps.refl _) _)).then (ih _ _)

section
variable {s : State} {d a b : BitVec 5} (hl : s.me.level ≠ .u)
include hl

theorem fill_traps {c : Nat} {s' : State} (h : checkMe s (s.S a) { r := true, size := 1024 } = (.error c, s')) :
    exec (.fill d a b) s = .next (trap (endNeeds s' s.cur.core (fun y => decide (y = .fill s.cur.ctx))) c (s.S a)) := by
  show execFill d a b s = _
  rw [execFill, atLeast_supervisor hl]
  dsimp only
  rw [h]
  dsimp only
  rw [(checkMe_keeps h).touches.cur]

/-- A context is filled with the doublewords read. -/
def fillInto (d b : BitVec 5) (va : Word) (ws : List Word) (i : Nat) (s : State) : State :=
  let r : ThreadRef := ⟨s.cur.core, i⟩
  let s := restoreCtx s r (filledContext s va (s.S b).toNat ws) (s.clkOf s.cur)
  let s := { s with micro := { s.micro with l1i := SMap.set [] s.micro.l1i r.core [] } }
  awaitReply (s.setS d (BitVec.ofNat 64 i)) va.toNat

/-- FILL once the lines of its save area are at hand. -/
def fillFrom (d b : BitVec 5) (va : Word) (s : State) : State :=
  match fillWords s va 13 [] with
  | (.error (c, v), s) => trap (endNeeds s s.cur.core (fun y => decide (y = .fill s.cur.ctx))) c v
  | (.ok ws, s) =>
    if ws.getD 98 0 ≠ 0 then tryAgain s va.toNat
    else match needCtx s s.cur.core (.fill s.cur.ctx) 24 with
      | (none, s) => tryAgain s va.toNat
      | (some i, s) => fillInto d b va ws i s

variable {t : Target} {s' : State} (h : checkMe s (s.S a) { r := true, size := 1024 } = (.ok t, s'))
include h

theorem fill_checked : exec (.fill d a b) s = .next (if 14 < (s.S b).toNat then trap (endNeeds s' s.cur.core (fun y => decide (y = .fill s.cur.ctx))) 0x01 (s.S b)
    else match readyLines s' (.wake s.cur.core s.cur.ctx) .gets (saveLines t) with
      | .error u => leave u 1 (s.S a).toNat .reissue
      | .ok u => fillFrom d b (s.S a) u) := by
  show execFill d a b s = _
  rw [execFill, atLeast_supervisor hl]
  dsimp only
  rw [h]
  dsimp only
  rw [(checkMe_keeps h).touches.cur, (checkMe_keeps h).readS] <;> rfl

theorem fill_slot (ho : 14 < (s.S b).toNat) :
    exec (.fill d a b) s = .next (trap (endNeeds s' s.cur.core (fun y => decide (y = .fill s.cur.ctx))) 0x01 (s.S b)) := by
  rw [fill_checked hl h, if_pos ho]

variable (ho : (s.S b).toNat ≤ 14)
include ho

theorem fill_stands {u : State} (hr : readyLines s' (.wake s.cur.core s.cur.ctx) .gets (saveLines t) = .error u) : Retries s (.fill d a b) 1 (s.S a).toNat := by
  refine retries_of (t := u) ?_ ((checkMe_keeps h).then ((readyLines_keeps ..).1 u hr))
  rw [fill_checked hl h, if_neg (by omega), hr]

theorem fill_ready {u : State} (hr : readyLines s' (.wake s.cur.core s.cur.ctx) .gets (saveLines t) = .ok u) :
    exec (.fill d a b) s = .next (fillFrom d b (s.S a) u) ∧ s.Keeps u := by
  refine ⟨?_, (checkMe_keeps h).then ((readyLines_keeps ..).2 u hr)⟩
  rw [fill_checked hl h, if_neg (by omega), hr]

end

section
variable {s : State} {d b : BitVec 5} {va : Word}

theorem fillFrom_traps {c : Nat} {v : Word} {u : State} (h : fillWords s va 13 [] = (.error (c, v), u)) :
    fillFrom d b va s = trap (endNeeds u s.cur.core (fun y => decide (y = .fill s.cur.ctx))) c v := by
  have hk := fillWords_keeps va 13 [] s
  rw [h] at hk
  rw [fillFrom, h]
  dsimp only
  rw [hk.touches.cur]

variable {ws : List Word} {u : State} (h : fillWords s va 13 [] = (.ok ws, u))
include h

theorem fillFrom_words : fillFrom d b va s = (if ws.getD 98 0 ≠ 0 then tryAgain u va.toNat else match needCtx u s.cur.core (.fill s.cur.ctx) 24 with
      | (none, s) => tryAgain s va.toNat
      | (some i, s) => fillInto d b va ws i s) ∧ u.cur = s.cur := by
  have hk := fillWords_keeps va 13 [] s
  rw [h] at hk
  refine ⟨?_, hk.touches.cur⟩
  rw [fillFrom, h]
  dsimp only
  rw [hk.touches.cur]

/-- The save area of a thread whose barges are not all complete, or a core that finds no context for it, is tried again. -/
theorem fillFrom_again (hn : ws.getD 98 0 ≠ 0 ∨ (needCtx u s.cur.core (.fill s.cur.ctx) 24).1 = none) : ∃ v, fillFrom d b va s = tryAgain v va.toNat ∧ v.cur = s.cur := by
  obtain ⟨e, hcur⟩ := fillFrom_words (d := d) (b := b) h
  by_cases h98 : ws.getD 98 0 ≠ 0
  · exact ⟨u, by rw [e, if_pos h98], hcur⟩
  · have hnone := hn.resolve_left h98
    have hc := needCtx_cur s.cur.core (.fill s.cur.ctx) 24 u
    obtain ⟨i, v, hneed⟩ : ∃ i v, needCtx u s.cur.core (.fill s.cur.ctx) 24 = (i, v) := ⟨_, _, rfl⟩
    rw [hneed] at hnone hc
    subst hnone
    exact ⟨v, by rw [e, if_neg h98, hneed], hc.trans hcur⟩

theorem fillFrom_fills (h98 : ws.getD 98 0 = 0) {i : Nat} {v : State} (hneed : needCtx u s.cur.core (.fill s.cur.ctx) 24 = (some i, v)) :
    fillFrom d b va s = fillInto d b va ws i v ∧ v.cur = s.cur := by
  obtain ⟨e, hcur⟩ := fillFrom_words (d := d) (b := b) h
  have hc := needCtx_cur s.cur.core (.fill s.cur.ctx) 24 u
  rw [hneed] at hc
  exact ⟨by rw [e, if_neg (not_not_intro h98), hneed], hc.trans hcur⟩

end

/-- The context that the save area holds. -/
theorem filledContext_eq (s : State) (a : Word) (slot : Nat) (ws : List Word) : ∃ x : Context, x.place = (.parked, slot, .u, a, 0, 0) ∧
    filledContext s a slot ws = { x.imaged ws 93 with rcb := BitVec.ofNat 11 (ws.getD 96 0).toNat, join := ws.getD 97 0 } := by
  obtain ⟨tid, h⟩ : ∃ tid, filledContext s a slot ws = { Context.imaged { st := .parked, slot := slot, tid := tid, save := a, parkedAt := s.cycle } ws 93 with
    rcb := BitVec.ofNat 11 (ws.getD 96 0).toNat, join := ws.getD 97 0 } := ⟨_, rfl⟩
  exact ⟨_, rfl, h⟩

/-- What a filled context is, by its save area. -/
structure Context.FilledFrom (y : Context) (a : Word) (slot : Nat) (ws : List Word) : Prop where
  st : y.st = .parked
  slot : y.slot = slot
  level : y.level = .u
  save : y.save = a
  rcb : y.rcb = BitVec.ofNat 11 (ws.getD 96 0).toNat
  join : y.join = ws.getD 97 0
  pc : y.pc = ws.getD 0 0
  rcnt : y.rcnt = ws.getD 3 0
  win : y.win = ws.getD 4 0
  wsp : y.wsp = ws.getD 7 0
  reg : ∀ j : BitVec 5, j ≠ 0 → y.readS j = ws.getD (8 + j.toNat) 0

theorem filledContext_spec (s : State) (a : Word) (slot : Nat) (ws : List Word) : (filledContext s a slot ws).FilledFrom a slot ws := by
  obtain ⟨x, hxp, e⟩ := filledContext_eq s a slot ws
  have hplace := Context.imaged_place x ws 93
  obtain ⟨h0, h3, h4, h7, hj⟩ := Context.imaged_fields x ws 93
  rw [hxp] at hplace
  obtain ⟨z, hz⟩ : ∃ z, z = x.imaged ws 93 := ⟨_, rfl⟩
  rw [← hz] at e hplace h0 h3 h4 h7 hj
  simp only [Context.place, Prod.mk.injEq] at hplace
  obtain ⟨p1, p2, p3, p4, -, -⟩ := hplace
  rw [e]
  exact ⟨p1, p2, p3, p4, rfl, rfl, h0 (by decide), h3 (by decide), h4 (by decide), h7 (by decide), fun j hne => hj j hne (by omega)⟩

/-- A restored context, and no other, is changed. -/
theorem restoreCtx_ctxOf (s : State) (r q : ThreadRef) (x : Context) (clk : Nat) : (restoreCtx s r x clk).ctxOf q = if q = r then x else s.ctxOf q := by
  obtain ⟨t, ht⟩ : ∃ t : State, t = (s.setCtx r x).setClk r clk := ⟨_, rfl⟩
  have hcore : ((restoreCtx s r x clk).core q.core).ctxs = (t.core q.core).ctxs := by
    have h := SMap.get_map ({} : Core) (fun c : Core => { c with
      budgetSpills := c.budgetSpills.filter (fun e => decide (e.save ≠ x.save))
      spillFails := c.spillFails.filter (fun f => decide (f.1 ≠ .back x.save)) }) rfl ((s.setCtx r x).setClk r clk).cores q.core
    rw [ht]
    exact (congrArg Core.ctxs h :)
  rw [State.ctxOf, Core.ctx, hcore, ht]
  exact State.ctxOf_setCtx ..

theorem restoreCtx_cur (s : State) (r : ThreadRef) (x : Context) (clk : Nat) : (restoreCtx s r x clk).cur = s.cur := rfl

theorem restoreCtx_bytes (s : State) (r : ThreadRef) (x : Context) (clk : Nat) : (restoreCtx s r x clk).bytes = s.bytes := by
  unfold restoreCtx
  exact (State.setClk_bytes (s.setCtx r x) r clk).trans (State.setCtx_bytes s r x)

/-- What a fill leaves. -/
theorem fillInto_spec {s : State} {d b : BitVec 5} {va : Word} {ws : List Word} {i : Nat} (hi : i ≠ s.cur.ctx) :
    s.SameBytes (fillInto d b va ws i s) ∧ s.Waits (fillInto d b va ws i s) 1 va.toNat .reply ∧ .memoryReply s.cur.core s.cur.ctx ∈ (fillInto d b va ws i s).agenda ∧
      (fillInto d b va ws i s).me.regs = (s.me.writeS d (BitVec.ofNat 64 i)).regs ∧
      (fillInto d b va ws i s).ctxOf ⟨s.cur.core, i⟩ = filledContext s va (s.S b).toNat ws := by
  obtain ⟨v, hv⟩ : ∃ v : State, v = restoreCtx s ⟨s.cur.core, i⟩ (filledContext s va (s.S b).toNat ws) (s.clkOf s.cur) := ⟨_, rfl⟩
  have hvc (q : ThreadRef) : v.ctxOf q = if q = ⟨s.cur.core, i⟩ then filledContext s va (s.S b).toNat ws else s.ctxOf q := by
    rw [hv]
    exact restoreCtx_ctxOf ..
  have hcur : v.cur = s.cur := hv ▸ restoreCtx_cur ..
  have hbytes : v.bytes = s.bytes := hv ▸ restoreCtx_bytes ..
  obtain ⟨y, hy⟩ : ∃ y : State, y = { v with micro := { v.micro with l1i := SMap.set [] v.micro.l1i s.cur.core [] } } := ⟨_, rfl⟩
  have hyc (q : ThreadRef) : y.ctxOf q = v.ctxOf q := by rw [hy]; rfl
  have hycur : y.cur = s.cur := by rw [hy]; exact hcur
  have hyb : y.bytes = v.bytes := by rw [hy]; rfl
  obtain ⟨w, hw⟩ : ∃ w : State, w = y.setS d (BitVec.ofNat 64 i) := ⟨_, rfl⟩
  have hx : fillInto d b va ws i s = awaitReply w va.toNat := by rw [fillInto, hw, hy, hv]
  have hwcur : w.cur = s.cur := by rw [hw]; exact hycur
  have hne : s.cur ≠ ⟨s.cur.core, i⟩ := fun e => hi (congrArg ThreadRef.ctx e).symm
  have hme : y.me = s.me := by rw [State.me, hyc, hvc, hycur, if_neg hne]; rfl
  have hwc (q : ThreadRef) : w.ctxOf q = if q = s.cur then s.me.writeS d (BitVec.ofNat 64 i) else v.ctxOf q := by
    rw [hw, ← hycur, ← hme, ← hyc]
    exact State.ctxOf_setMe ..
  have hk := awaitReply_keeps w va.toNat
  obtain ⟨hwait, hpend⟩ := leave_waits w 1 va.toNat .reply
  rw [hwcur] at hwait hpend
  rw [hx]
  refine ⟨State.sameBytes_iff.mpr ?_, ⟨hwait, hpend⟩, ?_, ?_, ?_⟩
  · rw [hk.bytes.bytes_eq, hw, State.setS_bytes, hyb, hbytes]
  · have := awaitReply_reply w va.toNat
    rw [hwcur] at this
    exact this
  · rw [State.me, hk.touches.cur, hk.regs, hwcur, hwc, if_pos rfl]
  · show (leave w 1 va.toNat .reply).ctxOf ⟨s.cur.core, i⟩ = _
    rw [leave_ctxOf, hwcur, if_neg hne.symm, hwc, if_neg hne.symm, hvc, if_pos rfl]

/-! ### Registers while a core looks for a free context (R87) -/

/-- A spill that fails leaves every register. -/
theorem spillCtx_fails {s s' : State} {r : ThreadRef} {e : Nat × Word} (h : spillCtx s r = (some e, s')) (q : ThreadRef) : (s'.ctxOf q).regs = (s.ctxOf q).regs := by
  have restored {u : State} (hu : ∀ q, q ≠ r → (u.ctxOf q).regs = (s.ctxOf q).regs) : ((u.setCtx r (s.ctxOf r)).ctxOf q).regs = (s.ctxOf q).regs := by
    rw [State.ctxOf_setCtx]
    split
    · subst q; rfl
    · exact hu q ‹_›
  unfold spillCtx at h
  dsimp only at h
  split at h
  · rename_i ht
    cases h
    refine restored fun q hq => ?_
    have h1 := spillAll_regs r 8 s hq
    rw [ht] at h1
    exact h1
  · rename_i t ht
    split at h
    · rename_i hu
      cases h
      refine restored fun q hq => ?_
      have h1 := spillAll_regs r 8 s hq
      have h2 := writeSave_regs r.core (s.ctxOf r).save (t.core r.core) (t.ctxOf r) (t.outstanding (s.ctxOf r).tid) (t.clkOf r) (List.range 13) t q
      rw [ht] at h1
      rw [hu] at h2
      exact h2.trans h1
    · cases h

/-- A core that finds a free context leaves the registers of every other. -/
theorem needCtx_regs {k : Nat} {need : SpillNeed} {n : Nat} {s v : State} {i : Nat} (h : needCtx s k need n = (some i, v)) {q : ThreadRef} (hq : q ≠ ⟨k, i⟩) :
    (v.ctxOf q).regs = (s.ctxOf q).regs := by
  induction n generalizing s with
  | zero =>
    obtain ⟨-, rfl⟩ := Prod.mk.inj h
    rfl
  | succ n ih =>
    unfold needCtx at h
    split at h
    · obtain ⟨-, rfl⟩ := Prod.mk.inj h
      rw [endNeeds_ctxOf]
    · split at h
      · cases h
      · rename_i j _
        dsimp only at h
        cases hsp : spillCtx s ⟨k, j⟩ with
        | mk e t =>
          cases e with
          | none =>
            obtain ⟨u, e, hctx, -⟩ := autoSpill_none hsp
            rw [e] at h
            obtain ⟨hj, rfl⟩ := Prod.mk.inj h
            cases hj
            rw [endNeeds_ctxOf, hctx]
            exact (spillCtx_spec hsp).2.2 q hq
          | some e =>
            rw [autoSpill_some hsp] at h
            refine (ih h).trans ?_
            rw [show (failSpill t ⟨k, j⟩ need).ctxOf q = t.ctxOf q from State.ctxOf_setCore_of_ctxs (by rfl) q]
            exact spillCtx_fails hsp q

/-- Settles O34: CTXR and CTXW doubleword by doubleword, SPILL by the context and its spill, FILL by its check, its lines and the free context. -/
theorem contextImages : Obligations.ContextImages := by
  unfold Obligations.ContextImages
  intro s d a b
  refine ⟨fun hu => ⟨congrArg Host.Outcome.next (withImage_user hu a b _), congrArg Host.Outcome.next (withImage_user hu a b _),
      congrArg Host.Outcome.next (atLeast_supervisor_user hu _), congrArg Host.Outcome.next (atLeast_supervisor_user hu _)⟩,
    fun hl h => ⟨congrArg Host.Outcome.next (withImage_absent hl h _), congrArg Host.Outcome.next (withImage_absent hl h _), ?spillAbsent⟩,
    fun hl hv hp => ⟨fun h => ⟨congrArg Host.Outcome.next (withImage_beyond hl hv hp h _), congrArg Host.Outcome.next (withImage_beyond hl hv hp h _)⟩,
      fun h h' => ⟨?read, fun hb => ?write⟩, spill_waits hl hv hp, fun hh h1 h2 hb => ⟨fun c w s' h => ?spillTraps, fun s' h => spill_spills hl hv hp hh h1 h2 hb h⟩⟩,
    fun hl => ⟨fun c s' h => fill_traps hl h, fun t s' h => ⟨fill_slot hl h, fun ho => ⟨fun u hr => fill_stands hl h ho hr, fun s1 hr => ?fill⟩⟩⟩⟩
  case spillAbsent =>
    show execSpill a s = _
    rw [execSpill, atLeast_supervisor hl, parkedArg_none h]
  case spillTraps => rw [spill_free hl hv hp hh h1 h2, h]
  case read =>
    refine ⟨_, ctxr_writes hl hv hp d h h', fun e => ?_, fun e => ?_, fun e => ?_, fun e => ?_, fun e => ?_, fun e => ?_, fun e => ?_, fun i hi e => ?_, fun i hi e => ?_,
      fun i hi e => ?_, fun i hi e => ?_, fun i hi e => ?_, fun i hi e => ?_, fun e i hi => ?_⟩
    iterate 7
      · rw [e]
        rfl
    · rw [e, imageWord_reg _ _ hi]
    · rw [e, imageWord_tileLow _ _ hi]
    · rw [e, imageWord_tileHigh _ _ hi]
    · rw [e, imageWord_handles _ _ hi]
    · rw [e, imageWord_floor _ _ hi]
    · rw [e, imageWord_reply _ _ hi]
    · rw [e, imageWord_states _ _ hi]
  case write =>
    obtain ⟨u, eu, hbytes, hctx⟩ := ctxw_writes (a := a) (b := b) hl hv hp d h h' hb
    have hplace := Context.imageSet_place (s.ctxOf ⟨s.cur.core, (s.S a).toNat⟩) (s.S b).toNat (s.S d)
    simp only [Context.place, Prod.mk.injEq] at hplace
    obtain ⟨p1, p2, p3, -, -, -⟩ := hplace
    refine ⟨u, _, eu, hbytes, hctx, p1.trans hp, p2, p3, fun e => ?_, fun e => ?_, fun e => ?_, fun e => ?_, fun e => ?_, fun e => ?_, fun e => ?_, fun e => ?_,
      fun i hi e => ?_, fun i hi e => ?_, fun i hi e => ?_, fun i hi e => ?_, fun i hi e => ?_, fun i hi e => ?_, fun e i hi => ?_⟩
    · rw [e]; rfl
    · rw [e]; rfl
    · rw [e, Context.imageSet_of_ne _ _ (by decide), ← BitVec.ofNat_toNat]; rfl
    · rw [e]; rfl
    · rw [e]; rfl
    · rw [e, Context.imageSet_of_ne _ _ (by decide), ← BitVec.ofNat_toNat]; rfl
    · rw [e]; rfl
    · rw [e]; rfl
    · rw [e, Context.imageSet_of_ne _ _ (by omega), setImageWord_reg _ _ _ hi]
    · rw [e, Context.imageSet_of_ne _ _ (by omega), setImageWord_tileLow _ _ _ hi]
    · rw [e, Context.imageSet_of_ne _ _ (by omega), setImageWord_tileHigh _ _ _ hi]
    · rw [e, Context.imageSet_of_ne _ _ (by omega), setImageWord_handles _ _ _ hi]
    · rw [e, Context.imageSet_of_ne _ _ (by omega), setImageWord_floor _ _ _ hi]
    · rw [e, Context.imageSet_of_ne _ _ (by omega), setImageWord_reply _ _ _ hi]
    · rw [e]
      exact replyStates_get (s.S d) hi
  case fill =>
    obtain ⟨eu, hk⟩ := fill_ready (d := d) hl h ho hr
    refine ⟨fun c w s'' hw => ?_, fun ws s'' hw => ⟨fun hn => ?_, fun i s3 h98 hneed hi => ?_⟩⟩
    · rw [eu, fillFrom_traps hw, hk.touches.cur]
    · rw [← hk.touches.cur] at hn
      obtain ⟨v, e, hcur⟩ := fillFrom_again (d := d) (b := b) hw hn
      exact tries_again (eu.trans (congrArg Host.Outcome.next e)) (hcur.trans hk.touches.cur)
    · rw [← hk.touches.cur] at hneed
      obtain ⟨e, hcur⟩ := fillFrom_fills (d := d) (b := b) hw h98 hneed
      have hc3 : s3.cur = s.cur := hcur.trans hk.touches.cur
      obtain ⟨hb, ⟨hwait, hpend⟩, hrep, hregs, hctx⟩ := fillInto_spec (d := d) (b := b) (va := s.S a) (ws := ws) (s := s3) (i := i) (by rw [hc3]; exact hi)
      have hSb : s3.S b = s.S b := by
        have h1 := needCtx_regs hneed (q := s.cur) (fun e => hi (congrArg ThreadRef.ctx e).symm)
        have h2 := (fillWords_keeps (s.S a) 13 [] s1).regs s.cur
        rw [hw] at h2
        have h3 : (s3.ctxOf s.cur).regs = s.me.regs := h1.trans (h2.trans (hk.regs s.cur))
        rw [State.S, State.me, hc3]
        exact (congrArg (fun x : Context => x.readS b) h3 :)
      rw [hc3] at hwait hpend hrep hctx
      rw [hSb] at hctx
      have hf := filledContext_spec s3 (s.S a) (s.S b).toNat ws
      refine ⟨_, eu.trans (congrArg Host.Outcome.next e), hb, ⟨hwait, hpend⟩, hrep, hregs, ?_⟩
      rw [hctx]
      exact ⟨hf.st, hf.slot, hf.level, hf.save, hf.rcb, hf.join, hf.pc, hf.rcnt, hf.win, hf.wsp, hf.reg⟩

end Sys2Proof.Machine
end

section
namespace Sys2Proof.Machine

/-- A launched RCB whose budget of one slot-cycle is spent, in a device whose memory key is erased: the
RCB's line is not delivered, and no slot-cycle can be added to it. -/
def overdrawnWhileErased : State :=
  { State.reset with sdie := { State.reset.sdie with erased := true }, rcbs := [(0, { launched := true, budget := 1, pendingUse := 1 })] }

theorem overdrawnWhileErased_reg : overdrawnWhileErased.reg 0 = { launched := true, budget := 1, pendingUse := 1 } := rfl

theorem overdrawnWhileErased_hidden : overdrawnWhileErased.rcbHere 0 = false := by
  simp [State.rcbHere, State.delivered, overdrawnWhileErased]

theorem overdrawnWhileErased_consumed : overdrawnWhileErased.rcbWord 0 0x20 = 0 := by decide

/-- The update leaves an RCB alone whose line is not delivered. -/
theorem execConsumedUpdate_hidden {s : State} {rcb : Nat} (hr : rcb < 2048) (h : s.rcbHere rcb = false) : exec (.consumedUpdate rcb) s = .next s := by
  show execConsumedUpdate rcb s = _
  rw [execConsumedUpdate, if_neg (Nat.not_le.mpr hr), addConsumed, h]
  exact congrArg _ (ite_self _)

/-- Refutes O39: its clause on a spent budget does not ask that the RCB's line be at hand. In `overdrawnWhileErased`
the update changes nothing, so the RCB is not marked as exhausted. -/
theorem not_regionsRunAndEnd : ¬ Obligations.RegionsRunAndEnd := by
  unfold Obligations.RegionsRunAndEnd
  intro h
  obtain ⟨-, -, -, -, -, hspent, -⟩ := h overdrawnWhileErased 0 0 0 (by decide) (by decide) (by decide)
  obtain ⟨u, hu, hex, -⟩ := hspent rfl (by decide) (by rw [overdrawnWhileErased_consumed]; decide) rfl rfl (fun j => ⟨rfl, fun _ hp => (nomatch hp)⟩)
  rw [execConsumedUpdate_hidden (by decide) overdrawnWhileErased_hidden] at hu
  injection hu with hu
  subst hu
  exact absurd hex (by decide)

end Sys2Proof.Machine
end

section
/-! O48 (R35, R233, R234, R239, R357, R369, R398 to R403): bring-up, reset, power, machine checks, wear and the slot counters. -/

namespace Sys2Proof.Machine

/-! ### What bring-up clears -/

/-- A directory of at most `n` lines, with nothing else in the caches: all that the table readers of stage 3 leave. -/
structure Micro.Listing (m : Micro) (n : Nat) : Prop where
  rest : m = { dir := m.dir, dirOrder := m.dirOrder }
  few : m.dirOrder.length ≤ n

theorem Micro.Listing.watchesOn {m : Micro} {n : Nat} (h : m.Listing n) (pa : Nat) (rd wr : Bool) : m.watchesOn pa rd wr = [] := by
  rw [h.rest]
  simp [Micro.watchesOn]

theorem Micro.Listing.mono {m : Micro} {n k : Nat} (h : m.Listing n) (hk : n ≤ k) : m.Listing k := ⟨h.rest, h.few.trans hk⟩

theorem Micro.Listing.register {m : Micro} {n : Nat} (h : m.Listing n) (hn : n < 32768) (needs : Party → Nat → Bool) (p : Party) (line : Nat) :
    (m.register needs p line).1.Listing (n + 1) ∧ (m.register needs p line).2 = [] := by
  have h1 : m.dirOrder.contains line ∨ m.dirOrder.length < 32768 := .inr (h.few.trans_lt hn)
  rw [Micro.register, if_pos h1]
  refine ⟨⟨by rw [h.rest], ?_⟩, rfl⟩
  show (if m.dirOrder.contains line then m.dirOrder else m.dirOrder ++ [line]).length ≤ n + 1
  split
  · exact h.few.trans (Nat.le_succ n)
  · rw [List.length_append]
    exact Nat.succ_le_succ h.few

/-- `t` is `s` but for its directory, which lists `n` lines at most. -/
structure State.Listed (s : State) (n : Nat) (t : State) : Prop where
  rest : t = { s with micro := t.micro }
  listing : t.micro.Listing n

theorem State.Listed.mono {s t : State} {n k : Nat} (h : s.Listed n t) (hk : n ≤ k) : s.Listed k t := ⟨h.rest, h.listing.mono hk⟩

theorem State.Listed.track {s t : State} {n : Nat} (h : s.Listed n t) (hn : n < 32768) (p : Party) (line : Nat) : s.Listed (n + 1) (t.track p line) := by
  obtain ⟨h1, h2⟩ := h.listing.register hn t.needs p line
  have e : t.track p line = { t with micro := (t.micro.register t.needs p line).1 } := by
    rw [State.track]
    refine Eq.trans (b := ({ t with micro := (t.micro.register t.needs p line).1 } : State).post (t.micro.register t.needs p line).2) ?_ ?_
    · show List.foldl _ _ (Micro.watchesOn (t.micro.register t.needs p line).1 _ _ _) = _
      rw [h1.watchesOn]
      rfl
    · rw [h2, State.post_nil]
  rw [e]
  exact ⟨by rw [h.rest], h1⟩

/-- A party reads a line of a table, where there is one. -/
def State.readTable (s : State) (p : Party) (line : Nat) : State := if 64 * line + 64 > s.capacity then s else s.track p line

theorem State.trackTables_eq (s : State) : s.trackTables =
    let w := (s.qtable + 0xC0000) / 64
    let u := (List.range 64).foldl (fun s c => (s.readTable (.hub c) w).readTable (.hub c) (w + 1)) s
    (List.range 4).foldl (fun s i => s.readTable .sdie ((s.qtable + 0xD0000) / 64 + i)) u := rfl

theorem State.Listed.readTable {s t : State} {n : Nat} (h : s.Listed n t) (hn : n < 32768) (p : Party) (line : Nat) :
    s.Listed (n + 1) (t.readTable p line) := by
  rw [State.readTable]
  split
  · exact h.mono (Nat.le_succ n)
  · exact h.track hn p line

/-- Readers one after another, each of `m` lines at most. -/
theorem State.Listed.foldl {s : State} {α : Type} (f : State → α → State) (m : Nat) (l : List α) {n : Nat}
    (hf : ∀ t a k, k < n + m * l.length → s.Listed k t → s.Listed (k + m) (f t a)) (hm : 0 < m) {t : State} (h : s.Listed n t) :
    s.Listed (n + m * l.length) (l.foldl f t) := by
  induction l generalizing n t with
  | nil => exact h
  | cons a l ih =>
    rw [List.length_cons, Nat.mul_succ] at hf ⊢
    have h1 := hf t a n (by omega) h
    have h2 := ih (fun t a k hk => hf t a k (by omega)) h1
    exact h2.mono (by omega)

/-- What stage 3 clears. -/
def State.cleared (s : State) : State := { s with mem := [], side := [], poison := [], cores := [], dispensers := [], micro := {} }

theorem bootClear_listed (s : State) : s.cleared.Listed 4228 (bootClear s) := by
  have h0 : s.cleared.Listed 0 s.cleared := ⟨rfl, rfl, Nat.zero_le 0⟩
  have h1 := h0.foldl State.trackRecord 1 (List.range 4096) (fun t a k hk h => h.readTable (by simp at hk; omega) _ _) Nat.one_pos
  rw [show bootClear s = ((List.range 4096).foldl State.trackRecord s.cleared).trackTables from rfl, State.trackTables_eq]
  obtain ⟨t, ht⟩ : ∃ t, t = (List.range 4096).foldl State.trackRecord s.cleared := ⟨_, rfl⟩
  rw [← ht] at h1 ⊢
  have h2 := h1.foldl (fun s c => (s.readTable (.hub c) ((t.qtable + 0xC0000) / 64)).readTable (.hub c) ((t.qtable + 0xC0000) / 64 + 1)) 2 (List.range 64)
    (fun t a k hk h => (h.readTable (by simp at hk; omega) _ _).readTable (by simp at hk; omega) _ _) Nat.two_pos
  have h3 := h2.foldl (fun s i => s.readTable .sdie ((s.qtable + 0xD0000) / 64 + i)) 1 (List.range 4)
    (fun t a k hk h => h.readTable (by simp at hk; omega) _ _) Nat.one_pos
  exact h3.mono (by simp only [List.length_range]; omega)

/-! ### The slots that bring-up starts -/

/-- A thread as bring-up starts it in slot 15. -/
def slot15Thread (lv : Level) (prior : BitVec 2) (pc : Word) (tid : Nat) : Context :=
  { st := .bound, slot := 15, pc := pc, level := lv, prior := prior, tid := tid }

theorem startSlot15_ctxOf (s : State) (k : Nat) (lv : Level) (prior : BitVec 2) (pc : Word) (r : ThreadRef) :
    (startSlot15 s k lv prior pc).ctxOf r = if r = ⟨k, 0⟩ then slot15Thread lv prior pc s.nextTid else s.ctxOf r :=
  State.ctxOf_setCtx ..

/-- The kernel's threads: one in context 0 of each core `k + 1` named, and no other context changes. -/
theorem startSlots_ctxOf (pc : Word) (l : List Nat) (s : State) :
    let t := l.foldl (fun s k => startSlot15 s (k + 1) .s 0 pc) s
    (∀ k ∈ l, ∃ n, t.ctxOf ⟨k + 1, 0⟩ = slot15Thread .s 0 pc n) ∧ (∀ r, (∀ k ∈ l, r.core ≠ k + 1) → t.ctxOf r = s.ctxOf r) ∧
      t = { s with cores := t.cores, nextTid := t.nextTid } := by
  induction l generalizing s with
  | nil => exact ⟨fun _ h => (nomatch h), fun _ _ => rfl, rfl⟩
  | cons a l ih =>
    obtain ⟨h1, h2, h3⟩ := ih (startSlot15 s (a + 1) .s 0 pc)
    refine ⟨fun k hk => ?_, fun r hr => ?_, ?_⟩
    · by_cases hl : k ∈ l
      · exact h1 k hl
      · obtain rfl : k = a := (List.mem_cons.mp hk).resolve_right hl
        have e := h2 ⟨k + 1, 0⟩ (fun j hj e => hl (by obtain rfl : k = j := Nat.succ.inj e; exact hj))
        rw [startSlot15_ctxOf, if_pos rfl] at e
        exact ⟨_, e⟩
    · have e := h2 r (fun k hk => hr k (List.mem_cons_of_mem _ hk))
      rw [startSlot15_ctxOf, if_neg (fun e => hr a List.mem_cons_self (congrArg ThreadRef.core e))] at e
      exact e
    · rw [List.foldl_cons]
      refine h3.trans ?_
      rfl

/-! ### Each stage -/

theorem bootStage_keys (s : State) : bootStage s 1 = bootKeys s := rfl
theorem bootStage_clear (s : State) : bootStage s 3 = bootClear s := rfl
theorem bootStage_monitor (s : State) : bootStage s 4 = bootMonitor s := rfl
theorem bootStage_kernel (s : State) : bootStage s 5 = bootKernel s := rfl

theorem bootKernel_rest (s : State) : ∃ m c n, bootKernel s = { s with mem := m, cores := c, nextTid := n } :=
  ⟨(placeImage s Config.kernelImage).mem, (bootKernel s).cores, (bootKernel s).nextTid,
    (startSlots_ctxOf (addr56 Config.kernelEntry.toNat) (List.range 255) (placeImage s Config.kernelImage)).2.2⟩

/-- No stage changes the platform's registers or counts a boot, and none takes a step off the agenda. -/
theorem bootStage_keeps (s : State) (n : Nat) : (bootStage s n).platform = s.platform ∧ (bootStage s n).sdie.boots = s.sdie.boots := by
  unfold bootStage
  split
  · exact ⟨rfl, rfl⟩
  split
  · rw [(bootClear_listed s).rest]
    exact ⟨rfl, rfl⟩
  split
  · exact ⟨rfl, rfl⟩
  split
  · obtain ⟨m, c, n, e⟩ := bootKernel_rest s
    rw [e]
    exact ⟨rfl, rfl⟩
  · exact ⟨rfl, rfl⟩

theorem execBringUpStage_over {s : State} (h : 6 ≤ s.platform.stage ∨ s.platform.failed = true) (r : BootResult) : exec (.bringUpStage r) s = .next s := by
  show execBringUpStage r s = _
  unfold execBringUpStage
  refine congrArg _ (if_pos ?_)
  rcases h with h | h
  · simp [h]
  · simp [h]

/-- A stage that is done, and the state that its effect leaves. -/
def State.staged (s : State) : State :=
  let n := s.platform.stage + 1
  let t := { bootStage s n with platform := { (bootStage s n).platform with stage := n } }
  if n < 6 then t.post [.bringUpStage (bootOf t.sdie.boots (n + 1))] else t

section
variable {s : State} (h1 : s.platform.stage < 6) (h2 : s.platform.failed = false)
include h1 h2

theorem execBringUpStage_done : exec (.bringUpStage .done) s = .next s.staged := by
  show execBringUpStage .done s = _
  rw [execBringUpStage]
  exact congrArg _ (if_neg (by simp [h2]; omega))

theorem execBringUpStage_failed (e : Nat) (l : BitVec 48) : exec (.bringUpStage (.failed e l)) s = .next (if (bootCodes (s.platform.stage + 1)).contains e then
    { s with platform := { s.platform with stage := s.platform.stage + 1, error := e, failed := true, links := if s.platform.stage + 1 = 2 then l else 0 } } else s) := by
  show execBringUpStage (.failed e l) s = _
  rw [execBringUpStage]
  exact congrArg _ (if_neg (by simp [h2]; omega))

end

/-- What a done stage leaves of the machine is what the stage's effect leaves of it, but for the platform and the next stage's step. -/
theorem State.staged_eq (s : State) : ∃ l, s.staged = { bootStage s (s.platform.stage + 1) with
    platform := { s.platform with stage := s.platform.stage + 1 }, agenda := (bootStage s (s.platform.stage + 1)).agenda ++ l } ∧
    (s.platform.stage + 1 < 6 → l = [.bringUpStage (bootOf s.sdie.boots (s.platform.stage + 2))]) := by
  obtain ⟨hp, hb⟩ := bootStage_keeps s (s.platform.stage + 1)
  unfold State.staged
  dsimp only
  rw [hp, hb]
  split
  · exact ⟨_, rfl, fun _ => rfl⟩
  · exact ⟨[], by rw [List.append_nil], fun h => absurd h ‹_›⟩

/-! ### Operating points -/

/-- The point that the package runs at (R400). -/
def Platform.point (p : Platform) (limit : Nat) : Nat := if p.gating = 0 then max (max p.requested p.allowed) limit else 3

theorem Platform.point_gated {p : Platform} (h : p.gating ≠ 0) (limit : Nat) : p.point limit = 3 := if_neg h

theorem Platform.point_free {p : Platform} (h : p.gating = 0) (limit : Nat) : p.point limit = max (max p.requested p.allowed) limit := if_pos h

/-- The sensor word `w` with the clock of point `r` (R399). -/
def clockShown (w : Word) (r : Nat) : Word := BitVec.ofNat 64 (bitsOf w 63 48 * 2 ^ 48 + pointClock r * 2 ^ 32 + bitsOf w 31 0)

/-- A retimed package runs at its point, and the sensor word shows a clock that has changed. -/
theorem retime_point (s : State) (q : Platform) (hq : q.running = s.platform.running) : retime { s with platform := q } =
    let r := q.point (clockPoint (bitsOf s.sdie.senslim 63 48))
    { s with platform := { q with running := r },
             sdie := { s.sdie with sensor := if r = s.platform.running then s.sdie.sensor else clockShown s.sdie.sensor r } } := by
  rw [← hq]
  unfold retime
  dsimp only
  rw [show (if q.gating = 0 then max (max q.requested q.allowed) (clockPoint (bitsOf s.sdie.senslim 63 48)) else 3) =
    q.point (clockPoint (bitsOf s.sdie.senslim 63 48)) from rfl]
  split <;> rfl

theorem setPower_eq (s : State) (v : Word) : setPower s v = retime { s with platform := { s.platform with
    requested := min 3 (bitsOf v 3 0), thermal := BitVec.ofNat 12 (bitsOf v 19 8), power := BitVec.ofNat 12 (min 2400 (bitsOf v 31 20)) } } := rfl

theorem State.overLimit_iff (s : State) : s.overLimit = true ↔ (s.platform.thermal.toNat : Int) < s.hottest ∨ s.platform.power.toNat < s.platform.draw.toNat := by
  simp [State.overLimit]

theorem State.recovered_iff (s : State) : s.recovered = true ↔ s.hottest + 50 ≤ (s.platform.thermal.toNat : Int) ∧
    s.platform.draw.toNat + 100 ≤ s.platform.power.toNat ∧ s.platform.coolSince ≠ 0 ∧ s.platform.coolSince + 10 * msUnits ≤ s.timeUnits + 1 := by
  simp [State.recovered, State.cool, and_assoc]

theorem State.stillOver_iff (s : State) : s.stillOver = true ↔ s.overLimit = true ∧ s.platform.overSince ≠ 0 ∧
    s.platform.overSince + msUnits / 10 ≤ s.timeUnits + 1 := by
  simp [State.stillOver, and_assoc]

theorem throttleDown_slower {s : State} (h : s.overLimit = true) (hr : s.platform.running < 3) : throttleDown s =
    retime { s with platform := { s.platform with allowed := s.platform.running + 1, overSince := s.timeUnits + 1, coolSince := 0 } } :=
  if_pos (by simp [h, hr])

theorem throttleDown_stands {s : State} (h : ¬ s.overLimit = true ∨ 3 ≤ s.platform.running) : throttleDown s = s :=
  if_neg (by
    rcases h with h | h
    · simp [h]
    · simp [Nat.not_lt.mpr h])

theorem throttleUp_faster {s : State} (h : s.recovered = true) (hg : s.platform.gating = 0) : throttleUp s =
    retime { s with platform := { s.platform with allowed := s.platform.allowed - 1, coolSince := s.timeUnits + 1 } } :=
  if_pos (by simp [h, hg])

theorem throttleUp_stands {s : State} (h : ¬ s.recovered = true ∨ s.platform.gating ≠ 0) : throttleUp s = s :=
  if_neg (by
    rcases h with h | h
    · simp [h]
    · simp [h])

theorem gatingStep_off {s : State} (h : s.platform.running ≠ 3) (deeper : Bool) : gatingStep s deeper = s := if_pos h

theorem gatingStep_deeper {s : State} (h : s.platform.running = 3) (hs : s.stillOver = true) : gatingStep s true =
    retime { s with platform := { s.platform with
      gating := min 4 (s.platform.gating + 1), allowed := 3, overSince := s.timeUnits + 1, coolSince := 0
      unmet := s.platform.unmet || (decide (s.platform.gating = 4) && decide (s.platform.power.toNat < s.platform.draw.toNat)) } } := by
  rw [gatingStep, hs]
  exact if_neg (not_not_intro h)

theorem gatingStep_back {s : State} (h : s.platform.running = 3) (hs : s.recovered = true) (hg : s.platform.gating ≠ 0) : gatingStep s false =
    retime { s with platform := { s.platform with gating := s.platform.gating - 1, allowed := 3, coolSince := s.timeUnits + 1 } } := by
  rw [gatingStep, hs]
  exact (if_neg (not_not_intro h)).trans (if_pos (decide_eq_true hg))

theorem gatingStep_holds {s : State} (hs : ¬ s.stillOver = true) : gatingStep s true = s := by
  rw [gatingStep, if_pos rfl, if_neg hs, ite_self]

theorem gatingStep_keeps {s : State} (hs : ¬ s.recovered = true ∨ s.platform.gating = 0) : gatingStep s false = s := by
  have hn : ¬ (s.recovered && decide (s.platform.gating ≠ 0)) = true := by
    rcases hs with h | h
    · simp [h]
    · simp [h]
  rw [gatingStep, if_neg Bool.false_ne_true, if_neg hn, ite_self]

/-! ### What the management controller reads -/

theorem powerWord_fields (p : Platform) : bitsOf (powerWord p) 3 0 = p.requested % 16 ∧ bitsOf (powerWord p) 7 4 = p.running % 16 ∧
    bitsOf (powerWord p) 19 8 = p.thermal.toNat ∧ bitsOf (powerWord p) 31 20 = p.power.toNat ∧ bitsOf (powerWord p) 34 32 = p.gating % 8 ∧
    (powerWord p).getLsbD 35 = p.unmet := by
  have h1 := p.thermal.isLt
  have h2 := p.power.isLt
  obtain ⟨b, hb⟩ : ∃ b : Nat, b = (if p.unmet then 2 ^ 35 else 0) := ⟨_, rfl⟩
  have hb' : b = if p.unmet then 2 ^ 35 else 0 := hb
  have hlt : b ≤ 2 ^ 35 := by
    rw [hb]
    cases p.unmet <;> decide
  simp only [bitsOf_eq, powerWord, BitVec.toNat_ofNat, BitVec.getLsbD_ofNat, ← hb', Nat.testBit_eq_decide_div_mod_eq]
  have hd : b % 2 ^ 35 = 0 ∧ (b / 2 ^ 35 = if p.unmet then 1 else 0) := by
    rw [hb']
    cases p.unmet <;> exact ⟨rfl, rfl⟩
  obtain ⟨hd, hq⟩ := hd
  refine ⟨by omega, by omega, by omega, by omega, by omega, ?_⟩
  have e : (b + p.gating % 8 * 2 ^ 32 + p.power.toNat * 2 ^ 20 + p.thermal.toNat * 2 ^ 8 + p.running % 16 * 2 ^ 4 + p.requested % 16) / 2 ^ 35 % 2 = b / 2 ^ 35 % 2 := by omega
  rw [e, hq]
  cases p.unmet <;> rfl

theorem bootStatus_fields (p : Platform) : bitsOf (bootStatus p) 11 8 = p.error % 16 ∧ bitsOf (bootStatus p) 15 12 = p.stage % 16 ∧
    bitsOf (bootStatus p) 63 16 = p.links.toNat := by
  have h1 := p.links.isLt
  simp only [bitsOf_eq, bootStatus, BitVec.toNat_ofNat]
  exact ⟨by omega, by omega, by omega⟩

/-- The least of a word and the words of a list. -/
theorem List.foldl_least (l : List Word) (a : Word) : (∀ b ∈ a :: l, (l.foldl (fun a b => if b.ult a then b else a) a).toNat ≤ b.toNat) ∧
    l.foldl (fun a b => if b.ult a then b else a) a ∈ a :: l := by
  induction l generalizing a with
  | nil => simp
  | cons c l ih =>
    obtain ⟨h1, h2⟩ := ih (if c.ult a then c else a)
    rw [List.foldl_cons]
    have hc : (if c.ult a then c else a).toNat ≤ a.toNat ∧ (if c.ult a then c else a).toNat ≤ c.toNat := by
      simp only [BitVec.ult, decide_eq_true_eq]
      split <;> omega
    have hm := h1 _ List.mem_cons_self
    refine ⟨fun b hb => ?_, ?_⟩
    · rcases List.mem_cons.mp hb with rfl | hb
      · exact hm.trans hc.1
      · rcases List.mem_cons.mp hb with rfl | hb
        · exact hm.trans hc.2
        · exact h1 b (List.mem_cons_of_mem _ hb)
    · rcases List.mem_cons.mp h2 with h | h
      · rw [h]
        split
        · exact List.mem_cons_of_mem _ List.mem_cons_self
        · exact List.mem_cons_self
      · exact List.mem_cons_of_mem _ (List.mem_cons_of_mem _ h)

theorem Platform.figure_least (p : Platform) : (∀ d < 9, p.figure.toNat ≤ (SMap.get 0 p.wear d).toNat) ∧ ∃ d < 9, p.figure = SMap.get 0 p.wear d := by
  obtain ⟨h1, h2⟩ := List.foldl_least ((List.range 9).map (SMap.get 0 p.wear)) (SMap.get 0 p.wear 0)
  refine ⟨fun d hd => h1 _ (List.mem_cons_of_mem _ (List.mem_map_of_mem (List.mem_range.mpr hd))), ?_⟩
  rcases List.mem_cons.mp h2 with h | h
  · exact ⟨0, by omega, h⟩
  · obtain ⟨d, hd, e⟩ := List.mem_map.mp h
    exact ⟨d, List.mem_range.mp hd, e.symm⟩

/-! ### The slot counters -/

theorem applySlotpart_done {s : State} {k : Nat} (h : (s.core k).slotpart = (s.core k).slotpartReg) (slot : Nat) : applySlotpart s k slot = s :=
  if_pos (.inr (by rw [h]))

/-- The slot-cycles that an offer counts stand in the RCBs and the dispensers. -/
theorem countUse_rest (s : State) (k : Nat) : ∃ r d, countUse s k = { s with rcbs := r, dispensers := d } := by
  unfold countUse
  generalize List.filter _ _ = l
  induction l generalizing s with
  | nil => exact ⟨_, _, rfl⟩
  | cons p l ih =>
    obtain ⟨r, d, e⟩ := ih { s.setReg p.2.rcb.toNat { s.reg p.2.rcb.toNat with pendingUse := (s.reg p.2.rcb.toNat).pendingUse + 1 } with
      dispensers := _ }
    exact ⟨r, d, e⟩

/-- The counters of a core after an offer of its slot `slot` (R397). -/
def State.tally (s : State) (c : Core) (slot : Nat) : Core :=
  let j := 4 * slot + slotClass s c slot
  let b := (c.resident.filter (fun p => isReady s c p.2)).length
  { c with slotcnt := SMap.set 0 c.slotcnt j (bump48 (SMap.get 0 c.slotcnt j)), readyhist := SMap.set 0 c.readyhist b (bump48 (SMap.get 0 c.readyhist b)) }

theorem offerCount_eq {s : State} (h : (s.core s.turn).slotpart = (s.core s.turn).slotpartReg) :
    offerCount s = countUse (s.setCore s.turn (s.tally (s.core s.turn) (s.cycle % 16))) s.turn := by
  rw [offerCount, applySlotpart_done h]
  rfl

/-- An offer's class is counted in the slot's own counter of that class, which saturates. -/
theorem execSlotOffer_counts {s : State} (ht : s.turn < 255) (h : (s.core s.turn).slotpart = (s.core s.turn).slotpartReg) : ∃ u, exec .slotOffer s = .next u ∧
    u.turn = s.turn + 1 ∧ u.cycle = s.cycle ∧ s.SameBytes u ∧ (∀ q, u.ctxOf q = s.ctxOf q) ∧
    ∀ q, SMap.get 0 (u.core s.turn).slotcnt q = if q = 4 * (s.cycle % 16) + slotClass s (s.core s.turn) (s.cycle % 16)
      then bump48 (SMap.get 0 (s.core s.turn).slotcnt q) else SMap.get 0 (s.core s.turn).slotcnt q := by
  obtain ⟨r, d, e⟩ := countUse_rest (s.setCore s.turn (s.tally (s.core s.turn) (s.cycle % 16))) s.turn
  refine ⟨{ s.setCore s.turn (s.tally (s.core s.turn) (s.cycle % 16)) with rcbs := r, dispensers := d, turn := s.turn + 1 }, ?_, rfl, rfl, ⟨rfl, rfl, rfl, rfl⟩,
    fun q => State.ctxOf_setCore_of_ctxs (s := s) (c := s.tally (s.core s.turn) (s.cycle % 16)) rfl q, fun q => ?_⟩
  · show Host.Outcome.next (endOffer (offerCount s)) = _
    rw [offerCount_eq h, e]
    exact congrArg _ (if_pos (Nat.succ_lt_succ ht))
  · have hc : (s.setCore s.turn (s.tally (s.core s.turn) (s.cycle % 16))).core s.turn = s.tally (s.core s.turn) (s.cycle % 16) := State.core_setCore_same ..
    refine (congrArg (fun c : Core => SMap.get 0 c.slotcnt q) hc).trans ?_
    refine (SMap.get_set ..).trans ?_
    split
    · rename_i hq
      rw [hq]
    · rfl

/-- What the class counted is a function of the slot's thread (R84). -/
theorem bump48_eq (v : Word) : bump48 v = if v.toNat < 2 ^ 48 - 1 then v + 1 else v := rfl

theorem slotClass_vacant {s : State} {c : Core} {slot : Nat} (h : c.boundTo slot = none) : slotClass s c slot = 3 := by
  rw [slotClass, h]

section
variable {s : State} {c : Core} {slot b : Nat} (hb : c.boundTo slot = some b)
include hb

theorem slotClass_stopped (h : (c.ctx b).stopped = true ∨ c.dead = true) : slotClass s c slot = 3 := by
  rw [slotClass, hb]
  exact if_pos (by simpa using h)

variable (h1 : (c.ctx b).stopped = false) (h2 : c.dead = false)
include h1 h2

theorem slotClass_issues (h : canIssue s c (c.ctx b) = true) : slotClass s c slot = 0 := by
  rw [slotClass, hb]
  exact (if_neg (by simp [h1, h2])).trans (if_pos h)

theorem slotClass_waits (h : ¬ canIssue s c (c.ctx b) = true) : slotClass s c slot =
    let k := if (c.ctx b).waitKind = 0 then (c.ctx b).lastWait else (c.ctx b).waitKind
    if k = 0 ∨ k = 1 ∨ k = 7 ∨ k = 8 then 1 else 2 := by
  rw [slotClass, hb]
  exact (if_neg (by simp [h1, h2])).trans (if_neg h)

end

/-! ### The stages' effects -/

theorem addr56_toNat (n : Nat) : (addr56 n).toNat = n % 2 ^ 56 := by
  simp only [addr56, BitVec.toNat_ofNat]
  omega

theorem slot15Thread_fields {x : Context} {lv : Level} {prior : BitVec 2} {pc : Word} {n : Nat} (h : x = slot15Thread lv prior pc n) :
    x.st = .bound ∧ x.slot = 15 ∧ x.level = lv ∧ x.prior = prior ∧ x.pc.toNat = pc.toNat := by
  subst h
  exact ⟨rfl, rfl, rfl, rfl, rfl⟩

theorem bootKeys_spec (s : State) : (∀ q, (SMap.get {} (bootKeys s).sdie.keys q).occupied = true ↔ q = 62 ∨ q = 63) ∧
    (bootKeys s).sdie.journal = { chain := chainStart } := by
  refine ⟨fun q => ?_, rfl⟩
  by_cases h1 : q = 62
  · subst h1
    exact ⟨fun _ => .inl rfl, fun _ => rfl⟩
  by_cases h2 : q = 63
  · subst h2
    exact ⟨fun _ => .inr rfl, fun _ => rfl⟩
  · have h : SMap.get ({} : KeySlot) [(62, ⟨true, 1, BitVec.ofNat 512 journalKey⟩), (63, ⟨true, 2, BitVec.ofNat 512 (leNat (memoryKey s.sdie.boots))⟩)] q = {} := by
      rw [SMap.get, if_neg h1, SMap.get, if_neg h2, SMap.get]
    exact ⟨fun e => (nomatch (congrArg KeySlot.occupied h).symm.trans e), fun e => (Or.elim e h1 h2).elim⟩

theorem bootClear_spec (s : State) : (bootClear s).mem = [] ∧ (bootClear s).side = [] ∧ (bootClear s).cores = [] ∧ (bootClear s).dispensers = [] ∧
    (bootClear s).micro = { dir := (bootClear s).micro.dir, dirOrder := (bootClear s).micro.dirOrder } := by
  obtain ⟨h, hl⟩ := bootClear_listed s
  exact ⟨congrArg State.mem h, congrArg State.side h, congrArg State.cores h, congrArg State.dispensers h, hl.rest⟩

theorem bootMonitor_thread (s : State) : ∃ n, (bootMonitor s).ctxOf ⟨0, 0⟩ = slot15Thread .m 1 (addr56 Config.monitorEntry.toNat) n := by
  refine ⟨_, (startSlot15_ctxOf _ 0 .m 1 (addr56 Config.monitorEntry.toNat) ⟨0, 0⟩).trans (if_pos rfl)⟩

/-- The monitor's measurement is journaled. -/
theorem bootMonitor_entry (s : State) (h : s.sdie.journal.closed = false) (z : JEntry) :
    let d := payload (sha384 (Config.monitorImage.map (fun b => b.2.toNat))) 0
    SMap.get z (bootMonitor s).sdie.journal.entries (s.sdie.journal.head % 2048) =
      ⟨BitVec.ofNat 64 s.sdie.journal.head, 0x50, 0xFF, 0, BitVec.ofNat 32 s.ms, d.1, d.2⟩ :=
  (State.journal_entry (s := placeImage s Config.monitorImage) h 0x50 0xFF 0 _ _).2 z

theorem bootKernel_threads (s : State) : (∀ q, 1 ≤ q → q < 256 → ∃ n, (bootKernel s).ctxOf ⟨q, 0⟩ = slot15Thread .s 0 (addr56 Config.kernelEntry.toNat) n) ∧
    ∀ i, (bootKernel s).ctxOf ⟨0, i⟩ = s.ctxOf ⟨0, i⟩ := by
  obtain ⟨h1, h2, -⟩ := startSlots_ctxOf (addr56 Config.kernelEntry.toNat) (List.range 255) (placeImage s Config.kernelImage)
  refine ⟨fun q hq hq' => ?_, fun i => h2 ⟨0, i⟩ fun k _ e => (nomatch e)⟩
  obtain ⟨n, e⟩ := h1 (q - 1) (List.mem_range.mpr (by omega))
  rw [Nat.sub_add_cancel hq] at e
  exact ⟨n, e⟩

/-- The package draws `draw` watts. -/
def State.drawing (s : State) (draw : BitVec 16) : State := { s with platform := { s.platform with draw := draw } }

/-- What a machine check leaves (R402, R36, R233). -/
def State.checked (s : State) (line die : Nat) : State :=
  let pa : Word := if 64 * line < s.capacity then BitVec.ofNat 64 (64 * line) else 0
  let t := s.logMachineCheck pa die 0
  if decide (64 * line < s.capacity) && !s.poison.contains line then { t with poison := s.poison ++ [line] } else t

theorem State.checked_rest (s : State) (line die : Nat) : ∃ p, s.checked line die =
    { s.logMachineCheck (if 64 * line < s.capacity then BitVec.ofNat 64 (64 * line) else 0) die 0 with poison := p } ∧
    (64 * line < s.capacity → line ∈ p) := by
  unfold State.checked
  dsimp only
  split
  · exact ⟨_, rfl, fun _ => List.mem_append_right _ List.mem_cons_self⟩
  · rename_i h
    refine ⟨s.poison, rfl, fun hl => ?_⟩
    simpa [hl] using h

theorem pushSq_stages (s : State) (k : Nat) (src : HeldSrc) (r : SqRec) : (pushSq s k src r).platform = s.platform ∧ (pushSq s k src r).poison = s.poison ∧
    (pushSq s k src r).sdie = s.sdie := by
  obtain ⟨h, -⟩ | ⟨q, held, l, -, h⟩ := pushSq_cases s k src r <;> rw [h]
  · exact ⟨rfl, rfl, rfl⟩
  · exact ⟨rfl, rfl, rfl⟩

theorem execMachineCheck_eq {k die : Nat} (hk : k < 256) (hd : die < 9) (s : State) (line : Nat) : exec (.machineCheck line die k) s = .next (
    pushSq (s.checked line die) k .machineCheck
      ⟨BitVec.ofNat 64 (0x30 * 2 ^ 56 + 7 * 2 ^ 52), 0, if 64 * line < s.capacity then BitVec.ofNat 64 (64 * line) else 0, 0⟩) := by
  show execMachineCheck line die k s = _
  rw [execMachineCheck]
  exact if_neg (by simp [coreExists, hk, hd])

/-- Settles O48: each stage, register and point follows its row; an offer counts the class of its slot alone. -/
theorem platformActs : Obligations.PlatformActs := by
  intro s v line die k deeper draw
  dsimp only
  obtain ⟨l, hst, hl⟩ := s.staged_eq
  obtain ⟨t, ht⟩ : ∃ t : State, t = bootStage s (s.platform.stage + 1) := ⟨_, rfl⟩
  rw [← ht] at hst
  refine ⟨fun h r => execBringUpStage_over h r, fun h1 h2 => ⟨fun e l he => ?_, fun e l he => ?_, _, execBringUpStage_done h1 h2, ?_⟩, ?_, ?_, ?_, ?_, ?_, ?_, ?_, ?_, ?_,
    ?_, ?_, ?_, ?_, ?_, ?_⟩
  · rw [execBringUpStage_failed h1 h2, if_pos (List.contains_iff_mem.mpr he)]
  · rw [execBringUpStage_failed h1 h2, if_neg (fun h => he (List.contains_iff_mem.mp h))]
  · rw [hst]
    refine ⟨rfl, fun hn => ?_, fun hn => ?_, fun hn => ?_, fun hn => ?_, fun hn => ?_⟩
    · rw [hl hn]
      exact List.mem_append_right _ List.mem_cons_self
    · have hk := bootKeys_spec s
      rw [← bootStage_keys, ← hn, ← ht] at hk
      exact hk
    · have hc := bootClear_spec s
      rw [← bootStage_clear, ← hn, ← ht] at hc
      exact hc
    · have hj := bootMonitor_entry s
      obtain ⟨n, e⟩ := bootMonitor_thread s
      rw [← bootStage_monitor, ← hn, ← ht] at hj e
      obtain ⟨f1, f2, f3, f4, f5⟩ := slot15Thread_fields e
      exact ⟨f1, f2, f3, f4, f5.trans (addr56_toNat _), hj⟩
    · have hk := bootKernel_threads s
      rw [← bootStage_kernel, ← hn, ← ht] at hk
      refine ⟨fun q hq hq' => ?_, hk.2⟩
      obtain ⟨n, e⟩ := hk.1 q hq hq'
      obtain ⟨f1, f2, f3, -, f5⟩ := slot15Thread_fields e
      exact ⟨f1, f2, f3, f5.trans (addr56_toNat _)⟩
  · exact ⟨_, rfl, rfl, rfl, rfl, rfl, rfl, rfl, rfl, rfl, rfl, rfl, rfl, List.mem_append_right _ List.mem_cons_self⟩
  · show Host.Outcome.next (setPower s v) = _
    rw [setPower_eq, retime_point s]
    · rfl
    · rfl
  · obtain ⟨w1, w2⟩ := s.platform.figure_least
    refine ⟨⟨_, rfl, powerWord_fields _⟩, ⟨_, rfl, bootStatus_fields _⟩, ⟨_, rfl, w1, w2⟩, fun e x hx => ?_⟩
    have hw (w : Nat) : checkWord s.platform e w = if w = 0 then x.addr else BitVec.ofNat 64 (if w = 1 then x.die else if w = 2 then x.cycle else x.core) := by
      rw [checkWord, hx]
    exact ⟨⟨_, rfl, hw 0⟩, ⟨_, rfl, hw 1⟩, ⟨_, rfl, hw 2⟩, ⟨_, rfl, hw 3⟩⟩
  · intro h hr
    show Host.Outcome.next (throttleDown s) = _
    rw [throttleDown_slower (s.overLimit_iff.mpr h) hr, retime_point s]
    · rfl
    · rfl
  · intro h
    exact congrArg _ (throttleDown_stands (h.imp_left (mt s.overLimit_iff.mp)))
  · intro h hg
    show Host.Outcome.next (throttleUp s) = _
    rw [throttleUp_faster (s.recovered_iff.mpr h) hg, retime_point s]
    · rfl
    · rfl
  · intro h
    exact congrArg _ (throttleUp_stands (h.imp_left (mt s.recovered_iff.mp)))
  · intro h
    exact congrArg _ (gatingStep_off (s := s.drawing draw) h deeper)
  · rintro hr rfl ⟨h1, h2⟩
    show Host.Outcome.next (gatingStep (s.drawing draw) true) = _
    rw [gatingStep_deeper (s := s.drawing draw) hr ((s.drawing draw).stillOver_iff.mpr ⟨(s.drawing draw).overLimit_iff.mpr h1, h2⟩), retime_point (s.drawing draw)]
    · rw [Platform.point_gated]
      · rfl
      · exact Nat.ne_of_gt (Nat.lt_min.mpr ⟨by decide, Nat.succ_pos _⟩)
    · rfl
  · rintro hr rfl h hg
    show Host.Outcome.next (gatingStep (s.drawing draw) false) = _
    rw [gatingStep_back (s := s.drawing draw) hr ((s.drawing draw).recovered_iff.mpr h) hg, retime_point (s.drawing draw)]
    · rcases Decidable.em (s.platform.gating = 1) with h1 | h1
      · rw [Platform.point_free, if_pos h1]
        · rfl
        · exact Nat.sub_eq_zero_of_le (Nat.le_of_eq h1)
      · rw [Platform.point_gated, if_neg h1]
        · rfl
        · exact Nat.sub_ne_zero_of_lt (lt_of_le_of_ne (Nat.one_le_iff_ne_zero.mpr hg) (Ne.symm h1))
    · rfl
  · rintro rfl h
    exact congrArg _ (gatingStep_holds (s := s.drawing draw) (mt (s.drawing draw).stillOver_iff.mp fun ⟨h1, h2⟩ =>
      h ⟨(s.drawing draw).overLimit_iff.mp h1, h2⟩))
  · rintro rfl h
    exact congrArg _ (gatingStep_keeps (s := s.drawing draw) (h.imp_left (mt (s.drawing draw).recovered_iff.mp)))
  · intro hk hd
    obtain ⟨p, hp, hin⟩ := s.checked_rest line die
    rw [execMachineCheck_eq hk hd, hp]
    obtain ⟨t, ht⟩ : ∃ t : State, t = { s.logMachineCheck (if 64 * line < s.capacity then BitVec.ofNat 64 (64 * line) else 0) die 0 with poison := p } := ⟨_, rfl⟩
    rw [← ht]
    have hm : t.platform = (s.logMachineCheck (if 64 * line < s.capacity then BitVec.ofNat 64 (64 * line) else 0) die 0).platform := by rw [ht]
    have hpo : t.poison = p := by rw [ht]
    have hc (r : ThreadRef) : t.ctxOf r = s.ctxOf r := by rw [ht]; rfl
    have hco (j : Nat) : t.core j = s.core j := by rw [ht]; rfl
    have hb : t.bytes = s.bytes := by rw [ht]; rfl
    obtain ⟨q1, q2, q3⟩ := pushSq_stages t k .machineCheck
      ⟨BitVec.ofNat 64 (0x30 * 2 ^ 56 + 7 * 2 ^ 52), 0, if 64 * line < s.capacity then BitVec.ofNat 64 (64 * line) else 0, 0⟩
    refine ⟨_, rfl, State.sameBytes_iff.mpr ((pushSq_bytes ..).trans hb), fun r => (pushSq_ctxOf ..).trans (hc r), ?_, fun hl => ?_, fun h1 h2 => ?_⟩
    · rw [q1, hm]
      exact s.mem_logMachineCheck _ die 0
    · rw [State.delivered, q2, hpo]
      simp [hin hl]
    · rw [pushSq_sq (by rw [hco]; exact ⟨h1, h2⟩), hco]
  · intro hd
    show execWearUpdate ⟨die, v⟩ s = _
    rw [execWearUpdate]
    exact if_neg (Nat.not_le.mpr hd)
  · intro ht h
    obtain ⟨u, hu, h1, h2, h3, h4, h5⟩ := execSlotOffer_counts ht h
    have counted {cls : Nat} (e : slotClass s (s.core s.turn) (s.cycle % 16) = cls) : ∀ q < 64, SMap.get 0 (u.core s.turn).slotcnt q =
        if q = 4 * (s.cycle % 16) + cls ∧ (SMap.get 0 (s.core s.turn).slotcnt q).toNat < 2 ^ 48 - 1 then SMap.get 0 (s.core s.turn).slotcnt q + 1
        else SMap.get 0 (s.core s.turn).slotcnt q := by
      intro q _
      rw [h5 q, e, bump48_eq]
      split <;> rename_i hq
      · simp [hq]
      · simp [hq]
    refine ⟨u, hu, h1, h2, h3, h4, fun hb => counted (slotClass_vacant hb), fun b hb => ⟨fun hs => counted (slotClass_stopped hb hs), fun f1 f2 f3 f4 f5 f6 =>
      counted (slotClass_issues hb f1 f2 (by simp [canIssue, f1, f2, f3, f4, f5, f6])), fun f1 f2 f3 f4 => ?_, fun f1 f2 f3 f4 => ?_, fun f1 f2 f3 f4 => ?_⟩⟩
    · refine counted ((slotClass_waits hb f1 f2 (by simp [canIssue, f3])).trans ?_)
      rcases f4 with h | h | h <;> simp [h]
    · refine counted ((slotClass_waits hb f1 f2 (by simp [canIssue, f3])).trans ?_)
      simp only [List.mem_cons, List.not_mem_nil, or_false, not_or] at f4
      simp [f4]
    · have hk : ((s.core s.turn).ctx b).waitKind = 0 := by rw [Context.waitKind_eq, f3]; rfl
      refine counted ((slotClass_waits hb f1 f2 (by simp [canIssue, Nat.not_le.mpr f4])).trans ?_)
      simp [hk]

end Sys2Proof.Machine
end

section
/-! SUPPORT. Stores of ports, and of the device for itself, where no region's record reads the lines written (R52, R290, R382): the bytes they leave. -/

namespace Sys2Proof.Machine

theorem Micro.llcFill_dir (m : Micro) (line cls : Nat) : (m.llcFill line cls).dir = m.dir := by
  unfold Micro.llcFill
  dsimp only
  split
  · rfl
  · split <;> rfl

theorem Micro.dropV_dir (m : Micro) (core line : Nat) : (m.dropV core line).dir = m.dir := by
  unfold Micro.dropV
  split
  · split <;> rfl
  · rfl

theorem Micro.purgeCluster_dir (m : Micro) (cl line : Nat) : (m.purgeCluster cl line).dir = m.dir := by
  have hfold (l : List Nat) (m : Micro) : (l.foldl (fun m k => m.dropV k line) m).dir = m.dir := by
    induction l generalizing m with
    | nil => rfl
    | cons k l ih => exact (ih _).trans (m.dropV_dir k line)
  exact hfold _ m

theorem Micro.stampHome_directory (m : Micro) (core line c : Nat) (region : Option Nat) : (m.stampHome core line c region).2.dir = m.dir := by
  unfold Micro.stampHome
  dsimp only
  split
  · rfl
  · split
    · exact Micro.purgeCluster_dir (m.raiseSlice line _) _ _
    · exact Micro.dropV_dir (m.raiseSlice line _) _ _

theorem State.writeBoth_noRecords {s : State} (h : s.NoRecords) (l : Loc) (bs : ByteList) (side : Option Word) : (s.writeBoth l bs side).NoRecords := by
  cases side <;> cases l <;> exact h

theorem noteSeen_none (s : State) {w : Who} (hw : w.thread = none) (t : Target) (stamp : Nat) : noteSeen s w t stamp = s := by rw [noteSeen, hw]

/-- A store at its line's home, by a party that is no thread. -/
theorem storeHome_mild {s : State} (h : s.NoRecords) {w : Who} (hw : w.thread = none) (t : Target) (pa c : Nat) (bs : ByteList)
    (side : Option Word) (rd : Bool) : (s.writeBoth t.loc bs side).Mild (storeHome s w t pa c bs side rd).2.2 ∧
      ∀ p ∈ (storeHome s w t pa c bs side rd).2.1.1, PlainParty p := by
  have hn := State.writeBoth_noRecords h t.loc bs side
  unfold storeHome
  dsimp only
  generalize s.writeBoth t.loc bs side = u at hn ⊢
  rw [noteSeen_none _ hw]
  refine ⟨State.Mild.trans (State.Mild.micro u fun hr => ?_) (watchReport_mild _ hw _ _ _), State.roundParties_plain hn _ _⟩
  intro l
  rw [Micro.llcFill_dir]
  refine Micro.roundReset_recordless _ _ _ (fun l => ?_) l
  rw [Micro.stampHome_directory]
  exact hr l

/-- A quiet store. -/
theorem storeQuiet_mild {s : State} (h : s.NoRecords) (w : Who) (pa : Nat) (bs : ByteList) (side : Option Word) :
    (s.writeBoth (.main pa) bs side).Mild (storeQuiet s w { loc := .main pa } bs side).2.2 ∧
      ∀ p ∈ (storeQuiet s w { loc := .main pa } bs side).2.1.1, PlainParty p := by
  obtain ⟨m, hm⟩ : ∃ m, m = s.micro.takeBack (s.lineAt (lineLoc (pa / 64))) (pa / 64) false := ⟨_, rfl⟩
  have hq : storeQuiet s w { loc := .main pa } bs side = storeHome { s with micro := m } { w with self := none, thread := none } { loc := .main pa } pa
      (max (w.clk + 1) s.micro.minClk) bs side false := by
    rw [hm]
    rfl
  have hr : ({ s with micro := m } : State).NoRecords := by
    refine ⟨fun l => ?_, h.2⟩
    rw [hm]
    exact (Micro.takeBack_walked _ _ _ _).records h.1 l
  obtain ⟨h1, h2⟩ := storeHome_mild hr (w := { w with self := none, thread := none }) rfl { loc := .main pa } pa (max (w.clk + 1) s.micro.minClk) bs side false
  rw [hq]
  refine ⟨State.Mild.trans (t := ({ s with micro := m } : State).writeBoth (.main pa) bs side) ?_ h1, h2⟩
  cases side
  · exact State.Mild.micro _ fun _ => hr.1
  · exact State.Mild.micro _ fun _ => hr.1

/-- The store of a device or a port, and its round. -/
theorem storeRound_mild {s : State} (h : s.NoRecords) (w : Who) (pa line : Nat) (bs : ByteList) (side : Option Word) :
    (s.writeBoth (.main pa) bs side).Mild (takeRound (storeQuiet s w { loc := .main pa } bs side).2.2 line (storeQuiet s w { loc := .main pa } bs side).2.1) :=
  have ⟨h1, h2⟩ := storeQuiet_mild h w pa bs side
  h1.trans (takeRound_mild _ line h2)

/-- What a write from outside leaves (R381, R382): its bytes alone. -/
theorem portWrite_mild (port n : Nat) {s : State} (h : s.NoRecords) (pa : Nat) {bs : ByteList} (hn : bs.length ≤ n) :
    ({ s with mem := s.mem.writeBytes pa bs } : State).Mild (portWrite s port n pa bs).2 := by
  induction n generalizing s pa bs with
  | zero =>
    obtain rfl : bs = [] := List.eq_nil_of_length_eq_zero (Nat.le_zero.mp hn)
    exact State.Mild.refl s
  | succ n ih =>
    obtain ⟨k, hk⟩ : ∃ k, k = min bs.length (64 - pa % 64) := ⟨_, rfl⟩
    have hmod := Nat.mod_lt pa (show 0 < 64 by decide)
    unfold portWrite
    dsimp only
    rw [← hk]
    split
    · obtain rfl : bs = [] := List.eq_nil_of_length_eq_zero (by omega)
      exact State.Mild.refl s
    · have hlen : (bs.take k).length = k := by rw [List.length_take]; omega
      have h1 := storeRound_mild h (portWho port 0) pa (pa / 64) (bs.take k) none
      generalize takeRound _ _ _ = t at h1 ⊢
      obtain ⟨hm, hs, -, -⟩ := h1.fields
      have hw : s.mem.writeBytes pa bs = t.mem.writeBytes (pa + k) (bs.drop k) := by
        rw [hm, ← hlen, hlen, ← List.take_append_drop k bs, Memory.writeBytes_append, hlen, List.take_append_drop]
        rfl
      have h3 := h1.rewrite (u := { t with mem := t.mem.writeBytes (pa + k) (bs.drop k) }) (m := t.mem.writeBytes (pa + k) (bs.drop k)) (sd := s.side)
        (by rw [show s.side = t.side from hs.symm])
      rw [hw]
      exact State.Mild.trans h3 (ih (h1.records (State.writeBoth_noRecords h _ _ _)) (pa + k) (bs := bs.drop k) (by rw [List.length_drop]; omega))

end Sys2Proof.Machine
end

section
/-! O44 (R6, R379 to R382): the host's accesses through BAR0 and BAR2. -/

namespace Sys2Proof.Machine

/-! ### Streams -/

theorem State.onStream_iff (s : State) (st : Option Nat) : s.onStream st = true ↔ s.platform.stage = 6 ∧ ∃ n < 5, st = some n ∧ s.sdie.ring.ide.getLsbD n = true := by
  cases st with
  | none => simp [State.onStream, State.linkUp]
  | some n => simp [State.onStream, State.linkUp]

theorem offStream_down {s : State} (h : s.platform.stage ≠ 6) (off : Nat) : offStream s off = s := if_neg (by simpa [State.linkUp] using h)

theorem offStream_up {s : State} (h : s.platform.stage = 6) (off : Nat) : offStream s off = s.emit (.hostUnsupported off) := if_pos (by simpa [State.linkUp] using h)

/-- A TLP of `n` bytes at `off` keeps within 4 KiB, and within BAR2. -/
def TlpFits (off n : Nat) : Prop := 1 ≤ n ∧ off % 4096 + n ≤ 4096 ∧ off < 2 ^ 38

theorem tlpOk_of_fits {off n : Nat} (h : TlpFits off n) : tlpOk off n = true := by
  obtain ⟨h1, h2, h3⟩ := h
  rw [tlpOk, decide_eq_true h1, decide_eq_true h2, decide_eq_true h3]
  rfl

/-- What an access that comes on no stream does. -/
theorem off_stream {s : State} {st : Option Nat} (h : ¬ s.onStream st = true) (off : Nat) :
    (∀ len, TlpFits off len → exec (.bar2Read ⟨off, st⟩ len) s = .next (offStream s off)) ∧
      (∀ bs : ByteList, TlpFits off bs.length → exec (.bar2Write ⟨off, st⟩ bs) s = .next (offStream s off)) ∧
      (∀ v, exec (.bar0Write ⟨off, st⟩ (.write v)) s = .next (offStream s off)) ∧ exec (.bar0Write ⟨off, st⟩ .read) s = .next (offStream s off) ∧
      (∀ v, exec (.hcRingtail ⟨v, st⟩) s = .next (offStream s 0x10)) ∧ ∀ v, exec (.hcRingctl ⟨v, st⟩) s = .next (offStream s 0x08) := by
  have hn : s.onStream st = false := Bool.eq_false_iff.mpr h
  refine ⟨fun len hf => ?_, fun bs hf => ?_, fun v => congrArg _ (if_neg h), congrArg _ (if_neg h), fun v => congrArg _ (if_neg h), fun v => congrArg _ (if_neg h)⟩
  · show execBar2Read ⟨off, st⟩ len s = _
    unfold execBar2Read
    dsimp only
    rw [tlpOk_of_fits hf, hn]
    rfl
  · show execBar2Write ⟨off, st⟩ bs s = _
    unfold execBar2Write
    dsimp only
    rw [tlpOk_of_fits hf, hn]
    rfl

theorem State.emit_tells (s : State) (m : OutMsg) : (s.emit m).out = s.out ++ [m] ∧ s.SameBytes (s.emit m) ∧ (s.emit m).cores = s.cores :=
  ⟨rfl, ⟨rfl, rfl, rfl, rfl⟩, rfl⟩

/-- The host's own word about its streams. -/
theorem ide_bits (r : BitVec 5) (n : Nat) (b : Bool) (i : Nat) (hi : i < 5) :
    (if b then r ||| BitVec.ofNat 5 (if n < 5 then 2 ^ n else 0) else r &&& ~~~BitVec.ofNat 5 (if n < 5 then 2 ^ n else 0)).getLsbD i =
      if i = n then b else r.getLsbD i := by
  have hbit : (BitVec.ofNat 5 (if n < 5 then 2 ^ n else 0)).getLsbD i = decide (i = n) := by
    rw [BitVec.getLsbD_ofNat, decide_eq_true hi, Bool.true_and]
    split
    · rw [Nat.testBit_two_pow]
      exact decide_eq_decide.mpr eq_comm
    · rw [Nat.zero_testBit]
      exact (decide_eq_false (by omega)).symm
  cases b
  · simp only [Bool.false_eq_true, if_false, BitVec.getLsbD_and, BitVec.getLsbD_not, hbit, hi, decide_true, Bool.true_and]
    split <;> rename_i h <;> simp [h]
  · simp only [if_true, BitVec.getLsbD_or, hbit]
    split <;> rename_i h <;> simp [h]

/-! ### The control window -/

section
variable {s : State} {st : Option Nat} (h : s.onStream st = true)
include h

theorem bar0_reads (off : Nat) : exec (.bar0Write ⟨off, st⟩ .read) s = .next (s.emit (.windowData off (windowRead s off))) := congrArg _ (if_pos h)

theorem bar0_writes (off : Nat) (v : Word) : exec (.bar0Write ⟨off, st⟩ (.write v)) s = .next (windowWrite s off v) := congrArg _ (if_pos h)

theorem ringtail_rings (v : Word) : exec (.hcRingtail ⟨v, st⟩) s = .next (doorbell s v) := congrArg _ (if_pos h)

theorem ringctl_writes (v : Word) : exec (.hcRingctl ⟨v, st⟩) s = .next (s.setRing (ringCtl s.sdie.ring v)) := congrArg _ (if_pos h)

end

theorem windowRead_unlisted {s : State} {off : Nat} (h : off ∉ [0x00, 0x08, 0x18, 0x20, 0x28, 0x30, 0x38]) (h' : off < 0x10000 ∨ 0x20000 ≤ off) :
    windowRead s off = 0 := by
  simp only [List.mem_cons, List.not_mem_nil, or_false, not_or] at h
  obtain ⟨h0, h1, h2, h3, h4, h5, h6⟩ := h
  rw [windowRead, if_neg h0, if_neg h1, if_neg h2, if_neg h3, if_neg h4, if_neg h5, if_neg h6]
  exact if_neg (by omega)

theorem windowRead_journal {s : State} {n i : Nat} {e : JEntry} (hn : n < 2048) (hi : i < 4)
    (he : s.sdie.journal.entries.find? (fun p => decide (p.1 = n)) = some (n, e)) :
    windowRead s (0x10000 + 32 * n + 8 * i) = BitVec.ofNat 64 (leNat ((e.bytes.drop (8 * i)).take 8)) := by
  have hoff : (0x10000 + 32 * n + 8 * i - 0x10000) / 8 = 4 * n + i := by omega
  have h4 : (4 * n + i) / 4 = n := by omega
  have hm : (4 * n + i) % 4 = i := by omega
  rw [windowRead, if_neg (by omega), if_neg (by omega), if_neg (by omega), if_neg (by omega), if_neg (by omega), if_neg (by omega), if_neg (by omega),
    if_pos (by omega), hoff, journalWindow, h4, he, hm]

theorem Ring.k_eq (r : Ring) : r.k = r.ctl.toNat % 32 := by
  rw [Ring.k, bitsOf_eq, pow_zero, Nat.div_one]
  rfl

/-- The control word that a write of hc.ringctl leaves (R380). -/
def Ring.written (r : Ring) (v : Word) : Word :=
  BitVec.ofNat 64 ((if r.ctl.getLsbD 8 then r.ctl.toNat % 32 else v.toNat % 32) + (if v.getLsbD 8 then 2 ^ 8 else 0))

theorem ringCtl_word (r : Ring) (v : Word) : BitVec.ofNat 64 ((if r.enabled then r.k else bitsOf v 4 0) + (if v.getLsbD 8 then 256 else 0)) = r.written v := by
  rw [Ring.k_eq, bitsOf_eq, pow_zero, Nat.div_one]
  rfl

theorem ringCtl_starts {r : Ring} {v : Word} (h : r.ctl.getLsbD 8 = false) (hv : v.getLsbD 8 = true) :
    ringCtl r v = { r with ctl := r.written v, head := 0, tail := 0, cplTail := 0 } := by
  unfold ringCtl
  dsimp only
  rw [ringCtl_word]
  exact if_pos (by rw [Ring.enabled, h, hv]; rfl)

theorem ringCtl_writes {r : Ring} {v : Word} (h : r.ctl.getLsbD 8 = true ∨ v.getLsbD 8 = false) : ringCtl r v = { r with ctl := r.written v } := by
  unfold ringCtl
  dsimp only
  rw [ringCtl_word]
  exact if_neg (by rcases h with h | h <;> rw [Ring.enabled, h] <;> simp)

/-- The doorbell's value may be taken (R380, R382). -/
def Ring.Rung (r : Ring) (v : Word) : Prop :=
  r.ctl.getLsbD 8 = true ∧ 4 ≤ r.ctl.toNat % 32 ∧ r.ctl.toNat % 32 ≤ 16 ∧ (bitsOf v 31 0 + 2 ^ 32 - r.head) % 2 ^ 32 ≤ 2 ^ (r.ctl.toNat % 32)

theorem doorbell_cond (r : Ring) (v : Word) : (!r.usable || decide ((bitsOf v 31 0 + 2 ^ 32 - r.head) % 2 ^ 32 > 2 ^ r.k)) = true ↔ ¬ r.Rung v := by
  rw [Ring.Rung, Ring.usable, Ring.enabled, Ring.k_eq]
  cases r.ctl.getLsbD 8
  · simp
  · simp only [Bool.true_and, Bool.or_eq_true, Bool.not_eq_true', Bool.and_eq_false_iff, decide_eq_false_iff_not, decide_eq_true_eq, true_and]
    omega

theorem doorbell_ignored {s : State} {v : Word} (h : ¬ s.sdie.ring.Rung v) : doorbell s v = s := if_pos ((doorbell_cond _ _).mpr h)

theorem doorbell_rings {s : State} {v : Word} (h : s.sdie.ring.Rung v) :
    doorbell s v = (s.setRing { s.sdie.ring with tail := bitsOf v 31 0, bellClk := s.sdie.ring.hostClk }).post [.ringFetch] :=
  if_neg (mt (doorbell_cond _ _).mp (not_not_intro h))

theorem windowWrite_other {s : State} {off : Nat} {v : Word} (h : s.sdie.ring.ctl.getLsbD 8 = true ∨ off ≠ 0x00 ∧ off ≠ 0x20) (h1 : off ≠ 0x08) (h2 : off ≠ 0x10)
    (h3 : off ≠ 0x30) : windowWrite s off v = s := by
  unfold windowWrite
  dsimp only
  rw [if_neg h1, if_neg h2, if_neg h3]
  rcases h with h | ⟨h4, h5⟩
  · rw [Ring.enabled, h]
    simp
  · rw [if_neg h4, if_neg h5]

theorem windowWrite_bases {s : State} {v : Word} (h : s.sdie.ring.ctl.getLsbD 8 = false) : windowWrite s 0x00 v = s.setRing { s.sdie.ring with base := v } ∧
    windowWrite s 0x20 v = s.setRing { s.sdie.ring with cplBase := v } :=
  have hn : ¬ s.sdie.ring.enabled = true := by rw [Ring.enabled, h]; exact Bool.false_ne_true
  ⟨if_neg hn, if_neg hn⟩

/-! ### Reads of BAR2 -/

theorem State.Mild.egressOf {s t : State} (h : s.Mild t) (pa : Nat) : t.egressOf pa = s.egressOf pa := by
  rw [h.rest, State.egressOf, State.egressOf]
  simp only [State.weir]
  rw [h.sdie]

theorem State.Mild.weir {s t : State} (h : s.Mild t) (n : Nat) : t.weir n = s.weir n := by
  rw [State.weir, h.sdie]
  rfl

theorem rangeWatch_mild (s : State) {w : Who} (hw : w.thread = none) (pa n : Nat) : s.Mild (rangeWatch s w pa n) :=
  State.Mild.foldl (fun _ _ s => watchReport_mild s hw _ _ _) s

/-- The bytes of a range under one egress region, or under none, leave together. -/
theorem egressParts_one {s : State} {c : Option Nat} (m L pa n : Nat) (hL : pa / 64 = L) (hn : 1 ≤ n) (hm : m = (pa % 64 + n + 63) / 64)
    (h : ∀ a, pa ≤ a → a < pa + n → s.egressOf a = c) : egressParts s (List.range' L m) pa n = [(c, pa, n)] := by
  induction m generalizing L pa n with
  | zero => omega
  | succ m ih =>
    have h0 := h pa (Nat.le_refl pa) (by omega)
    rw [List.range'_succ]
    unfold egressParts
    dsimp only
    rw [h0]
    by_cases hk : n ≤ 64 * L + 64 - pa
    · obtain rfl : m = 0 := by omega
      rw [Nat.min_eq_left hk]
      rfl
    · have hmin : min n (64 * L + 64 - pa) = 64 * L + 64 - pa := Nat.min_eq_right (by omega)
      rw [hmin, ih (L + 1) (pa + (64 * L + 64 - pa)) (n - (64 * L + 64 - pa)) (by omega) (by omega) (by omega) (fun a h1 h2 => h a (by omega) (by omega))]
      dsimp only
      rw [if_pos rfl]
      congr 3
      omega

theorem rangeLines_eq (pa n : Nat) : rangeLines pa n = List.range' (pa / 64) ((pa % 64 + n + 63) / 64) := by
  rw [List.range'_eq_map_range]
  rfl

theorem windowOf_le {s : State} {off : Nat} {w : Window} (h : s.windowOf off = some w) : w.off ≤ off := by
  have hc := List.find?_some h
  obtain ⟨i, -, hi⟩ := List.mem_filterMap.mp (List.mem_of_find?_eq_some h)
  have hal : w.off % 4 ^ w.h = 0 := by
    unfold State.window at hi
    dsimp only at hi
    split at hi
    · cases hi
    · rename_i hok
      cases hi
      simp only [Bool.or_eq_true, decide_eq_true_eq, not_or, not_not] at hok
      exact hok.2
  have hdiv : off / 4 ^ w.h = w.off / 4 ^ w.h := by simpa using hc
  calc w.off = 4 ^ w.h * (w.off / 4 ^ w.h) := by have := Nat.div_add_mod w.off (4 ^ w.h); omega
    _ = 4 ^ w.h * (off / 4 ^ w.h) := by rw [hdiv]
    _ ≤ off := Nat.mul_div_le ..

theorem windowAt_none {s : State} {off n : Nat} (h : ∀ w, s.windowOf off = some w → s.capacity < w.base + (off - w.off) + n) : s.windowAt off n = none := by
  rw [State.windowAt]
  split
  · rfl
  · exact if_neg (Nat.not_le.mpr (h _ ‹_›))

theorem windowAt_some {s : State} {off n : Nat} {w : Window} (h : s.windowOf off = some w) (hc : w.base + (off - w.off) + n ≤ s.capacity) :
    s.windowAt off n = some (w, w.base + (off - w.off)) := by
  rw [State.windowAt, h]
  exact if_pos hc

/-- The read of a window's bytes, once it may be made: the watches see it, and its parts leave. -/
def State.readOut (s : State) (w : Window) (pa len : Nat) : State :=
  let t := rangeWatch s (portWho 0x100 0) pa len
  (egressParts t (rangeLines pa len) pa len).foldl (fun s x => sendPart s w x) t

section
variable {s : State} {st : Option Nat} (h : s.onStream st = true) {off len : Nat} (hf : TlpFits off len)
include h hf

theorem bar2Read_eq : exec (.bar2Read ⟨off, st⟩ len) s = .next (match s.windowAt off len with
    | none => s.emit (.hostUnsupported off)
    | some (w, pa) => if !w.rd then s.emit (.hostUnsupported off) else if !rangeDelivered s pa len then s.emit (.hostPoisoned off) else s.readOut w pa len) := by
  show execBar2Read ⟨off, st⟩ len s = _
  unfold execBar2Read
  dsimp only
  rw [tlpOk_of_fits hf, h]
  rfl

end

/-- A read under one region, or under none, is one part. -/
theorem readOut_one {s : State} {w : Window} {off len : Nat} {c : Option Nat} (hn : 1 ≤ len)
    (h : ∀ a, w.base + (off - w.off) ≤ a → a < w.base + (off - w.off) + len → s.egressOf a = c) :
    s.readOut w (w.base + (off - w.off)) len =
      sendPart (rangeWatch s (portWho 0x100 0) (w.base + (off - w.off)) len) w (c, w.base + (off - w.off), len) := by
  have hm := rangeWatch_mild s (w := portWho 0x100 0) rfl (w.base + (off - w.off)) len
  unfold State.readOut
  dsimp only
  rw [rangeLines_eq, egressParts_one _ _ _ _ rfl hn rfl (fun a h1 h2 => (hm.egressOf a).trans (h a h1 h2))]
  rfl

theorem window_offset {s : State} {off : Nat} {w : Window} (hw : s.windowOf off = some w) : w.off + (w.base + (off - w.off) - w.base) = off := by
  have := windowOf_le hw
  omega

/-- A transfer that comes to the weir passes, or not (R366). -/
theorem weirPass_blocks {s : State} {i : Nat} {kind : PortKind} {n pa : Nat} (h : (s.weir i).held ≠ [] ∨ s.sdie.journal.closed = true ∨
    ((s.weir i).refilled s.timeUnits).rate = 0 ∨ ((s.weir i).refilled s.timeUnits).level < n) : weirPass s i kind n pa false = none := by
  unfold weirPass
  refine if_pos ?_
  rw [(Weir.refilled_keeps _ _).2.1]
  simpa [or_assoc] using h

theorem weirPass_opens {s : State} {i : Nat} {kind : PortKind} {n pa : Nat} (hh : (s.weir i).held = []) (hopen : s.sdie.journal.closed = false)
    (hrate : 0 < ((s.weir i).refilled s.timeUnits).rate) (hlevel : n ≤ ((s.weir i).refilled s.timeUnits).level) :
    ∃ w, weirPass s i kind n pa false = some (s.setWeir i w) ∧ w.level = ((s.weir i).refilled s.timeUnits).level - n := by
  unfold weirPass
  rw [if_neg (by rw [hopen, (Weir.refilled_keeps _ _).2.1, hh]; simp; omega)]
  exact ⟨_, rfl, rfl⟩

/-- A part that no region covers leaves. -/
theorem sendPart_free (s : State) (w : Window) (pa n : Nat) :
    sendPart s w (none, pa, n) = s.emit (.hostData (w.off + (pa - w.base)) (s.bytesAt (.main pa) n)) := rfl

theorem sendPart_blocked {s : State} {w : Window} {i pa n : Nat} (h : weirPass s i .host n pa false = none) : sendPart s w (some i, pa, n) =
    s.setWeir i { s.weir i with held := (s.weir i).held ++ [⟨.host, n, pa, 0, s.timeUnits, .hostRead (w.off + (pa - w.base)) n⟩] } := by
  unfold sendPart
  dsimp only
  rw [h]

theorem sendPart_passes {s t : State} {w : Window} {i pa n : Nat} (h : weirPass s i .host n pa false = some t) : sendPart s w (some i, pa, n) =
    t.emit (.hostData (w.off + (pa - w.base)) (t.bytesAt (.main pa) n)) := by
  unfold sendPart
  dsimp only
  rw [h]

theorem State.Mild.bytesAt {s t : State} (h : s.Mild t) (pa n : Nat) : t.bytesAt (.main pa) n = s.bytesAt (.main pa) n := by
  rw [h.rest]
  rfl

/-! ### Writes of BAR2 -/

theorem bar2Write_eq {s : State} {st : Option Nat} (h : s.onStream st = true) {off : Nat} {bs : ByteList} (hf : TlpFits off bs.length) :
    exec (.bar2Write ⟨off, st⟩ bs) s = .next (match s.windowAt off bs.length with
      | none => s.emit (.hostUnsupported off)
      | some (w, pa) => if !w.wr then s.emit (.hostUnsupported off) else
        (portWrite s 0x100 bs.length pa bs).2.setRing { (portWrite s 0x100 bs.length pa bs).2.sdie.ring with
          hostClk := max (portWrite s 0x100 bs.length pa bs).2.sdie.ring.hostClk (portWrite s 0x100 bs.length pa bs).1 }) := by
  show execBar2Write ⟨off, st⟩ bs s = _
  unfold execBar2Write
  dsimp only
  rw [tlpOk_of_fits hf, h]
  rfl

theorem Memory.read_writeBytes_getD (bs : ByteList) (m : Memory) (a x : Nat) :
    (m.writeBytes a bs).read x = if a ≤ x ∧ x < a + bs.length then bs.getD (x - a) 0 else m.read x := by
  split
  · rename_i h
    have hlt : x - a < bs.length := by omega
    have e := Memory.readBytes_get (m.writeBytes a bs) a bs.length (x - a) (by rw [Memory.readBytes_length]; exact hlt)
    rw [Nat.add_sub_cancel' h.1] at e
    rw [← e, List.getD_eq_getElem _ _ hlt]
    exact List.getElem_of_eq (Memory.readBytes_writeBytes bs m a) _
  · exact Memory.read_writeBytes bs m a x (by omega)

/-- Settles O44: an access on no stream is unsupported, and each of the others does what its register or window says. -/
theorem hostWindowsAct : Obligations.HostWindowsAct := by
  intro s off len v bs st
  dsimp only
  have hs := s.onStream_iff st
  have hyes : ¬ (!true) = true := Bool.false_ne_true
  refine ⟨fun hup => ?_, fun hup hst => ?_, fun hup n b => ?_, fun hr => ?_, fun hr => ?_⟩
  · obtain ⟨h1, h2, h3, h4, h5, h6⟩ := off_stream (s := s) (st := st) (fun e => hup (hs.mp e).1) off
    rw [offStream_down hup] at h1 h2 h3 h4 h5 h6
    refine ⟨h1 len, h2 bs, fun op => ?_, h5 v, h6 v⟩
    cases op with
    | write v => exact h3 v
    | read => exact h4
    | ide n b => exact congrArg _ (if_neg (by simpa [State.linkUp] using hup))
  · obtain ⟨h1, h2, h3, h4, h5, h6⟩ := off_stream (s := s) (st := st) (fun e => hst (hs.mp e).2) off
    rw [offStream_up hup] at h1 h2 h3 h4 h5 h6
    exact ⟨fun hf => ⟨_, h1 len hf, s.emit_tells _⟩, fun hf => ⟨_, h2 bs hf, s.emit_tells _⟩, ⟨_, h3 v, s.emit_tells _⟩, ⟨_, h4, s.emit_tells _⟩,
      ⟨_, h5 v, s.emit_tells _⟩, ⟨_, h6 v, s.emit_tells _⟩⟩
  · exact ⟨_, congrArg _ (if_pos (by simpa [State.linkUp] using hup)), ide_bits s.sdie.ring.ide n b⟩
  · have ho := hs.mpr hr
    have reads {o : Nat} {x : Word} (e : windowRead s o = x) : ∃ u, exec (.bar0Write ⟨o, st⟩ .read) s = .next u ∧ u.out = s.out ++ [.windowData o x] ∧
        s.SameBytes u ∧ u.cores = s.cores := ⟨_, bar0_reads ho o, by rw [e]; exact s.emit_tells _⟩
    exact ⟨reads rfl, reads rfl, reads rfl, reads rfl, reads rfl, reads rfl, reads rfl, reads rfl, fun h h' => reads (windowRead_unlisted h h'),
      fun n i e hn hi he => reads (windowRead_journal hn hi he)⟩
  · have ho := hs.mpr hr
    refine ⟨fun hf hw => ?_, fun hf hw => ?_, fun w hw => ⟨fun hf hc => ?_, fun hf hc => ?_⟩, fun h1 h2 h3 h4 => ?_, fun h => ?_, ?_, fun h hv => ?_, fun h => ?_, fun h => ?_,
      fun h => ?_⟩
    · exact ⟨_, bar2Read_eq ho hf, by rw [windowAt_none hw]; exact s.emit_tells _⟩
    · exact ⟨_, bar2Write_eq ho hf, by rw [windowAt_none hw]; exact s.emit_tells _⟩
    · rw [bar2Read_eq ho hf, windowAt_some hw hc]
      obtain ⟨t, ht⟩ : ∃ t : State, t = rangeWatch s (portWho 0x100 0) (w.base + (off - w.off)) len := ⟨_, rfl⟩
      have hm : s.Mild t := by
        rw [ht]
        exact rangeWatch_mild s rfl _ _
      have hcl : t.sdie.journal.closed = s.sdie.journal.closed := by rw [hm.sdie]
      have htu : t.timeUnits = s.timeUnits := by rw [hm.rest]
      have hout : t.out = s.out := by rw [hm.rest]
      refine ⟨fun h => ⟨_, rfl, ?_⟩, fun h h' => ⟨_, rfl, ?_⟩, fun h h' hn => ⟨_, rfl, ?_⟩, fun n h h' hn => ⟨fun f1 f2 f3 f4 => ⟨_, rfl, ?_⟩, fun f => ⟨_, rfl, ?_⟩⟩⟩
      · dsimp only
        rw [h]
        exact s.emit_tells _
      · dsimp only
        rw [h, h']
        exact s.emit_tells _
      · dsimp only
        rw [h, h', readOut_one hf.1 hn, ← ht, sendPart_free, window_offset hw, hm.bytesAt]
        exact ⟨congrArg (· ++ _) hout, State.sameBytes_iff.mpr hm.bytes, hm.cores⟩
      · dsimp only
        rw [h, h', readOut_one hf.1 hn, ← ht]
        rw [(Weir.refilled_keeps _ _).2.1] at f1
        obtain ⟨x, hx, hl⟩ := weirPass_opens (s := t) (i := n) (kind := .host) (n := len) (pa := w.base + (off - w.off)) ((congrArg Weir.held (hm.weir n)).trans f1)
          (hcl.trans f2) (by rw [hm.weir, htu]; exact f3) (by rw [hm.weir, htu]; exact f4)
        have hb := hm.bytesAt (w.base + (off - w.off)) len
        rw [hm.weir, htu] at hl
        rw [if_neg hyes, if_neg hyes, sendPart_passes hx, window_offset hw, ← hb]
        exact ⟨congrArg (· ++ _) hout, (congrArg Weir.level (State.weir_setWeir t n x)).trans hl⟩
      · dsimp only
        rw [(Weir.refilled_keeps _ _).2.1] at f
        rw [h, h', readOut_one hf.1 hn, ← ht, if_neg hyes, if_neg hyes,
          sendPart_blocked (weirPass_blocks (by rw [hm.weir, hcl, htu]; exact f)), window_offset hw, hm.weir, htu]
        exact ⟨hout, congrArg Weir.held (State.weir_setWeir t n _)⟩
    · rw [bar2Write_eq ho hf, windowAt_some hw hc]
      refine ⟨fun h => ⟨_, rfl, ?_⟩, fun h hn => ⟨_, rfl, ?_⟩⟩
      · dsimp only
        rw [h]
        exact s.emit_tells _
      · dsimp only
        rw [h, if_neg hyes]
        have hm := portWrite_mild 0x100 bs.length hn (w.base + (off - w.off)) (bs := bs) (Nat.le_refl _)
        obtain ⟨f1, f2, -, -⟩ := hm.fields
        refine ⟨f2, by rw [hm.rest]; rfl, hm.cores, fun a => ?_⟩
        exact (congrArg (Memory.read · a) f1).trans (Memory.read_writeBytes_getD ..)
    · exact (bar0_writes ho off v).trans (congrArg _ (windowWrite_other h1 h2 h3 h4))
    · exact ⟨(bar0_writes ho _ v).trans (congrArg _ (windowWrite_bases h).1), (bar0_writes ho _ v).trans (congrArg _ (windowWrite_bases h).2)⟩
    · exact bar0_writes ho _ v
    · exact ⟨(bar0_writes ho _ v).trans (congrArg (fun r => Host.Outcome.next (s.setRing r)) (ringCtl_starts h hv)),
        (ringctl_writes ho v).trans (congrArg (fun r => Host.Outcome.next (s.setRing r)) (ringCtl_starts h hv))⟩
    · exact ⟨(bar0_writes ho _ v).trans (congrArg (fun r => Host.Outcome.next (s.setRing r)) (ringCtl_writes h)),
        (ringctl_writes ho v).trans (congrArg (fun r => Host.Outcome.next (s.setRing r)) (ringCtl_writes h))⟩
    · exact ⟨(bar0_writes ho _ v).trans (congrArg _ (doorbell_ignored h)), (ringtail_rings ho v).trans (congrArg _ (doorbell_ignored h))⟩
    · exact ⟨_, rfl, (bar0_writes ho _ v).trans (congrArg _ (doorbell_rings h)), (ringtail_rings ho v).trans (congrArg _ (doorbell_rings h))⟩

end Sys2Proof.Machine
end

section
namespace Sys2Proof.Machine

/-- The debugger has launched context 0 into slot 15 of core 0, whose list of contexts names that context twice: first as free, then as
bound to the slot. -/
def launchedTwice : State :=
  { State.reset with
    sdie := { State.reset.sdie with dbgMode := some 0, dbgLaunched := [(0, 1)] },
    cores := [(0, { ctxs := [(0, {}), (0, { st := .bound, slot := 15 })] })] }

/-- The context that a detach leaves is the free one, which no park point touches. -/
theorem launchedTwice_detached {u : State} (h : exec .debugDetach launchedTwice = .next (u.emit (.debugStatus true))) : (u.ctxOf ⟨0, 0⟩).st = .free := by
  have e : (match exec .debugDetach launchedTwice with
    | .next t => (t.ctxOf ⟨0, 0⟩).st
    | _ => .bound) = .free := by decide
  rw [h] at e
  exact e

/-- Refutes O47: the clause on a detach with a thread launched into slot 15 asks that the slot be bound, which `boundTo` reads off any entry of
the core's list, and concludes on the context that the first entry gives. In `launchedTwice` the two differ, and the context stays free. -/
theorem not_debugPortActs : ¬ Obligations.DebugPortActs := by
  unfold Obligations.DebugPortActs
  intro h
  obtain ⟨-, -, -, -, hdetach, -⟩ := h launchedTwice 0 0 0 0 0 0 0 0 0 0 0 (by decide) (by decide) (by decide) (by decide)
  obtain ⟨u, hu, -, -, -, hst⟩ := hdetach (by decide) rfl rfl (by decide)
  rw [launchedTwice_detached hu] at hst
  obtain h | ⟨h, -⟩ := hst
  · exact nomatch h
  · exact nomatch h

end Sys2Proof.Machine
end

section
namespace Sys2Proof.Machine

/-- A bounded read that names a region beyond the 4,096 of a package is no step of it (R13, R23). -/
theorem bounded_noSuchRegion (s : State) (p line n : Nat) (q : BitVec 32) (h : 4096 ≤ n) : exec (.peerAccess (.bounded p line n q)) s = .fault .noSuchUnit := by
  show execPeerAccess (.bounded p line n q) s = _
  unfold execPeerAccess
  exact if_pos (by simp [PeerReq.ok, h])

/-- Refutes O46: a peer's bounded read of a line that is not backed is to be answered with an error whatever region it names, but the package has
no step for region 4096. The line 2^60 of the reset package is such a line. -/
theorem not_fabricAndMeshAct : ¬ Obligations.FabricAndMeshAct := by
  unfold Obligations.FabricAndMeshAct
  intro h
  obtain ⟨-, -, -, hline, -⟩ := h State.reset 0 (by decide)
  obtain ⟨herror, -⟩ := hline (2 ^ 60) 0 0
  obtain ⟨-, -, hbounded, -⟩ := herror (.inr (by decide))
  obtain ⟨u, hu, -⟩ := hbounded 4096 0
  rw [bounded_noSuchRegion _ _ _ _ _ (Nat.le_refl 4096)] at hu
  exact nomatch hu

end Sys2Proof.Machine
end

section
namespace Sys2Proof.Machine

/-- A BFILL into the 8 × 8 tile of i8 at the first line of core 0's local store, with scale policy 1 and scale 0. -/
def aliasFill : Barge :=
  { level := .m, cmd := { word := 0x72000000, td := BitVec.ofNat 128 (0x00F0000000000000 + 3 * 2 ^ 56 + 2 ^ 60 + 8 * 2 ^ 68 + 8 * 2 ^ 79 + 2 ^ 93) } }

/-- The number of a unit, far beyond the tile's only one, whose line would lie where the alias window begins. -/
def aliasUnit : Nat := (0x00FFFFFFFFF00000 - 0x00F0000000000000) / 64

/-- The unit is carried out, and leaves the sideband of the line that its own address names as reset left it: the alias is resolved first. -/
theorem aliasFill_elsewhere : (match processUnit State.reset 0 0 aliasFill aliasUnit false with
    | .ok r => decide ((r.2.lineAt (.ls ((Tile.ofBits aliasFill.cmd.td).lineAddr aliasUnit))).2 = 0)
    | .error _ => false) = true := by decide

/-- Refutes O60: the clauses on copies ask of any unit number that the line at the address counted from the tile's base is written, and a number
beyond the tile can count into the alias window, which is resolved to the core's own local store. The fill of `aliasUnit` writes there. -/
theorem not_unitsComputeTheirResults : ¬ Obligations.UnitsComputeTheirResults := by
  unfold Obligations.UnitsComputeTheirResults
  rintro ⟨-, -, hcopy⟩
  have hrun := aliasFill_elsewhere
  split at hrun
  next r hr =>
    obtain ⟨-, hfill, -⟩ := hcopy State.reset 0 0 aliasFill aliasUnit false r.1 r.2 (by decide) (by decide) hr
    obtain ⟨-, -, hside, -⟩ := hfill (by decide) (by decide)
    rw [of_decide_eq_true hrun] at hside
    exact absurd hside (by decide)
  next => exact absurd hrun Bool.false_ne_true

end Sys2Proof.Machine
end

section
/-! Translations and what cores have derived from lines, for O41 (R104, R302, R315 to R319, R321). -/

namespace Sys2Proof.Machine

/-! ### What a core derives from lines is forgotten, never gained -/

/-- Translations and walks are dropped, and none appear. -/
def Micro.Thins (m m' : Micro) : Prop :=
  ∀ j, (∀ e ∈ SMap.get [] m'.tlb j, e ∈ SMap.get [] m.tlb j) ∧ ∀ p ∈ SMap.get [] m'.wcache j, p ∈ SMap.get [] m.wcache j

theorem Micro.Thins.refl (m : Micro) : m.Thins m := fun _ => ⟨fun _ h => h, fun _ h => h⟩

theorem Micro.Thins.trans {a b c : Micro} (h : a.Thins b) (h' : b.Thins c) : a.Thins c := fun j =>
  ⟨fun e he => (h j).1 e ((h' j).1 e he), fun p hp => (h j).2 p ((h' j).2 p hp)⟩

/-- Nothing a core holds is derived from a line. -/
def Micro.Without (m : Micro) (line j : Nat) : Prop := (∀ e ∈ SMap.get [] m.tlb j, ∀ p ∈ e.lines, p.1 ≠ line) ∧ ∀ p ∈ SMap.get [] m.wcache j, p.1 ≠ line

theorem Micro.Without.thin {m m' : Micro} {line j : Nat} (h : m.Without line j) (ht : m.Thins m') : m'.Without line j :=
  ⟨fun e he => h.1 e ((ht j).1 e he), fun p hp => h.2 p ((ht j).2 p hp)⟩

theorem SMap.mem_get_set_filter {V : Type} [DecidableEq V] {m : SMap (List V)} {k j : Nat} {f : V → Bool} {x : V}
    (h : x ∈ SMap.get [] (SMap.set [] m k ((SMap.get [] m k).filter f)) j) : x ∈ SMap.get [] m j := by
  rw [SMap.get_set] at h
  split at h
  · subst j; exact List.mem_of_mem_filter h
  · exact h

theorem Micro.dropDerived_thins (m : Micro) (core line : Nat) : m.Thins (m.dropDerived core line).1 := fun _ =>
  ⟨fun _ h => SMap.mem_get_set_filter h, fun _ h => SMap.mem_get_set_filter h⟩

theorem Micro.dropDerived_without (m : Micro) (core line : Nat) : (m.dropDerived core line).1.Without line core := by
  constructor
  · intro e he p hp
    have h := List.of_mem_filter ((SMap.get_set_same [] m.tlb core _) ▸ he)
    simp only [Bool.not_eq_true', List.any_eq_false, decide_eq_true_eq] at h
    exact h p hp
  · intro p hp
    have hget : SMap.get [] (m.dropDerived core line).1.wcache core = (SMap.get [] m.wcache core).filter (fun p => decide (p.1 ≠ line)) := SMap.get_set_same ..
    rw [hget] at hp
    simpa using List.of_mem_filter hp

theorem Micro.dropDerivedAll_cons (m : Micro) (k : Nat) (l : List Nat) (line : Nat) :
    (m.dropDerivedAll (k :: l) line).1 = ((m.dropDerived k line).1.dropDerivedAll l line).1 := by
  have hfold (l : List Nat) (a b : Micro × List Instr) (h : a.1 = b.1) :
      (l.foldl (fun a k => let b := a.1.dropDerived k line; (b.1, a.2 ++ b.2)) a).1 = (l.foldl (fun a k => let b := a.1.dropDerived k line; (b.1, a.2 ++ b.2)) b).1 := by
    induction l generalizing a b with
    | nil => exact h
    | cons k l ih => exact ih _ _ (congrArg (fun m : Micro => (m.dropDerived k line).1) h)
  exact hfold l _ _ rfl

theorem Micro.dropDerivedAll_thins (m : Micro) (l : List Nat) (line : Nat) : m.Thins (m.dropDerivedAll l line).1 := by
  induction l generalizing m with
  | nil => exact Micro.Thins.refl m
  | cons k l ih =>
    rw [Micro.dropDerivedAll_cons]
    exact (m.dropDerived_thins k line).trans (ih _)

theorem Micro.dropDerivedAll_without (m : Micro) {l : List Nat} {j : Nat} (h : j ∈ l) (line : Nat) : (m.dropDerivedAll l line).1.Without line j := by
  induction l generalizing m with
  | nil => exact nomatch h
  | cons k l ih =>
    rw [Micro.dropDerivedAll_cons]
    obtain rfl | h := List.mem_cons.mp h
    · exact (m.dropDerived_without j line).thin (Micro.dropDerivedAll_thins _ l line)
    · exact ih _ h

theorem Micro.reuse_thins (m : Micro) (old : Nat) (again : List Party) (round : Nat) : m.Thins (m.reuse old again round) := by
  unfold Micro.reuse
  split
  · exact Micro.Thins.refl m
  · exact Micro.Thins.refl m

theorem Micro.trimDir_thins (needs : Party → Nat → Bool) (slice cap n : Nat) (m : Micro) : m.Thins (m.trimDir needs slice cap n).1 := by
  induction n generalizing m with
  | zero => exact Micro.Thins.refl m
  | succ n ih =>
    rw [Micro.trimDir_succ]
    split
    · exact Micro.Thins.refl m
    · split
      · exact Micro.Thins.refl m
      · exact ((Micro.dropDerivedAll_thins m _ _).trans (Micro.reuse_thins _ _ _ _)).trans (ih _)

/-! ### Tracking reads (R317, R321) -/

theorem Micro.register_thins (needs : Party → Nat → Bool) (m : Micro) (p : Party) (line : Nat) : m.Thins (m.register needs p line).1 := by
  unfold Micro.register
  dsimp only
  split
  · exact Micro.Thins.refl m
  · exact Micro.trimDir_thins _ _ _ _ m

/-- Whoever registers is added to the line's entry, which then stands in the directory. -/
theorem Micro.register_adds (needs : Party → Nat → Bool) (m : Micro) (p : Party) (line : Nat) : line ∈ (m.register needs p line).1.dirOrder ∧
    ∃ d : DirEntry, SMap.get {} (m.register needs p line).1.dir line = d.add p := by
  obtain ⟨a, ha⟩ : ∃ a, a = if m.dirOrder.contains line ∨ m.dirOrder.length < 32768 then (m, []) else m.trimDir needs (m.homeOf (64 * line)) 32767 8203 := ⟨_, rfl⟩
  rw [Micro.register, ← ha]
  refine ⟨?_, _, (SMap.get_put _ _ _ _ _).trans (if_pos rfl)⟩
  dsimp only
  split
  next h => exact List.contains_iff_mem.mp h
  next => exact List.mem_append_right _ List.mem_cons_self

theorem DirEntry.mem_marked_of {d : DirEntry} {k : Nat} (hk : k < 256) (hc : d.coarse = true) (hb : d.clusters.getLsbD (clusterOf k) = true) : k ∈ d.sharers := by
  have hcl : clusterOf k = k / 4 := Nat.mod_eq_of_lt (by omega)
  rw [DirEntry.sharers, if_pos hc]
  refine List.mem_flatMap.mpr ⟨k / 4, List.mem_filter.mpr ⟨List.mem_range.mpr (by omega), hcl ▸ hb⟩, ?_⟩
  simp only [List.mem_cons, List.not_mem_nil, or_false]
  omega

theorem foldl_setBit64_keeps {i : Nat} (hi : i < 64) (l : List Nat) (x : BitVec 64) (h : x.getLsbD i = true) :
    (l.foldl (fun b j => setBit64 b (clusterOf j)) x).getLsbD i = true := by
  induction l generalizing x with
  | nil => exact h
  | cons j l ih =>
    refine ih (setBit64 x (clusterOf j)) ?_
    have hj : clusterOf j < 64 := Nat.mod_lt _ (by decide)
    rw [setBit64_bit _ hj hi, h, Bool.true_or]

theorem DirEntry.mem_pointers {d : DirEntry} {i k : Nat} (hi : i < 4) (h : SMap.get 0 d.ptrs i = k + 1) : k ∈ d.pointers :=
  List.mem_filterMap.mpr ⟨k + 1, List.mem_map.mpr ⟨i, List.mem_range.mpr hi, h⟩, by simp⟩

/-- A core that registers is a sharer (R317). -/
theorem DirEntry.addCore_shares (d : DirEntry) {k : Nat} (hk : k < 256) : k ∈ (d.addCore k).sharers := by
  have hcl : clusterOf k < 64 := Nat.mod_lt _ (by decide)
  unfold DirEntry.addCore
  split
  next hc => exact DirEntry.mem_marked_of hk hc (by rw [setBit64_bit _ hcl hcl]; simp)
  next hc =>
    split
    next hp =>
      rw [DirEntry.sharers, if_neg hc]
      exact List.contains_iff_mem.mp hp
    next =>
      split
      next i hi =>
        have hi4 := List.mem_range.mp (List.mem_of_find?_eq_some hi)
        rw [DirEntry.sharers, if_neg hc]
        exact DirEntry.mem_pointers hi4 (SMap.get_set_same 0 d.ptrs i (k + 1))
      next =>
        exact DirEntry.mem_marked_of hk rfl (foldl_setBit64_keeps hcl d.pointers (setBit64 0 (clusterOf k)) (by rw [setBit64_bit _ hcl hcl]; simp))

theorem State.track_bytes (s : State) (p : Party) (line : Nat) : s.SameBytes (s.track p line) := by
  unfold State.track
  exact (((State.Looked.micro s _).then (State.Looked.post _ _)).then (watchReport_looked _ _ _ _ _)).bytes

theorem State.track_micro (s : State) (p : Party) (line : Nat) : (s.track p line).micro = (s.micro.register s.needs p line).1 := watchReport_micro _ _ _ _ _

theorem State.track_agenda (s : State) (p : Party) (line : Nat) : (s.track p line).agenda = s.agenda ++ (s.micro.register s.needs p line).2 :=
  watchReport_agenda _ _ _ _ _

/-- A tracking read of a core (R317). -/
theorem walkerRead_registers (s : State) {k : Nat} (hk : k < 256) (line : Nat) : ∃ u, exec (.walkerRead (.core k) line) s = .next u ∧ line ∈ u.micro.dirOrder ∧
    k ∈ (SMap.get {} u.micro.dir line).sharers ∧ s.SameBytes u ∧ u.cores = s.cores := by
  obtain ⟨hin, d, hd⟩ := Micro.register_adds s.needs s.micro (.core k) line
  refine ⟨s.track (.core k) line, ?_, by rw [State.track_micro]; exact hin, ?_, s.track_bytes _ _, (s.track_rounded _ _).cores⟩
  · show execWalkerRead (.core k) line s = _
    exact if_neg (by simp [Party.ok, hk])
  · rw [State.track_micro, hd]
    exact d.addCore_shares hk

/-! ### INV (R318, R319) -/

/-- What an INV at a party leaves: notices may go out, and nothing derived appears. -/
structure State.Invalidated (s t : State) : Prop where
  bytes : s.SameBytes t
  agenda : ∃ ns, t.agenda = s.agenda ++ ns
  thins : s.micro.Thins t.micro

theorem State.Invalidated.track {s t : State} (h : s.Invalidated t) (p : Party) (line : Nat) : s.Invalidated (t.track p line) := by
  obtain ⟨ns, hns⟩ := h.agenda
  exact ⟨h.bytes.trans (t.track_bytes p line), ⟨_, by rw [State.track_agenda, hns, List.append_assoc]⟩,
    h.thins.trans (by rw [State.track_micro]; exact Micro.register_thins _ _ _ _)⟩

/-- What a hub's INV drops at once. -/
def hubDrops (s : State) (c line : Nat) : State :=
  ({ s with micro := (s.micro.dropDerivedAll (coresOf c) line).1 } : State).post (s.micro.dropDerivedAll (coresOf c) line).2

theorem hubDrops_invalidated (s : State) (c line : Nat) : s.Invalidated (hubDrops s c line) :=
  ⟨⟨rfl, rfl, rfl, rfl⟩, ⟨_, rfl⟩, Micro.dropDerivedAll_thins _ _ _⟩

theorem takeInv_hub (s : State) (c line : Nat) : takeInv s (.hub c) line = hubDrops s c line ∨ ∃ p, takeInv s (.hub c) line = (hubDrops s c line).track p line := by
  cases h : (hubDrops s c line).holderOf c line with
  | some p =>
    refine .inr ⟨p, ?_⟩
    show (match (hubDrops s c line).holderOf c line with | some p => (hubDrops s c line).track p line | none => hubDrops s c line) = _
    rw [h]
  | none =>
    refine .inl ?_
    show (match (hubDrops s c line).holderOf c line with | some p => (hubDrops s c line).track p line | none => hubDrops s c line) = _
    rw [h]

/-- How often a party acknowledges an INV: a hub does so for each of its cores (R319). -/
def acksOf : Party → Nat
  | .hub _ => 4
  | _ => 1

theorem inv_at {s : State} {p : Party} (hp : p.ok = true) {r : ThreadRef} (hr : r.core < 256) (hx : r.ctx < 24) (line n : Nat) :
    exec (.invReceive p line n r) s = .next ((takeInv s p line).post (List.replicate (acksOf p) (.iackReceive ⟨p, r⟩))) := by
  show execInvReceive p line n r s = _
  unfold execInvReceive
  rw [if_neg (by rw [hp, ctxExists_of hr hx]; exact Bool.false_ne_true)]
  cases p <;> rfl

/-- An INV at a core (R318). -/
theorem inv_core (s : State) {k : Nat} (hk : k < 256) {r : ThreadRef} (hr : r.core < 256) (hx : r.ctx < 24) (line n : Nat) :
    ∃ (u : State) (ns : List Instr), exec (.invReceive (.core k) line n r) s = .next u ∧ u.agenda = s.agenda ++ ns ++ [.iackReceive ⟨.core k, r⟩] ∧ s.SameBytes u ∧
      (∀ i ∈ ns, ∃ l v, i = .evictionNotice k l v) ∧
      (∀ e ∈ SMap.get [] u.micro.tlb k, ∀ p ∈ e.lines, p.1 ≠ line) ∧ ∀ p ∈ SMap.get [] u.micro.wcache k, p.1 ≠ line := by
  refine ⟨_, (s.micro.dropDerived k line).2, inv_at (by simp [Party.ok, hk]) hr hx line n, rfl, ⟨rfl, rfl, rfl, rfl⟩, fun i hi => ?_, s.micro.dropDerived_without k line⟩
  obtain ⟨p, -, rfl⟩ := List.mem_map.mp hi
  exact ⟨_, _, rfl⟩

/-- An INV at a hub, which its cluster's cores forget and which the hub acknowledges for each (R319). -/
theorem inv_hub (s : State) {k : Nat} (hk : k < 64) {r : ThreadRef} (hr : r.core < 256) (hx : r.ctx < 24) (line n : Nat) {ack : Instr} (hack : ack = .iackReceive ⟨.hub k, r⟩) :
    ∃ (u : State) (ns : List Instr), exec (.invReceive (.hub k) line n r) s = .next u ∧ s.SameBytes u ∧ u.agenda = s.agenda ++ ns ++ [ack, ack, ack, ack] ∧
      ∀ j, j / 4 = k → (∀ e ∈ SMap.get [] u.micro.tlb j, ∀ p ∈ e.lines, p.1 ≠ line) ∧ ∀ p ∈ SMap.get [] u.micro.wcache j, p.1 ≠ line := by
  subst hack
  have hall : s.Invalidated (takeInv s (.hub k) line) ∧ (hubDrops s k line).micro.Thins (takeInv s (.hub k) line).micro := by
    obtain h | ⟨p, h⟩ := takeInv_hub s k line
    · rw [h]
      exact ⟨hubDrops_invalidated s k line, Micro.Thins.refl _⟩
    · rw [h]
      refine ⟨(hubDrops_invalidated s k line).track p line, ?_⟩
      rw [State.track_micro]
      exact Micro.register_thins _ _ _ _
  obtain ⟨⟨hbytes, ⟨ns, hns⟩, -⟩, hthin⟩ := hall
  refine ⟨_, ns, inv_at (by simp [Party.ok, hk]) hr hx line n, hbytes.trans ⟨rfl, rfl, rfl, rfl⟩, ?_, fun j hj => ?_⟩
  · show (takeInv s (.hub k) line).agenda ++ _ = _
    rw [hns]
    rfl
  · exact (Micro.dropDerivedAll_without s.micro (mem_coresOf hj) line).thin hthin

/-- An INV at the system die of a line it does not read again. -/
theorem inv_sdie_done {s : State} {line : Nat} (h : s.needs .sdie line = false) {r : ThreadRef} (hr : r.core < 256) (hx : r.ctx < 24) (n : Nat) :
    exec (.invReceive .sdie line n r) s = .next (s.post [.iackReceive ⟨.sdie, r⟩]) := by
  refine (inv_at rfl hr hx line n).trans ?_
  have e : takeInv s .sdie line = s := if_neg (by rw [h]; exact Bool.false_ne_true)
  rw [e]
  rfl

/-- An INV at the system die of a line that it reads again (R321). -/
theorem inv_sdie_again {s : State} {line : Nat} (h : s.needs .sdie line = true) {r : ThreadRef} (hr : r.core < 256) (hx : r.ctx < 24) (n : Nat) :
    ∃ (u : State) (ns : List Instr), exec (.invReceive .sdie line n r) s = .next u ∧ s.SameBytes u ∧
      u.agenda = s.agenda ++ ns ++ [.iackReceive ⟨.sdie, r⟩] ∧ line ∈ u.micro.dirOrder ∧ (SMap.get {} u.micro.dir line).sdie = true := by
  have e : takeInv s .sdie line = s.track .sdie line := if_pos h
  obtain ⟨hin, d, hd⟩ := Micro.register_adds s.needs s.micro .sdie line
  refine ⟨_, (s.micro.register s.needs .sdie line).2, inv_at rfl hr hx line n, ?_, ?_, ?_, ?_⟩
  · rw [e]
    exact (s.track_bytes .sdie line).trans ⟨rfl, rfl, rfl, rfl⟩
  · rw [e]
    exact congrArg (· ++ _) (s.track_agenda .sdie line)
  · rw [e]
    show line ∈ (s.track .sdie line).micro.dirOrder
    rw [State.track_micro]
    exact hin
  · rw [e]
    show (SMap.get {} (s.track .sdie line).micro.dir line).sdie = true
    rw [State.track_micro, hd]
    rfl

/-! ### Eviction notices (R318) -/

/-- The pointers that name a core are cleared. -/
theorem clear_pointers (f : Nat → Prop) [DecidablePred f] (l : List Nat) (m : SMap Nat) (i : Nat) :
    SMap.get 0 (l.foldl (fun m i => if f i then SMap.set 0 m i 0 else m) m) i = if i ∈ l ∧ f i then 0 else SMap.get 0 m i := by
  induction l generalizing m with
  | nil => simp
  | cons j l ih =>
    rw [List.foldl_cons, ih]
    by_cases hf : f j
    · rw [if_pos hf, SMap.get_set]
      by_cases hij : i = j
      · subst i
        simp [hf]
      · simp [hij]
    · rw [if_neg hf]
      by_cases hij : i = j
      · subst i
        simp [hf]
      · simp [hij]

theorem notice_stale {s : State} {k line n : Nat} (hk : k < 256) {d : DirEntry} (hd : d = SMap.get {} s.micro.dir line)
    (h : line ∉ s.micro.dirOrder ∨ d.coarse = true ∨ d.round ≠ n) : exec (.evictionNotice k line n) s = .next s := by
  subst d
  show execEvictionNotice k line n s = _
  refine (if_neg (by rw [coreExists_of hk]; exact Bool.false_ne_true)).trans (if_pos ?_)
  simp only [Bool.or_eq_true, Bool.not_eq_true', decide_eq_true_eq]
  rcases h with h | h | h
  · exact .inl (.inl (by simpa using h))
  · exact .inl (.inr h)
  · exact .inr h

theorem notice_clears {s : State} {k line n : Nat} (hk : k < 256) {d : DirEntry} (hd : d = SMap.get {} s.micro.dir line) (hin : line ∈ s.micro.dirOrder)
    (hc : d.coarse = false) (hr : d.round = n) : ∃ u, exec (.evictionNotice k line n) s = .next u ∧ s.SameBytes u ∧
      ∀ i < 4, SMap.get 0 (SMap.get {} u.micro.dir line).ptrs i = if SMap.get 0 d.ptrs i = k + 1 then 0 else SMap.get 0 d.ptrs i := by
  subst d
  have hno : ¬ (!s.micro.dirOrder.contains line || (SMap.get {} s.micro.dir line).coarse || decide ((SMap.get {} s.micro.dir line).round ≠ n)) = true := by
    rw [List.contains_iff_mem.mpr hin, hc, hr, decide_eq_false (not_not_intro rfl)]
    exact Bool.false_ne_true
  refine ⟨_, (if_neg (by rw [coreExists_of hk]; exact Bool.false_ne_true)).trans (if_neg hno), ⟨rfl, rfl, rfl, rfl⟩, fun i hi => ?_⟩
  · dsimp only
    rw [SMap.get_put, if_pos rfl]
    refine (clear_pointers (fun i => SMap.get 0 (SMap.get {} s.micro.dir line).ptrs i = k + 1) (List.range 4) _ i).trans ?_
    simp [hi]

/-! ### Entries dropped of a core's own accord (R104, R302, R315, R324) -/

theorem translationDrop_tlb {s : State} {k n : Nat} (hk : k < 256) (h : n < (SMap.get [] s.micro.tlb k).length) :
    ∃ u, exec (.translationDrop k n) s = .next u ∧ SMap.get [] u.micro.tlb k = (SMap.get [] s.micro.tlb k).eraseIdx n ∧ s.SameBytes u :=
  ⟨_, (if_neg (by rw [coreExists_of hk]; exact Bool.false_ne_true)).trans (congrArg Host.Outcome.next (if_pos h)), SMap.get_set_same _ _ _ _, rfl, rfl, rfl, rfl⟩

theorem translationDrop_beyond {s : State} {k n : Nat} (hk : k < 256)
    (h : (SMap.get [] s.micro.tlb k).length + (SMap.get [] s.micro.wcache k).length + (SMap.get [] s.micro.ctlb (clusterOf k)).length ≤ n) :
    exec (.translationDrop k n) s = .next s := by
  show execTranslationDrop k n s = _
  refine (if_neg (by rw [coreExists_of hk]; exact Bool.false_ne_true)).trans (congrArg Host.Outcome.next ?_)
  unfold dropTranslation
  dsimp only
  rw [if_neg (by omega), if_neg (by omega), List.drop_eq_nil_of_le (by omega)]
  rfl

theorem l1Drop_forgets {s : State} {k : Nat} (hk : k < 256) (line : Nat) : ∃ u, exec (.l1InstructionCacheDrop k line) s = .next u ∧
    (∀ p ∈ SMap.get [] u.micro.l1i k, p.1 ≠ line) ∧ s.SameBytes u ∧ u.cores = s.cores := by
  refine ⟨dropFetched s k line, if_neg (by rw [coreExists_of hk]; exact Bool.false_ne_true), fun p hp => ?_, ⟨rfl, rfl, rfl, rfl⟩, rfl⟩
  exact SMap.not_mem_del (SMap.get_set_same [] s.micro.l1i k _ ▸ hp)

theorem clock_broadcast {s : State} {slice : Nat} (h : slice < 32) : ∃ u, exec (.clockMinimumBroadcast slice) s = .next u ∧
    u.micro.minClk = max s.micro.minClk (SMap.get 0 s.micro.clkSlice slice - 2 ^ 45) ∧ s.SameBytes u ∧ u.cores = s.cores :=
  ⟨_, if_neg (by omega), rfl, ⟨rfl, rfl, rfl, rfl⟩, rfl⟩

section
variable {s : State} {a b line : Nat} (ha : a < 64) (hb : b < 64) (clk : Nat)
include ha hb

theorem peerServe_step : exec (.l2PeerServe a b line clk) s = .next (peerServe s a b line) := if_neg (by omega)

theorem peerServe_serves {c : Copy} {i : Instr} {q : CohReq} (hc : s.micro.l2At b line = some c) (hq : passing s a line = some (i, q)) (hd : a / 16 = b / 16) (hne : a ≠ b)
    (hv : c.st = .v) (hl : max q.clk s.micro.minClk ≤ c.img.rts) : exec (.l2PeerServe a b line clk) s = .next { s with agenda := s.agenda.erase i ++
      [.agentData q.core line ⟨{ c.img with rts := min c.img.rts (max c.img.wts (max q.clk s.micro.minClk + q.lease)), level := 2 }, 0⟩ false] } := by
  refine (peerServe_step ha hb clk).trans (congrArg Host.Outcome.next ?_)
  unfold peerServe
  rw [if_neg (by simp [hd, hne]), hc, hq]
  refine if_pos ?_
  have := le_of_max_le_right hl
  simp [hv, Micro.covers, hl, this]

theorem peerServe_stale {c : Copy} (hc : s.micro.l2At b line = some c) (h : ∀ i q, passing s a line = some (i, q) → c.st ≠ .v ∨ c.img.rts < max q.clk s.micro.minClk) :
    exec (.l2PeerServe a b line clk) s = .next s := by
  refine (peerServe_step ha hb clk).trans (congrArg Host.Outcome.next ?_)
  unfold peerServe
  split
  · rfl
  · rw [hc]
    split
    next o i q ho hq =>
      cases ho
      refine if_neg ?_
      obtain h | h := h i q hq
      · simp [h]
      · simp [Micro.covers]
        omega
    next => rfl

theorem peerServe_none (h : s.micro.l2At b line = none ∨ passing s a line = none ∨ a / 16 ≠ b / 16 ∨ a = b) : exec (.l2PeerServe a b line clk) s = .next s := by
  refine (peerServe_step ha hb clk).trans (congrArg Host.Outcome.next ?_)
  unfold peerServe
  split
  · rfl
  next hn =>
    obtain ⟨hdie, hne⟩ := not_or.mp hn
    rcases h with h | h | h | h
    · rw [h]
    · rw [h]
      cases s.micro.l2At b line <;> rfl
    · exact absurd h hdie
    · exact absurd h hne

end

end Sys2Proof.Machine
end

section
/-! SUPPORT. Home lines, and the copies that the caches hold of a line (R301, R304, R305). -/

namespace Sys2Proof.Machine

/-! ### Entries looked up by their key -/

theorem SMap.find?_put_other {V : Type} (m : SMap V) {k j : Nat} (v : V) (h : j ≠ k) :
    (SMap.put m k v).find? (fun p => decide (p.1 = j)) = m.find? (fun p => decide (p.1 = j)) := by
  induction m with
  | nil => simp [SMap.put, h.symm]
  | cons p t ih =>
    obtain ⟨k', v'⟩ := p
    unfold SMap.put
    split
    · exact List.find?_cons_of_neg (by simpa using h.symm)
    · split
      next e =>
        subst e
        rw [List.find?_cons_of_neg (by simpa using h.symm), List.find?_cons_of_neg (by simpa using h.symm)]
      next => rw [List.find?_cons, List.find?_cons, ih]

theorem SMap.find?_del {V : Type} (m : SMap V) (k : Nat) : (SMap.del m k).find? (fun p => decide (p.1 = k)) = none :=
  List.find?_eq_none.mpr fun _ hp => by simpa using SMap.not_mem_del hp

theorem SMap.find?_del_other {V : Type} (m : SMap V) {k j : Nat} (h : j ≠ k) :
    (SMap.del m k).find? (fun p => decide (p.1 = j)) = m.find? (fun p => decide (p.1 = j)) := by
  induction m with
  | nil => rfl
  | cons p t ih =>
    obtain ⟨k', v'⟩ := p
    unfold SMap.del
    split
    next e =>
      subst e
      rw [ih, List.find?_cons_of_neg (by simpa using h.symm)]
    next => rw [List.find?_cons, List.find?_cons, ih]

/-! ### Copies of a line in an L1 cache -/

theorem Micro.copyAt_setCopy (m : Micro) (k line j l : Nat) (c : Copy) :
    (m.setCopy k line c).copyAt j l = if j = k ∧ l = line then some c else m.copyAt j l := by
  unfold Micro.copyAt Micro.setCopy
  dsimp only
  rw [SMap.get_set]
  by_cases hj : j = k
  · subst j
    by_cases hl : l = line
    · subst l
      rw [if_pos rfl, if_pos ⟨rfl, rfl⟩, SMap.find?_put]
      rfl
    · rw [if_pos rfl, if_neg (fun h => hl h.2), SMap.find?_put_other _ _ hl]
  · rw [if_neg hj, if_neg (fun h => hj h.1)]

theorem Micro.copyAt_setCopy_same (m : Micro) (k line : Nat) (c : Copy) : (m.setCopy k line c).copyAt k line = some c :=
  (m.copyAt_setCopy k line k line c).trans (if_pos ⟨rfl, rfl⟩)

theorem Micro.copyAt_dropCopy (m : Micro) (k line j l : Nat) : (m.dropCopy k line).copyAt j l = if j = k ∧ l = line then none else m.copyAt j l := by
  unfold Micro.copyAt Micro.dropCopy
  dsimp only
  rw [SMap.get_set]
  by_cases hj : j = k
  · subst j
    by_cases hl : l = line
    · subst l
      rw [if_pos rfl, if_pos ⟨rfl, rfl⟩, SMap.find?_del]
      rfl
    · rw [if_pos rfl, if_neg (fun h => hl h.2), SMap.find?_del_other _ hl]
  · rw [if_neg hj, if_neg (fun h => hj h.1)]

theorem Micro.copyAt_dropCopy_same (m : Micro) (k line : Nat) : (m.dropCopy k line).copyAt k line = none :=
  (m.copyAt_dropCopy k line k line).trans (if_pos ⟨rfl, rfl⟩)

/-- A copy found at a core is an entry of its cache. -/
theorem Micro.mem_of_copyAt {m : Micro} {j l : Nat} {c : Copy} (h : m.copyAt j l = some c) : l ∈ m.l1d.flatMap (fun p => p.2.map (·.1)) := by
  obtain ⟨p, hp, -⟩ := Option.map_eq_some_iff.mp h
  have hin := List.mem_of_find?_eq_some hp
  have hl : p.1 = l := by simpa using List.find?_some hp
  refine List.mem_flatMap.mpr ⟨(j, SMap.get [] m.l1d j), SMap.mem_of_get [] m.l1d j (fun e => ?_), List.mem_map.mpr ⟨p, hin, hl⟩⟩
  rw [e] at hin
  exact nomatch hin

/-! ### Copies in a cluster's L2 slice -/

theorem Micro.l2At_dropL2 (m : Micro) (cl line x l : Nat) : (m.dropL2 cl line).l2At x l = if x = cl ∧ l = line then none else m.l2At x l := by
  unfold Micro.l2At Micro.dropL2
  dsimp only
  rw [SMap.get_set]
  by_cases hx : x = cl
  · subst x
    by_cases hl : l = line
    · subst l
      rw [if_pos rfl, if_pos ⟨rfl, rfl⟩, SMap.find?_del]
      rfl
    · rw [if_pos rfl, if_neg (fun h => hl h.2), SMap.find?_del_other _ hl]
  · rw [if_neg hx, if_neg (fun h => hx h.1)]

theorem Micro.mem_of_l2At {m : Micro} {x l : Nat} {c : Copy} (h : m.l2At x l = some c) : l ∈ m.l2.flatMap (fun p => p.2.map (·.1)) := by
  obtain ⟨p, hp, -⟩ := Option.map_eq_some_iff.mp h
  have hin := List.mem_of_find?_eq_some hp
  have hl : p.1 = l := by simpa using List.find?_some hp
  refine List.mem_flatMap.mpr ⟨(x, SMap.get [] m.l2 x), SMap.mem_of_get [] m.l2 x (fun e => ?_), List.mem_map.mpr ⟨p, hin, hl⟩⟩
  rw [e] at hin
  exact nomatch hin

/-! ### Home lines -/

theorem Micro.homeLine_setHome (m : Micro) (line l : Nat) (h : HomeLine) : (m.setHome line h).homeLine l = if l = line then h else m.homeLine l :=
  SMap.get_set ..

theorem Micro.homeLine_setHome_same (m : Micro) (line : Nat) (h : HomeLine) : (m.setHome line h).homeLine line = h := SMap.get_set_same ..

section
variable {s : State} {line core : Nat} {k : FwdKind} {i : Instr} (hm : s.micro.lineMoving line = false) (hs : s.micro.standing (s.micro.homeOf (64 * line)) < 1024)
include hm hs

/-- In a transient state a request stands (R305). -/
theorem homeGate_transient (hst : (s.micro.homeLine line).st = .g ∨ (s.micro.homeLine line).st = .f ∨ (s.micro.homeLine line).st = .w) :
    homeGate s line core k i =
      .error { s with micro := s.micro.setHome line { s.micro.homeLine line with waiting := (s.micro.homeLine line).waiting ++ [i] } } := by
  refine (if_neg (by rw [hm]; exact Bool.false_ne_true)).trans ((if_neg (Nat.not_le.mpr hs)).trans (if_pos hst))

/-- An owned line is forwarded, and the request stands (R305). -/
theorem homeGate_owned (hst : (s.micro.homeLine line).st = .o) :
    homeGate s line core k i =
      .error (({ s with micro := s.micro.setHome line { s.micro.homeLine line with
        st := if k = .recall then .w else .f, waiting := (s.micro.homeLine line).waiting ++ [i] } } : State).post [.agentFwd (s.micro.homeLine line).owner line k]) := by
  refine (if_neg (by rw [hm]; exact Bool.false_ne_true)).trans ((if_neg (Nat.not_le.mpr hs)).trans ((if_neg (by simp [hst])).trans ?_))
  have ho : s.micro.ownerOf line core = some (s.micro.homeLine line).owner := if_pos hst
  rw [ho]

/-- A line at rest is served, where no other core owns its block (R305). -/
theorem homeGate_rests (hst : (s.micro.homeLine line).st = .c) (ho : s.micro.ownerOf line core = none) :
    homeGate s line core k i = .ok { s with micro := s.micro.setHome line { s.micro.homeLine line with served := false } } := by
  refine (if_neg (by rw [hm]; exact Bool.false_ne_true)).trans ((if_neg (Nat.not_le.mpr hs)).trans ((if_neg (by simp [hst])).trans ?_))
  rw [ho]

end

/-- A line of a granule in motion sends the request away (R323). -/
theorem homeGate_moving {s : State} {line : Nat} (hm : s.micro.lineMoving line = true) (core : Nat) (k : FwdKind) (i : Instr) :
    homeGate s line core k i = .error { s with micro := { s.micro with retry := s.micro.retry ++ [(line / 64, i)] } } := if_pos hm

end Sys2Proof.Machine
end

section
/-! Granules that move and blocks that are recalled, for O41 (R210, R302, R305, R309, R323 to R325). -/

namespace Sys2Proof.Machine

/-! ### Owned lines are recalled (R305, R323) -/

/-- The lines recalled leave everything but the home lines and what is on its way. -/
structure State.Recalled (s t : State) : Prop where
  rest : t = { s with micro := { s.micro with home := t.micro.home }, agenda := t.agenda }
  agenda : ∀ i ∈ s.agenda, i ∈ t.agenda
  still : ∀ l, (s.micro.homeLine l).st ≠ .o → t.micro.homeLine l = s.micro.homeLine l

theorem State.Recalled.refl (s : State) : s.Recalled s := ⟨rfl, fun _ h => h, fun _ _ => rfl⟩

theorem State.Recalled.bytes {s t : State} (h : s.Recalled t) : s.SameBytes t := by
  rw [h.rest]
  exact ⟨rfl, rfl, rfl, rfl⟩

/-- The recall of one line. -/
def recallLine (s : State) (l : Nat) : State :=
  if (s.micro.homeLine l).st = .o then
    ({ s with micro := s.micro.setHome l { s.micro.homeLine l with st := .w } } : State).post [.agentFwd (s.micro.homeLine l).owner l .recall]
  else s

theorem recallLine_other (s : State) {l j : Nat} (h : j ≠ l) : (recallLine s l).micro.homeLine j = s.micro.homeLine j := by
  unfold recallLine
  split
  · exact (Micro.homeLine_setHome ..).trans (if_neg h)
  · rfl

theorem recallLine_recalled (s : State) (l : Nat) : s.Recalled (recallLine s l) := by
  by_cases h : (s.micro.homeLine l).st = .o
  · rw [recallLine, if_pos h]
    refine ⟨rfl, fun i hi => List.mem_append_left _ hi, fun j hj => ?_⟩
    exact (Micro.homeLine_setHome ..).trans (if_neg fun e => by subst e; exact hj h)
  · rw [recallLine, if_neg h]
    exact State.Recalled.refl s

theorem State.Recalled.then {s t u : State} (h : s.Recalled t) (h' : t.Recalled u) : s.Recalled u where
  rest := by rw [h'.rest, h.rest]
  agenda i hi := h'.agenda i (h.agenda i hi)
  still l hl := (h'.still l (by rw [h.still l hl]; exact hl)).trans (h.still l hl)

theorem recallOwned_recalled (s : State) (lines : List Nat) : s.Recalled (recallOwned s lines) := by
  induction lines generalizing s with
  | nil => exact State.Recalled.refl s
  | cons a l ih => exact (recallLine_recalled s a).then (ih (recallLine s a))

/-- An owned line that is recalled is in state W, and its owner is told. -/
theorem recallOwned_recalls (s : State) {lines : List Nat} {l : Nat} (hl : l ∈ lines) (h : (s.micro.homeLine l).st = .o) :
    (recallOwned s lines).micro.homeLine l = { s.micro.homeLine l with st := .w } ∧
      .agentFwd (s.micro.homeLine l).owner l .recall ∈ (recallOwned s lines).agenda := by
  induction lines generalizing s with
  | nil => exact nomatch hl
  | cons a r ih =>
    show (recallOwned (recallLine s a) r).micro.homeLine l = _ ∧ _ ∈ (recallOwned (recallLine s a) r).agenda
    by_cases ha : l = a
    · subst a
      have e : recallLine s l = ({ s with micro := s.micro.setHome l { s.micro.homeLine l with st := .w } } : State).post [.agentFwd (s.micro.homeLine l).owner l .recall] := if_pos h
      have hw : (recallLine s l).micro.homeLine l = { s.micro.homeLine l with st := .w } := by
        rw [e]
        exact Micro.homeLine_setHome_same ..
      have hr := recallOwned_recalled (recallLine s l) r
      refine ⟨(hr.still l (by rw [hw]; exact fun e => nomatch e)).trans hw, hr.agenda _ ?_⟩
      rw [e]
      exact List.mem_append_right _ List.mem_cons_self
    · rw [← recallLine_other s ha] at h ⊢
      exact ih (recallLine s a) ((List.mem_cons.mp hl).resolve_left ha) h

/-- A home line other than at rest is an entry. -/
theorem Micro.mem_home {m : Micro} {l : Nat} (h : m.homeLine l ≠ {}) : (l, m.homeLine l) ∈ m.home := SMap.mem_of_get _ _ _ h

theorem Micro.mem_unsettled {m : Micro} {l n : Nat} (hl : l / 64 = n) (h : (m.homeLine l).st ≠ .c) : l ∈ m.unsettled n :=
  List.mem_map.mpr ⟨(l, m.homeLine l), List.mem_filter.mpr ⟨Micro.mem_home fun e => h (by rw [e]), by simp [hl, h]⟩, rfl⟩

/-! ### Granules in motion (R323) -/

/-- A home line of a granule whose waiting requests have been sent away. -/
def HomeLine.emptied (granule l : Nat) (h : HomeLine) : HomeLine := if l / 64 = granule then { h with waiting := [] } else h

theorem startMove_homeLine (s : State) (granule slice l : Nat) :
    (startMove s granule slice).micro.homeLine l = HomeLine.emptied granule l (s.micro.homeLine l) := by
  have hmap : (startMove s granule slice).micro.home = s.micro.home.map (fun p => (p.1, HomeLine.emptied granule p.1 p.2)) := by
    refine List.map_congr_left fun p _ => ?_
    unfold HomeLine.emptied
    split <;> rfl
  rw [Micro.homeLine, hmap]
  exact SMap.get_mapKey _ _ (fun k => by unfold HomeLine.emptied; split <;> rfl) _ _

theorem find?_moving_none {m : Micro} {n : Nat} (h : ∀ p ∈ m.moving, p.1 ≠ n) : m.moving.find? (fun p => decide (p.1 = n)) = none :=
  List.find?_eq_none.mpr fun p hp => by simpa using h p hp

section
variable {s : State} {n slice : Nat} (hs : slice < 32)
include hs

theorem rehome_step : exec (.rehome n slice) s = .next (rehome s n slice) := if_neg (by omega)

theorem rehome_there (hm : ∀ p ∈ s.micro.moving, p.1 ≠ n) (h : s.micro.homeOf (4096 * n) = slice) : exec (.rehome n slice) s = .next s := by
  rw [rehome_step hs, rehome, find?_moving_none hm]
  exact congrArg Host.Outcome.next (if_pos h)

/-- A granule is set in motion: its lines are recalled, and who waits there is sent away. -/
theorem rehome_starts (hm : ∀ p ∈ s.micro.moving, p.1 ≠ n) (h : s.micro.homeOf (4096 * n) ≠ slice) :
    ∃ u, exec (.rehome n slice) s = .next u ∧ u.micro.moving = s.micro.moving ++ [(n, slice)] ∧ s.SameBytes u ∧ .rehome n slice ∈ u.agenda ∧
      (∀ l i, l / 64 = n → i ∈ (s.micro.homeLine l).waiting → (n, i) ∈ u.micro.retry) ∧
      ∀ l, l / 64 = n → (s.micro.homeLine l).st = .o → u.micro.homeLine l = { s.micro.homeLine l with st := .w, waiting := [] } ∧
        .agentFwd (s.micro.homeLine l).owner l .recall ∈ u.agenda := by
  have hr := recallOwned_recalled (startMove s n slice) (s.micro.unsettled n)
  refine ⟨(recallOwned (startMove s n slice) (s.micro.unsettled n)).post [.rehome n slice], ?_, ?_, ?_, List.mem_append_right _ List.mem_cons_self,
    fun l i hl hi => ?_, fun l hl ho => ?_⟩
  · rw [rehome_step hs, rehome, find?_moving_none hm]
    exact congrArg Host.Outcome.next (if_neg h)
  · show (recallOwned (startMove s n slice) (s.micro.unsettled n)).micro.moving = _
    rw [hr.rest]
    rfl
  · exact (State.SameBytes.trans (s := s) (t := startMove s n slice) ⟨rfl, rfl, rfl, rfl⟩ hr.bytes).trans ⟨rfl, rfl, rfl, rfl⟩
  · show (n, i) ∈ (recallOwned (startMove s n slice) (s.micro.unsettled n)).micro.retry
    rw [hr.rest]
    have hin := Micro.mem_home (m := s.micro) (l := l) fun e => by rw [e] at hi; exact nomatch hi
    refine List.mem_append_left _ (List.mem_append_right _ (List.mem_map.mpr ⟨i, List.mem_flatMap.mpr ⟨_, List.mem_filter.mpr ⟨hin, ?_⟩, hi⟩, rfl⟩))
    exact decide_eq_true hl
  · have hline : (startMove s n slice).micro.homeLine l = { s.micro.homeLine l with waiting := [] } := (startMove_homeLine s n slice l).trans (if_pos hl)
    obtain ⟨hw, hf⟩ := recallOwned_recalls (startMove s n slice) (Micro.mem_unsettled hl (by rw [ho]; exact fun e => nomatch e)) (by rw [hline]; exact ho)
    rw [hline] at hw hf
    exact ⟨hw, List.mem_append_left _ hf⟩

/-- Lines that are not yet at rest are recalled again. -/
theorem rehome_waits {p : Nat × Nat} (hp : s.micro.moving.find? (fun e => decide (e.1 = n)) = some p) (h : s.micro.unsettled n ≠ []) :
    ∃ u, exec (.rehome n slice) s = .next u ∧ u.micro.moving = s.micro.moving ∧ .rehome n slice ∈ u.agenda ∧ s.SameBytes u := by
  have hr := recallOwned_recalled s (s.micro.unsettled n)
  refine ⟨(recallOwned s (s.micro.unsettled n)).post [.rehome n slice], ?_, ?_, List.mem_append_right _ List.mem_cons_self, hr.bytes.trans ⟨rfl, rfl, rfl, rfl⟩⟩
  · rw [rehome_step hs, rehome, hp]
    cases hu : s.micro.unsettled n with
    | nil => exact absurd hu h
    | cons a l => rfl
  · show (recallOwned s (s.micro.unsettled n)).micro.moving = _
    rw [hr.rest]

end

/-! ### The new home (R323) -/

theorem moveViews_spec (s : State) (granule slice : Nat) : (moveViews s granule slice).micro = s.micro ∧ s.SameBytes (moveViews s granule slice) := by
  unfold moveViews
  dsimp only
  generalize s.micro.homeOf (4096 * granule) = old
  generalize s.regions = l
  induction l generalizing s with
  | nil => exact ⟨rfl, State.SameBytes.refl s⟩
  | cons p l ih =>
    rw [List.foldl_cons]
    refine ⟨(ih _).1.trans ?_, State.SameBytes.trans ?_ (ih _).2⟩
    · split
      · split <;> rfl
      · rfl
    · split
      · split
        · exact State.SameBytes.refl s
        · exact ⟨rfl, rfl, rfl, rfl⟩
      · exact State.SameBytes.refl s

/-- A slice's own cache of lines is filled, and neither homes nor moves change. -/
theorem Micro.llcFill_rest (m : Micro) (line leaf : Nat) : (m.llcFill line leaf).moving = m.moving ∧ (m.llcFill line leaf).homeMap = m.homeMap := by
  unfold Micro.llcFill
  dsimp only
  split
  · exact ⟨rfl, rfl⟩
  · split
    · exact ⟨rfl, rfl⟩
    · exact ⟨rfl, rfl⟩

theorem foldl_llcFill_rest (l : List (Nat × Nat)) (m : Micro) : (l.foldl (fun m p => m.llcFill p.1 p.2) m).moving = m.moving ∧
    (l.foldl (fun m p => m.llcFill p.1 p.2) m).homeMap = m.homeMap := by
  induction l generalizing m with
  | nil => exact ⟨rfl, rfl⟩
  | cons p l ih =>
    obtain ⟨hm, hh⟩ := ih (m.llcFill p.1 p.2)
    obtain ⟨hm', hh'⟩ := m.llcFill_rest p.1 p.2
    exact ⟨hm.trans hm', hh.trans hh'⟩

/-- The end of a move: the granule is homed at the new slice, its move is off the list, and who was sent away is sent again. -/
theorem endMove_spec (s : State) (granule slice : Nat) : (endMove s granule slice).micro.homeOf (4096 * granule) = slice ∧
    (granule, slice) ∉ (endMove s granule slice).micro.moving ∧ s.SameBytes (endMove s granule slice) ∧
    ∀ i, (granule, i) ∈ s.micro.retry → i ∈ (endMove s granule slice).agenda := by
  obtain ⟨hmicro, hbytes⟩ := moveViews_spec s granule slice
  unfold endMove
  dsimp only
  obtain ⟨v, hv⟩ : ∃ v, v = moveViews s granule slice := ⟨_, rfl⟩
  rw [← hv] at hmicro hbytes ⊢
  generalize SMap.set [] v.micro.owners slice _ = owners
  generalize List.foldl _ v.micro.handles _ = handles
  generalize SMap.set [] v.micro.llc _ _ = llc
  generalize List.filter _ (SMap.get [] v.micro.llc _) = kept
  obtain ⟨m, hm⟩ : ∃ m : Micro, m = kept.foldl (fun m p => m.llcFill p.1 p.2) { v.micro with
    moving := v.micro.moving.filter (fun q => decide (q ≠ (granule, slice))), homeMap := SMap.set 0 v.micro.homeMap granule (slice + 1), owners := owners,
    handles := handles, llc := llc, retry := v.micro.retry.filter (fun p => decide (p.1 ≠ granule)) } := ⟨_, rfl⟩
  have hfill := foldl_llcFill_rest kept { v.micro with
    moving := v.micro.moving.filter (fun q => decide (q ≠ (granule, slice))), homeMap := SMap.set 0 v.micro.homeMap granule (slice + 1), owners := owners,
    handles := handles, llc := llc, retry := v.micro.retry.filter (fun p => decide (p.1 ≠ granule)) }
  rw [← hm] at hfill ⊢
  obtain ⟨hmov, hmap⟩ := hfill
  obtain ⟨hwalk, -⟩ := Micro.trimDir_walks v.needs slice 32768 8267 m
  refine ⟨?_, ?_, hbytes.trans ⟨rfl, rfl, rfl, rfl⟩, fun i hi => ?_⟩
  · show Micro.homeOf (m.trimDir v.needs slice 32768 8267).1 (4096 * granule) = slice
    have hg : 4096 * granule / 4096 = granule := Nat.mul_div_cancel_left _ (by decide)
    rw [hwalk.rest, Micro.homeOf, hg, hmap, SMap.get_set_same]
  · show _ ∉ (m.trimDir v.needs slice 32768 8267).1.moving
    rw [hwalk.moving, hmov]
    exact fun h => by simpa using List.of_mem_filter h
  · refine List.mem_append_right _ (List.mem_append_right _ (List.mem_map.mpr ⟨(granule, i), List.mem_filter.mpr ⟨?_, decide_eq_true rfl⟩, rfl⟩))
    rw [hmicro]
    exact hi

theorem rehome_ends {s : State} {n slice : Nat} (hs : slice < 32) {p : Nat × Nat} (hp : s.micro.moving.find? (fun e => decide (e.1 = n)) = some p)
    (h : s.micro.unsettled n = []) : ∃ u, exec (.rehome n slice) s = .next u ∧ u.micro.homeOf (4096 * n) = p.2 ∧
      p ∉ u.micro.moving ∧ s.SameBytes u ∧ ∀ i, (n, i) ∈ s.micro.retry → i ∈ u.agenda := by
  have hn : p.1 = n := by simpa using List.find?_some hp
  have hpair : p = (n, p.2) := Prod.ext hn rfl
  have hend := endMove_spec s n p.2
  rw [← hpair] at hend
  refine ⟨endMove s n p.2, ?_, hend⟩
  rw [rehome_step hs, rehome, hp]
  dsimp only
  rw [h]

/-! ### Blocks recalled (R210, R305, R309, R325) -/

section
variable {s : State} {slice : Nat} {q : RecallReq} (hs : slice < 32) (hq : q.core < 256)
include hs hq

/-- The next line that is due. -/
theorem homeRecall_gate {l : Nat} (hl : (recallDue s.micro slice q).head? = some l) {u : State} (h : homeGate s l 1024 .recall (.homeRecall slice q) = .error u) :
    exec (.homeRecall slice q) s = .next u := by
  obtain ⟨t, ht⟩ : ∃ t, recallDue s.micro slice q = l :: t := List.head?_eq_some_iff.mp hl
  show execHomeRecall slice q s = _
  rw [execHomeRecall, if_neg (by omega), ht]
  dsimp only
  rw [h]

theorem homeRecall_owned {l : Nat} (hl : (recallDue s.micro slice q).head? = some l) (hm : s.micro.lineMoving l = false)
    (hr : s.micro.standing (s.micro.homeOf (64 * l)) < 1024) (ho : (s.micro.homeLine l).st = .o) :
    ∃ u, exec (.homeRecall slice q) s = .next u ∧ s.SameBytes u ∧
      u.micro.homeLine l = { s.micro.homeLine l with st := .w, waiting := (s.micro.homeLine l).waiting ++ [.homeRecall slice q] } ∧
      u.agenda = s.agenda ++ [.agentFwd (s.micro.homeLine l).owner l .recall] :=
  ⟨_, homeRecall_gate hs hq hl (homeGate_owned hm hr ho), ⟨rfl, rfl, rfl, rfl⟩, Micro.homeLine_setHome_same .., rfl⟩

theorem homeRecall_transient {l : Nat} (hl : (recallDue s.micro slice q).head? = some l) (hm : s.micro.lineMoving l = false)
    (hr : s.micro.standing (s.micro.homeOf (64 * l)) < 1024) (hst : (s.micro.homeLine l).st = .g ∨ (s.micro.homeLine l).st = .f ∨ (s.micro.homeLine l).st = .w) :
    ∃ u, exec (.homeRecall slice q) s = .next u ∧ s.SameBytes u ∧
      u.micro.homeLine l = { s.micro.homeLine l with waiting := (s.micro.homeLine l).waiting ++ [.homeRecall slice q] } ∧ u.agenda = s.agenda :=
  ⟨_, homeRecall_gate hs hq hl (homeGate_transient hm hr hst), ⟨rfl, rfl, rfl, rfl⟩, Micro.homeLine_setHome_same .., rfl⟩

/-- What a request does when no line is due any more. -/
def recallActs (s : State) (slice : Nat) (q : RecallReq) : State :=
  match q.kind with
  | .bevict => (s.micro.copiedLines slice q).foldl (fun s l => removeCopies s l true) s
  | .bdemote => (s.micro.copiedLines slice q).foldl (fun s l => removeCopies s l false) s
  | .bown => { s with micro := claimOwner s.micro slice ⟨q.base, q.height, q.core⟩ }
  | .brel => { s with micro := releaseOwner s.micro slice ⟨q.base, q.height, q.core⟩ }
  | .bres c => { s with micro := setHandle s.micro slice ⟨q.base, q.height, c⟩ }

theorem homeRecall_acts (h : recallDue s.micro slice q = []) : exec (.homeRecall slice q) s = .next (recallActs s slice q) := by
  show execHomeRecall slice q s = _
  rw [execHomeRecall, if_neg (by omega), h]
  unfold recallActs
  cases q.kind <;> rfl

theorem homeRecall_class {c : Nat} (hk : q.kind = .bres c) (hc : c ≠ 0) :
    ∃ u, exec (.homeRecall slice q) s = .next u ∧ ⟨q.base, q.height, c⟩ ∈ SMap.get [] u.micro.handles slice ∧ s.SameBytes u := by
  have hnone : recallDue s.micro slice q = [] := by rw [recallDue, hk]
  refine ⟨{ s with micro := setHandle s.micro slice ⟨q.base, q.height, c⟩ }, ?_, ?_, rfl, rfl, rfl, rfl⟩
  · rw [homeRecall_acts hs hq hnone, recallActs, hk]
  · show _ ∈ SMap.get [] (setHandle s.micro slice ⟨q.base, q.height, c⟩).handles slice
    unfold setHandle
    dsimp only
    rw [if_neg hc]
    dsimp only
    rw [SMap.get_set_same]
    exact List.mem_append_right _ List.mem_cons_self

theorem homeRecall_releases (h : recallDue s.micro slice q = []) (hk : q.kind = .brel) :
    ∃ u, exec (.homeRecall slice q) s = .next u ∧ ⟨q.base, q.height, q.core⟩ ∉ SMap.get [] u.micro.owners slice ∧ s.SameBytes u := by
  refine ⟨{ s with micro := releaseOwner s.micro slice ⟨q.base, q.height, q.core⟩ }, ?_, fun hin => ?_, rfl, rfl, rfl, rfl⟩
  · rw [homeRecall_acts hs hq h, recallActs, hk]
  · have hget : SMap.get [] (releaseOwner s.micro slice ⟨q.base, q.height, q.core⟩).owners slice = _ := SMap.get_set_same _ _ _ _
    rw [hget] at hin
    have := List.of_mem_filter hin
    simp [blocksOverlap] at this

theorem homeRecall_claims (h : recallDue s.micro slice q = []) (hk : q.kind = .bown) (hlen : (SMap.get [] s.micro.owners slice).length < 256) :
    ∃ u, exec (.homeRecall slice q) s = .next u ∧ ⟨q.base, q.height, q.core⟩ ∈ SMap.get [] u.micro.owners slice ∧ s.SameBytes u := by
  refine ⟨{ s with micro := claimOwner s.micro slice ⟨q.base, q.height, q.core⟩ }, ?_, ?_, rfl, rfl, rfl, rfl⟩
  · rw [homeRecall_acts hs hq h, recallActs, hk]
  · show _ ∈ SMap.get [] (claimOwner s.micro slice ⟨q.base, q.height, q.core⟩).owners slice
    unfold claimOwner
    dsimp only
    split
    next hin => exact List.contains_iff_mem.mp hin
    next =>
      dsimp only
      rw [SMap.get_set_same, if_pos (lt_of_le_of_lt (List.length_filter_le ..) hlen)]
      exact List.mem_append_right _ List.mem_cons_self

end

/-! ### Copies removed (R309, R325) -/

/-- No L1 cache holds a valid copy of a line at `j`. -/
def Micro.Invalid (m : Micro) (j l : Nat) : Prop := ∀ c, m.copyAt j l = some c → c.st ≠ .v

theorem Micro.Invalid.put {m : Micro} {j l : Nat} (h : m.Invalid j l) {c : Copy} (hc : c.st ≠ .v) (k line : Nat) : (m.setCopy k line c).Invalid j l := by
  intro c' h'
  rw [Micro.copyAt_setCopy] at h'
  split at h'
  · cases h'; exact hc
  · exact h c' h'

theorem Micro.Invalid.dropV {m : Micro} {j l : Nat} (h : m.Invalid j l) (k line : Nat) : (m.dropV k line).Invalid j l := by
  unfold Micro.dropV
  split
  next c hc =>
    split
    next =>
      intro c' h'
      rw [Micro.copyAt_dropCopy] at h'
      split at h'
      · exact nomatch h'
      · exact h c' h'
    next hst => exact h.put (c := { c with left := true, leftL2 := true }) (by rw [hst]; exact fun e => nomatch e) k line
    next hst => exact h.put (c := { c with left := true, leftL2 := true }) (by rw [hst]; exact fun e => nomatch e) k line
    next => exact h.put (c := { c with st := .ix, left := true, leftL2 := true }) (fun e => nomatch e) k line
    next => exact h
  next => exact h

theorem Micro.dropV_invalid (m : Micro) (k line : Nat) : (m.dropV k line).Invalid k line := by
  unfold Micro.dropV
  split
  next c hc =>
    have hset (c' : Copy) (h : c'.st ≠ .v) : (m.setCopy k line c').Invalid k line := fun d hd => by
      rw [Micro.copyAt_setCopy_same] at hd
      cases hd
      exact h
    split
    next => exact fun c' h' => by rw [Micro.copyAt_dropCopy_same] at h'; exact nomatch h'
    next hst => exact hset _ (by rw [hst]; exact fun e => nomatch e)
    next hst => exact hset _ (by rw [hst]; exact fun e => nomatch e)
    next => exact hset _ (fun e => nomatch e)
    next hv _ _ _ => exact fun c' h' => by rw [hc] at h'; cases h'; exact hv
  next hn => exact fun c' h' => by rw [hn] at h'; exact nomatch h'

theorem Micro.dropV_rest (m : Micro) (k line : Nat) : m.dropV k line = { m with l1d := (m.dropV k line).l1d } := by
  unfold Micro.dropV
  split
  · split <;> rfl
  · rfl

theorem foldl_dropV (line : Nat) (ks : List Nat) (m : Micro) :
    (ks.foldl (fun m k => m.dropV k line) m = { m with l1d := (ks.foldl (fun m k => m.dropV k line) m).l1d }) ∧
      (∀ j l, m.Invalid j l → (ks.foldl (fun m k => m.dropV k line) m).Invalid j l) ∧ ∀ j ∈ ks, (ks.foldl (fun m k => m.dropV k line) m).Invalid j line := by
  induction ks generalizing m with
  | nil => exact ⟨rfl, fun _ _ h => h, fun _ h => nomatch h⟩
  | cons k ks ih =>
    obtain ⟨hrest, hkeep, hdrop⟩ := ih (m.dropV k line)
    refine ⟨?_, fun j l h => hkeep j l (h.dropV k line), fun j hj => ?_⟩
    · rw [List.foldl_cons, hrest, m.dropV_rest k line]
    · obtain rfl | hj := List.mem_cons.mp hj
      · exact hkeep j line (m.dropV_invalid j line)
      · exact hdrop j hj

theorem foldl_dropL2 (line : Nat) (cs : List Nat) (m : Micro) :
    (cs.foldl (fun m c => m.dropL2 c line) m = { m with l2 := (cs.foldl (fun m c => m.dropL2 c line) m).l2 }) ∧
      (∀ x l, m.l2At x l = none → (cs.foldl (fun m c => m.dropL2 c line) m).l2At x l = none) ∧
      ∀ x ∈ cs, (cs.foldl (fun m c => m.dropL2 c line) m).l2At x line = none := by
  induction cs generalizing m with
  | nil => exact ⟨rfl, fun _ _ h => h, fun _ h => nomatch h⟩
  | cons c cs ih =>
    obtain ⟨hrest, hkeep, hdrop⟩ := ih (m.dropL2 c line)
    refine ⟨?_, fun x l h => hkeep x l ?_, fun x hx => ?_⟩
    · rw [List.foldl_cons, hrest]
      rfl
    · rw [Micro.l2At_dropL2, h, ite_self]
    · obtain rfl | hx := List.mem_cons.mp hx
      · exact hkeep x line ((Micro.l2At_dropL2 ..).trans (if_pos ⟨rfl, rfl⟩))
      · exact hdrop x hx

/-- No cache holds a valid copy of a line. -/
structure Micro.Uncopied (m : Micro) (l : Nat) : Prop where
  l1 : ∀ j, m.Invalid j l
  l2 : ∀ x, m.l2At x l = none

/-- Where no core's cache has an entry, none holds a copy. -/
theorem Micro.uncopied_of_absent {m : Micro} {l : Nat} (h1 : l ∉ m.l1d.flatMap (fun p => p.2.map (·.1))) (h2 : l ∉ m.l2.flatMap (fun p => p.2.map (·.1))) : m.Uncopied l where
  l1 _ _ hc := absurd (Micro.mem_of_copyAt hc) h1
  l2 _ := Option.eq_none_iff_forall_ne_some.mpr fun _ hc => h2 (Micro.mem_of_l2At hc)

theorem Micro.copyAt_absent {m : Micro} {j : Nat} (h : j ∉ m.l1d.map (·.1)) (l : Nat) : m.copyAt j l = none := by
  have e : SMap.get [] m.l1d j = [] := by
    by_contra hn
    exact h (List.mem_map.mpr ⟨_, SMap.mem_of_get [] m.l1d j hn, rfl⟩)
  rw [Micro.copyAt, e]
  rfl

theorem Micro.l2At_absent {m : Micro} {x : Nat} (h : x ∉ m.l2.map (·.1)) (l : Nat) : m.l2At x l = none := by
  have e : SMap.get [] m.l2 x = [] := by
    by_contra hn
    exact h (List.mem_map.mpr ⟨_, SMap.mem_of_get [] m.l2 x hn, rfl⟩)
  rw [Micro.l2At, e]
  rfl

/-- The home slice's own cache drops a line. -/
def Micro.dropLlc (m : Micro) (line : Nat) : Micro :=
  { m with llc := SMap.set [] m.llc (m.homeOf (64 * line)) ((SMap.get [] m.llc (m.homeOf (64 * line))).filter (fun p => decide (p.1 ≠ line))) }

/-- Copies that are removed: of the line none is left, others appear nowhere, and with `llc` the home slice's own cache drops it. -/
structure Micro.Removed (line : Nat) (llc : Bool) (m m' : Micro) : Prop where
  homes : m'.homeMap = m.homeMap
  gone : m'.Uncopied line
  keeps : ∀ l, m.Uncopied l → m'.Uncopied l
  fewer : ∀ x, ∀ p ∈ SMap.get [] m'.llc x, p ∈ SMap.get [] m.llc x
  llcGone : llc = true → ∀ p ∈ SMap.get [] m'.llc (m.homeOf (64 * line)), p.1 ≠ line

theorem removeCopies_removes (s : State) (line : Nat) (llc : Bool) : s.micro.Removed line llc (removeCopies s line llc).micro := by
  obtain ⟨a, ha⟩ : ∃ a, a = (s.micro.l1d.map (·.1)).foldl (fun m k => m.dropV k line) s.micro := ⟨_, rfl⟩
  obtain ⟨b, hb⟩ : ∃ b, b = (a.l2.map (·.1)).foldl (fun m c => m.dropL2 c line) a := ⟨_, rfl⟩
  obtain ⟨hrestA, hkeepA, hdropA⟩ := foldl_dropV line (s.micro.l1d.map (·.1)) s.micro
  obtain ⟨hrestB, hkeepB, hdropB⟩ := foldl_dropL2 line (a.l2.map (·.1)) a
  rw [← ha] at hrestA hkeepA hdropA
  rw [← hb] at hrestB hkeepB hdropB
  have hl1 (j l : Nat) (h : a.Invalid j l) : b.Invalid j l := by rw [hrestB]; exact h
  have hl2 (x l : Nat) (h : s.micro.l2At x l = none) : b.l2At x l = none := hkeepB x l (by rw [hrestA]; exact h)
  have hgone : b.Uncopied line := by
    refine ⟨fun j => hl1 j line ?_, fun x => ?_⟩
    · by_cases hj : j ∈ s.micro.l1d.map (·.1)
      · exact hdropA j hj
      · exact hkeepA j line fun c hc => by rw [Micro.copyAt_absent hj] at hc; exact nomatch hc
    · by_cases hx : x ∈ a.l2.map (·.1)
      · exact hdropB x hx
      · exact hkeepB x line (Micro.l2At_absent hx line)
  have hkeep (l : Nat) (h : s.micro.Uncopied l) : b.Uncopied l := ⟨fun j => hl1 j l (hkeepA j l (h.l1 j)), fun x => hl2 x l (h.l2 x)⟩
  have hhomes : b.homeMap = s.micro.homeMap := by rw [hrestB, hrestA]
  have hllc : b.llc = s.micro.llc := by rw [hrestB, hrestA]
  have hof : b.homeOf (64 * line) = s.micro.homeOf (64 * line) := by rw [Micro.homeOf, hhomes, Micro.homeOf]
  have e : (removeCopies s line llc).micro = if llc then b.dropLlc line else b := by
    rw [hb, ha]
    rfl
  rw [e]
  split
  · refine ⟨hhomes, ⟨hgone.l1, hgone.l2⟩, fun l h => ⟨(hkeep l h).l1, (hkeep l h).l2⟩, fun x p hp => hllc ▸ SMap.mem_get_set_filter hp, fun _ p hp => ?_⟩
    have hget : SMap.get [] (b.dropLlc line).llc (b.homeOf (64 * line)) = (SMap.get [] b.llc (b.homeOf (64 * line))).filter (fun p => decide (p.1 ≠ line)) :=
      SMap.get_set_same ..
    rw [← hof, hget] at hp
    simpa using List.of_mem_filter hp
  next hno => exact ⟨hhomes, hgone, hkeep, fun x p hp => hllc ▸ hp, fun h => absurd h hno⟩

/-- A block whose copies are removed line by line. -/
theorem foldl_removeCopies (llc : Bool) (ls : List Nat) (s : State) :
    s.SameBytes (ls.foldl (fun s l => removeCopies s l llc) s) ∧ (ls.foldl (fun s l => removeCopies s l llc) s).cores = s.cores ∧
      (∀ l, l ∈ ls ∨ s.micro.Uncopied l → (ls.foldl (fun s l => removeCopies s l llc) s).micro.Uncopied l) ∧
      (∀ x, ∀ p ∈ SMap.get [] (ls.foldl (fun s l => removeCopies s l llc) s).micro.llc x, p ∈ SMap.get [] s.micro.llc x) ∧
      (llc = true → ∀ l ∈ ls, ∀ p ∈ SMap.get [] (ls.foldl (fun s l => removeCopies s l llc) s).micro.llc (s.micro.homeOf (64 * l)), p.1 ≠ l) := by
  induction ls generalizing s with
  | nil => exact ⟨State.SameBytes.refl s, rfl, fun l h => h.resolve_left (fun h => nomatch h), fun _ _ h => h, fun _ _ h => nomatch h⟩
  | cons a ls ih =>
    obtain ⟨hbytes, hcores, hgone, hfewer, hllc⟩ := ih (removeCopies s a llc)
    have hr := removeCopies_removes s a llc
    refine ⟨State.SameBytes.trans (t := removeCopies s a llc) ⟨rfl, rfl, rfl, rfl⟩ hbytes, hcores, fun l h => hgone l ?_, fun x p hp => hr.fewer x p (hfewer x p hp),
      fun ht l hl p hp => ?_⟩
    · rcases h with h | h
      · obtain rfl | h := List.mem_cons.mp h
        · exact .inr hr.gone
        · exact .inl h
      · exact .inr (hr.keeps l h)
    · obtain rfl | hl := List.mem_cons.mp hl
      · exact hr.llcGone ht p (hfewer _ p hp)
      · refine hllc ht l hl p ?_
        rw [Micro.homeOf, hr.homes]
        exact hp

/-- A line of a block that some cache holds is one of its copied lines. -/
theorem Micro.mem_copiedLines {m : Micro} {slice l : Nat} {q : RecallReq} (hh : m.homeOf (64 * l) = slice) (hb : 64 * l / 4 ^ q.height = q.base / 4 ^ q.height)
    (h : l ∈ m.l1d.flatMap (fun p => p.2.map (·.1)) ∨ l ∈ m.l2.flatMap (fun p => p.2.map (·.1)) ∨ l ∈ (SMap.get [] m.llc slice).map (·.1)) : l ∈ m.copiedLines slice q := by
  refine List.mem_eraseDups.mpr (List.mem_filter.mpr ⟨?_, by simp [hh, hb]⟩)
  simpa only [List.mem_append, or_assoc] using h

/-- A block that is evicted or demoted: no cache holds a valid copy of its lines any more. -/
theorem homeRecall_empties {s : State} {slice : Nat} {q : RecallReq} (hs : slice < 32) (hq : q.core < 256) (h : recallDue s.micro slice q = [])
    (hk : q.kind = .bevict ∨ q.kind = .bdemote) : ∃ u, exec (.homeRecall slice q) s = .next u ∧ s.SameBytes u ∧ u.cores = s.cores ∧
      ∀ l, s.micro.homeOf (64 * l) = slice → 64 * l / 4 ^ q.height = q.base / 4 ^ q.height →
        (∀ j c, u.micro.copyAt j l = some c → c.st ≠ .v) ∧ (∀ cl, u.micro.l2At cl l = none) ∧
        (q.kind = .bevict → ∀ p ∈ SMap.get [] u.micro.llc slice, p.1 ≠ l) := by
  obtain ⟨llc, he, hllc⟩ : ∃ llc : Bool, exec (.homeRecall slice q) s = .next ((s.micro.copiedLines slice q).foldl (fun s l => removeCopies s l llc) s) ∧
      (q.kind = .bevict → llc = true) := by
    rcases hk with hk | hk
    · exact ⟨true, by rw [homeRecall_acts hs hq h, recallActs, hk], fun _ => rfl⟩
    · exact ⟨false, by rw [homeRecall_acts hs hq h, recallActs, hk], fun e => by rw [hk] at e; exact nomatch e⟩
  obtain ⟨hbytes, hcores, hgone, hfewer, hslice⟩ := foldl_removeCopies llc (s.micro.copiedLines slice q) s
  refine ⟨_, he, hbytes, hcores, fun l hh hb => ?_⟩
  have huncopied : ((s.micro.copiedLines slice q).foldl (fun s l => removeCopies s l llc) s).micro.Uncopied l := by
    by_cases hin : l ∈ s.micro.copiedLines slice q
    · exact hgone l (.inl hin)
    · exact hgone l (.inr (Micro.uncopied_of_absent (fun h1 => hin (Micro.mem_copiedLines hh hb (.inl h1))) fun h2 => hin (Micro.mem_copiedLines hh hb (.inr (.inl h2)))))
  refine ⟨huncopied.l1, huncopied.l2, fun he p hp e => ?_⟩
  have hin := Micro.mem_copiedLines (q := q) hh hb (.inr (.inr (List.mem_map.mpr ⟨p, hfewer slice p hp, e⟩)))
  exact hslice (hllc he) l hin p (hh.symm ▸ hp) e

/-- Settles O41: each clause is the lemma about its step. -/
theorem translationsAndHomesMove : Obligations.TranslationsAndHomesMove := by
  unfold Obligations.TranslationsAndHomesMove
  intro s k line n slice r hk hs hr hx
  exact ⟨inv_core s hk hr hx line n, fun hk => inv_hub s hk hr hx line n rfl, fun h => inv_sdie_done h hr hx n, fun h => inv_sdie_again h hr hx n,
    notice_stale hk rfl, notice_clears hk rfl, walkerRead_registers s hk line, translationDrop_tlb hk, translationDrop_beyond hk, l1Drop_forgets hk line,
    clock_broadcast hs,
    fun _ _ ha hb clk => ⟨fun _ _ _ => peerServe_serves ha hb clk, fun _ => peerServe_stale ha hb clk, peerServe_none ha hb clk⟩,
    fun hm => ⟨rehome_there hs hm, rehome_starts hs hm⟩,
    fun _ hp => ⟨rehome_ends hs hp, rehome_waits hs hp⟩,
    fun _ hq => ⟨fun _ _ hl hh hm hroom => by subst hh; exact ⟨homeRecall_owned hs hq hl hm hroom, homeRecall_transient hs hq hl hm hroom⟩,
      fun _ => homeRecall_class hs hq, homeRecall_releases hs hq, homeRecall_claims hs hq, homeRecall_empties hs hq⟩⟩

end Sys2Proof.Machine
end

section
/-! The home's side of the coherence protocol, for O40 (R301, R305, R306, R323). -/

namespace Sys2Proof.Machine

/-! ### Requests that wait (R305, R306, R323) -/

/-- A line that some core owns, or that belongs to an owned block, is asked for there. -/
theorem homeGate_forwards {s : State} {line core o : Nat} {k : FwdKind} {i : Instr} (hm : s.micro.lineMoving line = false)
    (hs : s.micro.standing (s.micro.homeOf (64 * line)) < 1024) (hst : (s.micro.homeLine line).st = .c ∨ (s.micro.homeLine line).st = .o)
    (ho : s.micro.ownerOf line core = some o) : homeGate s line core k i =
      .error (({ s with micro := s.micro.setHome line { s.micro.homeLine line with
        st := if k = .recall then .w else .f, owner := o, waiting := (s.micro.homeLine line).waiting ++ [i] } } : State).post [.agentFwd o line k]) := by
  have hno : ¬ ((s.micro.homeLine line).st = .g ∨ (s.micro.homeLine line).st = .f ∨ (s.micro.homeLine line).st = .w) := by
    rcases hst with h | h <;> simp [h]
  refine (if_neg (by rw [hm]; exact Bool.false_ne_true)).trans ((if_neg (Nat.not_le.mpr hs)).trans ((if_neg hno).trans ?_))
  rw [ho]

theorem homeGate_full {s : State} {line : Nat} (hm : s.micro.lineMoving line = false) (hs : ¬ s.micro.standing (s.micro.homeOf (64 * line)) < 1024) (core : Nat)
    (k : FwdKind) (i : Instr) : homeGate s line core k i = .error { s with agenda := i :: s.agenda } :=
  (if_neg (by rw [hm]; exact Bool.false_ne_true)).trans (if_pos (Nat.not_lt.mp hs))

/-- A request whose home does not serve it yet. -/
theorem homeRequest_waits {s u : State} {q : CohReq} (hm : s.micro.lineMoving q.line = false)
    (h : homeGate s q.line q.core (fwdKind q.kind) (cohMsg (atHomeAs s.micro q)) = .error u) : homeRequest s q = u := by
  refine (if_neg (by rw [hm]; exact Bool.false_ne_true)).trans ?_
  dsimp only
  rw [h]

/-- A line whose home has let a request in. -/
def State.letIn (s : State) (line : Nat) : State := { s with micro := s.micro.setHome line { s.micro.homeLine line with served := false } }

theorem homeRequest_serves {s : State} {q : CohReq} (hm : s.micro.lineMoving q.line = false) (hr : s.micro.standing (s.micro.homeOf (64 * q.line)) < 1024)
    (hst : (s.micro.homeLine q.line).st = .c) (ho : s.micro.ownerOf q.line q.core = none) : homeRequest s q = serveHome (s.letIn q.line) q := by
  refine (if_neg (by rw [hm]; exact Bool.false_ne_true)).trans ?_
  dsimp only
  rw [homeGate_rests hm hr hst ho]
  rfl

/-! ### The answer of a home (R301, R304, R305) -/

/-- What answering a request leaves of the home's caches and clocks. -/
def Micro.answered (m : Micro) (q : CohReq) (c : Nat) (h : HomeLine) : Micro := ((m.setHome q.line h).raiseSlice q.line c).llcFill q.line q.cls

theorem Micro.llcFill_eq (m : Micro) (line leaf : Nat) : ∃ l, m.llcFill line leaf = { m with tick := m.tick + 1, llc := l } := by
  unfold Micro.llcFill
  dsimp only
  split
  · exact ⟨_, rfl⟩
  · split
    · exact ⟨_, rfl⟩
    · exact ⟨_, rfl⟩

theorem Micro.answered_eq (m : Micro) (q : CohReq) (c : Nat) (h : HomeLine) : ∃ k l, m.answered q c h =
    { m with home := SMap.set {} m.home q.line h, clkSlice := k, tick := m.tick + 1, llc := l } := by
  obtain ⟨l, hl⟩ := Micro.llcFill_eq ((m.setHome q.line h).raiseSlice q.line c) q.line q.cls
  exact ⟨_, l, hl⟩

theorem Micro.answered_homeLine (m : Micro) (q : CohReq) (c : Nat) (h : HomeLine) : (m.answered q c h).homeLine q.line = h := by
  obtain ⟨k, l, e⟩ := m.answered_eq q c h
  rw [e]
  exact SMap.get_set_same ..

/-- The lease a home gives, where nobody watches the line. -/
def givenLease (s : State) (q : CohReq) : Nat :=
  max (s.micro.homeLine q.line).rts (max (s.micro.homeLine q.line).wts (max q.clk s.micro.minClk + q.lease))

/-- The home answers, and sends `m`. -/
def homeAnswer (s : State) (q : CohReq) (h : HomeLine) (m : Instr) : State := ({ s with micro := s.micro.answered q (max q.clk s.micro.minClk) h } : State).post [m]

theorem homeImage_answered (s : State) (q : CohReq) (c : Nat) (h h' : HomeLine) (rts level : Nat) :
    homeImage { s with micro := s.micro.answered q c h' } q.core q.line h rts level = homeImage s q.core q.line h rts level := by
  obtain ⟨k, l, e⟩ := s.micro.answered_eq q c h'
  rw [e]
  rfl

/-- The home line as it is shared under a lease. -/
def shareLine (s : State) (q : CohReq) : HomeLine :=
  { s.micro.homeLine q.line with st := .c, rts := max (givenLease s q) (s.roundStamp (s.regionFor q.core q.line)) }

/-- The home line as it is granted. -/
def grantLine (s : State) (q : CohReq) : HomeLine := { s.micro.homeLine q.line with st := .g, owner := q.core }

/-- A line shared under a lease. -/
def homeShares (s : State) (q : CohReq) (data : Bool) : State :=
  homeAnswer s q (shareLine s q)
    (if data then .agentData q.core q.line ⟨homeImage s q.core q.line (s.micro.homeLine q.line) (givenLease s q) (s.micro.homeLevel q.line), 0⟩ false
      else .agentRnack q.core q.line ⟨givenLease s q, 0⟩)

/-- A line granted to the one who asks. -/
def homeGrants (s : State) (q : CohReq) (data : Bool) : State :=
  homeAnswer s q (grantLine s q)
    (if data then .agentData q.core q.line ⟨homeImage s q.core q.line (s.micro.homeLine q.line) (s.micro.homeLine q.line).rts (s.micro.homeLevel q.line), 0⟩ true
      else .agentAckx q.core q.line ⟨(s.micro.homeLine q.line).rts, 0⟩)

/-- The same with the image taken once the home line is written, which it does not show. -/
theorem homeShares_eq (s : State) (q : CohReq) (data : Bool) : ∃ u : State, u = { s with micro := s.micro.answered q (max q.clk s.micro.minClk) (shareLine s q) } ∧
    homeShares s q data = u.post [if data then .agentData q.core q.line ⟨homeImage u q.core q.line (s.micro.homeLine q.line) (givenLease s q) (s.micro.homeLevel q.line), 0⟩ false
      else .agentRnack q.core q.line ⟨givenLease s q, 0⟩] :=
  ⟨_, rfl, by rw [homeImage_answered]; rfl⟩

theorem homeGrants_eq (s : State) (q : CohReq) (data : Bool) : ∃ u : State, u = { s with micro := s.micro.answered q (max q.clk s.micro.minClk) (grantLine s q) } ∧
    homeGrants s q data = u.post [if data then .agentData q.core q.line ⟨homeImage u q.core q.line (s.micro.homeLine q.line) (s.micro.homeLine q.line).rts
      (s.micro.homeLevel q.line), 0⟩ true else .agentAckx q.core q.line ⟨(s.micro.homeLine q.line).rts, 0⟩] :=
  ⟨_, rfl, by rw [homeImage_answered]; rfl⟩

theorem watchesOn_reads {m : Micro} {pa : Nat} (h : m.watchesOn pa true true = []) : m.watchesOn pa true false = [] := by
  refine List.filter_eq_nil_iff.mpr fun w hw hin => List.filter_eq_nil_iff.mp h w hw ?_
  simp only [Bool.true_and, Bool.false_and, Bool.or_false, Bool.and_eq_true, Bool.or_eq_true] at hin ⊢
  exact ⟨hin.1, .inl hin.2⟩

section
variable {s : State} {q : CohReq} (hw : s.micro.watchesOn (64 * q.line) true true = [])
include hw

theorem watched_not : s.micro.watched (64 * q.line) = false := by rw [Micro.watched, hw]; rfl

theorem watchReport_unwatched (w : Who) : watchReport s w (.main (64 * q.line)) true false = s := by
  rw [watchReport]
  dsimp only
  rw [watchesOn_reads hw]
  rfl

/-- A copy that the LLC slices keep of a granted line answers. -/
theorem serveHome_kept {o : Copy} (h : llcCopy s q (max q.clk s.micro.minClk) = some o) : serveHome s q =
    s.post [.agentData q.core q.line ⟨{ o.img with rts := min o.img.rts (max o.img.wts (max q.clk s.micro.minClk + q.lease)), level := 3 }, 0⟩ false] := by
  unfold serveHome
  dsimp only
  rw [watchReport_unwatched hw, ite_self, h]

theorem serveHome_shares (h : llcCopy s q (max q.clk s.micro.minClk) = none) (data : Bool)
    (hk : (q.kind = .gets ∧ data = true) ∨ (q.kind = .renew ∧ data = decide ((s.micro.homeLine q.line).wts ≠ q.wts))) : serveHome s q = homeShares s q data := by
  unfold serveHome
  dsimp only
  rw [watchReport_unwatched hw, ite_self, h, watched_not hw]
  obtain ⟨u, hu, e⟩ := homeShares_eq s q data
  rw [e, hu]
  obtain ⟨hk, rfl⟩ | ⟨hk, rfl⟩ := hk
  · rw [hk]
    rfl
  · rw [hk]
    rfl

theorem serveHome_grants (data : Bool)
    (hk : (q.kind = .getx ∧ data = true) ∨ (q.kind = .upg ∧ data = decide ((s.micro.homeLine q.line).wts ≠ q.wts))) : serveHome s q = homeGrants s q data := by
  have h : llcCopy s q (max q.clk s.micro.minClk) = none := if_neg fun hx => by
    obtain ⟨-, hx | hx⟩ := hx
    · rcases hk with ⟨hk, -⟩ | ⟨hk, -⟩ <;> rw [hk] at hx <;> exact nomatch hx
    · rcases hk with ⟨hk, -⟩ | ⟨hk, -⟩ <;> rw [hk] at hx <;> exact nomatch hx
  unfold serveHome
  dsimp only
  rw [watchReport_unwatched hw, ite_self, h, watched_not hw]
  obtain ⟨u, hu, e⟩ := homeGrants_eq s q data
  rw [e, hu]
  obtain ⟨hk, rfl⟩ | ⟨hk, rfl⟩ := hk
  · rw [hk]
    rfl
  · rw [hk]
    rfl

end

/-- A line at rest at its home, which nobody owns or watches. -/
structure State.Ready (s : State) (q : CohReq) : Prop where
  still : s.micro.lineMoving q.line = false
  room : s.micro.standing (s.micro.homeOf (64 * q.line)) < 1024
  rests : (s.micro.homeLine q.line).st = .c
  free : s.micro.ownerOf q.line q.core = none
  unwatched : s.micro.watchesOn (64 * q.line) true true = []

/-- The step answers with one message, and the home line becomes `h`. -/
def Gives (s : State) (line : Nat) (i : Instr) (h : HomeLine) (m : Instr) : Prop :=
  ∃ u, exec i s = .next u ∧ u.micro.homeLine line = h ∧ u.agenda = s.agenda ++ [m] ∧ s.SameBytes u ∧ u.cores = s.cores

/-- The copy that the LLC slices keep of a granted line, and that covers the request. -/
def nearCopy (s : State) (q : CohReq) : Option Copy :=
  if foreignLine q.line then (s.micro.l2At 64 q.line).filter (fun o => decide (max q.clk s.micro.minClk ≤ o.img.rts)) else none

theorem llcCopy_near {s : State} {q : CohReq} (hk : q.kind = .gets ∨ q.kind = .renew) : llcCopy s q (max q.clk s.micro.minClk) = nearCopy s q := by
  unfold llcCopy nearCopy
  by_cases hf : foreignLine q.line = true
  · rw [if_pos ⟨hf, hk⟩, if_pos hf]
    have hplace : llcPlace = 64 := rfl
    rw [hplace]
    cases s.micro.l2At 64 q.line with
    | none => rfl
    | some o =>
      have hcov : s.micro.covers (max q.clk s.micro.minClk) o.img = decide (max q.clk s.micro.minClk ≤ o.img.rts) := by
        rw [Micro.covers, ← Bool.decide_and]
        exact decide_eq_decide.mpr ⟨fun h => h.1, fun h => ⟨h, le_of_max_le_right h⟩⟩
      dsimp only
      rw [hcov]
      by_cases hle : max q.clk s.micro.minClk ≤ o.img.rts
      · rw [if_pos (decide_eq_true hle)]
        simp [Option.filter, hle]
      · rw [if_neg (by simpa using hle)]
        simp [Option.filter, hle]
  · rw [if_neg fun h => hf h.1, if_neg hf]

section
variable {s : State} {q : CohReq} (hq : q.core < 256)
include hq

theorem homeGets_step : exec (.homeGets q) s = .next (homeRequest s { q with kind := .gets }) := if_neg (by rw [coreExists_of hq]; exact Bool.false_ne_true)
theorem homeGetx_step : exec (.homeGetx q) s = .next (homeRequest s { q with kind := .getx }) := if_neg (by rw [coreExists_of hq]; exact Bool.false_ne_true)
theorem homeRenew_step : exec (.homeRenew q) s = .next (homeRequest s { q with kind := .renew }) := if_neg (by rw [coreExists_of hq]; exact Bool.false_ne_true)

theorem homeUpg_step (h : q.stood = true ∨ rivalUpgs s q = []) : exec (.homeUpg q) s = .next (homeRequest s { q with kind := .upg }) := by
  refine (if_neg (by rw [coreExists_of hq]; exact Bool.false_ne_true)).trans ?_
  have hnone : (if Config.sameCycle s.tick && !q.stood then rivalUpgs s q else []) = [] := by
    rcases h with h | h
    · rw [h, Bool.not_true, Bool.and_false]
      rfl
    · rw [h, ite_self]
  rw [hnone]
  rfl

/-- A step of a request of one kind, whichever it is. -/
def ReqStep (s : State) (q : CohReq) (i : Instr) (c : CohKind) : Prop := exec i s = .next (homeRequest s { q with kind := c })

omit hq in
/-- What holds of any request. -/
def AllKinds (s : State) (q : CohReq) (f : Instr → CohKind → Prop) : Prop :=
  f (.homeGets q) .gets ∧ f (.homeGetx q) .getx ∧ (q.stood = true ∨ rivalUpgs s q = [] → f (.homeUpg q) .upg) ∧ f (.homeRenew q) .renew

theorem allKinds_of {f : Instr → CohKind → Prop} (h : ∀ i c, ReqStep s q i c → f i c) : AllKinds s q f :=
  ⟨h _ _ (homeGets_step hq), h _ _ (homeGetx_step hq), fun ha => h _ _ (homeUpg_step hq ha), h _ _ (homeRenew_step hq)⟩

/-- The request as it stands at its home. -/
def standsAs (s : State) (q : CohReq) (c : CohKind) : Instr :=
  cohMsg { q with kind := if c = .upg ∧ (s.micro.ownerOf q.line q.core).isSome = true then .getx else c, stood := true }

theorem requests_moving (hm : ¬ s.micro.lineMoving q.line = false) :
    AllKinds s q (fun i c => exec i s = .next (s.post [.agentRetry { q with kind := c, stood := false }])) :=
  allKinds_of hq fun _ _ he => he.trans (congrArg Host.Outcome.next (if_pos (by simpa using hm)))

theorem requests_stand (hm : s.micro.lineMoving q.line = false) (hr : s.micro.standing (s.micro.homeOf (64 * q.line)) < 1024)
    (hst : (s.micro.homeLine q.line).st = .g ∨ (s.micro.homeLine q.line).st = .f ∨ (s.micro.homeLine q.line).st = .w) :
    AllKinds s q (fun i c => ∃ u, exec i s = .next u ∧ u.agenda = s.agenda ∧
      u.micro.homeLine q.line = { s.micro.homeLine q.line with waiting := (s.micro.homeLine q.line).waiting ++ [standsAs s q c] }) :=
  allKinds_of hq fun _ c he => ⟨_, he.trans (congrArg Host.Outcome.next (homeRequest_waits (q := { q with kind := c }) hm (homeGate_transient hm hr hst))), rfl,
    Micro.homeLine_setHome_same ..⟩

theorem requests_forwarded (hm : s.micro.lineMoving q.line = false) (hr : s.micro.standing (s.micro.homeOf (64 * q.line)) < 1024)
    (hst : (s.micro.homeLine q.line).st = .c ∨ (s.micro.homeLine q.line).st = .o) {o : Nat} (ho : s.micro.ownerOf q.line q.core = some o) :
    AllKinds s q (fun i c => ∃ u, exec i s = .next u ∧
      u.micro.homeLine q.line = { s.micro.homeLine q.line with st := .f, owner := o, waiting := (s.micro.homeLine q.line).waiting ++ [standsAs s q c] } ∧
      u.agenda = s.agenda ++ [.agentFwd o q.line (if c = .gets ∨ c = .renew then .gets else .getx)]) :=
  allKinds_of hq fun _ c he => by
    refine ⟨_, he.trans (congrArg Host.Outcome.next (homeRequest_waits (q := { q with kind := c }) hm (homeGate_forwards hm hr hst ho))), ?_, ?_⟩
    · refine (Micro.homeLine_setHome_same ..).trans ?_
      cases c <;> rfl
    · cases c <;> rfl

theorem requests_full (hm : s.micro.lineMoving q.line = false) (hr : ¬ s.micro.standing (s.micro.homeOf (64 * q.line)) < 1024) :
    AllKinds s q (fun i c => exec i s = .next { s with agenda := standsAs s q c :: s.agenda }) :=
  allKinds_of hq fun _ c he => he.trans (congrArg Host.Outcome.next (homeRequest_waits (q := { q with kind := c }) hm (homeGate_full hm hr _ _ _)))

/-- The image that the home of a line at rest sends. -/
def readyImage (s : State) (q : CohReq) (r : Nat) : Stamped :=
  homeImage s q.core q.line (s.micro.homeLine q.line) r (s.micro.homeLevel q.line)

/-- The home line once it is shared. -/
def sharedLine (s : State) (q : CohReq) : HomeLine :=
  { s.micro.homeLine q.line with st := .c, rts := max (givenLease s q) (s.roundStamp (s.regionFor q.core q.line)), served := false }

/-- The home line once it is granted. -/
def grantedLine (s : State) (q : CohReq) : HomeLine := { s.micro.homeLine q.line with st := .g, owner := q.core, served := false }

omit hq in
theorem letIn_homeLine (s : State) (line : Nat) : (s.letIn line).micro.homeLine line = { s.micro.homeLine line with served := false } := Micro.homeLine_setHome_same ..

omit hq in
theorem answer_gives {s : State} {q : CohReq} {i : Instr} {h : HomeLine} {m : Instr} (he : exec i s = .next (homeAnswer (s.letIn q.line) q h m)) : Gives s q.line i h m :=
  ⟨_, he, Micro.answered_homeLine .., rfl, ⟨rfl, rfl, rfl, rfl⟩, rfl⟩

omit hq in
theorem homeShares_letIn (s : State) (q : CohReq) (data : Bool) : homeShares (s.letIn q.line) q data = homeAnswer (s.letIn q.line) q (sharedLine s q)
    (if data then .agentData q.core q.line ⟨readyImage s q (givenLease s q), 0⟩ false else .agentRnack q.core q.line ⟨givenLease s q, 0⟩) := by
  have hl : givenLease (s.letIn q.line) q = givenLease s q := by unfold givenLease; rw [letIn_homeLine]; rfl
  unfold homeShares shareLine
  rw [hl, letIn_homeLine]
  rfl

omit hq in
theorem homeGrants_letIn (s : State) (q : CohReq) (data : Bool) : homeGrants (s.letIn q.line) q data = homeAnswer (s.letIn q.line) q (grantedLine s q)
    (if data then .agentData q.core q.line ⟨readyImage s q (s.micro.homeLine q.line).rts, 0⟩ true else .agentAckx q.core q.line ⟨(s.micro.homeLine q.line).rts, 0⟩) := by
  unfold homeGrants grantLine
  rw [letIn_homeLine]
  rfl

theorem homeGets_ready (h : s.Ready q) (hn : nearCopy s q = none) :
    Gives s q.line (.homeGets q) (sharedLine s q) (.agentData q.core q.line ⟨readyImage s q (givenLease s q), 0⟩ false) := by
  refine answer_gives ((homeGets_step hq).trans (congrArg Host.Outcome.next ?_))
  refine (homeRequest_serves (q := { q with kind := .gets }) h.still h.room h.rests h.free).trans ?_
  exact (serveHome_shares (s := s.letIn q.line) (q := { q with kind := .gets }) h.unwatched ((llcCopy_near (.inl rfl)).trans hn) true (.inl ⟨rfl, rfl⟩)).trans (homeShares_letIn s q true)

theorem homeGets_near (h : s.Ready q) {o : Copy} (hn : nearCopy s q = some o) :
    Gives s q.line (.homeGets q) { s.micro.homeLine q.line with served := false }
      (.agentData q.core q.line ⟨{ o.img with rts := min o.img.rts (max o.img.wts (max q.clk s.micro.minClk + q.lease)), level := 3 }, 0⟩ false) := by
  refine ⟨_, (homeGets_step hq).trans (congrArg Host.Outcome.next ((homeRequest_serves (q := { q with kind := .gets }) h.still h.room h.rests h.free).trans
    (serveHome_kept (s := s.letIn q.line) (q := { q with kind := .gets }) h.unwatched ((llcCopy_near (.inl rfl)).trans hn)))), letIn_homeLine s q.line, rfl,
    ⟨rfl, rfl, rfl, rfl⟩, rfl⟩

theorem homeRenew_ready (h : s.Ready q) (hn : nearCopy s q = none) :
    Gives s q.line (.homeRenew q) (sharedLine s q) (if (s.micro.homeLine q.line).wts = q.wts then .agentRnack q.core q.line ⟨givenLease s q, 0⟩
      else .agentData q.core q.line ⟨readyImage s q (givenLease s q), 0⟩ false) := by
  refine answer_gives ((homeRenew_step hq).trans (congrArg Host.Outcome.next ?_))
  refine (homeRequest_serves (q := { q with kind := .renew }) h.still h.room h.rests h.free).trans ?_
  refine (serveHome_shares (s := s.letIn q.line) (q := { q with kind := .renew }) h.unwatched ((llcCopy_near (.inr rfl)).trans hn) _ (.inr ⟨rfl, rfl⟩)).trans ?_
  refine (homeShares_letIn s q _).trans (congrArg (homeAnswer _ q _) ?_)
  rw [letIn_homeLine]
  by_cases hw : (s.micro.homeLine q.line).wts = q.wts
  · rw [if_pos hw]
    exact if_neg (by simpa using hw)
  · rw [if_neg hw]
    exact if_pos (decide_eq_true hw)

theorem homeGetx_ready (h : s.Ready q) :
    Gives s q.line (.homeGetx q) (grantedLine s q) (.agentData q.core q.line ⟨readyImage s q (s.micro.homeLine q.line).rts, 0⟩ true) := by
  refine answer_gives ((homeGetx_step hq).trans (congrArg Host.Outcome.next ?_))
  refine (homeRequest_serves (q := { q with kind := .getx }) h.still h.room h.rests h.free).trans ?_
  exact (serveHome_grants (s := s.letIn q.line) (q := { q with kind := .getx }) h.unwatched true (.inl ⟨rfl, rfl⟩)).trans (homeGrants_letIn s q true)

theorem homeUpg_ready (h : s.Ready q) (ha : q.stood = true ∨ rivalUpgs s q = []) :
    Gives s q.line (.homeUpg q) (grantedLine s q) (if (s.micro.homeLine q.line).wts = q.wts then .agentAckx q.core q.line ⟨(s.micro.homeLine q.line).rts, 0⟩
      else .agentData q.core q.line ⟨readyImage s q (s.micro.homeLine q.line).rts, 0⟩ true) := by
  refine answer_gives ((homeUpg_step hq ha).trans (congrArg Host.Outcome.next ?_))
  refine (homeRequest_serves (q := { q with kind := .upg }) h.still h.room h.rests h.free).trans ?_
  refine (serveHome_grants (s := s.letIn q.line) (q := { q with kind := .upg }) h.unwatched _ (.inr ⟨rfl, rfl⟩)).trans ?_
  refine (homeGrants_letIn s q _).trans (congrArg (homeAnswer _ q _) ?_)
  rw [letIn_homeLine]
  by_cases hw : (s.micro.homeLine q.line).wts = q.wts
  · rw [if_pos hw]
    exact if_neg (by simpa using hw)
  · rw [if_neg hw]
    exact if_pos (decide_eq_true hw)

theorem agentRetry_moving (hm : ¬ s.micro.lineMoving q.line = false) :
    exec (.agentRetry q) s = .next { s with micro := { s.micro with retry := s.micro.retry ++ [(q.line / 64, cohMsg q)] } } :=
  (if_neg (by rw [coreExists_of hq]; exact Bool.false_ne_true)).trans (congrArg Host.Outcome.next (if_pos (by simpa using hm)))

theorem agentRetry_sends (hm : s.micro.lineMoving q.line = false) : exec (.agentRetry q) s = .next (s.post [cohMsg q]) :=
  (if_neg (by rw [coreExists_of hq]; exact Bool.false_ne_true)).trans (congrArg Host.Outcome.next (if_neg (by rw [hm]; exact Bool.false_ne_true)))

end

end Sys2Proof.Machine
end

section
/-! What homes take from agents, and the agent's side of the coherence protocol, for O40 (R303, R305, R307, R308, R323, R386). -/

namespace Sys2Proof.Machine

/-! ### Images and acknowledgements that reach the home (R305, R307) -/

/-- The step leaves the home line `h`, sends `l`, and lets `d` go on. -/
def AtHome (s : State) (line : Nat) (i : Instr) (h : HomeLine) (l d : List Instr) : Prop :=
  ∃ u, exec i s = .next u ∧ u.micro.homeLine line = h ∧ u.agenda = s.agenda ++ l ∧ u.due = s.due ++ d ∧ s.SameBytes u

/-- A home line with the owner's image taken. -/
def HomeLine.took (h : HomeLine) (img : Stamped) : HomeLine :=
  { h with st := .c, wts := max h.wts img.wts, rts := max h.rts img.rts, waiting := [], served := decide (h.st = .f ∨ h.st = .w) }

/-- The home line is written, and the requests that stood there go on. -/
theorem nextWaiting_setHome (s : State) (line : Nat) (h : HomeLine) :
    (nextWaiting { s with micro := s.micro.setHome line h } line).micro.homeLine line = { h with waiting := [] } ∧
      (nextWaiting { s with micro := s.micro.setHome line h } line).due = s.due ++ h.waiting := by
  unfold nextWaiting
  dsimp only
  rw [Micro.homeLine_setHome_same, Micro.homeLine_setHome_same]
  exact ⟨rfl, rfl⟩

theorem takeImage_other {s : State} {line core : Nat} (img : Stamped) (h : (s.micro.homeLine line).owner ≠ core ∨ (s.micro.homeLine line).st = .c) :
    takeImage s line core img = s := if_pos h

theorem takeImage_takes {s : State} {line core : Nat} (img : Stamped) (ho : (s.micro.homeLine line).owner = core) (hst : (s.micro.homeLine line).st ≠ .c) :
    (takeImage s line core img).micro.homeLine line = (s.micro.homeLine line).took img ∧ (takeImage s line core img).agenda = s.agenda ∧
      (takeImage s line core img).due = s.due ++ (s.micro.homeLine line).waiting ∧ s.SameBytes (takeImage s line core img) := by
  have e : takeImage s line core img = nextWaiting { s with micro := s.micro.setHome line { s.micro.homeLine line with
      st := .c, wts := max (s.micro.homeLine line).wts img.wts, rts := max (s.micro.homeLine line).rts img.rts,
      served := decide ((s.micro.homeLine line).st = .f ∨ (s.micro.homeLine line).st = .w) } } line := if_neg fun h => h.elim (fun h => h ho) hst
  obtain ⟨hline, hdue⟩ := nextWaiting_setHome s line { s.micro.homeLine line with
      st := .c, wts := max (s.micro.homeLine line).wts img.wts, rts := max (s.micro.homeLine line).rts img.rts,
      served := decide ((s.micro.homeLine line).st = .f ∨ (s.micro.homeLine line).st = .w) }
  rw [e]
  exact ⟨hline, rfl, hdue, rfl, rfl, rfl, rfl⟩

section
variable {s : State} {core line : Nat} (hk : core < 256)
include hk

theorem homeWb_other (img : Stamped) (clean : Bool) (h : (s.micro.homeLine line).owner ≠ core ∨ (s.micro.homeLine line).st = .c) :
    AtHome s line (.homeWb line core img clean) (s.micro.homeLine line) [.agentWback core line] [] := by
  refine ⟨s.post [.agentWback core line], (if_neg (by rw [coreExists_of hk]; exact Bool.false_ne_true)).trans ?_, rfl, rfl, (List.append_nil _).symm, rfl, rfl, rfl, rfl⟩
  rw [takeImage_other img h]

theorem homeWb_taken (img : Stamped) (clean : Bool) (ho : (s.micro.homeLine line).owner = core) (hst : (s.micro.homeLine line).st ≠ .c) :
    AtHome s line (.homeWb line core img clean) ((s.micro.homeLine line).took img) [.agentWback core line] (s.micro.homeLine line).waiting := by
  obtain ⟨hline, hagenda, hdue, hbytes⟩ := takeImage_takes img ho hst
  exact ⟨(takeImage s line core img).post [.agentWback core line], if_neg (by rw [coreExists_of hk]; exact Bool.false_ne_true), hline, congrArg (· ++ _) hagenda, hdue,
    hbytes.trans ⟨rfl, rfl, rfl, rfl⟩⟩

theorem homeFdata_other (img : Stamped) (h : (s.micro.homeLine line).owner ≠ core ∨ ((s.micro.homeLine line).st ≠ .f ∧ (s.micro.homeLine line).st ≠ .w)) :
    exec (.homeFdata line core (img.data, img.side) (img.wts, img.rts)) s = .next s := by
  refine (if_neg (by rw [coreExists_of hk]; exact Bool.false_ne_true)).trans (congrArg Host.Outcome.next ?_)
  by_cases hst : (s.micro.homeLine line).st = .f ∨ (s.micro.homeLine line).st = .w
  · rw [if_pos hst]
    refine takeImage_other _ (.inl (h.resolve_right fun hn => ?_))
    exact hst.elim hn.1 hn.2
  · exact if_neg hst

theorem homeFdata_taken (img : Stamped) (ho : (s.micro.homeLine line).owner = core) (hst : (s.micro.homeLine line).st = .w ∨ (s.micro.homeLine line).st = .f) :
    AtHome s line (.homeFdata line core (img.data, img.side) (img.wts, img.rts)) ((s.micro.homeLine line).took img) [] (s.micro.homeLine line).waiting := by
  have hne : (s.micro.homeLine line).st ≠ .c := by rcases hst with h | h <;> rw [h] <;> exact fun e => nomatch e
  obtain ⟨hline, hagenda, hdue, hbytes⟩ := takeImage_takes ⟨img.data, img.side, img.wts, img.rts, 0, 0⟩ ho hne
  exact ⟨_, (if_neg (by rw [coreExists_of hk]; exact Bool.false_ne_true)).trans (congrArg Host.Outcome.next (if_pos hst.symm)), hline,
    hagenda.trans (List.append_nil _).symm, hdue, hbytes⟩

theorem homeGack_other (h : (s.micro.homeLine line).st ≠ .g ∨ (s.micro.homeLine line).owner ≠ core) : exec (.homeGack line core) s = .next s :=
  (if_neg (by rw [coreExists_of hk]; exact Bool.false_ne_true)).trans (congrArg Host.Outcome.next (if_neg fun hn => h.elim (fun h => h hn.1) fun h => h hn.2))

theorem homeGack_records (hst : (s.micro.homeLine line).st = .g) (ho : (s.micro.homeLine line).owner = core) :
    AtHome s line (.homeGack line core) { s.micro.homeLine line with st := .o, waiting := [] } [] (s.micro.homeLine line).waiting := by
  obtain ⟨hline, hdue⟩ := nextWaiting_setHome s line { s.micro.homeLine line with st := .o }
  exact ⟨_, (if_neg (by rw [coreExists_of hk]; exact Bool.false_ne_true)).trans (congrArg Host.Outcome.next (if_pos ⟨hst, ho⟩)), hline, (List.append_nil _).symm, hdue,
    rfl, rfl, rfl, rfl⟩

theorem homeGone_other (h : ((s.micro.homeLine line).st ≠ .f ∧ (s.micro.homeLine line).st ≠ .w) ∨ (s.micro.homeLine line).owner ≠ core ∨ answerComing s core line = true) :
    exec (.homeGone line core) s = .next s := by
  refine (if_neg (by rw [coreExists_of hk]; exact Bool.false_ne_true)).trans (congrArg Host.Outcome.next (if_neg fun ⟨hst, ho, ha⟩ => ?_))
  rcases h with h | h | h
  · exact hst.elim h.1 h.2
  · exact h ho
  · rw [ha] at h
    exact Bool.false_ne_true h

theorem homeGone_taken (hst : (s.micro.homeLine line).st = .f ∨ (s.micro.homeLine line).st = .w) (ho : (s.micro.homeLine line).owner = core)
    (ha : answerComing s core line = false) :
    AtHome s line (.homeGone line core) { s.micro.homeLine line with st := .c, waiting := [], served := true } [] (s.micro.homeLine line).waiting := by
  have hne : (s.micro.homeLine line).st ≠ .c := by rcases hst with h | h <;> rw [h] <;> exact fun e => nomatch e
  obtain ⟨hline, hagenda, hdue, hbytes⟩ := takeImage_takes ⟨(s.lineNow line).1, (s.lineNow line).2, 0, 0, 0, 0⟩ ho hne
  refine ⟨_, (if_neg (by rw [coreExists_of hk]; exact Bool.false_ne_true)).trans (congrArg Host.Outcome.next (if_pos ⟨hst, ho, ha⟩)), hline.trans ?_,
    hagenda.trans (List.append_nil _).symm, hdue, hbytes⟩
  unfold HomeLine.took
  rw [decide_eq_true hst, max_eq_left (Nat.zero_le _), max_eq_left (Nat.zero_le _)]

end

/-! ### Threads that wait for a line (R83) -/

/-- What wakes the threads of a core that wait for a line. -/
def Core.wakes (c : Core) (core line : Nat) : List Instr := (c.ctxs.filter (fun p => p.2.miss.any (fun m => decide (m.1 = line)))).map (fun p => .wake core p.1)

theorem wakeMiss_spec (s : State) (core line acks level : Nat) : (wakeMiss s core line acks level).micro = s.micro ∧
    (wakeMiss s core line acks level).agenda = s.agenda ++ (s.core core).wakes core line ∧ s.SameBytes (wakeMiss s core line acks level) :=
  ⟨rfl, rfl, rfl, rfl, rfl, rfl⟩

theorem Micro.agentIn_none {m : Micro} {core line : Nat} (h : m.copyAt core line = none) (l : List CopyState) : m.agentIn core line l = none := by
  rw [Micro.agentIn, h]

theorem Micro.agentIn_some {m : Micro} {core line : Nat} {c : Copy} (h : m.copyAt core line = some c) {l : List CopyState} (hl : l.contains c.st = true) :
    m.agentIn core line l = some c := by
  rw [Micro.agentIn, h]
  exact if_pos hl

/-- The copy of an agent that becomes the owner. -/
def Copy.owning (o : Copy) : Copy := { o with st := .x, dirty := false, left := false, leftL2 := false }

theorem becomeOwner_spec (s : State) (core line : Nat) (o : Copy) (acks level : Nat) : (becomeOwner s core line o acks level).micro.copyAt core line = some o.owning ∧
    (becomeOwner s core line o acks level).agenda = s.agenda ++ ((s.core core).wakes core line ++ [.homeGack line core]) ∧
    s.SameBytes (becomeOwner s core line o acks level) := by
  refine ⟨?_, List.append_assoc _ _ _, rfl, rfl, rfl, rfl⟩
  unfold becomeOwner
  dsimp only
  show (wakeMiss _ core line acks level).micro.copyAt core line = _
  rw [(wakeMiss_spec _ core line acks level).1]
  split
  · exact Micro.copyAt_setCopy_same s.micro core line o.owning
  · exact Micro.copyAt_setCopy_same s.micro core line o.owning

/-! ### Levels that advance before a fill (R292, R293) -/

/-- A step at a core's caches that adds to what is on its way, and brings no copy of a line to the core. -/
structure State.Clears (core line : Nat) (s t : State) : Prop where
  viewed : s.Viewed t
  agenda : ∀ i ∈ s.agenda, i ∈ t.agenda
  absent : s.micro.copyAt core line = none → t.micro.copyAt core line = none

section
variable {core line : Nat}

theorem State.Clears.refl (s : State) : State.Clears core line s s := ⟨.refl s, fun _ h => h, id⟩

theorem State.Clears.trans {s t u : State} (h : State.Clears core line s t) (h' : State.Clears core line t u) : State.Clears core line s u :=
  ⟨h.viewed.trans h'.viewed, fun i hi => h'.agenda i (h.agenda i hi), h'.absent ∘ h.absent⟩

theorem State.Clears.wakes {s t : State} (h : State.Clears core line s t) : (t.core core).wakes core line = (s.core core).wakes core line := by
  rw [Core.wakes, h.viewed.ctxs, Core.wakes]

theorem State.Clears.micro {s : State} {m : Micro} (h : m.l1d = s.micro.l1d) : State.Clears core line s { s with micro := m } :=
  ⟨.micro s m, fun _ h => h, fun hn => by rw [Micro.copyAt, h]; exact hn⟩

theorem evictLine_clears (s : State) (k l : Nat) : State.Clears core line s (evictLine s k l) := by
  refine ⟨(evictLine_cached s k l).1, ?_, fun hn => ?_⟩
  · unfold evictLine
    split
    · split
      · exact fun _ h => h
      · exact fun _ h => List.mem_append_left _ h
      · exact fun _ h => h
    · exact fun _ h => h
  · unfold evictLine
    split
    next o ho =>
      split
      · show (s.micro.dropCopy k l).copyAt core line = none
        rw [Micro.copyAt_dropCopy, hn, ite_self]
      · show (s.micro.setCopy k l _).copyAt core line = none
        rw [Micro.copyAt_setCopy, if_neg, hn]
        rintro ⟨rfl, rfl⟩
        rw [ho] at hn
        exact nomatch hn
      · exact hn
    · exact hn

theorem State.Clears.foldl {α : Type} {f : State → α → State} (h : ∀ (s : State) (a : α), State.Clears core line s (f s a)) (l : List α) (s : State) :
    State.Clears core line s (l.foldl f s) := by
  induction l generalizing s with
  | nil => exact .refl s
  | cons a l ih => exact (h s a).trans (ih (f s a))

theorem Micro.copyAt_none_iff {m : Micro} {j l : Nat} : m.copyAt j l = none ↔ ∀ p ∈ SMap.get [] m.l1d j, p.1 ≠ l := by
  rw [Micro.copyAt, Option.map_eq_none_iff, List.find?_eq_none]
  simp only [decide_eq_true_eq]

theorem clearL1_clears (s : State) (k : Nat) (gone : Copy → Bool) : State.Clears core line s (clearL1 s k gone) := by
  have hfold := State.Clears.foldl (core := core) (line := line) (fun (s : State) (p : Nat × Copy) => evictLine_clears s k p.1)
    ((SMap.get [] s.micro.l1d k).filter (fun p => gone p.2)) s
  refine ⟨(clearL1_cached s k gone).1, hfold.agenda, fun hn => ?_⟩
  have hmid := Micro.copyAt_none_iff.mp (hfold.absent hn)
  refine Micro.copyAt_none_iff.mpr fun p hp => ?_
  unfold clearL1 at hp
  dsimp only at hp
  rw [SMap.get_set] at hp
  split at hp
  next e =>
    subst e
    obtain ⟨p', hp', rfl⟩ := List.mem_map.mp hp
    exact hmid p' hp'
  next => exact hmid p hp

theorem advanceL1_clears (s : State) (k r : Nat) (v : BitVec 32) : State.Clears core line s (advanceL1 s k r v) := by
  refine ⟨advanceL1_viewed s k r v, ?_, ?_⟩
  · unfold advanceL1
    split
    · exact fun _ h => h
    · split
      · exact fun _ h => h
      · exact (clearL1_clears (core := core) (line := line) s k _).agenda
  · unfold advanceL1
    split
    · exact id
    · split
      · exact id
      · exact (clearL1_clears (core := core) (line := line) s k _).absent

theorem advanceL2_clears (s : State) (cl r : Nat) (v : BitVec 32) : State.Clears core line s (advanceL2 s cl r v) := by
  unfold advanceL2
  split
  · exact .refl s
  · split
    · exact .refl s
    · exact ⟨⟨rfl, fun _ => rfl⟩, fun _ h => h, id⟩

theorem advanceFor_clears (s : State) (k : Nat) (o : Copy) : State.Clears core line s (advanceFor s k o) := by
  unfold advanceFor
  split
  · exact advanceL1_clears s k _ _
  · exact .refl s

theorem makeRoom_clears (s : State) (k l : Nat) : State.Clears core line s (makeRoom s k l) := by
  unfold makeRoom
  dsimp only
  split
  · exact .refl s
  · split
    · exact .refl s
    · exact State.Clears.trans (State.Clears.micro (m := { s.micro with tick := s.micro.tick + 1 }) rfl) (evictLine_clears _ k _)

/-- The view of an L2 slice advances to a copy's round. -/
def l2Ahead (s : State) (cl : Nat) (o : Copy) : State :=
  match o.region with
  | some r => advanceL2 s cl r (BitVec.ofNat 32 o.img.round)
  | none => s

theorem fillL2_eq (s : State) (cl l : Nat) (o : Copy) : fillL2 s cl l o = if (l2Ahead s cl o).micro.ownedIn cl l || tooOld ((l2Ahead s cl o).l2View cl) o
    then { l2Ahead s cl o with micro := (l2Ahead s cl o).micro.dropL2 cl l } else { l2Ahead s cl o with micro := (l2Ahead s cl o).micro.setL2 cl l o } := rfl

theorem Micro.setL2_l1d (m : Micro) (cl l : Nat) (c : Copy) : (m.setL2 cl l c).l1d = m.l1d := by
  unfold Micro.setL2
  dsimp only
  split
  · rfl
  · split <;> rfl

/-- A fill of an L2 slice changes no view and no copy of a core. -/
theorem fillL2_clears (s : State) (cl l : Nat) (o : Copy) : State.Clears core line s (fillL2 s cl l o) ∧ (fillL2 s cl l o).cores = s.cores := by
  have hadv : State.Clears core line s (l2Ahead s cl o) ∧ (l2Ahead s cl o).cores = s.cores := by
    unfold l2Ahead
    split
    · exact ⟨advanceL2_clears s cl _ _, (advanceL2_spec s cl _ _).2⟩
    · exact ⟨.refl s, rfl⟩
  rw [fillL2_eq]
  split
  · exact ⟨hadv.1.trans (State.Clears.micro rfl), hadv.2⟩
  · exact ⟨hadv.1.trans (State.Clears.micro (Micro.setL2_l1d ..)), hadv.2⟩

end

/-! ### Fills (R292 to R294) -/

/-- A copy that a view of its region leaves behind (R293). -/
def StaleAt (view : Nat → Option (BitVec 32)) (g : Option Nat) (n : Nat) : Prop :=
  ∃ r v, g = some r ∧ view r = some v ∧ 127 < (v - BitVec.ofNat 32 n).toNat ∧ (v - BitVec.ofNat 32 n).toNat < 2 ^ 31

theorem tooOld_iff (view : Nat → Option (BitVec 32)) (o : Copy) : tooOld view o = true ↔ StaleAt view o.region o.img.round := by
  unfold tooOld
  split
  next r hr =>
    cases hv : view r with
    | none =>
      refine ⟨fun h => (nomatch h), fun ⟨r', v, hg, hview, _⟩ => ?_⟩
      rw [hr] at hg
      cases hg
      rw [hv] at hview
      exact nomatch hview
    | some v =>
      simp only [Option.any_some, staleCopy, Bool.and_eq_true, decide_eq_true_eq, atOrAhead]
      refine ⟨fun h => ⟨r, v, hr, hv, h.1.2, h.2⟩, fun ⟨r', v', hg, hview, h1, h2⟩ => ?_⟩
      rw [hr] at hg
      cases hg
      rw [hv] at hview
      cases hview
      exact ⟨⟨hr, h1⟩, h2⟩
  next hr =>
    refine ⟨fun h => (nomatch h), fun ⟨r', v, hg, _⟩ => ?_⟩
    rw [hr] at hg
    exact nomatch hg

/-- A view that the copy's round has advanced leaves the copy behind only where the view did so before. -/
theorem staleAt_newer {view view' : Nat → Option (BitVec 32)} {g : Option Nat} {n : Nat} (hsome : ∀ r old, g = some r → view r = some old → view' r = some (newer old (BitVec.ofNat 32 n)))
    (hnone : ∀ r, g = some r → view r = none → view' r = none) : StaleAt view' g n ↔ StaleAt view g n := by
  constructor
  · rintro ⟨r, v, rfl, hv, h1, h2⟩
    cases hold : view r with
    | none =>
      rw [hnone r rfl hold] at hv
      exact nomatch hv
    | some old =>
      rw [hsome r old rfl hold] at hv
      cases hv
      unfold newer at h1 h2
      split at h1
      next hlt =>
        rw [if_pos hlt] at h2
        exact ⟨r, old, rfl, hold, h1, h2⟩
      next => simp at h1
  · rintro ⟨r, v, rfl, hv, h1, h2⟩
    refine ⟨r, v, rfl, ?_, h1, h2⟩
    rw [hsome r v rfl hv, newer, if_pos h2]

theorem advanceFor_stale (s : State) (k : Nat) (o : Copy) :
    StaleAt ((advanceFor s k o).core k).viewOf o.region o.img.round ↔ StaleAt (s.core k).viewOf o.region o.img.round := by
  refine staleAt_newer (fun r old hr hold => ?_) (fun r hr hnone => ?_)
  · rw [advanceFor, hr]
    exact (advanceL1_spec s k r _).2.2 old hold
  · rw [advanceFor, hr]
    dsimp only
    rw [advanceL1, hnone]
    exact hnone

/-- The copy that a fill brings. -/
def fillCopy (img : Stamped) (region : Option Nat) (cls : Nat) : Copy := { st := .v, img := img, tag := BitVec.ofNat 8 img.round, region := region, cls := cls }

/-- The L2 slices that a fill passes. -/
def fillSlices (s : State) (core line : Nat) (o : Copy) (l2 : Bool) : State :=
  let s := if foreignLine line then fillL2 s llcPlace line o else s
  if l2 then fillL2 s (clusterOf core) line o else s

theorem fillSlices_clears (s : State) (core line : Nat) (o : Copy) (l2 : Bool) : State.Clears core line s (fillSlices s core line o l2) ∧
    (fillSlices s core line o l2).cores = s.cores := by
  have hstep (s : State) (b : Bool) (cl : Nat) : State.Clears core line s (if b then fillL2 s cl line o else s) ∧ (if b then fillL2 s cl line o else s).cores = s.cores := by
    split
    · exact fillL2_clears s cl line o
    · exact ⟨.refl s, rfl⟩
  obtain ⟨h1, e1⟩ := hstep s (foreignLine line) llcPlace
  obtain ⟨h2, e2⟩ := hstep (if foreignLine line then fillL2 s llcPlace line o else s) l2 (clusterOf core)
  exact ⟨h1.trans h2, e2.trans e1⟩

theorem fillCopies_eq (s : State) (core line : Nat) (img : Stamped) (region : Option Nat) (cls : Nat) (l1 l2 : Bool) : ∃ t u : State,
    t = fillSlices s core line (fillCopy img region cls) l2 ∧ u = makeRoom (advanceFor t core (fillCopy img region cls)) core line ∧
    fillCopies s core line img region cls l1 l2 = if !l1 then t else if tooOld (u.core core).viewOf (fillCopy img region cls) then u
      else { u with micro := if img.level < 3 then u.micro.fillL1 core line (fillCopy img region cls) else (u.micro.fillL1 core line (fillCopy img region cls)).freshUse core line } :=
  ⟨_, _, rfl, rfl, rfl⟩

theorem makeRoom_cores (s : State) (core line : Nat) : (makeRoom s core line).cores = s.cores := by
  unfold makeRoom
  dsimp only
  split
  · rfl
  · split
    · rfl
    · exact (evictLine_spec _ core _).2

/-- A fill that finds no copy: the core keeps it, but for one that its view leaves behind. -/
theorem fillCopies_fills (s : State) (core line : Nat) (img : Stamped) (region : Option Nat) (cls : Nat) (l1 l2 : Bool) (hn : s.micro.copyAt core line = none) :
    (∀ i ∈ s.agenda, i ∈ (fillCopies s core line img region cls l1 l2).agenda) ∧ s.Viewed (fillCopies s core line img region cls l1 l2) ∧
      (l1 = true → ¬ StaleAt (s.core core).viewOf region img.round → (fillCopies s core line img region cls l1 l2).micro.copyAt core line = some (fillCopy img region cls)) ∧
      (l1 = false ∨ StaleAt (s.core core).viewOf region img.round → (fillCopies s core line img region cls l1 l2).micro.copyAt core line = none) := by
  obtain ⟨t, u, ht, hu, e⟩ := fillCopies_eq s core line img region cls l1 l2
  rw [e]
  obtain ⟨hst, hcores⟩ := fillSlices_clears s core line (fillCopy img region cls) l2
  rw [← ht] at hst hcores
  have htu : State.Clears core line t u := by rw [hu]; exact (advanceFor_clears t core _).trans (makeRoom_clears _ core line)
  have hold : tooOld (u.core core).viewOf (fillCopy img region cls) = true ↔ StaleAt (s.core core).viewOf region img.round := by
    have hcore : u.core core = (advanceFor t core (fillCopy img region cls)).core core := by rw [State.core, hu, makeRoom_cores]; rfl
    have hback : t.core core = s.core core := by rw [State.core, hcores]; rfl
    rw [tooOld_iff, hcore, ← hback]
    exact advanceFor_stale t core (fillCopy img region cls)
  cases l1 with
  | false =>
    rw [Bool.not_false, if_pos rfl]
    exact ⟨hst.agenda, hst.viewed, fun h => (nomatch h), fun _ => hst.absent hn⟩
  | true =>
    have hsu := hst.trans htu
    rw [Bool.not_true, if_neg Bool.false_ne_true]
    by_cases hs : StaleAt (s.core core).viewOf region img.round
    · rw [if_pos (hold.mpr hs)]
      exact ⟨hsu.agenda, hsu.viewed, fun _ h => absurd hs h, fun _ => hsu.absent hn⟩
    · rw [if_neg fun h => hs (hold.mp h)]
      have hfill : u.micro.fillL1 core line (fillCopy img region cls) = u.micro.setCopy core line (fillCopy img region cls) := by
        rw [Micro.fillL1, hsu.absent hn]
      refine ⟨hsu.agenda, hsu.viewed.trans (.micro u _), fun _ _ => ?_, fun h => h.elim (fun h => (nomatch h)) fun h => absurd h hs⟩
      dsimp only
      rw [hfill]
      split
      · exact Micro.copyAt_setCopy_same ..
      · exact Micro.copyAt_setCopy_same u.micro core line _

end Sys2Proof.Machine
end

section
/-! The agent's own messages, and O40 itself (R303, R305, R307, R308, R323, R386). -/

namespace Sys2Proof.Machine

/-- The step leaves `c` as the agent's copy of the line, and sends `l`. -/
def AtAgent (s : State) (core line : Nat) (i : Instr) (c : Option Copy) (l : List Instr) : Prop :=
  ∃ u, exec i s = .next u ∧ u.micro.copyAt core line = c ∧ u.agenda = s.agenda ++ l ∧ s.SameBytes u

section
variable {s : State} {core line : Nat} (hk : core < 256)
include hk

/-! ### Grants, fills and renewals (R303, R306) -/

theorem agentData_absent (h : s.micro.copyAt core line = none) (r : DataReply) (x : Bool) : exec (.agentData core line r x) s = .next s := by
  refine (if_neg (by rw [coreExists_of hk]; exact Bool.false_ne_true)).trans (congrArg Host.Outcome.next ?_)
  rw [Micro.agentIn_none h]

/-- The levels advance to the round of a grant. -/
def grantAhead (s : State) (core : Nat) (g : Option Nat) (n : Nat) : State :=
  match g with
  | some g => advanceL1 (advanceL2 s (clusterOf core) g (BitVec.ofNat 32 n)) core g (BitVec.ofNat 32 n)
  | none => s

omit hk in
theorem grantAhead_clears (s : State) (core line : Nat) (g : Option Nat) (n : Nat) : State.Clears core line s (grantAhead s core g n) := by
  unfold grantAhead
  split
  · exact (advanceL2_clears s _ _ _).trans (advanceL1_clears _ core _ _)
  · exact .refl s

theorem agentData_owns {c : Copy} (hc : s.micro.copyAt core line = some c) (hst : c.st = .ix ∨ c.st = .vx) (img : Stamped) (acks : Nat) :
    exec (.agentData core line ⟨img, acks⟩ true) s =
      .next (becomeOwner (grantAhead s core c.region img.round) core line { c with img := img, tag := BitVec.ofNat 8 img.round } acks img.level) := by
  refine (if_neg (by rw [coreExists_of hk]; exact Bool.false_ne_true)).trans (congrArg Host.Outcome.next ?_)
  rw [Micro.agentIn_some hc (by rcases hst with h | h <;> rw [h] <;> rfl)]
  rfl

theorem agentData_grants {c : Copy} (hc : s.micro.copyAt core line = some c) (hst : c.st = .ix ∨ c.st = .vx) (img : Stamped) (acks : Nat) :
    ∃ u, exec (.agentData core line ⟨img, acks⟩ true) s = .next u ∧ s.SameBytes u ∧
      u.micro.copyAt core line = some ⟨.x, img, BitVec.ofNat 8 img.round, c.region, c.cls, false, false, false⟩ ∧
      ∀ i ∈ s.agenda ++ (s.core core).wakes core line ++ [.homeGack line core], i ∈ u.agenda := by
  have hclear := grantAhead_clears s core line c.region img.round
  obtain ⟨hcopy, hagenda, hbytes⟩ := becomeOwner_spec (grantAhead s core c.region img.round) core line { c with img := img, tag := BitVec.ofNat 8 img.round } acks img.level
  refine ⟨_, agentData_owns hk hc hst img acks, hclear.viewed.steady.bytes.trans hbytes, hcopy, fun i hi => ?_⟩
  rw [hagenda, hclear.wakes]
  rw [List.append_assoc] at hi
  exact (List.mem_append.mp hi).elim (fun h => List.mem_append_left _ (hclear.agenda i h)) (List.mem_append_right _)

theorem agentData_grants_unregioned {c : Copy} (hc : s.micro.copyAt core line = some c) (hst : c.st = .ix ∨ c.st = .vx) (hg : c.region = none) (img : Stamped) (acks : Nat) :
    AtAgent s core line (.agentData core line ⟨img, acks⟩ true) (some ⟨.x, img, BitVec.ofNat 8 img.round, none, c.cls, false, false, false⟩)
      ((s.core core).wakes core line ++ [.homeGack line core]) := by
  obtain ⟨hcopy, hagenda, hbytes⟩ := becomeOwner_spec s core line { c with img := img, tag := BitVec.ofNat 8 img.round } acks img.level
  have he := agentData_owns hk hc hst img acks
  have hnone : grantAhead s core c.region img.round = s := by rw [hg]; rfl
  rw [hnone] at he
  refine ⟨_, he, hcopy.trans ?_, hagenda, hbytes⟩
  unfold Copy.owning
  rw [hg]

theorem agentData_fills {c : Copy} (hc : s.micro.copyAt core line = some c) (hst : c.st = .iv ∨ c.st = .vr ∨ c.st = .ix ∨ c.st = .vx) (img : Stamped) (acks : Nat) :
    ∃ u, exec (.agentData core line ⟨img, acks⟩ false) s = .next u ∧
      (c.left = false → ¬ StaleAt (s.core core).viewOf c.region img.round →
        u.micro.copyAt core line = some ⟨.v, img, BitVec.ofNat 8 img.round, c.region, c.cls, false, false, false⟩) ∧
      (c.left = true ∨ StaleAt (s.core core).viewOf c.region img.round → u.micro.copyAt core line = none) ∧
      (∀ i ∈ s.agenda ++ (s.core core).wakes core line, i ∈ u.agenda) ∧ s.SameBytes u := by
  obtain ⟨t, ht⟩ : ∃ t : State, t = { s with micro := s.micro.dropCopy core line } := ⟨_, rfl⟩
  obtain ⟨f, hf⟩ : ∃ f, f = fillCopies t core line img c.region c.cls (!c.left) (!c.leftL2) := ⟨_, rfl⟩
  have he : exec (.agentData core line ⟨img, acks⟩ false) s = .next (wakeMiss f core line acks img.level) := by
    refine (if_neg (by rw [coreExists_of hk]; exact Bool.false_ne_true)).trans (congrArg Host.Outcome.next ?_)
    rw [hf, ht]
    have hin := Micro.agentIn_some hc (l := [.iv, .vr, .ix, .vx]) (by rcases hst with h | h | h | h <;> rw [h] <;> rfl)
    have hlist : (if false = true then [CopyState.ix, .vx] else [.iv, .vr, .ix, .vx]) = [.iv, .vr, .ix, .vx] := rfl
    rw [hlist, hin]
    rfl
  have hnone : t.micro.copyAt core line = none := by rw [ht]; exact Micro.copyAt_dropCopy_same ..
  have hcore : t.core core = s.core core := by rw [ht]; rfl
  have hbytes : s.SameBytes t := by rw [ht]; exact ⟨rfl, rfl, rfl, rfl⟩
  have hag : t.agenda = s.agenda := by rw [ht]
  obtain ⟨hagenda, hviewed, hkeep, hdrop⟩ := fillCopies_fills t core line img c.region c.cls (!c.left) (!c.leftL2) hnone
  rw [← hf] at hagenda hviewed hkeep hdrop
  rw [hcore] at hkeep hdrop
  refine ⟨_, he, fun hl hs => hkeep (by rw [hl]; rfl) hs, fun h => hdrop (h.imp_left fun hl => by rw [hl]; rfl), fun i hi => ?_, (hbytes.trans hviewed.steady.bytes).trans (wakeMiss_spec f core line acks img.level).2.2⟩
  have hw : (f.core core).wakes core line = (s.core core).wakes core line := by rw [Core.wakes, hviewed.ctxs, hcore, Core.wakes]
  rw [(wakeMiss_spec f core line acks img.level).2.1, hw]
  exact (List.mem_append.mp hi).elim (fun h => List.mem_append_left _ (hagenda i (hag ▸ h))) (List.mem_append_right _)

theorem agentAckx_absent (h : s.micro.copyAt core line = none) (r : LeaseReply) : exec (.agentAckx core line r) s = .next s := by
  refine (if_neg (by rw [coreExists_of hk]; exact Bool.false_ne_true)).trans (congrArg Host.Outcome.next ?_)
  rw [Micro.agentIn_none h]

theorem agentAckx_grants {c : Copy} (hc : s.micro.copyAt core line = some c) (hst : c.st = .vx) (rts acks : Nat) :
    AtAgent s core line (.agentAckx core line ⟨rts, acks⟩) (some { c with st := .x, img := { c.img with rts := rts }, dirty := false, left := false, leftL2 := false })
      ((s.core core).wakes core line ++ [.homeGack line core]) := by
  obtain ⟨hcopy, hagenda, hbytes⟩ := becomeOwner_spec s core line { c with img := { c.img with rts := rts } } acks 3
  refine ⟨_, (if_neg (by rw [coreExists_of hk]; exact Bool.false_ne_true)).trans (congrArg Host.Outcome.next ?_), hcopy, hagenda, hbytes⟩
  rw [Micro.agentIn_some hc (by rw [hst]; rfl)]

theorem agentRnack_absent (h : s.micro.copyAt core line = none) (r : LeaseReply) : exec (.agentRnack core line r) s = .next s := by
  refine (if_neg (by rw [coreExists_of hk]; exact Bool.false_ne_true)).trans (congrArg Host.Outcome.next ?_)
  rw [Micro.agentIn_none h]

/-- A copy whose lease is extended. -/
def Copy.renewed (c : Copy) (rts : Nat) : Copy := { c with st := .v, img := { c.img with rts := max c.img.rts rts }, leftL2 := false }

/-- The L1 copy once a renewal has come. -/
def Micro.renewL1 (m : Micro) (core line : Nat) (o : Copy) (rts : Nat) : Micro :=
  if o.left then m.dropCopy core line else (m.setCopy core line (o.renewed rts)).freshUse core line

/-- The L2 slice takes the lease too, if its copy is the same. -/
def Micro.renewL2 (m : Micro) (cl line : Nat) (o : Copy) (rts : Nat) : Micro :=
  match m.l2At cl line with
  | some p => if p.img.wts = o.img.wts then { m with l2 := SMap.set [] m.l2 cl (SMap.put (SMap.get [] m.l2 cl) line { p with img := { p.img with rts := max p.img.rts rts } }) } else m
  | none => m

omit hk in
theorem Micro.renewL2_l1d (m : Micro) (cl line : Nat) (o : Copy) (rts : Nat) : (m.renewL2 cl line o rts).l1d = m.l1d := by
  unfold Micro.renewL2
  split
  · split <;> rfl
  · rfl

theorem agentRnack_extends {c : Copy} (hc : s.micro.copyAt core line = some c) (hst : c.st = .vr) (rts acks : Nat) :
    AtAgent s core line (.agentRnack core line ⟨rts, acks⟩) (if c.left then none else some (c.renewed rts)) ((s.core core).wakes core line) := by
  have he : exec (.agentRnack core line ⟨rts, acks⟩) s =
      .next (wakeMiss { s with micro := (s.micro.renewL1 core line c rts).renewL2 (clusterOf core) line c rts } core line acks 3) := by
    refine (if_neg (by rw [coreExists_of hk]; exact Bool.false_ne_true)).trans (congrArg Host.Outcome.next ?_)
    rw [Micro.agentIn_some hc (by rw [hst]; rfl)]
    rfl
  refine ⟨_, he, ?_, rfl, rfl, rfl, rfl, rfl⟩
  show ((s.micro.renewL1 core line c rts).renewL2 (clusterOf core) line c rts).copyAt core line = _
  rw [Micro.copyAt, Micro.renewL2_l1d, ← Micro.copyAt, Micro.renewL1]
  split
  · exact Micro.copyAt_dropCopy_same ..
  · exact Micro.copyAt_setCopy_same s.micro core line _

/-! ### Write-backs and forwards (R303, R307 to R309) -/

theorem agentWback_crossed (h : fwdComing s core line = true) : exec (.agentWback core line) s = .next (s.post [.agentWback core line]) :=
  (if_neg (by rw [coreExists_of hk]; exact Bool.false_ne_true)).trans (if_pos h)

theorem agentWback_absent (h : s.micro.copyAt core line = none) (hf : fwdComing s core line = false) : exec (.agentWback core line) s = .next s := by
  refine (if_neg (by rw [coreExists_of hk]; exact Bool.false_ne_true)).trans ((if_neg (by rw [hf]; exact Bool.false_ne_true)).trans (congrArg Host.Outcome.next ?_))
  rw [Micro.agentIn_none h]

theorem agentWback_drops {c : Copy} (hc : s.micro.copyAt core line = some c) (hst : c.st = .xi) (hf : fwdComing s core line = false) :
    AtAgent s core line (.agentWback core line) none ((s.core core).wakes core line) := by
  refine ⟨wakeMiss { s with micro := s.micro.dropCopy core line } core line 0 0,
    (if_neg (by rw [coreExists_of hk]; exact Bool.false_ne_true)).trans ((if_neg (by rw [hf]; exact Bool.false_ne_true)).trans (congrArg Host.Outcome.next ?_)),
    Micro.copyAt_dropCopy_same .., rfl, rfl, rfl, rfl, rfl⟩
  rw [Micro.agentIn_some hc (by rw [hst]; rfl)]

/-- The caches once an owner has given its line up: it keeps a valid copy for a reader, but for one its view leaves behind. -/
def fwdLeaves (s : State) (core line : Nat) (kind : FwdKind) (c : Copy) : Micro :=
  if decide (kind = .gets) && !tooOld (s.core core).viewOf c
  then s.micro.setCopy core line { c with st := .v, img := c.imageOf (s.lineNow line), dirty := false } else s.micro.dropCopy core line

/-- What an agent answers to a FWD, by its copy. -/
def fwdAnswer (s : State) (core line : Nat) (kind : FwdKind) : State :=
  match s.micro.copyAt core line with
  | some c =>
    match c.st with
    | .x =>
      if storeWaits s core line then s.post [.agentFwd core line kind]
      else
        ({ s with micro := fwdLeaves s core line kind c } : State).post [.homeFdata line core (s.lineNow line) (c.img.wts, c.img.rts)]
    | .xi => s.post [.homeGone line core]
    | .ix => if grantComing s core line then s.post [.agentFwd core line kind] else s.post [.homeFdata line core (s.lineNow line) (0, 0)]
    | .vx => if grantComing s core line then s.post [.agentFwd core line kind] else s.post [.homeFdata line core (s.lineNow line) (0, 0)]
    | _ => s.post [.homeFdata line core (s.lineNow line) (0, 0)]
  | none => s.post [.homeFdata line core (s.lineNow line) (0, 0)]

theorem agentFwd_step (kind : FwdKind) : exec (.agentFwd core line kind) s = .next (fwdAnswer s core line kind) := by
  have hno : ¬ (decide (256 ≤ core) && decide (core < 272)) = true := by simp; omega
  exact (if_neg hno).trans (if_neg (by rw [coreExists_of hk]; exact Bool.false_ne_true))

theorem agentFwd_absent (h : s.micro.copyAt core line = none) (kind : FwdKind) :
    exec (.agentFwd core line kind) s = .next (s.post [.homeFdata line core (s.lineNow line) (0, 0)]) := by
  rw [agentFwd_step hk, fwdAnswer, h]

theorem agentFwd_gone {c : Copy} (hc : s.micro.copyAt core line = some c) (hst : c.st = .xi) (kind : FwdKind) :
    AtAgent s core line (.agentFwd core line kind) (some c) [.homeGone line core] := by
  refine ⟨s.post [.homeGone line core], ?_, hc, rfl, rfl, rfl, rfl, rfl⟩
  rw [agentFwd_step hk, fwdAnswer, hc]
  dsimp only
  rw [hst]

theorem agentFwd_empty {c : Copy} (hc : s.micro.copyAt core line = some c) (hst : c.st = .iv ∨ c.st = .vr ∨ c.st = .v) (kind : FwdKind) :
    exec (.agentFwd core line kind) s = .next (s.post [.homeFdata line core (s.lineNow line) (0, 0)]) := by
  rw [agentFwd_step hk, fwdAnswer, hc]
  dsimp only
  rcases hst with h | h | h <;> rw [h]

theorem agentFwd_asked {c : Copy} (hc : s.micro.copyAt core line = some c) (hst : c.st = .ix ∨ c.st = .vx) (kind : FwdKind) :
    exec (.agentFwd core line kind) s =
      .next (if grantComing s core line then s.post [.agentFwd core line kind] else s.post [.homeFdata line core (s.lineNow line) (0, 0)]) := by
  rw [agentFwd_step hk, fwdAnswer, hc]
  dsimp only
  rcases hst with h | h <;> rw [h]

theorem agentFwd_waits {c : Copy} (hc : s.micro.copyAt core line = some c) (hst : c.st = .x) (hw : storeWaits s core line = true) (kind : FwdKind) :
    exec (.agentFwd core line kind) s = .next (s.post [.agentFwd core line kind]) := by
  rw [agentFwd_step hk, fwdAnswer, hc]
  dsimp only
  rw [hst]
  exact congrArg Host.Outcome.next (if_pos hw)

/-- An owner that gives its line up. -/
theorem agentFwd_gives {c : Copy} (hc : s.micro.copyAt core line = some c) (hst : c.st = .x) (hw : storeWaits s core line = false) (kind : FwdKind) :
    exec (.agentFwd core line kind) s =
      .next (({ s with micro := fwdLeaves s core line kind c } : State).post [.homeFdata line core (s.lineNow line) (c.img.wts, c.img.rts)]) := by
  rw [agentFwd_step hk, fwdAnswer, hc]
  dsimp only
  rw [hst]
  exact congrArg Host.Outcome.next (if_neg (by rw [hw]; exact Bool.false_ne_true))

theorem agentFwd_keeps {c : Copy} (hc : s.micro.copyAt core line = some c) (hst : c.st = .x) (hw : storeWaits s core line = false) {kind : FwdKind} (hkind : kind = .gets)
    (hs : ¬ StaleAt (s.core core).viewOf c.region c.img.round) : AtAgent s core line (.agentFwd core line kind)
      (some { c with st := .v, img := { c.img with data := (s.lineNow line).1, side := (s.lineNow line).2 }, dirty := false })
      [.homeFdata line core (s.lineNow line) (c.img.wts, c.img.rts)] := by
  refine ⟨_, agentFwd_gives hk hc hst hw kind, ?_, rfl, rfl, rfl, rfl, rfl⟩
  have hyes : (decide (kind = .gets) && !tooOld (s.core core).viewOf c) = true := by
    rw [decide_eq_true hkind, Bool.true_and, Bool.not_eq_true']
    exact Bool.eq_false_iff.mpr fun h => hs ((tooOld_iff _ c).mp h)
  show (fwdLeaves s core line kind c).copyAt core line = _
  rw [fwdLeaves, if_pos hyes]
  exact Micro.copyAt_setCopy_same ..

theorem agentFwd_drops {c : Copy} (hc : s.micro.copyAt core line = some c) (hst : c.st = .x) (hw : storeWaits s core line = false) {kind : FwdKind}
    (h : kind ≠ .gets ∨ StaleAt (s.core core).viewOf c.region c.img.round) : AtAgent s core line (.agentFwd core line kind) none
      [.homeFdata line core (s.lineNow line) (c.img.wts, c.img.rts)] := by
  refine ⟨_, agentFwd_gives hk hc hst hw kind, ?_, rfl, rfl, rfl, rfl, rfl⟩
  have hno : ¬ (decide (kind = .gets) && !tooOld (s.core core).viewOf c) = true := by
    simp only [Bool.and_eq_true, decide_eq_true_eq, Bool.not_eq_true', not_and, Bool.not_eq_false]
    exact fun hkind => (tooOld_iff _ c).mpr (h.resolve_left fun hne => hne hkind)
  show (fwdLeaves s core line kind c).copyAt core line = _
  rw [fwdLeaves, if_neg hno]
  exact Micro.copyAt_dropCopy_same ..

/-! ### Evictions (R303) -/

theorem lineEviction_step : exec (.lineEviction core line) s = .next (evictLine s core line) := if_neg (by rw [coreExists_of hk]; exact Bool.false_ne_true)

theorem lineEviction_absent (h : s.micro.copyAt core line = none) : exec (.lineEviction core line) s = .next s := by
  rw [lineEviction_step hk, evictLine, h]

theorem lineEviction_owner {c : Copy} (hc : s.micro.copyAt core line = some c) (hst : c.st = .x) : AtAgent s core line (.lineEviction core line) (some { c with st := .xi })
    [.homeWb line core { c.img with data := (s.lineNow line).1, side := (s.lineNow line).2 } (!c.dirty)] := by
  refine ⟨_, lineEviction_step hk, ?_⟩
  rw [evictLine, hc]
  dsimp only
  rw [hst]
  exact ⟨Micro.copyAt_setCopy_same s.micro core line _, rfl, rfl, rfl, rfl, rfl⟩

theorem lineEviction_valid {c : Copy} (hc : s.micro.copyAt core line = some c) (hst : c.st = .v) : AtAgent s core line (.lineEviction core line) none [] := by
  refine ⟨_, lineEviction_step hk, ?_⟩
  rw [evictLine, hc]
  dsimp only
  rw [hst]
  exact ⟨Micro.copyAt_dropCopy_same s.micro core line, (List.append_nil _).symm, rfl, rfl, rfl, rfl⟩

theorem lineEviction_pending {c : Copy} (hc : s.micro.copyAt core line = some c) (hx : c.st ≠ .x) (hv : c.st ≠ .v) : exec (.lineEviction core line) s = .next s := by
  rw [lineEviction_step hk, evictLine, hc]
  dsimp only
  split
  next h => exact absurd h hv
  next h => exact absurd h hx
  next => rfl

end

theorem agentFwd_port (s : State) {port : Nat} (hp : port < 16) (line : Nat) (kind : FwdKind) : exec (.agentFwd (256 + port) line kind) s = .next (s.emit (.peerForward port line kind)) := by
  show execAgentFwd (256 + port) line kind s = _
  have hin : (decide (256 ≤ 256 + port) && decide (256 + port < 272)) = true := by simp; omega
  unfold execAgentFwd
  rw [if_pos hin, Nat.add_sub_cancel_left]

/-- Settles O40: each clause is the lemma about its message, at a home or at an agent. -/
theorem coherenceFollowsTheTables : Obligations.CoherenceFollowsTheTables := by
  unfold Obligations.CoherenceFollowsTheTables
  refine ⟨fun s q hq => ?_, fun s core line rts acks clean kind img hk => ?_, fun s port line kind hp => agentFwd_port s hp line kind⟩
  · refine ⟨fun h => homeGets_ready hq ⟨h.1, h.2.1, h.2.2.1, h.2.2.2.1, h.2.2.2.2⟩, fun h _ => homeGets_near hq ⟨h.1, h.2.1, h.2.2.1, h.2.2.2.1, h.2.2.2.2⟩,
      fun h => homeRenew_ready hq ⟨h.1, h.2.1, h.2.2.1, h.2.2.2.1, h.2.2.2.2⟩, fun h => homeGetx_ready hq ⟨h.1, h.2.1, h.2.2.1, h.2.2.2.1, h.2.2.2.2⟩,
      fun h => homeUpg_ready hq ⟨h.1, h.2.1, h.2.2.1, h.2.2.2.1, h.2.2.2.2⟩, requests_moving hq, requests_stand hq, fun hm hr hst _ => requests_forwarded hq hm hr hst,
      requests_full hq, fun hm => ?_, fun hm => ?_⟩
    · refine (agentRetry_moving hq hm).trans ?_
      rfl
    · refine (agentRetry_sends hq hm).trans ?_
      rfl
  · exact ⟨homeWb_other hk img clean, homeWb_taken hk img clean, homeFdata_other hk img, homeFdata_taken hk img, homeGack_other hk, homeGack_records hk, homeGone_other hk,
      homeGone_taken hk, agentWback_crossed hk,
      fun h => ⟨agentData_absent hk h _ true, agentData_absent hk h _ false, agentAckx_absent hk h _, agentRnack_absent hk h _, agentWback_absent hk h,
        lineEviction_absent hk h, agentFwd_absent hk h kind⟩,
      fun c hc => ⟨fun hst hg => agentData_grants_unregioned hk hc hst hg img acks, fun hst => agentData_grants hk hc hst img acks,
        fun hst => agentData_fills hk hc hst img acks, fun hst => agentAckx_grants hk hc hst rts acks, fun hst => agentRnack_extends hk hc hst rts acks,
        fun hst => ⟨agentWback_drops hk hc hst, agentFwd_gone hk hc hst kind⟩, fun hst hw => agentFwd_waits hk hc hst hw kind,
        fun hst hw => agentFwd_keeps hk hc hst hw, fun hst hw => agentFwd_drops hk hc hst hw,
        fun hst => by
          have h := agentFwd_asked hk hc hst kind
          split
          next hg => rw [if_pos hg] at h; exact h
          next hg => rw [if_neg hg] at h; exact h,
        fun hst => agentFwd_empty hk hc hst kind, lineEviction_owner hk hc, lineEviction_valid hk hc, lineEviction_pending hk hc⟩⟩

end Sys2Proof.Machine
end

section
/-! What launches leave of the command ring, for O45 (R329, R346, R374). -/

namespace Sys2Proof.Machine

/-- The registers of the command ring are as they were. -/
def State.SameRing (s t : State) : Prop := t.sdie.ring = s.sdie.ring

theorem State.SameRing.refl (s : State) : s.SameRing s := rfl

theorem State.SameRing.trans {s t u : State} (h : s.SameRing t) (h' : t.SameRing u) : s.SameRing u := Eq.trans h' h

theorem State.SameRing.foldl {α : Type} {f : State → α → State} (h : ∀ (s : State) (a : α), s.SameRing (f s a)) (l : List α) (s : State) : s.SameRing (l.foldl f s) := by
  induction l generalizing s with
  | nil => exact .refl s
  | cons a l ih => exact (h s a).trans (ih (f s a))

/-- The system die is as it was but for watch reports. -/
theorem State.SameRing.of_sdie {s t : State} (h : t.sdie = { s.sdie with watchReports := t.sdie.watchReports }) : s.SameRing t := by
  rw [State.SameRing, h]

theorem State.Rounded.ring {s t : State} (h : s.Rounded t) : s.SameRing t := .of_sdie h.sdie

theorem State.Touches.ring {s t : State} {x : Context} (h : s.Touches t x) : s.SameRing t := .of_sdie h.sdie

theorem State.Keeps.ring {s t : State} (h : s.Keeps t) : s.SameRing t := h.touches.ring

theorem State.SameRing.asThread {f : State → State} (h : ∀ s : State, s.SameRing (f s)) (s : State) (r : ThreadRef) : s.SameRing (asThread s r f) := h { s with cur := r }

/-! ### Parking and traps -/

theorem vacate_ring (s : State) (k slot : Nat) : s.SameRing (vacate s k slot) := by
  unfold vacate
  dsimp only
  split
  · split <;> rfl
  · split <;> rfl

theorem restoreSupervisor_ring (s : State) (k : Nat) : s.SameRing (restoreSupervisor s k) := by
  unfold restoreSupervisor
  split <;> rfl

theorem State.cutWait_ring (s : State) (r : ThreadRef) (p : Pend) : s.SameRing (s.cutWait r p) := by
  unfold State.cutWait
  split <;> rfl

theorem endPark_ring (s : State) (r : ThreadRef) : s.SameRing (endPark s r) := by
  rw [endPark_rest]
  rfl

theorem parkCtx_ring (s : State) (r : ThreadRef) : s.SameRing (parkCtx s r) := by
  have h := (State.SameRing.trans (s := s) (t := s.setCtx r ((s.ctxOf r).parked s.cycle)) rfl (State.cutWait_ring _ r (s.ctxOf r).pend)).trans (endPark_ring _ r)
  unfold parkCtx
  dsimp only
  split
  · exact State.SameRing.trans h (vacate_ring _ _ _)
  · split
    · exact State.SameRing.trans h (restoreSupervisor_ring _ _)
    · exact h

theorem takeTrap_ring (s : State) (cause : Nat) (tval extra : Word) : s.SameRing (takeTrap s cause tval extra) := by
  obtain ⟨t, ht⟩ : ∃ t, t = s.traceMe 1 (BitVec.ofNat 64 cause) := ⟨_, rfl⟩
  have h : s.SameRing t := by
    rw [ht]
    unfold State.traceMe State.traceAt
    split <;> rfl
  unfold takeTrap
  dsimp only
  rw [← ht]
  split
  · refine State.SameRing.trans ?_ (congrArg Sdie.ring (pushSq_sdie _ _ _ _))
    refine State.SameRing.trans ?_ (parkCtx_ring _ _)
    exact h
  · exact h
  · exact h

theorem trap_ring (s : State) (cause : Nat) (tval : Word) : s.SameRing (trap s cause tval) := takeTrap_ring ..

/-! ### Queues (R160, R161) -/

theorem appendRecord_ring (s : State) (q : Nat) (d : QDesc) (rcd : LineData) (clk : Nat) : s.SameRing (appendRecord s q d rcd clk).2 := by
  obtain ⟨t, ht⟩ : ∃ t, t = (s.physStore (d.slotAddr d.tail) (natToBytes 64 rcd.toNat) clk).writeSide (.main (d.slotAddr d.tail)) 0 := ⟨_, rfl⟩
  have h : s.SameRing t := by
    rw [ht]
    exact (State.physStore_rounded s _ _ clk).ring.trans (writeSide_touches _ _ _).ring
  unfold appendRecord stampQueue
  dsimp only
  rw [← ht]
  exact h.trans (State.physStore_rounded t _ _ _).ring

theorem seeHead_ring (s : State) (cl q : Nat) : s.SameRing (seeHead s cl q) := by
  unfold seeHead
  dsimp only
  split
  · rfl
  · split
    · rfl
    · split <;> rfl

theorem headGone_ring (s : State) (q : Nat) : s.SameRing (headGone s q) :=
  State.SameRing.trans (t := { s with dispensers := s.dispensers.map (fun p =>
    (p.1, { p.2 with firstSeen := SMap.set 0 p.2.firstSeen q 0, released := p.2.released.filter (fun x => decide (x ≠ q)) })) }) rfl
    (State.SameRing.foldl (fun s cl => seeHead_ring s cl q) _ _)

theorem queueWatch_ring (s : State) (q slot : Nat) (w : Who) : s.SameRing (queueWatch s q slot w) :=
  (watchReport_keeps s w _ true true).ring.trans (watchReport_keeps _ w _ true true).ring

theorem State.noticed_ring (s : State) (q : Nat) : s.SameRing (s.noticed q) := by
  obtain ⟨t, ht⟩ : ∃ t, t = (dispensersOf s q).foldl (fun s cl => seeHead s cl q) s := ⟨_, rfl⟩
  have h : s.SameRing t := ht ▸ State.SameRing.foldl (fun s cl => seeHead_ring s cl q) (dispensersOf s q) s
  unfold State.noticed
  dsimp only
  rw [← ht]
  split
  · exact h
  · exact h

theorem takeHead_ring (s : State) (q : Nat) (d : QDesc) (clk : Nat) : s.SameRing (takeHead s q d clk).2.2 := by
  obtain ⟨m, hm⟩ : ∃ m : Micro, (takeHead s q d clk).2.2 = headGone (State.physStore { s with micro := m } (s.queueAddr q + 16) (natToBytes 8 ((d.head + 1) % 2 ^ 32))
    (max clk (s.micro.raised (s.micro.homeLine (d.slotAddr d.head / 64)).wts))) q := ⟨_, rfl⟩
  rw [hm]
  exact (State.SameRing.trans (s := s) (t := { s with micro := m }) rfl (State.physStore_rounded _ _ _ _).ring).trans (headGone_ring _ q)

theorem storeRecord_ring (s : State) (t : Target) (va : Word) (l : LineData) : s.SameRing (storeRecord s t va l) := by
  cases h : storeLine s s.myWho t (natToBytes 64 l.toNat) (some 0) false with
  | error v => exact (storeRecord_keeps h).1.ring
  | ok a => exact (storeRecord_stores h).1.ring

theorem finishDeq_ring (s : State) (q : DequeueReq) (d : QDesc) : s.SameRing (finishDeq s q d) := by
  unfold finishDeq
  split
  · exact State.SameRing.asThread (fun s => trap_ring s _ _) s _
  · refine (queueWatch_ring s q.queue _ _).trans (State.SameRing.asThread (fun s => ?_) _ _)
    obtain ⟨a, ha⟩ : ∃ a, a = takeHead s q.queue d (observeQueue s q.queue (s.clkOf q.who + 1)) := ⟨_, rfl⟩
    have h : s.SameRing a.2.2 := by
      rw [ha]
      exact takeHead_ring ..
    dsimp only
    rw [← ha]
    exact h.trans (State.SameRing.trans (t := (a.2.2.setClk q.who a.2.1).setS q.d (BitVec.ofNat 64 d.head)) rfl (storeRecord_ring _ _ _ _))

theorem dispenserTake_ring (s : State) (cl q : Nat) (d : QDesc) : s.SameRing (dispenserTake s cl q d) := by
  unfold dispenserTake
  dsimp only
  exact (takeHead_ring s q d _).trans (queueWatch_ring _ _ _ _)

theorem visitUntil_ring (s : State) (cl : Nat) (ids : List Nat) : s.SameRing (visitUntil s cl ids).2 := by
  unfold visitUntil
  dsimp only
  split <;> rfl

theorem serveWaiters_ring (s : State) (q n : Nat) : s.SameRing (serveWaiters s q n) := by
  induction n generalizing s with
  | zero => exact .refl s
  | succ n ih =>
    unfold serveWaiters
    split
    · exact .refl s
    · split
      · exact .refl s
      · dsimp only
        split
        · exact rfl
        · rename_i w _
          have hg : s.SameRing { withdraw s q with waiters := SMap.set [] (withdraw s q).waiters q ((SMap.get [] (withdraw s q).waiters q).erase w) } := rfl
          split
          · split
            · exact (hg.trans (finishDeq_ring _ _ _)).trans (ih _)
            · exact (hg.trans (State.SameRing.asThread (fun s => trap_ring s _ _) _ _)).trans (ih _)
          · split
            · exact (hg.trans (dispenserTake_ring _ _ _ _)).trans (ih _)
            · exact ((hg.trans (visitUntil_ring _ _ _)).trans (dispenserTake_ring _ _ _ _)).trans (ih _)

theorem enqueueAt_ring {s t : State} {q n c : Nat} {rcd : LineData} {user : Bool} {w : Who} (h : enqueueAt s q rcd user w = .ok (n, c, t)) : s.SameRing t := by
  cases hr : queueRefusal s q user true with
  | some e =>
    unfold enqueueAt at h
    rw [hr] at h
    cases h
  | none =>
    cases hg : s.queueDesc q with
    | none =>
      unfold enqueueAt at h
      rw [hr, hg] at h
      cases h
    | some g =>
      rw [enqueueAt_accepts rcd w hr hg] at h
      cases h
      exact (((appendRecord_ring s q g rcd w.clk).trans (queueWatch_ring _ _ _ _)).trans (serveWaiters_ring _ _ _)).trans (State.noticed_ring _ _)

/-! ### Fault events (R342, R346) -/

theorem deviceGate_ring (s : State) (line : Nat) : s.SameRing (deviceGate s line).2 := by
  unfold deviceGate
  dsimp only
  split
  · rfl
  · split <;> rfl

theorem sendFault_ring (s : State) (h : HeldFault) : s.SameRing (sendFault s h).2 := by
  unfold sendFault
  split
  · rfl
  · have hg := deviceGate_ring s (s.queueAddr ‹Nat› / 64)
    split
    · rename_i e
      rw [e] at hg
      exact hg
    · rename_i t e
      rw [e] at hg
      have ht : s.SameRing t := hg
      split
      · rename_i u he
        have hu : s.SameRing u := ht.trans (enqueueAt_ring he)
        exact hu
      · exact ht

theorem faultEvent_ring (s : State) (src : FaultSrc) (rcb domain : Nat) (rcd : SqRec) : s.SameRing (faultEvent s src rcb domain rcd) := by
  have h := sendFault_ring s ⟨src, rcb, domain, rcd, s.cycle⟩
  unfold faultEvent
  dsimp only
  split
  · rename_i e
    rw [e] at h
    exact h
  · rename_i e
    rw [e] at h
    split
    · split
      · exact h
      · exact h
    · exact h

/-! ### Launches (R329, R346) -/

theorem trackRcb_ring (s : State) (id : Nat) (cls : List Nat) : s.SameRing (trackRcb s id cls) := by
  unfold trackRcb
  exact (State.SameRing.foldl (fun s l => (s.track_rounded _ l).ring) _ _).trans
    (State.SameRing.foldl (fun s c => State.SameRing.foldl (fun s l => (s.track_rounded _ l).ring) _ s) _ _)

theorem registerAt_ring (s : State) (id : Nat) (cls : List Nat) : s.SameRing (registerAt s id cls) := by
  refine State.SameRing.foldl (fun s c => ?_) cls s
  rfl

/-- A region that is launched: its control block says so, its slots are waited for, and the dispensers look for its work. -/
def launchedFor (s : State) (id : Nat) (g : RcbReg) (cls : List Nat) : State :=
  let run := s.rcbWord id 0x78
  let s := trackRcb s id cls
  let s := registerAt (s.setReg id g) id cls
  let s := s.physWrite (s.rcbAddr id + 0x78) (natToBytes 8 (bitsOf run 0 0 + 2)) s.sdieClk
  let s := s.raiseSdie (s.micro.homeLine ((s.rcbAddr id + 0x78) / 64)).wts
  let slots := cls.flatMap (fun c => ((List.range 4).filter (fun i => g.coreMask.testBit i)).flatMap (fun i =>
    ((List.range 15).filter (fun n => g.slotMask.testBit n && decide ((s.core (4 * c + i)).partOf n = g.part))).map
      (fun n => (⟨4 * c + i, n, id⟩ : EntryWait))))
  let s := { s with entryWaits := s.entryWaits ++ slots }
  let s := s.post (slots.map (fun e => Instr.entryThreadCreate e.core e.slot e.rcb))
  cls.foldl (fun s c => s.poll c) s

theorem launchedFor_ring (s : State) (id : Nat) (g : RcbReg) (cls : List Nat) : s.SameRing (launchedFor s id g cls) := by
  obtain ⟨t, ht⟩ : ∃ t, t = registerAt ((trackRcb s id cls).setReg id g) id cls := ⟨_, rfl⟩
  have h : s.SameRing t := by
    rw [ht]
    exact (trackRcb_ring s id cls).trans (State.SameRing.trans (t := (trackRcb s id cls).setReg id g) rfl (registerAt_ring _ id cls))
  unfold launchedFor
  dsimp only
  rw [← ht]
  obtain ⟨v, hv⟩ : ∃ v, v = t.physWrite (t.rcbAddr id + 0x78) (natToBytes 8 (bitsOf (s.rcbWord id 0x78) 0 0 + 2)) t.sdieClk := ⟨_, rfl⟩
  have h' : s.SameRing v := by
    rw [hv]
    exact h.trans (State.physWrite_rounded t _ _ _).ring
  rw [← hv]
  refine h'.trans (State.SameRing.trans ?_ (State.SameRing.foldl (fun s c => ?_) cls _))
  · rfl
  · rfl

theorem launchRcb_launched {s u : State} {id : Nat} {dbg : Option Nat} (h : launchRcb s id dbg = some u) : ∃ g cls, u = launchedFor s id g cls := by
  unfold launchRcb at h
  split at h
  · exact nomatch h
  · split at h
    · exact nomatch h
    · extract_lets run g cls all at h
      split at h
      · exact nomatch h
      · exact ⟨g, all, (Option.some.inj h).symm⟩

theorem launchRcb_ring {s u : State} {id : Nat} {dbg : Option Nat} (h : launchRcb s id dbg = some u) : s.SameRing u := by
  obtain ⟨g, cls, rfl⟩ := launchRcb_launched h
  exact launchedFor_ring s id g cls

/-! ### Graphs (R346) -/

theorem sdieRead_ring (s : State) (t : Target) : s.SameRing (sdieRead s t).2 := (loadQuiet_keeps s (sdieWho s) t).ring

theorem sdieStore_ring (s : State) (t : Target) (bs : ByteList) (side : Option Word) : s.SameRing (sdieStore s t bs side) :=
  (storeQuiet_stores s (sdieWho s) t bs side).1.ring.trans
    (State.SameRing.trans (t := (storeQuiet s (sdieWho s) t bs side).2.2.raiseSdie (storeQuiet s (sdieWho s) t bs side).1) rfl (takeRound_rounded _ _ _).ring)

theorem sdieCopy_ring (s : State) (a b : Target) : s.SameRing (sdieCopy s a b) := (sdieRead_ring s a).trans (sdieStore_ring _ _ _ _)

theorem sdieLines_ring (s : State) (va : Nat) (n : Need) (k : Nat) : s.SameRing (sdieLines s va n k).2 := by
  induction k generalizing s va with
  | zero => exact .refl s
  | succ k ih =>
    have hc := (check_keeps s (sdieWho s) va { n with size := 64 }).ring
    unfold sdieLines
    split
    · rename_i e
      rw [e] at hc
      exact hc
    · rename_i t u e
      rw [e] at hc
      split
      · exact hc
      · have h := ih u (va + 64)
        split
        · rename_i e
          rw [e] at h
          exact hc.trans h
        · rename_i e
          rw [e] at h
          exact hc.trans h

theorem sdieBytes_ring (s : State) (l : List Target) : s.SameRing (sdieBytes s l).2 := by
  induction l generalizing s with
  | nil => exact .refl s
  | cons t l ih => exact (sdieRead_ring s t).trans (ih _)

theorem readNodes_ring (s : State) (base n k : Nat) : s.SameRing (readNodes s base n k).2 := by
  induction k generalizing s with
  | zero => exact .refl s
  | succ k ih =>
    have hl := sdieLines_ring s (base + 256 * (n - (k + 1))) { r := true } 4
    unfold readNodes
    split
    · rename_i e
      rw [e] at hl
      exact hl
    · rename_i l u e
      rw [e] at hl
      have hb := hl.trans (sdieBytes_ring u l)
      dsimp only
      split
      · exact hb
      · have h := hb.trans (ih (sdieBytes u l).2)
        split
        · rename_i e
          rw [e] at h
          exact h
        · rename_i e
          rw [e] at h
          exact h

theorem paramLines_ring (s : State) (d : GraphDesc) (slot : Nat) (l : List GraphNode) (i : Nat) : s.SameRing (paramLines s d slot l i).2 := by
  induction l generalizing s i with
  | nil => exact .refl s
  | cons x xs ih =>
    have h1 := sdieLines_ring s x.params { r := true } d.lines
    unfold paramLines
    split
    · rename_i e
      rw [e] at h1
      exact h1
    · rename_i src u e
      rw [e] at h1
      have h2 := sdieLines_ring u (d.frames + (slot * d.count + i) * (64 * d.lines)) { w := true } d.lines
      split
      · rename_i e
        rw [e] at h2
        exact h1.trans h2
      · rename_i dst v e
        rw [e] at h2
        have h3 := ih v (i + 1)
        split
        · rename_i e
          rw [e] at h3
          exact (h1.trans h2).trans h3
        · rename_i e
          rw [e] at h3
          exact (h1.trans h2).trans h3

theorem launchNodes_ring (s : State) (base : Nat) (l : List Nat) : s.SameRing (launchNodes s base l).1 := by
  induction l generalizing s with
  | nil => exact .refl s
  | cons i t ih =>
    unfold launchNodes
    split
    next hl => exact (launchRcb_ring hl).trans (ih _)
    next => exact faultEvent_ring s _ _ _ _

/-- The control block of a node is written from its template, with its own frame. -/
def putNode (d : GraphDesc) (slot : Nat) (s : State) (p : Nat × GraphNode) : State :=
  let f := d.frames + (slot * d.count + p.1) * (64 * d.lines)
  let img := p.2.template.take 0x38 ++ natToBytes 8 f ++ p.2.template.drop 0x40
  let a := s.rcbAddr (d.rcbBase + slot * d.count + p.1)
  sdieStore (sdieStore s { loc := .main a } (img.take 64) none) { loc := .main (a + 64) } (img.drop 64) none

theorem putNode_ring (d : GraphDesc) (slot : Nat) (s : State) (p : Nat × GraphNode) : s.SameRing (putNode d slot s p) := by
  unfold putNode
  dsimp only
  exact (sdieStore_ring s _ _ _).trans (sdieStore_ring _ _ _ _)

/-- The writes of a graph's launch: parameters, its sequence number, and a control block for each node. -/
def graphWrites (s : State) (d : GraphDesc) (dt : Target) (slot : Nat) (nodes : List GraphNode) (pairs : List (Target × Target)) : State :=
  let s1 := pairs.foldl (fun s p => sdieCopy s p.1 p.2) s
  let s1 := sdieStore s1 { dt with loc := dt.loc.add 0x28 } (natToBytes 8 ((d.sequence + 1) % 2 ^ 64)) none
  ((List.range d.count).zip nodes).foldl (putNode d slot) s1

theorem graphWrites_ring (s : State) (d : GraphDesc) (dt : Target) (slot : Nat) (nodes : List GraphNode) (pairs : List (Target × Target)) :
    s.SameRing (graphWrites s d dt slot nodes pairs) := by
  obtain ⟨t, ht⟩ : ∃ t, t = pairs.foldl (fun s p => sdieCopy s p.1 p.2) s := ⟨_, rfl⟩
  have h : s.SameRing t := by
    rw [ht]
    exact State.SameRing.foldl (f := fun (s : State) (p : Target × Target) => sdieCopy s p.1 p.2) (fun s p => sdieCopy_ring s p.1 p.2) pairs s
  unfold graphWrites
  rw [← ht]
  exact (h.trans (sdieStore_ring t _ _ _)).trans (State.SameRing.foldl (putNode_ring d slot) _ _)

end Sys2Proof.Machine
end

section
/-! O45 (R371, R374 to R378, R383): the commands of the ring and the entries fetched. -/

namespace Sys2Proof.Machine

/-! ### A launch of a graph leaves the ring (R346) -/

theorem launchGraph_ring {s u : State} {addr : Nat} (h : launchGraph s addr = .launched u) : s.SameRing u := by
  have hl := sdieLines_ring s addr { r := true, w := true } 1
  unfold launchGraph at h
  split at h
  · exact nomatch h
  · split at h
    · rename_i dt s1 e1
      rw [e1] at hl
      extract_lets b s2 at h
      have h2 : s.SameRing s2 := hl.trans (sdieBytes_ring s1 [dt])
      split at h
      · exact nomatch h
      · rename_i d _
        have hr := readNodes_ring s2 d.nodes d.count d.count
        split at h
        · exact nomatch h
        · rename_i nodes s3 e2
          rw [e2] at hr
          have h3 : s.SameRing s3 := h2.trans hr
          extract_lets succ slot base first pending at h
          split at h
          · exact nomatch h
          · split at h
            · exact nomatch h
            · have hp := paramLines_ring s3 d slot nodes 0
              split at h
              · exact nomatch h
              · rename_i pairs s4 e3
                rw [e3] at hp
                have hw := (h3.trans hp).trans (graphWrites_ring s4 d dt slot nodes pairs)
                have hall := hw.trans (launchNodes_ring _ base first)
                rw [← GraphRes.launched.inj h]
                split
                · exact hall
                · exact hall
    · exact nomatch h

/-! ### Completions (R378, R380) -/

/-- Two states of the ring that post their next completion alike. -/
structure Ring.Alike (r r' : Ring) : Prop where
  cplBase : r'.cplBase = r.cplBase
  cplTail : r'.cplTail = r.cplTail
  ctl : r'.ctl = r.ctl
  irqctl : r'.irqctl = r.irqctl
  tail : r'.tail = r.tail

theorem State.SameRing.alike {s t : State} (h : s.SameRing t) : s.sdie.ring.Alike t.sdie.ring := by
  rw [h]
  exact ⟨rfl, rfl, rfl, rfl, rfl⟩

/-- Where the next completion is written. -/
def Ring.slot (r : Ring) : Nat := r.cplBase.toNat + 16 * (r.cplTail % 2 ^ (r.ctl.toNat % 32))

/-- A completion record as it stands in host memory, with the ring gone on and an interrupt where one is asked for. -/
def Posts (r : Ring) (u : State) (seq : Word) (st code res : Nat) : Prop :=
  bytesToNat (u.bytesAt (.host r.slot) 8) = seq.toNat ∧ bytesToNat (u.bytesAt (.host (r.slot + 8)) 8) = st + code % 2 ^ 8 * 2 ^ 8 + res % 2 ^ 48 * 2 ^ 16 ∧
    u.sdie.ring.cplTail = (r.cplTail + 1) % 2 ^ 32 ∧ (r.irqctl.getLsbD 8 = true → .interrupt (r.irqctl.toNat % 64) ∈ u.out)

/-- The bytes of a completion record. -/
def record (seq : Word) (st code res : Nat) : ByteList := natToBytes 8 seq.toNat ++ natToBytes 8 (st % 256 + code % 256 * 256 + res % 2 ^ 48 * 2 ^ 16)

theorem record_length (seq : Word) (st code res : Nat) : (record seq st code res).length = 16 := by
  rw [record, List.length_append, natToBytes_length, natToBytes_length]

/-- The state once a completion is written. -/
def State.completed (s : State) (seq : Word) (st code res : Nat) : State :=
  { s with hostMem := putBytes s.hostMem s.sdie.ring.slot (record seq st code res),
           sdie := { s.sdie with ring := { s.sdie.ring with cplTail := (s.sdie.ring.cplTail + 1) % 2 ^ 32 } } }

theorem complete_eq (s : State) (seq : Word) (st code res : Nat) : complete s seq st code res =
    if s.sdie.ring.irqctl.getLsbD 8 then (s.completed seq st code res).emit (.interrupt (bitsOf s.sdie.ring.irqctl 5 0)) else s.completed seq st code res := by
  have hk : s.sdie.ring.slot = s.sdie.ring.cplBase.toNat + 16 * (s.sdie.ring.cplTail % 2 ^ s.sdie.ring.k) := by rw [Ring.k_eq, Ring.slot]
  unfold State.completed
  rw [hk]
  rfl

/-- What a completion leaves. -/
theorem complete_rest (s : State) (seq : Word) (st code res : Nat) : ∃ o, complete s seq st code res = { s.completed seq st code res with out := o } := by
  rw [complete_eq]
  generalize s.completed seq st code res = t
  split
  · exact ⟨t.out ++ [.interrupt (bitsOf s.sdie.ring.irqctl 5 0)], rfl⟩
  · exact ⟨t.out, rfl⟩

theorem complete_out (s : State) (seq : Word) (st code res : Nat) (h : s.sdie.ring.irqctl.getLsbD 8 = true) :
    .interrupt (s.sdie.ring.irqctl.toNat % 64) ∈ (complete s seq st code res).out := by
  have hb : bitsOf s.sdie.ring.irqctl 5 0 = s.sdie.ring.irqctl.toNat % 64 := by
    rw [bitsOf_eq, pow_zero, Nat.div_one]
    rfl
  rw [complete_eq, if_pos h, hb]
  exact List.mem_append_right _ List.mem_cons_self

/-- Two words written side by side in host memory read back. -/
theorem freeBytes_two_words (f : Nat → Byte) (m : SMap Byte) (a x y : Nat) :
    freeBytes f (putBytes m a (natToBytes 8 x ++ natToBytes 8 y)) a 8 = natToBytes 8 x ∧
      freeBytes f (putBytes m a (natToBytes 8 x ++ natToBytes 8 y)) (a + 8) 8 = natToBytes 8 y := by
  obtain ⟨p, hp⟩ : ∃ p, p = putBytes m a (natToBytes 8 x ++ natToBytes 8 y) := ⟨_, rfl⟩
  have hall : freeBytes f p a 16 = natToBytes 8 x ++ natToBytes 8 y := by
    have h := freeBytes_putBytes f (natToBytes 8 x ++ natToBytes 8 y) m a
    rwa [List.length_append, natToBytes_length, natToBytes_length, ← hp] at h
  have h0 := freeBytes_slice f p 0 a 16 8 (by decide)
  have h8 := freeBytes_slice f p 8 a 16 8 (by decide)
  rw [hall] at h0 h8
  rw [← hp]
  constructor
  · rw [Nat.add_zero] at h0
    exact h0.symm.trans (List.take_left' (natToBytes_length ..))
  · rw [List.drop_left' (natToBytes_length ..)] at h8
    exact h8.symm.trans (List.take_of_length_le (by rw [natToBytes_length]))

/-- The second word of a record fits. -/
theorem record_word {st : Nat} (hst : st < 256) (code res : Nat) :
    (st % 256 + code % 256 * 256 + res % 2 ^ 48 * 2 ^ 16) % 256 ^ 8 = st + code % 2 ^ 8 * 2 ^ 8 + res % 2 ^ 48 * 2 ^ 16 := by
  have hc : code % 256 < 256 := Nat.mod_lt _ (by decide)
  have hr : res % 2 ^ 48 < 2 ^ 48 := Nat.mod_lt _ (by decide)
  rw [Nat.mod_eq_of_lt hst, show (2 : Nat) ^ 8 = 256 from rfl]
  generalize code % 256 = c at hc
  generalize res % 2 ^ 48 = w at hr
  norm_num at hr ⊢
  omega

/-- A completion record reads back. -/
theorem freeBytes_record (f : Nat → Byte) (m : SMap Byte) (a : Nat) (seq : Word) {st : Nat} (hst : st < 256) (code res : Nat) :
    bytesToNat (freeBytes f (putBytes m a (record seq st code res)) a 8) = seq.toNat ∧
      bytesToNat (freeBytes f (putBytes m a (record seq st code res)) (a + 8) 8) = st + code % 2 ^ 8 * 2 ^ 8 + res % 2 ^ 48 * 2 ^ 16 := by
  have hw := record_word hst code res
  rw [record]
  obtain ⟨y, hy⟩ : ∃ y, y = st % 256 + code % 256 * 256 + res % 2 ^ 48 * 2 ^ 16 := ⟨_, rfl⟩
  rw [← hy] at hw ⊢
  obtain ⟨h1, h2⟩ := freeBytes_two_words f m a seq.toNat y
  rw [h1, h2, bytesToNat_natToBytes, bytesToNat_natToBytes, ← hw]
  exact ⟨Nat.mod_eq_of_lt seq.isLt, rfl⟩

theorem complete_posts {r : Ring} {s : State} (h : r.Alike s.sdie.ring) (seq : Word) {st : Nat} (hst : st < 256) (code res : Nat) :
    Posts r (complete s seq st code res) seq st code res := by
  have hslot : s.sdie.ring.slot = r.slot := by rw [Ring.slot, h.cplBase, h.cplTail, h.ctl, Ring.slot]
  obtain ⟨h1, h2⟩ := freeBytes_record Config.hostByte s.hostMem s.sdie.ring.slot seq hst code res
  obtain ⟨o, ho⟩ := complete_rest s seq st code res
  obtain ⟨u, hu⟩ : ∃ u, u = complete s seq st code res := ⟨_, rfl⟩
  have hmem : u.hostMem = putBytes s.hostMem s.sdie.ring.slot (record seq st code res) := by rw [hu, ho]; rfl
  have htail : u.sdie.ring.cplTail = (s.sdie.ring.cplTail + 1) % 2 ^ 32 := by rw [hu, ho]; rfl
  rw [← hmem, hslot] at h1 h2
  rw [← hu]
  refine ⟨h1, h2, ?_, fun hi => ?_⟩
  · rw [htail, h.cplTail]
  · have hout := complete_out s seq st code res (by rw [h.irqctl]; exact hi)
    rwa [h.irqctl, ← hu] at hout

/-! ### Commands as steps (R375) -/

section
variable {s : State} (hup : s.linkReady = true) (seq : Word) {code : Nat} {ops : ByteList}
include hup

theorem commandStep_done {st res : Nat} {s' : State} (h : command s code ops = some (st, res, s')) : commandStep s seq code ops = .next (complete s' seq st code res) := by
  refine (if_neg (by rw [hup]; exact Bool.false_ne_true)).trans ?_
  rw [runCommand, h]

theorem commandStep_waits (h : command s code ops = none) : commandStep s seq code ops = .next s := by
  refine (if_neg (by rw [hup]; exact Bool.false_ne_true)).trans ?_
  rw [runCommand, h]

end

/-! ### OPEN (R375) -/

/-- The coordinates of the point that an OPEN's operands give. -/
def pointX (ops : ByteList) : Nat := beNat (natsOf (ops.take 48))
def pointY (ops : ByteList) : Nat := beNat (natsOf ((ops.drop 48).take 48))

/-- The session that an OPEN begins. -/
def openedRing (r : Ring) (ops : ByteList) : Ring :=
  { r with session := true, halted := false, e := 0,
           key := BitVec.ofNat 256 (leNat ((hkdf (sharedSecret (pointX ops) (pointY ops)) (label "larvan ring") 48).take 32)) }

section
variable {s : State} {ops : ByteList}

theorem cmdOpen_badPoint (h : onCurve (pointX ops) (pointY ops) = false) : cmdOpen s ops = some (5, 0, s) := if_pos (congrArg not h)

theorem cmdOpen_full (h : onCurve (pointX ops) (pointY ops) = true) (hc : s.sdie.journal.closed = true) : cmdOpen s ops = some (7, 0, s) :=
  (if_neg fun hn => Bool.false_ne_true ((congrArg not h).symm.trans hn)).trans (if_pos hc)

theorem cmdOpen_opens (h : onCurve (pointX ops) (pointY ops) = true) (hc : s.sdie.journal.closed = false) :
    cmdOpen s ops = some (0, 0, (s.setRing (openedRing s.sdie.ring ops)).journal 0x61 0xFF 0 0 0) :=
  (if_neg fun hn => Bool.false_ne_true ((congrArg not h).symm.trans hn)).trans (if_neg (by rw [hc]; exact Bool.false_ne_true))

end

/-! ### IMPORT (R376) -/

theorem importOk_of {s : State} {host n : Nat} (h : ∀ i < n, ∀ b ∈ s.bytesAt (.host (host + 80 * i + 72)) 8, b = 0) : importOk s host n = true := by
  induction n with
  | zero => rfl
  | succ n ih =>
    rw [importOk, ih fun i hi => h i (Nat.lt_succ_of_lt hi), Bool.and_true, List.all_eq_true]
    exact fun b hb => decide_eq_true (h n (Nat.lt_succ_self n) b hb)

/-- A store of the system die to a line of main memory. -/
theorem sdieStore_mild {s : State} (h : s.NoRecords) (pa : Nat) (bs : ByteList) (side : Option Word) :
    (s.writeBoth (.main pa) bs side).Mild (sdieStore s { loc := .main pa } bs side) := by
  obtain ⟨h1, h2⟩ := storeQuiet_mild h (sdieWho s) pa bs side
  have h3 : (storeQuiet s (sdieWho s) { loc := .main pa } bs side).2.2.Mild
      ((storeQuiet s (sdieWho s) { loc := .main pa } bs side).2.2.raiseSdie (storeQuiet s (sdieWho s) { loc := .main pa } bs side).1) := State.Mild.micro _ id
  exact (h1.trans h3).trans (takeRound_mild _ _ h2)

/-- What the first `n` records leave. -/
structure Imported (s : State) (host dst n : Nat) (t : State) : Prop where
  ring : s.SameRing t
  hostMem : t.hostMem = s.hostMem
  records : t.NoRecords
  bytes : ∀ i < n, ∀ j < 64, t.mem.read (dst + 64 * i + j) = (s.bytesAt (.host (host + 80 * i)) 64).getD j 0
  sides : ∀ i < n, SMap.get 0 t.side (dst / 64 + i) = BitVec.ofNat 64 (bytesToNat (s.bytesAt (.host (host + 80 * i + 64)) 8))

theorem hostBytes_length (s : State) (a n : Nat) : (s.hostBytes a n).length = n := freeBytes_length ..

theorem wordAt_zero {bs : ByteList} (h : bs.length = 8) : wordAt bs 0 = BitVec.ofNat 64 (bytesToNat bs) := by
  rw [wordAt, List.drop_zero, List.take_of_length_le (by rw [h])]

theorem importLines_imported {s : State} (h : s.NoRecords) (host dst n : Nat) : Imported s host dst n (importLines s host dst n) := by
  induction n with
  | zero => exact ⟨.refl s, rfl, h, fun _ hi => (Nat.not_lt_zero _ hi).elim, fun _ hi => (Nat.not_lt_zero _ hi).elim⟩
  | succ n ih =>
    rw [importLines]
    obtain ⟨t, ht⟩ : ∃ t, t = importLines s host dst n := ⟨_, rfl⟩
    rw [← ht] at ih ⊢
    have hhost (a k : Nat) : t.hostBytes a k = s.bytesAt (.host a) k := congrArg (freeBytes Config.hostByte · a k) ih.hostMem
    obtain ⟨bs, hbs⟩ : ∃ bs, bs = t.hostBytes (host + 80 * n) 64 := ⟨_, rfl⟩
    obtain ⟨v, hv⟩ : ∃ v, v = wordAt (t.hostBytes (host + 80 * n + 64) 8) 0 := ⟨_, rfl⟩
    rw [← hbs, ← hv]
    have hlen : bs.length = 64 := by rw [hbs, hostBytes_length]
    have hm := sdieStore_mild ih.records (dst + 64 * n) bs (some v)
    have hrec := hm.records (State.writeBoth_noRecords ih.records _ _ _)
    have hring : s.SameRing (sdieStore t { loc := .main (dst + 64 * n) } bs (some v)) := ih.ring.trans (sdieStore_ring ..)
    obtain ⟨u, hu⟩ : ∃ u, u = sdieStore t { loc := .main (dst + 64 * n) } bs (some v) := ⟨_, rfl⟩
    rw [← hu] at hm hrec hring ⊢
    have hmem : u.mem = t.mem.writeBytes (dst + 64 * n) bs := by rw [hm.rest]; rfl
    have hside : u.side = SMap.set 0 t.side ((dst + 64 * n) / 64) v := by rw [hm.rest]; rfl
    have hline : (dst + 64 * n) / 64 = dst / 64 + n := Nat.add_mul_div_left dst n (by decide)
    refine ⟨hring, (by rw [hm.rest]; exact ih.hostMem), hrec, fun i hi j hj => ?_, fun i hi => ?_⟩
    · rw [hmem, Memory.read_writeBytes_getD, hlen]
      by_cases e : i = n
      · subst e
        rw [if_pos (by omega), Nat.add_sub_cancel_left, hbs, hhost]
      · rw [if_neg (by omega)]
        exact ih.bytes i (by omega) j hj
    · rw [hside, SMap.get_set, hline]
      by_cases e : i = n
      · subst e
        rw [if_pos rfl, hv, wordAt_zero (hostBytes_length ..), hhost]
      · rw [if_neg (by omega)]
        exact ih.sides i (by omega)

/-- What an IMPORT asks of its operands: how many lines, where they go, and one window that holds them. -/
structure ImportFits (s : State) (dst n : Nat) : Prop where
  some' : n ≠ 0
  few : n ≤ 2 ^ 20
  aligned : dst % 64 = 0
  room : dst + 64 * n ≤ s.capacity
  inOne : ∃ i < 16, (s.weir i).covers dst = true ∧ (s.weir i).covers (dst + 64 * n - 64) = true

theorem importFits_iff (s : State) (dst n : Nat) : (n = 0 ∨ 2 ^ 20 < n ∨ dst % 64 ≠ 0 ∨ dst + 64 * n > s.capacity ∨
    ((List.range 16).any (fun i => (s.weir i).covers dst && (s.weir i).covers (dst + 64 * n - 64))) = false) ↔ ¬ ImportFits s dst n := by
  have hone : ((List.range 16).any (fun i => (s.weir i).covers dst && (s.weir i).covers (dst + 64 * n - 64))) = true ↔
      ∃ i < 16, (s.weir i).covers dst = true ∧ (s.weir i).covers (dst + 64 * n - 64) = true := by
    simp only [List.any_eq_true, List.mem_range, Bool.and_eq_true]
  rw [← Bool.not_eq_true, hone]
  constructor
  · rintro h ⟨h1, h2, h3, h4, h5⟩
    rcases h with h | h | h | h | h
    · exact h1 h
    · omega
    · exact h h3
    · omega
    · exact h h5
  · intro h
    by_contra hn
    simp only [not_or, not_lt, not_not] at hn
    exact h ⟨hn.1, hn.2.1, hn.2.2.1, hn.2.2.2.1, hn.2.2.2.2⟩

section
variable {s : State} {ops : ByteList}

theorem cmdImport_refused (h : ¬ ImportFits s (wordAt ops 8).toNat (wordAt ops 16).toNat) : cmdImport s ops = some (5, 0, s) := if_pos ((importFits_iff ..).mpr h)

theorem cmdImport_writes (h : ImportFits s (wordAt ops 8).toNat (wordAt ops 16).toNat) (hz : importOk s (wordAt ops 0).toNat (wordAt ops 16).toNat = true) :
    cmdImport s ops = some (0, (wordAt ops 16).toNat, importLines s (wordAt ops 0).toNat (wordAt ops 8).toNat (wordAt ops 16).toNat) :=
  (if_neg fun hx => (importFits_iff ..).mp hx h).trans (if_neg (by rw [hz]; exact Bool.false_ne_true))

/-! ### SUMMARY (R377) -/

/-- The signature of a snapshot. -/
def snapshotSig (s : State) : ByteList :=
  (ecdsaSign attestKey (Config.ecdsaNonce (2 ^ 64 + s.cycle)) (sha384 (natsOf (snapshot s)))).map (fun b => BitVec.ofNat 8 b)

theorem beBytes_length (n x : Nat) : (beBytes n x).length = n := by
  induction n with
  | zero => rfl
  | succ n ih => rw [beBytes, List.length_cons, ih]

theorem ecdsaSign_length (d nonce : Nat) (digest : List Nat) : (ecdsaSign d nonce digest).length = 96 := by
  unfold ecdsaSign
  dsimp only
  rw [List.length_append, beBytes_length, beBytes_length]

theorem snapshotSig_length (s : State) : (snapshotSig s).length = 96 := (List.length_map _).trans (ecdsaSign_length ..)

theorem cmdSummary_unaligned (h : (wordAt ops 0).toNat % 2 ^ 20 ≠ 0) : cmdSummary s ops = some (5, 0, s) := if_pos h

theorem cmdSummary_writes (h : (wordAt ops 0).toNat % 2 ^ 20 = 0) : cmdSummary s ops =
    some (0, (snapshot s).length + 96, s.writeAt (.host (wordAt ops 0).toNat) (snapshot s ++ snapshotSig s)) := by
  have hlen : (snapshot s ++ snapshotSig s).length = (snapshot s).length + 96 := by rw [List.length_append, snapshotSig_length]
  refine (if_neg (not_not_intro h)).trans ?_
  rw [← hlen]
  rfl

end

/-! ### Every command keeps the ring's registers (R374) -/

theorem setExport_ring (s : State) (v : Word) : s.SameRing (setExport s v) := by
  unfold setExport
  dsimp only
  split <;> rfl

theorem cmdImport_ring {s s' : State} {ops : ByteList} {st res : Nat} (h : cmdImport s ops = some (st, res, s')) : s.SameRing s' ∧ st < 256 := by
  have hlines (host dst n : Nat) : s.SameRing (importLines s host dst n) := by
    induction n with
    | zero => exact .refl s
    | succ n ih =>
      rw [importLines]
      exact ih.trans (sdieStore_ring ..)
  unfold cmdImport at h
  dsimp only at h
  split at h
  · cases h
    exact ⟨.refl s, by decide⟩
  · split at h
    · cases h
      exact ⟨.refl s, by decide⟩
    · cases h
      exact ⟨hlines _ _ _, by decide⟩

theorem State.journal_ring (s : State) (kind source detail : Nat) (p0 p1 : Word) : (s.journal kind source detail p0 p1).sdie.ring = s.sdie.ring := rfl

theorem State.setRing_ring (s : State) (r : Ring) : (s.setRing r).sdie.ring = r := rfl

theorem State.writeHost_ring (s : State) (a : Nat) (bs : ByteList) : s.SameRing (s.writeAt (.host a) bs) := rfl

/-- The session that begins leaves where completions go. -/
theorem openedRing_alike (s : State) (ops : ByteList) (kind source detail : Nat) (p0 p1 : Word) :
    s.sdie.ring.Alike ((s.setRing (openedRing s.sdie.ring ops)).journal kind source detail p0 p1).sdie.ring := by
  rw [State.journal_ring, State.setRing_ring]
  exact ⟨rfl, rfl, rfl, rfl, rfl⟩

/-- Whatever a command does, its completion is posted where the ring stands, with a status of one byte. -/
theorem command_alike {s s' : State} {code : Nat} {ops : ByteList} {st res : Nat} (h : command s code ops = some (st, res, s')) :
    s.sdie.ring.Alike s'.sdie.ring ∧ st < 256 := by
  unfold command at h
  split at h
  · by_cases hp : onCurve (pointX ops) (pointY ops) = true
    · cases hc : s.sdie.journal.closed with
      | true =>
        rw [cmdOpen_full hp hc] at h
        cases h
        exact ⟨(State.SameRing.refl s).alike, by decide⟩
      | false =>
        rw [cmdOpen_opens hp hc] at h
        cases h
        exact ⟨openedRing_alike .., by decide⟩
    · rw [cmdOpen_badPoint (by simpa using hp)] at h
      cases h
      exact ⟨(State.SameRing.refl s).alike, by decide⟩
  · split at h
    · unfold cmdLaunch at h
      dsimp only at h
      split at h
      · rename_i hl
        cases h
        exact ⟨(launchRcb_ring hl).alike, by decide⟩
      · cases h
        exact ⟨(State.SameRing.refl s).alike, by decide⟩
    · split at h
      · unfold cmdGraph at h
        split at h
        · cases h
          exact ⟨(State.SameRing.refl s).alike, by decide⟩
        · exact nomatch h
        · rename_i hl
          cases h
          exact ⟨(launchGraph_ring hl).alike, by decide⟩
      · split at h
        · obtain ⟨hr, hst⟩ := cmdImport_ring h
          exact ⟨hr.alike, hst⟩
        · split at h
          · by_cases ha : (wordAt ops 0).toNat % 2 ^ 20 = 0
            · rw [cmdSummary_writes ha] at h
              cases h
              exact ⟨(State.writeHost_ring ..).alike, by decide⟩
            · rw [cmdSummary_unaligned ha] at h
              cases h
              exact ⟨(State.SameRing.refl s).alike, by decide⟩
          · split at h
            · cases h
              exact ⟨(setExport_ring s _).alike, by decide⟩
            · cases h
              exact ⟨(State.SameRing.refl s).alike, by decide⟩

end Sys2Proof.Machine
end

section
namespace Sys2Proof.Machine

/-! ### Each command as a step (R375 to R377) -/

/-- What a completion leaves as it was. -/
structure KeptBy (s u : State) : Prop where
  mem : u.mem = s.mem
  side : u.side = s.side
  cores : u.cores = s.cores
  rcbs : u.rcbs = s.rcbs
  agenda : u.agenda = s.agenda
  journal : u.sdie.journal = s.sdie.journal
  session : u.sdie.ring.session = s.sdie.ring.session
  halted : u.sdie.ring.halted = s.sdie.ring.halted
  e : u.sdie.ring.e = s.sdie.ring.e
  head : u.sdie.ring.head = s.sdie.ring.head
  tail : u.sdie.ring.tail = s.sdie.ring.tail

theorem complete_keeps (s : State) (seq : Word) (st code res : Nat) : KeptBy s (complete s seq st code res) := by
  obtain ⟨o, ho⟩ := complete_rest s seq st code res
  rw [ho]
  unfold State.completed
  constructor <;> rfl

theorem complete_hostMem (s : State) (seq : Word) (st code res : Nat) :
    (complete s seq st code res).hostMem = putBytes s.hostMem s.sdie.ring.slot (record seq st code res) := by
  obtain ⟨o, ho⟩ := complete_rest s seq st code res
  rw [ho]
  rfl

theorem openPoint_x (e : ByteList) : pointX ((e.drop 16).take 96) = beNat (((e.drop 16).take 48).map (·.toNat)) := by
  rw [pointX, List.take_take]
  rfl

theorem openPoint_y (e : ByteList) : pointY ((e.drop 16).take 96) = beNat (((e.drop 64).take 48).map (·.toNat)) := by
  rw [pointY, List.drop_take, List.take_take, List.drop_drop]
  rfl

/-! ### Commands by their codes -/

section
variable (s : State) (ops : ByteList)

theorem command_open : command s 1 ops = cmdOpen s ops := if_pos rfl
theorem command_launch : command s 2 ops = cmdLaunch s ops := rfl
theorem command_graph : command s 3 ops = cmdGraph s ops := rfl
theorem command_import : command s 4 ops = cmdImport s ops := rfl
theorem command_summary : command s 5 ops = cmdSummary s ops := rfl
theorem command_jfree : command s 6 ops = some (0, 0, setExport s (wordAt ops 0)) := rfl

theorem command_other {code : Nat} (h : code = 0 ∨ 6 < code) : command s code ops = some (5, 0, s) := by
  unfold command
  rw [if_neg (by omega), if_neg (by omega), if_neg (by omega), if_neg (by omega), if_neg (by omega), if_neg (by omega)]

/-- The region that a LAUNCH names. -/
theorem launchId (w : Word) : bitsOf w 10 0 = w.toNat % 2 ^ 11 := by
  rw [bitsOf_eq, pow_zero, Nat.div_one]

end

section
variable {s : State} {ops : ByteList}

theorem cmdLaunch_none (h : launchRcb s ((wordAt ops 0).toNat % 2 ^ 11) none = none) : cmdLaunch s ops = some (6, 0, s) := by
  unfold cmdLaunch
  dsimp only
  rw [launchId, h]

theorem cmdLaunch_some {s' : State} (h : launchRcb s ((wordAt ops 0).toNat % 2 ^ 11) none = some s') :
    cmdLaunch s ops = some (0, (wordAt ops 0).toNat % 2 ^ 11, s') := by
  unfold cmdLaunch
  dsimp only
  rw [launchId, h]

theorem cmdGraph_refused (h : launchGraph s (wordAt ops 0).toNat = .refused) : cmdGraph s ops = some (6, 0, s) := by rw [cmdGraph, h]

theorem cmdGraph_waits (h : launchGraph s (wordAt ops 0).toNat = .waits) : cmdGraph s ops = none := by rw [cmdGraph, h]

theorem cmdGraph_launched {s' : State} (h : launchGraph s (wordAt ops 0).toNat = .launched s') : cmdGraph s ops = some (0, 0, s') := by rw [cmdGraph, h]

end

section
variable {s : State} (hup : s.linkReady = true) (seq : Word) {ops : ByteList}
include hup

/-- A command that ends in `s'` is done: its record is posted, and the rest is as in `s'`. -/
theorem commandStep_posts {code st res : Nat} {s' : State} (h : command s code ops = some (st, res, s')) :
    ∃ u, commandStep s seq code ops = .next u ∧ Posts s.sdie.ring u seq st code res ∧ KeptBy s' u ∧
      u.hostMem = putBytes s'.hostMem s.sdie.ring.slot (record seq st code res) := by
  obtain ⟨halike, hst⟩ := command_alike h
  have hslot : s'.sdie.ring.slot = s.sdie.ring.slot := by rw [Ring.slot, halike.cplBase, halike.cplTail, halike.ctl, Ring.slot]
  have hmem := complete_hostMem s' seq st code res
  rw [hslot] at hmem
  exact ⟨_, commandStep_done hup seq h, complete_posts halike seq hst code res, complete_keeps .., hmem⟩

/-- An OPEN that its checks refuse leaves the session. -/
theorem ringOpen_refused {e : ByteList} {st : Nat} (h : cmdOpen s ((e.drop 16).take 96) = some (st, 0, s)) :
    ∃ u, exec (.ringOpen e) s = .next u ∧ Posts s.sdie.ring u (wordAt e 0) st 1 0 ∧ u.sdie.ring.session = s.sdie.ring.session := by
  obtain ⟨u, hu, hp, hk, -⟩ := commandStep_posts hup (wordAt e 0) ((command_open s _).trans h)
  exact ⟨u, hu, hp, hk.session⟩

theorem ringOpen_opens {e : ByteList} (h : onCurve (pointX ((e.drop 16).take 96)) (pointY ((e.drop 16).take 96)) = true) (hc : s.sdie.journal.closed = false) :
    ∃ u, exec (.ringOpen e) s = .next u ∧ Posts s.sdie.ring u (wordAt e 0) 0 1 0 ∧ u.sdie.ring.session = true ∧ u.sdie.ring.halted = false ∧
      u.sdie.ring.e = 0 ∧ s.sdie.journal.head < u.sdie.journal.head := by
  obtain ⟨u, hu, hp, hk, -⟩ := commandStep_posts hup (wordAt e 0) ((command_open s _).trans (cmdOpen_opens h hc))
  obtain ⟨t, ht⟩ : ∃ t, t = s.setRing (openedRing s.sdie.ring ((e.drop 16).take 96)) := ⟨_, rfl⟩
  have hring : t.sdie.ring = openedRing s.sdie.ring ((e.drop 16).take 96) := by rw [ht, State.setRing_ring]
  have hj : t.sdie.journal = s.sdie.journal := by rw [ht]; rfl
  rw [← ht] at hk
  refine ⟨u, hu, hp, ?_, ?_, ?_, ?_⟩
  · rw [hk.session, State.journal_ring, hring]
    rfl
  · rw [hk.halted, State.journal_ring, hring]
    rfl
  · rw [hk.e, State.journal_ring, hring]
    rfl
  · rw [hk.journal, ← hj]
    exact (State.journal_entry (by rw [hj, hc]) _ _ _ _ _).1

theorem ringLaunch_refused (h : launchRcb s ((wordAt ops 0).toNat % 2 ^ 11) none = none) :
    ∃ u, exec (.ringLaunch seq ops) s = .next u ∧ Posts s.sdie.ring u seq 6 2 0 := by
  obtain ⟨u, hu, hp, -⟩ := commandStep_posts hup seq ((command_launch s ops).trans (cmdLaunch_none h))
  exact ⟨u, hu, hp⟩

theorem ringLaunch_launches {s' : State} (h : launchRcb s ((wordAt ops 0).toNat % 2 ^ 11) none = some s') :
    ∃ u, exec (.ringLaunch seq ops) s = .next u ∧ Posts s.sdie.ring u seq 0 2 ((wordAt ops 0).toNat % 2 ^ 11) ∧ u.mem = s'.mem ∧ u.cores = s'.cores ∧
      u.rcbs = s'.rcbs ∧ u.agenda = s'.agenda := by
  obtain ⟨u, hu, hp, hk, -⟩ := commandStep_posts hup seq ((command_launch s ops).trans (cmdLaunch_some h))
  exact ⟨u, hu, hp, hk.mem, hk.cores, hk.rcbs, hk.agenda⟩

theorem ringGraph_refused (h : launchGraph s (wordAt ops 0).toNat = .refused) : ∃ u, exec (.ringGraph seq ops) s = .next u ∧ Posts s.sdie.ring u seq 6 3 0 := by
  obtain ⟨u, hu, hp, -⟩ := commandStep_posts hup seq ((command_graph s ops).trans (cmdGraph_refused h))
  exact ⟨u, hu, hp⟩

theorem ringGraph_waits (h : launchGraph s (wordAt ops 0).toNat = .waits) : exec (.ringGraph seq ops) s = .next s :=
  commandStep_waits hup seq ((command_graph s ops).trans (cmdGraph_waits h))

theorem ringGraph_launches {s' : State} (h : launchGraph s (wordAt ops 0).toNat = .launched s') :
    ∃ u, exec (.ringGraph seq ops) s = .next u ∧ Posts s.sdie.ring u seq 0 3 0 ∧ u.mem = s'.mem ∧ u.cores = s'.cores ∧ u.rcbs = s'.rcbs ∧
      u.agenda = s'.agenda := by
  obtain ⟨u, hu, hp, hk, -⟩ := commandStep_posts hup seq ((command_graph s ops).trans (cmdGraph_launched h))
  exact ⟨u, hu, hp, hk.mem, hk.cores, hk.rcbs, hk.agenda⟩

theorem ringImport_refused (h : ¬ ImportFits s (wordAt ops 8).toNat (wordAt ops 16).toNat) :
    ∃ u, exec (.ringImport seq ops) s = .next u ∧ Posts s.sdie.ring u seq 5 4 0 ∧ u.mem = s.mem := by
  obtain ⟨u, hu, hp, hk, -⟩ := commandStep_posts hup seq ((command_import s ops).trans (cmdImport_refused h))
  exact ⟨u, hu, hp, hk.mem⟩

/-- An IMPORT writes its lines with their sidebands. -/
theorem ringImport_writes (h : ImportFits s (wordAt ops 8).toNat (wordAt ops 16).toNat) (hrec : s.NoRecords)
    (hz : ∀ i < (wordAt ops 16).toNat, ∀ b ∈ s.bytesAt (.host ((wordAt ops 0).toNat + 80 * i + 72)) 8, b = 0) :
    ∃ u, exec (.ringImport seq ops) s = .next u ∧ Posts s.sdie.ring u seq 0 4 (wordAt ops 16).toNat ∧ ∀ i < (wordAt ops 16).toNat,
      (∀ j < 64, u.mem.read ((wordAt ops 8).toNat + 64 * i + j) = (s.bytesAt (.host ((wordAt ops 0).toNat + 80 * i)) 64).getD j 0) ∧
        SMap.get 0 u.side ((wordAt ops 8).toNat / 64 + i) = BitVec.ofNat 64 (bytesToNat (s.bytesAt (.host ((wordAt ops 0).toNat + 80 * i + 64)) 8)) := by
  obtain ⟨u, hu, hp, hk, -⟩ := commandStep_posts hup seq ((command_import s ops).trans (cmdImport_writes h (importOk_of hz)))
  have hi := importLines_imported hrec (wordAt ops 0).toNat (wordAt ops 8).toNat (wordAt ops 16).toNat
  refine ⟨u, hu, hp, fun i hlt => ⟨fun j hj => ?_, ?_⟩⟩
  · rw [hk.mem]
    exact hi.bytes i hlt j hj
  · rw [hk.side]
    exact hi.sides i hlt

theorem ringSummary_refused (h : (wordAt ops 0).toNat % 2 ^ 20 ≠ 0) : ∃ u, exec (.ringSummary seq ops) s = .next u ∧ Posts s.sdie.ring u seq 5 5 0 := by
  obtain ⟨u, hu, hp, -⟩ := commandStep_posts hup seq ((command_summary s ops).trans (cmdSummary_unaligned h))
  exact ⟨u, hu, hp⟩

/-- A SUMMARY writes its snapshot with the signature. -/
theorem ringSummary_writes (h : (wordAt ops 0).toNat % 2 ^ 20 = 0) : ∃ (s' u : State) (sig : ByteList), exec (.ringSummary seq ops) s = .next u ∧
    sig.length = 96 ∧ Posts s.sdie.ring u seq 0 5 ((snapshot s).length + 96) ∧ s' = { s with hostMem := s'.hostMem } ∧
    s'.bytesAt (.host (wordAt ops 0).toNat) ((snapshot s).length + 96) = snapshot s ++ sig ∧
    ∃ l, u.hostMem = putBytes s'.hostMem s.sdie.ring.slot l ∧ l.length = 16 := by
  obtain ⟨u, hu, hp, -, hmem⟩ := commandStep_posts hup seq ((command_summary s ops).trans (cmdSummary_writes h))
  obtain ⟨all, hall⟩ : ∃ all, all = snapshot s ++ snapshotSig s := ⟨_, rfl⟩
  have hlen : all.length = (snapshot s).length + 96 := by rw [hall, List.length_append, snapshotSig_length]
  rw [← hall] at hmem
  refine ⟨s.writeAt (.host (wordAt ops 0).toNat) all, u, snapshotSig s, hu, snapshotSig_length s, hp, rfl, ?_, _, hmem, record_length ..⟩
  rw [← hall, ← hlen]
  exact freeBytes_putBytes Config.hostByte all s.hostMem (wordAt ops 0).toNat

theorem ringJfree_moves : ∃ u, exec (.ringJfree seq ops) s = .next u ∧ Posts s.sdie.ring u seq 0 6 0 ∧
    u.sdie.journal = (setExport s (wordAt ops 0)).sdie.journal := by
  obtain ⟨u, hu, hp, hk, -⟩ := commandStep_posts hup seq (command_jfree s ops)
  exact ⟨u, hu, hp, hk.journal⟩

end
end Sys2Proof.Machine
end

section
namespace Sys2Proof.Machine

/-! ### An entry fetched from the ring (R374, R380, R382) -/

/-- A ring that entries are fetched from. -/
def Ring.On (r : Ring) : Prop := r.ctl.getLsbD 8 = true ∧ 4 ≤ r.ctl.toNat % 32 ∧ r.ctl.toNat % 32 ≤ 16

theorem Ring.usable_iff (r : Ring) : r.usable = true ↔ r.On := by
  rw [Ring.usable, Ring.enabled, Ring.k_eq, Bool.and_eq_true, Bool.and_eq_true, decide_eq_true_iff, decide_eq_true_iff, and_assoc]
  rfl

/-- The entry at the ring's head. -/
def State.entry (s : State) : ByteList := s.bytesAt (.host (s.sdie.ring.base.toNat + 128 * (s.sdie.ring.head % 2 ^ (s.sdie.ring.ctl.toNat % 32)))) 128

/-- The code of an entry's command. -/
def codeOf (f : ByteList) : Nat := bytesToNat ((f.drop 8).take 2)

/-- The operands of an entry's command. -/
def opsOf (f : ByteList) : ByteList := (f.drop 16).take 96

/-- The state once the S-die knows of the doorbell. -/
def State.rung (s : State) : State := s.raiseSdie s.sdie.ring.bellClk

/-- The state once the ring's head has passed an entry, with the next fetch due where entries are left. -/
def State.passed (s : State) (head : Nat) : State :=
  if head = s.sdie.ring.tail then s.setRing { s.sdie.ring with head := head } else (s.setRing { s.sdie.ring with head := head }).post [.ringFetch]

/-- The head past one entry. -/
def Ring.next (r : Ring) : Nat := (r.head + 1) % 2 ^ 32

/-- What the pass leaves of a state. -/
structure PassedTo (s : State) (head : Nat) (u : State) : Prop where
  hostMem : u.hostMem = s.hostMem
  out : u.out = s.out
  mem : u.mem = s.mem
  side : u.side = s.side
  cores : u.cores = s.cores
  rcbs : u.rcbs = s.rcbs
  journal : u.sdie.journal = s.sdie.journal
  ring : u.sdie.ring = { s.sdie.ring with head := head }
  due : head ≠ s.sdie.ring.tail → .ringFetch ∈ u.agenda

theorem State.passed_to (s : State) (head : Nat) : PassedTo s head (s.passed head) := by
  unfold State.passed
  split
  · rename_i h
    exact ⟨rfl, rfl, rfl, rfl, rfl, rfl, rfl, rfl, fun hn => absurd h hn⟩
  · exact ⟨rfl, rfl, rfl, rfl, rfl, rfl, rfl, rfl, fun _ => List.mem_append_right _ List.mem_cons_self⟩

/-- A record that is posted stays while the head passes. -/
theorem Posts.passed {r : Ring} {s u : State} {seq : Word} {st code res head : Nat} (h : Posts r s seq st code res) (hp : PassedTo s head u) :
    Posts r u seq st code res := by
  obtain ⟨h1, h2, h3, h4⟩ := h
  have hb (a n : Nat) : u.bytesAt (.host a) n = s.bytesAt (.host a) n := congrArg (freeBytes Config.hostByte · a n) hp.hostMem
  refine ⟨by rw [hb, h1], by rw [hb, h2], ?_, fun hi => ?_⟩
  · rw [hp.ring, ← h3]
  · rw [hp.out]
    exact h4 hi

section
variable {s : State}

theorem fetch_nothing (h : ¬ s.sdie.ring.On ∨ s.sdie.ring.head = s.sdie.ring.tail) : exec .ringFetch s = .next s := by
  refine if_pos ?_
  rw [Bool.or_eq_true, Bool.or_eq_true, decide_eq_true_iff]
  refine h.imp_left fun hoff => .inr ?_
  rw [Bool.not_eq_true', ← Bool.not_eq_true, Ring.usable_iff]
  exact hoff

theorem hostBytes_entry (s : State) : s.rung.hostBytes (s.sdie.ring.base.toNat + 128 * (s.sdie.ring.head % 2 ^ s.sdie.ring.k)) 128 = s.entry := by
  rw [Ring.k_eq]
  rfl

section
variable (hup : s.linkReady = true) (hon : s.sdie.ring.On) (hne : s.sdie.ring.head ≠ s.sdie.ring.tail)
include hup hon hne

theorem fetch_gate : ¬ (!s.linkReady || !s.sdie.ring.usable || decide (s.sdie.ring.head = s.sdie.ring.tail)) = true := by
  rw [hup, (Ring.usable_iff _).mpr hon, decide_eq_false hne]
  decide

/-- An entry that is handled: the head passes it. -/
theorem fetch_handles {t : State} (h : handleEntry s.rung s.entry = some t) : exec .ringFetch s = .next (t.passed s.sdie.ring.next) := by
  rw [← hostBytes_entry, State.rung] at h
  refine (if_neg (fetch_gate hup hon hne)).trans ?_
  dsimp only
  rw [h]
  rfl

/-- An entry whose command waits is fetched again. -/
theorem fetch_waits (h : handleEntry s.rung s.entry = none) : exec .ringFetch s = .next (s.rung.post [.ringFetch]) := by
  rw [← hostBytes_entry, State.rung] at h
  refine (if_neg (fetch_gate hup hon hne)).trans ?_
  dsimp only
  rw [h]
  rfl

end
end

/-! ### The entry's checks (R374) -/

/-- An entry whose code is right under the session's key. -/
def Genuine (r : Ring) (f : ByteList) : Prop := cmac (leBytes 32 r.key.toNat) ((f.take 0x70).map (·.toNat)) = ((f.drop 0x70).take 16).map (·.toNat)

/-- A session in which entries are executed. -/
def Ring.InSession (r : Ring) : Prop := r.session = true ∧ r.halted = false ∧ r.e < 2 ^ 63

/-- The state in which a command in turn is executed. -/
def State.counted (s : State) : State := s.setRing { s.sdie.ring with e := s.sdie.ring.e + 1 }

section
variable {s : State} {f : ByteList}

theorem not_inSession_iff (r : Ring) : (r.session = false ∨ r.halted = true ∨ r.e ≥ 2 ^ 63) ↔ ¬ r.InSession := by
  rw [Ring.InSession, not_and_or, not_and_or, Bool.not_eq_true, Bool.not_eq_false, not_lt]

/-- OPEN and SUMMARY need no session. -/
theorem handleEntry_free (h : codeOf f = 1 ∨ codeOf f = 5) : handleEntry s f = runCommand s (wordAt f 0) (codeOf f) (opsOf f) := if_pos h.symm

section
variable (h : codeOf f ≠ 1 ∧ codeOf f ≠ 5)
include h

theorem not_free : ¬ (codeOf f = 5 ∨ codeOf f = 1) := fun hx => hx.elim h.2 h.1

theorem handleEntry_outOfSession (hs : ¬ s.sdie.ring.InSession) : handleEntry s f = some (complete s (wordAt f 0) 4 (codeOf f) 0) :=
  (if_neg (not_free h)).trans (if_pos ((not_inSession_iff _).mpr hs))

section
variable (hs : s.sdie.ring.InSession)
include hs

theorem handleEntry_forged (hg : ¬ Genuine s.sdie.ring f) :
    handleEntry s f = some (complete (ringError s 1 (wordAt f 0)) (wordAt f 0) 1 (codeOf f) 0) :=
  (if_neg (not_free h)).trans ((if_neg fun hx => (not_inSession_iff _).mp hx hs).trans (if_pos hg))

section
variable (hg : Genuine s.sdie.ring f)
include hg

theorem handleEntry_genuine : handleEntry s f = if (wordAt f 0).toNat < s.sdie.ring.e then some (complete (ringError s 2 (wordAt f 0)) (wordAt f 0) 2 (codeOf f) 0)
    else if s.sdie.ring.e < (wordAt f 0).toNat then
      some (complete ((ringError s 3 (wordAt f 0)).setRing { s.sdie.ring with halted := true }) (wordAt f 0) 3 (codeOf f) 0)
    else runCommand s.counted (wordAt f 0) (codeOf f) (opsOf f) :=
  (if_neg (not_free h)).trans ((if_neg fun hx => (not_inSession_iff _).mp hx hs).trans (if_neg (not_not_intro hg)))

theorem handleEntry_stale (hn : (wordAt f 0).toNat < s.sdie.ring.e) :
    handleEntry s f = some (complete (ringError s 2 (wordAt f 0)) (wordAt f 0) 2 (codeOf f) 0) := by
  rw [handleEntry_genuine h hs hg, if_pos hn]

theorem handleEntry_ahead (hn : s.sdie.ring.e < (wordAt f 0).toNat) :
    handleEntry s f = some (complete ((ringError s 3 (wordAt f 0)).setRing { s.sdie.ring with halted := true }) (wordAt f 0) 3 (codeOf f) 0) := by
  rw [handleEntry_genuine h hs hg, if_neg (by omega), if_pos hn]

theorem handleEntry_inTurn (hn : (wordAt f 0).toNat = s.sdie.ring.e) :
    handleEntry s f = runCommand s.counted (wordAt f 0) (codeOf f) (opsOf f) := by
  rw [handleEntry_genuine h hs hg, if_neg (by omega), if_neg (by omega)]

end
end
end
end

/-! ### Refused entries (R374) -/

/-- A refused entry: its status is posted, the head passes it, and the session's number stays. -/
def RefusedWith (s : State) (st : Nat) (halted : Bool) : Prop :=
  ∃ u, exec .ringFetch s = .next u ∧ Posts s.sdie.ring u (wordAt s.entry 0) st (codeOf s.entry) 0 ∧ u.sdie.ring.head = s.sdie.ring.next ∧
    u.sdie.ring.halted = halted ∧ u.sdie.ring.e = s.sdie.ring.e ∧ u.mem = s.mem ∧ u.cores = s.cores

section
variable {s : State} (hup : s.linkReady = true) (hon : s.sdie.ring.On) (hne : s.sdie.ring.head ≠ s.sdie.ring.tail)
include hup hon hne

theorem fetch_refuses {t : State} {st : Nat} {halted : Bool} (hst : st < 256)
    (h : handleEntry s.rung s.entry = some (complete t (wordAt s.entry 0) st (codeOf s.entry) 0)) (ht : t.sdie.ring = { s.sdie.ring with halted := halted })
    (hmem : t.mem = s.mem) (hcores : t.cores = s.cores) : RefusedWith s st halted := by
  have halike : s.sdie.ring.Alike t.sdie.ring := by
    rw [ht]
    exact ⟨rfl, rfl, rfl, rfl, rfl⟩
  have hposts := complete_posts halike (wordAt s.entry 0) hst (codeOf s.entry) 0
  have hkeep := complete_keeps t (wordAt s.entry 0) st (codeOf s.entry) 0
  have hexec := fetch_handles hup hon hne h
  obtain ⟨v, hv⟩ : ∃ v, v = complete t (wordAt s.entry 0) st (codeOf s.entry) 0 := ⟨_, rfl⟩
  rw [← hv] at hposts hkeep hexec
  have hpass := v.passed_to s.sdie.ring.next
  refine ⟨_, hexec, hposts.passed hpass, ?_, ?_, ?_, ?_, ?_⟩
  · rw [hpass.ring]
  · rw [hpass.ring]
    exact hkeep.halted.trans (by rw [ht])
  · rw [hpass.ring]
    exact hkeep.e.trans (by rw [ht])
  · rw [hpass.mem, hkeep.mem, hmem]
  · rw [hpass.cores, hkeep.cores, hcores]

section
variable (h : codeOf s.entry ≠ 1 ∧ codeOf s.entry ≠ 5)
include h

theorem fetch_outOfSession (hs : ¬ s.sdie.ring.InSession) : RefusedWith s 4 s.sdie.ring.halted :=
  fetch_refuses hup hon hne (by decide) (handleEntry_outOfSession (s := s.rung) h hs) rfl rfl rfl

variable (hs : s.sdie.ring.InSession)
include hs

theorem fetch_forged (hg : ¬ Genuine s.sdie.ring s.entry) : RefusedWith s 1 s.sdie.ring.halted :=
  fetch_refuses hup hon hne (by decide) (handleEntry_forged (s := s.rung) h hs hg) rfl rfl rfl

variable (hg : Genuine s.sdie.ring s.entry)
include hg

theorem fetch_stale (hn : (wordAt s.entry 0).toNat < s.sdie.ring.e) : RefusedWith s 2 s.sdie.ring.halted :=
  fetch_refuses hup hon hne (by decide) (handleEntry_stale (s := s.rung) h hs hg hn) rfl rfl rfl

theorem fetch_ahead (hn : s.sdie.ring.e < (wordAt s.entry 0).toNat) : RefusedWith s 3 true :=
  fetch_refuses hup hon hne (by decide) (handleEntry_ahead (s := s.rung) h hs hg hn) rfl rfl rfl

end
end

/-! ### Entries that are executed (R374, R375) -/

/-- The state an entry's command is executed in. -/
def State.served (s : State) : State := if codeOf s.entry = 1 ∨ codeOf s.entry = 5 then s.rung else s.rung.counted

/-- An entry that needs no session, or stands in turn in one. -/
def State.EntryRuns (s : State) : Prop := codeOf s.entry = 1 ∨ codeOf s.entry = 5 ∨
  (s.sdie.ring.InSession ∧ Genuine s.sdie.ring s.entry ∧ (wordAt s.entry 0).toNat = s.sdie.ring.e)

theorem handleEntry_serves {s : State} (h : s.EntryRuns) : handleEntry s.rung s.entry = runCommand s.served (wordAt s.entry 0) (codeOf s.entry) (opsOf s.entry) := by
  unfold State.served
  by_cases hfree : codeOf s.entry = 1 ∨ codeOf s.entry = 5
  · rw [if_pos hfree]
    exact handleEntry_free hfree
  · rw [if_neg hfree]
    rw [not_or] at hfree
    obtain h1 | h5 | ⟨hs, hg, hn⟩ := h
    · exact absurd h1 hfree.1
    · exact absurd h5 hfree.2
    · exact handleEntry_inTurn (s := s.rung) hfree hs hg hn

/-- A command that has been executed for the entry at the head, and has left `t`. -/
structure ServedWith (s t u : State) (st res : Nat) : Prop where
  posts : Posts s.sdie.ring u (wordAt s.entry 0) st (codeOf s.entry) res
  head : u.sdie.ring.head = s.sdie.ring.next
  e : u.sdie.ring.e = t.sdie.ring.e
  session : u.sdie.ring.session = t.sdie.ring.session
  mem : u.mem = t.mem
  side : u.side = t.side
  cores : u.cores = t.cores
  rcbs : u.rcbs = t.rcbs
  journal : u.sdie.journal = t.sdie.journal
  due : s.sdie.ring.next ≠ s.sdie.ring.tail → .ringFetch ∈ u.agenda

theorem served_alike (s : State) : s.sdie.ring.Alike s.served.sdie.ring := by
  unfold State.served
  split <;> exact ⟨rfl, rfl, rfl, rfl, rfl⟩

theorem Ring.Alike.trans {a b c : Ring} (h : a.Alike b) (h' : b.Alike c) : a.Alike c :=
  ⟨h'.cplBase.trans h.cplBase, h'.cplTail.trans h.cplTail, h'.ctl.trans h.ctl, h'.irqctl.trans h.irqctl, h'.tail.trans h.tail⟩

section
variable {s : State} (hup : s.linkReady = true) (hon : s.sdie.ring.On) (hne : s.sdie.ring.head ≠ s.sdie.ring.tail) (h : s.EntryRuns)
include hup hon hne h

theorem fetch_serves {t : State} {st res : Nat} (hc : command s.served (codeOf s.entry) (opsOf s.entry) = some (st, res, t)) :
    ∃ u, exec .ringFetch s = .next u ∧ ServedWith s t u st res := by
  obtain ⟨hcmd, hst⟩ := command_alike hc
  have halike := (served_alike s).trans hcmd
  have hrun : handleEntry s.rung s.entry = some (complete t (wordAt s.entry 0) st (codeOf s.entry) res) := by rw [handleEntry_serves h, runCommand, hc]
  have hposts := complete_posts halike (wordAt s.entry 0) hst (codeOf s.entry) res
  have hkeep := complete_keeps t (wordAt s.entry 0) st (codeOf s.entry) res
  have hexec := fetch_handles hup hon hne hrun
  obtain ⟨v, hv⟩ : ∃ v, v = complete t (wordAt s.entry 0) st (codeOf s.entry) res := ⟨_, rfl⟩
  rw [← hv] at hposts hkeep hexec
  have hpass := v.passed_to s.sdie.ring.next
  exact ⟨_, hexec,
    { posts := hposts.passed hpass, head := by rw [hpass.ring], e := by rw [hpass.ring]; exact hkeep.e, session := by rw [hpass.ring]; exact hkeep.session,
      mem := hpass.mem.trans hkeep.mem, side := hpass.side.trans hkeep.side, cores := hpass.cores.trans hkeep.cores, rcbs := hpass.rcbs.trans hkeep.rcbs,
      journal := hpass.journal.trans hkeep.journal, due := fun hd => hpass.due (by rw [hkeep.tail, halike.tail]; exact hd) }⟩

theorem fetch_stands (hc : command s.served (codeOf s.entry) (opsOf s.entry) = none) : exec .ringFetch s = .next (s.rung.post [.ringFetch]) :=
  fetch_waits hup hon hne (by rw [handleEntry_serves h, runCommand, hc])

end

end Sys2Proof.Machine
end

section
namespace Sys2Proof.Machine

/-! ### The statement's own terms (O45) -/

/-- The session whose next number an entry carries. -/
theorem State.entryRuns_iff (s : State) : s.EntryRuns ↔ (codeOf s.entry = 1 ∨ codeOf s.entry = 5) ∨
    (s.sdie.ring.session = true ∧ s.sdie.ring.halted = false ∧ s.sdie.ring.e < 2 ^ 63 ∧ Genuine s.sdie.ring s.entry ∧
      (wordAt s.entry 0).toNat = s.sdie.ring.e) := by
  simp only [State.EntryRuns, Ring.InSession, and_assoc, or_assoc]

/-- What the statement asks of an executed entry. -/
def EntryDone (s t u : State) (st res : Nat) : Prop :=
  bytesToNat (u.bytesAt (.host s.sdie.ring.slot) 8) = (wordAt s.entry 0).toNat ∧
    bytesToNat (u.bytesAt (.host (s.sdie.ring.slot + 8)) 8) = st + codeOf s.entry * 2 ^ 8 + res % 2 ^ 48 * 2 ^ 16 ∧
    u.sdie.ring.cplTail = (s.sdie.ring.cplTail + 1) % 2 ^ 32 ∧ u.sdie.ring.head = (s.sdie.ring.head + 1) % 2 ^ 32 ∧ u.sdie.ring.e = t.sdie.ring.e ∧
    u.sdie.ring.session = t.sdie.ring.session ∧ (s.sdie.ring.irqctl.getLsbD 8 = true → .interrupt (s.sdie.ring.irqctl.toNat % 64) ∈ u.out) ∧
    u.mem = t.mem ∧ u.side = t.side ∧ u.cores = t.cores ∧ u.rcbs = t.rcbs ∧ u.sdie.journal = t.sdie.journal ∧
    ((s.sdie.ring.head + 1) % 2 ^ 32 ≠ s.sdie.ring.tail → .ringFetch ∈ u.agenda)

theorem ServedWith.done {s t u : State} {st res : Nat} (h : ServedWith s t u st res) (hcode : codeOf s.entry ≤ 6) : EntryDone s t u st res := by
  obtain ⟨h1, h2, h3, h4⟩ := h.posts
  rw [Nat.mod_eq_of_lt (show codeOf s.entry < 2 ^ 8 by omega)] at h2
  exact ⟨h1, h2, h3, h.head, h.e, h.session, h4, h.mem, h.side, h.cores, h.rcbs, h.journal, h.due⟩

/-- A LAUNCH from the ring in turn. -/
theorem fetch_launches {s t : State} (hup : s.linkReady = true) (hon : s.sdie.ring.On) (hne : s.sdie.ring.head ≠ s.sdie.ring.tail) (h : s.EntryRuns)
    (hcode : codeOf s.entry = 2) (hl : launchRcb s.served ((wordAt (opsOf s.entry) 0).toNat % 2 ^ 11) none = some t) :
    ∃ u, exec .ringFetch s = .next u ∧ EntryDone s t u 0 ((wordAt (opsOf s.entry) 0).toNat % 2 ^ 11) ∧ u.sdie.ring.e = s.sdie.ring.e + 1 := by
  have hc : command s.served (codeOf s.entry) (opsOf s.entry) = some (0, (wordAt (opsOf s.entry) 0).toNat % 2 ^ 11, t) := by
    rw [hcode, command_launch]
    exact cmdLaunch_some hl
  obtain ⟨u, hu, hserved⟩ := fetch_serves hup hon hne h hc
  have hring : t.sdie.ring = s.served.sdie.ring := launchRcb_ring hl
  have he : s.served.sdie.ring.e = s.sdie.ring.e + 1 := by
    rw [State.served, if_neg (by rw [hcode]; decide)]
    rfl
  exact ⟨u, hu, hserved.done (by rw [hcode]; decide), by rw [hserved.e, hring, he]⟩

/-- An entry in turn with a code of no command. -/
theorem fetch_unknown {s : State} (hup : s.linkReady = true) (hon : s.sdie.ring.On) (hne : s.sdie.ring.head ≠ s.sdie.ring.tail)
    (hs : s.sdie.ring.InSession) (hg : Genuine s.sdie.ring s.entry) (hn : (wordAt s.entry 0).toNat = s.sdie.ring.e) (hcode : codeOf s.entry = 0 ∨ 6 < codeOf s.entry) :
    ∃ u, exec .ringFetch s = .next u ∧ Posts s.sdie.ring u (wordAt s.entry 0) 5 (codeOf s.entry) 0 ∧ u.sdie.ring.e = s.sdie.ring.e + 1 ∧
      u.sdie.ring.head = s.sdie.ring.next := by
  obtain ⟨u, hu, hserved⟩ := fetch_serves hup hon hne (.inr (.inr ⟨hs, hg, hn⟩)) (command_other _ _ hcode)
  have he : s.served.sdie.ring.e = s.sdie.ring.e + 1 := by
    rw [State.served, if_neg (by omega)]
    rfl
  exact ⟨u, hu, hserved.posts, by rw [hserved.e, he], hserved.head⟩

/-- Where an IMPORT is refused. -/
theorem not_importFits {s : State} {dst n : Nat} (h : n = 0 ∨ 2 ^ 20 < n ∨ (dst % 64 ≠ 0 ∨ s.capacity < dst + 64 * n) ∨
    ¬ ∃ i < 16, (s.weir i).covers dst = true ∧ (s.weir i).covers (dst + 64 * n - 64) = true) : ¬ ImportFits s dst n := by
  rintro ⟨h1, h2, h3, h4, h5⟩
  obtain h | h | (h | h) | h := h
  · exact h1 h
  · omega
  · exact h h3
  · omega
  · exact h h5

/-- Settles O45: each command ends in its completion, and each entry of the ring is refused or executed by its checks in order. -/
theorem ringCommandsComplete : Obligations.RingCommandsComplete := by
  unfold Obligations.RingCommandsComplete
  constructor
  · intro s seq ops e hup r a done op x y big inOne
    have hx : pointX ((e.drop 16).take 96) = x := openPoint_x e
    have hy : pointY ((e.drop 16).take 96) = y := openPoint_y e
    refine ⟨fun _ h => ?_, fun _ h hc => ?_, fun _ h hc => ?_, ⟨fun h => ringLaunch_refused hup seq h, fun s' h => ringLaunch_launches hup seq h⟩,
      fun h => ringGraph_refused hup seq h, fun h => ringGraph_waits hup seq h, fun s' h => ringGraph_launches hup seq h,
      fun h => ringImport_refused hup seq (not_importFits h), fun h0 hmax hbig hone hrec hz => ?_, fun h => ringSummary_refused hup seq h,
      fun h => ringSummary_writes hup seq h, ringJfree_moves hup seq, ?_⟩
    · rw [← hx, ← hy] at h
      exact ringOpen_refused hup (cmdOpen_badPoint h)
    · rw [← hx, ← hy] at h
      exact ringOpen_refused hup (cmdOpen_full h hc)
    · rw [← hx, ← hy] at h
      exact ringOpen_opens hup h hc
    · obtain ⟨halign, hroom⟩ := not_or.mp hbig
      exact ringImport_writes hup seq ⟨h0, hmax, not_not.mp halign, not_lt.mp hroom, hone⟩ hrec hz
    · intro on f code num good plain inSession refuses
      refine ⟨fun h => fetch_nothing h, ?_, ?_, ?_, ?_, ?_⟩
      · rintro ⟨hon, hne, hcode⟩ hs
        exact fetch_outOfSession hup hon hne hcode hs
      · rintro ⟨hon, hne, hcode⟩ hs hg
        exact fetch_forged hup hon hne hcode hs hg
      · rintro ⟨hon, hne, hcode⟩ hs hg hn
        exact fetch_stale hup hon hne hcode hs hg hn
      · rintro ⟨hon, hne, hcode⟩ hs hg hn
        exact fetch_ahead hup hon hne hcode hs hg hn
      · rintro ⟨hon, hne, -⟩ hs hg hn hcode
        exact fetch_unknown hup hon hne hs hg hn hcode
  · intro s hup r k on f code num ops a free good inTurn s0 s1 done hon hne _ h6 hrun
    have hruns : s.EntryRuns := s.entryRuns_iff.mpr hrun
    refine ⟨fun st res s' hc => ?_, fun h2 s' hl => fetch_launches hup hon hne hruns h2 hl, fun hc => fetch_stands hup hon hne hruns hc⟩
    obtain ⟨u, hu, hserved⟩ := fetch_serves hup hon hne hruns hc
    exact ⟨u, hu, hserved.done h6⟩

end Sys2Proof.Machine
end

section
/-! O59 (R57, R59, R62 to R64, R69 to R73): the arithmetic of exact values. -/

namespace Sys2Proof.Machine

/-! ### Exact values stand for rationals (R59, R64) -/

theorem two_zpow_pos (e : Int) : (0 : ℚ) < 2 ^ e := zpow_pos (by norm_num) e

theorem lowerTo_value (m : Int) {e l : Int} (h : l ≤ e) : ((lowerTo m e l : Int) : ℚ) * 2 ^ l = m * 2 ^ e := by
  obtain ⟨n, hn⟩ := Int.le.dest h
  have hsub : (e - l).toNat = n := by omega
  rw [lowerTo, hsub, ← hn, zpow_add₀ (by norm_num), zpow_natCast]
  push_cast
  ring

namespace XVal

theorem is_fin (m e : Int) : (XVal.fin m e).Is (m * 2 ^ e) := .inl ⟨m, e, rfl, rfl⟩

theorem is_negZero : XVal.negZero.Is 0 := .inr ⟨rfl, rfl⟩

theorem is_zero : XVal.zero.Is 0 := .inl ⟨0, 0, rfl, by norm_num⟩

theorem fin_is_iff {m e : Int} {v : ℚ} : (XVal.fin m e).Is v ↔ v = m * 2 ^ e := by
  constructor
  · rintro (⟨_, _, h, rfl⟩ | ⟨h, -⟩)
    · cases h
      rfl
    · exact nomatch h
  · rintro rfl
    exact is_fin m e

theorem is_unique {x : XVal} {v w : ℚ} (h : x.Is v) (h' : x.Is w) : v = w := by
  obtain ⟨m, e, rfl, rfl⟩ | ⟨rfl, rfl⟩ := h
  · exact (fin_is_iff.mp h').symm
  · obtain ⟨_, _, h', -⟩ | ⟨-, rfl⟩ := h'
    · exact nomatch h'
    · rfl

theorem add_is {x y : XVal} {v w : ℚ} (hx : x.Is v) (hy : y.Is w) : (x.add y).1.Is (v + w) ∧ (x.add y).2 = 0 := by
  obtain ⟨m, e, rfl, rfl⟩ | ⟨rfl, rfl⟩ := hx <;> obtain ⟨m', e', rfl, rfl⟩ | ⟨rfl, rfl⟩ := hy
  · refine ⟨fin_is_iff.mpr ?_, rfl⟩
    rw [Int.cast_add, add_mul, lowerTo_value m (min_le_left ..), lowerTo_value m' (min_le_right ..)]
  · exact ⟨fin_is_iff.mpr (add_zero _), rfl⟩
  · exact ⟨fin_is_iff.mpr (zero_add _), rfl⟩
  · exact ⟨.inr ⟨rfl, add_zero 0⟩, rfl⟩

/-- A zero with either sign stands for 0. -/
theorem signedZero_is (b : Bool) : (if b then XVal.negZero else .zero).Is 0 := by
  cases b
  · exact is_zero
  · exact is_negZero

theorem signedZero_is' (b : Bool) : (if b then XVal.zero else .negZero).Is 0 := by
  cases b
  · exact is_negZero
  · exact is_zero

theorem mul_is {x y : XVal} {v w : ℚ} (hx : x.Is v) (hy : y.Is w) : (x.mul y).1.Is (v * w) ∧ (x.mul y).2 = 0 := by
  obtain ⟨m, e, rfl, rfl⟩ | ⟨rfl, rfl⟩ := hx <;> obtain ⟨m', e', rfl, rfl⟩ | ⟨rfl, rfl⟩ := hy
  · by_cases h : m = 0 ∨ m' = 0
    · have hprod : (m : ℚ) * 2 ^ e * (m' * 2 ^ e') = 0 := by rcases h with rfl | rfl <;> simp
      have hmul : (XVal.fin m e).mul (.fin m' e') = (if (decide (m < 0)) != (decide (m' < 0)) then .negZero else .zero, 0) := if_pos h
      rw [hmul, hprod]
      exact ⟨signedZero_is _, rfl⟩
    · have hmul : (XVal.fin m e).mul (.fin m' e') = (.fin (m * m') (e + e'), 0) := if_neg h
      rw [hmul]
      refine ⟨fin_is_iff.mpr ?_, rfl⟩
      rw [zpow_add₀ (by norm_num)]
      push_cast
      ring
  · rw [mul_zero]
    exact ⟨signedZero_is' (XVal.fin m e).isNeg, rfl⟩
  · rw [zero_mul]
    exact ⟨signedZero_is' (XVal.fin m' e').isNeg, rfl⟩
  · rw [zero_mul]
    exact ⟨is_zero, rfl⟩

theorem neg_is {x : XVal} {v : ℚ} (h : x.Is v) : x.neg.Is (-v) := by
  obtain ⟨m, e, rfl, rfl⟩ | ⟨rfl, rfl⟩ := h
  · have hneg : (XVal.fin m e).neg = if m = 0 then .negZero else .fin (-m) e := rfl
    rw [hneg]
    by_cases hm : m = 0
    · rw [if_pos hm, hm, Int.cast_zero, zero_mul, neg_zero]
      exact is_negZero
    · rw [if_neg hm, fin_is_iff, Int.cast_neg, neg_mul]
  · rw [neg_zero]
    exact is_zero

theorem abs_is {x : XVal} {v : ℚ} (h : x.Is v) : x.abs.Is |v| := by
  obtain ⟨m, e, rfl, rfl⟩ | ⟨rfl, rfl⟩ := h
  · rw [XVal.abs, fin_is_iff, abs_mul, abs_of_pos (two_zpow_pos e), Int.natCast_natAbs, Int.cast_abs]
  · rw [abs_zero]
    exact is_zero

theorem scale_is {x : XVal} {v : ℚ} (h : x.Is v) (s : Int) : (x.scale s).Is (v * 2 ^ s) := by
  obtain ⟨m, e, rfl, rfl⟩ | ⟨rfl, rfl⟩ := h
  · rw [XVal.scale, fin_is_iff, zpow_add₀ (by norm_num), mul_assoc]
  · rw [zero_mul]
    exact is_negZero

theorem lt_iff {x y : XVal} {v w : ℚ} (hx : x.Is v) (hy : y.Is w) : x.lt y = true ↔ v < w := by
  obtain ⟨m, e, rfl, rfl⟩ | ⟨rfl, rfl⟩ := hx <;> obtain ⟨m', e', rfl, rfl⟩ | ⟨rfl, rfl⟩ := hy
  · rw [XVal.lt, decide_eq_true_iff, ← lowerTo_value m (min_le_left e e'), ← lowerTo_value m' (min_le_right e e'),
      mul_lt_mul_iff_left₀ (two_zpow_pos _), Int.cast_lt]
  · have h0 : (m : ℚ) * 2 ^ e < 0 ↔ (m : ℚ) < 0 := by
      have h := mul_lt_mul_iff_left₀ (b := (m : ℚ)) (c := 0) (two_zpow_pos e)
      rwa [zero_mul] at h
    rw [XVal.lt, decide_eq_true_iff, h0, Int.cast_lt_zero]
  · rw [XVal.lt, decide_eq_true_iff, mul_pos_iff_of_pos_right (two_zpow_pos e'), Int.cast_pos]
  · exact ⟨(nomatch ·), fun h => absurd h (lt_irrefl 0)⟩

theorem isNaN_of_is {x : XVal} {v : ℚ} (h : x.Is v) : x.isNaN = false := by
  obtain ⟨m, e, rfl, -⟩ | ⟨rfl, -⟩ := h <;> rfl

theorem eq_iff {x y : XVal} {v w : ℚ} (hx : x.Is v) (hy : y.Is w) : x.eq y = true ↔ v = w := by
  rw [XVal.eq, isNaN_of_is hx, isNaN_of_is hy, Bool.not_false, Bool.true_and, Bool.true_and, Bool.and_eq_true, Bool.not_eq_true', Bool.not_eq_true',
    ← Bool.not_eq_true, ← Bool.not_eq_true, lt_iff hx hy, lt_iff hy hx, not_lt, not_lt]
  exact ⟨fun ⟨h1, h2⟩ => le_antisymm h2 h1, fun h => ⟨h.ge, h.le⟩⟩

theorem min_is {x y : XVal} {v w : ℚ} (hx : x.Is v) (hy : y.Is w) : (x.min y).Is (Min.min v w) := by
  have hlt := lt_iff hx hy
  have hgt := lt_iff hy hx
  rw [XVal.min, isNaN_of_is hx, isNaN_of_is hy, if_neg (by decide)]
  split
  · rwa [min_eq_left (hlt.mp ‹_›).le]
  · rename_i hnlt
    split
    · rwa [min_eq_right (hgt.mp ‹_›).le]
    · rename_i hngt
      have he : v = w := le_antisymm (not_lt.mp fun h => hngt (hgt.mpr h)) (not_lt.mp fun h => hnlt (hlt.mpr h))
      subst he
      rw [min_self]
      split
      · exact hx
      · exact hy

theorem max_is {x y : XVal} {v w : ℚ} (hx : x.Is v) (hy : y.Is w) : (x.max y).Is (Max.max v w) := by
  have hlt := lt_iff hx hy
  have hgt := lt_iff hy hx
  rw [XVal.max, isNaN_of_is hx, isNaN_of_is hy, if_neg (by decide)]
  split
  · rwa [max_eq_right (hlt.mp ‹_›).le]
  · rename_i hnlt
    split
    · rwa [max_eq_left (hgt.mp ‹_›).le]
    · rename_i hngt
      have he : v = w := le_antisymm (not_lt.mp fun h => hngt (hgt.mpr h)) (not_lt.mp fun h => hnlt (hlt.mpr h))
      subst he
      rw [max_self]
      split
      · exact hy
      · exact hx

/-- A sum is minus zero only where both addends are. -/
theorem add_negZero_iff {x y : XVal} {v w : ℚ} (hx : x.Is v) (hy : y.Is w) : (x.add y).1 = .negZero ↔ x = .negZero ∧ y = .negZero := by
  obtain ⟨m, e, rfl, rfl⟩ | ⟨rfl, rfl⟩ := hx <;> obtain ⟨m', e', rfl, rfl⟩ | ⟨rfl, rfl⟩ := hy <;> simp [XVal.add]

theorem isZero_of_is {x : XVal} (h : x.Is 0) : x.isZero = true := by
  obtain ⟨m, e, rfl, h0⟩ | ⟨rfl, -⟩ := h
  · have hm : m = 0 := by simpa [(two_zpow_pos e).ne'] using h0
    rw [hm]
    rfl
  · rfl

theorem zero_mul_inf {x : XVal} (h : x.Is 0) (n : Bool) : x.mul (.inf n) = (.nan, 1) ∧ (XVal.inf n).mul x = (.nan, 1) := by
  have hz := isZero_of_is h
  obtain ⟨m, e, rfl, -⟩ | ⟨rfl, -⟩ := h
  · exact ⟨if_pos hz, if_pos hz⟩
  · exact ⟨rfl, rfl⟩

theorem inf_add_inf (n : Bool) : (XVal.inf n).add (.inf !n) = (.nan, 1) := by cases n <;> rfl

theorem add_nan (x : XVal) : x.add .nan = (.nan, 0) := by cases x <;> rfl

theorem mul_nan (x : XVal) : x.mul .nan = (.nan, 0) := by cases x <;> rfl

theorem min_nan (x : XVal) : x.min .nan = .nan := by cases x <;> rfl

theorem max_nan (x : XVal) : x.max .nan = .nan := by cases x <;> rfl

end XVal

/-! ### Pads (R71) and codebook weights (R73) -/

theorem isInt_iff (c : Nat) : isInt c = true ↔ c = 1 ∨ c = 2 ∨ c = 4 ∨ c = 5 := by
  simp only [isInt, Bool.or_eq_true, beq_iff_eq, or_assoc]

theorem padBad_iff (c k : Nat) : padBad c k = true ↔ (c = 0 ∧ k ≠ 0) ∨ ((c = 1 ∨ c = 2 ∨ c = 4 ∨ c = 5) ∧ k = 3) := by
  unfold padBad
  by_cases h0 : c = 0
  · subst h0
    simp
  · rw [if_neg h0]
    by_cases hc : isInt c = true
    · rw [if_pos hc, beq_iff_eq, ← isInt_iff]
      tauto
    · rw [if_neg hc, ← isInt_iff]
      tauto

/-- The sign of weight `j` under an index. -/
def weightNeg (x : BitVec 16) (j : Nat) : Bool :=
  if j = 7 then x.getLsbD 1 ^^ x.getLsbD 2 ^^ x.getLsbD 3 ^^ x.getLsbD 4 ^^ x.getLsbD 5 ^^ x.getLsbD 6 ^^ x.getLsbD 7 else x.getLsbD (j + 1)

theorem signs_testBit (x : BitVec 16) {j : Nat} (h : j < 7) : (bitsOf x 7 1).testBit j = x.getLsbD (j + 1) := by
  have hb : bitsOf x 7 1 = x.toNat / 2 ^ 1 % 2 ^ 7 := bitsOf_eq ..
  rw [hb, Nat.testBit_mod_two_pow, decide_eq_true h, Bool.true_and, Nat.testBit_div_two_pow, BitVec.testBit_toNat]

theorem cb2Weight_eq (x row : BitVec 16) {j : Nat} (hj : j < 8) (s : Int) : cb2Weight x row j s =
    .fin ((if weightNeg x j then -(4 * (bitsOf row (2 * j + 1) (2 * j) : Int) + 2) else 4 * (bitsOf row (2 * j + 1) (2 * j) : Int) + 2) + (if x.getLsbD 0 then 1 else 0)) (s - 2) := by
  have hpar : (List.range 7).foldl (fun a i => a != ((bitsOf x 7 1).testBit i)) false =
      (x.getLsbD 1 ^^ x.getLsbD 2 ^^ x.getLsbD 3 ^^ x.getLsbD 4 ^^ x.getLsbD 5 ^^ x.getLsbD 6 ^^ x.getLsbD 7) := by
    have hr : List.range 7 = [0, 1, 2, 3, 4, 5, 6] := rfl
    simp only [hr, List.foldl_cons, List.foldl_nil, signs_testBit, Nat.reduceLT, Nat.reduceAdd, Bool.bne_eq_xor, Bool.false_xor]
  have hneg : (if j = 7 then (List.range 7).foldl (fun a i => a != ((bitsOf x 7 1).testBit i)) false else (bitsOf x 7 1).testBit j) = weightNeg x j := by
    unfold weightNeg
    split
    · exact hpar
    · exact signs_testBit x (by omega)
  rw [← hneg]
  rfl

theorem cb2Weight_is (x row : BitVec 16) {j : Nat} (hj : j < 8) (s : Int) : (cb2Weight x row j s).Is
    (((if weightNeg x j then -1 else 1) * ((row.toNat / 2 ^ (2 * j) % 4 : Nat) + 1 / 2) + (if x.getLsbD 0 then 1 / 4 else 0)) * 2 ^ s) := by
  have hm : bitsOf row (2 * j + 1) (2 * j) = row.toNat / 2 ^ (2 * j) % 4 := by
    rw [bitsOf_eq, show 2 * j + 1 + 1 - 2 * j = 2 by omega]
    rfl
  have hs : (2 : ℚ) ^ (s - 2) = 2 ^ s / 4 := by rw [zpow_sub₀ (by norm_num)]; norm_num
  rw [cb2Weight_eq x row hj, XVal.fin_is_iff, hm, hs]
  obtain ⟨n, hn⟩ : ∃ n, n = row.toNat / 2 ^ (2 * j) % 4 := ⟨_, rfl⟩
  rw [← hn]
  cases weightNeg x j <;> cases x.getLsbD 0 <;> simp <;> ring

end Sys2Proof.Machine
end

section
/-! O59 (R57, R62, R64): the values of patterns. -/

namespace Sys2Proof.Machine

/-- The factor of a sign bit. -/
def signOf (n : Bool) : ℚ := if n then -1 else 1

/-- The magnitude of a pattern's low bits: `fb` fraction bits, an exponent above them, and the least place `l`. -/
def magOf (fb : Nat) (l : Int) (n : Nat) : ℚ :=
  if n / 2 ^ fb = 0 then n * 2 ^ l else ((n % 2 ^ fb + 2 ^ fb : Nat) : ℚ) * 2 ^ (l + (n / 2 ^ fb : Nat) - 1)

/-- The significand and the place of a pattern's low bits. -/
theorem magOf_eq (fb : Nat) (l : Int) (n : Nat) : magOf fb l n =
    ((if n / 2 ^ fb = 0 then n % 2 ^ fb else n % 2 ^ fb + 2 ^ fb : Nat) : ℚ) * 2 ^ (if n / 2 ^ fb = 0 then l else l + (n / 2 ^ fb : Nat) - 1) := by
  unfold magOf
  split
  · rename_i h
    rw [Nat.mod_eq_of_lt ((Nat.div_eq_zero_iff.mp h).resolve_left (by positivity))]
  · rfl

theorem signed_is (neg : Bool) (m : Nat) (e : Int) : (XVal.fin (if neg then -(m : Int) else m) e).Is (signOf neg * (m * 2 ^ e)) := by
  rw [XVal.fin_is_iff, signOf]
  cases neg <;> simp

/-- The same with signed zeros. -/
theorem signedZeros_is (neg : Bool) (m : Nat) (e : Int) :
    (if m = 0 then (if neg then XVal.negZero else .zero) else .fin (if neg then -(m : Int) else m) e).Is (signOf neg * (m * 2 ^ e)) := by
  by_cases h : m = 0
  · rw [if_pos h, h, Nat.cast_zero, zero_mul, mul_zero]
    exact XVal.signedZero_is neg
  · rw [if_neg h]
    exact signed_is neg m e

/-! ### f32 (R59) -/

section
variable (b : BitVec 32)

theorem f32_exponent : bitsOf b 30 23 = b.toNat % 2 ^ 31 / 2 ^ 23 := by
  rw [bitsOf_eq]
  omega

theorem f32_fraction : bitsOf b 22 0 = b.toNat % 2 ^ 31 % 2 ^ 23 := by
  rw [bitsOf_eq]
  omega

/-- The significand of a finite f32. -/
def f32Sig : Nat := if bitsOf b 30 23 = 0 then bitsOf b 22 0 else bitsOf b 22 0 + 2 ^ 23

/-- The place of a finite f32's last bit. -/
def f32Place : Int := if bitsOf b 30 23 = 0 then -149 else (bitsOf b 30 23 : Int) - 150

theorem ofF32_finite (h : bitsOf b 30 23 ≠ 255) : ofF32 b = if f32Sig b = 0 then (if b.getLsbD 31 then .negZero else .zero)
    else .fin (if b.getLsbD 31 then -(f32Sig b : Int) else f32Sig b) (f32Place b) := if_neg h

/-- An exponent's place, counted from the least one. -/
theorem place_eq (ex : Nat) (l : Int) : (if ex = 0 then l else (ex : Int) + (l - 1)) = if ex = 0 then l else l + (ex : Int) - 1 := by
  split <;> omega

theorem ofF32_is (h : b.toNat / 2 ^ 23 % 2 ^ 8 ≠ 255) : (ofF32 b).Is (signOf (b.getLsbD 31) * magOf 23 (-149) (b.toNat % 2 ^ 31)) := by
  have h255 : bitsOf b 30 23 ≠ 255 := by
    rw [f32_exponent]
    omega
  rw [ofF32_finite b h255, magOf_eq, ← f32_exponent, ← f32_fraction, ← place_eq]
  exact signedZeros_is (b.getLsbD 31) (f32Sig b) (f32Place b)

theorem ofF32_special (h : b.toNat / 2 ^ 23 % 2 ^ 8 = 255) : ofF32 b = if b.toNat % 2 ^ 23 = 0 then .inf (b.getLsbD 31) else .nan := by
  have h255 : bitsOf b 30 23 = 255 := by
    rw [f32_exponent]
    omega
  have hfr : bitsOf b 22 0 = b.toNat % 2 ^ 23 := by
    rw [f32_fraction]
    omega
  rw [← hfr]
  exact if_pos h255

theorem ofF32_negZero_iff : ofF32 b = .negZero ↔ b = 0x80000000 := by
  constructor
  · intro h
    have h255 : bitsOf b 30 23 ≠ 255 := by
      intro h255
      have heq : ofF32 b = if bitsOf b 22 0 = 0 then .inf (b.getLsbD 31) else .nan := if_pos h255
      rw [heq] at h
      split at h <;> exact nomatch h
    rw [ofF32_finite b h255] at h
    split at h
    · rename_i hm
      unfold f32Sig at hm
      obtain ⟨hex, hm⟩ : bitsOf b 30 23 = 0 ∧ bitsOf b 22 0 = 0 := by
        split at hm <;> omega
      rw [f32_exponent] at hex
      rw [f32_fraction] at hm
      split at h
      · rename_i hs
        rw [← BitVec.testBit_toNat, Nat.testBit_eq_decide_div_mod_eq, decide_eq_true_iff] at hs
        exact BitVec.eq_of_toNat_eq (show b.toNat = 2147483648 by omega)
      · exact nomatch h
    · exact nomatch h
  · rintro rfl
    rfl

end

/-! ### lf8 (R62) -/

theorem ofLf8_is {b : BitVec 8} (h : b ≠ 0x80) : (ofLf8 b).Is (signOf (b.getLsbD 7) * magOf 3 (-9) (b.toNat % 2 ^ 7)) := by
  have hex : bitsOf b 6 3 = b.toNat % 2 ^ 7 / 2 ^ 3 := by
    rw [bitsOf_eq]
    omega
  have hfr : bitsOf b 2 0 = b.toNat % 2 ^ 7 % 2 ^ 3 := by
    rw [bitsOf_eq]
    omega
  have heq : ofLf8 b = .fin (if b.getLsbD 7 then -((if bitsOf b 6 3 = 0 then bitsOf b 2 0 else bitsOf b 2 0 + 8 : Nat) : Int) else
      (if bitsOf b 6 3 = 0 then bitsOf b 2 0 else bitsOf b 2 0 + 8 : Nat)) (if bitsOf b 6 3 = 0 then -9 else (bitsOf b 6 3 : Int) - 10) := if_neg h
  rw [heq, magOf_eq, ← hex, ← hfr, ← place_eq]
  exact signed_is ..

end Sys2Proof.Machine
end

section
/-! O59 (R57, R62, R64): the values of patterns under each code. -/

namespace Sys2Proof.Machine

theorem scaled_patIs {c : Nat} {s : Int} {p : BitVec 32} {x : XVal} {v : ℚ} (h : patValue c s p = some (x.scale s)) (hx : x.Is v) :
    PatIs c s p (v * 2 ^ s) := ⟨_, h, XVal.scale_is hx s⟩

/-! ### Integers (R57) -/

/-- The value of a signed integer's bits. -/
theorem toInt_value {w : Nat} (x : BitVec (w + 1)) : (x.toInt : ℚ) = (x.toNat : ℚ) - (if 2 ^ w ≤ x.toNat then 2 ^ (w + 1) else 0 : ℚ) := by
  rw [BitVec.toInt_eq_toNat_cond, pow_succ]
  by_cases h : 2 ^ w ≤ x.toNat
  · rw [if_neg (by omega), if_pos h]
    push_cast
    ring
  · rw [if_pos (by omega), if_neg h, sub_zero]
    rfl

section
variable (s : Int) (p : BitVec 32)

theorem patIs_int {c : Nat} {m : Int} {v : ℚ} (h : patValue c s p = some (.fin m s)) (hm : (m : ℚ) = v) : PatIs c s p (v * 2 ^ s) :=
  ⟨_, h, XVal.fin_is_iff.mpr (by rw [hm])⟩

theorem patIs_i8 : PatIs 1 s p ((((p.toNat % 2 ^ 8 : Nat) : ℚ) - (if 128 ≤ p.toNat % 2 ^ 8 then 256 else 0 : ℚ)) * 2 ^ s) := by
  refine patIs_int s p rfl ?_
  rw [patInt, toInt_value, BitVec.toNat_setWidth]
  norm_num

theorem patIs_u8 : PatIs 2 s p ((p.toNat % 2 ^ 8 : Nat) * 2 ^ s) := by
  refine patIs_int s p rfl ?_
  rw [patInt, bitsOf_eq, pow_zero, Nat.div_one, Int.cast_natCast]

theorem patIs_i32 : PatIs 4 s p (((p.toNat : ℚ) - (if (2 ^ 31 : Nat) ≤ p.toNat then 2 ^ 32 else 0 : ℚ)) * 2 ^ s) :=
  patIs_int s p rfl (toInt_value p)

theorem patIs_u32 : PatIs 5 s p ((p.toNat : ℚ) * 2 ^ s) := patIs_int s p rfl rfl

/-! ### lf8 (R62) -/

theorem setWidth_eq_negZero_iff : p.setWidth 8 = 0x80 ↔ p.toNat % 2 ^ 8 = 0x80 := by
  rw [← BitVec.toNat_inj, BitVec.toNat_setWidth]
  rfl

theorem patValue_lf8_nan (h : p.toNat % 2 ^ 8 = 0x80) : patValue 3 s p = some .nan := by
  have hn : ofLf8 (p.setWidth 8) = .nan := if_pos ((setWidth_eq_negZero_iff p).mpr h)
  rw [patValue, hn]
  rfl

theorem lf8_sign : (p.setWidth 8).getLsbD 7 = p.getLsbD 7 := by
  rw [BitVec.getLsbD_setWidth]
  rfl

theorem patIs_lf8 (h : p.toNat % 2 ^ 8 ≠ 0x80) : PatIs 3 s p (signOf (p.getLsbD 7) * magOf 3 (-9) (p.toNat % 2 ^ 7) * 2 ^ s) := by
  have hv := ofLf8_is (mt (setWidth_eq_negZero_iff p).mp h)
  rw [lf8_sign, BitVec.toNat_setWidth, Nat.mod_mod_of_dvd _ (by norm_num)] at hv
  exact scaled_patIs rfl hv

/-! ### f32 (R59) -/

theorem patIs_f32 (h : p.toNat / 2 ^ 23 % 2 ^ 8 ≠ 255) : PatIs 6 s p (signOf (p.getLsbD 31) * magOf 23 (-149) (p.toNat % 2 ^ 31) * 2 ^ s) :=
  scaled_patIs rfl (ofF32_is p h)

theorem patValue_f32_special (h : p.toNat / 2 ^ 23 % 2 ^ 8 = 255) : patValue 6 s p = some (if p.toNat % 2 ^ 23 = 0 then .inf (p.getLsbD 31) else .nan) := by
  rw [patValue, ofF32_special p h]
  split <;> rfl

theorem scale_eq_negZero_iff (x : XVal) : x.scale s = .negZero ↔ x = .negZero := by cases x <;> simp [XVal.scale]

theorem patValue_negZero_iff : patValue 6 s p = some .negZero ↔ p = 0x80000000 := by
  rw [patValue, Option.some_inj, scale_eq_negZero_iff, ofF32_negZero_iff]

theorem patValue_none {c : Nat} (h : c = 0 ∨ 7 ≤ c) : patValue c s p = none := by
  obtain rfl | h := h
  · rfl
  · obtain ⟨k, rfl⟩ := Nat.exists_eq_add_of_le' h
    rfl

end

/-! ### The formulas of the statement -/

theorem magOf_f32 (n : Nat) : magOf 23 (-149) (n % 2 ^ 31) = if n / 2 ^ 23 % 2 ^ 8 = 0 then ((n % 2 ^ 23 : Nat) : ℚ) / 2 ^ 23 * 2 ^ (-126 : Int) else
    (1 + ((n % 2 ^ 23 : Nat) : ℚ) / 2 ^ 23) * 2 ^ (((n / 2 ^ 23 % 2 ^ 8 : Nat) : Int) - 127) := by
  have he : n % 2 ^ 31 / 2 ^ 23 = n / 2 ^ 23 % 2 ^ 8 := by omega
  have hf : n % 2 ^ 31 % 2 ^ 23 = n % 2 ^ 23 := by omega
  rw [magOf_eq, he, hf]
  generalize n / 2 ^ 23 % 2 ^ 8 = e
  generalize n % 2 ^ 23 = f
  split
  · norm_num [zpow_neg]
    ring
  · rw [show (-149 : Int) + e - 1 = (e - 127) - 23 by ring, zpow_sub₀ (by norm_num)]
    push_cast
    norm_num
    ring

theorem magOf_lf8 (n : Nat) : magOf 3 (-9) (n % 2 ^ 7) = if n % 2 ^ 8 / 8 % 16 = 0 then ((n % 2 ^ 8 % 8 : Nat) : ℚ) / 8 * 2 ^ (-6 : Int) else
    (1 + ((n % 2 ^ 8 % 8 : Nat) : ℚ) / 8) * 2 ^ (((n % 2 ^ 8 / 8 % 16 : Nat) : Int) - 7) := by
  have he : n % 2 ^ 7 / 2 ^ 3 = n % 2 ^ 8 / 8 % 16 := by omega
  have hf : n % 2 ^ 7 % 2 ^ 3 = n % 2 ^ 8 % 8 := by omega
  rw [magOf_eq, he, hf]
  generalize n % 2 ^ 8 / 8 % 16 = e
  generalize n % 2 ^ 8 % 8 = f
  split
  · norm_num [zpow_neg]
    ring
  · rw [show (-9 : Int) + e - 1 = (e - 7) - 3 by ring, zpow_sub₀ (by norm_num)]
    push_cast
    ring

end Sys2Proof.Machine
end

section
/-! O59 (R59, R63, R70): rounding a magnitude to a number of significant bits. -/

namespace Sys2Proof.Machine

/-- The modes that round a magnitude of this sign away from zero. -/
def Rnd.Away (mode : Rnd) (neg : Bool) : Prop := (mode = .ru ∧ neg = false) ∨ (mode = .rd ∧ neg = true)

/-- Whether the part cut off, `r` of which `half` is a half, raises the quotient `q`. -/
def roundsUp (mode : Rnd) (neg : Bool) (half q r : Nat) : Bool :=
  match mode with
  | .ne => decide (half < r) || (r == half && q % 2 == 1)
  | .rz => false
  | .ru => r != 0 && !neg
  | .rd => r != 0 && neg

/-- How a magnitude of `lo + t` units goes to `lo` or to `lo + 1`. -/
structure Splits (mode : Rnd) (neg : Bool) (lo : Nat) (t : ℚ) (up nx : Bool) : Prop where
  nonneg : 0 ≤ t
  lt_one : t < 1
  exact : nx = false ↔ t = 0
  half_up : mode = .ne → up = true → 1 / 2 ≤ t ∧ (t = 1 / 2 → lo % 2 = 1)
  half_down : mode = .ne → up = false → t ≤ 1 / 2 ∧ (t = 1 / 2 → lo % 2 = 0)
  away : mode.Away neg → up = nx
  toward : mode ≠ .ne → ¬ mode.Away neg → up = false

/-- Nothing is cut off a whole number of units. -/
theorem splits_whole (mode : Rnd) (neg : Bool) (lo : Nat) : Splits mode neg lo 0 false false where
  nonneg := le_rfl
  lt_one := zero_lt_one
  exact := ⟨fun _ => rfl, fun _ => rfl⟩
  half_up _ h := nomatch h
  half_down _ _ := ⟨by norm_num, fun h => by norm_num at h⟩
  away _ := rfl
  toward _ _ := rfl

theorem roundsUp_away {mode : Rnd} {neg : Bool} (h : mode.Away neg) (half q r : Nat) : roundsUp mode neg half q r = (r != 0) := by
  obtain ⟨rfl, rfl⟩ | ⟨rfl, rfl⟩ := h <;> exact Bool.and_true _

theorem roundsUp_toward {mode : Rnd} {neg : Bool} (h : mode ≠ .ne) (h' : ¬ mode.Away neg) (half q r : Nat) : roundsUp mode neg half q r = false := by
  cases mode with
  | ne => exact absurd rfl h
  | rz => rfl
  | ru =>
    cases neg with
    | true => exact Bool.and_false _
    | false => exact absurd (.inl ⟨rfl, rfl⟩) h'
  | rd =>
    cases neg with
    | true => exact absurd (.inr ⟨rfl, rfl⟩) h'
    | false => exact Bool.and_false _

theorem roundsUp_nearest (neg : Bool) (half q r : Nat) : roundsUp .ne neg half q r = true ↔ half < r ∨ (r = half ∧ q % 2 = 1) := by
  rw [roundsUp, Bool.or_eq_true, decide_eq_true_iff, Bool.and_eq_true, beq_iff_eq, beq_iff_eq]

/-- Cutting off `sh` bits. -/
theorem splits_cut (mode : Rnd) (neg : Bool) (mag sh : Nat) :
    Splits mode neg (mag / 2 ^ (sh + 1)) (((mag % 2 ^ (sh + 1) : Nat) : ℚ) / 2 ^ (sh + 1))
      (roundsUp mode neg (2 ^ sh) (mag / 2 ^ (sh + 1)) (mag % 2 ^ (sh + 1))) (mag % 2 ^ (sh + 1) != 0) := by
  have hr : mag % 2 ^ (sh + 1) < 2 ^ (sh + 1) := Nat.mod_lt _ (by positivity)
  obtain ⟨r, hrr⟩ : ∃ r, r = mag % 2 ^ (sh + 1) := ⟨_, rfl⟩
  obtain ⟨q, hq⟩ : ∃ q, q = mag / 2 ^ (sh + 1) := ⟨_, rfl⟩
  rw [← hrr] at hr
  rw [← hrr, ← hq]
  have hpos : (0 : ℚ) < 2 ^ (sh + 1) := by positivity
  have hhalf : (1 / 2 : ℚ) = ((2 ^ sh : Nat) : ℚ) / 2 ^ (sh + 1) := by
    rw [Nat.cast_pow, Nat.cast_ofNat, pow_succ]
    field_simp
  have hle (x y : Nat) : (x : ℚ) / 2 ^ (sh + 1) ≤ y / 2 ^ (sh + 1) ↔ x ≤ y := by rw [div_le_div_iff_of_pos_right hpos, Nat.cast_le]
  have heq (x y : Nat) : (x : ℚ) / 2 ^ (sh + 1) = y / 2 ^ (sh + 1) ↔ x = y := by rw [div_left_inj' hpos.ne', Nat.cast_inj]
  refine ⟨by positivity, ?_, ?_, ?_, ?_, fun h => roundsUp_away h .., fun h h' => roundsUp_toward h h' ..⟩
  · rw [div_lt_one hpos]
    exact_mod_cast hr
  · rw [div_eq_zero_iff, or_iff_left hpos.ne', Nat.cast_eq_zero, bne_eq_false_iff_eq]
  · rintro rfl hup
    rw [roundsUp_nearest] at hup
    rw [hhalf, hle, heq]
    omega
  · rintro rfl hdown
    rw [← Bool.not_eq_true, roundsUp_nearest] at hdown
    rw [hhalf, hle, heq]
    omega

/-! ### The grid of a format -/

/-- The magnitudes of `n + 1` significant bits with no place below the least. -/
def Grid (n : Nat) (emin : Option Int) (x : ℚ) : Prop := ∃ (q : Nat) (k : Int), q < 2 ^ (n + 1) ∧ (∀ l, emin = some l → l ≤ k) ∧ x = q * 2 ^ k

/-- No magnitude of the grid lies strictly between two neighbours. -/
theorem Grid.gap {n : Nat} {emin : Option Int} {x : ℚ} (hx : Grid n emin x) {lo : Nat} {qe : Int} (hn : emin = some qe ∨ 2 ^ n ≤ lo) :
    x ≤ lo * 2 ^ qe ∨ (lo + 1) * 2 ^ qe ≤ x := by
  obtain ⟨q, k, hq, hk, rfl⟩ := hx
  have hU := two_zpow_pos qe
  by_cases h : qe ≤ k
  · obtain ⟨d, rfl⟩ := Int.le.dest h
    rw [zpow_add₀ (by norm_num), zpow_natCast, mul_comm ((2 : ℚ) ^ qe), ← mul_assoc, mul_le_mul_iff_left₀ hU, mul_le_mul_iff_left₀ hU]
    exact_mod_cast Nat.lt_or_ge lo (q * 2 ^ d) |>.symm
  · left
    have hlo : 2 ^ n ≤ lo := hn.resolve_left fun he => h (hk qe he)
    have h1 : (q : ℚ) ≤ 2 * lo := by exact_mod_cast (by rw [pow_succ] at hq; omega : q ≤ 2 * lo)
    have h2 : (2 : ℚ) ^ (k + 1) ≤ 2 ^ qe := zpow_le_zpow_right₀ (by norm_num) (by omega)
    calc (q : ℚ) * 2 ^ k ≤ 2 * lo * 2 ^ k := mul_le_mul_of_nonneg_right h1 (two_zpow_pos k).le
      _ = lo * 2 ^ (k + 1) := by rw [zpow_add_one₀ (by norm_num)]; ring
      _ ≤ lo * 2 ^ qe := mul_le_mul_of_nonneg_left h2 (Nat.cast_nonneg _)

/-! ### A rounded magnitude -/

/-- `q * 2 ^ qe` is what the mode makes of the magnitude `a`; `nx` says that it differs. -/
structure Rounds (n : Nat) (emin : Option Int) (mode : Rnd) (neg : Bool) (a : ℚ) (q : Nat) (qe : Int) (nx : Bool) : Prop where
  place : ∀ l, emin = some l → l ≤ qe
  le : q ≤ 2 ^ (n + 1)
  normal : emin = some qe ∨ 2 ^ n ≤ q
  exact : nx = false ↔ a = q * 2 ^ qe
  nearest : mode = .ne → ∀ x, Grid n emin x → |a - q * 2 ^ qe| ≤ |a - x| ∧ (|a - q * 2 ^ qe| = |a - x| → x = q * 2 ^ qe ∨ q % 2 = 0)
  away : mode.Away neg → a ≤ q * 2 ^ qe ∧ ∀ x, Grid n emin x → a ≤ x → q * 2 ^ qe ≤ x
  toward : mode ≠ .ne → ¬ mode.Away neg → q * 2 ^ qe ≤ a ∧ ∀ x, Grid n emin x → x ≤ a → x ≤ q * 2 ^ qe

section
variable {n : Nat} {emin : Option Int} {mode : Rnd} {neg : Bool} {lo : Nat} {t : ℚ} {up nx : Bool}

/-- What is exact is not raised. -/
theorem Splits.up_of_exact (h : Splits mode neg lo 0 up nx) : up = false := by
  cases up with
  | false => rfl
  | true =>
    have hnx : nx = false := h.exact.mpr rfl
    by_cases hne : mode = .ne
    · have := (h.half_up hne rfl).1
      norm_num at this
    · by_cases haway : mode.Away neg
      · exact (h.away haway).trans hnx
      · exact h.toward hne haway

theorem Splits.rounds (h : Splits mode neg lo t up nx) {qe : Int} (hplace : ∀ l, emin = some l → l ≤ qe) (hlt : lo < 2 ^ (n + 1))
    (hn : emin = some qe ∨ 2 ^ n ≤ lo) : Rounds n emin mode neg ((lo + t) * 2 ^ qe) (if up then lo + 1 else lo) qe nx := by
  have hU := two_zpow_pos qe
  obtain ⟨U, hUe⟩ : ∃ U : ℚ, U = 2 ^ qe := ⟨_, rfl⟩
  have hgap (x : ℚ) (hx : Grid n emin x) : x ≤ lo * U ∨ lo * U + U ≤ x := by
    have := hx.gap hn
    rwa [← hUe, add_mul, one_mul] at this
  have hup : ((if up then lo + 1 else lo : Nat) : ℚ) * 2 ^ qe = if up then lo * U + U else lo * U := by
    rw [← hUe]
    cases up
    · rfl
    · simp [add_mul]
  have hT0 : 0 ≤ t * U := mul_nonneg h.nonneg (hUe ▸ hU.le)
  have hT1 : t * U < U := by
    rw [← hUe] at hU
    nlinarith [h.lt_one]
  have hhalf : 1 / 2 ≤ t ↔ U ≤ 2 * (t * U) := by
    rw [← hUe] at hU
    constructor <;> intro <;> nlinarith
  have hhalf' : t ≤ 1 / 2 ↔ 2 * (t * U) ≤ U := by
    rw [← hUe] at hU
    constructor <;> intro <;> nlinarith
  have hzero : t = 0 ↔ t * U = 0 := by
    rw [mul_eq_zero, or_iff_left (hUe ▸ hU.ne')]
  rw [← hUe] at hU
  have ha : (lo + t) * (2 : ℚ) ^ qe = lo * U + t * U := by rw [← hUe, add_mul]
  obtain ⟨A, hA⟩ : ∃ A, A = lo * U := ⟨_, rfl⟩
  obtain ⟨T, hT⟩ : ∃ T, T = t * U := ⟨_, rfl⟩
  rw [← hA] at hgap hup
  rw [← hT] at hT0 hT1 hhalf hhalf' hzero
  rw [ha, ← hA, ← hT]
  have htie : U = 2 * T → t = 1 / 2 := fun he => le_antisymm (hhalf'.mpr he.ge) (hhalf.mpr he.le)
  refine ⟨hplace, by split <;> omega, hn.imp_right fun hlo => by split <;> omega, ?_, fun hne x hx => ?_, fun haway => ?_, fun hne haway => ?_⟩
  · rw [hup]
    constructor
    · intro hnx
      have ht := h.exact.mp hnx
      subst ht
      rw [h.up_of_exact, hzero.mp rfl, add_zero]
      rfl
    · intro he
      rw [h.exact, hzero]
      split at he <;> linarith
  · rw [hup]
    cases up with
    | true =>
      obtain ⟨h1, h2⟩ := h.half_up hne rfl
      rw [hhalf] at h1
      have hleft : |A + T - (A + U)| = U - T := by rw [abs_of_nonpos (by linarith)]; ring
      rw [if_pos rfl, if_pos rfl, hleft]
      rcases hgap x hx with hle | hge
      · rw [abs_of_nonneg (by linarith : 0 ≤ A + T - x)]
        refine ⟨by linarith, fun he => .inr ?_⟩
        have := h2 (htie (by linarith))
        omega
      · rw [abs_of_nonpos (by linarith : A + T - x ≤ 0)]
        exact ⟨by linarith, fun he => .inl (by linarith)⟩
    | false =>
      obtain ⟨h1, h2⟩ := h.half_down hne rfl
      rw [hhalf'] at h1
      have hleft : |A + T - A| = T := by rw [abs_of_nonneg (by linarith)]; ring
      rw [if_neg Bool.false_ne_true, if_neg Bool.false_ne_true, hleft]
      rcases hgap x hx with hle | hge
      · rw [abs_of_nonneg (by linarith : 0 ≤ A + T - x)]
        exact ⟨by linarith, fun he => .inl (by linarith)⟩
      · rw [abs_of_nonpos (by linarith : A + T - x ≤ 0)]
        exact ⟨by linarith, fun he => .inr (h2 (htie (by linarith)))⟩
  · rw [hup, h.away haway]
    cases nx with
    | true =>
      have ht : T ≠ 0 := fun he => Bool.false_ne_true (h.exact.mpr (hzero.mpr he)).symm
      refine ⟨by rw [if_pos rfl]; linarith, fun x hx hle => ?_⟩
      rw [if_pos rfl]
      rcases hgap x hx with hlo | hge
      · exact absurd (by linarith : T = 0) ht
      · exact hge
    | false =>
      have ht : T = 0 := hzero.mp (h.exact.mp rfl)
      refine ⟨by rw [if_neg Bool.false_ne_true, ht, add_zero], fun x _ hle => ?_⟩
      rw [if_neg Bool.false_ne_true]
      linarith
  · rw [hup, h.toward hne haway, if_neg Bool.false_ne_true]
    refine ⟨by linarith, fun x hx hle => ?_⟩
    rcases hgap x hx with hlo | hge
    · exact hlo
    · linarith

end

/-! ### `roundMag` rounds (R59) -/

/-- The place of the last bit kept. -/
def roundPlace (mag : Nat) (e : Int) (p : Nat) (emin : Option Int) : Int :=
  match emin with
  | none => (Nat.log2 mag : Int) - (p - 1) + e
  | some l => if (Nat.log2 mag : Int) - (p - 1) + e < l then l else (Nat.log2 mag : Int) - (p - 1) + e

theorem roundMag_eq (neg : Bool) (mag : Nat) (e : Int) (p : Nat) (emin : Option Int) (mode : Rnd) : roundMag neg mag e p emin mode =
    if roundPlace mag e p emin ≤ e then (mag * 2 ^ (e - roundPlace mag e p emin).toNat, roundPlace mag e p emin, false)
    else (if roundsUp mode neg (2 ^ ((roundPlace mag e p emin - e).toNat - 1)) (mag / 2 ^ (roundPlace mag e p emin - e).toNat)
        (mag % 2 ^ (roundPlace mag e p emin - e).toNat) then mag / 2 ^ (roundPlace mag e p emin - e).toNat + 1 else mag / 2 ^ (roundPlace mag e p emin - e).toNat,
      roundPlace mag e p emin, mag % 2 ^ (roundPlace mag e p emin - e).toNat != 0) := by
  cases emin <;> cases mode <;> rfl

/-- The place is the least one, or leaves all the bits of the format, and is never below either. -/
theorem roundPlace_cases (mag : Nat) (e : Int) (n : Nat) (emin : Option Int) :
    (roundPlace mag e (n + 1) emin = (Nat.log2 mag : Int) - n + e ∨ (emin = some (roundPlace mag e (n + 1) emin) ∧ (Nat.log2 mag : Int) - n + e < roundPlace mag e (n + 1) emin)) ∧
      ∀ l, emin = some l → l ≤ roundPlace mag e (n + 1) emin := by
  have hn : ((n + 1 : Nat) : Int) - 1 = n := by omega
  cases emin with
  | none => exact ⟨.inl (by rw [roundPlace, hn]), fun _ h => nomatch h⟩
  | some l =>
    rw [roundPlace, hn]
    split
    · exact ⟨.inr ⟨rfl, ‹_›⟩, fun _ h => by cases h; exact le_rfl⟩
    · exact ⟨.inl rfl, fun _ h => by cases h; omega⟩

theorem roundMag_rounds (neg : Bool) {mag : Nat} (hmag : mag ≠ 0) (e : Int) (n : Nat) (emin : Option Int) (mode : Rnd) :
    Rounds n emin mode neg (mag * 2 ^ e) (roundMag neg mag e (n + 1) emin mode).1 (roundMag neg mag e (n + 1) emin mode).2.1
      (roundMag neg mag e (n + 1) emin mode).2.2 := by
  obtain ⟨hcases, hplace⟩ := roundPlace_cases mag e n emin
  have hlow : 2 ^ Nat.log2 mag ≤ mag := Nat.log2_self_le hmag
  have hhigh : mag < 2 ^ (Nat.log2 mag + 1) := Nat.lt_log2_self
  rw [roundMag_eq]
  obtain ⟨qe, hqe⟩ : ∃ qe, qe = roundPlace mag e (n + 1) emin := ⟨_, rfl⟩
  rw [← hqe] at hcases hplace ⊢
  obtain ⟨L, hL⟩ : ∃ L, L = Nat.log2 mag := ⟨_, rfl⟩
  rw [← hL] at hcases hlow hhigh
  split
  · rename_i hle
    obtain ⟨d, hd⟩ := Int.le.dest hle
    have hsub : (e - qe).toNat = d := by omega
    rw [hsub]
    have hval : (mag : ℚ) * 2 ^ e = (((mag * 2 ^ d : Nat) : ℚ) + 0) * 2 ^ qe := by
      rw [← hd, zpow_add₀ (by norm_num), zpow_natCast]
      push_cast
      ring
    rw [hval]
    refine (splits_whole mode neg (mag * 2 ^ d)).rounds hplace ?_ ?_
    · calc mag * 2 ^ d < 2 ^ (L + 1) * 2 ^ d := Nat.mul_lt_mul_of_pos_right hhigh (by positivity)
        _ = 2 ^ (L + 1 + d) := (pow_add ..).symm
        _ ≤ 2 ^ (n + 1) := Nat.pow_le_pow_right (by norm_num) (by omega)
    · refine hcases.symm.imp (·.1) fun htop => ?_
      calc 2 ^ n = 2 ^ (L + d) := by rw [show n = L + d by omega]
        _ = 2 ^ L * 2 ^ d := pow_add ..
        _ ≤ mag * 2 ^ d := Nat.mul_le_mul_right _ hlow
  · rename_i hgt
    obtain ⟨sh, hsh⟩ : ∃ sh : Nat, qe = e + (sh + 1 : Nat) := ⟨(qe - e).toNat - 1, by omega⟩
    have hsub : (qe - e).toNat = sh + 1 := by omega
    rw [hsub, Nat.add_sub_cancel]
    have hdiv := Nat.div_add_mod mag (2 ^ (sh + 1))
    have hval : (mag : ℚ) * 2 ^ e = (((mag / 2 ^ (sh + 1) : Nat) : ℚ) + ((mag % 2 ^ (sh + 1) : Nat) : ℚ) / 2 ^ (sh + 1)) * 2 ^ qe := by
      have hq : (mag : ℚ) = 2 ^ (sh + 1) * ((mag / 2 ^ (sh + 1) : Nat) : ℚ) + ((mag % 2 ^ (sh + 1) : Nat) : ℚ) := by exact_mod_cast hdiv.symm
      have hqe2 : (2 : ℚ) ^ qe = 2 ^ e * 2 ^ (sh + 1) := by rw [hsh, zpow_add₀ (by norm_num), zpow_natCast]
      obtain ⟨P, hP⟩ : ∃ P : ℚ, P = 2 ^ (sh + 1) := ⟨_, rfl⟩
      have hP0 : P ≠ 0 := by rw [hP]; positivity
      rw [← hP] at hq hqe2
      rw [hqe2, ← hP]
      generalize ((mag / 2 ^ (sh + 1) : Nat) : ℚ) = x at hq ⊢
      generalize ((mag % 2 ^ (sh + 1) : Nat) : ℚ) = y at hq ⊢
      rw [hq]
      field_simp
    rw [hval]
    refine (splits_cut mode neg mag sh).rounds hplace ?_ ?_
    · rw [Nat.div_lt_iff_lt_mul (by positivity), ← pow_add]
      exact hhigh.trans_le (Nat.pow_le_pow_right (by norm_num) (by omega))
    · refine hcases.symm.imp (·.1) fun htop => ?_
      rw [Nat.le_div_iff_mul_le (by positivity), ← pow_add, show n + (sh + 1) = L by omega]
      exact hlow

end Sys2Proof.Machine
end

section
/-! O59 (R59, R63): where a rounded magnitude reaches a power of two, and what a format makes of it. -/

namespace Sys2Proof.Machine

section
variable {n : Nat} {emin : Option Int} {mode : Rnd} {neg : Bool} {a : ℚ} {q : Nat} {qe : Int} {nx : Bool}

theorem Grid.ofNat {q : Nat} {k : Int} (hq : q ≤ 2 ^ (n + 1)) (hk : ∀ l, emin = some l → l ≤ k) : Grid n emin (q * 2 ^ k) := by
  obtain hlt | rfl := Nat.lt_or_eq_of_le hq
  · exact ⟨q, k, hlt, hk, rfl⟩
  · refine ⟨2 ^ n, k + 1, Nat.pow_lt_pow_right (by norm_num) (Nat.lt_succ_self n), fun l hl => (hk l hl).trans (by omega), ?_⟩
    rw [zpow_add_one₀ (by norm_num)]
    push_cast
    ring

/-- A rounded magnitude stands on the grid. -/
theorem Rounds.grid (h : Rounds n emin mode neg a q qe nx) : Grid n emin (q * 2 ^ qe) := Grid.ofNat h.le h.place

/-- The last significand before a power of two is odd. -/
theorem odd_of_last {k : Int} (hn : n ≠ 0) (hq : q ≤ 2 ^ (n + 1)) (h : (q : ℚ) * 2 ^ qe = 2 ^ (n + 1) * 2 ^ k - 2 ^ k) : q % 2 = 1 := by
  obtain ⟨m, rfl⟩ := Nat.exists_eq_succ_of_ne_zero hn
  have hodd (x : Nat) (hx : (x : ℚ) = 2 ^ (m + 1 + 1) - 1) : x + 1 = 2 * (2 * 2 ^ m) := by
    have : ((x + 1 : Nat) : ℚ) = ((2 * (2 * 2 ^ m) : Nat) : ℚ) := by
      push_cast
      rw [hx]
      ring
    exact_mod_cast this
  rw [← sub_one_mul] at h
  rcases le_total qe k with hle | hle
  · obtain ⟨d, rfl⟩ := Int.le.dest hle
    rw [zpow_add₀ (by norm_num), mul_comm ((2 : ℚ) ^ qe), ← mul_assoc, mul_left_inj' (two_zpow_pos qe).ne', zpow_natCast] at h
    cases d with
    | zero =>
      rw [pow_zero, mul_one] at h
      have := hodd q h
      omega
    | succ d =>
      have hbig : (q : ℚ) ≤ 2 ^ (m + 1 + 1) := by exact_mod_cast hq
      have hd : (1 : ℚ) ≤ 2 ^ d := one_le_pow₀ (by norm_num)
      have hm : (1 : ℚ) ≤ 2 ^ m := one_le_pow₀ (by norm_num)
      rw [h, pow_succ (2 : ℚ) d, pow_succ, pow_succ] at hbig
      nlinarith
  · obtain ⟨d, rfl⟩ := Int.le.dest hle
    rw [zpow_add₀ (by norm_num), mul_comm ((2 : ℚ) ^ k), ← mul_assoc, mul_left_inj' (two_zpow_pos k).ne', zpow_natCast] at h
    have hx : ((q * 2 ^ d : Nat) : ℚ) = 2 ^ (m + 1 + 1) - 1 := by
      push_cast
      exact h
    have := hodd _ hx
    have hodd' : (q * 2 ^ d) % 2 = 1 := by omega
    rw [Nat.mul_mod] at hodd'
    rcases Nat.mod_two_eq_zero_or_one q with h0 | h1
    · rw [h0, Nat.zero_mul] at hodd'
      exact nomatch hodd'
    · exact h1

/-- Where the rounded magnitude reaches `2 ^ (n + 1)` units of a place. -/
theorem Rounds.reaches (h : Rounds n emin mode neg a q qe nx) (hn : n ≠ 0) {k : Int} (hk : ∀ l, emin = some l → l ≤ k) :
    2 ^ (n + 1) * 2 ^ k ≤ (q : ℚ) * 2 ^ qe ↔ (mode = .ne ∧ 2 ^ (n + 1) * 2 ^ k - 2 ^ k / 2 ≤ a) ∨ (mode.Away neg ∧ 2 ^ (n + 1) * 2 ^ k - 2 ^ k < a) ∨
      (mode ≠ .ne ∧ ¬ mode.Away neg ∧ 2 ^ (n + 1) * 2 ^ k ≤ a) := by
  have htop : Grid n emin (2 ^ (n + 1) * 2 ^ k) := by
    have := Grid.ofNat (n := n) (q := 2 ^ (n + 1)) le_rfl hk
    rwa [Nat.cast_pow, Nat.cast_ofNat] at this
  have hcast : ((2 ^ (n + 1) - 1 : Nat) : ℚ) = 2 ^ (n + 1) - 1 := by
    rw [Nat.cast_sub Nat.one_le_two_pow, Nat.cast_pow, Nat.cast_ofNat, Nat.cast_one]
  have hlast : Grid n emin (2 ^ (n + 1) * 2 ^ k - 2 ^ k) := by
    have := Grid.ofNat (n := n) (q := 2 ^ (n + 1) - 1) (Nat.sub_le ..) hk
    rwa [hcast, sub_one_mul] at this
  have hgap {x : ℚ} (hx : Grid n emin x) : x ≤ 2 ^ (n + 1) * 2 ^ k - 2 ^ k ∨ 2 ^ (n + 1) * 2 ^ k ≤ x := by
    have := hx.gap (lo := 2 ^ (n + 1) - 1) (qe := k) (.inr (by rw [pow_succ]; have := Nat.one_le_two_pow (n := n); omega))
    rwa [hcast, sub_one_mul, sub_add_cancel] at this
  have hD := two_zpow_pos k
  have hself := h.grid
  have hodd : (q : ℚ) * 2 ^ qe = 2 ^ (n + 1) * 2 ^ k - 2 ^ k → q % 2 = 1 := odd_of_last hn h.le
  obtain ⟨T, hT⟩ : ∃ T : ℚ, T = 2 ^ (n + 1) * 2 ^ k := ⟨_, rfl⟩
  obtain ⟨D, hDe⟩ : ∃ D : ℚ, D = 2 ^ k := ⟨_, rfl⟩
  rw [← hT, ← hDe] at hlast hgap hodd
  rw [← hT] at htop
  rw [← hDe] at hD
  rw [← hT, ← hDe]
  obtain ⟨W, hW⟩ : ∃ W, W = (q : ℚ) * 2 ^ qe := ⟨_, rfl⟩
  have hnear := h.nearest
  have haway := h.away
  have htoward := h.toward
  rw [← hW] at hself hodd hnear haway htoward ⊢
  by_cases hne : mode = .ne
  · have hna : ¬ mode.Away neg := by
      rw [hne]
      rintro (⟨hx, -⟩ | ⟨hx, -⟩) <;> exact nomatch hx
    have hiff : T ≤ W ↔ T - D / 2 ≤ a := by
      constructor
      · intro hle
        obtain ⟨h1, -⟩ := hnear hne _ hlast
        by_contra hlt
        rw [abs_of_nonpos (by linarith : a - W ≤ 0)] at h1
        rcases abs_cases (a - (T - D)) with ⟨he, -⟩ | ⟨he, -⟩ <;> rw [he] at h1 <;> linarith
      · intro hle
        by_contra hlt
        have hWle : W ≤ T - D := (hgap hself).resolve_right hlt
        obtain ⟨h1, h2⟩ := hnear hne _ htop
        rw [abs_of_nonneg (by linarith : 0 ≤ a - W)] at h1 h2
        rcases abs_cases (a - T) with ⟨he, -⟩ | ⟨he, -⟩ <;> rw [he] at h1 h2
        · linarith
        · have hWeq : W = T - D := by linarith
          have := hodd hWeq
          obtain hx | hx := h2 (by linarith)
          · linarith
          · omega
    rw [hiff]
    exact ⟨fun hx => .inl ⟨hne, hx⟩, fun hx => hx.elim (·.2) fun hx => hx.elim (fun hy => absurd hy.1 hna) fun hy => absurd hne hy.1⟩
  · by_cases ha : mode.Away neg
    · obtain ⟨h1, h2⟩ := haway ha
      have hiff : T ≤ W ↔ T - D < a := by
        constructor
        · intro hle
          by_contra hlt
          have := h2 _ hlast (not_lt.mp hlt)
          linarith
        · intro hlt
          exact (hgap hself).resolve_left (by linarith)
      rw [hiff]
      exact ⟨fun hx => .inr (.inl ⟨ha, hx⟩), fun hx => hx.elim (fun hy => absurd hy.1 hne) fun hx => hx.elim (·.2) fun hy => absurd ha hy.2.1⟩
    · obtain ⟨h1, h2⟩ := htoward hne ha
      have hiff : T ≤ W ↔ T ≤ a := ⟨fun hle => hle.trans h1, fun hle => h2 _ htop hle⟩
      rw [hiff]
      exact ⟨fun hx => .inr (.inr ⟨hne, ha, hx⟩), fun hx => hx.elim (fun hy => absurd hy.1 hne) fun hx => hx.elim (fun hy => absurd hy.1 ha) (·.2.2)⟩

end

end Sys2Proof.Machine
end

section
/-! O59 (R59, R62, R63): the bits of a rounded magnitude, and what the patterns of a format can hold. -/

namespace Sys2Proof.Machine

/-- The low bits of the magnitude `q * 2 ^ qe`. -/
def encodeBits (fb : Nat) (l : Int) (q : Nat) (qe : Int) : Nat := if q < 2 ^ fb then q else (qe - l + 1).toNat * 2 ^ fb + q - 2 ^ fb

section
variable {fb : Nat} {l : Int} {q : Nat} {qe : Int}

/-- The exponent's place and the fraction of bits at or above the least exponent. -/
theorem magOf_normal (fb : Nat) (l : Int) {x f : Nat} (hf : f < 2 ^ fb) : magOf fb l ((x + 1) * 2 ^ fb + f) = ((f + 2 ^ fb : Nat) : ℚ) * 2 ^ (l + x) := by
  have hdiv : ((x + 1) * 2 ^ fb + f) / 2 ^ fb = x + 1 := by
    rw [Nat.mul_comm, Nat.mul_add_div (by positivity), Nat.div_eq_of_lt hf, Nat.add_zero]
  have hmod : ((x + 1) * 2 ^ fb + f) % 2 ^ fb = f := by
    rw [Nat.mul_comm, Nat.mul_add_mod, Nat.mod_eq_of_lt hf]
  have hplace : l + ((x + 1 : Nat) : Int) - 1 = l + x := by omega
  rw [magOf, hdiv, hmod, if_neg (Nat.succ_ne_zero x), hplace]

theorem magOf_encodeBits (hl : l ≤ qe) (hq : q ≤ 2 ^ (fb + 1)) (hn : qe = l ∨ 2 ^ fb ≤ q) : magOf fb l (encodeBits fb l q qe) = q * 2 ^ qe := by
  obtain ⟨d, rfl⟩ := Int.le.dest hl
  have hd : (l + d - l + 1).toNat = d + 1 := by omega
  rw [encodeBits, hd]
  split
  · rename_i hlt
    have hzero : d = 0 := by omega
    rw [magOf, if_pos (Nat.div_eq_of_lt hlt), hzero]
    norm_num
  · rename_i hge
    obtain hlt | heq := Nat.lt_or_eq_of_le hq
    · have hbits : (d + 1) * 2 ^ fb + q - 2 ^ fb = (d + 1) * 2 ^ fb + (q - 2 ^ fb) := by omega
      rw [hbits, magOf_normal fb l (by rw [pow_succ] at hlt; omega), Nat.sub_add_cancel (not_lt.mp hge)]
    · have hbits : (d + 1) * 2 ^ fb + q - 2 ^ fb = (d + 1 + 1) * 2 ^ fb + 0 := by
        rw [heq, pow_succ, Nat.add_mul (d + 1) 1]
        omega
      rw [hbits, magOf_normal fb l (by positivity), heq, Nat.cast_add d 1, ← add_assoc, Nat.cast_one, zpow_add_one₀ (by norm_num), Nat.zero_add]
      push_cast
      ring

theorem encodeBits_even (hfb : fb ≠ 0) (h : q % 2 = 0) : encodeBits fb l q qe % 2 = 0 := by
  obtain ⟨m, rfl⟩ := Nat.exists_eq_succ_of_ne_zero hfb
  rw [encodeBits]
  split
  · exact h
  · have h1 : (qe - l + 1).toNat * 2 ^ (m + 1) = 2 * ((qe - l + 1).toNat * 2 ^ m) := by ring
    have h2 : 2 ^ (m + 1) = 2 * 2 ^ m := by ring
    rw [Nat.succ_eq_add_one, h1, h2]
    omega

/-- A magnitude below `2 ^ (fb + 1)` units of the greatest place has bits below the greatest exponent's end. -/
theorem encodeBits_lt (hl : l ≤ qe) {K : Nat} (hq : q ≤ 2 ^ (fb + 1)) (h : (q : ℚ) * 2 ^ qe < 2 ^ (fb + 1) * 2 ^ (l + K)) :
    encodeBits fb l q qe < (K + 2) * 2 ^ fb := by
  obtain ⟨d, rfl⟩ := Int.le.dest hl
  have hd : (l + d - l + 1).toNat = d + 1 := by omega
  have hscaled : q * 2 ^ d < 2 ^ (fb + 1) * 2 ^ K := by
    rw [zpow_add₀ (by norm_num), zpow_add₀ (by norm_num), zpow_natCast, zpow_natCast, mul_comm ((2 : ℚ) ^ l), mul_comm ((2 : ℚ) ^ l), ← mul_assoc, ← mul_assoc,
      mul_lt_mul_iff_left₀ (two_zpow_pos l)] at h
    exact_mod_cast h
  rw [encodeBits, hd]
  have hpos : 0 < 2 ^ fb := by positivity
  split
  · rename_i hlt
    nlinarith
  · rename_i hge
    have hpow {x : Nat} (hx : 2 ^ x * 2 ^ d ≤ q * 2 ^ d) : x + d < fb + 1 + K := by
      rw [← pow_add] at hx hscaled
      exact (Nat.pow_lt_pow_iff_right (by norm_num)).mp (hx.trans_lt hscaled)
    have hdK := hpow (Nat.mul_le_mul_right (2 ^ d) (not_lt.mp hge))
    obtain hlt | heq := Nat.lt_or_eq_of_le hq
    · have hm : (d + 1) * 2 ^ fb ≤ (K + 1) * 2 ^ fb := Nat.mul_le_mul_right _ (by omega)
      have hk : (K + 2) * 2 ^ fb = (K + 1) * 2 ^ fb + 2 ^ fb := by ring
      rw [pow_succ] at hlt
      omega
    · have hdK' := hpow (Nat.mul_le_mul_right (2 ^ d) heq.ge)
      have hm : (d + 1) * 2 ^ fb ≤ K * 2 ^ fb := Nat.mul_le_mul_right _ (by omega)
      have hk : (K + 2) * 2 ^ fb = K * 2 ^ fb + 2 ^ fb + 2 ^ fb := by ring
      rw [pow_succ] at heq
      omega

/-! ### What patterns hold -/

theorem magOf_grid (fb : Nat) (l : Int) (x : Nat) : Grid fb (some l) (magOf fb l x) := by
  rw [magOf_eq]
  have hmod : x % 2 ^ fb < 2 ^ fb := Nat.mod_lt _ (by positivity)
  have hpow : 2 ^ (fb + 1) = 2 ^ fb + 2 ^ fb := by ring
  refine ⟨_, _, ?_, fun l' hl' => ?_, rfl⟩
  · split <;> omega
  · cases hl'
    generalize x / 2 ^ fb = y
    split <;> omega

theorem magOf_nonneg (fb : Nat) (l : Int) (x : Nat) : 0 ≤ magOf fb l x := by
  rw [magOf_eq]
  exact mul_nonneg (Nat.cast_nonneg _) (two_zpow_pos _).le

/-- The greatest magnitude that fits. -/
theorem magOf_le {x K : Nat} (h : x < (K + 2) * 2 ^ fb) : magOf fb l x ≤ 2 ^ (fb + 1) * 2 ^ (l + K) - 2 ^ (l + K) := by
  have hmod : x % 2 ^ fb < 2 ^ fb := Nat.mod_lt _ (by positivity)
  have hpow : 2 ^ (fb + 1) = 2 ^ fb + 2 ^ fb := by ring
  have hdiv : x / 2 ^ fb < K + 2 := (Nat.div_lt_iff_lt_mul (by positivity)).mpr h
  rw [magOf_eq, ← sub_one_mul]
  have h1 : ((if x / 2 ^ fb = 0 then x % 2 ^ fb else x % 2 ^ fb + 2 ^ fb : Nat) : ℚ) + 1 ≤ 2 ^ (fb + 1) := by
    exact_mod_cast (by split <;> omega)
  have h2 : (2 : ℚ) ^ (if x / 2 ^ fb = 0 then l else l + (x / 2 ^ fb : Nat) - 1) ≤ 2 ^ (l + K) := zpow_le_zpow_right₀ (by norm_num) (by split <;> omega)
  exact mul_le_mul (by linarith) h2 (two_zpow_pos _).le (by linarith [one_le_pow₀ (n := fb + 1) (by norm_num : (1 : ℚ) ≤ 2)])

end

theorem abs_signOf_mul (neg : Bool) {x : ℚ} (h : 0 ≤ x) : |signOf neg * x| = x := by
  cases neg <;> simp [signOf, abs_of_nonneg h]

theorem patIs_zero_scale {c : Nat} {p : BitVec 32} {v : ℚ} (h : PatIs c 0 p (v * 2 ^ (0 : Int))) : PatIs c 0 p v := by
  rwa [zpow_zero, mul_one] at h

theorem patIs_unique {c : Nat} {s : Int} {p : BitVec 32} {u v : ℚ} (h : PatIs c s p u) (h' : PatIs c s p v) : u = v := by
  obtain ⟨x, hx, hu⟩ := h
  obtain ⟨y, hy, hv⟩ := h'
  rw [hx] at hy
  cases hy
  exact XVal.is_unique hu hv

/-- A format whose patterns hold the magnitudes of `fb` fraction bits from the place `l` up to the place `l + K`. -/
def Holds (c fb : Nat) (l : Int) (K : Nat) : Prop := ∀ p u, PatIs c 0 p u → ∃ neg x, x < (K + 2) * 2 ^ fb ∧ u = signOf neg * magOf fb l x

section
variable {c fb : Nat} {l : Int} {K : Nat} (h : Holds c fb l K) {p : BitVec 32} {u : ℚ} (hp : PatIs c 0 p u)
include h hp

theorem Holds.grid : Grid fb (some l) |u| := by
  obtain ⟨neg, x, -, rfl⟩ := h p u hp
  rw [abs_signOf_mul neg (magOf_nonneg ..)]
  exact magOf_grid ..

theorem Holds.le : |u| ≤ 2 ^ (fb + 1) * 2 ^ (l + K) - 2 ^ (l + K) := by
  obtain ⟨neg, x, hx, rfl⟩ := h p u hp
  rw [abs_signOf_mul neg (magOf_nonneg ..)]
  exact magOf_le hx

end

/-! ### f32 and lf8 -/

/-- An f32 pattern by its sign and its low bits. -/
def f32Of (neg : Bool) (x : Nat) : BitVec 32 := BitVec.ofNat 32 ((if neg then 2 ^ 31 else 0) + x)

section
variable {x : Nat} (neg : Bool)

theorem f32Of_toNat (hx : x < 2 ^ 31) : (f32Of neg x).toNat = (if neg then 2 ^ 31 else 0) + x := by
  rw [f32Of, BitVec.toNat_ofNat]
  exact Nat.mod_eq_of_lt (by split <;> omega)

theorem f32Of_sign (hx : x < 2 ^ 31) : (f32Of neg x).getLsbD 31 = neg := by
  rw [← BitVec.testBit_toNat, f32Of_toNat neg hx, Nat.testBit_eq_decide_div_mod_eq]
  cases neg
  · exact decide_eq_false (by simp only [Bool.false_eq_true, if_false]; omega)
  · exact decide_eq_true (by simp only [if_true]; omega)

theorem f32Of_low (hx : x < 2 ^ 31) : (f32Of neg x).toNat % 2 ^ 31 = x := by
  rw [f32Of_toNat neg hx]
  split <;> omega

theorem f32Of_even (hx : x < 2 ^ 31) (he : x % 2 = 0) : (f32Of neg x).getLsbD 0 = false := by
  rw [← BitVec.testBit_toNat, f32Of_toNat neg hx, Nat.testBit_eq_decide_div_mod_eq]
  exact decide_eq_false (by split <;> omega)

theorem f32Of_patIs (hx : x < 255 * 2 ^ 23) : PatIs 6 0 (f32Of neg x) (signOf neg * magOf 23 (-149) x) := by
  have hx' : x < 2 ^ 31 := by omega
  have hlow := f32Of_low neg hx'
  have hv := patIs_zero_scale (patIs_f32 0 (f32Of neg x) (by omega))
  rwa [f32Of_sign neg hx', hlow] at hv

end

theorem holds_f32 : Holds 6 23 (-149) 253 := by
  intro p u hu
  by_cases h : p.toNat / 2 ^ 23 % 2 ^ 8 = 255
  · obtain ⟨x, hx, hv⟩ := hu
    rw [patValue_f32_special 0 p h] at hx
    cases hx
    obtain ⟨m, e, he, -⟩ | ⟨he, -⟩ := hv <;> split at he <;> exact nomatch he
  · exact ⟨_, _, by omega, patIs_unique hu (patIs_zero_scale (patIs_f32 0 p h))⟩

/-- An lf8 pattern by its sign and its low bits; it has one zero. -/
def lf8Of (neg : Bool) (x : Nat) : BitVec 8 := if x = 0 then 0 else BitVec.ofNat 8 (x + (if neg then 128 else 0))

section
variable {x : Nat} (neg : Bool)

theorem lf8Of_toNat (hx : x < 128) : ((lf8Of neg x).setWidth 32 : BitVec 32).toNat = if x = 0 then 0 else x + (if neg then 128 else 0) := by
  rw [lf8Of, BitVec.toNat_setWidth]
  split
  · rfl
  · rw [BitVec.toNat_ofNat]
    split <;> omega

theorem lf8Of_even (hx : x < 128) (he : x % 2 = 0) : ((lf8Of neg x).setWidth 32 : BitVec 32).getLsbD 0 = false := by
  rw [← BitVec.testBit_toNat, lf8Of_toNat neg hx, Nat.testBit_eq_decide_div_mod_eq]
  refine decide_eq_false ?_
  split
  · decide
  · split <;> omega

theorem lf8Of_patIs (hx : x < 128) : PatIs 3 0 ((lf8Of neg x).setWidth 32) (signOf neg * magOf 3 (-9) x) := by
  have hnat := lf8Of_toNat neg hx
  obtain ⟨p, hp⟩ : ∃ p : BitVec 32, p = (lf8Of neg x).setWidth 32 := ⟨_, rfl⟩
  rw [← hp] at hnat ⊢
  have hsign : p.getLsbD 7 = decide (p.toNat / 2 ^ 7 % 2 = 1) := by rw [← BitVec.testBit_toNat, Nat.testBit_eq_decide_div_mod_eq]
  by_cases h0 : x = 0
  · rw [if_pos h0] at hnat
    have hv := patIs_zero_scale (patIs_lf8 0 p (by omega))
    have hlow : p.toNat % 2 ^ 7 = 0 := by omega
    have hzero : magOf 3 (-9) 0 = 0 := by norm_num [magOf]
    rw [hlow, hzero, mul_zero] at hv
    rwa [h0, hzero, mul_zero]
  · rw [if_neg h0] at hnat
    have hv := patIs_zero_scale (patIs_lf8 0 p (by split at hnat <;> omega))
    have hlow : p.toNat % 2 ^ 7 = x := by split at hnat <;> omega
    have hneg : p.getLsbD 7 = neg := by
      rw [hsign]
      cases neg
      · exact decide_eq_false (by simp only [Bool.false_eq_true, if_false] at hnat; omega)
      · exact decide_eq_true (by simp only [if_true] at hnat; omega)
    rwa [hlow, hneg] at hv

end

theorem holds_lf8 : Holds 3 3 (-9) 14 := by
  intro p u hu
  by_cases h : p.toNat % 2 ^ 8 = 0x80
  · obtain ⟨x, hx, hv⟩ := hu
    rw [patValue_lf8_nan 0 p h] at hx
    cases hx
    obtain ⟨m, e, he, -⟩ | ⟨he, -⟩ := hv <;> exact nomatch he
  · exact ⟨_, _, by omega, patIs_unique hu (patIs_zero_scale (patIs_lf8 0 p h))⟩

end Sys2Proof.Machine
end

section
/-! O59 (R59, R63): a real value rounded to f32 and to lf8. -/

namespace Sys2Proof.Machine

/-- What the statement asks of the pattern `b` and the flags `f` of a value rounded to a format. -/
def RoundsAs (c : Nat) (top ulp small gap : ℚ) (sat : Bool → BitVec 32) (mode : Rnd) (v : ℚ) (b : BitVec 32) (f : Flags5) : Prop :=
  let away : Prop := (mode = .ru ∧ 0 < v) ∨ (mode = .rd ∧ v < 0)
  let huge : Prop := (mode = .ne ∧ top + ulp / 2 ≤ |v|) ∨ (away ∧ top < |v|)
  (huge → b = sat (decide (v < 0))) ∧
  (¬ huge → ∃ w, PatIs c 0 b w ∧ 0 ≤ w * v ∧
    (mode = .ne → ∀ p u, PatIs c 0 p u → |v - w| ≤ |v - u| ∧ (|v - w| = |v - u| → u = w ∨ b.getLsbD 0 = false)) ∧
    (away → |v| ≤ |w| ∧ ∀ p u, PatIs c 0 p u → |v| ≤ |u| → |w| ≤ |u|) ∧
    (mode ≠ .ne → ¬ away → |w| ≤ |v| ∧ ∀ p u, PatIs c 0 p u → |u| ≤ |v| → |u| ≤ |w|)) ∧
  f.getLsbD 0 = false ∧ f.getLsbD 1 = false ∧
  (f.getLsbD 2 = true ↔ huge ∨ (mode ≠ .ne ∧ top + ulp ≤ |v|)) ∧
  (f.getLsbD 4 = false ↔ PatIs c 0 b v) ∧
  (f.getLsbD 3 = true ↔ f.getLsbD 4 = true ∧ ((mode = .ne ∧ |v| < small - gap / 2) ∨ (away ∧ |v| ≤ small - gap) ∨ (mode ≠ .ne ∧ ¬ away ∧ |v| < small)))

/-- The flags of a value that fits, by whether it is inexact and whether it is tiny. -/
def fitFlags (nx tiny : Bool) : Flags5 := if nx then (if tiny then fUf ||| fNx else fNx) else 0

theorem fitFlags_bits (nx tiny : Bool) : (fitFlags nx tiny).getLsbD 0 = false ∧ (fitFlags nx tiny).getLsbD 1 = false ∧ (fitFlags nx tiny).getLsbD 2 = false ∧
    (fitFlags nx tiny).getLsbD 3 = (nx && tiny) ∧ (fitFlags nx tiny).getLsbD 4 = nx := by
  cases nx <;> cases tiny <;> decide

/-- The pattern and the flags of a rounded magnitude `q * 2 ^ qe` with its sign. -/
structure Packs (c n : Nat) (T D : ℚ) (sat : Bool → BitVec 32) (mode : Rnd) (neg : Bool) (q : Nat) (qe : Int) (nx tiny : Bool) (b : BitVec 32) (f : Flags5) : Prop where
  overFlags : T ≤ q * 2 ^ qe → f = fOf ||| fNx
  overSat : T ≤ q * 2 ^ qe → mode = .ne ∨ mode.Away neg → b = sat neg
  overTop : T ≤ q * 2 ^ qe → mode ≠ .ne → ¬ mode.Away neg → PatIs c 0 b (signOf neg * (T - D))
  fits : q * 2 ^ qe < T → PatIs c 0 b (signOf neg * (q * 2 ^ qe))
  fitsEven : q * 2 ^ qe < T → q % 2 = 0 → b.getLsbD 0 = false
  fitsFlags : q * 2 ^ qe < T → f = fitFlags nx tiny

/-! ### Signs -/

theorem signOf_mul_self (neg : Bool) (x y : ℚ) : signOf neg * x * (signOf neg * y) = x * y := by
  cases neg <;> simp [signOf]

theorem signOf_mul_neg_iff {a : ℚ} (ha : 0 < a) (neg : Bool) : signOf neg * a < 0 ↔ neg = true := by
  cases neg with
  | true => simp [signOf, ha]
  | false => simp [signOf, ha.le]

theorem signOf_mul_pos_iff {a : ℚ} (ha : 0 < a) (neg : Bool) : 0 < signOf neg * a ↔ neg = false := by
  cases neg with
  | true => simp [signOf, ha.le]
  | false => simp [signOf, ha]

theorem decide_signOf {a : ℚ} (ha : 0 < a) (neg : Bool) : decide (signOf neg * a < 0) = neg := by
  rw [Bool.eq_iff_iff, decide_eq_true_iff]
  exact signOf_mul_neg_iff ha neg

theorem abs_signOf_sub (neg : Bool) (x y : ℚ) : |signOf neg * x - signOf neg * y| = |x - y| := by
  cases neg with
  | true => rw [signOf, if_pos rfl, neg_one_mul, neg_one_mul, neg_sub_neg, abs_sub_comm]
  | false => rw [signOf, if_neg Bool.false_ne_true, one_mul, one_mul]

theorem away_iff {a : ℚ} (ha : 0 < a) (mode : Rnd) (neg : Bool) :
    (mode = .ru ∧ 0 < signOf neg * a) ∨ (mode = .rd ∧ signOf neg * a < 0) ↔ mode.Away neg := by
  rw [signOf_mul_pos_iff ha, signOf_mul_neg_iff ha, Rnd.Away]

/-- The nearest magnitude gives the nearest value: a value of either sign is no nearer than its magnitude. -/
theorem signed_nearest {neg : Bool} {a W u : ℚ} {even : Prop} (ha : 0 < a) (hW : 0 ≤ W)
    (h : |a - W| ≤ |a - (|u|)| ∧ (|a - W| = |a - (|u|)| → |u| = W ∨ even)) :
    |signOf neg * a - signOf neg * W| ≤ |signOf neg * a - u| ∧ (|signOf neg * a - signOf neg * W| = |signOf neg * a - u| → u = signOf neg * W ∨ even) := by
  obtain ⟨y, hy⟩ : ∃ y, u = signOf neg * y := ⟨signOf neg * u, by cases neg <;> simp [signOf]⟩
  have hyu : |u| = |y| := by rw [hy]; cases neg <;> simp [signOf]
  rw [hyu] at h
  rw [hy, abs_signOf_sub, abs_signOf_sub]
  obtain ⟨h1, h2⟩ := h
  have hle : |a - (|y|)| ≤ |a - y| := by
    have := abs_abs_sub_abs_le a y
    rwa [abs_of_pos ha] at this
  refine ⟨h1.trans hle, fun he => (h2 (le_antisymm h1 (hle.trans he.ge))).imp_left fun hyW => ?_⟩
  rcases abs_choice y with hpos | hneg
  · rw [← hyW, hpos]
  · have hy0 : y = -W := by linarith
    rw [hy0, sub_neg_eq_add, abs_of_pos (by linarith : 0 < a + W)] at he
    have hW0 : W = 0 := by
      rcases abs_cases (a - W) with ⟨hx, -⟩ | ⟨hx, -⟩ <;> linarith
    rw [hy0, hW0, neg_zero]

/-! ### Values beyond the format and values that fit -/

/-- The magnitudes that the mode rounds to `T` or beyond, `T - D` being the greatest that fits. -/
def Over (mode : Rnd) (neg : Bool) (a T D : ℚ) : Prop :=
  (mode = .ne ∧ T - D / 2 ≤ a) ∨ (mode.Away neg ∧ T - D < a) ∨ (mode ≠ .ne ∧ ¬ mode.Away neg ∧ T ≤ a)

theorem Rnd.not_away_ne (neg : Bool) : ¬ Rnd.ne.Away neg := by rintro (⟨h, -⟩ | ⟨h, -⟩) <;> exact nomatch h

section
variable {mode : Rnd} {neg : Bool} {a T D : ℚ}

/-- Beyond the format are the values the statement calls huge, and with the other modes those from `T` on. -/
theorem over_iff (hD : 0 < D) : Over mode neg a T D ↔
    ((mode = .ne ∧ T - D + D / 2 ≤ a) ∨ (mode.Away neg ∧ T - D < a)) ∨ (mode ≠ .ne ∧ T - D + D ≤ a) := by
  rw [Over, sub_add_cancel, show T - D + D / 2 = T - D / 2 by ring]
  constructor
  · rintro (h | h | ⟨h1, -, h3⟩)
    · exact .inl (.inl h)
    · exact .inl (.inr h)
    · exact .inr ⟨h1, h3⟩
  · rintro ((h | h) | ⟨h1, h3⟩)
    · exact .inl h
    · exact .inr (.inl h)
    · by_cases ha : mode.Away neg
      · exact .inr (.inl ⟨ha, by linarith⟩)
      · exact .inr (.inr ⟨h1, ha, h3⟩)

theorem Over.last_lt (h : Over mode neg a T D) (hD : 0 < D) : T - D < a := by
  obtain ⟨-, h⟩ | ⟨-, h⟩ | ⟨-, -, h⟩ := h <;> linarith

/-- Huge values are beyond the format, in a mode that saturates. -/
theorem saturates_of_huge (h : (mode = .ne ∧ T - D + D / 2 ≤ a) ∨ (mode.Away neg ∧ T - D < a)) : mode = .ne ∨ mode.Away neg :=
  h.imp (·.1) (·.1)

end

section
variable {c : Nat} {sat : Bool → BitVec 32} {mode : Rnd} {neg : Bool} {a T D S d : ℚ} {b : BitVec 32} {f : Flags5} (ha : 0 < a) (hD : 0 < D)
include ha hD

/-- A value beyond the format saturates, or is cut to the greatest magnitude. -/
theorem roundsAs_over (hT : D ≤ T) (hd : 0 < d) (hS : S ≤ T - D) (hle : ∀ p u, PatIs c 0 p u → |u| ≤ T - D) (ho : Over mode neg a T D)
    (hf : f = fOf ||| fNx) (hsat : mode = .ne ∨ mode.Away neg → b = sat neg)
    (htop : mode ≠ .ne → ¬ mode.Away neg → PatIs c 0 b (signOf neg * (T - D))) : RoundsAs c (T - D) D S d sat mode (signOf neg * a) b f := by
  have hlast := ho.last_lt hD
  unfold RoundsAs
  dsimp only
  rw [away_iff ha, abs_signOf_mul neg ha.le, decide_signOf ha]
  refine ⟨fun h => hsat (saturates_of_huge h), fun h => ?_, by rw [hf]; rfl, by rw [hf]; rfl, ?_, ?_, ?_⟩
  · have hother := ((over_iff hD).mp ho).resolve_left h
    have hnaway : ¬ mode.Away neg := fun hx => h (.inr ⟨hx, hlast⟩)
    refine ⟨_, htop hother.1 hnaway, ?_, fun hx => absurd hx hother.1, fun hx => absurd hx hnaway, fun _ _ => ?_⟩
    · rw [signOf_mul_self]
      exact mul_nonneg (by linarith) ha.le
    · rw [abs_signOf_mul neg (by linarith : 0 ≤ T - D)]
      exact ⟨hlast.le, fun p u hu _ => hle p u hu⟩
  · rw [← over_iff hD, hf]
    exact ⟨fun _ => ho, fun _ => rfl⟩
  · rw [hf]
    refine ⟨fun h => (nomatch h), fun h => ?_⟩
    have := hle _ _ h
    rw [abs_signOf_mul neg ha.le] at this
    linarith
  · rw [hf]
    refine ⟨fun h => (nomatch h), fun ⟨_, h⟩ => ?_⟩
    obtain ⟨-, h⟩ | ⟨-, h⟩ | ⟨-, -, h⟩ := h <;> linarith

/-- A value that fits goes to the magnitude that its mode asks for. -/
theorem roundsAs_fits {n : Nat} {l : Int} {q : Nat} {qe : Int} {nx tiny : Bool} (hr : Rounds n (some l) mode neg a q qe nx)
    (hgrid : ∀ p u, PatIs c 0 p u → Grid n (some l) |u|) (ho : ¬ Over mode neg a T D) (htiny : tiny = true ↔ ¬ Over mode neg a S d)
    (hfit : PatIs c 0 b (signOf neg * (q * 2 ^ qe))) (heven : q % 2 = 0 → b.getLsbD 0 = false) (hf : f = fitFlags nx tiny) :
    RoundsAs c (T - D) D S d sat mode (signOf neg * a) b f := by
  have hW0 : 0 ≤ (q : ℚ) * 2 ^ qe := mul_nonneg (Nat.cast_nonneg _) (two_zpow_pos qe).le
  obtain ⟨h0, h1, h2, h3, h4⟩ := fitFlags_bits nx tiny
  unfold RoundsAs
  dsimp only
  rw [away_iff ha, abs_signOf_mul neg ha.le, decide_signOf ha]
  rw [over_iff hD] at ho
  refine ⟨fun h => absurd (.inl h) ho, fun _ => ⟨_, hfit, ?_, fun hne p u hu => ?_, fun haway => ?_, fun hne haway => ?_⟩, by rw [hf, h0], by rw [hf, h1], ?_, ?_, ?_⟩
  · rw [signOf_mul_self]
    exact mul_nonneg hW0 ha.le
  · obtain ⟨hn1, hn2⟩ := hr.nearest hne _ (hgrid p u hu)
    obtain ⟨hs1, hs2⟩ := signed_nearest (neg := neg) ha hW0 ⟨hn1, hn2⟩
    exact ⟨hs1, fun he => (hs2 he).imp_right heven⟩
  · rw [abs_signOf_mul neg hW0]
    obtain ⟨ha1, ha2⟩ := hr.away haway
    exact ⟨ha1, fun p u hu => ha2 _ (hgrid p u hu)⟩
  · rw [abs_signOf_mul neg hW0]
    obtain ⟨ht1, ht2⟩ := hr.toward hne haway
    exact ⟨ht1, fun p u hu => ht2 _ (hgrid p u hu)⟩
  · rw [hf, h2]
    exact ⟨fun h => (nomatch h), fun h => absurd h ho⟩
  · rw [hf, h4, hr.exact]
    constructor
    · intro he
      rwa [← he] at hfit
    · intro hv
      have := congrArg (signOf neg * ·) (patIs_unique hv hfit)
      cases neg <;> simpa [signOf] using this
  · rw [hf, h3, h4, Bool.and_eq_true, htiny]
    refine and_congr_right fun _ => ?_
    unfold Over
    by_cases hne : mode = .ne
    · have hna : ¬ mode.Away neg := hne ▸ Rnd.not_away_ne neg
      simp only [hne, true_and, ne_eq, not_true, false_and, or_false, not_or, not_le]
      have hna' := Rnd.not_away_ne neg
      simp only [hna', false_and, not_false_iff, and_true, or_false]
    · by_cases haw : mode.Away neg
      · simp only [hne, haw, false_and, true_and, not_true, and_false, false_or, or_false, not_lt]
      · simp only [hne, haw, false_and, ne_eq, not_false_iff, true_and, false_or, not_le]

end

/-! ### Packing -/

section
variable {c n : Nat} {l : Int} {K : Nat} {kt : Int} {sat : Bool → BitVec 32} {mode : Rnd} {neg : Bool} {a : ℚ} {q uq : Nat} {qe ue : Int} {nx unx tiny : Bool}
  {b : BitVec 32} {f : Flags5}

theorem Packs.roundsAs (hn : n ≠ 0) (ha : 0 < a) (hold : Holds c n l K) (hr : Rounds n (some l) mode neg a q qe nx) (hu : Rounds n none mode neg a uq ue unx)
    (htiny : tiny = true ↔ (uq : ℚ) * 2 ^ ue < 2 ^ (n + 1) * 2 ^ kt) (hsmall : (2 : ℚ) ^ (n + 1) * 2 ^ kt ≤ 2 ^ (n + 1) * 2 ^ (l + K) - 2 ^ (l + K))
    (hp : Packs c n (2 ^ (n + 1) * 2 ^ (l + K)) (2 ^ (l + K)) sat mode neg q qe nx tiny b f) :
    RoundsAs c (2 ^ (n + 1) * 2 ^ (l + K) - 2 ^ (l + K)) (2 ^ (l + K)) (2 ^ (n + 1) * 2 ^ kt) (2 ^ kt) sat mode (signOf neg * a) b f := by
  have hover : _ ↔ Over mode neg a _ _ := hr.reaches hn (k := l + K) (fun _ h => by cases h; omega)
  have hnormal : _ ↔ Over mode neg a _ _ := hu.reaches hn (k := kt) (fun _ h => nomatch h)
  rw [← not_le, hnormal] at htiny
  have hD := two_zpow_pos (l + K)
  have hd := two_zpow_pos kt
  have hT : (2 : ℚ) ^ (l + K) ≤ 2 ^ (n + 1) * 2 ^ (l + K) := le_mul_of_one_le_left hD.le (one_le_pow₀ (by norm_num))
  by_cases ho : (2 : ℚ) ^ (n + 1) * 2 ^ (l + K) ≤ q * 2 ^ qe
  · exact roundsAs_over ha hD hT hd hsmall (fun _ _ => hold.le) (hover.mp ho) (hp.overFlags ho) (hp.overSat ho) (hp.overTop ho)
  · have hlt := not_le.mp ho
    exact roundsAs_fits ha hD hr (fun _ _ => hold.grid) (mt hover.mpr ho) htiny (hp.fits hlt) (hp.fitsEven hlt) (hp.fitsFlags hlt)

end

end Sys2Proof.Machine
end

section
/-! O59 (R59, R63): `roundF32` and `roundLf8`. -/

namespace Sys2Proof.Machine

/-- Whether a value beyond f32 goes to an infinity. -/
def toInfinity (mode : Rnd) (neg : Bool) : Bool :=
  match mode with
  | .ne => true
  | .rz => false
  | .ru => !neg
  | .rd => neg

theorem toInfinity_iff (mode : Rnd) (neg : Bool) : toInfinity mode neg = true ↔ mode = .ne ∨ mode.Away neg := by
  unfold Rnd.Away
  cases mode <;> cases neg <;> decide

/-- Whether a magnitude rounded with an unbounded exponent stays below the least normal one, `2 ^ k`. -/
def tinyBit (k : Int) (uq : Nat) (ue : Int) : Bool := if 0 ≤ ue - k then false else decide (uq < 2 ^ (k - ue).toNat)

theorem tinyBit_iff (k : Int) {uq : Nat} (hq : uq ≠ 0) (ue : Int) : tinyBit k uq ue = true ↔ (uq : ℚ) * 2 ^ ue < 2 ^ k := by
  unfold tinyBit
  split
  · have h1 : (1 : ℚ) ≤ uq := by exact_mod_cast Nat.one_le_iff_ne_zero.mpr hq
    have h2 : (2 : ℚ) ^ k ≤ 2 ^ ue := zpow_le_zpow_right₀ (by norm_num) (by omega)
    have h3 := mul_le_mul h1 h2 (two_zpow_pos k).le (by linarith)
    rw [one_mul] at h3
    exact ⟨fun h => (nomatch h), fun h => absurd h (not_lt.mpr h3)⟩
  · obtain ⟨d, hd⟩ := Int.le.dest (show ue ≤ k by omega)
    have hsub : (k - ue).toNat = d := by omega
    rw [decide_eq_true_iff, hsub, ← hd, zpow_add₀ (by norm_num), mul_comm ((2 : ℚ) ^ ue), mul_lt_mul_iff_left₀ (two_zpow_pos ue), zpow_natCast]
    exact_mod_cast Iff.rfl

/-- A magnitude counted in units of the least place. -/
theorem units_value {l qe : Int} (h : l ≤ qe) (q : Nat) : ((q * 2 ^ (qe - l).toNat : Nat) : ℚ) * 2 ^ l = q * 2 ^ qe := by
  obtain ⟨d, rfl⟩ := Int.le.dest h
  have hsub : (l + d - l).toNat = d := by omega
  rw [hsub, zpow_add₀ (by norm_num), zpow_natCast]
  push_cast
  ring

/-- A value by its sign and its magnitude. -/
theorem value_eq (m e : Int) : (m : ℚ) * 2 ^ e = signOf (decide (m < 0)) * ((m.natAbs : ℚ) * 2 ^ e) := by
  rw [Nat.cast_natAbs, ← mul_assoc]
  obtain hneg | hpos := lt_or_ge m 0
  · rw [decide_eq_true hneg, abs_of_neg hneg, signOf, if_pos rfl, Int.cast_neg, neg_one_mul, neg_neg]
  · rw [decide_eq_false (not_lt.mpr hpos), abs_of_nonneg hpos, signOf, if_neg Bool.false_ne_true, one_mul]

section
variable {m : Int} (hm : m ≠ 0)
include hm

theorem magnitude_pos (e : Int) : (0 : ℚ) < (m.natAbs : ℚ) * 2 ^ e := mul_pos (by exact_mod_cast Int.natAbs_pos.mpr hm) (two_zpow_pos e)

/-! ### f32 (R59) -/

/-- The pattern and the flags of a rounded magnitude. -/
def packF32 (mode : Rnd) (neg : Bool) (q : Nat) (qe : Int) (nx tiny : Bool) : BitVec 32 × Flags5 :=
  if q * 2 ^ (qe - -149).toNat ≥ 2 ^ (128 + 149) then (f32Of neg (if toInfinity mode neg then 0x7F800000 else 0x7F7FFFFF), fOf ||| fNx)
  else (f32Of neg (encodeBits 23 (-149) q qe), fitFlags nx tiny)

theorem roundF32_eq (mode : Rnd) (e : Int) : roundF32 mode (.fin m e) =
    packF32 mode (decide (m < 0)) (roundMag (decide (m < 0)) m.natAbs e 24 (some (-149)) mode).1 (roundMag (decide (m < 0)) m.natAbs e 24 (some (-149)) mode).2.1
      (roundMag (decide (m < 0)) m.natAbs e 24 (some (-149)) mode).2.2
      (tinyBit (-126) (roundMag (decide (m < 0)) m.natAbs e 24 none mode).1 (roundMag (decide (m < 0)) m.natAbs e 24 none mode).2.1) := by
  unfold roundF32 packF32 tinyBit encodeBits
  dsimp only
  rw [if_neg hm]
  obtain ⟨⟨q, qe, nx⟩, hR⟩ : ∃ R, R = roundMag (decide (m < 0)) m.natAbs e 24 (some (-149)) mode := ⟨_, rfl⟩
  obtain ⟨⟨uq, ue, unx⟩, hU⟩ : ∃ U, U = roundMag (decide (m < 0)) m.natAbs e 24 none mode := ⟨_, rfl⟩
  rw [← hR, ← hU]
  dsimp only
  have h1 : qe - -149 = qe + 149 := by ring
  have h2 : qe + 149 + 1 = qe + 150 := by ring
  have h3 : ue - -126 = ue + 126 := by ring
  rw [h1, h2, h3]
  cases mode <;> rfl

end

/-- The statement's top of f32, `2 ^ 128`, by its significand and place. -/
theorem f32_top : (2 : ℚ) ^ (23 + 1) * 2 ^ ((-149 : Int) + (253 : Nat)) = 2 ^ (128 : Int) := by
  rw [show (-149 : Int) + (253 : Nat) = 104 by norm_num]
  norm_num

theorem f32_over_iff {q : Nat} {qe : Int} (h : -149 ≤ qe) : q * 2 ^ (qe - -149).toNat ≥ 2 ^ (128 + 149) ↔
    (2 : ℚ) ^ (23 + 1) * 2 ^ ((-149 : Int) + (253 : Nat)) ≤ q * 2 ^ qe := by
  have htop : ((2 ^ (128 + 149) : Nat) : ℚ) * 2 ^ (-149 : Int) = 2 ^ (23 + 1) * 2 ^ ((-149 : Int) + (253 : Nat)) := by
    rw [f32_top, Nat.cast_pow, Nat.cast_ofNat, ← zpow_natCast, ← zpow_add₀ (by norm_num)]
    norm_num
  rw [← units_value h, ← htop, mul_le_mul_iff_left₀ (two_zpow_pos _), Nat.cast_le]

/-- The greatest finite f32. -/
theorem f32_max : magOf 23 (-149) 0x7F7FFFFF = 2 ^ (23 + 1) * 2 ^ ((-149 : Int) + (253 : Nat)) - 2 ^ ((-149 : Int) + (253 : Nat)) := by
  rw [show (-149 : Int) + (253 : Nat) = 104 by norm_num]
  norm_num [magOf]

theorem packF32_packs {mode : Rnd} {neg : Bool} {a : ℚ} {q : Nat} {qe : Int} {nx : Bool} (h : Rounds 23 (some (-149)) mode neg a q qe nx) (tiny : Bool) :
    Packs 6 23 (2 ^ (23 + 1) * 2 ^ ((-149 : Int) + (253 : Nat))) (2 ^ ((-149 : Int) + (253 : Nat))) (fun n => if n then 0xFF800000 else 0x7F800000) mode neg q qe nx tiny
      (packF32 mode neg q qe nx tiny).1 (packF32 mode neg q qe nx tiny).2 := by
  have hl : -149 ≤ qe := h.place _ rfl
  have hnormal : qe = -149 ∨ 2 ^ 23 ≤ q := h.normal.imp_left fun hx => by cases hx; rfl
  rw [packF32]
  by_cases ho : q * 2 ^ (qe - -149).toNat ≥ 2 ^ (128 + 149)
  · have hover := (f32_over_iff hl).mp ho
    rw [if_pos ho]
    refine ⟨fun _ => rfl, fun _ hsat => ?_, fun _ hne haway => ?_, fun hlt => absurd hover (not_le.mpr hlt), fun hlt => absurd hover (not_le.mpr hlt),
      fun hlt => absurd hover (not_le.mpr hlt)⟩
    · rw [(toInfinity_iff mode neg).mpr hsat]
      cases neg <;> rfl
    · have hfin : toInfinity mode neg = false := by
        rw [← Bool.not_eq_true, toInfinity_iff, not_or]
        exact ⟨hne, haway⟩
      rw [hfin, ← f32_max]
      exact f32Of_patIs neg (by norm_num)
  · have hfits := mt (f32_over_iff hl).mpr ho
    have hbits : encodeBits 23 (-149) q qe < (253 + 2) * 2 ^ 23 := encodeBits_lt hl h.le (not_le.mp hfits)
    rw [if_neg ho]
    refine ⟨fun hx => absurd hx hfits, fun hx => absurd hx hfits, fun hx => absurd hx hfits, fun _ => ?_, fun _ heven => ?_, fun _ => rfl⟩
    · rw [← magOf_encodeBits hl h.le hnormal]
      exact f32Of_patIs neg hbits
    · exact f32Of_even neg (by omega) (encodeBits_even (by norm_num) heven)

/-- A real value rounded to f32. -/
theorem roundF32_roundsAs {m : Int} (hm : m ≠ 0) (e : Int) (mode : Rnd) :
    RoundsAs 6 (2 ^ (128 : Int) - 2 ^ (104 : Int)) (2 ^ (104 : Int)) (2 ^ (-126 : Int)) (2 ^ (-150 : Int)) (fun n => if n then 0xFF800000 else 0x7F800000) mode
      (m * 2 ^ e) (roundF32 mode (.fin m e)).1 (roundF32 mode (.fin m e)).2 := by
  have hr := roundMag_rounds (decide (m < 0)) (Int.natAbs_ne_zero.mpr hm) e 23 (some (-149)) mode
  have hu := roundMag_rounds (decide (m < 0)) (Int.natAbs_ne_zero.mpr hm) e 23 none mode
  rw [roundF32_eq hm, value_eq]
  have hsmall : (2 : ℚ) ^ (23 + 1) * 2 ^ (-150 : Int) = 2 ^ (-126 : Int) := by
    rw [← zpow_natCast, ← zpow_add₀ (by norm_num)]
    norm_num
  have huq : (roundMag (decide (m < 0)) m.natAbs e (23 + 1) none mode).1 ≠ 0 := by
    have := hu.normal.resolve_left (fun hx => nomatch hx)
    omega
  have h := (packF32_packs hr (tinyBit (-126) (roundMag (decide (m < 0)) m.natAbs e 24 none mode).1 (roundMag (decide (m < 0)) m.natAbs e 24 none mode).2.1)).roundsAs
    (kt := -150) (by norm_num) (magnitude_pos hm e) holds_f32 hr hu (by rw [hsmall]; exact tinyBit_iff _ huq _)
    (by rw [hsmall, f32_top, show (-149 : Int) + (253 : Nat) = 104 by norm_num]; norm_num)
  rwa [hsmall, f32_top, show (-149 : Int) + (253 : Nat) = 104 by norm_num] at h

/-! ### lf8 (R63) -/

/-- The pattern and the flags of a rounded magnitude. -/
def packLf8 (neg : Bool) (q : Nat) (qe : Int) (nx tiny : Bool) : BitVec 8 × Flags5 :=
  if 480 * 2 ^ 9 < q * 2 ^ (qe - -9).toNat then (if neg then 0xFF else 0x7F, fOf ||| fNx) else (lf8Of neg (encodeBits 3 (-9) q qe), fitFlags nx tiny)

theorem roundLf8_eq {m : Int} (hm : m ≠ 0) (mode : Rnd) (e : Int) : roundLf8 mode (.fin m e) =
    packLf8 (decide (m < 0)) (roundMag (decide (m < 0)) m.natAbs e 4 (some (-9)) mode).1 (roundMag (decide (m < 0)) m.natAbs e 4 (some (-9)) mode).2.1
      (roundMag (decide (m < 0)) m.natAbs e 4 (some (-9)) mode).2.2
      (tinyBit (-6) (roundMag (decide (m < 0)) m.natAbs e 4 none mode).1 (roundMag (decide (m < 0)) m.natAbs e 4 none mode).2.1) := by
  unfold roundLf8 packLf8 tinyBit encodeBits
  dsimp only
  rw [if_neg hm]
  obtain ⟨⟨q, qe, nx⟩, hR⟩ : ∃ R, R = roundMag (decide (m < 0)) m.natAbs e 4 (some (-9)) mode := ⟨_, rfl⟩
  obtain ⟨⟨uq, ue, unx⟩, hU⟩ : ∃ U, U = roundMag (decide (m < 0)) m.natAbs e 4 none mode := ⟨_, rfl⟩
  rw [← hR, ← hU]
  dsimp only
  have h1 : qe - -9 = qe + 9 := by ring
  have h2 : qe + 9 + 1 = qe + 10 := by ring
  have h3 : ue - -6 = ue + 6 := by ring
  rw [h1, h2, h3]
  rfl

theorem lf8_place : (2 : ℚ) ^ ((-9 : Int) + (14 : Nat)) = 32 := by
  rw [show (-9 : Int) + (14 : Nat) = 5 by norm_num]
  norm_num

/-- A rounded magnitude above 480 is at least 512. -/
theorem lf8_over_iff {mode : Rnd} {neg : Bool} {a : ℚ} {q : Nat} {qe : Int} {nx : Bool} (h : Rounds 3 (some (-9)) mode neg a q qe nx) :
    480 * 2 ^ 9 < q * 2 ^ (qe - -9).toNat ↔ (2 : ℚ) ^ (3 + 1) * 2 ^ ((-9 : Int) + (14 : Nat)) ≤ q * 2 ^ qe := by
  have hgap := h.grid.gap (lo := 15) (qe := 5) (.inr (by norm_num))
  have hunits := units_value (h.place _ rfl) q
  have hlt : (480 : ℚ) < q * 2 ^ qe ↔ 480 * 2 ^ 9 < q * 2 ^ (qe - -9).toNat := by
    have h480 : (480 : ℚ) = ((480 * 2 ^ 9 : Nat) : ℚ) * 2 ^ (-9 : Int) := by norm_num
    rw [← hunits, h480, mul_lt_mul_iff_left₀ (two_zpow_pos _), Nat.cast_lt]
  rw [← hlt, lf8_place]
  norm_num at hgap ⊢
  constructor
  · intro hx
    exact hgap.resolve_left (not_le.mpr hx)
  · intro hx
    linarith

theorem packLf8_packs {mode : Rnd} {neg : Bool} {a : ℚ} {q : Nat} {qe : Int} {nx : Bool} (h : Rounds 3 (some (-9)) mode neg a q qe nx) (tiny : Bool) :
    Packs 3 3 (2 ^ (3 + 1) * 2 ^ ((-9 : Int) + (14 : Nat))) (2 ^ ((-9 : Int) + (14 : Nat))) (fun n => if n then 0xFF else 0x7F) mode neg q qe nx tiny
      ((packLf8 neg q qe nx tiny).1.setWidth 32) (packLf8 neg q qe nx tiny).2 := by
  have hl : -9 ≤ qe := h.place _ rfl
  have hnormal : qe = -9 ∨ 2 ^ 3 ≤ q := h.normal.imp_left fun hx => by cases hx; rfl
  have hiff := lf8_over_iff h
  rw [packLf8]
  by_cases ho : 480 * 2 ^ 9 < q * 2 ^ (qe - -9).toNat
  · have hover := hiff.mp ho
    rw [if_pos ho]
    refine ⟨fun _ => rfl, fun _ _ => by cases neg <;> rfl, fun _ _ _ => ?_, fun hlt => absurd hover (not_le.mpr hlt), fun hlt => absurd hover (not_le.mpr hlt),
      fun hlt => absurd hover (not_le.mpr hlt)⟩
    have hmax : magOf 3 (-9) 127 = 2 ^ (3 + 1) * 2 ^ ((-9 : Int) + (14 : Nat)) - 2 ^ ((-9 : Int) + (14 : Nat)) := by
      rw [lf8_place]
      norm_num [magOf]
    have hpat := lf8Of_patIs neg (show 127 < 128 by norm_num)
    rw [hmax] at hpat
    cases neg <;> exact hpat
  · have hfits := mt hiff.mpr ho
    have hbits : encodeBits 3 (-9) q qe < (14 + 2) * 2 ^ 3 := encodeBits_lt hl h.le (not_le.mp hfits)
    rw [if_neg ho]
    refine ⟨fun hx => absurd hx hfits, fun hx => absurd hx hfits, fun hx => absurd hx hfits, fun _ => ?_, fun _ heven => ?_, fun _ => rfl⟩
    · rw [← magOf_encodeBits hl h.le hnormal]
      exact lf8Of_patIs neg hbits
    · exact lf8Of_even neg hbits (encodeBits_even (by norm_num) heven)

/-- A real value rounded to lf8. -/
theorem roundLf8_roundsAs {m : Int} (hm : m ≠ 0) (e : Int) (mode : Rnd) :
    RoundsAs 3 480 32 (2 ^ (-6 : Int)) (2 ^ (-10 : Int)) (fun n => if n then 0xFF else 0x7F) mode
      (m * 2 ^ e) ((roundLf8 mode (.fin m e)).1.setWidth 32) (roundLf8 mode (.fin m e)).2 := by
  have hr := roundMag_rounds (decide (m < 0)) (Int.natAbs_ne_zero.mpr hm) e 3 (some (-9)) mode
  have hu := roundMag_rounds (decide (m < 0)) (Int.natAbs_ne_zero.mpr hm) e 3 none mode
  rw [roundLf8_eq hm, value_eq]
  have hsmall : (2 : ℚ) ^ (3 + 1) * 2 ^ (-10 : Int) = 2 ^ (-6 : Int) := by norm_num
  have htop : (2 : ℚ) ^ (3 + 1) * 32 - 32 = 480 := by norm_num
  have huq : (roundMag (decide (m < 0)) m.natAbs e (3 + 1) none mode).1 ≠ 0 := by
    have := hu.normal.resolve_left (fun hx => nomatch hx)
    omega
  have h := (packLf8_packs hr (tinyBit (-6) (roundMag (decide (m < 0)) m.natAbs e 4 none mode).1 (roundMag (decide (m < 0)) m.natAbs e 4 none mode).2.1)).roundsAs
    (kt := -10) (by norm_num) (magnitude_pos hm e) holds_lf8 hr hu (by rw [hsmall]; exact tinyBit_iff _ huq _)
    (by rw [hsmall, lf8_place]; norm_num)
  rwa [hsmall, lf8_place, htop] at h

end Sys2Proof.Machine
end

section
/-! O59 (R69, R70): conversion to integers, and the amax scale. -/

namespace Sys2Proof.Machine

/-! ### Conversion to integers (R70) -/

/-- `n` is the integer that the mode makes of `v`. -/
def IntRounds (mode : Rnd) (v : ℚ) (n : Int) : Prop :=
  (mode = .ne → |v - n| ≤ 1 / 2 ∧ (|v - n| = 1 / 2 → n % 2 = 0)) ∧ (mode = .rz → |(n : ℚ)| ≤ |v| ∧ |v| < |(n : ℚ)| + 1 ∧ 0 ≤ n * v) ∧
    (mode = .ru → v ≤ n ∧ n < v + 1) ∧ (mode = .rd → n ≤ v ∧ v < n + 1)

/-- An integer is its own rounding. -/
theorem intRounds_self (mode : Rnd) (n : Int) : IntRounds mode n n := by
  refine ⟨fun _ => ?_, fun _ => ⟨le_rfl, by linarith, mul_self_nonneg _⟩, fun _ => ⟨le_rfl, by linarith⟩, fun _ => ⟨le_rfl, by linarith⟩⟩
  rw [sub_self, abs_zero]
  exact ⟨by norm_num, fun h => by norm_num at h⟩

theorem Rnd.rz_not_away (neg : Bool) : ¬ Rnd.rz.Away neg := by rintro (⟨h, -⟩ | ⟨h, -⟩) <;> exact nomatch h

section
variable {mode : Rnd} {lo : Nat} {t : ℚ} {up nx : Bool} {q : Nat}

section
variable {neg : Bool} (h : Splits mode neg lo t up nx) (hq : q = if up then lo + 1 else lo)
include h hq

theorem Splits.near (hne : mode = .ne) : |(lo : ℚ) + t - q| ≤ 1 / 2 ∧ (|(lo : ℚ) + t - q| = 1 / 2 → q % 2 = 0) := by
  have ht0 := h.nonneg
  have ht1 := h.lt_one
  cases up with
  | true =>
    obtain ⟨h1, h2⟩ := h.half_up hne rfl
    rw [if_pos rfl] at hq
    have hdiff : (lo : ℚ) + t - q = t - 1 := by rw [hq]; push_cast; ring
    rw [hdiff, abs_of_nonpos (by linarith)]
    refine ⟨by linarith, fun he => ?_⟩
    have := h2 (by linarith)
    omega
  | false =>
    obtain ⟨h1, h2⟩ := h.half_down hne rfl
    rw [if_neg Bool.false_ne_true] at hq
    rw [hq, add_sub_cancel_left, abs_of_nonneg ht0]
    exact ⟨h1, h2⟩

theorem Splits.ceil (haway : mode.Away neg) : (lo : ℚ) + t ≤ q ∧ (q : ℚ) < lo + t + 1 := by
  have ht0 := h.nonneg
  have ht1 := h.lt_one
  have hup := h.away haway
  cases up with
  | true =>
    have htne : t ≠ 0 := fun he => Bool.false_ne_true ((h.exact.mpr he).symm.trans hup.symm)
    rw [hq, if_pos rfl]
    push_cast
    exact ⟨by linarith, by linarith [lt_of_le_of_ne ht0 htne.symm]⟩
  | false =>
    rw [hq, if_neg Bool.false_ne_true, h.exact.mp hup.symm]
    exact ⟨by linarith, by linarith⟩

theorem Splits.floor (hne : mode ≠ .ne) (haway : ¬ mode.Away neg) : (q : ℚ) ≤ lo + t ∧ (lo : ℚ) + t < q + 1 := by
  rw [hq, h.toward hne haway, if_neg Bool.false_ne_true]
  exact ⟨by linarith [h.nonneg], by linarith [h.lt_one]⟩

end

/-- A magnitude of `lo + t` units rounded, with a minus sign. -/
theorem Splits.intRounds_neg (h : Splits mode true lo t up nx) (hq : q = if up then lo + 1 else lo) : IntRounds mode (-(lo + t)) (-(q : Int)) := by
  have ha : (0 : ℚ) ≤ lo + t := add_nonneg (Nat.cast_nonneg lo) h.nonneg
  have hq0 : (0 : ℚ) ≤ q := Nat.cast_nonneg q
  rw [IntRounds, Int.cast_neg, Int.cast_natCast]
  refine ⟨fun hne => ?_, fun hz => ?_, fun hu => ?_, fun hd => ?_⟩
  · obtain ⟨h1, h2⟩ := h.near hq hne
    rw [neg_sub_neg, abs_sub_comm]
    exact ⟨h1, fun he => by have := h2 he; omega⟩
  · subst hz
    obtain ⟨h1, h2⟩ := h.floor hq (by decide) (Rnd.rz_not_away true)
    rw [abs_neg, abs_neg, abs_of_nonneg hq0, abs_of_nonneg ha, neg_mul_neg]
    exact ⟨h1, h2, mul_nonneg hq0 ha⟩
  · subst hu
    obtain ⟨h1, h2⟩ := h.floor hq (by decide) (by rintro (⟨-, hx⟩ | ⟨hx, -⟩) <;> exact nomatch hx)
    exact ⟨by linarith, by linarith⟩
  · obtain ⟨h1, h2⟩ := h.ceil hq (.inr ⟨hd, rfl⟩)
    exact ⟨by linarith, by linarith⟩

/-- The same without a sign. -/
theorem Splits.intRounds_pos (h : Splits mode false lo t up nx) (hq : q = if up then lo + 1 else lo) : IntRounds mode (lo + t) (q : Int) := by
  have ha : (0 : ℚ) ≤ lo + t := add_nonneg (Nat.cast_nonneg lo) h.nonneg
  have hq0 : (0 : ℚ) ≤ q := Nat.cast_nonneg q
  rw [IntRounds, Int.cast_natCast]
  refine ⟨fun hne => ?_, fun hz => ?_, fun hu => h.ceil hq (.inl ⟨hu, rfl⟩), fun hd => ?_⟩
  · obtain ⟨h1, h2⟩ := h.near hq hne
    exact ⟨h1, fun he => by have := h2 he; omega⟩
  · subst hz
    obtain ⟨h1, h2⟩ := h.floor hq (by decide) (Rnd.rz_not_away false)
    rw [abs_of_nonneg hq0, abs_of_nonneg ha]
    exact ⟨h1, h2, mul_nonneg hq0 ha⟩
  · subst hd
    exact h.floor hq (by decide) (by rintro (⟨hx, -⟩ | ⟨-, hx⟩) <;> exact nomatch hx)

/-- A magnitude is whole exactly where nothing is cut off it. -/
theorem Splits.exact_iff {neg : Bool} (h : Splits mode neg lo t up nx) (hq : q = if up then lo + 1 else lo) : nx = false ↔ (lo + t : ℚ) = q := by
  rw [h.exact]
  constructor
  · rintro rfl
    rw [hq, h.up_of_exact, if_neg Bool.false_ne_true, add_zero]
  · intro he
    have h0 := h.nonneg
    have h1 := h.lt_one
    rw [hq] at he
    split at he
    · push_cast at he
      linarith
    · linarith

end

/-- The integer part of a value below 1 unit's place, rounded. -/
def roundedUnits (mode : Rnd) (m : Int) (sh : Nat) : Nat :=
  if roundsUp mode (decide (m < 0)) (2 ^ sh) (m.natAbs / 2 ^ (sh + 1)) (m.natAbs % 2 ^ (sh + 1)) then m.natAbs / 2 ^ (sh + 1) + 1 else m.natAbs / 2 ^ (sh + 1)

theorem roundInt_fraction (mode : Rnd) (m : Int) (sh : Nat) : roundInt mode m (-((sh + 1 : Nat) : Int)) =
    (if decide (m < 0) then -(roundedUnits mode m sh : Int) else roundedUnits mode m sh, m.natAbs % 2 ^ (sh + 1) != 0) := by
  have hsh : (- -((sh + 1 : Nat) : Int)).toNat = sh + 1 := by omega
  unfold roundInt roundedUnits
  rw [if_neg (by omega), hsh]
  dsimp only
  rw [Nat.add_sub_cancel, Nat.cast_ite, Nat.cast_add, Nat.cast_one]
  cases mode <;> rfl

theorem roundInt_spec (mode : Rnd) (m e : Int) : IntRounds mode (m * 2 ^ e) (roundInt mode m e).1 ∧
    ((roundInt mode m e).2 = false ↔ ((roundInt mode m e).1 : ℚ) = m * 2 ^ e) := by
  by_cases he : 0 ≤ e
  · have heq : roundInt mode m e = (lowerTo m e 0, false) := if_pos he
    have hv : (m : ℚ) * 2 ^ e = (lowerTo m e 0 : Int) := by
      have := lowerTo_value m he
      rw [zpow_zero, mul_one] at this
      exact this.symm
    rw [heq, hv]
    exact ⟨intRounds_self mode _, fun _ => rfl, fun _ => rfl⟩
  · obtain ⟨sh, rfl⟩ : ∃ sh : Nat, e = -((sh + 1 : Nat) : Int) := ⟨(-e).toNat - 1, by omega⟩
    rw [roundInt_fraction]
    have hs := splits_cut mode (decide (m < 0)) m.natAbs sh
    have hval : (m.natAbs : ℚ) * 2 ^ (-((sh + 1 : Nat) : Int)) = (m.natAbs / 2 ^ (sh + 1) : Nat) + ((m.natAbs % 2 ^ (sh + 1) : Nat) : ℚ) / 2 ^ (sh + 1) := by
      have hq : (m.natAbs : ℚ) = 2 ^ (sh + 1) * ((m.natAbs / 2 ^ (sh + 1) : Nat) : ℚ) + ((m.natAbs % 2 ^ (sh + 1) : Nat) : ℚ) := by
        exact_mod_cast (Nat.div_add_mod m.natAbs (2 ^ (sh + 1))).symm
      have hP : (2 : ℚ) ^ (sh + 1) ≠ 0 := by positivity
      rw [zpow_neg, zpow_natCast, ← div_eq_mul_inv, div_eq_iff hP, add_mul, div_mul_cancel₀ _ hP]
      linarith
    rw [value_eq, hval]
    by_cases hneg : m < 0
    · rw [decide_eq_true hneg] at hs ⊢
      rw [signOf, if_pos rfl, if_pos rfl, neg_one_mul]
      have hq : roundedUnits mode m sh = if roundsUp mode true (2 ^ sh) (m.natAbs / 2 ^ (sh + 1)) (m.natAbs % 2 ^ (sh + 1)) then m.natAbs / 2 ^ (sh + 1) + 1 else
          m.natAbs / 2 ^ (sh + 1) := by rw [roundedUnits, decide_eq_true hneg]
      refine ⟨hs.intRounds_neg hq, (hs.exact_iff hq).trans ?_⟩
      rw [Int.cast_neg, Int.cast_natCast, neg_inj, eq_comm]
    · rw [decide_eq_false hneg] at hs ⊢
      rw [signOf, if_neg Bool.false_ne_true, if_neg Bool.false_ne_true, one_mul]
      have hq : roundedUnits mode m sh = if roundsUp mode false (2 ^ sh) (m.natAbs / 2 ^ (sh + 1)) (m.natAbs % 2 ^ (sh + 1)) then m.natAbs / 2 ^ (sh + 1) + 1 else
          m.natAbs / 2 ^ (sh + 1) := by rw [roundedUnits, decide_eq_false hneg]
      refine ⟨hs.intRounds_pos hq, (hs.exact_iff hq).trans ?_⟩
      rw [Int.cast_natCast, eq_comm]

/-- A format's range by its ends, saturated to. -/
theorem clamp_eq {lo hi : Int} (h : lo ≤ hi) (x : Int) : (if x < lo then lo else if hi < x then hi else x) = max lo (min x hi) := by
  split
  · omega
  · split <;> omega

theorem saturate_eq {c : Nat} {lo hi : Int} (hr : intRange c = (lo, hi)) (h : lo ≤ hi) (x : Int) : saturate c x = max lo (min x hi) := by
  rw [← clamp_eq h]
  unfold saturate
  rw [hr]

theorem roundTo_int {c : Nat} (hc : c ≠ 3 ∧ c ≠ 6) (mode : Rnd) (v : XVal) : roundTo c mode v = (BitVec.ofInt 32 (realToInt c mode v).1, (realToInt c mode v).2) :=
  (if_neg hc.1).trans (if_neg hc.2)

section
variable {c : Nat} {lo hi : Int} (hr : intRange c = (lo, hi))
include hr

theorem realToInt_fin (mode : Rnd) (m e : Int) : realToInt c mode (.fin m e) =
    if (roundInt mode m e).1 < lo then (lo, fNv) else if hi < (roundInt mode m e).1 then (hi, fNv) else ((roundInt mode m e).1, if (roundInt mode m e).2 then fNx else 0) := by
  unfold realToInt
  rw [hr]

theorem realToInt_inf (mode : Rnd) (n : Bool) : realToInt c mode (.inf n) = (if n then lo else hi, fNv) := by
  unfold realToInt
  rw [hr]

theorem realToInt_nan (mode : Rnd) : realToInt c mode .nan = (0, fNv) := by
  unfold realToInt
  rw [hr]

variable (hc : c ≠ 3 ∧ c ≠ 6) (h : lo ≤ hi)
include hc h

/-- A real value converted to an integer format. -/
theorem roundTo_int_fin (mode : Rnd) (m e : Int) : ∃ n : Int, IntRounds mode (m * 2 ^ e) n ∧
    roundTo c mode (.fin m e) = (BitVec.ofInt 32 (max lo (min n hi)), if n < lo ∨ hi < n then 0b00001 else if (n : ℚ) = m * 2 ^ e then 0 else 0b10000) := by
  obtain ⟨hspec, hexact⟩ := roundInt_spec mode m e
  refine ⟨(roundInt mode m e).1, hspec, ?_⟩
  rw [roundTo_int hc, realToInt_fin hr, ← clamp_eq h]
  generalize (roundInt mode m e).1 = n at hexact ⊢
  by_cases h1 : n < lo
  · rw [if_pos h1, if_pos h1, if_pos (.inl h1)]
    rfl
  · rw [if_neg h1, if_neg h1]
    by_cases h2 : hi < n
    · rw [if_pos h2, if_pos h2, if_pos (.inr h2)]
      rfl
    · rw [if_neg h2, if_neg h2, if_neg (not_or.mpr ⟨h1, h2⟩)]
      by_cases he : (n : ℚ) = m * 2 ^ e
      · rw [if_pos he, hexact.mpr he]
        rfl
      · have hnx : (roundInt mode m e).2 = true := by
          rw [← Bool.not_eq_false]
          exact mt hexact.mp he
        rw [if_neg he, hnx]
        rfl

end

/-! ### The amax scale (R69) -/

/-- The largest magnitude so far. -/
def amaxStep (acc x : XVal) : XVal := if x.isNaN then acc else if acc.lt x.abs then x.abs else acc

theorem amaxStep_inf (x : XVal) : amaxStep (.inf false) x = .inf false := by
  unfold amaxStep
  split
  · rfl
  · cases x <;> rfl

theorem foldl_amaxStep_inf (xs : List XVal) : xs.foldl amaxStep (.inf false) = .inf false := by
  induction xs with
  | nil => rfl
  | cons x xs ih => rw [List.foldl_cons, amaxStep_inf, ih]

theorem amaxStep_is {acc x : XVal} {v w : ℚ} (hacc : acc.Is v) (hx : x.Is w) : (amaxStep acc x).Is (max v |w|) := by
  have hlt := XVal.lt_iff hacc (XVal.abs_is hx)
  rw [amaxStep, XVal.isNaN_of_is hx, if_neg Bool.false_ne_true]
  split
  · rw [max_eq_right (hlt.mp ‹_›).le]
    exact XVal.abs_is hx
  · rw [max_eq_left (not_lt.mp (mt hlt.mpr ‹_›))]
    exact hacc

theorem amaxStep_to_inf {acc : XVal} {v : ℚ} (h : acc.Is v) (n : Bool) : amaxStep acc (.inf n) = .inf false := by
  obtain ⟨m, e, rfl, -⟩ | ⟨rfl, -⟩ := h <;> rfl

/-- Every exact value is NaN, an infinity, or stands for a rational. -/
theorem XVal.cases_is (x : XVal) : x = .nan ∨ (∃ n, x = .inf n) ∨ ∃ v, x.Is v := by
  cases x with
  | nan => exact .inl rfl
  | inf n => exact .inr (.inl ⟨n, rfl⟩)
  | negZero => exact .inr (.inr ⟨0, XVal.is_negZero⟩)
  | fin m e => exact .inr (.inr ⟨_, XVal.is_fin m e⟩)

theorem foldl_amaxStep_mem_inf {xs : List XVal} {n : Bool} (h : .inf n ∈ xs) {acc : XVal} {v : ℚ} (hacc : acc.Is v) : xs.foldl amaxStep acc = .inf false := by
  induction xs generalizing acc v with
  | nil => exact nomatch h
  | cons x xs ih =>
    rw [List.foldl_cons]
    obtain rfl | ⟨n', rfl⟩ | ⟨w, hw⟩ := x.cases_is
    · exact ih ((List.mem_cons.mp h).resolve_left (fun hx => nomatch hx)) hacc
    · rw [amaxStep_to_inf hacc, foldl_amaxStep_inf]
    · refine ih ((List.mem_cons.mp h).resolve_left ?_) (amaxStep_is hacc hw)
      rintro rfl
      obtain ⟨_, _, hx, -⟩ | ⟨hx, -⟩ := hw <;> exact nomatch hx

theorem foldl_amaxStep_is {xs : List XVal} {a : ℚ} (hle : ∀ x ∈ xs, x = .nan ∨ ∃ v, x.Is v ∧ |v| ≤ a) {acc : XVal} {v : ℚ} (hacc : acc.Is v) (hv : v ≤ a)
    (hmax : v = a ∨ ∃ x ∈ xs, ∃ w, x.Is w ∧ |w| = a) : (xs.foldl amaxStep acc).Is a := by
  induction xs generalizing acc v with
  | nil =>
    obtain rfl | ⟨x, hx, -⟩ := hmax
    · exact hacc
    · exact nomatch hx
  | cons x xs ih =>
    rw [List.foldl_cons]
    have hrest := fun y hy => hle y (List.mem_cons_of_mem x hy)
    obtain rfl | ⟨w, hw, hwa⟩ := hle x List.mem_cons_self
    · refine ih hrest hacc hv (hmax.imp_right ?_)
      rintro ⟨y, hy, u, hu, hua⟩
      refine ⟨y, (List.mem_cons.mp hy).resolve_left ?_, u, hu, hua⟩
      rintro rfl
      obtain ⟨_, _, hx, -⟩ | ⟨hx, -⟩ := hu <;> exact nomatch hx
    · refine ih hrest (amaxStep_is hacc hw) (max_le hv hwa) ?_
      obtain rfl | ⟨y, hy, u, hu, hua⟩ := hmax
      · exact .inl (max_eq_left hwa)
      · obtain rfl | hy := List.mem_cons.mp hy
        · left
          rw [XVal.is_unique hw hu, hua]
          exact max_eq_right hv
        · exact .inr ⟨y, hy, u, hu, hua⟩

/-- The least scale under which the magnitude `m * 2 ^ e` is at most `M`, before it is clamped. -/
def leastScale (M m : Nat) (e : Int) : Int :=
  if lowerTo m e (min e ((Nat.log2 m : Int) + e - (Nat.log2 M : Int))) ≤ lowerTo M ((Nat.log2 m : Int) + e - (Nat.log2 M : Int)) (min e ((Nat.log2 m : Int) + e - (Nat.log2 M : Int)))
  then (Nat.log2 m : Int) + e - (Nat.log2 M : Int) else (Nat.log2 m : Int) + e - (Nat.log2 M : Int) + 1

theorem amaxOf_eq (c : Nat) {m : Nat} (hm : m ≠ 0) (e : Int) : amaxOf c m e =
    if leastScale (fmtMax c) m e < -127 then -127 else if 127 < leastScale (fmtMax c) m e then 127 else leastScale (fmtMax c) m e := if_neg hm

/-- A magnitude between the powers of two around it. -/
theorem log2_bounds {m : Nat} (hm : m ≠ 0) : (2 : ℚ) ^ (Nat.log2 m : Int) ≤ m ∧ (m : ℚ) < 2 ^ ((Nat.log2 m : Int) + 1) := by
  have h1 := Nat.log2_self_le hm
  have h2 := Nat.lt_log2_self (n := m)
  have hcast : (2 : ℚ) ^ ((Nat.log2 m : Int) + 1) = ((2 ^ (Nat.log2 m + 1) : Nat) : ℚ) := by
    rw [← Nat.cast_succ, zpow_natCast]
    push_cast
    rfl
  rw [hcast, zpow_natCast]
  exact ⟨by exact_mod_cast h1, by exact_mod_cast h2⟩

theorem leastScale_spec {M m : Nat} (hM : M ≠ 0) (hm : m ≠ 0) (e : Int) :
    (m : ℚ) * 2 ^ e ≤ M * 2 ^ leastScale M m e ∧ (M : ℚ) * 2 ^ (leastScale M m e - 1) < m * 2 ^ e := by
  obtain ⟨hm1, hm2⟩ := log2_bounds hm
  obtain ⟨hM1, hM2⟩ := log2_bounds hM
  obtain ⟨s0, hs0⟩ : ∃ s0, s0 = (Nat.log2 m : Int) + e - (Nat.log2 M : Int) := ⟨_, rfl⟩
  have hcmp : lowerTo m e (min e s0) ≤ lowerTo M s0 (min e s0) ↔ (m : ℚ) * 2 ^ e ≤ M * 2 ^ s0 := by
    have h1 := lowerTo_value m (min_le_left e s0)
    have h2 := lowerTo_value M (min_le_right e s0)
    rw [Int.cast_natCast] at h1 h2
    rw [← h1, ← h2, mul_le_mul_iff_left₀ (two_zpow_pos _), Int.cast_le]
  have hup : (m : ℚ) * 2 ^ e ≤ M * 2 ^ (s0 + 1) := by
    calc (m : ℚ) * 2 ^ e ≤ 2 ^ ((Nat.log2 m : Int) + 1) * 2 ^ e := mul_le_mul_of_nonneg_right hm2.le (two_zpow_pos e).le
      _ = 2 ^ (Nat.log2 M : Int) * 2 ^ (s0 + 1) := by
        rw [← zpow_add₀ (by norm_num), ← zpow_add₀ (by norm_num), hs0]
        congr 1
        ring
      _ ≤ M * 2 ^ (s0 + 1) := mul_le_mul_of_nonneg_right hM1 (two_zpow_pos _).le
  have hdown : (M : ℚ) * 2 ^ (s0 - 1) < m * 2 ^ e := by
    calc (M : ℚ) * 2 ^ (s0 - 1) < 2 ^ ((Nat.log2 M : Int) + 1) * 2 ^ (s0 - 1) := mul_lt_mul_of_pos_right hM2 (two_zpow_pos _)
      _ = 2 ^ (Nat.log2 m : Int) * 2 ^ e := by
        rw [← zpow_add₀ (by norm_num), ← zpow_add₀ (by norm_num), hs0]
        congr 1
        ring
      _ ≤ m * 2 ^ e := mul_le_mul_of_nonneg_right hm1 (two_zpow_pos e).le
  rw [leastScale, ← hs0]
  split
  · exact ⟨hcmp.mp ‹_›, hdown⟩
  · rw [add_sub_cancel_right]
    exact ⟨hup, not_le.mp (mt hcmp.mpr ‹_›)⟩

/-- The clamped scale of a magnitude that is not zero. -/
theorem amaxOf_spec {c m : Nat} (hM : fmtMax c ≠ 0) (hm : m ≠ 0) (e : Int) {s : Int} (hs : s = amaxOf c m e) :
    -127 ≤ s ∧ s ≤ 127 ∧ (s < 127 → (m : ℚ) * 2 ^ e / 2 ^ s ≤ fmtMax c) ∧ (-127 < s → (fmtMax c : ℚ) < m * 2 ^ e / 2 ^ (s - 1)) := by
  obtain ⟨h1, h2⟩ := leastScale_spec hM hm e
  rw [amaxOf_eq c hm] at hs
  obtain ⟨s', hs'⟩ : ∃ s', s' = leastScale (fmtMax c) m e := ⟨_, rfl⟩
  rw [← hs'] at h1 h2 hs
  have hfit {k : Int} (hk : s' ≤ k) : (m : ℚ) * 2 ^ e / 2 ^ k ≤ fmtMax c := by
    rw [div_le_iff₀ (two_zpow_pos k)]
    exact h1.trans (mul_le_mul_of_nonneg_left (zpow_le_zpow_right₀ (by norm_num) hk) (Nat.cast_nonneg _))
  have hbig {k : Int} (hk : k ≤ s' - 1) : (fmtMax c : ℚ) < m * 2 ^ e / 2 ^ k := by
    rw [lt_div_iff₀ (two_zpow_pos k)]
    exact (mul_le_mul_of_nonneg_left (zpow_le_zpow_right₀ (by norm_num) hk) (Nat.cast_nonneg _)).trans_lt h2
  split at hs
  · exact ⟨by omega, by omega, fun _ => hfit (by omega), fun h => by omega⟩
  · split at hs
    · exact ⟨by omega, by omega, fun h => by omega, fun _ => hbig (by omega)⟩
    · exact ⟨by omega, by omega, fun _ => hfit (by omega), fun _ => hbig (by omega)⟩

section
variable {c : Nat} (hc : c ≠ 6) (xs : List XVal)
include hc

/-- The scale of a line's results by the largest magnitude. -/
def scaleOf (c : Nat) : XVal → Int
  | .inf _ => 127
  | .fin m e => amaxOf c m.natAbs e
  | .nan => 0
  | .negZero => 0

theorem amaxScale_eq : amaxScale c xs = scaleOf c (xs.foldl amaxStep .zero) := by
  have h : amaxScale c xs = _ := if_neg hc
  rw [h]
  have hfold : xs.foldl (fun (acc : XVal) x => if x.isNaN then acc else if acc.lt x.abs then x.abs else acc) .zero = xs.foldl amaxStep .zero := rfl
  rw [hfold]
  generalize xs.foldl amaxStep .zero = r
  cases r <;> rfl

theorem amaxScale_inf {n : Bool} (h : .inf n ∈ xs) : amaxScale c xs = 127 := by
  rw [amaxScale_eq hc, foldl_amaxStep_mem_inf h XVal.is_zero]
  rfl

/-- The amax scale of results of which the largest magnitude is `a`. -/
theorem amaxScale_spec (hM : fmtMax c ≠ 0) {a : ℚ} (hle : ∀ x ∈ xs, x = .nan ∨ ∃ v, x.Is v ∧ |v| ≤ a) (hmax : a = 0 ∨ ∃ x ∈ xs, ∃ v, x.Is v ∧ |v| = a) :
    (a = 0 → amaxScale c xs = 0) ∧ (a ≠ 0 → -127 ≤ amaxScale c xs ∧ amaxScale c xs ≤ 127 ∧ (amaxScale c xs < 127 → a / 2 ^ amaxScale c xs ≤ fmtMax c) ∧
      (-127 < amaxScale c xs → (fmtMax c : ℚ) < a / 2 ^ (amaxScale c xs - 1))) := by
  have ha : 0 ≤ a := by
    obtain rfl | ⟨x, -, v, -, rfl⟩ := hmax
    · exact le_rfl
    · exact abs_nonneg v
  have hr := foldl_amaxStep_is hle XVal.is_zero ha (hmax.imp_left Eq.symm)
  rw [amaxScale_eq hc]
  obtain ⟨m, e, hfin, rfl⟩ | ⟨hzero, rfl⟩ := hr
  · rw [hfin]
    have hm0 : 0 ≤ m := by
      by_contra hneg
      have hlt : (m : ℚ) < 0 := by exact_mod_cast not_le.mp hneg
      exact absurd (mul_neg_of_neg_of_pos hlt (two_zpow_pos e)) (not_lt.mpr ha)
    have hcast : (m : ℚ) = m.natAbs := by rw [Nat.cast_natAbs, abs_of_nonneg hm0]
    refine ⟨fun h => ?_, fun h => ?_⟩
    · have hm : m = 0 := by exact_mod_cast (mul_eq_zero.mp h).resolve_right (two_zpow_pos e).ne'
      rw [hm]
      rfl
    · have hm : m.natAbs ≠ 0 := by
        intro h0
        rw [hcast, h0, Nat.cast_zero, zero_mul] at h
        exact h rfl
      rw [hcast]
      exact amaxOf_spec hM hm e rfl
  · rw [hzero]
    exact ⟨fun _ => rfl, fun h => absurd rfl h⟩

end

end Sys2Proof.Machine
end

section
namespace Sys2Proof.Machine

/-! ### The statement's parts (O59) -/

/-- The sign of an f32 result is the value's. -/
theorem roundF32_sign {m : Int} (hm : m ≠ 0) (mode : Rnd) (e : Int) : (roundF32 mode (.fin m e)).1.getLsbD 31 = decide (m < 0) := by
  have hr := roundMag_rounds (decide (m < 0)) (Int.natAbs_ne_zero.mpr hm) e 23 (some (-149)) mode
  have hl := hr.place _ rfl
  rw [roundF32_eq hm, packF32]
  split
  · exact f32Of_sign _ (by split <;> norm_num)
  · rename_i ho
    have hbits := encodeBits_lt (K := 253) hl hr.le (not_le.mp (mt (f32_over_iff hl).mpr ho))
    exact f32Of_sign _ (hbits.trans_le (by norm_num))

theorem roundTo_special (mode : Rnd) (e : Int) (n : Bool) :
    roundTo 6 mode .nan = (0x7FC00000, 0) ∧ roundTo 3 mode .nan = (0x80, 0) ∧
      roundTo 6 mode (.inf n) = (if n then 0xFF800000 else 0x7F800000, 0) ∧ roundTo 3 mode (.inf n) = (if n then 0xFF else 0x7F, 1) ∧
      roundTo 6 mode (.fin 0 e) = (0, 0) ∧ roundTo 6 mode .negZero = (0x80000000, 0) ∧ roundTo 3 mode (.fin 0 e) = (0, 0) ∧
      roundTo 3 mode .negZero = (0, 0) := by
  refine ⟨rfl, rfl, rfl, ?_, rfl, rfl, rfl, rfl⟩
  cases n <;> rfl

/-- What the statement asks of an integer format. -/
def IntFormat (c : Nat) (lo hi : Int) : Prop :=
  (∀ mode, roundTo c mode .nan = (0, 1) ∧ roundTo c mode (.inf true) = (BitVec.ofInt 32 lo, 1) ∧ roundTo c mode (.inf false) = (BitVec.ofInt 32 hi, 1)) ∧
    (∀ n, saturate c n = max lo (min n hi)) ∧
    ∀ (mode : Rnd) (m e : Int), ∃ n : Int, (mode = .ne → |(m : ℚ) * 2 ^ e - n| ≤ 1 / 2 ∧ (|(m : ℚ) * 2 ^ e - n| = 1 / 2 → n % 2 = 0)) ∧
      (mode = .rz → |(n : ℚ)| ≤ |(m : ℚ) * 2 ^ e| ∧ |(m : ℚ) * 2 ^ e| < |(n : ℚ)| + 1 ∧ 0 ≤ n * ((m : ℚ) * 2 ^ e)) ∧
      (mode = .ru → (m : ℚ) * 2 ^ e ≤ n ∧ n < (m : ℚ) * 2 ^ e + 1) ∧ (mode = .rd → n ≤ (m : ℚ) * 2 ^ e ∧ (m : ℚ) * 2 ^ e < n + 1) ∧
      roundTo c mode (.fin m e) = (BitVec.ofInt 32 (max lo (min n hi)), if n < lo ∨ hi < n then 0b00001 else if (n : ℚ) = m * 2 ^ e then 0 else 0b10000)

theorem intFormat {c : Nat} {lo hi : Int} (hr : intRange c = (lo, hi)) (hc : c ≠ 3 ∧ c ≠ 6) (h : lo ≤ hi) : IntFormat c lo hi := by
  refine ⟨fun mode => ⟨?_, ?_, ?_⟩, saturate_eq hr h, fun mode m e => ?_⟩
  · rw [roundTo_int hc, realToInt_nan hr]
    rfl
  · rw [roundTo_int hc, realToInt_inf hr]
    rfl
  · rw [roundTo_int hc, realToInt_inf hr]
    rfl
  · obtain ⟨n, ⟨h1, h2, h3, h4⟩, heq⟩ := roundTo_int_fin hr hc h mode m e
    exact ⟨n, h1, h2, h3, h4, heq⟩

/-- What the statement asks of the amax scale of a format. -/
def AmaxFormat (c : Nat) (M : ℚ) : Prop := ∀ xs : List XVal,
  (.inf true ∈ xs ∨ .inf false ∈ xs → amaxScale c xs = 127) ∧
    (∀ a : ℚ, (∀ x ∈ xs, x = .nan ∨ ∃ v, x.Is v ∧ |v| ≤ a) → (a = 0 ∨ ∃ x ∈ xs, ∃ v, x.Is v ∧ |v| = a) →
      (a = 0 → amaxScale c xs = 0) ∧ (a ≠ 0 → -127 ≤ amaxScale c xs ∧ amaxScale c xs ≤ 127 ∧ (amaxScale c xs < 127 → a / 2 ^ amaxScale c xs ≤ M) ∧
        (-127 < amaxScale c xs → M < a / 2 ^ (amaxScale c xs - 1))))

theorem amaxFormat {c : Nat} {M : ℚ} (hc : c ≠ 6) (hM : (fmtMax c : ℚ) = M) (h0 : M ≠ 0) : AmaxFormat c M := by
  subst hM
  exact fun xs => ⟨fun h => h.elim (amaxScale_inf hc xs) (amaxScale_inf hc xs), fun a hle hmax => amaxScale_spec hc xs (by exact_mod_cast h0) hle hmax⟩

/-- The values of patterns, as the statement writes them. -/
theorem patterns_hold (s : Int) (p : BitVec 32) :
    PatIs 1 s p ((((p.toNat % 2 ^ 8 : Nat) : ℚ) - (if 128 ≤ p.toNat % 2 ^ 8 then 256 else 0 : ℚ)) * 2 ^ s) ∧ PatIs 2 s p ((p.toNat % 2 ^ 8 : Nat) * 2 ^ s) ∧
    PatIs 4 s p (((p.toNat : ℚ) - (if (2 ^ 31 : Nat) ≤ p.toNat then 2 ^ 32 else 0 : ℚ)) * 2 ^ s) ∧ PatIs 5 s p (p.toNat * 2 ^ s) ∧
    (p.toNat % 2 ^ 8 = 0x80 → patValue 3 s p = some .nan) ∧
    (p.toNat % 2 ^ 8 ≠ 0x80 → PatIs 3 s p ((if p.getLsbD 7 then -1 else 1) * (if p.toNat % 2 ^ 8 / 8 % 16 = 0 then ((p.toNat % 2 ^ 8 % 8 : Nat) : ℚ) / 8 * 2 ^ (-6 : Int) else
      (1 + ((p.toNat % 2 ^ 8 % 8 : Nat) : ℚ) / 8) * 2 ^ (((p.toNat % 2 ^ 8 / 8 % 16 : Nat) : Int) - 7)) * 2 ^ s)) ∧
    (p.toNat / 2 ^ 23 % 2 ^ 8 = 255 → patValue 6 s p = some (if p.toNat % 2 ^ 23 = 0 then .inf (p.getLsbD 31) else .nan)) ∧
    (p.toNat / 2 ^ 23 % 2 ^ 8 ≠ 255 → PatIs 6 s p ((if p.getLsbD 31 then -1 else 1) * (if p.toNat / 2 ^ 23 % 2 ^ 8 = 0 then ((p.toNat % 2 ^ 23 : Nat) : ℚ) / 2 ^ 23 * 2 ^ (-126 : Int) else
      (1 + ((p.toNat % 2 ^ 23 : Nat) : ℚ) / 2 ^ 23) * 2 ^ (((p.toNat / 2 ^ 23 % 2 ^ 8 : Nat) : Int) - 127)) * 2 ^ s)) ∧
    (patValue 6 s p = some .negZero ↔ p = 0x80000000) ∧ (∀ c, c = 0 ∨ 7 ≤ c → patValue c s p = none) := by
  refine ⟨patIs_i8 s p, patIs_u8 s p, patIs_i32 s p, patIs_u32 s p, patValue_lf8_nan s p, fun h => ?_, patValue_f32_special s p, fun h => ?_, patValue_negZero_iff s p,
    fun c hc => patValue_none s p hc⟩
  · rw [← magOf_lf8]
    exact patIs_lf8 s p h
  · rw [← magOf_f32]
    exact patIs_f32 s p h

/-- The pads of the formats. -/
theorem padValue_int {c : Nat} {lo hi : Int} (hi' : isInt c = true) (hr : intRange c = (lo, hi)) : padValue c 0 = .fin 0 0 ∧ padValue c 1 = .fin lo 0 ∧ padValue c 2 = .fin hi 0 := by
  have hpad (k : Nat) : padValue c k = .fin (padInt c k) 0 := if_pos hi'
  have h1 : padInt c 1 = (intRange c).1 := rfl
  have h2 : padInt c 2 = (intRange c).2 := rfl
  rw [hpad, hpad, hpad, h1, h2, hr]
  exact ⟨rfl, rfl, rfl⟩

/-- Exact arithmetic on values that stand for rationals. -/
theorem exact_arithmetic {x y : XVal} {v w : ℚ} (s : Int) (hx : x.Is v) (hy : y.Is w) :
    (x.add y).1.Is (v + w) ∧ (x.add y).2 = 0 ∧ (x.mul y).1.Is (v * w) ∧ (x.mul y).2 = 0 ∧ x.neg.Is (-v) ∧ x.abs.Is |v| ∧ (x.scale s).Is (v * 2 ^ s) ∧
    (x.lt y = true ↔ v < w) ∧ (x.eq y = true ↔ v = w) ∧ (x.min y).Is (min v w) ∧ (x.max y).Is (max v w) ∧
    (v + w = 0 → ((x.add y).1 = .negZero ↔ x = .negZero ∧ y = .negZero)) ∧ (v = 0 → ∀ n, x.mul (.inf n) = (.nan, 1) ∧ (XVal.inf n).mul x = (.nan, 1)) := by
  obtain ⟨ha, haf⟩ := XVal.add_is hx hy
  obtain ⟨hm, hmf⟩ := XVal.mul_is hx hy
  refine ⟨ha, haf, hm, hmf, XVal.neg_is hx, XVal.abs_is hx, XVal.scale_is hx s, XVal.lt_iff hx hy, XVal.eq_iff hx hy, XVal.min_is hx hy, XVal.max_is hx hy,
    fun _ => XVal.add_negZero_iff hx hy, fun h0 n => ?_⟩
  subst h0
  exact XVal.zero_mul_inf hx n

/-- Settles O59: the formats' values, roundings, scales, pads, weights and exact arithmetic. -/
theorem numberFormatsConvert : Obligations.NumberFormatsConvert := by
  unfold Obligations.NumberFormatsConvert
  intro sgn two
  refine ⟨fun s p => patterns_hold s p, ⟨fun mode m e hm => roundF32_roundsAs hm e mode, fun mode m e hm => ?_⟩, fun mode m e hm => roundF32_sign hm mode e, roundTo_special,
    ⟨intFormat rfl (by decide) (by decide), intFormat rfl (by decide) (by decide), intFormat rfl (by decide) (by decide), intFormat rfl (by decide) (by decide)⟩,
    fun _ => rfl, ⟨?_, ?_, ?_, ?_, ?_⟩, ?_, fun x row j s hj => cb2Weight_is x row hj s, fun x y v w s hx hy => exact_arithmetic s hx hy, fun x n => ?_⟩
  · exact roundLf8_roundsAs hm e mode
  · exact amaxFormat (by decide) (by norm_num [fmtMax]) (by norm_num)
  · exact amaxFormat (by decide) (by norm_num [fmtMax]) (by norm_num)
  · exact amaxFormat (by decide) (by norm_num [fmtMax]) (by norm_num)
  · exact amaxFormat (by decide) (by norm_num [fmtMax]) (by norm_num)
  · exact amaxFormat (by decide) (by norm_num [fmtMax]) (by norm_num)
  · exact ⟨padValue_int rfl rfl, padValue_int rfl rfl, ⟨rfl, rfl, rfl⟩, padValue_int rfl rfl, padValue_int rfl rfl, rfl, rfl, rfl, rfl, rfl, fun c k _ => padBad_iff c k⟩
  · exact ⟨XVal.inf_add_inf n, rfl, XVal.add_nan x, rfl, XVal.mul_nan x, XVal.min_nan x, rfl, XVal.max_nan x, rfl, rfl, rfl, rfl, rfl⟩

end Sys2Proof.Machine
end
